-- ==== Sys2Proof/Word.lean ====
section
/-! DEFINITION. The words of the machine and their plainest arithmetic. Bit 0 is the least significant bit (R3). -/

namespace Sys2Proof

/-- One byte. -/
abbrev Byte := BitVec 8

/-- One instruction word (R138). -/
abbrev Word := BitVec 32

/-- One 64-bit register value. -/
abbrev Dword := BitVec 64

end Sys2Proof
end

