-- ==== Sys2Proof/Machine/Tab.lean ====
section
/-! DEFINITION. Sparse tables and byte helpers: plain lists of (key, value) pairs in rising order of key, with one reader
and one writer, and the bit-field and byte-order helpers that every other file uses (R3, R4). -/

namespace Sys2Proof

/-- A sparse table: pairs in rising order of key. A key that is not listed reads as the default its reader names. -/
abbrev Tab (α : Type) := List (Nat × α)

namespace Machine

/-- The value stored under k, or d. -/
def tabGet {α : Type} (d : α) : Tab α → Nat → α
  | [], _ => d
  | (j, v) :: t, k => if j = k then v else if k < j then d else tabGet d t k

/-- Stores v under k. -/
def tabPut {α : Type} : Tab α → Nat → α → Tab α
  | [], k, v => [(k, v)]
  | (j, w) :: t, k, v =>
    if j = k then (k, v) :: t else if k < j then (k, v) :: (j, w) :: t else (j, w) :: tabPut t k v

/-- Removes k. -/
def tabDel {α : Type} : Tab α → Nat → Tab α
  | [], _ => []
  | (j, w) :: t, k => if j = k then t else (j, w) :: tabDel t k

/-- The value stored under k, if any. -/
def tabFind {α : Type} : Tab α → Nat → Option α
  | [], _ => none
  | (j, v) :: t, k => if j = k then some v else if k < j then none else tabFind t k

/-- The keys listed, rising. -/
def tabKeys {α : Type} (t : Tab α) : List Nat := t.map (·.1)

/-- A set of numbers as a rising list without repeats: member, insert, erase. -/
def setHas : List Nat → Nat → Bool
  | [], _ => false
  | j :: t, k => if j = k then true else setHas t k

/-- Inserts k into a rising list. -/
def setAdd : List Nat → Nat → List Nat
  | [], k => [k]
  | j :: t, k => if j = k then j :: t else if k < j then k :: j :: t else j :: setAdd t k

/-- Erases k from a rising list. -/
def setDel : List Nat → Nat → List Nat
  | [], _ => []
  | j :: t, k => if j = k then setDel t k else j :: setDel t k

/-- Bits [lo + w - 1 : lo] of a number. -/
def bits (v lo w : Nat) : Nat := v / 2 ^ lo % 2 ^ w

/-- Bit i of a number. -/
def bit (v i : Nat) : Bool := v / 2 ^ i % 2 == 1

/-- 1 for true, 0 for false. -/
def b2n (b : Bool) : Nat := if b then 1 else 0

/-- The number whose bits are x below bit w and y from bit w up. -/
def glue (x w y : Nat) : Nat := x % 2 ^ w + y * 2 ^ w

/-- Field v placed at bit lo with width w. -/
def place (v lo w : Nat) : Nat := v % 2 ^ w * 2 ^ lo

/-- A signed reading of the low w bits of v. -/
def sgn (v w : Nat) : Int :=
  let m := v % 2 ^ w
  if m < 2 ^ (w - 1) then (m : Int) else (m : Int) - (2 ^ w : Nat)

/-- The low w bits of an integer. -/
def wrap (x : Int) (w : Nat) : Nat := (x % (2 ^ w : Nat)).toNat

/-- The number a list of bytes spells, little-endian (R3). -/
def leNat : List Byte → Nat
  | [] => 0
  | b :: t => b.toNat + 256 * leNat t

/-- The n low bytes of a number, little-endian (R3). -/
def leBytes : Nat → Nat → List Byte
  | 0, _ => []
  | n + 1, v => BitVec.ofNat 8 v :: leBytes n (v / 256)

/-- Index of the lowest set bit among the low n bits of v, or n. -/
def lowBit : Nat → Nat → Nat
  | 0, _ => 0
  | n + 1, v => if v % 2 = 1 then 0 else 1 + lowBit n (v / 2)

/-- Number of set bits among the low n bits of v. -/
def popCount : Nat → Nat → Nat
  | 0, _ => 0
  | n + 1, v => v % 2 + popCount n (v / 2)

/-- The indices below n of the set bits of v, rising. -/
def setBits (n v : Nat) : List Nat := (List.range n).filter (bit v)

/-- Number of binary digits of v (0 for 0). -/
def bitLen (v : Nat) : Nat := if v = 0 then 0 else Nat.log2 v + 1

/-- Division of naturals rounded up. -/
def ceilDiv (a b : Nat) : Nat := (a + b - 1) / b

/-- Element i of a list of numbers, or 0. -/
def nth (l : List Nat) (i : Nat) : Nat := l.getD i 0

/-- The list cut into pieces of n elements; fuel is the length. -/
def chunksAux {α : Type} (n : Nat) : Nat → List α → List (List α)
  | 0, _ => []
  | _ + 1, [] => []
  | f + 1, l => l.take n :: chunksAux n f (l.drop n)

/-- The list cut into pieces of n elements, the last one maybe shorter. -/
def chunks {α : Type} (n : Nat) (l : List α) : List (List α) := chunksAux n l.length l

/-- The list with element i replaced. -/
def setNth {α : Type} : List α → Nat → α → List α
  | [], _, _ => []
  | _ :: t, 0, v => v :: t
  | a :: t, i + 1, v => a :: setNth t i v

/-- Inserts an element by a strict order, after its equals. -/
def insertBy {α : Type} (lt : α → α → Bool) (a : α) : List α → List α
  | [] => [a]
  | b :: t => if lt a b then a :: b :: t else b :: insertBy lt a t

/-- Stable insertion sort. -/
def sortBy {α : Type} (lt : α → α → Bool) (l : List α) : List α := l.foldl (fun acc a => insertBy lt a acc) []

end Machine
end Sys2Proof
end

