-- ==== Sys2Proof/Syntax.lean ====
section
/-! DEFINITION. The instructions, one constructor per row of spec/opcode_table.json, with the fields that row gives.
Words of 32 bits stand first (R138 to R153), then the collective step words (R328, R333), then the part's other steps
(spec/95), whose arguments say which unit takes the step and what reaches it from outside. -/

namespace Sys2Proof

/-- The fields of a collective transfer step below its op (R328), [59:0] but for the zero bits [10:0]. -/
structure StepFields where
  pm : BitVec 2
  pv : BitVec 22
  sbuf : BitVec 3
  dbuf : BitVec 3
  ca : BitVec 2
  cl : BitVec 2
  lc : BitVec 2
  coff : BitVec 8
  rop : BitVec 3
  par : BitVec 1
  ns : BitVec 1
  deriving DecidableEq, Repr

/-- The instruction set of the Ikiud Blunte. -/
inductive Instr where
  /-- Writes d = a + b modulo 2^64. (R162) -/
  | add (d : BitVec 5) (n : BitVec 1) (a : BitVec 6) (b : BitVec 6)
  /-- Writes d = a - b modulo 2^64. (R162) -/
  | sub (d : BitVec 5) (n : BitVec 1) (a : BitVec 6) (b : BitVec 6)
  /-- Writes the bitwise AND of a and b to d. (R162) -/
  | and (d : BitVec 5) (n : BitVec 1) (a : BitVec 6) (b : BitVec 6)
  /-- Writes the bitwise OR of a and b to d. (R162) -/
  | or (d : BitVec 5) (n : BitVec 1) (a : BitVec 6) (b : BitVec 6)
  /-- Writes the bitwise XOR of a and b to d. (R162) -/
  | xor (d : BitVec 5) (n : BitVec 1) (a : BitVec 6) (b : BitVec 6)
  /-- Writes a AND NOT b to d. (R162) -/
  | andn (d : BitVec 5) (n : BitVec 1) (a : BitVec 6) (b : BitVec 6)
  /-- Writes a OR NOT b to d. (R162) -/
  | orn (d : BitVec 5) (n : BitVec 1) (a : BitVec 6) (b : BitVec 6)
  /-- Writes a shifted left by b[5:0] to d. (R162) -/
  | shl (d : BitVec 5) (n : BitVec 1) (a : BitVec 6) (b : BitVec 6)
  /-- Writes a shifted right logically by b[5:0] to d. (R162) -/
  | shr (d : BitVec 5) (n : BitVec 1) (a : BitVec 6) (b : BitVec 6)
  /-- Writes a shifted right arithmetically by b[5:0] to d. (R162) -/
  | sar (d : BitVec 5) (n : BitVec 1) (a : BitVec 6) (b : BitVec 6)
  /-- Writes a rotated left by b[5:0] to d. (R162) -/
  | rol (d : BitVec 5) (n : BitVec 1) (a : BitVec 6) (b : BitVec 6)
  /-- Writes the signed minimum of a and b to d. (R162) -/
  | min (d : BitVec 5) (n : BitVec 1) (a : BitVec 6) (b : BitVec 6)
  /-- Writes the signed maximum of a and b to d. (R162) -/
  | max (d : BitVec 5) (n : BitVec 1) (a : BitVec 6) (b : BitVec 6)
  /-- Writes the unsigned minimum of a and b to d. (R162) -/
  | minn (d : BitVec 5) (n : BitVec 1) (a : BitVec 6) (b : BitVec 6)
  /-- Writes the unsigned maximum of a and b to d. (R162) -/
  | maxn (d : BitVec 5) (n : BitVec 1) (a : BitVec 6) (b : BitVec 6)
  /-- Writes 1 to d when a equals b, else 0. (R162) -/
  | seq (d : BitVec 5) (n : BitVec 1) (a : BitVec 6) (b : BitVec 6)
  /-- Writes 1 to d when a differs from b, else 0. (R162) -/
  | sne (d : BitVec 5) (n : BitVec 1) (a : BitVec 6) (b : BitVec 6)
  /-- Writes 1 to d when a < b signed. (R162) -/
  | slt (d : BitVec 5) (n : BitVec 1) (a : BitVec 6) (b : BitVec 6)
  /-- Writes 1 to d when a < b unsigned. (R162) -/
  | sltn (d : BitVec 5) (n : BitVec 1) (a : BitVec 6) (b : BitVec 6)
  /-- Writes 1 to d when a <= b signed. (R162) -/
  | sle (d : BitVec 5) (n : BitVec 1) (a : BitVec 6) (b : BitVec 6)
  /-- Writes 1 to d when a <= b unsigned. (R162) -/
  | slen (d : BitVec 5) (n : BitVec 1) (a : BitVec 6) (b : BitVec 6)
  /-- Writes the number of leading zeros of a to d. (R162) -/
  | clz (d : BitVec 5) (n : BitVec 1) (a : BitVec 6)
  /-- Writes the number of trailing zeros of a to d. (R162) -/
  | ctz (d : BitVec 5) (n : BitVec 1) (a : BitVec 6)
  /-- Writes the number of set bits of a to d. (R162) -/
  | popc (d : BitVec 5) (n : BitVec 1) (a : BitVec 6)
  /-- Writes a plus the sign-extended imm14 to d. (R163) -/
  | addi (d : BitVec 5) (n : BitVec 1) (a : BitVec 6) (i : BitVec 14)
  /-- Writes a AND the sign-extended imm14 to d. (R163) -/
  | andi (d : BitVec 5) (n : BitVec 1) (a : BitVec 6) (i : BitVec 14)
  /-- Writes a OR the zero-extended imm14 to d. (R163) -/
  | ori (d : BitVec 5) (n : BitVec 1) (a : BitVec 6) (i : BitVec 14)
  /-- Writes a XOR the zero-extended imm14 to d. (R163) -/
  | xori (d : BitVec 5) (n : BitVec 1) (a : BitVec 6) (i : BitVec 14)
  /-- Shifts a left by an immediate amount into d. (R163) -/
  | shli (d : BitVec 5) (n : BitVec 1) (a : BitVec 6) (s : BitVec 6)
  /-- Shifts a right logically by an immediate amount into d. (R163) -/
  | shri (d : BitVec 5) (n : BitVec 1) (a : BitVec 6) (s : BitVec 6)
  /-- Shifts a right arithmetically by an immediate amount into d. (R163) -/
  | sari (d : BitVec 5) (n : BitVec 1) (a : BitVec 6) (s : BitVec 6)
  /-- Rotates a left by an immediate amount into d. (R163) -/
  | roli (d : BitVec 5) (n : BitVec 1) (a : BitVec 6) (s : BitVec 6)
  /-- Writes 1 to d when a equals the sign-extended imm12. (R163) -/
  | seqi (d : BitVec 5) (n : BitVec 1) (a : BitVec 6) (i : BitVec 12)
  /-- Writes 1 to d when a is below the sign-extended imm12, signed. (R163) -/
  | slti (d : BitVec 5) (n : BitVec 1) (a : BitVec 6) (i : BitVec 12)
  /-- Writes 1 to d when a is below the zero-extended imm12, unsigned. (R163) -/
  | sltni (d : BitVec 5) (n : BitVec 1) (a : BitVec 6) (i : BitVec 12)
  /-- Writes a + (b << s) to d. (R164) -/
  | lea (d : BitVec 5) (n : BitVec 1) (a : BitVec 6) (b : BitVec 6) (s : BitVec 8)
  /-- Writes the low 64 bits of a times b to d. (R165) -/
  | mul (d : BitVec 5) (n : BitVec 1) (a : BitVec 6) (b : BitVec 6)
  /-- Writes the high 64 bits of the signed product to d. (R165) -/
  | mulh (d : BitVec 5) (n : BitVec 1) (a : BitVec 6) (b : BitVec 6)
  /-- Writes the high 64 bits of the unsigned product to d. (R165) -/
  | mulhn (d : BitVec 5) (n : BitVec 1) (a : BitVec 6) (b : BitVec 6)
  /-- Writes the signed quotient truncated toward zero, with fixed extreme cases. (R165) -/
  | div (d : BitVec 5) (n : BitVec 1) (a : BitVec 6) (b : BitVec 6)
  /-- Writes the unsigned quotient to d. (R165) -/
  | divn (d : BitVec 5) (n : BitVec 1) (a : BitVec 6) (b : BitVec 6)
  /-- Writes the signed remainder to d. (R165) -/
  | rem (d : BitVec 5) (n : BitVec 1) (a : BitVec 6) (b : BitVec 6)
  /-- Writes the unsigned remainder to d. (R165) -/
  | remn (d : BitVec 5) (n : BitVec 1) (a : BitVec 6) (b : BitVec 6)
  /-- Sets predicate pd to a == b. (R166) -/
  | peq (d : BitVec 3) (a : BitVec 6) (b : BitVec 6)
  /-- Sets predicate pd to a != b. (R166) -/
  | pne (d : BitVec 3) (a : BitVec 6) (b : BitVec 6)
  /-- Sets predicate pd to a < b signed. (R166) -/
  | plt (d : BitVec 3) (a : BitVec 6) (b : BitVec 6)
  /-- Sets predicate pd to a < b unsigned. (R166) -/
  | pltn (d : BitVec 3) (a : BitVec 6) (b : BitVec 6)
  /-- Sets predicate pd to a <= b signed. (R166) -/
  | ple (d : BitVec 3) (a : BitVec 6) (b : BitVec 6)
  /-- Sets predicate pd to a <= b unsigned. (R166) -/
  | plen (d : BitVec 3) (a : BitVec 6) (b : BitVec 6)
  /-- Sets pd to pa AND pb. (R166) -/
  | pand (d : BitVec 3) (a : BitVec 3) (b : BitVec 3)
  /-- Sets pd to pa OR pb. (R166) -/
  | por (d : BitVec 3) (a : BitVec 3) (b : BitVec 3)
  /-- Sets pd to pa XOR pb. (R166) -/
  | pxor (d : BitVec 3) (a : BitVec 3) (b : BitVec 3)
  /-- Sets pd to NOT pa. (R166) -/
  | pnot (d : BitVec 3) (a : BitVec 3)
  /-- Inverts predicate pd. (R166) -/
  | ptog (d : BitVec 3)
  /-- Writes a or b to d according to predicate pk XOR inv. (R167) -/
  | sel (d : BitVec 5) (n : BitVec 1) (a : BitVec 6) (b : BitVec 6) (v : BitVec 1) (p : BitVec 3)
  /-- Loads one byte, sign-extended, into d. (R168) -/
  | ldS8 (d : BitVec 5) (b : BitVec 6) (o : BitVec 12)
  /-- Loads one byte, zero-extended, into d. (R168) -/
  | ldN8 (d : BitVec 5) (b : BitVec 6) (o : BitVec 12)
  /-- Loads two bytes, sign-extended, into d. (R168) -/
  | ldS16 (d : BitVec 5) (b : BitVec 6) (o : BitVec 12)
  /-- Loads two bytes, zero-extended, into d. (R168) -/
  | ldN16 (d : BitVec 5) (b : BitVec 6) (o : BitVec 12)
  /-- Loads four bytes, sign-extended, into d. (R168) -/
  | ldS32 (d : BitVec 5) (b : BitVec 6) (o : BitVec 12)
  /-- Loads four bytes, zero-extended, into d. (R168) -/
  | ldN32 (d : BitVec 5) (b : BitVec 6) (o : BitVec 12)
  /-- Loads eight bytes into d. (R168) -/
  | ldD (d : BitVec 5) (b : BitVec 6) (o : BitVec 12)
  /-- Stores the low byte of s. (R168) -/
  | stB (s : BitVec 5) (b : BitVec 6) (o : BitVec 12)
  /-- Stores the low two bytes of s. (R168) -/
  | stH (s : BitVec 5) (b : BitVec 6) (o : BitVec 12)
  /-- Stores the low four bytes of s. (R168) -/
  | stW (s : BitVec 5) (b : BitVec 6) (o : BitVec 12)
  /-- Stores all eight bytes of s. (R168) -/
  | stD (s : BitVec 5) (b : BitVec 6) (o : BitVec 12)
  /-- Stores four bytes to pond and sets the granule full. (R170) -/
  | stfW (s : BitVec 5) (b : BitVec 6) (o : BitVec 12)
  /-- Stores eight bytes to pond and sets the granule full. (R170) -/
  | stfD (s : BitVec 5) (b : BitVec 6) (o : BitVec 12)
  /-- Waits for a full granule, then loads four bytes leaving it full. (R170) -/
  | ldfWKeep (d : BitVec 5) (b : BitVec 6) (o : BitVec 12)
  /-- Waits for a full granule, loads four bytes and clears the granule. (R170) -/
  | ldfWTake (d : BitVec 5) (b : BitVec 6) (o : BitVec 12)
  /-- Waits for a full granule, then loads eight bytes leaving it full. (R170) -/
  | ldfDKeep (d : BitVec 5) (b : BitVec 6) (o : BitVec 12)
  /-- Waits for a full granule, loads eight bytes and clears the granule. (R170) -/
  | ldfDTake (d : BitVec 5) (b : BitVec 6) (o : BitVec 12)
  /-- Atomically adds v to a 32-bit word and returns the old value. (R171) -/
  | aaddW (d : BitVec 5) (n : BitVec 1) (a : BitVec 6) (b : BitVec 6)
  /-- Atomically adds v to a 64-bit word and returns the old value. (R171) -/
  | aaddD (d : BitVec 5) (n : BitVec 1) (a : BitVec 6) (b : BitVec 6)
  /-- Atomic unsigned saturating add on a 32-bit word. (R171) -/
  | asaddW (d : BitVec 5) (n : BitVec 1) (a : BitVec 6) (b : BitVec 6)
  /-- Atomic unsigned saturating add on a 64-bit word. (R171) -/
  | asaddD (d : BitVec 5) (n : BitVec 1) (a : BitVec 6) (b : BitVec 6)
  /-- Atomic signed minimum on a 32-bit word. (R171) -/
  | aminW (d : BitVec 5) (n : BitVec 1) (a : BitVec 6) (b : BitVec 6)
  /-- Atomic signed minimum on a 64-bit word. (R171) -/
  | aminD (d : BitVec 5) (n : BitVec 1) (a : BitVec 6) (b : BitVec 6)
  /-- Atomic signed maximum on a 32-bit word. (R171) -/
  | amaxW (d : BitVec 5) (n : BitVec 1) (a : BitVec 6) (b : BitVec 6)
  /-- Atomic signed maximum on a 64-bit word. (R171) -/
  | amaxD (d : BitVec 5) (n : BitVec 1) (a : BitVec 6) (b : BitVec 6)
  /-- Atomic unsigned minimum on a 32-bit word. (R171) -/
  | aminnW (d : BitVec 5) (n : BitVec 1) (a : BitVec 6) (b : BitVec 6)
  /-- Atomic unsigned minimum on a 64-bit word. (R171) -/
  | aminnD (d : BitVec 5) (n : BitVec 1) (a : BitVec 6) (b : BitVec 6)
  /-- Atomic unsigned maximum on a 32-bit word. (R171) -/
  | amaxnW (d : BitVec 5) (n : BitVec 1) (a : BitVec 6) (b : BitVec 6)
  /-- Atomic unsigned maximum on a 64-bit word. (R171) -/
  | amaxnD (d : BitVec 5) (n : BitVec 1) (a : BitVec 6) (b : BitVec 6)
  /-- Atomic bitwise AND on a 32-bit word. (R171) -/
  | aandW (d : BitVec 5) (n : BitVec 1) (a : BitVec 6) (b : BitVec 6)
  /-- Atomic bitwise AND on a 64-bit word. (R171) -/
  | aandD (d : BitVec 5) (n : BitVec 1) (a : BitVec 6) (b : BitVec 6)
  /-- Atomic bitwise OR on a 32-bit word. (R171) -/
  | aorW (d : BitVec 5) (n : BitVec 1) (a : BitVec 6) (b : BitVec 6)
  /-- Atomic bitwise OR on a 64-bit word. (R171) -/
  | aorD (d : BitVec 5) (n : BitVec 1) (a : BitVec 6) (b : BitVec 6)
  /-- Atomic bitwise XOR on a 32-bit word. (R171) -/
  | axorW (d : BitVec 5) (n : BitVec 1) (a : BitVec 6) (b : BitVec 6)
  /-- Atomic bitwise XOR on a 64-bit word. (R171) -/
  | axorD (d : BitVec 5) (n : BitVec 1) (a : BitVec 6) (b : BitVec 6)
  /-- Atomically swaps v into a 32-bit word. (R171) -/
  | aswapW (d : BitVec 5) (n : BitVec 1) (a : BitVec 6) (b : BitVec 6)
  /-- Atomically swaps v into a 64-bit word. (R171) -/
  | aswapD (d : BitVec 5) (n : BitVec 1) (a : BitVec 6) (b : BitVec 6)
  /-- Atomic compare-and-swap on a 32-bit word against the old d. (R171) -/
  | acasW (d : BitVec 5) (n : BitVec 1) (a : BitVec 6) (b : BitVec 6)
  /-- Atomic compare-and-swap on a 64-bit word against the old d. (R171) -/
  | acasD (d : BitVec 5) (n : BitVec 1) (a : BitVec 6) (b : BitVec 6)
  /-- Atomic FP32 add with RNE on a 32-bit word. (R171) -/
  | afaddW (d : BitVec 5) (n : BitVec 1) (a : BitVec 6) (b : BitVec 6)
  /-- FP64 addition rounded with RNE. (R172) -/
  | faddD (d : BitVec 5) (n : BitVec 1) (a : BitVec 6) (b : BitVec 6)
  /-- FP32 addition rounded with RNE. (R172) -/
  | faddS (d : BitVec 5) (n : BitVec 1) (a : BitVec 6) (b : BitVec 6)
  /-- FP64 subtraction rounded with RNE. (R172) -/
  | fsubD (d : BitVec 5) (n : BitVec 1) (a : BitVec 6) (b : BitVec 6)
  /-- FP32 subtraction rounded with RNE. (R172) -/
  | fsubS (d : BitVec 5) (n : BitVec 1) (a : BitVec 6) (b : BitVec 6)
  /-- FP64 multiplication rounded with RNE. (R172) -/
  | fmulD (d : BitVec 5) (n : BitVec 1) (a : BitVec 6) (b : BitVec 6)
  /-- FP32 multiplication rounded with RNE. (R172) -/
  | fmulS (d : BitVec 5) (n : BitVec 1) (a : BitVec 6) (b : BitVec 6)
  /-- FP64 minimum by R73. (R172) -/
  | fminD (d : BitVec 5) (n : BitVec 1) (a : BitVec 6) (b : BitVec 6)
  /-- FP32 minimum by R73. (R172) -/
  | fminS (d : BitVec 5) (n : BitVec 1) (a : BitVec 6) (b : BitVec 6)
  /-- FP64 maximum by R73. (R172) -/
  | fmaxD (d : BitVec 5) (n : BitVec 1) (a : BitVec 6) (b : BitVec 6)
  /-- FP32 maximum by R73. (R172) -/
  | fmaxS (d : BitVec 5) (n : BitVec 1) (a : BitVec 6) (b : BitVec 6)
  /-- Clears the FP64 sign bit of a. (R172) -/
  | fabsD (d : BitVec 5) (n : BitVec 1) (a : BitVec 6)
  /-- Clears the FP32 sign bit of a. (R172) -/
  | fabsS (d : BitVec 5) (n : BitVec 1) (a : BitVec 6)
  /-- Inverts the FP64 sign bit of a. (R172) -/
  | fnegD (d : BitVec 5) (n : BitVec 1) (a : BitVec 6)
  /-- Inverts the FP32 sign bit of a. (R172) -/
  | fnegS (d : BitVec 5) (n : BitVec 1) (a : BitVec 6)
  /-- Writes 1 when FP64 a equals b. (R172) -/
  | fceqD (d : BitVec 5) (n : BitVec 1) (a : BitVec 6) (b : BitVec 6)
  /-- Writes 1 when FP32 a equals b. (R172) -/
  | fceqS (d : BitVec 5) (n : BitVec 1) (a : BitVec 6) (b : BitVec 6)
  /-- Writes 1 when FP64 a < b. (R172) -/
  | fcltD (d : BitVec 5) (n : BitVec 1) (a : BitVec 6) (b : BitVec 6)
  /-- Writes 1 when FP32 a < b. (R172) -/
  | fcltS (d : BitVec 5) (n : BitVec 1) (a : BitVec 6) (b : BitVec 6)
  /-- Writes 1 when FP64 a <= b. (R172) -/
  | fcleD (d : BitVec 5) (n : BitVec 1) (a : BitVec 6) (b : BitVec 6)
  /-- Writes 1 when FP32 a <= b. (R172) -/
  | fcleS (d : BitVec 5) (n : BitVec 1) (a : BitVec 6) (b : BitVec 6)
  /-- FP64 fused multiply-add into d with one rounding. (R173) -/
  | ffmaD (d : BitVec 5) (n : BitVec 1) (a : BitVec 6) (b : BitVec 6)
  /-- FP32 fused multiply-add into d with one rounding. (R173) -/
  | ffmaS (d : BitVec 5) (n : BitVec 1) (a : BitVec 6) (b : BitVec 6)
  /-- Converts FP64 to FP32 with the given mode. (R174) -/
  | fcvtF32F64 (d : BitVec 5) (n : BitVec 1) (a : BitVec 6) (m : BitVec 3)
  /-- Converts FP32 to FP64 exactly. (R174) -/
  | fcvtF64F32 (d : BitVec 5) (n : BitVec 1) (a : BitVec 6) (m : BitVec 3)
  /-- Converts FP32 to FP16 with the given mode. (R174) -/
  | fcvtF16F32 (d : BitVec 5) (n : BitVec 1) (a : BitVec 6) (m : BitVec 3)
  /-- Converts FP16 to FP32 exactly. (R174) -/
  | fcvtF32F16 (d : BitVec 5) (n : BitVec 1) (a : BitVec 6) (m : BitVec 3)
  /-- Converts FP32 to BF16 with the given mode. (R174) -/
  | fcvtBf16F32 (d : BitVec 5) (n : BitVec 1) (a : BitVec 6) (m : BitVec 3)
  /-- Converts BF16 to FP32 exactly. (R174) -/
  | fcvtF32Bf16 (d : BitVec 5) (n : BitVec 1) (a : BitVec 6) (m : BitVec 3)
  /-- Converts FP32 to KF8 with saturation. (R174) -/
  | fcvtKf8F32 (d : BitVec 5) (n : BitVec 1) (a : BitVec 6) (m : BitVec 3)
  /-- Converts KF8 to FP32 exactly. (R174) -/
  | fcvtF32Kf8 (d : BitVec 5) (n : BitVec 1) (a : BitVec 6) (m : BitVec 3)
  /-- Converts FP64 to s64 with saturation. (R174) -/
  | fcvtS64F64 (d : BitVec 5) (n : BitVec 1) (a : BitVec 6) (m : BitVec 3)
  /-- Converts s64 to FP64. (R174) -/
  | fcvtF64S64 (d : BitVec 5) (n : BitVec 1) (a : BitVec 6) (m : BitVec 3)
  /-- Converts FP32 to s32, sign-extended. (R174) -/
  | fcvtS32F32 (d : BitVec 5) (n : BitVec 1) (a : BitVec 6) (m : BitVec 3)
  /-- Converts s32 to FP32. (R174) -/
  | fcvtF32S32 (d : BitVec 5) (n : BitVec 1) (a : BitVec 6) (m : BitVec 3)
  /-- Converts FP64 to n64 with saturation. (R174) -/
  | fcvtN64F64 (d : BitVec 5) (n : BitVec 1) (a : BitVec 6) (m : BitVec 3)
  /-- Converts n64 to FP64. (R174) -/
  | fcvtF64N64 (d : BitVec 5) (n : BitVec 1) (a : BitVec 6) (m : BitVec 3)
  /-- Computes exp2_k of a rounded to FP32 and widens to FP64. (R175) -/
  | exp2D (d : BitVec 5) (n : BitVec 1) (a : BitVec 6)
  /-- Computes exp2_k of FP32 a. (R175) -/
  | exp2S (d : BitVec 5) (n : BitVec 1) (a : BitVec 6)
  /-- Computes log2_k and widens to FP64. (R175) -/
  | log2D (d : BitVec 5) (n : BitVec 1) (a : BitVec 6)
  /-- Computes log2_k of FP32 a. (R175) -/
  | log2S (d : BitVec 5) (n : BitVec 1) (a : BitVec 6)
  /-- Computes rcp_k and widens to FP64. (R175) -/
  | rcpD (d : BitVec 5) (n : BitVec 1) (a : BitVec 6)
  /-- Computes rcp_k of FP32 a. (R175) -/
  | rcpS (d : BitVec 5) (n : BitVec 1) (a : BitVec 6)
  /-- Computes rsq_k and widens to FP64. (R175) -/
  | rsqD (d : BitVec 5) (n : BitVec 1) (a : BitVec 6)
  /-- Computes rsq_k of FP32 a. (R175) -/
  | rsqS (d : BitVec 5) (n : BitVec 1) (a : BitVec 6)
  /-- Mask register bitwise AND. (R176) -/
  | kand (d : BitVec 4) (n : BitVec 1) (a : BitVec 4) (b : BitVec 4)
  /-- Mask register bitwise OR. (R176) -/
  | kor (d : BitVec 4) (n : BitVec 1) (a : BitVec 4) (b : BitVec 4)
  /-- Mask register bitwise XOR. (R176) -/
  | kxor (d : BitVec 4) (n : BitVec 1) (a : BitVec 4) (b : BitVec 4)
  /-- Mask register ka AND NOT kb. (R176) -/
  | kandn (d : BitVec 4) (n : BitVec 1) (a : BitVec 4) (b : BitVec 4)
  /-- Mask register NOT. (R176) -/
  | knot (d : BitVec 4) (n : BitVec 1) (a : BitVec 4)
  /-- Shifts a mask register left by a g amount. (R176) -/
  | kshl (d : BitVec 4) (n : BitVec 1) (a : BitVec 4) (b : BitVec 6)
  /-- Shifts a mask register right by a g amount. (R176) -/
  | kshr (d : BitVec 4) (n : BitVec 1) (a : BitVec 4) (b : BitVec 6)
  /-- Writes the set-bit count of a mask register to gd. (R176) -/
  | kpop (d : BitVec 5) (n : BitVec 1) (a : BitVec 4)
  /-- Copies a mask register, zero-extended, to gd. (R176) -/
  | kmovg (d : BitVec 5) (n : BitVec 1) (a : BitVec 4)
  /-- Copies a[15:0] into a mask register. (R176) -/
  | kmovk (d : BitVec 4) (n : BitVec 1) (a : BitVec 6)
  /-- Sets one bit of a mask register. (R176) -/
  | kbit (d : BitVec 4) (n : BitVec 1) (a : BitVec 4) (b : BitVec 6)
  /-- Copies one bit of a mask register to a predicate. (R176) -/
  | ktst (d : BitVec 3) (n : BitVec 1) (a : BitVec 4) (b : BitVec 6)
  /-- Loads 16 bits of a shifted g value into a mask register. (R176) -/
  | kldm (d : BitVec 4) (n : BitVec 1) (a : BitVec 6) (b : BitVec 6)
  /-- Writes the index of the lowest set bit of a mask register. (R176) -/
  | kffs (d : BitVec 5) (n : BitVec 1) (a : BitVec 4)
  /-- Writes a[31:0] to a shape register. (R177) -/
  | emov (d : BitVec 4) (n : BitVec 1) (a : BitVec 6)
  /-- Copies a shape register to gd. (R177) -/
  | eget (d : BitVec 5) (n : BitVec 1) (a : BitVec 4)
  /-- Lowers a shape register to the minimum with b. (R177) -/
  | emin (d : BitVec 4) (n : BitVec 1) (a : BitVec 4) (b : BitVec 6)
  /-- Subtracts b from a shape register, saturating at 0. (R177) -/
  | esub (d : BitVec 4) (n : BitVec 1) (a : BitVec 4) (b : BitVec 6)
  /-- Adds b to a shape register, saturating. (R177) -/
  | eadd (d : BitVec 4) (n : BitVec 1) (a : BitVec 4) (b : BitVec 6)
  /-- Zeroes the shape registers selected by a mask. (R177) -/
  | eclr (a : BitVec 6)
  /-- Branches by off22 words when p XOR inv is true. (R178) -/
  | br (p : BitVec 3) (v : BitVec 1) (o : BitVec 22)
  /-- Writes the return address to d and jumps by off20 words. (R179) -/
  | jal (d : BitVec 5) (n : BitVec 1) (o : BitVec 20)
  /-- Writes the return address to d and jumps to a + imm14 words. (R180) -/
  | jr (d : BitVec 5) (n : BitVec 1) (a : BitVec 6) (i : BitVec 14)
  /-- Arms a hardware loop with count from a and a length field. (R183) -/
  | loop (a : BitVec 6) (l : BitVec 13)
  /-- Arms a hardware loop with immediate length and count. (R183) -/
  | loopi (l : BitVec 5) (c : BitVec 13)
  /-- Does nothing and places 0 in y0. (R184) -/
  | nop
  /-- Waits for the task's engine entries, counts deferred draws and ends the task. (R185) -/
  | halt
  /-- Enters the trap handler with the software-trap cause and a in TARG0. (R186) -/
  | trap (a : BitVec 6)
  /-- Returns from a trap, restoring state and re-pushing saved entries. (R385) -/
  | eret
  /-- Returns from an event handler, restoring the event slot. (R313) -/
  | evret
  /-- Reads a system register into d. (R188) -/
  | mfs (d : BitVec 5) (n : BitVec 1) (r : BitVec 6)
  /-- Writes a system register at issue, waiting for engines when it is a PF register. (R188) -/
  | mts (a : BitVec 6) (r : BitVec 6)
  /-- Waits until every earlier CC access of the strand is performed. (R132) -/
  | fence
  /-- Waits until earlier global writes reach physical memory and leave merging buffers. (R68) -/
  | afence
  /-- Phase boundary at core scope. (R32) -/
  | phaseCore
  /-- Phase boundary at cluster scope with gang barrier. (R32) -/
  | phaseClus
  /-- Phase boundary at die scope with gang barrier. (R32) -/
  | phaseDie
  /-- Phase boundary at package scope with gang barrier. (R32) -/
  | phasePkg
  /-- Phase boundary at domain scope, barrier over the package's gang. (R32) -/
  | phaseDom
  /-- Phase boundary at system scope, barrier over the package's gang. (R32) -/
  | phaseSys
  /-- Ends the segment and declares the next segment's cost and energy class. (R190) -/
  | segend (e : BitVec 3) (c : BitVec 12)
  /-- Repeats an atomic read until the word differs from b, then writes it to d. (R191) -/
  | waitc (d : BitVec 5) (n : BitVec 1) (a : BitVec 6) (b : BitVec 6)
  /-- Branches to the first SCHED table entry whose bound covers a shape register. (R192) -/
  | sched (a : BitVec 4) (b : BitVec 6)
  /-- Takes a pending notify word or parks the strand on it. (R193) -/
  | park (d : BitVec 5) (n : BitVec 1) (a : BitVec 6)
  /-- Sets a doorbell bit of a tool core, raising its external interrupt. (R194) -/
  | notify (a : BitVec 6) (b : BitVec 6)
  /-- Removes the oldest result-queue entry into d, stalling while empty. (R196) -/
  | rpop (d : BitVec 5) (n : BitVec 1)
  /-- Prefix supplying a 32-bit immediate to the following instruction. (R142) The arguments are the immediate and the prefixed word of the group (R142). -/
  | liw (imm : BitVec 32) (word : BitVec 32)
  /-- Pushes a flat copy from global memory into pond or lake. (R202) -/
  | cinG (t : BitVec 2) (g : BitVec 2) (x : BitVec 5) (y : BitVec 5) (z : BitVec 5)
  /-- Pushes a flat copy from lake into pond. (R202) -/
  | cinL (t : BitVec 2) (g : BitVec 2) (x : BitVec 5) (y : BitVec 5) (z : BitVec 5)
  /-- Pushes a flat copy from cluster pond into local pond or lake. (R202) -/
  | cinP (t : BitVec 2) (g : BitVec 2) (x : BitVec 5) (y : BitVec 5) (z : BitVec 5)
  /-- Pushes a multicast read delivered to every masked core's pond. (R203) -/
  | cinMc (t : BitVec 2) (g : BitVec 2) (x : BitVec 5) (y : BitVec 5) (z : BitVec 5)
  /-- Pushes a flat copy to global memory. (R202) -/
  | coutG (t : BitVec 2) (g : BitVec 1) (x : BitVec 5) (y : BitVec 5) (z : BitVec 5)
  /-- Pushes a flat copy to lake. (R202) -/
  | coutL (t : BitVec 2) (g : BitVec 1) (x : BitVec 5) (y : BitVec 5) (z : BitVec 5)
  /-- Pushes a flat copy to cluster pond. (R202) -/
  | coutP (t : BitVec 2) (g : BitVec 1) (x : BitVec 5) (y : BitVec 5) (z : BitVec 5)
  /-- Pushes a select-and-accumulate pass giving max, exponent sum and top-8. (R204) -/
  | coutSel (t : BitVec 2) (g : BitVec 1) (x : BitVec 5) (y : BitVec 5) (z : BitVec 5)
  /-- Pushes a converting copy between two pond layout records. (R206) -/
  | cpxPp (t : BitVec 2) (g : BitVec 2) (x : BitVec 5) (y : BitVec 5) (z : BitVec 5)
  /-- Pushes a converting copy from a pond record to a lake record. (R206) -/
  | cpxPl (t : BitVec 2) (g : BitVec 2) (x : BitVec 5) (y : BitVec 5) (z : BitVec 5)
  /-- Pushes a converting copy from a lake record to a pond record. (R206) -/
  | cpxLp (t : BitVec 2) (g : BitVec 2) (x : BitVec 5) (y : BitVec 5) (z : BitVec 5)
  /-- Pushes a converting copy between two lake records. (R206) -/
  | cpxLl (t : BitVec 2) (g : BitVec 2) (x : BitVec 5) (y : BitVec 5) (z : BitVec 5)
  /-- Pushes a row gather from a table into a pond record. (R207) -/
  | cgathP (t : BitVec 2) (g : BitVec 2) (x : BitVec 5) (y : BitVec 5) (z : BitVec 5)
  /-- Pushes a row gather from a table into a lake record. (R207) -/
  | cgathL (t : BitVec 2) (g : BitVec 2) (x : BitVec 5) (y : BitVec 5) (z : BitVec 5)
  /-- Pushes a row scatter from a pond record into a table. (R207) -/
  | cscatP (t : BitVec 2) (g : BitVec 1) (x : BitVec 5) (y : BitVec 5) (z : BitVec 5)
  /-- Pushes a row scatter from a lake record into a table. (R207) -/
  | cscatL (t : BitVec 2) (g : BitVec 1) (x : BitVec 5) (y : BitVec 5) (z : BitVec 5)
  /-- Starts a page-in on the page path and pushes its LQ entry. (R208) -/
  | pgin (t : BitVec 2) (g : BitVec 2) (x : BitVec 5) (y : BitVec 5)
  /-- Pushes a page-out that marks the page far and copies it out. (R209) -/
  | pgout (t : BitVec 2) (g : BitVec 1) (x : BitVec 5) (y : BitVec 5)
  /-- Pushes a payload transfer followed by a flag store. (R211) -/
  | wrsig (t : BitVec 2) (g : BitVec 1) (x : BitVec 5) (y : BitVec 5) (z : BitVec 5)
  /-- Pushes a payload transfer followed by a counter addition. (R211) -/
  | wrsigAdd (t : BitVec 2) (g : BitVec 1) (x : BitVec 5) (y : BitVec 5) (z : BitVec 5)
  /-- Lake region operation writing v into each element. (R213) -/
  | lkopFill (t : BitVec 2) (g : BitVec 2) (x : BitVec 5) (y : BitVec 5) (z : BitVec 5)
  /-- Lake region wrapping add. (R213) -/
  | lkopAdd (t : BitVec 2) (g : BitVec 2) (x : BitVec 5) (y : BitVec 5) (z : BitVec 5)
  /-- Lake region saturating unsigned add. (R213) -/
  | lkopSadd (t : BitVec 2) (g : BitVec 2) (x : BitVec 5) (y : BitVec 5) (z : BitVec 5)
  /-- Lake region minimum. (R213) -/
  | lkopMin (t : BitVec 2) (g : BitVec 2) (x : BitVec 5) (y : BitVec 5) (z : BitVec 5)
  /-- Lake region maximum. (R213) -/
  | lkopMax (t : BitVec 2) (g : BitVec 2) (x : BitVec 5) (y : BitVec 5) (z : BitVec 5)
  /-- Lake region bitwise AND. (R213) -/
  | lkopAnd (t : BitVec 2) (g : BitVec 2) (x : BitVec 5) (y : BitVec 5) (z : BitVec 5)
  /-- Lake region bitwise OR. (R213) -/
  | lkopOr (t : BitVec 2) (g : BitVec 2) (x : BitVec 5) (y : BitVec 5) (z : BitVec 5)
  /-- Lake region bitwise XOR. (R213) -/
  | lkopXor (t : BitVec 2) (g : BitVec 2) (x : BitVec 5) (y : BitVec 5) (z : BitVec 5)
  /-- Lake region FP32 add. (R213) -/
  | lkopFadd (t : BitVec 2) (g : BitVec 2) (x : BitVec 5) (y : BitVec 5) (z : BitVec 5)
  /-- Lake region FP32 maximum. (R213) -/
  | lkopFmax (t : BitVec 2) (g : BitVec 2) (x : BitVec 5) (y : BitVec 5) (z : BitVec 5)
  /-- Lake region FP32 multiply. (R213) -/
  | lkopFmul (t : BitVec 2) (g : BitVec 2) (x : BitVec 5) (y : BitVec 5) (z : BitVec 5)
  /-- Sums a source region and writes one 8-byte word to lake. (R213) -/
  | lkopRsum (t : BitVec 2) (g : BitVec 2) (x : BitVec 5) (y : BitVec 5) (z : BitVec 5)
  /-- Pushes one token of the strand into a FIFO. (R216) -/
  | give (a : BitVec 3)
  /-- Pops the strand's oldest token from a FIFO, waiting while none is present. (R216) -/
  | take (a : BitVec 3)
  /-- Sets a queue's slip depth and returns the previous depth. (R217) -/
  | qdepth (d : BitVec 5) (n : BitVec 1) (a : BitVec 2) (b : BitVec 6)
  /-- Returns the last pushed or last completed sequence number of a queue. (R218) -/
  | qseq (d : BitVec 5) (n : BitVec 1) (a : BitVec 2) (b : BitVec 1)
  /-- Pushes an element-wise chain of up to eight operations over regions. (R228) -/
  | vchain (t : BitVec 2) (g : BitVec 3) (x : BitVec 5) (y : BitVec 5) (z : BitVec 5)
  /-- Pushes a grouped sum reduction. (R231) -/
  | vredSum (t : BitVec 2) (g : BitVec 3) (x : BitVec 5) (y : BitVec 5) (z : BitVec 5)
  /-- Pushes a grouped maximum reduction. (R231) -/
  | vredMax (t : BitVec 2) (g : BitVec 3) (x : BitVec 5) (y : BitVec 5) (z : BitVec 5)
  /-- Pushes a grouped minimum reduction. (R231) -/
  | vredMin (t : BitVec 2) (g : BitVec 3) (x : BitVec 5) (y : BitVec 5) (z : BitVec 5)
  /-- Pushes a grouped argmax reduction. (R231) -/
  | vredArgmax (t : BitVec 2) (g : BitVec 3) (x : BitVec 5) (y : BitVec 5) (z : BitVec 5)
  /-- Pushes a grouped argmin reduction. (R231) -/
  | vredArgmin (t : BitVec 2) (g : BitVec 3) (x : BitVec 5) (y : BitVec 5) (z : BitVec 5)
  /-- Pushes a grouped sum-of-squares reduction. (R231) -/
  | vredSumsq (t : BitVec 2) (g : BitVec 3) (x : BitVec 5) (y : BitVec 5) (z : BitVec 5)
  /-- Pushes a grouped prefix sum. (R232) -/
  | vscanAdd (t : BitVec 2) (g : BitVec 3) (x : BitVec 5) (y : BitVec 5) (z : BitVec 5)
  /-- Pushes a grouped prefix maximum. (R232) -/
  | vscanMax (t : BitVec 2) (g : BitVec 3) (x : BitVec 5) (y : BitVec 5) (z : BitVec 5)
  /-- Pushes an indexed gather from a table into a region. (R233) -/
  | vgath (t : BitVec 2) (g : BitVec 3) (x : BitVec 5) (y : BitVec 5) (z : BitVec 5)
  /-- Pushes an indexed scatter that sets table elements. (R233) -/
  | vscatSet (t : BitVec 2) (g : BitVec 3) (x : BitVec 5) (y : BitVec 5) (z : BitVec 5)
  /-- Pushes an indexed scatter that adds into table elements. (R233) -/
  | vscatAdd (t : BitVec 2) (g : BitVec 3) (x : BitVec 5) (y : BitVec 5) (z : BitVec 5)
  /-- Pushes an indexed scatter that takes the maximum into table elements. (R233) -/
  | vscatMax (t : BitVec 2) (g : BitVec 3) (x : BitVec 5) (y : BitVec 5) (z : BitVec 5)
  /-- Pushes an indexed scatter that multiplies into table elements. (R233) -/
  | vscatMul (t : BitVec 2) (g : BitVec 3) (x : BitVec 5) (y : BitVec 5) (z : BitVec 5)
  /-- Pushes per-row dot products of an s8 weight record. (R234) -/
  | vdotS8 (t : BitVec 2) (g : BitVec 3) (x : BitVec 5) (y : BitVec 5) (z : BitVec 5)
  /-- Pushes per-row dot products of a Q4 weight record. (R234) -/
  | vdotQ4 (t : BitVec 2) (g : BitVec 3) (x : BitVec 5) (y : BitVec 5) (z : BitVec 5)
  /-- Pushes per-row dot products of a T5 weight record. (R234) -/
  | vdotT5 (t : BitVec 2) (g : BitVec 3) (x : BitVec 5) (y : BitVec 5) (z : BitVec 5)
  /-- Loads a Beneš configuration register from pond in VQ order. (R236) -/
  | bset (t : BitVec 2) (g : BitVec 3) (x : BitVec 5) (y : BitVec 5)
  /-- Permutes groups of 64 elements through a b register. (R237) -/
  | vperm (t : BitVec 2) (g : BitVec 3) (x : BitVec 5) (y : BitVec 5) (z : BitVec 5)
  /-- Selects top-k experts per row and admits them against capacity. (R239) -/
  | vsearchTopk (t : BitVec 2) (g : BitVec 3) (x : BitVec 5) (y : BitVec 5) (z : BitVec 5)
  /-- Selects experts per row up to a cumulative threshold and admits them. (R239) -/
  | vsearchThr (t : BitVec 2) (g : BitVec 3) (x : BitVec 5) (y : BitVec 5) (z : BitVec 5)
  /-- Scans a byte region for a pattern with carried prefix state. (R241) -/
  | vfind (t : BitVec 2) (g : BitVec 3) (x : BitVec 5) (y : BitVec 5) (z : BitVec 5)
  /-- Adds saturating per-index counts to lake counters. (R242) -/
  | vcount (t : BitVec 2) (g : BitVec 3) (x : BitVec 5) (y : BitVec 5) (z : BitVec 5)
  /-- Loads a loop-nest table into the shadow table. (R250) -/
  | mlt (t : BitVec 2) (g : BitVec 2) (x : BitVec 5)
  /-- Copies the shadow table and mask and runs the loop nest. (R251) -/
  | mgo (t : BitVec 2) (g : BitVec 2) (x : BitVec 5)
  /-- Loads a dense shadow weight plane. (R253) -/
  | mldwDense (t : BitVec 2) (g : BitVec 2) (x : BitVec 5) (z : BitVec 5)
  /-- Loads a 2:4 sparse shadow weight plane. (R253) -/
  | mldwS24 (t : BitVec 2) (g : BitVec 2) (x : BitVec 5) (y : BitVec 5) (z : BitVec 5)
  /-- Loads a 1:4 sparse shadow weight plane. (R253) -/
  | mldwS14 (t : BitVec 2) (g : BitVec 2) (x : BitVec 5) (y : BitVec 5) (z : BitVec 5)
  /-- Exchanges the active and shadow weight planes. (R255) -/
  | mswap (t : BitVec 2) (g : BitVec 2)
  /-- Loads a mask block into the shadow mask. (R259) -/
  | mmask (t : BitVec 2) (g : BitVec 2) (x : BitVec 5)
  /-- Zeroes selected accumulator tiles and sets their mode to FP32. (R262) -/
  | mzero (t : BitVec 2) (g : BitVec 2) (x : BitVec 5)
  /-- Drains accumulator rows into pond. (R261) -/
  | mdrainP (t : BitVec 2) (g : BitVec 2) (x : BitVec 5) (y : BitVec 5) (z : BitVec 5)
  /-- Drains accumulator rows into a streaming channel. (R337) -/
  | mdrainPort (t : BitVec 2) (g : BitVec 2) (x : BitVec 5) (y : BitVec 5) (z : BitVec 5)
  /-- Drains an FP32 tile through the select path, writing a completion record. (R261) -/
  | mdrainSel (t : BitVec 2) (g : BitVec 2) (x : BitVec 5) (y : BitVec 5) (z : BitVec 5)
  /-- Pushes a result element reporting matrix engine state. (R263) -/
  | mstat (t : BitVec 2) (g : BitVec 2)
  /-- Requests a drawn tile from a pool and receives its handle. (R272) -/
  | talloc (d : BitVec 5) (n : BitVec 1) (a : BitVec 6) (b : BitVec 6)
  /-- Requests a version head and registers its settle-set membership. (R273) -/
  | tallocV (d : BitVec 5) (n : BitVec 1) (a : BitVec 6) (b : BitVec 6)
  /-- Sends a raise of a tile's or head's draw count. (R274) -/
  | tadd (a : BitVec 6) (b : BitVec 6)
  /-- Sends one draw of a tile or head after earlier loads return. (R275) -/
  | tdraw (a : BitVec 6)
  /-- Abandons the job's drawn tiles carrying a tag across cluster and lake pools. (R276) -/
  | tabnd (a : BitVec 6)
  /-- Returns the tile state word for a handle. (R277) -/
  | tinfo (d : BitVec 5) (n : BitVec 1) (a : BitVec 6)
  /-- Publishes a tile as the next version of a head. (R279) -/
  | pubv (p : BitVec 3) (s : BitVec 3) (a : BitVec 6) (b : BitVec 6)
  /-- Publishes a tile as the final version of a head. (R279) -/
  | pubvF (p : BitVec 3) (s : BitVec 3) (a : BitVec 6) (b : BitVec 6)
  /-- Binds a subscriber to a version head. (R281) -/
  | tsub (d : BitVec 5) (n : BitVec 1) (a : BitVec 6) (b : BitVec 6)
  /-- Makes a head's current version final. (R282) -/
  | stopref (a : BitVec 6)
  /-- Waits until a settle set is settled. (R283) -/
  | swait (a : BitVec 6)
  /-- Returns a head's version word. (R284) -/
  | tver (d : BitVec 5) (n : BitVec 1) (a : BitVec 6)
  /-- Creates a joined child task on the deque or inline. (R285) -/
  | fork (a : BitVec 6) (b : BitVec 6)
  /-- Returns when the join counter is zero, otherwise evicts the task to a join frame. (R26) -/
  | join
  /-- Creates a detached child task, waiting for a slot. (R285) -/
  | enq (a : BitVec 6) (b : BitVec 6)
  /-- Requests a chunk of argument records from the front. (R287) -/
  | card (d : BitVec 5) (n : BitVec 1)
  /-- Appends an entry to the cluster mailbox, waiting while full. (R289) -/
  | mbpost (a : BitVec 6) (b : BitVec 6)
  /-- Removes the oldest mailbox entry into pond, or returns 0 when empty. (R290) -/
  | mbtake (d : BitVec 5) (n : BitVec 1) (a : BitVec 6)
  /-- Hands a collective program to the cluster's sequencer. (R291) -/
  | coll (d : BitVec 5) (n : BitVec 1) (a : BitVec 6) (b : BitVec 6)
  /-- Sends a chunk to the send peer (R330). -/
  | csend (cl : Nat) (ln : BitVec 32) (f : StepFields)
  /-- Receives a chunk from the receive peer (R330). -/
  | crecv (cl : Nat) (ln : BitVec 32) (f : StepFields)
  /-- Receives, combines and sends on a chunk (R330). -/
  | crrs (cl : Nat) (ln : BitVec 32) (f : StepFields)
  /-- Copies a chunk between buffers (R330). -/
  | ccopy (cl : Nat) (ln : BitVec 32) (f : StepFields)
  /-- Waits for the earlier steps (R333). -/
  | cwait (cl : Nat) (ln : BitVec 32) (w : BitVec 1)
  /-- Begins a loop of the next len words (R333). -/
  | cloop (cl : Nat) (ln : BitVec 32) (k : BitVec 2) (rel : BitVec 1) (v : BitVec 21) (len : BitVec 16)
  /-- Barrier of the group (R333). -/
  | cbar (cl : Nat) (ln : BitVec 32)
  /-- Ends the launch (R334). -/
  | cend (cl : Nat) (ln : BitVec 32)
  /-- A BAR0 write by the PF (fn 0) or VF fn (R340). -/
  | hostRegisterWrite (fn : BitVec 5) (off : BitVec 26) (v : BitVec 64)
  /-- A write of graph parameter k (R295). -/
  | graphParameterWrite (slot : BitVec 4) (k : BitVec 8) (v : BitVec 64)
  /-- START of a graph slot (R296). -/
  | gstart (slot : BitVec 4) (bank : BitVec 1)
  /-- Write of GBASE (0), GPATCH (1) or GCTL (2) (R294, R441). -/
  | graphSlotConfigWrite (slot : BitVec 4) (reg : BitVec 2) (v : BitVec 64)
  /-- A single launch (R298). -/
  | launch (ctx : BitVec 4) (card : BitVec 52)
  /-- CMD bit 0 (R344). -/
  | installPoolDescriptors (ctx : BitVec 4)
  /-- CMD bit 1 (R344). -/
  | shootdown (ctx : BitVec 4)
  /-- The shootdown ends and busy clears (R344). -/
  | shootdownDone (ctx : BitVec 4)
  /-- JEND (R446). -/
  | jend (ctx : BitVec 4) (jobid : BitVec 32)
  /-- Context reset (R447). -/
  | crst (ctx : BitVec 4)
  /-- Function-level reset of VF n (R447). -/
  | vfFlr (vf : BitVec 5)
  /-- REPLAY of a capture entry (R452). -/
  | replay (v : BitVec 64)
  /-- TRUN releases harts (R353). -/
  | trun (m : BitVec 32)
  /-- THOLD holds harts in reset (R461). -/
  | thold (m : BitVec 32)
  /-- Write of one half of a wall register (R353). -/
  | wallWrite (w : BitVec 6) (half : BitVec 1) (v : BitVec 64)
  /-- Write of PLIM (R2, R341). -/
  | plimWrite (v : BitVec 12)
  /-- Write of a route-table entry (R453). -/
  | routeEntryWrite (idx : BitVec 19) (v : BitVec 64)
  /-- MCTL.clr (R359). -/
  | monitorClear (m : BitVec 6)
  /-- Write of 1 to SAT (R465). -/
  | monitorSatClear (m : BitVec 6)
  /-- Write of ones to ELSTAT.drop (R436). -/
  | elstatDropClear (v : BitVec 32)
  /-- Write of ones to CFENCE (R449). -/
  | cfenceClear (cl : BitVec 6) (m : BitVec 48)
  /-- A monitor takes a sample (R360). -/
  | monitorSample (m : BitVec 6) (v : BitVec 32)
  /-- A host store to NW[n] (R354). -/
  | notifyMirrorWrite (fn : BitVec 5) (n : BitVec 12) (v : BitVec 64)
  /-- A tool-core store to NW[n] (R354). -/
  | toolNotifyStore (hart : BitVec 5) (n : BitVec 12) (v : BitVec 64)
  /-- A sandbox-window access: kind 0 load, 1 store, 2 fetch, 3 AMO add (R353, R420). -/
  | toolSandboxAccess (hart : BitVec 5) (kind : BitVec 2) (addr : BitVec 36) (size : BitVec 2) (v : BitVec 64)
  /-- A W1C store to DB (R355). -/
  | doorbellClear (hart : BitVec 5) (v : BitVec 64)
  /-- Write of 1 to mailbox byte 4,088 (R362). -/
  | attestationRequest
  /-- The security processor examines an image (R361). -/
  | securityImageVerify (img : BitVec 2) (ver : BitVec 16) (key : List (BitVec 8)) (hdr : List (BitVec 8)) (body : List (BitVec 8)) (sig : List (BitVec 8))
  /-- Reset and the bring-up of the ROM (R363). -/
  | deviceReset
  /-- PCIe hot reset or PF function-level reset (R439, R460). -/
  | pcieHotReset
  /-- A host-link error, reported through AER (R460). -/
  | hostLinkError (kind : BitVec 8)
  /-- A BAR2 access (R346): wr 0 a read, 1 a write, 2 or 3 a poisoned write (R460). -/
  | hostBar2Access (fn : BitVec 5) (wr : BitVec 2) (off : BitVec 40) (size : BitVec 2) (v : BitVec 64)
  /-- Die 0-5 or the package (6) enters a power state (R358). -/
  | powerStateEntry (part : BitVec 3) (st : BitVec 3)
  /-- A wake event returns a part to L0 (R358). -/
  | powerWake (part : BitVec 3)
  /-- THEAD reaches 0 (R463). -/
  | thermalHoldEntry (die : BitVec 3)
  /-- THEAD rises to 16 or more (R463). -/
  | thermalHoldExit (die : BitVec 3) (head : BitVec 16)
  /-- A die sensor 10 degrees above the limit (R464). -/
  | thermalTrip (die : BitVec 3)
  /-- A supply fault (R464). -/
  | supplyFault
  /-- Package power above PLIM for 1 ms (R464). -/
  | plimOverrun
  /-- A correctable error of a die (R422). -/
  | correctableError (die : BitVec 3)
  /-- Patrol reading finds poison in the unit that holds location loc (R423). -/
  | patrolPoison (loc : Nat) (syn : BitVec 64)
  /-- A level-5 hardware error (R450). -/
  | deviceFatalError (code : BitVec 8) (unit : BitVec 64) (syn : BitVec 64)
  /-- A security processor fault (R450). -/
  | securityProcessorFault
  /-- An uncorrectable error in a tool core's caches, at an access to window address addr[35:0] of kind addr[37:36]: 0 load, 1 store,
  2 fetch, 3 AMO (R420, R461). -/
  | toolCacheError (hart : BitVec 5) (addr : BitVec 38)
  /-- An uncorrectable error in a pool unit's tile table (R449). -/
  | tileTableError (unit : Nat) (syn : BitVec 64)
  /-- A CXL link down or expander timeout (R462). -/
  | cxlPortDown (port : BitVec 1)
  /-- A far-tier port is available again (R462). -/
  | cxlPortRetrained (port : BitVec 1)
  /-- A span receives a flit; bad = 1 is a CRC error; bad = 2 is the far end's request to resend from flit seq on (R316, R454). -/
  | flitReceive (span : BitVec 5) (seq : BitVec 32) (bad : BitVec 2)
  /-- The receiving end acknowledges a flit (R316). -/
  | flitAck (span : BitVec 5) (seq : BitVec 32)
  /-- The oldest flit of a span is unacknowledged and is resent (R454). -/
  | flitAckTimeout (span : BitVec 5)
  /-- A span has trained (R454, R455). -/
  | spanUp (span : BitVec 5) (full : BitVec 1)
  /-- A remote access arrives at its home device: of context ctx[3:0] of the device with local index ctx[17:4], kind 0 load, 1
  store, 2 to 13 the atomics of R171, 14 a read of WAITC, 15 a fetch; size bytes, 240 at most (R191, R315, R319, R322). -/
  | remoteAccessHome (ctx : BitVec 18) (kind : BitVec 4) (va : BitVec 52) (size : BitVec 8) (v : BitVec 1920) (c : BitVec 64)
  /-- The home device answers a remote access; code 0 is success (R321, R456). -/
  | remoteResponse (id : Nat) (code : BitVec 8) (v : BitVec 1920)
  /-- A remote access has no response within 2^22 cycles (R456). -/
  | remoteAccessTimeout (id : Nat)
  /-- A pier reports 0xB7 or 0xB8, or route bring-up 0xB9 or 0xBC (R459). -/
  | pierReport (code : BitVec 8) (arg : BitVec 64)
  /-- A ready of the member peer arrives (R331). -/
  | collReadyArrive (cl : Nat) (ln : BitVec 32) (peer : Nat)
  /-- The chunk of a send of the member peer arrives (R330). -/
  | collDataArrive (cl : Nat) (ln : BitVec 32) (peer : Nat) (fmt : BitVec 8) (data : List (BitVec 8))
  /-- A send of a step completes locally (ack 0) or is acknowledged (ack 1) (R331, R333). -/
  | collTransferFinish (cl : Nat) (ln : BitVec 32) (step : Nat) (ack : BitVec 1)
  /-- A CBAR message of the member peer arrives (R333). -/
  | cbarMessage (cl : Nat) (ln : BitVec 32) (peer : Nat)
  /-- An abort message arrives (R458). -/
  | collAbortMessage (cl : Nat) (tag : BitVec 32)
  /-- A sequencer times out a receive (0), a send (1) or a CBAR (2) (R457). -/
  | collTimeout (cl : Nat) (ln : BitVec 32) (kind : BitVec 2)
  /-- The front issues a ready job (R300). -/
  | jobIssue (job : Nat)
  /-- A class-0 job stops its victim jobs (R306). -/
  | class0Preempt (job : Nat)
  /-- A core has not reached its points in time (R443). -/
  | preemptPointLate (core : Nat) (job : Nat)
  /-- A core saves the contexts of a victim job (R309). -/
  | contextSave (core : Nat) (job : Nat)
  /-- A save ends (R309). -/
  | saveComplete (core : Nat) (job : Nat)
  /-- A suspended job is restored (R310). -/
  | contextRestore (job : Nat)
  /-- The stream controller starts its next node (R299). -/
  | streamNodeStart
  /-- A stream node's last byte is performed (R299). -/
  | streamNodeComplete (i : Nat)
  /-- The front ends a job whose tasks have ended (R30). -/
  | jobEnd (job : Nat)
  /-- The front serves the oldest CARD request (R29). -/
  | cardServe
  /-- A timetable period starts on a core (R302). -/
  | periodStart (core : Nat)
  /-- The CC chooses its next strand (R304). -/
  | strandChoice (core : Nat)
  /-- The oldest pending event of a strand is delivered (R313). -/
  | eventDelivery (core : Nat) (sx : Nat)
  /-- The bound of strand who (0-3) or of queue who - 4 is reached (R424). -/
  | waitExpiry (core : Nat) (who : Nat)
  /-- An asynchronous cause is taken (R428). -/
  | asyncPoolCause (core : Nat) (sx : Nat)
  /-- An idle strand takes work (R22). -/
  | taskStart (core : Nat) (sx : Nat)
  /-- An idle strand issues a steal request (R27). -/
  | stealRequest (core : Nat) (sx : Nat)
  /-- An attempt of a steal request returns (R27). -/
  | stealResult (core : Nat) (sx : Nat)
  /-- A strand retries the round (R27). -/
  | stealRetry (core : Nat) (sx : Nat)
  /-- A pool unit applies the operations that reached it (R101). -/
  | poolUnitCycle (unit : Nat)
  /-- A fired subscriber waits longer than WLIM for a slot (R431). -/
  | subscriberFireTimeout (head : BitVec 64) (sub : Nat)
  /-- The front examines a settle set (R283). -/
  | settleExamine (job : Nat) (set : Nat)
  /-- The head entry of a queue takes its tokens and begins (R151). -/
  | engineEntryBegin (core : Nat) (q : BitVec 2)
  /-- One side of the copy unit performs a sector (R198). -/
  | copySector (core : Nat) (side : BitVec 1)
  /-- The vector engine performs a row (R223). -/
  | vectorRow (core : Nat)
  /-- A reduction of the running MGO is formed and retires (R248, R256). -/
  | reductionRetire (core : Nat)
  /-- The head entry of a queue completes (R199). -/
  | engineEntryComplete (core : Nat) (q : BitVec 2)
  /-- The oldest walk of a die ends (R61). -/
  | pageWalkComplete (die : BitVec 3)
  /-- A page copy of a core's page path ends; bad 1 is a poisoned line (R65, R419). -/
  | pageCopyComplete (core : Nat) (i : Nat) (bad : BitVec 2)
  /-- The oldest scoreboarded result returns (R144). -/
  | scoreboardReturn (core : Nat) (sx : Nat)
  /-- SR-IOV enables or disables VF n (R339). -/
  | virtualFunctionEnable (vf : BitVec 5) (on : BitVec 1)
  /-- mtime reaches mtimecmp (R350). -/
  | toolTimerInterrupt (hart : BitVec 5)
  deriving DecidableEq, Repr

end Sys2Proof
end

