-- ==== Sys2Proof/WellFormed.lean ====
section
/-! DEFINITION. Which instructions the encoding tables admit: source selectors (R141), system register numbers (R146),
rounding modes (R77), LEA scales (R164), PUBV scopes (R269), and the numbers of units (R8, R9, R20). -/

namespace Sys2Proof

/-- A source selector names g0 to g31 or y0 to y3 (R141). -/
def selOk (v : BitVec 6) : Bool := v.toNat < 36

/-- The system register numbers of R146. -/
def sysNumber (n : Nat) : Bool := n ≤ 22 || (32 ≤ n && n ≤ 47)

/-- The system registers that MTS may write (R146). -/
def sysWritable (n : Nat) : Bool := n ≤ 12 || (32 ≤ n && n ≤ 47)

/-- A long-immediate group as R142 forms it: the word after the immediate has an immediate field. What else the prefixed
word must satisfy is checked when the group issues (R403). -/
def liwOk (_imm w : BitVec 32) : Bool :=
  let m := (w.extractLsb' 26 6).toNat
  (1 ≤ m && m ≤ 6) || (11 ≤ m && m ≤ 13) || (21 ≤ m && m ≤ 24)


/-- Is every field of the instruction one the encoding tables admit (R141, R146, R164, R174, R269) and every unit that a
step names one of the part (R8, R9)? -/
def wellFormed : Instr → Bool
  | .add _ _ a b => selOk a && selOk b
  | .sub _ _ a b => selOk a && selOk b
  | .and _ _ a b => selOk a && selOk b
  | .or _ _ a b => selOk a && selOk b
  | .xor _ _ a b => selOk a && selOk b
  | .andn _ _ a b => selOk a && selOk b
  | .orn _ _ a b => selOk a && selOk b
  | .shl _ _ a b => selOk a && selOk b
  | .shr _ _ a b => selOk a && selOk b
  | .sar _ _ a b => selOk a && selOk b
  | .rol _ _ a b => selOk a && selOk b
  | .min _ _ a b => selOk a && selOk b
  | .max _ _ a b => selOk a && selOk b
  | .minn _ _ a b => selOk a && selOk b
  | .maxn _ _ a b => selOk a && selOk b
  | .seq _ _ a b => selOk a && selOk b
  | .sne _ _ a b => selOk a && selOk b
  | .slt _ _ a b => selOk a && selOk b
  | .sltn _ _ a b => selOk a && selOk b
  | .sle _ _ a b => selOk a && selOk b
  | .slen _ _ a b => selOk a && selOk b
  | .clz _ _ a => selOk a
  | .ctz _ _ a => selOk a
  | .popc _ _ a => selOk a
  | .addi _ _ a _ => selOk a
  | .andi _ _ a _ => selOk a
  | .ori _ _ a _ => selOk a
  | .xori _ _ a _ => selOk a
  | .shli _ _ a _ => selOk a
  | .shri _ _ a _ => selOk a
  | .sari _ _ a _ => selOk a
  | .roli _ _ a _ => selOk a
  | .seqi _ _ a _ => selOk a
  | .slti _ _ a _ => selOk a
  | .sltni _ _ a _ => selOk a
  | .lea _ _ a b s => selOk a && selOk b && s.toNat < 5
  | .mul _ _ a b => selOk a && selOk b
  | .mulh _ _ a b => selOk a && selOk b
  | .mulhn _ _ a b => selOk a && selOk b
  | .div _ _ a b => selOk a && selOk b
  | .divn _ _ a b => selOk a && selOk b
  | .rem _ _ a b => selOk a && selOk b
  | .remn _ _ a b => selOk a && selOk b
  | .peq _ a b => selOk a && selOk b
  | .pne _ a b => selOk a && selOk b
  | .plt _ a b => selOk a && selOk b
  | .pltn _ a b => selOk a && selOk b
  | .ple _ a b => selOk a && selOk b
  | .plen _ a b => selOk a && selOk b
  | .pand _ _ _ => true
  | .por _ _ _ => true
  | .pxor _ _ _ => true
  | .pnot _ _ => true
  | .ptog _ => true
  | .sel _ _ a b _ _ => selOk a && selOk b
  | .ldS8 _ b _ => selOk b
  | .ldN8 _ b _ => selOk b
  | .ldS16 _ b _ => selOk b
  | .ldN16 _ b _ => selOk b
  | .ldS32 _ b _ => selOk b
  | .ldN32 _ b _ => selOk b
  | .ldD _ b _ => selOk b
  | .stB _ b _ => selOk b
  | .stH _ b _ => selOk b
  | .stW _ b _ => selOk b
  | .stD _ b _ => selOk b
  | .stfW _ b _ => selOk b
  | .stfD _ b _ => selOk b
  | .ldfWKeep _ b _ => selOk b
  | .ldfWTake _ b _ => selOk b
  | .ldfDKeep _ b _ => selOk b
  | .ldfDTake _ b _ => selOk b
  | .aaddW _ _ a b => selOk a && selOk b
  | .aaddD _ _ a b => selOk a && selOk b
  | .asaddW _ _ a b => selOk a && selOk b
  | .asaddD _ _ a b => selOk a && selOk b
  | .aminW _ _ a b => selOk a && selOk b
  | .aminD _ _ a b => selOk a && selOk b
  | .amaxW _ _ a b => selOk a && selOk b
  | .amaxD _ _ a b => selOk a && selOk b
  | .aminnW _ _ a b => selOk a && selOk b
  | .aminnD _ _ a b => selOk a && selOk b
  | .amaxnW _ _ a b => selOk a && selOk b
  | .amaxnD _ _ a b => selOk a && selOk b
  | .aandW _ _ a b => selOk a && selOk b
  | .aandD _ _ a b => selOk a && selOk b
  | .aorW _ _ a b => selOk a && selOk b
  | .aorD _ _ a b => selOk a && selOk b
  | .axorW _ _ a b => selOk a && selOk b
  | .axorD _ _ a b => selOk a && selOk b
  | .aswapW _ _ a b => selOk a && selOk b
  | .aswapD _ _ a b => selOk a && selOk b
  | .acasW _ _ a b => selOk a && selOk b
  | .acasD _ _ a b => selOk a && selOk b
  | .afaddW _ _ a b => selOk a && selOk b
  | .faddD _ _ a b => selOk a && selOk b
  | .faddS _ _ a b => selOk a && selOk b
  | .fsubD _ _ a b => selOk a && selOk b
  | .fsubS _ _ a b => selOk a && selOk b
  | .fmulD _ _ a b => selOk a && selOk b
  | .fmulS _ _ a b => selOk a && selOk b
  | .fminD _ _ a b => selOk a && selOk b
  | .fminS _ _ a b => selOk a && selOk b
  | .fmaxD _ _ a b => selOk a && selOk b
  | .fmaxS _ _ a b => selOk a && selOk b
  | .fabsD _ _ a => selOk a
  | .fabsS _ _ a => selOk a
  | .fnegD _ _ a => selOk a
  | .fnegS _ _ a => selOk a
  | .fceqD _ _ a b => selOk a && selOk b
  | .fceqS _ _ a b => selOk a && selOk b
  | .fcltD _ _ a b => selOk a && selOk b
  | .fcltS _ _ a b => selOk a && selOk b
  | .fcleD _ _ a b => selOk a && selOk b
  | .fcleS _ _ a b => selOk a && selOk b
  | .ffmaD _ _ a b => selOk a && selOk b
  | .ffmaS _ _ a b => selOk a && selOk b
  | .fcvtF32F64 _ _ a m => selOk a && m.toNat < 5
  | .fcvtF64F32 _ _ a m => selOk a && m.toNat < 5
  | .fcvtF16F32 _ _ a m => selOk a && m.toNat < 5
  | .fcvtF32F16 _ _ a m => selOk a && m.toNat < 5
  | .fcvtBf16F32 _ _ a m => selOk a && m.toNat < 5
  | .fcvtF32Bf16 _ _ a m => selOk a && m.toNat < 5
  | .fcvtKf8F32 _ _ a m => selOk a && m.toNat < 5
  | .fcvtF32Kf8 _ _ a m => selOk a && m.toNat < 5
  | .fcvtS64F64 _ _ a m => selOk a && m.toNat < 5
  | .fcvtF64S64 _ _ a m => selOk a && m.toNat < 5
  | .fcvtS32F32 _ _ a m => selOk a && m.toNat < 5
  | .fcvtF32S32 _ _ a m => selOk a && m.toNat < 5
  | .fcvtN64F64 _ _ a m => selOk a && m.toNat < 5
  | .fcvtF64N64 _ _ a m => selOk a && m.toNat < 5
  | .exp2D _ _ a => selOk a
  | .exp2S _ _ a => selOk a
  | .log2D _ _ a => selOk a
  | .log2S _ _ a => selOk a
  | .rcpD _ _ a => selOk a
  | .rcpS _ _ a => selOk a
  | .rsqD _ _ a => selOk a
  | .rsqS _ _ a => selOk a
  | .kand _ n _ _ => n == 0
  | .kor _ n _ _ => n == 0
  | .kxor _ n _ _ => n == 0
  | .kandn _ n _ _ => n == 0
  | .knot _ n _ => n == 0
  | .kshl _ n _ b => n == 0 && selOk b
  | .kshr _ n _ b => n == 0 && selOk b
  | .kpop _ _ _ => true
  | .kmovg _ _ _ => true
  | .kmovk _ n a => n == 0 && selOk a
  | .kbit _ n _ b => n == 0 && selOk b
  | .ktst _ n _ b => n == 0 && selOk b
  | .kldm _ n a b => n == 0 && selOk a && selOk b
  | .kffs _ _ _ => true
  | .emov _ n a => n == 0 && selOk a
  | .eget _ _ _ => true
  | .emin _ n _ b => n == 0 && selOk b
  | .esub _ n _ b => n == 0 && selOk b
  | .eadd _ n _ b => n == 0 && selOk b
  | .eclr a => selOk a
  | .br _ _ _ => true
  | .jal _ _ _ => true
  | .jr _ _ a _ => selOk a
  | .loop a _ => selOk a
  | .loopi _ _ => true
  | .nop => true
  | .halt => true
  | .trap a => selOk a
  | .eret => true
  | .evret => true
  | .mfs _ _ r => sysNumber r.toNat
  | .mts a r => selOk a && sysWritable r.toNat
  | .fence => true
  | .afence => true
  | .phaseCore => true
  | .phaseClus => true
  | .phaseDie => true
  | .phasePkg => true
  | .phaseDom => true
  | .phaseSys => true
  | .segend _ _ => true
  | .waitc _ _ a b => selOk a && selOk b
  | .sched _ b => selOk b
  | .park _ _ a => selOk a
  | .notify a b => selOk a && selOk b
  | .rpop _ _ => true
  | .cinG _ _ _ _ _ => true
  | .cinL _ _ _ _ _ => true
  | .cinP _ _ _ _ _ => true
  | .cinMc _ _ _ _ _ => true
  | .coutG _ _ _ _ _ => true
  | .coutL _ _ _ _ _ => true
  | .coutP _ _ _ _ _ => true
  | .coutSel _ _ _ _ _ => true
  | .cpxPp _ _ _ _ _ => true
  | .cpxPl _ _ _ _ _ => true
  | .cpxLp _ _ _ _ _ => true
  | .cpxLl _ _ _ _ _ => true
  | .cgathP _ _ _ _ _ => true
  | .cgathL _ _ _ _ _ => true
  | .cscatP _ _ _ _ _ => true
  | .cscatL _ _ _ _ _ => true
  | .pgin _ _ _ _ => true
  | .pgout _ _ _ _ => true
  | .wrsig _ _ _ _ _ => true
  | .wrsigAdd _ _ _ _ _ => true
  | .lkopFill _ _ _ _ _ => true
  | .lkopAdd _ _ _ _ _ => true
  | .lkopSadd _ _ _ _ _ => true
  | .lkopMin _ _ _ _ _ => true
  | .lkopMax _ _ _ _ _ => true
  | .lkopAnd _ _ _ _ _ => true
  | .lkopOr _ _ _ _ _ => true
  | .lkopXor _ _ _ _ _ => true
  | .lkopFadd _ _ _ _ _ => true
  | .lkopFmax _ _ _ _ _ => true
  | .lkopFmul _ _ _ _ _ => true
  | .lkopRsum _ _ _ _ _ => true
  | .give _ => true
  | .take _ => true
  | .qdepth _ _ _ b => selOk b
  | .qseq _ _ _ _ => true
  | .vchain _ _ _ _ _ => true
  | .vredSum _ _ _ _ _ => true
  | .vredMax _ _ _ _ _ => true
  | .vredMin _ _ _ _ _ => true
  | .vredArgmax _ _ _ _ _ => true
  | .vredArgmin _ _ _ _ _ => true
  | .vredSumsq _ _ _ _ _ => true
  | .vscanAdd _ _ _ _ _ => true
  | .vscanMax _ _ _ _ _ => true
  | .vgath _ _ _ _ _ => true
  | .vscatSet _ _ _ _ _ => true
  | .vscatAdd _ _ _ _ _ => true
  | .vscatMax _ _ _ _ _ => true
  | .vscatMul _ _ _ _ _ => true
  | .vdotS8 _ _ _ _ _ => true
  | .vdotQ4 _ _ _ _ _ => true
  | .vdotT5 _ _ _ _ _ => true
  | .bset _ _ _ _ => true
  | .vperm _ _ _ _ _ => true
  | .vsearchTopk _ _ _ _ _ => true
  | .vsearchThr _ _ _ _ _ => true
  | .vfind _ _ _ _ _ => true
  | .vcount _ _ _ _ _ => true
  | .mlt _ _ _ => true
  | .mgo _ _ _ => true
  | .mldwDense _ _ _ _ => true
  | .mldwS24 _ _ _ _ _ => true
  | .mldwS14 _ _ _ _ _ => true
  | .mswap _ _ => true
  | .mmask _ _ _ => true
  | .mzero _ _ _ => true
  | .mdrainP _ _ _ _ _ => true
  | .mdrainPort _ _ _ _ _ => true
  | .mdrainSel _ _ _ _ _ => true
  | .mstat _ _ => true
  | .talloc _ _ a b => selOk a && selOk b
  | .tallocV _ _ a b => selOk a && selOk b
  | .tadd a b => selOk a && selOk b
  | .tdraw a => selOk a
  | .tabnd a => selOk a
  | .tinfo _ _ a => selOk a
  | .pubv _ s a b => s.toNat < 6 && selOk a && selOk b
  | .pubvF _ s a b => s.toNat < 6 && selOk a && selOk b
  | .tsub _ _ a b => selOk a && selOk b
  | .stopref a => selOk a
  | .swait a => selOk a
  | .tver _ _ a => selOk a
  | .fork a b => selOk a && selOk b
  | .join => true
  | .enq a b => selOk a && selOk b
  | .card _ _ => true
  | .mbpost a b => selOk a && selOk b
  | .mbtake _ _ a => selOk a
  | .coll _ _ a b => selOk a && selOk b
  | .liw imm w => liwOk imm w
  | .csend cl _ _ => cl < 36
  | .crecv cl _ _ => cl < 36
  | .crrs cl _ _ => cl < 36
  | .ccopy cl _ _ => cl < 36
  | .cwait cl _ _ => cl < 36
  | .cloop cl _ _ _ _ _ => cl < 36
  | .cbar cl _ => cl < 36
  | .cend cl _ => cl < 36
  | .hostRegisterWrite fn _ _ => fn.toNat ≤ 16
  | .graphParameterWrite _ _ _ => true
  | .gstart _ _ => true
  | .graphSlotConfigWrite _ reg _ => reg.toNat < 3
  | .launch _ _ => true
  | .installPoolDescriptors _ => true
  | .shootdown _ => true
  | .shootdownDone _ => true
  | .jend _ _ => true
  | .crst _ => true
  | .vfFlr vf => 1 ≤ vf.toNat && vf.toNat ≤ 16
  | .replay _ => true
  | .trun _ => true
  | .thold _ => true
  | .wallWrite _ _ _ => true
  | .plimWrite _ => true
  | .routeEntryWrite _ _ => true
  | .monitorClear _ => true
  | .monitorSatClear _ => true
  | .elstatDropClear _ => true
  | .cfenceClear cl _ => cl.toNat < 36
  | .monitorSample _ _ => true
  | .notifyMirrorWrite fn _ _ => fn.toNat ≤ 16
  | .toolNotifyStore _ _ _ => true
  | .toolSandboxAccess _ _ _ _ _ => true
  | .doorbellClear _ _ => true
  | .attestationRequest => true
  | .securityImageVerify _ _ _ _ _ _ => true
  | .deviceReset => true
  | .pcieHotReset => true
  | .hostLinkError _ => true
  | .hostBar2Access fn _ _ _ _ => fn.toNat ≤ 16
  | .powerStateEntry part _ => part.toNat < 7
  | .powerWake part => part.toNat < 7
  | .thermalHoldEntry die => die.toNat < 6
  | .thermalHoldExit die _ => die.toNat < 6
  | .thermalTrip die => die.toNat < 6
  | .supplyFault => true
  | .plimOverrun => true
  | .correctableError die => die.toNat < 6
  | .patrolPoison _ _ => true
  | .deviceFatalError _ unit _ => unit < 1734
  | .securityProcessorFault => true
  | .toolCacheError _ _ => true
  | .tileTableError unit _ => unit < 1734
  | .cxlPortDown _ => true
  | .cxlPortRetrained _ => true
  | .flitReceive span _ _ => span.toNat < 24
  | .flitAck span _ => span.toNat < 24
  | .flitAckTimeout span => span.toNat < 24
  | .spanUp span _ => span.toNat < 24
  | .remoteAccessHome _ _ _ n _ _ => decide (0 < n.toNat && n.toNat ≤ 240)
  | .remoteResponse _ _ _ => true
  | .remoteAccessTimeout _ => true
  | .pierReport _ _ => true
  | .collReadyArrive cl _ _ => cl < 36
  | .collDataArrive cl _ _ _ _ => cl < 36
  | .collTransferFinish cl _ _ _ => cl < 36
  | .cbarMessage cl _ _ => cl < 36
  | .collAbortMessage cl _ => cl < 36
  | .collTimeout cl _ _ => cl < 36
  | .jobIssue _ => true
  | .class0Preempt _ => true
  | .preemptPointLate core _ => core < 1728
  | .contextSave core _ => core < 1728
  | .saveComplete core _ => core < 1728
  | .contextRestore _ => true
  | .streamNodeStart => true
  | .streamNodeComplete _ => true
  | .jobEnd _ => true
  | .cardServe => true
  | .periodStart core => core < 1728
  | .strandChoice core => core < 1728
  | .eventDelivery core sx => core < 1728 && sx < 4
  | .waitExpiry core who => core < 1728 && who < 8
  | .asyncPoolCause core sx => core < 1728 && sx < 4
  | .taskStart core sx => core < 1728 && sx < 4
  | .stealRequest core sx => core < 1728 && sx < 4
  | .stealResult core sx => core < 1728 && sx < 4
  | .stealRetry core sx => core < 1728 && sx < 4
  | .poolUnitCycle unit => unit < 1734
  | .subscriberFireTimeout _ _ => true
  | .settleExamine _ set => set < 64
  | .engineEntryBegin core _ => core < 1728
  | .copySector core _ => core < 1728
  | .vectorRow core => core < 1728
  | .reductionRetire core => core < 1728
  | .engineEntryComplete core _ => core < 1728
  | .pageWalkComplete die => die.toNat < 6
  | .pageCopyComplete core _ _ => core < 1728
  | .scoreboardReturn core sx => core < 1728 && sx < 4
  | .virtualFunctionEnable vf _ => 1 ≤ vf.toNat && vf.toNat ≤ 16
  | .toolTimerInterrupt _ => true

end Sys2Proof
end

