-- ==== Sys2Proof/Decode.lean ====
section
/-! DEFINITION. The decoder and, after it, the encoder of the instruction words (R138 to R154, R328, R333) with the checks
of R401 and R402 in the order R401 gives them. -/

namespace Sys2Proof

/-- Why a word is refused at decode (R401, R402). -/
inductive DecErr where
  /-- 0x00: a reserved major. -/
  | reservedMajor
  /-- 0x01: a reserved fn, selecting value or field value. -/
  | reservedValue (v : Nat)
  /-- 0x02: a must-be-zero field is not zero. -/
  | mustBeZero (v : Nat)
  /-- 0x03: a reserved source selector. -/
  | reservedSelector (v : Nat)
  /-- 0x04: a prefix before a word without an immediate field. -/
  | liwMisuse
  /-- 0x05: a reserved TAKE or GIVE bit. -/
  | reservedToken (v : Nat)
  /-- 0x06: a reserved system register number, or MTS to a read-only one. -/
  | reservedSystem (v : Nat)
  /-- 0x07: a reserved rounding mode. -/
  | reservedMode (v : Nat)
  /-- 0x08: a long immediate beyond its field. -/
  | liwRange (v : Nat)
  /-- Fewer bytes than the instruction has. -/
  | tooShort
  deriving DecidableEq, Repr

/-- The cause code of a refusal (R393). -/
def DecErr.code : DecErr → Nat
  | .reservedMajor => 0x00 | .reservedValue _ => 0x01 | .mustBeZero _ => 0x02 | .reservedSelector _ => 0x03
  | .liwMisuse => 0x04 | .reservedToken _ => 0x05 | .reservedSystem _ => 0x06 | .reservedMode _ => 0x07
  | .liwRange _ => 0x08 | .tooShort => 0x00

/-- TARG1 of a refusal (R402, R403). -/
def DecErr.arg : DecErr → Nat
  | .reservedValue v => v | .mustBeZero v => v | .reservedSelector v => v | .reservedToken v => v
  | .reservedSystem v => v | .reservedMode v => v | .liwRange v => v
  | .reservedMajor => 0 | .liwMisuse => 0 | .tooShort => 0

/-- What decoding answers. -/
abbrev Dec := Except DecErr Instr

/-- The four engine queues (R147). -/
inductive QName where
  | lq | vq | mq | sq
  deriving DecidableEq, Repr

/-- A must-be-zero field of a word: its lowest bit, its value, and whether the field value itself is reported (LOOP, LOOPI;
R402) or the offset of its lowest set bit. -/
structure ZeroField where
  lo : Nat
  val : Nat
  byValue : Bool

/-- The must-be-zero field of len bits at bit lo. -/
def zf (w : Word) (lo len : Nat) (byValue : Bool) : ZeroField := ⟨lo, (w.extractLsb' lo len).toNat, byValue⟩

/-- The first selector outside R141 is reported, in operand order (R401 step 4). -/
def okSels : List (BitVec 6) → Except DecErr Unit
  | [] => .ok ()
  | v :: t => if v.toNat < 36 then okSels t else .error (.reservedSelector v.toNat)

/-- The lowest set bit among the must-be-zero fields is reported (R401 step 5, R402). -/
def okZeros : List ZeroField → Except DecErr Unit
  | [] => .ok ()
  | z :: t =>
    if z.val = 0 then okZeros t
    else .error (.mustBeZero (if z.byValue then z.val else z.lo + Machine.lowBit 32 z.val))

/-- Selectors, then must-be-zero fields. -/
def chk (sels : List (BitVec 6)) (zs : List ZeroField) (i : Instr) : Dec :=
  match okSels sels with
  | .error e => .error e
  | .ok _ => match okZeros zs with
    | .error e => .error e
    | .ok _ => .ok i

/-- The lowest reserved bit of TAKE, then of GIVE (R150, R401 step 5). Bit 2 of TAKE is reserved in every queue. -/
def tokenErr (take give : BitVec 3) (q : QName) : Option Nat :=
  if take.getLsbD 2 then some 2
  else if q = .sq && give.getLsbD 1 then some 1
  else if q ≠ .vq && give.getLsbD 2 then some 2
  else none

/-- The checks of an engine word. -/
def chkE (w : Word) (q : QName) (zs : List ZeroField) (i : Instr) : Dec :=
  match okZeros zs with
  | .error e => .error e
  | .ok _ => match tokenErr (w.extractLsb' 23 3) (w.extractLsb' 20 3) q with
    | some b => .error (.reservedToken b)
    | none => .ok i

/-- Rounding modes 5 to 7 are reserved (R174, R402). -/
def chkMode (m : BitVec 3) (d : Dec) : Dec := if m.toNat < 5 then d else .error (.reservedMode m.toNat)

/-- Scope codes 6 and 7 are reserved (R269, R402). -/
def chkScope (s : BitVec 3) (d : Dec) : Dec := if s.toNat < 6 then d else .error (.reservedValue s.toNat)

/-- QSEQ names push or done by b = 0 or 1 (R218, R402; log 19). -/
def chkQseq (b : BitVec 6) (d : Dec) : Dec := if b.toNat < 2 then d else .error (.reservedValue b.toNat)

/-- LEA scales 5 to 255 are reserved (R164). -/
def chkScale (s : BitVec 8) (d : Dec) : Dec := if s.toNat < 5 then d else .error (.reservedValue s.toNat)

/-- System register numbers of R146, the read-only ones refused to MTS. -/
def chkSys (r : BitVec 6) (write : Bool) (i : Instr) : Dec :=
  if (if write then sysWritable r.toNat else sysNumber r.toNat) then .ok i else .error (.reservedSystem r.toNat)

/-- The words of major 0x00 (R152). -/
def decMajor00 (w : Word) : Dec :=
  match (w.extractLsb' 0 8).toNat with
  | 0 => chk [w.extractLsb' 14 6, w.extractLsb' 8 6] [] (.add (w.extractLsb' 21 5) (w.extractLsb' 20 1) (w.extractLsb' 14 6) (w.extractLsb' 8 6))
  | 1 => chk [w.extractLsb' 14 6, w.extractLsb' 8 6] [] (.sub (w.extractLsb' 21 5) (w.extractLsb' 20 1) (w.extractLsb' 14 6) (w.extractLsb' 8 6))
  | 2 => chk [w.extractLsb' 14 6, w.extractLsb' 8 6] [] (.and (w.extractLsb' 21 5) (w.extractLsb' 20 1) (w.extractLsb' 14 6) (w.extractLsb' 8 6))
  | 3 => chk [w.extractLsb' 14 6, w.extractLsb' 8 6] [] (.or (w.extractLsb' 21 5) (w.extractLsb' 20 1) (w.extractLsb' 14 6) (w.extractLsb' 8 6))
  | 4 => chk [w.extractLsb' 14 6, w.extractLsb' 8 6] [] (.xor (w.extractLsb' 21 5) (w.extractLsb' 20 1) (w.extractLsb' 14 6) (w.extractLsb' 8 6))
  | 5 => chk [w.extractLsb' 14 6, w.extractLsb' 8 6] [] (.andn (w.extractLsb' 21 5) (w.extractLsb' 20 1) (w.extractLsb' 14 6) (w.extractLsb' 8 6))
  | 6 => chk [w.extractLsb' 14 6, w.extractLsb' 8 6] [] (.orn (w.extractLsb' 21 5) (w.extractLsb' 20 1) (w.extractLsb' 14 6) (w.extractLsb' 8 6))
  | 7 => chk [w.extractLsb' 14 6, w.extractLsb' 8 6] [] (.shl (w.extractLsb' 21 5) (w.extractLsb' 20 1) (w.extractLsb' 14 6) (w.extractLsb' 8 6))
  | 8 => chk [w.extractLsb' 14 6, w.extractLsb' 8 6] [] (.shr (w.extractLsb' 21 5) (w.extractLsb' 20 1) (w.extractLsb' 14 6) (w.extractLsb' 8 6))
  | 9 => chk [w.extractLsb' 14 6, w.extractLsb' 8 6] [] (.sar (w.extractLsb' 21 5) (w.extractLsb' 20 1) (w.extractLsb' 14 6) (w.extractLsb' 8 6))
  | 10 => chk [w.extractLsb' 14 6, w.extractLsb' 8 6] [] (.rol (w.extractLsb' 21 5) (w.extractLsb' 20 1) (w.extractLsb' 14 6) (w.extractLsb' 8 6))
  | 11 => chk [w.extractLsb' 14 6, w.extractLsb' 8 6] [] (.min (w.extractLsb' 21 5) (w.extractLsb' 20 1) (w.extractLsb' 14 6) (w.extractLsb' 8 6))
  | 12 => chk [w.extractLsb' 14 6, w.extractLsb' 8 6] [] (.max (w.extractLsb' 21 5) (w.extractLsb' 20 1) (w.extractLsb' 14 6) (w.extractLsb' 8 6))
  | 13 => chk [w.extractLsb' 14 6, w.extractLsb' 8 6] [] (.minn (w.extractLsb' 21 5) (w.extractLsb' 20 1) (w.extractLsb' 14 6) (w.extractLsb' 8 6))
  | 14 => chk [w.extractLsb' 14 6, w.extractLsb' 8 6] [] (.maxn (w.extractLsb' 21 5) (w.extractLsb' 20 1) (w.extractLsb' 14 6) (w.extractLsb' 8 6))
  | 15 => chk [w.extractLsb' 14 6, w.extractLsb' 8 6] [] (.seq (w.extractLsb' 21 5) (w.extractLsb' 20 1) (w.extractLsb' 14 6) (w.extractLsb' 8 6))
  | 16 => chk [w.extractLsb' 14 6, w.extractLsb' 8 6] [] (.sne (w.extractLsb' 21 5) (w.extractLsb' 20 1) (w.extractLsb' 14 6) (w.extractLsb' 8 6))
  | 17 => chk [w.extractLsb' 14 6, w.extractLsb' 8 6] [] (.slt (w.extractLsb' 21 5) (w.extractLsb' 20 1) (w.extractLsb' 14 6) (w.extractLsb' 8 6))
  | 18 => chk [w.extractLsb' 14 6, w.extractLsb' 8 6] [] (.sltn (w.extractLsb' 21 5) (w.extractLsb' 20 1) (w.extractLsb' 14 6) (w.extractLsb' 8 6))
  | 19 => chk [w.extractLsb' 14 6, w.extractLsb' 8 6] [] (.sle (w.extractLsb' 21 5) (w.extractLsb' 20 1) (w.extractLsb' 14 6) (w.extractLsb' 8 6))
  | 20 => chk [w.extractLsb' 14 6, w.extractLsb' 8 6] [] (.slen (w.extractLsb' 21 5) (w.extractLsb' 20 1) (w.extractLsb' 14 6) (w.extractLsb' 8 6))
  | 21 => chk [w.extractLsb' 14 6] [zf w 8 6 false] (.clz (w.extractLsb' 21 5) (w.extractLsb' 20 1) (w.extractLsb' 14 6))
  | 22 => chk [w.extractLsb' 14 6] [zf w 8 6 false] (.ctz (w.extractLsb' 21 5) (w.extractLsb' 20 1) (w.extractLsb' 14 6))
  | 23 => chk [w.extractLsb' 14 6] [zf w 8 6 false] (.popc (w.extractLsb' 21 5) (w.extractLsb' 20 1) (w.extractLsb' 14 6))
  | n => .error (.reservedValue n)

/-- The words of major 0x01 (R152). -/
def decMajor01 (w : Word) : Dec :=
  chk [w.extractLsb' 14 6] [] (.addi (w.extractLsb' 21 5) (w.extractLsb' 20 1) (w.extractLsb' 14 6) (w.extractLsb' 0 14))

/-- The words of major 0x02 (R152). -/
def decMajor02 (w : Word) : Dec :=
  chk [w.extractLsb' 14 6] [] (.andi (w.extractLsb' 21 5) (w.extractLsb' 20 1) (w.extractLsb' 14 6) (w.extractLsb' 0 14))

/-- The words of major 0x03 (R152). -/
def decMajor03 (w : Word) : Dec :=
  chk [w.extractLsb' 14 6] [] (.ori (w.extractLsb' 21 5) (w.extractLsb' 20 1) (w.extractLsb' 14 6) (w.extractLsb' 0 14))

/-- The words of major 0x04 (R152). -/
def decMajor04 (w : Word) : Dec :=
  chk [w.extractLsb' 14 6] [] (.xori (w.extractLsb' 21 5) (w.extractLsb' 20 1) (w.extractLsb' 14 6) (w.extractLsb' 0 14))

/-- The words of major 0x05 (R152). -/
def decMajor05 (w : Word) : Dec :=
  match (w.extractLsb' 12 2).toNat with
  | 0 => chk [w.extractLsb' 14 6] [zf w 6 6 false] (.shli (w.extractLsb' 21 5) (w.extractLsb' 20 1) (w.extractLsb' 14 6) (w.extractLsb' 0 6))
  | 1 => chk [w.extractLsb' 14 6] [zf w 6 6 false] (.shri (w.extractLsb' 21 5) (w.extractLsb' 20 1) (w.extractLsb' 14 6) (w.extractLsb' 0 6))
  | 2 => chk [w.extractLsb' 14 6] [zf w 6 6 false] (.sari (w.extractLsb' 21 5) (w.extractLsb' 20 1) (w.extractLsb' 14 6) (w.extractLsb' 0 6))
  | _ => chk [w.extractLsb' 14 6] [zf w 6 6 false] (.roli (w.extractLsb' 21 5) (w.extractLsb' 20 1) (w.extractLsb' 14 6) (w.extractLsb' 0 6))

/-- The words of major 0x06 (R152). -/
def decMajor06 (w : Word) : Dec :=
  match (w.extractLsb' 12 2).toNat with
  | 0 => chk [w.extractLsb' 14 6] [] (.seqi (w.extractLsb' 21 5) (w.extractLsb' 20 1) (w.extractLsb' 14 6) (w.extractLsb' 0 12))
  | 1 => chk [w.extractLsb' 14 6] [] (.slti (w.extractLsb' 21 5) (w.extractLsb' 20 1) (w.extractLsb' 14 6) (w.extractLsb' 0 12))
  | 2 => chk [w.extractLsb' 14 6] [] (.sltni (w.extractLsb' 21 5) (w.extractLsb' 20 1) (w.extractLsb' 14 6) (w.extractLsb' 0 12))
  | n => .error (.reservedValue n)

/-- The words of major 0x07 (R152). -/
def decMajor07 (w : Word) : Dec :=
  chkScale (w.extractLsb' 0 8) (chk [w.extractLsb' 14 6, w.extractLsb' 8 6] [] (.lea (w.extractLsb' 21 5) (w.extractLsb' 20 1) (w.extractLsb' 14 6) (w.extractLsb' 8 6) (w.extractLsb' 0 8)))

/-- The words of major 0x08 (R152). -/
def decMajor08 (w : Word) : Dec :=
  match (w.extractLsb' 0 8).toNat with
  | 0 => chk [w.extractLsb' 14 6, w.extractLsb' 8 6] [] (.mul (w.extractLsb' 21 5) (w.extractLsb' 20 1) (w.extractLsb' 14 6) (w.extractLsb' 8 6))
  | 1 => chk [w.extractLsb' 14 6, w.extractLsb' 8 6] [] (.mulh (w.extractLsb' 21 5) (w.extractLsb' 20 1) (w.extractLsb' 14 6) (w.extractLsb' 8 6))
  | 2 => chk [w.extractLsb' 14 6, w.extractLsb' 8 6] [] (.mulhn (w.extractLsb' 21 5) (w.extractLsb' 20 1) (w.extractLsb' 14 6) (w.extractLsb' 8 6))
  | 3 => chk [w.extractLsb' 14 6, w.extractLsb' 8 6] [] (.div (w.extractLsb' 21 5) (w.extractLsb' 20 1) (w.extractLsb' 14 6) (w.extractLsb' 8 6))
  | 4 => chk [w.extractLsb' 14 6, w.extractLsb' 8 6] [] (.divn (w.extractLsb' 21 5) (w.extractLsb' 20 1) (w.extractLsb' 14 6) (w.extractLsb' 8 6))
  | 5 => chk [w.extractLsb' 14 6, w.extractLsb' 8 6] [] (.rem (w.extractLsb' 21 5) (w.extractLsb' 20 1) (w.extractLsb' 14 6) (w.extractLsb' 8 6))
  | 6 => chk [w.extractLsb' 14 6, w.extractLsb' 8 6] [] (.remn (w.extractLsb' 21 5) (w.extractLsb' 20 1) (w.extractLsb' 14 6) (w.extractLsb' 8 6))
  | n => .error (.reservedValue n)

/-- The words of major 0x09 (R152). -/
def decMajor09 (w : Word) : Dec :=
  match (w.extractLsb' 0 8).toNat with
  | 0 => chk [w.extractLsb' 14 6, w.extractLsb' 8 6] [zf w 20 1 false, zf w 24 2 false] (.peq (w.extractLsb' 21 3) (w.extractLsb' 14 6) (w.extractLsb' 8 6))
  | 1 => chk [w.extractLsb' 14 6, w.extractLsb' 8 6] [zf w 20 1 false, zf w 24 2 false] (.pne (w.extractLsb' 21 3) (w.extractLsb' 14 6) (w.extractLsb' 8 6))
  | 2 => chk [w.extractLsb' 14 6, w.extractLsb' 8 6] [zf w 20 1 false, zf w 24 2 false] (.plt (w.extractLsb' 21 3) (w.extractLsb' 14 6) (w.extractLsb' 8 6))
  | 3 => chk [w.extractLsb' 14 6, w.extractLsb' 8 6] [zf w 20 1 false, zf w 24 2 false] (.pltn (w.extractLsb' 21 3) (w.extractLsb' 14 6) (w.extractLsb' 8 6))
  | 4 => chk [w.extractLsb' 14 6, w.extractLsb' 8 6] [zf w 20 1 false, zf w 24 2 false] (.ple (w.extractLsb' 21 3) (w.extractLsb' 14 6) (w.extractLsb' 8 6))
  | 5 => chk [w.extractLsb' 14 6, w.extractLsb' 8 6] [zf w 20 1 false, zf w 24 2 false] (.plen (w.extractLsb' 21 3) (w.extractLsb' 14 6) (w.extractLsb' 8 6))
  | 6 => chk [] [zf w 11 3 false, zf w 17 4 false, zf w 24 2 false] (.pand (w.extractLsb' 21 3) (w.extractLsb' 14 3) (w.extractLsb' 8 3))
  | 7 => chk [] [zf w 11 3 false, zf w 17 4 false, zf w 24 2 false] (.por (w.extractLsb' 21 3) (w.extractLsb' 14 3) (w.extractLsb' 8 3))
  | 8 => chk [] [zf w 11 3 false, zf w 17 4 false, zf w 24 2 false] (.pxor (w.extractLsb' 21 3) (w.extractLsb' 14 3) (w.extractLsb' 8 3))
  | 9 => chk [] [zf w 8 6 false, zf w 17 4 false, zf w 24 2 false] (.pnot (w.extractLsb' 21 3) (w.extractLsb' 14 3))
  | 10 => chk [] [zf w 8 13 false, zf w 24 2 false] (.ptog (w.extractLsb' 21 3))
  | n => .error (.reservedValue n)

/-- The words of major 0x0A (R152). -/
def decMajor0a (w : Word) : Dec :=
  chk [w.extractLsb' 14 6, w.extractLsb' 8 6] [zf w 4 4 false] (.sel (w.extractLsb' 21 5) (w.extractLsb' 20 1) (w.extractLsb' 14 6) (w.extractLsb' 8 6) (w.extractLsb' 3 1) (w.extractLsb' 0 3))

/-- The words of major 0x0B (R152). -/
def decMajor0b (w : Word) : Dec :=
  match 2 * (w.extractLsb' 12 2).toNat + (w.extractLsb' 20 1).toNat with
  | 0 => chk [w.extractLsb' 14 6] [] (.ldS8 (w.extractLsb' 21 5) (w.extractLsb' 14 6) (w.extractLsb' 0 12))
  | 1 => chk [w.extractLsb' 14 6] [] (.ldN8 (w.extractLsb' 21 5) (w.extractLsb' 14 6) (w.extractLsb' 0 12))
  | 2 => chk [w.extractLsb' 14 6] [] (.ldS16 (w.extractLsb' 21 5) (w.extractLsb' 14 6) (w.extractLsb' 0 12))
  | 3 => chk [w.extractLsb' 14 6] [] (.ldN16 (w.extractLsb' 21 5) (w.extractLsb' 14 6) (w.extractLsb' 0 12))
  | 4 => chk [w.extractLsb' 14 6] [] (.ldS32 (w.extractLsb' 21 5) (w.extractLsb' 14 6) (w.extractLsb' 0 12))
  | 5 => chk [w.extractLsb' 14 6] [] (.ldN32 (w.extractLsb' 21 5) (w.extractLsb' 14 6) (w.extractLsb' 0 12))
  | 6 => chk [w.extractLsb' 14 6] [] (.ldD (w.extractLsb' 21 5) (w.extractLsb' 14 6) (w.extractLsb' 0 12))
  | n => .error (.reservedValue n)

/-- The words of major 0x0C (R152). -/
def decMajor0c (w : Word) : Dec :=
  match (w.extractLsb' 12 2).toNat with
  | 0 => chk [w.extractLsb' 14 6] [zf w 20 1 false] (.stB (w.extractLsb' 21 5) (w.extractLsb' 14 6) (w.extractLsb' 0 12))
  | 1 => chk [w.extractLsb' 14 6] [zf w 20 1 false] (.stH (w.extractLsb' 21 5) (w.extractLsb' 14 6) (w.extractLsb' 0 12))
  | 2 => chk [w.extractLsb' 14 6] [zf w 20 1 false] (.stW (w.extractLsb' 21 5) (w.extractLsb' 14 6) (w.extractLsb' 0 12))
  | _ => chk [w.extractLsb' 14 6] [zf w 20 1 false] (.stD (w.extractLsb' 21 5) (w.extractLsb' 14 6) (w.extractLsb' 0 12))

/-- The words of major 0x0D (R152). -/
def decMajor0d (w : Word) : Dec :=
  match (w.extractLsb' 12 2).toNat with
  | 0 => chk [w.extractLsb' 14 6] [zf w 20 1 false] (.stfW (w.extractLsb' 21 5) (w.extractLsb' 14 6) (w.extractLsb' 0 12))
  | 1 => chk [w.extractLsb' 14 6] [zf w 20 1 false] (.stfD (w.extractLsb' 21 5) (w.extractLsb' 14 6) (w.extractLsb' 0 12))
  | 2 => if w.extractLsb' 20 1 = 0 then chk [w.extractLsb' 14 6] [] (.ldfWKeep (w.extractLsb' 21 5) (w.extractLsb' 14 6) (w.extractLsb' 0 12))
    else chk [w.extractLsb' 14 6] [] (.ldfWTake (w.extractLsb' 21 5) (w.extractLsb' 14 6) (w.extractLsb' 0 12))
  | _ => if w.extractLsb' 20 1 = 0 then chk [w.extractLsb' 14 6] [] (.ldfDKeep (w.extractLsb' 21 5) (w.extractLsb' 14 6) (w.extractLsb' 0 12))
    else chk [w.extractLsb' 14 6] [] (.ldfDTake (w.extractLsb' 21 5) (w.extractLsb' 14 6) (w.extractLsb' 0 12))

/-- The words of major 0x0E (R152). -/
def decMajor0e (w : Word) : Dec :=
  match (w.extractLsb' 0 8).toNat with
  | 0 => chk [w.extractLsb' 14 6, w.extractLsb' 8 6] [] (.aaddW (w.extractLsb' 21 5) (w.extractLsb' 20 1) (w.extractLsb' 14 6) (w.extractLsb' 8 6))
  | 1 => chk [w.extractLsb' 14 6, w.extractLsb' 8 6] [] (.aaddD (w.extractLsb' 21 5) (w.extractLsb' 20 1) (w.extractLsb' 14 6) (w.extractLsb' 8 6))
  | 2 => chk [w.extractLsb' 14 6, w.extractLsb' 8 6] [] (.asaddW (w.extractLsb' 21 5) (w.extractLsb' 20 1) (w.extractLsb' 14 6) (w.extractLsb' 8 6))
  | 3 => chk [w.extractLsb' 14 6, w.extractLsb' 8 6] [] (.asaddD (w.extractLsb' 21 5) (w.extractLsb' 20 1) (w.extractLsb' 14 6) (w.extractLsb' 8 6))
  | 4 => chk [w.extractLsb' 14 6, w.extractLsb' 8 6] [] (.aminW (w.extractLsb' 21 5) (w.extractLsb' 20 1) (w.extractLsb' 14 6) (w.extractLsb' 8 6))
  | 5 => chk [w.extractLsb' 14 6, w.extractLsb' 8 6] [] (.aminD (w.extractLsb' 21 5) (w.extractLsb' 20 1) (w.extractLsb' 14 6) (w.extractLsb' 8 6))
  | 6 => chk [w.extractLsb' 14 6, w.extractLsb' 8 6] [] (.amaxW (w.extractLsb' 21 5) (w.extractLsb' 20 1) (w.extractLsb' 14 6) (w.extractLsb' 8 6))
  | 7 => chk [w.extractLsb' 14 6, w.extractLsb' 8 6] [] (.amaxD (w.extractLsb' 21 5) (w.extractLsb' 20 1) (w.extractLsb' 14 6) (w.extractLsb' 8 6))
  | 8 => chk [w.extractLsb' 14 6, w.extractLsb' 8 6] [] (.aminnW (w.extractLsb' 21 5) (w.extractLsb' 20 1) (w.extractLsb' 14 6) (w.extractLsb' 8 6))
  | 9 => chk [w.extractLsb' 14 6, w.extractLsb' 8 6] [] (.aminnD (w.extractLsb' 21 5) (w.extractLsb' 20 1) (w.extractLsb' 14 6) (w.extractLsb' 8 6))
  | 10 => chk [w.extractLsb' 14 6, w.extractLsb' 8 6] [] (.amaxnW (w.extractLsb' 21 5) (w.extractLsb' 20 1) (w.extractLsb' 14 6) (w.extractLsb' 8 6))
  | 11 => chk [w.extractLsb' 14 6, w.extractLsb' 8 6] [] (.amaxnD (w.extractLsb' 21 5) (w.extractLsb' 20 1) (w.extractLsb' 14 6) (w.extractLsb' 8 6))
  | 12 => chk [w.extractLsb' 14 6, w.extractLsb' 8 6] [] (.aandW (w.extractLsb' 21 5) (w.extractLsb' 20 1) (w.extractLsb' 14 6) (w.extractLsb' 8 6))
  | 13 => chk [w.extractLsb' 14 6, w.extractLsb' 8 6] [] (.aandD (w.extractLsb' 21 5) (w.extractLsb' 20 1) (w.extractLsb' 14 6) (w.extractLsb' 8 6))
  | 14 => chk [w.extractLsb' 14 6, w.extractLsb' 8 6] [] (.aorW (w.extractLsb' 21 5) (w.extractLsb' 20 1) (w.extractLsb' 14 6) (w.extractLsb' 8 6))
  | 15 => chk [w.extractLsb' 14 6, w.extractLsb' 8 6] [] (.aorD (w.extractLsb' 21 5) (w.extractLsb' 20 1) (w.extractLsb' 14 6) (w.extractLsb' 8 6))
  | 16 => chk [w.extractLsb' 14 6, w.extractLsb' 8 6] [] (.axorW (w.extractLsb' 21 5) (w.extractLsb' 20 1) (w.extractLsb' 14 6) (w.extractLsb' 8 6))
  | 17 => chk [w.extractLsb' 14 6, w.extractLsb' 8 6] [] (.axorD (w.extractLsb' 21 5) (w.extractLsb' 20 1) (w.extractLsb' 14 6) (w.extractLsb' 8 6))
  | 18 => chk [w.extractLsb' 14 6, w.extractLsb' 8 6] [] (.aswapW (w.extractLsb' 21 5) (w.extractLsb' 20 1) (w.extractLsb' 14 6) (w.extractLsb' 8 6))
  | 19 => chk [w.extractLsb' 14 6, w.extractLsb' 8 6] [] (.aswapD (w.extractLsb' 21 5) (w.extractLsb' 20 1) (w.extractLsb' 14 6) (w.extractLsb' 8 6))
  | 20 => chk [w.extractLsb' 14 6, w.extractLsb' 8 6] [] (.acasW (w.extractLsb' 21 5) (w.extractLsb' 20 1) (w.extractLsb' 14 6) (w.extractLsb' 8 6))
  | 21 => chk [w.extractLsb' 14 6, w.extractLsb' 8 6] [] (.acasD (w.extractLsb' 21 5) (w.extractLsb' 20 1) (w.extractLsb' 14 6) (w.extractLsb' 8 6))
  | 22 => chk [w.extractLsb' 14 6, w.extractLsb' 8 6] [] (.afaddW (w.extractLsb' 21 5) (w.extractLsb' 20 1) (w.extractLsb' 14 6) (w.extractLsb' 8 6))
  | n => .error (.reservedValue n)

/-- The words of major 0x0F (R152). -/
def decMajor0f (w : Word) : Dec :=
  match (w.extractLsb' 0 8).toNat with
  | 0 => chk [w.extractLsb' 14 6, w.extractLsb' 8 6] [] (.faddD (w.extractLsb' 21 5) (w.extractLsb' 20 1) (w.extractLsb' 14 6) (w.extractLsb' 8 6))
  | 1 => chk [w.extractLsb' 14 6, w.extractLsb' 8 6] [] (.faddS (w.extractLsb' 21 5) (w.extractLsb' 20 1) (w.extractLsb' 14 6) (w.extractLsb' 8 6))
  | 2 => chk [w.extractLsb' 14 6, w.extractLsb' 8 6] [] (.fsubD (w.extractLsb' 21 5) (w.extractLsb' 20 1) (w.extractLsb' 14 6) (w.extractLsb' 8 6))
  | 3 => chk [w.extractLsb' 14 6, w.extractLsb' 8 6] [] (.fsubS (w.extractLsb' 21 5) (w.extractLsb' 20 1) (w.extractLsb' 14 6) (w.extractLsb' 8 6))
  | 4 => chk [w.extractLsb' 14 6, w.extractLsb' 8 6] [] (.fmulD (w.extractLsb' 21 5) (w.extractLsb' 20 1) (w.extractLsb' 14 6) (w.extractLsb' 8 6))
  | 5 => chk [w.extractLsb' 14 6, w.extractLsb' 8 6] [] (.fmulS (w.extractLsb' 21 5) (w.extractLsb' 20 1) (w.extractLsb' 14 6) (w.extractLsb' 8 6))
  | 6 => chk [w.extractLsb' 14 6, w.extractLsb' 8 6] [] (.fminD (w.extractLsb' 21 5) (w.extractLsb' 20 1) (w.extractLsb' 14 6) (w.extractLsb' 8 6))
  | 7 => chk [w.extractLsb' 14 6, w.extractLsb' 8 6] [] (.fminS (w.extractLsb' 21 5) (w.extractLsb' 20 1) (w.extractLsb' 14 6) (w.extractLsb' 8 6))
  | 8 => chk [w.extractLsb' 14 6, w.extractLsb' 8 6] [] (.fmaxD (w.extractLsb' 21 5) (w.extractLsb' 20 1) (w.extractLsb' 14 6) (w.extractLsb' 8 6))
  | 9 => chk [w.extractLsb' 14 6, w.extractLsb' 8 6] [] (.fmaxS (w.extractLsb' 21 5) (w.extractLsb' 20 1) (w.extractLsb' 14 6) (w.extractLsb' 8 6))
  | 10 => chk [w.extractLsb' 14 6] [zf w 8 6 false] (.fabsD (w.extractLsb' 21 5) (w.extractLsb' 20 1) (w.extractLsb' 14 6))
  | 11 => chk [w.extractLsb' 14 6] [zf w 8 6 false] (.fabsS (w.extractLsb' 21 5) (w.extractLsb' 20 1) (w.extractLsb' 14 6))
  | 12 => chk [w.extractLsb' 14 6] [zf w 8 6 false] (.fnegD (w.extractLsb' 21 5) (w.extractLsb' 20 1) (w.extractLsb' 14 6))
  | 13 => chk [w.extractLsb' 14 6] [zf w 8 6 false] (.fnegS (w.extractLsb' 21 5) (w.extractLsb' 20 1) (w.extractLsb' 14 6))
  | 14 => chk [w.extractLsb' 14 6, w.extractLsb' 8 6] [] (.fceqD (w.extractLsb' 21 5) (w.extractLsb' 20 1) (w.extractLsb' 14 6) (w.extractLsb' 8 6))
  | 15 => chk [w.extractLsb' 14 6, w.extractLsb' 8 6] [] (.fceqS (w.extractLsb' 21 5) (w.extractLsb' 20 1) (w.extractLsb' 14 6) (w.extractLsb' 8 6))
  | 16 => chk [w.extractLsb' 14 6, w.extractLsb' 8 6] [] (.fcltD (w.extractLsb' 21 5) (w.extractLsb' 20 1) (w.extractLsb' 14 6) (w.extractLsb' 8 6))
  | 17 => chk [w.extractLsb' 14 6, w.extractLsb' 8 6] [] (.fcltS (w.extractLsb' 21 5) (w.extractLsb' 20 1) (w.extractLsb' 14 6) (w.extractLsb' 8 6))
  | 18 => chk [w.extractLsb' 14 6, w.extractLsb' 8 6] [] (.fcleD (w.extractLsb' 21 5) (w.extractLsb' 20 1) (w.extractLsb' 14 6) (w.extractLsb' 8 6))
  | 19 => chk [w.extractLsb' 14 6, w.extractLsb' 8 6] [] (.fcleS (w.extractLsb' 21 5) (w.extractLsb' 20 1) (w.extractLsb' 14 6) (w.extractLsb' 8 6))
  | n => .error (.reservedValue n)

/-- The words of major 0x10 (R152). -/
def decMajor10 (w : Word) : Dec :=
  match (w.extractLsb' 0 8).toNat with
  | 0 => chk [w.extractLsb' 14 6, w.extractLsb' 8 6] [] (.ffmaD (w.extractLsb' 21 5) (w.extractLsb' 20 1) (w.extractLsb' 14 6) (w.extractLsb' 8 6))
  | 1 => chk [w.extractLsb' 14 6, w.extractLsb' 8 6] [] (.ffmaS (w.extractLsb' 21 5) (w.extractLsb' 20 1) (w.extractLsb' 14 6) (w.extractLsb' 8 6))
  | n => .error (.reservedValue n)

/-- The words of major 0x11 (R152). -/
def decMajor11 (w : Word) : Dec :=
  match (w.extractLsb' 0 8).toNat with
  | 0 => chkMode (w.extractLsb' 8 3) (chk [w.extractLsb' 14 6] [zf w 11 3 false] (.fcvtF32F64 (w.extractLsb' 21 5) (w.extractLsb' 20 1) (w.extractLsb' 14 6) (w.extractLsb' 8 3)))
  | 1 => chkMode (w.extractLsb' 8 3) (chk [w.extractLsb' 14 6] [zf w 11 3 false] (.fcvtF64F32 (w.extractLsb' 21 5) (w.extractLsb' 20 1) (w.extractLsb' 14 6) (w.extractLsb' 8 3)))
  | 2 => chkMode (w.extractLsb' 8 3) (chk [w.extractLsb' 14 6] [zf w 11 3 false] (.fcvtF16F32 (w.extractLsb' 21 5) (w.extractLsb' 20 1) (w.extractLsb' 14 6) (w.extractLsb' 8 3)))
  | 3 => chkMode (w.extractLsb' 8 3) (chk [w.extractLsb' 14 6] [zf w 11 3 false] (.fcvtF32F16 (w.extractLsb' 21 5) (w.extractLsb' 20 1) (w.extractLsb' 14 6) (w.extractLsb' 8 3)))
  | 4 => chkMode (w.extractLsb' 8 3) (chk [w.extractLsb' 14 6] [zf w 11 3 false] (.fcvtBf16F32 (w.extractLsb' 21 5) (w.extractLsb' 20 1) (w.extractLsb' 14 6) (w.extractLsb' 8 3)))
  | 5 => chkMode (w.extractLsb' 8 3) (chk [w.extractLsb' 14 6] [zf w 11 3 false] (.fcvtF32Bf16 (w.extractLsb' 21 5) (w.extractLsb' 20 1) (w.extractLsb' 14 6) (w.extractLsb' 8 3)))
  | 6 => chkMode (w.extractLsb' 8 3) (chk [w.extractLsb' 14 6] [zf w 11 3 false] (.fcvtKf8F32 (w.extractLsb' 21 5) (w.extractLsb' 20 1) (w.extractLsb' 14 6) (w.extractLsb' 8 3)))
  | 7 => chkMode (w.extractLsb' 8 3) (chk [w.extractLsb' 14 6] [zf w 11 3 false] (.fcvtF32Kf8 (w.extractLsb' 21 5) (w.extractLsb' 20 1) (w.extractLsb' 14 6) (w.extractLsb' 8 3)))
  | 8 => chkMode (w.extractLsb' 8 3) (chk [w.extractLsb' 14 6] [zf w 11 3 false] (.fcvtS64F64 (w.extractLsb' 21 5) (w.extractLsb' 20 1) (w.extractLsb' 14 6) (w.extractLsb' 8 3)))
  | 9 => chkMode (w.extractLsb' 8 3) (chk [w.extractLsb' 14 6] [zf w 11 3 false] (.fcvtF64S64 (w.extractLsb' 21 5) (w.extractLsb' 20 1) (w.extractLsb' 14 6) (w.extractLsb' 8 3)))
  | 10 => chkMode (w.extractLsb' 8 3) (chk [w.extractLsb' 14 6] [zf w 11 3 false] (.fcvtS32F32 (w.extractLsb' 21 5) (w.extractLsb' 20 1) (w.extractLsb' 14 6) (w.extractLsb' 8 3)))
  | 11 => chkMode (w.extractLsb' 8 3) (chk [w.extractLsb' 14 6] [zf w 11 3 false] (.fcvtF32S32 (w.extractLsb' 21 5) (w.extractLsb' 20 1) (w.extractLsb' 14 6) (w.extractLsb' 8 3)))
  | 12 => chkMode (w.extractLsb' 8 3) (chk [w.extractLsb' 14 6] [zf w 11 3 false] (.fcvtN64F64 (w.extractLsb' 21 5) (w.extractLsb' 20 1) (w.extractLsb' 14 6) (w.extractLsb' 8 3)))
  | 13 => chkMode (w.extractLsb' 8 3) (chk [w.extractLsb' 14 6] [zf w 11 3 false] (.fcvtF64N64 (w.extractLsb' 21 5) (w.extractLsb' 20 1) (w.extractLsb' 14 6) (w.extractLsb' 8 3)))
  | n => .error (.reservedValue n)

/-- The words of major 0x12 (R152). -/
def decMajor12 (w : Word) : Dec :=
  match (w.extractLsb' 0 8).toNat with
  | 0 => chk [w.extractLsb' 14 6] [zf w 8 6 false] (.exp2D (w.extractLsb' 21 5) (w.extractLsb' 20 1) (w.extractLsb' 14 6))
  | 1 => chk [w.extractLsb' 14 6] [zf w 8 6 false] (.exp2S (w.extractLsb' 21 5) (w.extractLsb' 20 1) (w.extractLsb' 14 6))
  | 2 => chk [w.extractLsb' 14 6] [zf w 8 6 false] (.log2D (w.extractLsb' 21 5) (w.extractLsb' 20 1) (w.extractLsb' 14 6))
  | 3 => chk [w.extractLsb' 14 6] [zf w 8 6 false] (.log2S (w.extractLsb' 21 5) (w.extractLsb' 20 1) (w.extractLsb' 14 6))
  | 4 => chk [w.extractLsb' 14 6] [zf w 8 6 false] (.rcpD (w.extractLsb' 21 5) (w.extractLsb' 20 1) (w.extractLsb' 14 6))
  | 5 => chk [w.extractLsb' 14 6] [zf w 8 6 false] (.rcpS (w.extractLsb' 21 5) (w.extractLsb' 20 1) (w.extractLsb' 14 6))
  | 6 => chk [w.extractLsb' 14 6] [zf w 8 6 false] (.rsqD (w.extractLsb' 21 5) (w.extractLsb' 20 1) (w.extractLsb' 14 6))
  | 7 => chk [w.extractLsb' 14 6] [zf w 8 6 false] (.rsqS (w.extractLsb' 21 5) (w.extractLsb' 20 1) (w.extractLsb' 14 6))
  | n => .error (.reservedValue n)

/-- The words of major 0x13 (R152). -/
def decMajor13 (w : Word) : Dec :=
  match (w.extractLsb' 0 8).toNat with
  | 0 => chk [] [zf w 12 2 false, zf w 18 2 false, zf w 20 1 false, zf w 25 1 false] (.kand (w.extractLsb' 21 4) (w.extractLsb' 20 1) (w.extractLsb' 14 4) (w.extractLsb' 8 4))
  | 1 => chk [] [zf w 12 2 false, zf w 18 2 false, zf w 20 1 false, zf w 25 1 false] (.kor (w.extractLsb' 21 4) (w.extractLsb' 20 1) (w.extractLsb' 14 4) (w.extractLsb' 8 4))
  | 2 => chk [] [zf w 12 2 false, zf w 18 2 false, zf w 20 1 false, zf w 25 1 false] (.kxor (w.extractLsb' 21 4) (w.extractLsb' 20 1) (w.extractLsb' 14 4) (w.extractLsb' 8 4))
  | 3 => chk [] [zf w 12 2 false, zf w 18 2 false, zf w 20 1 false, zf w 25 1 false] (.kandn (w.extractLsb' 21 4) (w.extractLsb' 20 1) (w.extractLsb' 14 4) (w.extractLsb' 8 4))
  | 4 => chk [] [zf w 8 6 false, zf w 18 2 false, zf w 20 1 false, zf w 25 1 false] (.knot (w.extractLsb' 21 4) (w.extractLsb' 20 1) (w.extractLsb' 14 4))
  | 5 => chk [w.extractLsb' 8 6] [zf w 18 2 false, zf w 20 1 false, zf w 25 1 false] (.kshl (w.extractLsb' 21 4) (w.extractLsb' 20 1) (w.extractLsb' 14 4) (w.extractLsb' 8 6))
  | 6 => chk [w.extractLsb' 8 6] [zf w 18 2 false, zf w 20 1 false, zf w 25 1 false] (.kshr (w.extractLsb' 21 4) (w.extractLsb' 20 1) (w.extractLsb' 14 4) (w.extractLsb' 8 6))
  | 7 => chk [] [zf w 8 6 false, zf w 18 2 false] (.kpop (w.extractLsb' 21 5) (w.extractLsb' 20 1) (w.extractLsb' 14 4))
  | 8 => chk [] [zf w 8 6 false, zf w 18 2 false] (.kmovg (w.extractLsb' 21 5) (w.extractLsb' 20 1) (w.extractLsb' 14 4))
  | 9 => chk [w.extractLsb' 14 6] [zf w 8 6 false, zf w 20 1 false, zf w 25 1 false] (.kmovk (w.extractLsb' 21 4) (w.extractLsb' 20 1) (w.extractLsb' 14 6))
  | 10 => chk [w.extractLsb' 8 6] [zf w 18 2 false, zf w 20 1 false, zf w 25 1 false] (.kbit (w.extractLsb' 21 4) (w.extractLsb' 20 1) (w.extractLsb' 14 4) (w.extractLsb' 8 6))
  | 11 => chk [w.extractLsb' 8 6] [zf w 18 2 false, zf w 20 1 false, zf w 24 2 false] (.ktst (w.extractLsb' 21 3) (w.extractLsb' 20 1) (w.extractLsb' 14 4) (w.extractLsb' 8 6))
  | 12 => chk [w.extractLsb' 14 6, w.extractLsb' 8 6] [zf w 20 1 false, zf w 25 1 false] (.kldm (w.extractLsb' 21 4) (w.extractLsb' 20 1) (w.extractLsb' 14 6) (w.extractLsb' 8 6))
  | 13 => chk [] [zf w 8 6 false, zf w 18 2 false] (.kffs (w.extractLsb' 21 5) (w.extractLsb' 20 1) (w.extractLsb' 14 4))
  | n => .error (.reservedValue n)

/-- The words of major 0x14 (R152). -/
def decMajor14 (w : Word) : Dec :=
  match (w.extractLsb' 0 8).toNat with
  | 0 => chk [w.extractLsb' 14 6] [zf w 8 6 false, zf w 20 1 false, zf w 25 1 false] (.emov (w.extractLsb' 21 4) (w.extractLsb' 20 1) (w.extractLsb' 14 6))
  | 1 => chk [] [zf w 8 6 false, zf w 18 2 false] (.eget (w.extractLsb' 21 5) (w.extractLsb' 20 1) (w.extractLsb' 14 4))
  | 2 => chk [w.extractLsb' 8 6] [zf w 18 2 false, zf w 20 1 false, zf w 25 1 false] (.emin (w.extractLsb' 21 4) (w.extractLsb' 20 1) (w.extractLsb' 14 4) (w.extractLsb' 8 6))
  | 3 => chk [w.extractLsb' 8 6] [zf w 18 2 false, zf w 20 1 false, zf w 25 1 false] (.esub (w.extractLsb' 21 4) (w.extractLsb' 20 1) (w.extractLsb' 14 4) (w.extractLsb' 8 6))
  | 4 => chk [w.extractLsb' 8 6] [zf w 18 2 false, zf w 20 1 false, zf w 25 1 false] (.eadd (w.extractLsb' 21 4) (w.extractLsb' 20 1) (w.extractLsb' 14 4) (w.extractLsb' 8 6))
  | 5 => chk [w.extractLsb' 14 6] [zf w 8 6 false, zf w 20 6 false] (.eclr (w.extractLsb' 14 6))
  | n => .error (.reservedValue n)

/-- The words of major 0x15 (R152). -/
def decMajor15 (w : Word) : Dec :=
  chk [] [] (.br (w.extractLsb' 23 3) (w.extractLsb' 22 1) (w.extractLsb' 0 22))

/-- The words of major 0x16 (R152). -/
def decMajor16 (w : Word) : Dec :=
  chk [] [] (.jal (w.extractLsb' 21 5) (w.extractLsb' 20 1) (w.extractLsb' 0 20))

/-- The words of major 0x17 (R152). -/
def decMajor17 (w : Word) : Dec :=
  chk [w.extractLsb' 14 6] [] (.jr (w.extractLsb' 21 5) (w.extractLsb' 20 1) (w.extractLsb' 14 6) (w.extractLsb' 0 14))

/-- The words of major 0x18 (R152). -/
def decMajor18 (w : Word) : Dec :=
  match (w.extractLsb' 13 1).toNat with
  | 0 => chk [w.extractLsb' 14 6] [zf w 20 1 false, zf w 21 5 true] (.loop (w.extractLsb' 14 6) (w.extractLsb' 0 13))
  | _ => chk [] [zf w 14 6 true, zf w 20 1 false] (.loopi (w.extractLsb' 21 5) (w.extractLsb' 0 13))

/-- The words of major 0x19 (R152). -/
def decMajor19 (w : Word) : Dec :=
  match (w.extractLsb' 0 8).toNat with
  | 0 => chk [] [zf w 8 18 false] .nop
  | 1 => chk [] [zf w 8 18 false] .halt
  | 2 => chk [w.extractLsb' 14 6] [zf w 8 6 false, zf w 20 6 false] (.trap (w.extractLsb' 14 6))
  | 3 => chk [] [zf w 8 18 false] .eret
  | 4 => chk [] [zf w 8 18 false] .evret
  | 5 => chk [] [zf w 14 6 false] (.mfs (w.extractLsb' 21 5) (w.extractLsb' 20 1) (w.extractLsb' 8 6)) |>.bind (chkSys (w.extractLsb' 8 6) false)
  | 6 => chk [w.extractLsb' 14 6] [zf w 20 6 false] (.mts (w.extractLsb' 14 6) (w.extractLsb' 8 6)) |>.bind (chkSys (w.extractLsb' 8 6) true)
  | 7 => chk [] [zf w 8 18 false] .fence
  | 8 => chk [] [zf w 8 18 false] .afence
  | 9 => chk [] [zf w 8 18 false] .phaseCore
  | 10 => chk [] [zf w 8 18 false] .phaseClus
  | 11 => chk [] [zf w 8 18 false] .phaseDie
  | 12 => chk [] [zf w 8 18 false] .phasePkg
  | 13 => chk [] [zf w 8 18 false] .phaseDom
  | 14 => chk [] [zf w 8 18 false] .phaseSys
  | 15 => chk [] [zf w 20 1 false, zf w 24 2 false] (.segend (w.extractLsb' 21 3) (w.extractLsb' 8 12))
  | 16 => chk [w.extractLsb' 14 6, w.extractLsb' 8 6] [] (.waitc (w.extractLsb' 21 5) (w.extractLsb' 20 1) (w.extractLsb' 14 6) (w.extractLsb' 8 6))
  | 17 => chk [w.extractLsb' 8 6] [zf w 18 8 false] (.sched (w.extractLsb' 14 4) (w.extractLsb' 8 6))
  | 18 => chk [w.extractLsb' 14 6] [zf w 8 6 false] (.park (w.extractLsb' 21 5) (w.extractLsb' 20 1) (w.extractLsb' 14 6))
  | 19 => chk [w.extractLsb' 14 6, w.extractLsb' 8 6] [zf w 20 6 false] (.notify (w.extractLsb' 14 6) (w.extractLsb' 8 6))
  | 20 => chk [] [zf w 8 12 false] (.rpop (w.extractLsb' 21 5) (w.extractLsb' 20 1))
  | n => .error (.reservedValue n)

/-- The words of major 0x20 (R153). -/
def decMajor20 (w : Word) : Dec :=
  match (w.extractLsb' 0 5).toNat with
  | 0 => chkE w .lq [] (.cinG (w.extractLsb' 23 2) (w.extractLsb' 20 2) (w.extractLsb' 15 5) (w.extractLsb' 10 5) (w.extractLsb' 5 5))
  | 1 => chkE w .lq [] (.cinL (w.extractLsb' 23 2) (w.extractLsb' 20 2) (w.extractLsb' 15 5) (w.extractLsb' 10 5) (w.extractLsb' 5 5))
  | 2 => chkE w .lq [] (.cinP (w.extractLsb' 23 2) (w.extractLsb' 20 2) (w.extractLsb' 15 5) (w.extractLsb' 10 5) (w.extractLsb' 5 5))
  | 3 => chkE w .lq [] (.cinMc (w.extractLsb' 23 2) (w.extractLsb' 20 2) (w.extractLsb' 15 5) (w.extractLsb' 10 5) (w.extractLsb' 5 5))
  | n => .error (.reservedValue n)

/-- The words of major 0x21 (R153). -/
def decMajor21 (w : Word) : Dec :=
  match (w.extractLsb' 0 5).toNat with
  | 0 => chkE w .sq [] (.coutG (w.extractLsb' 23 2) (w.extractLsb' 20 1) (w.extractLsb' 15 5) (w.extractLsb' 10 5) (w.extractLsb' 5 5))
  | 1 => chkE w .sq [] (.coutL (w.extractLsb' 23 2) (w.extractLsb' 20 1) (w.extractLsb' 15 5) (w.extractLsb' 10 5) (w.extractLsb' 5 5))
  | 2 => chkE w .sq [] (.coutP (w.extractLsb' 23 2) (w.extractLsb' 20 1) (w.extractLsb' 15 5) (w.extractLsb' 10 5) (w.extractLsb' 5 5))
  | 3 => chkE w .sq [] (.coutSel (w.extractLsb' 23 2) (w.extractLsb' 20 1) (w.extractLsb' 15 5) (w.extractLsb' 10 5) (w.extractLsb' 5 5))
  | n => .error (.reservedValue n)

/-- The words of major 0x22 (R153). -/
def decMajor22 (w : Word) : Dec :=
  match (w.extractLsb' 0 5).toNat with
  | 0 => chkE w .lq [] (.cpxPp (w.extractLsb' 23 2) (w.extractLsb' 20 2) (w.extractLsb' 15 5) (w.extractLsb' 10 5) (w.extractLsb' 5 5))
  | 1 => chkE w .lq [] (.cpxPl (w.extractLsb' 23 2) (w.extractLsb' 20 2) (w.extractLsb' 15 5) (w.extractLsb' 10 5) (w.extractLsb' 5 5))
  | 2 => chkE w .lq [] (.cpxLp (w.extractLsb' 23 2) (w.extractLsb' 20 2) (w.extractLsb' 15 5) (w.extractLsb' 10 5) (w.extractLsb' 5 5))
  | 3 => chkE w .lq [] (.cpxLl (w.extractLsb' 23 2) (w.extractLsb' 20 2) (w.extractLsb' 15 5) (w.extractLsb' 10 5) (w.extractLsb' 5 5))
  | n => .error (.reservedValue n)

/-- The words of major 0x23 (R153). -/
def decMajor23 (w : Word) : Dec :=
  match (w.extractLsb' 0 5).toNat with
  | 0 => chkE w .lq [] (.cgathP (w.extractLsb' 23 2) (w.extractLsb' 20 2) (w.extractLsb' 15 5) (w.extractLsb' 10 5) (w.extractLsb' 5 5))
  | 1 => chkE w .lq [] (.cgathL (w.extractLsb' 23 2) (w.extractLsb' 20 2) (w.extractLsb' 15 5) (w.extractLsb' 10 5) (w.extractLsb' 5 5))
  | 2 => chkE w .sq [] (.cscatP (w.extractLsb' 23 2) (w.extractLsb' 20 1) (w.extractLsb' 15 5) (w.extractLsb' 10 5) (w.extractLsb' 5 5))
  | 3 => chkE w .sq [] (.cscatL (w.extractLsb' 23 2) (w.extractLsb' 20 1) (w.extractLsb' 15 5) (w.extractLsb' 10 5) (w.extractLsb' 5 5))
  | n => .error (.reservedValue n)

/-- The words of major 0x24 (R153). -/
def decMajor24 (w : Word) : Dec :=
  match (w.extractLsb' 0 5).toNat with
  | 0 => chkE w .lq [zf w 5 5 false] (.pgin (w.extractLsb' 23 2) (w.extractLsb' 20 2) (w.extractLsb' 15 5) (w.extractLsb' 10 5))
  | 1 => chkE w .sq [zf w 5 5 false] (.pgout (w.extractLsb' 23 2) (w.extractLsb' 20 1) (w.extractLsb' 15 5) (w.extractLsb' 10 5))
  | n => .error (.reservedValue n)

/-- The words of major 0x25 (R153). -/
def decMajor25 (w : Word) : Dec :=
  match (w.extractLsb' 0 5).toNat with
  | 0 => chkE w .sq [] (.wrsig (w.extractLsb' 23 2) (w.extractLsb' 20 1) (w.extractLsb' 15 5) (w.extractLsb' 10 5) (w.extractLsb' 5 5))
  | 1 => chkE w .sq [] (.wrsigAdd (w.extractLsb' 23 2) (w.extractLsb' 20 1) (w.extractLsb' 15 5) (w.extractLsb' 10 5) (w.extractLsb' 5 5))
  | n => .error (.reservedValue n)

/-- The words of major 0x26 (R153). -/
def decMajor26 (w : Word) : Dec :=
  match (w.extractLsb' 0 8).toNat with
  | 0 => chk [] [zf w 8 6 false, zf w 17 9 false] (.give (w.extractLsb' 14 3))
  | 1 => chk [] [zf w 8 6 false, zf w 17 9 false] (.take (w.extractLsb' 14 3))
  | 2 => chk [w.extractLsb' 8 6] [zf w 16 4 false] (.qdepth (w.extractLsb' 21 5) (w.extractLsb' 20 1) (w.extractLsb' 14 2) (w.extractLsb' 8 6))
  | 3 => chkQseq (w.extractLsb' 8 6) (chk [] [zf w 16 4 false] (.qseq (w.extractLsb' 21 5) (w.extractLsb' 20 1) (w.extractLsb' 14 2) (w.extractLsb' 8 1)))
  | n => .error (.reservedValue n)

/-- The words of major 0x27 (R153). -/
def decMajor27 (w : Word) : Dec :=
  match (w.extractLsb' 0 5).toNat with
  | 0 => chkE w .lq [] (.lkopFill (w.extractLsb' 23 2) (w.extractLsb' 20 2) (w.extractLsb' 15 5) (w.extractLsb' 10 5) (w.extractLsb' 5 5))
  | 1 => chkE w .lq [] (.lkopAdd (w.extractLsb' 23 2) (w.extractLsb' 20 2) (w.extractLsb' 15 5) (w.extractLsb' 10 5) (w.extractLsb' 5 5))
  | 2 => chkE w .lq [] (.lkopSadd (w.extractLsb' 23 2) (w.extractLsb' 20 2) (w.extractLsb' 15 5) (w.extractLsb' 10 5) (w.extractLsb' 5 5))
  | 3 => chkE w .lq [] (.lkopMin (w.extractLsb' 23 2) (w.extractLsb' 20 2) (w.extractLsb' 15 5) (w.extractLsb' 10 5) (w.extractLsb' 5 5))
  | 4 => chkE w .lq [] (.lkopMax (w.extractLsb' 23 2) (w.extractLsb' 20 2) (w.extractLsb' 15 5) (w.extractLsb' 10 5) (w.extractLsb' 5 5))
  | 5 => chkE w .lq [] (.lkopAnd (w.extractLsb' 23 2) (w.extractLsb' 20 2) (w.extractLsb' 15 5) (w.extractLsb' 10 5) (w.extractLsb' 5 5))
  | 6 => chkE w .lq [] (.lkopOr (w.extractLsb' 23 2) (w.extractLsb' 20 2) (w.extractLsb' 15 5) (w.extractLsb' 10 5) (w.extractLsb' 5 5))
  | 7 => chkE w .lq [] (.lkopXor (w.extractLsb' 23 2) (w.extractLsb' 20 2) (w.extractLsb' 15 5) (w.extractLsb' 10 5) (w.extractLsb' 5 5))
  | 8 => chkE w .lq [] (.lkopFadd (w.extractLsb' 23 2) (w.extractLsb' 20 2) (w.extractLsb' 15 5) (w.extractLsb' 10 5) (w.extractLsb' 5 5))
  | 9 => chkE w .lq [] (.lkopFmax (w.extractLsb' 23 2) (w.extractLsb' 20 2) (w.extractLsb' 15 5) (w.extractLsb' 10 5) (w.extractLsb' 5 5))
  | 10 => chkE w .lq [] (.lkopFmul (w.extractLsb' 23 2) (w.extractLsb' 20 2) (w.extractLsb' 15 5) (w.extractLsb' 10 5) (w.extractLsb' 5 5))
  | 11 => chkE w .lq [] (.lkopRsum (w.extractLsb' 23 2) (w.extractLsb' 20 2) (w.extractLsb' 15 5) (w.extractLsb' 10 5) (w.extractLsb' 5 5))
  | n => .error (.reservedValue n)

/-- The words of major 0x28 (R153). -/
def decMajor28 (w : Word) : Dec :=
  match (w.extractLsb' 0 5).toNat with
  | 0 => chkE w .vq [] (.vchain (w.extractLsb' 23 2) (w.extractLsb' 20 3) (w.extractLsb' 15 5) (w.extractLsb' 10 5) (w.extractLsb' 5 5))
  | n => .error (.reservedValue n)

/-- The words of major 0x29 (R153). -/
def decMajor29 (w : Word) : Dec :=
  match (w.extractLsb' 0 5).toNat with
  | 0 => chkE w .vq [] (.vredSum (w.extractLsb' 23 2) (w.extractLsb' 20 3) (w.extractLsb' 15 5) (w.extractLsb' 10 5) (w.extractLsb' 5 5))
  | 1 => chkE w .vq [] (.vredMax (w.extractLsb' 23 2) (w.extractLsb' 20 3) (w.extractLsb' 15 5) (w.extractLsb' 10 5) (w.extractLsb' 5 5))
  | 2 => chkE w .vq [] (.vredMin (w.extractLsb' 23 2) (w.extractLsb' 20 3) (w.extractLsb' 15 5) (w.extractLsb' 10 5) (w.extractLsb' 5 5))
  | 3 => chkE w .vq [] (.vredArgmax (w.extractLsb' 23 2) (w.extractLsb' 20 3) (w.extractLsb' 15 5) (w.extractLsb' 10 5) (w.extractLsb' 5 5))
  | 4 => chkE w .vq [] (.vredArgmin (w.extractLsb' 23 2) (w.extractLsb' 20 3) (w.extractLsb' 15 5) (w.extractLsb' 10 5) (w.extractLsb' 5 5))
  | 5 => chkE w .vq [] (.vredSumsq (w.extractLsb' 23 2) (w.extractLsb' 20 3) (w.extractLsb' 15 5) (w.extractLsb' 10 5) (w.extractLsb' 5 5))
  | n => .error (.reservedValue n)

/-- The words of major 0x2A (R153). -/
def decMajor2a (w : Word) : Dec :=
  match (w.extractLsb' 0 5).toNat with
  | 0 => chkE w .vq [] (.vscanAdd (w.extractLsb' 23 2) (w.extractLsb' 20 3) (w.extractLsb' 15 5) (w.extractLsb' 10 5) (w.extractLsb' 5 5))
  | 1 => chkE w .vq [] (.vscanMax (w.extractLsb' 23 2) (w.extractLsb' 20 3) (w.extractLsb' 15 5) (w.extractLsb' 10 5) (w.extractLsb' 5 5))
  | n => .error (.reservedValue n)

/-- The words of major 0x2B (R153). -/
def decMajor2b (w : Word) : Dec :=
  match (w.extractLsb' 0 5).toNat with
  | 0 => chkE w .vq [] (.vgath (w.extractLsb' 23 2) (w.extractLsb' 20 3) (w.extractLsb' 15 5) (w.extractLsb' 10 5) (w.extractLsb' 5 5))
  | 1 => chkE w .vq [] (.vscatSet (w.extractLsb' 23 2) (w.extractLsb' 20 3) (w.extractLsb' 15 5) (w.extractLsb' 10 5) (w.extractLsb' 5 5))
  | 2 => chkE w .vq [] (.vscatAdd (w.extractLsb' 23 2) (w.extractLsb' 20 3) (w.extractLsb' 15 5) (w.extractLsb' 10 5) (w.extractLsb' 5 5))
  | 3 => chkE w .vq [] (.vscatMax (w.extractLsb' 23 2) (w.extractLsb' 20 3) (w.extractLsb' 15 5) (w.extractLsb' 10 5) (w.extractLsb' 5 5))
  | 4 => chkE w .vq [] (.vscatMul (w.extractLsb' 23 2) (w.extractLsb' 20 3) (w.extractLsb' 15 5) (w.extractLsb' 10 5) (w.extractLsb' 5 5))
  | n => .error (.reservedValue n)

/-- The words of major 0x2C (R153). -/
def decMajor2c (w : Word) : Dec :=
  match (w.extractLsb' 0 5).toNat with
  | 0 => chkE w .vq [] (.vdotS8 (w.extractLsb' 23 2) (w.extractLsb' 20 3) (w.extractLsb' 15 5) (w.extractLsb' 10 5) (w.extractLsb' 5 5))
  | 1 => chkE w .vq [] (.vdotQ4 (w.extractLsb' 23 2) (w.extractLsb' 20 3) (w.extractLsb' 15 5) (w.extractLsb' 10 5) (w.extractLsb' 5 5))
  | 2 => chkE w .vq [] (.vdotT5 (w.extractLsb' 23 2) (w.extractLsb' 20 3) (w.extractLsb' 15 5) (w.extractLsb' 10 5) (w.extractLsb' 5 5))
  | n => .error (.reservedValue n)

/-- The words of major 0x2D (R153). -/
def decMajor2d (w : Word) : Dec :=
  match (w.extractLsb' 0 5).toNat with
  | 0 => chkE w .vq [zf w 5 5 false] (.bset (w.extractLsb' 23 2) (w.extractLsb' 20 3) (w.extractLsb' 15 5) (w.extractLsb' 10 5))
  | 1 => chkE w .vq [] (.vperm (w.extractLsb' 23 2) (w.extractLsb' 20 3) (w.extractLsb' 15 5) (w.extractLsb' 10 5) (w.extractLsb' 5 5))
  | n => .error (.reservedValue n)

/-- The words of major 0x2E (R153). -/
def decMajor2e (w : Word) : Dec :=
  match (w.extractLsb' 0 5).toNat with
  | 0 => chkE w .vq [] (.vsearchTopk (w.extractLsb' 23 2) (w.extractLsb' 20 3) (w.extractLsb' 15 5) (w.extractLsb' 10 5) (w.extractLsb' 5 5))
  | 1 => chkE w .vq [] (.vsearchThr (w.extractLsb' 23 2) (w.extractLsb' 20 3) (w.extractLsb' 15 5) (w.extractLsb' 10 5) (w.extractLsb' 5 5))
  | n => .error (.reservedValue n)

/-- The words of major 0x2F (R153). -/
noncomputable def decMajor2f (w : Word) : Dec :=
  match (w.extractLsb' 0 5).toNat with
  | 0 => chkE w .vq [] (.vfind (w.extractLsb' 23 2) (w.extractLsb' 20 3) (w.extractLsb' 15 5) (w.extractLsb' 10 5) (w.extractLsb' 5 5))
  | 1 => chkE w .vq [] (.vcount (w.extractLsb' 23 2) (w.extractLsb' 20 3) (w.extractLsb' 15 5) (w.extractLsb' 10 5) (w.extractLsb' 5 5))
  | n => .error (.reservedValue n)

/-- The words of major 0x30 (R153). -/
noncomputable def decMajor30 (w : Word) : Dec :=
  match (w.extractLsb' 0 5).toNat with
  | 0 => chkE w .mq [zf w 5 10 false] (.mlt (w.extractLsb' 23 2) (w.extractLsb' 20 2) (w.extractLsb' 15 5))
  | 1 => chkE w .mq [zf w 5 10 false] (.mgo (w.extractLsb' 23 2) (w.extractLsb' 20 2) (w.extractLsb' 15 5))
  | n => .error (.reservedValue n)

/-- The words of major 0x31 (R153). -/
noncomputable def decMajor31 (w : Word) : Dec :=
  match (w.extractLsb' 0 5).toNat with
  | 0 => chkE w .mq [zf w 10 5 false] (.mldwDense (w.extractLsb' 23 2) (w.extractLsb' 20 2) (w.extractLsb' 15 5) (w.extractLsb' 5 5))
  | 1 => chkE w .mq [] (.mldwS24 (w.extractLsb' 23 2) (w.extractLsb' 20 2) (w.extractLsb' 15 5) (w.extractLsb' 10 5) (w.extractLsb' 5 5))
  | 2 => chkE w .mq [] (.mldwS14 (w.extractLsb' 23 2) (w.extractLsb' 20 2) (w.extractLsb' 15 5) (w.extractLsb' 10 5) (w.extractLsb' 5 5))
  | 3 => chkE w .mq [zf w 5 15 false] (.mswap (w.extractLsb' 23 2) (w.extractLsb' 20 2))
  | n => .error (.reservedValue n)

/-- The words of major 0x32 (R153). -/
noncomputable def decMajor32 (w : Word) : Dec :=
  match (w.extractLsb' 0 5).toNat with
  | 0 => chkE w .mq [zf w 5 10 false] (.mmask (w.extractLsb' 23 2) (w.extractLsb' 20 2) (w.extractLsb' 15 5))
  | 1 => chkE w .mq [zf w 5 10 false] (.mzero (w.extractLsb' 23 2) (w.extractLsb' 20 2) (w.extractLsb' 15 5))
  | n => .error (.reservedValue n)

/-- The words of major 0x33 (R153). -/
noncomputable def decMajor33 (w : Word) : Dec :=
  match (w.extractLsb' 0 5).toNat with
  | 0 => chkE w .mq [] (.mdrainP (w.extractLsb' 23 2) (w.extractLsb' 20 2) (w.extractLsb' 15 5) (w.extractLsb' 10 5) (w.extractLsb' 5 5))
  | 1 => chkE w .mq [] (.mdrainPort (w.extractLsb' 23 2) (w.extractLsb' 20 2) (w.extractLsb' 15 5) (w.extractLsb' 10 5) (w.extractLsb' 5 5))
  | 2 => chkE w .mq [] (.mdrainSel (w.extractLsb' 23 2) (w.extractLsb' 20 2) (w.extractLsb' 15 5) (w.extractLsb' 10 5) (w.extractLsb' 5 5))
  | n => .error (.reservedValue n)

/-- The words of major 0x34 (R153). -/
noncomputable def decMajor34 (w : Word) : Dec :=
  match (w.extractLsb' 0 5).toNat with
  | 0 => chkE w .mq [zf w 5 15 false] (.mstat (w.extractLsb' 23 2) (w.extractLsb' 20 2))
  | n => .error (.reservedValue n)

/-- The words of major 0x36 (R153). -/
noncomputable def decMajor36 (w : Word) : Dec :=
  match (w.extractLsb' 0 8).toNat with
  | 0 => chk [w.extractLsb' 14 6, w.extractLsb' 8 6] [] (.talloc (w.extractLsb' 21 5) (w.extractLsb' 20 1) (w.extractLsb' 14 6) (w.extractLsb' 8 6))
  | 1 => chk [w.extractLsb' 14 6, w.extractLsb' 8 6] [] (.tallocV (w.extractLsb' 21 5) (w.extractLsb' 20 1) (w.extractLsb' 14 6) (w.extractLsb' 8 6))
  | 2 => chk [w.extractLsb' 14 6, w.extractLsb' 8 6] [zf w 20 6 false] (.tadd (w.extractLsb' 14 6) (w.extractLsb' 8 6))
  | 3 => chk [w.extractLsb' 14 6] [zf w 8 6 false, zf w 20 6 false] (.tdraw (w.extractLsb' 14 6))
  | 4 => chk [w.extractLsb' 14 6] [zf w 8 6 false, zf w 20 6 false] (.tabnd (w.extractLsb' 14 6))
  | 5 => chk [w.extractLsb' 14 6] [zf w 8 6 false] (.tinfo (w.extractLsb' 21 5) (w.extractLsb' 20 1) (w.extractLsb' 14 6))
  | n => .error (.reservedValue n)

/-- The words of major 0x37 (R153). -/
noncomputable def decMajor37 (w : Word) : Dec :=
  match (w.extractLsb' 0 8).toNat with
  | 0 => chkScope (w.extractLsb' 20 3) (chk [w.extractLsb' 14 6, w.extractLsb' 8 6] [] (.pubv (w.extractLsb' 23 3) (w.extractLsb' 20 3) (w.extractLsb' 14 6) (w.extractLsb' 8 6)))
  | 1 => chkScope (w.extractLsb' 20 3) (chk [w.extractLsb' 14 6, w.extractLsb' 8 6] [] (.pubvF (w.extractLsb' 23 3) (w.extractLsb' 20 3) (w.extractLsb' 14 6) (w.extractLsb' 8 6)))
  | 2 => chk [w.extractLsb' 14 6, w.extractLsb' 8 6] [] (.tsub (w.extractLsb' 21 5) (w.extractLsb' 20 1) (w.extractLsb' 14 6) (w.extractLsb' 8 6))
  | 3 => chk [w.extractLsb' 14 6] [zf w 8 6 false, zf w 20 6 false] (.stopref (w.extractLsb' 14 6))
  | 4 => chk [w.extractLsb' 14 6] [zf w 8 6 false, zf w 20 6 false] (.swait (w.extractLsb' 14 6))
  | 5 => chk [w.extractLsb' 14 6] [zf w 8 6 false] (.tver (w.extractLsb' 21 5) (w.extractLsb' 20 1) (w.extractLsb' 14 6))
  | n => .error (.reservedValue n)

/-- The words of major 0x38 (R153). -/
noncomputable def decMajor38 (w : Word) : Dec :=
  match (w.extractLsb' 0 8).toNat with
  | 0 => chk [w.extractLsb' 14 6, w.extractLsb' 8 6] [zf w 20 6 false] (.fork (w.extractLsb' 14 6) (w.extractLsb' 8 6))
  | 1 => chk [] [zf w 8 18 false] .join
  | 2 => chk [w.extractLsb' 14 6, w.extractLsb' 8 6] [zf w 20 6 false] (.enq (w.extractLsb' 14 6) (w.extractLsb' 8 6))
  | 3 => chk [] [zf w 8 12 false] (.card (w.extractLsb' 21 5) (w.extractLsb' 20 1))
  | n => .error (.reservedValue n)

/-- The words of major 0x39 (R153). -/
noncomputable def decMajor39 (w : Word) : Dec :=
  match (w.extractLsb' 0 8).toNat with
  | 0 => chk [w.extractLsb' 14 6, w.extractLsb' 8 6] [zf w 20 6 false] (.mbpost (w.extractLsb' 14 6) (w.extractLsb' 8 6))
  | 1 => chk [w.extractLsb' 14 6] [zf w 8 6 false] (.mbtake (w.extractLsb' 21 5) (w.extractLsb' 20 1) (w.extractLsb' 14 6))
  | n => .error (.reservedValue n)

/-- The words of major 0x3A (R153). -/
noncomputable def decMajor3a (w : Word) : Dec :=
  match (w.extractLsb' 0 8).toNat with
  | 0 => chk [w.extractLsb' 14 6, w.extractLsb' 8 6] [] (.coll (w.extractLsb' 21 5) (w.extractLsb' 20 1) (w.extractLsb' 14 6) (w.extractLsb' 8 6))
  | n => .error (.reservedValue n)

/-- The instruction a word spells (R138, R152, R153). A prefix word is read by decodeGroup. -/
noncomputable def decodeWord (w : Word) : Dec :=
  match (w.extractLsb' 26 6).toNat with
  | 0 => decMajor00 w
  | 1 => decMajor01 w
  | 2 => decMajor02 w
  | 3 => decMajor03 w
  | 4 => decMajor04 w
  | 5 => decMajor05 w
  | 6 => decMajor06 w
  | 7 => decMajor07 w
  | 8 => decMajor08 w
  | 9 => decMajor09 w
  | 10 => decMajor0a w
  | 11 => decMajor0b w
  | 12 => decMajor0c w
  | 13 => decMajor0d w
  | 14 => decMajor0e w
  | 15 => decMajor0f w
  | 16 => decMajor10 w
  | 17 => decMajor11 w
  | 18 => decMajor12 w
  | 19 => decMajor13 w
  | 20 => decMajor14 w
  | 21 => decMajor15 w
  | 22 => decMajor16 w
  | 23 => decMajor17 w
  | 24 => decMajor18 w
  | 25 => decMajor19 w
  | 32 => decMajor20 w
  | 33 => decMajor21 w
  | 34 => decMajor22 w
  | 35 => decMajor23 w
  | 36 => decMajor24 w
  | 37 => decMajor25 w
  | 38 => decMajor26 w
  | 39 => decMajor27 w
  | 40 => decMajor28 w
  | 41 => decMajor29 w
  | 42 => decMajor2a w
  | 43 => decMajor2b w
  | 44 => decMajor2c w
  | 45 => decMajor2d w
  | 46 => decMajor2e w
  | 47 => decMajor2f w
  | 48 => decMajor30 w
  | 49 => decMajor31 w
  | 50 => decMajor32 w
  | 51 => decMajor33 w
  | 52 => decMajor34 w
  | 54 => decMajor36 w
  | 55 => decMajor37 w
  | 56 => decMajor38 w
  | 57 => decMajor39 w
  | 58 => decMajor3a w
  | 63 => .error .liwMisuse
  | _ => .error .reservedMajor

/-- Does the word's major have an immediate field that a prefix can replace (R142)? -/
def hasImm (w : Word) : Bool :=
  let m := (w.extractLsb' 26 6).toNat
  (1 ≤ m && m ≤ 6) || (11 ≤ m && m ≤ 13) || (21 ≤ m && m ≤ 24)

/-- How many low bits the replaced immediate field has: imm14, imm12 for 0x05 and 0x06, off12, off22, off20, len or count of
0x18 (R142). -/
def immBits (w : Word) : Nat :=
  let m := (w.extractLsb' 26 6).toNat
  if m = 5 ∨ m = 6 then 12 else if 11 ≤ m ∧ m ≤ 13 then 12 else if m = 21 then 22 else if m = 22 then 20
  else if m = 24 then 13 else 14

/-- Is the word one of a reserved major (R402)? -/
def majorReserved (w : Word) : Bool :=
  let m := (w.extractLsb' 26 6).toNat
  (26 ≤ m && m ≤ 31) || m == 53 || (59 ≤ m && m ≤ 62)

/-- The instruction of a word that has an immediate field (R142): decodeWord on those majors. -/
def decodeImm (w : Word) : Dec :=
  match (w.extractLsb' 26 6).toNat with
  | 1 => decMajor01 w
  | 2 => decMajor02 w
  | 3 => decMajor03 w
  | 4 => decMajor04 w
  | 5 => decMajor05 w
  | 6 => decMajor06 w
  | 11 => decMajor0b w
  | 12 => decMajor0c w
  | 13 => decMajor0d w
  | 21 => decMajor15 w
  | 22 => decMajor16 w
  | 23 => decMajor17 w
  | 24 => decMajor18 w
  | _ => .error .liwMisuse

/-- The value of the long immediate beyond what its instruction admits: shift amounts above 63, LOOP lengths above 2^21
(R163, R182, R403). -/
def liwTooBig (imm w : Word) : Bool :=
  let m := (w.extractLsb' 26 6).toNat
  (m = 5 && 63 < imm.toNat) || (m = 24 && w.extractLsb' 13 1 = 0 && 2 ^ 21 < imm.toNat)

/-- The prefixed instruction of a long-immediate group, its own immediate field reading zero (R142), or the first failing
check in the order of R401. -/
def decodePrefixed (imm w : Word) : Dec :=
  if majorReserved w then .error .reservedMajor
  else if !hasImm w then .error .liwMisuse
  else
    let low := w.toNat % 2 ^ immBits w
    match decodeImm (w - BitVec.ofNat 32 low) with
    | .error (.mustBeZero v) => .error (if low = 0 then .mustBeZero v else .mustBeZero (Machine.lowBit 32 low))
    | .error e => .error e
    | .ok i =>
      if low ≠ 0 then .error (.mustBeZero (Machine.lowBit 32 low))
      else if liwTooBig imm w then .error (.liwRange imm.toNat) else .ok i

/-- A whole instruction from its first word and the two words after it (R138, R142). A prefix word whose low bits are set
is refused, after what R401 puts before it in the prefixed word. -/
noncomputable def decodeGroup (w w1 w2 : Word) : Dec :=
  if w.extractLsb' 26 6 = 63 then
    let low := (w.extractLsb' 0 26).toNat
    if low = 0 then .ok (.liw w1 w2)
    else match decodePrefixed w1 w2 with
      | .ok _ | .error (.mustBeZero _) | .error (.liwRange _) => .error (.mustBeZero (Machine.lowBit 32 low))
      | .error e => .error e
  else decodeWord w

/-- The word four bytes spell, little-endian (R3, R138). -/
def wordOfBytes (b0 b1 b2 b3 : Byte) : Word := b3 ++ b2 ++ b1 ++ b0

/-- Decodes the instruction at the head of a list of bytes and gives the bytes after it. -/
noncomputable def decode : List Byte → Except DecErr (Instr × List Byte)
  | b0 :: b1 :: b2 :: b3 :: t =>
    let w := wordOfBytes b0 b1 b2 b3
    if w.extractLsb' 26 6 = 63 then
      match t with
      | c0 :: c1 :: c2 :: c3 :: d0 :: d1 :: d2 :: d3 :: r =>
        match decodeGroup w (wordOfBytes c0 c1 c2 c3) (wordOfBytes d0 d1 d2 d3) with
        | .ok i => .ok (i, r)
        | .error e => .error e
      | _ => .error .tooShort
    else match decodeWord w with
      | .ok i => .ok (i, t)
      | .error e => .error e
  | _ => .error .tooShort

/-- The transfer step fields of a collective step word (R328). -/
def stepFields (v : BitVec 64) : StepFields :=
  ⟨v.extractLsb' 58 2, v.extractLsb' 36 22, v.extractLsb' 33 3, v.extractLsb' 30 3, v.extractLsb' 28 2,
    v.extractLsb' 26 2, v.extractLsb' 24 2, v.extractLsb' 16 8, v.extractLsb' 13 3, v.extractLsb' 12 1,
    v.extractLsb' 11 1⟩

/-- An RR word (R139). -/
def wRR (m : BitVec 6) (d : BitVec 5) (n : BitVec 1) (a b : BitVec 6) (f : BitVec 8) : Word := m ++ d ++ n ++ a ++ b ++ f
/-- An RI word (R139). -/
def wRI (m : BitVec 6) (d : BitVec 5) (n : BitVec 1) (a : BitVec 6) (i : BitVec 14) : Word := m ++ d ++ n ++ a ++ i
/-- A BR word (R139). -/
def wBR (m : BitVec 6) (p : BitVec 3) (v : BitVec 1) (o : BitVec 22) : Word := m ++ p ++ v ++ o
/-- A JL word (R139). -/
def wJL (m : BitVec 6) (d : BitVec 5) (n : BitVec 1) (o : BitVec 20) : Word := m ++ d ++ n ++ o
/-- A MEM word (R139). -/
def wMEM (m : BitVec 6) (d : BitVec 5) (u : BitVec 1) (a : BitVec 6) (z : BitVec 2) (o : BitVec 12) : Word :=
  m ++ d ++ u ++ a ++ z ++ o
/-- An E word (R139). -/
def wE (m : BitVec 6) (t g : BitVec 3) (x y z f : BitVec 5) : Word := m ++ t ++ g ++ x ++ y ++ z ++ f
/-- A PUBV word (R269). -/
def wPB (m : BitVec 6) (p s : BitVec 3) (a b : BitVec 6) (f : BitVec 8) : Word := m ++ p ++ s ++ a ++ b ++ f


/-- The word of an instruction of 32 bits, from the formats of R139 and the codes of R152 and R153 (the prefix word
for a long-immediate group, 0 for a step that no word of 32 bits spells). -/
def encodeWord : Instr → Word
  | .add d n a b => wRR 0 d n a b 0
  | .sub d n a b => wRR 0 d n a b 1
  | .and d n a b => wRR 0 d n a b 2
  | .or d n a b => wRR 0 d n a b 3
  | .xor d n a b => wRR 0 d n a b 4
  | .andn d n a b => wRR 0 d n a b 5
  | .orn d n a b => wRR 0 d n a b 6
  | .shl d n a b => wRR 0 d n a b 7
  | .shr d n a b => wRR 0 d n a b 8
  | .sar d n a b => wRR 0 d n a b 9
  | .rol d n a b => wRR 0 d n a b 10
  | .min d n a b => wRR 0 d n a b 11
  | .max d n a b => wRR 0 d n a b 12
  | .minn d n a b => wRR 0 d n a b 13
  | .maxn d n a b => wRR 0 d n a b 14
  | .seq d n a b => wRR 0 d n a b 15
  | .sne d n a b => wRR 0 d n a b 16
  | .slt d n a b => wRR 0 d n a b 17
  | .sltn d n a b => wRR 0 d n a b 18
  | .sle d n a b => wRR 0 d n a b 19
  | .slen d n a b => wRR 0 d n a b 20
  | .clz d n a => wRR 0 d n a 0 21
  | .ctz d n a => wRR 0 d n a 0 22
  | .popc d n a => wRR 0 d n a 0 23
  | .addi d n a i => wRI 1 d n a i
  | .andi d n a i => wRI 2 d n a i
  | .ori d n a i => wRI 3 d n a i
  | .xori d n a i => wRI 4 d n a i
  | .shli d n a s => wRI 5 d n a ((0 : BitVec 8) ++ s)
  | .shri d n a s => wRI 5 d n a ((64 : BitVec 8) ++ s)
  | .sari d n a s => wRI 5 d n a ((128 : BitVec 8) ++ s)
  | .roli d n a s => wRI 5 d n a ((192 : BitVec 8) ++ s)
  | .seqi d n a i => wRI 6 d n a ((0 : BitVec 2) ++ i)
  | .slti d n a i => wRI 6 d n a ((1 : BitVec 2) ++ i)
  | .sltni d n a i => wRI 6 d n a ((2 : BitVec 2) ++ i)
  | .lea d n a b s => wRR 7 d n a b s
  | .mul d n a b => wRR 8 d n a b 0
  | .mulh d n a b => wRR 8 d n a b 1
  | .mulhn d n a b => wRR 8 d n a b 2
  | .div d n a b => wRR 8 d n a b 3
  | .divn d n a b => wRR 8 d n a b 4
  | .rem d n a b => wRR 8 d n a b 5
  | .remn d n a b => wRR 8 d n a b 6
  | .peq d a b => wRR 9 ((0 : BitVec 2) ++ d) 0 a b 0
  | .pne d a b => wRR 9 ((0 : BitVec 2) ++ d) 0 a b 1
  | .plt d a b => wRR 9 ((0 : BitVec 2) ++ d) 0 a b 2
  | .pltn d a b => wRR 9 ((0 : BitVec 2) ++ d) 0 a b 3
  | .ple d a b => wRR 9 ((0 : BitVec 2) ++ d) 0 a b 4
  | .plen d a b => wRR 9 ((0 : BitVec 2) ++ d) 0 a b 5
  | .pand d a b => wRR 9 ((0 : BitVec 2) ++ d) 0 ((0 : BitVec 3) ++ a) ((0 : BitVec 3) ++ b) 6
  | .por d a b => wRR 9 ((0 : BitVec 2) ++ d) 0 ((0 : BitVec 3) ++ a) ((0 : BitVec 3) ++ b) 7
  | .pxor d a b => wRR 9 ((0 : BitVec 2) ++ d) 0 ((0 : BitVec 3) ++ a) ((0 : BitVec 3) ++ b) 8
  | .pnot d a => wRR 9 ((0 : BitVec 2) ++ d) 0 ((0 : BitVec 3) ++ a) 0 9
  | .ptog d => wRR 9 ((0 : BitVec 2) ++ d) 0 0 0 10
  | .sel d n a b v p => wRR 10 d n a b ((0 : BitVec 4) ++ v ++ p)
  | .ldS8 d b o => wMEM 11 d 0 b 0 o
  | .ldN8 d b o => wMEM 11 d 1 b 0 o
  | .ldS16 d b o => wMEM 11 d 0 b 1 o
  | .ldN16 d b o => wMEM 11 d 1 b 1 o
  | .ldS32 d b o => wMEM 11 d 0 b 2 o
  | .ldN32 d b o => wMEM 11 d 1 b 2 o
  | .ldD d b o => wMEM 11 d 0 b 3 o
  | .stB s b o => wMEM 12 s 0 b 0 o
  | .stH s b o => wMEM 12 s 0 b 1 o
  | .stW s b o => wMEM 12 s 0 b 2 o
  | .stD s b o => wMEM 12 s 0 b 3 o
  | .stfW s b o => wMEM 13 s 0 b 0 o
  | .stfD s b o => wMEM 13 s 0 b 1 o
  | .ldfWKeep d b o => wMEM 13 d 0 b 2 o
  | .ldfWTake d b o => wMEM 13 d 1 b 2 o
  | .ldfDKeep d b o => wMEM 13 d 0 b 3 o
  | .ldfDTake d b o => wMEM 13 d 1 b 3 o
  | .aaddW d n a b => wRR 14 d n a b 0
  | .aaddD d n a b => wRR 14 d n a b 1
  | .asaddW d n a b => wRR 14 d n a b 2
  | .asaddD d n a b => wRR 14 d n a b 3
  | .aminW d n a b => wRR 14 d n a b 4
  | .aminD d n a b => wRR 14 d n a b 5
  | .amaxW d n a b => wRR 14 d n a b 6
  | .amaxD d n a b => wRR 14 d n a b 7
  | .aminnW d n a b => wRR 14 d n a b 8
  | .aminnD d n a b => wRR 14 d n a b 9
  | .amaxnW d n a b => wRR 14 d n a b 10
  | .amaxnD d n a b => wRR 14 d n a b 11
  | .aandW d n a b => wRR 14 d n a b 12
  | .aandD d n a b => wRR 14 d n a b 13
  | .aorW d n a b => wRR 14 d n a b 14
  | .aorD d n a b => wRR 14 d n a b 15
  | .axorW d n a b => wRR 14 d n a b 16
  | .axorD d n a b => wRR 14 d n a b 17
  | .aswapW d n a b => wRR 14 d n a b 18
  | .aswapD d n a b => wRR 14 d n a b 19
  | .acasW d n a b => wRR 14 d n a b 20
  | .acasD d n a b => wRR 14 d n a b 21
  | .afaddW d n a b => wRR 14 d n a b 22
  | .faddD d n a b => wRR 15 d n a b 0
  | .faddS d n a b => wRR 15 d n a b 1
  | .fsubD d n a b => wRR 15 d n a b 2
  | .fsubS d n a b => wRR 15 d n a b 3
  | .fmulD d n a b => wRR 15 d n a b 4
  | .fmulS d n a b => wRR 15 d n a b 5
  | .fminD d n a b => wRR 15 d n a b 6
  | .fminS d n a b => wRR 15 d n a b 7
  | .fmaxD d n a b => wRR 15 d n a b 8
  | .fmaxS d n a b => wRR 15 d n a b 9
  | .fabsD d n a => wRR 15 d n a 0 10
  | .fabsS d n a => wRR 15 d n a 0 11
  | .fnegD d n a => wRR 15 d n a 0 12
  | .fnegS d n a => wRR 15 d n a 0 13
  | .fceqD d n a b => wRR 15 d n a b 14
  | .fceqS d n a b => wRR 15 d n a b 15
  | .fcltD d n a b => wRR 15 d n a b 16
  | .fcltS d n a b => wRR 15 d n a b 17
  | .fcleD d n a b => wRR 15 d n a b 18
  | .fcleS d n a b => wRR 15 d n a b 19
  | .ffmaD d n a b => wRR 16 d n a b 0
  | .ffmaS d n a b => wRR 16 d n a b 1
  | .fcvtF32F64 d n a m => wRR 17 d n a ((0 : BitVec 3) ++ m) 0
  | .fcvtF64F32 d n a m => wRR 17 d n a ((0 : BitVec 3) ++ m) 1
  | .fcvtF16F32 d n a m => wRR 17 d n a ((0 : BitVec 3) ++ m) 2
  | .fcvtF32F16 d n a m => wRR 17 d n a ((0 : BitVec 3) ++ m) 3
  | .fcvtBf16F32 d n a m => wRR 17 d n a ((0 : BitVec 3) ++ m) 4
  | .fcvtF32Bf16 d n a m => wRR 17 d n a ((0 : BitVec 3) ++ m) 5
  | .fcvtKf8F32 d n a m => wRR 17 d n a ((0 : BitVec 3) ++ m) 6
  | .fcvtF32Kf8 d n a m => wRR 17 d n a ((0 : BitVec 3) ++ m) 7
  | .fcvtS64F64 d n a m => wRR 17 d n a ((0 : BitVec 3) ++ m) 8
  | .fcvtF64S64 d n a m => wRR 17 d n a ((0 : BitVec 3) ++ m) 9
  | .fcvtS32F32 d n a m => wRR 17 d n a ((0 : BitVec 3) ++ m) 10
  | .fcvtF32S32 d n a m => wRR 17 d n a ((0 : BitVec 3) ++ m) 11
  | .fcvtN64F64 d n a m => wRR 17 d n a ((0 : BitVec 3) ++ m) 12
  | .fcvtF64N64 d n a m => wRR 17 d n a ((0 : BitVec 3) ++ m) 13
  | .exp2D d n a => wRR 18 d n a 0 0
  | .exp2S d n a => wRR 18 d n a 0 1
  | .log2D d n a => wRR 18 d n a 0 2
  | .log2S d n a => wRR 18 d n a 0 3
  | .rcpD d n a => wRR 18 d n a 0 4
  | .rcpS d n a => wRR 18 d n a 0 5
  | .rsqD d n a => wRR 18 d n a 0 6
  | .rsqS d n a => wRR 18 d n a 0 7
  | .kand d n a b => wRR 19 ((0 : BitVec 1) ++ d) n ((0 : BitVec 2) ++ a) ((0 : BitVec 2) ++ b) 0
  | .kor d n a b => wRR 19 ((0 : BitVec 1) ++ d) n ((0 : BitVec 2) ++ a) ((0 : BitVec 2) ++ b) 1
  | .kxor d n a b => wRR 19 ((0 : BitVec 1) ++ d) n ((0 : BitVec 2) ++ a) ((0 : BitVec 2) ++ b) 2
  | .kandn d n a b => wRR 19 ((0 : BitVec 1) ++ d) n ((0 : BitVec 2) ++ a) ((0 : BitVec 2) ++ b) 3
  | .knot d n a => wRR 19 ((0 : BitVec 1) ++ d) n ((0 : BitVec 2) ++ a) 0 4
  | .kshl d n a b => wRR 19 ((0 : BitVec 1) ++ d) n ((0 : BitVec 2) ++ a) b 5
  | .kshr d n a b => wRR 19 ((0 : BitVec 1) ++ d) n ((0 : BitVec 2) ++ a) b 6
  | .kpop d n a => wRR 19 d n ((0 : BitVec 2) ++ a) 0 7
  | .kmovg d n a => wRR 19 d n ((0 : BitVec 2) ++ a) 0 8
  | .kmovk d n a => wRR 19 ((0 : BitVec 1) ++ d) n a 0 9
  | .kbit d n a b => wRR 19 ((0 : BitVec 1) ++ d) n ((0 : BitVec 2) ++ a) b 10
  | .ktst d n a b => wRR 19 ((0 : BitVec 2) ++ d) n ((0 : BitVec 2) ++ a) b 11
  | .kldm d n a b => wRR 19 ((0 : BitVec 1) ++ d) n a b 12
  | .kffs d n a => wRR 19 d n ((0 : BitVec 2) ++ a) 0 13
  | .emov d n a => wRR 20 ((0 : BitVec 1) ++ d) n a 0 0
  | .eget d n a => wRR 20 d n ((0 : BitVec 2) ++ a) 0 1
  | .emin d n a b => wRR 20 ((0 : BitVec 1) ++ d) n ((0 : BitVec 2) ++ a) b 2
  | .esub d n a b => wRR 20 ((0 : BitVec 1) ++ d) n ((0 : BitVec 2) ++ a) b 3
  | .eadd d n a b => wRR 20 ((0 : BitVec 1) ++ d) n ((0 : BitVec 2) ++ a) b 4
  | .eclr a => wRR 20 0 0 a 0 5
  | .br p v o => wBR 21 p v o
  | .jal d n o => wJL 22 d n o
  | .jr d n a i => wRI 23 d n a i
  | .loop a l => wRI 24 0 0 a ((0 : BitVec 1) ++ l)
  | .loopi l c => wRI 24 l 0 0 ((1 : BitVec 1) ++ c)
  | .nop => wRR 25 0 0 0 0 0
  | .halt => wRR 25 0 0 0 0 1
  | .trap a => wRR 25 0 0 a 0 2
  | .eret => wRR 25 0 0 0 0 3
  | .evret => wRR 25 0 0 0 0 4
  | .mfs d n r => wRR 25 d n 0 r 5
  | .mts a r => wRR 25 0 0 a r 6
  | .fence => wRR 25 0 0 0 0 7
  | .afence => wRR 25 0 0 0 0 8
  | .phaseCore => wRR 25 0 0 0 0 9
  | .phaseClus => wRR 25 0 0 0 0 10
  | .phaseDie => wRR 25 0 0 0 0 11
  | .phasePkg => wRR 25 0 0 0 0 12
  | .phaseDom => wRR 25 0 0 0 0 13
  | .phaseSys => wRR 25 0 0 0 0 14
  | .segend e c => wRR 25 ((0 : BitVec 2) ++ e) 0 (c.extractLsb' 6 6) (c.extractLsb' 0 6) 15
  | .waitc d n a b => wRR 25 d n a b 16
  | .sched a b => wRR 25 0 0 ((0 : BitVec 2) ++ a) b 17
  | .park d n a => wRR 25 d n a 0 18
  | .notify a b => wRR 25 0 0 a b 19
  | .rpop d n => wRR 25 d n 0 0 20
  | .cinG t g x y z => wE 32 ((0 : BitVec 1) ++ t) ((0 : BitVec 1) ++ g) x y z 0
  | .cinL t g x y z => wE 32 ((0 : BitVec 1) ++ t) ((0 : BitVec 1) ++ g) x y z 1
  | .cinP t g x y z => wE 32 ((0 : BitVec 1) ++ t) ((0 : BitVec 1) ++ g) x y z 2
  | .cinMc t g x y z => wE 32 ((0 : BitVec 1) ++ t) ((0 : BitVec 1) ++ g) x y z 3
  | .coutG t g x y z => wE 33 ((0 : BitVec 1) ++ t) ((0 : BitVec 2) ++ g) x y z 0
  | .coutL t g x y z => wE 33 ((0 : BitVec 1) ++ t) ((0 : BitVec 2) ++ g) x y z 1
  | .coutP t g x y z => wE 33 ((0 : BitVec 1) ++ t) ((0 : BitVec 2) ++ g) x y z 2
  | .coutSel t g x y z => wE 33 ((0 : BitVec 1) ++ t) ((0 : BitVec 2) ++ g) x y z 3
  | .cpxPp t g x y z => wE 34 ((0 : BitVec 1) ++ t) ((0 : BitVec 1) ++ g) x y z 0
  | .cpxPl t g x y z => wE 34 ((0 : BitVec 1) ++ t) ((0 : BitVec 1) ++ g) x y z 1
  | .cpxLp t g x y z => wE 34 ((0 : BitVec 1) ++ t) ((0 : BitVec 1) ++ g) x y z 2
  | .cpxLl t g x y z => wE 34 ((0 : BitVec 1) ++ t) ((0 : BitVec 1) ++ g) x y z 3
  | .cgathP t g x y z => wE 35 ((0 : BitVec 1) ++ t) ((0 : BitVec 1) ++ g) x y z 0
  | .cgathL t g x y z => wE 35 ((0 : BitVec 1) ++ t) ((0 : BitVec 1) ++ g) x y z 1
  | .cscatP t g x y z => wE 35 ((0 : BitVec 1) ++ t) ((0 : BitVec 2) ++ g) x y z 2
  | .cscatL t g x y z => wE 35 ((0 : BitVec 1) ++ t) ((0 : BitVec 2) ++ g) x y z 3
  | .pgin t g x y => wE 36 ((0 : BitVec 1) ++ t) ((0 : BitVec 1) ++ g) x y 0 0
  | .pgout t g x y => wE 36 ((0 : BitVec 1) ++ t) ((0 : BitVec 2) ++ g) x y 0 1
  | .wrsig t g x y z => wE 37 ((0 : BitVec 1) ++ t) ((0 : BitVec 2) ++ g) x y z 0
  | .wrsigAdd t g x y z => wE 37 ((0 : BitVec 1) ++ t) ((0 : BitVec 2) ++ g) x y z 1
  | .lkopFill t g x y z => wE 39 ((0 : BitVec 1) ++ t) ((0 : BitVec 1) ++ g) x y z 0
  | .lkopAdd t g x y z => wE 39 ((0 : BitVec 1) ++ t) ((0 : BitVec 1) ++ g) x y z 1
  | .lkopSadd t g x y z => wE 39 ((0 : BitVec 1) ++ t) ((0 : BitVec 1) ++ g) x y z 2
  | .lkopMin t g x y z => wE 39 ((0 : BitVec 1) ++ t) ((0 : BitVec 1) ++ g) x y z 3
  | .lkopMax t g x y z => wE 39 ((0 : BitVec 1) ++ t) ((0 : BitVec 1) ++ g) x y z 4
  | .lkopAnd t g x y z => wE 39 ((0 : BitVec 1) ++ t) ((0 : BitVec 1) ++ g) x y z 5
  | .lkopOr t g x y z => wE 39 ((0 : BitVec 1) ++ t) ((0 : BitVec 1) ++ g) x y z 6
  | .lkopXor t g x y z => wE 39 ((0 : BitVec 1) ++ t) ((0 : BitVec 1) ++ g) x y z 7
  | .lkopFadd t g x y z => wE 39 ((0 : BitVec 1) ++ t) ((0 : BitVec 1) ++ g) x y z 8
  | .lkopFmax t g x y z => wE 39 ((0 : BitVec 1) ++ t) ((0 : BitVec 1) ++ g) x y z 9
  | .lkopFmul t g x y z => wE 39 ((0 : BitVec 1) ++ t) ((0 : BitVec 1) ++ g) x y z 10
  | .lkopRsum t g x y z => wE 39 ((0 : BitVec 1) ++ t) ((0 : BitVec 1) ++ g) x y z 11
  | .give a => wRR 38 0 0 ((0 : BitVec 3) ++ a) 0 0
  | .take a => wRR 38 0 0 ((0 : BitVec 3) ++ a) 0 1
  | .qdepth d n a b => wRR 38 d n ((0 : BitVec 4) ++ a) b 2
  | .qseq d n a b => wRR 38 d n ((0 : BitVec 4) ++ a) ((0 : BitVec 5) ++ b) 3
  | .vchain t g x y z => wE 40 ((0 : BitVec 1) ++ t) g x y z 0
  | .vredSum t g x y z => wE 41 ((0 : BitVec 1) ++ t) g x y z 0
  | .vredMax t g x y z => wE 41 ((0 : BitVec 1) ++ t) g x y z 1
  | .vredMin t g x y z => wE 41 ((0 : BitVec 1) ++ t) g x y z 2
  | .vredArgmax t g x y z => wE 41 ((0 : BitVec 1) ++ t) g x y z 3
  | .vredArgmin t g x y z => wE 41 ((0 : BitVec 1) ++ t) g x y z 4
  | .vredSumsq t g x y z => wE 41 ((0 : BitVec 1) ++ t) g x y z 5
  | .vscanAdd t g x y z => wE 42 ((0 : BitVec 1) ++ t) g x y z 0
  | .vscanMax t g x y z => wE 42 ((0 : BitVec 1) ++ t) g x y z 1
  | .vgath t g x y z => wE 43 ((0 : BitVec 1) ++ t) g x y z 0
  | .vscatSet t g x y z => wE 43 ((0 : BitVec 1) ++ t) g x y z 1
  | .vscatAdd t g x y z => wE 43 ((0 : BitVec 1) ++ t) g x y z 2
  | .vscatMax t g x y z => wE 43 ((0 : BitVec 1) ++ t) g x y z 3
  | .vscatMul t g x y z => wE 43 ((0 : BitVec 1) ++ t) g x y z 4
  | .vdotS8 t g x y z => wE 44 ((0 : BitVec 1) ++ t) g x y z 0
  | .vdotQ4 t g x y z => wE 44 ((0 : BitVec 1) ++ t) g x y z 1
  | .vdotT5 t g x y z => wE 44 ((0 : BitVec 1) ++ t) g x y z 2
  | .bset t g x y => wE 45 ((0 : BitVec 1) ++ t) g x y 0 0
  | .vperm t g x y z => wE 45 ((0 : BitVec 1) ++ t) g x y z 1
  | .vsearchTopk t g x y z => wE 46 ((0 : BitVec 1) ++ t) g x y z 0
  | .vsearchThr t g x y z => wE 46 ((0 : BitVec 1) ++ t) g x y z 1
  | .vfind t g x y z => wE 47 ((0 : BitVec 1) ++ t) g x y z 0
  | .vcount t g x y z => wE 47 ((0 : BitVec 1) ++ t) g x y z 1
  | .mlt t g x => wE 48 ((0 : BitVec 1) ++ t) ((0 : BitVec 1) ++ g) x 0 0 0
  | .mgo t g x => wE 48 ((0 : BitVec 1) ++ t) ((0 : BitVec 1) ++ g) x 0 0 1
  | .mldwDense t g x z => wE 49 ((0 : BitVec 1) ++ t) ((0 : BitVec 1) ++ g) x 0 z 0
  | .mldwS24 t g x y z => wE 49 ((0 : BitVec 1) ++ t) ((0 : BitVec 1) ++ g) x y z 1
  | .mldwS14 t g x y z => wE 49 ((0 : BitVec 1) ++ t) ((0 : BitVec 1) ++ g) x y z 2
  | .mswap t g => wE 49 ((0 : BitVec 1) ++ t) ((0 : BitVec 1) ++ g) 0 0 0 3
  | .mmask t g x => wE 50 ((0 : BitVec 1) ++ t) ((0 : BitVec 1) ++ g) x 0 0 0
  | .mzero t g x => wE 50 ((0 : BitVec 1) ++ t) ((0 : BitVec 1) ++ g) x 0 0 1
  | .mdrainP t g x y z => wE 51 ((0 : BitVec 1) ++ t) ((0 : BitVec 1) ++ g) x y z 0
  | .mdrainPort t g x y z => wE 51 ((0 : BitVec 1) ++ t) ((0 : BitVec 1) ++ g) x y z 1
  | .mdrainSel t g x y z => wE 51 ((0 : BitVec 1) ++ t) ((0 : BitVec 1) ++ g) x y z 2
  | .mstat t g => wE 52 ((0 : BitVec 1) ++ t) ((0 : BitVec 1) ++ g) 0 0 0 0
  | .talloc d n a b => wRR 54 d n a b 0
  | .tallocV d n a b => wRR 54 d n a b 1
  | .tadd a b => wRR 54 0 0 a b 2
  | .tdraw a => wRR 54 0 0 a 0 3
  | .tabnd a => wRR 54 0 0 a 0 4
  | .tinfo d n a => wRR 54 d n a 0 5
  | .pubv p s a b => wPB 55 p s a b 0
  | .pubvF p s a b => wPB 55 p s a b 1
  | .tsub d n a b => wRR 55 d n a b 2
  | .stopref a => wRR 55 0 0 a 0 3
  | .swait a => wRR 55 0 0 a 0 4
  | .tver d n a => wRR 55 d n a 0 5
  | .fork a b => wRR 56 0 0 a b 0
  | .join => wRR 56 0 0 0 0 1
  | .enq a b => wRR 56 0 0 a b 2
  | .card d n => wRR 56 d n 0 0 3
  | .mbpost a b => wRR 57 0 0 a b 0
  | .mbtake d n a => wRR 57 d n a 0 1
  | .coll d n a b => wRR 58 d n a b 0
  | .liw _ _ => 0xFC000000
  | .csend _ _ _ => 0
  | .crecv _ _ _ => 0
  | .crrs _ _ _ => 0
  | .ccopy _ _ _ => 0
  | .cwait _ _ _ => 0
  | .cloop _ _ _ _ _ _ => 0
  | .cbar _ _ => 0
  | .cend _ _ => 0
  | .hostRegisterWrite _ _ _ => 0
  | .graphParameterWrite _ _ _ => 0
  | .gstart _ _ => 0
  | .graphSlotConfigWrite _ _ _ => 0
  | .launch _ _ => 0
  | .installPoolDescriptors _ => 0
  | .shootdown _ => 0
  | .shootdownDone _ => 0
  | .jend _ _ => 0
  | .crst _ => 0
  | .vfFlr _ => 0
  | .replay _ => 0
  | .trun _ => 0
  | .thold _ => 0
  | .wallWrite _ _ _ => 0
  | .plimWrite _ => 0
  | .routeEntryWrite _ _ => 0
  | .monitorClear _ => 0
  | .monitorSatClear _ => 0
  | .elstatDropClear _ => 0
  | .cfenceClear _ _ => 0
  | .monitorSample _ _ => 0
  | .notifyMirrorWrite _ _ _ => 0
  | .toolNotifyStore _ _ _ => 0
  | .toolSandboxAccess _ _ _ _ _ => 0
  | .doorbellClear _ _ => 0
  | .attestationRequest => 0
  | .securityImageVerify _ _ _ _ _ _ => 0
  | .deviceReset => 0
  | .pcieHotReset => 0
  | .hostLinkError _ => 0
  | .hostBar2Access _ _ _ _ _ => 0
  | .powerStateEntry _ _ => 0
  | .powerWake _ => 0
  | .thermalHoldEntry _ => 0
  | .thermalHoldExit _ _ => 0
  | .thermalTrip _ => 0
  | .supplyFault => 0
  | .plimOverrun => 0
  | .correctableError _ => 0
  | .patrolPoison _ _ => 0
  | .deviceFatalError _ _ _ => 0
  | .securityProcessorFault => 0
  | .toolCacheError _ _ => 0
  | .tileTableError _ _ => 0
  | .cxlPortDown _ => 0
  | .cxlPortRetrained _ => 0
  | .flitReceive _ _ _ => 0
  | .flitAck _ _ => 0
  | .flitAckTimeout _ => 0
  | .spanUp _ _ => 0
  | .remoteAccessHome _ _ _ _ _ _ => 0
  | .remoteResponse _ _ _ => 0
  | .remoteAccessTimeout _ => 0
  | .pierReport _ _ => 0
  | .collReadyArrive _ _ _ => 0
  | .collDataArrive _ _ _ _ _ => 0
  | .collTransferFinish _ _ _ _ => 0
  | .cbarMessage _ _ _ => 0
  | .collAbortMessage _ _ => 0
  | .collTimeout _ _ _ => 0
  | .jobIssue _ => 0
  | .class0Preempt _ => 0
  | .preemptPointLate _ _ => 0
  | .contextSave _ _ => 0
  | .saveComplete _ _ => 0
  | .contextRestore _ => 0
  | .streamNodeStart => 0
  | .streamNodeComplete _ => 0
  | .jobEnd _ => 0
  | .cardServe => 0
  | .periodStart _ => 0
  | .strandChoice _ => 0
  | .eventDelivery _ _ => 0
  | .waitExpiry _ _ => 0
  | .asyncPoolCause _ _ => 0
  | .taskStart _ _ => 0
  | .stealRequest _ _ => 0
  | .stealResult _ _ => 0
  | .stealRetry _ _ => 0
  | .poolUnitCycle _ => 0
  | .subscriberFireTimeout _ _ => 0
  | .settleExamine _ _ => 0
  | .engineEntryBegin _ _ => 0
  | .copySector _ _ => 0
  | .vectorRow _ => 0
  | .reductionRetire _ => 0
  | .engineEntryComplete _ _ => 0
  | .pageWalkComplete _ => 0
  | .pageCopyComplete _ _ _ => 0
  | .scoreboardReturn _ _ => 0
  | .virtualFunctionEnable _ _ => 0
  | .toolTimerInterrupt _ => 0

/-- Why a collective step word is refused (R458). -/
inductive StepErr where
  /-- 0xA8: a reserved op. -/
  | reservedOp
  /-- 0xA9: a reserved or unused field that is not zero. -/
  | reservedField
  deriving DecidableEq, Repr

/-- Are the fields of a transfer step ones R328 to R330 admit: op 1 CSEND, 2 CRECV, 3 CRRS, 4 CCOPY? -/
def stepFieldsOk (op : Nat) (f : StepFields) : Bool :=
  f.cl ≠ 3 && (f.cl ≠ 0 || f.lc = 0) && f.rop.toNat < 3 && (op = 3 || (f.rop = 0 && f.ns = 0)) &&
    (op = 4 || f.pm ≠ 3) && (op ≠ 1 || f.dbuf = 0) && (op ≠ 2 || f.sbuf = 0) &&
    (op ≠ 4 || (f.pm = 0 && f.pv = 0 && f.ca ≠ 3))

/-- The step that a collective step word spells, as the step of launch ln of cluster cl's sequencer (R328, R333). -/
noncomputable def decodeStep (cl : Nat) (ln : BitVec 32) (v : BitVec 64) : Except StepErr Instr :=
  let f := stepFields v
  let low (n : Nat) (i : Instr) : Except StepErr Instr := if v.toNat % 2 ^ n = 0 then .ok i else .error .reservedField
  let tr (op : Nat) (i : Instr) : Except StepErr Instr :=
    if v.toNat % 2 ^ 11 = 0 && stepFieldsOk op f then .ok i else .error .reservedField
  match (v.extractLsb' 60 4).toNat with
  | 0 => low 60 (.cend cl ln)
  | 1 => tr 1 (.csend cl ln f)
  | 2 => tr 2 (.crecv cl ln f)
  | 3 => tr 3 (.crrs cl ln f)
  | 4 => tr 4 (.ccopy cl ln f)
  | 5 => low 59 (.cwait cl ln (v.extractLsb' 59 1))
  | 6 => if v.extractLsb' 20 16 = 0 then .error .reservedField
         else low 20 (.cloop cl ln (v.extractLsb' 58 2) (v.extractLsb' 57 1) (v.extractLsb' 36 21) (v.extractLsb' 20 16))
  | 7 => low 60 (.cbar cl ln)
  | _ => .error .reservedOp

/-- A transfer step word (R328). -/
def wStep (op : BitVec 4) (f : StepFields) : BitVec 64 :=
  op ++ f.pm ++ f.pv ++ f.sbuf ++ f.dbuf ++ f.ca ++ f.cl ++ f.lc ++ f.coff ++ f.rop ++ f.par ++ f.ns ++ (0 : BitVec 11)

/-- The 64-bit word of a collective step, if the instruction is one (R328, R333). -/
def encodeStep : Instr → Option (BitVec 64)
  | .csend _ _ f => some (wStep 1 f)
  | .crecv _ _ f => some (wStep 2 f)
  | .crrs _ _ f => some (wStep 3 f)
  | .ccopy _ _ f => some (wStep 4 f)
  | .cwait _ _ w => some ((5 : BitVec 4) ++ w ++ (0 : BitVec 59))
  | .cloop _ _ k rel v len => some ((6 : BitVec 4) ++ k ++ rel ++ v ++ len ++ (0 : BitVec 20))
  | .cbar _ _ => some ((7 : BitVec 4) ++ (0 : BitVec 60))
  | .cend _ _ => some 0
  | _ => none

/-- Are the fields of a step ones that R328 to R330 and R333 admit? -/
def stepOk : Instr → Bool
  | .csend _ _ f => stepFieldsOk 1 f
  | .crecv _ _ f => stepFieldsOk 2 f
  | .crrs _ _ f => stepFieldsOk 3 f
  | .ccopy _ _ f => stepFieldsOk 4 f
  | .cloop _ _ _ _ _ len => len ≠ 0
  | _ => true

/-- The words of an instruction in the order they stand in memory (R138, R142). -/
def encode : Instr → List Word
  | .liw imm w => [0xFC000000, imm, w]
  | i => [encodeWord i]

/-- The bytes of a word, lowest address first (R3). -/
def wordBytes (w : Word) : List Byte := [w.extractLsb' 0 8, w.extractLsb' 8 8, w.extractLsb' 16 8, w.extractLsb' 24 8]

/-- The bytes of an instruction, lowest address first. -/
def encodeBytes (i : Instr) : List Byte := (encode i).flatMap wordBytes

/-- The instruction the decoder reads from a word whose bits are w, further words being zero. -/
noncomputable def decodeTableWord (nbits w : Nat) : Option Instr :=
  match decode (Machine.leBytes (nbits / 8) w ++ List.replicate 12 0) with
  | .ok (i, _) => some i
  | .error _ => none

end Sys2Proof
end

