-- ==== Sys2Proof/Config.lean ====
section
/-! DEFINITION. What the spec leaves open: constants without a body, so that no proof can use a value of theirs (log 8,
log 9, log 13). -/

namespace Sys2Proof.Config

/-- The byte a location reads as in an HBM frame whose page-in failed (R419): the stamp of the failure and the location. -/
opaque freeByte : Nat → Nat → BitVec 8

/-- The 192 bits that hold p1 to p7, LC and the loop state in a trap frame's header (R382), from those values: the
predicates as bits, LC, whether a loop is armed, its first word and the first word after it. -/
opaque rsave : Nat → Nat → Nat → Nat → Nat → BitVec 192

/-- The 352 bits of a saved entry's body (R383, R147), from its queue, sequence number, operands and tokens. -/
opaque entryBody : Nat → Nat → Nat → Nat → Nat → Nat → Nat → BitVec 352

/-- The device identity key, which never leaves the security processor (R362). -/
opaque deviceKey : Nat

/-- The secret number of each signature (R362), by stamp. -/
opaque signNonce : Nat → Nat

/-- The certificate chain of the device identity key, in X.509 DER (R362). -/
opaque certChain : List (BitVec 8)

/-- Bytes of the memory expander that is attached to a far-tier port (R349). -/
opaque expander : Nat → Nat

/-- Does a core pass its self-test (R363)? -/
opaque selfTest : Nat → Bool

/-- The syndrome of an uncorrectable error at a location (R423), which the spec does not define. -/
opaque syndrome : Nat → BitVec 64

/-- A result value that the spec does not state (log 8), by stamp. -/
opaque freeWord : Nat → BitVec 64

end Sys2Proof.Config
end

