-- ==== Sys2Proof/Machine/Types.lean ====
section
/-! DEFINITION. The plain data that State is built from: places, layout records, regions, resolved engine operations, queue
entries, tasks, events, trap frames, pools and jobs. -/

namespace Sys2Proof.Machine

/-- A byte's place: the space code of R42, the core (numbered 48 × cluster + core) for pond and accumulators, and the
offset; for space 0 the offset is the virtual address. -/
structure Place where
  space : Nat
  core : Nat
  off : Nat
  deriving DecidableEq, Repr

/-- A cause with its arguments TARG0 to TARG2 (R391). -/
structure Cause where
  code : Nat
  a0 : Nat
  a1 : Nat
  a2 : Nat
  deriving DecidableEq, Repr

/-- A layout record as frozen at issue, every extent resolved (R34 to R37). -/
structure Layout where
  fmt : Nat
  base : Place
  rank : Nat
  ext : List Nat
  stride : List Int
  ragged : Bool
  rdim : Nat
  offs : Place
  deriving DecidableEq, Repr

/-- The elements a region visits: strided, or those of a record (R221, R222). -/
inductive Shape where
  | strided (base : Place) (stride : Int) (count : Nat)
  | record (r : Layout)
  deriving DecidableEq, Repr

/-- A region as frozen at issue (R221). -/
structure Region where
  fmt : Nat
  q : Nat
  shape : Shape
  deriving DecidableEq, Repr

/-- The vector control word (R230). -/
structure VCtl where
  ix : Nat
  res : Bool
  excl : Bool
  breg : Nat
  rm : Nat
  ofmt : Nat
  g : Nat
  deriving DecidableEq, Repr

/-- One element operation of a chain (R227). -/
structure ChainOp where
  code : Nat
  dst : Nat
  x : Nat
  y : Nat
  z : Nat
  rm : Nat
  deriving DecidableEq, Repr

/-- A chain block with its constants q0 to q3 (R226). -/
structure Chain where
  ops : List ChainOp
  out : Nat
  otype : Nat
  rm : Nat
  consts : List Nat
  deriving DecidableEq, Repr

/-- A search descriptor (R238) with its tables' places. -/
structure Search where
  thr : Bool
  remap : Option Place
  scores : Place
  rstride : Nat
  rows : Nat
  cap : Nat
  bound : Nat
  experts : Nat
  fmt : Nat
  kmax : Nat
  norm : Bool
  res : Bool
  table : Place
  counts : Place
  deriving DecidableEq, Repr

/-- A level of a loop nest, its trip resolved (R246). -/
structure Level where
  role : Nat
  trip : Nat
  sa : Int
  sb : Int
  sc : Int
  deriving DecidableEq, Repr

/-- A loop-nest table with extents resolved (R245). Reset is the empty nest. -/
structure Nest where
  levels : List Level
  abase : Place
  arec : Option Layout
  bbase : Place
  arow : Nat
  brow : Nat
  afmt : Nat
  bfmt : Nat
  rsoff : Place
  cbase : Nat
  bmode : Bool
  mask : Bool
  init : Bool
  rsc : Bool
  adraw : Option Nat
  bdraw : Option Nat
  /-- The table's 1,024 bits with every extent resolved (R266). -/
  raw : Nat
  deriving DecidableEq, Repr

/-- A mask block (R257): rows of (seg, anc, pos), the klen of each segment, tbase. -/
structure MaskBlock where
  rows : List (Nat × Nat × Nat)
  klen : List Nat
  tbase : Nat
  deriving DecidableEq, Repr

/-- A weight plane (R244, R253): form 0 dense, 1 `.s24`, 2 `.s14`; each column's stored elements as (code, scale) and its
metadata. fmt 0 is an empty plane. -/
structure Plane where
  fmt : Nat
  form : Nat
  kext : Nat
  ncol : Nat
  vals : List (List (Nat × Nat))
  mdata : List Nat
  deriving DecidableEq, Repr

/-- The drain control word (R260). -/
structure Drain where
  pitch : Nat
  ofmt : Nat
  rm : Nat
  res : Bool
  scl : Bool
  f64 : Bool
  tile : Nat
  row0 : Nat
  nrows : Nat
  ncols : Nat
  scale : Nat
  deriving DecidableEq, Repr

/-- An engine operation as the CC resolved it at issue (R147). -/
inductive EngOp where
  /-- CIN.g/.l/.p and COUT.g/.l/.p (R201, R202). -/
  | flat (dst src : Place) (len sq : Nat) (res : Bool)
  /-- CIN.mc (R203). -/
  | mcast (mask : Nat) (src : Place) (aux len sq : Nat) (res : Bool)
  /-- COUT.sel (R204). -/
  | csel (dst : Option Place) (src : Place) (len sq : Nat) (aux : Place) (res : Bool)
  /-- CPX (R206). -/
  | cpx (dst src : Layout) (sq : Nat) (res : Bool)
  /-- CGATH (R207). -/
  | cgath (dst : Layout) (table : Place) (stride : Nat) (idx : Place) (sq : Nat) (res : Bool)
  /-- CSCAT (R207). -/
  | cscat (src : Layout) (table : Place) (stride : Nat) (idx : Place) (sq : Nat) (res : Bool)
  /-- PGIN (R208). -/
  | pgin (va frame : Nat)
  /-- PGOUT (R209). -/
  | pgout (va frame : Nat)
  /-- WRSIG and WRSIG.add (R210, R211). -/
  | wrsig (dst src : Place) (len flag value sq : Nat) (add : Bool)
  /-- LKOP (R212, R213): scal holds the scalar when bscal = 1. -/
  | lkop (fn : Nat) (dst : Place) (src : Place) (scal : Option Nat) (n : Nat) (w64 sg flt res : Bool)
  /-- VCHAIN (R225). -/
  | vchain (d : Region) (a b c : Option Region) (ch : Chain)
  /-- VRED (R231). -/
  | vred (fn : Nat) (src : Region) (dst : Option Place) (ctl : VCtl)
  /-- VSCAN (R232). -/
  | vscan (fn : Nat) (d src : Region) (ctl : VCtl)
  /-- VGATH (R233). -/
  | vgath (d table : Region) (idx : Place) (ctl : VCtl)
  /-- VSCAT (R233). -/
  | vscat (fn : Nat) (table src : Region) (idx : Place) (ctl : VCtl)
  /-- VDOT (R234). -/
  | vdot (fn : Nat) (d a b : Region) (c : Option Region) (sb : Nat) (ctl : VCtl)
  /-- BSET (R236). -/
  | bset (breg val : Nat)
  /-- VPERM (R237). -/
  | vperm (d src : Region) (ctl : VCtl)
  /-- VSEARCH (R238). -/
  | vsearch (d : Search)
  /-- VFIND (R241). -/
  | vfind (pat : List Nat) (text : Region) (st : Nat)
  /-- VCOUNT (R242). -/
  | vcount (dst : Place) (m : Nat) (idx : Region) (res : Bool)
  /-- MLT (R250). -/
  | mlt (t : Nest)
  /-- MGO (R251). -/
  | mgo (mask : Nat)
  /-- MLDW (R253). -/
  | mldw (form : Nat) (vals : Place) (mda : Place) (pitch fmt kext ncol : Nat)
  /-- MSWAP (R255). -/
  | mswap
  /-- MMASK (R259). -/
  | mmask (at_ : Place)
  /-- MZERO (R262). -/
  | mzero (m : Nat)
  /-- MDRAIN.p, .port and .sel (R261). -/
  | mdrain (form : Nat) (dst : Option Place) (port : Nat) (d : Drain) (record : Place)
  /-- MSTAT (R263). -/
  | mstat
  deriving DecidableEq, Repr

/-- Where an entry stands (R214, R266, R383): next sector and row, bytes written so far, the running state of a select pass
(m, s, candidates, elements passed), a result that completion will push, and for an MGO its table, mask, index and count. -/
structure Prog where
  sect : Nat
  row : Nat
  bytes : Nat
  selM : Nat
  selS : Nat
  selC : List (Nat × Nat)
  count : Nat
  acc : List Nat
  result : Option Nat
  nest : Option Nest
  mask : Option MaskBlock
  red : Nat
  retired : Nat
  /-- Granules read by consuming reads of the row or sector in progress, with their data (R50); from 2^52 on, units of remote
  memory by address (R319). -/
  taken : List (Nat × List Byte)
  /-- Those of them that it cleared (R50, R425). -/
  cleared : List Nat
  deriving DecidableEq, Repr

/-- What an engine entry waits for (R426). -/
inductive EngWait where
  | none
  /-- Tokens of its TAKE field. -/
  | tokens (f : Nat)
  /-- An empty granule, named as the reader named it. -/
  | granule (a : Nat)
  /-- Room at completion: kind 0 FIFO f, kind 1 the result queue. -/
  | room (kind : Nat) (f : Nat)
  /-- A multicast stream's members (kind 2). -/
  | stream (mask : Nat)
  /-- A far page (R62). -/
  | far (va : Nat)
  /-- A page walk (R61) or back-pressure, which no bound limits. -/
  | other
  deriving DecidableEq, Repr

/-- A `.draw` operand: the tile's handle, and the bytes of its space that the operand covers, none where a ragged record
leaves them to the engine (R94, R430). -/
structure Draw where
  h : Nat
  lo : Nat
  len : Nat
  deriving DecidableEq, Repr

/-- A queue entry (R147). -/
structure Entry where
  q : Nat
  word : Word
  pc : Nat
  seq : Nat
  sx : Nat
  job : Nat
  take : Nat
  give : Nat
  ga : Nat
  gb : Nat
  gc : Nat
  op : EngOp
  draws : List Draw
  /-- The draws stand recorded at their pool units (R99). -/
  drawn : Bool
  payload : List Byte
  begun : Bool
  ended : Bool
  prog : Prog
  wait : EngWait
  waited : Nat
  /-- Bound of the wait in progress (R424). -/
  limit : Nat
  fault : Option Cause
  /-- Number of the next result when it was pushed: the remote accesses of its strand numbered below it precede it (R127). -/
  after : Nat
  /-- Its view holds the writes of completed entries of the core that left before this one (R124). -/
  acq : Nat
  /-- CYCLE at which it began. -/
  began : Nat
  deriving DecidableEq, Repr

/-- Where a strand stands (R20). -/
inductive Status where
  | free | idle | ready | running | waiting | parked
  deriving DecidableEq, Repr

/-- An armed hardware loop: the first word of the body and the first after it (R183). -/
structure HwLoop where
  start : Nat
  stop : Nat
  deriving DecidableEq, Repr

/-- An exposed write not yet visible (R144). -/
structure PendWrite where
  due : Nat
  reg : Nat
  val : Dword
  deriving DecidableEq, Repr

/-- The destination of a scoreboarded result: g register, p register, or none. -/
inductive Dest where
  | none
  | g (n : Nat)
  | p (n : Nat)
  deriving DecidableEq, Repr

/-- A scoreboarded result that has not returned (R44, R144); val is present once its unit has answered. access marks the
loads, stores and atomics that R169 counts, load the loads TDRAW waits for (R275). -/
structure Sb where
  id : Nat
  dest : Dest
  access : Bool
  load : Bool
  val : Option Dword
  deriving DecidableEq, Repr

/-- What a strand waits for (R426); the unbounded ones are far pages and the stalls that no bound limits. -/
inductive WaitKind where
  | take (f : Nat)
  | granule (a : Nat)
  | talloc (word : Nat)
  | enq
  | mbpost
  | swait (i : Nat)
  | park (n : Nat)
  /-- CC stall of kind 0, 1 or 3 to 5 (R426). -/
  | stall (k : Nat)
  /-- CC stall of kind 2: WAITC of an address (R426). -/
  | watch (va : Nat)
  | far (va : Nat)
  | other
  deriving DecidableEq, Repr

/-- A wait in progress: its kind, the cycles it has lasted, its bound (R424) and a kind's argument (the value WAITC read
last; the FIFO of a GIVE). -/
structure Wait where
  kind : WaitKind
  elapsed : Nat
  bound : Nat
  arg : Nat
  deriving DecidableEq, Repr

/-- An event record (R64, R311). -/
structure Event where
  etype : Nat
  va : Nat
  seq : Nat
  src : Nat
  psz : Nat
  wr : Bool
  deriving DecidableEq, Repr

/-- The event slot (R313). -/
structure EvSlot where
  pc : Nat
  g : List Dword
  lc : Nat
  loop : Option HwLoop
  deriving DecidableEq, Repr

/-- A trap that waits for its strand: its cause, the entry it names if any (queue, sequence number, word, address), and its
class in the order of R388 (0 hardware, 1 engine, 2 expiry or asynchronous). -/
structure PendTrap where
  cause : Cause
  eng : Bool
  q : Nat
  seq : Nat
  word : Nat
  pc : Nat
  cls : Nat
  deriving DecidableEq, Repr

/-- A live trap frame (R382, R383): what trap entry wrote, and what ERET restores. -/
structure Frame where
  va : Nat
  image : List Byte
  drops : List Nat
  g : List Dword
  p : List Bool
  lc : Nat
  loop : Option HwLoop
  entries : List Entry
  tcause : Nat
  tpc : Nat
  targ : List Dword
  tcut : List Nat
  deriving DecidableEq, Repr

/-- The task a strand runs (R22 to R26, R105). -/
structure Task where
  job : Nat
  depth : Nat
  id : Nat
  parent : Option Nat
  card : Bool
  restart : Bool
  /-- Deferred draws: handle and count (R105). -/
  deferred : List (Nat × Nat)
  /-- The run's head handle, subscriber index and version tile handle (R110). -/
  run : Option (Nat × Nat × Nat)
  /-- Tiles this run allocated (R432, class 0x5C). -/
  tiles : List Nat
  /-- Entry, argument record and shape registers it started with (R448). -/
  entry : Nat
  arg : Nat
  shapes : Tab Nat
  /-- CARD grants received, and those a re-execution has still to return (R448): first index and size. -/
  grants : List (Nat × Nat)
  regrants : List (Nat × Nat)
  /-- Times the task has been re-executed (R448). -/
  attempts : Nat
  deriving DecidableEq, Repr

/-- A deque entry (R25). -/
structure DqEntry where
  entry : Nat
  arg : Nat
  depth : Nat
  job : Nat
  parent : Option Nat
  shapes : Tab Nat
  /-- Reserved slot number, or none for a general slot. -/
  slot : Option Nat
  run : Option (Nat × Nat)
  /-- When it was pushed, as a count of pushes. -/
  stamp : Nat
  deriving DecidableEq, Repr

/-- One strand context (R20, R145, R146). -/
structure Strand where
  status : Status
  pc : BitVec 52
  g : Tab Dword
  p : Tab Bool
  k : Tab Nat
  e : Tab Nat
  y : List Dword
  lc : Nat
  loop : Option HwLoop
  slot : Nat
  bubble : Nat
  pend : List PendWrite
  sb : List Sb
  tvec : Nat
  evec : Nat
  tcause : Nat
  tpc : Nat
  targ : Tab Dword
  tcut : Tab Nat
  wlim : Nat
  segbud : Int
  tl : Nat
  frames : List Frame
  push : Tab Nat
  done : Tab Nat
  depth : Tab Nat
  resq : List Dword
  resPushed : Nat
  resPopped : Nat
  gave : Tab Nat
  took : Tab Nat
  evq : List Event
  evslot : Option EvSlot
  /-- Its segment has ended: an event that is pending, or is posted in that cycle, is delivered at that end (R313, R314). -/
  evDue : Bool
  /-- It was parked when an event was posted: the event is delivered at its next turn (R313). -/
  evTurn : Bool
  /-- Its events have waited for TL 0: they wait for the next segment end (R384). -/
  evHeld : Bool
  /-- CYCLE from which every earlier load of local pond has returned (R144, R275). -/
  ldReady : Nat
  task : Option Task
  wait : Option Wait
  /-- What has been answered to an instruction that has not issued: 2 × pc for the handle a TALLOC is held (R272), 2 × pc + 1 for
  the value a remote read of WAITC returned, 2 × (2^53 + va) + 1 for a word fetched from another device (R138, R319). -/
  grant : List (Nat × Dword)
  /-- Barrier arrivals that stand (R32), each 8 × pc + level. -/
  arrived : List Nat
  phases : Tab Nat
  holder : Option Nat
  share : Nat
  cls : Nat
  cost : Nat
  energy : Nat
  pendTrap : Option PendTrap
  asyncs : List PendTrap
  stopping : Bool
  /-- A run that is to stop has reached its point and ends once its engines have reached theirs (R112). -/
  atStop : Bool
  overran : Bool
  costly : Bool
  /-- The notify word on which the strand is or last was parked. -/
  parkedOn : Option Nat
  /-- Entries an ERET still has to push (R385), and the pc it then takes. -/
  repush : List Entry
  retPc : Option Nat
  /-- Entries of a strand whose job is being stopped that have reached their points: they stand in no queue (R305, R306). -/
  aside : List Entry
  /-- Its view holds the writes of completed entries of the core that left before this number (R48, R124). -/
  acq : Nat
  /-- CYCLE of its last trap: it takes one in a cycle (R388). -/
  trapAt : Option Nat
  /-- The address of its access or fetch whose page walk has failed: it traps when it tries again (R417). -/
  walked : Option Nat
  deriving DecidableEq, Repr

/-- A live tile-table entry (R91, R95, R96). kind: 1 drawn tile, 2 version tile, 3 version head. -/
structure Tile where
  space : Nat
  pool : Nat
  gen : Nat
  gran : Nat
  need : Nat
  count : Nat
  tag : Nat
  pend : Nat
  part : Nat
  kind : Nat
  job : Nat
  /-- Runs in progress on a version tile (R114), and whether it was superseded. -/
  runs : Nat
  superseded : Bool
  /-- Allocated by a run that was stopped (R432). -/
  orphan : Bool
  deriving DecidableEq, Repr

/-- A subscriber of a head (R106, R111). -/
structure Sub where
  arg : Nat
  entry : Nat
  runs : Nat
  runv : Nat
  core : Nat
  state : Nat
  policy : Nat
  /-- It holds an undispensed draw of the current version tile (R111). -/
  holds : Bool
  /-- Its run stands in a deque. -/
  queued : Bool
  unfinished : Bool
  waited : Nat
  /-- Times its run has been re-executed (R448). -/
  tries : Nat
  /-- The core of the binding strand and the binding task, for events and cause 0x57. -/
  bCore : Nat
  bTask : Nat
  bLim : Nat
  deriving DecidableEq, Repr

/-- A version head's record (R106). -/
structure Head where
  cur : Nat
  smask : Nat
  ver : Nat
  final : Bool
  sref : Bool
  subs : List Sub
  job : Nat
  scope : Nat
  deriving DecidableEq, Repr

/-- A pool's descriptor and ring (R90, R92). spans are returned or skipped granule runs not yet passed by the tail. -/
structure Pool where
  valid : Bool
  base : Nat
  size : Nat
  trapMode : Bool
  nparts : Nat
  quota : List Nat
  h : Nat
  t : Nat
  u : Nat
  used : List Nat
  gen : Nat
  spans : List (Nat × Nat)
  deriving DecidableEq, Repr

/-- A TALLOC request waiting at a pool unit (R97): key of the pool, requester, operands. -/
structure Alloc where
  pool : Nat
  core : Nat
  sx : Nat
  word : Nat
  need : Nat
  head : Option Nat
  job : Nat
  /-- Address of the TALLOC that waits. -/
  pc : Nat
  deriving DecidableEq, Repr

/-- An operation that has reached a pool unit and waits for its cycle (R101). -/
inductive PoolOp where
  | tadd (h n : Nat)
  | draw (h : Nat)
  | stopref (h : Nat)
  deriving DecidableEq, Repr

/-- A queued pool operation with its requester (R101), and the instruction that an asynchronous refusal names. -/
structure PoolReq where
  op : PoolOp
  core : Nat
  sx : Nat
  job : Nat
  word : Nat
  pc : Nat
  deriving DecidableEq, Repr

/-- A pool unit: a core's (0 to 1,727) or a die's (1,728 + die). Pools are keyed 64 × context + index. -/
structure PoolUnit where
  pools : Tab Pool
  tiles : List Tile
  /-- Keyed by 2^64 × context + handle. -/
  heads : Tab Head
  waits : List Alloc
  inbox : List PoolReq
  deriving DecidableEq, Repr

/-- A page copy of a page path (R65, R208). -/
structure PageCopy where
  ctx : Nat
  va : Nat
  psz : Nat
  /-- Physical address of the page's leaf entry. -/
  pte : Nat
  frame : Nat
  auto : Bool
  sx : Nat
  /-- Sequence number of the PGIN that started it; 0 for an autopage copy. -/
  seq : Nat
  /-- The page was already being brought in, by this or another core. -/
  merged : Bool
  running : Bool
  deriving DecidableEq, Repr

/-- A TLB entry (R60): context, page size code, page number, the leaf and its physical address. -/
structure Tlb where
  ctx : Nat
  psz : Nat
  page : Nat
  leaf : Nat
  pa : Nat
  deriving DecidableEq, Repr

/-- A steal request in progress (R27): the strand, the attempts of the round so far, whether the round has failed, the cycle
in which the attempt, the start or the next round is due, and an entry taken from a victim. -/
structure Steal where
  sx : Nat
  tried : Nat
  retry : Bool
  due : Nat
  got : Option DqEntry
  deriving DecidableEq, Repr

/-- What comes from outside beside the steps of the opcode table (log 4). -/
inductive Input where
  /-- A host read of eight bytes of BAR0 by the PF (fn 0) or VF fn (R340, R345). -/
  | hostRead (fn off : Nat)
  /-- An access of a hart to a physical address (R351): kind 0 load, 1 store, 2 fetch, 3 AMO of a function (log 34). -/
  | toolAccess (hart kind addr size v fn : Nat)
  /-- An uncorrectable error in a queue or FIFO (0xC4) or a TLB or walker (0xC5) of a core, with the context it names (R398). -/
  | unitError (code core : Nat) (x : Option Nat) (unit syn : Nat)
  /-- The sensors' thermal headroom of a die (R146, R304). -/
  | headroom (die v : Nat)
  /-- The rank from which the next abort message comes (R398, R458). -/
  | abortFrom (rank : Nat)
  /-- The next write of a save, a frame or a trap frame of a core fails (0x9A of R444). -/
  | frameFault (core : Nat)
  /-- An entry of a core's TLB, or of its die's second level, shows a parity error and can be fetched again (R421). -/
  | parity (core i : Nat) (second : Bool)
  /-- The sensors' temperature of a die, in 0.125 °C (R359). -/
  | temperature (die v : Nat)
  /-- A hart's own execution writes its mode (0), pc (1), x register (2), f register (3) or CSR (4) number n (R350). -/
  | hartWrite (hart what n v : Nat)
  deriving DecidableEq, Repr

/-- A saved strand (R309): the strand, its context, its tokens per FIFO and its entries. -/
structure SavedStrand where
  sx : Nat
  strand : Strand
  tokens : Tab Nat
  entries : List Entry
  deriving DecidableEq, Repr

/-- The matrix engine's own state (R244) and the other core state of R145. -/
structure CoreRegs where
  shadow : Nest
  active : Nest
  shadowMask : MaskBlock
  activeMask : MaskBlock
  planes : List Plane
  ap : Nat
  modes : List Nat
  retired : Nat
  b : Tab Nat
  pf : Tab Nat
  /-- The table of the last MLT pushed (R251). -/
  lastMlt : Option Nest
  deriving DecidableEq, Repr

/-- A saved core (R309). -/
structure SavedCore where
  job : Nat
  ctx : Nat
  strands : List SavedStrand
  deque : List DqEntry
  /-- Core-state part with the accumulators' bytes, when it was filled and is still to be written back. -/
  regs : Option (CoreRegs × List Byte)
  /-- The banks of the pond partition that stand in the save area with their full-empty bits (R309, R343). -/
  banks : List Nat
  deriving DecidableEq, Repr

/-- A task evicted in JOIN or by an inline FORK (R25, R26). -/
structure JoinFrame where
  job : Nat
  ctx : Nat
  strand : Strand
  inline : Option Nat
  /-- Its number among the 64 join frames of the save area (R343). -/
  slot : Nat
  deriving DecidableEq, Repr

/-- One core (R8, R20, R147, R149). -/
structure Core where
  strands : Tab Strand
  turn : Option Nat
  lastTurn : Nat
  queues : Tab (List Entry)
  fifos : Tab (List Nat)
  deque : List DqEntry
  dqStamp : Nat
  dqPushes : Nat
  dqPops : Nat
  /-- Pushes and pops of the deque when each job that holds the core was issued (R426). -/
  dqBase : Tab (Nat × Nat)
  /-- The deque has served its operation of this cycle (R27). -/
  dqBusy : Bool
  lastSteal : Nat
  steals : List Steal
  regs : CoreRegs
  streamMask : Nat
  joins : List JoinFrame
  saved : List SavedCore
  tlb : List Tlb
  pages : List PageCopy
  bankSets : Tab Nat
  bankTakes : Tab Nat
  fenced : Bool
  /-- A period has started and the shares of its contexts are still to be set (R302). -/
  periodDue : Bool
  /-- The next write of a save, a frame or a trap frame of the core fails (R444, log 89). -/
  frameBad : Bool
  deriving DecidableEq, Repr

end Sys2Proof.Machine
end

