-- ==== Sys2Proof/Machine/State.lean ====
section
/-! DEFINITION. The state of the part (INVENTORY.md, heading State, names the rule and the reset value of every field), the
named ways a step can stop, and the state after reset. -/

namespace Sys2Proof.Machine

/-- The bytes of HBM, the far tier, the lake, the ponds and the accumulators, at the location numbers of Ops (log 2):
cells lists, in rising order, the bytes that differ from what an unlisted address reads as; frees lists regions (first,
length, contents), the first that holds a location deciding: contents none reads 0, contents (stamp, start) is a region the
spec leaves undefined after a failed page-in (R419, log 8). -/
structure Memory where
  cells : List Host.Cell
  frees : List (Nat × Nat × Option (Nat × Nat))
  deriving DecidableEq, Repr

/-- A job as the front holds it (R28 to R30, R300, R433). phase: 0 waiting for issue, 1 issued, 2 being stopped, 3 suspended,
4 ended. -/
structure Job where
  ctx : Nat
  card : Nat
  id : Nat
  entry : Nat
  records : Nat
  count : Nat
  rsize : Nat
  strands : Nat
  cls : Nat
  restart : Bool
  autopage : Bool
  share : Nat
  clusters : Nat
  core0 : Nat
  ncore : Nat
  kmax : Nat
  nsets : Nat
  record : Nat
  dealt : Nat
  live : Nat
  pending : Tab Nat
  phase : Nat
  endCode : Nat
  recl : Nat
  cnt : Nat
  /-- Graph slot and node, or none for a single launch. -/
  node : Option (Nat × Nat)
  order : Nat
  /-- A host stop (JEND, CRST) is pending, with the code of the ended tasks (R446). -/
  killed : Bool
  /-- Cores on which its save is complete. -/
  savedOn : List Nat
  /-- The class-0 job that stopped it. -/
  stopper : Option Nat
  attempts : Nat
  /-- CYCLE at which its stop was sent, and the cores whose lateness is recorded (R443). -/
  stopAt : Nat
  late : List Nat
  /-- Cores on which its save is in progress (R309). -/
  saving : List Nat
  /-- Its wait for another context's pond partition is recorded (R442). -/
  noted : Bool
  /-- Its capture entry (R451), and the entry it re-runs (R452). -/
  cap : Option Nat
  replay : Option Nat
  /-- CYCLE in which it became ready (R300). -/
  readyAt : Nat
  deriving DecidableEq, Repr

/-- A CARD request at the front (R29). -/
structure CardReq where
  core : Nat
  sx : Nat
  job : Nat
  sbId : Nat
  deriving DecidableEq, Repr

/-- A replay of a graph slot (R296, R298): its snapshot, whether it has begun, the nodes started, those completed, failed or
skipped, and of these the ones that failed or were skipped (R442). -/
structure Replay where
  snap : Tab Nat
  begun : Bool
  started : List Nat
  ended : List Nat
  failed : List Nat
  /-- The nodes that the scoreboard holds, none where one could not be read. -/
  nodes : List (Option Nat)
  deriving DecidableEq, Repr

/-- A graph slot (R294 to R296). params is keyed 256 × bank + word; nref is the count of refused STARTs (R441). -/
structure Slot where
  gbase : Nat
  gpatch : Nat
  gctl : Nat
  params : Tab Nat
  done : Nat
  opened : Nat
  replays : List Replay
  gerr : Nat
  /-- The parameter writes that landed in the open bank in the CYCLE written first: word, its value before, its value (R296). -/
  fresh : Nat × List (Nat × Nat × Nat)
  deriving DecidableEq, Repr

/-- A stream node at the stream controller (R299): slot, node, operands, whether it has started. -/
structure Stream where
  slot : Nat
  node : Nat
  ctx : Nat
  src : Nat
  dst : Nat
  len : Nat
  active : Bool
  deriving DecidableEq, Repr

/-- A notify word (R193, R354). -/
structure Notify where
  val : Nat
  pending : Bool
  /-- The strand parked on it, as 4 × core + context. -/
  parked : Option Nat
  /-- The task whose strand last parked on it (R311). -/
  last : Option Nat
  /-- CYCLE and party of the last store: a hart, or 32 for the host, which comes last in a cycle (R354). -/
  cycle : Nat
  party : Nat
  deriving DecidableEq, Repr

/-- An installed context's registers (R342, R344). -/
structure Ctx where
  lkey : Nat
  ptroot : Nat
  tvecd : Nat
  evecd : Nat
  wlimd : Nat
  savebase : Nat
  pgring : Nat
  pgsize : Nat
  pghead : Nat
  pgtail : Nat
  chbase : Nat
  ppart : Nat
  pdtab : Nat
  shootPsz : Nat
  shootVa : Nat
  busy : Bool
  vwin : Nat
  nwrFirst : Nat
  nwrCount : Nat
  ended : Nat
  launched : Nat
  enabled : Bool
  capreg : Nat
  /-- A CRST waits for the end of the context's jobs (R447). -/
  resetting : Bool
  deriving DecidableEq, Repr

/-- A mailbox entry (R288). -/
structure Mail where
  wa : Nat
  wb : Nat
  seq : Nat
  core : Nat
  sx : Nat
  job : Nat
  deriving DecidableEq, Repr

/-- A chunk of a buffer (R327): tagged address of its first element, format, elements. -/
structure Chunk where
  ad : Nat
  fmt : Nat
  n : Nat
  deriving DecidableEq, Repr

/-- A step of a launch that has issued and is not yet done with (R331, R333): the index of its word, its op, its peers and
chunks, and what it still waits for: the data of its receive, the ready, the local completion and the acknowledgment of its
send, the messages of a CBAR by its number. -/
structure StepRun where
  step : Nat
  op : Nat
  rop : Nat
  recvPeer : Option Nat
  sendPeer : Option Nat
  src : Option Chunk
  dst : Option Chunk
  needData : Bool
  needReady : Bool
  needSend : Bool
  needAck : Bool
  needBar : Nat
  /-- Cycles its receive, send or barrier has waited (R457). -/
  waited : Nat
  /-- Flits of its send that have entered a replay store (R316). -/
  sent : Nat
  deriving DecidableEq, Repr

/-- A collective launch at a sequencer (R291, R323, R331 to R334). -/
structure Launch where
  num : Nat
  prog : Nat
  /-- The launch block's 512 bits (R324). -/
  block : Nat
  /-- Index of the next step word. -/
  pc : Nat
  /-- L0 to L3. -/
  loops : List Nat
  /-- Open loop bodies, innermost first: (counter, count, first word, last word). -/
  stack : List (Nat × Nat × Nat × Nat)
  runs : List StepRun
  /-- Peers whose ready has arrived and no send has used. -/
  readies : List Nat
  /-- CBAR messages received, by peer. -/
  bars : Tab Nat
  barNo : Nat
  core : Nat
  sx : Nat
  task : Nat
  job : Nat
  ctx : Nat
  limit : Nat
  /-- Word and address of the COLL. -/
  word : Nat
  wordPc : Nat
  deriving DecidableEq, Repr

/-- One cluster (R8, R11, R288, R323). -/
structure Cluster where
  master : Option Nat
  mail : List Mail
  mseq : Nat
  posts : Nat
  takes : Nat
  launches : List Launch
  counter : Nat
  /-- The strands whose MBPOST waits, in order of arrival, each 4 × core + context (R289). -/
  posters : List Nat
  deriving DecidableEq, Repr

/-- A walk or a waiting miss (R61). -/
structure Walk where
  ctx : Nat
  va : Nat
  write : Bool
  /-- What waits, 8 × core + queue for an entry or 8 × core + 4 + context for a strand, each with the first address it wants. -/
  who : List (Nat × Nat)
  /-- CYCLE of the miss. -/
  since : Nat
  deriving DecidableEq, Repr

/-- One compute die (R60, R61, R303, R436, R463). -/
structure Die where
  slk : Nat
  hthr : Nat
  ecap : Nat
  thead : Nat
  hold : Bool
  holdLen : Nat
  tlb : List Tlb
  walks : List Walk
  ecnt : Nat
  pstate : Nat
  /-- Cycles for which the condition of L1 and L2 has held (R358). -/
  idle : Nat
  /-- What its sensors gave last, in 0.125 °C (R359, log 102). -/
  temp : Nat
  deriving DecidableEq, Repr

/-- A flit in a replay store (R315, R316): its number on the span, the source cluster, the entry of the route table that it
follows, its bytes of payload, 240 at most, and CYCLE when it was sent last. -/
structure Flit where
  seq : Nat
  cl : Nat
  route : Nat
  len : Nat
  sent : Nat
  /-- How often it has been resent without an acknowledgment (R455). -/
  resends : Nat
  deriving DecidableEq, Repr

/-- A packet of one flit that waits for room in a replay store (R316): its cluster, its route and its payload's bytes. -/
structure Parcel where
  cl : Nat
  route : Nat
  len : Nat
  deriving DecidableEq, Repr

/-- How a host read or a VF's access completes (R460): with its data, with the poisoned-TLP bit set, or with Completer Abort. -/
inductive HostEnd where
  | done
  | poisonedTlp
  | completerAbort
  deriving DecidableEq, Repr

/-- A Kalwick span (R316, R454, R455). -/
structure Span where
  up : Bool
  full : Bool
  next : Nat
  expect : Nat
  replay : List Flit
  retries : Nat
  /-- CYCLE at which the count of retries began (R454). -/
  since : Nat
  /-- Retries since reset, for the monitors (R359). -/
  total : Nat
  deriving DecidableEq, Repr

/-- A remote access that has no response yet (R321, R456): kind 0 load, 1 store, 2 to 13 the atomics of R171, 14 a read of WAITC,
15 a fetch. -/
structure Remote where
  id : Nat
  core : Nat
  sx : Nat
  ctx : Nat
  va : Nat
  rank : Nat
  kind : Nat
  size : Nat
  v : Nat
  c : Nat
  /-- The scoreboarded result that waits for it, or the number of the entry that made it. -/
  sbId : Nat
  /-- If an entry made it, its queue, plus 4 for a write, which the entry does not wait for (R321). -/
  queue : Option Nat
  /-- CYCLE when it left (R456). -/
  sent : Nat
  /-- Word and address of the instruction that made it (R428). -/
  word : Nat
  pc : Nat
  deriving DecidableEq, Repr

/-- A monitor (R359, R465). -/
structure Monitor where
  sel : Nat
  ctl : Nat
  min : Nat
  max : Nat
  cnt : Nat
  sum : Nat
  sat : Bool
  bins : List Nat
  /-- Retries of its span at its last sample (R359). -/
  last : Nat
  deriving DecidableEq, Repr

/-- An access of a hart that reaches HBM (R358): its kind, its window address, its bytes, its operand and an AMO's function. -/
structure HartAccess where
  kind : Nat
  addr : Nat
  n : Nat
  v : Nat
  fn : Nat
  deriving DecidableEq, Repr

/-- A tool hart (R350): the registers that the NPU part reaches (R351 to R355, R420), its pending interrupts, the value that its
last load returned, and the state of its RISC-V profile. -/
structure Hart where
  run : Bool
  entry : Nat
  db : Nat
  dbtgt : Nat
  mtimecmp : Nat
  fault : Nat
  faultAddr : Nat
  timer : Bool
  /-- The external interrupt of machine level is pending (R355). -/
  mext : Bool
  /-- That of supervisor level. -/
  sext : Bool
  data : Nat
  /-- Its accesses to HBM that the package's wake holds, oldest first (R358). -/
  held : List HartAccess
  /-- Privilege: 3 machine, 1 supervisor, 0 user (R350). -/
  mode : Nat
  pc : Nat
  x : Tab Nat
  f : Tab Nat
  /-- Control and status registers by number: satp, the PMP entries and the counters of Zihpm among them (R350). -/
  csr : Tab Nat
  deriving DecidableEq, Repr

/-- The device block and the error and capture logs (R341, R436 to R438, R451). -/
structure Device where
  stage : Nat
  plim : Nat
  ltol : Nat
  rank : Nat
  pkg : Nat
  /-- Cycles for which the condition of L3 has held (R358). -/
  quiet : Nat
  tzLock : Bool
  tzBase : Nat
  tzSize : Nat
  ttper : Nat
  elbase : Nat
  elsize : Nat
  elhead : Nat
  eltail : Nat
  eldrop : Nat
  elien : Nat
  ecthr : Nat
  capbase : Nat
  capnent : Nat
  caphead : Nat
  capen : Bool
  capctx : Nat
  capjob : Nat
  /-- Context and card address of each captured job, by entry, for its re-run (R452). -/
  capOf : Tab (Nat × Nat)
  intr : Nat
  deriving DecidableEq, Repr

/-- The security processor's state (R361, R362, R450). -/
structure Security where
  digest : List Byte
  floor : List Nat
  versions : List Nat
  measures : List (List Byte)
  serial : Nat
  mailbox : Tab Nat
  /-- The boot image window, by words of eight bytes (R340). -/
  boot : Tab Nat
  /-- A security processor fault has stopped the mailbox (R450). -/
  failed : Bool
  deriving DecidableEq, Repr

/-- The state of the machine. -/
structure State where
  /-- What comes from outside beside the table's steps, first in the next cycle (log 4). -/
  inputs : List Input
  /-- Operations and events that move next, in order (log 4). -/
  agenda : List Instr
  /-- Host writes that wait for the acknowledgment of an earlier one (R345). -/
  hostQueue : List Instr
  /-- The core whose CC moves next (log 4). -/
  focus : Nat
  /-- Cores whose slot of this cycle is still to come after it (log 4). -/
  todo : List Nat
  /-- Where the cycle stands: 0 opening, 1 slots, 2 closing (log 4). -/
  phase : Nat
  /-- Stamp of the next free value (log 8). -/
  freeCount : Nat
  cycle : Nat
  mem : Memory
  fe : List Nat
  poison : List Nat
  cores : Tab Core
  clusters : Tab Cluster
  dies : Tab Die
  units : Tab PoolUnit
  ctxs : Tab Ctx
  slots : Tab Slot
  jobs : Tab Job
  jobNext : Nat
  issueNext : Nat
  taskNext : Nat
  sbNext : Nat
  joinCnt : Tab Nat
  cards : List CardReq
  /-- Tasks that wait to be re-executed, each with the core that failed (R448). -/
  reruns : List (Task × Nat)
  streams : List Stream
  nw : Tab Notify
  walls : Tab Nat
  harts : Tab Hart
  mtime : Nat
  monitors : Tab Monitor
  /-- Samples that monitors have still to take, in order (R360). -/
  samples : List (Nat × Nat)
  dev : Device
  sec : Security
  routes : Tab Nat
  /-- Route-table writes that wait for their pair's packets (R453). -/
  routesDue : List (Nat × Nat)
  spans : Tab Span
  remotes : List Remote
  /-- Flits accepted from spans whose requests have not been performed (R316). -/
  inbound : Nat
  /-- Packets that wait for room in a replay store, oldest first (R316). -/
  outbox : List Parcel
  ports : List Bool
  /-- Bytes that the decoder of each far-tier port maps (R349). -/
  hdm : List Nat
  hostData : Option Dword
  /-- How the host's last read, or its last access through a VF's window, completed (R460). -/
  hostEnd : HostEnd
  aer : List Nat
  absent : List Nat
  /-- The rank that the next abort message names as its peer (R398, R458). -/
  abortFrom : Nat
  /-- The step asked for last was one that its unit does not take in the state it was asked in (log 64). -/
  missed : Bool
  fatal : Option Nat
  deriving DecidableEq, Repr

/-- Why the machine stops with a fault. -/
inductive Fault where
  /-- A word of the CC is executed while the CC of the focus core has no running strand. No step raises it, because step
  issues for a running strand only; safe. -/
  | noRunningStrand
  deriving DecidableEq, Repr

/-- Why a step has no meaning. -/
inductive Refusal where
  /-- The instruction has no meaning in the model yet; safe. -/
  | notModelled (mnemonic : String)
  deriving DecidableEq, Repr

/-- A queue position not yet begun. -/
def Prog.start : Prog := ⟨0, 0, 0, 0xFF800000, 0, [], 0, [], none, none, none, 0, 0, [], []⟩

/-- A strand context after reset: free, with every register at the value log 1 names. -/
def Strand.reset : Strand where
  status := .free
  pc := 0
  g := []
  p := []
  k := []
  e := []
  y := [0, 0, 0, 0]
  lc := 0
  loop := none
  slot := 0
  bubble := 0
  pend := []
  sb := []
  tvec := 0
  evec := 0
  tcause := 0
  tpc := 0
  targ := []
  tcut := []
  wlim := 0x01000000
  segbud := 0
  tl := 0
  frames := []
  push := []
  done := []
  depth := [(0, 64), (1, 32), (2, 16), (3, 64)]
  resq := []
  resPushed := 0
  resPopped := 0
  gave := []
  took := []
  evq := []
  evslot := none
  evDue := false
  evTurn := false
  evHeld := false
  ldReady := 0
  task := none
  wait := none
  grant := []
  arrived := []
  phases := []
  holder := none
  share := 0
  cls := 0
  cost := 0
  energy := 7
  pendTrap := none
  asyncs := []
  stopping := false
  atStop := false
  overran := false
  costly := false
  parkedOn := none
  repush := []
  retPc := none
  aside := []
  acq := 0
  trapAt := none
  walked := none

/-- The empty nest (R251). -/
def Nest.empty : Nest :=
  ⟨[], ⟨2, 0, 0⟩, none, ⟨2, 0, 0⟩, 0, 0, 0, 0, ⟨2, 0, 0⟩, 0, false, false, false, false, none, none, 0⟩

/-- The mask block of all zeros. -/
def MaskBlock.zero : MaskBlock := ⟨List.replicate 32 (0, 0, 0), List.replicate 16 0, 0⟩

/-- An empty weight plane (R244). -/
def Plane.empty : Plane := ⟨0, 0, 0, 0, [], []⟩

/-- The core state of R145 and R244 after reset. -/
def CoreRegs.reset : CoreRegs where
  shadow := .empty
  active := .empty
  shadowMask := .zero
  activeMask := .zero
  planes := [.empty, .empty]
  ap := 0
  modes := [0, 0, 0, 0]
  retired := 0
  b := []
  pf := []
  lastMlt := none

/-- Core c after reset: context 3 counts as chosen last (R304), the core itself as the thief served last (R27). -/
def Core.reset (c : Nat) : Core where
  strands := []
  turn := none
  lastTurn := 3
  queues := []
  fifos := []
  deque := []
  dqStamp := 0
  dqPushes := 0
  dqPops := 0
  dqBase := []
  dqBusy := false
  lastSteal := c % 48
  steals := []
  regs := .reset
  streamMask := 0
  joins := []
  saved := []
  tlb := []
  pages := []
  bankSets := []
  bankTakes := []
  fenced := false
  periodDue := false
  frameBad := false

/-- A cluster after reset (R288, R291; log 1). -/
def Cluster.reset : Cluster := ⟨none, [], 0, 0, 0, [], 0, []⟩

/-- A die after reset (R303; log 1). -/
def Die.reset : Die := ⟨11250, 0, 7, 0xFFFF, false, 0, [], [], 0, 2, 0, 0⟩

/-- A pool that no descriptor has installed. -/
def Pool.none : Pool := ⟨false, 0, 0, false, 0, [], 0, 0, 0, [0, 0, 0, 0], 0, []⟩

/-- A pool unit after reset. -/
def PoolUnit.reset : PoolUnit := ⟨[], [], [], [], []⟩

/-- A context block after reset (R342). -/
def Ctx.reset : Ctx where
  lkey := 0
  ptroot := 0
  tvecd := 0
  evecd := 0
  wlimd := 0x01000000
  savebase := 0
  pgring := 0
  pgsize := 0
  pghead := 0
  pgtail := 0
  chbase := 0
  ppart := 0
  pdtab := 0
  shootPsz := 0
  shootVa := 0
  busy := false
  vwin := 0
  nwrFirst := 0
  nwrCount := 0
  ended := 0
  launched := 0
  enabled := false
  capreg := 0
  resetting := false

/-- A graph slot after reset (R294). -/
def Slot.reset : Slot := ⟨0, 0, 0, [], 0, 0, [], 0, 0, []⟩

/-- A notify word after reset (log 1). -/
def Notify.reset : Notify := ⟨0, false, none, none, 0, 0⟩

/-- A span before bring-up (log 1). -/
def Span.reset : Span := ⟨false, false, 0, 0, [], 0, 0, 0⟩

/-- A monitor after reset (R359). -/
def Monitor.reset : Monitor := ⟨0, 0, 0xFFFFFFFF, 0, 0, 0, false, List.replicate 32 0, 0⟩

/-- A hart after reset: held (R353; log 1). -/
def Hart.reset : Hart := ⟨false, 0, 0, 0, 0, 0, 0, false, false, false, 0, [], 3, 0, [], [], []⟩

/-- The device block after reset (R341, R436, R451). -/
def Device.reset : Device where
  stage := 0
  plim := 0
  ltol := 0
  rank := 0
  pkg := 4
  quiet := 0
  tzLock := false
  tzBase := 0
  tzSize := 0
  ttper := 112500
  elbase := 0
  elsize := 0
  elhead := 0
  eltail := 0
  eldrop := 0
  elien := 0
  ecthr := 0
  capbase := 0
  capnent := 0
  caphead := 0
  capen := false
  capctx := 0
  capjob := 0
  capOf := []
  intr := 0

/-- The security processor after reset (log 1). -/
def Security.reset : Security := ⟨[], [], [], [], 0, [], [], false⟩

/-- The machine right after reset (R363 before its first step; log 1, log 2, log 3). -/
def State.reset : State where
  inputs := []
  agenda := []
  hostQueue := []
  focus := 0
  todo := []
  phase := 0
  freeCount := 0
  cycle := 0
  mem := ⟨[], []⟩
  fe := []
  poison := []
  cores := []
  clusters := []
  dies := []
  units := []
  ctxs := []
  slots := []
  jobs := []
  jobNext := 0
  issueNext := 0
  taskNext := 0
  sbNext := 0
  joinCnt := []
  cards := []
  reruns := []
  streams := []
  nw := []
  walls := []
  harts := []
  mtime := 0
  monitors := []
  samples := []
  dev := .reset
  sec := .reset
  routes := []
  routesDue := []
  spans := []
  remotes := []
  inbound := 0
  outbox := []
  ports := [false, false]
  hdm := [0, 0]
  hostData := none
  hostEnd := .done
  aer := []
  absent := []
  abortFrom := 0
  missed := false
  fatal := none

end Sys2Proof.Machine
end

