-- ==== Sys2Proof/Machine/Memory.lean ====
section
/-! DEFINITION. Memory: one table of bytes in canonical form, the location numbers of the four tiers and the accumulators
(R42, R43, R54, R57), full-empty bits (R50) and poison (R421, R423). -/

namespace Sys2Proof.Machine

/-- The byte an unlisted location reads as: a free byte in a region whose contents the spec leaves undefined (R419),
else 0 (R363, log 2). -/
def unlistedIn : List (Nat × Nat × Option (Nat × Nat)) → Nat → Byte
  | [], _ => 0
  | (lo, len, c) :: t, a =>
    if lo ≤ a ∧ a < lo + len then (match c with | some (stamp, start) => Config.freeByte stamp (start + (a - lo)) | none => 0)
    else unlistedIn t a

/-- What location a reads as when it is not listed. -/
def Memory.unlisted (m : Memory) (a : Nat) : Byte := unlistedIn m.frees a

/-- The byte listed for a, or d. -/
def cellGet (d : Byte) : List Host.Cell → Nat → Byte
  | [], _ => d
  | (j, v) :: t, a => if j = a then v else if a < j then d else cellGet d t a

/-- Lists byte v at a, keeping the list rising. -/
def cellPut : List Host.Cell → Nat → Byte → List Host.Cell
  | [], a, v => [(a, v)]
  | (j, w) :: t, a, v =>
    if j = a then (a, v) :: t else if a < j then (a, v) :: (j, w) :: t else (j, w) :: cellPut t a v

/-- Takes a off the list. -/
def cellDel : List Host.Cell → Nat → List Host.Cell
  | [], _ => []
  | (j, w) :: t, a => if j = a then t else if a < j then (j, w) :: t else (j, w) :: cellDel t a

/-- Reads one byte. -/
def Memory.read (m : Memory) (a : Nat) : Byte := cellGet (m.unlisted a) m.cells a

/-- Writes one byte. A byte equal to what the unlisted location reads as is not listed. -/
def Memory.write (m : Memory) (a : Nat) (v : Byte) : Memory :=
  { m with cells := if v = m.unlisted a then cellDel m.cells a else cellPut m.cells a v }

/-- Reads n bytes from a upward. -/
def Memory.readN (m : Memory) : Nat → Nat → List Byte
  | _, 0 => []
  | a, n + 1 => m.read a :: m.readN (a + 1) n

/-- Writes bytes from a upward. -/
def Memory.writeN (m : Memory) : Nat → List Byte → Memory
  | _, [] => m
  | a, v :: t => (m.write a v).writeN (a + 1) t

/-- Addresses strictly rising from a bound on. -/
def risingFrom : Nat → List Host.Cell → Bool
  | _, [] => true
  | lo, (a, _) :: t => decide (lo ≤ a) && risingFrom (a + 1) t

/-- The canonical form: addresses strictly rising, no entry equal to what its unlisted location reads as. -/
def Memory.wf (m : Memory) : Bool :=
  risingFrom 0 m.cells && m.cells.all (fun c => decide (c.2 ≠ m.unlisted c.1))

/-- Is the address in the region? -/
def inRegion (lo len a : Nat) : Bool := decide (lo ≤ a) && decide (a < lo + len)

/-- The listed bytes that a list of regions still has to list. -/
def keepCells (frees : List (Nat × Nat × Option (Nat × Nat))) (cells : List Host.Cell) : List Host.Cell :=
  cells.filter (fun c => decide (c.2 ≠ unlistedIn frees c.1))

/-- Drops the listed bytes of a region and makes its contents free under a stamp (R419). -/
def Memory.free (m : Memory) (lo len stamp : Nat) : Memory :=
  let frees := (lo, len, some (stamp, 0)) :: m.frees
  { cells := keepCells frees (m.cells.filter (fun c => !inRegion lo len c.1)), frees := frees }

/-- The parts of the regions that lie in [src, src + len), moved to dst. -/
def moveRegions (src dst len : Nat) (l : List (Nat × Nat × Option (Nat × Nat))) : List (Nat × Nat × Option (Nat × Nat)) :=
  l.filterMap (fun (lo, n, c) =>
    let a := Nat.max lo src
    let b := Nat.min (lo + n) (src + len)
    if a < b then some (dst + (a - src), b - a, c.map (fun (st, o) => (st, o + (a - lo)))) else none)

/-- Copies len bytes from src to dst, two regions that do not overlap, cell by cell (R65, R66). -/
def Memory.copy (m : Memory) (src dst len : Nat) : Memory :=
  let frees := if m.frees.isEmpty then [] else moveRegions src dst len m.frees ++ (dst, len, none) :: m.frees
  let moved := (m.cells.filter (fun c => inRegion src len c.1)).map (fun c => (dst + (c.1 - src), c.2))
  let kept := m.cells.filter (fun c => !inRegion dst len c.1)
  { cells := keepCells frees (moved.foldl (fun l c => cellPut l c.1 c.2) kept), frees := frees }

/-- Location of a byte of the physical address space (R57). -/
def locPhys (pa : Nat) : Nat := pa

/-- Byte c[i] of the lake hash (R54). -/
def lakeC (key i : Nat) : Nat :=
  let b (j : Nat) := bits key (8 * j) 8
  let rotl4 (v : Nat) := v * 16 % 256 + v / 16
  if i < 8 then b i else rotl4 (b (i - 8))

/-- The bank of slice offset l under a key (R54). -/
def lakeBank (key l : Nat) : Nat :=
  let row := bits l 16 10
  let f := (setBits 10 row).foldl (fun acc i => Nat.xor acc (lakeC key i)) 0
  Nat.xor (bits l 8 8) f

/-- Location of a lake byte: slice, bank and byte in the bank (R12, R54). -/
def locLake (key off : Nat) : Nat :=
  let l := bits off 0 26
  2 ^ 44 + bits off 26 3 * 2 ^ 26 + lakeBank key l * 2 ^ 18 + (bits l 16 10 * 256 + bits l 0 8)

/-- Location of a pond byte of a core (R42). -/
def locPond (core off : Nat) : Nat := 2 ^ 45 + core * 2 ^ 20 + off

/-- Location of an accumulator byte of a core (R43). -/
def locAcc (core off : Nat) : Nat := 2 ^ 46 + core * 2 ^ 14 + off

/-- Number of a pond granule (R50). -/
def granule (core off : Nat) : Nat := core * 65536 + off / 16

/-- The unit of check that holds a location (R421): a 16-byte pond granule, an 8-byte lake word or accumulator pair, a
32-byte HBM burst. -/
def checkUnit (loc : Nat) : Nat × Nat :=
  if loc < 2 ^ 44 then (loc / 32 * 32, 32) else if loc < 2 ^ 45 then (loc / 8 * 8, 8)
  else if loc < 2 ^ 46 then (loc / 16 * 16, 16) else (loc / 8 * 8, 8)

/-- The cause of reading a poisoned unit (R423). -/
def poisonCode (loc : Nat) : Nat :=
  if loc < 2 ^ 44 then 0xC2 else if loc < 2 ^ 45 then 0xC1 else if loc < 2 ^ 46 then 0xC0 else 0xC3

/-- The first poisoned unit among n locations from a. -/
def poisoned (s : State) (a n : Nat) : Option Nat :=
  s.poison.find? (fun u => decide (u < a + n) && decide (a < u + (checkUnit u).2))

/-- Clears the poison of the units that a write of n bytes at a covers whole (R423). -/
def clearPoison (s : State) (a n : Nat) : State :=
  { s with poison := s.poison.filter (fun u => !(decide (a ≤ u) && decide (u + (checkUnit u).2 ≤ a + n))) }

/-- Reads n bytes at a location. -/
def loadN (s : State) (a n : Nat) : List Byte := s.mem.readN a n

/-- Writes bytes at a location, with the poison that they cover. -/
def storeN (s : State) (a : Nat) (v : List Byte) : State :=
  let s := if s.poison.isEmpty then s else clearPoison s a v.length
  { s with mem := s.mem.writeN a v }

/-- Reads a number of n bytes at a location, little-endian (R3). -/
def loadNat (s : State) (a n : Nat) : Nat := leNat (loadN s a n)

/-- Writes a number of n bytes at a location. -/
def storeNat (s : State) (a n v : Nat) : State := storeN s a (leBytes n v)

/-- Is a granule full (R50)? -/
def isFull (s : State) (core off : Nat) : Bool := setHas s.fe (granule core off)

/-- Counts one event of a bank of a core (R426). -/
def bumpBank (t : Tab Nat) (off : Nat) : Tab Nat :=
  tabPut t (off / 65536) ((tabGet 0 t (off / 65536) + 1) % 2 ^ 32)

end Sys2Proof.Machine
end

