-- ==== Sys2Proof/Machine/Regs.lean ====
section
/-! DEFINITION. The accessors of the state and the named operations over a strand's registers: source selectors and latches,
exposed and scoreboarded writes (R140 to R145), turns and segments (R20, R21), what an attempt to issue gives. -/

namespace Sys2Proof.Machine

/-- A strand: core (48 × cluster + core) and context. -/
structure At where
  c : Nat
  x : Nat
  deriving DecidableEq, Repr

/-- Core c. -/
def coreAt (s : State) (c : Nat) : Core := tabGet (Core.reset c) s.cores c

/-- Replaces core c. -/
def setCore (s : State) (c : Nat) (k : Core) : State := { s with cores := tabPut s.cores c k }

/-- Changes core c. -/
def onCore (s : State) (c : Nat) (f : Core → Core) : State := setCore s c (f (coreAt s c))

/-- Context x of core c. -/
def strandAt (s : State) (a : At) : Strand := tabGet .reset (coreAt s a.c).strands a.x

/-- Changes a strand. -/
def onStrand (s : State) (a : At) (f : Strand → Strand) : State :=
  onCore s a.c (fun k => { k with strands := tabPut k.strands a.x (f (tabGet .reset k.strands a.x)) })

/-- No job: what a job number that names none reads as. -/
def Job.none : Job :=
  ⟨0, 0, 0, 0, 0, 0, 16, 0, 0, false, false, 0, 0, 0, 0, 0, 0, 0, 0, 0, [], 4, 0, 0, 0, Option.none, 0, false, [], Option.none, 0,
    0, [], [], false, Option.none, Option.none, 0⟩

/-- Job j. -/
def jobAt (s : State) (j : Nat) : Job := tabGet .none s.jobs j

/-- Changes job j. -/
def onJob (s : State) (j : Nat) (f : Job → Job) : State := { s with jobs := tabPut s.jobs j (f (jobAt s j)) }

/-- Context n's installation registers. -/
def ctxAt (s : State) (n : Nat) : Ctx := tabGet .reset s.ctxs n

/-- Changes a context block. -/
def onCtx (s : State) (n : Nat) (f : Ctx → Ctx) : State := { s with ctxs := tabPut s.ctxs n (f (ctxAt s n)) }

/-- Die d. -/
def dieAt (s : State) (d : Nat) : Die := tabGet .reset s.dies d

/-- Changes a die. -/
def onDie (s : State) (d : Nat) (f : Die → Die) : State := { s with dies := tabPut s.dies d (f (dieAt s d)) }

/-- Is the package in no state that stops the clocks of its dies (R357)? Under PLIM 0 the jobs that a failure ends still run to
their points (R464). -/
def packageRuns (s : State) : Bool := decide (s.dev.pkg < 3) || s.jobs.any (fun b => b.2.killed && b.2.phase != 4)

/-- Do the clocks of a core run: is its die in L0, and do the package's (R357)? -/
def clocksRun (s : State) (c : Nat) : Bool := (dieAt s (c / 288)).pstate == 0 && packageRuns s

/-- The die of a core returns to L0 (R358). -/
def wakeDie (s : State) (c : Nat) : State := onDie s (c / 288) (fun d => { d with pstate := 0, idle := 0 })

/-- The package returns to L0, unless PLIM holds it in L4 (R2, R358). -/
def wakePackage (s : State) : State :=
  { s with dev := { s.dev with pkg := if s.dev.plim = 0 then s.dev.pkg else 0, quiet := 0 } }

/-- Every enabled monitor of a source and target is to take a sample, a number of 32 bits (R359, R360). -/
def sampleFor (s : State) (src tgt v : Nat) : State :=
  if s.monitors.isEmpty then s
  else { s with samples := s.samples ++ (s.monitors.filter (fun m =>
    bit m.2.ctl 0 && bits m.2.sel 0 8 == src && bits m.2.sel 8 24 == tgt)).map (fun m => (m.1, Nat.min v (2 ^ 32 - 1))) }

/-- The core of a monitor's target (log 68). -/
def coreTarget (c : Nat) : Nat := c / 48 * 64 + c % 48

/-- Cluster k. -/
def clusterAt (s : State) (k : Nat) : Cluster := tabGet .reset s.clusters k

/-- Changes a cluster. -/
def onCluster (s : State) (k : Nat) (f : Cluster → Cluster) : State :=
  { s with clusters := tabPut s.clusters k (f (clusterAt s k)) }

/-- Pool unit n: a core's, or 1,728 + die. -/
def unitAt (s : State) (n : Nat) : PoolUnit := tabGet .reset s.units n

/-- Changes a pool unit. -/
def onUnit (s : State) (n : Nat) (f : PoolUnit → PoolUnit) : State := { s with units := tabPut s.units n (f (unitAt s n)) }

/-- The job of a strand's task (or the job that holds the context). -/
def jobOf (s : State) (a : At) : Nat :=
  match (strandAt s a).task with
  | some t => t.job
  | none => (strandAt s a).holder.getD 0

/-- The context (virtual function) a strand runs under (R22). -/
def ctxOf (s : State) (a : At) : Nat := (jobAt s (jobOf s a)).ctx

/-- LKEY of a strand's context (R54, R146). -/
def lkeyOf (s : State) (a : At) : Nat := (ctxAt s (ctxOf s a)).lkey

/-- Engine queue q of a core: 0 LQ, 1 VQ, 2 MQ, 3 SQ. -/
def queueAt (s : State) (c q : Nat) : List Entry := tabGet [] (coreAt s c).queues q

/-- Replaces an engine queue. -/
def setQueue (s : State) (c q : Nat) (l : List Entry) : State :=
  onCore s c (fun k => { k with queues := tabPut k.queues q l })

/-- The tokens of FIFO f of a core, oldest first, each as the context that gave it (R149). -/
def fifoAt (s : State) (c f : Nat) : List Nat := tabGet [] (coreAt s c).fifos f

/-- Replaces a FIFO. -/
def setFifo (s : State) (c f : Nat) (l : List Nat) : State :=
  onCore s c (fun k => { k with fifos := tabPut k.fifos f l })

/-- The entries a strand has in its core's queues (R148). -/
def queuedEntries (s : State) (a : At) : List Entry :=
  ([0, 1, 2, 3].flatMap (queueAt s a.c)).filter (fun e => e.sx == a.x)

/-- The entries of a strand that have not completed: those in its core's queues, and those that a stop of its job has taken
out of them (R148, R305). -/
def strandEntries (s : State) (a : At) : List Entry := queuedEntries s a ++ (strandAt s a).aside

/-- The strand that the CC of the focus core issues for (R20). -/
def runner (s : State) : Option At :=
  match (coreAt s s.focus).turn with
  | some x =>
    let st := (strandAt s ⟨s.focus, x⟩).status
    if st = .running ∨ st = .waiting then some ⟨s.focus, x⟩ else none
  | none => none

/-! ## What an attempt to issue gives -/

/-- How control goes on after an instruction. -/
inductive Ctl where
  /-- To the next instruction, with the back edge of an armed loop (R183). -/
  | seq
  /-- A taken branch (R178 to R181). -/
  | jump (pc : Nat)
  /-- A segment end that declares the next segment (R190). -/
  | segEnd (cost energy : Nat)
  /-- The instruction has set the strand's state itself. -/
  | own
  deriving DecidableEq, Repr

/-- An instruction that has issued: the state with its writes, the result for y0 (R143), and control. -/
structure Done where
  s : State
  y : Dword
  ctl : Ctl

/-- Why an instruction has not issued. -/
inductive Stop where
  /-- It waits or stalls: the state with whatever request it left, what it waits for, whether the strand is in the waiting
  state, and the wait's argument. -/
  | wait (s : State) (k : WaitKind) (waiting : Bool) (arg : Nat)
  /-- It raises a cause (R400). -/
  | trap (c : Cause)

/-- An action of the CC. -/
abbrev Act (α : Type) := Except Stop α

/-- Raises a cause. -/
def raise {α : Type} (code a0 a1 a2 : Nat) : Act α := .error (.trap ⟨code, a0, a1, a2⟩)

/-- Raises a cause unless the condition holds. -/
def need (b : Bool) (code a0 a1 a2 : Nat) : Act Unit := if b then .ok () else raise code a0 a1 a2

/-- A wait in progress goes on, as it stands; else issue stalls for what no bound limits. -/
def goOnWaiting {α : Type} (s : State) (a : At) : Act α :=
  match (strandAt s a).wait with
  | some w => .error (.wait s w.kind ((strandAt s a).status == .waiting) w.arg)
  | none => .error (.wait s .other false 0)

/-- Stalls issue for what no bound limits. -/
def stall {α : Type} (s : State) : Act α := .error (.wait s .other false 0)

/-! ## Registers (R140 to R145, R161) -/

/-- Does a g register wait for a scoreboarded result (R144)? g0 never does. -/
def gBusy (t : Strand) (n : Nat) : Bool := n != 0 && t.sb.any (fun e => e.dest == .g n)

/-- Does a p register wait for a scoreboarded result (R269)? -/
def pBusy (t : Strand) (n : Nat) : Bool := t.sb.any (fun e => e.dest == .p n)

/-- The value of g register n; g0 reads 0. -/
def gVal (t : Strand) (n : Nat) : Dword := if n = 0 then 0 else tabGet 0 t.g n

/-- The value of p register n; p0 reads true. -/
def pVal (t : Strand) (n : Nat) : Bool := if n = 0 then true else tabGet false t.p n

/-- The value a source selector names (R141). -/
def selVal (t : Strand) (v : Nat) : Dword := if v < 32 then gVal t v else t.y.getD (v - 32) 0

/-- Reads g register n, stalling while its result is out. -/
def rdG (s : State) (a : At) (n : Nat) : Act Dword :=
  if gBusy (strandAt s a) n then stall s else .ok (gVal (strandAt s a) n)

/-- Reads a source selector (R141, R161). -/
def rd (s : State) (a : At) (v : BitVec 6) : Act Dword :=
  if v.toNat < 32 then rdG s a v.toNat else .ok (selVal (strandAt s a) v.toNat)

/-- Reads p register n. -/
def rdP (s : State) (a : At) (n : Nat) : Act Bool :=
  if pBusy (strandAt s a) n then stall s else .ok (pVal (strandAt s a) n)

/-- Stalls while g register n waits for its result; for an instruction that writes it. -/
def freeG (s : State) (a : At) (n : Nat) : Act Unit := if gBusy (strandAt s a) n then stall s else .ok ()

/-- What a unit has answered to the instruction of a key. -/
def grantOf (t : Strand) (key : Nat) : Option Dword := (t.grant.find? (fun g => g.1 == key)).map (·.2)

/-- A strand whose answer of a key is used up. -/
def dropGrant (key : Nat) (t : Strand) : Strand := { t with grant := t.grant.filter (fun g => g.1 != key) }

/-- Stalls while the destination of a word waits for its result, unless nw keeps it unwritten (R144). -/
def freeD (s : State) (a : At) (d : BitVec 5) (nw : BitVec 1) : Act Unit := if nw = 1 then .ok () else freeG s a d.toNat

/-- A g register of a strand set at once: g0 discards; earlier exposed writes due no later than the next slot fall behind
(R140, R144). -/
def putG (n : Nat) (v : Dword) (t : Strand) : Strand :=
  if n = 0 then t
  else { t with g := tabPut t.g n v, pend := t.pend.filter (fun w => !(w.reg == n && decide (w.due ≤ t.slot + 1))) }

/-- g1 to g4 set at once from a list, in the instruction's own slot (R144, R187). -/
def putG14 (l : List Dword) (t : Strand) : Strand := (List.range 4).foldl (fun t i => putG (i + 1) (l.getD i 0) t) t

/-- Does any of g1 to g4 wait for a scoreboarded result? -/
def g14Busy (t : Strand) : Bool := (List.range 4).any (fun i => gBusy t (i + 1))

/-- Does any of p1 to p7 wait for a scoreboarded result? -/
def pAnyBusy (t : Strand) : Bool := (List.range 7).any (fun i => pBusy t (i + 1))

/-- A g register of a strand set with latency l (R144). -/
def putGLat (l n : Nat) (v : Dword) (t : Strand) : Strand :=
  if n = 0 then t
  else if l ≤ 1 then putG n v t else { t with pend := t.pend ++ [⟨t.slot + l, n, v⟩] }

/-- Writes the g destination d with latency l unless nw is set (R140, R144). -/
def wrG (s : State) (a : At) (d : BitVec 5) (nw : BitVec 1) (l : Nat) (v : Dword) : Act State :=
  if nw = 1 then .ok s
  else if gBusy (strandAt s a) d.toNat then stall s else .ok (onStrand s a (putGLat l d.toNat v))

/-- Sets p register n; p0 discards (R145). -/
def putP (n : Nat) (v : Bool) (t : Strand) : Strand := if n = 0 then t else { t with p := tabPut t.p n v }

/-- Writes p register n. -/
def wrP (s : State) (a : At) (n : Nat) (v : Bool) : Act State :=
  if pBusy (strandAt s a) n then stall s else .ok (onStrand s a (putP n v))

/-- Writes k register n. -/
def wrK (s : State) (a : At) (n : Nat) (v : Nat) : State := onStrand s a (fun t => { t with k := tabPut t.k n (v % 65536) })

/-- Writes e register n. -/
def wrE (s : State) (a : At) (n : Nat) (v : Nat) : State := onStrand s a (fun t => { t with e := tabPut t.e n (v % 2 ^ 32) })

/-- Makes the exposed writes due at or before the strand's slot visible, in the order of their slots due (R144). A register
whose later load is out keeps the later value. -/
def landDue (lim : Option Nat) (t : Strand) : Strand :=
  let due (w : PendWrite) : Bool := match lim with | some l => decide (w.due ≤ l) | none => true
  let ws := sortBy (fun u v => decide (u.due < v.due)) (t.pend.filter due)
  { t with
    g := ws.foldl (fun g w => tabPut g w.reg w.val) t.g
    pend := t.pend.filter (fun w => !due w)
    sb := t.sb.map (fun e => if ws.any (fun w => e.dest == .g w.reg) then { e with dest := .none } else e) }

/-- Performs every exposed write of a strand (R144). -/
def landAll (t : Strand) : Strand := if t.pend.isEmpty then t else landDue none t

/-- Performs the exposed writes due at the strand's slot. -/
def landSlot (t : Strand) : Strand := if t.pend.isEmpty then t else landDue (some t.slot) t

/-- Adds a scoreboarded result (R44, R144): its destination stays busy until it returns. -/
def addSb (s : State) (a : At) (dest : Dest) (access load : Bool) (v : Option Dword) : State :=
  let s := onStrand s a (fun t => { t with
    sb := t.sb ++ [⟨s.sbNext, dest, access, load, v⟩]
    pend := t.pend.filter (fun w => !(dest == .g w.reg && decide (w.due ≤ t.slot + 1))) })
  { s with sbNext := s.sbNext + 1 }

/-- The destination of a scoreboarded g write. -/
def destG (d : BitVec 5) (nw : BitVec 1) : Dest := if nw = 1 ∨ d = 0 then .none else .g d.toNat

/-- Room for one more scoreboarded access (R169). -/
def sbRoom (t : Strand) : Bool := decide ((t.sb.filter (·.access)).length < 32)

/-! ## Turns and segments (R20, R21, R143) -/

/-- The strand's turn ends: every exposed write lands, the latches read 0 (R143, R144). -/
def endTurn (t : Strand) : Strand := { landAll t with y := [0, 0, 0, 0] }

/-- The strand's segment ends: outside the handlers its events are due, those that have waited for TL 0 among them (R313,
R384). -/
def endSegment (t : Strand) : Strand :=
  let due := t.evslot.isNone && t.tl == 0
  { endTurn t with evDue := due, evHeld := t.evHeld && !due }

/-- Gives up the turn of strand a, if it holds it. -/
def dropTurn (s : State) (a : At) : State :=
  onCore s a.c (fun k => { k with turn := if k.turn = some a.x then none else k.turn })

/-- The first code that ended a task of a job, kept in its status (R433). -/
def noteEnd (s : State) (j code : Nat) : State :=
  onJob s j (fun b => { b with endCode := if b.endCode = 0 then code else b.endCode })

/-- The bound a wait that begins now has (R146, R424). -/
def waitBound (t : Strand) : Nat := if t.wlim = 0 then 2 ^ 32 else t.wlim

/-- An instruction has not issued: its strand waits or stalls on k. A wait that goes on keeps its count; stalls place 0 in
y0 only when the instruction issues. -/
def holdWait (s : State) (a : At) (k : WaitKind) (waiting : Bool) (arg : Nat) : State :=
  onStrand s a (fun t => { t with
    status := if waiting then .waiting else .running
    wait := match t.wait with
      | some w => if w.kind = k then some { w with elapsed := w.elapsed + 1, arg := arg }
                  else some ⟨k, 1, waitBound t, arg⟩
      | none => some ⟨k, 1, waitBound t, arg⟩ })

/-- The loop state after a jump to target (R183). -/
def loopAfterJump (l : Option HwLoop) (target : Nat) : Option HwLoop :=
  match l with
  | some h => if h.start ≤ target ∧ target < h.stop then some h else none
  | none => none

/-- The pc and loop state after an instruction that ends at nxt and is no taken branch (R183). -/
def seqNext (t : Strand) (nxt : Nat) : Nat × Nat × Option HwLoop :=
  match t.loop with
  | some h =>
    if nxt = h.stop then
      if t.lc = 1 then (nxt, 0, none)
      else if t.lc = 0 then (h.start, 2 ^ 32 - 1, some h)
      else (h.start, t.lc - 1, some h)
    else (nxt, t.lc, some h)
  | none => (nxt, t.lc, none)

/-- A strand after an instruction of len bytes that issued: latches, slot, pc, loop (R143, R144, R181, R183). -/
def advance (len : Nat) (y : Dword) (ctl : Ctl) (t : Strand) : Strand :=
  let t := { t with y := y :: t.y.take 3, slot := t.slot + 1, wait := none, status := .running }
  match ctl with
  | .jump p => { t with pc := BitVec.ofNat 52 p, loop := loopAfterJump t.loop p, bubble := 2 }
  | _ =>
    let (p, lc, l) := seqNext t (t.pc.toNat + len)
    { t with pc := BitVec.ofNat 52 p, lc := lc, loop := l }

/-- The state after an instruction that issued. DEDUCED: an ALU-class instruction whose issue has stalled places its result in y0
when it issues, not 0 (R143, log 93). -/
def finish (a : At) (len : Nat) (d : Done) : State :=
  match d.ctl with
  | .own => d.s
  | .segEnd cost energy =>
    dropTurn (onStrand d.s a (fun t =>
      { endSegment (advance len d.y .seq t) with
        status := .ready, cost := cost, energy := energy })) a
  | c => onStrand d.s a (advance len d.y c)

/-! ## Strands by number, tasks by number -/

/-- Number of a strand in the notify words and the mailbox. -/
def strandNo (a : At) : Nat := 4 * a.c + a.x

/-- The notify word that a strand is parked on and the mailbox that its MBPOST waits for forget it (R193, R425, R445). -/
def unpark (s : State) (a : At) : State :=
  let s := { s with nw := s.nw.map (fun w => if w.2.parked = some (strandNo a) then (w.1, { w.2 with parked := none }) else w) }
  if (clusterAt s (a.c / 48)).posters.contains (strandNo a) then
    onCluster s (a.c / 48) (fun k => { k with posters := k.posters.filter (· != strandNo a) })
  else s

/-- Is the strand's task number id? -/
def Strand.runs (id : Nat) (t : Strand) : Bool := t.task.any (fun k => k.id == id)

/-- The context on which task id runs, if one does. -/
def taskHome (s : State) (id : Nat) : Option At :=
  s.cores.findSome? (fun k => (k.2.strands.find? (fun t => t.2.runs id)).map (fun t => ⟨k.1, t.1⟩))

/-- Has task id not ended: does it run, or stand in a join frame or a save (R26, R309)? -/
def taskLives (s : State) (id : Nat) : Bool :=
  s.cores.any (fun k => k.2.strands.any (fun t => t.2.runs id) || k.2.joins.any (fun f => f.strand.runs id) ||
    k.2.saved.any (fun v => v.strands.any (fun x => x.strand.runs id)))

/-- Changes the strand of every task that p names, where it runs and where a frame keeps it (R26, R309). -/
def onTasks (s : State) (p : Strand → Bool) (f : Strand → Strand) : State :=
  let g (t : Strand) : Strand := if p t then f t else t
  { s with cores := s.cores.map (fun k => (k.1, { k.2 with
      strands := k.2.strands.map (fun t => (t.1, g t.2))
      joins := k.2.joins.map (fun j => { j with strand := g j.strand })
      saved := k.2.saved.map (fun v => { v with strands := v.strands.map (fun x => { x with strand := g x.strand }) }) })) }

/-! ## Ending a task -/

/-- Saturating count of reclaimed items in a job's status (R433). -/
def reclaim (s : State) (j cls n : Nat) : State :=
  if n = 0 then s
  else onJob s j (fun b => { b with recl := Nat.lor b.recl (2 ^ cls), cnt := Nat.min 65535 (b.cnt + n) })

/-- Takes the strand's tokens out of its core's FIFOs, as (FIFO, count). -/
def withdrawTokens (s : State) (a : At) : State × Nat :=
  (List.range 8).foldl (fun (r : State × Nat) f =>
    let l := fifoAt r.1 a.c f
    let n := (l.filter (· == a.x)).length
    if n = 0 then r else (setFifo r.1 a.c f (l.filter (· != a.x)), r.2 + n)) (s, 0)

/-- One joined child of task id has ended (R25, R26). -/
def joinChild (s : State) (parent : Option Nat) : State :=
  match parent with
  | some p => { s with joinCnt := tabPut s.joinCnt p (tabGet 0 s.joinCnt p - 1) }
  | none => s

/-- The join counter of a task. -/
def joinCount (s : State) (id : Nat) : Nat := tabGet 0 s.joinCnt id

end Sys2Proof.Machine
end

