-- ==== Sys2Proof/Machine/Pools.lean ====
section
/-! DEFINITION. Pool units: rings, handles and tiles (R90 to R103), version heads, publications, subscribers and settle sets
(R106 to R116), refusals (R429 to R431). -/

namespace Sys2Proof.Machine

/-! ## Handles (R93) -/

/-- The space of a handle. -/
def hSpace (h : Nat) : Nat := bits h 60 4
/-- The pool index of a handle. -/
def hPool (h : Nat) : Nat := bits h 54 6
/-- The generation of a handle. -/
def hGen (h : Nat) : Nat := bits h 38 16
/-- The offset field of a handle. -/
def hOff (h : Nat) : Nat := bits h 0 38

/-- The tagged address of a tile's first byte (R94). -/
def hAddr (h : Nat) : Nat := hSpace h * 2 ^ 60 + hOff h

/-- Is the handle's space and pool one of R93, its core within a cluster and its reserved bits zero? -/
def hValid (h : Nat) : Bool :=
  (hSpace h = 3 && hPool h < 16 && bits h 20 6 < 48) || (hSpace h = 1 && hPool h < 64 && bits h 26 3 < 6)

/-- Does a handle name a space and a pool that R413 admits? -/
def hForm (h : Nat) : Bool := (hSpace h = 3 && hPool h < 16) || hSpace h = 1

/-- The pool unit that keeps a handle's tile, for a core of the cluster (R90, R93). -/
def unitOf (c h : Nat) : Nat := if hSpace h = 3 then c / 48 * 48 + bits h 20 6 else 1728 + bits h 26 3

/-- The handle of a tile of unit n (R93). -/
def handleOf (n : Nat) (p : Pool) (t : Tile) : Nat :=
  let off := if n < 1728 then n % 48 * 2 ^ 20 + p.base + 256 * t.gran else p.base + 256 * t.gran
  t.space * 2 ^ 60 + t.pool % 64 * 2 ^ 54 + t.gen * 2 ^ 38 + off

/-- Pool of a unit by its key. -/
def poolAt (u : PoolUnit) (key : Nat) : Pool := tabGet .none u.pools key

/-- Does a live tile of unit n lie at a handle's offset? start is the handle of its first byte (R94, R100). -/
def coversOff (start need h : Nat) : Bool :=
  decide (hOff start ≤ hOff h) && decide (hOff h < hOff start + 256 * need)

/-- The live tile at a handle's offset in its pool, whatever its generation (R100). -/
def tileUnder (s : State) (n ctx h : Nat) : Option Tile :=
  let u := unitAt s n
  u.tiles.find? (fun t => t.pool == 64 * ctx + hPool h && t.space == hSpace h &&
    coversOff (handleOf n (poolAt u t.pool) t) t.need h)

/-- The live tile a handle names under a context, if its generation is the live one at its offset (R94, R100). -/
def tileAt (s : State) (n ctx h : Nat) : Option Tile :=
  match tileUnder s n ctx h with
  | some t => if t.gen = hGen h then some t else none
  | none => none

/-- The handle of the first byte of the tile a handle names (R94): itself where it names none. -/
def startHandle (s : State) (n ctx h : Nat) : Nat :=
  match tileAt s n ctx h with
  | some t => handleOf n (poolAt (unitAt s n) t.pool) t
  | none => h

/-- Same tile-table entry. -/
def sameTile (t v : Tile) : Bool := t.pool == v.pool && t.gran == v.gran && t.gen == v.gen

/-- Replaces a tile's entry. -/
def putTile (s : State) (n : Nat) (t : Tile) : State :=
  onUnit s n (fun u => { u with tiles := u.tiles.map (fun v => if sameTile t v then t else v) })

/-- Tile-table entries a unit has (R91). -/
def tileLimit (n : Nat) : Nat := if n < 1728 then 512 else 8192

/-! ## The ring (R92, R96, R102) -/

/-- The place of R96 for need granules on partition p: (granule, skipped granules), without the tile-table condition. -/
def ringPlace (q : Pool) (p need : Nat) : Option (Nat × Nat) :=
  let h := if q.u = 0 then 0 else q.h
  let t := if q.u = 0 then 0 else q.t
  if nth q.used p + need ≤ nth q.quota p then
    if q.u = q.size then none
    else if h > t ∨ q.u = 0 then
      if need ≤ q.size - h then some (h, 0) else if need ≤ t then some (0, q.size - h) else none
    else if h < t then if need ≤ t - h then some (h, 0) else none
    else none
  else none

/-- h in [31:0] and t in [63:32] of a ring, an empty one restarted at its base (R96, R426, R429). -/
def ringEnds (q : Pool) : Nat := if q.u = 0 then 0 else q.h + q.t * 2 ^ 32

/-- The tail passes returned granules and skipped spans (R102). -/
def advanceTail : Nat → Pool → Pool
  | 0, q => q
  | f + 1, q =>
    if q.u = 0 then q
    else match q.spans.find? (fun sp => sp.1 == q.t) with
      | some (lo, len) =>
        advanceTail f { q with
          t := (q.t + len) % q.size, u := q.u - len, spans := q.spans.filter (fun sp => sp.1 != lo) }
      | none => q

/-- Places a tile (R96) and gives its handle. -/
def placeTile (s : State) (n key part need count tag kind job : Nat) (at_ skip : Nat) : State × Nat :=
  let u := unitAt s n
  let q := poolAt u key
  let gen := (q.gen + 1) % 65536
  let sp := if skip = 0 then [] else [(q.h, skip)]
  let q' := { q with
    h := (at_ + need) % q.size
    t := if q.u = 0 then 0 else q.t
    u := q.u + skip + need
    used := setNth q.used part (nth q.used part + need)
    gen := gen
    spans := (if q.u = 0 then [] else q.spans) ++ sp }
  let t : Tile := ⟨if n < 1728 then 3 else 1, key, gen, at_, need, count, tag, 0, part, kind, job, 0, false, false⟩
  (onUnit s n (fun u => { u with pools := tabPut u.pools key q', tiles := u.tiles ++ [t] }), handleOf n q' t)

/-- Clears the full-empty bits of a run of pond bytes (R50, R102). -/
def emptyGranules (s : State) (core off len : Nat) : State :=
  { s with fe := s.fe.filter (fun g => !(decide (granule core off ≤ g) && decide (g < granule core off + len / 16))) }

/-- Returns a tile (R102): its entry, its granules, its full-empty bits, and the tail. -/
def returnTile (s : State) (n : Nat) (t : Tile) : State :=
  let q := poolAt (unitAt s n) t.pool
  let q' := advanceTail (q.spans.length + 1)
    { q with used := setNth q.used t.part (nth q.used t.part - t.need), spans := q.spans ++ [(t.gran, t.need)] }
  let s := if n < 1728 then emptyGranules s n (q.base + 256 * t.gran) (256 * t.need) else s
  onUnit s n (fun u => { u with
    pools := tabPut u.pools t.pool q', tiles := u.tiles.filter (fun v => !sameTile t v) })

/-- Stores a tile's entry, or returns the tile when its count and its pend are zero (R102). -/
def settleTile (s : State) (n : Nat) (t : Tile) : State :=
  if t.kind ≠ 3 ∧ t.count = 0 ∧ t.pend = 0 then returnTile s n t else putTile s n t

/-! ## Version heads (R106 to R116) -/

/-- A subscriber's 32 bytes (R106). -/
def subWord (b : Sub) : Nat :=
  place b.arg 192 64 + place b.entry 128 64 + place b.runs 112 16 + place b.runv 96 16 + place (b.core / 48) 90 6
    + place (b.core % 48) 84 6 + place b.state 81 3 + place b.policy 79 2

/-- A head's 512 bytes (R106). -/
def headImage (hd : Head) (hcount : Nat) : List Byte :=
  leBytes 32 (place hd.cur 192 64 + place hd.smask 128 64 + place hd.ver 112 16 + place hcount 96 16
    + place hd.subs.length 92 4 + b2n hd.final * 2 ^ 91 + b2n hd.sref * 2 ^ 90)
  ++ (List.range 15).flatMap (fun i => match hd.subs[i]? with | some b => leBytes 32 (subWord b) | none => leBytes 32 0)

/-- The location of a handle's first byte. -/
def handleLoc (s : State) (ctx c h : Nat) : Nat :=
  if hSpace h = 3 then locPond (unitOf c h) (bits h 0 20) else locLake (ctxAt s ctx).lkey (bits h 0 29)

/-- Writes the 8-byte words of a head's storage that differ between two images (R106, R434). -/
def writeWords (s : State) (loc : Nat → Nat) : Nat → List (List Byte) → List (List Byte) → State
  | i, o :: os, w :: ws => writeWords (if o = w then s else storeN s (loc (8 * i)) w) loc (i + 1) os ws
  | _, _, _ => s

/-- Key of a head's record at its unit. -/
def headKey (ctx h : Nat) : Nat := 2 ^ 64 * ctx + h

/-- The record of the head a handle names under a context. -/
def headAt (s : State) (n ctx h : Nat) : Option Head := tabFind (unitAt s n).heads (headKey ctx h)

/-- Location of byte k of a head's storage. -/
def headByte (s : State) (ctx n h k : Nat) : Nat :=
  if hSpace h = 3 then locPond n (bits h 0 20 + k) else locLake (ctxAt s ctx).lkey (bits h 0 29 + k)

/-- Replaces a head's record and its tile's count, writing its storage. -/
def putHead (s : State) (n ctx h : Nat) (old : Option (Head × Nat)) (hd : Head) (hcount : Nat) : State :=
  let img (x : Head × Nat) := chunks 8 (headImage x.1 x.2)
  let was := match old with | some x => img x | none => List.replicate 64 []
  let s := writeWords s (headByte s ctx n h) 0 was (img (hd, hcount))
  onUnit s n (fun u => { u with heads := tabPut u.heads (headKey ctx h) hd })

/-- Supersedes a version tile (R114): its undispensed draws are cancelled. -/
def supersede (s : State) (c ctx h : Nat) : State :=
  if h = 0 then s
  else match tileAt s (unitOf c h) ctx h with
    | some t => settleTile s (unitOf c h) { t with count := t.runs, superseded := true }
    | none => s

/-- Cancels one undispensed draw of a version tile (R111). -/
def cancelDraw (s : State) (c ctx h : Nat) : State :=
  match tileAt s (unitOf c h) ctx h with
  | some t => if t.superseded then s else settleTile s (unitOf c h) { t with count := t.count - 1 }
  | none => s

/-- A head returns when its hcount is zero and no subscriber is in states 1 to 4 (R107); its unfinished subscribers are counted for
the end of its job (R431, R432). -/
def settleHead (s : State) (c ctx h : Nat) : State :=
  let n := unitOf c h
  match headAt s n ctx h, tileAt s n ctx h with
  | some hd, some t =>
    if t.count = 0 ∧ hd.subs.all (fun b => b.state = 0 || 5 ≤ b.state) then
      let s := supersede s c ctx hd.cur
      let s := onUnit s n (fun u => { u with heads := tabDel u.heads (headKey ctx h) })
      returnTile (reclaim s hd.job 3 (hd.subs.filter (·.unfinished)).length) n t
    else s
  | _, _ => s

/-- Is event b the one that event a replaces: the same word, head, or subscriber of a head (R312)? -/
def sameEvent (a b : Event) : Bool :=
  a.etype == b.etype && (match a.etype with
    | 2 => a.va == b.va
    | 3 => a.va == b.va && bits a.seq 0 4 == bits b.seq 0 4
    | 4 => a.seq == b.seq
    | _ => false)

/-- An event is dropped and counted in the entry of type 0x05 (R312). -/
def countLost (l : List Event) : List Event :=
  if l.any (fun b => b.etype == 5) then
    l.map (fun b => if b.etype = 5 then { b with seq := Nat.min (2 ^ 32 - 1) (b.seq + 1) } else b)
  else l ++ [⟨5, 0, 1, 0, 0, false⟩]

/-- A queue of events without its newest one that is neither a tier-miss nor a count of lost events. -/
def dropNewest (l : List Event) : List Event :=
  let n := l.length - 1 - l.reverse.findIdx (fun b => b.etype != 1 && b.etype != 5)
  l.eraseIdx n

/-- A queue of 16 events after one more (R312): fifteen entries hold events, the last is kept for type 0x05; a tier-miss
that finds them taken displaces the newest other event (log 66). -/
def postTo (e : Event) (l : List Event) : List Event :=
  if l.any (sameEvent e) then l.map (fun b => if sameEvent e b then e else b)
  else if (l.filter (fun b => b.etype != 5)).length < 15 then l ++ [e]
  else if e.etype = 1 then countLost (dropNewest l) ++ [e]
  else countLost l

/-- May an event be delivered to the strand at all: it runs a task and is in neither handler, none of its entries is a stop
(R313, R384)? -/
def takesEvents (t : Strand) : Bool :=
  t.task.isSome && t.evslot.isNone && t.tl == 0 && t.pendTrap.isNone && !t.atStop

/-- A parked strand to which an event is posted becomes ready, its PARK not issued, and the event is delivered at its next
turn (R313). -/
def rouse (s : State) (a : At) : State :=
  let t := strandAt s a
  if t.status = .parked ∧ takesEvents t && !t.evHeld then
    onStrand (unpark s a) a (fun t => { t with status := .ready, wait := none, evDue := true, evTurn := true })
  else s


/-- Posts an event to a strand (R312, R313), which wakes its die (R358). -/
def postEvent (s : State) (a : At) (e : Event) : State :=
  rouse (wakeDie (onStrand s a (fun t => { t with evq := postTo e t.evq })) a.c) a

/-- Posts an event to a task, wherever it is: a saved or evicted strand keeps it in its frame (R311, R313). -/
def postTask (s : State) (id : Nat) (e : Event) : State :=
  let s := onTasks s (fun t => t.runs id) (fun t => { t with evq := postTo e t.evq })
  match taskHome s id with
  | some a => rouse (wakeDie s a.c) a
  | none => s

/-- General slots of a core's deque in use (R25). -/
def generalUsed (k : Core) : Nat := (k.deque.filter (fun e => e.slot.isNone)).length

/-- Fires a subscriber: its run goes onto the deque of its core when a general slot is free (R110), beside the one operation of
the deque's own core in a cycle (R27, log 81). -/
def pushRun (s : State) (job h i : Nat) (b : Sub) : State × Sub :=
  let k := coreAt s b.core
  if generalUsed k < 56 then
    (setCore s b.core { k with
      deque := ⟨b.entry, b.arg, 1, job, none, [], none, some (h, i), k.dqStamp⟩ :: k.deque
      dqStamp := k.dqStamp + 1, dqPushes := k.dqPushes + 1 },
     { b with queued := true, waited := 0 })
  else (s, b)

/-- A subscriber passes to state 1 (R110, R111); from states 3, 4 and 5 the binding task hears of it (R311). -/
def fireSub (s : State) (job h i : Nat) (b : Sub) : State × Sub :=
  let from345 := 3 ≤ b.state ∧ b.state ≤ 5
  let b := { b with state := 1, queued := false, waited := 0 }
  let s := if from345 then postTask s b.bTask ⟨3, h, b.runs * 2 ^ 16 + i, 0, 0, false⟩ else s
  pushRun s job h i b

/-- The strand that runs subscriber i of head h of a job gets its stop request, wherever the run is (R112). -/
def stopRuns (s : State) (job h i : Nat) : State :=
  onTasks s (fun t => t.task.any (fun k => k.job == job && k.run.any (fun r => r.1 == h && r.2.1 == i)))
    (fun t => { t with stopping := true })

/-- One subscriber's transition when a newer version is published (R111). -/
def subNewer (job h : Nat) (r : State × List Sub) (b : Sub) : State × List Sub :=
  let i := r.2.length
  let b := if b.state = 6 then b else { b with holds := true }
  match b.state with
  | 0 => let (s, b) := fireSub r.1 job h i b; (s, r.2 ++ [b])
  | 2 =>
    if b.policy = 1 then (r.1, r.2 ++ [{ b with state := 3 }])
    else (stopRuns r.1 job h i, r.2 ++ [{ b with state := 4 }])
  | 5 => let (s, b) := fireSub r.1 job h i b; (s, r.2 ++ [b])
  | _ => (r.1, r.2 ++ [b])

/-- The refusal of a handle that names no live head of the job (R430, R431). -/
def headCheck (s : State) (c ctx job h : Nat) : Except Cause (Head × Tile) :=
  let n := unitOf c h
  match (if hValid h then tileAt s n ctx h else none), headAt s n ctx h with
  | some t, some hd => if t.kind ≠ 3 then .error ⟨0x50, h, 0, 0⟩ else if t.job ≠ job then .error ⟨0x4C, h, 0, 0⟩ else .ok (hd, t)
  | _, _ => .error ⟨0x50, h, 0, 0⟩

/-- PUBV and PUBV.f at the head's pool unit (R108, R279): the state and pd. -/
def publish (s : State) (c ctx job h tile : Nat) (final : Bool) (scope : Nat) : Except Cause (State × Bool) :=
  match headCheck s c ctx job h with
  | .error e => .error e
  | .ok (hd, ht) =>
    if hd.final then .ok (s, false)
    else
      let m := unitOf c tile
      match (if hValid tile then tileAt s m ctx tile else none) with
      | none => .error ⟨0x51, h, tile, 0⟩
      | some t =>
        if t.kind ≠ 1 ∨ t.job ≠ job then .error ⟨0x51, h, tile, 0⟩
        else
          let n := unitOf c h
          let live := (hd.subs.filter (fun b => b.state ≠ 6)).length
          let s := putTile s m { t with kind := 2, count := live, tag := 0, runs := 0, superseded := false }
          let s := supersede s c ctx hd.cur
          let (s, subs) := hd.subs.foldl (subNewer job h) (s, [])
          let ver := hd.ver + 1
          let hd' := { hd with cur := startHandle s m ctx tile, ver := ver, subs := subs, final := final || decide (ver = 65535), scope := scope }
          let s := putHead s n ctx h (some (hd, ht.count)) hd' ht.count
          let s := hd.subs.foldl (fun s b => postTask s b.bTask ⟨2, h, ver, 0, 0, false⟩) s
          let s := match tileAt s m ctx tile with
            | some t => settleTile s m t
            | none => s
          .ok (s, true)

/-- STOPREF at the head's pool unit (R115). -/
def stopRef (s : State) (c ctx job h : Nat) : Except Cause State :=
  match headCheck s c ctx job h with
  | .error e => .error e
  | .ok (hd, ht) =>
    if hd.final then .ok s
    else
      let n := unitOf c h
      let subs := hd.subs.map (fun b => if b.state = 0 ∨ b.state = 5 then { b with state := 6 } else b)
      let s := putHead s n ctx h (some (hd, ht.count)) { hd with final := true, sref := true, subs := subs } ht.count
      .ok (settleHead s c ctx h)

/-- TSUB at the head's pool unit (R110, R281): the state and the subscriber's index. -/
def subscribe (s : State) (c ctx job h : Nat) (b : Sub) : Except Cause (State × Nat) :=
  match headCheck s c ctx job h with
  | .error e => .error e
  | .ok (hd, ht) =>
    let i := hd.subs.length
    if 15 ≤ i then .error ⟨0x52, h, 0, 15⟩
    else
      let n := unitOf c h
      let m := unitOf c hd.cur
      let cur := if hd.cur = 0 then none else tileAt s m ctx hd.cur
      let (s, b) :=
        if 1 ≤ hd.ver then
          match cur with
          | some t =>
            let s := putTile s m { t with count := t.count + 1 }
            fireSub s job h i { b with state := 0, holds := true }
          | none => (s, { b with state := if hd.final then 6 else 5, runv := 0 })
        else (s, { b with state := if hd.final then 6 else 0 })
      .ok (putHead s n ctx h (some (hd, ht.count)) { hd with subs := hd.subs ++ [b] } ht.count, i)

/-- A run starts (R110, R111, R113): subscriber i of head h to state 2. Gives the version tile and its number. -/
def startRun (s : State) (c ctx h i : Nat) : State × Nat × Nat :=
  let n := unitOf c h
  match headAt s n ctx h, tileAt s n ctx h with
  | some hd, some ht =>
    let subs := match hd.subs[i]? with
      | some b => setNth hd.subs i { b with state := 2, runv := hd.ver, runs := Nat.min 65535 (b.runs + 1), holds := false, queued := false }
      | none => hd.subs
    let s := putHead s n ctx h (some (hd, ht.count)) { hd with subs := subs } ht.count
    let s := match tileAt s (unitOf c hd.cur) ctx hd.cur with
      | some t => putTile s (unitOf c hd.cur) { t with runs := t.runs + 1 }
      | none => s
    (s, hd.cur, hd.ver)
  | _, _ => (s, 0, 0)

/-- A run's task: a re-execution counts on (R448). -/
def runTries (s : State) (c ctx h i : Nat) : Nat :=
  match headAt s (unitOf c h) ctx h with
  | some hd => (match hd.subs[i]? with | some b => b.tries | none => 0)
  | none => 0

/-- A run's draw of its version tile is counted (R113). -/
def countRun (s : State) (c ctx tile : Nat) : State :=
  match tileAt s (unitOf c tile) ctx tile with
  | some t => settleTile s (unitOf c tile) { t with count := t.count - 1, runs := t.runs - 1 }
  | none => s

/-- A run ends, or reaches its stop point (R111, R113). -/
def endRun (s : State) (c ctx job h i tile : Nat) : State :=
  let n := unitOf c h
  let s := countRun s c ctx tile
  match headAt s n ctx h, tileAt s n ctx h with
  | some hd, some ht =>
    (match hd.subs[i]? with
    | some b =>
      let b := { b with tries := 0 }
      let six (s : State) (b : Sub) : State × Sub :=
        (if b.holds then cancelDraw s c ctx hd.cur else s, { b with state := 6, holds := false })
      let (s, b) :=
        match b.state with
        | 2 => if b.policy = 2 then six s b
               else if hd.final ∧ b.runv = hd.ver then six s b else (s, { b with state := 5 })
        | 3 => fireSub s job h i b
        | 4 => if b.policy = 2 then six s b else fireSub s job h i b
        | _ => (s, b)
      let s := putHead s n ctx h (some (hd, ht.count)) { hd with subs := setNth hd.subs i b } ht.count
      settleHead s c ctx h
    | none => s)
  | _, _ => s

/-- A run that failed by a hardware error is fired again on the current version (R448, R111). Its version tile's draw is
counted only when a newer version has superseded it. -/
def refireRun (s : State) (c ctx job h i tile : Nat) : State :=
  let n := unitOf c h
  match headAt s n ctx h, tileAt s n ctx h with
  | some hd, some ht =>
    (match hd.subs[i]? with
    | some b =>
      let same := b.runv == hd.ver
      let s := if !same then countRun s c ctx tile
        else match tileAt s (unitOf c tile) ctx tile with
          | some t => putTile s (unitOf c tile) { t with runs := t.runs - 1 }
          | none => s
      let (s, b) := fireSub s job h i { b with holds := b.holds || same, tries := b.tries + 1 }
      putHead s n ctx h (some (hd, ht.count)) { hd with subs := setNth hd.subs i b } ht.count
    | none => s)
  | _, _ => s

/-- Is settle set i of a job settled (R116)? -/
def settledSet (s : State) (job i : Nat) : Bool :=
  s.units.all (fun u => u.2.heads.all (fun h =>
    !(h.2.job == job && bit h.2.smask i) || (h.2.final && h.2.subs.all (fun b => b.state = 6))))

/-- Live members of a settle set, and how many of them are settled (R426). -/
def setMembers (s : State) (job i : Nat) : Nat × Nat :=
  let hs := s.units.flatMap (fun u => (u.2.heads.filter (fun h => h.2.job == job && bit h.2.smask i)).map (·.2))
  (hs.length, (hs.filter (fun h => h.final && h.subs.all (fun b => b.state = 6))).length)

/-- Live heads of a job (R429). -/
def liveHeads (s : State) (job : Nat) : Nat :=
  (s.units.flatMap (fun u => u.2.heads.filter (fun h => h.2.job == job))).length

/-! ## Draws, raises and records (R98 to R103, R430) -/

/-- A tile of the job by handle, or the refusal 0x47 or 0x4C (R430). -/
def tileCheck (s : State) (c ctx job h : Nat) : Except Cause Tile :=
  match tileAt s (unitOf c h) ctx h with
  | none => .error ⟨0x47, h, (match tileUnder s (unitOf c h) ctx h with | some t => t.gen | none => 0), 0⟩
  | some t => if t.job ≠ job then .error ⟨0x4C, h, 0, 0⟩ else .ok t

/-- TADD (R100, R274). DESIGN CHOICE: a TADD of 0 on a tile whose count is 0 changes nothing and has no cause (log 92). -/
def poolAdd (s : State) (c ctx job h n : Nat) : Except Cause State :=
  match tileCheck s c ctx job h with
  | .error e => .error e
  | .ok t =>
    if t.kind = 2 then .error ⟨0x4A, h, t.count, n⟩
    else if n = 0 then .ok s
    else if t.count = 0 then .error ⟨0x48, h, t.count, n⟩
    else if 65535 < t.count + n then .error ⟨0x49, h, t.count, n⟩
    else
      let s' := putTile s (unitOf c h) { t with count := t.count + n }
      let h := startHandle s (unitOf c h) ctx h
      match headAt s (unitOf c h) ctx h with
      | some hd => .ok (putHead s' (unitOf c h) ctx h (some (hd, t.count)) hd (t.count + n))
      | none => .ok s'

/-- One draw is counted; an engine draw or a deferred one leaves pend with it (R98, R99). A reader that was in flight when its
tile became a version tile leaves pend alone: that tile's count is its runs' (R113, R275, R279, log 67). -/
def drawTile (s : State) (c ctx job h : Nat) (pended : Bool) : Except Cause State :=
  match tileCheck s c ctx job h with
  | .error e => .error e
  | .ok t =>
    let n := unitOf c h
    if t.kind = 2 then
      if pended then .ok (putTile s n { t with pend := t.pend - 1 }) else .error ⟨0x4A, h, t.count, 0⟩
    else if t.count = 0 then .error ⟨0x46, h, t.count, 0⟩
    else
      let t' := { t with count := t.count - 1, pend := if pended then t.pend - 1 else t.pend }
      let h := startHandle s n ctx h
      let s := putTile s n t'
      match headAt s n ctx h with
      | some hd => .ok (putHead s n ctx h (some (hd, t.count)) hd t'.count)
      | none => .ok s

/-- The tile that a handle names returns if nothing holds it any more (R102, R107). -/
def settleHandle (s : State) (c ctx h : Nat) : State :=
  let n := unitOf c h
  match tileAt s n ctx h with
  | some t => if t.kind = 3 then settleHead s c ctx (startHandle s n ctx h) else settleTile s n t
  | none => s

/-- Has a draw of the tile that a handle names reached its unit in this cycle? The tile returns once it is counted too (R101,
R293). -/
def drawComes (s : State) (c ctx h : Nat) : Bool :=
  let n := unitOf c h
  (unitAt s n).inbox.any (fun r => match r.op with
    | .draw g => unitOf r.core g == n && startHandle s n (jobAt s r.job).ctx g == startHandle s n ctx h
    | _ => false)

/-- A draw that an entry or a retirement counts, and the return of its tile (R98, R99, R102). -/
def poolDraw (s : State) (c ctx job h : Nat) (pended : Bool) : Except Cause State :=
  match drawTile s c ctx job h pended with
  | .ok s => .ok (if drawComes s c ctx h then s else settleHandle s c ctx h)
  | .error e => .error e

/-- A reader leaves pend without being counted (R99, R105). -/
def dropPend (s : State) (c ctx h n : Nat) : State :=
  match tileAt s (unitOf c h) ctx h with
  | some t => if t.kind = 3 then s else settleTile s (unitOf c h) { t with pend := t.pend - n }
  | none => s

/-- A reader raises pend (R99, R105). -/
def raisePend (s : State) (c ctx h : Nat) : State :=
  match tileAt s (unitOf c h) ctx h with
  | some t => if t.kind = 3 then s else putTile s (unitOf c h) { t with pend := t.pend + 1 }
  | none => s

/-- The check of a `.draw` operand at the push: a live drawn tile of the job that holds all of the operand (R278, R430).
lo and len are the operand's byte range within its space. -/
def drawCheck (s : State) (c ctx job h lo len : Nat) : Except Cause Unit :=
  if !hForm h then .error ⟨0x4E, h, 0, 0⟩
  else match tileCheck s c ctx job h with
    | .error e => .error e
    | .ok t =>
      if t.kind ≠ 1 then .error ⟨0x4B, h, t.count, 0⟩
      else
        let base := bits (startHandle s (unitOf c h) ctx h) 0 (if hSpace h = 3 then 20 else 29)
        if base ≤ lo ∧ lo + len ≤ base + 256 * t.need then .ok ()
        else .error ⟨0x4F, h, hSpace h * 2 ^ 60 + (hOff h - bits h 0 (if hSpace h = 3 then 20 else 29)) + lo, len⟩

/-- Records the `.draw` operands of an engine word together: all of them or, at the first refusal, none (R99, R428). -/
def recordDraws (s : State) (c ctx job : Nat) (l : List Draw) : Except Cause State :=
  let bad := l.findSome? (fun d => match drawCheck s c ctx job d.h d.lo d.len with
    | .ok _ => none
    | .error e => some e)
  match bad with
  | some e => .error e
  | none => .ok (l.foldl (fun s d => raisePend s c ctx d.h) s)

/-- TABND at one pool unit (R103). -/
def abandonUnit (s : State) (n job tag : Nat) : State :=
  ((unitAt s n).tiles.filter (fun t => t.kind == 1 && t.tag == tag && t.job == job)).foldl
    (fun s t => settleTile s n { t with count := t.pend }) s

/-- TABND at every unit it reaches (R103): the cluster's ponds and every die. -/
def abandon (s : State) (c job tag : Nat) : State :=
  if tag = 0 then s
  else ((List.range 48).map (fun i => c / 48 * 48 + i) ++ (List.range 6).map (1728 + ·)).foldl
    (fun s n => abandonUnit s n job tag) s

/-- Adds a draw to a deferred list of at most 64 distinct tiles (R105). -/
def deferDraw : List (Nat × Nat) → Nat → List (Nat × Nat)
  | [], h => [(h, 1)]
  | (k, n) :: t, h => if k = h then (k, n + 1) :: t else (k, n) :: deferDraw t h

/-- Does the list admit one more draw of h? -/
def deferRoom (l : List (Nat × Nat)) (h : Nat) : Bool := l.any (fun p => p.1 == h) || decide (l.length < 64)

/-- Drops a deferred list: pend falls for each entry (R105). -/
def dropDeferred (s : State) (c ctx : Nat) (l : List (Nat × Nat)) : State :=
  l.foldl (fun s p => dropPend s c ctx p.1 p.2) s

/-- Counts a deferred list at retirement, all of it or none (R105, R430). -/
def countDeferred (s : State) (c ctx job : Nat) : List (Nat × Nat) → Except Cause State
  | [] => .ok s
  | (h, n) :: t =>
    match (List.replicate n ()).foldl (fun (r : Except Cause State) _ =>
        match r with | .ok s => poolDraw s c ctx job h true | .error e => .error e) (.ok s) with
    | .ok s => countDeferred s c ctx job t
    | .error e => .error e

/-! ## A unit's cycle (R101) -/

/-- Order of a queued operation within a cycle. -/
def opClass : PoolOp → Nat
  | .tadd .. => 0 | .draw _ => 2 | .stopref .. => 5

/-- Applies one queued operation; a refusal becomes an asynchronous cause of its strand (R428). -/
def applyReq (s : State) (r : PoolReq) : State :=
  let ctx := (jobAt s r.job).ctx
  let res := match r.op with
    | .tadd h k => poolAdd s r.core ctx r.job h k
    | .draw h => drawTile s r.core ctx r.job h false
    | .stopref h => stopRef s r.core ctx r.job h
  match res with
  | .ok s => s
  | .error e => onStrand s ⟨r.core, r.sx⟩ (fun t =>
      if t.task.any (fun k => k.job == r.job) then { t with asyncs := t.asyncs ++ [⟨e, false, 0, 0, r.word, r.pc, 2⟩] } else t)

/-- Operations of one cycle in ascending class, core and context (R101). -/
def cycleOrder : List PoolReq → List PoolReq :=
  sortBy (fun a b => decide (opClass a.op < opClass b.op ∨ (opClass a.op = opClass b.op ∧ 4 * a.core + a.sx < 4 * b.core + b.sx)))

/-- The waiting TALLOC of a strand completes with handle h (R97, R272): its destination stands in the wait's argument. -/
def takeHandle (h : Nat) (t : Strand) : Strand :=
  let arg := match t.wait with | some w => w.arg | none => 0
  let t := if arg / 32 = 0 then putG (arg % 32) (BitVec.ofNat 64 h) t else t
  { advance 4 0 .seq t with task := t.task.map (fun k => if k.run.isSome then { k with tiles := k.tiles ++ [h] } else k) }

/-- A tile placed for a strand (R97, R272): its waiting TALLOC completes, or, while the strand runs an event handler, the tile
is held until that TALLOC issues again. -/
def grantTile (w : Alloc) (h : Nat) (t : Strand) : Strand :=
  let waits := t.pc.toNat == w.pc && (match t.wait with | some ⟨.talloc _, _, _, _⟩ => true | _ => false)
  if waits then takeHandle h t
  else { t with
    grant := t.grant ++ [(2 * w.pc, BitVec.ofNat 64 h)]
    task := t.task.map (fun k => if k.run.isSome then { k with tiles := k.tiles ++ [h] } else k) }

/-- Does R429 refuse one more head of the job? -/
def headsFull (s : State) (w : Alloc) : Bool := w.head.isSome && decide (1024 ≤ liveHeads s w.job)

/-- Places a request: the tile or the version head (R96, R106, R272, R273). -/
def placeReq (s : State) (n : Nat) (w : Alloc) (at_ skip : Nat) : State × Nat :=
  let (s, h) := placeTile s n w.pool (bits w.word 46 2) w.need (bits w.word 16 16) (bits w.word 0 16)
    (if w.head.isSome then 3 else 1) w.job at_ skip
  match w.head with
  | some m => (putHead s n (w.pool / 64) h none ⟨0, m, 0, false, false, [], w.job, 0⟩ (bits w.word 16 16), h)
  | none => (s, h)

/-- The place that a unit has for a request now (R91, R96). -/
def placeFor (s : State) (n : Nat) (w : Alloc) : Option (Nat × Nat) :=
  let u := unitAt s n
  if u.tiles.length < tileLimit n then ringPlace (poolAt u w.pool) (bits w.word 46 2) w.need else none

/-- Do two requests name one partition? -/
def samePart (v w : Alloc) : Bool := v.pool == w.pool && bits v.word 46 2 == bits w.word 46 2

/-- The oldest waiting request of each partition, in order of arrival (R97). -/
def oldestWaits : List Alloc → List Alloc → List Alloc
  | _, [] => []
  | seen, w :: t => if seen.any (samePart w) then oldestWaits seen t else w :: oldestWaits (w :: seen) t

/-- The oldest request of a partition is offered the storage: it is placed if it fits, and its strand granted the tile (R97,
R272). A head that now fits, for which the settle table is full, leaves the list: its TALLOC.v issues again and meets R429. -/
def offerWait (n : Nat) (s : State) (w : Alloc) : State :=
  let leave (s : State) : State := onUnit s n (fun u => { u with waits := u.waits.erase w })
  match placeFor s n w with
  | some (at_, skip) =>
    if headsFull s w then leave s
    else
      let (s, h) := placeReq (leave s) n w at_ skip
      onStrand s ⟨w.core, w.sx⟩ (grantTile w h)
  | none => s

/-- Offers storage to the oldest waiting request of each partition (R97). -/
def serveWaits (s : State) (n : Nat) : State := (oldestWaits [] (unitAt s n).waits).foldl (offerWait n) s

/-- Would an offer of storage change something at the unit? R97 offers when storage returns or the tail advances. DESIGN CHOICE: a
request that becomes its partition's oldest, by a placement, a withdrawal or an expiry, is offered what is free in that cycle (log
90). -/
def mayOffer (s : State) (n : Nat) : Bool := (oldestWaits [] (unitAt s n).waits).any (fun w => (placeFor s n w).isSome)

/-- The tile of a draw returns after every draw of the cycle has been counted (R101). -/
def settleReq (s : State) (r : PoolReq) : State :=
  match r.op with
  | .draw h => settleHandle s r.core (jobAt s r.job).ctx h
  | _ => s

/-- The operations up to a class that have reached a unit act, and the tiles whose draws they count return (R101). -/
def applyOps (lim : Nat) (s : State) (n : Nat) : State :=
  let l := (unitAt s n).inbox
  let now := cycleOrder (l.filter (fun r => decide (opClass r.op ≤ lim)))
  let s := onUnit s n (fun u => { u with inbox := l.filter (fun r => decide (lim < opClass r.op)) })
  now.foldl settleReq (now.foldl applyReq s)

/-- The operations that have reached a unit act (R101): raises, draws with the tiles they return, the others. -/
def applyInbox (s : State) (n : Nat) : State := applyOps 5 (applyOps 2 (applyOps 0 s n) n) n

/-- One cycle of a unit (R101): the operations that have reached it, then waiting requests. -/
def unitCycle (s : State) (n : Nat) : State := serveWaits (applyInbox s n) n

/-- Takes the waiting requests of a strand that a test names out of every list. -/
def withdrawIf (s : State) (a : At) (f : Alloc → Bool) : State :=
  let mine (w : Alloc) : Bool := w.core == a.c && w.sx == a.x && f w
  { s with units := s.units.map (fun u =>
      if u.2.waits.any mine then (u.1, { u.2 with waits := u.2.waits.filter (fun w => !mine w) }) else u) }

/-- Withdraws the request of the TALLOC at a pc (R425). -/
def withdrawAt (s : State) (a : At) (pc : Nat) : State := withdrawIf s a (fun w => w.pc == pc)

/-- Withdraws every TALLOC request of a strand, wherever it stands (R272, R292). -/
def withdrawAlloc (s : State) (a : At) : State := withdrawIf s a (fun _ => true)

/-- Is a request of the strand's TALLOC at a pc waiting? -/
def allocWaits (s : State) (a : At) (pc : Nat) : Bool :=
  s.units.any (fun u => u.2.waits.any (fun w => w.core == a.c && w.sx == a.x && w.pc == pc))

end Sys2Proof.Machine
end

