-- ==== Sys2Proof/Machine/Tasks.lean ====
section
/-! DEFINITION. The error log (R436 to R438), the life of a task (R22 to R27, R105, R112, R185, R445) and the deque (R25). -/

namespace Sys2Proof.Machine

/-! ## The error log -/

/-- An error record's 32 bytes (R437). -/
def errorRecord (s : State) (code level : Nat) (a : Option At) (job a0 a1 : Nat) : List Byte :=
  let who := match a with
    | some a => 2 ^ 52 + place (ctxOf s a) 48 4 + place (a.c / 48) 42 6 + place (a.c % 48) 36 6 + place a.x 34 2
    | none => 0
  leBytes 32 (place a1 192 64 + place a0 128 64 + place s.cycle 64 64 + place code 56 8 + place level 53 3 + who
    + place (jobAt s job).id 0 32)

/-- Writes an error record at head, or drops it when the ring is full (R438). -/
def logErrorJob (s : State) (code level : Nat) (a : Option At) (job : Option Nat) (a0 a1 : Nat) : State :=
  let d := s.dev
  if d.elbase = 0 ∨ d.elsize < 2 then s
  else if (d.elhead + 1) % d.elsize = d.eltail then { s with dev := { d with eldrop := Nat.min (2 ^ 32 - 1) (d.eldrop + 1) } }
  else
    let rec_ := match job with
      | some j => errorRecord s code level a j a0 a1
      | none => leBytes 32 (leNat (errorRecord s code level a 0 a0 a1) / 2 ^ 32 * 2 ^ 32)
    let s := storeN s (d.elbase + 32 * d.elhead) rec_
    { s with dev := { d with elhead := (d.elhead + 1) % d.elsize, intr := if d.elien = 1 then d.intr + 1 else d.intr } }

/-- Logs an error that names a strand. -/
def logStrand (s : State) (code level : Nat) (a : At) (a0 a1 : Nat) : State :=
  logErrorJob s code level (some a) (some (jobOf s a)) a0 a1

/-- Logs an error that names no strand. -/
def logPlain (s : State) (code level a0 a1 : Nat) : State := logErrorJob s code level none none a0 a1

/-! ## Entries and tasks that end -/

/-- An entry is discarded: its `.draw` operands leave pend (R112, R385). -/
def dropEntry (s : State) (a : At) (e : Entry) : State :=
  if e.drawn then e.draws.foldl (fun s d => dropPend s a.c (jobAt s e.job).ctx d.h 1) s else s

/-- FIFOs of the TAKE bits of a queue's words. -/
def takeFifos (q m : Nat) : List Nat :=
  let row := [[6, 7], [0, 3], [1, 2], [4, 5]].getD q []
  (setBits 3 m).filterMap (fun i => row[i]?)

/-- Is the entry an MGO? -/
def isMgo (e : Entry) : Bool := match e.op with | .mgo _ => true | _ => false

/-- A member leaves a multicast stream (R252): its bit goes from the peers that run it; a peer that has not begun keeps bit
48 + core, so that it will not wait for the member. -/
def leaveStream (s : State) (c mask : Nat) : State :=
  if mask = 0 then s
  else ((setBits 48 mask).filter (· != c % 48)).foldl (fun s j =>
    let p := c / 48 * 48 + j
    let runs := match queueAt s p 2 with
      | h :: _ => h.begun && (match h.op with | .mgo m => m == mask | _ => false)
      | [] => false
    onCore s p (fun k =>
      let b := 2 ^ (if runs then c % 48 else 48 + c % 48)
      { k with streamMask := if runs then k.streamMask - (if bit k.streamMask (c % 48) then b else 0) else Nat.lor k.streamMask b }))
    (onCore s c (fun k => { k with streamMask := k.streamMask / 2 ^ 48 * 2 ^ 48 }))

/-- Members of an MGO's multicast stream that have not requested its next block (R252). -/
def streamWaits (s : State) (c : Nat) (e : Entry) (mask : Nat) : Nat :=
  ((setBits 48 (coreAt s c).streamMask).filter (fun j =>
    let p := c / 48 * 48 + j
    match queueAt s p 2 with
    | h :: _ => !(h.begun && (match h.op with | .mgo m => m == mask | _ => false) && e.prog.red ≤ h.prog.red)
    | [] => true)).foldl (fun m j => m + 2 ^ j) 0

/-- A shadow writer that began behind an MGO counts as not begun (R244); the tokens it took are back. -/
def unbegin (s : State) (c : Nat) (e : Entry) : State :=
  if !e.begun then s
  else (takeFifos 2 e.take).foldl (fun s f =>
    onStrand (setFifo s c f (fifoAt s c f ++ [e.sx])) ⟨c, e.sx⟩
      (fun t => { t with took := tabPut t.took f ((tabGet 0 t.took f + 2 ^ 32 - 1) % 2 ^ 32) })) s

/-- Does the entry write shadow state alone (R244)? -/
def shadowWriter (e : Entry) : Bool := match e.op with | .mlt _ | .mmask _ | .mldw .. => true | _ => false

/-- Has the entry begun behind the head of MQ (R244)? Those that a test names count as not begun. -/
def unbeginBehind (s : State) (c : Nat) (h : Entry) (t : List Entry) (p : Entry → Bool) : State :=
  let back (e : Entry) : Bool := e.begun && shadowWriter e && e.fault.isNone && p e
  setQueue ((t.filter back).foldl (fun s e => unbegin s c e) s) c 2
    (h :: t.map (fun e => if back e then { e with begun := false, ended := false } else e))

/-- The matrix entries of a strand stop: its MGO in progress leaves its stream, and the shadow writers that began behind it
have not begun (R244, R252); nor have the strand's own that began behind another strand's MGO, whose write ERET does again. -/
def stopMatrix (s : State) (a : At) : State :=
  match queueAt s a.c 2 with
  | h :: t =>
    if h.begun && h.sx == a.x && !h.ended then
      (match h.op with
      | .mgo m => leaveStream (unbeginBehind s a.c h t (fun _ => true)) a.c m
      | _ => s)
    else if t.any (fun e => e.begun && e.sx == a.x) then unbeginBehind s a.c h t (fun e => e.sx == a.x)
    else s
  | [] => s

/-- Takes a strand's entries out of its core's queues. -/
def clearEntries (s : State) (a : At) : State :=
  [0, 1, 2, 3].foldl (fun s q =>
    if (queueAt s a.c q).any (fun e => e.sx == a.x) then setQueue s a.c q ((queueAt s a.c q).filter (fun e => e.sx != a.x))
    else s) s

/-- Discards every entry of a strand, those of its trap frames among them (R386). -/
def discardEntries (s : State) (a : At) : State :=
  let s := stopMatrix s a
  let es := strandEntries s a ++ (strandAt s a).frames.flatMap (·.entries) ++ (strandAt s a).repush
  clearEntries (es.foldl (fun s e => dropEntry s a e) s) a

/-- A strand whose registers are at reset, with its context's share and vectors. -/
def emptied (t : Strand) : Strand :=
  { Strand.reset with
    status := if t.holder.isSome then .idle else .free
    tvec := t.tvec, evec := t.evec, wlim := t.wlim, segbud := t.segbud
    holder := t.holder, share := t.share, cls := t.cls }

/-- The strand state after a task's end: its context is idle while a job holds it, else free; the registers stand until
the next task's start (R20, R22, R23). -/
def vacated (t : Strand) : Strand :=
  { emptied t with
    pc := t.pc, g := t.g, p := t.p, k := t.k, e := t.e, lc := t.lc, tcause := t.tcause, tpc := t.tpc, targ := t.targ
    tcut := t.tcut, push := t.push, done := t.done, depth := t.depth, gave := t.gave, took := t.took }

/-- Marks the tiles of a stopped run that are still live (R432, class 0x5C). -/
def orphanTiles (s : State) (c ctx : Nat) (l : List Nat) : State :=
  l.foldl (fun s h => match tileAt s (unitOf c h) ctx h with
    | some t => putTile s (unitOf c h) { t with orphan := true }
    | none => s) s

/-- Shared end of a task: tokens and result entries withdrawn and counted, requests withdrawn, its join counted, its run
ended, its context idle (R24, R26, R112, R185). -/
def closeTask (s : State) (a : At) : State :=
  let t := strandAt s a
  match t.task with
  | none => s
  | some k =>
    let ctx := ctxOf s a
    let s := onStrand s a endTurn
    let (s, n) := withdrawTokens s a
    let s := reclaim s k.job 7 (n + t.resq.length)
    let s := unpark (withdrawAlloc s a) a
    let s := match k.run with
      | some (h, i, tile) => endRun s a.c ctx k.job h i tile
      | none => s
    let s := joinChild s k.parent
    let s := onJob s k.job (fun b => { b with live := b.live - 1 })
    dropTurn (onStrand s a vacated) a

/-- A task ends by the retirement of its HALT (R185): its deferred draws have been counted. -/
def retireTask (s : State) (a : At) : State := closeTask (discardEntries s a) a

/-- A task ends otherwise: its deferred list is dropped uncounted (R105), its entries discarded. -/
def abortTask (s : State) (a : At) : State :=
  let s := discardEntries s a
  let s := match (strandAt s a).task with
    | some k => dropDeferred s a.c (ctxOf s a) k.deferred
    | none => s
  closeTask s a

/-- A task ends with a code of R392, which its job's status keeps, and a record of a level with its first argument (R433). -/
def endWith (s : State) (a : At) (code level a0 : Nat) : State :=
  let j := jobOf s a
  logStrand (abortTask (noteEnd s j code) a) code level a a0 0

/-- A task ends with a code of R392 at its strand's pc (R387, R444). -/
def endByCause (s : State) (a : At) (code : Nat) : State := endWith s a code 1 (strandAt s a).pc.toNat

/-- A run that is to stop reaches its strand's point (R112): nothing more of it issues, and its waits are withdrawn. -/
def reachStop (s : State) (a : At) : State :=
  let s := unpark (withdrawAlloc s a) a
  dropTurn (onStrand s a (fun t => { endTurn t with atStop := true, status := .ready, wait := none, pendTrap := none })) a

/-- A run ends at its stop point, its engines having reached theirs (R112). -/
def stopRun (s : State) (a : At) : State :=
  let s := match (strandAt s a).task with
    | some k => orphanTiles s a.c (ctxOf s a) k.tiles
    | none => s
  abortTask s a

/-! ## Hardware errors (R448, R449) -/

/-- The front is to end a job by R445 with a code. -/
def killJob (s : State) (j code : Nat) : State := onJob (noteEnd s j code) j (fun b => { b with killed := true })

/-- The task of a strand is re-executed (R448), or, at the fourth time or with more than 64 grants, its job is ended. -/
def reexecute (s : State) (a : At) (k : Task) : State :=
  let j := k.job
  let ctx := ctxOf s a
  if 3 ≤ k.attempts ∨ 64 < k.grants.length then
    killJob (abortTask (logStrand s 0x96 2 a 0 0) a) j 0x96
  else
    let s := logStrand s 0x95 1 a 0 0
    let s := orphanTiles s a.c ctx k.tiles
    let s := dropDeferred (discardEntries s a) a.c ctx k.deferred
    let s := onStrand s a endTurn
    let (s, n) := withdrawTokens s a
    let s := reclaim s j 7 (n + (strandAt s a).resq.length)
    let s := unpark (withdrawAlloc s a) a
    let s := match k.run with
      | some (h, i, tile) => onJob (refireRun s a.c ctx j h i tile) j (fun b => { b with live := b.live - 1 })
      | none => { s with reruns := s.reruns ++
          [({ k with deferred := [], tiles := [], grants := [], regrants := k.grants ++ k.regrants, attempts := k.attempts + 1 }, a.c)] }
    dropTurn (onStrand s a vacated) a

/-- The core whose storage an uncorrectable error of a strand of core c lies in. -/
def errorCore (c : Nat) (e : Cause) : Nat := if bits e.a0 60 4 = 3 then c / 48 * 48 + bits e.a0 20 6 else c

/-- Is the code an uncorrectable error that names a strand? -/
def isHardware (code : Nat) : Bool := decide (0xC0 ≤ code) && decide (code ≤ 0xC6)

/-- The fence that an uncorrectable error in a core's storage sets (R449). -/
def fenceFor (s : State) (c : Nat) (e : Cause) : State :=
  if e.code = 0xC0 ∨ (0xC3 ≤ e.code ∧ e.code ≤ 0xC5) then onCore s (errorCore c e) (fun k => { k with fenced := true }) else s

/-! ## Starting a task (R22, R23) -/

/-- The strand of a task that starts (R23, R148): trap and event vectors, WLIM and the context's share stay. -/
def startStrand (t : Strand) (k : Task) (pc : Nat) (g : List Dword) (shapes : Tab Nat) (cycleSlot : Nat) : Strand :=
  { emptied t with
    status := .ready
    pc := BitVec.ofNat 52 pc
    g := (List.range 4).map (fun i => (i + 1, g.getD i 0))
    e := shapes
    slot := cycleSlot
    task := some k }

/-- A fresh task number. -/
def newTask (s : State) : State × Nat := ({ s with taskNext := s.taskNext + 1 }, s.taskNext)

/-- Starts a card task on an idle context (R23, R342). -/
def startCard (s : State) (a : At) (j : Nat) : State :=
  let b := jobAt s j
  let cx := ctxAt s b.ctx
  let (s, id) := newTask s
  let k : Task := ⟨j, 0, id, none, true, b.restart, [], none, [], b.entry, b.card, [], [], [], 0⟩
  let s := onStrand s a (fun t => startStrand { t with tvec := cx.tvecd, evec := cx.evecd, wlim := cx.wlimd } k b.entry
    [.ofNat 64 b.card, .ofNat 64 b.records, .ofNat 64 b.rsize, .ofNat 64 b.id] [] 0)
  onJob s j (fun b => { b with pending := tabPut b.pending a.c (tabGet 0 b.pending a.c - 1) })

/-- Starts the task of a deque entry (R23, R110). A run takes the version current at its start; it is restartable by its job's
card or by its policy (R104). -/
def startEntry (s : State) (a : At) (e : DqEntry) : State :=
  let b := jobAt s e.job
  let (s, id) := newTask s
  match e.run with
  | some (h, i) =>
    let pol := match headAt s (unitOf a.c h) b.ctx h with
      | some hd => (match hd.subs[i]? with | some u => u.policy | none => 0)
      | none => 0
    let (s, tile, ver) := startRun s a.c b.ctx h i
    let k : Task := ⟨e.job, 1, id, none, false, b.restart || decide (pol < 2), [], some (h, i, tile), [], e.entry, e.arg, [], [], [], runTries s a.c b.ctx h i⟩
    let s := onStrand s a (fun t => startStrand t k e.entry [.ofNat 64 e.arg, .ofNat 64 tile, .ofNat 64 ver, .ofNat 64 b.id] [] 0)
    onJob s e.job (fun b => { b with live := b.live + 1 })
  | none =>
    let k : Task := ⟨e.job, e.depth, id, e.parent, false, b.restart, [], none, [], e.entry, e.arg, e.shapes, [], [], 0⟩
    onStrand s a (fun t => startStrand t k e.entry [.ofNat 64 e.arg, 0, 0, .ofNat 64 b.id] e.shapes 0)

/-- A strand that goes on at context x: the entries it holds outside the queues are that context's (R310, R385). -/
def rebind (x : Nat) (t : Strand) : Strand :=
  let mine (l : List Entry) : List Entry := l.map (fun e => { e with sx := x })
  { t with repush := mine t.repush, aside := mine t.aside, frames := t.frames.map (fun f => { f with entries := mine f.entries }) }

/-- Resumes an evicted task from its join frame (R26): latches read zero. DESIGN CHOICE: R26 does not name TCUT0 to TCUT3 among what
the frame holds; they come back with the strand (log 91). -/
def resumeFrame (s : State) (a : At) (f : JoinFrame) : State :=
  onStrand s a (fun t => { rebind a.x f.strand with
    status := .ready, y := [0, 0, 0, 0], segbud := t.segbud, holder := t.holder, share := t.share, cls := t.cls
    wait := none, bubble := 0 })

/-! ## The deque (R25) -/

/-- The slot a push by a task of depth d may take: none for a general slot, its reserved slot, or nothing (R25). -/
def dequeSlot (k : Core) (d : Nat) : Option (Option Nat) :=
  if generalUsed k < 56 then some none
  else if d ≤ 7 ∧ !(k.deque.any (fun e => e.slot = some d)) then some (some d)
  else none

/-- Pushes an entry at the head (R25); the deque has served its operation of the cycle (R27). -/
def dequePush (s : State) (c : Nat) (e : DqEntry) : State :=
  onCore s c (fun k => { k with deque := { e with stamp := k.dqStamp } :: k.deque, dqStamp := k.dqStamp + 1,
                                dqPushes := k.dqPushes + 1, dqBusy := true })

/-- Takes one entry out of a deque; the deque has served its operation of the cycle (R27). -/
def dequeTake (s : State) (c : Nat) (stamp : Nat) : State :=
  onCore s c (fun k => { k with deque := k.deque.filter (fun e => e.stamp != stamp), dqPops := k.dqPops + 1, dqBusy := true })

/-- The entry of a job nearest the head, or nearest the tail. -/
def dequeFind (k : Core) (job : Nat) (tail : Bool) : Option DqEntry :=
  let l := k.deque.filter (fun e => e.job == job)
  if tail then l.getLast? else l.head?

/-- Join frames of a core in use under a context (R26). -/
def framesUsed (s : State) (c ctx : Nat) : Nat := ((coreAt s c).joins.filter (fun f => f.ctx == ctx)).length

/-- The evicted task of a job on a core whose join counter is zero (R22 source 1); a parent of an inline child waits for
that child as if it were joined (R25), under a counter of its own. -/
def readyFrame (s : State) (a : At) (job : Nat) : Option (Nat × JoinFrame) :=
  (((coreAt s a.c).joins.zipIdx).find? (fun p =>
    p.1.job == job && (match p.1.inline, p.1.strand.task with
      | some n, _ => joinCount s n == 0
      | none, some k => joinCount s k.id == 0
      | none, none => false))).map (fun p => (p.2, p.1))

end Sys2Proof.Machine
end

