-- ==== Sys2Proof/Machine/Xlate.lean ====
section
/-! DEFINITION. Translation of global virtual addresses (R57 to R61, R416 to R418), far pages and page copies (R62 to R66,
R208, R419). -/

namespace Sys2Proof.Machine

/-- Bytes of a page by its size code (R64). -/
def pageSize (psz : Nat) : Nat := if psz = 0 then 2 ^ 16 else if psz = 1 then 2 ^ 21 else 2 ^ 30

/-- First byte of the page that holds va. -/
def pageBase (psz va : Nat) : Nat := va / pageSize psz * pageSize psz

/-- Lowest index bit and index width of each level (R58). -/
def levelShift (l : Nat) : Nat × Nat := [(40, 12), (30, 10), (21, 9), (16, 5)].getD l (0, 0)

/-- Alignment of the table that an entry of a level points to (R58). -/
def nextAlign (l : Nat) : Nat := if l = 0 then 2 ^ 13 else if l = 1 then 2 ^ 12 else 256

/-- Size code of a leaf at a level (R58). -/
def leafPsz (l : Nat) : Nat := if l = 1 then 2 else if l = 2 then 1 else 0

/-- The frame or table address of an entry (R59). -/
def pteAddr (e : Nat) : Nat := bits e 8 36 * 256

/-- Is an entry malformed at a level (R416)? -/
def pteBad (l e : Nat) : Bool :=
  let leaf := bit e 1
  bits e 58 6 ≠ 0 || (bits e 44 14 ≠ 0 && !bit e 7) || (leaf && l = 0) || (!leaf && l = 3) ||
    pteAddr e % (if leaf then pageSize (leafPsz l) else nextAlign l) ≠ 0

/-- Walks from a table at a level on: the leaf, its physical address and its page size (R58, R416). -/
def walkFrom (s : State) (va : Nat) : Nat → Nat → Nat → Except Cause (Nat × Nat × Nat)
  | 0, _, _ => .error ⟨0x28, va, 0, 0⟩
  | f + 1, l, table =>
    let (sh, w) := levelShift l
    let pa := table + 8 * bits va sh w
    let e := loadNat s pa 8
    if !bit e 0 then .error ⟨0x28 + l, va, pa, 0⟩
    else if pteBad l e then .error ⟨0x2C + l, va, pa, e⟩
    else if bit e 1 then .ok (e, pa, leafPsz l)
    else walkFrom s va f (l + 1) (pteAddr e)

/-- A frame in the tool zone (R352). -/
def inToolZone (s : State) (frame : Nat) : Bool :=
  decide (s.dev.tzBase * 2 ^ 30 ≤ frame) && decide (frame < (s.dev.tzBase + s.dev.tzSize) * 2 ^ 30)

/-- A whole walk under a context (R58), with the tool-zone check (R418). -/
def walk (s : State) (ctx va : Nat) : Except Cause (Nat × Nat × Nat) :=
  match walkFrom s va 4 0 (ctxAt s ctx).ptroot with
  | .error e => .error e
  | .ok (e, pa, psz) => if bit e 5 && inToolZone s (pteAddr e) then .error ⟨0x30, va, pteAddr e, psz⟩ else .ok (e, pa, psz)

/-- Does a TLB entry serve va under a context? -/
def tlbHit (ctx va : Nat) (t : Tlb) : Bool := t.ctx == ctx && t.page == va / pageSize t.psz

/-- Adds an entry, dropping the oldest beyond the size (R60, log 11). -/
def tlbAdd (size : Nat) (l : List Tlb) (t : Tlb) : List Tlb :=
  let l := l ++ [t]
  if size < l.length then l.drop 1 else l

/-- The set of the second-level TLB that holds a page (R60: 2,048 sets of 8 ways; log 11). -/
def tlbSet (t : Tlb) : Nat := t.page % 2048

/-- Adds an entry to the second-level TLB, dropping the oldest of its set beyond 8 ways (R60, log 11). -/
def tlbAdd8 (l : List Tlb) (t : Tlb) : List Tlb :=
  if (l.filter (fun x => tlbSet x == tlbSet t)).length < 8 then l ++ [t]
  else l.eraseIdx (l.findIdx (fun x => tlbSet x == tlbSet t)) ++ [t]

/-- The TLB entry that serves va without a walk (R60): the core's, or the die's, which then fills the core's. -/
def tlbLook (s : State) (c ctx va : Nat) : Option (State × Tlb) :=
  match (coreAt s c).tlb.find? (tlbHit ctx va) with
  | some t => some (s, t)
  | none => match (dieAt s (c / 288)).tlb.find? (tlbHit ctx va) with
    | some t => some (onCore s c (fun k => { k with tlb := tlbAdd 256 k.tlb t }), t)
    | none => none

/-- The TLB entry that serves va, or, for an access whose walk has ended, what the walk gives; it fills both levels (R60, R417). -/
def tlbFor (s : State) (c ctx va : Nat) : Except Cause (State × Tlb) :=
  match tlbLook s c ctx va with
  | some r => .ok r
  | none =>
    match walk s ctx va with
    | .error e => .error e
    | .ok (e, pa, psz) =>
      let t : Tlb := ⟨ctx, psz, va / pageSize psz, e, pa⟩
      let s := onDie s (c / 288) (fun k => { k with tlb := tlbAdd8 k.tlb t })
      .ok (onCore s c (fun k => { k with tlb := tlbAdd 256 k.tlb t }), t)

/-- The far-tier port in whose range a frame lies (R57). -/
def portOf (frame : Nat) : Nat := if frame < 0xC0000000000 then 0 else 1

/-- Does the decoder of a port map a far frame of a size code (R57, R349; log 80)? -/
def farMapped (s : State) (frame psz : Nat) : Bool :=
  decide (0x80000000000 ≤ frame) && decide (frame % 2 ^ 42 + pageSize psz ≤ nth s.hdm (portOf frame))

/-- Where a translated access goes. -/
inductive Xl where
  /-- A local physical location. -/
  | ok (loc : Nat)
  /-- A far page: its first byte, size code and frame (R62). -/
  | far (base psz frame : Nat)
  /-- The symmetric heap of a rank of the domain (R319). -/
  | fab (lidx : Nat)
  deriving DecidableEq, Repr

/-- The checks of a leaf in the order of R416 and what the access then meets. -/
def leafCheck (s : State) (t : Tlb) (va : Nat) (wr fetch : Bool) : Except Cause Xl :=
  let e := t.leaf
  let frame := pteAddr e
  if wr && !bit e 2 then .error ⟨0x27, va, t.pa, 0⟩
  else if fetch && !bit e 3 then .error ⟨0x26, va, t.pa, 0⟩
  else if bit e 7 then (if 9215 < bits e 44 14 then .error ⟨0x38, va, bits e 44 14, 0⟩ else .ok (.fab (bits e 44 14)))
  else if bit e 4 then
    if farMapped s frame t.psz then .ok (.far (pageBase t.psz va) t.psz frame) else .error ⟨0x31, va, frame, t.psz⟩
  else if 0x9000000000 ≤ frame && frame < 0x80000000000 then .error ⟨0x3E, va, frame, t.psz⟩
  else .ok (.ok (frame + va % pageSize t.psz))

/-- Translates one access of a core under a context (R58 to R63, R416). -/
def translate (s : State) (c ctx va : Nat) (wr fetch : Bool) : Except Cause (State × Xl) :=
  match tlbFor s c ctx va with
  | .error e => .error e
  | .ok (s, t) => match leafCheck s t va wr fetch with
    | .error e => .error e
    | .ok x => .ok (s, x)

/-- Translation by the front, the host or the stream controller, without a TLB: the location, a far page at its far-tier
frame (R346). -/
def translateFlat (s : State) (ctx va : Nat) (wr : Bool) : Except Cause (Nat × Bool) :=
  match walk s ctx va with
  | .error e => .error e
  | .ok (e, pa, psz) => match leafCheck s ⟨ctx, psz, va / pageSize psz, e, pa⟩ va wr false with
    | .error e => .error e
    | .ok (.ok l) => .ok (l, false)
    | .ok (.far _ _ f) => .ok (f + va % pageSize psz, true)
    | .ok (.fab l) => .error ⟨0xA2, va, l, 0⟩

/-- Invalidates every TLB entry of a page, by its leaf's address (R65, R66, R344). -/
def invalidatePage (s : State) (pte : Nat) : State :=
  { s with
    cores := s.cores.map (fun k => if k.2.tlb.any (fun t => t.pa == pte) then
      (k.1, { k.2 with tlb := k.2.tlb.filter (fun t => t.pa != pte) }) else k)
    dies := s.dies.map (fun k => if k.2.tlb.any (fun t => t.pa == pte) then
      (k.1, { k.2 with tlb := k.2.tlb.filter (fun t => t.pa != pte) }) else k) }

/-- Invalidates the TLB entries that serve an address of a context, found without a walk (R344). -/
def invalidateVa (s : State) (ctx va : Nat) : State :=
  { s with
    cores := s.cores.map (fun k => (k.1, { k.2 with tlb := k.2.tlb.filter (fun t => !tlbHit ctx va t) }))
    dies := s.dies.map (fun k => (k.1, { k.2 with tlb := k.2.tlb.filter (fun t => !tlbHit ctx va t) })) }

/-- Releases the entries and strands held on a page of a context: they translate again (R65, R344). -/
def releaseHeld (s : State) (ctx va psz : Nat) (strandsToo : Bool) : State :=
  let on (v : Nat) : Bool := pageBase psz v == pageBase psz va
  { s with cores := s.cores.map (fun kc =>
      let k := kc.2
      let ent (e : Entry) : Entry := match e.wait with
        | .far v => if on v && (jobAt s e.job).ctx == ctx then { e with wait := .none } else e
        | _ => e
      let str (x : Nat × Strand) : Nat × Strand := match x.2.wait with
        | some ⟨.far v, _, _, _⟩ =>
          if strandsToo && on v && ctxOf s ⟨kc.1, x.1⟩ == ctx then (x.1, { x.2 with wait := none }) else x
        | _ => x
      (kc.1, { k with queues := k.queues.map (fun q => (q.1, q.2.map ent)), strands := k.strands.map str })) }

/-- Does an address of a context lie in the page whose leaf entry is at pte, wherever its frame lies? -/
def inPage (s : State) (ctx va pte : Nat) : Bool :=
  match walkFrom s va 4 0 (ctxAt s ctx).ptroot with | .ok (_, p, _) => p == pte | .error _ => false

/-- Does a walk serve an address of a context (R61)? It does where both lie in one 64 KiB page, or in one larger page. -/
def walkServes (s : State) (ctx va : Nat) (w : Walk) : Bool :=
  w.ctx == ctx && (w.va / 65536 == va / 65536 || (match walk s ctx w.va with | .ok (_, pte, _) => inPage s ctx va pte | .error _ => false))

/-- The misses that a die's second-level TLB holds (R61). -/
def missCount (d : Die) : Nat := d.walks.foldl (fun n w => n + w.who.length) 0

/-- A miss joins the walks of its die (R61): merged onto a walk of its page, else in the order of arrival, the first 16 of them in
flight. While all 512 slots are full it waits at its core. Who waits is 8 × core + queue, or 8 × core + 4 + context. -/
def joinMiss (s : State) (c ctx va who : Nat) : State :=
  let here (w : Walk) : Bool := w.who.any (fun p => p.1 == who && p.2 == va)
  onDie s (c / 288) (fun d =>
    if d.walks.any here || decide (512 ≤ missCount d) then d
    else match d.walks.findIdx? (walkServes s ctx va) with
      | some i => { d with walks := d.walks.modify i (fun w => { w with who := w.who ++ [(who, va)] }) }
      | none => { d with walks := d.walks ++ [⟨ctx, va, false, [(who, va)], s.cycle⟩] })

/-- Does a strand's access or fetch at va miss both TLBs, with no failed walk of it at hand (R60, R61)? -/
def ccMiss (s : State) (a : At) (va : Nat) : Bool :=
  (tlbLook s a.c (ctxOf s a) va).isNone && (strandAt s a).walked != some va

/-- An access or fetch of a strand waits for its page walk (R61). -/
def awaitWalk {α : Type} (s : State) (a : At) (va : Nat) : Act α := goOnWaiting (joinMiss s a.c (ctxOf s a) va (8 * a.c + 4 + a.x)) a

/-- Releases every entry and strand held on the page whose leaf entry is at pte, of whatever context: they translate again
(R65, R419). -/
def releasePage (s : State) (pte : Nat) : State :=
  { s with cores := s.cores.map (fun kc =>
      let ent (e : Entry) : Entry := match e.wait with
        | .far v => if inPage s (jobAt s e.job).ctx v pte then { e with wait := .none } else e
        | _ => e
      let str (x : Nat × Strand) : Nat × Strand := match x.2.wait with
        | some ⟨.far v, _, _, _⟩ => if inPage s (ctxOf s ⟨kc.1, x.1⟩) v pte then (x.1, { x.2 with wait := none }) else x
        | _ => x
      (kc.1, { kc.2 with queues := kc.2.queues.map (fun q => (q.1, q.2.map ent)), strands := kc.2.strands.map str })) }

/-- Is a page-in of the page in progress, on any core (R65)? -/
def pageInOf (s : State) (pte : Nat) : Bool := s.cores.any (fun k => k.2.pages.any (fun p => p.pte == pte))

/-- The entries that a strand keeps outside the queues: those of its frames, those that a return has still to push, and those
that a stop of its job has taken out. -/
def strandHeld (t : Strand) : List Entry := t.frames.flatMap (·.entries) ++ t.repush ++ t.aside

/-- The entries of SQ of a core, standing, stopped by a trap, or saved. -/
def pageOutEntries (k : Core) : List Entry :=
  tabGet [] k.queues 3 ++ k.strands.flatMap (fun t => strandHeld t.2) ++ k.joins.flatMap (fun f => strandHeld f.strand)
    ++ k.saved.flatMap (fun v => v.strands.flatMap (fun x => x.entries ++ strandHeld x.strand))

/-- Is a page-out of the page with its leaf entry at pte in progress, on any core (R208)? It has written the entry, which
prog.acc keeps, and has not completed; a stop or a save does not end it. -/
def pageOutOf (s : State) (pte : Nat) : Bool :=
  s.cores.any (fun k => (pageOutEntries k.2).any (fun e => match e.op with
    | .pgout _ _ => !e.prog.acc.isEmpty && nth e.prog.acc 1 == pte
    | _ => false))

/-- Lets the oldest waiting copies of a page path run, four at most (R208). -/
def runPages (s : State) (c : Nat) : State :=
  let go (r : List PageCopy × Nat) (p : PageCopy) : List PageCopy × Nat :=
    if p.running then (r.1 ++ [p], r.2)
    else if p.merged then (r.1 ++ [p], r.2)
    else if 0 < r.2 ∧ !pageOutOf s p.pte then (r.1 ++ [{ p with running := true }], r.2 - 1)
    else (r.1 ++ [p], r.2)
  let l := (coreAt s c).pages
  let busy := (l.filter (fun p => p.running)).length
  onCore s c (fun k => { k with pages := (l.foldl go ([], 4 - busy)).1 })

/-- A page copy joins a core's page path (R65, R208). -/
def startPageIn (s : State) (c : Nat) (p : PageCopy) : State :=
  let merged := pageInOf s p.pte
  runPages (onCore s c (fun k => { k with pages := k.pages ++ [{ p with merged := merged, running := false }] })) c

/-- The frame an autopage copy takes from the context's ring (R65, R342): its address, with the head moved on. -/
def takeFrame (s : State) (ctx : Nat) : Option (State × Nat) :=
  let x := ctxAt s ctx
  if x.pgsize = 0 ∨ x.pghead = x.pgtail then none
  else match translateFlat s ctx (x.pgring + 8 * x.pghead) false with
    | .ok (loc, _) => some (onCtx s ctx (fun x => { x with pghead := (x.pghead + 1) % x.pgsize }), loadNat s loc 8)
    | .error _ => none

/-- Is the port of a far frame available (R419)? -/
def portUp (s : State) (frame : Nat) : Bool := s.ports.getD (portOf frame) false

/-- An autopage page-in of a job's tier-miss (R65): merged onto one in progress, or with a frame of the ring; its
refusals are those of R419. -/
def autoPage (s : State) (c ctx sx va : Nat) : Except Cause State :=
  match walk s ctx va with
  | .error e => .error e
  | .ok (e, pte, psz) =>
    let base := pageBase psz va
    let p : PageCopy := ⟨ctx, base, psz, pte, 0, true, sx, 0, false, false⟩
    if pageInOf s pte then .ok (startPageIn s c p)
    else if !portUp s (pteAddr e) then .error ⟨0x33, base, portOf (pteAddr e), psz⟩
    else match takeFrame s ctx with
      | some (s, f) => .ok (startPageIn s c { p with frame := f })
      | none => .error ⟨0x36, base, 0, psz⟩

end Sys2Proof.Machine
end

