-- ==== Sys2Proof/Machine/Ops.lean ====
section
/-! DEFINITION. Issue of a CC instruction (R143, R144, R399, R400), taking a trap (R377 to R391) and returning from one
(R385). -/

namespace Sys2Proof.Machine

/-! ## The trap frame (R382, R383) -/

/-- Bits of a predicate file, p1 in bit 1. -/
def pBits (t : Strand) : Nat := (List.range 8).foldl (fun acc i => acc + b2n (i ≠ 0 && pVal t i) * 2 ^ i) 0

/-- The save area of a core under a context: its physical address (R342). -/
def saveArea (s : State) (ctx c : Nat) : Nat := (ctxAt s ctx).savebase + 2 ^ 21 * c

/-- A frame of n bytes is written at a location in a layout that the spec leaves open: free bytes (log 8, log 10). -/
def writeUndefined (s : State) (loc n : Nat) : State :=
  let s := if s.poison.isEmpty then s else clearPoison s loc n
  { s with mem := s.mem.free loc n s.freeCount, freeCount := s.freeCount + 1 }

/-- Is the save area of a core under a context outside HBM, so that no save, frame or trap frame can be written there (R12,
R444)? -/
def areaOutside (s : State) (ctx c : Nat) : Bool := decide (0x9000000000 < saveArea s ctx c + 2 ^ 21)

/-- Offset of the trap frame of context x at level l in the save area (R343, R382). -/
def frameOff (x l : Nat) : Nat := 0x180000 + 0x10000 * (2 * x + l - 1)

/-- Is the entry a copy or MGO stopped with a progress record (R379, R383)? -/
def stoppedEntry (e : Entry) : Bool :=
  e.begun && (match e.op with
    | .mgo _ => true
    | _ => e.q == 0 || e.q == 3)

/-- The row at which a begun vector entry resumes (R383). -/
def vrowOf (e : Entry) : Nat := if e.q = 1 && e.begun then e.prog.row else 0

/-- The page a held copy waits for (R214). -/
def heldVa (e : Entry) : Option Nat := match e.wait with | .far va => some va | _ => none

/-- The 512 bits of a saved entry's header (R383). -/
def savedHeader (e : Entry) : Nat :=
  b2n (stoppedEntry e) * 2 + b2n e.fault.isSome * 4 + b2n (heldVa e).isSome * 8 + e.q * 16
    + (e.payload.length / 64) % 8 * 64 + place e.pc 12 52 + place e.seq 64 32 + place e.word.toNat 96 32
    + place (vrowOf e) 128 32
    + place (Config.entryBody e.q e.seq e.ga e.gb e.gc e.take e.give).toNat 160 352

/-- The select state of a progress record (R205, R214). -/
def selBits (m sum : Nat) (c : List (Nat × Nat)) : Nat :=
  m + sum * 2 ^ 32 + (List.range 8).foldl (fun acc i =>
    let (v, k) := c.getD i (0xFF800000, 0xFFFFFF)
    acc + place v (64 + 32 * i) 32 + place k (320 + 24 * i) 24) 0

/-- A mask block's bytes (R257). -/
def maskBytes (m : MaskBlock) : List Byte :=
  (List.range 32).flatMap (fun r =>
    let (sg, anc, pos) := m.rows.getD r (0, 0, 0)
    leBytes 8 (pos + anc * 2 ^ 16 + sg * 2 ^ 32)) ++
  (List.range 16).flatMap (fun i => leBytes 2 (nth m.klen i)) ++ leBytes 32 m.tbase

/-- A copy entry's progress record (R214). -/
def copyRecord (e : Entry) : List Byte :=
  let sel := match e.op with
    | .csel .. => selBits e.prog.selM e.prog.selS e.prog.selC
    | _ => 0
  leBytes 128 (e.seq + b2n (heldVa e).isSome * 2 ^ 32 + place e.prog.sect 64 32 + place e.prog.row 96 32
    + place ((heldVa e).getD 0) 128 64 + sel * 2 ^ 512)

/-- An MGO's progress record (R266); prog.acc holds the level indices of the first reduction not begun. -/
def mgoRecord (e : Entry) : List Byte :=
  let amask := match e.op with | .mgo m => m | _ => 0
  let idx := (List.range 5).foldl (fun acc n => acc + place (nth e.prog.acc n) (24 * n) 24) 0
  leBytes 64 (e.seq + place e.prog.retired 32 32 + place amask 64 48 + idx * 2 ^ 128)
    ++ leBytes 128 ((e.prog.nest.getD .empty).raw) ++ maskBytes (e.prog.mask.getD .zero)

/-- A stopped entry's progress record. -/
def progRecord (e : Entry) : List Byte := if e.q = 2 then mgoRecord e else copyRecord e

/-- The frame's 256-byte header (R382). -/
def frameHeader (t : Strand) (pt : PendTrap) (tpc level : Nat) (targ : List Dword) (tcut : List Nat) (es : List Entry) : Nat :=
  let g := (List.range 4).foldl (fun acc i => acc + place (gVal t (i + 1)).toNat (1344 + 64 * i) 64) 0
  let (armed, lo, hi) := match t.loop with | some h => (1, h.start, h.stop) | none => (0, 0, 0)
  let nq := (List.range 4).foldl (fun acc q => acc + place ((es.filter (fun e => e.q == q)).length) (448 + 16 * q) 16) 0
  g + place (Config.rsave (pBits t) t.lc armed lo hi).toNat 1152 192
    + (List.range 4).foldl (fun acc i => acc + place (nth tcut i) (1024 + 32 * i) 32) 0
    + (List.range 4).foldl (fun acc i => acc + place (targ.getD i 0).toNat (768 + 64 * i) 64) 0
    + place tpc 704 64
    + place pt.pc 652 52 + place pt.word 608 32 + place pt.seq 576 32
    + place pt.cause.code 568 8 + place pt.q 566 2 + b2n pt.eng * 2 ^ 565 + place level 563 2
    + nq + place ((es.filter stoppedEntry).length) 432 16

/-- The frame's bytes: header, entries with payloads, progress records (R382, R383). -/
def frameImage (hdr : Nat) (es : List Entry) : List Byte :=
  leBytes 256 hdr ++ es.flatMap (fun e => leBytes 64 (savedHeader e) ++ e.payload)
    ++ (es.filter stoppedEntry).flatMap progRecord

/-- Byte offsets of the saved-entry headers in the frame. -/
def headerOffsets : Nat → List Entry → List Nat
  | _, [] => []
  | o, e :: t => o :: headerOffsets (o + 64 + e.payload.length) t

/-- How far number n of queue q lies behind the strand's last completed one (R148). -/
def sinceDone (t : Strand) (q n : Nat) : Nat := (n + 2 ^ 32 - tabGet 0 t.done q) % 2 ^ 32

/-- Does the entry stand before the one that a pending trap names, in the same queue? It completes first, since the faulting
entry's number is the cut plus one (R380). -/
def beforeFault (t : Strand) (e : Entry) : Bool :=
  t.pendTrap.any (fun pt => pt.eng && pt.q == e.q && decide (sinceDone t e.q e.seq < sinceDone t e.q pt.seq))

/-- Is the entry at the head of its queue? -/
def atHead (s : State) (c : Nat) (e : Entry) : Bool :=
  match queueAt s c e.q with | h :: _ => h.sx == e.sx && h.seq == e.seq | [] => false

/-- Does the entry run on to its end before it can stop (R379): a vector entry that neither waits nor is stalled, an entry
whose accesses are done, a matrix entry other than an MGO, of these an MDRAIN.port that has written even where it waits, and any
matrix entry that only waits to complete (R265, R308, log 88)? -/
def runsOut (e : Entry) : Bool :=
  e.begun && e.fault.isNone &&
    ((e.wait == .none && (e.q == 1 || e.ended || (e.q == 2 && !isMgo e))) || (e.q == 2 && e.ended) ||
     (match e.op with | .mdrain 1 .. => !e.ended && (e.wait == .other || e.prog.row != 0) | _ => false))

/-- May the strand's entries stop now (R379)? What began behind a stopped MGO does not count (R244). Results that are out have
returned first (R144), and the entries before a faulting one have completed (R380). -/
def stopReady (s : State) (a : At) : Bool :=
  (strandAt s a).sb.all (fun b => b.dest == .none) && (queuedEntries s a).all (fun e =>
    !(atHead s a.c e && runsOut e) && !beforeFault (strandAt s a) e)

/-- The entries a frame holds (R383): LQ, VQ, MQ, SQ, and within a queue in the order of their numbers; those that an ERET has
still to push stand last. -/
def cutEntries (s : State) (a : At) : List Entry :=
  let t := strandAt s a
  [0, 1, 2, 3].flatMap (fun q =>
    sortBy (fun e f => decide (sinceDone t q e.seq < sinceDone t q f.seq))
      ((queueAt s a.c q ++ t.aside).filter (fun e => e.q == q && e.sx == a.x))
    ++ t.repush.filter (fun e => e.q == q))

/-- The granules that the row or sector in progress of a stopped entry cleared are full again (R425). -/
def restoreTaken (s : State) (e : Entry) : State :=
  { s with fe := e.prog.cleared.foldl setAdd s.fe }

/-- An entry without what its row or sector in progress has read. -/
def forgetTaken (e : Entry) : Entry := { e with prog := { e.prog with taken := [], cleared := [] } }

/-- Trap entry (R378), the strand's entries being ready to stop: the frame is written at level TL + 1, the trap registers
are set, the strand goes on at TVEC. -/
def enterTrap (s : State) (a : At) (pt : PendTrap) : State :=
  let s := unpark (withdrawAt (onStrand s a landAll) a (strandAt s a).pc.toNat) a
  let t := strandAt s a
  let pc := match t.retPc with | some p => p | none => t.pc.toNat
  let s := stopMatrix s a
  let es := (cutEntries s a).map forgetTaken
  let s := clearEntries ((cutEntries s a).foldl restoreTaken s) a
  let tpc := pc
  let va := saveArea s (ctxOf s a) a.c + frameOff a.x (t.tl + 1)
  let tcut := [0, 1, 2, 3].map (tabGet 0 t.done)
  let targ : List Dword := [.ofNat 64 pt.cause.a0, .ofNat 64 pt.cause.a1, .ofNat 64 pt.cause.a2, .ofNat 64 va]
  let image := frameImage (frameHeader t pt tpc (t.tl + 1) targ tcut es) es
  let s := storeN s va image
  let fr : Frame :=
    { va := va, image := image, drops := headerOffsets 256 es
      g := [1, 2, 3, 4].map (gVal t), p := (List.range 8).map (pVal t), lc := t.lc, loop := t.loop, entries := es
      tcause := pt.cause.code, tpc := tpc, targ := targ, tcut := tcut }
  onStrand s a (fun t => { t with
    tcause := pt.cause.code
    tpc := tpc
    targ := [(0, targ.getD 0 0), (1, targ.getD 1 0), (2, targ.getD 2 0), (3, targ.getD 3 0)]
    tcut := [(0, nth tcut 0), (1, nth tcut 1), (2, nth tcut 2), (3, nth tcut 3)]
    push := t.done
    tl := t.tl + 1
    frames := t.frames ++ [fr]
    y := [0, 0, 0, 0]
    loop := none
    wait := none
    grant := t.grant.filter (fun g => g.1 % 2 == 0)
    pendTrap := none
    repush := []
    retPc := none
    aside := []
    trapAt := some s.cycle
    bubble := 0
    evDue := false
    evTurn := false
    status := .running
    pc := BitVec.ofNat 52 t.tvec })

/-- Is a cause an uncorrectable error for which the task of a strand is re-executed in place of a trap (R448)? -/
def rerunsFor (t : Strand) (pt : PendTrap) : Bool :=
  isHardware pt.cause.code && pt.cause.code != 0xC6 && t.task.any (fun k => k.restart)

/-- The code and level with which a frame of the save area at HBM address va of a core cannot be written, if it cannot (R444). -/
def frameFails (s : State) (ctx c : Nat) : Option Nat :=
  if areaOutside s ctx c then some 0x99 else if (coreAt s c).frameBad then some 0x9A else none

/-- A task ends because a frame of its save area cannot be written (R444): a failure that was reported is past. -/
def endByFrame (s : State) (a : At) (code off : Nat) : State :=
  endWith (onCore s a.c (fun k => { k with frameBad := false })) a code 2 (saveArea s (ctxOf s a) a.c + off)

/-- Does a trap enter its handler (R378, R387, R444)? -/
def entersTrap (s : State) (a : At) : Bool :=
  let t := strandAt s a
  t.tl != 2 && t.tvec != 0 && (ctxAt s (ctxOf s a)).savebase != 0 && (frameFails s (ctxOf s a) a.c).isNone

/-- A trap of a strand whose entries are ready to stop: its task's re-execution, the trap's entry, or the task's end where it
cannot be taken (R378, R387, R444, R448). -/
def takeTrap (s : State) (a : At) (pt : PendTrap) : State :=
  let t := strandAt s a
  match (if rerunsFor t pt then t.task else none) with
  | some k => reexecute s a k
  | none =>
    if t.tl = 2 then endByCause s a 0x80
    else if t.tvec = 0 then endByCause s a 0x9E
    else if (ctxAt s (ctxOf s a)).savebase = 0 then endByCause s a 0x98
    else match frameFails s (ctxOf s a) a.c with
      | some code => endByFrame s a code (frameOff a.x (t.tl + 1))
      | none => enterTrap s a pt

/-- Has every remote access of the strand and of its entries been answered (R122, R321)? -/
def remotesDone (s : State) (a : At) : Bool := s.remotes.all (fun r => !(r.core == a.c && r.sx == a.x))

/-- May a trap be taken now? A task's end or re-execution is a release, which waits for the strand's remote accesses (R124, R321). -/
def trapReady (s : State) (a : At) (pt : PendTrap) : Bool :=
  stopReady s a && ((entersTrap s a && !rerunsFor (strandAt s a) pt) || remotesDone s a)

/-- The first of two causes by R388; of two entries of one queue, the earlier one's (R380). -/
def firstTrap (t : Strand) (pt : PendTrap) : PendTrap :=
  match t.pendTrap with
  | some p =>
    if p.eng && pt.eng && p.q == pt.q then (if sinceDone t p.q p.seq ≤ sinceDone t p.q pt.seq then p else pt)
    else if p.cls < pt.cls ∨ (p.cls = pt.cls ∧ (p.eng && pt.eng → p.q ≤ pt.q)) then p else pt
  | none => pt

/-- May the strand take a trap now: has it its turn (R381) and taken none in this cycle (R388), and is the trap none that a stop of
its job lets wait for the restore (R389)? A re-execution needs no turn (R448). -/
def mayTrap (s : State) (a : At) (pt : PendTrap) : Bool :=
  let t := strandAt s a
  let b := jobAt s (jobOf s a)
  !t.atStop && t.trapAt != some s.cycle &&
    ((rerunsFor t pt && !b.killed) ||
     ((t.status == .running || t.status == .waiting) && (b.phase != 2 || (t.status == .running && !pt.eng)) &&
      (!b.killed || t.status == .running)))

/-- A strand for which a trap waits: one that was parked is ready, its PARK not issued (R381). -/
def readyForTrap (s : State) (a : At) (pt : PendTrap) : State :=
  let s := if (strandAt s a).status = .parked then unpark s a else s
  onStrand s a (fun t =>
    if t.status = .parked then { t with pendTrap := some pt, status := .ready, wait := none } else { t with pendTrap := some pt })

/-- A trap that is signalled: it is taken once the strand has its turn and its entries have stopped (R378, R379, R381); the
first cause by R388 wins. A run at its stop point takes none. -/
def pendOrTake (s : State) (a : At) (pt : PendTrap) : State :=
  if (strandAt s a).atStop then s else
  let pt := firstTrap (strandAt s a) pt
  let s' := readyForTrap s a pt
  if mayTrap s' a pt && trapReady s' a pt then takeTrap s' a pt else s'

/-- A cause reaches a strand (R377). An uncorrectable error of its storage fences the core (R449); 0xBD, which finds that the
cluster has no comm master, is recorded too (R459). -/
def signalTrap (s : State) (a : At) (pt : PendTrap) : State :=
  let c := pt.cause
  pendOrTake (if isHardware c.code then fenceFor s a.c c else if c.code = 0xBD then logStrand s 0xBD 1 a c.a0 c.a1 else s) a pt

/-- Key of a word of program fetched from another device, in the strand's grants. -/
def fetchKey (va : Nat) : Nat := 2 * (2 ^ 53 + va) + 1

/-- The word at an address of a strand's program, 0 where it cannot be fetched. -/
def wordAt (s : State) (a : At) (va : Nat) : Nat :=
  match translate s a.c (ctxOf s a) va false true with
  | .ok (_, .ok loc) => loadNat s loc 4
  | .ok (_, .fab _) => ((grantOf (strandAt s a) (fetchKey va)).getD 0).toNat % 2 ^ 32
  | _ => 0

/-- The instruction word at a strand's pc; of a long-immediate group the prefixed word (R382, log 17). -/
def ccWord (s : State) (a : At) : Nat :=
  let pc := (strandAt s a).pc.toNat
  let w := wordAt s a pc
  if w / 2 ^ 26 = 63 then wordAt s a (pc + 8) else w

/-- The trap of the CC instruction at the strand's pc (R381, R382): class 3 of R388, where hardware errors come first. -/
def ccTrap (s : State) (a : At) (c : Cause) : PendTrap := ⟨c, false, 0, 0, ccWord s a, 0, if isHardware c.code then 0 else 3⟩

/-- One attempt to issue an instruction of len bytes (R144, R400): exposed writes due become visible, the body runs, and the
strand advances, waits or traps. -/
def issue (len : Nat) (s : State) (body : At → State → Act Done) : Host.Outcome State Fault Refusal :=
  match runner s with
  | none => .fault .noRunningStrand
  | some a =>
    let s := onStrand s a landSlot
    match body a s with
    | .ok d => .next (finish a len d)
    | .error (.wait s k waiting arg) => .next (holdWait s a k waiting arg)
    | .error (.trap c) => .next (signalTrap s a (ccTrap s a c))

/-! ## Return from a trap (R385) -/

/-- Slots of engine queue q (R147). -/
def queueSize (q : Nat) : Nat := if q = 1 then 32 else if q = 2 then 16 else 64

/-- Entries of strand a in queue q. -/
def occupancy (s : State) (a : At) (q : Nat) : Nat := ((queueAt s a.c q).filter (fun e => e.sx == a.x)).length

/-- May strand a push into queue q (R148)? -/
def pushRoom (s : State) (a : At) (q : Nat) : Bool :=
  decide (occupancy s a q < tabGet 0 (strandAt s a).depth q) && decide ((queueAt s a.c q).length < queueSize q)

/-- The next sequence number of a strand in queue q (R148). -/
def nextSeq (t : Strand) (q : Nat) : Nat := (tabGet 0 t.push q + 1) % 2 ^ 32

/-- The trap of an engine entry (class 1 of R388; hardware errors come first). -/
def engTrap (e : Entry) (c : Cause) : PendTrap :=
  ⟨c, true, e.q, e.seq, e.word.toNat, e.pc, if isHardware c.code then 0 else 1⟩

/-- Pushes an entry with the strand's next sequence number (R148), its draws recorded unless they stand recorded (R99). A
refused record makes the entry faulting before it begins, and its strand takes the trap at its next instruction (R428). -/
def pushEntry (s : State) (a : At) (e : Entry) : State :=
  let n := nextSeq (strandAt s a) e.q
  let s := onStrand s a (fun t => { t with push := tabPut t.push e.q n })
  let e := { e with seq := n }
  let s := match e.op with
    | .mlt t => onCore s a.c (fun k => { k with regs := { k.regs with lastMlt := some t } })
    | _ => s
  match (if e.drawn then .ok s else recordDraws s a.c (jobAt s e.job).ctx e.job e.draws) with
  | .ok s => setQueue s a.c e.q (queueAt s a.c e.q ++ [{ e with drawn := true }])
  | .error c =>
    let s := setQueue s a.c e.q (queueAt s a.c e.q ++ [{ e with drawn := false, fault := some c }])
    onStrand s a (fun t => { t with pendTrap := some (firstTrap t (engTrap { e with drawn := false } c)) })

/-- Is the page at an address of a context far (R59)? -/
def pageFar (s : State) (ctx va : Nat) : Bool :=
  match walk s ctx va with | .ok (leaf, _, _) => !bit leaf 7 && bit leaf 4 | .error _ => false

/-- A held entry that is pushed again stays held while its page is far (R390). -/
def keepHeld (s : State) (e : Entry) : Entry :=
  match e.wait with
  | .far va => if pageFar s (jobAt s e.job).ctx va then e else { e with wait := .none }
  | _ => e

/-- Pushes the entries that an ERET or a restore returns, as far as there is room (R310, R385). -/
def pushSaved (a : At) : List Entry → State → State × List Entry
  | [], s => (s, [])
  | e :: es, s => if pushRoom s a e.q then pushSaved a es (pushEntry s a (keepHeld s e)) else (s, e :: es)

/-- Is a frame as trap entry wrote it, apart from drop bits (R382, R385)? -/
def frameIntact (s : State) (f : Frame) : Bool :=
  let now := loadN s f.va f.image.length
  let mask (l : List Byte) : List Byte := l.zipIdx.map (fun p => if f.drops.contains p.2 then p.1 &&& 0xFE else p.1)
  mask now == mask f.image

/-- The saved entries that the handler has not dropped, and those it has. -/
def splitDrops (s : State) (f : Frame) : List Entry × List Entry :=
  let l := f.entries.zip (f.drops.map (fun o => bit (loadNat s (f.va + o) 1) 0))
  ((l.filter (fun p => !p.2)).map (·.1), (l.filter (·.2)).map (·.1))

/-- An entry that is pushed again begins its wait afresh (R425); a held copy stays held (R390); a PGIN looks at its page anew. -/
def waitAgain (e : Entry) : Entry :=
  { e with
    wait := (match e.wait with | .far va => .far va | _ => .none)
    waited := 0
    prog := match e.op with | .pgin .. => .start | _ => e.prog }

/-- An entry that ERET pushes again starts with no fault (R385). -/
def freshEntry (e : Entry) : Entry := { waitAgain e with fault := none }

/-- The strand goes on at the pc an ERET took, once its last entry is pushed (R385). -/
def continueReturn (s : State) (a : At) : State :=
  let (s, left) := pushSaved a (strandAt s a).repush s
  match left, (strandAt s a).retPc with
  | [], some p => onStrand s a (fun t => { t with
      repush := [], retPc := none, pc := BitVec.ofNat 52 p, y := [0, 0, 0, 0], wait := none, status := .running })
  | _, _ => onStrand s a (fun t => { t with repush := left })

/-- The return of ERET from an intact frame (R385); events that have waited meanwhile wait for the next segment end (R384). -/
def returnTrap (s : State) (a : At) (f : Frame) : State :=
  let (keep, drop) := splitDrops s f
  let s := drop.foldl (fun s e => dropEntry s a e) s
  let s := onStrand s a (fun t =>
    let t := putG14 f.g t
    let rest := t.frames.dropLast
    let t' := { t with
      p := (List.range 7).map (fun i => (i + 1, f.p.getD (i + 1) false))
      lc := f.lc, loop := f.loop
      tl := t.tl - 1, frames := rest
      repush := keep.map freshEntry
      retPc := some t.tpc
      slot := t.slot + 1
      y := [0, 0, 0, 0]
      evHeld := t.evHeld || (t.tl == 1 && !t.evq.isEmpty) }
    match rest.getLast? with
    | some o => { t' with
        tcause := o.tcause, tpc := o.tpc
        targ := (List.range 4).map (fun i => (i, o.targ.getD i 0))
        tcut := (List.range 4).map (fun i => (i, nth o.tcut i)) }
    | none => t')
  continueReturn s a

end Sys2Proof.Machine
end

