-- ==== Sys2Proof/Machine/Operands.lean ====
section
/-! DEFINITION. Operand forms: tagged addresses and their checks (R42, R43, R140, R406), places and their bytes, and the CC's
accesses (R44, R45, R50, R63, R168 to R171, R423). -/

namespace Sys2Proof.Machine

/-- Width in bits of each space's offset field (R42). -/
def spaceWidth (sp : Nat) : Nat := if sp = 0 then 52 else if sp = 1 then 29 else if sp = 2 then 20 else if sp = 3 then 26 else 14

/-- Bytes of each space that an offset may name (R42): 384 MiB of lake, 1 MiB of pond, 16 KiB of accumulators. -/
def spaceLimit (sp : Nat) : Nat :=
  if sp = 0 then 2 ^ 52 else if sp = 1 then 384 * 2 ^ 20 else if sp = 4 then 2 ^ 14 else 2 ^ 20

/-- The offset part of a tagged address: for a cluster pond without its core field. -/
def addrOff (ad : Nat) : Nat := if bits ad 60 4 = 3 then bits ad 0 20 else bits ad 0 60

/-- The checks of R406 on a tagged address of an instruction that admits the spaces listed, wants an alignment and touches
len bytes there; base is the address the sum was formed from (R43). -/
def checkAddr (spaces : List Nat) (align len : Nat) (base ad : Nat) : Except Cause Unit :=
  let sp := bits ad 60 4
  if 5 ≤ sp then .error ⟨0x21, ad, 0, 0⟩
  else if !spaces.contains sp then .error ⟨0x17, ad, 0, 0⟩
  else if bits ad 0 60 / 2 ^ spaceWidth sp ≠ 0 ∨ (sp = 1 ∧ spaceLimit 1 ≤ bits ad 0 60) then .error ⟨0x22, ad, 0, 0⟩
  else if sp = 3 ∧ 48 ≤ bits ad 20 6 then .error ⟨0x23, ad, 0, 0⟩
  else if bits base 60 4 ≠ sp then .error ⟨0x24, ad, 0, 0⟩
  else if align ≠ 0 ∧ ad % align ≠ 0 then .error ⟨0x20, ad, align, 0⟩
  else if spaceLimit sp < addrOff ad + len then .error ⟨0x22, ad, 0, 0⟩
  else .ok ()

/-- The place a checked tagged address names, for an instruction of core c (R42). -/
def placeOf (c ad : Nat) : Place :=
  let sp := bits ad 60 4
  ⟨sp, if sp = 3 then c / 48 * 48 + bits ad 20 6 else c, addrOff ad⟩

/-- The tagged address of a place as a core of its cluster names it. -/
def tagged (p : Place) : Nat := p.space * 2 ^ 60 + (if p.space = 3 then p.core % 48 * 2 ^ 20 else 0) + p.off

/-- A place further on. -/
def Place.plus (p : Place) (n : Nat) : Place := { p with off := p.off + n }

/-- The location of a place outside the global space, under a lake key. -/
def placeLoc (key : Nat) (p : Place) : Nat :=
  if p.space = 1 then locLake key p.off else if p.space = 4 then locAcc p.core p.off else locPond p.core p.off

/-- Is the place in a pond? -/
def Place.inPond (p : Place) : Bool := p.space == 2 || p.space == 3

/-- Reads n bytes of a place outside the global space. -/
def readPlace (s : State) (key : Nat) (p : Place) : Nat → List Byte
  | 0 => []
  | n + 1 => s.mem.read (placeLoc key p) :: readPlace s key (p.plus 1) n

/-- Writes bytes of lake, a run within one bank's 256 bytes at a time (R54), so that a whole unit of check is written at
once (R423); fuel is the number of bytes. -/
def writePlace (s : State) (key : Nat) : Nat → Place → List Byte → State
  | 0, _, _ => s
  | f + 1, p, v =>
    let n := 256 - p.off % 256
    if v.isEmpty then s else writePlace (storeN s (placeLoc key p) (v.take n)) key f (p.plus n) (v.drop n)

/-- Reads n bytes, in one piece where the place is contiguous. -/
def fetchPlace (s : State) (key : Nat) (p : Place) (n : Nat) : List Byte :=
  if p.space = 1 then readPlace s key p n else loadN s (placeLoc key p) n

/-- Writes bytes, in one piece where the place is contiguous. -/
def putPlace (s : State) (key : Nat) (p : Place) (v : List Byte) : State :=
  if p.space = 1 then writePlace s key v.length p v else storeN s (placeLoc key p) v

/-- The first poisoned unit among n bytes of a place, if any (R423). -/
def placePoison (s : State) (key : Nat) (p : Place) (n : Nat) : Option Nat :=
  if s.poison.isEmpty then none
  else (List.range n).findSome? (fun i => poisoned s (placeLoc key (p.plus i)) 1)

/-- The cause of reading a poisoned unit, one of n bytes at a place: the unit's tagged address and syndrome (R423). -/
def poisonCause (key : Nat) (p : Place) (n u : Nat) : Cause :=
  let m := (checkUnit u).2
  let i := ((List.range n).find? (fun i => decide (u ≤ placeLoc key (p.plus i)) && decide (placeLoc key (p.plus i) < u + m))).getD 0
  ⟨poisonCode u, tagged { p with off := (p.off + i) / m * m }, (Config.syndrome u).toNat, 0⟩

/-- The cause of reading a poisoned unit at a location that a global address reaches (R423). -/
def poisonGlobal (va loc u : Nat) : Cause := ⟨poisonCode u, va + u - loc, (Config.syndrome u).toNat, 0⟩

/-- Sets a granule full and counts the event of its bank (R50, R426). -/
def setFull (s : State) (core off : Nat) : State :=
  let s := onCore s core (fun k => { k with bankSets := bumpBank k.bankSets off })
  { s with fe := setAdd s.fe (granule core off) }

/-- Clears a granule and counts the event of its bank (R50, R426). -/
def clearFull (s : State) (core off : Nat) : State :=
  let s := onCore s core (fun k => { k with bankTakes := bumpBank k.bankTakes off })
  { s with fe := setDel s.fe (granule core off) }

/-- Sets every granule that [off, off + len) touches full (R50). -/
def fillGranules (s : State) (core off len : Nat) : State :=
  if len = 0 then s
  else (List.range ((off + len - 1) / 16 - off / 16 + 1)).foldl (fun s i => setFull s core ((off / 16 + i) * 16)) s

/-- A write by an engine: the bytes, and for a pond every granule they touch full (R50). -/
def engineWrite (s : State) (key : Nat) (p : Place) (v : List Byte) : State :=
  let s := putPlace s key p v
  if p.inPond then fillGranules s p.core p.off v.length else s

/-- The context's key. -/
def keyOf (s : State) (ctx : Nat) : Nat := (ctxAt s ctx).lkey

/-- Lifts a refusal to the CC. -/
def liftC {α : Type} (r : Except Cause α) : Act α := match r with | .ok v => .ok v | .error c => .error (.trap c)

/-- Span p. -/
def spanAt (s : State) (p : Nat) : Span := tabGet .reset s.spans p

/-- Changes a span. -/
def onSpan (s : State) (p : Nat) (f : Span → Span) : State := { s with spans := tabPut s.spans p (f (spanAt s p)) }

/-- The route-table word of a source cluster and a local index of the own domain (R453). -/
def routeWord (s : State) (cl lidx : Nat) : Nat := tabGet 0 s.routes (9216 * cl + lidx)

/-- The span that carries the packets of a route: its primary while that is up, else its standby, if it has one that is up
(R453, R455). -/
def spanOfRoute (s : State) (v : Nat) : Option Nat :=
  if bit v 5 && (spanAt s (bits v 0 5)).up then some (bits v 0 5)
  else if bit v 13 && (spanAt s (bits v 8 5)).up then some (bits v 8 5)
  else none

/-- Has every route of the own domain to a local index lost its spans (R456)? -/
def pathsDown (s : State) (lidx : Nat) : Bool :=
  (s.routes.filter (fun r => decide (r.1 < 9216 * 36) && r.1 % 9216 == lidx)).all (fun r => (spanOfRoute s r.2).isNone)

/-- Have the entries of another domain lost their spans, in every cluster (R456, R459, log 82)? -/
def domainLost (s : State) (m : Nat) : Bool :=
  let l := s.routes.filter (fun r => decide (9216 * 36 ≤ r.1) && (r.1 - 9216 * 36) % 1024 == m)
  !l.isEmpty && l.all (fun r => (spanOfRoute s r.2).isNone)

/-- Is a rank absent: every path to it down (R456)? -/
def rankAbsent (s : State) (r : Nat) : Bool :=
  if r / 2 ^ 14 = s.dev.rank / 2 ^ 14 then s.absent.contains r && pathsDown s (r % 2 ^ 14) else domainLost s (r / 2 ^ 14)

/-- The entry of the route table for a source cluster and a rank: by local index within the own domain, else by domain (R453). -/
def routeOf (s : State) (cl rank : Nat) : Nat :=
  if rank / 2 ^ 14 = s.dev.rank / 2 ^ 14 then 9216 * cl + rank % 2 ^ 14 else 9216 * 36 + 1024 * cl + rank / 2 ^ 14

/-- The span that carries the packets of an entry of the route table. -/
def spanOn (s : State) (route : Nat) : Option Nat := spanOfRoute s (tabGet 0 s.routes route)

/-- Does the replay store of a route's span take n more flits (R316: 256 of each span)? A route without a span loses them. -/
def storeRoom (s : State) (route n : Nat) : Bool :=
  match spanOn s route with
  | some p => decide ((spanAt s p).replay.length + n ≤ 256)
  | none => true

/-- May n flits leave on a route now, behind the packets of its pair that wait for room (R316, R317)? -/
def spanRoom (s : State) (route n : Nat) : Bool := storeRoom s route n && !s.outbox.any (fun p => p.route == route)

/-- A flit enters the replay store of its span (R316, R317). -/
def sendOn (s : State) (cl route len : Nat) : State :=
  match spanOn s route with
  | some p => onSpan s p (fun k => { k with next := k.next + 1, replay := k.replay ++ [⟨k.next, cl, route, len, s.cycle, 0⟩] })
  | none => s

/-- A packet of one flit that nothing waits for leaves, or waits for room in its replay store (R316). -/
def post (s : State) (cl route len : Nat) : State :=
  if spanRoom s route 1 then sendOn s cl route len else { s with outbox := s.outbox ++ [⟨cl, route, len⟩] }

/-- A packet of one flit to a local index of the own domain. -/
def sendFlit (s : State) (cl lidx len : Nat) : State := sendOn s cl (9216 * cl + lidx) len

/-- Is there room for one more flit of a strand to a local index? -/
def flitRoom (s : State) (c lidx : Nat) : Bool := spanRoom s (9216 * (c / 48) + lidx) 1

/-- Where a CC access goes. -/
inductive Reach where
  /-- Outside the global space. -/
  | near (p : Place)
  /-- A global address at a local physical location. -/
  | phys (va loc : Nat)
  /-- The symmetric heap of a rank. -/
  | remote (va lidx : Nat)
  deriving DecidableEq, Repr

/-- A CC access to a far page (R63, R419): the strand waits; a page-in is started for an autopage job, an event posted
otherwise, unless the strand already waits for this page or a page-in of it is in progress. -/
def farWait {α : Type} (s : State) (a : At) (va base psz frame : Nat) (wr : Bool) : Act α :=
  let ctx := ctxOf s a
  let waits : Bool := match (strandAt s a).wait with | some w => w.kind == .far base | none => false
  let hold (s : State) : Act α := .error (.wait s (.far base) true 0)
  if waits then hold s
  else if (match walk s ctx va with | .ok (_, pte, _) => pageInOf s pte | .error _ => false) then hold s
  else if !portUp s frame then raise 0x33 va (portOf frame) psz
  else if (jobAt s (jobOf s a)).autopage then
    match autoPage s a.c ctx a.x va with
    | .ok s => hold s
    | .error c => .error (.trap c)
  else hold (postEvent s a ⟨1, base, 0, 4, psz, wr⟩)

/-- The reach of a CC access whose address has been checked (R42, R59, R63). An access of another device waits for room in the
replay store of its span (R316). -/
def reach (s : State) (a : At) (ad : Nat) (wr : Bool) : Act (State × Reach) :=
  if bits ad 60 4 ≠ 0 then .ok (s, .near (placeOf a.c ad))
  else if ccMiss s a ad then awaitWalk s a ad
  else
    match translate s a.c (ctxOf s a) ad wr false with
    | .error c => .error (.trap c)
    | .ok (s, .ok loc) => .ok (s, .phys ad loc)
    | .ok (s, .far base psz frame) => farWait s a ad base psz frame wr
    | .ok (s, .fab l) =>
      if (clusterAt s (a.c / 48)).master.isNone then raise 0xBD s.dev.rank 0 0
      else if !flitRoom s a.c l then stall s
      else .ok (s, .remote ad l)

/-- A CC access reads a poisoned unit (R423). -/
def ccPoison (s : State) (a : At) (r : Reach) (n : Nat) : Act Unit :=
  match r with
  | .near p => (match placePoison s (lkeyOf s a) p n with
    | some u => .error (.trap (poisonCause (lkeyOf s a) p n u))
    | none => .ok ())
  | .phys va loc => (match poisoned s loc n with
    | some u => .error (.trap (poisonGlobal va loc u))
    | none => .ok ())
  | .remote .. => .ok ()

/-- Reads n bytes where a CC access goes. -/
def reachRead (s : State) (a : At) (r : Reach) (n : Nat) : Nat :=
  match r with
  | .near p => leNat (fetchPlace s (lkeyOf s a) p n)
  | .phys _ loc => loadNat s loc n
  | .remote .. => 0

/-- Writes n bytes where a CC access goes. -/
def reachWrite (s : State) (a : At) (r : Reach) (n v : Nat) : State :=
  match r with
  | .near p => putPlace s (lkeyOf s a) p (leBytes n v)
  | .phys _ loc => storeNat s loc n v
  | .remote .. => s

/-- The rank of a local index of the own domain (R14, R318). -/
def rankOf (s : State) (lidx : Nat) : Nat := s.dev.rank / 2 ^ 14 * 2 ^ 14 + lidx

/-- A remote access leaves for its home device (R319, R321): kind 0 load, 1 store, 2 to 13 the atomics of R171; its result
waits for the response. -/
def remoteOut (s : State) (a : At) (va lidx kind size v c : Nat) (dest : Dest) (load : Bool) : State :=
  let id := s.sbNext
  let s := sendFlit (addSb s a dest true load none) (a.c / 48) lidx (if kind = 0 then 0 else size)
  { s with remotes := s.remotes ++
      [⟨id, a.c, a.x, ctxOf s a, va, lidx, kind, size, v, c, id, none, s.cycle, ccWord s a, (strandAt s a).pc.toNat⟩] }

/-- A read of another device whose answer the strand's grant will hold: kind 14 a read of WAITC, 15 a fetch (R138, R191). -/
def askRemote (s : State) (a : At) (va lidx kind size : Nat) : State :=
  if s.remotes.any (fun r => r.core == a.c && r.sx == a.x && r.kind == kind && r.va == va) || !flitRoom s a.c lidx then s
  else
    let s := sendFlit s (a.c / 48) lidx 0
    { s with
      remotes := s.remotes ++
        [⟨s.sbNext, a.c, a.x, ctxOf s a, va, lidx, kind, size, 0, 0, s.sbNext, none, s.cycle, ccWord s a, (strandAt s a).pc.toNat⟩]
      sbNext := s.sbNext + 1 }

/-- The effective address of a MEM word: base plus offset times scale, modulo 2^64 (R43, R140). -/
def effAddr (base : Dword) (off : Int) (scale : Nat) : Nat := (base + BitVec.ofInt 64 (off * scale)).toNat

/-- The MEM offset carries out of bits [51:0] of a global address (R403). -/
def offCarry (base : Dword) (off : Int) (scale : Nat) : Bool :=
  bits base.toNat 60 4 = 0 && (let t : Int := (base.toNat % 2 ^ 52 : Nat) + off * scale; t < 0 || (2 ^ 52 : Int) ≤ t)

/-- The value a load delivers: n bytes, sign-extended or not (R168). -/
def extend (signed : Bool) (n v : Nat) : Dword := if signed then BitVec.ofInt 64 (sgn v (8 * n)) else BitVec.ofNat 64 v

end Sys2Proof.Machine
end

