-- ==== Sys2Proof/Machine/Alu.lean ====
section
/-! DEFINITION. Integer arithmetic: majors 0x00 to 0x08 (R162 to R165) and selection (R167). -/

namespace Sys2Proof.Machine

/-- A single-cycle ALU result: written to d unless nw, and placed in y0 (R143). -/
def aluDone (s : State) (a : At) (d : BitVec 5) (nw : BitVec 1) (v : Dword) : Act Done :=
  match wrG s a d nw 1 v with
  | .ok s => .ok ⟨s, v, .seq⟩
  | .error e => .error e

/-- An ALU operation of two selectors (R162). -/
def alu2 (d : BitVec 5) (nw : BitVec 1) (x y : BitVec 6) (f : Dword → Dword → Dword) (s : State) :
    Host.Outcome State Fault Refusal :=
  issue 4 s fun a s =>
    match rd s a x, rd s a y with
    | .ok u, .ok v => aluDone s a d nw (f u v)
    | .error e, _ => .error e
    | _, .error e => .error e

/-- An ALU operation of one selector (R162, R163). -/
def alu1 (len : Nat) (d : BitVec 5) (nw : BitVec 1) (x : BitVec 6) (f : Dword → Dword) (s : State) :
    Host.Outcome State Fault Refusal :=
  issue len s fun a s =>
    match rd s a x with
    | .ok u => aluDone s a d nw (f u)
    | .error e => .error e

/-- An operation of two selectors with exposed latency l, 0 in y0 (R143, R144). -/
def lat2 (l : Nat) (d : BitVec 5) (nw : BitVec 1) (x y : BitVec 6) (f : Dword → Dword → Dword) (s : State) :
    Host.Outcome State Fault Refusal :=
  issue 4 s fun a s =>
    match rd s a x, rd s a y with
    | .ok u, .ok v => (match wrG s a d nw l (f u v) with
      | .ok s => .ok ⟨s, 0, .seq⟩
      | .error e => .error e)
    | .error e, _ => .error e
    | _, .error e => .error e

/-- An operation of one selector with exposed latency l. -/
def lat1 (l : Nat) (d : BitVec 5) (nw : BitVec 1) (x : BitVec 6) (f : Dword → Dword) (s : State) :
    Host.Outcome State Fault Refusal :=
  issue 4 s fun a s =>
    match rd s a x with
    | .ok u => (match wrG s a d nw l (f u) with
      | .ok s => .ok ⟨s, 0, .seq⟩
      | .error e => .error e)
    | .error e => .error e

/-- 1 for true, 0 for false. -/
def flag (b : Bool) : Dword := if b then 1 else 0

/-- Rotation left by b[5:0] (R162). -/
def rol64 (x y : Dword) : Dword := x.rotateLeft (y.toNat % 64)

/-- Shifts by b[5:0] (R162). -/
def shl64 (x y : Dword) : Dword := x <<< (y.toNat % 64)
/-- Logical shift right by b[5:0]. -/
def shr64 (x y : Dword) : Dword := x >>> (y.toNat % 64)
/-- Arithmetic shift right by b[5:0]. -/
def sar64 (x y : Dword) : Dword := x.sshiftRight (y.toNat % 64)

/-- Leading zeros, 64 for 0 (R162). -/
def clz64 (x : Dword) : Dword := BitVec.ofNat 64 (64 - bitLen x.toNat)
/-- Trailing zeros, 64 for 0. -/
def ctz64 (x : Dword) : Dword := BitVec.ofNat 64 (lowBit 64 x.toNat)
/-- Number of set bits. -/
def popc64 (x : Dword) : Dword := BitVec.ofNat 64 (popCount 64 x.toNat)

/-- High 64 bits of the signed product (R165). -/
def mulh64 (x y : Dword) : Dword := BitVec.ofInt 64 ((x.toInt * y.toInt) / (2 ^ 64 : Int))
/-- High 64 bits of the unsigned product. -/
def mulhn64 (x y : Dword) : Dword := BitVec.ofNat 64 (x.toNat * y.toNat / 2 ^ 64)

/-- Signed quotient truncated toward zero; by 0 all ones (R165). -/
def div64 (x y : Dword) : Dword := if y = 0 then BitVec.allOnes 64 else BitVec.ofInt 64 (x.toInt.tdiv y.toInt)
/-- Unsigned quotient. -/
def divn64 (x y : Dword) : Dword := if y = 0 then BitVec.allOnes 64 else BitVec.ofNat 64 (x.toNat / y.toNat)
/-- Signed remainder with the sign of a; by 0 it is a. -/
def rem64 (x y : Dword) : Dword := if y = 0 then x else BitVec.ofInt 64 (x.toInt.tmod y.toInt)
/-- Unsigned remainder. -/
def remn64 (x y : Dword) : Dword := if y = 0 then x else BitVec.ofNat 64 (x.toNat % y.toNat)


/-- ADD (R162). -/
def execAdd (d : BitVec 5) (n : BitVec 1) (a b : BitVec 6) (s : State) : Host.Outcome State Fault Refusal :=
  alu2 d n a b (fun u v => u + v) s

/-- SUB (R162). -/
def execSub (d : BitVec 5) (n : BitVec 1) (a b : BitVec 6) (s : State) : Host.Outcome State Fault Refusal :=
  alu2 d n a b (fun u v => u - v) s

/-- AND (R162). -/
def execAnd (d : BitVec 5) (n : BitVec 1) (a b : BitVec 6) (s : State) : Host.Outcome State Fault Refusal :=
  alu2 d n a b (fun u v => u &&& v) s

/-- OR (R162). -/
def execOr (d : BitVec 5) (n : BitVec 1) (a b : BitVec 6) (s : State) : Host.Outcome State Fault Refusal :=
  alu2 d n a b (fun u v => u ||| v) s

/-- XOR (R162). -/
def execXor (d : BitVec 5) (n : BitVec 1) (a b : BitVec 6) (s : State) : Host.Outcome State Fault Refusal :=
  alu2 d n a b (fun u v => u ^^^ v) s

/-- ANDN (R162). -/
def execAndn (d : BitVec 5) (n : BitVec 1) (a b : BitVec 6) (s : State) : Host.Outcome State Fault Refusal :=
  alu2 d n a b (fun u v => u &&& ~~~v) s

/-- ORN (R162). -/
def execOrn (d : BitVec 5) (n : BitVec 1) (a b : BitVec 6) (s : State) : Host.Outcome State Fault Refusal :=
  alu2 d n a b (fun u v => u ||| ~~~v) s

/-- SHL (R162). -/
def execShl (d : BitVec 5) (n : BitVec 1) (a b : BitVec 6) (s : State) : Host.Outcome State Fault Refusal :=
  alu2 d n a b (fun u v => shl64 u v) s

/-- SHR (R162). -/
def execShr (d : BitVec 5) (n : BitVec 1) (a b : BitVec 6) (s : State) : Host.Outcome State Fault Refusal :=
  alu2 d n a b (fun u v => shr64 u v) s

/-- SAR (R162). -/
def execSar (d : BitVec 5) (n : BitVec 1) (a b : BitVec 6) (s : State) : Host.Outcome State Fault Refusal :=
  alu2 d n a b (fun u v => sar64 u v) s

/-- ROL (R162). -/
def execRol (d : BitVec 5) (n : BitVec 1) (a b : BitVec 6) (s : State) : Host.Outcome State Fault Refusal :=
  alu2 d n a b (fun u v => rol64 u v) s

/-- MIN (R162). -/
def execMin (d : BitVec 5) (n : BitVec 1) (a b : BitVec 6) (s : State) : Host.Outcome State Fault Refusal :=
  alu2 d n a b (fun u v => if u.toInt ≤ v.toInt then u else v) s

/-- MAX (R162). -/
def execMax (d : BitVec 5) (n : BitVec 1) (a b : BitVec 6) (s : State) : Host.Outcome State Fault Refusal :=
  alu2 d n a b (fun u v => if u.toInt ≤ v.toInt then v else u) s

/-- MINN (R162). -/
def execMinn (d : BitVec 5) (n : BitVec 1) (a b : BitVec 6) (s : State) : Host.Outcome State Fault Refusal :=
  alu2 d n a b (fun u v => if u.toNat ≤ v.toNat then u else v) s

/-- MAXN (R162). -/
def execMaxn (d : BitVec 5) (n : BitVec 1) (a b : BitVec 6) (s : State) : Host.Outcome State Fault Refusal :=
  alu2 d n a b (fun u v => if u.toNat ≤ v.toNat then v else u) s

/-- SEQ (R162). -/
def execSeq (d : BitVec 5) (n : BitVec 1) (a b : BitVec 6) (s : State) : Host.Outcome State Fault Refusal :=
  alu2 d n a b (fun u v => flag (u == v)) s

/-- SNE (R162). -/
def execSne (d : BitVec 5) (n : BitVec 1) (a b : BitVec 6) (s : State) : Host.Outcome State Fault Refusal :=
  alu2 d n a b (fun u v => flag (u != v)) s

/-- SLT (R162). -/
def execSlt (d : BitVec 5) (n : BitVec 1) (a b : BitVec 6) (s : State) : Host.Outcome State Fault Refusal :=
  alu2 d n a b (fun u v => flag (u.slt v)) s

/-- SLTN (R162). -/
def execSltn (d : BitVec 5) (n : BitVec 1) (a b : BitVec 6) (s : State) : Host.Outcome State Fault Refusal :=
  alu2 d n a b (fun u v => flag (u.ult v)) s

/-- SLE (R162). -/
def execSle (d : BitVec 5) (n : BitVec 1) (a b : BitVec 6) (s : State) : Host.Outcome State Fault Refusal :=
  alu2 d n a b (fun u v => flag (u.sle v)) s

/-- SLEN (R162). -/
def execSlen (d : BitVec 5) (n : BitVec 1) (a b : BitVec 6) (s : State) : Host.Outcome State Fault Refusal :=
  alu2 d n a b (fun u v => flag (u.ule v)) s

/-- CLZ (R162). -/
def execClz (d : BitVec 5) (n : BitVec 1) (a : BitVec 6) (s : State) : Host.Outcome State Fault Refusal :=
  alu1 4 d n a clz64 s

/-- CTZ (R162). -/
def execCtz (d : BitVec 5) (n : BitVec 1) (a : BitVec 6) (s : State) : Host.Outcome State Fault Refusal :=
  alu1 4 d n a ctz64 s

/-- POPC (R162). -/
def execPopc (d : BitVec 5) (n : BitVec 1) (a : BitVec 6) (s : State) : Host.Outcome State Fault Refusal :=
  alu1 4 d n a popc64 s

/-- The function of ADDI on the operand and the immediate (R163). -/
def addiFn (v u : Dword) : Dword := u + v

/-- ADDI (R163). -/
def execAddi (d : BitVec 5) (n : BitVec 1) (a : BitVec 6) (i : BitVec 14) (s : State) : Host.Outcome State Fault Refusal :=
  alu1 4 d n a (addiFn (i.signExtend 64)) s

/-- The function of ANDI on the operand and the immediate (R163). -/
def andiFn (v u : Dword) : Dword := u &&& v

/-- ANDI (R163). -/
def execAndi (d : BitVec 5) (n : BitVec 1) (a : BitVec 6) (i : BitVec 14) (s : State) : Host.Outcome State Fault Refusal :=
  alu1 4 d n a (andiFn (i.signExtend 64)) s

/-- The function of ORI on the operand and the immediate (R163). -/
def oriFn (v u : Dword) : Dword := u ||| v

/-- ORI (R163). -/
def execOri (d : BitVec 5) (n : BitVec 1) (a : BitVec 6) (i : BitVec 14) (s : State) : Host.Outcome State Fault Refusal :=
  alu1 4 d n a (oriFn (i.zeroExtend 64)) s

/-- The function of XORI on the operand and the immediate (R163). -/
def xoriFn (v u : Dword) : Dword := u ^^^ v

/-- XORI (R163). -/
def execXori (d : BitVec 5) (n : BitVec 1) (a : BitVec 6) (i : BitVec 14) (s : State) : Host.Outcome State Fault Refusal :=
  alu1 4 d n a (xoriFn (i.zeroExtend 64)) s

/-- The function of SHLI on the operand and the amount (R163). -/
def shliFn (v u : Dword) : Dword := shl64 u v

/-- SHLI (R163). -/
def execShli (d : BitVec 5) (n : BitVec 1) (a : BitVec 6) (i : BitVec 6) (s : State) : Host.Outcome State Fault Refusal :=
  alu1 4 d n a (shliFn (i.zeroExtend 64)) s

/-- The function of SHRI on the operand and the amount (R163). -/
def shriFn (v u : Dword) : Dword := shr64 u v

/-- SHRI (R163). -/
def execShri (d : BitVec 5) (n : BitVec 1) (a : BitVec 6) (i : BitVec 6) (s : State) : Host.Outcome State Fault Refusal :=
  alu1 4 d n a (shriFn (i.zeroExtend 64)) s

/-- The function of SARI on the operand and the amount (R163). -/
def sariFn (v u : Dword) : Dword := sar64 u v

/-- SARI (R163). -/
def execSari (d : BitVec 5) (n : BitVec 1) (a : BitVec 6) (i : BitVec 6) (s : State) : Host.Outcome State Fault Refusal :=
  alu1 4 d n a (sariFn (i.zeroExtend 64)) s

/-- The function of ROLI on the operand and the amount (R163). -/
def roliFn (v u : Dword) : Dword := rol64 u v

/-- ROLI (R163). -/
def execRoli (d : BitVec 5) (n : BitVec 1) (a : BitVec 6) (i : BitVec 6) (s : State) : Host.Outcome State Fault Refusal :=
  alu1 4 d n a (roliFn (i.zeroExtend 64)) s

/-- The function of SEQI on the operand and the immediate (R163). -/
def seqiFn (v u : Dword) : Dword := flag (u == v)

/-- SEQI (R163). -/
def execSeqi (d : BitVec 5) (n : BitVec 1) (a : BitVec 6) (i : BitVec 12) (s : State) : Host.Outcome State Fault Refusal :=
  alu1 4 d n a (seqiFn (i.signExtend 64)) s

/-- The function of SLTI on the operand and the immediate (R163). -/
def sltiFn (v u : Dword) : Dword := flag (u.slt v)

/-- SLTI (R163). -/
def execSlti (d : BitVec 5) (n : BitVec 1) (a : BitVec 6) (i : BitVec 12) (s : State) : Host.Outcome State Fault Refusal :=
  alu1 4 d n a (sltiFn (i.signExtend 64)) s

/-- The function of SLTNI on the operand and the immediate (R163). -/
def sltniFn (v u : Dword) : Dword := flag (u.ult v)

/-- SLTNI (R163). -/
def execSltni (d : BitVec 5) (n : BitVec 1) (a : BitVec 6) (i : BitVec 12) (s : State) : Host.Outcome State Fault Refusal :=
  alu1 4 d n a (sltniFn (i.zeroExtend 64)) s

/-- LEA: a + (b << s) (R164). -/
def execLea (d : BitVec 5) (n : BitVec 1) (a b : BitVec 6) (sc : BitVec 8) (s : State) : Host.Outcome State Fault Refusal :=
  alu2 d n a b (fun u v => u + (v <<< sc.toNat)) s

/-- MUL, latency 3 (R144, R165). -/
def execMul (d : BitVec 5) (n : BitVec 1) (a b : BitVec 6) (s : State) : Host.Outcome State Fault Refusal :=
  lat2 3 d n a b (fun u v => u * v) s

/-- MULH, latency 3 (R144, R165). -/
def execMulh (d : BitVec 5) (n : BitVec 1) (a b : BitVec 6) (s : State) : Host.Outcome State Fault Refusal :=
  lat2 3 d n a b (fun u v => mulh64 u v) s

/-- MULHN, latency 3 (R144, R165). -/
def execMulhn (d : BitVec 5) (n : BitVec 1) (a b : BitVec 6) (s : State) : Host.Outcome State Fault Refusal :=
  lat2 3 d n a b (fun u v => mulhn64 u v) s

/-- DIV, latency 18 (R144, R165). -/
def execDiv (d : BitVec 5) (n : BitVec 1) (a b : BitVec 6) (s : State) : Host.Outcome State Fault Refusal :=
  lat2 18 d n a b (fun u v => div64 u v) s

/-- DIVN, latency 18 (R144, R165). -/
def execDivn (d : BitVec 5) (n : BitVec 1) (a b : BitVec 6) (s : State) : Host.Outcome State Fault Refusal :=
  lat2 18 d n a b (fun u v => divn64 u v) s

/-- REM, latency 18 (R144, R165). -/
def execRem (d : BitVec 5) (n : BitVec 1) (a b : BitVec 6) (s : State) : Host.Outcome State Fault Refusal :=
  lat2 18 d n a b (fun u v => rem64 u v) s

/-- REMN, latency 18 (R144, R165). -/
def execRemn (d : BitVec 5) (n : BitVec 1) (a b : BitVec 6) (s : State) : Host.Outcome State Fault Refusal :=
  lat2 18 d n a b (fun u v => remn64 u v) s

/-- SEL: a when the predicate holds (inverted by v), else b (R167). -/
def execSel (d : BitVec 5) (n : BitVec 1) (a b : BitVec 6) (v : BitVec 1) (p : BitVec 3) (s : State) :
    Host.Outcome State Fault Refusal :=
  issue 4 s fun at_ s =>
    match rd s at_ a, rd s at_ b, rdP s at_ p.toNat with
    | .ok x, .ok y, .ok q => aluDone s at_ d n (if q != (v == 1) then x else y)
    | .error e, _, _ => .error e
    | _, .error e, _ => .error e
    | _, _, .error e => .error e

end Sys2Proof.Machine
end

