-- ==== Sys2Proof/Machine/Float.lean ====
section
/-! DEFINITION. Number formats and exact arithmetic: values, rounding and saturation (R69 to R78, R471), comparison (R73) and
the four exact functions (R80 to R83). -/

namespace Sys2Proof.Machine

/-- An exact real num / den × 2^e; den is positive. -/
structure Q where
  num : Int
  den : Nat
  e : Int
  deriving DecidableEq, Repr

/-- An integer as an exact real. -/
def Q.int (i : Int) : Q := ⟨i, 1, 0⟩

/-- 2 to the power of a difference that is not negative. -/
def pow2 (i : Int) : Nat := 2 ^ i.toNat

/-- Exact sum. -/
def Q.add (a b : Q) : Q :=
  let e := Min.min a.e b.e
  if a.den = b.den then ⟨a.num * pow2 (a.e - e) + b.num * pow2 (b.e - e), a.den, e⟩
  else ⟨a.num * pow2 (a.e - e) * b.den + b.num * pow2 (b.e - e) * a.den, a.den * b.den, e⟩

/-- Exact negative. -/
def Q.neg (a : Q) : Q := { a with num := -a.num }

/-- Exact product. -/
def Q.mul (a b : Q) : Q := ⟨a.num * b.num, a.den * b.den, a.e + b.e⟩

/-- Exact quotient by a nonzero real. -/
def Q.div (a b : Q) : Q := ⟨a.num * b.num.sign * b.den, a.den * b.num.natAbs, a.e - b.e⟩

/-- Absolute value. -/
def Q.abs (a : Q) : Q := { a with num := a.num.natAbs }

/-- a < b. -/
def Q.lt (a b : Q) : Bool := decide ((a.add b.neg).num < 0)

/-- The real times 2^k. -/
def Q.shift (a : Q) (k : Int) : Q := { a with e := a.e + k }

/-- Integer part of a magnitude, and where the rest lies: 0 none, 1 below half, 2 half, 3 above half. -/
def splitMag (num den : Nat) (e : Int) : Nat × Nat :=
  let n := num * pow2 e
  let d := den * pow2 (-e)
  let r := n % d
  (n / d, if r = 0 then 0 else if 2 * r < d then 1 else if 2 * r = d then 2 else 3)

/-- Does a magnitude round up (R77)? -/
def roundUp (mode : Nat) (neg : Bool) (ip rest : Nat) : Bool :=
  match mode with
  | 0 => decide (rest = 3) || (decide (rest = 2) && decide (ip % 2 = 1))
  | 1 => false
  | 2 => neg && decide (rest ≠ 0)
  | 3 => !neg && decide (rest ≠ 0)
  | _ => decide (2 ≤ rest)

/-- An exact real rounded to an integer by mode (R77). -/
def Q.round (q : Q) (mode : Nat) : Int :=
  let (ip, rest) := splitMag q.num.natAbs q.den q.e
  let neg := decide (q.num < 0)
  let m := ip + b2n (roundUp mode neg ip rest)
  if neg then -(m : Int) else m

/-- floor (log2 (num / den)) for positive num and den. -/
def ratLog2 (num den : Nat) : Int :=
  let k : Int := (Nat.log2 num : Int) - Nat.log2 den
  if den * pow2 k ≤ num * pow2 (-k) then k else k - 1

/-- A value: NaN, an infinity, or an exact real; z is the sign of a zero, none where the zero has no sign (R471). -/
inductive FV where
  | nan
  | inf (neg : Bool)
  | fin (q : Q) (z : Option Bool)
  deriving DecidableEq, Repr

/-! ## Formats (R69, R70) -/

/-- Exponent bits, fraction bits and bias of a float format. -/
def floatPar (fmt : Nat) : Option (Nat × Nat × Int) :=
  match fmt with
  | 1 => some (11, 52, 1023)
  | 2 => some (8, 23, 127)
  | 3 => some (5, 10, 15)
  | 4 => some (8, 7, 127)
  | 5 => some (4, 3, 7)
  | _ => none

/-- Width in bits of an element that is not of a block format; 8 for bytes. -/
def fmtBits (fmt : Nat) : Nat :=
  match fmt with
  | 1 | 0x0B | 0x0F => 64
  | 2 | 0x0A | 0x0E => 32
  | 3 | 4 | 0x09 | 0x0D => 16
  | _ => 8

/-- Bytes of an element that is not of a block format. -/
def fmtBytes (fmt : Nat) : Nat := fmtBits fmt / 8

/-- A code of R69. -/
def fmtKnown (fmt : Nat) : Bool := fmt ≤ 5 || (0x08 ≤ fmt && fmt ≤ 0x17)

/-- A Q4 or T5 code. -/
def fmtBlock (fmt : Nat) : Bool := 0x10 ≤ fmt && fmt ≤ 0x17

/-- Q4 (R74)? -/
def isQ4 (fmt : Nat) : Bool := 0x10 ≤ fmt && fmt ≤ 0x13

/-- Block length of a Q4 or T5 code. -/
def fmtL (fmt : Nat) : Nat := 16 * 2 ^ (fmt % 4)

/-- Data bytes of a block (R74, R75). -/
def blockBytes (fmt : Nat) : Nat := if isQ4 fmt then fmtL fmt / 2 else (fmtL fmt + 4) / 5

/-- An integer format s8 to s64? -/
def isSigned (fmt : Nat) : Bool := 0x08 ≤ fmt && fmt ≤ 0x0B

/-- A float format? -/
def isFloat (fmt : Nat) : Bool := 1 ≤ fmt && fmt ≤ 5

/-- The canonical NaN (R72). -/
def canonNaN (fmt : Nat) : Nat :=
  match fmt with
  | 1 => 0x7FF8000000000000
  | 2 => 0x7FC00000
  | 3 => 0x7E00
  | 4 => 0x7FC0
  | _ => 0x80

/-- Clamps to a range. -/
def clampInt (lo hi x : Int) : Int := if x < lo then lo else if hi < x then hi else x

/-- The range of an integer format of w bits. -/
def intRange (signed : Bool) (w : Nat) : Int × Int :=
  if signed then (-(2 ^ (w - 1) : Nat), (2 ^ (w - 1) : Nat) - 1) else (0, (2 ^ w : Nat) - 1)

/-- sat (R78). -/
def satInt (signed : Bool) (w : Nat) (x : Int) : Int := clampInt (intRange signed w).1 (intRange signed w).2 x

/-- round(fmt, x, mode) of a nonzero real, as a bit pattern (R70, R71, R77). -/
def roundFloat (fmt mode : Nat) (q : Q) : Nat :=
  match floatPar fmt with
  | none => 0
  | some (eb, fb, bias) =>
    let neg := decide (q.num < 0)
    let num := q.num.natAbs
    let ex := ratLog2 num q.den + q.e
    let top := Max.max ex (1 - bias)
    let (m, rest) := splitMag num q.den (q.e - (top - fb))
    let code := (top - (1 - bias)).toNat * 2 ^ fb + m + b2n (roundUp mode neg m rest)
    if fmt = 5 then
      let c := Nat.min code 0x7F
      if c = 0 then 0 else c + 128 * b2n neg
    else
      let lim := (2 ^ eb - 1) * 2 ^ fb
      let big := match mode with | 1 => lim - 1 | 2 => if neg then lim else lim - 1 | 3 => if neg then lim - 1 else lim | _ => lim
      (if lim ≤ code then big else code) + b2n neg * 2 ^ (eb + fb)

/-- A value converted to a format that has no blocks, as a bit pattern (R77, R78). -/
def encodeFmt (fmt mode : Nat) (v : FV) : Nat :=
  if isFloat fmt then
    let w := fmtBits fmt
    match v with
    | .nan => canonNaN fmt
    | .inf neg =>
      if fmt = 5 then (if neg then 0xFF else 0x7F)
      else (match floatPar fmt with | some (eb, fb, _) => (2 ^ eb - 1) * 2 ^ fb + b2n neg * 2 ^ (eb + fb) | none => 0)
    | .fin q z =>
      if q.num = 0 then (if fmt = 5 then 0 else b2n (z.getD (mode == 2)) * 2 ^ (w - 1)) else roundFloat fmt mode q
  else
    let sg := isSigned fmt
    let w := fmtBits fmt
    match v with
    | .nan => 0
    | .inf neg => wrap (if neg then (intRange sg w).1 else (intRange sg w).2) w
    | .fin q _ => wrap (satInt sg w (q.round mode)) w

/-- The value of a bit pattern of a format that has no blocks (R70, R71). An integer zero is +0 (log 15). -/
def decodeFmt (fmt b : Nat) : FV :=
  match floatPar fmt with
  | some (eb, fb, bias) =>
    let s := bit b (eb + fb)
    let ex := bits b fb eb
    let fr := bits b 0 fb
    if fmt = 5 ∧ b % 256 = 0x80 then .nan
    else if fmt ≠ 5 ∧ ex = 2 ^ eb - 1 then (if fr = 0 then .inf s else .nan)
    else
      let m := if ex = 0 then fr else fr + 2 ^ fb
      .fin ⟨if s then -(m : Int) else m, 1, (Nat.max ex 1 : Int) - bias - fb⟩ (some s)
  | none =>
    let w := fmtBits fmt
    .fin (.int (if isSigned fmt then sgn b w else (b % 2 ^ w : Nat))) (some false)

/-! ## Operations (R72, R73, R471) -/

/-- Negative of a value. -/
def FV.neg : FV → FV
  | .nan => .nan
  | .inf s => .inf (!s)
  | .fin q z => .fin q.neg (z.map (!·))

/-- Sign of a value that is not NaN: of a zero, its own, if it has one. -/
def FV.sign : FV → Option Bool
  | .nan => none
  | .inf s => some s
  | .fin q z => if q.num = 0 then z else some (decide (q.num < 0))

/-- Is the value a zero? -/
def FV.isZero : FV → Bool
  | .fin q _ => q.num == 0
  | _ => false

/-- Exclusive-or of two signs, if both have one. -/
def signXor (a b : Option Bool) : Option Bool :=
  match a, b with | some x, some y => some (x != y) | _, _ => none

/-- A value formed inside an operation before its rounding: an exact zero has no sign (R471). -/
def FV.intermediate : FV → FV
  | .fin q z => .fin q (if q.num = 0 then none else z)
  | v => v

/-- Product: ∞ × 0 is NaN. -/
def FV.mul (a b : FV) : FV :=
  match a, b with
  | .nan, _ => .nan
  | _, .nan => .nan
  | .inf s, x => if x.isZero then .nan else .inf (s != x.sign.getD false)
  | x, .inf s => if x.isZero then .nan else .inf (s != x.sign.getD false)
  | .fin p y, .fin q z => .fin (p.mul q) (signXor (FV.sign (.fin p y)) (FV.sign (.fin q z)))

/-- Quotient: nonzero / 0 is an infinity, 0/0 and ∞/∞ are NaN (R229). DESIGN CHOICE: the zero of a finite value divided by an
infinity has the exclusive-or of the operands' signs; R229 and R471 give it none (log 73). -/
def FV.div (a b : FV) : FV :=
  match a, b with
  | .nan, _ => .nan
  | _, .nan => .nan
  | .inf _, .inf _ => .nan
  | .inf s, x => .inf (s != x.sign.getD false)
  | .fin _ _, .inf _ => .fin (.int 0) (signXor a.sign b.sign)
  | .fin p _, .fin q _ =>
    if q.num = 0 then (if p.num = 0 then .nan else .inf (a.sign.getD false != b.sign.getD false))
    else .fin (p.div q) (signXor a.sign b.sign)

/-- Exact sum of terms: NaN with a NaN or infinities of both signs; a zero sum keeps the one sign of terms that are all
zeros of one sign (R471). -/
def FV.sum (l : List FV) : FV :=
  if l.any (· == .nan) then .nan
  else
    let p := l.any (· == .inf false)
    let n := l.any (· == .inf true)
    if p && n then .nan
    else if p || n then .inf n
    else
      let q := l.foldl (fun acc v => match v with | .fin q _ => acc.add q | _ => acc) (Q.int 0)
      let z := match l with
        | [] => none
        | v :: _ => if l.all (fun u => u.isZero && u.sign == v.sign) then v.sign else none
      .fin q z

/-- Order of two values: none with a NaN, else -1, 0 or 1; -0 lies below +0 (R73, log 16). -/
def FV.cmp (a b : FV) : Option Int :=
  match a, b with
  | .nan, _ => none
  | _, .nan => none
  | .inf s, .inf t => some (if s = t then 0 else if s then -1 else 1)
  | .inf s, _ => some (if s then -1 else 1)
  | _, .inf s => some (if s then 1 else -1)
  | .fin p y, .fin q z =>
    if p.num = 0 ∧ q.num = 0 then
      let u := y.getD false
      let v := z.getD false
      some (if u = v then 0 else if u then -1 else 1)
    else some (p.add q.neg).num.sign

/-- Minimum or maximum of two patterns (R73). -/
def fminmax (fmt : Nat) (wantMax : Bool) (a b : Nat) : Nat :=
  match (decodeFmt fmt a).cmp (decodeFmt fmt b) with
  | none => canonNaN fmt
  | some c => if wantMax then (if c < 0 then b else a) else (if c > 0 then b else a)

/-- Comparison of two patterns: false with a NaN (R73). -/
def fcompare (fmt : Nat) (f : Int → Bool) (a b : Nat) : Bool :=
  match (decodeFmt fmt a).cmp (decodeFmt fmt b) with | none => false | some c => f c

/-- A pattern's NaN is canonical; other values unchanged (R72). -/
def canonical (fmt a : Nat) : Nat := if decodeFmt fmt a = .nan then canonNaN fmt else a

/-- Sign cleared. -/
def fabsBits (fmt a : Nat) : Nat :=
  if decodeFmt fmt a = .nan then canonNaN fmt else a % 2 ^ (fmtBits fmt - 1)

/-- Sign inverted. -/
def fnegBits (fmt a : Nat) : Nat :=
  if decodeFmt fmt a = .nan then canonNaN fmt else Nat.xor a (2 ^ (fmtBits fmt - 1))

/-- Conversion between formats that have no blocks (R78). -/
def convert (src dst mode b : Nat) : Nat := encodeFmt dst mode (decodeFmt src b)

/-- Sum of two patterns. -/
def faddBits (fmt mode a b : Nat) : Nat := encodeFmt fmt mode (.sum [decodeFmt fmt a, decodeFmt fmt b])
/-- Difference. -/
def fsubBits (fmt mode a b : Nat) : Nat := encodeFmt fmt mode (.sum [decodeFmt fmt a, (decodeFmt fmt b).neg])
/-- Product. -/
def fmulBits (fmt mode a b : Nat) : Nat := encodeFmt fmt mode ((decodeFmt fmt a).mul (decodeFmt fmt b))
/-- Fused multiply-add with one rounding (R173). -/
def ffmaBits (fmt mode a b c : Nat) : Nat :=
  encodeFmt fmt mode (.sum [(decodeFmt fmt a).mul (decodeFmt fmt b), decodeFmt fmt c])

/-! ## Exact functions on FP32 (R80 to R83) -/

/-- The exact real of a finite FP32 pattern. -/
def q32 (b : Nat) : Q := match decodeFmt 2 b with | .fin q _ => q | _ => .int 0

/-- round(FP32, x, mode) of an exact real whose zero has no sign. -/
def round32 (mode : Nat) (q : Q) : Nat := encodeFmt 2 mode (.fin q none)

/-- +∞ in FP32. -/
def inf32 : Nat := 0x7F800000
/-- −∞ in FP32. -/
def ninf32 : Nat := 0xFF800000

/-- Floor of the square root, bit by bit from i. -/
def isqrtAux (n : Nat) : Nat → Nat → Nat
  | 0, r => if (r + 1) * (r + 1) ≤ n then r + 1 else r
  | i + 1, r => isqrtAux n i (if (r + 2 ^ (i + 1)) * (r + 2 ^ (i + 1)) ≤ n then r + 2 ^ (i + 1) else r)

/-- Floor of the square root. -/
def isqrt (n : Nat) : Nat := isqrtAux n (Nat.log2 n / 2 + 1) 0

/-- A real that rounds to every format of 64 bits or fewer as √(num / den × 2^e) does: 128 bits of it and a sticky bit. -/
def sqrtQ (num den : Nat) (e : Int) : Q :=
  let (num, e) := if e % 2 = 0 then (num, e) else (2 * num, e - 1)
  let n := num * 2 ^ 256 / den
  let s := isqrt n
  ⟨2 * s + b2n (decide (s * s * den ≠ num * 2 ^ 256)), 1, e / 2 - 129⟩

/-- The greatest m + 2^i + … whose 128th power is at most lim. -/
def root128 (lim : Nat) : Nat → Nat → Nat
  | 0, m => m
  | i + 1, m => root128 lim i (if (m + 2 ^ i) ^ 128 ≤ lim then m + 2 ^ i else m)

/-- T[j] of exp2_k: 2^(j/128) rounded to FP32 (R80). -/
def expT (j : Nat) : Q :=
  let m := root128 (2 ^ (23 * 128 + j)) 23 (2 ^ 23)
  ⟨if (2 * m + 1) ^ 128 < 2 ^ (24 * 128 + j) then m + 1 else m, 1, -23⟩

/-- Binary digits of log2 of x / 2^256, which lies in [1, 2). -/
def logDigits : Nat → Nat → Nat → Nat
  | 0, _, acc => acc
  | f + 1, x, acc =>
    let y := x * x / 2 ^ 256
    if 2 ^ 257 ≤ y then logDigits f (y / 2) (2 * acc + 1) else logDigits f y (2 * acc)

/-- T[j] of log2_k: log2(1 + j/128) rounded to FP32 (R81); 64 digits and a sticky bit decide the rounding. -/
def logT (j : Nat) : Q :=
  if j = 0 then .int 0 else q32 (round32 0 ⟨2 * logDigits 64 ((128 + j) * 2 ^ 249) 0 + 1, 1, -65⟩)

/-- m and e of a positive real m × 2^e with 1 ≤ m < 2. -/
def normal (q : Q) : Q × Int :=
  let e := ratLog2 q.num.natAbs q.den + q.e
  (⟨q.num.natAbs, q.den, q.e - e⟩, e)

/-- floor of a real that is not negative. -/
def floorNat (q : Q) : Nat := (splitMag q.num.natAbs q.den q.e).1

/-- exp2_k (R80). -/
def exp2k (b : Nat) : Nat :=
  match decodeFmt 2 b with
  | .nan => canonNaN 2
  | .inf s => if s then 0 else inf32
  | .fin x _ =>
    if !x.lt (.int 128) then inf32
    else if x.lt (.int (-150)) then 0
    else
      let n := x.round 2
      let f := x.add (.int (-n))
      let j := floorNat (f.shift 7)
      let t := f.add ⟨-(j : Int), 1, -7⟩
      let q := round32 0 (((Q.int 1).add ((q32 0x3F317218).mul t)).add ((q32 0x3E75FDF0).mul (t.mul t)))
      round32 0 (((expT j).mul (q32 q)).shift n)

/-- exp_k (R80). -/
def expk (b : Nat) : Nat := exp2k (fmulBits 2 0 b 0x3FB8AA3B)

/-- log2_k (R81). -/
def log2k (b : Nat) : Nat :=
  match decodeFmt 2 b with
  | .nan => canonNaN 2
  | .inf s => if s then canonNaN 2 else inf32
  | .fin x _ =>
    if x.num = 0 then ninf32
    else if x.num < 0 then canonNaN 2
    else
      let (m, e) := normal x
      let j := floorNat ((m.add (.int (-1))).shift 7)
      let g : Q := ⟨128 + (j : Int), 1, -7⟩
      let t := (m.add g.neg).div g
      let q := round32 0 (((q32 0x3FB8AA3B).mul t).add ((q32 0xBF38AA3B).mul (t.mul t)))
      round32 0 (((Q.int e).add (logT j)).add (q32 q))

/-- rcp_k (R82). -/
def rcpk (b : Nat) : Nat :=
  match decodeFmt 2 b with
  | .nan => canonNaN 2
  | .inf s => b2n s * 2 ^ 31
  | .fin x _ =>
    let s := bit b 31
    if x.num = 0 then (if s then ninf32 else inf32)
    else
      let (m, e) := normal x
      let j := floorNat ((m.add (.int (-1))).shift 7)
      let t := m.add ⟨-(128 + (j : Int)), 1, -7⟩
      let tj := q32 (round32 0 ⟨128, 128 + j, 0⟩)
      let sv := t.mul tj
      let q := round32 0 (((Q.int 1).add sv.neg).add (sv.mul sv))
      round32 0 ((tj.mul (q32 q)).shift (-e)) + b2n s * 2 ^ 31

/-- rsq_k (R83). -/
def rsqk (b : Nat) : Nat :=
  match decodeFmt 2 b with
  | .nan => canonNaN 2
  | .inf s => if s then canonNaN 2 else 0
  | .fin x _ =>
    if x.num = 0 then (if bit b 31 then ninf32 else inf32)
    else if x.num < 0 then canonNaN 2
    else
      let (m, e) := normal x
      let p := e % 2
      let h := (e - p) / 2
      let k := floorNat ((m.add (.int (-1))).shift 6)
      let g : Q := ⟨64 + (k : Int), 1, p - 6⟩
      let tj := q32 (round32 0 (sqrtQ 64 (64 + k) (-p)))
      let s := ((m.shift p).add g.neg).div g
      let q := round32 0 (((Q.int 1).add (s.neg.shift (-1))).add ((Q.int 3).mul ((s.mul s).shift (-3))))
      round32 0 ((tj.mul (q32 q)).shift (-h))

/-- √x rounded by mode; −0 gives −0, a negative x gives NaN (R229, R471). -/
def fsqrtBits (mode b : Nat) : Nat :=
  match decodeFmt 2 b with
  | .nan => canonNaN 2
  | .inf s => if s then canonNaN 2 else inf32
  | .fin x _ => if x.num = 0 then b else if x.num < 0 then canonNaN 2 else round32 mode (sqrtQ x.num.natAbs 1 x.e)

end Sys2Proof.Machine
end

