-- ==== Sys2Proof/Machine/LoadStore.lean ====
section
/-! DEFINITION. Loads and stores (R44, R168, R169), full-empty accesses (R50, R51, R170) and atomics (R133, R171). -/

namespace Sys2Proof.Machine

/-- The offset of a MEM instruction: its bytes, the operand, and under LIW the prefixed word and the immediate (R142). -/
structure MemOff where
  len : Nat
  off : Int
  liw : Option (Nat × Nat)

/-- The operand of a MEM word (R140). -/
def memPlain (o : BitVec 12) : MemOff := ⟨4, o.toInt, none⟩

/-- The checked effective address of a MEM instruction (R43, R140, R403, R406). -/
def memAddr (s : State) (a : At) (b : BitVec 6) (m : MemOff) (spaces : List Nat) (size : Nat) : Act Nat :=
  match rd s a b with
  | .error e => .error e
  | .ok base =>
    let ad := effAddr base m.off size
    match m.liw with
    | some (w, v) =>
      if offCarry base m.off size then raise 0x08 w v 0
      else (match checkAddr spaces size size base.toNat ad with
        | .ok _ => .ok ad
        | .error c => .error (.trap c))
    | none => match checkAddr spaces size size base.toNat ad with
      | .ok _ => .ok ad
      | .error c => .error (.trap c)

/-- A loaded value reaches its destination: exposed latency 4 from local pond, else scoreboarded (R44, R144). -/
def loadDone (s : State) (a : At) (d : BitVec 5) (nw : BitVec 1) (local_ : Bool) (v : Dword) : Act Done :=
  if local_ then
    match wrG s a d nw 4 v with
    | .ok s => .ok ⟨onStrand s a (fun t => { t with ldReady := s.cycle + 4 }), 0, .seq⟩
    | .error e => .error e
  else .ok ⟨addSb s a (destG d nw) true true (some v), 0, .seq⟩

/-- May a scoreboarded access issue: its destination free and one of the 32 places open (R144, R169)? -/
def mayAccess (s : State) (a : At) (near : Bool) (d : Nat) : Bool :=
  !gBusy (strandAt s a) d && (near || sbRoom (strandAt s a))

/-- LD of size bytes (R168). -/
def ldOp (m : MemOff) (d : BitVec 5) (b : BitVec 6) (size : Nat) (signed : Bool) (s : State) :
    Host.Outcome State Fault Refusal :=
  issue m.len s fun a s =>
    match memAddr s a b m [0, 1, 2, 3] size with
    | .error e => .error e
    | .ok ad =>
      let near := bits ad 60 4 == 2
      match reach s a ad false with
      | .error e => .error e
      | .ok (s, r) =>
        if !mayAccess s a near d.toNat then stall s
        else match r with
          | .remote va l => .ok ⟨remoteOut s a va l 0 (if signed then size + 8 else size) 0 0 (destG d 0) true, 0, .seq⟩
          | r => match ccPoison s a r size with
            | .error e => .error e
            | .ok _ => loadDone s a d 0 near (extend signed size (reachRead s a r size))

/-- The end of a store: local pond at once, else counted until it is performed (R169). -/
def storeDone (s : State) (a : At) (near : Bool) : Act Done :=
  .ok ⟨if near then s else addSb s a .none true false (some 0), 0, .seq⟩

/-- ST of the low size bytes of g register r (R168). -/
def stOp (m : MemOff) (r : BitVec 5) (b : BitVec 6) (size : Nat) (s : State) : Host.Outcome State Fault Refusal :=
  issue m.len s fun a s =>
    match memAddr s a b m [0, 1, 2, 3] size with
    | .error e => .error e
    | .ok ad =>
      let near := bits ad 60 4 == 2
      match reach s a ad true with
      | .error e => .error e
      | .ok (s, x) =>
        match rdG s a r.toNat with
        | .error e => .error e
        | .ok v =>
          if !mayAccess s a near 0 then stall s
          else match x with
            | .remote va l => .ok ⟨remoteOut s a va l 1 size v.toNat 0 .none false, 0, .seq⟩
            | x => storeDone (reachWrite s a x size v.toNat) a near

/-- STF of size bytes (R170): the data and the granule's bit together. -/
def stfOp (m : MemOff) (r : BitVec 5) (b : BitVec 6) (size : Nat) (s : State) : Host.Outcome State Fault Refusal :=
  issue m.len s fun a s =>
    match memAddr s a b m [2, 3] size with
    | .error e => .error e
    | .ok ad =>
      match rdG s a r.toNat with
      | .error e => .error e
      | .ok v =>
        let near := bits ad 60 4 == 2
        let p := placeOf a.c ad
        if !mayAccess s a near 0 then stall s
        else storeDone (setFull (putPlace s (lkeyOf s a) p (leBytes size v.toNat)) p.core p.off) a near

/-- LDF of size bytes (R50, R170): waits while the granule is empty; take clears it. DESIGN CHOICE: an LDF from the cluster pond on
an empty granule leaves the strand waiting before it issues, as one from the local pond does (R20); R170 and R197 can also be read
as issuing it and holding it at the source pond (log 75). -/
def ldfOp (m : MemOff) (d : BitVec 5) (b : BitVec 6) (size : Nat) (take : Bool) (s : State) :
    Host.Outcome State Fault Refusal :=
  issue m.len s fun a s =>
    match memAddr s a b m [2, 3] size with
    | .error e => .error e
    | .ok ad =>
      let near := bits ad 60 4 == 2
      let p := placeOf a.c ad
      if !mayAccess s a near d.toNat then stall s
      else if !isFull s p.core p.off then .error (.wait s (.granule (ad / 16 * 16)) true 0)
      else match ccPoison s a (.near p) size with
        | .error e => .error e
        | .ok _ =>
          let v := BitVec.ofNat 64 (reachRead s a (.near p) size)
          loadDone (if take then clearFull s p.core p.off else s) a d 0 near v

/-- op(old, v) of R171 by kind: 2 AADD, 3 ASADD, 4 AMIN, 5 AMAX, 6 AMINN, 7 AMAXN, 8 AAND, 9 AOR, 10 AXOR, 11 ASWAP,
12 ACAS, 13 AFADD; w is the width in bits. -/
def atomFn (kind w old v c : Nat) : Nat :=
  match kind with
  | 2 => (old + v) % 2 ^ w
  | 3 => Nat.min (old + v) (2 ^ w - 1)
  | 4 => if sgn v w < sgn old w then v else old
  | 5 => if sgn old w < sgn v w then v else old
  | 6 => Nat.min old v
  | 7 => Nat.max old v
  | 8 => Nat.land old v
  | 9 => Nat.lor old v
  | 10 => Nat.xor old v
  | 11 => v
  | 12 => if old = c then v else old
  | _ => faddBits 2 0 old v

/-- The value an ACAS compares with: d's, read at issue (R171). Other atomics read nothing. -/
def casVal (s : State) (a : At) (kind : Nat) (d : BitVec 5) : Act Dword :=
  if kind = 12 then rdG s a d.toNat else .ok 0

/-- An atomic of R171 on size bytes. -/
def atomOp (kind size : Nat) (d : BitVec 5) (nw : BitVec 1) (x y : BitVec 6) (s : State) :
    Host.Outcome State Fault Refusal :=
  issue 4 s fun a s =>
    match rd s a x with
    | .error e => .error e
    | .ok base =>
      let ad := base.toNat
      match checkAddr [0, 1, 2, 3] size size ad ad with
      | .error e => .error (.trap e)
      | .ok _ =>
        match reach s a ad true with
        | .error e => .error e
        | .ok (s, r) =>
          match rd s a y, casVal s a kind d with
          | .error e, _ => .error e
          | _, .error e => .error e
          | .ok u, .ok c0 =>
            if !mayAccess s a false (if nw = 1 then 0 else d.toNat) then stall s
            else
              let w := 8 * size
              let v := u.toNat % 2 ^ w
              let c := c0.toNat % 2 ^ w
              match r with
              | .remote va l => .ok ⟨remoteOut s a va l kind size v c (destG d nw) false, 0, .seq⟩
              | r => match ccPoison s a r size with
                | .error e => .error e
                | .ok _ =>
                  let old := reachRead s a r size
                  let s := reachWrite s a r size (atomFn kind w old v c)
                  .ok ⟨addSb s a (destG d nw) true false (some (BitVec.ofNat 64 old)), 0, .seq⟩


/-- LD.s8 (R168). -/
def execLdS8 (d : BitVec 5) (b : BitVec 6) (o : BitVec 12) (s : State) : Host.Outcome State Fault Refusal :=
  ldOp (memPlain o) d b 1 true s

/-- LD.n8 (R168). -/
def execLdN8 (d : BitVec 5) (b : BitVec 6) (o : BitVec 12) (s : State) : Host.Outcome State Fault Refusal :=
  ldOp (memPlain o) d b 1 false s

/-- LD.s16 (R168). -/
def execLdS16 (d : BitVec 5) (b : BitVec 6) (o : BitVec 12) (s : State) : Host.Outcome State Fault Refusal :=
  ldOp (memPlain o) d b 2 true s

/-- LD.n16 (R168). -/
def execLdN16 (d : BitVec 5) (b : BitVec 6) (o : BitVec 12) (s : State) : Host.Outcome State Fault Refusal :=
  ldOp (memPlain o) d b 2 false s

/-- LD.s32 (R168). -/
def execLdS32 (d : BitVec 5) (b : BitVec 6) (o : BitVec 12) (s : State) : Host.Outcome State Fault Refusal :=
  ldOp (memPlain o) d b 4 true s

/-- LD.n32 (R168). -/
def execLdN32 (d : BitVec 5) (b : BitVec 6) (o : BitVec 12) (s : State) : Host.Outcome State Fault Refusal :=
  ldOp (memPlain o) d b 4 false s

/-- LD.d (R168). -/
def execLdD (d : BitVec 5) (b : BitVec 6) (o : BitVec 12) (s : State) : Host.Outcome State Fault Refusal :=
  ldOp (memPlain o) d b 8 false s

/-- ST.b (R168). -/
def execStB (r : BitVec 5) (b : BitVec 6) (o : BitVec 12) (s : State) : Host.Outcome State Fault Refusal :=
  stOp (memPlain o) r b 1 s

/-- ST.h (R168). -/
def execStH (r : BitVec 5) (b : BitVec 6) (o : BitVec 12) (s : State) : Host.Outcome State Fault Refusal :=
  stOp (memPlain o) r b 2 s

/-- ST.w (R168). -/
def execStW (r : BitVec 5) (b : BitVec 6) (o : BitVec 12) (s : State) : Host.Outcome State Fault Refusal :=
  stOp (memPlain o) r b 4 s

/-- ST.d (R168). -/
def execStD (r : BitVec 5) (b : BitVec 6) (o : BitVec 12) (s : State) : Host.Outcome State Fault Refusal :=
  stOp (memPlain o) r b 8 s

/-- STF.w (R170). -/
def execStfW (r : BitVec 5) (b : BitVec 6) (o : BitVec 12) (s : State) : Host.Outcome State Fault Refusal :=
  stfOp (memPlain o) r b 4 s

/-- STF.d (R170). -/
def execStfD (r : BitVec 5) (b : BitVec 6) (o : BitVec 12) (s : State) : Host.Outcome State Fault Refusal :=
  stfOp (memPlain o) r b 8 s

/-- LDF.w.keep (R170). -/
def execLdfWKeep (d : BitVec 5) (b : BitVec 6) (o : BitVec 12) (s : State) : Host.Outcome State Fault Refusal :=
  ldfOp (memPlain o) d b 4 false s

/-- LDF.w.take (R170). -/
def execLdfWTake (d : BitVec 5) (b : BitVec 6) (o : BitVec 12) (s : State) : Host.Outcome State Fault Refusal :=
  ldfOp (memPlain o) d b 4 true s

/-- LDF.d.keep (R170). -/
def execLdfDKeep (d : BitVec 5) (b : BitVec 6) (o : BitVec 12) (s : State) : Host.Outcome State Fault Refusal :=
  ldfOp (memPlain o) d b 8 false s

/-- LDF.d.take (R170). -/
def execLdfDTake (d : BitVec 5) (b : BitVec 6) (o : BitVec 12) (s : State) : Host.Outcome State Fault Refusal :=
  ldfOp (memPlain o) d b 8 true s

/-- AADD.w (R171). -/
def execAaddW (d : BitVec 5) (n : BitVec 1) (a b : BitVec 6) (s : State) : Host.Outcome State Fault Refusal :=
  atomOp 2 4 d n a b s

/-- AADD.d (R171). -/
def execAaddD (d : BitVec 5) (n : BitVec 1) (a b : BitVec 6) (s : State) : Host.Outcome State Fault Refusal :=
  atomOp 2 8 d n a b s

/-- ASADD.w (R171). -/
def execAsaddW (d : BitVec 5) (n : BitVec 1) (a b : BitVec 6) (s : State) : Host.Outcome State Fault Refusal :=
  atomOp 3 4 d n a b s

/-- ASADD.d (R171). -/
def execAsaddD (d : BitVec 5) (n : BitVec 1) (a b : BitVec 6) (s : State) : Host.Outcome State Fault Refusal :=
  atomOp 3 8 d n a b s

/-- AMIN.w (R171). -/
def execAminW (d : BitVec 5) (n : BitVec 1) (a b : BitVec 6) (s : State) : Host.Outcome State Fault Refusal :=
  atomOp 4 4 d n a b s

/-- AMIN.d (R171). -/
def execAminD (d : BitVec 5) (n : BitVec 1) (a b : BitVec 6) (s : State) : Host.Outcome State Fault Refusal :=
  atomOp 4 8 d n a b s

/-- AMAX.w (R171). -/
def execAmaxW (d : BitVec 5) (n : BitVec 1) (a b : BitVec 6) (s : State) : Host.Outcome State Fault Refusal :=
  atomOp 5 4 d n a b s

/-- AMAX.d (R171). -/
def execAmaxD (d : BitVec 5) (n : BitVec 1) (a b : BitVec 6) (s : State) : Host.Outcome State Fault Refusal :=
  atomOp 5 8 d n a b s

/-- AMINN.w (R171). -/
def execAminnW (d : BitVec 5) (n : BitVec 1) (a b : BitVec 6) (s : State) : Host.Outcome State Fault Refusal :=
  atomOp 6 4 d n a b s

/-- AMINN.d (R171). -/
def execAminnD (d : BitVec 5) (n : BitVec 1) (a b : BitVec 6) (s : State) : Host.Outcome State Fault Refusal :=
  atomOp 6 8 d n a b s

/-- AMAXN.w (R171). -/
def execAmaxnW (d : BitVec 5) (n : BitVec 1) (a b : BitVec 6) (s : State) : Host.Outcome State Fault Refusal :=
  atomOp 7 4 d n a b s

/-- AMAXN.d (R171). -/
def execAmaxnD (d : BitVec 5) (n : BitVec 1) (a b : BitVec 6) (s : State) : Host.Outcome State Fault Refusal :=
  atomOp 7 8 d n a b s

/-- AAND.w (R171). -/
def execAandW (d : BitVec 5) (n : BitVec 1) (a b : BitVec 6) (s : State) : Host.Outcome State Fault Refusal :=
  atomOp 8 4 d n a b s

/-- AAND.d (R171). -/
def execAandD (d : BitVec 5) (n : BitVec 1) (a b : BitVec 6) (s : State) : Host.Outcome State Fault Refusal :=
  atomOp 8 8 d n a b s

/-- AOR.w (R171). -/
def execAorW (d : BitVec 5) (n : BitVec 1) (a b : BitVec 6) (s : State) : Host.Outcome State Fault Refusal :=
  atomOp 9 4 d n a b s

/-- AOR.d (R171). -/
def execAorD (d : BitVec 5) (n : BitVec 1) (a b : BitVec 6) (s : State) : Host.Outcome State Fault Refusal :=
  atomOp 9 8 d n a b s

/-- AXOR.w (R171). -/
def execAxorW (d : BitVec 5) (n : BitVec 1) (a b : BitVec 6) (s : State) : Host.Outcome State Fault Refusal :=
  atomOp 10 4 d n a b s

/-- AXOR.d (R171). -/
def execAxorD (d : BitVec 5) (n : BitVec 1) (a b : BitVec 6) (s : State) : Host.Outcome State Fault Refusal :=
  atomOp 10 8 d n a b s

/-- ASWAP.w (R171). -/
def execAswapW (d : BitVec 5) (n : BitVec 1) (a b : BitVec 6) (s : State) : Host.Outcome State Fault Refusal :=
  atomOp 11 4 d n a b s

/-- ASWAP.d (R171). -/
def execAswapD (d : BitVec 5) (n : BitVec 1) (a b : BitVec 6) (s : State) : Host.Outcome State Fault Refusal :=
  atomOp 11 8 d n a b s

/-- ACAS.w (R171). -/
def execAcasW (d : BitVec 5) (n : BitVec 1) (a b : BitVec 6) (s : State) : Host.Outcome State Fault Refusal :=
  atomOp 12 4 d n a b s

/-- ACAS.d (R171). -/
def execAcasD (d : BitVec 5) (n : BitVec 1) (a b : BitVec 6) (s : State) : Host.Outcome State Fault Refusal :=
  atomOp 12 8 d n a b s

/-- AFADD.w (R171). -/
def execAfaddW (d : BitVec 5) (n : BitVec 1) (a b : BitVec 6) (s : State) : Host.Outcome State Fault Refusal :=
  atomOp 13 4 d n a b s

end Sys2Proof.Machine
end

