-- ==== Sys2Proof/Machine/Preds.lean ====
section
/-! DEFINITION. Predicates (R166), mask registers (R176) and shape registers (R177). -/

namespace Sys2Proof.Machine

/-- A comparison of two selectors into a predicate (R166). -/
def cmpP (d : BitVec 3) (x y : BitVec 6) (f : Dword → Dword → Bool) (s : State) : Host.Outcome State Fault Refusal :=
  issue 4 s fun a s =>
    match rd s a x, rd s a y with
    | .ok u, .ok v => (match wrP s a d.toNat (f u v) with
      | .ok s => .ok ⟨s, 0, .seq⟩
      | .error e => .error e)
    | .error e, _ => .error e
    | _, .error e => .error e

/-- A function of two predicates into a predicate (R166). -/
def opP (d x y : BitVec 3) (f : Bool → Bool → Bool) (s : State) : Host.Outcome State Fault Refusal :=
  issue 4 s fun a s =>
    match rdP s a x.toNat, rdP s a y.toNat with
    | .ok u, .ok v => (match wrP s a d.toNat (f u v) with
      | .ok s => .ok ⟨s, 0, .seq⟩
      | .error e => .error e)
    | .error e, _ => .error e
    | _, .error e => .error e

/-- PEQ (R166). -/
def execPeq (d : BitVec 3) (a b : BitVec 6) (s : State) : Host.Outcome State Fault Refusal :=
  cmpP d a b (fun u v => u == v) s

/-- PNE (R166). -/
def execPne (d : BitVec 3) (a b : BitVec 6) (s : State) : Host.Outcome State Fault Refusal :=
  cmpP d a b (fun u v => u != v) s

/-- PLT (R166). -/
def execPlt (d : BitVec 3) (a b : BitVec 6) (s : State) : Host.Outcome State Fault Refusal :=
  cmpP d a b (fun u v => u.slt v) s

/-- PLTN (R166). -/
def execPltn (d : BitVec 3) (a b : BitVec 6) (s : State) : Host.Outcome State Fault Refusal :=
  cmpP d a b (fun u v => u.ult v) s

/-- PLE (R166). -/
def execPle (d : BitVec 3) (a b : BitVec 6) (s : State) : Host.Outcome State Fault Refusal :=
  cmpP d a b (fun u v => u.sle v) s

/-- PLEN (R166). -/
def execPlen (d : BitVec 3) (a b : BitVec 6) (s : State) : Host.Outcome State Fault Refusal :=
  cmpP d a b (fun u v => u.ule v) s

/-- PAND (R166). -/
def execPand (d a b : BitVec 3) (s : State) : Host.Outcome State Fault Refusal :=
  opP d a b (fun u v => u && v) s

/-- POR (R166). -/
def execPor (d a b : BitVec 3) (s : State) : Host.Outcome State Fault Refusal :=
  opP d a b (fun u v => u || v) s

/-- PXOR (R166). -/
def execPxor (d a b : BitVec 3) (s : State) : Host.Outcome State Fault Refusal :=
  opP d a b (fun u v => u != v) s

/-- PNOT (R166). -/
def execPnot (d a : BitVec 3) (s : State) : Host.Outcome State Fault Refusal :=
  opP d a a (fun u _ => !u) s

/-- PTOG (R166). -/
def execPtog (d : BitVec 3) (s : State) : Host.Outcome State Fault Refusal :=
  opP d d d (fun u _ => !u) s

/-- The value of k register n. -/
def kVal (s : State) (a : At) (n : BitVec 4) : Nat := tabGet 0 (strandAt s a).k n.toNat

/-- The value of e register n. -/
def eVal (s : State) (a : At) (n : BitVec 4) : Nat := tabGet 0 (strandAt s a).e n.toNat

/-- A mask operation on two k registers (R176). -/
def opK (d x y : BitVec 4) (f : Nat → Nat → Nat) (s : State) : Host.Outcome State Fault Refusal :=
  issue 4 s fun a s => .ok ⟨wrK s a d.toNat (f (kVal s a x) (kVal s a y)), 0, .seq⟩

/-- A mask operation on a k register and a selector (R176). -/
def opKG (d x : BitVec 4) (y : BitVec 6) (f : Nat → Nat → Nat) (s : State) : Host.Outcome State Fault Refusal :=
  issue 4 s fun a s =>
    match rd s a y with
    | .ok v => .ok ⟨wrK s a d.toNat (f (kVal s a x) v.toNat), 0, .seq⟩
    | .error e => .error e

/-- A g result from a k register, of the ALU class (R143, R176). -/
def opGK (d : BitVec 5) (nw : BitVec 1) (x : BitVec 4) (f : Nat → Nat) (s : State) : Host.Outcome State Fault Refusal :=
  issue 4 s fun a s => aluDone s a d nw (BitVec.ofNat 64 (f (kVal s a x)))

/-- KAND (R176). nw is zero in the words (log 20). -/
def execKand (d : BitVec 4) (_n : BitVec 1) (a b : BitVec 4) (s : State) : Host.Outcome State Fault Refusal :=
  opK d a b (fun u v => Nat.land u v) s

/-- KOR (R176). nw is zero in the words (log 20). -/
def execKor (d : BitVec 4) (_n : BitVec 1) (a b : BitVec 4) (s : State) : Host.Outcome State Fault Refusal :=
  opK d a b (fun u v => Nat.lor u v) s

/-- KXOR (R176). nw is zero in the words (log 20). -/
def execKxor (d : BitVec 4) (_n : BitVec 1) (a b : BitVec 4) (s : State) : Host.Outcome State Fault Refusal :=
  opK d a b (fun u v => Nat.xor u v) s

/-- KANDN (R176). nw is zero in the words (log 20). -/
def execKandn (d : BitVec 4) (_n : BitVec 1) (a b : BitVec 4) (s : State) : Host.Outcome State Fault Refusal :=
  opK d a b (fun u v => Nat.land u (65535 - v)) s

/-- KNOT (R176). -/
def execKnot (d : BitVec 4) (_n : BitVec 1) (a : BitVec 4) (s : State) : Host.Outcome State Fault Refusal :=
  opK d a a (fun u _ => 65535 - u) s

/-- KSHL: zero when b is 16 or more (R176). -/
def execKshl (d : BitVec 4) (_n : BitVec 1) (a : BitVec 4) (b : BitVec 6) (s : State) : Host.Outcome State Fault Refusal :=
  opKG d a b (fun u v => if 16 ≤ v then 0 else u * 2 ^ v) s

/-- KSHR: zero when b is 16 or more (R176). -/
def execKshr (d : BitVec 4) (_n : BitVec 1) (a : BitVec 4) (b : BitVec 6) (s : State) : Host.Outcome State Fault Refusal :=
  opKG d a b (fun u v => if 16 ≤ v then 0 else u / 2 ^ v) s

/-- KPOP (R176). -/
def execKpop (d : BitVec 5) (n : BitVec 1) (a : BitVec 4) (s : State) : Host.Outcome State Fault Refusal :=
  opGK d n a (popCount 16) s

/-- KMOVG (R176). -/
def execKmovg (d : BitVec 5) (n : BitVec 1) (a : BitVec 4) (s : State) : Host.Outcome State Fault Refusal :=
  opGK d n a id s

/-- KMOVK (R176). -/
def execKmovk (d : BitVec 4) (_n : BitVec 1) (a : BitVec 6) (s : State) : Host.Outcome State Fault Refusal :=
  opKG d 0 a (fun _ v => v) s

/-- KBIT (R176). -/
def execKbit (d : BitVec 4) (_n : BitVec 1) (a : BitVec 4) (b : BitVec 6) (s : State) : Host.Outcome State Fault Refusal :=
  opKG d a b (fun u v => Nat.lor u (2 ^ (v % 16))) s

/-- KTST: bit (b mod 16) of ka into pd (R176). -/
def execKtst (d : BitVec 3) (_n : BitVec 1) (a : BitVec 4) (b : BitVec 6) (s : State) : Host.Outcome State Fault Refusal :=
  issue 4 s fun at_ s =>
    match rd s at_ b with
    | .ok v => (match wrP s at_ d.toNat (bit (kVal s at_ a) (v.toNat % 16)) with
      | .ok s => .ok ⟨s, 0, .seq⟩
      | .error e => .error e)
    | .error e => .error e

/-- KLDM: bits [15:0] of a >> b[5:0] (R176). -/
def execKldm (d : BitVec 4) (_n : BitVec 1) (a b : BitVec 6) (s : State) : Host.Outcome State Fault Refusal :=
  issue 4 s fun at_ s =>
    match rd s at_ a, rd s at_ b with
    | .ok u, .ok v => .ok ⟨wrK s at_ d.toNat (u.toNat / 2 ^ (v.toNat % 64)), 0, .seq⟩
    | .error e, _ => .error e
    | _, .error e => .error e

/-- KFFS: index of the lowest set bit, 16 for 0 (R176). -/
def execKffs (d : BitVec 5) (n : BitVec 1) (a : BitVec 4) (s : State) : Host.Outcome State Fault Refusal :=
  opGK d n a (lowBit 16) s

/-- A shape operation on an e register and a selector (R177). -/
def opE (d x : BitVec 4) (y : BitVec 6) (f : Nat → Nat → Nat) (s : State) : Host.Outcome State Fault Refusal :=
  issue 4 s fun a s =>
    match rd s a y with
    | .ok v => .ok ⟨wrE s a d.toNat (f (eVal s a x) (v.toNat % 2 ^ 32)), 0, .seq⟩
    | .error e => .error e

/-- EMOV (R177). -/
def execEmov (d : BitVec 4) (_n : BitVec 1) (a : BitVec 6) (s : State) : Host.Outcome State Fault Refusal :=
  opE d 0 a (fun _ v => v) s

/-- EGET, of the ALU class (R143, R177). -/
def execEget (d : BitVec 5) (n : BitVec 1) (a : BitVec 4) (s : State) : Host.Outcome State Fault Refusal :=
  issue 4 s fun at_ s => aluDone s at_ d n (BitVec.ofNat 64 (eVal s at_ a))

/-- EMIN (R177). -/
def execEmin (d : BitVec 4) (_n : BitVec 1) (a : BitVec 4) (b : BitVec 6) (s : State) : Host.Outcome State Fault Refusal :=
  opE d a b (fun u v => Nat.min u v) s

/-- ESUB (R177). -/
def execEsub (d : BitVec 4) (_n : BitVec 1) (a : BitVec 4) (b : BitVec 6) (s : State) : Host.Outcome State Fault Refusal :=
  opE d a b (fun u v => u - v) s

/-- EADD (R177). -/
def execEadd (d : BitVec 4) (_n : BitVec 1) (a : BitVec 4) (b : BitVec 6) (s : State) : Host.Outcome State Fault Refusal :=
  opE d a b (fun u v => Nat.min (2 ^ 32 - 1) (u + v)) s

/-- ECLR: every ei with a[i] = 1 becomes 0 (R177). -/
def execEclr (a : BitVec 6) (s : State) : Host.Outcome State Fault Refusal :=
  issue 4 s fun at_ s =>
    match rd s at_ a with
    | .ok v => .ok ⟨(setBits 16 v.toNat).foldl (fun s i => wrE s at_ i 0) s, 0, .seq⟩
    | .error e => .error e

end Sys2Proof.Machine
end

