-- ==== Sys2Proof/Machine/Branch.lean ====
section
/-! DEFINITION. Branches, jumps and loops (R178 to R183) and SCHED (R40, R192). -/

namespace Sys2Proof.Machine

/-- The address off words from pc (R178, R179). -/
def wordsFrom (pc : Nat) (off : Int) : Nat := wrap ((pc : Int) + 4 * off) 52

/-- The strand's pc. -/
def pcOf (s : State) (a : At) : Nat := (strandAt s a).pc.toNat

/-- BR (R178). -/
def brOp (len : Nat) (p : BitVec 3) (v : BitVec 1) (off : Int) (s : State) : Host.Outcome State Fault Refusal :=
  issue len s fun a s =>
    match rdP s a p.toNat with
    | .ok c => .ok ⟨s, 0, if c != (v == 1) then .jump (wordsFrom (pcOf s a) off) else .seq⟩
    | .error e => .error e

/-- JAL (R179). -/
def jalOp (len : Nat) (d : BitVec 5) (n : BitVec 1) (off : Int) (s : State) : Host.Outcome State Fault Refusal :=
  issue len s fun a s =>
    let pc := pcOf s a
    match wrG s a d n 1 (BitVec.ofNat 64 ((pc + len) % 2 ^ 52)) with
    | .ok s => .ok ⟨s, 0, .jump (wordsFrom pc off)⟩
    | .error e => .error e

/-- JR (R180): the target has bits [1:0] and [63:52] zero (R404). -/
def jrOp (len : Nat) (d : BitVec 5) (n : BitVec 1) (x : BitVec 6) (off : Int) (s : State) :
    Host.Outcome State Fault Refusal :=
  issue len s fun a s =>
    match rd s a x with
    | .ok u =>
      let target := (u + BitVec.ofInt 64 (4 * off)).toNat
      if target % 4 ≠ 0 ∨ 2 ^ 52 ≤ target then raise 0x25 target 0 0
      else (match wrG s a d n 1 (BitVec.ofNat 64 ((pcOf s a + len) % 2 ^ 52)) with
        | .ok s => .ok ⟨s, 0, .jump target⟩
        | .error e => .error e)
    | .error e => .error e

/-- The instruction word at a global address of a context, if the page tables give one (R58). -/
def peekWord (s : State) (ctx va : Nat) : Option Nat :=
  match translateFlat s ctx va false with
  | .ok (loc, false) => some (loadNat s loc 4)
  | _ => none

/-- Does a body that starts at p end at stop with the last word of an instruction (R182, R408)? A part that cannot be read
is left to its own fetch (R404). -/
def bodyEnds (s : State) (ctx stop : Nat) : Nat → Nat → Bool
  | 0, _ => true
  | f + 1, p =>
    if p = stop then true
    else if stop < p then false
    else match peekWord s ctx p with
      | none => true
      | some w => bodyEnds s ctx stop f (if w / 2 ^ 26 = 63 then p + 12 else p + 4)

/-- Arms a loop of l words with a count (R183, R408); word is what 0x1E names. -/
def armLoop (len l count word : Nat) (a : At) (s : State) : Act Done :=
  let start := pcOf s a + len
  let stop := start + 4 * l
  if l = 0 ∨ !bodyEnds s (ctxOf s a) stop (l + 1) start then raise 0x1E word 0 0
  else if count = 0 then
    .ok ⟨onStrand s a (fun t => { advance len 0 .seq { t with loop := none, lc := 0 } with pc := BitVec.ofNat 52 stop }),
      0, .own⟩
  else .ok ⟨onStrand s a (fun t => { t with loop := some ⟨start, stop⟩, lc := count }), 0, .seq⟩

/-- LOOP (R182, R183). -/
def loopOp (len : Nat) (x : BitVec 6) (l word : Nat) (s : State) : Host.Outcome State Fault Refusal :=
  issue len s fun a s =>
    match rd s a x with
    | .ok u => armLoop len l (u.toNat % 2 ^ 32) word a s
    | .error e => .error e

/-- LOOPI (R182, R183). -/
def loopiOp (len l count word : Nat) (s : State) : Host.Outcome State Fault Refusal :=
  issue len s fun a s => armLoop len l count word a s

/-- BR (R178). -/
def execBr (p : BitVec 3) (v : BitVec 1) (o : BitVec 22) (s : State) : Host.Outcome State Fault Refusal :=
  brOp 4 p v o.toInt s

/-- JAL (R179). -/
def execJal (d : BitVec 5) (n : BitVec 1) (o : BitVec 20) (s : State) : Host.Outcome State Fault Refusal :=
  jalOp 4 d n o.toInt s

/-- JR (R180). -/
def execJr (d : BitVec 5) (n : BitVec 1) (a : BitVec 6) (i : BitVec 14) (s : State) : Host.Outcome State Fault Refusal :=
  jrOp 4 d n a i.toInt s

/-- LOOP (R182). -/
def execLoop (a : BitVec 6) (l : BitVec 13) (s : State) : Host.Outcome State Fault Refusal :=
  loopOp 4 a l.toNat (wRI 0x18 0 0 a (l.setWidth 14)).toNat s

/-- LOOPI (R182). -/
def execLoopi (l : BitVec 5) (c : BitVec 13) (s : State) : Host.Outcome State Fault Refusal :=
  loopiOp 4 (l.toNat + 1) c.toNat (wRI 0x18 l 0 0 (1#1 ++ c)).toNat s

/-- The first entry of a SCHED table whose bound covers x: its target in words (R40). -/
def schedFind (table : List Nat) (x : Nat) : Option Int :=
  (table.find? (fun e => decide (x ≤ e % 2 ^ 32))).map (fun e => sgn (e / 2 ^ 32) 32)

/-- SCHED (R40, R192): the timing of a taken BR when it branches. -/
def execSched (a : BitVec 4) (b : BitVec 6) (s : State) : Host.Outcome State Fault Refusal :=
  issue 4 s fun at_ s =>
    match rd s at_ b with
    | .error e => .error e
    | .ok u =>
      match checkAddr [2] 64 64 u.toNat u.toNat with
      | .error c => .error (.trap c)
      | .ok _ =>
        let p := placeOf at_.c u.toNat
        let table := (List.range 8).map (fun i => leNat (fetchPlace s 0 (p.plus (8 * i)) 8))
        .ok ⟨s, 0, match schedFind table (eVal s at_ a) with
          | some off => .jump (wordsFrom (pcOf s at_) off)
          | none => .seq⟩

end Sys2Proof.Machine
end

