-- ==== Sys2Proof/Machine/Regions.lean ====
section
/-! DEFINITION. Structures read at issue and the elements of regions: layout records (R34 to R37), blocks and scales (R47, R69,
R74, R75, R79), bank formats (R46), the granules of a read or write (R50). -/

namespace Sys2Proof.Machine

/-! ## Bad fields -/

/-- The offset of the lowest set bit of a field that must be zero. -/
def badZero (v lo w : Nat) : List Nat := if bits v lo w = 0 then [] else [lo + lowBit w (bits v lo w)]

/-- An offset, if a field is bad. -/
def badIf (b : Bool) (o : Nat) : List Nat := if b then [o] else []

/-- The least number of a list. -/
def minOf : List Nat → Option Nat
  | [] => none
  | x :: t => match minOf t with | none => some x | some y => some (Nat.min x y)

/-- Refuses a structure whose fields break its map, at the lowest bad bit (R401 step 9, R405). -/
def checkBad (code ad : Nat) (bad : List Nat) : Except Cause Unit :=
  match minOf bad with | none => .ok () | some o => .error ⟨code, ad, o, 0⟩

/-- A structure of len bytes in local pond, aligned to align: its place and its bits (R42, R405, R406). -/
def readStruct (s : State) (a : At) (ad align len : Nat) : Except Cause (Place × Nat) :=
  match checkAddr [2] align len ad ad with
  | .error c => .error c
  | .ok _ =>
    let p := placeOf a.c ad
    .ok (p, leNat (fetchPlace s 0 p len))

/-! ## Bank formats (R46, R47) -/

/-- The format register of the bank that holds a pond byte. -/
def bankWord (s : State) (core off : Nat) : Nat := tabGet 0 (coreAt s core).regs.pf (off / 65536)

/-- The bank's format, 0 outside pond. -/
def bankFmt (s : State) (p : Place) : Nat := if p.inPond then bits (bankWord s p.core p.off) 0 8 else 0

/-- A place displaced by a signed number of bytes; below 0 it stays at 0 (the range checks exclude it). -/
def Place.shift (p : Place) (n : Int) : Place := { p with off := ((p.off : Int) + n).toNat }

/-- Data and scale of block b of a Q4 or T5 region (R47, R69). DESIGN CHOICE: in a region that runs over banks that place their
scales differently, block b is looked up at base + b × its data bytes and has the pitch of the bank found there; R69 gives no place
for such blocks (log 74). -/
def blockPlace (s : State) (fmt : Nat) (base : Place) (b : Int) : Place × Place :=
  let db := blockBytes fmt
  let d := base.shift (b * db)
  let w := if d.inPond then bankWord s d.core d.off else 0
  if bits w 0 8 = fmt ∧ bits w 11 2 = 2 then (d, { d with off := bits w 13 4 * 65536 + 2 * (d.off % 65536 / db) })
  else
    let d := base.shift (b * (db + 2))
    (d, d.plus db)

/-- Bytes that a block takes with the scale that follows it, or alone where its bank holds scales elsewhere. -/
def blockUnit (s : State) (fmt : Nat) (p : Place) : Nat :=
  let w := if p.inPond then bankWord s p.core p.off else 0
  if bits w 0 8 = fmt ∧ bits w 11 2 = 2 then blockBytes fmt else blockBytes fmt + 2

/-! ## Values of blocks (R74, R75, R79) -/

/-- Digit i of a T5 data byte. -/
def t5Digit (v i : Nat) : Nat := v / 3 ^ i % 3

/-- The integer at position i of a block's data bytes, or the reserved byte that holds it (R74, R75). -/
def blockInt (fmt : Nat) (data : List Byte) (i : Nat) : Except Nat Int :=
  if isQ4 fmt then
    let v := (data.getD (i / 2) 0).toNat
    .ok (sgn (v / 16 ^ (i % 2)) 4)
  else
    let v := (data.getD (i / 5) 0).toNat
    if 243 ≤ v then .error v
    else .ok (match t5Digit v (i % 5) with | 0 => 0 | 1 => 1 | _ => -1)

/-- The value of integer i of a block with a scale: the exact product (R74, R75), in which a zero integer has no sign (R471). -/
def blockValue (i : Int) (scale : FV) : FV := (FV.fin (.int i) none).mul scale

/-- The magnitudes of the finite values of a list. -/
def finiteMags (l : List (Option FV)) : List Q :=
  l.filterMap (fun v => match v with | some (.fin q _) => some q.abs | _ => none)

/-- The greater of two magnitudes. -/
def Q.max (a b : Q) : Q := if a.lt b then b else a

/-- Largest finite BF16. -/
def bf16Max : Nat := 0x7F7F

/-- The scale of a Q4 block of supplied values (R79). -/
def q4Scale (l : List (Option FV)) : Nat :=
  let m := (finiteMags l).foldl Q.max (.int 0)
  if m.num = 0 then 0x3F80 else Nat.min (roundFloat 4 3 (m.div (.int 7))) bf16Max

/-- The scale of a T5 block of supplied values (R79). -/
def t5Scale (l : List (Option FV)) : Nat :=
  let f := finiteMags l
  let sum := f.foldl Q.add (.int 0)
  if sum.num = 0 then 0x3F80
  else
    let s := Nat.min (roundFloat 4 0 (sum.div (.int f.length))) bf16Max
    if s = 0 then 0x3F80 else s

/-- The Q4 code of one value under a scale (R79). -/
def q4Code (s : Q) (v : Option FV) : Int :=
  match v with
  | none => 0
  | some .nan => 0
  | some (.inf neg) => if neg then -7 else 7
  | some (.fin q _) => clampInt (-7) 7 ((q.div s).round 0)

/-- The T5 digit of one value under a scale (R79). -/
def t5Code (s : Q) (v : Option FV) : Nat :=
  match v with
  | none => 0
  | some .nan => 0
  | some (.inf neg) => if neg then 2 else 1
  | some (.fin q _) => if (s.shift (-1)).lt q then 1 else if q.lt (s.shift (-1)).neg then 2 else 0

/-- A block's data bytes and scale from its L values, none where a position is not supplied (R79). -/
def encodeBlock (fmt : Nat) (l : List (Option FV)) : List Byte × Nat :=
  if isQ4 fmt then
    let sc := q4Scale l
    let s := match decodeFmt 4 sc with | .fin q _ => q | _ => .int 1
    let q := l.map (fun v => wrap (q4Code s v) 4)
    ((chunks 2 q).map (fun p => BitVec.ofNat 8 (nth p 0 + 16 * nth p 1)), sc)
  else
    let sc := t5Scale l
    let s := match decodeFmt 4 sc with | .fin q _ => q | _ => .int 1
    let d := l.map (t5Code s)
    ((chunks 5 d).map (fun p => BitVec.ofNat 8 (nth p 0 + 3 * nth p 1 + 9 * nth p 2 + 27 * nth p 3 + 81 * nth p 4)), sc)

/-! ## Layout records (R34 to R37) -/

/-- The dimension words of a record. -/
def dimWord (raw k : Nat) : Nat := bits raw (128 + 64 * k) 64

/-- The bad bits of a layout record's own fields (R35, R36, R405). -/
def layoutBad (raw : Nat) : List Nat :=
  let fmt := bits raw 64 8
  let rank := bits raw 72 2 + 1
  let ragged := bit raw 79
  let rdim := bits raw 80 2
  badZero raw 60 4 ++ badIf (!fmtKnown fmt) 64 ++ badIf (4 < bits raw 74 4) 74 ++ badZero raw 78 1
    ++ badIf (ragged && rank < rdim + 2) 80 ++ badZero raw 82 46
    ++ (List.range rank).flatMap (fun k =>
        let w := dimWord raw k
        let o := 128 + 64 * k
        (if bit w 63 then badZero raw (o + 36) 27 else [])
          ++ badIf (fmtBlock fmt && !(ragged && k == rdim + 1) &&
              (if k = 0 then sgn w 32 != 1 else sgn w 32 % fmtL fmt != 0)) o)
    ++ (if ragged then badZero raw 444 4 ++ badZero raw 384 2 else []) ++ badZero raw 448 64

/-- The extent of dimension k: literal, or a shape register's value (R36); 0x7F above 2^31 - 1 (R407). -/
def dimExt (t : Strand) (raw k : Nat) : Except Cause Nat :=
  let w := dimWord raw k
  if bit w 63 then
    let v := tabGet 0 t.e (bits w 32 4)
    if 2 ^ 31 ≤ v then .error ⟨0x7F, bits w 32 4, v, 0⟩ else .ok v
  else .ok (bits w 32 31)

/-- The extents of a record's dimensions, in order. -/
def dimExts (t : Strand) (raw : Nat) : Nat → Nat → Except Cause (List Nat)
  | 0, _ => .ok []
  | n + 1, k =>
    match dimExt t raw k with
    | .error c => .error c
    | .ok v => (match dimExts t raw n (k + 1) with
      | .error c => .error c
      | .ok l => .ok (v :: l))

/-- The record's bits with every shape register replaced by its value (R147). -/
def resolvedRecord (raw : Nat) (ext : List Nat) : Nat :=
  (List.range ext.length).foldl (fun v k =>
    let o := 128 + 64 * k
    let old := bits v o 64
    v - old * 2 ^ o + (old % 2 ^ 32 + nth ext k * 2 ^ 32) * 2 ^ o) raw

/-- A layout record as an instruction reads it: the frozen record, its base as the record gives it (a handle where the
operand is drawn, R94) and its payload. -/
structure RecRead where
  lay : Layout
  tag : Nat
  payload : List Byte

/-- Reads a layout record at issue (R34, R35). -/
def readLayout (s : State) (a : At) (ad : Nat) (draw : Bool) : Except Cause RecRead :=
  match readStruct s a ad 64 64 with
  | .error c => .error c
  | .ok (_, raw) =>
    match checkBad 0x09 ad (layoutBad raw) with
    | .error c => .error c
    | .ok _ =>
      let rank := bits raw 72 2 + 1
      match dimExts (strandAt s a) raw rank 0 with
      | .error c => .error c
      | .ok ext =>
        let sp := bits raw 74 4
        let tag := sp * 2 ^ 60 + bits raw 0 60
        let base := placeOf a.c (if draw then hAddr tag else tag)
        let stride := (List.range rank).map (fun k => sgn (dimWord raw k) 32)
        let r : Layout := ⟨bits raw 64 8, base, rank, ext, stride, bit raw 79, bits raw 80 2,
          placeOf a.c (sp * 2 ^ 60 + bits raw 384 60)⟩
        .ok ⟨r, tag, leBytes 64 (resolvedRecord raw ext)⟩

/-- Entry j of a record's offsets vector. -/
def offsAt (s : State) (key : Nat) (r : Layout) (j : Nat) : Nat := leNat (fetchPlace s key (r.offs.plus (4 * j)) 4)

/-- Segments of a ragged record. -/
def Layout.segs (r : Layout) : Nat := nth r.ext (r.rdim + 1)

/-- The checks of an offsets vector by the engine that reads it (R37, R410). -/
def ragCheck (s : State) (key : Nat) (r : Layout) : Except Cause Unit :=
  if !r.ragged then .ok ()
  else
    let n := r.segs
    match (List.range n).find? (fun j => decide (offsAt s key r (j + 1) < offsAt s key r j)) with
    | some j => .error ⟨0x73, j + 1, offsAt s key r (j + 1), offsAt s key r j⟩
    | none =>
      if nth r.ext r.rdim < offsAt s key r n then .error ⟨0x74, n, offsAt s key r n, nth r.ext r.rdim⟩ else .ok ()

/-- A dimension as visited: extent, stride, first index. -/
abbrev Dim := Nat × Int × Nat

/-- The dimensions of a record in visiting order: the ragged one runs over the packed positions (R37). -/
def Layout.dims (s : State) (key : Nat) (r : Layout) : List Dim :=
  let plain (k : Nat) : Dim := (nth r.ext k, r.stride.getD k 0, 0)
  if r.ragged then
    let o0 := offsAt s key r 0
    (List.range r.rdim).map plain ++ [(offsAt s key r r.segs - o0, r.stride.getD r.rdim 0, o0)]
      ++ ((List.range r.rank).filter (fun k => decide (r.rdim + 2 ≤ k))).map plain
  else (List.range r.rank).map plain

/-- Elements visited. -/
def dimCount (l : List Dim) : Nat := l.foldl (fun n d => n * d.1) 1

/-- Element number of visit i (R37). -/
def dimElem : List Dim → Nat → Int
  | [], _ => 0
  | (e, st, o) :: t, i => ((i % e + o : Nat) : Int) * st + dimElem t (i / e)

/-- Least and greatest element number of dimensions that are not empty. -/
def dimRange : List Dim → Int × Int
  | [] => (0, 0)
  | (e, st, o) :: t =>
    let (lo, hi) := dimRange t
    let x := (o : Int) * st
    let y := ((o + e - 1 : Nat) : Int) * st
    (lo + Min.min x y, hi + Max.max x y)

/-! ## Whole-region checks (R406, R410) -/

/-- The bytes, relative to the base, that elements lo to hi of a format cover: first, and one past the last. -/
def elemSpan (s : State) (fmt : Nat) (base : Place) (lo hi : Int) : Int × Int :=
  if fmtBlock fmt then
    let u : Int := blockUnit s fmt base
    (lo / fmtL fmt * u, (hi / fmtL fmt + 1) * u)
  else (lo * fmtBytes fmt, (hi + 1) * fmtBytes fmt)

/-- Does a region run past an end of its space (R406)? -/
def checkSpan (p : Place) (tag : Nat) (sp : Int × Int) : Except Cause Unit :=
  if (p.off : Int) + sp.1 < 0 ∨ (spaceLimit p.space : Int) < p.off + sp.2 then .error ⟨0x22, tag, 0, 0⟩ else .ok ()

/-- Ranges of bytes, relative to the base, whose banks an element pattern touches without a gap (R410). -/
def bankRanges (es : Nat) : List Dim → List (Int × Int)
  | [] => [(0, es)]
  | (e, st, o) :: t =>
    let l := bankRanges es t
    let step := st * es
    if step.natAbs ≤ 65536 then
      let x := (o : Int) * step
      let y := ((o + e - 1 : Nat) : Int) * step
      l.map (fun r => (r.1 + Min.min x y, r.2 + Max.max x y))
    else l.flatMap (fun r => (List.range e).map (fun i => (r.1 + (i + o : Nat) * step, r.2 + (i + o : Nat) * step)))

/-- The ranges of bytes, relative to the base, of a pattern of elements, whose banks it touches without a gap. -/
def touched (s : State) (fmt : Nat) (p : Place) (dims : List Dim) : List (Int × Int) :=
  if dimCount dims = 0 then []
  else if fmtBlock fmt then (bankRanges 1 dims).map (fun r => elemSpan s fmt p r.1 (r.2 - 1))
  else bankRanges (fmtBytes fmt) dims

/-- The banks that byte ranges of a pond touch. -/
def banksOf (p : Place) (l : List (Int × Int)) : List Nat :=
  l.foldl (fun acc r =>
    let b := p.shift r.1
    let e := p.shift (r.2 - 1)
    (List.range (e.off / 65536 - b.off / 65536 + 1)).foldl (fun acc i => setAdd acc (b.off / 65536 + i)) acc) []

/-- Every bank touched has format 0 or the region's (R222, R410). -/
def checkBanks (s : State) (fmt : Nat) (p : Place) (l : List (Int × Int)) : Except Cause Unit :=
  if !p.inPond then .ok ()
  else match (banksOf p l).find? (fun b =>
      let f := bits (bankWord s p.core (b * 65536)) 0 8
      f != 0 && f != fmt) with
    | some b => .error ⟨0x19, fmt, bits (bankWord s p.core (b * 65536)) 0 8, 0⟩
    | none => .ok ()

/-- The whole-region checks of a pattern of elements, empty patterns excepted. -/
def checkRegion (s : State) (fmt : Nat) (p : Place) (tag : Nat) (dims : List Dim) (banks : Bool) : Except Cause Unit :=
  if dimCount dims = 0 then .ok ()
  else
    let (lo, hi) := dimRange dims
    let sp := elemSpan s fmt p lo hi
    match checkSpan p tag sp with
    | .error c => .error c
    | .ok _ =>
      if banks then checkBanks s fmt p (touched s fmt p dims) else .ok ()

/-- The dimensions of a record known at issue: none for a ragged one. -/
def Layout.staticDims (r : Layout) : Option (List Dim) :=
  if r.ragged then none else some ((List.range r.rank).map (fun k => (nth r.ext k, r.stride.getD k 0, 0)))

/-! ## Elements -/

/-- The bytes an element lies in: for a block format its block's data and its scale (R37, R47, R69). -/
def elemBytes (s : State) (fmt : Nat) (base : Place) (n : Int) : List (Place × Nat) :=
  if fmtBlock fmt then
    let (d, sc) := blockPlace s fmt base (n / fmtL fmt)
    [(d, blockBytes fmt), (sc, 2)]
  else [(base.shift (n * fmtBytes fmt), fmtBytes fmt)]

/-- The bytes of granules that the row or sector in progress has taken, else memory (R50). -/
def peekBytes (s : State) (key : Nat) (taken : List (Nat × List Byte)) (p : Place) (n : Nat) : List Byte :=
  if taken.isEmpty || !p.inPond then fetchPlace s key p n
  else (List.range n).map (fun i =>
    let q := p.plus i
    match taken.find? (fun g => g.1 == granule q.core q.off) with
    | some g => g.2.getD (q.off % 16) 0
    | none => s.mem.read (placeLoc key q))

/-- The value of element n (R70, R74, R75); a reserved T5 byte is 0x70 (R410). -/
def elemValue (s : State) (key : Nat) (taken : List (Nat × List Byte)) (fmt : Nat) (base : Place) (n : Int) :
    Except Cause FV :=
  if fmtBlock fmt then
    let (d, sc) := blockPlace s fmt base (n / fmtL fmt)
    match blockInt fmt (peekBytes s key taken d (blockBytes fmt)) (n % fmtL fmt).toNat with
    | .error v => .error ⟨0x70, tagged d, v, 242⟩
    | .ok i => .ok (blockValue i (decodeFmt 4 (leNat (peekBytes s key taken sc 2))))
  else .ok (decodeFmt fmt (leNat (peekBytes s key taken (base.shift (n * fmtBytes fmt)) (fmtBytes fmt))))

/-- The pattern of element n of a format without blocks. -/
def elemBits (s : State) (key : Nat) (taken : List (Nat × List Byte)) (fmt : Nat) (base : Place) (n : Int) : Nat :=
  leNat (peekBytes s key taken (base.shift (n * fmtBytes fmt)) (fmtBytes fmt))

/-! ## Granules (R50) -/

/-- The granules of a pond range, as (core, offset of the first byte). -/
def granulesOf (r : Place × Nat) : List (Nat × Nat) :=
  if r.1.inPond && r.2 ≠ 0 then
    (List.range ((r.1.off + r.2 - 1) / 16 - r.1.off / 16 + 1)).map (fun i => (r.1.core, (r.1.off / 16 + i) * 16))
  else []

/-- Does a range touch a granule? -/
def touches (r : Place × Nat) (g : Nat × Nat) : Bool :=
  r.1.inPond && r.2 != 0 && r.1.core == g.1 && decide (r.1.off < g.2 + 16) && decide (g.2 < r.1.off + r.2)

/-- Granules in rising order of core and offset, without repeats. -/
def granuleSet (l : List (Place × Nat)) : List Nat := (l.flatMap granulesOf).foldl (fun acc g => setAdd acc (granule g.1 g.2)) []

/-- Sets full every granule that the ranges written touch and that the instruction does not write again (R50). -/
def fillWritten (s : State) (written rest : List (Place × Nat)) : State :=
  (granuleSet written).foldl (fun s g =>
    if rest.any (fun r => touches r (g / 65536, g % 65536 * 16)) then s else setFull s (g / 65536) (g % 65536 * 16)) s

/-- What consuming reads of the row or sector in progress have done (R50): the granules read with their data, those
cleared, and the first empty one they met, as core and offset. -/
structure Took where
  s : State
  got : List (Nat × List Byte)
  clr : List Nat
  empty : Option (Nat × Nat)

/-- A consuming read of granules in order (R50), up to the first empty one. Granules that the instruction's `.take` sources read again
later stay full until then; one that several sources of a row read is read once for all of them, and a `.take` among them clears it
(log 18). -/
def takeGranules (take : Bool) (rest : List (Place × Nat)) : List Nat → Took → Took
  | [], r => r
  | g :: t, r =>
    let core := g / 65536
    let off := g % 65536 * 16
    let had := r.got.any (fun p => p.1 == g)
    if r.empty.isSome then r
    else if !had && !isFull r.s core off then { r with empty := some (core, off) }
    else
      let got := if had then r.got else r.got ++ [(g, loadN r.s (locPond core off) 16)]
      if take && !r.clr.contains g && isFull r.s core off && !rest.any (fun r => touches r (core, off)) then
        takeGranules take rest t { r with s := clearFull r.s core off, got := got, clr := r.clr ++ [g] }
      else takeGranules take rest t { r with got := got }

end Sys2Proof.Machine
end

