-- ==== Sys2Proof/Machine/System.lean ====
section
/-! DEFINITION. The system group (R184 to R194, R196): system registers, fences, phases, segments, notify words, returns. -/

namespace Sys2Proof.Machine

/-! ## Waiting for accesses -/

/-- Is every earlier CC access of the strand performed (R132)? -/
def accessesDone (s : State) (a : At) : Bool := (strandAt s a).sb.all (fun e => !e.access)

/-- Have the writes of completed entries that the strand has waited for been acknowledged (R124, R321)? -/
def viewDone (s : State) (a : At) : Bool :=
  s.remotes.all (fun r => !(r.core == a.c && r.queue.isSome && decide (r.id < (strandAt s a).acq)))

/-- Has every remote access in the view of the strand been acknowledged: its own instructions' and those of the entries that it has
waited for (R122, R124, R321)? -/
def ccPerformed (s : State) (a : At) : Bool :=
  s.remotes.all (fun r => !(r.core == a.c && r.sx == a.x && r.queue.isNone)) && viewDone s a

/-- May a release of the strand take effect (R122)? -/
def released (s : State) (a : At) : Bool := accessesDone s a && remotesDone s a && viewDone s a

/-- NOP (R184). -/
def execNop (s : State) : Host.Outcome State Fault Refusal := issue 4 s fun _ s => .ok ⟨s, 0, .seq⟩

/-- FENCE (R132). -/
def execFence (s : State) : Host.Outcome State Fault Refusal :=
  issue 4 s fun a s => if accessesDone s a then .ok ⟨s, 0, .seq⟩ else stall s

/-- AFENCE (R68): no access is held in a merging buffer in the model, so it waits as FENCE does (log 6). -/
def execAfence (s : State) : Host.Outcome State Fault Refusal :=
  issue 4 s fun a s => if accessesDone s a then .ok ⟨s, 0, .seq⟩ else stall s

/-! ## Task end, traps and returns -/

/-- HALT (R185): the task's end once its entries have completed; a restartable task's deferred draws are counted, all or
none (R105, R430). -/
def execHalt (s : State) : Host.Outcome State Fault Refusal :=
  issue 4 s fun a s =>
    if !(strandEntries s a).isEmpty || !released s a then stall s
    else match (strandAt s a).task with
      | none => .ok ⟨retireTask s a, 0, .own⟩
      | some k => match countDeferred s a.c (ctxOf s a) k.job k.deferred with
        | .ok s => .ok ⟨retireTask s a, 0, .own⟩
        | .error c => .error (.trap c)

/-- TRAP (R186): TPC holds the address that follows. -/
def execTrap (x : BitVec 6) (s : State) : Host.Outcome State Fault Refusal :=
  issue 4 s fun a s =>
    match rd s a x with
    | .ok u =>
      let pt := ccTrap s a ⟨0x1F, u.toNat, 0, 0⟩
      let s := onStrand s a (fun t => { t with pc := t.pc + 4, wait := none })
      .ok ⟨signalTrap s a pt, 0, .own⟩
    | .error e => .error e

/-- ERET (R385). -/
def execEret (s : State) : Host.Outcome State Fault Refusal :=
  issue 4 s fun a s =>
    let t := strandAt s a
    match t.frames.getLast? with
    | none => raise 0x81 t.pc.toNat 0 0
    | some f =>
      if !(strandEntries s a).isEmpty || g14Busy t || pAnyBusy t then stall s
      else if !frameIntact s f then raise 0x9C f.va 0 0
      else .ok ⟨returnTrap s a f, 0, .own⟩

/-- EVRET (R313). -/
def execEvret (s : State) : Host.Outcome State Fault Refusal :=
  issue 4 s fun a s =>
    let t := strandAt s a
    match t.evslot with
    | none => raise 0x82 t.pc.toNat 0 0
    | some e =>
      if g14Busy t then stall s
      else .ok ⟨onStrand s a (fun t => { putG14 e.g t with
        pc := BitVec.ofNat 52 e.pc
        lc := e.lc, loop := e.loop, evslot := none, y := [0, 0, 0, 0], slot := t.slot + 1, wait := none
        status := .running }), 0, .own⟩

/-! ## System registers (R146, R188) -/

/-- The low w bits of a number as a register value. -/
def reg64 (v w : Nat) : Dword := BitVec.ofNat 64 (v % 2 ^ w)

/-- The value of system register n for a strand (R146). -/
def sysRead (s : State) (a : At) (n : Nat) : Dword :=
  let t := strandAt s a
  match n with
  | 0 => reg64 t.tvec 52
  | 1 => reg64 t.evec 52
  | 2 => reg64 t.tcause 8
  | 3 => reg64 t.tpc 52
  | 4 => tabGet 0 t.targ 0
  | 5 => tabGet 0 t.targ 1
  | 6 => tabGet 0 t.targ 2
  | 7 => tabGet 0 t.targ 3
  | 8 => reg64 (tabGet 0 t.tcut 0) 32
  | 9 => reg64 (tabGet 0 t.tcut 1) 32
  | 10 => reg64 (tabGet 0 t.tcut 2) 32
  | 11 => reg64 (tabGet 0 t.tcut 3) 32
  | 12 => reg64 t.wlim 32
  | 13 => reg64 (lkeyOf s a) 64
  | 14 => reg64 (ctxOf s a) 4
  | 15 => reg64 (a.c % 48) 6
  | 16 => reg64 (a.c / 48) 6
  | 17 => reg64 (a.c / 288) 3
  | 18 => reg64 s.dev.rank 24
  | 19 => reg64 s.cycle 64
  | 20 => reg64 (wrap t.segbud 32) 32
  | 21 => reg64 (dieAt s (a.c / 288)).thead 16
  | 22 => reg64 s.dev.ttper 32
  | _ => reg64 (tabGet 0 (coreAt s a.c).regs.pf (n - 32)) 32

/-- Bits of a writable system register (R146). -/
def sysWidth (n : Nat) : Nat :=
  if n ≤ 1 ∨ n = 3 then 52 else if n = 2 then 8 else if 4 ≤ n ∧ n ≤ 7 then 64 else 32

/-- A strand with system register n (0 to 12) written (R146, R188). -/
def sysPut (n v : Nat) (t : Strand) : Strand :=
  match n with
  | 0 => { t with tvec := v }
  | 1 => { t with evec := v }
  | 2 => { t with tcause := v }
  | 3 => { t with tpc := v }
  | 4 => { t with targ := tabPut t.targ 0 (BitVec.ofNat 64 v) }
  | 5 => { t with targ := tabPut t.targ 1 (BitVec.ofNat 64 v) }
  | 6 => { t with targ := tabPut t.targ 2 (BitVec.ofNat 64 v) }
  | 7 => { t with targ := tabPut t.targ 3 (BitVec.ofNat 64 v) }
  | 8 => { t with tcut := tabPut t.tcut 0 v }
  | 9 => { t with tcut := tabPut t.tcut 1 v }
  | 10 => { t with tcut := tabPut t.tcut 2 v }
  | 11 => { t with tcut := tabPut t.tcut 3 v }
  | 12 => { t with wlim := v }
  | _ => t

/-- Does a bank format value keep R46, R47 and R69 on a core (R407)? -/
def pfValid (r : CoreRegs) (v : Nat) : Bool :=
  let fmt := bits v 0 8
  let blk := bits v 8 3
  let scl := bits v 11 2
  bits v 17 15 == 0 && fmtKnown fmt &&
    (if fmtBlock fmt then
      blk == fmt % 4 + 1 && (scl == 1 || (scl == 2 &&
        (let o := tabGet 0 r.pf (bits v 13 4); bits o 0 8 == 4 && bits o 11 2 == 0)))
    else blk == 0 && scl == 0)

/-- MFS (R188). -/
def execMfs (d : BitVec 5) (n : BitVec 1) (r : BitVec 6) (s : State) : Host.Outcome State Fault Refusal :=
  issue 4 s fun a s =>
    match wrG s a d n 1 (sysRead s a r.toNat) with
    | .ok s => .ok ⟨s, 0, .seq⟩
    | .error e => .error e

/-- MTS (R188): a PF register is written once the engine instructions of the core's strands have completed (R48), whose writes
the strand has then waited for (R124). -/
def execMts (x : BitVec 6) (r : BitVec 6) (s : State) : Host.Outcome State Fault Refusal :=
  issue 4 s fun a s =>
    match rd s a x with
    | .error e => .error e
    | .ok u =>
      let v := u.toNat
      let n := r.toNat
      if 2 ^ sysWidth n ≤ v then raise 0x02 (wRR 0x19 0 0 x r 6).toNat v 0
      else if n ≤ 1 ∧ v % 4 ≠ 0 then raise 0x25 v 0 0
      else if n < 32 then .ok ⟨onStrand s a (sysPut n v), 0, .seq⟩
      else if !pfValid (coreAt s a.c).regs v then raise 0x19 v 0 0
      else if [0, 1, 2, 3].any (fun q => !(queueAt s a.c q).isEmpty) then stall s
      else
        let s := onCore s a.c (fun k => { k with regs := { k.regs with pf := tabPut k.regs.pf (n - 32) v } })
        .ok ⟨onStrand s a (fun t => { t with acq := s.sbNext }), 0, .seq⟩

/-! ## Phases (R31, R32) -/

/-- Do two cores lie in one instance of a level: 0 core, 1 cluster, 2 die, else the package (R31)? -/
def sameInst (lvl c d : Nat) : Bool :=
  match lvl with | 0 => c == d | 1 => c / 48 == d / 48 | 2 => c / 288 == d / 288 | _ => true

/-- The card task of job j among a strand's, if any, with its barrier counts. -/
def cardPhases (j : Nat) (t : Strand) : Option (Tab Nat) :=
  match t.task with
  | some k => if k.card && k.job == j then some t.phases else none
  | none => none

/-- The barrier counts of the gang's started members that have not ended: running, evicted, saved, or waiting to be re-executed
with no barrier passed (R31, R448). -/
def gangPhases (s : State) (j lvl c : Nat) : List (Tab Nat) :=
  (s.cores.filter (fun k => sameInst lvl c k.1)).flatMap (fun k =>
    k.2.strands.filterMap (fun t => cardPhases j t.2) ++ k.2.joins.filterMap (fun f => cardPhases j f.strand)
      ++ k.2.saved.flatMap (fun v => v.strands.filterMap (fun x => cardPhases j x.strand)))
  ++ (s.reruns.filter (fun r => r.1.job == j && r.1.card && sameInst lvl c r.2)).map (fun _ => [])

/-- Members of the gang that have not started. -/
def gangPending (s : State) (j lvl c : Nat) : Nat :=
  ((jobAt s j).pending.filter (fun p => sameInst lvl c p.1)).foldl (fun n p => n + p.2) 0

/-- Cores of the job's placement in an instance (R28). -/
def gangCores (s : State) (j lvl c : Nat) : Nat :=
  let b := jobAt s j
  ((setBits 36 b.clusters).flatMap (fun k => (List.range (b.ncore + 1)).map (fun i => 48 * k + b.core0 + i))).countP (sameInst lvl c)

/-- Members of the gang, and members that have not arrived at barrier n (R32, R426). -/
def gangCount (s : State) (j lvl c n : Nat) : Nat × Nat :=
  (gangCores s j lvl c * ((jobAt s j).strands + 1),
   gangPending s j lvl c + ((gangPhases s j lvl c).filter (fun p => decide (tabGet 0 p lvl < n))).length)

/-- PHASE at a level (R32): 0 core, 1 cluster, 2 die, 3 package, 4 domain, 5 system. -/
def phaseOp (lvl : Nat) (s : State) : Host.Outcome State Fault Refusal :=
  issue 4 s fun a s =>
    let t := strandAt s a
    let key := 8 * t.pc.toNat + lvl
    let card := match t.task with | some k => k.card | none => false
    if !t.arrived.contains key && (!(strandEntries s a).isEmpty || !released s a) then stall s
    else if !card then .ok ⟨s, 0, .seq⟩
    else
      let s := if t.arrived.contains key then s
        else onStrand s a (fun t => { t with
          arrived := key :: t.arrived, phases := tabPut t.phases lvl (tabGet 0 t.phases lvl + 1) })
      let n := tabGet 0 (strandAt s a).phases lvl
      let (all, missing) := gangCount s (jobOf s a) lvl a.c n
      if missing = 0 then .ok ⟨onStrand s a (fun t => { t with arrived := t.arrived.filter (· != key) }), 0, .seq⟩
      else .error (.wait s (.stall 5) true ((all - missing) % 2 ^ 32 + all * 2 ^ 32))

/-- PHASE.core (R32). -/
def execPhaseCore (s : State) : Host.Outcome State Fault Refusal := phaseOp 0 s
/-- PHASE.clus (R32). -/
def execPhaseClus (s : State) : Host.Outcome State Fault Refusal := phaseOp 1 s
/-- PHASE.die (R32). -/
def execPhaseDie (s : State) : Host.Outcome State Fault Refusal := phaseOp 2 s
/-- PHASE.pkg (R32). -/
def execPhasePkg (s : State) : Host.Outcome State Fault Refusal := phaseOp 3 s
/-- PHASE.dom (R32). -/
def execPhaseDom (s : State) : Host.Outcome State Fault Refusal := phaseOp 4 s
/-- PHASE.sys (R32). -/
def execPhaseSys (s : State) : Host.Outcome State Fault Refusal := phaseOp 5 s

/-! ## Segments (R21, R190) -/

/-- The cycles a cost code states (R190). -/
def costOf (c : Nat) : Nat := bits c 4 8 * 2 ^ bits c 0 4

/-- SEGEND (R190): the stop point of a run that is to stop (R112); a cost above slk is logged once per task (R443). -/
def execSegend (e : BitVec 3) (c : BitVec 12) (s : State) : Host.Outcome State Fault Refusal :=
  issue 4 s fun a s =>
    let cost := costOf c.toNat
    let t := strandAt s a
    let s := if (dieAt s (a.c / 288)).slk < cost ∧ !t.costly then
        logStrand (onStrand s a (fun t => { t with costly := true })) 0x91 0 a cost 0
      else s
    if t.stopping then .ok ⟨reachStop s a, 0, .own⟩ else .ok ⟨s, 0, .segEnd cost e.toNat⟩

/-! ## WAITC, PARK and NOTIFY -/

/-- The end of a WAITC attempt that read v: written to d when it differs from b, else read again (R191). -/
def waitcTry (s : State) (a : At) (d : BitVec 5) (n : BitVec 1) (ad : Nat) (b v : Dword) : Act Done :=
  if v = b then .error (.wait s (.watch ad) false v.toNat)
  else match wrG s a d n 1 v with
    | .ok s => .ok ⟨s, 0, .seq⟩
    | .error e => .error e

/-- One read of WAITC through a checked address (R191). -/
def waitcRead (s : State) (a : At) (d : BitVec 5) (n : BitVec 1) (ad : Nat) (b : Dword) (r : Reach) : Act Done :=
  match r with
  | .remote va l =>
    let key := 2 * (strandAt s a).pc.toNat + 1
    (match grantOf (strandAt s a) key with
    | some v => waitcTry (onStrand s a (fun t => { t with grant := t.grant.filter (fun g => g.1 != key) })) a d n ad b v
    | none =>
      let last := match (strandAt s a).wait with | some w => w.arg | none => 0
      .error (.wait (askRemote s a va l 14 8) (.watch ad) false last))
  | r => match ccPoison s a r 8 with
    | .error e => .error e
    | .ok _ => waitcTry s a d n ad b (BitVec.ofNat 64 (reachRead s a r 8))

/-- WAITC (R191). On the symmetric heap each read is a remote access whose answer the strand's grant holds. -/
def execWaitc (d : BitVec 5) (n : BitVec 1) (x y : BitVec 6) (s : State) : Host.Outcome State Fault Refusal :=
  issue 4 s fun a s =>
    match rd s a x with
    | .error e => .error e
    | .ok ad =>
      match checkAddr [0, 1, 2, 3] 8 8 ad.toNat ad.toNat with
      | .error c => .error (.trap c)
      | .ok _ =>
        match reach s a ad.toNat false with
        | .error e => .error e
        | .ok (s, r) =>
          match rd s a y, freeD s a d n with
          | .ok b, .ok _ => waitcRead s a d n ad.toNat b r
          | .error e, _ => .error e
          | _, .error e => .error e

/-- Notify word n. -/
def nwAt (s : State) (n : Nat) : Notify := tabGet .reset s.nw n


/-- The task of a strand. -/
def taskId (s : State) (a : At) : Option Nat := (strandAt s a).task.map (·.id)

/-- The strand parks on n (R21, R193): an implicit segment end, its pc still at the PARK; arg keeps the destination. -/
def parkOn (s : State) (a : At) (n : Nat) (d : BitVec 5) (nw : BitVec 1) : State :=
  let s := { s with nw := tabPut s.nw n { nwAt s n with parked := some (strandNo a), last := taskId s a } }
  let s := onStrand s a (fun t =>
    let w : Wait := match t.wait with
      | some w => if w.kind = .park n then w else ⟨.park n, 0, waitBound t, 0⟩
      | none => ⟨.park n, 0, waitBound t, 0⟩
    { endSegment t with status := .parked, parkedOn := some n, wait := some { w with arg := d.toNat + 32 * nw.toNat } })
  dropTurn s a

/-- PARK on a checked word i (R193). A run that is to stop stops where it would park (R112). -/
def parkNow (s : State) (a : At) (d : BitVec 5) (n : BitVec 1) (i : Nat) : Act Done :=
  match freeD s a d n with
  | .error e => .error e
  | .ok _ =>
    if (nwAt s i).pending then
      let v := BitVec.ofNat 64 (nwAt s i).val
      let s := { s with nw := tabPut s.nw i { nwAt s i with pending := false, last := taskId s a } }
      match wrG s a d n 1 v with
      | .ok s => .ok ⟨s, 0, .seq⟩
      | .error e => .error e
    else if (strandAt s a).stopping then .ok ⟨reachStop s a, 0, .own⟩
    else .ok ⟨parkOn s a i d n, 0, .own⟩

/-- PARK (R193, R408). -/
def execPark (d : BitVec 5) (n : BitVec 1) (x : BitVec 6) (s : State) : Host.Outcome State Fault Refusal :=
  issue 4 s fun a s =>
    match rd s a x with
    | .error e => .error e
    | .ok u =>
      let i := u.toNat
      let cx := ctxAt s (ctxOf s a)
      if 4096 ≤ i then raise 0x02 (wRR 0x19 d n x 0 18).toNat i 0
      else if i < cx.nwrFirst ∨ cx.nwrFirst + cx.nwrCount ≤ i then raise 0x92 i 0 0
      else if (nwAt s i).parked.isSome then raise 0x93 i 0 0
      else parkNow s a d n i

/-- The PARK of a parked strand completes with value v (R193): the strand is ready at the next instruction. -/
def wakePark (s : State) (a : At) (v : Dword) : State :=
  onStrand s a (fun t =>
    let arg := match t.wait with | some w => w.arg | none => 0
    let t := if arg / 32 = 0 then { t with g := if arg % 32 = 0 then t.g else tabPut t.g (arg % 32) v } else t
    { advance 4 0 .seq t with status := .ready })

/-- The word n after a store of v by a party: a hart, or 32 for the host. Of the stores of one cycle the one of the party that
comes last in R354 stands. -/
def nwStored (s : State) (n v party : Nat) : Notify :=
  let w := nwAt s n
  if w.pending ∧ w.cycle = s.cycle + 1 ∧ party < w.party then w
  else { w with val := v, pending := true, cycle := s.cycle + 1, party := party }

/-- Is a task's strand parked, here or in a save (R309, R311)? -/
def taskParked (s : State) (id : Nat) : Bool :=
  let p (t : Strand) : Bool := t.runs id && t.status == .parked
  s.cores.any (fun k => k.2.strands.any (fun t => p t.2) || k.2.saved.any (fun v => v.strands.any (fun x => p x.strand)))

/-- A store of v to NW[n] (R193, R311, R354): the word is pending. The strand parked on it wakes before the next slot, with the
value that then stands (R197); a strand that parked last and is not parked hears of it. -/
def notifyStore (s : State) (n v party : Nat) : State :=
  let w := nwStored s n v party
  let s := { s with nw := tabPut s.nw n w }
  match w.parked, w.last with
  | none, some id => if taskParked s id then s else postTask s id ⟨4, w.val, n, 0, 0, false⟩
  | _, _ => s

/-- The strand parked on word n wakes if the word is pending (R193): d takes its value, and the bit is cleared. -/
def wakeWord (s : State) (n : Nat) : Option State :=
  let w := nwAt s n
  match w.pending, w.parked with
  | true, some who =>
    some (wakePark { s with nw := tabPut s.nw n { w with pending := false, parked := none } } ⟨who / 4, who % 4⟩ (BitVec.ofNat 64 w.val))
  | _, _ => none

/-- Hart h of the tool cluster. -/
def hartAt (s : State) (h : Nat) : Hart := tabGet .reset s.harts h

/-- Changes a hart. -/
def onHart (s : State) (h : Nat) (f : Hart → Hart) : State := { s with harts := tabPut s.harts h (f (hartAt s h)) }

/-- A hart whose DB and DBTGT are written: its external interrupt is pending while DB is not 0, of the level that DBTGT[0] names
(R355). -/
def Hart.bell (db dbtgt : Nat) (h : Hart) : Hart :=
  { h with db := db, dbtgt := dbtgt, mext := db != 0 && !bit dbtgt 0, sext := db != 0 && bit dbtgt 0 }

/-- NOTIFY (R194, R355). -/
def execNotify (x y : BitVec 6) (s : State) : Host.Outcome State Fault Refusal :=
  issue 4 s fun a s =>
    match rd s a x, rd s a y with
    | .ok u, .ok v =>
      let w := (wRR 0x19 0 0 x y 19).toNat
      if 32 ≤ u.toNat then raise 0x02 w u.toNat 0
      else if 64 ≤ v.toNat then raise 0x02 w v.toNat 0
      else if !(hartAt s u.toNat).run then raise 0x94 u.toNat 0 0
      else .ok ⟨onHart s u.toNat (fun h => h.bell (Nat.lor h.db (2 ^ v.toNat)) h.dbtgt), 0, .seq⟩
    | .error e, _ => .error e
    | _, .error e => .error e

/-- RPOP (R196). -/
def execRpop (d : BitVec 5) (n : BitVec 1) (s : State) : Host.Outcome State Fault Refusal :=
  issue 4 s fun a s =>
    let t := strandAt s a
    match t.resq, freeD s a d n with
    | _, .error e => .error e
    | [], _ => .error (.wait s (.stall 1) false 0)
    | v :: rest, .ok _ =>
      match wrG (onStrand s a (fun t => { t with resq := rest, resPopped := (t.resPopped + 1) % 2 ^ 32 })) a d n 1 v with
      | .ok s => .ok ⟨s, 0, .seq⟩
      | .error e => .error e

end Sys2Proof.Machine
end

