-- ==== Sys2Proof/Machine/Engine.lean ====
section
/-! DEFINITION. Engine words and queue entries (R147 to R151, R198, R199): issue and push, tokens, begin, completion, draws,
results, faults of entries. -/

namespace Sys2Proof.Machine

/-! ## Issue (R147, R400) -/

/-- What the CC resolved from an engine word: the operation, its drawn operands in operand order, its payload. -/
structure Res where
  op : EngOp
  draws : List Draw
  payload : List Byte

/-- A resolved word or the cause that refuses it. -/
abbrev ResE := Except Cause Res

/-- A new entry of a strand. -/
def newEntry (s : State) (a : At) (q : Nat) (word : Word) (take give ga gb gc : Nat) (r : Res) : Entry where
  q := q
  word := word
  pc := (strandAt s a).pc.toNat
  seq := 0
  sx := a.x
  job := jobOf s a
  take := take
  give := give
  ga := ga
  gb := gb
  gc := gc
  op := r.op
  draws := r.draws
  drawn := r.draws.isEmpty
  payload := r.payload
  begun := false
  ended := false
  prog := .start
  wait := .none
  waited := 0
  limit := 0
  fault := none
  after := s.sbNext
  acq := (strandAt s a).acq
  began := 0

/-- Issue of an engine word (R147): its registers and structures are read and checked before any stall (R400), then its
entry is pushed; room in the queue is awaited as a stall (R148). -/
def engIssue (q : Nat) (word : Word) (t g : Nat) (x y z : BitVec 5)
    (resolve : State → At → Nat → Nat → Nat → ResE) (s : State) : Host.Outcome State Fault Refusal :=
  issue 4 s fun a s =>
    match rdG s a x.toNat, rdG s a y.toNat, rdG s a z.toNat with
    | .error e, _, _ => .error e
    | _, .error e, _ => .error e
    | _, _, .error e => .error e
    | .ok ga, .ok gb, .ok gc =>
      match resolve s a ga.toNat gb.toNat gc.toNat with
      | .error c => .error (.trap c)
      | .ok r =>
        if !pushRoom s a q then stall s
        else .ok ⟨pushEntry s a (newEntry s a q word t g ga.toNat gb.toNat gc.toNat r), 0, .seq⟩

/-! ## Heads of queues -/

/-- The head entry of a queue. -/
def headEntry (s : State) (c q : Nat) : Option Entry := (queueAt s c q).head?

/-- Replaces the head entry. -/
def putEntry (s : State) (c : Nat) (e : Entry) : State := setQueue s c e.q (e :: (queueAt s c e.q).tail)

/-- Removes the head entry. -/
def popEntry (s : State) (c q : Nat) : State := setQueue s c q (queueAt s c q).tail

/-- The key of the lake hash that an entry's accesses use. -/
def keyOfEntry (s : State) (e : Entry) : Nat := keyOf s (jobAt s e.job).ctx

/-- The head entry meets a cause and stops as a faulting entry (R379). -/
def failEntry (s : State) (c : Nat) (e : Entry) (cause : Cause) : State :=
  signalTrap (putEntry (restoreTaken s e) c { forgetTaken e with fault := some cause, wait := .none }) ⟨c, e.sx⟩ (engTrap e cause)

/-- The head entry waits. A wait that goes on keeps its count. -/
def holdEntry (s : State) (c : Nat) (e : Entry) (w : EngWait) : State :=
  putEntry s c { e with
    wait := w
    waited := if e.wait = w then e.waited else 0
    limit := if e.wait = w then e.limit else waitBound (strandAt s ⟨c, e.sx⟩) }

/-- May the entries of a strand move: no trap but that of a later entry of their queue, no stop or save of it is due, and its
job is not being stopped (R305, R379, R380)? -/
def mayMove (s : State) (c : Nat) (e : Entry) : Bool :=
  let t := strandAt s ⟨c, e.sx⟩
  (t.pendTrap.isNone || beforeFault t e) && !t.atStop && e.fault.isNone && (jobAt s e.job).phase == 1 && !(jobAt s e.job).killed

/-- Have the accesses of the strand that precede the push been performed (R127)? -/
def pushPerformed (s : State) (c : Nat) (e : Entry) : Bool :=
  s.remotes.all (fun r => !(r.core == c && r.sx == e.sx && r.queue.isNone && decide (r.id < e.after)))

/-- May the head entry begin: what it waits for has been performed, and its die is not in thermal hold (R127, R463)? -/
def mayBegin (s : State) (c : Nat) (e : Entry) : Bool :=
  mayMove s c e && pushPerformed s c e && !(dieAt s (c / 288)).hold

/-- Does the completion of the entry release what other devices have still to acknowledge: it gives tokens or counts draws while
an access of its view is out, those of its queue, of its strand before its push, and those its strand had waited for (R124, R128,
R129, R135)? R321 lets an entry complete before its writes are acknowledged and has every release wait for that: an entry that
releases nothing completes at once, one that does waits (log 87). -/
def releaseHeldUp (s : State) (c : Nat) (e : Entry) : Bool :=
  (decide (e.give ≠ 0) || !e.draws.isEmpty) &&
    s.remotes.any (fun r => r.core == c && (match r.queue with
      | some q => q % 4 == e.q || decide (r.id < e.acq)
      | none => r.sx == e.sx && decide (r.id < e.after)))

/-! ## Tokens (R149 to R151) -/

/-- FIFOs of the GIVE bits of a queue's words. -/
def giveFifos (q m : Nat) : List Nat :=
  let row := [[0, 1], [2, 4, 7], [3, 5], [6]].getD q []
  (setBits 3 m).filterMap (fun i => row[i]?)

/-- Removes the oldest token of context x. -/
def popToken (x : Nat) : List Nat → List Nat
  | [] => []
  | y :: t => if y = x then t else y :: popToken x t

/-- A strand pops its oldest token of a FIFO. -/
def takeToken (s : State) (a : At) (f : Nat) : State :=
  onStrand (setFifo s a.c f (popToken a.x (fifoAt s a.c f))) a
    (fun t => { t with took := tabPut t.took f ((tabGet 0 t.took f + 1) % 2 ^ 32) })

/-- A strand pushes a token into a FIFO. -/
def giveToken (s : State) (a : At) (f : Nat) : State :=
  onStrand (setFifo s a.c f (fifoAt s a.c f ++ [a.x])) a
    (fun t => { t with gave := tabPut t.gave f ((tabGet 0 t.gave f + 1) % 2 ^ 32) })

/-- The first FIFO of a list in which a strand has no token. -/
def missingToken (s : State) (a : At) (l : List Nat) : Option Nat := l.find? (fun f => !(fifoAt s a.c f).contains a.x)

/-- The first FIFO of a list that is full (R149). -/
def fullFifo (s : State) (c : Nat) (l : List Nat) : Option Nat := l.find? (fun f => decide (16 ≤ (fifoAt s c f).length))

/-! ## Completion (R199) -/

/-- Records an engine draw in a restartable task's deferred list (R99, R105); a 65th tile is 0x4D. -/
def deferDraws (a : At) : State → List Draw → Except Cause State
  | s, [] => .ok s
  | s, d :: t =>
    match (strandAt s a).task with
    | none => .ok s
    | some k =>
      let h := startHandle s (unitOf a.c d.h) (ctxOf s a) d.h
      if !deferRoom k.deferred h then .error ⟨0x4D, d.h, 0, 0⟩
      else deferDraws a (onStrand s a (fun t => { t with task := some { k with deferred := deferDraw k.deferred h } })) t

/-- Counts an entry's draws at their pool units, all of them or none (R99, R199, R430). -/
def countDraws (s : State) (a : At) (e : Entry) : Except Cause State :=
  let restart := match (strandAt s a).task with | some k => k.restart | none => false
  if restart then deferDraws a s e.draws
  else e.draws.foldl (fun (r : Except Cause State) d =>
    match r with
    | .error c => .error c
    | .ok s => poolDraw s a.c (jobAt s e.job).ctx e.job d.h true) (.ok s)

/-- The completion record of a select pass, written when it completes (R204, R205, R261). -/
def entryRecord (e : Entry) : Option (Place × List Byte) :=
  let image := leBytes 64 (selBits e.prog.selM e.prog.selS e.prog.selC)
  match e.op with
  | .csel _ _ _ _ aux _ => some (aux, image)
  | .mdrain 2 _ _ _ record => some (record, image)
  | _ => none

/-- Completes the head entry of a queue (R199): tokens, result, draws and the strand's last completed number, or what it
waits for. -/
def completeEntry (s : State) (c : Nat) (e : Entry) : State :=
  let a : At := ⟨c, e.sx⟩
  let gives := giveFifos e.q e.give
  match fullFifo s c gives with
  | some f => holdEntry s c e (.room 0 f)
  | none =>
    if releaseHeldUp s c e then holdEntry s c e .other
    else if e.prog.result.isSome ∧ 16 ≤ (strandAt s a).resq.length then holdEntry s c e (.room 1 16)
    else match countDraws s a e with
      | .error cause => failEntry s c e cause
      | .ok s =>
        let s := match entryRecord e with
          | some (p, v) => engineWrite s 0 p v
          | none => s
        let s := if e.q = 0 ∨ e.q = 3 then sampleFor s 1 (coreTarget c) (s.cycle - e.began) else s
        let s := popEntry s c e.q
        let s := gives.foldl (fun s f => giveToken s a f) s
        onStrand s a (fun t =>
          let t := { t with done := tabPut t.done e.q e.seq }
          match e.prog.result with
          | some v => { t with resq := t.resq ++ [BitVec.ofNat 64 v], resPushed := (t.resPushed + 1) % 2 ^ 32 }
          | none => t)

/-- The head entry takes its tokens, or waits for the first that is missing (R151). -/
def takeEntryTokens (s : State) (c : Nat) (e : Entry) : Except Nat (State × Entry) :=
  let a : At := ⟨c, e.sx⟩
  let takes := takeFifos e.q e.take
  match missingToken s a takes with
  | some f => .error f
  | none => .ok (takes.foldl (fun s f => takeToken s a f) s, { e with begun := true, began := s.cycle, wait := .none, waited := 0 })

/-- An entry's work is done: its result, if it names one. -/
def Entry.finish (e : Entry) (r : Option Nat) : Entry :=
  { e with ended := true, wait := .none, prog := { e.prog with result := r, taken := [], cleared := [] } }

/-- The result of an entry whose control word has res set. -/
def resIf (res : Bool) (v : Nat) : Option Nat := if res then some v else none

/-! ## The words of major 0x26 (R216 to R218) -/

/-- GIVE (R216): a release, which waits for the strand's remote accesses (R122, R129). -/
def execGive (f : BitVec 3) (s : State) : Host.Outcome State Fault Refusal :=
  issue 4 s fun a s =>
    if !ccPerformed s a then stall s
    else if 16 ≤ (fifoAt s a.c f.toNat).length then .error (.wait s (.stall 0) false f.toNat)
    else .ok ⟨giveToken s a f.toNat, 0, .seq⟩

/-- TAKE (R216). -/
def execTake (f : BitVec 3) (s : State) : Host.Outcome State Fault Refusal :=
  issue 4 s fun a s =>
    if !(fifoAt s a.c f.toNat).contains a.x then .error (.wait s (.take f.toNat) true 0)
    else .ok ⟨takeToken s a f.toNat, 0, .seq⟩

/-- QDEPTH (R217). -/
def execQdepth (d : BitVec 5) (n : BitVec 1) (q : BitVec 2) (b : BitVec 6) (s : State) :
    Host.Outcome State Fault Refusal :=
  issue 4 s fun a s =>
    match rd s a b with
    | .error e => .error e
    | .ok v =>
      let v := v.toNat
      if v = 0 ∨ queueSize q.toNat < v then raise 0x18 v (queueSize q.toNat) 0
      else
        let old := tabGet 0 (strandAt s a).depth q.toNat
        match wrG s a d n 1 (BitVec.ofNat 64 old) with
        | .ok s => .ok ⟨onStrand s a (fun t => { t with depth := tabPut t.depth q.toNat v }), 0, .seq⟩
        | .error e => .error e

/-- QSEQ (R218): b is 0 for the last pushed and 1 for the last completed number. -/
def execQseq (d : BitVec 5) (n : BitVec 1) (q : BitVec 2) (b : BitVec 1) (s : State) :
    Host.Outcome State Fault Refusal :=
  issue 4 s fun a s =>
    let t := strandAt s a
    let v := if b = 0 then tabGet 0 t.push q.toNat else tabGet 0 t.done q.toNat
    match wrG s a d n 1 (BitVec.ofNat 64 v) with
    | .ok s => .ok ⟨s, 0, .seq⟩
    | .error e => .error e

end Sys2Proof.Machine
end

