-- ==== Sys2Proof/Machine/Tile.lean ====
section
/-! DEFINITION. Tile and version words (R269 to R284, R413, R428 to R431). The words whose unit answers before the strand goes
on act at that unit when they issue; the others leave a request that a cycle of the unit applies (R101). -/

namespace Sys2Proof.Machine

/-- Has every operation that the strand sent to a pool unit been applied (R270)? -/
def unitQuiet (s : State) (a : At) (n : Nat) : Bool :=
  (unitAt s n).inbox.all (fun r => !(r.core == a.c && r.sx == a.x))

/-- The strand sends an operation to a pool unit without waiting for it (R274, R275, R282). -/
def sendPool (s : State) (a : At) (n : Nat) (op : PoolOp) (word : Word) : State :=
  onUnit s n (fun u => { u with inbox := u.inbox ++ [⟨op, a.c, a.x, jobOf s a, word.toNat, (strandAt s a).pc.toNat⟩] })

/-- A wait of R292: a run that is to stop reaches its stop point instead, its request withdrawn. -/
def waitOrStop (s : State) (a : At) (k : WaitKind) (waiting : Bool) (arg : Nat) : Act Done :=
  if (strandAt s a).stopping then .ok ⟨reachStop s a, 0, .own⟩ else .error (.wait s k waiting arg)

/-- The handle in a is of a space and pool that R413 admits. -/
def handleForm (h : Nat) : Act Unit := need (hForm h) 0x4E h 0 0

/-! ## Allocation (R271 to R273, R413, R429) -/

/-- The pool unit an allocation word names, for a core (R271). -/
def allocUnit (c w : Nat) : Nat := if bits w 60 4 = 3 then c / 48 * 48 + bits w 48 6 else 1728 + bits w 48 6

/-- Key of the pool an allocation word names under a context. -/
def allocKey (ctx w : Nat) : Nat := 64 * ctx + bits w 54 6

/-- Is an allocation word one of R271, apart from its partition? DESIGN CHOICE: another space and a pond pool above 15 count among
what R413 refuses with 0x45 (log 98). -/
def allocForm (w : Nat) : Bool :=
  bits w 32 14 == 0 && bits w 16 16 != 0 &&
    ((bits w 60 4 == 3 && decide (bits w 54 6 < 16) && decide (bits w 48 6 < 48)) ||
     (bits w 60 4 == 1 && decide (bits w 48 6 < 6)))

/-- Granules of an allocation of a size in bytes (R96). -/
def granulesFor (size : Nat) : Nat := Nat.max 1 (ceilDiv size 256)

/-- The request a TALLOC or TALLOC.v makes. -/
def allocReq (s : State) (a : At) (v : Bool) (w b : Nat) : Alloc :=
  ⟨allocKey (ctxOf s a) w, a.c, a.x, w, if v then 2 else granulesFor b, if v then some b else none, jobOf s a,
    (strandAt s a).pc.toNat⟩

/-- The lowest set that a mask names at or above n (R116). -/
def badSet (n m : Nat) : Nat := ((List.range 64).find? (fun i => decide (n ≤ i) && bit m i)).getD 64

/-- The checks of an allocation at issue (R401, R413). -/
def allocCheck (s : State) (a : At) (v : Bool) (word w b : Nat) : Act Unit :=
  let q := poolAt (unitAt s (allocUnit a.c w)) (allocKey (ctxOf s a) w)
  if !v && decide (2 ^ 32 ≤ b) then raise 0x02 word b 0
  else if !allocForm w then raise 0x45 w 0 0
  else if !q.valid then raise 0x40 w 0 0
  else if q.nparts ≤ bits w 46 2 then raise 0x45 w 0 0
  else if v && decide (2 ^ (jobAt s (jobOf s a)).nsets ≤ b) then
    raise 0x54 (badSet (jobAt s (jobOf s a)).nsets b) (jobAt s (jobOf s a)).nsets 0
  else .ok ()

/-- What R429 and R97 make of a request at its pool unit. -/
inductive AllocAnswer where
  | placed (at_ skip : Nat)
  | waits
  | refused (c : Cause)

/-- The pool unit's answer (R96, R97, R429). -/
def allocAnswer (s : State) (n : Nat) (w : Alloc) : AllocAnswer :=
  let u := unitAt s n
  let q := poolAt u w.pool
  let p := bits w.word 46 2
  let no (code a2 : Nat) : AllocAnswer := .refused ⟨code, w.word, w.need + nth q.used p * 2 ^ 32, a2⟩
  let ht := ringEnds q
  if q.size < w.need then no 0x43 q.size
  else if nth q.quota p < w.need then no 0x42 ht
  else
    let behind := u.waits.any (fun x => x.pool == w.pool && bits x.word 46 2 == p)
    let entry := decide (u.tiles.length < tileLimit n)
    match (if behind then none else ringPlace q p w.need), entry with
    | some (at_, skip), true => if headsFull s w then no 0x56 ht else .placed at_ skip
    | some _, false => if q.trapMode then no 0x44 ht else .waits
    | none, _ => if q.trapMode then no 0x41 ht else .waits


/-- A run remembers the tiles it allocates (R432). -/
def noteTile (h : Nat) (t : Strand) : Strand :=
  { t with task := t.task.map (fun k => if k.run.isSome then { k with tiles := k.tiles ++ [h] } else k) }

/-- TALLOC and TALLOC.v whose operands pass (R97, R272): the answer held for it, its place in the wait list, or a new
request. -/
def allocNow (s : State) (a : At) (v : Bool) (d : BitVec 5) (nw : BitVec 1) (w b : Nat) : Act Done :=
  let pc := (strandAt s a).pc.toNat
  let n := allocUnit a.c w
  let give (s : State) (h : Dword) : Act Done :=
    match wrG s a d nw 1 h with
    | .ok s => .ok ⟨s, 0, .seq⟩
    | .error e => .error e
  let arg := d.toNat + 32 * nw.toNat
  match grantOf (strandAt s a) (2 * pc) with
  | some h => give (onStrand s a (dropGrant (2 * pc))) h
  | none =>
    if allocWaits s a pc then waitOrStop s a (.talloc w) true arg
    else if !unitQuiet s a n then stall s
    else
      let r := allocReq s a v w b
      match allocAnswer s n r with
      | .refused c => .error (.trap c)
      | .waits => waitOrStop (onUnit s n (fun u => { u with waits := u.waits ++ [r] })) a (.talloc w) true arg
      | .placed at_ skip =>
        let (s, h) := placeReq s n r at_ skip
        give (onStrand s a (noteTile h)) (BitVec.ofNat 64 h)

/-- TALLOC (v false) and TALLOC.v (v true). -/
def tallocOp (v : Bool) (d : BitVec 5) (nw : BitVec 1) (x y : BitVec 6) (fn : BitVec 8) (s : State) :
    Host.Outcome State Fault Refusal :=
  issue 4 s fun a s =>
    match rd s a x, rd s a y with
    | .error e, _ => .error e
    | _, .error e => .error e
    | .ok w, .ok b =>
      match allocCheck s a v (wRR 0x36 d nw x y fn).toNat w.toNat b.toNat with
      | .error e => .error e
      | .ok _ =>
        match freeD s a d nw with
        | .error e => .error e
        | .ok _ => allocNow s a v d nw w.toNat b.toNat

/-- TALLOC (R272). -/
def execTalloc (d : BitVec 5) (n : BitVec 1) (x y : BitVec 6) (s : State) : Host.Outcome State Fault Refusal :=
  tallocOp false d n x y 0 s

/-- TALLOC.v (R273). -/
def execTallocV (d : BitVec 5) (n : BitVec 1) (x y : BitVec 6) (s : State) : Host.Outcome State Fault Refusal :=
  tallocOp true d n x y 1 s

/-! ## Draws and tile state (R274 to R277) -/

/-- TADD (R274). -/
def execTadd (x y : BitVec 6) (s : State) : Host.Outcome State Fault Refusal :=
  issue 4 s fun a s =>
    match rd s a x, rd s a y with
    | .error e, _ => .error e
    | _, .error e => .error e
    | .ok h, .ok b =>
      let word := wRR 0x36 0 0 x y 2
      if 65536 ≤ b.toNat then raise 0x02 word.toNat b.toNat 0
      else match handleForm h.toNat with
        | .error e => .error e
        | .ok _ => .ok ⟨sendPool s a (unitOf a.c h.toNat) (.tadd h.toNat b.toNat) word, 0, .seq⟩

/-- Does a task's TDRAW go to its deferred list (R105)? A run's version tile has its own draw (R113). -/
def defers (t : Strand) : Bool := match t.task with | some k => k.restart | none => false

/-- May a TDRAW be recorded: does its handle name a tile of the job that is no version tile (R275, R430)? -/
def deferCheck (s : State) (a : At) (h : Nat) : Except Cause Unit :=
  match tileCheck s a.c (ctxOf s a) (jobOf s a) h with
  | .error e => .error e
  | .ok t => if t.kind = 2 then .error ⟨0x4A, h, t.count, 0⟩ else .ok ()

/-- A TDRAW is recorded in the deferred list of a restartable task and raises pend (R99, R105), or its refusal becomes an
asynchronous cause (R428). -/
def recordTdraw (s : State) (a : At) (h : Nat) (word : Word) : State :=
  match deferCheck s a h with
  | .error e => onStrand s a (fun t => { t with asyncs := t.asyncs ++ [⟨e, false, 0, 0, word.toNat, t.pc.toNat, 2⟩] })
  | .ok _ =>
    let first := startHandle s (unitOf a.c h) (ctxOf s a) h
    onStrand (raisePend s a.c (ctxOf s a) h) a (fun t => { t with
      task := t.task.map (fun k => { k with deferred := deferDraw k.deferred first }) })

/-- Is an earlier load of the strand still out (R144, R275)? -/
def loadsOut (s : State) (a : At) : Bool := (strandAt s a).sb.any (·.load) || decide (s.cycle < (strandAt s a).ldReady)

/-- TDRAW (R275): once the strand's loads have returned, a draw is sent, or recorded in a restartable task's list. -/
def execTdraw (x : BitVec 6) (s : State) : Host.Outcome State Fault Refusal :=
  issue 4 s fun a s =>
    match rd s a x with
    | .error e => .error e
    | .ok h =>
      let h := h.toNat
      let t := strandAt s a
      let list := match t.task with | some k => k.deferred | none => []
      let first := startHandle s (unitOf a.c h) (ctxOf s a) h
      if !hForm h then raise 0x4E h 0 0
      else if defers t && !deferRoom list first then raise 0x4D h 0 0
      else if loadsOut s a then stall s
      else if defers t then .ok ⟨recordTdraw s a h (wRR 0x36 0 0 x 0 3), 0, .seq⟩
      else .ok ⟨sendPool s a (unitOf a.c h) (.draw h) (wRR 0x36 0 0 x 0 3), 0, .seq⟩

/-- TABND (R103, R276): issue stalls until every unit has applied what the strand sent before it. -/
def execTabnd (x : BitVec 6) (s : State) : Host.Outcome State Fault Refusal :=
  issue 4 s fun a s =>
    match rd s a x with
    | .error e => .error e
    | .ok tag =>
      if 65536 ≤ tag.toNat then raise 0x02 (wRR 0x36 0 0 x 0 4).toNat tag.toNat 0
      else if s.units.any (fun u => !unitQuiet s a u.1) then stall s
      else .ok ⟨abandon s a.c (jobOf s a) tag.toNat, 0, .seq⟩

/-- The tile state word (R95, R277). -/
def tileState (s : State) (n ctx h : Nat) : Nat :=
  match tileAt s n ctx h with
  | none => 0
  | some t =>
    place t.count 48 16 + (if t.kind = 2 then 0 else place t.tag 32 16) + (if t.kind = 3 then 0 else place t.pend 12 20)
      + place t.part 10 2 + place t.kind 8 2

/-- TINFO (R277): read after every operation the strand has sent to the unit (R270). -/
def execTinfo (d : BitVec 5) (n : BitVec 1) (x : BitVec 6) (s : State) : Host.Outcome State Fault Refusal :=
  issue 4 s fun a s =>
    match rd s a x with
    | .error e => .error e
    | .ok h =>
      if !hForm h.toNat then raise 0x4E h.toNat 0 0
      else
        let u := unitOf a.c h.toNat
        if !unitQuiet s a u then stall s
        else match wrG s a d n 1 (BitVec.ofNat 64 (tileState s u (ctxOf s a) h.toNat)) with
          | .ok s => .ok ⟨s, 0, .seq⟩
          | .error e => .error e

/-! ## Versions (R279 to R284) -/

/-- PUBV and PUBV.f (R279): the strand's engine instructions complete first. -/
def pubvOp (final : Bool) (p sc : BitVec 3) (x y : BitVec 6) (s : State) : Host.Outcome State Fault Refusal :=
  issue 4 s fun a s =>
    match rd s a x, rd s a y with
    | .error e, _ => .error e
    | _, .error e => .error e
    | .ok h, .ok t =>
      if pBusy (strandAt s a) p.toNat then stall s
      else if !(strandEntries s a).isEmpty || !released s a || !unitQuiet s a (unitOf a.c h.toNat) then stall s
      else match publish s a.c (ctxOf s a) (jobOf s a) h.toNat t.toNat final sc.toNat with
        | .error c => .error (.trap c)
        | .ok (s, ok) => match wrP s a p.toNat ok with
          | .ok s => .ok ⟨s, 0, .seq⟩
          | .error e => .error e

/-- PUBV (R279). -/
def execPubv (p sc : BitVec 3) (x y : BitVec 6) (s : State) : Host.Outcome State Fault Refusal := pubvOp false p sc x y s

/-- PUBV.f (R279). -/
def execPubvF (p sc : BitVec 3) (x y : BitVec 6) (s : State) : Host.Outcome State Fault Refusal := pubvOp true p sc x y s

/-- The subscriber a descriptor of R280 binds, or its refusal 0x53. -/
def subFromBits (s : State) (a : At) (ad v : Nat) : Except Cause Sub :=
  let t := strandAt s a
  if bits v 0 64 % 4 ≠ 0 ∨ 47 < bits v 128 6 ∨ bits v 134 2 = 3 ∨ bits v 136 120 ≠ 0 then .error ⟨0x53, ad, 0, 0⟩
  else .ok {
    arg := bits v 64 64, entry := bits v 0 64, runs := 0, runv := 0, core := a.c / 48 * 48 + bits v 128 6, state := 0
    policy := bits v 134 2, holds := false, queued := false, unfinished := false, waited := 0, tries := 0
    bCore := a.c, bTask := (match t.task with | some k => k.id | none => 0), bLim := waitBound t }

/-- TSUB (R110, R281). -/
def execTsub (d : BitVec 5) (n : BitVec 1) (x y : BitVec 6) (s : State) : Host.Outcome State Fault Refusal :=
  issue 4 s fun a s =>
    match rd s a x, rd s a y with
    | .error e, _ => .error e
    | _, .error e => .error e
    | .ok h, .ok ad =>
      match readStruct s a ad.toNat 32 32 with
      | .error c => .error (.trap c)
      | .ok (_, v) =>
        match subFromBits s a ad.toNat v, freeD s a d n with
        | .error c, _ => .error (.trap c)
        | _, .error e => .error e
        | .ok b, .ok _ =>
          if !unitQuiet s a (unitOf a.c h.toNat) then stall s
          else match subscribe s a.c (ctxOf s a) (jobOf s a) h.toNat b with
            | .error c => .error (.trap c)
            | .ok (s, i) => match wrG s a d n 1 (BitVec.ofNat 64 i) with
              | .ok s => .ok ⟨s, 0, .seq⟩
              | .error e => .error e

/-- STOPREF (R115, R282). -/
def execStopref (x : BitVec 6) (s : State) : Host.Outcome State Fault Refusal :=
  issue 4 s fun a s =>
    match rd s a x with
    | .error e => .error e
    | .ok h => .ok ⟨sendPool s a (unitOf a.c h.toNat) (.stopref h.toNat) (wRR 0x37 0 0 x 0 3), 0, .seq⟩

/-- SWAIT (R116, R283). -/
def execSwait (x : BitVec 6) (s : State) : Host.Outcome State Fault Refusal :=
  issue 4 s fun a s =>
    match rd s a x with
    | .error e => .error e
    | .ok u =>
      let i := u.toNat
      let nsets := (jobAt s (jobOf s a)).nsets
      if 64 ≤ i then raise 0x02 (wRR 0x37 0 0 x 0 4).toNat i 0
      else if nsets ≤ i then raise 0x55 i nsets 0
      else if settledSet s (jobOf s a) i then .ok ⟨s, 0, .seq⟩
      else waitOrStop s a (.swait i) true 0

/-- The version word of a handle (R284). -/
def versionWord (s : State) (n ctx h : Nat) : Nat :=
  match tileAt s n ctx h, headAt s n ctx h with
  | some t, some hd =>
    if t.kind = 3 then place hd.subs.length 18 4 + b2n hd.sref * 2 ^ 17 + b2n hd.final * 2 ^ 16 + place hd.ver 0 16 else 0
  | _, _ => 0

/-- TVER (R284): it never traps. -/
def execTver (d : BitVec 5) (n : BitVec 1) (x : BitVec 6) (s : State) : Host.Outcome State Fault Refusal :=
  issue 4 s fun a s =>
    match rd s a x with
    | .error e => .error e
    | .ok h =>
      let u := unitOf a.c h.toNat
      if !unitQuiet s a u then stall s
      else match wrG s a d n 1 (BitVec.ofNat 64 (versionWord s u (ctxOf s a) h.toNat)) with
        | .ok s => .ok ⟨s, 0, .seq⟩
        | .error e => .error e

end Sys2Proof.Machine
end

