-- ==== Sys2Proof/Machine/Fork.lean ====
section
/-! DEFINITION. Task and mailbox words (R285 to R290, R413): FORK, JOIN, ENQ, CARD, MBPOST, MBTAKE. -/

namespace Sys2Proof.Machine


/-- The checks of FORK and ENQ (R285, R413). -/
def forkCheck (s : State) (a : At) (entry : Nat) : Act Unit :=
  if entry % 4 ≠ 0 ∨ 2 ^ 52 ≤ entry then raise 0x25 entry 0 0
  else match (strandAt s a).task with
    | some k => if 255 ≤ k.depth then raise 0x1C entry 0 0 else .ok ()
    | none => .ok ()

/-- The deque entry of a child (R23, R25). -/
def childOf (s : State) (a : At) (k : Task) (entry arg : Nat) (joined : Bool) (slot : Option Nat) : DqEntry where
  entry := entry
  arg := arg
  depth := k.depth + 1
  job := k.job
  parent := if joined then some k.id else none
  shapes := (strandAt s a).e
  slot := slot
  run := none
  stamp := 0

/-- A child joins the deque of its creator's core (R25); it counts toward its job's end (R30). -/
def pushChild (s : State) (a : At) (e : DqEntry) : State :=
  let s := match e.parent with
    | some p => { s with joinCnt := tabPut s.joinCnt p (joinCount s p + 1) }
    | none => s
  onJob (dequePush s a.c e) e.job (fun b => { b with live := b.live + 1 })

/-- A strand as its join frame keeps it: its exposed writes performed, its pc after the instruction that evicts it (R26). -/
def framed (t : Strand) : Strand := advance 4 0 .seq (endTurn t)

/-- The lowest join frame of a core that is free under a context (R26). -/
def freeFrame (s : State) (c ctx : Nat) : Nat :=
  ((List.range 64).find? (fun n => !(coreAt s c).joins.any (fun f => f.ctx == ctx && f.slot == n))).getD 0

/-- The context of strand a is saved in a join frame (R26, R343), whose layout the spec leaves open (log 10); inline names the
counter of an inline child (R25). -/
def saveFrame (s : State) (a : At) (inline : Option Nat) : State :=
  let n := freeFrame s a.c (ctxOf s a)
  let f : JoinFrame := { job := jobOf s a, ctx := ctxOf s a, strand := framed (strandAt s a), inline := inline, slot := n }
  onCore (writeUndefined s (saveArea s (ctxOf s a) a.c + 0x150000 + 0x800 * n) 0x800) a.c (fun k => { k with joins := k.joins ++ [f] })

/-- Have the strand's engine instructions completed and its results returned, as R26 step 1 and R144 ask of a save? -/
def quiet (s : State) (a : At) : Bool := (strandEntries s a).isEmpty && (strandAt s a).sb.isEmpty && remotesDone s a

/-- FORK with no slot for its child (R25): the child runs on the same strand; the creator waits in a join frame for the
child's end, counted by a counter of its own. -/
def forkInline (s : State) (a : At) (k : Task) (entry arg : Nat) : State :=
  let (s, key) := newTask s
  let (s, id) := newTask s
  let b := jobAt s k.job
  let child : Task := { k with
    depth := k.depth + 1, id := id, parent := some key, card := false, restart := b.restart, deferred := []
    run := none, tiles := [], entry := entry, arg := arg, shapes := (strandAt s a).e, grants := [], regrants := [], attempts := 0 }
  let shapes := (strandAt s a).e
  let s := { saveFrame s a (some key) with joinCnt := tabPut s.joinCnt key 1 }
  let s := onStrand s a (fun t => startStrand t child entry [.ofNat 64 arg, 0, 0, .ofNat 64 b.id] shapes 0)
  dropTurn (onJob s k.job (fun b => { b with live := b.live + 1 })) a

/-- The child of a FORK whose deque has no slot for it: its creator needs a save area and a join frame (R25, R285, R444); a frame
that cannot be written ends the task, as a trap frame does (log 89). -/
def forkNoSlot (s : State) (a : At) (k : Task) (entry arg : Nat) : Act Done :=
  if !quiet s a then stall s
  else if (ctxAt s (ctxOf s a)).savebase = 0 then raise 0x98 (pcOf s a) 0 0
  else if 64 ≤ framesUsed s a.c (ctxOf s a) then
    waitOrStop s a (.stall 4) false (framesUsed s a.c (ctxOf s a) + joinCount s k.id * 2 ^ 32)
  else match frameFails s (ctxOf s a) a.c with
    | some code => .ok ⟨endByFrame s a code (0x150000 + 0x800 * freeFrame s a.c (ctxOf s a)), 0, .own⟩
    | none => .ok ⟨forkInline s a k entry arg, 0, .own⟩

/-- FORK (R25, R285): a deque serves one operation in a cycle (R27). -/
def execFork (x y : BitVec 6) (s : State) : Host.Outcome State Fault Refusal :=
  issue 4 s fun a s =>
    match rd s a x, rd s a y with
    | .error e, _ => .error e
    | _, .error e => .error e
    | .ok en, .ok arg =>
      match forkCheck s a en.toNat, (strandAt s a).task with
      | .error e, _ => .error e
      | .ok _, none => .ok ⟨s, 0, .seq⟩
      | .ok _, some k =>
        if !ccPerformed s a then stall s
        else match dequeSlot (coreAt s a.c) k.depth with
          | some slot =>
            if (coreAt s a.c).dqBusy then goOnWaiting s a
            else .ok ⟨pushChild s a (childOf s a k en.toNat arg.toNat true slot), 0, .seq⟩
          | none => forkNoSlot s a k en.toNat arg.toNat

/-- ENQ (R25, R285): it waits until a slot it may take is free. -/
def execEnq (x y : BitVec 6) (s : State) : Host.Outcome State Fault Refusal :=
  issue 4 s fun a s =>
    match rd s a x, rd s a y with
    | .error e, _ => .error e
    | _, .error e => .error e
    | .ok en, .ok arg =>
      match forkCheck s a en.toNat, (strandAt s a).task with
      | .error e, _ => .error e
      | .ok _, none => .ok ⟨s, 0, .seq⟩
      | .ok _, some k =>
        if !ccPerformed s a then stall s
        else match dequeSlot (coreAt s a.c) k.depth with
          | some slot =>
            if (coreAt s a.c).dqBusy then goOnWaiting s a
            else .ok ⟨pushChild s a (childOf s a k en.toNat arg.toNat false slot), 0, .seq⟩
          | none => waitOrStop s a .enq true 0

/-- The eviction of JOIN (R21, R26): the context goes to a frame, the strand is idle, its turn is over. -/
def evict (s : State) (a : At) : State :=
  dropTurn (onStrand (saveFrame s a none) a vacated) a

/-- JOIN of a task with live joined children (R26, R286). -/
def joinWait (s : State) (a : At) (n : Nat) : Act Done :=
  if !quiet s a then stall s
  else if (strandAt s a).stopping then .ok ⟨reachStop s a, 0, .own⟩
  else if (ctxAt s (ctxOf s a)).savebase = 0 then raise 0x98 (pcOf s a) 0 0
  else if 64 ≤ framesUsed s a.c (ctxOf s a) then
    .error (.wait s (.stall 3) false (framesUsed s a.c (ctxOf s a) + n * 2 ^ 32))
  else match frameFails s (ctxOf s a) a.c with
    | some code => .ok ⟨endByFrame s a code (0x150000 + 0x800 * freeFrame s a.c (ctxOf s a)), 0, .own⟩
    | none => .ok ⟨evict s a, 0, .own⟩

/-- JOIN (R26, R286). -/
def execJoin (s : State) : Host.Outcome State Fault Refusal :=
  issue 4 s fun a s =>
    let n := match (strandAt s a).task with | some k => joinCount s k.id | none => 0
    if n = 0 then .ok ⟨s, 0, .seq⟩ else joinWait s a n

/-- The chunk word of CARD (R287). -/
def chunkWord (g : Nat × Nat) : Dword := BitVec.ofNat 64 (g.1 % 2 ^ 32 + g.2 * 2 ^ 32)

/-- CARD (R29, R287): a re-executed card task first receives the chunks its failed run had (R448). -/
def execCard (d : BitVec 5) (n : BitVec 1) (s : State) : Host.Outcome State Fault Refusal :=
  issue 4 s fun a s =>
    match freeD s a d n with
    | .error e => .error e
    | .ok _ =>
      match (strandAt s a).task with
      | some { regrants := g :: rest, grants := gs, .. } =>
        let s := onStrand s a (fun t => { t with task := t.task.map (fun k => { k with regrants := rest, grants := gs ++ [g] }) })
        .ok ⟨addSb s a (destG d n) false false (some (chunkWord g)), 0, .seq⟩
      | _ =>
        let id := s.sbNext
        let s := addSb s a (destG d n) false false none
        .ok ⟨{ s with cards := s.cards ++ [⟨a.c, a.x, jobOf s a, id⟩] }, 0, .seq⟩

/-! ## The cluster mailbox -/

/-- May the strand post to a mailbox: is there room, and does no post wait there that arrived before (R289)? DEDUCED: a post
that waits is appended before any that arrived later, so the later one waits for it where a place is free (log 99). -/
def mayPost (k : Cluster) (a : At) : Bool :=
  decide (k.mail.length < 32) && (k.posters.takeWhile (· != strandNo a)).isEmpty

/-- A strand's post waits, behind those that have arrived before it (R289). -/
def queuePost (s : State) (a : At) : State :=
  onCluster s (a.c / 48) (fun k => if k.posters.contains (strandNo a) then k else { k with posters := k.posters ++ [strandNo a] })

/-- MBPOST (R288, R289): posts that wait keep the order of their arrival. -/
def execMbpost (x y : BitVec 6) (s : State) : Host.Outcome State Fault Refusal :=
  issue 4 s fun a s =>
    match rd s a x, rd s a y with
    | .error e, _ => .error e
    | _, .error e => .error e
    | .ok u, .ok v =>
      if !ccPerformed s a then stall s
      else
        let k := a.c / 48
        if !mayPost (clusterAt s k) a then waitOrStop (queuePost s a) a .mbpost true 0
        else
          let j := jobOf s a
          .ok ⟨onCluster s k (fun q => { q with
              posters := q.posters.filter (· != strandNo a)
              mail := q.mail ++ [⟨u.toNat, v.toNat, q.mseq, a.c % 48, a.x, j⟩]
              mseq := (q.mseq + 1) % 2 ^ 32
              posts := (q.posts + 1) % 2 ^ 32 }), 0, .seq⟩

/-- The poster word of an entry: bits [127:64] (R288). -/
def posterWord (m : Mail) : Nat := 2 ^ 63 + place m.seq 8 32 + place m.core 0 6

/-- An entry as MBTAKE writes it (R288). -/
def mailBits (m : Mail) : Nat := m.wb * 2 ^ 192 + m.wa * 2 ^ 128 + posterWord m * 2 ^ 64 + place m.sx 56 2

/-- Is the core its cluster's comm master (R11)? -/
def isMaster (s : State) (c : Nat) : Bool := (clusterAt s (c / 48)).master == some (c % 48)

/-- MBTAKE (R290): the oldest entry, or 0 and no write. -/
def execMbtake (d : BitVec 5) (n : BitVec 1) (x : BitVec 6) (s : State) : Host.Outcome State Fault Refusal :=
  issue 4 s fun a s =>
    match rd s a x with
    | .error e => .error e
    | .ok ad =>
      match checkAddr [2] 32 32 ad.toNat ad.toNat, freeD s a d n with
      | .error c, _ => .error (.trap c)
      | .ok _, e =>
        if !isMaster s a.c then raise 0x1B (wRR 0x39 d n x 0 1).toNat 0 0
        else match e with
          | .error e => .error e
          | .ok _ =>
            match (clusterAt s (a.c / 48)).mail with
            | [] => (match wrG s a d n 1 0 with
              | .ok s => .ok ⟨s, 0, .seq⟩
              | .error e => .error e)
            | m :: rest =>
              let s := onCluster s (a.c / 48) (fun q => { q with mail := rest, takes := (q.takes + 1) % 2 ^ 32 })
              let s := engineWrite s 0 (placeOf a.c ad.toNat) (leBytes 32 (mailBits m))
              match wrG s a d n 1 (BitVec.ofNat 64 (posterWord m)) with
              | .ok s => .ok ⟨s, 0, .seq⟩
              | .error e => .error e

end Sys2Proof.Machine
end

