-- ==== Sys2Proof/Machine/Coll.lean ====
section
/-! DEFINITION. Collectives: COLL (R291), the sequencer's structures and memory (R323 to R327), and the abort of a launch
(R457, R458). -/

namespace Sys2Proof.Machine

/-! ## COLL -/

/-- A new launch (R291, R323). -/
def newLaunch (s : State) (a : At) (prog block word : Nat) : Launch where
  num := (clusterAt s (a.c / 48)).counter
  prog := prog
  block := block
  pc := 0
  loops := [0, 0, 0, 0]
  stack := []
  runs := []
  readies := []
  bars := []
  barNo := 0
  core := a.c
  sx := a.x
  task := match (strandAt s a).task with | some k => k.id | none => 0
  job := jobOf s a
  ctx := ctxOf s a
  limit := waitBound (strandAt s a)
  word := word
  wordPc := pcOf s a

/-- The program address of COLL (R291): 8-byte aligned, in local pond or the global space. -/
def collProg (ad : Nat) : Except Cause Unit := checkAddr [0, 2] 8 8 ad ad

/-- COLL (R291, R413, R459): the launch block is read at issue; four launches of a comm master at most. -/
def execColl (d : BitVec 5) (n : BitVec 1) (x y : BitVec 6) (s : State) : Host.Outcome State Fault Refusal :=
  issue 4 s fun a s =>
    match rd s a x, rd s a y with
    | .error e, _ => .error e
    | _, .error e => .error e
    | .ok p, .ok b =>
      match collProg p.toNat, readStruct s a b.toNat 64 64, freeD s a d n with
      | .error c, _, _ => .error (.trap c)
      | _, .error c, _ => .error (.trap c)
      | .ok _, .ok (_, v), e =>
        let word := (wRR 0x3A d n x y 0).toNat
        if (clusterAt s (a.c / 48)).master.isNone then raise 0xBD s.dev.rank 0 0
        else if !isMaster s a.c then raise 0x1B word 0 0
        else match e with
          | .error e => .error e
          | .ok _ =>
            if 4 ≤ (clusterAt s (a.c / 48)).launches.length ∨ !released s a then stall s
            else
              let l := newLaunch s a p.toNat v word
              let s := onCluster s (a.c / 48) (fun k => { k with launches := k.launches ++ [l], counter := (k.counter + 1) % 2 ^ 32 })
              match wrG s a d n 1 (BitVec.ofNat 64 l.num) with
              | .ok s => .ok ⟨s, 0, .seq⟩
              | .error e => .error e

/-! ## Launches -/

/-- Launch ln of cluster cl's sequencer. -/
def launchAt (s : State) (cl ln : Nat) : Option Launch := (clusterAt s cl).launches.find? (fun l => l.num == ln)

/-- Replaces a launch. -/
def putLaunch (s : State) (cl : Nat) (l : Launch) : State :=
  onCluster s cl (fun k => { k with launches := k.launches.map (fun m => if m.num = l.num then l else m) })

/-- Takes a launch off its sequencer. -/
def dropLaunch (s : State) (cl ln : Nat) : State :=
  onCluster s cl (fun k => { k with launches := k.launches.filter (fun m => m.num != ln) })

/-- The group size n. -/
def Launch.size (l : Launch) : Nat := bits l.block 170 22 + 1
/-- This member's index i. -/
def Launch.own (l : Launch) : Nat := bits l.block 148 22
/-- The tag. -/
def Launch.tag (l : Launch) : Nat := bits l.block 224 32
/-- The address of the group table. -/
def Launch.gtab (l : Launch) : Nat := bits l.block 448 64
/-- The address of the buffer table. -/
def Launch.btab (l : Launch) : Nat := bits l.block 384 64
/-- The address of the chunk offsets, or 0. -/
def Launch.ofs (l : Launch) : Nat := bits l.block 320 64
/-- The address of the done word. -/
def Launch.done (l : Launch) : Nat := bits l.block 256 64
/-- The parity of the launch. -/
def Launch.parity (l : Launch) : Nat := bits l.block 192 1

/-! ## The sequencer's memory (R324 to R327) -/

/-- The location of one byte that a sequencer reaches for its comm master: pond, lake or own global space. -/
def seqByte (s : State) (l : Launch) (wr : Bool) (ad : Nat) : Option Nat :=
  match checkAddr [0, 1, 2] 0 1 ad ad with
  | .error _ => none
  | .ok _ =>
    if bits ad 60 4 = 0 then
      match translateFlat s l.ctx ad wr with
      | .ok (loc, false) => some loc
      | _ => none
    else some (placeLoc (keyOf s l.ctx) (placeOf l.core ad))

/-- The locations of n bytes from an address on, if all can be reached. -/
def seqBytes (s : State) (l : Launch) (wr : Bool) (ad : Nat) : Nat → Option (List Nat)
  | 0 => some []
  | n + 1 => match seqByte s l wr ad, seqBytes s l wr (ad + 1) n with
    | some p, some t => some (p :: t)
    | _, _ => none

/-- Reads a number of n bytes. -/
def seqRead (s : State) (l : Launch) (ad n : Nat) : Option Nat :=
  (seqBytes s l false ad n).map (fun ps => leNat (ps.map s.mem.read))

/-- Writes bytes at an address; those of a pond set their granules full (R330). -/
def seqWrite (s : State) (l : Launch) (ad : Nat) (v : List Byte) : Option State :=
  match seqBytes s l true ad v.length with
  | none => none
  | some ps =>
    let s := (ps.zip v).foldl (fun s p => storeN s p.1 [p.2]) s
    some (if bits ad 60 4 = 2 then fillGranules s l.core (addrOff ad) v.length else s)

/-! ## Abort (R392, R457, R458) -/

/-- A collective cause reaches the strand that issued the COLL while it runs the task that did, else its job's status. -/
def collCause (s : State) (l : Launch) (c : Cause) : State :=
  if taskLives s l.task then
    onTasks s (Strand.runs l.task) (fun t => { t with asyncs := t.asyncs ++ [⟨c, false, 0, 0, l.word, l.wordPc, 2⟩] })
  else noteEnd s l.job c.code

/-- The done word of an aborted launch (R458). -/
def abortDone (s : State) (l : Launch) (code : Nat) : State :=
  match seqWrite s l l.done (leBytes 8 (2 ^ 63 + code * 2 ^ 32 + l.num)) with
  | some s => s
  | none => s

/-- The clusters of this device that other members of a launch's group stand on (R325). -/
def localMembers (s : State) (l : Launch) : List Nat :=
  (List.range l.size).filterMap (fun j => match seqRead s l (l.gtab + 4 * j) 4 with
    | some v => if j ≠ l.own ∧ bits v 0 24 = s.dev.rank ∧ bits v 24 8 < 36 then some (bits v 24 8) else none
    | none => none)

/-- The abort message of a launch reaches a cluster of this device: its launch with the same tag aborts with 0xBE, which names
the peer's rank (R398, R458). Launches of a job that has ended hear nothing of their own. -/
def abortMember (but : Option Nat) (tag : Nat) (s : State) (k : Nat) : State :=
  match (clusterAt s k).launches.find? (fun m => m.tag == tag) with
  | some m => if but = some m.job then s else dropLaunch (collCause (abortDone s m 0xBE) m ⟨0xBE, s.dev.rank, 0, 0⟩) k m.num
  | none => s

/-- The routes of a cluster to the members of a launch's group on other devices (R317, R325). -/
def farMembers (s : State) (cl : Nat) (l : Launch) : List Nat :=
  (List.range l.size).filterMap (fun j => match seqRead s l (l.gtab + 4 * j) 4 with
    | some v => if j ≠ l.own ∧ bits v 0 24 ≠ s.dev.rank ∧ bits v 24 8 < 36 then some (routeOf s cl (bits v 0 24)) else none
    | none => none)

/-- The abort messages of a launch: to members on other devices as packets, on this device at once (R458). -/
def tellAbort (s : State) (cl : Nat) (l : Launch) (but : Option Nat) : State :=
  (localMembers s l).foldl (abortMember but l.tag) ((farMembers s cl l).foldl (fun s r => post s cl r 0) s)

/-- Aborts a launch with a cause (R458). -/
def abortLaunch (s : State) (cl : Nat) (l : Launch) (c : Cause) : State :=
  tellAbort (dropLaunch (collCause (abortDone s l c.code) l c) cl l.num) cl l none

/-- Aborts a launch whose job has ended: no strand hears of it (R445, R458). -/
def abortSilent (s : State) (cl : Nat) (l : Launch) (code : Nat) : State :=
  tellAbort (dropLaunch (abortDone s l code) cl l.num) cl l (some l.job)

end Sys2Proof.Machine
end

