-- ==== Sys2Proof/Machine/Copy.lean ====
section
/-! DEFINITION. Issue of the copy-unit words, majors 0x20 to 0x25 and 0x27 (R200 to R213, R399, R401, R409). -/

namespace Sys2Proof.Machine

/-- The first error of two checks. -/
def andThen (x : Except Cause Unit) (y : Except Cause Unit) : Except Cause Unit := match x with | .error c => .error c | .ok _ => y

/-- A check that raises a cause unless the condition holds. -/
def chk (b : Bool) (code a0 a1 a2 : Nat) : Except Cause Unit := if b then .ok () else .error ⟨code, a0, a1, a2⟩

/-- Does the space code name a tile's storage as a handle does (R93)? -/
def handleSpace (sp : Nat) : Bool := sp == 1 || sp == 3

/-- Is the space a pond's? -/
def pondSpace (sp : Nat) : Bool := sp == 2 || sp == 3

/-- The address of an operand that may be drawn: a handle gives its tile's first byte (R94). -/
def opAddr (draw : Bool) (v : Nat) : Nat := if draw && handleSpace (bits v 60 4) then hAddr v else v

/-- The draw record of an operand of len bytes at a place, when it is drawn. -/
def drawOf (draw : Bool) (h : Nat) (p : Place) (len : Nat) : List Draw := if draw then [⟨h, p.off, len⟩] else []

/-! ## The copy control word (R200, R409) -/

/-- Source qualifier of a copy control word. -/
def ctlSq (w : Nat) : Nat := bits w 32 2
/-- Bit sdraw. -/
def ctlDraw (w : Nat) : Bool := bit w 34
/-- Bit res. -/
def ctlRes (w : Nat) : Bool := bit w 39
/-- Field aux. -/
def ctlAux (w : Nat) : Nat := bits w 44 20
/-- Field len. -/
def ctlLen (w : Nat) : Nat := bits w 0 32

/-- Checks a copy control word whose source lies in space sp, with a form's own bad bits. -/
def checkCtl (w sp : Nat) (extra : List Nat) : Except Cause Unit :=
  checkBad 0x0E w (badIf (ctlSq w = 3 || (ctlSq w ≠ 0 && !pondSpace sp)) 32 ++ badIf (ctlDraw w && !handleSpace sp) 34
    ++ badZero w 35 4 ++ badZero w 40 4 ++ extra)

/-- Bad bits of a form without aux. -/
def auxZero (w : Nat) : List Nat := badZero w 44 20

/-- Bad bits of an aux that must be aligned to 2^n. -/
def auxAligned (w n : Nat) : List Nat := badZero w 44 n

/-! ## Flat transfers (R201, R202) -/

/-- The formats of a flat transfer that converts: both ends in pond, their banks' formats different and not 0 (R49, R201;
log 21: the banks of the first bytes). -/
def flatConv (s : State) (dst src : Place) : Option (Nat × Nat) :=
  let f := bankFmt s src
  let g := bankFmt s dst
  if src.inPond ∧ dst.inPond ∧ f ≠ 0 ∧ g ≠ 0 ∧ f ≠ g then some (f, g) else none

/-- Elements and bytes of a unit of a format in the bank of a place: one element, or a block with its interleaved scale. -/
def fmtUnit (s : State) (fmt : Nat) (p : Place) : Nat × Nat :=
  if fmtBlock fmt then (fmtL fmt, blockUnit s fmt p) else (1, fmtBytes fmt)

/-- Bytes that a flat transfer of len source bytes writes. -/
def flatOut (s : State) (dst src : Place) (len : Nat) : Nat :=
  match flatConv s dst src with
  | none => len
  | some (f, g) =>
    let (ls, us) := fmtUnit s f src
    let (ld, ud) := fmtUnit s g dst
    ceilDiv (len / us * ls) ld * ud

/-- The checks of a flat transfer's len: whole words from an accumulator, whole elements or blocks of a conversion. -/
def checkFlatLen (s : State) (dst : Option Place) (src : Place) (len : Nat) : Except Cause Unit :=
  andThen (chk (src.space ≠ 4 || len % 4 = 0) 0x7C len 4 0)
    (match dst with
    | none => .ok ()
    | some d => match flatConv s d src with
      | none => .ok ()
      | some (f, _) => chk (len % (fmtUnit s f src).2 = 0) 0x7C len (fmtUnit s f src).2 0)

/-- The checks of a flat transfer's two addresses, in operand order (R401, R406). -/
def checkFlat (s : State) (a : At) (ds ss : List Nat) (ga : Option Nat) (sa len : Nat) : Except Cause Unit :=
  let sp := placeOf a.c sa
  let out := match ga with | some d => flatOut s (placeOf a.c d) sp len | none => 0
  andThen (match ga with | some d => checkAddr ds 0 out d d | none => .ok ())
    (checkAddr ss (if bits sa 60 4 = 4 then 4 else 0) len sa sa)

/-- Resolves CIN and COUT of the flat forms (R202). -/
def resolveFlat (ds ss : List Nat) (s : State) (a : At) (ga gb gc : Nat) : ResE :=
  let sa := opAddr (ctlDraw gc) gb
  let len := ctlLen gc
  let dst := placeOf a.c ga
  let src := placeOf a.c sa
  match andThen (checkFlat s a ds ss (some ga) sa len)
      (andThen (checkFlatLen s (some dst) src len) (checkCtl gc (bits gb 60 4) (auxZero gc))) with
  | .error c => .error c
  | .ok _ => .ok ⟨.flat dst src len (ctlSq gc) (ctlRes gc), drawOf (ctlDraw gc) gb src len, []⟩

/-- Resolves COUT.sel (R204). -/
def resolveSel (s : State) (a : At) (ga gb gc : Nat) : ResE :=
  let sa := opAddr (ctlDraw gc) gb
  let len := ctlLen gc
  let dst := if ga = 0 then none else some (placeOf a.c ga)
  let src := placeOf a.c sa
  match andThen (checkFlat s a [0, 1, 2, 3] [2, 4] (if ga = 0 then none else some ga) sa len)
      (andThen (chk (len % 4 = 0) 0x7C len 4 0)
        (andThen (chk (len / 4 ≤ 2 ^ 24) 0x18 (len / 4) (2 ^ 24) 0)
          (andThen (checkFlatLen s dst src len) (checkCtl gc (bits gb 60 4) (auxAligned gc 6))))) with
  | .error c => .error c
  | .ok _ => .ok ⟨.csel dst src len (ctlSq gc) ⟨2, a.c, ctlAux gc⟩ (ctlRes gc), drawOf (ctlDraw gc) gb src len, []⟩

/-- Resolves CIN.mc (R203). -/
def resolveMc (w : Word) (_ : State) (a : At) (ga gb gc : Nat) : ResE :=
  let sa := opAddr (ctlDraw gc) gb
  let len := ctlLen gc
  let src := placeOf a.c sa
  let aux := ctlAux gc
  match andThen (chk (ga < 2 ^ 48) 0x02 w.toNat ga 0)
      (andThen (checkAddr [3] 64 len sa sa)
        (andThen (chk (len % 64 = 0 && len ≤ 2 ^ 20) 0x18 len (2 ^ 20) 0)
          (andThen (checkCtl gc (bits gb 60 4) (auxAligned gc 6))
            (andThen (chk (aux + len ≤ 2 ^ 20) 0x22 (tagged ⟨2, a.c, aux⟩) 0 0)
              (chk (!(bit ga (src.core % 48) && src.off < aux + len && aux < src.off + len)) 0x3D sa 0 0))))) with
  | .error c => .error c
  | .ok _ => .ok ⟨.mcast ga src aux len (ctlSq gc) (ctlRes gc), drawOf (ctlDraw gc) gb src len, []⟩

/-! ## Records (R206, R207) -/

/-- Checks the base that a record names: one of the spaces of the form, its bits (R401 step 9, R406). -/
def checkBase (spaces : List Nat) (draw : Bool) (tag : Nat) : Except Cause Unit :=
  let ad := opAddr draw tag
  checkAddr spaces 0 0 ad ad

/-- Checks a record's offsets vector's address (R35). -/
def checkOffs (r : Layout) : Except Cause Unit :=
  if !r.ragged then .ok ()
  else let ad := tagged r.offs; checkAddr [0, 1, 2, 3] 4 (4 * (r.segs + 1)) ad ad

/-- The bytes of a region's elements relative to its space, as a draw covers them; none for a ragged record. -/
def regionCover (s : State) (fmt : Nat) (r : Layout) : Nat × Nat :=
  match r.staticDims with
  | none => (r.base.off, 0)
  | some dims =>
    if dimCount dims = 0 then (r.base.off, 0)
    else
      let (lo, hi) := dimRange dims
      let sp := elemSpan s fmt r.base lo hi
      ((r.base.shift sp.1).off, (sp.2 - sp.1).toNat)

/-- The format in which a CPX side is addressed (R206). -/
def sideFmt (own other : Nat) : Nat := if own = 0 then other else own

/-- Whole-region checks of a CPX side of known dimensions: within its space, and every bank it touches of its record's format
(R206). -/
def checkSideDims (s : State) (r : Layout) (tag other : Nat) (dims : List Dim) : Except Cause Unit :=
  if dimCount dims = 0 then .ok ()
  else
    let f := sideFmt r.fmt other
    let (lo, hi) := dimRange dims
    let sp := elemSpan s f r.base lo hi
    andThen (checkSpan r.base tag sp)
      (checkBanks s r.fmt r.base (touched s f r.base dims))

/-- Whole-region checks of a CPX side whose dimensions are known at issue. -/
def checkSide (s : State) (r : Layout) (tag other : Nat) : Except Cause Unit :=
  match r.staticDims with
  | none => .ok ()
  | some dims => checkSideDims s r tag other dims

/-- The first pair of extents in which two records differ (R206). -/
def shapeDiff (d r : Layout) : Option (Nat × Nat) :=
  if d.rank ≠ r.rank then some (d.rank, r.rank)
  else match (List.range d.rank).find? (fun k => nth d.ext k != nth r.ext k) with
    | some k => some (nth d.ext k, nth r.ext k)
    | none =>
      if d.ragged ≠ r.ragged then some (b2n d.ragged, b2n r.ragged)
      else if d.ragged ∧ d.rdim ≠ r.rdim then some (d.rdim, r.rdim) else none

/-- Resolves CPX; ds and ss are the spaces of the form's two sides (R206, R409). -/
def resolveCpx (ds ss : List Nat) (s : State) (a : At) (ga gb gc : Nat) : ResE :=
  match andThen (checkAddr [2] 64 64 ga ga) (checkAddr [2] 64 64 gb gb) with
  | .error c => .error c
  | .ok _ =>
    match readLayout s a ga false with
    | .error c => .error c
    | .ok d =>
      match andThen (checkBase ds false d.tag) (checkOffs d.lay) with
      | .error c => .error c
      | .ok _ =>
        match readLayout s a gb (ctlDraw gc) with
        | .error c => .error c
        | .ok r =>
          match andThen (checkBase ss (ctlDraw gc) r.tag) (andThen (checkOffs r.lay)
              (andThen (checkCtl gc (bits r.tag 60 4) (badZero gc 0 32 ++ auxZero gc))
                (andThen (match shapeDiff d.lay r.lay with | some (x, y) => .error ⟨0x7B, x, y, 0⟩ | none => .ok ())
                  (andThen (checkSide s d.lay (tagged d.lay.base) r.lay.fmt)
                    (checkSide s r.lay (tagged r.lay.base) d.lay.fmt))))) with
          | .error c => .error c
          | .ok _ =>
            let (lo, len) := regionCover s (sideFmt r.lay.fmt d.lay.fmt) r.lay
            .ok ⟨.cpx d.lay r.lay (ctlSq gc) (ctlRes gc), if ctlDraw gc then [⟨r.tag, lo, len⟩] else [],
              d.payload ++ r.payload⟩

/-- Rows of a record (R207) where its dimension 0 is not ragged: those known at issue. -/
def rowsOf (r : Layout) : Nat := dimCount ((r.staticDims.getD []).drop 1)

/-- The checks of R207 on a record and the table's stride. -/
def checkRows (s : State) (r : Layout) (stride : Nat) : Except Cause Unit :=
  let size := nth r.ext 0 * fmtBytes r.fmt
  andThen (chk (!fmtBlock r.fmt) 0x16 r.fmt 0 0)
    (if r.ragged && r.rdim = 0 then .ok ()
    else andThen (chk (1 ≤ size && size ≤ 8192) 0x18 size 8192 0)
      (andThen (chk (size ≤ stride) 0x18 stride size 0)
        (match r.staticDims with
        | some dims => checkRegion s r.fmt r.base (tagged r.base) dims false
        | none => .ok ())))

/-- The index vector of CGATH or CSCAT ends in pond, where its length is known at issue. -/
def checkIndex (a : At) (r : Layout) (aux : Nat) : Except Cause Unit :=
  match r.staticDims with
  | some _ => chk (aux + 4 * rowsOf r ≤ 2 ^ 20) 0x22 (tagged ⟨2, a.c, aux⟩) 0 0
  | none => .ok ()

/-- Resolves CGATH: record at ga, table at gb (R207). -/
def resolveGath (rs : List Nat) (s : State) (a : At) (ga gb gc : Nat) : ResE :=
  let ta := opAddr (ctlDraw gc) gb
  match andThen (checkAddr [2] 64 64 ga ga) (checkAddr [0, 1] 0 0 ta ta) with
  | .error c => .error c
  | .ok _ =>
    match readLayout s a ga false with
    | .error c => .error c
    | .ok r =>
      match andThen (checkBase rs false r.tag) (andThen (checkOffs r.lay)
          (andThen (checkCtl gc (bits gb 60 4) (auxAligned gc 2))
            (andThen (checkRows s r.lay (ctlLen gc)) (checkIndex a r.lay (ctlAux gc))))) with
      | .error c => .error c
      | .ok _ =>
        let t := placeOf a.c ta
        .ok ⟨.cgath r.lay t (ctlLen gc) ⟨2, a.c, ctlAux gc⟩ (ctlSq gc) (ctlRes gc), drawOf (ctlDraw gc) gb t 0, r.payload⟩

/-- Resolves CSCAT: table at ga, record at gb (R207). -/
def resolveScat (rs : List Nat) (s : State) (a : At) (ga gb gc : Nat) : ResE :=
  match andThen (checkAddr [0, 1] 0 0 ga ga) (checkAddr [2] 64 64 gb gb) with
  | .error c => .error c
  | .ok _ =>
    match readLayout s a gb (ctlDraw gc) with
    | .error c => .error c
    | .ok r =>
      match andThen (checkBase rs (ctlDraw gc) r.tag) (andThen (checkOffs r.lay)
          (andThen (checkCtl gc (bits r.tag 60 4) (auxAligned gc 2))
            (andThen (checkRows s r.lay (ctlLen gc)) (checkIndex a r.lay (ctlAux gc))))) with
      | .error c => .error c
      | .ok _ =>
        let (lo, len) := regionCover s r.lay.fmt r.lay
        .ok ⟨.cscat r.lay (placeOf a.c ga) (ctlLen gc) ⟨2, a.c, ctlAux gc⟩ (ctlSq gc) (ctlRes gc),
          if ctlDraw gc then [⟨r.tag, lo, len⟩] else [], r.payload⟩

/-! ## Pages (R208, R209) -/

/-- The page that a PGIN or PGOUT names: its leaf, the leaf's address, its size code; 0x37 unless ga is its first byte. -/
def pageOp (s : State) (a : At) (ga frame : Nat) : Except Cause (Nat × Nat × Nat) :=
  match checkAddr [0] 0 0 ga ga with
  | .error c => .error c
  | .ok _ => match walk s (ctxOf s a) ga with
    | .error c => .error c
    | .ok (e, pa, psz) => if ga % pageSize psz ≠ 0 then .error ⟨0x37, ga, frame, psz⟩ else .ok (e, pa, psz)

/-- Resolves PGIN (R208, R409). -/
def resolvePgin (s : State) (a : At) (ga gb _gc : Nat) : ResE :=
  match pageOp s a ga gb with
  | .error c => .error c
  | .ok (_, _, psz) =>
    if 0x9000000000 < gb + pageSize psz then .error ⟨0x34, ga, gb, psz⟩
    else if gb % pageSize psz ≠ 0 then .error ⟨0x20, gb, pageSize psz, 0⟩
    else .ok ⟨.pgin ga gb, [], []⟩

/-- Resolves PGOUT (R208, R409). -/
def resolvePgout (s : State) (a : At) (ga gb _gc : Nat) : ResE :=
  match pageOp s a ga gb with
  | .error c => .error c
  | .ok (_, _, psz) =>
    if !farMapped s gb psz || decide (2 ^ 44 < gb + pageSize psz) then .error ⟨0x35, ga, gb, psz⟩
    else if gb % pageSize psz ≠ 0 then .error ⟨0x20, gb, pageSize psz, 0⟩
    else .ok ⟨.pgout ga gb, [], []⟩

/-- Starts the page copy of a PGIN whose page is far (R65, R208), or gives the cause that refuses it (R419). -/
def startPgin (s : State) (a : At) (va frame : Nat) (seq : Nat) : Except Cause State :=
  match walk s (ctxOf s a) va with
  | .error c => .error c
  | .ok (e, pte, psz) =>
    if !bit e 4 then .ok s
    else if !farMapped s (pteAddr e) psz then .error ⟨0x31, va, pteAddr e, psz⟩
    else if !pageInOf s pte && !portUp s (pteAddr e) then .error ⟨0x33, va, frame, psz⟩
    else .ok (startPageIn s a.c ⟨ctxOf s a, va, psz, pte, frame, false, a.x, seq, false, false⟩)

/-- A PGIN whose port is down leaves the contents of its frame not defined (R419). -/
def loseFrame (s : State) (c : Cause) : State :=
  if c.code = 0x33 then { s with mem := s.mem.free c.a1 (pageSize c.a2) s.freeCount, freeCount := s.freeCount + 1 } else s

/-- A PGIN whose copy has started, or whose page was not far. -/
def pginStarted (e : Entry) : Entry := { e with prog := { e.prog with row := 1 } }

/-- PGIN's page copy goes to the page path at issue, ahead of every LQ entry (R208). -/
def launchPgin (s : State) (a : At) : State :=
  match (queueAt s a.c 0).getLast? with
  | some e => (match e.op with
    | .pgin va frame => (match startPgin s a va frame e.seq with
      | .ok s => setQueue s a.c 0 ((queueAt s a.c 0).dropLast ++ [pginStarted e])
      | .error c =>
        let s := setQueue (loseFrame s c) a.c 0 ((queueAt s a.c 0).dropLast ++ [{ e with fault := some c }])
        onStrand s a (fun t => { t with pendTrap := some (firstTrap t (engTrap e c)) }))
    | _ => s)
  | none => s

/-! ## WRSIG (R210, R409) -/

/-- The device a global address lies on: the rank of a page with fab = 1, none for the own device or no translation. -/
def deviceOf (s : State) (ctx va : Nat) : Option Nat :=
  match walk s ctx va with
  | .ok (e, _, _) => if bit e 7 then some (bits e 44 14) else none
  | .error _ => none

/-- Resolves WRSIG and WRSIG.add (R210). -/
def resolveWrsig (add : Bool) (s : State) (a : At) (ga gb gc : Nat) : ResE :=
  match andThen (checkAddr [0] 0 0 ga ga)
      (andThen (checkAddr [0, 1, 2] 0 0 (opAddr true gb) (opAddr true gb)) (checkAddr [2] 32 32 gc gc)) with
  | .error c => .error c
  | .ok _ =>
    match readStruct s a gc 32 32 with
    | .error c => .error c
    | .ok (_, raw) =>
      let flag := bits raw 0 64
      let len := bits raw 128 32
      let draw := bit raw 160
      let sq := bits raw 161 2
      let sp := bits gb 60 4
      let sa := opAddr draw gb
      match andThen (checkBad 0x11 gc (badIf (2 ^ 24 < len) 128 ++ badIf (draw && !handleSpace sp) 160
              ++ badIf (sq = 3 || (sq ≠ 0 && !pondSpace sp)) 161 ++ badZero raw 163 93))
          (andThen (checkAddr [0] 0 len ga ga)
            (andThen (checkAddr [0, 1, 2] 0 len sa sa)
              (andThen (checkAddr [0] 8 8 flag flag)
                (chk (deviceOf s (ctxOf s a) ga == deviceOf s (ctxOf s a) flag) 0x3C flag
                  ((deviceOf s (ctxOf s a) flag).getD s.dev.rank) 0)))) with
      | .error c => .error c
      | .ok _ =>
        let src := placeOf a.c sa
        .ok ⟨.wrsig (placeOf a.c ga) src len flag (bits raw 64 64) sq add, drawOf draw gb src len, leBytes 64 raw⟩

/-! ## LKOP (R212, R409) -/

/-- Resolves LKOP of function fn (R212, R213). -/
def resolveLkop (fn : Nat) (_ : State) (a : At) (ga gb gc : Nat) : ResE :=
  let n := bits gc 0 32
  let draw := bit gc 34
  let flt := bit gc 35
  let w := bit gc 36
  let bscal := bit gc 38
  let es := if w then 8 else 4
  let sa := opAddr draw gb
  match andThen (checkAddr [1] (if fn = 11 then 8 else es) (if fn = 11 then 8 else n * es) ga ga)
      (andThen (if bscal then .ok () else checkAddr [1, 2, 3] es (n * es) sa sa)
        (checkBad 0x12 gc (badZero gc 32 2 ++ badIf (draw && (bscal || !handleSpace (bits gb 60 4))) 34
          ++ badIf (flt && (fn ≠ 11 || w)) 35 ++ badIf (w && 8 ≤ fn && fn ≤ 10) 36 ++ badIf (bscal && fn = 11) 38
          ++ badZero gc 40 24))) with
  | .error c => .error c
  | .ok _ =>
    let src := placeOf a.c sa
    .ok ⟨.lkop fn (placeOf a.c ga) src (if bscal then some (if w then gb else gb % 2 ^ 32) else none) n w (bit gc 37) flt
      (bit gc 39), drawOf draw gb src (n * es), []⟩

/-- After an attempt to issue PGIN: where it pushed its entry, the page copy starts (R208). -/
def pginIssued (s s' : State) : State :=
  match runner s with
  | some a => if occupancy s a 0 < occupancy s' a 0 then launchPgin s' a else s'
  | none => s'

/-! ## The words -/

/-- CIN.g (R202). -/
def execCinG (t : BitVec 2) (g : BitVec 2) (x : BitVec 5) (y : BitVec 5) (z : BitVec 5) (s : State) :
    Host.Outcome State Fault Refusal :=
  engIssue 0 (wE 32 ((0 : BitVec 1) ++ t) ((0 : BitVec 1) ++ g) x y z 0) t.toNat g.toNat x y z
    (resolveFlat [1, 2, 3] [0]) s

/-- CIN.l (R202). -/
def execCinL (t : BitVec 2) (g : BitVec 2) (x : BitVec 5) (y : BitVec 5) (z : BitVec 5) (s : State) :
    Host.Outcome State Fault Refusal :=
  engIssue 0 (wE 32 ((0 : BitVec 1) ++ t) ((0 : BitVec 1) ++ g) x y z 1) t.toNat g.toNat x y z
    (resolveFlat [2, 3] [1]) s

/-- CIN.p (R202). -/
def execCinP (t : BitVec 2) (g : BitVec 2) (x : BitVec 5) (y : BitVec 5) (z : BitVec 5) (s : State) :
    Host.Outcome State Fault Refusal :=
  engIssue 0 (wE 32 ((0 : BitVec 1) ++ t) ((0 : BitVec 1) ++ g) x y z 2) t.toNat g.toNat x y z
    (resolveFlat [1, 2] [3]) s

/-- CIN.mc (R203). -/
def execCinMc (t : BitVec 2) (g : BitVec 2) (x : BitVec 5) (y : BitVec 5) (z : BitVec 5) (s : State) :
    Host.Outcome State Fault Refusal :=
  engIssue 0 (wE 32 ((0 : BitVec 1) ++ t) ((0 : BitVec 1) ++ g) x y z 3) t.toNat g.toNat x y z
    (resolveMc (wE 32 ((0 : BitVec 1) ++ t) ((0 : BitVec 1) ++ g) x y z 3)) s

/-- COUT.g (R202). -/
def execCoutG (t : BitVec 2) (g : BitVec 1) (x : BitVec 5) (y : BitVec 5) (z : BitVec 5) (s : State) :
    Host.Outcome State Fault Refusal :=
  engIssue 3 (wE 33 ((0 : BitVec 1) ++ t) ((0 : BitVec 2) ++ g) x y z 0) t.toNat g.toNat x y z
    (resolveFlat [0] [1, 2, 4]) s

/-- COUT.l (R202). -/
def execCoutL (t : BitVec 2) (g : BitVec 1) (x : BitVec 5) (y : BitVec 5) (z : BitVec 5) (s : State) :
    Host.Outcome State Fault Refusal :=
  engIssue 3 (wE 33 ((0 : BitVec 1) ++ t) ((0 : BitVec 2) ++ g) x y z 1) t.toNat g.toNat x y z
    (resolveFlat [1] [2, 4]) s

/-- COUT.p (R202). -/
def execCoutP (t : BitVec 2) (g : BitVec 1) (x : BitVec 5) (y : BitVec 5) (z : BitVec 5) (s : State) :
    Host.Outcome State Fault Refusal :=
  engIssue 3 (wE 33 ((0 : BitVec 1) ++ t) ((0 : BitVec 2) ++ g) x y z 2) t.toNat g.toNat x y z
    (resolveFlat [3] [2, 4]) s

/-- COUT.sel (R204). -/
def execCoutSel (t : BitVec 2) (g : BitVec 1) (x : BitVec 5) (y : BitVec 5) (z : BitVec 5) (s : State) :
    Host.Outcome State Fault Refusal :=
  engIssue 3 (wE 33 ((0 : BitVec 1) ++ t) ((0 : BitVec 2) ++ g) x y z 3) t.toNat g.toNat x y z (resolveSel) s

/-- CPX.pp (R206). -/
def execCpxPp (t : BitVec 2) (g : BitVec 2) (x : BitVec 5) (y : BitVec 5) (z : BitVec 5) (s : State) :
    Host.Outcome State Fault Refusal :=
  engIssue 0 (wE 34 ((0 : BitVec 1) ++ t) ((0 : BitVec 1) ++ g) x y z 0) t.toNat g.toNat x y z
    (resolveCpx [2, 3] [2, 3]) s

/-- CPX.pl (R206). -/
def execCpxPl (t : BitVec 2) (g : BitVec 2) (x : BitVec 5) (y : BitVec 5) (z : BitVec 5) (s : State) :
    Host.Outcome State Fault Refusal :=
  engIssue 0 (wE 34 ((0 : BitVec 1) ++ t) ((0 : BitVec 1) ++ g) x y z 1) t.toNat g.toNat x y z
    (resolveCpx [1] [2, 3]) s

/-- CPX.lp (R206). -/
def execCpxLp (t : BitVec 2) (g : BitVec 2) (x : BitVec 5) (y : BitVec 5) (z : BitVec 5) (s : State) :
    Host.Outcome State Fault Refusal :=
  engIssue 0 (wE 34 ((0 : BitVec 1) ++ t) ((0 : BitVec 1) ++ g) x y z 2) t.toNat g.toNat x y z
    (resolveCpx [2, 3] [1]) s

/-- CPX.ll (R206). -/
def execCpxLl (t : BitVec 2) (g : BitVec 2) (x : BitVec 5) (y : BitVec 5) (z : BitVec 5) (s : State) :
    Host.Outcome State Fault Refusal :=
  engIssue 0 (wE 34 ((0 : BitVec 1) ++ t) ((0 : BitVec 1) ++ g) x y z 3) t.toNat g.toNat x y z (resolveCpx [1] [1]) s

/-- CGATH.p (R207). -/
def execCgathP (t : BitVec 2) (g : BitVec 2) (x : BitVec 5) (y : BitVec 5) (z : BitVec 5) (s : State) :
    Host.Outcome State Fault Refusal :=
  engIssue 0 (wE 35 ((0 : BitVec 1) ++ t) ((0 : BitVec 1) ++ g) x y z 0) t.toNat g.toNat x y z (resolveGath [2, 3]) s

/-- CGATH.l (R207). -/
def execCgathL (t : BitVec 2) (g : BitVec 2) (x : BitVec 5) (y : BitVec 5) (z : BitVec 5) (s : State) :
    Host.Outcome State Fault Refusal :=
  engIssue 0 (wE 35 ((0 : BitVec 1) ++ t) ((0 : BitVec 1) ++ g) x y z 1) t.toNat g.toNat x y z (resolveGath [1]) s

/-- CSCAT.p (R207). -/
def execCscatP (t : BitVec 2) (g : BitVec 1) (x : BitVec 5) (y : BitVec 5) (z : BitVec 5) (s : State) :
    Host.Outcome State Fault Refusal :=
  engIssue 3 (wE 35 ((0 : BitVec 1) ++ t) ((0 : BitVec 2) ++ g) x y z 2) t.toNat g.toNat x y z (resolveScat [2, 3]) s

/-- CSCAT.l (R207). -/
def execCscatL (t : BitVec 2) (g : BitVec 1) (x : BitVec 5) (y : BitVec 5) (z : BitVec 5) (s : State) :
    Host.Outcome State Fault Refusal :=
  engIssue 3 (wE 35 ((0 : BitVec 1) ++ t) ((0 : BitVec 2) ++ g) x y z 3) t.toNat g.toNat x y z (resolveScat [1]) s

/-- PGIN (R208). -/
def execPgin (t : BitVec 2) (g : BitVec 2) (x : BitVec 5) (y : BitVec 5) (s : State) :
    Host.Outcome State Fault Refusal :=
  match engIssue 0 (wE 36 ((0 : BitVec 1) ++ t) ((0 : BitVec 1) ++ g) x y 0 0) t.toNat g.toNat x y 0 resolvePgin s with
  | .next s' => .next (pginIssued s s')
  | o => o

/-- PGOUT (R209). -/
def execPgout (t : BitVec 2) (g : BitVec 1) (x : BitVec 5) (y : BitVec 5) (s : State) :
    Host.Outcome State Fault Refusal :=
  engIssue 3 (wE 36 ((0 : BitVec 1) ++ t) ((0 : BitVec 2) ++ g) x y 0 1) t.toNat g.toNat x y 0 (resolvePgout) s

/-- WRSIG (R211). -/
def execWrsig (t : BitVec 2) (g : BitVec 1) (x : BitVec 5) (y : BitVec 5) (z : BitVec 5) (s : State) :
    Host.Outcome State Fault Refusal :=
  engIssue 3 (wE 37 ((0 : BitVec 1) ++ t) ((0 : BitVec 2) ++ g) x y z 0) t.toNat g.toNat x y z (resolveWrsig false) s

/-- WRSIG.add (R211). -/
def execWrsigAdd (t : BitVec 2) (g : BitVec 1) (x : BitVec 5) (y : BitVec 5) (z : BitVec 5) (s : State) :
    Host.Outcome State Fault Refusal :=
  engIssue 3 (wE 37 ((0 : BitVec 1) ++ t) ((0 : BitVec 2) ++ g) x y z 1) t.toNat g.toNat x y z (resolveWrsig true) s

/-- LKOP.fill (R213). -/
def execLkopFill (t : BitVec 2) (g : BitVec 2) (x : BitVec 5) (y : BitVec 5) (z : BitVec 5) (s : State) :
    Host.Outcome State Fault Refusal :=
  engIssue 0 (wE 39 ((0 : BitVec 1) ++ t) ((0 : BitVec 1) ++ g) x y z 0) t.toNat g.toNat x y z (resolveLkop 0) s

/-- LKOP.add (R213). -/
def execLkopAdd (t : BitVec 2) (g : BitVec 2) (x : BitVec 5) (y : BitVec 5) (z : BitVec 5) (s : State) :
    Host.Outcome State Fault Refusal :=
  engIssue 0 (wE 39 ((0 : BitVec 1) ++ t) ((0 : BitVec 1) ++ g) x y z 1) t.toNat g.toNat x y z (resolveLkop 1) s

/-- LKOP.sadd (R213). -/
def execLkopSadd (t : BitVec 2) (g : BitVec 2) (x : BitVec 5) (y : BitVec 5) (z : BitVec 5) (s : State) :
    Host.Outcome State Fault Refusal :=
  engIssue 0 (wE 39 ((0 : BitVec 1) ++ t) ((0 : BitVec 1) ++ g) x y z 2) t.toNat g.toNat x y z (resolveLkop 2) s

/-- LKOP.min (R213). -/
def execLkopMin (t : BitVec 2) (g : BitVec 2) (x : BitVec 5) (y : BitVec 5) (z : BitVec 5) (s : State) :
    Host.Outcome State Fault Refusal :=
  engIssue 0 (wE 39 ((0 : BitVec 1) ++ t) ((0 : BitVec 1) ++ g) x y z 3) t.toNat g.toNat x y z (resolveLkop 3) s

/-- LKOP.max (R213). -/
def execLkopMax (t : BitVec 2) (g : BitVec 2) (x : BitVec 5) (y : BitVec 5) (z : BitVec 5) (s : State) :
    Host.Outcome State Fault Refusal :=
  engIssue 0 (wE 39 ((0 : BitVec 1) ++ t) ((0 : BitVec 1) ++ g) x y z 4) t.toNat g.toNat x y z (resolveLkop 4) s

/-- LKOP.and (R213). -/
def execLkopAnd (t : BitVec 2) (g : BitVec 2) (x : BitVec 5) (y : BitVec 5) (z : BitVec 5) (s : State) :
    Host.Outcome State Fault Refusal :=
  engIssue 0 (wE 39 ((0 : BitVec 1) ++ t) ((0 : BitVec 1) ++ g) x y z 5) t.toNat g.toNat x y z (resolveLkop 5) s

/-- LKOP.or (R213). -/
def execLkopOr (t : BitVec 2) (g : BitVec 2) (x : BitVec 5) (y : BitVec 5) (z : BitVec 5) (s : State) :
    Host.Outcome State Fault Refusal :=
  engIssue 0 (wE 39 ((0 : BitVec 1) ++ t) ((0 : BitVec 1) ++ g) x y z 6) t.toNat g.toNat x y z (resolveLkop 6) s

/-- LKOP.xor (R213). -/
def execLkopXor (t : BitVec 2) (g : BitVec 2) (x : BitVec 5) (y : BitVec 5) (z : BitVec 5) (s : State) :
    Host.Outcome State Fault Refusal :=
  engIssue 0 (wE 39 ((0 : BitVec 1) ++ t) ((0 : BitVec 1) ++ g) x y z 7) t.toNat g.toNat x y z (resolveLkop 7) s

/-- LKOP.fadd (R213). -/
def execLkopFadd (t : BitVec 2) (g : BitVec 2) (x : BitVec 5) (y : BitVec 5) (z : BitVec 5) (s : State) :
    Host.Outcome State Fault Refusal :=
  engIssue 0 (wE 39 ((0 : BitVec 1) ++ t) ((0 : BitVec 1) ++ g) x y z 8) t.toNat g.toNat x y z (resolveLkop 8) s

/-- LKOP.fmax (R213). -/
def execLkopFmax (t : BitVec 2) (g : BitVec 2) (x : BitVec 5) (y : BitVec 5) (z : BitVec 5) (s : State) :
    Host.Outcome State Fault Refusal :=
  engIssue 0 (wE 39 ((0 : BitVec 1) ++ t) ((0 : BitVec 1) ++ g) x y z 9) t.toNat g.toNat x y z (resolveLkop 9) s

/-- LKOP.fmul (R213). -/
def execLkopFmul (t : BitVec 2) (g : BitVec 2) (x : BitVec 5) (y : BitVec 5) (z : BitVec 5) (s : State) :
    Host.Outcome State Fault Refusal :=
  engIssue 0 (wE 39 ((0 : BitVec 1) ++ t) ((0 : BitVec 1) ++ g) x y z 10) t.toNat g.toNat x y z (resolveLkop 10) s

/-- LKOP.rsum (R213). -/
def execLkopRsum (t : BitVec 2) (g : BitVec 2) (x : BitVec 5) (y : BitVec 5) (z : BitVec 5) (s : State) :
    Host.Outcome State Fault Refusal :=
  engIssue 0 (wE 39 ((0 : BitVec 1) ++ t) ((0 : BitVec 1) ++ g) x y z 11) t.toNat g.toNat x y z (resolveLkop 11) s

end Sys2Proof.Machine
end

