-- ==== Sys2Proof/Machine/Crypto.lean ====
section
/-! DEFINITION. The two published algorithms that R13, R361 and R362 name: SHA-384 (FIPS 180-4) and ECDSA on P-384 (FIPS 186-4),
over the natural numbers (log 13). -/

namespace Sys2Proof.Machine

/-- The number that bytes give, most significant first. -/
def beNat (v : List Byte) : Nat := v.foldl (fun n b => 256 * n + b.toNat) 0

/-- A number as n bytes, most significant first. -/
def beBytes (n v : Nat) : List Byte := (List.range n).map (fun i => BitVec.ofNat 8 (v / 256 ^ (n - 1 - i)))

/-! ## SHA-384 -/

/-- The primes below 410, of which there are 80. -/
def shaPrimes : List Nat :=
  (List.range 410).filter (fun n => decide (2 ≤ n) && (List.range 21).all (fun d => decide (d < 2) || decide (n ≤ d) || n % d != 0))

/-- The largest number x whose power x ^ k is at most v, from x on, of bits 2 ^ (i − 1) down to 1. -/
def rootFrom (k v : Nat) : Nat → Nat → Nat
  | 0, x => x
  | i + 1, x => rootFrom k v i (if (x + 2 ^ i) ^ k ≤ v then x + 2 ^ i else x)

/-- The first 64 bits of the fractional part of the k-th root of p, for p below 2 ^ 16. -/
def rootBits (k p : Nat) : Nat := rootFrom k (p * 2 ^ (64 * k)) 72 0 % 2 ^ 64

/-- The round constants of SHA-384: from the cube roots of the first eighty primes. -/
def shaK : List Nat := shaPrimes.map (rootBits 3)

/-- The initial hash value of SHA-384: from the square roots of the ninth to the sixteenth prime. -/
def shaInit : List Nat := ((shaPrimes.drop 8).take 8).map (rootBits 2)

/-- A 64-bit word rotated right. -/
def rotr64 (x n : Nat) : Nat := (x >>> n ||| x <<< (64 - n)) % 2 ^ 64

/-- One word of the message schedule from the sixteen before it. -/
def shaNext (w : List Nat) : Nat :=
  let x := w.getD 1 0
  let y := w.getD 14 0
  let s0 := rotr64 x 1 ^^^ rotr64 x 8 ^^^ x >>> 7
  let s1 := rotr64 y 19 ^^^ rotr64 y 61 ^^^ y >>> 6
  (w.getD 0 0 + s0 + w.getD 9 0 + s1) % 2 ^ 64

/-- One round on the working variables a to h with its constant and its word of the schedule. -/
def shaRound (h : List Nat) (k w : Nat) : List Nat :=
  match h with
  | [a, b, c, d, e, f, g, x] =>
    let s1 := rotr64 e 14 ^^^ rotr64 e 18 ^^^ rotr64 e 41
    let ch := (e &&& f) ^^^ ((2 ^ 64 - 1 - e) &&& g)
    let t1 := x + s1 + ch + k + w
    let s0 := rotr64 a 28 ^^^ rotr64 a 34 ^^^ rotr64 a 39
    let maj := (a &&& b) ^^^ (a &&& c) ^^^ (b &&& c)
    [(t1 + s0 + maj) % 2 ^ 64, a, b, c, (d + t1) % 2 ^ 64, e, f, g]
  | l => l

/-- The rounds of a block: the constants still to come, the sixteen words that come next, the working variables. -/
def shaRounds : List Nat → List Nat → List Nat → List Nat
  | [], _, h => h
  | k :: ks, w, h => shaRounds ks (w.drop 1 ++ [shaNext w]) (shaRound h k (w.getD 0 0))

/-- The hash value after one more block of 128 bytes. -/
def shaBlock (h : List Nat) (v : List Byte) : List Nat :=
  let w := (List.range 16).map (fun i => beNat ((v.drop (8 * i)).take 8))
  (h.zip (shaRounds shaK w h)).map (fun p => (p.1 + p.2) % 2 ^ 64)

/-- A message padded to whole blocks. -/
def shaPad (v : List Byte) : List Byte :=
  v ++ [0x80] ++ List.replicate ((239 - v.length % 128) % 128) 0 ++ beBytes 16 (8 * v.length)

/-- The hash value after n blocks. -/
def shaBlocks : Nat → List Byte → List Nat → List Nat
  | 0, _, h => h
  | n + 1, v, h => shaBlocks n (v.drop 128) (shaBlock h (v.take 128))

/-- SHA-384 of a message: 48 bytes. -/
def sha384 (v : List Byte) : List Byte :=
  let m := shaPad v
  ((shaBlocks (m.length / 128) m shaInit).take 6).flatMap (beBytes 8)

/-! ## ECDSA on P-384 -/

/-- The field of P-384. -/
def pField : Nat := 2 ^ 384 - 2 ^ 128 - 2 ^ 96 + 2 ^ 32 - 1

/-- The order of the base point. -/
def pOrder : Nat := 0xffffffffffffffffffffffffffffffffffffffffffffffffc7634d81f4372ddf581a0db248b0a77aecec196accc52973

/-- The coefficient b of the curve y² = x³ − 3x + b. -/
def pCoeff : Nat := 0xb3312fa7e23ee7e4988e056be3f82d19181d9c6efe8141120314088f5013875ac656398d8a2ed19d2a85c8edd3ec2aef

/-- The base point. -/
def pBase : Nat × Nat :=
  (0xaa87ca22be8b05378eb1c71ef320ad746e1d3b628ba79b9859f741e082542a385502f25dbf55296c3a545e3872760ab7,
   0x3617de4a96262c6f5d9e98bf9292dc29f8f41dbd289a147ce9da3113b5f0b8c00a60b1ce1d7e819d7a431d7c90ea0e5f)

/-- A power modulo m; the fuel bounds the bits of the exponent. -/
def powMod (m : Nat) : Nat → Nat → Nat → Nat
  | 0, _, _ => 1
  | f + 1, b, e =>
    if e = 0 then 1
    else
      let h := powMod m f (b * b % m) (e / 2)
      if e % 2 = 1 then b * h % m else h

/-- The inverse modulo a prime of 384 bits. -/
def invMod (m x : Nat) : Nat := powMod m 384 (x % m) (m - 2)

/-- x − y modulo m, for y below m. -/
def subMod (m x y : Nat) : Nat := (x + m - y) % m

/-- The third point of a line of slope l through two points. -/
def thirdPoint (l : Nat) (u v : Nat × Nat) : Nat × Nat :=
  let x := subMod pField (subMod pField (l * l) u.1) v.1
  (x, subMod pField (l * subMod pField u.1 x) u.2)

/-- The sum of two points; none is the point at infinity. -/
def pointAdd : Option (Nat × Nat) → Option (Nat × Nat) → Option (Nat × Nat)
  | none, q => q
  | p, none => p
  | some u, some v =>
    if u.1 = v.1 then
      if (u.2 + v.2) % pField = 0 then none
      else some (thirdPoint (subMod pField (3 * u.1 * u.1) 3 * invMod pField (2 * u.2)) u v)
    else some (thirdPoint (subMod pField v.2 u.2 * invMod pField (subMod pField v.1 u.1)) u v)

/-- A multiple of a point; the fuel bounds the bits of the factor. -/
def pointMul : Nat → Nat → Option (Nat × Nat) → Option (Nat × Nat)
  | 0, _, _ => none
  | f + 1, k, p => if k = 0 then none else pointAdd (if k % 2 = 1 then p else none) (pointMul f (k / 2) (pointAdd p p))

/-- Is a point on the curve, its coordinates in the field? -/
def onCurve (q : Nat × Nat) : Bool :=
  decide (q.1 < pField) && decide (q.2 < pField) &&
    q.2 * q.2 % pField == (q.1 ^ 3 + pCoeff + (pField - 3) * q.1) % pField

/-- ECDSA verification of a digest: the key as its coordinates x and y, the signature as r and s, each 48 bytes (R361). -/
def ecdsaVerify (digest key sig : List Byte) : Bool :=
  let q := (beNat (key.take 48), beNat (key.drop 48))
  let r := beNat (sig.take 48)
  let s := beNat (sig.drop 48)
  let w := invMod pOrder s
  key.length == 96 && sig.length == 96 && onCurve q && r != 0 && s != 0 && decide (r < pOrder) && decide (s < pOrder) &&
    (match pointAdd (pointMul 384 (beNat digest * w % pOrder) (some pBase)) (pointMul 384 (r * w % pOrder) (some q)) with
    | some x => x.1 % pOrder == r
    | none => false)

/-- The ECDSA signature of a digest under a private key d with the secret number k: r and s, each 48 bytes (R362). -/
def ecdsaSign (d k : Nat) (digest : List Byte) : List Byte :=
  let r := match pointMul 384 k (some pBase) with | some x => x.1 % pOrder | none => 0
  beBytes 48 r ++ beBytes 48 (invMod pOrder k * (beNat digest + r * d) % pOrder)

end Sys2Proof.Machine
end

