-- ==== Sys2Proof/Machine/CopyUnit.lean ====
section
/-! DEFINITION. The copy unit at work (R198, R201 to R215): what a sector reads and writes, translation and holds (R62, R416),
remote accesses (R319), consuming reads (R50), the sectors of every form. -/

namespace Sys2Proof.Machine

/-! ## Translation of a sector (R60 to R62, R416) -/

/-- Where a piece of a sector lies. -/
inductive Spot where
  | near (p : Place)
  | phys (loc va : Nat)
  | fab (va lidx : Nat)
  deriving DecidableEq, Repr

/-- Why a sector cannot be performed now. -/
inductive Block where
  | cause (c : Cause)
  | far (va base psz : Nat) (wr : Bool)
  | miss (va : Nat)
  deriving DecidableEq, Repr

/-- A global range cut at 64 KiB boundaries: (address, length). -/
def pageCuts (va n : Nat) : List (Nat × Nat) :=
  if n = 0 then []
  else (List.range ((va + n - 1) / 65536 - va / 65536 + 1)).map (fun i =>
    let lo := if i = 0 then va else (va / 65536 + i) * 65536
    let hi := Nat.min (va + n) ((va / 65536 + i + 1) * 65536)
    (lo, hi - lo))

/-- Where one piece lies. -/
def spotOf (s : State) (c ctx va : Nat) (wr : Bool) : Except Block (State × Spot) :=
  match tlbLook s c ctx va with
  | none => .error (.miss va)
  | some (s, t) => match leafCheck s t va wr false with
    | .error c => .error (.cause c)
    | .ok (.ok loc) => .ok (s, .phys loc va)
    | .ok (.far base psz _) => .error (.far va base psz wr)
    | .ok (.fab l) =>
      if (clusterAt s (c / 48)).master.isNone then .error (.cause ⟨0xBD, s.dev.rank, 0, 0⟩) else .ok (s, .fab va l)

/-- Where the pieces of ranges lie, in order, cut at pages. -/
def spots (c ctx : Nat) (wr : Bool) : List (Place × Nat) → State → List (Spot × Nat) →
    Except Block (State × List (Spot × Nat))
  | [], s, acc => .ok (s, acc)
  | (p, n) :: t, s, acc =>
    if p.space ≠ 0 then spots c ctx wr t s (acc ++ [(.near p, n)])
    else
      match (pageCuts p.off n).foldl (fun (r : Except Block (State × List (Spot × Nat))) v =>
          match r with
          | .error b => .error b
          | .ok (s, l) => match spotOf s c ctx v.1 wr with
            | .error b => .error b
            | .ok (s, x) => .ok (s, l ++ [(x, v.2)])) (.ok (s, acc)) with
      | .error b => .error b
      | .ok (s, acc) => spots c ctx wr t s acc

/-- An entry's miss joins the walks of its die, and the entry waits (R61). -/
def joinWalk (s : State) (c : Nat) (e : Entry) (va : Nat) : State :=
  holdEntry (joinMiss s c (jobAt s e.job).ctx va (8 * c + e.q)) c e .other

/-- An entry is held at a far page (R62): an event, or for an autopage job the page-in of R65, whose refusal makes the held
entry faulting (R419). -/
def holdFar (s : State) (c : Nat) (e : Entry) (va base psz : Nat) (wr : Bool) : State :=
  let s := restoreTaken s e
  let e := { forgetTaken e with wait := .far base }
  let s := putEntry s c e
  if (jobAt s e.job).autopage then
    match autoPage s c (jobAt s e.job).ctx e.sx va with
    | .ok s => s
    | .error cause => signalTrap (putEntry s c { e with fault := some cause }) ⟨c, e.sx⟩ (engTrap e cause)
  else postEvent s ⟨c, e.sx⟩ ⟨1, base, e.seq, e.q, psz, wr⟩

/-- The entry meets a block. -/
def blockEntry (s : State) (c : Nat) (e : Entry) : Block → State
  | .cause x => failEntry s c e x
  | .far va base psz wr => holdFar s c e va base psz wr
  | .miss va => joinWalk s c e va

/-! ## Remote accesses of an entry (R319 to R322, R456) -/

/-- A range of remote memory in units of one flit, at most 240 bytes (R315): (address, size). -/
def remoteUnits (va n : Nat) : List (Nat × Nat) :=
  (List.range (ceilDiv n 240)).map (fun i => (va + 240 * i, Nat.min 240 (n - 240 * i)))

/-- Key under which a remote unit's data stands in an entry's progress. -/
def remoteKey (va : Nat) : Nat := 2 ^ 52 + va

/-- Key in an entry's progress of the number of flits that the sector has sent. -/
def sentMark : Nat := 2 ^ 53

/-- Sends one remote access of an entry: a read, kind 0, which it waits for, or a write (R319, R321). -/
def remoteSend (s : State) (c : Nat) (e : Entry) (va lidx kind size v : Nat) : State :=
  let s := sendFlit s (c / 48) lidx (if kind = 0 then 0 else size)
  let q := if kind = 0 then e.q else 4 + e.q
  { s with
    remotes := s.remotes ++ [⟨s.sbNext, c, e.sx, (jobAt s e.job).ctx, va, lidx, kind, size, v, 0, e.seq, some q, s.cycle, e.word.toNat, e.pc⟩]
    sbNext := s.sbNext + 1 }

/-- Sends reads as far as the replay stores take them (R316). -/
def sendReads (c : Nat) (e : Entry) (s : State) (l : List (Nat × Nat × Nat)) : State :=
  l.foldl (fun s u => if flitRoom s c u.2.1 then remoteSend s c e u.1 u.2.1 0 u.2.2 0 else s) s

/-- Sends the flits of writes in order as far as the replay stores take them: the state and how many have left (R316). -/
def sendWrites (c : Nat) (e : Entry) : List (Nat × Nat × List Byte) → State → State × Nat
  | [], s => (s, 0)
  | (va, l, v) :: t, s =>
    if flitRoom s c l then
      let (s, n) := sendWrites c e t (remoteSend s c e va l 1 v.length (leNat v))
      (s, n + 1)
    else (s, 0)

/-- The flits that the sector in progress has sent. -/
def sentCount (e : Entry) : Nat := match e.prog.taken.find? (fun g => g.1 == sentMark) with | some g => leNat g.2 | none => 0

/-- The sector in progress has sent n flits. -/
def markSent (n : Nat) (e : Entry) : Entry :=
  { e with prog := { e.prog with taken := e.prog.taken.filter (fun g => g.1 != sentMark) ++ [(sentMark, leBytes 8 n)] } }

/-- Does the entry wait for remote reads? -/
def remoteBusy (s : State) (c : Nat) (e : Entry) : Bool :=
  s.remotes.any (fun r => r.core == c && r.sx == e.sx && r.queue == some e.q)

/-- The remote units of pieces. -/
def fabUnits (l : List (Spot × Nat)) : List (Nat × Nat × Nat) :=
  l.flatMap (fun x => match x.1 with
    | .fab va lidx => (remoteUnits va x.2).map (fun u => (u.1, lidx, u.2))
    | _ => [])

/-! ## Bytes of a sector -/

/-- The bytes of one piece: those its granules gave, those a remote device gave, else memory. -/
def spotRead (s : State) (key : Nat) (taken : List (Nat × List Byte)) (x : Spot × Nat) : List Byte :=
  match x.1 with
  | .near p => peekBytes s key taken p x.2
  | .phys loc _ => loadN s loc x.2
  | .fab va _ => (remoteUnits va x.2).flatMap (fun u =>
      match taken.find? (fun g => g.1 == remoteKey u.1) with | some g => g.2 | none => List.replicate u.2 0)

/-- The first poisoned unit that pieces read (R423). -/
def spotPoison (s : State) (key : Nat) (l : List (Spot × Nat)) : Option Cause :=
  if s.poison.isEmpty then none
  else l.findSome? (fun x => match x.1 with
    | .near p => (placePoison s key p x.2).map (poisonCause key p x.2)
    | .phys loc va => (poisoned s loc x.2).map (poisonGlobal va loc)
    | .fab .. => none)

/-- Cuts data by the lengths of pieces. -/
def cutData : List (Spot × Nat) → List Byte → List (Spot × List Byte)
  | [], _ => []
  | (x, n) :: t, v => (x, v.take n) :: cutData t (v.drop n)

/-- Writes the local pieces of a sector. -/
def spotWrite (s : State) (key : Nat) (x : Spot × List Byte) : State :=
  match x.1 with
  | .near p => putPlace s key p x.2
  | .phys loc _ => storeN s loc x.2
  | .fab .. => s

/-! ## A sector (R198, R201) -/

/-- A sector: what it reads and writes, what the instruction reads and writes after it, its bytes from those read (with
the progress they leave). -/
structure Sector where
  reads : List (Place × Nat)
  laterReads : List (Place × Nat)
  writes : List (Place × Nat)
  laterWrites : List (Place × Nat)
  data : State → List Byte → Prog → Except Cause (List Byte × Prog)

/-- The source qualifier of an entry's operation (R200). -/
def EngOp.srcSq : EngOp → Nat
  | .flat _ _ _ sq _ => sq
  | .mcast _ _ _ _ sq _ => sq
  | .csel _ _ _ sq _ _ => sq
  | .cpx _ _ sq _ => sq
  | .cgath _ _ _ _ _ _ => 0
  | .cscat _ _ _ _ sq _ => sq
  | .wrsig _ _ _ _ _ sq _ => sq
  | _ => 0

/-- Is it a multicast read (R53)? -/
def EngOp.isMcast : EngOp → Bool
  | .mcast .. => true
  | _ => false

/-- The consuming reads of a sector (R50). A CIN.mc leaves its source's full-empty bits unchanged whatever its qualifier: it only
waits for them (R53, log 72). -/
def sectorTake (s : State) (e : Entry) (sec : Sector) : Took :=
  let r : Took := ⟨s, e.prog.taken, e.prog.cleared, none⟩
  let sq := e.op.srcSq
  if sq = 0 then r else takeGranules (sq == 2 && !e.op.isMcast) sec.laterReads (granuleSet sec.reads) r

/-- The pond granules that the space and core of a reader name (R426): its own operand's space where that is cluster pond. -/
def granuleName (sp core off : Nat) : Nat := tagged ⟨if sp = 3 then 3 else 2, core, off⟩

/-- The space in which an entry names its pond source. -/
def sourceSpace (l : List (Place × Nat)) : Nat := match l.find? (fun r => r.1.inPond) with | some r => r.1.space | none => 2

/-- The writes of a sector whose bytes are known: local pieces and the granules they fill (R50). -/
def sectorWrite (s : State) (key : Nat) (sec : Sector) (dst : List (Spot × Nat)) (v : List Byte) : State :=
  fillWritten ((cutData dst v).foldl (fun s x => spotWrite s key x) s) sec.writes sec.laterWrites

/-- The flits of a sector's remote writes: address, local index, and at most 240 bytes (R315). -/
def writeFlits (dst : List (Spot × Nat)) (v : List Byte) : List (Nat × Nat × List Byte) :=
  (cutData dst v).flatMap (fun x => match x.1 with
    | .fab va lidx => (chunks 240 x.2).zipIdx.map (fun b => (va + 240 * b.2, lidx, b.1))
    | _ => [])

/-- Performs the sector of the head entry, or what stands in its way: a far page, a miss, an empty granule, poison, a remote
read under way, a full replay store. Its remote writes complete locally (R321). next is the progress after it. -/
def runSector (s : State) (c : Nat) (e : Entry) (sec : Sector) (next : Entry → Entry) : State :=
  let ctx := (jobAt s e.job).ctx
  let key := keyOf s ctx
  match spots c ctx false sec.reads s [] with
  | .error b => blockEntry s c e b
  | .ok (s, src) =>
    match spots c ctx true sec.writes s [] with
    | .error b => blockEntry s c e b
    | .ok (s, dst) =>
      let r := sectorTake s e sec
      let e := { e with prog := { e.prog with taken := r.got, cleared := r.clr } }
      match r.empty with
      | some (core, off) => holdEntry r.s c e (.granule (granuleName (sourceSpace sec.reads) core off))
      | none =>
        let s := r.s
        match spotPoison s key src with
        | some cause => failEntry s c e cause
        | none =>
          if remoteBusy s c e then holdEntry s c e .other
          else
            let want := (fabUnits src).filter (fun u => !e.prog.taken.any (fun g => g.1 == remoteKey u.1))
            if !want.isEmpty then holdEntry (sendReads c e s want) c e .other
            else
              match sec.data s (src.flatMap (spotRead s key e.prog.taken)) e.prog with
              | .error cause => failEntry s c e cause
              | .ok (v, p) =>
                let flits := (writeFlits dst v).drop (sentCount e)
                let (s, n) := sendWrites c e flits s
                if n < flits.length then holdEntry s c (markSent (sentCount e + n) e) .other
                else
                  let e := next { e with prog := { p with taken := [], cleared := [] }, wait := .none, waited := 0 }
                  putEntry (sectorWrite s key sec dst v) c e

/-- Moves bytes unchanged. -/
def sameBytes : State → List Byte → Prog → Except Cause (List Byte × Prog) := fun _ v p => .ok (v, p)

/-- The bytes of an overlapping forward copy (R201): where the destination starts d bytes above the source, the first d
bytes repeat. -/
def overlapBytes (src dst : Place) (v : List Byte) : List Byte :=
  let same := (src.space == dst.space || (src.inPond && dst.inPond)) && src.core == dst.core
  if same ∧ src.off < dst.off ∧ dst.off < src.off + v.length then
    let d := dst.off - src.off
    (List.range v.length).map (fun i => v.getD (i % d) 0)
  else v

/-- The next sector's progress, and the end after the last. -/
def stepProg (last : Bool) (bytes : Nat) (result : Entry → Option Nat) (e : Entry) : Entry :=
  let e := { e with prog := { e.prog with sect := e.prog.sect + 1, bytes := e.prog.bytes + bytes } }
  if last then e.finish (result e) else e

/-! ## Flat transfers (R201, R202) -/

/-- Sector k of a flat transfer that moves bytes unchanged. -/
def flatSector (dst : Option Place) (src : Place) (len k : Nat) : Sector :=
  let lo := 512 * k
  let n := Nat.min 512 (len - lo)
  let out (p : Place) (o m : Nat) : List (Place × Nat) := [(p.plus o, m)]
  { reads := out src lo n
    laterReads := out src (lo + n) (len - lo - n)
    writes := match dst with | some d => out d lo n | none => []
    laterWrites := match dst with | some d => out d (lo + n) (len - lo - n) | none => []
    data := fun _ v p => .ok ((match dst with | some d => overlapBytes src d v | none => []), p) }

/-- Is k the last sector of len bytes? -/
def lastSector (len k : Nat) : Bool := decide (len ≤ 512 * (k + 1))

/-- The places and lengths of unit j of a format at a base: an element, or a block's data and its scale. -/
def unitPlaces (s : State) (fmt : Nat) (base : Place) (j : Nat) : List (Place × Nat) :=
  if fmtBlock fmt then
    let (d, sc) := blockPlace s fmt base j
    [(d, blockBytes fmt), (sc, 2)]
  else [(base.plus (j * fmtBytes fmt), fmtBytes fmt)]

/-- The values of a unit's bytes. -/
def unitValues (fmt : Nat) (at_ : Nat) (v : List Byte) : Except Cause (List FV) :=
  if fmtBlock fmt then
    let data := v.take (blockBytes fmt)
    let sc := decodeFmt 4 (leNat (v.drop (blockBytes fmt)))
    (List.range (fmtL fmt)).foldl (fun (r : Except Cause (List FV)) i =>
      match r with
      | .error c => .error c
      | .ok l => match blockInt fmt data i with
        | .error b => .error ⟨0x70, at_, b, 242⟩
        | .ok q => .ok (l ++ [blockValue q sc])) (.ok [])
  else .ok [decodeFmt fmt (leNat v)]

/-- The values of whole units laid one after another. -/
def unitsValues (fmt at_ : Nat) (v : List Byte) : Except Cause (List FV) :=
  (chunks (if fmtBlock fmt then blockBytes fmt + 2 else fmtBytes fmt) v).foldl (fun (r : Except Cause (List FV)) c =>
    match r with
    | .error e => .error e
    | .ok l => match unitValues fmt at_ c with | .error e => .error e | .ok m => .ok (l ++ m)) (.ok [])

/-- The bytes of values encoded as whole units of a format, the last block filled up (R49, R79). -/
def unitsBytes (fmt : Nat) (l : List FV) : List Byte :=
  if fmtBlock fmt then
    (chunks (fmtL fmt) l).flatMap (fun c =>
      let (d, sc) := encodeBlock fmt ((List.range (fmtL fmt)).map (fun i => (c.drop i).head?))
      d ++ leBytes 2 sc)
  else l.flatMap (fun v => leBytes (fmtBytes fmt) (encodeFmt fmt 0 v))

/-- The element at which sector k - 1 of a converting transfer ends and sector k begins (R201): elements of n, source units of
(ls, us), destination units of ld elements. It is the first point at or after source byte 512 × k at which units of both
sides end, so a sector may hold no element. -/
def convEnd (n ls us ld k : Nat) : Nat :=
  let step := Nat.lcm ls ld
  Nat.min n (ceilDiv (ceilDiv (512 * k) us * ls) step * step)

/-- Sector k of a converting flat transfer (R201), and whether it is the last. -/
def convSector (s : State) (dst src : Place) (len f g k : Nat) : Sector × Bool :=
  let (ls, us) := fmtUnit s f src
  let (ld, _) := fmtUnit s g dst
  let n := len / us * ls
  let e0 := convEnd n ls us ld k
  let e1 := convEnd n ls us ld (k + 1)
  let units (fmt : Nat) (p : Place) (l a b : Nat) : List (Place × Nat) :=
    (List.range (ceilDiv b l - a / l)).flatMap (fun j => unitPlaces s fmt p (a / l + j))
  ({ reads := units f src ls e0 e1
     laterReads := units f src ls e1 n
     writes := units g dst ld e0 e1
     laterWrites := units g dst ld e1 n
     data := fun _ v p => match unitsValues f (tagged src) v with
       | .error c => .error c
       | .ok l => .ok (unitsBytes g l, p) }, decide (n ≤ e1))

/-! ## The select pass (R204) -/

/-- Inserts a candidate: value descending, equal values by lower index, the 8 largest kept. -/
def selInsert (x i : Nat) (c : List (Nat × Nat)) : List (Nat × Nat) :=
  let gt (a b : Nat) : Bool := fcompare 2 (fun o => decide (o > 0)) a b
  ((c.takeWhile (fun p => !gt x p.1)) ++ [(x, i)] ++ (c.dropWhile (fun p => !gt x p.1))).take 8

/-- One element of a select pass (R204). -/
def selStep (p : Prog) (x i : Nat) : Prog :=
  let v := decodeFmt 2 x
  if v = .nan ∨ v = .inf true then p
  else
    let m := decodeFmt 2 p.selM
    let sum (t : FV) : Nat := encodeFmt 2 0 (.sum [decodeFmt 2 p.selS, t])
    let p := { p with selC := selInsert x i p.selC }
    if fcompare 2 (fun o => decide (o > 0)) x p.selM then
      let k := decodeFmt 2 (expk (encodeFmt 2 0 (.sum [m, v.neg])))
      { p with selS := encodeFmt 2 0 (.sum [(decodeFmt 2 p.selS).mul k, .fin (.int 1) (some false)]), selM := x }
    else if v = .inf false then { p with selS := sum (.fin (.int 1) (some false)) }
    else { p with selS := sum (decodeFmt 2 (expk (encodeFmt 2 0 (.sum [v, m.neg])))) }

/-- A select pass over FP32 bytes, the first element's index given. -/
def selBytesPass (p : Prog) (first : Nat) (v : List Byte) : Prog :=
  ((chunks 4 v).zipIdx).foldl (fun p x => selStep p (leNat x.1) (first + x.2)) p

/-- The next source bytes of a COUT.sel (R204): prog.count counts the elements passed, prog.acc keeps the bytes of an element
that the sector has cut. -/
def selPass (p : Prog) (v : List Byte) : Prog :=
  let all := p.acc.map (BitVec.ofNat 8) ++ v
  let n := all.length / 4
  { selBytesPass p p.count (all.take (4 * n)) with count := p.count + n, acc := (all.drop (4 * n)).map (·.toNat) }

/-- The source bytes of a sector of COUT.sel in address order: of blocks whose scales lie elsewhere in the bank (R47), the data
bytes alone. -/
def selLinear (s : State) (fmt : Nat) (src : Place) (v : List Byte) : List Byte :=
  if fmtBlock fmt && blockUnit s fmt src == blockBytes fmt then (chunks (blockBytes fmt + 2) v).flatMap (·.take (blockBytes fmt)) else v

/-! ## CPX (R206) -/

/-- A CPX's dimensions and formats while it runs: (source dims, destination dims, source format, destination format). -/
def cpxDims (s : State) (key : Nat) (d r : Layout) : List Dim × List Dim × Nat × Nat :=
  (r.dims s key, d.dims s key, sideFmt r.fmt d.fmt, sideFmt d.fmt r.fmt)

/-- Do CPX's elements move unchanged: a side of format 0, or equal formats? -/
def cpxRaw (d r : Layout) : Bool := d.fmt == 0 || r.fmt == 0 || d.fmt == r.fmt

/-- The groups in which CPX writes: single elements, or the blocks of each run of dimension 0 of the destination. Gives the
groups a run has. -/
def runGroups (fmt : Nat) (dims : List Dim) : Nat :=
  match dims with
  | [] => 1
  | (e, _, o) :: _ => if fmtBlock fmt then (o + e - 1) / fmtL fmt - o / fmtL fmt + 1 else e

/-- The visits of group g: first visit and number (dimension 0 runs innermost). -/
def groupVisits (fmt : Nat) (dims : List Dim) (g : Nat) : Nat × Nat :=
  match dims with
  | [] => (0, 1)
  | (e, _, o) :: _ =>
    if fmtBlock fmt then
      let bpr := runGroups fmt dims
      let run := g / bpr
      let b := o / fmtL fmt + g % bpr
      let lo := Nat.max o (b * fmtL fmt)
      let hi := Nat.min (o + e) ((b + 1) * fmtL fmt)
      (run * e + (lo - o), hi - lo)
    else (g, 1)

/-- Groups of a whole CPX. -/
def groupCount (fmt : Nat) (dims : List Dim) : Nat :=
  match dims with
  | [] => 1
  | (_, _, _) :: t => if dimCount dims = 0 then 0 else runGroups fmt dims * dimCount t

/-- The first group of sector k of a CPX: the first that begins at or after destination byte 512 × k (R206). -/
def sectorGroup (s : State) (fmt : Nat) (base : Place) (k : Nat) : Nat :=
  ceilDiv (512 * k) (if fmtBlock fmt then blockUnit s fmt base else fmtBytes fmt)

/-- The bytes of a group on one side: the elements visited, or whole blocks with their scales. -/
def groupPlaces (s : State) (fmt : Nat) (base : Place) (dims : List Dim) (v n : Nat) : List (Place × Nat) :=
  if fmtBlock fmt then
    let bs := (List.range n).foldl (fun (acc : List Int) i =>
      let b := dimElem dims (v + i) / fmtL fmt
      if acc.contains b then acc else acc ++ [b]) []
    bs.flatMap (fun b => elemBytes s fmt base (b * fmtL fmt))
  else (List.range n).flatMap (fun i => elemBytes s fmt base (dimElem dims (v + i)))

/-- The value of visit v from the source bytes of its group: block by block, or element by element. -/
def groupValues (sf : Nat) (base : Place) (dims : List Dim) (v n : Nat) (bytes : List Byte) : Except Cause (List FV) :=
  if fmtBlock sf then
    let bs := (List.range n).foldl (fun (acc : List Int) i =>
      let b := dimElem dims (v + i) / fmtL sf
      if acc.contains b then acc else acc ++ [b]) []
    let blocks := chunks (blockBytes sf + 2) bytes
    (List.range n).foldl (fun (r : Except Cause (List FV)) i =>
      match r with
      | .error c => .error c
      | .ok l =>
        let el := dimElem dims (v + i)
        let blk := blocks.getD (bs.findIdx (· == el / fmtL sf)) []
        match blockInt sf (blk.take (blockBytes sf)) (el % fmtL sf).toNat with
        | .error x => .error ⟨0x70, tagged (base.shift (el / fmtL sf * (blockBytes sf + 2))), x, 242⟩
        | .ok q => .ok (l ++ [blockValue q (decodeFmt 4 (leNat (blk.drop (blockBytes sf))))])) (.ok [])
  else .ok ((chunks (fmtBytes sf) bytes).map (fun b => decodeFmt sf (leNat b)))

/-- The bytes of one destination group: unchanged where the formats agree and the group is a whole source block or an
element, else converted (R49, R79). -/
def groupBytes (d r : Layout) (sd dd : List Dim) (sf df v n : Nat) (bytes : List Byte) : Except Cause (List Byte) :=
  let whole := !fmtBlock df || (d.fmt == 0 || r.fmt == 0) ||
    (n == fmtL df && dimElem sd v % fmtL df == 0 && dimElem dd v % fmtL df == 0)
  if cpxRaw d r && whole then .ok bytes
  else match groupValues sf r.base sd v n bytes with
    | .error c => .error c
    | .ok l =>
      if fmtBlock df then
        let first := (dimElem dd v % fmtL df).toNat
        let (data, sc) := encodeBlock df ((List.range (fmtL df)).map (fun i => if i < first then none else (l.drop (i - first)).head?))
        .ok (data ++ leBytes 2 sc)
      else .ok (l.flatMap (fun x => leBytes (fmtBytes df) (encodeFmt df 0 x)))

/-- Bytes of a group's source. -/
def groupLen (l : List (Place × Nat)) : Nat := l.foldl (fun n p => n + p.2) 0

/-- The data of several groups in order. -/
def groupsData (s : State) (d r : Layout) (sd dd : List Dim) (sf df : Nat) :
    List (Nat × Nat) → List Byte → Except Cause (List Byte)
  | [], _ => .ok []
  | (v, n) :: t, bytes =>
    let k := groupLen (groupPlaces s sf r.base sd v n)
    match groupBytes d r sd dd sf df v n (bytes.take k) with
    | .error c => .error c
    | .ok b => (match groupsData s d r sd dd sf df t (bytes.drop k) with
      | .error c => .error c
      | .ok l => .ok (b ++ l))

/-- Sector k of a CPX, whether it is the last, the bytes it writes and the element it ends at. -/
def cpxSector (s : State) (key : Nat) (d r : Layout) (k : Nat) : Sector × Bool × Nat × Nat :=
  let (sd, dd, sf, df) := cpxDims s key d r
  let all := groupCount df dd
  let lo := sectorGroup s df d.base k
  let hi := Nat.min all (sectorGroup s df d.base (k + 1))
  let gs (a b : Nat) : List (Nat × Nat) := (List.range (b - a)).map (fun i => groupVisits df dd (a + i))
  let places (fmt : Nat) (p : Place) (dims : List Dim) (l : List (Nat × Nat)) : List (Place × Nat) :=
    l.flatMap (fun g => groupPlaces s fmt p dims g.1 g.2)
  let now := gs lo hi
  let later := gs hi all
  let last := now.getLastD (0, 0)
  ({ reads := places sf r.base sd now
     laterReads := places sf r.base sd later
     writes := places df d.base dd now
     laterWrites := places df d.base dd later
     data := fun s v p => match groupsData s d r sd dd sf df now v with
       | .error c => .error c
       | .ok b => .ok (b, p) },
   decide (all ≤ hi), groupLen (places df d.base dd now), last.1 + last.2)

/-! ## CGATH and CSCAT (R207) -/

/-- Rows of a record as it runs. -/
def rowCount (s : State) (key : Nat) (r : Layout) : Nat :=
  if r.ragged && r.rdim = 0 then r.segs * dimCount (((List.range r.rank).filter (2 ≤ ·)).map (fun k => (nth r.ext k, (0 : Int), 0)))
  else dimCount ((r.dims s key).drop 1)

/-- First element and elements of row j. -/
def rowSpan (s : State) (key : Nat) (r : Layout) (j : Nat) : Int × Nat :=
  let dims := r.dims s key
  if r.ragged && r.rdim = 0 then
    let seg := j % r.segs
    let o := offsAt s key r seg
    ((o : Int) * r.stride.getD 0 0 + dimElem (dims.drop 1) (j / r.segs), offsAt s key r (seg + 1) - o)
  else (dimElem (dims.drop 1) j, nth r.ext 0)

/-- Bytes [lo, hi) of row j of a record, as places. -/
def rowPlaces (s : State) (key : Nat) (r : Layout) (j lo hi : Nat) : List (Place × Nat) :=
  let (e0, n) := rowSpan s key r j
  let es := fmtBytes r.fmt
  let st := r.stride.getD 0 0
  if st = 1 then if lo < Nat.min hi (n * es) then [((r.base.shift (e0 * es)).plus lo, Nat.min hi (n * es) - lo)] else []
  else (List.range n).filterMap (fun i =>
    let a := Nat.max lo (i * es)
    let b := Nat.min hi ((i + 1) * es)
    if a < b then some ((r.base.shift ((e0 + i * st) * es)).plus (a - i * es), b - a) else none)

/-- The places of the rows after row j. -/
def laterRows (s : State) (key : Nat) (r : Layout) (j : Nat) : List (Place × Nat) :=
  (List.range (rowCount s key r - (j + 1))).flatMap (fun i => rowPlaces s key r (j + 1 + i) 0 8192)

/-- The sizes of the rows of a record with rdim = 0 (R207, R409). -/
def checkSegRows (s : State) (key : Nat) (r : Layout) (stride : Nat) : Except Cause Unit :=
  if !(r.ragged && r.rdim = 0) then .ok ()
  else
    let lim := Nat.min 8192 stride
    match (List.range r.segs).find? (fun j => decide (lim < (offsAt s key r (j + 1) - offsAt s key r j) * fmtBytes r.fmt)) with
    | some j => .error ⟨0x18, (offsAt s key r (j + 1) - offsAt s key r j) * fmtBytes r.fmt, lim, 0⟩
    | none => .ok ()

/-- Bytes [o, o + m) of a table's row i, checked against the table's space and tile. -/
def tableRow (s : State) (a : At) (e : Entry) (t : Place) (stride i o m : Nat) : Except Cause (Place × Nat) :=
  let p := t.plus (i * stride)
  if spaceLimit t.space < p.off + o + m then .error ⟨0x22, tagged p, 0, 0⟩
  else match e.draws.find? (fun d => d.len == 0 && decide (hSpace d.h = t.space)) with
    | some d =>
      (match drawCheck s a.c (jobAt s e.job).ctx e.job d.h (p.off + o) m with
      | .error c => if c.code = 0x4F then .error c else .ok (p.plus o, m)
      | .ok _ => .ok (p.plus o, m))
    | none => .ok (p.plus o, m)

/-- The sector in progress of a CGATH or CSCAT: prog.row is the row, prog.acc its sector within the row.
DESIGN CHOICE: a row of length 0 counts as a row moved in the result, and a CSCAT with sq set waits for, and takes, the record
granules of a skipped row too; R207 says neither (log 76). DESIGN CHOICE: a row of length 0 and a skipped row of a CSCAT each take a
sector number, which R207 leaves open (log 94). -/
def rowSector (s : State) (c : Nat) (e : Entry) (gather : Bool) (r : Layout) (t : Place) (stride : Nat) (ix : Place) : State :=
  let key := keyOfEntry s e
  let j := e.prog.row
  let size := (rowSpan s key r j).2 * fmtBytes r.fmt
  let k := nth e.prog.acc 0
  let o := 512 * k
  let m := Nat.min 512 (size - o)
  let iw := ix.plus (4 * j)
  let i := leNat (fetchPlace s key iw 4)
  let skip := i == 0xFFFFFFFF
  match placePoison s key iw 4 with
  | some u => failEntry s c e (poisonCause key iw 4 u)
  | none =>
    match (if skip then .ok (t, 0) else tableRow s ⟨c, e.sx⟩ e t stride i o m) with
    | .error cause => failEntry s c e cause
    | .ok row =>
      let rec_ := rowPlaces s key r j o (o + m)
      let later := rowPlaces s key r j (o + m) size ++ laterRows s key r j
      let endRow := decide (size ≤ o + 512)
      let last := endRow && decide (rowCount s key r ≤ j + 1)
      let next (e : Entry) : Entry :=
        let p := { e.prog with
          sect := e.prog.sect + 1, acc := [if endRow then 0 else k + 1], row := if endRow then j + 1 else j
          count := if endRow && !skip then e.prog.count + 1 else e.prog.count }
        let e := { e with prog := p }
        let res := match e.op with | .cgath _ _ _ _ _ b => b | .cscat _ _ _ _ _ b => b | _ => false
        if last then e.finish (resIf res p.count) else e
      let sec : Sector :=
        if gather then
          { reads := if skip || m = 0 then [] else [row], laterReads := [], writes := rec_, laterWrites := later
            data := fun _ v p => .ok (if skip then List.replicate m 0 else v, p) }
        else
          { reads := rec_, laterReads := later, writes := if skip || m = 0 then [] else [row], laterWrites := []
            data := fun _ v p => .ok (if skip then [] else v, p) }
      runSector s c e sec next

/-! ## LKOP (R213) -/

/-- One element of an LKOP (R213). -/
def lkopFn (fn w : Nat) (sg : Bool) (d v : Nat) : Nat :=
  let v := v % 2 ^ w
  match fn with
  | 0 => v
  | 1 => (d + v) % 2 ^ w
  | 2 => Nat.min (d + v) (2 ^ w - 1)
  | 3 => if sg then (if sgn v w < sgn d w then v else d) else Nat.min d v
  | 4 => if sg then (if sgn d w < sgn v w then v else d) else Nat.max d v
  | 5 => Nat.land d v
  | 6 => Nat.lor d v
  | 7 => Nat.xor d v
  | 8 => faddBits 2 0 d v
  | 9 => fminmax 2 true d v
  | _ => fmulBits 2 0 d v

/-- The pairwise sums of R88's tree over FP32 patterns. -/
def pairSums : List Nat → List Nat
  | a :: b :: t => faddBits 2 0 a b :: pairSums t
  | l => l

/-- The tree of R88 over FP32 patterns: pairs of neighbours, then pairs of those sums, an unpaired one passing up. -/
def treeSum : Nat → List Nat → Nat
  | 0, l => l.getD 0 0
  | f + 1, l => match l with
    | [] => 0
    | [x] => x
    | l => treeSum f (pairSums l)

/-- The sum of `.rsum` (R213). -/
def rsumOf (w : Nat) (sg flt : Bool) (l : List Nat) : Nat :=
  if flt then canonical 2 (treeSum l.length l)
  else wrap (satInt sg 64 (l.foldl (fun (a : Int) v => a + (if sg then sgn v w else (v : Int))) 0)) 64

/-- The sector of an LKOP that begins at element prog.row. -/
def lkopSector (s : State) (c : Nat) (e : Entry) (fn : Nat) (dst src : Place) (scal : Option Nat) (n w : Nat)
    (sg flt res : Bool) : State :=
  let es := w / 8
  let lo := e.prog.row
  let m := Nat.min (512 / es) (n - lo)
  let last := decide (n ≤ lo + m)
  let out : List (Place × Nat) := [(dst.plus (lo * es), m * es)]
  let inp : List (Place × Nat) := if scal.isSome then [] else [(src.plus (lo * es), m * es)]
  let nums (v : List Byte) : List Nat := (chunks es v).map leNat
  let next (e : Entry) : Entry :=
    let p := { e.prog with sect := e.prog.sect + 1, row := lo + m }
    let e := { e with prog := p }
    if last then e.finish (resIf res (if fn = 11 then rsumOf w sg flt p.acc else n)) else e
  let sec : Sector :=
    if fn = 11 then
      { reads := inp, laterReads := [], writes := if last then [(dst, 8)] else [], laterWrites := []
        data := fun _ v p =>
          let acc := p.acc ++ nums v
          .ok (if last then leBytes 8 (rsumOf w sg flt acc) else [], { p with acc := acc }) }
    else
      { reads := out ++ inp, laterReads := [], writes := out, laterWrites := []
        data := fun _ v p =>
          let d := nums (v.take (m * es))
          let x := match scal with | some k => List.replicate m k | none => nums (v.drop (m * es))
          .ok ((d.zip x).flatMap (fun q => leBytes es (lkopFn fn w sg q.1 q.2)), p) }
  runSector s c e sec next

/-! ## PGOUT (R66, R209, R419) -/

/-- Step 1 of a PGOUT: the entry becomes far, the page's TLB entries go. A page already far copies nothing. prog.acc keeps the
old entry, its address, its size code. -/
def pgoutBegin (s : State) (c : Nat) (e : Entry) (va frame : Nat) : State :=
  match walk s (jobAt s e.job).ctx va with
  | .error cause => failEntry s c e cause
  | .ok (leaf, pte, psz) =>
    if bit leaf 4 then putEntry s c (e.finish none)
    else
      let new := leaf - place (bits leaf 8 36) 8 36 + place (frame / 256) 8 36 + 2 ^ 4
      let s := invalidatePage (storeNat s pte 8 new) pte
      putEntry s c { e with prog := { e.prog with acc := [leaf, pte, psz] } }

/-- A PGOUT whose write fails goes back to its old entry (R419). -/
def pgoutFail (s : State) (c : Nat) (e : Entry) (va frame : Nat) : State :=
  let leaf := nth e.prog.acc 0
  let pte := nth e.prog.acc 1
  let psz := nth e.prog.acc 2
  let s := invalidatePage (storeNat s pte 8 leaf) pte
  let e := { e with prog := .start }
  let s := failEntry s c e ⟨0x33, va, portOf frame, psz⟩
  runPages (releasePage s pte) c

/-- One sector of a PGOUT's copy. -/
def pgoutSector (s : State) (c : Nat) (e : Entry) (va frame : Nat) : State :=
  if e.prog.acc.isEmpty then pgoutBegin s c e va frame
  else if !portUp s frame then pgoutFail s c e va frame
  else
    let old := pteAddr (nth e.prog.acc 0)
    let psz := nth e.prog.acc 2
    let o := 512 * e.prog.sect
    match poisoned s (old + o) 512 with
    | some u => failEntry s c e (poisonGlobal (va + o) (old + o) u)
    | none =>
      let s := { s with mem := s.mem.copy (old + o) (frame + o) 512 }
      let e := { e with prog := { e.prog with sect := e.prog.sect + 1 } }
      putEntry s c (if pageSize psz ≤ o + 512 then e.finish none else e)

/-! ## A step of a side (R198) -/

/-- Does the entry touch no memory (R38)? DESIGN CHOICE: a CIN.mc with an empty mask is one of them (log 95). -/
def noWork (s : State) (e : Entry) : Bool :=
  let key := keyOfEntry s e
  match e.op with
  | .flat _ _ len _ _ => len == 0
  | .mcast m _ _ len _ _ => len == 0 || m == 0
  | .csel _ _ len _ _ _ => len == 0
  | .cpx d r _ _ => dimCount (d.dims s key) == 0 || dimCount (r.dims s key) == 0
  | .cgath r .. => rowCount s key r == 0 || dimCount (r.dims s key) == 0
  | .cscat r .. => rowCount s key r == 0 || dimCount (r.dims s key) == 0
  | .lkop fn _ _ _ n _ _ _ _ => n == 0 && fn != 11
  | _ => false

/-- The result of an entry that touched no memory. -/
def noWorkResult (e : Entry) : Option Nat :=
  match e.op with
  | .flat _ _ _ _ res => resIf res 0
  | .mcast _ _ _ _ _ res => resIf res 0
  | .csel _ _ _ _ aux res => resIf res (tagged aux)
  | .cpx _ _ _ res => resIf res 0
  | .cgath _ _ _ _ _ res => resIf res 0
  | .cscat _ _ _ _ _ res => resIf res 0
  | .lkop _ _ _ _ _ _ _ _ res => resIf res 0
  | _ => none

/-- Segments of equal lengths on the two sides of a ragged CPX (R206, R409), and equal extents. -/
def cpxSegs (s : State) (key : Nat) (d r : Layout) : Except Cause Unit :=
  if !d.ragged then .ok ()
  else
    let len (l : Layout) (j : Nat) : Nat := offsAt s key l (j + 1) - offsAt s key l j
    match (List.range d.segs).find? (fun j => len d j != len r j) with
    | some j => .error ⟨0x7B, len d j, len r j, 0⟩
    | none => .ok ()

/-- The whole-region checks of a ragged record by its engine (R406). -/
def checkRagged (s : State) (key : Nat) (r : Layout) (fmt : Nat) (banks : Bool) : Except Cause Unit :=
  if !r.ragged then .ok ()
  else andThen (ragCheck s key r) (checkRegion s fmt r.base (tagged r.base) (r.dims s key) banks)

/-- The whole-region checks of a ragged CPX side by its engine (R206, R406). -/
def checkRaggedSide (s : State) (key : Nat) (r : Layout) (other : Nat) : Except Cause Unit :=
  if !r.ragged then .ok () else andThen (ragCheck s key r) (checkSideDims s r (tagged r.base) other (r.dims s key))

/-- A drawn ragged operand lies within its tile (R94, R430). -/
def checkDrawn (s : State) (c : Nat) (e : Entry) (key : Nat) (r : Layout) (fmt : Nat) : Except Cause Unit :=
  if !r.ragged then .ok ()
  else match e.draws.find? (fun d => d.len == 0 && hAddr d.h == tagged ⟨if r.base.space = 3 then 3 else r.base.space, r.base.core, r.base.off⟩) with
    | none => .ok ()
    | some d =>
      let dims := r.dims s key
      if dimCount dims = 0 then .ok ()
      else
        let (lo, hi) := dimRange dims
        let sp := elemSpan s fmt r.base lo hi
        match drawCheck s c (jobAt s e.job).ctx e.job d.h (r.base.shift sp.1).off (sp.2 - sp.1).toNat with
        | .error x => if x.code = 0x4F then .error x else .ok ()
        | .ok _ => .ok ()

/-- The register of every bank that ranges of bytes touch, where it holds blocks, keeps R46, R47 and R69 (R407). -/
def checkBankValues (s : State) (p : Place) (l : List (Int × Int)) : Except Cause Unit :=
  if !p.inPond then .ok ()
  else match ((banksOf p l).map (fun b => bankWord s p.core (b * 65536))).find? (fun w =>
      fmtBlock (bits w 0 8) && !pfValid (coreAt s p.core).regs w) with
    | some w => .error ⟨0x19, w, 0, 0⟩
    | none => .ok ()

/-- The registers of the banks that the elements of a record or a region lie in (R407). -/
def checkDecoded (s : State) (fmt : Nat) (p : Place) (dims : List Dim) : Except Cause Unit :=
  checkBankValues s p (touched s fmt p dims)

/-- The registers of the banks of a converting flat transfer of len bytes (R201, R407). -/
def checkConvBanks (s : State) (d : Option Place) (p : Place) (len : Nat) : Except Cause Unit :=
  match d with
  | some d =>
    if (flatConv s d p).isSome && len != 0 then
      andThen (checkBankValues s p [(0, len)]) (checkBankValues s d [(0, flatOut s d p len)])
    else .ok ()
  | none => .ok ()

/-- The index vector of a CGATH or CSCAT on a ragged record ends in pond (R406), once the offsets tell its length. -/
def checkIndexEnd (s : State) (key : Nat) (r : Layout) (ix : Place) : Except Cause Unit :=
  if !r.ragged || dimCount (r.dims s key) == 0 then .ok () else chk (ix.off + 4 * rowCount s key r ≤ 2 ^ 20) 0x22 (tagged ix) 0 0

/-- What the copy unit checks when an entry begins (R399, R406, R407, R409). -/
def copyCheck (s : State) (c : Nat) (e : Entry) : Except Cause Unit :=
  let key := keyOfEntry s e
  match e.op with
  | .flat d p len _ _ => checkConvBanks s (some d) p len
  | .csel d p len _ _ _ => checkConvBanks s d p len
  | .cpx d r _ _ =>
    andThen (checkRaggedSide s key d r.fmt) (andThen (checkRaggedSide s key r d.fmt)
      (andThen (checkDecoded s (sideFmt d.fmt r.fmt) d.base (d.dims s key))
        (andThen (checkDecoded s (sideFmt r.fmt d.fmt) r.base (r.dims s key))
          (andThen (checkDrawn s c e key r (sideFmt r.fmt d.fmt)) (cpxSegs s key d r)))))
  | .cgath r _ stride ix _ _ =>
    andThen (checkRagged s key r r.fmt false) (andThen (checkSegRows s key r stride) (checkIndexEnd s key r ix))
  | .cscat r _ stride ix _ _ =>
    andThen (checkRagged s key r r.fmt false)
      (andThen (checkDrawn s c e key r r.fmt) (andThen (checkSegRows s key r stride) (checkIndexEnd s key r ix)))
  | _ => .ok ()

/-- The next sector of the head entry of LQ or SQ, which has begun and has work left.
DESIGN CHOICE: a CIN.mc between pond banks of different nonzero formats delivers the source's bytes unchanged: R49 speaks of every
copy-unit transfer between pond banks, R202 keeps CIN.mc out of R201 and R203 (R53) names the bytes delivered (log 72). -/
def copyStep (s : State) (c : Nat) (e : Entry) : State :=
  let key := keyOfEntry s e
  let k := e.prog.sect
  match (if k = 0 ∧ e.prog.row = 0 then copyCheck s c e else .ok ()) with
  | .error cause => failEntry s c e cause
  | .ok _ =>
    match e.op with
    | .flat d p len _ res =>
      let fin (e : Entry) : Option Nat := resIf res e.prog.bytes
      (match flatConv s d p with
      | none => runSector s c e (flatSector (some d) p len k) (stepProg (lastSector len k) (Nat.min 512 (len - 512 * k)) fin)
      | some (f, g) =>
        let (sec, last) := convSector s d p len f g k
        runSector s c e sec (stepProg last (groupLen sec.writes) fin))
    | .mcast m p aux len _ res =>
      let lo := 512 * k
      let n := Nat.min 512 (len - lo)
      let at_ (o : Nat) (n : Nat) : List (Place × Nat) := (setBits 48 m).map (fun i => (⟨2, c / 48 * 48 + i, aux + o⟩, n))
      let base := flatSector none p len k
      let sec : Sector := { base with
        writes := at_ lo n, laterWrites := at_ (lo + n) (len - lo - n)
        data := fun _ v p => .ok ((setBits 48 m).flatMap (fun _ => v), p) }
      runSector s c e sec (stepProg (lastSector len k) (n * (setBits 48 m).length) (fun e => resIf res e.prog.bytes))
    | .csel d p len _ aux res =>
      let fin (_ : Entry) : Option Nat := resIf res (tagged aux)
      let pass (fmt : Nat) (base : Sector) : Sector := { base with
        data := fun s v pr => match base.data s v pr with
          | .error x => .error x
          | .ok (b, pr) => .ok (b, selPass pr (selLinear s fmt p v)) }
      (match d.bind (fun q => flatConv s q p), d with
      | some (f, g), some q =>
        let (sec, last) := convSector s q p len f g k
        runSector s c e (pass f sec) (stepProg last (groupLen sec.writes) fin)
      | _, _ =>
        runSector s c e (pass 0 (flatSector d p len k)) (stepProg (lastSector len k) (Nat.min 512 (len - 512 * k)) fin))
    | .cpx d r _ res =>
      let (sec, last, n, row) := cpxSector s key d r k
      let next (e : Entry) : Entry := stepProg last n (fun e => resIf res e.prog.bytes) { e with prog := { e.prog with row := row } }
      runSector s c e sec next
    | .cgath r t stride ix _ _ => rowSector s c e true r t stride ix
    | .cscat r t stride ix _ _ => rowSector s c e false r t stride ix
    | .lkop fn d p scal n w64 sg flt res => lkopSector s c e fn d p scal n (if w64 then 64 else 32) sg flt res
    | .wrsig d p len flag v _ add =>
      if 512 * k < len then
        let base := flatSector (some d) p len k
        runSector s c e base (stepProg false (Nat.min 512 (len - 512 * k)) (fun _ => none))
      else
        (match spots c (jobAt s e.job).ctx true [(⟨0, c, flag⟩, 8)] s [] with
        | .error b => blockEntry s c e b
        | .ok (s, x) =>
          let e' := e.finish none
          (match x with
          | (.phys loc va, _) :: _ => (match (if add then poisoned s loc 8 else none) with
            | some u => failEntry s c e (poisonGlobal va loc u)
            | none =>
              let old := loadNat s loc 8
              putEntry (storeNat s loc 8 (if add then (old + v) % 2 ^ 64 else v)) c e')
          | (.fab va l, _) :: _ =>
            if flitRoom s c l then putEntry (remoteSend s c e va l (if add then 2 else 1) 8 v) c e' else holdEntry s c e .other
          | _ => putEntry s c e'))
    | .pgout va frame => pgoutSector s c e va frame
    | _ => s

/-- A PGIN at its queue's head completes once no page copy of its page is in progress on the core; one that came back from a
trap starts its copy again (R208, R385). prog.row is 1 once its copy has started. -/
def pginStep (s : State) (c : Nat) (e : Entry) (va frame : Nat) : State :=
  let busy (s : State) : Bool := (coreAt s c).pages.any (fun p => p.ctx == (jobAt s e.job).ctx && p.va == va)
  if busy s then s
  else if e.prog.row = 1 then putEntry s c (e.finish none)
  else match startPgin s ⟨c, e.sx⟩ va frame e.seq with
    | .error cause => failEntry (loseFrame s cause) c e cause
    | .ok s => putEntry s c (if busy s then pginStarted e else e.finish none)

end Sys2Proof.Machine
end

