-- ==== Sys2Proof/Machine/ElemOps.lean ====
section
/-! DEFINITION. The element operations of VCHAIN on 32-bit patterns (R227, R229). -/

namespace Sys2Proof.Machine

/-- Operands of an element operation: 1 x, 2 x and y, 3 x, y and z (R227, R229). -/
def opArity (code : Nat) : Nat :=
  if [5, 6, 7, 12, 35, 58, 59].contains code then 3
  else if [0, 10, 11, 13, 14, 15, 16, 17, 18, 19, 20, 21, 22, 23, 24, 28, 29, 32, 33, 54, 55, 56, 57].contains code then 1 else 2

/-- x rounded to an integral value (ffloor, frint): a zero result keeps the sign of x. -/
def integral (mode x : Nat) : Nat :=
  match decodeFmt 2 x with
  | .nan => canonNaN 2
  | .inf _ => x
  | .fin q z => let i := q.round mode; encodeFmt 2 0 (.fin (.int i) (if i = 0 then z else none))

/-- fsigm. -/
def fsigm (x : Nat) : Nat := rcpk (faddBits 2 0 0x3F800000 (expk (fnegBits 2 x)))

/-- fscal: x × 2^y; exponents beyond ±1000 give what ±1000 gives. -/
def fscal (rm x y : Nat) : Nat :=
  match decodeFmt 2 x with
  | .fin q z => encodeFmt 2 rm (.fin (q.shift (clampInt (-1000) 1000 (sgn y 32))) z)
  | v => encodeFmt 2 rm v

/-- fpen. -/
def fpen (rm x y : Nat) : Nat :=
  match decodeFmt 2 x with
  | .nan => canonNaN 2
  | v =>
    if v.isZero then x
    else if v.sign = some true then fmulBits 2 rm x y
    else encodeFmt 2 rm (v.div (decodeFmt 2 y))

/-- flerp: x + z × (y − x) with one rounding; an exact difference of zero has no sign. -/
def flerp (rm x y z : Nat) : Nat :=
  let d := match FV.sum [decodeFmt 2 y, (decodeFmt 2 x).neg] with
    | .fin q _ => FV.fin q (if q.num = 0 then none else some (decide (q.num < 0)))
    | v => v
  encodeFmt 2 rm (.sum [decodeFmt 2 x, (decodeFmt 2 z).mul d])

/-- Leading zeros of a 32-bit pattern. -/
def clz32 (x : Nat) : Nat := 32 - bitLen x

/-- An element operation on 32-bit patterns (R229). -/
def elemOp (code rm x y z : Nat) : Nat :=
  let m := 2 ^ 32
  let sx := sgn x 32
  let sy := sgn y 32
  if code = 0 then x
  else if code = 1 then faddBits 2 rm x y
  else if code = 2 then fsubBits 2 rm x y
  else if code = 3 then fmulBits 2 rm x y
  else if code = 4 then encodeFmt 2 rm ((decodeFmt 2 x).div (decodeFmt 2 y))
  else if code = 5 then ffmaBits 2 rm x y z
  else if code = 6 then ffmaBits 2 rm x y (fnegBits 2 z)
  else if code = 7 then ffmaBits 2 rm (fnegBits 2 x) y z
  else if code = 8 then fminmax 2 false x y
  else if code = 9 then fminmax 2 true x y
  else if code = 10 then fabsBits 2 x
  else if code = 11 then fnegBits 2 x
  else if code = 12 then fminmax 2 false (fminmax 2 true x y) z
  else if code = 13 then fsqrtBits rm x
  else if code = 14 then exp2k x
  else if code = 15 then log2k x
  else if code = 16 then rcpk x
  else if code = 17 then rsqk x
  else if code = 18 then expk x
  else if code = 19 then fsigm x
  else if code = 20 then fmulBits 2 rm x (fsigm x)
  else if code = 21 then ffmaBits 2 rm (fsigm (fmulBits 2 0 x 0x40000000)) 0x40000000 0xBF800000
  else if code = 22 then fminmax 2 true x 0
  else if code = 23 then integral 2 x
  else if code = 24 then integral rm x
  else if code = 25 then b2n (fcompare 2 (· == 0) x y)
  else if code = 26 then b2n (fcompare 2 (· < 0) x y)
  else if code = 27 then b2n (fcompare 2 (· ≤ 0) x y)
  else if code = 28 then encodeFmt 0x0A rm (decodeFmt 2 x)
  else if code = 29 then encodeFmt 2 rm (decodeFmt 0x0A x)
  else if code = 30 then fscal rm x y
  else if code = 31 then (if decodeFmt 2 x = .nan then canonNaN 2 else x % 2 ^ 31 + y / 2 ^ 31 % 2 * 2 ^ 31)
  else if code = 32 then b2n (decodeFmt 2 x == .nan)
  else if code = 33 then b2n (match decodeFmt 2 x with | .inf _ => true | _ => false)
  else if code = 34 then fpen rm x y
  else if code = 35 then flerp rm x y z
  else if code = 36 then wrap (sgn (encodeFmt 0x08 rm ((decodeFmt 2 x).div (decodeFmt 2 y))) 8) 32
  else if code = 37 then (x + y) % m
  else if code = 38 then (x + m - y) % m
  else if code = 39 then x * y % m
  else if code = 40 then wrap (satInt true 32 (sx + sy)) 32
  else if code = 41 then (if sy < sx then y else x)
  else if code = 42 then (if sx < sy then y else x)
  else if code = 43 then Nat.min x y
  else if code = 44 then Nat.max x y
  else if code = 45 then Nat.land x y
  else if code = 46 then Nat.lor x y
  else if code = 47 then Nat.xor x y
  else if code = 48 then x * 2 ^ (y % 32) % m
  else if code = 49 then x / 2 ^ (y % 32)
  else if code = 50 then wrap (sx / (2 ^ (y % 32) : Nat)) 32
  else if code = 51 then b2n (x == y)
  else if code = 52 then b2n (decide (sx < sy))
  else if code = 53 then b2n (decide (x < y))
  else if code = 54 then wrap (satInt true 32 sx.natAbs) 32
  else if code = 55 then wrap (-sx) 32
  else if code = 56 then clz32 x
  else if code = 57 then popCount 32 x
  else if code = 58 then (if x ≠ 0 then y else z)
  else b2n (bit (y + z * m) (x % 64))

/-- The value a selector names (R227). -/
def chainSel (src : List Nat) (i : Nat) (consts temps : List Nat) (n : Nat) : Nat :=
  if n < 3 then nth src n else if n = 3 then i % 2 ^ 32 else if n < 8 then nth consts (n - 4) else nth temps (n - 8)

end Sys2Proof.Machine
end

