-- ==== Sys2Proof/Machine/Vector.lean ====
section
/-! DEFINITION. Issue of the vector words, majors 0x28 to 0x2F (R220 to R242, R410, R411). -/

namespace Sys2Proof.Machine

/-! ## Region descriptors (R221, R222) -/

/-- A region as an instruction reads it, its draw and its payload. -/
structure RegRead where
  reg : Region
  draws : List Draw
  payload : List Byte

/-- Formats that a region may have; Q4 and T5 where blocks are admitted (R222). -/
def regionFmt (blocks : Bool) (fmt : Nat) : Bool := [0, 2, 3, 4, 5, 8, 9, 0xA, 0xC, 0xD, 0xE].contains fmt || (blocks && fmtBlock fmt)

/-- Code 0 is read as n8 (R222). -/
def normFmt (fmt : Nat) : Nat := if fmt = 0 then 0x0C else fmt

/-- First element of a region. -/
def Region.base (r : Region) : Place := match r.shape with | .strided p _ _ => p | .record l => l.base

/-- A region's dimensions in visiting order. -/
def Region.dims (s : State) (key : Nat) (r : Region) : List Dim :=
  match r.shape with | .strided _ st n => [(n, st, 0)] | .record l => l.dims s key

/-- A region's dimensions known at issue. -/
def Region.staticDims (r : Region) : Option (List Dim) :=
  match r.shape with | .strided _ st n => some [(n, st, 0)] | .record l => l.staticDims

/-- Elements visited. -/
def Region.count (s : State) (key : Nat) (r : Region) : Nat := dimCount (r.dims s key)

/-- Elements visited, where issue knows them. -/
def Region.count? (r : Region) : Option Nat := r.staticDims.map dimCount

/-- The bad bits of a region descriptor's own fields (R221, R410). -/
def regionBad (raw : Nat) (src need : Bool) : List Nat :=
  let kind := bits raw 62 2
  badZero raw 56 3 ++ badIf (kind = 3 || (kind = 0 && need)) 62
    ++ (if kind ≠ 0 && !src then badZero raw 60 2 else badIf (bits raw 60 2 = 3) 60) ++ badIf (kind ≠ 0 && !src && bit raw 59) 59
    ++ (if kind = 2 then badZero raw 0 32 ++ badZero raw 32 16 ++ badZero raw 48 8 else [])
    ++ badIf (kind = 1 && fmtBlock (bits raw 48 8) && bits raw 0 32 ≠ 1) 0

/-- The last checks of a region: FP32 alone in accumulators, its ends, its banks; then its draw. -/
def endRegion (s : State) (r : Region) (draw : Bool) (h : Nat) (payload : List Byte) : Except Cause RegRead :=
  let p := r.base
  match andThen (chk (p.space ≠ 4 || r.fmt = 2) 0x16 r.fmt 0 0)
      (match r.staticDims with | some d => checkRegion s r.fmt p (tagged p) d true | none => .ok ()) with
  | .error c => .error c
  | .ok _ =>
    let cover : Nat × Nat := match r.staticDims with
      | some d =>
        if dimCount d = 0 then (p.off, 0)
        else let (lo, hi) := dimRange d; let sp := elemSpan s r.fmt p lo hi; ((p.shift sp.1).off, (sp.2 - sp.1).toNat)
      | none => (p.off, 0)
    .ok ⟨r, if draw then [⟨h, cover.1, cover.2⟩] else [], payload⟩

/-- Reads the region descriptor at an address of local pond that has been checked: none where it is absent (R221). -/
def readRegion (s : State) (a : At) (ad : Nat) (blocks src need : Bool) : Except Cause (Option RegRead) :=
  let raw := leNat (fetchPlace s 0 (placeOf a.c ad) 16)
  let v := bits raw 64 64
  let draw := bit raw 59
  let spaces := if draw then [1, 3] else [1, 2, 3, 4]
  match checkBad 0x0A ad (regionBad raw src need) with
  | .error c => .error c
  | .ok _ =>
    if bits raw 62 2 = 0 then .ok none
    else if bits raw 62 2 = 1 then
      let fmt := bits raw 48 8
      let sa := opAddr draw v
      match andThen (chk (regionFmt blocks fmt) 0x16 fmt 0 0) (checkAddr spaces 0 0 sa sa) with
      | .error c => .error c
      | .ok _ =>
        (endRegion s ⟨normFmt fmt, bits raw 60 2, .strided (placeOf a.c sa) (sgn raw 32) (bits raw 32 16)⟩ draw v []).map some
    else
      match checkAddr [2] 64 64 v v with
      | .error c => .error c
      | .ok _ =>
        match readLayout s a v draw with
        | .error c => .error c
        | .ok l =>
          match andThen (chk (regionFmt blocks l.lay.fmt) 0x16 l.lay.fmt 0 0)
              (andThen (checkBase spaces draw l.tag) (checkOffs l.lay)) with
          | .error c => .error c
          | .ok _ =>
            let lay := { l.lay with fmt := normFmt l.lay.fmt }
            (endRegion s ⟨lay.fmt, bits raw 60 2, .record lay⟩ draw l.tag l.payload).map some

/-- The bytes of a block that an entry's payload keeps, filled up to whole lines of 64 (R383). -/
def payBlock (s : State) (a : At) (ad len : Nat) : List Byte :=
  fetchPlace s 0 (placeOf a.c ad) len ++ List.replicate ((64 - len % 64) % 64) 0

/-- A present region at a 16-byte descriptor of its own. -/
def oneRegion (s : State) (a : At) (ad : Nat) (blocks src : Bool) : Except Cause RegRead :=
  match readRegion s a ad blocks src true with
  | .error c => .error c
  | .ok none => .error ⟨0x0A, ad, 62, 0⟩
  | .ok (some r) => .ok { r with payload := payBlock s a ad 16 ++ r.payload }

/-- The address of a region descriptor (R220). -/
def descAddr (ad : Nat) : Except Cause Unit := checkAddr [2] 16 16 ad ad

/-- A source has N elements or one, where issue knows both (R222, R410). -/
def countOk (n : Option Nat) (one : Bool) (r : Option Region) : Except Cause Unit :=
  match n, r.bind Region.count? with
  | some n, some k => chk (k = n || (one && k = 1)) 0x18 k n 0
  | _, _ => .ok ()

/-- Two optional regions' reads joined. -/
def optDraws (r : Option RegRead) : List Draw := match r with | some x => x.draws | none => []
/-- The payload of an optional region. -/
def optPay (r : Option RegRead) : List Byte := match r with | some x => x.payload | none => []

/-! ## The vector control word (R230) -/

/-- The fields of a vector control word. -/
def vctl (w : Nat) : VCtl := ⟨bits w 44 20, bit w 39, bit w 34, bits w 27 3, bits w 24 3, bits w 16 8, bits w 0 16⟩

/-- Checks a vector control word: which of ix, excl, breg, ofmt and g the form has, and a form's own bad bits. -/
def checkVctl (w : Nat) (ix excl breg ofmt g : Bool) (extra : List Nat) : Except Cause Unit :=
  let c := vctl w
  checkBad 0x0F w (badZero w 44 (if ix then 2 else 20) ++ badZero w 40 4 ++ badZero w 35 4
    ++ badIf (!excl && c.excl) 34 ++ badZero w 30 4 ++ (if breg then [] else badZero w 27 3) ++ badIf (5 ≤ c.rm) 24
    ++ (if ofmt then [] else badZero w 16 8) ++ (if g then [] else badZero w 0 16) ++ extra)

/-! ## VCHAIN (R225 to R228) -/

/-- Operation word n of a chain block. -/
def chainOp (raw n : Nat) : ChainOp :=
  let o := 48 * n
  ⟨bits raw (o + 42) 6, bits raw (o + 39) 3, bits raw (o + 35) 4, bits raw (o + 31) 4, bits raw (o + 27) 4, bits raw (o + 24) 3⟩

/-- The bad bits of a chain block; present tells which of A, B, C the region block has (R226, R227, R410). -/
def chainBad (raw : Nat) (present : List Bool) : List Nat :=
  let nops := bits raw 384 4
  let absent (n : Nat) : Bool := decide (n < 3) && !present.getD n false
  (List.range 8).flatMap (fun n =>
      let o := 48 * n
      if nops ≤ n then badZero raw o 48
      else
        let w := chainOp raw n
        let k := opArity w.code
        badZero raw o 24 ++ badIf (60 ≤ w.code) (o + 42) ++ badIf (absent w.x) (o + 35)
          ++ (if 2 ≤ k then badIf (absent w.y) (o + 31) else badZero raw (o + 31) 4)
          ++ (if 3 ≤ k then badIf (absent w.z) (o + 27) else badZero raw (o + 27) 4))
    ++ badIf (nops = 0 || 8 < nops) 384 ++ badZero raw 388 4 ++ badIf (bits raw 395 2 = 3) 395 ++ badZero raw 400 48

/-- The offsets of the reserved rounding modes of a chain block. -/
def chainModes (raw : Nat) : List Nat :=
  (List.range (bits raw 384 4)).flatMap (fun n => badIf (5 ≤ bits raw (48 * n + 24) 3) (48 * n + 24)) ++ badIf (5 ≤ bits raw 397 3) 397

/-- Checks a chain block at an address: the lowest offending field decides (R401, R410). -/
def checkChain (w : Word) (ad raw : Nat) (present : List Bool) : Except Cause Unit :=
  match minOf (chainBad raw present), minOf (chainModes raw) with
  | none, none => .ok ()
  | some o, none => .error ⟨0x0B, ad, o, 0⟩
  | none, some _ => .error ⟨0x07, w.toNat, ad, 0⟩
  | some o, some m => if o < m then .error ⟨0x0B, ad, o, 0⟩ else .error ⟨0x07, w.toNat, ad, 0⟩

/-- Reads the region block D, A, B, C of VCHAIN or VDOT. -/
def readBlock (s : State) (a : At) (ga : Nat) (needAB : Bool) :
    Except Cause (RegRead × Option RegRead × Option RegRead × Option RegRead) :=
  match readRegion s a ga false false true with
  | .error c => .error c
  | .ok d => match readRegion s a (ga + 16) true true needAB with
    | .error c => .error c
    | .ok x => match readRegion s a (ga + 32) true true needAB with
      | .error c => .error c
      | .ok y => match readRegion s a (ga + 48) true true false with
        | .error c => .error c
        | .ok z => match d with
          | none => .error ⟨0x0A, ga, 62, 0⟩
          | some d => .ok (d, x, y, z)

/-- The region of an optional read. -/
def optReg (r : Option RegRead) : Option Region := r.map (·.reg)

/-- Resolves VCHAIN (R225). -/
def resolveChain (w : Word) (s : State) (a : At) (ga gb gc : Nat) : ResE :=
  match andThen (checkAddr [2] 64 64 ga ga) (checkAddr [2] 64 64 gb gb) with
  | .error c => .error c
  | .ok _ =>
    match readBlock s a ga false with
    | .error c => .error c
    | .ok (d, x, y, z) =>
      let n := d.reg.count?
      let raw := leNat (fetchPlace s 0 (placeOf a.c gb) 64)
      match andThen (andThen (countOk n true (optReg x)) (andThen (countOk n true (optReg y)) (countOk n true (optReg z))))
          (checkChain w gb raw [x.isSome, y.isSome, z.isSome]) with
      | .error c => .error c
      | .ok _ =>
        let ch : Chain := ⟨(List.range (bits raw 384 4)).map (chainOp raw), bits raw 392 3, bits raw 395 2, bits raw 397 3,
          [bits gc 0 32, bits gc 32 32, bits raw 448 32, bits raw 480 32]⟩
        .ok ⟨.vchain d.reg (optReg x) (optReg y) (optReg z) ch, optDraws x ++ optDraws y ++ optDraws z,
          payBlock s a ga 64 ++ d.payload ++ optPay x ++ optPay y ++ optPay z ++ payBlock s a gb 64⟩

/-! ## VRED and VSCAN (R231, R232) -/

/-- Does the output format suit a VRED form and its source's format (R231)? Form: 0 sum, 1 max, 2 min, 3 argmax, 4 argmin,
5 sumsq. -/
def redFmtOk (fn src o : Nat) : Bool :=
  if fn = 3 ∨ fn = 4 then o == 0
  else if fn = 1 ∨ fn = 2 then (if fmtBlock src then o == 2 else o == src)
  else if isFloat src ∨ fmtBlock src then [2, 3, 4, 5].contains o else [0xA, 0xB, 0xE, 0xF].contains o

/-- Bytes of one output of a VRED. -/
def redSize (fn o : Nat) : Nat := if fn = 3 ∨ fn = 4 then 8 else if regionFmt false o || o = 0xB || o = 0xF then fmtBytes o else 1

/-- Outputs of a VRED over n elements. -/
def redGroups (n g : Nat) : Nat := if n = 0 then 0 else if g = 0 then 1 else ceilDiv n g

/-- The output format as compared: a source of code 0 is n8 (R222). -/
def redOfmt (fn src o : Nat) : Nat := if (fn = 1 ∨ fn = 2) ∧ o = 0 ∧ src = 0x0C then 0x0C else o

/-- Resolves VRED (R231). -/
def resolveRed (fn : Nat) (s : State) (a : At) (ga gb gc : Nat) : ResE :=
  let ctl := vctl gc
  let size := redSize fn ctl.ofmt
  match andThen (if ga = 0 then .ok () else checkAddr [1, 2, 3, 4] size size ga ga) (descAddr gb) with
  | .error c => .error c
  | .ok _ =>
    match oneRegion s a gb true true with
    | .error c => .error c
    | .ok r =>
      let o := redOfmt fn r.reg.fmt ctl.ofmt
      let len := match r.reg.count? with | some n => redGroups n ctl.g * size | none => 0
      match andThen (checkVctl gc false false false true true (badIf (!redFmtOk fn r.reg.fmt o) 16))
          (if ga = 0 then .ok () else checkAddr [1, 2, 3, 4] size len ga ga) with
      | .error c => .error c
      | .ok _ =>
        .ok ⟨.vred fn r.reg (if ga = 0 then none else some (placeOf a.c ga)) { ctl with ofmt := o }, r.draws, r.payload⟩

/-- Two descriptors: destination at ga, source at gb (or table and source). -/
def twoRegions (s : State) (a : At) (ga gb : Nat) (srcA srcB : Bool) : Except Cause (RegRead × RegRead) :=
  match andThen (descAddr ga) (descAddr gb) with
  | .error c => .error c
  | .ok _ => match oneRegion s a ga false srcA with
    | .error c => .error c
    | .ok d => match oneRegion s a gb false srcB with
      | .error c => .error c
      | .ok r => .ok (d, r)

/-- Resolves VSCAN (R232). -/
def resolveScan (fn : Nat) (s : State) (a : At) (ga gb gc : Nat) : ResE :=
  match twoRegions s a ga gb false true with
  | .error c => .error c
  | .ok (d, r) =>
    match andThen (countOk r.reg.count? false (some d.reg)) (checkVctl gc false true false false true []) with
    | .error c => .error c
    | .ok _ => .ok ⟨.vscan fn d.reg r.reg (vctl gc), r.draws, d.payload ++ r.payload⟩

/-! ## VGATH and VSCAT (R233) -/

/-- The index vector ends in pond, where issue knows its length. -/
def checkIx (a : At) (n : Option Nat) (ix : Nat) : Except Cause Unit :=
  match n with | some n => chk (ix + 4 * n ≤ 2 ^ 20) 0x22 (tagged ⟨2, a.c, ix⟩) 0 0 | none => .ok ()

/-- Resolves VGATH (R233). -/
def resolveVgath (s : State) (a : At) (ga gb gc : Nat) : ResE :=
  match twoRegions s a ga gb false true with
  | .error c => .error c
  | .ok (d, t) =>
    let ctl := vctl gc
    match andThen (checkVctl gc true false false false false []) (checkIx a d.reg.count? ctl.ix) with
    | .error c => .error c
    | .ok _ => .ok ⟨.vgath d.reg t.reg ⟨2, a.c, ctl.ix⟩ ctl, t.draws, d.payload ++ t.payload⟩

/-- Resolves VSCAT: 0 set, 1 add, 2 max, 3 mul (R233). -/
def resolveVscat (fn : Nat) (s : State) (a : At) (ga gb gc : Nat) : ResE :=
  match twoRegions s a ga gb false true with
  | .error c => .error c
  | .ok (t, r) =>
    let ctl := vctl gc
    match andThen (checkVctl gc true false false false false []) (checkIx a r.reg.count? ctl.ix) with
    | .error c => .error c
    | .ok _ => .ok ⟨.vscat fn t.reg r.reg ⟨2, a.c, ctl.ix⟩ ctl, r.draws, t.payload ++ r.payload⟩

/-! ## VDOT (R234) -/

/-- Does A have the form's format: 0 s8, 1 Q4, 2 T5? -/
def dotFmt (fn fmt : Nat) : Bool := if fn = 0 then fmt == 8 else if fn = 1 then isQ4 fmt else fmtBlock fmt && !isQ4 fmt

/-- The weight record's K and M: a record of rank 2 without a ragged dimension, of the form's format. -/
def dotShape (fn : Nat) (r : Region) : Except Cause (Nat × Nat) :=
  match r.shape with
  | .record l => if l.rank = 2 ∧ !l.ragged ∧ dotFmt fn l.fmt then .ok (nth l.ext 0, nth l.ext 1) else .error ⟨0x16, r.fmt, 0, 0⟩
  | _ => .error ⟨0x16, r.fmt, 0, 0⟩

/-- Resolves VDOT (R234). -/
def resolveDot (w : Word) (fn : Nat) (s : State) (a : At) (ga gb gc : Nat) : ResE :=
  match andThen (checkAddr [2] 64 64 ga ga) (chk (gb < 2 ^ 32) 0x02 w.toNat gb 0) with
  | .error c => .error c
  | .ok _ =>
    match readBlock s a ga true with
    | .error c => .error c
    | .ok (d, some x, some y, z) =>
      (match dotShape fn x.reg with
      | .error c => .error c
      | .ok (k, m) =>
        match andThen (chk (y.reg.fmt = 8) 0x16 y.reg.fmt 0 0)
            (andThen (match z with | some z => chk (z.reg.fmt = 2) 0x16 z.reg.fmt 0 0 | none => .ok ())
              (andThen (match y.reg.count? with | some n => chk (n = k) 0x7E n k 0 | none => .ok ())
                (andThen (countOk (some m) false (some d.reg))
                  (andThen (countOk (some m) true (optReg z)) (checkVctl gc false false false false false []))))) with
        | .error c => .error c
        | .ok _ =>
          .ok ⟨.vdot fn d.reg x.reg y.reg (optReg z) gb (vctl gc), x.draws ++ y.draws ++ optDraws z,
            payBlock s a ga 64 ++ d.payload ++ x.payload ++ y.payload ++ optPay z⟩)
    | .ok _ => .error ⟨0x0A, ga, 62, 0⟩

/-! ## BSET and VPERM (R236, R237) -/

/-- Resolves BSET (R236). -/
def resolveBset (w : Word) (s : State) (a : At) (ga gb _gc : Nat) : ResE :=
  match andThen (checkAddr [2] 64 64 ga ga) (chk (gb < 8) 0x02 w.toNat gb 0) with
  | .error c => .error c
  | .ok _ =>
    let raw := leNat (fetchPlace s 0 (placeOf a.c ga) 64)
    match checkBad 0x1A ga (badZero raw 352 160) with
    | .error c => .error c
    | .ok _ => .ok ⟨.bset gb (bits raw 0 352), [], payBlock s a ga 64⟩

/-- Resolves VPERM (R237). -/
def resolveVperm (s : State) (a : At) (ga gb gc : Nat) : ResE :=
  match twoRegions s a ga gb false true with
  | .error c => .error c
  | .ok (d, r) =>
    match andThen (countOk d.reg.count? false (some r.reg)) (checkVctl gc false false true false false []) with
    | .error c => .error c
    | .ok _ => .ok ⟨.vperm d.reg r.reg (vctl gc), r.draws, d.payload ++ r.payload⟩

/-! ## VSEARCH, VFIND and VCOUNT (R238, R241, R242) -/

/-- Resolves VSEARCH (R238). -/
def resolveSearch (thr : Bool) (s : State) (a : At) (ga gb gc : Nat) : ResE :=
  match andThen (checkAddr [2] 64 64 ga ga) (andThen (checkAddr [1, 2, 3] 0 0 gb gb) (checkAddr [1, 2, 3] 0 0 gc gc)) with
  | .error c => .error c
  | .ok _ =>
    let raw := leNat (fetchPlace s 0 (placeOf a.c ga) 64)
    let remap := bits raw 448 64
    let sbase := bits raw 384 64
    let rows := bits raw 336 16
    let n := bits raw 280 8 + 1
    let kmax := bits raw 268 4 + 1
    let fmt := bits raw 272 8
    let rstride := bits raw 352 32
    let len := if rows = 0 then 0 else ((rows - 1) * rstride + n) * fmtBytes fmt
    match andThen (checkBad 0x10 ga (badZero raw 0 266 ++ badIf (fmt ≠ 2 && fmt ≠ 4) 272))
        (andThen (checkAddr [1, 2, 3] 0 len sbase sbase)
          (andThen (if remap = 0 then .ok () else checkAddr [2] 0 n remap remap)
            (andThen (checkAddr [1, 2, 3] 0 (8 * kmax * rows) gb gb) (checkAddr [1, 2, 3] 0 (2 * n) gc gc)))) with
    | .error c => .error c
    | .ok _ =>
      .ok ⟨.vsearch ⟨thr, if remap = 0 then none else some (placeOf a.c remap), placeOf a.c sbase, rstride, rows, bits raw 320 16,
        bits raw 288 32, n, fmt, kmax, bit raw 267, bit raw 266, placeOf a.c gb, placeOf a.c gc⟩, [], payBlock s a ga 64⟩

/-- Resolves VFIND (R241). -/
def resolveFind (s : State) (a : At) (ga gb gc : Nat) : ResE :=
  match andThen (checkAddr [2] 32 32 ga ga) (descAddr gb) with
  | .error c => .error c
  | .ok _ =>
    let raw := leNat (fetchPlace s 0 (placeOf a.c ga) 32)
    let l := bits raw 128 8
    match checkBad 0x1A ga (badIf (l = 0 || 16 < l) 128 ++ badZero raw 136 120) with
    | .error c => .error c
    | .ok _ => match oneRegion s a gb false true with
      | .error c => .error c
      | .ok r => match andThen (chk (r.reg.fmt = 0x0C) 0x16 r.reg.fmt 0 0) (chk (gc < l) 0x78 gc 0 l) with
        | .error c => .error c
        | .ok _ =>
          .ok ⟨.vfind ((List.range l).map (fun i => bits raw (8 * i) 8)) r.reg gc, r.draws, payBlock s a ga 32 ++ r.payload⟩

/-- Resolves VCOUNT (R242). -/
def resolveCount (s : State) (a : At) (ga gb gc : Nat) : ResE :=
  let g := bits gc 0 16
  let m := if g = 0 then 65536 else g
  match andThen (checkAddr [1] 4 (4 * m) ga ga) (descAddr gb) with
  | .error c => .error c
  | .ok _ => match oneRegion s a gb false true with
    | .error c => .error c
    | .ok r =>
      match andThen (chk ([0x0C, 0x0D, 0x0E].contains r.reg.fmt) 0x16 r.reg.fmt 0 0) (checkVctl gc false false false false true []) with
      | .error c => .error c
      | .ok _ => .ok ⟨.vcount (placeOf a.c ga) m r.reg (bit gc 39), r.draws, r.payload⟩

/-! ## The words -/

/-- VCHAIN (R228). -/
def execVchain (t : BitVec 2) (g : BitVec 3) (x : BitVec 5) (y : BitVec 5) (z : BitVec 5) (s : State) :
    Host.Outcome State Fault Refusal :=
  engIssue 1 (wE 40 ((0 : BitVec 1) ++ t) g x y z 0) t.toNat g.toNat x y z (resolveChain (wE 40 ((0 : BitVec 1) ++ t) g x y z 0)) s

/-- VRED_SUM (R231). -/
def execVredSum (t : BitVec 2) (g : BitVec 3) (x : BitVec 5) (y : BitVec 5) (z : BitVec 5) (s : State) :
    Host.Outcome State Fault Refusal :=
  engIssue 1 (wE 41 ((0 : BitVec 1) ++ t) g x y z 0) t.toNat g.toNat x y z (resolveRed 0) s

/-- VRED_MAX (R231). -/
def execVredMax (t : BitVec 2) (g : BitVec 3) (x : BitVec 5) (y : BitVec 5) (z : BitVec 5) (s : State) :
    Host.Outcome State Fault Refusal :=
  engIssue 1 (wE 41 ((0 : BitVec 1) ++ t) g x y z 1) t.toNat g.toNat x y z (resolveRed 1) s

/-- VRED_MIN (R231). -/
def execVredMin (t : BitVec 2) (g : BitVec 3) (x : BitVec 5) (y : BitVec 5) (z : BitVec 5) (s : State) :
    Host.Outcome State Fault Refusal :=
  engIssue 1 (wE 41 ((0 : BitVec 1) ++ t) g x y z 2) t.toNat g.toNat x y z (resolveRed 2) s

/-- VRED_ARGMAX (R231). -/
def execVredArgmax (t : BitVec 2) (g : BitVec 3) (x : BitVec 5) (y : BitVec 5) (z : BitVec 5) (s : State) :
    Host.Outcome State Fault Refusal :=
  engIssue 1 (wE 41 ((0 : BitVec 1) ++ t) g x y z 3) t.toNat g.toNat x y z (resolveRed 3) s

/-- VRED_ARGMIN (R231). -/
def execVredArgmin (t : BitVec 2) (g : BitVec 3) (x : BitVec 5) (y : BitVec 5) (z : BitVec 5) (s : State) :
    Host.Outcome State Fault Refusal :=
  engIssue 1 (wE 41 ((0 : BitVec 1) ++ t) g x y z 4) t.toNat g.toNat x y z (resolveRed 4) s

/-- VRED_SUMSQ (R231). -/
def execVredSumsq (t : BitVec 2) (g : BitVec 3) (x : BitVec 5) (y : BitVec 5) (z : BitVec 5) (s : State) :
    Host.Outcome State Fault Refusal :=
  engIssue 1 (wE 41 ((0 : BitVec 1) ++ t) g x y z 5) t.toNat g.toNat x y z (resolveRed 5) s

/-- VSCAN_ADD (R232). -/
def execVscanAdd (t : BitVec 2) (g : BitVec 3) (x : BitVec 5) (y : BitVec 5) (z : BitVec 5) (s : State) :
    Host.Outcome State Fault Refusal :=
  engIssue 1 (wE 42 ((0 : BitVec 1) ++ t) g x y z 0) t.toNat g.toNat x y z (resolveScan 0) s

/-- VSCAN_MAX (R232). -/
def execVscanMax (t : BitVec 2) (g : BitVec 3) (x : BitVec 5) (y : BitVec 5) (z : BitVec 5) (s : State) :
    Host.Outcome State Fault Refusal :=
  engIssue 1 (wE 42 ((0 : BitVec 1) ++ t) g x y z 1) t.toNat g.toNat x y z (resolveScan 1) s

/-- VGATH (R233). -/
def execVgath (t : BitVec 2) (g : BitVec 3) (x : BitVec 5) (y : BitVec 5) (z : BitVec 5) (s : State) :
    Host.Outcome State Fault Refusal :=
  engIssue 1 (wE 43 ((0 : BitVec 1) ++ t) g x y z 0) t.toNat g.toNat x y z resolveVgath s

/-- VSCAT_SET (R233). -/
def execVscatSet (t : BitVec 2) (g : BitVec 3) (x : BitVec 5) (y : BitVec 5) (z : BitVec 5) (s : State) :
    Host.Outcome State Fault Refusal :=
  engIssue 1 (wE 43 ((0 : BitVec 1) ++ t) g x y z 1) t.toNat g.toNat x y z (resolveVscat 0) s

/-- VSCAT_ADD (R233). -/
def execVscatAdd (t : BitVec 2) (g : BitVec 3) (x : BitVec 5) (y : BitVec 5) (z : BitVec 5) (s : State) :
    Host.Outcome State Fault Refusal :=
  engIssue 1 (wE 43 ((0 : BitVec 1) ++ t) g x y z 2) t.toNat g.toNat x y z (resolveVscat 1) s

/-- VSCAT_MAX (R233). -/
def execVscatMax (t : BitVec 2) (g : BitVec 3) (x : BitVec 5) (y : BitVec 5) (z : BitVec 5) (s : State) :
    Host.Outcome State Fault Refusal :=
  engIssue 1 (wE 43 ((0 : BitVec 1) ++ t) g x y z 3) t.toNat g.toNat x y z (resolveVscat 2) s

/-- VSCAT_MUL (R233). -/
def execVscatMul (t : BitVec 2) (g : BitVec 3) (x : BitVec 5) (y : BitVec 5) (z : BitVec 5) (s : State) :
    Host.Outcome State Fault Refusal :=
  engIssue 1 (wE 43 ((0 : BitVec 1) ++ t) g x y z 4) t.toNat g.toNat x y z (resolveVscat 3) s

/-- VDOT_S8 (R234). -/
def execVdotS8 (t : BitVec 2) (g : BitVec 3) (x : BitVec 5) (y : BitVec 5) (z : BitVec 5) (s : State) :
    Host.Outcome State Fault Refusal :=
  engIssue 1 (wE 44 ((0 : BitVec 1) ++ t) g x y z 0) t.toNat g.toNat x y z (resolveDot (wE 44 ((0 : BitVec 1) ++ t) g x y z 0) 0) s

/-- VDOT_Q4 (R234). -/
def execVdotQ4 (t : BitVec 2) (g : BitVec 3) (x : BitVec 5) (y : BitVec 5) (z : BitVec 5) (s : State) :
    Host.Outcome State Fault Refusal :=
  engIssue 1 (wE 44 ((0 : BitVec 1) ++ t) g x y z 1) t.toNat g.toNat x y z (resolveDot (wE 44 ((0 : BitVec 1) ++ t) g x y z 1) 1) s

/-- VDOT_T5 (R234). -/
def execVdotT5 (t : BitVec 2) (g : BitVec 3) (x : BitVec 5) (y : BitVec 5) (z : BitVec 5) (s : State) :
    Host.Outcome State Fault Refusal :=
  engIssue 1 (wE 44 ((0 : BitVec 1) ++ t) g x y z 2) t.toNat g.toNat x y z (resolveDot (wE 44 ((0 : BitVec 1) ++ t) g x y z 2) 2) s

/-- BSET (R236). -/
def execBset (t : BitVec 2) (g : BitVec 3) (x : BitVec 5) (y : BitVec 5) (s : State) :
    Host.Outcome State Fault Refusal :=
  engIssue 1 (wE 45 ((0 : BitVec 1) ++ t) g x y 0 0) t.toNat g.toNat x y 0 (resolveBset (wE 45 ((0 : BitVec 1) ++ t) g x y 0 0)) s

/-- VPERM (R237). -/
def execVperm (t : BitVec 2) (g : BitVec 3) (x : BitVec 5) (y : BitVec 5) (z : BitVec 5) (s : State) :
    Host.Outcome State Fault Refusal :=
  engIssue 1 (wE 45 ((0 : BitVec 1) ++ t) g x y z 1) t.toNat g.toNat x y z resolveVperm s

/-- VSEARCH_TOPK (R239). -/
def execVsearchTopk (t : BitVec 2) (g : BitVec 3) (x : BitVec 5) (y : BitVec 5) (z : BitVec 5) (s : State) :
    Host.Outcome State Fault Refusal :=
  engIssue 1 (wE 46 ((0 : BitVec 1) ++ t) g x y z 0) t.toNat g.toNat x y z (resolveSearch false) s

/-- VSEARCH_THR (R239). -/
def execVsearchThr (t : BitVec 2) (g : BitVec 3) (x : BitVec 5) (y : BitVec 5) (z : BitVec 5) (s : State) :
    Host.Outcome State Fault Refusal :=
  engIssue 1 (wE 46 ((0 : BitVec 1) ++ t) g x y z 1) t.toNat g.toNat x y z (resolveSearch true) s

/-- VFIND (R241). -/
def execVfind (t : BitVec 2) (g : BitVec 3) (x : BitVec 5) (y : BitVec 5) (z : BitVec 5) (s : State) :
    Host.Outcome State Fault Refusal :=
  engIssue 1 (wE 47 ((0 : BitVec 1) ++ t) g x y z 0) t.toNat g.toNat x y z resolveFind s

/-- VCOUNT (R242). -/
def execVcount (t : BitVec 2) (g : BitVec 3) (x : BitVec 5) (y : BitVec 5) (z : BitVec 5) (s : State) :
    Host.Outcome State Fault Refusal :=
  engIssue 1 (wE 47 ((0 : BitVec 1) ++ t) g x y z 1) t.toNat g.toNat x y z resolveCount s

end Sys2Proof.Machine
end

