-- ==== Sys2Proof/Machine/Matrix.lean ====
section
/-! DEFINITION. Issue of the matrix words, majors 0x30 to 0x34 (R244 to R263, R412). -/

namespace Sys2Proof.Machine

/-! ## Pairs of formats (R247) -/

/-- Accumulator of a pair (0 FP32, 1 s32, 2 FP64 pair) and Kb, for a pair of R247. -/
def nestPair (af bf : Nat) (rsc : Bool) : Option (Nat × Nat) :=
  if rsc ∧ af ≠ 8 then none
  else if (af = 4 ∧ (bf = 4 ∨ bf = 0x10 ∨ bf = 0x11)) ∨ (af = 3 ∧ bf = 3) ∨ (af = 2 ∧ bf = 2) then some (0, 32)
  else if af = 5 ∧ bf = 5 then some (0, 64)
  else if af = 8 ∧ bf = 8 then some (if rsc then 0 else 1, 64)
  else if af = 8 ∧ 0x10 ≤ bf ∧ bf ≤ 0x12 then some (0, 64)
  else if af = 8 ∧ 0x14 ≤ bf ∧ bf ≤ 0x17 then some (0, 128)
  else if af = 1 ∧ bf = 1 then some (2, 32)
  else none

/-- Largest Kb among the pairs whose B admits a format, 0 for no B format (R253). -/
def bFormatKb (fmt : Nat) : Nat :=
  if [1, 2, 3, 4].contains fmt then 32 else if [5, 8, 0x10, 0x11, 0x12].contains fmt then 64
  else if 0x14 ≤ fmt ∧ fmt ≤ 0x17 then 128 else 0

/-- Formats of a sparse B (R247). -/
def sparseFmt (fmt : Nat) : Bool := [3, 4, 5, 8].contains fmt

/-- Does the pair admit a sparse B? -/
def sparsePair (af bf : Nat) : Bool := af == bf && sparseFmt bf

/-! ## Extents of a nest (R246, R248, R249) -/

/-- The level with a role, or an empty one. -/
def Nest.level (t : Nest) (role : Nat) : Level := (t.levels.find? (fun l => l.role == role)).getD ⟨role, 0, 0, 0, 0⟩

/-- Kx. -/
def Nest.kx (t : Nest) : Nat := match t.arec with | some r => nth r.ext 0 | none => (t.level 3).trip

/-- Nx. -/
def Nest.nx (t : Nest) : Nat := (t.level 2).trip

/-- Is A a ragged record? -/
def Nest.ragged (t : Nest) : Bool := match t.arec with | some r => r.ragged | none => false

/-- Has the nest a segment level? -/
def Nest.segs (t : Nest) : Bool := t.levels.any (fun l => l.role == 5)

/-- Mx of a nest whose A is not ragged. -/
def Nest.mx (t : Nest) : Nat := match t.arec with | some r => r.ext.getD 1 1 | none => (t.level 1).trip

/-- Accumulator type and Kb. -/
def Nest.pair (t : Nest) : Nat × Nat := (nestPair t.afmt t.bfmt t.rsc).getD (0, 32)

/-- Bytes of a C tile: a tile, or both of an FP64 pair. -/
def Nest.tileBytes (t : Nest) : Nat := if t.pair.1 = 2 then 8192 else 4096

/-- Iterations of level 0 (R246): one with a stationary B. -/
def Nest.kIters (t : Nest) : Nat := if t.kx = 0 then 0 else if t.bmode then 1 else ceilDiv t.kx t.pair.2

/-- Iterations of an outer level that issue knows. -/
def Nest.iters? (t : Nest) (l : Level) : Option Nat :=
  match l.role with
  | 0 => some 1
  | 1 => if t.ragged then none else some (ceilDiv t.mx 32)
  | 2 => some (ceilDiv t.nx 32)
  | 5 => t.arec.map Layout.segs
  | _ => some l.trip

/-- Outer levels 1 to 5. -/
def Nest.outer (t : Nest) : List Level := t.levels.drop 1

/-- Does issue know that the nest performs no reduction? -/
def Nest.idle (t : Nest) : Bool :=
  t.levels.isEmpty || t.kx == 0 || t.nx == 0 || (!t.ragged && t.mx == 0) || t.outer.any (fun l => t.iters? l == some 0)

/-- First, last full and last piece of an extent cut into blocks: (index, length). -/
def blockEnds (total blk : Nat) : List (Nat × Nat) :=
  let n := ceilDiv total blk
  if n = 0 then [] else [(0, Nat.min total blk), (n - 2, Nat.min total blk), (n - 1, total - blk * (n - 1))]

/-- Least and greatest of a list of intervals. -/
def hull (l : List (Int × Int)) : Int × Int :=
  l.foldl (fun a b => (Min.min a.1 b.1, Max.max a.2 b.2)) (l.headD (0, 0))

/-- The bytes that a block operand or a plain one covers from a step's address: n elements. -/
def runBytes (s : State) (fmt : Nat) (p : Place) (n : Nat) : Nat :=
  if fmtBlock fmt then ceilDiv n (fmtL fmt) * blockUnit s fmt p else n * fmtBytes fmt

/-- Steps of the levels with a plain stride: the extremes of the displacement they add. -/
def stepHull (l : List (Nat × Int)) : Int × Int :=
  l.foldl (fun a x => let d := ((x.1 - 1 : Nat) : Int) * x.2; (a.1 + Min.min 0 d, a.2 + Max.max 0 d)) (0, 0)

/-- Displacement along K: the steps' addresses and the bytes of their elements. -/
def kHull (s : State) (t : Nest) (fmt : Nat) (p : Place) (st : Int) : Int × Int :=
  if t.bmode then (0, runBytes s fmt p t.kx)
  else hull ((blockEnds t.kx t.pair.2).map (fun b => ((b.1 : Int) * st, (b.1 : Int) * st + runBytes s fmt p b.2)))

/-- Displacement along a blocked level of 32 rows or columns with their own pitch. -/
def laneHull (total : Nat) (st : Int) (pitch : Nat) : Int × Int :=
  hull ((blockEnds total 32).map (fun b => ((b.1 : Int) * st, (b.1 : Int) * st + ((b.2 - 1) * pitch : Nat))))

/-- The bytes of A that a nest reads, relative to its base, given the iterations of its levels and the dimensions of a record
as visited (R248, R249): batch and N levels move the base. -/
def Nest.aHull (s : State) (t : Nest) (iters : Level → Nat) (dims : List (Nat × Int × Nat)) : Int × Int :=
  let st := stepHull ((t.outer.filter (fun l => l.role == 4 || l.role == 2)).map (fun l => (iters l, l.sa)))
  match t.arec with
  | some r =>
    let (lo, hi) := dimRange dims
    let sp := elemSpan s r.fmt r.base lo hi
    (sp.1 + st.1, sp.2 + st.2)
  | none =>
    let k := kHull s t t.afmt t.abase (t.level 3).sa
    let m := laneHull t.mx (t.level 1).sa t.arow
    (k.1 + m.1 + st.1, k.2 + m.2 + st.2)

/-- The bytes of A that the nest reads, relative to its base; none for a ragged record or an idle nest. -/
def Nest.aSpan (s : State) (t : Nest) : Option (Int × Int) :=
  if t.idle || t.ragged then none
  else some (t.aHull s (fun l => (t.iters? l).getD 1)
    (match t.arec with | some r => [(nth r.ext 0, r.stride.getD 0 0, 0), (t.mx, r.stride.getD 1 0, 0)] | none => []))

/-- The bytes of a streamed B that a nest reads, relative to bbase, given the extremes of the displacement that its M, batch
and segment levels add. -/
def Nest.bHull (s : State) (t : Nest) (st : Int × Int) : Int × Int :=
  let k := kHull s t t.bfmt t.bbase (t.level 3).sb
  let n := laneHull t.nx (t.level 2).sb t.brow
  (k.1 + n.1 + st.1, k.2 + n.2 + st.2)

/-- The bytes of a streamed B that the nest reads, relative to bbase; none where they depend on a ragged A (R406). -/
def Nest.bSpan (s : State) (t : Nest) : Option (Int × Int) :=
  if t.bmode || t.idle || t.ragged then none
  else some (t.bHull s (stepHull
    ((t.outer.filter (fun l => l.role == 1 || l.role == 4)).map (fun l => ((t.iters? l).getD 1, l.sb)))))

/-- The pieces of an extent cut into blocks: how many of a length, from which block on. -/
def blockPieces (total blk : Nat) : List (Nat × Nat × Nat) :=
  let n := ceilDiv total blk
  (if n ≤ 1 then [] else [(n - 1, 0, blk)]) ++ (if n = 0 then [] else [(1, n - 1, total - blk * (n - 1))])

/-- The pieces of K: a step each of Kb elements, or one with a stationary B (R246, R254). -/
def Nest.kPieces (t : Nest) : List (Nat × Nat × Nat) := if t.bmode then [(1, 0, t.kx)] else blockPieces t.kx t.pair.2

/-- The ranges of bytes, relative to the base, that an operand of rows or columns covers in its banks: its strides along K and
along its lanes, their pitch, and the dimensions in bytes of the levels outside (R248). -/
def Nest.laneRanges (s : State) (t : Nest) (fmt : Nat) (p : Place) (k lane : Int) (lanes pitch : Nat) (outer : List Dim) :
    List (Int × Int) :=
  t.kPieces.flatMap (fun x => (blockPieces lanes 32).flatMap (fun y =>
    bankRanges 1 ([(runBytes s fmt p x.2.2, 1, 0), (x.1, k, x.2.1), (y.2.2, (pitch : Int), 0), (y.1, lane, y.2.1)] ++ outer)))

/-- The first element of A. -/
def Nest.aBase (t : Nest) : Place := match t.arec with | some r => r.base | none => t.abase

/-! ## MLT (R245, R246, R250, R412) -/

/-- Level word n of a table. -/
def levelWord (raw n : Nat) : Nat := bits raw (128 * n) 128

/-- The accumulator type of a table's pair, and the bytes of its C tile. -/
def rawPair (raw : Nat) : Option (Nat × Nat) :=
  (nestPair (bits raw 840 8) (bits raw 832 8) (bit raw 793)).map (fun p => (p.1, if p.1 = 2 then 8192 else 4096))

/-- The bad bits of a loop-nest table's own fields (R412). -/
def nestBad (raw : Nat) : List Nat :=
  let role (n : Nat) : Nat := bits (levelWord raw n) 29 3
  let roles := (List.range 6).map role
  (List.range 6).flatMap (fun n =>
      let w := levelWord raw n
      let o := 128 * n
      (if bit w 28 then badZero raw (o + 4) 20 else []) ++ badZero raw (o + 24) 4
        ++ badIf (5 < role n || (n == 0) != (role n == 3)) (o + 29))
    ++ badIf (roles.count 1 ≠ 1 || roles.count 2 ≠ 1 || 1 < roles.count 5) 29
    ++ badZero raw 768 23 ++ (if bit raw 793 then badZero raw 812 2 else []) ++ (if bit raw 796 then badZero raw 896 64 else [])
    ++ (match rawPair raw with
      | some (acc, tile) => badIf (bit raw 795 && acc ≠ 0) 795 ++ badZero raw 798 (lowBit 14 tile)
      | none => badZero raw 798 12)

/-- A table's own fields from bit 0 upward: its pair (0x15) stands at its formats, bits 832 to 847 (R401, R412). -/
def checkOwn (ga raw : Nat) : Except Cause Unit :=
  let bad := nestBad raw
  andThen (checkBad 0x0C ga (bad.filter (· < 832)))
    (andThen (chk (rawPair raw).isSome 0x15 (bits raw 840 8) (bits raw 832 8) 0) (checkBad 0x0C ga bad))

/-- A level's trip (R246, R407). -/
def levelTrip (t : Strand) (w : Nat) : Except Cause Nat :=
  if bit w 28 then
    let v := tabGet 0 t.e (bits w 0 4)
    if 2 ^ 24 ≤ v then .error ⟨0x7F, bits w 0 4, v, 0⟩ else .ok v
  else .ok (bits w 0 24)

/-- The levels of a table. -/
def readLevels (t : Strand) (raw : Nat) : Except Cause (List Level) :=
  (List.range 6).foldl (fun (r : Except Cause (List Level)) n =>
    match r with
    | .error c => .error c
    | .ok l =>
      let w := levelWord raw n
      match levelTrip t w with
      | .error c => .error c
      | .ok v => .ok (l ++ [⟨bits w 29 3, v, sgn (bits w 96 32) 32, sgn (bits w 64 32) 32, sgn (bits w 32 32) 32⟩])) (.ok [])

/-- The table's bits with every trip literal (R266). -/
def resolvedTable (raw : Nat) (l : List Level) : Nat :=
  (List.range 6).foldl (fun v n =>
    let o := 128 * n
    v - place (bits v o 32) o 32 + ((nth (l.map (·.role)) n) * 2 ^ 29 + nth (l.map (·.trip)) n) * 2 ^ o) raw

/-- The checks of the table against A's record, its pair and its tiles (R247, R249, R412). -/
def checkNest (s : State) (ga : Nat) (t : Nest) (kmax : Nat) : Except Cause Unit :=
  let bad (o : Nat) : Except Cause Unit := .error ⟨0x0C, ga, o, 0⟩
  andThen (match t.arec with
    | some r =>
      if r.fmt ≠ t.afmt then bad 840
      else if r.ragged then (if r.rdim ≠ 1 then bad 960 else .ok ())
      else if (r.ext.drop 2).any (· != 1) then bad 960 else .ok ()
    | none => .ok ())
  (andThen (if t.segs && !t.ragged then bad (128 * (t.levels.findIdx (fun l => l.role == 5)) + 29) else .ok ())
  (andThen (let k := t.kIters; let lim := Nat.min 65536 (kmax + 1); chk (k ≤ lim) 0x76 ga k lim)
  (andThen (if t.idle then .ok ()
    else
      let l := t.outer.filter (fun l => l.role != 0) |>.map (fun l => ((t.iters? l).getD 1, l.sc))
      let (lo, hi) := stepHull l
      let lo := lo + t.cbase
      let hi := hi + t.cbase
      let off := l.any (fun x => decide (1 < x.1) && x.2 % t.tileBytes != 0)
      chk (!off && 0 ≤ lo && hi ≤ (16384 - t.tileBytes : Nat)) 0x75 ga (wrap (if 0 ≤ lo then hi else lo) 64) 16384)
  (andThen (match t.aSpan s with | some sp => checkSpan t.aBase (tagged t.aBase) sp | none => .ok ())
  (andThen (match t.bSpan s with | some sp => checkSpan t.bbase (tagged t.bbase) sp | none => .ok ())
    (chk (!t.rsc || t.idle || t.ragged || t.rsoff.off + 4 * t.mx ≤ 2 ^ 20) 0x22 (tagged t.rsoff) 0 0))))))

/-- Reads a loop-nest table (R245, R250): the nest and its payload. DESIGN CHOICE: bdraw has no effect where bmode = 1 (log 97). -/
def readNest (s : State) (a : At) (ga : Nat) : Except Cause (Nest × List Byte) :=
  match readStruct s a ga 64 128 with
  | .error c => .error c
  | .ok (_, raw) =>
    match checkOwn ga raw with
    | .error c => .error c
    | .ok _ =>
      let draw := bit raw 792
      let bdraw := bit raw 791
      let rec_ := bit raw 797
      let bmode := bit raw 796
      let av := bits raw 960 64
      let bv := bits raw 896 64
      let aa := if draw then opAddr true av else av
      let ba := if bdraw then opAddr true bv else bv
      match readLevels (strandAt s a) raw with
      | .error c => .error c
      | .ok levels =>
        match (if rec_ then (readLayout s a av draw).map some else .ok none) with
        | .error c => .error c
        | .ok r =>
          match andThen (match r with
              | some r => andThen (checkBase (if draw then [3] else [2, 3]) draw r.tag) (checkOffs r.lay)
              | none => checkAddr (if draw then [3] else [2, 3]) 0 0 aa aa)
              (if bmode then .ok () else checkAddr (if bdraw then [3] else [2, 3]) 0 0 ba ba) with
          | .error c => .error c
          | .ok _ =>
            let t : Nest :=
              { levels := levels, abase := placeOf a.c aa, arec := r.map (·.lay), bbase := placeOf a.c ba
                arow := bits raw 872 24, brow := bits raw 848 24, afmt := bits raw 840 8, bfmt := bits raw 832 8
                rsoff := ⟨2, a.c, bits raw 812 20⟩, cbase := bits raw 798 14, bmode := bmode, mask := bit raw 795
                init := bit raw 794, rsc := bit raw 793
                adraw := if draw then some (match r with | some r => r.tag | none => av) else none
                bdraw := if bdraw && !bmode then some bv else none
                raw := resolvedTable raw levels }
            match checkNest s ga t (jobAt s (jobOf s a)).kmax with
            | .error c => .error c
            | .ok _ => .ok (t, leBytes 128 t.raw ++ (match r with | some r => r.payload | none => []))

/-- Resolves MLT (R250). -/
def resolveMlt (s : State) (a : At) (ga _gb _gc : Nat) : ResE :=
  match readNest s a ga with
  | .error c => .error c
  | .ok (t, pay) => .ok ⟨.mlt t, [], pay⟩

/-! ## MGO (R251, R252) -/

/-- A draw over bytes relative to a place; ragged operands are left to the engine. -/
def spanDraw (h : Nat) (p : Place) (sp : Option (Int × Int)) : Draw :=
  match sp with | some sp => ⟨h, (p.shift sp.1).off, (sp.2 - sp.1).toNat⟩ | none => ⟨h, p.off, 0⟩

/-- The draws of the nest that an MGO pushed now will run (R251). -/
def nestDraws (s : State) (t : Nest) : List Draw :=
  (match t.adraw with | some h => [spanDraw h t.aBase (t.aSpan s)] | none => [])
    ++ (match t.bdraw with | some h => [spanDraw h t.bbase (t.bSpan s)] | none => [])

/-- Resolves MGO (R251). -/
def resolveMgo (w : Word) (s : State) (a : At) (ga _gb _gc : Nat) : ResE :=
  let t := ((coreAt s a.c).regs.lastMlt).getD .empty
  match andThen (chk (ga < 2 ^ 48) 0x02 w.toNat ga 0) (chk (ga = 0 || t.aBase.space = 3) 0x17 (tagged t.aBase) 0 0) with
  | .error c => .error c
  | .ok _ => .ok ⟨.mgo ga, nestDraws s t, []⟩

/-! ## MLDW, MMASK, MZERO, MSTAT (R253, R259, R262, R263) -/

/-- Elements that a column stores: all, two of four, one of four. -/
def keptOf (form k : Nat) : Nat := if form = 0 then k else if form = 1 then k / 2 else k / 4

/-- Resolves MLDW: 0 dense, 1 .s24, 2 .s14 (R253). -/
def resolveMldw (form : Nat) (s : State) (a : At) (ga gb gc : Nat) : ResE :=
  let fmt := bits gc 32 8
  let k := bits gc 5 8 + 1
  let n := bits gc 0 5 + 1
  let pitch := bits gc 40 24
  let draw := bit gc 31
  let va := opAddr draw ga
  let spaces := if draw then [3] else [2, 3]
  let kb := bFormatKb fmt
  match andThen (checkAddr spaces 0 0 va va) (andThen (if form = 0 then .ok () else checkAddr [2] 16 (16 * n) gb gb)
      (checkBad 0x14 gc (badIf (if form = 0 then decide (kb < k) else k % 4 ≠ 0 || decide (2 * kb < k)) 5 ++ badZero gc 13 18
        ++ badIf (draw && bits ga 60 4 ≠ 3) 31 ++ badIf (kb = 0 || (form ≠ 0 && !sparseFmt fmt)) 32))) with
  | .error c => .error c
  | .ok _ =>
    let p := placeOf a.c va
    let len := (n - 1) * pitch + runBytes s fmt p (keptOf form k)
    match checkAddr spaces 0 len va va with
    | .error c => .error c
    | .ok _ => .ok ⟨.mldw form p (placeOf a.c gb) pitch fmt k n, drawOf draw ga p len, []⟩

/-- Resolves MSWAP (R255). -/
def resolveMswap (_ : State) (_ : At) (_ga _gb _gc : Nat) : ResE := .ok ⟨.mswap, [], []⟩

/-- The bad bits of a mask block (R257). -/
def maskBad (raw : Nat) : List Nat := (List.range 32).flatMap (fun r => badZero raw (64 * r + 36) 28) ++ badZero raw (2048 + 288) 224

/-- Resolves MMASK (R259). -/
def resolveMmask (s : State) (a : At) (ga _gb _gc : Nat) : ResE :=
  match readStruct s a ga 64 320 with
  | .error c => .error c
  | .ok (p, raw) => match checkBad 0x0D ga (maskBad raw) with
    | .error c => .error c
    | .ok _ => .ok ⟨.mmask p, [], leBytes 320 raw⟩

/-- Resolves MZERO (R262). -/
def resolveMzero (w : Word) (_ : State) (_ : At) (ga _gb _gc : Nat) : ResE :=
  if 16 ≤ ga then .error ⟨0x02, w.toNat, ga, 0⟩ else .ok ⟨.mzero ga, [], []⟩

/-- Resolves MSTAT (R263). -/
def resolveMstat (_ : State) (_ : At) (_ga _gb _gc : Nat) : ResE := .ok ⟨.mstat, [], []⟩

/-! ## MDRAIN (R260, R261) -/

/-- Output formats of a drain. -/
def drainFmt (o : Nat) : Bool := [1, 2, 3, 4, 5, 8, 9, 0xA, 0xC, 0xD, 0xE].contains o

/-- The drain control word. -/
def drainWord (w scale : Nat) : Drain where
  pitch := bits w 40 24
  ofmt := bits w 32 8
  rm := bits w 29 3
  res := bit w 28
  scl := bit w 27
  f64 := bit w 26
  tile := bits w 24 2
  row0 := bits w 11 5
  nrows := bits w 5 6
  ncols := bits w 0 5 + 1
  scale := scale

/-- Resolves MDRAIN: 0 .p, 1 .port, 2 .sel (R261). -/
def resolveDrain (w : Word) (form : Nat) (_ : State) (a : At) (ga gb gc : Nat) : ResE :=
  let d := drainWord gb (gc % 2 ^ 32)
  let none_ := form == 2 && ga == 0
  let len := (d.nrows - 1) * d.pitch + d.ncols * fmtBytes d.ofmt
  match andThen (if form = 1 then chk (ga < 16) 0x02 w.toNat ga 0 else if none_ then .ok () else checkAddr [2, 3] 0 0 ga ga)
      (andThen (if form = 2 then andThen (chk (gc < 2 ^ 20) 0x02 w.toNat gc 0) (chk (gc % 64 = 0) 0x20 gc 64 0) else .ok ())
        (andThen (checkBad 0x13 gb (badIf (32 < d.nrows) 5 ++ badIf (32 < d.row0 + d.nrows) 11 ++ badZero gb 16 8
            ++ badIf (d.f64 && d.tile % 2 = 1) 24 ++ badIf (d.scl && form = 2) 27 ++ badIf (5 ≤ d.rm) 29
            ++ badIf (!drainFmt d.ofmt) 32 ++ (if form = 1 then badZero gb 40 24 else [])))
          (if form = 1 || none_ || d.nrows = 0 then .ok () else checkAddr [2, 3] 0 len ga ga))) with
  | .error c => .error c
  | .ok _ =>
    .ok ⟨.mdrain form (if form = 1 || none_ then none else some (placeOf a.c ga)) (ga % 16) d ⟨2, a.c, gc % 2 ^ 20⟩, [], []⟩

/-! ## The words -/

/-- MLT (R250). -/
def execMlt (t : BitVec 2) (g : BitVec 2) (x : BitVec 5) (s : State) :
    Host.Outcome State Fault Refusal :=
  engIssue 2 (wE 48 ((0 : BitVec 1) ++ t) ((0 : BitVec 1) ++ g) x 0 0 0) t.toNat g.toNat x 0 0 resolveMlt s

/-- MGO (R251). -/
def execMgo (t : BitVec 2) (g : BitVec 2) (x : BitVec 5) (s : State) :
    Host.Outcome State Fault Refusal :=
  engIssue 2 (wE 48 ((0 : BitVec 1) ++ t) ((0 : BitVec 1) ++ g) x 0 0 1) t.toNat g.toNat x 0 0 (resolveMgo (wE 48 ((0 : BitVec 1) ++ t) ((0 : BitVec 1) ++ g) x 0 0 1)) s

/-- MLDW_DENSE (R253). -/
def execMldwDense (t : BitVec 2) (g : BitVec 2) (x : BitVec 5) (z : BitVec 5) (s : State) :
    Host.Outcome State Fault Refusal :=
  engIssue 2 (wE 49 ((0 : BitVec 1) ++ t) ((0 : BitVec 1) ++ g) x 0 z 0) t.toNat g.toNat x 0 z (resolveMldw 0) s

/-- MLDW_S24 (R253). -/
def execMldwS24 (t : BitVec 2) (g : BitVec 2) (x : BitVec 5) (y : BitVec 5) (z : BitVec 5) (s : State) :
    Host.Outcome State Fault Refusal :=
  engIssue 2 (wE 49 ((0 : BitVec 1) ++ t) ((0 : BitVec 1) ++ g) x y z 1) t.toNat g.toNat x y z (resolveMldw 1) s

/-- MLDW_S14 (R253). -/
def execMldwS14 (t : BitVec 2) (g : BitVec 2) (x : BitVec 5) (y : BitVec 5) (z : BitVec 5) (s : State) :
    Host.Outcome State Fault Refusal :=
  engIssue 2 (wE 49 ((0 : BitVec 1) ++ t) ((0 : BitVec 1) ++ g) x y z 2) t.toNat g.toNat x y z (resolveMldw 2) s

/-- MSWAP (R255). -/
def execMswap (t : BitVec 2) (g : BitVec 2) (s : State) :
    Host.Outcome State Fault Refusal :=
  engIssue 2 (wE 49 ((0 : BitVec 1) ++ t) ((0 : BitVec 1) ++ g) 0 0 0 3) t.toNat g.toNat 0 0 0 resolveMswap s

/-- MMASK (R259). -/
def execMmask (t : BitVec 2) (g : BitVec 2) (x : BitVec 5) (s : State) :
    Host.Outcome State Fault Refusal :=
  engIssue 2 (wE 50 ((0 : BitVec 1) ++ t) ((0 : BitVec 1) ++ g) x 0 0 0) t.toNat g.toNat x 0 0 resolveMmask s

/-- MZERO (R262). -/
def execMzero (t : BitVec 2) (g : BitVec 2) (x : BitVec 5) (s : State) :
    Host.Outcome State Fault Refusal :=
  engIssue 2 (wE 50 ((0 : BitVec 1) ++ t) ((0 : BitVec 1) ++ g) x 0 0 1) t.toNat g.toNat x 0 0 (resolveMzero (wE 50 ((0 : BitVec 1) ++ t) ((0 : BitVec 1) ++ g) x 0 0 1)) s

/-- MDRAIN_P (R261). -/
def execMdrainP (t : BitVec 2) (g : BitVec 2) (x : BitVec 5) (y : BitVec 5) (z : BitVec 5) (s : State) :
    Host.Outcome State Fault Refusal :=
  engIssue 2 (wE 51 ((0 : BitVec 1) ++ t) ((0 : BitVec 1) ++ g) x y z 0) t.toNat g.toNat x y z (resolveDrain (wE 51 ((0 : BitVec 1) ++ t) ((0 : BitVec 1) ++ g) x y z 0) 0) s

/-- MDRAIN_PORT (R337). -/
def execMdrainPort (t : BitVec 2) (g : BitVec 2) (x : BitVec 5) (y : BitVec 5) (z : BitVec 5) (s : State) :
    Host.Outcome State Fault Refusal :=
  engIssue 2 (wE 51 ((0 : BitVec 1) ++ t) ((0 : BitVec 1) ++ g) x y z 1) t.toNat g.toNat x y z (resolveDrain (wE 51 ((0 : BitVec 1) ++ t) ((0 : BitVec 1) ++ g) x y z 1) 1) s

/-- MDRAIN_SEL (R261). -/
def execMdrainSel (t : BitVec 2) (g : BitVec 2) (x : BitVec 5) (y : BitVec 5) (z : BitVec 5) (s : State) :
    Host.Outcome State Fault Refusal :=
  engIssue 2 (wE 51 ((0 : BitVec 1) ++ t) ((0 : BitVec 1) ++ g) x y z 2) t.toNat g.toNat x y z (resolveDrain (wE 51 ((0 : BitVec 1) ++ t) ((0 : BitVec 1) ++ g) x y z 2) 2) s

/-- MSTAT (R263). -/
def execMstat (t : BitVec 2) (g : BitVec 2) (s : State) :
    Host.Outcome State Fault Refusal :=
  engIssue 2 (wE 52 ((0 : BitVec 1) ++ t) ((0 : BitVec 1) ++ g) 0 0 0 0) t.toNat g.toNat 0 0 0 resolveMstat s

end Sys2Proof.Machine
end

