-- ==== Sys2Proof/Machine/VectorUnit.lean ====
section
/-! DEFINITION. The vector engine at work (R220 to R242): rows, element decoding and encoding, and the body of every form. -/

namespace Sys2Proof.Machine

/-! ## Elements (R222) -/

/-- The type in which a format's elements are computed: FP32, s32 or n32. -/
def elemType (fmt : Nat) : Nat := if isFloat fmt || fmtBlock fmt then 2 else if isSigned fmt then 0x0A else 0x0E

/-- dec: element n as a 32-bit value. -/
def dec32 (s : State) (key : Nat) (taken : List (Nat × List Byte)) (fmt : Nat) (p : Place) (n : Int) : Except Cause Nat :=
  match elemValue s key taken fmt p n with
  | .error c => .error c
  | .ok v => .ok (encodeFmt (elemType fmt) 0 v)

/-- enc: a 32-bit value of a type in a destination's format. -/
def enc32 (fmt rm type v : Nat) : Nat := encodeFmt fmt rm (decodeFmt type v)

/-- The number of the i-th element that a region visits. -/
def Region.elem (s : State) (key : Nat) (r : Region) (i : Nat) : Int := dimElem (r.dims s key) i

/-- The i-th element's value. -/
def Region.get (s : State) (key : Nat) (taken : List (Nat × List Byte)) (r : Region) (i : Nat) : Except Cause Nat :=
  dec32 s key taken r.fmt r.base (r.elem s key i)

/-- The bytes of elements lo to hi - 1. -/
def Region.spans (s : State) (key : Nat) (r : Region) (lo hi : Nat) : List (Place × Nat) :=
  (List.range (hi - lo)).flatMap (fun i => elemBytes s r.fmt r.base (r.elem s key (lo + i)))

/-- The i-th element's place with new bytes. -/
def Region.put (s : State) (key : Nat) (r : Region) (i v : Nat) : Place × List Byte :=
  (r.base.shift (r.elem s key i * fmtBytes r.fmt), leBytes (fmtBytes r.fmt) v)

/-- All results of a list, or the first error. -/
def allOk {α β : Type} (f : α → Except Cause β) : List α → Except Cause (List β)
  | [] => .ok []
  | x :: t => match f x with
    | .error c => .error c
    | .ok v => (match allOk f t with | .error c => .error c | .ok l => .ok (v :: l))

/-! ## A row (R223) -/

/-- A row of a vector entry: its reads with their qualifiers, the later reads of the entry's `.take` sources, its body, the places it
writes later, and what follows it. -/
structure RowJob where
  reads : List (Nat × List (Place × Nat))
  later : List (Place × Nat)
  body : State → List (Nat × List Byte) → Prog → Except Cause (List (Place × List Byte) × Prog)
  laterWrites : List (Place × Nat)
  next : Entry → Entry

/-- The consuming reads of a row, source by source. -/
def rowTake (later : List (Place × Nat)) : List (Nat × List (Place × Nat)) → Took → Took
  | [], r => r
  | (q, l) :: t, r => rowTake later t (if q = 0 then r else takeGranules (q == 2) later (granuleSet l) r)

/-- The first poisoned unit of ranges. -/
def rangesPoison (s : State) (key : Nat) (l : List (Place × Nat)) : Option Cause :=
  if s.poison.isEmpty then none else l.findSome? (fun r => (placePoison s key r.1 r.2).map (poisonCause key r.1 r.2))

/-- Writes places. -/
def putPlaces (s : State) (key : Nat) (l : List (Place × List Byte)) : State := l.foldl (fun s w => putPlace s key w.1 w.2) s

/-- Performs a row, or what stands in its way: an empty granule, poison, a cause of its body. -/
def runRow (s : State) (c : Nat) (e : Entry) (j : RowJob) : State :=
  let key := keyOfEntry s e
  let r := rowTake j.later j.reads ⟨s, e.prog.taken, e.prog.cleared, none⟩
  let e := { e with prog := { e.prog with taken := r.got, cleared := r.clr } }
  match r.empty with
  | some (core, off) => holdEntry r.s c e (.granule (granuleName (sourceSpace (j.reads.flatMap (·.2))) core off))
  | none =>
    let s := r.s
    match rangesPoison s key (j.reads.flatMap (·.2)) with
    | some cause => failEntry s c e cause
    | none => match j.body s r.got e.prog with
      | .error cause => failEntry s c e cause
      | .ok (w, p) =>
        let s := fillWritten (putPlaces s key w) (w.map (fun x => (x.1, x.2.length))) j.laterWrites
        putEntry s c (j.next { e with prog := { p with taken := [], cleared := [] }, wait := .none, waited := 0 })

/-- Elements [lo, hi) of row r of n. -/
def rowRange (n r : Nat) : Nat × Nat := (64 * r, Nat.min n (64 * r + 64))

/-- The next row, and the end after the last. -/
def nextRow (n : Nat) (result : Entry → Option Nat) (e : Entry) : Entry :=
  let r := e.prog.row + 1
  let e := { e with prog := { e.prog with row := r } }
  if n ≤ 64 * r then e.finish (result e) else e

/-- What row r reads of a source: its elements, or in row 0 the one element of a broadcast source. -/
def sourceReads (s : State) (key n row : Nat) (r : Region) : Nat × List (Place × Nat) :=
  let (lo, hi) := rowRange n row
  if r.count s key = 1 ∧ n ≠ 1 then (r.q, if row = 0 then r.spans s key 0 1 else []) else (r.q, r.spans s key lo hi)

/-- What later rows read of a `.take` source. -/
def sourceLater (s : State) (key n row : Nat) (r : Region) : List (Place × Nat) :=
  if r.q ≠ 2 ∨ (r.count s key = 1 ∧ n ≠ 1) then [] else r.spans s key (rowRange n row).2 n

/-- The values of a source in a row: its elements, or the broadcast value, which prog.acc keeps under index k. -/
def sourceVals (s : State) (key n row : Nat) (taken : List (Nat × List Byte)) (p : Prog) (k : Nat) (r : Region) :
    Except Cause (List Nat) :=
  let (lo, hi) := rowRange n row
  if r.count s key = 1 ∧ n ≠ 1 then
    (if row = 0 then r.get s key taken 0 else .ok (nth p.acc k)).map (fun v => List.replicate (hi - lo) v)
  else allOk (fun i => r.get s key taken (lo + i)) (List.range (hi - lo))

/-- A row of an instruction whose destination's elements are formed one by one. -/
def mapRow (s : State) (key n row : Nat) (d : Region) (srcs : List Region) (extra : List (Place × Nat))
    (body : State → List (Nat × List Byte) → Prog → Except Cause (List (Place × List Byte) × Prog))
    (result : Entry → Option Nat) : RowJob where
  reads := srcs.map (sourceReads s key n row) ++ [(0, extra)]
  later := srcs.flatMap (sourceLater s key n row)
  body := body
  laterWrites := d.spans s key (rowRange n row).2 n
  next := nextRow n result

/-! ## VCHAIN (R228) -/

/-- The chain's value for one element. -/
def chainValue (ch : Chain) (src : List Nat) (i : Nat) : Nat :=
  nth (ch.ops.foldl (fun t o =>
    let g := chainSel src i ch.consts t
    setNth t o.dst (elemOp o.code o.rm (g o.x) (g o.y) (g o.z))) (List.replicate 8 0)) ch.out

/-- The type of a chain's result. -/
def chainType (ch : Chain) : Nat := if ch.otype = 0 then 2 else if ch.otype = 1 then 0x0A else 0x0E

/-- A row of a VCHAIN. -/
def chainRow (s : State) (key : Nat) (e : Entry) (d : Region) (l : List (Option Region)) (ch : Chain) : RowJob :=
  let n := d.count s key
  let row := e.prog.row
  let (lo, hi) := rowRange n row
  mapRow s key n row d (l.filterMap id) []
    (fun s taken p =>
      let vals := allOk (fun (x : Option Region × Nat) => match x.1 with
        | some r => sourceVals s key n row taken p x.2 r
        | none => .ok []) (l.zipIdx)
      match vals with
      | .error c => .error c
      | .ok v =>
        let out := (List.range (hi - lo)).map (fun i =>
          d.put s key (lo + i) (enc32 d.fmt ch.rm (chainType ch) (chainValue ch (v.map (fun x => nth x i)) (lo + i))))
        .ok (out, { p with acc := v.map (fun x => nth x 0) }))
    (fun _ => none)

/-! ## VRED (R88, R231) -/

/-- The value of a 32-bit pattern of an element type. -/
def typeInt (type v : Nat) : Int := if type = 0x0A then sgn v 32 else v

/-- Is v better than the best so far, for a maximum or a minimum? NaN is handled apart. -/
def better (type : Nat) (wantMax : Bool) (v best : Nat) : Bool :=
  match (decodeFmt type v).cmp (decodeFmt type best) with
  | some c => if wantMax then decide (0 < c) else decide (c < 0)
  | none => false

/-- The selected element and its index: the lowest among equals; the first NaN where there is one (R73). -/
def argSelect (type : Nat) (wantMax : Bool) (l : List Nat) : Nat × Nat :=
  match l.zipIdx.find? (fun x => decodeFmt type x.1 == .nan) with
  | some x => (canonNaN 2, x.2)
  | none => l.zipIdx.foldl (fun b x => if better type wantMax x.1 b.1 then x else b) (nth l 0, 0)

/-- A group's output (R231). -/
def redValue (fn fmt ofmt rm : Nat) (l : List Nat) : Nat :=
  let t := elemType fmt
  if fn = 0 ∨ fn = 5 then
    if t = 2 then enc32 ofmt rm 2 (treeSum l.length (if fn = 5 then l.map (fun x => fmulBits 2 0 x x) else l))
    else encodeFmt ofmt rm (.fin (.int (l.foldl (fun (a : Int) v =>
      let i := typeInt t v; a + (if fn = 5 then i * i else i)) 0)) none)
  else
    let (v, i) := argSelect t (fn = 1 || fn = 3) l
    if fn = 1 ∨ fn = 2 then enc32 ofmt 0 t v else v + i * 2 ^ 32

/-- A row of a VRED: prog.acc holds the elements of the open group, prog.count the groups done, prog.red the output of group
0. -/
def redRow (s : State) (key : Nat) (e : Entry) (fn : Nat) (r : Region) (dst : Option Place) (ctl : VCtl) : RowJob :=
  let n := r.count s key
  let row := e.prog.row
  let (_, hi) := rowRange n row
  let size := redSize fn ctl.ofmt
  { reads := [sourceReads s key n row r], later := sourceLater s key n row r
    body := fun s taken p =>
      match sourceVals s key n row taken p 0 r with
      | .error c => .error c
      | .ok v =>
        let all := p.acc ++ v
        let g := if ctl.g = 0 then n else ctl.g
        let groups := chunks g all
        let done := if hi = n then groups else groups.filter (fun x => x.length == g)
        let rest := if hi = n then [] else all.drop (g * done.length)
        let outs := done.map (redValue fn r.fmt ctl.ofmt ctl.rm)
        let writes := match dst with
          | none => []
          | some d => outs.zipIdx.map (fun x => (d.plus ((p.count + x.2) * size), leBytes size x.1))
        .ok (writes, { p with
          acc := rest, count := p.count + done.length
          red := if p.count = 0 then nth outs 0 else p.red })
    laterWrites := match dst with
      | none => []
      | some d =>
        let g := if ctl.g = 0 then n else ctl.g
        let have_ := e.prog.acc.length + (hi - 64 * row)
        let k := e.prog.count + (if hi = n then ceilDiv have_ g else have_ / g)
        [(d.plus (k * size), (redGroups n ctl.g - k) * size)]
    next := nextRow n (fun e => resIf ctl.res e.prog.red) }

/-! ## VSCAN (R232) -/

/-- Outputs of a scan from element i on: the accumulator, if the group has begun, and the values. An exact sum that is zero has no
sign (R471). -/
def scanOuts (fn t g : Nat) (excl : Bool) (fmt rm : Nat) : Nat → Option Nat → List Nat → List Nat × Option Nat
  | _, acc, [] => ([], acc)
  | i, acc, x :: l =>
    let acc := if i % g = 0 then none else acc
    let wide (a : Nat) : FV := if t = 2 then decodeFmt 2 a else .fin (.int (sgn a 128)) (if fn = 0 then none else some false)
    let x' := if t = 2 then x else wrap (typeInt t x) 128
    let next := match acc with
      | none => if t = 2 ∧ fn = 1 then canonical 2 x else x'
      | some a =>
        if t = 2 then (if fn = 0 then faddBits 2 0 a x else fminmax 2 true a x)
        else if fn = 0 then wrap (sgn a 128 + sgn x' 128) 128 else (if sgn a 128 < sgn x' 128 then x' else a)
    let first := if fn = 0 then encodeFmt fmt rm (.fin (.int 0) (some false)) else encodeFmt fmt rm (.inf true)
    let out := if excl then (match acc with | none => first | some a => encodeFmt fmt rm (wide a)) else encodeFmt fmt rm (wide next)
    let (o, a) := scanOuts fn t g excl fmt rm (i + 1) (some next) l
    (out :: o, a)

/-- A row of a VSCAN: prog.acc holds the running value, prog.red the last output. -/
def scanRow (s : State) (key : Nat) (e : Entry) (fn : Nat) (d r : Region) (ctl : VCtl) : RowJob :=
  let n := r.count s key
  let row := e.prog.row
  let (lo, _) := rowRange n row
  mapRow s key n row d [r] []
    (fun s taken p =>
      match sourceVals s key n row taken p 0 r with
      | .error c => .error c
      | .ok v =>
        let (o, a) := scanOuts fn (elemType r.fmt) (if ctl.g = 0 then n else ctl.g) ctl.excl d.fmt ctl.rm lo p.acc.head? v
        .ok (o.zipIdx.map (fun x => d.put s key (lo + x.2) x.1), { p with acc := a.toList, red := o.getLastD p.red }))
    (fun e => resIf ctl.res e.prog.red)

/-! ## VGATH and VSCAT (R233) -/

/-- The index that says skip. -/
def skipIdx : Nat := 0xFFFFFFFF

/-- Entry i of an index vector. -/
def idxAt (s : State) (ix : Place) (i : Nat) : Nat := leNat (fetchPlace s 0 (ix.plus (4 * i)) 4)

/-- The indices of a row, or the first that is out of range (0x71). -/
def rowIdx (s : State) (ix : Place) (count lo hi : Nat) : Except Cause (List Nat) :=
  allOk (fun i =>
    let v := idxAt s ix (lo + i)
    if v = skipIdx ∨ v < count then .ok v else .error ⟨0x71, lo + i, v, count⟩) (List.range (hi - lo))

/-- The table elements a row names. -/
def tableSpans (s : State) (key : Nat) (t : Region) (l : List Nat) : List (Place × Nat) :=
  (l.filter (· != skipIdx)).flatMap (fun v => elemBytes s t.fmt t.base (t.elem s key v))

/-- The indices of the rows after element hi that name an element of a table. -/
def laterIdx (s : State) (ix : Place) (count n hi : Nat) : List Nat :=
  ((List.range (n - hi)).map (fun i => idxAt s ix (hi + i))).filter (fun v => decide (v < count))

/-- Indices not skipped. -/
def movedOf (l : List Nat) : Nat := (l.filter (· != skipIdx)).length

/-- A row of a VGATH. -/
def gathRow (s : State) (key : Nat) (e : Entry) (d t : Region) (ix : Place) (ctl : VCtl) : Except Cause RowJob :=
  let n := d.count s key
  let row := e.prog.row
  let (lo, hi) := rowRange n row
  match rowIdx s ix (t.count s key) lo hi with
  | .error c => .error c
  | .ok l =>
    let late := if t.q ≠ 2 then [] else tableSpans s key t (laterIdx s ix (t.count s key) n hi)
    let base := mapRow s key n row d [] [(ix.plus (4 * lo), 4 * (hi - lo))]
      (fun s taken p =>
        match allOk (fun v => if v = skipIdx then .ok none else (t.get s key taken v).map some) l with
        | .error c => .error c
        | .ok v =>
          .ok (v.zipIdx.map (fun x => d.put s key (lo + x.2) (match x.1 with
            | some v => enc32 d.fmt ctl.rm (elemType t.fmt) v
            | none => 0)), { p with count := p.count + movedOf l }))
      (fun e => resIf ctl.res e.prog.count)
    .ok { base with reads := base.reads ++ [(t.q, tableSpans s key t l)], later := late }

/-- The new value of a table element (R233). -/
def scatValue (fn rm fmt old type v : Nat) : Nat :=
  let o := decodeFmt fmt old
  let x := decodeFmt type v
  if fn = 0 then encodeFmt fmt rm x
  else if fn = 1 then encodeFmt fmt rm (.sum [o, x])
  else if fn = 2 then (match o.cmp x with
    | none => encodeFmt fmt rm .nan
    | some c => if c < 0 then encodeFmt fmt rm x else old)
  else encodeFmt fmt rm (o.mul x)

/-- A row of a VSCAT: its combines in ascending i, each seeing the one before. -/
def scatRow (s : State) (key : Nat) (e : Entry) (fn : Nat) (t r : Region) (ix : Place) (ctl : VCtl) : Except Cause RowJob :=
  let n := r.count s key
  let row := e.prog.row
  let (lo, hi) := rowRange n row
  match rowIdx s ix (t.count s key) lo hi with
  | .error c => .error c
  | .ok l =>
    .ok
      { reads := [sourceReads s key n row r, (0, (ix.plus (4 * lo), 4 * (hi - lo)) :: (if fn = 0 then [] else tableSpans s key t l))]
        later := sourceLater s key n row r
        body := fun s taken p =>
          let run := (List.range (hi - lo)).foldl (fun (acc : Except Cause (State × List (Place × List Byte))) i =>
            match acc with
            | .error c => .error c
            | .ok (s, w) =>
              let v := nth l i
              if v = skipIdx then .ok (s, w)
              else match r.get s key taken (lo + i) with
                | .error c => .error c
                | .ok x =>
                  let old := elemBits s key [] t.fmt t.base (t.elem s key v)
                  let put := t.put s key v (scatValue fn ctl.rm t.fmt old (elemType r.fmt) x)
                  .ok (putPlace s key put.1 put.2, w ++ [put])) (.ok (s, []))
          match run with
          | .error c => .error c
          | .ok (_, w) => .ok (w, { p with count := p.count + movedOf l })
        laterWrites := if !t.base.inPond then [] else tableSpans s key t (laterIdx s ix (t.count s key) n hi)
        next := nextRow n (fun e => resIf ctl.res e.prog.count) }

/-! ## VDOT (R86, R87, R234) -/

/-- Exact product sum of elements [lo, hi) of weight row j with B. -/
def dotSum (s : State) (key : Nat) (taken : List (Nat × List Byte)) (a b : Region) (k j lo hi : Nat) : Except Cause Int :=
  (List.range (hi - lo)).foldl (fun (acc : Except Cause Int) i =>
    match acc with
    | .error c => .error c
    | .ok v =>
      let n := a.elem s key (j * k + lo + i)
      let y := sgn (elemBits s key taken b.fmt b.base (b.elem s key (lo + i))) 8
      if fmtBlock a.fmt then
        let (d, _) := blockPlace s a.fmt a.base (n / fmtL a.fmt)
        match blockInt a.fmt (peekBytes s key taken d (blockBytes a.fmt)) (n % fmtL a.fmt).toNat with
        | .error x => .error ⟨0x70, tagged d, x, 242⟩
        | .ok x => .ok (v + x * y)
      else .ok (v + sgn (elemBits s key taken a.fmt a.base n) 8 * y)) (.ok 0)

/-- An exact integer as a value; an exact zero has no sign (R471). -/
def intFV (i : Int) : FV := .fin (.int i) none

/-- Output j of a VDOT before its encoding: an s32 sum, of which a zero has no sign (R471), or an FP32 value. -/
def dotOut (s : State) (key : Nat) (taken : List (Nat × List Byte)) (fn : Nat) (a b : Region) (k j sb : Nat)
    (rs : Option Nat) : Except Cause FV :=
  let scaled (v : FV) : FV :=
    let v := if sb = 0 then v else v.mul (decodeFmt 2 sb)
    match rs with | some x => v.mul (decodeFmt 2 x) | none => v
  if fn = 0 then
    match dotSum s key taken a b k j 0 k with
    | .error c => .error c
    | .ok p => .ok (if sb = 0 ∧ rs = none then intFV (satInt true 32 p) else decodeFmt 2 (encodeFmt 2 0 (scaled (intFV p))))
  else
    let l := fmtL a.fmt
    ((List.range (ceilDiv k l)).foldl (fun (acc : Except Cause Nat) i =>
      match acc with
      | .error c => .error c
      | .ok sum =>
        match dotSum s key taken a b k j (i * l) (Nat.min k (i * l + l)) with
        | .error c => .error c
        | .ok p =>
          let (_, sc) := blockPlace s a.fmt a.base (a.elem s key (j * k + i * l) / l)
          let v := (intFV p).mul (decodeFmt 4 (leNat (peekBytes s key taken sc 2)))
          .ok (faddBits 2 0 sum (encodeFmt 2 0 (scaled v)))) (.ok 0)).map (decodeFmt 2)

/-- A row of a VDOT: 64 outputs. -/
def dotRow (s : State) (key : Nat) (e : Entry) (fn : Nat) (d a b : Region) (c : Option Region) (sb : Nat) (ctl : VCtl) : RowJob :=
  let n := d.count s key
  let k := b.count s key
  let row := e.prog.row
  let (lo, hi) := rowRange n row
  let more := decide (hi < n)
  { reads := [(a.q, a.spans s key (lo * k) (hi * k)), (b.q, b.spans s key 0 k)]
      ++ (match c with | some c => [sourceReads s key n row c] | none => [])
    later := (if a.q ≠ 2 then [] else a.spans s key (hi * k) (n * k)) ++ (if b.q = 2 ∧ more then b.spans s key 0 k else [])
      ++ (match c with | some c => sourceLater s key n row c | none => [])
    body := fun s taken p =>
      match (match c with | some c => (sourceVals s key n row taken p 0 c).map some | none => .ok none) with
      | .error x => .error x
      | .ok rs =>
        match allOk (fun i => dotOut s key taken fn a b k (lo + i) sb (rs.map (fun l => nth l i))) (List.range (hi - lo)) with
        | .error x => .error x
        | .ok v =>
          .ok (v.zipIdx.map (fun x => d.put s key (lo + x.2) (encodeFmt d.fmt ctl.rm x.1)),
            { p with acc := match rs with | some l => [nth l 0] | none => [] })
    laterWrites := d.spans s key hi n
    next := nextRow n (fun _ => none) }

/-! ## VPERM (R235, R237) -/

/-- Bit of the position that a stage of the Beneš network exchanges. -/
def stageBit (st : Nat) : Nat := [5, 4, 3, 2, 1, 0, 1, 2, 3, 4, 5].getD st 0

/-- The positions a stage's switches exchange, switch 0 first. -/
def stagePairs (j : Nat) : List Nat := (List.range 64).filter (fun p => !bit p j)

/-- The network of R235. -/
def benes (b : Nat) (v : List Nat) : List Nat :=
  (List.range 11).foldl (fun v st =>
    let j := stageBit st
    (stagePairs j).zipIdx.foldl (fun v x =>
      if bit b (32 * st + x.2) then setNth (setNth v x.1 (nth v (x.1 + 2 ^ j))) (x.1 + 2 ^ j) (nth v x.1) else v) v) v

/-- A row of a VPERM: one group of 64. -/
def permRow (s : State) (c key : Nat) (e : Entry) (d r : Region) (ctl : VCtl) : RowJob :=
  let n := d.count s key
  let row := e.prog.row
  let (lo, hi) := rowRange n row
  mapRow s key n row d [r] []
    (fun s taken p =>
      let v := (List.range 64).map (fun i => if lo + i < hi then elemBits s key taken r.fmt r.base (r.elem s key (lo + i)) else 0)
      let o := benes (tabGet 0 (coreAt s c).regs.b ctl.breg) v
      .ok ((List.range (hi - lo)).map (fun i =>
        d.put s key (lo + i) (if d.fmt = r.fmt then nth o i else encodeFmt d.fmt ctl.rm (decodeFmt r.fmt (nth o i)))), p))
    (fun _ => none)

/-- The result of an instruction for which R230 admits res and the spec states no value: a free value (log 8). -/
def freeResult (s : State) (res : Bool) : State × Option Nat :=
  if res then ({ s with freeCount := s.freeCount + 1 }, some (Config.freeWord s.freeCount).toNat) else (s, none)

/-! ## VSEARCH (R239, R240) -/

/-- The FP32 score in a column of a row. -/
def scoreAt (s : State) (key : Nat) (d : Search) (r c : Nat) : Nat :=
  let es := fmtBytes d.fmt
  enc32 2 0 d.fmt (leNat (fetchPlace s key (d.scores.plus ((r * d.rstride + c) * es)) es))

/-- The columns of a row in ranking order, those with NaN left out (R239). -/
def ranking (scores : List Nat) : List Nat :=
  let live := (List.range scores.length).filter (fun c => decodeFmt 2 (nth scores c) != .nan)
  sortBy (fun a b => better 2 true (nth scores a) (nth scores b)) live

/-- The columns selected and the row's final sum (R239). -/
def pickCols (d : Search) (scores : List Nat) : Nat → Nat → List Nat → List Nat × Nat
  | 0, cum, _ => ([], cum)
  | _ + 1, cum, [] => ([], cum)
  | k + 1, cum, c :: t =>
    let cum := faddBits 2 0 cum (nth scores c)
    if d.thr ∧ fcompare 2 (0 ≤ ·) cum d.bound then ([c], cum)
    else let (l, cum) := pickCols d scores k cum t; (c :: l, cum)

/-- Adds an assignment, merging it with one of the same expert (R239). -/
def mergeAssign (l : List (Nat × Nat)) (x w : Nat) : List (Nat × Nat) :=
  if l.any (fun a => a.1 == x) then l.map (fun a => if a.1 = x then (x, faddBits 2 0 a.2 w) else a) else l ++ [(x, w)]

/-- The assignments of a row: (expert, weight) in selection order (R239). -/
def assignRow (s : State) (key : Nat) (d : Search) (map_ : List Nat) (r : Nat) : List (Nat × Nat) :=
  let scores := (List.range d.experts).map (scoreAt s key d r)
  let (cols, cum) := pickCols d scores d.kmax 0 (ranking scores)
  cols.foldl (fun l c =>
    let w := if d.norm then encodeFmt 2 0 ((decodeFmt 2 (nth scores c)).div (decodeFmt 2 cum)) else nth scores c
    mergeAssign l (nth map_ c) w) []

/-- The rows of an expert's admitted assignments (R240). DESIGN CHOICE: a weight that is NaN neither displaces another nor is
displaced, so it stands in row order; R240 does not rank it (log 77). -/
def admitted (cap x : Nat) (rows : List (List (Nat × Nat))) : List Nat :=
  let mine := rows.zipIdx.filterMap (fun r => (r.1.find? (fun a => a.1 == x)).map (fun a => (a.2, r.2)))
  let ranked := sortBy (fun a b => better 2 true a.1 b.1) mine
  let kept := if cap = 0 then ranked else ranked.take cap
  sortBy (fun a b => decide (a < b)) (kept.map (·.2))

/-- A slot of the assignment table (R240). -/
def slotBits (adm : List (List Nat)) (r : Nat) (a : Option (Nat × Nat)) : Nat :=
  match a with
  | none => 0
  | some (x, w) =>
    match (adm.getD x []).findIdx? (· == r) with
    | some p => w + x * 2 ^ 32 + 2 ^ 40 + p * 2 ^ 48
    | none => w + x * 2 ^ 32 + 2 ^ 40 + 2 ^ 41 + 0xFFFF * 2 ^ 48

/-- A VSEARCH whole: its outputs are written after admission. -/
def searchRun (s : State) (c : Nat) (e : Entry) (d : Search) : State :=
  let key := keyOfEntry s e
  let map_ : List Nat := match d.remap with
    | none => List.range d.experts
    | some p => (fetchPlace s 0 p d.experts).map (·.toNat)
  let es := fmtBytes d.fmt
  let reads := (match d.remap with | some p => [(p, d.experts)] | none => [])
    ++ (List.range d.rows).map (fun r => (d.scores.plus (r * d.rstride * es), d.experts * es))
  match rangesPoison s key reads with
  | some cause => failEntry s c e cause
  | none => match map_.zipIdx.find? (fun x => decide (d.experts ≤ x.1)) with
    | some x => failEntry s c e ⟨0x72, x.2, x.1, d.experts⟩
    | none =>
      let rows := (List.range d.rows).map (assignRow s key d map_)
      let adm := (List.range d.experts).map (fun x => admitted d.cap x rows)
      let table := rows.zipIdx.flatMap (fun r => (List.range d.kmax).flatMap (fun k => leBytes 8 (slotBits adm r.2 (r.1[k]?))))
      let s := engineWrite (engineWrite s key d.table table) key d.counts (adm.flatMap (fun l => leBytes 2 l.length))
      let total := (rows.map List.length).sum
      let kept := (adm.map List.length).sum
      putEntry s c ({ e with prog := { e.prog with row := 1 } }.finish (resIf d.res (total - kept)))

/-! ## VFIND (R241) -/

/-- The longest k ≤ m such that the pattern's first k bytes end its first m bytes followed by b. -/
def findStep (pat : List Nat) (b : Nat) : Nat → Nat → Nat
  | 0, _ => if nth pat 0 = b then 1 else 0
  | k + 1, m =>
    let ctx := pat.take m ++ [b]
    if pat.take (k + 2) = ctx.drop (ctx.length - (k + 2)) ∧ k + 2 ≤ ctx.length then k + 2 else findStep pat b k m

/-- Scans bytes from state m on: the state, and the index past the last byte of a match. -/
def findScan (pat : List Nat) : Nat → Nat → List Nat → Nat × Option Nat
  | m, _, [] => (m, none)
  | m, i, b :: t =>
    let m' := findStep pat b m m
    if m' = pat.length then (0, some i) else findScan pat m' (i + 1) t

/-- A row of a VFIND: prog.acc holds the state. DESIGN CHOICE: with a .keep or .take text the granules of the whole row of 64
elements are waited for, and taken, before the scan, those past a match among them; R241 does not say (log 78). -/
def findRow (s : State) (key : Nat) (e : Entry) (pat : List Nat) (r : Region) (st : Nat) : RowJob :=
  let n := r.count s key
  let row := e.prog.row
  let (lo, hi) := rowRange n row
  { reads := [(r.q, r.spans s key lo hi)], later := sourceLater s key n row r
    body := fun s taken p =>
      let v := (List.range (hi - lo)).map (fun i => elemBits s key taken r.fmt r.base (r.elem s key (lo + i)))
      let (m, f) := findScan pat (p.acc.head?.getD st) lo v
      .ok ([], { p with acc := [m], red := match f with | some i => i % 2 ^ 16 * 2 ^ 32 + 2 ^ 5 | none => 0 })
    laterWrites := []
    next := fun e => if e.prog.red ≠ 0 then { e with prog := { e.prog with row := ceilDiv n 64 } }.finish (some e.prog.red) else nextRow n (fun e => some (nth e.prog.acc 0)) e }

/-! ## VCOUNT (R242) -/

/-- A row of a VCOUNT. -/
def countRow (s : State) (key : Nat) (e : Entry) (dst : Place) (m : Nat) (r : Region) (res : Bool) : RowJob :=
  let n := r.count s key
  let row := e.prog.row
  let (lo, hi) := rowRange n row
  { reads := [(r.q, r.spans s key lo hi)], later := sourceLater s key n row r
    body := fun s taken p =>
      let l := (List.range (hi - lo)).map (fun i => elemBits s key taken r.fmt r.base (r.elem s key (lo + i)))
      match rangesPoison s key ((l.filter (· < m)).map (fun v => (dst.plus (4 * v), 4))) with
      | some c => .error c
      | none =>
        let (_, w) := l.foldl (fun (x : State × List (Place × List Byte)) v =>
          if m ≤ v then x
          else
            let at_ := dst.plus (4 * v)
            let b := leBytes 4 (Nat.min (leNat (fetchPlace x.1 key at_ 4) + 1) (2 ^ 32 - 1))
            (putPlace x.1 key at_ b, x.2 ++ [(at_, b)])) (s, [])
        .ok (w, { p with count := p.count + (l.filter (fun v => decide (m ≤ v))).length })
    laterWrites := []
    next := nextRow n (fun e => resIf res e.prog.count) }

/-! ## A step of the engine (R220) -/

/-- The regions of an operation, its driver first. -/
def EngOp.regions : EngOp → List Region
  | .vchain d a b c _ => d :: [a, b, c].filterMap id
  | .vred _ r _ _ => [r]
  | .vscan _ d r _ => [r, d]
  | .vgath d t _ _ => [d, t]
  | .vscat _ t r _ _ => [r, t]
  | .vdot _ d a b c _ _ => d :: a :: b :: c.toList
  | .vperm d r _ => [d, r]
  | .vfind _ r _ => [r]
  | .vcount _ _ r _ => [r]
  | _ => []

/-- The counts of regions, where issue did not know them (R222, R410). -/
def vecCounts (s : State) (key : Nat) (op : EngOp) : Except Cause Unit :=
  let cnt (r : Region) : Nat := r.count s key
  let eq (n : Nat) (r : Region) : Except Cause Unit := chk (cnt r = n) 0x18 (cnt r) n 0
  let eq1 (n : Nat) (r : Option Region) : Except Cause Unit :=
    match r with | none => .ok () | some r => chk (cnt r = n || cnt r = 1) 0x18 (cnt r) n 0
  match op with
  | .vchain d a b c _ => andThen (eq1 (cnt d) a) (andThen (eq1 (cnt d) b) (eq1 (cnt d) c))
  | .vred fn r dst ctl =>
    (match dst with
    | none => .ok ()
    | some p =>
      let ad := tagged p
      chk (p.off + redGroups (cnt r) ctl.g * redSize fn ctl.ofmt ≤ spaceLimit p.space) 0x22 ad 0 0)
  | .vscan _ d r _ => eq (cnt r) d
  | .vgath d _ ix _ => chk (ix.off + 4 * cnt d ≤ 2 ^ 20) 0x22 (tagged ix) 0 0
  | .vscat _ _ r ix _ => chk (ix.off + 4 * cnt r ≤ 2 ^ 20) 0x22 (tagged ix) 0 0
  | .vdot _ d a b c _ _ =>
    (match a.shape with
    | .record l =>
      andThen (chk (cnt b = nth l.ext 0) 0x7E (cnt b) (nth l.ext 0) 0) (andThen (eq (nth l.ext 1) d) (eq1 (nth l.ext 1) c))
    | _ => .ok ())
  | .vperm d r _ => eq (cnt d) r
  | _ => .ok ()

/-- What the vector engine checks when an entry begins (R399, R407, R410). -/
def vecCheck (s : State) (c : Nat) (e : Entry) : Except Cause Unit :=
  let key := keyOfEntry s e
  andThen (e.op.regions.foldl (fun r g => andThen r (andThen (match g.shape with
      | .record l => andThen (checkRagged s key l g.fmt true) (checkDrawn s c e key l g.fmt)
      | _ => .ok ()) (checkDecoded s g.fmt g.base (g.dims s key)))) (.ok ()))
    (vecCounts s key e.op)

/-- Elements of the driver. -/
def vecCount (s : State) (e : Entry) : Nat := match e.op.regions with | r :: _ => r.count s (keyOfEntry s e) | [] => 0

/-- Does a vector entry touch no memory (R38, R223)? -/
def vecIdle (s : State) (e : Entry) : Bool :=
  match e.op with
  | .bset _ _ => false
  | .vsearch d => d.rows == 0
  | .vdot _ d _ b _ _ _ => d.count s (keyOfEntry s e) == 0 || b.count s (keyOfEntry s e) == 0
  | _ => vecCount s e == 0

/-- The result of an entry that touched no memory (R223): 0, and of VFIND the state unchanged. -/
def vecIdleResult (e : Entry) : Option Nat :=
  match e.op with
  | .vred _ _ _ ctl | .vscan _ _ _ ctl | .vgath _ _ _ ctl | .vscat _ _ _ _ ctl | .vdot _ _ _ _ _ _ ctl | .vperm _ _ ctl =>
    resIf ctl.res 0
  | .vsearch d => resIf d.res 0
  | .vfind _ _ st => some st
  | .vcount _ _ _ res => resIf res 0
  | _ => none

/-- Sets the free result of VPERM and VDOT when their last row has run. -/
def withFree (s : State) (c q : Nat) (res : Bool) : State :=
  match headEntry s c q with
  | some e =>
    if e.ended && res then
      let (s, v) := freeResult s res
      putEntry s c { e with prog := { e.prog with result := v } }
    else s
  | none => s

/-- The next row of the head entry of VQ, which has begun and has work left. -/
def vecStep (s : State) (c : Nat) (e : Entry) : State :=
  let key := keyOfEntry s e
  match (if e.prog.row = 0 then vecCheck s c e else .ok ()) with
  | .error cause => failEntry s c e cause
  | .ok _ =>
    if e.prog.row = 0 ∧ vecIdle s e then putEntry s c (e.finish (vecIdleResult e))
    else
    let run (j : Except Cause RowJob) : State := match j with | .error cause => failEntry s c e cause | .ok j => runRow s c e j
    match e.op with
    | .vchain d x y z ch => runRow s c e (chainRow s key e d [x, y, z] ch)
    | .vred fn r dst ctl => runRow s c e (redRow s key e fn r dst ctl)
    | .vscan fn d r ctl => runRow s c e (scanRow s key e fn d r ctl)
    | .vgath d t ix ctl => run (gathRow s key e d t ix ctl)
    | .vscat fn t r ix ctl => run (scatRow s key e fn t r ix ctl)
    | .vdot fn d a b r sb ctl => withFree (runRow s c e (dotRow s key e fn d a b r sb ctl)) c 1 ctl.res
    | .bset b v => putEntry (onCore s c (fun k => { k with regs := { k.regs with b := tabPut k.regs.b b v } })) c ({ e with prog := { e.prog with row := 1 } }.finish none)
    | .vperm d r ctl => withFree (runRow s c e (permRow s c key e d r ctl)) c 1 ctl.res
    | .vsearch d => searchRun s c e d
    | .vfind pat r st => runRow s c e (findRow s key e pat r st)
    | .vcount dst m r res => runRow s c e (countRow s key e dst m r res)
    | _ => s

end Sys2Proof.Machine
end

