-- ==== Sys2Proof/Machine/MatrixUnit.lean ====
section
/-! DEFINITION. The matrix engine at work (R39, R84 to R87, R244 to R266, R337). -/

namespace Sys2Proof.Machine

/-! ## Packed passes (R37, R39) -/

/-- The entries of a record's offsets vector. -/
def offsList (s : State) (key : Nat) (r : Layout) : List Nat := (List.range (r.segs + 1)).map (offsAt s key r)

/-- The segment of a packed position. -/
def segOf (l : List Nat) (p : Nat) : Nat := (l.drop 1).findIdx (fun e => decide (p < e))

/-- The segment ids of rows of a pass: positions with their segments, numbered from 0 in order of appearance; the pass ends
before the row that would need a seventeenth id. -/
def passRows : Nat → Nat → Option Nat → List (Nat × Nat) → List (Nat × Nat)
  | 0, _, _, _ => []
  | _, _, _, [] => []
  | n + 1, ids, last, (p, g) :: t =>
    if last = some g then (p, ids - 1) :: passRows n ids (some g) t
    else if ids = 16 then []
    else (p, ids) :: passRows n (ids + 1) (some g) t

/-- The passes of a packed dimension: each a list of (position, segment id). -/
def passList : Nat → List (Nat × Nat) → List (List (Nat × Nat))
  | 0, _ => []
  | f + 1, l =>
    match l with
    | [] => []
    | l => let p := passRows 32 0 none l; p :: passList f (l.drop p.length)

/-- The packed passes of a ragged A without a segment level. -/
def nestPasses (s : State) (key : Nat) (r : Layout) : List (List (Nat × Nat)) :=
  let o := offsList s key r
  let l := (List.range (nth o r.segs - nth o 0)).map (fun i => (nth o 0 + i, segOf o (nth o 0 + i)))
  passList l.length l

/-! ## The walk of the nest (R248, R249) -/

/-- Passes of one segment. -/
def segPasses (o : List Nat) (j : Nat) : Nat := ceilDiv (nth o (j + 1) - nth o j) 32

/-- Iterations of an outer level. Where a segment level runs too, the M level has those of the longest segment. -/
def levelIters (s : State) (key : Nat) (t : Nest) (l : Level) : Nat :=
  match t.iters? l, t.arec with
  | some n, _ => n
  | none, some r =>
    if t.segs then
      let o := offsList s key r
      (List.range r.segs).foldl (fun m j => Nat.max m (segPasses o j)) 0
    else (nestPasses s key r).length
  | none, none => 0

/-- The next index vector, level 1 fastest; none past the last. -/
def nextIdx : List Nat → List Nat → Option (List Nat)
  | n :: ns, i :: is =>
    if i + 1 < n then some ((i + 1) :: is) else (nextIdx ns is).map (fun t => 0 :: t)
  | _, _ => none

/-- A reduction's rows (index or packed position, and segment id), indices and addresses. -/
structure RedAt where
  rows : List (Nat × Option Nat)
  cols : Nat
  mb : Nat
  nb : Nat
  a : Int
  b : Int
  c : Int

/-- The index of the level with a role in an index vector. -/
def roleIdx (t : Nest) (idx : List Nat) (role : Nat) : Nat :=
  match t.outer.findIdx? (fun l => l.role == role) with | some n => nth idx n | none => 0

/-- The reduction of an index vector. -/
def redAt (s : State) (key : Nat) (t : Nest) (idx : List Nat) : RedAt :=
  let mb := roleIdx t idx 1
  let nb := roleIdx t idx 2
  let sum (f : Level → Int) (ok : Level → Bool) : Int :=
    (t.outer.zipIdx.filter (fun x => x.1.role != 0 && ok x.1)).foldl (fun v x => v + nth idx x.2 * f x.1) 0
  let rows : List (Nat × Option Nat) := match t.arec with
    | some r =>
      if r.ragged then
        if t.segs then
          let o := offsList s key r
          let j := roleIdx t idx 5
          let lo := nth o j + 32 * mb
          (List.range (Nat.min 32 (nth o (j + 1) - lo))).map (fun i => (lo + i, none))
        else ((nestPasses s key r).getD mb []).map (fun x => (x.1, some x.2))
      else (List.range (Nat.min 32 (t.mx - 32 * mb))).map (fun i => (32 * mb + i, none))
    | none => (List.range (Nat.min 32 (t.mx - 32 * mb))).map (fun i => (32 * mb + i, none))
  { rows := rows, cols := Nat.min 32 (t.nx - 32 * nb), mb := mb, nb := nb
    a := sum (·.sa) (fun l => !t.arec.isSome || l.role == 4 || l.role == 2)
    b := sum (·.sb) (fun _ => true)
    c := t.cbase + sum (·.sc) (fun _ => true) }

/-! ## Operands of a reduction -/

/-- Does a range lie within a place's space (R406)? -/
def inSpace (p : Place) (o : Int) (n : Nat) : Bool := decide (0 ≤ (p.off : Int) + o) && decide ((p.off : Int) + o + n ≤ spaceLimit p.space)

/-- Elements of K that one A row carries in a step of a streamed B, with the step: (first k, n). -/
def kSteps (t : Nest) : List (Nat × Nat) :=
  if t.bmode then [(0, t.kx)]
  else (List.range t.kIters).map (fun k => (k * t.pair.2, Nat.min t.pair.2 (t.kx - k * t.pair.2)))

/-- The byte offsets, from A's base, of the elements of row r (index p) of a reduction. -/
def aElems (t : Nest) (x : RedAt) (r p : Nat) : List Int :=
  let es : Nat := fmtBytes t.afmt
  (kSteps t).zipIdx.flatMap (fun st => (List.range st.1.2).map (fun e =>
    match t.arec with
    | some l => (((st.1.1 + e : Nat) : Int) * l.stride.getD 0 0 + p * l.stride.getD 1 0) * es + x.a
    | none => x.a + st.2 * (t.level 3).sa + ((r * t.arow + e * es : Nat) : Int)))

/-- The byte ranges of row r of A. -/
def aRanges (t : Nest) (x : RedAt) (r p : Nat) : List (Place × Nat) :=
  (aElems t x r p).map (fun o => (t.aBase.shift o, fmtBytes t.afmt))

/-- Row r of A as values. -/
def aRow (s : State) (key : Nat) (t : Nest) (x : RedAt) (r p : Nat) : List FV :=
  (aRanges t x r p).map (fun g => decodeFmt t.afmt (leNat (fetchPlace s key g.1 g.2)))

/-- Where the steps of column c of a streamed B begin, with their elements. -/
def bStarts (t : Nest) (x : RedAt) (c : Nat) : List (Int × Nat) :=
  (kSteps t).zipIdx.map (fun st => (x.b + st.2 * (t.level 3).sb + ((c * t.brow : Nat) : Int), st.1.2))

/-- The byte ranges of n elements of a B operand at a place. -/
def runRanges (s : State) (fmt : Nat) (p : Place) (n : Nat) : List (Place × Nat) :=
  if fmtBlock fmt then
    (List.range (ceilDiv n (fmtL fmt))).flatMap (fun b =>
      let (d, sc) := blockPlace s fmt p b
      [(d, blockBytes fmt), (sc, 2)])
  else [(p, n * fmtBytes fmt)]

/-- n elements of a B operand at a place, as (code, scale): of a block format the element's integer and its block's scale,
else the pattern and 0. -/
def runElems (s : State) (key fmt : Nat) (p : Place) (n : Nat) : Except Cause (List (Nat × Nat)) :=
  allOk (fun i =>
    if fmtBlock fmt then
      let (d, sc) := blockPlace s fmt p (i / fmtL fmt : Nat)
      match blockInt fmt (fetchPlace s key d (blockBytes fmt)) (i % fmtL fmt) with
      | .error v => .error ⟨0x70, tagged d, v, 242⟩
      | .ok q => .ok (wrap q 8, leNat (fetchPlace s key sc 2))
    else .ok (leNat (fetchPlace s key (p.plus (i * fmtBytes fmt)) (fmtBytes fmt)), 0)) (List.range n)

/-- The value of a code, without its scale. -/
def codeValue (fmt v : Nat) : FV := if fmtBlock fmt then intFV (sgn v 8) else decodeFmt fmt v

/-- Column c of the active plane: at position k its element, none where the position is not kept (R254). DESIGN CHOICE: a `.s24`
nibble that holds the higher position in its low bits is read as the same two positions (R253, log 96). -/
def planeCol (p : Plane) (c k : Nat) : List (Option (Nat × Nat)) :=
  let vals := p.vals.getD c []
  let md := nth p.mdata c
  (List.range k).map (fun i =>
    if p.form = 0 then vals[i]?
    else if p.form = 1 then
      let x := bits md (4 * (i / 4)) 2
      let y := bits md (4 * (i / 4) + 2) 2
      let lo := Nat.min x y
      let hi := Nat.max x y
      if i % 4 = lo then vals[2 * (i / 4)]? else if i % 4 = hi then vals[2 * (i / 4) + 1]? else none
    else if i % 4 = bits md (2 * (i / 4)) 2 then vals[i / 4]? else none)

/-- Column c of B. -/
def bCol (s : State) (key : Nat) (pl : Plane) (t : Nest) (x : RedAt) (c : Nat) : Except Cause (List (Option (Nat × Nat))) :=
  if t.bmode then .ok (planeCol pl (32 * x.nb + c) t.kx)
  else match allOk (fun st => runElems s key t.bfmt (t.bbase.shift st.1) st.2) (bStarts t x c) with
    | .error e => .error e
    | .ok l => .ok (l.flatten.map some)

/-! ## Sums (R84 to R87) -/

/-- The exact products of a run of K positions. -/
def products (bfmt : Nat) (l : List (FV × Option (Nat × Nat))) : List FV :=
  l.filterMap (fun x => x.2.map (fun b => x.1.mul (codeValue bfmt b.1)))

/-- One rounded group or scaled block joins an FP32 accumulator. -/
def addGroup (acc : Nat) (v : FV) : Nat := faddBits 2 0 acc (encodeFmt 2 0 v)

/-- The exact integer of a value that is one. -/
def fvInt (v : FV) : Int := match v with | .fin q _ => q.round 0 | _ => 0

/-- One accumulator element after its reduction, an s32 sum not yet saturated (R84 to R87). -/
def reduceElem (t : Nest) (acc : Nat) (a : List FV) (b : List (Option (Nat × Nat))) (rs : Option FV) : Int :=
  let l := a.zip b
  let ty := t.pair.1
  if ty = 1 then sgn acc 32 + (products t.bfmt l).foldl (fun v p => v + fvInt p) 0
  else if ty = 2 then
    (l.foldl (fun v x => match x.2 with
      | some b => encodeFmt 1 0 (.sum [x.1.mul (codeValue 1 b.1), decodeFmt 1 v])
      | none => v) acc : Nat)
  else
    let blk := fmtBlock t.bfmt
    let g := if blk then fmtL t.bfmt else if t.rsc then Nat.max t.kx 1 else 8
    ((chunks g l).foldl (fun v c =>
      let p := FV.sum (products t.bfmt c)
      let p := if blk || rs.isSome then p.intermediate else p
      let p := match blk, (c.head?.bind (·.2)) with | true, some b => p.mul (decodeFmt 4 b.2) | _, _ => p
      let p := match rs with | some x => p.mul x | none => p
      addGroup v p) acc : Nat)

/-! ## Retirement (R256, R258) -/

/-- Is element (r, c) masked (R258)? -/
def masked (m : MaskBlock) (x : RedAt) (r c : Nat) : Bool :=
  let (sg, anc, pos) := m.rows.getD r (0, 0, 0)
  let sg := match x.rows[r]? with | some (_, some g) => g | _ => sg
  let q : Int := ((32 * x.nb + c : Nat) : Int) - ((m.klen.take sg).sum : Nat)
  let p : Int := (pos + 32 * x.mb : Nat)
  let tb : Int := m.tbase
  decide (q < 0) || decide ((nth m.klen sg : Int) ≤ q)
    || (decide (tb ≤ q) && (decide (16 ≤ q - tb) || !bit anc (q - tb).toNat)) || (decide (q < tb) && decide (p < q))

/-- The bytes of the retired tile (R256). -/
def retireTile (t : Nest) (m : MaskBlock) (x : RedAt) (l : List (List Int)) : List Byte :=
  let es := if t.pair.1 = 2 then 8 else 4
  (List.range 32).flatMap (fun r => (List.range 32).flatMap (fun c =>
    if x.rows.length ≤ r ∨ x.cols ≤ c then List.replicate es 0
    else
      let v := (l.getD r []).getD c 0
      leBytes es (if t.pair.1 = 1 then wrap (satInt true 32 v) 32
        else if t.mask && masked m x r c then 0xFF800000 else v.toNat)))

/-- Sets the mode of the tiles of a C address. -/
def setModes (modes : List Nat) (tile ty : Nat) : List Nat :=
  let l := setNth modes tile ty
  if ty = 2 then setNth l (tile + 1) ty else l

/-! ## A reduction -/

/-- Changes a core's matrix state. -/
def onRegs (s : State) (c : Nat) (f : CoreRegs → CoreRegs) : State := onCore s c (fun k => { k with regs := f k.regs })

/-- The ranges a reduction reads. -/
def redReads (s : State) (t : Nest) (x : RedAt) : List (Place × Nat) :=
  let scales := if t.rsc then x.rows.map (fun r => (t.rsoff.plus (4 * r.1), 4)) else []
  x.rows.zipIdx.flatMap (fun r => aRanges t x r.2 r.1.1) ++ scales
    ++ (if t.bmode then [] else (List.range x.cols).flatMap (fun c => (bStarts t x c).flatMap (fun st =>
        runRanges s t.bfmt (t.bbase.shift st.1) st.2)))

/-- The first address of a reduction that leaves its space. -/
def redOutside (s : State) (t : Nest) (x : RedAt) : Option Cause :=
  let es := fmtBytes t.afmt
  let badA := x.rows.zipIdx.any (fun r => (aElems t x r.2 r.1.1).any (fun o => !inSpace t.aBase o es))
  let badB := !t.bmode && (List.range x.cols).any (fun c => (bStarts t x c).any (fun st =>
    !inSpace t.bbase st.1 (runBytes s t.bfmt (t.bbase.shift st.1) st.2)))
  let badS := t.rsc && x.rows.any (fun r => !inSpace t.rsoff (4 * r.1 : Nat) 4)
  if badA then some ⟨0x22, tagged t.aBase, 0, 0⟩ else if badB then some ⟨0x22, tagged t.bbase, 0, 0⟩
  else if badS then some ⟨0x22, tagged t.rsoff, 0, 0⟩ else none

/-- The tile a reduction writes, or the cause 0x75 (R246). -/
def redTile (t : Nest) (x : RedAt) : Except Cause Nat :=
  if 0 ≤ x.c ∧ x.c % t.tileBytes = 0 ∧ x.c + t.tileBytes ≤ 16384 then .ok (x.c.toNat / 4096)
  else .error ⟨0x75, tagged t.aBase, wrap x.c 64, 16384⟩

/-- The sums of a reduction, row by row. -/
def redSums (s : State) (c key : Nat) (t : Nest) (x : RedAt) (tile : Nat) : Except Cause (List (List Int)) :=
  let es := if t.pair.1 = 2 then 8 else 4
  let pl := (coreAt s c).regs.planes.getD (coreAt s c).regs.ap .empty
  match allOk (bCol s key pl t x) (List.range x.cols) with
  | .error e => .error e
  | .ok cols =>
    .ok (x.rows.zipIdx.map (fun r =>
      let a := aRow s key t x r.2 r.1.1
      let rs := if t.rsc then some (decodeFmt 2 (leNat (fetchPlace s key (t.rsoff.plus (4 * r.1.1)) 4))) else none
      cols.zipIdx.map (fun b =>
        let acc := if t.init then 0 else loadNat s (locAcc c (tile * 4096 + (32 * r.2 + b.2) * es)) es
        reduceElem t acc a b.1 rs)))

/-- The first index vector from one on that is a reduction (R249: an empty segment, and a pass beyond a segment's own, are
none). Fuel is the number of index vectors. -/
def liveIdx (s : State) (key : Nat) (t : Nest) (iters : List Nat) : Nat → List Nat → Option (List Nat)
  | 0, _ => none
  | f + 1, idx =>
    if !(redAt s key t idx).rows.isEmpty then some idx
    else match nextIdx iters idx with
      | some i => liveIdx s key t iters f i
      | none => none

/-- Goes on to a reduction of the index vectors given, or ends the MGO with its index past the last (R251, R427). -/
def seekMgo (s : State) (c : Nat) (e : Entry) (t : Nest) (mask : Nat) (iters : List Nat) (idx : Option (List Nat)) : State :=
  match idx.bind (liveIdx s (keyOfEntry s e) t iters (iters.foldl (· * ·) 1)) with
  | some idx => putEntry s c { e with prog := { e.prog with acc := idx } }
  | none => putEntry (leaveStream s c mask) c ({ e with prog := { e.prog with acc := [0, 0, 0, 0, iters.getD 4 1] } }.finish none)

/-- Goes on to the next reduction, or ends the MGO (R251). -/
def advanceMgo (s : State) (c : Nat) (e : Entry) (t : Nest) (mask : Nat) : State :=
  let iters := t.outer.map (levelIters s (keyOfEntry s e) t)
  seekMgo s c { e with prog := { e.prog with red := e.prog.red + 1 } } t mask iters (nextIdx iters e.prog.acc)

/-- A drawn operand of which issue did not know the bytes lies within its tile (R94, R251). -/
def checkSpanDraw (s : State) (c : Nat) (e : Entry) (h : Option Nat) (p : Place) (sp : Int × Int) : Except Cause Unit :=
  match h with
  | none => .ok ()
  | some h => match drawCheck s c (jobAt s e.job).ctx e.job h (p.shift sp.1).off (sp.2 - sp.1).toNat with
    | .error x => if x.code = 0x4F then .error x else .ok ()
    | .ok _ => .ok ()

/-- The displacements of B that the M and segment levels of a ragged A add, over the reductions there are: the passes of the
packed rows, or each segment's own (R249). -/
def raggedMoves (s : State) (key : Nat) (t : Nest) (r : Layout) : List Int :=
  let o := offsList s key r
  let at_ (j p : Nat) : Int := j * (t.level 5).sb + p * (t.level 1).sb
  if t.segs then (List.range r.segs).flatMap (fun j => (List.range (segPasses o j)).map (at_ j))
  else (List.range (nestPasses s key r).length).map (at_ 0)

/-- The extremes of those displacements, none where there is no reduction. -/
def raggedSteps (s : State) (key : Nat) (t : Nest) (r : Layout) : Option (Int × Int) :=
  let l := raggedMoves s key t r
  if l.isEmpty then none else some (hull (l.map (fun d => (d, d))))

/-- The drawn operands of a nest with a ragged A, once its offsets vector is read (R251). -/
def checkRaggedDraws (s : State) (c : Nat) (e : Entry) (t : Nest) : Except Cause Unit :=
  let key := keyOfEntry s e
  let iters (l : Level) : Nat := levelIters s key t l
  match t.arec with
  | some r =>
    if !r.ragged || t.outer.any (fun l => iters l == 0) then .ok ()
    else match raggedSteps s key t r with
      | none => .ok ()
      | some st =>
        let (lo, hi) := stepHull ((t.outer.filter (fun l => l.role == 4)).map (fun l => (iters l, l.sb)))
        andThen (checkSpanDraw s c e t.adraw t.aBase (t.aHull s iters (r.dims s key)))
          (if t.bmode then .ok () else checkSpanDraw s c e t.bdraw t.bbase (t.bHull s (st.1 + lo, st.2 + hi)))
  | none => .ok ()

/-- The registers of the banks that hold A and a streamed B of a nest keep their rules (R407): A's record or its rows, and B's
columns, as the levels move them. -/
def checkNestBanks (s : State) (key : Nat) (t : Nest) : Except Cause Unit :=
  let iters (l : Level) : Nat := levelIters s key t l
  let moved (roles : List Nat) (st : Level → Int) : List Dim :=
    (t.outer.filter (fun l => roles.contains l.role)).map (fun l => (iters l, st l, 0))
  let sa := moved [2, 4] (·.sa)
  let a := match t.arec with
    | some r => if dimCount (r.dims s key) = 0 then []
      else bankRanges 1 ((fmtBytes r.fmt, (1 : Int), 0) :: (r.dims s key).map (fun d => (d.1, d.2.1 * (fmtBytes r.fmt : Int), d.2.2)) ++ sa)
    | none => t.laneRanges s t.afmt t.abase (t.level 3).sa (t.level 1).sa t.mx t.arow sa
  let b (outer : List Dim) : List (Int × Int) := t.laneRanges s t.bfmt t.bbase (t.level 3).sb (t.level 2).sb t.nx t.brow outer
  if t.kx = 0 ∨ t.outer.any (fun l => iters l == 0) then .ok ()
  else andThen (checkBankValues s t.aBase a)
    (if t.bmode then .ok ()
    else checkBankValues s t.bbase (match t.arec with
      | some r => if r.ragged then (raggedMoves s key t r).flatMap (fun d => (b (moved [4] (·.sb))).map (fun x => (x.1 + d, x.2 + d)))
        else b (moved [1, 4] (·.sb))
      | none => b (moved [1, 4] (·.sb))))

/-- What an MGO checks before its first reduction (R254, R407, R412). -/
def mgoCheck (s : State) (c : Nat) (e : Entry) (t : Nest) : Except Cause Unit :=
  let key := keyOfEntry s e
  let pl := (coreAt s c).regs.planes.getD (coreAt s c).regs.ap .empty
  let lim := t.pair.2 * (if pl.form = 0 then 1 else 2)
  andThen (match t.arec with
    | some r => andThen (ragCheck s key r) (checkRaggedDraws s c e t)
    | none => .ok ())
  (andThen (checkNestBanks s key t)
    (if !t.bmode then .ok ()
    else if t.bfmt ≠ pl.fmt ∨ (pl.form ≠ 0 ∧ !sparsePair t.afmt t.bfmt) then .error ⟨0x7A, t.bfmt, 0, pl.fmt⟩
    else andThen (chk (t.kx ≤ pl.kext) 0x7A t.kx 0 pl.kext)
      (andThen (chk (t.kx ≤ lim) 0x7A t.kx 0 lim) (chk (t.nx ≤ pl.ncol) 0x7A t.nx 0 pl.ncol))))

/-- Performs the next reduction of an MGO and retires it (R248, R256), or finds what stops it. An MGO that has retired none is
checked first, for it may have met its cause before and come back from a trap (R385). -/
def mgoReduce (s : State) (c : Nat) (e : Entry) (mask : Nat) : State :=
  let key := keyOfEntry s e
  let t := e.prog.nest.getD .empty
  let m := e.prog.mask.getD .zero
  let wait := streamWaits s c e mask
  let s := onRegs s c (fun r => { r with active := t, activeMask := m, retired := e.prog.retired })
  if wait ≠ 0 then holdEntry s c e (.stream wait)
  else match (if e.prog.red = 0 then mgoCheck s c e t else .ok ()) with
  | .error cause => failEntry (leaveStream s c mask) c e cause
  | .ok _ =>
    let x := redAt s key t e.prog.acc
    let e := { e with wait := .none, waited := 0 }
    if x.rows.isEmpty then advanceMgo s c e t mask
    else match redTile t x with
      | .error cause => failEntry (leaveStream s c mask) c e cause
      | .ok tile =>
        let acc : List (Place × Nat) := if t.init then [] else [(⟨4, c, tile * 4096⟩, t.tileBytes)]
        match (redOutside s t x).orElse (fun _ => rangesPoison s key (redReads s t x ++ acc)) with
        | some cause => failEntry (leaveStream s c mask) c e cause
        | none => match redSums s c key t x tile with
          | .error cause => failEntry (leaveStream s c mask) c e cause
          | .ok l =>
            let s := storeN s (locAcc c (tile * 4096)) (retireTile t m x l)
            let n := (e.prog.retired + 1) % 2 ^ 32
            let s := onRegs s c (fun r => { r with modes := setModes r.modes tile t.pair.1, retired := n })
            advanceMgo s c { e with prog := { e.prog with retired := n } } t mask


/-- Are the A streams of two nests the same (R252)? -/
def sameStream (t u : Nest) : Bool :=
  decide (t.aBase = u.aBase) && decide (t.arec = u.arec) && t.arow == u.arow && t.afmt == u.afmt
    && t.levels.map (fun l => (l.role, if l.role = 2 then 0 else l.trip)) == u.levels.map (fun l => (l.role, if l.role = 2 then 0 else l.trip))
    && t.levels.map (·.sa) == u.levels.map (·.sa)

/-- Does a member's A stream differ from that of a member that runs already (R412)? -/
def streamDiffers (s : State) (c mask : Nat) (t : Nest) : Bool :=
  ((setBits 48 mask).filter (· != c % 48)).any (fun j =>
    match queueAt s (c / 48 * 48 + j) 2 with
    | h :: _ => h.begun && !h.ended && h.fault.isNone && (match h.op with | .mgo m => m == mask | _ => false)
        && bit (coreAt s (c / 48 * 48 + j)).streamMask (c % 48)
        && !sameStream (h.prog.nest.getD .empty) t
    | [] => false)

/-- An MGO begins (R251): its table and mask are copied, the counter zeroed; an MGO without reductions has no work left. -/
def mgoBegin (s : State) (c : Nat) (e : Entry) (mask : Nat) : State :=
  let regs := (coreAt s c).regs
  let t := regs.shadow
  let key := keyOfEntry s e
  let peers := (setBits 48 mask).filter (fun j => j != c % 48 && !bit (coreAt s c).streamMask (48 + j))
  let differs := streamDiffers s c mask t
  let s := onCore s c (fun k => { k with
    streamMask := (if differs then 0 else peers.foldl (fun m j => m + 2 ^ j) 0)
      + ((setBits 48 (k.streamMask / 2 ^ 48)).filter (fun j => !bit mask j)).foldl (fun m j => m + 2 ^ (48 + j)) 0
    regs := { k.regs with active := t, activeMask := regs.shadowMask, retired := 0 } })
  let zeros := [0, 0, 0, 0, 0]
  let iters := t.outer.map (levelIters s key t)
  let first := if t.idle then zeros else (liveIdx s key t iters (iters.foldl (· * ·) 1) zeros).getD zeros
  let e := { e with prog :=
    { e.prog with nest := some t, mask := some regs.shadowMask, acc := first, retired := 0, red := 0 } }
  if t.idle then putEntry (leaveStream s c mask) c (e.finish none)
  else match mgoCheck s c e t with
    | .error cause => failEntry (leaveStream s c mask) c e cause
    | .ok _ =>
      if differs then failEntry (leaveStream s c mask) c e ⟨0x7D, tagged t.aBase, 0, 0⟩
      else if iters.contains 0 then putEntry (leaveStream s c mask) c (e.finish none)
      else seekMgo s c e t mask iters (some e.prog.acc)

/-! ## Shadow writers, MSWAP, MZERO, MSTAT -/


/-- The plane that an MLDW loads, or the cause that leaves the shadow plane as it was (R253). -/
def loadPlane (s : State) (key form : Nat) (vals md : Place) (pitch fmt kext ncol : Nat) : Except Cause Plane :=
  let kept := keptOf form kext
  let ranges := (List.range ncol).flatMap (fun n => runRanges s fmt (vals.plus (n * pitch)) kept)
    ++ (if form = 0 then [] else [(md, 16 * ncol)])
  let cols := (List.range ncol).map (fun n => (((n * pitch : Nat) : Int), ((n * pitch + runBytes s fmt vals kept : Nat) : Int)))
  match andThen (checkBankValues s vals cols) (match rangesPoison s key ranges with | some c => .error c | none => .ok ()) with
  | .error c => .error c
  | .ok _ =>
    match allOk (fun n => runElems s key fmt (vals.plus (n * pitch)) kept) (List.range ncol) with
    | .error c => .error c
    | .ok cols =>
      let meta_ := if form = 0 then [] else (List.range ncol).map (fun n => leNat (fetchPlace s key (md.plus (16 * n)) 16))
      let same (n : Nat) : Option Nat :=
        (List.range (kext / 4)).find? (fun g => bits (nth meta_ n) (4 * g) 2 == bits (nth meta_ n) (4 * g + 2) 2)
      match (if form = 1 then (List.range ncol).findSome? (fun n => (same n).map (fun g => (n, g))) else none) with
      | some (n, g) => .error ⟨0x79, n, g, 0⟩
      | none => .ok ⟨fmt, form, kext, ncol, cols, meta_⟩

/-- The mask block at a place (R257). -/
def readMask (s : State) (key : Nat) (p : Place) : MaskBlock :=
  let raw := leNat (fetchPlace s key p 320)
  ⟨(List.range 32).map (fun r => (bits raw (64 * r + 32) 4, bits raw (64 * r + 16) 16, bits raw (64 * r) 16)),
    (List.range 16).map (fun i => bits raw (2048 + 16 * i) 16), bits raw (2048 + 256) 32⟩

/-- The effect of an entry that is neither an MGO nor an MDRAIN: core state and the result (R250, R253, R255, R259, R262,
R263). -/
def matrixEffect (s : State) (c : Nat) (e : Entry) : Except Cause (State × Option Nat) :=
  let key := keyOfEntry s e
  match e.op with
  | .mlt t => .ok (onRegs s c (fun r => { r with shadow := t }), none)
  | .mmask p =>
    (match rangesPoison s key [(p, 320)] with
    | some cause => .error cause
    | none => .ok (onRegs s c (fun r => { r with shadowMask := readMask s key p }), none))
  | .mldw form vals md pitch fmt kext ncol =>
    (match loadPlane s key form vals md pitch fmt kext ncol with
    | .error cause => .error cause
    | .ok pl => .ok (onRegs s c (fun r => { r with planes := setNth r.planes (1 - r.ap) pl }), none))
  | .mswap => .ok (onRegs s c (fun r => { r with ap := 1 - r.ap }), none)
  | .mzero m =>
    let s := (setBits 4 m).foldl (fun s i => storeN s (locAcc c (4096 * i)) (List.replicate 4096 0)) s
    .ok (onRegs s c (fun r => { r with modes := (setBits 4 m).foldl (fun l i =>
      let o := if i % 2 = 0 then i + 1 else i - 1
      setNth (if nth l i = 2 then setNth l o 0 else l) i 0) r.modes }), none)
  | .mstat =>
    let r := (coreAt s c).regs
    let p := r.planes.getD r.ap .empty
    .ok (s, some (r.retired * 2 ^ 32 + p.fmt * 2 ^ 24 + (p.kext - 1) * 2 ^ 16 + r.ap * 2 ^ 8
      + (List.range 4).foldl (fun v i => v + nth r.modes i * 4 ^ i) 0))
  | _ => .ok (s, none)

/-! ## MDRAIN (R260, R261) -/

/-- The tile's mode does not suit the drain (0x77). -/
def drainMode (s : State) (c form : Nat) (d : Drain) : Except Cause Unit :=
  let m := nth (coreAt s c).regs.modes d.tile
  if form = 2 then andThen (chk (m = 0) 0x77 d.tile m 0) (chk (!d.f64) 0x77 d.tile m 2)
  else if d.f64 then chk (m = 2) 0x77 d.tile m 2 else chk (m ≠ 2) 0x77 d.tile m 0

/-- The location of the elements of row i of a drain, and their size. -/
def drainRow (c : Nat) (d : Drain) (i : Nat) : Nat × Nat :=
  let es := if d.f64 then 8 else 4
  (locAcc c (d.tile * 4096 + (32 * (d.row0 + i)) * es), es)

/-- The raw elements of row i. -/
def drainRaw (s : State) (c : Nat) (d : Drain) (i : Nat) : List Nat :=
  let (at_, es) := drainRow c d i
  (chunks es (loadN s at_ (d.ncols * es))).map leNat

/-- The bytes of row i as drained (R261). -/
def drainBytes (s : State) (c : Nat) (d : Drain) (i : Nat) : List Byte :=
  let m := nth (coreAt s c).regs.modes d.tile
  (drainRaw s c d i).flatMap (fun v =>
    let x := decodeFmt (if d.f64 then 1 else if m = 1 then 0x0A else 2) v
    leBytes (fmtBytes d.ofmt) (encodeFmt d.ofmt d.rm (if d.scl then x.mul (decodeFmt 2 d.scale) else x)))

/-- The ranges of the accumulators that a drain reads. -/
def drainReads (c : Nat) (d : Drain) : List (Place × Nat) :=
  let es := if d.f64 then 8 else 4
  (List.range d.nrows).map (fun i => (⟨4, c, d.tile * 4096 + 32 * (d.row0 + i) * es⟩, d.ncols * es))

/-- MDRAIN.p and .sel whole. -/
def drainRun (s : State) (c : Nat) (e : Entry) (form : Nat) (dst : Option Place) (d : Drain) (record : Place) : State :=
  let key := keyOfEntry s e
  match andThen (drainMode s c form d) (match rangesPoison s key (drainReads c d) with | some x => .error x | none => .ok ()) with
  | .error cause => failEntry s c e cause
  | .ok _ =>
    let rows := (List.range d.nrows).map (drainBytes s c d)
    let raw := (List.range d.nrows).flatMap (drainRaw s c d)
    let s := match dst with
      | some p => rows.zipIdx.foldl (fun s r => engineWrite s key (p.plus (r.2 * d.pitch)) r.1) s
      | none => s
    let p := if form = 2 then raw.zipIdx.foldl (fun p x => selStep p x.1 x.2) e.prog else e.prog
    putEntry s c ({ e with prog := p }.finish (resIf d.res (if form = 2 then tagged record else d.nrows)))

/-! ## The streaming port (R336, R337, R451) -/

/-- The descriptor of a core's channel: its place in the lake. -/
def channelAt (s : State) (c : Nat) (e : Entry) (ch : Nat) : Place := ⟨1, 0, (ctxAt s (jobAt s e.job).ctx).chbase + 32 * (16 * c + ch)⟩

/-- The bad bits of a channel descriptor for rows of n bytes. -/
def channelBad (raw n : Nat) : Bool := bits raw 0 56 ≠ 0 || bits raw 88 16 = 0 || decide (bits raw 104 24 < n)

/-- An MDRAIN.port is done: its result. -/
def portEnd (s : State) (c : Nat) (e : Entry) (d : Drain) : State := putEntry s c (e.finish (resIf d.res d.nrows))

/-- An MDRAIN.port begins (R337): its channel's descriptor is read once, into prog.acc. -/
def portBegin (s : State) (c : Nat) (e : Entry) (ch : Nat) (d : Drain) : State :=
  let key := keyOfEntry s e
  let p := channelAt s c e ch
  match drainMode s c 1 d with
  | .error cause => failEntry s c e cause
  | .ok _ =>
    if d.nrows = 0 then portEnd s c e d
    else match rangesPoison s key ((p, 32) :: drainReads c d) with
      | some cause => failEntry s c e cause
      | none =>
        let raw := leNat (fetchPlace s key p 32)
        if channelBad raw (d.ncols * fmtBytes d.ofmt) then failEntry s c e ⟨0xA6, ch, 0, 0⟩
        else putEntry s c { e with wait := .none, prog := { e.prog with acc := [raw] } }

/-- A row of MDRAIN.port is out with its counter's addition: the next row, or the end, at which next is stored back (R337). -/
def portNext (s : State) (c : Nat) (e : Entry) (ch : Nat) (d : Drain) (raw : Nat) : State :=
  let e := { e with wait := .none, prog := { e.prog with row := e.prog.row + 1, count := 0, taken := [] } }
  if d.nrows ≤ e.prog.row then
    portEnd (putPlace s (keyOfEntry s e) ((channelAt s c e ch).plus 7) (leBytes 4 ((bits raw 56 32 + d.nrows) % 2 ^ 32))) c e d
  else putEntry s c e

/-- A row of MDRAIN.port under the descriptor raw (R337): prog.row is the row, prog.count 1 once its bytes are out. -/
def portRow (s : State) (c : Nat) (e : Entry) (ch : Nat) (d : Drain) (raw : Nat) : State :=
  let i := e.prog.row
  let dst := bits raw 192 64 + (bits raw 56 32 + i) % 2 ^ 32 % bits raw 88 16 * bits raw 104 24
  let ctr := bits raw 128 64
  match rangesPoison s (keyOfEntry s e) (drainReads c d) with
  | some cause => failEntry s c e cause
  | none =>
    if e.prog.count = 0 then
      let sec : Sector :=
        { reads := [], laterReads := [], writes := [(⟨0, c, dst⟩, d.ncols * fmtBytes d.ofmt)], laterWrites := []
          data := fun s _ p => .ok (drainBytes s c d i, p) }
      runSector s c e sec (fun e => { e with prog := { e.prog with count := 1 } })
    else if ctr = 0 then portNext s c e ch d raw
    else match spots c (jobAt s e.job).ctx true [(⟨0, c, ctr⟩, 8)] s [] with
      | .error b => blockEntry s c e b
      | .ok (s, (.phys loc va, _) :: _) => (match poisoned s loc 8 with
        | some u => failEntry s c e (poisonGlobal va loc u)
        | none => portNext (storeNat s loc 8 ((loadNat s loc 8 + 1) % 2 ^ 64)) c e ch d raw)
      | .ok (s, (.fab va l, _) :: _) =>
        if flitRoom s c l then portNext (remoteSend s c e va l 2 8 1) c e ch d raw else holdEntry s c e .other
      | .ok (s, _) => portNext s c e ch d raw

/-- The next piece of work of an MDRAIN.port. -/
def portStep (s : State) (c : Nat) (e : Entry) (ch : Nat) (d : Drain) : State :=
  match e.prog.acc with
  | raw :: _ => portRow s c e ch d raw
  | [] => portBegin s c e ch d

/-! ## Begin and step (R244, R251, R265) -/

/-- An entry of MQ begins: an MGO copies its table, an MDRAIN.port has its rows to send, any other has its whole effect. -/
def matrixBegin (s : State) (c : Nat) (e : Entry) : State :=
  match e.op with
  | .mgo m => mgoBegin s c e m
  | .mdrain form dst ch d record => if form = 1 then portBegin s c e ch d else drainRun s c e form dst d record
  | _ => match matrixEffect s c e with
    | .error cause => failEntry s c e cause
    | .ok (s, r) => putEntry s c (e.finish r)

/-- A shadow writer begins behind an MGO that runs (R244): it takes its tokens and writes; it will complete after the MGO. One
that met a cause there, and that ERET has pushed again, has taken them (R385). -/
def beginBehind (s : State) (c i : Nat) (e : Entry) : State :=
  let q := queueAt s c 2
  match (if e.begun then .ok (s, e) else takeEntryTokens s c e) with
  | .error _ => s
  | .ok (s, e) =>
    match matrixEffect s c e with
    | .error cause =>
      signalTrap (setQueue s c 2 (q.take i ++ { e with fault := some cause } :: q.drop (i + 1))) ⟨c, e.sx⟩ (engTrap e cause)
    | .ok (s, r) => setQueue s c 2 (q.take i ++ e.finish r :: q.drop (i + 1))

/-- The index and entry of the shadow writer that may begin behind the head: every entry before it is an MGO that has copied
its table or a shadow writer that has written, so that they write in push order (R244). -/
def nextBehind (l : List Entry) : Option (Nat × Entry) :=
  match l with
  | h :: _ =>
    if h.begun && isMgo h && !h.ended && h.prog.nest.isSome then
      match (l.zipIdx.drop 1).find? (fun x => !x.1.ended) with
      | some (e, i) => if shadowWriter e && e.fault.isNone then some (i, e) else none
      | none => none
    else none
  | [] => none

/-- The next piece of work of the head entry of MQ, which has begun: an entry that met a cause as it began, and that ERET has
pushed again, has its whole work before it (R385). -/
def matrixStep (s : State) (c : Nat) (e : Entry) : State :=
  match e.op with
  | .mgo m => mgoReduce s c e m
  | .mdrain form _ ch d _ => if form = 1 then portStep s c e ch d else matrixBegin s c e
  | _ => matrixBegin s c e

end Sys2Proof.Machine
end

