-- ==== Sys2Proof/Machine/Sequencer.lean ====
section
/-! DEFINITION. Collective step words (R327 to R334) and the messages a sequencer receives (R331, R333, R457, R458). -/

namespace Sys2Proof.Machine

/-! ## Operands of a step (R325 to R329) -/

/-- A step's outcome: what it gives, or the code it aborts the launch with and its peer, for 0xA4 the peer's rank. -/
abbrev SeqE (α : Type) := Except (Nat × Nat) α

/-- Does a structure lie in pond, lake or own global space? -/
def seqSpace (sp : Nat) : Bool := sp < 3

/-- The launch block's own checks (R324), 0xAF. -/
def blockCheck (l : Launch) : SeqE Unit :=
  if bits l.block 0 148 ≠ 0 ∨ l.size ≤ l.own ∨ l.gtab % 4 ≠ 0 ∨ l.btab % 64 ≠ 0 ∨ l.ofs % 4 ≠ 0 ∨ l.done % 8 ≠ 0
      ∨ !seqSpace (bits l.gtab 60 4) ∨ bits l.btab 60 4 ≠ 2 ∨ !seqSpace (bits l.done 60 4)
      ∨ (l.ofs ≠ 0 ∧ !seqSpace (bits l.ofs 60 4)) then .error (0xAF, 0)
  else .ok ()

/-- Entry j of the group table: (cluster, rank) (R325). A rank whose local index is reserved (R14) is taken as it stands: R325 and
0xAE name no such check (log 69). -/
def groupEntry (s : State) (l : Launch) (j : Nat) : SeqE (Nat × Nat) :=
  match seqRead s l (l.gtab + 4 * j) 4 with
  | none => .error (0xB6, j)
  | some v => if bits v 30 2 ≠ 0 ∨ 36 ≤ bits v 24 6 then .error (0xAE, j) else .ok (bits v 24 6, bits v 0 24)

/-- The entry of the route table for the messages of a cluster to member j on another device (R317, R453). -/
def memberRoute (s : State) (cl : Nat) (l : Launch) (j : Nat) : Option Nat :=
  match groupEntry s l j with
  | .ok (_, r) => if r = s.dev.rank then none else some (routeOf s cl r)
  | .error _ => none

/-- Messages of one flit, in order, each on its route (R315 to R317); none while a replay store is full. -/
def sendMessages (cl : Nat) : List Nat → State → Option State
  | [], s => some s
  | r :: t, s => if spanRoom s r 1 then sendMessages cl t (sendOn s cl r 0) else none

/-- The messages of a cluster to the members listed that stand on other devices. -/
def tellMembers (s : State) (cl : Nat) (l : Launch) (js : List Nat) : Option State :=
  sendMessages cl (js.filterMap (memberRoute s cl l)) s

/-- The flits of a send of n bytes (R315): packets of up to 64 flits, of up to 240 bytes each. -/
def flitCount (n : Nat) : Nat := Nat.max 1 (ceilDiv n 240)

/-- A message of a member arrives (R315, R316): from another device it takes the flits accepted from spans that carried it; none
while they are not there. -/
def arrived (s : State) (cl : Nat) (l : Launch) (peer n : Nat) : Option State :=
  match memberRoute s cl l peer with
  | some _ => if s.inbound < n then none else some { s with inbound := s.inbound - n }
  | none => some s

/-- The launch's own entry names this device and cluster (R325). -/
def ownEntry (s : State) (cl : Nat) (l : Launch) : SeqE Unit :=
  match groupEntry s l l.own with
  | .error e => .error e
  | .ok e => if e = (cl, s.dev.rank) then .ok () else .error (0xAE, l.own)

/-- A peer's entry: not this member's own, its rank not absent (R325, R458). -/
def peerCheck (s : State) (cl : Nat) (l : Launch) (j : Nat) : SeqE Unit :=
  match groupEntry s l j with
  | .error e => .error e
  | .ok e =>
    if j ≠ l.own ∧ e = (cl, s.dev.rank) then .error (0xAE, j)
    else if rankAbsent s e.2 then .error (0xA4, e.2)
    else .ok ()

/-- The cause of a launch that a step aborts (R398): 0xA4 names the rank and the launch, the others the launch, the step and, where
there is one, the peer. -/
def stepCause (l : Launch) (code x : Nat) : Cause := if code = 0xA4 then ⟨code, x, l.num, 0⟩ else ⟨code, l.num, l.pc, x⟩

/-- Another launch of the sequencer on this group with this tag (R323). -/
def tagTaken (s : State) (cl : Nat) (l : Launch) : Bool :=
  (clusterAt s cl).launches.any (fun m => m.num != l.num && m.tag == l.tag && m.gtab == l.gtab && m.size == l.size &&
    (m.pc != 0 || m.num < l.num))

/-- The checks that the first step's issue makes (R457). -/
def firstChecks (s : State) (cl : Nat) (l : Launch) : SeqE Unit :=
  if l.pc ≠ 0 then .ok ()
  else match blockCheck l with
    | .error e => .error e
    | .ok _ => match ownEntry s cl l with
      | .error e => .error e
      | .ok _ => if tagTaken s cl l then .error (0xB0, 0) else .ok ()

/-- The send and receive peers of a step (R329). -/
def peers (l : Launch) (f : StepFields) : SeqE (Nat × Nat) :=
  let n := l.size
  let i := l.own
  let v := f.pv.toNat
  match f.pm.toNat with
  | 0 => .ok ((i + v) % n, ((i + n) - v % n) % n)
  | 1 => if Nat.xor i v < n then .ok (Nat.xor i v, Nat.xor i v) else .error (0xAA, Nat.xor i v)
  | _ => if v < n then .ok (v, v) else .error (0xAA, v)

/-- The chunk a step names (R329). -/
def chunkNo (l : Launch) (f : StepFields) (peer : Nat) : Nat :=
  let a : Int := match f.ca.toNat with | 0 => 0 | 1 => l.own | 2 => -(l.own : Int) | _ => peer
  let b : Int := match f.cl.toNat with | 0 => 0 | 1 => nth l.loops f.lc.toNat | _ => -(nth l.loops f.lc.toNat : Int)
  ((a + b + f.coff.toInt) % (l.size : Int)).toNat

/-- The offsets vector, nondecreasing (R327). -/
def offsets (s : State) (l : Launch) : Nat → Nat → SeqE (List Nat)
  | _, 0 => .ok []
  | i, n + 1 =>
    match seqRead s l (l.ofs + 4 * i) 4, offsets s l (i + 1) n with
    | none, _ => .error (0xB6, 0)
    | _, .error e => .error e
    | some v, .ok t => if t.head?.any (fun w => decide (w < v)) then .error (0xAC, 0) else .ok (v :: t)

/-- First element and length of chunk c in a buffer of cnt elements (R327). -/
def chunkRange (s : State) (l : Launch) (c cnt : Nat) : SeqE (Nat × Nat) :=
  if l.ofs = 0 then
    let q := ceilDiv cnt l.size
    .ok (Nat.min (c * q) cnt, Nat.min ((c + 1) * q) cnt - Nat.min (c * q) cnt)
  else match offsets s l 0 (l.size + 1) with
    | .error e => .error e
    | .ok o => if cnt < nth o l.size then .error (0xAC, 0) else .ok (nth o c, nth o (c + 1) - nth o c)

/-- May a buffer hold the format (R326)? -/
def bufFmt (fmt : Nat) : Bool := [2, 3, 4, 5, 0x0A].contains fmt

/-- Chunk c of buffer b under a parity bit (R326, R327). -/
def chunkOf (s : State) (l : Launch) (b par c : Nat) : SeqE Chunk :=
  match seqRead s l (l.btab + 16 * b) 16 with
  | none => .error (0xB6, 0)
  | some v =>
    let base := bits v 64 64
    let fmt := bits v 32 8
    if base = 0 ∨ !bufFmt fmt ∨ bits v 40 24 % 64 ≠ 0 ∨ !seqSpace (bits base 60 4) then .error (0xAD, 0)
    else match chunkRange s l c (bits v 0 32) with
      | .error e => .error e
      | .ok (lo, n) => .ok ⟨base + (if par = 1 then l.parity * bits v 40 24 else 0) + lo * fmtBytes fmt, fmt, n⟩

/-! ## Waiting (R323, R331 to R333) -/

/-- Bytes of a chunk. -/
def Chunk.len (k : Chunk) : Nat := k.n * fmtBytes k.fmt

/-- Do two chunks share a byte? -/
def Chunk.meets (a b : Chunk) : Bool := decide (a.ad < b.ad + b.len) && decide (b.ad < a.ad + a.len)

/-- Have the messages of a CBAR come from every other member (R333)? -/
def barMet (l : Launch) (n : Nat) : Bool :=
  n == 0 || (l.bars.filter (fun p => p.1 != l.own && decide (p.1 < l.size) && decide (n ≤ p.2))).length == l.size - 1

/-- Has a step finished (R331, R333)? -/
def StepRun.finished (l : Launch) (r : StepRun) : Bool :=
  !r.needData && !(r.sendPeer.isSome && (r.needReady || r.needSend)) && barMet l r.needBar

/-- Steps that have not finished. -/
def unfinished (l : Launch) : List StepRun := l.runs.filter (fun r => !r.finished l)

/-- Must a step that reads and writes these chunks wait for an earlier one (R332)? -/
def overlaps (l : Launch) (src dst : Option Chunk) : Bool :=
  let hit (a b : Option Chunk) : Bool := match a, b with | some x, some y => x.meets y | _, _ => false
  (unfinished l).any (fun r => hit src r.dst || hit dst r.src || hit dst r.dst)

/-- Drops the steps with nothing left to wait for. -/
def tidy (l : Launch) : Launch := { l with runs := l.runs.filter (fun r => !r.finished l || r.needAck) }

/-! ## Going on to the next step (R333) -/

/-- After the word at index p: bodies that end there count up and repeat, or close. -/
def closeLoops : List (Nat × Nat × Nat × Nat) → List Nat → Nat → Nat × List (Nat × Nat × Nat × Nat) × List Nat
  | [], loops, p => (p + 1, [], loops)
  | (k, count, first, last) :: rest, loops, p =>
    if p = last then
      let loops := setNth loops k (nth loops k + 1)
      if nth loops k < count then (first, (k, count, first, last) :: rest, loops) else closeLoops rest loops p
    else (p + 1, (k, count, first, last) :: rest, loops)

/-- The launch after the word at index p. -/
def Launch.goOn (l : Launch) (p : Nat) : Launch :=
  let (pc, stack, loops) := closeLoops l.stack l.loops p
  { l with pc := pc, stack := stack, loops := loops }

/-- A step is asked for that its unit does not take in this state, a wait of a step word among them (R323, R332): nothing happens,
and the model notes so (log 64). -/
def notNow (s : State) : Host.Outcome State Fault Refusal := .next { s with missed := true }

/-- The outcome of a step's issue: no launch or a step that waits leaves no step to take; an error aborts the launch. -/
def stepOf (cl : Nat) (ln : BitVec 32) (s : State) (f : Launch → SeqE (Option State)) :
    Host.Outcome State Fault Refusal :=
  match launchAt s cl ln.toNat with
  | none => notNow s
  | some l =>
    let r : SeqE (Option State) := match firstChecks s cl l with | .error e => .error e | .ok _ => f l
    match r with
    | .error (code, x) => .next (abortLaunch s cl l (stepCause l code x))
    | .ok none => notNow s
    | .ok (some s) => .next s

/-- May any later step issue: no earlier CBAR unfinished (R333)? -/
def pastBars (l : Launch) : Bool := (unfinished l).all (fun r => r.needBar == 0)

/-! ## Transfer steps (R330, R331) -/

/-- A float or s32 element of one format as one of another, RNE (R222, R330). -/
def reEncode (src dst v : Nat) : Nat := encodeFmt dst 0 (decodeFmt src v)

/-- The value of rop 0 sum, 1 max, 2 min of two elements (R330). -/
def combine (rop fa a fb b : Nat) : FV :=
  let x := decodeFmt fa a
  let y := decodeFmt fb b
  if rop = 0 then .sum [x, y]
  else match x.cmp y with
    | none => .nan
    | some c => if rop = 1 then (if c < 0 then y else x) else (if c > 0 then y else x)

/-- The elements of n bytes each that a list of bytes holds. -/
def elements (n : Nat) (v : List Byte) : List Nat := (chunks n v).map leNat

/-- The bytes of a destination chunk from its elements. -/
def fmtBytesOf (fmt : Nat) (v : List Nat) : List Byte := v.flatMap (leBytes (fmtBytes fmt))

/-- The elements of a chunk, if it can be read. -/
def readChunk (s : State) (l : Launch) (k : Chunk) : Option (List Nat) :=
  (seqBytes s l false k.ad k.len).map (fun ps => elements (fmtBytes k.fmt) (ps.map s.mem.read))

/-- A transfer step's run at its issue: op 1 CSEND, 2 CRECV, 3 CRRS, 4 CCOPY (R331). A ready that has come already is
used. -/
def runOf (l : Launch) (op : Nat) (f : StepFields) (send recv : Nat) (src dst : Option Chunk) : StepRun × List Nat :=
  let sends := op = 1 ∨ (op = 3 ∧ f.ns = 0)
  let recvs := op = 2 ∨ op = 3
  let early := sends ∧ l.readies.contains send
  ({ step := l.pc, op := op, rop := f.rop.toNat, recvPeer := if recvs then some recv else none
     sendPeer := if sends then some send else none, src := src, dst := dst, needData := recvs
     needReady := sends ∧ !early, needSend := sends, needAck := sends, needBar := 0, waited := 0, sent := 0 },
   if early then l.readies.erase send else l.readies)

/-- Issue of a transfer step (R323, R329 to R332); a receive sends its peer a ready. -/
def transfer (op : Nat) (cl : Nat) (f : StepFields) (s : State) (l : Launch) : SeqE (Option State) :=
  if !pastBars l ∨ 16 ≤ (unfinished l).length then .ok none
  else match peers l f with
    | .error e => .error e
    | .ok (send, recv) =>
      let usesSend := op = 1 ∨ (op = 3 ∧ f.ns = 0)
      let usesRecv := op = 2 ∨ op = 3
      match (if usesSend then peerCheck s cl l send else .ok ()), (if usesRecv then peerCheck s cl l recv else .ok ()) with
      | .error e, _ => .error e
      | _, .error e => .error e
      | .ok _, .ok _ =>
        let c := chunkNo l f (if op = 1 then send else recv)
        let src := if op = 2 then .ok none else (chunkOf s l f.sbuf.toNat f.par.toNat c).map some
        let dst := if op = 1 then .ok none else (chunkOf s l f.dbuf.toNat f.par.toNat c).map some
        match src, dst with
        | .error e, _ => .error e
        | _, .error e => .error e
        | .ok src, .ok dst =>
          if overlaps l src dst then .ok none
          else if op = 4 then
            match src, dst with
            | some a, some b =>
              if a.n ≠ b.n then .error (0xAB, 0)
              else match readChunk s l a with
                | none => .error (0xB6, 0)
                | some v => match seqWrite s l b.ad (fmtBytesOf b.fmt (v.map (reEncode a.fmt b.fmt))) with
                  | none => .error (0xB6, 0)
                  | some s => .ok (some (putLaunch s cl (l.goOn l.pc)))
            | _, _ => .ok none
          else
            let (r, readies) := runOf l op f send recv src dst
            .ok ((tellMembers s cl l (if usesRecv then [recv] else [])).map (fun s =>
              putLaunch s cl ({ l with runs := l.runs ++ [r], readies := readies }.goOn l.pc)))

/-- CSEND (R330, R331). -/
def execCsend (cl : Nat) (ln : BitVec 32) (f : StepFields) (s : State) : Host.Outcome State Fault Refusal :=
  stepOf cl ln s (transfer 1 cl f s)

/-- CRECV (R330, R331). -/
def execCrecv (cl : Nat) (ln : BitVec 32) (f : StepFields) (s : State) : Host.Outcome State Fault Refusal :=
  stepOf cl ln s (transfer 2 cl f s)

/-- CRRS (R330, R331). -/
def execCrrs (cl : Nat) (ln : BitVec 32) (f : StepFields) (s : State) : Host.Outcome State Fault Refusal :=
  stepOf cl ln s (transfer 3 cl f s)

/-- CCOPY (R330). -/
def execCcopy (cl : Nat) (ln : BitVec 32) (f : StepFields) (s : State) : Host.Outcome State Fault Refusal :=
  stepOf cl ln s (transfer 4 cl f s)

/-! ## Control steps (R333, R334) -/

/-- Have all earlier steps finished, and with acked their sends been acknowledged? -/
def settled (l : Launch) (acked : Bool) : Bool := (unfinished l).isEmpty && !(acked && l.runs.any (·.needAck))

/-- CWAIT (R333). -/
def execCwait (cl : Nat) (ln : BitVec 32) (w : BitVec 1) (s : State) : Host.Outcome State Fault Refusal :=
  stepOf cl ln s fun l => .ok (if settled l (w == 1) then some (putLaunch s cl (l.goOn l.pc)) else none)

/-- The count of a CLOOP (R333). -/
def loopCount (l : Launch) (rel v : Nat) : Nat := if rel = 0 then v else l.size - v

/-- CLOOP (R333): a body that leaves the one it stands in is 0xB1. -/
def execCloop (cl : Nat) (ln : BitVec 32) (k : BitVec 2) (rel : BitVec 1) (v : BitVec 21) (len : BitVec 16) (s : State) :
    Host.Outcome State Fault Refusal :=
  stepOf cl ln s fun l =>
    let last := l.pc + len.toNat
    let fits := match l.stack with | (_, _, _, e) :: _ => decide (last ≤ e) | [] => true
    if !pastBars l then .ok none
    else if !fits then .error (0xB1, 0)
    else
      let count := loopCount l rel.toNat v.toNat
      let l' := { l with loops := setNth l.loops k.toNat 0 }
      .ok (some (putLaunch s cl (if count = 0 then l'.goOn last
        else { l' with pc := l.pc + 1, stack := (k.toNat, count, l.pc + 1, last) :: l.stack })))

/-- CBAR (R333): every other member is told. -/
def execCbar (cl : Nat) (ln : BitVec 32) (s : State) : Host.Outcome State Fault Refusal :=
  stepOf cl ln s fun l =>
    if !settled l false then .ok none
    else
      let n := l.barNo + 1
      let r : StepRun := ⟨l.pc, 7, 0, none, none, none, none, false, false, false, false, n, 0, 0⟩
      .ok ((tellMembers s cl l ((List.range l.size).filter (· != l.own))).map (fun s =>
        putLaunch s cl (tidy ({ l with runs := l.runs ++ [r], barNo := n }.goOn l.pc))))

/-- The launch of member j of a launch's group, if it runs on this device: the same tag and group size (R323, R325). -/
def partner (s : State) (l : Launch) (j : Nat) : Option (Nat × Launch) :=
  match groupEntry s l j with
  | .ok (k, r) =>
    if r = s.dev.rank then
      ((clusterAt s k).launches.find? (fun m => m.tag == l.tag && m.size == l.size && m.own == j)).map (k, ·)
    else none
  | .error _ => none

/-- The CBAR messages of a launch that its members on this device have not taken yet reach them (R333): the launch that sent them
may end first. -/
def passBars (s : State) (l : Launch) : State :=
  (List.range l.size).foldl (fun s j => if j = l.own then s else match partner s l j with
    | some (k, m) =>
      if tabGet 0 m.bars l.own < l.barNo then putLaunch s k (tidy { m with bars := tabPut m.bars l.own l.barNo }) else s
    | none => s) s

/-- CEND (R334): the done word receives the launch number, and the launch has ended. -/
def execCend (cl : Nat) (ln : BitVec 32) (s : State) : Host.Outcome State Fault Refusal :=
  stepOf cl ln s fun l =>
    if !settled l true then .ok none
    else match seqWrite s l l.done (leBytes 8 l.num) with
      | none => .error (0xB5, 0)
      | some s => .ok (some (dropLaunch (passBars s l) cl l.num))

/-! ## Messages (R331, R333, R457, R458) -/

/-- The run of a launch that a test names, with what stands before and after it. -/
def splitRun (f : StepRun → Bool) : List StepRun → Option (List StepRun × StepRun × List StepRun)
  | [] => none
  | r :: t => if f r then some ([], r, t) else (splitRun f t).map (fun p => (r :: p.1, p.2))

/-- A launch with its first run of a test changed. -/
def onRun (l : Launch) (f : StepRun → Bool) (g : StepRun → StepRun) : Option Launch :=
  (splitRun f l.runs).map (fun p => tidy { l with runs := p.1 ++ g p.2.1 :: p.2.2 })

/-- A ready of a peer: it starts the first send to that peer, or waits for one (R331). -/
def execCollReadyArrive (cl : Nat) (ln : BitVec 32) (peer : Nat) (s : State) : Host.Outcome State Fault Refusal :=
  match launchAt s cl ln.toNat with
  | none => notNow s
  | some l => match arrived s cl l peer 1 with
    | none => notNow s
    | some s => .next (putLaunch s cl
        ((onRun l (fun r => r.sendPeer == some peer && r.needReady) (fun r => { r with needReady := false, waited := 0 })).getD
          { l with readies := l.readies ++ [peer] }))

/-- The elements a receive writes (R330). -/
def received (s : State) (l : Launch) (r : StepRun) (fmt : Nat) (v : List Nat) (d : Chunk) : Option (List Nat) :=
  match r.op, r.src with
  | 3, some a => (readChunk s l a).map (fun own => (own.zip v).map (fun p => encodeFmt d.fmt 0 (combine r.rop a.fmt p.1 fmt p.2)))
  | _, _ => some (v.map (reEncode fmt d.fmt))

/-- The data of a peer's send reach the first receive that waits for that peer (R330, R331). -/
def takeData (s : State) (cl : Nat) (l : Launch) (peer fmt : Nat) (data : List Byte) (r : StepRun) : SeqE State :=
  match r.dst with
  | none => .error (0xAD, peer)
  | some d =>
    if !bufFmt fmt ∨ data.length ≠ d.n * fmtBytes fmt ∨ r.src.any (fun a => a.n != d.n) then .error (0xAB, peer)
    else match received s l r fmt (elements (fmtBytes fmt) data) d with
      | none => .error (0xB6, peer)
      | some v => match seqWrite s l d.ad (fmtBytesOf d.fmt v) with
        | none => .error (0xB6, peer)
        | some s => .ok (match onRun l (fun q => q.recvPeer == some peer && q.needData)
              (fun q => { q with needData := false, waited := 0 }) with
            | some l => putLaunch s cl l
            | none => s)

/-- Data of a peer arrive (R330, R331). -/
def execCollDataArrive (cl : Nat) (ln : BitVec 32) (peer : Nat) (fmt : BitVec 8) (data : List (BitVec 8)) (s : State) :
    Host.Outcome State Fault Refusal :=
  match launchAt s cl ln.toNat with
  | none => notNow s
  | some l => match splitRun (fun q => q.recvPeer == some peer && q.needData) l.runs, arrived s cl l peer (flitCount data.length) with
    | some (_, r, _), some s => (match takeData s cl l peer fmt.toNat data r with
      | .error (code, p) => .next (abortLaunch s cl l ⟨code, l.num, r.step, p⟩)
      | .ok s => .next s)
    | _, _ => notNow s

/-- The bytes that a send step sends (R330). -/
def StepRun.sendLen (r : StepRun) : Nat := match (if r.op = 3 then r.dst else r.src) with | some c => c.len | none => 0

/-- The next flit of a send that may go enters the replay store of its span (R315, R316, R331). -/
def pushSend (s : State) (cl : Nat) (l : Launch) (r : StepRun) : Option State :=
  if r.needData || r.needReady || !r.needSend || decide (flitCount r.sendLen ≤ r.sent) then none
  else match memberRoute s cl l (r.sendPeer.getD 0) with
    | none => none
    | some x =>
      if spanRoom s x 1 then
        (onRun l (fun q => q == r) (fun q => { q with sent := q.sent + 1 })).map
          (fun l => putLaunch (sendOn s cl x (Nat.min 240 (r.sendLen - 240 * r.sent))) cl l)
      else none

/-- A send completes locally, once its flits stand in a replay store, or with ack its acknowledgment returns (R316, R331, R334). -/
def execCollTransferFinish (cl : Nat) (ln : BitVec 32) (step : Nat) (ack : BitVec 1) (s : State) :
    Host.Outcome State Fault Refusal :=
  match launchAt s cl ln.toNat with
  | none => notNow s
  | some l =>
    let test (r : StepRun) : Bool := r.step == step && r.sendPeer.isSome &&
      (if ack = 0 then !r.needData && !r.needReady && r.needSend else !r.needReady && !r.needSend && r.needAck)
    match splitRun test l.runs, onRun l test (fun r => if ack = 0 then { r with needSend := false } else { r with needAck := false }) with
    | some (_, r, _), some l' =>
      let j := r.sendPeer.getD 0
      let out := (memberRoute s cl l j).isNone || decide (flitCount r.sendLen ≤ r.sent)
      (match (if ack = 0 then (if out then some s else none) else arrived s cl l j 1) with
      | some s => .next (putLaunch s cl l')
      | none => notNow s)
    | _, _ => notNow s

/-- A CBAR message of a peer (R333). -/
def execCbarMessage (cl : Nat) (ln : BitVec 32) (peer : Nat) (s : State) : Host.Outcome State Fault Refusal :=
  match launchAt s cl ln.toNat with
  | none => notNow s
  | some l => match arrived s cl l peer 1 with
    | none => notNow s
    | some s => .next (putLaunch s cl (tidy { l with bars := tabPut l.bars peer (tabGet 0 l.bars peer + 1) }))

/-- An abort message for a tag: the launch with that tag aborts with 0xBE (R458); a launch that has ended ignores it
(R466). -/
def execCollAbortMessage (cl : Nat) (tag : BitVec 32) (s : State) : Host.Outcome State Fault Refusal :=
  let far := s.abortFrom != s.dev.rank
  if far && s.inbound == 0 then notNow s
  else
    let s := if far then { s with inbound := s.inbound - 1 } else s
    match (clusterAt s cl).launches.find? (fun l => l.tag == tag.toNat) with
    | none => .next s
    | some l => .next (abortLaunch s cl l ⟨0xBE, s.abortFrom, 0, 0⟩)

/-- The runs of a kind that have waited the launch's limit: 0 receives, 1 sends, 2 barriers (R457). -/
def timedOut (l : Launch) (kind : Nat) : Option StepRun :=
  l.runs.find? (fun r => decide (l.limit ≤ r.waited) &&
    (match kind with
    | 0 => r.needData
    | 1 => !r.needData && r.sendPeer.isSome && (r.needReady || r.needSend)
    | _ => r.needBar != 0 && !barMet l r.needBar))

/-- A receive, a send or a CBAR times out (R457). -/
def execCollTimeout (cl : Nat) (ln : BitVec 32) (kind : BitVec 2) (s : State) : Host.Outcome State Fault Refusal :=
  match launchAt s cl ln.toNat with
  | none => notNow s
  | some l => if 3 ≤ kind.toNat then notNow s else match timedOut l kind.toNat with
    | none => notNow s
    | some r =>
      let peer := if kind = 0 then r.recvPeer.getD 0 else r.sendPeer.getD 0
      .next (abortLaunch s cl l ⟨0xB2 + kind.toNat, l.num, r.step, peer⟩)

/-! ## Members on one device (R331, R333) -/

/-- A send between two members on this device, both of whose steps have issued: the data reach the receive, the send
completes and is acknowledged (R331). -/
def localSend (s : State) (cl : Nat) (l : Launch) (r : StepRun) : Option State :=
  match r.sendPeer, (if r.op = 3 then r.dst else r.src) with
  | some j, some c =>
    if r.needData || !r.needSend || l.runs.find? (fun q => q.sendPeer == some j && q.needSend) ≠ some r then none
    else match partner s l j with
      | none => none
      | some (k, m) => match splitRun (fun q => q.recvPeer == some l.own && q.needData) m.runs with
        | none => none
        | some (_, q, _) => match seqBytes s l false c.ad c.len with
          | none => some (abortLaunch s cl l ⟨0xB6, l.num, r.step, j⟩)
          | some ps => match takeData s k m l.own c.fmt (ps.map s.mem.read) q with
            | .error (code, p) => some (abortLaunch s k m ⟨code, m.num, q.step, p⟩)
            | .ok s => (match launchAt s cl l.num with
              | none => some s
              | some l =>
                let done (q : StepRun) : StepRun := { q with needReady := false, needSend := false, needAck := false }
                some (((onRun l (fun q => q.sendPeer == some j && q.needSend) done).map (putLaunch s cl)).getD s))
  | _, _ => none

/-- The members on this device whose CBAR message a launch has not received yet (R333). -/
def barsDue (s : State) (l : Launch) : List Nat :=
  (List.range l.size).filter (fun j => j != l.own && (match partner s l j with
    | some (_, m) => decide (tabGet 0 l.bars j < m.barNo)
    | none => false))

/-- The cycles that a launch's unfinished steps wait count on (R457). -/
def tickLaunch (l : Launch) : Launch :=
  { l with runs := l.runs.map (fun r => if r.finished l then r else { r with waited := r.waited + 1 }) }

end Sys2Proof.Machine
end

