-- ==== Sys2Proof/Machine/Units.lean ====
section
/-! DEFINITION. The steps of a core's engines (R147 to R151, R198, R199, R223, R244), of page walks and page copies (R61, R65,
R419), of pool units (R101) and of returning results (R144). A step that the unit would not take now changes nothing but the mark
that it was missed (log 64). -/

namespace Sys2Proof.Machine

/-! ## Engines -/

/-- May the head entry's unit work on it? Its wait is over or can be tried again; of a strand that is to stop, only the entries
that run to their end go on (R379). -/
def unitMayRun (s : State) (c : Nat) (e : Entry) : Bool :=
  let walks := (dieAt s (c / 288)).walks.any (fun w => w.who.any (fun p => p.1 == 8 * c + e.q))
  let fine : Bool := match e.wait with
    | .none => true
    | .granule a => let p := placeOf c a; isFull s p.core p.off
    | .stream _ => (match e.op with | .mgo m => streamWaits s c e m == 0 | _ => true)
    | .other => !remoteBusy s c e && !walks
    | .far _ => false
    | _ => true
  e.begun && !e.ended && e.fault.isNone && fine && (mayMove s c e || runsOut e)

/-- A step of a head entry, unless it leaves the entry as it stands. -/
def entryStep (s : State) (c : Nat) (e : Entry) (s' : State) : Host.Outcome State Fault Refusal :=
  if headEntry s' c e.q = some e ∧ (strandAt s' ⟨c, e.sx⟩).pendTrap = (strandAt s ⟨c, e.sx⟩).pendTrap then notNow s
  else .next s'

/-- An entry that has taken its tokens begins. -/
def beginEntry (s : State) (c : Nat) (e : Entry) : State :=
  if e.q = 2 then matrixBegin s c e
  else if e.q = 1 then putEntry s c e
  else if noWork s e then
    match copyCheck s c e with
    | .error cause => failEntry s c e cause
    | .ok _ => putEntry s c (e.finish (noWorkResult e))
  else putEntry s c e

/-- ENGINE_ENTRY_BEGIN (R150, R151): the head takes its tokens, or waits for the first that is missing; behind a running MGO
the next shadow writer begins (R244). -/
def execEngineEntryBegin (core : Nat) (q : BitVec 2) (s : State) : Host.Outcome State Fault Refusal :=
  match headEntry s core q.toNat with
  | none => notNow s
  | some e =>
    if e.begun then
      (match (if q = 2 then nextBehind (queueAt s core 2) else none) with
      | some (i, b) =>
        if mayBegin s core b && (b.begun || (missingToken s ⟨core, b.sx⟩ (takeFifos 2 b.take)).isNone) then
          .next (beginBehind s core i b)
        else notNow s
      | none => notNow s)
    else if !mayBegin s core e then notNow s
    else match takeEntryTokens s core e with
      | .error f => entryStep s core e (holdEntry s core e (.tokens f))
      | .ok (s, e) => .next (beginEntry s core e)

/-- COPY_SECTOR (R198): side 0 is LQ's, side 1 SQ's. -/
def execCopySector (core : Nat) (side : BitVec 1) (s : State) : Host.Outcome State Fault Refusal :=
  match headEntry s core (3 * side.toNat) with
  | none => notNow s
  | some e =>
    if !unitMayRun s core e then notNow s
    else
      let f := { e with wait := .none }
      entryStep s core e (match e.op with
        | .pgin va frame => pginStep s core e va frame
        | _ => copyStep s core f)

/-- VECTOR_ROW (R223). -/
def execVectorRow (core : Nat) (s : State) : Host.Outcome State Fault Refusal :=
  match headEntry s core 1 with
  | none => notNow s
  | some e => if !unitMayRun s core e then notNow s else entryStep s core e (vecStep s core e)

/-- REDUCTION_RETIRE (R248, R256): the running MGO's next reduction, or the next row of an MDRAIN.port. -/
def execReductionRetire (core : Nat) (s : State) : Host.Outcome State Fault Refusal :=
  match headEntry s core 2 with
  | none => notNow s
  | some e =>
    if !unitMayRun s core e then notNow s else entryStep s core e (matrixStep s core e)

/-- Does a full FIFO, the full result queue or a remote write that a release covers hold up an entry's completion (R149, R195,
R199, R321)? -/
def completionHeld (s : State) (c : Nat) (e : Entry) : Bool :=
  (fullFifo s c (giveFifos e.q e.give)).isSome || releaseHeldUp s c e ||
    (e.prog.result.isSome && decide (16 ≤ (strandAt s ⟨c, e.sx⟩).resq.length))

/-- ENGINE_ENTRY_COMPLETE (R199). -/
def execEngineEntryComplete (core : Nat) (q : BitVec 2) (s : State) : Host.Outcome State Fault Refusal :=
  match headEntry s core q.toNat with
  | none => notNow s
  | some e =>
    if !e.ended || e.fault.isSome || (strandAt s ⟨core, e.sx⟩).atStop then notNow s
    else if completionHeld s core e then entryStep s core e (completeEntry s core e)
    else .next (completeEntry s core e)

/-! ## Page walks (R60, R61, R416) -/

/-- An entry whose walk failed takes the cause with its own address; a strand takes it when its access tries again. -/
def failWalk (s : State) (ctx : Nat) (w : Nat × Nat) : State :=
  if 4 ≤ w.1 % 8 then onStrand s ⟨w.1 / 8, w.1 % 8 - 4⟩ (fun t => { t with walked := some w.2 })
  else match walk s ctx w.2, headEntry s (w.1 / 8) (w.1 % 8) with
  | .error cause, some e =>
    if e.begun && e.wait == .other && e.fault.isNone && (jobAt s e.job).ctx == ctx then failEntry s (w.1 / 8) e cause else s
  | _, _ => s

/-- PAGE_WALK_COMPLETE (R61). -/
def execPageWalkComplete (die : BitVec 3) (s : State) : Host.Outcome State Fault Refusal :=
  let d := die.toNat
  match (if packageRuns s then (dieAt s d).walks else []) with
  | [] => notNow s
  | w :: rest =>
    let s := sampleFor (onDie s d (fun k => { k with walks := rest })) 6 d (s.cycle - w.since)
    match walk s w.ctx w.va with
    | .error _ => .next (w.who.foldl (fun s r => failWalk s w.ctx r) s)
    | .ok (e, pa, psz) =>
      .next (onDie s d (fun k => { k with tlb := tlbAdd8 k.tlb ⟨w.ctx, psz, w.va / pageSize psz, e, pa⟩ }))

/-! ## Page copies (R65, R208, R419) -/

/-- The entries and strands that a failed copy stops take the cause (R419): PGIN's own entry, or for an autopage copy the
held entry or access that started it. -/
def failPage (code : Nat) (s : State) (c : Nat) (p : PageCopy) : State :=
  let cause : Cause := ⟨code, p.va, p.frame, p.psz⟩
  if p.auto then
    let held (q : Nat) : Option Entry := match headEntry s c q with
      | some e => if e.sx == p.sx && e.wait == .far p.va && e.fault.isNone then some e else none
      | none => none
    match (held 0).orElse (fun _ => held 3) with
    | some e => signalTrap (putEntry s c { e with fault := some cause }) ⟨c, e.sx⟩ (engTrap e cause)
    | none =>
      let a : At := ⟨c, p.sx⟩
      (match (strandAt s a).wait with
      | some ⟨.far v, _, _, _⟩ => if v = p.va then signalTrap s a (ccTrap s a cause) else s
      | _ => s)
  else
    let l := queueAt s c 0
    match l.find? (fun e => e.sx == p.sx && e.seq == p.seq && e.fault.isNone && (match e.op with | .pgin .. => true | _ => false)) with
    | some e =>
      let s := setQueue s c 0 (l.map (fun f => if f.sx == e.sx && f.seq == e.seq then { f with fault := some cause } else f))
      signalTrap s ⟨c, p.sx⟩ (engTrap e cause)
    | none => s

/-- Takes every copy of a page off the page paths, and lets others run. -/
def dropPages (s : State) (pte : Nat) : State :=
  let s := { s with cores := s.cores.map (fun (k : Nat × Core) =>
    if k.2.pages.any (fun p => p.pte == pte) then (k.1, { k.2 with pages := k.2.pages.filter (fun p => p.pte != pte) }) else k) }
  s.cores.foldl (fun s k => if k.2.pages.any (fun p => !p.running) then runPages s k.1 else s) s

/-- The copies of a page on every core, with their cores. -/
def pagesOf (s : State) (pte : Nat) : List (Nat × PageCopy) :=
  s.cores.flatMap (fun k => (k.2.pages.filter (fun p => p.pte == pte)).map (fun p => (k.1, p)))

/-- A frame that an autopage copy took goes back to the head of its ring (R419, log 31). -/
def giveFrame (s : State) (p : PageCopy) : State :=
  let x := ctxAt s p.ctx
  if !p.auto || p.frame = 0 || x.pgsize = 0 then s
  else
    let h := (x.pghead + x.pgsize - 1) % x.pgsize
    match translateFlat s p.ctx (x.pgring + 8 * h) false with
    | .ok (loc, _) =>
      let s := if loadNat s loc 8 = p.frame then s else storeNat s loc 8 p.frame
      onCtx s p.ctx (fun x => { x with pghead := h })
    | .error _ => s

/-- A page copy fails with a code (R419): the page stays far; the frame's contents are undefined. -/
def failCopy (s : State) (p : PageCopy) (code : Nat) : State :=
  let size := pageSize p.psz
  let all := pagesOf s p.pte
  let s := { s with mem := s.mem.free p.frame size s.freeCount, freeCount := s.freeCount + 1 }
  let s := giveFrame (dropPages s p.pte) p
  all.foldl (fun s x => failPage code s x.1 x.2) s

/-- A page copy has brought its page in (R65). -/
def bringIn (s : State) (p : PageCopy) (leaf : Nat) : State :=
  let size := pageSize p.psz
  let s := if s.poison.isEmpty then s else clearPoison s p.frame size
  let s := { s with mem := s.mem.copy (pteAddr leaf) p.frame size }
  let new := leaf - place (bits leaf 8 36) 8 36 + place (p.frame / 256) 8 36 - (if bit leaf 4 then 2 ^ 4 else 0)
  let s := invalidatePage (storeNat s p.pte 8 new) p.pte
  dropPages (releasePage s p.pte) p.pte

/-- PAGE_COPY_COMPLETE (R65, R419): bad 1 is a line that the expander delivers poisoned, bad 2 a port that is lost. -/
def execPageCopyComplete (core : Nat) (i : Nat) (bad : BitVec 2) (s : State) : Host.Outcome State Fault Refusal :=
  match (coreAt s core).pages[i]? with
  | none => notNow s
  | some p =>
    if !p.running then notNow s
    else
      let leaf := loadNat s p.pte 8
      if !bit leaf 4 then .next (dropPages (releasePage s p.pte) p.pte)
      else if bad = 2 ∨ !portUp s (pteAddr leaf) then .next (failCopy s p 0x33)
      else if bad ≠ 0 ∨ (poisoned s (pteAddr leaf) (pageSize p.psz)).isSome then .next (failCopy s p 0x32)
      else .next (bringIn s p leaf)

/-! ## Pool units (R101, R110) -/

/-- The runs of a head that found no general slot try again (R110). -/
def retryRuns (s : State) (n : Nat) (h : Nat × Head) : State :=
  (h.2.subs.zipIdx).foldl (fun s x =>
    if x.1.state = 1 ∧ !x.1.queued then
      let (s', b) := pushRun s h.2.job (h.1 % 2 ^ 64) x.2 x.1
      if b.queued then
        match tabFind (unitAt s' n).heads h.1 with
        | some hd => onUnit s' n (fun u => { u with heads := tabPut u.heads h.1 { hd with subs := setNth hd.subs x.2 b } })
        | none => s'
      else s
    else s) s

/-- POOL_UNIT_CYCLE (R101). -/
def execPoolUnitCycle (unit : Nat) (s : State) : Host.Outcome State Fault Refusal :=
  if !packageRuns s then notNow s
  else .next ((unitAt s unit).heads.foldl (fun s h => retryRuns s unit h) (unitCycle s unit))

/-! ## Returning results (R144, R169) -/

/-- The first result that has come back, and the others. -/
def takeSb : List Sb → Option (Sb × List Sb)
  | [] => none
  | e :: t => if e.val.isSome then some (e, t) else (takeSb t).map (fun r => (r.1, e :: r.2))

/-- A result reaches its register. -/
def landSb (e : Sb) (t : Strand) : Strand :=
  match e.dest, e.val with
  | .g n, some v => { t with g := tabPut t.g n v }
  | .p n, some v => putP n (v != 0) t
  | _, _ => t

/-- SCOREBOARD_RETURN (R44, R144). -/
def execScoreboardReturn (core : Nat) (sx : Nat) (s : State) : Host.Outcome State Fault Refusal :=
  match takeSb (strandAt s ⟨core, sx⟩).sb with
  | none => notNow s
  | some (e, rest) => .next (onStrand s ⟨core, sx⟩ (fun t => { landSb e t with sb := rest }))

end Sys2Proof.Machine
end

