-- ==== Sys2Proof/Machine/Sched.lean ====
section
/-! DEFINITION. The timetable (R302, R304), events (R311 to R313), wait expiry (R424 to R427), asynchronous causes (R428), the
start of tasks and steals (R22, R27, R448), settle sets (R283), firing that waits too long (R431). -/

namespace Sys2Proof.Machine

/-! ## The timetable -/

/-- Cycles of a share in a period (R302). -/
def shareCycles (ttper share : Nat) : Nat := (share + 1) * ttper / 256

/-- Cycles left in the period, this one included (R302). -/
def periodLeft (s : State) : Nat := if s.dev.ttper = 0 then 0 else s.dev.ttper - s.cycle % s.dev.ttper

/-- A held context at a period start (R302); a budget below −TTPER is recorded once per task (R443). -/
def periodStrand (s : State) (a : At) : State :=
  let t := strandAt s a
  if t.holder.isNone then s
  else
    let s := if t.segbud < -(s.dev.ttper : Int) ∧ !t.overran then
        logStrand (onStrand s a (fun t => { t with overran := true })) 0x90 0 a 0 (wrap t.segbud 64)
      else s
    onStrand s a (fun t => { t with segbud := (shareCycles s.dev.ttper t.share : Int) + min 0 t.segbud })

/-- PERIOD_START (R302). -/
def execPeriodStart (core : Nat) (s : State) : Host.Outcome State Fault Refusal :=
  if !(coreAt s core).periodDue then notNow s
  else
    let s := onCore s core (fun k => { k with periodDue := false })
    .next ([0, 1, 2, 3].foldl (fun s x => periodStrand s ⟨core, x⟩) s)

/-- Is a job's work issued, neither stopped nor ended? -/
def jobRuns (s : State) (j : Nat) : Bool := (jobAt s j).phase == 1 && !(jobAt s j).killed

/-- The ready strands of a core that may be chosen; one for which a trap waits takes it at its turn (R381). -/
def readyStrands (s : State) (c : Nat) : List Nat :=
  (List.range 4).filter (fun x =>
    let t := strandAt s ⟨c, x⟩
    t.status == .ready && !t.atStop && jobRuns s (jobOf s ⟨c, x⟩))

/-- A core's slack (R303). -/
def slackOf (s : State) (c : Nat) : Int :=
  (periodLeft s : Int) - (List.range 4).foldl (fun n x =>
    let t := strandAt s ⟨c, x⟩
    if t.holder.isSome && t.task.isSome then n + max 0 t.segbud else n) 0

/-- Order of two candidates (R304): class, energy while throttling, rotation. -/
def before (s : State) (c : Nat) (throttling : Bool) (x y : Nat) : Bool :=
  let key (x : Nat) : Nat × Nat × Nat :=
    let t := strandAt s ⟨c, x⟩
    (t.cls, if throttling then t.energy else 0, (x + 3 - (coreAt s c).lastTurn) % 4)
  let a := key x
  let b := key y
  decide (a.1 < b.1 ∨ (a.1 = b.1 ∧ (a.2.1 < b.2.1 ∨ (a.2.1 = b.2.1 ∧ a.2.2 < b.2.2))))

/-- The strand the timetable chooses (R304). -/
def chooseStrand (s : State) (c : Nat) : Option Nat :=
  let d := dieAt s (c / 288)
  let throttling := decide (d.thead < d.hthr)
  let ready := readyStrands s c
  let cand := ready.filter (fun x =>
    let t := strandAt s ⟨c, x⟩
    decide (0 < t.segbud) && decide ((t.cost : Int) ≤ t.segbud))
  let cand :=
    if throttling ∧ (d.slk : Int) ≤ slackOf s c then cand.filter (fun x => decide ((strandAt s ⟨c, x⟩).energy ≤ d.ecap))
    else if cand.isEmpty then ready else cand
  (sortBy (before s c throttling) cand).head?

/-- A waiting strand without the turn, which a waiting strand keeps (R21): a restore has given it back (R310, log 86). -/
def waitingStrand (s : State) (c : Nat) : Option Nat :=
  (List.range 4).find? (fun x => (strandAt s ⟨c, x⟩).status == .waiting && !(strandAt s ⟨c, x⟩).atStop && jobRuns s (jobOf s ⟨c, x⟩))

/-- STRAND_CHOICE (R304): no choice is made while a strand has its turn, nor in a thermal hold (R463); a restored strand that
waits has its turn back first. -/
def execStrandChoice (core : Nat) (s : State) : Host.Outcome State Fault Refusal :=
  if (coreAt s core).turn.isSome || (dieAt s (core / 288)).hold then notNow s
  else match waitingStrand s core, chooseStrand s core with
    | some x, _ => .next (onCore s core (fun k => { k with turn := some x }))
    | none, none => notNow s
    | none, some x =>
      .next (onStrand (onCore s core (fun k => { k with turn := some x, lastTurn := x })) ⟨core, x⟩
        (fun t => { t with status := .running }))

/-! ## Events (R311 to R313) -/

/-- The registers g1 to g4 that carry an event record (R64). -/
def eventWords (e : Event) : List Dword :=
  [.ofNat 64 e.va,
   .ofNat 64 (place e.etype 32 8 + place e.src 4 4 + place e.psz 2 2 + b2n e.wr * 2),
   .ofNat 64 (e.seq % 2 ^ 32),
   0]

/-- May a pending event be delivered now (R313): at the end of the strand's segment, to a waiting strand, or at the turn of one
that was parked? What is out for g1 to g4 returns first, since delivery saves and writes them (R144). -/
def mayDeliver (t : Strand) : Bool :=
  takesEvents t && !t.evq.isEmpty && !g14Busy t &&
    ((t.status == .waiting && !t.evHeld) ||
     (t.evDue && (t.status == .running || (!t.evTurn && (t.status == .ready || t.status == .parked)))))

/-- A strand to which its oldest event is delivered. -/
def deliver (e : Event) (rest : List Event) (t : Strand) : Strand :=
  let t := landAll t
  let w := eventWords e
  { t with
    evq := rest
    evDue := false
    evTurn := false
    evslot := some ⟨t.pc.toNat, [1, 2, 3, 4].map (gVal t), t.lc, t.loop⟩
    g := (List.range 4).foldl (fun g i => tabPut g (i + 1) (w.getD i 0)) t.g
    y := [0, 0, 0, 0]
    loop := none
    wait := none
    status := if t.status = .waiting ∨ t.status = .running then .running else .ready
    pc := BitVec.ofNat 52 t.evec }

/-- EVENT_DELIVERY (R313); a strand of a job that is being stopped keeps its events (R306). With EVEC 0 the strand traps instead, and the event stays pending (R397). -/
def execEventDelivery (core : Nat) (sx : Nat) (s : State) : Host.Outcome State Fault Refusal :=
  let a : At := ⟨core, sx⟩
  let t := strandAt s a
  match t.evq with
  | [] => notNow s
  | e :: rest =>
    if !mayDeliver t || !jobRuns s (jobOf s a) then notNow s
    else if t.evec = 0 then .next (signalTrap s a { ccTrap s a ⟨0x83, t.pc.toNat, 0, 0⟩ with cls := 2 })
    else .next (onStrand (unpark s a) a (deliver e rest))

/-! ## Wait expiry (R424 to R427) -/

/-- Tokens given and taken at a FIFO (R426). -/
def tokenCounts (t : Strand) (f : Nat) : Nat := tabGet 0 t.gave f * 2 ^ 32 + tabGet 0 t.took f

/-- The counts of the bank of a granule named by a tagged address (R426). -/
def bankCounts (s : State) (c g : Nat) : Nat :=
  let p := placeOf c g
  let k := coreAt s p.core
  tabGet 0 k.bankSets (p.off / 65536) * 2 ^ 32 + tabGet 0 k.bankTakes (p.off / 65536)

/-- Live joined children of a strand's task. -/
def taskJoins (s : State) (a : At) : Nat := match (strandAt s a).task with | some k => joinCount s k.id | none => 0

/-- Has every member of the gang arrived at the barrier whose PHASE a strand stands at (R32)? -/
def gangArrived (s : State) (a : At) : Bool :=
  let t := strandAt s a
  (List.range 6).any (fun lvl => t.arrived.contains (8 * t.pc.toNat + lvl) &&
    (gangCount s (jobOf s a) lvl a.c (tabGet 0 t.phases lvl)).2 == 0)

/-- Would the WAITC of an address whose last read gave v read another value now (R191)? On the symmetric heap: has an answer
come? -/
def wordChanged (s : State) (a : At) (va v : Nat) : Bool :=
  match reach s a va false with
  | .ok (_, .remote ..) => (grantOf (strandAt s a) (2 * (strandAt s a).pc.toNat + 1)).isSome
  | .ok (s, r) => reachRead s a r 8 != v
  | .error _ => false

/-- Has the condition of a CC wait come true (R424)? Where the model cannot tell without issuing, no. -/
def waitMet (s : State) (a : At) (w : Wait) : Bool :=
  match w.kind with
  | .take f => (fifoAt s a.c f).contains a.x
  | .granule g => let p := placeOf a.c g; isFull s p.core p.off
  | .enq => (match (strandAt s a).task with | some k => (dequeSlot (coreAt s a.c) k.depth).isSome | none => true)
  | .mbpost => mayPost (clusterAt s (a.c / 48)) a
  | .swait i => settledSet s (jobOf s a) i
  | .talloc _ => (grantOf (strandAt s a) (2 * (strandAt s a).pc.toNat)).isSome
  | .stall 0 => decide ((fifoAt s a.c w.arg).length < 16)
  | .stall 1 => !(strandAt s a).resq.isEmpty
  | .stall 3 => decide (framesUsed s a.c (ctxOf s a) < 64) || taskJoins s a == 0
  | .stall 4 => decide (framesUsed s a.c (ctxOf s a) < 64) ||
    (match (strandAt s a).task with | some k => (dequeSlot (coreAt s a.c) k.depth).isSome | none => true)
  | .stall 5 => gangArrived s a
  | .watch va => wordChanged s a va w.arg
  | _ => false

/-- The cause of a CC wait that expires, or none for a wait without a bound (R426). -/
def ccExpiry (s : State) (a : At) (w : Wait) : Option Cause :=
  let t := strandAt s a
  match w.kind with
  | .take f => some ⟨0x60 + f, f, tokenCounts t f, w.elapsed⟩
  | .granule g => some ⟨0x68, g, bankCounts s a.c g, w.elapsed⟩
  | .talloc v =>
    let q := poolAt (unitAt s (if bits v 60 4 = 3 then a.c / 48 * 48 + bits v 48 6 else 1728 + bits v 48 6))
      (64 * ctxOf s a + bits v 54 6)
    some ⟨0x69, v, ringEnds q, w.elapsed⟩
  | .enq =>
    let k := coreAt s a.c
    let b := tabGet (0, 0) k.dqBase (jobOf s a)
    some ⟨0x6A, a.c % 48, (k.dqPushes - b.1) % 2 ^ 32 + (k.dqPops - b.2) % 2 ^ 32 * 2 ^ 32, w.elapsed⟩
  | .mbpost =>
    let k := clusterAt s (a.c / 48)
    some ⟨0x6B, a.c / 48, k.posts + k.takes * 2 ^ 32, w.elapsed⟩
  | .swait i =>
    let m := setMembers s (jobOf s a) i
    some ⟨0x6C, i, m.1 + m.2 * 2 ^ 32, w.elapsed⟩
  | .park n => some ⟨0x6D, n, (nwAt s n).val, w.elapsed⟩
  | .stall 0 => some ⟨0x6E, 0, bits (tokenCounts t w.arg) 0 61 + w.arg * 2 ^ 61, w.elapsed⟩
  | .stall 1 => some ⟨0x6E, 1, t.resPushed * 2 ^ 32 + t.resPopped, w.elapsed⟩
  | .watch _ => some ⟨0x6E, 2, w.arg, w.elapsed⟩
  | .stall k => some ⟨0x6E, k, w.arg, w.elapsed⟩
  | _ => none

/-- A CC wait expires: its request is withdrawn (R425). -/
def expireStrand (s : State) (a : At) (c : Cause) : State :=
  let s := unpark (withdrawAt s a (strandAt s a).pc.toNat) a
  signalTrap (onStrand s a (fun t => { t with wait := none })) a { ccTrap s a c with cls := 2 }

/-- The cause of an engine wait that expires (R426). -/
def engineExpiry (s : State) (c : Nat) (e : Entry) : Option Cause :=
  match e.wait with
  | .tokens f => some ⟨0x60 + f, 256 + f, tokenCounts (strandAt s ⟨c, e.sx⟩) f, e.waited⟩
  | .granule g => some ⟨0x68, g, bankCounts s c g, e.waited⟩
  | .room k f => some ⟨0x6F, k, f, e.waited⟩
  | .stream m => some ⟨0x6F, 2, (match e.op with | .mgo k => streamWaits s c e k | _ => m), e.waited⟩
  | _ => none

/-- An engine wait expires: its entry stops faulting (R425, R427); a multicast member leaves its stream. -/
def expireEntry (s : State) (c : Nat) (e : Entry) (cause : Cause) : State :=
  let s := match e.wait, e.op with | .stream _, .mgo m => leaveStream s c m | _, _ => s
  let s := putEntry (restoreTaken s e) c { forgetTaken e with fault := some cause, wait := .none }
  signalTrap s ⟨c, e.sx⟩ { engTrap e cause with cls := 2 }

/-- WAIT_EXPIRY (R424): who is a context (0 to 3) or 4 + a queue. -/
def execWaitExpiry (core : Nat) (who : Nat) (s : State) : Host.Outcome State Fault Refusal :=
  if who < 4 then
    let a : At := ⟨core, who⟩
    match (strandAt s a).wait with
    | none => notNow s
    | some w =>
      match ccExpiry s a w with
      | none => notNow s
      | some c =>
        if w.elapsed < w.bound ∨ (strandAt s a).pendTrap.isSome ∨ (strandAt s a).atStop ∨ waitMet s a w then notNow s
        else .next (expireStrand s a c)
  else
    match headEntry s core (who - 4) with
    | none => notNow s
    | some e =>
      match engineExpiry s core e with
      | none => notNow s
      | some c =>
        if e.waited < e.limit ∨ e.fault.isSome ∨ !(mayMove s core e || runsOut e) then notNow s
        else .next (expireEntry s core e c)

/-- ASYNC_POOL_CAUSE (R428): also the causes of remote accesses and of collectives that reach a strand (R456, R458). -/
def execAsyncPoolCause (core : Nat) (sx : Nat) (s : State) : Host.Outcome State Fault Refusal :=
  let a : At := ⟨core, sx⟩
  let t := strandAt s a
  match t.asyncs with
  | [] => notNow s
  | p :: rest =>
    if t.pendTrap.isSome || t.atStop || t.task.isNone || !jobRuns s (jobOf s a) then notNow s
    else .next (signalTrap (onStrand s a (fun t => { t with asyncs := rest })) a p)

/-! ## Tasks that start (R22, R448) -/

/-- Where an idle strand finds work. -/
inductive Source where
  /-- A task to be re-executed, by its place in the front's list. -/
  | rerun (i : Nat) (k : Task)
  /-- An evicted task, by its place among the core's frames. -/
  | frame (i : Nat) (f : JoinFrame)
  | card
  | entry (e : DqEntry)

/-- The job an idle strand seeks work of, while its core's clocks run (R357). -/
def seeks (s : State) (a : At) : Option Nat :=
  let t := strandAt s a
  if t.status = .idle ∧ clocksRun s a.c then (match t.holder with | some j => if jobRuns s j then some j else none | none => none) else none

/-- Is a steal request of the strand outstanding (R27)? A strand that waits for its next round may take work. -/
def stealing (s : State) (a : At) : Bool := (coreAt s a.c).steals.any (fun r => r.sx == a.x && !r.retry)

/-- The cores of a job's placement (R28), rising. -/
def placedCores (b : Job) : List Nat :=
  (setBits 36 b.clusters).flatMap (fun k => (List.range (b.ncore + 1)).map (fun i => 48 * k + b.core0 + i))

/-- The core on which the front places a re-executed task (R448). -/
def rerunCore (s : State) (j failed : Nat) : Option Nat :=
  (placedCores (jobAt s j)).find? (fun c => c != failed && !(coreAt s c).fenced &&
    (List.range 4).any (fun x => seeks s ⟨c, x⟩ == some j && !stealing s ⟨c, x⟩))

/-- The work an idle strand would take, in the order of R22; none begins on a fenced core (R449). -/
def sourceOf (s : State) (a : At) : Option Source :=
  match seeks s a with
  | none => none
  | some j =>
    if stealing s a then none
    else
      let k := coreAt s a.c
      match s.reruns.zipIdx.find? (fun r => r.1.1.job == j && rerunCore s j r.1.2 == some a.c) with
      | some ((t, _), i) => some (.rerun i t)
      | none => match readyFrame s a j with
        | some (i, f) => some (.frame i f)
        | none =>
          if k.fenced then none
          else if 0 < tabGet 0 (jobAt s j).pending a.c then some .card
          else if k.dqBusy then none
          else (dequeFind k j false).map .entry

/-- Starts a re-executed task with the start state it had (R23, R448). -/
def startRerun (s : State) (a : At) (k : Task) : State :=
  let (s, id) := newTask s
  let b := jobAt s k.job
  let cx := ctxAt s b.ctx
  let k := { k with id := id }
  if k.card then
    onStrand s a (fun t => startStrand { t with tvec := cx.tvecd, evec := cx.evecd, wlim := cx.wlimd } k k.entry
      [.ofNat 64 b.card, .ofNat 64 b.records, .ofNat 64 b.rsize, .ofNat 64 b.id] [] 0)
  else onStrand s a (fun t => startStrand t k k.entry [.ofNat 64 k.arg, 0, 0, .ofNat 64 b.id] k.shapes 0)

/-- An idle strand takes work. -/
def takeSource (s : State) (a : At) (w : Source) : State :=
  let s := onCore s a.c (fun k => { k with steals := k.steals.filter (fun r => r.sx != a.x) })
  match w with
  | .rerun i k => startRerun { s with reruns := s.reruns.eraseIdx i } a k
  | .frame i f =>
    let s := onCore s a.c (fun k => { k with joins := k.joins.eraseIdx i })
    let s := match f.inline with | some n => { s with joinCnt := tabDel s.joinCnt n } | none => s
    resumeFrame s a f
  | .card => startCard s a ((strandAt s a).holder.getD 0)
  | .entry e => startEntry (dequeTake s a.c e.stamp) a e

/-- TASK_START (R22): the lowest-numbered idle context of a core is served first. -/
def execTaskStart (core : Nat) (sx : Nat) (s : State) : Host.Outcome State Fault Refusal :=
  if (List.range sx).any (fun y => (sourceOf s ⟨core, y⟩).isSome) then notNow s
  else match sourceOf s ⟨core, sx⟩ with
    | none => notNow s
    | some w => .next (takeSource s ⟨core, sx⟩ w)

/-! ## Steals (R27) -/

/-- The core of a cluster that a thief asks in its n-th attempt. -/
def victimOf (c n : Nat) : Nat := c / 48 * 48 + (c + n) % 48

/-- Has the strand no source of work of its own (R22, R27)? A deque that has served its operation of the cycle may still hold an
entry for it. -/
def noSource (s : State) (a : At) : Bool :=
  match seeks s a with
  | some j => (sourceOf s a).isNone && (dequeFind (coreAt s a.c) j false).isNone
  | none => false

/-- STEAL_REQUEST (R27): a strand with no other source of work asks the next core. -/
def execStealRequest (core : Nat) (sx : Nat) (s : State) : Host.Outcome State Fault Refusal :=
  let a : At := ⟨core, sx⟩
  let k := coreAt s core
  if !noSource s a || k.fenced || k.steals.any (fun r => r.sx == sx) then notNow s
  else .next (onCore s core (fun k => { k with steals := k.steals ++ [⟨sx, 1, false, s.cycle + 12, none⟩] }))

/-- Replaces a strand's steal request. -/
def putSteal (s : State) (c : Nat) (r : Steal) : State :=
  onCore s c (fun k => { k with steals := k.steals.map (fun q => if q.sx = r.sx then r else q) })

/-- Is another thief before core c in the victim's rotation (R27)? A request whose strand's job is being stopped is not served. -/
def stealPassed (s : State) (c v : Nat) : Bool :=
  let rank (d : Nat) : Nat := (d % 48 + 47 - (coreAt s v).lastSteal) % 48
  s.cores.any (fun k => k.1 / 48 == c / 48 && k.1 != c && decide (rank k.1 < rank c) &&
    k.2.steals.any (fun r => !r.retry && r.got.isNone && decide (r.due ≤ s.cycle) && victimOf k.1 r.tried == v &&
      (seeks s ⟨k.1, r.sx⟩).isSome))

/-- The steal request of a core that has been fenced (R449, log 84): it is withdrawn, and an entry already taken goes onto the
core's own deque, from which other cores may take it, as soon as a slot is free. -/
def fencedSteal (s : State) (c : Nat) (r : Steal) : Option State :=
  let s' := onCore s c (fun k => { k with steals := k.steals.filter (fun q => q.sx != r.sx) })
  match r.got with
  | none => some s'
  | some e => (dequeSlot (coreAt s c) e.depth).map (fun slot => dequePush s' c { e with slot := slot })

/-- STEAL_RESULT (R27, R449): an attempt returns, or the stolen task starts 36 cycles after it was asked for. A deque that has
served its operation of the cycle serves the steal in the next. Only a steal that succeeds counts as served in the deque's
rotation (log 85). -/
def execStealResult (core : Nat) (sx : Nat) (s : State) : Host.Outcome State Fault Refusal :=
  let a : At := ⟨core, sx⟩
  match (coreAt s core).steals.find? (fun r => r.sx == sx), seeks s a with
  | some r, some j =>
    if r.retry ∨ s.cycle < r.due then notNow s
    else if (coreAt s core).fenced then (match fencedSteal s core r with | some u => .next u | none => notNow s)
    else match r.got with
      | some e => .next (startEntry (onCore s core (fun k => { k with steals := k.steals.filter (fun q => q.sx != sx) })) a e)
      | none =>
        let v := victimOf core r.tried
        if stealPassed s core v then notNow s
        else match dequeFind (coreAt s v) j true with
          | some e =>
            if (coreAt s v).dqBusy then notNow s
            else
              let s := onCore (dequeTake s v e.stamp) v (fun k => { k with lastSteal := core % 48 })
              .next (putSteal s core { r with got := some e, due := r.due + 24 })
          | none =>
            if 47 ≤ r.tried then .next (putSteal s core { r with retry := true, due := s.cycle + 256 })
            else .next (putSteal s core { r with tried := r.tried + 1, due := s.cycle + 12 })
  | _, _ => notNow s

/-- STEAL_RETRY (R27): the round starts again. -/
def execStealRetry (core : Nat) (sx : Nat) (s : State) : Host.Outcome State Fault Refusal :=
  match (coreAt s core).steals.find? (fun r => r.sx == sx) with
  | some r =>
    if !r.retry || decide (s.cycle < r.due) || (seeks s ⟨core, sx⟩).isNone then notNow s
    else .next (putSteal s core { r with tried := 1, retry := false, due := s.cycle + 12 })
  | none => notNow s

/-! ## Versions (R283, R431) -/

/-- The strands of a job that wait in SWAIT for a set. -/
def setWaiters (s : State) (job set : Nat) : List At :=
  s.cores.flatMap (fun k => (k.2.strands.filter (fun t =>
    t.2.status == .waiting && t.2.task.any (fun q => q.job == job) && t.2.wait.any (fun w => w.kind == .swait set))).map
      (fun t => (⟨k.1, t.1⟩ : At)))

/-- SETTLE_EXAMINE (R283): a set that is settled lets the SWAITs that wait for it return. -/
def execSettleExamine (job : Nat) (set : Nat) (s : State) : Host.Outcome State Fault Refusal :=
  if !settledSet s job set then .next s
  else .next ((setWaiters s job set).foldl (fun s a => onStrand s a (advance 4 0 .seq)) s)

/-- SUBSCRIBER_FIRE_TIMEOUT (R431): a fired subscriber has waited its binder's WLIM for a general slot. While the binding task
runs it takes 0x57, once for each bound passed; after its end the subscriber ends unfinished. -/
def execSubscriberFireTimeout (head : BitVec 64) (sub : Nat) (s : State) : Host.Outcome State Fault Refusal :=
  let h := head.toNat
  let late (b : Sub) : Bool := b.state == 1 && !b.queued && decide (b.bLim ≤ b.waited)
  match s.units.findSome? (fun u => (u.2.heads.find? (fun k =>
      k.1 % 2 ^ 64 == h && (match k.2.subs[sub]? with | some b => late b | none => false))).map (fun k => (u.1, k.1 / 2 ^ 64))) with
  | none => notNow s
  | some (n, ctx) =>
    match headAt s n ctx h, tileAt s n ctx h with
    | some hd, some t => (match hd.subs[sub]? with
      | none => notNow s
      | some b =>
          if taskLives s b.bTask then
            let s := putHead s n ctx h (some (hd, t.count)) { hd with subs := setNth hd.subs sub { b with waited := 0 } } t.count
            .next (onTasks s (Strand.runs b.bTask) (fun t => { t with asyncs := t.asyncs ++ [⟨⟨0x57, h, 0, sub⟩, false, 0, 0, 0, 0, 2⟩] }))
          else
            let s := if b.holds then cancelDraw s b.bCore ctx hd.cur else s
            let b := { b with state := 6, unfinished := true, holds := false, waited := 0 }
            let s := putHead s n ctx h (some (hd, t.count)) { hd with subs := setNth hd.subs sub b } t.count
            .next (settleHead s b.bCore ctx h))
    | _, _ => notNow s

end Sys2Proof.Machine
end

