-- ==== Sys2Proof/Machine/Front.lean ====
section
/-! DEFINITION. The front: its memory accesses, graphs and single launches (R294 to R299, R440 to R442), job cards (R28), the
end of a job and what it reclaims (R30, R301, R432, R433, R445), capture and re-runs (R451, R452), CARD service (R29). -/

namespace Sys2Proof.Machine

/-! ## The front's memory accesses (R299, R346, R442) -/

/-- A page that the front or the stream controller brings in at once with a frame of the context's ring (R299, R442, log 32);
none where its PGIN fails. -/
def frontPageIn (s : State) (ctx va : Nat) : Option State :=
  match walk s ctx va with
  | .error _ => none
  | .ok (leaf, pte, psz) =>
    if !bit leaf 4 then some s
    else if !portUp s (pteAddr leaf) || (poisoned s (pteAddr leaf) (pageSize psz)).isSome then none
    else match (pagesOf s pte).find? (fun p => p.2.running) with
      | some (_, p) => some (bringIn s p leaf)
      | none => (takeFrame s ctx).map (fun (s, f) => bringIn s ⟨ctx, pageBase psz va, psz, pte, f, true, 0, 0, false, true⟩ leaf)

/-- The locations of pieces of global memory, each within a page, far pages brought in first. -/
def frontLocs (ctx : Nat) (wr : Bool) : List (Nat × Nat) → State → Option (State × List (Nat × Nat))
  | [], s => some (s, [])
  | (va, n) :: t, s =>
    let go (s : State) (loc : Nat) : Option (State × List (Nat × Nat)) :=
      (frontLocs ctx wr t s).map (fun r => (r.1, (loc, n) :: r.2))
    if 2 ^ 52 < va + n then none
    else match translateFlat s ctx va wr with
      | .error _ => none
      | .ok (loc, false) => go s loc
      | .ok (_, true) => match frontPageIn s ctx va with
        | none => none
        | some s => match translateFlat s ctx va wr with
          | .ok (loc, false) => go s loc
          | _ => none

/-- Reads n bytes of a context's global memory. -/
def frontRead (s : State) (ctx va n : Nat) : Option (State × List Byte) :=
  (frontLocs ctx false (pageCuts va n) s).map (fun (s, l) => (s, l.flatMap (fun p => loadN s p.1 p.2)))

/-- Writes bytes at locations in order. -/
def writeLocs : List (Nat × Nat) → List Byte → State → State
  | [], _, s => s
  | (loc, n) :: t, v, s => writeLocs t (v.drop n) (storeN s loc (v.take n))

/-- Writes bytes of a context's global memory. -/
def frontWrite (s : State) (ctx va : Nat) (v : List Byte) : Option State :=
  (frontLocs ctx true (pageCuts va v.length) s).map (fun (s, l) => writeLocs l v s)

/-! ## Graph slots (R294 to R296) -/

/-- Graph slot n. -/
def slotAt (s : State) (n : Nat) : Slot := tabGet .reset s.slots n

/-- Changes a graph slot. -/
def onSlot (s : State) (n : Nat) (f : Slot → Slot) : State := { s with slots := tabPut s.slots n (f (slotAt s n)) }

/-- The context that owns the slot. -/
def Slot.ctx (k : Slot) : Nat := bits k.gctl 32 4

/-- The slot's number of nodes. -/
def Slot.nodes (k : Slot) : Nat := bits k.gctl 0 12 + 1

/-- A refusal of a command of a slot is counted and recorded (R440, R441). -/
def refuseSlot (s : State) (slot code : Nat) : State :=
  let s := onSlot s slot (fun k => { k with gerr := (bits k.gerr 32 32 + 1) % 2 ^ 32 * 2 ^ 32 + code })
  logPlain s code 0 (slot * 4096) 0

/-- GRAPH_PARAMETER_WRITE (R295). -/
def execGraphParameterWrite (slot : BitVec 4) (k : BitVec 8) (v : BitVec 64) (s : State) : Host.Outcome State Fault Refusal :=
  .next (onSlot s slot.toNat (fun t =>
    let i := 256 * t.opened + k.toNat
    { t with
      params := tabPut t.params i v.toNat
      fresh := (s.cycle, (if t.fresh.1 = s.cycle then t.fresh.2 else []) ++ [(k.toNat, tabGet 0 t.params i, v.toNat)]) }))

/-- GRAPH_SLOT_CONFIG_WRITE (R294, R441): reg 0 is GBASE, 1 GPATCH, 2 GCTL. -/
def execGraphSlotConfigWrite (slot : BitVec 4) (reg : BitVec 2) (v : BitVec 64) (s : State) :
    Host.Outcome State Fault Refusal :=
  let n := slot.toNat
  let w := v.toNat
  if reg = 3 then notNow s
  else if !(slotAt s n).replays.isEmpty then .next (refuseSlot s n 0x8D)
  else .next (onSlot s n (fun k =>
    if reg = 0 then { k with gbase := bits w 0 52 }
    else if reg = 1 then { k with gpatch := bits w 0 52 }
    else { k with gctl := bits w 0 12 + place (bits w 16 20) 16 20 }))

/-! ## Done records (R301) -/

/-- Writes a completion record, if one is named and its address translates. -/
def writeDone (s : State) (ctx record id status : Nat) : State :=
  if record = 0 then s
  else (frontWrite s ctx record (leBytes 16 (id % 2 ^ 32 + status % 2 ^ 32 * 2 ^ 32 + s.cycle % 2 ^ 64 * 2 ^ 64))).getD s

/-! ## Nodes (R298, R442) -/

/-- Changes the running replay of a slot. -/
def onReplay (s : State) (n : Nat) (f : Replay → Replay) : State :=
  onSlot s n (fun k => match k.replays with | [] => k | r :: t => { k with replays := f r :: t })

/-- Marks node i of the running replay. -/
def markNode (s : State) (n i : Nat) (ended failed : Bool) : State :=
  onReplay s n (fun r => { r with
    started := setAdd r.started i
    ended := if ended then setAdd r.ended i else r.ended
    failed := if failed then setAdd r.failed i else r.failed })

/-- Field of the log record that names a slot and a node, or a card. -/
def nodeName (node : Option (Nat × Nat)) (card : Nat) : Nat :=
  match node with | some (k, i) => k * 4096 + i | none => card

/-- The lowest bad field of a job card (R28, R442), for 0x84. -/
def cardBad (v : Nat) : Option Nat :=
  let va (lo align : Nat) : Bool := bits v lo 64 % align ≠ 0 || decide (2 ^ 52 ≤ bits v lo 64)
  ([(0, va 0 4), (64, va 64 16), (168, bits v 168 8 ≠ 0), (182, bits v 182 2 ≠ 0), (228, bits v 228 4 ≠ 0),
    (244, bits v 244 12 ≠ 0), (272, decide (64 < bits v 272 8)), (280, bits v 280 8 ≠ 0), (320, va 320 16),
    (384, bits v 384 128 ≠ 0)].find? (·.2)).map (·.1)

/-- The job a card describes (R28), waiting to be issued. -/
def cardJob (s : State) (ctx card v : Nat) (node : Option (Nat × Nat)) : Job :=
  { Job.none with
    ctx := ctx, card := card, id := bits v 288 32, entry := bits v 0 64, records := bits v 64 64, count := bits v 128 32
    rsize := (bits v 160 8 + 1) * 16, strands := bits v 176 2, cls := bits v 178 2, restart := bit v 180, autopage := bit v 181
    share := bits v 184 8, clusters := bits v 192 36, core0 := bits v 232 6, ncore := bits v 238 6, kmax := bits v 256 16
    nsets := bits v 272 8, record := bits v 320 64, phase := 0, node := node, order := s.issueNext, readyAt := s.cycle }

/-- What a card fails by (R442), in the order 0x84, 0x85, 0x8F, with the field offset or reason. -/
def cardFails (s : State) (v : Nat) : Option (Nat × Nat) :=
  let b := cardJob s 0 0 v none
  match cardBad v with
  | some o => some (0x84, o)
  | none =>
    if b.clusters = 0 then some (0x85, 192)
    else if 47 < b.core0 + b.ncore then some (0x85, 232)
    else if (placedCores b).any (fun c => (coreAt s c).fenced) then some (0x8F, 1)
    else if 256 < (b.strands + 1) * (b.share + 1) then some (0x8F, 0)
    else none

/-- The result word of a capture entry (R451, R452) is written. -/
def putResult (s : State) (i v : Nat) : State := storeNat s (s.dev.capbase + 4096 * i + 904) 8 v

/-- A job node or single launch fails (R442): recorded, its done record written where the card can be read. -/
def failJobNode (s : State) (ctx card : Nat) (raw : Option Nat) (node replay : Option (Nat × Nat)) (code a1 : Nat) : State :=
  let s := logPlain s code 2 (nodeName node card) a1
  let s := match raw with
    | some v => if bits v 320 64 % 16 = 0 ∧ bits v 320 64 < 2 ^ 52 then writeDone s ctx (bits v 320 64) (bits v 288 32) (code * 2 ^ 24) else s
    | none => s
  let s := match replay with
    | some (i, _) => putResult s i (2 * 2 ^ 62 + code * 2 ^ 24 * 2 ^ 16 + 3)
    | none => s
  match node with
  | some (k, i) => markNode s k i true true
  | none => onCtx s ctx (fun x => { x with ended := (x.ended + 1) % 2 ^ 32 })

/-- A card becomes a waiting job, or fails (R298, R300, R442). -/
def readyCard (s : State) (ctx card v : Nat) (node : Option (Nat × Nat)) (replay : Option (Nat × Nat)) : State :=
  match cardFails s v with
  | some (code, a1) => failJobNode s ctx card (some v) node replay code a1
  | none =>
    let b := { cardJob s ctx card v node with replay := replay.map (·.1) }
    let s := { s with jobs := tabPut s.jobs s.jobNext b, jobNext := s.jobNext + 1, issueNext := s.issueNext + 1 }
    match node with
    | some (k, i) => markNode s k i false false
    | none => s

/-- The front reads a card when its node becomes ready (R442). -/
def readyNode (s : State) (ctx card : Nat) (node : Option (Nat × Nat)) : State :=
  if card % 64 ≠ 0 ∨ 2 ^ 52 ≤ card then failJobNode s ctx card none node none 0x84 0
  else match frontRead s ctx card 64 with
    | none => failJobNode s ctx card none node none 0x84 0
    | some (s, v) => readyCard s ctx card (leNat v) node none

/-- Does the dependence at bit lo of a node name a node that is not lower (R298)? -/
def depBad (v i lo : Nat) : Bool := bits v lo 12 ≠ 0xFFF && decide (i ≤ bits v lo 12)

/-- Is a node invalid (R298, R442)? -/
def nodeBad (v i : Nat) : Bool := decide (3 ≤ bits v 0 4) || depBad v i 72 || depBad v i 84

/-- The offset of the lowest bad field of an invalid node (R442). -/
def nodeBadAt (v i : Nat) : Nat := if 3 ≤ bits v 0 4 then 0 else if depBad v i 72 then 72 else 84

/-- The nodes a node depends on. -/
def nodeDeps (v i : Nat) : List Nat :=
  if bit v 71 then List.range i else [bits v 84 12, bits v 72 12].filter (· != 0xFFF)

/-- Node i of the running replay of slot n: it starts, completes, fails or is skipped, where it can. -/
def stepNode (n : Nat) (s : State) (i : Nat) : State :=
  let k := slotAt s n
  match k.replays with
  | [] => s
  | r :: _ =>
    if !r.begun || setHas r.started i then s
    else match r.nodes.getD i none with
      | none => markNode (logPlain s 0x8A 0 (n * 4096 + i) 0) n i true true
      | some v =>
        if nodeBad v i then markNode (logPlain s 0x8A 0 (n * 4096 + i) (nodeBadAt v i)) n i true true
        else
          let deps := nodeDeps v i
          if !deps.all (setHas r.ended) then s
          else if deps.any (setHas r.failed) then markNode s n i true true
          else if bits v 0 4 = 0 then markNode s n i true false
          else if bits v 0 4 = 1 then readyNode s k.ctx (bits v 192 64) (some (n, i))
          else
            let x : Stream := ⟨n, i, k.ctx, bits v 192 64, bits v 128 64, bits v 96 32, false⟩
            markNode { s with streams := s.streams ++ [x] } n i false false

/-! ## Replays (R296, R297) -/

/-- The first bad field of a patch entry (R297, R442), with its offset. -/
def patchBad (s : State) (ctx v : Nat) : Option Nat :=
  let w := if bits v 54 2 = 0 then 4 else 8
  if bits v 0 52 % w ≠ 0 ∨ (frontLocs ctx true [(bits v 0 52, w)] s).isNone then some 0
  else if bits v 52 2 ≠ 0 then some 52
  else if 2 ≤ bits v 54 2 then some 54
  else none

/-- The patch entries of a slot, if the table can be read. -/
def readPatches (s : State) (k : Slot) : Option (List Nat) :=
  if bits k.gctl 16 16 = 0 then some []
  else (frontRead s k.ctx k.gpatch (8 * bits k.gctl 16 16)).map (fun r => (chunks 8 r.2).map leNat)

/-- Applies one patch of a snapshot (R297). -/
def applyPatch (ctx : Nat) (snap : Tab Nat) (s : State) (v : Nat) : State :=
  let w := if bits v 54 2 = 0 then 4 else 8
  (frontWrite s ctx (bits v 0 52) (leBytes w (tabGet 0 snap (bits v 56 8)))).getD s

/-- Applies the patch table of a replay, or names what is bad in it: entry and field (R297, R442). -/
def applyPatches (s : State) (k : Slot) (r : Replay) : Except (Nat × Nat) State :=
  match readPatches s k with
  | none => .error (0, 0)
  | some l =>
    match l.zipIdx.findSome? (fun p => (patchBad s k.ctx p.1).map (fun o => (p.2, o))) with
    | some e => .error e
    | none => .ok (l.foldl (applyPatch k.ctx r.snap) s)

/-- A replay begins (R298): the scoreboard takes all of the slot's nodes, none where one cannot be read. -/
def beginReplay (s : State) (n : Nat) : State :=
  let k := slotAt s n
  let (s, l) := (List.range k.nodes).foldl (fun (x : State × List (Option Nat)) i =>
    match frontRead x.1 k.ctx (k.gbase + 32 * i) 32 with
    | some (s, w) => (s, x.2 ++ [some (leNat w)])
    | none => (x.1, x.2 ++ [none])) (s, [])
  onReplay s n (fun r => { r with begun := true, nodes := l })

/-- A replay ends (R298): the next one of its slot stands first. -/
def endReplay (s : State) (n : Nat) : State :=
  onSlot s n (fun k => { k with replays := k.replays.drop 1, done := (k.done + 1) % 2 ^ 32 })

/-- Moves the replays of a slot as far as they go: begin, nodes, end, next. The fuel covers a begin, a pass over the nodes
and an end for each of the two replays. After a failure of level 5 nothing more begins (R450). -/
def runReplay (n : Nat) : Nat → State → State
  | 0, s => s
  | f + 1, s =>
    let k := slotAt s n
    match k.replays with
    | [] => s
    | r :: _ =>
      if !r.begun then
        if s.fatal.isSome then s
        else match applyPatches s k r with
        | .error (i, o) => runReplay n f (endReplay (logPlain s 0x8B 0 (n * 4096) (64 * i + o)) n)
        | .ok s => runReplay n f (beginReplay s n)
      else
        let s := if s.fatal.isSome then s else (List.range k.nodes).foldl (stepNode n) s
        let done : Bool := match (slotAt s n).replays with
          | r :: _ => (List.range k.nodes).all (setHas r.ended)
          | [] => false
        if done then runReplay n f (endReplay s n) else s

/-- A node completes or fails, and its replay goes on (R298). -/
def completeNode (s : State) (node : Nat × Nat) (failed : Bool) : State :=
  match (slotAt s node.1).replays with
  | [] => s
  | _ :: _ => runReplay node.1 8 (markNode s node.1 node.2 true failed)

/-- May work be launched under a context (R441)? -/
def launchRefusal (s : State) (ctx : Nat) : Option Nat :=
  let x := ctxAt s ctx
  if s.dev.stage < 3 ∨ s.dev.plim = 0 then some 0x86
  else if x.ptroot = 0 ∨ x.savebase = 0 then some 0x87
  else none

/-- The parameter words of a bank. -/
def bankParams (p : Tab Nat) (bank : Nat) : Tab Nat :=
  (p.filter (fun e => e.1 / 256 == bank)).map (fun e => (e.1 % 256, e.2))

/-- The parameters of a slot as a START of bank b is accepted: a write of the same CYCLE lands in the bank it opens (R296). -/
def Slot.atStart (k : Slot) (cycle b : Nat) : Tab Nat :=
  let l := if k.fresh.1 = cycle then k.fresh.2 else []
  l.foldl (fun t w => tabPut t (256 * (1 - b) + w.1) w.2.2) (l.foldr (fun w t => tabPut t (256 * b + w.1) w.2.1) k.params)

/-- GSTART (R296, R441). -/
def execGstart (slot : BitVec 4) (bank : BitVec 1) (s : State) : Host.Outcome State Fault Refusal :=
  let n := slot.toNat
  let k := slotAt s n
  if 2 ≤ k.replays.length then .next (refuseSlot s n 0x88)
  else if bank.toNat ≠ k.opened then .next (refuseSlot s n 0x89)
  else match launchRefusal s k.ctx with
    | some code => .next (refuseSlot s n code)
    | none =>
      let s := onSlot s n (fun k =>
        let p := k.atStart s.cycle bank.toNat
        { k with
          params := p, fresh := (s.cycle, []), opened := 1 - bank.toNat
          replays := k.replays ++ [⟨bankParams p bank.toNat, false, [], [], [], []⟩] })
      .next (if k.replays.isEmpty then runReplay n 8 s else s)

/-- LAUNCH (R298, R344, R441). -/
def execLaunch (ctx : BitVec 4) (card : BitVec 52) (s : State) : Host.Outcome State Fault Refusal :=
  let c := ctx.toNat
  let x := ctxAt s c
  match launchRefusal s c with
  | some code => .next (logPlain s code 0 card.toNat 0)
  | none =>
    if 8 ≤ (x.launched + 2 ^ 32 - x.ended) % 2 ^ 32 then .next (logPlain s 0x8E 0 card.toNat 0)
    else .next (readyNode (onCtx s c (fun x => { x with launched := (x.launched + 1) % 2 ^ 32 })) c card.toNat none)

/-! ## Streams (R299) -/

/-- The package wakes for an access to HBM from outside its dies, unless PLIM holds it in L4 (R2, R358). -/
def wakeForAccess (s : State) : Option State :=
  if s.dev.pkg < 3 ∨ s.dev.plim ≠ 0 then some (wakePackage s) else none

/-- STREAM_NODE_START: the oldest ready stream node, eight at once. Its access wakes the package (R358). -/
def execStreamNodeStart (s : State) : Host.Outcome State Fault Refusal :=
  if 8 ≤ (s.streams.filter (·.active)).length ∨ s.fatal.isSome then notNow s
  else match s.streams.zipIdx.find? (fun x => !x.1.active) with
    | none => notNow s
    | some (x, i) => match wakeForAccess s with
      | none => notNow s
      | some s => .next { s with streams := setNth s.streams i { x with active := true } }

/-- Do n bytes at a location cover a part of a poisoned unit (R423)? -/
def partPoison (s : State) (loc n : Nat) : Bool := (poisoned (clearPoison s loc n) loc n).isSome

/-- Moves len bytes in 512-byte sectors, up to the first that fails, and gives the field of the node that is at fault: 192 src, 128
dst (R201, R298, R442). DEDUCED: on dst's side poison is a unit that the sector covers in part, for one it covers whole is clear
after it (R423). -/
def streamCopy (ctx : Nat) : Nat → Nat → Nat → Nat → State → State × Option Nat
  | 0, _, _, _, s => (s, none)
  | f + 1, src, dst, len, s =>
    if len = 0 then (s, none)
    else
      let n := Nat.min 512 len
      match frontLocs ctx false (pageCuts src n) s with
      | none => (s, some 192)
      | some (s, l) =>
        if l.any (fun p => (poisoned s p.1 p.2).isSome) then (s, some 192)
        else match frontLocs ctx true (pageCuts dst n) s with
          | none => (s, some 128)
          | some (s, m) =>
            if m.any (fun p => partPoison s p.1 p.2) then (s, some 128)
            else
            let v := l.flatMap (fun p => loadN s p.1 p.2)
            let d := dst - src
            let v := if src < dst ∧ dst < src + n then (List.range n).map (fun i => v.getD (i % d) 0) else v
            streamCopy ctx f (src + n) (dst + n) (len - n) (writeLocs m v s)

/-- STREAM_NODE_COMPLETE (R299, R442). -/
def execStreamNodeComplete (i : Nat) (s : State) : Host.Outcome State Fault Refusal :=
  match s.streams[i]? with
  | none => notNow s
  | some x =>
    match (if x.active then wakeForAccess s else none) with
    | none => notNow s
    | some s =>
      let (s, bad) := streamCopy x.ctx (ceilDiv x.len 512) x.src x.dst x.len { s with streams := s.streams.eraseIdx i }
      let s := match bad with | some o => logPlain s 0x8C 2 (x.slot * 4096 + x.node) o | none => s
      .next (completeNode s (x.slot, x.node) bad.isSome)

/-! ## Capture (R451, R452) -/


/-- The bytes of a range, as far as they can be read. -/
def captureBytes (s : State) (ctx va n : Nat) : List Byte :=
  match frontRead s ctx va n with | some (_, v) => v | none => []

/-- The digest of region i of the capture region table at CAPREG. -/
def regionDigest (s : State) (ctx i : Nat) : List Byte :=
  let v := leNat (captureBytes s ctx ((ctxAt s ctx).capreg + 16 * i) 16)
  if bits v 64 64 = 0 then List.replicate 48 0 else sha384 (captureBytes s ctx (bits v 0 64) (bits v 64 64))

/-- The digest of a job's argument records. -/
def recordsDigest (s : State) (b : Job) : List Byte := sha384 (captureBytes s b.ctx b.records (b.count * b.rsize))

/-- A capture entry as it stands at issue (R451). -/
def captureImage (s : State) (b : Job) : List Byte :=
  let (slot, node) := b.node.getD (0, 0)
  let snap : Tab Nat := match b.node with
    | some (k, _) => (match (slotAt s k).replays with | r :: _ => r.snap | [] => [])
    | none => []
  (captureBytes s b.ctx b.card 64 ++ List.replicate 64 0).take 64
    ++ leBytes 8 (b.id % 2 ^ 32 + node % 4096 * 2 ^ 32 + slot % 16 * 2 ^ 44) ++ leBytes 8 s.cycle ++ recordsDigest s b
    ++ (List.range 8).flatMap (regionDigest s b.ctx)
    ++ List.replicate (1024 - 512) 0
    ++ (if b.node.isSome then (List.range 256).flatMap (fun i => leBytes 8 (tabGet 0 snap i)) else List.replicate 2048 0)
    ++ List.replicate 1024 0

/-- Does a job match the capture filter (R436, R451)? -/
def captures (s : State) (b : Job) : Bool :=
  s.dev.capen && bit s.dev.capctx b.ctx && (s.dev.capjob == 0xFFFFFFFF || s.dev.capjob == b.id) && s.dev.capnent != 0

/-- The capture entry that a matching job writes when it issues. -/
def captureIssue (s : State) (j : Nat) : State :=
  let b := jobAt s j
  if !captures s b then s
  else
    let i := s.dev.caphead
    let s := storeN s (s.dev.capbase + 4096 * i) (captureImage s b)
    let s := { s with dev := { s.dev with capOf := tabPut s.dev.capOf i (b.ctx, b.card) } }
    onJob s j (fun b => { b with cap := some i })

/-- The entry is completed at the job's end. -/
def captureEnd (s : State) (b : Job) (status : Nat) : State :=
  match b.cap with
  | none => s
  | some i =>
    let at_ := s.dev.capbase + 4096 * i
    let s := storeN s (at_ + 512) ((List.range 8).flatMap (fun k => regionDigest s b.ctx (8 + k)))
    let s := storeNat s (at_ + 896) 8 status
    { s with dev := { s.dev with caphead := if s.dev.capnent = 0 then 0 else (s.dev.caphead + 1) % s.dev.capnent } }

/-- The result word of a re-run (R452). -/
def replayEnd (s : State) (b : Job) (status : Nat) : State :=
  match b.replay with
  | none => s
  | some i =>
    let at_ := s.dev.capbase + 4096 * i
    let diff := (List.range 8).foldl (fun d k =>
      d + b2n (loadN s (at_ + 512 + 48 * k) 48 != regionDigest s b.ctx (8 + k)) * 2 ^ k) 0
    let res := if bits status 24 8 ≠ 0 then 3 else if diff ≠ 0 then 1 else 0
    putResult s i (2 * 2 ^ 62 + status % 2 ^ 32 * 2 ^ 16 + diff * 2 ^ 8 + res)

/-- REPLAY (R452): the entry's inputs are compared, and its card is launched again with a new placement. -/
def execReplay (v : BitVec 64) (s : State) : Host.Outcome State Fault Refusal :=
  let w := v.toNat
  let i := bits w 48 16
  match tabFind s.dev.capOf i with
  | none => .next s
  | some (ctx, card) =>
    let at_ := s.dev.capbase + 4096 * i
    let raw := loadNat s at_ 64
    let b := cardJob s ctx card raw none
    let same := loadN s (at_ + 80) 48 == recordsDigest s b &&
      (List.range 8).all (fun k => loadN s (at_ + 128 + 48 * k) 48 == regionDigest s ctx k)
    if !same then .next (putResult s i (2 * 2 ^ 62 + 2))
    else match launchRefusal s ctx with
      | some code => .next (logPlain s code 0 card 0)
      | none =>
        let x := ctxAt s ctx
        if 8 ≤ (x.launched + 2 ^ 32 - x.ended) % 2 ^ 32 then .next (logPlain s 0x8E 0 card 0)
        else
          let raw := raw - place (bits raw 192 36) 192 36 - place (bits raw 232 12) 232 12
            + place (bits w 0 36) 192 36 + place (bits w 36 12) 232 12
          let s := putResult s i (2 ^ 62)
          let s := onCtx s ctx (fun x => { x with launched := (x.launched + 1) % 2 ^ 32 })
          .next (readyCard s ctx card raw none (some (i, 0)))

/-! ## The end of a job (R30, R301, R432, R445) -/

/-- What a tile left at its job's end counts as (R432): class and count. -/
def tileClass (t : Tile) : Nat × Nat :=
  if t.kind = 3 then (2, 1) else if t.kind = 2 then (1, t.count - t.runs) else if t.orphan then (4, 1) else (0, t.count)

/-- Reclaims one tile. -/
def reclaimTile (n j : Nat) (s : State) (t : Tile) : State :=
  let (c, k) := tileClass t
  returnTile (reclaim s j c k) n t

/-- Reclaims the heads and tiles of a job at a pool unit; nothing sent to it stays. -/
def reclaimUnit (j : Nat) (s : State) (n : Nat) : State :=
  let u := unitAt s n
  let subs := (u.heads.filter (fun h => h.2.job == j)).foldl (fun k h =>
    k + (h.2.subs.filter (fun b => b.state != 6 || b.unfinished)).length) 0
  let s := reclaim s j 3 subs
  let s := onUnit s n (fun u => { u with
    heads := u.heads.filter (fun h => h.2.job != j), waits := u.waits.filter (fun w => w.job != j)
    inbox := u.inbox.filter (fun r => r.job != j) })
  (u.tiles.filter (fun t => t.job == j)).foldl (reclaimTile n j) s

/-- Reclaims the mailbox entries and collective launches of a job at a cluster; code is what an aborted launch's done word
names. -/
def reclaimCluster (j code : Nat) (s : State) (cl : Nat) : State :=
  let k := clusterAt s cl
  let mail := (k.mail.filter (fun m => m.job == j)).length
  let ls := k.launches.filter (fun l => l.job == j)
  let s := reclaim (reclaim s j 5 mail) j 6 ls.length
  let s := onCluster s cl (fun k => { k with mail := k.mail.filter (fun m => m.job != j) })
  ls.foldl (fun s l => abortSilent s cl l code) s

/-- Everything a job left behind is reclaimed (R432). -/
def reclaimJob (s : State) (j code : Nat) : State :=
  let s := (tabKeys s.units).foldl (reclaimUnit j) s
  (tabKeys s.clusters).foldl (reclaimCluster j code) s

/-- The contexts a job holds are free again, and what the cores, queues and lists hold of it is gone. -/
def releaseJob (s : State) (j : Nat) : State :=
  let s := { s with
    cores := s.cores.map (fun k => (k.1, { k.2 with
      strands := k.2.strands.map (fun t => if t.2.holder = some j then (t.1, { vacated t.2 with status := .free, holder := none }) else t)
      deque := k.2.deque.filter (fun e => e.job != j)
      dqBase := k.2.dqBase.filter (fun b => b.1 != j)
      steals := k.2.steals.filter (fun r => (tabGet Strand.reset k.2.strands r.sx).holder != some j)
      joins := k.2.joins.filter (fun f => f.job != j)
      saved := ((k.2.saved.filter (fun v => v.job != j || v.regs.isSome)).map (fun v =>
        if v.job = j then { v with strands := [], deque := [] } else v)).filter (fun v => v.regs.isNone || awaited s j k.2 v.ctx) }))
    cards := s.cards.filter (fun r => r.job != j)
    reruns := s.reruns.filter (fun r => r.1.job != j) }
  s
where
  /-- Is a suspended job of the context, other than j, still to be restored on a core, so that a saved core-state part is still to
  be written back (R300, R309)? -/
  awaited (s : State) (j : Nat) (k : Core) (ctx : Nat) : Bool :=
    k.saved.any (fun v => v.ctx == ctx && v.job != j && (jobAt s v.job).phase != 4)

/-- The steps of a CRST that wait for the end of the context's jobs (R447). -/
def finishReset (s : State) (c : Nat) : State :=
  let x := ctxAt s c
  if !x.resetting || s.jobs.any (fun b => b.2.ctx == c && b.2.phase != 4) then s
  else
    let s := { s with
      units := s.units.map (fun u => (u.1, { u.2 with pools := u.2.pools.map (fun p =>
        if p.1 / 64 = c then (p.1, { p.2 with valid := false }) else p) }))
      cores := s.cores.map (fun k => (k.1, { k.2 with tlb := k.2.tlb.filter (fun t => t.ctx != c) }))
      dies := s.dies.map (fun d => (d.1, { d.2 with tlb := d.2.tlb.filter (fun t => t.ctx != c) }))
      nw := s.nw.map (fun w => if x.nwrFirst ≤ w.1 ∧ w.1 < x.nwrFirst + x.nwrCount then (w.1, { w.2 with pending := false }) else w) }
    onCtx s c (fun x => { x with resetting := false, busy := false })

/-- The contexts that a job's saves leave held are free, and the job is suspended (R306). -/
def suspendJob (s : State) (j : Nat) : State :=
  let s := { s with cores := s.cores.map (fun k => (k.1, { k.2 with
    strands := k.2.strands.map (fun t => if t.2.holder = some j then (t.1, .reset) else t) })) }
  onJob s j (fun b => { b with phase := 3 })

/-- Once every core of every victim of a class-0 job has saved, their contexts are released together (R306). -/
def releaseVictims (s : State) (stopper : Option Nat) : State :=
  let mine := s.jobs.filter (fun o => o.2.phase == 2 && o.2.stopper == stopper && stopper.isSome)
  if mine.all (fun o => !o.2.killed && (placedCores o.2).all o.2.savedOn.contains) then
    mine.foldl (fun s o => suspendJob s o.1) s
  else s

/-- The end of a job whose tasks have ended (R30, R301, R433, R445). -/
def finishJob (s : State) (j : Nat) : State :=
  let s := reclaimJob s j (if (jobAt s j).killed then (jobAt s j).endCode else 0x5E)
  let b := jobAt s j
  let status := place b.endCode 24 8 + place b.recl 16 8 + Nat.min 65535 b.cnt
  let s := releaseJob s j
  let s := replayEnd (captureEnd s b status) b status
  let s := writeDone s b.ctx b.record b.id status
  let s := onJob s j (fun b => { b with phase := 4 })
  let s := if b.phase = 2 then releaseVictims s b.stopper else s
  let s := match b.node with
    | some node => completeNode s node false
    | none => onCtx s b.ctx (fun x => { x with ended := (x.ended + 1) % 2 ^ 32 })
  finishReset s b.ctx

/-! ## Ending a job by the front (R445) -/

/-- Is an entry's unit still to bring it to its point (R305)? -/
def atWork (s : State) (c : Nat) (e : Entry) : Bool := atHead s c e && runsOut e

/-- Have a strand of a job that stops, and its entries, reached their points (R305)? -/
def atPoint (s : State) (a : At) : Bool :=
  (strandAt s a).status != .running && (queuedEntries s a).all (fun e => !atWork s a.c e)

/-- Have a strand of a job that is ended, and its entries, reached their points? An entry whose work is done gives nothing more
(R445). -/
def atEnd (s : State) (a : At) : Bool :=
  (strandAt s a).status != .running && (queuedEntries s a).all (fun e => e.ended || !atWork s a.c e)

/-- The held contexts of a job. -/
def heldBy (s : State) (j : Nat) : List At :=
  s.cores.flatMap (fun k => (k.2.strands.filter (fun t => t.2.holder == some j)).map (fun t => (⟨k.1, t.1⟩ : At)))

/-- A strand of an ended job: what it holds is discarded, uncounted (R445). -/
def killStrand (s : State) (a : At) : State :=
  let s := onStrand (withdrawTokens s a).1 a (fun t => { t with resq := [] })
  dropTurn (abortTask s a) a

/-- Discards the saved strands of an ended job (R445, R466). -/
def dropSaved (j : Nat) (s : State) : State :=
  s.cores.foldl (fun s k => (k.2.saved.filter (fun v => v.job == j)).foldl (fun s v => v.strands.foldl (fun s w =>
    let a : At := ⟨k.1, w.sx⟩
    let s := (w.entries ++ strandHeld w.strand).foldl (fun s e => dropEntry s a e) s
    match w.strand.task with
    | some t => dropDeferred s k.1 v.ctx t.deferred
    | none => s) s) s) s

/-- JOB_END (R30, R445): a job whose tasks have ended, or a stopped job whose parts have reached their points and whose writes to
other devices are acknowledged (R321). -/
def execJobEnd (job : Nat) (s : State) : Host.Outcome State Fault Refusal :=
  let b := jobAt s job
  if 4 ≤ b.phase then notNow s
  else if b.killed then
    if !b.saving.isEmpty || !(heldBy s job).all (fun a => atEnd s a && remotesDone s a) then notNow s
    else .next (finishJob (dropSaved job ((heldBy s job).foldl killStrand s)) job)
  else if b.phase = 1 ∧ b.live = 0 ∧ b.pending.all (fun p => p.2 == 0) then .next (finishJob s job)
  else notNow s

/-- JEND (R446). -/
def execJend (ctx : BitVec 4) (jobid : BitVec 32) (s : State) : Host.Outcome State Fault Refusal :=
  .next ((s.jobs.filter (fun b => b.2.ctx == ctx.toNat && b.2.id == jobid.toNat && b.2.phase != 4)).foldl
    (fun s b => killJob s b.1 0x9F) s)

/-- CRST of a context (R447): its jobs are stopped and its slots' replays dropped at once; the rest follows the jobs' end. A
re-run of a captured job has result 3 (R466). -/
def resetContext (s : State) (c : Nat) : State :=
  let s := (s.jobs.filter (fun b => b.2.ctx == c && b.2.phase != 4)).foldl (fun s b =>
    onJob (killJob s b.1 0x9F) b.1 (fun x => { x with node := x.node.map (fun _ => (16, 0)) })) s
  let s := { s with
    slots := s.slots.map (fun k => if k.2.ctx = c then (k.1, { k.2 with replays := [] }) else k)
    streams := s.streams.filter (fun x => x.ctx != c) }
  finishReset (onCtx s c (fun x => { x with resetting := true, busy := true })) c

/-- CRST (R447). -/
def execCrst (ctx : BitVec 4) (s : State) : Host.Outcome State Fault Refusal := .next (resetContext s ctx.toNat)

/-- VF_FLR (R447): a function-level reset of VF n is a CRST of context n − 1. -/
def execVfFlr (vf : BitVec 5) (s : State) : Host.Outcome State Fault Refusal :=
  if vf = 0 ∨ 16 < vf.toNat then notNow s else .next (resetContext s (vf.toNat - 1))

/-- VIRTUAL_FUNCTION_ENABLE (R339). -/
def execVirtualFunctionEnable (vf : BitVec 5) (on : BitVec 1) (s : State) : Host.Outcome State Fault Refusal :=
  if vf = 0 ∨ 16 < vf.toNat then notNow s
  else .next (onCtx s (vf.toNat - 1) (fun x => { x with enabled := on == 1 }))

/-! ## CARD (R29) -/

/-- CARD_SERVE (R29): the front deals to the oldest request. -/
def execCardServe (s : State) : Host.Outcome State Fault Refusal :=
  match s.cards with
  | [] => notNow s
  | r :: rest =>
    let a : At := ⟨r.core, r.sx⟩
    let s := { s with cards := rest }
    if !(strandAt s a).sb.any (fun e => e.id == r.sbId) then .next s
    else
      let b := jobAt s r.job
      let left := b.count - b.dealt
      let p := (placedCores b).length
      let n := Nat.min left (Nat.max 1 (ceilDiv left (2 * p)))
      let s := onJob s r.job (fun b => { b with dealt := b.dealt + n })
      .next (onStrand s a (fun t => { t with
        sb := t.sb.map (fun e => if e.id = r.sbId then { e with val := some (chunkWord (b.dealt, n)) } else e)
        task := t.task.map (fun k => if n = 0 then k else { k with grants := k.grants ++ [(b.dealt, n)] }) }))

end Sys2Proof.Machine
end

