-- ==== Sys2Proof/Machine/Preempt.lean ====
section
/-! DEFINITION. Issue of jobs (R300), urgent pre-emption (R305 to R308), saves and restores (R309, R310, R443). -/

namespace Sys2Proof.Machine

/-! ## Issue (R300) -/

/-- Contexts of a core that no job holds, or only the jobs listed. -/
def freeContexts (s : State) (c : Nat) (but : List Nat) : List Nat :=
  (List.range 4).filter (fun x => match (strandAt s ⟨c, x⟩).holder with | none => true | some j => but.contains j)

/-- The jobs that hold contexts of a core. -/
def holders (s : State) (c : Nat) : List Nat := (List.range 4).filterMap (fun x => (strandAt s ⟨c, x⟩).holder)

/-- The committed share of a core, apart from the jobs listed (R300). -/
def committed (s : State) (c : Nat) (but : List Nat) : Nat :=
  (List.range 4).foldl (fun n x =>
    let t := strandAt s ⟨c, x⟩
    match t.holder with | some j => if but.contains j then n else n + t.share + 1 | none => n) 0

/-- Does a core meet the first three conditions of R300 for job b, the jobs listed apart? -/
def coreFits (s : State) (b : Job) (but : List Nat) (c : Nat) : Bool :=
  decide (b.strands + 1 ≤ (freeContexts s c but).length) &&
    decide (committed s c but + (b.strands + 1) * (b.share + 1) ≤ 256) &&
    (holders s c).all (fun j => but.contains j || (jobAt s j).ctx == b.ctx)

/-- Does a core hold a saved core-state part of the context (R300, R309)? -/
def savedRegs (s : State) (c ctx : Nat) : Bool := (coreAt s c).saved.any (fun v => v.ctx == ctx && v.regs.isSome)

/-- Can job b be issued by R300, the jobs listed apart? -/
def fits (s : State) (b : Job) (but : List Nat) : Bool :=
  (placedCores b).all (fun c => coreFits s b but c && !savedRegs s c b.ctx)

/-- Can a suspended job be restored (R310)? -/
def refits (s : State) (b : Job) : Bool := (placedCores b).all (coreFits s b [])

/-- Do two placements overlap? -/
def placementsMeet (a b : Job) : Bool := (placedCores a).any (placedCores b).contains

/-- Is a job one that waits for issue? -/
def waiting (b : Job) : Bool := b.phase == 0 && !b.killed

/-- The place of a job among those that became ready in one CYCLE: by slot and node, single launches last, in the order of their
writes (R300). DESIGN CHOICE: R300 orders by (slot, node), which a single launch has not (log 101). -/
def Job.place (b : Job) : Nat := match b.node with | some (k, i) => 4096 * k + i | .none => 65536

/-- Did job a become ready before job b (R300)? -/
def readyBefore (a b : Job) : Bool :=
  decide (a.readyAt < b.readyAt ∨ (a.readyAt = b.readyAt ∧ (a.place < b.place ∨ (a.place = b.place ∧ a.order < b.order))))

/-- Does another job go first (R300, R310): an earlier one of its class on the same cores, one that could be issued and comes
before it, or a suspended one of its class or a more urgent one that could be restored? -/
def goesFirst (s : State) (j : Nat) (b : Job) : Bool :=
  s.jobs.any (fun o =>
    o.1 != j && placementsMeet o.2 b &&
      ((waiting o.2 && o.2.cls == b.cls && readyBefore o.2 b) ||
       (waiting o.2 && decide (o.2.cls < b.cls ∨ (o.2.cls = b.cls ∧ readyBefore o.2 b)) && fits s o.2 []) ||
       (o.2.phase == 3 && !o.2.killed && decide (o.2.cls ≤ b.cls) && refits s o.2)))

/-- Does another context's job hold a placed core while its pond partition overlaps that of job b (0x9D of R442)? -/
def partsMeet (s : State) (b : Job) : Bool :=
  (placedCores b).any (fun c => (holders s c).any (fun j =>
    let o := jobAt s j
    o.ctx != b.ctx && (List.range 16).any (fun n => bit (ctxAt s o.ctx).ppart n && bit (ctxAt s b.ctx).ppart n)))

/-- The share that a context held from now on has in the period (R302). -/
def prorated (s : State) (share : Nat) : Nat := (share + 1) * periodLeft s / 256

/-- A context of a core becomes held by job j. -/
def holdContext (j : Nat) (b : Job) (c : Nat) (s : State) (x : Nat) : State :=
  let cx := ctxAt s b.ctx
  onStrand s ⟨c, x⟩ (fun t => { t with
    status := .idle, holder := some j, share := b.share, cls := b.cls, segbud := prorated s b.share
    tvec := cx.tvecd, evec := cx.evecd, wlim := cx.wlimd, overran := false })

/-- A placed core takes a job: its contexts, its card tasks, its die awake (R300, R358). -/
def placeJob (j : Nat) (s : State) (c : Nat) : State :=
  let b := jobAt s j
  let s := ((freeContexts s c []).take (b.strands + 1)).foldl (holdContext j b c) s
  let s := onCore s c (fun k => { k with dqBase := tabPut k.dqBase j (k.dqPushes, k.dqPops) })
  let s := wakeDie s c
  onJob s j (fun b => { b with pending := tabPut b.pending c (b.strands + 1), live := b.live + b.strands + 1 })

/-- JOB_ISSUE (R300, R442, R451). -/
def execJobIssue (job : Nat) (s : State) : Host.Outcome State Fault Refusal :=
  let b := jobAt s job
  if !waiting b || s.fatal.isSome || s.dev.plim == 0 then notNow s
  else if (placedCores b).any (fun c => (coreAt s c).fenced) then
    let card := match frontRead s b.ctx b.card 64 with | some (_, v) => some (leNat v) | none => none
    let s := onJob s job (fun b => { b with phase := 4 })
    let s := failJobNode s b.ctx b.card card b.node (b.replay.map (·, 0)) 0x8F 1
    .next (match b.node with | some node => completeNode s node true | none => s)
  else if partsMeet s b && !b.noted then
    .next (onJob (logPlain s 0x9D 0 (nodeName b.node b.card) 0) job (fun b => { b with noted := true }))
  else if !fits s b [] || goesFirst s job b then notNow s
  else
    let s := onJob s job (fun b => { b with phase := 1, order := s.issueNext })
    let s := wakePackage { s with issueNext := s.issueNext + 1 }
    .next (captureIssue ((placedCores b).foldl (placeJob job) s) job)

/-! ## The stop (R305 to R307) -/

/-- The jobs that hold a placed core of job b. -/
def holdersOf (s : State) (b : Job) : List Nat := ((placedCores b).flatMap (holders s)).eraseDups

/-- Adds victims in order until the job would fit (R306). -/
def addVictims (s : State) (b : Job) : List Nat → List Nat → Option (List Nat)
  | l, [] => if fits s b l then some l else none
  | l, v :: t => if fits s b l then some l else addVictims s b (l ++ [v]) t

/-- The victims of a class-0 job (R306). -/
def victimsOf (s : State) (b : Job) : Option (List Nat) :=
  let all := holdersOf s b
  let others := all.filter (fun j => (jobAt s j).ctx != b.ctx)
  if others.any (fun j => (jobAt s j).cls == 0) then none
  else
    let own := sortBy (fun i j =>
        let a := jobAt s i
        let c := jobAt s j
        decide (c.cls < a.cls ∨ (a.cls = c.cls ∧ c.order < a.order)))
      (all.filter (fun j => (jobAt s j).ctx == b.ctx && (jobAt s j).cls != 0))
    addVictims s b others own

/-- CLASS0_PREEMPT (R306): the stop is sent to the victims; a request that finds a save under way waits (R309). -/
def execClass0Preempt (job : Nat) (s : State) : Host.Outcome State Fault Refusal :=
  let b := jobAt s job
  if !waiting b || b.cls != 0 || fits s b [] || s.jobs.any (fun o => o.2.phase == 2 && placementsMeet o.2 b)
      || s.jobs.any (fun o => o.1 != job && waiting o.2 && o.2.cls == 0 && readyBefore o.2 b && placementsMeet o.2 b)
      || s.fatal.isSome || s.dev.plim == 0
  then notNow s
  else match victimsOf s b with
    | none => notNow s
    | some l =>
      if l.any (fun j => !jobRuns s j) then notNow s
      else .next (l.foldl (fun s j => onJob s j (fun v => { v with
        phase := 2, stopper := some job, stopAt := s.cycle, savedOn := [], saving := [], late := [] })) s)

/-- PREEMPT_POINT_LATE (R443). -/
def execPreemptPointLate (core : Nat) (job : Nat) (s : State) : Host.Outcome State Fault Refusal :=
  let b := jobAt s job
  if b.phase ≠ 2 || !(placedCores b).contains core || b.savedOn.contains core || b.saving.contains core || b.late.contains core
      || decide (s.cycle < b.stopAt + 2 * s.dev.ttper) then notNow s
  else .next (onJob (logPlain s 0x97 0 core (s.cycle - b.stopAt)) job (fun b => { b with late := b.late ++ [core] }))

/-! ## Saves (R309) -/

/-- The contexts a job holds on a core. -/
def heldOn (s : State) (j c : Nat) : List Nat := (List.range 4).filter (fun x => (strandAt s ⟨c, x⟩).holder == some j)

/-- The entries of a strand that stops, for a stop of its job, of its run or for a trap, and that stand at their points leave their
queues, so that those of other strands go on (R112, R305, R306, R379): the ones not begun, and a head that its unit has brought to
its point. Before a trap the entries ahead of the faulting one complete (R380). -/
def setAside (s : State) (a : At) : Option State :=
  let b := jobAt s (jobOf s a)
  let t := strandAt s a
  let stop := b.phase == 2 || b.killed || t.atStop
  let gone (e : Entry) : Bool :=
    (stop || !beforeFault t e)
      && (!e.begun || e.fault.isSome || (atHead s a.c e && !atWork s a.c e && !remoteBusy s a.c e))
  let l := (queuedEntries s a).filter gone
  if !(stop || t.pendTrap.isSome) || l.isEmpty then none
  else
    let s := if l.any (fun e => e.begun && e.q == 2) then stopMatrix s a else s
    let key (e f : Entry) : Bool := e.q == f.q && e.seq == f.seq
    let es := (queuedEntries s a).filter (fun e => l.any (key e))
    let s := es.foldl restoreTaken s
    let s := [0, 1, 2, 3].foldl (fun s q =>
      if es.any (fun e => e.q == q) then
        setQueue s a.c q ((queueAt s a.c q).filter (fun e => !(e.sx == a.x && es.any (key e))))
      else s) s
    some (onStrand s a (fun t => { t with aside := t.aside ++ es.map forgetTaken }))

/-- Are all points of the stopped jobs on a core reached, their results back and their remote accesses answered? -/
def pointsReached (s : State) (c : Nat) : Bool :=
  (List.range 4).all (fun x =>
    let a : At := ⟨c, x⟩
    match (strandAt s a).holder with
    | some j => (jobAt s j).phase != 2 ||
        (atPoint s a && (strandAt s a).sb.isEmpty && s.remotes.all (fun r => !(r.core == c && r.sx == x)))
    | none => true)

/-- A job of a context is ended because a save, frame or restore of it on a core has failed (R444, R445). -/
def failSave (s : State) (job core code : Nat) : State :=
  let s := onCore s core (fun k => if code = 0x9A then { k with frameBad := false } else k)
  killJob (logErrorJob s code 2 none (some job) (saveArea s (jobAt s job).ctx core) 0) job code

/-- CONTEXT_SAVE (R309): the save of a victim on a core begins once every point on the core has been reached; one that can write
no save area ends the job (R444). -/
def execContextSave (core : Nat) (job : Nat) (s : State) : Host.Outcome State Fault Refusal :=
  let b := jobAt s job
  if b.phase ≠ 2 || b.killed || !(placedCores b).contains core || b.savedOn.contains core || b.saving.contains core
      || !pointsReached s core
  then notNow s
  else match frameFails s b.ctx core with
    | some code => .next (failSave s job core code)
    | none => .next (onJob s job (fun b => { b with saving := b.saving ++ [core] }))

/-- A strand as its frame keeps it (R20, R309): a waiting or parked instruction has not issued and its wait stands still, and every
entry after the cut is to be pushed again. -/
def savedStrand (t : Strand) : Strand :=
  let t := endTurn t
  { t with
    tcut := (List.range 4).map (fun q => (q, tabGet 0 t.done q))
    push := t.done
    pc := match t.retPc with | some p => BitVec.ofNat 52 p | none => t.pc
    status := if t.task.isNone then .idle else if t.status = .parked ∨ t.status = .waiting then t.status else .ready
    wait := if t.status = .parked ∨ t.status = .waiting then t.wait else none
    holder := none, bubble := 0, repush := [], retPc := none, aside := [] }

/-- Takes one context of a victim off its core; it stays held (R306). -/
def saveContext (c : Nat) (r : State × List SavedStrand) (x : Nat) : State × List SavedStrand :=
  let (s, l) := r
  let a : At := ⟨c, x⟩
  let s := unpark (withdrawAlloc (stopMatrix s a) a) a
  let es := (cutEntries s a).map forgetTaken
  let s := (cutEntries s a).foldl restoreTaken s
  let v : SavedStrand := ⟨x, savedStrand (strandAt s a), (List.range 8).map (fun f => (f, ((fifoAt s c f).filter (· == x)).length)), es⟩
  let s := (withdrawTokens (clearEntries s a) a).1
  (dropTurn (onStrand s a (fun t => { Strand.reset with status := .idle, holder := t.holder, share := t.share, cls := t.cls })) a,
   l ++ [v])

/-- The full-empty bits of pond bank n of a core, as 512 bytes (R343). -/
def bankBits (s : State) (c n : Nat) : List Byte :=
  let first := granule c (65536 * n)
  leBytes 512 ((s.fe.filter (fun g => decide (first ≤ g) && decide (g < first + 4096))).foldl (fun v g => v + 2 ^ (g - first)) 0)

/-- Pond bank n of a core goes into the save area (R309, R343). -/
def saveBank (c area : Nat) (s : State) (n : Nat) : State :=
  let dst := area + 65536 * n
  let s := if s.poison.isEmpty then s else clearPoison s dst 65536
  storeN { s with mem := s.mem.copy (locPond c (65536 * n)) dst 65536 } (area + 0x10C000 + 0x200 * n) (bankBits s c n)

/-- The frames of a save in HBM (R309, R343): the strand frames, and with the core's own state the core frame and the banks. What
they hold beside the banks is laid out nowhere: the model keeps it beside them (log 10). -/
def writeFrames (s : State) (c area : Nat) (xs : List Nat) (first : Bool) (banks : List Nat) : State :=
  let s := xs.foldl (fun s x => writeUndefined s (area + 0x110000 + 0x10000 * x) 0x10000) s
  if first then banks.foldl (saveBank c area) (writeUndefined s (area + 0x100000) 0xC000) else s

/-- SAVE_COMPLETE (R306, R309): for a class-0 job of another context the core state and the pond partition are saved too, and
the core state is reset; the contexts are released once every core has saved. -/
def execSaveComplete (core : Nat) (job : Nat) (s : State) : Host.Outcome State Fault Refusal :=
  let b := jobAt s job
  if !b.saving.contains core then notNow s
  else
    let xs := heldOn s job core
    let (s, l) := xs.foldl (saveContext core) (s, [])
    let k := coreAt s core
    let other : Bool := match b.stopper with | some j => (jobAt s j).ctx != b.ctx | none => false
    let first := other && !savedRegs s core b.ctx
    let banks := if first then setBits 16 (ctxAt s b.ctx).ppart else []
    let s := writeFrames s core (saveArea s b.ctx core) xs first banks
    let stolen := (k.steals.filter (fun r => xs.contains r.sx)).filterMap (·.got)
    let v : SavedCore :=
      { job := job, ctx := b.ctx, strands := l, deque := k.deque.filter (fun e => e.job == job) ++ stolen
        regs := if first then some (k.regs, loadN s (locAcc core 0) 16384) else none
        banks := banks }
    let s := onCore s core (fun k => { k with
      saved := k.saved ++ [v], deque := k.deque.filter (fun e => e.job != job)
      steals := k.steals.filter (fun r => !xs.contains r.sx)
      regs := if first then .reset else k.regs })
    let s := if first then storeN s (locAcc core 0) (List.replicate 16384 0) else s
    let s := onJob s job (fun b => { b with saving := b.saving.filter (· != core), savedOn := b.savedOn ++ [core] })
    .next (releaseVictims s b.stopper)

/-! ## Restores (R310) -/

/-- A restored strand that was parked is parked again (R20, R310), or ready where its word now has another strand; an event that
came meanwhile wakes it (R313). -/
def parkAgain (s : State) (a : At) : State :=
  match (strandAt s a).status, (strandAt s a).parkedOn with
  | .parked, some n =>
    if (nwAt s n).parked.isSome then onStrand s a (fun t => { t with status := .ready, wait := none })
    else
      let s := { s with nw := tabPut s.nw n { nwAt s n with parked := some (strandNo a) } }
      if (strandAt s a).evq.isEmpty then s else rouse s a
  | _, _ => s

/-- Gives a saved strand a context back, in its state (R20, R310): its own if it is free, else the lowest free one. Its entries
are pushed again; those that find no room go before the strand's next instruction, as after an ERET. -/
def restoreStrand (j : Nat) (b : Job) (c : Nat) (s : State) (v : SavedStrand) : State :=
  let l := freeContexts s c []
  let x := if l.contains v.sx then v.sx else l.head?.getD v.sx
  let a : At := ⟨c, x⟩
  let s := onStrand s a (fun _ => { rebind x v.strand with
    holder := some j, share := b.share, cls := b.cls
    segbud := if 0 < v.strand.segbud then (prorated s b.share : Int) else v.strand.segbud })
  let s := (List.range 8).foldl (fun s f => setFifo s c f (fifoAt s c f ++ List.replicate (tabGet 0 v.tokens f) x)) s
  let (s, left) := pushSaved a (v.entries.map (fun e => { waitAgain e with sx := x })) s
  if left.isEmpty then parkAgain s a
  else onStrand s a (fun t => { t with
    repush := left, retPc := some t.pc.toNat, status := if t.status = .parked then .ready else t.status })

/-- Pond bank n of a core comes back from the save area (R310, R343). -/
def restoreBank (c area : Nat) (s : State) (n : Nat) : State :=
  let loc := locPond c (65536 * n)
  let first := granule c (65536 * n)
  let s := if s.poison.isEmpty then s else clearPoison s loc 65536
  let full := (setBits 4096 (loadNat s (area + 0x10C000 + 0x200 * n) 512)).map (first + ·)
  { s with
    mem := s.mem.copy (area + 65536 * n) loc 65536
    fe := full.foldl setAdd (s.fe.filter (fun g => !(decide (first ≤ g) && decide (g < first + 4096)))) }

/-- Writes back the core state and the pond partition of a context, if a save of it still holds them (R310). -/
def restoreRegs (s : State) (c ctx : Nat) : State :=
  match (coreAt s c).saved.find? (fun v => v.ctx == ctx && v.regs.isSome) with
  | none => s
  | some v =>
    let s := match v.regs with
      | some (r, acc) => storeN (onCore s c (fun k => { k with regs := r })) (locAcc c 0) acc
      | none => s
    let s := v.banks.foldl (restoreBank c (saveArea s ctx c)) s
    onCore s c (fun k => { k with saved := k.saved.map (fun v =>
      if v.ctx = ctx then { v with regs := none, banks := [] } else v) })

/-- The cores of a suspended job whose save area cannot be read: a frame or a bank of it is poisoned (R423, R444). -/
def unreadable (s : State) (job : Nat) : Option Nat :=
  let b := jobAt s job
  if s.poison.isEmpty then none
  else (placedCores b).find? (fun c =>
    let area := saveArea s b.ctx c
    let bad (lo n : Nat) : Bool := (poisoned s (area + lo) n).isSome
    (coreAt s c).saved.any (fun v => v.ctx == b.ctx &&
      ((v.job == job && v.strands.any (fun x => bad (0x110000 + 0x10000 * x.sx) 0x10000)) ||
       (v.regs.isSome && (bad 0x100000 0xC000 || v.banks.any (fun n => bad (65536 * n) 65536 || bad (0x10C000 + 0x200 * n) 0x200))))))

/-- Restores a job on one core. -/
def restoreOn (j : Nat) (s : State) (c : Nat) : State :=
  let b := jobAt s j
  let s := restoreRegs s c b.ctx
  match (coreAt s c).saved.find? (fun v => v.job == j) with
  | none => s
  | some v =>
    let s := v.strands.foldl (restoreStrand j b c) s
    let s := wakeDie s c
    onCore s c (fun k => { k with deque := k.deque ++ v.deque, saved := k.saved.filter (fun v => v.job != j) })

/-- CONTEXT_RESTORE (R310): ahead of the jobs of its class and of less urgent ones that wait for issue. -/
def execContextRestore (job : Nat) (s : State) : Host.Outcome State Fault Refusal :=
  let b := jobAt s job
  let urgent := s.jobs.any (fun o => waiting o.2 && decide (o.2.cls < b.cls) && placementsMeet o.2 b && fits s o.2 [])
  if b.phase ≠ 3 || b.killed || !refits s b || urgent || s.fatal.isSome || s.dev.plim == 0 then notNow s
  else match unreadable s job with
    | some c => .next (failSave s job c 0x9B)
    | none =>
      let s := onJob s job (fun b => { b with phase := 1, stopper := none, savedOn := [] })
      .next ((placedCores b).foldl (restoreOn job) (wakePackage s))

end Sys2Proof.Machine
end

