-- ==== Sys2Proof/Machine/Harts.lean ====
section
/-! DEFINITION. The tool harts (R350, R351): the walls (R352, R353), accesses to the sandbox window and the registers (R354, R355,
R420), and what the RISC-V profile puts before an access: privilege, Sv48 and the PMP entries (log 12). -/

namespace Sys2Proof.Machine

/-! ## Walls (R352, R353) -/

/-- Wall w's 128 bits (R353). -/
def wallAt (s : State) (w : Nat) : Nat := tabGet 0 s.walls w

/-- One half of a wall is written (R353); reserved bits stay zero. -/
def putWall (s : State) (w half v : Nat) : State :=
  let old := wallAt s w
  let new := if half = 0 then old / 2 ^ 64 * 2 ^ 64 + place (bits v 0 3) 0 3 + place (bits v 21 23) 21 23
    else old % 2 ^ 64 + place (bits v 1 63) 65 63
  { s with walls := tabPut s.walls w (new - place (bits new 44 21) 44 21) }

/-- WALL_WRITE (R353). -/
def execWallWrite (w : BitVec 6) (half : BitVec 1) (v : BitVec 64) (s : State) : Host.Outcome State Fault Refusal :=
  .next (putWall s w.toNat half.toNat v.toNat)

/-- A hart leaves reset at the M-mode entry (R353): its control and status registers are at reset. -/
def Hart.released (k : Hart) : Hart := { k with run := true, mode := 3, pc := k.entry, csr := [] }

/-- TRUN (R353): harts that are held leave reset. -/
def runHarts (s : State) (m : Nat) : State :=
  (setBits 32 m).foldl (fun s h => onHart s h (fun k => if k.run then k else k.released)) s

/-- TRUN (R353). -/
def execTrun (m : BitVec 32) (s : State) : Host.Outcome State Fault Refusal := .next (runHarts s m.toNat)

/-- THOLD (R461): harts are held in reset. -/
def holdHarts (s : State) (m : Nat) : State := (setBits 32 m).foldl (fun s h => onHart s h (fun k => { k with run := false })) s

/-- THOLD (R461). -/
def execThold (m : BitVec 32) (s : State) : Host.Outcome State Fault Refusal := .next (holdHarts s m.toNat)

/-- Does a wall's HBM range lie within the tool zone (R352)? -/
def wallOn (s : State) (v : Nat) : Bool :=
  let lo := bits v 21 23 * 2 ^ 21
  let len := bits v 65 16 * 2 ^ 21
  len != 0 && decide (s.dev.tzBase * 2 ^ 30 ≤ lo) && decide (lo + len ≤ (s.dev.tzBase + s.dev.tzSize) * 2 ^ 30)

/-- The wall that decides a hart's access to n bytes from window address x on (R353): the lowest-numbered one that admits the hart
and covers x. None where it does not cover the whole access (R420). -/
def wallFor (s : State) (h x n : Nat) : Option Nat :=
  let lo (v : Nat) : Nat := bits v 81 15 * 2 ^ 21
  let hi (v : Nat) : Nat := lo v + bits v 65 16 * 2 ^ 21
  match ((List.range 64).map (wallAt s)).find? (fun v => wallOn s v && bit v (96 + h) && decide (lo v ≤ x) && decide (x < hi v)) with
  | some v => if x + n ≤ hi v then some v else none
  | none => none

/-- Permission bit of an access kind: 0 load, 1 store, 2 fetch, 3 AMO (R353). -/
def wallPerm (v kind : Nat) : Bool := if kind = 3 then bit v 0 && bit v 1 else bit v kind

/-! ## Exceptions of a hart (R350, R420, log 12) -/

/-- A hart's control and status register. -/
def Hart.reg (k : Hart) (n : Nat) : Nat := tabGet 0 k.csr n

/-- Writes several registers of a hart. -/
def Hart.putRegs (k : Hart) (l : List (Nat × Nat)) : Hart := { k with csr := l.foldl (fun t p => tabPut t p.1 p.2) k.csr }

/-- mstatus once a trap is taken: the privilege and the interrupt enable it came with are kept, and interrupts are off. -/
def trapStatus (st mode : Nat) (sup : Bool) : Nat :=
  let ie := if sup then 1 else 3
  let st := st - place (bits st ie 1) ie 1 - place (bits st (ie + 4) 1) (ie + 4) 1 + place (bits st ie 1) (ie + 4) 1
  if sup then st - place (bits st 8 1) 8 1 + place mode 8 1 else st - place (bits st 11 2) 11 2 + place mode 11 2

/-- A hart takes an exception at its current privilege's handler (R420): in supervisor mode scause, stval and stvec, in machine
mode mcause, mtval and mtvec; from user mode supervisor mode takes it where medeleg says so (PRESUMED, log 12). -/
def Hart.trap (k : Hart) (cause value : Nat) : Hart :=
  let sup := k.mode == 1 || (k.mode == 0 && bit (k.reg 0x302) cause)
  let b := if sup then 0x100 else 0x300
  let t := k.putRegs [(b + 0x42, cause), (b + 0x43, value), (b + 0x41, k.pc), (0x300, trapStatus (k.reg 0x300) k.mode sup)]
  { t with fault := cause, faultAddr := value, mode := if sup then 1 else 3, pc := k.reg (b + 5) / 4 * 4 }

/-- The RISC-V cause of a refused access (R420). -/
def accessFault (kind : Nat) : Nat := if kind = 0 then 5 else if kind = 2 then 1 else 7

/-- The RISC-V cause of an access that Sv48 does not map (log 12). -/
def pageFault (kind : Nat) : Nat := accessFault kind + (if kind = 2 then 11 else 8)

/-- A hart's access is refused: the access fault it takes and its address (R351, R420). -/
def refuseHart (s : State) (h kind addr : Nat) : State := onHart s h (fun t => t.trap (accessFault kind) addr)

/-! ## The sandbox window (R353, R420) -/

/-- What an AMO of a function writes over the old value of w bits (the AMOs of RV64A: swap, add, xor, and, or, min, max, minu,
maxu). -/
def amoFn (fn w v old : Nat) : Nat :=
  match fn with
  | 0 => v
  | 1 => old + v
  | 2 => Nat.xor old v
  | 3 => Nat.land old v
  | 4 => Nat.lor old v
  | 5 => if sgn old w ≤ sgn v w then old else v
  | 6 => if sgn old w ≤ sgn v w then v else old
  | 7 => Nat.min old v
  | _ => Nat.max old v

/-- A hart's access to the sandbox window is performed where its wall puts it (R353): a load, a fetch and an AMO return the old
value. -/
def reachWindow (s : State) (h : Nat) (x : HartAccess) : State :=
  match wallFor s h x.addr x.n, wakeForAccess s with
  | some w, some s =>
    let pa := bits w 21 23 * 2 ^ 21 + (x.addr - bits w 81 15 * 2 ^ 21)
    let old := loadNat s pa x.n
    if x.kind = 1 then storeNat s pa x.n x.v
    else
      let s := onHart s h (fun t => { t with data := old })
      if x.kind = 3 then storeNat s pa x.n (amoFn x.fn (8 * x.n) x.v old) else s
  | none, _ => refuseHart s h x.kind x.addr
  | _, none => s

/-- An access of a hart to the sandbox window (R353, R420): refused where no wall admits it or its wall's perm does not; held, behind
the hart's own, while PLIM keeps the package in L4 (R358). -/
def sandboxAccess (s : State) (h : Nat) (x : HartAccess) : State :=
  match wallFor s h x.addr x.n with
  | none => refuseHart s h x.kind x.addr
  | some w =>
    if !wallPerm w x.kind then refuseHart s h x.kind x.addr
    else if (wakeForAccess s).isNone || !(hartAt s h).held.isEmpty then onHart s h (fun k => { k with held := k.held ++ [x] })
    else reachWindow s h x

/-- TOOL_SANDBOX_ACCESS (R353, R420). Of an AMO, v is the value that it writes back (log 34). -/
def execToolSandboxAccess (hart : BitVec 5) (kind : BitVec 2) (addr : BitVec 36) (size : BitVec 2) (v : BitVec 64) (s : State) :
    Host.Outcome State Fault Refusal :=
  if !(hartAt s hart.toNat).run then notNow s
  else .next (sandboxAccess s hart.toNat ⟨kind.toNat, addr.toNat, 2 ^ size.toNat, v.toNat, 0⟩)

/-! ## Registers that harts reach (R350, R351, R354, R355) -/

/-- TOOL_NOTIFY_STORE (R354). -/
def execToolNotifyStore (hart : BitVec 5) (n : BitVec 12) (v : BitVec 64) (s : State) : Host.Outcome State Fault Refusal :=
  if !(hartAt s hart.toNat).run then notNow s else .next (notifyStore s n.toNat v.toNat hart.toNat)

/-- DB is write-one-to-clear (R355). -/
def clearBell (v : Nat) (h : Hart) : Hart := h.bell (Nat.land h.db (2 ^ 64 - 1 - v % 2 ^ 64)) h.dbtgt

/-- DOORBELL_CLEAR (R355): DB is write-one-to-clear; the external interrupt is pending while DB is not 0. -/
def execDoorbellClear (hart : BitVec 5) (v : BitVec 64) (s : State) : Host.Outcome State Fault Refusal :=
  if !(hartAt s hart.toNat).run then notNow s
  else .next (onHart s hart.toNat (clearBell v.toNat))

/-- TOOL_TIMER_INTERRUPT (R350): mtime has reached a running hart's mtimecmp. -/
def execToolTimerInterrupt (hart : BitVec 5) (s : State) : Host.Outcome State Fault Refusal :=
  let h := hartAt s hart.toNat
  if !h.run || h.timer || decide (s.mtime < h.mtimecmp) then notNow s
  else .next (onHart s hart.toNat (fun h => { h with timer := true }))

/-- The eight bytes at a physical address of a hart outside the sandbox window, none where R351 gives none. -/
def toolRead (s : State) (addr : Nat) : Option Nat :=
  let n := (addr - 0x1000000000) / 8
  let d := (addr - 0x1000010000) / 16
  let t := (addr - 0x1000020000) / 8
  if addr % 8 ≠ 0 ∨ addr < 0x1000000000 then none
  else if n < 4096 then some (nwAt s n).val
  else if addr < 0x1000010000 then none
  else if d < 32 then some (if addr % 16 = 0 then (hartAt s d).db else (hartAt s d).dbtgt)
  else if addr < 0x1000020000 then none
  else if t = 0 then some s.mtime
  else if t ≤ 32 then some (hartAt s (t - 1)).mtimecmp
  else none

/-- A hart stores eight bytes at such an address (R351, R354, R355): a notify word, DB, DBTGT, mtime, mtimecmp. The timer
interrupt is no longer pending where mtimecmp lies ahead. -/
def toolStore (s : State) (h addr v : Nat) : State :=
  let d := (addr - 0x1000010000) / 16
  let t := (addr - 0x1000020000) / 8
  if addr < 0x1000010000 then notifyStore s ((addr - 0x1000000000) / 8) v h
  else if addr < 0x1000020000 then
    onHart s d (fun k => if addr % 16 = 0 then clearBell v k else k.bell k.db v)
  else if t = 0 then { s with mtime := v }
  else onHart s (t - 1) (fun k => { k with mtimecmp := v, timer := k.timer && decide (v ≤ s.mtime) })

/-! ## Privilege, PMP and Sv48 (R350, log 12) -/

/-- The mode in which a hart's access of a kind is checked: loads, stores and AMOs under mstatus.MPRV in that of mstatus.MPP. -/
def Hart.access (k : Hart) (kind : Nat) : Nat := if kind ≠ 2 ∧ bit (k.reg 0x300) 17 then bits (k.reg 0x300) 11 2 else k.mode

/-- Configuration byte of PMP entry i. -/
def Hart.pmpcfg (k : Hart) (i : Nat) : Nat := bits (k.reg (0x3A0 + i / 8 * 2)) (8 * (i % 8)) 8

/-- The range of PMP entry i, if it is on: of A = TOR, NA4 or NAPOT. -/
def Hart.pmpRange (k : Hart) (i : Nat) : Option (Nat × Nat) :=
  let a := k.reg (0x3B0 + i)
  match bits (k.pmpcfg i) 3 2 with
  | 0 => none
  | 1 => some (if i = 0 then 0 else 4 * k.reg (0x3B0 + i - 1), 4 * a)
  | 2 => some (4 * a, 4 * a + 4)
  | _ =>
    let ones := ((List.range 54).find? (fun j => !bit a j)).getD 54
    let size := 8 * 2 ^ ones
    some (4 * a / size * size, 4 * a / size * size + size)

/-- Do the PMP entries admit an access of n bytes of a kind in a mode? The lowest-numbered entry that meets a byte of it decides. -/
def Hart.pmpOk (k : Hart) (mode kind addr n : Nat) : Bool :=
  let meets (r : Nat × Nat) : Bool := decide (addr < r.2) && decide (r.1 < addr + n)
  match (List.range 16).find? (fun i => (k.pmpRange i).any meets) with
  | none => mode == 3
  | some i =>
    let c := k.pmpcfg i
    let perm := if kind = 2 then bit c 2 else (kind == 1 || bit c 0) && (kind == 0 || bit c 1)
    (k.pmpRange i).any (fun r => decide (r.1 ≤ addr) && decide (addr + n ≤ r.2)) && ((mode == 3 && !bit c 7) || perm)

/-- A page-table entry as a hart's walk reads it: through its walls, in supervisor mode (R351, R353). None where it may not. -/
def Hart.pte (s : State) (h addr : Nat) : Option Nat :=
  if !(hartAt s h).pmpOk 1 0 addr 8 ∨ 2 ^ 36 ≤ addr then none
  else match wallFor s h addr 8 with
    | some w => if wallPerm w 0 then some (loadNat s (bits w 21 23 * 2 ^ 21 + (addr - bits w 81 15 * 2 ^ 21)) 8) else none
    | none => none

/-- Does a leaf at a level admit an access: its permissions, U, SUM and MXR, its alignment, A and D (PRESUMED: a clear A or D bit is
a page fault, log 12)? -/
def Hart.leafOk (k : Hart) (mode kind lvl p : Nat) : Bool :=
  let st := k.reg 0x300
  let perm := if kind = 2 then bit p 3 else if kind = 0 then bit p 1 || (bit st 19 && bit p 3) else bit p 2
  let user := if mode = 0 then bit p 4 else !bit p 4 || (kind != 2 && bit st 18)
  perm && user && bits p 10 (9 * lvl) == 0 && bit p 6 && (kind == 0 || kind == 2 || bit p 7)

/-- Sv48's walk from a table on, at level 3, 2, 1, 0: the physical address, or the cause. -/
def sv48 (s : State) (h mode kind va : Nat) : Nat → Nat → Except Nat Nat
  | n, base =>
    let lvl := n - 1
    match n with
    | 0 => .error (pageFault kind)
    | m + 1 => match Hart.pte s h (base + 8 * bits va (12 + 9 * lvl) 9) with
      | none => .error (accessFault kind)
      | some p =>
        if !bit p 0 || (!bit p 1 && bit p 2) || bits p 54 10 != 0 then .error (pageFault kind)
        else if bit p 1 || bit p 3 then
          (if (hartAt s h).leafOk mode kind lvl p then
            .ok (bits p (10 + 9 * lvl) (44 - 9 * lvl) * 2 ^ (12 + 9 * lvl) + va % 2 ^ (12 + 9 * lvl))
          else .error (pageFault kind))
        else sv48 s h mode kind va m (bits p 10 44 * 4096)

/-- The physical address of a hart's access in a mode: its own address in machine mode or with satp.MODE 0, else Sv48's. -/
def hartAddr (s : State) (h mode kind va : Nat) : Except Nat Nat :=
  let satp := (hartAt s h).reg 0x180
  if mode = 3 ∨ bits satp 60 4 ≠ 9 then .ok va
  else if bits va 47 17 ≠ 0 ∧ bits va 47 17 ≠ 2 ^ 17 - 1 then .error (pageFault kind)
  else sv48 s h mode kind va 4 (bits satp 0 44 * 4096)

/-- An access of a hart to a physical address that its PMP entries admit (R351): the sandbox window, or eight bytes of a register
that is loaded or stored; every other access raises an access fault. -/
def physAccess (s : State) (h kind addr size v fn : Nat) : State :=
  let n := 2 ^ size
  if addr < 2 ^ 36 then sandboxAccess s h ⟨kind, addr, n, v % 2 ^ (8 * n), fn⟩
  else match toolRead s addr with
    | none => refuseHart s h kind addr
    | some old =>
      if size ≠ 3 ∨ 2 ≤ kind then refuseHart s h kind addr
      else if kind = 0 then onHart s h (fun t => { t with data := old })
      else toolStore s h addr (v % 2 ^ 64)

/-- An access of a running hart (R350, R351): translated and checked as its mode has it. -/
def toolAccess (s : State) (h kind va size v fn : Nat) : State :=
  let k := hartAt s h
  let mode := k.access kind
  if !k.run then s
  else match hartAddr s h mode kind va with
    | .error c => onHart s h (fun t => t.trap c va)
    | .ok addr =>
      if k.pmpOk mode kind addr (2 ^ size) then physAccess s h kind addr size v fn else refuseHart s h kind addr

/-- A hart writes one of its own registers (R350): 0 its mode, 1 pc, 2 x register n, 3 f register n, 4 CSR n. x0 stays 0, and a
locked PMP entry stays as it is. -/
def hartWrite (what n v : Nat) (k : Hart) : Hart :=
  let v := v % 2 ^ 64
  let locked (i : Nat) : Bool := bit (k.pmpcfg i) 7
  match what with
  | 0 => if v = 0 ∨ v = 1 ∨ v = 3 then { k with mode := v } else k
  | 1 => { k with pc := v }
  | 2 => if n % 32 = 0 then k else { k with x := tabPut k.x (n % 32) v }
  | 3 => { k with f := tabPut k.f (n % 32) v }
  | _ =>
    if n = 0x3A0 ∨ n = 0x3A2 then
      let e := (n - 0x3A0) * 4
      k.putRegs [(n, (List.range 8).foldl (fun w i => w + place (if locked (e + i) then k.pmpcfg (e + i) else bits v (8 * i) 8) (8 * i) 8) 0)]
    else if 0x3B0 ≤ n ∧ n < 0x3C0 ∧ (locked (n - 0x3B0) ∨ (n < 0x3BF ∧ locked (n - 0x3AF) ∧ bits (k.pmpcfg (n - 0x3AF)) 3 2 = 1)) then k
    else k.putRegs [(n % 4096, v)]

end Sys2Proof.Machine
end

