-- ==== Sys2Proof/Machine/Host.lean ====
section
/-! DEFINITION. The host's registers and windows (R339 to R346, R436, R440, R446, R453), installation and shootdown (R344),
monitors (R359, R360, R465). -/

namespace Sys2Proof.Machine

/-! ## Device and die registers -/

/-- Changes the device block. -/
def onDev (s : State) (f : Device → Device) : State := { s with dev := f s.dev }

/-- PLIM (R2, R341): at 0 the package is held in L4; at another value a package whose dies are not all in L2 leaves it (R357).
DESIGN CHOICE: the spec bounds PLIM at 2,400 W and does not say what a write of a greater value does; the register takes the
12 bits as written (log 71). -/
def setPlim (s : State) (v : Nat) : State :=
  let w := v % 2 ^ 12
  let s := onDev s (fun d => { d with plim := w })
  if w = 0 then onDev s (fun d => { d with pkg := 4 })
  else if (List.range 6).all (fun d => (dieAt s d).pstate == 2) then s else wakePackage s

/-- PLIM_WRITE (R2, R341). -/
def execPlimWrite (v : BitVec 12) (s : State) : Host.Outcome State Fault Refusal := .next (setPlim s v.toNat)

/-- ELSTAT.drop is write-one-to-clear (R436). -/
def clearDrop (s : State) (v : Nat) : State :=
  onDev s (fun d => { d with eldrop := Nat.land d.eldrop (2 ^ 32 - 1 - v % 2 ^ 32) })

/-- ELSTAT_DROP_CLEAR (R436). -/
def execElstatDropClear (v : BitVec 32) (s : State) : Host.Outcome State Fault Refusal := .next (clearDrop s v.toNat)

/-- CFENCE of a cluster is write-one-to-clear (R436, R449). -/
def clearFence (s : State) (cl m : Nat) : State :=
  (setBits 48 m).foldl (fun s k => if (coreAt s (48 * cl + k)).fenced then onCore s (48 * cl + k) (fun c => { c with fenced := false }) else s) s

/-- CFENCE_CLEAR (R449). -/
def execCfenceClear (cl : BitVec 6) (m : BitVec 48) (s : State) : Host.Outcome State Fault Refusal :=
  if 36 ≤ cl.toNat then notNow s else .next (clearFence s cl.toNat m.toNat)

/-- A write of the device block at an offset (R341, R436). -/
def deviceWrite (s : State) (off v : Nat) : State :=
  match off with
  | 0x008 => setPlim s (bits v 0 12)
  | 0x010 => onDev s (fun d => { d with ltol := bits v 0 32 })
  | 0x020 => onDev s (fun d => { d with rank := bits v 0 24 })
  | 0x080 => if s.dev.tzLock then s else onDev s (fun d => { d with tzLock := bit v 63, tzBase := bits v 30 14, tzSize := bits v 0 7 })
  | 0x100 => onDev s (fun d => { d with elbase := bits v 12 32 * 4096 })
  | 0x108 => onDev s (fun d => { d with elsize := bits v 32 16, eltail := bits v 0 16 })
  | 0x110 => onDev (clearDrop s (bits v 32 32)) (fun d => { d with elien := bits v 0 1 })
  | 0x118 => onDev s (fun d => { d with capbase := bits v 12 32 * 4096 })
  | 0x120 => onDev s (fun d => { d with capnent := bits v 48 16, capen := bit v 0 })
  | 0x128 => onDev s (fun d => { d with capctx := bits v 32 16, capjob := bits v 0 32 })
  | 0x170 => onDev s (fun d => { d with ecthr := bits v 0 32 })
  | _ =>
    if 0x040 ≤ off ∧ off < 0x070 then
      onDie s ((off - 0x040) / 8) (fun d => { d with slk := bits v 32 32, hthr := bits v 16 16, ecap := bits v 8 3 })
    else if 0x180 ≤ off ∧ off < 0x180 + 8 * 36 then clearFence s ((off - 0x180) / 8) (bits v 0 48)
    else s

/-! ## Context blocks (R342, R344) -/

/-- The checks of a descriptor with valid = 1 (R90, R344): entry i of the table. -/
def descGood (i v : Nat) : Bool :=
  let base := bits v 0 64
  let size := bits v 64 32
  let lake := decide (16 ≤ i)
  let room := if lake then 2 ^ 26 - base % 2 ^ 26 else 2 ^ 20 - base % 2 ^ 20
  base % 256 == 0 && size != 0 && decide (size ≤ (if lake then 262144 else 4096)) &&
    (if lake then bits base 60 4 == 1 && bits base 26 34 == (i - 16) / 64 else bits base 60 4 == 2 && bits base 20 40 == 0) &&
    decide (256 * size ≤ room) &&
    (List.range (bits v 97 2 + 1)).all (fun p => decide (bits v (128 + 32 * p) 32 ≤ size))

/-- The pool a descriptor installs, empty and at generation 0 (R90). -/
def poolOf (v : Nat) : Pool :=
  { Pool.none with
    valid := true
    base := if bits v 60 4 = 1 then bits v 0 29 else bits v 0 20
    size := bits v 64 32, trapMode := bit v 96, nparts := bits v 97 2 + 1
    quota := (List.range 4).map (fun p => bits v (128 + 32 * p) 32) }

/-- Installs a pool of a context at a unit; what the unit kept of the pool is gone. -/
def installAt (key : Nat) (p : Pool) (s : State) (n : Nat) : State :=
  let u := unitAt s n
  if !p.valid && (tabFind u.pools key).isNone then s
  else onUnit s n (fun u => { u with
    pools := if p.valid then tabPut u.pools key p else tabDel u.pools key
    tiles := u.tiles.filter (fun t => t.pool != key)
    heads := u.heads.filter (fun h => !(h.1 / 2 ^ 64 == key / 64 && hPool (h.1 % 2 ^ 64) == key % 64)) })

/-- Installs entry i of a context's table (R90, R344). -/
def installEntry (ctx : Nat) (s : State) (e : Nat × Nat) : State :=
  let (v, i) := e
  let bad := bit v 99 && !descGood i v
  let s := if bad then logPlain s 0x40 0 (ctx * 2 ^ 16 + i) 0 else s
  let p := if bit v 99 && !bad then poolOf v else Pool.none
  if i < 16 then (List.range 1728).foldl (installAt (64 * ctx + i) p) s
  else installAt (64 * ctx + (i - 16) % 64) p s (1728 + (i - 16) / 64)

/-- CMD bit 0 (R344): with PDTAB 0, or a table that cannot be read, every descriptor becomes not valid. -/
def installPools (s : State) (c : Nat) : State :=
  let x := ctxAt s c
  if x.busy then s
  else
    let l : Option (State × List Byte) := if x.pdtab = 0 then none else frontRead s c x.pdtab (32 * 400)
    match l with
    | some (s, v) => (((chunks 32 v).map leNat).zipIdx).foldl (installEntry c) s
    | none => ((List.replicate 400 0).zipIdx).foldl (installEntry c) s

/-- INSTALL_POOL_DESCRIPTORS (R344). -/
def execInstallPoolDescriptors (ctx : BitVec 4) (s : State) : Host.Outcome State Fault Refusal := .next (installPools s ctx.toNat)

/-- CMD bit 1 (R344): ignored while a command is in progress. -/
def beginShootdown (s : State) (c : Nat) : State := if (ctxAt s c).busy then s else onCtx s c (fun x => { x with busy := true })

/-- SHOOTDOWN (R344). -/
def execShootdown (ctx : BitVec 4) (s : State) : Host.Outcome State Fault Refusal := .next (beginShootdown s ctx.toNat)

/-- Does a TLB entry translate part of a page of a context? -/
def tlbInPage (ctx base size : Nat) (t : Tlb) : Bool :=
  t.ctx == ctx && decide (t.page * pageSize t.psz < base + size) && decide (base < (t.page + 1) * pageSize t.psz)

/-- SHOOTDOWN_DONE (R344): no TLB entry of the page is left, every access of it that went to another device is answered, and what
was held on it translates again. -/
def execShootdownDone (ctx : BitVec 4) (s : State) : Host.Outcome State Fault Refusal :=
  let c := ctx.toNat
  let x := ctxAt s c
  let page := pageBase x.shootPsz x.shootVa
  if !x.busy || x.resetting || s.remotes.any (fun r => r.ctx == c && pageBase x.shootPsz r.va == page) then notNow s
  else
    let drop := tlbInPage c page (pageSize x.shootPsz)
    let s := { s with
      cores := s.cores.map (fun k => (k.1, { k.2 with tlb := k.2.tlb.filter (fun t => !drop t) }))
      dies := s.dies.map (fun d => (d.1, { d.2 with tlb := d.2.tlb.filter (fun t => !drop t) })) }
    .next (onCtx (releaseHeld s c x.shootVa x.shootPsz true) c (fun x => { x with busy := false }))

/-- The state of a step that the host's write performs, or the state as it is where the step is refused. -/
def orSame (s : State) (r : Host.Outcome State Fault Refusal) : State := match r with | .next t => t | _ => s

/-- May a function write a register of context block c: NWR the PF only, and while the context's VF is enabled the PF only the
registers of its administration (R339, R342)? -/
def mayWriteCtx (s : State) (pf : Bool) (c off : Nat) : Bool :=
  if pf then !(ctxAt s c).enabled || off == 0x078 || off == 0x090 || off == 0x098 else off != 0x078

/-- A write of context block c at an offset (R342, R446). -/
def contextWrite (s : State) (pf : Bool) (c off v : Nat) : State :=
  if !mayWriteCtx s pf c off then s
  else match off with
  | 0x000 => onCtx s c (fun x => { x with lkey := v })
  | 0x008 => onCtx s c (fun x => { x with ptroot := bits v 15 29 * 2 ^ 15 })
  | 0x010 => onCtx s c (fun x => { x with tvecd := bits v 0 52 })
  | 0x018 => onCtx s c (fun x => { x with evecd := bits v 0 52 })
  | 0x020 => onCtx s c (fun x => { x with wlimd := bits v 0 32 })
  | 0x028 => onCtx s c (fun x => { x with savebase := bits v 21 23 * 2 ^ 21 })
  | 0x030 => onCtx s c (fun x => { x with pgring := bits v 0 52 })
  | 0x038 => onCtx s c (fun x => { x with pgsize := bits v 32 16, pgtail := bits v 0 16 })
  | 0x040 => onCtx s c (fun x => { x with chbase := bits v 0 29 })
  | 0x048 => onCtx s c (fun x => { x with ppart := bits v 0 16 })
  | 0x050 => onCtx s c (fun x => { x with pdtab := bits v 0 52 })
  | 0x058 => onCtx s c (fun x => { x with shootPsz := bits v 62 2, shootVa := bits v 0 52 })
  | 0x060 =>
    let s := if bit v 0 then installPools s c else s
    if bit v 1 then beginShootdown s c else s
  | 0x070 => onCtx s c (fun x => { x with vwin := bits v 0 52 })
  | 0x078 => onCtx s c (fun x => { x with nwrFirst := bits v 16 12, nwrCount := bits v 0 13 })
  | 0x080 => orSame s (execLaunch (.ofNat 4 c) (.ofNat 52 v) s)
  | 0x090 => orSame s (execJend (.ofNat 4 c) (.ofNat 32 v) s)
  | 0x098 => if bit v 0 then resetContext s c else s
  | 0x0A0 => onCtx s c (fun x => { x with capreg := bits v 0 52 })
  | _ => s

/-! ## The tool-cluster block -/

/-- A write of the tool-cluster block (R353, R461). -/
def toolWrite (s : State) (off v : Nat) : State :=
  if off < 0x400 then putWall s (off / 16) (off / 8 % 2) v
  else match off with
    | 0x1000 => runHarts s (bits v 0 32)
    | 0x1008 => { s with harts := (List.range 32).foldl (fun t h => tabPut t h { tabGet .reset t h with entry := v }) s.harts }
    | 0x1010 => holdHarts s (bits v 0 32)
    | _ => s

/-! ## Monitors (R359, R360) -/


/-- Monitor m. -/
def monitorAt (s : State) (m : Nat) : Monitor := tabGet .reset s.monitors m

/-- Changes a monitor. -/
def onMonitor (s : State) (m : Nat) (f : Monitor → Monitor) : State := { s with monitors := tabPut s.monitors m (f (monitorAt s m)) }

/-- MCTL.clr (R359). -/
def Monitor.cleared (k : Monitor) : Monitor :=
  { k with min := 0xFFFFFFFF, max := 0, cnt := 0, sum := 0, sat := false, bins := List.replicate 32 0 }

/-- The bin of a sample (R360). -/
def Monitor.bin (k : Monitor) (v : Nat) : Nat :=
  if bit k.ctl 3 then (if v = 0 then 0 else Nat.min 31 (Nat.log2 v + 1))
  else if v < bits k.ctl 16 32 then 0 else Nat.min 31 ((v - bits k.ctl 16 32) / 2 ^ bits k.ctl 8 8)

/-- A 48-bit count that saturates. -/
def sat48 (v : Nat) : Nat := Nat.min v (2 ^ 48 - 1)

/-- A monitor after a sample (R360). -/
def Monitor.sample (k : Monitor) (v : Nat) : Monitor :=
  let b := k.bin v
  { k with
    min := Nat.min k.min v, max := Nat.max k.max v, cnt := sat48 (k.cnt + 1), sum := sat48 (k.sum + v)
    sat := k.sat || decide (2 ^ 48 - 1 < k.cnt + 1 ∨ 2 ^ 48 - 1 < k.sum + v ∨ 2 ^ 48 - 1 < nth k.bins b + 1)
    bins := setNth k.bins b (sat48 (nth k.bins b + 1)) }

/-- MONITOR_CLEAR (R359). -/
def execMonitorClear (m : BitVec 6) (s : State) : Host.Outcome State Fault Refusal := .next (onMonitor s m.toNat Monitor.cleared)

/-- MONITOR_SAT_CLEAR (R465). -/
def execMonitorSatClear (m : BitVec 6) (s : State) : Host.Outcome State Fault Refusal :=
  .next (onMonitor s m.toNat (fun k => { k with sat := false }))

/-- A monitor takes a sample: one that is off or has no source takes none, a frozen one drops it (R359). -/
def takeSample (s : State) (m v : Nat) : State :=
  let k := monitorAt s m
  if !bit k.ctl 0 || bits k.sel 0 8 == 0 || bit k.ctl 2 then s else onMonitor s m (fun k => k.sample v)

/-- MONITOR_SAMPLE (R360): a sample that its source has given. -/
def execMonitorSample (m : BitVec 6) (v : BitVec 32) (s : State) : Host.Outcome State Fault Refusal :=
  let x := (m.toNat, v.toNat)
  if s.samples.contains x then .next (takeSample { s with samples := s.samples.erase x } m.toNat v.toNat) else notNow s

/-- Entries of a queue, granules of a pool, a die's temperature, retries of a span, entries of a mailbox: the level that a monitor's
source and target name (R359, log 68). -/
def levelOf (s : State) (src tgt : Nat) : Nat :=
  let c := 48 * bits tgt 6 6 + bits tgt 0 6
  match src with
  | 2 => (queueAt s c (bits tgt 12 2)).length
  | 3 => (poolAt (unitAt s (if bit tgt 22 then 1728 + bits tgt 0 3 else c)) (64 * bits tgt 18 4 + bits tgt 12 6)).u
  | 4 => (dieAt s tgt).temp
  | 5 => (spanAt s tgt).total
  | 7 => (clusterAt s tgt).mail.length
  | _ => 0

/-- The retries of a span count from the monitor's write on, for its first interval (R359). -/
def Monitor.counting (s : State) (k : Monitor) : Monitor :=
  if bits k.sel 0 8 = 5 then { k with last := levelOf s 5 (bits k.sel 8 24) } else k

/-- A write of a monitor's registers (R359). -/
def monitorWrite (s : State) (m off v : Nat) : State :=
  match off with
  | 0x000 => onMonitor s m (fun k => { k with sel := bits v 0 32 }.counting s)
  | 0x008 =>
    let c := bits v 0 64 - place (bits v 4 4) 4 4 - place (bits v 1 1) 1 1
    onMonitor s m (fun k =>
      let n : Monitor := { (if bit v 1 then k.cleared else k) with ctl := c }
      if bit c 0 && !bit k.ctl 0 then n.counting s else n)
  | 0x030 => onMonitor s m (fun k => { k with sat := k.sat && !bit v 0 })
  | _ => s

/-! ## Attestation (R362) -/

/-- Bytes of the security mailbox. -/
def mailboxBytes (s : State) (lo n : Nat) : List Byte := (List.range n).map (fun i => .ofNat 8 (tabGet 0 s.sec.mailbox (lo + i)))

/-- Writes bytes of the security mailbox. -/
def putMailbox (s : State) (lo : Nat) (v : List Byte) : State :=
  { s with sec := { s.sec with mailbox := v.zipIdx.foldl (fun t p => tabPut t (lo + p.2) p.1.toNat) s.sec.mailbox } }

/-- The report of R362, signed; a failed security processor gives none (R450). -/
def attest (s : State) : State :=
  if s.sec.failed then putMailbox s 256 (List.replicate 312 0)
  else
    let m (i : Nat) : List Byte := (s.sec.measures.getD i [] ++ List.replicate 48 0).take 48
    let body := leBytes 16 s.sec.serial ++ mailboxBytes s 0 48 ++ m 0 ++ m 1 ++ m 2
      ++ (List.range 3).flatMap (fun i => leBytes 2 (nth s.sec.versions i)) ++ leBytes 2 (nth s.sec.floor 0)
    let s := { s with freeCount := s.freeCount + 1 }
    putMailbox s 256 (body ++ ecdsaSign Config.deviceKey (Config.signNonce s.freeCount) (sha384 body))

/-- ATTESTATION_REQUEST (R362): the security processor's firmware runs. -/
def execAttestationRequest (s : State) : Host.Outcome State Fault Refusal :=
  if s.dev.stage < 2 then notNow s else .next (attest s)

/-- A host write of eight mailbox bytes. -/
def mailboxWrite (s : State) (off v : Nat) : State :=
  let s := putMailbox s off (leBytes 8 v)
  if off = 4088 ∧ bits v 0 8 = 1 ∧ 2 ≤ s.dev.stage then attest s else s

/-! ## Routes (R453) -/

/-- Are packets of a route's pair in flight? -/
def routeBusy (s : State) (idx : Nat) : Bool :=
  s.spans.any (fun p => p.2.replay.any (fun f => f.route == idx))

/-- The rank that a record of a route names: of the own domain by local index, else the domain's first. -/
def routeRank (s : State) (idx : Nat) : Nat :=
  if idx < 9216 * 36 then rankOf s (idx % 9216) else (idx - 9216 * 36) % 1024 * 2 ^ 14

/-- A write of a route-table entry (R453): under traffic it waits for its pair's packets, and 0xBF is recorded. -/
def putRoute (s : State) (idx v : Nat) : State :=
  let v := bits v 0 6 + place (bits v 8 6) 8 6
  if routeBusy s idx then logPlain { s with routesDue := s.routesDue ++ [(idx, v)] } 0xBF 0 (routeRank s idx) 0
  else { s with routes := tabPut s.routes idx v }

/-- ROUTE_ENTRY_WRITE (R453). -/
def execRouteEntryWrite (idx : BitVec 19) (v : BitVec 64) (s : State) : Host.Outcome State Fault Refusal :=
  if 9216 * 36 + 1024 * 36 ≤ idx.toNat then .next s else .next (putRoute s idx.toNat v.toNat)

/-! ## BAR0 (R340) -/

/-- A write of a graph slot's block; GCTL.ctx through the PF only (R340). -/
def slotWrite (s : State) (pf : Bool) (n off v : Nat) : State :=
  let sl : BitVec 4 := .ofNat 4 n
  match off with
  | 0x000 => orSame s (execGraphSlotConfigWrite sl 0 (.ofNat 64 v) s)
  | 0x008 => orSame s (execGraphSlotConfigWrite sl 1 (.ofNat 64 v) s)
  | 0x010 =>
    let v := if pf then v else v - place (bits v 32 4) 32 4 + place (slotAt s n).ctx 32 4
    orSame s (execGraphSlotConfigWrite sl 2 (.ofNat 64 v) s)
  | 0x018 => orSame s (execGstart sl (.ofNat 1 v) s)
  | _ => if 0x800 ≤ off then orSame s (execGraphParameterWrite sl (.ofNat 8 ((off - 0x800) / 8)) (.ofNat 64 v) s) else s

/-- May function fn reach notify word n (R340)? -/
def mayNotify (s : State) (fn n : Nat) : Bool :=
  let x := ctxAt s (fn - 1)
  fn == 0 || (decide (x.nwrFirst ≤ n) && decide (n < x.nwrFirst + x.nwrCount))

/-- A BAR0 write by the PF (fn 0) or VF fn (R340). -/
def bar0Write (s : State) (fn off v : Nat) : State :=
  let pf := fn == 0
  let c := (off - 0x10000) / 0x1000
  let n := (off - 0x100000) / 0x1000
  let w := (off - 0x200000) / 8
  if off < 0x10000 then (if pf then deviceWriteAll s off v else s)
  else if off < 0x20000 then (if pf || c + 1 == fn then contextWrite s pf c (off % 0x1000) v else s)
  else if off < 0x30000 then (if pf then toolWrite s (off - 0x20000) v else s)
  else if off < 0x38000 then (if pf then monitorWrite s ((off - 0x30000) / 0x200) (off % 0x200) v else s)
  else if off < 0x39000 then (if pf then mailboxWrite s (off - 0x38000) v else s)
  else if off < 0x100000 then s
  else if off < 0x110000 then (if pf || (slotAt s n).ctx + 1 == fn then slotWrite s pf n (off % 0x1000) v else s)
  else if off < 0x200000 then s
  else if off < 0x208000 then (if mayNotify s fn w then notifyStore s w v 32 else s)
  else if 0x400000 ≤ off ∧ off < 0x800000 then
    (if pf ∧ (off - 0x400000) / 8 < 9216 * 36 + 1024 * 36 then putRoute s ((off - 0x400000) / 8) v else s)
  else if 0x2000000 ≤ off then (if pf ∧ s.dev.stage < 3 then bootWrite s ((off - 0x2000000) / 8) v else s)
  else s
where
  /-- The device block with the REPLAY command (R436, R452). -/
  deviceWriteAll (s : State) (off v : Nat) : State :=
    if off = 0x130 then orSame s (execReplay (.ofNat 64 v) s) else deviceWrite s off v
  /-- A word of the boot image window (R340, R363). -/
  bootWrite (s : State) (n v : Nat) : State := { s with sec := { s.sec with boot := tabPut s.sec.boot n v } }

/-- HOST_REGISTER_WRITE (R340): eight bytes at an aligned offset; a write that the table excludes has no effect. -/
def execHostRegisterWrite (fn : BitVec 5) (off : BitVec 26) (v : BitVec 64) (s : State) : Host.Outcome State Fault Refusal :=
  let f := fn.toNat
  if 16 < f ∨ (f ≠ 0 ∧ !(ctxAt s (f - 1)).enabled) then notNow s
  else if off.toNat % 8 ≠ 0 then .next s
  else .next (bar0Write s f off.toNat v.toNat)

/-- NOTIFY_MIRROR_WRITE (R340, R354). -/
def execNotifyMirrorWrite (fn : BitVec 5) (n : BitVec 12) (v : BitVec 64) (s : State) : Host.Outcome State Fault Refusal :=
  let f := fn.toNat
  if 16 < f ∨ (f ≠ 0 ∧ !(ctxAt s (f - 1)).enabled) then notNow s
  else if !mayNotify s f n.toNat then .next s
  else .next (notifyStore s n.toNat v.toNat 32)

/-! ## BAR2 (R346, R460) -/

/-- A host access at a location: a read that meets poison completes with the poisoned-TLP bit set (R460). -/
def hostAccess (s : State) (wr : Bool) (loc n v : Nat) : State :=
  if wr then storeNat s loc n v
  else if (poisoned s loc n).isSome then { s with hostData := none, hostEnd := .poisonedTlp }
  else { s with hostData := some (BitVec.ofNat 64 (loadNat s loc n)), hostEnd := .done }

/-- Where a VF's access reaches (R346): a far page at its far-tier frame, if the port is there (R462), a page with fab = 1 at its
home device; the tool zone is no concern of the host's (R352). None where the translation fails. -/
def vfPlace (s : State) (ctx : Nat) (wr : Bool) (va : Nat) : Option Xl :=
  match walkFrom s va 4 0 (ctxAt s ctx).ptroot with
  | .error _ => none
  | .ok (e, pa, psz) => match leafCheck s ⟨ctx, psz, va / pageSize psz, e, pa⟩ va wr false with
    | .error _ => none
    | .ok (.far _ psz f) => if portUp s f then some (.ok (f + va % pageSize psz)) else none
    | .ok x => some x

/-- One piece of a VF's access, k bytes into it: the bytes at va where they reach. What a read gives is added to the host's data. -/
def vfPiece (ctx : Nat) (wr : Bool) (v : Nat) (s : State) (p : Nat × Nat × Nat × Option Xl) : State :=
  let (va, n, k, x) := p
  match x with
  | some (.ok loc) =>
    if wr then storeNat s loc n (v / 2 ^ (8 * k))
    else if (poisoned s loc n).isSome then { s with hostData := none, hostEnd := .poisonedTlp }
    else { s with hostData := s.hostData.map (fun d => d + BitVec.ofNat 64 (loadNat s loc n * 2 ^ (8 * k))) }
  | some (.fab l) =>
    let s := post s 0 (routeOf s 0 (rankOf s l)) (if wr then n else 0)
    { s with
      remotes := s.remotes ++ [⟨s.sbNext, 1728, 0, ctx, va, l, b2n wr, n, v / 2 ^ (8 * k) % 2 ^ (8 * n), k, s.sbNext, none, s.cycle, 0, 0⟩]
      sbNext := s.sbNext + 1 }
  | _ => s

/-- A VF's access through its window (R346), page by page; a failed translation is a Completer Abort, and nothing of the access
is performed (R460). The host is party 1,728 among those with remote accesses; they leave by cluster 0's routes (log 100). -/
def vfAccess (s : State) (ctx : Nat) (wr : Bool) (va n v : Nat) : State :=
  let l := (pageCuts va n).map (fun p => (p.1, p.2, p.1 - va, vfPlace s ctx wr p.1))
  if decide (2 ^ 52 < va + n) || l.any (fun p => p.2.2.2.isNone) then { s with hostData := none, hostEnd := .completerAbort }
  else l.foldl (vfPiece ctx wr v) (if wr then { s with hostEnd := .done } else { s with hostData := some 0, hostEnd := .done })

/-- The PF's access to HBM (R346): bytes at and above 576 GiB read zero and take no write. -/
def pfAccess (s : State) (wr : Bool) (o n v : Nat) : State :=
  let m := Nat.min n (576 * 2 ^ 30 - o)
  if m = 0 then (if wr then s else { s with hostData := some 0, hostEnd := .done }) else hostAccess s wr o m v

/-- HOST_BAR2_ACCESS (R346). A poisoned write is discarded (R460). One that the package's wake holds is none yet (hostHeld, R358). -/
def execHostBar2Access (fn : BitVec 5) (wr : BitVec 2) (off : BitVec 40) (size : BitVec 2) (v : BitVec 64) (s : State) :
    Host.Outcome State Fault Refusal :=
  let f := fn.toNat
  let n := 2 ^ size.toNat
  let o := off.toNat
  if 16 < f ∨ (f ≠ 0 ∧ !(ctxAt s (f - 1)).enabled) then notNow s
  else match wakeForAccess s with
    | none => notNow s
    | some s =>
      if 2 ≤ wr.toNat then .next s
      else if f = 0 then .next (pfAccess s (wr == 1) o n v.toNat)
      else .next (vfAccess s (f - 1) (wr == 1) ((ctxAt s (f - 1)).vwin + o) n v.toNat)

/-- HOST_LINK_ERROR (R460): reported through AER; no error record. -/
def execHostLinkError (kind : BitVec 8) (s : State) : Host.Outcome State Fault Refusal :=
  .next { s with aer := s.aer ++ [kind.toNat] }

end Sys2Proof.Machine
end

