-- ==== Sys2Proof/Machine/Device.lean ====
section
/-! DEFINITION. The device as a whole: boot and reset (R361, R363, R439), power states (R357, R358), thermal and power failures
(R463, R464), hardware errors (R422, R423, R448 to R450), far-tier ports (R462), Kalwick spans and remote accesses (R316 to
R322, R453 to R459). -/

namespace Sys2Proof.Machine

/-! ## Boot (R361, R363) -/

/-- The state after a reset of the device: what fuses hold stays, and the ROM has trained the link (log 33). What the environment
does next stays outside. -/
def afterReset (s : State) : State :=
  { State.reset with
    inputs := s.inputs, agenda := s.agenda, focus := s.focus, freeCount := s.freeCount
    dev := { Device.reset with stage := 1 }
    sec := { Security.reset with digest := s.sec.digest, floor := s.sec.floor, serial := s.sec.serial } }

/-- DEVICE_RESET (R363, step 1). -/
def execDeviceReset (s : State) : Host.Outcome State Fault Refusal := .next (afterReset s)

/-- PCIE_HOT_RESET (R439, R460): a hot reset or PF function-level reset, then bring-up. -/
def execPcieHotReset (s : State) : Host.Outcome State Fault Refusal := .next (afterReset s)

/-- Is an image accepted (R361)? -/
def imageGood (s : State) (ver : Nat) (key hdr body sig : List Byte) : Bool :=
  sha384 key == s.sec.digest && decide (nth s.sec.floor 0 ≤ ver) &&
    ecdsaVerify (sha384 (hdr ++ body)) key sig

/-- The comm master of a cluster: its lowest-numbered core that passes self-test (R11, R363). -/
def appointed (cl : Nat) : Option Nat := (List.range 48).find? (fun k => Config.selfTest (48 * cl + k))

/-- The security processor's firmware runs (R363 step 3): pond, lake and HBM are clear, CYCLE starts at 0, every cluster has its
comm master. -/
def firmwareRuns (s : State) : State :=
  { onDev s (fun d => { d with stage := 2 }) with
    cycle := 0
    mem := ⟨[], []⟩
    fe := []
    poison := []
    clusters := (List.range 36).map (fun k => (k, { Cluster.reset with master := appointed k })) }

/-- What follows the acceptance of image img (R363): the firmware runs; the front runs, and the ports' decoders map what their
expanders hold (R349). -/
def imageRuns (s : State) (img : Nat) : State :=
  if img = 0 then firmwareRuns s
  else if img = 1 then
    { onDev s (fun d => { d with stage := 3 }) with
      ports := [true, true]
      hdm := [0, 1].map (fun p => Nat.min (2 ^ 42) (Config.expander p)) }
  else s

/-- Do these bytes stand in the boot window, from its first on (R340, R363)? -/
def inBootWindow (s : State) (l : List Byte) : Bool :=
  l.zipIdx.all (fun p => bits (tabGet 0 s.sec.boot (p.2 / 8)) (8 * (p.2 % 8)) 8 == p.1.toNat)

/-- SECURITY_IMAGE_VERIFY (R361, R363): image 0 is the security processor's, which the ROM reads from the boot window, 1 the
front's, 2 the tool-cluster loader's. DESIGN CHOICE: header, body and signature follow one another there (log 33). -/
def execSecurityImageVerify (img : BitVec 2) (ver : BitVec 16) (key hdr body sig : List (BitVec 8)) (s : State) :
    Host.Outcome State Fault Refusal :=
  let i := img.toNat
  if s.sec.failed ∨ !((i == 0 && s.dev.stage == 1 && inBootWindow s (hdr ++ body ++ sig)) || (i == 1 && s.dev.stage == 2)
      || (i == 2 && decide (2 ≤ s.dev.stage))) then notNow s
  else if !imageGood s ver.toNat key hdr body sig then .next s
  else
    let pad {α : Type} (d : α) (l : List α) : List α := (l ++ List.replicate 3 d).take 3
    let sec := { s.sec with
      measures := setNth (pad [] s.sec.measures) i (sha384 (hdr ++ body))
      versions := setNth (pad 0 s.sec.versions) i ver.toNat }
    .next (imageRuns { s with sec := sec } i)

/-! ## Power states (R357, R358) -/

/-- Does no held context of a die hold a task, and are its queues and pool units idle (L1, R357)? -/
def dieIdle (s : State) (d : Nat) : Bool :=
  (s.cores.filter (fun k => k.1 / 288 == d)).all (fun k =>
    k.2.strands.all (fun t => !(t.2.holder.isSome && t.2.task.isSome)) && k.2.queues.all (fun q => q.2.isEmpty)) &&
  s.units.all (fun u => !(u.1 / 288 == d || u.1 == 1728 + d) || u.2.inbox.isEmpty)

/-- Wake latency of a state in µs (R357). -/
def wakeLatency (st : Nat) : Nat := [0, 2, 50, 400, 5000].getD st 5000

/-- Is every die in L2, with no stream or Kalwick traffic to HBM (L3, R357)? A host or tool access begins the count anew. -/
def packageIdle (s : State) : Bool :=
  s.streams.all (fun x => !x.active) && s.remotes.isEmpty && (List.range 6).all (fun d => (dieAt s d).pstate == 2)

/-- The deepest of some states, listed from the deepest, whose wake latency LTOL admits (R358); 0 for none. -/
def deepest (s : State) (l : List Nat) : Nat := (l.find? (fun n => decide (wakeLatency n ≤ s.dev.ltol))).getD 0

/-- Has a condition held for a state's wake latency: n cycles at 2.25 GHz (R15, R358)? -/
def heldFor (n l : Nat) : Bool := decide (2250 * wakeLatency l ≤ n)

/-- The state that a die (0 to 5) or the package (6) enters now, 0 for none (R357, R358): the deepest that LTOL admits, once the
condition has held for its wake latency; under PLIM 0 the package is in L4. -/
def powerTarget (s : State) (p : Nat) : Nat :=
  if p < 6 then
    let d := dieAt s p
    let l := deepest s [2, 1]
    if d.pstate < l && dieIdle s p && heldFor d.idle l then l else 0
  else if s.dev.plim = 0 then (if s.dev.pkg < 4 then 4 else 0)
  else
    let l := deepest s [4, 3]
    if s.dev.pkg < l && packageIdle s && heldFor s.dev.quiet l then l else 0

/-- POWER_STATE_ENTRY (R357, R358): dies enter L1 and L2, the package L3 and L4. -/
def execPowerStateEntry (part : BitVec 3) (st : BitVec 3) (s : State) : Host.Outcome State Fault Refusal :=
  let p := part.toNat
  let l := st.toNat
  if 6 < p ∨ l = 0 ∨ powerTarget s p ≠ l then notNow s
  else if p < 6 then .next (onDie s p (fun d => { d with pstate := l }))
  else .next (onDev s (fun d => { d with pkg := l }))

/-- The counts of R358 after one more cycle. -/
def tickPower (s : State) : State :=
  let s := { s with dies := s.dies.map (fun d => (d.1, { d.2 with idle := if dieIdle s d.1 then d.2.idle + 1 else 0 })) }
  onDev s (fun d => { d with quiet := if packageIdle s then d.quiet + 1 else 0 })

/-- POWER_WAKE (R358): a part returns to L0. PLIM 0 holds the package in L4 (R2). -/
def execPowerWake (part : BitVec 3) (s : State) : Host.Outcome State Fault Refusal :=
  let p := part.toNat
  if p < 6 then
    (if (dieAt s p).pstate = 0 then notNow s else .next (wakeDie s (288 * p)))
  else if p = 6 ∧ s.dev.pkg ≠ 0 ∧ s.dev.plim ≠ 0 then .next (wakePackage s)
  else notNow s

/-! ## Thermal and power failures (R463, R464) -/

/-- A die whose headroom reaches 0 enters thermal hold (R463). -/
def enterHold (s : State) (d : Nat) : State := onDie s d (fun k => { k with thead := 0, hold := true, holdLen := 0 })

/-- A die leaves thermal hold (R463): 0xCF records the hold's length. -/
def leaveHold (s : State) (d head : Nat) : State :=
  logPlain (onDie s d (fun k => { k with thead := head, hold := false })) 0xCF 0 (d + 256) (dieAt s d).holdLen

/-- THERMAL_HOLD_ENTRY (R463). -/
def execThermalHoldEntry (die : BitVec 3) (s : State) : Host.Outcome State Fault Refusal :=
  let d := die.toNat
  if 6 ≤ d ∨ (dieAt s d).hold then notNow s
  else .next (enterHold s d)

/-- THERMAL_HOLD_EXIT (R463): 0xCF records the hold's length. -/
def execThermalHoldExit (die : BitVec 3) (head : BitVec 16) (s : State) : Host.Outcome State Fault Refusal :=
  let d := die.toNat
  if 6 ≤ d ∨ !(dieAt s d).hold ∨ head.toNat < 16 then notNow s
  else .next (leaveHold s d head.toNat)

/-- Every job is to be ended by the front with a code (R445). -/
def killAll (s : State) (code : Nat) : State :=
  (s.jobs.filter (fun b => b.2.phase != 4)).foldl (fun s b => killJob s b.1 code) s

/-- A failure of level 4 (R464): every job ends, PLIM is 0. -/
def packageFailure (s : State) (code unit : Nat) : State := setPlim (killAll (logPlain s code 4 unit 0) code) 0

/-- THERMAL_TRIP (R464). -/
def execThermalTrip (die : BitVec 3) (s : State) : Host.Outcome State Fault Refusal :=
  if 6 ≤ die.toNat then notNow s else .next (packageFailure s 0xC9 die.toNat)

/-- SUPPLY_FAULT (R464). -/
def execSupplyFault (s : State) : Host.Outcome State Fault Refusal := .next (packageFailure s 0xCA 0)

/-- PLIM_OVERRUN (R464). -/
def execPlimOverrun (s : State) : Host.Outcome State Fault Refusal := .next (packageFailure s 0xCA 0)

/-! ## Hardware errors -/

/-- CORRECTABLE_ERROR (R422, R436, R450). -/
def execCorrectableError (die : BitVec 3) (s : State) : Host.Outcome State Fault Refusal :=
  let d := die.toNat
  if 6 ≤ d then notNow s
  else
    let n := sat48 ((dieAt s d).ecnt + 1)
    let crossed := n != (dieAt s d).ecnt && s.dev.ecthr != 0 && n % s.dev.ecthr == 0
    let s := onDie s d (fun k => { k with ecnt := n })
    .next (if crossed then logPlain s 0xCF 0 d n else s)

/-- The core in whose storage a location lies. -/
def coreOfLoc (loc : Nat) : Option Nat :=
  if loc < 2 ^ 45 then none else if loc < 2 ^ 46 then some ((loc - 2 ^ 45) / 2 ^ 20) else some ((loc - 2 ^ 46) / 2 ^ 14)

/-- PATROL_POISON (R423, R449): the unit that holds a location is poisoned; the error names no strand. -/
def execPatrolPoison (loc : Nat) (syn : BitVec 64) (s : State) : Host.Outcome State Fault Refusal :=
  let u := (checkUnit loc).1
  let s := { s with poison := setAdd s.poison u }
  let s := match coreOfLoc loc with | some c => onCore s c (fun k => { k with fenced := true }) | none => s
  .next (logPlain s (poisonCode loc) 0 u syn.toNat)

/-- DEVICE_FATAL_ERROR (R450): 0xC7, 0xC8, 0xCB, 0xCC. -/
def execDeviceFatalError (code : BitVec 8) (unit : BitVec 64) (syn : BitVec 64) (s : State) : Host.Outcome State Fault Refusal :=
  let c := code.toNat
  if !([0xC7, 0xC8, 0xCB, 0xCC].contains c) then notNow s
  else .next { killAll (logPlain s c 5 unit.toNat syn.toNat) c with fatal := some c }

/-- SECURITY_PROCESSOR_FAULT (R450): jobs run on; attestation fails from now on. -/
def execSecurityProcessorFault (s : State) : Host.Outcome State Fault Refusal :=
  let s := logPlain s 0xCE 5 0 0
  .next { s with sec := { s.sec with failed := true } }

/-- TOOL_CACHE_ERROR (R420, R461): the hart takes the access fault of its access's kind. -/
def execToolCacheError (hart : BitVec 5) (addr : BitVec 38) (s : State) : Host.Outcome State Fault Refusal :=
  if !(hartAt s hart.toNat).run then notNow s
  else .next (logPlain (refuseHart s hart.toNat (addr.toNat / 2 ^ 36) (addr.toNat % 2 ^ 36)) 0xCD 0 hart.toNat 0)

/-- TILE_TABLE_ERROR (R449): every job with a tile of the unit ends; the pools involved are not valid. -/
def execTileTableError (unit : Nat) (syn : BitVec 64) (s : State) : Host.Outcome State Fault Refusal :=
  let u := unitAt s unit
  let s := logPlain s 0xC6 3 unit syn.toNat
  let s := ((u.tiles.map (·.job)).eraseDups).foldl (fun s j => killJob s j 0xC6) s
  .next (onUnit s unit (fun k => { k with
    pools := k.pools.map (fun p => if u.tiles.any (fun t => t.pool == p.1) then (p.1, { p.2 with valid := false }) else p) }))

/-! ## Far-tier ports (R462) -/

/-- CXL_PORT_DOWN (R462). -/
def execCxlPortDown (port : BitVec 1) (s : State) : Host.Outcome State Fault Refusal :=
  let p := port.toNat
  if !(s.ports.getD p false) then notNow s
  else .next (logPlain { s with ports := setNth s.ports p false } 0x33 0 p 0)

/-- CXL_PORT_RETRAINED (R462). -/
def execCxlPortRetrained (port : BitVec 1) (s : State) : Host.Outcome State Fault Refusal :=
  let p := port.toNat
  if s.ports.getD p false ∨ s.dev.stage < 3 then notNow s else .next { s with ports := setNth s.ports p true }

/-! ## Spans (R316, R453 to R455) -/

/-- Spans of a device. -/
def spanCount : Nat := 24

/-- Counts a retry of a span: more than 1,024 in 2^24 cycles record 0xBB (R454). -/
def countRetry (s : State) (p : Nat) : State :=
  let k := spanAt s p
  let fresh := decide (2 ^ 24 ≤ s.cycle - k.since)
  let n := if fresh then 1 else k.retries + 1
  let s := onSpan s p (fun k => { k with retries := n, since := if fresh then s.cycle else k.since, total := k.total + 1 })
  if n = 1025 then logPlain s 0xBB 0 p 0 else s


/-- Route-table writes whose pair has no packet in flight take effect (R453). -/
def settleRoutes (s : State) : State :=
  let due := s.routesDue.filter (fun r => !routeBusy s r.1)
  { s with
    routes := due.foldl (fun t r => tabPut t r.1 r.2) s.routes
    routesDue := s.routesDue.filter (fun r => routeBusy s r.1) }

/-- FLIT_ACK (R316): the flit leaves the replay store. -/
def execFlitAck (span : BitVec 5) (seq : BitVec 32) (s : State) : Host.Outcome State Fault Refusal :=
  let p := span.toNat
  let k := spanAt s p
  if !k.replay.any (fun f => f.seq % 2 ^ 32 == seq.toNat) then notNow s
  else .next (settleRoutes (onSpan s p (fun k => { k with replay := k.replay.filter (fun f => f.seq % 2 ^ 32 != seq.toNat) })))

/-- Does a route name span p, as its primary or its standby (R453)? -/
def routeNames (p v : Nat) : Bool := (bit v 5 && bits v 0 5 == p) || (bit v 13 && bits v 8 5 == p)

/-- Ranks have become absent: a launch with a member there aborts with 0xA4 (R398, R458). -/
def abortTo (lost : Nat → Bool) (s : State) : State :=
  let launches := s.clusters.flatMap (fun k => k.2.launches.map (fun l => (k.1, l.num)))
  launches.foldl (fun s p => match launchAt s p.1 p.2 with
    | none => s
    | some l =>
      match (List.range l.size).findSome? (fun j => match groupEntry s l j with
          | .ok e => if lost e.2 then some e.2 else none
          | .error _ => none) with
      | some r => abortLaunch s p.1 l ⟨0xA4, r, l.num, 0⟩
      | none => s) s

/-- A span has gone down (R455, R456, R458, R459): the pairs that now have no span record 0xA2, ranks of the own domain without a
path 0xA3, other domains without a route 0xB9, and the launches with members there abort. -/
def recordLost (p : Nat) (s : State) : State :=
  let mine := s.routes.filter (fun r => routeNames p r.2 && (spanOfRoute s r.2).isNone)
  let s := mine.foldl (fun s r => logPlain s 0xA2 0 (routeRank s r.1) 0) s
  let ls := ((mine.filter (fun r => decide (r.1 < 9216 * 36))).map (fun r => r.1 % 9216)).eraseDups
  let gone := (ls.filter (pathsDown s)).map (rankOf s)
  let ms := ((mine.filter (fun r => decide (9216 * 36 ≤ r.1))).map (fun r => (r.1 - 9216 * 36) % 1024)).eraseDups
  let domains := ms.filter (domainLost s)
  let s := gone.foldl (fun s r => logPlain { s with absent := if s.absent.contains r then s.absent else s.absent ++ [r] } 0xA3 0 r 0) s
  let s := domains.foldl (fun s m => logPlain s 0xB9 0 (m * 2 ^ 14) 0) s
  abortTo (fun r => gone.contains r || (r / 2 ^ 14 != s.dev.rank / 2 ^ 14 && domains.contains (r / 2 ^ 14))) s

/-- Flits of a span that went down are resent on the standby spans in order, ahead of the packets that wait; those that find no
room wait before them (R316, R455). -/
def resendOn : List Flit → State → State
  | [], s => s
  | f :: t, s =>
    if storeRoom s f.route 1 then resendOn t (sendOn s f.cl f.route f.len)
    else { s with outbox := (f :: t).map (fun f => ⟨f.cl, f.route, f.len⟩) ++ s.outbox }

/-- A span goes down (R455): its replay store is resent on the standby spans first, in order. -/
def spanDown (s : State) (p : Nat) : State :=
  let l := (spanAt s p).replay
  recordLost p (resendOn l (onSpan (logPlain (logPlain s 0xA1 0 p 0) 0xA0 0 p 0) p (fun k => { k with up := false, replay := [] })))

/-- Is a span's oldest flit unacknowledged 16,384 cycles after it was sent (R454)? -/
def flitLate (now : Nat) (k : Span) : Bool := (k.replay.head?).any (fun f => decide (f.sent + 16384 ≤ now))

/-- The flits of a replay store from index i on are sent again, in order; where one of them has been 16 times, the span goes down
(R454, R455). -/
def resendFrom (s : State) (p i : Nat) : State :=
  let k := spanAt s p
  if (k.replay.drop i).any (fun f => decide (16 ≤ f.resends)) then spanDown s p
  else countRetry (onSpan s p (fun k => { k with
    replay := k.replay.take i ++ (k.replay.drop i).map (fun f => { f with sent := s.cycle, resends := f.resends + 1 }) })) p

/-- FLIT_ACK_TIMEOUT (R454, R455): the flits of the replay store are sent again, in order. -/
def execFlitAckTimeout (span : BitVec 5) (s : State) : Host.Outcome State Fault Refusal :=
  let p := span.toNat
  if !(spanAt s p).up || !flitLate s.cycle (spanAt s p) then notNow s else .next (resendFrom s p 0)

/-- FLIT_RECEIVE (R316, R454): a damaged flit is asked for again (bad 1); a flit that was performed already is dropped; another
brings its request here, to be performed once. With bad 2 the far end asks for a resend from flit seq on. -/
def execFlitReceive (span : BitVec 5) (seq : BitVec 32) (bad : BitVec 2) (s : State) : Host.Outcome State Fault Refusal :=
  let p := span.toNat
  let k := spanAt s p
  if spanCount ≤ p ∨ !k.up then notNow s
  else if bad = 1 then .next (countRetry s p)
  else if bad ≠ 0 then
    (match k.replay.findIdx? (fun f => f.seq % 2 ^ 32 == seq.toNat) with
    | some i => .next (resendFrom s p i)
    | none => .next s)
  else if seq.toNat = k.expect % 2 ^ 32 then
    .next { onSpan s p (fun k => { k with expect := k.expect + 1 }) with inbound := s.inbound + 1 }
  else .next s

/-- SPAN_UP (R454, R455): reduced width records 0xBA; ranks reached again are no longer absent. -/
def execSpanUp (span : BitVec 5) (full : BitVec 1) (s : State) : Host.Outcome State Fault Refusal :=
  let p := span.toNat
  if spanCount ≤ p ∨ (spanAt s p).up then notNow s
  else
    let s := onSpan s p (fun k => { k with up := true, full := full == 1 })
    let s := { s with absent := s.absent.filter (fun r => decide (r / 2 ^ 14 ≠ s.dev.rank / 2 ^ 14) || pathsDown s (r % 2 ^ 14)) }
    .next (if full = 0 then logPlain s 0xBA 0 p 0 else s)

/-- PIER_REPORT (R459): 0xB7 or 0xB8 by a pier, 0xB9 or 0xBC at route bring-up. -/
def execPierReport (code : BitVec 8) (arg : BitVec 64) (s : State) : Host.Outcome State Fault Refusal :=
  if [0xB7, 0xB8, 0xB9, 0xBC].contains code.toNat then .next (logPlain s code.toNat 0 arg.toNat 0) else notNow s

/-! ## Remote accesses (R318 to R322, R456) -/

/-- Is the kind of a remote access a read (R319)? -/
def remoteReads (k : Nat) : Bool := k == 0 || k == 14 || k == 15

/-- The home device's answer to a device of its domain: an acknowledgment or n bytes. DESIGN CHOICE: it leaves by the routes of
cluster 0 (log 100). -/
def answer (s : State) (lidx n : Nat) : State := post s 0 (routeOf s 0 (rankOf s lidx)) n

/-- Where n bytes of a context's global address lie here (R319); none where its tables give no resident local page. -/
def homeLocs (s : State) (x va n : Nat) (wr : Bool) : Option (List (Nat × Nat)) :=
  if (ctxAt s x).ptroot = 0 then none
  else
    let l := (pageCuts va n).map (fun p => match translateFlat s x p.1 wr with
      | .ok (loc, false) => some (loc, p.2)
      | _ => none)
    if l.all Option.isSome then some (l.filterMap id) else none

/-- A remote access of kind k is performed at home, whole, at the locations found (R321, R322): bytes v, and c where the atomic
compares. -/
def performHome (s : State) (k n v c : Nat) (l : List (Nat × Nat)) : State :=
  if remoteReads k then s
  else if k = 1 then writeLocs l (leBytes n v) s
  else match l with
    | (loc, _) :: _ => storeNat s loc n (atomFn k (8 * n) (loadNat s loc n) (v % 2 ^ (8 * n)) (c % 2 ^ (8 * n)))
    | [] => s

/-- REMOTE_ACCESS_HOME (R315, R316, R319, R322, R456): the request of an accepted flit is performed once, whole, where the issuing
context's tables say here, and answered. An access that fails changes nothing. One that the package's wake holds is none yet (hostHeld,
R358). -/
def execRemoteAccessHome (ctx : BitVec 18) (kind : BitVec 4) (va : BitVec 52) (size : BitVec 8) (v : BitVec 1920) (c : BitVec 64)
    (s : State) : Host.Outcome State Fault Refusal :=
  let k := kind.toNat
  let n := size.toNat
  let x := ctx.toNat % 16
  let from_ := ctx.toNat / 16
  if s.inbound = 0 then notNow s
  else match wakeForAccess { s with inbound := s.inbound - 1 } with
    | none => notNow s
    | some s => match homeLocs s x va.toNat n (!remoteReads k) with
      | some l => .next (answer (performHome s k n v.toNat c.toNat l) from_ (if k = 1 then 0 else n))
      | none => .next (answer s from_ 0)

/-- The value a remote access gives its register (R168, R171). -/
def remoteValue (r : Remote) (v : Nat) : Dword :=
  let n := if 8 < r.size then r.size - 8 else r.size
  if r.kind = 0 then extend (decide (8 < r.size)) n (v % 2 ^ (8 * n)) else BitVec.ofNat 64 (v % 2 ^ (8 * n))

/-- The entry that made a remote access, while it stands at its queue's head. -/
def remoteEntry (s : State) (r : Remote) : Option Entry :=
  match r.queue with
  | some q => (match headEntry s r.core (q % 4) with
    | some e => if e.sx = r.sx ∧ e.seq = r.sbId ∧ e.begun ∧ e.fault.isNone then some e else none
    | none => none)
  | none => none

/-- The answer of the home device reaches the party that waits for it (R321). -/
def deliverRemote (s : State) (r : Remote) (v : Nat) : State :=
  let a : At := ⟨r.core, r.sx⟩
  if 1728 ≤ r.core then
    (if r.kind = 0 then { s with hostData := s.hostData.map (fun d => d + remoteValue r v <<< (8 * r.c)) } else s)
  else match r.queue with
    | some _ =>
      (match remoteEntry s r with
      | some e =>
        if r.kind = 0 then
          putEntry s r.core { e with prog := { e.prog with taken := e.prog.taken ++ [(remoteKey r.va, leBytes r.size v)] } }
        else s
      | none => s)
    | none =>
      if r.kind = 14 then
        onStrand s a (fun t => { t with grant := t.grant ++ [(2 * t.pc.toNat + 1, BitVec.ofNat 64 v)] })
      else if r.kind = 15 then
        onStrand s a (fun t => { t with grant := t.grant ++ [(fetchKey r.va, BitVec.ofNat 64 v)] })
      else
        onStrand s a (fun t => { t with sb := t.sb.map (fun b =>
          if b.id = r.sbId then { b with val := some (remoteValue r v) } else b) })

/-- The cause of a remote access that fails (R398, R456). -/
def remoteCause (s : State) (r : Remote) (code home : Nat) : Cause :=
  if code = 0xA5 then ⟨code, rankOf s r.rank, 0, home⟩ else ⟨code, r.va, rankOf s r.rank, home⟩

/-- A remote access fails with a cause (R456): an entry stops faulting, MDRAIN.port with 0xA7; an access of the CC, or a write of
an entry that has completed, is an asynchronous cause, and a load leaves its destination as it was. -/
def failRemote (s : State) (r : Remote) (code home : Nat) : State :=
  let a : At := ⟨r.core, r.sx⟩
  let cause := remoteCause s r code home
  if 1728 ≤ r.core then { s with hostData := none, hostEnd := .completerAbort }
  else match remoteEntry s r with
    | some e => failEntry s r.core e (match e.op with | .mdrain 1 _ ch _ _ => ⟨0xA7, ch, 0, 0⟩ | _ => cause)
    | none =>
      if (strandAt s a).task.isNone then s
      else onStrand s a (fun t => { t with
        sb := if r.queue.isNone then t.sb.filter (fun b => b.id != r.sbId) else t.sb
        asyncs := t.asyncs ++ [⟨cause, false, 0, 0, r.word, r.pc, 2⟩] })

/-- Takes a remote access off the list. -/
def takeRemote (s : State) (id : Nat) : Option (State × Remote) :=
  (s.remotes.find? (fun r => r.id == id)).map (fun r => ({ s with remotes := s.remotes.filter (fun q => q.id != id) }, r))

/-- REMOTE_RESPONSE (R321, R456): an accepted flit brings code 0, or 0x39, 0x3A, 0x3F or 0xA5 with the home cause. One for an
access that nothing waits for any more is dropped. -/
def execRemoteResponse (id : Nat) (code : BitVec 8) (v : BitVec 1920) (s : State) : Host.Outcome State Fault Refusal :=
  if s.inbound = 0 ∨ !([0, 0x39, 0x3A, 0x3F, 0xA5].contains code.toNat) then notNow s
  else
    let s := { s with inbound := s.inbound - 1 }
    match takeRemote s id with
    | none => .next s
    | some (t, r) =>
      if code = 0 then .next (deliverRemote t r v.toNat) else .next (failRemote t r code.toNat (v.toNat % 2 ^ 64))

/-- Is a remote access without an answer for 2^22 cycles, or without a span, or on its way to a rank that is absent (R456)? -/
def remoteDead (s : State) (r : Remote) : Bool :=
  decide (2 ^ 22 ≤ s.cycle - r.sent) || rankAbsent s (rankOf s r.rank) ||
    (spanOfRoute s (routeWord s (r.core / 48 % 36) r.rank)).isNone

/-- REMOTE_ACCESS_TIMEOUT (R456): no response within 2^22 cycles, no span for the pair, or a rank that is absent. -/
def execRemoteAccessTimeout (id : Nat) (s : State) : Host.Outcome State Fault Refusal :=
  match takeRemote s id with
  | none => notNow s
  | some (t, r) =>
    if remoteDead s r then .next (failRemote t r 0x3B 0)
    else notNow s

end Sys2Proof.Machine
end

