-- ==== Sys2Proof/Machine/FloatCc.lean ====
section
/-! DEFINITION. Floating point of the CC: majors 0x0F to 0x12 (R172 to R175). Exposed latency 4, for major 0x12 6 (R144). -/

namespace Sys2Proof.Machine

/-- The pattern of an operand: its low bits of the format's width. -/
def fbits (fmt : Nat) (v : Dword) : Nat := v.toNat % 2 ^ fmtBits fmt

/-- A function of two patterns of a format. -/
def fop2 (fmt : Nat) (f : Nat → Nat → Nat) (u v : Dword) : Dword := BitVec.ofNat 64 (f (fbits fmt u) (fbits fmt v))

/-- A function of one pattern of a format. -/
def fop1 (fmt : Nat) (f : Nat → Nat) (u : Dword) : Dword := BitVec.ofNat 64 (f (fbits fmt u))

/-- A comparison as 1 or 0 (R172). -/
def fcmp2 (fmt : Nat) (f : Int → Bool) (u v : Dword) : Dword := flag (fcompare fmt f (fbits fmt u) (fbits fmt v))

/-- FFMA (R173): d is read at issue. -/
def ffmaOp (fmt : Nat) (d : BitVec 5) (n : BitVec 1) (x y : BitVec 6) (s : State) : Host.Outcome State Fault Refusal :=
  issue 4 s fun a s =>
    match rd s a x, rd s a y, rdG s a d.toNat with
    | .ok u, .ok v, .ok w =>
      (match wrG s a d n 4 (BitVec.ofNat 64 (ffmaBits fmt 0 (fbits fmt u) (fbits fmt v) (fbits fmt w))) with
      | .ok s => .ok ⟨s, 0, .seq⟩
      | .error e => .error e)
    | .error e, _, _ => .error e
    | _, .error e, _ => .error e
    | _, _, .error e => .error e

/-- FCVT (R174): source and destination format; s32 results are sign-extended. -/
def fcvt (src dst mode : Nat) (u : Dword) : Dword :=
  let r := convert src dst mode (fbits src u)
  if dst = 0x0A then BitVec.ofInt 64 (sgn r 32) else BitVec.ofNat 64 r

/-- EXP2, LOG2, RCP and RSQ in FP64: by way of FP32 (R175). -/
def viaF32 (f : Nat → Nat) (u : Dword) : Dword := BitVec.ofNat 64 (convert 2 1 0 (f (convert 1 2 0 u.toNat)))


/-- FADD.d (R172). -/
def execFaddD (d : BitVec 5) (n : BitVec 1) (a b : BitVec 6) (s : State) : Host.Outcome State Fault Refusal :=
  lat2 4 d n a b (fop2 1 (faddBits 1 0)) s

/-- FADD.s (R172). -/
def execFaddS (d : BitVec 5) (n : BitVec 1) (a b : BitVec 6) (s : State) : Host.Outcome State Fault Refusal :=
  lat2 4 d n a b (fop2 2 (faddBits 2 0)) s

/-- FSUB.d (R172). -/
def execFsubD (d : BitVec 5) (n : BitVec 1) (a b : BitVec 6) (s : State) : Host.Outcome State Fault Refusal :=
  lat2 4 d n a b (fop2 1 (fsubBits 1 0)) s

/-- FSUB.s (R172). -/
def execFsubS (d : BitVec 5) (n : BitVec 1) (a b : BitVec 6) (s : State) : Host.Outcome State Fault Refusal :=
  lat2 4 d n a b (fop2 2 (fsubBits 2 0)) s

/-- FMUL.d (R172). -/
def execFmulD (d : BitVec 5) (n : BitVec 1) (a b : BitVec 6) (s : State) : Host.Outcome State Fault Refusal :=
  lat2 4 d n a b (fop2 1 (fmulBits 1 0)) s

/-- FMUL.s (R172). -/
def execFmulS (d : BitVec 5) (n : BitVec 1) (a b : BitVec 6) (s : State) : Host.Outcome State Fault Refusal :=
  lat2 4 d n a b (fop2 2 (fmulBits 2 0)) s

/-- FMIN.d (R172). -/
def execFminD (d : BitVec 5) (n : BitVec 1) (a b : BitVec 6) (s : State) : Host.Outcome State Fault Refusal :=
  lat2 4 d n a b (fop2 1 (fminmax 1 false)) s

/-- FMIN.s (R172). -/
def execFminS (d : BitVec 5) (n : BitVec 1) (a b : BitVec 6) (s : State) : Host.Outcome State Fault Refusal :=
  lat2 4 d n a b (fop2 2 (fminmax 2 false)) s

/-- FMAX.d (R172). -/
def execFmaxD (d : BitVec 5) (n : BitVec 1) (a b : BitVec 6) (s : State) : Host.Outcome State Fault Refusal :=
  lat2 4 d n a b (fop2 1 (fminmax 1 true)) s

/-- FMAX.s (R172). -/
def execFmaxS (d : BitVec 5) (n : BitVec 1) (a b : BitVec 6) (s : State) : Host.Outcome State Fault Refusal :=
  lat2 4 d n a b (fop2 2 (fminmax 2 true)) s

/-- FABS.d (R172). -/
def execFabsD (d : BitVec 5) (n : BitVec 1) (a : BitVec 6) (s : State) : Host.Outcome State Fault Refusal :=
  lat1 4 d n a (fop1 1 (fabsBits 1)) s

/-- FABS.s (R172). -/
def execFabsS (d : BitVec 5) (n : BitVec 1) (a : BitVec 6) (s : State) : Host.Outcome State Fault Refusal :=
  lat1 4 d n a (fop1 2 (fabsBits 2)) s

/-- FNEG.d (R172). -/
def execFnegD (d : BitVec 5) (n : BitVec 1) (a : BitVec 6) (s : State) : Host.Outcome State Fault Refusal :=
  lat1 4 d n a (fop1 1 (fnegBits 1)) s

/-- FNEG.s (R172). -/
def execFnegS (d : BitVec 5) (n : BitVec 1) (a : BitVec 6) (s : State) : Host.Outcome State Fault Refusal :=
  lat1 4 d n a (fop1 2 (fnegBits 2)) s

/-- FCEQ.d (R172). -/
def execFceqD (d : BitVec 5) (n : BitVec 1) (a b : BitVec 6) (s : State) : Host.Outcome State Fault Refusal :=
  lat2 4 d n a b (fcmp2 1 (fun c => c == 0)) s

/-- FCEQ.s (R172). -/
def execFceqS (d : BitVec 5) (n : BitVec 1) (a b : BitVec 6) (s : State) : Host.Outcome State Fault Refusal :=
  lat2 4 d n a b (fcmp2 2 (fun c => c == 0)) s

/-- FCLT.d (R172). -/
def execFcltD (d : BitVec 5) (n : BitVec 1) (a b : BitVec 6) (s : State) : Host.Outcome State Fault Refusal :=
  lat2 4 d n a b (fcmp2 1 (fun c => decide (c < 0))) s

/-- FCLT.s (R172). -/
def execFcltS (d : BitVec 5) (n : BitVec 1) (a b : BitVec 6) (s : State) : Host.Outcome State Fault Refusal :=
  lat2 4 d n a b (fcmp2 2 (fun c => decide (c < 0))) s

/-- FCLE.d (R172). -/
def execFcleD (d : BitVec 5) (n : BitVec 1) (a b : BitVec 6) (s : State) : Host.Outcome State Fault Refusal :=
  lat2 4 d n a b (fcmp2 1 (fun c => decide (c ≤ 0))) s

/-- FCLE.s (R172). -/
def execFcleS (d : BitVec 5) (n : BitVec 1) (a b : BitVec 6) (s : State) : Host.Outcome State Fault Refusal :=
  lat2 4 d n a b (fcmp2 2 (fun c => decide (c ≤ 0))) s

/-- FFMA.d (R173). -/
def execFfmaD (d : BitVec 5) (n : BitVec 1) (a b : BitVec 6) (s : State) : Host.Outcome State Fault Refusal :=
  ffmaOp 1 d n a b s

/-- FFMA.s (R173). -/
def execFfmaS (d : BitVec 5) (n : BitVec 1) (a b : BitVec 6) (s : State) : Host.Outcome State Fault Refusal :=
  ffmaOp 2 d n a b s

/-- FCVT.F32F64 (R174). -/
def execFcvtF32F64 (d : BitVec 5) (n : BitVec 1) (a : BitVec 6) (m : BitVec 3) (s : State) : Host.Outcome State Fault Refusal :=
  lat1 4 d n a (fcvt 1 2 m.toNat) s

/-- FCVT.F64F32 (R174). -/
def execFcvtF64F32 (d : BitVec 5) (n : BitVec 1) (a : BitVec 6) (m : BitVec 3) (s : State) : Host.Outcome State Fault Refusal :=
  lat1 4 d n a (fcvt 2 1 m.toNat) s

/-- FCVT.F16F32 (R174). -/
def execFcvtF16F32 (d : BitVec 5) (n : BitVec 1) (a : BitVec 6) (m : BitVec 3) (s : State) : Host.Outcome State Fault Refusal :=
  lat1 4 d n a (fcvt 2 3 m.toNat) s

/-- FCVT.F32F16 (R174). -/
def execFcvtF32F16 (d : BitVec 5) (n : BitVec 1) (a : BitVec 6) (m : BitVec 3) (s : State) : Host.Outcome State Fault Refusal :=
  lat1 4 d n a (fcvt 3 2 m.toNat) s

/-- FCVT.Bf16F32 (R174). -/
def execFcvtBf16F32 (d : BitVec 5) (n : BitVec 1) (a : BitVec 6) (m : BitVec 3) (s : State) : Host.Outcome State Fault Refusal :=
  lat1 4 d n a (fcvt 2 4 m.toNat) s

/-- FCVT.F32Bf16 (R174). -/
def execFcvtF32Bf16 (d : BitVec 5) (n : BitVec 1) (a : BitVec 6) (m : BitVec 3) (s : State) : Host.Outcome State Fault Refusal :=
  lat1 4 d n a (fcvt 4 2 m.toNat) s

/-- FCVT.Kf8F32 (R174). -/
def execFcvtKf8F32 (d : BitVec 5) (n : BitVec 1) (a : BitVec 6) (m : BitVec 3) (s : State) : Host.Outcome State Fault Refusal :=
  lat1 4 d n a (fcvt 2 5 m.toNat) s

/-- FCVT.F32Kf8 (R174). -/
def execFcvtF32Kf8 (d : BitVec 5) (n : BitVec 1) (a : BitVec 6) (m : BitVec 3) (s : State) : Host.Outcome State Fault Refusal :=
  lat1 4 d n a (fcvt 5 2 m.toNat) s

/-- FCVT.S64F64 (R174). -/
def execFcvtS64F64 (d : BitVec 5) (n : BitVec 1) (a : BitVec 6) (m : BitVec 3) (s : State) : Host.Outcome State Fault Refusal :=
  lat1 4 d n a (fcvt 1 11 m.toNat) s

/-- FCVT.F64S64 (R174). -/
def execFcvtF64S64 (d : BitVec 5) (n : BitVec 1) (a : BitVec 6) (m : BitVec 3) (s : State) : Host.Outcome State Fault Refusal :=
  lat1 4 d n a (fcvt 11 1 m.toNat) s

/-- FCVT.S32F32 (R174). -/
def execFcvtS32F32 (d : BitVec 5) (n : BitVec 1) (a : BitVec 6) (m : BitVec 3) (s : State) : Host.Outcome State Fault Refusal :=
  lat1 4 d n a (fcvt 2 10 m.toNat) s

/-- FCVT.F32S32 (R174). -/
def execFcvtF32S32 (d : BitVec 5) (n : BitVec 1) (a : BitVec 6) (m : BitVec 3) (s : State) : Host.Outcome State Fault Refusal :=
  lat1 4 d n a (fcvt 10 2 m.toNat) s

/-- FCVT.N64F64 (R174). -/
def execFcvtN64F64 (d : BitVec 5) (n : BitVec 1) (a : BitVec 6) (m : BitVec 3) (s : State) : Host.Outcome State Fault Refusal :=
  lat1 4 d n a (fcvt 1 15 m.toNat) s

/-- FCVT.F64N64 (R174). -/
def execFcvtF64N64 (d : BitVec 5) (n : BitVec 1) (a : BitVec 6) (m : BitVec 3) (s : State) : Host.Outcome State Fault Refusal :=
  lat1 4 d n a (fcvt 15 1 m.toNat) s

/-- EXP2.d (R175). -/
def execExp2D (d : BitVec 5) (n : BitVec 1) (a : BitVec 6) (s : State) : Host.Outcome State Fault Refusal :=
  lat1 6 d n a (viaF32 exp2k) s

/-- EXP2.s (R175). -/
def execExp2S (d : BitVec 5) (n : BitVec 1) (a : BitVec 6) (s : State) : Host.Outcome State Fault Refusal :=
  lat1 6 d n a (fop1 2 exp2k) s

/-- LOG2.d (R175). -/
def execLog2D (d : BitVec 5) (n : BitVec 1) (a : BitVec 6) (s : State) : Host.Outcome State Fault Refusal :=
  lat1 6 d n a (viaF32 log2k) s

/-- LOG2.s (R175). -/
def execLog2S (d : BitVec 5) (n : BitVec 1) (a : BitVec 6) (s : State) : Host.Outcome State Fault Refusal :=
  lat1 6 d n a (fop1 2 log2k) s

/-- RCP.d (R175). -/
def execRcpD (d : BitVec 5) (n : BitVec 1) (a : BitVec 6) (s : State) : Host.Outcome State Fault Refusal :=
  lat1 6 d n a (viaF32 rcpk) s

/-- RCP.s (R175). -/
def execRcpS (d : BitVec 5) (n : BitVec 1) (a : BitVec 6) (s : State) : Host.Outcome State Fault Refusal :=
  lat1 6 d n a (fop1 2 rcpk) s

/-- RSQ.d (R175). -/
def execRsqD (d : BitVec 5) (n : BitVec 1) (a : BitVec 6) (s : State) : Host.Outcome State Fault Refusal :=
  lat1 6 d n a (viaF32 rsqk) s

/-- RSQ.s (R175). -/
def execRsqS (d : BitVec 5) (n : BitVec 1) (a : BitVec 6) (s : State) : Host.Outcome State Fault Refusal :=
  lat1 6 d n a (fop1 2 rsqk) s

end Sys2Proof.Machine
end

