-- ==== Sys2Proof/Machine/Liw.lean ====
section
/-! DEFINITION. Long-immediate groups (R142, R403): the prefixed instruction with the 32-bit immediate for its operand, as one
instruction of 12 bytes. -/

namespace Sys2Proof.Machine

/-- The immediate sign-extended or zero-extended to 64 bits (R142). -/
def liwS (v : Word) : Dword := v.signExtend 64
/-- The immediate zero-extended. -/
def liwZ (v : Word) : Dword := v.zeroExtend 64

/-- The offset of a prefixed MEM word. -/
def memLong (v w : Word) : MemOff := ⟨12, v.toInt, some (w.toNat, v.toNat)⟩

/-- A refused group: the cause with the prefixed word (log 17). -/
def liwRefused (w : Word) (code arg : Nat) (s : State) : Host.Outcome State Fault Refusal :=
  issue 12 s fun _ _ => raise code w.toNat arg 0

/-- The prefixed instruction i with immediate v. -/
def runLong (v w : Word) (i : Instr) (s : State) : Host.Outcome State Fault Refusal :=
  match i with
  | .addi d n a _ => alu1 12 d n a (addiFn (liwS v)) s
  | .andi d n a _ => alu1 12 d n a (andiFn (liwS v)) s
  | .ori d n a _ => alu1 12 d n a (oriFn (liwZ v)) s
  | .xori d n a _ => alu1 12 d n a (xoriFn (liwZ v)) s
  | .shli d n a _ => alu1 12 d n a (shliFn (liwZ v)) s
  | .shri d n a _ => alu1 12 d n a (shriFn (liwZ v)) s
  | .sari d n a _ => alu1 12 d n a (sariFn (liwZ v)) s
  | .roli d n a _ => alu1 12 d n a (roliFn (liwZ v)) s
  | .seqi d n a _ => alu1 12 d n a (seqiFn (liwS v)) s
  | .slti d n a _ => alu1 12 d n a (sltiFn (liwS v)) s
  | .sltni d n a _ => alu1 12 d n a (sltniFn (liwZ v)) s
  | .ldS8 d b _ => ldOp (memLong v w) d b 1 true s
  | .ldN8 d b _ => ldOp (memLong v w) d b 1 false s
  | .ldS16 d b _ => ldOp (memLong v w) d b 2 true s
  | .ldN16 d b _ => ldOp (memLong v w) d b 2 false s
  | .ldS32 d b _ => ldOp (memLong v w) d b 4 true s
  | .ldN32 d b _ => ldOp (memLong v w) d b 4 false s
  | .ldD d b _ => ldOp (memLong v w) d b 8 false s
  | .stB r b _ => stOp (memLong v w) r b 1 s
  | .stH r b _ => stOp (memLong v w) r b 2 s
  | .stW r b _ => stOp (memLong v w) r b 4 s
  | .stD r b _ => stOp (memLong v w) r b 8 s
  | .stfW r b _ => stfOp (memLong v w) r b 4 s
  | .stfD r b _ => stfOp (memLong v w) r b 8 s
  | .ldfWKeep d b _ => ldfOp (memLong v w) d b 4 false s
  | .ldfWTake d b _ => ldfOp (memLong v w) d b 4 true s
  | .ldfDKeep d b _ => ldfOp (memLong v w) d b 8 false s
  | .ldfDTake d b _ => ldfOp (memLong v w) d b 8 true s
  | .br p x _ => brOp 12 p x v.toInt s
  | .jal d n _ => jalOp 12 d n v.toInt s
  | .jr d n a _ => jrOp 12 d n a v.toInt s
  | .loop a _ => loopOp 12 a v.toNat w.toNat s
  | .loopi l _ => loopiOp 12 (l.toNat + 1) v.toNat w.toNat s
  | _ => liwRefused w 0x04 0 s

/-- LIW (R142). -/
def execLiw (imm word : Word) (s : State) : Host.Outcome State Fault Refusal :=
  match decodePrefixed imm word with
  | .ok i => runLong imm word i s
  | .error e => liwRefused word e.code e.arg s

end Sys2Proof.Machine
end

