-- ==== Sys2Proof/Machine/Dispatch.lean ====
section
/-! DEFINITION. The one match from an instruction to its meaning. -/

namespace Sys2Proof.Machine

def exec (i : Instr) (s : State) : Host.Outcome State Fault Refusal :=
  match i with
  | .add d n a b => Sys2Proof.Machine.execAdd d n a b s
  | .sub d n a b => Sys2Proof.Machine.execSub d n a b s
  | .and d n a b => Sys2Proof.Machine.execAnd d n a b s
  | .or d n a b => Sys2Proof.Machine.execOr d n a b s
  | .xor d n a b => Sys2Proof.Machine.execXor d n a b s
  | .andn d n a b => Sys2Proof.Machine.execAndn d n a b s
  | .orn d n a b => Sys2Proof.Machine.execOrn d n a b s
  | .shl d n a b => Sys2Proof.Machine.execShl d n a b s
  | .shr d n a b => Sys2Proof.Machine.execShr d n a b s
  | .sar d n a b => Sys2Proof.Machine.execSar d n a b s
  | .rol d n a b => Sys2Proof.Machine.execRol d n a b s
  | .min d n a b => Sys2Proof.Machine.execMin d n a b s
  | .max d n a b => Sys2Proof.Machine.execMax d n a b s
  | .minn d n a b => Sys2Proof.Machine.execMinn d n a b s
  | .maxn d n a b => Sys2Proof.Machine.execMaxn d n a b s
  | .seq d n a b => Sys2Proof.Machine.execSeq d n a b s
  | .sne d n a b => Sys2Proof.Machine.execSne d n a b s
  | .slt d n a b => Sys2Proof.Machine.execSlt d n a b s
  | .sltn d n a b => Sys2Proof.Machine.execSltn d n a b s
  | .sle d n a b => Sys2Proof.Machine.execSle d n a b s
  | .slen d n a b => Sys2Proof.Machine.execSlen d n a b s
  | .clz d n a => Sys2Proof.Machine.execClz d n a s
  | .ctz d n a => Sys2Proof.Machine.execCtz d n a s
  | .popc d n a => Sys2Proof.Machine.execPopc d n a s
  | .addi d n a xi => Sys2Proof.Machine.execAddi d n a xi s
  | .andi d n a xi => Sys2Proof.Machine.execAndi d n a xi s
  | .ori d n a xi => Sys2Proof.Machine.execOri d n a xi s
  | .xori d n a xi => Sys2Proof.Machine.execXori d n a xi s
  | .shli d n a xs => Sys2Proof.Machine.execShli d n a xs s
  | .shri d n a xs => Sys2Proof.Machine.execShri d n a xs s
  | .sari d n a xs => Sys2Proof.Machine.execSari d n a xs s
  | .roli d n a xs => Sys2Proof.Machine.execRoli d n a xs s
  | .seqi d n a xi => Sys2Proof.Machine.execSeqi d n a xi s
  | .slti d n a xi => Sys2Proof.Machine.execSlti d n a xi s
  | .sltni d n a xi => Sys2Proof.Machine.execSltni d n a xi s
  | .lea d n a b xs => Sys2Proof.Machine.execLea d n a b xs s
  | .mul d n a b => Sys2Proof.Machine.execMul d n a b s
  | .mulh d n a b => Sys2Proof.Machine.execMulh d n a b s
  | .mulhn d n a b => Sys2Proof.Machine.execMulhn d n a b s
  | .div d n a b => Sys2Proof.Machine.execDiv d n a b s
  | .divn d n a b => Sys2Proof.Machine.execDivn d n a b s
  | .rem d n a b => Sys2Proof.Machine.execRem d n a b s
  | .remn d n a b => Sys2Proof.Machine.execRemn d n a b s
  | .peq d a b => Sys2Proof.Machine.execPeq d a b s
  | .pne d a b => Sys2Proof.Machine.execPne d a b s
  | .plt d a b => Sys2Proof.Machine.execPlt d a b s
  | .pltn d a b => Sys2Proof.Machine.execPltn d a b s
  | .ple d a b => Sys2Proof.Machine.execPle d a b s
  | .plen d a b => Sys2Proof.Machine.execPlen d a b s
  | .pand d a b => Sys2Proof.Machine.execPand d a b s
  | .por d a b => Sys2Proof.Machine.execPor d a b s
  | .pxor d a b => Sys2Proof.Machine.execPxor d a b s
  | .pnot d a => Sys2Proof.Machine.execPnot d a s
  | .ptog d => Sys2Proof.Machine.execPtog d s
  | .sel d n a b v p => Sys2Proof.Machine.execSel d n a b v p s
  | .ldS8 d b o => Sys2Proof.Machine.execLdS8 d b o s
  | .ldN8 d b o => Sys2Proof.Machine.execLdN8 d b o s
  | .ldS16 d b o => Sys2Proof.Machine.execLdS16 d b o s
  | .ldN16 d b o => Sys2Proof.Machine.execLdN16 d b o s
  | .ldS32 d b o => Sys2Proof.Machine.execLdS32 d b o s
  | .ldN32 d b o => Sys2Proof.Machine.execLdN32 d b o s
  | .ldD d b o => Sys2Proof.Machine.execLdD d b o s
  | .stB xs b o => Sys2Proof.Machine.execStB xs b o s
  | .stH xs b o => Sys2Proof.Machine.execStH xs b o s
  | .stW xs b o => Sys2Proof.Machine.execStW xs b o s
  | .stD xs b o => Sys2Proof.Machine.execStD xs b o s
  | .stfW xs b o => Sys2Proof.Machine.execStfW xs b o s
  | .stfD xs b o => Sys2Proof.Machine.execStfD xs b o s
  | .ldfWKeep d b o => Sys2Proof.Machine.execLdfWKeep d b o s
  | .ldfWTake d b o => Sys2Proof.Machine.execLdfWTake d b o s
  | .ldfDKeep d b o => Sys2Proof.Machine.execLdfDKeep d b o s
  | .ldfDTake d b o => Sys2Proof.Machine.execLdfDTake d b o s
  | .aaddW d n a b => Sys2Proof.Machine.execAaddW d n a b s
  | .aaddD d n a b => Sys2Proof.Machine.execAaddD d n a b s
  | .asaddW d n a b => Sys2Proof.Machine.execAsaddW d n a b s
  | .asaddD d n a b => Sys2Proof.Machine.execAsaddD d n a b s
  | .aminW d n a b => Sys2Proof.Machine.execAminW d n a b s
  | .aminD d n a b => Sys2Proof.Machine.execAminD d n a b s
  | .amaxW d n a b => Sys2Proof.Machine.execAmaxW d n a b s
  | .amaxD d n a b => Sys2Proof.Machine.execAmaxD d n a b s
  | .aminnW d n a b => Sys2Proof.Machine.execAminnW d n a b s
  | .aminnD d n a b => Sys2Proof.Machine.execAminnD d n a b s
  | .amaxnW d n a b => Sys2Proof.Machine.execAmaxnW d n a b s
  | .amaxnD d n a b => Sys2Proof.Machine.execAmaxnD d n a b s
  | .aandW d n a b => Sys2Proof.Machine.execAandW d n a b s
  | .aandD d n a b => Sys2Proof.Machine.execAandD d n a b s
  | .aorW d n a b => Sys2Proof.Machine.execAorW d n a b s
  | .aorD d n a b => Sys2Proof.Machine.execAorD d n a b s
  | .axorW d n a b => Sys2Proof.Machine.execAxorW d n a b s
  | .axorD d n a b => Sys2Proof.Machine.execAxorD d n a b s
  | .aswapW d n a b => Sys2Proof.Machine.execAswapW d n a b s
  | .aswapD d n a b => Sys2Proof.Machine.execAswapD d n a b s
  | .acasW d n a b => Sys2Proof.Machine.execAcasW d n a b s
  | .acasD d n a b => Sys2Proof.Machine.execAcasD d n a b s
  | .afaddW d n a b => Sys2Proof.Machine.execAfaddW d n a b s
  | .faddD d n a b => Sys2Proof.Machine.execFaddD d n a b s
  | .faddS d n a b => Sys2Proof.Machine.execFaddS d n a b s
  | .fsubD d n a b => Sys2Proof.Machine.execFsubD d n a b s
  | .fsubS d n a b => Sys2Proof.Machine.execFsubS d n a b s
  | .fmulD d n a b => Sys2Proof.Machine.execFmulD d n a b s
  | .fmulS d n a b => Sys2Proof.Machine.execFmulS d n a b s
  | .fminD d n a b => Sys2Proof.Machine.execFminD d n a b s
  | .fminS d n a b => Sys2Proof.Machine.execFminS d n a b s
  | .fmaxD d n a b => Sys2Proof.Machine.execFmaxD d n a b s
  | .fmaxS d n a b => Sys2Proof.Machine.execFmaxS d n a b s
  | .fabsD d n a => Sys2Proof.Machine.execFabsD d n a s
  | .fabsS d n a => Sys2Proof.Machine.execFabsS d n a s
  | .fnegD d n a => Sys2Proof.Machine.execFnegD d n a s
  | .fnegS d n a => Sys2Proof.Machine.execFnegS d n a s
  | .fceqD d n a b => Sys2Proof.Machine.execFceqD d n a b s
  | .fceqS d n a b => Sys2Proof.Machine.execFceqS d n a b s
  | .fcltD d n a b => Sys2Proof.Machine.execFcltD d n a b s
  | .fcltS d n a b => Sys2Proof.Machine.execFcltS d n a b s
  | .fcleD d n a b => Sys2Proof.Machine.execFcleD d n a b s
  | .fcleS d n a b => Sys2Proof.Machine.execFcleS d n a b s
  | .ffmaD d n a b => Sys2Proof.Machine.execFfmaD d n a b s
  | .ffmaS d n a b => Sys2Proof.Machine.execFfmaS d n a b s
  | .fcvtF32F64 d n a m => Sys2Proof.Machine.execFcvtF32F64 d n a m s
  | .fcvtF64F32 d n a m => Sys2Proof.Machine.execFcvtF64F32 d n a m s
  | .fcvtF16F32 d n a m => Sys2Proof.Machine.execFcvtF16F32 d n a m s
  | .fcvtF32F16 d n a m => Sys2Proof.Machine.execFcvtF32F16 d n a m s
  | .fcvtBf16F32 d n a m => Sys2Proof.Machine.execFcvtBf16F32 d n a m s
  | .fcvtF32Bf16 d n a m => Sys2Proof.Machine.execFcvtF32Bf16 d n a m s
  | .fcvtKf8F32 d n a m => Sys2Proof.Machine.execFcvtKf8F32 d n a m s
  | .fcvtF32Kf8 d n a m => Sys2Proof.Machine.execFcvtF32Kf8 d n a m s
  | .fcvtS64F64 d n a m => Sys2Proof.Machine.execFcvtS64F64 d n a m s
  | .fcvtF64S64 d n a m => Sys2Proof.Machine.execFcvtF64S64 d n a m s
  | .fcvtS32F32 d n a m => Sys2Proof.Machine.execFcvtS32F32 d n a m s
  | .fcvtF32S32 d n a m => Sys2Proof.Machine.execFcvtF32S32 d n a m s
  | .fcvtN64F64 d n a m => Sys2Proof.Machine.execFcvtN64F64 d n a m s
  | .fcvtF64N64 d n a m => Sys2Proof.Machine.execFcvtF64N64 d n a m s
  | .exp2D d n a => Sys2Proof.Machine.execExp2D d n a s
  | .exp2S d n a => Sys2Proof.Machine.execExp2S d n a s
  | .log2D d n a => Sys2Proof.Machine.execLog2D d n a s
  | .log2S d n a => Sys2Proof.Machine.execLog2S d n a s
  | .rcpD d n a => Sys2Proof.Machine.execRcpD d n a s
  | .rcpS d n a => Sys2Proof.Machine.execRcpS d n a s
  | .rsqD d n a => Sys2Proof.Machine.execRsqD d n a s
  | .rsqS d n a => Sys2Proof.Machine.execRsqS d n a s
  | .kand d n a b => Sys2Proof.Machine.execKand d n a b s
  | .kor d n a b => Sys2Proof.Machine.execKor d n a b s
  | .kxor d n a b => Sys2Proof.Machine.execKxor d n a b s
  | .kandn d n a b => Sys2Proof.Machine.execKandn d n a b s
  | .knot d n a => Sys2Proof.Machine.execKnot d n a s
  | .kshl d n a b => Sys2Proof.Machine.execKshl d n a b s
  | .kshr d n a b => Sys2Proof.Machine.execKshr d n a b s
  | .kpop d n a => Sys2Proof.Machine.execKpop d n a s
  | .kmovg d n a => Sys2Proof.Machine.execKmovg d n a s
  | .kmovk d n a => Sys2Proof.Machine.execKmovk d n a s
  | .kbit d n a b => Sys2Proof.Machine.execKbit d n a b s
  | .ktst d n a b => Sys2Proof.Machine.execKtst d n a b s
  | .kldm d n a b => Sys2Proof.Machine.execKldm d n a b s
  | .kffs d n a => Sys2Proof.Machine.execKffs d n a s
  | .emov d n a => Sys2Proof.Machine.execEmov d n a s
  | .eget d n a => Sys2Proof.Machine.execEget d n a s
  | .emin d n a b => Sys2Proof.Machine.execEmin d n a b s
  | .esub d n a b => Sys2Proof.Machine.execEsub d n a b s
  | .eadd d n a b => Sys2Proof.Machine.execEadd d n a b s
  | .eclr a => Sys2Proof.Machine.execEclr a s
  | .br p v o => Sys2Proof.Machine.execBr p v o s
  | .jal d n o => Sys2Proof.Machine.execJal d n o s
  | .jr d n a xi => Sys2Proof.Machine.execJr d n a xi s
  | .loop a l => Sys2Proof.Machine.execLoop a l s
  | .loopi l c => Sys2Proof.Machine.execLoopi l c s
  | .nop => Sys2Proof.Machine.execNop s
  | .halt => Sys2Proof.Machine.execHalt s
  | .trap a => Sys2Proof.Machine.execTrap a s
  | .eret => Sys2Proof.Machine.execEret s
  | .evret => Sys2Proof.Machine.execEvret s
  | .mfs d n r => Sys2Proof.Machine.execMfs d n r s
  | .mts a r => Sys2Proof.Machine.execMts a r s
  | .fence => Sys2Proof.Machine.execFence s
  | .afence => Sys2Proof.Machine.execAfence s
  | .phaseCore => Sys2Proof.Machine.execPhaseCore s
  | .phaseClus => Sys2Proof.Machine.execPhaseClus s
  | .phaseDie => Sys2Proof.Machine.execPhaseDie s
  | .phasePkg => Sys2Proof.Machine.execPhasePkg s
  | .phaseDom => Sys2Proof.Machine.execPhaseDom s
  | .phaseSys => Sys2Proof.Machine.execPhaseSys s
  | .segend e c => Sys2Proof.Machine.execSegend e c s
  | .waitc d n a b => Sys2Proof.Machine.execWaitc d n a b s
  | .sched a b => Sys2Proof.Machine.execSched a b s
  | .park d n a => Sys2Proof.Machine.execPark d n a s
  | .notify a b => Sys2Proof.Machine.execNotify a b s
  | .rpop d n => Sys2Proof.Machine.execRpop d n s
  | .liw imm word => Sys2Proof.Machine.execLiw imm word s
  | .cinG t g x y z => Sys2Proof.Machine.execCinG t g x y z s
  | .cinL t g x y z => Sys2Proof.Machine.execCinL t g x y z s
  | .cinP t g x y z => Sys2Proof.Machine.execCinP t g x y z s
  | .cinMc t g x y z => Sys2Proof.Machine.execCinMc t g x y z s
  | .coutG t g x y z => Sys2Proof.Machine.execCoutG t g x y z s
  | .coutL t g x y z => Sys2Proof.Machine.execCoutL t g x y z s
  | .coutP t g x y z => Sys2Proof.Machine.execCoutP t g x y z s
  | .coutSel t g x y z => Sys2Proof.Machine.execCoutSel t g x y z s
  | .cpxPp t g x y z => Sys2Proof.Machine.execCpxPp t g x y z s
  | .cpxPl t g x y z => Sys2Proof.Machine.execCpxPl t g x y z s
  | .cpxLp t g x y z => Sys2Proof.Machine.execCpxLp t g x y z s
  | .cpxLl t g x y z => Sys2Proof.Machine.execCpxLl t g x y z s
  | .cgathP t g x y z => Sys2Proof.Machine.execCgathP t g x y z s
  | .cgathL t g x y z => Sys2Proof.Machine.execCgathL t g x y z s
  | .cscatP t g x y z => Sys2Proof.Machine.execCscatP t g x y z s
  | .cscatL t g x y z => Sys2Proof.Machine.execCscatL t g x y z s
  | .pgin t g x y => Sys2Proof.Machine.execPgin t g x y s
  | .pgout t g x y => Sys2Proof.Machine.execPgout t g x y s
  | .wrsig t g x y z => Sys2Proof.Machine.execWrsig t g x y z s
  | .wrsigAdd t g x y z => Sys2Proof.Machine.execWrsigAdd t g x y z s
  | .lkopFill t g x y z => Sys2Proof.Machine.execLkopFill t g x y z s
  | .lkopAdd t g x y z => Sys2Proof.Machine.execLkopAdd t g x y z s
  | .lkopSadd t g x y z => Sys2Proof.Machine.execLkopSadd t g x y z s
  | .lkopMin t g x y z => Sys2Proof.Machine.execLkopMin t g x y z s
  | .lkopMax t g x y z => Sys2Proof.Machine.execLkopMax t g x y z s
  | .lkopAnd t g x y z => Sys2Proof.Machine.execLkopAnd t g x y z s
  | .lkopOr t g x y z => Sys2Proof.Machine.execLkopOr t g x y z s
  | .lkopXor t g x y z => Sys2Proof.Machine.execLkopXor t g x y z s
  | .lkopFadd t g x y z => Sys2Proof.Machine.execLkopFadd t g x y z s
  | .lkopFmax t g x y z => Sys2Proof.Machine.execLkopFmax t g x y z s
  | .lkopFmul t g x y z => Sys2Proof.Machine.execLkopFmul t g x y z s
  | .lkopRsum t g x y z => Sys2Proof.Machine.execLkopRsum t g x y z s
  | .give a => Sys2Proof.Machine.execGive a s
  | .take a => Sys2Proof.Machine.execTake a s
  | .qdepth d n a b => Sys2Proof.Machine.execQdepth d n a b s
  | .qseq d n a b => Sys2Proof.Machine.execQseq d n a b s
  | .vchain t g x y z => Sys2Proof.Machine.execVchain t g x y z s
  | .vredSum t g x y z => Sys2Proof.Machine.execVredSum t g x y z s
  | .vredMax t g x y z => Sys2Proof.Machine.execVredMax t g x y z s
  | .vredMin t g x y z => Sys2Proof.Machine.execVredMin t g x y z s
  | .vredArgmax t g x y z => Sys2Proof.Machine.execVredArgmax t g x y z s
  | .vredArgmin t g x y z => Sys2Proof.Machine.execVredArgmin t g x y z s
  | .vredSumsq t g x y z => Sys2Proof.Machine.execVredSumsq t g x y z s
  | .vscanAdd t g x y z => Sys2Proof.Machine.execVscanAdd t g x y z s
  | .vscanMax t g x y z => Sys2Proof.Machine.execVscanMax t g x y z s
  | .vgath t g x y z => Sys2Proof.Machine.execVgath t g x y z s
  | .vscatSet t g x y z => Sys2Proof.Machine.execVscatSet t g x y z s
  | .vscatAdd t g x y z => Sys2Proof.Machine.execVscatAdd t g x y z s
  | .vscatMax t g x y z => Sys2Proof.Machine.execVscatMax t g x y z s
  | .vscatMul t g x y z => Sys2Proof.Machine.execVscatMul t g x y z s
  | .vdotS8 t g x y z => Sys2Proof.Machine.execVdotS8 t g x y z s
  | .vdotQ4 t g x y z => Sys2Proof.Machine.execVdotQ4 t g x y z s
  | .vdotT5 t g x y z => Sys2Proof.Machine.execVdotT5 t g x y z s
  | .bset t g x y => Sys2Proof.Machine.execBset t g x y s
  | .vperm t g x y z => Sys2Proof.Machine.execVperm t g x y z s
  | .vsearchTopk t g x y z => Sys2Proof.Machine.execVsearchTopk t g x y z s
  | .vsearchThr t g x y z => Sys2Proof.Machine.execVsearchThr t g x y z s
  | .vfind t g x y z => Sys2Proof.Machine.execVfind t g x y z s
  | .vcount t g x y z => Sys2Proof.Machine.execVcount t g x y z s
  | .mlt t g x => Sys2Proof.Machine.execMlt t g x s
  | .mgo t g x => Sys2Proof.Machine.execMgo t g x s
  | .mldwDense t g x z => Sys2Proof.Machine.execMldwDense t g x z s
  | .mldwS24 t g x y z => Sys2Proof.Machine.execMldwS24 t g x y z s
  | .mldwS14 t g x y z => Sys2Proof.Machine.execMldwS14 t g x y z s
  | .mswap t g => Sys2Proof.Machine.execMswap t g s
  | .mmask t g x => Sys2Proof.Machine.execMmask t g x s
  | .mzero t g x => Sys2Proof.Machine.execMzero t g x s
  | .mdrainP t g x y z => Sys2Proof.Machine.execMdrainP t g x y z s
  | .mdrainPort t g x y z => Sys2Proof.Machine.execMdrainPort t g x y z s
  | .mdrainSel t g x y z => Sys2Proof.Machine.execMdrainSel t g x y z s
  | .mstat t g => Sys2Proof.Machine.execMstat t g s
  | .talloc d n a b => Sys2Proof.Machine.execTalloc d n a b s
  | .tallocV d n a b => Sys2Proof.Machine.execTallocV d n a b s
  | .tadd a b => Sys2Proof.Machine.execTadd a b s
  | .tdraw a => Sys2Proof.Machine.execTdraw a s
  | .tabnd a => Sys2Proof.Machine.execTabnd a s
  | .tinfo d n a => Sys2Proof.Machine.execTinfo d n a s
  | .pubv p xs a b => Sys2Proof.Machine.execPubv p xs a b s
  | .pubvF p xs a b => Sys2Proof.Machine.execPubvF p xs a b s
  | .tsub d n a b => Sys2Proof.Machine.execTsub d n a b s
  | .stopref a => Sys2Proof.Machine.execStopref a s
  | .swait a => Sys2Proof.Machine.execSwait a s
  | .tver d n a => Sys2Proof.Machine.execTver d n a s
  | .fork a b => Sys2Proof.Machine.execFork a b s
  | .join => Sys2Proof.Machine.execJoin s
  | .enq a b => Sys2Proof.Machine.execEnq a b s
  | .card d n => Sys2Proof.Machine.execCard d n s
  | .mbpost a b => Sys2Proof.Machine.execMbpost a b s
  | .mbtake d n a => Sys2Proof.Machine.execMbtake d n a s
  | .coll d n a b => Sys2Proof.Machine.execColl d n a b s
  | .csend cl ln f => Sys2Proof.Machine.execCsend cl ln f s
  | .crecv cl ln f => Sys2Proof.Machine.execCrecv cl ln f s
  | .crrs cl ln f => Sys2Proof.Machine.execCrrs cl ln f s
  | .ccopy cl ln f => Sys2Proof.Machine.execCcopy cl ln f s
  | .cwait cl ln w => Sys2Proof.Machine.execCwait cl ln w s
  | .cloop cl ln k rel v len => Sys2Proof.Machine.execCloop cl ln k rel v len s
  | .cbar cl ln => Sys2Proof.Machine.execCbar cl ln s
  | .cend cl ln => Sys2Proof.Machine.execCend cl ln s
  | .hostRegisterWrite fn off v => Sys2Proof.Machine.execHostRegisterWrite fn off v s
  | .graphParameterWrite slot k v => Sys2Proof.Machine.execGraphParameterWrite slot k v s
  | .gstart slot bank => Sys2Proof.Machine.execGstart slot bank s
  | .graphSlotConfigWrite slot reg v => Sys2Proof.Machine.execGraphSlotConfigWrite slot reg v s
  | .launch ctx card => Sys2Proof.Machine.execLaunch ctx card s
  | .installPoolDescriptors ctx => Sys2Proof.Machine.execInstallPoolDescriptors ctx s
  | .shootdown ctx => Sys2Proof.Machine.execShootdown ctx s
  | .shootdownDone ctx => Sys2Proof.Machine.execShootdownDone ctx s
  | .jend ctx jobid => Sys2Proof.Machine.execJend ctx jobid s
  | .crst ctx => Sys2Proof.Machine.execCrst ctx s
  | .vfFlr vf => Sys2Proof.Machine.execVfFlr vf s
  | .replay v => Sys2Proof.Machine.execReplay v s
  | .trun m => Sys2Proof.Machine.execTrun m s
  | .thold m => Sys2Proof.Machine.execThold m s
  | .wallWrite w half v => Sys2Proof.Machine.execWallWrite w half v s
  | .plimWrite v => Sys2Proof.Machine.execPlimWrite v s
  | .routeEntryWrite idx v => Sys2Proof.Machine.execRouteEntryWrite idx v s
  | .monitorClear m => Sys2Proof.Machine.execMonitorClear m s
  | .monitorSatClear m => Sys2Proof.Machine.execMonitorSatClear m s
  | .elstatDropClear v => Sys2Proof.Machine.execElstatDropClear v s
  | .cfenceClear cl m => Sys2Proof.Machine.execCfenceClear cl m s
  | .monitorSample m v => Sys2Proof.Machine.execMonitorSample m v s
  | .notifyMirrorWrite fn n v => Sys2Proof.Machine.execNotifyMirrorWrite fn n v s
  | .toolNotifyStore hart n v => Sys2Proof.Machine.execToolNotifyStore hart n v s
  | .toolSandboxAccess hart kind addr size v => Sys2Proof.Machine.execToolSandboxAccess hart kind addr size v s
  | .doorbellClear hart v => Sys2Proof.Machine.execDoorbellClear hart v s
  | .attestationRequest => Sys2Proof.Machine.execAttestationRequest s
  | .securityImageVerify img ver key hdr body sig => Sys2Proof.Machine.execSecurityImageVerify img ver key hdr body sig s
  | .deviceReset => Sys2Proof.Machine.execDeviceReset s
  | .pcieHotReset => Sys2Proof.Machine.execPcieHotReset s
  | .hostLinkError kind => Sys2Proof.Machine.execHostLinkError kind s
  | .hostBar2Access fn wr off size v => Sys2Proof.Machine.execHostBar2Access fn wr off size v s
  | .powerStateEntry part st => Sys2Proof.Machine.execPowerStateEntry part st s
  | .powerWake part => Sys2Proof.Machine.execPowerWake part s
  | .thermalHoldEntry die => Sys2Proof.Machine.execThermalHoldEntry die s
  | .thermalHoldExit die head => Sys2Proof.Machine.execThermalHoldExit die head s
  | .thermalTrip die => Sys2Proof.Machine.execThermalTrip die s
  | .supplyFault => Sys2Proof.Machine.execSupplyFault s
  | .plimOverrun => Sys2Proof.Machine.execPlimOverrun s
  | .correctableError die => Sys2Proof.Machine.execCorrectableError die s
  | .patrolPoison loc syn => Sys2Proof.Machine.execPatrolPoison loc syn s
  | .deviceFatalError code unit syn => Sys2Proof.Machine.execDeviceFatalError code unit syn s
  | .securityProcessorFault => Sys2Proof.Machine.execSecurityProcessorFault s
  | .toolCacheError hart addr => Sys2Proof.Machine.execToolCacheError hart addr s
  | .tileTableError unit syn => Sys2Proof.Machine.execTileTableError unit syn s
  | .cxlPortDown port => Sys2Proof.Machine.execCxlPortDown port s
  | .cxlPortRetrained port => Sys2Proof.Machine.execCxlPortRetrained port s
  | .flitReceive span seq bad => Sys2Proof.Machine.execFlitReceive span seq bad s
  | .flitAck span seq => Sys2Proof.Machine.execFlitAck span seq s
  | .flitAckTimeout span => Sys2Proof.Machine.execFlitAckTimeout span s
  | .spanUp span full => Sys2Proof.Machine.execSpanUp span full s
  | .remoteAccessHome ctx kind va size v c => Sys2Proof.Machine.execRemoteAccessHome ctx kind va size v c s
  | .remoteResponse id code v => Sys2Proof.Machine.execRemoteResponse id code v s
  | .remoteAccessTimeout id => Sys2Proof.Machine.execRemoteAccessTimeout id s
  | .pierReport code arg => Sys2Proof.Machine.execPierReport code arg s
  | .collReadyArrive cl ln peer => Sys2Proof.Machine.execCollReadyArrive cl ln peer s
  | .collDataArrive cl ln peer fmt data => Sys2Proof.Machine.execCollDataArrive cl ln peer fmt data s
  | .collTransferFinish cl ln step ack => Sys2Proof.Machine.execCollTransferFinish cl ln step ack s
  | .cbarMessage cl ln peer => Sys2Proof.Machine.execCbarMessage cl ln peer s
  | .collAbortMessage cl tag => Sys2Proof.Machine.execCollAbortMessage cl tag s
  | .collTimeout cl ln kind => Sys2Proof.Machine.execCollTimeout cl ln kind s
  | .jobIssue job => Sys2Proof.Machine.execJobIssue job s
  | .class0Preempt job => Sys2Proof.Machine.execClass0Preempt job s
  | .preemptPointLate core job => Sys2Proof.Machine.execPreemptPointLate core job s
  | .contextSave core job => Sys2Proof.Machine.execContextSave core job s
  | .saveComplete core job => Sys2Proof.Machine.execSaveComplete core job s
  | .contextRestore job => Sys2Proof.Machine.execContextRestore job s
  | .streamNodeStart => Sys2Proof.Machine.execStreamNodeStart s
  | .streamNodeComplete xi => Sys2Proof.Machine.execStreamNodeComplete xi s
  | .jobEnd job => Sys2Proof.Machine.execJobEnd job s
  | .cardServe => Sys2Proof.Machine.execCardServe s
  | .periodStart core => Sys2Proof.Machine.execPeriodStart core s
  | .strandChoice core => Sys2Proof.Machine.execStrandChoice core s
  | .eventDelivery core sx => Sys2Proof.Machine.execEventDelivery core sx s
  | .waitExpiry core who => Sys2Proof.Machine.execWaitExpiry core who s
  | .asyncPoolCause core sx => Sys2Proof.Machine.execAsyncPoolCause core sx s
  | .taskStart core sx => Sys2Proof.Machine.execTaskStart core sx s
  | .stealRequest core sx => Sys2Proof.Machine.execStealRequest core sx s
  | .stealResult core sx => Sys2Proof.Machine.execStealResult core sx s
  | .stealRetry core sx => Sys2Proof.Machine.execStealRetry core sx s
  | .poolUnitCycle unit => Sys2Proof.Machine.execPoolUnitCycle unit s
  | .subscriberFireTimeout head sub => Sys2Proof.Machine.execSubscriberFireTimeout head sub s
  | .settleExamine job set => Sys2Proof.Machine.execSettleExamine job set s
  | .engineEntryBegin core q => Sys2Proof.Machine.execEngineEntryBegin core q s
  | .copySector core side => Sys2Proof.Machine.execCopySector core side s
  | .vectorRow core => Sys2Proof.Machine.execVectorRow core s
  | .reductionRetire core => Sys2Proof.Machine.execReductionRetire core s
  | .engineEntryComplete core q => Sys2Proof.Machine.execEngineEntryComplete core q s
  | .pageWalkComplete die => Sys2Proof.Machine.execPageWalkComplete die s
  | .pageCopyComplete core xi bad => Sys2Proof.Machine.execPageCopyComplete core xi bad s
  | .scoreboardReturn core sx => Sys2Proof.Machine.execScoreboardReturn core sx s
  | .virtualFunctionEnable vf on => Sys2Proof.Machine.execVirtualFunctionEnable vf on s
  | .toolTimerInterrupt hart => Sys2Proof.Machine.execToolTimerInterrupt hart s

end Sys2Proof.Machine
end

