-- ==== Sys2Proof/Machine/Inputs.lean ====
section
/-! DEFINITION. Reads of BAR0 (R339 to R342, R352, R359, R362, R436, R440, R446, R453) and what else comes from outside: accesses
of the tool harts and changes of their registers (R350, R351), errors in queues, TLBs and tables (R398, R421, R449), writes of
frames that fail (R444), the dies' thermal headroom and temperature (R303, R359), where an abort message comes from (R398). -/

namespace Sys2Proof.Machine

/-! ## Reads of BAR0 (R340) -/

/-- PSTATE (R341): three bits for each die, then the package's. -/
def pstateWord (s : State) : Nat :=
  (List.range 6).foldl (fun v d => v + place (dieAt s d).pstate (3 * d) 3) 0 + place s.dev.pkg 18 3

/-- The fenced cores of a cluster (R436). -/
def fenceWord (s : State) (cl : Nat) : Nat :=
  (List.range 48).foldl (fun v k => v + b2n (coreAt s (48 * cl + k)).fenced * 2 ^ k) 0

/-- Eight bytes of the device block (R341, R436). -/
def deviceRead (s : State) (off : Nat) : Nat :=
  let d := s.dev
  match off with
  | 0x000 => place d.stage 0 3
  | 0x008 => place d.plim 0 12
  | 0x010 => place d.ltol 0 32
  | 0x018 => pstateWord s
  | 0x020 => place d.rank 0 24
  | 0x080 => place (b2n d.tzLock) 63 1 + place d.tzBase 30 14 + place d.tzSize 0 7
  | 0x100 => place d.elbase 0 44
  | 0x108 => place d.elsize 32 16 + place d.elhead 16 16 + place d.eltail 0 16
  | 0x110 => place d.eldrop 32 32 + place d.elien 0 1
  | 0x118 => place d.capbase 0 44
  | 0x120 => place d.capnent 48 16 + place d.caphead 32 16 + b2n d.capen
  | 0x128 => place d.capctx 32 16 + place d.capjob 0 32
  | 0x170 => place d.ecthr 0 32
  | _ =>
    let die (base : Nat) : Die := dieAt s ((off - base) / 8)
    if 0x040 ≤ off ∧ off < 0x070 then place (die 0x040).slk 32 32 + place (die 0x040).hthr 16 16 + place (die 0x040).ecap 8 3
    else if 0x140 ≤ off ∧ off < 0x170 then place (die 0x140).ecnt 0 48
    else if 0x180 ≤ off ∧ off < 0x180 + 8 * 36 then fenceWord s ((off - 0x180) / 8)
    else 0

/-- Eight bytes of a context block (R342, R446); what is write-only reads zero. -/
def contextRead (s : State) (c off : Nat) : Nat :=
  let x := ctxAt s c
  match off with
  | 0x000 => place x.lkey 0 64
  | 0x008 => place x.ptroot 0 44
  | 0x010 => place x.tvecd 0 52
  | 0x018 => place x.evecd 0 52
  | 0x020 => place x.wlimd 0 32
  | 0x028 => place x.savebase 0 44
  | 0x030 => place x.pgring 0 52
  | 0x038 => place x.pgsize 32 16 + place x.pghead 16 16 + place x.pgtail 0 16
  | 0x040 => place x.chbase 0 29
  | 0x048 => place x.ppart 0 16
  | 0x050 => place x.pdtab 0 52
  | 0x058 => place x.shootPsz 62 2 + place x.shootVa 0 52
  | 0x068 => b2n x.busy
  | 0x070 => place x.vwin 0 52
  | 0x078 => place x.nwrFirst 16 12 + place x.nwrCount 0 13
  | 0x088 => place x.ended 32 32 + place x.launched 0 32
  | 0x0A0 => place x.capreg 0 52
  | _ => 0

/-- May a function read a register of context block c? While the context's VF is enabled the PF reads its status, CSTAT and LSTAT,
and NWR alone (R339, log 79). -/
def mayReadCtx (s : State) (pf : Bool) (c off : Nat) : Bool :=
  !pf || !(ctxAt s c).enabled || off == 0x068 || off == 0x088 || off == 0x078

/-- Eight bytes of the tool-cluster block (R353); the size of a wall that is off reads 0 (R352). -/
def toolBlockRead (s : State) (off : Nat) : Nat :=
  if off < 0x400 then
    let v := wallAt s (off / 16)
    let v := if wallOn s v then v else v - place (bits v 65 16) 65 16
    bits v (64 * (off / 8 % 2)) 64
  else if off = 0x1008 then (hartAt s 0).entry % 2 ^ 64
  else 0

/-- Eight bytes of a monitor (R359). -/
def monitorRead (s : State) (m off : Nat) : Nat :=
  let k := monitorAt s m
  match off with
  | 0x000 => place k.sel 0 32
  | 0x008 => place k.ctl 0 64
  | 0x010 => place k.min 0 32
  | 0x018 => place k.max 0 32
  | 0x020 => place k.cnt 0 48
  | 0x028 => place k.sum 0 48
  | 0x030 => b2n k.sat
  | _ => if 0x100 ≤ off then place (nth k.bins ((off - 0x100) / 8)) 0 48 else 0

/-- A byte of the security mailbox; from byte 1,024 on stands the certificate chain of the device key (R362). -/
def mailboxByte (s : State) (i : Nat) : Nat :=
  match (if 1024 ≤ i ∧ 2 ≤ s.dev.stage then Config.certChain[i - 1024]? else none) with
  | some b => b.toNat
  | none => tabGet 0 s.sec.mailbox i

/-- Eight bytes of the security mailbox. -/
def mailboxRead (s : State) (off : Nat) : Nat := leNat ((List.range 8).map (fun i => .ofNat 8 (mailboxByte s (off + i))))

/-- Eight bytes of a graph slot's block (R294, R440); a parameter reads as the open bank holds it (log 79). -/
def slotRead (s : State) (n off : Nat) : Nat :=
  let k := slotAt s n
  match off with
  | 0x000 => k.gbase
  | 0x008 => k.gpatch
  | 0x010 => k.gctl
  | 0x020 => place k.done 32 32 + place k.replays.length 2 2 + place k.opened 0 1
  | 0x028 => k.gerr
  | _ => if 0x800 ≤ off then tabGet 0 k.params (256 * k.opened + (off - 0x800) / 8) else 0

/-- Eight bytes of BAR0 as the PF (fn 0) or VF fn reads them (R340): what the table excludes reads zero. -/
def bar0Read (s : State) (fn off : Nat) : Nat :=
  let pf := fn == 0
  let c := (off - 0x10000) / 0x1000
  let n := (off - 0x100000) / 0x1000
  let w := (off - 0x200000) / 8
  let r := (off - 0x400000) / 8
  if off < 0x10000 then (if pf then deviceRead s off else 0)
  else if off < 0x20000 then (if (pf || c + 1 == fn) && mayReadCtx s pf c (off % 0x1000) then contextRead s c (off % 0x1000) else 0)
  else if off < 0x30000 then (if pf then toolBlockRead s (off - 0x20000) else 0)
  else if off < 0x38000 then (if pf then monitorRead s ((off - 0x30000) / 0x200) (off % 0x200) else 0)
  else if off < 0x39000 then (if pf then mailboxRead s (off - 0x38000) else 0)
  else if off < 0x100000 then 0
  else if off < 0x110000 then (if pf || (slotAt s n).ctx + 1 == fn then slotRead s n (off % 0x1000) else 0)
  else if off < 0x200000 then 0
  else if off < 0x208000 then (if mayNotify s fn w then (nwAt s w).val else 0)
  else if 0x400000 ≤ off ∧ off < 0x800000 then (if pf then tabGet 0 s.routes r else 0)
  else if 0x2000000 ≤ off then (if pf ∧ s.dev.stage < 3 then tabGet 0 s.sec.boot ((off - 0x2000000) / 8) else 0)
  else 0

/-! ## Inputs -/

/-- An uncorrectable error in a queue or FIFO, or in a TLB or walker, of a core (R398, R449): a cause of the strand it names, else
a record. -/
def unitError (s : State) (code core : Nat) (x : Option Nat) (unit syn : Nat) : State :=
  let c : Cause := ⟨code, unit, syn, 0⟩
  if code ≠ 0xC4 ∧ code ≠ 0xC5 then s
  else match x with
    | some x =>
      if (strandAt s ⟨core, x⟩).task.isSome then signalTrap s ⟨core, x⟩ { ccTrap s ⟨core, x⟩ c with cls := 0 }
      else logPlain (fenceFor s core c) code 0 unit syn
    | none => logPlain (fenceFor s core c) code 0 unit syn

/-- A TLB entry of a core, or of the second level of its die, shows a parity error: it goes, and the next access to its page walks
the tables again (R421). -/
def refetch (s : State) (core i : Nat) (second : Bool) : State :=
  if second then onDie s (core / 288) (fun d => { d with tlb := d.tlb.eraseIdx i })
  else onCore s core (fun k => { k with tlb := k.tlb.eraseIdx i })

/-- The sensors give a die's headroom (R303): at 0 a thermal hold begins, from 16 on it ends (R463). -/
def headroom (s : State) (d v : Nat) : State :=
  let v := v % 2 ^ 16
  if 6 ≤ d then s
  else if (dieAt s d).hold then (if 16 ≤ v then leaveHold s d v else onDie s d (fun k => { k with thead := v }))
  else if v = 0 then enterHold s d
  else onDie s d (fun k => { k with thead := v })

/-- May the PF (fn 0) or VF fn access its BARs? -/
def functionOn (s : State) (fn : Nat) : Bool := fn == 0 || (decide (fn ≤ 16) && (ctxAt s (fn - 1)).enabled)

/-- One input acts. A hart's access is held while PLIM keeps the package in L4 (R358). -/
def takeInput (s : State) : Input → Option State
  | .hostRead fn off =>
    some (if functionOn s fn && off % 8 == 0 then { s with hostData := some (BitVec.ofNat 64 (bar0Read s fn off)), hostEnd := .done } else s)
  | .toolAccess h kind addr size v fn => some (toolAccess s (h % 32) kind addr size v fn)
  | .unitError code core x unit syn => some (unitError s code core x unit syn)
  | .headroom d v => some (headroom s d v)
  | .abortFrom r => some { s with abortFrom := r % 2 ^ 24 }
  | .frameFault core => some (onCore s core (fun k => { k with frameBad := true }))
  | .parity core i second => some (refetch s core i second)
  | .temperature d v => some (if d < 6 then onDie s d (fun k => { k with temp := v % 2 ^ 32 }) else s)
  | .hartWrite h what n v => some (onHart s (h % 32) (hartWrite what n v))

end Sys2Proof.Machine
end

