-- ==== Sys2Proof/Machine/Agenda.lean ====
section
/-! DEFINITION. What happens between two instructions (log 4, log 5): the steps that units, the front and the sequencers can
take, in a fixed order; the fetch of an instruction; a cycle of the clock; the slots of the cores. -/

namespace Sys2Proof.Machine

/-- Is it a step of the part, not a word that a CC or a sequencer fetches? -/
def isEvent : Instr → Bool
  | .hostRegisterWrite _ _ _ => true
  | .graphParameterWrite _ _ _ => true
  | .gstart _ _ => true
  | .graphSlotConfigWrite _ _ _ => true
  | .launch _ _ => true
  | .installPoolDescriptors _ => true
  | .shootdown _ => true
  | .shootdownDone _ => true
  | .jend _ _ => true
  | .crst _ => true
  | .vfFlr _ => true
  | .replay _ => true
  | .trun _ => true
  | .thold _ => true
  | .wallWrite _ _ _ => true
  | .plimWrite _ => true
  | .routeEntryWrite _ _ => true
  | .monitorClear _ => true
  | .monitorSatClear _ => true
  | .elstatDropClear _ => true
  | .cfenceClear _ _ => true
  | .monitorSample _ _ => true
  | .notifyMirrorWrite _ _ _ => true
  | .toolNotifyStore _ _ _ => true
  | .toolSandboxAccess _ _ _ _ _ => true
  | .doorbellClear _ _ => true
  | .attestationRequest => true
  | .securityImageVerify _ _ _ _ _ _ => true
  | .deviceReset => true
  | .pcieHotReset => true
  | .hostLinkError _ => true
  | .hostBar2Access _ _ _ _ _ => true
  | .powerStateEntry _ _ => true
  | .powerWake _ => true
  | .thermalHoldEntry _ => true
  | .thermalHoldExit _ _ => true
  | .thermalTrip _ => true
  | .supplyFault => true
  | .plimOverrun => true
  | .correctableError _ => true
  | .patrolPoison _ _ => true
  | .deviceFatalError _ _ _ => true
  | .securityProcessorFault => true
  | .toolCacheError _ _ => true
  | .tileTableError _ _ => true
  | .cxlPortDown _ => true
  | .cxlPortRetrained _ => true
  | .flitReceive _ _ _ => true
  | .flitAck _ _ => true
  | .flitAckTimeout _ => true
  | .spanUp _ _ => true
  | .remoteAccessHome _ _ _ _ _ _ => true
  | .remoteResponse _ _ _ => true
  | .remoteAccessTimeout _ => true
  | .pierReport _ _ => true
  | .collReadyArrive _ _ _ => true
  | .collDataArrive _ _ _ _ _ => true
  | .collTransferFinish _ _ _ _ => true
  | .cbarMessage _ _ _ => true
  | .collAbortMessage _ _ => true
  | .collTimeout _ _ _ => true
  | .jobIssue _ => true
  | .class0Preempt _ => true
  | .preemptPointLate _ _ => true
  | .contextSave _ _ => true
  | .saveComplete _ _ => true
  | .contextRestore _ => true
  | .streamNodeStart => true
  | .streamNodeComplete _ => true
  | .jobEnd _ => true
  | .cardServe => true
  | .periodStart _ => true
  | .strandChoice _ => true
  | .eventDelivery _ _ => true
  | .waitExpiry _ _ => true
  | .asyncPoolCause _ _ => true
  | .taskStart _ _ => true
  | .stealRequest _ _ => true
  | .stealResult _ _ => true
  | .stealRetry _ _ => true
  | .poolUnitCycle _ => true
  | .subscriberFireTimeout _ _ => true
  | .settleExamine _ _ => true
  | .engineEntryBegin _ _ => true
  | .copySector _ _ => true
  | .vectorRow _ => true
  | .reductionRetire _ => true
  | .engineEntryComplete _ _ => true
  | .pageWalkComplete _ => true
  | .pageCopyComplete _ _ _ => true
  | .scoreboardReturn _ _ => true
  | .virtualFunctionEnable _ _ => true
  | .toolTimerInterrupt _ => true
  | _ => false

/-! ## The host's writes (R345) -/

/-- Is the step a write by the host? -/
def hostWrites : Instr → Bool
  | .hostRegisterWrite _ _ _ => true
  | .graphParameterWrite _ _ _ => true
  | .gstart _ _ => true
  | .graphSlotConfigWrite _ _ _ => true
  | .launch _ _ => true
  | .installPoolDescriptors _ => true
  | .shootdown _ => true
  | .jend _ _ => true
  | .crst _ => true
  | .replay _ => true
  | .trun _ => true
  | .thold _ => true
  | .wallWrite _ _ _ => true
  | .plimWrite _ => true
  | .routeEntryWrite _ _ => true
  | .monitorClear _ => true
  | .monitorSatClear _ => true
  | .elstatDropClear _ => true
  | .cfenceClear _ _ => true
  | .notifyMirrorWrite _ _ _ => true
  | .attestationRequest => true
  | .hostBar2Access _ wr _ _ _ => wr != 0
  | _ => false

/-- Does a write of the host to another device still wait for its acknowledgment? -/
def hostWriteOut (s : State) : Bool := s.remotes.any (fun r => r.core == 1728 && r.kind == 1)

/-- Is the step an access to HBM that the package's wake holds (R358)? -/
def wakes : Instr → Bool
  | .hostBar2Access _ _ _ _ _ => true
  | .remoteAccessHome _ _ _ _ _ _ => true
  | _ => false

/-- Is the step a write of PLIM? DEDUCED: while PLIM 0 keeps the package in L4 no host write that waits there holds it up, for
it is the wake that the others wait for (R345, R358, R464, log 100). -/
def writesPlim : Instr → Bool
  | .plimWrite _ => true
  | .hostRegisterWrite fn off _ => fn == 0 && off == 0x008
  | _ => false

/-- May a step that comes behind those listed be performed: if it is a host write, is none before it unperformed (R345)? -/
def inTurn (s : State) (before : List Instr) (i : Instr) : Bool :=
  !hostWrites i || (writesPlim i && (wakeForAccess s).isNone) || (!before.any hostWrites && !hostWriteOut s)

/-- May a step that comes behind those listed be performed now (R345, R358)? -/
def mayServe (s : State) (before : List Instr) (i : Instr) : Bool := !(wakes i && (wakeForAccess s).isNone) && inTurn s before i

/-- Must a step wait, for the host's writes before it or for the package's wake (R345, R358)? -/
def hostHeld (s : State) (i : Instr) : Bool := !mayServe s s.hostQueue i

/-- The first access that may be performed of those that have waited, with those before it and after it. -/
def firstServed (s : State) : List Instr → List Instr → Option (List Instr × Instr × List Instr)
  | _, [] => none
  | before, i :: t => if mayServe s before i then some (before, i, t) else firstServed s (before ++ [i]) t

/-- The first of the accesses from outside that have waited is performed, once it may be; one that its rule refuses is gone. -/
def dueHost (s : State) : Option State :=
  (firstServed s [] s.hostQueue).map (fun p =>
    let t := { s with hostQueue := p.1 ++ p.2.2 }
    match exec p.2.1 t with | .next u => u | _ => t)

/-- A packet that has waited enters its replay store, once that has room (R316). -/
def dueOut (s : State) : Option State :=
  (s.outbox.find? (fun p => storeRoom s p.route 1)).map
    (fun p => { sendOn s p.cl p.route p.len with outbox := s.outbox.erase p })

/-- A hart's oldest access that the package's wake has held is performed (R358). -/
def dueHart (s : State) : Option State :=
  if (wakeForAccess s).isNone then none
  else s.harts.findSome? (fun h => match h.2.held with
    | [] => none
    | x :: t => some (reachWindow (onHart s h.1 (fun k => { k with held := t })) h.1 x))

/-! ## What is due for a strand (R112, R193, R305, R379) -/

/-- The strands that the state lists. -/
def listedStrands (s : State) : List At := s.cores.flatMap (fun k => k.2.strands.map (fun t => ⟨k.1, t.1⟩))

/-- A pending trap whose strand has its turn and whose entries have stopped (R379, R381). -/
def dueTrap (s : State) (a : At) : Option State :=
  match (strandAt s a).pendTrap with
  | some pt => if mayTrap s a pt && trapReady s a pt then some (takeTrap s a pt) else none
  | none => none

/-- A parked strand whose word is pending wakes (R193). -/
def dueWake (s : State) (a : At) : Option State :=
  match (strandAt s a).status, (strandAt s a).parkedOn with
  | .parked, some n => wakeWord s n
  | _, _ => none

/-- A run that is to stop stands at its point (R112). -/
def dueStop (s : State) (a : At) : Option State :=
  let t := strandAt s a
  if t.stopping && !t.atStop && t.pendTrap.isNone && (t.status == .ready || t.status == .waiting || t.status == .parked)
  then some (reachStop s a) else none

/-- A run at its point ends once its engines have reached theirs and its remote accesses are answered (R112, R122). -/
def dueEnd (s : State) (a : At) : Option State :=
  if (strandAt s a).atStop && (strandEntries s a).all (fun e => e.ended || !atWork s a.c e) && remotesDone s a
  then some (stopRun s a) else none

/-- What is due for a strand: its entries leave their queues, it wakes, traps or stops. -/
def dueFor (s : State) (a : At) : Option State :=
  (setAside s a).orElse fun _ => (dueWake s a).orElse fun _ => (dueTrap s a).orElse fun _ => dueStop s a

/-- The first of these on any strand. -/
def dueStrand (s : State) : Option State := (listedStrands s).findSome? (dueFor s)

/-! ## Steps of units -/

/-- Has a pool unit something to do beside the operations that reach it (R97, R110)? -/
def unitHasWork (s : State) (u : Nat × PoolUnit) : Bool :=
  !u.2.inbox.isEmpty || mayOffer s u.1 ||
    u.2.heads.any (fun h => h.2.subs.any (fun b => b.state == 1 && !b.queued && decide (generalUsed (coreAt s b.core) < 56)))

/-- Steps of page walks. -/
noncomputable def walkSteps (s : State) : List Instr :=
  (s.dies.filter (fun d => !d.2.walks.isEmpty)).map (fun d => .pageWalkComplete (BitVec.ofNat 3 d.1))

/-- Steps of a core's engines, in the order of the queues (R388), of its page path, and results that return (R144, R198, R208). -/
noncomputable def engineSteps (c : Nat) (k : Core) : List Instr :=
  (if k.queues.all (fun q => q.2.isEmpty) then [] else
    [.engineEntryBegin c 0, .engineEntryBegin c 1, .engineEntryBegin c 2, .engineEntryBegin c 3,
     .copySector c 0, .vectorRow c, .reductionRetire c, .copySector c 1])
    ++ (k.pages.zipIdx.filter (fun p => p.1.running)).map (fun p => .pageCopyComplete c p.2 0)
    ++ (k.strands.filter (fun t => !t.2.sb.isEmpty)).map (fun t => .scoreboardReturn c t.1)

/-- Steps of a core's timetable and strands (R22, R302, R313, R424, R428). -/
noncomputable def strandSteps (s : State) (c : Nat) (k : Core) : List Instr :=
  (if k.periodDue then [.periodStart c] else [])
    ++ (List.range 8).map (.waitExpiry c)
    ++ (tabKeys k.strands).flatMap (fun x => [.asyncPoolCause c x, .eventDelivery c x])
    ++ (k.strands.filter (fun t => t.2.wait.any (fun w => match w.kind with | .swait _ => true | _ => false))).filterMap
        (fun t => match t.2.wait with
          | some ⟨.swait i, _, _, _⟩ => if settledSet s (jobOf s ⟨c, t.1⟩) i then some (.settleExamine (jobOf s ⟨c, t.1⟩) i) else none
          | _ => none)
    ++ (tabKeys k.strands).map (.taskStart c)

/-- Subscribers that have waited for a slot (R431). -/
noncomputable def subscriberSteps (s : State) : List Instr :=
  s.units.flatMap (fun u => u.2.heads.flatMap (fun h =>
    (h.2.subs.zipIdx.filter (fun b => b.1.state == 1 && !b.1.queued && decide (b.1.bLim ≤ b.1.waited))).map
      (fun b => .subscriberFireTimeout (BitVec.ofNat 64 h.1) b.2)))

/-- Steps of the front for one job (R300, R305 to R310, R445). -/
noncomputable def jobSteps (j : Nat) (b : Job) : List Instr :=
  if b.phase = 4 then []
  else [.contextRestore j, .jobIssue j, .class0Preempt j]
    ++ (if b.phase = 2 ∨ !b.saving.isEmpty then
          (placedCores b).flatMap (fun c => [.saveComplete c j, .contextSave c j, .preemptPointLate c j])
        else [])

/-- The ends of jobs and of stream nodes, which come before what else the front does in the cycle (R300, R466). -/
noncomputable def endSteps (s : State) : List Instr :=
  s.jobs.map (fun b => .jobEnd b.1)
    ++ (s.streams.zipIdx.filter (fun x => x.1.active)).map (fun x => .streamNodeComplete x.2)

/-- Steps of the front and of the host interface (R29, R299, R344). -/
noncomputable def frontSteps (s : State) : List Instr :=
  (if s.cards.isEmpty then [] else [.cardServe])
    ++ endSteps s
    ++ s.jobs.flatMap (fun b => jobSteps b.1 b.2)
    ++ (if s.streams.isEmpty then [] else [.streamNodeStart])
    ++ (s.ctxs.filter (fun x => x.2.busy)).map (fun x => .shootdownDone (BitVec.ofNat 4 x.1))
    ++ (s.remotes.filter (remoteDead s)).map (fun r => .remoteAccessTimeout r.id)
    ++ (s.spans.filter (fun p => p.2.up && flitLate s.cycle p.2)).map (fun p => .flitAckTimeout (.ofNat 5 p.1))
    ++ (s.samples.take 1).map (fun x => .monitorSample (.ofNat 6 x.1) (.ofNat 32 x.2))
    ++ (s.harts.filter (fun h => h.2.run && !h.2.timer && decide (h.2.mtimecmp ≤ s.mtime))).map (fun h => .toolTimerInterrupt (.ofNat 5 h.1))
    ++ (tabKeys s.dies ++ [6]).flatMap (fun p =>
        if powerTarget s p = 0 then [] else [.powerStateEntry (.ofNat 3 p) (.ofNat 3 (powerTarget s p))])

/-- The steps, in order, that may be enabled while a cycle opens. -/
noncomputable def candidates (s : State) : List Instr :=
  walkSteps s
    ++ (s.cores.filter (fun k => clocksRun s k.1)).flatMap (fun k => engineSteps k.1 k.2)
    ++ s.cores.flatMap (fun k => strandSteps s k.1 k.2)
    ++ subscriberSteps s
    ++ frontSteps s

/-- The steps, in order, that may be enabled while a cycle closes, after the pool units: of the thieves, whom a deque serves after
its own core (R27, R101), then the choices of strands, which issue in the next cycle (R304). -/
noncomputable def closers (s : State) : List Instr :=
  s.cores.flatMap (fun k => (tabKeys k.2.strands).flatMap (fun x => [.stealResult k.1 x, .stealRetry k.1 x, .stealRequest k.1 x]))
    ++ (s.cores.filter (fun k => k.2.turn.isNone)).map (fun k => .strandChoice k.1)

/-- The state after the first instruction of a list whose step its unit takes. -/
def firstNext (s : State) : List Instr → Option State
  | [] => none
  | i :: t => match exec i { s with missed := false } with
    | .next s' => if s'.missed then firstNext s t else some s'
    | _ => firstNext s t

/-! ## Sequencers (R323, R457) -/

/-- The next step of a launch: its word is fetched once no CBAR holds it back, and a bad word aborts the launch. -/
noncomputable def launchStep (s : State) (cl : Nat) (l : Launch) : Option State :=
  if !pastBars l then none
  else match seqRead s l (l.prog + 8 * l.pc) 8 with
    | none => some (abortLaunch s cl l ⟨0xB6, l.num, l.pc, 0⟩)
    | some v => match decodeStep cl (BitVec.ofNat 32 l.num) (BitVec.ofNat 64 v) with
      | .error .reservedOp => some (abortLaunch s cl l ⟨0xA8, l.num, l.pc, 0⟩)
      | .error .reservedField => some (abortLaunch s cl l ⟨0xA9, l.num, l.pc, 0⟩)
      | .ok i => firstNext s [i]

/-- What a launch does next: data to members on this device, their CBAR messages, time-outs, its next step. -/
noncomputable def launchMoves (s : State) (cl : Nat) (l : Launch) : Option State :=
  (l.runs.findSome? (localSend s cl l)).orElse fun _ =>
  (l.runs.findSome? (pushSend s cl l)).orElse fun _ =>
  (firstNext s ((barsDue s l).map (.cbarMessage cl (BitVec.ofNat 32 l.num)))).orElse fun _ =>
  (firstNext s ([0, 1, 2].map (.collTimeout cl (BitVec.ofNat 32 l.num)))).orElse fun _ =>
  launchStep s cl l

/-- The first step that a sequencer can take; none where the package's state stops them (R357). -/
noncomputable def sequencerStep (s : State) : Option State :=
  if packageRuns s then s.clusters.findSome? (fun k => k.2.launches.findSome? (launchMoves s k.1)) else none

/-- Does the step write GSTART (R294, R340)? -/
def startsReplay : Instr → Bool
  | .gstart _ _ => true
  | .hostRegisterWrite _ off _ => decide (0x100000 ≤ off.toNat) && decide (off.toNat < 0x110000) && off.toNat % 0x1000 == 0x018
  | _ => false

/-- What comes before an event that arrives in the same cycle (R466): the end of a job or stream, and with it of a replay, before
a GSTART; a CEND that may issue before an abort message. -/
noncomputable def endsFirst (s : State) (i : Instr) : Option State :=
  if startsReplay i then firstNext s (endSteps s)
  else match i with
  | .collAbortMessage cl tag =>
    match (clusterAt s cl).launches.find? (fun l => l.tag == tag.toNat) with
    | none => none
    | some l => match seqRead s l (l.prog + 8 * l.pc) 8 with
      | none => none
      | some v => match decodeStep cl (BitVec.ofNat 32 l.num) (BitVec.ofNat 64 v) with
        | .ok (.cend c n) => firstNext s [.cend c n]
        | _ => none
  | _ => none

/-- What happens while a cycle opens: the first step that is due or enabled. -/
noncomputable def internalOp (s : State) : Option State :=
  ((firstServed s [] s.hostQueue).bind (fun p => endsFirst s p.2.1)).orElse fun _ =>
  (dueHost s).orElse fun _ =>
  (dueOut s).orElse fun _ =>
  (dueHart s).orElse fun _ =>
  (dueStrand s).orElse fun _ =>
  (firstNext s (candidates s)).orElse fun _ =>
  sequencerStep s

/-! ## The clock -/

/-- A strand after one more cycle: a parked one's wait counts on, unless its die's bounds stand still (R424, R463); a segment
end that has met no event is over (R313). -/
def tickStrand (counts : Nat → Bool) (t : Strand) : Strand :=
  let t := if t.evDue && t.evq.isEmpty then { t with evDue := false } else t
  match t.status, t.wait, t.task with
  | .parked, some w, some k => if counts k.job then { t with wait := some { w with elapsed := w.elapsed + 1 } } else t
  | _, _, _ => t

/-- The head of a queue after one more cycle of its wait (R424). -/
def tickQueue (counts : Nat → Bool) : List Entry → List Entry
  | e :: t => (if e.wait != .none && e.fault.isNone && counts e.job then { e with waited := e.waited + 1 } else e) :: t
  | [] => []

/-- A core after one more cycle. -/
def tickCore (s : State) (period : Bool) (c : Nat) (k : Core) : Core :=
  let counts (j : Nat) : Bool := !(dieAt s (c / 288)).hold && jobRuns s j
  { k with
    strands := k.strands.map (fun t => (t.1, tickStrand counts t.2))
    queues := k.queues.map (fun q => (q.1, tickQueue counts q.2))
    dqBusy := false
    periodDue := k.periodDue || period }

/-- A head after one more cycle: fired subscribers wait for a slot (R431). -/
def tickHead (h : Head) : Head :=
  { h with subs := h.subs.map (fun b => if b.state = 1 ∧ !b.queued then { b with waited := b.waited + 1 } else b) }

/-- Page copies that have waited, for a page-out of their page say, may run (R208). -/
def tickPages (s : State) : State :=
  s.cores.foldl (fun s k => if k.2.pages.any (fun p => !p.running) then runPages s k.1 else s) s


/-- A monitor at the end of an interval of its level source: the sample it is to take, and the monitor (R359, R360). -/
def levelSample (s : State) (now : Nat) (m : Nat × Monitor) : List (Nat × Nat) × (Nat × Monitor) :=
  let k := m.2
  let per := 256 * bits k.ctl 48 16
  let src := bits k.sel 0 8
  if !bit k.ctl 0 || !([2, 3, 4, 5, 7].contains src) || per == 0 || now % per != 0 then ([], m)
  else
    let v := levelOf s src (bits k.sel 8 24)
    let x := if src = 5 then v - k.last else v
    ([(m.1, Nat.min x (2 ^ 32 - 1))], (m.1, { k with last := v }))

/-- The monitors of level sources after one more cycle. -/
def tickMonitors (s : State) : State :=
  if s.monitors.isEmpty then s
  else
    let l := s.monitors.map (levelSample s s.cycle)
    { s with samples := s.samples ++ l.flatMap (·.1), monitors := l.map (·.2) }

/-- Counts of mtime, at 100 MHz, until a cycle at 2.25 GHz (R15, R350). -/
def timerCounts (cycle : Nat) : Nat := 2 * cycle / 45

/-- The die of a pool unit: a pond unit stands on its core's, lake unit d on die d. -/
def unitDie (u : Nat) : Nat := if u < 1728 then u / 288 else u - 1728

/-- One more cycle of the package. On a die in hold no wait bound counts (R463); the sequencers stand on the I/O dies (R323). -/
def tick (s : State) : State :=
  let now := s.cycle + 1
  let period := s.dev.ttper != 0 && now % s.dev.ttper == 0
  tickMonitors <| tickPower <| tickPages { s with
    phase := 0
    cycle := now
    mtime := s.mtime + timerCounts now - timerCounts s.cycle
    cores := s.cores.map (fun k => (k.1, tickCore s period k.1 k.2))
    dies := s.dies.map (fun d => (d.1, if d.2.hold then { d.2 with holdLen := d.2.holdLen + 1 } else d.2))
    units := s.units.map (fun u => if u.2.heads.isEmpty ∨ (dieAt s (unitDie u.1)).hold then u
      else (u.1, { u.2 with heads := u.2.heads.map (fun h => (h.1, tickHead h.2)) }))
    clusters := s.clusters.map (fun k =>
      if k.2.launches.isEmpty then k else (k.1, { k.2 with launches := k.2.launches.map tickLaunch })) }

/-! ## The fetch (R138, R404) -/

/-- Fetches one word for a strand. A word of another device is a remote access whose answer the strand's grant holds (R319). -/
def fetchWord (s : State) (a : At) (va : Nat) : Act (State × Word) :=
  if ccMiss s a va then awaitWalk s a va
  else match translate s a.c (ctxOf s a) va false true with
  | .error c => .error (.trap c)
  | .ok (s, .far base psz frame) => farWait s a va base psz frame false
  | .ok (s, .fab l) => match grantOf (strandAt s a) (fetchKey va) with
    | some v => .ok (s, BitVec.ofNat 32 v.toNat)
    | none =>
      if (clusterAt s (a.c / 48)).master.isNone then raise 0xBD s.dev.rank 0 0 else stall (askRemote s a va l 15 4)
  | .ok (s, .ok loc) => match poisoned s loc 4 with
    | some u => .error (.trap (poisonGlobal va loc u))
    | none => .ok (s, BitVec.ofNat 32 (loadNat s loc 4))

/-- Is a word a long-immediate prefix (R142)? -/
def isPrefix (w : Word) : Bool := w.extractLsb' 26 6 == 63

/-- A decoding with the word that its error names: the prefixed word for all but a prefix's own low bits (log 17). -/
def named (r : Dec) (w prefixed : Word) : Except (DecErr × Word) Instr :=
  match r with
  | .ok i => .ok i
  | .error (.mustBeZero v) => .error (.mustBeZero v, w)
  | .error e => .error (e, prefixed)

/-- The instruction at a strand's pc, or its decoding error with the word that the error names. -/
noncomputable def fetch (s : State) (a : At) : Act (State × Except (DecErr × Word) Instr) :=
  let pc := (strandAt s a).pc.toNat
  match fetchWord s a pc with
  | .error e => .error e
  | .ok (s, w) =>
    if !isPrefix w then .ok (s, named (decodeWord w) w w)
    else match fetchWord s a ((pc + 4) % 2 ^ 52) with
      | .error e => .error e
      | .ok (s, w1) => match fetchWord s a ((pc + 8) % 2 ^ 52) with
        | .error e => .error e
        | .ok (s, w2) => .ok (s, named (decodeGroup w w1 w2) w w2)

/-! ## The slots of a cycle

The slots of one cycle act together. Where the spec orders what meets in a cycle, they come in that order, else by core. -/

/-- The place of a consuming read: before the core's own ones where it goes over the cluster network (R45, R51). -/
def takeRank (s : State) (a : At) (b : BitVec 6) (m : MemOff) (size : Nat) : Nat :=
  match memAddr s a b m [2, 3] size with
  | .ok ad => if (placeOf a.c ad).core = a.c then 2 else 1
  | .error _ => 2

/-- The place of an instruction in the order of R51, R101, R151, R197 and R293. -/
def plainRank (s : State) (a : At) : Instr → Nat
  | .tadd .. => 0
  | .tdraw .. => 1
  | .ldfWTake _ b o => takeRank s a b (memPlain o) 4
  | .ldfDTake _ b o => takeRank s a b (memPlain o) 8
  | .stfW .. => 3
  | .stfD .. => 3
  | .give _ => 3
  | .halt => 3
  | .tabnd .. => 4
  | .stopref .. => 5
  | .pubv .. => 6
  | .pubvF .. => 6
  | .tsub .. => 7
  | .talloc .. => 8
  | .tallocV .. => 8
  | .join => 9
  | .swait .. => 9
  | .tinfo .. => 10
  | .tver .. => 10
  | .mbpost .. => 11
  | .mbtake .. => if 32 ≤ (clusterAt s (a.c / 48)).mail.length then 10 else 12
  | .park .. => 15
  | _ => 2

/-- The place of a word: a long-immediate group has that of its prefixed instruction. -/
def wordRank (s : State) (a : At) : Instr → Nat
  | .liw v w => match decodePrefixed v w with
    | .ok (.ldfWTake _ b _) => takeRank s a b (memLong v w) 4
    | .ok (.ldfDTake _ b _) => takeRank s a b (memLong v w) 8
    | .ok i => plainRank s a i
    | .error _ => 2
  | i => plainRank s a i

/-- Does the strand of the slot issue nothing: a trap, a stop or an event is due, or it waits at a pre-emption point (R305, R313,
R379, R389)? -/
def slotIdle (s : State) (a : At) : Bool :=
  let t := strandAt s a
  t.pendTrap.any (fun pt => !((jobAt s (jobOf s a)).phase == 2 && pt.eng)) || t.atStop ||
    (t.status == .waiting && !jobRuns s (jobOf s a)) ||
    (t.evDue && !t.evq.isEmpty && takesEvents t)

/-- The place of a core's slot in the cycle: that of the instruction its strand has at hand. -/
noncomputable def slotRank (s : State) (c : Nat) : Nat :=
  match runner { s with focus := c } with
  | none => 2
  | some a =>
    if (strandAt s a).bubble ≠ 0 || slotIdle s a || (strandAt s a).retPc.isSome then 2
    else match fetch s a with | .ok (s, .ok i) => wordRank s a i | _ => 2

/-- The focus goes to the slot that comes next; after the last one the cycle closes. -/
noncomputable def passFocus (s : State) : State :=
  let l := sortBy (fun x y => decide (x.2 < y.2)) (s.todo.map (fun c => (c, slotRank s c)))
  match l with
  | (c, _) :: _ => { s with focus := c, todo := s.todo.filter (· != c), phase := 1 }
  | [] => { s with phase := 2 }

/-- A cycle has opened: the slots of the cores whose strands have their turns come, on dies whose clocks run (R357). -/
noncomputable def openCycle (s : State) : State :=
  passFocus { s with todo := (tabKeys s.cores).filter (fun c =>
    (runner { s with focus := c }).isSome && clocksRun s c) }

/-- A wait of a strand on a die in thermal hold does not count (R463). -/
def freezeWait (old : Option Wait) (a : At) (s : State) : State :=
  if !(dieAt s (a.c / 288)).hold then s
  else onStrand s a (fun t => { t with wait := match t.wait, old with
    | some w, some o => some { w with elapsed := if w.kind = o.kind then o.elapsed else 0 }
    | some w, none => some { w with elapsed := 0 }
    | none, _ => none })

/-- A strand after a slot of its turn: the cycle is debited to the share of its context, issued or waited (R21, R302); words
fetched from another device for an instruction that has issued are gone. -/
def slotOver (t : Strand) : Strand :=
  { t with
    segbud := if t.holder.isSome then t.segbud - 1 else t.segbud
    walked := if t.wait.isNone then none else t.walked
    grant := if t.wait.isNone then t.grant.filter (fun g => !(g.1 % 2 == 1 && decide (2 ^ 54 ≤ g.1))) else t.grant }

/-- After a slot. -/
noncomputable def endSlot (old : Option Wait) (a : At) (s : State) : State := passFocus (onStrand (freezeWait old a s) a slotOver)

/-- The issue slot of a strand: a branch bubble, a return that still pushes entries (R385), or an instruction. -/
noncomputable def strandSlot (s : State) (a : At) : Host.Outcome State Fault Refusal :=
  let t := strandAt s a
  if t.bubble ≠ 0 then .next (endSlot t.wait a (onStrand s a (fun t => { t with bubble := t.bubble - 1 })))
  else if slotIdle s a then .next (endSlot t.wait a s)
  else if t.retPc.isSome then .next (endSlot t.wait a (continueReturn s a))
  else match fetch s a with
    | .error (.wait s k waiting arg) => .next (endSlot t.wait a (holdWait s a k waiting arg))
    | .error (.trap c) => .next (endSlot t.wait a (signalTrap s a (ccTrap s a c)))
    | .ok (s, .error (e, w)) => .next (endSlot t.wait a (signalTrap s a (ccTrap s a ⟨e.code, w.toNat, e.arg, 0⟩)))
    | .ok (s, .ok i) => match exec i s with
      | .next s => .next (endSlot t.wait a s)
      | r => r

/-- The steps in which entries complete (R199), in the order LQ, VQ, MQ, SQ of R151. -/
noncomputable def completions (s : State) : List Instr :=
  (s.cores.filter (fun k => clocksRun s k.1 && k.2.queues.any (fun q => !q.2.isEmpty))).flatMap (fun k =>
    [.engineEntryComplete k.1 0, .engineEntryComplete k.1 1, .engineEntryComplete k.1 2, .engineEntryComplete k.1 3])

/-- The operations up to a class act at the first unit that one has reached. -/
def dueOps (lim : Nat) (s : State) : Option State :=
  (s.units.find? (fun u => u.2.inbox.any (fun r => decide (opClass r.op ≤ lim)))).map (fun u => applyOps lim s u.1)

/-- What comes before a word of a place in the cycle, in the order of R101: raises, the completions of entries, draws, the runs that
have stopped; then the stops of references; then the requests that wait, before new ones. -/
noncomputable def unitFirst (s : State) (rank : Nat) : Option State :=
  if rank < 3 then none
  else (dueOps 0 s).orElse fun _ => (firstNext s (completions s)).orElse fun _ => (dueOps 2 s).orElse fun _ =>
    ((listedStrands s).findSome? (dueEnd s)).orElse fun _ =>
    if rank < 6 then none else (dueOps 5 s).orElse fun _ =>
    if rank < 8 then none else firstNext s ((s.units.filter (unitHasWork s)).map (fun u => .poolUnitCycle u.1))

/-- The slot of the focus core. -/
noncomputable def ccSlot (s : State) : Host.Outcome State Fault Refusal :=
  match runner s with
  | none => .next (passFocus s)
  | some a => match unitFirst s (slotRank s s.focus) with
    | some s => .next s
    | none => strandSlot s a

end Sys2Proof.Machine
end

