-- ==== Sys2Proof/Machine/Step.lean ====
section
/-! DEFINITION. One step of the machine (log 4). A cycle opens with what comes from outside and with every step that is due or
enabled, has a slot for each core whose strand has its turn, and closes with the pool units, the thieves and the choices of
strands. -/

namespace Sys2Proof.Machine

/-- A step of the table that comes from outside: a write of the host waits behind one that is not performed, and an access to HBM
for the package's wake (R345, R358). -/
noncomputable def eventStep (s : State) (i : Instr) : Host.Outcome State Fault Refusal :=
  if !isEvent i then .next { s with missed := true }
  else if hostHeld s i then .next { s with hostQueue := s.hostQueue ++ [i] }
  else exec i s

/-- A step while a cycle opens, once no input acts. -/
noncomputable def agendaStep (s : State) : Host.Outcome State Fault Refusal :=
  match s.agenda with
  | i :: rest => (match endsFirst s i with
    | some s' => .next s'
    | none => eventStep { s with agenda := rest } i)
  | [] => match internalOp s with
    | some s' => .next s'
    | none => .next (openCycle s)

/-- A step while a cycle opens. -/
noncomputable def openStep (s : State) : Host.Outcome State Fault Refusal :=
  match s.inputs with
  | x :: rest => (match takeInput { s with inputs := rest } x with
    | some s' => .next s'
    | none => agendaStep s)
  | [] => agendaStep s

/-- A step while a cycle closes: what comes before words that follow every slot, then the thieves and the choices of strands. -/
noncomputable def closeStep (s : State) : Host.Outcome State Fault Refusal :=
  match (unitFirst s 8).orElse fun _ => firstNext s (closers s) with
  | some s' => .next s'
  | none => .next (tick s)

/-- One step. -/
noncomputable def step (s : State) : Host.Outcome State Fault Refusal :=
  match s.phase with
  | 0 => openStep s
  | 1 => ccSlot s
  | _ => closeStep s

/-- Where withFetchWord places the instruction. -/
def fetchAddr : Nat := 0x1000

/-- The instruction whose bits are w stored where the focus core's CC fetches next (log 3): the state of a machine in which an
issued job's task runs at fetchAddr, on a page of HBM that its core's TLB maps, and the slots of a cycle have come. -/
def State.withFetchWord (s : State) (nbits w : Nat) : State :=
  let j := s.jobNext
  let k : Task := ⟨j, 0, s.taskNext, none, true, false, [], none, [], fetchAddr, 0, [], [], [], 0⟩
  let t : Strand := { Strand.reset with status := .running, pc := BitVec.ofNat 52 fetchAddr, holder := some j, task := some k }
  let s := { wakeDie (wakePackage s) s.focus with
    inputs := []
    agenda := []
    hostQueue := []
    todo := []
    phase := 1
    jobs := tabPut s.jobs j { Job.none with phase := 1, live := 1 }
    jobNext := j + 1
    taskNext := s.taskNext + 1 }
  let s := onCore s s.focus (fun c => { c with
    strands := tabPut c.strands 0 t, turn := some 0, tlb := ⟨0, 0, 0, 15, 0⟩ :: c.tlb })
  storeN s fetchAddr (leBytes (nbits / 8) w ++ List.replicate (12 - nbits / 8) 0)

end Sys2Proof.Machine
end

