-- ==== Sys2Proof/Safety.lean ====
section
/-! DEFINITION. The terms of the claims: what an instruction sees, when its operands are ready, what it leaves alone, and how a
strand goes on after it. -/

namespace Sys2Proof.Machine

/-- The canonical form of memory, which every step keeps. -/
def State.memOk (s : State) : Prop := s.mem.wf = true

/-- Is it a word that a CC fetches, not a step of the part nor a step of a collective program? -/
def isWord (i : Instr) : Bool := !isEvent i && (encodeStep i).isNone

/-! ## Operands -/

/-- The state that the instruction in strand a's slot sees: the exposed writes due by that slot have landed (R144). -/
def seen (s : State) (a : At) : State := onStrand s a landSlot

/-- A source selector is ready: a latch, or a register with no result out (R141, R144). -/
def srcReady (s : State) (a : At) (v : BitVec 6) : Prop := 32 ≤ v.toNat ∨ gBusy (strandAt s a) v.toNat = false

/-- The value a source selector names (R141). -/
def src (s : State) (a : At) (v : BitVec 6) : Dword := selVal (strandAt s a) v.toNat

/-- A g destination is ready: nw keeps it unwritten, or no result of it is out (R140, R144). -/
def dstReady (s : State) (a : At) (d : BitVec 5) (n : BitVec 1) : Prop := n = 1 ∨ gBusy (strandAt s a) d.toNat = false

/-- A p register is ready (R269). -/
def pReady (s : State) (a : At) (p : BitVec 3) : Prop := pBusy (strandAt s a) p.toNat = false

/-! ## Frames -/

/-- exec answers a next state, and P holds of it. -/
def Runs (i : Instr) (s : State) (P : State → Prop) : Prop := ∃ t, exec i s = .next t ∧ P t

/-- What a slot of strand a answers whose instruction has answered r: the slot is over, the focus passes on. -/
noncomputable def slotEnds (old : Option Wait) (a : At) : Host.Outcome State Fault Refusal → Host.Outcome State Fault Refusal
  | .next t => .next (endSlot old a t)
  | r => r

/-- The state without memory, poison and the count of results sent out. -/
def State.noMem (s : State) : State := { s with mem := ⟨[], []⟩, poison := [], sbNext := 0 }

/-- The state without memory, poison, and the counts of results sent out and of free values drawn. -/
def State.noFree (s : State) : State := { s.noMem with freeCount := 0 }

/-- The state without the count of results sent out. -/
def State.noSb (s : State) : State := { s with sbNext := 0 }

/-- Two states differ at most in strand a, in what f takes away of the state outside the cores and in what k takes away of a
core: with neither, every byte of memory, every other strand, every other part of every core, and everything outside the
cores are the same. -/
structure Alone (s t : State) (a : At) (f : State → State := id) (k : Core → Core := id) : Prop where
  outside : f { t with cores := [] } = f { s with cores := [] }
  cores : ∀ c, c ≠ a.c → k (coreAt t c) = k (coreAt s c)
  core : k { coreAt t a.c with strands := [] } = k { coreAt s a.c with strands := [] }
  strands : ∀ x, x ≠ a.x → strandAt t ⟨a.c, x⟩ = strandAt s ⟨a.c, x⟩

/-- A strand without what the passing of an instruction changes: its place in the program, its latches, its wait. -/
def Strand.still (t : Strand) : Strand :=
  { t with pc := 0, y := [], lc := 0, loop := none, slot := 0, wait := none, status := .running }

/-- A strand without its general registers and the exposed writes to them. -/
def Strand.noG (t : Strand) : Strand := { t with g := [], pend := [] }

/-- A strand without the cycle at which its last local load is performed (R275). -/
def Strand.noLd (t : Strand) : Strand := { t with ldReady := 0 }

/-- A g destination has been written with latency 1 (R140, R144): g0 and a destination under nw discard; every other
register, and the exposed writes to it, are unchanged. -/
structure WroteG (d : BitVec 5) (n : BitVec 1) (v : Dword) (t u : Strand) : Prop where
  value : n = 0 → d ≠ 0 → gVal u d.toNat = v
  others : ∀ r, (n = 1 ∨ r ≠ d.toNat) → gVal u r = gVal t r
  pend : u.pend.filter (fun w => w.reg != d.toNat) = t.pend.filter (fun w => w.reg != d.toNat)
  kept : n = 1 ∨ d = 0 → u.pend = t.pend

/-- A g destination is to be written l slots later (R144): no register changes yet, and the write stands last among the
exposed ones, unless nw or g0 discards it. -/
structure WillWriteG (l : Nat) (d : BitVec 5) (n : BitVec 1) (v : Dword) (t u : Strand) : Prop where
  regs : u.g = t.g
  pend : u.pend = t.pend ++ (if n = 1 ∨ d = 0 then [] else [⟨t.slot + l, d.toNat, v⟩])

/-- How a strand goes on after an instruction of len bytes that is no taken branch (R143, R144, R183): y is in y0, the slot
counts on, and the pc follows, with the back edge of an armed loop whose end it reaches. -/
structure Follows (len : Nat) (y : Dword) (t u : Strand) : Prop where
  latch : u.y = y :: t.y.take 3
  going : u.status = .running ∧ u.wait = none ∧ u.slot = t.slot + 1
  straight : (∀ h, t.loop = some h → t.pc.toNat + len ≠ h.stop) →
    u.pc = BitVec.ofNat 52 (t.pc.toNat + len) ∧ u.lc = t.lc ∧ u.loop = t.loop
  last : ∀ h, t.loop = some h → t.pc.toNat + len = h.stop → t.lc = 1 →
    u.pc = BitVec.ofNat 52 h.stop ∧ u.lc = 0 ∧ u.loop = none
  again : ∀ h, t.loop = some h → t.pc.toNat + len = h.stop → t.lc ≠ 1 →
    u.pc = BitVec.ofNat 52 h.start ∧ u.lc = (if t.lc = 0 then 2 ^ 32 - 1 else t.lc - 1) ∧ u.loop = some h

/-- An instruction of strand a that has issued and changed its g destination alone. -/
structure DoneG (len : Nat) (s t : State) (a : At) (d : BitVec 5) (n : BitVec 1) (v y : Dword) : Prop where
  alone : Alone s t a
  wrote : WroteG d n v (strandAt s a) (strandAt t a)
  follows : Follows len y (strandAt s a) (strandAt t a)
  kept : (strandAt t a).still.noG = (strandAt s a).still.noG

/-- An instruction of strand a that has issued and left a write of latency l; k takes away what else of the strand it changes. -/
structure DoneLat (l len : Nat) (s t : State) (a : At) (d : BitVec 5) (n : BitVec 1) (v y : Dword)
    (k : Strand → Strand := id) : Prop where
  alone : Alone s t a
  wrote : WillWriteG l d n v (strandAt s a) (strandAt t a)
  follows : Follows len y (strandAt s a) (strandAt t a)
  kept : k (strandAt t a).still.noG = k (strandAt s a).still.noG

/-- An instruction of strand a that has issued and changed its p destination alone (R145): p0 discards. -/
structure DoneP (s t : State) (a : At) (d : BitVec 3) (v : Bool) : Prop where
  alone : Alone s t a
  value : d ≠ 0 → pVal (strandAt t a) d.toNat = v
  others : ∀ r, r ≠ d.toNat → pVal (strandAt t a) r = pVal (strandAt s a) r
  follows : Follows 4 0 (strandAt s a) (strandAt t a)
  kept : { (strandAt t a).still with p := [] } = { (strandAt s a).still with p := [] }

/-- An instruction of strand a that has issued and changed one k register alone (R176). -/
structure DoneK (s t : State) (a : At) (d : BitVec 4) (v : Nat) : Prop where
  alone : Alone s t a
  value : tabGet 0 (strandAt t a).k d.toNat = v
  others : ∀ r, r ≠ d.toNat → tabGet 0 (strandAt t a).k r = tabGet 0 (strandAt s a).k r
  follows : Follows 4 0 (strandAt s a) (strandAt t a)
  kept : { (strandAt t a).still with k := [] } = { (strandAt s a).still with k := [] }

/-- An instruction of strand a that has issued and changed one e register alone (R177). -/
structure DoneE (s t : State) (a : At) (d : BitVec 4) (v : Nat) : Prop where
  alone : Alone s t a
  value : tabGet 0 (strandAt t a).e d.toNat = v
  others : ∀ r, r ≠ d.toNat → tabGet 0 (strandAt t a).e r = tabGet 0 (strandAt s a).e r
  follows : Follows 4 0 (strandAt s a) (strandAt t a)
  kept : { (strandAt t a).still with e := [] } = { (strandAt s a).still with e := [] }

/-- An instruction of strand a that has issued and sent a result of g destination d out (R44, R144): the destination waits
for it, and the value stands ready where its unit has answered. -/
structure DoneSb (len : Nat) (s t : State) (a : At) (d : Dest) (access load : Bool) (v : Option Dword)
    (f : State → State := State.noSb) (k : Core → Core := id) : Prop where
  alone : Alone s t a f k
  count : t.sbNext = s.sbNext + 1
  out : (strandAt t a).sb = (strandAt s a).sb ++ [⟨s.sbNext, d, access, load, v⟩]
  regs : (strandAt t a).g = (strandAt s a).g
  follows : Follows len 0 (strandAt s a) (strandAt t a)
  kept : { (strandAt t a).still with sb := [], pend := [] } = { (strandAt s a).still with sb := [], pend := [] }

/-- n bytes of memory from location l have been written with v, little-endian (R3): every other byte, and the poison of every
unit that the write does not cover whole, are as before. -/
structure Wrote (s t : State) (l n v : Nat) : Prop where
  bytes : loadN t l n = leBytes n v
  others : ∀ x, x < l ∨ l + n ≤ x → t.mem.read x = s.mem.read x
  poison : ∀ u, u ∈ t.poison ↔ u ∈ s.poison ∧ ¬(l ≤ u ∧ u + (checkUnit u).2 ≤ l + n)

/-- An instruction of strand a that has issued and, at most, gone on: no register, no memory, nothing else has changed. -/
structure DoneNop (len : Nat) (s t : State) (a : At) : Prop where
  alone : Alone s t a
  follows : Follows len 0 (strandAt s a) (strandAt t a)
  kept : (strandAt t a).still = (strandAt s a).still

/-- An instruction of strand a that has issued and jumped (R178 to R181, R183): the pc is the target, a loop whose body
holds it stays armed, the two cycles after it issue nothing. -/
structure Jumped (y : Dword) (target : Nat) (t u : Strand) : Prop where
  pc : u.pc = BitVec.ofNat 52 target
  latch : u.y = y :: t.y.take 3
  going : u.status = .running ∧ u.wait = none ∧ u.slot = t.slot + 1
  bubble : u.bubble = 2
  loop : u.loop = loopAfterJump t.loop target ∧ u.lc = t.lc
  kept : { u.still.noG with bubble := 0 } = { t.still.noG with bubble := 0 }

/-- A MEM instruction with its 12-bit offset, and as the prefixed instruction of a long-immediate group that does not carry
out of a global address (R140, R142, R403): P is told the length, the effective address and the instruction. -/
def InForms (mk : BitVec 12 → Instr) (base : Dword) (size : Nat) (P : Nat → Nat → Instr → Prop) : Prop :=
  (∀ o, P 4 (effAddr base o.toInt size) (mk o)) ∧
  (∀ imm word o, decodePrefixed imm word = .ok (mk o) → offCarry base imm.toInt size = false →
    P 12 (effAddr base imm.toInt size) (.liw imm word))

/-- An instruction with an offset in words, and as the prefixed instruction of a long-immediate group (R142): P is told the
length, the offset and the instruction. -/
def InWords {w : Nat} (mk : BitVec w → Instr) (P : Nat → Int → Instr → Prop) : Prop :=
  (∀ o, P 4 o.toInt (mk o)) ∧
  (∀ imm word o, decodePrefixed imm word = .ok (mk o) → P 12 imm.toInt (.liw imm word))

/-- The location that an access reaches in this device's memory. -/
def reachLoc (s : State) (a : At) : Reach → Nat
  | .near p => placeLoc (lkeyOf s a) p
  | .phys _ l => l
  | .remote .. => 0

/-- An access that stays in this device. -/
def Reach.here : Reach → Bool
  | .remote .. => false
  | _ => true

/-- The state without memory, poison, full-empty bits and the count of results sent out. -/
def State.noPond (s : State) : State := { s.noMem with fe := [] }

/-- A core without the counts of its pond banks (R426). -/
def Core.noBanks (k : Core) : Core := { k with bankSets := [], bankTakes := [] }

/-- An engine word has been pushed (R147, R148): its entry stands last in its queue under the strand's next sequence number,
with its draws recorded (R99); other queues and other counts are as before. -/
structure Pushed (s t : State) (a : At) (e : Entry) : Prop where
  queue : queueAt t a.c e.q = queueAt s a.c e.q ++ [{ e with seq := nextSeq (strandAt s a) e.q, drawn := true }]
  queues : ∀ q, q ≠ e.q → queueAt t a.c q = queueAt s a.c q
  count : tabGet 0 (strandAt t a).push e.q = nextSeq (strandAt s a) e.q
  counts : ∀ q, q ≠ e.q → tabGet 0 (strandAt t a).push q = tabGet 0 (strandAt s a).push q
  follows : Follows 4 0 (strandAt s a) (strandAt t a)
  kept : { (strandAt t a).still with push := [] } = { (strandAt s a).still with push := [] }

/-- The state in which a push has taken its number; the table of an MLT is the core's latest (R251). -/
def pushCounted (s : State) (a : At) (e : Entry) : State :=
  let s := onStrand s a (fun t => { t with push := tabPut t.push e.q (nextSeq t e.q) })
  match e.op with
  | .mlt t => onCore s a.c (fun k => { k with regs := { k.regs with lastMlt := some t } })
  | _ => s

/-- The value of a field ga, gb or gc of an engine word. -/
def fieldVal (s : State) (a : At) (r : BitVec 5) : Nat := (gVal (strandAt s a) r.toNat).toNat

/-- The field's register has no result out. -/
def fieldReady (s : State) (a : At) (r : BitVec 5) : Prop := gBusy (strandAt s a) r.toNat = false

/-- What the issue of an engine word does (R147, R148, R99, R400, R428): when its registers are ready, a word that the CC
cannot resolve traps; one that it resolves is pushed as soon as its strand and its queue have room, and stalls until then; a
refused record of its draws makes the entry faulting and the trap due. -/
structure Pushes (i : Instr) (s : State) (a : At) (q t g : Nat) (x y z : BitVec 5)
    (resolve : State → At → Nat → Nat → Nat → ResE) : Prop where
  refused : ∀ c, resolve (seen s a) a (fieldVal (seen s a) a x) (fieldVal (seen s a) a y) (fieldVal (seen s a) a z) = .error c →
    exec i s = .next (signalTrap (seen s a) a (ccTrap (seen s a) a c))
  stalls : ∀ r, resolve (seen s a) a (fieldVal (seen s a) a x) (fieldVal (seen s a) a y) (fieldVal (seen s a) a z) = .ok r →
    pushRoom (seen s a) a q = false → exec i s = .next (holdWait (seen s a) a .other false 0)
  pushed : ∀ r w, resolve (seen s a) a (fieldVal (seen s a) a x) (fieldVal (seen s a) a y) (fieldVal (seen s a) a z) = .ok r →
    pushRoom (seen s a) a q = true →
    let e := newEntry (seen s a) a q ((encode i).headD 0) t g (fieldVal (seen s a) a x) (fieldVal (seen s a) a y)
      (fieldVal (seen s a) a z) r
    recordDraws (pushCounted (seen s a) a e) a.c (jobAt (seen s a) e.job).ctx e.job r.draws = .ok w →
    Runs i s (fun t => Pushed (seen s a) t a e ∧ Alone w t a id (fun k => { k with queues := [] }))
  faulting : ∀ r c, resolve (seen s a) a (fieldVal (seen s a) a x) (fieldVal (seen s a) a y) (fieldVal (seen s a) a z) = .ok r →
    pushRoom (seen s a) a q = true →
    let e := newEntry (seen s a) a q ((encode i).headD 0) t g (fieldVal (seen s a) a x) (fieldVal (seen s a) a y)
      (fieldVal (seen s a) a z) r
    recordDraws (pushCounted (seen s a) a e) a.c (jobAt (seen s a) e.job).ctx e.job r.draws = .error c →
    Runs i s (fun t => queueAt t a.c q =
        queueAt (seen s a) a.c q ++ [{ e with seq := nextSeq (strandAt (seen s a) a) q, drawn := false, fault := some c }] ∧
      (strandAt t a).pendTrap.isSome = true)

/-! ## Sectors and rows of the engines (R198, R223) -/

/-- The bytes that ranges hold, in order. -/
def readPlaces (s : State) (key : Nat) (l : List (Place × Nat)) : List Byte := l.flatMap (fun r => fetchPlace s key r.1 r.2)

/-- Bytes dealt to ranges in order. -/
def cutPlaces : List (Place × Nat) → List Byte → List (Place × List Byte)
  | [], _ => []
  | (p, n) :: t, v => (p, v.take n) :: cutPlaces t (v.drop n)

/-- exec moves the work of head entry e on: u is the state but for the entry, which ends if this was its last piece, then with
the result given. -/
def WorksOn (i : Instr) (s u : State) (c : Nat) (e : Entry) (last : Bool) (result : Option Nat) (P : Prog → Prop) : Prop :=
  ∃ f, exec i s = .next (putEntry u c f) ∧ f.ended = last ∧ f.q = e.q ∧ f.sx = e.sx ∧ f.seq = e.seq ∧ f.op = e.op ∧
    f.fault = e.fault ∧ (last = true → f.prog.result = result) ∧ P f.prog

/-- The state in which ranges have received their bytes, and every pond granule that they touch and that the instruction does
not write again later is full (R50). -/
def sectorDone (s : State) (e : Entry) (writes later : List (Place × Nat)) (v : List Byte) : State :=
  fillWritten (putPlaces s (keyOfEntry s e) (cutPlaces writes v)) writes later

end Sys2Proof.Machine
end

