-- ==== Sys2Proof/Laws/Encoding.lean ====
section
/-! SUPPORT. Fields of the instruction words: what each field of a format reads as, which major a word is decoded by, and the
decoding of a whole instruction from its words. -/

namespace Sys2Proof

theorem append_toNat {v w : Nat} (x : BitVec v) (y : BitVec w) : (x ++ y).toNat = x.toNat * 2 ^ w + y.toNat := by
  rw [BitVec.toNat_append, Nat.shiftLeft_eq, Nat.mul_comm, ← Nat.two_pow_add_eq_or_of_lt y.isLt]

/-- A field of a word by its number. -/
theorem field_eq {n w : Nat} (x : BitVec n) (lo : Nat) (v : BitVec w) (h : x.toNat / 2 ^ lo % 2 ^ w = v.toNat) :
    x.extractLsb' lo w = v := by
  apply BitVec.eq_of_toNat_eq
  rw [BitVec.extractLsb'_toNat, Nat.shiftRight_eq_div_pow, h]

theorem wRR_toNat (m : BitVec 6) (d : BitVec 5) (n : BitVec 1) (a : BitVec 6) (b : BitVec 6) (f : BitVec 8) :
    (wRR m d n a b f).toNat = ((((m.toNat * 32 + d.toNat) * 2 + n.toNat) * 64 + a.toNat) * 64 + b.toNat) * 256 + f.toNat := by
  have h : (wRR m d n a b f).toNat = (m ++ d ++ n ++ a ++ b ++ f).toNat := rfl
  rw [h]; simp only [append_toNat]; norm_num

theorem wRR_m (m : BitVec 6) (d : BitVec 5) (n : BitVec 1) (a : BitVec 6) (b : BitVec 6) (f : BitVec 8) :
    (wRR m d n a b f).extractLsb' 26 6 = m := by
  have := m.isLt; have := d.isLt; have := n.isLt; have := a.isLt; have := b.isLt; have := f.isLt
  exact field_eq _ _ _ (by rw [wRR_toNat]; omega)

theorem wRR_d (m : BitVec 6) (d : BitVec 5) (n : BitVec 1) (a : BitVec 6) (b : BitVec 6) (f : BitVec 8) :
    (wRR m d n a b f).extractLsb' 21 5 = d := by
  have := m.isLt; have := d.isLt; have := n.isLt; have := a.isLt; have := b.isLt; have := f.isLt
  exact field_eq _ _ _ (by rw [wRR_toNat]; omega)

theorem wRR_n (m : BitVec 6) (d : BitVec 5) (n : BitVec 1) (a : BitVec 6) (b : BitVec 6) (f : BitVec 8) :
    (wRR m d n a b f).extractLsb' 20 1 = n := by
  have := m.isLt; have := d.isLt; have := n.isLt; have := a.isLt; have := b.isLt; have := f.isLt
  exact field_eq _ _ _ (by rw [wRR_toNat]; omega)

theorem wRR_a (m : BitVec 6) (d : BitVec 5) (n : BitVec 1) (a : BitVec 6) (b : BitVec 6) (f : BitVec 8) :
    (wRR m d n a b f).extractLsb' 14 6 = a := by
  have := m.isLt; have := d.isLt; have := n.isLt; have := a.isLt; have := b.isLt; have := f.isLt
  exact field_eq _ _ _ (by rw [wRR_toNat]; omega)

theorem wRR_b (m : BitVec 6) (d : BitVec 5) (n : BitVec 1) (a : BitVec 6) (b : BitVec 6) (f : BitVec 8) :
    (wRR m d n a b f).extractLsb' 8 6 = b := by
  have := m.isLt; have := d.isLt; have := n.isLt; have := a.isLt; have := b.isLt; have := f.isLt
  exact field_eq _ _ _ (by rw [wRR_toNat]; omega)

theorem wRR_f (m : BitVec 6) (d : BitVec 5) (n : BitVec 1) (a : BitVec 6) (b : BitVec 6) (f : BitVec 8) :
    (wRR m d n a b f).extractLsb' 0 8 = f := by
  have := m.isLt; have := d.isLt; have := n.isLt; have := a.isLt; have := b.isLt; have := f.isLt
  exact field_eq _ _ _ (by rw [wRR_toNat]; omega)

theorem wRI_toNat (m : BitVec 6) (d : BitVec 5) (n : BitVec 1) (a : BitVec 6) (i : BitVec 14) :
    (wRI m d n a i).toNat = (((m.toNat * 32 + d.toNat) * 2 + n.toNat) * 64 + a.toNat) * 16384 + i.toNat := by
  have h : (wRI m d n a i).toNat = (m ++ d ++ n ++ a ++ i).toNat := rfl
  rw [h]; simp only [append_toNat]; norm_num

theorem wRI_m (m : BitVec 6) (d : BitVec 5) (n : BitVec 1) (a : BitVec 6) (i : BitVec 14) :
    (wRI m d n a i).extractLsb' 26 6 = m := by
  have := m.isLt; have := d.isLt; have := n.isLt; have := a.isLt; have := i.isLt
  exact field_eq _ _ _ (by rw [wRI_toNat]; omega)

theorem wRI_d (m : BitVec 6) (d : BitVec 5) (n : BitVec 1) (a : BitVec 6) (i : BitVec 14) :
    (wRI m d n a i).extractLsb' 21 5 = d := by
  have := m.isLt; have := d.isLt; have := n.isLt; have := a.isLt; have := i.isLt
  exact field_eq _ _ _ (by rw [wRI_toNat]; omega)

theorem wRI_n (m : BitVec 6) (d : BitVec 5) (n : BitVec 1) (a : BitVec 6) (i : BitVec 14) :
    (wRI m d n a i).extractLsb' 20 1 = n := by
  have := m.isLt; have := d.isLt; have := n.isLt; have := a.isLt; have := i.isLt
  exact field_eq _ _ _ (by rw [wRI_toNat]; omega)

theorem wRI_a (m : BitVec 6) (d : BitVec 5) (n : BitVec 1) (a : BitVec 6) (i : BitVec 14) :
    (wRI m d n a i).extractLsb' 14 6 = a := by
  have := m.isLt; have := d.isLt; have := n.isLt; have := a.isLt; have := i.isLt
  exact field_eq _ _ _ (by rw [wRI_toNat]; omega)

theorem wRI_i (m : BitVec 6) (d : BitVec 5) (n : BitVec 1) (a : BitVec 6) (i : BitVec 14) :
    (wRI m d n a i).extractLsb' 0 14 = i := by
  have := m.isLt; have := d.isLt; have := n.isLt; have := a.isLt; have := i.isLt
  exact field_eq _ _ _ (by rw [wRI_toNat]; omega)

theorem wBR_toNat (m : BitVec 6) (p : BitVec 3) (v : BitVec 1) (o : BitVec 22) :
    (wBR m p v o).toNat = ((m.toNat * 8 + p.toNat) * 2 + v.toNat) * 4194304 + o.toNat := by
  have h : (wBR m p v o).toNat = (m ++ p ++ v ++ o).toNat := rfl
  rw [h]; simp only [append_toNat]; norm_num

theorem wBR_m (m : BitVec 6) (p : BitVec 3) (v : BitVec 1) (o : BitVec 22) :
    (wBR m p v o).extractLsb' 26 6 = m := by
  have := m.isLt; have := p.isLt; have := v.isLt; have := o.isLt
  exact field_eq _ _ _ (by rw [wBR_toNat]; omega)

theorem wBR_p (m : BitVec 6) (p : BitVec 3) (v : BitVec 1) (o : BitVec 22) :
    (wBR m p v o).extractLsb' 23 3 = p := by
  have := m.isLt; have := p.isLt; have := v.isLt; have := o.isLt
  exact field_eq _ _ _ (by rw [wBR_toNat]; omega)

theorem wBR_v (m : BitVec 6) (p : BitVec 3) (v : BitVec 1) (o : BitVec 22) :
    (wBR m p v o).extractLsb' 22 1 = v := by
  have := m.isLt; have := p.isLt; have := v.isLt; have := o.isLt
  exact field_eq _ _ _ (by rw [wBR_toNat]; omega)

theorem wBR_o (m : BitVec 6) (p : BitVec 3) (v : BitVec 1) (o : BitVec 22) :
    (wBR m p v o).extractLsb' 0 22 = o := by
  have := m.isLt; have := p.isLt; have := v.isLt; have := o.isLt
  exact field_eq _ _ _ (by rw [wBR_toNat]; omega)

theorem wJL_toNat (m : BitVec 6) (d : BitVec 5) (n : BitVec 1) (o : BitVec 20) :
    (wJL m d n o).toNat = ((m.toNat * 32 + d.toNat) * 2 + n.toNat) * 1048576 + o.toNat := by
  have h : (wJL m d n o).toNat = (m ++ d ++ n ++ o).toNat := rfl
  rw [h]; simp only [append_toNat]; norm_num

theorem wJL_m (m : BitVec 6) (d : BitVec 5) (n : BitVec 1) (o : BitVec 20) :
    (wJL m d n o).extractLsb' 26 6 = m := by
  have := m.isLt; have := d.isLt; have := n.isLt; have := o.isLt
  exact field_eq _ _ _ (by rw [wJL_toNat]; omega)

theorem wJL_d (m : BitVec 6) (d : BitVec 5) (n : BitVec 1) (o : BitVec 20) :
    (wJL m d n o).extractLsb' 21 5 = d := by
  have := m.isLt; have := d.isLt; have := n.isLt; have := o.isLt
  exact field_eq _ _ _ (by rw [wJL_toNat]; omega)

theorem wJL_n (m : BitVec 6) (d : BitVec 5) (n : BitVec 1) (o : BitVec 20) :
    (wJL m d n o).extractLsb' 20 1 = n := by
  have := m.isLt; have := d.isLt; have := n.isLt; have := o.isLt
  exact field_eq _ _ _ (by rw [wJL_toNat]; omega)

theorem wJL_o (m : BitVec 6) (d : BitVec 5) (n : BitVec 1) (o : BitVec 20) :
    (wJL m d n o).extractLsb' 0 20 = o := by
  have := m.isLt; have := d.isLt; have := n.isLt; have := o.isLt
  exact field_eq _ _ _ (by rw [wJL_toNat]; omega)

theorem wMEM_toNat (m : BitVec 6) (d : BitVec 5) (u : BitVec 1) (a : BitVec 6) (z : BitVec 2) (o : BitVec 12) :
    (wMEM m d u a z o).toNat = ((((m.toNat * 32 + d.toNat) * 2 + u.toNat) * 64 + a.toNat) * 4 + z.toNat) * 4096 + o.toNat := by
  have h : (wMEM m d u a z o).toNat = (m ++ d ++ u ++ a ++ z ++ o).toNat := rfl
  rw [h]; simp only [append_toNat]; norm_num

theorem wMEM_m (m : BitVec 6) (d : BitVec 5) (u : BitVec 1) (a : BitVec 6) (z : BitVec 2) (o : BitVec 12) :
    (wMEM m d u a z o).extractLsb' 26 6 = m := by
  have := m.isLt; have := d.isLt; have := u.isLt; have := a.isLt; have := z.isLt; have := o.isLt
  exact field_eq _ _ _ (by rw [wMEM_toNat]; omega)

theorem wMEM_d (m : BitVec 6) (d : BitVec 5) (u : BitVec 1) (a : BitVec 6) (z : BitVec 2) (o : BitVec 12) :
    (wMEM m d u a z o).extractLsb' 21 5 = d := by
  have := m.isLt; have := d.isLt; have := u.isLt; have := a.isLt; have := z.isLt; have := o.isLt
  exact field_eq _ _ _ (by rw [wMEM_toNat]; omega)

theorem wMEM_u (m : BitVec 6) (d : BitVec 5) (u : BitVec 1) (a : BitVec 6) (z : BitVec 2) (o : BitVec 12) :
    (wMEM m d u a z o).extractLsb' 20 1 = u := by
  have := m.isLt; have := d.isLt; have := u.isLt; have := a.isLt; have := z.isLt; have := o.isLt
  exact field_eq _ _ _ (by rw [wMEM_toNat]; omega)

theorem wMEM_a (m : BitVec 6) (d : BitVec 5) (u : BitVec 1) (a : BitVec 6) (z : BitVec 2) (o : BitVec 12) :
    (wMEM m d u a z o).extractLsb' 14 6 = a := by
  have := m.isLt; have := d.isLt; have := u.isLt; have := a.isLt; have := z.isLt; have := o.isLt
  exact field_eq _ _ _ (by rw [wMEM_toNat]; omega)

theorem wMEM_z (m : BitVec 6) (d : BitVec 5) (u : BitVec 1) (a : BitVec 6) (z : BitVec 2) (o : BitVec 12) :
    (wMEM m d u a z o).extractLsb' 12 2 = z := by
  have := m.isLt; have := d.isLt; have := u.isLt; have := a.isLt; have := z.isLt; have := o.isLt
  exact field_eq _ _ _ (by rw [wMEM_toNat]; omega)

theorem wMEM_o (m : BitVec 6) (d : BitVec 5) (u : BitVec 1) (a : BitVec 6) (z : BitVec 2) (o : BitVec 12) :
    (wMEM m d u a z o).extractLsb' 0 12 = o := by
  have := m.isLt; have := d.isLt; have := u.isLt; have := a.isLt; have := z.isLt; have := o.isLt
  exact field_eq _ _ _ (by rw [wMEM_toNat]; omega)

theorem wE_toNat (m : BitVec 6) (t : BitVec 3) (g : BitVec 3) (x : BitVec 5) (y : BitVec 5) (z : BitVec 5) (f : BitVec 5) :
    (wE m t g x y z f).toNat = (((((m.toNat * 8 + t.toNat) * 8 + g.toNat) * 32 + x.toNat) * 32 + y.toNat) * 32 + z.toNat) * 32 + f.toNat := by
  have h : (wE m t g x y z f).toNat = (m ++ t ++ g ++ x ++ y ++ z ++ f).toNat := rfl
  rw [h]; simp only [append_toNat]; norm_num

theorem wE_m (m : BitVec 6) (t : BitVec 3) (g : BitVec 3) (x : BitVec 5) (y : BitVec 5) (z : BitVec 5) (f : BitVec 5) :
    (wE m t g x y z f).extractLsb' 26 6 = m := by
  have := m.isLt; have := t.isLt; have := g.isLt; have := x.isLt; have := y.isLt; have := z.isLt; have := f.isLt
  exact field_eq _ _ _ (by rw [wE_toNat]; omega)

theorem wE_t (m : BitVec 6) (t : BitVec 3) (g : BitVec 3) (x : BitVec 5) (y : BitVec 5) (z : BitVec 5) (f : BitVec 5) :
    (wE m t g x y z f).extractLsb' 23 3 = t := by
  have := m.isLt; have := t.isLt; have := g.isLt; have := x.isLt; have := y.isLt; have := z.isLt; have := f.isLt
  exact field_eq _ _ _ (by rw [wE_toNat]; omega)

theorem wE_g (m : BitVec 6) (t : BitVec 3) (g : BitVec 3) (x : BitVec 5) (y : BitVec 5) (z : BitVec 5) (f : BitVec 5) :
    (wE m t g x y z f).extractLsb' 20 3 = g := by
  have := m.isLt; have := t.isLt; have := g.isLt; have := x.isLt; have := y.isLt; have := z.isLt; have := f.isLt
  exact field_eq _ _ _ (by rw [wE_toNat]; omega)

theorem wE_x (m : BitVec 6) (t : BitVec 3) (g : BitVec 3) (x : BitVec 5) (y : BitVec 5) (z : BitVec 5) (f : BitVec 5) :
    (wE m t g x y z f).extractLsb' 15 5 = x := by
  have := m.isLt; have := t.isLt; have := g.isLt; have := x.isLt; have := y.isLt; have := z.isLt; have := f.isLt
  exact field_eq _ _ _ (by rw [wE_toNat]; omega)

theorem wE_y (m : BitVec 6) (t : BitVec 3) (g : BitVec 3) (x : BitVec 5) (y : BitVec 5) (z : BitVec 5) (f : BitVec 5) :
    (wE m t g x y z f).extractLsb' 10 5 = y := by
  have := m.isLt; have := t.isLt; have := g.isLt; have := x.isLt; have := y.isLt; have := z.isLt; have := f.isLt
  exact field_eq _ _ _ (by rw [wE_toNat]; omega)

theorem wE_z (m : BitVec 6) (t : BitVec 3) (g : BitVec 3) (x : BitVec 5) (y : BitVec 5) (z : BitVec 5) (f : BitVec 5) :
    (wE m t g x y z f).extractLsb' 5 5 = z := by
  have := m.isLt; have := t.isLt; have := g.isLt; have := x.isLt; have := y.isLt; have := z.isLt; have := f.isLt
  exact field_eq _ _ _ (by rw [wE_toNat]; omega)

theorem wE_f (m : BitVec 6) (t : BitVec 3) (g : BitVec 3) (x : BitVec 5) (y : BitVec 5) (z : BitVec 5) (f : BitVec 5) :
    (wE m t g x y z f).extractLsb' 0 5 = f := by
  have := m.isLt; have := t.isLt; have := g.isLt; have := x.isLt; have := y.isLt; have := z.isLt; have := f.isLt
  exact field_eq _ _ _ (by rw [wE_toNat]; omega)

theorem wPB_toNat (m : BitVec 6) (p : BitVec 3) (s : BitVec 3) (a : BitVec 6) (b : BitVec 6) (f : BitVec 8) :
    (wPB m p s a b f).toNat = ((((m.toNat * 8 + p.toNat) * 8 + s.toNat) * 64 + a.toNat) * 64 + b.toNat) * 256 + f.toNat := by
  have h : (wPB m p s a b f).toNat = (m ++ p ++ s ++ a ++ b ++ f).toNat := rfl
  rw [h]; simp only [append_toNat]; norm_num

theorem wPB_m (m : BitVec 6) (p : BitVec 3) (s : BitVec 3) (a : BitVec 6) (b : BitVec 6) (f : BitVec 8) :
    (wPB m p s a b f).extractLsb' 26 6 = m := by
  have := m.isLt; have := p.isLt; have := s.isLt; have := a.isLt; have := b.isLt; have := f.isLt
  exact field_eq _ _ _ (by rw [wPB_toNat]; omega)

theorem wPB_p (m : BitVec 6) (p : BitVec 3) (s : BitVec 3) (a : BitVec 6) (b : BitVec 6) (f : BitVec 8) :
    (wPB m p s a b f).extractLsb' 23 3 = p := by
  have := m.isLt; have := p.isLt; have := s.isLt; have := a.isLt; have := b.isLt; have := f.isLt
  exact field_eq _ _ _ (by rw [wPB_toNat]; omega)

theorem wPB_s (m : BitVec 6) (p : BitVec 3) (s : BitVec 3) (a : BitVec 6) (b : BitVec 6) (f : BitVec 8) :
    (wPB m p s a b f).extractLsb' 20 3 = s := by
  have := m.isLt; have := p.isLt; have := s.isLt; have := a.isLt; have := b.isLt; have := f.isLt
  exact field_eq _ _ _ (by rw [wPB_toNat]; omega)

theorem wPB_a (m : BitVec 6) (p : BitVec 3) (s : BitVec 3) (a : BitVec 6) (b : BitVec 6) (f : BitVec 8) :
    (wPB m p s a b f).extractLsb' 14 6 = a := by
  have := m.isLt; have := p.isLt; have := s.isLt; have := a.isLt; have := b.isLt; have := f.isLt
  exact field_eq _ _ _ (by rw [wPB_toNat]; omega)

theorem wPB_b (m : BitVec 6) (p : BitVec 3) (s : BitVec 3) (a : BitVec 6) (b : BitVec 6) (f : BitVec 8) :
    (wPB m p s a b f).extractLsb' 8 6 = b := by
  have := m.isLt; have := p.isLt; have := s.isLt; have := a.isLt; have := b.isLt; have := f.isLt
  exact field_eq _ _ _ (by rw [wPB_toNat]; omega)

theorem wPB_f (m : BitVec 6) (p : BitVec 3) (s : BitVec 3) (a : BitVec 6) (b : BitVec 6) (f : BitVec 8) :
    (wPB m p s a b f).extractLsb' 0 8 = f := by
  have := m.isLt; have := p.isLt; have := s.isLt; have := a.isLt; have := b.isLt; have := f.isLt
  exact field_eq _ _ _ (by rw [wPB_toNat]; omega)

/-! ## Majors -/

theorem decodeWord_00 {w : Word} (h : w.extractLsb' 26 6 = 0) : decodeWord w = decMajor00 w := by
  unfold decodeWord; rw [h]; rfl
theorem decodeWord_01 {w : Word} (h : w.extractLsb' 26 6 = 1) : decodeWord w = decMajor01 w := by
  unfold decodeWord; rw [h]; rfl
theorem decodeWord_02 {w : Word} (h : w.extractLsb' 26 6 = 2) : decodeWord w = decMajor02 w := by
  unfold decodeWord; rw [h]; rfl
theorem decodeWord_03 {w : Word} (h : w.extractLsb' 26 6 = 3) : decodeWord w = decMajor03 w := by
  unfold decodeWord; rw [h]; rfl
theorem decodeWord_04 {w : Word} (h : w.extractLsb' 26 6 = 4) : decodeWord w = decMajor04 w := by
  unfold decodeWord; rw [h]; rfl
theorem decodeWord_05 {w : Word} (h : w.extractLsb' 26 6 = 5) : decodeWord w = decMajor05 w := by
  unfold decodeWord; rw [h]; rfl
theorem decodeWord_06 {w : Word} (h : w.extractLsb' 26 6 = 6) : decodeWord w = decMajor06 w := by
  unfold decodeWord; rw [h]; rfl
theorem decodeWord_07 {w : Word} (h : w.extractLsb' 26 6 = 7) : decodeWord w = decMajor07 w := by
  unfold decodeWord; rw [h]; rfl
theorem decodeWord_08 {w : Word} (h : w.extractLsb' 26 6 = 8) : decodeWord w = decMajor08 w := by
  unfold decodeWord; rw [h]; rfl
theorem decodeWord_09 {w : Word} (h : w.extractLsb' 26 6 = 9) : decodeWord w = decMajor09 w := by
  unfold decodeWord; rw [h]; rfl
theorem decodeWord_0a {w : Word} (h : w.extractLsb' 26 6 = 10) : decodeWord w = decMajor0a w := by
  unfold decodeWord; rw [h]; rfl
theorem decodeWord_0b {w : Word} (h : w.extractLsb' 26 6 = 11) : decodeWord w = decMajor0b w := by
  unfold decodeWord; rw [h]; rfl
theorem decodeWord_0c {w : Word} (h : w.extractLsb' 26 6 = 12) : decodeWord w = decMajor0c w := by
  unfold decodeWord; rw [h]; rfl
theorem decodeWord_0d {w : Word} (h : w.extractLsb' 26 6 = 13) : decodeWord w = decMajor0d w := by
  unfold decodeWord; rw [h]; rfl
theorem decodeWord_0e {w : Word} (h : w.extractLsb' 26 6 = 14) : decodeWord w = decMajor0e w := by
  unfold decodeWord; rw [h]; rfl
theorem decodeWord_0f {w : Word} (h : w.extractLsb' 26 6 = 15) : decodeWord w = decMajor0f w := by
  unfold decodeWord; rw [h]; rfl
theorem decodeWord_10 {w : Word} (h : w.extractLsb' 26 6 = 16) : decodeWord w = decMajor10 w := by
  unfold decodeWord; rw [h]; rfl
theorem decodeWord_11 {w : Word} (h : w.extractLsb' 26 6 = 17) : decodeWord w = decMajor11 w := by
  unfold decodeWord; rw [h]; rfl
theorem decodeWord_12 {w : Word} (h : w.extractLsb' 26 6 = 18) : decodeWord w = decMajor12 w := by
  unfold decodeWord; rw [h]; rfl
theorem decodeWord_13 {w : Word} (h : w.extractLsb' 26 6 = 19) : decodeWord w = decMajor13 w := by
  unfold decodeWord; rw [h]; rfl
theorem decodeWord_14 {w : Word} (h : w.extractLsb' 26 6 = 20) : decodeWord w = decMajor14 w := by
  unfold decodeWord; rw [h]; rfl
theorem decodeWord_15 {w : Word} (h : w.extractLsb' 26 6 = 21) : decodeWord w = decMajor15 w := by
  unfold decodeWord; rw [h]; rfl
theorem decodeWord_16 {w : Word} (h : w.extractLsb' 26 6 = 22) : decodeWord w = decMajor16 w := by
  unfold decodeWord; rw [h]; rfl
theorem decodeWord_17 {w : Word} (h : w.extractLsb' 26 6 = 23) : decodeWord w = decMajor17 w := by
  unfold decodeWord; rw [h]; rfl
theorem decodeWord_18 {w : Word} (h : w.extractLsb' 26 6 = 24) : decodeWord w = decMajor18 w := by
  unfold decodeWord; rw [h]; rfl
theorem decodeWord_19 {w : Word} (h : w.extractLsb' 26 6 = 25) : decodeWord w = decMajor19 w := by
  unfold decodeWord; rw [h]; rfl
theorem decodeWord_20 {w : Word} (h : w.extractLsb' 26 6 = 32) : decodeWord w = decMajor20 w := by
  unfold decodeWord; rw [h]; rfl
theorem decodeWord_21 {w : Word} (h : w.extractLsb' 26 6 = 33) : decodeWord w = decMajor21 w := by
  unfold decodeWord; rw [h]; rfl
theorem decodeWord_22 {w : Word} (h : w.extractLsb' 26 6 = 34) : decodeWord w = decMajor22 w := by
  unfold decodeWord; rw [h]; rfl
theorem decodeWord_23 {w : Word} (h : w.extractLsb' 26 6 = 35) : decodeWord w = decMajor23 w := by
  unfold decodeWord; rw [h]; rfl
theorem decodeWord_24 {w : Word} (h : w.extractLsb' 26 6 = 36) : decodeWord w = decMajor24 w := by
  unfold decodeWord; rw [h]; rfl
theorem decodeWord_25 {w : Word} (h : w.extractLsb' 26 6 = 37) : decodeWord w = decMajor25 w := by
  unfold decodeWord; rw [h]; rfl
theorem decodeWord_26 {w : Word} (h : w.extractLsb' 26 6 = 38) : decodeWord w = decMajor26 w := by
  unfold decodeWord; rw [h]; rfl
theorem decodeWord_27 {w : Word} (h : w.extractLsb' 26 6 = 39) : decodeWord w = decMajor27 w := by
  unfold decodeWord; rw [h]; rfl
theorem decodeWord_28 {w : Word} (h : w.extractLsb' 26 6 = 40) : decodeWord w = decMajor28 w := by
  unfold decodeWord; rw [h]; rfl
theorem decodeWord_29 {w : Word} (h : w.extractLsb' 26 6 = 41) : decodeWord w = decMajor29 w := by
  unfold decodeWord; rw [h]; rfl
theorem decodeWord_2a {w : Word} (h : w.extractLsb' 26 6 = 42) : decodeWord w = decMajor2a w := by
  unfold decodeWord; rw [h]; rfl
theorem decodeWord_2b {w : Word} (h : w.extractLsb' 26 6 = 43) : decodeWord w = decMajor2b w := by
  unfold decodeWord; rw [h]; rfl
theorem decodeWord_2c {w : Word} (h : w.extractLsb' 26 6 = 44) : decodeWord w = decMajor2c w := by
  unfold decodeWord; rw [h]; rfl
theorem decodeWord_2d {w : Word} (h : w.extractLsb' 26 6 = 45) : decodeWord w = decMajor2d w := by
  unfold decodeWord; rw [h]; rfl
theorem decodeWord_2e {w : Word} (h : w.extractLsb' 26 6 = 46) : decodeWord w = decMajor2e w := by
  unfold decodeWord; rw [h]; rfl
theorem decodeWord_2f {w : Word} (h : w.extractLsb' 26 6 = 47) : decodeWord w = decMajor2f w := by
  unfold decodeWord; rw [h]; rfl
theorem decodeWord_30 {w : Word} (h : w.extractLsb' 26 6 = 48) : decodeWord w = decMajor30 w := by
  unfold decodeWord; rw [h]; rfl
theorem decodeWord_31 {w : Word} (h : w.extractLsb' 26 6 = 49) : decodeWord w = decMajor31 w := by
  unfold decodeWord; rw [h]; rfl
theorem decodeWord_32 {w : Word} (h : w.extractLsb' 26 6 = 50) : decodeWord w = decMajor32 w := by
  unfold decodeWord; rw [h]; rfl
theorem decodeWord_33 {w : Word} (h : w.extractLsb' 26 6 = 51) : decodeWord w = decMajor33 w := by
  unfold decodeWord; rw [h]; rfl
theorem decodeWord_34 {w : Word} (h : w.extractLsb' 26 6 = 52) : decodeWord w = decMajor34 w := by
  unfold decodeWord; rw [h]; rfl
theorem decodeWord_36 {w : Word} (h : w.extractLsb' 26 6 = 54) : decodeWord w = decMajor36 w := by
  unfold decodeWord; rw [h]; rfl
theorem decodeWord_37 {w : Word} (h : w.extractLsb' 26 6 = 55) : decodeWord w = decMajor37 w := by
  unfold decodeWord; rw [h]; rfl
theorem decodeWord_38 {w : Word} (h : w.extractLsb' 26 6 = 56) : decodeWord w = decMajor38 w := by
  unfold decodeWord; rw [h]; rfl
theorem decodeWord_39 {w : Word} (h : w.extractLsb' 26 6 = 57) : decodeWord w = decMajor39 w := by
  unfold decodeWord; rw [h]; rfl
theorem decodeWord_3a {w : Word} (h : w.extractLsb' 26 6 = 58) : decodeWord w = decMajor3a w := by
  unfold decodeWord; rw [h]; rfl

/-! ## Whole instructions -/

/-- A word is spelled by its four bytes (R3). -/
theorem wordOfBytes_wordBytes (w : Word) :
    wordOfBytes (w.extractLsb' 0 8) (w.extractLsb' 8 8) (w.extractLsb' 16 8) (w.extractLsb' 24 8) = w := by
  apply BitVec.eq_of_toNat_eq
  have h : (wordOfBytes (w.extractLsb' 0 8) (w.extractLsb' 8 8) (w.extractLsb' 16 8) (w.extractLsb' 24 8)).toNat =
    (w.extractLsb' 24 8 ++ w.extractLsb' 16 8 ++ w.extractLsb' 8 8 ++ w.extractLsb' 0 8).toNat := rfl
  rw [h]
  simp only [append_toNat, BitVec.extractLsb'_toNat, Nat.shiftRight_eq_div_pow]
  have := w.isLt
  omega

/-- An instruction of one word decodes as its word does. -/
theorem decode_of_word {i : Instr} {w : Word} (he : encode i = [w]) (hm : w.extractLsb' 26 6 ≠ 63) (hd : decodeWord w = .ok i)
    (rest : List Byte) : decode (encodeBytes i ++ rest) = .ok (i, rest) := by
  have hb : encodeBytes i = wordBytes w := by simp [encodeBytes, he]
  rw [hb]
  simp only [wordBytes, List.cons_append, List.nil_append, decode, wordOfBytes_wordBytes, hm, if_false, hd]

/-- A long-immediate group decodes to its immediate and its word (R142). -/
theorem decode_liw (imm w : Word) (rest : List Byte) :
    decode (encodeBytes (.liw imm w) ++ rest) = .ok (.liw imm w, rest) := by
  simp only [encodeBytes, encode, List.flatMap_cons, List.flatMap_nil, wordBytes, List.cons_append, List.nil_append, decode,
    wordOfBytes_wordBytes]
  rfl

/-! ## Words of collective steps (R328) -/

theorem wStep_toNat (op : BitVec 4) (f : StepFields) :
    (wStep op f).toNat = (((((((((((op.toNat * 4 + f.pm.toNat) * 4194304 + f.pv.toNat) * 8 + f.sbuf.toNat) * 8 + f.dbuf.toNat) * 4
      + f.ca.toNat) * 4 + f.cl.toNat) * 4 + f.lc.toNat) * 256 + f.coff.toNat) * 8 + f.rop.toNat) * 2 + f.par.toNat) * 2
      + f.ns.toNat) * 2048 := by
  have h : (wStep op f).toNat = (op ++ f.pm ++ f.pv ++ f.sbuf ++ f.dbuf ++ f.ca ++ f.cl ++ f.lc ++ f.coff ++ f.rop ++ f.par
    ++ f.ns ++ (0 : BitVec 11)).toNat := rfl
  rw [h]; simp only [append_toNat, BitVec.ofNat_eq_ofNat, BitVec.toNat_ofNat]; norm_num

theorem wStep_op (op : BitVec 4) (f : StepFields) : (wStep op f).extractLsb' 60 4 = op := by
  have := op.isLt; have := f.pm.isLt; have := f.pv.isLt; have := f.sbuf.isLt; have := f.dbuf.isLt; have := f.ca.isLt
  have := f.cl.isLt; have := f.lc.isLt; have := f.coff.isLt; have := f.rop.isLt; have := f.par.isLt; have := f.ns.isLt
  exact field_eq _ _ _ (by rw [wStep_toNat]; omega)

theorem wStep_fields (op : BitVec 4) (f : StepFields) : stepFields (wStep op f) = f := by
  have := op.isLt; have := f.pm.isLt; have := f.pv.isLt; have := f.sbuf.isLt; have := f.dbuf.isLt; have := f.ca.isLt
  have := f.cl.isLt; have := f.lc.isLt; have := f.coff.isLt; have := f.rop.isLt; have := f.par.isLt; have := f.ns.isLt
  unfold stepFields
  congr 1 <;> exact field_eq _ _ _ (by rw [wStep_toNat]; omega)

theorem wStep_low (op : BitVec 4) (f : StepFields) : (wStep op f).toNat % 2 ^ 11 = 0 := by
  rw [wStep_toNat]; omega

/-! ## Checks -/

theorem okSels_one {v : BitVec 6} (h : v.toNat < 36) : okSels [v] = .ok () := by simp [okSels, h]
theorem okSels_two {v w : BitVec 6} (h : v.toNat < 36) (k : w.toNat < 36) : okSels [v, w] = .ok () := by simp [okSels, h, k]

/-- TAKE and GIVE bits that a queue admits (R150). -/
theorem token_lq (t g : BitVec 2) : tokenErr ((0 : BitVec 1) ++ t) ((0 : BitVec 1) ++ g) .lq = none := by
  revert t g; decide
theorem token_mq (t g : BitVec 2) : tokenErr ((0 : BitVec 1) ++ t) ((0 : BitVec 1) ++ g) .mq = none := by
  revert t g; decide
theorem token_vq (t : BitVec 2) (g : BitVec 3) : tokenErr ((0 : BitVec 1) ++ t) g .vq = none := by
  revert t g; decide
theorem token_sq (t : BitVec 2) (g : BitVec 1) : tokenErr ((0 : BitVec 1) ++ t) ((0 : BitVec 2) ++ g) .sq = none := by
  revert t g; decide

end Sys2Proof
end

