-- ==== Sys2Proof/Laws/PerInstr.lean ====
section
/-! SUPPORT. The family Encoding: for every well-formed instruction, the decoder reads from its encoding the instruction itself
(R138 to R154, R328, R333), one lemma per constructor of Instr. -/

section

set_option Elab.async false

namespace Sys2Proof.Laws.Encoding

/-- The words of a well-formed instruction that a CC fetches decode to it and leave what stands behind them; the word of a
step of a collective program with admitted fields decodes to it. -/
def Statement (i : Instr) : Prop :=
  wellFormed i = true →
    (Machine.isWord i = true → ∀ rest, decode (encodeBytes i ++ rest) = .ok (i, rest)) ∧
    (stepOk i = true → ∀ v, encodeStep i = some v → ∃ cl ln, decodeStep cl ln v = .ok i)

/-- A step of the part has no encoding. -/
theorem of_event {i : Instr} (h : Machine.isWord i = false) (hs : encodeStep i = none) : Statement i := by
  intro _
  exact ⟨fun hw => (by rw [h] at hw; cases hw), fun _ v hv => (by rw [hs] at hv; cases hv)⟩

/-- An instruction of one word. -/
theorem of_word {i : Instr} {w : Word} (he : encode i = [w]) (hm : w.extractLsb' 26 6 ≠ 63)
    (hd : wellFormed i = true → decodeWord w = .ok i) (hs : encodeStep i = none) : Statement i := by
  intro hw
  exact ⟨fun _ rest => decode_of_word he hm (hd hw) rest, fun _ v hv => (by rw [hs] at hv; cases hv)⟩

theorem add (d : BitVec 5) (n : BitVec 1) (a : BitVec 6) (b : BitVec 6) : Statement (.add d n a b) := by
  refine of_word (w := wRR 0 d n a b 0) rfl (by rw [wRR_m]; decide) (fun hw => ?_) rfl
  replace hw : (selOk a && selOk b) = true := hw
  simp only [selOk, Bool.and_eq_true, decide_eq_true_eq] at hw
  rw [decodeWord_00 (wRR_m ..), decMajor00, wRR_f]
  change (fun w : Word => chk [w.extractLsb' 14 6, w.extractLsb' 8 6] [] (.add (w.extractLsb' 21 5) (w.extractLsb' 20 1) (w.extractLsb' 14 6) (w.extractLsb' 8 6))) (wRR 0 d n a b 0) = _
  simp only [wRR_a, wRR_b, wRR_d, wRR_n, chk, okSels, okZeros, hw, if_true]

theorem sub (d : BitVec 5) (n : BitVec 1) (a : BitVec 6) (b : BitVec 6) : Statement (.sub d n a b) := by
  refine of_word (w := wRR 0 d n a b 1) rfl (by rw [wRR_m]; decide) (fun hw => ?_) rfl
  replace hw : (selOk a && selOk b) = true := hw
  simp only [selOk, Bool.and_eq_true, decide_eq_true_eq] at hw
  rw [decodeWord_00 (wRR_m ..), decMajor00, wRR_f]
  change (fun w : Word => chk [w.extractLsb' 14 6, w.extractLsb' 8 6] [] (.sub (w.extractLsb' 21 5) (w.extractLsb' 20 1) (w.extractLsb' 14 6) (w.extractLsb' 8 6))) (wRR 0 d n a b 1) = _
  simp only [wRR_a, wRR_b, wRR_d, wRR_n, chk, okSels, okZeros, hw, if_true]

theorem and (d : BitVec 5) (n : BitVec 1) (a : BitVec 6) (b : BitVec 6) : Statement (.and d n a b) := by
  refine of_word (w := wRR 0 d n a b 2) rfl (by rw [wRR_m]; decide) (fun hw => ?_) rfl
  replace hw : (selOk a && selOk b) = true := hw
  simp only [selOk, Bool.and_eq_true, decide_eq_true_eq] at hw
  rw [decodeWord_00 (wRR_m ..), decMajor00, wRR_f]
  change (fun w : Word => chk [w.extractLsb' 14 6, w.extractLsb' 8 6] [] (.and (w.extractLsb' 21 5) (w.extractLsb' 20 1) (w.extractLsb' 14 6) (w.extractLsb' 8 6))) (wRR 0 d n a b 2) = _
  simp only [wRR_a, wRR_b, wRR_d, wRR_n, chk, okSels, okZeros, hw, if_true]

theorem or (d : BitVec 5) (n : BitVec 1) (a : BitVec 6) (b : BitVec 6) : Statement (.or d n a b) := by
  refine of_word (w := wRR 0 d n a b 3) rfl (by rw [wRR_m]; decide) (fun hw => ?_) rfl
  replace hw : (selOk a && selOk b) = true := hw
  simp only [selOk, Bool.and_eq_true, decide_eq_true_eq] at hw
  rw [decodeWord_00 (wRR_m ..), decMajor00, wRR_f]
  change (fun w : Word => chk [w.extractLsb' 14 6, w.extractLsb' 8 6] [] (.or (w.extractLsb' 21 5) (w.extractLsb' 20 1) (w.extractLsb' 14 6) (w.extractLsb' 8 6))) (wRR 0 d n a b 3) = _
  simp only [wRR_a, wRR_b, wRR_d, wRR_n, chk, okSels, okZeros, hw, if_true]

theorem xor (d : BitVec 5) (n : BitVec 1) (a : BitVec 6) (b : BitVec 6) : Statement (.xor d n a b) := by
  refine of_word (w := wRR 0 d n a b 4) rfl (by rw [wRR_m]; decide) (fun hw => ?_) rfl
  replace hw : (selOk a && selOk b) = true := hw
  simp only [selOk, Bool.and_eq_true, decide_eq_true_eq] at hw
  rw [decodeWord_00 (wRR_m ..), decMajor00, wRR_f]
  change (fun w : Word => chk [w.extractLsb' 14 6, w.extractLsb' 8 6] [] (.xor (w.extractLsb' 21 5) (w.extractLsb' 20 1) (w.extractLsb' 14 6) (w.extractLsb' 8 6))) (wRR 0 d n a b 4) = _
  simp only [wRR_a, wRR_b, wRR_d, wRR_n, chk, okSels, okZeros, hw, if_true]

theorem andn (d : BitVec 5) (n : BitVec 1) (a : BitVec 6) (b : BitVec 6) : Statement (.andn d n a b) := by
  refine of_word (w := wRR 0 d n a b 5) rfl (by rw [wRR_m]; decide) (fun hw => ?_) rfl
  replace hw : (selOk a && selOk b) = true := hw
  simp only [selOk, Bool.and_eq_true, decide_eq_true_eq] at hw
  rw [decodeWord_00 (wRR_m ..), decMajor00, wRR_f]
  change (fun w : Word => chk [w.extractLsb' 14 6, w.extractLsb' 8 6] [] (.andn (w.extractLsb' 21 5) (w.extractLsb' 20 1) (w.extractLsb' 14 6) (w.extractLsb' 8 6))) (wRR 0 d n a b 5) = _
  simp only [wRR_a, wRR_b, wRR_d, wRR_n, chk, okSels, okZeros, hw, if_true]

theorem orn (d : BitVec 5) (n : BitVec 1) (a : BitVec 6) (b : BitVec 6) : Statement (.orn d n a b) := by
  refine of_word (w := wRR 0 d n a b 6) rfl (by rw [wRR_m]; decide) (fun hw => ?_) rfl
  replace hw : (selOk a && selOk b) = true := hw
  simp only [selOk, Bool.and_eq_true, decide_eq_true_eq] at hw
  rw [decodeWord_00 (wRR_m ..), decMajor00, wRR_f]
  change (fun w : Word => chk [w.extractLsb' 14 6, w.extractLsb' 8 6] [] (.orn (w.extractLsb' 21 5) (w.extractLsb' 20 1) (w.extractLsb' 14 6) (w.extractLsb' 8 6))) (wRR 0 d n a b 6) = _
  simp only [wRR_a, wRR_b, wRR_d, wRR_n, chk, okSels, okZeros, hw, if_true]

theorem shl (d : BitVec 5) (n : BitVec 1) (a : BitVec 6) (b : BitVec 6) : Statement (.shl d n a b) := by
  refine of_word (w := wRR 0 d n a b 7) rfl (by rw [wRR_m]; decide) (fun hw => ?_) rfl
  replace hw : (selOk a && selOk b) = true := hw
  simp only [selOk, Bool.and_eq_true, decide_eq_true_eq] at hw
  rw [decodeWord_00 (wRR_m ..), decMajor00, wRR_f]
  change (fun w : Word => chk [w.extractLsb' 14 6, w.extractLsb' 8 6] [] (.shl (w.extractLsb' 21 5) (w.extractLsb' 20 1) (w.extractLsb' 14 6) (w.extractLsb' 8 6))) (wRR 0 d n a b 7) = _
  simp only [wRR_a, wRR_b, wRR_d, wRR_n, chk, okSels, okZeros, hw, if_true]

theorem shr (d : BitVec 5) (n : BitVec 1) (a : BitVec 6) (b : BitVec 6) : Statement (.shr d n a b) := by
  refine of_word (w := wRR 0 d n a b 8) rfl (by rw [wRR_m]; decide) (fun hw => ?_) rfl
  replace hw : (selOk a && selOk b) = true := hw
  simp only [selOk, Bool.and_eq_true, decide_eq_true_eq] at hw
  rw [decodeWord_00 (wRR_m ..), decMajor00, wRR_f]
  change (fun w : Word => chk [w.extractLsb' 14 6, w.extractLsb' 8 6] [] (.shr (w.extractLsb' 21 5) (w.extractLsb' 20 1) (w.extractLsb' 14 6) (w.extractLsb' 8 6))) (wRR 0 d n a b 8) = _
  simp only [wRR_a, wRR_b, wRR_d, wRR_n, chk, okSels, okZeros, hw, if_true]

theorem sar (d : BitVec 5) (n : BitVec 1) (a : BitVec 6) (b : BitVec 6) : Statement (.sar d n a b) := by
  refine of_word (w := wRR 0 d n a b 9) rfl (by rw [wRR_m]; decide) (fun hw => ?_) rfl
  replace hw : (selOk a && selOk b) = true := hw
  simp only [selOk, Bool.and_eq_true, decide_eq_true_eq] at hw
  rw [decodeWord_00 (wRR_m ..), decMajor00, wRR_f]
  change (fun w : Word => chk [w.extractLsb' 14 6, w.extractLsb' 8 6] [] (.sar (w.extractLsb' 21 5) (w.extractLsb' 20 1) (w.extractLsb' 14 6) (w.extractLsb' 8 6))) (wRR 0 d n a b 9) = _
  simp only [wRR_a, wRR_b, wRR_d, wRR_n, chk, okSels, okZeros, hw, if_true]

theorem rol (d : BitVec 5) (n : BitVec 1) (a : BitVec 6) (b : BitVec 6) : Statement (.rol d n a b) := by
  refine of_word (w := wRR 0 d n a b 10) rfl (by rw [wRR_m]; decide) (fun hw => ?_) rfl
  replace hw : (selOk a && selOk b) = true := hw
  simp only [selOk, Bool.and_eq_true, decide_eq_true_eq] at hw
  rw [decodeWord_00 (wRR_m ..), decMajor00, wRR_f]
  change (fun w : Word => chk [w.extractLsb' 14 6, w.extractLsb' 8 6] [] (.rol (w.extractLsb' 21 5) (w.extractLsb' 20 1) (w.extractLsb' 14 6) (w.extractLsb' 8 6))) (wRR 0 d n a b 10) = _
  simp only [wRR_a, wRR_b, wRR_d, wRR_n, chk, okSels, okZeros, hw, if_true]

theorem min (d : BitVec 5) (n : BitVec 1) (a : BitVec 6) (b : BitVec 6) : Statement (.min d n a b) := by
  refine of_word (w := wRR 0 d n a b 11) rfl (by rw [wRR_m]; decide) (fun hw => ?_) rfl
  replace hw : (selOk a && selOk b) = true := hw
  simp only [selOk, Bool.and_eq_true, decide_eq_true_eq] at hw
  rw [decodeWord_00 (wRR_m ..), decMajor00, wRR_f]
  change (fun w : Word => chk [w.extractLsb' 14 6, w.extractLsb' 8 6] [] (.min (w.extractLsb' 21 5) (w.extractLsb' 20 1) (w.extractLsb' 14 6) (w.extractLsb' 8 6))) (wRR 0 d n a b 11) = _
  simp only [wRR_a, wRR_b, wRR_d, wRR_n, chk, okSels, okZeros, hw, if_true]

theorem max (d : BitVec 5) (n : BitVec 1) (a : BitVec 6) (b : BitVec 6) : Statement (.max d n a b) := by
  refine of_word (w := wRR 0 d n a b 12) rfl (by rw [wRR_m]; decide) (fun hw => ?_) rfl
  replace hw : (selOk a && selOk b) = true := hw
  simp only [selOk, Bool.and_eq_true, decide_eq_true_eq] at hw
  rw [decodeWord_00 (wRR_m ..), decMajor00, wRR_f]
  change (fun w : Word => chk [w.extractLsb' 14 6, w.extractLsb' 8 6] [] (.max (w.extractLsb' 21 5) (w.extractLsb' 20 1) (w.extractLsb' 14 6) (w.extractLsb' 8 6))) (wRR 0 d n a b 12) = _
  simp only [wRR_a, wRR_b, wRR_d, wRR_n, chk, okSels, okZeros, hw, if_true]

theorem minn (d : BitVec 5) (n : BitVec 1) (a : BitVec 6) (b : BitVec 6) : Statement (.minn d n a b) := by
  refine of_word (w := wRR 0 d n a b 13) rfl (by rw [wRR_m]; decide) (fun hw => ?_) rfl
  replace hw : (selOk a && selOk b) = true := hw
  simp only [selOk, Bool.and_eq_true, decide_eq_true_eq] at hw
  rw [decodeWord_00 (wRR_m ..), decMajor00, wRR_f]
  change (fun w : Word => chk [w.extractLsb' 14 6, w.extractLsb' 8 6] [] (.minn (w.extractLsb' 21 5) (w.extractLsb' 20 1) (w.extractLsb' 14 6) (w.extractLsb' 8 6))) (wRR 0 d n a b 13) = _
  simp only [wRR_a, wRR_b, wRR_d, wRR_n, chk, okSels, okZeros, hw, if_true]

theorem maxn (d : BitVec 5) (n : BitVec 1) (a : BitVec 6) (b : BitVec 6) : Statement (.maxn d n a b) := by
  refine of_word (w := wRR 0 d n a b 14) rfl (by rw [wRR_m]; decide) (fun hw => ?_) rfl
  replace hw : (selOk a && selOk b) = true := hw
  simp only [selOk, Bool.and_eq_true, decide_eq_true_eq] at hw
  rw [decodeWord_00 (wRR_m ..), decMajor00, wRR_f]
  change (fun w : Word => chk [w.extractLsb' 14 6, w.extractLsb' 8 6] [] (.maxn (w.extractLsb' 21 5) (w.extractLsb' 20 1) (w.extractLsb' 14 6) (w.extractLsb' 8 6))) (wRR 0 d n a b 14) = _
  simp only [wRR_a, wRR_b, wRR_d, wRR_n, chk, okSels, okZeros, hw, if_true]

theorem seq (d : BitVec 5) (n : BitVec 1) (a : BitVec 6) (b : BitVec 6) : Statement (.seq d n a b) := by
  refine of_word (w := wRR 0 d n a b 15) rfl (by rw [wRR_m]; decide) (fun hw => ?_) rfl
  replace hw : (selOk a && selOk b) = true := hw
  simp only [selOk, Bool.and_eq_true, decide_eq_true_eq] at hw
  rw [decodeWord_00 (wRR_m ..), decMajor00, wRR_f]
  change (fun w : Word => chk [w.extractLsb' 14 6, w.extractLsb' 8 6] [] (.seq (w.extractLsb' 21 5) (w.extractLsb' 20 1) (w.extractLsb' 14 6) (w.extractLsb' 8 6))) (wRR 0 d n a b 15) = _
  simp only [wRR_a, wRR_b, wRR_d, wRR_n, chk, okSels, okZeros, hw, if_true]

theorem sne (d : BitVec 5) (n : BitVec 1) (a : BitVec 6) (b : BitVec 6) : Statement (.sne d n a b) := by
  refine of_word (w := wRR 0 d n a b 16) rfl (by rw [wRR_m]; decide) (fun hw => ?_) rfl
  replace hw : (selOk a && selOk b) = true := hw
  simp only [selOk, Bool.and_eq_true, decide_eq_true_eq] at hw
  rw [decodeWord_00 (wRR_m ..), decMajor00, wRR_f]
  change (fun w : Word => chk [w.extractLsb' 14 6, w.extractLsb' 8 6] [] (.sne (w.extractLsb' 21 5) (w.extractLsb' 20 1) (w.extractLsb' 14 6) (w.extractLsb' 8 6))) (wRR 0 d n a b 16) = _
  simp only [wRR_a, wRR_b, wRR_d, wRR_n, chk, okSels, okZeros, hw, if_true]

theorem slt (d : BitVec 5) (n : BitVec 1) (a : BitVec 6) (b : BitVec 6) : Statement (.slt d n a b) := by
  refine of_word (w := wRR 0 d n a b 17) rfl (by rw [wRR_m]; decide) (fun hw => ?_) rfl
  replace hw : (selOk a && selOk b) = true := hw
  simp only [selOk, Bool.and_eq_true, decide_eq_true_eq] at hw
  rw [decodeWord_00 (wRR_m ..), decMajor00, wRR_f]
  change (fun w : Word => chk [w.extractLsb' 14 6, w.extractLsb' 8 6] [] (.slt (w.extractLsb' 21 5) (w.extractLsb' 20 1) (w.extractLsb' 14 6) (w.extractLsb' 8 6))) (wRR 0 d n a b 17) = _
  simp only [wRR_a, wRR_b, wRR_d, wRR_n, chk, okSels, okZeros, hw, if_true]

theorem sltn (d : BitVec 5) (n : BitVec 1) (a : BitVec 6) (b : BitVec 6) : Statement (.sltn d n a b) := by
  refine of_word (w := wRR 0 d n a b 18) rfl (by rw [wRR_m]; decide) (fun hw => ?_) rfl
  replace hw : (selOk a && selOk b) = true := hw
  simp only [selOk, Bool.and_eq_true, decide_eq_true_eq] at hw
  rw [decodeWord_00 (wRR_m ..), decMajor00, wRR_f]
  change (fun w : Word => chk [w.extractLsb' 14 6, w.extractLsb' 8 6] [] (.sltn (w.extractLsb' 21 5) (w.extractLsb' 20 1) (w.extractLsb' 14 6) (w.extractLsb' 8 6))) (wRR 0 d n a b 18) = _
  simp only [wRR_a, wRR_b, wRR_d, wRR_n, chk, okSels, okZeros, hw, if_true]

theorem sle (d : BitVec 5) (n : BitVec 1) (a : BitVec 6) (b : BitVec 6) : Statement (.sle d n a b) := by
  refine of_word (w := wRR 0 d n a b 19) rfl (by rw [wRR_m]; decide) (fun hw => ?_) rfl
  replace hw : (selOk a && selOk b) = true := hw
  simp only [selOk, Bool.and_eq_true, decide_eq_true_eq] at hw
  rw [decodeWord_00 (wRR_m ..), decMajor00, wRR_f]
  change (fun w : Word => chk [w.extractLsb' 14 6, w.extractLsb' 8 6] [] (.sle (w.extractLsb' 21 5) (w.extractLsb' 20 1) (w.extractLsb' 14 6) (w.extractLsb' 8 6))) (wRR 0 d n a b 19) = _
  simp only [wRR_a, wRR_b, wRR_d, wRR_n, chk, okSels, okZeros, hw, if_true]

theorem slen (d : BitVec 5) (n : BitVec 1) (a : BitVec 6) (b : BitVec 6) : Statement (.slen d n a b) := by
  refine of_word (w := wRR 0 d n a b 20) rfl (by rw [wRR_m]; decide) (fun hw => ?_) rfl
  replace hw : (selOk a && selOk b) = true := hw
  simp only [selOk, Bool.and_eq_true, decide_eq_true_eq] at hw
  rw [decodeWord_00 (wRR_m ..), decMajor00, wRR_f]
  change (fun w : Word => chk [w.extractLsb' 14 6, w.extractLsb' 8 6] [] (.slen (w.extractLsb' 21 5) (w.extractLsb' 20 1) (w.extractLsb' 14 6) (w.extractLsb' 8 6))) (wRR 0 d n a b 20) = _
  simp only [wRR_a, wRR_b, wRR_d, wRR_n, chk, okSels, okZeros, hw, if_true]

theorem clz (d : BitVec 5) (n : BitVec 1) (a : BitVec 6) : Statement (.clz d n a) := by
  refine of_word (w := wRR 0 d n a 0 21) rfl (by rw [wRR_m]; decide) (fun hw => ?_) rfl
  replace hw : (selOk a) = true := hw
  simp only [selOk, decide_eq_true_eq] at hw
  rw [decodeWord_00 (wRR_m ..), decMajor00, wRR_f]
  change (fun w : Word => chk [w.extractLsb' 14 6] [zf w 8 6 false] (.clz (w.extractLsb' 21 5) (w.extractLsb' 20 1) (w.extractLsb' 14 6))) (wRR 0 d n a 0 21) = _
  simp only [wRR_a, wRR_b, wRR_d, wRR_n, chk, okSels, okZeros, zf, hw, if_true]
  rfl

theorem ctz (d : BitVec 5) (n : BitVec 1) (a : BitVec 6) : Statement (.ctz d n a) := by
  refine of_word (w := wRR 0 d n a 0 22) rfl (by rw [wRR_m]; decide) (fun hw => ?_) rfl
  replace hw : (selOk a) = true := hw
  simp only [selOk, decide_eq_true_eq] at hw
  rw [decodeWord_00 (wRR_m ..), decMajor00, wRR_f]
  change (fun w : Word => chk [w.extractLsb' 14 6] [zf w 8 6 false] (.ctz (w.extractLsb' 21 5) (w.extractLsb' 20 1) (w.extractLsb' 14 6))) (wRR 0 d n a 0 22) = _
  simp only [wRR_a, wRR_b, wRR_d, wRR_n, chk, okSels, okZeros, zf, hw, if_true]
  rfl

theorem popc (d : BitVec 5) (n : BitVec 1) (a : BitVec 6) : Statement (.popc d n a) := by
  refine of_word (w := wRR 0 d n a 0 23) rfl (by rw [wRR_m]; decide) (fun hw => ?_) rfl
  replace hw : (selOk a) = true := hw
  simp only [selOk, decide_eq_true_eq] at hw
  rw [decodeWord_00 (wRR_m ..), decMajor00, wRR_f]
  change (fun w : Word => chk [w.extractLsb' 14 6] [zf w 8 6 false] (.popc (w.extractLsb' 21 5) (w.extractLsb' 20 1) (w.extractLsb' 14 6))) (wRR 0 d n a 0 23) = _
  simp only [wRR_a, wRR_b, wRR_d, wRR_n, chk, okSels, okZeros, zf, hw, if_true]
  rfl

theorem addi (d : BitVec 5) (n : BitVec 1) (a : BitVec 6) (i : BitVec 14) : Statement (.addi d n a i) := by
  refine of_word (w := wRI 1 d n a i) rfl (by rw [wRI_m]; decide) (fun hw => ?_) rfl
  replace hw : (selOk a) = true := hw
  simp only [selOk, decide_eq_true_eq] at hw
  rw [decodeWord_01 (wRI_m ..)]
  simp only [decMajor01, wRI_a, wRI_d, wRI_n, wRI_i, chk, okSels, okZeros, hw, if_true]

theorem andi (d : BitVec 5) (n : BitVec 1) (a : BitVec 6) (i : BitVec 14) : Statement (.andi d n a i) := by
  refine of_word (w := wRI 2 d n a i) rfl (by rw [wRI_m]; decide) (fun hw => ?_) rfl
  replace hw : (selOk a) = true := hw
  simp only [selOk, decide_eq_true_eq] at hw
  rw [decodeWord_02 (wRI_m ..)]
  simp only [decMajor02, wRI_a, wRI_d, wRI_n, wRI_i, chk, okSels, okZeros, hw, if_true]

theorem ori (d : BitVec 5) (n : BitVec 1) (a : BitVec 6) (i : BitVec 14) : Statement (.ori d n a i) := by
  refine of_word (w := wRI 3 d n a i) rfl (by rw [wRI_m]; decide) (fun hw => ?_) rfl
  replace hw : (selOk a) = true := hw
  simp only [selOk, decide_eq_true_eq] at hw
  rw [decodeWord_03 (wRI_m ..)]
  simp only [decMajor03, wRI_a, wRI_d, wRI_n, wRI_i, chk, okSels, okZeros, hw, if_true]

theorem xori (d : BitVec 5) (n : BitVec 1) (a : BitVec 6) (i : BitVec 14) : Statement (.xori d n a i) := by
  refine of_word (w := wRI 4 d n a i) rfl (by rw [wRI_m]; decide) (fun hw => ?_) rfl
  replace hw : (selOk a) = true := hw
  simp only [selOk, decide_eq_true_eq] at hw
  rw [decodeWord_04 (wRI_m ..)]
  simp only [decMajor04, wRI_a, wRI_d, wRI_n, wRI_i, chk, okSels, okZeros, hw, if_true]

theorem shli (d : BitVec 5) (n : BitVec 1) (a : BitVec 6) (s : BitVec 6) : Statement (.shli d n a s) := by
  refine of_word (w := wRI 5 d n a ((0 : BitVec 8) ++ s)) rfl (by rw [wRI_m]; decide) (fun hw => ?_) rfl
  replace hw : (selOk a) = true := hw
  simp only [selOk, decide_eq_true_eq] at hw
  have := d.isLt; have := n.isLt; have := a.isLt; have := s.isLt
  have e0 : (wRI 5 d n a ((0 : BitVec 8) ++ s)).extractLsb' 12 2 = 0 := field_eq _ _ _ (by
    rw [wRI_toNat]; simp only [append_toNat, BitVec.ofNat_eq_ofNat, BitVec.toNat_ofNat]; omega)
  have e2 : (wRI 5 d n a ((0 : BitVec 8) ++ s)).extractLsb' 6 6 = 0 := field_eq _ _ _ (by
    rw [wRI_toNat]; simp only [append_toNat, BitVec.ofNat_eq_ofNat, BitVec.toNat_ofNat]; omega)
  have e5 : (wRI 5 d n a ((0 : BitVec 8) ++ s)).extractLsb' 0 6 = s := field_eq _ _ _ (by
    rw [wRI_toNat]; simp only [append_toNat, BitVec.ofNat_eq_ofNat, BitVec.toNat_ofNat]; omega)
  rw [decodeWord_05 (wRI_m ..), decMajor05, e0]
  change (fun w : Word => chk [w.extractLsb' 14 6] [zf w 6 6 false] (.shli (w.extractLsb' 21 5) (w.extractLsb' 20 1) (w.extractLsb' 14 6) (w.extractLsb' 0 6))) (wRI 5 d n a ((0 : BitVec 8) ++ s)) = _
  simp only [wRI_a, wRI_d, wRI_n, e2, e5, chk, okSels, okZeros, zf, hw, if_true]
  rfl

theorem shri (d : BitVec 5) (n : BitVec 1) (a : BitVec 6) (s : BitVec 6) : Statement (.shri d n a s) := by
  refine of_word (w := wRI 5 d n a ((64 : BitVec 8) ++ s)) rfl (by rw [wRI_m]; decide) (fun hw => ?_) rfl
  replace hw : (selOk a) = true := hw
  simp only [selOk, decide_eq_true_eq] at hw
  have := d.isLt; have := n.isLt; have := a.isLt; have := s.isLt
  have e0 : (wRI 5 d n a ((64 : BitVec 8) ++ s)).extractLsb' 12 2 = 1 := field_eq _ _ _ (by
    rw [wRI_toNat]; simp only [append_toNat, BitVec.ofNat_eq_ofNat, BitVec.toNat_ofNat]; omega)
  have e2 : (wRI 5 d n a ((64 : BitVec 8) ++ s)).extractLsb' 6 6 = 0 := field_eq _ _ _ (by
    rw [wRI_toNat]; simp only [append_toNat, BitVec.ofNat_eq_ofNat, BitVec.toNat_ofNat]; omega)
  have e5 : (wRI 5 d n a ((64 : BitVec 8) ++ s)).extractLsb' 0 6 = s := field_eq _ _ _ (by
    rw [wRI_toNat]; simp only [append_toNat, BitVec.ofNat_eq_ofNat, BitVec.toNat_ofNat]; omega)
  rw [decodeWord_05 (wRI_m ..), decMajor05, e0]
  change (fun w : Word => chk [w.extractLsb' 14 6] [zf w 6 6 false] (.shri (w.extractLsb' 21 5) (w.extractLsb' 20 1) (w.extractLsb' 14 6) (w.extractLsb' 0 6))) (wRI 5 d n a ((64 : BitVec 8) ++ s)) = _
  simp only [wRI_a, wRI_d, wRI_n, e2, e5, chk, okSels, okZeros, zf, hw, if_true]
  rfl

theorem sari (d : BitVec 5) (n : BitVec 1) (a : BitVec 6) (s : BitVec 6) : Statement (.sari d n a s) := by
  refine of_word (w := wRI 5 d n a ((128 : BitVec 8) ++ s)) rfl (by rw [wRI_m]; decide) (fun hw => ?_) rfl
  replace hw : (selOk a) = true := hw
  simp only [selOk, decide_eq_true_eq] at hw
  have := d.isLt; have := n.isLt; have := a.isLt; have := s.isLt
  have e0 : (wRI 5 d n a ((128 : BitVec 8) ++ s)).extractLsb' 12 2 = 2 := field_eq _ _ _ (by
    rw [wRI_toNat]; simp only [append_toNat, BitVec.ofNat_eq_ofNat, BitVec.toNat_ofNat]; omega)
  have e2 : (wRI 5 d n a ((128 : BitVec 8) ++ s)).extractLsb' 6 6 = 0 := field_eq _ _ _ (by
    rw [wRI_toNat]; simp only [append_toNat, BitVec.ofNat_eq_ofNat, BitVec.toNat_ofNat]; omega)
  have e5 : (wRI 5 d n a ((128 : BitVec 8) ++ s)).extractLsb' 0 6 = s := field_eq _ _ _ (by
    rw [wRI_toNat]; simp only [append_toNat, BitVec.ofNat_eq_ofNat, BitVec.toNat_ofNat]; omega)
  rw [decodeWord_05 (wRI_m ..), decMajor05, e0]
  change (fun w : Word => chk [w.extractLsb' 14 6] [zf w 6 6 false] (.sari (w.extractLsb' 21 5) (w.extractLsb' 20 1) (w.extractLsb' 14 6) (w.extractLsb' 0 6))) (wRI 5 d n a ((128 : BitVec 8) ++ s)) = _
  simp only [wRI_a, wRI_d, wRI_n, e2, e5, chk, okSels, okZeros, zf, hw, if_true]
  rfl

theorem roli (d : BitVec 5) (n : BitVec 1) (a : BitVec 6) (s : BitVec 6) : Statement (.roli d n a s) := by
  refine of_word (w := wRI 5 d n a ((192 : BitVec 8) ++ s)) rfl (by rw [wRI_m]; decide) (fun hw => ?_) rfl
  replace hw : (selOk a) = true := hw
  simp only [selOk, decide_eq_true_eq] at hw
  have := d.isLt; have := n.isLt; have := a.isLt; have := s.isLt
  have e0 : (wRI 5 d n a ((192 : BitVec 8) ++ s)).extractLsb' 12 2 = 3 := field_eq _ _ _ (by
    rw [wRI_toNat]; simp only [append_toNat, BitVec.ofNat_eq_ofNat, BitVec.toNat_ofNat]; omega)
  have e2 : (wRI 5 d n a ((192 : BitVec 8) ++ s)).extractLsb' 6 6 = 0 := field_eq _ _ _ (by
    rw [wRI_toNat]; simp only [append_toNat, BitVec.ofNat_eq_ofNat, BitVec.toNat_ofNat]; omega)
  have e5 : (wRI 5 d n a ((192 : BitVec 8) ++ s)).extractLsb' 0 6 = s := field_eq _ _ _ (by
    rw [wRI_toNat]; simp only [append_toNat, BitVec.ofNat_eq_ofNat, BitVec.toNat_ofNat]; omega)
  rw [decodeWord_05 (wRI_m ..), decMajor05, e0]
  change (fun w : Word => chk [w.extractLsb' 14 6] [zf w 6 6 false] (.roli (w.extractLsb' 21 5) (w.extractLsb' 20 1) (w.extractLsb' 14 6) (w.extractLsb' 0 6))) (wRI 5 d n a ((192 : BitVec 8) ++ s)) = _
  simp only [wRI_a, wRI_d, wRI_n, e2, e5, chk, okSels, okZeros, zf, hw, if_true]
  rfl

theorem seqi (d : BitVec 5) (n : BitVec 1) (a : BitVec 6) (i : BitVec 12) : Statement (.seqi d n a i) := by
  refine of_word (w := wRI 6 d n a ((0 : BitVec 2) ++ i)) rfl (by rw [wRI_m]; decide) (fun hw => ?_) rfl
  replace hw : (selOk a) = true := hw
  simp only [selOk, decide_eq_true_eq] at hw
  have := d.isLt; have := n.isLt; have := a.isLt; have := i.isLt
  have e0 : (wRI 6 d n a ((0 : BitVec 2) ++ i)).extractLsb' 12 2 = 0 := field_eq _ _ _ (by
    rw [wRI_toNat]; simp only [append_toNat, BitVec.ofNat_eq_ofNat, BitVec.toNat_ofNat]; omega)
  have e4 : (wRI 6 d n a ((0 : BitVec 2) ++ i)).extractLsb' 0 12 = i := field_eq _ _ _ (by
    rw [wRI_toNat]; simp only [append_toNat, BitVec.ofNat_eq_ofNat, BitVec.toNat_ofNat]; omega)
  rw [decodeWord_06 (wRI_m ..), decMajor06, e0]
  change (fun w : Word => chk [w.extractLsb' 14 6] [] (.seqi (w.extractLsb' 21 5) (w.extractLsb' 20 1) (w.extractLsb' 14 6) (w.extractLsb' 0 12))) (wRI 6 d n a ((0 : BitVec 2) ++ i)) = _
  simp only [wRI_a, wRI_d, wRI_n, e4, chk, okSels, okZeros, hw, if_true]

theorem slti (d : BitVec 5) (n : BitVec 1) (a : BitVec 6) (i : BitVec 12) : Statement (.slti d n a i) := by
  refine of_word (w := wRI 6 d n a ((1 : BitVec 2) ++ i)) rfl (by rw [wRI_m]; decide) (fun hw => ?_) rfl
  replace hw : (selOk a) = true := hw
  simp only [selOk, decide_eq_true_eq] at hw
  have := d.isLt; have := n.isLt; have := a.isLt; have := i.isLt
  have e0 : (wRI 6 d n a ((1 : BitVec 2) ++ i)).extractLsb' 12 2 = 1 := field_eq _ _ _ (by
    rw [wRI_toNat]; simp only [append_toNat, BitVec.ofNat_eq_ofNat, BitVec.toNat_ofNat]; omega)
  have e4 : (wRI 6 d n a ((1 : BitVec 2) ++ i)).extractLsb' 0 12 = i := field_eq _ _ _ (by
    rw [wRI_toNat]; simp only [append_toNat, BitVec.ofNat_eq_ofNat, BitVec.toNat_ofNat]; omega)
  rw [decodeWord_06 (wRI_m ..), decMajor06, e0]
  change (fun w : Word => chk [w.extractLsb' 14 6] [] (.slti (w.extractLsb' 21 5) (w.extractLsb' 20 1) (w.extractLsb' 14 6) (w.extractLsb' 0 12))) (wRI 6 d n a ((1 : BitVec 2) ++ i)) = _
  simp only [wRI_a, wRI_d, wRI_n, e4, chk, okSels, okZeros, hw, if_true]

theorem sltni (d : BitVec 5) (n : BitVec 1) (a : BitVec 6) (i : BitVec 12) : Statement (.sltni d n a i) := by
  refine of_word (w := wRI 6 d n a ((2 : BitVec 2) ++ i)) rfl (by rw [wRI_m]; decide) (fun hw => ?_) rfl
  replace hw : (selOk a) = true := hw
  simp only [selOk, decide_eq_true_eq] at hw
  have := d.isLt; have := n.isLt; have := a.isLt; have := i.isLt
  have e0 : (wRI 6 d n a ((2 : BitVec 2) ++ i)).extractLsb' 12 2 = 2 := field_eq _ _ _ (by
    rw [wRI_toNat]; simp only [append_toNat, BitVec.ofNat_eq_ofNat, BitVec.toNat_ofNat]; omega)
  have e4 : (wRI 6 d n a ((2 : BitVec 2) ++ i)).extractLsb' 0 12 = i := field_eq _ _ _ (by
    rw [wRI_toNat]; simp only [append_toNat, BitVec.ofNat_eq_ofNat, BitVec.toNat_ofNat]; omega)
  rw [decodeWord_06 (wRI_m ..), decMajor06, e0]
  change (fun w : Word => chk [w.extractLsb' 14 6] [] (.sltni (w.extractLsb' 21 5) (w.extractLsb' 20 1) (w.extractLsb' 14 6) (w.extractLsb' 0 12))) (wRI 6 d n a ((2 : BitVec 2) ++ i)) = _
  simp only [wRI_a, wRI_d, wRI_n, e4, chk, okSels, okZeros, hw, if_true]

theorem lea (d : BitVec 5) (n : BitVec 1) (a : BitVec 6) (b : BitVec 6) (s : BitVec 8) : Statement (.lea d n a b s) := by
  refine of_word (w := wRR 7 d n a b s) rfl (by rw [wRR_m]; decide) (fun hw => ?_) rfl
  replace hw : (selOk a && selOk b && s.toNat < 5) = true := hw
  simp only [selOk, Bool.and_eq_true, decide_eq_true_eq] at hw
  rw [decodeWord_07 (wRR_m ..)]
  simp only [decMajor07, wRR_f, wRR_a, wRR_b, wRR_d, wRR_n, chk, okSels, okZeros, hw, if_true, chkScale]

theorem mul (d : BitVec 5) (n : BitVec 1) (a : BitVec 6) (b : BitVec 6) : Statement (.mul d n a b) := by
  refine of_word (w := wRR 8 d n a b 0) rfl (by rw [wRR_m]; decide) (fun hw => ?_) rfl
  replace hw : (selOk a && selOk b) = true := hw
  simp only [selOk, Bool.and_eq_true, decide_eq_true_eq] at hw
  rw [decodeWord_08 (wRR_m ..), decMajor08, wRR_f]
  change (fun w : Word => chk [w.extractLsb' 14 6, w.extractLsb' 8 6] [] (.mul (w.extractLsb' 21 5) (w.extractLsb' 20 1) (w.extractLsb' 14 6) (w.extractLsb' 8 6))) (wRR 8 d n a b 0) = _
  simp only [wRR_a, wRR_b, wRR_d, wRR_n, chk, okSels, okZeros, hw, if_true]

theorem mulh (d : BitVec 5) (n : BitVec 1) (a : BitVec 6) (b : BitVec 6) : Statement (.mulh d n a b) := by
  refine of_word (w := wRR 8 d n a b 1) rfl (by rw [wRR_m]; decide) (fun hw => ?_) rfl
  replace hw : (selOk a && selOk b) = true := hw
  simp only [selOk, Bool.and_eq_true, decide_eq_true_eq] at hw
  rw [decodeWord_08 (wRR_m ..), decMajor08, wRR_f]
  change (fun w : Word => chk [w.extractLsb' 14 6, w.extractLsb' 8 6] [] (.mulh (w.extractLsb' 21 5) (w.extractLsb' 20 1) (w.extractLsb' 14 6) (w.extractLsb' 8 6))) (wRR 8 d n a b 1) = _
  simp only [wRR_a, wRR_b, wRR_d, wRR_n, chk, okSels, okZeros, hw, if_true]

theorem mulhn (d : BitVec 5) (n : BitVec 1) (a : BitVec 6) (b : BitVec 6) : Statement (.mulhn d n a b) := by
  refine of_word (w := wRR 8 d n a b 2) rfl (by rw [wRR_m]; decide) (fun hw => ?_) rfl
  replace hw : (selOk a && selOk b) = true := hw
  simp only [selOk, Bool.and_eq_true, decide_eq_true_eq] at hw
  rw [decodeWord_08 (wRR_m ..), decMajor08, wRR_f]
  change (fun w : Word => chk [w.extractLsb' 14 6, w.extractLsb' 8 6] [] (.mulhn (w.extractLsb' 21 5) (w.extractLsb' 20 1) (w.extractLsb' 14 6) (w.extractLsb' 8 6))) (wRR 8 d n a b 2) = _
  simp only [wRR_a, wRR_b, wRR_d, wRR_n, chk, okSels, okZeros, hw, if_true]

theorem div (d : BitVec 5) (n : BitVec 1) (a : BitVec 6) (b : BitVec 6) : Statement (.div d n a b) := by
  refine of_word (w := wRR 8 d n a b 3) rfl (by rw [wRR_m]; decide) (fun hw => ?_) rfl
  replace hw : (selOk a && selOk b) = true := hw
  simp only [selOk, Bool.and_eq_true, decide_eq_true_eq] at hw
  rw [decodeWord_08 (wRR_m ..), decMajor08, wRR_f]
  change (fun w : Word => chk [w.extractLsb' 14 6, w.extractLsb' 8 6] [] (.div (w.extractLsb' 21 5) (w.extractLsb' 20 1) (w.extractLsb' 14 6) (w.extractLsb' 8 6))) (wRR 8 d n a b 3) = _
  simp only [wRR_a, wRR_b, wRR_d, wRR_n, chk, okSels, okZeros, hw, if_true]

theorem divn (d : BitVec 5) (n : BitVec 1) (a : BitVec 6) (b : BitVec 6) : Statement (.divn d n a b) := by
  refine of_word (w := wRR 8 d n a b 4) rfl (by rw [wRR_m]; decide) (fun hw => ?_) rfl
  replace hw : (selOk a && selOk b) = true := hw
  simp only [selOk, Bool.and_eq_true, decide_eq_true_eq] at hw
  rw [decodeWord_08 (wRR_m ..), decMajor08, wRR_f]
  change (fun w : Word => chk [w.extractLsb' 14 6, w.extractLsb' 8 6] [] (.divn (w.extractLsb' 21 5) (w.extractLsb' 20 1) (w.extractLsb' 14 6) (w.extractLsb' 8 6))) (wRR 8 d n a b 4) = _
  simp only [wRR_a, wRR_b, wRR_d, wRR_n, chk, okSels, okZeros, hw, if_true]

theorem rem (d : BitVec 5) (n : BitVec 1) (a : BitVec 6) (b : BitVec 6) : Statement (.rem d n a b) := by
  refine of_word (w := wRR 8 d n a b 5) rfl (by rw [wRR_m]; decide) (fun hw => ?_) rfl
  replace hw : (selOk a && selOk b) = true := hw
  simp only [selOk, Bool.and_eq_true, decide_eq_true_eq] at hw
  rw [decodeWord_08 (wRR_m ..), decMajor08, wRR_f]
  change (fun w : Word => chk [w.extractLsb' 14 6, w.extractLsb' 8 6] [] (.rem (w.extractLsb' 21 5) (w.extractLsb' 20 1) (w.extractLsb' 14 6) (w.extractLsb' 8 6))) (wRR 8 d n a b 5) = _
  simp only [wRR_a, wRR_b, wRR_d, wRR_n, chk, okSels, okZeros, hw, if_true]

theorem remn (d : BitVec 5) (n : BitVec 1) (a : BitVec 6) (b : BitVec 6) : Statement (.remn d n a b) := by
  refine of_word (w := wRR 8 d n a b 6) rfl (by rw [wRR_m]; decide) (fun hw => ?_) rfl
  replace hw : (selOk a && selOk b) = true := hw
  simp only [selOk, Bool.and_eq_true, decide_eq_true_eq] at hw
  rw [decodeWord_08 (wRR_m ..), decMajor08, wRR_f]
  change (fun w : Word => chk [w.extractLsb' 14 6, w.extractLsb' 8 6] [] (.remn (w.extractLsb' 21 5) (w.extractLsb' 20 1) (w.extractLsb' 14 6) (w.extractLsb' 8 6))) (wRR 8 d n a b 6) = _
  simp only [wRR_a, wRR_b, wRR_d, wRR_n, chk, okSels, okZeros, hw, if_true]

theorem peq (d : BitVec 3) (a : BitVec 6) (b : BitVec 6) : Statement (.peq d a b) := by
  refine of_word (w := wRR 9 ((0 : BitVec 2) ++ d) 0 a b 0) rfl (by rw [wRR_m]; decide) (fun hw => ?_) rfl
  replace hw : (selOk a && selOk b) = true := hw
  simp only [selOk, Bool.and_eq_true, decide_eq_true_eq] at hw
  have := d.isLt; have := a.isLt; have := b.isLt
  have e4 : (wRR 9 ((0 : BitVec 2) ++ d) 0 a b 0).extractLsb' 24 2 = 0 := field_eq _ _ _ (by
    rw [wRR_toNat]; simp only [append_toNat, BitVec.ofNat_eq_ofNat, BitVec.toNat_ofNat]; omega)
  have e5 : (wRR 9 ((0 : BitVec 2) ++ d) 0 a b 0).extractLsb' 21 3 = d := field_eq _ _ _ (by
    rw [wRR_toNat]; simp only [append_toNat, BitVec.ofNat_eq_ofNat, BitVec.toNat_ofNat]; omega)
  rw [decodeWord_09 (wRR_m ..), decMajor09, wRR_f]
  change (fun w : Word => chk [w.extractLsb' 14 6, w.extractLsb' 8 6] [zf w 20 1 false, zf w 24 2 false] (.peq (w.extractLsb' 21 3) (w.extractLsb' 14 6) (w.extractLsb' 8 6))) (wRR 9 ((0 : BitVec 2) ++ d) 0 a b 0) = _
  simp only [wRR_a, wRR_b, wRR_n, e4, e5, chk, okSels, okZeros, zf, hw, if_true]
  rfl

theorem pne (d : BitVec 3) (a : BitVec 6) (b : BitVec 6) : Statement (.pne d a b) := by
  refine of_word (w := wRR 9 ((0 : BitVec 2) ++ d) 0 a b 1) rfl (by rw [wRR_m]; decide) (fun hw => ?_) rfl
  replace hw : (selOk a && selOk b) = true := hw
  simp only [selOk, Bool.and_eq_true, decide_eq_true_eq] at hw
  have := d.isLt; have := a.isLt; have := b.isLt
  have e4 : (wRR 9 ((0 : BitVec 2) ++ d) 0 a b 1).extractLsb' 24 2 = 0 := field_eq _ _ _ (by
    rw [wRR_toNat]; simp only [append_toNat, BitVec.ofNat_eq_ofNat, BitVec.toNat_ofNat]; omega)
  have e5 : (wRR 9 ((0 : BitVec 2) ++ d) 0 a b 1).extractLsb' 21 3 = d := field_eq _ _ _ (by
    rw [wRR_toNat]; simp only [append_toNat, BitVec.ofNat_eq_ofNat, BitVec.toNat_ofNat]; omega)
  rw [decodeWord_09 (wRR_m ..), decMajor09, wRR_f]
  change (fun w : Word => chk [w.extractLsb' 14 6, w.extractLsb' 8 6] [zf w 20 1 false, zf w 24 2 false] (.pne (w.extractLsb' 21 3) (w.extractLsb' 14 6) (w.extractLsb' 8 6))) (wRR 9 ((0 : BitVec 2) ++ d) 0 a b 1) = _
  simp only [wRR_a, wRR_b, wRR_n, e4, e5, chk, okSels, okZeros, zf, hw, if_true]
  rfl

theorem plt (d : BitVec 3) (a : BitVec 6) (b : BitVec 6) : Statement (.plt d a b) := by
  refine of_word (w := wRR 9 ((0 : BitVec 2) ++ d) 0 a b 2) rfl (by rw [wRR_m]; decide) (fun hw => ?_) rfl
  replace hw : (selOk a && selOk b) = true := hw
  simp only [selOk, Bool.and_eq_true, decide_eq_true_eq] at hw
  have := d.isLt; have := a.isLt; have := b.isLt
  have e4 : (wRR 9 ((0 : BitVec 2) ++ d) 0 a b 2).extractLsb' 24 2 = 0 := field_eq _ _ _ (by
    rw [wRR_toNat]; simp only [append_toNat, BitVec.ofNat_eq_ofNat, BitVec.toNat_ofNat]; omega)
  have e5 : (wRR 9 ((0 : BitVec 2) ++ d) 0 a b 2).extractLsb' 21 3 = d := field_eq _ _ _ (by
    rw [wRR_toNat]; simp only [append_toNat, BitVec.ofNat_eq_ofNat, BitVec.toNat_ofNat]; omega)
  rw [decodeWord_09 (wRR_m ..), decMajor09, wRR_f]
  change (fun w : Word => chk [w.extractLsb' 14 6, w.extractLsb' 8 6] [zf w 20 1 false, zf w 24 2 false] (.plt (w.extractLsb' 21 3) (w.extractLsb' 14 6) (w.extractLsb' 8 6))) (wRR 9 ((0 : BitVec 2) ++ d) 0 a b 2) = _
  simp only [wRR_a, wRR_b, wRR_n, e4, e5, chk, okSels, okZeros, zf, hw, if_true]
  rfl

theorem pltn (d : BitVec 3) (a : BitVec 6) (b : BitVec 6) : Statement (.pltn d a b) := by
  refine of_word (w := wRR 9 ((0 : BitVec 2) ++ d) 0 a b 3) rfl (by rw [wRR_m]; decide) (fun hw => ?_) rfl
  replace hw : (selOk a && selOk b) = true := hw
  simp only [selOk, Bool.and_eq_true, decide_eq_true_eq] at hw
  have := d.isLt; have := a.isLt; have := b.isLt
  have e4 : (wRR 9 ((0 : BitVec 2) ++ d) 0 a b 3).extractLsb' 24 2 = 0 := field_eq _ _ _ (by
    rw [wRR_toNat]; simp only [append_toNat, BitVec.ofNat_eq_ofNat, BitVec.toNat_ofNat]; omega)
  have e5 : (wRR 9 ((0 : BitVec 2) ++ d) 0 a b 3).extractLsb' 21 3 = d := field_eq _ _ _ (by
    rw [wRR_toNat]; simp only [append_toNat, BitVec.ofNat_eq_ofNat, BitVec.toNat_ofNat]; omega)
  rw [decodeWord_09 (wRR_m ..), decMajor09, wRR_f]
  change (fun w : Word => chk [w.extractLsb' 14 6, w.extractLsb' 8 6] [zf w 20 1 false, zf w 24 2 false] (.pltn (w.extractLsb' 21 3) (w.extractLsb' 14 6) (w.extractLsb' 8 6))) (wRR 9 ((0 : BitVec 2) ++ d) 0 a b 3) = _
  simp only [wRR_a, wRR_b, wRR_n, e4, e5, chk, okSels, okZeros, zf, hw, if_true]
  rfl

theorem ple (d : BitVec 3) (a : BitVec 6) (b : BitVec 6) : Statement (.ple d a b) := by
  refine of_word (w := wRR 9 ((0 : BitVec 2) ++ d) 0 a b 4) rfl (by rw [wRR_m]; decide) (fun hw => ?_) rfl
  replace hw : (selOk a && selOk b) = true := hw
  simp only [selOk, Bool.and_eq_true, decide_eq_true_eq] at hw
  have := d.isLt; have := a.isLt; have := b.isLt
  have e4 : (wRR 9 ((0 : BitVec 2) ++ d) 0 a b 4).extractLsb' 24 2 = 0 := field_eq _ _ _ (by
    rw [wRR_toNat]; simp only [append_toNat, BitVec.ofNat_eq_ofNat, BitVec.toNat_ofNat]; omega)
  have e5 : (wRR 9 ((0 : BitVec 2) ++ d) 0 a b 4).extractLsb' 21 3 = d := field_eq _ _ _ (by
    rw [wRR_toNat]; simp only [append_toNat, BitVec.ofNat_eq_ofNat, BitVec.toNat_ofNat]; omega)
  rw [decodeWord_09 (wRR_m ..), decMajor09, wRR_f]
  change (fun w : Word => chk [w.extractLsb' 14 6, w.extractLsb' 8 6] [zf w 20 1 false, zf w 24 2 false] (.ple (w.extractLsb' 21 3) (w.extractLsb' 14 6) (w.extractLsb' 8 6))) (wRR 9 ((0 : BitVec 2) ++ d) 0 a b 4) = _
  simp only [wRR_a, wRR_b, wRR_n, e4, e5, chk, okSels, okZeros, zf, hw, if_true]
  rfl

theorem plen (d : BitVec 3) (a : BitVec 6) (b : BitVec 6) : Statement (.plen d a b) := by
  refine of_word (w := wRR 9 ((0 : BitVec 2) ++ d) 0 a b 5) rfl (by rw [wRR_m]; decide) (fun hw => ?_) rfl
  replace hw : (selOk a && selOk b) = true := hw
  simp only [selOk, Bool.and_eq_true, decide_eq_true_eq] at hw
  have := d.isLt; have := a.isLt; have := b.isLt
  have e4 : (wRR 9 ((0 : BitVec 2) ++ d) 0 a b 5).extractLsb' 24 2 = 0 := field_eq _ _ _ (by
    rw [wRR_toNat]; simp only [append_toNat, BitVec.ofNat_eq_ofNat, BitVec.toNat_ofNat]; omega)
  have e5 : (wRR 9 ((0 : BitVec 2) ++ d) 0 a b 5).extractLsb' 21 3 = d := field_eq _ _ _ (by
    rw [wRR_toNat]; simp only [append_toNat, BitVec.ofNat_eq_ofNat, BitVec.toNat_ofNat]; omega)
  rw [decodeWord_09 (wRR_m ..), decMajor09, wRR_f]
  change (fun w : Word => chk [w.extractLsb' 14 6, w.extractLsb' 8 6] [zf w 20 1 false, zf w 24 2 false] (.plen (w.extractLsb' 21 3) (w.extractLsb' 14 6) (w.extractLsb' 8 6))) (wRR 9 ((0 : BitVec 2) ++ d) 0 a b 5) = _
  simp only [wRR_a, wRR_b, wRR_n, e4, e5, chk, okSels, okZeros, zf, hw, if_true]
  rfl

theorem pand (d : BitVec 3) (a : BitVec 3) (b : BitVec 3) : Statement (.pand d a b) := by
  refine of_word (w := wRR 9 ((0 : BitVec 2) ++ d) 0 ((0 : BitVec 3) ++ a) ((0 : BitVec 3) ++ b) 6) rfl (by rw [wRR_m]; decide) (fun hw => ?_) rfl
  have := d.isLt; have := a.isLt; have := b.isLt
  have e1 : (wRR 9 ((0 : BitVec 2) ++ d) 0 ((0 : BitVec 3) ++ a) ((0 : BitVec 3) ++ b) 6).extractLsb' 11 3 = 0 := field_eq _ _ _ (by
    rw [wRR_toNat]; simp only [append_toNat, BitVec.ofNat_eq_ofNat, BitVec.toNat_ofNat]; omega)
  have e2 : (wRR 9 ((0 : BitVec 2) ++ d) 0 ((0 : BitVec 3) ++ a) ((0 : BitVec 3) ++ b) 6).extractLsb' 17 4 = 0 := field_eq _ _ _ (by
    rw [wRR_toNat]; simp only [append_toNat, BitVec.ofNat_eq_ofNat, BitVec.toNat_ofNat]; omega)
  have e3 : (wRR 9 ((0 : BitVec 2) ++ d) 0 ((0 : BitVec 3) ++ a) ((0 : BitVec 3) ++ b) 6).extractLsb' 24 2 = 0 := field_eq _ _ _ (by
    rw [wRR_toNat]; simp only [append_toNat, BitVec.ofNat_eq_ofNat, BitVec.toNat_ofNat]; omega)
  have e4 : (wRR 9 ((0 : BitVec 2) ++ d) 0 ((0 : BitVec 3) ++ a) ((0 : BitVec 3) ++ b) 6).extractLsb' 21 3 = d := field_eq _ _ _ (by
    rw [wRR_toNat]; simp only [append_toNat, BitVec.ofNat_eq_ofNat, BitVec.toNat_ofNat]; omega)
  have e5 : (wRR 9 ((0 : BitVec 2) ++ d) 0 ((0 : BitVec 3) ++ a) ((0 : BitVec 3) ++ b) 6).extractLsb' 14 3 = a := field_eq _ _ _ (by
    rw [wRR_toNat]; simp only [append_toNat, BitVec.ofNat_eq_ofNat, BitVec.toNat_ofNat]; omega)
  have e6 : (wRR 9 ((0 : BitVec 2) ++ d) 0 ((0 : BitVec 3) ++ a) ((0 : BitVec 3) ++ b) 6).extractLsb' 8 3 = b := field_eq _ _ _ (by
    rw [wRR_toNat]; simp only [append_toNat, BitVec.ofNat_eq_ofNat, BitVec.toNat_ofNat]; omega)
  rw [decodeWord_09 (wRR_m ..), decMajor09, wRR_f]
  change (fun w : Word => chk [] [zf w 11 3 false, zf w 17 4 false, zf w 24 2 false] (.pand (w.extractLsb' 21 3) (w.extractLsb' 14 3) (w.extractLsb' 8 3))) (wRR 9 ((0 : BitVec 2) ++ d) 0 ((0 : BitVec 3) ++ a) ((0 : BitVec 3) ++ b) 6) = _
  simp only [e1, e2, e3, e4, e5, e6, chk, okSels, okZeros, zf]
  rfl

theorem por (d : BitVec 3) (a : BitVec 3) (b : BitVec 3) : Statement (.por d a b) := by
  refine of_word (w := wRR 9 ((0 : BitVec 2) ++ d) 0 ((0 : BitVec 3) ++ a) ((0 : BitVec 3) ++ b) 7) rfl (by rw [wRR_m]; decide) (fun hw => ?_) rfl
  have := d.isLt; have := a.isLt; have := b.isLt
  have e1 : (wRR 9 ((0 : BitVec 2) ++ d) 0 ((0 : BitVec 3) ++ a) ((0 : BitVec 3) ++ b) 7).extractLsb' 11 3 = 0 := field_eq _ _ _ (by
    rw [wRR_toNat]; simp only [append_toNat, BitVec.ofNat_eq_ofNat, BitVec.toNat_ofNat]; omega)
  have e2 : (wRR 9 ((0 : BitVec 2) ++ d) 0 ((0 : BitVec 3) ++ a) ((0 : BitVec 3) ++ b) 7).extractLsb' 17 4 = 0 := field_eq _ _ _ (by
    rw [wRR_toNat]; simp only [append_toNat, BitVec.ofNat_eq_ofNat, BitVec.toNat_ofNat]; omega)
  have e3 : (wRR 9 ((0 : BitVec 2) ++ d) 0 ((0 : BitVec 3) ++ a) ((0 : BitVec 3) ++ b) 7).extractLsb' 24 2 = 0 := field_eq _ _ _ (by
    rw [wRR_toNat]; simp only [append_toNat, BitVec.ofNat_eq_ofNat, BitVec.toNat_ofNat]; omega)
  have e4 : (wRR 9 ((0 : BitVec 2) ++ d) 0 ((0 : BitVec 3) ++ a) ((0 : BitVec 3) ++ b) 7).extractLsb' 21 3 = d := field_eq _ _ _ (by
    rw [wRR_toNat]; simp only [append_toNat, BitVec.ofNat_eq_ofNat, BitVec.toNat_ofNat]; omega)
  have e5 : (wRR 9 ((0 : BitVec 2) ++ d) 0 ((0 : BitVec 3) ++ a) ((0 : BitVec 3) ++ b) 7).extractLsb' 14 3 = a := field_eq _ _ _ (by
    rw [wRR_toNat]; simp only [append_toNat, BitVec.ofNat_eq_ofNat, BitVec.toNat_ofNat]; omega)
  have e6 : (wRR 9 ((0 : BitVec 2) ++ d) 0 ((0 : BitVec 3) ++ a) ((0 : BitVec 3) ++ b) 7).extractLsb' 8 3 = b := field_eq _ _ _ (by
    rw [wRR_toNat]; simp only [append_toNat, BitVec.ofNat_eq_ofNat, BitVec.toNat_ofNat]; omega)
  rw [decodeWord_09 (wRR_m ..), decMajor09, wRR_f]
  change (fun w : Word => chk [] [zf w 11 3 false, zf w 17 4 false, zf w 24 2 false] (.por (w.extractLsb' 21 3) (w.extractLsb' 14 3) (w.extractLsb' 8 3))) (wRR 9 ((0 : BitVec 2) ++ d) 0 ((0 : BitVec 3) ++ a) ((0 : BitVec 3) ++ b) 7) = _
  simp only [e1, e2, e3, e4, e5, e6, chk, okSels, okZeros, zf]
  rfl

theorem pxor (d : BitVec 3) (a : BitVec 3) (b : BitVec 3) : Statement (.pxor d a b) := by
  refine of_word (w := wRR 9 ((0 : BitVec 2) ++ d) 0 ((0 : BitVec 3) ++ a) ((0 : BitVec 3) ++ b) 8) rfl (by rw [wRR_m]; decide) (fun hw => ?_) rfl
  have := d.isLt; have := a.isLt; have := b.isLt
  have e1 : (wRR 9 ((0 : BitVec 2) ++ d) 0 ((0 : BitVec 3) ++ a) ((0 : BitVec 3) ++ b) 8).extractLsb' 11 3 = 0 := field_eq _ _ _ (by
    rw [wRR_toNat]; simp only [append_toNat, BitVec.ofNat_eq_ofNat, BitVec.toNat_ofNat]; omega)
  have e2 : (wRR 9 ((0 : BitVec 2) ++ d) 0 ((0 : BitVec 3) ++ a) ((0 : BitVec 3) ++ b) 8).extractLsb' 17 4 = 0 := field_eq _ _ _ (by
    rw [wRR_toNat]; simp only [append_toNat, BitVec.ofNat_eq_ofNat, BitVec.toNat_ofNat]; omega)
  have e3 : (wRR 9 ((0 : BitVec 2) ++ d) 0 ((0 : BitVec 3) ++ a) ((0 : BitVec 3) ++ b) 8).extractLsb' 24 2 = 0 := field_eq _ _ _ (by
    rw [wRR_toNat]; simp only [append_toNat, BitVec.ofNat_eq_ofNat, BitVec.toNat_ofNat]; omega)
  have e4 : (wRR 9 ((0 : BitVec 2) ++ d) 0 ((0 : BitVec 3) ++ a) ((0 : BitVec 3) ++ b) 8).extractLsb' 21 3 = d := field_eq _ _ _ (by
    rw [wRR_toNat]; simp only [append_toNat, BitVec.ofNat_eq_ofNat, BitVec.toNat_ofNat]; omega)
  have e5 : (wRR 9 ((0 : BitVec 2) ++ d) 0 ((0 : BitVec 3) ++ a) ((0 : BitVec 3) ++ b) 8).extractLsb' 14 3 = a := field_eq _ _ _ (by
    rw [wRR_toNat]; simp only [append_toNat, BitVec.ofNat_eq_ofNat, BitVec.toNat_ofNat]; omega)
  have e6 : (wRR 9 ((0 : BitVec 2) ++ d) 0 ((0 : BitVec 3) ++ a) ((0 : BitVec 3) ++ b) 8).extractLsb' 8 3 = b := field_eq _ _ _ (by
    rw [wRR_toNat]; simp only [append_toNat, BitVec.ofNat_eq_ofNat, BitVec.toNat_ofNat]; omega)
  rw [decodeWord_09 (wRR_m ..), decMajor09, wRR_f]
  change (fun w : Word => chk [] [zf w 11 3 false, zf w 17 4 false, zf w 24 2 false] (.pxor (w.extractLsb' 21 3) (w.extractLsb' 14 3) (w.extractLsb' 8 3))) (wRR 9 ((0 : BitVec 2) ++ d) 0 ((0 : BitVec 3) ++ a) ((0 : BitVec 3) ++ b) 8) = _
  simp only [e1, e2, e3, e4, e5, e6, chk, okSels, okZeros, zf]
  rfl

theorem pnot (d : BitVec 3) (a : BitVec 3) : Statement (.pnot d a) := by
  refine of_word (w := wRR 9 ((0 : BitVec 2) ++ d) 0 ((0 : BitVec 3) ++ a) 0 9) rfl (by rw [wRR_m]; decide) (fun hw => ?_) rfl
  have := d.isLt; have := a.isLt
  have e2 : (wRR 9 ((0 : BitVec 2) ++ d) 0 ((0 : BitVec 3) ++ a) 0 9).extractLsb' 17 4 = 0 := field_eq _ _ _ (by
    rw [wRR_toNat]; simp only [append_toNat, BitVec.ofNat_eq_ofNat, BitVec.toNat_ofNat]; omega)
  have e3 : (wRR 9 ((0 : BitVec 2) ++ d) 0 ((0 : BitVec 3) ++ a) 0 9).extractLsb' 24 2 = 0 := field_eq _ _ _ (by
    rw [wRR_toNat]; simp only [append_toNat, BitVec.ofNat_eq_ofNat, BitVec.toNat_ofNat]; omega)
  have e4 : (wRR 9 ((0 : BitVec 2) ++ d) 0 ((0 : BitVec 3) ++ a) 0 9).extractLsb' 21 3 = d := field_eq _ _ _ (by
    rw [wRR_toNat]; simp only [append_toNat, BitVec.ofNat_eq_ofNat, BitVec.toNat_ofNat]; omega)
  have e5 : (wRR 9 ((0 : BitVec 2) ++ d) 0 ((0 : BitVec 3) ++ a) 0 9).extractLsb' 14 3 = a := field_eq _ _ _ (by
    rw [wRR_toNat]; simp only [append_toNat, BitVec.ofNat_eq_ofNat, BitVec.toNat_ofNat]; omega)
  rw [decodeWord_09 (wRR_m ..), decMajor09, wRR_f]
  change (fun w : Word => chk [] [zf w 8 6 false, zf w 17 4 false, zf w 24 2 false] (.pnot (w.extractLsb' 21 3) (w.extractLsb' 14 3))) (wRR 9 ((0 : BitVec 2) ++ d) 0 ((0 : BitVec 3) ++ a) 0 9) = _
  simp only [wRR_b, e2, e3, e4, e5, chk, okSels, okZeros, zf]
  rfl

theorem ptog (d : BitVec 3) : Statement (.ptog d) := by
  refine of_word (w := wRR 9 ((0 : BitVec 2) ++ d) 0 0 0 10) rfl (by rw [wRR_m]; decide) (fun hw => ?_) rfl
  have := d.isLt
  have e1 : (wRR 9 ((0 : BitVec 2) ++ d) 0 0 0 10).extractLsb' 8 13 = 0 := field_eq _ _ _ (by
    rw [wRR_toNat]; simp only [append_toNat, BitVec.ofNat_eq_ofNat, BitVec.toNat_ofNat]; omega)
  have e2 : (wRR 9 ((0 : BitVec 2) ++ d) 0 0 0 10).extractLsb' 24 2 = 0 := field_eq _ _ _ (by
    rw [wRR_toNat]; simp only [append_toNat, BitVec.ofNat_eq_ofNat, BitVec.toNat_ofNat]; omega)
  have e3 : (wRR 9 ((0 : BitVec 2) ++ d) 0 0 0 10).extractLsb' 21 3 = d := field_eq _ _ _ (by
    rw [wRR_toNat]; simp only [append_toNat, BitVec.ofNat_eq_ofNat, BitVec.toNat_ofNat]; omega)
  rw [decodeWord_09 (wRR_m ..), decMajor09, wRR_f]
  change (fun w : Word => chk [] [zf w 8 13 false, zf w 24 2 false] (.ptog (w.extractLsb' 21 3))) (wRR 9 ((0 : BitVec 2) ++ d) 0 0 0 10) = _
  simp only [e1, e2, e3, chk, okSels, okZeros, zf]
  rfl

theorem sel (d : BitVec 5) (n : BitVec 1) (a : BitVec 6) (b : BitVec 6) (v : BitVec 1) (p : BitVec 3) : Statement (.sel d n a b v p) := by
  refine of_word (w := wRR 10 d n a b ((0 : BitVec 4) ++ v ++ p)) rfl (by rw [wRR_m]; decide) (fun hw => ?_) rfl
  replace hw : (selOk a && selOk b) = true := hw
  simp only [selOk, Bool.and_eq_true, decide_eq_true_eq] at hw
  have := d.isLt; have := n.isLt; have := a.isLt; have := b.isLt; have := v.isLt; have := p.isLt
  have e2 : (wRR 10 d n a b ((0 : BitVec 4) ++ v ++ p)).extractLsb' 4 4 = 0 := field_eq _ _ _ (by
    rw [wRR_toNat]; simp only [append_toNat, BitVec.ofNat_eq_ofNat, BitVec.toNat_ofNat]; omega)
  have e5 : (wRR 10 d n a b ((0 : BitVec 4) ++ v ++ p)).extractLsb' 3 1 = v := field_eq _ _ _ (by
    rw [wRR_toNat]; simp only [append_toNat, BitVec.ofNat_eq_ofNat, BitVec.toNat_ofNat]; omega)
  have e6 : (wRR 10 d n a b ((0 : BitVec 4) ++ v ++ p)).extractLsb' 0 3 = p := field_eq _ _ _ (by
    rw [wRR_toNat]; simp only [append_toNat, BitVec.ofNat_eq_ofNat, BitVec.toNat_ofNat]; omega)
  rw [decodeWord_0a (wRR_m ..)]
  simp only [decMajor0a, wRR_a, wRR_b, wRR_d, wRR_n, e2, e5, e6, chk, okSels, okZeros, zf, hw, if_true]
  rfl

theorem ldS8 (d : BitVec 5) (b : BitVec 6) (o : BitVec 12) : Statement (.ldS8 d b o) := by
  refine of_word (w := wMEM 11 d 0 b 0 o) rfl (by rw [wMEM_m]; decide) (fun hw => ?_) rfl
  replace hw : (selOk b) = true := hw
  simp only [selOk, decide_eq_true_eq] at hw
  rw [decodeWord_0b (wMEM_m ..), decMajor0b, wMEM_z, wMEM_u]
  change (fun w : Word => chk [w.extractLsb' 14 6] [] (.ldS8 (w.extractLsb' 21 5) (w.extractLsb' 14 6) (w.extractLsb' 0 12))) (wMEM 11 d 0 b 0 o) = _
  simp only [wMEM_a, wMEM_d, wMEM_o, chk, okSels, okZeros, hw, if_true]

theorem ldN8 (d : BitVec 5) (b : BitVec 6) (o : BitVec 12) : Statement (.ldN8 d b o) := by
  refine of_word (w := wMEM 11 d 1 b 0 o) rfl (by rw [wMEM_m]; decide) (fun hw => ?_) rfl
  replace hw : (selOk b) = true := hw
  simp only [selOk, decide_eq_true_eq] at hw
  rw [decodeWord_0b (wMEM_m ..), decMajor0b, wMEM_z, wMEM_u]
  change (fun w : Word => chk [w.extractLsb' 14 6] [] (.ldN8 (w.extractLsb' 21 5) (w.extractLsb' 14 6) (w.extractLsb' 0 12))) (wMEM 11 d 1 b 0 o) = _
  simp only [wMEM_a, wMEM_d, wMEM_o, chk, okSels, okZeros, hw, if_true]

theorem ldS16 (d : BitVec 5) (b : BitVec 6) (o : BitVec 12) : Statement (.ldS16 d b o) := by
  refine of_word (w := wMEM 11 d 0 b 1 o) rfl (by rw [wMEM_m]; decide) (fun hw => ?_) rfl
  replace hw : (selOk b) = true := hw
  simp only [selOk, decide_eq_true_eq] at hw
  rw [decodeWord_0b (wMEM_m ..), decMajor0b, wMEM_z, wMEM_u]
  change (fun w : Word => chk [w.extractLsb' 14 6] [] (.ldS16 (w.extractLsb' 21 5) (w.extractLsb' 14 6) (w.extractLsb' 0 12))) (wMEM 11 d 0 b 1 o) = _
  simp only [wMEM_a, wMEM_d, wMEM_o, chk, okSels, okZeros, hw, if_true]

theorem ldN16 (d : BitVec 5) (b : BitVec 6) (o : BitVec 12) : Statement (.ldN16 d b o) := by
  refine of_word (w := wMEM 11 d 1 b 1 o) rfl (by rw [wMEM_m]; decide) (fun hw => ?_) rfl
  replace hw : (selOk b) = true := hw
  simp only [selOk, decide_eq_true_eq] at hw
  rw [decodeWord_0b (wMEM_m ..), decMajor0b, wMEM_z, wMEM_u]
  change (fun w : Word => chk [w.extractLsb' 14 6] [] (.ldN16 (w.extractLsb' 21 5) (w.extractLsb' 14 6) (w.extractLsb' 0 12))) (wMEM 11 d 1 b 1 o) = _
  simp only [wMEM_a, wMEM_d, wMEM_o, chk, okSels, okZeros, hw, if_true]

theorem ldS32 (d : BitVec 5) (b : BitVec 6) (o : BitVec 12) : Statement (.ldS32 d b o) := by
  refine of_word (w := wMEM 11 d 0 b 2 o) rfl (by rw [wMEM_m]; decide) (fun hw => ?_) rfl
  replace hw : (selOk b) = true := hw
  simp only [selOk, decide_eq_true_eq] at hw
  rw [decodeWord_0b (wMEM_m ..), decMajor0b, wMEM_z, wMEM_u]
  change (fun w : Word => chk [w.extractLsb' 14 6] [] (.ldS32 (w.extractLsb' 21 5) (w.extractLsb' 14 6) (w.extractLsb' 0 12))) (wMEM 11 d 0 b 2 o) = _
  simp only [wMEM_a, wMEM_d, wMEM_o, chk, okSels, okZeros, hw, if_true]

theorem ldN32 (d : BitVec 5) (b : BitVec 6) (o : BitVec 12) : Statement (.ldN32 d b o) := by
  refine of_word (w := wMEM 11 d 1 b 2 o) rfl (by rw [wMEM_m]; decide) (fun hw => ?_) rfl
  replace hw : (selOk b) = true := hw
  simp only [selOk, decide_eq_true_eq] at hw
  rw [decodeWord_0b (wMEM_m ..), decMajor0b, wMEM_z, wMEM_u]
  change (fun w : Word => chk [w.extractLsb' 14 6] [] (.ldN32 (w.extractLsb' 21 5) (w.extractLsb' 14 6) (w.extractLsb' 0 12))) (wMEM 11 d 1 b 2 o) = _
  simp only [wMEM_a, wMEM_d, wMEM_o, chk, okSels, okZeros, hw, if_true]

theorem ldD (d : BitVec 5) (b : BitVec 6) (o : BitVec 12) : Statement (.ldD d b o) := by
  refine of_word (w := wMEM 11 d 0 b 3 o) rfl (by rw [wMEM_m]; decide) (fun hw => ?_) rfl
  replace hw : (selOk b) = true := hw
  simp only [selOk, decide_eq_true_eq] at hw
  rw [decodeWord_0b (wMEM_m ..), decMajor0b, wMEM_z, wMEM_u]
  change (fun w : Word => chk [w.extractLsb' 14 6] [] (.ldD (w.extractLsb' 21 5) (w.extractLsb' 14 6) (w.extractLsb' 0 12))) (wMEM 11 d 0 b 3 o) = _
  simp only [wMEM_a, wMEM_d, wMEM_o, chk, okSels, okZeros, hw, if_true]

theorem stB (s : BitVec 5) (b : BitVec 6) (o : BitVec 12) : Statement (.stB s b o) := by
  refine of_word (w := wMEM 12 s 0 b 0 o) rfl (by rw [wMEM_m]; decide) (fun hw => ?_) rfl
  replace hw : (selOk b) = true := hw
  simp only [selOk, decide_eq_true_eq] at hw
  rw [decodeWord_0c (wMEM_m ..), decMajor0c, wMEM_z]
  change (fun w : Word => chk [w.extractLsb' 14 6] [zf w 20 1 false] (.stB (w.extractLsb' 21 5) (w.extractLsb' 14 6) (w.extractLsb' 0 12))) (wMEM 12 s 0 b 0 o) = _
  simp only [wMEM_a, wMEM_u, wMEM_d, wMEM_o, chk, okSels, okZeros, zf, hw, if_true]
  rfl

theorem stH (s : BitVec 5) (b : BitVec 6) (o : BitVec 12) : Statement (.stH s b o) := by
  refine of_word (w := wMEM 12 s 0 b 1 o) rfl (by rw [wMEM_m]; decide) (fun hw => ?_) rfl
  replace hw : (selOk b) = true := hw
  simp only [selOk, decide_eq_true_eq] at hw
  rw [decodeWord_0c (wMEM_m ..), decMajor0c, wMEM_z]
  change (fun w : Word => chk [w.extractLsb' 14 6] [zf w 20 1 false] (.stH (w.extractLsb' 21 5) (w.extractLsb' 14 6) (w.extractLsb' 0 12))) (wMEM 12 s 0 b 1 o) = _
  simp only [wMEM_a, wMEM_u, wMEM_d, wMEM_o, chk, okSels, okZeros, zf, hw, if_true]
  rfl

theorem stW (s : BitVec 5) (b : BitVec 6) (o : BitVec 12) : Statement (.stW s b o) := by
  refine of_word (w := wMEM 12 s 0 b 2 o) rfl (by rw [wMEM_m]; decide) (fun hw => ?_) rfl
  replace hw : (selOk b) = true := hw
  simp only [selOk, decide_eq_true_eq] at hw
  rw [decodeWord_0c (wMEM_m ..), decMajor0c, wMEM_z]
  change (fun w : Word => chk [w.extractLsb' 14 6] [zf w 20 1 false] (.stW (w.extractLsb' 21 5) (w.extractLsb' 14 6) (w.extractLsb' 0 12))) (wMEM 12 s 0 b 2 o) = _
  simp only [wMEM_a, wMEM_u, wMEM_d, wMEM_o, chk, okSels, okZeros, zf, hw, if_true]
  rfl

theorem stD (s : BitVec 5) (b : BitVec 6) (o : BitVec 12) : Statement (.stD s b o) := by
  refine of_word (w := wMEM 12 s 0 b 3 o) rfl (by rw [wMEM_m]; decide) (fun hw => ?_) rfl
  replace hw : (selOk b) = true := hw
  simp only [selOk, decide_eq_true_eq] at hw
  rw [decodeWord_0c (wMEM_m ..), decMajor0c, wMEM_z]
  change (fun w : Word => chk [w.extractLsb' 14 6] [zf w 20 1 false] (.stD (w.extractLsb' 21 5) (w.extractLsb' 14 6) (w.extractLsb' 0 12))) (wMEM 12 s 0 b 3 o) = _
  simp only [wMEM_a, wMEM_u, wMEM_d, wMEM_o, chk, okSels, okZeros, zf, hw, if_true]
  rfl

theorem stfW (s : BitVec 5) (b : BitVec 6) (o : BitVec 12) : Statement (.stfW s b o) := by
  refine of_word (w := wMEM 13 s 0 b 0 o) rfl (by rw [wMEM_m]; decide) (fun hw => ?_) rfl
  replace hw : (selOk b) = true := hw
  simp only [selOk, decide_eq_true_eq] at hw
  rw [decodeWord_0d (wMEM_m ..), decMajor0d, wMEM_z]
  change (fun w : Word => chk [w.extractLsb' 14 6] [zf w 20 1 false] (.stfW (w.extractLsb' 21 5) (w.extractLsb' 14 6) (w.extractLsb' 0 12))) (wMEM 13 s 0 b 0 o) = _
  simp only [wMEM_a, wMEM_u, wMEM_d, wMEM_o, chk, okSels, okZeros, zf, hw, if_true]
  rfl

theorem stfD (s : BitVec 5) (b : BitVec 6) (o : BitVec 12) : Statement (.stfD s b o) := by
  refine of_word (w := wMEM 13 s 0 b 1 o) rfl (by rw [wMEM_m]; decide) (fun hw => ?_) rfl
  replace hw : (selOk b) = true := hw
  simp only [selOk, decide_eq_true_eq] at hw
  rw [decodeWord_0d (wMEM_m ..), decMajor0d, wMEM_z]
  change (fun w : Word => chk [w.extractLsb' 14 6] [zf w 20 1 false] (.stfD (w.extractLsb' 21 5) (w.extractLsb' 14 6) (w.extractLsb' 0 12))) (wMEM 13 s 0 b 1 o) = _
  simp only [wMEM_a, wMEM_u, wMEM_d, wMEM_o, chk, okSels, okZeros, zf, hw, if_true]
  rfl

theorem ldfWKeep (d : BitVec 5) (b : BitVec 6) (o : BitVec 12) : Statement (.ldfWKeep d b o) := by
  refine of_word (w := wMEM 13 d 0 b 2 o) rfl (by rw [wMEM_m]; decide) (fun hw => ?_) rfl
  replace hw : (selOk b) = true := hw
  simp only [selOk, decide_eq_true_eq] at hw
  have := d.isLt; have := b.isLt; have := o.isLt
  have e1 : (wMEM 13 d 0 b 2 o).extractLsb' 20 1 = 0 := field_eq _ _ _ (by
    rw [wMEM_toNat]; simp only [BitVec.ofNat_eq_ofNat, BitVec.toNat_ofNat]; omega)
  rw [decodeWord_0d (wMEM_m ..)]
  simp only [decMajor0d, wMEM_z, wMEM_a, wMEM_d, wMEM_o, e1, chk, okSels, okZeros, zf, hw, if_true]
  rfl

theorem ldfWTake (d : BitVec 5) (b : BitVec 6) (o : BitVec 12) : Statement (.ldfWTake d b o) := by
  refine of_word (w := wMEM 13 d 1 b 2 o) rfl (by rw [wMEM_m]; decide) (fun hw => ?_) rfl
  replace hw : (selOk b) = true := hw
  simp only [selOk, decide_eq_true_eq] at hw
  rw [decodeWord_0d (wMEM_m ..)]
  simp only [decMajor0d, wMEM_z, wMEM_a, wMEM_d, wMEM_o, wMEM_u, chk, okSels, okZeros, zf, hw, if_true]
  rfl

theorem ldfDKeep (d : BitVec 5) (b : BitVec 6) (o : BitVec 12) : Statement (.ldfDKeep d b o) := by
  refine of_word (w := wMEM 13 d 0 b 3 o) rfl (by rw [wMEM_m]; decide) (fun hw => ?_) rfl
  replace hw : (selOk b) = true := hw
  simp only [selOk, decide_eq_true_eq] at hw
  have := d.isLt; have := b.isLt; have := o.isLt
  have e1 : (wMEM 13 d 0 b 3 o).extractLsb' 20 1 = 0 := field_eq _ _ _ (by
    rw [wMEM_toNat]; simp only [BitVec.ofNat_eq_ofNat, BitVec.toNat_ofNat]; omega)
  rw [decodeWord_0d (wMEM_m ..)]
  simp only [decMajor0d, wMEM_z, wMEM_a, wMEM_d, wMEM_o, e1, chk, okSels, okZeros, zf, hw, if_true]
  rfl

theorem ldfDTake (d : BitVec 5) (b : BitVec 6) (o : BitVec 12) : Statement (.ldfDTake d b o) := by
  refine of_word (w := wMEM 13 d 1 b 3 o) rfl (by rw [wMEM_m]; decide) (fun hw => ?_) rfl
  replace hw : (selOk b) = true := hw
  simp only [selOk, decide_eq_true_eq] at hw
  rw [decodeWord_0d (wMEM_m ..)]
  simp only [decMajor0d, wMEM_z, wMEM_a, wMEM_d, wMEM_o, wMEM_u, chk, okSels, okZeros, zf, hw, if_true]
  rfl

theorem aaddW (d : BitVec 5) (n : BitVec 1) (a : BitVec 6) (b : BitVec 6) : Statement (.aaddW d n a b) := by
  refine of_word (w := wRR 14 d n a b 0) rfl (by rw [wRR_m]; decide) (fun hw => ?_) rfl
  replace hw : (selOk a && selOk b) = true := hw
  simp only [selOk, Bool.and_eq_true, decide_eq_true_eq] at hw
  rw [decodeWord_0e (wRR_m ..), decMajor0e, wRR_f]
  change (fun w : Word => chk [w.extractLsb' 14 6, w.extractLsb' 8 6] [] (.aaddW (w.extractLsb' 21 5) (w.extractLsb' 20 1) (w.extractLsb' 14 6) (w.extractLsb' 8 6))) (wRR 14 d n a b 0) = _
  simp only [wRR_a, wRR_b, wRR_d, wRR_n, chk, okSels, okZeros, hw, if_true]

theorem aaddD (d : BitVec 5) (n : BitVec 1) (a : BitVec 6) (b : BitVec 6) : Statement (.aaddD d n a b) := by
  refine of_word (w := wRR 14 d n a b 1) rfl (by rw [wRR_m]; decide) (fun hw => ?_) rfl
  replace hw : (selOk a && selOk b) = true := hw
  simp only [selOk, Bool.and_eq_true, decide_eq_true_eq] at hw
  rw [decodeWord_0e (wRR_m ..), decMajor0e, wRR_f]
  change (fun w : Word => chk [w.extractLsb' 14 6, w.extractLsb' 8 6] [] (.aaddD (w.extractLsb' 21 5) (w.extractLsb' 20 1) (w.extractLsb' 14 6) (w.extractLsb' 8 6))) (wRR 14 d n a b 1) = _
  simp only [wRR_a, wRR_b, wRR_d, wRR_n, chk, okSels, okZeros, hw, if_true]

theorem asaddW (d : BitVec 5) (n : BitVec 1) (a : BitVec 6) (b : BitVec 6) : Statement (.asaddW d n a b) := by
  refine of_word (w := wRR 14 d n a b 2) rfl (by rw [wRR_m]; decide) (fun hw => ?_) rfl
  replace hw : (selOk a && selOk b) = true := hw
  simp only [selOk, Bool.and_eq_true, decide_eq_true_eq] at hw
  rw [decodeWord_0e (wRR_m ..), decMajor0e, wRR_f]
  change (fun w : Word => chk [w.extractLsb' 14 6, w.extractLsb' 8 6] [] (.asaddW (w.extractLsb' 21 5) (w.extractLsb' 20 1) (w.extractLsb' 14 6) (w.extractLsb' 8 6))) (wRR 14 d n a b 2) = _
  simp only [wRR_a, wRR_b, wRR_d, wRR_n, chk, okSels, okZeros, hw, if_true]

theorem asaddD (d : BitVec 5) (n : BitVec 1) (a : BitVec 6) (b : BitVec 6) : Statement (.asaddD d n a b) := by
  refine of_word (w := wRR 14 d n a b 3) rfl (by rw [wRR_m]; decide) (fun hw => ?_) rfl
  replace hw : (selOk a && selOk b) = true := hw
  simp only [selOk, Bool.and_eq_true, decide_eq_true_eq] at hw
  rw [decodeWord_0e (wRR_m ..), decMajor0e, wRR_f]
  change (fun w : Word => chk [w.extractLsb' 14 6, w.extractLsb' 8 6] [] (.asaddD (w.extractLsb' 21 5) (w.extractLsb' 20 1) (w.extractLsb' 14 6) (w.extractLsb' 8 6))) (wRR 14 d n a b 3) = _
  simp only [wRR_a, wRR_b, wRR_d, wRR_n, chk, okSels, okZeros, hw, if_true]

theorem aminW (d : BitVec 5) (n : BitVec 1) (a : BitVec 6) (b : BitVec 6) : Statement (.aminW d n a b) := by
  refine of_word (w := wRR 14 d n a b 4) rfl (by rw [wRR_m]; decide) (fun hw => ?_) rfl
  replace hw : (selOk a && selOk b) = true := hw
  simp only [selOk, Bool.and_eq_true, decide_eq_true_eq] at hw
  rw [decodeWord_0e (wRR_m ..), decMajor0e, wRR_f]
  change (fun w : Word => chk [w.extractLsb' 14 6, w.extractLsb' 8 6] [] (.aminW (w.extractLsb' 21 5) (w.extractLsb' 20 1) (w.extractLsb' 14 6) (w.extractLsb' 8 6))) (wRR 14 d n a b 4) = _
  simp only [wRR_a, wRR_b, wRR_d, wRR_n, chk, okSels, okZeros, hw, if_true]

theorem aminD (d : BitVec 5) (n : BitVec 1) (a : BitVec 6) (b : BitVec 6) : Statement (.aminD d n a b) := by
  refine of_word (w := wRR 14 d n a b 5) rfl (by rw [wRR_m]; decide) (fun hw => ?_) rfl
  replace hw : (selOk a && selOk b) = true := hw
  simp only [selOk, Bool.and_eq_true, decide_eq_true_eq] at hw
  rw [decodeWord_0e (wRR_m ..), decMajor0e, wRR_f]
  change (fun w : Word => chk [w.extractLsb' 14 6, w.extractLsb' 8 6] [] (.aminD (w.extractLsb' 21 5) (w.extractLsb' 20 1) (w.extractLsb' 14 6) (w.extractLsb' 8 6))) (wRR 14 d n a b 5) = _
  simp only [wRR_a, wRR_b, wRR_d, wRR_n, chk, okSels, okZeros, hw, if_true]

theorem amaxW (d : BitVec 5) (n : BitVec 1) (a : BitVec 6) (b : BitVec 6) : Statement (.amaxW d n a b) := by
  refine of_word (w := wRR 14 d n a b 6) rfl (by rw [wRR_m]; decide) (fun hw => ?_) rfl
  replace hw : (selOk a && selOk b) = true := hw
  simp only [selOk, Bool.and_eq_true, decide_eq_true_eq] at hw
  rw [decodeWord_0e (wRR_m ..), decMajor0e, wRR_f]
  change (fun w : Word => chk [w.extractLsb' 14 6, w.extractLsb' 8 6] [] (.amaxW (w.extractLsb' 21 5) (w.extractLsb' 20 1) (w.extractLsb' 14 6) (w.extractLsb' 8 6))) (wRR 14 d n a b 6) = _
  simp only [wRR_a, wRR_b, wRR_d, wRR_n, chk, okSels, okZeros, hw, if_true]

theorem amaxD (d : BitVec 5) (n : BitVec 1) (a : BitVec 6) (b : BitVec 6) : Statement (.amaxD d n a b) := by
  refine of_word (w := wRR 14 d n a b 7) rfl (by rw [wRR_m]; decide) (fun hw => ?_) rfl
  replace hw : (selOk a && selOk b) = true := hw
  simp only [selOk, Bool.and_eq_true, decide_eq_true_eq] at hw
  rw [decodeWord_0e (wRR_m ..), decMajor0e, wRR_f]
  change (fun w : Word => chk [w.extractLsb' 14 6, w.extractLsb' 8 6] [] (.amaxD (w.extractLsb' 21 5) (w.extractLsb' 20 1) (w.extractLsb' 14 6) (w.extractLsb' 8 6))) (wRR 14 d n a b 7) = _
  simp only [wRR_a, wRR_b, wRR_d, wRR_n, chk, okSels, okZeros, hw, if_true]

theorem aminnW (d : BitVec 5) (n : BitVec 1) (a : BitVec 6) (b : BitVec 6) : Statement (.aminnW d n a b) := by
  refine of_word (w := wRR 14 d n a b 8) rfl (by rw [wRR_m]; decide) (fun hw => ?_) rfl
  replace hw : (selOk a && selOk b) = true := hw
  simp only [selOk, Bool.and_eq_true, decide_eq_true_eq] at hw
  rw [decodeWord_0e (wRR_m ..), decMajor0e, wRR_f]
  change (fun w : Word => chk [w.extractLsb' 14 6, w.extractLsb' 8 6] [] (.aminnW (w.extractLsb' 21 5) (w.extractLsb' 20 1) (w.extractLsb' 14 6) (w.extractLsb' 8 6))) (wRR 14 d n a b 8) = _
  simp only [wRR_a, wRR_b, wRR_d, wRR_n, chk, okSels, okZeros, hw, if_true]

theorem aminnD (d : BitVec 5) (n : BitVec 1) (a : BitVec 6) (b : BitVec 6) : Statement (.aminnD d n a b) := by
  refine of_word (w := wRR 14 d n a b 9) rfl (by rw [wRR_m]; decide) (fun hw => ?_) rfl
  replace hw : (selOk a && selOk b) = true := hw
  simp only [selOk, Bool.and_eq_true, decide_eq_true_eq] at hw
  rw [decodeWord_0e (wRR_m ..), decMajor0e, wRR_f]
  change (fun w : Word => chk [w.extractLsb' 14 6, w.extractLsb' 8 6] [] (.aminnD (w.extractLsb' 21 5) (w.extractLsb' 20 1) (w.extractLsb' 14 6) (w.extractLsb' 8 6))) (wRR 14 d n a b 9) = _
  simp only [wRR_a, wRR_b, wRR_d, wRR_n, chk, okSels, okZeros, hw, if_true]

theorem amaxnW (d : BitVec 5) (n : BitVec 1) (a : BitVec 6) (b : BitVec 6) : Statement (.amaxnW d n a b) := by
  refine of_word (w := wRR 14 d n a b 10) rfl (by rw [wRR_m]; decide) (fun hw => ?_) rfl
  replace hw : (selOk a && selOk b) = true := hw
  simp only [selOk, Bool.and_eq_true, decide_eq_true_eq] at hw
  rw [decodeWord_0e (wRR_m ..), decMajor0e, wRR_f]
  change (fun w : Word => chk [w.extractLsb' 14 6, w.extractLsb' 8 6] [] (.amaxnW (w.extractLsb' 21 5) (w.extractLsb' 20 1) (w.extractLsb' 14 6) (w.extractLsb' 8 6))) (wRR 14 d n a b 10) = _
  simp only [wRR_a, wRR_b, wRR_d, wRR_n, chk, okSels, okZeros, hw, if_true]

theorem amaxnD (d : BitVec 5) (n : BitVec 1) (a : BitVec 6) (b : BitVec 6) : Statement (.amaxnD d n a b) := by
  refine of_word (w := wRR 14 d n a b 11) rfl (by rw [wRR_m]; decide) (fun hw => ?_) rfl
  replace hw : (selOk a && selOk b) = true := hw
  simp only [selOk, Bool.and_eq_true, decide_eq_true_eq] at hw
  rw [decodeWord_0e (wRR_m ..), decMajor0e, wRR_f]
  change (fun w : Word => chk [w.extractLsb' 14 6, w.extractLsb' 8 6] [] (.amaxnD (w.extractLsb' 21 5) (w.extractLsb' 20 1) (w.extractLsb' 14 6) (w.extractLsb' 8 6))) (wRR 14 d n a b 11) = _
  simp only [wRR_a, wRR_b, wRR_d, wRR_n, chk, okSels, okZeros, hw, if_true]

theorem aandW (d : BitVec 5) (n : BitVec 1) (a : BitVec 6) (b : BitVec 6) : Statement (.aandW d n a b) := by
  refine of_word (w := wRR 14 d n a b 12) rfl (by rw [wRR_m]; decide) (fun hw => ?_) rfl
  replace hw : (selOk a && selOk b) = true := hw
  simp only [selOk, Bool.and_eq_true, decide_eq_true_eq] at hw
  rw [decodeWord_0e (wRR_m ..), decMajor0e, wRR_f]
  change (fun w : Word => chk [w.extractLsb' 14 6, w.extractLsb' 8 6] [] (.aandW (w.extractLsb' 21 5) (w.extractLsb' 20 1) (w.extractLsb' 14 6) (w.extractLsb' 8 6))) (wRR 14 d n a b 12) = _
  simp only [wRR_a, wRR_b, wRR_d, wRR_n, chk, okSels, okZeros, hw, if_true]

theorem aandD (d : BitVec 5) (n : BitVec 1) (a : BitVec 6) (b : BitVec 6) : Statement (.aandD d n a b) := by
  refine of_word (w := wRR 14 d n a b 13) rfl (by rw [wRR_m]; decide) (fun hw => ?_) rfl
  replace hw : (selOk a && selOk b) = true := hw
  simp only [selOk, Bool.and_eq_true, decide_eq_true_eq] at hw
  rw [decodeWord_0e (wRR_m ..), decMajor0e, wRR_f]
  change (fun w : Word => chk [w.extractLsb' 14 6, w.extractLsb' 8 6] [] (.aandD (w.extractLsb' 21 5) (w.extractLsb' 20 1) (w.extractLsb' 14 6) (w.extractLsb' 8 6))) (wRR 14 d n a b 13) = _
  simp only [wRR_a, wRR_b, wRR_d, wRR_n, chk, okSels, okZeros, hw, if_true]

theorem aorW (d : BitVec 5) (n : BitVec 1) (a : BitVec 6) (b : BitVec 6) : Statement (.aorW d n a b) := by
  refine of_word (w := wRR 14 d n a b 14) rfl (by rw [wRR_m]; decide) (fun hw => ?_) rfl
  replace hw : (selOk a && selOk b) = true := hw
  simp only [selOk, Bool.and_eq_true, decide_eq_true_eq] at hw
  rw [decodeWord_0e (wRR_m ..), decMajor0e, wRR_f]
  change (fun w : Word => chk [w.extractLsb' 14 6, w.extractLsb' 8 6] [] (.aorW (w.extractLsb' 21 5) (w.extractLsb' 20 1) (w.extractLsb' 14 6) (w.extractLsb' 8 6))) (wRR 14 d n a b 14) = _
  simp only [wRR_a, wRR_b, wRR_d, wRR_n, chk, okSels, okZeros, hw, if_true]

theorem aorD (d : BitVec 5) (n : BitVec 1) (a : BitVec 6) (b : BitVec 6) : Statement (.aorD d n a b) := by
  refine of_word (w := wRR 14 d n a b 15) rfl (by rw [wRR_m]; decide) (fun hw => ?_) rfl
  replace hw : (selOk a && selOk b) = true := hw
  simp only [selOk, Bool.and_eq_true, decide_eq_true_eq] at hw
  rw [decodeWord_0e (wRR_m ..), decMajor0e, wRR_f]
  change (fun w : Word => chk [w.extractLsb' 14 6, w.extractLsb' 8 6] [] (.aorD (w.extractLsb' 21 5) (w.extractLsb' 20 1) (w.extractLsb' 14 6) (w.extractLsb' 8 6))) (wRR 14 d n a b 15) = _
  simp only [wRR_a, wRR_b, wRR_d, wRR_n, chk, okSels, okZeros, hw, if_true]

theorem axorW (d : BitVec 5) (n : BitVec 1) (a : BitVec 6) (b : BitVec 6) : Statement (.axorW d n a b) := by
  refine of_word (w := wRR 14 d n a b 16) rfl (by rw [wRR_m]; decide) (fun hw => ?_) rfl
  replace hw : (selOk a && selOk b) = true := hw
  simp only [selOk, Bool.and_eq_true, decide_eq_true_eq] at hw
  rw [decodeWord_0e (wRR_m ..), decMajor0e, wRR_f]
  change (fun w : Word => chk [w.extractLsb' 14 6, w.extractLsb' 8 6] [] (.axorW (w.extractLsb' 21 5) (w.extractLsb' 20 1) (w.extractLsb' 14 6) (w.extractLsb' 8 6))) (wRR 14 d n a b 16) = _
  simp only [wRR_a, wRR_b, wRR_d, wRR_n, chk, okSels, okZeros, hw, if_true]

theorem axorD (d : BitVec 5) (n : BitVec 1) (a : BitVec 6) (b : BitVec 6) : Statement (.axorD d n a b) := by
  refine of_word (w := wRR 14 d n a b 17) rfl (by rw [wRR_m]; decide) (fun hw => ?_) rfl
  replace hw : (selOk a && selOk b) = true := hw
  simp only [selOk, Bool.and_eq_true, decide_eq_true_eq] at hw
  rw [decodeWord_0e (wRR_m ..), decMajor0e, wRR_f]
  change (fun w : Word => chk [w.extractLsb' 14 6, w.extractLsb' 8 6] [] (.axorD (w.extractLsb' 21 5) (w.extractLsb' 20 1) (w.extractLsb' 14 6) (w.extractLsb' 8 6))) (wRR 14 d n a b 17) = _
  simp only [wRR_a, wRR_b, wRR_d, wRR_n, chk, okSels, okZeros, hw, if_true]

theorem aswapW (d : BitVec 5) (n : BitVec 1) (a : BitVec 6) (b : BitVec 6) : Statement (.aswapW d n a b) := by
  refine of_word (w := wRR 14 d n a b 18) rfl (by rw [wRR_m]; decide) (fun hw => ?_) rfl
  replace hw : (selOk a && selOk b) = true := hw
  simp only [selOk, Bool.and_eq_true, decide_eq_true_eq] at hw
  rw [decodeWord_0e (wRR_m ..), decMajor0e, wRR_f]
  change (fun w : Word => chk [w.extractLsb' 14 6, w.extractLsb' 8 6] [] (.aswapW (w.extractLsb' 21 5) (w.extractLsb' 20 1) (w.extractLsb' 14 6) (w.extractLsb' 8 6))) (wRR 14 d n a b 18) = _
  simp only [wRR_a, wRR_b, wRR_d, wRR_n, chk, okSels, okZeros, hw, if_true]

theorem aswapD (d : BitVec 5) (n : BitVec 1) (a : BitVec 6) (b : BitVec 6) : Statement (.aswapD d n a b) := by
  refine of_word (w := wRR 14 d n a b 19) rfl (by rw [wRR_m]; decide) (fun hw => ?_) rfl
  replace hw : (selOk a && selOk b) = true := hw
  simp only [selOk, Bool.and_eq_true, decide_eq_true_eq] at hw
  rw [decodeWord_0e (wRR_m ..), decMajor0e, wRR_f]
  change (fun w : Word => chk [w.extractLsb' 14 6, w.extractLsb' 8 6] [] (.aswapD (w.extractLsb' 21 5) (w.extractLsb' 20 1) (w.extractLsb' 14 6) (w.extractLsb' 8 6))) (wRR 14 d n a b 19) = _
  simp only [wRR_a, wRR_b, wRR_d, wRR_n, chk, okSels, okZeros, hw, if_true]

theorem acasW (d : BitVec 5) (n : BitVec 1) (a : BitVec 6) (b : BitVec 6) : Statement (.acasW d n a b) := by
  refine of_word (w := wRR 14 d n a b 20) rfl (by rw [wRR_m]; decide) (fun hw => ?_) rfl
  replace hw : (selOk a && selOk b) = true := hw
  simp only [selOk, Bool.and_eq_true, decide_eq_true_eq] at hw
  rw [decodeWord_0e (wRR_m ..), decMajor0e, wRR_f]
  change (fun w : Word => chk [w.extractLsb' 14 6, w.extractLsb' 8 6] [] (.acasW (w.extractLsb' 21 5) (w.extractLsb' 20 1) (w.extractLsb' 14 6) (w.extractLsb' 8 6))) (wRR 14 d n a b 20) = _
  simp only [wRR_a, wRR_b, wRR_d, wRR_n, chk, okSels, okZeros, hw, if_true]

theorem acasD (d : BitVec 5) (n : BitVec 1) (a : BitVec 6) (b : BitVec 6) : Statement (.acasD d n a b) := by
  refine of_word (w := wRR 14 d n a b 21) rfl (by rw [wRR_m]; decide) (fun hw => ?_) rfl
  replace hw : (selOk a && selOk b) = true := hw
  simp only [selOk, Bool.and_eq_true, decide_eq_true_eq] at hw
  rw [decodeWord_0e (wRR_m ..), decMajor0e, wRR_f]
  change (fun w : Word => chk [w.extractLsb' 14 6, w.extractLsb' 8 6] [] (.acasD (w.extractLsb' 21 5) (w.extractLsb' 20 1) (w.extractLsb' 14 6) (w.extractLsb' 8 6))) (wRR 14 d n a b 21) = _
  simp only [wRR_a, wRR_b, wRR_d, wRR_n, chk, okSels, okZeros, hw, if_true]

theorem afaddW (d : BitVec 5) (n : BitVec 1) (a : BitVec 6) (b : BitVec 6) : Statement (.afaddW d n a b) := by
  refine of_word (w := wRR 14 d n a b 22) rfl (by rw [wRR_m]; decide) (fun hw => ?_) rfl
  replace hw : (selOk a && selOk b) = true := hw
  simp only [selOk, Bool.and_eq_true, decide_eq_true_eq] at hw
  rw [decodeWord_0e (wRR_m ..), decMajor0e, wRR_f]
  change (fun w : Word => chk [w.extractLsb' 14 6, w.extractLsb' 8 6] [] (.afaddW (w.extractLsb' 21 5) (w.extractLsb' 20 1) (w.extractLsb' 14 6) (w.extractLsb' 8 6))) (wRR 14 d n a b 22) = _
  simp only [wRR_a, wRR_b, wRR_d, wRR_n, chk, okSels, okZeros, hw, if_true]

theorem faddD (d : BitVec 5) (n : BitVec 1) (a : BitVec 6) (b : BitVec 6) : Statement (.faddD d n a b) := by
  refine of_word (w := wRR 15 d n a b 0) rfl (by rw [wRR_m]; decide) (fun hw => ?_) rfl
  replace hw : (selOk a && selOk b) = true := hw
  simp only [selOk, Bool.and_eq_true, decide_eq_true_eq] at hw
  rw [decodeWord_0f (wRR_m ..), decMajor0f, wRR_f]
  change (fun w : Word => chk [w.extractLsb' 14 6, w.extractLsb' 8 6] [] (.faddD (w.extractLsb' 21 5) (w.extractLsb' 20 1) (w.extractLsb' 14 6) (w.extractLsb' 8 6))) (wRR 15 d n a b 0) = _
  simp only [wRR_a, wRR_b, wRR_d, wRR_n, chk, okSels, okZeros, hw, if_true]

theorem faddS (d : BitVec 5) (n : BitVec 1) (a : BitVec 6) (b : BitVec 6) : Statement (.faddS d n a b) := by
  refine of_word (w := wRR 15 d n a b 1) rfl (by rw [wRR_m]; decide) (fun hw => ?_) rfl
  replace hw : (selOk a && selOk b) = true := hw
  simp only [selOk, Bool.and_eq_true, decide_eq_true_eq] at hw
  rw [decodeWord_0f (wRR_m ..), decMajor0f, wRR_f]
  change (fun w : Word => chk [w.extractLsb' 14 6, w.extractLsb' 8 6] [] (.faddS (w.extractLsb' 21 5) (w.extractLsb' 20 1) (w.extractLsb' 14 6) (w.extractLsb' 8 6))) (wRR 15 d n a b 1) = _
  simp only [wRR_a, wRR_b, wRR_d, wRR_n, chk, okSels, okZeros, hw, if_true]

theorem fsubD (d : BitVec 5) (n : BitVec 1) (a : BitVec 6) (b : BitVec 6) : Statement (.fsubD d n a b) := by
  refine of_word (w := wRR 15 d n a b 2) rfl (by rw [wRR_m]; decide) (fun hw => ?_) rfl
  replace hw : (selOk a && selOk b) = true := hw
  simp only [selOk, Bool.and_eq_true, decide_eq_true_eq] at hw
  rw [decodeWord_0f (wRR_m ..), decMajor0f, wRR_f]
  change (fun w : Word => chk [w.extractLsb' 14 6, w.extractLsb' 8 6] [] (.fsubD (w.extractLsb' 21 5) (w.extractLsb' 20 1) (w.extractLsb' 14 6) (w.extractLsb' 8 6))) (wRR 15 d n a b 2) = _
  simp only [wRR_a, wRR_b, wRR_d, wRR_n, chk, okSels, okZeros, hw, if_true]

theorem fsubS (d : BitVec 5) (n : BitVec 1) (a : BitVec 6) (b : BitVec 6) : Statement (.fsubS d n a b) := by
  refine of_word (w := wRR 15 d n a b 3) rfl (by rw [wRR_m]; decide) (fun hw => ?_) rfl
  replace hw : (selOk a && selOk b) = true := hw
  simp only [selOk, Bool.and_eq_true, decide_eq_true_eq] at hw
  rw [decodeWord_0f (wRR_m ..), decMajor0f, wRR_f]
  change (fun w : Word => chk [w.extractLsb' 14 6, w.extractLsb' 8 6] [] (.fsubS (w.extractLsb' 21 5) (w.extractLsb' 20 1) (w.extractLsb' 14 6) (w.extractLsb' 8 6))) (wRR 15 d n a b 3) = _
  simp only [wRR_a, wRR_b, wRR_d, wRR_n, chk, okSels, okZeros, hw, if_true]

theorem fmulD (d : BitVec 5) (n : BitVec 1) (a : BitVec 6) (b : BitVec 6) : Statement (.fmulD d n a b) := by
  refine of_word (w := wRR 15 d n a b 4) rfl (by rw [wRR_m]; decide) (fun hw => ?_) rfl
  replace hw : (selOk a && selOk b) = true := hw
  simp only [selOk, Bool.and_eq_true, decide_eq_true_eq] at hw
  rw [decodeWord_0f (wRR_m ..), decMajor0f, wRR_f]
  change (fun w : Word => chk [w.extractLsb' 14 6, w.extractLsb' 8 6] [] (.fmulD (w.extractLsb' 21 5) (w.extractLsb' 20 1) (w.extractLsb' 14 6) (w.extractLsb' 8 6))) (wRR 15 d n a b 4) = _
  simp only [wRR_a, wRR_b, wRR_d, wRR_n, chk, okSels, okZeros, hw, if_true]

theorem fmulS (d : BitVec 5) (n : BitVec 1) (a : BitVec 6) (b : BitVec 6) : Statement (.fmulS d n a b) := by
  refine of_word (w := wRR 15 d n a b 5) rfl (by rw [wRR_m]; decide) (fun hw => ?_) rfl
  replace hw : (selOk a && selOk b) = true := hw
  simp only [selOk, Bool.and_eq_true, decide_eq_true_eq] at hw
  rw [decodeWord_0f (wRR_m ..), decMajor0f, wRR_f]
  change (fun w : Word => chk [w.extractLsb' 14 6, w.extractLsb' 8 6] [] (.fmulS (w.extractLsb' 21 5) (w.extractLsb' 20 1) (w.extractLsb' 14 6) (w.extractLsb' 8 6))) (wRR 15 d n a b 5) = _
  simp only [wRR_a, wRR_b, wRR_d, wRR_n, chk, okSels, okZeros, hw, if_true]

theorem fminD (d : BitVec 5) (n : BitVec 1) (a : BitVec 6) (b : BitVec 6) : Statement (.fminD d n a b) := by
  refine of_word (w := wRR 15 d n a b 6) rfl (by rw [wRR_m]; decide) (fun hw => ?_) rfl
  replace hw : (selOk a && selOk b) = true := hw
  simp only [selOk, Bool.and_eq_true, decide_eq_true_eq] at hw
  rw [decodeWord_0f (wRR_m ..), decMajor0f, wRR_f]
  change (fun w : Word => chk [w.extractLsb' 14 6, w.extractLsb' 8 6] [] (.fminD (w.extractLsb' 21 5) (w.extractLsb' 20 1) (w.extractLsb' 14 6) (w.extractLsb' 8 6))) (wRR 15 d n a b 6) = _
  simp only [wRR_a, wRR_b, wRR_d, wRR_n, chk, okSels, okZeros, hw, if_true]

theorem fminS (d : BitVec 5) (n : BitVec 1) (a : BitVec 6) (b : BitVec 6) : Statement (.fminS d n a b) := by
  refine of_word (w := wRR 15 d n a b 7) rfl (by rw [wRR_m]; decide) (fun hw => ?_) rfl
  replace hw : (selOk a && selOk b) = true := hw
  simp only [selOk, Bool.and_eq_true, decide_eq_true_eq] at hw
  rw [decodeWord_0f (wRR_m ..), decMajor0f, wRR_f]
  change (fun w : Word => chk [w.extractLsb' 14 6, w.extractLsb' 8 6] [] (.fminS (w.extractLsb' 21 5) (w.extractLsb' 20 1) (w.extractLsb' 14 6) (w.extractLsb' 8 6))) (wRR 15 d n a b 7) = _
  simp only [wRR_a, wRR_b, wRR_d, wRR_n, chk, okSels, okZeros, hw, if_true]

theorem fmaxD (d : BitVec 5) (n : BitVec 1) (a : BitVec 6) (b : BitVec 6) : Statement (.fmaxD d n a b) := by
  refine of_word (w := wRR 15 d n a b 8) rfl (by rw [wRR_m]; decide) (fun hw => ?_) rfl
  replace hw : (selOk a && selOk b) = true := hw
  simp only [selOk, Bool.and_eq_true, decide_eq_true_eq] at hw
  rw [decodeWord_0f (wRR_m ..), decMajor0f, wRR_f]
  change (fun w : Word => chk [w.extractLsb' 14 6, w.extractLsb' 8 6] [] (.fmaxD (w.extractLsb' 21 5) (w.extractLsb' 20 1) (w.extractLsb' 14 6) (w.extractLsb' 8 6))) (wRR 15 d n a b 8) = _
  simp only [wRR_a, wRR_b, wRR_d, wRR_n, chk, okSels, okZeros, hw, if_true]

theorem fmaxS (d : BitVec 5) (n : BitVec 1) (a : BitVec 6) (b : BitVec 6) : Statement (.fmaxS d n a b) := by
  refine of_word (w := wRR 15 d n a b 9) rfl (by rw [wRR_m]; decide) (fun hw => ?_) rfl
  replace hw : (selOk a && selOk b) = true := hw
  simp only [selOk, Bool.and_eq_true, decide_eq_true_eq] at hw
  rw [decodeWord_0f (wRR_m ..), decMajor0f, wRR_f]
  change (fun w : Word => chk [w.extractLsb' 14 6, w.extractLsb' 8 6] [] (.fmaxS (w.extractLsb' 21 5) (w.extractLsb' 20 1) (w.extractLsb' 14 6) (w.extractLsb' 8 6))) (wRR 15 d n a b 9) = _
  simp only [wRR_a, wRR_b, wRR_d, wRR_n, chk, okSels, okZeros, hw, if_true]

theorem fabsD (d : BitVec 5) (n : BitVec 1) (a : BitVec 6) : Statement (.fabsD d n a) := by
  refine of_word (w := wRR 15 d n a 0 10) rfl (by rw [wRR_m]; decide) (fun hw => ?_) rfl
  replace hw : (selOk a) = true := hw
  simp only [selOk, decide_eq_true_eq] at hw
  rw [decodeWord_0f (wRR_m ..), decMajor0f, wRR_f]
  change (fun w : Word => chk [w.extractLsb' 14 6] [zf w 8 6 false] (.fabsD (w.extractLsb' 21 5) (w.extractLsb' 20 1) (w.extractLsb' 14 6))) (wRR 15 d n a 0 10) = _
  simp only [wRR_a, wRR_b, wRR_d, wRR_n, chk, okSels, okZeros, zf, hw, if_true]
  rfl

theorem fabsS (d : BitVec 5) (n : BitVec 1) (a : BitVec 6) : Statement (.fabsS d n a) := by
  refine of_word (w := wRR 15 d n a 0 11) rfl (by rw [wRR_m]; decide) (fun hw => ?_) rfl
  replace hw : (selOk a) = true := hw
  simp only [selOk, decide_eq_true_eq] at hw
  rw [decodeWord_0f (wRR_m ..), decMajor0f, wRR_f]
  change (fun w : Word => chk [w.extractLsb' 14 6] [zf w 8 6 false] (.fabsS (w.extractLsb' 21 5) (w.extractLsb' 20 1) (w.extractLsb' 14 6))) (wRR 15 d n a 0 11) = _
  simp only [wRR_a, wRR_b, wRR_d, wRR_n, chk, okSels, okZeros, zf, hw, if_true]
  rfl

theorem fnegD (d : BitVec 5) (n : BitVec 1) (a : BitVec 6) : Statement (.fnegD d n a) := by
  refine of_word (w := wRR 15 d n a 0 12) rfl (by rw [wRR_m]; decide) (fun hw => ?_) rfl
  replace hw : (selOk a) = true := hw
  simp only [selOk, decide_eq_true_eq] at hw
  rw [decodeWord_0f (wRR_m ..), decMajor0f, wRR_f]
  change (fun w : Word => chk [w.extractLsb' 14 6] [zf w 8 6 false] (.fnegD (w.extractLsb' 21 5) (w.extractLsb' 20 1) (w.extractLsb' 14 6))) (wRR 15 d n a 0 12) = _
  simp only [wRR_a, wRR_b, wRR_d, wRR_n, chk, okSels, okZeros, zf, hw, if_true]
  rfl

theorem fnegS (d : BitVec 5) (n : BitVec 1) (a : BitVec 6) : Statement (.fnegS d n a) := by
  refine of_word (w := wRR 15 d n a 0 13) rfl (by rw [wRR_m]; decide) (fun hw => ?_) rfl
  replace hw : (selOk a) = true := hw
  simp only [selOk, decide_eq_true_eq] at hw
  rw [decodeWord_0f (wRR_m ..), decMajor0f, wRR_f]
  change (fun w : Word => chk [w.extractLsb' 14 6] [zf w 8 6 false] (.fnegS (w.extractLsb' 21 5) (w.extractLsb' 20 1) (w.extractLsb' 14 6))) (wRR 15 d n a 0 13) = _
  simp only [wRR_a, wRR_b, wRR_d, wRR_n, chk, okSels, okZeros, zf, hw, if_true]
  rfl

theorem fceqD (d : BitVec 5) (n : BitVec 1) (a : BitVec 6) (b : BitVec 6) : Statement (.fceqD d n a b) := by
  refine of_word (w := wRR 15 d n a b 14) rfl (by rw [wRR_m]; decide) (fun hw => ?_) rfl
  replace hw : (selOk a && selOk b) = true := hw
  simp only [selOk, Bool.and_eq_true, decide_eq_true_eq] at hw
  rw [decodeWord_0f (wRR_m ..), decMajor0f, wRR_f]
  change (fun w : Word => chk [w.extractLsb' 14 6, w.extractLsb' 8 6] [] (.fceqD (w.extractLsb' 21 5) (w.extractLsb' 20 1) (w.extractLsb' 14 6) (w.extractLsb' 8 6))) (wRR 15 d n a b 14) = _
  simp only [wRR_a, wRR_b, wRR_d, wRR_n, chk, okSels, okZeros, hw, if_true]

theorem fceqS (d : BitVec 5) (n : BitVec 1) (a : BitVec 6) (b : BitVec 6) : Statement (.fceqS d n a b) := by
  refine of_word (w := wRR 15 d n a b 15) rfl (by rw [wRR_m]; decide) (fun hw => ?_) rfl
  replace hw : (selOk a && selOk b) = true := hw
  simp only [selOk, Bool.and_eq_true, decide_eq_true_eq] at hw
  rw [decodeWord_0f (wRR_m ..), decMajor0f, wRR_f]
  change (fun w : Word => chk [w.extractLsb' 14 6, w.extractLsb' 8 6] [] (.fceqS (w.extractLsb' 21 5) (w.extractLsb' 20 1) (w.extractLsb' 14 6) (w.extractLsb' 8 6))) (wRR 15 d n a b 15) = _
  simp only [wRR_a, wRR_b, wRR_d, wRR_n, chk, okSels, okZeros, hw, if_true]

theorem fcltD (d : BitVec 5) (n : BitVec 1) (a : BitVec 6) (b : BitVec 6) : Statement (.fcltD d n a b) := by
  refine of_word (w := wRR 15 d n a b 16) rfl (by rw [wRR_m]; decide) (fun hw => ?_) rfl
  replace hw : (selOk a && selOk b) = true := hw
  simp only [selOk, Bool.and_eq_true, decide_eq_true_eq] at hw
  rw [decodeWord_0f (wRR_m ..), decMajor0f, wRR_f]
  change (fun w : Word => chk [w.extractLsb' 14 6, w.extractLsb' 8 6] [] (.fcltD (w.extractLsb' 21 5) (w.extractLsb' 20 1) (w.extractLsb' 14 6) (w.extractLsb' 8 6))) (wRR 15 d n a b 16) = _
  simp only [wRR_a, wRR_b, wRR_d, wRR_n, chk, okSels, okZeros, hw, if_true]

theorem fcltS (d : BitVec 5) (n : BitVec 1) (a : BitVec 6) (b : BitVec 6) : Statement (.fcltS d n a b) := by
  refine of_word (w := wRR 15 d n a b 17) rfl (by rw [wRR_m]; decide) (fun hw => ?_) rfl
  replace hw : (selOk a && selOk b) = true := hw
  simp only [selOk, Bool.and_eq_true, decide_eq_true_eq] at hw
  rw [decodeWord_0f (wRR_m ..), decMajor0f, wRR_f]
  change (fun w : Word => chk [w.extractLsb' 14 6, w.extractLsb' 8 6] [] (.fcltS (w.extractLsb' 21 5) (w.extractLsb' 20 1) (w.extractLsb' 14 6) (w.extractLsb' 8 6))) (wRR 15 d n a b 17) = _
  simp only [wRR_a, wRR_b, wRR_d, wRR_n, chk, okSels, okZeros, hw, if_true]

theorem fcleD (d : BitVec 5) (n : BitVec 1) (a : BitVec 6) (b : BitVec 6) : Statement (.fcleD d n a b) := by
  refine of_word (w := wRR 15 d n a b 18) rfl (by rw [wRR_m]; decide) (fun hw => ?_) rfl
  replace hw : (selOk a && selOk b) = true := hw
  simp only [selOk, Bool.and_eq_true, decide_eq_true_eq] at hw
  rw [decodeWord_0f (wRR_m ..), decMajor0f, wRR_f]
  change (fun w : Word => chk [w.extractLsb' 14 6, w.extractLsb' 8 6] [] (.fcleD (w.extractLsb' 21 5) (w.extractLsb' 20 1) (w.extractLsb' 14 6) (w.extractLsb' 8 6))) (wRR 15 d n a b 18) = _
  simp only [wRR_a, wRR_b, wRR_d, wRR_n, chk, okSels, okZeros, hw, if_true]

theorem fcleS (d : BitVec 5) (n : BitVec 1) (a : BitVec 6) (b : BitVec 6) : Statement (.fcleS d n a b) := by
  refine of_word (w := wRR 15 d n a b 19) rfl (by rw [wRR_m]; decide) (fun hw => ?_) rfl
  replace hw : (selOk a && selOk b) = true := hw
  simp only [selOk, Bool.and_eq_true, decide_eq_true_eq] at hw
  rw [decodeWord_0f (wRR_m ..), decMajor0f, wRR_f]
  change (fun w : Word => chk [w.extractLsb' 14 6, w.extractLsb' 8 6] [] (.fcleS (w.extractLsb' 21 5) (w.extractLsb' 20 1) (w.extractLsb' 14 6) (w.extractLsb' 8 6))) (wRR 15 d n a b 19) = _
  simp only [wRR_a, wRR_b, wRR_d, wRR_n, chk, okSels, okZeros, hw, if_true]

theorem ffmaD (d : BitVec 5) (n : BitVec 1) (a : BitVec 6) (b : BitVec 6) : Statement (.ffmaD d n a b) := by
  refine of_word (w := wRR 16 d n a b 0) rfl (by rw [wRR_m]; decide) (fun hw => ?_) rfl
  replace hw : (selOk a && selOk b) = true := hw
  simp only [selOk, Bool.and_eq_true, decide_eq_true_eq] at hw
  rw [decodeWord_10 (wRR_m ..), decMajor10, wRR_f]
  change (fun w : Word => chk [w.extractLsb' 14 6, w.extractLsb' 8 6] [] (.ffmaD (w.extractLsb' 21 5) (w.extractLsb' 20 1) (w.extractLsb' 14 6) (w.extractLsb' 8 6))) (wRR 16 d n a b 0) = _
  simp only [wRR_a, wRR_b, wRR_d, wRR_n, chk, okSels, okZeros, hw, if_true]

theorem ffmaS (d : BitVec 5) (n : BitVec 1) (a : BitVec 6) (b : BitVec 6) : Statement (.ffmaS d n a b) := by
  refine of_word (w := wRR 16 d n a b 1) rfl (by rw [wRR_m]; decide) (fun hw => ?_) rfl
  replace hw : (selOk a && selOk b) = true := hw
  simp only [selOk, Bool.and_eq_true, decide_eq_true_eq] at hw
  rw [decodeWord_10 (wRR_m ..), decMajor10, wRR_f]
  change (fun w : Word => chk [w.extractLsb' 14 6, w.extractLsb' 8 6] [] (.ffmaS (w.extractLsb' 21 5) (w.extractLsb' 20 1) (w.extractLsb' 14 6) (w.extractLsb' 8 6))) (wRR 16 d n a b 1) = _
  simp only [wRR_a, wRR_b, wRR_d, wRR_n, chk, okSels, okZeros, hw, if_true]

theorem fcvtF32F64 (d : BitVec 5) (n : BitVec 1) (a : BitVec 6) (m : BitVec 3) : Statement (.fcvtF32F64 d n a m) := by
  refine of_word (w := wRR 17 d n a ((0 : BitVec 3) ++ m) 0) rfl (by rw [wRR_m]; decide) (fun hw => ?_) rfl
  replace hw : (selOk a && m.toNat < 5) = true := hw
  simp only [selOk, Bool.and_eq_true, decide_eq_true_eq] at hw
  have := d.isLt; have := n.isLt; have := a.isLt; have := m.isLt
  have e1 : (wRR 17 d n a ((0 : BitVec 3) ++ m) 0).extractLsb' 8 3 = m := field_eq _ _ _ (by
    rw [wRR_toNat]; simp only [append_toNat, BitVec.ofNat_eq_ofNat, BitVec.toNat_ofNat]; omega)
  have e3 : (wRR 17 d n a ((0 : BitVec 3) ++ m) 0).extractLsb' 11 3 = 0 := field_eq _ _ _ (by
    rw [wRR_toNat]; simp only [append_toNat, BitVec.ofNat_eq_ofNat, BitVec.toNat_ofNat]; omega)
  rw [decodeWord_11 (wRR_m ..), decMajor11, wRR_f]
  change (fun w : Word => chkMode (w.extractLsb' 8 3) (chk [w.extractLsb' 14 6] [zf w 11 3 false] (.fcvtF32F64 (w.extractLsb' 21 5) (w.extractLsb' 20 1) (w.extractLsb' 14 6) (w.extractLsb' 8 3)))) (wRR 17 d n a ((0 : BitVec 3) ++ m) 0) = _
  simp only [wRR_a, wRR_d, wRR_n, e1, e3, chk, okSels, okZeros, zf, hw, if_true, chkMode]
  rfl

theorem fcvtF64F32 (d : BitVec 5) (n : BitVec 1) (a : BitVec 6) (m : BitVec 3) : Statement (.fcvtF64F32 d n a m) := by
  refine of_word (w := wRR 17 d n a ((0 : BitVec 3) ++ m) 1) rfl (by rw [wRR_m]; decide) (fun hw => ?_) rfl
  replace hw : (selOk a && m.toNat < 5) = true := hw
  simp only [selOk, Bool.and_eq_true, decide_eq_true_eq] at hw
  have := d.isLt; have := n.isLt; have := a.isLt; have := m.isLt
  have e1 : (wRR 17 d n a ((0 : BitVec 3) ++ m) 1).extractLsb' 8 3 = m := field_eq _ _ _ (by
    rw [wRR_toNat]; simp only [append_toNat, BitVec.ofNat_eq_ofNat, BitVec.toNat_ofNat]; omega)
  have e3 : (wRR 17 d n a ((0 : BitVec 3) ++ m) 1).extractLsb' 11 3 = 0 := field_eq _ _ _ (by
    rw [wRR_toNat]; simp only [append_toNat, BitVec.ofNat_eq_ofNat, BitVec.toNat_ofNat]; omega)
  rw [decodeWord_11 (wRR_m ..), decMajor11, wRR_f]
  change (fun w : Word => chkMode (w.extractLsb' 8 3) (chk [w.extractLsb' 14 6] [zf w 11 3 false] (.fcvtF64F32 (w.extractLsb' 21 5) (w.extractLsb' 20 1) (w.extractLsb' 14 6) (w.extractLsb' 8 3)))) (wRR 17 d n a ((0 : BitVec 3) ++ m) 1) = _
  simp only [wRR_a, wRR_d, wRR_n, e1, e3, chk, okSels, okZeros, zf, hw, if_true, chkMode]
  rfl

theorem fcvtF16F32 (d : BitVec 5) (n : BitVec 1) (a : BitVec 6) (m : BitVec 3) : Statement (.fcvtF16F32 d n a m) := by
  refine of_word (w := wRR 17 d n a ((0 : BitVec 3) ++ m) 2) rfl (by rw [wRR_m]; decide) (fun hw => ?_) rfl
  replace hw : (selOk a && m.toNat < 5) = true := hw
  simp only [selOk, Bool.and_eq_true, decide_eq_true_eq] at hw
  have := d.isLt; have := n.isLt; have := a.isLt; have := m.isLt
  have e1 : (wRR 17 d n a ((0 : BitVec 3) ++ m) 2).extractLsb' 8 3 = m := field_eq _ _ _ (by
    rw [wRR_toNat]; simp only [append_toNat, BitVec.ofNat_eq_ofNat, BitVec.toNat_ofNat]; omega)
  have e3 : (wRR 17 d n a ((0 : BitVec 3) ++ m) 2).extractLsb' 11 3 = 0 := field_eq _ _ _ (by
    rw [wRR_toNat]; simp only [append_toNat, BitVec.ofNat_eq_ofNat, BitVec.toNat_ofNat]; omega)
  rw [decodeWord_11 (wRR_m ..), decMajor11, wRR_f]
  change (fun w : Word => chkMode (w.extractLsb' 8 3) (chk [w.extractLsb' 14 6] [zf w 11 3 false] (.fcvtF16F32 (w.extractLsb' 21 5) (w.extractLsb' 20 1) (w.extractLsb' 14 6) (w.extractLsb' 8 3)))) (wRR 17 d n a ((0 : BitVec 3) ++ m) 2) = _
  simp only [wRR_a, wRR_d, wRR_n, e1, e3, chk, okSels, okZeros, zf, hw, if_true, chkMode]
  rfl

theorem fcvtF32F16 (d : BitVec 5) (n : BitVec 1) (a : BitVec 6) (m : BitVec 3) : Statement (.fcvtF32F16 d n a m) := by
  refine of_word (w := wRR 17 d n a ((0 : BitVec 3) ++ m) 3) rfl (by rw [wRR_m]; decide) (fun hw => ?_) rfl
  replace hw : (selOk a && m.toNat < 5) = true := hw
  simp only [selOk, Bool.and_eq_true, decide_eq_true_eq] at hw
  have := d.isLt; have := n.isLt; have := a.isLt; have := m.isLt
  have e1 : (wRR 17 d n a ((0 : BitVec 3) ++ m) 3).extractLsb' 8 3 = m := field_eq _ _ _ (by
    rw [wRR_toNat]; simp only [append_toNat, BitVec.ofNat_eq_ofNat, BitVec.toNat_ofNat]; omega)
  have e3 : (wRR 17 d n a ((0 : BitVec 3) ++ m) 3).extractLsb' 11 3 = 0 := field_eq _ _ _ (by
    rw [wRR_toNat]; simp only [append_toNat, BitVec.ofNat_eq_ofNat, BitVec.toNat_ofNat]; omega)
  rw [decodeWord_11 (wRR_m ..), decMajor11, wRR_f]
  change (fun w : Word => chkMode (w.extractLsb' 8 3) (chk [w.extractLsb' 14 6] [zf w 11 3 false] (.fcvtF32F16 (w.extractLsb' 21 5) (w.extractLsb' 20 1) (w.extractLsb' 14 6) (w.extractLsb' 8 3)))) (wRR 17 d n a ((0 : BitVec 3) ++ m) 3) = _
  simp only [wRR_a, wRR_d, wRR_n, e1, e3, chk, okSels, okZeros, zf, hw, if_true, chkMode]
  rfl

theorem fcvtBf16F32 (d : BitVec 5) (n : BitVec 1) (a : BitVec 6) (m : BitVec 3) : Statement (.fcvtBf16F32 d n a m) := by
  refine of_word (w := wRR 17 d n a ((0 : BitVec 3) ++ m) 4) rfl (by rw [wRR_m]; decide) (fun hw => ?_) rfl
  replace hw : (selOk a && m.toNat < 5) = true := hw
  simp only [selOk, Bool.and_eq_true, decide_eq_true_eq] at hw
  have := d.isLt; have := n.isLt; have := a.isLt; have := m.isLt
  have e1 : (wRR 17 d n a ((0 : BitVec 3) ++ m) 4).extractLsb' 8 3 = m := field_eq _ _ _ (by
    rw [wRR_toNat]; simp only [append_toNat, BitVec.ofNat_eq_ofNat, BitVec.toNat_ofNat]; omega)
  have e3 : (wRR 17 d n a ((0 : BitVec 3) ++ m) 4).extractLsb' 11 3 = 0 := field_eq _ _ _ (by
    rw [wRR_toNat]; simp only [append_toNat, BitVec.ofNat_eq_ofNat, BitVec.toNat_ofNat]; omega)
  rw [decodeWord_11 (wRR_m ..), decMajor11, wRR_f]
  change (fun w : Word => chkMode (w.extractLsb' 8 3) (chk [w.extractLsb' 14 6] [zf w 11 3 false] (.fcvtBf16F32 (w.extractLsb' 21 5) (w.extractLsb' 20 1) (w.extractLsb' 14 6) (w.extractLsb' 8 3)))) (wRR 17 d n a ((0 : BitVec 3) ++ m) 4) = _
  simp only [wRR_a, wRR_d, wRR_n, e1, e3, chk, okSels, okZeros, zf, hw, if_true, chkMode]
  rfl

theorem fcvtF32Bf16 (d : BitVec 5) (n : BitVec 1) (a : BitVec 6) (m : BitVec 3) : Statement (.fcvtF32Bf16 d n a m) := by
  refine of_word (w := wRR 17 d n a ((0 : BitVec 3) ++ m) 5) rfl (by rw [wRR_m]; decide) (fun hw => ?_) rfl
  replace hw : (selOk a && m.toNat < 5) = true := hw
  simp only [selOk, Bool.and_eq_true, decide_eq_true_eq] at hw
  have := d.isLt; have := n.isLt; have := a.isLt; have := m.isLt
  have e1 : (wRR 17 d n a ((0 : BitVec 3) ++ m) 5).extractLsb' 8 3 = m := field_eq _ _ _ (by
    rw [wRR_toNat]; simp only [append_toNat, BitVec.ofNat_eq_ofNat, BitVec.toNat_ofNat]; omega)
  have e3 : (wRR 17 d n a ((0 : BitVec 3) ++ m) 5).extractLsb' 11 3 = 0 := field_eq _ _ _ (by
    rw [wRR_toNat]; simp only [append_toNat, BitVec.ofNat_eq_ofNat, BitVec.toNat_ofNat]; omega)
  rw [decodeWord_11 (wRR_m ..), decMajor11, wRR_f]
  change (fun w : Word => chkMode (w.extractLsb' 8 3) (chk [w.extractLsb' 14 6] [zf w 11 3 false] (.fcvtF32Bf16 (w.extractLsb' 21 5) (w.extractLsb' 20 1) (w.extractLsb' 14 6) (w.extractLsb' 8 3)))) (wRR 17 d n a ((0 : BitVec 3) ++ m) 5) = _
  simp only [wRR_a, wRR_d, wRR_n, e1, e3, chk, okSels, okZeros, zf, hw, if_true, chkMode]
  rfl

theorem fcvtKf8F32 (d : BitVec 5) (n : BitVec 1) (a : BitVec 6) (m : BitVec 3) : Statement (.fcvtKf8F32 d n a m) := by
  refine of_word (w := wRR 17 d n a ((0 : BitVec 3) ++ m) 6) rfl (by rw [wRR_m]; decide) (fun hw => ?_) rfl
  replace hw : (selOk a && m.toNat < 5) = true := hw
  simp only [selOk, Bool.and_eq_true, decide_eq_true_eq] at hw
  have := d.isLt; have := n.isLt; have := a.isLt; have := m.isLt
  have e1 : (wRR 17 d n a ((0 : BitVec 3) ++ m) 6).extractLsb' 8 3 = m := field_eq _ _ _ (by
    rw [wRR_toNat]; simp only [append_toNat, BitVec.ofNat_eq_ofNat, BitVec.toNat_ofNat]; omega)
  have e3 : (wRR 17 d n a ((0 : BitVec 3) ++ m) 6).extractLsb' 11 3 = 0 := field_eq _ _ _ (by
    rw [wRR_toNat]; simp only [append_toNat, BitVec.ofNat_eq_ofNat, BitVec.toNat_ofNat]; omega)
  rw [decodeWord_11 (wRR_m ..), decMajor11, wRR_f]
  change (fun w : Word => chkMode (w.extractLsb' 8 3) (chk [w.extractLsb' 14 6] [zf w 11 3 false] (.fcvtKf8F32 (w.extractLsb' 21 5) (w.extractLsb' 20 1) (w.extractLsb' 14 6) (w.extractLsb' 8 3)))) (wRR 17 d n a ((0 : BitVec 3) ++ m) 6) = _
  simp only [wRR_a, wRR_d, wRR_n, e1, e3, chk, okSels, okZeros, zf, hw, if_true, chkMode]
  rfl

theorem fcvtF32Kf8 (d : BitVec 5) (n : BitVec 1) (a : BitVec 6) (m : BitVec 3) : Statement (.fcvtF32Kf8 d n a m) := by
  refine of_word (w := wRR 17 d n a ((0 : BitVec 3) ++ m) 7) rfl (by rw [wRR_m]; decide) (fun hw => ?_) rfl
  replace hw : (selOk a && m.toNat < 5) = true := hw
  simp only [selOk, Bool.and_eq_true, decide_eq_true_eq] at hw
  have := d.isLt; have := n.isLt; have := a.isLt; have := m.isLt
  have e1 : (wRR 17 d n a ((0 : BitVec 3) ++ m) 7).extractLsb' 8 3 = m := field_eq _ _ _ (by
    rw [wRR_toNat]; simp only [append_toNat, BitVec.ofNat_eq_ofNat, BitVec.toNat_ofNat]; omega)
  have e3 : (wRR 17 d n a ((0 : BitVec 3) ++ m) 7).extractLsb' 11 3 = 0 := field_eq _ _ _ (by
    rw [wRR_toNat]; simp only [append_toNat, BitVec.ofNat_eq_ofNat, BitVec.toNat_ofNat]; omega)
  rw [decodeWord_11 (wRR_m ..), decMajor11, wRR_f]
  change (fun w : Word => chkMode (w.extractLsb' 8 3) (chk [w.extractLsb' 14 6] [zf w 11 3 false] (.fcvtF32Kf8 (w.extractLsb' 21 5) (w.extractLsb' 20 1) (w.extractLsb' 14 6) (w.extractLsb' 8 3)))) (wRR 17 d n a ((0 : BitVec 3) ++ m) 7) = _
  simp only [wRR_a, wRR_d, wRR_n, e1, e3, chk, okSels, okZeros, zf, hw, if_true, chkMode]
  rfl

theorem fcvtS64F64 (d : BitVec 5) (n : BitVec 1) (a : BitVec 6) (m : BitVec 3) : Statement (.fcvtS64F64 d n a m) := by
  refine of_word (w := wRR 17 d n a ((0 : BitVec 3) ++ m) 8) rfl (by rw [wRR_m]; decide) (fun hw => ?_) rfl
  replace hw : (selOk a && m.toNat < 5) = true := hw
  simp only [selOk, Bool.and_eq_true, decide_eq_true_eq] at hw
  have := d.isLt; have := n.isLt; have := a.isLt; have := m.isLt
  have e1 : (wRR 17 d n a ((0 : BitVec 3) ++ m) 8).extractLsb' 8 3 = m := field_eq _ _ _ (by
    rw [wRR_toNat]; simp only [append_toNat, BitVec.ofNat_eq_ofNat, BitVec.toNat_ofNat]; omega)
  have e3 : (wRR 17 d n a ((0 : BitVec 3) ++ m) 8).extractLsb' 11 3 = 0 := field_eq _ _ _ (by
    rw [wRR_toNat]; simp only [append_toNat, BitVec.ofNat_eq_ofNat, BitVec.toNat_ofNat]; omega)
  rw [decodeWord_11 (wRR_m ..), decMajor11, wRR_f]
  change (fun w : Word => chkMode (w.extractLsb' 8 3) (chk [w.extractLsb' 14 6] [zf w 11 3 false] (.fcvtS64F64 (w.extractLsb' 21 5) (w.extractLsb' 20 1) (w.extractLsb' 14 6) (w.extractLsb' 8 3)))) (wRR 17 d n a ((0 : BitVec 3) ++ m) 8) = _
  simp only [wRR_a, wRR_d, wRR_n, e1, e3, chk, okSels, okZeros, zf, hw, if_true, chkMode]
  rfl

theorem fcvtF64S64 (d : BitVec 5) (n : BitVec 1) (a : BitVec 6) (m : BitVec 3) : Statement (.fcvtF64S64 d n a m) := by
  refine of_word (w := wRR 17 d n a ((0 : BitVec 3) ++ m) 9) rfl (by rw [wRR_m]; decide) (fun hw => ?_) rfl
  replace hw : (selOk a && m.toNat < 5) = true := hw
  simp only [selOk, Bool.and_eq_true, decide_eq_true_eq] at hw
  have := d.isLt; have := n.isLt; have := a.isLt; have := m.isLt
  have e1 : (wRR 17 d n a ((0 : BitVec 3) ++ m) 9).extractLsb' 8 3 = m := field_eq _ _ _ (by
    rw [wRR_toNat]; simp only [append_toNat, BitVec.ofNat_eq_ofNat, BitVec.toNat_ofNat]; omega)
  have e3 : (wRR 17 d n a ((0 : BitVec 3) ++ m) 9).extractLsb' 11 3 = 0 := field_eq _ _ _ (by
    rw [wRR_toNat]; simp only [append_toNat, BitVec.ofNat_eq_ofNat, BitVec.toNat_ofNat]; omega)
  rw [decodeWord_11 (wRR_m ..), decMajor11, wRR_f]
  change (fun w : Word => chkMode (w.extractLsb' 8 3) (chk [w.extractLsb' 14 6] [zf w 11 3 false] (.fcvtF64S64 (w.extractLsb' 21 5) (w.extractLsb' 20 1) (w.extractLsb' 14 6) (w.extractLsb' 8 3)))) (wRR 17 d n a ((0 : BitVec 3) ++ m) 9) = _
  simp only [wRR_a, wRR_d, wRR_n, e1, e3, chk, okSels, okZeros, zf, hw, if_true, chkMode]
  rfl

theorem fcvtS32F32 (d : BitVec 5) (n : BitVec 1) (a : BitVec 6) (m : BitVec 3) : Statement (.fcvtS32F32 d n a m) := by
  refine of_word (w := wRR 17 d n a ((0 : BitVec 3) ++ m) 10) rfl (by rw [wRR_m]; decide) (fun hw => ?_) rfl
  replace hw : (selOk a && m.toNat < 5) = true := hw
  simp only [selOk, Bool.and_eq_true, decide_eq_true_eq] at hw
  have := d.isLt; have := n.isLt; have := a.isLt; have := m.isLt
  have e1 : (wRR 17 d n a ((0 : BitVec 3) ++ m) 10).extractLsb' 8 3 = m := field_eq _ _ _ (by
    rw [wRR_toNat]; simp only [append_toNat, BitVec.ofNat_eq_ofNat, BitVec.toNat_ofNat]; omega)
  have e3 : (wRR 17 d n a ((0 : BitVec 3) ++ m) 10).extractLsb' 11 3 = 0 := field_eq _ _ _ (by
    rw [wRR_toNat]; simp only [append_toNat, BitVec.ofNat_eq_ofNat, BitVec.toNat_ofNat]; omega)
  rw [decodeWord_11 (wRR_m ..), decMajor11, wRR_f]
  change (fun w : Word => chkMode (w.extractLsb' 8 3) (chk [w.extractLsb' 14 6] [zf w 11 3 false] (.fcvtS32F32 (w.extractLsb' 21 5) (w.extractLsb' 20 1) (w.extractLsb' 14 6) (w.extractLsb' 8 3)))) (wRR 17 d n a ((0 : BitVec 3) ++ m) 10) = _
  simp only [wRR_a, wRR_d, wRR_n, e1, e3, chk, okSels, okZeros, zf, hw, if_true, chkMode]
  rfl

theorem fcvtF32S32 (d : BitVec 5) (n : BitVec 1) (a : BitVec 6) (m : BitVec 3) : Statement (.fcvtF32S32 d n a m) := by
  refine of_word (w := wRR 17 d n a ((0 : BitVec 3) ++ m) 11) rfl (by rw [wRR_m]; decide) (fun hw => ?_) rfl
  replace hw : (selOk a && m.toNat < 5) = true := hw
  simp only [selOk, Bool.and_eq_true, decide_eq_true_eq] at hw
  have := d.isLt; have := n.isLt; have := a.isLt; have := m.isLt
  have e1 : (wRR 17 d n a ((0 : BitVec 3) ++ m) 11).extractLsb' 8 3 = m := field_eq _ _ _ (by
    rw [wRR_toNat]; simp only [append_toNat, BitVec.ofNat_eq_ofNat, BitVec.toNat_ofNat]; omega)
  have e3 : (wRR 17 d n a ((0 : BitVec 3) ++ m) 11).extractLsb' 11 3 = 0 := field_eq _ _ _ (by
    rw [wRR_toNat]; simp only [append_toNat, BitVec.ofNat_eq_ofNat, BitVec.toNat_ofNat]; omega)
  rw [decodeWord_11 (wRR_m ..), decMajor11, wRR_f]
  change (fun w : Word => chkMode (w.extractLsb' 8 3) (chk [w.extractLsb' 14 6] [zf w 11 3 false] (.fcvtF32S32 (w.extractLsb' 21 5) (w.extractLsb' 20 1) (w.extractLsb' 14 6) (w.extractLsb' 8 3)))) (wRR 17 d n a ((0 : BitVec 3) ++ m) 11) = _
  simp only [wRR_a, wRR_d, wRR_n, e1, e3, chk, okSels, okZeros, zf, hw, if_true, chkMode]
  rfl

theorem fcvtN64F64 (d : BitVec 5) (n : BitVec 1) (a : BitVec 6) (m : BitVec 3) : Statement (.fcvtN64F64 d n a m) := by
  refine of_word (w := wRR 17 d n a ((0 : BitVec 3) ++ m) 12) rfl (by rw [wRR_m]; decide) (fun hw => ?_) rfl
  replace hw : (selOk a && m.toNat < 5) = true := hw
  simp only [selOk, Bool.and_eq_true, decide_eq_true_eq] at hw
  have := d.isLt; have := n.isLt; have := a.isLt; have := m.isLt
  have e1 : (wRR 17 d n a ((0 : BitVec 3) ++ m) 12).extractLsb' 8 3 = m := field_eq _ _ _ (by
    rw [wRR_toNat]; simp only [append_toNat, BitVec.ofNat_eq_ofNat, BitVec.toNat_ofNat]; omega)
  have e3 : (wRR 17 d n a ((0 : BitVec 3) ++ m) 12).extractLsb' 11 3 = 0 := field_eq _ _ _ (by
    rw [wRR_toNat]; simp only [append_toNat, BitVec.ofNat_eq_ofNat, BitVec.toNat_ofNat]; omega)
  rw [decodeWord_11 (wRR_m ..), decMajor11, wRR_f]
  change (fun w : Word => chkMode (w.extractLsb' 8 3) (chk [w.extractLsb' 14 6] [zf w 11 3 false] (.fcvtN64F64 (w.extractLsb' 21 5) (w.extractLsb' 20 1) (w.extractLsb' 14 6) (w.extractLsb' 8 3)))) (wRR 17 d n a ((0 : BitVec 3) ++ m) 12) = _
  simp only [wRR_a, wRR_d, wRR_n, e1, e3, chk, okSels, okZeros, zf, hw, if_true, chkMode]
  rfl

theorem fcvtF64N64 (d : BitVec 5) (n : BitVec 1) (a : BitVec 6) (m : BitVec 3) : Statement (.fcvtF64N64 d n a m) := by
  refine of_word (w := wRR 17 d n a ((0 : BitVec 3) ++ m) 13) rfl (by rw [wRR_m]; decide) (fun hw => ?_) rfl
  replace hw : (selOk a && m.toNat < 5) = true := hw
  simp only [selOk, Bool.and_eq_true, decide_eq_true_eq] at hw
  have := d.isLt; have := n.isLt; have := a.isLt; have := m.isLt
  have e1 : (wRR 17 d n a ((0 : BitVec 3) ++ m) 13).extractLsb' 8 3 = m := field_eq _ _ _ (by
    rw [wRR_toNat]; simp only [append_toNat, BitVec.ofNat_eq_ofNat, BitVec.toNat_ofNat]; omega)
  have e3 : (wRR 17 d n a ((0 : BitVec 3) ++ m) 13).extractLsb' 11 3 = 0 := field_eq _ _ _ (by
    rw [wRR_toNat]; simp only [append_toNat, BitVec.ofNat_eq_ofNat, BitVec.toNat_ofNat]; omega)
  rw [decodeWord_11 (wRR_m ..), decMajor11, wRR_f]
  change (fun w : Word => chkMode (w.extractLsb' 8 3) (chk [w.extractLsb' 14 6] [zf w 11 3 false] (.fcvtF64N64 (w.extractLsb' 21 5) (w.extractLsb' 20 1) (w.extractLsb' 14 6) (w.extractLsb' 8 3)))) (wRR 17 d n a ((0 : BitVec 3) ++ m) 13) = _
  simp only [wRR_a, wRR_d, wRR_n, e1, e3, chk, okSels, okZeros, zf, hw, if_true, chkMode]
  rfl

theorem exp2D (d : BitVec 5) (n : BitVec 1) (a : BitVec 6) : Statement (.exp2D d n a) := by
  refine of_word (w := wRR 18 d n a 0 0) rfl (by rw [wRR_m]; decide) (fun hw => ?_) rfl
  replace hw : (selOk a) = true := hw
  simp only [selOk, decide_eq_true_eq] at hw
  rw [decodeWord_12 (wRR_m ..), decMajor12, wRR_f]
  change (fun w : Word => chk [w.extractLsb' 14 6] [zf w 8 6 false] (.exp2D (w.extractLsb' 21 5) (w.extractLsb' 20 1) (w.extractLsb' 14 6))) (wRR 18 d n a 0 0) = _
  simp only [wRR_a, wRR_b, wRR_d, wRR_n, chk, okSels, okZeros, zf, hw, if_true]
  rfl

theorem exp2S (d : BitVec 5) (n : BitVec 1) (a : BitVec 6) : Statement (.exp2S d n a) := by
  refine of_word (w := wRR 18 d n a 0 1) rfl (by rw [wRR_m]; decide) (fun hw => ?_) rfl
  replace hw : (selOk a) = true := hw
  simp only [selOk, decide_eq_true_eq] at hw
  rw [decodeWord_12 (wRR_m ..), decMajor12, wRR_f]
  change (fun w : Word => chk [w.extractLsb' 14 6] [zf w 8 6 false] (.exp2S (w.extractLsb' 21 5) (w.extractLsb' 20 1) (w.extractLsb' 14 6))) (wRR 18 d n a 0 1) = _
  simp only [wRR_a, wRR_b, wRR_d, wRR_n, chk, okSels, okZeros, zf, hw, if_true]
  rfl

theorem log2D (d : BitVec 5) (n : BitVec 1) (a : BitVec 6) : Statement (.log2D d n a) := by
  refine of_word (w := wRR 18 d n a 0 2) rfl (by rw [wRR_m]; decide) (fun hw => ?_) rfl
  replace hw : (selOk a) = true := hw
  simp only [selOk, decide_eq_true_eq] at hw
  rw [decodeWord_12 (wRR_m ..), decMajor12, wRR_f]
  change (fun w : Word => chk [w.extractLsb' 14 6] [zf w 8 6 false] (.log2D (w.extractLsb' 21 5) (w.extractLsb' 20 1) (w.extractLsb' 14 6))) (wRR 18 d n a 0 2) = _
  simp only [wRR_a, wRR_b, wRR_d, wRR_n, chk, okSels, okZeros, zf, hw, if_true]
  rfl

theorem log2S (d : BitVec 5) (n : BitVec 1) (a : BitVec 6) : Statement (.log2S d n a) := by
  refine of_word (w := wRR 18 d n a 0 3) rfl (by rw [wRR_m]; decide) (fun hw => ?_) rfl
  replace hw : (selOk a) = true := hw
  simp only [selOk, decide_eq_true_eq] at hw
  rw [decodeWord_12 (wRR_m ..), decMajor12, wRR_f]
  change (fun w : Word => chk [w.extractLsb' 14 6] [zf w 8 6 false] (.log2S (w.extractLsb' 21 5) (w.extractLsb' 20 1) (w.extractLsb' 14 6))) (wRR 18 d n a 0 3) = _
  simp only [wRR_a, wRR_b, wRR_d, wRR_n, chk, okSels, okZeros, zf, hw, if_true]
  rfl

theorem rcpD (d : BitVec 5) (n : BitVec 1) (a : BitVec 6) : Statement (.rcpD d n a) := by
  refine of_word (w := wRR 18 d n a 0 4) rfl (by rw [wRR_m]; decide) (fun hw => ?_) rfl
  replace hw : (selOk a) = true := hw
  simp only [selOk, decide_eq_true_eq] at hw
  rw [decodeWord_12 (wRR_m ..), decMajor12, wRR_f]
  change (fun w : Word => chk [w.extractLsb' 14 6] [zf w 8 6 false] (.rcpD (w.extractLsb' 21 5) (w.extractLsb' 20 1) (w.extractLsb' 14 6))) (wRR 18 d n a 0 4) = _
  simp only [wRR_a, wRR_b, wRR_d, wRR_n, chk, okSels, okZeros, zf, hw, if_true]
  rfl

theorem rcpS (d : BitVec 5) (n : BitVec 1) (a : BitVec 6) : Statement (.rcpS d n a) := by
  refine of_word (w := wRR 18 d n a 0 5) rfl (by rw [wRR_m]; decide) (fun hw => ?_) rfl
  replace hw : (selOk a) = true := hw
  simp only [selOk, decide_eq_true_eq] at hw
  rw [decodeWord_12 (wRR_m ..), decMajor12, wRR_f]
  change (fun w : Word => chk [w.extractLsb' 14 6] [zf w 8 6 false] (.rcpS (w.extractLsb' 21 5) (w.extractLsb' 20 1) (w.extractLsb' 14 6))) (wRR 18 d n a 0 5) = _
  simp only [wRR_a, wRR_b, wRR_d, wRR_n, chk, okSels, okZeros, zf, hw, if_true]
  rfl

theorem rsqD (d : BitVec 5) (n : BitVec 1) (a : BitVec 6) : Statement (.rsqD d n a) := by
  refine of_word (w := wRR 18 d n a 0 6) rfl (by rw [wRR_m]; decide) (fun hw => ?_) rfl
  replace hw : (selOk a) = true := hw
  simp only [selOk, decide_eq_true_eq] at hw
  rw [decodeWord_12 (wRR_m ..), decMajor12, wRR_f]
  change (fun w : Word => chk [w.extractLsb' 14 6] [zf w 8 6 false] (.rsqD (w.extractLsb' 21 5) (w.extractLsb' 20 1) (w.extractLsb' 14 6))) (wRR 18 d n a 0 6) = _
  simp only [wRR_a, wRR_b, wRR_d, wRR_n, chk, okSels, okZeros, zf, hw, if_true]
  rfl

theorem rsqS (d : BitVec 5) (n : BitVec 1) (a : BitVec 6) : Statement (.rsqS d n a) := by
  refine of_word (w := wRR 18 d n a 0 7) rfl (by rw [wRR_m]; decide) (fun hw => ?_) rfl
  replace hw : (selOk a) = true := hw
  simp only [selOk, decide_eq_true_eq] at hw
  rw [decodeWord_12 (wRR_m ..), decMajor12, wRR_f]
  change (fun w : Word => chk [w.extractLsb' 14 6] [zf w 8 6 false] (.rsqS (w.extractLsb' 21 5) (w.extractLsb' 20 1) (w.extractLsb' 14 6))) (wRR 18 d n a 0 7) = _
  simp only [wRR_a, wRR_b, wRR_d, wRR_n, chk, okSels, okZeros, zf, hw, if_true]
  rfl

theorem kand (d : BitVec 4) (n : BitVec 1) (a : BitVec 4) (b : BitVec 4) : Statement (.kand d n a b) := by
  refine of_word (w := wRR 19 ((0 : BitVec 1) ++ d) n ((0 : BitVec 2) ++ a) ((0 : BitVec 2) ++ b) 0) rfl (by rw [wRR_m]; decide) (fun hw => ?_) rfl
  have hn : (n == 0) = true := hw
  simp only [beq_iff_eq] at hn
  have := d.isLt; have := n.isLt; have := a.isLt; have := b.isLt
  have e1 : (wRR 19 ((0 : BitVec 1) ++ d) n ((0 : BitVec 2) ++ a) ((0 : BitVec 2) ++ b) 0).extractLsb' 12 2 = 0 := field_eq _ _ _ (by
    rw [wRR_toNat]; simp only [append_toNat, BitVec.ofNat_eq_ofNat, BitVec.toNat_ofNat]; omega)
  have e2 : (wRR 19 ((0 : BitVec 1) ++ d) n ((0 : BitVec 2) ++ a) ((0 : BitVec 2) ++ b) 0).extractLsb' 18 2 = 0 := field_eq _ _ _ (by
    rw [wRR_toNat]; simp only [append_toNat, BitVec.ofNat_eq_ofNat, BitVec.toNat_ofNat]; omega)
  have e3 : (wRR 19 ((0 : BitVec 1) ++ d) n ((0 : BitVec 2) ++ a) ((0 : BitVec 2) ++ b) 0).extractLsb' 25 1 = 0 := field_eq _ _ _ (by
    rw [wRR_toNat]; simp only [append_toNat, BitVec.ofNat_eq_ofNat, BitVec.toNat_ofNat]; omega)
  have e4 : (wRR 19 ((0 : BitVec 1) ++ d) n ((0 : BitVec 2) ++ a) ((0 : BitVec 2) ++ b) 0).extractLsb' 21 4 = d := field_eq _ _ _ (by
    rw [wRR_toNat]; simp only [append_toNat, BitVec.ofNat_eq_ofNat, BitVec.toNat_ofNat]; omega)
  have e6 : (wRR 19 ((0 : BitVec 1) ++ d) n ((0 : BitVec 2) ++ a) ((0 : BitVec 2) ++ b) 0).extractLsb' 14 4 = a := field_eq _ _ _ (by
    rw [wRR_toNat]; simp only [append_toNat, BitVec.ofNat_eq_ofNat, BitVec.toNat_ofNat]; omega)
  have e7 : (wRR 19 ((0 : BitVec 1) ++ d) n ((0 : BitVec 2) ++ a) ((0 : BitVec 2) ++ b) 0).extractLsb' 8 4 = b := field_eq _ _ _ (by
    rw [wRR_toNat]; simp only [append_toNat, BitVec.ofNat_eq_ofNat, BitVec.toNat_ofNat]; omega)
  rw [decodeWord_13 (wRR_m ..), decMajor13, wRR_f]
  change (fun w : Word => chk [] [zf w 12 2 false, zf w 18 2 false, zf w 20 1 false, zf w 25 1 false] (.kand (w.extractLsb' 21 4) (w.extractLsb' 20 1) (w.extractLsb' 14 4) (w.extractLsb' 8 4))) (wRR 19 ((0 : BitVec 1) ++ d) n ((0 : BitVec 2) ++ a) ((0 : BitVec 2) ++ b) 0) = _
  simp only [wRR_n, e1, e2, e3, e4, e6, e7, chk, okSels, okZeros, zf]
  simp only [hn]
  rfl

theorem kor (d : BitVec 4) (n : BitVec 1) (a : BitVec 4) (b : BitVec 4) : Statement (.kor d n a b) := by
  refine of_word (w := wRR 19 ((0 : BitVec 1) ++ d) n ((0 : BitVec 2) ++ a) ((0 : BitVec 2) ++ b) 1) rfl (by rw [wRR_m]; decide) (fun hw => ?_) rfl
  have hn : (n == 0) = true := hw
  simp only [beq_iff_eq] at hn
  have := d.isLt; have := n.isLt; have := a.isLt; have := b.isLt
  have e1 : (wRR 19 ((0 : BitVec 1) ++ d) n ((0 : BitVec 2) ++ a) ((0 : BitVec 2) ++ b) 1).extractLsb' 12 2 = 0 := field_eq _ _ _ (by
    rw [wRR_toNat]; simp only [append_toNat, BitVec.ofNat_eq_ofNat, BitVec.toNat_ofNat]; omega)
  have e2 : (wRR 19 ((0 : BitVec 1) ++ d) n ((0 : BitVec 2) ++ a) ((0 : BitVec 2) ++ b) 1).extractLsb' 18 2 = 0 := field_eq _ _ _ (by
    rw [wRR_toNat]; simp only [append_toNat, BitVec.ofNat_eq_ofNat, BitVec.toNat_ofNat]; omega)
  have e3 : (wRR 19 ((0 : BitVec 1) ++ d) n ((0 : BitVec 2) ++ a) ((0 : BitVec 2) ++ b) 1).extractLsb' 25 1 = 0 := field_eq _ _ _ (by
    rw [wRR_toNat]; simp only [append_toNat, BitVec.ofNat_eq_ofNat, BitVec.toNat_ofNat]; omega)
  have e4 : (wRR 19 ((0 : BitVec 1) ++ d) n ((0 : BitVec 2) ++ a) ((0 : BitVec 2) ++ b) 1).extractLsb' 21 4 = d := field_eq _ _ _ (by
    rw [wRR_toNat]; simp only [append_toNat, BitVec.ofNat_eq_ofNat, BitVec.toNat_ofNat]; omega)
  have e6 : (wRR 19 ((0 : BitVec 1) ++ d) n ((0 : BitVec 2) ++ a) ((0 : BitVec 2) ++ b) 1).extractLsb' 14 4 = a := field_eq _ _ _ (by
    rw [wRR_toNat]; simp only [append_toNat, BitVec.ofNat_eq_ofNat, BitVec.toNat_ofNat]; omega)
  have e7 : (wRR 19 ((0 : BitVec 1) ++ d) n ((0 : BitVec 2) ++ a) ((0 : BitVec 2) ++ b) 1).extractLsb' 8 4 = b := field_eq _ _ _ (by
    rw [wRR_toNat]; simp only [append_toNat, BitVec.ofNat_eq_ofNat, BitVec.toNat_ofNat]; omega)
  rw [decodeWord_13 (wRR_m ..), decMajor13, wRR_f]
  change (fun w : Word => chk [] [zf w 12 2 false, zf w 18 2 false, zf w 20 1 false, zf w 25 1 false] (.kor (w.extractLsb' 21 4) (w.extractLsb' 20 1) (w.extractLsb' 14 4) (w.extractLsb' 8 4))) (wRR 19 ((0 : BitVec 1) ++ d) n ((0 : BitVec 2) ++ a) ((0 : BitVec 2) ++ b) 1) = _
  simp only [wRR_n, e1, e2, e3, e4, e6, e7, chk, okSels, okZeros, zf]
  simp only [hn]
  rfl

theorem kxor (d : BitVec 4) (n : BitVec 1) (a : BitVec 4) (b : BitVec 4) : Statement (.kxor d n a b) := by
  refine of_word (w := wRR 19 ((0 : BitVec 1) ++ d) n ((0 : BitVec 2) ++ a) ((0 : BitVec 2) ++ b) 2) rfl (by rw [wRR_m]; decide) (fun hw => ?_) rfl
  have hn : (n == 0) = true := hw
  simp only [beq_iff_eq] at hn
  have := d.isLt; have := n.isLt; have := a.isLt; have := b.isLt
  have e1 : (wRR 19 ((0 : BitVec 1) ++ d) n ((0 : BitVec 2) ++ a) ((0 : BitVec 2) ++ b) 2).extractLsb' 12 2 = 0 := field_eq _ _ _ (by
    rw [wRR_toNat]; simp only [append_toNat, BitVec.ofNat_eq_ofNat, BitVec.toNat_ofNat]; omega)
  have e2 : (wRR 19 ((0 : BitVec 1) ++ d) n ((0 : BitVec 2) ++ a) ((0 : BitVec 2) ++ b) 2).extractLsb' 18 2 = 0 := field_eq _ _ _ (by
    rw [wRR_toNat]; simp only [append_toNat, BitVec.ofNat_eq_ofNat, BitVec.toNat_ofNat]; omega)
  have e3 : (wRR 19 ((0 : BitVec 1) ++ d) n ((0 : BitVec 2) ++ a) ((0 : BitVec 2) ++ b) 2).extractLsb' 25 1 = 0 := field_eq _ _ _ (by
    rw [wRR_toNat]; simp only [append_toNat, BitVec.ofNat_eq_ofNat, BitVec.toNat_ofNat]; omega)
  have e4 : (wRR 19 ((0 : BitVec 1) ++ d) n ((0 : BitVec 2) ++ a) ((0 : BitVec 2) ++ b) 2).extractLsb' 21 4 = d := field_eq _ _ _ (by
    rw [wRR_toNat]; simp only [append_toNat, BitVec.ofNat_eq_ofNat, BitVec.toNat_ofNat]; omega)
  have e6 : (wRR 19 ((0 : BitVec 1) ++ d) n ((0 : BitVec 2) ++ a) ((0 : BitVec 2) ++ b) 2).extractLsb' 14 4 = a := field_eq _ _ _ (by
    rw [wRR_toNat]; simp only [append_toNat, BitVec.ofNat_eq_ofNat, BitVec.toNat_ofNat]; omega)
  have e7 : (wRR 19 ((0 : BitVec 1) ++ d) n ((0 : BitVec 2) ++ a) ((0 : BitVec 2) ++ b) 2).extractLsb' 8 4 = b := field_eq _ _ _ (by
    rw [wRR_toNat]; simp only [append_toNat, BitVec.ofNat_eq_ofNat, BitVec.toNat_ofNat]; omega)
  rw [decodeWord_13 (wRR_m ..), decMajor13, wRR_f]
  change (fun w : Word => chk [] [zf w 12 2 false, zf w 18 2 false, zf w 20 1 false, zf w 25 1 false] (.kxor (w.extractLsb' 21 4) (w.extractLsb' 20 1) (w.extractLsb' 14 4) (w.extractLsb' 8 4))) (wRR 19 ((0 : BitVec 1) ++ d) n ((0 : BitVec 2) ++ a) ((0 : BitVec 2) ++ b) 2) = _
  simp only [wRR_n, e1, e2, e3, e4, e6, e7, chk, okSels, okZeros, zf]
  simp only [hn]
  rfl

theorem kandn (d : BitVec 4) (n : BitVec 1) (a : BitVec 4) (b : BitVec 4) : Statement (.kandn d n a b) := by
  refine of_word (w := wRR 19 ((0 : BitVec 1) ++ d) n ((0 : BitVec 2) ++ a) ((0 : BitVec 2) ++ b) 3) rfl (by rw [wRR_m]; decide) (fun hw => ?_) rfl
  have hn : (n == 0) = true := hw
  simp only [beq_iff_eq] at hn
  have := d.isLt; have := n.isLt; have := a.isLt; have := b.isLt
  have e1 : (wRR 19 ((0 : BitVec 1) ++ d) n ((0 : BitVec 2) ++ a) ((0 : BitVec 2) ++ b) 3).extractLsb' 12 2 = 0 := field_eq _ _ _ (by
    rw [wRR_toNat]; simp only [append_toNat, BitVec.ofNat_eq_ofNat, BitVec.toNat_ofNat]; omega)
  have e2 : (wRR 19 ((0 : BitVec 1) ++ d) n ((0 : BitVec 2) ++ a) ((0 : BitVec 2) ++ b) 3).extractLsb' 18 2 = 0 := field_eq _ _ _ (by
    rw [wRR_toNat]; simp only [append_toNat, BitVec.ofNat_eq_ofNat, BitVec.toNat_ofNat]; omega)
  have e3 : (wRR 19 ((0 : BitVec 1) ++ d) n ((0 : BitVec 2) ++ a) ((0 : BitVec 2) ++ b) 3).extractLsb' 25 1 = 0 := field_eq _ _ _ (by
    rw [wRR_toNat]; simp only [append_toNat, BitVec.ofNat_eq_ofNat, BitVec.toNat_ofNat]; omega)
  have e4 : (wRR 19 ((0 : BitVec 1) ++ d) n ((0 : BitVec 2) ++ a) ((0 : BitVec 2) ++ b) 3).extractLsb' 21 4 = d := field_eq _ _ _ (by
    rw [wRR_toNat]; simp only [append_toNat, BitVec.ofNat_eq_ofNat, BitVec.toNat_ofNat]; omega)
  have e6 : (wRR 19 ((0 : BitVec 1) ++ d) n ((0 : BitVec 2) ++ a) ((0 : BitVec 2) ++ b) 3).extractLsb' 14 4 = a := field_eq _ _ _ (by
    rw [wRR_toNat]; simp only [append_toNat, BitVec.ofNat_eq_ofNat, BitVec.toNat_ofNat]; omega)
  have e7 : (wRR 19 ((0 : BitVec 1) ++ d) n ((0 : BitVec 2) ++ a) ((0 : BitVec 2) ++ b) 3).extractLsb' 8 4 = b := field_eq _ _ _ (by
    rw [wRR_toNat]; simp only [append_toNat, BitVec.ofNat_eq_ofNat, BitVec.toNat_ofNat]; omega)
  rw [decodeWord_13 (wRR_m ..), decMajor13, wRR_f]
  change (fun w : Word => chk [] [zf w 12 2 false, zf w 18 2 false, zf w 20 1 false, zf w 25 1 false] (.kandn (w.extractLsb' 21 4) (w.extractLsb' 20 1) (w.extractLsb' 14 4) (w.extractLsb' 8 4))) (wRR 19 ((0 : BitVec 1) ++ d) n ((0 : BitVec 2) ++ a) ((0 : BitVec 2) ++ b) 3) = _
  simp only [wRR_n, e1, e2, e3, e4, e6, e7, chk, okSels, okZeros, zf]
  simp only [hn]
  rfl

theorem knot (d : BitVec 4) (n : BitVec 1) (a : BitVec 4) : Statement (.knot d n a) := by
  refine of_word (w := wRR 19 ((0 : BitVec 1) ++ d) n ((0 : BitVec 2) ++ a) 0 4) rfl (by rw [wRR_m]; decide) (fun hw => ?_) rfl
  have hn : (n == 0) = true := hw
  simp only [beq_iff_eq] at hn
  have := d.isLt; have := n.isLt; have := a.isLt
  have e2 : (wRR 19 ((0 : BitVec 1) ++ d) n ((0 : BitVec 2) ++ a) 0 4).extractLsb' 18 2 = 0 := field_eq _ _ _ (by
    rw [wRR_toNat]; simp only [append_toNat, BitVec.ofNat_eq_ofNat, BitVec.toNat_ofNat]; omega)
  have e3 : (wRR 19 ((0 : BitVec 1) ++ d) n ((0 : BitVec 2) ++ a) 0 4).extractLsb' 25 1 = 0 := field_eq _ _ _ (by
    rw [wRR_toNat]; simp only [append_toNat, BitVec.ofNat_eq_ofNat, BitVec.toNat_ofNat]; omega)
  have e4 : (wRR 19 ((0 : BitVec 1) ++ d) n ((0 : BitVec 2) ++ a) 0 4).extractLsb' 21 4 = d := field_eq _ _ _ (by
    rw [wRR_toNat]; simp only [append_toNat, BitVec.ofNat_eq_ofNat, BitVec.toNat_ofNat]; omega)
  have e6 : (wRR 19 ((0 : BitVec 1) ++ d) n ((0 : BitVec 2) ++ a) 0 4).extractLsb' 14 4 = a := field_eq _ _ _ (by
    rw [wRR_toNat]; simp only [append_toNat, BitVec.ofNat_eq_ofNat, BitVec.toNat_ofNat]; omega)
  rw [decodeWord_13 (wRR_m ..), decMajor13, wRR_f]
  change (fun w : Word => chk [] [zf w 8 6 false, zf w 18 2 false, zf w 20 1 false, zf w 25 1 false] (.knot (w.extractLsb' 21 4) (w.extractLsb' 20 1) (w.extractLsb' 14 4))) (wRR 19 ((0 : BitVec 1) ++ d) n ((0 : BitVec 2) ++ a) 0 4) = _
  simp only [wRR_b, wRR_n, e2, e3, e4, e6, chk, okSels, okZeros, zf]
  simp only [hn]
  rfl

theorem kshl (d : BitVec 4) (n : BitVec 1) (a : BitVec 4) (b : BitVec 6) : Statement (.kshl d n a b) := by
  refine of_word (w := wRR 19 ((0 : BitVec 1) ++ d) n ((0 : BitVec 2) ++ a) b 5) rfl (by rw [wRR_m]; decide) (fun hw => ?_) rfl
  replace hw : (n == 0 && selOk b) = true := hw
  simp only [selOk, Bool.and_eq_true, decide_eq_true_eq, beq_iff_eq] at hw
  obtain ⟨hn, hw⟩ := hw
  have := d.isLt; have := n.isLt; have := a.isLt; have := b.isLt
  have e2 : (wRR 19 ((0 : BitVec 1) ++ d) n ((0 : BitVec 2) ++ a) b 5).extractLsb' 18 2 = 0 := field_eq _ _ _ (by
    rw [wRR_toNat]; simp only [append_toNat, BitVec.ofNat_eq_ofNat, BitVec.toNat_ofNat]; omega)
  have e3 : (wRR 19 ((0 : BitVec 1) ++ d) n ((0 : BitVec 2) ++ a) b 5).extractLsb' 25 1 = 0 := field_eq _ _ _ (by
    rw [wRR_toNat]; simp only [append_toNat, BitVec.ofNat_eq_ofNat, BitVec.toNat_ofNat]; omega)
  have e4 : (wRR 19 ((0 : BitVec 1) ++ d) n ((0 : BitVec 2) ++ a) b 5).extractLsb' 21 4 = d := field_eq _ _ _ (by
    rw [wRR_toNat]; simp only [append_toNat, BitVec.ofNat_eq_ofNat, BitVec.toNat_ofNat]; omega)
  have e6 : (wRR 19 ((0 : BitVec 1) ++ d) n ((0 : BitVec 2) ++ a) b 5).extractLsb' 14 4 = a := field_eq _ _ _ (by
    rw [wRR_toNat]; simp only [append_toNat, BitVec.ofNat_eq_ofNat, BitVec.toNat_ofNat]; omega)
  rw [decodeWord_13 (wRR_m ..), decMajor13, wRR_f]
  change (fun w : Word => chk [w.extractLsb' 8 6] [zf w 18 2 false, zf w 20 1 false, zf w 25 1 false] (.kshl (w.extractLsb' 21 4) (w.extractLsb' 20 1) (w.extractLsb' 14 4) (w.extractLsb' 8 6))) (wRR 19 ((0 : BitVec 1) ++ d) n ((0 : BitVec 2) ++ a) b 5) = _
  simp only [wRR_b, wRR_n, e2, e3, e4, e6, chk, okSels, okZeros, zf, hw, if_true]
  simp only [hn]
  rfl

theorem kshr (d : BitVec 4) (n : BitVec 1) (a : BitVec 4) (b : BitVec 6) : Statement (.kshr d n a b) := by
  refine of_word (w := wRR 19 ((0 : BitVec 1) ++ d) n ((0 : BitVec 2) ++ a) b 6) rfl (by rw [wRR_m]; decide) (fun hw => ?_) rfl
  replace hw : (n == 0 && selOk b) = true := hw
  simp only [selOk, Bool.and_eq_true, decide_eq_true_eq, beq_iff_eq] at hw
  obtain ⟨hn, hw⟩ := hw
  have := d.isLt; have := n.isLt; have := a.isLt; have := b.isLt
  have e2 : (wRR 19 ((0 : BitVec 1) ++ d) n ((0 : BitVec 2) ++ a) b 6).extractLsb' 18 2 = 0 := field_eq _ _ _ (by
    rw [wRR_toNat]; simp only [append_toNat, BitVec.ofNat_eq_ofNat, BitVec.toNat_ofNat]; omega)
  have e3 : (wRR 19 ((0 : BitVec 1) ++ d) n ((0 : BitVec 2) ++ a) b 6).extractLsb' 25 1 = 0 := field_eq _ _ _ (by
    rw [wRR_toNat]; simp only [append_toNat, BitVec.ofNat_eq_ofNat, BitVec.toNat_ofNat]; omega)
  have e4 : (wRR 19 ((0 : BitVec 1) ++ d) n ((0 : BitVec 2) ++ a) b 6).extractLsb' 21 4 = d := field_eq _ _ _ (by
    rw [wRR_toNat]; simp only [append_toNat, BitVec.ofNat_eq_ofNat, BitVec.toNat_ofNat]; omega)
  have e6 : (wRR 19 ((0 : BitVec 1) ++ d) n ((0 : BitVec 2) ++ a) b 6).extractLsb' 14 4 = a := field_eq _ _ _ (by
    rw [wRR_toNat]; simp only [append_toNat, BitVec.ofNat_eq_ofNat, BitVec.toNat_ofNat]; omega)
  rw [decodeWord_13 (wRR_m ..), decMajor13, wRR_f]
  change (fun w : Word => chk [w.extractLsb' 8 6] [zf w 18 2 false, zf w 20 1 false, zf w 25 1 false] (.kshr (w.extractLsb' 21 4) (w.extractLsb' 20 1) (w.extractLsb' 14 4) (w.extractLsb' 8 6))) (wRR 19 ((0 : BitVec 1) ++ d) n ((0 : BitVec 2) ++ a) b 6) = _
  simp only [wRR_b, wRR_n, e2, e3, e4, e6, chk, okSels, okZeros, zf, hw, if_true]
  simp only [hn]
  rfl

theorem kpop (d : BitVec 5) (n : BitVec 1) (a : BitVec 4) : Statement (.kpop d n a) := by
  refine of_word (w := wRR 19 d n ((0 : BitVec 2) ++ a) 0 7) rfl (by rw [wRR_m]; decide) (fun hw => ?_) rfl
  have := d.isLt; have := n.isLt; have := a.isLt
  have e2 : (wRR 19 d n ((0 : BitVec 2) ++ a) 0 7).extractLsb' 18 2 = 0 := field_eq _ _ _ (by
    rw [wRR_toNat]; simp only [append_toNat, BitVec.ofNat_eq_ofNat, BitVec.toNat_ofNat]; omega)
  have e5 : (wRR 19 d n ((0 : BitVec 2) ++ a) 0 7).extractLsb' 14 4 = a := field_eq _ _ _ (by
    rw [wRR_toNat]; simp only [append_toNat, BitVec.ofNat_eq_ofNat, BitVec.toNat_ofNat]; omega)
  rw [decodeWord_13 (wRR_m ..), decMajor13, wRR_f]
  change (fun w : Word => chk [] [zf w 8 6 false, zf w 18 2 false] (.kpop (w.extractLsb' 21 5) (w.extractLsb' 20 1) (w.extractLsb' 14 4))) (wRR 19 d n ((0 : BitVec 2) ++ a) 0 7) = _
  simp only [wRR_b, wRR_d, wRR_n, e2, e5, chk, okSels, okZeros, zf]
  rfl

theorem kmovg (d : BitVec 5) (n : BitVec 1) (a : BitVec 4) : Statement (.kmovg d n a) := by
  refine of_word (w := wRR 19 d n ((0 : BitVec 2) ++ a) 0 8) rfl (by rw [wRR_m]; decide) (fun hw => ?_) rfl
  have := d.isLt; have := n.isLt; have := a.isLt
  have e2 : (wRR 19 d n ((0 : BitVec 2) ++ a) 0 8).extractLsb' 18 2 = 0 := field_eq _ _ _ (by
    rw [wRR_toNat]; simp only [append_toNat, BitVec.ofNat_eq_ofNat, BitVec.toNat_ofNat]; omega)
  have e5 : (wRR 19 d n ((0 : BitVec 2) ++ a) 0 8).extractLsb' 14 4 = a := field_eq _ _ _ (by
    rw [wRR_toNat]; simp only [append_toNat, BitVec.ofNat_eq_ofNat, BitVec.toNat_ofNat]; omega)
  rw [decodeWord_13 (wRR_m ..), decMajor13, wRR_f]
  change (fun w : Word => chk [] [zf w 8 6 false, zf w 18 2 false] (.kmovg (w.extractLsb' 21 5) (w.extractLsb' 20 1) (w.extractLsb' 14 4))) (wRR 19 d n ((0 : BitVec 2) ++ a) 0 8) = _
  simp only [wRR_b, wRR_d, wRR_n, e2, e5, chk, okSels, okZeros, zf]
  rfl

theorem kmovk (d : BitVec 4) (n : BitVec 1) (a : BitVec 6) : Statement (.kmovk d n a) := by
  refine of_word (w := wRR 19 ((0 : BitVec 1) ++ d) n a 0 9) rfl (by rw [wRR_m]; decide) (fun hw => ?_) rfl
  replace hw : (n == 0 && selOk a) = true := hw
  simp only [selOk, Bool.and_eq_true, decide_eq_true_eq, beq_iff_eq] at hw
  obtain ⟨hn, hw⟩ := hw
  have := d.isLt; have := n.isLt; have := a.isLt
  have e3 : (wRR 19 ((0 : BitVec 1) ++ d) n a 0 9).extractLsb' 25 1 = 0 := field_eq _ _ _ (by
    rw [wRR_toNat]; simp only [append_toNat, BitVec.ofNat_eq_ofNat, BitVec.toNat_ofNat]; omega)
  have e4 : (wRR 19 ((0 : BitVec 1) ++ d) n a 0 9).extractLsb' 21 4 = d := field_eq _ _ _ (by
    rw [wRR_toNat]; simp only [append_toNat, BitVec.ofNat_eq_ofNat, BitVec.toNat_ofNat]; omega)
  rw [decodeWord_13 (wRR_m ..), decMajor13, wRR_f]
  change (fun w : Word => chk [w.extractLsb' 14 6] [zf w 8 6 false, zf w 20 1 false, zf w 25 1 false] (.kmovk (w.extractLsb' 21 4) (w.extractLsb' 20 1) (w.extractLsb' 14 6))) (wRR 19 ((0 : BitVec 1) ++ d) n a 0 9) = _
  simp only [wRR_a, wRR_b, wRR_n, e3, e4, chk, okSels, okZeros, zf, hw, if_true]
  simp only [hn]
  rfl

theorem kbit (d : BitVec 4) (n : BitVec 1) (a : BitVec 4) (b : BitVec 6) : Statement (.kbit d n a b) := by
  refine of_word (w := wRR 19 ((0 : BitVec 1) ++ d) n ((0 : BitVec 2) ++ a) b 10) rfl (by rw [wRR_m]; decide) (fun hw => ?_) rfl
  replace hw : (n == 0 && selOk b) = true := hw
  simp only [selOk, Bool.and_eq_true, decide_eq_true_eq, beq_iff_eq] at hw
  obtain ⟨hn, hw⟩ := hw
  have := d.isLt; have := n.isLt; have := a.isLt; have := b.isLt
  have e2 : (wRR 19 ((0 : BitVec 1) ++ d) n ((0 : BitVec 2) ++ a) b 10).extractLsb' 18 2 = 0 := field_eq _ _ _ (by
    rw [wRR_toNat]; simp only [append_toNat, BitVec.ofNat_eq_ofNat, BitVec.toNat_ofNat]; omega)
  have e3 : (wRR 19 ((0 : BitVec 1) ++ d) n ((0 : BitVec 2) ++ a) b 10).extractLsb' 25 1 = 0 := field_eq _ _ _ (by
    rw [wRR_toNat]; simp only [append_toNat, BitVec.ofNat_eq_ofNat, BitVec.toNat_ofNat]; omega)
  have e4 : (wRR 19 ((0 : BitVec 1) ++ d) n ((0 : BitVec 2) ++ a) b 10).extractLsb' 21 4 = d := field_eq _ _ _ (by
    rw [wRR_toNat]; simp only [append_toNat, BitVec.ofNat_eq_ofNat, BitVec.toNat_ofNat]; omega)
  have e6 : (wRR 19 ((0 : BitVec 1) ++ d) n ((0 : BitVec 2) ++ a) b 10).extractLsb' 14 4 = a := field_eq _ _ _ (by
    rw [wRR_toNat]; simp only [append_toNat, BitVec.ofNat_eq_ofNat, BitVec.toNat_ofNat]; omega)
  rw [decodeWord_13 (wRR_m ..), decMajor13, wRR_f]
  change (fun w : Word => chk [w.extractLsb' 8 6] [zf w 18 2 false, zf w 20 1 false, zf w 25 1 false] (.kbit (w.extractLsb' 21 4) (w.extractLsb' 20 1) (w.extractLsb' 14 4) (w.extractLsb' 8 6))) (wRR 19 ((0 : BitVec 1) ++ d) n ((0 : BitVec 2) ++ a) b 10) = _
  simp only [wRR_b, wRR_n, e2, e3, e4, e6, chk, okSels, okZeros, zf, hw, if_true]
  simp only [hn]
  rfl

theorem ktst (d : BitVec 3) (n : BitVec 1) (a : BitVec 4) (b : BitVec 6) : Statement (.ktst d n a b) := by
  refine of_word (w := wRR 19 ((0 : BitVec 2) ++ d) n ((0 : BitVec 2) ++ a) b 11) rfl (by rw [wRR_m]; decide) (fun hw => ?_) rfl
  replace hw : (n == 0 && selOk b) = true := hw
  simp only [selOk, Bool.and_eq_true, decide_eq_true_eq, beq_iff_eq] at hw
  obtain ⟨hn, hw⟩ := hw
  have := d.isLt; have := n.isLt; have := a.isLt; have := b.isLt
  have e2 : (wRR 19 ((0 : BitVec 2) ++ d) n ((0 : BitVec 2) ++ a) b 11).extractLsb' 18 2 = 0 := field_eq _ _ _ (by
    rw [wRR_toNat]; simp only [append_toNat, BitVec.ofNat_eq_ofNat, BitVec.toNat_ofNat]; omega)
  have e3 : (wRR 19 ((0 : BitVec 2) ++ d) n ((0 : BitVec 2) ++ a) b 11).extractLsb' 24 2 = 0 := field_eq _ _ _ (by
    rw [wRR_toNat]; simp only [append_toNat, BitVec.ofNat_eq_ofNat, BitVec.toNat_ofNat]; omega)
  have e4 : (wRR 19 ((0 : BitVec 2) ++ d) n ((0 : BitVec 2) ++ a) b 11).extractLsb' 21 3 = d := field_eq _ _ _ (by
    rw [wRR_toNat]; simp only [append_toNat, BitVec.ofNat_eq_ofNat, BitVec.toNat_ofNat]; omega)
  have e6 : (wRR 19 ((0 : BitVec 2) ++ d) n ((0 : BitVec 2) ++ a) b 11).extractLsb' 14 4 = a := field_eq _ _ _ (by
    rw [wRR_toNat]; simp only [append_toNat, BitVec.ofNat_eq_ofNat, BitVec.toNat_ofNat]; omega)
  rw [decodeWord_13 (wRR_m ..), decMajor13, wRR_f]
  change (fun w : Word => chk [w.extractLsb' 8 6] [zf w 18 2 false, zf w 20 1 false, zf w 24 2 false] (.ktst (w.extractLsb' 21 3) (w.extractLsb' 20 1) (w.extractLsb' 14 4) (w.extractLsb' 8 6))) (wRR 19 ((0 : BitVec 2) ++ d) n ((0 : BitVec 2) ++ a) b 11) = _
  simp only [wRR_b, wRR_n, e2, e3, e4, e6, chk, okSels, okZeros, zf, hw, if_true]
  simp only [hn]
  rfl

theorem kldm (d : BitVec 4) (n : BitVec 1) (a : BitVec 6) (b : BitVec 6) : Statement (.kldm d n a b) := by
  refine of_word (w := wRR 19 ((0 : BitVec 1) ++ d) n a b 12) rfl (by rw [wRR_m]; decide) (fun hw => ?_) rfl
  replace hw : (n == 0 && selOk a && selOk b) = true := hw
  simp only [selOk, Bool.and_eq_true, decide_eq_true_eq, beq_iff_eq] at hw
  obtain ⟨⟨hn, ha⟩, hb⟩ := hw
  have := d.isLt; have := n.isLt; have := a.isLt; have := b.isLt
  have e3 : (wRR 19 ((0 : BitVec 1) ++ d) n a b 12).extractLsb' 25 1 = 0 := field_eq _ _ _ (by
    rw [wRR_toNat]; simp only [append_toNat, BitVec.ofNat_eq_ofNat, BitVec.toNat_ofNat]; omega)
  have e4 : (wRR 19 ((0 : BitVec 1) ++ d) n a b 12).extractLsb' 21 4 = d := field_eq _ _ _ (by
    rw [wRR_toNat]; simp only [append_toNat, BitVec.ofNat_eq_ofNat, BitVec.toNat_ofNat]; omega)
  rw [decodeWord_13 (wRR_m ..), decMajor13, wRR_f]
  change (fun w : Word => chk [w.extractLsb' 14 6, w.extractLsb' 8 6] [zf w 20 1 false, zf w 25 1 false] (.kldm (w.extractLsb' 21 4) (w.extractLsb' 20 1) (w.extractLsb' 14 6) (w.extractLsb' 8 6))) (wRR 19 ((0 : BitVec 1) ++ d) n a b 12) = _
  simp only [wRR_a, wRR_b, wRR_n, e3, e4, chk, okSels, okZeros, zf, ha, hb, if_true]
  simp only [hn]
  rfl

theorem kffs (d : BitVec 5) (n : BitVec 1) (a : BitVec 4) : Statement (.kffs d n a) := by
  refine of_word (w := wRR 19 d n ((0 : BitVec 2) ++ a) 0 13) rfl (by rw [wRR_m]; decide) (fun hw => ?_) rfl
  have := d.isLt; have := n.isLt; have := a.isLt
  have e2 : (wRR 19 d n ((0 : BitVec 2) ++ a) 0 13).extractLsb' 18 2 = 0 := field_eq _ _ _ (by
    rw [wRR_toNat]; simp only [append_toNat, BitVec.ofNat_eq_ofNat, BitVec.toNat_ofNat]; omega)
  have e5 : (wRR 19 d n ((0 : BitVec 2) ++ a) 0 13).extractLsb' 14 4 = a := field_eq _ _ _ (by
    rw [wRR_toNat]; simp only [append_toNat, BitVec.ofNat_eq_ofNat, BitVec.toNat_ofNat]; omega)
  rw [decodeWord_13 (wRR_m ..), decMajor13, wRR_f]
  change (fun w : Word => chk [] [zf w 8 6 false, zf w 18 2 false] (.kffs (w.extractLsb' 21 5) (w.extractLsb' 20 1) (w.extractLsb' 14 4))) (wRR 19 d n ((0 : BitVec 2) ++ a) 0 13) = _
  simp only [wRR_b, wRR_d, wRR_n, e2, e5, chk, okSels, okZeros, zf]
  rfl

theorem emov (d : BitVec 4) (n : BitVec 1) (a : BitVec 6) : Statement (.emov d n a) := by
  refine of_word (w := wRR 20 ((0 : BitVec 1) ++ d) n a 0 0) rfl (by rw [wRR_m]; decide) (fun hw => ?_) rfl
  replace hw : (n == 0 && selOk a) = true := hw
  simp only [selOk, Bool.and_eq_true, decide_eq_true_eq, beq_iff_eq] at hw
  obtain ⟨hn, hw⟩ := hw
  have := d.isLt; have := n.isLt; have := a.isLt
  have e3 : (wRR 20 ((0 : BitVec 1) ++ d) n a 0 0).extractLsb' 25 1 = 0 := field_eq _ _ _ (by
    rw [wRR_toNat]; simp only [append_toNat, BitVec.ofNat_eq_ofNat, BitVec.toNat_ofNat]; omega)
  have e4 : (wRR 20 ((0 : BitVec 1) ++ d) n a 0 0).extractLsb' 21 4 = d := field_eq _ _ _ (by
    rw [wRR_toNat]; simp only [append_toNat, BitVec.ofNat_eq_ofNat, BitVec.toNat_ofNat]; omega)
  rw [decodeWord_14 (wRR_m ..), decMajor14, wRR_f]
  change (fun w : Word => chk [w.extractLsb' 14 6] [zf w 8 6 false, zf w 20 1 false, zf w 25 1 false] (.emov (w.extractLsb' 21 4) (w.extractLsb' 20 1) (w.extractLsb' 14 6))) (wRR 20 ((0 : BitVec 1) ++ d) n a 0 0) = _
  simp only [wRR_a, wRR_b, wRR_n, e3, e4, chk, okSels, okZeros, zf, hw, if_true]
  simp only [hn]
  rfl

theorem eget (d : BitVec 5) (n : BitVec 1) (a : BitVec 4) : Statement (.eget d n a) := by
  refine of_word (w := wRR 20 d n ((0 : BitVec 2) ++ a) 0 1) rfl (by rw [wRR_m]; decide) (fun hw => ?_) rfl
  have := d.isLt; have := n.isLt; have := a.isLt
  have e2 : (wRR 20 d n ((0 : BitVec 2) ++ a) 0 1).extractLsb' 18 2 = 0 := field_eq _ _ _ (by
    rw [wRR_toNat]; simp only [append_toNat, BitVec.ofNat_eq_ofNat, BitVec.toNat_ofNat]; omega)
  have e5 : (wRR 20 d n ((0 : BitVec 2) ++ a) 0 1).extractLsb' 14 4 = a := field_eq _ _ _ (by
    rw [wRR_toNat]; simp only [append_toNat, BitVec.ofNat_eq_ofNat, BitVec.toNat_ofNat]; omega)
  rw [decodeWord_14 (wRR_m ..), decMajor14, wRR_f]
  change (fun w : Word => chk [] [zf w 8 6 false, zf w 18 2 false] (.eget (w.extractLsb' 21 5) (w.extractLsb' 20 1) (w.extractLsb' 14 4))) (wRR 20 d n ((0 : BitVec 2) ++ a) 0 1) = _
  simp only [wRR_b, wRR_d, wRR_n, e2, e5, chk, okSels, okZeros, zf]
  rfl

theorem emin (d : BitVec 4) (n : BitVec 1) (a : BitVec 4) (b : BitVec 6) : Statement (.emin d n a b) := by
  refine of_word (w := wRR 20 ((0 : BitVec 1) ++ d) n ((0 : BitVec 2) ++ a) b 2) rfl (by rw [wRR_m]; decide) (fun hw => ?_) rfl
  replace hw : (n == 0 && selOk b) = true := hw
  simp only [selOk, Bool.and_eq_true, decide_eq_true_eq, beq_iff_eq] at hw
  obtain ⟨hn, hw⟩ := hw
  have := d.isLt; have := n.isLt; have := a.isLt; have := b.isLt
  have e2 : (wRR 20 ((0 : BitVec 1) ++ d) n ((0 : BitVec 2) ++ a) b 2).extractLsb' 18 2 = 0 := field_eq _ _ _ (by
    rw [wRR_toNat]; simp only [append_toNat, BitVec.ofNat_eq_ofNat, BitVec.toNat_ofNat]; omega)
  have e3 : (wRR 20 ((0 : BitVec 1) ++ d) n ((0 : BitVec 2) ++ a) b 2).extractLsb' 25 1 = 0 := field_eq _ _ _ (by
    rw [wRR_toNat]; simp only [append_toNat, BitVec.ofNat_eq_ofNat, BitVec.toNat_ofNat]; omega)
  have e4 : (wRR 20 ((0 : BitVec 1) ++ d) n ((0 : BitVec 2) ++ a) b 2).extractLsb' 21 4 = d := field_eq _ _ _ (by
    rw [wRR_toNat]; simp only [append_toNat, BitVec.ofNat_eq_ofNat, BitVec.toNat_ofNat]; omega)
  have e6 : (wRR 20 ((0 : BitVec 1) ++ d) n ((0 : BitVec 2) ++ a) b 2).extractLsb' 14 4 = a := field_eq _ _ _ (by
    rw [wRR_toNat]; simp only [append_toNat, BitVec.ofNat_eq_ofNat, BitVec.toNat_ofNat]; omega)
  rw [decodeWord_14 (wRR_m ..), decMajor14, wRR_f]
  change (fun w : Word => chk [w.extractLsb' 8 6] [zf w 18 2 false, zf w 20 1 false, zf w 25 1 false] (.emin (w.extractLsb' 21 4) (w.extractLsb' 20 1) (w.extractLsb' 14 4) (w.extractLsb' 8 6))) (wRR 20 ((0 : BitVec 1) ++ d) n ((0 : BitVec 2) ++ a) b 2) = _
  simp only [wRR_b, wRR_n, e2, e3, e4, e6, chk, okSels, okZeros, zf, hw, if_true]
  simp only [hn]
  rfl

theorem esub (d : BitVec 4) (n : BitVec 1) (a : BitVec 4) (b : BitVec 6) : Statement (.esub d n a b) := by
  refine of_word (w := wRR 20 ((0 : BitVec 1) ++ d) n ((0 : BitVec 2) ++ a) b 3) rfl (by rw [wRR_m]; decide) (fun hw => ?_) rfl
  replace hw : (n == 0 && selOk b) = true := hw
  simp only [selOk, Bool.and_eq_true, decide_eq_true_eq, beq_iff_eq] at hw
  obtain ⟨hn, hw⟩ := hw
  have := d.isLt; have := n.isLt; have := a.isLt; have := b.isLt
  have e2 : (wRR 20 ((0 : BitVec 1) ++ d) n ((0 : BitVec 2) ++ a) b 3).extractLsb' 18 2 = 0 := field_eq _ _ _ (by
    rw [wRR_toNat]; simp only [append_toNat, BitVec.ofNat_eq_ofNat, BitVec.toNat_ofNat]; omega)
  have e3 : (wRR 20 ((0 : BitVec 1) ++ d) n ((0 : BitVec 2) ++ a) b 3).extractLsb' 25 1 = 0 := field_eq _ _ _ (by
    rw [wRR_toNat]; simp only [append_toNat, BitVec.ofNat_eq_ofNat, BitVec.toNat_ofNat]; omega)
  have e4 : (wRR 20 ((0 : BitVec 1) ++ d) n ((0 : BitVec 2) ++ a) b 3).extractLsb' 21 4 = d := field_eq _ _ _ (by
    rw [wRR_toNat]; simp only [append_toNat, BitVec.ofNat_eq_ofNat, BitVec.toNat_ofNat]; omega)
  have e6 : (wRR 20 ((0 : BitVec 1) ++ d) n ((0 : BitVec 2) ++ a) b 3).extractLsb' 14 4 = a := field_eq _ _ _ (by
    rw [wRR_toNat]; simp only [append_toNat, BitVec.ofNat_eq_ofNat, BitVec.toNat_ofNat]; omega)
  rw [decodeWord_14 (wRR_m ..), decMajor14, wRR_f]
  change (fun w : Word => chk [w.extractLsb' 8 6] [zf w 18 2 false, zf w 20 1 false, zf w 25 1 false] (.esub (w.extractLsb' 21 4) (w.extractLsb' 20 1) (w.extractLsb' 14 4) (w.extractLsb' 8 6))) (wRR 20 ((0 : BitVec 1) ++ d) n ((0 : BitVec 2) ++ a) b 3) = _
  simp only [wRR_b, wRR_n, e2, e3, e4, e6, chk, okSels, okZeros, zf, hw, if_true]
  simp only [hn]
  rfl

theorem eadd (d : BitVec 4) (n : BitVec 1) (a : BitVec 4) (b : BitVec 6) : Statement (.eadd d n a b) := by
  refine of_word (w := wRR 20 ((0 : BitVec 1) ++ d) n ((0 : BitVec 2) ++ a) b 4) rfl (by rw [wRR_m]; decide) (fun hw => ?_) rfl
  replace hw : (n == 0 && selOk b) = true := hw
  simp only [selOk, Bool.and_eq_true, decide_eq_true_eq, beq_iff_eq] at hw
  obtain ⟨hn, hw⟩ := hw
  have := d.isLt; have := n.isLt; have := a.isLt; have := b.isLt
  have e2 : (wRR 20 ((0 : BitVec 1) ++ d) n ((0 : BitVec 2) ++ a) b 4).extractLsb' 18 2 = 0 := field_eq _ _ _ (by
    rw [wRR_toNat]; simp only [append_toNat, BitVec.ofNat_eq_ofNat, BitVec.toNat_ofNat]; omega)
  have e3 : (wRR 20 ((0 : BitVec 1) ++ d) n ((0 : BitVec 2) ++ a) b 4).extractLsb' 25 1 = 0 := field_eq _ _ _ (by
    rw [wRR_toNat]; simp only [append_toNat, BitVec.ofNat_eq_ofNat, BitVec.toNat_ofNat]; omega)
  have e4 : (wRR 20 ((0 : BitVec 1) ++ d) n ((0 : BitVec 2) ++ a) b 4).extractLsb' 21 4 = d := field_eq _ _ _ (by
    rw [wRR_toNat]; simp only [append_toNat, BitVec.ofNat_eq_ofNat, BitVec.toNat_ofNat]; omega)
  have e6 : (wRR 20 ((0 : BitVec 1) ++ d) n ((0 : BitVec 2) ++ a) b 4).extractLsb' 14 4 = a := field_eq _ _ _ (by
    rw [wRR_toNat]; simp only [append_toNat, BitVec.ofNat_eq_ofNat, BitVec.toNat_ofNat]; omega)
  rw [decodeWord_14 (wRR_m ..), decMajor14, wRR_f]
  change (fun w : Word => chk [w.extractLsb' 8 6] [zf w 18 2 false, zf w 20 1 false, zf w 25 1 false] (.eadd (w.extractLsb' 21 4) (w.extractLsb' 20 1) (w.extractLsb' 14 4) (w.extractLsb' 8 6))) (wRR 20 ((0 : BitVec 1) ++ d) n ((0 : BitVec 2) ++ a) b 4) = _
  simp only [wRR_b, wRR_n, e2, e3, e4, e6, chk, okSels, okZeros, zf, hw, if_true]
  simp only [hn]
  rfl

theorem eclr (a : BitVec 6) : Statement (.eclr a) := by
  refine of_word (w := wRR 20 0 0 a 0 5) rfl (by rw [wRR_m]; decide) (fun hw => ?_) rfl
  replace hw : (selOk a) = true := hw
  simp only [selOk, decide_eq_true_eq] at hw
  have := a.isLt
  have e3 : (wRR 20 0 0 a 0 5).extractLsb' 20 6 = 0 := field_eq _ _ _ (by
    rw [wRR_toNat]; simp only [BitVec.ofNat_eq_ofNat, BitVec.toNat_ofNat]; omega)
  rw [decodeWord_14 (wRR_m ..), decMajor14, wRR_f]
  change (fun w : Word => chk [w.extractLsb' 14 6] [zf w 8 6 false, zf w 20 6 false] (.eclr (w.extractLsb' 14 6))) (wRR 20 0 0 a 0 5) = _
  simp only [wRR_a, wRR_b, e3, chk, okSels, okZeros, zf, hw, if_true]
  rfl

theorem br (p : BitVec 3) (v : BitVec 1) (o : BitVec 22) : Statement (.br p v o) := by
  refine of_word (w := wBR 21 p v o) rfl (by rw [wBR_m]; decide) (fun hw => ?_) rfl
  rw [decodeWord_15 (wBR_m ..)]
  simp only [decMajor15, wBR_p, wBR_v, wBR_o, chk, okSels, okZeros]

theorem jal (d : BitVec 5) (n : BitVec 1) (o : BitVec 20) : Statement (.jal d n o) := by
  refine of_word (w := wJL 22 d n o) rfl (by rw [wJL_m]; decide) (fun hw => ?_) rfl
  rw [decodeWord_16 (wJL_m ..)]
  simp only [decMajor16, wJL_d, wJL_n, wJL_o, chk, okSels, okZeros]

theorem jr (d : BitVec 5) (n : BitVec 1) (a : BitVec 6) (i : BitVec 14) : Statement (.jr d n a i) := by
  refine of_word (w := wRI 23 d n a i) rfl (by rw [wRI_m]; decide) (fun hw => ?_) rfl
  replace hw : (selOk a) = true := hw
  simp only [selOk, decide_eq_true_eq] at hw
  rw [decodeWord_17 (wRI_m ..)]
  simp only [decMajor17, wRI_a, wRI_d, wRI_n, wRI_i, chk, okSels, okZeros, hw, if_true]

theorem loop (a : BitVec 6) (l : BitVec 13) : Statement (.loop a l) := by
  refine of_word (w := wRI 24 0 0 a ((0 : BitVec 1) ++ l)) rfl (by rw [wRI_m]; decide) (fun hw => ?_) rfl
  replace hw : (selOk a) = true := hw
  simp only [selOk, decide_eq_true_eq] at hw
  have := a.isLt; have := l.isLt
  have e0 : (wRI 24 0 0 a ((0 : BitVec 1) ++ l)).extractLsb' 13 1 = 0 := field_eq _ _ _ (by
    rw [wRI_toNat]; simp only [append_toNat, BitVec.ofNat_eq_ofNat, BitVec.toNat_ofNat]; omega)
  have e4 : (wRI 24 0 0 a ((0 : BitVec 1) ++ l)).extractLsb' 0 13 = l := field_eq _ _ _ (by
    rw [wRI_toNat]; simp only [append_toNat, BitVec.ofNat_eq_ofNat, BitVec.toNat_ofNat]; omega)
  rw [decodeWord_18 (wRI_m ..), decMajor18, e0]
  change (fun w : Word => chk [w.extractLsb' 14 6] [zf w 20 1 false, zf w 21 5 true] (.loop (w.extractLsb' 14 6) (w.extractLsb' 0 13))) (wRI 24 0 0 a ((0 : BitVec 1) ++ l)) = _
  simp only [wRI_a, wRI_n, wRI_d, e4, chk, okSels, okZeros, zf, hw, if_true]
  rfl

theorem loopi (l : BitVec 5) (c : BitVec 13) : Statement (.loopi l c) := by
  refine of_word (w := wRI 24 l 0 0 ((1 : BitVec 1) ++ c)) rfl (by rw [wRI_m]; decide) (fun hw => ?_) rfl
  have := l.isLt; have := c.isLt
  have e0 : (wRI 24 l 0 0 ((1 : BitVec 1) ++ c)).extractLsb' 13 1 = 1 := field_eq _ _ _ (by
    rw [wRI_toNat]; simp only [append_toNat, BitVec.ofNat_eq_ofNat, BitVec.toNat_ofNat]; omega)
  have e4 : (wRI 24 l 0 0 ((1 : BitVec 1) ++ c)).extractLsb' 0 13 = c := field_eq _ _ _ (by
    rw [wRI_toNat]; simp only [append_toNat, BitVec.ofNat_eq_ofNat, BitVec.toNat_ofNat]; omega)
  rw [decodeWord_18 (wRI_m ..), decMajor18, e0]
  change (fun w : Word => chk [] [zf w 14 6 true, zf w 20 1 false] (.loopi (w.extractLsb' 21 5) (w.extractLsb' 0 13))) (wRI 24 l 0 0 ((1 : BitVec 1) ++ c)) = _
  simp only [wRI_a, wRI_n, wRI_d, e4, chk, okSels, okZeros, zf, if_true]
  rfl

theorem nop : Statement (.nop) := by
  refine of_word (w := wRR 25 0 0 0 0 0) rfl (by rw [wRR_m]; decide) (fun hw => ?_) rfl
  have e1 : (wRR 25 0 0 0 0 0).extractLsb' 8 18 = 0 := field_eq _ _ _ (by
    rw [wRR_toNat]; simp only [BitVec.ofNat_eq_ofNat, BitVec.toNat_ofNat]; omega)
  rw [decodeWord_19 (wRR_m ..), decMajor19, wRR_f]
  change (fun w : Word => chk [] [zf w 8 18 false] .nop) (wRR 25 0 0 0 0 0) = _
  simp only [e1, chk, okSels, okZeros, zf]
  rfl

theorem halt : Statement (.halt) := by
  refine of_word (w := wRR 25 0 0 0 0 1) rfl (by rw [wRR_m]; decide) (fun hw => ?_) rfl
  have e1 : (wRR 25 0 0 0 0 1).extractLsb' 8 18 = 0 := field_eq _ _ _ (by
    rw [wRR_toNat]; simp only [BitVec.ofNat_eq_ofNat, BitVec.toNat_ofNat]; omega)
  rw [decodeWord_19 (wRR_m ..), decMajor19, wRR_f]
  change (fun w : Word => chk [] [zf w 8 18 false] .halt) (wRR 25 0 0 0 0 1) = _
  simp only [e1, chk, okSels, okZeros, zf]
  rfl

theorem trap (a : BitVec 6) : Statement (.trap a) := by
  refine of_word (w := wRR 25 0 0 a 0 2) rfl (by rw [wRR_m]; decide) (fun hw => ?_) rfl
  replace hw : (selOk a) = true := hw
  simp only [selOk, decide_eq_true_eq] at hw
  have := a.isLt
  have e3 : (wRR 25 0 0 a 0 2).extractLsb' 20 6 = 0 := field_eq _ _ _ (by
    rw [wRR_toNat]; simp only [BitVec.ofNat_eq_ofNat, BitVec.toNat_ofNat]; omega)
  rw [decodeWord_19 (wRR_m ..), decMajor19, wRR_f]
  change (fun w : Word => chk [w.extractLsb' 14 6] [zf w 8 6 false, zf w 20 6 false] (.trap (w.extractLsb' 14 6))) (wRR 25 0 0 a 0 2) = _
  simp only [wRR_a, wRR_b, e3, chk, okSels, okZeros, zf, hw, if_true]
  rfl

theorem eret : Statement (.eret) := by
  refine of_word (w := wRR 25 0 0 0 0 3) rfl (by rw [wRR_m]; decide) (fun hw => ?_) rfl
  have e1 : (wRR 25 0 0 0 0 3).extractLsb' 8 18 = 0 := field_eq _ _ _ (by
    rw [wRR_toNat]; simp only [BitVec.ofNat_eq_ofNat, BitVec.toNat_ofNat]; omega)
  rw [decodeWord_19 (wRR_m ..), decMajor19, wRR_f]
  change (fun w : Word => chk [] [zf w 8 18 false] .eret) (wRR 25 0 0 0 0 3) = _
  simp only [e1, chk, okSels, okZeros, zf]
  rfl

theorem evret : Statement (.evret) := by
  refine of_word (w := wRR 25 0 0 0 0 4) rfl (by rw [wRR_m]; decide) (fun hw => ?_) rfl
  have e1 : (wRR 25 0 0 0 0 4).extractLsb' 8 18 = 0 := field_eq _ _ _ (by
    rw [wRR_toNat]; simp only [BitVec.ofNat_eq_ofNat, BitVec.toNat_ofNat]; omega)
  rw [decodeWord_19 (wRR_m ..), decMajor19, wRR_f]
  change (fun w : Word => chk [] [zf w 8 18 false] .evret) (wRR 25 0 0 0 0 4) = _
  simp only [e1, chk, okSels, okZeros, zf]
  rfl

theorem mfs (d : BitVec 5) (n : BitVec 1) (r : BitVec 6) : Statement (.mfs d n r) := by
  refine of_word (w := wRR 25 d n 0 r 5) rfl (by rw [wRR_m]; decide) (fun hw => ?_) rfl
  replace hw : (sysNumber r.toNat) = true := hw
  rw [decodeWord_19 (wRR_m ..), decMajor19, wRR_f]
  change (fun w : Word => chk [] [zf w 14 6 false] (.mfs (w.extractLsb' 21 5) (w.extractLsb' 20 1) (w.extractLsb' 8 6)) |>.bind (chkSys (w.extractLsb' 8 6) false)) (wRR 25 d n 0 r 5) = _
  simp only [wRR_a, wRR_d, wRR_n, wRR_b, chk, okSels, okZeros, zf, hw, chkSys, Except.bind]
  rfl

theorem mts (a : BitVec 6) (r : BitVec 6) : Statement (.mts a r) := by
  refine of_word (w := wRR 25 0 0 a r 6) rfl (by rw [wRR_m]; decide) (fun hw => ?_) rfl
  replace hw : (selOk a && sysWritable r.toNat) = true := hw
  simp only [selOk, Bool.and_eq_true, decide_eq_true_eq] at hw
  have := a.isLt; have := r.isLt
  have e2 : (wRR 25 0 0 a r 6).extractLsb' 20 6 = 0 := field_eq _ _ _ (by
    rw [wRR_toNat]; simp only [BitVec.ofNat_eq_ofNat, BitVec.toNat_ofNat]; omega)
  rw [decodeWord_19 (wRR_m ..), decMajor19, wRR_f]
  change (fun w : Word => chk [w.extractLsb' 14 6] [zf w 20 6 false] (.mts (w.extractLsb' 14 6) (w.extractLsb' 8 6)) |>.bind (chkSys (w.extractLsb' 8 6) true)) (wRR 25 0 0 a r 6) = _
  simp only [wRR_a, wRR_b, e2, chk, okSels, okZeros, zf, hw, if_true, chkSys, Except.bind]
  rfl

theorem fence : Statement (.fence) := by
  refine of_word (w := wRR 25 0 0 0 0 7) rfl (by rw [wRR_m]; decide) (fun hw => ?_) rfl
  have e1 : (wRR 25 0 0 0 0 7).extractLsb' 8 18 = 0 := field_eq _ _ _ (by
    rw [wRR_toNat]; simp only [BitVec.ofNat_eq_ofNat, BitVec.toNat_ofNat]; omega)
  rw [decodeWord_19 (wRR_m ..), decMajor19, wRR_f]
  change (fun w : Word => chk [] [zf w 8 18 false] .fence) (wRR 25 0 0 0 0 7) = _
  simp only [e1, chk, okSels, okZeros, zf]
  rfl

theorem afence : Statement (.afence) := by
  refine of_word (w := wRR 25 0 0 0 0 8) rfl (by rw [wRR_m]; decide) (fun hw => ?_) rfl
  have e1 : (wRR 25 0 0 0 0 8).extractLsb' 8 18 = 0 := field_eq _ _ _ (by
    rw [wRR_toNat]; simp only [BitVec.ofNat_eq_ofNat, BitVec.toNat_ofNat]; omega)
  rw [decodeWord_19 (wRR_m ..), decMajor19, wRR_f]
  change (fun w : Word => chk [] [zf w 8 18 false] .afence) (wRR 25 0 0 0 0 8) = _
  simp only [e1, chk, okSels, okZeros, zf]
  rfl

theorem phaseCore : Statement (.phaseCore) := by
  refine of_word (w := wRR 25 0 0 0 0 9) rfl (by rw [wRR_m]; decide) (fun hw => ?_) rfl
  have e1 : (wRR 25 0 0 0 0 9).extractLsb' 8 18 = 0 := field_eq _ _ _ (by
    rw [wRR_toNat]; simp only [BitVec.ofNat_eq_ofNat, BitVec.toNat_ofNat]; omega)
  rw [decodeWord_19 (wRR_m ..), decMajor19, wRR_f]
  change (fun w : Word => chk [] [zf w 8 18 false] .phaseCore) (wRR 25 0 0 0 0 9) = _
  simp only [e1, chk, okSels, okZeros, zf]
  rfl

theorem phaseClus : Statement (.phaseClus) := by
  refine of_word (w := wRR 25 0 0 0 0 10) rfl (by rw [wRR_m]; decide) (fun hw => ?_) rfl
  have e1 : (wRR 25 0 0 0 0 10).extractLsb' 8 18 = 0 := field_eq _ _ _ (by
    rw [wRR_toNat]; simp only [BitVec.ofNat_eq_ofNat, BitVec.toNat_ofNat]; omega)
  rw [decodeWord_19 (wRR_m ..), decMajor19, wRR_f]
  change (fun w : Word => chk [] [zf w 8 18 false] .phaseClus) (wRR 25 0 0 0 0 10) = _
  simp only [e1, chk, okSels, okZeros, zf]
  rfl

theorem phaseDie : Statement (.phaseDie) := by
  refine of_word (w := wRR 25 0 0 0 0 11) rfl (by rw [wRR_m]; decide) (fun hw => ?_) rfl
  have e1 : (wRR 25 0 0 0 0 11).extractLsb' 8 18 = 0 := field_eq _ _ _ (by
    rw [wRR_toNat]; simp only [BitVec.ofNat_eq_ofNat, BitVec.toNat_ofNat]; omega)
  rw [decodeWord_19 (wRR_m ..), decMajor19, wRR_f]
  change (fun w : Word => chk [] [zf w 8 18 false] .phaseDie) (wRR 25 0 0 0 0 11) = _
  simp only [e1, chk, okSels, okZeros, zf]
  rfl

theorem phasePkg : Statement (.phasePkg) := by
  refine of_word (w := wRR 25 0 0 0 0 12) rfl (by rw [wRR_m]; decide) (fun hw => ?_) rfl
  have e1 : (wRR 25 0 0 0 0 12).extractLsb' 8 18 = 0 := field_eq _ _ _ (by
    rw [wRR_toNat]; simp only [BitVec.ofNat_eq_ofNat, BitVec.toNat_ofNat]; omega)
  rw [decodeWord_19 (wRR_m ..), decMajor19, wRR_f]
  change (fun w : Word => chk [] [zf w 8 18 false] .phasePkg) (wRR 25 0 0 0 0 12) = _
  simp only [e1, chk, okSels, okZeros, zf]
  rfl

theorem phaseDom : Statement (.phaseDom) := by
  refine of_word (w := wRR 25 0 0 0 0 13) rfl (by rw [wRR_m]; decide) (fun hw => ?_) rfl
  have e1 : (wRR 25 0 0 0 0 13).extractLsb' 8 18 = 0 := field_eq _ _ _ (by
    rw [wRR_toNat]; simp only [BitVec.ofNat_eq_ofNat, BitVec.toNat_ofNat]; omega)
  rw [decodeWord_19 (wRR_m ..), decMajor19, wRR_f]
  change (fun w : Word => chk [] [zf w 8 18 false] .phaseDom) (wRR 25 0 0 0 0 13) = _
  simp only [e1, chk, okSels, okZeros, zf]
  rfl

theorem phaseSys : Statement (.phaseSys) := by
  refine of_word (w := wRR 25 0 0 0 0 14) rfl (by rw [wRR_m]; decide) (fun hw => ?_) rfl
  have e1 : (wRR 25 0 0 0 0 14).extractLsb' 8 18 = 0 := field_eq _ _ _ (by
    rw [wRR_toNat]; simp only [BitVec.ofNat_eq_ofNat, BitVec.toNat_ofNat]; omega)
  rw [decodeWord_19 (wRR_m ..), decMajor19, wRR_f]
  change (fun w : Word => chk [] [zf w 8 18 false] .phaseSys) (wRR 25 0 0 0 0 14) = _
  simp only [e1, chk, okSels, okZeros, zf]
  rfl

theorem segend (e : BitVec 3) (c : BitVec 12) : Statement (.segend e c) := by
  refine of_word (w := wRR 25 ((0 : BitVec 2) ++ e) 0 (c.extractLsb' 6 6) (c.extractLsb' 0 6) 15) rfl (by rw [wRR_m]; decide) (fun hw => ?_) rfl
  have := e.isLt; have := c.isLt; have := (c.extractLsb' 6 6).isLt; have h6 := BitVec.extractLsb'_toNat 6 6 c; have h0 := BitVec.extractLsb'_toNat 0 6 c; simp only [Nat.shiftRight_eq_div_pow] at h6 h0
  have e2 : (wRR 25 ((0 : BitVec 2) ++ e) 0 (c.extractLsb' 6 6) (c.extractLsb' 0 6) 15).extractLsb' 24 2 = 0 := field_eq _ _ _ (by
    rw [wRR_toNat]; simp only [append_toNat, BitVec.ofNat_eq_ofNat, BitVec.toNat_ofNat]; omega)
  have e3 : (wRR 25 ((0 : BitVec 2) ++ e) 0 (c.extractLsb' 6 6) (c.extractLsb' 0 6) 15).extractLsb' 21 3 = e := field_eq _ _ _ (by
    rw [wRR_toNat]; simp only [append_toNat, BitVec.ofNat_eq_ofNat, BitVec.toNat_ofNat]; omega)
  have e4 : (wRR 25 ((0 : BitVec 2) ++ e) 0 (c.extractLsb' 6 6) (c.extractLsb' 0 6) 15).extractLsb' 8 12 = c := field_eq _ _ _ (by
    rw [wRR_toNat]; simp only [append_toNat, BitVec.ofNat_eq_ofNat, BitVec.toNat_ofNat]; omega)
  rw [decodeWord_19 (wRR_m ..), decMajor19, wRR_f]
  change (fun w : Word => chk [] [zf w 20 1 false, zf w 24 2 false] (.segend (w.extractLsb' 21 3) (w.extractLsb' 8 12))) (wRR 25 ((0 : BitVec 2) ++ e) 0 (c.extractLsb' 6 6) (c.extractLsb' 0 6) 15) = _
  simp only [wRR_n, e2, e3, e4, chk, okSels, okZeros, zf]
  rfl

theorem waitc (d : BitVec 5) (n : BitVec 1) (a : BitVec 6) (b : BitVec 6) : Statement (.waitc d n a b) := by
  refine of_word (w := wRR 25 d n a b 16) rfl (by rw [wRR_m]; decide) (fun hw => ?_) rfl
  replace hw : (selOk a && selOk b) = true := hw
  simp only [selOk, Bool.and_eq_true, decide_eq_true_eq] at hw
  rw [decodeWord_19 (wRR_m ..), decMajor19, wRR_f]
  change (fun w : Word => chk [w.extractLsb' 14 6, w.extractLsb' 8 6] [] (.waitc (w.extractLsb' 21 5) (w.extractLsb' 20 1) (w.extractLsb' 14 6) (w.extractLsb' 8 6))) (wRR 25 d n a b 16) = _
  simp only [wRR_a, wRR_b, wRR_d, wRR_n, chk, okSels, okZeros, hw, if_true]

theorem sched (a : BitVec 4) (b : BitVec 6) : Statement (.sched a b) := by
  refine of_word (w := wRR 25 0 0 ((0 : BitVec 2) ++ a) b 17) rfl (by rw [wRR_m]; decide) (fun hw => ?_) rfl
  replace hw : (selOk b) = true := hw
  simp only [selOk, decide_eq_true_eq] at hw
  have := a.isLt; have := b.isLt
  have e2 : (wRR 25 0 0 ((0 : BitVec 2) ++ a) b 17).extractLsb' 18 8 = 0 := field_eq _ _ _ (by
    rw [wRR_toNat]; simp only [append_toNat, BitVec.ofNat_eq_ofNat, BitVec.toNat_ofNat]; omega)
  have e3 : (wRR 25 0 0 ((0 : BitVec 2) ++ a) b 17).extractLsb' 14 4 = a := field_eq _ _ _ (by
    rw [wRR_toNat]; simp only [append_toNat, BitVec.ofNat_eq_ofNat, BitVec.toNat_ofNat]; omega)
  rw [decodeWord_19 (wRR_m ..), decMajor19, wRR_f]
  change (fun w : Word => chk [w.extractLsb' 8 6] [zf w 18 8 false] (.sched (w.extractLsb' 14 4) (w.extractLsb' 8 6))) (wRR 25 0 0 ((0 : BitVec 2) ++ a) b 17) = _
  simp only [wRR_b, e2, e3, chk, okSels, okZeros, zf, hw, if_true]
  rfl

theorem park (d : BitVec 5) (n : BitVec 1) (a : BitVec 6) : Statement (.park d n a) := by
  refine of_word (w := wRR 25 d n a 0 18) rfl (by rw [wRR_m]; decide) (fun hw => ?_) rfl
  replace hw : (selOk a) = true := hw
  simp only [selOk, decide_eq_true_eq] at hw
  rw [decodeWord_19 (wRR_m ..), decMajor19, wRR_f]
  change (fun w : Word => chk [w.extractLsb' 14 6] [zf w 8 6 false] (.park (w.extractLsb' 21 5) (w.extractLsb' 20 1) (w.extractLsb' 14 6))) (wRR 25 d n a 0 18) = _
  simp only [wRR_a, wRR_b, wRR_d, wRR_n, chk, okSels, okZeros, zf, hw, if_true]
  rfl

theorem notify (a : BitVec 6) (b : BitVec 6) : Statement (.notify a b) := by
  refine of_word (w := wRR 25 0 0 a b 19) rfl (by rw [wRR_m]; decide) (fun hw => ?_) rfl
  replace hw : (selOk a && selOk b) = true := hw
  simp only [selOk, Bool.and_eq_true, decide_eq_true_eq] at hw
  have := a.isLt; have := b.isLt
  have e3 : (wRR 25 0 0 a b 19).extractLsb' 20 6 = 0 := field_eq _ _ _ (by
    rw [wRR_toNat]; simp only [BitVec.ofNat_eq_ofNat, BitVec.toNat_ofNat]; omega)
  rw [decodeWord_19 (wRR_m ..), decMajor19, wRR_f]
  change (fun w : Word => chk [w.extractLsb' 14 6, w.extractLsb' 8 6] [zf w 20 6 false] (.notify (w.extractLsb' 14 6) (w.extractLsb' 8 6))) (wRR 25 0 0 a b 19) = _
  simp only [wRR_a, wRR_b, e3, chk, okSels, okZeros, zf, hw, if_true]
  rfl

theorem rpop (d : BitVec 5) (n : BitVec 1) : Statement (.rpop d n) := by
  refine of_word (w := wRR 25 d n 0 0 20) rfl (by rw [wRR_m]; decide) (fun hw => ?_) rfl
  have := d.isLt; have := n.isLt
  have e1 : (wRR 25 d n 0 0 20).extractLsb' 8 12 = 0 := field_eq _ _ _ (by
    rw [wRR_toNat]; simp only [BitVec.ofNat_eq_ofNat, BitVec.toNat_ofNat]; omega)
  rw [decodeWord_19 (wRR_m ..), decMajor19, wRR_f]
  change (fun w : Word => chk [] [zf w 8 12 false] (.rpop (w.extractLsb' 21 5) (w.extractLsb' 20 1))) (wRR 25 d n 0 0 20) = _
  simp only [wRR_d, wRR_n, e1, chk, okSels, okZeros, zf]
  rfl

theorem liw (imm : BitVec 32) (word : BitVec 32) : Statement (.liw imm word) := by
  intro _
  exact ⟨fun _ rest => decode_liw imm word rest, fun _ v hv => by cases hv⟩

theorem cinG (t : BitVec 2) (g : BitVec 2) (x : BitVec 5) (y : BitVec 5) (z : BitVec 5) : Statement (.cinG t g x y z) := by
  refine of_word (w := wE 32 ((0 : BitVec 1) ++ t) ((0 : BitVec 1) ++ g) x y z 0) rfl (by rw [wE_m]; decide) (fun hw => ?_) rfl
  have := t.isLt; have := g.isLt; have := x.isLt; have := y.isLt; have := z.isLt
  have e1 : (wE 32 ((0 : BitVec 1) ++ t) ((0 : BitVec 1) ++ g) x y z 0).extractLsb' 23 2 = t := field_eq _ _ _ (by
    rw [wE_toNat]; simp only [append_toNat, BitVec.ofNat_eq_ofNat, BitVec.toNat_ofNat]; omega)
  have e2 : (wE 32 ((0 : BitVec 1) ++ t) ((0 : BitVec 1) ++ g) x y z 0).extractLsb' 20 2 = g := field_eq _ _ _ (by
    rw [wE_toNat]; simp only [append_toNat, BitVec.ofNat_eq_ofNat, BitVec.toNat_ofNat]; omega)
  rw [decodeWord_20 (wE_m ..), decMajor20, wE_f]
  change (fun w : Word => chkE w .lq [] (.cinG (w.extractLsb' 23 2) (w.extractLsb' 20 2) (w.extractLsb' 15 5) (w.extractLsb' 10 5) (w.extractLsb' 5 5))) (wE 32 ((0 : BitVec 1) ++ t) ((0 : BitVec 1) ++ g) x y z 0) = _
  simp only [wE_x, wE_y, wE_z, wE_t, wE_g, e1, e2, chkE, okZeros, token_lq]

theorem cinL (t : BitVec 2) (g : BitVec 2) (x : BitVec 5) (y : BitVec 5) (z : BitVec 5) : Statement (.cinL t g x y z) := by
  refine of_word (w := wE 32 ((0 : BitVec 1) ++ t) ((0 : BitVec 1) ++ g) x y z 1) rfl (by rw [wE_m]; decide) (fun hw => ?_) rfl
  have := t.isLt; have := g.isLt; have := x.isLt; have := y.isLt; have := z.isLt
  have e1 : (wE 32 ((0 : BitVec 1) ++ t) ((0 : BitVec 1) ++ g) x y z 1).extractLsb' 23 2 = t := field_eq _ _ _ (by
    rw [wE_toNat]; simp only [append_toNat, BitVec.ofNat_eq_ofNat, BitVec.toNat_ofNat]; omega)
  have e2 : (wE 32 ((0 : BitVec 1) ++ t) ((0 : BitVec 1) ++ g) x y z 1).extractLsb' 20 2 = g := field_eq _ _ _ (by
    rw [wE_toNat]; simp only [append_toNat, BitVec.ofNat_eq_ofNat, BitVec.toNat_ofNat]; omega)
  rw [decodeWord_20 (wE_m ..), decMajor20, wE_f]
  change (fun w : Word => chkE w .lq [] (.cinL (w.extractLsb' 23 2) (w.extractLsb' 20 2) (w.extractLsb' 15 5) (w.extractLsb' 10 5) (w.extractLsb' 5 5))) (wE 32 ((0 : BitVec 1) ++ t) ((0 : BitVec 1) ++ g) x y z 1) = _
  simp only [wE_x, wE_y, wE_z, wE_t, wE_g, e1, e2, chkE, okZeros, token_lq]

theorem cinP (t : BitVec 2) (g : BitVec 2) (x : BitVec 5) (y : BitVec 5) (z : BitVec 5) : Statement (.cinP t g x y z) := by
  refine of_word (w := wE 32 ((0 : BitVec 1) ++ t) ((0 : BitVec 1) ++ g) x y z 2) rfl (by rw [wE_m]; decide) (fun hw => ?_) rfl
  have := t.isLt; have := g.isLt; have := x.isLt; have := y.isLt; have := z.isLt
  have e1 : (wE 32 ((0 : BitVec 1) ++ t) ((0 : BitVec 1) ++ g) x y z 2).extractLsb' 23 2 = t := field_eq _ _ _ (by
    rw [wE_toNat]; simp only [append_toNat, BitVec.ofNat_eq_ofNat, BitVec.toNat_ofNat]; omega)
  have e2 : (wE 32 ((0 : BitVec 1) ++ t) ((0 : BitVec 1) ++ g) x y z 2).extractLsb' 20 2 = g := field_eq _ _ _ (by
    rw [wE_toNat]; simp only [append_toNat, BitVec.ofNat_eq_ofNat, BitVec.toNat_ofNat]; omega)
  rw [decodeWord_20 (wE_m ..), decMajor20, wE_f]
  change (fun w : Word => chkE w .lq [] (.cinP (w.extractLsb' 23 2) (w.extractLsb' 20 2) (w.extractLsb' 15 5) (w.extractLsb' 10 5) (w.extractLsb' 5 5))) (wE 32 ((0 : BitVec 1) ++ t) ((0 : BitVec 1) ++ g) x y z 2) = _
  simp only [wE_x, wE_y, wE_z, wE_t, wE_g, e1, e2, chkE, okZeros, token_lq]

theorem cinMc (t : BitVec 2) (g : BitVec 2) (x : BitVec 5) (y : BitVec 5) (z : BitVec 5) : Statement (.cinMc t g x y z) := by
  refine of_word (w := wE 32 ((0 : BitVec 1) ++ t) ((0 : BitVec 1) ++ g) x y z 3) rfl (by rw [wE_m]; decide) (fun hw => ?_) rfl
  have := t.isLt; have := g.isLt; have := x.isLt; have := y.isLt; have := z.isLt
  have e1 : (wE 32 ((0 : BitVec 1) ++ t) ((0 : BitVec 1) ++ g) x y z 3).extractLsb' 23 2 = t := field_eq _ _ _ (by
    rw [wE_toNat]; simp only [append_toNat, BitVec.ofNat_eq_ofNat, BitVec.toNat_ofNat]; omega)
  have e2 : (wE 32 ((0 : BitVec 1) ++ t) ((0 : BitVec 1) ++ g) x y z 3).extractLsb' 20 2 = g := field_eq _ _ _ (by
    rw [wE_toNat]; simp only [append_toNat, BitVec.ofNat_eq_ofNat, BitVec.toNat_ofNat]; omega)
  rw [decodeWord_20 (wE_m ..), decMajor20, wE_f]
  change (fun w : Word => chkE w .lq [] (.cinMc (w.extractLsb' 23 2) (w.extractLsb' 20 2) (w.extractLsb' 15 5) (w.extractLsb' 10 5) (w.extractLsb' 5 5))) (wE 32 ((0 : BitVec 1) ++ t) ((0 : BitVec 1) ++ g) x y z 3) = _
  simp only [wE_x, wE_y, wE_z, wE_t, wE_g, e1, e2, chkE, okZeros, token_lq]

theorem coutG (t : BitVec 2) (g : BitVec 1) (x : BitVec 5) (y : BitVec 5) (z : BitVec 5) : Statement (.coutG t g x y z) := by
  refine of_word (w := wE 33 ((0 : BitVec 1) ++ t) ((0 : BitVec 2) ++ g) x y z 0) rfl (by rw [wE_m]; decide) (fun hw => ?_) rfl
  have := t.isLt; have := g.isLt; have := x.isLt; have := y.isLt; have := z.isLt
  have e1 : (wE 33 ((0 : BitVec 1) ++ t) ((0 : BitVec 2) ++ g) x y z 0).extractLsb' 23 2 = t := field_eq _ _ _ (by
    rw [wE_toNat]; simp only [append_toNat, BitVec.ofNat_eq_ofNat, BitVec.toNat_ofNat]; omega)
  have e2 : (wE 33 ((0 : BitVec 1) ++ t) ((0 : BitVec 2) ++ g) x y z 0).extractLsb' 20 1 = g := field_eq _ _ _ (by
    rw [wE_toNat]; simp only [append_toNat, BitVec.ofNat_eq_ofNat, BitVec.toNat_ofNat]; omega)
  rw [decodeWord_21 (wE_m ..), decMajor21, wE_f]
  change (fun w : Word => chkE w .sq [] (.coutG (w.extractLsb' 23 2) (w.extractLsb' 20 1) (w.extractLsb' 15 5) (w.extractLsb' 10 5) (w.extractLsb' 5 5))) (wE 33 ((0 : BitVec 1) ++ t) ((0 : BitVec 2) ++ g) x y z 0) = _
  simp only [wE_x, wE_y, wE_z, wE_t, wE_g, e1, e2, chkE, okZeros, token_sq]

theorem coutL (t : BitVec 2) (g : BitVec 1) (x : BitVec 5) (y : BitVec 5) (z : BitVec 5) : Statement (.coutL t g x y z) := by
  refine of_word (w := wE 33 ((0 : BitVec 1) ++ t) ((0 : BitVec 2) ++ g) x y z 1) rfl (by rw [wE_m]; decide) (fun hw => ?_) rfl
  have := t.isLt; have := g.isLt; have := x.isLt; have := y.isLt; have := z.isLt
  have e1 : (wE 33 ((0 : BitVec 1) ++ t) ((0 : BitVec 2) ++ g) x y z 1).extractLsb' 23 2 = t := field_eq _ _ _ (by
    rw [wE_toNat]; simp only [append_toNat, BitVec.ofNat_eq_ofNat, BitVec.toNat_ofNat]; omega)
  have e2 : (wE 33 ((0 : BitVec 1) ++ t) ((0 : BitVec 2) ++ g) x y z 1).extractLsb' 20 1 = g := field_eq _ _ _ (by
    rw [wE_toNat]; simp only [append_toNat, BitVec.ofNat_eq_ofNat, BitVec.toNat_ofNat]; omega)
  rw [decodeWord_21 (wE_m ..), decMajor21, wE_f]
  change (fun w : Word => chkE w .sq [] (.coutL (w.extractLsb' 23 2) (w.extractLsb' 20 1) (w.extractLsb' 15 5) (w.extractLsb' 10 5) (w.extractLsb' 5 5))) (wE 33 ((0 : BitVec 1) ++ t) ((0 : BitVec 2) ++ g) x y z 1) = _
  simp only [wE_x, wE_y, wE_z, wE_t, wE_g, e1, e2, chkE, okZeros, token_sq]

theorem coutP (t : BitVec 2) (g : BitVec 1) (x : BitVec 5) (y : BitVec 5) (z : BitVec 5) : Statement (.coutP t g x y z) := by
  refine of_word (w := wE 33 ((0 : BitVec 1) ++ t) ((0 : BitVec 2) ++ g) x y z 2) rfl (by rw [wE_m]; decide) (fun hw => ?_) rfl
  have := t.isLt; have := g.isLt; have := x.isLt; have := y.isLt; have := z.isLt
  have e1 : (wE 33 ((0 : BitVec 1) ++ t) ((0 : BitVec 2) ++ g) x y z 2).extractLsb' 23 2 = t := field_eq _ _ _ (by
    rw [wE_toNat]; simp only [append_toNat, BitVec.ofNat_eq_ofNat, BitVec.toNat_ofNat]; omega)
  have e2 : (wE 33 ((0 : BitVec 1) ++ t) ((0 : BitVec 2) ++ g) x y z 2).extractLsb' 20 1 = g := field_eq _ _ _ (by
    rw [wE_toNat]; simp only [append_toNat, BitVec.ofNat_eq_ofNat, BitVec.toNat_ofNat]; omega)
  rw [decodeWord_21 (wE_m ..), decMajor21, wE_f]
  change (fun w : Word => chkE w .sq [] (.coutP (w.extractLsb' 23 2) (w.extractLsb' 20 1) (w.extractLsb' 15 5) (w.extractLsb' 10 5) (w.extractLsb' 5 5))) (wE 33 ((0 : BitVec 1) ++ t) ((0 : BitVec 2) ++ g) x y z 2) = _
  simp only [wE_x, wE_y, wE_z, wE_t, wE_g, e1, e2, chkE, okZeros, token_sq]

theorem coutSel (t : BitVec 2) (g : BitVec 1) (x : BitVec 5) (y : BitVec 5) (z : BitVec 5) : Statement (.coutSel t g x y z) := by
  refine of_word (w := wE 33 ((0 : BitVec 1) ++ t) ((0 : BitVec 2) ++ g) x y z 3) rfl (by rw [wE_m]; decide) (fun hw => ?_) rfl
  have := t.isLt; have := g.isLt; have := x.isLt; have := y.isLt; have := z.isLt
  have e1 : (wE 33 ((0 : BitVec 1) ++ t) ((0 : BitVec 2) ++ g) x y z 3).extractLsb' 23 2 = t := field_eq _ _ _ (by
    rw [wE_toNat]; simp only [append_toNat, BitVec.ofNat_eq_ofNat, BitVec.toNat_ofNat]; omega)
  have e2 : (wE 33 ((0 : BitVec 1) ++ t) ((0 : BitVec 2) ++ g) x y z 3).extractLsb' 20 1 = g := field_eq _ _ _ (by
    rw [wE_toNat]; simp only [append_toNat, BitVec.ofNat_eq_ofNat, BitVec.toNat_ofNat]; omega)
  rw [decodeWord_21 (wE_m ..), decMajor21, wE_f]
  change (fun w : Word => chkE w .sq [] (.coutSel (w.extractLsb' 23 2) (w.extractLsb' 20 1) (w.extractLsb' 15 5) (w.extractLsb' 10 5) (w.extractLsb' 5 5))) (wE 33 ((0 : BitVec 1) ++ t) ((0 : BitVec 2) ++ g) x y z 3) = _
  simp only [wE_x, wE_y, wE_z, wE_t, wE_g, e1, e2, chkE, okZeros, token_sq]

theorem cpxPp (t : BitVec 2) (g : BitVec 2) (x : BitVec 5) (y : BitVec 5) (z : BitVec 5) : Statement (.cpxPp t g x y z) := by
  refine of_word (w := wE 34 ((0 : BitVec 1) ++ t) ((0 : BitVec 1) ++ g) x y z 0) rfl (by rw [wE_m]; decide) (fun hw => ?_) rfl
  have := t.isLt; have := g.isLt; have := x.isLt; have := y.isLt; have := z.isLt
  have e1 : (wE 34 ((0 : BitVec 1) ++ t) ((0 : BitVec 1) ++ g) x y z 0).extractLsb' 23 2 = t := field_eq _ _ _ (by
    rw [wE_toNat]; simp only [append_toNat, BitVec.ofNat_eq_ofNat, BitVec.toNat_ofNat]; omega)
  have e2 : (wE 34 ((0 : BitVec 1) ++ t) ((0 : BitVec 1) ++ g) x y z 0).extractLsb' 20 2 = g := field_eq _ _ _ (by
    rw [wE_toNat]; simp only [append_toNat, BitVec.ofNat_eq_ofNat, BitVec.toNat_ofNat]; omega)
  rw [decodeWord_22 (wE_m ..), decMajor22, wE_f]
  change (fun w : Word => chkE w .lq [] (.cpxPp (w.extractLsb' 23 2) (w.extractLsb' 20 2) (w.extractLsb' 15 5) (w.extractLsb' 10 5) (w.extractLsb' 5 5))) (wE 34 ((0 : BitVec 1) ++ t) ((0 : BitVec 1) ++ g) x y z 0) = _
  simp only [wE_x, wE_y, wE_z, wE_t, wE_g, e1, e2, chkE, okZeros, token_lq]

theorem cpxPl (t : BitVec 2) (g : BitVec 2) (x : BitVec 5) (y : BitVec 5) (z : BitVec 5) : Statement (.cpxPl t g x y z) := by
  refine of_word (w := wE 34 ((0 : BitVec 1) ++ t) ((0 : BitVec 1) ++ g) x y z 1) rfl (by rw [wE_m]; decide) (fun hw => ?_) rfl
  have := t.isLt; have := g.isLt; have := x.isLt; have := y.isLt; have := z.isLt
  have e1 : (wE 34 ((0 : BitVec 1) ++ t) ((0 : BitVec 1) ++ g) x y z 1).extractLsb' 23 2 = t := field_eq _ _ _ (by
    rw [wE_toNat]; simp only [append_toNat, BitVec.ofNat_eq_ofNat, BitVec.toNat_ofNat]; omega)
  have e2 : (wE 34 ((0 : BitVec 1) ++ t) ((0 : BitVec 1) ++ g) x y z 1).extractLsb' 20 2 = g := field_eq _ _ _ (by
    rw [wE_toNat]; simp only [append_toNat, BitVec.ofNat_eq_ofNat, BitVec.toNat_ofNat]; omega)
  rw [decodeWord_22 (wE_m ..), decMajor22, wE_f]
  change (fun w : Word => chkE w .lq [] (.cpxPl (w.extractLsb' 23 2) (w.extractLsb' 20 2) (w.extractLsb' 15 5) (w.extractLsb' 10 5) (w.extractLsb' 5 5))) (wE 34 ((0 : BitVec 1) ++ t) ((0 : BitVec 1) ++ g) x y z 1) = _
  simp only [wE_x, wE_y, wE_z, wE_t, wE_g, e1, e2, chkE, okZeros, token_lq]

theorem cpxLp (t : BitVec 2) (g : BitVec 2) (x : BitVec 5) (y : BitVec 5) (z : BitVec 5) : Statement (.cpxLp t g x y z) := by
  refine of_word (w := wE 34 ((0 : BitVec 1) ++ t) ((0 : BitVec 1) ++ g) x y z 2) rfl (by rw [wE_m]; decide) (fun hw => ?_) rfl
  have := t.isLt; have := g.isLt; have := x.isLt; have := y.isLt; have := z.isLt
  have e1 : (wE 34 ((0 : BitVec 1) ++ t) ((0 : BitVec 1) ++ g) x y z 2).extractLsb' 23 2 = t := field_eq _ _ _ (by
    rw [wE_toNat]; simp only [append_toNat, BitVec.ofNat_eq_ofNat, BitVec.toNat_ofNat]; omega)
  have e2 : (wE 34 ((0 : BitVec 1) ++ t) ((0 : BitVec 1) ++ g) x y z 2).extractLsb' 20 2 = g := field_eq _ _ _ (by
    rw [wE_toNat]; simp only [append_toNat, BitVec.ofNat_eq_ofNat, BitVec.toNat_ofNat]; omega)
  rw [decodeWord_22 (wE_m ..), decMajor22, wE_f]
  change (fun w : Word => chkE w .lq [] (.cpxLp (w.extractLsb' 23 2) (w.extractLsb' 20 2) (w.extractLsb' 15 5) (w.extractLsb' 10 5) (w.extractLsb' 5 5))) (wE 34 ((0 : BitVec 1) ++ t) ((0 : BitVec 1) ++ g) x y z 2) = _
  simp only [wE_x, wE_y, wE_z, wE_t, wE_g, e1, e2, chkE, okZeros, token_lq]

theorem cpxLl (t : BitVec 2) (g : BitVec 2) (x : BitVec 5) (y : BitVec 5) (z : BitVec 5) : Statement (.cpxLl t g x y z) := by
  refine of_word (w := wE 34 ((0 : BitVec 1) ++ t) ((0 : BitVec 1) ++ g) x y z 3) rfl (by rw [wE_m]; decide) (fun hw => ?_) rfl
  have := t.isLt; have := g.isLt; have := x.isLt; have := y.isLt; have := z.isLt
  have e1 : (wE 34 ((0 : BitVec 1) ++ t) ((0 : BitVec 1) ++ g) x y z 3).extractLsb' 23 2 = t := field_eq _ _ _ (by
    rw [wE_toNat]; simp only [append_toNat, BitVec.ofNat_eq_ofNat, BitVec.toNat_ofNat]; omega)
  have e2 : (wE 34 ((0 : BitVec 1) ++ t) ((0 : BitVec 1) ++ g) x y z 3).extractLsb' 20 2 = g := field_eq _ _ _ (by
    rw [wE_toNat]; simp only [append_toNat, BitVec.ofNat_eq_ofNat, BitVec.toNat_ofNat]; omega)
  rw [decodeWord_22 (wE_m ..), decMajor22, wE_f]
  change (fun w : Word => chkE w .lq [] (.cpxLl (w.extractLsb' 23 2) (w.extractLsb' 20 2) (w.extractLsb' 15 5) (w.extractLsb' 10 5) (w.extractLsb' 5 5))) (wE 34 ((0 : BitVec 1) ++ t) ((0 : BitVec 1) ++ g) x y z 3) = _
  simp only [wE_x, wE_y, wE_z, wE_t, wE_g, e1, e2, chkE, okZeros, token_lq]

theorem cgathP (t : BitVec 2) (g : BitVec 2) (x : BitVec 5) (y : BitVec 5) (z : BitVec 5) : Statement (.cgathP t g x y z) := by
  refine of_word (w := wE 35 ((0 : BitVec 1) ++ t) ((0 : BitVec 1) ++ g) x y z 0) rfl (by rw [wE_m]; decide) (fun hw => ?_) rfl
  have := t.isLt; have := g.isLt; have := x.isLt; have := y.isLt; have := z.isLt
  have e1 : (wE 35 ((0 : BitVec 1) ++ t) ((0 : BitVec 1) ++ g) x y z 0).extractLsb' 23 2 = t := field_eq _ _ _ (by
    rw [wE_toNat]; simp only [append_toNat, BitVec.ofNat_eq_ofNat, BitVec.toNat_ofNat]; omega)
  have e2 : (wE 35 ((0 : BitVec 1) ++ t) ((0 : BitVec 1) ++ g) x y z 0).extractLsb' 20 2 = g := field_eq _ _ _ (by
    rw [wE_toNat]; simp only [append_toNat, BitVec.ofNat_eq_ofNat, BitVec.toNat_ofNat]; omega)
  rw [decodeWord_23 (wE_m ..), decMajor23, wE_f]
  change (fun w : Word => chkE w .lq [] (.cgathP (w.extractLsb' 23 2) (w.extractLsb' 20 2) (w.extractLsb' 15 5) (w.extractLsb' 10 5) (w.extractLsb' 5 5))) (wE 35 ((0 : BitVec 1) ++ t) ((0 : BitVec 1) ++ g) x y z 0) = _
  simp only [wE_x, wE_y, wE_z, wE_t, wE_g, e1, e2, chkE, okZeros, token_lq]

theorem cgathL (t : BitVec 2) (g : BitVec 2) (x : BitVec 5) (y : BitVec 5) (z : BitVec 5) : Statement (.cgathL t g x y z) := by
  refine of_word (w := wE 35 ((0 : BitVec 1) ++ t) ((0 : BitVec 1) ++ g) x y z 1) rfl (by rw [wE_m]; decide) (fun hw => ?_) rfl
  have := t.isLt; have := g.isLt; have := x.isLt; have := y.isLt; have := z.isLt
  have e1 : (wE 35 ((0 : BitVec 1) ++ t) ((0 : BitVec 1) ++ g) x y z 1).extractLsb' 23 2 = t := field_eq _ _ _ (by
    rw [wE_toNat]; simp only [append_toNat, BitVec.ofNat_eq_ofNat, BitVec.toNat_ofNat]; omega)
  have e2 : (wE 35 ((0 : BitVec 1) ++ t) ((0 : BitVec 1) ++ g) x y z 1).extractLsb' 20 2 = g := field_eq _ _ _ (by
    rw [wE_toNat]; simp only [append_toNat, BitVec.ofNat_eq_ofNat, BitVec.toNat_ofNat]; omega)
  rw [decodeWord_23 (wE_m ..), decMajor23, wE_f]
  change (fun w : Word => chkE w .lq [] (.cgathL (w.extractLsb' 23 2) (w.extractLsb' 20 2) (w.extractLsb' 15 5) (w.extractLsb' 10 5) (w.extractLsb' 5 5))) (wE 35 ((0 : BitVec 1) ++ t) ((0 : BitVec 1) ++ g) x y z 1) = _
  simp only [wE_x, wE_y, wE_z, wE_t, wE_g, e1, e2, chkE, okZeros, token_lq]

theorem cscatP (t : BitVec 2) (g : BitVec 1) (x : BitVec 5) (y : BitVec 5) (z : BitVec 5) : Statement (.cscatP t g x y z) := by
  refine of_word (w := wE 35 ((0 : BitVec 1) ++ t) ((0 : BitVec 2) ++ g) x y z 2) rfl (by rw [wE_m]; decide) (fun hw => ?_) rfl
  have := t.isLt; have := g.isLt; have := x.isLt; have := y.isLt; have := z.isLt
  have e1 : (wE 35 ((0 : BitVec 1) ++ t) ((0 : BitVec 2) ++ g) x y z 2).extractLsb' 23 2 = t := field_eq _ _ _ (by
    rw [wE_toNat]; simp only [append_toNat, BitVec.ofNat_eq_ofNat, BitVec.toNat_ofNat]; omega)
  have e2 : (wE 35 ((0 : BitVec 1) ++ t) ((0 : BitVec 2) ++ g) x y z 2).extractLsb' 20 1 = g := field_eq _ _ _ (by
    rw [wE_toNat]; simp only [append_toNat, BitVec.ofNat_eq_ofNat, BitVec.toNat_ofNat]; omega)
  rw [decodeWord_23 (wE_m ..), decMajor23, wE_f]
  change (fun w : Word => chkE w .sq [] (.cscatP (w.extractLsb' 23 2) (w.extractLsb' 20 1) (w.extractLsb' 15 5) (w.extractLsb' 10 5) (w.extractLsb' 5 5))) (wE 35 ((0 : BitVec 1) ++ t) ((0 : BitVec 2) ++ g) x y z 2) = _
  simp only [wE_x, wE_y, wE_z, wE_t, wE_g, e1, e2, chkE, okZeros, token_sq]

theorem cscatL (t : BitVec 2) (g : BitVec 1) (x : BitVec 5) (y : BitVec 5) (z : BitVec 5) : Statement (.cscatL t g x y z) := by
  refine of_word (w := wE 35 ((0 : BitVec 1) ++ t) ((0 : BitVec 2) ++ g) x y z 3) rfl (by rw [wE_m]; decide) (fun hw => ?_) rfl
  have := t.isLt; have := g.isLt; have := x.isLt; have := y.isLt; have := z.isLt
  have e1 : (wE 35 ((0 : BitVec 1) ++ t) ((0 : BitVec 2) ++ g) x y z 3).extractLsb' 23 2 = t := field_eq _ _ _ (by
    rw [wE_toNat]; simp only [append_toNat, BitVec.ofNat_eq_ofNat, BitVec.toNat_ofNat]; omega)
  have e2 : (wE 35 ((0 : BitVec 1) ++ t) ((0 : BitVec 2) ++ g) x y z 3).extractLsb' 20 1 = g := field_eq _ _ _ (by
    rw [wE_toNat]; simp only [append_toNat, BitVec.ofNat_eq_ofNat, BitVec.toNat_ofNat]; omega)
  rw [decodeWord_23 (wE_m ..), decMajor23, wE_f]
  change (fun w : Word => chkE w .sq [] (.cscatL (w.extractLsb' 23 2) (w.extractLsb' 20 1) (w.extractLsb' 15 5) (w.extractLsb' 10 5) (w.extractLsb' 5 5))) (wE 35 ((0 : BitVec 1) ++ t) ((0 : BitVec 2) ++ g) x y z 3) = _
  simp only [wE_x, wE_y, wE_z, wE_t, wE_g, e1, e2, chkE, okZeros, token_sq]

theorem pgin (t : BitVec 2) (g : BitVec 2) (x : BitVec 5) (y : BitVec 5) : Statement (.pgin t g x y) := by
  refine of_word (w := wE 36 ((0 : BitVec 1) ++ t) ((0 : BitVec 1) ++ g) x y 0 0) rfl (by rw [wE_m]; decide) (fun hw => ?_) rfl
  have := t.isLt; have := g.isLt; have := x.isLt; have := y.isLt
  have e2 : (wE 36 ((0 : BitVec 1) ++ t) ((0 : BitVec 1) ++ g) x y 0 0).extractLsb' 23 2 = t := field_eq _ _ _ (by
    rw [wE_toNat]; simp only [append_toNat, BitVec.ofNat_eq_ofNat, BitVec.toNat_ofNat]; omega)
  have e3 : (wE 36 ((0 : BitVec 1) ++ t) ((0 : BitVec 1) ++ g) x y 0 0).extractLsb' 20 2 = g := field_eq _ _ _ (by
    rw [wE_toNat]; simp only [append_toNat, BitVec.ofNat_eq_ofNat, BitVec.toNat_ofNat]; omega)
  rw [decodeWord_24 (wE_m ..), decMajor24, wE_f]
  change (fun w : Word => chkE w .lq [zf w 5 5 false] (.pgin (w.extractLsb' 23 2) (w.extractLsb' 20 2) (w.extractLsb' 15 5) (w.extractLsb' 10 5))) (wE 36 ((0 : BitVec 1) ++ t) ((0 : BitVec 1) ++ g) x y 0 0) = _
  simp only [wE_z, wE_x, wE_y, wE_t, wE_g, e2, e3, chkE, okZeros, zf, token_lq]
  rfl

theorem pgout (t : BitVec 2) (g : BitVec 1) (x : BitVec 5) (y : BitVec 5) : Statement (.pgout t g x y) := by
  refine of_word (w := wE 36 ((0 : BitVec 1) ++ t) ((0 : BitVec 2) ++ g) x y 0 1) rfl (by rw [wE_m]; decide) (fun hw => ?_) rfl
  have := t.isLt; have := g.isLt; have := x.isLt; have := y.isLt
  have e2 : (wE 36 ((0 : BitVec 1) ++ t) ((0 : BitVec 2) ++ g) x y 0 1).extractLsb' 23 2 = t := field_eq _ _ _ (by
    rw [wE_toNat]; simp only [append_toNat, BitVec.ofNat_eq_ofNat, BitVec.toNat_ofNat]; omega)
  have e3 : (wE 36 ((0 : BitVec 1) ++ t) ((0 : BitVec 2) ++ g) x y 0 1).extractLsb' 20 1 = g := field_eq _ _ _ (by
    rw [wE_toNat]; simp only [append_toNat, BitVec.ofNat_eq_ofNat, BitVec.toNat_ofNat]; omega)
  rw [decodeWord_24 (wE_m ..), decMajor24, wE_f]
  change (fun w : Word => chkE w .sq [zf w 5 5 false] (.pgout (w.extractLsb' 23 2) (w.extractLsb' 20 1) (w.extractLsb' 15 5) (w.extractLsb' 10 5))) (wE 36 ((0 : BitVec 1) ++ t) ((0 : BitVec 2) ++ g) x y 0 1) = _
  simp only [wE_z, wE_x, wE_y, wE_t, wE_g, e2, e3, chkE, okZeros, zf, token_sq]
  rfl

theorem wrsig (t : BitVec 2) (g : BitVec 1) (x : BitVec 5) (y : BitVec 5) (z : BitVec 5) : Statement (.wrsig t g x y z) := by
  refine of_word (w := wE 37 ((0 : BitVec 1) ++ t) ((0 : BitVec 2) ++ g) x y z 0) rfl (by rw [wE_m]; decide) (fun hw => ?_) rfl
  have := t.isLt; have := g.isLt; have := x.isLt; have := y.isLt; have := z.isLt
  have e1 : (wE 37 ((0 : BitVec 1) ++ t) ((0 : BitVec 2) ++ g) x y z 0).extractLsb' 23 2 = t := field_eq _ _ _ (by
    rw [wE_toNat]; simp only [append_toNat, BitVec.ofNat_eq_ofNat, BitVec.toNat_ofNat]; omega)
  have e2 : (wE 37 ((0 : BitVec 1) ++ t) ((0 : BitVec 2) ++ g) x y z 0).extractLsb' 20 1 = g := field_eq _ _ _ (by
    rw [wE_toNat]; simp only [append_toNat, BitVec.ofNat_eq_ofNat, BitVec.toNat_ofNat]; omega)
  rw [decodeWord_25 (wE_m ..), decMajor25, wE_f]
  change (fun w : Word => chkE w .sq [] (.wrsig (w.extractLsb' 23 2) (w.extractLsb' 20 1) (w.extractLsb' 15 5) (w.extractLsb' 10 5) (w.extractLsb' 5 5))) (wE 37 ((0 : BitVec 1) ++ t) ((0 : BitVec 2) ++ g) x y z 0) = _
  simp only [wE_x, wE_y, wE_z, wE_t, wE_g, e1, e2, chkE, okZeros, token_sq]

theorem wrsigAdd (t : BitVec 2) (g : BitVec 1) (x : BitVec 5) (y : BitVec 5) (z : BitVec 5) : Statement (.wrsigAdd t g x y z) := by
  refine of_word (w := wE 37 ((0 : BitVec 1) ++ t) ((0 : BitVec 2) ++ g) x y z 1) rfl (by rw [wE_m]; decide) (fun hw => ?_) rfl
  have := t.isLt; have := g.isLt; have := x.isLt; have := y.isLt; have := z.isLt
  have e1 : (wE 37 ((0 : BitVec 1) ++ t) ((0 : BitVec 2) ++ g) x y z 1).extractLsb' 23 2 = t := field_eq _ _ _ (by
    rw [wE_toNat]; simp only [append_toNat, BitVec.ofNat_eq_ofNat, BitVec.toNat_ofNat]; omega)
  have e2 : (wE 37 ((0 : BitVec 1) ++ t) ((0 : BitVec 2) ++ g) x y z 1).extractLsb' 20 1 = g := field_eq _ _ _ (by
    rw [wE_toNat]; simp only [append_toNat, BitVec.ofNat_eq_ofNat, BitVec.toNat_ofNat]; omega)
  rw [decodeWord_25 (wE_m ..), decMajor25, wE_f]
  change (fun w : Word => chkE w .sq [] (.wrsigAdd (w.extractLsb' 23 2) (w.extractLsb' 20 1) (w.extractLsb' 15 5) (w.extractLsb' 10 5) (w.extractLsb' 5 5))) (wE 37 ((0 : BitVec 1) ++ t) ((0 : BitVec 2) ++ g) x y z 1) = _
  simp only [wE_x, wE_y, wE_z, wE_t, wE_g, e1, e2, chkE, okZeros, token_sq]

theorem lkopFill (t : BitVec 2) (g : BitVec 2) (x : BitVec 5) (y : BitVec 5) (z : BitVec 5) : Statement (.lkopFill t g x y z) := by
  refine of_word (w := wE 39 ((0 : BitVec 1) ++ t) ((0 : BitVec 1) ++ g) x y z 0) rfl (by rw [wE_m]; decide) (fun hw => ?_) rfl
  have := t.isLt; have := g.isLt; have := x.isLt; have := y.isLt; have := z.isLt
  have e1 : (wE 39 ((0 : BitVec 1) ++ t) ((0 : BitVec 1) ++ g) x y z 0).extractLsb' 23 2 = t := field_eq _ _ _ (by
    rw [wE_toNat]; simp only [append_toNat, BitVec.ofNat_eq_ofNat, BitVec.toNat_ofNat]; omega)
  have e2 : (wE 39 ((0 : BitVec 1) ++ t) ((0 : BitVec 1) ++ g) x y z 0).extractLsb' 20 2 = g := field_eq _ _ _ (by
    rw [wE_toNat]; simp only [append_toNat, BitVec.ofNat_eq_ofNat, BitVec.toNat_ofNat]; omega)
  rw [decodeWord_27 (wE_m ..), decMajor27, wE_f]
  change (fun w : Word => chkE w .lq [] (.lkopFill (w.extractLsb' 23 2) (w.extractLsb' 20 2) (w.extractLsb' 15 5) (w.extractLsb' 10 5) (w.extractLsb' 5 5))) (wE 39 ((0 : BitVec 1) ++ t) ((0 : BitVec 1) ++ g) x y z 0) = _
  simp only [wE_x, wE_y, wE_z, wE_t, wE_g, e1, e2, chkE, okZeros, token_lq]

theorem lkopAdd (t : BitVec 2) (g : BitVec 2) (x : BitVec 5) (y : BitVec 5) (z : BitVec 5) : Statement (.lkopAdd t g x y z) := by
  refine of_word (w := wE 39 ((0 : BitVec 1) ++ t) ((0 : BitVec 1) ++ g) x y z 1) rfl (by rw [wE_m]; decide) (fun hw => ?_) rfl
  have := t.isLt; have := g.isLt; have := x.isLt; have := y.isLt; have := z.isLt
  have e1 : (wE 39 ((0 : BitVec 1) ++ t) ((0 : BitVec 1) ++ g) x y z 1).extractLsb' 23 2 = t := field_eq _ _ _ (by
    rw [wE_toNat]; simp only [append_toNat, BitVec.ofNat_eq_ofNat, BitVec.toNat_ofNat]; omega)
  have e2 : (wE 39 ((0 : BitVec 1) ++ t) ((0 : BitVec 1) ++ g) x y z 1).extractLsb' 20 2 = g := field_eq _ _ _ (by
    rw [wE_toNat]; simp only [append_toNat, BitVec.ofNat_eq_ofNat, BitVec.toNat_ofNat]; omega)
  rw [decodeWord_27 (wE_m ..), decMajor27, wE_f]
  change (fun w : Word => chkE w .lq [] (.lkopAdd (w.extractLsb' 23 2) (w.extractLsb' 20 2) (w.extractLsb' 15 5) (w.extractLsb' 10 5) (w.extractLsb' 5 5))) (wE 39 ((0 : BitVec 1) ++ t) ((0 : BitVec 1) ++ g) x y z 1) = _
  simp only [wE_x, wE_y, wE_z, wE_t, wE_g, e1, e2, chkE, okZeros, token_lq]

theorem lkopSadd (t : BitVec 2) (g : BitVec 2) (x : BitVec 5) (y : BitVec 5) (z : BitVec 5) : Statement (.lkopSadd t g x y z) := by
  refine of_word (w := wE 39 ((0 : BitVec 1) ++ t) ((0 : BitVec 1) ++ g) x y z 2) rfl (by rw [wE_m]; decide) (fun hw => ?_) rfl
  have := t.isLt; have := g.isLt; have := x.isLt; have := y.isLt; have := z.isLt
  have e1 : (wE 39 ((0 : BitVec 1) ++ t) ((0 : BitVec 1) ++ g) x y z 2).extractLsb' 23 2 = t := field_eq _ _ _ (by
    rw [wE_toNat]; simp only [append_toNat, BitVec.ofNat_eq_ofNat, BitVec.toNat_ofNat]; omega)
  have e2 : (wE 39 ((0 : BitVec 1) ++ t) ((0 : BitVec 1) ++ g) x y z 2).extractLsb' 20 2 = g := field_eq _ _ _ (by
    rw [wE_toNat]; simp only [append_toNat, BitVec.ofNat_eq_ofNat, BitVec.toNat_ofNat]; omega)
  rw [decodeWord_27 (wE_m ..), decMajor27, wE_f]
  change (fun w : Word => chkE w .lq [] (.lkopSadd (w.extractLsb' 23 2) (w.extractLsb' 20 2) (w.extractLsb' 15 5) (w.extractLsb' 10 5) (w.extractLsb' 5 5))) (wE 39 ((0 : BitVec 1) ++ t) ((0 : BitVec 1) ++ g) x y z 2) = _
  simp only [wE_x, wE_y, wE_z, wE_t, wE_g, e1, e2, chkE, okZeros, token_lq]

theorem lkopMin (t : BitVec 2) (g : BitVec 2) (x : BitVec 5) (y : BitVec 5) (z : BitVec 5) : Statement (.lkopMin t g x y z) := by
  refine of_word (w := wE 39 ((0 : BitVec 1) ++ t) ((0 : BitVec 1) ++ g) x y z 3) rfl (by rw [wE_m]; decide) (fun hw => ?_) rfl
  have := t.isLt; have := g.isLt; have := x.isLt; have := y.isLt; have := z.isLt
  have e1 : (wE 39 ((0 : BitVec 1) ++ t) ((0 : BitVec 1) ++ g) x y z 3).extractLsb' 23 2 = t := field_eq _ _ _ (by
    rw [wE_toNat]; simp only [append_toNat, BitVec.ofNat_eq_ofNat, BitVec.toNat_ofNat]; omega)
  have e2 : (wE 39 ((0 : BitVec 1) ++ t) ((0 : BitVec 1) ++ g) x y z 3).extractLsb' 20 2 = g := field_eq _ _ _ (by
    rw [wE_toNat]; simp only [append_toNat, BitVec.ofNat_eq_ofNat, BitVec.toNat_ofNat]; omega)
  rw [decodeWord_27 (wE_m ..), decMajor27, wE_f]
  change (fun w : Word => chkE w .lq [] (.lkopMin (w.extractLsb' 23 2) (w.extractLsb' 20 2) (w.extractLsb' 15 5) (w.extractLsb' 10 5) (w.extractLsb' 5 5))) (wE 39 ((0 : BitVec 1) ++ t) ((0 : BitVec 1) ++ g) x y z 3) = _
  simp only [wE_x, wE_y, wE_z, wE_t, wE_g, e1, e2, chkE, okZeros, token_lq]

theorem lkopMax (t : BitVec 2) (g : BitVec 2) (x : BitVec 5) (y : BitVec 5) (z : BitVec 5) : Statement (.lkopMax t g x y z) := by
  refine of_word (w := wE 39 ((0 : BitVec 1) ++ t) ((0 : BitVec 1) ++ g) x y z 4) rfl (by rw [wE_m]; decide) (fun hw => ?_) rfl
  have := t.isLt; have := g.isLt; have := x.isLt; have := y.isLt; have := z.isLt
  have e1 : (wE 39 ((0 : BitVec 1) ++ t) ((0 : BitVec 1) ++ g) x y z 4).extractLsb' 23 2 = t := field_eq _ _ _ (by
    rw [wE_toNat]; simp only [append_toNat, BitVec.ofNat_eq_ofNat, BitVec.toNat_ofNat]; omega)
  have e2 : (wE 39 ((0 : BitVec 1) ++ t) ((0 : BitVec 1) ++ g) x y z 4).extractLsb' 20 2 = g := field_eq _ _ _ (by
    rw [wE_toNat]; simp only [append_toNat, BitVec.ofNat_eq_ofNat, BitVec.toNat_ofNat]; omega)
  rw [decodeWord_27 (wE_m ..), decMajor27, wE_f]
  change (fun w : Word => chkE w .lq [] (.lkopMax (w.extractLsb' 23 2) (w.extractLsb' 20 2) (w.extractLsb' 15 5) (w.extractLsb' 10 5) (w.extractLsb' 5 5))) (wE 39 ((0 : BitVec 1) ++ t) ((0 : BitVec 1) ++ g) x y z 4) = _
  simp only [wE_x, wE_y, wE_z, wE_t, wE_g, e1, e2, chkE, okZeros, token_lq]

theorem lkopAnd (t : BitVec 2) (g : BitVec 2) (x : BitVec 5) (y : BitVec 5) (z : BitVec 5) : Statement (.lkopAnd t g x y z) := by
  refine of_word (w := wE 39 ((0 : BitVec 1) ++ t) ((0 : BitVec 1) ++ g) x y z 5) rfl (by rw [wE_m]; decide) (fun hw => ?_) rfl
  have := t.isLt; have := g.isLt; have := x.isLt; have := y.isLt; have := z.isLt
  have e1 : (wE 39 ((0 : BitVec 1) ++ t) ((0 : BitVec 1) ++ g) x y z 5).extractLsb' 23 2 = t := field_eq _ _ _ (by
    rw [wE_toNat]; simp only [append_toNat, BitVec.ofNat_eq_ofNat, BitVec.toNat_ofNat]; omega)
  have e2 : (wE 39 ((0 : BitVec 1) ++ t) ((0 : BitVec 1) ++ g) x y z 5).extractLsb' 20 2 = g := field_eq _ _ _ (by
    rw [wE_toNat]; simp only [append_toNat, BitVec.ofNat_eq_ofNat, BitVec.toNat_ofNat]; omega)
  rw [decodeWord_27 (wE_m ..), decMajor27, wE_f]
  change (fun w : Word => chkE w .lq [] (.lkopAnd (w.extractLsb' 23 2) (w.extractLsb' 20 2) (w.extractLsb' 15 5) (w.extractLsb' 10 5) (w.extractLsb' 5 5))) (wE 39 ((0 : BitVec 1) ++ t) ((0 : BitVec 1) ++ g) x y z 5) = _
  simp only [wE_x, wE_y, wE_z, wE_t, wE_g, e1, e2, chkE, okZeros, token_lq]

theorem lkopOr (t : BitVec 2) (g : BitVec 2) (x : BitVec 5) (y : BitVec 5) (z : BitVec 5) : Statement (.lkopOr t g x y z) := by
  refine of_word (w := wE 39 ((0 : BitVec 1) ++ t) ((0 : BitVec 1) ++ g) x y z 6) rfl (by rw [wE_m]; decide) (fun hw => ?_) rfl
  have := t.isLt; have := g.isLt; have := x.isLt; have := y.isLt; have := z.isLt
  have e1 : (wE 39 ((0 : BitVec 1) ++ t) ((0 : BitVec 1) ++ g) x y z 6).extractLsb' 23 2 = t := field_eq _ _ _ (by
    rw [wE_toNat]; simp only [append_toNat, BitVec.ofNat_eq_ofNat, BitVec.toNat_ofNat]; omega)
  have e2 : (wE 39 ((0 : BitVec 1) ++ t) ((0 : BitVec 1) ++ g) x y z 6).extractLsb' 20 2 = g := field_eq _ _ _ (by
    rw [wE_toNat]; simp only [append_toNat, BitVec.ofNat_eq_ofNat, BitVec.toNat_ofNat]; omega)
  rw [decodeWord_27 (wE_m ..), decMajor27, wE_f]
  change (fun w : Word => chkE w .lq [] (.lkopOr (w.extractLsb' 23 2) (w.extractLsb' 20 2) (w.extractLsb' 15 5) (w.extractLsb' 10 5) (w.extractLsb' 5 5))) (wE 39 ((0 : BitVec 1) ++ t) ((0 : BitVec 1) ++ g) x y z 6) = _
  simp only [wE_x, wE_y, wE_z, wE_t, wE_g, e1, e2, chkE, okZeros, token_lq]

theorem lkopXor (t : BitVec 2) (g : BitVec 2) (x : BitVec 5) (y : BitVec 5) (z : BitVec 5) : Statement (.lkopXor t g x y z) := by
  refine of_word (w := wE 39 ((0 : BitVec 1) ++ t) ((0 : BitVec 1) ++ g) x y z 7) rfl (by rw [wE_m]; decide) (fun hw => ?_) rfl
  have := t.isLt; have := g.isLt; have := x.isLt; have := y.isLt; have := z.isLt
  have e1 : (wE 39 ((0 : BitVec 1) ++ t) ((0 : BitVec 1) ++ g) x y z 7).extractLsb' 23 2 = t := field_eq _ _ _ (by
    rw [wE_toNat]; simp only [append_toNat, BitVec.ofNat_eq_ofNat, BitVec.toNat_ofNat]; omega)
  have e2 : (wE 39 ((0 : BitVec 1) ++ t) ((0 : BitVec 1) ++ g) x y z 7).extractLsb' 20 2 = g := field_eq _ _ _ (by
    rw [wE_toNat]; simp only [append_toNat, BitVec.ofNat_eq_ofNat, BitVec.toNat_ofNat]; omega)
  rw [decodeWord_27 (wE_m ..), decMajor27, wE_f]
  change (fun w : Word => chkE w .lq [] (.lkopXor (w.extractLsb' 23 2) (w.extractLsb' 20 2) (w.extractLsb' 15 5) (w.extractLsb' 10 5) (w.extractLsb' 5 5))) (wE 39 ((0 : BitVec 1) ++ t) ((0 : BitVec 1) ++ g) x y z 7) = _
  simp only [wE_x, wE_y, wE_z, wE_t, wE_g, e1, e2, chkE, okZeros, token_lq]

theorem lkopFadd (t : BitVec 2) (g : BitVec 2) (x : BitVec 5) (y : BitVec 5) (z : BitVec 5) : Statement (.lkopFadd t g x y z) := by
  refine of_word (w := wE 39 ((0 : BitVec 1) ++ t) ((0 : BitVec 1) ++ g) x y z 8) rfl (by rw [wE_m]; decide) (fun hw => ?_) rfl
  have := t.isLt; have := g.isLt; have := x.isLt; have := y.isLt; have := z.isLt
  have e1 : (wE 39 ((0 : BitVec 1) ++ t) ((0 : BitVec 1) ++ g) x y z 8).extractLsb' 23 2 = t := field_eq _ _ _ (by
    rw [wE_toNat]; simp only [append_toNat, BitVec.ofNat_eq_ofNat, BitVec.toNat_ofNat]; omega)
  have e2 : (wE 39 ((0 : BitVec 1) ++ t) ((0 : BitVec 1) ++ g) x y z 8).extractLsb' 20 2 = g := field_eq _ _ _ (by
    rw [wE_toNat]; simp only [append_toNat, BitVec.ofNat_eq_ofNat, BitVec.toNat_ofNat]; omega)
  rw [decodeWord_27 (wE_m ..), decMajor27, wE_f]
  change (fun w : Word => chkE w .lq [] (.lkopFadd (w.extractLsb' 23 2) (w.extractLsb' 20 2) (w.extractLsb' 15 5) (w.extractLsb' 10 5) (w.extractLsb' 5 5))) (wE 39 ((0 : BitVec 1) ++ t) ((0 : BitVec 1) ++ g) x y z 8) = _
  simp only [wE_x, wE_y, wE_z, wE_t, wE_g, e1, e2, chkE, okZeros, token_lq]

theorem lkopFmax (t : BitVec 2) (g : BitVec 2) (x : BitVec 5) (y : BitVec 5) (z : BitVec 5) : Statement (.lkopFmax t g x y z) := by
  refine of_word (w := wE 39 ((0 : BitVec 1) ++ t) ((0 : BitVec 1) ++ g) x y z 9) rfl (by rw [wE_m]; decide) (fun hw => ?_) rfl
  have := t.isLt; have := g.isLt; have := x.isLt; have := y.isLt; have := z.isLt
  have e1 : (wE 39 ((0 : BitVec 1) ++ t) ((0 : BitVec 1) ++ g) x y z 9).extractLsb' 23 2 = t := field_eq _ _ _ (by
    rw [wE_toNat]; simp only [append_toNat, BitVec.ofNat_eq_ofNat, BitVec.toNat_ofNat]; omega)
  have e2 : (wE 39 ((0 : BitVec 1) ++ t) ((0 : BitVec 1) ++ g) x y z 9).extractLsb' 20 2 = g := field_eq _ _ _ (by
    rw [wE_toNat]; simp only [append_toNat, BitVec.ofNat_eq_ofNat, BitVec.toNat_ofNat]; omega)
  rw [decodeWord_27 (wE_m ..), decMajor27, wE_f]
  change (fun w : Word => chkE w .lq [] (.lkopFmax (w.extractLsb' 23 2) (w.extractLsb' 20 2) (w.extractLsb' 15 5) (w.extractLsb' 10 5) (w.extractLsb' 5 5))) (wE 39 ((0 : BitVec 1) ++ t) ((0 : BitVec 1) ++ g) x y z 9) = _
  simp only [wE_x, wE_y, wE_z, wE_t, wE_g, e1, e2, chkE, okZeros, token_lq]

theorem lkopFmul (t : BitVec 2) (g : BitVec 2) (x : BitVec 5) (y : BitVec 5) (z : BitVec 5) : Statement (.lkopFmul t g x y z) := by
  refine of_word (w := wE 39 ((0 : BitVec 1) ++ t) ((0 : BitVec 1) ++ g) x y z 10) rfl (by rw [wE_m]; decide) (fun hw => ?_) rfl
  have := t.isLt; have := g.isLt; have := x.isLt; have := y.isLt; have := z.isLt
  have e1 : (wE 39 ((0 : BitVec 1) ++ t) ((0 : BitVec 1) ++ g) x y z 10).extractLsb' 23 2 = t := field_eq _ _ _ (by
    rw [wE_toNat]; simp only [append_toNat, BitVec.ofNat_eq_ofNat, BitVec.toNat_ofNat]; omega)
  have e2 : (wE 39 ((0 : BitVec 1) ++ t) ((0 : BitVec 1) ++ g) x y z 10).extractLsb' 20 2 = g := field_eq _ _ _ (by
    rw [wE_toNat]; simp only [append_toNat, BitVec.ofNat_eq_ofNat, BitVec.toNat_ofNat]; omega)
  rw [decodeWord_27 (wE_m ..), decMajor27, wE_f]
  change (fun w : Word => chkE w .lq [] (.lkopFmul (w.extractLsb' 23 2) (w.extractLsb' 20 2) (w.extractLsb' 15 5) (w.extractLsb' 10 5) (w.extractLsb' 5 5))) (wE 39 ((0 : BitVec 1) ++ t) ((0 : BitVec 1) ++ g) x y z 10) = _
  simp only [wE_x, wE_y, wE_z, wE_t, wE_g, e1, e2, chkE, okZeros, token_lq]

theorem lkopRsum (t : BitVec 2) (g : BitVec 2) (x : BitVec 5) (y : BitVec 5) (z : BitVec 5) : Statement (.lkopRsum t g x y z) := by
  refine of_word (w := wE 39 ((0 : BitVec 1) ++ t) ((0 : BitVec 1) ++ g) x y z 11) rfl (by rw [wE_m]; decide) (fun hw => ?_) rfl
  have := t.isLt; have := g.isLt; have := x.isLt; have := y.isLt; have := z.isLt
  have e1 : (wE 39 ((0 : BitVec 1) ++ t) ((0 : BitVec 1) ++ g) x y z 11).extractLsb' 23 2 = t := field_eq _ _ _ (by
    rw [wE_toNat]; simp only [append_toNat, BitVec.ofNat_eq_ofNat, BitVec.toNat_ofNat]; omega)
  have e2 : (wE 39 ((0 : BitVec 1) ++ t) ((0 : BitVec 1) ++ g) x y z 11).extractLsb' 20 2 = g := field_eq _ _ _ (by
    rw [wE_toNat]; simp only [append_toNat, BitVec.ofNat_eq_ofNat, BitVec.toNat_ofNat]; omega)
  rw [decodeWord_27 (wE_m ..), decMajor27, wE_f]
  change (fun w : Word => chkE w .lq [] (.lkopRsum (w.extractLsb' 23 2) (w.extractLsb' 20 2) (w.extractLsb' 15 5) (w.extractLsb' 10 5) (w.extractLsb' 5 5))) (wE 39 ((0 : BitVec 1) ++ t) ((0 : BitVec 1) ++ g) x y z 11) = _
  simp only [wE_x, wE_y, wE_z, wE_t, wE_g, e1, e2, chkE, okZeros, token_lq]

theorem give (a : BitVec 3) : Statement (.give a) := by
  refine of_word (w := wRR 38 0 0 ((0 : BitVec 3) ++ a) 0 0) rfl (by rw [wRR_m]; decide) (fun hw => ?_) rfl
  have := a.isLt
  have e2 : (wRR 38 0 0 ((0 : BitVec 3) ++ a) 0 0).extractLsb' 17 9 = 0 := field_eq _ _ _ (by
    rw [wRR_toNat]; simp only [append_toNat, BitVec.ofNat_eq_ofNat, BitVec.toNat_ofNat]; omega)
  have e3 : (wRR 38 0 0 ((0 : BitVec 3) ++ a) 0 0).extractLsb' 14 3 = a := field_eq _ _ _ (by
    rw [wRR_toNat]; simp only [append_toNat, BitVec.ofNat_eq_ofNat, BitVec.toNat_ofNat]; omega)
  rw [decodeWord_26 (wRR_m ..), decMajor26, wRR_f]
  change (fun w : Word => chk [] [zf w 8 6 false, zf w 17 9 false] (.give (w.extractLsb' 14 3))) (wRR 38 0 0 ((0 : BitVec 3) ++ a) 0 0) = _
  simp only [wRR_b, e2, e3, chk, okSels, okZeros, zf]
  rfl

theorem take (a : BitVec 3) : Statement (.take a) := by
  refine of_word (w := wRR 38 0 0 ((0 : BitVec 3) ++ a) 0 1) rfl (by rw [wRR_m]; decide) (fun hw => ?_) rfl
  have := a.isLt
  have e2 : (wRR 38 0 0 ((0 : BitVec 3) ++ a) 0 1).extractLsb' 17 9 = 0 := field_eq _ _ _ (by
    rw [wRR_toNat]; simp only [append_toNat, BitVec.ofNat_eq_ofNat, BitVec.toNat_ofNat]; omega)
  have e3 : (wRR 38 0 0 ((0 : BitVec 3) ++ a) 0 1).extractLsb' 14 3 = a := field_eq _ _ _ (by
    rw [wRR_toNat]; simp only [append_toNat, BitVec.ofNat_eq_ofNat, BitVec.toNat_ofNat]; omega)
  rw [decodeWord_26 (wRR_m ..), decMajor26, wRR_f]
  change (fun w : Word => chk [] [zf w 8 6 false, zf w 17 9 false] (.take (w.extractLsb' 14 3))) (wRR 38 0 0 ((0 : BitVec 3) ++ a) 0 1) = _
  simp only [wRR_b, e2, e3, chk, okSels, okZeros, zf]
  rfl

theorem qdepth (d : BitVec 5) (n : BitVec 1) (a : BitVec 2) (b : BitVec 6) : Statement (.qdepth d n a b) := by
  refine of_word (w := wRR 38 d n ((0 : BitVec 4) ++ a) b 2) rfl (by rw [wRR_m]; decide) (fun hw => ?_) rfl
  replace hw : (selOk b) = true := hw
  simp only [selOk, decide_eq_true_eq] at hw
  have := d.isLt; have := n.isLt; have := a.isLt; have := b.isLt
  have e2 : (wRR 38 d n ((0 : BitVec 4) ++ a) b 2).extractLsb' 16 4 = 0 := field_eq _ _ _ (by
    rw [wRR_toNat]; simp only [append_toNat, BitVec.ofNat_eq_ofNat, BitVec.toNat_ofNat]; omega)
  have e5 : (wRR 38 d n ((0 : BitVec 4) ++ a) b 2).extractLsb' 14 2 = a := field_eq _ _ _ (by
    rw [wRR_toNat]; simp only [append_toNat, BitVec.ofNat_eq_ofNat, BitVec.toNat_ofNat]; omega)
  rw [decodeWord_26 (wRR_m ..), decMajor26, wRR_f]
  change (fun w : Word => chk [w.extractLsb' 8 6] [zf w 16 4 false] (.qdepth (w.extractLsb' 21 5) (w.extractLsb' 20 1) (w.extractLsb' 14 2) (w.extractLsb' 8 6))) (wRR 38 d n ((0 : BitVec 4) ++ a) b 2) = _
  simp only [wRR_b, wRR_d, wRR_n, e2, e5, chk, okSels, okZeros, zf, hw, if_true]
  rfl

theorem qseq (d : BitVec 5) (n : BitVec 1) (a : BitVec 2) (b : BitVec 1) : Statement (.qseq d n a b) := by
  refine of_word (w := wRR 38 d n ((0 : BitVec 4) ++ a) ((0 : BitVec 5) ++ b) 3) rfl (by rw [wRR_m]; decide) (fun hw => ?_) rfl
  have := d.isLt; have := n.isLt; have := a.isLt; have := b.isLt
  have e1 : (wRR 38 d n ((0 : BitVec 4) ++ a) ((0 : BitVec 5) ++ b) 3).extractLsb' 8 6 = ((0 : BitVec 5) ++ b) := field_eq _ _ _ (by
    rw [wRR_toNat]; simp only [append_toNat, BitVec.ofNat_eq_ofNat, BitVec.toNat_ofNat]; omega)
  have e2 : (wRR 38 d n ((0 : BitVec 4) ++ a) ((0 : BitVec 5) ++ b) 3).extractLsb' 16 4 = 0 := field_eq _ _ _ (by
    rw [wRR_toNat]; simp only [append_toNat, BitVec.ofNat_eq_ofNat, BitVec.toNat_ofNat]; omega)
  have e5 : (wRR 38 d n ((0 : BitVec 4) ++ a) ((0 : BitVec 5) ++ b) 3).extractLsb' 14 2 = a := field_eq _ _ _ (by
    rw [wRR_toNat]; simp only [append_toNat, BitVec.ofNat_eq_ofNat, BitVec.toNat_ofNat]; omega)
  have e6 : (wRR 38 d n ((0 : BitVec 4) ++ a) ((0 : BitVec 5) ++ b) 3).extractLsb' 8 1 = b := field_eq _ _ _ (by
    rw [wRR_toNat]; simp only [append_toNat, BitVec.ofNat_eq_ofNat, BitVec.toNat_ofNat]; omega)
  rw [decodeWord_26 (wRR_m ..), decMajor26, wRR_f]
  change (fun w : Word => chkQseq (w.extractLsb' 8 6) (chk [] [zf w 16 4 false] (.qseq (w.extractLsb' 21 5) (w.extractLsb' 20 1) (w.extractLsb' 14 2) (w.extractLsb' 8 1)))) (wRR 38 d n ((0 : BitVec 4) ++ a) ((0 : BitVec 5) ++ b) 3) = _
  have hb : ((0 : BitVec 5) ++ b).toNat < 2 := by exact (by decide : ∀ b : BitVec 1, ((0 : BitVec 5) ++ b).toNat < 2) b
  simp only [wRR_d, wRR_n, e1, e2, e5, e6, hb, chk, okSels, okZeros, zf, if_true, chkQseq]
  rfl

theorem vchain (t : BitVec 2) (g : BitVec 3) (x : BitVec 5) (y : BitVec 5) (z : BitVec 5) : Statement (.vchain t g x y z) := by
  refine of_word (w := wE 40 ((0 : BitVec 1) ++ t) g x y z 0) rfl (by rw [wE_m]; decide) (fun hw => ?_) rfl
  have := t.isLt; have := g.isLt; have := x.isLt; have := y.isLt; have := z.isLt
  have e1 : (wE 40 ((0 : BitVec 1) ++ t) g x y z 0).extractLsb' 23 2 = t := field_eq _ _ _ (by
    rw [wE_toNat]; simp only [append_toNat, BitVec.ofNat_eq_ofNat, BitVec.toNat_ofNat]; omega)
  rw [decodeWord_28 (wE_m ..), decMajor28, wE_f]
  change (fun w : Word => chkE w .vq [] (.vchain (w.extractLsb' 23 2) (w.extractLsb' 20 3) (w.extractLsb' 15 5) (w.extractLsb' 10 5) (w.extractLsb' 5 5))) (wE 40 ((0 : BitVec 1) ++ t) g x y z 0) = _
  simp only [wE_g, wE_x, wE_y, wE_z, wE_t, e1, chkE, okZeros, token_vq]

theorem vredSum (t : BitVec 2) (g : BitVec 3) (x : BitVec 5) (y : BitVec 5) (z : BitVec 5) : Statement (.vredSum t g x y z) := by
  refine of_word (w := wE 41 ((0 : BitVec 1) ++ t) g x y z 0) rfl (by rw [wE_m]; decide) (fun hw => ?_) rfl
  have := t.isLt; have := g.isLt; have := x.isLt; have := y.isLt; have := z.isLt
  have e1 : (wE 41 ((0 : BitVec 1) ++ t) g x y z 0).extractLsb' 23 2 = t := field_eq _ _ _ (by
    rw [wE_toNat]; simp only [append_toNat, BitVec.ofNat_eq_ofNat, BitVec.toNat_ofNat]; omega)
  rw [decodeWord_29 (wE_m ..), decMajor29, wE_f]
  change (fun w : Word => chkE w .vq [] (.vredSum (w.extractLsb' 23 2) (w.extractLsb' 20 3) (w.extractLsb' 15 5) (w.extractLsb' 10 5) (w.extractLsb' 5 5))) (wE 41 ((0 : BitVec 1) ++ t) g x y z 0) = _
  simp only [wE_g, wE_x, wE_y, wE_z, wE_t, e1, chkE, okZeros, token_vq]

theorem vredMax (t : BitVec 2) (g : BitVec 3) (x : BitVec 5) (y : BitVec 5) (z : BitVec 5) : Statement (.vredMax t g x y z) := by
  refine of_word (w := wE 41 ((0 : BitVec 1) ++ t) g x y z 1) rfl (by rw [wE_m]; decide) (fun hw => ?_) rfl
  have := t.isLt; have := g.isLt; have := x.isLt; have := y.isLt; have := z.isLt
  have e1 : (wE 41 ((0 : BitVec 1) ++ t) g x y z 1).extractLsb' 23 2 = t := field_eq _ _ _ (by
    rw [wE_toNat]; simp only [append_toNat, BitVec.ofNat_eq_ofNat, BitVec.toNat_ofNat]; omega)
  rw [decodeWord_29 (wE_m ..), decMajor29, wE_f]
  change (fun w : Word => chkE w .vq [] (.vredMax (w.extractLsb' 23 2) (w.extractLsb' 20 3) (w.extractLsb' 15 5) (w.extractLsb' 10 5) (w.extractLsb' 5 5))) (wE 41 ((0 : BitVec 1) ++ t) g x y z 1) = _
  simp only [wE_g, wE_x, wE_y, wE_z, wE_t, e1, chkE, okZeros, token_vq]

theorem vredMin (t : BitVec 2) (g : BitVec 3) (x : BitVec 5) (y : BitVec 5) (z : BitVec 5) : Statement (.vredMin t g x y z) := by
  refine of_word (w := wE 41 ((0 : BitVec 1) ++ t) g x y z 2) rfl (by rw [wE_m]; decide) (fun hw => ?_) rfl
  have := t.isLt; have := g.isLt; have := x.isLt; have := y.isLt; have := z.isLt
  have e1 : (wE 41 ((0 : BitVec 1) ++ t) g x y z 2).extractLsb' 23 2 = t := field_eq _ _ _ (by
    rw [wE_toNat]; simp only [append_toNat, BitVec.ofNat_eq_ofNat, BitVec.toNat_ofNat]; omega)
  rw [decodeWord_29 (wE_m ..), decMajor29, wE_f]
  change (fun w : Word => chkE w .vq [] (.vredMin (w.extractLsb' 23 2) (w.extractLsb' 20 3) (w.extractLsb' 15 5) (w.extractLsb' 10 5) (w.extractLsb' 5 5))) (wE 41 ((0 : BitVec 1) ++ t) g x y z 2) = _
  simp only [wE_g, wE_x, wE_y, wE_z, wE_t, e1, chkE, okZeros, token_vq]

theorem vredArgmax (t : BitVec 2) (g : BitVec 3) (x : BitVec 5) (y : BitVec 5) (z : BitVec 5) : Statement (.vredArgmax t g x y z) := by
  refine of_word (w := wE 41 ((0 : BitVec 1) ++ t) g x y z 3) rfl (by rw [wE_m]; decide) (fun hw => ?_) rfl
  have := t.isLt; have := g.isLt; have := x.isLt; have := y.isLt; have := z.isLt
  have e1 : (wE 41 ((0 : BitVec 1) ++ t) g x y z 3).extractLsb' 23 2 = t := field_eq _ _ _ (by
    rw [wE_toNat]; simp only [append_toNat, BitVec.ofNat_eq_ofNat, BitVec.toNat_ofNat]; omega)
  rw [decodeWord_29 (wE_m ..), decMajor29, wE_f]
  change (fun w : Word => chkE w .vq [] (.vredArgmax (w.extractLsb' 23 2) (w.extractLsb' 20 3) (w.extractLsb' 15 5) (w.extractLsb' 10 5) (w.extractLsb' 5 5))) (wE 41 ((0 : BitVec 1) ++ t) g x y z 3) = _
  simp only [wE_g, wE_x, wE_y, wE_z, wE_t, e1, chkE, okZeros, token_vq]

theorem vredArgmin (t : BitVec 2) (g : BitVec 3) (x : BitVec 5) (y : BitVec 5) (z : BitVec 5) : Statement (.vredArgmin t g x y z) := by
  refine of_word (w := wE 41 ((0 : BitVec 1) ++ t) g x y z 4) rfl (by rw [wE_m]; decide) (fun hw => ?_) rfl
  have := t.isLt; have := g.isLt; have := x.isLt; have := y.isLt; have := z.isLt
  have e1 : (wE 41 ((0 : BitVec 1) ++ t) g x y z 4).extractLsb' 23 2 = t := field_eq _ _ _ (by
    rw [wE_toNat]; simp only [append_toNat, BitVec.ofNat_eq_ofNat, BitVec.toNat_ofNat]; omega)
  rw [decodeWord_29 (wE_m ..), decMajor29, wE_f]
  change (fun w : Word => chkE w .vq [] (.vredArgmin (w.extractLsb' 23 2) (w.extractLsb' 20 3) (w.extractLsb' 15 5) (w.extractLsb' 10 5) (w.extractLsb' 5 5))) (wE 41 ((0 : BitVec 1) ++ t) g x y z 4) = _
  simp only [wE_g, wE_x, wE_y, wE_z, wE_t, e1, chkE, okZeros, token_vq]

theorem vredSumsq (t : BitVec 2) (g : BitVec 3) (x : BitVec 5) (y : BitVec 5) (z : BitVec 5) : Statement (.vredSumsq t g x y z) := by
  refine of_word (w := wE 41 ((0 : BitVec 1) ++ t) g x y z 5) rfl (by rw [wE_m]; decide) (fun hw => ?_) rfl
  have := t.isLt; have := g.isLt; have := x.isLt; have := y.isLt; have := z.isLt
  have e1 : (wE 41 ((0 : BitVec 1) ++ t) g x y z 5).extractLsb' 23 2 = t := field_eq _ _ _ (by
    rw [wE_toNat]; simp only [append_toNat, BitVec.ofNat_eq_ofNat, BitVec.toNat_ofNat]; omega)
  rw [decodeWord_29 (wE_m ..), decMajor29, wE_f]
  change (fun w : Word => chkE w .vq [] (.vredSumsq (w.extractLsb' 23 2) (w.extractLsb' 20 3) (w.extractLsb' 15 5) (w.extractLsb' 10 5) (w.extractLsb' 5 5))) (wE 41 ((0 : BitVec 1) ++ t) g x y z 5) = _
  simp only [wE_g, wE_x, wE_y, wE_z, wE_t, e1, chkE, okZeros, token_vq]

theorem vscanAdd (t : BitVec 2) (g : BitVec 3) (x : BitVec 5) (y : BitVec 5) (z : BitVec 5) : Statement (.vscanAdd t g x y z) := by
  refine of_word (w := wE 42 ((0 : BitVec 1) ++ t) g x y z 0) rfl (by rw [wE_m]; decide) (fun hw => ?_) rfl
  have := t.isLt; have := g.isLt; have := x.isLt; have := y.isLt; have := z.isLt
  have e1 : (wE 42 ((0 : BitVec 1) ++ t) g x y z 0).extractLsb' 23 2 = t := field_eq _ _ _ (by
    rw [wE_toNat]; simp only [append_toNat, BitVec.ofNat_eq_ofNat, BitVec.toNat_ofNat]; omega)
  rw [decodeWord_2a (wE_m ..), decMajor2a, wE_f]
  change (fun w : Word => chkE w .vq [] (.vscanAdd (w.extractLsb' 23 2) (w.extractLsb' 20 3) (w.extractLsb' 15 5) (w.extractLsb' 10 5) (w.extractLsb' 5 5))) (wE 42 ((0 : BitVec 1) ++ t) g x y z 0) = _
  simp only [wE_g, wE_x, wE_y, wE_z, wE_t, e1, chkE, okZeros, token_vq]

theorem vscanMax (t : BitVec 2) (g : BitVec 3) (x : BitVec 5) (y : BitVec 5) (z : BitVec 5) : Statement (.vscanMax t g x y z) := by
  refine of_word (w := wE 42 ((0 : BitVec 1) ++ t) g x y z 1) rfl (by rw [wE_m]; decide) (fun hw => ?_) rfl
  have := t.isLt; have := g.isLt; have := x.isLt; have := y.isLt; have := z.isLt
  have e1 : (wE 42 ((0 : BitVec 1) ++ t) g x y z 1).extractLsb' 23 2 = t := field_eq _ _ _ (by
    rw [wE_toNat]; simp only [append_toNat, BitVec.ofNat_eq_ofNat, BitVec.toNat_ofNat]; omega)
  rw [decodeWord_2a (wE_m ..), decMajor2a, wE_f]
  change (fun w : Word => chkE w .vq [] (.vscanMax (w.extractLsb' 23 2) (w.extractLsb' 20 3) (w.extractLsb' 15 5) (w.extractLsb' 10 5) (w.extractLsb' 5 5))) (wE 42 ((0 : BitVec 1) ++ t) g x y z 1) = _
  simp only [wE_g, wE_x, wE_y, wE_z, wE_t, e1, chkE, okZeros, token_vq]

theorem vgath (t : BitVec 2) (g : BitVec 3) (x : BitVec 5) (y : BitVec 5) (z : BitVec 5) : Statement (.vgath t g x y z) := by
  refine of_word (w := wE 43 ((0 : BitVec 1) ++ t) g x y z 0) rfl (by rw [wE_m]; decide) (fun hw => ?_) rfl
  have := t.isLt; have := g.isLt; have := x.isLt; have := y.isLt; have := z.isLt
  have e1 : (wE 43 ((0 : BitVec 1) ++ t) g x y z 0).extractLsb' 23 2 = t := field_eq _ _ _ (by
    rw [wE_toNat]; simp only [append_toNat, BitVec.ofNat_eq_ofNat, BitVec.toNat_ofNat]; omega)
  rw [decodeWord_2b (wE_m ..), decMajor2b, wE_f]
  change (fun w : Word => chkE w .vq [] (.vgath (w.extractLsb' 23 2) (w.extractLsb' 20 3) (w.extractLsb' 15 5) (w.extractLsb' 10 5) (w.extractLsb' 5 5))) (wE 43 ((0 : BitVec 1) ++ t) g x y z 0) = _
  simp only [wE_g, wE_x, wE_y, wE_z, wE_t, e1, chkE, okZeros, token_vq]

theorem vscatSet (t : BitVec 2) (g : BitVec 3) (x : BitVec 5) (y : BitVec 5) (z : BitVec 5) : Statement (.vscatSet t g x y z) := by
  refine of_word (w := wE 43 ((0 : BitVec 1) ++ t) g x y z 1) rfl (by rw [wE_m]; decide) (fun hw => ?_) rfl
  have := t.isLt; have := g.isLt; have := x.isLt; have := y.isLt; have := z.isLt
  have e1 : (wE 43 ((0 : BitVec 1) ++ t) g x y z 1).extractLsb' 23 2 = t := field_eq _ _ _ (by
    rw [wE_toNat]; simp only [append_toNat, BitVec.ofNat_eq_ofNat, BitVec.toNat_ofNat]; omega)
  rw [decodeWord_2b (wE_m ..), decMajor2b, wE_f]
  change (fun w : Word => chkE w .vq [] (.vscatSet (w.extractLsb' 23 2) (w.extractLsb' 20 3) (w.extractLsb' 15 5) (w.extractLsb' 10 5) (w.extractLsb' 5 5))) (wE 43 ((0 : BitVec 1) ++ t) g x y z 1) = _
  simp only [wE_g, wE_x, wE_y, wE_z, wE_t, e1, chkE, okZeros, token_vq]

theorem vscatAdd (t : BitVec 2) (g : BitVec 3) (x : BitVec 5) (y : BitVec 5) (z : BitVec 5) : Statement (.vscatAdd t g x y z) := by
  refine of_word (w := wE 43 ((0 : BitVec 1) ++ t) g x y z 2) rfl (by rw [wE_m]; decide) (fun hw => ?_) rfl
  have := t.isLt; have := g.isLt; have := x.isLt; have := y.isLt; have := z.isLt
  have e1 : (wE 43 ((0 : BitVec 1) ++ t) g x y z 2).extractLsb' 23 2 = t := field_eq _ _ _ (by
    rw [wE_toNat]; simp only [append_toNat, BitVec.ofNat_eq_ofNat, BitVec.toNat_ofNat]; omega)
  rw [decodeWord_2b (wE_m ..), decMajor2b, wE_f]
  change (fun w : Word => chkE w .vq [] (.vscatAdd (w.extractLsb' 23 2) (w.extractLsb' 20 3) (w.extractLsb' 15 5) (w.extractLsb' 10 5) (w.extractLsb' 5 5))) (wE 43 ((0 : BitVec 1) ++ t) g x y z 2) = _
  simp only [wE_g, wE_x, wE_y, wE_z, wE_t, e1, chkE, okZeros, token_vq]

theorem vscatMax (t : BitVec 2) (g : BitVec 3) (x : BitVec 5) (y : BitVec 5) (z : BitVec 5) : Statement (.vscatMax t g x y z) := by
  refine of_word (w := wE 43 ((0 : BitVec 1) ++ t) g x y z 3) rfl (by rw [wE_m]; decide) (fun hw => ?_) rfl
  have := t.isLt; have := g.isLt; have := x.isLt; have := y.isLt; have := z.isLt
  have e1 : (wE 43 ((0 : BitVec 1) ++ t) g x y z 3).extractLsb' 23 2 = t := field_eq _ _ _ (by
    rw [wE_toNat]; simp only [append_toNat, BitVec.ofNat_eq_ofNat, BitVec.toNat_ofNat]; omega)
  rw [decodeWord_2b (wE_m ..), decMajor2b, wE_f]
  change (fun w : Word => chkE w .vq [] (.vscatMax (w.extractLsb' 23 2) (w.extractLsb' 20 3) (w.extractLsb' 15 5) (w.extractLsb' 10 5) (w.extractLsb' 5 5))) (wE 43 ((0 : BitVec 1) ++ t) g x y z 3) = _
  simp only [wE_g, wE_x, wE_y, wE_z, wE_t, e1, chkE, okZeros, token_vq]

theorem vscatMul (t : BitVec 2) (g : BitVec 3) (x : BitVec 5) (y : BitVec 5) (z : BitVec 5) : Statement (.vscatMul t g x y z) := by
  refine of_word (w := wE 43 ((0 : BitVec 1) ++ t) g x y z 4) rfl (by rw [wE_m]; decide) (fun hw => ?_) rfl
  have := t.isLt; have := g.isLt; have := x.isLt; have := y.isLt; have := z.isLt
  have e1 : (wE 43 ((0 : BitVec 1) ++ t) g x y z 4).extractLsb' 23 2 = t := field_eq _ _ _ (by
    rw [wE_toNat]; simp only [append_toNat, BitVec.ofNat_eq_ofNat, BitVec.toNat_ofNat]; omega)
  rw [decodeWord_2b (wE_m ..), decMajor2b, wE_f]
  change (fun w : Word => chkE w .vq [] (.vscatMul (w.extractLsb' 23 2) (w.extractLsb' 20 3) (w.extractLsb' 15 5) (w.extractLsb' 10 5) (w.extractLsb' 5 5))) (wE 43 ((0 : BitVec 1) ++ t) g x y z 4) = _
  simp only [wE_g, wE_x, wE_y, wE_z, wE_t, e1, chkE, okZeros, token_vq]

theorem vdotS8 (t : BitVec 2) (g : BitVec 3) (x : BitVec 5) (y : BitVec 5) (z : BitVec 5) : Statement (.vdotS8 t g x y z) := by
  refine of_word (w := wE 44 ((0 : BitVec 1) ++ t) g x y z 0) rfl (by rw [wE_m]; decide) (fun hw => ?_) rfl
  have := t.isLt; have := g.isLt; have := x.isLt; have := y.isLt; have := z.isLt
  have e1 : (wE 44 ((0 : BitVec 1) ++ t) g x y z 0).extractLsb' 23 2 = t := field_eq _ _ _ (by
    rw [wE_toNat]; simp only [append_toNat, BitVec.ofNat_eq_ofNat, BitVec.toNat_ofNat]; omega)
  rw [decodeWord_2c (wE_m ..), decMajor2c, wE_f]
  change (fun w : Word => chkE w .vq [] (.vdotS8 (w.extractLsb' 23 2) (w.extractLsb' 20 3) (w.extractLsb' 15 5) (w.extractLsb' 10 5) (w.extractLsb' 5 5))) (wE 44 ((0 : BitVec 1) ++ t) g x y z 0) = _
  simp only [wE_g, wE_x, wE_y, wE_z, wE_t, e1, chkE, okZeros, token_vq]

theorem vdotQ4 (t : BitVec 2) (g : BitVec 3) (x : BitVec 5) (y : BitVec 5) (z : BitVec 5) : Statement (.vdotQ4 t g x y z) := by
  refine of_word (w := wE 44 ((0 : BitVec 1) ++ t) g x y z 1) rfl (by rw [wE_m]; decide) (fun hw => ?_) rfl
  have := t.isLt; have := g.isLt; have := x.isLt; have := y.isLt; have := z.isLt
  have e1 : (wE 44 ((0 : BitVec 1) ++ t) g x y z 1).extractLsb' 23 2 = t := field_eq _ _ _ (by
    rw [wE_toNat]; simp only [append_toNat, BitVec.ofNat_eq_ofNat, BitVec.toNat_ofNat]; omega)
  rw [decodeWord_2c (wE_m ..), decMajor2c, wE_f]
  change (fun w : Word => chkE w .vq [] (.vdotQ4 (w.extractLsb' 23 2) (w.extractLsb' 20 3) (w.extractLsb' 15 5) (w.extractLsb' 10 5) (w.extractLsb' 5 5))) (wE 44 ((0 : BitVec 1) ++ t) g x y z 1) = _
  simp only [wE_g, wE_x, wE_y, wE_z, wE_t, e1, chkE, okZeros, token_vq]

theorem vdotT5 (t : BitVec 2) (g : BitVec 3) (x : BitVec 5) (y : BitVec 5) (z : BitVec 5) : Statement (.vdotT5 t g x y z) := by
  refine of_word (w := wE 44 ((0 : BitVec 1) ++ t) g x y z 2) rfl (by rw [wE_m]; decide) (fun hw => ?_) rfl
  have := t.isLt; have := g.isLt; have := x.isLt; have := y.isLt; have := z.isLt
  have e1 : (wE 44 ((0 : BitVec 1) ++ t) g x y z 2).extractLsb' 23 2 = t := field_eq _ _ _ (by
    rw [wE_toNat]; simp only [append_toNat, BitVec.ofNat_eq_ofNat, BitVec.toNat_ofNat]; omega)
  rw [decodeWord_2c (wE_m ..), decMajor2c, wE_f]
  change (fun w : Word => chkE w .vq [] (.vdotT5 (w.extractLsb' 23 2) (w.extractLsb' 20 3) (w.extractLsb' 15 5) (w.extractLsb' 10 5) (w.extractLsb' 5 5))) (wE 44 ((0 : BitVec 1) ++ t) g x y z 2) = _
  simp only [wE_g, wE_x, wE_y, wE_z, wE_t, e1, chkE, okZeros, token_vq]

theorem bset (t : BitVec 2) (g : BitVec 3) (x : BitVec 5) (y : BitVec 5) : Statement (.bset t g x y) := by
  refine of_word (w := wE 45 ((0 : BitVec 1) ++ t) g x y 0 0) rfl (by rw [wE_m]; decide) (fun hw => ?_) rfl
  have := t.isLt; have := g.isLt; have := x.isLt; have := y.isLt
  have e2 : (wE 45 ((0 : BitVec 1) ++ t) g x y 0 0).extractLsb' 23 2 = t := field_eq _ _ _ (by
    rw [wE_toNat]; simp only [append_toNat, BitVec.ofNat_eq_ofNat, BitVec.toNat_ofNat]; omega)
  rw [decodeWord_2d (wE_m ..), decMajor2d, wE_f]
  change (fun w : Word => chkE w .vq [zf w 5 5 false] (.bset (w.extractLsb' 23 2) (w.extractLsb' 20 3) (w.extractLsb' 15 5) (w.extractLsb' 10 5))) (wE 45 ((0 : BitVec 1) ++ t) g x y 0 0) = _
  simp only [wE_z, wE_g, wE_x, wE_y, wE_t, e2, chkE, okZeros, zf, token_vq]
  rfl

theorem vperm (t : BitVec 2) (g : BitVec 3) (x : BitVec 5) (y : BitVec 5) (z : BitVec 5) : Statement (.vperm t g x y z) := by
  refine of_word (w := wE 45 ((0 : BitVec 1) ++ t) g x y z 1) rfl (by rw [wE_m]; decide) (fun hw => ?_) rfl
  have := t.isLt; have := g.isLt; have := x.isLt; have := y.isLt; have := z.isLt
  have e1 : (wE 45 ((0 : BitVec 1) ++ t) g x y z 1).extractLsb' 23 2 = t := field_eq _ _ _ (by
    rw [wE_toNat]; simp only [append_toNat, BitVec.ofNat_eq_ofNat, BitVec.toNat_ofNat]; omega)
  rw [decodeWord_2d (wE_m ..), decMajor2d, wE_f]
  change (fun w : Word => chkE w .vq [] (.vperm (w.extractLsb' 23 2) (w.extractLsb' 20 3) (w.extractLsb' 15 5) (w.extractLsb' 10 5) (w.extractLsb' 5 5))) (wE 45 ((0 : BitVec 1) ++ t) g x y z 1) = _
  simp only [wE_g, wE_x, wE_y, wE_z, wE_t, e1, chkE, okZeros, token_vq]

theorem vsearchTopk (t : BitVec 2) (g : BitVec 3) (x : BitVec 5) (y : BitVec 5) (z : BitVec 5) : Statement (.vsearchTopk t g x y z) := by
  refine of_word (w := wE 46 ((0 : BitVec 1) ++ t) g x y z 0) rfl (by rw [wE_m]; decide) (fun hw => ?_) rfl
  have := t.isLt; have := g.isLt; have := x.isLt; have := y.isLt; have := z.isLt
  have e1 : (wE 46 ((0 : BitVec 1) ++ t) g x y z 0).extractLsb' 23 2 = t := field_eq _ _ _ (by
    rw [wE_toNat]; simp only [append_toNat, BitVec.ofNat_eq_ofNat, BitVec.toNat_ofNat]; omega)
  rw [decodeWord_2e (wE_m ..), decMajor2e, wE_f]
  change (fun w : Word => chkE w .vq [] (.vsearchTopk (w.extractLsb' 23 2) (w.extractLsb' 20 3) (w.extractLsb' 15 5) (w.extractLsb' 10 5) (w.extractLsb' 5 5))) (wE 46 ((0 : BitVec 1) ++ t) g x y z 0) = _
  simp only [wE_g, wE_x, wE_y, wE_z, wE_t, e1, chkE, okZeros, token_vq]

theorem vsearchThr (t : BitVec 2) (g : BitVec 3) (x : BitVec 5) (y : BitVec 5) (z : BitVec 5) : Statement (.vsearchThr t g x y z) := by
  refine of_word (w := wE 46 ((0 : BitVec 1) ++ t) g x y z 1) rfl (by rw [wE_m]; decide) (fun hw => ?_) rfl
  have := t.isLt; have := g.isLt; have := x.isLt; have := y.isLt; have := z.isLt
  have e1 : (wE 46 ((0 : BitVec 1) ++ t) g x y z 1).extractLsb' 23 2 = t := field_eq _ _ _ (by
    rw [wE_toNat]; simp only [append_toNat, BitVec.ofNat_eq_ofNat, BitVec.toNat_ofNat]; omega)
  rw [decodeWord_2e (wE_m ..), decMajor2e, wE_f]
  change (fun w : Word => chkE w .vq [] (.vsearchThr (w.extractLsb' 23 2) (w.extractLsb' 20 3) (w.extractLsb' 15 5) (w.extractLsb' 10 5) (w.extractLsb' 5 5))) (wE 46 ((0 : BitVec 1) ++ t) g x y z 1) = _
  simp only [wE_g, wE_x, wE_y, wE_z, wE_t, e1, chkE, okZeros, token_vq]

theorem vfind (t : BitVec 2) (g : BitVec 3) (x : BitVec 5) (y : BitVec 5) (z : BitVec 5) : Statement (.vfind t g x y z) := by
  refine of_word (w := wE 47 ((0 : BitVec 1) ++ t) g x y z 0) rfl (by rw [wE_m]; decide) (fun hw => ?_) rfl
  have := t.isLt; have := g.isLt; have := x.isLt; have := y.isLt; have := z.isLt
  have e1 : (wE 47 ((0 : BitVec 1) ++ t) g x y z 0).extractLsb' 23 2 = t := field_eq _ _ _ (by
    rw [wE_toNat]; simp only [append_toNat, BitVec.ofNat_eq_ofNat, BitVec.toNat_ofNat]; omega)
  rw [decodeWord_2f (wE_m ..), decMajor2f, wE_f]
  change (fun w : Word => chkE w .vq [] (.vfind (w.extractLsb' 23 2) (w.extractLsb' 20 3) (w.extractLsb' 15 5) (w.extractLsb' 10 5) (w.extractLsb' 5 5))) (wE 47 ((0 : BitVec 1) ++ t) g x y z 0) = _
  simp only [wE_g, wE_x, wE_y, wE_z, wE_t, e1, chkE, okZeros, token_vq]

theorem vcount (t : BitVec 2) (g : BitVec 3) (x : BitVec 5) (y : BitVec 5) (z : BitVec 5) : Statement (.vcount t g x y z) := by
  refine of_word (w := wE 47 ((0 : BitVec 1) ++ t) g x y z 1) rfl (by rw [wE_m]; decide) (fun hw => ?_) rfl
  have := t.isLt; have := g.isLt; have := x.isLt; have := y.isLt; have := z.isLt
  have e1 : (wE 47 ((0 : BitVec 1) ++ t) g x y z 1).extractLsb' 23 2 = t := field_eq _ _ _ (by
    rw [wE_toNat]; simp only [append_toNat, BitVec.ofNat_eq_ofNat, BitVec.toNat_ofNat]; omega)
  rw [decodeWord_2f (wE_m ..), decMajor2f, wE_f]
  change (fun w : Word => chkE w .vq [] (.vcount (w.extractLsb' 23 2) (w.extractLsb' 20 3) (w.extractLsb' 15 5) (w.extractLsb' 10 5) (w.extractLsb' 5 5))) (wE 47 ((0 : BitVec 1) ++ t) g x y z 1) = _
  simp only [wE_g, wE_x, wE_y, wE_z, wE_t, e1, chkE, okZeros, token_vq]

theorem mlt (t : BitVec 2) (g : BitVec 2) (x : BitVec 5) : Statement (.mlt t g x) := by
  refine of_word (w := wE 48 ((0 : BitVec 1) ++ t) ((0 : BitVec 1) ++ g) x 0 0 0) rfl (by rw [wE_m]; decide) (fun hw => ?_) rfl
  have := t.isLt; have := g.isLt; have := x.isLt
  have e1 : (wE 48 ((0 : BitVec 1) ++ t) ((0 : BitVec 1) ++ g) x 0 0 0).extractLsb' 5 10 = 0 := field_eq _ _ _ (by
    rw [wE_toNat]; simp only [append_toNat, BitVec.ofNat_eq_ofNat, BitVec.toNat_ofNat]; omega)
  have e2 : (wE 48 ((0 : BitVec 1) ++ t) ((0 : BitVec 1) ++ g) x 0 0 0).extractLsb' 23 2 = t := field_eq _ _ _ (by
    rw [wE_toNat]; simp only [append_toNat, BitVec.ofNat_eq_ofNat, BitVec.toNat_ofNat]; omega)
  have e3 : (wE 48 ((0 : BitVec 1) ++ t) ((0 : BitVec 1) ++ g) x 0 0 0).extractLsb' 20 2 = g := field_eq _ _ _ (by
    rw [wE_toNat]; simp only [append_toNat, BitVec.ofNat_eq_ofNat, BitVec.toNat_ofNat]; omega)
  rw [decodeWord_30 (wE_m ..), decMajor30, wE_f]
  change (fun w : Word => chkE w .mq [zf w 5 10 false] (.mlt (w.extractLsb' 23 2) (w.extractLsb' 20 2) (w.extractLsb' 15 5))) (wE 48 ((0 : BitVec 1) ++ t) ((0 : BitVec 1) ++ g) x 0 0 0) = _
  simp only [wE_x, wE_t, wE_g, e1, e2, e3, chkE, okZeros, zf, token_mq]
  rfl

theorem mgo (t : BitVec 2) (g : BitVec 2) (x : BitVec 5) : Statement (.mgo t g x) := by
  refine of_word (w := wE 48 ((0 : BitVec 1) ++ t) ((0 : BitVec 1) ++ g) x 0 0 1) rfl (by rw [wE_m]; decide) (fun hw => ?_) rfl
  have := t.isLt; have := g.isLt; have := x.isLt
  have e1 : (wE 48 ((0 : BitVec 1) ++ t) ((0 : BitVec 1) ++ g) x 0 0 1).extractLsb' 5 10 = 0 := field_eq _ _ _ (by
    rw [wE_toNat]; simp only [append_toNat, BitVec.ofNat_eq_ofNat, BitVec.toNat_ofNat]; omega)
  have e2 : (wE 48 ((0 : BitVec 1) ++ t) ((0 : BitVec 1) ++ g) x 0 0 1).extractLsb' 23 2 = t := field_eq _ _ _ (by
    rw [wE_toNat]; simp only [append_toNat, BitVec.ofNat_eq_ofNat, BitVec.toNat_ofNat]; omega)
  have e3 : (wE 48 ((0 : BitVec 1) ++ t) ((0 : BitVec 1) ++ g) x 0 0 1).extractLsb' 20 2 = g := field_eq _ _ _ (by
    rw [wE_toNat]; simp only [append_toNat, BitVec.ofNat_eq_ofNat, BitVec.toNat_ofNat]; omega)
  rw [decodeWord_30 (wE_m ..), decMajor30, wE_f]
  change (fun w : Word => chkE w .mq [zf w 5 10 false] (.mgo (w.extractLsb' 23 2) (w.extractLsb' 20 2) (w.extractLsb' 15 5))) (wE 48 ((0 : BitVec 1) ++ t) ((0 : BitVec 1) ++ g) x 0 0 1) = _
  simp only [wE_x, wE_t, wE_g, e1, e2, e3, chkE, okZeros, zf, token_mq]
  rfl

theorem mldwDense (t : BitVec 2) (g : BitVec 2) (x : BitVec 5) (z : BitVec 5) : Statement (.mldwDense t g x z) := by
  refine of_word (w := wE 49 ((0 : BitVec 1) ++ t) ((0 : BitVec 1) ++ g) x 0 z 0) rfl (by rw [wE_m]; decide) (fun hw => ?_) rfl
  have := t.isLt; have := g.isLt; have := x.isLt; have := z.isLt
  have e2 : (wE 49 ((0 : BitVec 1) ++ t) ((0 : BitVec 1) ++ g) x 0 z 0).extractLsb' 23 2 = t := field_eq _ _ _ (by
    rw [wE_toNat]; simp only [append_toNat, BitVec.ofNat_eq_ofNat, BitVec.toNat_ofNat]; omega)
  have e3 : (wE 49 ((0 : BitVec 1) ++ t) ((0 : BitVec 1) ++ g) x 0 z 0).extractLsb' 20 2 = g := field_eq _ _ _ (by
    rw [wE_toNat]; simp only [append_toNat, BitVec.ofNat_eq_ofNat, BitVec.toNat_ofNat]; omega)
  rw [decodeWord_31 (wE_m ..), decMajor31, wE_f]
  change (fun w : Word => chkE w .mq [zf w 10 5 false] (.mldwDense (w.extractLsb' 23 2) (w.extractLsb' 20 2) (w.extractLsb' 15 5) (w.extractLsb' 5 5))) (wE 49 ((0 : BitVec 1) ++ t) ((0 : BitVec 1) ++ g) x 0 z 0) = _
  simp only [wE_y, wE_x, wE_z, wE_t, wE_g, e2, e3, chkE, okZeros, zf, token_mq]
  rfl

theorem mldwS24 (t : BitVec 2) (g : BitVec 2) (x : BitVec 5) (y : BitVec 5) (z : BitVec 5) : Statement (.mldwS24 t g x y z) := by
  refine of_word (w := wE 49 ((0 : BitVec 1) ++ t) ((0 : BitVec 1) ++ g) x y z 1) rfl (by rw [wE_m]; decide) (fun hw => ?_) rfl
  have := t.isLt; have := g.isLt; have := x.isLt; have := y.isLt; have := z.isLt
  have e1 : (wE 49 ((0 : BitVec 1) ++ t) ((0 : BitVec 1) ++ g) x y z 1).extractLsb' 23 2 = t := field_eq _ _ _ (by
    rw [wE_toNat]; simp only [append_toNat, BitVec.ofNat_eq_ofNat, BitVec.toNat_ofNat]; omega)
  have e2 : (wE 49 ((0 : BitVec 1) ++ t) ((0 : BitVec 1) ++ g) x y z 1).extractLsb' 20 2 = g := field_eq _ _ _ (by
    rw [wE_toNat]; simp only [append_toNat, BitVec.ofNat_eq_ofNat, BitVec.toNat_ofNat]; omega)
  rw [decodeWord_31 (wE_m ..), decMajor31, wE_f]
  change (fun w : Word => chkE w .mq [] (.mldwS24 (w.extractLsb' 23 2) (w.extractLsb' 20 2) (w.extractLsb' 15 5) (w.extractLsb' 10 5) (w.extractLsb' 5 5))) (wE 49 ((0 : BitVec 1) ++ t) ((0 : BitVec 1) ++ g) x y z 1) = _
  simp only [wE_x, wE_y, wE_z, wE_t, wE_g, e1, e2, chkE, okZeros, token_mq]

theorem mldwS14 (t : BitVec 2) (g : BitVec 2) (x : BitVec 5) (y : BitVec 5) (z : BitVec 5) : Statement (.mldwS14 t g x y z) := by
  refine of_word (w := wE 49 ((0 : BitVec 1) ++ t) ((0 : BitVec 1) ++ g) x y z 2) rfl (by rw [wE_m]; decide) (fun hw => ?_) rfl
  have := t.isLt; have := g.isLt; have := x.isLt; have := y.isLt; have := z.isLt
  have e1 : (wE 49 ((0 : BitVec 1) ++ t) ((0 : BitVec 1) ++ g) x y z 2).extractLsb' 23 2 = t := field_eq _ _ _ (by
    rw [wE_toNat]; simp only [append_toNat, BitVec.ofNat_eq_ofNat, BitVec.toNat_ofNat]; omega)
  have e2 : (wE 49 ((0 : BitVec 1) ++ t) ((0 : BitVec 1) ++ g) x y z 2).extractLsb' 20 2 = g := field_eq _ _ _ (by
    rw [wE_toNat]; simp only [append_toNat, BitVec.ofNat_eq_ofNat, BitVec.toNat_ofNat]; omega)
  rw [decodeWord_31 (wE_m ..), decMajor31, wE_f]
  change (fun w : Word => chkE w .mq [] (.mldwS14 (w.extractLsb' 23 2) (w.extractLsb' 20 2) (w.extractLsb' 15 5) (w.extractLsb' 10 5) (w.extractLsb' 5 5))) (wE 49 ((0 : BitVec 1) ++ t) ((0 : BitVec 1) ++ g) x y z 2) = _
  simp only [wE_x, wE_y, wE_z, wE_t, wE_g, e1, e2, chkE, okZeros, token_mq]

theorem mswap (t : BitVec 2) (g : BitVec 2) : Statement (.mswap t g) := by
  refine of_word (w := wE 49 ((0 : BitVec 1) ++ t) ((0 : BitVec 1) ++ g) 0 0 0 3) rfl (by rw [wE_m]; decide) (fun hw => ?_) rfl
  have := t.isLt; have := g.isLt
  have e1 : (wE 49 ((0 : BitVec 1) ++ t) ((0 : BitVec 1) ++ g) 0 0 0 3).extractLsb' 5 15 = 0 := field_eq _ _ _ (by
    rw [wE_toNat]; simp only [append_toNat, BitVec.ofNat_eq_ofNat, BitVec.toNat_ofNat]; omega)
  have e2 : (wE 49 ((0 : BitVec 1) ++ t) ((0 : BitVec 1) ++ g) 0 0 0 3).extractLsb' 23 2 = t := field_eq _ _ _ (by
    rw [wE_toNat]; simp only [append_toNat, BitVec.ofNat_eq_ofNat, BitVec.toNat_ofNat]; omega)
  have e3 : (wE 49 ((0 : BitVec 1) ++ t) ((0 : BitVec 1) ++ g) 0 0 0 3).extractLsb' 20 2 = g := field_eq _ _ _ (by
    rw [wE_toNat]; simp only [append_toNat, BitVec.ofNat_eq_ofNat, BitVec.toNat_ofNat]; omega)
  rw [decodeWord_31 (wE_m ..), decMajor31, wE_f]
  change (fun w : Word => chkE w .mq [zf w 5 15 false] (.mswap (w.extractLsb' 23 2) (w.extractLsb' 20 2))) (wE 49 ((0 : BitVec 1) ++ t) ((0 : BitVec 1) ++ g) 0 0 0 3) = _
  simp only [wE_t, wE_g, e1, e2, e3, chkE, okZeros, zf, token_mq]
  rfl

theorem mmask (t : BitVec 2) (g : BitVec 2) (x : BitVec 5) : Statement (.mmask t g x) := by
  refine of_word (w := wE 50 ((0 : BitVec 1) ++ t) ((0 : BitVec 1) ++ g) x 0 0 0) rfl (by rw [wE_m]; decide) (fun hw => ?_) rfl
  have := t.isLt; have := g.isLt; have := x.isLt
  have e1 : (wE 50 ((0 : BitVec 1) ++ t) ((0 : BitVec 1) ++ g) x 0 0 0).extractLsb' 5 10 = 0 := field_eq _ _ _ (by
    rw [wE_toNat]; simp only [append_toNat, BitVec.ofNat_eq_ofNat, BitVec.toNat_ofNat]; omega)
  have e2 : (wE 50 ((0 : BitVec 1) ++ t) ((0 : BitVec 1) ++ g) x 0 0 0).extractLsb' 23 2 = t := field_eq _ _ _ (by
    rw [wE_toNat]; simp only [append_toNat, BitVec.ofNat_eq_ofNat, BitVec.toNat_ofNat]; omega)
  have e3 : (wE 50 ((0 : BitVec 1) ++ t) ((0 : BitVec 1) ++ g) x 0 0 0).extractLsb' 20 2 = g := field_eq _ _ _ (by
    rw [wE_toNat]; simp only [append_toNat, BitVec.ofNat_eq_ofNat, BitVec.toNat_ofNat]; omega)
  rw [decodeWord_32 (wE_m ..), decMajor32, wE_f]
  change (fun w : Word => chkE w .mq [zf w 5 10 false] (.mmask (w.extractLsb' 23 2) (w.extractLsb' 20 2) (w.extractLsb' 15 5))) (wE 50 ((0 : BitVec 1) ++ t) ((0 : BitVec 1) ++ g) x 0 0 0) = _
  simp only [wE_x, wE_t, wE_g, e1, e2, e3, chkE, okZeros, zf, token_mq]
  rfl

theorem mzero (t : BitVec 2) (g : BitVec 2) (x : BitVec 5) : Statement (.mzero t g x) := by
  refine of_word (w := wE 50 ((0 : BitVec 1) ++ t) ((0 : BitVec 1) ++ g) x 0 0 1) rfl (by rw [wE_m]; decide) (fun hw => ?_) rfl
  have := t.isLt; have := g.isLt; have := x.isLt
  have e1 : (wE 50 ((0 : BitVec 1) ++ t) ((0 : BitVec 1) ++ g) x 0 0 1).extractLsb' 5 10 = 0 := field_eq _ _ _ (by
    rw [wE_toNat]; simp only [append_toNat, BitVec.ofNat_eq_ofNat, BitVec.toNat_ofNat]; omega)
  have e2 : (wE 50 ((0 : BitVec 1) ++ t) ((0 : BitVec 1) ++ g) x 0 0 1).extractLsb' 23 2 = t := field_eq _ _ _ (by
    rw [wE_toNat]; simp only [append_toNat, BitVec.ofNat_eq_ofNat, BitVec.toNat_ofNat]; omega)
  have e3 : (wE 50 ((0 : BitVec 1) ++ t) ((0 : BitVec 1) ++ g) x 0 0 1).extractLsb' 20 2 = g := field_eq _ _ _ (by
    rw [wE_toNat]; simp only [append_toNat, BitVec.ofNat_eq_ofNat, BitVec.toNat_ofNat]; omega)
  rw [decodeWord_32 (wE_m ..), decMajor32, wE_f]
  change (fun w : Word => chkE w .mq [zf w 5 10 false] (.mzero (w.extractLsb' 23 2) (w.extractLsb' 20 2) (w.extractLsb' 15 5))) (wE 50 ((0 : BitVec 1) ++ t) ((0 : BitVec 1) ++ g) x 0 0 1) = _
  simp only [wE_x, wE_t, wE_g, e1, e2, e3, chkE, okZeros, zf, token_mq]
  rfl

theorem mdrainP (t : BitVec 2) (g : BitVec 2) (x : BitVec 5) (y : BitVec 5) (z : BitVec 5) : Statement (.mdrainP t g x y z) := by
  refine of_word (w := wE 51 ((0 : BitVec 1) ++ t) ((0 : BitVec 1) ++ g) x y z 0) rfl (by rw [wE_m]; decide) (fun hw => ?_) rfl
  have := t.isLt; have := g.isLt; have := x.isLt; have := y.isLt; have := z.isLt
  have e1 : (wE 51 ((0 : BitVec 1) ++ t) ((0 : BitVec 1) ++ g) x y z 0).extractLsb' 23 2 = t := field_eq _ _ _ (by
    rw [wE_toNat]; simp only [append_toNat, BitVec.ofNat_eq_ofNat, BitVec.toNat_ofNat]; omega)
  have e2 : (wE 51 ((0 : BitVec 1) ++ t) ((0 : BitVec 1) ++ g) x y z 0).extractLsb' 20 2 = g := field_eq _ _ _ (by
    rw [wE_toNat]; simp only [append_toNat, BitVec.ofNat_eq_ofNat, BitVec.toNat_ofNat]; omega)
  rw [decodeWord_33 (wE_m ..), decMajor33, wE_f]
  change (fun w : Word => chkE w .mq [] (.mdrainP (w.extractLsb' 23 2) (w.extractLsb' 20 2) (w.extractLsb' 15 5) (w.extractLsb' 10 5) (w.extractLsb' 5 5))) (wE 51 ((0 : BitVec 1) ++ t) ((0 : BitVec 1) ++ g) x y z 0) = _
  simp only [wE_x, wE_y, wE_z, wE_t, wE_g, e1, e2, chkE, okZeros, token_mq]

theorem mdrainPort (t : BitVec 2) (g : BitVec 2) (x : BitVec 5) (y : BitVec 5) (z : BitVec 5) : Statement (.mdrainPort t g x y z) := by
  refine of_word (w := wE 51 ((0 : BitVec 1) ++ t) ((0 : BitVec 1) ++ g) x y z 1) rfl (by rw [wE_m]; decide) (fun hw => ?_) rfl
  have := t.isLt; have := g.isLt; have := x.isLt; have := y.isLt; have := z.isLt
  have e1 : (wE 51 ((0 : BitVec 1) ++ t) ((0 : BitVec 1) ++ g) x y z 1).extractLsb' 23 2 = t := field_eq _ _ _ (by
    rw [wE_toNat]; simp only [append_toNat, BitVec.ofNat_eq_ofNat, BitVec.toNat_ofNat]; omega)
  have e2 : (wE 51 ((0 : BitVec 1) ++ t) ((0 : BitVec 1) ++ g) x y z 1).extractLsb' 20 2 = g := field_eq _ _ _ (by
    rw [wE_toNat]; simp only [append_toNat, BitVec.ofNat_eq_ofNat, BitVec.toNat_ofNat]; omega)
  rw [decodeWord_33 (wE_m ..), decMajor33, wE_f]
  change (fun w : Word => chkE w .mq [] (.mdrainPort (w.extractLsb' 23 2) (w.extractLsb' 20 2) (w.extractLsb' 15 5) (w.extractLsb' 10 5) (w.extractLsb' 5 5))) (wE 51 ((0 : BitVec 1) ++ t) ((0 : BitVec 1) ++ g) x y z 1) = _
  simp only [wE_x, wE_y, wE_z, wE_t, wE_g, e1, e2, chkE, okZeros, token_mq]

theorem mdrainSel (t : BitVec 2) (g : BitVec 2) (x : BitVec 5) (y : BitVec 5) (z : BitVec 5) : Statement (.mdrainSel t g x y z) := by
  refine of_word (w := wE 51 ((0 : BitVec 1) ++ t) ((0 : BitVec 1) ++ g) x y z 2) rfl (by rw [wE_m]; decide) (fun hw => ?_) rfl
  have := t.isLt; have := g.isLt; have := x.isLt; have := y.isLt; have := z.isLt
  have e1 : (wE 51 ((0 : BitVec 1) ++ t) ((0 : BitVec 1) ++ g) x y z 2).extractLsb' 23 2 = t := field_eq _ _ _ (by
    rw [wE_toNat]; simp only [append_toNat, BitVec.ofNat_eq_ofNat, BitVec.toNat_ofNat]; omega)
  have e2 : (wE 51 ((0 : BitVec 1) ++ t) ((0 : BitVec 1) ++ g) x y z 2).extractLsb' 20 2 = g := field_eq _ _ _ (by
    rw [wE_toNat]; simp only [append_toNat, BitVec.ofNat_eq_ofNat, BitVec.toNat_ofNat]; omega)
  rw [decodeWord_33 (wE_m ..), decMajor33, wE_f]
  change (fun w : Word => chkE w .mq [] (.mdrainSel (w.extractLsb' 23 2) (w.extractLsb' 20 2) (w.extractLsb' 15 5) (w.extractLsb' 10 5) (w.extractLsb' 5 5))) (wE 51 ((0 : BitVec 1) ++ t) ((0 : BitVec 1) ++ g) x y z 2) = _
  simp only [wE_x, wE_y, wE_z, wE_t, wE_g, e1, e2, chkE, okZeros, token_mq]

theorem mstat (t : BitVec 2) (g : BitVec 2) : Statement (.mstat t g) := by
  refine of_word (w := wE 52 ((0 : BitVec 1) ++ t) ((0 : BitVec 1) ++ g) 0 0 0 0) rfl (by rw [wE_m]; decide) (fun hw => ?_) rfl
  have := t.isLt; have := g.isLt
  have e1 : (wE 52 ((0 : BitVec 1) ++ t) ((0 : BitVec 1) ++ g) 0 0 0 0).extractLsb' 5 15 = 0 := field_eq _ _ _ (by
    rw [wE_toNat]; simp only [append_toNat, BitVec.ofNat_eq_ofNat, BitVec.toNat_ofNat]; omega)
  have e2 : (wE 52 ((0 : BitVec 1) ++ t) ((0 : BitVec 1) ++ g) 0 0 0 0).extractLsb' 23 2 = t := field_eq _ _ _ (by
    rw [wE_toNat]; simp only [append_toNat, BitVec.ofNat_eq_ofNat, BitVec.toNat_ofNat]; omega)
  have e3 : (wE 52 ((0 : BitVec 1) ++ t) ((0 : BitVec 1) ++ g) 0 0 0 0).extractLsb' 20 2 = g := field_eq _ _ _ (by
    rw [wE_toNat]; simp only [append_toNat, BitVec.ofNat_eq_ofNat, BitVec.toNat_ofNat]; omega)
  rw [decodeWord_34 (wE_m ..), decMajor34, wE_f]
  change (fun w : Word => chkE w .mq [zf w 5 15 false] (.mstat (w.extractLsb' 23 2) (w.extractLsb' 20 2))) (wE 52 ((0 : BitVec 1) ++ t) ((0 : BitVec 1) ++ g) 0 0 0 0) = _
  simp only [wE_t, wE_g, e1, e2, e3, chkE, okZeros, zf, token_mq]
  rfl

theorem talloc (d : BitVec 5) (n : BitVec 1) (a : BitVec 6) (b : BitVec 6) : Statement (.talloc d n a b) := by
  refine of_word (w := wRR 54 d n a b 0) rfl (by rw [wRR_m]; decide) (fun hw => ?_) rfl
  replace hw : (selOk a && selOk b) = true := hw
  simp only [selOk, Bool.and_eq_true, decide_eq_true_eq] at hw
  rw [decodeWord_36 (wRR_m ..), decMajor36, wRR_f]
  change (fun w : Word => chk [w.extractLsb' 14 6, w.extractLsb' 8 6] [] (.talloc (w.extractLsb' 21 5) (w.extractLsb' 20 1) (w.extractLsb' 14 6) (w.extractLsb' 8 6))) (wRR 54 d n a b 0) = _
  simp only [wRR_a, wRR_b, wRR_d, wRR_n, chk, okSels, okZeros, hw, if_true]

theorem tallocV (d : BitVec 5) (n : BitVec 1) (a : BitVec 6) (b : BitVec 6) : Statement (.tallocV d n a b) := by
  refine of_word (w := wRR 54 d n a b 1) rfl (by rw [wRR_m]; decide) (fun hw => ?_) rfl
  replace hw : (selOk a && selOk b) = true := hw
  simp only [selOk, Bool.and_eq_true, decide_eq_true_eq] at hw
  rw [decodeWord_36 (wRR_m ..), decMajor36, wRR_f]
  change (fun w : Word => chk [w.extractLsb' 14 6, w.extractLsb' 8 6] [] (.tallocV (w.extractLsb' 21 5) (w.extractLsb' 20 1) (w.extractLsb' 14 6) (w.extractLsb' 8 6))) (wRR 54 d n a b 1) = _
  simp only [wRR_a, wRR_b, wRR_d, wRR_n, chk, okSels, okZeros, hw, if_true]

theorem tadd (a : BitVec 6) (b : BitVec 6) : Statement (.tadd a b) := by
  refine of_word (w := wRR 54 0 0 a b 2) rfl (by rw [wRR_m]; decide) (fun hw => ?_) rfl
  replace hw : (selOk a && selOk b) = true := hw
  simp only [selOk, Bool.and_eq_true, decide_eq_true_eq] at hw
  have := a.isLt; have := b.isLt
  have e3 : (wRR 54 0 0 a b 2).extractLsb' 20 6 = 0 := field_eq _ _ _ (by
    rw [wRR_toNat]; simp only [BitVec.ofNat_eq_ofNat, BitVec.toNat_ofNat]; omega)
  rw [decodeWord_36 (wRR_m ..), decMajor36, wRR_f]
  change (fun w : Word => chk [w.extractLsb' 14 6, w.extractLsb' 8 6] [zf w 20 6 false] (.tadd (w.extractLsb' 14 6) (w.extractLsb' 8 6))) (wRR 54 0 0 a b 2) = _
  simp only [wRR_a, wRR_b, e3, chk, okSels, okZeros, zf, hw, if_true]
  rfl

theorem tdraw (a : BitVec 6) : Statement (.tdraw a) := by
  refine of_word (w := wRR 54 0 0 a 0 3) rfl (by rw [wRR_m]; decide) (fun hw => ?_) rfl
  replace hw : (selOk a) = true := hw
  simp only [selOk, decide_eq_true_eq] at hw
  have := a.isLt
  have e3 : (wRR 54 0 0 a 0 3).extractLsb' 20 6 = 0 := field_eq _ _ _ (by
    rw [wRR_toNat]; simp only [BitVec.ofNat_eq_ofNat, BitVec.toNat_ofNat]; omega)
  rw [decodeWord_36 (wRR_m ..), decMajor36, wRR_f]
  change (fun w : Word => chk [w.extractLsb' 14 6] [zf w 8 6 false, zf w 20 6 false] (.tdraw (w.extractLsb' 14 6))) (wRR 54 0 0 a 0 3) = _
  simp only [wRR_a, wRR_b, e3, chk, okSels, okZeros, zf, hw, if_true]
  rfl

theorem tabnd (a : BitVec 6) : Statement (.tabnd a) := by
  refine of_word (w := wRR 54 0 0 a 0 4) rfl (by rw [wRR_m]; decide) (fun hw => ?_) rfl
  replace hw : (selOk a) = true := hw
  simp only [selOk, decide_eq_true_eq] at hw
  have := a.isLt
  have e3 : (wRR 54 0 0 a 0 4).extractLsb' 20 6 = 0 := field_eq _ _ _ (by
    rw [wRR_toNat]; simp only [BitVec.ofNat_eq_ofNat, BitVec.toNat_ofNat]; omega)
  rw [decodeWord_36 (wRR_m ..), decMajor36, wRR_f]
  change (fun w : Word => chk [w.extractLsb' 14 6] [zf w 8 6 false, zf w 20 6 false] (.tabnd (w.extractLsb' 14 6))) (wRR 54 0 0 a 0 4) = _
  simp only [wRR_a, wRR_b, e3, chk, okSels, okZeros, zf, hw, if_true]
  rfl

theorem tinfo (d : BitVec 5) (n : BitVec 1) (a : BitVec 6) : Statement (.tinfo d n a) := by
  refine of_word (w := wRR 54 d n a 0 5) rfl (by rw [wRR_m]; decide) (fun hw => ?_) rfl
  replace hw : (selOk a) = true := hw
  simp only [selOk, decide_eq_true_eq] at hw
  rw [decodeWord_36 (wRR_m ..), decMajor36, wRR_f]
  change (fun w : Word => chk [w.extractLsb' 14 6] [zf w 8 6 false] (.tinfo (w.extractLsb' 21 5) (w.extractLsb' 20 1) (w.extractLsb' 14 6))) (wRR 54 d n a 0 5) = _
  simp only [wRR_a, wRR_b, wRR_d, wRR_n, chk, okSels, okZeros, zf, hw, if_true]
  rfl

theorem pubv (p : BitVec 3) (s : BitVec 3) (a : BitVec 6) (b : BitVec 6) : Statement (.pubv p s a b) := by
  refine of_word (w := wPB 55 p s a b 0) rfl (by rw [wPB_m]; decide) (fun hw => ?_) rfl
  replace hw : (s.toNat < 6 && selOk a && selOk b) = true := hw
  simp only [selOk, Bool.and_eq_true, decide_eq_true_eq] at hw
  rw [decodeWord_37 (wPB_m ..), decMajor37, wPB_f]
  change (fun w : Word => chkScope (w.extractLsb' 20 3) (chk [w.extractLsb' 14 6, w.extractLsb' 8 6] [] (.pubv (w.extractLsb' 23 3) (w.extractLsb' 20 3) (w.extractLsb' 14 6) (w.extractLsb' 8 6)))) (wPB 55 p s a b 0) = _
  simp only [wPB_s, wPB_a, wPB_b, wPB_p, chk, okSels, okZeros, hw, if_true, chkScope]

theorem pubvF (p : BitVec 3) (s : BitVec 3) (a : BitVec 6) (b : BitVec 6) : Statement (.pubvF p s a b) := by
  refine of_word (w := wPB 55 p s a b 1) rfl (by rw [wPB_m]; decide) (fun hw => ?_) rfl
  replace hw : (s.toNat < 6 && selOk a && selOk b) = true := hw
  simp only [selOk, Bool.and_eq_true, decide_eq_true_eq] at hw
  rw [decodeWord_37 (wPB_m ..), decMajor37, wPB_f]
  change (fun w : Word => chkScope (w.extractLsb' 20 3) (chk [w.extractLsb' 14 6, w.extractLsb' 8 6] [] (.pubvF (w.extractLsb' 23 3) (w.extractLsb' 20 3) (w.extractLsb' 14 6) (w.extractLsb' 8 6)))) (wPB 55 p s a b 1) = _
  simp only [wPB_s, wPB_a, wPB_b, wPB_p, chk, okSels, okZeros, hw, if_true, chkScope]

theorem tsub (d : BitVec 5) (n : BitVec 1) (a : BitVec 6) (b : BitVec 6) : Statement (.tsub d n a b) := by
  refine of_word (w := wRR 55 d n a b 2) rfl (by rw [wRR_m]; decide) (fun hw => ?_) rfl
  replace hw : (selOk a && selOk b) = true := hw
  simp only [selOk, Bool.and_eq_true, decide_eq_true_eq] at hw
  rw [decodeWord_37 (wRR_m ..), decMajor37, wRR_f]
  change (fun w : Word => chk [w.extractLsb' 14 6, w.extractLsb' 8 6] [] (.tsub (w.extractLsb' 21 5) (w.extractLsb' 20 1) (w.extractLsb' 14 6) (w.extractLsb' 8 6))) (wRR 55 d n a b 2) = _
  simp only [wRR_a, wRR_b, wRR_d, wRR_n, chk, okSels, okZeros, hw, if_true]

theorem stopref (a : BitVec 6) : Statement (.stopref a) := by
  refine of_word (w := wRR 55 0 0 a 0 3) rfl (by rw [wRR_m]; decide) (fun hw => ?_) rfl
  replace hw : (selOk a) = true := hw
  simp only [selOk, decide_eq_true_eq] at hw
  have := a.isLt
  have e3 : (wRR 55 0 0 a 0 3).extractLsb' 20 6 = 0 := field_eq _ _ _ (by
    rw [wRR_toNat]; simp only [BitVec.ofNat_eq_ofNat, BitVec.toNat_ofNat]; omega)
  rw [decodeWord_37 (wRR_m ..), decMajor37, wRR_f]
  change (fun w : Word => chk [w.extractLsb' 14 6] [zf w 8 6 false, zf w 20 6 false] (.stopref (w.extractLsb' 14 6))) (wRR 55 0 0 a 0 3) = _
  simp only [wRR_a, wRR_b, e3, chk, okSels, okZeros, zf, hw, if_true]
  rfl

theorem swait (a : BitVec 6) : Statement (.swait a) := by
  refine of_word (w := wRR 55 0 0 a 0 4) rfl (by rw [wRR_m]; decide) (fun hw => ?_) rfl
  replace hw : (selOk a) = true := hw
  simp only [selOk, decide_eq_true_eq] at hw
  have := a.isLt
  have e3 : (wRR 55 0 0 a 0 4).extractLsb' 20 6 = 0 := field_eq _ _ _ (by
    rw [wRR_toNat]; simp only [BitVec.ofNat_eq_ofNat, BitVec.toNat_ofNat]; omega)
  rw [decodeWord_37 (wRR_m ..), decMajor37, wRR_f]
  change (fun w : Word => chk [w.extractLsb' 14 6] [zf w 8 6 false, zf w 20 6 false] (.swait (w.extractLsb' 14 6))) (wRR 55 0 0 a 0 4) = _
  simp only [wRR_a, wRR_b, e3, chk, okSels, okZeros, zf, hw, if_true]
  rfl

theorem tver (d : BitVec 5) (n : BitVec 1) (a : BitVec 6) : Statement (.tver d n a) := by
  refine of_word (w := wRR 55 d n a 0 5) rfl (by rw [wRR_m]; decide) (fun hw => ?_) rfl
  replace hw : (selOk a) = true := hw
  simp only [selOk, decide_eq_true_eq] at hw
  rw [decodeWord_37 (wRR_m ..), decMajor37, wRR_f]
  change (fun w : Word => chk [w.extractLsb' 14 6] [zf w 8 6 false] (.tver (w.extractLsb' 21 5) (w.extractLsb' 20 1) (w.extractLsb' 14 6))) (wRR 55 d n a 0 5) = _
  simp only [wRR_a, wRR_b, wRR_d, wRR_n, chk, okSels, okZeros, zf, hw, if_true]
  rfl

theorem fork (a : BitVec 6) (b : BitVec 6) : Statement (.fork a b) := by
  refine of_word (w := wRR 56 0 0 a b 0) rfl (by rw [wRR_m]; decide) (fun hw => ?_) rfl
  replace hw : (selOk a && selOk b) = true := hw
  simp only [selOk, Bool.and_eq_true, decide_eq_true_eq] at hw
  have := a.isLt; have := b.isLt
  have e3 : (wRR 56 0 0 a b 0).extractLsb' 20 6 = 0 := field_eq _ _ _ (by
    rw [wRR_toNat]; simp only [BitVec.ofNat_eq_ofNat, BitVec.toNat_ofNat]; omega)
  rw [decodeWord_38 (wRR_m ..), decMajor38, wRR_f]
  change (fun w : Word => chk [w.extractLsb' 14 6, w.extractLsb' 8 6] [zf w 20 6 false] (.fork (w.extractLsb' 14 6) (w.extractLsb' 8 6))) (wRR 56 0 0 a b 0) = _
  simp only [wRR_a, wRR_b, e3, chk, okSels, okZeros, zf, hw, if_true]
  rfl

theorem join : Statement (.join) := by
  refine of_word (w := wRR 56 0 0 0 0 1) rfl (by rw [wRR_m]; decide) (fun hw => ?_) rfl
  have e1 : (wRR 56 0 0 0 0 1).extractLsb' 8 18 = 0 := field_eq _ _ _ (by
    rw [wRR_toNat]; simp only [BitVec.ofNat_eq_ofNat, BitVec.toNat_ofNat]; omega)
  rw [decodeWord_38 (wRR_m ..), decMajor38, wRR_f]
  change (fun w : Word => chk [] [zf w 8 18 false] .join) (wRR 56 0 0 0 0 1) = _
  simp only [e1, chk, okSels, okZeros, zf]
  rfl

theorem enq (a : BitVec 6) (b : BitVec 6) : Statement (.enq a b) := by
  refine of_word (w := wRR 56 0 0 a b 2) rfl (by rw [wRR_m]; decide) (fun hw => ?_) rfl
  replace hw : (selOk a && selOk b) = true := hw
  simp only [selOk, Bool.and_eq_true, decide_eq_true_eq] at hw
  have := a.isLt; have := b.isLt
  have e3 : (wRR 56 0 0 a b 2).extractLsb' 20 6 = 0 := field_eq _ _ _ (by
    rw [wRR_toNat]; simp only [BitVec.ofNat_eq_ofNat, BitVec.toNat_ofNat]; omega)
  rw [decodeWord_38 (wRR_m ..), decMajor38, wRR_f]
  change (fun w : Word => chk [w.extractLsb' 14 6, w.extractLsb' 8 6] [zf w 20 6 false] (.enq (w.extractLsb' 14 6) (w.extractLsb' 8 6))) (wRR 56 0 0 a b 2) = _
  simp only [wRR_a, wRR_b, e3, chk, okSels, okZeros, zf, hw, if_true]
  rfl

theorem card (d : BitVec 5) (n : BitVec 1) : Statement (.card d n) := by
  refine of_word (w := wRR 56 d n 0 0 3) rfl (by rw [wRR_m]; decide) (fun hw => ?_) rfl
  have := d.isLt; have := n.isLt
  have e1 : (wRR 56 d n 0 0 3).extractLsb' 8 12 = 0 := field_eq _ _ _ (by
    rw [wRR_toNat]; simp only [BitVec.ofNat_eq_ofNat, BitVec.toNat_ofNat]; omega)
  rw [decodeWord_38 (wRR_m ..), decMajor38, wRR_f]
  change (fun w : Word => chk [] [zf w 8 12 false] (.card (w.extractLsb' 21 5) (w.extractLsb' 20 1))) (wRR 56 d n 0 0 3) = _
  simp only [wRR_d, wRR_n, e1, chk, okSels, okZeros, zf]
  rfl

theorem mbpost (a : BitVec 6) (b : BitVec 6) : Statement (.mbpost a b) := by
  refine of_word (w := wRR 57 0 0 a b 0) rfl (by rw [wRR_m]; decide) (fun hw => ?_) rfl
  replace hw : (selOk a && selOk b) = true := hw
  simp only [selOk, Bool.and_eq_true, decide_eq_true_eq] at hw
  have := a.isLt; have := b.isLt
  have e3 : (wRR 57 0 0 a b 0).extractLsb' 20 6 = 0 := field_eq _ _ _ (by
    rw [wRR_toNat]; simp only [BitVec.ofNat_eq_ofNat, BitVec.toNat_ofNat]; omega)
  rw [decodeWord_39 (wRR_m ..), decMajor39, wRR_f]
  change (fun w : Word => chk [w.extractLsb' 14 6, w.extractLsb' 8 6] [zf w 20 6 false] (.mbpost (w.extractLsb' 14 6) (w.extractLsb' 8 6))) (wRR 57 0 0 a b 0) = _
  simp only [wRR_a, wRR_b, e3, chk, okSels, okZeros, zf, hw, if_true]
  rfl

theorem mbtake (d : BitVec 5) (n : BitVec 1) (a : BitVec 6) : Statement (.mbtake d n a) := by
  refine of_word (w := wRR 57 d n a 0 1) rfl (by rw [wRR_m]; decide) (fun hw => ?_) rfl
  replace hw : (selOk a) = true := hw
  simp only [selOk, decide_eq_true_eq] at hw
  rw [decodeWord_39 (wRR_m ..), decMajor39, wRR_f]
  change (fun w : Word => chk [w.extractLsb' 14 6] [zf w 8 6 false] (.mbtake (w.extractLsb' 21 5) (w.extractLsb' 20 1) (w.extractLsb' 14 6))) (wRR 57 d n a 0 1) = _
  simp only [wRR_a, wRR_b, wRR_d, wRR_n, chk, okSels, okZeros, zf, hw, if_true]
  rfl

theorem coll (d : BitVec 5) (n : BitVec 1) (a : BitVec 6) (b : BitVec 6) : Statement (.coll d n a b) := by
  refine of_word (w := wRR 58 d n a b 0) rfl (by rw [wRR_m]; decide) (fun hw => ?_) rfl
  replace hw : (selOk a && selOk b) = true := hw
  simp only [selOk, Bool.and_eq_true, decide_eq_true_eq] at hw
  rw [decodeWord_3a (wRR_m ..), decMajor3a, wRR_f]
  change (fun w : Word => chk [w.extractLsb' 14 6, w.extractLsb' 8 6] [] (.coll (w.extractLsb' 21 5) (w.extractLsb' 20 1) (w.extractLsb' 14 6) (w.extractLsb' 8 6))) (wRR 58 d n a b 0) = _
  simp only [wRR_a, wRR_b, wRR_d, wRR_n, chk, okSels, okZeros, hw, if_true]

theorem csend (cl : Nat) (ln : BitVec 32) (f : StepFields) : Statement (.csend cl ln f) := by
  intro _
  refine ⟨fun h => (by cases h), fun hs v hv => ⟨cl, ln, ?_⟩⟩
  replace hs : stepFieldsOk 1 f = true := hs
  replace hv : some (wStep 1 f) = some v := hv
  cases hv
  simp only [decodeStep, wStep_op, wStep_fields, wStep_low, hs]
  rfl

theorem crecv (cl : Nat) (ln : BitVec 32) (f : StepFields) : Statement (.crecv cl ln f) := by
  intro _
  refine ⟨fun h => (by cases h), fun hs v hv => ⟨cl, ln, ?_⟩⟩
  replace hs : stepFieldsOk 2 f = true := hs
  replace hv : some (wStep 2 f) = some v := hv
  cases hv
  simp only [decodeStep, wStep_op, wStep_fields, wStep_low, hs]
  rfl

theorem crrs (cl : Nat) (ln : BitVec 32) (f : StepFields) : Statement (.crrs cl ln f) := by
  intro _
  refine ⟨fun h => (by cases h), fun hs v hv => ⟨cl, ln, ?_⟩⟩
  replace hs : stepFieldsOk 3 f = true := hs
  replace hv : some (wStep 3 f) = some v := hv
  cases hv
  simp only [decodeStep, wStep_op, wStep_fields, wStep_low, hs]
  rfl

theorem ccopy (cl : Nat) (ln : BitVec 32) (f : StepFields) : Statement (.ccopy cl ln f) := by
  intro _
  refine ⟨fun h => (by cases h), fun hs v hv => ⟨cl, ln, ?_⟩⟩
  replace hs : stepFieldsOk 4 f = true := hs
  replace hv : some (wStep 4 f) = some v := hv
  cases hv
  simp only [decodeStep, wStep_op, wStep_fields, wStep_low, hs]
  rfl

theorem cwait (cl : Nat) (ln : BitVec 32) (w : BitVec 1) : Statement (.cwait cl ln w) := by
  intro _
  refine ⟨fun h => (by cases h), fun _ v hv => ⟨cl, ln, ?_⟩⟩
  replace hv : some ((5 : BitVec 4) ++ w ++ (0 : BitVec 59)) = some v := hv
  cases hv
  rcases (by decide : ∀ w : BitVec 1, w = 0 ∨ w = 1) w with rfl | rfl <;> rfl

theorem cloop (cl : Nat) (ln : BitVec 32) (k : BitVec 2) (rel : BitVec 1) (v : BitVec 21) (len : BitVec 16) : Statement (.cloop cl ln k rel v len) := by
  intro _
  refine ⟨fun h => (by cases h), fun hs x hv => ⟨cl, ln, ?_⟩⟩
  replace hs : decide (len ≠ 0) = true := hs
  rw [decide_eq_true_eq] at hs
  replace hv : some ((6 : BitVec 4) ++ k ++ rel ++ v ++ len ++ (0 : BitVec 20)) = some x := hv
  have hx : x = ((6 : BitVec 4) ++ k ++ rel ++ v ++ len ++ (0 : BitVec 20)) := by cases hv; rfl
  have hn : x.toNat = ((((6 * 4 + k.toNat) * 2 + rel.toNat) * 2097152 + v.toNat) * 65536 + len.toNat) * 1048576 := by
    have h : x.toNat = ((6 : BitVec 4) ++ k ++ rel ++ v ++ len ++ (0 : BitVec 20)).toNat := congrArg _ hx
    rw [h]; simp only [append_toNat, BitVec.ofNat_eq_ofNat, BitVec.toNat_ofNat]; norm_num
  have := k.isLt; have := rel.isLt; have := v.isLt; have := len.isLt
  have e0 : x.extractLsb' 60 4 = 6 := field_eq _ _ _ (by
    rw [hn]; simp only [BitVec.ofNat_eq_ofNat, BitVec.toNat_ofNat]; omega)
  have e1 : x.extractLsb' 58 2 = k := field_eq _ _ _ (by rw [hn]; omega)
  have e2 : x.extractLsb' 57 1 = rel := field_eq _ _ _ (by rw [hn]; omega)
  have e3 : x.extractLsb' 36 21 = v := field_eq _ _ _ (by rw [hn]; omega)
  have e4 : x.extractLsb' 20 16 = len := field_eq _ _ _ (by rw [hn]; omega)
  have e5 : x.toNat % 2 ^ 20 = 0 := by rw [hn]; omega
  simp only [decodeStep, e0, e1, e2, e3, e4, e5, hs, if_false]
  rfl

theorem cbar (cl : Nat) (ln : BitVec 32) : Statement (.cbar cl ln) := by
  intro _
  refine ⟨fun h => (by cases h), fun _ v hv => ⟨cl, ln, ?_⟩⟩
  cases hv
  rfl

theorem cend (cl : Nat) (ln : BitVec 32) : Statement (.cend cl ln) := by
  intro _
  refine ⟨fun h => (by cases h), fun _ v hv => ⟨cl, ln, ?_⟩⟩
  cases hv
  rfl

theorem hostRegisterWrite (fn : BitVec 5) (off : BitVec 26) (v : BitVec 64) : Statement (.hostRegisterWrite fn off v) := of_event rfl rfl

theorem graphParameterWrite (slot : BitVec 4) (k : BitVec 8) (v : BitVec 64) : Statement (.graphParameterWrite slot k v) := of_event rfl rfl

theorem gstart (slot : BitVec 4) (bank : BitVec 1) : Statement (.gstart slot bank) := of_event rfl rfl

theorem graphSlotConfigWrite (slot : BitVec 4) (reg : BitVec 2) (v : BitVec 64) : Statement (.graphSlotConfigWrite slot reg v) := of_event rfl rfl

theorem launch (ctx : BitVec 4) (card : BitVec 52) : Statement (.launch ctx card) := of_event rfl rfl

theorem installPoolDescriptors (ctx : BitVec 4) : Statement (.installPoolDescriptors ctx) := of_event rfl rfl

theorem shootdown (ctx : BitVec 4) : Statement (.shootdown ctx) := of_event rfl rfl

theorem shootdownDone (ctx : BitVec 4) : Statement (.shootdownDone ctx) := of_event rfl rfl

theorem jend (ctx : BitVec 4) (jobid : BitVec 32) : Statement (.jend ctx jobid) := of_event rfl rfl

theorem crst (ctx : BitVec 4) : Statement (.crst ctx) := of_event rfl rfl

theorem vfFlr (vf : BitVec 5) : Statement (.vfFlr vf) := of_event rfl rfl

theorem replay (v : BitVec 64) : Statement (.replay v) := of_event rfl rfl

theorem trun (m : BitVec 32) : Statement (.trun m) := of_event rfl rfl

theorem thold (m : BitVec 32) : Statement (.thold m) := of_event rfl rfl

theorem wallWrite (w : BitVec 6) (half : BitVec 1) (v : BitVec 64) : Statement (.wallWrite w half v) := of_event rfl rfl

theorem plimWrite (v : BitVec 12) : Statement (.plimWrite v) := of_event rfl rfl

theorem routeEntryWrite (idx : BitVec 19) (v : BitVec 64) : Statement (.routeEntryWrite idx v) := of_event rfl rfl

theorem monitorClear (m : BitVec 6) : Statement (.monitorClear m) := of_event rfl rfl

theorem monitorSatClear (m : BitVec 6) : Statement (.monitorSatClear m) := of_event rfl rfl

theorem elstatDropClear (v : BitVec 32) : Statement (.elstatDropClear v) := of_event rfl rfl

theorem cfenceClear (cl : BitVec 6) (m : BitVec 48) : Statement (.cfenceClear cl m) := of_event rfl rfl

theorem monitorSample (m : BitVec 6) (v : BitVec 32) : Statement (.monitorSample m v) := of_event rfl rfl

theorem notifyMirrorWrite (fn : BitVec 5) (n : BitVec 12) (v : BitVec 64) : Statement (.notifyMirrorWrite fn n v) := of_event rfl rfl

theorem toolNotifyStore (hart : BitVec 5) (n : BitVec 12) (v : BitVec 64) : Statement (.toolNotifyStore hart n v) := of_event rfl rfl

theorem toolSandboxAccess (hart : BitVec 5) (kind : BitVec 2) (addr : BitVec 36) (size : BitVec 2) (v : BitVec 64) : Statement (.toolSandboxAccess hart kind addr size v) := of_event rfl rfl

theorem doorbellClear (hart : BitVec 5) (v : BitVec 64) : Statement (.doorbellClear hart v) := of_event rfl rfl

theorem attestationRequest : Statement (.attestationRequest) := of_event rfl rfl

theorem securityImageVerify (img : BitVec 2) (ver : BitVec 16) (key : List (BitVec 8)) (hdr : List (BitVec 8)) (body : List (BitVec 8)) (sig : List (BitVec 8)) : Statement (.securityImageVerify img ver key hdr body sig) := of_event rfl rfl

theorem deviceReset : Statement (.deviceReset) := of_event rfl rfl

theorem pcieHotReset : Statement (.pcieHotReset) := of_event rfl rfl

theorem hostLinkError (kind : BitVec 8) : Statement (.hostLinkError kind) := of_event rfl rfl

theorem hostBar2Access (fn : BitVec 5) (wr : BitVec 2) (off : BitVec 40) (size : BitVec 2) (v : BitVec 64) : Statement (.hostBar2Access fn wr off size v) := of_event rfl rfl

theorem powerStateEntry (part : BitVec 3) (st : BitVec 3) : Statement (.powerStateEntry part st) := of_event rfl rfl

theorem powerWake (part : BitVec 3) : Statement (.powerWake part) := of_event rfl rfl

theorem thermalHoldEntry (die : BitVec 3) : Statement (.thermalHoldEntry die) := of_event rfl rfl

theorem thermalHoldExit (die : BitVec 3) (head : BitVec 16) : Statement (.thermalHoldExit die head) := of_event rfl rfl

theorem thermalTrip (die : BitVec 3) : Statement (.thermalTrip die) := of_event rfl rfl

theorem supplyFault : Statement (.supplyFault) := of_event rfl rfl

theorem plimOverrun : Statement (.plimOverrun) := of_event rfl rfl

theorem correctableError (die : BitVec 3) : Statement (.correctableError die) := of_event rfl rfl

theorem patrolPoison (loc : Nat) (syn : BitVec 64) : Statement (.patrolPoison loc syn) := of_event rfl rfl

theorem deviceFatalError (code : BitVec 8) (unit : BitVec 64) (syn : BitVec 64) : Statement (.deviceFatalError code unit syn) := of_event rfl rfl

theorem securityProcessorFault : Statement (.securityProcessorFault) := of_event rfl rfl

theorem toolCacheError (hart : BitVec 5) (addr : BitVec 38) : Statement (.toolCacheError hart addr) := of_event rfl rfl

theorem tileTableError (unit : Nat) (syn : BitVec 64) : Statement (.tileTableError unit syn) := of_event rfl rfl

theorem cxlPortDown (port : BitVec 1) : Statement (.cxlPortDown port) := of_event rfl rfl

theorem cxlPortRetrained (port : BitVec 1) : Statement (.cxlPortRetrained port) := of_event rfl rfl

theorem flitReceive (span : BitVec 5) (seq : BitVec 32) (bad : BitVec 2) : Statement (.flitReceive span seq bad) := of_event rfl rfl

theorem flitAck (span : BitVec 5) (seq : BitVec 32) : Statement (.flitAck span seq) := of_event rfl rfl

theorem flitAckTimeout (span : BitVec 5) : Statement (.flitAckTimeout span) := of_event rfl rfl

theorem spanUp (span : BitVec 5) (full : BitVec 1) : Statement (.spanUp span full) := of_event rfl rfl

theorem remoteAccessHome (ctx : BitVec 18) (kind : BitVec 4) (va : BitVec 52) (size : BitVec 8) (v : BitVec 1920) (c : BitVec 64) : Statement (.remoteAccessHome ctx kind va size v c) := of_event rfl rfl

theorem remoteResponse (id : Nat) (code : BitVec 8) (v : BitVec 1920) : Statement (.remoteResponse id code v) := of_event rfl rfl

theorem remoteAccessTimeout (id : Nat) : Statement (.remoteAccessTimeout id) := of_event rfl rfl

theorem pierReport (code : BitVec 8) (arg : BitVec 64) : Statement (.pierReport code arg) := of_event rfl rfl

theorem collReadyArrive (cl : Nat) (ln : BitVec 32) (peer : Nat) : Statement (.collReadyArrive cl ln peer) := of_event rfl rfl

theorem collDataArrive (cl : Nat) (ln : BitVec 32) (peer : Nat) (fmt : BitVec 8) (data : List (BitVec 8)) : Statement (.collDataArrive cl ln peer fmt data) := of_event rfl rfl

theorem collTransferFinish (cl : Nat) (ln : BitVec 32) (step : Nat) (ack : BitVec 1) : Statement (.collTransferFinish cl ln step ack) := of_event rfl rfl

theorem cbarMessage (cl : Nat) (ln : BitVec 32) (peer : Nat) : Statement (.cbarMessage cl ln peer) := of_event rfl rfl

theorem collAbortMessage (cl : Nat) (tag : BitVec 32) : Statement (.collAbortMessage cl tag) := of_event rfl rfl

theorem collTimeout (cl : Nat) (ln : BitVec 32) (kind : BitVec 2) : Statement (.collTimeout cl ln kind) := of_event rfl rfl

theorem jobIssue (job : Nat) : Statement (.jobIssue job) := of_event rfl rfl

theorem class0Preempt (job : Nat) : Statement (.class0Preempt job) := of_event rfl rfl

theorem preemptPointLate (core : Nat) (job : Nat) : Statement (.preemptPointLate core job) := of_event rfl rfl

theorem contextSave (core : Nat) (job : Nat) : Statement (.contextSave core job) := of_event rfl rfl

theorem saveComplete (core : Nat) (job : Nat) : Statement (.saveComplete core job) := of_event rfl rfl

theorem contextRestore (job : Nat) : Statement (.contextRestore job) := of_event rfl rfl

theorem streamNodeStart : Statement (.streamNodeStart) := of_event rfl rfl

theorem streamNodeComplete (i : Nat) : Statement (.streamNodeComplete i) := of_event rfl rfl

theorem jobEnd (job : Nat) : Statement (.jobEnd job) := of_event rfl rfl

theorem cardServe : Statement (.cardServe) := of_event rfl rfl

theorem periodStart (core : Nat) : Statement (.periodStart core) := of_event rfl rfl

theorem strandChoice (core : Nat) : Statement (.strandChoice core) := of_event rfl rfl

theorem eventDelivery (core : Nat) (sx : Nat) : Statement (.eventDelivery core sx) := of_event rfl rfl

theorem waitExpiry (core : Nat) (who : Nat) : Statement (.waitExpiry core who) := of_event rfl rfl

theorem asyncPoolCause (core : Nat) (sx : Nat) : Statement (.asyncPoolCause core sx) := of_event rfl rfl

theorem taskStart (core : Nat) (sx : Nat) : Statement (.taskStart core sx) := of_event rfl rfl

theorem stealRequest (core : Nat) (sx : Nat) : Statement (.stealRequest core sx) := of_event rfl rfl

theorem stealResult (core : Nat) (sx : Nat) : Statement (.stealResult core sx) := of_event rfl rfl

theorem stealRetry (core : Nat) (sx : Nat) : Statement (.stealRetry core sx) := of_event rfl rfl

theorem poolUnitCycle (unit : Nat) : Statement (.poolUnitCycle unit) := of_event rfl rfl

theorem subscriberFireTimeout (head : BitVec 64) (sub : Nat) : Statement (.subscriberFireTimeout head sub) := of_event rfl rfl

theorem settleExamine (job : Nat) (set : Nat) : Statement (.settleExamine job set) := of_event rfl rfl

theorem engineEntryBegin (core : Nat) (q : BitVec 2) : Statement (.engineEntryBegin core q) := of_event rfl rfl

theorem copySector (core : Nat) (side : BitVec 1) : Statement (.copySector core side) := of_event rfl rfl

theorem vectorRow (core : Nat) : Statement (.vectorRow core) := of_event rfl rfl

theorem reductionRetire (core : Nat) : Statement (.reductionRetire core) := of_event rfl rfl

theorem engineEntryComplete (core : Nat) (q : BitVec 2) : Statement (.engineEntryComplete core q) := of_event rfl rfl

theorem pageWalkComplete (die : BitVec 3) : Statement (.pageWalkComplete die) := of_event rfl rfl

theorem pageCopyComplete (core : Nat) (i : Nat) (bad : BitVec 2) : Statement (.pageCopyComplete core i bad) := of_event rfl rfl

theorem scoreboardReturn (core : Nat) (sx : Nat) : Statement (.scoreboardReturn core sx) := of_event rfl rfl

theorem virtualFunctionEnable (vf : BitVec 5) (on : BitVec 1) : Statement (.virtualFunctionEnable vf on) := of_event rfl rfl

theorem toolTimerInterrupt (hart : BitVec 5) : Statement (.toolTimerInterrupt hart) := of_event rfl rfl

end Sys2Proof.Laws.Encoding

end
end

