-- ==== Sys2Proof/Certificates/Slice0/Obligations.lean ====
section
/-! DEFINITION. The statements for the provers. Each says of the machine's own functions what the rules of spec/ that its
docstring names say; (log n) marks a clause that rests on the model's reading in notes/assumptions/<n>.md. -/

open Sys2Proof Sys2Proof.Machine

/-! ## Integer arithmetic (R140 to R144, R161 to R165) -/

/-- R162, fn 0 to 20: every instruction of two operands issues when its sources and its destination are ready, writes the
value the table gives, places it in y0, and changes nothing else. -/
def Obligations.AluTwoOperands : Prop :=
  ∀ (s : State) (a : At) (d : BitVec 5) (n : BitVec 1) (x y : BitVec 6), runner s = some a →
    srcReady (seen s a) a x → srcReady (seen s a) a y → dstReady (seen s a) a d n →
    let u := src (seen s a) a x
    let v := src (seen s a) a y
    let sh := v.toNat % 64
    let gives (i : Instr) (r : Dword) : Prop := Runs i s (fun t => DoneG 4 (seen s a) t a d n r r)
    gives (.add d n x y) (u + v) ∧ gives (.sub d n x y) (u - v) ∧ gives (.and d n x y) (u &&& v) ∧
    gives (.or d n x y) (u ||| v) ∧ gives (.xor d n x y) (u ^^^ v) ∧ gives (.andn d n x y) (u &&& ~~~v) ∧
    gives (.orn d n x y) (u ||| ~~~v) ∧ gives (.shl d n x y) (u <<< sh) ∧ gives (.shr d n x y) (u >>> sh) ∧
    gives (.sar d n x y) (u.sshiftRight sh) ∧ gives (.rol d n x y) (u.rotateLeft sh) ∧
    gives (.min d n x y) (BitVec.ofInt 64 (min u.toInt v.toInt)) ∧ gives (.max d n x y) (BitVec.ofInt 64 (max u.toInt v.toInt)) ∧
    gives (.minn d n x y) (BitVec.ofNat 64 (min u.toNat v.toNat)) ∧ gives (.maxn d n x y) (BitVec.ofNat 64 (max u.toNat v.toNat)) ∧
    gives (.seq d n x y) (if u = v then 1 else 0) ∧ gives (.sne d n x y) (if u = v then 0 else 1) ∧
    gives (.slt d n x y) (if u.toInt < v.toInt then 1 else 0) ∧ gives (.sltn d n x y) (if u.toNat < v.toNat then 1 else 0) ∧
    gives (.sle d n x y) (if u.toInt ≤ v.toInt then 1 else 0) ∧ gives (.slen d n x y) (if u.toNat ≤ v.toNat then 1 else 0)

/-- R163, R164, R167: the immediate forms, LEA and SEL. R162, fn 21 to 23: CLZ, CTZ and POPC. The counts are given by what
they count: the first k bits from the top or the bottom that are 0, before a bit that is 1 or the end of the register, and
the number of bits that are 1. -/
def Obligations.AluImmediates : Prop :=
  (∀ (s : State) (a : At) (d : BitVec 5) (n : BitVec 1) (x y : BitVec 6), runner s = some a →
       srcReady (seen s a) a x → dstReady (seen s a) a d n →
       let u := src (seen s a) a x
       let v := src (seen s a) a y
       let gives (i : Instr) (r : Dword) : Prop := Runs i s (fun t => DoneG 4 (seen s a) t a d n r r)
       (∀ imm : BitVec 14, gives (.addi d n x imm) (u + imm.signExtend 64) ∧ gives (.andi d n x imm) (u &&& imm.signExtend 64) ∧
         gives (.ori d n x imm) (u ||| imm.zeroExtend 64) ∧ gives (.xori d n x imm) (u ^^^ imm.zeroExtend 64)) ∧
       (∀ sh : BitVec 6, gives (.shli d n x sh) (u <<< sh.toNat) ∧ gives (.shri d n x sh) (u >>> sh.toNat) ∧
         gives (.sari d n x sh) (u.sshiftRight sh.toNat) ∧ gives (.roli d n x sh) (u.rotateLeft sh.toNat)) ∧
       (∀ imm : BitVec 12, gives (.seqi d n x imm) (if u = imm.signExtend 64 then 1 else 0) ∧
         gives (.slti d n x imm) (if u.toInt < imm.toInt then 1 else 0) ∧
         gives (.sltni d n x imm) (if u.toNat < imm.toNat then 1 else 0)) ∧
       (srcReady (seen s a) a y →
         (∀ sc : BitVec 8, gives (.lea d n x y sc) (u + v <<< sc.toNat)) ∧
         (∀ (inv : BitVec 1) (p : BitVec 3), pReady (seen s a) a p →
           gives (.sel d n x y inv p) (if (pVal (strandAt (seen s a) a) p.toNat ^^ (inv == 1)) then u else v)))) ∧
  (∀ (s : State) (a : At) (d : BitVec 5) (n : BitVec 1) (x : BitVec 6), runner s = some a →
       srcReady (seen s a) a x → dstReady (seen s a) a d n →
       let u := src (seen s a) a x
       let counts (i : Instr) (P : Nat → Prop) : Prop :=
         ∃ k, P k ∧ Runs i s (fun t => DoneG 4 (seen s a) t a d n (BitVec.ofNat 64 k) (BitVec.ofNat 64 k))
       counts (.clz d n x) (fun k => k ≤ 64 ∧ (∀ j, j < k → u.getLsbD (63 - j) = false) ∧ (k < 64 → u.getLsbD (63 - k) = true)) ∧
       counts (.ctz d n x) (fun k => k ≤ 64 ∧ (∀ j, j < k → u.getLsbD j = false) ∧ (k < 64 → u.getLsbD k = true)) ∧
       counts (.popc d n x) (fun k => k = ((List.range 64).filter (fun j => u.getLsbD j)).length))

/-- R142, R163: under LIW the 32-bit immediate takes the operand's place, extended by the rule of the field it replaces, and
the group is one instruction of 12 bytes. op 0 to 3 of major 0x05 take 0 to 63. -/
def Obligations.LongImmediates : Prop :=
  ∀ (s : State) (a : At) (d : BitVec 5) (n : BitVec 1) (x : BitVec 6) (imm word : Word) (i : Instr), runner s = some a →
    srcReady (seen s a) a x → dstReady (seen s a) a d n → decodePrefixed imm word = .ok i →
    let u := src (seen s a) a x
    let sx : Dword := imm.signExtend 64
    let zx : Dword := imm.zeroExtend 64
    let gives (r : Dword) : Prop := Runs (.liw imm word) s (fun t => DoneG 12 (seen s a) t a d n r r)
    (∀ o, i = .addi d n x o → gives (u + sx)) ∧ (∀ o, i = .andi d n x o → gives (u &&& sx)) ∧
    (∀ o, i = .ori d n x o → gives (u ||| zx)) ∧ (∀ o, i = .xori d n x o → gives (u ^^^ zx)) ∧
    (∀ o, i = .shli d n x o → imm.toNat < 64 ∧ gives (u <<< imm.toNat)) ∧
    (∀ o, i = .shri d n x o → imm.toNat < 64 ∧ gives (u >>> imm.toNat)) ∧
    (∀ o, i = .sari d n x o → imm.toNat < 64 ∧ gives (u.sshiftRight imm.toNat)) ∧
    (∀ o, i = .roli d n x o → imm.toNat < 64 ∧ gives (u.rotateLeft imm.toNat)) ∧
    (∀ o, i = .seqi d n x o → gives (if u = sx then 1 else 0)) ∧
    (∀ o, i = .slti d n x o → gives (if u.toInt < imm.toInt then 1 else 0)) ∧
    (∀ o, i = .sltni d n x o → gives (if u.toNat < imm.toNat then 1 else 0))

/-- R144, R165: multiplication and division leave an exposed write of latency 3 and 18; nothing traps, and the extreme cases
have the values of the table. -/
def Obligations.MultiplyDivide : Prop :=
  ∀ (s : State) (a : At) (d : BitVec 5) (n : BitVec 1) (x y : BitVec 6), runner s = some a →
    srcReady (seen s a) a x → srcReady (seen s a) a y → dstReady (seen s a) a d n →
    let u := src (seen s a) a x
    let v := src (seen s a) a y
    let gives (l : Nat) (i : Instr) (r : Dword) : Prop := Runs i s (fun t => DoneLat l 4 (seen s a) t a d n r 0)
    gives 3 (.mul d n x y) (BitVec.ofNat 64 (u.toNat * v.toNat)) ∧
    gives 3 (.mulh d n x y) (BitVec.ofInt 64 (u.toInt * v.toInt / 2 ^ 64)) ∧
    gives 3 (.mulhn d n x y) (BitVec.ofNat 64 (u.toNat * v.toNat / 2 ^ 64)) ∧
    (v ≠ 0 → gives 18 (.div d n x y) (BitVec.ofInt 64 (u.toInt.tdiv v.toInt)) ∧
      gives 18 (.divn d n x y) (BitVec.ofNat 64 (u.toNat / v.toNat)) ∧
      gives 18 (.rem d n x y) (BitVec.ofInt 64 (u.toInt - u.toInt.tdiv v.toInt * v.toInt)) ∧
      gives 18 (.remn d n x y) (BitVec.ofNat 64 (u.toNat - u.toNat / v.toNat * v.toNat))) ∧
    (v = 0 → gives 18 (.div d n x y) (-1) ∧ gives 18 (.divn d n x y) (BitVec.ofNat 64 (2 ^ 64 - 1)) ∧
      gives 18 (.rem d n x y) u ∧ gives 18 (.remn d n x y) u) ∧
    (u.toInt = -2 ^ 63 → v.toInt = -1 → gives 18 (.div d n x y) u ∧ gives 18 (.rem d n x y) 0)

/-! ## Predicates, mask registers, shape registers (R145, R166, R176, R177) -/

/-- R166: the predicate instructions write pd alone; a write to p0 is discarded. Their words are those of the RR layout with
major 0b001001, with pd in d[2:0] and d[4:3], nw and the high bits of a and b zero. -/
def Obligations.Predicates : Prop :=
  ∀ (s : State) (a : At) (d : BitVec 3), runner s = some a → pReady (seen s a) a d →
    let gives (i : Instr) (r : Bool) : Prop := Runs i s (fun t => DoneP (seen s a) t a d r)
    (∀ x y : BitVec 6, srcReady (seen s a) a x → srcReady (seen s a) a y →
      let u := src (seen s a) a x
      let v := src (seen s a) a y
      gives (.peq d x y) (decide (u = v)) ∧ gives (.pne d x y) (decide (u ≠ v)) ∧
      gives (.plt d x y) (decide (u.toInt < v.toInt)) ∧ gives (.pltn d x y) (decide (u.toNat < v.toNat)) ∧
      gives (.ple d x y) (decide (u.toInt ≤ v.toInt)) ∧ gives (.plen d x y) (decide (u.toNat ≤ v.toNat))) ∧
    (∀ x y : BitVec 3, pReady (seen s a) a x → pReady (seen s a) a y →
      let u := pVal (strandAt (seen s a) a) x.toNat
      let v := pVal (strandAt (seen s a) a) y.toNat
      gives (.pand d x y) (u && v) ∧ gives (.por d x y) (u || v) ∧ gives (.pxor d x y) (u ^^ v) ∧ gives (.pnot d x) (!u)) ∧
    gives (.ptog d) (!pVal (strandAt (seen s a) a) d.toNat) ∧
    let is (i : Instr) (fn x y : Nat) : Prop := (encode i).map (·.toNat) =
      [0b001001 * 2 ^ 26 + d.toNat * 2 ^ 21 + x * 2 ^ 14 + y * 2 ^ 8 + fn]
    (∀ x y : BitVec 6, is (.peq d x y) 0 x.toNat y.toNat ∧ is (.pne d x y) 1 x.toNat y.toNat ∧
      is (.plt d x y) 2 x.toNat y.toNat ∧ is (.pltn d x y) 3 x.toNat y.toNat ∧ is (.ple d x y) 4 x.toNat y.toNat ∧
      is (.plen d x y) 5 x.toNat y.toNat) ∧
    (∀ x y : BitVec 3, is (.pand d x y) 6 x.toNat y.toNat ∧ is (.por d x y) 7 x.toNat y.toNat ∧
      is (.pxor d x y) 8 x.toNat y.toNat ∧ is (.pnot d x) 9 x.toNat 0) ∧ is (.ptog d) 10 0 0

/-- R176: the mask instructions. The registers hold 16 bits, so the operands are taken modulo 2^16. nw is zero in the words
without a g destination (log 20). -/
def Obligations.MaskRegisters : Prop :=
  ∀ (s : State) (a : At) (n : BitVec 1) (x y : BitVec 4), runner s = some a →
    let u : BitVec 16 := BitVec.ofNat 16 (kVal (seen s a) a x)
    let v : BitVec 16 := BitVec.ofNat 16 (kVal (seen s a) a y)
    kVal (seen s a) a x < 2 ^ 16 → kVal (seen s a) a y < 2 ^ 16 →
    (∀ d : BitVec 4,
      let gives (i : Instr) (r : BitVec 16) : Prop := Runs i s (fun t => DoneK (seen s a) t a d r.toNat)
      gives (.kand d 0 x y) (u &&& v) ∧ gives (.kor d 0 x y) (u ||| v) ∧ gives (.kxor d 0 x y) (u ^^^ v) ∧
      gives (.kandn d 0 x y) (u &&& ~~~v) ∧ gives (.knot d 0 x) (~~~u) ∧
      ∀ b : BitVec 6, srcReady (seen s a) a b →
        let w := src (seen s a) a b
        gives (.kshl d 0 x b) (if 16 ≤ w.toNat then 0 else u <<< w.toNat) ∧
        gives (.kshr d 0 x b) (if 16 ≤ w.toNat then 0 else u >>> w.toNat) ∧
        gives (.kmovk d 0 b) (BitVec.ofNat 16 w.toNat) ∧
        gives (.kbit d 0 x b) (u ||| (1#16 <<< (w.toNat % 16))) ∧
        ∀ c : BitVec 6, srcReady (seen s a) a c →
          gives (.kldm d 0 b c) (BitVec.ofNat 16 (w.toNat / 2 ^ ((src (seen s a) a c).toNat % 64)))) ∧
    (∀ d : BitVec 5, dstReady (seen s a) a d n →
      let gives (i : Instr) (r : Nat) : Prop :=
        Runs i s (fun t => DoneG 4 (seen s a) t a d n (BitVec.ofNat 64 r) (BitVec.ofNat 64 r))
      gives (.kmovg d n x) u.toNat ∧ gives (.kpop d n x) ((List.range 16).filter (fun j => u.getLsbD j)).length ∧
      ∃ k, k ≤ 16 ∧ (∀ j, j < k → u.getLsbD j = false) ∧ (k < 16 → u.getLsbD k = true) ∧ gives (.kffs d n x) k) ∧
    (∀ (d : BitVec 3) (b : BitVec 6), pReady (seen s a) a d → srcReady (seen s a) a b →
      Runs (.ktst d 0 x b) s (fun t => DoneP (seen s a) t a d (u.getLsbD ((src (seen s a) a b).toNat % 16))))

/-- R177: the shape instructions, which saturate, and which leave the entries of the queues as they are. EMOV, EMIN, ESUB and
EADD have no g destination, and their words have nw zero. -/
def Obligations.ShapeRegisters : Prop :=
  ∀ (s : State) (a : At) (n : BitVec 1) (x : BitVec 4), runner s = some a →
    let u := eVal (seen s a) a x
    u < 2 ^ 32 →
    (∀ (d : BitVec 4) (b : BitVec 6), srcReady (seen s a) a b →
      let v := (src (seen s a) a b).toNat % 2 ^ 32
      let gives (i : Instr) (r : Nat) : Prop := Runs i s (fun t => DoneE (seen s a) t a d r)
      gives (.emov d 0 b) v ∧ gives (.emin d 0 x b) (min u v) ∧ gives (.esub d 0 x b) (u - v) ∧
      gives (.eadd d 0 x b) (min (2 ^ 32 - 1) (u + v))) ∧
    (∀ d : BitVec 5, dstReady (seen s a) a d n →
      Runs (.eget d n x) s (fun t => DoneG 4 (seen s a) t a d n (BitVec.ofNat 64 u) (BitVec.ofNat 64 u))) ∧
    (∀ b : BitVec 6, srcReady (seen s a) a b →
      Runs (.eclr b) s (fun t => Alone (seen s a) t a ∧ Follows 4 0 (strandAt (seen s a) a) (strandAt t a) ∧
        (∀ i : BitVec 4, eVal t a i = if (src (seen s a) a b).getLsbD i.toNat then 0 else eVal (seen s a) a i) ∧
        { (strandAt t a).still with e := [] } = { (strandAt (seen s a) a).still with e := [] })) ∧
    let fn (i : Instr) (k : Nat) : Prop := (encode i).map (·.toNat % 256) = [k]
    (∀ (d : BitVec 4) (b : BitVec 6), fn (.emov d 0 b) 0 ∧ fn (.emin d 0 x b) 2 ∧ fn (.esub d 0 x b) 3 ∧
      fn (.eadd d 0 x b) 4 ∧ fn (.eclr b) 5 ∧
      (encode (.eclr b)).map (fun w => (w.toNat / 2 ^ 21 % 32, w.toNat / 2 ^ 8 % 64)) = [(0, 0)]) ∧
    ∀ d : BitVec 5, fn (.eget d n x) 1

/-! ## Floating point (R172 to R175) -/

/-- R172, R173: the arithmetic of majors 0x0F and 0x10 leaves an exposed write of latency 4. The operands are the low bits of
the format's width, and a result of fewer than 64 bits stands in the low bits of d. Sum, product and comparison are those of
Float on the values the patterns have (log 15, log 16). R72, R73, R172: with a NaN among their operands, minimum, maximum and
the sign operations give the canonical NaN, and a comparison is false. Two numbers are ordered: minimum gives the lower
operand, maximum the higher, a comparison is that of their order, in which -0 lies below +0. The sign operations clear or
invert the sign bit of a number and keep its other bits. -/
def Obligations.FloatArithmetic : Prop :=
  (∀ (s : State) (a : At) (d : BitVec 5) (n : BitVec 1) (x y : BitVec 6), runner s = some a →
       srcReady (seen s a) a x → srcReady (seen s a) a y → dstReady (seen s a) a d n →
       let gives (i : Instr) (r : Nat) : Prop := Runs i s (fun t => DoneLat 4 4 (seen s a) t a d n (BitVec.ofNat 64 r) 0)
       let ud := (src (seen s a) a x).toNat
       let vd := (src (seen s a) a y).toNat
       let us := ud % 2 ^ 32
       let vs := vd % 2 ^ 32
       let rnd (f : Nat) (v : FV) : Nat := encodeFmt f 0 v
       gives (.faddD d n x y) (rnd 1 (.sum [decodeFmt 1 ud, decodeFmt 1 vd])) ∧
       gives (.faddS d n x y) (rnd 2 (.sum [decodeFmt 2 us, decodeFmt 2 vs])) ∧
       gives (.fsubD d n x y) (rnd 1 (.sum [decodeFmt 1 ud, (decodeFmt 1 vd).neg])) ∧
       gives (.fsubS d n x y) (rnd 2 (.sum [decodeFmt 2 us, (decodeFmt 2 vs).neg])) ∧
       gives (.fmulD d n x y) (rnd 1 ((decodeFmt 1 ud).mul (decodeFmt 1 vd))) ∧
       gives (.fmulS d n x y) (rnd 2 ((decodeFmt 2 us).mul (decodeFmt 2 vs))) ∧
       gives (.fminD d n x y) (fminmax 1 false ud vd) ∧ gives (.fminS d n x y) (fminmax 2 false us vs) ∧
       gives (.fmaxD d n x y) (fminmax 1 true ud vd) ∧ gives (.fmaxS d n x y) (fminmax 2 true us vs) ∧
       gives (.fabsD d n x) (fabsBits 1 ud) ∧ gives (.fabsS d n x) (fabsBits 2 us) ∧
       gives (.fnegD d n x) (fnegBits 1 ud) ∧ gives (.fnegS d n x) (fnegBits 2 us) ∧
       gives (.fceqD d n x y) (b2n (fcompare 1 (fun c => c == 0) ud vd)) ∧
       gives (.fceqS d n x y) (b2n (fcompare 2 (fun c => c == 0) us vs)) ∧
       gives (.fcltD d n x y) (b2n (fcompare 1 (fun c => decide (c < 0)) ud vd)) ∧
       gives (.fcltS d n x y) (b2n (fcompare 2 (fun c => decide (c < 0)) us vs)) ∧
       gives (.fcleD d n x y) (b2n (fcompare 1 (fun c => decide (c ≤ 0)) ud vd)) ∧
       gives (.fcleS d n x y) (b2n (fcompare 2 (fun c => decide (c ≤ 0)) us vs)) ∧
       (gBusy (strandAt (seen s a) a) d.toNat = false →
         let w := (gVal (strandAt (seen s a) a) d.toNat).toNat
         gives (.ffmaD d n x y) (rnd 1 (.sum [(decodeFmt 1 ud).mul (decodeFmt 1 vd), decodeFmt 1 w])) ∧
         gives (.ffmaS d n x y) (rnd 2 (.sum [(decodeFmt 2 us).mul (decodeFmt 2 vs), decodeFmt 2 (w % 2 ^ 32)])))) ∧
  (∀ (f x y : Nat), f = 1 ∨ f = 2 →
       let w := if f = 1 then 64 else 32
       let u := decodeFmt f x
       let v := decodeFmt f y
       canonNaN f = (if f = 1 then 0x7FF8000000000000 else 0x7FC00000) ∧
       (u = .nan → fabsBits f x = canonNaN f ∧ fnegBits f x = canonNaN f ∧
         (∀ m, fminmax f m x y = canonNaN f ∧ fminmax f m y x = canonNaN f) ∧
         ∀ g, fcompare f g x y = false ∧ fcompare f g y x = false) ∧
       (u ≠ .nan → x < 2 ^ w → ∀ i, (fabsBits f x).testBit i = (x.testBit i && decide (i ≠ w - 1)) ∧
         (fnegBits f x).testBit i = (x.testBit i ^^ decide (i = w - 1))) ∧
       (u ≠ .nan → v ≠ .nan → ∃ c : Int, FV.cmp u v = some c ∧ fminmax f false x y = (if 0 < c then y else x) ∧
         fminmax f true x y = (if c < 0 then y else x) ∧ ∀ g, fcompare f g x y = g c) ∧
       (∀ (p q : Q) (b c : Option Bool), u = .fin p b → v = .fin q c → (p.num ≠ 0 ∨ q.num ≠ 0) →
         FV.cmp u v = some (p.add q.neg).num.sign) ∧
       (∀ (p q : Q) (b c : Bool), u = .fin p (some b) → v = .fin q (some c) → p.num = 0 → q.num = 0 →
         FV.cmp u v = some (if b = c then 0 else if b then -1 else 1)))

/-- R174, R175: conversions leave a write of latency 4, the approximated functions one of latency 6; the .d forms of the
latter round to FP32, compute, and widen. -/
def Obligations.FloatConversions : Prop :=
  ∀ (s : State) (a : At) (d : BitVec 5) (n : BitVec 1) (x : BitVec 6) (m : BitVec 3), runner s = some a →
    srcReady (seen s a) a x → dstReady (seen s a) a d n →
    let u := (src (seen s a) a x).toNat
    let gives (l : Nat) (i : Instr) (r : Dword) : Prop := Runs i s (fun t => DoneLat l 4 (seen s a) t a d n r 0)
    let conv (i : Instr) (from' to' w : Nat) : Prop :=
      gives 4 i (BitVec.ofNat 64 (encodeFmt to' m.toNat (decodeFmt from' (u % 2 ^ w))))
    conv (.fcvtF32F64 d n x m) 1 2 64 ∧ conv (.fcvtF64F32 d n x m) 2 1 32 ∧ conv (.fcvtF16F32 d n x m) 2 3 32 ∧
    conv (.fcvtF32F16 d n x m) 3 2 16 ∧ conv (.fcvtBf16F32 d n x m) 2 4 32 ∧ conv (.fcvtF32Bf16 d n x m) 4 2 16 ∧
    conv (.fcvtKf8F32 d n x m) 2 5 32 ∧ conv (.fcvtF32Kf8 d n x m) 5 2 8 ∧ conv (.fcvtS64F64 d n x m) 1 0x0B 64 ∧
    conv (.fcvtF64S64 d n x m) 0x0B 1 64 ∧ conv (.fcvtF32S32 d n x m) 0x0A 2 32 ∧ conv (.fcvtN64F64 d n x m) 1 0x0F 64 ∧
    conv (.fcvtF64N64 d n x m) 0x0F 1 64 ∧
    gives 4 (.fcvtS32F32 d n x m) (BitVec.ofInt 64 (sgn (encodeFmt 0x0A m.toNat (decodeFmt 2 (u % 2 ^ 32))) 32)) ∧
    (let narrow := encodeFmt 2 0 (decodeFmt 1 u)
     let both (is id' : Instr) (f : Nat → Nat) : Prop :=
       gives 6 is (BitVec.ofNat 64 (f (u % 2 ^ 32))) ∧ gives 6 id' (BitVec.ofNat 64 (encodeFmt 1 0 (decodeFmt 2 (f narrow))))
     both (.exp2S d n x) (.exp2D d n x) exp2k ∧ both (.log2S d n x) (.log2D d n x) log2k ∧
     both (.rcpS d n x) (.rcpD d n x) rcpk ∧ both (.rsqS d n x) (.rsqD d n x) rsqk)

/-! ## Loads, stores, full-empty accesses, atomics (R44, R50, R140, R168 to R171, R406) -/

/-- R140, R144, R168, R275: a load of local pond issues when its base and its destination are ready and its address passes
R406, and leaves an exposed write of latency 4 of the bytes, sign-extended or zero-extended; it is performed 4 cycles later. -/
def Obligations.LoadsOfLocalPond : Prop :=
  ∀ (s : State) (a : At) (d : BitVec 5) (b : BitVec 6), runner s = some a →
    srcReady (seen s a) a b → dstReady (seen s a) a d 0 →
    let base := src (seen s a) a b
    let loads (mk : BitVec 12 → Instr) (size : Nat) (signed : Bool) : Prop :=
      InForms mk base size fun len ad i =>
        checkAddr [0, 1, 2, 3] size size base.toNat ad = .ok () → bits ad 60 4 = 2 →
        placePoison (seen s a) (lkeyOf (seen s a) a) (placeOf a.c ad) size = none →
        let v := leNat (loadN (seen s a) (locPond a.c (bits ad 0 60)) size)
        Runs i s (fun t => DoneLat 4 len (seen s a) t a d 0
          (if signed then BitVec.ofInt 64 (sgn v (8 * size)) else BitVec.ofNat 64 v) 0 Strand.noLd ∧
          (strandAt t a).ldReady = s.cycle + 4)
    loads (fun o => .ldS8 d b o) 1 true ∧ loads (fun o => .ldN8 d b o) 1 false ∧ loads (fun o => .ldS16 d b o) 2 true ∧
    loads (fun o => .ldN16 d b o) 2 false ∧ loads (fun o => .ldS32 d b o) 4 true ∧ loads (fun o => .ldN32 d b o) 4 false ∧
    loads (fun o => .ldD d b o) 8 false

/-- R44, R144, R168, R169: every other load of this device is scoreboarded: fewer than 32 accesses are out, its destination
waits, and the value it will deliver is the bytes where it reaches, as they stand at its issue by the model's choice (log 7).
u is the state with the translation in the TLBs. -/
def Obligations.LoadsScoreboarded : Prop :=
  ∀ (s : State) (a : At) (d : BitVec 5) (b : BitVec 6), runner s = some a →
    srcReady (seen s a) a b → dstReady (seen s a) a d 0 → sbRoom (strandAt (seen s a) a) = true →
    let base := src (seen s a) a b
    let loads (mk : BitVec 12 → Instr) (size : Nat) (signed : Bool) : Prop :=
      InForms mk base size fun len ad i =>
        ∀ (u : State) (r : Reach), checkAddr [0, 1, 2, 3] size size base.toNat ad = .ok () → bits ad 60 4 ≠ 2 →
        reach (seen s a) a ad false = .ok (u, r) → r.here = true → ccPoison u a r size = .ok () →
        let v := reachRead u a r size
        Runs i s (fun t => DoneSb len u t a (destG d 0) true true
          (some (if signed then BitVec.ofInt 64 (sgn v (8 * size)) else BitVec.ofNat 64 v)))
    loads (fun o => .ldS8 d b o) 1 true ∧ loads (fun o => .ldN8 d b o) 1 false ∧ loads (fun o => .ldS16 d b o) 2 true ∧
    loads (fun o => .ldN16 d b o) 2 false ∧ loads (fun o => .ldS32 d b o) 4 true ∧ loads (fun o => .ldN32 d b o) 4 false ∧
    loads (fun o => .ldD d b o) 8 false

/-- R168, R169: a store writes the low bytes of its register where its address reaches, and no other byte of memory. A store
to local pond is performed at once; another is counted until it is performed, its bytes written at its issue (log 7). -/
def Obligations.Stores : Prop :=
  ∀ (s : State) (a : At) (r : BitVec 5) (b : BitVec 6), s.memOk → runner s = some a →
    srcReady (seen s a) a b → gBusy (strandAt (seen s a) a) r.toNat = false →
    let base := src (seen s a) a b
    let v := (gVal (strandAt (seen s a) a) r.toNat).toNat
    let stores (mk : BitVec 12 → Instr) (size : Nat) : Prop :=
      InForms mk base size fun len ad i =>
        ∀ (u : State) (x : Reach), checkAddr [0, 1, 2, 3] size size base.toNat ad = .ok () →
        reach (seen s a) a ad true = .ok (u, x) → x.here = true →
        (bits ad 60 4 = 2 → Runs i s (fun t => Wrote u t (reachLoc u a x) size v ∧ Alone u t a State.noMem ∧
          t.sbNext = u.sbNext ∧ Follows len 0 (strandAt u a) (strandAt t a) ∧
          (strandAt t a).still = (strandAt u a).still)) ∧
        (bits ad 60 4 ≠ 2 → sbRoom (strandAt (seen s a) a) = true →
          Runs i s (fun t => Wrote u t (reachLoc u a x) size v ∧
            DoneSb len u t a .none true false (some 0) State.noMem))
    stores (fun o => .stB r b o) 1 ∧ stores (fun o => .stH r b o) 2 ∧ stores (fun o => .stW r b o) 4 ∧
    stores (fun o => .stD r b o) 8

/-- R170: STF writes the low bytes of its register to pond and sets the granule full in the same step, that of its issue
(log 7); no other byte and no other granule changes. -/
def Obligations.StoreFull : Prop :=
  ∀ (s : State) (a : At) (r : BitVec 5) (b : BitVec 6), s.memOk → runner s = some a →
    srcReady (seen s a) a b → gBusy (strandAt (seen s a) a) r.toNat = false →
    let base := src (seen s a) a b
    let v := (gVal (strandAt (seen s a) a) r.toNat).toNat
    let stores (mk : BitVec 12 → Instr) (size : Nat) : Prop :=
      InForms mk base size fun len ad i =>
        checkAddr [2, 3] size size base.toNat ad = .ok () →
        let p := placeOf a.c ad
        let full (t : State) : Prop := Wrote (seen s a) t (locPond p.core p.off) size v ∧
          ∀ c o, c ≤ 1727 → o < 2 ^ 20 →
            isFull t c o = (isFull (seen s a) c o || decide (granule c o = granule p.core p.off))
        (bits ad 60 4 = 2 → Runs i s (fun t => full t ∧ Alone (seen s a) t a State.noPond Core.noBanks ∧
          t.sbNext = (seen s a).sbNext ∧ Follows len 0 (strandAt (seen s a) a) (strandAt t a) ∧
          (strandAt t a).still = (strandAt (seen s a) a).still)) ∧
        (bits ad 60 4 = 3 → sbRoom (strandAt (seen s a) a) = true →
          Runs i s (fun t => full t ∧ DoneSb len (seen s a) t a .none true false (some 0) State.noPond Core.noBanks))
    stores (fun o => .stfW r b o) 4 ∧ stores (fun o => .stfD r b o) 8

/-- R50, R170: LDF of a full granule reads the word, zero-extended, with the latency or the scoreboard of its space; .take
leaves the granule empty, .keep leaves it full; the word is that of its issue (log 7). R50, R170: while its granule is empty,
an LDF has not issued: its strand is in the waiting state, at the LDF, and nothing else has changed, which for one of the
cluster's network is the model's choice (log 75). R50: one granule of 16 bytes is set or cleared, and with it
only a count of its bank's events (R426). -/
def Obligations.LoadFull : Prop :=
  (∀ (s : State) (a : At) (d : BitVec 5) (b : BitVec 6), runner s = some a →
       srcReady (seen s a) a b → dstReady (seen s a) a d 0 →
       let base := src (seen s a) a b
       let loads (mk : BitVec 12 → Instr) (size : Nat) (take : Bool) : Prop :=
         InForms mk base size fun len ad i =>
           let p := placeOf a.c ad
           let u := if take then clearFull (seen s a) p.core p.off else seen s a
           let v : Dword := BitVec.ofNat 64 (leNat (loadN (seen s a) (locPond p.core p.off) size))
           checkAddr [2, 3] size size base.toNat ad = .ok () → isFull (seen s a) p.core p.off = true →
           placePoison (seen s a) (lkeyOf (seen s a) a) p size = none →
           (bits ad 60 4 = 2 → Runs i s (fun t => DoneLat 4 len u t a d 0 v 0 Strand.noLd ∧
             (strandAt t a).ldReady = s.cycle + 4)) ∧
           (bits ad 60 4 = 3 → sbRoom (strandAt (seen s a) a) = true →
             Runs i s (fun t => DoneSb len u t a (destG d 0) true true (some v)))
       loads (fun o => .ldfWKeep d b o) 4 false ∧ loads (fun o => .ldfWTake d b o) 4 true ∧
       loads (fun o => .ldfDKeep d b o) 8 false ∧ loads (fun o => .ldfDTake d b o) 8 true) ∧
  (∀ (s : State) (a : At) (d : BitVec 5) (b : BitVec 6), runner s = some a →
       srcReady (seen s a) a b → dstReady (seen s a) a d 0 → sbRoom (strandAt (seen s a) a) = true →
       let base := src (seen s a) a b
       let waits (mk : BitVec 12 → Instr) (size : Nat) : Prop :=
         InForms mk base size fun _ ad i =>
           checkAddr [2, 3] size size base.toNat ad = .ok () →
           isFull (seen s a) (placeOf a.c ad).core (placeOf a.c ad).off = false →
           Runs i s (fun t => Alone (seen s a) t a ∧ (strandAt t a).status = .waiting ∧
             (∃ w, (strandAt t a).wait = some w ∧ w.kind = .granule (ad / 16 * 16)) ∧
             { strandAt t a with status := .running, wait := none } =
               { strandAt (seen s a) a with status := .running, wait := none })
       waits (fun o => .ldfWKeep d b o) 4 ∧ waits (fun o => .ldfWTake d b o) 4 ∧
       waits (fun o => .ldfDKeep d b o) 8 ∧ waits (fun o => .ldfDTake d b o) 8) ∧
  (∀ (s : State) (c o : Nat), o < 2 ^ 20 →
       (∀ c' o', o' < 2 ^ 20 → isFull (setFull s c o) c' o' = (isFull s c' o' || decide (c' = c ∧ o' / 16 = o / 16)) ∧
         isFull (clearFull s c o) c' o' = (isFull s c' o' && !decide (c' = c ∧ o' / 16 = o / 16))) ∧
       (∀ t, t = setFull s c o ∨ t = clearFull s c o → { t with fe := s.fe, cores := s.cores } = s ∧
         ∀ x, (coreAt t x).noBanks = (coreAt s x).noBanks))

/-- R133, R171: an atomic reads the old value, writes op(old, v) in its place, and sends the old value, zero-extended, to d;
it acts at its issue (log 7). -/
def Obligations.Atomics : Prop :=
  ∀ (s : State) (a : At) (d : BitVec 5) (n : BitVec 1) (x y : BitVec 6) (u : State) (r : Reach), s.memOk →
    runner s = some a →
    srcReady (seen s a) a x → srcReady (seen s a) a y → dstReady (seen s a) a d n →
    sbRoom (strandAt (seen s a) a) = true → r.here = true →
    let ad := (src (seen s a) a x).toNat
    reach (seen s a) a ad true = .ok (u, r) →
    let does (i : Instr) (size : Nat) (op : Nat → Nat → Nat) : Prop :=
      checkAddr [0, 1, 2, 3] size size ad ad = .ok () → ccPoison u a r size = .ok () →
      let old := reachRead u a r size
      let v := (src (seen s a) a y).toNat % 2 ^ (8 * size)
      Runs i s (fun t => Wrote u t (reachLoc u a r) size (op old v) ∧
        DoneSb 4 u t a (destG d n) true false (some (BitVec.ofNat 64 old)) State.noMem)
    let both (iw id' : Instr) (op : Nat → Nat → Nat → Nat) : Prop := does iw 4 (op 32) ∧ does id' 8 (op 64)
    both (.aaddW d n x y) (.aaddD d n x y) (fun w old v => (old + v) % 2 ^ w) ∧
    both (.asaddW d n x y) (.asaddD d n x y) (fun w old v => min (old + v) (2 ^ w - 1)) ∧
    both (.aminW d n x y) (.aminD d n x y) (fun w old v => if sgn v w < sgn old w then v else old) ∧
    both (.amaxW d n x y) (.amaxD d n x y) (fun w old v => if sgn old w < sgn v w then v else old) ∧
    both (.aminnW d n x y) (.aminnD d n x y) (fun _ old v => min old v) ∧
    both (.amaxnW d n x y) (.amaxnD d n x y) (fun _ old v => max old v) ∧
    both (.aandW d n x y) (.aandD d n x y) (fun _ old v => Nat.land old v) ∧
    both (.aorW d n x y) (.aorD d n x y) (fun _ old v => Nat.lor old v) ∧
    both (.axorW d n x y) (.axorD d n x y) (fun _ old v => Nat.xor old v) ∧
    both (.aswapW d n x y) (.aswapD d n x y) (fun _ _ v => v) ∧
    (gBusy (strandAt (seen s a) a) d.toNat = false →
      both (.acasW d n x y) (.acasD d n x y) (fun w old v =>
        if old = (gVal (strandAt (seen s a) a) d.toNat).toNat % 2 ^ w then v else old)) ∧
    does (.afaddW d n x y) 4 (fun old v => encodeFmt 2 0 (.sum [decodeFmt 2 old, decodeFmt 2 v]))

/-- R319, R321: a load, a store or an atomic on the symmetric heap leaves for its home device: nothing of this device's
memory changes, and its result waits for the response. kind and size name the access: 0 a load (8 more for a load that
sign-extends), 1 a store, 2 to 13 the atomics in the order of R171; the access's word and pc stand beside it (R456). -/
def Obligations.RemoteAccesses : Prop :=
  ∀ (s : State) (a : At) (d : BitVec 5) (n : BitVec 1) (x y : BitVec 6) (u : State) (va lidx : Nat), runner s = some a →
    srcReady (seen s a) a x → sbRoom (strandAt (seen s a) a) = true →
    let base := src (seen s a) a x
    let leaves (i : Instr) (len : Nat) (wr : Bool) (ad n kind size v c : Nat) (dest : Dest) : Prop :=
      checkAddr [0, 1, 2, 3] n n base.toNat ad = .ok () → bits ad 60 4 = 0 →
      reach (seen s a) a ad wr = .ok (u, .remote va lidx) →
      Runs i s (fun t => t.mem = (seen s a).mem ∧
        (strandAt t a).sb = (strandAt u a).sb ++ [⟨u.sbNext, dest, true, decide (kind = 0), none⟩] ∧
        (strandAt t a).g = (strandAt u a).g ∧ Follows len 0 (strandAt u a) (strandAt t a) ∧
        t.remotes = u.remotes ++ [⟨u.sbNext, a.c, a.x, ctxOf u a, va, lidx, kind, size, v, c, u.sbNext, none, u.cycle,
          ccWord u a, (strandAt u a).pc.toNat⟩])
    (gBusy (strandAt (seen s a) a) d.toNat = false →
      let loads (mk : BitVec 12 → Instr) (n size : Nat) : Prop :=
        InForms mk base n fun len ad i => leaves i len false ad n 0 size 0 0 (destG d 0)
      loads (fun o => .ldS8 d x o) 1 9 ∧ loads (fun o => .ldN8 d x o) 1 1 ∧ loads (fun o => .ldS16 d x o) 2 10 ∧
      loads (fun o => .ldN16 d x o) 2 2 ∧ loads (fun o => .ldS32 d x o) 4 12 ∧ loads (fun o => .ldN32 d x o) 4 4 ∧
      loads (fun o => .ldD d x o) 8 8) ∧
    (gBusy (strandAt (seen s a) a) d.toNat = false →
      let stores (mk : BitVec 12 → Instr) (n : Nat) : Prop :=
        InForms mk base n fun len ad i => leaves i len true ad n 1 n (gVal (strandAt (seen s a) a) d.toNat).toNat 0 .none
      stores (fun o => .stB d x o) 1 ∧ stores (fun o => .stH d x o) 2 ∧ stores (fun o => .stW d x o) 4 ∧
      stores (fun o => .stD d x o) 8) ∧
    (srcReady (seen s a) a y → gBusy (strandAt (seen s a) a) d.toNat = false →
      let one (i : Instr) (kind n' c : Nat) : Prop :=
        leaves i 4 true base.toNat n' kind n' ((src (seen s a) a y).toNat % 2 ^ (8 * n')) c (destG d n)
      let both (iw id' : Instr) (kind : Nat) : Prop := one iw kind 4 0 ∧ one id' kind 8 0
      both (.aaddW d n x y) (.aaddD d n x y) 2 ∧ both (.asaddW d n x y) (.asaddD d n x y) 3 ∧
      both (.aminW d n x y) (.aminD d n x y) 4 ∧ both (.amaxW d n x y) (.amaxD d n x y) 5 ∧
      both (.aminnW d n x y) (.aminnD d n x y) 6 ∧ both (.amaxnW d n x y) (.amaxnD d n x y) 7 ∧
      both (.aandW d n x y) (.aandD d n x y) 8 ∧ both (.aorW d n x y) (.aorD d n x y) 9 ∧
      both (.axorW d n x y) (.axorD d n x y) 10 ∧ both (.aswapW d n x y) (.aswapD d n x y) 11 ∧
      one (.acasW d n x y) 12 4 ((gVal (strandAt (seen s a) a) d.toNat).toNat % 2 ^ 32) ∧
      one (.acasD d n x y) 12 8 ((gVal (strandAt (seen s a) a) d.toNat).toNat % 2 ^ 64) ∧ one (.afaddW d n x y) 13 4 0)

/-- R406: the checks of an address in their order, each with its code, for an instruction that admits the spaces listed,
wants an alignment and touches len bytes; base is the address the sum was formed from. R400, R406: an address that fails a
check traps its instruction, whatever else it would wait for: a load, a store or an atomic whose base is ready. -/
def Obligations.AddressChecks : Prop :=
  (∀ (spaces : List Nat) (align len base ad : Nat), (∀ x, x ∈ spaces → x ≤ 4) →
       let sp := ad / 2 ^ 60 % 16
       let off := ad % 2 ^ 60
       let width := if sp = 0 then 52 else if sp = 1 then 29 else if sp = 2 then 20 else if sp = 3 then 26 else 14
       let limit := if sp = 0 then 2 ^ 52 else if sp = 1 then 384 * 2 ^ 20 else if sp = 4 then 2 ^ 14 else 2 ^ 20
       let inSpace := off < 2 ^ width ∧ (sp = 1 → off < limit)
       let at' := if sp = 3 then ad % 2 ^ 20 else off
       let code (c : Nat) : Prop := ∃ x, checkAddr spaces align len base ad = .error x ∧ x.code = c ∧ x.a0 = ad
       (5 ≤ sp → code 0x21) ∧
       (sp ≤ 4 → sp ∉ spaces → code 0x17) ∧
       (sp ∈ spaces → ¬inSpace → code 0x22) ∧
       (sp ∈ spaces → inSpace → sp = 3 → 48 ≤ ad / 2 ^ 20 % 64 → code 0x23) ∧
       (sp ∈ spaces → inSpace → (sp = 3 → ad / 2 ^ 20 % 64 < 48) → base / 2 ^ 60 % 16 ≠ sp → code 0x24) ∧
       (sp ∈ spaces → inSpace → (sp = 3 → ad / 2 ^ 20 % 64 < 48) → base / 2 ^ 60 % 16 = sp → align ≠ 0 → ad % align ≠ 0 →
         code 0x20) ∧
       (sp ∈ spaces → inSpace → (sp = 3 → ad / 2 ^ 20 % 64 < 48) → base / 2 ^ 60 % 16 = sp → (align ≠ 0 → ad % align = 0) →
         limit < at' + len → code 0x22) ∧
       (sp ∈ spaces → inSpace → (sp = 3 → ad / 2 ^ 20 % 64 < 48) → base / 2 ^ 60 % 16 = sp → (align ≠ 0 → ad % align = 0) →
         at' + len ≤ limit → checkAddr spaces align len base ad = .ok ())) ∧
  (∀ (s : State) (a : At) (d : BitVec 5) (n : BitVec 1) (x y : BitVec 6) (c : Cause), runner s = some a →
       srcReady (seen s a) a x →
       let base := src (seen s a) a x
       let traps (i : Instr) : Prop := exec i s = .next (signalTrap (seen s a) a (ccTrap (seen s a) a c))
       let mem (mk : BitVec 12 → Instr) (spaces : List Nat) (size : Nat) : Prop :=
         InForms mk base size fun _ ad i => checkAddr spaces size size base.toNat ad = .error c → traps i
       mem (fun o => .ldS8 d x o) [0, 1, 2, 3] 1 ∧ mem (fun o => .ldN8 d x o) [0, 1, 2, 3] 1 ∧
       mem (fun o => .ldS16 d x o) [0, 1, 2, 3] 2 ∧ mem (fun o => .ldN16 d x o) [0, 1, 2, 3] 2 ∧
       mem (fun o => .ldS32 d x o) [0, 1, 2, 3] 4 ∧ mem (fun o => .ldN32 d x o) [0, 1, 2, 3] 4 ∧
       mem (fun o => .ldD d x o) [0, 1, 2, 3] 8 ∧ mem (fun o => .stB d x o) [0, 1, 2, 3] 1 ∧
       mem (fun o => .stH d x o) [0, 1, 2, 3] 2 ∧ mem (fun o => .stW d x o) [0, 1, 2, 3] 4 ∧
       mem (fun o => .stD d x o) [0, 1, 2, 3] 8 ∧ mem (fun o => .stfW d x o) [2, 3] 4 ∧ mem (fun o => .stfD d x o) [2, 3] 8 ∧
       mem (fun o => .ldfWKeep d x o) [2, 3] 4 ∧ mem (fun o => .ldfWTake d x o) [2, 3] 4 ∧
       mem (fun o => .ldfDKeep d x o) [2, 3] 8 ∧ mem (fun o => .ldfDTake d x o) [2, 3] 8 ∧
       (checkAddr [0, 1, 2, 3] 4 4 base.toNat base.toNat = .error c → ∀ i, i ∈ [Instr.aaddW d n x y, .asaddW d n x y,
         .aminW d n x y, .amaxW d n x y, .aminnW d n x y, .amaxnW d n x y, .aandW d n x y, .aorW d n x y, .axorW d n x y,
         .aswapW d n x y, .acasW d n x y, .afaddW d n x y] → traps i) ∧
       (checkAddr [0, 1, 2, 3] 8 8 base.toNat base.toNat = .error c → ∀ i, i ∈ [Instr.aaddD d n x y, .asaddD d n x y,
         .aminD d n x y, .amaxD d n x y, .aminnD d n x y, .amaxnD d n x y, .aandD d n x y, .aorD d n x y, .axorD d n x y,
         .aswapD d n x y, .acasD d n x y] → traps i))

/-- R60: a translation fills the TLBs of its core and of its die, and changes nothing else but the samples that monitors of
walks are to take (R360). R44, R60, R61, R65, R101, R144, R274: a page walk that ends fills its die's TLB, or fails what waits
for it; a page copy that ends has moved its page to its frame and made the page local at that frame; a pool unit's cycle
applies the operations that stand first; a result that has come back reaches its register. Each of these steps completes
whenever its unit has it to take: the oldest walk of a die, while the package runs (R357), a copy that runs, any unit while
the package runs, a result that is there. -/
def Obligations.AnswersArrive : Prop :=
  (∀ (s u : State) (c ctx va : Nat) (wr fetch : Bool) (x : Xl), translate s c ctx va wr fetch = .ok (u, x) →
       { u with cores := s.cores, dies := s.dies, samples := s.samples } = s ∧
       (∀ k, { coreAt u k with tlb := [] } = { coreAt s k with tlb := [] }) ∧ (∀ k, k ≠ c → coreAt u k = coreAt s k) ∧
       (∀ k, { dieAt u k with tlb := [] } = { dieAt s k with tlb := [] }) ∧ (∀ k, k ≠ c / 288 → dieAt u k = dieAt s k)) ∧
  ((∀ (s : State) (d : BitVec 3) (w : Walk) (rest : List Walk), packageRuns s = true → (dieAt s d.toNat).walks = w :: rest →
       (∀ e, walk s w.ctx w.va = .error e → ∃ u,
         exec (.pageWalkComplete d) s = .next (w.who.foldl (fun s r => failWalk s w.ctx r) u) ∧
         (dieAt u d.toNat).walks = rest ∧ (∀ k, k ≠ d.toNat → dieAt u k = dieAt s k) ∧
         { u with dies := [], samples := [] } = { s with dies := [], samples := [] }) ∧
       ∀ (leaf pa psz : Nat), walk s w.ctx w.va = .ok (leaf, pa, psz) →
       Runs (.pageWalkComplete d) s fun t => (dieAt t d.toNat).walks = rest ∧
         (⟨w.ctx, psz, w.va / pageSize psz, leaf, pa⟩ : Tlb) ∈ (dieAt t d.toNat).tlb ∧
         (∀ k, k ≠ d.toNat → dieAt t k = dieAt s k) ∧ { t with dies := [], samples := [] } = { s with dies := [], samples := [] }) ∧
     (∀ (s : State) (c i : Nat) (bad : BitVec 2) (p : PageCopy), (coreAt s c).pages[i]? = some p → p.running = true →
       let leaf := loadNat s p.pte 8
       let far := bit leaf 4 = true
       let up := portUp s (pteAddr leaf) = true
       let gives (t : State) : Prop := exec (.pageCopyComplete c i bad) s = .next t
       (¬far → gives (dropPages (releasePage s p.pte) p.pte)) ∧ (far → (bad = 2 ∨ ¬up) → gives (failCopy s p 0x33)) ∧
       (far → up → (bad = 1 ∨ bad = 3 ∨ bad = 0 ∧ poisoned s (pteAddr leaf) (pageSize p.psz) ≠ none) →
         gives (failCopy s p 0x32)) ∧
       (far → up → bad = 0 → poisoned s (pteAddr leaf) (pageSize p.psz) = none → gives (bringIn s p leaf))) ∧
     (∀ (s : State) (n : Nat), packageRuns s = true →
       exec (.poolUnitCycle n) s = .next ((unitAt s n).heads.foldl (fun s h => retryRuns s n h) (unitCycle s n))) ∧
     (∀ (s : State) (c i : Nat) (p : PageCopy), s.memOk → (coreAt s c).pages[i]? = some p → p.running = true →
       let leaf := loadNat s p.pte 8
       let size := pageSize p.psz
       let far := pteAddr leaf
       bit leaf 4 = true → portUp s far = true → poisoned s far size = none → p.frame % 256 = 0 → p.frame < 2 ^ 44 →
       (p.frame + size ≤ far ∨ far + size ≤ p.frame) → (p.pte + 8 ≤ p.frame ∨ p.frame + size ≤ p.pte) →
       Runs (.pageCopyComplete c i 0) s fun t => (∀ o, o < size → t.mem.read (p.frame + o) = s.mem.read (far + o)) ∧
         pteAddr (loadNat t p.pte 8) = p.frame ∧ bit (loadNat t p.pte 8) 4 = false ∧
         (∀ x, (x < p.frame ∨ p.frame + size ≤ x) → (x < p.pte ∨ p.pte + 8 ≤ x) → t.mem.read x = s.mem.read x) ∧
         ∀ k, ∀ q, q ∈ (coreAt t k).pages → q.pte ≠ p.pte) ∧
     (∀ (s : State) (n : Nat), packageRuns s = true → (unitAt s n).heads = [] → (unitAt s n).waits = [] →
       (unitAt s n).inbox = [] → Runs (.poolUnitCycle n) s fun t =>
         { t with units := [] } = { s with units := [] } ∧ ∀ m, unitAt t m = unitAt s m) ∧
     (∀ (s : State) (a : At) (l1 l2 : List Sb) (e : Sb) (v : Dword), (strandAt s a).sb = l1 ++ e :: l2 → e.val = some v →
       (∀ x, x ∈ l1 → x.val = none) → Runs (.scoreboardReturn a.c a.x) s fun t => Alone s t a ∧ (strandAt t a).sb = l1 ++ l2 ∧
         (∀ r, e.dest = .g r → r ≠ 0 → gVal (strandAt t a) r = v) ∧ (∀ r, e.dest = .p r → r ≠ 0 → pVal (strandAt t a) r = (v != 0)) ∧
         (∀ r, e.dest ≠ .g r → gVal (strandAt t a) r = gVal (strandAt s a) r) ∧
         (∀ r, e.dest ≠ .p r → pVal (strandAt t a) r = pVal (strandAt s a) r) ∧
         { strandAt t a with sb := [], g := [], p := [] } = { strandAt s a with sb := [], g := [], p := [] }))

/-! ## Branches, jumps, loops (R178 to R183, R192) -/

/-- R178, R181: BR jumps when its predicate, inverted by inv, is true, to the first word plus 4 times its offset; else it
goes on in sequence. R179, R180, R404: JAL and JR write the address that follows them and jump; a JR whose target has bits
[1:0] or [63:52] set traps with 0x25 and writes nothing. -/
def Obligations.BranchesAndJumps : Prop :=
  (∀ (s : State) (a : At) (p : BitVec 3) (inv : BitVec 1), runner s = some a → pReady (seen s a) a p →
       pVal (strandAt (seen s a) a) 0 = true ∧
       InWords (fun o => .br p inv o) fun len off i =>
         let t0 := strandAt (seen s a) a
         let taken := (pVal t0 p.toNat ^^ (inv == 1))
         (taken = true → Runs i s (fun t => Alone (seen s a) t a ∧
           Jumped 0 (((t0.pc.toNat : Int) + 4 * off) % 2 ^ 52).toNat t0 (strandAt t a) ∧
           (strandAt t a).g = t0.g ∧ (strandAt t a).pend = t0.pend)) ∧
         (taken = false → Runs i s (fun t => DoneNop len (seen s a) t a))) ∧
  (∀ (s : State) (a : At) (d : BitVec 5) (n : BitVec 1), runner s = some a →
       let t0 := strandAt (seen s a) a
       let link (len : Nat) (target : Nat) (t : State) : Prop := Alone (seen s a) t a ∧
         WroteG d n (BitVec.ofNat 64 ((t0.pc.toNat + len) % 2 ^ 52)) t0 (strandAt t a) ∧ Jumped 0 target t0 (strandAt t a)
       (dstReady (seen s a) a d n → InWords (fun o => .jal d n o) fun len off i =>
         Runs i s (link len (((t0.pc.toNat : Int) + 4 * off) % 2 ^ 52).toNat)) ∧
       (∀ x : BitVec 6, srcReady (seen s a) a x → InWords (fun o => .jr d n x o) fun len off i =>
         let target := (src (seen s a) a x + BitVec.ofInt 64 (4 * off)).toNat
         (target % 4 = 0 → target < 2 ^ 52 → dstReady (seen s a) a d n → Runs i s (link len target)) ∧
         (target % 4 ≠ 0 ∨ 2 ^ 52 ≤ target →
           exec i s = .next (signalTrap (seen s a) a (ccTrap (seen s a) a ⟨0x25, target, 0, 0⟩)))))

/-- R182, R183: LOOP and LOOPI arm a loop of their body with their count, or with the count 0 go on behind the body, the loop
disarmed. A body of no words, or one that does not end at the end of an instruction, traps with 0x1E (R408); that the check walks
the body by its words, up to a page that it cannot read, is the model's reading (log 29). -/
def Obligations.Loops : Prop :=
  ∀ (s : State) (a : At), runner s = some a →
    let t0 := strandAt (seen s a) a
    let arms (i : Instr) (len words count : Nat) : Prop :=
      let start := t0.pc.toNat + len
      let stop := start + 4 * words
      let fits := words ≠ 0 ∧ bodyEnds (seen s a) (ctxOf (seen s a) a) stop (words + 1) start = true
      let went (pc lc : Nat) (l : Option HwLoop) (t : State) : Prop := Alone (seen s a) t a ∧
        (strandAt t a).pc = BitVec.ofNat 52 pc ∧ (strandAt t a).lc = lc ∧ (strandAt t a).loop = l ∧
        (strandAt t a).y = 0 :: t0.y.take 3 ∧ (strandAt t a).status = .running ∧ (strandAt t a).slot = t0.slot + 1 ∧
        (strandAt t a).still = t0.still
      (fits → count ≠ 0 → Runs i s (went start count (some ⟨start, stop⟩))) ∧
      (fits → count = 0 → Runs i s (went stop 0 none)) ∧
      (¬fits → ∃ w, exec i s = .next (signalTrap (seen s a) a (ccTrap (seen s a) a ⟨0x1E, w, 0, 0⟩)))
    (∀ (x : BitVec 6) (l : BitVec 13), srcReady (seen s a) a x →
      arms (.loop x l) 4 l.toNat ((src (seen s a) a x).toNat % 2 ^ 32)) ∧
    (∀ (l : BitVec 5) (c : BitVec 13), arms (.loopi l c) 4 (l.toNat + 1) c.toNat) ∧
    (∀ (imm word : Word) (x : BitVec 6) (l : BitVec 13), decodePrefixed imm word = .ok (.loop x l) → srcReady (seen s a) a x →
      arms (.liw imm word) 12 imm.toNat ((src (seen s a) a x).toNat % 2 ^ 32)) ∧
    (∀ (imm word : Word) (l : BitVec 5) (c : BitVec 13), decodePrefixed imm word = .ok (.loopi l c) →
      arms (.liw imm word) 12 (l.toNat + 1) imm.toNat)

/-- R40, R192: SCHED reads its table of eight entries from 64 bytes of local pond and jumps by the first whose bound covers
its shape register; with none it goes on. -/
def Obligations.Schedule : Prop :=
  ∀ (s : State) (a : At) (e : BitVec 4) (b : BitVec 6), runner s = some a → srcReady (seen s a) a b →
    let ad := (src (seen s a) a b).toNat
    checkAddr [2] 64 64 ad ad = .ok () →
    let t0 := strandAt (seen s a) a
    let word (i : Nat) : Nat := leNat (loadN (seen s a) (locPond a.c (bits ad 0 60) + 8 * i) 8)
    let covers (i : Nat) : Prop := eVal (seen s a) a e ≤ word i % 2 ^ 32
    (∀ i, i < 8 → covers i → (∀ j, j < i → ¬covers j) → Runs (.sched e b) s (fun t => Alone (seen s a) t a ∧
      Jumped 0 (((t0.pc.toNat : Int) + 4 * sgn (word i / 2 ^ 32) 32) % 2 ^ 52).toNat t0 (strandAt t a) ∧
      (strandAt t a).g = t0.g ∧ (strandAt t a).pend = t0.pend)) ∧
    ((∀ i, i < 8 → ¬covers i) → Runs (.sched e b) s (fun t => DoneNop 4 (seen s a) t a))

/-! ## The system group (R184 to R194, R196) -/

/-- R132, R184, R189: NOP goes on; FENCE and AFENCE go on once every earlier access of the strand is performed, and stall
until then. AFENCE's wait is the model's reading (log 6). R32, R189: PHASE, whose strand's engine instructions have completed
and whose accesses and remote accesses are done. It orders a strand of no card task and goes on; a card task's strand arrives
once at its level and goes on when no member of its gang is missing, and waits until then; that an arrival is found again by the
pc of its PHASE and its level is the model's choice (log 35). -/
def Obligations.Barriers : Prop :=
  (∀ (s : State) (a : At), runner s = some a →
       Runs .nop s (fun t => DoneNop 4 (seen s a) t a) ∧
       (accessesDone (seen s a) a = true →
         Runs .fence s (fun t => DoneNop 4 (seen s a) t a) ∧ Runs .afence s (fun t => DoneNop 4 (seen s a) t a)) ∧
       (accessesDone (seen s a) a = false →
         exec .fence s = .next (holdWait (seen s a) a .other false 0) ∧ exec .afence s = .next (holdWait (seen s a) a .other false 0))) ∧
  (∀ (s : State) (a : At) (lvl : Nat) (i : Instr), runner s = some a →
       (lvl, i) ∈ [(0, Instr.phaseCore), (1, .phaseClus), (2, .phaseDie), (3, .phasePkg), (4, .phaseDom), (5, .phaseSys)] →
       let u := seen s a
       let key := 8 * (strandAt u a).pc.toNat + lvl
       ((strandAt u a).task.any (·.card) = false → strandEntries u a = [] → released u a = true →
         Runs i s (fun t => DoneNop 4 u t a)) ∧
       ((strandAt u a).task.any (·.card) = true →
         (key ∈ (strandAt u a).arrived ∨ (strandEntries u a = [] ∧ released u a = true)) →
         let v := if key ∈ (strandAt u a).arrived then u else
           onStrand u a (fun t => { t with arrived := key :: t.arrived, phases := tabPut t.phases lvl (tabGet 0 t.phases lvl + 1) })
         let missing := (gangCount v (jobOf v a) lvl a.c (tabGet 0 (strandAt v a).phases lvl)).2
         (missing = 0 → Runs i s (fun t => Alone u t a ∧ Follows 4 0 (strandAt u a) (strandAt t a) ∧
           tabGet 0 (strandAt t a).phases lvl = tabGet 0 (strandAt v a).phases lvl ∧ key ∉ (strandAt t a).arrived ∧
           { (strandAt t a).still with phases := [], arrived := [] } = { (strandAt u a).still with phases := [], arrived := [] })) ∧
         (missing ≠ 0 → Runs i s (fun t => Alone u t a ∧ (strandAt t a).status = .waiting ∧ key ∈ (strandAt t a).arrived ∧
           tabGet 0 (strandAt t a).phases lvl = tabGet 0 (strandAt v a).phases lvl ∧
           (∃ w, (strandAt t a).wait = some w ∧ w.kind = .stall 5) ∧ (strandAt t a).pc = (strandAt u a).pc))))

/-- R21, R143, R144, R190: SEGEND ends the segment: the exposed writes land, the latches read 0, the strand is ready behind
the SEGEND with the cost and the energy class of the next segment, and its turn is over. u is the state with its cost logged
where it lies above the die's slack and has not been logged (R443); a run that is to stop reaches its stop point instead
(R112). R185: HALT waits for the strand's engine instructions and accesses, counts the deferred draws of a restartable task,
and ends the task: its tokens are withdrawn, those of other strands staying in their order, its result queue is discarded, the
strand has no task, is idle or free, and its turn is over. -/
def Obligations.SegmentAndTaskEnds : Prop :=
  (∀ (s : State) (a : At) (e : BitVec 3) (c : BitVec 12), runner s = some a →
       let v := seen s a
       let cost := c.toNat / 16 * 2 ^ (c.toNat % 16)
       let u := if (dieAt v (a.c / 288)).slk < cost ∧ (strandAt v a).costly = false then
           logStrand (onStrand v a (fun t => { t with costly := true })) 0x91 0 a cost 0
         else v
       ((strandAt v a).stopping = true → exec (.segend e c) s = .next (reachStop u a)) ∧
       ((strandAt v a).stopping = false → Runs (.segend e c) s (fun t =>
         Alone u t a id (fun k => { k with turn := none }) ∧ (coreAt t a.c).turn = none ∧
         (strandAt t a).status = .ready ∧ (strandAt t a).cost = cost ∧ (strandAt t a).energy = e.toNat ∧
         (strandAt t a).y = [0, 0, 0, 0] ∧ (strandAt t a).pend = [] ∧
         ((strandAt u a).loop = none → (strandAt t a).pc = BitVec.ofNat 52 ((strandAt u a).pc.toNat + 4))))) ∧
  (∀ (s u : State) (a : At) (k : Task), runner s = some a → (strandAt (seen s a) a).task = some k →
       (strandEntries (seen s a) a ≠ [] ∨ released (seen s a) a = false →
         exec .halt s = .next (holdWait (seen s a) a .other false 0)) ∧
       (strandEntries (seen s a) a = [] → released (seen s a) a = true →
         countDeferred (seen s a) a.c (ctxOf (seen s a) a) k.job k.deferred = .ok u →
         exec .halt s = .next (retireTask u a)) ∧
       ((strandAt u a).task = some k → let t := retireTask u a
         (strandAt t a).task = none ∧ ((strandAt t a).status = .idle ∨ (strandAt t a).status = .free) ∧
         (coreAt t a.c).turn ≠ some a.x ∧ (strandAt t a).resq = [] ∧ (∀ f, f < 8 → a.x ∉ fifoAt t a.c f) ∧
         (strandEntries u a = [] → ∀ f, f < 8 →
           fifoAt t a.c f = (fifoAt u a.c f).filter (fun x => x != a.x))))

/-! ## Traps (R186, R378 to R387) -/

/-- R378, R380 to R382: taking a trap whose entries are ready to stop, at level 0 or 1, with a vector and a save area that can
be written, which calls for no re-execution of its task (R448): the frame stands at level TL + 1 in the save area, TARG3 names it
by its physical address (the model's reading, log 24; the bytes that no rule lays out are the model's, log 9), the trap
registers hold the cause, the pc and the cut, the push counters stand at the cut, TL has
risen, the latches read 0, no loop is armed, the cycle is noted in which the strand has taken its one trap (R388), and the
strand goes on at TVEC. -/
def Obligations.TrapEntry : Prop :=
  ∀ (s : State) (a : At) (pt : PendTrap), s.memOk → (strandAt s a).tl < 2 → (strandAt s a).tvec ≠ 0 →
    (ctxAt s (ctxOf s a)).savebase ≠ 0 → (ctxAt s (ctxOf s a)).savebase + 2 ^ 21 * a.c + 2 ^ 21 ≤ 576 * 2 ^ 30 →
    (coreAt s a.c).frameBad = false → rerunsFor (strandAt s a) pt = false →
    let t0 := strandAt s a
    let t := takeTrap s a pt
    let u := strandAt t a
    let va := (ctxAt s (ctxOf s a)).savebase + 2 ^ 21 * a.c + (0x180000 + 0x10000 * (2 * a.x + (t0.tl + 1) - 1))
    u.tcause = pt.cause.code ∧ u.tpc = t0.retPc.getD t0.pc.toNat ∧
    tabGet 0 u.targ 0 = BitVec.ofNat 64 pt.cause.a0 ∧ tabGet 0 u.targ 1 = BitVec.ofNat 64 pt.cause.a1 ∧
    tabGet 0 u.targ 2 = BitVec.ofNat 64 pt.cause.a2 ∧ tabGet 0 u.targ 3 = BitVec.ofNat 64 va ∧
    (∀ q, q < 4 → tabGet 0 u.tcut q = tabGet 0 t0.done q) ∧ u.push = t0.done ∧ u.tl = t0.tl + 1 ∧ u.y = [0, 0, 0, 0] ∧
    u.loop = none ∧ u.pc = BitVec.ofNat 52 t0.tvec ∧ u.wait = none ∧ u.pendTrap = none ∧ u.pend = [] ∧
    u.trapAt = some s.cycle ∧ u.status = .running ∧
    (∃ f, u.frames = t0.frames ++ [f] ∧ f.va = va ∧ f.loop = t0.loop ∧ f.lc = t0.lc ∧ loadN t va f.image.length = f.image ∧
      ∀ x, x < va ∨ va + f.image.length ≤ x → t.mem.read x = s.mem.read x)

/-- R381, R388: the cause of a CC instruction, which has not issued: a strand that has its turn and has taken no trap in this
cycle traps at it once its entries are ready to stop and, where the trap would end its task, its remote accesses are answered
(R124, R321); until then it holds the trap due. A strand without its turn holds it, and one that was parked is ready. R449,
R459: a hardware error, the codes 0xC0 to 0xC6, goes the same way once it has fenced the core, and comes first in R388's
order; 0xBD once it is recorded at level 1. R186, R381: TRAP is a trap with cause 0x1F whose TARG0 is its operand and whose
TPC is the address that follows it. R378, R387, R444: a trap that cannot be taken ends its task: at TL 2 with 0x80, with TVEC
0 with 0x9E, without a save area with 0x98, with one that HBM does not hold with 0x99, with one whose frame cannot be written
with 0x9A; the first that holds, which for all but the first is the model's order (log 42). R448: where the trap calls for
it, the task is re-executed instead. -/
def Obligations.TrapCauses : Prop :=
  (∀ (s : State) (a : At) (c : Cause), ¬(0xC0 ≤ c.code ∧ c.code ≤ 0xC6) → (strandAt s a).atStop = false →
       (strandAt s a).pendTrap = none → (strandAt s a).trapAt ≠ some s.cycle →
       let pt := ccTrap s a c
       let due := onStrand s a (fun t => { t with pendTrap := some pt })
       pt.cause = c ∧ pt.eng = false ∧
       (c.code ≠ 0xBD →
         ((strandAt s a).status = .running ∨ (strandAt s a).status = .waiting ∧ jobRuns s (jobOf s a) = true →
           ((stopReady s a = true ∧ (entersTrap s a = true ∨ remotesDone s a = true)) → signalTrap s a pt = takeTrap due a pt) ∧
           (¬(stopReady s a = true ∧ (entersTrap s a = true ∨ remotesDone s a = true)) → signalTrap s a pt = due)) ∧
         ((strandAt s a).status = .ready → signalTrap s a pt = due) ∧
         ((strandAt s a).status = .parked → Alone (unpark s a) (signalTrap s a pt) a ∧ strandAt (signalTrap s a pt) a =
           { strandAt s a with pendTrap := some pt, status := .ready, wait := none })) ∧
       (c.code = 0xBD → signalTrap s a pt = pendOrTake (logStrand s 0xBD 1 a c.a0 c.a1) a pt)) ∧
  (∀ (s : State) (a : At) (c : Cause), 0xC0 ≤ c.code → c.code ≤ 0xC6 →
       signalTrap s a (ccTrap s a c) = pendOrTake (fenceFor s a.c c) a (ccTrap s a c) ∧ (ccTrap s a c).cls = 0) ∧
  (∀ (s : State) (a : At) (x : BitVec 6), runner s = some a → srcReady (seen s a) a x →
       let v := seen s a
       (strandAt v a).atStop = false → (strandAt v a).pendTrap = none → (strandAt v a).trapAt ≠ some s.cycle →
       ((strandAt v a).status = .running ∨ jobRuns v (jobOf v a) = true) →
       ∃ pt, pt.cause = ⟨0x1F, (src v a x).toNat, 0, 0⟩ ∧ pt.eng = false ∧
         let due := onStrand (onStrand v a (fun t => { t with pc := t.pc + 4, wait := none })) a
           (fun t => { t with pendTrap := some pt })
         let ready := stopReady due a = true ∧ (entersTrap due a = true ∨ remotesDone due a = true)
         (ready → exec (.trap x) s = .next (takeTrap due a pt)) ∧ (¬ready → exec (.trap x) s = .next due)) ∧
  (∀ (s : State) (a : At) (pt : PendTrap),
       (∀ k, rerunsFor (strandAt s a) pt = true → (strandAt s a).task = some k → takeTrap s a pt = reexecute s a k) ∧
       (rerunsFor (strandAt s a) pt = false →
       ((strandAt s a).tl = 2 → takeTrap s a pt = endByCause s a 0x80) ∧
       ((strandAt s a).tl ≠ 2 → (strandAt s a).tvec = 0 → takeTrap s a pt = endByCause s a 0x9E) ∧
       ((strandAt s a).tl ≠ 2 → (strandAt s a).tvec ≠ 0 → (ctxAt s (ctxOf s a)).savebase = 0 →
         takeTrap s a pt = endByCause s a 0x98) ∧
       ((strandAt s a).tl ≠ 2 → (strandAt s a).tvec ≠ 0 → (ctxAt s (ctxOf s a)).savebase ≠ 0 →
         let area := (ctxAt s (ctxOf s a)).savebase + 2 ^ 21 * a.c
         let fails (code : Nat) : Prop := takeTrap s a pt = endWith (onCore s a.c (fun k => { k with frameBad := false })) a code 2
           (area + 0x180000 + 0x10000 * (2 * a.x + (strandAt s a).tl))
         (576 * 2 ^ 30 < area + 2 ^ 21 → fails 0x99) ∧
         (area + 2 ^ 21 ≤ 576 * 2 ^ 30 → (coreAt s a.c).frameBad = true → fails 0x9A))))

/-- R144, R385: ERET without a frame traps with 0x81; with an entry of the handler or a result for a register that it restores
out it waits; with a frame that has changed it traps with 0x9C. In every other state it completes: it restores g1 to g4, p1 to
p7, LC and the loop, lowers TL, and brings back the trap registers of the frame below; the entries of the frame that its
handler has not dropped are pushed again, as far as there is room, and with the last of them the strand goes on at TPC with
the latches 0. -/
def Obligations.TrapReturn : Prop :=
  ∀ (s : State) (a : At), runner s = some a →
    let u := seen s a
    let t0 := strandAt u a
    (t0.frames = [] → exec .eret s = .next (signalTrap u a (ccTrap u a ⟨0x81, t0.pc.toNat, 0, 0⟩))) ∧
    (∀ fs f, t0.frames = fs ++ [f] →
      let out := strandEntries u a ≠ [] ∨ (∃ r, 1 ≤ r ∧ r ≤ 4 ∧ gBusy t0 r = true) ∨ ∃ r, 1 ≤ r ∧ r ≤ 7 ∧ pBusy t0 r = true
      let restored (t : State) : Prop := (∀ r, r < 4 → gVal (strandAt t a) (r + 1) = f.g.getD r 0) ∧
        (∀ r, 4 < r → gVal (strandAt t a) r = gVal t0 r) ∧
        (∀ r, 1 ≤ r → r < 8 → pVal (strandAt t a) r = f.p.getD r false) ∧ (strandAt t a).lc = f.lc ∧
        (strandAt t a).loop = f.loop ∧ (strandAt t a).tl = t0.tl - 1 ∧ (strandAt t a).frames = fs ∧
        (∀ o, fs.getLast? = some o → (strandAt t a).tcause = o.tcause ∧ (strandAt t a).tpc = o.tpc)
      let gone (t : State) : Prop := (strandAt t a).retPc = none ∧ (strandAt t a).repush = [] ∧
        (strandAt t a).pc = BitVec.ofNat 52 t0.tpc ∧ (strandAt t a).y = [0, 0, 0, 0] ∧ (strandAt t a).status = .running
      (out → exec .eret s = .next (holdWait u a .other false 0)) ∧
      (¬out → frameIntact u f = false → exec .eret s = .next (signalTrap u a (ccTrap u a ⟨0x9C, f.va, 0, 0⟩))) ∧
      (¬out → frameIntact u f = true → Runs .eret s (fun t => restored t ∧
        (gone t ∨ (strandAt t a).retPc = some t0.tpc ∧ (strandAt t a).repush ≠ []))) ∧
      (¬out → frameIntact u f = true → f.entries = [] → Runs .eret s (fun t => Alone u t a ∧ restored t ∧ gone t)))

/-! ## Events of a strand (R311 to R313) -/

/-- R64, R306, R313: a pending event is delivered to a strand of a job that runs, at its segment's end, waiting or parked: its
record stands in g1 to g4, what it writes over and the place it goes back to stand in the event slot, the latches read 0, the
strand goes on at EVEC.
With EVEC 0 it traps with 0x83, and the event stays pending. R187, R313: EVRET goes back to where the event was delivered
with g1 to g4, LC and the loop as they stood, the latches 0, and the event slot empty; without an event it traps with 0x82.
-/
def Obligations.EventsOfStrands : Prop :=
  (∀ (s : State) (c x : Nat) (e : Event) (rest : List Event),
       let a : At := ⟨c, x⟩
       let t0 := strandAt s a
       t0.evq = e :: rest → mayDeliver t0 = true → jobRuns s (jobOf s a) = true →
       (t0.evec ≠ 0 → Runs (.eventDelivery c x) s (fun t =>
         (strandAt t a).evq = rest ∧ (strandAt t a).pc = BitVec.ofNat 52 t0.evec ∧ (strandAt t a).y = [0, 0, 0, 0] ∧
         (strandAt t a).loop = none ∧ (strandAt t a).wait = none ∧ (strandAt t a).pend = [] ∧
         gVal (strandAt t a) 1 = BitVec.ofNat 64 e.va ∧ gVal (strandAt t a) 2 = BitVec.ofNat 64 (e.etype % 256 * 2 ^ 32 +
           e.src % 16 * 2 ^ 4 + e.psz % 4 * 2 ^ 2 + (if e.wr then 2 else 0)) ∧
         gVal (strandAt t a) 3 = BitVec.ofNat 64 (e.seq % 2 ^ 32) ∧ gVal (strandAt t a) 4 = 0 ∧
         (∀ r, (r = 0 ∨ 4 < r) → gVal (strandAt t a) r = gVal (landAll t0) r) ∧
         (∃ l, (strandAt t a).evslot = some l ∧ l.pc = t0.pc.toNat ∧ l.lc = t0.lc ∧ l.loop = t0.loop ∧
           l.g = [1, 2, 3, 4].map (gVal (landAll t0))) ∧
         t.mem = s.mem ∧ t.jobs = s.jobs ∧ ∀ b : At, b ≠ a → strandAt t b = strandAt s b)) ∧
       (t0.evec = 0 → Runs (.eventDelivery c x) s (fun t =>
         ∃ pt, t = signalTrap s a pt ∧ pt.cause = ⟨0x83, t0.pc.toNat, 0, 0⟩))) ∧
  (∀ (s : State) (a : At), runner s = some a →
       let t0 := strandAt (seen s a) a
       (t0.evslot = none →
         exec .evret s = .next (signalTrap (seen s a) a (ccTrap (seen s a) a ⟨0x82, t0.pc.toNat, 0, 0⟩))) ∧
       (∀ e, t0.evslot = some e → (∃ r, 1 ≤ r ∧ r ≤ 4 ∧ gBusy t0 r = true) →
         exec .evret s = .next (holdWait (seen s a) a .other false 0)) ∧
       (∀ e, t0.evslot = some e → (∀ r, 1 ≤ r → r ≤ 4 → gBusy t0 r = false) → Runs .evret s (fun t => Alone (seen s a) t a ∧
         (strandAt t a).pc = BitVec.ofNat 52 e.pc ∧ (∀ r, r < 4 → gVal (strandAt t a) (r + 1) = e.g.getD r 0) ∧
         (∀ r, 4 < r → gVal (strandAt t a) r = gVal t0 r) ∧ (strandAt t a).lc = e.lc ∧ (strandAt t a).loop = e.loop ∧
         (strandAt t a).evslot = none ∧ (strandAt t a).y = [0, 0, 0, 0] ∧
         { (strandAt t a).still.noG with evslot := none } = { t0.still.noG with evslot := none })))

/-! ## System registers and notify words -/

/-- R146, R188: MFS writes its destination with the register named, zero-extended, as it stands at issue, and places 0 in y0.
-/
def Obligations.ReadSystemRegister : Prop :=
  ∀ (s : State) (a : At) (d : BitVec 5) (n : BitVec 1), runner s = some a → dstReady (seen s a) a d n →
    let t0 := strandAt (seen s a) a
    let reads (r : BitVec 6) (w v : Nat) : Prop :=
      Runs (.mfs d n r) s (fun t => DoneG 4 (seen s a) t a d n (BitVec.ofNat 64 (v % 2 ^ w)) 0)
    reads 0 52 t0.tvec ∧ reads 1 52 t0.evec ∧ reads 2 8 t0.tcause ∧ reads 3 52 t0.tpc ∧
    (∀ i : Nat, i < 4 → reads (BitVec.ofNat 6 (4 + i)) 64 (tabGet 0 t0.targ i).toNat ∧
      reads (BitVec.ofNat 6 (8 + i)) 32 (tabGet 0 t0.tcut i)) ∧
    reads 12 32 t0.wlim ∧ reads 13 64 (ctxAt s (ctxOf s a)).lkey ∧ reads 14 4 (ctxOf s a) ∧ reads 15 6 (a.c % 48) ∧
    reads 16 6 (a.c / 48) ∧ reads 17 3 (a.c / 288) ∧ reads 18 24 s.dev.rank ∧ reads 19 64 s.cycle ∧
    reads 20 32 (t0.segbud % 2 ^ 32).toNat ∧ reads 21 16 (dieAt s (a.c / 288)).thead ∧ reads 22 32 s.dev.ttper ∧
    (∀ i : Nat, i < 16 → reads (BitVec.ofNat 6 (32 + i)) 32 (tabGet 0 (coreAt s a.c).regs.pf i))

/-- R48, R146, R188, R407: MTS writes its register, which then reads as the value, and changes nothing else: numbers 0 to 12
of its strand, 32 to 47 of its core once no engine entry is in the core's queues, whose writes the strand has then acquired
(R124). A value wider than the register traps with
0x02, a vector that is no instruction address with 0x25, a bank format that breaks R46, R47 or R69 with 0x19. -/
def Obligations.WriteSystemRegister : Prop :=
  ∀ (s : State) (a : At) (x r : BitVec 6), runner s = some a → srcReady (seen s a) a x →
    let u := seen s a
    let v := (src u a x).toNat
    let width := if r.toNat ≤ 1 ∨ r.toNat = 3 then 52 else if r.toNat = 2 then 8 else if 4 ≤ r.toNat ∧ r.toNat ≤ 7 then 64 else 32
    (r.toNat ≤ 12 → v < 2 ^ width → (r.toNat ≤ 1 → v % 4 = 0) → Runs (.mts x r) s (fun t => Alone u t a ∧
      sysRead t a r.toNat = BitVec.ofNat 64 v ∧ (∀ m, m ≠ r.toNat → sysRead t a m = sysRead u a m) ∧
      (strandAt t a).g = (strandAt u a).g ∧ (strandAt t a).p = (strandAt u a).p ∧
      Follows 4 0 (strandAt u a) (strandAt t a))) ∧
    (32 ≤ r.toNat → v < 2 ^ 32 → pfValid (coreAt u a.c).regs v = true → (∀ q, q < 4 → queueAt u a.c q = []) →
      Runs (.mts x r) s (fun t => tabGet 0 (coreAt t a.c).regs.pf (r.toNat - 32) = v ∧
        (∀ m, m ≠ r.toNat - 32 → tabGet 0 (coreAt t a.c).regs.pf m = tabGet 0 (coreAt u a.c).regs.pf m) ∧
        Alone u t a id (fun k => { k with regs := { k.regs with pf := [] } }) ∧ (strandAt t a).acq = u.sbNext ∧
        Follows 4 0 (strandAt u a) (strandAt t a) ∧
        { (strandAt t a).still with acq := 0 } = { (strandAt u a).still with acq := 0 })) ∧
    (2 ^ width ≤ v → ∃ w, exec (.mts x r) s = .next (signalTrap u a (ccTrap u a ⟨0x02, w, v, 0⟩))) ∧
    (r.toNat ≤ 1 → v < 2 ^ 52 → v % 4 ≠ 0 → exec (.mts x r) s = .next (signalTrap u a (ccTrap u a ⟨0x25, v, 0, 0⟩))) ∧
    (32 ≤ r.toNat → v < 2 ^ 32 → pfValid (coreAt u a.c).regs v = false →
      exec (.mts x r) s = .next (signalTrap u a (ccTrap u a ⟨0x19, v, 0, 0⟩)))

/-- R191, R196: WAITC of a word of this device goes on with the word once it differs from b, and stalls while it equals b. On
the symmetric heap each read is a remote access (R319): WAITC stalls until its answer, which the strand's grant holds, and
goes on or asks again by the word that it brought. RPOP takes the oldest entry of the result queue, and stalls while there is
none. R194, R355: NOTIFY sets one doorbell bit of a tool core and raises its external interrupt; nothing else changes. -/
def Obligations.WaitsAndNotify : Prop :=
  (∀ (s : State) (a : At) (d : BitVec 5) (n : BitVec 1), runner s = some a → dstReady (seen s a) a d n →
       (∀ (x y : BitVec 6) (u : State) (r : Reach), srcReady (seen s a) a x → srcReady (seen s a) a y →
         let ad := (src (seen s a) a x).toNat
         let b := src (seen s a) a y
         checkAddr [0, 1, 2, 3] 8 8 ad ad = .ok () → reach (seen s a) a ad false = .ok (u, r) → r.here = true →
         ccPoison u a r 8 = .ok () →
         let v : Dword := BitVec.ofNat 64 (reachRead u a r 8)
         (v ≠ b → Runs (.waitc d n x y) s (fun t => DoneG 4 u t a d n v 0)) ∧
         (v = b → exec (.waitc d n x y) s = .next (holdWait u a (.watch ad) false v.toNat))) ∧
       (∀ (x y : BitVec 6) (u : State) (va l : Nat), srcReady (seen s a) a x → srcReady (seen s a) a y →
         let ad := (src (seen s a) a x).toNat
         let b := src (seen s a) a y
         checkAddr [0, 1, 2, 3] 8 8 ad ad = .ok () → reach (seen s a) a ad false = .ok (u, .remote va l) →
         let key := 2 * (strandAt u a).pc.toNat + 1
         let w := onStrand u a (fun t => { t with grant := t.grant.filter (fun g => g.1 != key) })
         (∀ v, grantOf (strandAt u a) key = some v → v ≠ b → Runs (.waitc d n x y) s (fun t => DoneG 4 w t a d n v 0)) ∧
         (∀ v, grantOf (strandAt u a) key = some v → v = b →
           exec (.waitc d n x y) s = .next (holdWait w a (.watch ad) false v.toNat)) ∧
         (grantOf (strandAt u a) key = none → exec (.waitc d n x y) s = .next
           (holdWait (askRemote u a va l 14 8) a (.watch ad) false (((strandAt u a).wait.map (·.arg)).getD 0))) ∧
         (u.remotes.any (fun r => r.core == a.c && r.sx == a.x && r.kind == 14 && r.va == va) = false → flitRoom u a.c l = true →
           (askRemote u a va l 14 8).remotes = u.remotes ++ [⟨u.sbNext, a.c, a.x, ctxOf u a, va, l, 14, 8, 0, 0, u.sbNext, none,
             u.cycle, ccWord u a, (strandAt u a).pc.toNat⟩] ∧ (askRemote u a va l 14 8).mem = u.mem ∧
           (askRemote u a va l 14 8).cores = u.cores)) ∧
       (∀ v rest, (strandAt (seen s a) a).resq = v :: rest → Runs (.rpop d n) s (fun t =>
         Alone (seen s a) t a ∧ WroteG d n v (strandAt (seen s a) a) (strandAt t a) ∧ (strandAt t a).resq = rest ∧
         Follows 4 0 (strandAt (seen s a) a) (strandAt t a) ∧
         { (strandAt t a).still.noG with resq := [], resPopped := 0 } =
           { (strandAt (seen s a) a).still.noG with resq := [], resPopped := 0 })) ∧
       ((strandAt (seen s a) a).resq = [] → exec (.rpop d n) s = .next (holdWait (seen s a) a (.stall 1) false 0))) ∧
  (∀ (s : State) (a : At) (x y : BitVec 6), runner s = some a → srcReady (seen s a) a x → srcReady (seen s a) a y →
       let u := seen s a
       let h := (src u a x).toNat
       let b := (src u a y).toNat
       h < 32 → b < 64 → (hartAt u h).run = true → Runs (.notify x y) s (fun t =>
         hartAt t h = { hartAt u h with
           db := Nat.lor (hartAt u h).db (2 ^ b), mext := !bit (hartAt u h).dbtgt 0, sext := bit (hartAt u h).dbtgt 0 } ∧
         (∀ m, m ≠ h → hartAt t m = hartAt u m) ∧ DoneNop 4 { u with harts := t.harts } t a))

/-- R193, R197, R354: PARK on a pending word clears the bit, writes the value and goes on; on another the strand is parked, its
turn over, until a store to the word: the word is then pending, and when the strand wakes for it, d holds the value,
the bit is clear and the strand is ready behind the PARK. -/
def Obligations.ParkAndWake : Prop :=
  ∀ (s : State) (a : At) (d : BitVec 5) (n : BitVec 1) (x : BitVec 6), runner s = some a → srcReady (seen s a) a x →
    dstReady (seen s a) a d n →
    let u := seen s a
    let i := (src u a x).toNat
    let cx := ctxAt u (ctxOf u a)
    i < 4096 → cx.nwrFirst ≤ i → i < cx.nwrFirst + cx.nwrCount → (nwAt u i).parked = none →
    ((nwAt u i).pending = true → Runs (.park d n x) s (fun t =>
      DoneG 4 { u with nw := t.nw } t a d n (BitVec.ofNat 64 (nwAt u i).val) 0 ∧ (nwAt t i).pending = false ∧
      (nwAt t i).val = (nwAt u i).val ∧ ∀ m, m ≠ i → nwAt t m = nwAt u m)) ∧
    ((nwAt u i).pending = false → (strandAt u a).stopping = false → Runs (.park d n x) s (fun t =>
      (strandAt t a).status = .parked ∧ (nwAt t i).parked = some (4 * a.c + a.x) ∧ (coreAt t a.c).turn = none ∧
      (strandAt t a).y = [0, 0, 0, 0] ∧ (strandAt t a).pend = [] ∧ (strandAt t a).pc = (strandAt u a).pc ∧ t.mem = s.mem ∧
      ∀ v party, a.x < 4 →
        (nwAt (notifyStore t i v party) i).pending = true ∧
        ∃ w, dueWake (notifyStore t i v party) a = some w ∧
        (strandAt w a).status = .ready ∧ (nwAt w i).pending = false ∧ (nwAt w i).parked = none ∧
        (n = 0 → d ≠ 0 → gVal (strandAt w a) d.toNat = BitVec.ofNat 64 v) ∧
        ((strandAt u a).loop = none → (strandAt w a).pc = BitVec.ofNat 52 ((strandAt u a).pc.toNat + 4))))

/-! ## Engine words (R147 to R151) -/

/-- R147 to R150, R153, R200 to R213: the words of the copy unit other than PGIN push their entry into LQ or SQ. R147, R208,
R349: PGIN pushes its entry into LQ like the other copy words, and at once hands its page copy to the core's page path: where
the page is local nothing more than that the entry counts as started; where it is far, its frame is one that the far tier
holds and its port is up, the copy joins the path. R198, R201 to R213: what a sector of the copy unit does within memory that
needs no translation, with no poison and no remote access under way: a flat transfer moves 512 bytes, repeating what an
overlapping one has just written; CIN.mc writes each pond that its mask names; COUT.sel passes its elements and at its completion
writes its record; CPX moves element after element in visiting order, converted where the formats differ; a row of CGATH or CSCAT
goes from or to the table's row that its index names, and one of index 0xFFFFFFFF is zero or not written; LKOP combines each
element of its destination, or sums; WRSIG writes or adds to its flag behind its payload; PGOUT makes the page far and then copies
it to its frame, sector by sector. -/
def Obligations.CopyWordsPush : Prop :=
  (∀ (s : State) (a : At) (t g : BitVec 2) (g1 : BitVec 1) (x y z : BitVec 5), runner s = some a →
       fieldReady (seen s a) a x → fieldReady (seen s a) a y → fieldReady (seen s a) a z →
       let p (i : Instr) (q : Nat) (r : State → At → Nat → Nat → Nat → ResE) : Prop := Pushes i s a q t.toNat g.toNat x y z r
       let sq (i : Instr) (r : State → At → Nat → Nat → Nat → ResE) : Prop := Pushes i s a 3 t.toNat g1.toNat x y z r
       p (.cinG t g x y z) 0 (resolveFlat [1, 2, 3] [0]) ∧ p (.cinL t g x y z) 0 (resolveFlat [2, 3] [1]) ∧
       p (.cinP t g x y z) 0 (resolveFlat [1, 2] [3]) ∧
       p (.cinMc t g x y z) 0 (resolveMc ((encode (.cinMc t g x y z)).headD 0)) ∧
       sq (.coutG t g1 x y z) (resolveFlat [0] [1, 2, 4]) ∧ sq (.coutL t g1 x y z) (resolveFlat [1] [2, 4]) ∧
       sq (.coutP t g1 x y z) (resolveFlat [3] [2, 4]) ∧ sq (.coutSel t g1 x y z) resolveSel ∧
       p (.cpxPp t g x y z) 0 (resolveCpx [2, 3] [2, 3]) ∧ p (.cpxPl t g x y z) 0 (resolveCpx [1] [2, 3]) ∧
       p (.cpxLp t g x y z) 0 (resolveCpx [2, 3] [1]) ∧ p (.cpxLl t g x y z) 0 (resolveCpx [1] [1]) ∧
       p (.cgathP t g x y z) 0 (resolveGath [2, 3]) ∧ p (.cgathL t g x y z) 0 (resolveGath [1]) ∧
       sq (.cscatP t g1 x y z) (resolveScat [2, 3]) ∧ sq (.cscatL t g1 x y z) (resolveScat [1]) ∧
       Pushes (.pgout t g1 x y) s a 3 t.toNat g1.toNat x y 0 resolvePgout ∧ sq (.wrsig t g1 x y z) (resolveWrsig false) ∧
       sq (.wrsigAdd t g1 x y z) (resolveWrsig true) ∧ p (.lkopFill t g x y z) 0 (resolveLkop 0) ∧
       p (.lkopAdd t g x y z) 0 (resolveLkop 1) ∧ p (.lkopSadd t g x y z) 0 (resolveLkop 2) ∧
       p (.lkopMin t g x y z) 0 (resolveLkop 3) ∧ p (.lkopMax t g x y z) 0 (resolveLkop 4) ∧
       p (.lkopAnd t g x y z) 0 (resolveLkop 5) ∧ p (.lkopOr t g x y z) 0 (resolveLkop 6) ∧
       p (.lkopXor t g x y z) 0 (resolveLkop 7) ∧ p (.lkopFadd t g x y z) 0 (resolveLkop 8) ∧
       p (.lkopFmax t g x y z) 0 (resolveLkop 9) ∧ p (.lkopFmul t g x y z) 0 (resolveLkop 10) ∧
       p (.lkopRsum t g x y z) 0 (resolveLkop 11)) ∧
  (∀ (s w : State) (a : At) (t g : BitVec 2) (x y : BitVec 5) (r : Res), runner s = some a →
       let u := seen s a
       fieldReady u a x → fieldReady u a y → resolvePgin u a (fieldVal u a x) (fieldVal u a y) 0 = .ok r → pushRoom u a 0 = true →
       let e := newEntry u a 0 ((encode (.pgin t g x y)).headD 0) t.toNat g.toNat (fieldVal u a x) (fieldVal u a y) 0 r
       recordDraws (pushCounted u a e) a.c (jobAt u e.job).ctx e.job r.draws = .ok w →
       r.op = .pgin (fieldVal u a x) (fieldVal u a y) ∧
       ∃ v, Pushed u v a e ∧ Alone w v a id (fun k => { k with queues := [] }) ∧
         Runs (.pgin t g x y) s (fun z => z = launchPgin v a ∧
           ∀ leaf pte psz, walk v (ctxOf v a) (fieldVal u a x) = .ok (leaf, pte, psz) →
             (bit leaf 4 = false → Alone v z a id (fun k => { k with queues := [] }) ∧ strandAt z a = strandAt v a ∧
               queueAt z a.c 0 = queueAt u a.c 0 ++ [pginStarted { e with seq := nextSeq (strandAt u a) 0, drawn := true }] ∧
               ∀ q, q ≠ 0 → queueAt z a.c q = queueAt v a.c q) ∧
             (bit leaf 4 = true → farMapped v (pteAddr leaf) psz = true → portUp v (pteAddr leaf) = true →
               (coreAt z a.c).pages.length = (coreAt v a.c).pages.length + 1))) ∧
  (∀ (s : State) (c : Nat) (side : BitVec 1) (e : Entry) (rest : List Entry), queueAt s c (3 * side.toNat) = e :: rest →
     e.q = 3 * side.toNat → unitMayRun s c e = true → s.poison = [] → s.remotes = [] → e.prog.taken = [] →
     copyCheck s c { e with wait := .none } = .ok () →
     let key := keyOfEntry s e
     let k := e.prog.sect
     let done (u : State) (last : Bool) (result : Option Nat) (P : Prog → Prop) : Prop :=
       WorksOn (.copySector c side) s u c e last result P
     (∀ d p len res, e.op = .flat d p len 0 res → d.space ≠ 0 → p.space ≠ 0 → flatConv s d p = none → 512 * k < len →
       let n := min 512 (len - 512 * k)
       done (sectorDone s e [(d.plus (512 * k), n)] [(d.plus (512 * k + n), len - 512 * k - n)]
         (overlapBytes p d (fetchPlace s key (p.plus (512 * k)) n))) (decide (len ≤ 512 * (k + 1))) (resIf res (e.prog.bytes + n))
         fun z => z.sect = k + 1 ∧ z.bytes = e.prog.bytes + n) ∧
     (∀ m p aux len res, e.op = .mcast m p aux len 0 res → p.space ≠ 0 → 512 * k < len →
       let n := min 512 (len - 512 * k)
       let at_ (o n : Nat) : List (Place × Nat) :=
         ((List.range 48).filter (bit m)).map (fun i => (⟨2, c / 48 * 48 + i, aux + o⟩, n))
       done (sectorDone s e (at_ (512 * k) n) (at_ (512 * k + n) (len - 512 * k - n))
         ((at_ 0 0).flatMap (fun _ => fetchPlace s key (p.plus (512 * k)) n))) (decide (len ≤ 512 * (k + 1)))
         (resIf res (e.prog.bytes + n * (at_ 0 0).length)) fun z => z.sect = k + 1) ∧
     (∀ (d : Option Place) p len aux res, e.op = .csel d p len 0 aux res → (∀ q, d = some q → q.space ≠ 0 ∧ flatConv s q p = none) →
       p.space ≠ 0 → 512 * k < len →
       let n := min 512 (len - 512 * k)
       let v := fetchPlace s key (p.plus (512 * k)) n
       let out (o n : Nat) : List (Place × Nat) := d.toList.map (fun q => (q.plus o, n))
       done (sectorDone s e (out (512 * k) n) (out (512 * k + n) (len - 512 * k - n)) (d.toList.flatMap (fun q => overlapBytes p q v)))
         (decide (len ≤ 512 * (k + 1))) (resIf res (tagged aux)) fun z =>
           let w := selPass e.prog v
           z.selM = w.selM ∧ z.selS = w.selS ∧ z.selC = w.selC ∧ z.count = w.count ∧ z.acc = w.acc) ∧
     (∀ d r res, e.op = .cpx d r 0 res → d.base.space ≠ 0 → r.base.space ≠ 0 →
       let sf := sideFmt r.fmt d.fmt
       let df := sideFmt d.fmt r.fmt
       let es := fmtBytes df
       let all := dimCount (d.dims s key)
       let lo := ceilDiv (512 * k) es
       let hi := min all (ceilDiv (512 * (k + 1)) es)
       fmtBlock sf = false → fmtBlock df = false → 0 < es → 0 < fmtBytes sf → d.dims s key ≠ [] → lo < hi →
       let out (a n : Nat) : List (Place × Nat) :=
         (List.range n).map (fun i => (d.base.shift (dimElem (d.dims s key) (a + i) * es), es))
       let elem (i : Nat) : List Byte :=
         let v := fetchPlace s key (r.base.shift (dimElem (r.dims s key) i * fmtBytes sf)) (fmtBytes sf)
         if d.fmt = 0 ∨ r.fmt = 0 ∨ d.fmt = r.fmt then v else leBytes es (encodeFmt df 0 (decodeFmt sf (leNat v)))
       done (sectorDone s e (out lo (hi - lo)) (out hi (all - hi)) ((List.range (hi - lo)).flatMap (fun i => elem (lo + i))))
         (decide (all ≤ hi)) (resIf res (e.prog.bytes + (hi - lo) * es)) fun z => z.sect = k + 1 ∧ z.row = hi) ∧
     (∀ r t stride ix res (gather : Bool), e.op = (if gather then .cgath r t stride ix 0 res else .cscat r t stride ix 0 res) →
       r.base.space ≠ 0 → t.space ≠ 0 → e.draws = [] → nth e.prog.acc 0 = 0 →
       let j := e.prog.row
       let size := (rowSpan s key r j).2 * fmtBytes r.fmt
       let i := leNat (fetchPlace s key (ix.plus (4 * j)) 4)
       let row := t.plus (i * stride)
       let record := rowPlaces s key r j 0 size
       let ends (u : State) (moved : Nat) : Prop := done u (decide (rowCount s key r ≤ j + 1)) (resIf res (e.prog.count + moved))
         fun z => z.row = j + 1 ∧ z.count = e.prog.count + moved ∧ z.sect = k + 1
       0 < size → size ≤ 512 →
       (i = 0xFFFFFFFF → ends (if gather then sectorDone s e record (laterRows s key r j) (List.replicate size 0) else s) 0) ∧
       (i ≠ 0xFFFFFFFF → row.off + size ≤ spaceLimit t.space → ends (if gather
         then sectorDone s e record (laterRows s key r j) (fetchPlace s key (row.plus 0) size)
         else sectorDone s e [(row.plus 0, size)] [] (readPlaces s key record)) 1) ∧
       (i ≠ 0xFFFFFFFF → spaceLimit t.space < row.off + size →
         exec (.copySector c side) s = .next (failEntry s c { e with wait := .none } ⟨0x22, tagged row, 0, 0⟩))) ∧
     (∀ fn d p (scal : Option Nat) n w64 sg flt res, e.op = .lkop fn d p scal n w64 sg flt res → d.space ≠ 0 → p.space ≠ 0 →
       let w := if w64 then 64 else 32
       let es := w / 8
       let lo := e.prog.row
       let m := min (512 / es) (n - lo)
       let nums (q : Place) : List Nat := (chunks es (fetchPlace s key (q.plus (lo * es)) (m * es))).map leNat
       let last := decide (n ≤ lo + m)
       (fn < 11 → done (sectorDone s e [(d.plus (lo * es), m * es)] [] (((nums d).zip (match scal with
           | some x => List.replicate m x
           | none => nums p)).flatMap (fun q => leBytes es (lkopFn fn w sg q.1 q.2)))) last (resIf res n) fun z => z.row = lo + m) ∧
       (fn = 11 → scal = none → let acc := e.prog.acc ++ nums p
         done (sectorDone s e (if last then [(d, 8)] else []) [] (if last then leBytes 8 (rsumOf w sg flt acc) else [])) last
           (resIf res (rsumOf w sg flt acc)) fun z => z.acc = acc ∧ z.row = lo + m)) ∧
     (∀ d p len flag v add, e.op = .wrsig d p len flag v 0 add →
       (512 * k < len → d.space ≠ 0 → p.space ≠ 0 → let n := min 512 (len - 512 * k)
         done (sectorDone s e [(d.plus (512 * k), n)] [(d.plus (512 * k + n), len - 512 * k - n)]
           (overlapBytes p d (fetchPlace s key (p.plus (512 * k)) n))) false none fun z => z.sect = k + 1) ∧
       (len ≤ 512 * k → ∀ u l va, spots c (jobAt s e.job).ctx true [(⟨0, c, flag⟩, 8)] s [] = .ok (u, [(.phys l va, 8)]) →
         u.poison = [] → done (storeNat u l 8 (if add then (loadNat u l 8 + v) % 2 ^ 64 else v)) true none fun _ => True)) ∧
     (∀ va frame, e.op = .pgout va frame →
       (∀ leaf pte psz, e.prog.acc = [] → walk s (jobAt s e.job).ctx va = .ok (leaf, pte, psz) →
         (bit leaf 4 = true → done s true none fun _ => True) ∧
         (bit leaf 4 = false → ∃ n, bits n 8 36 = frame / 256 % 2 ^ 36 ∧ bit n 4 = true ∧
           (∀ i, i ≠ 4 → i < 8 ∨ 44 ≤ i → bit n i = bit leaf i) ∧
           done (invalidatePage (storeNat s pte 8 n) pte) false none fun z => z.acc = [leaf, pte, psz] ∧ z.sect = k)) ∧
       (∀ leaf pte psz, e.prog.acc = [leaf, pte, psz] → s.memOk → let o := 512 * k
         let old := pteAddr leaf + o
         (portUp s frame = false → exec (.copySector c side) s = .next (pgoutFail s c { e with wait := .none } va frame)) ∧
         (portUp s frame = true → old + 512 ≤ frame + o ∨ frame + o + 512 ≤ old → ∃ u,
           done u (decide (pageSize psz ≤ o + 512)) none (fun z => z.sect = k + 1) ∧
           loadN u (frame + o) 512 = loadN s old 512 ∧
           (∀ x, x < frame + o ∨ frame + o + 512 ≤ x → u.mem.read x = s.mem.read x) ∧
           { u with mem := ⟨[], []⟩ } = { s with mem := ⟨[], []⟩ })))) ∧
  (∀ (p d : Place) (v : List Byte) (i : Nat), i < v.length →
     ((p.space ≠ d.space ∧ (p.inPond && d.inPond) = false) ∨ p.core ≠ d.core ∨ d.off ≤ p.off ∨ p.off + v.length ≤ d.off →
       overlapBytes p d v = v) ∧
     (p.space = d.space → p.core = d.core → p.off < d.off → d.off < p.off + v.length →
       (overlapBytes p d v)[i]? = v[i % (d.off - p.off)]?)) ∧
  (∀ (z : Prog) (x i : Nat),
     (decodeFmt 2 x = .nan ∨ decodeFmt 2 x = .inf true → selStep z x i = z) ∧
     (decodeFmt 2 x ≠ .nan → decodeFmt 2 x ≠ .inf true → (selStep z x i).selC = selInsert x i z.selC ∧
       (selStep z x i).selM = if fcompare 2 (fun o => decide (o > 0)) x z.selM then x else z.selM)) ∧
  (∀ x i l, (selInsert x i l).length = min 8 (l.length + 1)) ∧
  (∀ (w : Nat) (sg : Bool) (l : List Nat), w = 32 ∨ w = 64 →
     let total := (l.map (fun v => if sg then sgn v w else (v : Int))).sum
     rsumOf w sg false l = ((if sg then max (-2 ^ 63) (min (2 ^ 63 - 1) total) else max 0 (min (2 ^ 64 - 1) total)) % 2 ^ 64).toNat) ∧
  (∀ (fn : Nat) (sg : Bool) (x y : BitVec 32),
     let r (v : BitVec 32) : Prop := lkopFn fn 32 sg x.toNat y.toNat = v.toNat
     (fn = 0 → r y) ∧ (fn = 1 → r (x + y)) ∧ (fn = 2 → r (if x.toNat + y.toNat < 2 ^ 32 then x + y else -1)) ∧
     (fn = 3 → r (if sg then (if y.slt x then y else x) else (if y.ult x then y else x))) ∧
     (fn = 4 → r (if sg then (if x.slt y then y else x) else (if x.ult y then y else x))) ∧
     (fn = 5 → r (x &&& y)) ∧ (fn = 6 → r (x ||| y)) ∧ (fn = 7 → r (x ^^^ y))) ∧
  (∀ (s : State) (c : Nat) (e : Entry) (rest : List Entry) (d : Option Place) p len sq aux res, queueAt s c e.q = e :: rest → s.memOk →
     e.op = .csel d p len sq aux res → aux.space = 2 → aux.off + 64 ≤ 2 ^ 20 → e.draws = [] → e.give = 0 →
     releaseHeldUp s c e = false → (e.prog.result = none ∨ (strandAt s ⟨c, e.sx⟩).resq.length < 16) →
       loadN (completeEntry s c e) (locPond aux.core aux.off) 64 =
         leBytes 64 (selBits e.prog.selM e.prog.selS e.prog.selC) ∧
       ∀ x, x < locPond aux.core aux.off ∨ locPond aux.core aux.off + 64 ≤ x → (completeEntry s c e).mem.read x = s.mem.read x)

/-- R147, R148, R150: the words of the vector engine push their entry into VQ. R222 to R242, R86, R88: what an instruction of one
row does, with no poison and no consuming source: VCHAIN's element is its chain's output on its operands, converted; VRED's output
is its group's sum by the tree of pairs, or for integers exact, or the element selected and its index; VSCAN's running value
starts anew in each group; VGATH reads the table's element that an index names, 0 for a skipped one; VSCAT combines in ascending
order, each seeing the one before; VDOT's output is the exact sum of products, or the FP32 sum of the groups' scaled ones in
ascending order; VPERM sends a group through the network of its bank register; VSEARCH writes its assignments and counts, an
expert's rows in ascending order up to its capacity; VFIND ends at the first match or leaves its state; VCOUNT counts each index
below its bound. Of an index out of range the entry stops with 0x71. The result that R230 admits and no rule states is a free
value (log 8). -/
def Obligations.VectorWordsPush : Prop :=
  (∀ (s : State) (a : At) (t : BitVec 2) (g : BitVec 3) (x y z : BitVec 5), runner s = some a →
    fieldReady (seen s a) a x → fieldReady (seen s a) a y → fieldReady (seen s a) a z →
    let p (i : Instr) (q : Nat) (r : State → At → Nat → Nat → Nat → ResE) : Prop := Pushes i s a q t.toNat g.toNat x y z r
    p (.vchain t g x y z) 1 (resolveChain ((encode (.vchain t g x y z)).headD 0)) ∧ p (.vredSum t g x y z) 1 (resolveRed 0) ∧
    p (.vredMax t g x y z) 1 (resolveRed 1) ∧ p (.vredMin t g x y z) 1 (resolveRed 2) ∧
    p (.vredArgmax t g x y z) 1 (resolveRed 3) ∧ p (.vredArgmin t g x y z) 1 (resolveRed 4) ∧
    p (.vredSumsq t g x y z) 1 (resolveRed 5) ∧ p (.vscanAdd t g x y z) 1 (resolveScan 0) ∧
    p (.vscanMax t g x y z) 1 (resolveScan 1) ∧ p (.vgath t g x y z) 1 resolveVgath ∧
    p (.vscatSet t g x y z) 1 (resolveVscat 0) ∧ p (.vscatAdd t g x y z) 1 (resolveVscat 1) ∧
    p (.vscatMax t g x y z) 1 (resolveVscat 2) ∧ p (.vscatMul t g x y z) 1 (resolveVscat 3) ∧
    p (.vdotS8 t g x y z) 1 (resolveDot ((encode (.vdotS8 t g x y z)).headD 0) 0) ∧
    p (.vdotQ4 t g x y z) 1 (resolveDot ((encode (.vdotQ4 t g x y z)).headD 0) 1) ∧
    p (.vdotT5 t g x y z) 1 (resolveDot ((encode (.vdotT5 t g x y z)).headD 0) 2) ∧
    Pushes (.bset t g x y) s a 1 t.toNat g.toNat x y 0 (resolveBset ((encode (.bset t g x y)).headD 0)) ∧
    p (.vperm t g x y z) 1 resolveVperm ∧ p (.vsearchTopk t g x y z) 1 (resolveSearch false) ∧
    p (.vsearchThr t g x y z) 1 (resolveSearch true) ∧ p (.vfind t g x y z) 1 resolveFind ∧
    p (.vcount t g x y z) 1 resolveCount) ∧
  (∀ (s : State) (c : Nat) (e : Entry) (rest : List Entry), queueAt s c 1 = e :: rest → e.q = 1 → e.prog = .start →
     unitMayRun s c e = true → s.poison = [] → vecCheck s c e = .ok () → vecIdle s e = false →
     let key := keyOfEntry s e
     let count (r : Region) : Nat := r.count s key
     let done (u : State) (result : Option Nat) : Prop := WorksOn (.vectorRow c) s u c e true result fun z => z.row = 1
     let stores (w : List (Place × List Byte)) : State := fillWritten (putPlaces s key w) (w.map (fun x => (x.1, x.2.length))) []
     let gives (n : Nat) (r : Region) (v : Nat → Nat) : Prop := r.q = 0 ∧
       (if count r = 1 ∧ n ≠ 1 then r.get s key [] 0 = .ok (v 0) ∧ ∀ i, v i = v 0 else ∀ i, i < n → r.get s key [] i = .ok (v i))
     let index (ix : Place) (i : Nat) : Nat := leNat (fetchPlace s 0 (ix.plus (4 * i)) 4)
     let skip := 0xFFFFFFFF
     let inRange (ix : Place) (m n : Nat) : Prop := ∀ i, i < n → index ix i = skip ∨ index ix i < m
     let moved (ix : Place) (n : Nat) : List Nat := (List.range n).filter (fun i => index ix i != skip)
     (∀ d (l : List (Option Region)) ch (v : Nat → Nat → Nat), l.length = 3 → e.op = .vchain d (l.getD 0 none) (l.getD 1 none) (l.getD 2 none) ch →
       count d ≤ 64 → (∀ k, k < 3 → match l.getD k none with | some r => gives (count d) r (v k) | none => ∀ i, v k i = 0) →
       done (stores ((List.range (count d)).map (fun i =>
         d.put s key i (enc32 d.fmt ch.rm (chainType ch) (chainValue ch [v 0 i, v 1 i, v 2 i] i))))) none) ∧
     (∀ fn r (dst : Option Place) ctl (v : Nat → Nat), e.op = .vred fn r dst ctl → count r ≤ 64 → gives (count r) r v →
       let outs := (chunks (if ctl.g = 0 then count r else ctl.g) ((List.range (count r)).map v)).map (redValue fn r.fmt ctl.ofmt ctl.rm)
       done (stores (dst.toList.flatMap (fun d => outs.zipIdx.map (fun x =>
         (d.plus (x.2 * redSize fn ctl.ofmt), leBytes (redSize fn ctl.ofmt) x.1))))) (resIf ctl.res (nth outs 0))) ∧
     (∀ fn d r ctl (v : Nat → Nat), e.op = .vscan fn d r ctl → count r ≤ 64 → gives (count r) r v →
       let o := (scanOuts fn (elemType r.fmt) (if ctl.g = 0 then count r else ctl.g) ctl.excl d.fmt ctl.rm 0 none
         ((List.range (count r)).map v)).1
       done (stores (o.zipIdx.map (fun x => d.put s key x.2 x.1))) (resIf ctl.res (o.getLastD 0))) ∧
     (∀ d t ix ctl, e.op = .vgath d t ix ctl → count d ≤ 64 → t.q = 0 →
       (∀ v : Nat → Nat, inRange ix (count t) (count d) →
         (∀ i, i < count d → index ix i ≠ skip → t.get s key [] (index ix i) = .ok (v i)) →
         done (stores ((List.range (count d)).map (fun i => d.put s key i (if index ix i = skip then 0
           else enc32 d.fmt ctl.rm (elemType t.fmt) (v i))))) (resIf ctl.res (moved ix (count d)).length)) ∧
       (∀ i, i < count d → inRange ix (count t) i → index ix i ≠ skip → count t ≤ index ix i →
         exec (.vectorRow c) s = .next (failEntry s c e ⟨0x71, i, index ix i, count t⟩))) ∧
     (∀ fn t r ix ctl (st : Nat → State) (v : Nat → Nat), e.op = .vscat fn t r ix ctl → count r ≤ 64 → r.q = 0 →
       inRange ix (count t) (count r) → st 0 = s →
       (∀ i, i < count r → let x := index ix i
         (x = skip → st (i + 1) = st i) ∧ (x ≠ skip → r.get (st i) key [] i = .ok (v i) ∧
           let at_ := t.base.shift (t.elem (st i) key x * fmtBytes t.fmt)
           let old := elemBits (st i) key [] t.fmt t.base (t.elem (st i) key x)
           st (i + 1) = putPlace (st i) key at_ (leBytes (fmtBytes t.fmt) (scatValue fn ctl.rm t.fmt old (elemType r.fmt) (v i))))) →
       done (fillWritten (st (count r)) ((moved ix (count r)).map (fun i =>
         (t.base.shift (t.elem (st i) key (index ix i) * fmtBytes t.fmt), fmtBytes t.fmt))) [])
         (resIf ctl.res (moved ix (count r)).length)) ∧
     (∀ fn d a b (r : Option Region) sb ctl (v : Nat → Nat) (y : Nat → FV), e.op = .vdot fn d a b r sb ctl → count d ≤ 64 → a.q = 0 → b.q = 0 →
       (∀ x, r = some x → gives (count d) x v) →
       (∀ j, j < count d → dotOut s key [] fn a b (count b) j sb (if r.isSome then some (v j) else none) = .ok (y j)) →
       let u := stores ((List.range (count d)).map (fun j => d.put s key j (encodeFmt d.fmt ctl.rm (y j))))
       if ctl.res then done { u with freeCount := u.freeCount + 1 } (some (Config.freeWord u.freeCount).toNat) else done u none) ∧
     (∀ d r ctl, e.op = .vperm d r ctl → count d ≤ 64 → r.q = 0 →
       let v := (List.range 64).map (fun i => if i < count d then elemBits s key [] r.fmt r.base (r.elem s key i) else 0)
       let o := benes (tabGet 0 (coreAt s c).regs.b ctl.breg) v
       let u := stores ((List.range (count d)).map (fun i =>
         d.put s key i (if d.fmt = r.fmt then nth o i else encodeFmt d.fmt ctl.rm (decodeFmt r.fmt (nth o i)))))
       if ctl.res then done { u with freeCount := u.freeCount + 1 } (some (Config.freeWord u.freeCount).toNat) else done u none) ∧
     (∀ d, e.op = .vsearch d →
       let map_ : List Nat := match d.remap with
         | none => List.range d.experts
         | some p => (fetchPlace s 0 p d.experts).map (·.toNat)
       let rows := (List.range d.rows).map (assignRow s key d map_)
       let adm := (List.range d.experts).map (fun x => admitted d.cap x rows)
       ((∀ x, x ∈ map_ → x < d.experts) → done (engineWrite (engineWrite s key d.table (rows.zipIdx.flatMap (fun r =>
           (List.range d.kmax).flatMap (fun k => leBytes 8 (slotBits adm r.2 (r.1[k]?)))))) key d.counts
             (adm.flatMap (fun l => leBytes 2 l.length)))
         (resIf d.res ((rows.map List.length).sum - (adm.map List.length).sum))) ∧
       ∀ i x, map_[i]? = some x → d.experts ≤ x → (∀ j y, j < i → map_[j]? = some y → y < d.experts) →
         exec (.vectorRow c) s = .next (failEntry s c e ⟨0x72, i, x, d.experts⟩)) ∧
     (∀ pat r m, e.op = .vfind pat r m → count r ≤ 64 → r.q = 0 →
       let z := findScan pat m 0 ((List.range (count r)).map (fun i => elemBits s key [] r.fmt r.base (r.elem s key i)))
       WorksOn (.vectorRow c) s s c e true (some (match z.2 with | some i => i % 2 ^ 16 * 2 ^ 32 + 2 ^ 5 | none => z.1))
         fun _ => True) ∧
     (∀ dst m r res (st : Nat → State), e.op = .vcount dst m r res → count r ≤ 64 → r.q = 0 → st 0 = s →
       let x (i : Nat) : Nat := elemBits s key [] r.fmt r.base (r.elem s key i)
       (∀ i, i < count r → (m ≤ x i → st (i + 1) = st i) ∧ (x i < m → st (i + 1) = putPlace (st i) key (dst.plus (4 * x i))
         (leBytes 4 (min (leNat (fetchPlace (st i) key (dst.plus (4 * x i)) 4) + 1) (2 ^ 32 - 1))))) →
       done (fillWritten (st (count r)) (((List.range (count r)).filter (fun i => decide (x i < m))).map (fun i => (dst.plus (4 * x i), 4))) [])
         (resIf res ((List.range (count r)).filter (fun i => decide (m ≤ x i))).length))) ∧
  (∀ (ch : Chain) (o : ChainOp) (src : List Nat) (i : Nat), ch.ops = [o] → ch.out = o.dst → o.dst < 8 →
     let sel (n : Nat) : Nat := chainSel src i ch.consts (List.replicate 8 0) n
     chainValue ch src i = elemOp o.code o.rm (sel o.x) (sel o.y) (sel o.z)) ∧
  (∀ (rm z : Nat) (x y : BitVec 32),
     let r (code : Nat) (v : BitVec 32) : Prop := elemOp code rm x.toNat y.toNat z = v.toNat
     let flag (code : Nat) (b : Bool) : Prop := elemOp code rm x.toNat y.toNat z = if b then 1 else 0
     r 37 (x + y) ∧ r 38 (x - y) ∧ r 39 (x * y) ∧ r 41 (if y.slt x then y else x) ∧ r 42 (if x.slt y then y else x) ∧
     r 43 (if y.ult x then y else x) ∧ r 44 (if x.ult y then y else x) ∧ r 45 (x &&& y) ∧ r 46 (x ||| y) ∧ r 47 (x ^^^ y) ∧
     r 48 (x <<< (y.toNat % 32)) ∧ r 49 (x >>> (y.toNat % 32)) ∧ r 50 (x.sshiftRight (y.toNat % 32)) ∧ r 55 (-x) ∧
     flag 51 (x == y) ∧ flag 52 (x.slt y) ∧ flag 53 (x.ult y) ∧
     elemOp 58 rm x.toNat y.toNat z = (if x = 0 then z else y.toNat)) ∧
  (∀ (g k : Nat) (l : List Nat), 0 < g → (chunks g l).getD k [] = (l.drop (g * k)).take g) ∧
  (∀ l : List Nat, 2 ≤ l.length → treeSum l.length l = treeSum (pairSums l).length (pairSums l) ∧
     (pairSums l).length = (l.length + 1) / 2 ∧ ∀ i, nth (pairSums l) i =
       if 2 * i + 1 < l.length then faddBits 2 0 (nth l (2 * i)) (nth l (2 * i + 1)) else nth l (2 * i)) ∧
  (∀ (fmt ofmt rm : Nat) (l : List Nat),
     (elemType fmt = 2 → redValue 0 fmt ofmt rm l = enc32 ofmt rm 2 (treeSum l.length l) ∧
       redValue 5 fmt ofmt rm l = enc32 ofmt rm 2 (treeSum l.length (l.map (fun x => fmulBits 2 0 x x)))) ∧
     (elemType fmt = 0x0A → redValue 0 fmt ofmt rm l = encodeFmt ofmt rm (.fin (.int (l.map (fun v => sgn v 32)).sum) none) ∧
       redValue 5 fmt ofmt rm l = encodeFmt ofmt rm (.fin (.int (l.map (fun v => sgn v 32 * sgn v 32)).sum) none)) ∧
     (elemType fmt = 0x0E → redValue 0 fmt ofmt rm l = encodeFmt ofmt rm (.fin (.int (l.map (fun v => (v : Int))).sum) none))) ∧
  (∀ (t : Nat) (top : Bool) (l : List Nat) (x : Nat),
     (∀ y i, l[i]? = some y → decodeFmt t y = .nan → (∀ j z, j < i → l[j]? = some z → decodeFmt t z ≠ .nan) →
       argSelect t top l = (canonNaN 2, i)) ∧
     (l ≠ [] → decodeFmt t x ≠ .nan → (∀ y, y ∈ l → decodeFmt t y ≠ .nan) →
       argSelect t top [x] = (x, 0) ∧
       argSelect t top (l ++ [x]) = if better t top x (argSelect t top l).1 then (x, l.length) else argSelect t top l)) ∧
  (∀ (g fmt rm : Nat) (l a : List Nat), 0 < g → a.length = l.length →
     let before (i : Nat) : Nat := nth a (i - 1)
     let out (fn : Nat) (excl : Bool) (i : Nat) : Nat := nth (scanOuts fn 2 g excl fmt rm 0 none l).1 i
     ((∀ i, i < l.length → nth a i = if i % g = 0 then nth l i else faddBits 2 0 (before i) (nth l i)) →
       ∀ i, i < l.length → out 0 false i = encodeFmt fmt rm (decodeFmt 2 (nth a i)) ∧
         out 0 true i = encodeFmt fmt rm (if i % g = 0 then .fin (.int 0) (some false) else decodeFmt 2 (before i))) ∧
     ((∀ i, i < l.length → nth a i = if i % g = 0 then canonical 2 (nth l i) else fminmax 2 true (before i) (nth l i)) →
       ∀ i, i < l.length → out 1 false i = encodeFmt fmt rm (decodeFmt 2 (nth a i)) ∧
         out 1 true i = encodeFmt fmt rm (if i % g = 0 then .inf true else decodeFmt 2 (before i)))) ∧
  (∀ (g fmt rm t : Nat) (l : List Nat) (a : Nat → Int), 0 < g → l.length ≤ 2 ^ 32 → (∀ x, x ∈ l → x < 2 ^ 32) → t ≠ 2 →
     let v (i : Nat) : Int := if t = 0x0A then sgn (nth l i) 32 else nth l i
     let out (fn : Nat) (excl : Bool) (i : Nat) : Nat := nth (scanOuts fn t g excl fmt rm 0 none l).1 i
     ((∀ i, i < l.length → a i = if i % g = 0 then v i else a (i - 1) + v i) →
       ∀ i, i < l.length → out 0 false i = encodeFmt fmt rm (.fin (.int (a i)) none) ∧
         out 0 true i = encodeFmt fmt rm (if i % g = 0 then .fin (.int 0) (some false) else .fin (.int (a (i - 1))) none)) ∧
     ((∀ i, i < l.length → a i = if i % g = 0 then v i else max (a (i - 1)) (v i)) →
       ∀ i, i < l.length → out 1 false i = encodeFmt fmt rm (.fin (.int (a i)) (some false)) ∧
         out 1 true i = encodeFmt fmt rm (if i % g = 0 then .inf true else .fin (.int (a (i - 1))) (some false)))) ∧
  (∀ (fmt rm type old v : Nat), let o := decodeFmt fmt old
     let x := decodeFmt type v
     scatValue 0 rm fmt old type v = encodeFmt fmt rm x ∧ scatValue 1 rm fmt old type v = encodeFmt fmt rm (.sum [o, x]) ∧
     scatValue 3 rm fmt old type v = encodeFmt fmt rm (o.mul x) ∧
     (∀ k, o.cmp x = some k → scatValue 2 rm fmt old type v = if k < 0 then encodeFmt fmt rm x else old)) ∧
  (∀ (s : State) (key : Nat) (a b : Region) (k j sb : Nat), fmtBlock a.fmt = false →
     let x (i : Nat) : Int := sgn (elemBits s key [] a.fmt a.base (a.elem s key (j * k + i))) 8
     let y (i : Nat) : Int := sgn (elemBits s key [] b.fmt b.base (b.elem s key i)) 8
     let p := ((List.range k).map (fun i => x i * y i)).sum
     dotOut s key [] 0 a b k j 0 none = .ok (.fin (.int (max (-2 ^ 31) (min (2 ^ 31 - 1) p))) none) ∧
     (sb ≠ 0 → dotOut s key [] 0 a b k j sb none = .ok (decodeFmt 2 (encodeFmt 2 0 ((FV.fin (.int p) none).mul (decodeFmt 2 sb)))))) ∧
  (∀ (s : State) (key fn : Nat) (a b : Region) (k j sb : Nat) (p : Nat → Int) (q : Nat → Nat), fn ≠ 0 → sb ≠ 0 → q 0 = 0 →
     let l := fmtL a.fmt
     (∀ i, i < ceilDiv k l → dotSum s key [] a b k j (i * l) (min k (i * l + l)) = .ok (p i) ∧
       let scale := decodeFmt 4 (leNat (fetchPlace s key (blockPlace s a.fmt a.base (a.elem s key (j * k + i * l) / l)).2 2))
       q (i + 1) = faddBits 2 0 (q i) (encodeFmt 2 0 (((FV.fin (.int (p i)) none).mul scale).mul (decodeFmt 2 sb)))) →
     dotOut s key [] fn a b k j sb none = .ok (decodeFmt 2 (q (ceilDiv k l)))) ∧
  (∀ (b : Nat) (v : List Nat), v.length = 64 → benes 0 v = v ∧ (benes b v).Perm v) ∧
  (∀ (d : Search) (scores l : List Nat) (k x : Nat), d.thr = false → (pickCols d scores k x l).1 = l.take k) ∧
  (∀ (cap x : Nat) (rows : List (List (Nat × Nat))), (cap ≠ 0 → (admitted cap x rows).length ≤ cap) ∧
     ∀ r, r ∈ admitted cap x rows → ∃ a, a ∈ rows.getD r [] ∧ a.1 = x) ∧
  (∀ (adm : List (List Nat)) (r x w : Nat), slotBits adm r none = 0 ∧
     (∀ p, (adm.getD x [])[p]? = some r → (∀ j, j < p → (adm.getD x [])[j]? ≠ some r) →
       slotBits adm r (some (x, w)) = w + x * 2 ^ 32 + 2 ^ 40 + p * 2 ^ 48) ∧
     (r ∉ adm.getD x [] → slotBits adm r (some (x, w)) = w + x * 2 ^ 32 + 2 ^ 40 + 2 ^ 41 + 0xFFFF * 2 ^ 48)) ∧
  (∀ (b : Nat) (l : List Nat), (findScan [b] 0 0 l).2 = l.findIdx? (· == b))

/-- R147, R148, R150, R251: the words of the matrix engine push their entry into MQ. -/
def Obligations.MatrixWordsPush : Prop :=
  ∀ (s : State) (a : At) (t g : BitVec 2) (x y z : BitVec 5), runner s = some a →
    fieldReady (seen s a) a x → fieldReady (seen s a) a y → fieldReady (seen s a) a z →
    let p (i : Instr) (q : Nat) (r : State → At → Nat → Nat → Nat → ResE) : Prop := Pushes i s a q t.toNat g.toNat x y z r
    Pushes (.mlt t g x) s a 2 t.toNat g.toNat x 0 0 resolveMlt ∧
    Pushes (.mgo t g x) s a 2 t.toNat g.toNat x 0 0 (resolveMgo ((encode (.mgo t g x)).headD 0)) ∧
    Pushes (.mldwDense t g x z) s a 2 t.toNat g.toNat x 0 z (resolveMldw 0) ∧ p (.mldwS24 t g x y z) 2 (resolveMldw 1) ∧
    p (.mldwS14 t g x y z) 2 (resolveMldw 2) ∧ Pushes (.mswap t g) s a 2 t.toNat g.toNat 0 0 0 resolveMswap ∧
    Pushes (.mmask t g x) s a 2 t.toNat g.toNat x 0 0 resolveMmask ∧
    Pushes (.mzero t g x) s a 2 t.toNat g.toNat x 0 0 (resolveMzero ((encode (.mzero t g x)).headD 0)) ∧
    p (.mdrainP t g x y z) 2 (resolveDrain ((encode (.mdrainP t g x y z)).headD 0) 0) ∧
    p (.mdrainPort t g x y z) 2 (resolveDrain ((encode (.mdrainPort t g x y z)).headD 0) 1) ∧
    p (.mdrainSel t g x y z) 2 (resolveDrain ((encode (.mdrainSel t g x y z)).headD 0) 2) ∧
    Pushes (.mstat t g) s a 2 t.toNat g.toNat 0 0 0 resolveMstat

/-- R122, R149, R151, R216: GIVE pushes a token of the strand into its FIFO once the remote accesses of the strand's
instructions are acknowledged, and stalls while it is full; TAKE pops the strand's oldest token of its FIFO, and waits while it
has none. R148, R217, R218: QDEPTH writes the strand's depth of a queue and
gives the old one, from 1 to the queue's size; outside it traps with 0x18. QSEQ gives the last pushed or the last completed
number. -/
def Obligations.TokensAndQueues : Prop :=
  (∀ (s : State) (a : At) (f : BitVec 3), runner s = some a →
       let u := seen s a
       let l := fifoAt u a.c f.toNat
       let moved (l' : List Nat) (t : State) : Prop := fifoAt t a.c f.toNat = l' ∧
         (∀ f', f' ≠ f.toNat → fifoAt t a.c f' = fifoAt u a.c f') ∧ Alone u t a id (fun k => { k with fifos := [] }) ∧
         Follows 4 0 (strandAt u a) (strandAt t a) ∧
         { (strandAt t a).still with gave := [], took := [] } = { (strandAt u a).still with gave := [], took := [] }
       (ccPerformed u a = false → exec (.give f) s = .next (holdWait u a .other false 0)) ∧
       (ccPerformed u a = true → l.length < 16 → Runs (.give f) s (moved (l ++ [a.x]))) ∧
       (ccPerformed u a = true → 16 ≤ l.length → exec (.give f) s = .next (holdWait u a (.stall 0) false f.toNat)) ∧
       (∀ l1 l2, l = l1 ++ a.x :: l2 → a.x ∉ l1 → Runs (.take f) s (moved (l1 ++ l2))) ∧
       (a.x ∉ l → exec (.take f) s = .next (holdWait u a (.take f.toNat) true 0))) ∧
  (∀ (s : State) (a : At) (d : BitVec 5) (n : BitVec 1) (q : BitVec 2), runner s = some a → dstReady (seen s a) a d n →
       let u := seen s a
       let size := if q = 1 then 32 else if q = 2 then 16 else 64
       (∀ b : BitVec 6, srcReady u a b →
         let v := (src u a b).toNat
         (1 ≤ v → v ≤ size → Runs (.qdepth d n q b) s (fun t => Alone u t a ∧
           WroteG d n (BitVec.ofNat 64 (tabGet 0 (strandAt u a).depth q.toNat)) (strandAt u a) (strandAt t a) ∧
           tabGet 0 (strandAt t a).depth q.toNat = v ∧
           (∀ m, m ≠ q.toNat → tabGet 0 (strandAt t a).depth m = tabGet 0 (strandAt u a).depth m) ∧
           Follows 4 0 (strandAt u a) (strandAt t a) ∧
           { (strandAt t a).still.noG with depth := [] } = { (strandAt u a).still.noG with depth := [] })) ∧
         (v = 0 ∨ size < v → exec (.qdepth d n q b) s = .next (signalTrap u a (ccTrap u a ⟨0x18, v, size, 0⟩)))) ∧
       Runs (.qseq d n q 0) s (fun t => DoneG 4 u t a d n (BitVec.ofNat 64 (tabGet 0 (strandAt u a).push q.toNat)) 0) ∧
       Runs (.qseq d n q 1) s (fun t => DoneG 4 u t a d n (BitVec.ofNat 64 (tabGet 0 (strandAt u a).done q.toNat)) 0))

/-! ## Tiles and versions (R91 to R116, R269 to R284) -/

/-- R97, R270, R272, R273, R429: TALLOC and TALLOC.v, whose operands pass and which no answer awaits: a request that its unit
places gives d the handle, and the tile table one entry more; one that the unit refuses traps; one that must wait joins the
unit's wait list, its strand waiting. A handle that the unit has granted meanwhile is taken at once, found again by the pc of
its TALLOC (log 35). R96, R429: what a pool unit answers to a request, in the order of R429, read from top to bottom (log 58);
a head that would be placed is refused while its job's settle table is full. -/
def Obligations.Allocation : Prop :=
  (∀ (s : State) (a : At) (d : BitVec 5) (nw : BitVec 1) (x y : BitVec 6), runner s = some a →
       let u := seen s a
       srcReady u a x → srcReady u a y → dstReady u a d nw →
       let w := (src u a x).toNat
       let b := (src u a y).toNat
       let pc := (strandAt u a).pc.toNat
       let n := allocUnit a.c w
       let allocates (i : Instr) (v : Bool) : Prop :=
         allocCheck u a v ((encode i).headD 0).toNat w b = .ok () →
         (∀ h, grantOf (strandAt u a) (2 * pc) = some h → Runs i s (fun t =>
           DoneG 4 (onStrand u a (dropGrant (2 * pc))) t a d nw h 0)) ∧
         (grantOf (strandAt u a) (2 * pc) = none → allocWaits u a pc = false → unitQuiet u a n = true →
           let r := allocReq u a v w b
           (∀ g skip, allocAnswer u n r = .placed g skip → ∃ p h, placeReq u n r g skip = (p, h) ∧
             (unitAt p n).tiles.length = (unitAt u n).tiles.length + 1 ∧
             Runs i s (fun t => DoneG 4 (onStrand p a (noteTile h)) t a d nw (BitVec.ofNat 64 h) 0)) ∧
           (∀ c, allocAnswer u n r = .refused c → exec i s = .next (signalTrap u a (ccTrap u a c))) ∧
           (allocAnswer u n r = .waits → (strandAt u a).stopping = false → Runs i s (fun t =>
             (strandAt t a).status = .waiting ∧ (unitAt t n).waits = (unitAt u n).waits ++ [r] ∧ t.mem = s.mem ∧
             (strandAt t a).pc = (strandAt u a).pc ∧ (strandAt t a).g = (strandAt u a).g)))
       allocates (.talloc d nw x y) false ∧ allocates (.tallocV d nw x y) true) ∧
  (∀ (s : State) (n : Nat) (w : Alloc),
       let q := poolAt (unitAt s n) w.pool
       let p := bits w.word 46 2
       let table := (unitAt s n).tiles.length < (if n < 1728 then 512 else 8192)
       let behind := (unitAt s n).waits.any (fun x => x.pool == w.pool && bits x.word 46 2 == p)
       let refusedBy (code : Nat) : Prop := ∃ c, allocAnswer s n w = .refused c ∧ c.code = code ∧ c.a0 = w.word
       (q.size < w.need → refusedBy 0x43) ∧
       (w.need ≤ q.size → nth q.quota p < w.need → refusedBy 0x42) ∧
       (w.need ≤ q.size → w.need ≤ nth q.quota p →
         let place := if behind then none else ringPlace q p w.need
         (∀ g k, place = some (g, k) → table → (w.head = none ∨ liveHeads s w.job < 1024) → allocAnswer s n w = .placed g k) ∧
         (place ≠ none → table → w.head ≠ none → 1024 ≤ liveHeads s w.job → refusedBy 0x56) ∧
         (place ≠ none → ¬table → q.trapMode = true → refusedBy 0x44) ∧
         (place = none → q.trapMode = true → refusedBy 0x41) ∧
         (q.trapMode = false → (place = none ∨ ¬table) → allocAnswer s n w = .waits)))

/-- R101, R274, R275, R282: TADD, a TDRAW of a task that is not restartable, and STOPREF leave one operation for the handle's
pool unit and go on; a TDRAW waits for the strand's loads, and one of a restartable task is noted in its list instead. R103, R276:
TABND stalls until every unit has applied what its strand sent before it, and then settles the live tiles of its job with its
tag. R98 to R100, R274, R430: a TADD that its unit applies raises the count of a live drawn tile, a draw lowers it by one, and
an engine's draw its pend too; a count of 0 or a sum above 65,535 changes nothing and comes back as an asynchronous cause
(R428); a TADD of 0 changes nothing (log 92). R102: a tile whose count and pend are 0 returns: its entry and its granules'
full-empty bits are gone, its partition's use is lower by its need, and the tail of the ring passes it where it stands at the
tail; else its span waits in the list of the returned ones. -/
def Obligations.PoolOperations : Prop :=
  (∀ (s : State) (a : At) (x y : BitVec 6), runner s = some a →
       let u := seen s a
       srcReady u a x →
       let h := (src u a x).toNat
       let sent (i : Instr) (op : PoolOp) : Prop := Runs i s (fun t =>
         (∃ r, (unitAt t (unitOf a.c h)).inbox = (unitAt u (unitOf a.c h)).inbox ++ [r] ∧ r.op = op ∧ r.core = a.c ∧ r.sx = a.x) ∧
         DoneNop 4 { u with units := t.units } t a)
       (srcReady u a y → (src u a y).toNat < 65536 → hForm h = true → sent (.tadd x y) (.tadd h (src u a y).toNat)) ∧
       sent (.stopref x) (.stopref h) ∧
       (hForm h = true → loadsOut u a = true → defers (strandAt u a) = false →
         exec (.tdraw x) s = .next (holdWait u a .other false 0)) ∧
       (hForm h = true → loadsOut u a = false → defers (strandAt u a) = false → sent (.tdraw x) (.draw h)) ∧
       (∀ k, (strandAt u a).task = some k → k.restart = true → hForm h = true → loadsOut u a = false →
         let first := startHandle u (unitOf a.c h) (ctxOf u a) h
         deferRoom k.deferred first = true → Runs (.tdraw x) s (fun t =>
           (∃ k', (strandAt t a).task = some k' ∧ k'.deferred = deferDraw k.deferred first) ∧
           Follows 4 0 (strandAt u a) (strandAt t a) ∧ t.mem = u.mem ∧ (strandAt t a).g = (strandAt u a).g))) ∧
  (∀ (s : State) (a : At) (x : BitVec 6), runner s = some a → srcReady (seen s a) a x →
       let u := seen s a
       let tag := (src u a x).toNat
       tag < 65536 →
       (u.units.any (fun n => !unitQuiet u a n.1) = true → exec (.tabnd x) s = .next (holdWait u a .other false 0)) ∧
       (u.units.any (fun n => !unitQuiet u a n.1) = false →
         Runs (.tabnd x) s (fun t => ∃ v, v = abandon u a.c (jobOf u a) tag ∧ DoneNop 4 v t a) ∧
         (tag = 0 → abandon u a.c (jobOf u a) tag = u))) ∧
  (∀ (s : State) (r : PoolReq) (h : Nat) (t : Tile),
       let ctx := (jobAt s r.job).ctx
       let n := unitOf r.core h
       let a : At := ⟨r.core, r.sx⟩
       tileCheck s r.core ctx r.job h = .ok t → t.kind = 1 → headAt s n ctx (startHandle s n ctx h) = none →
       let is (v : State) (t' : Tile) : Prop := { v with units := [] } = { s with units := [] } ∧
         (∀ m, m ≠ n → unitAt v m = unitAt s m) ∧
         unitAt v n = { unitAt s n with tiles := (unitAt s n).tiles.map (fun x => if sameTile t x then t' else x) }
       let fails (code k : Nat) : Prop := (strandAt s a).task.any (fun q => q.job == r.job) = true →
         applyReq s r = onStrand s a (fun z => { z with
           asyncs := z.asyncs ++ [⟨⟨code, h, t.count, k⟩, false, 0, 0, r.word, r.pc, 2⟩] })
       (∀ k, r.op = .tadd h k → (k = 0 → applyReq s r = s) ∧ (k ≠ 0 → t.count = 0 → fails 0x48 k) ∧
         (k ≠ 0 → t.count ≠ 0 → 65535 < t.count + k → fails 0x49 k) ∧
         (k ≠ 0 → t.count ≠ 0 → t.count + k ≤ 65535 → is (applyReq s r) { t with count := t.count + k })) ∧
       (r.op = .draw h → (t.count = 0 → fails 0x46 0) ∧ (t.count ≠ 0 → is (applyReq s r) { t with count := t.count - 1 })) ∧
       (t.count ≠ 0 → ∃ v, drawTile s r.core ctx r.job h true = .ok v ∧
         is v { t with count := t.count - 1, pend := t.pend - 1 })) ∧
  (∀ (s : State) (n : Nat) (t : Tile), t.kind ≠ 3 →
       let q := poolAt (unitAt s n) t.pool
       (¬(t.count = 0 ∧ t.pend = 0) → settleTile s n t = putTile s n t) ∧
       (t.count = 0 → t.pend = 0 →
         let v := settleTile s n t
         let p := poolAt (unitAt v n) t.pool
         let less := setNth q.used t.part (nth q.used t.part - t.need)
         (unitAt v n).tiles = (unitAt s n).tiles.filter (fun x => !sameTile t x) ∧
         (∀ k, k ≠ t.pool → poolAt (unitAt v n) k = poolAt (unitAt s n) k) ∧ (∀ m, m ≠ n → unitAt v m = unitAt s m) ∧
         { v with units := [], fe := [] } = { s with units := [], fe := [] } ∧ (1728 ≤ n → v.fe = s.fe) ∧
         (n < 1728 → q.base % 256 = 0 → q.base + 256 * (t.gran + t.need) ≤ 2 ^ 20 → ∀ c o, o < 2 ^ 20 →
           isFull v c o = (isFull s c o &&
             !decide (c = n ∧ q.base + 256 * t.gran ≤ o ∧ o < q.base + 256 * (t.gran + t.need)))) ∧
         ((∀ x, x ∈ q.spans → x.1 ≠ q.t) → t.gran ≠ q.t →
           p = { q with used := less, spans := q.spans ++ [(t.gran, t.need)] }) ∧
         ((∀ x, x ∈ q.spans → x.1 ≠ q.t) → t.gran = q.t → q.u ≠ 0 →
           (q.u ≤ t.need ∨ ∀ x, x ∈ q.spans → x.1 ≠ (q.t + t.need) % q.size) →
           p = { q with used := less, t := (q.t + t.need) % q.size, u := q.u - t.need })))

/-- R95, R277, R284: TINFO reads the state word of a live drawn tile, and 0 where no live tile has the handle; TVER reads the
version word of a head, and 0 otherwise; both after every operation the strand has sent to the unit. -/
def Obligations.TileStateRead : Prop :=
  ∀ (s : State) (a : At) (d : BitVec 5) (n : BitVec 1) (x : BitVec 6), runner s = some a → srcReady (seen s a) a x →
    dstReady (seen s a) a d n →
    let u := seen s a
    let h := (src u a x).toNat
    let m := unitOf a.c h
    unitQuiet u a m = true →
    let gives (i : Instr) (v : Nat) : Prop := Runs i s (fun t => DoneG 4 u t a d n (BitVec.ofNat 64 v) 0)
    (hForm h = true → tileAt u m (ctxOf u a) h = none → gives (.tinfo d n x) 0) ∧
    (∀ t, hForm h = true → tileAt u m (ctxOf u a) h = some t → t.kind = 1 → t.count < 2 ^ 16 → t.tag < 2 ^ 16 →
      t.pend < 2 ^ 20 → t.part < 4 →
      gives (.tinfo d n x) (t.count * 2 ^ 48 + t.tag * 2 ^ 32 + t.pend * 2 ^ 12 + t.part * 2 ^ 10 + 2 ^ 8)) ∧
    (hForm h = false → exec (.tinfo d n x) s = .next (signalTrap u a (ccTrap u a ⟨0x4E, h, 0, 0⟩))) ∧
    (tileAt u m (ctxOf u a) h = none → gives (.tver d n x) 0) ∧
    (∀ t hd, tileAt u m (ctxOf u a) h = some t → t.kind = 3 → headAt u m (ctxOf u a) h = some hd → hd.subs.length < 16 →
      hd.ver < 2 ^ 16 →
      gives (.tver d n x) (hd.subs.length * 2 ^ 18 + b2n hd.sref * 2 ^ 17 + b2n hd.final * 2 ^ 16 + hd.ver))

/-- R110, R116, R279, R281, R283: PUBV and PUBV.f, with the strand's entries complete and its accesses done, publish at the
head's unit and write pd with what it answers; TSUB binds a subscriber and writes d with its index; SWAIT goes on when its
set is settled and waits until then. What the unit refuses traps. R108, R111, R114, R431: what publishing does: nothing where
the head is final; else the tile becomes a version tile with one draw for each subscriber that has not ended, and returns where
none is; the version before keeps the draws of its runs in progress; the head names the tile and the version that follows,
final with PUBV.f or at 65,535; its subscribers pass on, in states 0 and 5 to 1, in state 2 by their policy to 3 or 4, with a
draw of the new version held. R106, R110, R281: what binding does: the subscriber stands last, fired at once where a version
stands, with one more draw of it, and pushed onto its core's deque where a slot is free. That the tiles of a unit are
different entries, and that a head names a version tile, are premises that runs meet. -/
def Obligations.Versions : Prop :=
  (∀ (s : State) (c ctx job h tile scope : Nat) (final : Bool) (hd : Head) (ht : Tile), headCheck s c ctx job h = .ok (hd, ht) →
    let m := unitOf c tile
    let old := unitOf c hd.cur
    let apart (n : Nat) : Prop := (unitAt s n).tiles.Pairwise (fun x y => sameTile x y = false)
    let live := (hd.subs.filter (fun b => b.state ≠ 6)).length
    (hd.final = true → publish s c ctx job h tile final scope = .ok (s, false)) ∧
    (hd.final = false → (hValid tile = false ∨ (∀ t, tileAt s m ctx tile = some t → t.kind ≠ 1 ∨ t.job ≠ job)) →
      publish s c ctx job h tile final scope = .error ⟨0x51, h, tile, 0⟩) ∧
    (∀ t, hd.final = false → hValid tile = true → tileAt s m ctx tile = some t → t.kind = 1 → t.job = job → apart m → apart old →
      (hd.cur ≠ 0 → ∀ o, tileAt s old ctx hd.cur = some o → o.kind = 2) →
      ∃ v, publish s c ctx job h tile final scope = .ok (v, true) ∧
        (∃ hd', headAt v (unitOf c h) ctx h = some hd' ∧ hd'.ver = hd.ver + 1 ∧ hd'.cur = startHandle s m ctx tile ∧
          hd'.final = (final || decide (hd.ver + 1 = 65535)) ∧ hd'.scope = scope ∧ hd'.smask = hd.smask ∧ hd'.sref = hd.sref ∧
          hd'.job = hd.job ∧ hd'.subs.length = hd.subs.length ∧
          ∀ (i : Nat) (b : Sub), hd.subs[i]? = some b → ∃ b', hd'.subs[i]? = some b' ∧
            b'.state = (if b.state = 0 ∨ b.state = 5 then 1 else if b.state = 2 then (if b.policy = 1 then 3 else 4) else b.state) ∧
            (b.state ≠ 6 → b'.holds = true) ∧ (b.state = 6 → b' = b) ∧
            { b' with state := 0, holds := false, queued := false, waited := 0 } =
              { b with state := 0, holds := false, queued := false, waited := 0 }) ∧
        ((live ≠ 0 ∨ t.pend ≠ 0) →
          tileAt v m ctx tile = some { t with kind := 2, count := live, tag := 0, runs := 0, superseded := false }) ∧
        (live = 0 → t.pend = 0 → ∀ x, x ∈ (unitAt v m).tiles → sameTile t x = false) ∧
        (∀ o, hd.cur ≠ 0 → tileAt s old ctx hd.cur = some o →
          ((o.runs ≠ 0 ∨ o.pend ≠ 0) → tileAt v old ctx hd.cur = some { o with count := o.runs, superseded := true }) ∧
          (o.runs = 0 → o.pend = 0 → ∀ x, x ∈ (unitAt v old).tiles → sameTile o x = false)))) ∧
  (∀ (s : State) (c ctx job h : Nat) (b : Sub) (hd : Head) (ht : Tile), headCheck s c ctx job h = .ok (hd, ht) →
    let m := unitOf c hd.cur
    let i := hd.subs.length
    let ends := if hd.final then 6 else if hd.ver = 0 then 0 else 5
    let bound (v : State) (b' : Sub) : Prop := subscribe s c ctx job h b = .ok (v, i) ∧
      headAt v (unitOf c h) ctx h = some { hd with subs := hd.subs ++ [b'] }
    (15 ≤ i → subscribe s c ctx job h b = .error ⟨0x52, h, 0, 15⟩) ∧
    (i < 15 → hd.ver = 0 → ∃ v, bound v { b with state := ends } ∧ v.cores = s.cores) ∧
    (i < 15 → hd.ver ≠ 0 → (hd.cur = 0 ∨ tileAt s m ctx hd.cur = none) →
      ∃ v, bound v { b with state := ends, runv := 0 } ∧ v.cores = s.cores) ∧
    (∀ t, i < 15 → hd.ver ≠ 0 → hd.cur ≠ 0 → tileAt s m ctx hd.cur = some t →
      let k := coreAt s b.core
      let room := generalUsed k < 56
      ∃ v, bound v { b with state := 1, holds := true, queued := decide room, waited := 0 } ∧
        (unitAt v m).tiles = (unitAt s m).tiles.map (fun x => if sameTile t x then { t with count := t.count + 1 } else x) ∧
        (room → (coreAt v b.core).deque = ⟨b.entry, b.arg, 1, job, none, [], none, some (h, i), k.dqStamp⟩ :: k.deque) ∧
        (¬room → (coreAt v b.core).deque = k.deque))) ∧
  ∀ (s : State) (a : At), runner s = some a →
    let u := seen s a
    let job := jobOf u a
    let ctx := ctxOf u a
    (∀ (p sc : BitVec 3) (x y : BitVec 6), srcReady u a x → srcReady u a y → pReady u a p → strandEntries u a = [] →
      released u a = true → unitQuiet u a (unitOf a.c (src u a x).toNat) = true →
      let does (i : Instr) (f : Bool) : Prop :=
        let r := publish u a.c ctx job (src u a x).toNat (src u a y).toNat f sc.toNat
        (∀ w ok, r = .ok (w, ok) → pReady w a p → Runs i s (fun t => DoneP w t a p ok)) ∧
        (∀ c, r = .error c → exec i s = .next (signalTrap u a (ccTrap u a c)))
      does (.pubv p sc x y) false ∧ does (.pubvF p sc x y) true) ∧
    (∀ (d : BitVec 5) (n : BitVec 1) (x y : BitVec 6) (pl : Place) (v : Nat) (b : Sub), srcReady u a x → srcReady u a y →
      dstReady u a d n → readStruct u a (src u a y).toNat 32 32 = .ok (pl, v) →
      subFromBits u a (src u a y).toNat v = .ok b → unitQuiet u a (unitOf a.c (src u a x).toNat) = true →
      let r := subscribe u a.c ctx job (src u a x).toNat b
      (∀ w i, r = .ok (w, i) → dstReady w a d n → Runs (.tsub d n x y) s (fun t => DoneG 4 w t a d n (BitVec.ofNat 64 i) 0)) ∧
      (∀ c, r = .error c → exec (.tsub d n x y) s = .next (signalTrap u a (ccTrap u a c)))) ∧
    (∀ x : BitVec 6, srcReady u a x → (src u a x).toNat < 64 → (src u a x).toNat < (jobAt u job).nsets →
      (settledSet u job (src u a x).toNat = true → Runs (.swait x) s (fun t => DoneNop 4 u t a)) ∧
      (settledSet u job (src u a x).toNat = false → (strandAt u a).stopping = false →
        exec (.swait x) s = .next (holdWait u a (.swait (src u a x).toNat) true 0)))

/-! ## Tasks, the mailbox, collectives (R25, R26, R285 to R291) -/

/-- R25, R27, R285: FORK and ENQ, whose entry address is an instruction address and whose task is not at the deepest depth,
push a child at the head of the core's deque where a slot is free; a FORK's child counts in its creator's join counter. While
the deque has served another operation of the cycle they stall, a wait in progress going on; they stall too while what the
strand's release covers is unacknowledged (R122). An ENQ without a slot waits; a bad entry address traps with 0x25, the depth
with 0x1C and the entry address in TARG0 (log 58). -/
def Obligations.ChildrenPushed : Prop :=
  ∀ (s : State) (a : At) (x y : BitVec 6) (k : Task), runner s = some a → srcReady (seen s a) a x → srcReady (seen s a) a y →
    let u := seen s a
    let entry := (src u a x).toNat
    let arg := (src u a y).toNat
    (strandAt u a).task = some k →
    let pushes (i : Instr) (joined : Bool) : Prop :=
      (entry % 4 = 0 → entry < 2 ^ 52 → k.depth < 255 → ccPerformed u a = false →
        exec i s = .next (holdWait u a .other false 0)) ∧
      (entry % 4 = 0 → entry < 2 ^ 52 → k.depth < 255 → ccPerformed u a = true → (coreAt u a.c).dqBusy = true →
        dequeSlot (coreAt u a.c) k.depth ≠ none →
        ((strandAt u a).wait = none → exec i s = .next (holdWait u a .other false 0)) ∧
        ∀ w, (strandAt u a).wait = some w →
          exec i s = .next (holdWait u a w.kind ((strandAt u a).status == .waiting) w.arg)) ∧
      (entry % 4 = 0 → entry < 2 ^ 52 → k.depth < 255 → ccPerformed u a = true → (coreAt u a.c).dqBusy = false →
        ∀ slot, dequeSlot (coreAt u a.c) k.depth = some slot → Runs i s (fun t =>
          (∃ e, (coreAt t a.c).deque = e :: (coreAt u a.c).deque ∧ e.entry = entry ∧ e.arg = arg ∧ e.depth = k.depth + 1 ∧
            e.job = k.job ∧ e.parent = (if joined then some k.id else none) ∧ e.shapes = (strandAt u a).e ∧ e.slot = slot) ∧
          joinCount t k.id = joinCount u k.id + b2n joined ∧ (jobAt t k.job).live = (jobAt u k.job).live + 1 ∧
          t.mem = u.mem ∧ Follows 4 0 (strandAt u a) (strandAt t a) ∧ (strandAt t a).still = (strandAt u a).still)) ∧
      (entry % 4 ≠ 0 ∨ 2 ^ 52 ≤ entry → exec i s = .next (signalTrap u a (ccTrap u a ⟨0x25, entry, 0, 0⟩))) ∧
      (entry % 4 = 0 → entry < 2 ^ 52 → 255 ≤ k.depth →
        exec i s = .next (signalTrap u a (ccTrap u a ⟨0x1C, entry, 0, 0⟩)))
    pushes (.fork x y) true ∧ pushes (.enq x y) false ∧
    (entry % 4 = 0 → entry < 2 ^ 52 → k.depth < 255 → ccPerformed u a = true →
      dequeSlot (coreAt u a.c) k.depth = none → (strandAt u a).stopping = false → exec (.enq x y) s = .next (holdWait u a .enq true 0))

/-- R25, R26, R286, R343: without a slot, a FORK whose strand is quiet, with a save area that can be written and a free join
frame, runs the child on its own strand, the creator in a join frame, the child ready as any other (log 59); JOIN goes on when
no joined child lives, and else its strand is evicted: its context goes to a join frame, the strand is idle, its turn over. A
join frame is 2 KiB of the core's save area, and no other byte of memory changes; the lowest free frame is taken (log 10).
R444: a frame that cannot be written ends the task, with 0x99 where HBM does not hold the area, with 0x9A where its write
fails (log 89). -/
def Obligations.InlineChildAndJoin : Prop :=
  ∀ (s : State) (a : At) (k : Task), s.memOk → runner s = some a → (strandAt (seen s a) a).task = some k →
    let u := seen s a
    let lo := (ctxAt u (ctxOf u a)).savebase + 2 ^ 21 * a.c + 0x150000 + 0x800 * freeFrame u a.c (ctxOf u a)
    let framed (t : State) : Prop := ∀ x, x < lo ∨ lo + 0x800 ≤ x → t.mem.read x = u.mem.read x
    let fails := frameFails u (ctxOf u a) a.c
    let ended (code : Nat) : State := endWith (onCore u a.c (fun k => { k with frameBad := false })) a code 2 lo
    (∀ x y : BitVec 6, srcReady u a x → srcReady u a y → (src u a x).toNat % 4 = 0 → (src u a x).toNat < 2 ^ 52 →
      k.depth < 255 → ccPerformed u a = true → dequeSlot (coreAt u a.c) k.depth = none → quiet u a = true →
      (ctxAt u (ctxOf u a)).savebase ≠ 0 → framesUsed u a.c (ctxOf u a) < 64 →
      (∀ code, fails = some code → exec (.fork x y) s = .next (ended code)) ∧
      (fails = none → Runs (.fork x y) s (fun t =>
        (∃ c, (strandAt t a).task = some c ∧ c.depth = k.depth + 1 ∧ c.job = k.job ∧ c.card = false) ∧
        (strandAt t a).pc = BitVec.ofNat 52 (src u a x).toNat ∧ gVal (strandAt t a) 1 = BitVec.ofNat 64 (src u a y).toNat ∧
        (strandAt t a).e = (strandAt u a).e ∧ (strandAt t a).y = [0, 0, 0, 0] ∧ (strandAt t a).status = .ready ∧
        (coreAt t a.c).joins.length = (coreAt u a.c).joins.length + 1 ∧ (coreAt t a.c).turn = none ∧ framed t))) ∧
    (∀ code, fails = some code ↔ (code = 0x99 ∧ areaOutside u (ctxOf u a) a.c = true) ∨
      (code = 0x9A ∧ areaOutside u (ctxOf u a) a.c = false ∧ (coreAt u a.c).frameBad = true)) ∧
    (joinCount u k.id = 0 → Runs .join s (fun t => DoneNop 4 u t a)) ∧
    (joinCount u k.id ≠ 0 → quiet u a = true → (strandAt u a).stopping = false → (ctxAt u (ctxOf u a)).savebase ≠ 0 →
      framesUsed u a.c (ctxOf u a) < 64 → ∀ code, fails = some code → exec .join s = .next (ended code)) ∧
    (joinCount u k.id ≠ 0 → quiet u a = true → (strandAt u a).stopping = false → (ctxAt u (ctxOf u a)).savebase ≠ 0 →
      framesUsed u a.c (ctxOf u a) < 64 → fails = none → Runs .join s (fun t =>
        (strandAt t a).task = none ∧ (coreAt t a.c).turn = none ∧
        (∃ f, (coreAt t a.c).joins = (coreAt u a.c).joins ++ [f] ∧ f.job = jobOf u a ∧ f.strand.task = some k ∧
          (∀ r, gVal f.strand r = gVal (landAll (strandAt u a)) r) ∧
          ((strandAt u a).loop = none → f.strand.pc = BitVec.ofNat 52 ((strandAt u a).pc.toNat + 4))) ∧
        framed t ∧ Alone u t a State.noFree (fun c => { c with joins := [], turn := none })))

/-- R29, R287 to R291: CARD sends a request for a chunk, whose word its destination waits for, or, in a task that is executed
again, is given at once the next chunk the failed run had (R448); MBPOST appends an entry to its cluster's mailbox while there
is a place free and no post that arrived before it waits (log 99), and waits until then, in the order of arrival; MBTAKE of the
comm master gives the oldest entry's poster word and writes its 32 bytes to pond, and gives 0 and writes nothing when there is
none; COLL of the comm master adds a launch and gives its number. -/
def Obligations.CardMailCollective : Prop :=
  ∀ (s : State) (a : At), s.memOk → runner s = some a →
    let u := seen s a
    let k := clusterAt u (a.c / 48)
    (∀ (d : BitVec 5) (n : BitVec 1), dstReady u a d n → (∀ q, (strandAt u a).task = some q → q.regrants = []) →
      Runs (.card d n) s (fun t => DoneSb 4 u t a (destG d n) false false none (fun z => { z.noSb with cards := [] }) ∧
        t.cards = u.cards ++ [⟨a.c, a.x, jobOf u a, u.sbNext⟩])) ∧
    (∀ (d : BitVec 5) (n : BitVec 1) (q : Task) (c : Nat × Nat) (rest : List (Nat × Nat)), dstReady u a d n →
      (strandAt u a).task = some q → q.regrants = c :: rest → Runs (.card d n) s (fun t =>
        (strandAt t a).sb = (strandAt u a).sb ++ [⟨u.sbNext, destG d n, false, false, some (chunkWord c)⟩] ∧
        t.cards = u.cards ∧ Follows 4 0 (strandAt u a) (strandAt t a) ∧
        ∃ q', (strandAt t a).task = some q' ∧ q'.regrants = rest ∧ q'.grants = q.grants ++ [c])) ∧
    (∀ x y : BitVec 6, srcReady u a x → srcReady u a y → ccPerformed u a = true →
      let before := k.posters.takeWhile (· != 4 * a.c + a.x)
      (k.mail.length < 32 → before = [] → Runs (.mbpost x y) s (fun t => DoneNop 4 { u with clusters := t.clusters } t a ∧
        (clusterAt t (a.c / 48)).posters = k.posters.filter (· != 4 * a.c + a.x) ∧
        (∃ m, (clusterAt t (a.c / 48)).mail = k.mail ++ [m] ∧ m.wa = (src u a x).toNat ∧ m.wb = (src u a y).toNat ∧
          m.seq = k.mseq ∧ m.core = a.c % 48 ∧ m.sx = a.x) ∧
        (clusterAt t (a.c / 48)).mseq = (k.mseq + 1) % 2 ^ 32 ∧ ∀ c, c ≠ a.c / 48 → clusterAt t c = clusterAt u c)) ∧
      (32 ≤ k.mail.length ∨ before ≠ [] → (strandAt u a).stopping = false → ∃ v,
        exec (.mbpost x y) s = .next (holdWait v a .mbpost true 0) ∧ { v with clusters := [] } = { u with clusters := [] } ∧
        clusterAt v (a.c / 48) = { k with
          posters := if 4 * a.c + a.x ∈ k.posters then k.posters else k.posters ++ [4 * a.c + a.x] } ∧
        ∀ c, c ≠ a.c / 48 → clusterAt v c = clusterAt u c)) ∧
    (∀ (d : BitVec 5) (n : BitVec 1) (x : BitVec 6), srcReady u a x → dstReady u a d n → k.master = some (a.c % 48) →
      let ad := (src u a x).toNat
      checkAddr [2] 32 32 ad ad = .ok () →
      (k.mail = [] → Runs (.mbtake d n x) s (fun t => DoneG 4 u t a d n 0 0)) ∧
      (∀ m rest, k.mail = m :: rest →
        let w := 2 ^ 63 + place m.seq 8 32 + place m.core 0 6
        Runs (.mbtake d n x) s (fun t => (clusterAt t (a.c / 48)).mail = rest ∧
          WroteG d n (BitVec.ofNat 64 w) (strandAt u a) (strandAt t a) ∧
          Wrote u t (locPond a.c (bits ad 0 60)) 32 (m.wb * 2 ^ 192 + m.wa * 2 ^ 128 + w * 2 ^ 64 + place m.sx 56 2) ∧
          Follows 4 0 (strandAt u a) (strandAt t a)))) ∧
    (∀ (d : BitVec 5) (n : BitVec 1) (x y : BitVec 6) (pl : Place) (v : Nat), srcReady u a x → srcReady u a y → dstReady u a d n →
      k.master = some (a.c % 48) → collProg (src u a x).toNat = .ok () → readStruct u a (src u a y).toNat 64 64 = .ok (pl, v) →
      k.launches.length < 4 → released u a = true → Runs (.coll d n x y) s (fun t =>
        DoneG 4 { u with clusters := t.clusters } t a d n (BitVec.ofNat 64 k.counter) 0 ∧
        (∃ l, (clusterAt t (a.c / 48)).launches = k.launches ++ [l] ∧ l.num = k.counter ∧ l.prog = (src u a x).toNat ∧
          l.block = v ∧ l.pc = 0 ∧ l.loops = [0, 0, 0, 0]) ∧
        (clusterAt t (a.c / 48)).counter = (k.counter + 1) % 2 ^ 32 ∧ ∀ c, c ≠ a.c / 48 → clusterAt t c = clusterAt u c))

/-! ## The machine: reset, memory, words, steps (R138, R142, R144, R363, R389) -/

/-- R25, R27, R50, R145, R146, R149, R244, R303, R304, R341, R342, R359, R436: what stands after reset where the spec gives
the value: the core state, the full-empty bits, the system registers, the registers of dies, contexts, monitors and the
device. -/
def Obligations.ResetState : Prop :=
  (∀ c q, queueAt .reset c q = [] ∧ fifoAt .reset c q = []) ∧
  (∀ c, (coreAt .reset c).turn = none ∧ (coreAt .reset c).lastTurn = 3 ∧ (coreAt .reset c).deque = [] ∧
    (coreAt .reset c).lastSteal = c % 48 ∧ (coreAt .reset c).regs.shadow.levels = [] ∧ (coreAt .reset c).regs.active.levels = [] ∧
    (coreAt .reset c).regs.shadowMask = .zero ∧ (coreAt .reset c).regs.activeMask = .zero ∧
    (coreAt .reset c).regs.planes.map (·.fmt) = [0, 0] ∧ (coreAt .reset c).regs.ap = 0 ∧
    (coreAt .reset c).regs.modes = [0, 0, 0, 0] ∧ (coreAt .reset c).regs.retired = 0 ∧ (coreAt .reset c).fenced = false ∧
    (∀ i, tabGet 0 (coreAt .reset c).regs.pf i = 0) ∧ (∀ o, o < 16384 → State.reset.mem.read (locAcc c o) = 0) ∧
    ∀ o, isFull .reset c o = false) ∧
  (∀ a, (strandAt .reset a).tcause = 0 ∧ (strandAt .reset a).tpc = 0 ∧ (strandAt .reset a).wlim = 0x01000000 ∧
    ∀ i, tabGet 0 (strandAt .reset a).targ i = 0 ∧ tabGet 0 (strandAt .reset a).tcut i = 0) ∧
  State.reset.cycle = 0 ∧ State.reset.dev.ttper = 112500 ∧ State.reset.dev.stage = 0 ∧ State.reset.dev.plim = 0 ∧
  State.reset.dev.ltol = 0 ∧ State.reset.dev.rank = 0 ∧ State.reset.dev.tzLock = false ∧ State.reset.dev.tzBase = 0 ∧
  State.reset.dev.tzSize = 0 ∧ State.reset.dev.elbase = 0 ∧ State.reset.dev.elsize = 0 ∧ State.reset.dev.elhead = 0 ∧
  State.reset.dev.eltail = 0 ∧ State.reset.dev.eldrop = 0 ∧ State.reset.dev.elien = 0 ∧ State.reset.dev.capbase = 0 ∧
  State.reset.dev.capnent = 0 ∧ State.reset.dev.caphead = 0 ∧ State.reset.dev.capen = false ∧ State.reset.dev.capctx = 0 ∧
  State.reset.dev.capjob = 0 ∧ State.reset.dev.ecthr = 0 ∧
  (∀ d, (dieAt .reset d).slk = 11250 ∧ (dieAt .reset d).hthr = 0 ∧ (dieAt .reset d).ecap = 7 ∧ (dieAt .reset d).ecnt = 0) ∧
  (∀ c, let x := ctxAt .reset c
    x.lkey = 0 ∧ x.ptroot = 0 ∧ x.tvecd = 0 ∧ x.evecd = 0 ∧ x.wlimd = 0x01000000 ∧ x.savebase = 0 ∧ x.pgring = 0 ∧
    x.pgsize = 0 ∧ x.pghead = 0 ∧ x.pgtail = 0 ∧ x.chbase = 0 ∧ x.ppart = 0 ∧ x.pdtab = 0 ∧ x.shootPsz = 0 ∧ x.shootVa = 0 ∧
    x.busy = false ∧ x.vwin = 0 ∧ x.nwrFirst = 0 ∧ x.nwrCount = 0) ∧
  (∀ m, let k := monitorAt .reset m
    k.sel = 0 ∧ k.ctl = 0 ∧ k.min = 0xFFFFFFFF ∧ k.max = 0 ∧ k.cnt = 0 ∧ k.sum = 0)

/-- Reset memory is in canonical form: nothing is listed (log 2). -/
def Obligations.ResetMemoryCanonical : Prop := State.reset.memOk

/-- Every step keeps the canonical form of memory: addresses strictly rising, no byte listed that an unlisted address would
read as. The form is the model's own (log 2); it makes equal memories equal states. -/
def Obligations.StepKeepsMemoryCanonical : Prop := ∀ s t : State, s.memOk → step s = .next t → t.memOk

/-- R138 to R154, R328, R333: decoding what the encoder writes gives the instruction back, for every well-formed instruction
with every operand at every value its field admits: words of a CC with whatever stands behind them, and step words of a
collective program with admitted fields. -/
def Obligations.DecodeReadsWhatEncodeWrites : Prop := ∀ i : Instr, Sys2Proof.Laws.Encoding.Statement i

/-- R138 to R154, R328, R401: words written out from the encoding tables decode to what they stand for, and words with a
reserved part are refused with the code and the argument of R393 and R402. -/
def Obligations.WrittenWordsDecode : Prop :=
  decodeWord 0x00612000 = .ok (.add 3 0 4 32) ∧ decodeWord 0x2CB19003 = .ok (.ldN16 5 6 3) ∧
  decodeWord 0x557FFFFD = .ok (.br 2 1 (-3)) ∧ decodeWord 0x44814406 = .ok (.fcvtKf8F32 4 0 5 4) ∧
  decodeWord 0x43410801 = .ok (.ffmaS 26 0 4 8) ∧ decodeWord 0x4C60470A = .ok (.kbit 3 0 1 7) ∧
  decodeWord 0x50409902 = .ok (.emin 2 0 2 25) ∧ decodeWord 0x60602005 = .ok (.loopi 3 5) ∧
  decodeWord 0x6449D50F = .ok (.segend 2 2517) ∧ decodeWord 0x64060306 = .ok (.mts 24 3) ∧
  decodeWord 0x85122123 = .ok (.coutSel 2 1 4 8 9) ∧ decodeWord 0xA0A298E0 = .ok (.vchain 1 2 5 6 7) ∧
  decodeWord 0xC0A00001 = .ok (.mgo 1 2 0) ∧ decodeWord 0xD8808300 = .ok (.talloc 4 0 2 3) ∧
  decodeWord 0xDC914600 = .ok (.pubv 1 1 5 6) ∧ decodeWord 0xE1200003 = .ok (.card 9 0) ∧
  decodeGroup 0xFC000000 0x00012345 0x04E00000 = .ok (.liw 0x00012345 0x04E00000) ∧
  decodeStep 1 2 0x1000001010000000 = .ok (.csend 1 2 ⟨0, 1, 0, 0, 1, 0, 0, 0, 0, 0, 0⟩) ∧
  decodeStep 1 2 0x6200002000100000 = .ok (.cloop 1 2 0 1 2 1) ∧ decodeStep 1 2 0 = .ok (.cend 1 2) ∧
  (∀ e, decodeWord 0xD4000000 = .error e → e.code = 0x00) ∧ (∀ i, decodeWord 0xD4000000 ≠ .ok i) ∧
  (∀ p, p ∈ [(0x44814F0E, 0x01, 14), (0x44814F06, 0x07, 7), (0x00612800, 0x03, 40), (0xA2A298E0, 0x05, 2),
      (0x4C70470A, 0x02, 20)] →
    ∃ e, decodeWord (BitVec.ofNat 32 p.1) = .error e ∧ e.code = p.2.1 ∧ e.arg = p.2.2)

/-- R61, R138, R142, R345, R358, R404, R466: what one step of the machine is (log 4: the order of its parts is the model's).
While a cycle opens, what comes from outside acts first, then the events of the agenda, a GSTART behind the jobs and streams
that end in the cycle and an abort message behind a CEND that issues in it, an access of the host that must wait for one not
yet performed or for the package's wake standing back, what is no event of the table only noted (log 64), then what is due or
enabled; with nothing left the slots come. In its slot, with nothing of the pool units before it, a strand runs the
instruction that the bytes at its pc decode to, in the state in which the fetch has translated its address, and the focus
passes on; bytes that decode to no instruction trap with the code of their refusal, of a long-immediate group the prefixed
word named but for the prefix's own bits (log 17). A fetch that misses the TLBs waits for a page walk. After the slots the
cycle closes with the pool units, the thieves and the choices of strands, and the clock goes on. -/
def Obligations.StepRunsDecoded : Prop :=
  (∀ (s t : State) (x : Input) (rest : List Input), s.phase = 0 → s.inputs = x :: rest →
    takeInput { s with inputs := rest } x = some t → step s = .next t) ∧
  (∀ s : State, s.phase = 0 → (∀ x rest, s.inputs = x :: rest → takeInput { s with inputs := rest } x = none) →
    (∀ i rest, s.agenda = i :: rest →
      let s' := { s with agenda := rest }
      (∀ t, endsFirst s i = some t → step s = .next t) ∧
      (endsFirst s i = none →
        (isEvent i = false → step s = .next { s' with missed := true }) ∧
        (isEvent i = true → hostHeld s' i = true → step s = .next { s' with hostQueue := s.hostQueue ++ [i] }) ∧
        (isEvent i = true → hostHeld s' i = false → step s = exec i s'))) ∧
    (s.agenda = [] → ∀ t, internalOp s = some t → step s = .next t) ∧
    (s.agenda = [] → internalOp s = none → step s = .next (openCycle s))) ∧
  (∀ s : State, s.phase = 1 → runner s = none → step s = .next (passFocus s)) ∧
  (∀ (s : State) (a : At), s.phase = 1 → runner s = some a →
    (∀ t, unitFirst s (slotRank s s.focus) = some t → step s = .next t) ∧
    (unitFirst s (slotRank s s.focus) = none → (strandAt s a).bubble = 0 → slotIdle s a = false → (strandAt s a).retPc = none →
      let t := strandAt s a
      let at' (s : State) (k : Nat) (u : State) (b : List Byte) : Prop := ∃ loc,
        ccMiss s a ((t.pc.toNat + k) % 2 ^ 52) = false ∧
        translate s a.c (ctxOf s a) ((t.pc.toNat + k) % 2 ^ 52) false true = .ok (u, .ok loc) ∧ poisoned u loc 4 = none ∧
        loadN u loc 4 = b
      (ccMiss s a t.pc.toNat = true → t.wait = none → step s = .next (endSlot none a
        (holdWait (joinMiss s a.c (ctxOf s a) t.pc.toNat (8 * a.c + 4 + a.x)) a .other false 0))) ∧
      (∀ u b i, at' s 0 u b → decode b = .ok (i, []) → step s = slotEnds t.wait a (exec i u)) ∧
      (∀ u b u1 b1 u2 b2 i, at' s 0 u b → at' u 4 u1 b1 → at' u1 8 u2 b2 → b.getD 3 0 / 4 = 63 →
        decode (b ++ b1 ++ b2) = .ok (i, []) → step s = slotEnds t.wait a (exec i u2)) ∧
      (∀ u (w : Word) e, at' s 0 u (leBytes 4 w.toNat) → decodeWord w = .error e → w.extractLsb' 26 6 ≠ 63 →
        step s = .next (endSlot t.wait a (signalTrap u a (ccTrap u a ⟨e.code, w.toNat, e.arg, 0⟩)))) ∧
      (∀ u u1 u2 (w w1 w2 : Word) e, at' s 0 u (leBytes 4 w.toNat) → at' u 4 u1 (leBytes 4 w1.toNat) →
        at' u1 8 u2 (leBytes 4 w2.toNat) → w.extractLsb' 26 6 = 63 → decodeGroup w w1 w2 = .error e →
        let word := match e with
          | .mustBeZero _ => w
          | _ => w2
        step s = .next (endSlot t.wait a (signalTrap u2 a (ccTrap u2 a ⟨e.code, word.toNat, e.arg, 0⟩)))))) ∧
  (∀ s : State, 2 ≤ s.phase →
    (∀ t, unitFirst s 8 = some t → step s = .next t) ∧
    (∀ t, unitFirst s 8 = none → firstNext s (closers s) = some t → step s = .next t) ∧
    (unitFirst s 8 = none → firstNext s (closers s) = none → step s = .next (tick s)))

/-- R144: at a strand's slot the exposed writes due have landed: a register without one keeps its value, one with several has
the last due, of equals the last issued; writes due later stay, and no result still out overwrites a later write. -/
def Obligations.LandingOfExposedWrites : Prop :=
  ∀ t : Strand,
    let u := landSlot t
    (∀ r, (∀ w, w ∈ t.pend → w.reg = r → t.slot < w.due) → gVal u r = gVal t r) ∧
    (∀ l1 w l2, t.pend = l1 ++ w :: l2 → w.due ≤ t.slot → w.reg ≠ 0 →
      (∀ x, x ∈ l1 → x.reg = w.reg → x.due ≤ t.slot → x.due ≤ w.due) →
      (∀ x, x ∈ l2 → x.reg = w.reg → x.due ≤ t.slot → x.due < w.due) → gVal u w.reg = w.val) ∧
    u.pend = t.pend.filter (fun w => decide (t.slot < w.due)) ∧
    (∀ e, e ∈ u.sb → ∀ r, e.dest = .g r → ∀ w, w ∈ t.pend → w.reg = r → t.slot < w.due) ∧
    u.sb.map (·.id) = t.sb.map (·.id) ∧ { u with g := t.g, pend := t.pend, sb := t.sb } = t

/-! ## Engines, page walks, pool units, returning results (R149 to R151, R198, R199, R244 to R263) -/

/-- R127, R149 to R151, R244, R424: the head entry of a queue that may begin takes the strand's oldest token of every FIFO its
TAKE bits name, and begins; while one is missing it waits for the first, its bound running from then on. Behind an MGO that
runs, the next shadow writer begins, in push order; one that a return has pushed again has its tokens. R149, R195, R199, R321:
an entry whose work is done completes when the FIFOs of its GIVE bits and, for a result, the result queue have room and nothing
that its tokens or draws release is unacknowledged (log 87): its draws
are counted, its tokens given, its result pushed, the strand's last completed number is its own, and it leaves its queue.
Until then it waits; draws that cannot be counted make it faulting. w is the state in which its draws stand counted: for an
entry without draws, the same state. -/
def Obligations.EntriesBeginAndComplete : Prop :=
  (∀ (s : State) (c : Nat) (q : BitVec 2) (e : Entry) (rest : List Entry), queueAt s c q.toNat = e :: rest → e.q = q.toNat →
       e.begun = false → mayBegin s c e = true →
       let a : At := ⟨c, e.sx⟩
       let takes := takeFifos e.q e.take
       let e1 := { e with begun := true, began := s.cycle, wait := .none, waited := 0 }
       (∀ f l1 l2, takes = l1 ++ f :: l2 → (∀ x, x ∈ l1 → e.sx ∈ fifoAt s c x) → e.sx ∉ fifoAt s c f → e.wait ≠ .tokens f →
         Runs (.engineEntryBegin c q) s fun t =>
           queueAt t c e.q = { e with wait := .tokens f, waited := 0, limit := waitBound (strandAt s a) } :: rest ∧
           (∀ p, p ≠ e.q → queueAt t c p = queueAt s c p) ∧ Alone s t a id (fun k => { k with queues := [] }) ∧
           strandAt t a = strandAt s a) ∧
       ((∀ f, f ∈ takes → e.sx ∈ fifoAt s c f) → ∃ u, exec (.engineEntryBegin c q) s = .next (beginEntry u c e1) ∧
         (∀ f, fifoAt u c f = if f ∈ takes then (fifoAt s c f).erase e.sx else fifoAt s c f) ∧
         Alone s u a id (fun k => { k with fifos := [] }) ∧
         { strandAt u a with took := [] } = { strandAt s a with took := [] } ∧ queueAt u c e.q = e :: rest ∧
         (q = 1 → queueAt (beginEntry u c e1) c 1 = e1 :: rest))) ∧
  (∀ (s : State) (c i : Nat) (e b : Entry), (queueAt s c 2).head? = some e → e.begun = true →
       nextBehind (queueAt s c 2) = some (i, b) → mayBegin s c b = true →
       (b.begun = true ∨ ∀ f, f ∈ takeFifos 2 b.take → b.sx ∈ fifoAt s c f) →
       exec (.engineEntryBegin c 2) s = .next (beginBehind s c i b)) ∧
  (∀ (s w : State) (c : Nat) (q : BitVec 2) (e : Entry) (rest : List Entry), queueAt s c q.toNat = e :: rest → e.q = q.toNat →
       e.ended = true → e.fault = none →
       let a : At := ⟨c, e.sx⟩
       let gives := giveFifos e.q e.give
       let room := ∀ f, f ∈ gives → (fifoAt s c f).length < 16
       let waits (k : EngWait) : Prop := e.wait ≠ k → Runs (.engineEntryComplete c q) s fun t =>
         queueAt t c e.q = { e with wait := k, waited := 0, limit := waitBound (strandAt s a) } :: rest ∧
         Alone s t a id (fun k => { k with queues := [] }) ∧ strandAt t a = strandAt s a
       (strandAt s a).atStop = false →
       (∀ f l1 l2, gives = l1 ++ f :: l2 → (∀ x, x ∈ l1 → (fifoAt s c x).length < 16) → 16 ≤ (fifoAt s c f).length →
         waits (.room 0 f)) ∧
       (room → releaseHeldUp s c e = true → waits .other) ∧
       (room → releaseHeldUp s c e = false → e.prog.result.isSome = true → 16 ≤ (strandAt s a).resq.length → waits (.room 1 16)) ∧
       (room → releaseHeldUp s c e = false → (e.prog.result = none ∨ (strandAt s a).resq.length < 16) →
         exec (.engineEntryComplete c q) s = .next (completeEntry s c e) ∧
         (e.draws = [] → countDraws s a e = .ok s) ∧
         (∀ x, countDraws s a e = .error x → exec (.engineEntryComplete c q) s = .next (failEntry s c e x)) ∧
         (countDraws s a e = .ok w → entryRecord e = none → Runs (.engineEntryComplete c q) s fun t =>
           queueAt t c e.q = (queueAt w c e.q).tail ∧ (∀ p, p ≠ e.q → queueAt t c p = queueAt w c p) ∧
           (∀ f, fifoAt t c f = if f ∈ gives then fifoAt w c f ++ [e.sx] else fifoAt w c f) ∧
           tabGet 0 (strandAt t a).done e.q = e.seq ∧
           (∀ p, p ≠ e.q → tabGet 0 (strandAt t a).done p = tabGet 0 (strandAt w a).done p) ∧
           (strandAt t a).resq = (strandAt w a).resq ++ e.prog.result.toList.map (BitVec.ofNat 64) ∧
           Alone w t a (fun z => { z with samples := [] }) (fun k => { k with queues := [], fifos := [] }) ∧
           { strandAt t a with done := [], resq := [], resPushed := 0, gave := [] } =
             { strandAt w a with done := [], resq := [], resPushed := 0, gave := [] })))

/-- R244, R250, R255, R259, R262, R263: what a word of the matrix engine does to the core's matrix state when its entry
begins, whose work is then done: MLT and MMASK write the shadow table and mask, MSWAP makes the other plane active, MZERO
clears its tiles and makes them FP32, and the other tile of an FP64 pair FP32 too, every other tile keeping its mode, MSTAT's
result names the retired counter, the active plane and the modes. R198, R201, R223, R236, R248, R256: one piece of work of the unit at the head of its queue
completes in every state in which the unit may run its head entry and its work does not leave the entry as it stands. A BSET
writes its register; a sector of 512 bytes of a copy within a core's pond, from bytes that its destination does not run over,
moves them and no other byte of memory; a reduction of an MGO that no stream holds up writes its tile and counts itself
retired. -/
def Obligations.UnitsWork : Prop :=
  (∀ (s : State) (c : Nat) (e : Entry) (rest : List Entry), s.memOk → queueAt s c 2 = e :: rest → e.q = 2 →
       let t := beginEntry s c e
       let regs := (coreAt s c).regs
       let ends (v : Option Nat) : Prop := queueAt t c 2 = e.finish v :: rest ∧ ∀ a : At, strandAt t a = strandAt s a
       (∀ n, e.op = .mlt n → ends none ∧ (coreAt t c).regs = { regs with shadow := n } ∧ t.mem = s.mem) ∧
       (e.op = .mswap → ends none ∧ (coreAt t c).regs = { regs with ap := 1 - regs.ap } ∧ t.mem = s.mem) ∧
       (∀ p, e.op = .mmask p → s.poison = [] →
         ends none ∧ (coreAt t c).regs = { regs with shadowMask := readMask s (keyOfEntry s e) p } ∧ t.mem = s.mem) ∧
       (∀ m, e.op = .mzero m → regs.modes.length = 4 → ends none ∧
         (∀ i o, i < 4 → o < 4096 → t.mem.read (locAcc c (4096 * i + o)) =
           if bit m i then 0 else s.mem.read (locAcc c (4096 * i + o))) ∧
         (∀ i, i < 4 → let o := if i % 2 = 0 then i + 1 else i - 1
           nth (coreAt t c).regs.modes i = if bit m i = true ∨ (bit m o = true ∧ nth regs.modes o = 2) then 0 else nth regs.modes i) ∧
         { (coreAt t c).regs with modes := [] } = { regs with modes := [] } ∧
         (∀ x, x < locAcc c 0 ∨ locAcc c 16384 ≤ x → t.mem.read x = s.mem.read x)) ∧
       (e.op = .mstat → t.mem = s.mem ∧ (coreAt t c).regs = regs ∧
         let p := regs.planes.getD regs.ap .empty
         ends (some (regs.retired * 2 ^ 32 + p.fmt * 2 ^ 24 + (p.kext - 1) * 2 ^ 16 + regs.ap * 2 ^ 8 +
           (nth regs.modes 0 + nth regs.modes 1 * 4 + nth regs.modes 2 * 16 + nth regs.modes 3 * 64))))) ∧
  (∀ (s : State) (c : Nat) (e : Entry) (rest : List Entry), s.memOk → s.poison = [] → unitMayRun s c e = true →
       (∀ b v, queueAt s c 1 = e :: rest → e.q = 1 → e.op = .bset b v → Runs (.vectorRow c) s fun t =>
         queueAt t c 1 = ({ e with prog := { e.prog with row := 1 } } : Entry).finish none :: rest ∧
         tabGet 0 (coreAt t c).regs.b b = v ∧
         (∀ i, i ≠ b → tabGet 0 (coreAt t c).regs.b i = tabGet 0 (coreAt s c).regs.b i) ∧ t.mem = s.mem ∧
         ∀ a : At, strandAt t a = strandAt s a) ∧
       (∀ (side : BitVec 1) (d p len : Nat) (res : Bool), queueAt s c (3 * side.toNat) = e :: rest → e.q = 3 * side.toNat →
         e.op = .flat ⟨2, c, d⟩ ⟨2, c, p⟩ len 0 res → d + len ≤ 2 ^ 20 → p + len ≤ 2 ^ 20 → s.remotes = [] →
         flatConv s ⟨2, c, d⟩ ⟨2, c, p⟩ = none → copyCheck s c { e with wait := .none } = .ok () →
         let lo := 512 * e.prog.sect
         let n := min 512 (len - lo)
         lo < len → d ≤ p ∨ p + 512 ≤ d → Runs (.copySector c side) s fun t =>
           loadN t (locPond c (d + lo)) n = loadN s (locPond c (p + lo)) n ∧
           (∀ x, x < locPond c (d + lo) ∨ locPond c (d + lo) + n ≤ x → t.mem.read x = s.mem.read x) ∧
           (∀ a : At, strandAt t a = strandAt s a) ∧
           ∃ f, queueAt t c e.q = f :: rest ∧ f.prog.sect = e.prog.sect + 1 ∧ f.prog.bytes = e.prog.bytes + n ∧
             f.ended = decide (len ≤ lo + 512) ∧ f.op = e.op ∧ f.seq = e.seq) ∧
       (∀ m tile l, queueAt s c 2 = e :: rest → e.q = 2 → e.op = .mgo m → (coreAt s c).streamMask = 0 →
         let t0 := e.prog.nest.getD .empty
         let mk := e.prog.mask.getD .zero
         let u := onCore s c (fun k => { k with regs := { k.regs with active := t0, activeMask := mk, retired := e.prog.retired } })
         let x := redAt u (keyOfEntry s e) t0 e.prog.acc
         (e.prog.red ≠ 0 ∨ mgoCheck u c e t0 = .ok ()) → x.rows ≠ [] → redTile t0 x = .ok tile → redOutside u t0 x = none → redSums u c (keyOfEntry s e) t0 x tile = .ok l →
         Runs (.reductionRetire c) s fun t =>
           let v := retireTile t0 mk x l
           loadN t (locAcc c (4096 * tile)) v.length = v ∧
           (∀ y, y < locAcc c (4096 * tile) ∨ locAcc c (4096 * tile) + v.length ≤ y → t.mem.read y = s.mem.read y) ∧
           (coreAt t c).regs.retired = (e.prog.retired + 1) % 2 ^ 32 ∧ (coreAt t c).regs.active = t0 ∧
           ∀ a : At, strandAt t a = strandAt s a)) ∧
  (∀ (s : State) (c : Nat) (e : Entry), unitMayRun s c e = true →
       let completes (i : Instr) (q : Nat) (t : State) : Prop :=
         headEntry s c q = some e → headEntry t c e.q ≠ some e → exec i s = .next t
       (∀ side : BitVec 1, (∀ va frame, e.op ≠ .pgin va frame) →
         completes (.copySector c side) (3 * side.toNat) (copyStep s c { e with wait := .none })) ∧
       (∀ (side : BitVec 1) va frame, e.op = .pgin va frame →
         completes (.copySector c side) (3 * side.toNat) (pginStep s c e va frame)) ∧
       completes (.vectorRow c) 1 (vecStep s c e) ∧ completes (.reductionRetire c) 2 (matrixStep s c e))

/-! ## Collectives (R323, R329 to R334, R457, R458) -/

/-- R316, R323, R328 to R334, R398, R457, R458: a step of a collective program whose launch stands at it and whose checks pass issues as
soon as nothing earlier holds it back and the messages it sends have room in their spans; a member on this device needs none.
CEND ends the launch with its number in the done word. A step with an error aborts the launch with the error's code, one to an
absent rank with 0xA4, the rank and the launch's number. That the first step's issue makes the checks of the block is the model's
reading (log 30). -/
def Obligations.CollectiveSteps : Prop :=
  ∀ (s : State) (cl : Nat) (ln : BitVec 32) (l : Launch), launchAt s cl ln.toNat = some l → firstChecks s cl l = .ok () →
    let on (s : State) (m : Launch) : State := putLaunch s cl (m.goOn l.pc)
    let run (r : StepRun) (readies : List Nat) : Launch := { l with runs := l.runs ++ [r], readies := readies }
    (∀ js, (∀ j, j ∈ js → memberRoute s cl l j = none) → tellMembers s cl l js = some s) ∧
    (∀ (f : StepFields) (send recv : Nat), pastBars l = true → (unfinished l).length < 16 → peers l f = .ok (send, recv) →
      let src (p : Nat) := chunkOf s l f.sbuf.toNat f.par.toNat (chunkNo l f p)
      let dst (p : Nat) := chunkOf s l f.dbuf.toNat f.par.toNat (chunkNo l f p)
      (∀ r, peerCheck s cl l send = .error (0xA4, r) → exec (.csend cl ln f) s = .next (abortLaunch s cl l ⟨0xA4, r, l.num, 0⟩)) ∧
      (∀ r, peerCheck s cl l recv = .error (0xA4, r) → exec (.crecv cl ln f) s = .next (abortLaunch s cl l ⟨0xA4, r, l.num, 0⟩)) ∧
      (∀ a, peerCheck s cl l send = .ok () → src send = .ok a → overlaps l (some a) none = false →
        exec (.csend cl ln f) s = .next (on s (run ⟨l.pc, 1, f.rop.toNat, none, some send, some a, none, false,
          !l.readies.contains send, true, true, 0, 0, 0⟩ (l.readies.erase send)))) ∧
      (∀ b u, peerCheck s cl l recv = .ok () → dst recv = .ok b → overlaps l none (some b) = false →
        tellMembers s cl l [recv] = some u →
        exec (.crecv cl ln f) s = .next (on u (run ⟨l.pc, 2, f.rop.toNat, some recv, none, none, some b, true, false, false,
          false, 0, 0, 0⟩ l.readies))) ∧
      (∀ a b u, f.ns = 1 → peerCheck s cl l recv = .ok () → src recv = .ok a → dst recv = .ok b →
        overlaps l (some a) (some b) = false → tellMembers s cl l [recv] = some u →
        exec (.crrs cl ln f) s = .next (on u (run ⟨l.pc, 3, f.rop.toNat, some recv, none, some a, some b, true, false, false,
          false, 0, 0, 0⟩ l.readies))) ∧
      (∀ a b u, f.ns = 0 → peerCheck s cl l send = .ok () → peerCheck s cl l recv = .ok () → src recv = .ok a → dst recv = .ok b →
        overlaps l (some a) (some b) = false → tellMembers s cl l [recv] = some u →
        exec (.crrs cl ln f) s = .next (on u (run ⟨l.pc, 3, f.rop.toNat, some recv, some send, some a, some b, true,
          !l.readies.contains send, true, true, 0, 0, 0⟩ (l.readies.erase send)))) ∧
      (∀ a b v u, src recv = .ok a → dst recv = .ok b → overlaps l (some a) (some b) = false → a.n = b.n →
        readChunk s l a = some v → seqWrite s l b.ad (v.flatMap (fun x => leBytes (fmtBytes b.fmt) (reEncode a.fmt b.fmt x))) = some u →
        exec (.ccopy cl ln f) s = .next (on u l))) ∧
    (∀ f, pastBars l = true → (unfinished l).length < 16 → ∀ c p, peers l f = .error (c, p) →
      ∀ i, i ∈ [Instr.csend cl ln f, .crecv cl ln f, .crrs cl ln f, .ccopy cl ln f] →
        exec i s = .next (abortLaunch s cl l ⟨c, l.num, l.pc, p⟩)) ∧
    (∀ w : BitVec 1, unfinished l = [] → (w = 1 → l.runs.any (·.needAck) = false) → exec (.cwait cl ln w) s = .next (on s l)) ∧
    (∀ (k : BitVec 2) (rel : BitVec 1) (v : BitVec 21) (len : BitVec 16), pastBars l = true →
      let count := if rel = 0 then v.toNat else l.size - v.toNat
      let last := l.pc + len.toNat
      let m := { l with loops := setNth l.loops k.toNat 0 }
      ((∀ x, l.stack.head? = some x → last ≤ x.2.2.2) →
        (count ≠ 0 → exec (.cloop cl ln k rel v len) s =
          .next (putLaunch s cl { m with pc := l.pc + 1, stack := (k.toNat, count, l.pc + 1, last) :: l.stack })) ∧
        (count = 0 → exec (.cloop cl ln k rel v len) s = .next (putLaunch s cl (m.goOn last)))) ∧
      (∀ x, l.stack.head? = some x → x.2.2.2 < last →
        exec (.cloop cl ln k rel v len) s = .next (abortLaunch s cl l ⟨0xB1, l.num, l.pc, 0⟩))) ∧
    (∀ u, unfinished l = [] → tellMembers s cl l ((List.range l.size).filter (· != l.own)) = some u →
      exec (.cbar cl ln) s = .next (putLaunch u cl (tidy (({ l with
        runs := l.runs ++ [⟨l.pc, 7, 0, none, none, none, none, false, false, false, false, l.barNo + 1, 0, 0⟩]
        barNo := l.barNo + 1 } : Launch).goOn l.pc)))) ∧
    (∀ u, unfinished l = [] → l.runs.any (·.needAck) = false → seqWrite s l l.done (leBytes 8 l.num) = some u →
      exec (.cend cl ln) s = .next (dropLaunch (passBars u l) cl l.num) ∧
      launchAt (dropLaunch (passBars u l) cl l.num) cl l.num = none)

/-- R315, R316, R331, R333, R457, R458, R466: messages of a launch that stands at a sequencer. One from a member on another
device takes the flits accepted that carried it; one from a member on this device needs none. A ready starts the first send that
waits for it, or is kept; data go to the first receive that waits for the peer; the flits of a send that may go enter the replay
store of its span one by one, as there is room; a send's completion, once all of them have, and its acknowledgment are noted; a
CBAR message is counted; an abort message aborts its launch with 0xBE and the rank it came from, and is ignored without one; a
wait that has lasted the launch's limit aborts it. That the rank stands in an input of the state is the model's choice (log 83). -/
def Obligations.CollectiveMessages : Prop :=
  ∀ (s : State) (cl peer : Nat) (ln : BitVec 32) (l : Launch), launchAt s cl ln.toNat = some l →
    let comes (far : Prop) (n : Nat) (u : State) : Prop :=
      (far → n ≤ s.inbound ∧ u = { s with inbound := s.inbound - n }) ∧ (¬far → u = s)
    let far (j : Nat) : Prop := (memberRoute s cl l j).isSome = true
    (∀ u, comes (far peer) 1 u → (∀ r, r ∈ l.runs → r.sendPeer = some peer → r.needReady = false) →
      exec (.collReadyArrive cl ln peer) s = .next (putLaunch u cl { l with readies := l.readies ++ [peer] })) ∧
    (∀ u l1 r l2, comes (far peer) 1 u → l.runs = l1 ++ r :: l2 → r.sendPeer = some peer → r.needReady = true →
      (∀ x, x ∈ l1 → x.sendPeer = some peer → x.needReady = false) → exec (.collReadyArrive cl ln peer) s =
        .next (putLaunch u cl (tidy { l with runs := l1 ++ { r with needReady := false, waited := 0 } :: l2 }))) ∧
    (∀ u l1 r l2 (fmt : BitVec 8) data, comes (far peer) (flitCount data.length) u → l.runs = l1 ++ r :: l2 →
      r.recvPeer = some peer → r.needData = true → (∀ x, x ∈ l1 → x.recvPeer = some peer → x.needData = false) →
      (∀ t, takeData u cl l peer fmt.toNat data r = .ok t → exec (.collDataArrive cl ln peer fmt data) s = .next t) ∧
      (∀ c p, takeData u cl l peer fmt.toNat data r = .error (c, p) →
        exec (.collDataArrive cl ln peer fmt data) s = .next (abortLaunch u cl l ⟨c, l.num, r.step, p⟩))) ∧
    (∀ l1 r l2 j x, l.runs = l1 ++ r :: l2 → r ∉ l1 → r.sendPeer = some j → memberRoute s cl l j = some x →
      r.needData = false → r.needReady = false → r.needSend = true → r.sent < flitCount r.sendLen →
      (spanRoom s x 1 = false → pushSend s cl l r = none) ∧
      (spanRoom s x 1 = true → pushSend s cl l r = some (putLaunch (sendOn s cl x (min 240 (r.sendLen - 240 * r.sent))) cl
        (tidy { l with runs := l1 ++ { r with sent := r.sent + 1 } :: l2 })))) ∧
    (∀ l1 r l2 j, l.runs = l1 ++ r :: l2 → (∀ x, x ∈ l1 → x.step ≠ r.step) → r.sendPeer = some j → r.needReady = false →
      (r.needData = false → r.needSend = true → (far j → flitCount r.sendLen ≤ r.sent) →
        exec (.collTransferFinish cl ln r.step 0) s =
          .next (putLaunch s cl (tidy { l with runs := l1 ++ { r with needSend := false } :: l2 }))) ∧
      (∀ u, comes (far j) 1 u → r.needSend = false → r.needAck = true → exec (.collTransferFinish cl ln r.step 1) s =
        .next (putLaunch u cl (tidy { l with runs := l1 ++ { r with needAck := false } :: l2 })))) ∧
    (∀ u, comes (far peer) 1 u → exec (.cbarMessage cl ln peer) s =
      .next (putLaunch u cl (tidy { l with bars := tabPut l.bars peer (tabGet 0 l.bars peer + 1) }))) ∧
    (∀ u, comes (s.abortFrom ≠ s.dev.rank) 1 u →
      (∀ tag : BitVec 32, (∀ m, m ∈ (clusterAt s cl).launches → m.tag ≠ tag.toNat) →
        exec (.collAbortMessage cl tag) s = .next u) ∧
      ∀ (l1 : List Launch) (m : Launch) (l2 : List Launch), (clusterAt s cl).launches = l1 ++ m :: l2 →
        (∀ x, x ∈ l1 → x.tag ≠ m.tag) → m.tag < 2 ^ 32 →
        exec (.collAbortMessage cl (BitVec.ofNat 32 m.tag)) s = .next (abortLaunch u cl m ⟨0xBE, s.abortFrom, 0, 0⟩)) ∧
    (∀ (l1 : List StepRun) (r : StepRun) (l2 : List StepRun), l.runs = l1 ++ r :: l2 → l.limit ≤ r.waited →
      ((∀ x, x ∈ l1 → x.needData = false) → r.needData = true → r.recvPeer = some peer →
        exec (.collTimeout cl ln 0) s = .next (abortLaunch s cl l ⟨0xB2, l.num, r.step, peer⟩)) ∧
      ((∀ x, x ∈ l1 → x.sendPeer = none) → r.needData = false → r.sendPeer = some peer → (r.needReady || r.needSend) = true →
        exec (.collTimeout cl ln 1) s = .next (abortLaunch s cl l ⟨0xB3, l.num, r.step, peer⟩)) ∧
      ((∀ x, x ∈ l1 → x.needBar = 0) → r.needBar ≠ 0 → barMet l r.needBar = false → r.sendPeer = none →
        exec (.collTimeout cl ln 2) s = .next (abortLaunch s cl l ⟨0xB4, l.num, r.step, 0⟩)))

/-! ## The host, the tool cluster, monitors (R2, R311, R339 to R362, R436, R447, R449, R453, R461) -/

/-- R2, R339 to R346, R358, R436, R449, R453, R460: what a host's write or read does: through the PF or a VF, to registers and
to the windows on memory; a read says how it completed, a poisoned write is discarded, a VF's access that does not translate
ends in Completer Abort with nothing done. A VF whose context is enabled reaches neither the device block nor notify words outside its range. Of
two stores to a notify word in one cycle the one of the party that comes last in R354 stands. A value of PLIM above 2,400 stands
as it is written by the model's choice (log 71). -/
def Obligations.HostAccesses : Prop :=
  ∀ s : State,
    (∀ v : BitVec 12, let stays := v = 0 ∨ ∀ d, d < 6 → (dieAt s d).pstate = 2
      (stays → exec (.plimWrite v) s =
        .next { s with dev := { s.dev with plim := v.toNat, pkg := if v = 0 then 4 else s.dev.pkg } }) ∧
      (¬stays → exec (.plimWrite v) s = .next { s with dev := { s.dev with plim := v.toNat, pkg := 0, quiet := 0 } })) ∧
    (∀ f o : Nat, o % 8 = 0 →
      let reads (v : Nat) : Prop :=
        takeInput s (.hostRead f o) = some { s with hostData := some (BitVec.ofNat 64 v), hostEnd := .done }
      (f = 0 → o = 0x00 → reads (s.dev.stage % 8)) ∧ (f = 0 → o = 0x08 → reads (s.dev.plim % 2 ^ 12)) ∧
      (f = 0 → o = 0x18 → (∀ d, d < 6 → (dieAt s d).pstate < 8) → s.dev.pkg < 8 → reads ((dieAt s 0).pstate +
        8 * (dieAt s 1).pstate + 8 ^ 2 * (dieAt s 2).pstate + 8 ^ 3 * (dieAt s 3).pstate + 8 ^ 4 * (dieAt s 4).pstate +
        8 ^ 5 * (dieAt s 5).pstate + 8 ^ 6 * s.dev.pkg)) ∧
      (1 ≤ f → f ≤ 16 → (ctxAt s (f - 1)).enabled = true → o < 0x10000 → reads 0)) ∧
    (∀ v : BitVec 32, Runs (.elstatDropClear v) s fun t =>
      (∀ i, i < 32 → bit t.dev.eldrop i = (bit s.dev.eldrop i && !v.getLsbD i)) ∧
      { t with dev := { t.dev with eldrop := 0 } } = { s with dev := { s.dev with eldrop := 0 } }) ∧
    (∀ (cl : BitVec 6) (m : BitVec 48), cl.toNat < 36 → Runs (.cfenceClear cl m) s fun t =>
      (∀ k, k < 48 → (coreAt t (48 * cl.toNat + k)).fenced = ((coreAt s (48 * cl.toNat + k)).fenced && !m.getLsbD k)) ∧
      (∀ c, { coreAt t c with fenced := false } = { coreAt s c with fenced := false }) ∧
      (∀ c, c / 48 ≠ cl.toNat → coreAt t c = coreAt s c) ∧ { t with cores := [] } = { s with cores := [] }) ∧
    (∀ c : BitVec 4, (ctxAt s c.toNat).busy = true →
      exec (.installPoolDescriptors c) s = .next s ∧ exec (.shootdown c) s = .next s) ∧
    (∀ c : BitVec 4, (ctxAt s c.toNat).busy = false → (ctxAt s c.toNat).pdtab = 0 →
      Runs (.installPoolDescriptors c) s fun t => { t with units := [] } = { s with units := [] } ∧
        ∀ n, (unitAt t n).pools.filter (fun p => p.1 / 64 != c.toNat) = (unitAt s n).pools.filter (fun p => p.1 / 64 != c.toNat)) ∧
    (∀ c : BitVec 4, (ctxAt s c.toNat).busy = false → Runs (.shootdown c) s fun t =>
      ctxAt t c.toNat = { ctxAt s c.toNat with busy := true } ∧ (∀ x, x ≠ c.toNat → ctxAt t x = ctxAt s x) ∧
      { t with ctxs := [] } = { s with ctxs := [] }) ∧
    (∀ c : BitVec 4, let x := ctxAt s c.toNat
      x.busy = true → x.resetting = false →
      (∀ r, r ∈ s.remotes → r.ctx = c.toNat → pageBase x.shootPsz r.va ≠ pageBase x.shootPsz x.shootVa) →
      Runs (.shootdownDone c) s fun t => (ctxAt t c.toNat).busy = false ∧
        let hit (e : Tlb) : Prop := e.ctx = c.toNat ∧
          e.page * pageSize e.psz < pageBase x.shootPsz x.shootVa + pageSize x.shootPsz ∧
          pageBase x.shootPsz x.shootVa < (e.page + 1) * pageSize e.psz
        (∀ k e, e ∈ (coreAt t k).tlb ↔ e ∈ (coreAt s k).tlb ∧ ¬hit e) ∧
        ∀ d e, e ∈ (dieAt t d).tlb ↔ e ∈ (dieAt s d).tlb ∧ ¬hit e) ∧
    (∀ (f : BitVec 5) (o : BitVec 26) (v : BitVec 64), f = 0 ∨ f.toNat ≤ 16 ∧ (ctxAt s (f.toNat - 1)).enabled = true →
      (o.toNat % 8 = 0 → exec (.hostRegisterWrite f o v) s = .next (bar0Write s f.toNat o.toNat v.toNat)) ∧
      (o.toNat % 8 ≠ 0 → exec (.hostRegisterWrite f o v) s = .next s) ∧
      (f = 0 → o = 0x08 → exec (.hostRegisterWrite f o v) s = exec (.plimWrite (v.setWidth 12)) s) ∧
      (f ≠ 0 → o.toNat < 0x10000 → exec (.hostRegisterWrite f o v) s = .next s) ∧
      (f = 0 → o = 0x10 → exec (.hostRegisterWrite f o v) s = .next { s with dev := { s.dev with ltol := v.toNat % 2 ^ 32 } }) ∧
      (f = 0 → o = 0x20 → exec (.hostRegisterWrite f o v) s = .next { s with dev := { s.dev with rank := v.toNat % 2 ^ 24 } }) ∧
      (f = 0 → o = 0x80 → s.dev.tzLock = true → exec (.hostRegisterWrite f o v) s = .next s) ∧
      (f = 0 → o = 0x170 → exec (.hostRegisterWrite f o v) s =
        .next { s with dev := { s.dev with ecthr := v.toNat % 2 ^ 32 } }) ∧
      (∀ n : BitVec 12, let x := ctxAt s (f.toNat - 1)
        (f = 0 ∨ x.nwrFirst ≤ n.toNat ∧ n.toNat < x.nwrFirst + x.nwrCount →
          exec (.notifyMirrorWrite f n v) s = .next (notifyStore s n.toNat v.toNat 32)) ∧
        (f ≠ 0 → (n.toNat < x.nwrFirst ∨ x.nwrFirst + x.nwrCount ≤ n.toNat) → exec (.notifyMirrorWrite f n v) s = .next s))) ∧
    (∀ n v party, (nwAt s n).parked = none → (nwAt s n).last = none → let t := notifyStore s n v party
      let loses := (nwAt s n).pending = true ∧ (nwAt s n).cycle = s.cycle + 1 ∧ party < (nwAt s n).party
      (loses → nwAt t n = nwAt s n) ∧
      (¬loses → nwAt t n = { nwAt s n with val := v, pending := true, cycle := s.cycle + 1, party := party }) ∧
      (∀ m, m ≠ n → nwAt t m = nwAt s m) ∧ { t with nw := [] } = { s with nw := [] }) ∧
    (∀ (o : BitVec 40) (k : BitVec 2) (v : BitVec 64), (s.dev.pkg < 3 ∨ s.dev.plim ≠ 0) →
      let n := 2 ^ k.toNat
      let u := wakePackage s
      (o.toNat + n ≤ 576 * 2 ^ 30 →
        (poisoned s o.toNat n = none → exec (.hostBar2Access 0 0 o k v) s =
          .next { u with hostData := some (BitVec.ofNat 64 (leNat (loadN s o.toNat n))), hostEnd := .done }) ∧
        ((poisoned s o.toNat n).isSome = true →
          exec (.hostBar2Access 0 0 o k v) s = .next { u with hostData := none, hostEnd := .poisonedTlp }) ∧
        (s.memOk → Runs (.hostBar2Access 0 1 o k v) s fun t => Wrote s t o.toNat n v.toNat ∧ t.noMem = u.noMem)) ∧
      (576 * 2 ^ 30 ≤ o.toNat → exec (.hostBar2Access 0 1 o k v) s = .next u ∧
        exec (.hostBar2Access 0 0 o k v) s = .next { u with hostData := some 0, hostEnd := .done }) ∧
      ∀ (f : BitVec 5) (w : BitVec 2), f.toNat ≤ 16 → f = 0 ∨ (ctxAt s (f.toNat - 1)).enabled = true →
        let x := f.toNat - 1
        let va := (ctxAt s x).vwin + o.toNat
        (2 ≤ w.toNat → exec (.hostBar2Access f w o k v) s = .next u) ∧
        (f ≠ 0 → w.toNat < 2 →
          exec (.hostBar2Access f w o k v) s = .next (vfAccess u x (w == 1) va n v.toNat) ∧
          (2 ^ 52 < va + n ∨ (∃ p, p ∈ pageCuts va n ∧ vfPlace u x (w == 1) p.1 = none) →
            exec (.hostBar2Access f w o k v) s = .next { u with hostData := none, hostEnd := .completerAbort }) ∧
          ∀ l, va + n ≤ 2 ^ 52 → pageCuts va n = [(va, n)] → vfPlace u x (w == 1) va = some (.ok l) →
            (w = 0 → poisoned s l n = none → exec (.hostBar2Access f w o k v) s =
              .next { u with hostData := some (BitVec.ofNat 64 (leNat (loadN s l n))), hostEnd := .done }) ∧
            (w = 0 → (poisoned s l n).isSome = true →
              exec (.hostBar2Access f w o k v) s = .next { u with hostData := none, hostEnd := .poisonedTlp }) ∧
            (w = 1 → s.memOk → Runs (.hostBar2Access f w o k v) s fun t =>
              Wrote s t l n v.toNat ∧ { t.noMem with hostEnd := u.hostEnd } = u.noMem ∧ t.hostEnd = .done))) ∧
    (∀ k : BitVec 8, exec (.hostLinkError k) s = .next { s with aer := s.aer ++ [k.toNat] }) ∧
    (∀ (f : BitVec 5) (on : BitVec 1), f ≠ 0 → f.toNat ≤ 16 → Runs (.virtualFunctionEnable f on) s fun t =>
      ctxAt t (f.toNat - 1) = { ctxAt s (f.toNat - 1) with enabled := on == 1 } ∧
      (∀ x, x ≠ f.toNat - 1 → ctxAt t x = ctxAt s x) ∧ { t with ctxs := [] } = { s with ctxs := [] }) ∧
    (∀ (x : BitVec 19) (v : BitVec 64), let w := v.toNat % 64 + v.toNat / 256 % 64 * 256
      (9216 * 36 + 1024 * 36 ≤ x.toNat → exec (.routeEntryWrite x v) s = .next s) ∧
      (x.toNat < 9216 * 36 + 1024 * 36 → routeBusy s x.toNat = false →
        exec (.routeEntryWrite x v) s = .next { s with routes := tabPut s.routes x.toNat w }) ∧
      (x.toNat < 9216 * 36 + 1024 * 36 → routeBusy s x.toNat = true → exec (.routeEntryWrite x v) s =
        .next (logPlain { s with routesDue := s.routesDue ++ [(x.toNat, w)] } 0xBF 0
          (if x.toNat < 9216 * 36 then rankOf s (x.toNat % 9216) else (x.toNat - 9216 * 36) % 1024 * 2 ^ 14) 0)))

/-- R350 to R362, R420, R450, R461, R465: the tool cluster's registers as the NPU part sees them, its harts' accesses through
the walls, the exceptions they take, the monitors, the attestation report, signed over its 216 bytes. An access of a hart lies
within the first wall that admits the hart and covers its first byte, or is refused. Of an atomic by a hart the operand is the value
that it writes back (log 34); the harts' modes and registers are those of RISC-V (log 12), and the signature and the zeros of a
failed security processor the model's reading (logs 13, 62). -/
def Obligations.ToolClusterAndMonitors : Prop :=
  ∀ s : State,
    (∀ m : BitVec 32, Runs (.trun m) s (fun t => { t with harts := [] } = { s with harts := [] } ∧
        ∀ h, hartAt t h = if m.getLsbD h = true ∧ (hartAt s h).run = false
          then { hartAt s h with run := true, mode := 3, pc := (hartAt s h).entry, csr := [] } else hartAt s h) ∧
      Runs (.thold m) s (fun t => { t with harts := [] } = { s with harts := [] } ∧
        ∀ h, hartAt t h = { hartAt s h with run := (hartAt s h).run && !m.getLsbD h })) ∧
    (∀ (w : BitVec 6) (half : BitVec 1) (v : BitVec 64), Runs (.wallWrite w half v) s fun t =>
      (∀ i, i < 128 → bit (wallAt t w.toNat) i =
        if 44 ≤ i ∧ i ≤ 64 then false else if i / 64 = half.toNat then v.getLsbD (i % 64) && decide (i < 3 ∨ 21 ≤ i)
        else bit (wallAt s w.toNat) i) ∧
      (∀ x, x ≠ w.toNat → wallAt t x = wallAt s x) ∧ { t with walls := [] } = { s with walls := [] }) ∧
    (∀ (h : BitVec 5) (v : BitVec 64), (hartAt s h.toNat).run = true →
      Runs (.doorbellClear h v) s (fun t => (∀ i, i < 64 → bit (hartAt t h.toNat).db i = (bit (hartAt s h.toNat).db i && !v.getLsbD i)) ∧
        (hartAt t h.toNat).mext = decide ((hartAt t h.toNat).db ≠ 0 ∧ bit (hartAt s h.toNat).dbtgt 0 = false) ∧
        (hartAt t h.toNat).sext = decide ((hartAt t h.toNat).db ≠ 0 ∧ bit (hartAt s h.toNat).dbtgt 0 = true) ∧
        { t with harts := [] } = { s with harts := [] } ∧ ∀ x, x ≠ h.toNat → hartAt t x = hartAt s x) ∧
      (∀ n : BitVec 12, exec (.toolNotifyStore h n v) s = .next (notifyStore s n.toNat v.toNat h.toNat)) ∧
      ((hartAt s h.toNat).timer = false → (hartAt s h.toNat).mtimecmp ≤ s.mtime → Runs (.toolTimerInterrupt h) s fun t =>
        hartAt t h.toNat = { hartAt s h.toNat with timer := true } ∧ (∀ x, x ≠ h.toNat → hartAt t x = hartAt s x) ∧
        { t with harts := [] } = { s with harts := [] })) ∧
    (∀ (h : BitVec 5) (k : BitVec 2) (ad : BitVec 36) (z : BitVec 2) (v : BitVec 64), (hartAt s h.toNat).run = true →
      let only (t : State) (g : Hart) : Prop := { t with harts := [] } = { s with harts := [] } ∧
        hartAt t h.toNat = g ∧ ∀ x, x ≠ h.toNat → hartAt t x = hartAt s x
      let n := 2 ^ z.toNat
      let refused (t : State) : Prop :=
        only t ((hartAt s h.toNat).trap (if k = 0 then 5 else if k = 2 then 1 else 7) ad.toNat)
      (wallFor s h.toNat ad.toNat n = none → Runs (.toolSandboxAccess h k ad z v) s refused) ∧
      (∀ w, wallFor s h.toNat ad.toNat n = some w →
        let ok := if k = 3 then bit w 0 && bit w 1 else bit w k.toNat
        let l := bits w 21 23 * 2 ^ 21 + (ad.toNat - bits w 81 15 * 2 ^ 21)
        (∃ i, i < 64 ∧ w = wallAt s i ∧ wallOn s w = true ∧ bit w (96 + h.toNat) = true ∧ bits w 81 15 * 2 ^ 21 ≤ ad.toNat ∧
          ad.toNat + n ≤ (bits w 81 15 + bits w 65 16) * 2 ^ 21 ∧ ∀ y, y < i →
            ¬(wallOn s (wallAt s y) = true ∧ bit (wallAt s y) (96 + h.toNat) = true ∧ bits (wallAt s y) 81 15 * 2 ^ 21 ≤ ad.toNat ∧
              ad.toNat < (bits (wallAt s y) 81 15 + bits (wallAt s y) 65 16) * 2 ^ 21)) ∧
        (ok = false → Runs (.toolSandboxAccess h k ad z v) s refused) ∧
        (ok = true → (3 ≤ s.dev.pkg ∧ s.dev.plim = 0) ∨ (hartAt s h.toNat).held ≠ [] →
          Runs (.toolSandboxAccess h k ad z v) s fun t => only t { hartAt s h.toNat with
            held := (hartAt s h.toNat).held ++ [⟨k.toNat, ad.toNat, n, v.toNat, 0⟩] }) ∧
        (ok = true → (s.dev.pkg < 3 ∨ s.dev.plim ≠ 0) → (hartAt s h.toNat).held = [] → s.memOk →
          let u := (wakePackage s).noMem
          let loaded (t : State) : Prop := { t.noMem with harts := [] } = { u with harts := [] } ∧
            hartAt t h.toNat = { hartAt s h.toNat with data := leNat (loadN s l n) } ∧
            ∀ x, x ≠ h.toNat → hartAt t x = hartAt s x
          (k = 0 ∨ k = 2 → Runs (.toolSandboxAccess h k ad z v) s fun t => loaded t ∧ t.mem = s.mem ∧ t.poison = s.poison) ∧
          (k = 1 → Runs (.toolSandboxAccess h k ad z v) s fun t => Wrote s t l n v.toNat ∧ t.noMem = u) ∧
          (k = 3 → Runs (.toolSandboxAccess h k ad z v) s fun t => Wrote s t l n v.toNat ∧ loaded t)))) ∧
    (∀ (k : Hart) (code v : Nat), code < 16 → let t := k.trap code v
      let enters (b m : Nat) : Prop := t.reg (b + 0x42) = code ∧ t.reg (b + 0x43) = v ∧ t.reg (b + 0x41) = k.pc ∧ t.mode = m ∧
        t.pc = k.reg (b + 5) / 4 * 4 ∧ (∀ r, r ∉ [0x300, b + 0x41, b + 0x42, b + 0x43] → t.reg r = k.reg r)
      (k.mode = 3 ∨ k.mode = 0 ∧ bit (k.reg 0x302) code = false → enters 0x300 3) ∧
      (k.mode = 1 ∨ k.mode = 0 ∧ bit (k.reg 0x302) code = true → enters 0x100 1) ∧
      t.fault = code ∧ t.faultAddr = v ∧ t.run = k.run ∧ t.x = k.x ∧ t.f = k.f ∧ t.held = k.held) ∧
    (∀ m : BitVec 6, let k := monitorAt s m.toNat
      let only (i : Instr) (left : List (Nat × Nat)) (P : Monitor → Prop) : Prop := Runs i s fun t => P (monitorAt t m.toNat) ∧
        (∀ x, x ≠ m.toNat → monitorAt t x = monitorAt s x) ∧ t.samples = left ∧
        { t with monitors := [], samples := [] } = { s with monitors := [], samples := [] }
      only (.monitorClear m) s.samples (fun u => u = { k with
        min := 0xFFFFFFFF, max := 0, cnt := 0, sum := 0, sat := false, bins := List.replicate 32 0 }) ∧
      only (.monitorSatClear m) s.samples (fun u => u = { k with sat := false }) ∧
      ∀ v : BitVec 32, bit k.ctl 0 = true → bits k.sel 0 8 ≠ 0 → (m.toNat, v.toNat) ∈ s.samples →
        let left := s.samples.erase (m.toNat, v.toNat)
        (bit k.ctl 2 = true → exec (.monitorSample m v) s = .next { s with samples := left }) ∧
        (bit k.ctl 2 = false → k.bins.length = 32 →
          let x := v.toNat
          let cap := 2 ^ 48 - 1
          let lo := bits k.ctl 16 32
          let b := if bit k.ctl 3 then (if x = 0 then 0 else min 31 (Nat.log2 x + 1))
            else if x < lo then 0 else min 31 ((x - lo) / 2 ^ bits k.ctl 8 8)
          only (.monitorSample m v) left fun u => u.min = min k.min x ∧ u.max = max k.max x ∧ u.cnt = min (k.cnt + 1) cap ∧
            u.sum = min (k.sum + x) cap ∧ u.ctl = k.ctl ∧ u.sel = k.sel ∧
            (∀ i, nth u.bins i = if i = b then min (nth k.bins b + 1) cap else nth k.bins i) ∧
            (u.sat = true ↔ k.sat = true ∨ cap < k.cnt + 1 ∨ cap < k.sum + x ∨ cap < nth k.bins b + 1))) ∧
    (2 ≤ s.dev.stage → Runs .attestationRequest s fun t =>
      { t with freeCount := 0, sec := { t.sec with mailbox := [] } } = { s with freeCount := 0, sec := { s.sec with mailbox := [] } } ∧
      mailboxBytes t 0 256 = mailboxBytes s 0 256 ∧
      (s.sec.failed = true → mailboxBytes t 256 312 = List.replicate 312 0) ∧
      (s.sec.failed = false → mailboxBytes t 256 16 = leBytes 16 s.sec.serial ∧ mailboxBytes t 272 48 = mailboxBytes s 0 48 ∧
        mailboxBytes t 472 96 = ecdsaSign Config.deviceKey (Config.signNonce t.freeCount) (sha384 (mailboxBytes t 256 216))))

/-! ## The device: boot, power, errors, links (R316 to R322, R357 to R363, R439, R448 to R464) -/

/-- R357, R358, R361, R363, R422, R423, R436, R439, R448 to R450, R461 to R464: boot and reset, power states, thermal holds,
and errors with what they record and whom they stop. The security processor's image stands in the boot window, header, body and
signature one after another (log 33); its firmware runs in stage 2 (log 62). -/
def Obligations.PowerAndErrors : Prop :=
  ∀ s : State,
    (∀ i, i = Instr.deviceReset ∨ i = .pcieHotReset → Runs i s fun t => t.dev = { Device.reset with stage := 1 } ∧ t.mem = ⟨[], []⟩ ∧
      t.cores = [] ∧ t.jobs = [] ∧ t.fatal = none ∧ ∀ k, (clusterAt t k).master = none) ∧
    (∀ (m : BitVec 2) (ver : BitVec 16) (key hdr body sig : List Byte), s.sec.failed = false →
      (m = 0 ∧ s.dev.stage = 1 ∨ m = 1 ∧ s.dev.stage = 2 ∨ m = 2 ∧ 2 ≤ s.dev.stage) →
      (m = 0 → ∀ i b, (hdr ++ body ++ sig)[i]? = some b → bits (tabGet 0 s.sec.boot (i / 8)) (8 * (i % 8)) 8 = b.toNat) →
      Runs (.securityImageVerify m ver key hdr body sig) s fun t => (imageGood s ver.toNat key hdr body sig = false → t = s) ∧
        (imageGood s ver.toNat key hdr body sig = true →
          t.dev.stage = (if m = 0 then 2 else if m = 1 then 3 else s.dev.stage) ∧ nth t.sec.versions m.toNat = ver.toNat ∧
          t.sec.measures.getD m.toNat [] = sha384 (hdr ++ body) ∧ t.cores = s.cores ∧ (m ≠ 0 → t.mem = s.mem) ∧
          (m = 0 → t.mem = ⟨[], []⟩ ∧ t.cycle = 0 ∧
            ∀ c, c < 36 → (clusterAt t c).master = (List.range 48).find? (fun k => Config.selfTest (48 * c + k))))) ∧
    (∀ d l : BitVec 3, d.toNat < 6 → l = 1 ∨ l = 2 → dieIdle s d.toNat = true → wakeLatency l.toNat ≤ s.dev.ltol →
      (l = 1 → s.dev.ltol < wakeLatency 2) → 2250 * wakeLatency l.toNat ≤ (dieAt s d.toNat).idle →
      (dieAt s d.toNat).pstate < l.toNat → Runs (.powerStateEntry d l) s fun t =>
        dieAt t d.toNat = { dieAt s d.toNat with pstate := l.toNat } ∧ (∀ x, x ≠ d.toNat → dieAt t x = dieAt s x) ∧
        { t with dies := [] } = { s with dies := [] }) ∧
    (∀ l : BitVec 3, l = 3 ∨ l = 4 → s.dev.plim ≠ 0 → packageIdle s = true → wakeLatency l.toNat ≤ s.dev.ltol →
      (l = 3 → s.dev.ltol < wakeLatency 4) → 2250 * wakeLatency l.toNat ≤ s.dev.quiet → s.dev.pkg < l.toNat →
      exec (.powerStateEntry 6 l) s = .next { s with dev := { s.dev with pkg := l.toNat } }) ∧
    (s.dev.plim = 0 → s.dev.pkg < 4 → exec (.powerStateEntry 6 4) s = .next { s with dev := { s.dev with pkg := 4 } }) ∧
    (∀ d : BitVec 3, d.toNat < 6 → (dieAt s d.toNat).pstate ≠ 0 → Runs (.powerWake d) s fun t =>
        dieAt t d.toNat = { dieAt s d.toNat with pstate := 0, idle := 0 } ∧ { t with dies := [] } = { s with dies := [] }) ∧
    (s.dev.pkg ≠ 0 → s.dev.plim ≠ 0 → exec (.powerWake 6) s = .next { s with dev := { s.dev with pkg := 0, quiet := 0 } }) ∧
    (∀ d : BitVec 3, d.toNat < 6 →
      ((dieAt s d.toNat).hold = false → Runs (.thermalHoldEntry d) s fun t =>
        dieAt t d.toNat = { dieAt s d.toNat with thead := 0, hold := true, holdLen := 0 } ∧
        { t with dies := [] } = { s with dies := [] }) ∧
      (∀ h : BitVec 16, (dieAt s d.toNat).hold = true → 16 ≤ h.toNat → ∃ u, exec (.thermalHoldExit d h) s =
          .next (logPlain u 0xCF 0 (d.toNat + 256) (dieAt s d.toNat).holdLen) ∧
        dieAt u d.toNat = { dieAt s d.toNat with thead := h.toNat, hold := false } ∧
        { u with dies := [] } = { s with dies := [] }) ∧
      exec (.thermalTrip d) s = .next (setPlim (killAll (logPlain s 0xC9 4 d.toNat 0) 0xC9) 0) ∧
      (∃ u, exec (.correctableError d) s = .next
          (let n := min ((dieAt s d.toNat).ecnt + 1) (2 ^ 48 - 1)
          if n ≠ (dieAt s d.toNat).ecnt ∧ s.dev.ecthr ≠ 0 ∧ n % s.dev.ecthr = 0 then logPlain u 0xCF 0 d.toNat n else u) ∧
        dieAt u d.toNat = { dieAt s d.toNat with ecnt := min ((dieAt s d.toNat).ecnt + 1) (2 ^ 48 - 1) } ∧
        { u with dies := [] } = { s with dies := [] })) ∧
    (∀ i, i = Instr.supplyFault ∨ i = .plimOverrun → exec i s = .next (setPlim (killAll (logPlain s 0xCA 4 0 0) 0xCA) 0)) ∧
    (∀ code j, j ∈ s.jobs → j.2.phase ≠ 4 → (jobAt (killAll s code) j.1).killed = true) ∧
    (∀ (l : Nat) (y : BitVec 64), ∃ u, exec (.patrolPoison l y) s = .next (logPlain u (poisonCode l) 0 (checkUnit l).1 y.toNat) ∧
      u.mem = s.mem ∧ (∀ x, x ∈ u.poison ↔ x = (checkUnit l).1 ∨ x ∈ s.poison) ∧
      (∀ c, coreOfLoc l = some c → (coreAt u c).fenced = true)) ∧
    (∀ c : BitVec 8, c ∈ [0xC7, 0xC8, 0xCB, 0xCC] → ∀ n y : BitVec 64, Runs (.deviceFatalError c n y) s fun t =>
      t.fatal = some c.toNat ∧ { t with fatal := s.fatal } = { killAll (logPlain s c.toNat 5 n.toNat y.toNat) c.toNat with fatal := s.fatal }) ∧
    (Runs .securityProcessorFault s fun t => t.sec = { s.sec with failed := true } ∧ t.cores = s.cores ∧ t.jobs = s.jobs) ∧
    (∀ (h : BitVec 5) (ad : BitVec 38), (hartAt s h.toNat).run = true → ∃ u, exec (.toolCacheError h ad) s =
        .next (logPlain u 0xCD 0 h.toNat 0) ∧ { u with harts := [] } = { s with harts := [] } ∧
        (∀ x, x ≠ h.toNat → hartAt u x = hartAt s x) ∧
        let kind := ad.toNat / 2 ^ 36
        hartAt u h.toNat = (hartAt s h.toNat).trap (if kind = 0 then 5 else if kind = 2 then 1 else 7) (ad.toNat % 2 ^ 36)) ∧
    (∀ (n : Nat) (y : BitVec 64), Runs (.tileTableError n y) s fun t =>
      (∀ j, j ∈ (unitAt s n).tiles → (jobAt t j.job).killed = true) ∧ t.cores = s.cores ∧
      ∀ j, j ∈ (unitAt s n).tiles → (poolAt (unitAt t n) j.pool).valid = false)

/-- R315 to R322, R454 to R456, R459, R462: the far tier's ports, the spans of Kalwick and the accesses that cross them. A
damaged flit counts a retry; at the far end's request or after the time-out the flits of the replay store are sent again in
order, each at most 16 times before the span goes down; a flit accepted brings its request once. At home an access of up to 240
bytes is performed whole where the issuing context's tables say, an AFADD.w (kind 13) as an addition of FP32, and is answered; one
that does not translate changes nothing. That the answer leaves by the routes of cluster 0 is the model's choice (log 100). -/
def Obligations.PortsAndSpans : Prop :=
  ∀ s : State,
    (∀ p : BitVec 1, s.ports.length = 2 →
      (s.ports.getD p.toNat false = true → ∃ u, exec (.cxlPortDown p) s = .next (logPlain u 0x33 0 p.toNat 0) ∧
        u = { s with ports := s.ports.set p.toNat false }) ∧
      (s.ports.getD p.toNat false = false → 3 ≤ s.dev.stage →
        exec (.cxlPortRetrained p) s = .next { s with ports := s.ports.set p.toNat true })) ∧
    (∀ p : BitVec 5, p.toNat < 24 →
      let k := spanAt s p.toNat
      let only (u : State) (f : Span) : Prop := spanAt u p.toNat = f ∧ (∀ x, x ≠ p.toNat → spanAt u x = spanAt s x) ∧
        { u with spans := [] } = { s with spans := [] }
      let again (f : Flit) : Flit := { f with sent := s.cycle, resends := f.resends + 1 }
      let resends (i : Instr) (l1 l2 : List Flit) : Prop :=
        ((∀ f, f ∈ l2 → f.resends < 16) → ∃ u, only u { k with replay := l1 ++ l2.map again } ∧
          exec i s = .next (countRetry u p.toNat)) ∧
        ((∃ f, f ∈ l2 ∧ 16 ≤ f.resends) → exec i s = .next (spanDown s p.toNat))
      (k.up = true → ∀ q : BitVec 32,
        (q.toNat = k.expect % 2 ^ 32 → Runs (.flitReceive p q 0) s (fun t => t.inbound = s.inbound + 1 ∧
          only { t with inbound := s.inbound } { k with expect := k.expect + 1 })) ∧
        (q.toNat ≠ k.expect % 2 ^ 32 → exec (.flitReceive p q 0) s = .next s) ∧
        exec (.flitReceive p q 1) s = .next (countRetry s p.toNat) ∧
        (∀ l1 f l2, k.replay = l1 ++ f :: l2 → f.seq % 2 ^ 32 = q.toNat → (∀ x, x ∈ l1 → x.seq % 2 ^ 32 ≠ q.toNat) →
          resends (.flitReceive p q 2) l1 (f :: l2)) ∧
        ((∀ x, x ∈ k.replay → x.seq % 2 ^ 32 ≠ q.toNat) → exec (.flitReceive p q 2) s = .next s)) ∧
      (k.up = true → (∃ f, k.replay.head? = some f ∧ f.sent + 16384 ≤ s.cycle) → resends (.flitAckTimeout p) [] k.replay) ∧
      (∀ q : BitVec 32, (∃ f, f ∈ k.replay ∧ f.seq % 2 ^ 32 = q.toNat) → Runs (.flitAck p q) s fun t =>
        spanAt t p.toNat = { k with replay := k.replay.filter (fun f => f.seq % 2 ^ 32 != q.toNat) } ∧
        (∀ x, x ≠ p.toNat → spanAt t x = spanAt s x) ∧
        { t with spans := [], routes := [], routesDue := [] } = { s with spans := [], routes := [], routesDue := [] }) ∧
      (k.up = false → ∀ full : BitVec 1, ∃ u, spanAt u p.toNat = { k with up := true, full := full == 1 } ∧
        (∀ x, x ≠ p.toNat → spanAt u x = spanAt s x) ∧ { u with spans := [], absent := [] } = { s with spans := [], absent := [] } ∧
        exec (.spanUp p full) s = .next (if full = 0 then logPlain u 0xBA 0 p.toNat 0 else u)) ∧
      ((countRetry s p.toNat).cores = s.cores ∧
        (2 ^ 24 ≤ s.cycle - k.since → (spanAt (countRetry s p.toNat) p.toNat).retries = 1) ∧
        (s.cycle - k.since < 2 ^ 24 → (spanAt (countRetry s p.toNat) p.toNat).retries = k.retries + 1)) ∧
      (∀ cl r n, spanOn s r = some p.toNat →
        only (sendOn s cl r n) { k with next := k.next + 1, replay := k.replay ++ [⟨k.next, cl, r, n, s.cycle, 0⟩] } ∧
        (spanRoom s r 1 = true → post s cl r n = sendOn s cl r n) ∧
        (256 ≤ k.replay.length → post s cl r n = { s with outbox := s.outbox ++ [⟨cl, r, n⟩] }))) ∧
    (∀ (c : BitVec 8) (v : BitVec 64), c ∈ [0xB7, 0xB8, 0xB9, 0xBC] →
      exec (.pierReport c v) s = .next (logPlain s c.toNat 0 v.toNat 0)) ∧
    (∀ (x : BitVec 18) (k : BitVec 4) (va : BitVec 52) (z : BitVec 8) (v : BitVec 1920) (c : BitVec 64), s.memOk → s.inbound ≠ 0 →
      (s.dev.pkg < 3 ∨ s.dev.plim ≠ 0) →
      let u := wakePackage { s with inbound := s.inbound - 1 }
      let ctx := x.toNat % 16
      let n := z.toNat
      let reads : Prop := k = 0 ∨ k = 14 ∨ k = 15
      let answers (t : State) (m : Nat) : Prop :=
        exec (.remoteAccessHome x k va z v c) s = .next (post t 0 (routeOf t 0 (rankOf t (x.toNat / 16))) m)
      ((ctxAt s ctx).ptroot = 0 → answers u 0) ∧
      ((ctxAt s ctx).ptroot ≠ 0 → (∃ q, q ∈ pageCuts va.toNat n ∧ (reads → ∀ l, translateFlat u ctx q.1 false ≠ .ok (l, false)) ∧
        (¬reads → ∀ l, translateFlat u ctx q.1 true ≠ .ok (l, false))) → answers u 0) ∧
      ∀ l, (ctxAt s ctx).ptroot ≠ 0 → pageCuts va.toNat n = [(va.toNat, n)] →
        (reads → translateFlat u ctx va.toNat false = .ok (l, false) → answers u n) ∧
        (¬reads → translateFlat u ctx va.toNat true = .ok (l, false) →
          (k = 1 → ∃ t, Wrote s t l n v.toNat ∧ t.noMem = u.noMem ∧ answers t 0) ∧
          (k ≠ 1 → ∃ t, Wrote s t l n (atomFn k.toNat (8 * n) (leNat (loadN s l n)) (v.toNat % 2 ^ (8 * n))
            (c.toNat % 2 ^ (8 * n))) ∧ t.noMem = u.noMem ∧ answers t n))) ∧
    (∀ r : Remote, s.remotes.find? (fun q => q.id == r.id) = some r →
      let a : At := ⟨r.core, r.sx⟩
      let less (n : Nat) : State := { s with inbound := s.inbound - n, remotes := s.remotes.filter (fun q => q.id != r.id) }
      let fails (i : Instr) (n code home : Nat) : Prop :=
        let w := less n
        let c : Cause := if code = 0xA5 then ⟨code, rankOf s r.rank, 0, home⟩ else ⟨code, r.va, rankOf s r.rank, home⟩
        (1728 ≤ r.core → exec i s = .next { w with hostData := none, hostEnd := .completerAbort }) ∧
        (r.core < 1728 → ∀ e, remoteEntry s r = some e → exec i s = .next
          (failEntry w r.core e (match e.op with | .mdrain 1 _ ch _ _ => ⟨0xA7, ch, 0, 0⟩ | _ => c))) ∧
        (r.core < 1728 → remoteEntry s r = none → (strandAt s a).task = none → exec i s = .next w) ∧
        (r.core < 1728 → remoteEntry s r = none → (strandAt s a).task.isSome = true → Runs i s fun t => Alone w t a ∧
          strandAt t a = { strandAt s a with
            sb := if r.queue = none then (strandAt s a).sb.filter (fun b => b.id != r.sbId) else (strandAt s a).sb
            asyncs := (strandAt s a).asyncs ++ [⟨c, false, 0, 0, r.word, r.pc, 2⟩] })
      (remoteDead s r = true ↔ 2 ^ 22 ≤ s.cycle - r.sent ∨ rankAbsent s (rankOf s r.rank) = true ∨
        spanOfRoute s (routeWord s (r.core / 48 % 36) r.rank) = none) ∧
      (remoteDead s r = true → fails (.remoteAccessTimeout r.id) 0 0x3B 0) ∧
      ∀ v : BitVec 1920, s.inbound ≠ 0 →
        (∀ c : BitVec 8, c ∈ [0x39, 0x3A, 0x3F, 0xA5] → fails (.remoteResponse r.id c v) 1 c.toNat (v.toNat % 2 ^ 64)) ∧
        (1728 ≤ r.core → exec (.remoteResponse r.id 0 v) s = .next (if r.kind = 0
          then { less 1 with hostData := s.hostData.map (fun d => d + remoteValue r v.toNat <<< (8 * r.c)) } else less 1)) ∧
        (r.core < 1728 → r.queue ≠ none →
          (∀ e, remoteEntry s r = some e → r.kind = 0 → exec (.remoteResponse r.id 0 v) s = .next (putEntry (less 1) r.core
            { e with prog := { e.prog with taken := e.prog.taken ++ [(remoteKey r.va, leBytes r.size v.toNat)] } })) ∧
          (remoteEntry s r = none ∨ r.kind ≠ 0 → exec (.remoteResponse r.id 0 v) s = .next (less 1))) ∧
        (r.core < 1728 → r.queue = none →
          (r.kind = 14 ∨ r.kind = 15 → Runs (.remoteResponse r.id 0 v) s fun t => Alone (less 1) t a ∧
            strandAt t a = { strandAt s a with grant := (strandAt s a).grant ++
              [(if r.kind = 14 then 2 * (strandAt s a).pc.toNat + 1 else fetchKey r.va, BitVec.ofNat 64 v.toNat)] }) ∧
          (r.kind ≠ 14 → r.kind ≠ 15 → Runs (.remoteResponse r.id 0 v) s fun t => Alone (less 1) t a ∧
            strandAt t a = { strandAt s a with sb := (strandAt s a).sb.map (fun b =>
              if b.id = r.sbId then { b with val := some (remoteValue r v.toNat) } else b) })) ∧
        (r.size ≤ 8 → remoteValue r v.toNat = BitVec.ofNat 64 (v.toNat % 2 ^ (8 * r.size)))) ∧
    (∀ (id : Nat) (c : BitVec 8) (v : BitVec 1920), s.inbound ≠ 0 → c ∈ [0, 0x39, 0x3A, 0x3F, 0xA5] →
      (∀ r, r ∈ s.remotes → r.id ≠ id) → exec (.remoteResponse id c v) s = .next { s with inbound := s.inbound - 1 })

/-! ## The front (R28 to R30, R294 to R301, R305 to R310, R433, R440 to R447, R452) -/

/-- R294 to R299, R440, R441, R445 to R447, R452: the front's commands: a graph slot's registers and START, single launches,
the end of jobs by the host, re-runs; what it refuses is counted and recorded. A parameter write of the cycle of a START that is
accepted lands in the bank that it opens. A CRST of a context, and the reset of its VF, ends its jobs with 0x9F, drops its slots'
replays and, once its jobs have ended, makes its pools not valid, its TLB entries gone and its notify range's pending bits 0. Of
several refusals the first of the table is recorded (log 60), and a captured job runs again under the context and card noted at
its capture (log 61). -/
def Obligations.FrontCommands : Prop :=
  ∀ s : State,
    (∀ (n : BitVec 4) (k : BitVec 8) (v : BitVec 64), Runs (.graphParameterWrite n k v) s fun t =>
      { t with slots := [] } = { s with slots := [] } ∧ (∀ m, m ≠ n.toNat → slotAt t m = slotAt s m) ∧
      let x := slotAt s n.toNat
      let at_ := 256 * x.opened + k.toNat
      slotAt t n.toNat = { x with params := tabPut x.params at_ v.toNat, fresh := (s.cycle,
        (if x.fresh.1 = s.cycle then x.fresh.2 else []) ++ [(k.toNat, tabGet 0 x.params at_, v.toNat)]) }) ∧
    (∀ (n : BitVec 4) (r : BitVec 2) (v : BitVec 64), r ≠ 3 → let x := slotAt s n.toNat
      (x.replays ≠ [] → exec (.graphSlotConfigWrite n r v) s = .next (refuseSlot s n.toNat 0x8D)) ∧
      (x.replays = [] → Runs (.graphSlotConfigWrite n r v) s fun t => { t with slots := [] } = { s with slots := [] } ∧
        slotAt t n.toNat = (if r = 0 then { x with gbase := v.toNat % 2 ^ 52 } else if r = 1 then { x with gpatch := v.toNat % 2 ^ 52 }
          else { x with gctl := v.toNat % 2 ^ 12 + v.toNat / 2 ^ 16 % 2 ^ 20 * 2 ^ 16 }))) ∧
    (∀ (n : BitVec 4) (b : BitVec 1), let x := slotAt s n.toNat
      (2 ≤ x.replays.length → exec (.gstart n b) s = .next (refuseSlot s n.toNat 0x88)) ∧
      (x.replays.length < 2 → b.toNat ≠ x.opened → exec (.gstart n b) s = .next (refuseSlot s n.toNat 0x89)) ∧
      (x.replays.length < 2 → b.toNat = x.opened → ∀ c, launchRefusal s x.ctx = some c →
        exec (.gstart n b) s = .next (refuseSlot s n.toNat c)) ∧
      (x.replays.length < 2 → b.toNat = x.opened → launchRefusal s x.ctx = none → ∃ u,
        (let p := x.atStart s.cycle b.toNat
        slotAt u n.toNat = { x with
          params := p, fresh := (s.cycle, []), opened := 1 - b.toNat
          replays := x.replays ++ [⟨bankParams p b.toNat, false, [], [], [], []⟩] }) ∧
        (∀ m, m ≠ n.toNat → slotAt u m = slotAt s m) ∧ { u with slots := [] } = { s with slots := [] } ∧
        exec (.gstart n b) s = .next (if x.replays = [] then runReplay n.toNat 8 u else u))) ∧
    (∀ (x : Slot) (b : BitVec 1) (k : Nat), k < 256 → (∀ w, w ∈ x.fresh.2 → w.1 < 256) →
      let p := x.atStart s.cycle b.toNat
      let now := if x.fresh.1 = s.cycle then x.fresh.2 else []
      tabGet 0 p (256 * b.toNat + k) =
        ((now.find? (fun w => w.1 == k)).map (fun w => w.2.1)).getD (tabGet 0 x.params (256 * b.toNat + k)) ∧
      tabGet 0 p (256 * (1 - b.toNat) + k) =
        ((now.reverse.find? (fun w => w.1 == k)).map (fun w => w.2.2)).getD (tabGet 0 x.params (256 * (1 - b.toNat) + k)) ∧
      tabGet 0 (bankParams p b.toNat) k = tabGet 0 p (256 * b.toNat + k)) ∧
    (∀ c, ((s.dev.stage < 3 ∨ s.dev.plim = 0) → launchRefusal s c = some 0x86) ∧
      (3 ≤ s.dev.stage → s.dev.plim ≠ 0 → (ctxAt s c).ptroot = 0 ∨ (ctxAt s c).savebase = 0 → launchRefusal s c = some 0x87) ∧
      (3 ≤ s.dev.stage → s.dev.plim ≠ 0 → (ctxAt s c).ptroot ≠ 0 → (ctxAt s c).savebase ≠ 0 → launchRefusal s c = none)) ∧
    (∀ (c : BitVec 4) (card : BitVec 52), let x := ctxAt s c.toNat
      (∀ code, launchRefusal s c.toNat = some code → exec (.launch c card) s = .next (logPlain s code 0 card.toNat 0)) ∧
      (launchRefusal s c.toNat = none → 8 ≤ (x.launched + 2 ^ 32 - x.ended) % 2 ^ 32 →
        exec (.launch c card) s = .next (logPlain s 0x8E 0 card.toNat 0)) ∧
      (launchRefusal s c.toNat = none → (x.launched + 2 ^ 32 - x.ended) % 2 ^ 32 < 8 → ∃ u,
        ctxAt u c.toNat = { x with launched := (x.launched + 1) % 2 ^ 32 } ∧ { u with ctxs := [] } = { s with ctxs := [] } ∧
        exec (.launch c card) s = .next (readyNode u c.toNat card.toNat none))) ∧
    (∀ v : BitVec 64, let i := v.toNat / 2 ^ 48
      (tabFind s.dev.capOf i = none → exec (.replay v) s = .next s) ∧
      (∀ c card, tabFind s.dev.capOf i = some (c, card) →
        let at_ := s.dev.capbase + 4096 * i
        let x := ctxAt s c
        let b := cardJob s c card (loadNat s at_ 64) none
        let same := loadN s (at_ + 80) 48 = recordsDigest s b ∧ ∀ k, k < 8 → loadN s (at_ + 128 + 48 * k) 48 = regionDigest s c k
        (¬same → exec (.replay v) s = .next (putResult s i (2 ^ 63 + 2))) ∧
        (same → ∀ code, launchRefusal s c = some code → exec (.replay v) s = .next (logPlain s code 0 card 0)) ∧
        (same → launchRefusal s c = none → 8 ≤ (x.launched + 2 ^ 32 - x.ended) % 2 ^ 32 →
          exec (.replay v) s = .next (logPlain s 0x8E 0 card 0)) ∧
        (same → launchRefusal s c = none → (x.launched + 2 ^ 32 - x.ended) % 2 ^ 32 < 8 → ∃ u raw,
          ctxAt u c = { x with launched := (x.launched + 1) % 2 ^ 32 } ∧
          { u with ctxs := [] } = { putResult s i (2 ^ 62) with ctxs := [] } ∧
          exec (.replay v) s = .next (readyCard u c card raw none (some (i, 0)))))) ∧
    (∀ (c : BitVec 4) (id : BitVec 32), Runs (.jend c id) s fun t => t.cores = s.cores ∧ t.mem = s.mem ∧
      ∀ j, j ∈ s.jobs → j.2.ctx = c.toNat → j.2.id = id.toNat → j.2.phase ≠ 4 → (jobAt t j.1).killed = true) ∧
    (let idle (c : Nat) : Prop := ∀ j, j ∈ s.jobs → j.2.ctx = c → j.2.phase = 4
    let cleared (t : State) (c : Nat) : Prop :=
      ctxAt t c = { ctxAt s c with resetting := false, busy := false } ∧
      (∀ n p, p ∈ (unitAt t n).pools → p.1 / 64 = c → p.2.valid = false) ∧
      (∀ k e, e ∈ (coreAt t k).tlb ↔ e ∈ (coreAt s k).tlb ∧ e.ctx ≠ c) ∧
      (∀ d e, e ∈ (dieAt t d).tlb ↔ e ∈ (dieAt s d).tlb ∧ e.ctx ≠ c) ∧
      ∀ w, (ctxAt s c).nwrFirst ≤ w → w < (ctxAt s c).nwrFirst + (ctxAt s c).nwrCount → (nwAt t w).pending = false
    let resets (i : Instr) (c : Nat) : Prop := Runs i s fun t =>
      (∀ j, j ∈ s.jobs → j.2.ctx = c → j.2.phase ≠ 4 → (jobAt t j.1).killed = true ∧
        (jobAt t j.1).endCode = (if (jobAt s j.1).endCode = 0 then 0x9F else (jobAt s j.1).endCode)) ∧
      (∀ n, slotAt t n = if (slotAt s n).ctx = c then { slotAt s n with replays := [] } else slotAt s n) ∧
      (∀ x, x ∈ t.streams ↔ x ∈ s.streams ∧ x.ctx ≠ c) ∧ t.mem = s.mem ∧
      (idle c → cleared t c) ∧
      (¬idle c → ctxAt t c = { ctxAt s c with resetting := true, busy := true } ∧ t.units = s.units ∧ t.cores = s.cores)
    (∀ c : BitVec 4, resets (.crst c) c.toNat) ∧
    (∀ f : BitVec 5, f ≠ 0 → f.toNat ≤ 16 → resets (.vfFlr f) (f.toNat - 1)) ∧
    ∀ c, (ctxAt s c).resetting = true → (idle c → cleared (finishReset s c) c) ∧ (¬idle c → finishReset s c = s))

/-- R28 to R30, R299, R300, R301, R305 to R310, R433, R443: the front's work: jobs issued, stopped, saved, restored and
ended, chunks dealt, stream nodes moved. -/
def Obligations.FrontWork : Prop :=
  ∀ s : State,
    (∀ r rest, s.cards = r :: rest →
      let a : At := ⟨r.core, r.sx⟩
      let b := jobAt s r.job
      let left := b.count - b.dealt
      let n := min left (max 1 ((left + 2 * (placedCores b).length - 1) / (2 * (placedCores b).length)))
      ((∀ e, e ∈ (strandAt s a).sb → e.id ≠ r.sbId) → exec .cardServe s = .next { s with cards := rest }) ∧
      ((∃ e, e ∈ (strandAt s a).sb ∧ e.id = r.sbId) → Runs .cardServe s fun t => t.cards = rest ∧
        (jobAt t r.job).dealt = b.dealt + n ∧ (strandAt t a).g = (strandAt s a).g ∧ t.mem = s.mem ∧
        (strandAt t a).sb = (strandAt s a).sb.map (fun e =>
          if e.id = r.sbId then { e with val := some (chunkWord (b.dealt, n)) } else e))) ∧
    (∀ i x, s.streams.zipIdx.find? (fun y => !y.1.active) = some (x, i) → (s.streams.filter (·.active)).length < 8 →
      s.fatal = none → (s.dev.pkg < 3 ∨ s.dev.plim ≠ 0 → Runs .streamNodeStart s fun t => t.streams = s.streams.set i { x with active := true } ∧
        { t with streams := [] } = { wakePackage s with streams := [] })) ∧
    (∀ (i : Nat) (x : Stream), s.streams[i]? = some x → x.active = true → (s.dev.pkg < 3 ∨ s.dev.plim ≠ 0) →
      let u := { wakePackage s with streams := s.streams.eraseIdx i }
      let moved := streamCopy x.ctx (ceilDiv x.len 512) x.src x.dst x.len u
      (x.len = 0 → moved = (u, none)) ∧
      (0 < x.len → frontLocs x.ctx false (pageCuts x.src (min 512 x.len)) u = none → moved = (u, some 192)) ∧
      (∀ l v, 0 < x.len → x.len ≤ 512 → s.poison = [] → frontLocs x.ctx false (pageCuts x.src x.len) u = some (v, l) →
        v.poison = [] →
        (frontLocs x.ctx true (pageCuts x.dst x.len) v = none → moved = (v, some 128)) ∧
        ∀ w m, frontLocs x.ctx true (pageCuts x.dst x.len) v = some (w, m) → w.poison = [] →
          ¬(x.src < x.dst ∧ x.dst < x.src + x.len) → moved = (writeLocs m (l.flatMap (fun p => loadN w p.1 p.2)) w, none)) ∧
      (moved.2 = none → exec (.streamNodeComplete i) s = .next (completeNode moved.1 (x.slot, x.node) false)) ∧
      ∀ o, moved.2 = some o → exec (.streamNodeComplete i) s =
        .next (completeNode (logPlain moved.1 0x8C 2 (x.slot * 4096 + x.node) o) (x.slot, x.node) true)) ∧
    (∀ j, let b := jobAt s j
      waiting b = true → s.fatal = none → s.dev.plim ≠ 0 → (∀ c, c ∈ placedCores b → (coreAt s c).fenced = false) →
      b.core0 + b.ncore < 48 → (partsMeet s b = false ∨ b.noted = true) → fits s b [] = true → goesFirst s j b = false →
      Runs (.jobIssue j) s fun t => (jobAt t j).phase = 1 ∧ (jobAt t j).order = s.issueNext ∧
        (s.dev.capen = false → t.mem = s.mem) ∧
        { t.dev with capOf := [] } = { s.dev with pkg := 0, quiet := 0, capOf := [] } ∧
        ∀ c, c ∈ placedCores b → (heldOn t j c).length = (heldOn s j c).length + b.strands + 1) ∧
    (∀ j l, let b := jobAt s j
      waiting b = true → b.cls = 0 → fits s b [] = false → s.fatal = none → s.dev.plim ≠ 0 →
        (∀ o, o ∈ s.jobs → o.2.phase = 2 → placementsMeet o.2 b = false) →
        (∀ o, o ∈ s.jobs → o.1 ≠ j → waiting o.2 = true → o.2.cls = 0 →
          (o.2.readyAt < b.readyAt ∨ o.2.readyAt = b.readyAt ∧ (o.2.place < b.place ∨ o.2.place = b.place ∧ o.2.order < b.order)) →
          placementsMeet o.2 b = false) →
        victimsOf s b = some l → (∀ v, v ∈ l → jobRuns s v = true) → Runs (.class0Preempt j) s fun t =>
          (∀ v, v ∈ l → (jobAt t v).phase = 2 ∧ (jobAt t v).stopper = some j) ∧ (∀ v, v ∉ l → jobAt t v = jobAt s v) ∧
          { t with jobs := [] } = { s with jobs := [] }) ∧
    (∀ c j, let b := jobAt s j
      b.phase = 2 → c ∈ placedCores b → c ∉ b.savedOn → c ∉ b.saving →
      (c ∉ b.late → b.stopAt + 2 * s.dev.ttper ≤ s.cycle → Runs (.preemptPointLate c j) s fun t =>
        (jobAt t j).late = b.late ++ [c] ∧ t.cores = s.cores) ∧
      (b.killed = false → pointsReached s c = true →
        (areaOutside s b.ctx c = true → exec (.contextSave c j) s = .next (failSave s j c 0x99)) ∧
        (areaOutside s b.ctx c = false → (coreAt s c).frameBad = true → exec (.contextSave c j) s = .next (failSave s j c 0x9A)) ∧
        (areaOutside s b.ctx c = false → (coreAt s c).frameBad = false → Runs (.contextSave c j) s fun t => jobAt t j = { b with saving := b.saving ++ [c] } ∧
          (∀ i, i ≠ j → jobAt t i = jobAt s i) ∧ { t with jobs := [] } = { s with jobs := [] }))) ∧
    (∀ c j, let b := jobAt s j
      c ∈ b.saving → ∃ u, exec (.saveComplete c j) s = .next (releaseVictims u b.stopper) ∧
        jobAt u j = { b with saving := b.saving.filter (· != c), savedOn := b.savedOn ++ [c] } ∧
        (∀ i, i ≠ j → jobAt u i = jobAt s i) ∧ (coreAt u c).saved.length = (coreAt s c).saved.length + 1 ∧
        (∀ x, x < 4 → (strandAt s ⟨c, x⟩).holder = some j → (strandAt u ⟨c, x⟩).task = none ∧ (strandAt u ⟨c, x⟩).holder = some j)) ∧
    (∀ i, (∀ o, o ∈ s.jobs → o.2.phase = 2 → o.2.stopper = some i →
        o.2.killed = false ∧ ∀ c, c ∈ placedCores o.2 → c ∈ o.2.savedOn) →
      let t := releaseVictims s (some i)
      t.mem = s.mem ∧ ∀ o, o ∈ s.jobs → o.2.phase = 2 → o.2.stopper = some i → (jobAt t o.1).phase = 3 ∧
        ∀ k, k ∈ t.cores → ∀ x, x ∈ k.2.strands → x.2.holder ≠ some o.1) ∧
    (∀ j, let b := jobAt s j
      b.phase = 3 → b.killed = false → refits s b = true → s.fatal = none → s.dev.plim ≠ 0 →
      (∀ o, o ∈ s.jobs → waiting o.2 = true → o.2.cls < b.cls → placementsMeet o.2 b = true → fits s o.2 [] = false) →
      (∀ c, unreadable s j = some c → exec (.contextRestore j) s = .next (failSave s j c 0x9B)) ∧
      (unreadable s j = none → Runs (.contextRestore j) s fun t => (jobAt t j).phase = 1 ∧ (jobAt t j).savedOn = [] ∧
        ∀ c, c ∈ placedCores b → ∀ v, v ∈ (coreAt t c).saved → v.job ≠ j)) ∧
    (∀ j, let b := jobAt s j
      (b.phase = 1 → b.killed = false → b.live = 0 → (∀ p, p ∈ b.pending → p.2 = 0) →
        exec (.jobEnd j) s = .next (finishJob s j)) ∧
      (b.phase < 4 → b.killed = true → b.saving = [] → (∀ a, a ∈ heldBy s j → (strandAt s a).status ≠ .running ∧
          (∀ e, e ∈ queuedEntries s a → e.ended = true ∨ atWork s a.c e = false) ∧
          ∀ r, r ∈ s.remotes → ¬(r.core = a.c ∧ r.sx = a.x)) →
        exec (.jobEnd j) s = .next (finishJob (dropSaved j ((heldBy s j).foldl killStrand s)) j)))

/-! ## The timetable (R20 to R27, R283, R302, R304, R313, R424 to R431) -/

/-- R22, R27, R283, R302, R304, R424 to R428, R431: periods, the choice of strands, waits that expire and those whose condition
has come true, which do not, asynchronous causes, tasks that start, steals, settle sets. -/
def Obligations.Timetable : Prop :=
  ∀ s : State,
    (∀ c, (coreAt s c).periodDue = true → ∃ u, (coreAt u c).periodDue = false ∧ (∀ a, strandAt u a = strandAt s a) ∧
      { u with cores := [] } = { s with cores := [] } ∧ (∀ k, k ≠ c → coreAt u k = coreAt s k) ∧
      exec (.periodStart c) s = .next (periodStrand (periodStrand (periodStrand (periodStrand u ⟨c, 0⟩) ⟨c, 1⟩) ⟨c, 2⟩) ⟨c, 3⟩)) ∧
    (∀ c, (coreAt s c).periodDue = true → (∀ x, x < 4 → (strandAt s ⟨c, x⟩).holder.isSome = true →
        -(s.dev.ttper : Int) ≤ (strandAt s ⟨c, x⟩).segbud ∨ (strandAt s ⟨c, x⟩).overran = true) →
      Runs (.periodStart c) s fun t => (coreAt t c).periodDue = false ∧ t.mem = s.mem ∧
        ∀ x, x < 4 → strandAt t ⟨c, x⟩ = if (strandAt s ⟨c, x⟩).holder.isNone then strandAt s ⟨c, x⟩
          else { strandAt s ⟨c, x⟩ with
            segbud := (((strandAt s ⟨c, x⟩).share + 1) * s.dev.ttper / 256 : Nat) + (min 0 (strandAt s ⟨c, x⟩).segbud) }) ∧
    (∀ c x, (coreAt s c).turn = none → (dieAt s (c / 288)).hold = false → waitingStrand s c = some x →
      Runs (.strandChoice c) s fun t => (coreAt t c).turn = some x ∧ (strandAt s ⟨c, x⟩).status = .waiting ∧
        Alone s t ⟨c, x⟩ id (fun k => { k with turn := none }) ∧ strandAt t ⟨c, x⟩ = strandAt s ⟨c, x⟩) ∧
    (∀ c x, (coreAt s c).turn = none → (dieAt s (c / 288)).hold = false → waitingStrand s c = none → chooseStrand s c = some x →
      Runs (.strandChoice c) s fun t => (coreAt t c).turn = some x ∧ (coreAt t c).lastTurn = x ∧
        strandAt t ⟨c, x⟩ = { strandAt s ⟨c, x⟩ with status := .running } ∧
        Alone s t ⟨c, x⟩ id (fun k => { k with turn := none, lastTurn := 0 })) ∧
    (∀ c x, chooseStrand s c = some x → x ∈ readyStrands s c ∧
      ((dieAt s (c / 288)).hthr ≤ (dieAt s (c / 288)).thead → ∀ y, y ∈ readyStrands s c →
        0 < (strandAt s ⟨c, y⟩).segbud → ((strandAt s ⟨c, y⟩).cost : Int) ≤ (strandAt s ⟨c, y⟩).segbud →
        0 < (strandAt s ⟨c, x⟩).segbud ∧ ((strandAt s ⟨c, x⟩).cost : Int) ≤ (strandAt s ⟨c, x⟩).segbud ∧
          (strandAt s ⟨c, x⟩).cls ≤ (strandAt s ⟨c, y⟩).cls)) ∧
    (∀ (a : At) (w : Wait) (x : Cause), a.x < 4 → (strandAt s a).wait = some w → ccExpiry s a w = some x → w.bound ≤ w.elapsed →
      (strandAt s a).pendTrap = none → (strandAt s a).atStop = false → waitMet s a w = false →
      exec (.waitExpiry a.c a.x) s = .next (expireStrand s a x)) ∧
    (∀ (a : At) (w : Wait), (strandAt s a).wait = some w → a.x < 4 → waitMet s a w = true →
      exec (.waitExpiry a.c a.x) s = .next { s with missed := true }) ∧
    (∀ (a : At) (w : Wait) (va : Nat), w.kind = .watch va → waitMet s a w = wordChanged s a va w.arg) ∧
    (∀ (a : At) (w : Wait), w.kind = .stall 0 → (waitMet s a w = true ↔ (fifoAt s a.c w.arg).length < 16)) ∧
    (∀ (a : At) (w : Wait), w.kind = .stall 3 ∨ w.kind = .stall 4 → framesUsed s a.c (ctxOf s a) < 64 → waitMet s a w = true) ∧
    (∀ (c q : Nat) (e : Entry) (x : Cause), headEntry s c q = some e → engineExpiry s c e = some x → e.limit ≤ e.waited →
      e.fault = none → mayMove s c e = true → exec (.waitExpiry c (4 + q)) s = .next (expireEntry s c e x)) ∧
    (∀ (a : At) (p : PendTrap) (rest : List PendTrap), (strandAt s a).asyncs = p :: rest → (strandAt s a).pendTrap = none →
      (strandAt s a).atStop = false → (strandAt s a).task.isSome = true → jobRuns s (jobOf s a) = true → ∃ u,
        exec (.asyncPoolCause a.c a.x) s = .next (signalTrap u a p) ∧ Alone s u a ∧
        strandAt u a = { strandAt s a with asyncs := rest }) ∧
    (∀ a : At, (∀ y, y < a.x → (sourceOf s ⟨a.c, y⟩).isNone = true) → ∀ w, sourceOf s a = some w →
      exec (.taskStart a.c a.x) s = .next (takeSource s a w)) ∧
    (∀ (head : BitVec 64) (sub n ctx : Nat) (hd : Head) (tl : Tile) (b : Sub),
      s.units.findSome? (fun u => (u.2.heads.find? (fun k => k.1 % 2 ^ 64 == head.toNat && (match k.2.subs[sub]? with
        | some b => b.state == 1 && !b.queued && decide (b.bLim ≤ b.waited)
        | none => false))).map (fun k => (u.1, k.1 / 2 ^ 64))) = some (n, ctx) →
      headAt s n ctx head.toNat = some hd → tileAt s n ctx head.toNat = some tl → hd.subs[sub]? = some b →
      (taskLives s b.bTask = true → ∃ u, u.cores = s.cores ∧
        exec (.subscriberFireTimeout head sub) s = .next (onTasks u (Strand.runs b.bTask) (fun t =>
          { t with asyncs := t.asyncs ++ [⟨⟨0x57, head.toNat, 0, sub⟩, false, 0, 0, 0, 0, 2⟩] }))) ∧
      (taskLives s b.bTask = false →
        let v := if b.holds then cancelDraw s b.bCore ctx hd.cur else s
        let ended := { b with state := 6, unfinished := true, holds := false, waited := 0 }
        exec (.subscriberFireTimeout head sub) s = .next (settleHead (putHead v n ctx head.toNat (some (hd, tl.count))
          { hd with subs := setNth hd.subs sub ended } tl.count) b.bCore ctx head.toNat))) ∧
    (∀ c x, noSource s ⟨c, x⟩ = true → (coreAt s c).fenced = false → (∀ r, r ∈ (coreAt s c).steals → r.sx ≠ x) →
      Runs (.stealRequest c x) s fun t =>
        coreAt t c = { coreAt s c with steals := (coreAt s c).steals ++ [⟨x, 1, false, s.cycle + 12, none⟩] } ∧
        (∀ d, d ≠ c → coreAt t d = coreAt s d) ∧ { t with cores := [] } = { s with cores := [] }) ∧
    (∀ c x (r : Steal), (coreAt s c).steals.find? (fun r => r.sx == x) = some r → (seeks s ⟨c, x⟩).isSome = true → r.due ≤ s.cycle →
      (r.retry = true → exec (.stealRetry c x) s = .next (putSteal s c { r with tried := 1, retry := false, due := s.cycle + 12 })) ∧
      (r.retry = false → (coreAt s c).fenced = true → r.got = none → Runs (.stealResult c x) s fun t =>
        coreAt t c = { coreAt s c with steals := (coreAt s c).steals.filter (fun q => q.sx != r.sx) } ∧
        (∀ d, d ≠ c → coreAt t d = coreAt s d) ∧ { t with cores := [] } = { s with cores := [] }) ∧
      (r.retry = false → (coreAt s c).fenced = false → ∀ e, r.got = some e → ∃ u, { u with cores := [] } = { s with cores := [] } ∧
        coreAt u c = { coreAt s c with steals := (coreAt s c).steals.filter (fun q => q.sx != x) } ∧
        (∀ d, d ≠ c → coreAt u d = coreAt s d) ∧ exec (.stealResult c x) s = .next (startEntry u ⟨c, x⟩ e)) ∧
      (r.retry = false → (coreAt s c).fenced = false → r.got = none → stealPassed s c (victimOf c r.tried) = false → ∀ j, seeks s ⟨c, x⟩ = some j →
        let v := victimOf c r.tried
        (∀ e, dequeFind (coreAt s v) j true = some e → (coreAt s v).dqBusy = false → ∃ u,
          { u with cores := [] } = { s with cores := [] } ∧ (∀ d, d ≠ v → coreAt u d = coreAt s d) ∧
          coreAt u v = { coreAt s v with
            deque := (coreAt s v).deque.filter (fun d => d.stamp != e.stamp), dqPops := (coreAt s v).dqPops + 1
            dqBusy := true, lastSteal := c % 48 } ∧
          exec (.stealResult c x) s = .next (putSteal u c { r with got := some e, due := r.due + 24 })) ∧
        (dequeFind (coreAt s v) j true = none →
          (r.tried < 47 → exec (.stealResult c x) s = .next (putSteal s c { r with tried := r.tried + 1, due := s.cycle + 12 })) ∧
          (47 ≤ r.tried → exec (.stealResult c x) s = .next (putSteal s c { r with retry := true, due := s.cycle + 256 }))))) ∧
    (∀ j i, (settledSet s j i = false → exec (.settleExamine j i) s = .next s) ∧
      (settledSet s j i = true → exec (.settleExamine j i) s =
        .next ((setWaiters s j i).foldl (fun s a => onStrand s a (advance 4 0 .seq)) s)))
end

