-- ==== Sys2Proof/Laws/Memory.lean ====
section
/-! SUPPORT. Memory: a read after a write, what a write leaves alone, and that every memory operation keeps the canonical
form. -/

namespace Sys2Proof.Machine

/-! ## Rising lists of cells -/

theorem rising_mono {lo hi : Nat} {l : List Host.Cell} (h : risingFrom hi l = true) (hl : lo ≤ hi) : risingFrom lo l = true := by
  cases l with
  | nil => rfl
  | cons c t => obtain ⟨a, v⟩ := c; simp [risingFrom] at h ⊢; exact ⟨by omega, h.2⟩

theorem rising_tail {lo : Nat} {c : Host.Cell} {t : List Host.Cell} (h : risingFrom lo (c :: t) = true) :
    risingFrom lo t = true := by
  obtain ⟨a, v⟩ := c
  simp [risingFrom] at h
  exact rising_mono h.2 (by omega)

theorem rising_put {lo a : Nat} {l : List Host.Cell} (v : Byte) (h : risingFrom lo l = true) (ha : lo ≤ a) :
    risingFrom lo (cellPut l a v) = true := by
  induction l generalizing lo with
  | nil => simp [cellPut, risingFrom, ha]
  | cons c t ih =>
    obtain ⟨j, w⟩ := c
    simp [risingFrom] at h
    simp only [cellPut]
    split
    · next e => subst e; simp [risingFrom, h]
    · split
      · simp [risingFrom, ha, h.2]; omega
      · simp [risingFrom, h.1]; exact ih h.2 (by omega)

theorem rising_del {lo a : Nat} {l : List Host.Cell} (h : risingFrom lo l = true) : risingFrom lo (cellDel l a) = true := by
  induction l generalizing lo with
  | nil => rfl
  | cons c t ih =>
    obtain ⟨j, w⟩ := c
    simp [risingFrom] at h
    simp only [cellDel]
    split
    · exact rising_mono h.2 (by omega)
    · split
      · simp [risingFrom, h]
      · simp [risingFrom, h.1]; exact ih h.2

theorem rising_filter {lo : Nat} {l : List Host.Cell} (f : Host.Cell → Bool) (h : risingFrom lo l = true) :
    risingFrom lo (l.filter f) = true := by
  induction l generalizing lo with
  | nil => rfl
  | cons c t ih =>
    obtain ⟨j, w⟩ := c
    simp [risingFrom] at h
    simp only [List.filter_cons]
    split
    · simp [risingFrom, h.1]; exact ih h.2
    · exact rising_mono (ih h.2) (by omega)

/-- No cell of a rising list lies below its bound. -/
theorem rising_ge {lo : Nat} {l : List Host.Cell} (h : risingFrom lo l = true) : ∀ c ∈ l, lo ≤ c.1 := by
  induction l generalizing lo with
  | nil => simp
  | cons c t ih =>
    obtain ⟨j, w⟩ := c
    simp [risingFrom] at h
    intro d hd
    rcases List.mem_cons.mp hd with rfl | hd
    · exact h.1
    · exact le_trans (by omega) (ih h.2 d hd)

theorem mem_cellPut {l : List Host.Cell} {a : Nat} {v : Byte} {c : Host.Cell} (h : c ∈ cellPut l a v) :
    c = (a, v) ∨ c ∈ l := by
  induction l with
  | nil => simpa [cellPut] using h
  | cons d t ih =>
    obtain ⟨j, w⟩ := d
    simp only [cellPut] at h
    split at h
    · simp at h ⊢; tauto
    · split at h
      · simpa using h
      · simp at h ⊢
        rcases h with h | h
        · exact .inr (.inl h)
        · rcases ih h with h | h
          · exact .inl h
          · exact .inr (.inr h)

theorem mem_cellDel {l : List Host.Cell} {a : Nat} {c : Host.Cell} (h : c ∈ cellDel l a) : c ∈ l := by
  induction l with
  | nil => exact h
  | cons d t ih =>
    obtain ⟨j, w⟩ := d
    simp only [cellDel] at h
    split at h
    · exact .tail _ h
    · split at h
      · exact h
      · rcases List.mem_cons.mp h with h | h
        · simp [h]
        · exact .tail _ (ih h)

/-! ## Reads and writes -/

theorem cellGet_put_same (d : Byte) (l : List Host.Cell) (a : Nat) (v : Byte) : cellGet d (cellPut l a v) a = v := by
  induction l with
  | nil => simp [cellPut, cellGet]
  | cons c t ih =>
    obtain ⟨j, w⟩ := c
    simp only [cellPut]
    split
    · simp [cellGet]
    · split
      · simp [cellGet]
      · next h1 h2 => simp [cellGet, h1, h2, ih]

theorem cellGet_put_ne (d : Byte) (l : List Host.Cell) {a b : Nat} (v : Byte) (h : b ≠ a) :
    cellGet d (cellPut l a v) b = cellGet d l b := by
  induction l with
  | nil => simp [cellPut, cellGet, Ne.symm h]
  | cons c t ih =>
    obtain ⟨i, w⟩ := c
    simp only [cellPut]
    split
    · next e => subst e; simp [cellGet, Ne.symm h]
    · split
      · by_cases hj : b < a
        · have : i ≠ b := by omega
          have : b < i := by omega
          simp [cellGet, *]; omega
        · have : a ≠ b := fun e => h e.symm
          simp [cellGet, *]
      · simp [cellGet, ih]

/-- A cell list below whose bound an address lies gives the default. -/
theorem cellGet_below (d : Byte) {l : List Host.Cell} {lo a : Nat} (h : risingFrom lo l = true) (ha : a < lo) :
    cellGet d l a = d := by
  cases l with
  | nil => rfl
  | cons c t =>
    obtain ⟨j, w⟩ := c
    simp [risingFrom] at h
    have : j ≠ a := by omega
    have : a < j := by omega
    simp [cellGet, *]

theorem cellGet_del_same (d : Byte) {l : List Host.Cell} {lo : Nat} (a : Nat) (h : risingFrom lo l = true) :
    cellGet d (cellDel l a) a = d := by
  induction l generalizing lo with
  | nil => rfl
  | cons c t ih =>
    obtain ⟨j, w⟩ := c
    simp [risingFrom] at h
    simp only [cellDel]
    split
    · next e => subst e; exact cellGet_below d h.2 (by omega)
    · split
      · next h1 h2 => simp [cellGet, h1, h2]
      · next h1 h2 => simp [cellGet, h1, h2, ih h.2]

theorem cellGet_del_ne (d : Byte) {l : List Host.Cell} {lo a b : Nat} (h : risingFrom lo l = true) (hb : b ≠ a) :
    cellGet d (cellDel l a) b = cellGet d l b := by
  induction l generalizing lo with
  | nil => rfl
  | cons c t ih =>
    obtain ⟨j, w⟩ := c
    simp [risingFrom] at h
    simp only [cellDel]
    split
    · next e =>
      subst e
      by_cases hj : b < j
      · rw [cellGet_below d h.2 (by omega)]
        simp [cellGet, hj]; omega
      · simp [cellGet, Ne.symm hb, hj]
    · split
      · rfl
      · simp [cellGet, ih h.2]

theorem Memory.rising_of_wf {m : Memory} (h : m.wf = true) : risingFrom 0 m.cells = true := by
  simp [Memory.wf] at h; exact h.1

/-- What an unlisted location reads as does not change with a write. -/
@[simp] theorem Memory.unlisted_write (m : Memory) (a : Nat) (v : Byte) (b : Nat) : (m.write a v).unlisted b = m.unlisted b := rfl

/-- A read of a written byte gives the value written. -/
theorem Memory.read_write_same {m : Memory} (h : m.wf = true) (a : Nat) (v : Byte) : (m.write a v).read a = v := by
  simp only [Memory.read, Memory.unlisted_write]
  simp only [Memory.write]
  split
  · next e => rw [cellGet_del_same _ a (Memory.rising_of_wf h), e]
  · exact cellGet_put_same _ _ _ _

/-- A write leaves every other byte alone. -/
theorem Memory.read_write_ne {m : Memory} (h : m.wf = true) {a b : Nat} (v : Byte) (hb : b ≠ a) :
    (m.write a v).read b = m.read b := by
  simp only [Memory.read, Memory.unlisted_write]
  simp only [Memory.write]
  split
  · exact cellGet_del_ne _ (Memory.rising_of_wf h) hb
  · exact cellGet_put_ne _ _ _ hb

/-! ## The canonical form -/

theorem Memory.wf_write {m : Memory} (h : m.wf = true) (a : Nat) (v : Byte) : (m.write a v).wf = true := by
  have h' := h
  simp only [Memory.wf, Bool.and_eq_true, List.all_eq_true, decide_eq_true_eq] at h' ⊢
  obtain ⟨h1, h2⟩ := h'
  simp only [Memory.unlisted_write]
  simp only [Memory.write]
  split
  · exact ⟨rising_del h1, fun c hc => h2 c (mem_cellDel hc)⟩
  · next hv =>
    refine ⟨rising_put v h1 (Nat.zero_le a), fun c hc => ?_⟩
    rcases mem_cellPut hc with rfl | hc
    · exact hv
    · exact h2 c hc

theorem Memory.wf_writeN {m : Memory} (h : m.wf = true) (a : Nat) (v : List Byte) : (m.writeN a v).wf = true := by
  induction v generalizing m a with
  | nil => exact h
  | cons b t ih => exact ih (Memory.wf_write h a b) (a + 1)

/-- The bytes of a write read back. -/
theorem Memory.read_writeN {m : Memory} (h : m.wf = true) (a : Nat) (v : List Byte) (b : Nat) :
    (m.writeN a v).read b = if a ≤ b ∧ b < a + v.length then v.getD (b - a) 0 else m.read b := by
  induction v generalizing m a with
  | nil =>
    have : ¬(a ≤ b ∧ b < a + 0) := by omega
    simp [Memory.writeN]
  | cons x t ih =>
    simp only [Memory.writeN, ih (Memory.wf_write h a x) (a + 1), List.length_cons]
    by_cases hb : b = a
    · subst hb
      simp [Memory.read_write_same h]
    · rw [Memory.read_write_ne h x hb]
      by_cases hc : a + 1 ≤ b ∧ b < a + 1 + t.length
      · have : a ≤ b ∧ b < a + (t.length + 1) := by omega
        have e : b - a = (b - (a + 1)) + 1 := by omega
        simp only [hc, this, and_self, if_true]
        rw [e, List.getD_cons_succ]
      · have : ¬(a ≤ b ∧ b < a + (t.length + 1)) := by omega
        simp only [hc, this, if_false]

theorem Memory.wf_keep {frees : List (Nat × Nat × Option (Nat × Nat))} {l : List Host.Cell} (h : risingFrom 0 l = true) :
    Memory.wf { cells := keepCells frees l, frees := frees } = true := by
  simp only [Memory.wf, Bool.and_eq_true, List.all_eq_true, decide_eq_true_eq]
  refine ⟨rising_filter _ h, fun c hc => ?_⟩
  have := (List.mem_filter.mp hc).2
  simpa [Memory.unlisted] using this

theorem Memory.wf_free {m : Memory} (h : m.wf = true) (lo len stamp : Nat) : (m.free lo len stamp).wf = true :=
  Memory.wf_keep (rising_filter _ (Memory.rising_of_wf h))

theorem rising_putAll {l : List Host.Cell} (cs : List Host.Cell) (h : risingFrom 0 l = true) :
    risingFrom 0 (cs.foldl (fun l c => cellPut l c.1 c.2) l) = true := by
  induction cs generalizing l with
  | nil => exact h
  | cons c t ih => exact ih (rising_put c.2 h (Nat.zero_le _))

theorem Memory.wf_copy {m : Memory} (h : m.wf = true) (src dst len : Nat) : (m.copy src dst len).wf = true :=
  Memory.wf_keep (rising_putAll _ (rising_filter _ (Memory.rising_of_wf h)))

/-! ## Stores of the state -/

theorem storeN_mem (s : State) (a : Nat) (v : List Byte) : (storeN s a v).mem = s.mem.writeN a v := by
  simp only [storeN, clearPoison]
  split <;> rfl

theorem storeN_wf {s : State} (h : s.mem.wf = true) (a : Nat) (v : List Byte) : (storeN s a v).mem.wf = true := by
  rw [storeN_mem]; exact Memory.wf_writeN h a v

theorem storeNat_wf {s : State} (h : s.mem.wf = true) (a n v : Nat) : (storeNat s a n v).mem.wf = true := storeN_wf h a _

/-- A store changes exactly the bytes it names. -/
theorem storeN_read {s : State} (h : s.mem.wf = true) (a : Nat) (v : List Byte) (b : Nat) :
    (storeN s a v).mem.read b = if a ≤ b ∧ b < a + v.length then v.getD (b - a) 0 else s.mem.read b := by
  rw [storeN_mem]; exact Memory.read_writeN h a v b

end Sys2Proof.Machine
end

