-- ==== Sys2Proof/Laws/Tab.lean ====
section
/-! SUPPORT. What reading a sparse table gives after a write, a removal or a pass over its entries; the length and the value
of little-endian bytes. -/

namespace Sys2Proof.Machine

@[simp] theorem tabGet_put_same {α : Type} (d : α) (t : Tab α) (k : Nat) (v : α) : tabGet d (tabPut t k v) k = v := by
  induction t with
  | nil => simp [tabPut, tabGet]
  | cons p t ih =>
    obtain ⟨j, w⟩ := p
    simp only [tabPut]
    split
    · simp [tabGet]
    · split
      · simp [tabGet]
      · next h1 h2 => simp [tabGet, h1, h2, ih]

theorem tabGet_put_ne {α : Type} (d : α) (t : Tab α) {k j : Nat} (v : α) (h : j ≠ k) :
    tabGet d (tabPut t k v) j = tabGet d t j := by
  induction t with
  | nil => simp [tabPut, tabGet, Ne.symm h]
  | cons p t ih =>
    obtain ⟨i, w⟩ := p
    simp only [tabPut]
    split
    · next e => subst e; simp [tabGet, Ne.symm h]
    · split
      · next _ hk =>
        by_cases hj : j < k
        · have : i ≠ j := by omega
          have : j < i := by omega
          simp [tabGet, *]; omega
        · have : k ≠ j := fun e => h e.symm
          simp [tabGet, *]
      · simp [tabGet, ih]

@[simp] theorem tabPut_put {α : Type} (t : Tab α) (k : Nat) (v w : α) : tabPut (tabPut t k v) k w = tabPut t k w := by
  induction t with
  | nil => simp [tabPut]
  | cons p t ih =>
    obtain ⟨i, u⟩ := p
    simp only [tabPut]
    split
    · simp [tabPut]
    · split
      · simp [tabPut]
      · next h1 h2 => simp [tabPut, h1, h2, ih]

@[simp] theorem tabGet_nil {α : Type} (d : α) (k : Nat) : tabGet d [] k = d := rfl

@[simp] theorem leBytes_length (n v : Nat) : (leBytes n v).length = n := by
  induction n generalizing v with
  | zero => rfl
  | succ n ih => simp [leBytes, ih]

/-- Little-endian bytes spell the number they were made from, modulo their width (R3). -/
theorem leNat_leBytes (n v : Nat) : leNat (leBytes n v) = v % 256 ^ n := by
  induction n generalizing v with
  | zero => simp [leBytes, leNat, Nat.mod_one]
  | succ n ih =>
    have h : (256 : Nat) ^ (n + 1) = 256 * 256 ^ n := by ring
    simp only [leBytes, leNat, ih, h, Nat.mod_mul]
    simp [BitVec.toNat_ofNat]

end Sys2Proof.Machine
end

