-- ==== Sys2Proof/Laws/Access.lean ====
section
/-! SUPPORT. Accesses: what a store of bytes does to memory and poison as one fact, and when a store to scratchpad is one
store. -/

namespace Sys2Proof.Machine

/-- Bytes that agree one by one read as the list of them. -/
theorem Memory.readN_eq {m : Memory} {a : Nat} {v : List Byte} (h : ∀ i, i < v.length → m.read (a + i) = v.getD i 0) :
    m.readN a v.length = v := by
  induction v generalizing a with
  | nil => rfl
  | cons x t ih =>
    simp only [List.length_cons, Memory.readN]
    rw [ih fun i hi => ?_]
    · have := h 0 (by simp)
      simp only [Nat.add_zero, List.getD_cons_zero] at this
      rw [this]
    · have := h (i + 1) (by simp only [List.length_cons]; omega)
      rw [List.getD_cons_succ] at this
      rw [← this]; congr 1; omega

/-- What was stored reads back. -/
theorem loadN_storeN {s : State} (h : s.mem.wf = true) (l : Nat) (v : List Byte) : loadN (storeN s l v) l v.length = v := by
  apply Memory.readN_eq
  intro i hi
  rw [storeN_read h, if_pos (by omega), Nat.add_sub_cancel_left]

/-- A store leaves a unit poisoned unless it covers the unit whole (R423). -/
theorem mem_poison_storeN (s : State) (l : Nat) (v : List Byte) (u : Nat) :
    u ∈ (storeN s l v).poison ↔ u ∈ s.poison ∧ ¬(l ≤ u ∧ u + (checkUnit u).2 ≤ l + v.length) := by
  unfold storeN clearPoison
  split
  · next h => simp only [List.isEmpty_iff.mp h, List.not_mem_nil, false_and]
  · simp only [List.mem_filter, Bool.not_eq_true', Bool.and_eq_false_iff, decide_eq_false_iff_not, not_and_or]

/-- A store of n bytes is the write that the statements speak of. -/
theorem wrote_storeN {s : State} (h : s.mem.wf = true) (l n v : Nat) : Wrote s (storeN s l (leBytes n v)) l n v := by
  refine ⟨?_, fun x hx => ?_, fun u => ?_⟩
  · have := loadN_storeN h l (leBytes n v)
    rwa [leBytes_length] at this
  · rw [storeN_read h, leBytes_length, if_neg (by omega)]
  · rw [mem_poison_storeN, leBytes_length]

/-- A store changes memory and poison, nothing else. -/
theorem storeN_rest (s : State) (l : Nat) (v : List Byte) :
    storeN s l v = { s with mem := (storeN s l v).mem, poison := (storeN s l v).poison } := by
  unfold storeN clearPoison
  split <;> rfl

/-- A write inside one 256-byte line of scratchpad is one store. -/
theorem putPlace_storeN (s : State) (key : Nat) (p : Place) (n v : Nat) (hp : 0 < n) (hn : n ≤ 256 - p.off % 256) :
    putPlace s key p (leBytes n v) = storeN s (placeLoc key p) (leBytes n v) := by
  obtain ⟨m, rfl⟩ : ∃ m, n = m + 1 := ⟨n - 1, by omega⟩
  unfold putPlace
  split
  · have ht : (leBytes (m + 1) v).take (256 - p.off % 256) = leBytes (m + 1) v := List.take_of_length_le (by rw [leBytes_length]; exact hn)
    have hd : (leBytes (m + 1) v).drop (256 - p.off % 256) = [] := List.drop_of_length_le (by rw [leBytes_length]; exact hn)
    have he : (leBytes (m + 1) v).isEmpty = false := rfl
    rw [leBytes_length]
    simp only [writePlace, ht, hd, he, Bool.false_eq_true, if_false]
    cases m <;> simp [writePlace]
  · rfl

/-- A CC store that stays on the core's side or in memory is one store at its location. -/
theorem reachWrite_phys (s : State) (a : At) (va loc n v : Nat) : reachWrite s a (.phys va loc) n v = storeN s loc (leBytes n v) := rfl

theorem reachWrite_near (s : State) (a : At) (p : Place) (n v : Nat) (hp : 0 < n) (hn : n ≤ 256 - p.off % 256) :
    reachWrite s a (.near p) n v = storeN s (placeLoc (lkeyOf s a) p) (leBytes n v) := putPlace_storeN s _ p n v hp hn

/-- A CC access to scratchpad or to a bank changes no state on its way (R42). -/
theorem reach_near {s u : State} {a : At} {ad : Nat} {wr : Bool} {x : Reach} (hb : bits ad 60 4 ≠ 0)
    (h : reach s a ad wr = .ok (u, x)) : u = s ∧ x = .near (placeOf a.c ad) := by
  unfold reach at h
  rw [if_pos hb] at h
  cases h
  exact ⟨rfl, rfl⟩

end Sys2Proof.Machine
end

