-- ==== Sys2Proof/Laws/State.lean ====
section
/-! SUPPORT. The state's updates: for each, every field it leaves alone, and what its own reader gives afterwards. -/

namespace Sys2Proof.Machine

/-! ## setCore -/

@[simp] theorem setCore_inputs (s : State) (c : Nat) (k : Core) : (setCore s c k).inputs = s.inputs := rfl
@[simp] theorem setCore_agenda (s : State) (c : Nat) (k : Core) : (setCore s c k).agenda = s.agenda := rfl
@[simp] theorem setCore_hostQueue (s : State) (c : Nat) (k : Core) : (setCore s c k).hostQueue = s.hostQueue := rfl
@[simp] theorem setCore_focus (s : State) (c : Nat) (k : Core) : (setCore s c k).focus = s.focus := rfl
@[simp] theorem setCore_todo (s : State) (c : Nat) (k : Core) : (setCore s c k).todo = s.todo := rfl
@[simp] theorem setCore_phase (s : State) (c : Nat) (k : Core) : (setCore s c k).phase = s.phase := rfl
@[simp] theorem setCore_freeCount (s : State) (c : Nat) (k : Core) : (setCore s c k).freeCount = s.freeCount := rfl
@[simp] theorem setCore_cycle (s : State) (c : Nat) (k : Core) : (setCore s c k).cycle = s.cycle := rfl
@[simp] theorem setCore_mem (s : State) (c : Nat) (k : Core) : (setCore s c k).mem = s.mem := rfl
@[simp] theorem setCore_fe (s : State) (c : Nat) (k : Core) : (setCore s c k).fe = s.fe := rfl
@[simp] theorem setCore_poison (s : State) (c : Nat) (k : Core) : (setCore s c k).poison = s.poison := rfl
@[simp] theorem setCore_clusters (s : State) (c : Nat) (k : Core) : (setCore s c k).clusters = s.clusters := rfl
@[simp] theorem setCore_dies (s : State) (c : Nat) (k : Core) : (setCore s c k).dies = s.dies := rfl
@[simp] theorem setCore_units (s : State) (c : Nat) (k : Core) : (setCore s c k).units = s.units := rfl
@[simp] theorem setCore_ctxs (s : State) (c : Nat) (k : Core) : (setCore s c k).ctxs = s.ctxs := rfl
@[simp] theorem setCore_slots (s : State) (c : Nat) (k : Core) : (setCore s c k).slots = s.slots := rfl
@[simp] theorem setCore_jobs (s : State) (c : Nat) (k : Core) : (setCore s c k).jobs = s.jobs := rfl
@[simp] theorem setCore_jobNext (s : State) (c : Nat) (k : Core) : (setCore s c k).jobNext = s.jobNext := rfl
@[simp] theorem setCore_issueNext (s : State) (c : Nat) (k : Core) : (setCore s c k).issueNext = s.issueNext := rfl
@[simp] theorem setCore_taskNext (s : State) (c : Nat) (k : Core) : (setCore s c k).taskNext = s.taskNext := rfl
@[simp] theorem setCore_sbNext (s : State) (c : Nat) (k : Core) : (setCore s c k).sbNext = s.sbNext := rfl
@[simp] theorem setCore_joinCnt (s : State) (c : Nat) (k : Core) : (setCore s c k).joinCnt = s.joinCnt := rfl
@[simp] theorem setCore_cards (s : State) (c : Nat) (k : Core) : (setCore s c k).cards = s.cards := rfl
@[simp] theorem setCore_reruns (s : State) (c : Nat) (k : Core) : (setCore s c k).reruns = s.reruns := rfl
@[simp] theorem setCore_streams (s : State) (c : Nat) (k : Core) : (setCore s c k).streams = s.streams := rfl
@[simp] theorem setCore_nw (s : State) (c : Nat) (k : Core) : (setCore s c k).nw = s.nw := rfl
@[simp] theorem setCore_walls (s : State) (c : Nat) (k : Core) : (setCore s c k).walls = s.walls := rfl
@[simp] theorem setCore_harts (s : State) (c : Nat) (k : Core) : (setCore s c k).harts = s.harts := rfl
@[simp] theorem setCore_mtime (s : State) (c : Nat) (k : Core) : (setCore s c k).mtime = s.mtime := rfl
@[simp] theorem setCore_monitors (s : State) (c : Nat) (k : Core) : (setCore s c k).monitors = s.monitors := rfl
@[simp] theorem setCore_samples (s : State) (c : Nat) (k : Core) : (setCore s c k).samples = s.samples := rfl
@[simp] theorem setCore_dev (s : State) (c : Nat) (k : Core) : (setCore s c k).dev = s.dev := rfl
@[simp] theorem setCore_sec (s : State) (c : Nat) (k : Core) : (setCore s c k).sec = s.sec := rfl
@[simp] theorem setCore_routes (s : State) (c : Nat) (k : Core) : (setCore s c k).routes = s.routes := rfl
@[simp] theorem setCore_routesDue (s : State) (c : Nat) (k : Core) : (setCore s c k).routesDue = s.routesDue := rfl
@[simp] theorem setCore_spans (s : State) (c : Nat) (k : Core) : (setCore s c k).spans = s.spans := rfl
@[simp] theorem setCore_remotes (s : State) (c : Nat) (k : Core) : (setCore s c k).remotes = s.remotes := rfl
@[simp] theorem setCore_inbound (s : State) (c : Nat) (k : Core) : (setCore s c k).inbound = s.inbound := rfl
@[simp] theorem setCore_ports (s : State) (c : Nat) (k : Core) : (setCore s c k).ports = s.ports := rfl
@[simp] theorem setCore_hdm (s : State) (c : Nat) (k : Core) : (setCore s c k).hdm = s.hdm := rfl
@[simp] theorem setCore_hostData (s : State) (c : Nat) (k : Core) : (setCore s c k).hostData = s.hostData := rfl
@[simp] theorem setCore_aer (s : State) (c : Nat) (k : Core) : (setCore s c k).aer = s.aer := rfl
@[simp] theorem setCore_absent (s : State) (c : Nat) (k : Core) : (setCore s c k).absent = s.absent := rfl
@[simp] theorem setCore_outbox (s : State) (c : Nat) (k : Core) : (setCore s c k).outbox = s.outbox := rfl
@[simp] theorem setCore_hostEnd (s : State) (c : Nat) (k : Core) : (setCore s c k).hostEnd = s.hostEnd := rfl
@[simp] theorem setCore_abortFrom (s : State) (c : Nat) (k : Core) : (setCore s c k).abortFrom = s.abortFrom := rfl
@[simp] theorem setCore_missed (s : State) (c : Nat) (k : Core) : (setCore s c k).missed = s.missed := rfl
@[simp] theorem setCore_fatal (s : State) (c : Nat) (k : Core) : (setCore s c k).fatal = s.fatal := rfl

/-! ## onCore -/

@[simp] theorem onCore_inputs (s : State) (c : Nat) (f : Core → Core) : (onCore s c f).inputs = s.inputs := rfl
@[simp] theorem onCore_agenda (s : State) (c : Nat) (f : Core → Core) : (onCore s c f).agenda = s.agenda := rfl
@[simp] theorem onCore_hostQueue (s : State) (c : Nat) (f : Core → Core) : (onCore s c f).hostQueue = s.hostQueue := rfl
@[simp] theorem onCore_focus (s : State) (c : Nat) (f : Core → Core) : (onCore s c f).focus = s.focus := rfl
@[simp] theorem onCore_todo (s : State) (c : Nat) (f : Core → Core) : (onCore s c f).todo = s.todo := rfl
@[simp] theorem onCore_phase (s : State) (c : Nat) (f : Core → Core) : (onCore s c f).phase = s.phase := rfl
@[simp] theorem onCore_freeCount (s : State) (c : Nat) (f : Core → Core) : (onCore s c f).freeCount = s.freeCount := rfl
@[simp] theorem onCore_cycle (s : State) (c : Nat) (f : Core → Core) : (onCore s c f).cycle = s.cycle := rfl
@[simp] theorem onCore_mem (s : State) (c : Nat) (f : Core → Core) : (onCore s c f).mem = s.mem := rfl
@[simp] theorem onCore_fe (s : State) (c : Nat) (f : Core → Core) : (onCore s c f).fe = s.fe := rfl
@[simp] theorem onCore_poison (s : State) (c : Nat) (f : Core → Core) : (onCore s c f).poison = s.poison := rfl
@[simp] theorem onCore_clusters (s : State) (c : Nat) (f : Core → Core) : (onCore s c f).clusters = s.clusters := rfl
@[simp] theorem onCore_dies (s : State) (c : Nat) (f : Core → Core) : (onCore s c f).dies = s.dies := rfl
@[simp] theorem onCore_units (s : State) (c : Nat) (f : Core → Core) : (onCore s c f).units = s.units := rfl
@[simp] theorem onCore_ctxs (s : State) (c : Nat) (f : Core → Core) : (onCore s c f).ctxs = s.ctxs := rfl
@[simp] theorem onCore_slots (s : State) (c : Nat) (f : Core → Core) : (onCore s c f).slots = s.slots := rfl
@[simp] theorem onCore_jobs (s : State) (c : Nat) (f : Core → Core) : (onCore s c f).jobs = s.jobs := rfl
@[simp] theorem onCore_jobNext (s : State) (c : Nat) (f : Core → Core) : (onCore s c f).jobNext = s.jobNext := rfl
@[simp] theorem onCore_issueNext (s : State) (c : Nat) (f : Core → Core) : (onCore s c f).issueNext = s.issueNext := rfl
@[simp] theorem onCore_taskNext (s : State) (c : Nat) (f : Core → Core) : (onCore s c f).taskNext = s.taskNext := rfl
@[simp] theorem onCore_sbNext (s : State) (c : Nat) (f : Core → Core) : (onCore s c f).sbNext = s.sbNext := rfl
@[simp] theorem onCore_joinCnt (s : State) (c : Nat) (f : Core → Core) : (onCore s c f).joinCnt = s.joinCnt := rfl
@[simp] theorem onCore_cards (s : State) (c : Nat) (f : Core → Core) : (onCore s c f).cards = s.cards := rfl
@[simp] theorem onCore_reruns (s : State) (c : Nat) (f : Core → Core) : (onCore s c f).reruns = s.reruns := rfl
@[simp] theorem onCore_streams (s : State) (c : Nat) (f : Core → Core) : (onCore s c f).streams = s.streams := rfl
@[simp] theorem onCore_nw (s : State) (c : Nat) (f : Core → Core) : (onCore s c f).nw = s.nw := rfl
@[simp] theorem onCore_walls (s : State) (c : Nat) (f : Core → Core) : (onCore s c f).walls = s.walls := rfl
@[simp] theorem onCore_harts (s : State) (c : Nat) (f : Core → Core) : (onCore s c f).harts = s.harts := rfl
@[simp] theorem onCore_mtime (s : State) (c : Nat) (f : Core → Core) : (onCore s c f).mtime = s.mtime := rfl
@[simp] theorem onCore_monitors (s : State) (c : Nat) (f : Core → Core) : (onCore s c f).monitors = s.monitors := rfl
@[simp] theorem onCore_samples (s : State) (c : Nat) (f : Core → Core) : (onCore s c f).samples = s.samples := rfl
@[simp] theorem onCore_dev (s : State) (c : Nat) (f : Core → Core) : (onCore s c f).dev = s.dev := rfl
@[simp] theorem onCore_sec (s : State) (c : Nat) (f : Core → Core) : (onCore s c f).sec = s.sec := rfl
@[simp] theorem onCore_routes (s : State) (c : Nat) (f : Core → Core) : (onCore s c f).routes = s.routes := rfl
@[simp] theorem onCore_routesDue (s : State) (c : Nat) (f : Core → Core) : (onCore s c f).routesDue = s.routesDue := rfl
@[simp] theorem onCore_spans (s : State) (c : Nat) (f : Core → Core) : (onCore s c f).spans = s.spans := rfl
@[simp] theorem onCore_remotes (s : State) (c : Nat) (f : Core → Core) : (onCore s c f).remotes = s.remotes := rfl
@[simp] theorem onCore_inbound (s : State) (c : Nat) (f : Core → Core) : (onCore s c f).inbound = s.inbound := rfl
@[simp] theorem onCore_ports (s : State) (c : Nat) (f : Core → Core) : (onCore s c f).ports = s.ports := rfl
@[simp] theorem onCore_hdm (s : State) (c : Nat) (f : Core → Core) : (onCore s c f).hdm = s.hdm := rfl
@[simp] theorem onCore_hostData (s : State) (c : Nat) (f : Core → Core) : (onCore s c f).hostData = s.hostData := rfl
@[simp] theorem onCore_aer (s : State) (c : Nat) (f : Core → Core) : (onCore s c f).aer = s.aer := rfl
@[simp] theorem onCore_absent (s : State) (c : Nat) (f : Core → Core) : (onCore s c f).absent = s.absent := rfl
@[simp] theorem onCore_outbox (s : State) (c : Nat) (f : Core → Core) : (onCore s c f).outbox = s.outbox := rfl
@[simp] theorem onCore_hostEnd (s : State) (c : Nat) (f : Core → Core) : (onCore s c f).hostEnd = s.hostEnd := rfl
@[simp] theorem onCore_abortFrom (s : State) (c : Nat) (f : Core → Core) : (onCore s c f).abortFrom = s.abortFrom := rfl
@[simp] theorem onCore_missed (s : State) (c : Nat) (f : Core → Core) : (onCore s c f).missed = s.missed := rfl
@[simp] theorem onCore_fatal (s : State) (c : Nat) (f : Core → Core) : (onCore s c f).fatal = s.fatal := rfl

/-! ## onStrand -/

@[simp] theorem onStrand_inputs (s : State) (a : At) (f : Strand → Strand) : (onStrand s a f).inputs = s.inputs := rfl
@[simp] theorem onStrand_agenda (s : State) (a : At) (f : Strand → Strand) : (onStrand s a f).agenda = s.agenda := rfl
@[simp] theorem onStrand_hostQueue (s : State) (a : At) (f : Strand → Strand) : (onStrand s a f).hostQueue = s.hostQueue := rfl
@[simp] theorem onStrand_focus (s : State) (a : At) (f : Strand → Strand) : (onStrand s a f).focus = s.focus := rfl
@[simp] theorem onStrand_todo (s : State) (a : At) (f : Strand → Strand) : (onStrand s a f).todo = s.todo := rfl
@[simp] theorem onStrand_phase (s : State) (a : At) (f : Strand → Strand) : (onStrand s a f).phase = s.phase := rfl
@[simp] theorem onStrand_freeCount (s : State) (a : At) (f : Strand → Strand) : (onStrand s a f).freeCount = s.freeCount := rfl
@[simp] theorem onStrand_cycle (s : State) (a : At) (f : Strand → Strand) : (onStrand s a f).cycle = s.cycle := rfl
@[simp] theorem onStrand_mem (s : State) (a : At) (f : Strand → Strand) : (onStrand s a f).mem = s.mem := rfl
@[simp] theorem onStrand_fe (s : State) (a : At) (f : Strand → Strand) : (onStrand s a f).fe = s.fe := rfl
@[simp] theorem onStrand_poison (s : State) (a : At) (f : Strand → Strand) : (onStrand s a f).poison = s.poison := rfl
@[simp] theorem onStrand_clusters (s : State) (a : At) (f : Strand → Strand) : (onStrand s a f).clusters = s.clusters := rfl
@[simp] theorem onStrand_dies (s : State) (a : At) (f : Strand → Strand) : (onStrand s a f).dies = s.dies := rfl
@[simp] theorem onStrand_units (s : State) (a : At) (f : Strand → Strand) : (onStrand s a f).units = s.units := rfl
@[simp] theorem onStrand_ctxs (s : State) (a : At) (f : Strand → Strand) : (onStrand s a f).ctxs = s.ctxs := rfl
@[simp] theorem onStrand_slots (s : State) (a : At) (f : Strand → Strand) : (onStrand s a f).slots = s.slots := rfl
@[simp] theorem onStrand_jobs (s : State) (a : At) (f : Strand → Strand) : (onStrand s a f).jobs = s.jobs := rfl
@[simp] theorem onStrand_jobNext (s : State) (a : At) (f : Strand → Strand) : (onStrand s a f).jobNext = s.jobNext := rfl
@[simp] theorem onStrand_issueNext (s : State) (a : At) (f : Strand → Strand) : (onStrand s a f).issueNext = s.issueNext := rfl
@[simp] theorem onStrand_taskNext (s : State) (a : At) (f : Strand → Strand) : (onStrand s a f).taskNext = s.taskNext := rfl
@[simp] theorem onStrand_sbNext (s : State) (a : At) (f : Strand → Strand) : (onStrand s a f).sbNext = s.sbNext := rfl
@[simp] theorem onStrand_joinCnt (s : State) (a : At) (f : Strand → Strand) : (onStrand s a f).joinCnt = s.joinCnt := rfl
@[simp] theorem onStrand_cards (s : State) (a : At) (f : Strand → Strand) : (onStrand s a f).cards = s.cards := rfl
@[simp] theorem onStrand_reruns (s : State) (a : At) (f : Strand → Strand) : (onStrand s a f).reruns = s.reruns := rfl
@[simp] theorem onStrand_streams (s : State) (a : At) (f : Strand → Strand) : (onStrand s a f).streams = s.streams := rfl
@[simp] theorem onStrand_nw (s : State) (a : At) (f : Strand → Strand) : (onStrand s a f).nw = s.nw := rfl
@[simp] theorem onStrand_walls (s : State) (a : At) (f : Strand → Strand) : (onStrand s a f).walls = s.walls := rfl
@[simp] theorem onStrand_harts (s : State) (a : At) (f : Strand → Strand) : (onStrand s a f).harts = s.harts := rfl
@[simp] theorem onStrand_mtime (s : State) (a : At) (f : Strand → Strand) : (onStrand s a f).mtime = s.mtime := rfl
@[simp] theorem onStrand_monitors (s : State) (a : At) (f : Strand → Strand) : (onStrand s a f).monitors = s.monitors := rfl
@[simp] theorem onStrand_samples (s : State) (a : At) (f : Strand → Strand) : (onStrand s a f).samples = s.samples := rfl
@[simp] theorem onStrand_dev (s : State) (a : At) (f : Strand → Strand) : (onStrand s a f).dev = s.dev := rfl
@[simp] theorem onStrand_sec (s : State) (a : At) (f : Strand → Strand) : (onStrand s a f).sec = s.sec := rfl
@[simp] theorem onStrand_routes (s : State) (a : At) (f : Strand → Strand) : (onStrand s a f).routes = s.routes := rfl
@[simp] theorem onStrand_routesDue (s : State) (a : At) (f : Strand → Strand) : (onStrand s a f).routesDue = s.routesDue := rfl
@[simp] theorem onStrand_spans (s : State) (a : At) (f : Strand → Strand) : (onStrand s a f).spans = s.spans := rfl
@[simp] theorem onStrand_remotes (s : State) (a : At) (f : Strand → Strand) : (onStrand s a f).remotes = s.remotes := rfl
@[simp] theorem onStrand_inbound (s : State) (a : At) (f : Strand → Strand) : (onStrand s a f).inbound = s.inbound := rfl
@[simp] theorem onStrand_ports (s : State) (a : At) (f : Strand → Strand) : (onStrand s a f).ports = s.ports := rfl
@[simp] theorem onStrand_hdm (s : State) (a : At) (f : Strand → Strand) : (onStrand s a f).hdm = s.hdm := rfl
@[simp] theorem onStrand_hostData (s : State) (a : At) (f : Strand → Strand) : (onStrand s a f).hostData = s.hostData := rfl
@[simp] theorem onStrand_aer (s : State) (a : At) (f : Strand → Strand) : (onStrand s a f).aer = s.aer := rfl
@[simp] theorem onStrand_absent (s : State) (a : At) (f : Strand → Strand) : (onStrand s a f).absent = s.absent := rfl
@[simp] theorem onStrand_outbox (s : State) (a : At) (f : Strand → Strand) : (onStrand s a f).outbox = s.outbox := rfl
@[simp] theorem onStrand_hostEnd (s : State) (a : At) (f : Strand → Strand) : (onStrand s a f).hostEnd = s.hostEnd := rfl
@[simp] theorem onStrand_abortFrom (s : State) (a : At) (f : Strand → Strand) : (onStrand s a f).abortFrom = s.abortFrom := rfl
@[simp] theorem onStrand_missed (s : State) (a : At) (f : Strand → Strand) : (onStrand s a f).missed = s.missed := rfl
@[simp] theorem onStrand_fatal (s : State) (a : At) (f : Strand → Strand) : (onStrand s a f).fatal = s.fatal := rfl

/-! ## setQueue -/

@[simp] theorem setQueue_inputs (s : State) (c q : Nat) (l : List Entry) : (setQueue s c q l).inputs = s.inputs := rfl
@[simp] theorem setQueue_agenda (s : State) (c q : Nat) (l : List Entry) : (setQueue s c q l).agenda = s.agenda := rfl
@[simp] theorem setQueue_hostQueue (s : State) (c q : Nat) (l : List Entry) : (setQueue s c q l).hostQueue = s.hostQueue := rfl
@[simp] theorem setQueue_focus (s : State) (c q : Nat) (l : List Entry) : (setQueue s c q l).focus = s.focus := rfl
@[simp] theorem setQueue_todo (s : State) (c q : Nat) (l : List Entry) : (setQueue s c q l).todo = s.todo := rfl
@[simp] theorem setQueue_phase (s : State) (c q : Nat) (l : List Entry) : (setQueue s c q l).phase = s.phase := rfl
@[simp] theorem setQueue_freeCount (s : State) (c q : Nat) (l : List Entry) : (setQueue s c q l).freeCount = s.freeCount := rfl
@[simp] theorem setQueue_cycle (s : State) (c q : Nat) (l : List Entry) : (setQueue s c q l).cycle = s.cycle := rfl
@[simp] theorem setQueue_mem (s : State) (c q : Nat) (l : List Entry) : (setQueue s c q l).mem = s.mem := rfl
@[simp] theorem setQueue_fe (s : State) (c q : Nat) (l : List Entry) : (setQueue s c q l).fe = s.fe := rfl
@[simp] theorem setQueue_poison (s : State) (c q : Nat) (l : List Entry) : (setQueue s c q l).poison = s.poison := rfl
@[simp] theorem setQueue_clusters (s : State) (c q : Nat) (l : List Entry) : (setQueue s c q l).clusters = s.clusters := rfl
@[simp] theorem setQueue_dies (s : State) (c q : Nat) (l : List Entry) : (setQueue s c q l).dies = s.dies := rfl
@[simp] theorem setQueue_units (s : State) (c q : Nat) (l : List Entry) : (setQueue s c q l).units = s.units := rfl
@[simp] theorem setQueue_ctxs (s : State) (c q : Nat) (l : List Entry) : (setQueue s c q l).ctxs = s.ctxs := rfl
@[simp] theorem setQueue_slots (s : State) (c q : Nat) (l : List Entry) : (setQueue s c q l).slots = s.slots := rfl
@[simp] theorem setQueue_jobs (s : State) (c q : Nat) (l : List Entry) : (setQueue s c q l).jobs = s.jobs := rfl
@[simp] theorem setQueue_jobNext (s : State) (c q : Nat) (l : List Entry) : (setQueue s c q l).jobNext = s.jobNext := rfl
@[simp] theorem setQueue_issueNext (s : State) (c q : Nat) (l : List Entry) : (setQueue s c q l).issueNext = s.issueNext := rfl
@[simp] theorem setQueue_taskNext (s : State) (c q : Nat) (l : List Entry) : (setQueue s c q l).taskNext = s.taskNext := rfl
@[simp] theorem setQueue_sbNext (s : State) (c q : Nat) (l : List Entry) : (setQueue s c q l).sbNext = s.sbNext := rfl
@[simp] theorem setQueue_joinCnt (s : State) (c q : Nat) (l : List Entry) : (setQueue s c q l).joinCnt = s.joinCnt := rfl
@[simp] theorem setQueue_cards (s : State) (c q : Nat) (l : List Entry) : (setQueue s c q l).cards = s.cards := rfl
@[simp] theorem setQueue_reruns (s : State) (c q : Nat) (l : List Entry) : (setQueue s c q l).reruns = s.reruns := rfl
@[simp] theorem setQueue_streams (s : State) (c q : Nat) (l : List Entry) : (setQueue s c q l).streams = s.streams := rfl
@[simp] theorem setQueue_nw (s : State) (c q : Nat) (l : List Entry) : (setQueue s c q l).nw = s.nw := rfl
@[simp] theorem setQueue_walls (s : State) (c q : Nat) (l : List Entry) : (setQueue s c q l).walls = s.walls := rfl
@[simp] theorem setQueue_harts (s : State) (c q : Nat) (l : List Entry) : (setQueue s c q l).harts = s.harts := rfl
@[simp] theorem setQueue_mtime (s : State) (c q : Nat) (l : List Entry) : (setQueue s c q l).mtime = s.mtime := rfl
@[simp] theorem setQueue_monitors (s : State) (c q : Nat) (l : List Entry) : (setQueue s c q l).monitors = s.monitors := rfl
@[simp] theorem setQueue_samples (s : State) (c q : Nat) (l : List Entry) : (setQueue s c q l).samples = s.samples := rfl
@[simp] theorem setQueue_dev (s : State) (c q : Nat) (l : List Entry) : (setQueue s c q l).dev = s.dev := rfl
@[simp] theorem setQueue_sec (s : State) (c q : Nat) (l : List Entry) : (setQueue s c q l).sec = s.sec := rfl
@[simp] theorem setQueue_routes (s : State) (c q : Nat) (l : List Entry) : (setQueue s c q l).routes = s.routes := rfl
@[simp] theorem setQueue_routesDue (s : State) (c q : Nat) (l : List Entry) : (setQueue s c q l).routesDue = s.routesDue := rfl
@[simp] theorem setQueue_spans (s : State) (c q : Nat) (l : List Entry) : (setQueue s c q l).spans = s.spans := rfl
@[simp] theorem setQueue_remotes (s : State) (c q : Nat) (l : List Entry) : (setQueue s c q l).remotes = s.remotes := rfl
@[simp] theorem setQueue_inbound (s : State) (c q : Nat) (l : List Entry) : (setQueue s c q l).inbound = s.inbound := rfl
@[simp] theorem setQueue_ports (s : State) (c q : Nat) (l : List Entry) : (setQueue s c q l).ports = s.ports := rfl
@[simp] theorem setQueue_hdm (s : State) (c q : Nat) (l : List Entry) : (setQueue s c q l).hdm = s.hdm := rfl
@[simp] theorem setQueue_hostData (s : State) (c q : Nat) (l : List Entry) : (setQueue s c q l).hostData = s.hostData := rfl
@[simp] theorem setQueue_aer (s : State) (c q : Nat) (l : List Entry) : (setQueue s c q l).aer = s.aer := rfl
@[simp] theorem setQueue_absent (s : State) (c q : Nat) (l : List Entry) : (setQueue s c q l).absent = s.absent := rfl
@[simp] theorem setQueue_outbox (s : State) (c q : Nat) (l : List Entry) : (setQueue s c q l).outbox = s.outbox := rfl
@[simp] theorem setQueue_hostEnd (s : State) (c q : Nat) (l : List Entry) : (setQueue s c q l).hostEnd = s.hostEnd := rfl
@[simp] theorem setQueue_abortFrom (s : State) (c q : Nat) (l : List Entry) : (setQueue s c q l).abortFrom = s.abortFrom := rfl
@[simp] theorem setQueue_missed (s : State) (c q : Nat) (l : List Entry) : (setQueue s c q l).missed = s.missed := rfl
@[simp] theorem setQueue_fatal (s : State) (c q : Nat) (l : List Entry) : (setQueue s c q l).fatal = s.fatal := rfl

/-! ## setFifo -/

@[simp] theorem setFifo_inputs (s : State) (c f : Nat) (l : List Nat) : (setFifo s c f l).inputs = s.inputs := rfl
@[simp] theorem setFifo_agenda (s : State) (c f : Nat) (l : List Nat) : (setFifo s c f l).agenda = s.agenda := rfl
@[simp] theorem setFifo_hostQueue (s : State) (c f : Nat) (l : List Nat) : (setFifo s c f l).hostQueue = s.hostQueue := rfl
@[simp] theorem setFifo_focus (s : State) (c f : Nat) (l : List Nat) : (setFifo s c f l).focus = s.focus := rfl
@[simp] theorem setFifo_todo (s : State) (c f : Nat) (l : List Nat) : (setFifo s c f l).todo = s.todo := rfl
@[simp] theorem setFifo_phase (s : State) (c f : Nat) (l : List Nat) : (setFifo s c f l).phase = s.phase := rfl
@[simp] theorem setFifo_freeCount (s : State) (c f : Nat) (l : List Nat) : (setFifo s c f l).freeCount = s.freeCount := rfl
@[simp] theorem setFifo_cycle (s : State) (c f : Nat) (l : List Nat) : (setFifo s c f l).cycle = s.cycle := rfl
@[simp] theorem setFifo_mem (s : State) (c f : Nat) (l : List Nat) : (setFifo s c f l).mem = s.mem := rfl
@[simp] theorem setFifo_fe (s : State) (c f : Nat) (l : List Nat) : (setFifo s c f l).fe = s.fe := rfl
@[simp] theorem setFifo_poison (s : State) (c f : Nat) (l : List Nat) : (setFifo s c f l).poison = s.poison := rfl
@[simp] theorem setFifo_clusters (s : State) (c f : Nat) (l : List Nat) : (setFifo s c f l).clusters = s.clusters := rfl
@[simp] theorem setFifo_dies (s : State) (c f : Nat) (l : List Nat) : (setFifo s c f l).dies = s.dies := rfl
@[simp] theorem setFifo_units (s : State) (c f : Nat) (l : List Nat) : (setFifo s c f l).units = s.units := rfl
@[simp] theorem setFifo_ctxs (s : State) (c f : Nat) (l : List Nat) : (setFifo s c f l).ctxs = s.ctxs := rfl
@[simp] theorem setFifo_slots (s : State) (c f : Nat) (l : List Nat) : (setFifo s c f l).slots = s.slots := rfl
@[simp] theorem setFifo_jobs (s : State) (c f : Nat) (l : List Nat) : (setFifo s c f l).jobs = s.jobs := rfl
@[simp] theorem setFifo_jobNext (s : State) (c f : Nat) (l : List Nat) : (setFifo s c f l).jobNext = s.jobNext := rfl
@[simp] theorem setFifo_issueNext (s : State) (c f : Nat) (l : List Nat) : (setFifo s c f l).issueNext = s.issueNext := rfl
@[simp] theorem setFifo_taskNext (s : State) (c f : Nat) (l : List Nat) : (setFifo s c f l).taskNext = s.taskNext := rfl
@[simp] theorem setFifo_sbNext (s : State) (c f : Nat) (l : List Nat) : (setFifo s c f l).sbNext = s.sbNext := rfl
@[simp] theorem setFifo_joinCnt (s : State) (c f : Nat) (l : List Nat) : (setFifo s c f l).joinCnt = s.joinCnt := rfl
@[simp] theorem setFifo_cards (s : State) (c f : Nat) (l : List Nat) : (setFifo s c f l).cards = s.cards := rfl
@[simp] theorem setFifo_reruns (s : State) (c f : Nat) (l : List Nat) : (setFifo s c f l).reruns = s.reruns := rfl
@[simp] theorem setFifo_streams (s : State) (c f : Nat) (l : List Nat) : (setFifo s c f l).streams = s.streams := rfl
@[simp] theorem setFifo_nw (s : State) (c f : Nat) (l : List Nat) : (setFifo s c f l).nw = s.nw := rfl
@[simp] theorem setFifo_walls (s : State) (c f : Nat) (l : List Nat) : (setFifo s c f l).walls = s.walls := rfl
@[simp] theorem setFifo_harts (s : State) (c f : Nat) (l : List Nat) : (setFifo s c f l).harts = s.harts := rfl
@[simp] theorem setFifo_mtime (s : State) (c f : Nat) (l : List Nat) : (setFifo s c f l).mtime = s.mtime := rfl
@[simp] theorem setFifo_monitors (s : State) (c f : Nat) (l : List Nat) : (setFifo s c f l).monitors = s.monitors := rfl
@[simp] theorem setFifo_samples (s : State) (c f : Nat) (l : List Nat) : (setFifo s c f l).samples = s.samples := rfl
@[simp] theorem setFifo_dev (s : State) (c f : Nat) (l : List Nat) : (setFifo s c f l).dev = s.dev := rfl
@[simp] theorem setFifo_sec (s : State) (c f : Nat) (l : List Nat) : (setFifo s c f l).sec = s.sec := rfl
@[simp] theorem setFifo_routes (s : State) (c f : Nat) (l : List Nat) : (setFifo s c f l).routes = s.routes := rfl
@[simp] theorem setFifo_routesDue (s : State) (c f : Nat) (l : List Nat) : (setFifo s c f l).routesDue = s.routesDue := rfl
@[simp] theorem setFifo_spans (s : State) (c f : Nat) (l : List Nat) : (setFifo s c f l).spans = s.spans := rfl
@[simp] theorem setFifo_remotes (s : State) (c f : Nat) (l : List Nat) : (setFifo s c f l).remotes = s.remotes := rfl
@[simp] theorem setFifo_inbound (s : State) (c f : Nat) (l : List Nat) : (setFifo s c f l).inbound = s.inbound := rfl
@[simp] theorem setFifo_ports (s : State) (c f : Nat) (l : List Nat) : (setFifo s c f l).ports = s.ports := rfl
@[simp] theorem setFifo_hdm (s : State) (c f : Nat) (l : List Nat) : (setFifo s c f l).hdm = s.hdm := rfl
@[simp] theorem setFifo_hostData (s : State) (c f : Nat) (l : List Nat) : (setFifo s c f l).hostData = s.hostData := rfl
@[simp] theorem setFifo_aer (s : State) (c f : Nat) (l : List Nat) : (setFifo s c f l).aer = s.aer := rfl
@[simp] theorem setFifo_absent (s : State) (c f : Nat) (l : List Nat) : (setFifo s c f l).absent = s.absent := rfl
@[simp] theorem setFifo_outbox (s : State) (c f : Nat) (l : List Nat) : (setFifo s c f l).outbox = s.outbox := rfl
@[simp] theorem setFifo_hostEnd (s : State) (c f : Nat) (l : List Nat) : (setFifo s c f l).hostEnd = s.hostEnd := rfl
@[simp] theorem setFifo_abortFrom (s : State) (c f : Nat) (l : List Nat) : (setFifo s c f l).abortFrom = s.abortFrom := rfl
@[simp] theorem setFifo_missed (s : State) (c f : Nat) (l : List Nat) : (setFifo s c f l).missed = s.missed := rfl
@[simp] theorem setFifo_fatal (s : State) (c f : Nat) (l : List Nat) : (setFifo s c f l).fatal = s.fatal := rfl

/-! ## onJob -/

@[simp] theorem onJob_inputs (s : State) (j : Nat) (f : Job → Job) : (onJob s j f).inputs = s.inputs := rfl
@[simp] theorem onJob_agenda (s : State) (j : Nat) (f : Job → Job) : (onJob s j f).agenda = s.agenda := rfl
@[simp] theorem onJob_hostQueue (s : State) (j : Nat) (f : Job → Job) : (onJob s j f).hostQueue = s.hostQueue := rfl
@[simp] theorem onJob_focus (s : State) (j : Nat) (f : Job → Job) : (onJob s j f).focus = s.focus := rfl
@[simp] theorem onJob_todo (s : State) (j : Nat) (f : Job → Job) : (onJob s j f).todo = s.todo := rfl
@[simp] theorem onJob_phase (s : State) (j : Nat) (f : Job → Job) : (onJob s j f).phase = s.phase := rfl
@[simp] theorem onJob_freeCount (s : State) (j : Nat) (f : Job → Job) : (onJob s j f).freeCount = s.freeCount := rfl
@[simp] theorem onJob_cycle (s : State) (j : Nat) (f : Job → Job) : (onJob s j f).cycle = s.cycle := rfl
@[simp] theorem onJob_mem (s : State) (j : Nat) (f : Job → Job) : (onJob s j f).mem = s.mem := rfl
@[simp] theorem onJob_fe (s : State) (j : Nat) (f : Job → Job) : (onJob s j f).fe = s.fe := rfl
@[simp] theorem onJob_poison (s : State) (j : Nat) (f : Job → Job) : (onJob s j f).poison = s.poison := rfl
@[simp] theorem onJob_cores (s : State) (j : Nat) (f : Job → Job) : (onJob s j f).cores = s.cores := rfl
@[simp] theorem onJob_clusters (s : State) (j : Nat) (f : Job → Job) : (onJob s j f).clusters = s.clusters := rfl
@[simp] theorem onJob_dies (s : State) (j : Nat) (f : Job → Job) : (onJob s j f).dies = s.dies := rfl
@[simp] theorem onJob_units (s : State) (j : Nat) (f : Job → Job) : (onJob s j f).units = s.units := rfl
@[simp] theorem onJob_ctxs (s : State) (j : Nat) (f : Job → Job) : (onJob s j f).ctxs = s.ctxs := rfl
@[simp] theorem onJob_slots (s : State) (j : Nat) (f : Job → Job) : (onJob s j f).slots = s.slots := rfl
@[simp] theorem onJob_jobNext (s : State) (j : Nat) (f : Job → Job) : (onJob s j f).jobNext = s.jobNext := rfl
@[simp] theorem onJob_issueNext (s : State) (j : Nat) (f : Job → Job) : (onJob s j f).issueNext = s.issueNext := rfl
@[simp] theorem onJob_taskNext (s : State) (j : Nat) (f : Job → Job) : (onJob s j f).taskNext = s.taskNext := rfl
@[simp] theorem onJob_sbNext (s : State) (j : Nat) (f : Job → Job) : (onJob s j f).sbNext = s.sbNext := rfl
@[simp] theorem onJob_joinCnt (s : State) (j : Nat) (f : Job → Job) : (onJob s j f).joinCnt = s.joinCnt := rfl
@[simp] theorem onJob_cards (s : State) (j : Nat) (f : Job → Job) : (onJob s j f).cards = s.cards := rfl
@[simp] theorem onJob_reruns (s : State) (j : Nat) (f : Job → Job) : (onJob s j f).reruns = s.reruns := rfl
@[simp] theorem onJob_streams (s : State) (j : Nat) (f : Job → Job) : (onJob s j f).streams = s.streams := rfl
@[simp] theorem onJob_nw (s : State) (j : Nat) (f : Job → Job) : (onJob s j f).nw = s.nw := rfl
@[simp] theorem onJob_walls (s : State) (j : Nat) (f : Job → Job) : (onJob s j f).walls = s.walls := rfl
@[simp] theorem onJob_harts (s : State) (j : Nat) (f : Job → Job) : (onJob s j f).harts = s.harts := rfl
@[simp] theorem onJob_mtime (s : State) (j : Nat) (f : Job → Job) : (onJob s j f).mtime = s.mtime := rfl
@[simp] theorem onJob_monitors (s : State) (j : Nat) (f : Job → Job) : (onJob s j f).monitors = s.monitors := rfl
@[simp] theorem onJob_samples (s : State) (j : Nat) (f : Job → Job) : (onJob s j f).samples = s.samples := rfl
@[simp] theorem onJob_dev (s : State) (j : Nat) (f : Job → Job) : (onJob s j f).dev = s.dev := rfl
@[simp] theorem onJob_sec (s : State) (j : Nat) (f : Job → Job) : (onJob s j f).sec = s.sec := rfl
@[simp] theorem onJob_routes (s : State) (j : Nat) (f : Job → Job) : (onJob s j f).routes = s.routes := rfl
@[simp] theorem onJob_routesDue (s : State) (j : Nat) (f : Job → Job) : (onJob s j f).routesDue = s.routesDue := rfl
@[simp] theorem onJob_spans (s : State) (j : Nat) (f : Job → Job) : (onJob s j f).spans = s.spans := rfl
@[simp] theorem onJob_remotes (s : State) (j : Nat) (f : Job → Job) : (onJob s j f).remotes = s.remotes := rfl
@[simp] theorem onJob_inbound (s : State) (j : Nat) (f : Job → Job) : (onJob s j f).inbound = s.inbound := rfl
@[simp] theorem onJob_ports (s : State) (j : Nat) (f : Job → Job) : (onJob s j f).ports = s.ports := rfl
@[simp] theorem onJob_hdm (s : State) (j : Nat) (f : Job → Job) : (onJob s j f).hdm = s.hdm := rfl
@[simp] theorem onJob_hostData (s : State) (j : Nat) (f : Job → Job) : (onJob s j f).hostData = s.hostData := rfl
@[simp] theorem onJob_aer (s : State) (j : Nat) (f : Job → Job) : (onJob s j f).aer = s.aer := rfl
@[simp] theorem onJob_absent (s : State) (j : Nat) (f : Job → Job) : (onJob s j f).absent = s.absent := rfl
@[simp] theorem onJob_outbox (s : State) (j : Nat) (f : Job → Job) : (onJob s j f).outbox = s.outbox := rfl
@[simp] theorem onJob_hostEnd (s : State) (j : Nat) (f : Job → Job) : (onJob s j f).hostEnd = s.hostEnd := rfl
@[simp] theorem onJob_abortFrom (s : State) (j : Nat) (f : Job → Job) : (onJob s j f).abortFrom = s.abortFrom := rfl
@[simp] theorem onJob_missed (s : State) (j : Nat) (f : Job → Job) : (onJob s j f).missed = s.missed := rfl
@[simp] theorem onJob_fatal (s : State) (j : Nat) (f : Job → Job) : (onJob s j f).fatal = s.fatal := rfl

/-! ## onCtx -/

@[simp] theorem onCtx_inputs (s : State) (n : Nat) (f : Ctx → Ctx) : (onCtx s n f).inputs = s.inputs := rfl
@[simp] theorem onCtx_agenda (s : State) (n : Nat) (f : Ctx → Ctx) : (onCtx s n f).agenda = s.agenda := rfl
@[simp] theorem onCtx_hostQueue (s : State) (n : Nat) (f : Ctx → Ctx) : (onCtx s n f).hostQueue = s.hostQueue := rfl
@[simp] theorem onCtx_focus (s : State) (n : Nat) (f : Ctx → Ctx) : (onCtx s n f).focus = s.focus := rfl
@[simp] theorem onCtx_todo (s : State) (n : Nat) (f : Ctx → Ctx) : (onCtx s n f).todo = s.todo := rfl
@[simp] theorem onCtx_phase (s : State) (n : Nat) (f : Ctx → Ctx) : (onCtx s n f).phase = s.phase := rfl
@[simp] theorem onCtx_freeCount (s : State) (n : Nat) (f : Ctx → Ctx) : (onCtx s n f).freeCount = s.freeCount := rfl
@[simp] theorem onCtx_cycle (s : State) (n : Nat) (f : Ctx → Ctx) : (onCtx s n f).cycle = s.cycle := rfl
@[simp] theorem onCtx_mem (s : State) (n : Nat) (f : Ctx → Ctx) : (onCtx s n f).mem = s.mem := rfl
@[simp] theorem onCtx_fe (s : State) (n : Nat) (f : Ctx → Ctx) : (onCtx s n f).fe = s.fe := rfl
@[simp] theorem onCtx_poison (s : State) (n : Nat) (f : Ctx → Ctx) : (onCtx s n f).poison = s.poison := rfl
@[simp] theorem onCtx_cores (s : State) (n : Nat) (f : Ctx → Ctx) : (onCtx s n f).cores = s.cores := rfl
@[simp] theorem onCtx_clusters (s : State) (n : Nat) (f : Ctx → Ctx) : (onCtx s n f).clusters = s.clusters := rfl
@[simp] theorem onCtx_dies (s : State) (n : Nat) (f : Ctx → Ctx) : (onCtx s n f).dies = s.dies := rfl
@[simp] theorem onCtx_units (s : State) (n : Nat) (f : Ctx → Ctx) : (onCtx s n f).units = s.units := rfl
@[simp] theorem onCtx_slots (s : State) (n : Nat) (f : Ctx → Ctx) : (onCtx s n f).slots = s.slots := rfl
@[simp] theorem onCtx_jobs (s : State) (n : Nat) (f : Ctx → Ctx) : (onCtx s n f).jobs = s.jobs := rfl
@[simp] theorem onCtx_jobNext (s : State) (n : Nat) (f : Ctx → Ctx) : (onCtx s n f).jobNext = s.jobNext := rfl
@[simp] theorem onCtx_issueNext (s : State) (n : Nat) (f : Ctx → Ctx) : (onCtx s n f).issueNext = s.issueNext := rfl
@[simp] theorem onCtx_taskNext (s : State) (n : Nat) (f : Ctx → Ctx) : (onCtx s n f).taskNext = s.taskNext := rfl
@[simp] theorem onCtx_sbNext (s : State) (n : Nat) (f : Ctx → Ctx) : (onCtx s n f).sbNext = s.sbNext := rfl
@[simp] theorem onCtx_joinCnt (s : State) (n : Nat) (f : Ctx → Ctx) : (onCtx s n f).joinCnt = s.joinCnt := rfl
@[simp] theorem onCtx_cards (s : State) (n : Nat) (f : Ctx → Ctx) : (onCtx s n f).cards = s.cards := rfl
@[simp] theorem onCtx_reruns (s : State) (n : Nat) (f : Ctx → Ctx) : (onCtx s n f).reruns = s.reruns := rfl
@[simp] theorem onCtx_streams (s : State) (n : Nat) (f : Ctx → Ctx) : (onCtx s n f).streams = s.streams := rfl
@[simp] theorem onCtx_nw (s : State) (n : Nat) (f : Ctx → Ctx) : (onCtx s n f).nw = s.nw := rfl
@[simp] theorem onCtx_walls (s : State) (n : Nat) (f : Ctx → Ctx) : (onCtx s n f).walls = s.walls := rfl
@[simp] theorem onCtx_harts (s : State) (n : Nat) (f : Ctx → Ctx) : (onCtx s n f).harts = s.harts := rfl
@[simp] theorem onCtx_mtime (s : State) (n : Nat) (f : Ctx → Ctx) : (onCtx s n f).mtime = s.mtime := rfl
@[simp] theorem onCtx_monitors (s : State) (n : Nat) (f : Ctx → Ctx) : (onCtx s n f).monitors = s.monitors := rfl
@[simp] theorem onCtx_samples (s : State) (n : Nat) (f : Ctx → Ctx) : (onCtx s n f).samples = s.samples := rfl
@[simp] theorem onCtx_dev (s : State) (n : Nat) (f : Ctx → Ctx) : (onCtx s n f).dev = s.dev := rfl
@[simp] theorem onCtx_sec (s : State) (n : Nat) (f : Ctx → Ctx) : (onCtx s n f).sec = s.sec := rfl
@[simp] theorem onCtx_routes (s : State) (n : Nat) (f : Ctx → Ctx) : (onCtx s n f).routes = s.routes := rfl
@[simp] theorem onCtx_routesDue (s : State) (n : Nat) (f : Ctx → Ctx) : (onCtx s n f).routesDue = s.routesDue := rfl
@[simp] theorem onCtx_spans (s : State) (n : Nat) (f : Ctx → Ctx) : (onCtx s n f).spans = s.spans := rfl
@[simp] theorem onCtx_remotes (s : State) (n : Nat) (f : Ctx → Ctx) : (onCtx s n f).remotes = s.remotes := rfl
@[simp] theorem onCtx_inbound (s : State) (n : Nat) (f : Ctx → Ctx) : (onCtx s n f).inbound = s.inbound := rfl
@[simp] theorem onCtx_ports (s : State) (n : Nat) (f : Ctx → Ctx) : (onCtx s n f).ports = s.ports := rfl
@[simp] theorem onCtx_hdm (s : State) (n : Nat) (f : Ctx → Ctx) : (onCtx s n f).hdm = s.hdm := rfl
@[simp] theorem onCtx_hostData (s : State) (n : Nat) (f : Ctx → Ctx) : (onCtx s n f).hostData = s.hostData := rfl
@[simp] theorem onCtx_aer (s : State) (n : Nat) (f : Ctx → Ctx) : (onCtx s n f).aer = s.aer := rfl
@[simp] theorem onCtx_absent (s : State) (n : Nat) (f : Ctx → Ctx) : (onCtx s n f).absent = s.absent := rfl
@[simp] theorem onCtx_outbox (s : State) (n : Nat) (f : Ctx → Ctx) : (onCtx s n f).outbox = s.outbox := rfl
@[simp] theorem onCtx_hostEnd (s : State) (n : Nat) (f : Ctx → Ctx) : (onCtx s n f).hostEnd = s.hostEnd := rfl
@[simp] theorem onCtx_abortFrom (s : State) (n : Nat) (f : Ctx → Ctx) : (onCtx s n f).abortFrom = s.abortFrom := rfl
@[simp] theorem onCtx_missed (s : State) (n : Nat) (f : Ctx → Ctx) : (onCtx s n f).missed = s.missed := rfl
@[simp] theorem onCtx_fatal (s : State) (n : Nat) (f : Ctx → Ctx) : (onCtx s n f).fatal = s.fatal := rfl

/-! ## onDie -/

@[simp] theorem onDie_inputs (s : State) (d : Nat) (f : Die → Die) : (onDie s d f).inputs = s.inputs := rfl
@[simp] theorem onDie_agenda (s : State) (d : Nat) (f : Die → Die) : (onDie s d f).agenda = s.agenda := rfl
@[simp] theorem onDie_hostQueue (s : State) (d : Nat) (f : Die → Die) : (onDie s d f).hostQueue = s.hostQueue := rfl
@[simp] theorem onDie_focus (s : State) (d : Nat) (f : Die → Die) : (onDie s d f).focus = s.focus := rfl
@[simp] theorem onDie_todo (s : State) (d : Nat) (f : Die → Die) : (onDie s d f).todo = s.todo := rfl
@[simp] theorem onDie_phase (s : State) (d : Nat) (f : Die → Die) : (onDie s d f).phase = s.phase := rfl
@[simp] theorem onDie_freeCount (s : State) (d : Nat) (f : Die → Die) : (onDie s d f).freeCount = s.freeCount := rfl
@[simp] theorem onDie_cycle (s : State) (d : Nat) (f : Die → Die) : (onDie s d f).cycle = s.cycle := rfl
@[simp] theorem onDie_mem (s : State) (d : Nat) (f : Die → Die) : (onDie s d f).mem = s.mem := rfl
@[simp] theorem onDie_fe (s : State) (d : Nat) (f : Die → Die) : (onDie s d f).fe = s.fe := rfl
@[simp] theorem onDie_poison (s : State) (d : Nat) (f : Die → Die) : (onDie s d f).poison = s.poison := rfl
@[simp] theorem onDie_cores (s : State) (d : Nat) (f : Die → Die) : (onDie s d f).cores = s.cores := rfl
@[simp] theorem onDie_clusters (s : State) (d : Nat) (f : Die → Die) : (onDie s d f).clusters = s.clusters := rfl
@[simp] theorem onDie_units (s : State) (d : Nat) (f : Die → Die) : (onDie s d f).units = s.units := rfl
@[simp] theorem onDie_ctxs (s : State) (d : Nat) (f : Die → Die) : (onDie s d f).ctxs = s.ctxs := rfl
@[simp] theorem onDie_slots (s : State) (d : Nat) (f : Die → Die) : (onDie s d f).slots = s.slots := rfl
@[simp] theorem onDie_jobs (s : State) (d : Nat) (f : Die → Die) : (onDie s d f).jobs = s.jobs := rfl
@[simp] theorem onDie_jobNext (s : State) (d : Nat) (f : Die → Die) : (onDie s d f).jobNext = s.jobNext := rfl
@[simp] theorem onDie_issueNext (s : State) (d : Nat) (f : Die → Die) : (onDie s d f).issueNext = s.issueNext := rfl
@[simp] theorem onDie_taskNext (s : State) (d : Nat) (f : Die → Die) : (onDie s d f).taskNext = s.taskNext := rfl
@[simp] theorem onDie_sbNext (s : State) (d : Nat) (f : Die → Die) : (onDie s d f).sbNext = s.sbNext := rfl
@[simp] theorem onDie_joinCnt (s : State) (d : Nat) (f : Die → Die) : (onDie s d f).joinCnt = s.joinCnt := rfl
@[simp] theorem onDie_cards (s : State) (d : Nat) (f : Die → Die) : (onDie s d f).cards = s.cards := rfl
@[simp] theorem onDie_reruns (s : State) (d : Nat) (f : Die → Die) : (onDie s d f).reruns = s.reruns := rfl
@[simp] theorem onDie_streams (s : State) (d : Nat) (f : Die → Die) : (onDie s d f).streams = s.streams := rfl
@[simp] theorem onDie_nw (s : State) (d : Nat) (f : Die → Die) : (onDie s d f).nw = s.nw := rfl
@[simp] theorem onDie_walls (s : State) (d : Nat) (f : Die → Die) : (onDie s d f).walls = s.walls := rfl
@[simp] theorem onDie_harts (s : State) (d : Nat) (f : Die → Die) : (onDie s d f).harts = s.harts := rfl
@[simp] theorem onDie_mtime (s : State) (d : Nat) (f : Die → Die) : (onDie s d f).mtime = s.mtime := rfl
@[simp] theorem onDie_monitors (s : State) (d : Nat) (f : Die → Die) : (onDie s d f).monitors = s.monitors := rfl
@[simp] theorem onDie_samples (s : State) (d : Nat) (f : Die → Die) : (onDie s d f).samples = s.samples := rfl
@[simp] theorem onDie_dev (s : State) (d : Nat) (f : Die → Die) : (onDie s d f).dev = s.dev := rfl
@[simp] theorem onDie_sec (s : State) (d : Nat) (f : Die → Die) : (onDie s d f).sec = s.sec := rfl
@[simp] theorem onDie_routes (s : State) (d : Nat) (f : Die → Die) : (onDie s d f).routes = s.routes := rfl
@[simp] theorem onDie_routesDue (s : State) (d : Nat) (f : Die → Die) : (onDie s d f).routesDue = s.routesDue := rfl
@[simp] theorem onDie_spans (s : State) (d : Nat) (f : Die → Die) : (onDie s d f).spans = s.spans := rfl
@[simp] theorem onDie_remotes (s : State) (d : Nat) (f : Die → Die) : (onDie s d f).remotes = s.remotes := rfl
@[simp] theorem onDie_inbound (s : State) (d : Nat) (f : Die → Die) : (onDie s d f).inbound = s.inbound := rfl
@[simp] theorem onDie_ports (s : State) (d : Nat) (f : Die → Die) : (onDie s d f).ports = s.ports := rfl
@[simp] theorem onDie_hdm (s : State) (d : Nat) (f : Die → Die) : (onDie s d f).hdm = s.hdm := rfl
@[simp] theorem onDie_hostData (s : State) (d : Nat) (f : Die → Die) : (onDie s d f).hostData = s.hostData := rfl
@[simp] theorem onDie_aer (s : State) (d : Nat) (f : Die → Die) : (onDie s d f).aer = s.aer := rfl
@[simp] theorem onDie_absent (s : State) (d : Nat) (f : Die → Die) : (onDie s d f).absent = s.absent := rfl
@[simp] theorem onDie_outbox (s : State) (d : Nat) (f : Die → Die) : (onDie s d f).outbox = s.outbox := rfl
@[simp] theorem onDie_hostEnd (s : State) (d : Nat) (f : Die → Die) : (onDie s d f).hostEnd = s.hostEnd := rfl
@[simp] theorem onDie_abortFrom (s : State) (d : Nat) (f : Die → Die) : (onDie s d f).abortFrom = s.abortFrom := rfl
@[simp] theorem onDie_missed (s : State) (d : Nat) (f : Die → Die) : (onDie s d f).missed = s.missed := rfl
@[simp] theorem onDie_fatal (s : State) (d : Nat) (f : Die → Die) : (onDie s d f).fatal = s.fatal := rfl

/-! ## onCluster -/

@[simp] theorem onCluster_inputs (s : State) (k : Nat) (f : Cluster → Cluster) : (onCluster s k f).inputs = s.inputs := rfl
@[simp] theorem onCluster_agenda (s : State) (k : Nat) (f : Cluster → Cluster) : (onCluster s k f).agenda = s.agenda := rfl
@[simp] theorem onCluster_hostQueue (s : State) (k : Nat) (f : Cluster → Cluster) : (onCluster s k f).hostQueue = s.hostQueue := rfl
@[simp] theorem onCluster_focus (s : State) (k : Nat) (f : Cluster → Cluster) : (onCluster s k f).focus = s.focus := rfl
@[simp] theorem onCluster_todo (s : State) (k : Nat) (f : Cluster → Cluster) : (onCluster s k f).todo = s.todo := rfl
@[simp] theorem onCluster_phase (s : State) (k : Nat) (f : Cluster → Cluster) : (onCluster s k f).phase = s.phase := rfl
@[simp] theorem onCluster_freeCount (s : State) (k : Nat) (f : Cluster → Cluster) : (onCluster s k f).freeCount = s.freeCount := rfl
@[simp] theorem onCluster_cycle (s : State) (k : Nat) (f : Cluster → Cluster) : (onCluster s k f).cycle = s.cycle := rfl
@[simp] theorem onCluster_mem (s : State) (k : Nat) (f : Cluster → Cluster) : (onCluster s k f).mem = s.mem := rfl
@[simp] theorem onCluster_fe (s : State) (k : Nat) (f : Cluster → Cluster) : (onCluster s k f).fe = s.fe := rfl
@[simp] theorem onCluster_poison (s : State) (k : Nat) (f : Cluster → Cluster) : (onCluster s k f).poison = s.poison := rfl
@[simp] theorem onCluster_cores (s : State) (k : Nat) (f : Cluster → Cluster) : (onCluster s k f).cores = s.cores := rfl
@[simp] theorem onCluster_dies (s : State) (k : Nat) (f : Cluster → Cluster) : (onCluster s k f).dies = s.dies := rfl
@[simp] theorem onCluster_units (s : State) (k : Nat) (f : Cluster → Cluster) : (onCluster s k f).units = s.units := rfl
@[simp] theorem onCluster_ctxs (s : State) (k : Nat) (f : Cluster → Cluster) : (onCluster s k f).ctxs = s.ctxs := rfl
@[simp] theorem onCluster_slots (s : State) (k : Nat) (f : Cluster → Cluster) : (onCluster s k f).slots = s.slots := rfl
@[simp] theorem onCluster_jobs (s : State) (k : Nat) (f : Cluster → Cluster) : (onCluster s k f).jobs = s.jobs := rfl
@[simp] theorem onCluster_jobNext (s : State) (k : Nat) (f : Cluster → Cluster) : (onCluster s k f).jobNext = s.jobNext := rfl
@[simp] theorem onCluster_issueNext (s : State) (k : Nat) (f : Cluster → Cluster) : (onCluster s k f).issueNext = s.issueNext := rfl
@[simp] theorem onCluster_taskNext (s : State) (k : Nat) (f : Cluster → Cluster) : (onCluster s k f).taskNext = s.taskNext := rfl
@[simp] theorem onCluster_sbNext (s : State) (k : Nat) (f : Cluster → Cluster) : (onCluster s k f).sbNext = s.sbNext := rfl
@[simp] theorem onCluster_joinCnt (s : State) (k : Nat) (f : Cluster → Cluster) : (onCluster s k f).joinCnt = s.joinCnt := rfl
@[simp] theorem onCluster_cards (s : State) (k : Nat) (f : Cluster → Cluster) : (onCluster s k f).cards = s.cards := rfl
@[simp] theorem onCluster_reruns (s : State) (k : Nat) (f : Cluster → Cluster) : (onCluster s k f).reruns = s.reruns := rfl
@[simp] theorem onCluster_streams (s : State) (k : Nat) (f : Cluster → Cluster) : (onCluster s k f).streams = s.streams := rfl
@[simp] theorem onCluster_nw (s : State) (k : Nat) (f : Cluster → Cluster) : (onCluster s k f).nw = s.nw := rfl
@[simp] theorem onCluster_walls (s : State) (k : Nat) (f : Cluster → Cluster) : (onCluster s k f).walls = s.walls := rfl
@[simp] theorem onCluster_harts (s : State) (k : Nat) (f : Cluster → Cluster) : (onCluster s k f).harts = s.harts := rfl
@[simp] theorem onCluster_mtime (s : State) (k : Nat) (f : Cluster → Cluster) : (onCluster s k f).mtime = s.mtime := rfl
@[simp] theorem onCluster_monitors (s : State) (k : Nat) (f : Cluster → Cluster) : (onCluster s k f).monitors = s.monitors := rfl
@[simp] theorem onCluster_samples (s : State) (k : Nat) (f : Cluster → Cluster) : (onCluster s k f).samples = s.samples := rfl
@[simp] theorem onCluster_dev (s : State) (k : Nat) (f : Cluster → Cluster) : (onCluster s k f).dev = s.dev := rfl
@[simp] theorem onCluster_sec (s : State) (k : Nat) (f : Cluster → Cluster) : (onCluster s k f).sec = s.sec := rfl
@[simp] theorem onCluster_routes (s : State) (k : Nat) (f : Cluster → Cluster) : (onCluster s k f).routes = s.routes := rfl
@[simp] theorem onCluster_routesDue (s : State) (k : Nat) (f : Cluster → Cluster) : (onCluster s k f).routesDue = s.routesDue := rfl
@[simp] theorem onCluster_spans (s : State) (k : Nat) (f : Cluster → Cluster) : (onCluster s k f).spans = s.spans := rfl
@[simp] theorem onCluster_remotes (s : State) (k : Nat) (f : Cluster → Cluster) : (onCluster s k f).remotes = s.remotes := rfl
@[simp] theorem onCluster_inbound (s : State) (k : Nat) (f : Cluster → Cluster) : (onCluster s k f).inbound = s.inbound := rfl
@[simp] theorem onCluster_ports (s : State) (k : Nat) (f : Cluster → Cluster) : (onCluster s k f).ports = s.ports := rfl
@[simp] theorem onCluster_hdm (s : State) (k : Nat) (f : Cluster → Cluster) : (onCluster s k f).hdm = s.hdm := rfl
@[simp] theorem onCluster_hostData (s : State) (k : Nat) (f : Cluster → Cluster) : (onCluster s k f).hostData = s.hostData := rfl
@[simp] theorem onCluster_aer (s : State) (k : Nat) (f : Cluster → Cluster) : (onCluster s k f).aer = s.aer := rfl
@[simp] theorem onCluster_absent (s : State) (k : Nat) (f : Cluster → Cluster) : (onCluster s k f).absent = s.absent := rfl
@[simp] theorem onCluster_outbox (s : State) (k : Nat) (f : Cluster → Cluster) : (onCluster s k f).outbox = s.outbox := rfl
@[simp] theorem onCluster_hostEnd (s : State) (k : Nat) (f : Cluster → Cluster) : (onCluster s k f).hostEnd = s.hostEnd := rfl
@[simp] theorem onCluster_abortFrom (s : State) (k : Nat) (f : Cluster → Cluster) : (onCluster s k f).abortFrom = s.abortFrom := rfl
@[simp] theorem onCluster_missed (s : State) (k : Nat) (f : Cluster → Cluster) : (onCluster s k f).missed = s.missed := rfl
@[simp] theorem onCluster_fatal (s : State) (k : Nat) (f : Cluster → Cluster) : (onCluster s k f).fatal = s.fatal := rfl

/-! ## onUnit -/

@[simp] theorem onUnit_inputs (s : State) (n : Nat) (f : PoolUnit → PoolUnit) : (onUnit s n f).inputs = s.inputs := rfl
@[simp] theorem onUnit_agenda (s : State) (n : Nat) (f : PoolUnit → PoolUnit) : (onUnit s n f).agenda = s.agenda := rfl
@[simp] theorem onUnit_hostQueue (s : State) (n : Nat) (f : PoolUnit → PoolUnit) : (onUnit s n f).hostQueue = s.hostQueue := rfl
@[simp] theorem onUnit_focus (s : State) (n : Nat) (f : PoolUnit → PoolUnit) : (onUnit s n f).focus = s.focus := rfl
@[simp] theorem onUnit_todo (s : State) (n : Nat) (f : PoolUnit → PoolUnit) : (onUnit s n f).todo = s.todo := rfl
@[simp] theorem onUnit_phase (s : State) (n : Nat) (f : PoolUnit → PoolUnit) : (onUnit s n f).phase = s.phase := rfl
@[simp] theorem onUnit_freeCount (s : State) (n : Nat) (f : PoolUnit → PoolUnit) : (onUnit s n f).freeCount = s.freeCount := rfl
@[simp] theorem onUnit_cycle (s : State) (n : Nat) (f : PoolUnit → PoolUnit) : (onUnit s n f).cycle = s.cycle := rfl
@[simp] theorem onUnit_mem (s : State) (n : Nat) (f : PoolUnit → PoolUnit) : (onUnit s n f).mem = s.mem := rfl
@[simp] theorem onUnit_fe (s : State) (n : Nat) (f : PoolUnit → PoolUnit) : (onUnit s n f).fe = s.fe := rfl
@[simp] theorem onUnit_poison (s : State) (n : Nat) (f : PoolUnit → PoolUnit) : (onUnit s n f).poison = s.poison := rfl
@[simp] theorem onUnit_cores (s : State) (n : Nat) (f : PoolUnit → PoolUnit) : (onUnit s n f).cores = s.cores := rfl
@[simp] theorem onUnit_clusters (s : State) (n : Nat) (f : PoolUnit → PoolUnit) : (onUnit s n f).clusters = s.clusters := rfl
@[simp] theorem onUnit_dies (s : State) (n : Nat) (f : PoolUnit → PoolUnit) : (onUnit s n f).dies = s.dies := rfl
@[simp] theorem onUnit_ctxs (s : State) (n : Nat) (f : PoolUnit → PoolUnit) : (onUnit s n f).ctxs = s.ctxs := rfl
@[simp] theorem onUnit_slots (s : State) (n : Nat) (f : PoolUnit → PoolUnit) : (onUnit s n f).slots = s.slots := rfl
@[simp] theorem onUnit_jobs (s : State) (n : Nat) (f : PoolUnit → PoolUnit) : (onUnit s n f).jobs = s.jobs := rfl
@[simp] theorem onUnit_jobNext (s : State) (n : Nat) (f : PoolUnit → PoolUnit) : (onUnit s n f).jobNext = s.jobNext := rfl
@[simp] theorem onUnit_issueNext (s : State) (n : Nat) (f : PoolUnit → PoolUnit) : (onUnit s n f).issueNext = s.issueNext := rfl
@[simp] theorem onUnit_taskNext (s : State) (n : Nat) (f : PoolUnit → PoolUnit) : (onUnit s n f).taskNext = s.taskNext := rfl
@[simp] theorem onUnit_sbNext (s : State) (n : Nat) (f : PoolUnit → PoolUnit) : (onUnit s n f).sbNext = s.sbNext := rfl
@[simp] theorem onUnit_joinCnt (s : State) (n : Nat) (f : PoolUnit → PoolUnit) : (onUnit s n f).joinCnt = s.joinCnt := rfl
@[simp] theorem onUnit_cards (s : State) (n : Nat) (f : PoolUnit → PoolUnit) : (onUnit s n f).cards = s.cards := rfl
@[simp] theorem onUnit_reruns (s : State) (n : Nat) (f : PoolUnit → PoolUnit) : (onUnit s n f).reruns = s.reruns := rfl
@[simp] theorem onUnit_streams (s : State) (n : Nat) (f : PoolUnit → PoolUnit) : (onUnit s n f).streams = s.streams := rfl
@[simp] theorem onUnit_nw (s : State) (n : Nat) (f : PoolUnit → PoolUnit) : (onUnit s n f).nw = s.nw := rfl
@[simp] theorem onUnit_walls (s : State) (n : Nat) (f : PoolUnit → PoolUnit) : (onUnit s n f).walls = s.walls := rfl
@[simp] theorem onUnit_harts (s : State) (n : Nat) (f : PoolUnit → PoolUnit) : (onUnit s n f).harts = s.harts := rfl
@[simp] theorem onUnit_mtime (s : State) (n : Nat) (f : PoolUnit → PoolUnit) : (onUnit s n f).mtime = s.mtime := rfl
@[simp] theorem onUnit_monitors (s : State) (n : Nat) (f : PoolUnit → PoolUnit) : (onUnit s n f).monitors = s.monitors := rfl
@[simp] theorem onUnit_samples (s : State) (n : Nat) (f : PoolUnit → PoolUnit) : (onUnit s n f).samples = s.samples := rfl
@[simp] theorem onUnit_dev (s : State) (n : Nat) (f : PoolUnit → PoolUnit) : (onUnit s n f).dev = s.dev := rfl
@[simp] theorem onUnit_sec (s : State) (n : Nat) (f : PoolUnit → PoolUnit) : (onUnit s n f).sec = s.sec := rfl
@[simp] theorem onUnit_routes (s : State) (n : Nat) (f : PoolUnit → PoolUnit) : (onUnit s n f).routes = s.routes := rfl
@[simp] theorem onUnit_routesDue (s : State) (n : Nat) (f : PoolUnit → PoolUnit) : (onUnit s n f).routesDue = s.routesDue := rfl
@[simp] theorem onUnit_spans (s : State) (n : Nat) (f : PoolUnit → PoolUnit) : (onUnit s n f).spans = s.spans := rfl
@[simp] theorem onUnit_remotes (s : State) (n : Nat) (f : PoolUnit → PoolUnit) : (onUnit s n f).remotes = s.remotes := rfl
@[simp] theorem onUnit_inbound (s : State) (n : Nat) (f : PoolUnit → PoolUnit) : (onUnit s n f).inbound = s.inbound := rfl
@[simp] theorem onUnit_ports (s : State) (n : Nat) (f : PoolUnit → PoolUnit) : (onUnit s n f).ports = s.ports := rfl
@[simp] theorem onUnit_hdm (s : State) (n : Nat) (f : PoolUnit → PoolUnit) : (onUnit s n f).hdm = s.hdm := rfl
@[simp] theorem onUnit_hostData (s : State) (n : Nat) (f : PoolUnit → PoolUnit) : (onUnit s n f).hostData = s.hostData := rfl
@[simp] theorem onUnit_aer (s : State) (n : Nat) (f : PoolUnit → PoolUnit) : (onUnit s n f).aer = s.aer := rfl
@[simp] theorem onUnit_absent (s : State) (n : Nat) (f : PoolUnit → PoolUnit) : (onUnit s n f).absent = s.absent := rfl
@[simp] theorem onUnit_outbox (s : State) (n : Nat) (f : PoolUnit → PoolUnit) : (onUnit s n f).outbox = s.outbox := rfl
@[simp] theorem onUnit_hostEnd (s : State) (n : Nat) (f : PoolUnit → PoolUnit) : (onUnit s n f).hostEnd = s.hostEnd := rfl
@[simp] theorem onUnit_abortFrom (s : State) (n : Nat) (f : PoolUnit → PoolUnit) : (onUnit s n f).abortFrom = s.abortFrom := rfl
@[simp] theorem onUnit_missed (s : State) (n : Nat) (f : PoolUnit → PoolUnit) : (onUnit s n f).missed = s.missed := rfl
@[simp] theorem onUnit_fatal (s : State) (n : Nat) (f : PoolUnit → PoolUnit) : (onUnit s n f).fatal = s.fatal := rfl

/-! ## onSlot -/

@[simp] theorem onSlot_inputs (s : State) (n : Nat) (f : Slot → Slot) : (onSlot s n f).inputs = s.inputs := rfl
@[simp] theorem onSlot_agenda (s : State) (n : Nat) (f : Slot → Slot) : (onSlot s n f).agenda = s.agenda := rfl
@[simp] theorem onSlot_hostQueue (s : State) (n : Nat) (f : Slot → Slot) : (onSlot s n f).hostQueue = s.hostQueue := rfl
@[simp] theorem onSlot_focus (s : State) (n : Nat) (f : Slot → Slot) : (onSlot s n f).focus = s.focus := rfl
@[simp] theorem onSlot_todo (s : State) (n : Nat) (f : Slot → Slot) : (onSlot s n f).todo = s.todo := rfl
@[simp] theorem onSlot_phase (s : State) (n : Nat) (f : Slot → Slot) : (onSlot s n f).phase = s.phase := rfl
@[simp] theorem onSlot_freeCount (s : State) (n : Nat) (f : Slot → Slot) : (onSlot s n f).freeCount = s.freeCount := rfl
@[simp] theorem onSlot_cycle (s : State) (n : Nat) (f : Slot → Slot) : (onSlot s n f).cycle = s.cycle := rfl
@[simp] theorem onSlot_mem (s : State) (n : Nat) (f : Slot → Slot) : (onSlot s n f).mem = s.mem := rfl
@[simp] theorem onSlot_fe (s : State) (n : Nat) (f : Slot → Slot) : (onSlot s n f).fe = s.fe := rfl
@[simp] theorem onSlot_poison (s : State) (n : Nat) (f : Slot → Slot) : (onSlot s n f).poison = s.poison := rfl
@[simp] theorem onSlot_cores (s : State) (n : Nat) (f : Slot → Slot) : (onSlot s n f).cores = s.cores := rfl
@[simp] theorem onSlot_clusters (s : State) (n : Nat) (f : Slot → Slot) : (onSlot s n f).clusters = s.clusters := rfl
@[simp] theorem onSlot_dies (s : State) (n : Nat) (f : Slot → Slot) : (onSlot s n f).dies = s.dies := rfl
@[simp] theorem onSlot_units (s : State) (n : Nat) (f : Slot → Slot) : (onSlot s n f).units = s.units := rfl
@[simp] theorem onSlot_ctxs (s : State) (n : Nat) (f : Slot → Slot) : (onSlot s n f).ctxs = s.ctxs := rfl
@[simp] theorem onSlot_jobs (s : State) (n : Nat) (f : Slot → Slot) : (onSlot s n f).jobs = s.jobs := rfl
@[simp] theorem onSlot_jobNext (s : State) (n : Nat) (f : Slot → Slot) : (onSlot s n f).jobNext = s.jobNext := rfl
@[simp] theorem onSlot_issueNext (s : State) (n : Nat) (f : Slot → Slot) : (onSlot s n f).issueNext = s.issueNext := rfl
@[simp] theorem onSlot_taskNext (s : State) (n : Nat) (f : Slot → Slot) : (onSlot s n f).taskNext = s.taskNext := rfl
@[simp] theorem onSlot_sbNext (s : State) (n : Nat) (f : Slot → Slot) : (onSlot s n f).sbNext = s.sbNext := rfl
@[simp] theorem onSlot_joinCnt (s : State) (n : Nat) (f : Slot → Slot) : (onSlot s n f).joinCnt = s.joinCnt := rfl
@[simp] theorem onSlot_cards (s : State) (n : Nat) (f : Slot → Slot) : (onSlot s n f).cards = s.cards := rfl
@[simp] theorem onSlot_reruns (s : State) (n : Nat) (f : Slot → Slot) : (onSlot s n f).reruns = s.reruns := rfl
@[simp] theorem onSlot_streams (s : State) (n : Nat) (f : Slot → Slot) : (onSlot s n f).streams = s.streams := rfl
@[simp] theorem onSlot_nw (s : State) (n : Nat) (f : Slot → Slot) : (onSlot s n f).nw = s.nw := rfl
@[simp] theorem onSlot_walls (s : State) (n : Nat) (f : Slot → Slot) : (onSlot s n f).walls = s.walls := rfl
@[simp] theorem onSlot_harts (s : State) (n : Nat) (f : Slot → Slot) : (onSlot s n f).harts = s.harts := rfl
@[simp] theorem onSlot_mtime (s : State) (n : Nat) (f : Slot → Slot) : (onSlot s n f).mtime = s.mtime := rfl
@[simp] theorem onSlot_monitors (s : State) (n : Nat) (f : Slot → Slot) : (onSlot s n f).monitors = s.monitors := rfl
@[simp] theorem onSlot_samples (s : State) (n : Nat) (f : Slot → Slot) : (onSlot s n f).samples = s.samples := rfl
@[simp] theorem onSlot_dev (s : State) (n : Nat) (f : Slot → Slot) : (onSlot s n f).dev = s.dev := rfl
@[simp] theorem onSlot_sec (s : State) (n : Nat) (f : Slot → Slot) : (onSlot s n f).sec = s.sec := rfl
@[simp] theorem onSlot_routes (s : State) (n : Nat) (f : Slot → Slot) : (onSlot s n f).routes = s.routes := rfl
@[simp] theorem onSlot_routesDue (s : State) (n : Nat) (f : Slot → Slot) : (onSlot s n f).routesDue = s.routesDue := rfl
@[simp] theorem onSlot_spans (s : State) (n : Nat) (f : Slot → Slot) : (onSlot s n f).spans = s.spans := rfl
@[simp] theorem onSlot_remotes (s : State) (n : Nat) (f : Slot → Slot) : (onSlot s n f).remotes = s.remotes := rfl
@[simp] theorem onSlot_inbound (s : State) (n : Nat) (f : Slot → Slot) : (onSlot s n f).inbound = s.inbound := rfl
@[simp] theorem onSlot_ports (s : State) (n : Nat) (f : Slot → Slot) : (onSlot s n f).ports = s.ports := rfl
@[simp] theorem onSlot_hdm (s : State) (n : Nat) (f : Slot → Slot) : (onSlot s n f).hdm = s.hdm := rfl
@[simp] theorem onSlot_hostData (s : State) (n : Nat) (f : Slot → Slot) : (onSlot s n f).hostData = s.hostData := rfl
@[simp] theorem onSlot_aer (s : State) (n : Nat) (f : Slot → Slot) : (onSlot s n f).aer = s.aer := rfl
@[simp] theorem onSlot_absent (s : State) (n : Nat) (f : Slot → Slot) : (onSlot s n f).absent = s.absent := rfl
@[simp] theorem onSlot_outbox (s : State) (n : Nat) (f : Slot → Slot) : (onSlot s n f).outbox = s.outbox := rfl
@[simp] theorem onSlot_hostEnd (s : State) (n : Nat) (f : Slot → Slot) : (onSlot s n f).hostEnd = s.hostEnd := rfl
@[simp] theorem onSlot_abortFrom (s : State) (n : Nat) (f : Slot → Slot) : (onSlot s n f).abortFrom = s.abortFrom := rfl
@[simp] theorem onSlot_missed (s : State) (n : Nat) (f : Slot → Slot) : (onSlot s n f).missed = s.missed := rfl
@[simp] theorem onSlot_fatal (s : State) (n : Nat) (f : Slot → Slot) : (onSlot s n f).fatal = s.fatal := rfl

/-! ## onDev -/

@[simp] theorem onDev_inputs (s : State) (f : Device → Device) : (onDev s f).inputs = s.inputs := rfl
@[simp] theorem onDev_agenda (s : State) (f : Device → Device) : (onDev s f).agenda = s.agenda := rfl
@[simp] theorem onDev_hostQueue (s : State) (f : Device → Device) : (onDev s f).hostQueue = s.hostQueue := rfl
@[simp] theorem onDev_focus (s : State) (f : Device → Device) : (onDev s f).focus = s.focus := rfl
@[simp] theorem onDev_todo (s : State) (f : Device → Device) : (onDev s f).todo = s.todo := rfl
@[simp] theorem onDev_phase (s : State) (f : Device → Device) : (onDev s f).phase = s.phase := rfl
@[simp] theorem onDev_freeCount (s : State) (f : Device → Device) : (onDev s f).freeCount = s.freeCount := rfl
@[simp] theorem onDev_cycle (s : State) (f : Device → Device) : (onDev s f).cycle = s.cycle := rfl
@[simp] theorem onDev_mem (s : State) (f : Device → Device) : (onDev s f).mem = s.mem := rfl
@[simp] theorem onDev_fe (s : State) (f : Device → Device) : (onDev s f).fe = s.fe := rfl
@[simp] theorem onDev_poison (s : State) (f : Device → Device) : (onDev s f).poison = s.poison := rfl
@[simp] theorem onDev_cores (s : State) (f : Device → Device) : (onDev s f).cores = s.cores := rfl
@[simp] theorem onDev_clusters (s : State) (f : Device → Device) : (onDev s f).clusters = s.clusters := rfl
@[simp] theorem onDev_dies (s : State) (f : Device → Device) : (onDev s f).dies = s.dies := rfl
@[simp] theorem onDev_units (s : State) (f : Device → Device) : (onDev s f).units = s.units := rfl
@[simp] theorem onDev_ctxs (s : State) (f : Device → Device) : (onDev s f).ctxs = s.ctxs := rfl
@[simp] theorem onDev_slots (s : State) (f : Device → Device) : (onDev s f).slots = s.slots := rfl
@[simp] theorem onDev_jobs (s : State) (f : Device → Device) : (onDev s f).jobs = s.jobs := rfl
@[simp] theorem onDev_jobNext (s : State) (f : Device → Device) : (onDev s f).jobNext = s.jobNext := rfl
@[simp] theorem onDev_issueNext (s : State) (f : Device → Device) : (onDev s f).issueNext = s.issueNext := rfl
@[simp] theorem onDev_taskNext (s : State) (f : Device → Device) : (onDev s f).taskNext = s.taskNext := rfl
@[simp] theorem onDev_sbNext (s : State) (f : Device → Device) : (onDev s f).sbNext = s.sbNext := rfl
@[simp] theorem onDev_joinCnt (s : State) (f : Device → Device) : (onDev s f).joinCnt = s.joinCnt := rfl
@[simp] theorem onDev_cards (s : State) (f : Device → Device) : (onDev s f).cards = s.cards := rfl
@[simp] theorem onDev_reruns (s : State) (f : Device → Device) : (onDev s f).reruns = s.reruns := rfl
@[simp] theorem onDev_streams (s : State) (f : Device → Device) : (onDev s f).streams = s.streams := rfl
@[simp] theorem onDev_nw (s : State) (f : Device → Device) : (onDev s f).nw = s.nw := rfl
@[simp] theorem onDev_walls (s : State) (f : Device → Device) : (onDev s f).walls = s.walls := rfl
@[simp] theorem onDev_harts (s : State) (f : Device → Device) : (onDev s f).harts = s.harts := rfl
@[simp] theorem onDev_mtime (s : State) (f : Device → Device) : (onDev s f).mtime = s.mtime := rfl
@[simp] theorem onDev_monitors (s : State) (f : Device → Device) : (onDev s f).monitors = s.monitors := rfl
@[simp] theorem onDev_samples (s : State) (f : Device → Device) : (onDev s f).samples = s.samples := rfl
@[simp] theorem onDev_sec (s : State) (f : Device → Device) : (onDev s f).sec = s.sec := rfl
@[simp] theorem onDev_routes (s : State) (f : Device → Device) : (onDev s f).routes = s.routes := rfl
@[simp] theorem onDev_routesDue (s : State) (f : Device → Device) : (onDev s f).routesDue = s.routesDue := rfl
@[simp] theorem onDev_spans (s : State) (f : Device → Device) : (onDev s f).spans = s.spans := rfl
@[simp] theorem onDev_remotes (s : State) (f : Device → Device) : (onDev s f).remotes = s.remotes := rfl
@[simp] theorem onDev_inbound (s : State) (f : Device → Device) : (onDev s f).inbound = s.inbound := rfl
@[simp] theorem onDev_ports (s : State) (f : Device → Device) : (onDev s f).ports = s.ports := rfl
@[simp] theorem onDev_hdm (s : State) (f : Device → Device) : (onDev s f).hdm = s.hdm := rfl
@[simp] theorem onDev_hostData (s : State) (f : Device → Device) : (onDev s f).hostData = s.hostData := rfl
@[simp] theorem onDev_aer (s : State) (f : Device → Device) : (onDev s f).aer = s.aer := rfl
@[simp] theorem onDev_absent (s : State) (f : Device → Device) : (onDev s f).absent = s.absent := rfl
@[simp] theorem onDev_outbox (s : State) (f : Device → Device) : (onDev s f).outbox = s.outbox := rfl
@[simp] theorem onDev_hostEnd (s : State) (f : Device → Device) : (onDev s f).hostEnd = s.hostEnd := rfl
@[simp] theorem onDev_abortFrom (s : State) (f : Device → Device) : (onDev s f).abortFrom = s.abortFrom := rfl
@[simp] theorem onDev_missed (s : State) (f : Device → Device) : (onDev s f).missed = s.missed := rfl
@[simp] theorem onDev_fatal (s : State) (f : Device → Device) : (onDev s f).fatal = s.fatal := rfl

/-! ## onHart -/

@[simp] theorem onHart_inputs (s : State) (n : Nat) (f : Hart → Hart) : (onHart s n f).inputs = s.inputs := rfl
@[simp] theorem onHart_agenda (s : State) (n : Nat) (f : Hart → Hart) : (onHart s n f).agenda = s.agenda := rfl
@[simp] theorem onHart_hostQueue (s : State) (n : Nat) (f : Hart → Hart) : (onHart s n f).hostQueue = s.hostQueue := rfl
@[simp] theorem onHart_focus (s : State) (n : Nat) (f : Hart → Hart) : (onHart s n f).focus = s.focus := rfl
@[simp] theorem onHart_todo (s : State) (n : Nat) (f : Hart → Hart) : (onHart s n f).todo = s.todo := rfl
@[simp] theorem onHart_phase (s : State) (n : Nat) (f : Hart → Hart) : (onHart s n f).phase = s.phase := rfl
@[simp] theorem onHart_freeCount (s : State) (n : Nat) (f : Hart → Hart) : (onHart s n f).freeCount = s.freeCount := rfl
@[simp] theorem onHart_cycle (s : State) (n : Nat) (f : Hart → Hart) : (onHart s n f).cycle = s.cycle := rfl
@[simp] theorem onHart_mem (s : State) (n : Nat) (f : Hart → Hart) : (onHart s n f).mem = s.mem := rfl
@[simp] theorem onHart_fe (s : State) (n : Nat) (f : Hart → Hart) : (onHart s n f).fe = s.fe := rfl
@[simp] theorem onHart_poison (s : State) (n : Nat) (f : Hart → Hart) : (onHart s n f).poison = s.poison := rfl
@[simp] theorem onHart_cores (s : State) (n : Nat) (f : Hart → Hart) : (onHart s n f).cores = s.cores := rfl
@[simp] theorem onHart_clusters (s : State) (n : Nat) (f : Hart → Hart) : (onHart s n f).clusters = s.clusters := rfl
@[simp] theorem onHart_dies (s : State) (n : Nat) (f : Hart → Hart) : (onHart s n f).dies = s.dies := rfl
@[simp] theorem onHart_units (s : State) (n : Nat) (f : Hart → Hart) : (onHart s n f).units = s.units := rfl
@[simp] theorem onHart_ctxs (s : State) (n : Nat) (f : Hart → Hart) : (onHart s n f).ctxs = s.ctxs := rfl
@[simp] theorem onHart_slots (s : State) (n : Nat) (f : Hart → Hart) : (onHart s n f).slots = s.slots := rfl
@[simp] theorem onHart_jobs (s : State) (n : Nat) (f : Hart → Hart) : (onHart s n f).jobs = s.jobs := rfl
@[simp] theorem onHart_jobNext (s : State) (n : Nat) (f : Hart → Hart) : (onHart s n f).jobNext = s.jobNext := rfl
@[simp] theorem onHart_issueNext (s : State) (n : Nat) (f : Hart → Hart) : (onHart s n f).issueNext = s.issueNext := rfl
@[simp] theorem onHart_taskNext (s : State) (n : Nat) (f : Hart → Hart) : (onHart s n f).taskNext = s.taskNext := rfl
@[simp] theorem onHart_sbNext (s : State) (n : Nat) (f : Hart → Hart) : (onHart s n f).sbNext = s.sbNext := rfl
@[simp] theorem onHart_joinCnt (s : State) (n : Nat) (f : Hart → Hart) : (onHart s n f).joinCnt = s.joinCnt := rfl
@[simp] theorem onHart_cards (s : State) (n : Nat) (f : Hart → Hart) : (onHart s n f).cards = s.cards := rfl
@[simp] theorem onHart_reruns (s : State) (n : Nat) (f : Hart → Hart) : (onHart s n f).reruns = s.reruns := rfl
@[simp] theorem onHart_streams (s : State) (n : Nat) (f : Hart → Hart) : (onHart s n f).streams = s.streams := rfl
@[simp] theorem onHart_nw (s : State) (n : Nat) (f : Hart → Hart) : (onHart s n f).nw = s.nw := rfl
@[simp] theorem onHart_walls (s : State) (n : Nat) (f : Hart → Hart) : (onHart s n f).walls = s.walls := rfl
@[simp] theorem onHart_mtime (s : State) (n : Nat) (f : Hart → Hart) : (onHart s n f).mtime = s.mtime := rfl
@[simp] theorem onHart_monitors (s : State) (n : Nat) (f : Hart → Hart) : (onHart s n f).monitors = s.monitors := rfl
@[simp] theorem onHart_samples (s : State) (n : Nat) (f : Hart → Hart) : (onHart s n f).samples = s.samples := rfl
@[simp] theorem onHart_dev (s : State) (n : Nat) (f : Hart → Hart) : (onHart s n f).dev = s.dev := rfl
@[simp] theorem onHart_sec (s : State) (n : Nat) (f : Hart → Hart) : (onHart s n f).sec = s.sec := rfl
@[simp] theorem onHart_routes (s : State) (n : Nat) (f : Hart → Hart) : (onHart s n f).routes = s.routes := rfl
@[simp] theorem onHart_routesDue (s : State) (n : Nat) (f : Hart → Hart) : (onHart s n f).routesDue = s.routesDue := rfl
@[simp] theorem onHart_spans (s : State) (n : Nat) (f : Hart → Hart) : (onHart s n f).spans = s.spans := rfl
@[simp] theorem onHart_remotes (s : State) (n : Nat) (f : Hart → Hart) : (onHart s n f).remotes = s.remotes := rfl
@[simp] theorem onHart_inbound (s : State) (n : Nat) (f : Hart → Hart) : (onHart s n f).inbound = s.inbound := rfl
@[simp] theorem onHart_ports (s : State) (n : Nat) (f : Hart → Hart) : (onHart s n f).ports = s.ports := rfl
@[simp] theorem onHart_hdm (s : State) (n : Nat) (f : Hart → Hart) : (onHart s n f).hdm = s.hdm := rfl
@[simp] theorem onHart_hostData (s : State) (n : Nat) (f : Hart → Hart) : (onHart s n f).hostData = s.hostData := rfl
@[simp] theorem onHart_aer (s : State) (n : Nat) (f : Hart → Hart) : (onHart s n f).aer = s.aer := rfl
@[simp] theorem onHart_absent (s : State) (n : Nat) (f : Hart → Hart) : (onHart s n f).absent = s.absent := rfl
@[simp] theorem onHart_outbox (s : State) (n : Nat) (f : Hart → Hart) : (onHart s n f).outbox = s.outbox := rfl
@[simp] theorem onHart_hostEnd (s : State) (n : Nat) (f : Hart → Hart) : (onHart s n f).hostEnd = s.hostEnd := rfl
@[simp] theorem onHart_abortFrom (s : State) (n : Nat) (f : Hart → Hart) : (onHart s n f).abortFrom = s.abortFrom := rfl
@[simp] theorem onHart_missed (s : State) (n : Nat) (f : Hart → Hart) : (onHart s n f).missed = s.missed := rfl
@[simp] theorem onHart_fatal (s : State) (n : Nat) (f : Hart → Hart) : (onHart s n f).fatal = s.fatal := rfl

/-! ## onMonitor -/

@[simp] theorem onMonitor_inputs (s : State) (m : Nat) (f : Monitor → Monitor) : (onMonitor s m f).inputs = s.inputs := rfl
@[simp] theorem onMonitor_agenda (s : State) (m : Nat) (f : Monitor → Monitor) : (onMonitor s m f).agenda = s.agenda := rfl
@[simp] theorem onMonitor_hostQueue (s : State) (m : Nat) (f : Monitor → Monitor) : (onMonitor s m f).hostQueue = s.hostQueue := rfl
@[simp] theorem onMonitor_focus (s : State) (m : Nat) (f : Monitor → Monitor) : (onMonitor s m f).focus = s.focus := rfl
@[simp] theorem onMonitor_todo (s : State) (m : Nat) (f : Monitor → Monitor) : (onMonitor s m f).todo = s.todo := rfl
@[simp] theorem onMonitor_phase (s : State) (m : Nat) (f : Monitor → Monitor) : (onMonitor s m f).phase = s.phase := rfl
@[simp] theorem onMonitor_freeCount (s : State) (m : Nat) (f : Monitor → Monitor) : (onMonitor s m f).freeCount = s.freeCount := rfl
@[simp] theorem onMonitor_cycle (s : State) (m : Nat) (f : Monitor → Monitor) : (onMonitor s m f).cycle = s.cycle := rfl
@[simp] theorem onMonitor_mem (s : State) (m : Nat) (f : Monitor → Monitor) : (onMonitor s m f).mem = s.mem := rfl
@[simp] theorem onMonitor_fe (s : State) (m : Nat) (f : Monitor → Monitor) : (onMonitor s m f).fe = s.fe := rfl
@[simp] theorem onMonitor_poison (s : State) (m : Nat) (f : Monitor → Monitor) : (onMonitor s m f).poison = s.poison := rfl
@[simp] theorem onMonitor_cores (s : State) (m : Nat) (f : Monitor → Monitor) : (onMonitor s m f).cores = s.cores := rfl
@[simp] theorem onMonitor_clusters (s : State) (m : Nat) (f : Monitor → Monitor) : (onMonitor s m f).clusters = s.clusters := rfl
@[simp] theorem onMonitor_dies (s : State) (m : Nat) (f : Monitor → Monitor) : (onMonitor s m f).dies = s.dies := rfl
@[simp] theorem onMonitor_units (s : State) (m : Nat) (f : Monitor → Monitor) : (onMonitor s m f).units = s.units := rfl
@[simp] theorem onMonitor_ctxs (s : State) (m : Nat) (f : Monitor → Monitor) : (onMonitor s m f).ctxs = s.ctxs := rfl
@[simp] theorem onMonitor_slots (s : State) (m : Nat) (f : Monitor → Monitor) : (onMonitor s m f).slots = s.slots := rfl
@[simp] theorem onMonitor_jobs (s : State) (m : Nat) (f : Monitor → Monitor) : (onMonitor s m f).jobs = s.jobs := rfl
@[simp] theorem onMonitor_jobNext (s : State) (m : Nat) (f : Monitor → Monitor) : (onMonitor s m f).jobNext = s.jobNext := rfl
@[simp] theorem onMonitor_issueNext (s : State) (m : Nat) (f : Monitor → Monitor) : (onMonitor s m f).issueNext = s.issueNext := rfl
@[simp] theorem onMonitor_taskNext (s : State) (m : Nat) (f : Monitor → Monitor) : (onMonitor s m f).taskNext = s.taskNext := rfl
@[simp] theorem onMonitor_sbNext (s : State) (m : Nat) (f : Monitor → Monitor) : (onMonitor s m f).sbNext = s.sbNext := rfl
@[simp] theorem onMonitor_joinCnt (s : State) (m : Nat) (f : Monitor → Monitor) : (onMonitor s m f).joinCnt = s.joinCnt := rfl
@[simp] theorem onMonitor_cards (s : State) (m : Nat) (f : Monitor → Monitor) : (onMonitor s m f).cards = s.cards := rfl
@[simp] theorem onMonitor_reruns (s : State) (m : Nat) (f : Monitor → Monitor) : (onMonitor s m f).reruns = s.reruns := rfl
@[simp] theorem onMonitor_streams (s : State) (m : Nat) (f : Monitor → Monitor) : (onMonitor s m f).streams = s.streams := rfl
@[simp] theorem onMonitor_nw (s : State) (m : Nat) (f : Monitor → Monitor) : (onMonitor s m f).nw = s.nw := rfl
@[simp] theorem onMonitor_walls (s : State) (m : Nat) (f : Monitor → Monitor) : (onMonitor s m f).walls = s.walls := rfl
@[simp] theorem onMonitor_harts (s : State) (m : Nat) (f : Monitor → Monitor) : (onMonitor s m f).harts = s.harts := rfl
@[simp] theorem onMonitor_mtime (s : State) (m : Nat) (f : Monitor → Monitor) : (onMonitor s m f).mtime = s.mtime := rfl
@[simp] theorem onMonitor_samples (s : State) (m : Nat) (f : Monitor → Monitor) : (onMonitor s m f).samples = s.samples := rfl
@[simp] theorem onMonitor_dev (s : State) (m : Nat) (f : Monitor → Monitor) : (onMonitor s m f).dev = s.dev := rfl
@[simp] theorem onMonitor_sec (s : State) (m : Nat) (f : Monitor → Monitor) : (onMonitor s m f).sec = s.sec := rfl
@[simp] theorem onMonitor_routes (s : State) (m : Nat) (f : Monitor → Monitor) : (onMonitor s m f).routes = s.routes := rfl
@[simp] theorem onMonitor_routesDue (s : State) (m : Nat) (f : Monitor → Monitor) : (onMonitor s m f).routesDue = s.routesDue := rfl
@[simp] theorem onMonitor_spans (s : State) (m : Nat) (f : Monitor → Monitor) : (onMonitor s m f).spans = s.spans := rfl
@[simp] theorem onMonitor_remotes (s : State) (m : Nat) (f : Monitor → Monitor) : (onMonitor s m f).remotes = s.remotes := rfl
@[simp] theorem onMonitor_inbound (s : State) (m : Nat) (f : Monitor → Monitor) : (onMonitor s m f).inbound = s.inbound := rfl
@[simp] theorem onMonitor_ports (s : State) (m : Nat) (f : Monitor → Monitor) : (onMonitor s m f).ports = s.ports := rfl
@[simp] theorem onMonitor_hdm (s : State) (m : Nat) (f : Monitor → Monitor) : (onMonitor s m f).hdm = s.hdm := rfl
@[simp] theorem onMonitor_hostData (s : State) (m : Nat) (f : Monitor → Monitor) : (onMonitor s m f).hostData = s.hostData := rfl
@[simp] theorem onMonitor_aer (s : State) (m : Nat) (f : Monitor → Monitor) : (onMonitor s m f).aer = s.aer := rfl
@[simp] theorem onMonitor_absent (s : State) (m : Nat) (f : Monitor → Monitor) : (onMonitor s m f).absent = s.absent := rfl
@[simp] theorem onMonitor_outbox (s : State) (m : Nat) (f : Monitor → Monitor) : (onMonitor s m f).outbox = s.outbox := rfl
@[simp] theorem onMonitor_hostEnd (s : State) (m : Nat) (f : Monitor → Monitor) : (onMonitor s m f).hostEnd = s.hostEnd := rfl
@[simp] theorem onMonitor_abortFrom (s : State) (m : Nat) (f : Monitor → Monitor) : (onMonitor s m f).abortFrom = s.abortFrom := rfl
@[simp] theorem onMonitor_missed (s : State) (m : Nat) (f : Monitor → Monitor) : (onMonitor s m f).missed = s.missed := rfl
@[simp] theorem onMonitor_fatal (s : State) (m : Nat) (f : Monitor → Monitor) : (onMonitor s m f).fatal = s.fatal := rfl

/-! ## onSpan -/

@[simp] theorem onSpan_inputs (s : State) (p : Nat) (f : Span → Span) : (onSpan s p f).inputs = s.inputs := rfl
@[simp] theorem onSpan_agenda (s : State) (p : Nat) (f : Span → Span) : (onSpan s p f).agenda = s.agenda := rfl
@[simp] theorem onSpan_hostQueue (s : State) (p : Nat) (f : Span → Span) : (onSpan s p f).hostQueue = s.hostQueue := rfl
@[simp] theorem onSpan_focus (s : State) (p : Nat) (f : Span → Span) : (onSpan s p f).focus = s.focus := rfl
@[simp] theorem onSpan_todo (s : State) (p : Nat) (f : Span → Span) : (onSpan s p f).todo = s.todo := rfl
@[simp] theorem onSpan_phase (s : State) (p : Nat) (f : Span → Span) : (onSpan s p f).phase = s.phase := rfl
@[simp] theorem onSpan_freeCount (s : State) (p : Nat) (f : Span → Span) : (onSpan s p f).freeCount = s.freeCount := rfl
@[simp] theorem onSpan_cycle (s : State) (p : Nat) (f : Span → Span) : (onSpan s p f).cycle = s.cycle := rfl
@[simp] theorem onSpan_mem (s : State) (p : Nat) (f : Span → Span) : (onSpan s p f).mem = s.mem := rfl
@[simp] theorem onSpan_fe (s : State) (p : Nat) (f : Span → Span) : (onSpan s p f).fe = s.fe := rfl
@[simp] theorem onSpan_poison (s : State) (p : Nat) (f : Span → Span) : (onSpan s p f).poison = s.poison := rfl
@[simp] theorem onSpan_cores (s : State) (p : Nat) (f : Span → Span) : (onSpan s p f).cores = s.cores := rfl
@[simp] theorem onSpan_clusters (s : State) (p : Nat) (f : Span → Span) : (onSpan s p f).clusters = s.clusters := rfl
@[simp] theorem onSpan_dies (s : State) (p : Nat) (f : Span → Span) : (onSpan s p f).dies = s.dies := rfl
@[simp] theorem onSpan_units (s : State) (p : Nat) (f : Span → Span) : (onSpan s p f).units = s.units := rfl
@[simp] theorem onSpan_ctxs (s : State) (p : Nat) (f : Span → Span) : (onSpan s p f).ctxs = s.ctxs := rfl
@[simp] theorem onSpan_slots (s : State) (p : Nat) (f : Span → Span) : (onSpan s p f).slots = s.slots := rfl
@[simp] theorem onSpan_jobs (s : State) (p : Nat) (f : Span → Span) : (onSpan s p f).jobs = s.jobs := rfl
@[simp] theorem onSpan_jobNext (s : State) (p : Nat) (f : Span → Span) : (onSpan s p f).jobNext = s.jobNext := rfl
@[simp] theorem onSpan_issueNext (s : State) (p : Nat) (f : Span → Span) : (onSpan s p f).issueNext = s.issueNext := rfl
@[simp] theorem onSpan_taskNext (s : State) (p : Nat) (f : Span → Span) : (onSpan s p f).taskNext = s.taskNext := rfl
@[simp] theorem onSpan_sbNext (s : State) (p : Nat) (f : Span → Span) : (onSpan s p f).sbNext = s.sbNext := rfl
@[simp] theorem onSpan_joinCnt (s : State) (p : Nat) (f : Span → Span) : (onSpan s p f).joinCnt = s.joinCnt := rfl
@[simp] theorem onSpan_cards (s : State) (p : Nat) (f : Span → Span) : (onSpan s p f).cards = s.cards := rfl
@[simp] theorem onSpan_reruns (s : State) (p : Nat) (f : Span → Span) : (onSpan s p f).reruns = s.reruns := rfl
@[simp] theorem onSpan_streams (s : State) (p : Nat) (f : Span → Span) : (onSpan s p f).streams = s.streams := rfl
@[simp] theorem onSpan_nw (s : State) (p : Nat) (f : Span → Span) : (onSpan s p f).nw = s.nw := rfl
@[simp] theorem onSpan_walls (s : State) (p : Nat) (f : Span → Span) : (onSpan s p f).walls = s.walls := rfl
@[simp] theorem onSpan_harts (s : State) (p : Nat) (f : Span → Span) : (onSpan s p f).harts = s.harts := rfl
@[simp] theorem onSpan_mtime (s : State) (p : Nat) (f : Span → Span) : (onSpan s p f).mtime = s.mtime := rfl
@[simp] theorem onSpan_monitors (s : State) (p : Nat) (f : Span → Span) : (onSpan s p f).monitors = s.monitors := rfl
@[simp] theorem onSpan_samples (s : State) (p : Nat) (f : Span → Span) : (onSpan s p f).samples = s.samples := rfl
@[simp] theorem onSpan_dev (s : State) (p : Nat) (f : Span → Span) : (onSpan s p f).dev = s.dev := rfl
@[simp] theorem onSpan_sec (s : State) (p : Nat) (f : Span → Span) : (onSpan s p f).sec = s.sec := rfl
@[simp] theorem onSpan_routes (s : State) (p : Nat) (f : Span → Span) : (onSpan s p f).routes = s.routes := rfl
@[simp] theorem onSpan_routesDue (s : State) (p : Nat) (f : Span → Span) : (onSpan s p f).routesDue = s.routesDue := rfl
@[simp] theorem onSpan_remotes (s : State) (p : Nat) (f : Span → Span) : (onSpan s p f).remotes = s.remotes := rfl
@[simp] theorem onSpan_inbound (s : State) (p : Nat) (f : Span → Span) : (onSpan s p f).inbound = s.inbound := rfl
@[simp] theorem onSpan_ports (s : State) (p : Nat) (f : Span → Span) : (onSpan s p f).ports = s.ports := rfl
@[simp] theorem onSpan_hdm (s : State) (p : Nat) (f : Span → Span) : (onSpan s p f).hdm = s.hdm := rfl
@[simp] theorem onSpan_hostData (s : State) (p : Nat) (f : Span → Span) : (onSpan s p f).hostData = s.hostData := rfl
@[simp] theorem onSpan_aer (s : State) (p : Nat) (f : Span → Span) : (onSpan s p f).aer = s.aer := rfl
@[simp] theorem onSpan_absent (s : State) (p : Nat) (f : Span → Span) : (onSpan s p f).absent = s.absent := rfl
@[simp] theorem onSpan_outbox (s : State) (p : Nat) (f : Span → Span) : (onSpan s p f).outbox = s.outbox := rfl
@[simp] theorem onSpan_hostEnd (s : State) (p : Nat) (f : Span → Span) : (onSpan s p f).hostEnd = s.hostEnd := rfl
@[simp] theorem onSpan_abortFrom (s : State) (p : Nat) (f : Span → Span) : (onSpan s p f).abortFrom = s.abortFrom := rfl
@[simp] theorem onSpan_missed (s : State) (p : Nat) (f : Span → Span) : (onSpan s p f).missed = s.missed := rfl
@[simp] theorem onSpan_fatal (s : State) (p : Nat) (f : Span → Span) : (onSpan s p f).fatal = s.fatal := rfl

/-! ## Readers -/

@[simp] theorem coreAt_setCore_same (s : State) (c : Nat) (k : Core) : coreAt (setCore s c k) c = k := by
  simp [coreAt, setCore]

theorem coreAt_setCore_ne (s : State) {c b : Nat} (k : Core) (h : b ≠ c) : coreAt (setCore s c k) b = coreAt s b := by
  simp [coreAt, setCore, tabGet_put_ne _ _ _ h]

@[simp] theorem coreAt_onCore_same (s : State) (c : Nat) (f : Core → Core) : coreAt (onCore s c f) c = f (coreAt s c) := by
  simp [onCore]

theorem coreAt_onCore_ne (s : State) {c b : Nat} (f : Core → Core) (h : b ≠ c) : coreAt (onCore s c f) b = coreAt s b := by
  simp [onCore, coreAt_setCore_ne _ _ h]

@[simp] theorem strandAt_onStrand_same (s : State) (a : At) (f : Strand → Strand) :
    strandAt (onStrand s a f) a = f (strandAt s a) := by
  simp [onStrand, strandAt]

theorem strandAt_onStrand_ne (s : State) {a b : At} (f : Strand → Strand) (h : b ≠ a) :
    strandAt (onStrand s a f) b = strandAt s b := by
  obtain ⟨c, x⟩ := a
  obtain ⟨d, y⟩ := b
  by_cases hc : d = c
  · subst hc
    have hx : y ≠ x := by rintro rfl; exact h rfl
    simp [onStrand, strandAt, tabGet_put_ne _ _ _ hx]
  · simp [onStrand, strandAt, coreAt_onCore_ne _ _ hc]

/-- A change of a strand changes nothing of its core but the strands. -/
theorem coreAt_onStrand_same (s : State) (a : At) (f : Strand → Strand) :
    coreAt (onStrand s a f) a.c = { coreAt s a.c with strands := tabPut (coreAt s a.c).strands a.x (f (strandAt s a)) } := by
  simp [onStrand, strandAt]

theorem coreAt_onStrand_ne (s : State) (a : At) {c : Nat} (f : Strand → Strand) (h : c ≠ a.c) :
    coreAt (onStrand s a f) c = coreAt s c := by
  simp [onStrand, coreAt_onCore_ne _ _ h]

/-- Two changes of one strand are one. -/
theorem onStrand_onStrand (s : State) (a : At) (f g : Strand → Strand) :
    onStrand (onStrand s a f) a g = onStrand s a (fun t => g (f t)) := by
  simp [onStrand, onCore, setCore, coreAt]

@[simp] theorem queueAt_onStrand (s : State) (a : At) (f : Strand → Strand) (c q : Nat) :
    queueAt (onStrand s a f) c q = queueAt s c q := by
  by_cases h : c = a.c
  · subst h; simp [queueAt, coreAt_onStrand_same]
  · simp [queueAt, coreAt_onStrand_ne _ _ _ h]

@[simp] theorem fifoAt_onStrand (s : State) (a : At) (f : Strand → Strand) (c q : Nat) :
    fifoAt (onStrand s a f) c q = fifoAt s c q := by
  by_cases h : c = a.c
  · subst h; simp [fifoAt, coreAt_onStrand_same]
  · simp [fifoAt, coreAt_onStrand_ne _ _ _ h]

@[simp] theorem strandAt_setQueue (s : State) (c q : Nat) (l : List Entry) (a : At) :
    strandAt (setQueue s c q l) a = strandAt s a := by
  by_cases h : a.c = c
  · subst h; simp [setQueue, strandAt]
  · simp [setQueue, strandAt, coreAt_onCore_ne _ _ h]

@[simp] theorem strandAt_setFifo (s : State) (c q : Nat) (l : List Nat) (a : At) :
    strandAt (setFifo s c q l) a = strandAt s a := by
  by_cases h : a.c = c
  · subst h; simp [setFifo, strandAt]
  · simp [setFifo, strandAt, coreAt_onCore_ne _ _ h]

@[simp] theorem queueAt_setQueue_same (s : State) (c q : Nat) (l : List Entry) : queueAt (setQueue s c q l) c q = l := by
  simp [queueAt, setQueue]

theorem queueAt_setQueue_ne (s : State) {c q d r : Nat} (l : List Entry) (h : d ≠ c ∨ r ≠ q) :
    queueAt (setQueue s c q l) d r = queueAt s d r := by
  by_cases hc : d = c
  · subst hc
    have hr : r ≠ q := by tauto
    simp [queueAt, setQueue, tabGet_put_ne _ _ _ hr]
  · simp [queueAt, setQueue, coreAt_onCore_ne _ _ hc]

@[simp] theorem fifoAt_setFifo_same (s : State) (c f : Nat) (l : List Nat) : fifoAt (setFifo s c f l) c f = l := by
  simp [fifoAt, setFifo]

theorem fifoAt_setFifo_ne (s : State) {c f d r : Nat} (l : List Nat) (h : d ≠ c ∨ r ≠ f) :
    fifoAt (setFifo s c f l) d r = fifoAt s d r := by
  by_cases hc : d = c
  · subst hc
    have hr : r ≠ f := by tauto
    simp [fifoAt, setFifo, tabGet_put_ne _ _ _ hr]
  · simp [fifoAt, setFifo, coreAt_onCore_ne _ _ hc]

@[simp] theorem fifoAt_setQueue (s : State) (c q : Nat) (l : List Entry) (d f : Nat) :
    fifoAt (setQueue s c q l) d f = fifoAt s d f := by
  by_cases h : d = c
  · subst h; simp [fifoAt, setQueue]
  · simp [fifoAt, setQueue, coreAt_onCore_ne _ _ h]

@[simp] theorem queueAt_setFifo (s : State) (c f : Nat) (l : List Nat) (d q : Nat) :
    queueAt (setFifo s c f l) d q = queueAt s d q := by
  by_cases h : d = c
  · subst h; simp [queueAt, setFifo]
  · simp [queueAt, setFifo, coreAt_onCore_ne _ _ h]

@[simp] theorem jobAt_onJob_same (s : State) (j : Nat) (f : Job → Job) : jobAt (onJob s j f) j = f (jobAt s j) := by
  simp [jobAt, onJob]

theorem jobAt_onJob_ne (s : State) {j i : Nat} (f : Job → Job) (h : i ≠ j) : jobAt (onJob s j f) i = jobAt s i := by
  simp [jobAt, onJob, tabGet_put_ne _ _ _ h]

@[simp] theorem ctxAt_onCtx_same (s : State) (n : Nat) (f : Ctx → Ctx) : ctxAt (onCtx s n f) n = f (ctxAt s n) := by
  simp [ctxAt, onCtx]

theorem ctxAt_onCtx_ne (s : State) {n i : Nat} (f : Ctx → Ctx) (h : i ≠ n) : ctxAt (onCtx s n f) i = ctxAt s i := by
  simp [ctxAt, onCtx, tabGet_put_ne _ _ _ h]

@[simp] theorem dieAt_onDie_same (s : State) (d : Nat) (f : Die → Die) : dieAt (onDie s d f) d = f (dieAt s d) := by
  simp [dieAt, onDie]

theorem dieAt_onDie_ne (s : State) {d i : Nat} (f : Die → Die) (h : i ≠ d) : dieAt (onDie s d f) i = dieAt s i := by
  simp [dieAt, onDie, tabGet_put_ne _ _ _ h]

@[simp] theorem clusterAt_onCluster_same (s : State) (k : Nat) (f : Cluster → Cluster) : clusterAt (onCluster s k f) k = f (clusterAt s k) := by
  simp [clusterAt, onCluster]

theorem clusterAt_onCluster_ne (s : State) {k i : Nat} (f : Cluster → Cluster) (h : i ≠ k) : clusterAt (onCluster s k f) i = clusterAt s i := by
  simp [clusterAt, onCluster, tabGet_put_ne _ _ _ h]

@[simp] theorem unitAt_onUnit_same (s : State) (n : Nat) (f : PoolUnit → PoolUnit) : unitAt (onUnit s n f) n = f (unitAt s n) := by
  simp [unitAt, onUnit]

theorem unitAt_onUnit_ne (s : State) {n i : Nat} (f : PoolUnit → PoolUnit) (h : i ≠ n) : unitAt (onUnit s n f) i = unitAt s i := by
  simp [unitAt, onUnit, tabGet_put_ne _ _ _ h]

@[simp] theorem slotAt_onSlot_same (s : State) (n : Nat) (f : Slot → Slot) : slotAt (onSlot s n f) n = f (slotAt s n) := by
  simp [slotAt, onSlot]

theorem slotAt_onSlot_ne (s : State) {n i : Nat} (f : Slot → Slot) (h : i ≠ n) : slotAt (onSlot s n f) i = slotAt s i := by
  simp [slotAt, onSlot, tabGet_put_ne _ _ _ h]

@[simp] theorem hartAt_onHart_same (s : State) (n : Nat) (f : Hart → Hart) : hartAt (onHart s n f) n = f (hartAt s n) := by
  simp [hartAt, onHart]

theorem hartAt_onHart_ne (s : State) {n i : Nat} (f : Hart → Hart) (h : i ≠ n) : hartAt (onHart s n f) i = hartAt s i := by
  simp [hartAt, onHart, tabGet_put_ne _ _ _ h]

@[simp] theorem monitorAt_onMonitor_same (s : State) (m : Nat) (f : Monitor → Monitor) : monitorAt (onMonitor s m f) m = f (monitorAt s m) := by
  simp [monitorAt, onMonitor]

theorem monitorAt_onMonitor_ne (s : State) {m i : Nat} (f : Monitor → Monitor) (h : i ≠ m) : monitorAt (onMonitor s m f) i = monitorAt s i := by
  simp [monitorAt, onMonitor, tabGet_put_ne _ _ _ h]

@[simp] theorem spanAt_onSpan_same (s : State) (p : Nat) (f : Span → Span) : spanAt (onSpan s p f) p = f (spanAt s p) := by
  simp [spanAt, onSpan]

theorem spanAt_onSpan_ne (s : State) {p i : Nat} (f : Span → Span) (h : i ≠ p) : spanAt (onSpan s p f) i = spanAt s i := by
  simp [spanAt, onSpan, tabGet_put_ne _ _ _ h]

/-- The readers of other tables do not see a change of a strand. -/
@[simp] theorem jobAt_onStrand (s : State) (a : At) (f : Strand → Strand) (j : Nat) : jobAt (onStrand s a f) j = jobAt s j := rfl
@[simp] theorem ctxAt_onStrand (s : State) (a : At) (f : Strand → Strand) (n : Nat) : ctxAt (onStrand s a f) n = ctxAt s n := rfl
@[simp] theorem dieAt_onStrand (s : State) (a : At) (f : Strand → Strand) (d : Nat) : dieAt (onStrand s a f) d = dieAt s d := rfl
@[simp] theorem clusterAt_onStrand (s : State) (a : At) (f : Strand → Strand) (k : Nat) :
    clusterAt (onStrand s a f) k = clusterAt s k := rfl
@[simp] theorem unitAt_onStrand (s : State) (a : At) (f : Strand → Strand) (n : Nat) : unitAt (onStrand s a f) n = unitAt s n := rfl

end Sys2Proof.Machine
end

