-- ==== Sys2Proof/Laws/Issue.lean ====
section
/-! SUPPORT. Issue of CC instructions: ready operands are read, ready destinations written, and what an instruction that
issues leaves alone. -/

namespace Sys2Proof.Machine

theorem rdG_ready {s : State} {a : At} {n : Nat} (h : gBusy (strandAt s a) n = false) : rdG s a n = .ok (gVal (strandAt s a) n) := by
  simp [rdG, h]

theorem rd_ready {s : State} {a : At} {v : BitVec 6} (h : srcReady s a v) : rd s a v = .ok (src s a v) := by
  unfold rd src selVal
  split
  · next hv =>
    rcases h with h | h
    · omega
    · simp [rdG, h]
  · rfl

theorem rdP_ready {s : State} {a : At} {p : BitVec 3} (h : pReady s a p) : rdP s a p.toNat = .ok (pVal (strandAt s a) p.toNat) := by
  have h' : pBusy (strandAt s a) p.toNat = false := h
  simp [rdP, h']

/-- The state after a ready g destination is written. -/
def wroteG (s : State) (a : At) (d : BitVec 5) (n : BitVec 1) (l : Nat) (v : Dword) : State :=
  if n = 1 then s else onStrand s a (putGLat l d.toNat v)

theorem wrG_ready {s : State} {a : At} {d : BitVec 5} {n : BitVec 1} (h : dstReady s a d n) (l : Nat) (v : Dword) :
    wrG s a d n l v = .ok (wroteG s a d n l v) := by
  unfold wrG wroteG
  split
  · rfl
  · rcases h with h | h
    · contradiction
    · simp [h]

theorem wrP_ready {s : State} {a : At} {p : BitVec 3} (h : pReady s a p) (v : Bool) :
    wrP s a p.toNat v = .ok (onStrand s a (putP p.toNat v)) := by
  have h' : pBusy (strandAt s a) p.toNat = false := h
  simp [wrP, h']

theorem freeD_ready {s : State} {a : At} {d : BitVec 5} {n : BitVec 1} (h : dstReady s a d n) : freeD s a d n = .ok () := by
  unfold freeD freeG
  rcases h with h | h <;> simp [h]

/-- What an attempt to issue gives when the body goes through. -/
theorem issue_ok {len : Nat} {s : State} {body : At → State → Act Done} {a : At} {d : Done} (hr : runner s = some a)
    (hb : body a (seen s a) = .ok d) : issue len s body = .next (finish a len d) := by
  simp only [issue, hr]
  simp only [seen] at hb
  rw [hb]

theorem issue_trap {len : Nat} {s : State} {body : At → State → Act Done} {a : At} {c : Cause} (hr : runner s = some a)
    (hb : body a (seen s a) = .error (.trap c)) :
    issue len s body = .next (signalTrap (seen s a) a (ccTrap (seen s a) a c)) := by
  simp only [issue, hr]
  simp only [seen] at hb ⊢
  rw [hb]

theorem issue_wait {len : Nat} {s t : State} {body : At → State → Act Done} {a : At} {k : WaitKind} {w : Bool} {g : Nat}
    (hr : runner s = some a) (hb : body a (seen s a) = .error (.wait t k w g)) :
    issue len s body = .next (holdWait t a k w g) := by
  simp only [issue, hr]
  simp only [seen] at hb
  rw [hb]

/-! ## Frames of the shared updates -/

theorem Alone.refl (s : State) (a : At) {f : State → State} {k : Core → Core} : Alone s s a f k :=
  ⟨rfl, fun _ _ => rfl, rfl, fun _ _ => rfl⟩

theorem Alone.strand (s : State) (a : At) (g : Strand → Strand) {f : State → State} {k : Core → Core} :
    Alone s (onStrand s a g) a f k := by
  refine ⟨rfl, fun c h => congrArg k (coreAt_onStrand_ne s a g h), ?_, fun x h => ?_⟩
  · simp [coreAt_onStrand_same]
  · exact strandAt_onStrand_ne s g (by intro e; apply h; rw [At.mk.injEq] at e; exact e.2)

theorem Alone.trans {s t u : State} {a : At} {f : State → State} {k : Core → Core} (h : Alone s t a f k) (h' : Alone t u a f k) :
    Alone s u a f k :=
  ⟨h'.outside.trans h.outside, fun c hc => (h'.cores c hc).trans (h.cores c hc), h'.core.trans h.core,
    fun x hx => (h'.strands x hx).trans (h.strands x hx)⟩

/-- A frame that takes away nothing outside the cores takes away anything. -/
theorem Alone.weaken {s t : State} {a : At} (h : Alone s t a) (f : State → State) (k : Core → Core) : Alone s t a f k :=
  ⟨congrArg f h.outside, fun c hc => congrArg k (h.cores c hc), congrArg k h.core, h.strands⟩

/-- The strand after an instruction that goes on in sequence. -/
theorem follows_advance (len : Nat) (y : Dword) (t : Strand) : Follows len y t (advance len y .seq t) := by
  refine ⟨rfl, ⟨rfl, rfl, rfl⟩, fun h => ?_, fun h hl hs hc => ?_, fun h hl hs hc => ?_⟩
  · cases hl : t.loop with
    | none => simp [advance, seqNext, hl]
    | some l => simp [advance, seqNext, hl, h l hl]
  · simp [advance, seqNext, hl, hs, hc]
  · simp only [advance, seqNext, hl, hs, if_true, hc, if_false]
    split <;> simp [*]

/-- advance does not see what an update of the registers changed. -/
theorem Follows.of_eq {len : Nat} {y : Dword} {t t' u : Strand} (h : Follows len y t' u) (hy : t'.y = t.y) (hs : t'.slot = t.slot)
    (hp : t'.pc = t.pc) (hc : t'.lc = t.lc) (hl : t'.loop = t.loop) : Follows len y t u := by
  obtain ⟨h1, h2, h3, h4, h5⟩ := h
  exact ⟨by rw [← hy]; exact h1, by rw [← hs]; exact h2, by rw [← hp, ← hc, ← hl]; exact h3,
    by rw [← hp, ← hc, ← hl]; exact h4, by rw [← hp, ← hc, ← hl]; exact h5⟩

@[simp] theorem still_advance (len : Nat) (y : Dword) (t : Strand) : (advance len y .seq t).still = t.still := rfl

@[simp] theorem gVal_advance (len : Nat) (y : Dword) (t : Strand) (n : Nat) : gVal (advance len y .seq t) n = gVal t n := rfl
@[simp] theorem pVal_advance (len : Nat) (y : Dword) (t : Strand) (n : Nat) : pVal (advance len y .seq t) n = pVal t n := rfl
@[simp] theorem pend_advance (len : Nat) (y : Dword) (t : Strand) : (advance len y .seq t).pend = t.pend := rfl
@[simp] theorem g_advance (len : Nat) (y : Dword) (t : Strand) : (advance len y .seq t).g = t.g := rfl
@[simp] theorem p_advance (len : Nat) (y : Dword) (t : Strand) : (advance len y .seq t).p = t.p := rfl
@[simp] theorem k_advance (len : Nat) (y : Dword) (t : Strand) : (advance len y .seq t).k = t.k := rfl
@[simp] theorem e_advance (len : Nat) (y : Dword) (t : Strand) : (advance len y .seq t).e = t.e := rfl

@[simp] theorem gVal_putG_same {n : Nat} (v : Dword) (t : Strand) (h : n ≠ 0) : gVal (putG n v t) n = v := by
  simp [putG, gVal, h]

theorem gVal_putG_ne {n m : Nat} (v : Dword) (t : Strand) (h : m ≠ n) : gVal (putG n v t) m = gVal t m := by
  unfold putG gVal
  split
  · rfl
  · split
    · rfl
    · simp [tabGet_put_ne _ _ _ h]

theorem pend_putG (n : Nat) (v : Dword) (t : Strand) :
    (putG n v t).pend.filter (fun w => w.reg != n) = t.pend.filter (fun w => w.reg != n) := by
  unfold putG
  split
  · rfl
  · simp only [List.filter_filter]
    congr 1
    funext w
    by_cases h : w.reg = n <;> simp [h]

/-- A ready g destination written with latency 1 (R140, R144). -/
theorem wroteG_strand {s : State} {a : At} (d : BitVec 5) (n : BitVec 1) (v : Dword) :
    WroteG d n v (strandAt s a) (strandAt (wroteG s a d n 1 v) a) := by
  unfold wroteG
  split
  · next h => exact ⟨fun h0 => by rw [h0] at h; exact absurd h (by decide), fun _ _ => rfl, rfl, fun _ => rfl⟩
  · next h =>
    have hl : putGLat 1 d.toNat v = putG d.toNat v := by
      funext t; by_cases h0 : d.toNat = 0 <;> simp [putGLat, putG, h0]
    rw [strandAt_onStrand_same, hl]
    refine ⟨fun _ hd => gVal_putG_same v _ (fun e => hd (BitVec.eq_of_toNat_eq e)), fun r hr => ?_, pend_putG _ _ _, fun hk => ?_⟩
    · rcases hr with hr | hr
      · contradiction
      · exact gVal_putG_ne v _ hr
    · rcases hk with hk | hk
      · contradiction
      · subst hk; simp [putG]

/-- A ready g destination written with latency l (R144). -/
theorem wroteG_later {s : State} {a : At} {l : Nat} (hl : 1 < l) (d : BitVec 5) (n : BitVec 1) (v : Dword) :
    WillWriteG l d n v (strandAt s a) (strandAt (wroteG s a d n l v) a) := by
  unfold wroteG
  split
  · next h => exact ⟨rfl, by simp [h]⟩
  · next h =>
    rw [strandAt_onStrand_same]
    by_cases hd : d = 0
    · subst hd; exact ⟨by simp [putGLat], by simp [putGLat]⟩
    · have : d.toNat ≠ 0 := fun e => hd (BitVec.eq_of_toNat_eq e)
      have : ¬ l ≤ 1 := by omega
      have hk : ¬(n = 1 ∨ d = 0) := by tauto
      exact ⟨by simp [putGLat, *], by rw [if_neg hk]; simp [putGLat, *]⟩

theorem putGLat_other (l n : Nat) (v : Dword) (t : Strand) : (putGLat l n v t).noG = t.noG := by
  unfold putGLat
  split
  · rfl
  · split
    · unfold putG; split <;> rfl
    · rfl

/-- Two strands that agree but in their general registers agree in what the passing of an instruction reads. -/
theorem noG_place {t u : Strand} (h : u.noG = t.noG) :
    u.y = t.y ∧ u.slot = t.slot ∧ u.pc = t.pc ∧ u.lc = t.lc ∧ u.loop = t.loop := by
  have e1 : u.noG.y = t.noG.y := congrArg _ h
  have e2 : u.noG.slot = t.noG.slot := congrArg _ h
  have e3 : u.noG.pc = t.noG.pc := congrArg _ h
  have e4 : u.noG.lc = t.noG.lc := congrArg _ h
  have e5 : u.noG.loop = t.noG.loop := congrArg _ h
  exact ⟨e1, e2, e3, e4, e5⟩

/-- What follows an update of the general registers follows the strand before it. -/
theorem Follows.of_noG {len : Nat} {y : Dword} {t t' u : Strand} (h : Follows len y t' u) (hn : t'.noG = t.noG) :
    Follows len y t u := by
  obtain ⟨h1, h2, h3, h4, h5⟩ := noG_place hn
  exact h.of_eq h1 h2 h3 h4 h5

theorem still_noG_of {t u : Strand} (h : u.noG = t.noG) : u.still.noG = t.still.noG := by
  have : ∀ t : Strand, t.still.noG = t.noG.still := fun _ => rfl
  rw [this, this, h]

theorem wroteG_noG (s : State) (a : At) (d : BitVec 5) (n : BitVec 1) (l : Nat) (v : Dword) :
    (strandAt (wroteG s a d n l v) a).noG = (strandAt s a).noG := by
  unfold wroteG
  split
  · rfl
  · rw [strandAt_onStrand_same, putGLat_other]

theorem wroteG_alone (s : State) (a : At) (d : BitVec 5) (n : BitVec 1) (l : Nat) (v : Dword) : Alone s (wroteG s a d n l v) a := by
  unfold wroteG
  split
  · exact .refl _ _
  · exact .strand _ _ _

/-- The state after an instruction that has written a g destination and goes on in sequence. -/
theorem finish_wroteG (len : Nat) (s : State) (a : At) (d : BitVec 5) (n : BitVec 1) (v y : Dword) :
    DoneG len s (finish a len ⟨wroteG s a d n 1 v, y, .seq⟩) a d n v y := by
  have hn := wroteG_noG s a d n 1 v
  refine ⟨(wroteG_alone s a d n 1 v).trans (.strand _ _ _), ?_, ?_, ?_⟩
  · simp only [finish, strandAt_onStrand_same]
    obtain ⟨h1, h2, h3, h4⟩ := wroteG_strand (s := s) (a := a) d n v
    exact ⟨h1, h2, h3, h4⟩
  · simp only [finish, strandAt_onStrand_same]
    exact (follows_advance len y _).of_noG hn
  · simp only [finish, strandAt_onStrand_same, still_advance]
    exact still_noG_of hn

/-- The state after an instruction that leaves a write of latency l and goes on in sequence. -/
theorem finish_later {l : Nat} (hl : 1 < l) (len : Nat) (s : State) (a : At) (d : BitVec 5) (n : BitVec 1) (v y : Dword) :
    DoneLat l len s (finish a len ⟨wroteG s a d n l v, y, .seq⟩) a d n v y := by
  have hn := wroteG_noG s a d n l v
  refine ⟨(wroteG_alone s a d n l v).trans (.strand _ _ _), ?_, ?_, ?_⟩
  · simp only [finish, strandAt_onStrand_same]
    obtain ⟨h1, h2⟩ := wroteG_later (s := s) (a := a) hl d n v
    exact ⟨h1, h2⟩
  · simp only [finish, strandAt_onStrand_same]
    exact (follows_advance len y _).of_noG hn
  · simp only [finish, strandAt_onStrand_same, still_advance]
    exact still_noG_of hn

/-! ## The shared forms -/

theorem alu2_done {s : State} {a : At} {d : BitVec 5} {n : BitVec 1} {x y : BitVec 6} (f : Dword → Dword → Dword)
    (hr : runner s = some a) (hx : srcReady (seen s a) a x) (hy : srcReady (seen s a) a y) (hd : dstReady (seen s a) a d n) :
    ∃ t, alu2 d n x y f s = .next t ∧
      DoneG 4 (seen s a) t a d n (f (src (seen s a) a x) (src (seen s a) a y)) (f (src (seen s a) a x) (src (seen s a) a y)) := by
  refine ⟨_, issue_ok hr ?_, finish_wroteG 4 _ _ _ _ _ _⟩
  simp only [rd_ready hx, rd_ready hy, aluDone, wrG_ready hd]

theorem alu1_done {s : State} {a : At} {d : BitVec 5} {n : BitVec 1} {x : BitVec 6} (len : Nat) (f : Dword → Dword)
    (hr : runner s = some a) (hx : srcReady (seen s a) a x) (hd : dstReady (seen s a) a d n) :
    ∃ t, alu1 len d n x f s = .next t ∧
      DoneG len (seen s a) t a d n (f (src (seen s a) a x)) (f (src (seen s a) a x)) := by
  refine ⟨_, issue_ok hr ?_, finish_wroteG len _ _ _ _ _ _⟩
  simp only [rd_ready hx, aluDone, wrG_ready hd]

theorem lat2_done {s : State} {a : At} {d : BitVec 5} {n : BitVec 1} {x y : BitVec 6} {l : Nat} (hl : 1 < l)
    (f : Dword → Dword → Dword) (hr : runner s = some a) (hx : srcReady (seen s a) a x) (hy : srcReady (seen s a) a y)
    (hd : dstReady (seen s a) a d n) :
    ∃ t, lat2 l d n x y f s = .next t ∧
      DoneLat l 4 (seen s a) t a d n (f (src (seen s a) a x) (src (seen s a) a y)) 0 := by
  refine ⟨_, issue_ok hr ?_, finish_later hl 4 _ _ _ _ _ _⟩
  simp only [rd_ready hx, rd_ready hy, wrG_ready hd]

theorem lat1_done {s : State} {a : At} {d : BitVec 5} {n : BitVec 1} {x : BitVec 6} {l : Nat} (hl : 1 < l)
    (f : Dword → Dword) (hr : runner s = some a) (hx : srcReady (seen s a) a x) (hd : dstReady (seen s a) a d n) :
    ∃ t, lat1 l d n x f s = .next t ∧ DoneLat l 4 (seen s a) t a d n (f (src (seen s a) a x)) 0 := by
  refine ⟨_, issue_ok hr ?_, finish_later hl 4 _ _ _ _ _ _⟩
  simp only [rd_ready hx, wrG_ready hd]

/-! ## Completion of an instruction -/

/-- An instruction whose body goes through. -/
theorem Runs.of {i : Instr} {len : Nat} {s : State} {body : At → State → Act Done} {a : At} {d : Done} {P : State → Prop}
    (he : exec i s = issue len s body) (hr : runner s = some a) (hb : body a (seen s a) = .ok d) (h : P (finish a len d)) :
    Runs i s P := ⟨_, he.trans (issue_ok hr hb), h⟩

/-- An instruction that answers a next state under a weaker property. -/
theorem Runs.mono {i : Instr} {s : State} {P Q : State → Prop} (h : Runs i s P) (hpq : ∀ t, P t → Q t) : Runs i s Q := by
  obtain ⟨t, h1, h2⟩ := h
  exact ⟨t, h1, hpq t h2⟩

theorem runs2 {i : Instr} {s a d n x y} (f : Dword → Dword → Dword) (he : exec i s = alu2 d n x y f s)
    (hr : runner s = some a) (hx : srcReady (seen s a) a x) (hy : srcReady (seen s a) a y) (hd : dstReady (seen s a) a d n)
    {r : Dword} (h : f (src (seen s a) a x) (src (seen s a) a y) = r) :
    Runs i s (fun t => DoneG 4 (seen s a) t a d n r r) := by
  obtain ⟨t, h1, h2⟩ := alu2_done f hr hx hy hd
  exact ⟨t, he.trans h1, by rw [← h]; exact h2⟩

theorem runs1 {i : Instr} {s a d n x} (len : Nat) (f : Dword → Dword) (he : exec i s = alu1 len d n x f s)
    (hr : runner s = some a) (hx : srcReady (seen s a) a x) (hd : dstReady (seen s a) a d n)
    {r : Dword} (h : f (src (seen s a) a x) = r) :
    Runs i s (fun t => DoneG len (seen s a) t a d n r r) := by
  obtain ⟨t, h1, h2⟩ := alu1_done len f hr hx hd
  exact ⟨t, he.trans h1, by rw [← h]; exact h2⟩

theorem runsL2 {i : Instr} {s a d n x y} {l : Nat} (hl : 1 < l) (f : Dword → Dword → Dword) (he : exec i s = lat2 l d n x y f s)
    (hr : runner s = some a) (hx : srcReady (seen s a) a x) (hy : srcReady (seen s a) a y) (hd : dstReady (seen s a) a d n)
    {r : Dword} (h : f (src (seen s a) a x) (src (seen s a) a y) = r) :
    Runs i s (fun t => DoneLat l 4 (seen s a) t a d n r 0) := by
  obtain ⟨t, h1, h2⟩ := lat2_done hl f hr hx hy hd
  exact ⟨t, he.trans h1, by rw [← h]; exact h2⟩

theorem runsL1 {i : Instr} {s a d n x} {l : Nat} (hl : 1 < l) (f : Dword → Dword) (he : exec i s = lat1 l d n x f s)
    (hr : runner s = some a) (hx : srcReady (seen s a) a x) (hd : dstReady (seen s a) a d n)
    {r : Dword} (h : f (src (seen s a) a x) = r) :
    Runs i s (fun t => DoneLat l 4 (seen s a) t a d n r 0) := by
  obtain ⟨t, h1, h2⟩ := lat1_done hl f hr hx hd
  exact ⟨t, he.trans h1, by rw [← h]; exact h2⟩

end Sys2Proof.Machine
end

