-- ==== Sys2Proof/Tests/Slice0.lean ====
section
/-! SUPPORT. Tests of the model against the spec's words, encodings and examples, and the witnesses of the statements. -/

section

set_option Elab.async false

namespace Sys2Proof.Tests

open Sys2Proof.Machine

/-! ## Words written out from the encoding tables -/

/-- 07 and 08: ADD g3, g4, y0; ADDI g3, g0, 700; LEA g6, g20, g5, 3. -/
theorem test_words_integer : decodeWord 0x00612000 = .ok (.add 3 0 4 32) ∧ decodeWord 0x046002BC = .ok (.addi 3 0 0 700) ∧
    decodeWord 0x1CC50503 = .ok (.lea 6 0 20 5 3) := by decide +kernel

/-- 08: LD.n16 g5, [g6 + 6]; LD.d g2, [g1]; ST.d g9, [g20 - 8]. -/
theorem test_words_memory : decodeWord 0x2CB19003 = .ok (.ldN16 5 6 3) ∧ decodeWord 0x2C407000 = .ok (.ldD 2 1 0) ∧
    decodeWord 0x31253FFF = .ok (.stD 9 20 (-1)) := by decide +kernel

/-- 08: FMUL.s, FFMA.s, FCVT.kf8.f32 g4, g5, rna; EXP2.s g7, g7. -/
theorem test_words_float : decodeWord 0x3C610505 = .ok (.fmulS 3 0 4 5) ∧ decodeWord 0x43410801 = .ok (.ffmaS 26 0 4 8) ∧
    decodeWord 0x44814406 = .ok (.fcvtKf8F32 4 0 5 4) ∧ decodeWord 0x48E1C001 = .ok (.exp2S 7 0 7) := by decide +kernel

/-- 08: KBIT k3, k1, g7; EMIN e2, e2, g25. -/
theorem test_words_masks : decodeWord 0x4C60470A = .ok (.kbit 3 0 1 7) ∧ decodeWord 0x50409902 = .ok (.emin 2 0 2 25) := by
  decide +kernel

/-- 08: BR ~p2, -3; LOOPI 5 with a body of 4 words. -/
theorem test_words_branch : decodeWord 0x557FFFFD = .ok (.br 2 1 (-3)) ∧ decodeWord 0x60602005 = .ok (.loopi 3 5) := by
  decide +kernel

/-- 08: HALT, ERET, EVRET, PHASE.clus, MTS TPC, g24, SEGEND. -/
theorem test_words_system : decodeWord 0x64000001 = .ok .halt ∧ decodeWord 0x64000003 = .ok .eret ∧
    decodeWord 0x64000004 = .ok .evret ∧ decodeWord 0x6400000A = .ok .phaseClus ∧ decodeWord 0x64060306 = .ok (.mts 24 3) ∧
    decodeWord 0x6449D50F = .ok (.segend 2 2517) := by decide +kernel

/-- 09: COUT.sel, PGIN g1, g23, CPX.pl, CGATH.p, LKOP.fadd, TAKE VS, QDEPTH, QSEQ. -/
theorem test_words_copy : decodeWord 0x85122123 = .ok (.coutSel 2 1 4 8 9) ∧ decodeWord 0x9000DC00 = .ok (.pgin 0 0 1 23) ∧
    decodeWord 0x8812D401 = .ok (.cpxPl 0 1 5 21 0) ∧ decodeWord 0x9D06FA08 = .ok (.lkopFadd 2 0 13 30 16) ∧
    decodeWord 0x98010001 = .ok (.take 4) ∧ decodeWord 0x98008502 = .ok (.qdepth 0 0 2 5) ∧
    decodeWord 0x98C0C103 = .ok (.qseq 6 0 3 1) := by decide +kernel

/-- 10: VCHAIN, VPERM, VSEARCH.thr. -/
theorem test_words_vector : decodeWord 0xA0A298E0 = .ok (.vchain 1 2 5 6 7) ∧ decodeWord 0xB4242541 = .ok (.vperm 0 2 8 9 10) ∧
    decodeWord 0xB8E214C1 = .ok (.vsearchThr 1 6 4 5 6) := by decide +kernel

/-- 11: MLT g4, MGO. -/
theorem test_words_matrix : decodeWord 0xC0020000 = .ok (.mlt 0 0 4) ∧ decodeWord 0xC0A00001 = .ok (.mgo 1 2 0) := by decide +kernel

/-- 12: TALLOC g4, g2, g3; TINFO g5, g4; TDRAW g4; PUBV.clus; SWAIT g7; FORK g10, g11; CARD g9; MBPOST; MBTAKE g6, g11; TABND g7. -/
theorem test_words_tiles : decodeWord 0xD8808300 = .ok (.talloc 4 0 2 3) ∧ decodeWord 0xD8A10005 = .ok (.tinfo 5 0 4) ∧
    decodeWord 0xD8010003 = .ok (.tdraw 4) ∧ decodeWord 0xDC914600 = .ok (.pubv 1 1 5 6) ∧ decodeWord 0xDC01C004 = .ok (.swait 7) ∧
    decodeWord 0xE0028B00 = .ok (.fork 10 11) ∧ decodeWord 0xE1200003 = .ok (.card 9 0) ∧
    decodeWord 0xE4008300 = .ok (.mbpost 2 3) ∧ decodeWord 0xE4C2C001 = .ok (.mbtake 6 0 11) ∧
    decodeWord 0xD801C004 = .ok (.tabnd 7) := by decide +kernel

/-- 07: a long-immediate group. -/
theorem test_words_group : decodeGroup 0xFC000000 0x00012345 0x04E00000 = .ok (.liw 0x00012345 0x04E00000) ∧
    decodePrefixed 0x00012345 0x04E00000 = .ok (.addi 7 0 0 0) := by decide +kernel

/-- 14: step words of collective programs. -/
theorem test_words_steps : decodeStep 1 2 0x1000001010000000 = .ok (.csend 1 2 ⟨0, 1, 0, 0, 1, 0, 0, 0, 0, 0, 0⟩) ∧
    decodeStep 1 2 0x6200002000100000 = .ok (.cloop 1 2 0 1 2 1) ∧
    decodeStep 1 2 0x3000001018FF0000 = .ok (.crrs 1 2 ⟨0, 1, 0, 0, 1, 2, 0, 255, 0, 0, 0⟩) ∧ decodeStep 1 2 0 = .ok (.cend 1 2) := by
  decide +kernel

/-- 19: reserved parts with the code and the argument of R393 and R402. -/
theorem test_words_refused : (∀ p, p ∈ [(0x44814F0E, 0x01, 14), (0x44814F06, 0x07, 7), (0x00612800, 0x03, 40), (0xA2A298E0, 0x05, 2),
      (0x4C70470A, 0x02, 20)] →
      ∃ e, decodeWord (BitVec.ofNat 32 p.1) = .error e ∧ e.code = p.2.1 ∧ e.arg = p.2.2) ∧
    decodeWord 0xD4000000 = .error .reservedMajor := by
  constructor
  · simp only [List.forall_mem_cons]
    exact ⟨⟨_, rfl, rfl, rfl⟩, ⟨_, rfl, rfl, rfl⟩, ⟨_, rfl, rfl, rfl⟩, ⟨_, rfl, rfl, rfl⟩, ⟨_, rfl, rfl, rfl⟩, by simp⟩
  · decide +kernel

/-- The table's numbering of words: the first word lowest, zeros above. -/
theorem test_table_word : decodeTableWord 32 0x00612000 = some (.add 3 0 4 32) := by decide +kernel

/-! ## Ill-formed terms -/

/-- Every check of wellFormed refuses a term. -/
theorem test_ill_formed : ([.add 0 0 36 0, .lea 0 0 0 0 5, .fcvtF32F64 0 0 0 5, .mfs 0 0 23, .mts 0 13, .pubv 0 6 0 0,
    .liw 0 0, .csend 36 0 ⟨0, 0, 0, 0, 0, 0, 0, 0, 0, 0, 0⟩, .hostRegisterWrite 17 0 0, .graphSlotConfigWrite 0 3 0, .vfFlr 0,
    .vfFlr 17, .cfenceClear 36 0, .powerWake 7, .thermalTrip 6, .tileTableError 1734 0, .flitAck 24 0, .periodStart 1728,
    .taskStart 0 4, .waitExpiry 0 8, .settleExamine 0 64, .poolUnitCycle 1734, .kand 0 1 0 0, .emov 0 1 0,
    .remoteAccessHome 0 0 0 0 0 0, .remoteAccessHome 0 0 0 241 0 0] : List Instr).all (fun i => !wellFormed i) = true := by
  decide +kernel

/-- And admits their neighbours. -/
theorem test_well_formed : ([.add 0 0 35 0, .lea 0 0 0 0 4, .fcvtF32F64 0 0 0 4, .mfs 0 0 22, .mts 0 12, .pubv 0 5 0 0,
    .liw 0 0x04000000, .csend 35 0 ⟨0, 0, 0, 0, 0, 0, 0, 0, 0, 0, 0⟩, .hostRegisterWrite 16 0 0, .graphSlotConfigWrite 0 2 0,
    .vfFlr 1, .vfFlr 16, .cfenceClear 35 0, .powerWake 6, .thermalTrip 5, .tileTableError 1733 0, .flitAck 23 0,
    .periodStart 1727, .taskStart 0 3, .waitExpiry 0 7, .settleExamine 0 63, .poolUnitCycle 1733, .kand 0 0 0 0, .emov 0 0 0,
    .remoteAccessHome 0 0 0 1 0 0, .remoteAccessHome 0 0 0 240 0 0] : List Instr).all wellFormed = true := by
  decide +kernel

/-! ## A small machine -/

/-- Strand 0 of core 0. -/
def a0 : At := ⟨0, 0⟩

/-- Strand 0 of core 101, core 5 of cluster 2. -/
def a1 : At := ⟨101, 0⟩

/-- A task of job 1. -/
def task0 : Task := ⟨1, 0, 0, none, false, false, [], none, [], 0x10000, 0, [], [], [], 0⟩

/-- A running strand of job 1 at 0x10000 with a trap and an event vector. -/
def strand0 : Strand := { Strand.reset with
  status := .running, pc := 0x10000, tvec := 0x20000, evec := 0x30000, holder := some 1, segbud := 1000, task := some task0
  g := [(1, 6), (2, 7), (3, 0x2000000000000100), (4, 0x3000000000000200), (5, 0x1000000000000040), (6, 0x12340), (7, 17)]
  p := [(2, true)], k := [(1, 5)], e := [(2, 100)] }

/-- An issued job of context 0 on the first core of cluster 0. -/
def job0 : Job := { Job.none with phase := 1, live := 1, clusters := 1, nsets := 1, count := 100 }

/-- A machine whose job 1 holds the strand t, alone on core c, with the page of 0x10000 in the core's TLB. -/
def one (c : Nat) (t : Strand) : State := { State.reset with
  focus := c
  phase := 1
  dies := [(0, { Die.reset with pstate := 0 })]
  cores := [(c, { Core.reset c with strands := [(0, t)], turn := some 0, tlb := [⟨0, 0, 1, 0x1000F, 0⟩] })]
  ctxs := [(0, { Ctx.reset with ptroot := 0x8000, savebase := 0x400000, nwrCount := 4 })]
  jobs := [(1, job0)]
  dev := { Device.reset with stage := 3, plim := 1500, pkg := 0 } }

/-- The machine of most tests. -/
def s0 : State := one 0 strand0

/-- What f reads after an instruction, where it answers a next state. -/
def after {α : Type} (i : Instr) (s : State) (f : State → α) : Option α := match exec i s with | .next t => some (f t) | _ => none

/-- A general register of strand a0. -/
def g (n : Nat) (s : State) : Nat := (gVal (strandAt s a0) n).toNat

/-- s0 with strand a0 changed. -/
def with0 (f : Strand → Strand) : State := one 0 (f strand0)

/-- s0 with register n at v. -/
def withG (n v : Nat) : State := with0 (fun t => { t with g := tabPut t.g n (BitVec.ofNat 64 v) })

/-! ## One step each, with the results that the spec's tables and examples give -/

/-- 08 R162: the sum wraps, and y0 takes it. -/
theorem test_add_wraps : after (.add 3 0 1 2) (withG 1 (2 ^ 64 - 2)) (fun s => (g 3 s, (strandAt s a0).y)) =
    some (5, [5, 0, 0, 0]) := by decide +kernel

/-- 08 R162: nw keeps d; the latch takes the value. -/
theorem test_add_nw : after (.add 3 1 1 2) s0 (fun s => (g 3 s, (strandAt s a0).y)) = some (0x2000000000000100, [13, 0, 0, 0]) := by
  decide +kernel

/-- 08 R162: signed and unsigned readings of all ones. -/
theorem test_min_sar : after (.min 3 0 1 2) (withG 1 (2 ^ 64 - 1)) (g 3) = some (2 ^ 64 - 1) ∧
    after (.minn 3 0 1 2) (withG 1 (2 ^ 64 - 1)) (g 3) = some 7 ∧ after (.sar 3 0 1 2) (withG 1 (2 ^ 63)) (g 3) = some (2 ^ 64 - 2 ^ 56) := by
  decide +kernel

/-- 08 R162: the counts of 0 are 64, 64 and 0. -/
theorem test_counts_of_zero : after (.clz 3 0 0) s0 (g 3) = some 64 ∧ after (.ctz 3 0 0) s0 (g 3) = some 64 ∧
    after (.popc 3 0 0) s0 (g 3) = some 0 := by decide +kernel

/-- 08 R164: LEA scales its second operand. -/
theorem test_lea : after (.lea 8 0 1 2 3) s0 (g 8) = some 62 := by decide +kernel

/-- 07 R144: the product of 6 and 7 is exposed for 3 slots, and 0 stands in y0. -/
theorem test_mul_exposed : after (.mul 5 0 1 2) s0 (fun s => ((strandAt s a0).pend, (strandAt s a0).y)) =
    some ([⟨3, 5, 42⟩], [0, 0, 0, 0]) := by decide +kernel

/-- 08 R165: division by 0 gives all ones and leaves the dividend as the remainder. -/
theorem test_divide_by_zero : after (.div 5 0 1 0) s0 (fun s => (strandAt s a0).pend) = some [⟨18, 5, -1⟩] ∧
    after (.rem 5 0 1 0) s0 (fun s => (strandAt s a0).pend) = some [⟨18, 5, 6⟩] := by decide +kernel

/-- 08 R166: a write to p0 is discarded. -/
theorem test_predicates : after (.pltn 3 1 2) s0 (fun s => pVal (strandAt s a0) 3) = some true ∧
    after (.ptog 0) s0 (fun s => pVal (strandAt s a0) 0) = some true := by decide +kernel

/-- 08 R167: with p0 and inv, SEL takes b. -/
theorem test_sel : after (.sel 8 0 1 2 1 0) s0 (g 8) = some 7 ∧ after (.sel 8 0 1 2 0 2) s0 (g 8) = some 6 := by decide +kernel

/-- 08 R168: a sign-extending load of local pond. -/
theorem test_load_signed : after (.ldS16 8 3 1) (storeN s0 (locPond 0 0x102) [0xFE, 0xFF]) (fun s => (strandAt s a0).pend) =
    some [⟨4, 8, -2⟩] := by decide +kernel

/-- 08 R168: a store of two bytes writes two bytes. -/
theorem test_store_half : after (.stH 6 3 0) s0 (fun s => loadN s (locPond 0 0xFF) 4) = some [0, 0x40, 0x23, 0] := by decide +kernel

/-- 08 R170: STF fills its granule; LDF of an empty one waits. -/
theorem test_full_empty : after (.stfW 6 3 0) s0 (fun s => (isFull s 0 0x10F, isFull s 0 0x110)) = some (true, false) ∧
    after (.ldfWTake 8 3 0) s0 (fun s => (strandAt s a0).status) = some .waiting := by decide +kernel

/-- 08 R171: an atomic gives the old value and leaves the sum. -/
theorem test_atomic_add : after (.aaddW 8 0 5 2) (storeN s0 (locLake 0 0x40) [9, 0, 0, 0])
    (fun s => (loadN s (locLake 0 0x40) 4, (strandAt s a0).sb.map (·.val))) = some ([16, 0, 0, 0], [some 9]) := by decide +kernel

/-- 19 R406: a misaligned word traps with 0x20. -/
theorem test_misaligned : after (.ldN32 8 6 0) (withG 6 0x2000000000000101) (fun s => ((strandAt s a0).tcause, (strandAt s a0).pc)) =
    some (0x20, 0x20000) := by decide +kernel

/-- 08, worked example: 0x3F880000 rounds to the kf8 value 0x39 under rna. -/
theorem test_convert_kf8 : after (.fcvtKf8F32 8 0 6 4) (withG 6 0x3F880000) (fun s => (strandAt s a0).pend) = some [⟨4, 8, 0x39⟩] := by
  decide +kernel

/-- 08 R173: 1.5 × 2 + 1 = 4 in FP32. -/
theorem test_ffma : after (.ffmaS 8 0 6 7) (with0 (fun t => { t with g := [(6, 0x3FC00000), (7, 0x40000000), (8, 0x3F800000)] }))
    (fun s => (strandAt s a0).pend) = some [⟨4, 8, 0x40800000⟩] := by decide +kernel

/-- 08 R176: KFFS of 0 is 16; a shift by 16 gives 0. -/
theorem test_masks : after (.kffs 8 0 0) s0 (g 8) = some 16 ∧
    after (.kshl 3 0 1 7) (withG 7 16) (fun s => kVal s a0 3) = some 0 := by decide +kernel

/-- 08 R177: the shape registers saturate. -/
theorem test_shapes : after (.esub 2 0 2 6) s0 (fun s => eVal s a0 2) = some 0 ∧
    after (.eadd 2 0 2 6) (withG 6 (2 ^ 32 - 1)) (fun s => eVal s a0 2) = some (2 ^ 32 - 1) := by decide +kernel

/-- 08 R178: a taken branch counts words from its own. -/
theorem test_branch : after (.br 2 0 (-3)) s0 (fun s => (strandAt s a0).pc) = some 0xFFF4 ∧
    after (.br 2 1 (-3)) s0 (fun s => (strandAt s a0).pc) = some 0x10004 := by decide +kernel

/-- 08 R179: JAL links the address that follows it. -/
theorem test_jal : after (.jal 31 0 4) s0 (fun s => (g 31 s, (strandAt s a0).pc)) = some (0x10004, 0x10010) := by decide +kernel

/-- 08 R180, 19 R404: a target that is no instruction address traps with 0x25. -/
theorem test_jr_odd : after (.jr 31 0 6 0) (withG 6 0x12342) (fun s => ((strandAt s a0).tcause, g 31 s)) = some (0x25, 0) := by
  decide +kernel

/-- 08 R183: a loop of no passes goes on behind its body. -/
theorem test_loopi_zero : after (.loopi 0 0) s0 (fun s => ((strandAt s a0).pc, (strandAt s a0).loop)) = some (0x10008, none) := by
  decide +kernel

/-- 08 R186, 18 R381: TRAP names its operand and the address behind it. -/
theorem test_trap : after (.trap 2) s0 (fun s => let t := strandAt s a0; (t.tcause, t.tpc, tabGet 0 t.targ 0, t.tl, t.pc)) =
    some (0x1F, 0x10004, 7, 1, 0x20000) := by decide +kernel

/-- 18 R385: a return without a frame traps with 0x81. -/
theorem test_eret_without_frame : after .eret s0 (fun s => (strandAt s a0).tcause) = some 0x81 := by decide +kernel

/-- 08 R187: a return without an event traps with 0x82. -/
theorem test_evret_without_event : after .evret s0 (fun s => (strandAt s a0).tcause) = some 0x82 := by decide +kernel

/-- 07 R146: the read-only registers 15 to 17 of core 101. -/
theorem test_mfs : after (.mfs 8 0 15) (one 101 strand0) (fun s => (gVal (strandAt s a1) 8).toNat) = some 5 ∧
    after (.mfs 8 0 16) (one 101 strand0) (fun s => (gVal (strandAt s a1) 8).toNat) = some 2 := by decide +kernel

/-- 19 R407: a value wider than its register traps with 0x02. -/
theorem test_mts_wide : after (.mts 6 12) (withG 6 (2 ^ 32)) (fun s => (strandAt s a0).tcause) = some 0x02 := by decide +kernel

/-- 08 R190: SEGEND reads its cost code. -/
theorem test_segend : after (.segend 2 0x123) s0 (fun s => let t := strandAt s a0; (t.status, t.cost, t.energy)) =
    some (.ready, 0x12 * 8, 2) := by decide +kernel

/-- 08 R193: PARK on a pending word takes its value. -/
theorem test_park_pending : after (.park 8 0 0) { s0 with nw := [(0, ⟨77, true, none, none, 0, 0⟩)] } (fun s => (g 8 s, (nwAt s 0).pending)) =
    some (77, false) := by decide +kernel

/-- 09 R216: GIVE, and TAKE of what it gave. -/
theorem test_tokens : after (.give 4) s0 (fun s => fifoAt s 0 4) = some [0] ∧
    after (.take 4) (setFifo s0 0 4 [0, 0]) (fun s => fifoAt s 0 4) = some [0] := by decide +kernel

/-- 09 R217: QDEPTH gives the depth it replaces; 0 traps with 0x18. -/
theorem test_qdepth : after (.qdepth 8 0 2 2) s0 (fun s => (g 8 s, tabGet 0 (strandAt s a0).depth 2)) = some (16, 7) ∧
    after (.qdepth 8 0 2 0) s0 (fun s => (strandAt s a0).tcause) = some 0x18 := by decide +kernel

/-- Pool 3 of core 101 as in the examples of 05 and 12. -/
def pooled (t : Strand) : State := { one 101 t with
  units := [(101, { PoolUnit.reset with pools := [(3, { Pool.none with valid := true, base := 0xC0000, size := 16, nparts := 1, quota := [16, 16, 16, 16] })] })] }

/-- 12, worked example: TALLOC of 700 bytes gives the first handle and takes 3 granules. -/
theorem test_talloc : after (.talloc 4 0 2 3) (pooled { strand0 with g := [(2, 0x30C5000000020011), (3, 700)] })
    (fun s => (gVal (strandAt s a1) 4, (poolAt (unitAt s 101) 3).h, (poolAt (unitAt s 101) 3).gen)) =
    some (0x30C00040005C0000, 3, 1) := by decide +kernel

/-- 12, worked example: TINFO of the new tile. -/
theorem test_tinfo : after (.tinfo 5 0 4) { pooled { strand0 with g := [(4, 0x30C00040005C0000)] } with
      units := [(101, { (unitAt (pooled strand0) 101) with
        tiles := [⟨3, 3, 1, 0, 3, 2, 0x11, 0, 0, 1, 1, 0, false, false⟩] })] } (fun s => gVal (strandAt s a1) 5) =
    some 0x0002001100000100 := by decide +kernel

/-- 02 R25: a child stands at the head of the deque, one deeper. -/
theorem test_fork : after (.fork 6 2) s0 (fun s => ((coreAt s 0).deque.map (fun e => (e.entry, e.arg, e.depth)), joinCount s 0)) =
    some ([(0x12340, 7, 1)], 1) := by decide +kernel

/-- 02 R29: of 100 records on 8 cores the first chunk has 7. -/
theorem test_card_serve : after .cardServe { s0 with
      jobs := [(1, { job0 with ncore := 7 })], cards := [⟨0, 0, 1, 5⟩]
      cores := [(0, { Core.reset 0 with strands := [(0, { strand0 with sb := [⟨5, .g 9, false, false, none⟩] })] })] }
    (fun s => ((jobAt s 1).dealt, (strandAt s a0).sb.map (fun b => b.val))) = some (7, [some (chunkWord (0, 7))]) := by decide +kernel

/-- 15 R360, the example: 620 goes to bin 10 of a log monitor. -/
theorem test_monitor : after (.monitorSample 0 620) { s0 with monitors := [(0, { Monitor.reset with sel := 1, ctl := 9 })], samples := [(0, 620)] }
    (fun s => let k := monitorAt s 0; (k.min, k.max, k.cnt, k.sum, nth k.bins 10)) = some (620, 620, 1, 620, 1) := by decide +kernel

/-- 21 R464: a supply fault ends every job and holds the package. -/
theorem test_supply_fault : after .supplyFault s0 (fun s => ((jobAt s 1).killed, s.dev.plim, s.dev.pkg)) = some (true, 0, 4) := by
  decide +kernel

/-- 21 R441: a launch before bring-up changes nothing but the log. -/
theorem test_launch_refused : after (.launch 0 0) State.reset (fun s => (s.jobs, (ctxAt s 0).launched)) = some ([], 0) := by decide +kernel

/-- 13 R304: the more urgent of two ready strands is chosen. -/
theorem test_choice : after (.strandChoice 0) { s0 with
      cores := [(0, { Core.reset 0 with strands := [(0, { strand0 with status := .ready, cls := 2 }), (1, { strand0 with status := .ready, cls := 1 })] })] }
    (fun s => (coreAt s 0).turn) = some (some 1) := by decide +kernel

/-- 07 R138: one step runs the word at the pc; the page of 0x10000 stands at 0x10000. -/
theorem test_step : (match step (storeN s0 0x10000 (leBytes 4 0x00612000)) with | .next s => some ((strandAt s a0).pc, g 3 s) | _ => none) =
    some (0x10004, 0x3000000000000200) := by decide +kernel

/-- The word that withFetchWord places is the next that runs. -/
theorem test_fetch_word : (match step (State.reset.withFetchWord 32 0x046002BC) with | .next s => some (g 3 s) | _ => none) = some 700 := by
  decide +kernel

/-! ## Witnesses: states and operands that meet the hypotheses of each statement, clause by clause -/

/-- Registers of every kind are ready in s0. -/
theorem witness_AluTwoOperands : runner s0 = some a0 ∧ srcReady (seen s0 a0) a0 1 ∧ srcReady (seen s0 a0) a0 35 ∧
    dstReady (seen s0 a0) a0 0 0 ∧ dstReady (seen s0 a0) a0 31 1 := by
  unfold srcReady dstReady; decide +kernel

theorem witness_AluImmediates : runner s0 = some a0 ∧ srcReady (seen s0 a0) a0 31 ∧ srcReady (seen s0 a0) a0 32 ∧
    dstReady (seen s0 a0) a0 31 0 ∧ pReady (seen s0 a0) a0 0 ∧ pReady (seen s0 a0) a0 7 := by
  unfold srcReady dstReady pReady; decide +kernel

/-- Each form that a prefix extends, the shifts at 63. -/
theorem witness_LongImmediates : runner s0 = some a0 ∧ srcReady (seen s0 a0) a0 1 ∧ dstReady (seen s0 a0) a0 5 0 ∧
    ([.addi 5 0 1 0, .andi 5 0 1 0, .ori 5 0 1 0, .xori 5 0 1 0, .shli 5 0 1 0, .shri 5 0 1 0, .sari 5 0 1 0, .roli 5 0 1 0,
      .seqi 5 0 1 0, .slti 5 0 1 0, .sltni 5 0 1 0] : List Instr).all (fun i =>
        decide (decodePrefixed 63 (encodeWord i) = .ok i)) = true := by
  unfold srcReady dstReady; decide +kernel

/-- A divisor of 1, of 0, and the quotient that does not fit. -/
theorem witness_MultiplyDivide : (let s := with0 (fun t => { t with g := [(1, 1), (2, BitVec.ofNat 64 (2 ^ 63)), (3, -1)] });
    runner s = some a0 ∧ srcReady (seen s a0) a0 1 ∧ srcReady (seen s a0) a0 3 ∧ dstReady (seen s a0) a0 4 0 ∧
    src (seen s a0) a0 1 ≠ 0 ∧ src (seen s a0) a0 0 = 0 ∧ (src (seen s a0) a0 2).toInt = -2 ^ 63 ∧ (src (seen s a0) a0 3).toInt = -1) := by
  unfold srcReady dstReady; decide +kernel

theorem witness_Predicates : runner s0 = some a0 ∧ pReady (seen s0 a0) a0 0 ∧ pReady (seen s0 a0) a0 7 ∧
    srcReady (seen s0 a0) a0 1 ∧ srcReady (seen s0 a0) a0 2 := by
  unfold srcReady pReady; decide +kernel

/-- Masks of all ones and of 0; shifts by 15 and 16. -/
theorem witness_MaskRegisters : (let s := with0 (fun t => { t with k := [(1, 65535)], g := [(1, 15), (2, 16)] });
    runner s = some a0 ∧ kVal (seen s a0) a0 0 < 2 ^ 16 ∧ kVal (seen s a0) a0 1 = 2 ^ 16 - 1 ∧ srcReady (seen s a0) a0 1 ∧
    srcReady (seen s a0) a0 2 ∧ dstReady (seen s a0) a0 4 0 ∧ pReady (seen s a0) a0 1) := by
  unfold srcReady dstReady pReady; decide +kernel

theorem witness_ShapeRegisters : (let s := with0 (fun t => { t with e := [(2, 2 ^ 32 - 1)] });
    runner s = some a0 ∧ eVal (seen s a0) a0 2 = 2 ^ 32 - 1 ∧ eVal (seen s a0) a0 3 < 2 ^ 32 ∧ srcReady (seen s a0) a0 1 ∧
    dstReady (seen s a0) a0 4 0) := by
  unfold srcReady dstReady; decide +kernel

/-- Operands that are no numbers among them. -/
theorem witness_FloatArithmetic : runner s0 = some a0 ∧ srcReady (seen s0 a0) a0 1 ∧ srcReady (seen s0 a0) a0 2 ∧
    dstReady (seen s0 a0) a0 4 0 ∧ gBusy (strandAt (seen s0 a0) a0) 4 = false ∧ decodeFmt 2 0x7FC00000 = .nan ∧
    decodeFmt 2 0x7F800000 ≠ .nan ∧ decodeFmt 1 0 ≠ .nan := by
  unfold srcReady dstReady; decide +kernel

theorem witness_FloatConversions : runner s0 = some a0 ∧ srcReady (seen s0 a0) a0 1 ∧ dstReady (seen s0 a0) a0 4 0 := by
  unfold srcReady dstReady; decide +kernel

/-- The last eight bytes of local pond, and a prefixed form. -/
theorem witness_LoadsOfLocalPond : (let s := withG 3 0x20000000000FFFF8;
    let base := src (seen s a0) a0 3;
    runner s = some a0 ∧ srcReady (seen s a0) a0 3 ∧ dstReady (seen s a0) a0 8 0 ∧ effAddr base 0 8 = 0x20000000000FFFF8 ∧
    checkAddr [0, 1, 2, 3] 8 8 base.toNat (effAddr base 0 8) = .ok () ∧ bits (effAddr base 0 8) 60 4 = 2 ∧
    placePoison (seen s a0) (lkeyOf (seen s a0) a0) (placeOf 0 (effAddr base 0 8)) 8 = none ∧
    decodePrefixed 0 (encodeWord (.ldD 8 3 0)) = .ok (.ldD 8 3 0) ∧ offCarry base 0 8 = false) := by
  unfold srcReady dstReady; decide +kernel

/-- Does an address reach this device, without poison? -/
def reaches (s : State) (ad : Nat) (wr : Bool) : Bool :=
  match reach (seen s a0) a0 ad wr with
  | .ok (u, r) => r.here && (match ccPoison u a0 r 8 with | .ok _ => true | _ => false)
  | _ => false

/-- The first words of a page, of the lake and of a cluster pond. -/
theorem witness_LoadsScoreboarded : runner s0 = some a0 ∧ srcReady (seen s0 a0) a0 4 ∧ srcReady (seen s0 a0) a0 5 ∧
    dstReady (seen s0 a0) a0 8 0 ∧ sbRoom (strandAt (seen s0 a0) a0) = true ∧
    [0x10000, 0x1000000000000040, 0x3000000000000200].all (fun ad => reaches s0 ad false &&
      decide (checkAddr [0, 1, 2, 3] 8 8 ad ad = .ok () ∧ bits ad 60 4 ≠ 2)) = true := by
  unfold srcReady dstReady; decide +kernel

theorem witness_Stores : s0.memOk ∧ runner s0 = some a0 ∧ srcReady (seen s0 a0) a0 3 ∧ gBusy (strandAt (seen s0 a0) a0) 0 = false ∧
    sbRoom (strandAt (seen s0 a0) a0) = true ∧
    [0x10000, 0x1000000000000040, 0x20000000000FFFF8, 0x3000000000000200].all (fun ad => reaches s0 ad true &&
      decide (checkAddr [0, 1, 2, 3] 8 8 ad ad = .ok ())) = true := by
  unfold State.memOk srcReady; decide +kernel

theorem witness_StoreFull : s0.memOk ∧ runner s0 = some a0 ∧ srcReady (seen s0 a0) a0 3 ∧ srcReady (seen s0 a0) a0 4 ∧
    gBusy (strandAt (seen s0 a0) a0) 1 = false ∧ sbRoom (strandAt (seen s0 a0) a0) = true ∧
    [0x20000000000FFFF8, 0x3000000000000200].all (fun ad => decide (checkAddr [2, 3] 8 8 ad ad = .ok ())) = true := by
  unfold State.memOk srcReady; decide +kernel

/-- A full granule and an empty one, of this core and of another. -/
theorem witness_LoadFull : (let s := { s0 with fe := [granule 0 0x100, granule 0 0x200] };
    runner s = some a0 ∧ srcReady (seen s a0) a0 3 ∧ dstReady (seen s a0) a0 8 0 ∧ sbRoom (strandAt (seen s a0) a0) = true ∧
    [0x2000000000000108, 0x3000000000000200].all (fun ad => decide (checkAddr [2, 3] 8 8 ad ad = .ok ()) &&
      isFull (seen s a0) (placeOf 0 ad).core (placeOf 0 ad).off &&
      decide (placePoison (seen s a0) (lkeyOf (seen s a0) a0) (placeOf 0 ad) 8 = none)) = true ∧
    [0x2000000000000110, 0x3000000000000400].all (fun ad => decide (checkAddr [2, 3] 8 8 ad ad = .ok ()) &&
      !isFull (seen s a0) (placeOf 0 ad).core (placeOf 0 ad).off) = true) := by
  unfold srcReady dstReady; decide +kernel

theorem witness_Atomics : s0.memOk ∧ runner s0 = some a0 ∧ srcReady (seen s0 a0) a0 5 ∧ srcReady (seen s0 a0) a0 2 ∧
    dstReady (seen s0 a0) a0 8 0 ∧ gBusy (strandAt (seen s0 a0) a0) 8 = false ∧ sbRoom (strandAt (seen s0 a0) a0) = true ∧
    reaches s0 0x1000000000000040 true = true ∧ checkAddr [0, 1, 2, 3] 8 8 0x1000000000000040 0x1000000000000040 = .ok () := by
  unfold State.memOk srcReady dstReady; decide +kernel

/-- A page of the symmetric heap, whose home is local index 5. -/
def heapState : State := { withG 6 0x10008 with
  clusters := [(0, { Cluster.reset with master := some 0 })]
  cores := [(0, { Core.reset 0 with
    strands := [(0, { strand0 with g := [(6, 0x10008)] })], turn := some 0, tlb := [⟨0, 0, 1, 0x8F + 5 * 2 ^ 44, 0⟩] })] }

theorem witness_RemoteAccesses : runner heapState = some a0 ∧ srcReady (seen heapState a0) a0 6 ∧ srcReady (seen heapState a0) a0 7 ∧
    sbRoom (strandAt (seen heapState a0) a0) = true ∧ gBusy (strandAt (seen heapState a0) a0) 8 = false ∧
    checkAddr [0, 1, 2, 3] 8 8 0x10008 0x10008 = .ok () ∧ bits 0x10008 60 4 = 0 ∧
    [false, true].all (fun w => match reach (seen heapState a0) a0 0x10008 w with | .ok (_, .remote _ l) => l == 5 | _ => false) = true := by
  unfold srcReady; decide +kernel

/-- Each check at the edge of its range: spaces 5 and 15; a space that is not listed; the first offsets past each space;
cluster member 48; a base of another space; an odd address; a range that runs over the end; and addresses that pass. -/
theorem witness_AddressChecks : (∀ x, x ∈ [0, 1, 2, 3, 4] → x ≤ 4) ∧
    [0x5000000000000000, 0xF000000000000000].all (fun ad => decide (5 ≤ ad / 2 ^ 60 % 16)) = true ∧
    (0x1000000000000000 / 2 ^ 60 % 16 ≤ 4 ∧ 0x1000000000000000 / 2 ^ 60 % 16 ∉ [0, 2]) ∧
    [2 ^ 52, 2 ^ 60 + 384 * 2 ^ 20, 2 * 2 ^ 60 + 2 ^ 20, 3 * 2 ^ 60 + 2 ^ 26, 4 * 2 ^ 60 + 2 ^ 14].all (fun ad =>
      match checkAddr [0, 1, 2, 3, 4] 1 1 ad ad with | .error c => c.code == 0x22 && c.a0 == ad | _ => false) = true ∧
    0x3000000003000000 / 2 ^ 20 % 64 = 48 ∧ 0x3000000002F00000 / 2 ^ 20 % 64 < 48 ∧ 0x2000000000000008 % 16 ≠ 0 ∧
    2 ^ 20 < 0x20000000000FFFF8 % 2 ^ 60 + 16 ∧ 0x20000000000FFFF8 % 2 ^ 60 + 8 ≤ 2 ^ 20 ∧
    (runner s0 = some a0 ∧ 35 < 36 ∧ gBusy (strandAt (seen s0 a0) a0) 1 = false ∧
      ∃ c, checkAddr [0, 1, 2, 3] 4 4 6 6 = .error c ∧ c.code = 0x20) := by
  refine ⟨by decide, by decide +kernel, by decide, by decide +kernel, by decide, by decide, by decide, by decide, by decide,
    by decide +kernel, by decide, by decide +kernel, ⟨_, rfl, rfl⟩⟩

/-- A predicate that is true and one that is false; targets within and outside the instruction addresses. -/
theorem witness_BranchesAndJumps : runner s0 = some a0 ∧ pReady (seen s0 a0) a0 2 ∧ pReady (seen s0 a0) a0 3 ∧
    pVal (strandAt (seen s0 a0) a0) 2 = true ∧ pVal (strandAt (seen s0 a0) a0) 3 = false ∧ dstReady (seen s0 a0) a0 31 0 ∧
    srcReady (seen s0 a0) a0 6 ∧ (let t := (src (seen s0 a0) a0 6 + BitVec.ofInt 64 (4 * 0)).toNat; t % 4 = 0 ∧ t < 2 ^ 52) ∧
    (let t := (src (seen s0 a0) a0 1 + BitVec.ofInt 64 (4 * 0)).toNat; t % 4 ≠ 0) ∧
    (let t := (src (seen s0 a0) a0 0 + BitVec.ofInt 64 (4 * -1)).toNat; 2 ^ 52 ≤ t) ∧
    decodePrefixed 3 (encodeWord (.br 0 0 0)) = .ok (.br 0 0 0) ∧ decodePrefixed 3 (encodeWord (.jal 0 0 0)) = .ok (.jal 0 0 0) ∧
    decodePrefixed 3 (encodeWord (.jr 0 0 6 0)) = .ok (.jr 0 0 6 0) := by
  unfold pReady srcReady dstReady; decide +kernel

/-- The page tables of context 0: the first gigabyte maps to itself. -/
def mapped (s : State) : State := storeN (storeN s 0x8000 (leBytes 8 0xA001)) 0xA000 [0xF]

/-- Bodies of one word and of 32 that end with an instruction; one whose last word is a prefix; one of no words. -/
theorem witness_Loops : runner s0 = some a0 ∧ srcReady (seen s0 a0) a0 6 ∧ (src (seen s0 a0) a0 6).toNat % 2 ^ 32 ≠ 0 ∧
    (src (seen s0 a0) a0 0).toNat % 2 ^ 32 = 0 ∧
    bodyEnds (seen s0 a0) 0 0x10008 2 0x10004 = true ∧ bodyEnds (seen s0 a0) 0 0x10084 33 0x10004 = true ∧
    (let s := mapped (storeN s0 0x10004 (leBytes 4 0xFC000000)); runner s = some a0 ∧ bodyEnds (seen s a0) (ctxOf (seen s a0) a0) 0x10008 2 0x10004 = false) ∧
    decodePrefixed 40 (encodeWord (.loop 6 0)) = .ok (.loop 6 0) ∧ decodePrefixed 40 (encodeWord (.loopi 1 0)) = .ok (.loopi 1 0) := by
  unfold srcReady; decide +kernel

/-- A table whose last entry covers the shape, and one without such an entry. -/
theorem witness_Schedule : runner s0 = some a0 ∧ srcReady (seen s0 a0) a0 3 ∧
    checkAddr [2] 64 64 0x2000000000000100 0x2000000000000100 = .ok () ∧
    (let s := storeN s0 (locPond 0 0x138) [100];
      let word (i : Nat) : Nat := leNat (loadN (seen s a0) (locPond 0 0x100 + 8 * i) 8);
      eVal (seen s a0) a0 2 ≤ word 7 % 2 ^ 32 ∧ ∀ j, j < 7 → ¬eVal (seen s a0) a0 2 ≤ word j % 2 ^ 32) ∧
    (∀ i, i < 8 → ¬eVal (seen s0 a0) a0 2 ≤ leNat (loadN (seen s0 a0) (locPond 0 0x100 + 8 * i) 8) % 2 ^ 32) := by
  unfold srcReady; decide +kernel

/-- A strand without accesses and one with; a task that is no card task; a gang of one and a gang with a member to come. -/
theorem witness_Barriers : runner s0 = some a0 ∧ accessesDone (seen s0 a0) a0 = true ∧
    (let s := with0 (fun t => { t with sb := [⟨0, .g 9, true, true, none⟩] }); runner s = some a0 ∧ accessesDone (seen s a0) a0 = false) ∧
    (strandAt (seen s0 a0) a0).task.any (·.card) = false ∧ strandEntries (seen s0 a0) a0 = [] ∧ released (seen s0 a0) a0 = true ∧
    (let s := with0 (fun t => { t with task := some { task0 with card := true } });
      runner s = some a0 ∧ (strandAt (seen s a0) a0).task.any (·.card) = true ∧ strandEntries (seen s a0) a0 = [] ∧
      released (seen s a0) a0 = true ∧
      after .phaseSys s (fun t => (strandAt t a0).status) = some .running ∧
      (let u := { s with jobs := [(1, { job0 with pending := [(0, 1)] })] };
        runner u = some a0 ∧ after .phaseSys u (fun t => (strandAt t a0).arrived) = some [8 * 0x10000 + 5])) := by
  decide +kernel

theorem witness_SegmentAndTaskEnds : runner s0 = some a0 ∧ (strandAt (seen s0 a0) a0).stopping = false ∧
    (let s := with0 (fun t => { t with stopping := true }); runner s = some a0 ∧ (strandAt (seen s a0) a0).stopping = true) ∧
    (strandAt (seen s0 a0) a0).task = some task0 ∧ strandEntries (seen s0 a0) a0 = [] ∧ released (seen s0 a0) a0 = true ∧
    countDeferred (seen s0 a0) 0 0 1 [] = .ok (seen s0 a0) ∧
    (let s := with0 (fun t => { t with sb := [⟨0, .none, true, false, none⟩] }); runner s = some a0 ∧ released (seen s a0) a0 = false) := by
  decide +kernel

theorem witness_TrapEntry : s0.memOk ∧ (strandAt s0 a0).tl < 2 ∧ (strandAt s0 a0).tvec ≠ 0 ∧ (ctxAt s0 (ctxOf s0 a0)).savebase ≠ 0 ∧
    (let s := with0 (fun t => { t with tl := 1 }); s.memOk ∧ (strandAt s a0).tl < 2 ∧ (strandAt s a0).tvec ≠ 0) := by
  unfold State.memOk; decide +kernel

/-- A strand that may stop at once and one that may not; level 2; no vector; no save area. -/
theorem witness_TrapCauses : (strandAt s0 a0).atStop = false ∧ (strandAt s0 a0).pendTrap = none ∧ stopReady s0 a0 = true ∧
    stopReady (with0 (fun t => { t with sb := [⟨0, .g 9, true, true, none⟩] })) a0 = false ∧
    runner s0 = some a0 ∧ srcReady (seen s0 a0) a0 2 ∧ stopReady (seen s0 a0) a0 = true ∧
    (strandAt (with0 (fun t => { t with tl := 2 })) a0).tl = 2 ∧ (strandAt (with0 (fun t => { t with tvec := 0 })) a0).tvec = 0 ∧
    (let s := { s0 with ctxs := [] }; (strandAt s a0).tvec ≠ 0 ∧ (ctxAt s (ctxOf s a0)).savebase = 0) := by
  unfold srcReady; decide +kernel

/-- A frame at the save area with the bytes l and no entry. -/
def frameOf (l : List Byte) : Frame := ⟨0x580000, l, [], [1, 2, 3, 4], [], 0, none, [], 0x1F, 0x10004, [], []⟩

/-- No frame; a frame that stands as it was written; one whose memory has changed. -/
theorem witness_TrapReturn : runner s0 = some a0 ∧ (strandAt (seen s0 a0) a0).frames = [] ∧
    (let s := with0 (fun t => { t with tl := 1, frames := [frameOf [0, 0]] });
      runner s = some a0 ∧ (strandAt (seen s a0) a0).frames = [] ++ [frameOf [0, 0]] ∧ strandEntries (seen s a0) a0 = [] ∧
      frameIntact (seen s a0) (frameOf [0, 0]) = true ∧ (frameOf [0, 0]).entries = []) ∧
    frameIntact (seen (with0 (fun t => { t with tl := 1, frames := [frameOf [0, 1]] })) a0) (frameOf [0, 1]) = false := by
  decide +kernel

/-- A waiting strand with a pending event, with a vector and without; a strand in its handler. -/
theorem witness_EventsOfStrands : (let t := { strand0 with status := .waiting, evq := [⟨1, 0x5000, 9, 0, 0, false⟩] };
      mayDeliver t = true ∧ t.evec ≠ 0 ∧ mayDeliver { t with evec := 0 } = true ∧ (strandAt (one 0 t) ⟨0, 0⟩).evq ≠ []) ∧
    runner s0 = some a0 ∧ (strandAt (seen s0 a0) a0).evslot = none ∧
    (let s := with0 (fun t => { t with evslot := some ⟨0x11000, [1, 2, 3, 4], 0, none⟩ });
      runner s = some a0 ∧ (strandAt (seen s a0) a0).evslot ≠ none) := by
  decide +kernel

theorem witness_ReadSystemRegister : runner s0 = some a0 ∧ dstReady (seen s0 a0) a0 8 0 := by
  unfold dstReady; decide +kernel

/-- Values at the edge of each width; a vector that is no instruction address; a good and a bad bank format. -/
theorem witness_WriteSystemRegister : runner s0 = some a0 ∧ srcReady (seen s0 a0) a0 1 ∧ 2 ^ 52 - 4 < 2 ^ 52 ∧ (2 ^ 52 - 4) % 4 = 0 ∧
    (2 ^ 52 - 1) % 4 ≠ 0 ∧ pfValid (coreAt (seen s0 a0) 0).regs 0 = true ∧ pfValid (coreAt (seen s0 a0) 0).regs (2 ^ 32 - 1) = false ∧
    (∀ q, q < 4 → queueAt (seen s0 a0) 0 q = []) := by
  unfold srcReady; decide +kernel

/-- A word that differs from b and one that equals it; a result queue with an entry and without; hart 31 and bit 63. -/
theorem witness_WaitsAndNotify : runner s0 = some a0 ∧ dstReady (seen s0 a0) a0 8 0 ∧ srcReady (seen s0 a0) a0 5 ∧
    srcReady (seen s0 a0) a0 2 ∧ checkAddr [0, 1, 2, 3] 8 8 0x1000000000000040 0x1000000000000040 = .ok () ∧
    reaches s0 0x1000000000000040 false = true ∧ (0 : Dword) ≠ src (seen s0 a0) a0 2 ∧ (0 : Dword) = src (seen s0 a0) a0 0 ∧
    (strandAt (seen s0 a0) a0).resq = [] ∧
    (let s := with0 (fun t => { t with resq := [5] }); runner s = some a0 ∧ (strandAt (seen s a0) a0).resq = [5]) ∧
    (let s := { with0 (fun t => { t with g := [(1, 31), (2, 63)] }) with harts := [(31, { Hart.reset with run := true })] };
      runner s = some a0 ∧ (src (seen s a0) a0 1).toNat < 32 ∧ (src (seen s a0) a0 2).toNat < 64 ∧
      (hartAt (seen s a0) (src (seen s a0) a0 1).toNat).run = true) := by
  unfold srcReady dstReady; decide +kernel

/-- The last word of the context's range, pending and not. -/
theorem witness_ParkAndWake : (let s := withG 1 3;
    runner s = some a0 ∧ srcReady (seen s a0) a0 1 ∧ dstReady (seen s a0) a0 8 0 ∧
    (let cx := ctxAt (seen s a0) (ctxOf (seen s a0) a0); cx.nwrFirst ≤ 3 ∧ 3 < cx.nwrFirst + cx.nwrCount) ∧
    (nwAt (seen s a0) 3).parked = none ∧ (nwAt (seen s a0) 3).pending = false ∧ (strandAt (seen s a0) a0).stopping = false ∧
    (let u := { s with nw := [(3, ⟨1, true, none, none, 0, 0⟩)] }; runner u = some a0 ∧ (nwAt (seen u a0) 3).pending = true)) := by
  unfold srcReady dstReady; decide +kernel

/-- What a resolution and the record of its draws answer, with room in queue q: 0 refused, 1 stalls, 2 pushed, 3 faulting. -/
def pushKind (s : State) (i : Instr) (q : Nat) (x y z : BitVec 5) (resolve : State → At → Nat → Nat → Nat → ResE) : Nat :=
  match resolve s a0 (fieldVal s a0 x) (fieldVal s a0 y) (fieldVal s a0 z) with
  | .error _ => 0
  | .ok r => if !pushRoom s a0 q then 1 else
    let e := newEntry s a0 q ((encode i).headD 0) 0 0 (fieldVal s a0 x) (fieldVal s a0 y) (fieldVal s a0 z) r;
    match recordDraws (pushCounted s a0 e) a0.c (jobAt s e.job).ctx e.job r.draws with
    | .ok _ => 2
    | .error _ => 3

/-- Operands of copies: a pond address, a lake address, a length, and a drawn handle with its length. -/
def copyG : Tab Dword := [(1, 0x2000000000000200), (2, 0x1000000000000080), (3, 64), (4, 0x30C00040005C0000), (5, BitVec.ofNat 64 (64 + 2 ^ 34))]

/-- A copy that is pushed, one of a wrong space, one in a full queue, one that draws a tile that does not live. -/
theorem witness_CopyWordsPush : (let s := with0 (fun t => { t with g := copyG });
    runner s = some a0 ∧ (∀ n, n < 6 → fieldReady (seen s a0) a0 (BitVec.ofNat 5 n)) ∧
    pushKind (seen s a0) (.cinL 0 0 1 2 3) 0 1 2 3 (resolveFlat [2, 3] [1]) = 2 ∧
    pushKind (seen s a0) (.cinL 0 0 2 1 3) 0 2 1 3 (resolveFlat [2, 3] [1]) = 0 ∧
    pushKind (seen s a0) (.cinP 0 0 1 4 5) 0 1 4 5 (resolveFlat [1, 2] [3]) = 3 ∧
    (let u := with0 (fun t => { t with g := copyG, depth := [(0, 0)] });
      runner u = some a0 ∧ pushKind (seen u a0) (.cinL 0 0 1 2 3) 0 1 2 3 (resolveFlat [2, 3] [1]) = 1)) := by
  unfold fieldReady; decide +kernel

/-- The page operands of PGIN: a far page of 1 GB is mapped at 0. -/
theorem witness_CopyWordsPush_pgin : (let s := with0 (fun t => { t with g := [] });
    let u := storeN (storeN s 0x8000 (leBytes 8 0xA001)) 0xA000 (leBytes 8 0x8000001F);
    runner u = some a0 ∧ fieldReady (seen u a0) a0 0 ∧
    (match resolvePgin (seen u a0) a0 (fieldVal (seen u a0) a0 0) (fieldVal (seen u a0) a0 0) 0 with | .ok r => r.draws == [] | _ => false) = true ∧
    pushRoom (seen u a0) a0 0 = true) := by
  unfold fieldReady; decide +kernel

/-- A region descriptor of 8 FP32 at h, drawn where h is a handle, in a strand with d slots of VQ. -/
def redState (d h : Nat) : State :=
  storeN (with0 (fun t => { t with
      depth := [(1, d)]
      g := [(1, 0x2000000000000300), (2, 0x2000000000000200), (3, 0x2000000000000204), (4, BitVec.ofNat 64 (2 ^ 39 + 2 * 2 ^ 16))] }))
    (locPond 0 0x200) (leBytes 16 (h * 2 ^ 64 + 2 ^ 62 + (if h % 2 ^ 38 = 0x5C0000 then 2 ^ 59 else 0) + 2 * 2 ^ 48 + 8 * 2 ^ 32 + 4))

/-- VRED.sum of a strided region of 8 FP32 in pond: pushed; from a wrong descriptor: refused; in a full queue; from a drawn
tile that does not live. -/
theorem witness_VectorWordsPush : (let s := redState 4 0x2000000000000400;
    let u := redState 0 0x2000000000000400;
    let v := redState 4 0x30C00040005C0000;
    runner s = some a0 ∧ (∀ n, n < 5 → fieldReady (seen s a0) a0 (BitVec.ofNat 5 n)) ∧
    pushKind (seen s a0) (.vredSum 0 0 1 2 4) 1 1 2 4 (resolveRed 0) = 2 ∧
    pushKind (seen s a0) (.vredSum 0 0 1 3 4) 1 1 3 4 (resolveRed 0) = 0 ∧
    runner u = some a0 ∧ pushKind (seen u a0) (.vredSum 0 0 1 2 4) 1 1 2 4 (resolveRed 0) = 1 ∧
    runner v = some a0 ∧ pushKind (seen v a0) (.vredSum 0 0 1 2 4) 1 1 2 4 (resolveRed 0) = 3) := by
  unfold fieldReady; decide +kernel

/-- MSWAP is pushed; MZERO of 16 is refused; a full queue; MLDW from a drawn tile that does not live. -/
theorem witness_MatrixWordsPush : (let f (d : Nat) : State := with0 (fun t => { t with g := [(1, 16), (2, 0x30C00040005C0000), (3, BitVec.ofNat 64 (5 * 2 ^ 32 + 2 ^ 31 + 7 * 2 ^ 5))], depth := [(2, d)] });
    let s := f 4;
    runner s = some a0 ∧ (∀ n, n < 4 → fieldReady (seen s a0) a0 (BitVec.ofNat 5 n)) ∧
    pushKind (seen s a0) (.mswap 0 0) 2 0 0 0 resolveMswap = 2 ∧
    pushKind (seen s a0) (.mzero 0 0 1) 2 1 0 0 (resolveMzero ((encode (.mzero 0 0 1)).headD 0)) = 0 ∧
    pushKind (seen s a0) (.mldwDense 0 0 2 3) 2 2 0 3 (resolveMldw 0) = 3 ∧
    (let u := f 0; runner u = some a0 ∧ pushKind (seen u a0) (.mswap 0 0) 2 0 0 0 resolveMswap = 1)) := by
  unfold fieldReady; decide +kernel

/-- A FIFO with room and a full one; one that holds a token of the strand behind another's, and one that does not; depths 1,
the size, 0 and one more. -/
theorem witness_TokensAndQueues : runner s0 = some a0 ∧ (fifoAt (seen s0 a0) 0 3).length < 16 ∧ 0 ∉ fifoAt (seen s0 a0) 0 3 ∧
    (let s := setFifo s0 0 4 (List.replicate 16 1); runner s = some a0 ∧ 16 ≤ (fifoAt (seen s a0) 0 4).length) ∧
    (let s := setFifo s0 0 4 [1, 0, 2]; runner s = some a0 ∧ fifoAt (seen s a0) 0 4 = [1] ++ a0.x :: [2] ∧ a0.x ∉ [1]) ∧
    (let s := with0 (fun t => { t with g := [(1, 1), (2, 32), (3, 33)] });
      runner s = some a0 ∧ dstReady (seen s a0) a0 8 0 ∧ srcReady (seen s a0) a0 1 ∧ srcReady (seen s a0) a0 2 ∧
      srcReady (seen s a0) a0 3 ∧ (src (seen s a0) a0 1).toNat = 1 ∧ (src (seen s a0) a0 2).toNat = 32 ∧
      (src (seen s a0) a0 0).toNat = 0 ∧ 32 < (src (seen s a0) a0 3).toNat) := by
  unfold srcReady dstReady; decide +kernel

/-- Registers of an allocation: its word and 700 bytes. -/
def allocG : Tab Dword := [(2, 0x30C5000000020011), (3, 700)]

/-- The pool's state at unit 101, changed by f. -/
def poolState (f : PoolUnit → PoolUnit) (t : Strand) : State :=
  { pooled t with units := [(101, f (unitAt (pooled t) 101))] }

/-- Checks that pass; a handle held; a request that is placed, one that waits and one that the unit refuses, in the pool as
it is, behind a request of the same partition, and in a trap-mode pool whose ring is full. -/
theorem witness_Allocation : (let t : Strand := { strand0 with g := allocG };
    let s := pooled t;
    let full (m : Bool) : State := poolState (fun u => { u with pools := [(3, { (poolAt u 3) with trapMode := m, u := 16, used := [14, 0, 0, 0] })] }) t;
    let answer (s : State) : Nat := match allocAnswer s 101 (allocReq s a1 false 0x30C5000000020011 700) with
      | .placed .. => 0 | .waits => 1 | .refused c => c.code;
    runner s = some a1 ∧ srcReady (seen s a1) a1 2 ∧ srcReady (seen s a1) a1 3 ∧ dstReady (seen s a1) a1 8 0 ∧
    (match allocCheck (seen s a1) a1 false 0 0x30C5000000020011 700 with | .ok _ => true | _ => false) = true ∧
    (match allocCheck (seen s a1) a1 true 0 0x30C5000000020011 1 with | .ok _ => true | _ => false) = true ∧
    grantOf (strandAt (seen s a1) a1) (2 * 0x10000) = none ∧ allocWaits (seen s a1) a1 0x10000 = false ∧
    allocUnit 101 0x30C5000000020011 = 101 ∧ unitQuiet (seen s a1) a1 101 = true ∧ (strandAt (seen s a1) a1).stopping = false ∧
    (let u := pooled { t with grant := [(2 * 0x10000, 5)] }; grantOf (strandAt (seen u a1) a1) (2 * 0x10000) = some 5) ∧
    answer (seen s a1) = 0 ∧ answer (seen (full false) a1) = 1 ∧ answer (seen (full true) a1) = 0x41) := by
  unfold srcReady dstReady; decide +kernel

/-- Each row of R429: the size and one more; the quota; the ring's edge; the tile table's last entry. -/
theorem witness_Allocation_rows : (let q := { Pool.none with valid := true, size := 16, nparts := 1, quota := [15, 0, 0, 0], trapMode := true };
    let w (n : Nat) : Alloc := ⟨3, 101, 0, 0x30C5000000020011, n, none, 1, 0x10000⟩;
    (w 17).head = none ∧ q.size < (w 17).need ∧ ((w 16).need ≤ q.size ∧ nth q.quota 0 < (w 16).need) ∧
    ((w 15).need ≤ nth q.quota 0 ∧ ringPlace q 0 15 = some (0, 0)) ∧
    ringPlace { q with u := 2, h := 2, t := 0, used := [2, 0, 0, 0] } 0 15 = none ∧
    511 < (if 101 < 1728 then 512 else 8192)) := by
  decide +kernel

/-- A raise at the edge of 16 bits; a handle of the form; a task that is executed again with an empty list and with 64
entries; TABND of a tag and of 0, with an operation on its way and without. -/
theorem witness_PoolOperations : (let t : Strand := { strand0 with g := [(4, 0x30C00040005C0000), (5, 65535)] };
    let s := pooled t;
    let again : Task := { task0 with restart := true };
    let u := pooled { t with task := some again };
    let v := poolState (fun n => { n with inbox := [⟨.tadd 0x30C00040005C0000 1, 101, 0, 1, 0, 0⟩] }) t;
    runner s = some a1 ∧ srcReady (seen s a1) a1 4 ∧ srcReady (seen s a1) a1 5 ∧ (src (seen s a1) a1 5).toNat < 65536 ∧
    hForm (src (seen s a1) a1 4).toNat = true ∧ (strandAt (seen s a1) a1).sb.any (·.load) = false ∧
    defers (strandAt (seen s a1) a1) = false ∧
    runner u = some a1 ∧ (strandAt (seen u a1) a1).task = some again ∧ again.restart = true ∧
    (strandAt (seen u a1) a1).sb.any (·.load) = false ∧
    deferRoom again.deferred (startHandle (seen u a1) (unitOf 101 0x30C00040005C0000) (ctxOf (seen u a1) a1) 0x30C00040005C0000) = true ∧
    runner v = some a1 ∧ (seen v a1).units.any (fun n => !unitQuiet (seen v a1) a1 n.1) = true ∧
    (seen s a1).units.any (fun n => !unitQuiet (seen s a1) a1 n.1) = false ∧ (src (seen s a1) a1 0).toNat = 0) := by
  unfold srcReady; decide +kernel

/-- A live drawn tile with fields at the edge of their widths; no tile; a handle of no form; a head. -/
theorem witness_TileStateRead : (let t : Strand := { strand0 with g := [(4, 0x30C00040005C0000), (5, 0x30C00080005C0000)] };
    let tile : Tile := ⟨3, 3, 1, 0, 3, 2 ^ 16 - 1, 2 ^ 16 - 1, 2 ^ 20 - 1, 0, 1, 1, 0, false, false⟩;
    let s := poolState (fun u => { u with tiles := [tile] }) t;
    let hd : Head := ⟨0, 1, 2 ^ 16 - 1, false, false, [], 1, 0⟩;
    let v := poolState (fun u => { u with tiles := [{ tile with kind := 3 }], heads := [(headKey 0 0x30C00040005C0000, hd)] }) t;
    runner s = some a1 ∧ srcReady (seen s a1) a1 4 ∧ srcReady (seen s a1) a1 5 ∧ srcReady (seen s a1) a1 0 ∧ dstReady (seen s a1) a1 8 0 ∧
    unitOf 101 0x30C00040005C0000 = 101 ∧ unitQuiet (seen s a1) a1 101 = true ∧
    unitQuiet (seen s a1) a1 (unitOf 101 0) = true ∧ hForm 0 = false ∧
    tileAt (seen s a1) 101 (ctxOf (seen s a1) a1) 0x30C00040005C0000 = some tile ∧
    hForm 0x30C00080005C0000 = true ∧ tileAt (seen s a1) 101 (ctxOf (seen s a1) a1) 0x30C00080005C0000 = none ∧
    runner v = some a1 ∧ tileAt (seen v a1) 101 (ctxOf (seen v a1) a1) 0x30C00040005C0000 = some { tile with kind := 3 } ∧
    headAt (seen v a1) 101 (ctxOf (seen v a1) a1) 0x30C00040005C0000 = some hd) := by
  unfold srcReady dstReady; decide +kernel

/-- A head at granule 0 and a drawn tile at granule 2 of the pool. -/
def headState (t : Strand) : State := poolState (fun u => { u with
  tiles := [⟨3, 3, 1, 0, 2, 1, 0, 0, 0, 3, 1, 0, false, false⟩, ⟨3, 3, 2, 2, 3, 2, 0x11, 0, 0, 1, 1, 0, false, false⟩]
  heads := [(headKey 0 0x30C00040005C0000, ⟨0, 1, 0, false, false, [], 1, 0⟩)] }) t

/-- A publication that the head admits and one of no head; a subscription and one of no head; a set that is settled and one
that is not. -/
theorem witness_Versions : (let t : Strand := { strand0 with g := [(4, 0x30C00040005C0000), (5, 0x30C00080005C0200), (6, 0x2000000000000100), (8, 0x30C000C0005C0000)] };
    let s := headState t;
    let pub (h : Nat) : Nat := match publish (seen s a1) 101 (ctxOf (seen s a1) a1) (jobOf (seen s a1) a1) h 0x30C00080005C0200 false 0 with
      | .ok (w, _) => if pBusy (strandAt w a1) 1 then 2 else 1 | .error _ => 0;
    let sub (h : Nat) : Nat := match readStruct (seen s a1) a1 0x2000000000000100 32 32 with
      | .error _ => 3
      | .ok (_, v) => match subFromBits (seen s a1) a1 0x2000000000000100 v with
        | .error _ => 4
        | .ok b => match subscribe (seen s a1) 101 (ctxOf (seen s a1) a1) (jobOf (seen s a1) a1) h b with
          | .ok (w, _) => if gBusy (strandAt w a1) 9 then 2 else 1
          | .error _ => 0;
    runner s = some a1 ∧ srcReady (seen s a1) a1 4 ∧ srcReady (seen s a1) a1 5 ∧ srcReady (seen s a1) a1 6 ∧ pReady (seen s a1) a1 1 ∧
    dstReady (seen s a1) a1 9 0 ∧ strandEntries (seen s a1) a1 = [] ∧ released (seen s a1) a1 = true ∧
    unitQuiet (seen s a1) a1 (unitOf 101 0x30C00040005C0000) = true ∧ pub 0x30C00040005C0000 = 1 ∧ pub 0x30C000C0005C0000 = 0 ∧
    sub 0x30C00040005C0000 = 1 ∧ sub 0x30C000C0005C0000 = 0 ∧ srcReady (seen s a1) a1 0 ∧
    (src (seen s a1) a1 0).toNat < (jobAt (seen s a1) (jobOf (seen s a1) a1)).nsets ∧
    settledSet (seen s a1) (jobOf (seen s a1) a1) 0 = false ∧ (strandAt (seen s a1) a1).stopping = false ∧
    (let u := pooled t; runner u = some a1 ∧ settledSet (seen u a1) (jobOf (seen u a1) a1) 0 = true)) := by
  unfold srcReady dstReady pReady; decide +kernel

/-- s0 whose deque is full. -/
def crowded (k : Task) : State := { one 0 { strand0 with task := some k, g := [(1, 6), (6, 0x12340), (8, BitVec.ofNat 64 (2 ^ 52 - 4))] } with
  cores := [(0, { Core.reset 0 with
    strands := [(0, { strand0 with task := some k, g := [(1, 6), (6, 0x12340), (8, BitVec.ofNat 64 (2 ^ 52 - 4))] })], turn := some 0
    tlb := [⟨0, 0, 1, 0x1000F, 0⟩]
    deque := (List.range 56).map (fun i => ⟨0x12340, 0, 1, 1, none, [], none, none, i⟩) ++
      (List.range 8).map (fun i => ⟨0x12340, 0, 1, 1, none, [], some i, none, 56 + i⟩) })] }

/-- A free general slot, a reserved one, none; the last instruction address and one past it; the deepest depth. -/
theorem witness_ChildrenPushed : (let deep : Task := { task0 with depth := 255 };
    let s := crowded task0;
    runner s0 = some a0 ∧ srcReady (seen s0 a0) a0 6 ∧ srcReady (seen s0 a0) a0 1 ∧ (strandAt (seen s0 a0) a0).task = some task0 ∧
    (src (seen s0 a0) a0 6).toNat % 4 = 0 ∧ (src (seen s0 a0) a0 6).toNat < 2 ^ 52 ∧ task0.depth < 255 ∧
    ccPerformed (seen s0 a0) a0 = true ∧ dequeSlot (coreAt (seen s0 a0) 0) task0.depth = some none ∧
    (src (seen s0 a0) a0 1).toNat % 4 ≠ 0 ∧ runner s = some a0 ∧ srcReady (seen s a0) a0 8 ∧
    (src (seen s a0) a0 8).toNat % 4 = 0 ∧ (src (seen s a0) a0 8).toNat < 2 ^ 52 ∧ 2 ^ 52 ≤ (src (seen s a0) a0 8).toNat + 4 ∧
    ccPerformed (seen s a0) a0 = true ∧ dequeSlot (coreAt (seen s a0) 0) task0.depth = none ∧ (strandAt (seen s a0) a0).stopping = false ∧
    runner (crowded deep) = some a0 ∧ (strandAt (seen (crowded deep) a0) a0).task = some deep ∧ 255 ≤ deep.depth) := by
  unfold srcReady; decide +kernel

/-- No slot, a quiet strand, a save area, a free frame; no child that lives and one. -/
theorem witness_InlineChildAndJoin : (let s := { (crowded task0) with joinCnt := [(0, 1)] };
    runner s = some a0 ∧ (strandAt (seen s a0) a0).task = some task0 ∧ srcReady (seen s a0) a0 6 ∧ srcReady (seen s a0) a0 1 ∧
    (src (seen s a0) a0 6).toNat % 4 = 0 ∧ (src (seen s a0) a0 6).toNat < 2 ^ 52 ∧ ccPerformed (seen s a0) a0 = true ∧
    dequeSlot (coreAt (seen s a0) 0) task0.depth = none ∧ quiet (seen s a0) a0 = true ∧
    (ctxAt (seen s a0) (ctxOf (seen s a0) a0)).savebase ≠ 0 ∧ framesUsed (seen s a0) 0 (ctxOf (seen s a0) a0) < 64 ∧
    joinCount (seen s a0) task0.id ≠ 0 ∧ (strandAt (seen s a0) a0).stopping = false ∧
    joinCount (seen s0 a0) task0.id = 0 ∧ runner s0 = some a0) := by
  unfold srcReady; decide +kernel

/-- A task that has never failed and one that gets a chunk again; a mailbox with 31 entries, with 32 and with none, its master
this core; a COLL of words at 0 and a block of zeros. -/
theorem witness_CardMailCollective : (let m : Mail := ⟨6, 7, 3, 0, 0, 1⟩;
    let box (n : Nat) : State := { s0 with clusters := [(0, { Cluster.reset with master := some 0, mail := List.replicate n m })] };
    let t := with0 (fun t => { t with task := some { task0 with regrants := [(0, 7)] } });
    s0.memOk ∧ (box 31).memOk ∧ (box 32).memOk ∧ (box 0).memOk ∧ t.memOk ∧
    runner s0 = some a0 ∧ dstReady (seen s0 a0) a0 8 0 ∧ task0.regrants = [] ∧ (strandAt (seen s0 a0) a0).task = some task0 ∧
    runner t = some a0 ∧ (strandAt (seen t a0) a0).task = some { task0 with regrants := (0, 7) :: [] } ∧
    (∀ n, n ∈ [0, 31, 32] → runner (box n) = some a0 ∧ srcReady (seen (box n) a0) a0 1 ∧ srcReady (seen (box n) a0) a0 3 ∧
      dstReady (seen (box n) a0) a0 8 0 ∧ ccPerformed (seen (box n) a0) a0 = true ∧
      (clusterAt (seen (box n) a0) 0).mail.length = n ∧ (clusterAt (seen (box n) a0) 0).master = some (0 % 48) ∧
      (strandAt (seen (box n) a0) a0).stopping = false ∧ (clusterAt (seen (box n) a0) 0).launches.length < 4 ∧
      released (seen (box n) a0) a0 = true) ∧
    checkAddr [2] 32 32 (src (seen (box 0) a0) a0 3).toNat (src (seen (box 0) a0) a0 3).toNat = .ok () ∧
    (clusterAt (seen (box 0) a0) 0).mail = [] ∧ (clusterAt (seen (box 31) a0) 0).mail = m :: List.replicate 30 m ∧
    collProg (src (seen (box 0) a0) a0 0).toNat = .ok () ∧
    (match readStruct (seen (box 0) a0) a0 (src (seen (box 0) a0) a0 3).toNat 64 64 with | .ok _ => true | _ => false) = true) := by
  unfold State.memOk srcReady dstReady; decide +kernel

/-- An entry of s0's strand in queue q, with op, its TAKE and GIVE bits. -/
def entryOf (q take give : Nat) (op : EngOp) : Entry := newEntry s0 a0 q 0 take give 0 0 0 ⟨op, [], []⟩

/-- s0 with the entry e alone in its queue. -/
def queued (e : Entry) : State := setQueue s0 0 e.q [e]

/-- The entry as its unit works on it. -/
def working (e : Entry) : Entry := { e with begun := true }

/-- A step of a state in canonical form: the word of test_step. -/
theorem witness_StepKeepsMemoryCanonical : (let s := storeN s0 0x10000 (leBytes 4 0x00612000);
    s.memOk ∧ (match step s with | .next _ => true | _ => false) = true) := by
  unfold State.memOk; decide +kernel

/-- The word at a strand's pc plus k, with the state in which it was fetched. -/
def wordAt (s : State) (k : Nat) : Option (State × List Byte) :=
  match translate s 0 (ctxOf s a0) (((strandAt s a0).pc.toNat + k) % 2 ^ 52) false true with
  | .ok (u, .ok loc) => if ccMiss s a0 (((strandAt s a0).pc.toNat + k) % 2 ^ 52) = false ∧ poisoned u loc 4 = none
      then some (u, loadN u loc 4) else none
  | _ => none

/-- A job that ends in the cycle of a GSTART; an event with nothing before it. -/
theorem witness_StepRunsDecoded_ends : ((endsFirst s0 .supplyFault).isNone = true ∧
    (endsFirst { s0 with jobs := [(1, { Job.none with phase := 1 })] } (.gstart 0 0)).isSome = true) := by
  decide +kernel

/-- A change from outside; an event on the agenda and a word that is none; a write of the host behind one not performed;
something due; nothing that is; nothing that runs; a pool unit that comes first; a word that decodes, a long-immediate group
and a word that decodes to nothing; a unit with work while a cycle closes, and none. -/
theorem witness_StepRunsDecoded : (let due := { s0 with phase := 0, cores := [(0, { (coreAt s0 0) with periodDue := true })] };
    let empty := { s0 with cores := [] };
    let busy := { (headState strand0) with units := [(101, { (unitAt (headState strand0) 101) with
      inbox := [⟨.tadd 0x30C00080005C0000 1, 101, 0, 1, 0, 0⟩] })] };
    let free := { s0 with phase := 2, cores := [(0, { (coreAt s0 0) with turn := none, strands := [(0, { strand0 with status := .ready })] })] };
    (takeInput due (.hostRead 0 0)).isSome = true ∧ due.inputs = [] ∧
    isEvent .supplyFault = true ∧ isEvent .join = false ∧ hostHeld due .supplyFault = false ∧
    hostHeld { due with dev := { due.dev with pkg := 3, plim := 0 } } (.hostBar2Access 0 1 0 0 0) = true ∧
    due.agenda = [] ∧ (internalOp due).isSome = true ∧ due.phase = 0 ∧
    empty.agenda = [] ∧ (internalOp { empty with phase := 0 }).isNone = true ∧ empty.phase = 1 ∧ runner empty = none ∧
    (let s := storeN busy 0x10000 (leBytes 4 0x64000001); s.phase = 1 ∧ runner s = some a1 ∧
      (unitFirst s (slotRank s s.focus)).isSome = true) ∧
    (let s := { busy with phase := 2 }; 2 ≤ s.phase ∧ (unitFirst s 8).isSome = true) ∧
    (unitFirst free 8).isNone = true ∧ (firstNext free (closers free)).isSome = true ∧
    (let s := { s0 with phase := 2 }; (unitFirst s 8).isNone = true ∧ (firstNext s (closers s)).isNone = true)) := by
  decide +kernel

/-- A strand that issues in its slot, with nothing of the pool units before it. -/
noncomputable def issues (s : State) : Bool :=
  decide (s.phase = 1 ∧ runner s = some a0 ∧ (strandAt s a0).bubble = 0 ∧ slotIdle s a0 = false ∧ (strandAt s a0).retPc = none) &&
    (unitFirst s (slotRank s s.focus)).isNone

/-- s0 with words from its pc on, and the words that it fetches there. -/
def placed (l : List Nat) : State := storeN s0 0x10000 (l.flatMap (leBytes 4))

/-- Does a strand that issues fetch the words l? -/
noncomputable def fetches (l : List Nat) : Bool :=
  issues (placed l) && l.zipIdx.all (fun w => (wordAt (placed l) (4 * w.2)).map (·.2) == some (leBytes 4 w.1))

/-- A word that decodes, a long-immediate group, a word and groups that decode to nothing, by the prefix and by the word; a fetch that misses. -/
theorem witness_StepRunsDecoded_words : (let miss := { s0 with cores := [(0, { (coreAt s0 0) with tlb := [] })] };
    fetches [0x00612000] = true ∧ decode (leBytes 4 0x00612000) = .ok (.add 3 0 4 32, []) ∧
    fetches [0xFC000000, 0x00012345, 0x04E00000] = true ∧ (leBytes 4 0xFC000000).getD 3 0 / 4 = 63 ∧
    decode (leBytes 4 0xFC000000 ++ leBytes 4 0x00012345 ++ leBytes 4 0x04E00000) = .ok (.liw 0x00012345 0x04E00000, []) ∧
    (∀ w, w ∈ [0x04E00000, 0xD4000000] → fetches [0xFC000001, 0x00012345, w] = true ∧
      (match decodeGroup 0xFC000001 0x00012345 (BitVec.ofNat 32 w) with | .error _ => true | _ => false) = true) ∧
    (0xFC000001 : Word).extractLsb' 26 6 = 63 ∧
    fetches [0xD4000000] = true ∧ (match decodeWord 0xD4000000 with | .error _ => true | _ => false) = true ∧
    (0xD4000000 : Word).extractLsb' 26 6 ≠ 63 ∧
    issues miss = true ∧ ccMiss miss a0 (strandAt miss a0).pc.toNat = true ∧ (strandAt miss a0).wait = none) := by
  decide +kernel

/-- Writes due before, at and after the slot, to one register and to another, and a result that is out. -/
theorem witness_LandingOfExposedWrites : (let w (d r : Nat) (v : Dword) : PendWrite := ⟨d, r, v⟩;
    let t : Strand := { strand0 with slot := 5, pend := [w 5 3 1, w 4 3 2, w 9 4 3, w 5 8 4], sb := [⟨0, .g 3, false, false, none⟩] };
    t.pend = [] ++ w 5 3 1 :: [w 4 3 2, w 9 4 3, w 5 8 4] ∧ (w 5 3 1).due ≤ t.slot ∧ (w 5 3 1).reg ≠ 0 ∧
    (∀ x, x ∈ [w 4 3 2, w 9 4 3, w 5 8 4] → x.reg = 3 → x.due ≤ t.slot → x.due < 5) ∧
    (∀ x, x ∈ t.pend → x.reg = 4 → t.slot < x.due) ∧ (landSlot t).sb ≠ [] ∧ (∀ x, x ∈ t.pend → x.reg = 5 → t.slot < x.due)) := by
  decide +kernel

/-- A head that may begin, with its tokens and without; one whose work is done, its FIFO full, its result queue full, with room
for both. -/
theorem witness_EntriesBeginAndComplete : (let e := entryOf 1 1 0 (.bset 0 5);
    let s := queued e;
    let done : Entry := { entryOf 1 0 1 (.bset 0 5) with begun := true, ended := true };
    let res : Entry := { done with prog := { Prog.start with result := some 3 } };
    queueAt s 0 1 = e :: [] ∧ e.q = 1 ∧ e.begun = false ∧ mayBegin s 0 e = true ∧ takeFifos e.q e.take = [] ++ 0 :: [] ∧
    e.sx ∉ fifoAt s 0 0 ∧ e.wait ≠ .tokens 0 ∧
    (let u := setFifo s 0 0 [0]; queueAt u 0 1 = e :: [] ∧ mayBegin u 0 e = true ∧ ∀ f, f ∈ takeFifos e.q e.take → e.sx ∈ fifoAt u 0 f) ∧
    (let u := queued done; queueAt u 0 1 = done :: [] ∧ done.fault = none ∧ (strandAt u ⟨0, done.sx⟩).atStop = false ∧
      giveFifos done.q done.give = [] ++ 2 :: [] ∧ (fifoAt u 0 2).length < 16 ∧ done.prog.result = none ∧ done.draws = [] ∧
      countDraws u a0 done = .ok u ∧ entryRecord done = none ∧ done.wait ≠ .room 0 2 ∧ done.wait ≠ .room 1 16 ∧
      16 ≤ (fifoAt (setFifo u 0 2 (List.replicate 16 1)) 0 2).length) ∧
    (let u := setQueue (with0 (fun t => { t with resq := List.replicate 16 0 })) 0 1 [res];
      queueAt u 0 1 = res :: [] ∧ res.prog.result.isSome = true ∧ 16 ≤ (strandAt u ⟨0, res.sx⟩).resq.length)) := by
  decide +kernel

/-- A draw that cannot be counted: its tile does not live. -/
theorem witness_EntriesBeginAndComplete_fault : (let e : Entry := { entryOf 1 0 0 (.bset 0 5) with
      begun := true, ended := true, draws := [⟨0x30C00040005C0000, 0, 0⟩] };
    queueAt (queued e) 0 1 = e :: [] ∧ (match countDraws (queued e) a0 e with | .error _ => true | _ => false) = true) := by
  decide +kernel

/-- A nest of one step: one row, one column, FP32. -/
def nest1 : Nest := { Nest.empty with
  levels := [⟨3, 1, 0, 0, 0⟩, ⟨1, 1, 0, 0, 0⟩, ⟨2, 1, 0, 0, 0⟩], afmt := 2, bfmt := 2, bbase := ⟨2, 0, 256⟩ }

/-- Each word of MQ at the head; a BSET, a sector of a copy that runs over the end of its sector, and a reduction of nest1. -/
theorem witness_UnitsWork : (let m (op : EngOp) : Entry := entryOf 2 0 0 op;
    (∀ op, op ∈ [EngOp.mlt nest1, .mswap, .mmask ⟨2, 0, 0x1000⟩, .mzero 15, .mstat] →
      (queued (m op)).memOk ∧ queueAt (queued (m op)) 0 2 = m op :: [] ∧ (m op).q = 2 ∧ (queued (m op)).poison = []) ∧
    (coreAt (queued (m (.mzero 15))) 0).regs.modes.length = 4 ∧
    (let e := working (entryOf 1 0 0 (.bset 7 5)); unitMayRun (queued e) 0 e = true ∧ queueAt (queued e) 0 1 = e :: []) ∧
    (let e := working (entryOf 0 0 0 (.flat ⟨2, 0, 0x1000⟩ ⟨2, 0, 0x2000⟩ 700 0 false)); let s := queued e;
      s.memOk ∧ unitMayRun s 0 e = true ∧ queueAt s 0 0 = e :: [] ∧ 0x2000 + 700 ≤ 2 ^ 20 ∧ s.remotes = [] ∧
      flatConv s ⟨2, 0, 0x1000⟩ ⟨2, 0, 0x2000⟩ = none ∧ copyCheck s 0 { e with wait := .none } = .ok () ∧
      512 * e.prog.sect < 700 ∧ 0x1000 ≤ 0x2000) ∧
    (let e := working { m (.mgo 0) with prog := { Prog.start with nest := some nest1, mask := some .zero, acc := [0, 0] } }; let s := queued e;
      let u := onCore s 0 (fun k => { k with regs := { k.regs with active := nest1, activeMask := .zero, retired := e.prog.retired } });
      let x := redAt u (keyOfEntry s e) nest1 e.prog.acc;
      s.memOk ∧ s.poison = [] ∧ unitMayRun s 0 e = true ∧ queueAt s 0 2 = e :: [] ∧ (coreAt s 0).streamMask = 0 ∧ x.rows ≠ [] ∧
      redTile nest1 x = .ok 0 ∧ redOutside u nest1 x = none ∧
      (match redSums u 0 (keyOfEntry s e) nest1 x 0 with | .ok _ => true | _ => false) = true)) := by
  unfold State.memOk; decide +kernel

/-- A translation that hits; a walk that ends; a page copy whose copy has run; a unit with nothing to do; a result behind
one that is still out. -/
theorem witness_AnswersArrive : (match translate s0 0 0 0x10000 false true with | .ok _ => true | _ => false) = true ∧
    (let w : Walk := ⟨0, 0x10000, false, [], 0⟩; let s := mapped { s0 with dies := [(0, { Die.reset with walks := [w] })] };
      (dieAt s 0).walks = w :: [] ∧
      (match walk (onDie s 0 (fun k => { k with walks := [] })) w.ctx w.va with | .ok _ => true | _ => false) = true) ∧
    (let p : PageCopy := ⟨0, 0x10000, 0, 0xA000, 0x20000, true, 0, 0, false, true⟩;
      let s := storeN { s0 with cores := [(0, { (coreAt s0 0) with pages := [p] })], ports := [true, true] } 0xA000 (leBytes 8 0x8000000001F);
      s.memOk ∧ (coreAt s 0).pages[0]? = some p ∧ p.running = true ∧
      (let leaf := loadNat s p.pte 8; bit leaf 4 = true ∧ portUp s (pteAddr leaf) = true ∧
        poisoned s (pteAddr leaf) (pageSize p.psz) = none ∧ p.frame % 256 = 0 ∧ p.frame < 2 ^ 44 ∧
        p.frame + pageSize p.psz ≤ pteAddr leaf ∧ p.pte + 8 ≤ p.frame)) ∧
    ((unitAt s0 101).heads = [] ∧ (unitAt s0 101).waits = [] ∧ (unitAt s0 101).inbox = []) ∧
    (let x : Sb := ⟨0, .g 3, false, false, none⟩; let e : Sb := ⟨1, .g 4, true, true, some 9⟩;
      let s := with0 (fun t => { t with sb := [x, e] });
      (strandAt s a0).sb = [x] ++ e :: [] ∧ e.val = some 9 ∧ ∀ y, y ∈ [x] → y.val = none) := by
  unfold State.memOk; decide +kernel

/-- A launch of two members, this one the first: group table, buffer table and done word in pond, no offsets. -/
def launch0 : Launch :=
  ⟨5, 0, 2 ^ 170 + 0x2000000000003000 * 2 ^ 256 + 0x2000000000002000 * 2 ^ 384 + 0x2000000000001000 * 2 ^ 448 + 9 * 2 ^ 224,
    3, [0, 0, 0, 0], [], [], [], [], 0, 0, 0, 0, 1, 0, 100, 0, 0⟩

/-- s0 with the launch l, its tables, and its buffers of 8 FP32. -/
def collState (l : Launch) : State :=
  storeN (storeN { s0 with clusters := [(0, { Cluster.reset with master := some 0, launches := [l] })] }
    (locPond 0 0x1000) (leBytes 4 0 ++ leBytes 4 0x1000000))
    (locPond 0 0x2000) (leBytes 16 (0x2000000000004000 * 2 ^ 64 + 2 * 2 ^ 32 + 8) ++ leBytes 16 (0x2000000000005000 * 2 ^ 64 + 2 * 2 ^ 32 + 8))

/-- A step's fields: from buffer 0 to buffer 1, peers by pm and pv. -/
def fieldsOf (pm : BitVec 2) (pv : BitVec 22) (ns : BitVec 1) : StepFields :=
  { pm := pm, pv := pv, sbuf := 0, dbuf := 1, par := 0, ca := 0, cl := 0, lc := 0, coff := 0, rop := 0, ns := ns }

/-- A run that waits for data of peer 1; one that sends to it; a barrier. -/
def runs0 : List StepRun := [⟨0, 2, 0, some 1, none, none, some ⟨0x2000000000006000, 2, 1⟩, true, false, false, false, 0, 200, 0⟩]

/-- Each step's conditions at the launch's word 3; peers outside the group; a loop within its body's end and past it. -/
theorem witness_CollectiveSteps : (let s := collState launch0; let l := launch0;
    let ok {α : Type} (x : SeqE α) : Bool := match x with | .ok _ => true | _ => false;
    launchAt s 0 5 = some l ∧ firstChecks s 0 l = .ok () ∧ firstChecks s 0 { l with pc := 0 } = .ok () ∧ pastBars l = true ∧
    (unfinished l).length < 16 ∧ peers l (fieldsOf 0 1 0) = .ok (1, 1) ∧ peerCheck s 0 l 1 = .ok () ∧
    (match chunkOf s l 0 0 0, chunkOf s l 1 0 0 with
      | .ok a, .ok b => !overlaps l (some a) none && !overlaps l none (some b) && !overlaps l (some a) (some b) && a.n == b.n &&
        (match readChunk s l a with
        | some v => (seqWrite s l b.ad (v.flatMap (fun x => leBytes (fmtBytes b.fmt) (reEncode a.fmt b.fmt x)))).isSome
        | none => false)
      | _, _ => false) = true ∧
    (let far := { storeN s (locPond 0 0x1000) (leBytes 4 0 ++ leBytes 4 (2 ^ 24 + 7)) with absent := [7] };
      peerCheck far 0 l 1 = .error (0xA4, 7) ∧ launchAt far 0 5 = some l ∧ firstChecks far 0 l = .ok ()) ∧
    chunkNo l (fieldsOf 0 1 0) 1 = 0 ∧ ok (peers l (fieldsOf 1 2 0)) = false ∧ unfinished l = [] ∧ l.runs.any (·.needAck) = false ∧
    (seqWrite s l l.done (leBytes 8 l.num)).isSome = true ∧
    (let m := { l with stack := [(0, 2, 1, 7)] }; launchAt (collState m) 0 5 = some m ∧ firstChecks (collState m) 0 m = .ok () ∧
      pastBars m = true ∧ m.pc + 4 = 7)) := by
  decide +kernel

/-- A launch without runs, with a receive, with a send in each of its states, with a barrier; a tag that no launch has. -/
theorem witness_CollectiveMessages : (let l1 := { launch0 with runs := runs0 };
    let send (a b : Bool) (c : Bool) : StepRun := ⟨1, 1, 0, none, some 1, some ⟨0x2000000000004000, 2, 1⟩, none, false, a, b, c, 0, 200, 0⟩;
    let bar : StepRun := ⟨2, 7, 0, none, none, none, none, false, false, false, false, 1, 200, 0⟩;
    launchAt (collState launch0) 0 5 = some launch0 ∧ launch0.runs = [] ∧
    (∀ r, r ∈ [send true true true, send false true true, send false false true] →
      launchAt (collState { launch0 with runs := [r] }) 0 5 = some { launch0 with runs := [r] } ∧ r.sendPeer = some 1 ∧
      launch0.limit ≤ r.waited) ∧
    launchAt (collState l1) 0 5 = some l1 ∧ l1.runs = [] ++ runs0.headD bar :: [] ∧ (runs0.headD bar).recvPeer = some 1 ∧
    (runs0.headD bar).needData = true ∧ launch0.limit ≤ (runs0.headD bar).waited ∧
    (match takeData (collState l1) 0 l1 1 2 [1, 2, 3, 4] (runs0.headD bar), takeData (collState l1) 0 l1 1 2 [1] (runs0.headD bar) with
      | .ok _, .error _ => true | _, _ => false) = true ∧
    (let b := { launch0 with runs := [bar] }; launchAt (collState b) 0 5 = some b ∧ bar.needBar ≠ 0 ∧ barMet b bar.needBar = false) ∧
    (clusterAt (collState launch0) 0).launches = [] ++ launch0 :: [] ∧ launch0.tag = 9 ∧ launch0.tag < 2 ^ 32 ∧ launch0.tag ≠ 8) := by
  decide +kernel

/-- The boundary values of the host's clauses: registers, windows, contexts, route entries. -/
theorem witness_HostAccesses : (let ctx (c : Ctx) : State := { s0 with ctxs := [(0, c)] };
    let busy := ctx { Ctx.reset with busy := true };
    let vf := ctx { Ctx.reset with enabled := true, nwrFirst := 8, nwrCount := 4 };
    35 < 36 ∧ (ctxAt busy 0).busy = true ∧ (ctxAt busy 0).resetting = false ∧ (ctxAt s0 0).busy = false ∧ (ctxAt s0 0).pdtab = 0 ∧
    (ctxAt vf (1 - 1)).enabled = true ∧ 0x11 % 8 ≠ 0 ∧ 0xFFF8 < 0x10000 ∧
    (let s := { s0 with dev := { s0.dev with tzLock := true } }; s.dev.tzLock = true) ∧
    ((ctxAt vf 0).nwrFirst ≤ 11 ∧ 11 < (ctxAt vf 0).nwrFirst + (ctxAt vf 0).nwrCount ∧ 7 < (ctxAt vf 0).nwrFirst ∧
      (ctxAt vf 0).nwrFirst + (ctxAt vf 0).nwrCount ≤ 12) ∧
    (nwAt s0 0).parked = none ∧ (nwAt s0 0).last = none ∧ s0.dev.pkg < 3 ∧ s0.memOk ∧
    576 * 2 ^ 30 - 8 + 8 ≤ 576 * 2 ^ 30 ∧ 576 * 2 ^ 30 < 576 * 2 ^ 30 - 7 + 8 ∧ poisoned s0 (576 * 2 ^ 30 - 8) 8 = none ∧
    (poisoned { s0 with poison := [0x40] } 0x40 8).isSome = true ∧
    9216 * 36 + 1024 * 36 ≤ 368640 ∧ 368639 < 9216 * 36 + 1024 * 36 ∧ routeBusy s0 368639 = false ∧
    routeBusy { s0 with spans := [(0, { Span.reset with replay := [⟨0, 0, 7, 1, 0, 0⟩] })] } 7 = true) := by
  unfold State.memOk; decide +kernel

/-- A hart that runs; walls that admit every access, none, and no wall; monitors that sample, freeze and do not run. -/
theorem witness_ToolClusterAndMonitors : (let h (w : Nat) : State := { s0 with
      harts := [(31, { Hart.reset with run := true })], walls := [(63, w)], dev := { s0.dev with tzSize := 1 } };
    let wall (perm : Nat) : Nat := perm + 2 ^ 65 + 2 ^ 127;
    let m (ctl : Nat) : Monitor := { Monitor.reset with sel := 255, ctl := ctl };
    (∀ p, p ∈ [0, 7] → (h (wall p)).memOk ∧ (hartAt (h (wall p)) 31).run = true ∧ (hartAt (h (wall p)) 31).timer = false ∧
      wallFor (h (wall p)) 31 (2 ^ 21 - 8) 8 = some (wall p) ∧ wallFor (h (wall p)) 31 (2 ^ 21) 1 = none ∧
      wallFor (h (wall p)) 31 (2 ^ 21 - 7) 8 = none ∧ (h (wall p)).dev.pkg < 3) ∧
    (bit (wall 7) 0 && bit (wall 7) 1 && bit (wall 7) 2) = true ∧ (bit (wall 0) 0 || bit (wall 0) 1 || bit (wall 0) 2) = false ∧
    bit (m 1).ctl 0 = true ∧ bits (m 1).sel 0 8 ≠ 0 ∧ bit (m 1).ctl 2 = false ∧ bit (m 5).ctl 0 = true ∧ bit (m 5).ctl 2 = true ∧
    (m 1).bins.length = 32 ∧ 2 ≤ s0.dev.stage ∧ s0.sec.failed = false ∧
    ({ s0 with sec := { s0.sec with failed := true } } : State).sec.failed = true) := by
  unfold State.memOk; decide +kernel

/-- The three images' stages; a die that may enter L1 and L2; package states; a hold at its limit of 16; a tile whose table
fails. -/
theorem witness_PowerAndErrors : (let st (n : Nat) : State := { s0 with dev := { s0.dev with stage := n } };
    let idle := { State.reset with dev := { Device.reset with ltol := 50, pkg := 3 }, dies := [(5, { Die.reset with pstate := 0 })] };
    let hold := { s0 with dies := [(5, { Die.reset with hold := true })] };
    s0.sec.failed = false ∧ (st 1).dev.stage = 1 ∧ (st 2).dev.stage = 2 ∧ dieIdle idle 5 = true ∧
    wakeLatency 1 ≤ idle.dev.ltol ∧ wakeLatency 2 ≤ idle.dev.ltol ∧ (dieAt idle 5).pstate < 1 ∧
    (idle.dev.plim = 0 ∧ idle.dev.pkg < 4) ∧ (dieAt { s0 with dies := [(5, { Die.reset with pstate := 2 })] } 5).pstate ≠ 0 ∧
    (let s := { s0 with dev := { s0.dev with pkg := 3 } }; s.dev.pkg ≠ 0 ∧ s.dev.plim ≠ 0) ∧
    (dieAt s0 5).hold = false ∧ (dieAt hold 5).hold = true ∧ 16 ≤ (16 : BitVec 16).toNat ∧ (1, job0) ∈ s0.jobs ∧ job0.phase ≠ 4 ∧
    (hartAt { s0 with harts := [(0, { Hart.reset with run := true })] } 0).run = true ∧
    (∃ j, j ∈ (unitAt (headState strand0) 101).tiles)) := by
  refine ⟨?_, ?_, ?_, ?_, ?_, ?_, ?_, ?_, ?_, ?_, ?_, ?_, ?_, ?_, ?_, ?_, ⟨_, List.mem_cons_self ..⟩⟩ <;> decide +kernel

/-- A port that is up and one that is down; spans up and down, with flits and at the limit of resends; remote accesses. -/
theorem witness_PortsAndSpans : (let sp (k : Span) : State := { s0 with spans := [(23, k)] };
    let up (n : Nat) : Span := { Span.reset with up := true, expect := 2 ^ 32 + 3, replay := [⟨2 ^ 32 + 9, 0, 0, 1, 0, n⟩] };
    let r : Remote := ⟨4, 0, 0, 0, 0x10008, 5, 0, 3, 0, 0, 0, none, 0, 0, 0x10000⟩;
    let rem := { (one 0 { strand0 with sb := [⟨0, .g 9, true, true, none⟩] }) with remotes := [r], cycle := 2 ^ 22 };
    (let s := { s0 with ports := [true, false] }; s.ports.length = 2 ∧ s.ports.getD 0 false = true ∧ s.ports.getD 1 false = false ∧
      3 ≤ s.dev.stage) ∧
    (∀ n, n ∈ [15, 16] → (spanAt (sp (up n)) 23).up = true ∧ (spanAt (sp (up n)) 23).replay = [⟨2 ^ 32 + 9, 0, 0, 1, 0, n⟩]) ∧
    3 = (spanAt (sp (up 0)) 23).expect % 2 ^ 32 ∧ (2 ^ 32 + 9) % 2 ^ 32 = 9 ∧
    (spanAt s0 23).up = false ∧ 2 ^ 24 ≤ rem.cycle * 4 - (spanAt s0 23).since ∧ s0.cycle - (spanAt s0 23).since < 2 ^ 24 ∧
    (let s := mapped s0; s.memOk ∧ (ctxAt s 0).ptroot ≠ 0 ∧ s.dev.pkg < 3 ∧ translateFlat s 0 0x12340 false = .ok (0x12340, false) ∧
      translateFlat s 0 0x12340 true = .ok (0x12340, false)) ∧
    rem.remotes.find? (fun q => q.id == r.id) = some r ∧ r.core < 1728 ∧ r.queue = none ∧ r.kind ≠ 14 ∧
    (strandAt rem ⟨r.core, r.sx⟩).task.isSome = true ∧ 2 ^ 22 ≤ rem.cycle - r.sent) := by
  unfold State.memOk; decide +kernel

/-- Slots without replays, with one and with two; each refusal of a launch; a context with seven jobs and with eight; a
captured entry that no job has. -/
theorem witness_FrontCommands : (let rp : Replay := ⟨[], false, [], [], [], []⟩;
    let sl (n : Nat) : State := { s0 with slots := [(15, { Slot.reset with replays := List.replicate n rp })] };
    let cx (n : Nat) : State := { s0 with ctxs := [(0, { (ctxAt s0 0) with launched := n })] };
    (∀ n, n ∈ [0, 1, 2] → (slotAt (sl n) 15).replays.length = n ∧ (slotAt (sl n) 15).opened = 0 ∧
      launchRefusal (sl n) (slotAt (sl n) 15).ctx = none) ∧
    launchRefusal State.reset 0 = some 0x86 ∧ State.reset.dev.stage < 3 ∧ State.reset.dev.plim = 0 ∧
    (let s := { s0 with ctxs := [] }; launchRefusal s 0 = some 0x87 ∧ 3 ≤ s.dev.stage ∧ s.dev.plim ≠ 0 ∧ (ctxAt s 0).ptroot = 0) ∧
    ((ctxAt s0 0).ptroot ≠ 0 ∧ (ctxAt s0 0).savebase ≠ 0) ∧
    ((cx 7).jobs = s0.jobs ∧ launchRefusal (cx 7) 0 = none ∧ ((ctxAt (cx 7) 0).launched + 2 ^ 32 - (ctxAt (cx 7) 0).ended) % 2 ^ 32 < 8) ∧
    (launchRefusal (cx 8) 0 = none ∧ 8 ≤ ((ctxAt (cx 8) 0).launched + 2 ^ 32 - (ctxAt (cx 8) 0).ended) % 2 ^ 32) ∧
    tabFind s0.dev.capOf 0 = none ∧ (1, job0) ∈ s0.jobs ∧ job0.ctx = 0 ∧ job0.id = 0 ∧ job0.phase ≠ 4) := by
  decide +kernel

/-- A job of one core that waits for issue, of class cls. -/
def waits (cls order : Nat) : Job := { Job.none with phase := 0, live := 0, clusters := 1, nsets := 1, count := 100, cls := cls, order := order }

/-- A request whose result is awaited and one whose is not; stream nodes; jobs that may be issued, stop another, are being
saved, restored, ended. -/
theorem witness_FrontWork : (let ask : CardReq := ⟨0, 0, 1, 5⟩;
    let card := { (one 0 { strand0 with sb := [⟨5, .g 9, false, false, none⟩] }) with cards := [ask] };
    let x : Stream := ⟨0, 0, 0, 0, 0, 0, false⟩;
    let free := { State.reset with dev := { Device.reset with stage := 3, plim := 1500 }, jobs := [(2, waits 1 0)] };
    let full (t : Strand) : State := { s0 with
      jobs := [(1, { job0 with cls := 3, share := 255 }), (2, waits 0 1)]
      cores := [(0, { Core.reset 0 with strands := [(0, { t with share := 255 }), (1, { t with share := 0 }), (2, t), (3, t)] })] };
    card.cards = ask :: [] ∧ (strandAt card ⟨0, 0⟩).sb.any (fun e => e.id == ask.sbId) = true ∧
    (strandAt s0 ⟨0, 0⟩).sb.all (fun e => e.id != ask.sbId) = true ∧
    (let s := { s0 with streams := [x] }; s.streams.zipIdx.find? (fun y => !y.1.active) = some (x, 0) ∧
      (s.streams.filter (·.active)).length < 8) ∧
    (let s := { s0 with streams := [{ x with active := true }] }; s.streams[0]? = some { x with active := true } ∧ x.len = 0) ∧
    (let b := jobAt free 2; waiting b = true ∧ free.fatal = none ∧ (∀ c, c ∈ placedCores b → (coreAt free c).fenced = false) ∧
      b.core0 + b.ncore < 48 ∧ partsMeet free b = false ∧ fits free b [] = true ∧ goesFirst free 2 b = false ∧ b.cap = none ∧
      free.dev.capen = false) ∧
    (let s := full strand0; let b := jobAt s 2; waiting b = true ∧ b.cls = 0 ∧ fits s b [] = false ∧ (∀ o, o ∈ s.jobs → o.2.phase ≠ 2) ∧
      (∀ o, o ∈ s.jobs → o.1 ≠ 2 → waiting o.2 = true → o.2.cls = 0 → b.order ≤ o.2.order) ∧ victimsOf s b = some [1] ∧
      jobRuns s 1 = true)) := by
  decide +kernel

/-- A job that is late, one whose points are reached, one saved, one that can be restored, one that has ended. -/
theorem witness_FrontWork_saves : (let stop (st : Status) : State := { (one 0 { strand0 with status := st }) with
      jobs := [(1, { job0 with phase := 2 })], cycle := 2 * s0.dev.ttper };
    let saving := { s0 with jobs := [(1, { job0 with phase := 2, saving := [0] })], cores := [(0, Core.reset 0)] };
    (let s := stop .idle; let b := jobAt s 1; b.phase = 2 ∧ 0 ∈ placedCores b ∧ 0 ∉ b.savedOn ∧ 0 ∉ b.saving ∧ 0 ∉ b.late ∧
      b.stopAt + 2 * s.dev.ttper ≤ s.cycle) ∧
    (let s := { stop .idle with cores := [(0, { Core.reset 0 with strands := [(0, { strand0 with status := .idle, task := none })] })] };
      pointsReached s 0 = true ∧ (jobAt s 1).phase = 2 ∧ 0 ∈ placedCores (jobAt s 1)) ∧
    (let b := jobAt saving 1; 0 ∈ b.saving ∧ (∀ x, x < 4 → (strandAt saving ⟨0, x⟩).holder ≠ some 1) ∧ b.stopper = none) ∧
    (let s := { State.reset with jobs := [(1, { job0 with phase := 3, savedOn := [0] })] }; let b := jobAt s 1;
      b.phase = 3 ∧ b.killed = false ∧ refits s b = true ∧ s.fatal = none ∧ (∀ o, o ∈ s.jobs → waiting o.2 = false)) ∧
    (let s := { s0 with jobs := [(1, { job0 with live := 0, pending := [(0, 0)] })] }; let b := jobAt s 1;
      b.phase = 1 ∧ b.killed = false ∧ b.live = 0 ∧ ∀ p, p ∈ b.pending → p.2 = 0)) := by
  decide +kernel

/-- A JOIN at its bound with a frame free. -/
theorem witness_Timetable_met : (let met : Wait := ⟨.stall 3, 100, 100, 0⟩; let s := with0 (fun t => { t with wait := some met });
    (strandAt s a0).wait = some met ∧ waitMet s a0 met = true ∧ framesUsed s 0 (ctxOf s a0) < 64) := by
  decide +kernel

/-- A period that is due; a strand that is ready, with its share and without; waits of the CC and of an entry at their bound;
an asynchronous cause; an idle strand with work and without; a subscriber that has waited; steals in each of their states. -/
theorem witness_Timetable : (let cores (k : Core) : State := { s0 with cores := [(0, k)] };
    let due := cores { (coreAt s0 0) with periodDue := true };
    let ready := cores { Core.reset 0 with strands := [(3, { strand0 with status := .ready })] };
    let w : Wait := ⟨.take 6, 100, 100, 0⟩;
    let expired := with0 (fun t => { t with status := .waiting, wait := some w });
    let e : Entry := { entryOf 1 1 0 (.bset 0 5) with wait := .tokens 0, waited := 100, limit := 100 };
    let p : PendTrap := ⟨⟨0x57, 0, 0, 0⟩, false, 0, 0, 0, 0, 2⟩;
    let async := with0 (fun t => { t with asyncs := [p] });
    let idle (l : List Steal) (d : List DqEntry) : State := { cores { Core.reset 0 with
      strands := [(0, { strand0 with status := .idle, task := none })], steals := l, deque := d } with cycle := 40 };
    let st (n : Nat) (r : Bool) : Steal := ⟨0, n, r, 40, none⟩;
    (coreAt due 0).periodDue = true ∧ (∀ x, x < 4 → (strandAt due ⟨0, x⟩).holder.isSome = true →
      -(due.dev.ttper : Int) ≤ (strandAt due ⟨0, x⟩).segbud) ∧
    ((coreAt ready 0).turn = none ∧ (dieAt ready 0).hold = false ∧ chooseStrand ready 0 = some 3 ∧
      (dieAt ready 0).hthr ≤ (dieAt ready 0).thead ∧ 0 < (strandAt ready ⟨0, 3⟩).segbud ∧
      ((strandAt ready ⟨0, 3⟩).cost : Int) ≤ (strandAt ready ⟨0, 3⟩).segbud) ∧
    ((strandAt expired a0).wait = some w ∧ (ccExpiry expired a0 w).isSome = true ∧ w.bound ≤ w.elapsed ∧
      (strandAt expired a0).pendTrap = none ∧ (strandAt expired a0).atStop = false ∧ waitMet expired a0 w = false) ∧

    (headEntry (queued e) 0 1 = some e ∧ (engineExpiry (queued e) 0 e).isSome = true ∧ e.limit ≤ e.waited ∧ e.fault = none ∧
      mayMove (queued e) 0 e = true) ∧
    ((strandAt async a0).asyncs = p :: [] ∧ (strandAt async a0).pendTrap = none ∧ (strandAt async a0).atStop = false ∧
      (strandAt async a0).task.isSome = true ∧ jobRuns async (jobOf async a0) = true) ∧
    (sourceOf (idle [] [⟨0x12340, 0, 1, 1, none, [], none, none, 0⟩]) a0).isSome = true ∧
    (let s := idle [] []; noSource s ⟨0, 0⟩ = true ∧ (coreAt s 0).fenced = false ∧ (coreAt s 0).steals = []) ∧
    (let r : Steal := ⟨0, 1, false, 40, some ⟨0x12340, 0, 1, 1, none, [], none, none, 0⟩⟩;
      (coreAt (idle [r] []) 0).steals.find? (fun q => q.sx == 0) = some r ∧ (seeks (idle [r] []) ⟨0, 0⟩).isSome = true) ∧
    (let s := { idle [⟨0, 1, false, 40, none⟩] [] with cores := [(0, coreAt (idle [⟨0, 1, false, 40, none⟩] []) 0),
        (1, { Core.reset 1 with deque := [⟨0x12340, 0, 1, 1, none, [], none, none, 0⟩] })] };
      victimOf 0 1 = 1 ∧ stealPassed s 0 1 = false ∧ (dequeFind (coreAt s 1) 1 true).isSome = true ∧
      (coreAt s 1).dqBusy = false) ∧
    (∀ n, n ∈ [46, 47] → ∀ r, r ∈ [true, false] → (coreAt (idle [st n r] []) 0).steals.find? (fun q => q.sx == 0) = some (st n r) ∧
      seeks (idle [st n r] []) ⟨0, 0⟩ = some 1 ∧ (st n r).due ≤ (idle [st n r] []).cycle ∧
      stealPassed (idle [st n r] []) 0 (victimOf 0 n) = false ∧
      dequeFind (coreAt (idle [st n r] []) (victimOf 0 n)) 1 true = none) ∧
    settledSet s0 1 0 = true ∧ settledSet (headState strand0) 1 0 = false) := by
  decide +kernel

/-- A fired subscriber whose wait for a slot has lasted its bound, its binding task running and ended. -/
theorem witness_Timetable_subscriber : (let b (task : Nat) : Sub := ⟨0, 0x12340, 0, 0, 101, 1, 0, true, false, false, 100, 0, 101, task, 100⟩;
    let hd (task : Nat) : Head := ⟨0, 1, 1, false, false, [b task], 1, 0⟩;
    let s (task : Nat) : State := { headState strand0 with
      units := [(101, { (unitAt (headState strand0) 101) with heads := [(headKey 0 0x30C00040005C0000, hd task)] })] };
    (∀ k, k ∈ [0, 1] → (s k).units.findSome? (fun u => (u.2.heads.find? (fun k => k.1 % 2 ^ 64 == 0x30C00040005C0000 && (match k.2.subs[0]? with
        | some b => b.state == 1 && !b.queued && decide (b.bLim ≤ b.waited)
        | none => false))).map (fun k => (u.1, k.1 / 2 ^ 64))) = some (101, 0) ∧
      headAt (s k) 101 0 0x30C00040005C0000 = some (hd k) ∧ (tileAt (s k) 101 0 0x30C00040005C0000).isSome = true ∧
      (hd k).subs[0]? = some (b k)) ∧
    taskLives (s 0) 0 = true ∧ taskLives (s 1) 1 = false) := by
  decide +kernel

/-! ## Further witnesses, clause by clause -/

/-- A remote access of s0's strand: of its own instructions, and of an entry of queue 1. -/
def remote0 (q : Option Nat) : Remote := ⟨4, 0, 0, 0, 0x10008, 5, 1, 8, 0, 0, 9, q, 0, 0x31253FFF, 0x10000⟩

/-- A walk, a copy and a result that are there to be answered. -/
theorem witness_AnswersArrive_completes : (let w : Walk := ⟨0, 0x10000, false, [], 0⟩;
    let s := { s0 with dies := [(0, { Die.reset with walks := [w] })] };
    (dieAt s 0).walks = w :: []) ∧
    (let p : PageCopy := ⟨0, 0x10000, 0, 0xA000, 0x20000, true, 0, 0, false, true⟩;
      let s := { s0 with cores := [(0, { (coreAt s0 0) with pages := [p] })] };
      (coreAt s 0).pages[0]? = some p ∧ p.running = true) ∧
    (let s := with0 (fun t => { t with sb := [⟨1, .g 4, true, true, some 9⟩] });
      (strandAt s a0).sb.any (fun e => e.val.isSome) = true) := by
  decide +kernel

theorem witness_TrapEntry_area : (ctxAt s0 (ctxOf s0 a0)).savebase + 2 ^ 21 * a0.c + 2 ^ 21 ≤ 576 * 2 ^ 30 := by decide +kernel

/-- A strand that has its turn, one that is ready, one that is parked; a save area past the end of HBM. -/
theorem witness_TrapCauses_status : (∀ st, st ∈ [Status.running, .ready, .parked] → let s := with0 (fun t => { t with status := st });
      (strandAt s a0).status = st ∧ (strandAt s a0).atStop = false ∧ (strandAt s a0).pendTrap = none) ∧
    (let s := { s0 with ctxs := [(0, { Ctx.reset with savebase := 576 * 2 ^ 30 - 2 ^ 20 })] };
      (strandAt s a0).tl ≠ 2 ∧ (strandAt s a0).tvec ≠ 0 ∧ (ctxAt s (ctxOf s a0)).savebase ≠ 0 ∧
      576 * 2 ^ 30 < (ctxAt s (ctxOf s a0)).savebase + 2 ^ 21 * a0.c + 2 ^ 21) := by
  decide +kernel

/-- Results that are out for the last registers of each kind; a frame with an entry. -/
theorem witness_TrapReturn_busy : (∀ d, d ∈ [Dest.g 4, .p 7, .g 5] → let s := with0 (fun t => { t with
      tl := 1, frames := [{ frameOf [0, 0] with entries := [entryOf 1 0 0 (.bset 0 5)] }], sb := [⟨0, d, true, true, none⟩] });
      runner s = some a0 ∧ (strandAt (seen s a0) a0).frames.length = 1 ∧ strandEntries (seen s a0) a0 = [] ∧
      (strandAt (seen s a0) a0).frames.all (fun f => frameIntact (seen s a0) f && !f.entries.isEmpty) = true ∧
      (d = .g 4 → gBusy (strandAt (seen s a0) a0) 4 = true) ∧ (d = .p 7 → pBusy (strandAt (seen s a0) a0) 7 = true) ∧
      (d = .g 5 → [1, 2, 3, 4].all (fun r => !gBusy (strandAt (seen s a0) a0) r) = true ∧
        [1, 2, 3, 4, 5, 6, 7].all (fun r => !pBusy (strandAt (seen s a0) a0) r) = true)) := by
  decide +kernel

/-- A handler with a result out for g1, and without one. -/
theorem witness_EventsOfStrands_busy : (∀ r, r ∈ [1, 9] → let s := with0 (fun t => { t with
      evslot := some ⟨0x11000, [1, 2, 3, 4], 0, none⟩, sb := [⟨0, .g r, true, true, none⟩] });
      runner s = some a0 ∧ (strandAt (seen s a0) a0).evslot ≠ none ∧
      (r = 1 → gBusy (strandAt (seen s a0) a0) 1 = true) ∧
      (r = 9 → [1, 2, 3, 4].all (fun x => !gBusy (strandAt (seen s a0) a0) x) = true)) := by
  decide +kernel

/-- A far page whose frame its port's expander holds. -/
theorem witness_CopyWordsPush_far : (let u := { storeN (storeN s0 0x8000 (leBytes 8 0xA001)) 0xA000 (leBytes 8 0x8000000001F) with
      ports := [true, true], hdm := [2 ^ 42, 2 ^ 42] };
    let leaf := loadNat u 0xA000 8;
    bit leaf 4 = true ∧ farMapped u (pteAddr leaf) 2 = true ∧ portUp u (pteAddr leaf) = true) := by
  decide +kernel

/-- A strand whose instruction has a remote access out, and one whose entry alone has. -/
theorem witness_TokensAndQueues_remote : (∀ q, q ∈ [none, some 1] → let s := { s0 with remotes := [remote0 q] };
    runner s = some a0 ∧ ccPerformed (seen s a0) a0 = q.isSome) := by
  decide +kernel

/-- A load that is out, and a load of local pond that is not performed. -/
theorem witness_PoolOperations_loads : (let t : Strand := { strand0 with g := [(4, 0x30C00040005C0000)] };
    loadsOut (seen (pooled { t with sb := [⟨0, .g 9, true, true, none⟩] }) a1) a1 = true ∧
    loadsOut (seen (pooled { t with ldReady := 4 }) a1) a1 = true ∧ loadsOut (seen (pooled t) a1) a1 = false) := by
  decide +kernel

/-- A deque that has served an operation of the cycle, and one that has not; a save area; a free join frame. -/
theorem witness_ChildrenPushed_busy : (let s := { s0 with cores := [(0, { (coreAt s0 0) with dqBusy := true })] };
    runner s = some a0 ∧ (coreAt (seen s a0) 0).dqBusy = true ∧ (coreAt (seen s0 a0) 0).dqBusy = false ∧
    (crowded task0).memOk ∧ (coreAt (seen (crowded task0) a0) 0).dqBusy = false ∧ freeFrame (seen s0 a0) 0 0 = 0) := by
  unfold State.memOk; decide +kernel

/-- A poster with 31 entries before it: room alone, none behind another's post. -/
theorem witness_CardMailCollective_posters : (∀ l, l ∈ [[], [0], [4, 0]] →
    let s := { s0 with clusters := [(0, { Cluster.reset with master := some 0, mail := List.replicate 31 ⟨6, 7, 3, 0, 0, 1⟩, posters := l })] };
    s.memOk ∧ runner s = some a0 ∧ (clusterAt (seen s a0) 0).mail.length = 31 ∧ (clusterAt (seen s a0) 0).posters = l ∧
    (l = [4, 0] → 32 ≤ 31 + (l.takeWhile (· != 4 * a0.c + a0.x)).length) ∧
    (l ≠ [4, 0] → 31 + (l.takeWhile (· != 4 * a0.c + a0.x)).length < 32)) := by
  unfold State.memOk; decide +kernel

/-- A shadow writer behind an MGO that runs; an entry whose tokens wait for a write that is out, and one whose do not. -/
theorem witness_EntriesBeginAndComplete_behind : (let m := working { (entryOf 2 0 0 (.mgo 0)) with prog := { Prog.start with nest := some nest1 } };
    let b := { (entryOf 2 1 0 (.mlt nest1)) with seq := 1 };
    let s := setFifo (setQueue s0 0 2 [m, b]) 0 6 [0];
    (queueAt s 0 2).head? = some m ∧ m.begun = true ∧ nextBehind (queueAt s 0 2) = some (1, b) ∧ mayBegin s 0 b = true ∧
    (∀ f, f ∈ takeFifos 2 b.take → b.sx ∈ fifoAt (setFifo s 0 f [0]) 0 f)) ∧
    (let e : Entry := { entryOf 1 0 1 (.bset 0 5) with begun := true, ended := true };
      releaseHeldUp { (queued e) with remotes := [remote0 (some 1)] } 0 e = true ∧ releaseHeldUp (queued e) 0 e = false) := by
  decide +kernel

/-- Work of each unit that changes its entry: a BSET, a sector, a reduction. -/
theorem witness_UnitsWork_completes : (let e := working (entryOf 1 0 0 (.bset 7 5));
      unitMayRun (queued e) 0 e = true ∧ headEntry (queued e) 0 1 = some e ∧ headEntry (vecStep (queued e) 0 e) 0 e.q ≠ some e) ∧
    (let e := working (entryOf 0 0 0 (.flat ⟨2, 0, 0x1000⟩ ⟨2, 0, 0x2000⟩ 700 0 false)); let s := queued e;
      unitMayRun s 0 e = true ∧ headEntry s 0 0 = some e ∧ headEntry (copyStep s 0 { e with wait := .none }) 0 e.q ≠ some e) ∧
    (let e := working { (entryOf 2 0 0 (.mgo 0)) with prog := { Prog.start with nest := some nest1, mask := some .zero, acc := [0, 0] } };
      let s := queued e;
      mgoCheck s 0 e nest1 = .ok () ∧ unitMayRun s 0 e = true ∧ headEntry s 0 2 = some e ∧
      (headEntry (matrixStep s 0 e) 0 e.q).map (·.prog.red) ≠ (some e).map (·.prog.red)) := by
  decide +kernel

/-- Members on this device alone, and one on another with room in its span; every message of a launch. -/
theorem witness_CollectiveMessages_completes : (let far := (storeN (collState launch0) (locPond 0 0x1000) (leBytes 4 0 ++ leBytes 4 (2 ^ 24 + 7)));
    let send (a b : Bool) : StepRun := ⟨1, 1, 0, none, some 1, some ⟨0x2000000000004000, 2, 1⟩, none, false, a, b, true, 0, 200, 0⟩;
    memberRoute (collState launch0) 0 launch0 1 = none ∧ tellMembers (collState launch0) 0 launch0 [1] = some (collState launch0) ∧
    (memberRoute far 0 launch0 1).isSome = true ∧
    (match memberRoute far 0 launch0 1 with | some x => spanRoom far x 1 | none => false) = true ∧
    (tellMembers far 0 launch0 [1]).isSome = true ∧
    (∀ p, p ∈ [(false, true), (false, false)] → (send p.1 p.2).sendPeer.isSome = true ∧ (send p.1 p.2).needReady = false ∧
      (send p.1 p.2).needSend = p.2 ∧ (send p.1 p.2).needAck = true ∧ (send p.1 p.2).needData = false)) := by
  decide +kernel

/-- PLIM 0 and dies that sleep; reads of each register; an enabled VF; a remote access that does not keep a shootdown open. -/
theorem witness_HostAccesses_more : (let asleep := { s0 with dies := (List.range 6).map (fun d => (d, { Die.reset with pstate := 2 })) };
    let vf := { s0 with ctxs := [(0, { Ctx.reset with enabled := true })] };
    let busy := { s0 with ctxs := [(0, { Ctx.reset with busy := true })], remotes := [remote0 none] };
    (∀ d, d < 6 → (dieAt asleep d).pstate = 2) ∧ (dieAt s0 0).pstate ≠ 2 ∧ (∀ d, d < 6 → (dieAt s0 d).pstate < 8) ∧ s0.dev.pkg < 8 ∧
    (ctxAt vf (16 - 16)).enabled = true ∧ 0xFFF8 < 0x10000 ∧ s0.dev.plim ≠ 0 ∧
    (∀ r, r ∈ busy.remotes → r.ctx = 0 → pageBase (ctxAt busy 0).shootPsz r.va ≠ pageBase (ctxAt busy 0).shootPsz (ctxAt busy 0).shootVa) ∧
    (let n : Notify := ⟨1, true, none, none, s0.cycle + 1, 7⟩; let s := { s0 with nw := [(0, n)] };
      (nwAt s 0).parked = none ∧ (nwAt s 0).last = none ∧ (nwAt s 0).pending = true ∧ (nwAt s 0).cycle = s.cycle + 1 ∧
      6 < (nwAt s 0).party ∧ ¬7 < (nwAt s 0).party)) := by
  decide +kernel

/-- A hart whose timer is due; samples of a level source and of the sensor. -/
theorem witness_ToolClusterAndMonitors_more : (let s := { s0 with harts := [(31, { Hart.reset with run := true, mtimecmp := 5 })], mtime := 5 };
    let m (src : Nat) : State := { s0 with monitors := [(63, { Monitor.reset with sel := src, ctl := 1 })], samples := [(63, 7)] };
    (hartAt s 31).run = true ∧ (hartAt s 31).timer = false ∧ (hartAt s 31).mtimecmp ≤ s.mtime ∧
    (∀ x, x ∈ [1, 4] → bit (monitorAt (m x) 63).ctl 0 = true ∧ bits (monitorAt (m x) 63).sel 0 8 = x ∧
      ((63, 7) ∈ (m x).samples ∨ bits (monitorAt (m x) 63).sel 0 8 = 4))) := by
  decide +kernel

/-- A die that has been idle for its wake latency, for each depth that LTOL admits; a package whose dies sleep. -/
theorem witness_PowerAndErrors_entries : (let die (tol : Nat) : State := { State.reset with
      dev := { Device.reset with ltol := tol }
      dies := [(5, { Die.reset with pstate := 0, idle := 2250 * 50 })] };
    let pack (tol : Nat) : State := { State.reset with
      dev := { Device.reset with ltol := tol, plim := 1500, pkg := 0, quiet := 2250 * 100000 }
      dies := (List.range 6).map (fun d => (d, { Die.reset with pstate := 2 })) };
    dieIdle (die 49) 5 = true ∧ wakeLatency 1 ≤ 49 ∧ 49 < wakeLatency 2 ∧ wakeLatency 2 ≤ 50 ∧
    2250 * wakeLatency 1 ≤ (dieAt (die 49) 5).idle ∧ 2250 * wakeLatency 2 ≤ (dieAt (die 50) 5).idle ∧ (dieAt (die 50) 5).pstate < 1 ∧
    packageIdle (pack 0) = true ∧ (pack 0).dev.plim ≠ 0 ∧ (pack 0).dev.pkg < 3 ∧ 2250 * wakeLatency 3 ≤ (pack 0).dev.quiet ∧
    2250 * wakeLatency 4 ≤ (pack 0).dev.quiet ∧ wakeLatency 3 < wakeLatency 4) := by
  decide +kernel

/-- A flit that is late, and one that is not; a remote access by a span that is there; one that has waited. -/
theorem witness_PortsAndSpans_more : (let k : Span := { Span.reset with up := true, replay := [⟨0, 0, 0, 1, 4, 0⟩] };
    (∃ f, k.replay.head? = some f ∧ f.sent + 16384 ≤ 4 + 16384) ∧ ¬(∃ f, k.replay.head? = some f ∧ f.sent + 16384 ≤ 3 + 16384)) ∧
    (let s := { (mapped s0) with inbound := 1 }; s.inbound ≠ 0 ∧ s.dev.pkg < 3 ∧ s.memOk ∧ (ctxAt s 0).ptroot ≠ 0 ∧
      translateFlat (wakePackage { s with inbound := s.inbound - 1 }) 0 0x12340 true = .ok (0x12340, false) ∧ (ctxAt s 1).ptroot = 0) ∧
    (let s := { s0 with remotes := [remote0 none], cycle := 2 ^ 22 }; remoteDead s (remote0 none) = true ∧
      s.remotes.find? (fun q => q.id == 4) = some (remote0 none)) := by
  refine ⟨⟨⟨_, rfl, by decide⟩, fun ⟨f, h, h'⟩ => ?_⟩, by unfold State.memOk; decide +kernel, by decide +kernel⟩
  cases h; exact absurd h' (by decide)

/-- A captured entry whose inputs are not the same; slots that start. -/
theorem witness_FrontCommands_replay : (let s := { s0 with dev := { s0.dev with capOf := [(3, (0, 0x1000))], capbase := 0x100000 } };
    tabFind s.dev.capOf 3 = some (0, 0x1000) ∧
    loadN s (0x100000 + 4096 * 3 + 80) 48 ≠ recordsDigest s (cardJob s 0 0x1000 (loadNat s (0x100000 + 4096 * 3) 64) none) ∧
    (let u := storeN s (0x100000 + 4096 * 3 + 80) (sha384 []);
      let b := cardJob u 0 0x1000 (loadNat u (0x100000 + 4096 * 3) 64) none;
      loadN u (0x100000 + 4096 * 3 + 80) 48 = recordsDigest u b ∧
      (∀ k, k < 8 → loadN u (0x100000 + 4096 * 3 + 128 + 48 * k) 48 = regionDigest u 0 k) ∧
      launchRefusal u 0 = none ∧ ((ctxAt u 0).launched + 2 ^ 32 - (ctxAt u 0).ended) % 2 ^ 32 < 8)) := by
  decide +kernel

/-- A job that stops others; one whose save area HBM holds and one whose it does not; a core that has saved; victims that all
have; a restore with a frame that can be read and one whose is poisoned; a job ended by the front. -/
theorem witness_FrontWork_more : (let stop (sb : Nat) : State := { s0 with
      ctxs := [(0, { Ctx.reset with savebase := sb })], jobs := [(1, { job0 with phase := 2, stopper := some 2 }), (2, waits 0 1)]
      cores := [(0, { Core.reset 0 with strands := [(0, { strand0 with status := .idle, task := none })] })] };
    (∀ o, o ∈ s0.jobs → o.2.phase = 2 → placementsMeet o.2 (waits 0 1) = false) ∧
    (let b := jobAt (stop 0x400000) 1; b.phase = 2 ∧ b.killed = false ∧ 0 ∈ placedCores b ∧ 0 ∉ b.savedOn ∧ 0 ∉ b.saving ∧
      pointsReached (stop 0x400000) 0 = true ∧ areaOutside (stop 0x400000) b.ctx 0 = false ∧
      areaOutside (stop (576 * 2 ^ 30)) b.ctx 0 = true ∧ pointsReached (stop (576 * 2 ^ 30)) 0 = true) ∧
    (let s := { (stop 0x400000) with jobs := [(1, { job0 with phase := 2, stopper := some 2, saving := [0] })] };
      0 ∈ (jobAt s 1).saving ∧ (strandAt s ⟨0, 0⟩).holder = some 1) ∧
    (let s := { (stop 0x400000) with jobs := [(1, { job0 with phase := 2, stopper := some 2, savedOn := [0] })] };
      (∀ o, o ∈ s.jobs → o.2.phase = 2 → o.2.stopper = some 2 → o.2.killed = false ∧ ∀ c, c ∈ placedCores o.2 → c ∈ o.2.savedOn) ∧
      s.jobs.any (fun o => o.2.phase == 2 && o.2.stopper == some 2) = true) ∧
    (let v : SavedCore := ⟨1, 0, [⟨0, { strand0 with status := .ready, holder := none }, [], []⟩], [], none, []⟩;
      let s := { s0 with jobs := [(1, { job0 with phase := 3, savedOn := [0] })], cores := [(0, { Core.reset 0 with saved := [v] })] };
      let bad := { s with poison := [0x400000 + 0x110000] };
      (jobAt s 1).phase = 3 ∧ (jobAt s 1).killed = false ∧ refits s (jobAt s 1) = true ∧ s.fatal = none ∧ unreadable s 1 = none ∧
      refits bad (jobAt bad 1) = true ∧ unreadable bad 1 = some 0) ∧
    (let s := { (stop 0x400000) with jobs := [(1, { job0 with killed := true })] };
      (jobAt s 1).phase < 4 ∧ (jobAt s 1).killed = true ∧ (jobAt s 1).saving = [] ∧ (∀ a, a ∈ heldBy s 1 → atPoint s a = true) ∧
      heldBy s 1 ≠ []) ∧
    ({ s0 with dev := { s0.dev with pkg := 3 } } : State).dev.plim ≠ 0 ∧
    (let x : Stream := ⟨0, 0, 0, 0x1000, 0x2000, 8, true⟩; ({ s0 with streams := [x] } : State).streams[0]? = some x ∧ x.active = true)) := by
  decide +kernel

/-! ## Witnesses of engines, pools, links and the front, clause by clause -/

/-- Numbers, a zero of each sign and a NaN, of both widths. -/
theorem witness_FloatArithmetic_patterns : (let num (f x : Nat) : Bool := match decodeFmt f x with | .fin p _ => p.num != 0 | _ => false;
    let zero (f x : Nat) (n : Bool) : Bool := match decodeFmt f x with | .fin p (some b) => p.num == 0 && b == n | _ => false;
    num 2 0x3F800000 = true ∧ num 1 0xBFF0000000000000 = true ∧ zero 2 0 false = true ∧ zero 2 0x80000000 true = true ∧
    zero 1 0x8000000000000000 true = true ∧ decodeFmt 1 0x7FF8000000000000 = .nan ∧ 0x80000000 < 2 ^ 32) := by
  decide +kernel

/-- A walk that fails; page copies whose page is not far, whose port is down, whose bytes are poison. -/
theorem witness_AnswersArrive_fails : packageRuns s0 = true ∧
    (let w : Walk := ⟨0, 2 ^ 39, false, [], 0⟩; let s := mapped { s0 with dies := [(0, { Die.reset with walks := [w] })] };
      packageRuns s = true ∧ (dieAt s 0).walks = w :: [] ∧ (match walk s w.ctx w.va with | .error _ => true | _ => false) = true) ∧
    (let p : PageCopy := ⟨0, 0x10000, 0, 0xA000, 0x20000, true, 0, 0, false, true⟩;
      let s (leaf : Nat) : State := storeN { s0 with cores := [(0, { (coreAt s0 0) with pages := [p] })], ports := [true, true] } 0xA000 (leBytes 8 leaf);
      let far := 0x8000000001F;
      (∀ x, x ∈ [0xF, far] → (coreAt (s x) 0).pages[0]? = some p ∧ p.running = true) ∧
      bit (loadNat (s 0xF) p.pte 8) 4 = false ∧ bit (loadNat (s far) p.pte 8) 4 = true ∧
      portUp (s far) (pteAddr far) = true ∧ portUp { s far with ports := [false, true] } (pteAddr far) = false ∧
      poisoned (s far) (pteAddr far) (pageSize p.psz) = none ∧
      poisoned { s far with poison := [0x80000000040] } (pteAddr far) (pageSize p.psz) ≠ none) := by
  decide +kernel

theorem witness_TrapEntry_plain : (let pt := ccTrap s0 a0 ⟨0x25, 2, 0, 0⟩;
    (coreAt s0 a0.c).frameBad = false ∧ rerunsFor (strandAt s0 a0) pt = false) := by
  decide +kernel

/-- No trap taken in this cycle; a strand that waits while its job runs; remote accesses out, and a trap that enters its
handler or ends its task; a task that is re-executed; a save area whose frames cannot be written. -/
theorem witness_TrapCauses_ways : (let hw : PendTrap := ccTrap s0 a0 ⟨0xC2, 0x40, 0, 0⟩;
    let out := { with0 (fun t => { t with tvec := 0 }) with remotes := [⟨4, 0, 0, 0, 0x10008, 5, 1, 8, 0, 0, 9, none, 0, 0, 0⟩] };
    let again := with0 (fun t => { t with task := some { task0 with restart := true } });
    let bad := onCore s0 0 (fun k => { k with frameBad := true });
    (strandAt s0 a0).trapAt ≠ some s0.cycle ∧ (0xC0 ≤ hw.cause.code ∧ hw.cause.code ≤ 0xC6) ∧ (0xBD : Nat) ≠ 0x25 ∧
    (let s := with0 (fun t => { t with status := .waiting }); (strandAt s a0).status = .waiting ∧ jobRuns s (jobOf s a0) = true ∧
      (strandAt s a0).trapAt ≠ some s.cycle ∧ (strandAt s a0).atStop = false) ∧
    stopReady s0 a0 = true ∧ entersTrap s0 a0 = true ∧
    stopReady out a0 = true ∧ entersTrap out a0 = false ∧ remotesDone out a0 = false ∧
    rerunsFor (strandAt again a0) hw = true ∧ (strandAt again a0).task = some { task0 with restart := true } ∧
    (let area := (ctxAt bad (ctxOf bad a0)).savebase + 2 ^ 21 * a0.c;
      area + 2 ^ 21 ≤ 576 * 2 ^ 30 ∧ (coreAt bad a0.c).frameBad = true ∧ (strandAt bad a0).tl ≠ 2 ∧ (strandAt bad a0).tvec ≠ 0 ∧
      rerunsFor (strandAt bad a0) (ccTrap bad a0 ⟨0x25, 2, 0, 0⟩) = false)) := by
  decide +kernel

theorem witness_EventsOfStrands_job : jobRuns s0 (jobOf s0 a0) = true := by decide +kernel

/-- A word of the symmetric heap: no answer held, one that equals b, one that differs; room for the request. -/
theorem witness_WaitsAndNotify_heap : (let s := heapState;
    let ad := (src (seen s a0) a0 6).toNat;
    runner s = some a0 ∧ srcReady (seen s a0) a0 6 ∧ srcReady (seen s a0) a0 0 ∧ checkAddr [0, 1, 2, 3] 8 8 ad ad = .ok () ∧
    (match reach (seen s a0) a0 ad false with
      | .ok (u, .remote va l) => grantOf (strandAt u a0) (2 * 0x10000 + 1) == none &&
        !u.remotes.any (fun r => r.core == 0 && r.sx == 0 && r.kind == 14 && r.va == va) &&
        flitRoom { u with routes := [(5, 0x20)], spans := [(0, { Span.reset with up := true })] } 0 l
      | _ => false) = true ∧
    ([0, 9] : List Dword).all (fun v => let u := onStrand s a0 (fun t => { t with grant := [(2 * 0x10000 + 1, v)] });
      runner u == some a0 && (match reach (seen u a0) a0 ad false with
        | .ok (w, .remote ..) => grantOf (strandAt w a0) (2 * 0x10000 + 1) == some v
        | _ => false)) = true) := by
  unfold srcReady; decide +kernel

/-- May the copy unit work on the entry e alone in its queue, with nothing out, its checks passed? -/
def copies (s : State) (e : Entry) : Bool :=
  let t := setQueue s 0 e.q [e]
  queueAt t 0 e.q == [e] && unitMayRun t 0 e && t.poison == [] && t.remotes == [] && e.prog.taken == [] &&
    (match copyCheck t 0 { e with wait := .none } with | .ok _ => true | _ => false)

/-- A place of s0's core's pond. -/
def pond (o : Nat) : Place := ⟨2, 0, o⟩

/-- A dense record of 4 by 3 elements from o on. -/
def layoutAt (fmt o : Nat) : Layout := ⟨fmt, pond o, 2, [4, 3, 1, 1], [1, 4, 0, 0], false, 0, pond 0⟩

/-- The entry of a copy, at its sector k. -/
def copyAt (q k : Nat) (op : EngOp) : Entry := working { entryOf q 0 0 op with prog := { Prog.start with sect := k } }

/-- The first sector and the last of 700 bytes: flat, into the ponds of a mask, selected with a destination and without. -/
theorem witness_CopyWordsPush_sectors : (∀ k, k ∈ [0, 1] →
    copies s0 (copyAt 0 k (.flat (pond 0x1000) (pond 0x2000) 700 0 true)) = true ∧
    copies s0 (copyAt 0 k (.mcast 5 (pond 0x2000) 0x1000 700 0 false)) = true ∧
    copies s0 (copyAt 3 k (.csel (some (pond 0x1000)) (pond 0x2000) 700 0 (pond 0x3000) true)) = true ∧
    copies s0 (copyAt 3 k (.csel none (pond 0x2000) 700 0 (pond 0x3000) true)) = true ∧ 512 * k < 700) ∧
    flatConv s0 (pond 0x1000) (pond 0x2000) = none ∧ (pond 0).space ≠ 0 := by
  decide +kernel

/-- A copy between records that keeps the format and one that converts; its elements in a sector. -/
theorem witness_CopyWordsPush_records : (let d := layoutAt 1 0x1000; let r := layoutAt 2 0x2000;
    let e := copyAt 0 0 (.cpx d r 0 false); let s := queued e; let key := keyOfEntry s e;
    copies s0 e = true ∧ copies s0 (copyAt 0 0 (.cpx d d 0 false)) = true ∧
    fmtBlock (sideFmt r.fmt d.fmt) = false ∧ fmtBlock (sideFmt d.fmt r.fmt) = false ∧ 0 < fmtBytes (sideFmt d.fmt r.fmt) ∧
    0 < fmtBytes (sideFmt r.fmt d.fmt) ∧ d.dims s key ≠ [] ∧ dimCount (d.dims s key) = 12 ∧ ceilDiv 512 (fmtBytes 1) = 64) := by
  decide +kernel

/-- Rows of a gather and of a scatter: an index in the table, 0xFFFFFFFF, one whose row runs over the end of pond. -/
theorem witness_CopyWordsPush_rows : (let r := layoutAt 2 0x1000;
    let s := storeN s0 (locPond 0 0x3000) (leBytes 4 5 ++ leBytes 4 0xFFFFFFFF ++ leBytes 4 0x10000);
    let g := copyAt 0 0 (.cgath r (pond 0x2000) 16 (pond 0x3000) 0 false);
    let e := copyAt 3 0 (.cscat r (pond 0x2000) 16 (pond 0x3000) 0 false);
    let index (i : Nat) : Nat := leNat (fetchPlace s 0 ((pond 0x3000).plus (4 * i)) 4);
    copies s g = true ∧ copies s e = true ∧ g.draws = [] ∧ nth g.prog.acc 0 = 0 ∧
    (rowSpan s (keyOfEntry s g) r 0).2 * fmtBytes r.fmt = 16 ∧ rowCount s (keyOfEntry s g) r = 3 ∧
    index 0 = 5 ∧ 0x2000 + 5 * 16 + 16 ≤ spaceLimit 2 ∧ index 1 = 0xFFFFFFFF ∧ spaceLimit 2 < 0x2000 + index 2 * 16 + 16) := by
  decide +kernel

/-- Operations on elements with a scalar and without, and a sum; a signal in its payload and behind it. -/
theorem witness_CopyWordsPush_operations : (let op (fn : Nat) (x : Option Nat) : EngOp :=
      (.lkop fn (pond 0x1000) (pond 0x2000) x 200 false false false true);
    let signal (k : Nat) : Entry := copyAt 3 k (.wrsig (pond 0x1000) (pond 0x2000) 600 0x2000000000003000 7 0 true);
    copies s0 (copyAt 0 0 (op 1 none)) = true ∧ copies s0 (copyAt 0 0 (op 8 (some 3))) = true ∧
    copies s0 (copyAt 0 0 (op 11 none)) = true ∧ copies s0 (signal 0) = true ∧ copies s0 (signal 2) = true ∧ 600 ≤ 512 * 2) := by
  decide +kernel

/-- The flag of a signal on a page of HBM. -/
theorem witness_CopyWordsPush_flag : (let e := copyAt 3 2 (.wrsig (pond 0x1000) (pond 0x2000) 600 0x10000 7 0 true);
    let s := setQueue (mapped s0) 0 3 [e];
    copies (mapped s0) e = true ∧
    (match spots 0 (jobAt s e.job).ctx true [(⟨0, 0, 0x10000⟩, 8)] s [] with
      | .ok (u, [(.phys _ _, 8)]) => u.poison == []
      | _ => false) = true) := by
  decide +kernel

/-- A page that is far already, one that becomes far, its first sector with the port up and down. -/
theorem witness_CopyWordsPush_pages : (let out (l : List Nat) : Entry :=
      { copyAt 3 0 (.pgout 0x10000 0x80000000000) with prog := { Prog.start with acc := l } };
    let m (leaf : Nat) : State := storeN (mapped { s0 with ports := [true, true] }) 0xA000 (leBytes 8 leaf);
    (∀ leaf, leaf ∈ [0xF, 0x8000000001F] → copies (m leaf) (out []) = true ∧
      (match walk (m leaf) 0 0x10000 with | .ok (x, _, _) => x == leaf | _ => false) = true) ∧
    copies (m 0xF) (out [0xF, 0xA000, 2]) = true ∧ (m 0xF).memOk ∧ portUp (m 0xF) 0x80000000000 = true ∧
    portUp { m 0xF with ports := [false, true] } 0x80000000000 = false ∧ pteAddr 0xF + 512 ≤ 0x80000000000) := by
  unfold State.memOk; decide +kernel

/-- A select pass whose record stands in pond, with room for its result. -/
theorem witness_CopyWordsPush_record : (let e : Entry := { copyAt 3 2 (.csel none (pond 0x2000) 700 0 (pond 0x3000) true) with
      ended := true, prog := { Prog.start with result := some 0 } };
    let s := setQueue s0 0 3 [e];
    queueAt s 0 e.q = e :: [] ∧ s.memOk ∧ 0x3000 + 64 ≤ 2 ^ 20 ∧ e.draws = [] ∧ e.give = 0 ∧ releaseHeldUp s 0 e = false ∧
    (strandAt s ⟨0, e.sx⟩).resq.length < 16 ∧ (0x2000 : Nat) < 0x2010 ∧ 0x2010 < 0x2000 + 64) := by
  unfold State.memOk; decide +kernel

/-- May the vector engine work on the entry e alone in its queue, its checks passed, with nothing of it done? -/
def rows (s : State) (e : Entry) : Bool :=
  let t := setQueue s 0 1 [e]
  queueAt t 0 1 == [e] && e.q == 1 && e.prog == .start && unitMayRun t 0 e && t.poison == [] && !vecIdle t e &&
    (match vecCheck t 0 e with | .ok _ => true | _ => false)

/-- A strided region of n elements from o on, of no consuming source. -/
def regionAt (fmt o n : Nat) : Region := ⟨fmt, 0, .strided (pond o) 1 n⟩

/-- The entry of a vector instruction. -/
def vectorAt (op : EngOp) : Entry := working (entryOf 1 0 0 op)

/-- Has each of the first n elements of r a value? -/
def hasValues (s : State) (r : Region) (n : Nat) : Bool :=
  r.count s 0 == n && (List.range n).all (fun i => match r.get s 0 [] i with | .ok _ => true | _ => false)

/-- The control word with groups of g and a result or none. -/
def ctlOf (g : Nat) (res : Bool) : VCtl := ⟨0, res, false, 0, 0, 2, g⟩

/-- A chain of three sources, one of them absent and one of one element; reductions and scans of whole rows and of groups. -/
theorem witness_VectorWordsPush_rows : (let r (n : Nat) : Region := regionAt 2 0x1000 n;
    let ch : Chain := ⟨[⟨37, 0, 0, 1, 0, 0⟩], 0, 0, 0, [0, 0, 0, 0]⟩;
    rows s0 (vectorAt (.vchain (r 8) (some (r 8)) none (some (r 1)) ch)) = true ∧ hasValues s0 (r 8) 8 = true ∧
    hasValues s0 (r 1) 1 = true ∧
    (∀ g, g ∈ [0, 4] → rows s0 (vectorAt (.vred 0 (r 8) (some (pond 0x3000)) (ctlOf g true))) = true ∧
      rows s0 (vectorAt (.vscan 0 (r 8) (r 8) (ctlOf g true))) = true) ∧
    hasValues s0 (regionAt 0x0A 0x1000 64) 64 = true ∧
    rows s0 (vectorAt (.vred 1 (regionAt 0x0A 0x1000 64) none (ctlOf 0 true))) = true) := by
  decide +kernel

/-- Indices of a gather and of a scatter in the table, skipped, and out of range. -/
theorem witness_VectorWordsPush_tables : (let ix : Place := pond 0x4000;
    let s := storeN s0 (locPond 0 0x4000) (leBytes 4 0xFFFFFFFF ++ leBytes 4 3 ++ leBytes 4 16);
    let index (i : Nat) : Nat := leNat (fetchPlace s 0 (ix.plus (4 * i)) 4);
    let t := regionAt 2 0x2000 16;
    (∀ n, n ∈ [2, 3] → rows s (vectorAt (.vgath (regionAt 2 0x1000 n) t ix (ctlOf 0 true))) = true) ∧
    rows s (vectorAt (.vscat 1 t (regionAt 2 0x1000 2) ix (ctlOf 0 true))) = true ∧
    hasValues s t 16 = true ∧ hasValues s (regionAt 2 0x1000 2) 2 = true ∧ index 0 = 0xFFFFFFFF ∧ index 1 = 3 ∧ index 2 = 16) := by
  decide +kernel

/-- Products of s8 and of Q4 weights, with a scale of rows and a result, and without. -/
theorem witness_VectorWordsPush_products : (let d := regionAt 2 0x1000 2; let b := regionAt 0x08 0x2000 32;
    let dots (fn : Nat) (a : Region) (sb : Nat) : Bool :=
      (List.range 2).all (fun j => match dotOut s0 0 [] fn a b 32 j sb none with | .ok _ => true | _ => false);
    rows s0 (vectorAt (.vdot 0 d (regionAt 0x08 0x3000 64) b (some (regionAt 2 0x5000 2)) 0 (ctlOf 0 true))) = true ∧
    rows s0 (vectorAt (.vdot 1 d (regionAt 0x10 0x3000 64) b none 0x3F800000 (ctlOf 0 false))) = true ∧
    dots 0 (regionAt 0x08 0x3000 64) 0 = true ∧ dots 1 (regionAt 0x10 0x3000 64) 0x3F800000 = true ∧ fmtBlock 0x08 = false ∧
    (match dotSum s0 0 [] (regionAt 0x10 0x3000 64) b 32 0 0 32 with | .ok _ => true | _ => false) = true ∧ b.count s0 0 = 32 ∧
    hasValues s0 (regionAt 2 0x5000 2) 2 = true) := by
  decide +kernel

/-- A permutation; a search whose map is the identity, one that names an expert past the last; a pattern; a count. -/
theorem witness_VectorWordsPush_others : (let d (m : Option Place) : Search :=
      ⟨false, m, pond 0x2000, 16, 2, 1, 0, 4, 2, 2, false, true, pond 0x3000, pond 0x3800⟩;
    let s := storeN s0 (locPond 0 0x4000) [0, 1, 4, 2];
    rows s0 (vectorAt (.vperm (regionAt 2 0x1000 8) (regionAt 1 0x2000 8) (ctlOf 0 true))) = true ∧
    rows s (vectorAt (.vsearch (d none))) = true ∧ rows s (vectorAt (.vsearch (d (some (pond 0x4000))))) = true ∧
    (fetchPlace s 0 (pond 0x4000) 4).map (·.toNat) = [0, 1, 4, 2] ∧
    rows s0 (vectorAt (.vfind [1, 2] (regionAt 0x0C 0x1000 8) 0)) = true ∧
    rows s (vectorAt (.vcount (pond 0x3000) 4 (regionAt 0x0C 0x4000 4) true)) = true ∧
    (List.range 4).map (fun i => elemBits s 0 [] 0x0C (pond 0x4000) i) = [0, 1, 4, 2]) := by
  decide +kernel

/-- Chains of one operation; a first NaN, and numbers in each order; nets of 64 elements; places in the table of a search. -/
theorem witness_VectorWordsPush_values : (let o : ChainOp := ⟨37, 7, 0, 1, 0, 0⟩;
    (⟨[o], 7, 0, 0, []⟩ : Chain).ops = [o] ∧ o.dst < 8 ∧ decodeFmt 2 0x7FC00000 = .nan ∧ decodeFmt 2 0x3F800000 ≠ .nan ∧
    better 2 true 0x40000000 0x3F800000 = true ∧ better 2 true 0x3F800000 0x40000000 = false ∧ (List.replicate 64 7).length = 64 ∧
    (([[3, 5]] : List (List Nat)).getD 0 [])[1]? = some 5 ∧ ((decodeFmt 2 0x3F800000).cmp (decodeFmt 2 0x40000000)).isSome = true ∧
    (∃ a, a ∈ [(0, 7)] ∧ a.1 = 0) ∧ elemType 2 = 2 ∧ elemType 0x0A = 0x0A ∧ elemType 0x0E = 0x0E) := by
  refine ⟨rfl, ?_, ?_, ?_, ?_, ?_, ?_, ?_, ?_, ⟨_, List.mem_cons_self .., rfl⟩, ?_⟩ <;> decide +kernel

/-- A drawn tile of 3 granules at granule 2, of count n and pend p, in a pool whose tail stands at t. -/
def tileOf (n p : Nat) : Tile := ⟨3, 3, 2, 2, 3, n, 0, p, 0, 1, 1, 0, false, false⟩
def tileState (n p t : Nat) : State := poolState (fun u => { u with
  pools := [(3, { (poolAt u 3) with h := 8, t := t, u := 8, used := [8, 0, 0, 0] })], tiles := [tileOf n p] }) strand0

/-- Raises by 0, of a count of 0, past 65,535 and within it; draws of a count of 0 and of 2; the tile's end at the tail of the
ring and behind it. -/
theorem witness_PoolOperations_applied : (let h := 0x30C00080005C0200;
    (∀ n, n ∈ [0, 2, 65535] → tileCheck (tileState n 1 0) 101 0 1 h = .ok (tileOf n 1) ∧
      headAt (tileState n 1 0) 101 0 (startHandle (tileState n 1 0) 101 0 h) = none ∧ unitOf 101 h = 101 ∧ (tileOf n 1).kind = 1) ∧
    (strandAt (tileState 2 1 0) ⟨101, 0⟩).task.any (fun q => q.job == 1) = true ∧ (jobAt (tileState 2 1 0) 1).ctx = 0 ∧
    (∀ t, t ∈ [0, 2] → let q := poolAt (unitAt (tileState 0 0 t) 101) 3;
      q.base % 256 = 0 ∧ q.base + 256 * (2 + 3) ≤ 2 ^ 20 ∧ (∀ x, x ∈ q.spans → x.1 ≠ q.t) ∧ (q.t = 2 ↔ t = 2) ∧ q.u ≠ 0 ∧
      ∀ x, x ∈ q.spans → x.1 ≠ (q.t + 3) % q.size)) := by
  decide +kernel

/-- A head, final or not, with the version before and without, over a drawn tile, and with subscribers in every state. -/
def versionState (final : Bool) (cur ver : Nat) (l : List Sub) : State := poolState (fun u => { u with
  tiles := [⟨3, 3, 1, 0, 2, 1, 0, 0, 0, 3, 1, 0, false, false⟩, ⟨3, 3, 2, 2, 3, 2, 0x11, 0, 0, 1, 1, 0, false, false⟩,
    ⟨3, 3, 3, 5, 3, 1, 0, 0, 0, 2, 1, 1, false, false⟩]
  heads := [(headKey 0 0x30C00040005C0000, ⟨cur, 1, ver, final, false, l, 1, 0⟩)] }) strand0

/-- A subscriber of task 0 bound on core 101. -/
def subOf (state policy : Nat) : Sub := ⟨7, 0x12340, 0, 0, 101, state, policy, false, false, false, 0, 0, 101, 0, 100⟩

/-- Publications: on a head that is final, over a handle that is no tile, as a first version, in place of one before. -/
theorem witness_Versions_published : (let h := 0x30C00040005C0000; let tile := 0x30C00080005C0200;
    let subs := [subOf 0 0, subOf 1 0, subOf 2 1, subOf 2 2, subOf 5 0, subOf 6 0];
    let ok (s : State) : Bool := match headCheck s 101 0 1 h with | .ok _ => true | _ => false;
    let apart (s : State) : Prop := (unitAt s 101).tiles.Pairwise (fun x y => sameTile x y = false);
    let first := versionState false 0 0 subs; let later := versionState false 0x30C000C0005C0500 7 subs;
    ok (versionState true 0 3 []) = true ∧ ok first = true ∧ ok later = true ∧ apart first ∧ apart later ∧
    hValid tile = true ∧ (tileAt first (unitOf 101 tile) 0 tile).map (fun t => (t.kind, t.job)) = some (1, 1) ∧
    (tileAt later (unitOf 101 0x30C000C0005C0500) 0 0x30C000C0005C0500).map (·.kind) = some 2 ∧ hValid 0 = false ∧
    (subs.filter (fun b => b.state ≠ 6)).length = 5) := by
  decide +kernel

/-- Bindings: the sixteenth subscriber, before a version, with its tile gone, with a version and the deque with room or full. -/
theorem witness_Versions_bound : (let h := 0x30C00040005C0000; let b := subOf 0 0;
    let ok (s : State) : Bool := match headCheck s 101 0 1 h with | .ok _ => true | _ => false;
    let s (cur ver n : Nat) : State := versionState false cur ver (List.replicate n b);
    let full := onCore (s 0x30C000C0005C0500 7 3) 101 (fun k => { k with
      deque := (List.range 56).map (fun i => ⟨0x12340, 0, 1, 1, none, [], none, none, i⟩) });
    ok (s 0 0 15) = true ∧ ok (s 0 0 14) = true ∧ ok (s 0x30C00100005C0500 7 3) = true ∧ ok (s 0x30C000C0005C0500 7 3) = true ∧
    tileAt (s 0x30C00100005C0500 7 3) 101 0 0x30C00100005C0500 = none ∧
    (tileAt (s 0x30C000C0005C0500 7 3) 101 0 0x30C000C0005C0500).isSome = true ∧ ok full = true ∧
    generalUsed (coreAt full 101) = 56 ∧ generalUsed (coreAt (s 0x30C000C0005C0500 7 3) 101) = 0) := by
  decide +kernel

/-- A deque that is busy, with a wait in progress and without; a post that is unacknowledged, with a slot free. -/
theorem witness_ChildrenPushed_waits : (let busy (w : Option Wait) : State := { (with0 (fun t => { t with wait := w, status := .waiting })) with
      cores := [(0, { (coreAt s0 0) with strands := [(0, { strand0 with wait := w, status := .waiting })], dqBusy := true })] };
    let w : Wait := ⟨.enq, 3, 100, 0⟩;
    let out := { s0 with remotes := [remote0 none] };
    (∀ x, x ∈ [none, some w] → runner (busy x) = some a0 ∧ (strandAt (seen (busy x) a0) a0).wait = x ∧
      (coreAt (seen (busy x) a0) 0).dqBusy = true ∧ ccPerformed (seen (busy x) a0) a0 = true ∧
      dequeSlot (coreAt (seen (busy x) a0) 0) task0.depth ≠ none ∧ (strandAt (seen (busy x) a0) a0).task = some task0) ∧
    runner out = some a0 ∧ ccPerformed (seen out a0) a0 = false ∧ dequeSlot (coreAt (seen out a0) 0) task0.depth ≠ none) := by
  decide +kernel

/-- Join frames that can be written, that HBM does not hold, whose writes fail. -/
theorem witness_InlineChildAndJoin_frames : (let s := crowded task0;
    let past := { s with ctxs := [(0, { (ctxAt s 0) with savebase := 576 * 2 ^ 30 - 2 ^ 20 })] };
    let bad := onCore s 0 (fun k => { k with frameBad := true });
    frameFails (seen s a0) 0 0 = none ∧ frameFails (seen past a0) 0 0 = some 0x99 ∧ frameFails (seen bad a0) 0 0 = some 0x9A ∧
    runner past = some a0 ∧ runner bad = some a0 ∧ (ctxAt past 0).savebase ≠ 0) := by
  decide +kernel

/-- A tile table with room while the job's heads are 1,024. -/
theorem witness_Allocation_heads : (let s := poolState (fun u => { u with
      heads := (List.range 1024).map (fun i => (i, ⟨0, 0, 0, false, false, [], 1, 0⟩)) }) strand0;
    liveHeads s 1 = 1024 ∧ (unitAt s 101).tiles.length < 512 ∧ ringPlace (poolAt (unitAt s 101) 3) 0 3 ≠ none) := by
  decide +kernel

/-- A PGIN whose page is local, and whose copy has run; FP64 pairs of which MZERO clears one tile. -/
theorem witness_UnitsWork_pgin : (let e := working (entryOf 0 0 0 (.pgin 0x10000 0x20000)); let s := setQueue (mapped s0) 0 0 [e];
    unitMayRun s 0 e = true ∧ headEntry s 0 0 = some e ∧ headEntry (pginStep s 0 e 0x10000 0x20000) 0 0 ≠ some e ∧
    (∀ m, m ∈ [1, 2] → bit m 0 = true ∨ (bit m 1 = true ∧ nth [2, 2, 0, 0] 1 = 2))) := by
  decide +kernel

/-- The launch with its second member on another device, and that member's span with n flits. -/
def farLaunch (n : Nat) (l : Launch) : State :=
  { (storeN (collState l) (locPond 0 0x1000) (leBytes 4 0 ++ leBytes 4 (2 ^ 24 + 7))) with
    inbound := 3, routes := [(7, 0x20)], spans := [(0, { Span.reset with up := true, replay := List.replicate n ⟨0, 0, 7, 1, 0, 0⟩ })] }

/-- A send to a member on another device whose flits have k entered the store. -/
def farSend (k : Nat) : StepRun :=
  ⟨1, 1, 0, none, some 1, some ⟨0x2000000000004000, 2, 200⟩, none, false, false, true, true, 0, 200, k⟩

/-- Messages that flits have brought; a send with flits to go, with room and without, and with none to go; an abort of this
rank and of another. -/
theorem witness_CollectiveMessages_far : (let l (k : Nat) : Launch := { launch0 with runs := [farSend k] };
    (∀ n, n ∈ [0, 256] → ∀ k, k ∈ [0, 4] → (memberRoute (farLaunch n (l k)) 0 (l k) 1).isSome = true ∧
      launchAt (farLaunch n (l k)) 0 5 = some (l k) ∧ (match memberRoute (farLaunch n (l k)) 0 (l k) 1 with
        | some x => spanRoom (farLaunch n (l k)) x 1 == (n == 0)
        | none => false) = true) ∧
    flitCount (farSend 0).sendLen = 4 ∧ (farSend 0).needSend = true ∧ (farSend 0).needReady = false ∧ (farSend 0).needData = false ∧
    1 ≤ (farLaunch 0 launch0).inbound ∧ flitCount 480 ≤ (farLaunch 0 launch0).inbound ∧ memberRoute (collState launch0) 0 launch0 1 = none ∧
    (collState launch0).abortFrom = (collState launch0).dev.rank ∧ ({ collState launch0 with abortFrom := 7 } : State).abortFrom ≠ 0 ∧
    (∀ p, p ∈ [(true, true), (false, true)] → let r : StepRun := { farSend 4 with needSend := p.1, needAck := p.2 };
      r.sendPeer = some 1 ∧ r.needSend = p.1 ∧ r.needAck = true)) := by
  decide +kernel

/-- Accesses of the host: of no kind; a VF's window that its tables map, without and with poison, past 2^52, not mapped. -/
theorem witness_HostAccesses_windows : (let vf (v : Nat) : State := mapped { s0 with
      ctxs := [(0, { (ctxAt s0 0) with enabled := true, vwin := v })] };
    let va := (ctxAt (vf 0x10000) 0).vwin + 0x40;
    (ctxAt (vf 0x10000) (1 - 1)).enabled = true ∧ (2 : BitVec 2).toNat ≥ 2 ∧ (vf 0x10000).dev.pkg < 3 ∧ (vf 0x10000).memOk ∧
    pageCuts va 8 = [(va, 8)] ∧ vfPlace (wakePackage (vf 0x10000)) 0 false va = some (.ok 0x10040) ∧
    vfPlace (wakePackage (vf 0x10000)) 0 true va = some (.ok 0x10040) ∧ poisoned (vf 0x10000) 0x10040 8 = none ∧
    poisoned { (vf 0x10000) with poison := [0x10040] } 0x10040 8 ≠ none ∧ 2 ^ 52 < 2 ^ 52 - 4 + 8 ∧
    pageCuts (2 ^ 40) 8 = [(2 ^ 40, 8)] ∧ vfPlace (wakePackage (vf (2 ^ 40))) 0 false (2 ^ 40) = none ∧
    (3 ≤ ({ s0 with dev := { s0.dev with pkg := 4 } } : State).dev.pkg ∧ s0.dev.plim ≠ 0)) := by
  unfold State.memOk; decide +kernel

/-- A hart that is stopped; accesses that the package's wake holds and that stand behind one held; a wall behind one that does
not admit the hart; modes and delegated exceptions. -/
theorem witness_ToolClusterAndMonitors_harts : (let wall (perm h : Nat) : Nat := perm + 2 ^ 65 + 2 ^ (96 + h);
    let s : State := { s0 with
      harts := [(31, { Hart.reset with run := true })]
      walls := [(0, wall 7 0), (5, wall 7 31)]
      dev := { s0.dev with tzSize := 1, pkg := 3, plim := 0 } };
    let k (mode deleg : Nat) : Hart := { Hart.reset with mode := mode, csr := [(0x302, deleg)] };
    (hartAt s 30).run = false ∧ (hartAt s 31).run = true ∧ wallFor s 31 0 8 = some (wall 7 31) ∧ bit (wall 7 31) 0 = true ∧
    (3 ≤ s.dev.pkg ∧ s.dev.plim = 0) ∧
    (hartAt { s with harts := [(31, { Hart.reset with run := true, held := [⟨0, 0, 8, 0, 0⟩] })] } 31).held ≠ [] ∧ (hartAt s 31).held = [] ∧
    (∀ p, p ∈ [(3, 0), (0, 0), (1, 0), (0, 32)] → (k p.1 p.2).mode = p.1 ∧
      bit ((k p.1 p.2).reg 0x302) 5 = (p.2 == 32)) ∧
    (let t := { s0 with monitors := [(63, { Monitor.reset with sel := 1, ctl := 1 })], samples := [(63, 7)] };
      (63, 7) ∈ t.samples ∧ bit (monitorAt t 63).ctl 2 = false ∧ (monitorAt t 63).bins.length = 32)) := by
  decide +kernel

/-- An image whose bytes stand in the boot window. -/
theorem witness_PowerAndErrors_boot : (let s := { s0 with dev := { s0.dev with stage := 1 }, sec := { s0.sec with boot := [(0, 0x030201)] } };
    ([1, 2, 3] : List Byte).zipIdx.all (fun p => bits (tabGet 0 s.sec.boot (p.2 / 8)) (8 * (p.2 % 8)) 8 == p.1.toNat) = true ∧
    s.dev.stage = 1 ∧ s.sec.failed = false) := by
  decide +kernel

/-- A request to send from the n-th flit on and of no flit held; the replay store with room and full. -/
theorem witness_PortsAndSpans_flits : (let f (q n : Nat) : Flit := ⟨q, 0, 7, 1, 0, n⟩;
    let s (l : List Flit) : State := { s0 with routes := [(7, 0x20)], spans := [(0, { Span.reset with up := true, replay := l })] };
    let k := (spanAt (s [f 3 0, f 4 15, f 5 16]) 0).replay;
    k = [f 3 0] ++ f 4 15 :: [f 5 16] ∧ (f 4 15).seq % 2 ^ 32 = 4 ∧ (f 3 0).seq % 2 ^ 32 ≠ 4 ∧ k.all (fun x => x.seq % 2 ^ 32 != 6) = true ∧
    [f 4 15].all (fun x => decide (x.resends < 16)) = true ∧ [f 5 16].any (fun x => decide (16 ≤ x.resends)) = true ∧
    spanOn (s []) 7 = some 0 ∧ spanRoom (s []) 7 1 = true ∧ 256 ≤ (spanAt (s (List.replicate 256 (f 3 0))) 0).replay.length) := by
  decide +kernel

/-- Accesses at home: of a context without tables, of a page that is not mapped, within a page, and across two. -/
theorem witness_PortsAndSpans_home : (let s := { (mapped s0) with inbound := 1 };
    let u := wakePackage { s with inbound := s.inbound - 1 };
    s.memOk ∧ s.inbound ≠ 0 ∧ s.dev.pkg < 3 ∧ (ctxAt s 1).ptroot = 0 ∧ (ctxAt s 0).ptroot ≠ 0 ∧
    pageCuts 0x10000 240 = [(0x10000, 240)] ∧ translateFlat u 0 0x10000 false = .ok (0x10000, false) ∧
    translateFlat u 0 0x10000 true = .ok (0x10000, false) ∧ (2 ^ 39, 8) ∈ pageCuts (2 ^ 39) 8 ∧
    (match translateFlat u 0 (2 ^ 39) false, translateFlat u 0 (2 ^ 39) true with | .error _, .error _ => true | _, _ => false) = true) := by
  unfold State.memOk; decide +kernel

/-- Remote accesses of a strand, of an entry at its queue's head and of one that has gone, and of the host's window; one dead by
its age, by its span, by its rank; a number that none has. -/
theorem witness_PortsAndSpans_answers : (let e := working (entryOf 1 0 0 (.bset 0 5));
    let of (core kind : Nat) (q : Option Nat) : Remote := ⟨4, core, 0, 0, 0x10008, 5, kind, 8, 0, 0, e.seq, q, 0, 0, 0⟩;
    let s (r : Remote) : State := { (queued e) with remotes := [r], inbound := 1, routes := [(5, 0x20)], spans := [(0, { Span.reset with up := true })] };
    (∀ p, p ∈ [(0, 0, none), (0, 1, none), (0, 14, none), (0, 15, none), (0, 0, some 1), (0, 0, some 2), (1728, 0, none), (1728, 1, none)] →
      let r := of p.1 p.2.1 p.2.2; (s r).remotes.find? (fun q => q.id == r.id) = some r ∧ r.queue = p.2.2 ∧ r.kind = p.2.1 ∧
        (remoteEntry (s r) r).isSome = (p.2.2 == some 1) ∧ r.size ≤ 8) ∧
    (strandAt (s (of 0 0 none)) a0).task.isSome = true ∧
    (strandAt { s (of 0 0 none) with cores := [] } a0).task = none ∧
    remoteDead (s (of 0 0 none)) (of 0 0 none) = false ∧
    remoteDead { s (of 0 0 none) with cycle := 2 ^ 22 } (of 0 0 none) = true ∧
    remoteDead { s (of 0 0 none) with spans := [] } (of 0 0 none) = true ∧
    (s (of 0 0 none)).remotes.all (fun r => r.id != 5) = true) := by
  decide +kernel

/-- Parameter writes of the START's cycle and of an earlier one; a context whose jobs have ended and one with a job; a context
that is being reset. -/
theorem witness_FrontCommands_resets : (let x (c : Nat) : Slot := { Slot.reset with fresh := (c, [(3, 7, 9)]), params := [(3, 9), (259, 4)] };
    ((x s0.cycle).fresh.1 = s0.cycle ∧ (x 1).fresh.1 ≠ s0.cycle ∧ (x 1).fresh.2.all (fun w => decide (w.1 < 256)) = true) ∧
    (let s := { s0 with ctxs := [(0, { (ctxAt s0 0) with resetting := true, busy := true })] };
      (ctxAt s 0).resetting = true ∧ (s.jobs.any (fun j => j.2.ctx == 0 && j.2.phase != 4)) = true ∧
      (let t := { s with jobs := [(1, { job0 with phase := 4 })] }; (ctxAt t 0).resetting = true ∧
        t.jobs.all (fun j => j.2.ctx != 0 || j.2.phase == 4) = true)) ∧
    (ctxAt s0 0).nwrFirst ≤ 3 ∧ 3 < (ctxAt s0 0).nwrFirst + (ctxAt s0 0).nwrCount) := by
  decide +kernel

/-- Streams of no bytes, from bytes and to bytes that are not mapped, of mapped bytes that do not overlap. -/
theorem witness_FrontWork_streams : (let x (src dst len : Nat) : Stream := ⟨0, 0, 0, src, dst, len, true⟩;
    let s (y : Stream) : State := { (mapped s0) with streams := [y] };
    let u (y : Stream) : State := { wakePackage (s y) with streams := (s y).streams.eraseIdx 0 };
    let good := x 0x10000 0x20000 512;
    (s good).streams[0]? = some good ∧ good.active = true ∧ (s good).dev.pkg < 3 ∧ (x 0 0 0).len = 0 ∧ (s good).poison = [] ∧
    (frontLocs 0 false (pageCuts (2 ^ 40) 512) (u (x (2 ^ 40) 0x20000 512))).isNone = true ∧
    (match frontLocs 0 false (pageCuts 0x10000 512) (u good) with
      | some (v, _) => v.poison == [] && (frontLocs 0 true (pageCuts (2 ^ 40) 512) v).isNone &&
        (match frontLocs 0 true (pageCuts 0x20000 512) v with | some (w, _) => w.poison == [] | none => false)
      | none => false) = true ∧ ¬((0x10000 : Nat) < 0x20000 ∧ 0x20000 < 0x10000 + 512)) := by
  decide +kernel

/-- A job that has become ready before another on the same cores, one that may stop jobs, saves whose frames fail, a killed job
whose strands stand still. -/
theorem witness_FrontWork_order : (let early := { waits 0 1 with readyAt := 5 }; let later := { waits 0 0 with readyAt := 6 };
    (early.readyAt < later.readyAt ∧ placementsMeet early later = true) ∧
    (let s := { s0 with jobs := [(1, { job0 with phase := 2, stopper := some 2 }), (2, waits 0 1)], cores := [(0, { Core.reset 0 with
        frameBad := true, strands := [(0, { strand0 with status := .idle, task := none })] })] };
      let b := jobAt s 1; b.phase = 2 ∧ 0 ∈ placedCores b ∧ 0 ∉ b.savedOn ∧ 0 ∉ b.saving ∧ b.killed = false ∧ pointsReached s 0 = true ∧
      areaOutside s b.ctx 0 = false ∧ (coreAt s 0).frameBad = true) ∧
    (let s := { s0 with jobs := [(1, { job0 with killed := true })], cores := [(0, { Core.reset 0 with
        strands := [(0, { strand0 with status := .ready })] })] };
      let b := jobAt s 1; b.phase < 4 ∧ b.killed = true ∧ b.saving = [] ∧ heldBy s 1 = [a0] ∧ (strandAt s a0).status ≠ .running ∧
      queuedEntries s a0 = [] ∧ s.remotes = [])) := by
  decide +kernel

/-- A waiting strand that has been given back; a word of memory that a WAITC watches; a steal of a core fenced meanwhile; a
strand that has overrun its budget. -/
theorem witness_Timetable_more : (let st (l : List Strand) (k : Core → Core) : State := { s0 with
      cores := [(0, k { (coreAt s0 0) with turn := none, strands := l.zipIdx.map (fun x => (x.2, x.1)) })] };
    let s := st [{ strand0 with status := .waiting }] id;
    let w : Wait := ⟨.watch 0x2000000000000100, 5, 100, 7⟩;
    let r : Steal := ⟨0, 1, false, 40, none⟩;
    let f := { st [{ strand0 with status := .idle, task := none }] (fun k => { k with steals := [r], fenced := true }) with cycle := 40 };
    (coreAt s 0).turn = none ∧ (dieAt s 0).hold = false ∧ waitingStrand s 0 = some 0 ∧
    waitingStrand (st [{ strand0 with status := .ready }] id) 0 = none ∧ chooseStrand (st [{ strand0 with status := .ready }] id) 0 = some 0 ∧
    w.kind = .watch 0x2000000000000100 ∧ waitMet s a0 w = true ∧ waitMet s a0 { w with arg := 0 } = false ∧
    ((coreAt f 0).steals.find? (fun r => r.sx == 0) = some r ∧ (seeks f ⟨0, 0⟩).isSome = true ∧ r.due ≤ f.cycle ∧
      (coreAt f 0).fenced = true ∧ r.got = none) ∧
    (let t := st [{ strand0 with status := .ready, segbud := -200000, overran := true }] (fun k => { k with periodDue := true });
      (coreAt t 0).periodDue = true ∧ (strandAt t a0).segbud < -(t.dev.ttper : Int) ∧ (strandAt t a0).overran = true)) := by
  decide +kernel

/-! ## Digests, signatures, refused step words -/

/-- FIPS 180-4's example: the SHA-384 digest of "abc". -/
theorem test_sha384 : leNat (sha384 [0x61, 0x62, 0x63]).reverse =
    0xcb00753f45a35e8bb5a03d699ac65007272c32ab0eded1631a8b605a43ff5bed8086072ba1e7cc2358baeca134c825a7 := by decide +kernel

/-- The base point of P-384 lies on its curve; its double, of the published multiples of it. -/
theorem test_p384 : onCurve pBase = true ∧ (pointAdd (some pBase) (some pBase)).map (·.1) =
    some 0x08D999057BA3D2D969260045C55B97F089025959A6F434D651D207D19FB96E9E4FE0E86EBE0E64F85B96A9C75295DF61 := by decide +kernel

/-- 14 R328: a step that uses no loop counter names none. -/
theorem test_step_field_unused : (match decodeStep 1 2 0x1000001010000000 with | .ok _ => true | .error _ => false) = true ∧
    (match decodeStep 1 2 0x1000001011000000 with | .ok _ => false | .error _ => true) = true := by decide +kernel

/-- 21 R456, R458: span 0 goes down; rank 7, whose one path it was, is absent, and the launch with a member there has gone. -/
theorem test_span_lost : (let s := storeN (collState launch0) (locPond 0 0x1000) (leBytes 4 0 ++ leBytes 4 (2 ^ 24 + 7));
    let t := recordLost 0 { s with routes := [(7, 0x20)], spans := [(0, { (spanAt s 0) with up := false })] };
    (launchAt s 0 5).isSome = true ∧ t.absent = [7] ∧ (launchAt t 0 5).isNone = true) := by
  decide +kernel

/-- 21 R463: headroom 0 begins a hold, 15 does not end it, 16 does. -/
theorem test_headroom : (let hold (s : State) : Bool × Nat := ((dieAt s 2).hold, (dieAt s 2).thead);
    hold (headroom s0 2 0) = (true, 0) ∧ hold (headroom (headroom s0 2 0) 2 15) = (true, 15) ∧
    hold (headroom (headroom s0 2 0) 2 16) = (false, 16)) := by
  decide +kernel

/-- 21 R442: the lowest bad field of a node. -/
theorem test_node_bad : nodeBadAt (1 + 0xFFF * 2 ^ 72 + 0xFFF * 2 ^ 84 + 3) 5 = 0 ∧ nodeBadAt (1 + 5 * 2 ^ 72 + 6 * 2 ^ 84) 5 = 72 ∧
    nodeBadAt (1 + 0xFFF * 2 ^ 72 + 5 * 2 ^ 84) 5 = 84 := by
  decide +kernel

end Sys2Proof.Tests

end
end

section
/-! The statements on predicates, shape registers, branches and jumps: how a strand stands after an instruction that goes on
in sequence or jumps, one rule per shared operation, and the statements from these rules. -/

namespace Sys2Proof.Machine

/-! ## An instruction that has issued -/

/-- Going on in sequence changes nothing beside strand a. -/
theorem Alone.finish_seq {s t : State} {a : At} (h : Alone s t a) (len : Nat) (y : Dword) :
    Alone s (finish a len ⟨t, y, .seq⟩) a := h.trans (.strand _ _ _)

/-- A jump changes nothing beside strand a. -/
theorem Alone.finish_jump {s t : State} {a : At} (h : Alone s t a) (len : Nat) (y : Dword) (target : Nat) :
    Alone s (finish a len ⟨t, y, .jump target⟩) a := h.trans (.strand _ _ _)

theorem strandAt_finish_seq (t : State) (a : At) (len : Nat) (y : Dword) :
    strandAt (finish a len ⟨t, y, .seq⟩) a = advance len y .seq (strandAt t a) := strandAt_onStrand_same _ _ _

theorem strandAt_finish_jump (t : State) (a : At) (len : Nat) (y : Dword) (target : Nat) :
    strandAt (finish a len ⟨t, y, .jump target⟩) a = advance len y (.jump target) (strandAt t a) :=
  strandAt_onStrand_same _ _ _

/-- The state after an instruction that changes nothing and goes on in sequence. -/
theorem finish_nop (len : Nat) (s : State) (a : At) : DoneNop len s (finish a len ⟨s, 0, .seq⟩) a where
  alone := (Alone.refl s a).finish_seq len 0
  follows := by rw [strandAt_finish_seq]; exact follows_advance len 0 _
  kept := by rw [strandAt_finish_seq, still_advance]

/-- A long-immediate group does what its prefixed instruction does with the long immediate (R142). -/
theorem exec_liw_prefixed {imm word : Word} {i : Instr} (h : decodePrefixed imm word = .ok i) (s : State) :
    exec (.liw imm word) s = runLong imm word i s := by
  change execLiw imm word s = _
  simp only [execLiw, h]

/-- What holds of an operation at every length and offset holds of its instruction, prefixed and not. -/
theorem InWords.of_op {w : Nat} {mk : BitVec w → Instr} {P : Nat → Int → Instr → Prop} {s : State}
    (op : Nat → Int → State → Host.Outcome State Fault Refusal) (short : ∀ o, exec (mk o) s = op 4 o.toInt s)
    (long : ∀ imm word o, runLong imm word (mk o) s = op 12 imm.toInt s)
    (h : ∀ len off i, exec i s = op len off s → P len off i) : InWords mk P :=
  ⟨fun o => h _ _ _ (short o), fun imm word o hd => h _ _ _ ((exec_liw_prefixed hd s).trans (long imm word o))⟩

/-! ## Predicates (R145, R166) -/

theorem pVal_putP_same {n : Nat} (v : Bool) (t : Strand) (h : n ≠ 0) : pVal (putP n v t) n = v := by
  simp [putP, pVal, h]

theorem pVal_putP_ne {n m : Nat} (v : Bool) (t : Strand) (h : m ≠ n) : pVal (putP n v t) m = pVal t m := by
  by_cases hn : n = 0
  · simp [putP, hn]
  · simp [putP, pVal, hn, tabGet_put_ne _ _ _ h]

/-- A write to a p register changes the predicate file alone. -/
theorem putP_rest (n : Nat) (v : Bool) (t : Strand) : putP n v t = { t with p := (putP n v t).p } := by
  unfold putP
  split <;> rfl

/-- The state after an instruction that has written a p destination and goes on in sequence. -/
theorem finish_putP (s : State) (a : At) (d : BitVec 3) (v : Bool) :
    DoneP s (finish a 4 ⟨onStrand s a (putP d.toNat v), 0, .seq⟩) a d v := by
  have hs : strandAt (finish a 4 ⟨onStrand s a (putP d.toNat v), 0, .seq⟩) a =
      advance 4 0 .seq (putP d.toNat v (strandAt s a)) := by rw [strandAt_finish_seq, strandAt_onStrand_same]
  refine ⟨(Alone.strand s a _).finish_seq 4 0, fun hd => ?_, fun r hr => ?_, ?_, ?_⟩ <;> rw [hs]
  · exact pVal_putP_same v _ fun e => hd (BitVec.eq_of_toNat_eq e)
  · exact pVal_putP_ne v _ hr
  · rw [putP_rest]; exact (follows_advance 4 0 _).of_eq rfl rfl rfl rfl rfl
  · rw [putP_rest]; rfl

/-- A comparison of ready selectors into a ready predicate (R166). -/
theorem runs_cmpP {i : Instr} {s : State} {a : At} {d : BitVec 3} {x y : BitVec 6} (f : Dword → Dword → Bool)
    (he : exec i s = cmpP d x y f s) (hr : runner s = some a) (hx : srcReady (seen s a) a x)
    (hy : srcReady (seen s a) a y) (hd : pReady (seen s a) a d) :
    Runs i s (fun t => DoneP (seen s a) t a d (f (src (seen s a) a x) (src (seen s a) a y))) :=
  .of he hr (by simp only [rd_ready hx, rd_ready hy, wrP_ready hd]) (finish_putP _ _ _ _)

/-- A function of ready predicates into a ready predicate (R166). -/
theorem runs_opP {i : Instr} {s : State} {a : At} {d x y : BitVec 3} (f : Bool → Bool → Bool)
    (he : exec i s = opP d x y f s) (hr : runner s = some a) (hx : pReady (seen s a) a x)
    (hy : pReady (seen s a) a y) (hd : pReady (seen s a) a d) :
    Runs i s (fun t => DoneP (seen s a) t a d
      (f (pVal (strandAt (seen s a) a) x.toNat) (pVal (strandAt (seen s a) a) y.toNat))) :=
  .of he hr (by simp only [rdP_ready hx, rdP_ready hy, wrP_ready hd]) (finish_putP _ _ _ _)

theorem zero_append_toNat {w n : Nat} (x : BitVec n) : ((0 : BitVec w) ++ x).toNat = x.toNat := by
  rw [append_toNat]; simp

/-- The word of a predicate instruction whose fields read x and y (R139, R166). -/
theorem predicateWord_toNat (d : BitVec 3) (a b : BitVec 6) (f : BitVec 8) {x y : Nat} (ha : a.toNat = x) (hb : b.toNat = y) :
    [(wRR 9 ((0 : BitVec 2) ++ d) 0 a b f).toNat] =
      [0b001001 * 2 ^ 26 + d.toNat * 2 ^ 21 + x * 2 ^ 14 + y * 2 ^ 8 + f.toNat] := by
  rw [wRR_toNat, zero_append_toNat, ha, hb]
  simp only [BitVec.ofNat_eq_ofNat, BitVec.toNat_ofNat, List.cons.injEq, and_true]
  omega

/-- Settles O5: every predicate instruction is a comparison or a function of predicates into pd. -/
theorem predicates : Obligations.Predicates := by
  intro s a d hr hd
  refine ⟨fun x y hx hy => ?_, fun x y hx hy => ?_, runs_opP (fun u _ => !u) rfl hr hd hd hd, ?_, ?_, ?_⟩
  · exact ⟨runs_cmpP (fun u v => u == v) rfl hr hx hy hd,
      (runs_cmpP (fun u v => u != v) rfl hr hx hy hd).mono fun _ h => by rwa [decide_not],
      runs_cmpP (fun u v => u.slt v) rfl hr hx hy hd, runs_cmpP (fun u v => u.ult v) rfl hr hx hy hd,
      runs_cmpP (fun u v => u.sle v) rfl hr hx hy hd, runs_cmpP (fun u v => u.ule v) rfl hr hx hy hd⟩
  · exact ⟨runs_opP (fun u v => u && v) rfl hr hx hy hd, runs_opP (fun u v => u || v) rfl hr hx hy hd,
      runs_opP (fun u v => u != v) rfl hr hx hy hd, runs_opP (fun u _ => !u) rfl hr hx hx hd⟩
  · intro x y
    have word (f : BitVec 8) := predicateWord_toNat d x y f rfl rfl
    exact ⟨word 0, word 1, word 2, word 3, word 4, word 5⟩
  · intro x y
    have word (f : BitVec 8) :=
      predicateWord_toNat d ((0 : BitVec 3) ++ x) ((0 : BitVec 3) ++ y) f (zero_append_toNat x) (zero_append_toNat y)
    exact ⟨word 6, word 7, word 8, predicateWord_toNat d ((0 : BitVec 3) ++ x) 0 9 (zero_append_toNat x) rfl⟩
  · exact predicateWord_toNat d 0 0 10 rfl rfl

/-! ## Shape registers (R177) -/

theorem strandAt_wrE (s : State) (a : At) (n v : Nat) :
    strandAt (wrE s a n v) a = { strandAt s a with e := tabPut (strandAt s a).e n (v % 2 ^ 32) } := strandAt_onStrand_same _ _ _

theorem Alone.then_wrE {s t : State} {a : At} (h : Alone s t a) (n v : Nat) : Alone s (wrE t a n v) a := h.trans (.strand _ _ _)

/-- The state after an instruction that has written an e destination and goes on in sequence. -/
theorem finish_wrE (s : State) (a : At) (d : BitVec 4) {r : Nat} (h : r < 2 ^ 32) :
    DoneE s (finish a 4 ⟨wrE s a d.toNat r, 0, .seq⟩) a d r := by
  refine ⟨((Alone.refl s a).then_wrE _ _).finish_seq 4 0, ?_, fun i hi => ?_, ?_, ?_⟩ <;>
    rw [strandAt_finish_seq, strandAt_wrE, Nat.mod_eq_of_lt h]
  · exact tabGet_put_same _ _ _ _
  · exact tabGet_put_ne _ _ _ hi
  · exact (follows_advance 4 0 _).of_eq rfl rfl rfl rfl rfl
  · rfl

/-- A shape operation on an e register and a ready selector, whose result fits its register (R177). -/
theorem runs_opE {i : Instr} {s : State} {a : At} {d x : BitVec 4} {b : BitVec 6} (f : Nat → Nat → Nat)
    (he : exec i s = opE d x b f s) (hr : runner s = some a) (hb : srcReady (seen s a) a b)
    (hf : f (eVal (seen s a) a x) ((src (seen s a) a b).toNat % 2 ^ 32) < 2 ^ 32) :
    Runs i s (fun t => DoneE (seen s a) t a d (f (eVal (seen s a) a x) ((src (seen s a) a b).toNat % 2 ^ 32))) :=
  .of he hr (by simp only [rd_ready hb]) (finish_wrE _ _ _ hf)

/-- EGET copies an e register to a ready g destination (R177). -/
theorem runs_eget {s : State} {a : At} {d : BitVec 5} {n : BitVec 1} {x : BitVec 4} (hr : runner s = some a)
    (hd : dstReady (seen s a) a d n) :
    let v := BitVec.ofNat 64 (eVal (seen s a) a x)
    Runs (.eget d n x) s (fun t => DoneG 4 (seen s a) t a d n v v) :=
  .of (show exec (.eget d n x) s = execEget d n x s from rfl) hr (by simp only [aluDone, wrG_ready hd])
    (finish_wroteG 4 _ _ _ _ _ _)

/-- A shape-register file after the registers of a list have been cleared. -/
def clearE (e : Tab Nat) (l : List Nat) : Tab Nat := l.foldl (fun e i => tabPut e i 0) e

theorem tabGet_clearE (e : Tab Nat) (l : List Nat) (i : Nat) : tabGet 0 (clearE e l) i = if i ∈ l then 0 else tabGet 0 e i := by
  induction l generalizing e with
  | nil => rfl
  | cons j l ih =>
    change tabGet 0 (clearE (tabPut e j 0) l) i = _
    rw [ih]
    by_cases h : i = j
    · subst h; simp
    · simp [h, tabGet_put_ne _ _ _ h]

/-- Clearing e registers one by one changes nothing beside strand a. -/
theorem Alone.clearAll {s t : State} {a : At} (h : Alone s t a) (l : List Nat) :
    Alone s (l.foldl (fun s i => wrE s a i 0) t) a := by
  induction l generalizing t with
  | nil => exact h
  | cons i l ih => exact ih (h.then_wrE i 0)

theorem strandAt_clearAll (s : State) (a : At) (l : List Nat) :
    strandAt (l.foldl (fun s i => wrE s a i 0) s) a = { strandAt s a with e := clearE (strandAt s a).e l } := by
  induction l generalizing s with
  | nil => rfl
  | cons i l ih => rw [List.foldl_cons, ih, strandAt_wrE]; rfl

/-- The indices that ECLR takes from a register are those of its set bits. -/
theorem mem_setBits_toNat (n : Nat) (v : Dword) {i : Nat} (hi : i < n) : i ∈ setBits n v.toNat ↔ v.getLsbD i = true := by
  simp [setBits, bit, hi, BitVec.getLsbD, Nat.testBit_eq_decide_div_mod_eq]

/-- ECLR clears the e registers whose bits are set, and changes nothing else (R177). -/
theorem runs_eclr {s : State} {a : At} {b : BitVec 6} (hr : runner s = some a) (hb : srcReady (seen s a) a b) :
    Runs (.eclr b) s (fun t => Alone (seen s a) t a ∧ Follows 4 0 (strandAt (seen s a) a) (strandAt t a) ∧
      (∀ i : BitVec 4, eVal t a i = if (src (seen s a) a b).getLsbD i.toNat then 0 else eVal (seen s a) a i) ∧
      { (strandAt t a).still with e := [] } = { (strandAt (seen s a) a).still with e := [] }) := by
  refine .of (show exec (.eclr b) s = execEclr b s from rfl) hr (by simp only [rd_ready hb]; rfl) ?_
  refine ⟨((Alone.refl _ a).clearAll _).finish_seq 4 0, ?_, fun i => ?_, ?_⟩
  · rw [strandAt_finish_seq, strandAt_clearAll]
    exact (follows_advance 4 0 _).of_eq rfl rfl rfl rfl rfl
  · rw [eVal, strandAt_finish_seq, strandAt_clearAll, e_advance, tabGet_clearE]
    simp only [mem_setBits_toNat 16 (src (seen s a) a b) i.isLt, eVal]
  · rw [strandAt_finish_seq, strandAt_clearAll]; rfl

/-- The fn field of an RR word (R139). -/
theorem wRR_fn (m : BitVec 6) (d : BitVec 5) (n : BitVec 1) (a b : BitVec 6) (f : BitVec 8) :
    [(wRR m d n a b f).toNat % 256] = [f.toNat] := by
  rw [wRR_toNat, Nat.mul_add_mod_self_right, Nat.mod_eq_of_lt f.isLt]

/-- The d and b fields of an ECLR word are zero. -/
theorem eclrWord_fields (a : BitVec 6) :
    [((wRR 20 0 0 a 0 5).toNat / 2 ^ 21 % 32, (wRR 20 0 0 a 0 5).toNat / 2 ^ 8 % 64)] = [(0, 0)] := by
  have := a.isLt
  rw [wRR_toNat]
  simp only [BitVec.ofNat_eq_ofNat, BitVec.toNat_ofNat, List.cons.injEq, Prod.mk.injEq, and_true]
  omega

/-- Settles O7: each result of a shape instruction fits the 32 bits of an e register, so that it stands there unchanged. -/
theorem shapeRegisters : Obligations.ShapeRegisters := by
  intro s a n x hr u hu
  refine ⟨fun d b hb => ?_, fun d hd => ?_, fun b hb => runs_eclr hr hb, fun d b => ?_, fun d => wRR_fn ..⟩
  · have hv : (src (seen s a) a b).toNat % 2 ^ 32 < 2 ^ 32 := Nat.mod_lt _ (by decide)
    exact ⟨runs_opE (x := 0) (fun _ v => v) rfl hr hb hv, runs_opE min rfl hr hb (lt_of_le_of_lt (min_le_left _ _) hu),
      runs_opE (fun u v => u - v) rfl hr hb (lt_of_le_of_lt (Nat.sub_le _ _) hu),
      runs_opE (fun u v => min (2 ^ 32 - 1) (u + v)) rfl hr hb (lt_of_le_of_lt (min_le_left _ _) (by decide))⟩
  · exact runs_eget hr hd
  · exact ⟨wRR_fn .., wRR_fn .., wRR_fn .., wRR_fn .., wRR_fn .., eclrWord_fields b⟩

/-! ## Branches and jumps (R178 to R181) -/

/-- The strand after a jump (R181, R183). -/
theorem jumped_advance (len : Nat) (y : Dword) (target : Nat) (t : Strand) :
    Jumped y target t (advance len y (.jump target) t) := ⟨rfl, rfl, ⟨rfl, rfl, rfl⟩, rfl, ⟨rfl, rfl⟩, rfl⟩

/-- A jump after an update of the general registers is one of the strand before it. -/
theorem Jumped.of_noG {y : Dword} {target : Nat} {t t' u : Strand} (h : Jumped y target t' u) (hn : t'.noG = t.noG) :
    Jumped y target t u := by
  obtain ⟨hy, hs, -, hc, hl⟩ := noG_place hn
  obtain ⟨pc, latch, going, bubble, loop, kept⟩ := h
  rw [hy] at latch
  rw [hs] at going
  rw [hc, hl] at loop
  exact ⟨pc, latch, going, bubble, loop, by rw [kept, still_noG_of hn]⟩

/-- The state after an instruction that has written a g destination and jumps. -/
theorem finish_wroteG_jump (len : Nat) (s : State) (a : At) (d : BitVec 5) (n : BitVec 1) (v : Dword) (target : Nat) :
    let t := finish a len ⟨wroteG s a d n 1 v, 0, .jump target⟩
    Alone s t a ∧ WroteG d n v (strandAt s a) (strandAt t a) ∧ Jumped 0 target (strandAt s a) (strandAt t a) := by
  refine ⟨(wroteG_alone s a d n 1 v).finish_jump len 0 target, ?_, ?_⟩ <;> rw [strandAt_finish_jump]
  · obtain ⟨value, others, pend, kept⟩ := wroteG_strand (s := s) (a := a) d n v
    exact ⟨value, others, pend, kept⟩
  · exact (jumped_advance len 0 target _).of_noG (wroteG_noG s a d n 1 v)

/-- BR with a true condition jumps (R178, R181). -/
theorem runs_br_taken {i : Instr} {s : State} {a : At} {len : Nat} {p : BitVec 3} {inv : BitVec 1} {off : Int}
    (he : exec i s = brOp len p inv off s) (hr : runner s = some a) (hp : pReady (seen s a) a p)
    (taken : (pVal (strandAt (seen s a) a) p.toNat ^^ (inv == 1)) = true) :
    Runs i s (fun t => Alone (seen s a) t a ∧
      Jumped 0 (wordsFrom (pcOf (seen s a) a) off) (strandAt (seen s a) a) (strandAt t a) ∧
      (strandAt t a).g = (strandAt (seen s a) a).g ∧ (strandAt t a).pend = (strandAt (seen s a) a).pend) := by
  refine .of he hr (by simp only [rdP_ready hp]; rw [if_pos taken]) ⟨(Alone.refl _ a).finish_jump _ _ _, ?_⟩
  rw [strandAt_finish_jump]
  exact ⟨jumped_advance _ _ _ _, rfl, rfl⟩

/-- BR with a false condition goes on in sequence (R178). -/
theorem runs_br_untaken {i : Instr} {s : State} {a : At} {len : Nat} {p : BitVec 3} {inv : BitVec 1} {off : Int}
    (he : exec i s = brOp len p inv off s) (hr : runner s = some a) (hp : pReady (seen s a) a p)
    (untaken : (pVal (strandAt (seen s a) a) p.toNat ^^ (inv == 1)) = false) :
    Runs i s (fun t => DoneNop len (seen s a) t a) :=
  .of he hr (by simp only [rdP_ready hp]; rw [if_neg (Bool.eq_false_iff.mp untaken)]) (finish_nop len _ a)

/-- JAL writes the address behind it and jumps (R179). -/
theorem runs_jal {i : Instr} {s : State} {a : At} {len : Nat} {d : BitVec 5} {n : BitVec 1} {off : Int}
    (he : exec i s = jalOp len d n off s) (hr : runner s = some a) (hd : dstReady (seen s a) a d n) :
    Runs i s (fun t => Alone (seen s a) t a ∧
      WroteG d n (BitVec.ofNat 64 ((pcOf (seen s a) a + len) % 2 ^ 52)) (strandAt (seen s a) a) (strandAt t a) ∧
      Jumped 0 (wordsFrom (pcOf (seen s a) a) off) (strandAt (seen s a) a) (strandAt t a)) :=
  .of he hr (by simp only [wrG_ready hd]) (finish_wroteG_jump len _ a d n _ _)

/-- JR with a target that an instruction can have writes the address behind it and jumps (R180). -/
theorem runs_jr {i : Instr} {s : State} {a : At} {len : Nat} {d : BitVec 5} {n : BitVec 1} {x : BitVec 6} {off : Int}
    (he : exec i s = jrOp len d n x off s) (hr : runner s = some a) (hx : srcReady (seen s a) a x)
    (hd : dstReady (seen s a) a d n) {target : Nat} (ht : (src (seen s a) a x + BitVec.ofInt 64 (4 * off)).toNat = target)
    (aligned : target % 4 = 0) (within : target < 2 ^ 52) :
    Runs i s (fun t => Alone (seen s a) t a ∧
      WroteG d n (BitVec.ofNat 64 ((pcOf (seen s a) a + len) % 2 ^ 52)) (strandAt (seen s a) a) (strandAt t a) ∧
      Jumped 0 target (strandAt (seen s a) a) (strandAt t a)) := by
  have hok : ¬(target % 4 ≠ 0 ∨ 2 ^ 52 ≤ target) := by omega
  exact .of he hr (by simp only [rd_ready hx, ht]; rw [if_neg hok, wrG_ready hd]) (finish_wroteG_jump len _ a d n _ target)

/-- JR with any other target traps with 0x25 (R404). -/
theorem exec_jr_refused {i : Instr} {s : State} {a : At} {len : Nat} {d : BitVec 5} {n : BitVec 1} {x : BitVec 6} {off : Int}
    (he : exec i s = jrOp len d n x off s) (hr : runner s = some a) (hx : srcReady (seen s a) a x)
    {target : Nat} (ht : (src (seen s a) a x + BitVec.ofInt 64 (4 * off)).toNat = target)
    (bad : target % 4 ≠ 0 ∨ 2 ^ 52 ≤ target) :
    exec i s = .next (signalTrap (seen s a) a (ccTrap (seen s a) a ⟨0x25, target, 0, 0⟩)) :=
  he.trans (issue_trap hr (by simp only [rd_ready hx, ht]; exact if_pos bad))

/-- Settles O19, for the short forms and the long-immediate groups at once. -/
theorem branchesAndJumps : Obligations.BranchesAndJumps := by
  refine ⟨fun s a p inv hr hp => ⟨rfl, ?_⟩, fun s a d n hr => ⟨fun hd => ?_, fun x hx => ?_⟩⟩
  · refine .of_op (s := s) (fun len => brOp len p inv) (fun _ => rfl) (fun _ _ _ => rfl) fun len off i he => ?_
    exact ⟨runs_br_taken he hr hp, runs_br_untaken he hr hp⟩
  · refine .of_op (s := s) (fun len => jalOp len d n) (fun _ => rfl) (fun _ _ _ => rfl) fun len off i he => ?_
    exact runs_jal he hr hd
  · refine .of_op (s := s) (fun len => jrOp len d n x) (fun _ => rfl) (fun _ _ _ => rfl) fun len off i he => ?_
    exact ⟨fun aligned within hd => runs_jr he hr hx hd rfl aligned within, exec_jr_refused he hr hx rfl⟩

end Sys2Proof.Machine
end

section
/-! The round trip of the encodings, from the lemma of each constructor. -/

namespace Sys2Proof.Laws.Encoding

/-- Every constructor has its lemma (R138 to R154, R328, R333). -/
theorem statement_holds : ∀ i : Instr, Statement i
  | .add d n a b => add d n a b
  | .sub d n a b => sub d n a b
  | .and d n a b => and d n a b
  | .or d n a b => or d n a b
  | .xor d n a b => xor d n a b
  | .andn d n a b => andn d n a b
  | .orn d n a b => orn d n a b
  | .shl d n a b => shl d n a b
  | .shr d n a b => shr d n a b
  | .sar d n a b => sar d n a b
  | .rol d n a b => rol d n a b
  | .min d n a b => min d n a b
  | .max d n a b => max d n a b
  | .minn d n a b => minn d n a b
  | .maxn d n a b => maxn d n a b
  | .seq d n a b => seq d n a b
  | .sne d n a b => sne d n a b
  | .slt d n a b => slt d n a b
  | .sltn d n a b => sltn d n a b
  | .sle d n a b => sle d n a b
  | .slen d n a b => slen d n a b
  | .clz d n a => clz d n a
  | .ctz d n a => ctz d n a
  | .popc d n a => popc d n a
  | .addi d n a i => addi d n a i
  | .andi d n a i => andi d n a i
  | .ori d n a i => ori d n a i
  | .xori d n a i => xori d n a i
  | .shli d n a s => shli d n a s
  | .shri d n a s => shri d n a s
  | .sari d n a s => sari d n a s
  | .roli d n a s => roli d n a s
  | .seqi d n a i => seqi d n a i
  | .slti d n a i => slti d n a i
  | .sltni d n a i => sltni d n a i
  | .lea d n a b s => lea d n a b s
  | .mul d n a b => mul d n a b
  | .mulh d n a b => mulh d n a b
  | .mulhn d n a b => mulhn d n a b
  | .div d n a b => div d n a b
  | .divn d n a b => divn d n a b
  | .rem d n a b => rem d n a b
  | .remn d n a b => remn d n a b
  | .peq d a b => peq d a b
  | .pne d a b => pne d a b
  | .plt d a b => plt d a b
  | .pltn d a b => pltn d a b
  | .ple d a b => ple d a b
  | .plen d a b => plen d a b
  | .pand d a b => pand d a b
  | .por d a b => por d a b
  | .pxor d a b => pxor d a b
  | .pnot d a => pnot d a
  | .ptog d => ptog d
  | .sel d n a b v p => sel d n a b v p
  | .ldS8 d b o => ldS8 d b o
  | .ldN8 d b o => ldN8 d b o
  | .ldS16 d b o => ldS16 d b o
  | .ldN16 d b o => ldN16 d b o
  | .ldS32 d b o => ldS32 d b o
  | .ldN32 d b o => ldN32 d b o
  | .ldD d b o => ldD d b o
  | .stB s b o => stB s b o
  | .stH s b o => stH s b o
  | .stW s b o => stW s b o
  | .stD s b o => stD s b o
  | .stfW s b o => stfW s b o
  | .stfD s b o => stfD s b o
  | .ldfWKeep d b o => ldfWKeep d b o
  | .ldfWTake d b o => ldfWTake d b o
  | .ldfDKeep d b o => ldfDKeep d b o
  | .ldfDTake d b o => ldfDTake d b o
  | .aaddW d n a b => aaddW d n a b
  | .aaddD d n a b => aaddD d n a b
  | .asaddW d n a b => asaddW d n a b
  | .asaddD d n a b => asaddD d n a b
  | .aminW d n a b => aminW d n a b
  | .aminD d n a b => aminD d n a b
  | .amaxW d n a b => amaxW d n a b
  | .amaxD d n a b => amaxD d n a b
  | .aminnW d n a b => aminnW d n a b
  | .aminnD d n a b => aminnD d n a b
  | .amaxnW d n a b => amaxnW d n a b
  | .amaxnD d n a b => amaxnD d n a b
  | .aandW d n a b => aandW d n a b
  | .aandD d n a b => aandD d n a b
  | .aorW d n a b => aorW d n a b
  | .aorD d n a b => aorD d n a b
  | .axorW d n a b => axorW d n a b
  | .axorD d n a b => axorD d n a b
  | .aswapW d n a b => aswapW d n a b
  | .aswapD d n a b => aswapD d n a b
  | .acasW d n a b => acasW d n a b
  | .acasD d n a b => acasD d n a b
  | .afaddW d n a b => afaddW d n a b
  | .faddD d n a b => faddD d n a b
  | .faddS d n a b => faddS d n a b
  | .fsubD d n a b => fsubD d n a b
  | .fsubS d n a b => fsubS d n a b
  | .fmulD d n a b => fmulD d n a b
  | .fmulS d n a b => fmulS d n a b
  | .fminD d n a b => fminD d n a b
  | .fminS d n a b => fminS d n a b
  | .fmaxD d n a b => fmaxD d n a b
  | .fmaxS d n a b => fmaxS d n a b
  | .fabsD d n a => fabsD d n a
  | .fabsS d n a => fabsS d n a
  | .fnegD d n a => fnegD d n a
  | .fnegS d n a => fnegS d n a
  | .fceqD d n a b => fceqD d n a b
  | .fceqS d n a b => fceqS d n a b
  | .fcltD d n a b => fcltD d n a b
  | .fcltS d n a b => fcltS d n a b
  | .fcleD d n a b => fcleD d n a b
  | .fcleS d n a b => fcleS d n a b
  | .ffmaD d n a b => ffmaD d n a b
  | .ffmaS d n a b => ffmaS d n a b
  | .fcvtF32F64 d n a m => fcvtF32F64 d n a m
  | .fcvtF64F32 d n a m => fcvtF64F32 d n a m
  | .fcvtF16F32 d n a m => fcvtF16F32 d n a m
  | .fcvtF32F16 d n a m => fcvtF32F16 d n a m
  | .fcvtBf16F32 d n a m => fcvtBf16F32 d n a m
  | .fcvtF32Bf16 d n a m => fcvtF32Bf16 d n a m
  | .fcvtKf8F32 d n a m => fcvtKf8F32 d n a m
  | .fcvtF32Kf8 d n a m => fcvtF32Kf8 d n a m
  | .fcvtS64F64 d n a m => fcvtS64F64 d n a m
  | .fcvtF64S64 d n a m => fcvtF64S64 d n a m
  | .fcvtS32F32 d n a m => fcvtS32F32 d n a m
  | .fcvtF32S32 d n a m => fcvtF32S32 d n a m
  | .fcvtN64F64 d n a m => fcvtN64F64 d n a m
  | .fcvtF64N64 d n a m => fcvtF64N64 d n a m
  | .exp2D d n a => exp2D d n a
  | .exp2S d n a => exp2S d n a
  | .log2D d n a => log2D d n a
  | .log2S d n a => log2S d n a
  | .rcpD d n a => rcpD d n a
  | .rcpS d n a => rcpS d n a
  | .rsqD d n a => rsqD d n a
  | .rsqS d n a => rsqS d n a
  | .kand d n a b => kand d n a b
  | .kor d n a b => kor d n a b
  | .kxor d n a b => kxor d n a b
  | .kandn d n a b => kandn d n a b
  | .knot d n a => knot d n a
  | .kshl d n a b => kshl d n a b
  | .kshr d n a b => kshr d n a b
  | .kpop d n a => kpop d n a
  | .kmovg d n a => kmovg d n a
  | .kmovk d n a => kmovk d n a
  | .kbit d n a b => kbit d n a b
  | .ktst d n a b => ktst d n a b
  | .kldm d n a b => kldm d n a b
  | .kffs d n a => kffs d n a
  | .emov d n a => emov d n a
  | .eget d n a => eget d n a
  | .emin d n a b => emin d n a b
  | .esub d n a b => esub d n a b
  | .eadd d n a b => eadd d n a b
  | .eclr a => eclr a
  | .br p v o => br p v o
  | .jal d n o => jal d n o
  | .jr d n a i => jr d n a i
  | .loop a l => loop a l
  | .loopi l c => loopi l c
  | .nop => nop
  | .halt => halt
  | .trap a => trap a
  | .eret => eret
  | .evret => evret
  | .mfs d n r => mfs d n r
  | .mts a r => mts a r
  | .fence => fence
  | .afence => afence
  | .phaseCore => phaseCore
  | .phaseClus => phaseClus
  | .phaseDie => phaseDie
  | .phasePkg => phasePkg
  | .phaseDom => phaseDom
  | .phaseSys => phaseSys
  | .segend e c => segend e c
  | .waitc d n a b => waitc d n a b
  | .sched a b => sched a b
  | .park d n a => park d n a
  | .notify a b => notify a b
  | .rpop d n => rpop d n
  | .liw imm word => liw imm word
  | .cinG t g x y z => cinG t g x y z
  | .cinL t g x y z => cinL t g x y z
  | .cinP t g x y z => cinP t g x y z
  | .cinMc t g x y z => cinMc t g x y z
  | .coutG t g x y z => coutG t g x y z
  | .coutL t g x y z => coutL t g x y z
  | .coutP t g x y z => coutP t g x y z
  | .coutSel t g x y z => coutSel t g x y z
  | .cpxPp t g x y z => cpxPp t g x y z
  | .cpxPl t g x y z => cpxPl t g x y z
  | .cpxLp t g x y z => cpxLp t g x y z
  | .cpxLl t g x y z => cpxLl t g x y z
  | .cgathP t g x y z => cgathP t g x y z
  | .cgathL t g x y z => cgathL t g x y z
  | .cscatP t g x y z => cscatP t g x y z
  | .cscatL t g x y z => cscatL t g x y z
  | .pgin t g x y => pgin t g x y
  | .pgout t g x y => pgout t g x y
  | .wrsig t g x y z => wrsig t g x y z
  | .wrsigAdd t g x y z => wrsigAdd t g x y z
  | .lkopFill t g x y z => lkopFill t g x y z
  | .lkopAdd t g x y z => lkopAdd t g x y z
  | .lkopSadd t g x y z => lkopSadd t g x y z
  | .lkopMin t g x y z => lkopMin t g x y z
  | .lkopMax t g x y z => lkopMax t g x y z
  | .lkopAnd t g x y z => lkopAnd t g x y z
  | .lkopOr t g x y z => lkopOr t g x y z
  | .lkopXor t g x y z => lkopXor t g x y z
  | .lkopFadd t g x y z => lkopFadd t g x y z
  | .lkopFmax t g x y z => lkopFmax t g x y z
  | .lkopFmul t g x y z => lkopFmul t g x y z
  | .lkopRsum t g x y z => lkopRsum t g x y z
  | .give a => give a
  | .take a => take a
  | .qdepth d n a b => qdepth d n a b
  | .qseq d n a b => qseq d n a b
  | .vchain t g x y z => vchain t g x y z
  | .vredSum t g x y z => vredSum t g x y z
  | .vredMax t g x y z => vredMax t g x y z
  | .vredMin t g x y z => vredMin t g x y z
  | .vredArgmax t g x y z => vredArgmax t g x y z
  | .vredArgmin t g x y z => vredArgmin t g x y z
  | .vredSumsq t g x y z => vredSumsq t g x y z
  | .vscanAdd t g x y z => vscanAdd t g x y z
  | .vscanMax t g x y z => vscanMax t g x y z
  | .vgath t g x y z => vgath t g x y z
  | .vscatSet t g x y z => vscatSet t g x y z
  | .vscatAdd t g x y z => vscatAdd t g x y z
  | .vscatMax t g x y z => vscatMax t g x y z
  | .vscatMul t g x y z => vscatMul t g x y z
  | .vdotS8 t g x y z => vdotS8 t g x y z
  | .vdotQ4 t g x y z => vdotQ4 t g x y z
  | .vdotT5 t g x y z => vdotT5 t g x y z
  | .bset t g x y => bset t g x y
  | .vperm t g x y z => vperm t g x y z
  | .vsearchTopk t g x y z => vsearchTopk t g x y z
  | .vsearchThr t g x y z => vsearchThr t g x y z
  | .vfind t g x y z => vfind t g x y z
  | .vcount t g x y z => vcount t g x y z
  | .mlt t g x => mlt t g x
  | .mgo t g x => mgo t g x
  | .mldwDense t g x z => mldwDense t g x z
  | .mldwS24 t g x y z => mldwS24 t g x y z
  | .mldwS14 t g x y z => mldwS14 t g x y z
  | .mswap t g => mswap t g
  | .mmask t g x => mmask t g x
  | .mzero t g x => mzero t g x
  | .mdrainP t g x y z => mdrainP t g x y z
  | .mdrainPort t g x y z => mdrainPort t g x y z
  | .mdrainSel t g x y z => mdrainSel t g x y z
  | .mstat t g => mstat t g
  | .talloc d n a b => talloc d n a b
  | .tallocV d n a b => tallocV d n a b
  | .tadd a b => tadd a b
  | .tdraw a => tdraw a
  | .tabnd a => tabnd a
  | .tinfo d n a => tinfo d n a
  | .pubv p s a b => pubv p s a b
  | .pubvF p s a b => pubvF p s a b
  | .tsub d n a b => tsub d n a b
  | .stopref a => stopref a
  | .swait a => swait a
  | .tver d n a => tver d n a
  | .fork a b => fork a b
  | .join => join
  | .enq a b => enq a b
  | .card d n => card d n
  | .mbpost a b => mbpost a b
  | .mbtake d n a => mbtake d n a
  | .coll d n a b => coll d n a b
  | .csend cl ln f => csend cl ln f
  | .crecv cl ln f => crecv cl ln f
  | .crrs cl ln f => crrs cl ln f
  | .ccopy cl ln f => ccopy cl ln f
  | .cwait cl ln w => cwait cl ln w
  | .cloop cl ln k rel v len => cloop cl ln k rel v len
  | .cbar cl ln => cbar cl ln
  | .cend cl ln => cend cl ln
  | .hostRegisterWrite fn off v => hostRegisterWrite fn off v
  | .graphParameterWrite slot k v => graphParameterWrite slot k v
  | .gstart slot bank => gstart slot bank
  | .graphSlotConfigWrite slot reg v => graphSlotConfigWrite slot reg v
  | .launch ctx card => launch ctx card
  | .installPoolDescriptors ctx => installPoolDescriptors ctx
  | .shootdown ctx => shootdown ctx
  | .shootdownDone ctx => shootdownDone ctx
  | .jend ctx jobid => jend ctx jobid
  | .crst ctx => crst ctx
  | .vfFlr vf => vfFlr vf
  | .replay v => replay v
  | .trun m => trun m
  | .thold m => thold m
  | .wallWrite w half v => wallWrite w half v
  | .plimWrite v => plimWrite v
  | .routeEntryWrite idx v => routeEntryWrite idx v
  | .monitorClear m => monitorClear m
  | .monitorSatClear m => monitorSatClear m
  | .elstatDropClear v => elstatDropClear v
  | .cfenceClear cl m => cfenceClear cl m
  | .monitorSample m v => monitorSample m v
  | .notifyMirrorWrite fn n v => notifyMirrorWrite fn n v
  | .toolNotifyStore hart n v => toolNotifyStore hart n v
  | .toolSandboxAccess hart kind addr size v => toolSandboxAccess hart kind addr size v
  | .doorbellClear hart v => doorbellClear hart v
  | .attestationRequest => attestationRequest
  | .securityImageVerify img ver key hdr body sig => securityImageVerify img ver key hdr body sig
  | .deviceReset => deviceReset
  | .pcieHotReset => pcieHotReset
  | .hostLinkError kind => hostLinkError kind
  | .hostBar2Access fn wr off size v => hostBar2Access fn wr off size v
  | .powerStateEntry part st => powerStateEntry part st
  | .powerWake part => powerWake part
  | .thermalHoldEntry die => thermalHoldEntry die
  | .thermalHoldExit die head => thermalHoldExit die head
  | .thermalTrip die => thermalTrip die
  | .supplyFault => supplyFault
  | .plimOverrun => plimOverrun
  | .correctableError die => correctableError die
  | .patrolPoison loc syn => patrolPoison loc syn
  | .deviceFatalError code unit syn => deviceFatalError code unit syn
  | .securityProcessorFault => securityProcessorFault
  | .toolCacheError hart addr => toolCacheError hart addr
  | .tileTableError unit syn => tileTableError unit syn
  | .cxlPortDown port => cxlPortDown port
  | .cxlPortRetrained port => cxlPortRetrained port
  | .flitReceive span seq bad => flitReceive span seq bad
  | .flitAck span seq => flitAck span seq
  | .flitAckTimeout span => flitAckTimeout span
  | .spanUp span full => spanUp span full
  | .remoteAccessHome ctx kind va size v c => remoteAccessHome ctx kind va size v c
  | .remoteResponse id code v => remoteResponse id code v
  | .remoteAccessTimeout id => remoteAccessTimeout id
  | .pierReport code arg => pierReport code arg
  | .collReadyArrive cl ln peer => collReadyArrive cl ln peer
  | .collDataArrive cl ln peer fmt data => collDataArrive cl ln peer fmt data
  | .collTransferFinish cl ln step ack => collTransferFinish cl ln step ack
  | .cbarMessage cl ln peer => cbarMessage cl ln peer
  | .collAbortMessage cl tag => collAbortMessage cl tag
  | .collTimeout cl ln kind => collTimeout cl ln kind
  | .jobIssue job => jobIssue job
  | .class0Preempt job => class0Preempt job
  | .preemptPointLate core job => preemptPointLate core job
  | .contextSave core job => contextSave core job
  | .saveComplete core job => saveComplete core job
  | .contextRestore job => contextRestore job
  | .streamNodeStart => streamNodeStart
  | .streamNodeComplete i => streamNodeComplete i
  | .jobEnd job => jobEnd job
  | .cardServe => cardServe
  | .periodStart core => periodStart core
  | .strandChoice core => strandChoice core
  | .eventDelivery core sx => eventDelivery core sx
  | .waitExpiry core who => waitExpiry core who
  | .asyncPoolCause core sx => asyncPoolCause core sx
  | .taskStart core sx => taskStart core sx
  | .stealRequest core sx => stealRequest core sx
  | .stealResult core sx => stealResult core sx
  | .stealRetry core sx => stealRetry core sx
  | .poolUnitCycle unit => poolUnitCycle unit
  | .subscriberFireTimeout head sub => subscriberFireTimeout head sub
  | .settleExamine job set => settleExamine job set
  | .engineEntryBegin core q => engineEntryBegin core q
  | .copySector core side => copySector core side
  | .vectorRow core => vectorRow core
  | .reductionRetire core => reductionRetire core
  | .engineEntryComplete core q => engineEntryComplete core q
  | .pageWalkComplete die => pageWalkComplete die
  | .pageCopyComplete core i bad => pageCopyComplete core i bad
  | .scoreboardReturn core sx => scoreboardReturn core sx
  | .virtualFunctionEnable vf on => virtualFunctionEnable vf on
  | .toolTimerInterrupt hart => toolTimerInterrupt hart

/-- Settles O46: the lemma of the instruction's own constructor. -/
theorem decodeReadsWhatEncodeWrites : Obligations.DecodeReadsWhatEncodeWrites := statement_holds

end Sys2Proof.Laws.Encoding
end

section
/-! The statements on integer arithmetic, mask registers and conversions: what the shared ALU forms compute, as the spec's
tables say it. -/

namespace Sys2Proof.Machine

/-! ## Values (R162 to R165) -/

theorem signed_min (u v : Dword) : (if u.toInt ≤ v.toInt then u else v) = BitVec.ofInt 64 (min u.toInt v.toInt) := by
  split
  · next h => rw [min_eq_left h, BitVec.ofInt_toInt]
  · next h => rw [min_eq_right (by omega), BitVec.ofInt_toInt]

theorem signed_max (u v : Dword) : (if u.toInt ≤ v.toInt then v else u) = BitVec.ofInt 64 (max u.toInt v.toInt) := by
  split
  · next h => rw [max_eq_right h, BitVec.ofInt_toInt]
  · next h => rw [max_eq_left (by omega), BitVec.ofInt_toInt]

theorem unsigned_min (u v : Dword) : (if u.toNat ≤ v.toNat then u else v) = BitVec.ofNat 64 (min u.toNat v.toNat) := by
  split
  · next h => rw [min_eq_left h, BitVec.ofNat_toNat, BitVec.setWidth_eq]
  · next h => rw [min_eq_right (by omega), BitVec.ofNat_toNat, BitVec.setWidth_eq]

theorem unsigned_max (u v : Dword) : (if u.toNat ≤ v.toNat then v else u) = BitVec.ofNat 64 (max u.toNat v.toNat) := by
  split
  · next h => rw [max_eq_right h, BitVec.ofNat_toNat, BitVec.setWidth_eq]
  · next h => rw [max_eq_left (by omega), BitVec.ofNat_toNat, BitVec.setWidth_eq]

/-- A flag that decides a proposition. -/
theorem flag_of_iff {b : Bool} {p : Prop} [Decidable p] (h : b = true ↔ p) : flag b = if p then 1 else 0 := by
  unfold flag
  simp only [h]

theorem flag_eq (u v : Dword) : flag (u == v) = if u = v then 1 else 0 := flag_of_iff (by simp)
theorem flag_ne (u v : Dword) : flag (u != v) = if u = v then 0 else 1 := by
  rw [flag_of_iff (p := u ≠ v) (by simp), ite_not]
theorem flag_slt (u v : Dword) : flag (u.slt v) = if u.toInt < v.toInt then 1 else 0 := flag_of_iff BitVec.slt_iff_toInt_lt
theorem flag_ult (u v : Dword) : flag (u.ult v) = if u.toNat < v.toNat then 1 else 0 := flag_of_iff BitVec.ult_iff_toNat_lt
theorem flag_sle (u v : Dword) : flag (u.sle v) = if u.toInt ≤ v.toInt then 1 else 0 := flag_of_iff BitVec.sle_iff_toInt_le
theorem flag_ule (u v : Dword) : flag (u.ule v) = if u.toNat ≤ v.toNat then 1 else 0 := flag_of_iff BitVec.ule_iff_toNat_le

/-- Settles O1: each instruction is the shared two-operand form with its function. -/
theorem aluTwoOperands : Obligations.AluTwoOperands := by
  intro s a d n x y hr hx hy hd
  have on (f : Dword → Dword → Dword) {i : Instr} {r : Dword} (he : exec i s = alu2 d n x y f s)
      (hf : f (src (seen s a) a x) (src (seen s a) a y) = r) : Runs i s (fun t => DoneG 4 (seen s a) t a d n r r) :=
    runs2 f he hr hx hy hd hf
  exact ⟨on _ rfl rfl, on _ rfl rfl, on _ rfl rfl, on _ rfl rfl, on _ rfl rfl, on _ rfl rfl, on _ rfl rfl, on _ rfl rfl,
    on _ rfl rfl, on _ rfl rfl, on _ rfl rfl, on _ rfl (signed_min _ _), on _ rfl (signed_max _ _),
    on _ rfl (unsigned_min _ _), on _ rfl (unsigned_max _ _), on _ rfl (flag_eq _ _), on _ rfl (flag_ne _ _),
    on _ rfl (flag_slt _ _), on _ rfl (flag_ult _ _), on _ rfl (flag_sle _ _), on _ rfl (flag_ule _ _)⟩

/-! ## Counts of bits (R162, R176) -/

theorem lowBit_le (n v : Nat) : lowBit n v ≤ n := by
  induction n generalizing v with
  | zero => simp [lowBit]
  | succ n ih => simp only [lowBit]; split <;> [omega; (have := ih (v / 2); omega)]

/-- Below the lowest set bit every bit is 0. -/
theorem testBit_below_lowBit {n v j : Nat} (h : j < lowBit n v) : v.testBit j = false := by
  induction n generalizing v j with
  | zero => simp [lowBit] at h
  | succ n ih =>
    simp only [lowBit] at h
    split at h
    · omega
    · next hv =>
      cases j with
      | zero => simp [Nat.testBit_zero, hv]
      | succ j => rw [Nat.testBit_succ]; exact ih (by omega)

/-- The lowest set bit is 1. -/
theorem testBit_lowBit {n v : Nat} (h : lowBit n v < n) : v.testBit (lowBit n v) = true := by
  induction n generalizing v with
  | zero => omega
  | succ n ih =>
    simp only [lowBit] at h ⊢
    split
    · next hv => simp [Nat.testBit_zero, hv]
    · next hv =>
      rw [if_neg hv] at h
      rw [Nat.add_comm 1, Nat.testBit_succ]
      exact ih (by omega)

/-- The count of set bits is the number of places that hold one. -/
theorem popCount_eq (n v : Nat) : popCount n v = ((List.range n).filter (fun j => v.testBit j)).length := by
  induction n generalizing v with
  | zero => rfl
  | succ n ih =>
    rw [List.range_succ_eq_map, List.filter_cons, List.filter_map, popCount, ih]
    have hs : ((fun j => v.testBit j) ∘ Nat.succ) = fun j => (v / 2).testBit j := funext fun j => Nat.testBit_succ v j
    rw [hs]
    rcases Nat.mod_two_eq_zero_or_one v with h | h <;> simp [Nat.testBit_zero, h]
    omega

/-- Above the length of a number every bit is 0. -/
theorem testBit_above_bitLen {v j : Nat} (h : bitLen v ≤ j) : v.testBit j = false := by
  unfold bitLen at h
  split at h
  · next hv => simp [hv]
  · next hv => exact Nat.testBit_lt_two_pow ((Nat.log2_lt hv).mp (by omega))

/-- The highest bit of a number is 1. -/
theorem testBit_bitLen {v : Nat} (h : v ≠ 0) : v.testBit (bitLen v - 1) = true := by
  rw [bitLen, if_neg h, Nat.add_sub_cancel, Nat.testBit_log2 h]

theorem bitLen_le (u : Dword) : bitLen u.toNat ≤ 64 := by
  unfold bitLen
  split
  · omega
  · next h => have := (Nat.log2_lt h).mpr u.isLt; omega

/-- The function of a prefixed or short instruction of one operand, on 64-bit immediates. -/
theorem shiftAmount (sh : BitVec 6) : (sh.zeroExtend 64 : Dword).toNat % 64 = sh.toNat := by
  have := sh.isLt
  simp only [BitVec.zeroExtend, BitVec.toNat_setWidth]
  omega

theorem zeroExtend_imm (imm : BitVec 12) : (imm.zeroExtend 64 : Dword).toNat = imm.toNat := by
  have := imm.isLt
  simp only [BitVec.zeroExtend, BitVec.toNat_setWidth]
  omega

theorem signExtend_imm {w : Nat} (hw : w ≤ 64) (imm : BitVec w) : (imm.signExtend 64).toInt = imm.toInt :=
  BitVec.toInt_signExtend_of_le hw

/-- SEL of ready operands gives one of them by its predicate (R167). -/
theorem runs_sel {s : State} {a : At} {d : BitVec 5} {n : BitVec 1} {x y : BitVec 6} (hr : runner s = some a)
    (hx : srcReady (seen s a) a x) (hy : srcReady (seen s a) a y) (hd : dstReady (seen s a) a d n) (inv : BitVec 1)
    {p : BitVec 3} (hp : pReady (seen s a) a p) {r : Dword}
    (h : r = if (pVal (strandAt (seen s a) a) p.toNat ^^ (inv == 1)) then src (seen s a) a x else src (seen s a) a y) :
    Runs (.sel d n x y inv p) s (fun t => DoneG 4 (seen s a) t a d n r r) := by
  have he : exec (.sel d n x y inv p) s = execSel d n x y inv p s := rfl
  refine .of (d := ⟨wroteG (seen s a) a d n 1 r, r, .seq⟩) he hr ?_ (finish_wroteG 4 _ a d n r r)
  simp only [rd_ready hx, rd_ready hy, rdP_ready hp, aluDone, wrG_ready hd, h]

/-- Settles O2: the shared forms with their functions, and what the counts count. -/
theorem aluImmediates : Obligations.AluImmediates := by
  refine ⟨fun s a d n x y hr hx hd => ?_, fun s a d n x hr hx hd => ?_⟩
  · have on (f : Dword → Dword) {i : Instr} {r : Dword} (he : exec i s = alu1 4 d n x f s)
        (hf : f (src (seen s a) a x) = r) : Runs i s (fun t => DoneG 4 (seen s a) t a d n r r) := runs1 4 f he hr hx hd hf
    refine ⟨fun imm => ⟨on _ rfl rfl, on _ rfl rfl, on _ rfl rfl, on _ rfl rfl⟩, fun sh => ?_, fun imm => ?_,
      fun hy => ⟨fun sc => runs2 _ rfl hr hx hy hd rfl, fun inv p hp => runs_sel hr hx hy hd inv hp rfl⟩⟩
    · exact ⟨on _ rfl (by simp only [shliFn, shl64, shiftAmount]), on _ rfl (by simp only [shriFn, shr64, shiftAmount]),
        on _ rfl (by simp only [sariFn, sar64, shiftAmount]), on _ rfl (by simp only [roliFn, rol64, shiftAmount])⟩
    · exact ⟨on _ rfl (flag_eq _ _), on _ rfl (by rw [sltiFn, flag_slt, signExtend_imm (by omega)]),
        on _ rfl (by rw [sltniFn, flag_ult, zeroExtend_imm])⟩
  · refine ⟨⟨64 - bitLen (src (seen s a) a x).toNat, ⟨by omega, fun j hj => ?_, fun hk => ?_⟩, runs1 4 clz64 rfl hr hx hd rfl⟩,
      ⟨lowBit 64 (src (seen s a) a x).toNat, ⟨lowBit_le _ _, fun j hj => testBit_below_lowBit hj, testBit_lowBit⟩,
        runs1 4 ctz64 rfl hr hx hd rfl⟩,
      ⟨popCount 64 (src (seen s a) a x).toNat, popCount_eq 64 _, runs1 4 popc64 rfl hr hx hd rfl⟩⟩
    · exact testBit_above_bitLen (by have := bitLen_le (src (seen s a) a x); omega)
    · have hl := bitLen_le (src (seen s a) a x)
      have hu : (src (seen s a) a x).toNat ≠ 0 := fun e => by simp [bitLen, e] at hk
      have e : 63 - (64 - bitLen (src (seen s a) a x).toNat) = bitLen (src (seen s a) a x).toNat - 1 := by omega
      rw [e]
      exact testBit_bitLen hu

/-! ## Long-immediate groups (R142, R163) -/

/-- A decoder's checks pass on no other instruction than the one they guard. -/
theorem chk_ok {sels : List (BitVec 6)} {zs : List ZeroField} {i j : Instr} (h : Sys2Proof.chk sels zs i = .ok j) : i = j := by
  unfold Sys2Proof.chk at h
  split at h
  · cases h
  · split at h
    · cases h
    · exact Except.ok.inj h

/-- Is it a shift or rotation by an immediate (R163)? -/
def shiftsByImm : Instr → Bool
  | .shli .. | .shri .. | .sari .. | .roli .. => true
  | _ => false

/-- A word that decodes to a shift by an immediate has major 0x05. -/
theorem major_of_shift {w : Word} {i : Instr} (h : decodeImm w = .ok i) (hi : shiftsByImm i = true) :
    (w.extractLsb' 26 6).toNat = 5 := by
  unfold decodeImm at h
  split at h
  case h_5 hm => exact hm
  case h_14 => cases h
  all_goals
    simp only [decMajor01, decMajor02, decMajor03, decMajor04, decMajor06, decMajor0b, decMajor0c, decMajor0d, decMajor15,
      decMajor16, decMajor17, decMajor18] at h
    repeat' split at h
  all_goals first
    | cases h; done
    | cases chk_ok h; cases hi

/-- What a long-immediate group admits (R142, R163, R403). -/
theorem decodePrefixed_ok {imm word : Word} {i : Instr} (h : decodePrefixed imm word = .ok i) :
    decodeImm word = .ok i ∧ liwTooBig imm word = false := by
  unfold decodePrefixed at h
  split at h
  · cases h
  · split at h
    · cases h
    · simp only at h
      split at h
      · cases h
      · cases h
      · next j hj =>
        split at h
        · cases h
        · next hlow =>
          split at h
          · cases h
          · next hbig =>
            obtain rfl := Except.ok.inj h
            rw [Decidable.not_not.mp hlow] at hj
            exact ⟨by simpa using hj, by simpa using hbig⟩

/-- A prefixed shift has an amount below 64 (R163). -/
theorem prefixed_shift_lt {imm word : Word} {i : Instr} (h : decodePrefixed imm word = .ok i) (hi : shiftsByImm i = true) :
    imm.toNat < 64 := by
  obtain ⟨hd, hb⟩ := decodePrefixed_ok h
  simp only [liwTooBig, major_of_shift hd hi, Bool.or_eq_false_iff] at hb
  simpa [Nat.lt_succ_iff] using hb.1

theorem longShiftAmount {imm : Word} (h : imm.toNat < 64) : (liwZ imm).toNat % 64 = imm.toNat := by
  simp only [liwZ, BitVec.zeroExtend, BitVec.toNat_setWidth]
  omega

theorem signExtend_long (imm : Word) : (liwS imm).toInt = imm.toInt := BitVec.toInt_signExtend_of_le (by omega)

theorem zeroExtend_long (imm : Word) : (liwZ imm).toNat = imm.toNat := by
  have := imm.isLt
  simp only [liwZ, BitVec.zeroExtend, BitVec.toNat_setWidth]
  omega

/-- Settles O3: the prefixed form with the extended immediate. -/
theorem longImmediates : Obligations.LongImmediates := by
  intro s a d n x imm word i hr hx hd hi
  have on (f : Dword → Dword) {r : Dword} (he : runLong imm word i s = alu1 12 d n x f s)
      (hf : f (src (seen s a) a x) = r) : Runs (.liw imm word) s (fun t => DoneG 12 (seen s a) t a d n r r) :=
    runs1 12 f ((exec_liw_prefixed hi s).trans he) hr hx hd hf
  have shift (f : Dword → Dword) {r : Dword} (hs : shiftsByImm i = true) (he : runLong imm word i s = alu1 12 d n x f s)
      (hf : (liwZ imm).toNat % 64 = imm.toNat → f (src (seen s a) a x) = r) :
      imm.toNat < 64 ∧ Runs (.liw imm word) s (fun t => DoneG 12 (seen s a) t a d n r r) :=
    have hl := prefixed_shift_lt hi hs
    ⟨hl, on f he (hf (longShiftAmount hl))⟩
  refine ⟨?_, ?_, ?_, ?_, ?_, ?_, ?_, ?_, ?_, ?_, ?_⟩ <;> rintro o rfl
  · exact on _ rfl rfl
  · exact on _ rfl rfl
  · exact on _ rfl rfl
  · exact on _ rfl rfl
  · exact shift _ rfl rfl fun h => by rw [shliFn, shl64, h]
  · exact shift _ rfl rfl fun h => by rw [shriFn, shr64, h]
  · exact shift _ rfl rfl fun h => by rw [sariFn, sar64, h]
  · exact shift _ rfl rfl fun h => by rw [roliFn, rol64, h]
  · exact on _ rfl (flag_eq _ _)
  · exact on _ rfl (by rw [sltiFn, flag_slt, signExtend_long])
  · exact on _ rfl (by rw [sltniFn, flag_ult, zeroExtend_long])

/-! ## Multiplication and division (R144, R165) -/

theorem tmod_eq (x y : Int) : x.tmod y = x - x.tdiv y * y := by
  rw [Int.tmod_def, mul_comm]

theorem nat_mod_eq (x y : Nat) : x % y = x - x / y * y := by
  rw [Nat.mod_eq_sub_div_mul]

theorem eq_minus_one {v : Dword} (h : v.toInt = -1) : v = BitVec.allOnes 64 := BitVec.eq_of_toInt_eq (h.trans (by decide))

theorem eq_least {u : Dword} (h : u.toInt = -2 ^ 63) : u = BitVec.intMin 64 := BitVec.eq_of_toInt_eq (h.trans (by decide))

/-- The quotient of the least number by -1 is the least number (R165). -/
theorem div64_least {u v : Dword} (hu : u.toInt = -2 ^ 63) (hv : v.toInt = -1) : div64 u v = u := by
  rw [eq_least hu, eq_minus_one hv]; decide

theorem rem64_least {u v : Dword} (hu : u.toInt = -2 ^ 63) (hv : v.toInt = -1) : rem64 u v = 0 := by
  rw [eq_least hu, eq_minus_one hv]; decide

/-- Settles O4: the shared form of latency 3 and 18 with the table's functions. -/
theorem multiplyDivide : Obligations.MultiplyDivide := by
  intro s a d n x y hr hx hy hd
  have on (l : Nat) (hl : 1 < l) (f : Dword → Dword → Dword) {i : Instr} {r : Dword} (he : exec i s = lat2 l d n x y f s)
      (hf : f (src (seen s a) a x) (src (seen s a) a y) = r) : Runs i s (fun t => DoneLat l 4 (seen s a) t a d n r 0) :=
    runsL2 hl f he hr hx hy hd hf
  refine ⟨on 3 (by omega) _ rfl ?_, on 3 (by omega) _ rfl rfl, on 3 (by omega) _ rfl rfl, fun hv => ⟨?_, ?_, ?_, ?_⟩,
    fun hv => ⟨?_, ?_, ?_, ?_⟩, fun hu hv => ⟨?_, ?_⟩⟩
  · rw [BitVec.ofNat_mul, BitVec.ofNat_toNat, BitVec.ofNat_toNat]; simp
  · exact on 18 (by omega) _ rfl (if_neg hv)
  · exact on 18 (by omega) _ rfl (if_neg hv)
  · exact on 18 (by omega) _ rfl ((if_neg hv).trans (by rw [tmod_eq]))
  · exact on 18 (by omega) _ rfl ((if_neg hv).trans (by rw [nat_mod_eq]))
  · exact on 18 (by omega) _ rfl ((if_pos hv).trans (by decide))
  · exact on 18 (by omega) _ rfl ((if_pos hv).trans (by decide))
  · exact on 18 (by omega) _ rfl (if_pos hv)
  · exact on 18 (by omega) _ rfl (if_pos hv)
  · exact on 18 (by omega) _ rfl (div64_least hu hv)
  · exact on 18 (by omega) _ rfl (rem64_least hu hv)

end Sys2Proof.Machine
end

section
/-! The statements on mask registers, floating point and conversions. -/

namespace Sys2Proof.Machine

/-! ## Mask registers (R176) -/

/-- The state after an instruction that has written a k destination and goes on in sequence. -/
theorem finish_wrK (s : State) (a : At) (d : BitVec 4) (v : Nat) :
    DoneK s (finish a 4 ⟨wrK s a d.toNat v, 0, .seq⟩) a d (v % 65536) := by
  have hs : strandAt (finish a 4 ⟨wrK s a d.toNat v, 0, .seq⟩) a =
      advance 4 0 .seq { strandAt s a with k := tabPut (strandAt s a).k d.toNat (v % 65536) } := by
    rw [strandAt_finish_seq, wrK, strandAt_onStrand_same]
  refine ⟨(Alone.strand s a _).finish_seq 4 0, ?_, fun i hi => ?_, ?_, ?_⟩ <;> rw [hs]
  · exact tabGet_put_same _ _ _ _
  · exact tabGet_put_ne _ _ _ hi
  · exact (follows_advance 4 0 _).of_eq rfl rfl rfl rfl rfl
  · rfl

/-- A function of two k registers into one. -/
theorem runs_opK {i : Instr} {s : State} {a : At} {d x y : BitVec 4} (f : Nat → Nat → Nat) (he : exec i s = opK d x y f s)
    (hr : runner s = some a) {r : BitVec 16} (h : BitVec.ofNat 16 (f (kVal (seen s a) a x) (kVal (seen s a) a y)) = r) :
    Runs i s (fun t => DoneK (seen s a) t a d r.toNat) :=
  .of he hr rfl (by rw [← h]; exact finish_wrK _ _ _ _)

/-- A function of a k register and a ready selector into a k register. -/
theorem runs_opKG {i : Instr} {s : State} {a : At} {d x : BitVec 4} {b : BitVec 6} (f : Nat → Nat → Nat)
    (he : exec i s = opKG d x b f s) (hr : runner s = some a) (hb : srcReady (seen s a) a b) {r : BitVec 16}
    (h : BitVec.ofNat 16 (f (kVal (seen s a) a x) (src (seen s a) a b).toNat) = r) :
    Runs i s (fun t => DoneK (seen s a) t a d r.toNat) := by
  rw [← h]
  exact .of he hr (by simp only [rd_ready hb]) (finish_wrK _ _ _ _)

/-- A function of a k register into a ready g destination. -/
theorem runs_opGK {i : Instr} {s : State} {a : At} {d : BitVec 5} {n : BitVec 1} {x : BitVec 4} (f : Nat → Nat)
    (he : exec i s = opGK d n x f s) (hr : runner s = some a) (hd : dstReady (seen s a) a d n) {r : Nat}
    (h : f (kVal (seen s a) a x) = r) :
    Runs i s (fun t => DoneG 4 (seen s a) t a d n (BitVec.ofNat 64 r) (BitVec.ofNat 64 r)) :=
  .of he hr (by simp only [aluDone, wrG_ready hd, h]) (finish_wroteG 4 _ _ _ _ _ _)

/-- KTST copies a bit of a mask to a ready predicate. -/
theorem runs_ktst {s : State} {a : At} {d : BitVec 3} {x : BitVec 4} {b : BitVec 6} (hr : runner s = some a)
    (hd : pReady (seen s a) a d) (hb : srcReady (seen s a) a b) :
    Runs (.ktst d 0 x b) s (fun t =>
      DoneP (seen s a) t a d (bit (kVal (seen s a) a x) ((src (seen s a) a b).toNat % 16))) :=
  .of (show exec (.ktst d 0 x b) s = execKtst d 0 x b s from rfl) hr (by simp only [rd_ready hb, wrP_ready hd])
    (finish_putP _ _ _ _)

/-- KLDM copies 16 bits of a shifted selector to a mask. -/
theorem runs_kldm {s : State} {a : At} {d : BitVec 4} {b c : BitVec 6} (hr : runner s = some a)
    (hb : srcReady (seen s a) a b) (hc : srcReady (seen s a) a c) :
    Runs (.kldm d 0 b c) s (fun t => DoneK (seen s a) t a d
      (BitVec.ofNat 16 ((src (seen s a) a b).toNat / 2 ^ ((src (seen s a) a c).toNat % 64))).toNat) :=
  .of (show exec (.kldm d 0 b c) s = execKldm d 0 b c s from rfl) hr (by simp only [rd_ready hb, rd_ready hc])
    (finish_wrK _ _ _ _)

/-- A bit of a number is what testBit says. -/
theorem bit_eq_testBit (v i : Nat) : bit v i = v.testBit i := by
  rw [Nat.testBit_eq_decide_div_mod_eq, bit]
  exact Bool.beq_eq_decide_eq _ _

/-- The complement of a mask. -/
theorem ofNat_complement {v : Nat} (h : v < 2 ^ 16) : BitVec.ofNat 16 (65535 - v) = ~~~BitVec.ofNat 16 v := by
  apply BitVec.eq_of_toNat_eq
  simp only [BitVec.toNat_ofNat, BitVec.toNat_not]
  omega

theorem ofNat_mul_pow (u w : Nat) : BitVec.ofNat 16 (u * 2 ^ w) = BitVec.ofNat 16 u <<< w := by
  apply BitVec.eq_of_toNat_eq
  simp [Nat.shiftLeft_eq, Nat.mod_mul_mod]

theorem ofNat_div_pow {u : Nat} (h : u < 2 ^ 16) (w : Nat) : BitVec.ofNat 16 (u / 2 ^ w) = BitVec.ofNat 16 u >>> w := by
  apply BitVec.eq_of_toNat_eq
  rw [BitVec.toNat_ushiftRight, BitVec.toNat_ofNat, BitVec.toNat_ofNat, Nat.mod_eq_of_lt h, Nat.shiftRight_eq_div_pow,
    Nat.mod_eq_of_lt (lt_of_le_of_lt (Nat.div_le_self _ _) h)]

theorem ofNat_lor_pow (u w : Nat) : BitVec.ofNat 16 (Nat.lor u (2 ^ w)) = BitVec.ofNat 16 u ||| (1#16 <<< w) := by
  have h : BitVec.ofNat 16 (2 ^ w) = 1#16 <<< w := by rw [← Nat.one_mul (2 ^ w), ofNat_mul_pow]
  rw [← h, ← BitVec.ofNat_or]
  rfl

theorem ofNat_guarded {c : Prop} [Decidable c] {x : Nat} {r : BitVec 16} (h : BitVec.ofNat 16 x = r) :
    BitVec.ofNat 16 (if c then 0 else x) = if c then 0 else r := by
  split <;> [rfl; exact h]

/-- The bits of a mask register. -/
theorem mask_bit {u j : Nat} (h : j < 16) : (BitVec.ofNat 16 u).getLsbD j = u.testBit j := by
  rw [BitVec.getLsbD_ofNat, decide_eq_true h, Bool.true_and]

theorem ofNat_land (u v : Nat) : BitVec.ofNat 16 (Nat.land u v) = BitVec.ofNat 16 u &&& BitVec.ofNat 16 v := BitVec.ofNat_and
theorem ofNat_lor (u v : Nat) : BitVec.ofNat 16 (Nat.lor u v) = BitVec.ofNat 16 u ||| BitVec.ofNat 16 v := BitVec.ofNat_or
theorem ofNat_lxor (u v : Nat) : BitVec.ofNat 16 (Nat.xor u v) = BitVec.ofNat 16 u ^^^ BitVec.ofNat 16 v := BitVec.ofNat_xor

theorem ofNat_landn (u : Nat) {v : Nat} (h : v < 2 ^ 16) :
    BitVec.ofNat 16 (Nat.land u (65535 - v)) = BitVec.ofNat 16 u &&& ~~~BitVec.ofNat 16 v := by
  rw [ofNat_land, ofNat_complement h]

/-- Settles O6: the shared mask forms with their functions. -/
theorem maskRegisters : Obligations.MaskRegisters := by
  intro s a n x y hr u v hu hv
  have nat : u.toNat = kVal (seen s a) a x := Nat.mod_eq_of_lt hu
  refine ⟨fun d => ⟨?_, ?_, ?_, ?_, ?_, fun b hb => ⟨?_, ?_, ?_, ?_, fun c hc => ?_⟩⟩, fun d hd => ⟨?_, ?_, ?_⟩,
    fun d b hd hb => ?_⟩
  · exact runs_opK _ rfl hr (ofNat_land _ _)
  · exact runs_opK _ rfl hr (ofNat_lor _ _)
  · exact runs_opK _ rfl hr (ofNat_lxor _ _)
  · exact runs_opK (fun u v => Nat.land u (65535 - v)) rfl hr (ofNat_landn _ hv)
  · exact runs_opK (y := x) (fun u _ => 65535 - u) rfl hr (ofNat_complement hu)
  · exact runs_opKG (x := x) (fun u v => if 16 ≤ v then 0 else u * 2 ^ v) rfl hr hb (ofNat_guarded (ofNat_mul_pow _ _))
  · exact runs_opKG (x := x) (fun u v => if 16 ≤ v then 0 else u / 2 ^ v) rfl hr hb (ofNat_guarded (ofNat_div_pow hu _))
  · exact runs_opKG (x := 0) (fun _ v => v) rfl hr hb rfl
  · exact runs_opKG (x := x) (fun u v => Nat.lor u (2 ^ (v % 16))) rfl hr hb (ofNat_lor_pow _ _)
  · exact runs_kldm hr hb hc
  · exact runs_opGK _ rfl hr hd nat.symm
  · refine runs_opGK _ rfl hr hd ((popCount_eq 16 _).trans (congrArg List.length (List.filter_congr fun j hj => ?_)))
    exact (mask_bit (List.mem_range.mp hj)).symm
  · refine ⟨lowBit 16 (kVal (seen s a) a x), lowBit_le _ _, fun j hj => ?_, fun hk => ?_, runs_opGK _ rfl hr hd rfl⟩
    · rw [mask_bit (lt_of_lt_of_le hj (lowBit_le _ _))]; exact testBit_below_lowBit hj
    · rw [mask_bit hk]; exact testBit_lowBit hk
  · have := runs_ktst (x := x) hr hd hb
    rwa [bit_eq_testBit, ← mask_bit (Nat.mod_lt _ (by omega))] at this

/-! ## Floating point (R172 to R174) -/

theorem fbits_d (v : Dword) : fbits 1 v = v.toNat := Nat.mod_eq_of_lt v.isLt

theorem flag_b2n (b : Bool) : flag b = BitVec.ofNat 64 (b2n b) := by cases b <;> rfl

/-- FFMA of ready operands, its addend read from d (R173). -/
theorem runs_ffma {i : Instr} {s : State} {a : At} {d : BitVec 5} {n : BitVec 1} {x y : BitVec 6} (f : Nat)
    (he : exec i s = ffmaOp f d n x y s) (hr : runner s = some a) (hx : srcReady (seen s a) a x)
    (hy : srcReady (seen s a) a y) (hd : dstReady (seen s a) a d n) (hg : gBusy (strandAt (seen s a) a) d.toNat = false)
    {r : Nat} (h : ffmaBits f 0 (fbits f (src (seen s a) a x)) (fbits f (src (seen s a) a y))
      (fbits f (gVal (strandAt (seen s a) a) d.toNat)) = r) :
    Runs i s (fun t => DoneLat 4 4 (seen s a) t a d n (BitVec.ofNat 64 r) 0) :=
  .of he hr (by simp only [rd_ready hx, rd_ready hy, rdG_ready hg, wrG_ready hd, h]) (finish_later (by omega) 4 _ _ _ _ _ _)

/-- Two values of which none is NaN are ordered (R73). -/
theorem cmp_of_numbers {u v : FV} (hu : u ≠ .nan) (hv : v ≠ .nan) : ∃ c, u.cmp v = some c := by
  cases u <;> cases v <;> simp_all [FV.cmp]
  split <;> exact ⟨_, rfl⟩

theorem cmp_nan_left (v : FV) : FV.cmp .nan v = none := rfl

theorem cmp_nan_right (v : FV) : FV.cmp v .nan = none := by cases v <;> rfl

/-- The two scalar formats have 64 and 32 bits (R69). -/
theorem fmtBits_scalar {f : Nat} (h : f = 1 ∨ f = 2) : fmtBits f = if f = 1 then 64 else 32 := by
  rcases h with rfl | rfl <;> rfl

/-- Clearing the top bit of a pattern of w bits. -/
theorem testBit_mod_top {w x : Nat} (hx : x < 2 ^ w) (i : Nat) :
    (x % 2 ^ (w - 1)).testBit i = (x.testBit i && decide (i ≠ w - 1)) := by
  rw [Nat.testBit_mod_two_pow]
  rcases lt_trichotomy i (w - 1) with h | h | h
  · simp [h, Nat.ne_of_lt h]
  · simp [h]
  · have : x.testBit i = false := Nat.testBit_lt_two_pow (lt_of_lt_of_le hx (Nat.pow_le_pow_right (by omega) (by omega)))
    simp [this]

/-- Inverting the top bit of a pattern. -/
theorem testBit_xor_top (w x i : Nat) : (Nat.xor x (2 ^ (w - 1))).testBit i = (x.testBit i ^^ decide (i = w - 1)) := by
  change (x ^^^ 2 ^ (w - 1)).testBit i = _
  rw [Nat.testBit_xor, Nat.testBit_two_pow]
  simp only [eq_comm]

/-- Settles O8: the shared forms with the operations on values, and what those say of NaN, order and sign. -/
theorem floatArithmetic : Obligations.FloatArithmetic := by
  refine ⟨fun s a d n x y hr hx hy hd => ?_, fun f x y hf => ?_⟩
  · have on2 (f : Dword → Dword → Dword) {i : Instr} {r : Nat} (he : exec i s = lat2 4 d n x y f s)
        (hf : f (src (seen s a) a x) (src (seen s a) a y) = BitVec.ofNat 64 r) :
        Runs i s (fun t => DoneLat 4 4 (seen s a) t a d n (BitVec.ofNat 64 r) 0) := runsL2 (by omega) f he hr hx hy hd hf
    have on1 (f : Dword → Dword) {i : Instr} {r : Nat} (he : exec i s = lat1 4 d n x f s)
        (hf : f (src (seen s a) a x) = BitVec.ofNat 64 r) :
        Runs i s (fun t => DoneLat 4 4 (seen s a) t a d n (BitVec.ofNat 64 r) 0) := runsL1 (by omega) f he hr hx hd hf
    have opD (f : Nat → Nat → Nat) : fop2 1 f (src (seen s a) a x) (src (seen s a) a y) =
        BitVec.ofNat 64 (f (src (seen s a) a x).toNat (src (seen s a) a y).toNat) := by rw [fop2, fbits_d, fbits_d]
    have signD (f : Nat → Nat) : fop1 1 f (src (seen s a) a x) = BitVec.ofNat 64 (f (src (seen s a) a x).toNat) := by
      rw [fop1, fbits_d]
    have cmpD (f : Int → Bool) : fcmp2 1 f (src (seen s a) a x) (src (seen s a) a y) =
        BitVec.ofNat 64 (b2n (fcompare 1 f (src (seen s a) a x).toNat (src (seen s a) a y).toNat)) := by
      rw [fcmp2, fbits_d, fbits_d, flag_b2n]
    exact ⟨on2 _ rfl (opD _), on2 _ rfl rfl, on2 _ rfl (opD _), on2 _ rfl rfl, on2 _ rfl (opD _), on2 _ rfl rfl,
      on2 _ rfl (opD _), on2 _ rfl rfl, on2 _ rfl (opD _), on2 _ rfl rfl, on1 _ rfl (signD _), on1 _ rfl rfl,
      on1 _ rfl (signD _), on1 _ rfl rfl, on2 _ rfl (cmpD _), on2 _ rfl (flag_b2n _), on2 _ rfl (cmpD _),
      on2 _ rfl (flag_b2n _), on2 _ rfl (cmpD _), on2 _ rfl (flag_b2n _), fun hg =>
        ⟨runs_ffma 1 rfl hr hx hy hd hg (by rw [fbits_d, fbits_d, fbits_d]; rfl), runs_ffma 2 rfl hr hx hy hd hg rfl⟩⟩
  · intro w u v
    have hw : fmtBits f = w := fmtBits_scalar hf
    refine ⟨by rcases hf with rfl | rfl <;> rfl, fun hu => ?_, fun hu hx i => ?_, fun hu hv => ?_, fun p q b c hu hv h => ?_,
      fun p q b c hu hv hp hq => ?_⟩
    · have hu : decodeFmt f x = .nan := hu
      simp [fabsBits, fnegBits, fminmax, fcompare, hu, cmp_nan_left, cmp_nan_right]
    · have hu : decodeFmt f x ≠ .nan := hu
      rw [fabsBits, fnegBits, if_neg hu, if_neg hu, hw]
      exact ⟨testBit_mod_top hx i, testBit_xor_top w x i⟩
    · obtain ⟨c, hc⟩ := cmp_of_numbers hu hv
      have hc' : (decodeFmt f x).cmp (decodeFmt f y) = some c := hc
      exact ⟨c, hc, by simp [fminmax, hc'], by simp [fminmax, hc'], fun g => by simp [fcompare, hc']⟩
    · have : ¬(p.num = 0 ∧ q.num = 0) := by tauto
      simp [hu, hv, FV.cmp, this]
    · simp [hu, hv, FV.cmp, hp, hq]

/-- Settles O9: the shared one-operand form with the conversion or the function. -/
theorem floatConversions : Obligations.FloatConversions := by
  intro s a d n x m hr hx hd
  have on (l : Nat) (hl : 1 < l) (f : Dword → Dword) {i : Instr} {r : Dword} (he : exec i s = lat1 l d n x f s)
      (hf : f (src (seen s a) a x) = r) : Runs i s (fun t => DoneLat l 4 (seen s a) t a d n r 0) :=
    runsL1 hl f he hr hx hd hf
  have conv {i : Instr} (src' dst : Nat) (hd : dst ≠ 0x0A) (he : exec i s = lat1 4 d n x (fcvt src' dst m.toNat) s) :=
    on 4 (by omega) _ he (r := BitVec.ofNat 64 (encodeFmt dst m.toNat (decodeFmt src' (fbits src' (src (seen s a) a x)))))
      (if_neg hd)
  have via (f : Nat → Nat) : viaF32 f (src (seen s a) a x) =
      BitVec.ofNat 64 (encodeFmt 1 0 (decodeFmt 2 (f (encodeFmt 2 0 (decodeFmt 1 (src (seen s a) a x).toNat))))) := rfl
  exact ⟨conv 1 2 (by omega) rfl, conv 2 1 (by omega) rfl, conv 2 3 (by omega) rfl, conv 3 2 (by omega) rfl,
    conv 2 4 (by omega) rfl, conv 4 2 (by omega) rfl, conv 2 5 (by omega) rfl, conv 5 2 (by omega) rfl,
    conv 1 11 (by omega) rfl, conv 11 1 (by omega) rfl, conv 10 2 (by omega) rfl, conv 1 15 (by omega) rfl,
    conv 15 1 (by omega) rfl, on 4 (by omega) _ rfl rfl,
    ⟨on 6 (by omega) _ rfl rfl, on 6 (by omega) _ rfl (via _)⟩, ⟨on 6 (by omega) _ rfl rfl, on 6 (by omega) _ rfl (via _)⟩,
    ⟨on 6 (by omega) _ rfl rfl, on 6 (by omega) _ rfl (via _)⟩, ⟨on 6 (by omega) _ rfl rfl, on 6 (by omega) _ rfl (via _)⟩⟩

end Sys2Proof.Machine
end

section
/-! Accesses of a CC: what a translation changes, what addresses and operands an instruction of the MEM form sees, and how its
strand goes on. -/

namespace Sys2Proof.Machine

/-! ## Translation (R58 to R61) -/

/-- Two states differ at most in the TLBs of core c and of its die. -/
structure TlbFilled (s u : State) (c : Nat) : Prop where
  outside : { u with cores := s.cores, dies := s.dies } = s
  cores : ∀ k, { coreAt u k with tlb := [] } = { coreAt s k with tlb := [] }
  others : ∀ k, k ≠ c → coreAt u k = coreAt s k
  dies : ∀ k, { dieAt u k with tlb := [] } = { dieAt s k with tlb := [] }
  otherDies : ∀ k, k ≠ c / 288 → dieAt u k = dieAt s k

theorem TlbFilled.refl (s : State) (c : Nat) : TlbFilled s s c := ⟨rfl, fun _ => rfl, fun _ _ => rfl, fun _ => rfl, fun _ _ => rfl⟩

theorem TlbFilled.trans {s u v : State} {c : Nat} (h : TlbFilled s u c) (h' : TlbFilled u v c) : TlbFilled s v c := by
  refine ⟨?_, fun k => (h'.cores k).trans (h.cores k), fun k hk => (h'.others k hk).trans (h.others k hk),
    fun k => (h'.dies k).trans (h.dies k), fun k hk => (h'.otherDies k hk).trans (h.otherDies k hk)⟩
  calc { v with cores := s.cores, dies := s.dies }
      = { { v with cores := u.cores, dies := u.dies } with cores := s.cores, dies := s.dies } := rfl
    _ = { u with cores := s.cores, dies := s.dies } := by rw [h'.outside]
    _ = s := h.outside

theorem TlbFilled.core (s : State) (c : Nat) (l : List Tlb) : TlbFilled s (onCore s c (fun k => { k with tlb := l })) c := by
  refine ⟨rfl, fun k => ?_, fun k hk => coreAt_onCore_ne _ _ hk, fun _ => rfl, fun _ _ => rfl⟩
  by_cases h : k = c
  · subst h; rw [coreAt_onCore_same]
  · rw [coreAt_onCore_ne _ _ h]

theorem TlbFilled.die (s : State) (c : Nat) (f : Die → List Tlb) :
    TlbFilled s (onDie s (c / 288) (fun d => { d with tlb := f d })) c := by
  refine ⟨rfl, fun _ => rfl, fun _ _ => rfl, fun k => ?_, fun k hk => dieAt_onDie_ne _ _ hk⟩
  by_cases h : k = c / 288
  · subst h; rw [dieAt_onDie_same]
  · rw [dieAt_onDie_ne _ _ h]

section
variable {s u : State} {c : Nat} (h : TlbFilled s u c)
include h

theorem TlbFilled.strandAt (a : At) : strandAt u a = strandAt s a := by
  have e : (coreAt u a.c).strands = (coreAt s a.c).strands := congrArg (·.strands) (h.cores a.c)
  unfold Machine.strandAt
  rw [e]

theorem TlbFilled.mem : u.mem = s.mem := by
  have e := congrArg State.mem h.outside
  exact e
theorem TlbFilled.poison : u.poison = s.poison := by
  have e := congrArg State.poison h.outside
  exact e
theorem TlbFilled.ctxs : u.ctxs = s.ctxs := by
  have e := congrArg State.ctxs h.outside
  exact e
theorem TlbFilled.jobs : u.jobs = s.jobs := by
  have e := congrArg State.jobs h.outside
  exact e
theorem TlbFilled.hdm : u.hdm = s.hdm := by
  have e := congrArg State.hdm h.outside
  exact e
theorem TlbFilled.sbNext : u.sbNext = s.sbNext := by
  have e := congrArg State.sbNext h.outside
  exact e
end

theorem tlbLook_filled {s u : State} {c ctx va : Nat} {t : Tlb} (h : tlbLook s c ctx va = some (u, t)) : TlbFilled s u c := by
  unfold tlbLook at h
  split at h
  · cases h; exact .refl _ _
  · split at h
    · cases h; exact .core _ _ _
    · cases h

theorem tlbFor_filled {s u : State} {c ctx va : Nat} {t : Tlb} (h : tlbFor s c ctx va = .ok (u, t)) : TlbFilled s u c := by
  unfold tlbFor at h
  split at h
  · next r hr => cases h; exact tlbLook_filled hr
  · split at h
    · cases h
    · cases h; exact (TlbFilled.die _ _ _).trans (.core _ _ _)

theorem translate_filled {s u : State} {c ctx va : Nat} {wr fetch : Bool} {x : Xl}
    (h : translate s c ctx va wr fetch = .ok (u, x)) : TlbFilled s u c := by
  unfold translate at h
  split at h
  · cases h
  · next s' t ht =>
    split at h
    · cases h
    · cases h; exact tlbFor_filled ht

/-- An access that goes on has at most filled the TLBs (R60). -/
theorem reach_filled {s u : State} {a : At} {ad : Nat} {wr : Bool} {r : Reach} (h : reach s a ad wr = .ok (u, r)) :
    TlbFilled s u a.c := by
  unfold reach at h
  split at h
  · cases h; exact .refl _ _
  · split at h
    · simp only [awaitWalk, goOnWaiting] at h
      split at h <;> cases h
    · split at h
      · cases h
      · next ht => cases h; exact translate_filled ht
      · simp only [farWait] at h
        repeat' split at h
        all_goals cases h
      · next ht =>
        split at h
        · cases h
        · split at h
          · cases h
          · cases h; exact translate_filled ht

/-! ## Words at a strand's place -/

/-- Two states that agree in all that fetching a word at strand a's place reads (R58 to R60, R138). -/
structure SameCode (s t : State) (a : At) : Prop where
  mem : t.mem = s.mem
  ctxs : t.ctxs = s.ctxs
  jobs : t.jobs = s.jobs
  hdm : t.hdm = s.hdm
  zone : t.dev = s.dev
  dies : t.dies = s.dies
  tlb : (coreAt t a.c).tlb = (coreAt s a.c).tlb
  strand : (strandAt t a).pc = (strandAt s a).pc ∧ (strandAt t a).task = (strandAt s a).task ∧
    (strandAt t a).holder = (strandAt s a).holder ∧ (strandAt t a).grant = (strandAt s a).grant

theorem loadNat_congr {s t : State} (h : t.mem = s.mem) (l n : Nat) : loadNat t l n = loadNat s l n := by
  unfold loadNat loadN
  rw [h]

theorem walkFrom_congr {s t : State} (h : t.mem = s.mem) (va f l table : Nat) : walkFrom t va f l table = walkFrom s va f l table := by
  induction f generalizing l table with
  | zero => rfl
  | succ f ih => simp only [walkFrom, loadNat_congr h, ih]

theorem walk_congr {s t : State} (hm : t.mem = s.mem) (hc : t.ctxs = s.ctxs) (hd : t.dev = s.dev) (ctx va : Nat) :
    walk t ctx va = walk s ctx va := by
  unfold walk inToolZone ctxAt
  rw [hc, hd, walkFrom_congr hm]

theorem leafCheck_congr {s t : State} (h : t.hdm = s.hdm) (x : Tlb) (va : Nat) (wr fetch : Bool) :
    leafCheck t x va wr fetch = leafCheck s x va wr fetch := by
  unfold leafCheck farMapped
  rw [h]

/-- Where a translated access goes, without the state in which the TLBs are filled. -/
theorem translate_snd {s : State} (c ctx va : Nat) (wr fetch : Bool) :
    (translate s c ctx va wr fetch).map (·.2) = ((tlbFor s c ctx va).map (·.2)).bind (fun t => leafCheck s t va wr fetch) := by
  unfold translate
  cases h : tlbFor s c ctx va with
  | error e => rfl
  | ok r =>
    obtain ⟨u, t⟩ := r
    simp only [leafCheck_congr (tlbFor_filled h).hdm, Except.map, Except.bind]
    cases leafCheck s t va wr fetch <;> rfl

theorem tlbFor_snd_congr {s t : State} {c : Nat} (hm : t.mem = s.mem) (hc : t.ctxs = s.ctxs) (hz : t.dev = s.dev)
    (hd : t.dies = s.dies) (ht : (coreAt t c).tlb = (coreAt s c).tlb) (ctx va : Nat) :
    (tlbFor t c ctx va).map (·.2) = (tlbFor s c ctx va).map (·.2) := by
  have hdie : dieAt t (c / 288) = dieAt s (c / 288) := by unfold dieAt; rw [hd]
  simp only [tlbFor, tlbLook, ht, hdie, walk_congr hm hc hz]
  cases (coreAt s c).tlb.find? (tlbHit ctx va) with
  | some x => rfl
  | none => cases (dieAt s (c / 288)).tlb.find? (tlbHit ctx va) with
    | some x => rfl
    | none => cases walk s ctx va with
      | error e => rfl
      | ok x => rfl

/-- A word at an address, by where the address goes. -/
theorem wordAt_eq (s : State) (a : At) (va : Nat) :
    wordAt s a va = match (translate s a.c (ctxOf s a) va false true).map (·.2) with
      | .ok (.ok loc) => loadNat s loc 4
      | .ok (.fab _) => ((grantOf (strandAt s a) (fetchKey va)).getD 0).toNat % 2 ^ 32
      | _ => 0 := by
  unfold wordAt
  cases h : translate s a.c (ctxOf s a) va false true with
  | error e => rfl
  | ok r => obtain ⟨u, x⟩ := r; cases x <;> rfl

section
variable {s t : State} {a : At} (h : SameCode s t a)
include h

theorem SameCode.ctxOf : ctxOf t a = ctxOf s a := by
  obtain ⟨_, htask, hholder, _⟩ := h.strand
  simp only [Machine.ctxOf, jobOf, jobAt, h.jobs, htask, hholder]

theorem SameCode.wordAt (va : Nat) : wordAt t a va = wordAt s a va := by
  obtain ⟨_, _, _, hgrant⟩ := h.strand
  simp only [wordAt_eq, translate_snd, h.ctxOf, tlbFor_snd_congr h.mem h.ctxs h.zone h.dies h.tlb, leafCheck_congr h.hdm,
    loadNat_congr h.mem, grantOf, hgrant]

theorem SameCode.ccWord : ccWord t a = ccWord s a := by
  obtain ⟨hpc, _⟩ := h.strand
  simp only [Machine.ccWord, h.wordAt, hpc]

end

/-! ## Addresses (R140, R406) -/

/-- A MEM operand that no carry refuses (R403). -/
def MemOff.fits (m : MemOff) (base : Dword) (size : Nat) : Prop := ∀ p, m.liw = some p → offCarry base m.off size = false

/-- What holds of a MEM operation at every operand holds of its instruction, prefixed and not (R140, R142). -/
theorem InForms.of_op {mk : BitVec 12 → Instr} {base : Dword} {size : Nat} {P : Nat → Nat → Instr → Prop} {s : State}
    (op : MemOff → State → Host.Outcome State Fault Refusal) (short : ∀ o, exec (mk o) s = op (memPlain o) s)
    (long : ∀ imm word o, runLong imm word (mk o) s = op (memLong imm word) s)
    (h : ∀ m i, m.fits base size → exec i s = op m s → P m.len (effAddr base m.off size) i) : InForms mk base size P := by
  refine ⟨fun o => h (memPlain o) _ (fun p hp => by cases hp) (short o), fun imm word o hd hc => ?_⟩
  exact h (memLong imm word) _ (fun _ _ => hc) ((exec_liw_prefixed hd s).trans (long imm word o))

section
variable {s : State} {a : At} {b : BitVec 6} {m : MemOff} {spaces : List Nat} {size : Nat} (hb : srcReady s a b)
  (hm : m.fits (src s a b) size)
include hb hm

theorem memAddr_eq : memAddr s a b m spaces size = (match
    checkAddr spaces size size (src s a b).toNat (effAddr (src s a b) m.off size) with
      | .ok _ => .ok (effAddr (src s a b) m.off size)
      | .error c => .error (.trap c)) := by
  simp only [memAddr, rd_ready hb]
  split
  · next w v hl => rw [hm _ hl]; rfl
  · rfl

theorem memAddr_ok (hc : checkAddr spaces size size (src s a b).toNat (effAddr (src s a b) m.off size) = .ok ()) :
    memAddr s a b m spaces size = .ok (effAddr (src s a b) m.off size) := by rw [memAddr_eq hb hm, hc]

theorem memAddr_error {c : Cause}
    (hc : checkAddr spaces size size (src s a b).toNat (effAddr (src s a b) m.off size) = .error c) :
    memAddr s a b m spaces size = .error (.trap c) := by rw [memAddr_eq hb hm, hc]

end

/-- An address that passes R406 names an admitted space and is aligned. -/
theorem checkAddr_ok {spaces : List Nat} {align len base ad : Nat} (h : checkAddr spaces align len base ad = .ok ()) :
    bits ad 60 4 ∈ spaces ∧ (align ≠ 0 → ad % align = 0) := by
  simp only [checkAddr] at h
  repeat' split at h
  all_goals first
    | cases h; done
    | skip
  next hs _ _ _ ha _ =>
    refine ⟨by simpa using hs, fun h0 => ?_⟩
    by_contra hne
    exact ha ⟨h0, hne⟩

/-- The place of an address in a pond or the lake (R42). -/
theorem placeOf_space (c ad : Nat) : (placeOf c ad).space = bits ad 60 4 := rfl

theorem placeOf_local {c ad : Nat} (h : bits ad 60 4 = 2) : placeOf c ad = ⟨2, c, bits ad 0 60⟩ := by
  simp [placeOf, addrOff, h]

/-- A place in a pond is one run of bytes. -/
theorem fetchPlace_pond (s : State) (key : Nat) {p : Place} (h : p.space = 2 ∨ p.space = 3) (n : Nat) :
    fetchPlace s key p n = loadN s (locPond p.core p.off) n := by
  rcases h with h | h <;> simp [fetchPlace, placeLoc, h]

theorem putPlace_pond (s : State) (key : Nat) {p : Place} (h : p.space = 2 ∨ p.space = 3) (v : List Byte) :
    putPlace s key p v = storeN s (locPond p.core p.off) v := by
  rcases h with h | h <;> simp [putPlace, placeLoc, h]

/-- An aligned access of a power of two bytes stays within a line of 256. -/
theorem aligned_in_line {size ad : Nat} (hs : size = 1 ∨ size = 2 ∨ size = 4 ∨ size = 8) (h : ad % size = 0) :
    0 < size ∧ size ≤ 256 - addrOff ad % 256 := by
  unfold addrOff bits
  rcases hs with rfl | rfl | rfl | rfl <;> split <;> omega

/-! ## The strand after an access -/

/-- A strand that has sent a result of number n out: its destination waits (R44, R144). -/
def sentOut (n : Nat) (d : Dest) (access load : Bool) (v : Option Dword) (t : Strand) : Strand :=
  { t with
    sb := t.sb ++ [⟨n, d, access, load, v⟩]
    pend := t.pend.filter (fun w => !(d == .g w.reg && decide (w.due ≤ t.slot + 1))) }

theorem addSb_strand (s : State) (a : At) (d : Dest) (access load : Bool) (v : Option Dword) :
    strandAt (addSb s a d access load v) a = sentOut s.sbNext d access load v (strandAt s a) :=
  strandAt_onStrand_same s a (sentOut s.sbNext d access load v)

theorem addSb_alone (s : State) (a : At) (d : Dest) (access load : Bool) (v : Option Dword) {f : State → State}
    {k : Core → Core} (hf : ∀ x n, f { x with sbNext := n } = f x) : Alone s (addSb s a d access load v) a f k := by
  have h : Alone s (onStrand s a (sentOut s.sbNext d access load v)) a f k := .strand _ _ _
  exact ⟨(hf _ _).trans h.outside, h.cores, h.core, h.strands⟩

/-- The state after an instruction that has sent a result out and goes on in sequence; w is the state that it has left first. -/
theorem finish_addSb {s w : State} {a : At} {f : State → State} {k : Core → Core} (hw : Alone s w a f k)
    (ht : strandAt w a = strandAt s a) (hn : w.sbNext = s.sbNext) (hf : ∀ x n, f { x with sbNext := n } = f x) (len : Nat)
    (d : Dest) (access load : Bool) (v : Option Dword) :
    DoneSb len s (finish a len ⟨addSb w a d access load v, 0, .seq⟩) a d access load v f k := by
  have hs := strandAt_finish_seq (addSb w a d access load v) a len 0
  rw [addSb_strand, ht, hn] at hs
  refine ⟨hw.trans ((addSb_alone w a d access load v hf).trans (.strand _ _ _)), congrArg (· + 1) hn, ?_, ?_, ?_, ?_⟩ <;> rw [hs]
  · rfl
  · rfl
  · exact (follows_advance len 0 _).of_eq rfl rfl rfl rfl rfl
  · rfl

/-- The state after a load that leaves an exposed write and goes on in sequence (R275). -/
theorem finish_load (len : Nat) (s : State) (a : At) (d : BitVec 5) (n : BitVec 1) (v : Dword) (c : Nat) :
    let t := finish a len ⟨onStrand (wroteG s a d n 4 v) a (fun t => { t with ldReady := c }), 0, .seq⟩
    DoneLat 4 len s t a d n v 0 Strand.noLd ∧ (strandAt t a).ldReady = c := by
  intro t
  have hn := wroteG_noG s a d n 4 v
  obtain ⟨hregs, hpend⟩ := wroteG_later (s := s) (a := a) (l := 4) (by omega) d n v
  have hs : strandAt t a = advance len 0 .seq { strandAt (wroteG s a d n 4 v) a with ldReady := c } := by
    rw [strandAt_finish_seq, strandAt_onStrand_same]
  refine ⟨⟨((wroteG_alone s a d n 4 v).trans (.strand _ _ _)).trans (.strand _ _ _), ?_, ?_, ?_⟩, ?_⟩ <;> rw [hs]
  · exact ⟨hregs, hpend⟩
  · obtain ⟨hy, hslot, hpc, hlc, hloop⟩ := noG_place hn
    exact (follows_advance len 0 _).of_eq hy hslot hpc hlc hloop
  · change (strandAt (wroteG s a d n 4 v) a).still.noG.noLd = _
    rw [still_noG_of hn]
  · rfl

/-- A write to memory stands through what follows it. -/
theorem Wrote.of_eq {s t u : State} {l n v : Nat} (h : Wrote s t l n v) (hm : u.mem = t.mem) (hp : u.poison = t.poison) :
    Wrote s u l n v := by
  obtain ⟨hb, ho, hq⟩ := h
  refine ⟨?_, fun x hx => ?_, fun x => ?_⟩
  · rw [← hb]; unfold loadN; rw [hm]
  · rw [hm]; exact ho x hx
  · rw [hp]; exact hq x

theorem strandAt_storeN (s : State) (l : Nat) (v : List Byte) (a : At) : strandAt (storeN s l v) a = strandAt s a := by
  rw [storeN_rest]; rfl

theorem sbNext_storeN (s : State) (l : Nat) (v : List Byte) : (storeN s l v).sbNext = s.sbNext := by
  rw [storeN_rest]

/-- A store changes memory and poison alone. -/
theorem Alone.store (s : State) (a : At) (l : Nat) (v : List Byte) {f : State → State} {k : Core → Core}
    (hf : ∀ x m p, f { x with mem := m, poison := p } = f x) : Alone s (storeN s l v) a f k := by
  rw [storeN_rest]
  exact ⟨hf { s with cores := [] } _ _, fun _ _ => rfl, rfl, fun _ _ => rfl⟩

end Sys2Proof.Machine
end

section
/-! The statements on loads, stores, full-empty accesses and atomics: one rule per shared operation of the CC. -/

namespace Sys2Proof.Machine

theorem gBusy_of_dstReady {s : State} {a : At} {d : BitVec 5} (h : dstReady s a d 0) : gBusy (strandAt s a) d.toNat = false :=
  h.resolve_left (by decide)

theorem gBusy_zero (t : Strand) : gBusy t 0 = false := rfl

theorem mayAccess_of {s : State} {a : At} {near : Bool} {d : Nat} (hd : gBusy (strandAt s a) d = false)
    (hn : near = true ∨ sbRoom (strandAt s a) = true) : mayAccess s a near d = true := by
  rcases hn with h | h <;> simp [mayAccess, hd, h]

/-- An access outside the global space goes to its place (R42). -/
theorem reach_scratch {a : At} {ad : Nat} (h : bits ad 60 4 ≠ 0) (s : State) (wr : Bool) :
    reach s a ad wr = .ok (s, .near (placeOf a.c ad)) := by
  unfold reach
  rw [if_pos h]

theorem ccPoison_near {s : State} {a : At} {p : Place} {n : Nat} (h : placePoison s (lkeyOf s a) p n = none) :
    ccPoison s a (.near p) n = .ok () := by
  simp only [ccPoison, h]

theorem reachRead_pond (s : State) (a : At) {p : Place} (h : p.space = 2 ∨ p.space = 3) (n : Nat) :
    reachRead s a (.near p) n = leNat (loadN s (locPond p.core p.off) n) := by
  simp only [reachRead, fetchPlace_pond s _ h]

/-- The counts of results sent out are outside the frames of stores. -/
theorem noMem_sbNext (x : State) (n : Nat) : State.noMem { x with sbNext := n } = State.noMem x := rfl
theorem noPond_sbNext (x : State) (n : Nat) : State.noPond { x with sbNext := n } = State.noPond x := rfl
theorem noSb_sbNext (x : State) (n : Nat) : State.noSb { x with sbNext := n } = State.noSb x := rfl

theorem wroteG_cycle (s : State) (a : At) (d : BitVec 5) (n : BitVec 1) (l : Nat) (v : Dword) :
    (wroteG s a d n l v).cycle = s.cycle := by
  unfold wroteG
  split <;> rfl

/-- A value loaded from local pond into a ready destination (R144, R275). -/
theorem loadDone_local {s : State} {a : At} {d : BitVec 5} {n : BitVec 1} (hd : dstReady s a d n) (v : Dword) :
    loadDone s a d n true v = .ok ⟨onStrand (wroteG s a d n 4 v) a (fun t => { t with ldReady := s.cycle + 4 }), 0, .seq⟩ := by
  simp only [loadDone, wrG_ready hd, wroteG_cycle, if_true]

theorem loadDone_far (s : State) (a : At) (d : BitVec 5) (n : BitVec 1) (v : Dword) :
    loadDone s a d n false v = .ok ⟨addSb s a (destG d n) true true (some v), 0, .seq⟩ := rfl

/-- The state after an instruction that changes no register and goes on in sequence; w is the state that it has left first. -/
theorem finish_same {s w : State} {a : At} {f : State → State} {k : Core → Core} (hw : Alone s w a f k)
    (ht : strandAt w a = strandAt s a) (len : Nat) :
    let t := finish a len ⟨w, 0, .seq⟩
    Alone s t a f k ∧ Follows len 0 (strandAt s a) (strandAt t a) ∧ (strandAt t a).still = (strandAt s a).still := by
  intro t
  have hs : strandAt t a = advance len 0 .seq (strandAt s a) := by rw [strandAt_finish_seq, ht]
  refine ⟨hw.trans (.strand _ _ _), ?_, ?_⟩ <;> rw [hs]
  · exact follows_advance len 0 _
  · rfl

theorem Wrote.finish {s w : State} {l n v : Nat} (h : Wrote s w l n v) (a : At) (len : Nat) (y : Dword) :
    Wrote s (finish a len ⟨w, y, .seq⟩) l n v := h.of_eq rfl rfl

theorem Wrote.addSb {s w : State} {l n v : Nat} (h : Wrote s w l n v) (a : At) (d : Dest) (access load : Bool) (r : Option Dword) :
    Wrote s (addSb w a d access load r) l n v := h.of_eq rfl rfl

theorem isFull_finish (w : State) (a : At) (len : Nat) (y : Dword) (c o : Nat) :
    isFull (finish a len ⟨w, y, .seq⟩) c o = isFull w c o := rfl

theorem isFull_addSb (w : State) (a : At) (d : Dest) (access load : Bool) (r : Option Dword) (c o : Nat) :
    isFull (addSb w a d access load r) c o = isFull w c o := rfl

/-! ## Loads (R44, R144, R168) -/

section
variable {s : State} {a : At} {b : BitVec 6} {m : MemOff} {size : Nat} {i : Instr} (hr : runner s = some a)
  (hb : srcReady (seen s a) a b) (hm : m.fits (src (seen s a) a b) size)
include hr hb hm

/-- A load of local pond leaves an exposed write (R144, R275). -/
theorem runs_ld_local {d : BitVec 5} {signed : Bool} (he : exec i s = ldOp m d b size signed s)
    (hd : dstReady (seen s a) a d 0)
    (hc : checkAddr [0, 1, 2, 3] size size (src (seen s a) a b).toNat (effAddr (src (seen s a) a b) m.off size) = .ok ())
    (hl : bits (effAddr (src (seen s a) a b) m.off size) 60 4 = 2)
    (hp : placePoison (seen s a) (lkeyOf (seen s a) a) (placeOf a.c (effAddr (src (seen s a) a b) m.off size)) size = none) :
    Runs i s (fun t => DoneLat 4 m.len (seen s a) t a d 0
      (extend signed size (leNat (loadN (seen s a) (locPond a.c (bits (effAddr (src (seen s a) a b) m.off size) 0 60)) size)))
      0 Strand.noLd ∧ (strandAt t a).ldReady = s.cycle + 4) := by
  have hmay : mayAccess (seen s a) a true d.toNat = true := mayAccess_of (gBusy_of_dstReady hd) (.inl rfl)
  have hreach := reach_scratch (show bits _ 60 4 ≠ 0 by rw [hl]; decide) (seen s a) false (a := a)
  rw [placeOf_local hl] at hp hreach
  refine .of he hr ?_ (finish_load m.len (seen s a) a d 0 _ (s.cycle + 4))
  simp only [memAddr_ok hb hm hc, hl, beq_self_eq_true, hreach, hmay, Bool.not_true, Bool.false_eq_true, if_false,
    ccPoison_near hp, loadDone_local hd, reachRead_pond (seen s a) a (Or.inl rfl : (⟨2, a.c, _⟩ : Place).space = 2 ∨ _)]
  rfl

/-- Every other load of this device is scoreboarded (R44, R169). -/
theorem runs_ld_sb {d : BitVec 5} {signed : Bool} (he : exec i s = ldOp m d b size signed s)
    (hd : dstReady (seen s a) a d 0) (hroom : sbRoom (strandAt (seen s a) a) = true) {u : State} {r : Reach}
    (hc : checkAddr [0, 1, 2, 3] size size (src (seen s a) a b).toNat (effAddr (src (seen s a) a b) m.off size) = .ok ())
    (hl : bits (effAddr (src (seen s a) a b) m.off size) 60 4 ≠ 2)
    (hreach : reach (seen s a) a (effAddr (src (seen s a) a b) m.off size) false = .ok (u, r)) (hh : r.here = true)
    (hp : ccPoison u a r size = .ok ()) :
    Runs i s (fun t => DoneSb m.len u t a (destG d 0) true true (some (extend signed size (reachRead u a r size)))) := by
  have hu := (reach_filled hreach).strandAt a
  have hmay : mayAccess u a false d.toNat = true :=
    mayAccess_of (by rw [hu]; exact gBusy_of_dstReady hd) (.inr (by rw [hu]; exact hroom))
  refine .of he hr ?_ (finish_addSb (.refl u a) rfl rfl noSb_sbNext m.len (destG d 0) true true _)
  have hn : (bits (effAddr (src (seen s a) a b) m.off size) 60 4 == 2) = false := beq_eq_false_iff_ne.mpr hl
  simp only [memAddr_ok hb hm hc, hn, hreach, hmay, Bool.not_true, Bool.false_eq_true, if_false]
  cases r with
  | remote va l => cases hh
  | near p => simp only [hp, loadDone_far]
  | phys va l => simp only [hp, loadDone_far]

end

/-- Settles O10: the rule for local pond at each width. -/
theorem loadsOfLocalPond : Obligations.LoadsOfLocalPond := by
  intro s a d b hr hb hd base loads
  have all {mk : BitVec 12 → Instr} (size : Nat) (signed : Bool) (short : ∀ o, exec (mk o) s = ldOp (memPlain o) d b size signed s)
      (long : ∀ imm word o, runLong imm word (mk o) s = ldOp (memLong imm word) d b size signed s) : loads mk size signed :=
    .of_op (fun m => ldOp m d b size signed) short long fun m i hm he hc hl hp => runs_ld_local hr hb hm he hd hc hl hp
  exact ⟨all 1 true (fun _ => rfl) fun _ _ _ => rfl, all 1 false (fun _ => rfl) fun _ _ _ => rfl,
    all 2 true (fun _ => rfl) fun _ _ _ => rfl, all 2 false (fun _ => rfl) fun _ _ _ => rfl,
    all 4 true (fun _ => rfl) fun _ _ _ => rfl, all 4 false (fun _ => rfl) fun _ _ _ => rfl,
    all 8 false (fun _ => rfl) fun _ _ _ => rfl⟩

/-- Settles O11: the rule for the other spaces at each width. -/
theorem loadsScoreboarded : Obligations.LoadsScoreboarded := by
  intro s a d b hr hb hd hroom base loads
  have all {mk : BitVec 12 → Instr} (size : Nat) (signed : Bool) (short : ∀ o, exec (mk o) s = ldOp (memPlain o) d b size signed s)
      (long : ∀ imm word o, runLong imm word (mk o) s = ldOp (memLong imm word) d b size signed s) : loads mk size signed :=
    .of_op (fun m => ldOp m d b size signed) short long fun m i hm he u r hc hl hreach hh hp =>
      runs_ld_sb hr hb hm he hd hroom hc hl hreach hh hp
  exact ⟨all 1 true (fun _ => rfl) fun _ _ _ => rfl, all 1 false (fun _ => rfl) fun _ _ _ => rfl,
    all 2 true (fun _ => rfl) fun _ _ _ => rfl, all 2 false (fun _ => rfl) fun _ _ _ => rfl,
    all 4 true (fun _ => rfl) fun _ _ _ => rfl, all 4 false (fun _ => rfl) fun _ _ _ => rfl,
    all 8 false (fun _ => rfl) fun _ _ _ => rfl⟩

/-! ## Stores (R168, R169) -/

/-- A CC store that stays in this device is one store at its location (R168). -/
theorem reachWrite_here {s u : State} {a : At} {ad size v : Nat} {wr : Bool} {x : Reach} (hs : size = 1 ∨ size = 2 ∨ size = 4 ∨ size = 8)
    (ha : ad % size = 0) (hreach : reach s a ad wr = .ok (u, x)) (hh : x.here = true) :
    reachWrite u a x size v = storeN u (reachLoc u a x) (leBytes size v) := by
  cases x with
  | remote va l => cases hh
  | phys va l => rfl
  | near p =>
    have hp : p = placeOf a.c ad := by
      by_cases h0 : bits ad 60 4 = 0
      · unfold reach at hreach
        simp only [h0, ne_eq, not_true_eq_false, if_false] at hreach
        split at hreach
        · simp only [awaitWalk, goOnWaiting] at hreach
          split at hreach <;> cases hreach
        · split at hreach
          · cases hreach
          · cases hreach
          · simp only [farWait] at hreach
            repeat' split at hreach
            all_goals cases hreach
          · repeat' split at hreach
            all_goals cases hreach
      · exact Reach.near.inj (reach_near h0 hreach).2
    subst hp
    obtain ⟨hpos, hline⟩ := aligned_in_line hs ha
    exact reachWrite_near u a _ size v hpos hline

/-- The state after a store that is performed at once. -/
theorem finish_store {u : State} (hm : u.memOk) (a : At) (len l n v : Nat) :
    let t := finish a len ⟨storeN u l (leBytes n v), 0, .seq⟩
    Wrote u t l n v ∧ Alone u t a State.noMem ∧ t.sbNext = u.sbNext ∧ Follows len 0 (strandAt u a) (strandAt t a) ∧
      (strandAt t a).still = (strandAt u a).still := by
  intro t
  obtain ⟨halone, hfollows, hstill⟩ := finish_same (Alone.store u a l (leBytes n v) (f := State.noMem) (k := id) fun _ _ _ => rfl)
    (strandAt_storeN u l (leBytes n v) a) len
  exact ⟨(wrote_storeN hm l n v).of_eq rfl rfl, halone, sbNext_storeN _ _ _, hfollows, hstill⟩

/-- The state after a store that is counted until it is performed. -/
theorem finish_store_sb {u : State} (hm : u.memOk) (a : At) (len l n v : Nat) (d : Dest) (access load : Bool) (r : Option Dword) :
    let t := finish a len ⟨addSb (storeN u l (leBytes n v)) a d access load r, 0, .seq⟩
    Wrote u t l n v ∧ DoneSb len u t a d access load r State.noMem :=
  ⟨(wrote_storeN hm l n v).of_eq rfl rfl, finish_addSb (Alone.store u a l _ fun _ _ _ => rfl) (strandAt_storeN _ _ _ _)
    (sbNext_storeN _ _ _) noMem_sbNext len d access load r⟩

theorem memOk_of_reach {s u : State} {a : At} {ad : Nat} {wr : Bool} {x : Reach} (hm : s.memOk)
    (h : reach (seen s a) a ad wr = .ok (u, x)) : u.memOk := by
  have e : u.mem = s.mem := (reach_filled h).mem
  unfold State.memOk
  rw [e]; exact hm

section
variable {s u : State} {a : At} {b : BitVec 6} {m : MemOff} {size : Nat} {i : Instr} {r : BitVec 5} {x : Reach}
  (hr : runner s = some a) (hb : srcReady (seen s a) a b) (hm : m.fits (src (seen s a) a b) size)
  (hs : size = 1 ∨ size = 2 ∨ size = 4 ∨ size = 8) (he : exec i s = stOp m r b size s)
  (hv : gBusy (strandAt (seen s a) a) r.toNat = false) (hok : s.memOk)
  (hc : checkAddr [0, 1, 2, 3] size size (src (seen s a) a b).toNat (effAddr (src (seen s a) a b) m.off size) = .ok ())
  (hreach : reach (seen s a) a (effAddr (src (seen s a) a b) m.off size) true = .ok (u, x)) (hh : x.here = true)
include hr hb hm hs he hv hok hc hreach hh

omit hok in
/-- What the body of a store gives once it may access. -/
theorem st_body {near : Bool} (hn : (bits (effAddr (src (seen s a) a b) m.off size) 60 4 == 2) = near)
    (hmay : mayAccess u a near 0 = true) {P : State → Prop}
    (h : P (finish a m.len ⟨(if near then (storeN u (reachLoc u a x) (leBytes size (gVal (strandAt (seen s a) a) r.toNat).toNat)) else
      addSb (storeN u (reachLoc u a x) (leBytes size (gVal (strandAt (seen s a) a) r.toNat).toNat)) a .none true false (some 0)), 0, .seq⟩)) :
    Runs i s P := by
  have hu := (reach_filled hreach).strandAt a
  obtain ⟨_, ha⟩ := checkAddr_ok hc
  have hw := reachWrite_here (v := (gVal (strandAt (seen s a) a) r.toNat).toNat) hs (ha (by omega)) hreach hh
  have hg : rdG u a r.toNat = .ok (gVal (strandAt (seen s a) a) r.toNat) := by rw [← hu]; exact rdG_ready (by rw [hu]; exact hv)
  refine .of he hr ?_ h
  simp only [memAddr_ok hb hm hc, hreach, hg, hn, hmay, Bool.not_true, Bool.false_eq_true, if_false]
  cases x with
  | remote va l => cases hh
  | near p => simp only [storeDone, hw]
  | phys va l => simp only [storeDone, hw]

theorem runs_st_local (hl : bits (effAddr (src (seen s a) a b) m.off size) 60 4 = 2) :
    Runs i s (fun t => Wrote u t (reachLoc u a x) size (gVal (strandAt (seen s a) a) r.toNat).toNat ∧ Alone u t a State.noMem ∧
      t.sbNext = u.sbNext ∧ Follows m.len 0 (strandAt u a) (strandAt t a) ∧ (strandAt t a).still = (strandAt u a).still) :=
  st_body hr hb hm hs he hv hc hreach hh (beq_iff_eq.mpr hl) (mayAccess_of (gBusy_zero _) (.inl rfl))
    (finish_store (memOk_of_reach hok hreach) a m.len _ size _)

theorem runs_st_sb (hl : bits (effAddr (src (seen s a) a b) m.off size) 60 4 ≠ 2)
    (hroom : sbRoom (strandAt (seen s a) a) = true) :
    Runs i s (fun t => Wrote u t (reachLoc u a x) size (gVal (strandAt (seen s a) a) r.toNat).toNat ∧
      DoneSb m.len u t a .none true false (some 0) State.noMem) :=
  st_body hr hb hm hs he hv hc hreach hh (beq_eq_false_iff_ne.mpr hl)
    (mayAccess_of (gBusy_zero _) (.inr (by rw [(reach_filled hreach).strandAt]; exact hroom)))
    (finish_store_sb (memOk_of_reach hok hreach) a m.len _ size _ _ _ _ _)

end

/-- Settles O12: the two rules at each width. -/
theorem stores : Obligations.Stores := by
  intro s a r b hok hr hb hv base v stores
  have all {mk : BitVec 12 → Instr} (size : Nat) (hs : size = 1 ∨ size = 2 ∨ size = 4 ∨ size = 8)
      (short : ∀ o, exec (mk o) s = stOp (memPlain o) r b size s)
      (long : ∀ imm word o, runLong imm word (mk o) s = stOp (memLong imm word) r b size s) : stores mk size :=
    .of_op (fun m => stOp m r b size) short long fun m i hm he u x hc hreach hh =>
      ⟨runs_st_local hr hb hm hs he hv hok hc hreach hh, runs_st_sb hr hb hm hs he hv hok hc hreach hh⟩
  exact ⟨all 1 (by omega) (fun _ => rfl) fun _ _ _ => rfl, all 2 (by omega) (fun _ => rfl) fun _ _ _ => rfl,
    all 4 (by omega) (fun _ => rfl) fun _ _ _ => rfl, all 8 (by omega) (fun _ => rfl) fun _ _ _ => rfl⟩

/-! ## Full-empty bits (R50) -/

theorem setHas_cons (j : Nat) (t : List Nat) (x : Nat) : setHas (j :: t) x = (decide (x = j) || setHas t x) := by
  by_cases h : x = j
  · simp [setHas, h]
  · simp [setHas, h, Ne.symm h]

theorem setHas_setAdd (l : List Nat) (k x : Nat) : setHas (setAdd l k) x = (setHas l x || decide (x = k)) := by
  induction l with
  | nil => simp [setAdd, setHas_cons, setHas]
  | cons j t ih =>
    simp only [setAdd]
    split
    · next hk => rw [setHas_cons, hk]; cases decide (x = k) <;> simp
    · split
      · rw [setHas_cons, Bool.or_comm]
      · rw [setHas_cons, setHas_cons, ih, Bool.or_assoc]

theorem setHas_setDel (l : List Nat) (k x : Nat) : setHas (setDel l k) x = (setHas l x && !decide (x = k)) := by
  induction l with
  | nil => rfl
  | cons j t ih =>
    simp only [setDel]
    split
    · next hk => rw [setHas_cons, hk, ih]; cases decide (x = k) <;> simp
    · next hk =>
      rw [setHas_cons, setHas_cons, ih]
      by_cases hx : x = j
      · simp [hx, hk]
      · simp [hx]

theorem isFull_setFull (s : State) (c o c' o' : Nat) :
    isFull (setFull s c o) c' o' = (isFull s c' o' || decide (granule c' o' = granule c o)) := setHas_setAdd _ _ _

theorem isFull_clearFull (s : State) (c o c' o' : Nat) :
    isFull (clearFull s c o) c' o' = (isFull s c' o' && !decide (granule c' o' = granule c o)) := setHas_setDel _ _ _

/-- Granules of the 1 MiB of a pond have different numbers (R50). -/
theorem granule_eq_iff {c c' o o' : Nat} (h : o < 2 ^ 20) (h' : o' < 2 ^ 20) :
    granule c' o' = granule c o ↔ c' = c ∧ o' / 16 = o / 16 := by
  unfold granule
  omega

/-- A count of a pond bank changes nothing that the frames of full-empty accesses keep. -/
theorem onCore_noBanks (s : State) (c : Nat) {f : Core → Core} (hf : ∀ k, (f k).noBanks = k.noBanks) (x : Nat) :
    (coreAt (onCore s c f) x).noBanks = (coreAt s x).noBanks := by
  by_cases h : x = c
  · subst h; rw [coreAt_onCore_same, hf]
  · rw [coreAt_onCore_ne _ _ h]

theorem strandAt_onCore (s : State) (c : Nat) {f : Core → Core} (hf : ∀ k, (f k).strands = k.strands) (a : At) :
    strandAt (onCore s c f) a = strandAt s a := by
  unfold strandAt
  by_cases h : a.c = c
  · subst h; rw [coreAt_onCore_same, hf]
  · rw [coreAt_onCore_ne _ _ h]

theorem strandAt_setFull (s : State) (c o : Nat) (a : At) : strandAt (setFull s c o) a = strandAt s a :=
  strandAt_onCore s c (f := fun k => { k with bankSets := bumpBank k.bankSets o }) (fun _ => rfl) a

theorem noBanks_setFull (s : State) (c o x : Nat) : (coreAt (setFull s c o) x).noBanks = (coreAt s x).noBanks :=
  onCore_noBanks s c (f := fun k => { k with bankSets := bumpBank k.bankSets o }) (fun _ => rfl) x

theorem noBanks_clearFull (s : State) (c o x : Nat) : (coreAt (clearFull s c o) x).noBanks = (coreAt s x).noBanks :=
  onCore_noBanks s c (f := fun k => { k with bankTakes := bumpBank k.bankTakes o }) (fun _ => rfl) x

theorem strandAt_clearFull (s : State) (c o : Nat) (a : At) : strandAt (clearFull s c o) a = strandAt s a :=
  strandAt_onCore s c (f := fun k => { k with bankTakes := bumpBank k.bankTakes o }) (fun _ => rfl) a

/-- Setting a granule full changes full-empty bits and counts of banks alone. -/
theorem Alone.setFull (s : State) (a : At) (c o : Nat) : Alone s (setFull s c o) a State.noPond Core.noBanks := by
  have hc (x : Nat) := noBanks_setFull s c o x
  refine ⟨rfl, fun x _ => hc x, ?_, fun x _ => strandAt_setFull s c o _⟩
  exact congrArg (fun k : Core => { k with strands := [] }) (hc a.c)

theorem strandAt_take (s : State) (take : Bool) (c o : Nat) (a : At) :
    strandAt (if take then clearFull s c o else s) a = strandAt s a := by
  cases take
  · rfl
  · exact strandAt_clearFull s c o a

/-- A strand that waits has changed its wait alone (R20). -/
theorem holdWait_waiting (s : State) (a : At) (k : WaitKind) (arg : Nat) :
    (strandAt (holdWait s a k true arg) a).status = .waiting ∧
    (∃ w, (strandAt (holdWait s a k true arg) a).wait = some w ∧ w.kind = k) ∧
    { strandAt (holdWait s a k true arg) a with status := .running, wait := none } =
      { strandAt s a with status := .running, wait := none } := by
  unfold holdWait
  rw [strandAt_onStrand_same]
  refine ⟨rfl, ?_, rfl⟩
  cases (strandAt s a).wait with
  | none => exact ⟨_, rfl, rfl⟩
  | some w =>
    by_cases h : w.kind = k
    · exact ⟨_, if_pos h, h⟩
    · exact ⟨_, if_neg h, rfl⟩

section
variable {s : State} {a : At} {b : BitVec 6} {m : MemOff} {size : Nat} {i : Instr} (hr : runner s = some a)
  (hb : srcReady (seen s a) a b) (hm : m.fits (src (seen s a) a b) size)
include hr hb hm

/-- What the body of an STF gives once it may access (R170). -/
theorem stf_body {r : BitVec 5} (he : exec i s = stfOp m r b size s) (hv : gBusy (strandAt (seen s a) a) r.toNat = false)
    (hc : checkAddr [2, 3] size size (src (seen s a) a b).toNat (effAddr (src (seen s a) a b) m.off size) = .ok ())
    {near : Bool} (hn : (bits (effAddr (src (seen s a) a b) m.off size) 60 4 == 2) = near)
    (hmay : near = true ∨ sbRoom (strandAt (seen s a) a) = true) {p : Place}
    (hp : placeOf a.c (effAddr (src (seen s a) a b) m.off size) = p) {w : State}
    (hw : setFull (storeN (seen s a) (locPond p.core p.off) (leBytes size (gVal (strandAt (seen s a) a) r.toNat).toNat)) p.core p.off = w)
    {P : State → Prop} (h : P (finish a m.len ⟨(if near then w else addSb w a .none true false (some 0)), 0, .seq⟩)) : Runs i s P := by
  have hsp : p.space = 2 ∨ p.space = 3 := by
    rw [← hp, placeOf_space]; simpa using (checkAddr_ok hc).1
  refine .of he hr ?_ h
  simp only [memAddr_ok hb hm hc, rdG_ready hv, hn, mayAccess_of (gBusy_zero (strandAt (seen s a) a)) hmay, Bool.not_true, Bool.false_eq_true,
    if_false, hp, putPlace_pond _ _ hsp, hw, storeDone]

/-- An LDF of a full granule (R50, R170). -/
theorem ldf_body {d : BitVec 5} {take : Bool} (he : exec i s = ldfOp m d b size take s) (hd : dstReady (seen s a) a d 0)
    (hc : checkAddr [2, 3] size size (src (seen s a) a b).toNat (effAddr (src (seen s a) a b) m.off size) = .ok ())
    {near : Bool} (hn : (bits (effAddr (src (seen s a) a b) m.off size) 60 4 == 2) = near)
    (hmay : near = true ∨ sbRoom (strandAt (seen s a) a) = true) {p : Place}
    (hp : placeOf a.c (effAddr (src (seen s a) a b) m.off size) = p) (hfull : isFull (seen s a) p.core p.off = true)
    (hpoison : placePoison (seen s a) (lkeyOf (seen s a) a) p size = none) {x : Done}
    (hx : loadDone (if take then clearFull (seen s a) p.core p.off else seen s a) a d 0 near
      (BitVec.ofNat 64 (leNat (loadN (seen s a) (locPond p.core p.off) size))) = .ok x)
    {P : State → Prop} (h : P (finish a m.len x)) : Runs i s P := by
  have hsp : p.space = 2 ∨ p.space = 3 := by
    rw [← hp, placeOf_space]; simpa using (checkAddr_ok hc).1
  refine .of he hr ?_ h
  simp only [memAddr_ok hb hm hc, hn, mayAccess_of (gBusy_of_dstReady hd) hmay, Bool.not_true, Bool.false_eq_true, if_false, hp,
    hfull, ccPoison_near hpoison, reachRead_pond _ _ hsp, hx]

/-- An LDF of an empty granule has not issued (R50). -/
theorem runs_ldf_empty {d : BitVec 5} {take : Bool} (he : exec i s = ldfOp m d b size take s) (hd : dstReady (seen s a) a d 0)
    (hroom : sbRoom (strandAt (seen s a) a) = true)
    (hc : checkAddr [2, 3] size size (src (seen s a) a b).toNat (effAddr (src (seen s a) a b) m.off size) = .ok ())
    (hempty : isFull (seen s a) (placeOf a.c (effAddr (src (seen s a) a b) m.off size)).core
      (placeOf a.c (effAddr (src (seen s a) a b) m.off size)).off = false) :
    exec i s = .next (holdWait (seen s a) a (.granule (effAddr (src (seen s a) a b) m.off size / 16 * 16)) true 0) := by
  refine he.trans (issue_wait hr ?_)
  simp only [memAddr_ok hb hm hc, mayAccess_of (gBusy_of_dstReady hd) (.inr hroom), Bool.not_true, Bool.false_eq_true, if_false,
    hempty, Bool.not_false, if_true]

end

/-- Settles O13: the shared operation at both widths. -/
theorem storeFull : Obligations.StoreFull := by
  intro s a r b hok hr hb hv base v stores
  have hok' : (seen s a).memOk := hok
  have all {mk : BitVec 12 → Instr} (size : Nat) (short : ∀ o, exec (mk o) s = stfOp (memPlain o) r b size s)
      (long : ∀ imm word o, runLong imm word (mk o) s = stfOp (memLong imm word) r b size s) : stores mk size := by
    refine .of_op (fun m => stfOp m r b size) short long fun m i hm he hc => ?_
    intro p full
    have hwrote : Wrote (seen s a) (setFull (storeN (seen s a) (locPond p.core p.off) (leBytes size v)) p.core p.off)
        (locPond p.core p.off) size v := (wrote_storeN hok' _ _ _).of_eq rfl rfl
    have hfe (c o : Nat) : isFull (setFull (storeN (seen s a) (locPond p.core p.off) (leBytes size v)) p.core p.off) c o =
        (isFull (seen s a) c o || decide (granule c o = granule p.core p.off)) := by
      rw [isFull_setFull, storeN_rest]
      rfl
    have halone : Alone (seen s a) (setFull (storeN (seen s a) (locPond p.core p.off) (leBytes size v)) p.core p.off) a
        State.noPond Core.noBanks := (Alone.store _ a _ _ fun _ _ _ => rfl).trans (.setFull _ a _ _)
    have hst : strandAt (setFull (storeN (seen s a) (locPond p.core p.off) (leBytes size v)) p.core p.off) a =
        strandAt (seen s a) a := by rw [strandAt_setFull, strandAt_storeN]
    refine ⟨fun hl => ?_, fun hl hroom => ?_⟩
    · refine stf_body hr hb hm he hv hc (beq_iff_eq.mpr hl) (.inl rfl) rfl rfl
        ⟨⟨hwrote.finish a m.len 0, fun c o _ _ => (isFull_finish _ _ _ _ c o).trans (hfe c o)⟩, ?_⟩
      obtain ⟨h1, h2, h3⟩ := finish_same halone hst m.len
      exact ⟨h1, sbNext_storeN _ _ _, h2, h3⟩
    · exact stf_body hr hb hm he hv hc (beq_eq_false_iff_ne.mpr (by rw [hl]; decide)) (.inr hroom) rfl rfl
        ⟨⟨(hwrote.addSb a .none true false (some 0)).finish a m.len 0, fun c o _ _ =>
            ((isFull_finish _ _ _ _ c o).trans (isFull_addSb _ _ _ _ _ _ c o)).trans (hfe c o)⟩,
          finish_addSb halone hst (sbNext_storeN _ _ _) noPond_sbNext m.len _ _ _ _⟩
  exact ⟨all 4 (fun _ => rfl) fun _ _ _ => rfl, all 8 (fun _ => rfl) fun _ _ _ => rfl⟩

/-- Settles O14: the shared operation on a full and on an empty granule, and the two operations on the bits. -/
theorem loadFull : Obligations.LoadFull := by
  refine ⟨fun s a d b hr hb hd => ?_, fun s a d b hr hb hd hroom => ?_, fun s c o ho => ⟨fun c' o' ho' => ?_, ?_⟩⟩
  · intro base loads
    have all {mk : BitVec 12 → Instr} (size : Nat) (take : Bool) (short : ∀ o, exec (mk o) s = ldfOp (memPlain o) d b size take s)
        (long : ∀ imm word o, runLong imm word (mk o) s = ldfOp (memLong imm word) d b size take s) : loads mk size take := by
      refine .of_op (fun m => ldfOp m d b size take) short long fun m i hm he => ?_
      intro p u v hc hfull hp
      refine ⟨fun hl => ?_, fun hl hroom => ?_⟩
      · refine ldf_body hr hb hm he hd hc (beq_iff_eq.mpr hl) (.inl rfl) rfl hfull hp (loadDone_local (s := u) ?_ _) ?_
        · rw [dstReady, strandAt_take]; exact hd
        · have hcycle : u.cycle = s.cycle := by cases take <;> rfl
          rw [hcycle]
          exact finish_load m.len u a d 0 v _
      · exact ldf_body hr hb hm he hd hc (beq_eq_false_iff_ne.mpr (by rw [hl]; decide)) (.inr hroom) rfl hfull hp
          (loadDone_far u a d 0 v) (finish_addSb (.refl u a) rfl rfl noSb_sbNext m.len _ _ _ _)
    exact ⟨all 4 false (fun _ => rfl) fun _ _ _ => rfl, all 4 true (fun _ => rfl) fun _ _ _ => rfl,
      all 8 false (fun _ => rfl) fun _ _ _ => rfl, all 8 true (fun _ => rfl) fun _ _ _ => rfl⟩
  · intro base waits
    have all {mk : BitVec 12 → Instr} (size : Nat) (take : Bool) (short : ∀ o, exec (mk o) s = ldfOp (memPlain o) d b size take s)
        (long : ∀ imm word o, runLong imm word (mk o) s = ldfOp (memLong imm word) d b size take s) : waits mk size :=
      .of_op (fun m => ldfOp m d b size take) short long fun m i hm he hc hempty =>
        ⟨_, runs_ldf_empty hr hb hm he hd hroom hc hempty, .strand _ _ _, holdWait_waiting _ _ _ _⟩
    exact ⟨all 4 false (fun _ => rfl) fun _ _ _ => rfl, all 4 true (fun _ => rfl) fun _ _ _ => rfl,
      all 8 false (fun _ => rfl) fun _ _ _ => rfl, all 8 true (fun _ => rfl) fun _ _ _ => rfl⟩
  · rw [isFull_setFull, isFull_clearFull]
    simp only [granule_eq_iff ho ho', and_self]
  · rintro t (rfl | rfl)
    · exact ⟨rfl, noBanks_setFull s c o⟩
    · exact ⟨rfl, noBanks_clearFull s c o⟩

/-! ## Atomics (R133, R171) -/

/-- The value an ACAS compares with is read from a ready d. -/
theorem casVal_ready {s : State} {a : At} {kind : Nat} {d : BitVec 5} (h : kind = 12 → gBusy (strandAt s a) d.toNat = false) :
    casVal s a kind d = .ok (if kind = 12 then gVal (strandAt s a) d.toNat else 0) := by
  unfold casVal
  split
  · next hk => exact rdG_ready (h hk)
  · rfl

theorem mayAccess_dst {s : State} {a : At} {d : BitVec 5} {n : BitVec 1} (hd : dstReady s a d n) (hroom : sbRoom (strandAt s a) = true) :
    mayAccess s a false (if n = 1 then 0 else d.toNat) = true := by
  refine mayAccess_of ?_ (.inr hroom)
  split
  · exact gBusy_zero _
  · next h => exact hd.resolve_left h

/-- An atomic of this device reads, writes and sends the old value out (R171). -/
theorem runs_atom {s u : State} {a : At} {kind size : Nat} {d : BitVec 5} {n : BitVec 1} {x y : BitVec 6} {r : Reach} {i : Instr}
    (hs : size = 4 ∨ size = 8) (he : exec i s = atomOp kind size d n x y s) (hok : s.memOk) (hr : runner s = some a)
    (hx : srcReady (seen s a) a x) (hy : srcReady (seen s a) a y) (hd : dstReady (seen s a) a d n)
    (hroom : sbRoom (strandAt (seen s a) a) = true) (hh : r.here = true)
    (hk : kind = 12 → gBusy (strandAt (seen s a) a) d.toNat = false)
    (hreach : reach (seen s a) a (src (seen s a) a x).toNat true = .ok (u, r))
    (hc : checkAddr [0, 1, 2, 3] size size (src (seen s a) a x).toNat (src (seen s a) a x).toNat = .ok ())
    (hp : ccPoison u a r size = .ok ()) :
    let old := reachRead u a r size
    let c := (if kind = 12 then gVal (strandAt (seen s a) a) d.toNat else 0).toNat % 2 ^ (8 * size)
    Runs i s (fun t =>
      Wrote u t (reachLoc u a r) size (atomFn kind (8 * size) old ((src (seen s a) a y).toNat % 2 ^ (8 * size)) c) ∧
      DoneSb 4 u t a (destG d n) true false (some (BitVec.ofNat 64 old)) State.noMem) := by
  intro old c
  have hu := (reach_filled hreach).strandAt a
  have hw := fun v => reachWrite_here (v := v) (by omega) ((checkAddr_ok hc).2 (by omega)) hreach hh
  have hy' : srcReady u a y := by rw [srcReady, hu]; exact hy
  have hsrc : src u a y = src (seen s a) a y := by rw [src, src, hu]
  have hk' : casVal u a kind d = .ok (if kind = 12 then gVal (strandAt (seen s a) a) d.toNat else 0) := by
    rw [← hu]; exact casVal_ready (by rw [hu]; exact hk)
  have hmay : mayAccess u a false (if n = 1 then 0 else d.toNat) = true :=
    mayAccess_dst (by rw [dstReady, hu]; exact hd) (by rw [hu]; exact hroom)
  refine .of he hr ?_ (finish_store_sb (memOk_of_reach hok hreach) a 4 _ size _ _ _ _ _)
  simp only [rd_ready hx, hc, hreach, rd_ready hy', hk', hmay, Bool.not_true, Bool.false_eq_true, if_false, hsrc]
  cases r with
  | remote va l => cases hh
  | near p => simp only [hp, hw]; rfl
  | phys va l => simp only [hp, hw]; rfl

/-- Settles O15: the shared operation with the function of each atomic. -/
theorem atomics : Obligations.Atomics := by
  intro s a d n x y u r hok hr hx hy hd hroom hh ad hreach does both
  have all {i : Instr} (kind : Nat) {size : Nat} (hs : size = 4 ∨ size = 8) (he : exec i s = atomOp kind size d n x y s)
      (hk : kind = 12 → gBusy (strandAt (seen s a) a) d.toNat = false) {op : Nat → Nat → Nat}
      (hop : ∀ old v, atomFn kind (8 * size) old v
        ((if kind = 12 then gVal (strandAt (seen s a) a) d.toNat else 0).toNat % 2 ^ (8 * size)) = op old v) : does i size op := by
    intro hc hp old v
    rw [← hop]
    exact runs_atom hs he hok hr hx hy hd hroom hh hk hreach hc hp
  have two {iw id' : Instr} (kind : Nat) (hw : exec iw s = atomOp kind 4 d n x y s) (hd' : exec id' s = atomOp kind 8 d n x y s)
      (hk : kind = 12 → gBusy (strandAt (seen s a) a) d.toNat = false) {op : Nat → Nat → Nat → Nat}
      (hop : ∀ w old v, atomFn kind w old v ((if kind = 12 then gVal (strandAt (seen s a) a) d.toNat else 0).toNat % 2 ^ w) =
        op w old v) : both iw id' op :=
    ⟨all kind (.inl rfl) hw hk (hop 32), all kind (.inr rfl) hd' hk (hop 64)⟩
  exact ⟨two 2 rfl rfl (by omega) fun _ _ _ => rfl, two 3 rfl rfl (by omega) fun _ _ _ => rfl,
    two 4 rfl rfl (by omega) fun _ _ _ => rfl, two 5 rfl rfl (by omega) fun _ _ _ => rfl,
    two 6 rfl rfl (by omega) fun _ _ _ => rfl, two 7 rfl rfl (by omega) fun _ _ _ => rfl,
    two 8 rfl rfl (by omega) fun _ _ _ => rfl, two 9 rfl rfl (by omega) fun _ _ _ => rfl,
    two 10 rfl rfl (by omega) fun _ _ _ => rfl, two 11 rfl rfl (by omega) fun _ _ _ => rfl,
    fun hg => two 12 rfl rfl (fun _ => hg) fun _ _ _ => rfl, all 13 (.inl rfl) rfl (by omega) fun _ _ => rfl⟩

end Sys2Proof.Machine
end

section
/-! The statements on remote accesses, the checks of addresses, and answers that arrive. -/

namespace Sys2Proof.Machine

/-! ## Remote accesses (R319, R321) -/

/-- A flit that leaves changes the spans alone (R316). -/
theorem sendOn_rest (s : State) (cl route len : Nat) : sendOn s cl route len = { s with spans := (sendOn s cl route len).spans } := by
  unfold sendOn
  split <;> rfl

/-- Sending a result out changes nothing that fetching at the strand's place reads. -/
theorem SameCode.addSb (s : State) (a : At) (d : Dest) (access load : Bool) (v : Option Dword) :
    SameCode s (addSb s a d access load v) a := by
  have hc : coreAt (Machine.addSb s a d access load v) a.c = _ := coreAt_onStrand_same s a (sentOut s.sbNext d access load v)
  refine ⟨rfl, rfl, rfl, rfl, rfl, rfl, ?_, ?_⟩
  · rw [hc]
  · rw [addSb_strand]; exact ⟨rfl, rfl, rfl, rfl⟩

theorem SameCode.spans {s t : State} {a : At} (h : SameCode s t a) (l : Tab Span) : SameCode s { t with spans := l } a := by
  obtain ⟨h1, h2, h3, h4, h5, h6, h7, h8⟩ := h
  exact ⟨h1, h2, h3, h4, h5, h6, h7, h8⟩

/-- What a remote access of kind, size, operands and destination leaves behind (R319, R456). -/
structure LeftRemote (len : Nat) (u t : State) (a : At) (va lidx kind size v c : Nat) (dest : Dest) (load : Bool) : Prop where
  mem : t.mem = u.mem
  out : (strandAt t a).sb = (strandAt u a).sb ++ [⟨u.sbNext, dest, true, load, none⟩]
  regs : (strandAt t a).g = (strandAt u a).g
  follows : Follows len 0 (strandAt u a) (strandAt t a)
  remotes : t.remotes = u.remotes ++ [⟨u.sbNext, a.c, a.x, ctxOf u a, va, lidx, kind, size, v, c, u.sbNext, none, u.cycle,
    ccWord u a, (strandAt u a).pc.toNat⟩]

theorem finish_remoteOut (len : Nat) (u : State) (a : At) (va lidx kind size v c : Nat) (dest : Dest) (load : Bool) :
    LeftRemote len u (finish a len ⟨remoteOut u a va lidx kind size v c dest load, 0, .seq⟩) a va lidx kind size v c dest load := by
  obtain ⟨w, hw, hcode⟩ : ∃ w, (sendFlit (addSb u a dest true load none) (a.c / 48) lidx (if kind = 0 then 0 else size) =
      { addSb u a dest true load none with spans := w }) ∧ SameCode u { addSb u a dest true load none with spans := w } a :=
    ⟨_, sendOn_rest _ _ _ _, (SameCode.addSb u a dest true load none).spans _⟩
  have hs : strandAt (finish a len ⟨remoteOut u a va lidx kind size v c dest load, 0, .seq⟩) a =
      advance len 0 .seq (sentOut u.sbNext dest true load none (strandAt u a)) := by
    rw [strandAt_finish_seq, remoteOut, hw]
    exact congrArg _ (addSb_strand u a dest true load none)
  have hr : (remoteOut u a va lidx kind size v c dest load).remotes = u.remotes ++ [⟨u.sbNext, a.c, a.x, ctxOf u a, va, lidx,
      kind, size, v, c, u.sbNext, none, u.cycle, ccWord u a, (strandAt u a).pc.toNat⟩] := by
    rw [← hcode.ccWord, ← hcode.ctxOf, ← hcode.strand.1, remoteOut, hw]
    rfl
  refine ⟨?_, ?_, ?_, ?_, hr⟩
  · change (remoteOut u a va lidx kind size v c dest load).mem = u.mem
    rw [remoteOut, hw]
    rfl
  · rw [hs]; rfl
  · rw [hs]; rfl
  · rw [hs]; exact (follows_advance len 0 _).of_eq rfl rfl rfl rfl rfl

section
variable {s u : State} {a : At} {b : BitVec 6} {m : MemOff} {size va lidx : Nat} {i : Instr} (hr : runner s = some a)
  (hb : srcReady (seen s a) a b) (hm : m.fits (src (seen s a) a b) size)
  (hroom : sbRoom (strandAt (seen s a) a) = true)
  (hc : checkAddr [0, 1, 2, 3] size size (src (seen s a) a b).toNat (effAddr (src (seen s a) a b) m.off size) = .ok ())
  (h0 : bits (effAddr (src (seen s a) a b) m.off size) 60 4 = 0)
include hr hb hm hroom hc h0

theorem runs_ld_remote {d : BitVec 5} {signed : Bool} (he : exec i s = ldOp m d b size signed s)
    (hd : gBusy (strandAt (seen s a) a) d.toNat = false)
    (hreach : reach (seen s a) a (effAddr (src (seen s a) a b) m.off size) false = .ok (u, .remote va lidx)) :
    Runs i s (fun t => LeftRemote m.len u t a va lidx 0 (if signed then size + 8 else size) 0 0 (destG d 0) true) := by
  have hu := (reach_filled hreach).strandAt a
  refine .of he hr ?_ (finish_remoteOut m.len u a va lidx 0 _ 0 0 (destG d 0) true)
  have hmay : mayAccess u a false d.toNat = true := mayAccess_of (by rw [hu]; exact hd) (.inr (by rw [hu]; exact hroom))
  simp only [memAddr_ok hb hm hc, h0, show ((0 : Nat) == 2) = false from rfl, hreach, hmay, Bool.not_true, Bool.false_eq_true,
    if_false]

theorem runs_st_remote {r : BitVec 5} (he : exec i s = stOp m r b size s) (hv : gBusy (strandAt (seen s a) a) r.toNat = false)
    (hreach : reach (seen s a) a (effAddr (src (seen s a) a b) m.off size) true = .ok (u, .remote va lidx)) :
    Runs i s (fun t => LeftRemote m.len u t a va lidx 1 size (gVal (strandAt (seen s a) a) r.toNat).toNat 0 .none false) := by
  have hu := (reach_filled hreach).strandAt a
  have hg : rdG u a r.toNat = .ok (gVal (strandAt (seen s a) a) r.toNat) := by rw [← hu]; exact rdG_ready (by rw [hu]; exact hv)
  refine .of he hr ?_ (finish_remoteOut m.len u a va lidx 1 size _ 0 .none false)
  have hmay : mayAccess u a false 0 = true := mayAccess_of (gBusy_zero _) (.inr (by rw [hu]; exact hroom))
  simp only [memAddr_ok hb hm hc, h0, show ((0 : Nat) == 2) = false from rfl, hreach, hg, hmay, Bool.not_true,
    Bool.false_eq_true, if_false]

end

theorem runs_atom_remote {s u : State} {a : At} {kind size va lidx : Nat} {d : BitVec 5} {n : BitVec 1} {x y : BitVec 6} {i : Instr}
    (he : exec i s = atomOp kind size d n x y s) (hr : runner s = some a) (hx : srcReady (seen s a) a x)
    (hy : srcReady (seen s a) a y) (hd : gBusy (strandAt (seen s a) a) d.toNat = false)
    (hroom : sbRoom (strandAt (seen s a) a) = true)
    (hreach : reach (seen s a) a (src (seen s a) a x).toNat true = .ok (u, .remote va lidx))
    (hc : checkAddr [0, 1, 2, 3] size size (src (seen s a) a x).toNat (src (seen s a) a x).toNat = .ok ()) :
    Runs i s (fun t => LeftRemote 4 u t a va lidx kind size ((src (seen s a) a y).toNat % 2 ^ (8 * size))
      ((if kind = 12 then gVal (strandAt (seen s a) a) d.toNat else 0).toNat % 2 ^ (8 * size)) (destG d n) false) := by
  have hu := (reach_filled hreach).strandAt a
  have hy' : srcReady u a y := by rw [srcReady, hu]; exact hy
  have hsrc : src u a y = src (seen s a) a y := by rw [src, src, hu]
  have hk' : casVal u a kind d = .ok (if kind = 12 then gVal (strandAt (seen s a) a) d.toNat else 0) := by
    rw [← hu]; exact casVal_ready fun _ => by rw [hu]; exact hd
  have hmay : mayAccess u a false (if n = 1 then 0 else d.toNat) = true :=
    mayAccess_dst (.inr (by rw [hu]; exact hd)) (by rw [hu]; exact hroom)
  refine .of he hr ?_ (finish_remoteOut 4 u a va lidx kind size _ _ (destG d n) false)
  simp only [rd_ready hx, hc, hreach, rd_ready hy', hk', hmay, Bool.not_true, Bool.false_eq_true, if_false, hsrc]

/-- Settles O16: what leaves is the same for loads, stores and atomics. -/
theorem remoteAccesses : Obligations.RemoteAccesses := by
  intro s a d n x y u va lidx hr hx hroom base leaves
  have left {i : Instr} {len n kind size v c ad : Nat} {wr : Bool} {dest : Dest} (load : Bool) (hk : load = decide (kind = 0))
      (h : checkAddr [0, 1, 2, 3] n n base.toNat ad = .ok () → bits ad 60 4 = 0 →
        reach (seen s a) a ad wr = .ok (u, .remote va lidx) →
        Runs i s (fun t => LeftRemote len u t a va lidx kind size v c dest load)) : leaves i len wr ad n kind size v c dest := by
    intro hc h0 hreach
    refine (h hc h0 hreach).mono fun t ht => ⟨ht.mem.trans (reach_filled hreach).mem, ?_, ht.regs, ht.follows, ht.remotes⟩
    rw [← hk]; exact ht.out
  refine ⟨fun hd => ?_, fun hd => ?_, fun hy hd => ?_⟩
  · intro loads
    have all {mk : BitVec 12 → Instr} (size : Nat) (signed : Bool) (short : ∀ o, exec (mk o) s = ldOp (memPlain o) d x size signed s)
        (long : ∀ imm word o, runLong imm word (mk o) s = ldOp (memLong imm word) d x size signed s) :
        loads mk size (if signed then size + 8 else size) :=
      .of_op (fun m => ldOp m d x size signed) short long fun m i hm he =>
        left true rfl fun hc h0 hreach => runs_ld_remote hr hx hm hroom hc h0 he hd hreach
    exact ⟨all 1 true (fun _ => rfl) fun _ _ _ => rfl, all 1 false (fun _ => rfl) fun _ _ _ => rfl,
      all 2 true (fun _ => rfl) fun _ _ _ => rfl, all 2 false (fun _ => rfl) fun _ _ _ => rfl,
      all 4 true (fun _ => rfl) fun _ _ _ => rfl, all 4 false (fun _ => rfl) fun _ _ _ => rfl,
      all 8 false (fun _ => rfl) fun _ _ _ => rfl⟩
  · intro stores
    have all {mk : BitVec 12 → Instr} (size : Nat) (short : ∀ o, exec (mk o) s = stOp (memPlain o) d x size s)
        (long : ∀ imm word o, runLong imm word (mk o) s = stOp (memLong imm word) d x size s) : stores mk size :=
      .of_op (fun m => stOp m d x size) short long fun m i hm he =>
        left false rfl fun hc h0 hreach => runs_st_remote hr hx hm hroom hc h0 he hd hreach
    exact ⟨all 1 (fun _ => rfl) fun _ _ _ => rfl, all 2 (fun _ => rfl) fun _ _ _ => rfl,
      all 4 (fun _ => rfl) fun _ _ _ => rfl, all 8 (fun _ => rfl) fun _ _ _ => rfl⟩
  · intro one both
    have all {i : Instr} (kind size : Nat) {c : Nat} (h0 : false = decide (kind = 0)) (he : exec i s = atomOp kind size d n x y s)
        (hcas : (if kind = 12 then gVal (strandAt (seen s a) a) d.toNat else 0).toNat % 2 ^ (8 * size) = c) :
        one i kind size c := by
      refine left false h0 fun hc _ hreach => ?_
      rw [← hcas]
      exact runs_atom_remote he hr hx hy hd hroom hreach hc
    have two {iw id' : Instr} (kind : Nat) (hk : kind ≠ 0 ∧ kind ≠ 12) (hw : exec iw s = atomOp kind 4 d n x y s)
        (hd' : exec id' s = atomOp kind 8 d n x y s) : both iw id' kind :=
      ⟨all kind 4 (decide_eq_false hk.1).symm hw (by rw [if_neg hk.2]; rfl),
        all kind 8 (decide_eq_false hk.1).symm hd' (by rw [if_neg hk.2]; rfl)⟩
    exact ⟨two 2 (by omega) rfl rfl, two 3 (by omega) rfl rfl, two 4 (by omega) rfl rfl, two 5 (by omega) rfl rfl,
      two 6 (by omega) rfl rfl, two 7 (by omega) rfl rfl, two 8 (by omega) rfl rfl, two 9 (by omega) rfl rfl,
      two 10 (by omega) rfl rfl, two 11 (by omega) rfl rfl, all 12 4 rfl rfl rfl, all 12 8 rfl rfl rfl, all 13 4 rfl rfl rfl⟩

/-! ## The checks of an address (R400, R406) -/

/-- The third check of R406: an offset beyond its field or beyond the lake. -/
theorem offset_bad_iff (sp off : Nat) :
    (off / 2 ^ spaceWidth sp ≠ 0 ∨ (sp = 1 ∧ spaceLimit 1 ≤ off)) ↔ ¬(off < 2 ^ spaceWidth sp ∧ (sp = 1 → off < spaceLimit sp)) := by
  have hd : off / 2 ^ spaceWidth sp ≠ 0 ↔ ¬off < 2 ^ spaceWidth sp := by
    rw [ne_eq, Nat.div_eq_zero_iff_lt (Nat.pow_pos (by omega))]
  rw [hd]
  by_cases h1 : sp = 1
  · subst h1; simp only [true_and, forall_const]; omega
  · simp [h1]

section
variable {spaces : List Nat} {align len base ad : Nat}

/-- The checks of R406 one by one. -/
theorem checkAddr_steps (hs : ∀ x, x ∈ spaces → x ≤ 4) :
    let sp := bits ad 60 4
    let off := bits ad 0 60
    let inSpace := off < 2 ^ spaceWidth sp ∧ (sp = 1 → off < spaceLimit sp)
    let code (c : Nat) : Prop := ∃ x, checkAddr spaces align len base ad = .error x ∧ x.code = c ∧ x.a0 = ad
    (5 ≤ sp → code 0x21) ∧ (sp ≤ 4 → sp ∉ spaces → code 0x17) ∧ (sp ∈ spaces → ¬inSpace → code 0x22) ∧
    (sp ∈ spaces → inSpace → sp = 3 → 48 ≤ bits ad 20 6 → code 0x23) ∧
    (sp ∈ spaces → inSpace → (sp = 3 → bits ad 20 6 < 48) → bits base 60 4 ≠ sp → code 0x24) ∧
    (sp ∈ spaces → inSpace → (sp = 3 → bits ad 20 6 < 48) → bits base 60 4 = sp → align ≠ 0 → ad % align ≠ 0 → code 0x20) ∧
    (sp ∈ spaces → inSpace → (sp = 3 → bits ad 20 6 < 48) → bits base 60 4 = sp → (align ≠ 0 → ad % align = 0) →
      spaceLimit sp < addrOff ad + len → code 0x22) ∧
    (sp ∈ spaces → inSpace → (sp = 3 → bits ad 20 6 < 48) → bits base 60 4 = sp → (align ≠ 0 → ad % align = 0) →
      addrOff ad + len ≤ spaceLimit sp → checkAddr spaces align len base ad = .ok ()) := by
  intro sp off inSpace code
  have hbad := offset_bad_iff sp off
  have allows (h : sp ∈ spaces) : ¬5 ≤ sp ∧ (!spaces.contains sp) ≠ true := ⟨by have := hs _ h; omega, by simpa using h⟩
  have core {h3 : sp = 3 → bits ad 20 6 < 48} : ¬(sp = 3 ∧ 48 ≤ bits ad 20 6) := fun h => by have := h3 h.1; omega
  have even {h : align ≠ 0 → ad % align = 0} : ¬(align ≠ 0 ∧ ad % align ≠ 0) := fun k => k.2 (h k.1)
  simp only [code, checkAddr]
  refine ⟨fun h => ?_, fun h hn => ?_, fun h hi => ?_, fun h hi h3 hc => ?_, fun h hi h3 hb => ?_, fun h hi h3 hb h0 ha => ?_,
    fun h hi h3 hb ha hl => ?_, fun h hi h3 hb ha hl => ?_⟩
  · exact ⟨_, if_pos h, rfl, rfl⟩
  · exact ⟨_, (if_neg (by omega)).trans (if_pos (by simpa using hn)), rfl, rfl⟩
  · exact ⟨_, (if_neg (allows h).1).trans ((if_neg (allows h).2).trans (if_pos (hbad.mpr hi))), rfl, rfl⟩
  all_goals rw [if_neg (allows h).1, if_neg (allows h).2, if_neg (hbad.not.mpr (not_not.mpr hi))]
  · exact ⟨_, if_pos ⟨h3, hc⟩, rfl, rfl⟩
  all_goals rw [if_neg (core (h3 := h3))]
  · exact ⟨_, if_pos hb, rfl, rfl⟩
  all_goals rw [if_neg (not_not.mpr hb)]
  · exact ⟨_, if_pos ⟨h0, ha⟩, rfl, rfl⟩
  all_goals rw [if_neg (even (h := ha))]
  · exact ⟨_, if_pos hl, rfl, rfl⟩
  · exact if_neg (Nat.not_lt.mpr hl)

end

section
variable {s : State} {a : At} {b : BitVec 6} {m : MemOff} {size : Nat} {c : Cause} (hr : runner s = some a)
  (hb : srcReady (seen s a) a b) (hm : m.fits (src (seen s a) a b) size)
include hr hb hm

theorem ldOp_refused {d : BitVec 5} {signed : Bool}
    (hc : checkAddr [0, 1, 2, 3] size size (src (seen s a) a b).toNat (effAddr (src (seen s a) a b) m.off size) = .error c) :
    ldOp m d b size signed s = .next (signalTrap (seen s a) a (ccTrap (seen s a) a c)) := by
  refine issue_trap hr ?_
  simp only [memAddr_error hb hm hc]

theorem stOp_refused {r : BitVec 5}
    (hc : checkAddr [0, 1, 2, 3] size size (src (seen s a) a b).toNat (effAddr (src (seen s a) a b) m.off size) = .error c) :
    stOp m r b size s = .next (signalTrap (seen s a) a (ccTrap (seen s a) a c)) := by
  refine issue_trap hr ?_
  simp only [memAddr_error hb hm hc]

theorem stfOp_refused {r : BitVec 5}
    (hc : checkAddr [2, 3] size size (src (seen s a) a b).toNat (effAddr (src (seen s a) a b) m.off size) = .error c) :
    stfOp m r b size s = .next (signalTrap (seen s a) a (ccTrap (seen s a) a c)) := by
  refine issue_trap hr ?_
  simp only [memAddr_error hb hm hc]

theorem ldfOp_refused {d : BitVec 5} {take : Bool}
    (hc : checkAddr [2, 3] size size (src (seen s a) a b).toNat (effAddr (src (seen s a) a b) m.off size) = .error c) :
    ldfOp m d b size take s = .next (signalTrap (seen s a) a (ccTrap (seen s a) a c)) := by
  refine issue_trap hr ?_
  simp only [memAddr_error hb hm hc]

end

/-- Settles O17: the checks in their order, and what each operation does with a refused address. -/
theorem addressChecks : Obligations.AddressChecks := by
  refine ⟨fun spaces align len base ad hs => ?_, fun s a d n x y c hr hx => ?_⟩
  · have := checkAddr_steps (align := align) (len := len) (base := base) (ad := ad) hs
    simp only [bits, pow_zero, Nat.div_one, addrOff, spaceWidth, spaceLimit, show (2 : Nat) ^ 4 = 16 from rfl,
      show (2 : Nat) ^ 6 = 64 from rfl] at this
    exact this
  · intro base traps mem
    have all {mk : BitVec 12 → Instr} {spaces : List Nat} {size : Nat} (op : MemOff → State → Host.Outcome State Fault Refusal)
        (hop : ∀ m, m.fits base size → checkAddr spaces size size base.toNat (effAddr base m.off size) = .error c →
          op m s = .next (signalTrap (seen s a) a (ccTrap (seen s a) a c)))
        (short : ∀ o, exec (mk o) s = op (memPlain o) s) (long : ∀ imm word o, runLong imm word (mk o) s = op (memLong imm word) s) :
        mem mk spaces size := by
      refine InForms.of_op (base := base) (size := size) op short long fun m i hm he => ?_
      intro hc
      exact he.trans (hop m hm hc)
    have ld (size : Nat) (signed : Bool) {mk : BitVec 12 → Instr}
        (short : ∀ o, exec (mk o) s = ldOp (memPlain o) d x size signed s)
        (long : ∀ imm word o, runLong imm word (mk o) s = ldOp (memLong imm word) d x size signed s) : mem mk [0, 1, 2, 3] size :=
      all (fun m => ldOp m d x size signed) (fun m hm hc => ldOp_refused hr hx hm hc) short long
    have st (size : Nat) {mk : BitVec 12 → Instr} (short : ∀ o, exec (mk o) s = stOp (memPlain o) d x size s)
        (long : ∀ imm word o, runLong imm word (mk o) s = stOp (memLong imm word) d x size s) : mem mk [0, 1, 2, 3] size :=
      all (fun m => stOp m d x size) (fun m hm hc => stOp_refused hr hx hm hc) short long
    have stf (size : Nat) {mk : BitVec 12 → Instr} (short : ∀ o, exec (mk o) s = stfOp (memPlain o) d x size s)
        (long : ∀ imm word o, runLong imm word (mk o) s = stfOp (memLong imm word) d x size s) : mem mk [2, 3] size :=
      all (fun m => stfOp m d x size) (fun m hm hc => stfOp_refused hr hx hm hc) short long
    have ldf (size : Nat) (take : Bool) {mk : BitVec 12 → Instr} (short : ∀ o, exec (mk o) s = ldfOp (memPlain o) d x size take s)
        (long : ∀ imm word o, runLong imm word (mk o) s = ldfOp (memLong imm word) d x size take s) : mem mk [2, 3] size :=
      all (fun m => ldfOp m d x size take) (fun m hm hc => ldfOp_refused hr hx hm hc) short long
    have atom {i : Instr} (kind size : Nat) (hc : checkAddr [0, 1, 2, 3] size size base.toNat base.toNat = .error c)
        (he : exec i s = atomOp kind size d n x y s) : traps i :=
      he.trans (issue_trap hr (by simp only [rd_ready hx]; rw [hc]))
    refine ⟨ld 1 true (fun _ => rfl) fun _ _ _ => rfl, ld 1 false (fun _ => rfl) fun _ _ _ => rfl,
      ld 2 true (fun _ => rfl) fun _ _ _ => rfl, ld 2 false (fun _ => rfl) fun _ _ _ => rfl,
      ld 4 true (fun _ => rfl) fun _ _ _ => rfl, ld 4 false (fun _ => rfl) fun _ _ _ => rfl,
      ld 8 false (fun _ => rfl) fun _ _ _ => rfl, st 1 (fun _ => rfl) fun _ _ _ => rfl, st 2 (fun _ => rfl) fun _ _ _ => rfl,
      st 4 (fun _ => rfl) fun _ _ _ => rfl, st 8 (fun _ => rfl) fun _ _ _ => rfl, stf 4 (fun _ => rfl) fun _ _ _ => rfl,
      stf 8 (fun _ => rfl) fun _ _ _ => rfl, ldf 4 false (fun _ => rfl) fun _ _ _ => rfl, ldf 4 true (fun _ => rfl) fun _ _ _ => rfl,
      ldf 8 false (fun _ => rfl) fun _ _ _ => rfl, ldf 8 true (fun _ => rfl) fun _ _ _ => rfl, fun hc => ?_, fun hc => ?_⟩
    · simp only [List.forall_mem_cons, List.not_mem_nil, false_imp_iff, implies_true, and_true]
      exact ⟨atom 2 4 hc rfl, atom 3 4 hc rfl, atom 4 4 hc rfl, atom 5 4 hc rfl, atom 6 4 hc rfl, atom 7 4 hc rfl,
        atom 8 4 hc rfl, atom 9 4 hc rfl, atom 10 4 hc rfl, atom 11 4 hc rfl, atom 12 4 hc rfl, atom 13 4 hc rfl⟩
    · simp only [List.forall_mem_cons, List.not_mem_nil, false_imp_iff, implies_true, and_true]
      exact ⟨atom 2 8 hc rfl, atom 3 8 hc rfl, atom 4 8 hc rfl, atom 5 8 hc rfl, atom 6 8 hc rfl, atom 7 8 hc rfl,
        atom 8 8 hc rfl, atom 9 8 hc rfl, atom 10 8 hc rfl, atom 11 8 hc rfl, atom 12 8 hc rfl⟩

end Sys2Proof.Machine
end

section
/-! Copies of memory (R65, R66) and the statement on answers that arrive. -/

namespace Sys2Proof.Machine

/-! ## Reading a copy -/

/-- What a moved list of regions leaves unlisted at a place of the destination (R419). -/
theorem unlistedIn_moved (src dst len x : Nat) (hx : dst ≤ x ∧ x < dst + len) (l r : List (Nat × Nat × Option (Nat × Nat))) :
    unlistedIn (moveRegions src dst len l ++ (dst, len, none) :: r) x = unlistedIn l (src + (x - dst)) := by
  induction l with
  | nil => simp [moveRegions, unlistedIn, hx]
  | cons h t ih =>
    obtain ⟨lo, n, c⟩ := h
    have hmax := Nat.le_max_left lo src
    have hmax' := Nat.le_max_right lo src
    have hmin := Nat.min_le_left (lo + n) (src + len)
    have hmin' := Nat.min_le_right (lo + n) (src + len)
    simp only [moveRegions, List.filterMap_cons] at ih ⊢
    by_cases hin : lo ≤ src + (x - dst) ∧ src + (x - dst) < lo + n
    · have ha : Nat.max lo src ≤ src + (x - dst) := Nat.max_le.mpr ⟨hin.1, by omega⟩
      have hb : src + (x - dst) < Nat.min (lo + n) (src + len) := Nat.lt_min.mpr ⟨hin.2, by omega⟩
      rw [if_pos (by omega)]
      simp only [List.cons_append, unlistedIn, if_pos hin]
      change lo ≤ Nat.max lo src at hmax
      change src ≤ Nat.max lo src at hmax'
      rw [if_pos (by omega)]
      cases c with
      | none => rfl
      | some p =>
        simp only [Option.map_some]
        congr 1
        omega
    · simp only [unlistedIn, if_neg hin]
      split
      · next h => split at h
                  · cases h
                  · exact ih
      · next h =>
        split at h
        · next hab =>
          obtain rfl := Option.some.inj h
          simp only [List.cons_append, unlistedIn]
          change lo ≤ Nat.max lo src at hmax
          change src ≤ Nat.max lo src at hmax'
          change Nat.min (lo + n) (src + len) ≤ _ at hmin
          rw [if_neg (by omega)]
          exact ih
        · cases h

/-- A copy's regions change nothing outside its destination. -/
theorem unlistedIn_kept (src dst len x : Nat) (hx : ¬(dst ≤ x ∧ x < dst + len)) (l r : List (Nat × Nat × Option (Nat × Nat))) :
    unlistedIn (moveRegions src dst len l ++ (dst, len, none) :: r) x = unlistedIn r x := by
  induction l with
  | nil => simp only [moveRegions, List.filterMap_nil, List.nil_append, unlistedIn, if_neg hx]
  | cons h t ih =>
    obtain ⟨lo, n, c⟩ := h
    simp only [moveRegions, List.filterMap_cons] at ih ⊢
    split
    · next h => split at h
                · cases h
                · exact ih
    · next h =>
      split at h
      · next hab =>
        obtain rfl := Option.some.inj h
        simp only [List.cons_append, unlistedIn]
        have hmax' : src ≤ Nat.max lo src := Nat.le_max_right lo src
        have hmin' : Nat.min (lo + n) (src + len) ≤ src + len := Nat.min_le_right (lo + n) (src + len)
        rw [if_neg (by omega)]
        exact ih
      · cases h

theorem unlisted_copy (m : Memory) (src dst len x : Nat) : (m.copy src dst len).unlisted x =
    if dst ≤ x ∧ x < dst + len then m.unlisted (src + (x - dst)) else m.unlisted x := by
  have h : (m.copy src dst len).unlisted x =
      unlistedIn (if m.frees.isEmpty then [] else moveRegions src dst len m.frees ++ (dst, len, none) :: m.frees) x := rfl
  rw [h]
  unfold Memory.unlisted
  split
  · next he => rw [List.isEmpty_iff.mp he]; split <;> rfl
  · split
    · next hx => exact unlistedIn_moved src dst len x hx _ _
    · next hx => exact unlistedIn_kept src dst len x hx _ _

/-- Reading a rising list of which only some addresses are kept. -/
theorem cellGet_filter_addr (d : Byte) (f : Nat → Bool) {l : List Host.Cell} {lo : Nat} (h : risingFrom lo l = true) (x : Nat) :
    cellGet d (l.filter (fun c => f c.1)) x = if f x then cellGet d l x else d := by
  induction l generalizing lo with
  | nil => simp [cellGet]
  | cons c t ih =>
    obtain ⟨j, v⟩ := c
    have ht := rising_tail h
    simp only [risingFrom, Bool.and_eq_true, decide_eq_true_eq] at h
    obtain ⟨_, ht⟩ := h
    simp only [List.filter_cons]
    by_cases hj : j = x
    · subst hj
      by_cases hf : f j
      · simp [hf, cellGet]
      · simp [hf, ih ht]
    · by_cases hlt : x < j
      · have hb : cellGet d (t.filter (fun c => f c.1)) x = d := cellGet_below d (rising_filter _ ht) (by omega)
        split
        · simp [cellGet, hj, hlt]
        · simp [cellGet, hj, hlt, hb]
      · split
        · simp only [cellGet, hj, hlt, if_false]; exact ih ht
        · simp only [cellGet, hj, hlt, if_false]; exact ih ht

/-- Reading a rising list of which the bytes that read so anyway are dropped. -/
theorem cellGet_keepCells (frees : List (Nat × Nat × Option (Nat × Nat))) {l : List Host.Cell} {lo : Nat}
    (h : risingFrom lo l = true) (x : Nat) :
    cellGet (unlistedIn frees x) (keepCells frees l) x = cellGet (unlistedIn frees x) l x := by
  induction l generalizing lo with
  | nil => rfl
  | cons c t ih =>
    obtain ⟨j, v⟩ := c
    simp only [risingFrom, Bool.and_eq_true, decide_eq_true_eq] at h
    obtain ⟨_, ht⟩ := h
    have hbelow (hx : x < j + 1) : cellGet (unlistedIn frees x) (keepCells frees t) x = unlistedIn frees x :=
      cellGet_below _ (rising_filter _ ht) hx
    rw [keepCells, List.filter_cons] at *
    split
    · by_cases hj : j = x
      · simp [cellGet, hj]
      · by_cases hlt : x < j
        · simp [cellGet, hj, hlt]
        · simp only [cellGet, hj, hlt, if_false]; exact ih ht
    · next hv =>
      have hv : v = unlistedIn frees j := by simpa using hv
      by_cases hj : j = x
      · subst hj
        simp only [cellGet, if_true]
        rw [hv]; exact hbelow (by omega)
      · by_cases hlt : x < j
        · simp only [cellGet, hj, hlt, if_false, if_true]; exact hbelow (by omega)
        · simp only [cellGet, hj, hlt, if_false]; exact ih ht

/-- Reading a list into which a rising list of cells has been put. -/
theorem cellGet_putAll (d : Byte) {cs : List Host.Cell} {lo : Nat} (h : risingFrom lo cs = true) (l : List Host.Cell) (x : Nat) :
    cellGet d (cs.foldl (fun l c => cellPut l c.1 c.2) l) x = cellGet (cellGet d l x) cs x := by
  induction cs generalizing l lo with
  | nil => rfl
  | cons c t ih =>
    obtain ⟨j, v⟩ := c
    simp only [risingFrom, Bool.and_eq_true, decide_eq_true_eq] at h
    obtain ⟨_, ht⟩ := h
    simp only [List.foldl_cons, ih ht]
    by_cases hj : x = j
    · subst hj
      rw [cellGet_put_same, cellGet_below _ ht (by omega)]
      simp [cellGet]
    · rw [cellGet_put_ne _ _ _ hj]
      by_cases hlt : x < j
      · rw [cellGet_below _ ht (by omega)]
        simp [cellGet, Ne.symm hj, hlt]
      · simp [cellGet, Ne.symm hj, hlt]

/-- The cells of [src, src + len), moved to dst. -/
def movedCells (src dst len : Nat) (l : List Host.Cell) : List Host.Cell :=
  (l.filter (fun c => inRegion src len c.1)).map (fun c => (dst + (c.1 - src), c.2))

theorem movedCells_cons (src dst len : Nat) (c : Host.Cell) (t : List Host.Cell) : movedCells src dst len (c :: t) =
    if inRegion src len c.1 then (dst + (c.1 - src), c.2) :: movedCells src dst len t else movedCells src dst len t := by
  unfold movedCells
  rw [List.filter_cons]
  split <;> rfl

theorem inRegion_iff (lo len a : Nat) : inRegion lo len a = true ↔ lo ≤ a ∧ a < lo + len := by
  simp [inRegion]

theorem rising_movedCells (src dst len : Nat) {l : List Host.Cell} {lo : Nat} (h : risingFrom lo l = true) :
    risingFrom (dst + (lo - src)) (movedCells src dst len l) = true := by
  induction l generalizing lo with
  | nil => rfl
  | cons c t ih =>
    obtain ⟨j, v⟩ := c
    simp only [risingFrom, Bool.and_eq_true, decide_eq_true_eq] at h
    obtain ⟨hlo, ht⟩ := h
    rw [movedCells_cons]
    split
    · next hr =>
      have hr := (inRegion_iff _ _ _).mp hr
      simp only [risingFrom, Bool.and_eq_true, decide_eq_true_eq]
      exact ⟨by omega, rising_mono (ih ht) (by omega)⟩
    · exact rising_mono (ih ht) (by omega)

theorem cellGet_movedCells (d : Byte) (src dst len : Nat) {l : List Host.Cell} {lo : Nat} (h : risingFrom lo l = true) (x : Nat) :
    cellGet d (movedCells src dst len l) x = if dst ≤ x ∧ x < dst + len then cellGet d l (src + (x - dst)) else d := by
  induction l generalizing lo with
  | nil => simp [movedCells, cellGet]
  | cons c t ih =>
    obtain ⟨j, v⟩ := c
    have hm := rising_movedCells src dst len (rising_tail h)
    simp only [risingFrom, Bool.and_eq_true, decide_eq_true_eq] at h
    obtain ⟨_, ht⟩ := h
    rw [movedCells_cons]
    split
    · next hr =>
      have hr := (inRegion_iff _ _ _).mp hr
      simp only [cellGet]
      by_cases hx : dst ≤ x ∧ x < dst + len
      · rw [if_pos hx]
        by_cases hj : j = src + (x - dst)
        · rw [if_pos hj, if_pos (by omega)]
        · by_cases hlt : src + (x - dst) < j
          · rw [if_neg (by omega), if_neg hj, if_pos hlt, if_pos (by omega)]
          · rw [if_neg (by omega), if_neg (by omega), if_neg hj, if_neg hlt, ih ht, if_pos hx]
      · rw [if_neg hx, if_neg (by omega), ih ht, if_neg hx]
        split <;> rfl
    · next hr =>
      have hr := (inRegion_iff src len j).not.mp hr
      rw [ih ht]
      split
      · next hx =>
        simp only [cellGet]
        rw [if_neg (by omega)]
        split
        · next hlt => exact cellGet_below d ht (by omega)
        · rfl
      · rfl

/-- A copy's destination reads as its source did, every other byte as before (R65, R66). -/
theorem Memory.read_copy {m : Memory} (h : m.wf = true) (src dst len x : Nat) : (m.copy src dst len).read x =
    if dst ≤ x ∧ x < dst + len then m.read (src + (x - dst)) else m.read x := by
  have hr := Memory.rising_of_wf h
  have hm := rising_movedCells src dst len hr
  have hk := rising_filter (fun c => !inRegion dst len c.1) hr
  have hcells : (m.copy src dst len).read x = cellGet ((m.copy src dst len).unlisted x)
      (keepCells (m.copy src dst len).frees ((movedCells src dst len m.cells).foldl (fun l c => cellPut l c.1 c.2)
        (m.cells.filter (fun c => !inRegion dst len c.1)))) x := rfl
  rw [hcells, Memory.unlisted, cellGet_keepCells _ (rising_putAll _ hk), cellGet_putAll _ hm, cellGet_movedCells _ _ _ _ hr,
    cellGet_filter_addr _ (fun x => !inRegion dst len x) hr]
  have hu := unlisted_copy m src dst len x
  rw [Memory.unlisted] at hu
  rw [hu]
  by_cases hx : dst ≤ x ∧ x < dst + len
  · simp only [hx, and_self, if_true, (inRegion_iff dst len x).mpr hx, Bool.not_true, Bool.false_eq_true, if_false]
    rfl
  · have hn : inRegion dst len x = false := Bool.eq_false_iff.mpr fun e => hx ((inRegion_iff _ _ _).mp e)
    simp only [if_neg hx, hn, Bool.not_false, if_true]
    rfl

/-! ## Passes over tables -/

/-- A pass that keeps the keys reads as its image of the entry, or as the default where none is listed. -/
theorem tabGet_map {α : Type} (d : α) (l : Tab α) (g : Nat × α → Nat × α) (hg : ∀ p, (g p).1 = p.1) (i : Nat) :
    tabGet d (l.map g) i = d ∨ ∃ v, (i, v) ∈ l ∧ tabGet d l i = v ∧ tabGet d (l.map g) i = (g (i, v)).2 := by
  induction l with
  | nil => exact .inl rfl
  | cons p t ih =>
    obtain ⟨j, w⟩ := p
    have hk : (g (j, w)).1 = j := hg _
    rw [List.map_cons]
    rcases hw : g (j, w) with ⟨j', w'⟩
    rw [hw] at hk
    simp only at hk
    subst hk
    simp only [tabGet]
    by_cases hj : j' = i
    · subst hj
      exact .inr ⟨w, by simp, by simp, by simp [hw]⟩
    · by_cases hlt : i < j'
      · simp [hj, hlt]
      · simp only [hj, hlt, if_false]
        rcases ih with h | ⟨v, h1, h2, h3⟩
        · exact .inl h
        · exact .inr ⟨v, .tail _ h1, h2, h3⟩

/-! ## Page copies (R65, R208) -/

/-- A pass over a page path that appends one copy of the same page for each keeps its pages. -/
theorem pages_of_pass {go : List PageCopy × Nat → PageCopy → List PageCopy × Nat}
    (hgo : ∀ r p, ∃ p', (go r p).1 = r.1 ++ [p'] ∧ p'.pte = p.pte) (l : List PageCopy) (r : List PageCopy × Nat) {q : PageCopy}
    (hq : q ∈ (l.foldl go r).1) : q ∈ r.1 ∨ ∃ p ∈ l, q.pte = p.pte := by
  induction l generalizing r with
  | nil => exact .inl hq
  | cons p t ih =>
    obtain ⟨p', h1, h2⟩ := hgo r p
    rcases ih (go r p) hq with h | ⟨p, hp, he⟩
    · rw [h1, List.mem_append, List.mem_singleton] at h
      rcases h with h | rfl
      · exact .inl h
      · exact .inr ⟨p, by simp, h2⟩
    · exact .inr ⟨p, .tail _ hp, he⟩

/-- Letting copies run keeps the pages of every path. -/
theorem runPages_pages {s : State} {c k : Nat} {q : PageCopy} (h : q ∈ (coreAt (runPages s c) k).pages) :
    ∃ p ∈ (coreAt s k).pages, q.pte = p.pte := by
  unfold runPages at h
  by_cases hk : k = c
  · subst hk
    simp only [coreAt_onCore_same] at h
    refine (pages_of_pass (fun r p => ?_) _ _ h).resolve_left (by simp)
    split
    · exact ⟨p, rfl, rfl⟩
    · split
      · exact ⟨p, rfl, rfl⟩
      · split
        · exact ⟨_, rfl, rfl⟩
        · exact ⟨p, rfl, rfl⟩
  · rw [coreAt_onCore_ne _ _ hk] at h
    exact ⟨q, h, rfl⟩

theorem foldl_invariant {α β : Type} {P : β → Prop} {f : β → α → β} (l : List α) {b : β} (hb : P b)
    (hf : ∀ b, P b → ∀ a ∈ l, P (f b a)) : P (l.foldl f b) := by
  induction l generalizing b with
  | nil => exact hb
  | cons a t ih => exact ih (hf b hb a (by simp)) fun b hb x hx => hf b hb x (.tail _ hx)

/-- After the copies of a page are off the page paths, none of it stands there. -/
theorem dropPages_pages (s : State) (pte k : Nat) : ∀ q ∈ (coreAt (dropPages s pte) k).pages, q.pte ≠ pte := by
  revert k
  unfold dropPages
  refine foldl_invariant (P := fun s : State => ∀ k, ∀ q ∈ (coreAt s k).pages, q.pte ≠ pte) _ (fun k q hq => ?_) fun s hs x _ => ?_
  · rcases tabGet_map (Core.reset k) s.cores (fun x => if x.2.pages.any (fun p => p.pte == pte) then
      (x.1, { x.2 with pages := x.2.pages.filter (fun p => p.pte != pte) }) else x) (fun p => by split <;> rfl) k with h | ⟨v, _, _, h⟩
    · change q ∈ (tabGet (Core.reset k) _ k).pages at hq
      rw [h] at hq
      cases hq
    · change q ∈ (tabGet (Core.reset k) _ k).pages at hq
      rw [h] at hq
      split at hq
      · simpa using (List.mem_filter.mp hq).2
      · next hn => exact fun e => hn (List.any_eq_true.mpr ⟨q, hq, by simp [e]⟩)
  · split
    · intro k q hq
      obtain ⟨p, hp, he⟩ := runPages_pages hq
      rw [he]; exact hs k p hp
    · exact hs

theorem dropPages_mem (s : State) (pte : Nat) : (dropPages s pte).mem = s.mem := by
  unfold dropPages
  refine foldl_invariant (P := fun t : State => t.mem = s.mem) _ rfl fun t ht x _ => ?_
  split
  · exact ht
  · exact ht

/-- The leaf entry of a page that a copy has brought in: its frame is the copy's, and it is not far (R65). -/
theorem leaf_brought_in {leaf frame : Nat} (hl : leaf < 2 ^ 64) (hfar : bit leaf 4 = true) (ha : frame % 256 = 0)
    (hf : frame < 2 ^ 44) :
    let new := leaf - place (bits leaf 8 36) 8 36 + place (frame / 256) 8 36 - 2 ^ 4
    new < 2 ^ 64 ∧ pteAddr new = frame ∧ bit new 4 = false := by
  have h4 : leaf / 16 % 2 = 1 := by simpa [bit] using hfar
  simp only [pteAddr, bit, bits, place, beq_eq_false_iff_ne]
  omega

theorem leNat_lt (l : List Byte) : leNat l < 256 ^ l.length := by
  induction l with
  | nil => simp [leNat]
  | cons b t ih =>
    have := b.isLt
    simp only [leNat, List.length_cons, pow_succ]
    omega

theorem readN_length (m : Memory) (a n : Nat) : (m.readN a n).length = n := by
  induction n generalizing a with
  | zero => rfl
  | succ n ih => simp [Memory.readN, ih]

theorem loadNat_lt (s : State) (l n : Nat) : loadNat s l n < 256 ^ n := by
  have h := leNat_lt (loadN s l n)
  unfold loadN at h
  rwa [readN_length] at h

theorem bringIn_mem (s : State) (p : PageCopy) {leaf : Nat} (h : bit leaf 4 = true) : (bringIn s p leaf).mem =
    (s.mem.copy (pteAddr leaf) p.frame (pageSize p.psz)).writeN p.pte
      (leBytes 8 (leaf - place (bits leaf 8 36) 8 36 + place (p.frame / 256) 8 36 - 2 ^ 4)) := by
  unfold bringIn
  rw [dropPages_mem]
  simp only [releasePage, invalidatePage, storeNat, storeN_mem, h, if_true]
  split <;> rfl

/-- A page copy that ends has moved its page (R65). -/
theorem bringIn_done {s : State} {p : PageCopy} {leaf : Nat} (hok : s.memOk) (hl : leaf = loadNat s p.pte 8)
    (hfar : bit leaf 4 = true) (ha : p.frame % 256 = 0) (hf : p.frame < 2 ^ 44)
    (hpte : p.pte + 8 ≤ p.frame ∨ p.frame + pageSize p.psz ≤ p.pte) :
    let t := bringIn s p leaf
    (∀ o, o < pageSize p.psz → t.mem.read (p.frame + o) = s.mem.read (pteAddr leaf + o)) ∧
    pteAddr (loadNat t p.pte 8) = p.frame ∧ bit (loadNat t p.pte 8) 4 = false ∧
    (∀ x, (x < p.frame ∨ p.frame + pageSize p.psz ≤ x) → (x < p.pte ∨ p.pte + 8 ≤ x) → t.mem.read x = s.mem.read x) ∧
    ∀ k, ∀ q, q ∈ (coreAt t k).pages → q.pte ≠ p.pte := by
  intro t
  have hwf := Memory.wf_copy hok (pteAddr leaf) p.frame (pageSize p.psz)
  have hread (x : Nat) : t.mem.read x = _ := (congrArg (·.read x) (bringIn_mem s p hfar)).trans (Memory.read_writeN hwf _ _ x)
  have h64 : leaf < 2 ^ 64 := by rw [hl]; exact loadNat_lt s _ 8
  obtain ⟨hnew, hframe, hnear⟩ := leaf_brought_in h64 hfar ha hf
  have hleaf : loadNat t p.pte 8 = leaf - place (bits leaf 8 36) 8 36 + place (p.frame / 256) 8 36 - 2 ^ 4 := by
    unfold loadNat loadN
    rw [bringIn_mem s p hfar]
    have := Memory.readN_eq (m := (s.mem.copy (pteAddr leaf) p.frame (pageSize p.psz)).writeN p.pte
      (leBytes 8 (leaf - place (bits leaf 8 36) 8 36 + place (p.frame / 256) 8 36 - 2 ^ 4))) (a := p.pte)
      (v := leBytes 8 (leaf - place (bits leaf 8 36) 8 36 + place (p.frame / 256) 8 36 - 2 ^ 4)) fun i hi => by
        rw [Memory.read_writeN hwf, if_pos (by omega), Nat.add_sub_cancel_left]
    rw [leBytes_length] at this
    rw [this, leNat_leBytes]
    exact Nat.mod_eq_of_lt hnew
  refine ⟨fun o ho => ?_, ?_, ?_, fun x hx hp => ?_, fun k q hq => dropPages_pages _ p.pte k q hq⟩
  · rw [hread, leBytes_length, if_neg (by omega), Memory.read_copy hok, if_pos (by omega), Nat.add_sub_cancel_left]
  · rw [hleaf]; exact hframe
  · rw [hleaf]; exact hnear
  · rw [hread, leBytes_length, if_neg (by omega), Memory.read_copy hok, if_neg (by omega)]

/-! ## Page walks (R60, R61) -/

/-- The state with these samples for its monitors. -/
def withSamples (s : State) (l : List (Nat × Nat)) : State := { s with samples := l }

theorem sampleFor_eq (s : State) (src tgt v : Nat) : ∃ l, sampleFor s src tgt v = withSamples s l := by
  unfold sampleFor
  split
  · exact ⟨s.samples, rfl⟩
  · exact ⟨_, rfl⟩

theorem mem_tlbAdd8 (l : List Tlb) (t : Tlb) : t ∈ tlbAdd8 l t := by
  unfold tlbAdd8
  split <;> simp

section
variable {s : State} {d : BitVec 3} {w : Walk} {rest : List Walk} (hp : packageRuns s = true)
  (hw : (dieAt s d.toNat).walks = w :: rest)
include hp hw

/-- The state in which a die's oldest walk has been taken. -/
theorem walk_taken : ∃ u, (∀ r, walk s w.ctx w.va = r → exec (.pageWalkComplete d) s = (match r with
      | .error _ => .next (w.who.foldl (fun s r => failWalk s w.ctx r) u)
      | .ok (e, pa, psz) =>
        .next (onDie u d.toNat (fun k => { k with tlb := tlbAdd8 k.tlb ⟨w.ctx, psz, w.va / pageSize psz, e, pa⟩ })))) ∧
    (dieAt u d.toNat).walks = rest ∧ (∀ k, k ≠ d.toNat → dieAt u k = dieAt s k) ∧
    { u with dies := [], samples := [] } = { s with dies := [], samples := [] } := by
  obtain ⟨l, hu⟩ := sampleFor_eq (onDie s d.toNat (fun k => { k with walks := rest })) 6 d.toNat (s.cycle - w.since)
  refine ⟨withSamples (onDie s d.toNat (fun k => { k with walks := rest })) l, fun r hr => ?_, ?_, fun k hk => ?_, rfl⟩
  · change execPageWalkComplete d s = _
    simp only [execPageWalkComplete, hp, if_true, hw]
    rw [hu, walk_congr (s := s) (t := withSamples (onDie s d.toNat (fun k => { k with walks := rest })) l) rfl rfl rfl, hr]
    all_goals (cases r <;> rfl)
  · change (dieAt (onDie s d.toNat (fun k => { k with walks := rest })) d.toNat).walks = rest
    rw [dieAt_onDie_same]
  · exact dieAt_onDie_ne s (fun k => { k with walks := rest }) hk

end

/-! ## Returning results (R144, R169) -/

theorem takeSb_first {l1 l2 : List Sb} {e : Sb} (he : e.val.isSome = true) (h1 : ∀ x ∈ l1, x.val = none) :
    takeSb (l1 ++ e :: l2) = some (e, l1 ++ l2) := by
  induction l1 with
  | nil => simp [takeSb, he]
  | cons x t ih => simp [takeSb, h1 x (by simp), ih fun y hy => h1 y (.tail _ hy)]

/-- A result reaches its register and no other (R144). -/
theorem landSb_regs {e : Sb} {v : Dword} (he : e.val = some v) (t : Strand) :
    (∀ r, e.dest = .g r → r ≠ 0 → gVal (landSb e t) r = v) ∧ (∀ r, e.dest = .p r → r ≠ 0 → pVal (landSb e t) r = (v != 0)) ∧
    (∀ r, e.dest ≠ .g r → gVal (landSb e t) r = gVal t r) ∧ (∀ r, e.dest ≠ .p r → pVal (landSb e t) r = pVal t r) ∧
    ∀ l, { { landSb e t with sb := l } with sb := [], g := [], p := [] } = { t with sb := [], g := [], p := [] } := by
  unfold landSb
  cases hd : e.dest with
  | none => simp
  | g n =>
    simp only [he]
    refine ⟨fun r hr h0 => ?_, by simp, fun r hr => ?_, by simp [pVal], by simp⟩
    · cases hr; simp [gVal, h0]
    · have hne : r ≠ n := fun h => hr (by rw [h])
      simp [gVal, tabGet_put_ne _ _ _ hne]
  | p n =>
    simp only [he]
    refine ⟨by simp, fun r hr h0 => ?_, fun _ _ => by rw [putP_rest]; rfl, fun r hr => ?_, fun _ => by rw [putP_rest]⟩
    · cases hr; exact pVal_putP_same _ _ h0
    · exact pVal_putP_ne _ _ fun h => hr (by rw [h])

/-! ## A pool unit's cycle (R101) -/

theorem applyOps_empty {s : State} {n : Nat} (h : (unitAt s n).inbox = []) (lim : Nat) :
    applyOps lim s n = onUnit s n (fun u => { u with inbox := [] }) := by
  simp only [applyOps, h, List.filter_nil]
  rfl

/-- Emptying an empty inbox changes nothing of a unit. -/
theorem unitAt_emptied {s : State} {n : Nat} (h : (unitAt s n).inbox = []) (m : Nat) :
    unitAt (onUnit s n (fun u => { u with inbox := [] })) m = unitAt s m := by
  by_cases hm : m = n
  · subst hm; rw [unitAt_onUnit_same, ← h]
  · exact unitAt_onUnit_ne _ _ hm

theorem unitCycle_idle {s : State} {n : Nat} (hw : (unitAt s n).waits = []) (hi : (unitAt s n).inbox = []) :
    { unitCycle s n with units := [] } = { s with units := [] } ∧ ∀ m, unitAt (unitCycle s n) m = unitAt s m := by
  have step {t : State} (h : (unitAt t n).inbox = []) (m : Nat) := unitAt_emptied h m
  have e0 := applyOps_empty hi 0
  have i0 : (unitAt (applyOps 0 s n) n).inbox = [] := by rw [e0, step hi]; exact hi
  have e2 := applyOps_empty i0 2
  have i2 : (unitAt (applyOps 2 (applyOps 0 s n) n) n).inbox = [] := by rw [e2, step i0]; exact i0
  have e5 := applyOps_empty i2 5
  have hu (m : Nat) : unitAt (applyInbox s n) m = unitAt s m := by
    rw [applyInbox, e5, step i2, e2, step i0, e0, step hi]
  have hs : unitCycle s n = applyInbox s n := by
    simp only [unitCycle, serveWaits, hu, hw]
    rfl
  refine ⟨?_, fun m => by rw [hs]; exact hu m⟩
  rw [hs, applyInbox, e5, e2, e0]
  rfl

/-- Settles O18: translation fills TLBs, and each answer's step is its unit's. -/
theorem answersArrive : Obligations.AnswersArrive := by
  refine ⟨fun s u c ctx va wr fetch x h => ?_, fun s d w rest hp hw => ⟨fun e he => ?_, fun leaf pa psz hk => ?_⟩,
    fun s c i bad p hi hrun => ?_, fun s n hp => ?_, fun s c i p hok hi hrun => ?_, fun s n hp hh hw hi => ?_,
    fun s a l1 l2 e v hl hv h1 => ?_⟩
  · have hf := translate_filled h
    exact ⟨by have := hf.outside; rw [← this], hf.cores, hf.others, hf.dies, hf.otherDies⟩
  · obtain ⟨u, hex, hu⟩ := walk_taken hp hw
    exact ⟨u, hex _ he, hu⟩
  · obtain ⟨u, hex, hrest, hdies, hout⟩ := walk_taken hp hw
    refine ⟨_, hex _ hk, ?_, ?_, fun k hne => ?_, hout⟩
    · rw [dieAt_onDie_same]; exact hrest
    · rw [dieAt_onDie_same]; exact mem_tlbAdd8 _ _
    · rw [dieAt_onDie_ne _ _ hne]; exact hdies k hne
  · intro leaf far up gives
    have he : exec (.pageCopyComplete c i bad) s = execPageCopyComplete c i bad s := rfl
    simp only [gives, he, execPageCopyComplete, hi, hrun, Bool.not_true, Bool.false_eq_true, if_false]
    refine ⟨fun hf => ?_, fun hf hb => ?_, fun hf hu hb => ?_, fun hf hu hb hq => ?_⟩
    · rw [if_pos (by simpa [far] using hf)]
    all_goals rw [if_neg (by simpa [far] using hf)]
    · rw [if_pos (by simpa [up] using hb)]
    all_goals rw [if_neg]
    · rw [if_pos]
      rcases hb with rfl | rfl | ⟨-, hb⟩
      · exact .inl (by decide)
      · exact .inl (by decide)
      · exact .inr (Option.isSome_iff_ne_none.mpr hb)
    · have hne : bad ≠ 2 := by rcases hb with rfl | rfl | ⟨rfl, -⟩ <;> decide
      have hu : portUp s (pteAddr (loadNat s p.pte 8)) = true := hu
      rw [not_or]
      exact ⟨by simpa using hne, by simp [hu]⟩
    · have hq : poisoned s (pteAddr (loadNat s p.pte 8)) (pageSize p.psz) = none := hq
      rw [if_neg (by simp [hb, hq])]
    · subst hb
      simpa [up] using hu
  · change execPoolUnitCycle n s = _
    simp only [execPoolUnitCycle, hp, Bool.not_true, Bool.false_eq_true, if_false]
  · intro leaf size far hf hu hq ha hlt _ hpte
    refine ⟨bringIn s p leaf, ?_, bringIn_done hok rfl hf ha hlt hpte⟩
    change execPageCopyComplete c i 0 s = _
    have hf' : bit (loadNat s p.pte 8) 4 = true := hf
    have hu' : portUp s (pteAddr (loadNat s p.pte 8)) = true := hu
    have hq' : poisoned s (pteAddr (loadNat s p.pte 8)) (pageSize p.psz) = none := hq
    simp [execPageCopyComplete, hi, hrun, hf', hu', hq', leaf]
  · refine ⟨unitCycle s n, ?_, unitCycle_idle hw hi⟩
    change execPoolUnitCycle n s = _
    simp only [execPoolUnitCycle, hp, Bool.not_true, Bool.false_eq_true, if_false, hh, List.foldl_nil]
  · obtain ⟨hg, hpr, hgo, hpo, hrest⟩ := landSb_regs hv (strandAt s a)
    have ht := takeSb_first (l2 := l2) (e := e) (by rw [hv]; rfl) h1
    refine ⟨onStrand s a (fun t => { landSb e t with sb := l1 ++ l2 }), ?_, .strand _ _ _, ?_⟩
    · change execScoreboardReturn a.c a.x s = _
      simp only [execScoreboardReturn, hl, ht]
    · rw [strandAt_onStrand_same]
      exact ⟨rfl, hg, hpr, hgo, hpo, hrest _⟩

end Sys2Proof.Machine
end

section
/-! The landing of exposed writes (R144), reset, and the written-out words. -/

namespace Sys2Proof.Machine

/-! ## The stable sort of the model -/

theorem insertBy_eq {α : Type} (lt : α → α → Bool) (a : α) (l : List α) :
    insertBy lt a l = l.orderedInsert (fun x y => lt x y = true) a := by
  induction l with
  | nil => rfl
  | cons b t ih => simp only [insertBy, List.orderedInsert_cons, ih]

theorem insertBy_perm {α : Type} (lt : α → α → Bool) (a : α) (l : List α) : (insertBy lt a l).Perm (a :: l) := by
  rw [insertBy_eq]
  exact List.perm_orderedInsert _ a l

theorem sortBy_append {α : Type} (lt : α → α → Bool) (l : List α) (a : α) :
    sortBy lt (l ++ [a]) = insertBy lt a (sortBy lt l) := by
  simp [sortBy]

theorem sortBy_perm {α : Type} (lt : α → α → Bool) (l : List α) : (sortBy lt l).Perm l := by
  induction l using List.reverseRecOn with
  | nil => exact .nil
  | append_singleton l a ih =>
    rw [sortBy_append]
    exact (insertBy_perm lt a _).trans ((ih.cons a).trans (List.perm_append_singleton a l).symm)

/-! ## The order in which exposed writes land -/

/-- Is the write due before the other? -/
def dueBefore (u v : PendWrite) : Bool := decide (u.due < v.due)

theorem insertBy_due_sorted (w : PendWrite) {l : List PendWrite} (h : l.Pairwise (fun u v => u.due ≤ v.due)) :
    (insertBy dueBefore w l).Pairwise (fun u v => u.due ≤ v.due) := by
  induction l with
  | nil => simp [insertBy]
  | cons b t ih =>
    obtain ⟨hb, ht⟩ := List.pairwise_cons.mp h
    simp only [insertBy, dueBefore, decide_eq_true_eq]
    split
    · next hlt =>
      refine List.pairwise_cons.mpr ⟨fun x hx => ?_, h⟩
      rcases List.mem_cons.mp hx with rfl | hx
      · exact Nat.le_of_lt hlt
      · have := hb x hx; omega
    · next hge =>
      refine List.pairwise_cons.mpr ⟨fun x hx => ?_, ih ht⟩
      rcases List.mem_cons.mp ((insertBy_perm _ w t).mem_iff.mp hx) with rfl | hx
      · omega
      · exact hb x hx

theorem sortBy_due_sorted (l : List PendWrite) : (sortBy dueBefore l).Pairwise (fun u v => u.due ≤ v.due) := by
  induction l using List.reverseRecOn with
  | nil => exact .nil
  | append_singleton l a ih => rw [sortBy_append]; exact insertBy_due_sorted a ih

/-- A write is the last of its register in a list. -/
def LastOf (w : PendWrite) (l : List PendWrite) : Prop := ∃ l1 l2, l = l1 ++ w :: l2 ∧ ∀ x, x ∈ l2 → x.reg ≠ w.reg

theorem LastOf.cons {w : PendWrite} {l : List PendWrite} (h : LastOf w l) (x : PendWrite) : LastOf w (x :: l) := by
  obtain ⟨l1, l2, rfl, h2⟩ := h
  exact ⟨x :: l1, l2, rfl, h2⟩

/-- A write put among writes that are not due after it is the last of its register. -/
theorem lastOf_insertBy_self {w : PendWrite} {l : List PendWrite} (hs : l.Pairwise (fun u v => u.due ≤ v.due))
    (h : ∀ x, x ∈ l → x.reg = w.reg → x.due ≤ w.due) : LastOf w (insertBy dueBefore w l) := by
  induction l with
  | nil => exact ⟨[], [], rfl, by simp⟩
  | cons b t ih =>
    obtain ⟨hb, ht⟩ := List.pairwise_cons.mp hs
    simp only [insertBy, dueBefore, decide_eq_true_eq]
    split
    · next hlt =>
      refine ⟨[], b :: t, rfl, fun x hx hr => ?_⟩
      have hle := h x hx hr
      rcases List.mem_cons.mp hx with rfl | hx
      · omega
      · have := hb x hx; omega
    · exact (ih ht fun x hx => h x (.tail _ hx)).cons b

/-- A write of the register due earlier does not displace it. -/
theorem LastOf.insertBy {w x : PendWrite} {l : List PendWrite} (hw : LastOf w l) (h : x.reg = w.reg → x.due < w.due) :
    LastOf w (insertBy dueBefore x l) := by
  obtain ⟨l1, l2, rfl, h2⟩ := hw
  induction l1 with
  | nil =>
    simp only [List.nil_append, Machine.insertBy, dueBefore, decide_eq_true_eq]
    split
    · exact ⟨[x], l2, rfl, h2⟩
    · next hge =>
      refine ⟨[], _, rfl, fun y hy => ?_⟩
      rcases List.mem_cons.mp ((insertBy_perm _ x l2).mem_iff.mp hy) with rfl | hy
      · exact fun e => hge (h e)
      · exact h2 y hy
  | cons b t ih =>
    simp only [List.cons_append, Machine.insertBy, dueBefore, decide_eq_true_eq]
    split
    · exact ⟨x :: b :: t, l2, rfl, h2⟩
    · exact ih.cons b

/-- Of the writes of a register the one due last, of equals the last issued, comes last. -/
theorem lastOf_sortBy {w : PendWrite} {l1 : List PendWrite} (l2 : List PendWrite) (h1 : ∀ x, x ∈ l1 → x.reg = w.reg → x.due ≤ w.due)
    (h2 : ∀ x, x ∈ l2 → x.reg = w.reg → x.due < w.due) : LastOf w (sortBy dueBefore (l1 ++ w :: l2)) := by
  induction l2 using List.reverseRecOn with
  | nil =>
    rw [sortBy_append]
    exact lastOf_insertBy_self (sortBy_due_sorted l1) fun x hx => h1 x ((sortBy_perm _ l1).mem_iff.mp hx)
  | append_singleton l x ih =>
    have e : l1 ++ w :: (l ++ [x]) = (l1 ++ w :: l) ++ [x] := by simp
    rw [e, sortBy_append]
    exact (ih fun y hy => h2 y (List.mem_append_left _ hy)).insertBy (h2 x (by simp))

/-- The g registers after writes in the order of a list. -/
def landRegs (g : Tab Dword) (ws : List PendWrite) : Tab Dword := ws.foldl (fun g w => tabPut g w.reg w.val) g

theorem landRegs_other (g : Tab Dword) {ws : List PendWrite} {r : Nat} (h : ∀ w, w ∈ ws → w.reg ≠ r) :
    tabGet 0 (landRegs g ws) r = tabGet 0 g r := by
  induction ws generalizing g with
  | nil => rfl
  | cons w t ih =>
    exact (ih (tabPut g w.reg w.val) fun x hx => h x (.tail _ hx)).trans (tabGet_put_ne _ _ _ (Ne.symm (h w (.head _))))

theorem landRegs_last (g : Tab Dword) {ws : List PendWrite} {w : PendWrite} (h : LastOf w ws) :
    tabGet 0 (landRegs g ws) w.reg = w.val := by
  obtain ⟨l1, l2, rfl, h2⟩ := h
  have e : landRegs g (l1 ++ w :: l2) = landRegs (tabPut (landRegs g l1) w.reg w.val) l2 := by simp [landRegs]
  rw [e, landRegs_other _ h2, tabGet_put_same]

/-- What lands at a strand's slot: the writes due, in their order. -/
def landing (t : Strand) : List PendWrite := sortBy dueBefore (t.pend.filter (fun w => decide (w.due ≤ t.slot)))

theorem mem_landing {t : Strand} {w : PendWrite} : w ∈ landing t ↔ w ∈ t.pend ∧ w.due ≤ t.slot := by
  rw [landing, (sortBy_perm _ _).mem_iff, List.mem_filter, decide_eq_true_eq]

theorem landSlot_eq (t : Strand) : landSlot t = { t with
    g := landRegs t.g (landing t)
    pend := t.pend.filter (fun w => !decide (w.due ≤ t.slot))
    sb := t.sb.map (fun e => if (landing t).any (fun w => e.dest == .g w.reg) then { e with dest := .none } else e) } := by
  by_cases h : t.pend = []
  · have hl : landing t = [] := by simp [landing, h, sortBy]
    have hs : landSlot t = t := by simp [landSlot, h]
    have hp : t.pend.filter (fun w => !decide (w.due ≤ t.slot)) = t.pend := by simp [h]
    rw [hs, hl, hp]
    simp [landRegs]
  · have hs : landSlot t = landDue (some t.slot) t := by simp [landSlot, h]
    rw [hs]
    rfl

/-- Settles O49: the writes due land in the order of their slots due, and the last of a register stays. -/
theorem landingOfExposedWrites : Obligations.LandingOfExposedWrites := by
  intro t u
  have hu : u = _ := landSlot_eq t
  refine ⟨fun r h => ?_, fun l1 w l2 hl hdue h0 h1 h2 => ?_, ?_, fun e he r hd w hw hr => ?_, ?_, ?_⟩
  · rw [hu]
    unfold gVal
    split
    · rfl
    · exact landRegs_other _ fun w hw hr => by
        obtain ⟨hw, hle⟩ := mem_landing.mp hw
        exact absurd (h w hw hr) (by omega)
  · rw [hu, gVal, if_neg h0]
    refine landRegs_last _ ?_
    rw [landing, hl, List.filter_append, List.filter_cons_of_pos (by simpa using hdue)]
    refine lastOf_sortBy _ (fun x hx hr => ?_) fun x hx hr => ?_
    · obtain ⟨hx, hle⟩ := List.mem_filter.mp hx
      exact h1 x hx hr (by simpa using hle)
    · obtain ⟨hx, hle⟩ := List.mem_filter.mp hx
      exact h2 x hx hr (by simpa using hle)
  · rw [hu]
    exact List.filter_congr fun w _ => by rw [← decide_not]; exact decide_eq_decide.mpr Nat.not_le
  · rw [hu] at he
    obtain ⟨e', _, rfl⟩ := List.mem_map.mp he
    by_contra hle
    have hin : w ∈ landing t := mem_landing.mpr ⟨hw, by omega⟩
    split at hd
    · cases hd
    · next hn => exact hn (List.any_eq_true.mpr ⟨w, hin, by simp [hd, hr]⟩)
  · rw [hu, List.map_map]
    refine List.map_congr_left fun e _ => ?_
    simp only [Function.comp]
    split <;> rfl
  · rw [hu]

/-! ## Reset and the written-out words -/

/-- Reset memory reads as 0 everywhere. -/
theorem read_reset (x : Nat) : State.reset.mem.read x = 0 := rfl

/-- Settles O43: nothing is listed after reset, so that every part reads as its reset value. -/
theorem resetState : Obligations.ResetState := by
  refine ⟨fun _ _ => ⟨rfl, rfl⟩, fun _ => ⟨rfl, rfl, rfl, rfl, rfl, rfl, rfl, rfl, rfl, rfl, rfl, rfl, rfl, fun _ => rfl,
    fun o _ => read_reset _, fun _ => rfl⟩, fun _ => ⟨rfl, rfl, rfl, fun _ => ⟨rfl, rfl⟩⟩, rfl, rfl, rfl, rfl, rfl, rfl, rfl, rfl, rfl, rfl,
    rfl, rfl, rfl, rfl, rfl, rfl, rfl, rfl, rfl, rfl, rfl, rfl, fun _ => ⟨rfl, rfl, rfl, rfl⟩,
    fun _ => ⟨rfl, rfl, rfl, rfl, rfl, rfl, rfl, rfl, rfl, rfl, rfl, rfl, rfl, rfl, rfl, rfl, rfl, rfl, rfl⟩,
    fun _ => ⟨rfl, rfl, rfl, rfl, rfl, rfl⟩⟩

/-- Settles O44: nothing is listed after reset. -/
theorem resetMemoryCanonical : Obligations.ResetMemoryCanonical := by
  unfold Obligations.ResetMemoryCanonical
  rfl

theorem decodeWord_reservedMajor : decodeWord 0xD4000000 = .error .reservedMajor := by decide +kernel

/-- Settles O47: each word is decoded as it stands. -/
theorem writtenWordsDecode : Obligations.WrittenWordsDecode := by
  refine ⟨by decide +kernel, by decide +kernel, by decide +kernel, by decide +kernel, by decide +kernel, by decide +kernel,
    by decide +kernel, by decide +kernel, by decide +kernel, by decide +kernel, by decide +kernel, by decide +kernel,
    by decide +kernel, by decide +kernel, by decide +kernel, by decide +kernel, by decide +kernel, by decide +kernel,
    by decide +kernel, by decide +kernel, fun e he => ?_, fun i hi => ?_, ?_⟩
  · obtain rfl := Except.error.inj (decodeWord_reservedMajor.symm.trans he)
    rfl
  · cases decodeWord_reservedMajor.symm.trans hi
  · simp only [List.forall_mem_cons, List.not_mem_nil, false_implies, implies_true, and_true]
    exact ⟨⟨.reservedValue 14, by decide +kernel, rfl, rfl⟩, ⟨.reservedMode 7, by decide +kernel, rfl, rfl⟩,
      ⟨.reservedSelector 40, by decide +kernel, rfl, rfl⟩, ⟨.reservedToken 2, by decide +kernel, rfl, rfl⟩,
      ⟨.mustBeZero 20, by decide +kernel, rfl, rfl⟩⟩

end Sys2Proof.Machine
end

section
/-! What one step of the machine is (log 4). -/

namespace Sys2Proof.Machine

/-! ## The fetch -/

/-- The word that four bytes of memory spell. -/
def wordOf (b : List Byte) : Word := BitVec.ofNat 32 (leNat b)

theorem wordOfBytes_eq (b0 b1 b2 b3 : Byte) : wordOfBytes b0 b1 b2 b3 = wordOf [b0, b1, b2, b3] := by
  apply BitVec.eq_of_toNat_eq
  have h0 := b0.isLt
  have h1 := b1.isLt
  have h2 := b2.isLt
  have h3 := b3.isLt
  simp only [wordOfBytes, wordOf, BitVec.toNat_append, BitVec.toNat_ofNat, leNat]
  rw [← Nat.shiftLeft_add_eq_or_of_lt h2, ← Nat.shiftLeft_add_eq_or_of_lt h1, ← Nat.shiftLeft_add_eq_or_of_lt h0]
  simp only [Nat.shiftLeft_eq]
  omega

theorem wordOf_leBytes (w : Word) : wordOf (leBytes 4 w.toNat) = w := by
  apply BitVec.eq_of_toNat_eq
  have := w.isLt
  simp only [wordOf, leNat_leBytes, BitVec.toNat_ofNat]
  omega

theorem four_bytes {b : List Byte} (h : b.length = 4) : ∃ b0 b1 b2 b3, b = [b0, b1, b2, b3] := by
  match b, h with
  | [b0, b1, b2, b3], _ => exact ⟨b0, b1, b2, b3, rfl⟩

/-- Bytes that decode as a whole word hold a word that opens no long-immediate group. -/
theorem decode_word {b : List Byte} (hb : b.length = 4) {i : Instr} (h : decode b = .ok (i, [])) :
    isPrefix (wordOf b) = false ∧ decodeWord (wordOf b) = .ok i := by
  obtain ⟨b0, b1, b2, b3, rfl⟩ := four_bytes hb
  simp only [decode, wordOfBytes_eq] at h
  split at h
  · cases h
  · next hp =>
    refine ⟨by simpa [isPrefix] using hp, ?_⟩
    split at h
    · next hd => cases h; exact hd
    · cases h

/-- A first word whose last byte is 252 or more opens a long-immediate group. -/
theorem isPrefix_of_byte {b : List Byte} (hb : b.length = 4) (h : b.getD 3 0 / 4 = 63) : (wordOf b).extractLsb' 26 6 = 63 := by
  obtain ⟨b0, b1, b2, b3, rfl⟩ := four_bytes hb
  have h : b3 / 4 = 63 := by simpa using h
  have h : b3.toNat / 4 = 63 := congrArg BitVec.toNat h
  have h0 := b0.isLt
  have h1 := b1.isLt
  have h2 := b2.isLt
  have h3 := b3.isLt
  have h63 : (63 : BitVec 6).toNat = 63 := rfl
  apply BitVec.eq_of_toNat_eq
  simp only [BitVec.toNat_ofNat, BitVec.extractLsb'_toNat, wordOf, leNat, Nat.shiftRight_eq_div_pow, h63]
  omega

theorem decode_group {b b1 b2 : List Byte} (hb : b.length = 4) (h1 : b1.length = 4) (h2 : b2.length = 4)
    (hp : (wordOf b).extractLsb' 26 6 = 63) {i : Instr} (h : decode (b ++ b1 ++ b2) = .ok (i, [])) :
    decodeGroup (wordOf b) (wordOf b1) (wordOf b2) = .ok i := by
  obtain ⟨a0, a1, a2, a3, rfl⟩ := four_bytes hb
  obtain ⟨c0, c1, c2, c3, rfl⟩ := four_bytes h1
  obtain ⟨d0, d1, d2, d3, rfl⟩ := four_bytes h2
  simp only [List.cons_append, List.nil_append, decode, wordOfBytes_eq] at h
  rw [if_pos hp] at h
  split at h
  · next hd => cases h; exact hd
  · cases h

/-- A word of memory that a fetch reaches (R60, R138). -/
theorem fetchWord_near {s u : State} {a : At} {va loc : Nat} (hm : ccMiss s a va = false)
    (ht : translate s a.c (ctxOf s a) va false true = .ok (u, .ok loc)) (hp : poisoned u loc 4 = none) :
    fetchWord s a va = .ok (u, wordOf (loadN u loc 4)) := by
  simp only [fetchWord, hm, Bool.false_eq_true, if_false, ht, hp]
  rfl

theorem isPrefix_iff (w : Word) : isPrefix w = true ↔ w.extractLsb' 26 6 = 63 := by
  simp [isPrefix]

section
variable {s u u1 u2 : State} {a : At} {w w1 w2 : Word}

theorem fetch_word (h : fetchWord s a (strandAt s a).pc.toNat = .ok (u, w)) (hp : isPrefix w = false) :
    fetch s a = .ok (u, named (decodeWord w) w w) := by
  simp only [fetch, h, hp, Bool.not_false, if_true]

theorem fetch_group (h : fetchWord s a (strandAt s a).pc.toNat = .ok (u, w)) (hp : isPrefix w = true)
    (h1 : fetchWord u a (((strandAt s a).pc.toNat + 4) % 2 ^ 52) = .ok (u1, w1))
    (h2 : fetchWord u1 a (((strandAt s a).pc.toNat + 8) % 2 ^ 52) = .ok (u2, w2)) :
    fetch s a = .ok (u2, named (decodeGroup w w1 w2) w w2) := by
  simp only [fetch, h, hp, Bool.not_true, Bool.false_eq_true, if_false, h1, h2]

end

/-! ## The slot of a strand -/

section
variable {s : State} {a : At} (hb : (strandAt s a).bubble = 0) (hi : slotIdle s a = false) (hr : (strandAt s a).retPc = none)
include hb hi hr

theorem strandSlot_instr {u : State} {i : Instr} (h : fetch s a = .ok (u, .ok i)) :
    strandSlot s a = slotEnds (strandAt s a).wait a (exec i u) := by
  simp only [strandSlot, hb, hi, hr, h, Option.isSome_none, ne_eq, not_true_eq_false, Bool.false_eq_true, if_false]
  cases exec i u <;> rfl

theorem strandSlot_undecoded {u : State} {e : DecErr} {w : Word} (h : fetch s a = .ok (u, .error (e, w))) :
    strandSlot s a = .next (endSlot (strandAt s a).wait a (signalTrap u a (ccTrap u a ⟨e.code, w.toNat, e.arg, 0⟩))) := by
  simp only [strandSlot, hb, hi, hr, h, Option.isSome_none, ne_eq, not_true_eq_false, Bool.false_eq_true, if_false]

theorem strandSlot_wait {u : State} {k : WaitKind} {waiting : Bool} {arg : Nat} (h : fetch s a = .error (.wait u k waiting arg)) :
    strandSlot s a = .next (endSlot (strandAt s a).wait a (holdWait u a k waiting arg)) := by
  simp only [strandSlot, hb, hi, hr, h, Option.isSome_none, ne_eq, not_true_eq_false, Bool.false_eq_true, if_false]

end

theorem step_slot {s : State} {a : At} (hp : s.phase = 1) (hr : runner s = some a) (hu : unitFirst s (slotRank s s.focus) = none) :
    step s = strandSlot s a := by
  simp only [step, hp, ccSlot, hr, hu]

theorem step_opening {s : State} (hp : s.phase = 0) : step s = openStep s := by
  simp only [step, hp]

theorem step_open {s : State} (hp : s.phase = 0) (h : ∀ x rest, s.inputs = x :: rest → takeInput { s with inputs := rest } x = none) :
    step s = agendaStep s := by
  rw [step_opening hp, openStep]
  split
  · next x rest hx =>
    have hn := h x rest hx
    simp only [hn]
  · rfl

theorem step_close {s : State} (hp : 2 ≤ s.phase) : step s = closeStep s := by
  unfold step
  split
  · omega
  · omega
  · rfl

/-- What a strand waits for that waited for nothing before it missed the TLBs. -/
theorem fetch_miss {s : State} {a : At} (hm : ccMiss s a (strandAt s a).pc.toNat = true) (hw : (strandAt s a).wait = none) :
    fetch s a = .error (.wait (joinMiss s a.c (ctxOf s a) (strandAt s a).pc.toNat (8 * a.c + 4 + a.x)) .other false 0) := by
  have hk : (strandAt (joinMiss s a.c (ctxOf s a) (strandAt s a).pc.toNat (8 * a.c + 4 + a.x)) a).wait = none := hw
  simp only [fetch, fetchWord, hm, if_true, awaitWalk, goOnWaiting, hk]

/-- Settles O48: the parts of a step, each by its phase. -/
theorem stepRunsDecoded : Obligations.StepRunsDecoded := by
  refine ⟨fun s t x rest hp hx ht => ?_, fun s hp hn => ⟨fun i rest hag => ⟨fun t ht => ?_, fun hne => ?_⟩, fun hag t ht => ?_,
    fun hag ht => ?_⟩, fun s hp hr => ?_, fun s a hp hr => ⟨fun t ht => ?_, fun hu hb hi hret => ?_⟩, fun s hp => ?_⟩
  · rw [step_opening hp]
    simp only [openStep, hx, ht]
  · rw [step_open hp hn]
    simp only [agendaStep, hag, ht]
  · have h : step s = eventStep { s with agenda := rest } i := by
      rw [step_open hp hn]
      simp only [agendaStep, hag, hne]
    rw [h]
    refine ⟨fun he => ?_, fun he hh => ?_, fun he hh => ?_⟩
    · simp only [eventStep, he, Bool.not_false, if_true]
    · simp only [eventStep, he, hh, Bool.not_true, Bool.false_eq_true, if_false, if_true]
    · simp only [eventStep, he, hh, Bool.not_true, Bool.false_eq_true, if_false]
  · rw [step_open hp hn]
    simp only [agendaStep, hag, ht]
  · rw [step_open hp hn]
    simp only [agendaStep, hag, ht]
  · simp only [step, hp, ccSlot, hr]
  · simp only [step, hp, ccSlot, hr, ht]
  · rw [step_slot hp hr hu]
    have len {u : State} {loc : Nat} {b : List Byte} (h : loadN u loc 4 = b) : b.length = 4 := h ▸ readN_length _ _ 4
    have hpc : (strandAt s a).pc.toNat % 2 ^ 52 = (strandAt s a).pc.toNat := Nat.mod_eq_of_lt (strandAt s a).pc.isLt
    refine ⟨fun hm hw => ?_, fun u b i hat hd => ?_, fun u b u1 b1 u2 b2 i hat hat1 hat2 h63 hd => ?_, fun u w e hat hd hp => ?_,
      fun u u1 u2 w w1 w2 e hat hat1 hat2 hp hd => ?_⟩
    · rw [strandSlot_wait hb hi hret (fetch_miss hm hw), hw]
    · obtain ⟨loc, hm, ht, hpo, hl⟩ := hat
      rw [Nat.add_zero, hpc] at hm ht
      have hf := fetchWord_near hm ht hpo
      rw [hl] at hf
      obtain ⟨hnp, hdw⟩ := decode_word (len hl) hd
      exact strandSlot_instr hb hi hret (by rw [fetch_word hf hnp, hdw]; rfl)
    · obtain ⟨loc, hm, ht, hpo, hl⟩ := hat
      obtain ⟨loc1, hm1, ht1, hpo1, hl1⟩ := hat1
      obtain ⟨loc2, hm2, ht2, hpo2, hl2⟩ := hat2
      rw [Nat.add_zero, hpc] at hm ht
      have hf := fetchWord_near hm ht hpo
      have hf1 := fetchWord_near hm1 ht1 hpo1
      have hf2 := fetchWord_near hm2 ht2 hpo2
      rw [hl] at hf
      rw [hl1] at hf1
      rw [hl2] at hf2
      have hpx := isPrefix_of_byte (len hl) h63
      have hg := decode_group (len hl) (len hl1) (len hl2) hpx hd
      exact strandSlot_instr hb hi hret (by rw [fetch_group hf ((isPrefix_iff _).mpr hpx) hf1 hf2, hg]; rfl)
    · obtain ⟨loc, hm, ht, hpo, hl⟩ := hat
      rw [Nat.add_zero, hpc] at hm ht
      have hf := fetchWord_near hm ht hpo
      rw [hl, wordOf_leBytes] at hf
      have hnp : isPrefix w = false := Bool.eq_false_iff.mpr fun h => hp ((isPrefix_iff w).mp h)
      refine strandSlot_undecoded hb hi hret ?_
      rw [fetch_word hf hnp, hd]
      cases e <;> rfl
    · obtain ⟨loc, hm, ht, hpo, hl⟩ := hat
      obtain ⟨loc1, hm1, ht1, hpo1, hl1⟩ := hat1
      obtain ⟨loc2, hm2, ht2, hpo2, hl2⟩ := hat2
      rw [Nat.add_zero, hpc] at hm ht
      have hf := fetchWord_near hm ht hpo
      have hf1 := fetchWord_near hm1 ht1 hpo1
      have hf2 := fetchWord_near hm2 ht2 hpo2
      rw [hl, wordOf_leBytes] at hf
      rw [hl1, wordOf_leBytes] at hf1
      rw [hl2, wordOf_leBytes] at hf2
      refine strandSlot_undecoded hb hi hret ?_
      rw [fetch_group hf ((isPrefix_iff w).mpr hp) hf1 hf2, hd]
      cases e <;> rfl
  · rw [step_close hp]
    refine ⟨fun t ht => ?_, fun t hn ht => ?_, fun hn ht => ?_⟩
    · simp only [closeStep, ht, Option.orElse_some]
    · simp only [closeStep, hn, ht, Option.orElse_none]
    · simp only [closeStep, hn, ht, Option.orElse_none]

end Sys2Proof.Machine
end

section
/-! Loops, SCHED, fences and phases, system registers (R182 to R192). -/

namespace Sys2Proof.Machine

/-! ## Loops (R182, R183) -/

/-- What arming a loop does, once its count is at hand (R183, R408). -/
theorem armLoop_runs {i : Instr} {s : State} {a : At} {len words count word : Nat} {body : At → State → Act Done}
    (he : exec i s = issue len s body) (hr : runner s = some a)
    (hb : body a (seen s a) = armLoop len words count word a (seen s a)) :
    let t0 := strandAt (seen s a) a
    let start := t0.pc.toNat + len
    let stop := start + 4 * words
    let fits := words ≠ 0 ∧ bodyEnds (seen s a) (ctxOf (seen s a) a) stop (words + 1) start = true
    let went (pc lc : Nat) (l : Option HwLoop) (t : State) : Prop := Alone (seen s a) t a ∧
      (strandAt t a).pc = BitVec.ofNat 52 pc ∧ (strandAt t a).lc = lc ∧ (strandAt t a).loop = l ∧
      (strandAt t a).y = 0 :: t0.y.take 3 ∧ (strandAt t a).status = .running ∧ (strandAt t a).slot = t0.slot + 1 ∧
      (strandAt t a).still = t0.still
    (fits → count ≠ 0 → Runs i s (went start count (some ⟨start, stop⟩))) ∧
    (fits → count = 0 → Runs i s (went stop 0 none)) ∧
    (¬fits → ∃ w, exec i s = .next (signalTrap (seen s a) a (ccTrap (seen s a) a ⟨0x1E, w, 0, 0⟩))) := by
  intro t0 start stop fits went
  have hfit : fits ↔ ¬(words = 0 ∨ (!bodyEnds (seen s a) (ctxOf (seen s a) a) stop (words + 1) start) = true) := by
    simp [fits]
  refine ⟨fun hf hc => ?_, fun hf hc => ?_, fun hf => ⟨word, ?_⟩⟩
  · refine .of he hr (hb.trans ((if_neg (hfit.mp hf)).trans (if_neg hc))) ⟨(Alone.strand _ _ _).finish_seq _ _, ?_⟩
    have hne : start ≠ stop := by
      have := hf.1
      omega
    have hs : seqNext { t0 with loop := some ⟨start, stop⟩, lc := count } start = (start, count, some ⟨start, stop⟩) := if_neg hne
    rw [strandAt_finish_seq, strandAt_onStrand_same]
    exact ⟨congrArg (fun x : Nat × Nat × Option HwLoop => BitVec.ofNat 52 x.1) hs,
      congrArg (fun x : Nat × Nat × Option HwLoop => x.2.1) hs, congrArg (fun x : Nat × Nat × Option HwLoop => x.2.2) hs,
      rfl, rfl, rfl, rfl⟩
  · refine .of he hr (hb.trans ((if_neg (hfit.mp hf)).trans (if_pos hc))) ⟨?_, ?_⟩
    · exact Alone.strand (seen s a) a (fun t => { advance len 0 .seq { t with loop := none, lc := 0 } with pc := BitVec.ofNat 52 stop })
    simp only [finish, strandAt_onStrand_same]
    exact ⟨rfl, rfl, rfl, rfl, rfl, rfl, rfl⟩
  · exact he.trans (issue_trap hr (hb.trans (if_pos (not_not.mp (hfit.not.mp hf)))))

/-- The body of LOOP with a ready count (R183). -/
theorem loopOp_eq (len : Nat) (x : BitVec 6) (l word : Nat) (s : State) : loopOp len x l word s = issue len s (fun a s =>
    match rd s a x with
    | .ok u => armLoop len l (u.toNat % 2 ^ 32) word a s
    | .error e => .error e) := rfl

/-- Settles O20, for the short forms and the long-immediate groups at once. -/
theorem loops : Obligations.Loops := by
  intro s a hr
  refine ⟨fun x l hx => ?_, fun l c => ?_, fun imm word x l hd hx => ?_, fun imm word l c hd => ?_⟩
  · exact armLoop_runs ((show exec (.loop x l) s = execLoop x l s from rfl).trans (loopOp_eq ..)) hr (by simp only [rd_ready hx]; rfl)
  · exact armLoop_runs (show exec (.loopi l c) s = issue 4 s _ from rfl) hr rfl
  · exact armLoop_runs ((exec_liw_prefixed hd s).trans (loopOp_eq ..)) hr (by simp only [rd_ready hx]; rfl)
  · exact armLoop_runs ((exec_liw_prefixed hd s).trans (show _ = issue 12 s _ from rfl)) hr rfl

/-! ## SCHED (R40, R192) -/

/-- The entries of a SCHED table in local pond. -/
theorem sched_table {s : State} {a : At} {ad : Nat} (h : checkAddr [2] 64 64 ad ad = .ok ()) :
    (List.range 8).map (fun i => leNat (fetchPlace s 0 ((placeOf a.c ad).plus (8 * i)) 8)) =
      (List.range 8).map (fun i => leNat (loadN s (locPond a.c (bits ad 0 60) + 8 * i) 8)) := by
  obtain ⟨hsp, -⟩ := checkAddr_ok h
  have h2 : bits ad 60 4 = 2 := by simpa using hsp
  rw [placeOf_local h2]
  refine List.map_congr_left fun i _ => ?_
  rw [fetchPlace_pond _ _ (.inl rfl)]
  simp only [Place.plus, locPond, Nat.add_assoc]

/-- The first of the first n numbers that a predicate holds of. -/
theorem find_range_first {p : Nat → Bool} {n i : Nat} (hi : i < n) (hp : p i = true) (hbefore : ∀ j, j < i → p j = false) :
    (List.range n).find? p = some i := by
  rw [List.find?_range_eq_some]
  exact ⟨hp, List.mem_range.mpr hi, fun j hj => by simp [hbefore j hj]⟩

theorem find_map_range (f : Nat → Nat) (p : Nat → Bool) (n : Nat) :
    ((List.range n).map f).find? p = ((List.range n).find? (fun i => p (f i))).map f := by
  rw [List.find?_map]
  rfl

/-- Word i of a SCHED table at an offset of local pond. -/
def schedWord (s : State) (c off i : Nat) : Nat := leNat (loadN s (locPond c off + 8 * i) 8)

/-- Where SCHED goes on by its table (R40). -/
def schedCtl (s : State) (a : At) (off x : Nat) : Ctl :=
  match schedFind ((List.range 8).map (schedWord s a.c off)) x with
  | some o => .jump (wordsFrom (pcOf s a) o)
  | none => .seq

theorem exec_sched {s : State} {a : At} {e : BitVec 4} {b : BitVec 6} (hr : runner s = some a) (hb : srcReady (seen s a) a b)
    (hc : checkAddr [2] 64 64 (src (seen s a) a b).toNat (src (seen s a) a b).toNat = .ok ()) :
    exec (.sched e b) s = .next (finish a 4 ⟨seen s a, 0,
      schedCtl (seen s a) a (bits (src (seen s a) a b).toNat 0 60) (eVal (seen s a) a e)⟩) := by
  refine (show exec (.sched e b) s = execSched e b s from rfl).trans (issue_ok hr ?_)
  simp only [rd_ready hb, hc, sched_table hc]
  rfl

/-- Settles O21: the table's entries are searched in their order. -/
theorem schedule : Obligations.Schedule := by
  intro s a e b hr hb ad hc t0 word covers
  have hp (i : Nat) : decide (eVal (seen s a) a e ≤ word i % 2 ^ 32) = true ↔ covers i := by simp [covers]
  have hctl : schedCtl (seen s a) a (bits ad 0 60) (eVal (seen s a) a e) =
      match (((List.range 8).find? fun i => decide (eVal (seen s a) a e ≤ word i % 2 ^ 32)).map word).map
        (fun w => sgn (w / 2 ^ 32) 32) with
      | some o => .jump (wordsFrom (pcOf (seen s a) a) o)
      | none => .seq := by
    rw [← find_map_range word (fun w => decide (eVal (seen s a) a e ≤ w % 2 ^ 32))]
    rfl
  refine ⟨fun i hi hcov hbefore => ?_, fun hnone => ?_⟩
  · rw [find_range_first hi ((hp i).mpr hcov) fun j hj => Bool.eq_false_iff.mpr fun h => hbefore j hj ((hp j).mp h)] at hctl
    refine ⟨_, exec_sched hr hb hc, ?_⟩
    rw [hctl]
    refine ⟨(Alone.refl _ a).finish_jump 4 0 _, ?_⟩
    simp only [Option.map_some, strandAt_finish_jump]
    exact ⟨jumped_advance _ _ _ _, rfl, rfl⟩
  · rw [List.find?_eq_none.mpr fun i hi h => hnone i (List.mem_range.mp hi) ((hp i).mp h)] at hctl
    refine ⟨_, exec_sched hr hb hc, ?_⟩
    rw [hctl]
    exact finish_nop 4 _ a

/-! ## Fences and phases (R132, R189) -/

/-- The strand's arrival at a level of a barrier (R32). -/
def arriveAt (key lvl : Nat) (t : Strand) : Strand :=
  { t with arrived := key :: t.arrived, phases := tabPut t.phases lvl (tabGet 0 t.phases lvl + 1) }

/-- The strand's departure from a barrier (R32). -/
def leaveBarrier (key : Nat) (t : Strand) : Strand := { t with arrived := t.arrived.filter (· != key) }

/-- A strand without its barriers. -/
def Strand.noPhase (t : Strand) : Strand := { t with phases := [], arrived := [] }

/-- Two strands that agree but in their barriers agree in what the passing of an instruction reads. -/
theorem noPhase_place {t u : Strand} (h : u.noPhase = t.noPhase) :
    u.y = t.y ∧ u.slot = t.slot ∧ u.pc = t.pc ∧ u.lc = t.lc ∧ u.loop = t.loop := by
  have e1 : u.noPhase.y = t.noPhase.y := congrArg _ h
  have e2 : u.noPhase.slot = t.noPhase.slot := congrArg _ h
  have e3 : u.noPhase.pc = t.noPhase.pc := congrArg _ h
  have e4 : u.noPhase.lc = t.noPhase.lc := congrArg _ h
  have e5 : u.noPhase.loop = t.noPhase.loop := congrArg _ h
  exact ⟨e1, e2, e3, e4, e5⟩

theorem still_noPhase_of {t u : Strand} (h : u.noPhase = t.noPhase) : u.still.noPhase = t.still.noPhase := by
  have comm : ∀ t : Strand, t.still.noPhase = t.noPhase.still := fun _ => rfl
  rw [comm, comm, h]

/-- The end of PHASE at a barrier at which the strand stands (R32). -/
def phaseArrived (lvl key : Nat) (a : At) (v : State) : Act Done :=
  let g := gangCount v (jobOf v a) lvl a.c (tabGet 0 (strandAt v a).phases lvl)
  if g.2 = 0 then .ok ⟨onStrand v a (leaveBarrier key), 0, .seq⟩
  else .error (.wait v (.stall 5) true ((g.1 - g.2) % 2 ^ 32 + g.1 * 2 ^ 32))

/-- The body of PHASE (R32, R189). -/
def phaseBody (lvl : Nat) (a : At) (s : State) : Act Done :=
  let key := 8 * (strandAt s a).pc.toNat + lvl
  if !(strandAt s a).arrived.contains key && (!(strandEntries s a).isEmpty || !released s a) then stall s
  else if !(strandAt s a).task.any (·.card) then .ok ⟨s, 0, .seq⟩
  else phaseArrived lvl key a (if (strandAt s a).arrived.contains key then s else onStrand s a (arriveAt key lvl))

theorem phaseOp_eq (lvl : Nat) (s : State) : phaseOp lvl s = issue 4 s (phaseBody lvl) := by
  have h : ∀ t : Strand, (match t.task with | some k => k.card | none => false) = t.task.any (·.card) := by
    intro t; cases t.task <;> rfl
  unfold phaseOp
  congr 1
  funext a s
  unfold phaseBody
  rw [← h]
  rfl

section
variable {s : State} {a : At} {lvl : Nat} {i : Instr} (hr : runner s = some a) (he : exec i s = phaseOp lvl s)
include hr he

theorem phase_plain (hcard : (strandAt (seen s a) a).task.any (·.card) = false) (hent : strandEntries (seen s a) a = [])
    (hrel : released (seen s a) a = true) : Runs i s (fun t => DoneNop 4 (seen s a) t a) := by
  refine .of (he.trans (phaseOp_eq lvl s)) hr ?_ (finish_nop 4 _ a)
  simp only [phaseBody, hcard, hent, hrel, List.isEmpty_nil, Bool.not_true, Bool.or_false, Bool.and_false, Bool.false_eq_true,
    if_false, Bool.not_false, if_true]

theorem phase_card (hcard : (strandAt (seen s a) a).task.any (·.card) = true)
    (hgo : 8 * (strandAt (seen s a) a).pc.toNat + lvl ∈ (strandAt (seen s a) a).arrived ∨
      (strandEntries (seen s a) a = [] ∧ released (seen s a) a = true)) :
    let u := seen s a
    let key := 8 * (strandAt u a).pc.toNat + lvl
    let v := if key ∈ (strandAt u a).arrived then u else onStrand u a (arriveAt key lvl)
    let g := gangCount v (jobOf v a) lvl a.c (tabGet 0 (strandAt v a).phases lvl)
    exec i s = if g.2 = 0 then
        .next (finish a 4 ⟨onStrand v a (leaveBarrier key), 0, .seq⟩)
      else .next (holdWait v a (.stall 5) true ((g.1 - g.2) % 2 ^ 32 + g.1 * 2 ^ 32)) := by
  intro u key v g
  have hstall : (!(strandAt u a).arrived.contains key && (!(strandEntries u a).isEmpty || !released u a)) = false := by
    rcases hgo with h | ⟨h, h'⟩
    · rw [List.contains_iff_mem.mpr h]; rfl
    · have h1 : strandEntries u a = [] := h
      have h2 : released u a = true := h'
      simp [h1, h2]
  have hv : (if (strandAt u a).arrived.contains key = true then u else onStrand u a (arriveAt key lvl)) = v :=
    if_congr List.contains_iff_mem rfl rfl
  have hbody : phaseBody lvl a u = phaseArrived lvl key a v := by
    have hc : (strandAt u a).task.any (·.card) = true := hcard
    simp only [phaseBody]
    rw [if_neg (by rw [hstall]; decide), if_neg (by rw [hc]; decide), hv]
  rw [he, phaseOp_eq]
  split
  · next hm => exact issue_ok hr (hbody.trans (if_pos hm))
  · next hm => exact issue_wait hr (hbody.trans (if_neg hm))

end

theorem phase_exec {lvl : Nat} {i : Instr} (h : (lvl, i) ∈ [(0, Instr.phaseCore), (1, .phaseClus), (2, .phaseDie), (3, .phasePkg),
    (4, .phaseDom), (5, .phaseSys)]) (s : State) : exec i s = phaseOp lvl s := by
  simp only [List.mem_cons, Prod.mk.injEq, List.not_mem_nil, or_false] at h
  rcases h with ⟨rfl, rfl⟩ | ⟨rfl, rfl⟩ | ⟨rfl, rfl⟩ | ⟨rfl, rfl⟩ | ⟨rfl, rfl⟩ | ⟨rfl, rfl⟩ <;> rfl

section
variable {u v : State} {a : At} {key : Nat} (lvl : Nat) (hal : Alone u v a) (harr : key ∈ (strandAt v a).arrived)
  (hkeep : (strandAt v a).noPhase = (strandAt u a).noPhase)
include hal harr hkeep

theorem barrier_waits (arg : Nat) : let t := holdWait v a (.stall 5) true arg
    Alone u t a ∧ (strandAt t a).status = .waiting ∧ key ∈ (strandAt t a).arrived ∧
      tabGet 0 (strandAt t a).phases lvl = tabGet 0 (strandAt v a).phases lvl ∧
      (∃ w, (strandAt t a).wait = some w ∧ w.kind = .stall 5) ∧ (strandAt t a).pc = (strandAt u a).pc := by
  intro t
  obtain ⟨hst, hwait, hrest⟩ := holdWait_waiting v a (.stall 5) arg
  have e1 : (strandAt t a).arrived = (strandAt v a).arrived := by
    have e := congrArg Strand.arrived hrest
    exact e
  have e2 : (strandAt t a).phases = (strandAt v a).phases := by
    have e := congrArg Strand.phases hrest
    exact e
  have e3 : (strandAt t a).pc = (strandAt v a).pc := by
    have e := congrArg Strand.pc hrest
    exact e
  obtain ⟨-, -, hp, -, -⟩ := noPhase_place hkeep
  exact ⟨hal.trans (.strand _ _ _), hst, e1 ▸ harr, by rw [e2], hwait, e3.trans hp⟩

omit harr in
theorem barrier_passes : let t := finish a 4 ⟨onStrand v a (leaveBarrier key), 0, .seq⟩
    Alone u t a ∧ Follows 4 0 (strandAt u a) (strandAt t a) ∧
      tabGet 0 (strandAt t a).phases lvl = tabGet 0 (strandAt v a).phases lvl ∧ key ∉ (strandAt t a).arrived ∧
      { (strandAt t a).still with phases := [], arrived := [] } = { (strandAt u a).still with phases := [], arrived := [] } := by
  refine ⟨(hal.trans (.strand _ _ _)).finish_seq 4 0, ?_⟩
  rw [strandAt_finish_seq, strandAt_onStrand_same]
  obtain ⟨hy, hs, hp, hl, hlo⟩ := noPhase_place hkeep
  refine ⟨(follows_advance 4 0 (leaveBarrier key (strandAt v a))).of_eq hy hs hp hl hlo, rfl, ?_, ?_⟩
  · change key ∉ (strandAt v a).arrived.filter (· != key)
    simp
  · change (advance 4 0 .seq (leaveBarrier key (strandAt v a))).still.noPhase = (strandAt u a).still.noPhase
    rw [still_advance]
    exact still_noPhase_of hkeep

end

theorem at_barrier (u : State) (a : At) (key lvl : Nat) :
    let v := if key ∈ (strandAt u a).arrived then u else onStrand u a (arriveAt key lvl)
    Alone u v a ∧ key ∈ (strandAt v a).arrived ∧ (strandAt v a).noPhase = (strandAt u a).noPhase := by
  by_cases h : key ∈ (strandAt u a).arrived
  · rw [if_pos h]
    exact ⟨.refl _ _, h, rfl⟩
  · rw [if_neg h]
    refine ⟨.strand _ _ _, ?_, ?_⟩ <;> rw [strandAt_onStrand_same]
    · exact .head _
    · rfl

theorem phase_at_barrier {s : State} {a : At} {lvl : Nat} {i : Instr} (hr : runner s = some a) (he : exec i s = phaseOp lvl s)
    (hc : (strandAt (seen s a) a).task.any (·.card) = true)
    (hgo : 8 * (strandAt (seen s a) a).pc.toNat + lvl ∈ (strandAt (seen s a) a).arrived ∨
      (strandEntries (seen s a) a = [] ∧ released (seen s a) a = true)) :
    let u := seen s a
    let key := 8 * (strandAt u a).pc.toNat + lvl
    let v := if key ∈ (strandAt u a).arrived then u else onStrand u a (arriveAt key lvl)
    let missing := (gangCount v (jobOf v a) lvl a.c (tabGet 0 (strandAt v a).phases lvl)).2
    (missing = 0 → Runs i s (fun t => Alone u t a ∧ Follows 4 0 (strandAt u a) (strandAt t a) ∧
      tabGet 0 (strandAt t a).phases lvl = tabGet 0 (strandAt v a).phases lvl ∧ key ∉ (strandAt t a).arrived ∧
      { (strandAt t a).still with phases := [], arrived := [] } = { (strandAt u a).still with phases := [], arrived := [] })) ∧
    (missing ≠ 0 → Runs i s (fun t => Alone u t a ∧ (strandAt t a).status = .waiting ∧ key ∈ (strandAt t a).arrived ∧
      tabGet 0 (strandAt t a).phases lvl = tabGet 0 (strandAt v a).phases lvl ∧
      (∃ w, (strandAt t a).wait = some w ∧ w.kind = .stall 5) ∧ (strandAt t a).pc = (strandAt u a).pc)) := by
  intro u key v missing
  have hx := phase_card hr he hc hgo
  obtain ⟨hal, harr, hkeep⟩ := at_barrier u a key lvl
  exact ⟨fun hm => ⟨_, hx.trans (if_pos hm), barrier_passes lvl hal hkeep⟩,
    fun hm => ⟨_, hx.trans (if_neg hm), barrier_waits lvl hal harr hkeep _⟩⟩

/-- Settles O22: each barrier's wait and its end. -/
theorem barriers : Obligations.Barriers := by
  refine ⟨fun s a hr => ⟨?_, fun hd => ⟨?_, ?_⟩, fun hd => ⟨?_, ?_⟩⟩, fun s a lvl i hr hi => ?_⟩
  · exact .of (show exec .nop s = execNop s from rfl) hr rfl (finish_nop 4 _ a)
  · exact .of (show exec .fence s = execFence s from rfl) hr (if_pos hd) (finish_nop 4 _ a)
  · exact .of (show exec .afence s = execAfence s from rfl) hr (if_pos hd) (finish_nop 4 _ a)
  · exact (show exec .fence s = execFence s from rfl).trans (issue_wait hr (if_neg (Bool.eq_false_iff.mp hd)))
  · exact (show exec .afence s = execAfence s from rfl).trans (issue_wait hr (if_neg (Bool.eq_false_iff.mp hd)))
  · exact ⟨phase_plain hr (phase_exec hi s), phase_at_barrier hr (phase_exec hi s)⟩

/-! ## System registers (R146, R188) -/

theorem reg64_toNat (v : Dword) : v = reg64 v.toNat 64 := by
  rw [reg64, Nat.mod_eq_of_lt v.isLt, BitVec.ofNat_toNat, BitVec.setWidth_eq]

theorem task_landSlot (t : Strand) : (landSlot t).task = t.task := by
  rw [landSlot_eq]

theorem holder_landSlot (t : Strand) : (landSlot t).holder = t.holder := by
  rw [landSlot_eq]

theorem jobOf_seen (s : State) (a : At) : jobOf (seen s a) a = jobOf s a := by
  unfold jobOf
  rw [seen, strandAt_onStrand_same, task_landSlot, holder_landSlot]

theorem ctxOf_seen (s : State) (a : At) : ctxOf (seen s a) a = ctxOf s a := by
  unfold ctxOf
  rw [jobOf_seen]
  rfl

theorem coreAt_seen_regs (s : State) (a : At) (c : Nat) : (coreAt (seen s a) c).regs = (coreAt s c).regs := by
  unfold seen
  by_cases h : c = a.c
  · subst h; rw [coreAt_onStrand_same]
  · rw [coreAt_onStrand_ne _ _ _ h]

/-- Settles O28: MFS writes what sysRead gives. -/
theorem readSystemRegister : Obligations.ReadSystemRegister := by
  intro s a d n hr hd t0 reads
  have read (r : BitVec 6) {w v : Nat} (h : sysRead (seen s a) a r.toNat = reg64 v w) : reads r w v := by
    refine .of (show exec (.mfs d n r) s = execMfs d n r s from rfl) hr (by simp only [wrG_ready hd]; rfl) ?_
    rw [h]
    exact finish_wroteG 4 _ _ _ _ _ _
  have hctx : ctxOf (seen s a) a = ctxOf s a := ctxOf_seen s a
  refine ⟨read 0 rfl, read 1 rfl, read 2 rfl, read 3 rfl, fun i hi => ?_, read 12 rfl, read 13 ?_, read 14 ?_, read 15 rfl, read 16 rfl,
    read 17 rfl, read 18 rfl, read 19 rfl, read 20 ?_, read 21 rfl, read 22 rfl, fun i hi => ?_⟩
  · interval_cases i
    · exact ⟨read 4 (reg64_toNat _), read 8 rfl⟩
    · exact ⟨read 5 (reg64_toNat _), read 9 rfl⟩
    · exact ⟨read 6 (reg64_toNat _), read 10 rfl⟩
    · exact ⟨read 7 (reg64_toNat _), read 11 rfl⟩
  · change reg64 (ctxAt (seen s a) (ctxOf (seen s a) a)).lkey 64 = _
    rw [hctx]; rfl
  · change reg64 (ctxOf (seen s a) a) 4 = _
    rw [hctx]
  · change reg64 (wrap t0.segbud 32) 32 = _
    have h : (2 : Int) ^ 32 = ((2 ^ 32 : Nat) : Int) := by norm_num
    rw [wrap, h]
  · have hpf (k : Nat) : reg64 (tabGet 0 (coreAt (seen s a) a.c).regs.pf k) 32 = reg64 (tabGet 0 (coreAt s a.c).regs.pf k) 32 := by
      rw [coreAt_seen_regs]
    interval_cases i <;> exact read _ (hpf _)

end Sys2Proof.Machine
end

section
/-! The push of engine words (R147, R148), the words of the matrix engine, tokens and queues. -/

namespace Sys2Proof.Machine

/-! ## The draws of an entry are recorded at the pool units alone (R99) -/

/-- A state without its pool units. -/
def State.noUnits (s : State) : State := { s with units := [] }

theorem raisePend_noUnits (s : State) (c ctx h : Nat) : (raisePend s c ctx h).noUnits = s.noUnits := by
  unfold raisePend
  split
  · split <;> rfl
  · rfl

theorem recordDraws_noUnits {s t : State} {c ctx job : Nat} {l : List Draw} (h : recordDraws s c ctx job l = .ok t) :
    t.noUnits = s.noUnits := by
  unfold recordDraws at h
  dsimp only at h
  split at h
  · cases h
  · obtain rfl := Except.ok.inj h
    exact foldl_invariant (P := fun t : State => t.noUnits = s.noUnits) l rfl fun t ht d _ => (raisePend_noUnits t _ _ _).trans ht

theorem recordDraws_nil (s : State) (c ctx job : Nat) : recordDraws s c ctx job [] = .ok s := rfl

theorem cores_of_noUnits {s t : State} (h : t.noUnits = s.noUnits) : t.cores = s.cores := by
  have e := congrArg State.cores h
  exact e

theorem coreAt_of_cores {s t : State} (h : t.cores = s.cores) (c : Nat) : coreAt t c = coreAt s c := by
  unfold coreAt; rw [h]

theorem strandAt_of_cores {s t : State} (h : t.cores = s.cores) (a : At) : strandAt t a = strandAt s a := by
  unfold strandAt; rw [coreAt_of_cores h]

theorem queueAt_of_cores {s t : State} (h : t.cores = s.cores) (c q : Nat) : queueAt t c q = queueAt s c q := by
  unfold queueAt; rw [coreAt_of_cores h]

/-! ## Taking a number -/

/-- A strand that has counted one more push into queue q (R148). -/
def countPush (q : Nat) (t : Strand) : Strand := { t with push := tabPut t.push q (nextSeq t q) }

/-- A core whose latest table is t (R251). -/
def latestMlt (t : Nest) (k : Core) : Core := { k with regs := { k.regs with lastMlt := some t } }

section
variable (s : State) (a : At) (e : Entry)

theorem pushCounted_cases : pushCounted s a e = onStrand s a (countPush e.q) ∨
    ∃ t, pushCounted s a e = onCore (onStrand s a (countPush e.q)) a.c (latestMlt t) := by
  unfold pushCounted
  dsimp only
  split
  · exact .inr ⟨_, rfl⟩
  · exact .inl rfl

theorem strandAt_pushCounted : strandAt (pushCounted s a e) a = countPush e.q (strandAt s a) := by
  rcases pushCounted_cases s a e with h | ⟨t, h⟩ <;> rw [h]
  · rw [strandAt_onStrand_same]
  · rw [strandAt_onCore _ _ (f := latestMlt t) (fun _ => rfl), strandAt_onStrand_same]

theorem queueAt_pushCounted (q : Nat) : queueAt (pushCounted s a e) a.c q = queueAt s a.c q := by
  rcases pushCounted_cases s a e with h | ⟨t, h⟩ <;> rw [h]
  · exact queueAt_onStrand s a _ a.c q
  · rw [← queueAt_onStrand s a (countPush e.q) a.c q]
    unfold queueAt
    rw [coreAt_onCore_same]
    rfl

theorem jobs_pushCounted : (pushCounted s a e).jobs = s.jobs := by
  rcases pushCounted_cases s a e with h | ⟨t, h⟩ <;> rw [h] <;> rfl

end

section
variable {s w : State} {a : At} {e : Entry} (hd : e.drawn = e.draws.isEmpty)
include hd

theorem recorded_eq (u : State) (c ctx job : Nat) : (if e.drawn = true then Except.ok u else recordDraws u c ctx job e.draws) =
    recordDraws u c ctx job e.draws := by
  split
  · next h =>
    rw [hd, List.isEmpty_iff] at h
    rw [h, recordDraws_nil]
  · rfl

/-- A push whose draws are recorded (R99, R148). -/
theorem pushEntry_recorded 
    (h : recordDraws (pushCounted s a e) a.c (jobAt s e.job).ctx e.job e.draws = .ok w) :
    pushEntry s a e = setQueue w a.c e.q (queueAt w a.c e.q ++ [{ e with seq := nextSeq (strandAt s a) e.q, drawn := true }]) := by
  have hj : jobAt (pushCounted s a e) e.job = jobAt s e.job := by
    unfold jobAt; rw [jobs_pushCounted]
  have hp : pushEntry s a e = (match (if e.drawn = true then Except.ok (pushCounted s a e)
      else recordDraws (pushCounted s a e) a.c (jobAt (pushCounted s a e) e.job).ctx e.job e.draws) with
    | .ok s' => setQueue s' a.c e.q (queueAt s' a.c e.q ++ [{ e with seq := nextSeq (strandAt s a) e.q, drawn := true }])
    | .error c => onStrand (setQueue (pushCounted s a e) a.c e.q (queueAt (pushCounted s a e) a.c e.q ++
        [{ e with seq := nextSeq (strandAt s a) e.q, drawn := false, fault := some c }])) a
        (fun t => { t with pendTrap := some (firstTrap t (engTrap { e with seq := nextSeq (strandAt s a) e.q, drawn := false } c)) })) := by
    unfold pushEntry pushCounted
    rfl
  rw [hp, recorded_eq hd, hj, h]

end

section
variable {s w : State} {a : At} {e : Entry}

/-- A push whose draws are refused: the entry is faulting, and the trap is due (R99, R428). -/
theorem pushEntry_refused (hd : e.drawn = e.draws.isEmpty) {c : Cause}
    (h : recordDraws (pushCounted s a e) a.c (jobAt s e.job).ctx e.job e.draws = .error c) :
    ∃ f : Strand → PendTrap, pushEntry s a e = onStrand (setQueue (pushCounted s a e) a.c e.q (queueAt s a.c e.q ++
        [{ e with seq := nextSeq (strandAt s a) e.q, drawn := false, fault := some c }])) a
      (fun t => { t with pendTrap := some (f t) }) := by
  have hj : jobAt (pushCounted s a e) e.job = jobAt s e.job := by
    unfold jobAt; rw [jobs_pushCounted]
  have hp : pushEntry s a e = (match (if e.drawn = true then Except.ok (pushCounted s a e)
      else recordDraws (pushCounted s a e) a.c (jobAt (pushCounted s a e) e.job).ctx e.job e.draws) with
    | .ok s' => setQueue s' a.c e.q (queueAt s' a.c e.q ++ [{ e with seq := nextSeq (strandAt s a) e.q, drawn := true }])
    | .error c => onStrand (setQueue (pushCounted s a e) a.c e.q (queueAt (pushCounted s a e) a.c e.q ++
        [{ e with seq := nextSeq (strandAt s a) e.q, drawn := false, fault := some c }])) a
        (fun t => { t with pendTrap := some (firstTrap t (engTrap { e with seq := nextSeq (strandAt s a) e.q, drawn := false } c)) })) := by
    unfold pushEntry pushCounted
    rfl
  refine ⟨fun t => firstTrap t (engTrap { e with seq := nextSeq (strandAt s a) e.q, drawn := false } c), ?_⟩
  rw [hp, recorded_eq hd, hj, h, queueAt_pushCounted]

theorem finish_push_refused (hd : e.drawn = e.draws.isEmpty) {c : Cause}
    (h : recordDraws (pushCounted s a e) a.c (jobAt s e.job).ctx e.job e.draws = .error c) :
    let t := finish a 4 ⟨pushEntry s a e, 0, .seq⟩
    queueAt t a.c e.q = queueAt s a.c e.q ++ [{ e with seq := nextSeq (strandAt s a) e.q, drawn := false, fault := some c }] ∧
    (strandAt t a).pendTrap.isSome = true := by
  obtain ⟨f, hf⟩ := pushEntry_refused hd h
  intro t
  have ht : t = onStrand (pushEntry s a e) a (advance 4 0 .seq) := rfl
  rw [ht, hf]
  refine ⟨?_, ?_⟩
  · rw [queueAt_onStrand, queueAt_onStrand, queueAt_setQueue_same]
  · rw [strandAt_onStrand_same, strandAt_onStrand_same]; rfl

/-- A core without its engine queues. -/
def Core.noQueues (k : Core) : Core := { k with queues := [] }

theorem Alone.setQueue (s : State) (a : At) (q : Nat) (l : List Entry) : Alone s (setQueue s a.c q l) a id Core.noQueues := by
  refine ⟨rfl, fun c hc => ?_, ?_, fun x _ => strandAt_setQueue ..⟩
  · rw [Machine.setQueue, coreAt_onCore_ne _ _ hc]
  · rw [Machine.setQueue, coreAt_onCore_same]; rfl

/-- The push of an engine word that has issued (R147, R148). -/
theorem finish_push (hd : e.drawn = e.draws.isEmpty)
    (h : recordDraws (pushCounted s a e) a.c (jobAt s e.job).ctx e.job e.draws = .ok w) :
    let t := finish a 4 ⟨pushEntry s a e, 0, .seq⟩
    Pushed s t a e ∧ Alone w t a id Core.noQueues := by
  intro t
  have hw := cores_of_noUnits (recordDraws_noUnits h)
  have hq (q : Nat) : queueAt w a.c q = queueAt s a.c q := (queueAt_of_cores hw _ _).trans (queueAt_pushCounted s a e q)
  have hs : strandAt w a = countPush e.q (strandAt s a) := (strandAt_of_cores hw a).trans (strandAt_pushCounted s a e)
  have ht : t = onStrand (setQueue w a.c e.q (queueAt s a.c e.q ++ [{ e with seq := nextSeq (strandAt s a) e.q, drawn := true }])) a
      (advance 4 0 .seq) := by
    rw [← hq, ← pushEntry_recorded hd h]; rfl
  have hst : strandAt t a = advance 4 0 .seq (countPush e.q (strandAt s a)) := by
    rw [ht, strandAt_onStrand_same, strandAt_setQueue, hs]
  refine ⟨⟨?_, fun q hne => ?_, ?_, fun q hne => ?_, ?_, ?_⟩, ?_⟩
  · rw [ht, queueAt_onStrand, queueAt_setQueue_same]
  · rw [ht, queueAt_onStrand, queueAt_setQueue_ne _ _ (.inr hne), hq]
  · rw [hst]; exact tabGet_put_same _ _ _ _
  · rw [hst]; exact tabGet_put_ne _ _ _ hne
  · rw [hst]; exact (follows_advance 4 0 _).of_eq rfl rfl rfl rfl rfl
  · rw [hst]; rfl
  · rw [ht]; exact (Alone.setQueue w a e.q _).trans (.strand _ _ _)

end

/-- An engine word with its operands read and resolved (R147, R148, R400). -/
def engBody (q : Nat) (word : Word) (t g ga gb gc : Nat) (a : At) (s : State) : ResE → Act Done
  | .error c => .error (.trap c)
  | .ok r => if !pushRoom s a q then stall s else .ok ⟨pushEntry s a (newEntry s a q word t g ga gb gc r), 0, .seq⟩

/-- What the issue of an engine word does, once for all of them (R147, R148). -/
theorem pushes_of {i : Instr} {s : State} {a : At} {q t g : Nat} {x y z : BitVec 5}
    {resolve : State → At → Nat → Nat → Nat → ResE} (hr : runner s = some a) (hx : fieldReady (seen s a) a x)
    (hy : fieldReady (seen s a) a y) (hz : fieldReady (seen s a) a z)
    (he : exec i s = engIssue q ((encode i).headD 0) t g x y z resolve s) : Pushes i s a q t g x y z resolve := by
  have body (r : ResE) (h : resolve (seen s a) a (fieldVal (seen s a) a x) (fieldVal (seen s a) a y) (fieldVal (seen s a) a z) = r) :
      ∃ body, exec i s = issue 4 s body ∧ body a (seen s a) = engBody q ((encode i).headD 0) t g (fieldVal (seen s a) a x)
        (fieldVal (seen s a) a y) (fieldVal (seen s a) a z) a (seen s a) r := by
    refine ⟨_, he, ?_⟩
    simp only [rdG_ready hx, rdG_ready hy, rdG_ready hz]
    subst h
    rfl
  refine ⟨fun c h => ?_, fun r h hroom => ?_, fun r w h hroom => ?_, fun r c h hroom => ?_⟩
  · obtain ⟨_, he, hb⟩ := body _ h
    exact he.trans (issue_trap hr hb)
  · obtain ⟨_, he, hb⟩ := body _ h
    exact he.trans (issue_wait hr (hb.trans (if_pos (by rw [hroom]; rfl))))
  · intro e hrec
    obtain ⟨_, he, hb⟩ := body _ h
    exact .of he hr (hb.trans (if_neg (by rw [hroom]; decide))) (finish_push rfl hrec)
  · intro e hrec
    obtain ⟨_, he, hb⟩ := body _ h
    exact .of he hr (hb.trans (if_neg (by rw [hroom]; decide))) (finish_push_refused rfl hrec)

/-- Settles O34: every word of the matrix engine is an engine word of MQ. -/
theorem matrixWordsPush : Obligations.MatrixWordsPush := by
  intro s a t g x y z hr hx hy hz p
  have h0 : fieldReady (seen s a) a 0 := rfl
  exact ⟨pushes_of hr hx h0 h0 rfl, pushes_of hr hx h0 h0 rfl, pushes_of hr hx h0 hz rfl, pushes_of hr hx hy hz rfl,
    pushes_of hr hx hy hz rfl, pushes_of hr h0 h0 h0 rfl, pushes_of hr hx h0 h0 rfl, pushes_of hr hx h0 h0 rfl,
    pushes_of hr hx hy hz rfl, pushes_of hr hx hy hz rfl, pushes_of hr hx hy hz rfl, pushes_of hr h0 h0 h0 rfl⟩

end Sys2Proof.Machine
end

section
/-! Tokens, queue depths and sequence numbers (R149, R151, R216 to R218). -/

namespace Sys2Proof.Machine

/-- A core without its token FIFOs. -/
def Core.noFifos (k : Core) : Core := { k with fifos := [] }

/-- A strand without its counts of tokens. -/
def Strand.noTokens (t : Strand) : Strand := { t with gave := [], took := [] }

theorem Alone.setFifo (s : State) (a : At) (f : Nat) (l : List Nat) : Alone s (setFifo s a.c f l) a id Core.noFifos := by
  refine ⟨rfl, fun c hc => ?_, ?_, fun x _ => strandAt_setFifo ..⟩
  · rw [Machine.setFifo, coreAt_onCore_ne _ _ hc]
  · rw [Machine.setFifo, coreAt_onCore_same]; rfl

/-- A FIFO that has moved, and nothing else but the strand's counts of tokens (R149). -/
theorem finish_token (s : State) (a : At) (f : Nat) (l : List Nat) (g : Strand → Strand) (hg : ∀ t, (g t).noTokens = t.noTokens) :
    let t := finish a 4 ⟨onStrand (setFifo s a.c f l) a g, 0, .seq⟩
    fifoAt t a.c f = l ∧ (∀ f', f' ≠ f → fifoAt t a.c f' = fifoAt s a.c f') ∧ Alone s t a id Core.noFifos ∧
    Follows 4 0 (strandAt s a) (strandAt t a) ∧ (strandAt t a).still.noTokens = (strandAt s a).still.noTokens := by
  intro t
  have ht : t = onStrand (onStrand (setFifo s a.c f l) a g) a (advance 4 0 .seq) := rfl
  have hst : strandAt t a = advance 4 0 .seq (g (strandAt s a)) := by
    rw [ht, strandAt_onStrand_same, strandAt_onStrand_same, strandAt_setFifo]
  have hn := hg (strandAt s a)
  refine ⟨?_, fun f' hf => ?_, ?_, ?_, ?_⟩
  · rw [ht, fifoAt_onStrand, fifoAt_onStrand, fifoAt_setFifo_same]
  · rw [ht, fifoAt_onStrand, fifoAt_onStrand, fifoAt_setFifo_ne _ _ (.inr hf)]
  · rw [ht]; exact ((Alone.setFifo s a f l).trans (.strand _ _ _)).trans (.strand _ _ _)
  · rw [hst]
    have e1 : (g (strandAt s a)).noTokens.y = (strandAt s a).noTokens.y := congrArg _ hn
    have e2 : (g (strandAt s a)).noTokens.slot = (strandAt s a).noTokens.slot := congrArg _ hn
    have e3 : (g (strandAt s a)).noTokens.pc = (strandAt s a).noTokens.pc := congrArg _ hn
    have e4 : (g (strandAt s a)).noTokens.lc = (strandAt s a).noTokens.lc := congrArg _ hn
    have e5 : (g (strandAt s a)).noTokens.loop = (strandAt s a).noTokens.loop := congrArg _ hn
    exact (follows_advance 4 0 _).of_eq e1 e2 e3 e4 e5
  · have comm : ∀ t : Strand, t.still.noTokens = t.noTokens.still := fun _ => rfl
    rw [hst, still_advance, comm, comm, hn]

/-- Taking a strand's oldest token keeps the tokens of others and their order (R149). -/
theorem popToken_first {x : Nat} {l1 : List Nat} (l2 : List Nat) (h : x ∉ l1) : popToken x (l1 ++ x :: l2) = l1 ++ l2 := by
  induction l1 with
  | nil => simp [popToken]
  | cons y t ih =>
    simp only [List.mem_cons, not_or] at h
    simp only [List.cons_append, popToken, if_neg (Ne.symm h.1), ih h.2]

/-- A strand's depth of a queue (R148). -/
def withDepth (q v : Nat) (t : Strand) : Strand := { t with depth := tabPut t.depth q v }

/-- A strand without its queue depths. -/
def Strand.noDepth (t : Strand) : Strand := { t with depth := [] }

/-- QDEPTH that has issued (R217). -/
theorem finish_qdepth (s : State) (a : At) (d : BitVec 5) (n : BitVec 1) (w : Dword) (q v : Nat) :
    let t := finish a 4 ⟨onStrand (wroteG s a d n 1 w) a (withDepth q v), 0, .seq⟩
    Alone s t a ∧ WroteG d n w (strandAt s a) (strandAt t a) ∧ tabGet 0 (strandAt t a).depth q = v ∧
    (∀ m, m ≠ q → tabGet 0 (strandAt t a).depth m = tabGet 0 (strandAt s a).depth m) ∧
    Follows 4 0 (strandAt s a) (strandAt t a) ∧ (strandAt t a).still.noG.noDepth = (strandAt s a).still.noG.noDepth := by
  intro t
  have hn := wroteG_noG s a d n 1 w
  have hst : strandAt t a = advance 4 0 .seq (withDepth q v (strandAt (wroteG s a d n 1 w) a)) := by
    simp only [t, finish, strandAt_onStrand_same]
  have hd : (strandAt (wroteG s a d n 1 w) a).depth = (strandAt s a).depth := by
    have e : (strandAt (wroteG s a d n 1 w) a).noG.depth = (strandAt s a).noG.depth := congrArg _ hn
    exact e
  refine ⟨((wroteG_alone s a d n 1 w).trans (.strand _ _ _)).trans (.strand _ _ _), ?_, ?_, fun m hm => ?_, ?_, ?_⟩
  · obtain ⟨h1, h2, h3, h4⟩ := wroteG_strand (s := s) (a := a) d n w
    rw [hst]
    exact ⟨h1, h2, h3, h4⟩
  · rw [hst]; exact tabGet_put_same _ _ _ _
  · rw [hst, ← hd]; exact tabGet_put_ne _ _ _ hm
  · rw [hst]
    obtain ⟨e1, e2, e3, e4, e5⟩ := noG_place hn
    exact (follows_advance 4 0 _).of_eq e1 e2 e3 e4 e5
  · have comm : ∀ t : Strand, (withDepth q v t).still.noG.noDepth = t.noG.still.noDepth := fun _ => rfl
    have comm' : ∀ t : Strand, t.still.noG.noDepth = t.noG.still.noDepth := fun _ => rfl
    rw [hst, still_advance, comm, hn, comm']

/-- The sizes of the engine queues (R147). -/
theorem queueSize_eq (q : BitVec 2) : queueSize q.toNat = if q = 1 then 32 else if q = 2 then 16 else 64 := by
  revert q; decide

/-- Settles O35: GIVE and TAKE move one token, QDEPTH and QSEQ read and write the strand's counts. -/
theorem tokensAndQueues : Obligations.TokensAndQueues := by
  refine ⟨fun s a f hr => ?_, fun s a d n q hr hd => ?_⟩
  · intro u l moved
    have hg : exec (.give f) s = execGive f s := rfl
    have ht : exec (.take f) s = execTake f s := rfl
    refine ⟨fun h => ?_, fun h hl => ?_, fun h hl => ?_, fun l1 l2 hl hx => ?_, fun hx => ?_⟩
    · exact hg.trans (issue_wait hr (if_pos (show (!ccPerformed u a) = true by rw [h]; rfl)))
    · refine .of hg hr ((if_neg (show ¬(!ccPerformed u a) = true by rw [h]; decide)).trans (if_neg (Nat.not_le.mpr hl))) ?_
      exact finish_token u a f.toNat _ _ fun _ => rfl
    · exact hg.trans (issue_wait hr ((if_neg (show ¬(!ccPerformed u a) = true by rw [h]; decide)).trans (if_pos hl)))
    · have hin : l.contains a.x = true := List.contains_iff_mem.mpr (by rw [hl]; simp)
      refine .of ht hr (if_neg (show ¬(!l.contains a.x) = true by rw [hin]; decide)) ?_
      rw [← popToken_first l2 hx, ← hl]
      exact finish_token u a f.toNat _ _ fun _ => rfl
    · have hout : l.contains a.x = false := Bool.eq_false_iff.mpr fun h => hx (List.contains_iff_mem.mp h)
      exact ht.trans (issue_wait hr (if_pos (show (!l.contains a.x) = true by rw [hout]; rfl)))
  · intro u size
    have hsz : queueSize q.toNat = size := queueSize_eq q
    refine ⟨fun b hb => ?_, ?_, ?_⟩
    · intro v
      have hq : exec (.qdepth d n q b) s = execQdepth d n q b s := rfl
      refine ⟨fun h1 h2 => ?_, fun h => ?_⟩
      · have hok : ¬((src u a b).toNat = 0 ∨ queueSize q.toNat < (src u a b).toNat) := by
          rw [hsz]
          change ¬(v = 0 ∨ size < v)
          omega
        refine .of hq hr (d := ⟨onStrand (wroteG u a d n 1 (BitVec.ofNat 64 (tabGet 0 (strandAt u a).depth q.toNat))) a
          (withDepth q.toNat v), 0, .seq⟩) ?_ (finish_qdepth u a d n _ q.toNat v)
        have hw : wrG (seen s a) a d n 1 _ = _ := wrG_ready hd 1 (BitVec.ofNat 64 (tabGet 0 (strandAt u a).depth q.toNat))
        have hrd : rd (seen s a) a b = .ok (src u a b) := rd_ready hb
        simp only [hrd]
        rw [if_neg hok, hw]
        all_goals rfl
      · have hbad : (src u a b).toNat = 0 ∨ queueSize q.toNat < (src u a b).toNat := by rw [hsz]; exact h
        refine hq.trans (issue_trap hr ?_)
        have hrd : rd (seen s a) a b = .ok (src u a b) := rd_ready hb
        simp only [hrd]
        rw [if_pos hbad, hsz]
        all_goals rfl
    · refine .of (show exec (.qseq d n q 0) s = execQseq d n q 0 s from rfl) hr ?_ (finish_wroteG 4 _ a d n _ 0)
      simp only [wrG_ready hd]
      rfl
    · refine .of (show exec (.qseq d n q 1) s = execQseq d n q 1 s from rfl) hr ?_ (finish_wroteG 4 _ a d n _ 0)
      simp only [wrG_ready hd]
      rfl

end Sys2Proof.Machine
end

section
/-! WAITC, RPOP and NOTIFY (R191, R194, R196). -/

namespace Sys2Proof.Machine

/-! ## WAITC (R191) -/

theorem waitcTry_differs {s : State} {a : At} {d : BitVec 5} {n : BitVec 1} (hd : dstReady s a d n) (ad : Nat) {b v : Dword}
    (h : v ≠ b) : waitcTry s a d n ad b v = .ok ⟨wroteG s a d n 1 v, 0, .seq⟩ := by
  unfold waitcTry
  rw [if_neg h, wrG_ready hd]

theorem waitcTry_equal {s : State} {a : At} {d : BitVec 5} {n : BitVec 1} {ad : Nat} {b v : Dword}
    (h : v = b) : waitcTry s a d n ad b v = .error (.wait s (.watch ad) false v.toNat) := if_pos h

/-- The read of a word of this device (R191). -/
theorem waitcRead_here {s : State} {a : At} {d : BitVec 5} {n : BitVec 1} {ad : Nat} {b : Dword} {r : Reach} (hr : r.here = true)
    (hp : ccPoison s a r 8 = .ok ()) :
    waitcRead s a d n ad b r = waitcTry s a d n ad b (BitVec.ofNat 64 (reachRead s a r 8)) := by
  cases r with
  | remote => cases hr
  | near p => simp only [waitcRead, hp]
  | phys v l => simp only [waitcRead, hp]

section
variable {s u : State} {a : At} {d : BitVec 5} {n : BitVec 1} {x y : BitVec 6} {r : Reach} (hr : runner s = some a)
  (hd : dstReady (seen s a) a d n) (hx : srcReady (seen s a) a x) (hy : srcReady (seen s a) a y)
  (hc : checkAddr [0, 1, 2, 3] 8 8 (src (seen s a) a x).toNat (src (seen s a) a x).toNat = .ok ())
  (hu : reach (seen s a) a (src (seen s a) a x).toNat false = .ok (u, r))
include hd hx hy hc hu

theorem waitc_body : ∃ body, exec (.waitc d n x y) s = issue 4 s body ∧
    body a (seen s a) = waitcRead u a d n (src (seen s a) a x).toNat (src (seen s a) a y) r ∧ dstReady u a d n := by
  have hs : strandAt u a = strandAt (seen s a) a := (reach_filled hu).strandAt a
  have hyu : srcReady u a y := by unfold srcReady; rw [hs]; exact hy
  have hdu : dstReady u a d n := by unfold dstReady; rw [hs]; exact hd
  have hsrc : src u a y = src (seen s a) a y := by unfold src; rw [hs]
  refine ⟨_, (show exec (.waitc d n x y) s = execWaitc d n x y s from rfl), ?_, hdu⟩
  simp only [rd_ready hx, hc, hu, rd_ready hyu, freeD_ready hdu, hsrc]

end

/-- A read that WAITC sends to another device (R319). -/
theorem askRemote_sent {u : State} {a : At} {va l : Nat} (kind size : Nat)
    (hn : u.remotes.any (fun r => r.core == a.c && r.sx == a.x && r.kind == kind && r.va == va) = false) (hroom : flitRoom u a.c l = true) :
    (askRemote u a va l kind size).remotes = u.remotes ++ [⟨u.sbNext, a.c, a.x, ctxOf u a, va, l, kind, size, 0, 0, u.sbNext, none,
      u.cycle, ccWord u a, (strandAt u a).pc.toNat⟩] ∧ (askRemote u a va l kind size).mem = u.mem ∧
    (askRemote u a va l kind size).cores = u.cores := by
  have hno : ¬((u.remotes.any (fun r => r.core == a.c && r.sx == a.x && r.kind == kind && r.va == va) || !flitRoom u a.c l) = true) := by
    rw [hn, hroom]; decide
  obtain ⟨w, hw⟩ : ∃ w, sendFlit u (a.c / 48) l 0 = { u with spans := w } := ⟨_, sendOn_rest _ _ _ _⟩
  have hcode : SameCode u { u with spans := w } a := SameCode.spans ⟨rfl, rfl, rfl, rfl, rfl, rfl, rfl, ⟨rfl, rfl, rfl, rfl⟩⟩ w
  unfold askRemote
  rw [if_neg hno, hw]
  refine ⟨?_, rfl, rfl⟩
  rw [← hcode.ccWord, ← hcode.ctxOf]
  rfl

/-! ## RPOP (R196) -/

/-- A strand whose result queue has given up its oldest entry (R196). -/
def popResult (rest : List Dword) (t : Strand) : Strand := { t with resq := rest, resPopped := (t.resPopped + 1) % 2 ^ 32 }

/-- A strand without its result queue. -/
def Strand.noResults (t : Strand) : Strand := { t with resq := [], resPopped := 0 }

theorem finish_rpop (s : State) (a : At) (d : BitVec 5) (n : BitVec 1) (v : Dword) (rest : List Dword) :
    let t := finish a 4 ⟨wroteG (onStrand s a (popResult rest)) a d n 1 v, 0, .seq⟩
    Alone s t a ∧ WroteG d n v (strandAt s a) (strandAt t a) ∧ (strandAt t a).resq = rest ∧
    Follows 4 0 (strandAt s a) (strandAt t a) ∧ (strandAt t a).still.noG.noResults = (strandAt s a).still.noG.noResults := by
  intro t
  obtain ⟨halone, ⟨h1, h2, h3, h4⟩, hfol, hkept⟩ := finish_wroteG 4 (onStrand s a (popResult rest)) a d n v 0
  rw [strandAt_onStrand_same] at h2 h3 h4 hfol hkept
  refine ⟨(Alone.strand s a _).trans halone, ⟨h1, h2, h3, h4⟩, ?_, ?_, ?_⟩
  · have e := congrArg Strand.resq hkept
    exact e
  · exact hfol.of_eq rfl rfl rfl rfl rfl
  · have e := congrArg Strand.noResults hkept
    exact e

/-! ## NOTIFY (R194, R355) -/

theorem lor_two_pow_ne (x b : Nat) : Nat.lor x (2 ^ b) ≠ 0 := by
  intro h
  have h' : (x ||| 2 ^ b).testBit b = false := by
    change (Nat.lor x (2 ^ b)).testBit b = false
    rw [h]; exact Nat.zero_testBit b
  rw [Nat.testBit_or, Nat.testBit_two_pow_self, Bool.or_true] at h'
  cases h'

/-- A doorbell that has been rung (R355). -/
theorem bell_rung (h : Hart) (b : Nat) : h.bell (Nat.lor h.db (2 ^ b)) h.dbtgt =
    { h with db := Nat.lor h.db (2 ^ b), mext := !bit h.dbtgt 0, sext := bit h.dbtgt 0 } := by
  have hne : (Nat.lor h.db (2 ^ b) != 0) = true := bne_iff_ne.mpr (lor_two_pow_ne _ _)
  unfold Hart.bell
  rw [hne, Bool.true_and, Bool.true_and]

/-- Settles O30: WAITC by what its read answers, RPOP by the result queue, NOTIFY by its hart. -/
theorem waitsAndNotify : Obligations.WaitsAndNotify := by
  refine ⟨fun s a d n hr hd => ⟨fun x y u r hx hy => ?_, fun x y u va l hx hy => ?_, fun v rest hq => ?_, fun hq => ?_⟩,
    fun s a x y hr hx hy => ?_⟩
  · intro ad b hc hu hh hp v
    obtain ⟨_, he, hb, hdu⟩ := waitc_body hd hx hy hc hu
    rw [waitcRead_here hh hp] at hb
    refine ⟨fun hv => ?_, fun hv => ?_⟩
    · exact .of he hr (hb.trans (waitcTry_differs hdu _ hv)) (finish_wroteG 4 u a d n _ 0)
    · exact he.trans (issue_wait hr (hb.trans (waitcTry_equal hv)))
  · intro ad b hc hu key w
    obtain ⟨_, he, hb, hdu⟩ := waitc_body hd hx hy hc hu
    have hdw : dstReady w a d n := by
      unfold dstReady
      rw [strandAt_onStrand_same]
      exact hdu
    refine ⟨fun v hg hv => ?_, fun v hg hv => ?_, fun hg => ?_, askRemote_sent 14 8⟩
    · refine .of he hr (hb.trans ?_) (finish_wroteG 4 w a d n _ 0)
      exact (show _ = waitcTry w a d n ad b v by simp only [waitcRead]; rw [hg]).trans (waitcTry_differs hdw _ hv)
    · refine he.trans (issue_wait hr (hb.trans ?_))
      exact (show _ = waitcTry w a d n ad b v by simp only [waitcRead]; rw [hg]).trans (waitcTry_equal hv)
    · refine he.trans (issue_wait hr (hb.trans ?_))
      have hlast : ((strandAt u a).wait.map (·.arg)).getD 0 = (match (strandAt u a).wait with | some w => w.arg | none => 0) := by
        cases (strandAt u a).wait <;> rfl
      simp only [waitcRead]
      rw [hg, hlast]
      all_goals rfl
  · refine .of (show exec (.rpop d n) s = execRpop d n s from rfl) hr
      (d := ⟨wroteG (onStrand (seen s a) a (popResult rest)) a d n 1 v, 0, .seq⟩) ?_ (finish_rpop (seen s a) a d n v rest)
    have hd' : dstReady (onStrand (seen s a) a (popResult rest)) a d n := by
      unfold dstReady
      rw [strandAt_onStrand_same]
      exact hd
    have hw : wrG (onStrand (seen s a) a (popResult rest)) a d n 1 v = _ := wrG_ready hd' 1 v
    simp only [hq, freeD_ready hd]
    change (match wrG (onStrand (seen s a) a (popResult rest)) a d n 1 v with | .ok s => _ | .error e => _) = _
    rw [hw]
  · refine (show exec (.rpop d n) s = execRpop d n s from rfl).trans (issue_wait hr ?_)
    simp only [hq, freeD_ready hd]
  · intro u h b hh hb hrun
    refine .of (show exec (.notify x y) s = execNotify x y s from rfl) hr
      (d := ⟨onHart u h (fun k => k.bell (Nat.lor k.db (2 ^ b)) k.dbtgt), 0, .seq⟩) ?_ ⟨?_, fun m hm => ?_, ?_⟩
    · have hrx : rd (seen s a) a x = .ok (src u a x) := rd_ready hx
      have hry : rd (seen s a) a y = .ok (src u a y) := rd_ready hy
      simp only [hrx, hry]
      rw [if_neg (Nat.not_le.mpr hh), if_neg (Nat.not_le.mpr hb), if_neg (show ¬(!(hartAt u h).run) = true by rw [hrun]; decide)]
    · rw [← bell_rung]
      exact hartAt_onHart_same u h _
    · exact hartAt_onHart_ne u _ hm
    · exact finish_nop 4 (onHart u h (fun k => k.bell (Nat.lor k.db (2 ^ b)) k.dbtgt)) a

end Sys2Proof.Machine
end

section
/-! PARK and the store that wakes it (R193, R197, R354). -/

namespace Sys2Proof.Machine

/-! ## The end of a turn -/

/-- Landing every exposed write changes the registers, the exposed writes and what waits for them alone (R144). -/
theorem landAll_rest (t : Strand) : landAll t = { t with g := (landAll t).g, pend := [], sb := (landAll t).sb } := by
  unfold landAll
  split
  · next h =>
    have hp : t.pend = [] := List.isEmpty_iff.mp h
    rw [← hp]
  · have hp : (landDue none t).pend = [] := by simp [landDue]
    rw [← hp]
    rfl

theorem landAll_pend (t : Strand) : (landAll t).pend = [] := by rw [landAll_rest]

/-! ## Notify words -/

@[simp] theorem nwAt_put_same (s : State) (i : Nat) (w : Notify) : nwAt { s with nw := tabPut s.nw i w } i = w :=
  tabGet_put_same _ _ _ _

theorem nwAt_put_ne (s : State) {i m : Nat} (w : Notify) (h : m ≠ i) : nwAt { s with nw := tabPut s.nw i w } m = nwAt s m :=
  tabGet_put_ne _ _ _ h

/-- The state in which notify word i is w. -/
def withWord (s : State) (i : Nat) (w : Notify) : State := { s with nw := tabPut s.nw i w }

theorem nwAt_withWord (s : State) (i : Nat) (w : Notify) : nwAt (withWord s i w) i = w := nwAt_put_same s i w

theorem nwAt_withWord_ne (s : State) {i m : Nat} (w : Notify) (h : m ≠ i) : nwAt (withWord s i w) m = nwAt s m := nwAt_put_ne s w h

theorem strandAt_withWord (s : State) (i : Nat) (w : Notify) (a : At) : strandAt (withWord s i w) a = strandAt s a := rfl

/-- A strand parked on word n, its destination kept in its wait (R193). -/
def parked (n : Nat) (d : BitVec 5) (nw : BitVec 1) (t : Strand) : Strand :=
  let w : Wait := match t.wait with
    | some w => if w.kind = .park n then w else ⟨.park n, 0, waitBound t, 0⟩
    | none => ⟨.park n, 0, waitBound t, 0⟩
  { endSegment t with status := .parked, parkedOn := some n, wait := some { w with arg := d.toNat + 32 * nw.toNat } }

theorem parkOn_eq (s : State) (a : At) (n : Nat) (d : BitVec 5) (nw : BitVec 1) : parkOn s a n d nw =
    dropTurn (onStrand (withWord s n { nwAt s n with parked := some (strandNo a), last := taskId s a }) a (parked n d nw)) a := rfl

theorem strandAt_dropTurn (s : State) (a b : At) : strandAt (dropTurn s a) b = strandAt s b :=
  strandAt_onCore s a.c (f := fun k => { k with turn := if k.turn = some a.x then none else k.turn }) (fun _ => rfl) b

theorem strandAt_parkOn (s : State) (a : At) (n : Nat) (d : BitVec 5) (nw : BitVec 1) :
    strandAt (parkOn s a n d nw) a = parked n d nw (strandAt s a) := by
  rw [parkOn_eq, strandAt_dropTurn, strandAt_onStrand_same, strandAt_withWord]

theorem parked_pc (n : Nat) (d : BitVec 5) (nw : BitVec 1) (t : Strand) :
    (parked n d nw t).pc = t.pc ∧ (parked n d nw t).loop = t.loop ∧ (parked n d nw t).pend = [] ∧
    (parked n d nw t).wait.map (·.arg) = some (d.toNat + 32 * nw.toNat) := by
  have h := landAll_rest t
  have h1 : (landAll t).pc = t.pc := by rw [h]
  have h2 : (landAll t).loop = t.loop := by rw [h]
  exact ⟨h1, h2, landAll_pend t, rfl⟩

theorem nwAt_parkOn (s : State) (a : At) (n : Nat) (d : BitVec 5) (nw : BitVec 1) :
    nwAt (parkOn s a n d nw) n = { nwAt s n with parked := some (strandNo a), last := taskId s a } :=
  nwAt_withWord s n _

/-- A strand whose destination, kept in arg, has taken v (R193). -/
def takeParked (arg : Nat) (v : Dword) (t : Strand) : Strand :=
  if arg / 32 = 0 then { t with g := if arg % 32 = 0 then t.g else tabPut t.g (arg % 32) v } else t

theorem takeParked_rest (arg : Nat) (v : Dword) (t : Strand) : takeParked arg v t = { t with g := (takeParked arg v t).g } := by
  unfold takeParked
  split <;> rfl

/-- A strand whose PARK completes with v (R193). -/
def unparked (v : Dword) (t : Strand) : Strand :=
  { advance 4 0 .seq (takeParked (match t.wait with | some w => w.arg | none => 0) v t) with status := .ready }

theorem wakePark_eq (s : State) (a : At) (v : Dword) : wakePark s a v = onStrand s a (unparked v) := rfl

/-- The destination of a PARK that completes holds the value, and the strand goes on behind it (R193). -/
theorem unparked_reads {t : Strand} {d : BitVec 5} {n : BitVec 1} (h : t.wait.map (·.arg) = some (d.toNat + 32 * n.toNat)) (v : Dword) :
    (n = 0 → d ≠ 0 → gVal (unparked v t) d.toNat = v) ∧ (t.loop = none → (unparked v t).pc = BitVec.ofNat 52 (t.pc.toNat + 4)) := by
  obtain ⟨w, hw, harg⟩ := Option.map_eq_some_iff.mp h
  have hd := d.isLt
  refine ⟨fun hn hne => ?_, fun hl => ?_⟩
  · subst hn
    have h0 : d.toNat ≠ 0 := fun e => hne (BitVec.eq_of_toNat_eq e)
    have hq : w.arg / 32 = 0 := by
      have : (0 : BitVec 1).toNat = 0 := rfl
      omega
    have hm : w.arg % 32 = d.toNat := by
      have : (0 : BitVec 1).toNat = 0 := rfl
      omega
    have hu : (unparked v t).g = tabPut t.g d.toNat v := by
      simp only [unparked, hw, g_advance, takeParked, hq, hm, if_true, if_neg h0]
    rw [gVal, if_neg h0, hu, tabGet_put_same]
  · have hk : (takeParked (match t.wait with | some w => w.arg | none => 0) v t).loop = none := by rw [takeParked_rest]; exact hl
    obtain ⟨hpc, -, -⟩ := (follows_advance 4 0 (takeParked (match t.wait with | some w => w.arg | none => 0) v t)).straight
      fun h e => by rw [hk] at e; cases e
    have hp : (takeParked (match t.wait with | some w => w.arg | none => 0) v t).pc = t.pc := by rw [takeParked_rest]
    rw [hp] at hpc
    exact hpc

/-- A store to a word that was not pending makes it pending, whoever stores (R193, R354). -/
theorem nwStored_idle {s : State} {n : Nat} (h : (nwAt s n).pending = false) (v party : Nat) :
    nwStored s n v party = { nwAt s n with val := v, pending := true, cycle := s.cycle + 1, party := party } := by
  unfold nwStored
  exact if_neg fun hc => by rw [h] at hc; exact Bool.false_ne_true hc.1

/-- A store to a word on which a strand is parked stores and no more (R193). -/
theorem notifyStore_parked {s : State} {n who : Nat} (hp : (nwAt s n).parked = some who) (h : (nwAt s n).pending = false)
    (v party : Nat) : notifyStore s n v party =
    withWord s n { nwAt s n with val := v, pending := true, cycle := s.cycle + 1, party := party } := by
  unfold notifyStore
  rw [nwStored_idle h]
  simp only [hp]
  rfl

/-- What the wake of a strand parked on a pending word does (R193, R197). -/
theorem dueWake_pending {s : State} {a : At} {n : Nat} (hx : a.x < 4) (hs : (strandAt s a).status = .parked)
    (hon : (strandAt s a).parkedOn = some n) (hp : (nwAt s n).pending = true) (hk : (nwAt s n).parked = some (strandNo a)) :
    dueWake s a = some (onStrand (withWord s n { nwAt s n with pending := false, parked := none }) a
      (unparked (BitVec.ofNat 64 (nwAt s n).val))) := by
  have ha : (⟨strandNo a / 4, strandNo a % 4⟩ : At) = a := by
    have h1 : (4 * a.c + a.x) / 4 = a.c := by omega
    have h2 : (4 * a.c + a.x) % 4 = a.x := by omega
    simp only [strandNo, h1, h2]
  unfold dueWake
  rw [hs, hon]
  simp only [wakeWord, hp, hk, ha, wakePark_eq]
  rfl

section
variable {s u : State} {a : At} {d : BitVec 5} {n : BitVec 1} {i : Nat} (hd : dstReady u a d n)
include hd

theorem parkNow_pending (hp : (nwAt u i).pending = true) : parkNow u a d n i =
    .ok ⟨wroteG (withWord u i { nwAt u i with pending := false, last := taskId u a }) a d n 1 (BitVec.ofNat 64 (nwAt u i).val),
      0, .seq⟩ := by
  have hdw : dstReady (withWord u i { nwAt u i with pending := false, last := taskId u a }) a d n := hd
  have hw := wrG_ready hdw 1 (BitVec.ofNat 64 (nwAt u i).val)
  unfold withWord at hw
  simp only [parkNow, freeD_ready hd, hp, if_true, hw]
  rfl

theorem parkNow_idle (hp : (nwAt u i).pending = false) (hs : (strandAt u a).stopping = false) : parkNow u a d n i =
    .ok ⟨parkOn u a i d n, 0, .own⟩ := by
  simp only [parkNow, freeD_ready hd, hp, hs, Bool.false_eq_true, if_false]

end

/-- A PARK whose word is pending (R193). -/
theorem finish_park_pending (u : State) (a : At) (d : BitVec 5) (n : BitVec 1) (i : Nat) :
    let w : Notify := { nwAt u i with pending := false, last := taskId u a }
    let t := finish a 4 ⟨wroteG (withWord u i w) a d n 1 (BitVec.ofNat 64 (nwAt u i).val), 0, .seq⟩
    DoneG 4 { u with nw := t.nw } t a d n (BitVec.ofNat 64 (nwAt u i).val) 0 ∧ (nwAt t i).pending = false ∧
    (nwAt t i).val = (nwAt u i).val ∧ ∀ m, m ≠ i → nwAt t m = nwAt u m := by
  intro w t
  have hdone := finish_wroteG 4 (withWord u i w) a d n (BitVec.ofNat 64 (nwAt u i).val) 0
  have hnw : t.nw = (withWord u i w).nw := by
    have e := congrArg State.nw hdone.alone.outside
    exact e
  have hat (m : Nat) : nwAt t m = nwAt (withWord u i w) m := congrArg (fun l => tabGet Notify.reset l m) hnw
  refine ⟨?_, ?_, ?_, fun m hm => ?_⟩
  · rw [hnw]; exact hdone
  · rw [hat, nwAt_withWord]
  · rw [hat, nwAt_withWord]
  · rw [hat]; exact nwAt_withWord_ne u w hm

theorem turn_parkOn (s : State) (a : At) (n : Nat) (d : BitVec 5) (nw : BitVec 1) (h : (coreAt s a.c).turn = some a.x) :
    (coreAt (parkOn s a n d nw) a.c).turn = none := by
  have hk : (coreAt (onStrand (withWord s n { nwAt s n with parked := some (strandNo a), last := taskId s a }) a (parked n d nw)) a.c).turn =
      some a.x := by
    rw [coreAt_onStrand_same]
    exact h
  rw [parkOn_eq, dropTurn, coreAt_onCore_same]
  exact if_pos hk

/-- The strand that issues has its core's turn (R20). -/
theorem turn_of_runner {s : State} {a : At} (h : runner s = some a) : (coreAt s a.c).turn = some a.x := by
  unfold runner at h
  split at h
  · next x hx =>
    dsimp only at h
    split at h
    · obtain rfl := Option.some.inj h
      exact hx
    · cases h
  · cases h

theorem turn_seen (s : State) (a : At) (c : Nat) : (coreAt (seen s a) c).turn = (coreAt s c).turn := by
  unfold seen
  by_cases h : c = a.c
  · subst h; rw [coreAt_onStrand_same]
  · rw [coreAt_onStrand_ne _ _ _ h]

/-- The store to a word on which a strand is parked, and the strand's wake (R193, R197). -/
theorem store_wakes {p : State} {a : At} {i : Nat} {d : BitVec 5} {n : BitVec 1} (hx : a.x < 4) (hs : (strandAt p a).status = .parked)
    (hon : (strandAt p a).parkedOn = some i) (hp : (nwAt p i).pending = false) (hk : (nwAt p i).parked = some (strandNo a))
    (hw : (strandAt p a).wait.map (·.arg) = some (d.toNat + 32 * n.toNat)) (v party : Nat) :
    (nwAt (notifyStore p i v party) i).pending = true ∧
    ∃ w, dueWake (notifyStore p i v party) a = some w ∧ (strandAt w a).status = .ready ∧ (nwAt w i).pending = false ∧
      (nwAt w i).parked = none ∧ (n = 0 → d ≠ 0 → gVal (strandAt w a) d.toNat = BitVec.ofNat 64 v) ∧
      ((strandAt p a).loop = none → (strandAt w a).pc = BitVec.ofNat 52 ((strandAt p a).pc.toNat + 4)) := by
  have hq := notifyStore_parked hk hp v party
  have hword : nwAt (notifyStore p i v party) i = { nwAt p i with val := v, pending := true, cycle := p.cycle + 1, party := party } := by
    rw [hq, nwAt_withWord]
  have hst : strandAt (notifyStore p i v party) a = strandAt p a := by rw [hq, strandAt_withWord]
  have hwake := dueWake_pending (s := notifyStore p i v party) hx (by rw [hst]; exact hs) (by rw [hst]; exact hon)
    (by rw [hword]) (by rw [hword]; exact hk)
  have hval : (nwAt (notifyStore p i v party) i).val = v := by rw [hword]
  rw [hval] at hwake
  obtain ⟨hreg, hpc⟩ := unparked_reads hw (BitVec.ofNat 64 v)
  refine ⟨by rw [hword], _, hwake, ?_, congrArg Notify.pending (nwAt_withWord _ i _), congrArg Notify.parked (nwAt_withWord _ i _), ?_, ?_⟩ <;>
    rw [strandAt_onStrand_same, strandAt_withWord, hst]
  · rfl
  · exact hreg
  · exact hpc

/-- Settles O31: the parked strand keeps its destination until the word is pending. -/
theorem parkAndWake : Obligations.ParkAndWake := by
  intro s a d n x hr hx hd u i cx h4096 hlo hhi hfree
  have body : ∃ body, exec (.park d n x) s = issue 4 s body ∧ body a u = parkNow u a d n i := by
    refine ⟨_, (show exec (.park d n x) s = execPark d n x s from rfl), ?_⟩
    have hrx : rd u a x = .ok (src u a x) := rd_ready hx
    simp only [hrx]
    rw [if_neg (Nat.not_le.mpr h4096), if_neg (show ¬(i < cx.nwrFirst ∨ cx.nwrFirst + cx.nwrCount ≤ i) by omega),
      if_neg (show ¬(nwAt u i).parked.isSome = true by rw [hfree]; decide)]
  obtain ⟨_, he, hb⟩ := body
  refine ⟨fun hp => ?_, fun hp hstop => ?_⟩
  · exact .of he hr (hb.trans (parkNow_pending hd hp)) (finish_park_pending u a d n i)
  · refine ⟨parkOn u a i d n, he.trans (issue_ok hr (hb.trans (parkNow_idle hd hp hstop))), ?_⟩
    have hst := strandAt_parkOn u a i d n
    obtain ⟨hpc, hloop, hpend, hwait⟩ := parked_pc i d n (strandAt u a)
    have hword := nwAt_parkOn u a i d n
    refine ⟨by rw [hst]; rfl, by rw [hword]; rfl, ?_, by rw [hst]; rfl, by rw [hst]; exact hpend, by rw [hst]; exact hpc, rfl,
      fun v party hx4 => ?_⟩
    · exact turn_parkOn u a i d n ((turn_seen s a a.c).trans (turn_of_runner hr))
    · rw [← hpc, ← hloop, ← hst]
      exact store_wakes hx4 (by rw [hst]; rfl) (by rw [hst]; rfl) (by rw [hword]; exact hp) (by rw [hword]) (by rw [hst]; exact hwait) v party

end Sys2Proof.Machine
end

section
/-! Taking a trap (R378 to R388). -/

namespace Sys2Proof.Machine

/-! ## What stopping a strand's entries leaves alone -/

/-- Two states that agree in memory, in contexts, jobs and the cycle, and in every strand but for its counts of tokens. -/
structure Quiet (s t : State) : Prop where
  mem : t.mem = s.mem
  ctxs : t.ctxs = s.ctxs
  jobs : t.jobs = s.jobs
  cycle : t.cycle = s.cycle
  strands : ∀ b, (strandAt t b).noTokens = (strandAt s b).noTokens

theorem Quiet.refl (s : State) : Quiet s s := ⟨rfl, rfl, rfl, rfl, fun _ => rfl⟩

theorem Quiet.trans {s t u : State} (h : Quiet s t) (h' : Quiet t u) : Quiet s u :=
  ⟨h'.mem.trans h.mem, h'.ctxs.trans h.ctxs, h'.jobs.trans h.jobs, h'.cycle.trans h.cycle, fun b => (h'.strands b).trans (h.strands b)⟩

theorem Quiet.onCore (s : State) (c : Nat) {f : Core → Core} (hf : ∀ k, (f k).strands = k.strands) : Quiet s (onCore s c f) :=
  ⟨rfl, rfl, rfl, rfl, fun b => by rw [strandAt_onCore s c hf]⟩

theorem Quiet.setQueue (s : State) (c q : Nat) (l : List Entry) : Quiet s (setQueue s c q l) :=
  .onCore s c (f := fun k => { k with queues := tabPut k.queues q l }) fun _ => rfl

theorem Quiet.setFifo (s : State) (c f : Nat) (l : List Nat) : Quiet s (setFifo s c f l) :=
  .onCore s c (f := fun k => { k with fifos := tabPut k.fifos f l }) fun _ => rfl

theorem Quiet.tokens (s : State) (a : At) {g : Strand → Strand} (hg : ∀ t, (g t).noTokens = t.noTokens) : Quiet s (onStrand s a g) := by
  refine ⟨rfl, rfl, rfl, rfl, fun b => ?_⟩
  by_cases h : b = a
  · subst h; rw [strandAt_onStrand_same, hg]
  · rw [strandAt_onStrand_ne s g h]

theorem Quiet.foldl {α : Type} {f : State → α → State} (hf : ∀ s x, Quiet s (f s x)) (l : List α) (s : State) : Quiet s (l.foldl f s) :=
  foldl_invariant (P := Quiet s) l (.refl s) fun t ht x _ => ht.trans (hf t x)

theorem Quiet.leaveStream (s : State) (c mask : Nat) : Quiet s (leaveStream s c mask) := by
  unfold Machine.leaveStream
  split
  · exact .refl s
  · refine (Quiet.onCore s c (f := fun k => { k with streamMask := k.streamMask / 2 ^ 48 * 2 ^ 48 }) fun _ => rfl).trans
      (.foldl (fun s j => ?_) _ _)
    exact .onCore s _ (f := fun k => _) fun _ => rfl

theorem Quiet.unbegin (s : State) (c : Nat) (e : Entry) : Quiet s (unbegin s c e) := by
  unfold Machine.unbegin
  split
  · exact .refl s
  · refine .foldl (fun s f => (Quiet.setFifo s c f _).trans (.tokens _ _ ?_)) _ _
    intro t; rfl

theorem Quiet.unbeginBehind (s : State) (c : Nat) (h : Entry) (t : List Entry) (p : Entry → Bool) :
    Quiet s (unbeginBehind s c h t p) :=
  (Quiet.foldl (fun s e => .unbegin s c e) _ s).trans (.setQueue _ _ _ _)

theorem Quiet.stopMatrix (s : State) (a : At) : Quiet s (stopMatrix s a) := by
  unfold Machine.stopMatrix
  split
  · split
    · split
      · exact (Quiet.unbeginBehind _ _ _ _ _).trans (.leaveStream _ _ _)
      · exact .refl s
    · split
      · exact .unbeginBehind _ _ _ _ _
      · exact .refl s
  · exact .refl s

theorem Quiet.clearEntries (s : State) (a : At) : Quiet s (clearEntries s a) := by
  refine .foldl (fun s q => ?_) _ s
  split
  · exact .setQueue _ _ _ _
  · exact .refl s

theorem Quiet.restoreTaken (s : State) (e : Entry) : Quiet s (restoreTaken s e) := ⟨rfl, rfl, rfl, rfl, fun _ => rfl⟩

theorem Quiet.withdrawIf (s : State) (a : At) (f : Alloc → Bool) : Quiet s (withdrawIf s a f) := ⟨rfl, rfl, rfl, rfl, fun _ => rfl⟩

theorem unpark_cores (s : State) (a : At) : (unpark s a).cores = s.cores := by
  unfold unpark
  dsimp only
  split <;> rfl

theorem Quiet.unpark (s : State) (a : At) : Quiet s (unpark s a) := by
  refine ⟨?_, ?_, ?_, ?_, fun b => by rw [strandAt_of_cores (unpark_cores s a)]⟩ <;>
    · unfold Machine.unpark
      dsimp only
      split <;> rfl

section
variable {s t : State} (h : Quiet s t)
include h

theorem Quiet.ctxOf (a : At) : ctxOf t a = ctxOf s a := by
  have hs := h.strands a
  have h1 : (strandAt t a).task = (strandAt s a).task := by
    have e : (strandAt t a).noTokens.task = (strandAt s a).noTokens.task := congrArg _ hs
    exact e
  have h2 : (strandAt t a).holder = (strandAt s a).holder := by
    have e : (strandAt t a).noTokens.holder = (strandAt s a).noTokens.holder := congrArg _ hs
    exact e
  unfold Machine.ctxOf jobOf jobAt
  rw [h1, h2, h.jobs]

theorem Quiet.saveArea (ctx c : Nat) : saveArea t ctx c = saveArea s ctx c := by
  unfold Machine.saveArea ctxAt
  rw [h.ctxs]

end

/-! ## Trap entry (R378 to R382) -/

/-- The state in which the entries of a strand whose trap is taken have stopped (R379). -/
def trapStopped (s : State) (a : At) : State :=
  let u := unpark (withdrawAt (onStrand s a landAll) a (strandAt s a).pc.toNat) a
  clearEntries ((cutEntries (stopMatrix u a) a).foldl restoreTaken (stopMatrix u a)) a

/-- The entries that a trap frame keeps (R383). -/
def trapEntries (s : State) (a : At) : List Entry :=
  (cutEntries (stopMatrix (unpark (withdrawAt (onStrand s a landAll) a (strandAt s a).pc.toNat) a) a) a).map forgetTaken

theorem trapStopped_quiet (s : State) (a : At) : Quiet (onStrand s a landAll) (trapStopped s a) :=
  ((((Quiet.withdrawIf _ _ _).trans (.unpark _ _)).trans (.stopMatrix _ _)).trans (.foldl (fun s e => .restoreTaken s e) _ _)).trans
    (.clearEntries _ _)

/-- The strand as its trap finds it: every exposed write has landed (R381). -/
theorem strandAt_trapUnparked (s : State) (a : At) :
    strandAt (unpark (withdrawAt (onStrand s a landAll) a (strandAt s a).pc.toNat) a) a = landAll (strandAt s a) := by
  rw [strandAt_of_cores (unpark_cores _ _)]
  exact strandAt_onStrand_same s a landAll

/-- Where a trap frame stands (R343, R382). -/
def trapFrameAt (s : State) (a : At) : Nat := saveArea s (ctxOf s a) a.c + frameOff a.x ((strandAt s a).tl + 1)

/-- The frame at va of a trap of cause pt that a strand t takes whose entries es have stopped (R382, R383). -/
def trapFrameOf (t : Strand) (es : List Entry) (va : Nat) (pt : PendTrap) : Frame :=
  let pc := match t.retPc with | some p => p | none => t.pc.toNat
  let targ : List Dword := [.ofNat 64 pt.cause.a0, .ofNat 64 pt.cause.a1, .ofNat 64 pt.cause.a2, .ofNat 64 va]
  let tcut := [0, 1, 2, 3].map (tabGet 0 t.done)
  { va := va, image := frameImage (frameHeader t pt pc (t.tl + 1) targ tcut es) es, drops := headerOffsets 256 es
    g := [1, 2, 3, 4].map (gVal t), p := (List.range 8).map (pVal t), lc := t.lc, loop := t.loop, entries := es
    tcause := pt.cause.code, tpc := pc, targ := targ, tcut := tcut }

/-- The frame of a trap of cause pt. -/
def trapFrame (s : State) (a : At) (pt : PendTrap) : Frame :=
  trapFrameOf (landAll (strandAt s a)) (trapEntries s a) (trapFrameAt s a) pt

/-- A strand that has taken a trap whose frame is fr (R378). -/
def trapped (fr : Frame) (cycle : Nat) (t : Strand) : Strand :=
  { t with
    tcause := fr.tcause
    tpc := fr.tpc
    targ := [(0, fr.targ.getD 0 0), (1, fr.targ.getD 1 0), (2, fr.targ.getD 2 0), (3, fr.targ.getD 3 0)]
    tcut := [(0, nth fr.tcut 0), (1, nth fr.tcut 1), (2, nth fr.tcut 2), (3, nth fr.tcut 3)]
    push := t.done
    tl := t.tl + 1
    frames := t.frames ++ [fr]
    y := [0, 0, 0, 0]
    loop := none
    wait := none
    grant := t.grant.filter (fun g => g.1 % 2 == 0)
    pendTrap := none
    repush := []
    retPc := none
    aside := []
    trapAt := some cycle
    bubble := 0
    evDue := false
    evTurn := false
    status := .running
    pc := BitVec.ofNat 52 t.tvec }

theorem landAll_keeps (t : Strand) : (landAll t).retPc = t.retPc ∧ (landAll t).pc = t.pc ∧ (landAll t).done = t.done ∧
    (landAll t).tl = t.tl ∧ (landAll t).loop = t.loop ∧ (landAll t).lc = t.lc ∧ (landAll t).frames = t.frames ∧
    (landAll t).tvec = t.tvec ∧ (landAll t).task = t.task ∧ (landAll t).holder = t.holder := by
  rw [landAll_rest]
  exact ⟨rfl, rfl, rfl, rfl, rfl, rfl, rfl, rfl, rfl, rfl⟩

theorem ctxOf_landAll (s : State) (a : At) : ctxOf (onStrand s a landAll) a = ctxOf s a := by
  obtain ⟨-, -, -, -, -, -, -, -, h1, h2⟩ := landAll_keeps (strandAt s a)
  unfold ctxOf jobOf
  rw [strandAt_onStrand_same, h1, h2]
  rfl

/-- The end of a trap's entry, in the state u in which its entries have stopped (R378). -/
def enterFrom (t : Strand) (es : List Entry) (u : State) (a : At) (pt : PendTrap) : State :=
  let fr := trapFrameOf t es (saveArea u (ctxOf u a) a.c + frameOff a.x (t.tl + 1)) pt
  onStrand (storeN u fr.va fr.image) a (trapped fr (storeN u fr.va fr.image).cycle)

theorem cycle_storeN (s : State) (l : Nat) (v : List Byte) : (storeN s l v).cycle = s.cycle := by
  rw [storeN_rest]

theorem enterTrap_eq (s : State) (a : At) (pt : PendTrap) : enterTrap s a pt =
    onStrand (storeN (trapStopped s a) (trapFrame s a pt).va (trapFrame s a pt).image) a (trapped (trapFrame s a pt) s.cycle) := by
  have hq := trapStopped_quiet s a
  obtain ⟨-, -, -, htl, -⟩ := landAll_keeps (strandAt s a)
  have hva : saveArea (trapStopped s a) (ctxOf (trapStopped s a) a) a.c + frameOff a.x ((landAll (strandAt s a)).tl + 1) =
      trapFrameAt s a := by
    rw [hq.ctxOf, hq.saveArea, ctxOf_landAll, htl]
    rfl
  have h : enterTrap s a pt = enterFrom
      (strandAt (unpark (withdrawAt (onStrand s a landAll) a (strandAt s a).pc.toNat) a) a) (trapEntries s a) (trapStopped s a) a pt := by
    unfold enterTrap enterFrom trapped trapFrameOf trapStopped trapEntries
    rfl
  rw [h, strandAt_trapUnparked, enterFrom]
  rw [hva, cycle_storeN, hq.cycle]
  rfl

/-- A strand in which entries alone have stopped is in what a trap sets as its own landing leaves it. -/
theorem trapped_quiet {fr : Frame} {c : Nat} {t u : Strand} (h : u.noTokens = t.noTokens) :
    (trapped fr c u).noTokens = (trapped fr c t).noTokens := by
  have comm : ∀ t : Strand, (trapped fr c t).noTokens = trapped fr c t.noTokens := fun _ => rfl
  rw [comm, comm, h]

/-- What two strands that agree but in their counts of tokens both have. -/
theorem read_noTokens {α : Type} {t u : Strand} (h : u.noTokens = t.noTokens) (f : Strand → α) (hf : ∀ t, f t.noTokens = f t) :
    f u = f t := by rw [← hf u, h, hf]

/-- Settles O24: the frame is written where the save area of the strand's context has its level. -/
theorem trapEntry : Obligations.TrapEntry := by
  intro s a pt hm htl htv hsb harea hbad hre t0 t u va
  have htake : t = enterTrap s a pt := by
    have hfails : frameFails s (ctxOf s a) a.c = none := by
      have hno : areaOutside s (ctxOf s a) a.c = false := decide_eq_false (by
        change ¬(0x9000000000 < (ctxAt s (ctxOf s a)).savebase + 2 ^ 21 * a.c + 2 ^ 21)
        omega)
      simp only [frameFails, hno, hbad, Bool.false_eq_true, if_false]
    simp only [t, takeTrap, hre, Bool.false_eq_true, if_false]
    rw [if_neg (by omega), if_neg htv, if_neg hsb, hfails]
  have hq := trapStopped_quiet s a
  obtain ⟨h1, h2, h3, h4, h5, h6, h7, h8, -, -⟩ := landAll_keeps t0
  have hva : (trapFrame s a pt).va = va := by
    change trapFrameAt s a = va
    unfold trapFrameAt saveArea frameOff
    rfl
  have hu : u.noTokens = (trapped (trapFrame s a pt) s.cycle (landAll t0)).noTokens := by
    have hs := hq.strands a
    rw [strandAt_onStrand_same] at hs
    have e : u = trapped (trapFrame s a pt) s.cycle (strandAt (trapStopped s a) a) := by
      simp only [u, htake, enterTrap_eq, strandAt_onStrand_same, strandAt_storeN]
    rw [e]
    exact trapped_quiet hs
  have hmem : t.mem = (storeN (trapStopped s a) va (trapFrame s a pt).image).mem := by rw [htake, enterTrap_eq, hva, onStrand_mem]
  have hok : (trapStopped s a).mem.wf = true := by rw [hq.mem]; exact hm
  have hread {α : Type} (f : Strand → α) (hf : ∀ t, f t.noTokens = f t) : f u = f (trapped (trapFrame s a pt) s.cycle (landAll t0)) :=
    read_noTokens hu f hf
  have htcut : (trapFrame s a pt).tcut = [0, 1, 2, 3].map (tabGet 0 t0.done) := by
    rw [← h3]; rfl
  refine ⟨hread (·.tcause) fun _ => rfl, ?_, ?_, ?_, ?_, ?_, fun q hq4 => ?_, ?_, ?_, hread (·.y) fun _ => rfl,
    hread (·.loop) fun _ => rfl, ?_, hread (·.wait) fun _ => rfl, hread (·.pendTrap) fun _ => rfl, ?_, hread (·.trapAt) fun _ => rfl,
    hread (·.status) fun _ => rfl, trapFrame s a pt, ?_, hva, h5, h6, ?_, fun x hx => ?_⟩
  · refine (hread (·.tpc) fun _ => rfl).trans ?_
    change (match (landAll t0).retPc with | some p => p | none => (landAll t0).pc.toNat) = _
    rw [h1, h2]
    cases t0.retPc <;> rfl
  · exact hread (fun t => tabGet 0 t.targ 0) fun _ => rfl
  · exact hread (fun t => tabGet 0 t.targ 1) fun _ => rfl
  · exact hread (fun t => tabGet 0 t.targ 2) fun _ => rfl
  · refine (hread (fun t => tabGet 0 t.targ 3) fun _ => rfl).trans ?_
    rw [← hva]; rfl
  · refine (hread (fun t => tabGet 0 t.tcut q) fun _ => rfl).trans ?_
    change tabGet 0 [(0, nth (trapFrame s a pt).tcut 0), (1, nth (trapFrame s a pt).tcut 1), (2, nth (trapFrame s a pt).tcut 2),
      (3, nth (trapFrame s a pt).tcut 3)] q = _
    rw [htcut]
    interval_cases q <;> rfl
  · exact (hread (·.push) fun _ => rfl).trans h3
  · exact (hread (·.tl) fun _ => rfl).trans (congrArg (· + 1) h4)
  · exact (hread (·.pc) fun _ => rfl).trans (congrArg (BitVec.ofNat 52) h8)
  · exact (hread (·.pend) fun _ => rfl).trans (landAll_pend t0)
  · exact (hread (·.frames) fun _ => rfl).trans (congrArg (· ++ [trapFrame s a pt]) h7)
  · unfold loadN
    rw [hmem]
    exact loadN_storeN hok va _
  · rw [hmem, storeN_read hok, if_neg (by omega), hq.mem]
    rfl

end Sys2Proof.Machine
end

section
/-! Causes that become traps (R381, R388), the trap instruction, and traps that end their task. -/

namespace Sys2Proof.Machine

/-! ## A cause that waits for its trap -/

/-- A strand for which a trap is due (R379). -/
def pendingTrap (pt : PendTrap) (t : Strand) : Strand := { t with pendTrap := some pt }

/-- A change of a strand is what it makes of that strand. -/
theorem onStrand_congr {s : State} {a : At} {f g : Strand → Strand} (h : f (strandAt s a) = g (strandAt s a)) :
    onStrand s a f = onStrand s a g := by
  simp only [onStrand, onCore, setCore]
  unfold strandAt at h
  rw [h]

theorem readyForTrap_up {s : State} {a : At} (pt : PendTrap) (h : (strandAt s a).status ≠ .parked) :
    readyForTrap s a pt = onStrand s a (pendingTrap pt) := by
  unfold readyForTrap
  dsimp only
  rw [if_neg h]
  exact onStrand_congr (if_neg h)

/-- A strand that was parked and has a trap due (R381). -/
def wokenByTrap (pt : PendTrap) (t : Strand) : Strand := { t with pendTrap := some pt, status := .ready, wait := none }

theorem readyForTrap_parked {s : State} {a : At} (pt : PendTrap) (h : (strandAt s a).status = .parked) :
    readyForTrap s a pt = onStrand (unpark s a) a (wokenByTrap pt) := by
  unfold readyForTrap
  dsimp only
  rw [if_pos h]
  refine onStrand_congr (if_pos ?_)
  rw [strandAt_of_cores (unpark_cores s a)]
  exact h

theorem pendOrTake_eq {s : State} {a : At} {pt : PendTrap} (hstop : (strandAt s a).atStop = false)
    (hpend : (strandAt s a).pendTrap = none) : pendOrTake s a pt =
      if mayTrap (readyForTrap s a pt) a pt && trapReady (readyForTrap s a pt) a pt then takeTrap (readyForTrap s a pt) a pt
      else readyForTrap s a pt := by
  have hf : firstTrap (strandAt s a) pt = pt := by simp only [firstTrap, hpend]
  unfold pendOrTake
  rw [hstop, hf]
  rfl

theorem rerunsFor_soft {t : Strand} {pt : PendTrap} (h : isHardware pt.cause.code = false) : rerunsFor t pt = false := by
  simp only [rerunsFor, h, Bool.false_and]

theorem trapReady_soft {s : State} {a : At} {pt : PendTrap} (h : isHardware pt.cause.code = false) : trapReady s a pt = true ↔
    stopReady s a = true ∧ (entersTrap s a = true ∨ remotesDone s a = true) := by
  simp only [trapReady, rerunsFor_soft h, Bool.not_false, Bool.and_true, Bool.and_eq_true, Bool.or_eq_true]

/-- A strand that runs or waits may trap once in a cycle (R381, R388). -/
theorem mayTrap_due {u : State} {a : At} {pt : PendTrap} (hst : (strandAt u a).atStop = false) (hat : (strandAt u a).trapAt ≠ some u.cycle)
    (heng : pt.eng = false)
    (h : (strandAt u a).status = .running ∨ (strandAt u a).status = .waiting ∧ jobRuns u (jobOf u a) = true) : mayTrap u a pt = true := by
  have hne : ((strandAt u a).trapAt != some u.cycle) = true := bne_iff_ne.mpr hat
  rcases h with h | ⟨h, hj⟩
  · simp [mayTrap, hst, hne, h, heng]
  · simp [jobRuns] at hj
    simp [mayTrap, hst, hne, h, hj]

theorem mayTrap_idle {u : State} {a : At} {pt : PendTrap} (h : (strandAt u a).status = .ready)
    (hre : rerunsFor (strandAt u a) pt = false) : mayTrap u a pt = false := by
  simp [mayTrap, h, hre]

/-! ## A trap that is due changes only what is due -/

section
variable (s : State) (a : At) (pt : PendTrap)

theorem jobOf_pendingTrap : jobOf (onStrand s a (pendingTrap pt)) a = jobOf s a := by
  unfold jobOf
  rw [strandAt_onStrand_same]
  rfl

theorem ctxOf_pendingTrap : ctxOf (onStrand s a (pendingTrap pt)) a = ctxOf s a := by
  unfold ctxOf
  rw [jobOf_pendingTrap]
  rfl

theorem queuedEntries_pendingTrap : queuedEntries (onStrand s a (pendingTrap pt)) a = queuedEntries s a := by
  unfold queuedEntries
  exact congrArg (fun q => ([0, 1, 2, 3].flatMap q).filter (fun e => e.sx == a.x)) (funext fun q => queueAt_onStrand s a _ a.c q)

theorem entersTrap_pendingTrap : entersTrap (onStrand s a (pendingTrap pt)) a = entersTrap s a := by
  have hbad : (coreAt (onStrand s a (pendingTrap pt)) a.c).frameBad = (coreAt s a.c).frameBad := by rw [coreAt_onStrand_same]
  unfold entersTrap
  rw [ctxOf_pendingTrap, strandAt_onStrand_same]
  simp only [frameFails, hbad]
  rfl

variable {s a pt} (hp : (strandAt s a).pendTrap = none) (he : pt.eng = false)
include hp he

/-- The trap of an instruction lets no entry run before it (R380). -/
theorem stopReady_pendingTrap : stopReady (onStrand s a (pendingTrap pt)) a = stopReady s a := by
  have hbefore (e : Entry) : beforeFault (pendingTrap pt (strandAt s a)) e = beforeFault (strandAt s a) e := by
    simp only [beforeFault, hp, Option.any_none]
    simp only [pendingTrap, Option.any_some, he, Bool.false_and]
  have hhead (e : Entry) : atHead (onStrand s a (pendingTrap pt)) a.c e = atHead s a.c e := by
    simp only [atHead, queueAt_onStrand]
  unfold stopReady
  rw [queuedEntries_pendingTrap, strandAt_onStrand_same]
  simp only [hbefore, hhead]
  rfl

end

/-- The trap of an instruction of a strand that has its turn (R381, R388). -/
theorem pendOrTake_turn {s : State} {a : At} {pt : PendTrap} (hsoft : isHardware pt.cause.code = false) (heng : pt.eng = false)
    (hstop : (strandAt s a).atStop = false) (hpend : (strandAt s a).pendTrap = none) (hat : (strandAt s a).trapAt ≠ some s.cycle)
    (h : (strandAt s a).status = .running ∨ (strandAt s a).status = .waiting ∧ jobRuns s (jobOf s a) = true) :
    let due := onStrand s a (pendingTrap pt)
    let ready := stopReady due a = true ∧ (entersTrap due a = true ∨ remotesDone due a = true)
    (ready → pendOrTake s a pt = takeTrap due a pt) ∧ (¬ready → pendOrTake s a pt = due) := by
  intro due ready
  have hup : readyForTrap s a pt = due := readyForTrap_up pt (by rcases h with h | ⟨h, -⟩ <;> rw [h] <;> decide)
  have hmay : mayTrap due a pt = true := by
    have hs : strandAt due a = pendingTrap pt (strandAt s a) := strandAt_onStrand_same s a _
    refine mayTrap_due (by rw [hs]; exact hstop) (by rw [hs]; exact hat) heng ?_
    rw [hs, jobOf_pendingTrap]
    exact h
  rw [pendOrTake_eq hstop hpend, hup, hmay, Bool.true_and]
  exact ⟨fun hr => if_pos ((trapReady_soft hsoft).mpr hr), fun hr => if_neg fun h => hr ((trapReady_soft hsoft).mp h)⟩

theorem signalTrap_soft {s : State} {a : At} {pt : PendTrap} (hsoft : isHardware pt.cause.code = false) (h : pt.cause.code ≠ 0xBD) :
    signalTrap s a pt = pendOrTake s a pt := by
  unfold signalTrap
  simp only [hsoft, Bool.false_eq_true, if_false, if_neg h]

theorem isHardware_false {n : Nat} (h : ¬(0xC0 ≤ n ∧ n ≤ 0xC6)) : isHardware n = false := by
  unfold isHardware
  rw [← Bool.decide_and]
  exact decide_eq_false h

/-! ## A trap that cannot be taken ends its task (R378, R387, R444) -/

section
variable {s : State} {a : At} {pt : PendTrap} (hre : rerunsFor (strandAt s a) pt = false)
include hre

theorem takeTrap_deep (h : (strandAt s a).tl = 2) : takeTrap s a pt = endByCause s a 0x80 := by
  simp only [takeTrap, hre, Bool.false_eq_true, if_false, if_pos h]

variable (h : (strandAt s a).tl ≠ 2)
include h

theorem takeTrap_noVector (hv : (strandAt s a).tvec = 0) : takeTrap s a pt = endByCause s a 0x9E := by
  simp only [takeTrap, hre, Bool.false_eq_true, if_false, if_neg h, if_pos hv]

variable (hv : (strandAt s a).tvec ≠ 0)
include hv

theorem takeTrap_noArea (hb : (ctxAt s (ctxOf s a)).savebase = 0) : takeTrap s a pt = endByCause s a 0x98 := by
  simp only [takeTrap, hre, Bool.false_eq_true, if_false, if_neg h, if_neg hv, if_pos hb]

theorem takeTrap_noFrame (hb : (ctxAt s (ctxOf s a)).savebase ≠ 0) {code : Nat} (hf : frameFails s (ctxOf s a) a.c = some code) :
    takeTrap s a pt = endWith (onCore s a.c (fun k => { k with frameBad := false })) a code 2
      ((ctxAt s (ctxOf s a)).savebase + 2 ^ 21 * a.c + 0x180000 + 0x10000 * (2 * a.x + (strandAt s a).tl)) := by
  have hat : saveArea s (ctxOf s a) a.c + frameOff a.x ((strandAt s a).tl + 1) =
      (ctxAt s (ctxOf s a)).savebase + 2 ^ 21 * a.c + 0x180000 + 0x10000 * (2 * a.x + (strandAt s a).tl) := by
    unfold saveArea frameOff
    omega
  rw [← hat]
  simp only [takeTrap, hre, Bool.false_eq_true, if_false, if_neg h, if_neg hv, if_neg hb, hf]
  rfl

end

theorem frameFails_outside {s : State} {ctx c : Nat} (h : 0x9000000000 < (ctxAt s ctx).savebase + 2 ^ 21 * c + 2 ^ 21) :
    frameFails s ctx c = some 0x99 := if_pos (decide_eq_true h)

theorem frameFails_bad {s : State} {ctx c : Nat} (h : (ctxAt s ctx).savebase + 2 ^ 21 * c + 2 ^ 21 ≤ 0x9000000000)
    (hb : (coreAt s c).frameBad = true) : frameFails s ctx c = some 0x9A := by
  have hno : areaOutside s ctx c = false := decide_eq_false (Nat.not_lt.mpr h)
  simp only [frameFails, hno, hb, Bool.false_eq_true, if_false, if_true]

/-- A strand behind a TRAP (R186). -/
def pastTrap (t : Strand) : Strand := { t with pc := t.pc + 4, wait := none }

theorem status_seen_of_runner {s : State} {a : At} (h : runner s = some a) :
    (strandAt (seen s a) a).status = .running ∨ (strandAt (seen s a) a).status = .waiting := by
  have hst : (strandAt (seen s a) a).status = (strandAt s a).status := by
    unfold seen
    rw [strandAt_onStrand_same, landSlot_eq]
  rw [hst]
  unfold runner at h
  split at h
  · dsimp only at h
    split at h
    · next hs =>
      obtain rfl := Option.some.inj h
      exact hs
    · cases h
  · cases h

/-- Settles O25: a cause is held until its strand has its turn and its entries may stop, and then taken. -/
theorem trapCauses : Obligations.TrapCauses := by
  refine ⟨fun s a c hc hstop hpend hat => ?_, fun s a c h1 h2 => ⟨?_, ?_⟩, fun s a x hr hx => ?_, fun s a pt => ⟨fun k hk ht => ?_, fun hre => ?_⟩⟩
  · have hsoft : isHardware c.code = false := isHardware_false hc
    have hsig (hbd : c.code ≠ 0xBD) : signalTrap s a (ccTrap s a c) = pendOrTake s a (ccTrap s a c) := signalTrap_soft hsoft hbd
    refine ⟨rfl, rfl, fun hbd => ⟨fun h => ?_, fun h => ?_, fun h => ?_⟩, fun hbd => ?_⟩
    · obtain ⟨htake, hhold⟩ := pendOrTake_turn (pt := ccTrap s a c) hsoft rfl hstop hpend hat h
      rw [stopReady_pendingTrap hpend rfl, entersTrap_pendingTrap] at htake hhold
      exact ⟨fun hr => (hsig hbd).trans (htake hr), fun hr => (hsig hbd).trans (hhold hr)⟩
    · have hs : strandAt (onStrand s a (pendingTrap (ccTrap s a c))) a = _ := strandAt_onStrand_same s a _
      have hup : readyForTrap s a (ccTrap s a c) = _ := readyForTrap_up _ (by rw [h]; decide)
      have hidle := mayTrap_idle (pt := ccTrap s a c) (by rw [hs]; exact h) (rerunsFor_soft hsoft)
      rw [hsig hbd, pendOrTake_eq hstop hpend, hup, hidle]
      exact if_neg (by simp)
    · have hs : strandAt (onStrand (unpark s a) a (wokenByTrap (ccTrap s a c))) a = wokenByTrap (ccTrap s a c) (strandAt s a) := by
        rw [strandAt_onStrand_same, strandAt_of_cores (unpark_cores s a)]
      have hidle := mayTrap_idle (pt := ccTrap s a c) (by rw [hs]; rfl) (rerunsFor_soft hsoft)
      have ht : signalTrap s a (ccTrap s a c) = onStrand (unpark s a) a (wokenByTrap (ccTrap s a c)) := by
        rw [hsig hbd, pendOrTake_eq hstop hpend, readyForTrap_parked _ h, hidle]
        exact if_neg (by simp)
      rw [ht]
      exact ⟨Alone.strand _ a _, hs⟩
    · unfold signalTrap
      simp only [ccTrap, hsoft, Bool.false_eq_true, if_false]
      rw [if_pos hbd]
  · have hhard : isHardware c.code = true := by simp [isHardware, h1, h2]
    unfold signalTrap
    simp only [ccTrap, hhard, if_true]
  · have hhard : isHardware c.code = true := by simp [isHardware, h1, h2]
    simp only [ccTrap, hhard, if_true]
  · intro v hstop hpend hat hrun
    refine ⟨ccTrap v a ⟨0x1F, (src v a x).toNat, 0, 0⟩, rfl, rfl, ?_⟩
    have hs : strandAt (onStrand v a pastTrap) a = pastTrap (strandAt v a) := strandAt_onStrand_same v a _
    have hj : jobOf (onStrand v a pastTrap) a = jobOf v a := by
      unfold jobOf
      rw [hs]
      rfl
    have hst : (strandAt v a).status = .running ∨ (strandAt v a).status = .waiting ∧ jobRuns v (jobOf v a) = true :=
      (status_seen_of_runner hr).imp_right fun h => ⟨h, hrun.resolve_left fun h' => by rw [h] at h'; cases h'⟩
    obtain ⟨htake, hhold⟩ := pendOrTake_turn (s := onStrand v a pastTrap) (a := a) (pt := ccTrap v a ⟨0x1F, (src v a x).toNat, 0, 0⟩) rfl rfl
      (by rw [hs]; exact hstop) (by rw [hs]; exact hpend) (by rw [hs]; exact hat) (by rw [hs, hj]; exact hst)
    have hx' : rd (seen s a) a x = .ok (src v a x) := rd_ready hx
    have hsig : signalTrap (onStrand v a pastTrap) a (ccTrap v a ⟨0x1F, (src v a x).toNat, 0, 0⟩) =
        pendOrTake (onStrand v a pastTrap) a (ccTrap v a ⟨0x1F, (src v a x).toNat, 0, 0⟩) := signalTrap_soft rfl (by decide : 0x1F ≠ 0xBD)
    have he : exec (.trap x) s = .next (pendOrTake (onStrand v a pastTrap) a (ccTrap v a ⟨0x1F, (src v a x).toNat, 0, 0⟩)) := by
      rw [← hsig]
      refine (show exec (.trap x) s = execTrap x s from rfl).trans
        (issue_ok hr (d := ⟨signalTrap (onStrand v a pastTrap) a (ccTrap v a ⟨0x1F, (src v a x).toNat, 0, 0⟩), 0, .own⟩) ?_)
      simp only [hx']
      all_goals rfl
    exact ⟨fun h => he.trans (congrArg _ (htake h)), fun h => he.trans (congrArg _ (hhold h))⟩
  · simp only [takeTrap, hk, if_true, ht]
  · refine ⟨takeTrap_deep hre, takeTrap_noVector hre, takeTrap_noArea hre, fun h hv hb => ⟨fun ho => ?_, fun ho hbad => ?_⟩⟩
    · exact takeTrap_noFrame hre h hv hb (frameFails_outside (by omega))
    · exact takeTrap_noFrame hre h hv hb (frameFails_bad (by omega) hbad)

end Sys2Proof.Machine
end

section
/-! Delivery of an event and the return from it (R187, R313). -/

namespace Sys2Proof.Machine

/-- A register file with g1 to g4 set from a list. -/
def setG14 (l : List Dword) (g : Tab Dword) : Tab Dword := (List.range 4).foldl (fun g i => tabPut g (i + 1) (l.getD i 0)) g

theorem tabGet_setG14_low (l : List Dword) (g : Tab Dword) {r : Nat} (h : r < 4) : tabGet 0 (setG14 l g) (r + 1) = l.getD r 0 := by
  change tabGet 0 (tabPut (tabPut (tabPut (tabPut g 1 (l.getD 0 0)) 2 (l.getD 1 0)) 3 (l.getD 2 0)) 4 (l.getD 3 0)) (r + 1) = _
  obtain rfl | rfl | rfl | rfl : r = 0 ∨ r = 1 ∨ r = 2 ∨ r = 3 := by omega
  · rw [tabGet_put_ne _ _ _ (by decide), tabGet_put_ne _ _ _ (by decide), tabGet_put_ne _ _ _ (by decide), tabGet_put_same]
  · rw [tabGet_put_ne _ _ _ (by decide), tabGet_put_ne _ _ _ (by decide), tabGet_put_same]
  · rw [tabGet_put_ne _ _ _ (by decide), tabGet_put_same]
  · rw [tabGet_put_same]

theorem tabGet_setG14_high (l : List Dword) (g : Tab Dword) {r : Nat} (h : 4 < r) : tabGet 0 (setG14 l g) r = tabGet 0 g r := by
  change tabGet 0 (tabPut (tabPut (tabPut (tabPut g 1 (l.getD 0 0)) 2 (l.getD 1 0)) 3 (l.getD 2 0)) 4 (l.getD 3 0)) r = _
  rw [tabGet_put_ne _ _ _ (by omega), tabGet_put_ne _ _ _ (by omega), tabGet_put_ne _ _ _ (by omega), tabGet_put_ne _ _ _ (by omega)]

/-- g1 to g4 set in an instruction's own slot: nothing but the registers and the writes to them changes (R144, R187). -/
theorem putG14_eq (l : List Dword) (t : Strand) : putG14 l t = { t with g := setG14 l t.g, pend := (putG14 l t).pend } := rfl

theorem g14Busy_true {t : Strand} : g14Busy t = true ↔ ∃ r, 1 ≤ r ∧ r ≤ 4 ∧ gBusy t r = true := by
  unfold g14Busy
  rw [List.any_eq_true]
  refine ⟨fun ⟨i, hi, h⟩ => ⟨i + 1, by omega, by have := List.mem_range.mp hi; omega, h⟩, fun ⟨r, h1, h4, h⟩ => ⟨r - 1, List.mem_range.mpr (by omega), ?_⟩⟩
  rw [Nat.sub_add_cancel h1]
  exact h

theorem g14Busy_false {t : Strand} (h : ∀ r, 1 ≤ r → r ≤ 4 → gBusy t r = false) : g14Busy t = false := by
  rw [← Bool.not_eq_true, g14Busy_true]
  rintro ⟨r, h1, h4, hb⟩
  rw [h r h1 h4] at hb
  cases hb

/-! ## Delivery (R313) -/

theorem eventDelivery_due {s : State} {c x : Nat} {e : Event} {rest : List Event} (hq : (strandAt s ⟨c, x⟩).evq = e :: rest)
    (hd : mayDeliver (strandAt s ⟨c, x⟩) = true) (hj : jobRuns s (jobOf s ⟨c, x⟩) = true) : exec (.eventDelivery c x) s =
      if (strandAt s ⟨c, x⟩).evec = 0 then
        .next (signalTrap s ⟨c, x⟩ { ccTrap s ⟨c, x⟩ ⟨0x83, (strandAt s ⟨c, x⟩).pc.toNat, 0, 0⟩ with cls := 2 })
      else .next (onStrand (unpark s ⟨c, x⟩) ⟨c, x⟩ (deliver e rest)) := by
  change execEventDelivery c x s = _
  simp only [execEventDelivery, hq, hd, hj]
  rfl

/-- What a strand finds in its registers and its event slot at EVEC (R64, R313). -/
theorem deliver_reads (e : Event) (rest : List Event) (t : Strand) :
    (∀ r, r < 4 → gVal (deliver e rest t) (r + 1) = (eventWords e).getD r 0) ∧
    (∀ r, (r = 0 ∨ 4 < r) → gVal (deliver e rest t) r = gVal (landAll t) r) ∧
    (deliver e rest t).evslot = some ⟨t.pc.toNat, [1, 2, 3, 4].map (gVal (landAll t)), t.lc, t.loop⟩ := by
  obtain ⟨-, hpc, -, -, hloop, hlc, -⟩ := landAll_keeps t
  have hg : (deliver e rest t).g = setG14 (eventWords e) (landAll t).g := rfl
  refine ⟨fun r hr => ?_, fun r hr => ?_, ?_⟩
  · unfold gVal
    rw [if_neg (Nat.succ_ne_zero r), hg]
    exact tabGet_setG14_low _ _ hr
  · unfold gVal
    rcases hr with rfl | hr
    · rfl
    · rw [if_neg (by omega), if_neg (by omega), hg]
      exact tabGet_setG14_high _ _ hr
  · rw [← hpc, ← hloop, ← hlc]
    rfl

/-- A strand goes on at EVEC (R313). -/
theorem deliver_rest (e : Event) (rest : List Event) (t : Strand) :
    (deliver e rest t).evq = rest ∧ (deliver e rest t).pc = BitVec.ofNat 52 t.evec ∧ (deliver e rest t).y = [0, 0, 0, 0] ∧
    (deliver e rest t).loop = none ∧ (deliver e rest t).wait = none ∧ (deliver e rest t).pend = [] := by
  refine ⟨rfl, ?_, rfl, rfl, rfl, landAll_pend t⟩
  change BitVec.ofNat 52 (landAll t).evec = _
  rw [landAll_rest]

theorem eventFlags_eq (e : Event) : place e.etype 32 8 + place e.src 4 4 + place e.psz 2 2 + b2n e.wr * 2 =
    e.etype % 256 * 2 ^ 32 + e.src % 16 * 2 ^ 4 + e.psz % 4 * 2 ^ 2 + (if e.wr then 2 else 0) := by
  have hw : b2n e.wr * 2 = if e.wr then 2 else 0 := by cases e.wr <;> rfl
  rw [hw]
  rfl

/-- A delivery touches only its strand (R313). -/
theorem delivered (s : State) (a : At) (e : Event) (rest : List Event) :
    let t0 := strandAt s a
    let t := onStrand (unpark s a) a (deliver e rest)
    (strandAt t a).evq = rest ∧ (strandAt t a).pc = BitVec.ofNat 52 t0.evec ∧ (strandAt t a).y = [0, 0, 0, 0] ∧
    (strandAt t a).loop = none ∧ (strandAt t a).wait = none ∧ (strandAt t a).pend = [] ∧
    gVal (strandAt t a) 1 = BitVec.ofNat 64 e.va ∧ gVal (strandAt t a) 2 = BitVec.ofNat 64 (e.etype % 256 * 2 ^ 32 +
      e.src % 16 * 2 ^ 4 + e.psz % 4 * 2 ^ 2 + (if e.wr then 2 else 0)) ∧
    gVal (strandAt t a) 3 = BitVec.ofNat 64 (e.seq % 2 ^ 32) ∧ gVal (strandAt t a) 4 = 0 ∧
    (∀ r, (r = 0 ∨ 4 < r) → gVal (strandAt t a) r = gVal (landAll t0) r) ∧
    (∃ l, (strandAt t a).evslot = some l ∧ l.pc = t0.pc.toNat ∧ l.lc = t0.lc ∧ l.loop = t0.loop ∧
      l.g = [1, 2, 3, 4].map (gVal (landAll t0))) ∧
    t.mem = s.mem ∧ t.jobs = s.jobs ∧ ∀ b : At, b ≠ a → strandAt t b = strandAt s b := by
  intro t0 t
  obtain ⟨hlow, hhigh, hslot⟩ := deliver_reads e rest t0
  have hs : strandAt t a = deliver e rest t0 := by
    simp only [t, t0, strandAt_onStrand_same, strandAt_of_cores (unpark_cores s a)]
  have hquiet := Quiet.unpark s a
  rw [hs]
  obtain ⟨h1, h2, h3, h4, h5, h6⟩ := deliver_rest e rest t0
  refine ⟨h1, h2, h3, h4, h5, h6, hlow 0 (by decide), ?_, hlow 2 (by decide), hlow 3 (by decide), hhigh, ⟨_, hslot, rfl, rfl, rfl, rfl⟩,
    hquiet.mem, hquiet.jobs, fun b hb => ?_⟩
  · rw [← eventFlags_eq]
    exact hlow 1 (by decide)
  · simp only [t, strandAt_onStrand_ne _ _ hb, strandAt_of_cores (unpark_cores s a)]

/-! ## The return (R187, R313) -/

/-- A strand that has gone back to where its event was delivered (R313). -/
def returned (e : EvSlot) (t : Strand) : Strand :=
  { putG14 e.g t with
    pc := BitVec.ofNat 52 e.pc
    lc := e.lc, loop := e.loop, evslot := none, y := [0, 0, 0, 0], slot := t.slot + 1, wait := none
    status := .running }

theorem returned_reads (e : EvSlot) (t : Strand) :
    (∀ r, r < 4 → gVal (returned e t) (r + 1) = e.g.getD r 0) ∧ (∀ r, 4 < r → gVal (returned e t) r = gVal t r) := by
  have hg : (returned e t).g = setG14 e.g t.g := congrArg Strand.g (putG14_eq e.g t)
  refine ⟨fun r hr => ?_, fun r hr => ?_⟩
  · unfold gVal
    rw [if_neg (Nat.succ_ne_zero r), hg]
    exact tabGet_setG14_low _ _ hr
  · unfold gVal
    rw [if_neg (by omega), if_neg (by omega), hg]
    exact tabGet_setG14_high _ _ hr

theorem returned_eq (e : EvSlot) (t : Strand) : returned e t = { t with
    g := setG14 e.g t.g, pend := (putG14 e.g t).pend, pc := BitVec.ofNat 52 e.pc, lc := e.lc, loop := e.loop, evslot := none
    y := [0, 0, 0, 0], slot := t.slot + 1, wait := none, status := .running } := by
  unfold returned
  rw [putG14_eq]

theorem returned_rest (e : EvSlot) (t : Strand) :
    (returned e t).pc = BitVec.ofNat 52 e.pc ∧ (returned e t).lc = e.lc ∧ (returned e t).loop = e.loop ∧
    (returned e t).evslot = none ∧ (returned e t).y = [0, 0, 0, 0] ∧
    { (returned e t).still.noG with evslot := none } = { t.still.noG with evslot := none } := by
  rw [returned_eq]
  exact ⟨rfl, rfl, rfl, rfl, rfl, rfl⟩

/-- Settles O27: an event is delivered to a strand that takes it, and EVRET undoes what the delivery has done. -/
theorem eventsOfStrands : Obligations.EventsOfStrands := by
  refine ⟨?_, ?_⟩
  · intro s c x e rest a t0 hq hd hj
    have hx := eventDelivery_due hq hd hj
    exact ⟨fun hv => ⟨_, hx.trans (if_neg hv), delivered s a e rest⟩, fun hv => ⟨_, hx.trans (if_pos hv), _, rfl, rfl⟩⟩
  · intro s a hr t0
    refine ⟨fun he => ?_, fun e he hb => ?_, fun e he hb => ?_⟩
    · refine (show exec .evret s = execEvret s from rfl).trans (issue_trap hr ?_)
      simp only [t0] at he
      simp only [he]
      rfl
    · refine (show exec .evret s = execEvret s from rfl).trans (issue_wait hr ?_)
      simp only [t0] at he hb
      simp only [he, g14Busy_true.mpr hb, if_true]
      rfl
    · refine .of (show exec .evret s = execEvret s from rfl) hr (d := ⟨onStrand (seen s a) a (returned e), 0, .own⟩) ?_
        ⟨Alone.strand _ a _, ?_⟩
      · simp only [t0] at he hb
        simp only [he, g14Busy_false hb]
        rfl
      · have hs : strandAt (onStrand (seen s a) a (returned e)) a = returned e t0 := strandAt_onStrand_same _ a _
        obtain ⟨hlow, hhigh⟩ := returned_reads e t0
        obtain ⟨h1, h2, h3, h4, h5, h6⟩ := returned_rest e t0
        dsimp only [finish]
        rw [hs]
        exact ⟨h1, hlow, hhigh, h2, h3, h4, h5, h6⟩

end Sys2Proof.Machine
end

section
/-! TINFO and TVER (R95, R277, R284). -/

namespace Sys2Proof.Machine

section
variable {s : State} {a : At} {d : BitVec 5} {n : BitVec 1} {x : BitVec 6} (hr : runner s = some a) (hx : srcReady (seen s a) a x)
include hr hx

theorem tinfo_trap (hf : hForm (src (seen s a) a x).toNat = false) : exec (.tinfo d n x) s =
    .next (signalTrap (seen s a) a (ccTrap (seen s a) a ⟨0x4E, (src (seen s a) a x).toNat, 0, 0⟩)) := by
  have hrd : rd (seen s a) a x = .ok (src (seen s a) a x) := rd_ready hx
  refine (show exec (.tinfo d n x) s = execTinfo d n x s from rfl).trans (issue_trap hr ?_)
  simp only [hrd, hf]
  rfl

variable (hd : dstReady (seen s a) a d n) (hq : unitQuiet (seen s a) a (unitOf a.c (src (seen s a) a x).toNat) = true)
include hd hq

theorem tinfo_gives (hf : hForm (src (seen s a) a x).toNat = true) {v : Nat}
    (hv : tileState (seen s a) (unitOf a.c (src (seen s a) a x).toNat) (ctxOf (seen s a) a) (src (seen s a) a x).toNat = v) :
    Runs (.tinfo d n x) s (fun t => DoneG 4 (seen s a) t a d n (BitVec.ofNat 64 v) 0) := by
  have hrd : rd (seen s a) a x = .ok (src (seen s a) a x) := rd_ready hx
  refine .of (show exec (.tinfo d n x) s = execTinfo d n x s from rfl) hr (d := ⟨wroteG (seen s a) a d n 1 (BitVec.ofNat 64 v), 0, .seq⟩) ?_
    (finish_wroteG 4 _ a d n _ 0)
  simp only [hrd, hf, hq, hv, wrG_ready hd]
  rfl

theorem tver_gives {v : Nat}
    (hv : versionWord (seen s a) (unitOf a.c (src (seen s a) a x).toNat) (ctxOf (seen s a) a) (src (seen s a) a x).toNat = v) :
    Runs (.tver d n x) s (fun t => DoneG 4 (seen s a) t a d n (BitVec.ofNat 64 v) 0) := by
  have hrd : rd (seen s a) a x = .ok (src (seen s a) a x) := rd_ready hx
  refine .of (show exec (.tver d n x) s = execTver d n x s from rfl) hr (d := ⟨wroteG (seen s a) a d n 1 (BitVec.ofNat 64 v), 0, .seq⟩) ?_
    (finish_wroteG 4 _ a d n _ 0)
  simp only [hrd, hq, hv, wrG_ready hd]
  rfl

end

/-- The state word of a live drawn tile (R95). -/
theorem tileState_drawn {s : State} {n ctx h : Nat} {t : Tile} (ht : tileAt s n ctx h = some t) (hk : t.kind = 1) (hc : t.count < 2 ^ 16)
    (hg : t.tag < 2 ^ 16) (hp : t.pend < 2 ^ 20) (hpart : t.part < 4) : tileState s n ctx h =
      t.count * 2 ^ 48 + t.tag * 2 ^ 32 + t.pend * 2 ^ 12 + t.part * 2 ^ 10 + 2 ^ 8 := by
  have hpart' : t.part < 2 ^ 2 := hpart
  simp only [tileState, ht, hk, place, Nat.mod_eq_of_lt hc, Nat.mod_eq_of_lt hg, Nat.mod_eq_of_lt hp, Nat.mod_eq_of_lt hpart']
  rfl

/-- The version word of a head (R284). -/
theorem versionWord_head {s : State} {n ctx h : Nat} {t : Tile} {hd : Head} (ht : tileAt s n ctx h = some t) (hk : t.kind = 3)
    (hh : headAt s n ctx h = some hd) (hl : hd.subs.length < 16) (hv : hd.ver < 2 ^ 16) :
    versionWord s n ctx h = hd.subs.length * 2 ^ 18 + b2n hd.sref * 2 ^ 17 + b2n hd.final * 2 ^ 16 + hd.ver := by
  have hl' : hd.subs.length < 2 ^ 4 := hl
  simp only [versionWord, ht, hh, hk, if_true, place, Nat.mod_eq_of_lt hl', Nat.mod_eq_of_lt hv, Nat.pow_zero, Nat.mul_one]

/-- Settles O38: TINFO and TVER read what stands at the handle's unit. -/
theorem tileStateRead : Obligations.TileStateRead := by
  intro s a d n x hr hx hd u h m hq gives
  refine ⟨fun hf ht => tinfo_gives hr hx hd hq hf ?_, fun t hf ht hk hc hg hp hpart => tinfo_gives hr hx hd hq hf ?_,
    fun hf => tinfo_trap hr hx hf, fun ht => tver_gives hr hx hd hq ?_, fun t k ht hk hh hl hv => tver_gives hr hx hd hq ?_⟩
  · have ht' : tileAt u m (ctxOf u a) h = none := ht
    unfold tileState
    rw [ht']
  · exact tileState_drawn ht hk hc hg hp hpart
  · have ht' : tileAt u m (ctxOf u a) h = none := ht
    unfold versionWord
    rw [ht']
  · exact versionWord_head ht hk hh hl hv

end Sys2Proof.Machine
end

section
/-! CARD, the mailbox and COLL (R287 to R291). -/

namespace Sys2Proof.Machine

theorem clusters_wroteG (s : State) (a : At) (d : BitVec 5) (n : BitVec 1) (l : Nat) (v : Dword) :
    (wroteG s a d n l v).clusters = s.clusters := by
  unfold wroteG
  split <;> rfl

theorem clusterAt_of_clusters {s t : State} (h : t.clusters = s.clusters) (k : Nat) : clusterAt t k = clusterAt s k := by
  unfold clusterAt
  rw [h]

/-! ## CARD (R287) -/

/-- A run whose next chunk is the one that the failed run had (R448). -/
def regrant (g : Nat × Nat) (rest gs : List (Nat × Nat)) (t : Strand) : Strand :=
  { t with task := t.task.map (fun k => { k with regrants := rest, grants := gs ++ [g] }) }

/-- A state with one more request for a chunk (R29). -/
def withCard (s : State) (a : At) : State := { s with cards := s.cards ++ [⟨a.c, a.x, jobOf s a, s.sbNext⟩] }

theorem jobOf_addSb (s : State) (a : At) (d : Dest) (access load : Bool) (v : Option Dword) :
    jobOf (addSb s a d access load v) a = jobOf s a := by
  unfold jobOf
  rw [addSb_strand]
  rfl

theorem addSb_withCard (s : State) (a : At) (d : Dest) : addSb (withCard s a) a d false false none =
    { addSb s a d false false none with
      cards := s.cards ++ [⟨a.c, a.x, jobOf (addSb s a d false false none) a, s.sbNext⟩] } := by
  rw [jobOf_addSb]
  rfl

theorem card_asks {s : State} {a : At} {d : BitVec 5} {n : BitVec 1} (hr : runner s = some a) (hd : dstReady (seen s a) a d n)
    (hq : ∀ q, (strandAt (seen s a) a).task = some q → q.regrants = []) : Runs (.card d n) s (fun t =>
      DoneSb 4 (seen s a) t a (destG d n) false false none (fun z => { z.noSb with cards := [] }) ∧
      t.cards = (seen s a).cards ++ [⟨a.c, a.x, jobOf (seen s a) a, (seen s a).sbNext⟩]) := by
  refine .of (show exec (.card d n) s = execCard d n s from rfl) hr
    (d := ⟨addSb (withCard (seen s a) a) a (destG d n) false false none, 0, .seq⟩) ?_ ⟨?_, rfl⟩
  · rw [addSb_withCard]
    simp only [freeD_ready hd]
    cases ht : (strandAt (seen s a) a).task with
    | none => rfl
    | some q =>
      obtain ⟨j, dep, id, par, card, res, defd, run, tiles, en, ar, sh, gs, rg, at_⟩ := q
      have hg : rg = [] := hq _ ht
      subst hg
      rfl
  · exact finish_addSb (s := seen s a) (w := withCard (seen s a) a) (f := fun z => { z.noSb with cards := [] }) ⟨rfl, fun _ _ => rfl, rfl, fun _ _ => rfl⟩ rfl rfl (fun _ _ => rfl) 4 _ _ _ _

theorem card_again {s : State} {a : At} {d : BitVec 5} {n : BitVec 1} {q : Task} {c : Nat × Nat} {rest : List (Nat × Nat)}
    (hr : runner s = some a) (hd : dstReady (seen s a) a d n) (ht : (strandAt (seen s a) a).task = some q) (hc : q.regrants = c :: rest) :
    Runs (.card d n) s (fun t =>
      (strandAt t a).sb = (strandAt (seen s a) a).sb ++ [⟨(seen s a).sbNext, destG d n, false, false, some (chunkWord c)⟩] ∧
      t.cards = (seen s a).cards ∧ Follows 4 0 (strandAt (seen s a) a) (strandAt t a) ∧
      ∃ q', (strandAt t a).task = some q' ∧ q'.regrants = rest ∧ q'.grants = q.grants ++ [c]) := by
  refine .of (show exec (.card d n) s = execCard d n s from rfl) hr
    (d := ⟨addSb (onStrand (seen s a) a (regrant c rest q.grants)) a (destG d n) false false (some (chunkWord c)), 0, .seq⟩) ?_ ?_
  · simp only [freeD_ready hd, ht]
    obtain ⟨j, dep, id, par, card, res, defd, run, tiles, en, ar, sh, gs, rg, at_⟩ := q
    have hg : rg = c :: rest := hc
    subst hg
    rfl
  · have hs := strandAt_finish_seq (addSb (onStrand (seen s a) a (regrant c rest q.grants)) a (destG d n) false false
      (some (chunkWord c))) a 4 0
    rw [addSb_strand, strandAt_onStrand_same] at hs
    refine ⟨?_, rfl, ?_, { q with regrants := rest, grants := q.grants ++ [c] }, ?_, rfl, rfl⟩ <;> rw [hs]
    · rfl
    · exact (follows_advance 4 0 _).of_eq rfl rfl rfl rfl rfl
    · change (strandAt (seen s a) a).task.map _ = _
      rw [ht]
      rfl

/-! ## The mailbox (R288 to R290) -/

theorem queuePost_cluster (u : State) (a : At) : clusterAt (queuePost u a) (a.c / 48) = { clusterAt u (a.c / 48) with
    posters := if 4 * a.c + a.x ∈ (clusterAt u (a.c / 48)).posters then (clusterAt u (a.c / 48)).posters
      else (clusterAt u (a.c / 48)).posters ++ [4 * a.c + a.x] } := by
  unfold queuePost
  rw [clusterAt_onCluster_same]
  by_cases h : strandNo a ∈ (clusterAt u (a.c / 48)).posters
  · rw [if_pos (List.contains_iff_mem.mpr h)]
    exact (if_pos h).symm ▸ rfl
  · rw [if_neg (fun h' => h (List.contains_iff_mem.mp h'))]
    exact (if_neg h).symm ▸ rfl

/-- A cluster whose mailbox has taken a post (R288, R289). -/
def posted (a : At) (wa wb job : Nat) (q : Cluster) : Cluster :=
  { q with
    posters := q.posters.filter (· != strandNo a)
    mail := q.mail ++ [⟨wa, wb, q.mseq, a.c % 48, a.x, job⟩]
    mseq := (q.mseq + 1) % 2 ^ 32
    posts := (q.posts + 1) % 2 ^ 32 }

section
variable {s : State} {a : At} {x y : BitVec 6} (hr : runner s = some a) (hx : srcReady (seen s a) a x) (hy : srcReady (seen s a) a y)
  (hp : ccPerformed (seen s a) a = true)
include hr hx hy hp

theorem mbpost_posts (hm : mayPost (clusterAt (seen s a) (a.c / 48)) a = true) : Runs (.mbpost x y) s (fun t =>
    t = finish a 4 ⟨onCluster (seen s a) (a.c / 48) (posted a (src (seen s a) a x).toNat (src (seen s a) a y).toNat
      (jobOf (seen s a) a)), 0, .seq⟩) := by
  have hrx : rd (seen s a) a x = .ok (src (seen s a) a x) := rd_ready hx
  have hry : rd (seen s a) a y = .ok (src (seen s a) a y) := rd_ready hy
  refine .of (show exec (.mbpost x y) s = execMbpost x y s from rfl) hr ?_ rfl
  simp only [hrx, hry, hp, hm]
  rfl

theorem mbpost_waits (hm : mayPost (clusterAt (seen s a) (a.c / 48)) a = false) (hs : (strandAt (seen s a) a).stopping = false) :
    exec (.mbpost x y) s = .next (holdWait (queuePost (seen s a) a) a .mbpost true 0) := by
  have hrx : rd (seen s a) a x = .ok (src (seen s a) a x) := rd_ready hx
  have hry : rd (seen s a) a y = .ok (src (seen s a) a y) := rd_ready hy
  have hst : (strandAt (queuePost (seen s a) a) a).stopping = false := hs
  refine (show exec (.mbpost x y) s = execMbpost x y s from rfl).trans (issue_wait hr ?_)
  simp only [hrx, hry, hp, hm]
  unfold waitOrStop
  rw [hst]
  rfl

end

theorem mayPost_iff (k : Cluster) (a : At) :
    mayPost k a = true ↔ k.mail.length < 32 ∧ k.posters.takeWhile (· != 4 * a.c + a.x) = [] := by
  simp only [mayPost, Bool.and_eq_true, decide_eq_true_eq, List.isEmpty_iff]
  rfl

/-- A cluster whose mailbox has given up its oldest entry (R290). -/
def mailTaken (rest : List Mail) (q : Cluster) : Cluster := { q with mail := rest, takes := (q.takes + 1) % 2 ^ 32 }

/-- What an engine's write of pond leaves alone. -/
theorem fillGranules_keeps (s : State) (c off len : Nat) : (fillGranules s c off len).mem = s.mem ∧
    (fillGranules s c off len).poison = s.poison ∧ (fillGranules s c off len).clusters = s.clusters ∧
    ∀ b, strandAt (fillGranules s c off len) b = strandAt s b := by
  unfold fillGranules
  split
  · exact ⟨rfl, rfl, rfl, fun _ => rfl⟩
  · refine foldl_invariant (P := fun t => t.mem = s.mem ∧ t.poison = s.poison ∧ t.clusters = s.clusters ∧ ∀ b, strandAt t b = strandAt s b)
      _ ⟨rfl, rfl, rfl, fun _ => rfl⟩ fun t ht i _ => ?_
    obtain ⟨h1, h2, h3, h4⟩ := ht
    exact ⟨h1, h2, h3, fun b => (strandAt_setFull _ _ _ b).trans (h4 b)⟩

/-- An engine's write of local pond (R50). -/
theorem engineWrite_pond (s : State) (key : Nat) {p : Place} (h : p.space = 2) (v : List Byte) :
    engineWrite s key p v = fillGranules (storeN s (locPond p.core p.off) v) p.core p.off v.length := by
  have hin : p.inPond = true := by simp [Place.inPond, h]
  unfold engineWrite
  rw [hin, if_pos rfl, putPlace_pond s key (.inl h)]

theorem Wrote.wroteG {s w : State} {l n v : Nat} (h : Wrote s w l n v) (a : At) (d : BitVec 5) (nw : BitVec 1) (r : Dword) :
    Wrote s (wroteG w a d nw 1 r) l n v := by
  unfold Machine.wroteG
  split
  · exact h
  · exact h.of_eq rfl rfl

theorem isMaster_of {s : State} {c : Nat} (h : (clusterAt s (c / 48)).master = some (c % 48)) : isMaster s c = true := by
  unfold isMaster
  rw [h]
  exact beq_self_eq_true _

section
variable {s : State} {a : At} {d : BitVec 5} {n : BitVec 1} {x : BitVec 6} (hr : runner s = some a) (hx : srcReady (seen s a) a x)
  (hd : dstReady (seen s a) a d n) (hm : (clusterAt (seen s a) (a.c / 48)).master = some (a.c % 48))
  (hc : checkAddr [2] 32 32 (src (seen s a) a x).toNat (src (seen s a) a x).toNat = .ok ())
include hr hx hd hm hc

theorem mbtake_none (hq : (clusterAt (seen s a) (a.c / 48)).mail = []) :
    Runs (.mbtake d n x) s (fun t => DoneG 4 (seen s a) t a d n 0 0) := by
  have hrx : rd (seen s a) a x = .ok (src (seen s a) a x) := rd_ready hx
  refine .of (show exec (.mbtake d n x) s = execMbtake d n x s from rfl) hr (d := ⟨wroteG (seen s a) a d n 1 0, 0, .seq⟩) ?_
    (finish_wroteG 4 _ a d n 0 0)
  simp only [hrx, hc, freeD_ready hd, isMaster_of hm, hq, wrG_ready hd]
  rfl

/-- A cluster's mailbox whose oldest entry stands in pond (R290). -/
def mailWritten (u : State) (a : At) (ad : Nat) (m : Mail) (rest : List Mail) : State :=
  engineWrite (onCluster u (a.c / 48) (mailTaken rest)) 0 (placeOf a.c ad) (leBytes 32 (mailBits m))

omit hr hx hd hm in
theorem mailWritten_keeps (m : Mail) (rest : List Mail) (hok : (seen s a).memOk) :
    let ad := (src (seen s a) a x).toNat
    let w := mailWritten (seen s a) a ad m rest
    w.clusters = (onCluster (seen s a) (a.c / 48) (mailTaken rest)).clusters ∧ strandAt w a = strandAt (seen s a) a ∧
    Wrote (seen s a) w (locPond a.c (bits ad 0 60)) 32 (mailBits m) := by
  intro ad w
  obtain ⟨hsp, -⟩ := checkAddr_ok hc
  have hsp2 : bits ad 60 4 = 2 := List.mem_singleton.mp hsp
  have hpl := placeOf_local (c := a.c) hsp2
  obtain ⟨h1, h2, h3, h4⟩ := fillGranules_keeps (storeN (onCluster (seen s a) (a.c / 48) (mailTaken rest))
    (locPond a.c (bits ad 0 60)) (leBytes 32 (mailBits m))) a.c (bits ad 0 60) (leBytes 32 (mailBits m)).length
  have hw : w = fillGranules (storeN (onCluster (seen s a) (a.c / 48) (mailTaken rest)) (locPond a.c (bits ad 0 60))
      (leBytes 32 (mailBits m))) a.c (bits ad 0 60) (leBytes 32 (mailBits m)).length := by
    simp only [w, mailWritten, hpl]
    exact engineWrite_pond _ 0 rfl _
  rw [hw]
  refine ⟨h3.trans (by rw [storeN_rest]), (h4 a).trans (strandAt_storeN _ _ _ _), ?_⟩
  have hst : Wrote (onCluster (seen s a) (a.c / 48) (mailTaken rest)) _ _ 32 (mailBits m) :=
    wrote_storeN (s := onCluster (seen s a) (a.c / 48) (mailTaken rest)) hok (locPond a.c (bits ad 0 60)) 32 (mailBits m)
  obtain ⟨hb, ho, hp⟩ := hst.of_eq h1 h2
  exact ⟨hb, ho, hp⟩

theorem mbtake_takes (hok : (seen s a).memOk) {m : Mail} {rest : List Mail} (hq : (clusterAt (seen s a) (a.c / 48)).mail = m :: rest) :
    let ad := (src (seen s a) a x).toNat
    Runs (.mbtake d n x) s (fun t => (clusterAt t (a.c / 48)).mail = rest ∧
      WroteG d n (BitVec.ofNat 64 (posterWord m)) (strandAt (seen s a) a) (strandAt t a) ∧
      Wrote (seen s a) t (locPond a.c (bits ad 0 60)) 32 (mailBits m) ∧ Follows 4 0 (strandAt (seen s a) a) (strandAt t a)) := by
  intro ad
  have hrx : rd (seen s a) a x = .ok (src (seen s a) a x) := rd_ready hx
  obtain ⟨hcl, hst, hwr⟩ := mailWritten_keeps hc m rest hok
  have hdw : dstReady (mailWritten (seen s a) a ad m rest) a d n := by
    unfold dstReady
    rw [hst]
    exact hd
  refine .of (show exec (.mbtake d n x) s = execMbtake d n x s from rfl) hr
    (d := ⟨wroteG (mailWritten (seen s a) a ad m rest) a d n 1 (BitVec.ofNat 64 (posterWord m)), 0, .seq⟩) ?_ ?_
  · simp only [hrx, hc, freeD_ready hd, isMaster_of hm, hq]
    change (match wrG (mailWritten (seen s a) a ad m rest) a d n 1 (BitVec.ofNat 64 (posterWord m)) with
      | .ok s => _ | .error e => _) = _
    rw [wrG_ready hdw]
  · obtain ⟨-, hwrote, hfol, -⟩ := finish_wroteG 4 (mailWritten (seen s a) a ad m rest) a d n (BitVec.ofNat 64 (posterWord m)) 0
    rw [hst] at hwrote hfol
    refine ⟨?_, hwrote, (hwr.wroteG a d n _).finish a 4 0, hfol⟩
    have hcl' : (finish a 4 ⟨wroteG (mailWritten (seen s a) a ad m rest) a d n 1 (BitVec.ofNat 64 (posterWord m)), 0, .seq⟩).clusters =
        (onCluster (seen s a) (a.c / 48) (mailTaken rest)).clusters := (clusters_wroteG _ _ _ _ _ _).trans hcl
    rw [clusterAt_of_clusters hcl', clusterAt_onCluster_same]
    rfl

end

/-! ## COLL (R291) -/

/-- A cluster whose sequencer has one more launch (R291). -/
def launched (l : Launch) (k : Cluster) : Cluster := { k with launches := k.launches ++ [l], counter := (k.counter + 1) % 2 ^ 32 }

theorem coll_launches {s : State} {a : At} {d : BitVec 5} {n : BitVec 1} {x y : BitVec 6} {pl : Place} {v : Nat} (hr : runner s = some a)
    (hx : srcReady (seen s a) a x) (hy : srcReady (seen s a) a y) (hd : dstReady (seen s a) a d n)
    (hm : (clusterAt (seen s a) (a.c / 48)).master = some (a.c % 48)) (hp : collProg (src (seen s a) a x).toNat = .ok ())
    (hb : readStruct (seen s a) a (src (seen s a) a y).toNat 64 64 = .ok (pl, v))
    (hroom : (clusterAt (seen s a) (a.c / 48)).launches.length < 4) (hrel : released (seen s a) a = true) :
    let l := newLaunch (seen s a) a (src (seen s a) a x).toNat v (wRR 0x3A d n x y 0).toNat
    Runs (.coll d n x y) s (fun t => DoneG 4 (onCluster (seen s a) (a.c / 48) (launched l)) t a d n (BitVec.ofNat 64 l.num) 0 ∧
      t.clusters = (onCluster (seen s a) (a.c / 48) (launched l)).clusters) := by
  intro l
  have hrx : rd (seen s a) a x = .ok (src (seen s a) a x) := rd_ready hx
  have hry : rd (seen s a) a y = .ok (src (seen s a) a y) := rd_ready hy
  have hd' : dstReady (onCluster (seen s a) (a.c / 48) (launched l)) a d n := hd
  refine .of (show exec (.coll d n x y) s = execColl d n x y s from rfl) hr
    (d := ⟨wroteG (onCluster (seen s a) (a.c / 48) (launched l)) a d n 1 (BitVec.ofNat 64 l.num), 0, .seq⟩) ?_
    ⟨finish_wroteG 4 _ a d n _ 0, clusters_wroteG _ _ _ _ _ _⟩
  have hno : ¬(4 ≤ (clusterAt (seen s a) (a.c / 48)).launches.length ∨ (!released (seen s a) a) = true) := by
    rw [hrel]
    simp only [Bool.not_true, Bool.false_eq_true, or_false]
    omega
  simp only [hrx, hry, hp, hb, freeD_ready hd, isMaster_of hm, hm, hno]
  change (match wrG (onCluster (seen s a) (a.c / 48) (launched l)) a d n 1 (BitVec.ofNat 64 l.num) with
    | .ok s => _ | .error e => _) = _
  rw [wrG_ready hd']

/-- Settles O42: CARD by its chunks, MBPOST and MBTAKE by the mailbox, COLL by its launch. -/
theorem cardMailCollective : Obligations.CardMailCollective := by
  intro s a hok hr u k
  refine ⟨fun d n hd hq => card_asks hr hd hq, fun d n q c rest hd ht hc => card_again hr hd ht hc, fun x y hx hy hp => ?_,
    fun d n x hx hd hm => ?_, fun d n x y pl v hx hy hd hm hpr hb hroom hrel => ?_⟩
  · intro before
    refine ⟨fun hl hbf => ?_, fun hl hs => ?_⟩
    · obtain ⟨t, ht, rfl⟩ := mbpost_posts hr hx hy hp ((mayPost_iff _ _).mpr ⟨hl, hbf⟩)
      have hcl (c : Nat) : clusterAt (finish a 4 ⟨onCluster u (a.c / 48) (posted a (src u a x).toNat (src u a y).toNat (jobOf u a)), 0,
          .seq⟩) c = clusterAt (onCluster u (a.c / 48) (posted a (src u a x).toNat (src u a y).toNat (jobOf u a))) c :=
        clusterAt_of_clusters rfl c
      refine ⟨_, ht, finish_nop 4 (onCluster u (a.c / 48) (posted a (src u a x).toNat (src u a y).toNat (jobOf u a))) a, ?_,
        ⟨⟨(src u a x).toNat, (src u a y).toNat, k.mseq, a.c % 48, a.x, jobOf u a⟩, ?_, rfl, rfl, rfl, rfl, rfl⟩, ?_, fun c hc => ?_⟩ <;> rw [hcl]
      · rw [clusterAt_onCluster_same]; rfl
      · rw [clusterAt_onCluster_same]; rfl
      · rw [clusterAt_onCluster_same]; rfl
      · exact clusterAt_onCluster_ne _ _ hc
    · have hm : mayPost (clusterAt (seen s a) (a.c / 48)) a = false := by
        rw [← Bool.not_eq_true, mayPost_iff]
        rintro ⟨h1, h2⟩
        exact hl.elim (fun h => Nat.not_le.mpr h1 h) fun h => h h2
      exact ⟨_, mbpost_waits hr hx hy hp hm hs, rfl, queuePost_cluster u a, fun c hc => clusterAt_onCluster_ne _ _ hc⟩
  · intro ad hc
    exact ⟨mbtake_none hr hx hd hm hc, fun m rest hq => mbtake_takes hr hx hd hm hc hok hq⟩
  · obtain ⟨t, ht, hdone, hcl⟩ := coll_launches hr hx hy hd hm hpr hb hroom hrel
    refine ⟨t, ht, ?_, ⟨newLaunch u a (src u a x).toNat v (wRR 0x3A d n x y 0).toNat, ?_, rfl, rfl, rfl, rfl, rfl⟩, ?_, fun c hc => ?_⟩
    · rw [hcl]; exact hdone
    · rw [clusterAt_of_clusters hcl, clusterAt_onCluster_same]; rfl
    · rw [clusterAt_of_clusters hcl, clusterAt_onCluster_same]; rfl
    · rw [clusterAt_of_clusters hcl]; exact clusterAt_onCluster_ne _ _ hc

end Sys2Proof.Machine
end

section
/-! Allocation (R96, R97, R272, R273, R429). -/

namespace Sys2Proof.Machine

/-! ## Heads and their storage (R106) -/

/-- The words of a head's storage are memory alone (R106). -/
theorem writeWords_rest (loc : Nat → Nat) (os ws : List (List Byte)) (s : State) (i : Nat) : writeWords s loc i os ws =
    { s with mem := (writeWords s loc i os ws).mem, poison := (writeWords s loc i os ws).poison } := by
  induction os generalizing s i ws with
  | nil => rfl
  | cons o os ih =>
    cases ws with
    | nil => rfl
    | cons w ws =>
      unfold writeWords
      split
      · exact ih ws s (i + 1)
      · rw [ih, storeN_rest]

/-- A head's record is replaced at its unit, its storage in memory (R106). -/
theorem putHead_eq (s : State) (n ctx h : Nat) (old : Option (Head × Nat)) (hd : Head) (hcount : Nat) :
    ∃ m p, putHead s n ctx h old hd hcount =
      onUnit { s with mem := m, poison := p } n (fun u => { u with heads := tabPut u.heads (headKey ctx h) hd }) := by
  unfold putHead
  dsimp only
  rw [writeWords_rest]
  exact ⟨_, _, rfl⟩

theorem cores_putHead (s : State) (n ctx h : Nat) (old : Option (Head × Nat)) (hd : Head) (hcount : Nat) :
    (putHead s n ctx h old hd hcount).cores = s.cores := by
  obtain ⟨m, p, he⟩ := putHead_eq s n ctx h old hd hcount
  rw [he]
  rfl

theorem unitAt_putHead_same (s : State) (n ctx h : Nat) (old : Option (Head × Nat)) (hd : Head) (hcount : Nat) :
    unitAt (putHead s n ctx h old hd hcount) n =
      { unitAt s n with heads := tabPut (unitAt s n).heads (headKey ctx h) hd } := by
  obtain ⟨m, p, he⟩ := putHead_eq s n ctx h old hd hcount
  rw [he, unitAt_onUnit_same]
  rfl

theorem unitAt_putHead_ne (s : State) {n i : Nat} (ctx h : Nat) (old : Option (Head × Nat)) (hd : Head) (hcount : Nat) (hi : i ≠ n) :
    unitAt (putHead s n ctx h old hd hcount) i = unitAt s i := by
  obtain ⟨m, p, he⟩ := putHead_eq s n ctx h old hd hcount
  rw [he, unitAt_onUnit_ne _ _ hi]
  rfl

theorem tiles_putHead (s : State) (n ctx h : Nat) (old : Option (Head × Nat)) (hd : Head) (hcount i : Nat) :
    (unitAt (putHead s n ctx h old hd hcount) i).tiles = (unitAt s i).tiles ∧
    (unitAt (putHead s n ctx h old hd hcount) i).pools = (unitAt s i).pools := by
  by_cases hi : i = n
  · subst hi
    rw [unitAt_putHead_same]
    exact ⟨rfl, rfl⟩
  · rw [unitAt_putHead_ne s ctx h old hd hcount hi]
    exact ⟨rfl, rfl⟩

/-! ## A tile is placed (R96) -/

theorem placeTile_places (s : State) (n key part need count tag kind job g skip : Nat) :
    (placeTile s n key part need count tag kind job g skip).1.cores = s.cores ∧
    (unitAt (placeTile s n key part need count tag kind job g skip).1 n).tiles.length = (unitAt s n).tiles.length + 1 := by
  refine ⟨rfl, ?_⟩
  unfold placeTile
  rw [unitAt_onUnit_same]
  exact List.length_append

theorem placeReq_places (s : State) (n : Nat) (w : Alloc) (g skip : Nat) : (placeReq s n w g skip).1.cores = s.cores ∧
    (unitAt (placeReq s n w g skip).1 n).tiles.length = (unitAt s n).tiles.length + 1 := by
  obtain ⟨h1, h2⟩ := placeTile_places s n w.pool (bits w.word 46 2) w.need (bits w.word 16 16) (bits w.word 0 16)
    (if w.head.isSome then 3 else 1) w.job g skip
  unfold placeReq
  generalize placeTile s n w.pool (bits w.word 46 2) w.need (bits w.word 16 16) (bits w.word 0 16)
    (if w.head.isSome then 3 else 1) w.job g skip = r at h1 h2 ⊢
  obtain ⟨p, h⟩ := r
  cases w.head with
  | none => exact ⟨h1, h2⟩
  | some m =>
    dsimp only
    rw [cores_putHead, (tiles_putHead _ _ _ _ _ _ _ n).1]
    exact ⟨h1, h2⟩

/-! ## TALLOC at issue (R97, R272) -/

/-- The answer that TALLOC gives its destination. -/
def giveHandle (a : At) (d : BitVec 5) (nw : BitVec 1) (s : State) (h : Dword) : Act Done :=
  match wrG s a d nw 1 h with
  | .ok s => .ok ⟨s, 0, .seq⟩
  | .error e => .error e

theorem giveHandle_ready {s : State} {a : At} {d : BitVec 5} {nw : BitVec 1} (hd : dstReady s a d nw) (h : Dword) :
    giveHandle a d nw s h = .ok ⟨wroteG s a d nw 1 h, 0, .seq⟩ := by
  unfold giveHandle
  rw [wrG_ready hd]

section
variable {u : State} {a : At} {v : Bool} {d : BitVec 5} {nw : BitVec 1} {w b : Nat}

theorem allocNow_granted {h : Dword} (hg : grantOf (strandAt u a) (2 * (strandAt u a).pc.toNat) = some h) :
    allocNow u a v d nw w b = giveHandle a d nw (onStrand u a (dropGrant (2 * (strandAt u a).pc.toNat))) h := by
  simp only [allocNow, hg]
  rfl

variable (hg : grantOf (strandAt u a) (2 * (strandAt u a).pc.toNat) = none) (hw : allocWaits u a (strandAt u a).pc.toNat = false)
  (hq : unitQuiet u a (allocUnit a.c w) = true)
include hg hw hq

theorem allocNow_placed {g skip : Nat} (ha : allocAnswer u (allocUnit a.c w) (allocReq u a v w b) = .placed g skip) :
    allocNow u a v d nw w b = giveHandle a d nw
      (onStrand (placeReq u (allocUnit a.c w) (allocReq u a v w b) g skip).1 a
        (noteTile (placeReq u (allocUnit a.c w) (allocReq u a v w b) g skip).2))
      (BitVec.ofNat 64 (placeReq u (allocUnit a.c w) (allocReq u a v w b) g skip).2) := by
  simp only [allocNow, hg, hw, hq, ha]
  rfl

theorem allocNow_refused {c : Cause} (ha : allocAnswer u (allocUnit a.c w) (allocReq u a v w b) = .refused c) :
    allocNow u a v d nw w b = .error (.trap c) := by
  simp only [allocNow, hg, hw, hq, ha]
  rfl

/-- A unit with one more request that waits (R97). -/
def withWait (r : Alloc) (u : PoolUnit) : PoolUnit := { u with waits := u.waits ++ [r] }

theorem allocNow_waits (ha : allocAnswer u (allocUnit a.c w) (allocReq u a v w b) = .waits) (hs : (strandAt u a).stopping = false) :
    allocNow u a v d nw w b = .error (.wait (onUnit u (allocUnit a.c w) (withWait (allocReq u a v w b))) (.talloc w) true
      (d.toNat + 32 * nw.toNat)) := by
  have hs' : (strandAt (onUnit u (allocUnit a.c w) (withWait (allocReq u a v w b))) a).stopping = false := hs
  have h : allocNow u a v d nw w b = waitOrStop (onUnit u (allocUnit a.c w) (withWait (allocReq u a v w b))) a (.talloc w) true
      (d.toNat + 32 * nw.toNat) := by
    simp only [allocNow, hg, hw, hq, ha]
    rfl
  rw [h, waitOrStop, hs']
  rfl

end

section
variable {s : State} {a : At} {i : Instr} {v : Bool} {d : BitVec 5} {nw : BitVec 1} {x y : BitVec 6} {fn : BitVec 8}
  (he : exec i s = tallocOp v d nw x y fn s) (hr : runner s = some a) (hx : srcReady (seen s a) a x) (hy : srcReady (seen s a) a y)
  (hd : dstReady (seen s a) a d nw)
  (hc : allocCheck (seen s a) a v (wRR 0x36 d nw x y fn).toNat (src (seen s a) a x).toNat (src (seen s a) a y).toNat = .ok ())
include he hr hx hy hd hc

omit hr in
theorem talloc_body : ∃ body, exec i s = issue 4 s body ∧
    body a (seen s a) = allocNow (seen s a) a v d nw (src (seen s a) a x).toNat (src (seen s a) a y).toNat := by
  have hrx : rd (seen s a) a x = .ok (src (seen s a) a x) := rd_ready hx
  have hry : rd (seen s a) a y = .ok (src (seen s a) a y) := rd_ready hy
  refine ⟨_, he.trans rfl, ?_⟩
  simp only [hrx, hry, hc, freeD_ready hd]

theorem talloc_answers :
    let u := seen s a
    let w := (src u a x).toNat
    let pc := (strandAt u a).pc.toNat
    let n := allocUnit a.c w
    (∀ h, grantOf (strandAt u a) (2 * pc) = some h → Runs i s (fun t =>
      DoneG 4 (onStrand u a (dropGrant (2 * pc))) t a d nw h 0)) ∧
    (grantOf (strandAt u a) (2 * pc) = none → allocWaits u a pc = false → unitQuiet u a n = true →
      let r := allocReq u a v w (src u a y).toNat
      (∀ g skip, allocAnswer u n r = .placed g skip → ∃ p h, placeReq u n r g skip = (p, h) ∧
        (unitAt p n).tiles.length = (unitAt u n).tiles.length + 1 ∧
        Runs i s (fun t => DoneG 4 (onStrand p a (noteTile h)) t a d nw (BitVec.ofNat 64 h) 0)) ∧
      (∀ c, allocAnswer u n r = .refused c → exec i s = .next (signalTrap u a (ccTrap u a c))) ∧
      (allocAnswer u n r = .waits → (strandAt u a).stopping = false → Runs i s (fun t =>
        (strandAt t a).status = .waiting ∧ (unitAt t n).waits = (unitAt u n).waits ++ [r] ∧ t.mem = s.mem ∧
        (strandAt t a).pc = (strandAt u a).pc ∧ (strandAt t a).g = (strandAt u a).g))) := by
  intro u w pc n
  obtain ⟨body, hb, hbody⟩ := talloc_body he hx hy hd hc
  refine ⟨fun h hg => ?_, fun hg hw hq => ?_⟩
  · have hd' : dstReady (onStrand u a (dropGrant (2 * pc))) a d nw := by
      unfold dstReady
      rw [strandAt_onStrand_same]
      exact hd
    exact .of hb hr (hbody.trans ((allocNow_granted hg).trans (giveHandle_ready hd' h))) (finish_wroteG 4 _ a d nw h 0)
  · intro r
    refine ⟨fun g skip ha => ?_, fun c ha => ?_, fun ha hs => ?_⟩
    · obtain ⟨hcores, hlen⟩ := placeReq_places u n r g skip
      have hd' : dstReady (onStrand (placeReq u n r g skip).1 a (noteTile (placeReq u n r g skip).2)) a d nw := by
        unfold dstReady
        rw [strandAt_onStrand_same, strandAt_of_cores hcores]
        exact hd
      exact ⟨_, _, rfl, hlen, .of hb hr (hbody.trans ((allocNow_placed hg hw hq ha).trans (giveHandle_ready hd' _)))
        (finish_wroteG 4 _ a d nw _ 0)⟩
    · exact hb.trans (issue_trap hr (hbody.trans (allocNow_refused hg hw hq ha)))
    · refine ⟨_, hb.trans (issue_wait hr (hbody.trans (allocNow_waits hg hw hq ha hs))), ?_⟩
      obtain ⟨hst, -, hrest⟩ := holdWait_waiting (onUnit u n (withWait r)) a (.talloc w) (d.toNat + 32 * nw.toNat)
      refine ⟨hst, congrArg PoolUnit.waits (unitAt_onUnit_same u n (withWait r)), rfl, ?_, ?_⟩
      · have e := congrArg Strand.pc hrest
        exact e
      · have e := congrArg Strand.g hrest
        exact e

end

/-! ## The unit's answer (R96, R429) -/

section
variable {s : State} {n : Nat} {w : Alloc}

/-- The place that a request finds, none where an older one of its partition waits (R96, R97). -/
def placeOpen (s : State) (n : Nat) (w : Alloc) : Option (Nat × Nat) :=
  if (unitAt s n).waits.any (fun x => x.pool == w.pool && bits x.word 46 2 == bits w.word 46 2) then none
  else ringPlace (poolAt (unitAt s n) w.pool) (bits w.word 46 2) w.need

theorem answer_tooLarge (h : (poolAt (unitAt s n) w.pool).size < w.need) :
    ∃ c, allocAnswer s n w = .refused c ∧ c.code = 0x43 ∧ c.a0 = w.word :=
  ⟨_, if_pos h, rfl, rfl⟩

variable (h1 : w.need ≤ (poolAt (unitAt s n) w.pool).size)
include h1

theorem answer_overQuota (h : nth (poolAt (unitAt s n) w.pool).quota (bits w.word 46 2) < w.need) :
    ∃ c, allocAnswer s n w = .refused c ∧ c.code = 0x42 ∧ c.a0 = w.word :=
  ⟨_, (if_neg (Nat.not_lt.mpr h1)).trans (if_pos h), rfl, rfl⟩

variable (h2 : w.need ≤ nth (poolAt (unitAt s n) w.pool).quota (bits w.word 46 2))
include h2

theorem answer_noPlace (hp : placeOpen s n w = none) : ((poolAt (unitAt s n) w.pool).trapMode = true →
      ∃ c, allocAnswer s n w = .refused c ∧ c.code = 0x41 ∧ c.a0 = w.word) ∧
    ((poolAt (unitAt s n) w.pool).trapMode = false → allocAnswer s n w = .waits) := by
  unfold placeOpen at hp
  unfold allocAnswer
  dsimp only
  rw [if_neg (Nat.not_lt.mpr h1), if_neg (Nat.not_lt.mpr h2), hp]
  refine ⟨fun ht => ?_, fun ht => ?_⟩ <;> simp only [ht]
  · exact ⟨_, rfl, rfl, rfl⟩
  · rfl

theorem answer_noEntry {g : Nat × Nat} (hp : placeOpen s n w = some g) (hl : ¬(unitAt s n).tiles.length < tileLimit n) :
    ((poolAt (unitAt s n) w.pool).trapMode = true → ∃ c, allocAnswer s n w = .refused c ∧ c.code = 0x44 ∧ c.a0 = w.word) ∧
    ((poolAt (unitAt s n) w.pool).trapMode = false → allocAnswer s n w = .waits) := by
  unfold placeOpen at hp
  unfold allocAnswer
  dsimp only
  rw [if_neg (Nat.not_lt.mpr h1), if_neg (Nat.not_lt.mpr h2), hp, decide_eq_false hl]
  refine ⟨fun ht => ?_, fun ht => ?_⟩ <;> simp only [ht]
  · exact ⟨_, rfl, rfl, rfl⟩
  · rfl

theorem answer_entry {g k : Nat} (hp : placeOpen s n w = some (g, k)) (hl : (unitAt s n).tiles.length < tileLimit n) :
    (headsFull s w = true → ∃ c, allocAnswer s n w = .refused c ∧ c.code = 0x56 ∧ c.a0 = w.word) ∧
    (headsFull s w = false → allocAnswer s n w = .placed g k) := by
  unfold placeOpen at hp
  unfold allocAnswer
  dsimp only
  rw [if_neg (Nat.not_lt.mpr h1), if_neg (Nat.not_lt.mpr h2), hp, decide_eq_true hl]
  refine ⟨fun ht => ?_, fun ht => ?_⟩ <;> simp only [ht]
  · exact ⟨_, rfl, rfl, rfl⟩
  · rfl

end

/-- Settles O36: TALLOC goes by its unit's answer, and the answer by the place, the table and the heads. -/
theorem allocation : Obligations.Allocation := by
  refine ⟨?_, ?_⟩
  · intro s a d nw x y hr u hx hy hd w b pc n allocates
    exact ⟨fun hc => talloc_answers (v := false) (fn := 0) rfl hr hx hy hd hc, fun hc => talloc_answers (v := true) (fn := 1) rfl hr hx hy hd hc⟩
  · intro s n w q p table behind refusedBy
    refine ⟨answer_tooLarge, answer_overQuota, fun h1 h2 => ?_⟩
    intro place
    refine ⟨fun g k hp hl hh => ?_, fun hp hl hh hn => ?_, fun hp hl ht => ?_,
      fun hp ht => (answer_noPlace h1 h2 hp).1 ht, fun ht h => ?_⟩
    · refine (answer_entry h1 h2 hp hl).2 ?_
      rcases hh with hh | hh
      · simp [headsFull, hh]
      · simp [headsFull, Nat.not_le.mpr hh]
    · obtain ⟨⟨g, k⟩, hg⟩ := Option.ne_none_iff_exists'.mp hp
      refine (answer_entry h1 h2 hg hl).1 ?_
      simp [headsFull, Option.isSome_iff_ne_none.mpr hh, hn]
    · obtain ⟨g, hg⟩ := Option.ne_none_iff_exists'.mp hp
      exact (answer_noEntry h1 h2 hg hl).1 ht
    · by_cases hp : place = none
      · exact (answer_noPlace h1 h2 hp).2 ht
      · obtain ⟨g, hg⟩ := Option.ne_none_iff_exists'.mp hp
        exact (answer_noEntry h1 h2 hg (h.resolve_left hp)).2 ht

end Sys2Proof.Machine
end

section
/-! TDRAW of a restartable task whose handle names no tile (R275, R428). -/

namespace Sys2Proof.Machine

/-- A draw that is refused is not recorded: it becomes an asynchronous cause, and the run's list stays (R275, R428). -/
theorem recordTdraw_unnamed {s : State} {a : At} {h : Nat} (ht : tileAt s (unitOf a.c h) (ctxOf s a) h = none) (w : Word) :
    (strandAt (recordTdraw s a h w) a).task = (strandAt s a).task := by
  have hno : ∃ e, deferCheck s a h = .error e := by
    unfold deferCheck tileCheck
    rw [ht]
    exact ⟨_, rfl⟩
  obtain ⟨e, he⟩ := hno
  unfold recordTdraw
  rw [he]
  dsimp only
  rw [strandAt_onStrand_same]

theorem tdraw_unnamed {s : State} {a : At} {x : BitVec 6} {k : Task} (hr : runner s = some a) (hx : srcReady (seen s a) a x)
    (hk : (strandAt (seen s a) a).task = some k) (hrest : k.restart = true) (hf : hForm (src (seen s a) a x).toNat = true)
    (hroom : deferRoom k.deferred (startHandle (seen s a) (unitOf a.c (src (seen s a) a x).toNat) (ctxOf (seen s a) a)
      (src (seen s a) a x).toNat) = true) (hl : loadsOut (seen s a) a = false)
    (ht : tileAt (seen s a) (unitOf a.c (src (seen s a) a x).toNat) (ctxOf (seen s a) a) (src (seen s a) a x).toNat = none) :
    Runs (.tdraw x) s (fun t => (strandAt t a).task = some k) := by
  have hrx : rd (seen s a) a x = .ok (src (seen s a) a x) := rd_ready hx
  have hdef : defers (strandAt (seen s a) a) = true := by
    unfold defers
    rw [hk]
    exact hrest
  refine .of (show exec (.tdraw x) s = execTdraw x s from rfl) hr
    (d := ⟨recordTdraw (seen s a) a (src (seen s a) a x).toNat (wRR 0x36 0 0 x 0 3), 0, .seq⟩) ?_ ?_
  · simp only [hrx, hk, hf, hdef, hroom, hl]
    rfl
  · rw [strandAt_finish_seq]
    exact (recordTdraw_unnamed ht _).trans hk

/-- A restartable task that names pond pool 0, in which no tile stands, in g4. -/
def drawsUnnamed : State :=
  let t : Strand := { Strand.reset with
    status := .running
    g := [(4, BitVec.ofNat 64 (3 * 2 ^ 60))]
    task := some ⟨1, 0, 0, none, false, true, [], none, [], 0, 0, [], [], [], 0⟩ }
  { State.reset with cores := [(0, { Core.reset 0 with turn := some 0, strands := [(0, t)] })] }

/-- Refutes O37: a TDRAW of a restartable task whose handle names no tile, as one of pond pool 0 in which none stands, notes
nothing in its list; its refusal is an asynchronous cause. -/
theorem not_poolOperations : ¬ Obligations.PoolOperations := by
  intro h
  obtain ⟨hops, -⟩ := h
  obtain ⟨-, -, -, -, hdraw⟩ := hops drawsUnnamed ⟨0, 0⟩ 4 0 rfl (.inr rfl)
  obtain ⟨t, ht, ⟨k', hk', hdef⟩, -⟩ := hdraw _ rfl rfl (by decide) rfl rfl
  obtain ⟨t', ht', hk⟩ := tdraw_unnamed (s := drawsUnnamed) (a := ⟨0, 0⟩) (x := 4) rfl (.inr rfl) rfl rfl (by decide) rfl rfl rfl
  rw [ht] at ht'
  obtain rfl := Host.Outcome.next.inj ht'
  rw [hk] at hk'
  obtain rfl := Option.some.inj hk'
  cases hdef

end Sys2Proof.Machine
end

section
/-! FORK and ENQ (R25, R27, R285). -/

namespace Sys2Proof.Machine

/-! ## The checks of FORK and ENQ -/

section
variable {s : State} {a : At} {k : Task} {entry : Nat}

theorem forkCheck_bad (h : entry % 4 ≠ 0 ∨ 2 ^ 52 ≤ entry) : forkCheck s a entry = raise 0x25 entry 0 0 := if_pos h

variable (ht : (strandAt s a).task = some k) (h4 : entry % 4 = 0) (h52 : entry < 2 ^ 52)
include ht h4 h52

theorem forkCheck_ok (hd : k.depth < 255) : forkCheck s a entry = .ok () := by
  unfold forkCheck
  rw [if_neg (by omega), ht]
  exact if_neg (Nat.not_le.mpr hd)

theorem forkCheck_deep (hd : 255 ≤ k.depth) : forkCheck s a entry = raise 0x1C entry 0 0 := by
  unfold forkCheck
  rw [if_neg (by omega), ht]
  exact if_pos hd

end

/-! ## A child on the deque (R25, R30) -/

theorem strandAt_dequePush (s : State) (c : Nat) (e : DqEntry) (a : At) : strandAt (dequePush s c e) a = strandAt s a :=
  strandAt_onCore s c (f := fun k => { k with deque := { e with stamp := k.dqStamp } :: k.deque, dqStamp := k.dqStamp + 1
                                              dqPushes := k.dqPushes + 1, dqBusy := true }) (fun _ => rfl) a

theorem deque_dequePush (s : State) (c : Nat) (e : DqEntry) :
    (coreAt (dequePush s c e) c).deque = { e with stamp := (coreAt s c).dqStamp } :: (coreAt s c).deque := by
  unfold dequePush
  rw [coreAt_onCore_same]

/-- A child counts in its creator's join counter and in its job (R25, R30). -/
theorem pushChild_counts (s : State) (a : At) (k : Task) (entry arg : Nat) (joined : Bool) (slot : Option Nat) :
    let t := pushChild s a (childOf s a k entry arg joined slot)
    (coreAt t a.c).deque = { childOf s a k entry arg joined slot with stamp := (coreAt s a.c).dqStamp } :: (coreAt s a.c).deque ∧
    joinCount t k.id = joinCount s k.id + b2n joined ∧ (jobAt t k.job).live = (jobAt s k.job).live + 1 ∧ t.mem = s.mem ∧
    strandAt t a = strandAt s a := by
  intro t
  have hlive : (jobAt t k.job).live = (jobAt s k.job).live + 1 := by
    have hj : jobAt t k.job = { jobAt s k.job with live := (jobAt s k.job).live + 1 } := by
      cases joined <;> exact tabGet_put_same _ _ _ _
    rw [hj]
  cases joined with
  | false => exact ⟨deque_dequePush s a.c _, rfl, hlive, rfl, strandAt_dequePush s a.c _ a⟩
  | true => exact ⟨deque_dequePush _ a.c _, tabGet_put_same _ _ _ _, hlive, rfl, strandAt_dequePush _ a.c _ a⟩

section
variable {s : State} {a : At} {x y : BitVec 6} {k : Task} {i : Instr} {joined : Bool}
  (hi : i = .fork x y ∧ joined = true ∨ i = .enq x y ∧ joined = false)
  (hr : runner s = some a) (hx : srcReady (seen s a) a x) (hy : srcReady (seen s a) a y)
include hi hr hx hy

theorem child_refused {c : Cause} (hc : forkCheck (seen s a) a (src (seen s a) a x).toNat = .error (.trap c)) :
    exec i s = .next (signalTrap (seen s a) a (ccTrap (seen s a) a c)) := by
  have hrx : rd (seen s a) a x = .ok (src (seen s a) a x) := rd_ready hx
  have hry : rd (seen s a) a y = .ok (src (seen s a) a y) := rd_ready hy
  rcases hi with ⟨rfl, rfl⟩ | ⟨rfl, rfl⟩
  · refine (show exec (.fork x y) s = execFork x y s from rfl).trans (issue_trap hr ?_)
    simp only [hrx, hry, hc]
  · refine (show exec (.enq x y) s = execEnq x y s from rfl).trans (issue_trap hr ?_)
    simp only [hrx, hry, hc]

variable (ht : (strandAt (seen s a) a).task = some k) (h4 : (src (seen s a) a x).toNat % 4 = 0)
  (h52 : (src (seen s a) a x).toNat < 2 ^ 52) (hd : k.depth < 255)
include ht h4 h52 hd

theorem child_stalls (hp : ccPerformed (seen s a) a = false) : exec i s = .next (holdWait (seen s a) a .other false 0) := by
  have hrx : rd (seen s a) a x = .ok (src (seen s a) a x) := rd_ready hx
  have hry : rd (seen s a) a y = .ok (src (seen s a) a y) := rd_ready hy
  rcases hi with ⟨rfl, rfl⟩ | ⟨rfl, rfl⟩
  · refine (show exec (.fork x y) s = execFork x y s from rfl).trans (issue_wait hr ?_)
    simp only [hrx, hry, forkCheck_ok ht h4 h52 hd, ht, hp]
    rfl
  · refine (show exec (.enq x y) s = execEnq x y s from rfl).trans (issue_wait hr ?_)
    simp only [hrx, hry, forkCheck_ok ht h4 h52 hd, ht, hp]
    rfl

variable (hp : ccPerformed (seen s a) a = true)
include hp

omit hr in
theorem child_busy {slot : Option Nat} (hslot : dequeSlot (coreAt (seen s a) a.c) k.depth = some slot)
    (hb : (coreAt (seen s a) a.c).dqBusy = true) :
    ∃ body, exec i s = issue 4 s body ∧ body a (seen s a) = goOnWaiting (seen s a) a := by
  have hrx : rd (seen s a) a x = .ok (src (seen s a) a x) := rd_ready hx
  have hry : rd (seen s a) a y = .ok (src (seen s a) a y) := rd_ready hy
  rcases hi with ⟨rfl, rfl⟩ | ⟨rfl, rfl⟩
  · refine ⟨_, (show exec (.fork x y) s = execFork x y s from rfl), ?_⟩
    simp only [hrx, hry, forkCheck_ok ht h4 h52 hd, ht, hp, hslot, hb]
    rfl
  · refine ⟨_, (show exec (.enq x y) s = execEnq x y s from rfl), ?_⟩
    simp only [hrx, hry, forkCheck_ok ht h4 h52 hd, ht, hp, hslot, hb]
    rfl

theorem child_pushed {slot : Option Nat} (hslot : dequeSlot (coreAt (seen s a) a.c) k.depth = some slot)
    (hb : (coreAt (seen s a) a.c).dqBusy = false) : Runs i s (fun t => t = finish a 4 ⟨pushChild (seen s a) a
      (childOf (seen s a) a k (src (seen s a) a x).toNat (src (seen s a) a y).toNat joined slot), 0, .seq⟩) := by
  have hrx : rd (seen s a) a x = .ok (src (seen s a) a x) := rd_ready hx
  have hry : rd (seen s a) a y = .ok (src (seen s a) a y) := rd_ready hy
  rcases hi with ⟨rfl, rfl⟩ | ⟨rfl, rfl⟩
  · refine .of (show exec (.fork x y) s = execFork x y s from rfl) hr ?_ rfl
    simp only [hrx, hry, forkCheck_ok ht h4 h52 hd, ht, hp, hslot, hb]
    rfl
  · refine .of (show exec (.enq x y) s = execEnq x y s from rfl) hr ?_ rfl
    simp only [hrx, hry, forkCheck_ok ht h4 h52 hd, ht, hp, hslot, hb]
    rfl

end

theorem enq_waits {s : State} {a : At} {x y : BitVec 6} {k : Task} (hr : runner s = some a) (hx : srcReady (seen s a) a x)
    (hy : srcReady (seen s a) a y) (ht : (strandAt (seen s a) a).task = some k) (h4 : (src (seen s a) a x).toNat % 4 = 0)
    (h52 : (src (seen s a) a x).toNat < 2 ^ 52) (hd : k.depth < 255) (hp : ccPerformed (seen s a) a = true)
    (hslot : dequeSlot (coreAt (seen s a) a.c) k.depth = none) (hs : (strandAt (seen s a) a).stopping = false) :
    exec (.enq x y) s = .next (holdWait (seen s a) a .enq true 0) := by
  have hrx : rd (seen s a) a x = .ok (src (seen s a) a x) := rd_ready hx
  have hry : rd (seen s a) a y = .ok (src (seen s a) a y) := rd_ready hy
  refine (show exec (.enq x y) s = execEnq x y s from rfl).trans (issue_wait hr ?_)
  simp only [hrx, hry, forkCheck_ok ht h4 h52 hd, ht, hp, hslot]
  unfold waitOrStop
  rw [hs]
  rfl

theorem goOnWaiting_none {α : Type} {s : State} {a : At} (h : (strandAt s a).wait = none) :
    goOnWaiting (α := α) s a = .error (.wait s .other false 0) := by
  unfold goOnWaiting
  rw [h]

theorem goOnWaiting_some {α : Type} {s : State} {a : At} {w : Wait} (h : (strandAt s a).wait = some w) :
    goOnWaiting (α := α) s a = .error (.wait s w.kind ((strandAt s a).status == .waiting) w.arg) := by
  unfold goOnWaiting
  rw [h]

/-- Settles O40: FORK and ENQ go by their checks, the strand's releases and the core's deque. -/
theorem childrenPushed : Obligations.ChildrenPushed := by
  intro s a x y k hr hx hy u entry arg ht pushes
  have hpushes (i : Instr) (joined : Bool) (hi : i = .fork x y ∧ joined = true ∨ i = .enq x y ∧ joined = false) : pushes i joined := by
    refine ⟨child_stalls hi hr hx hy ht, fun h4 h52 hd hp hb hslot => ?_, fun h4 h52 hd hp hb slot hslot => ?_, fun h => ?_,
      fun h4 h52 hd => child_refused hi hr hx hy (forkCheck_deep ht h4 h52 hd)⟩
    · obtain ⟨slot, hslot⟩ := Option.ne_none_iff_exists'.mp hslot
      obtain ⟨body, he, hbody⟩ := child_busy hi hx hy ht h4 h52 hd hp hslot hb
      exact ⟨fun hw => he.trans (issue_wait hr (hbody.trans (goOnWaiting_none hw))),
        fun w hw => he.trans (issue_wait hr (hbody.trans (goOnWaiting_some hw)))⟩
    · obtain ⟨t, he, rfl⟩ := child_pushed hi hr hx hy ht h4 h52 hd hp hslot hb
      obtain ⟨hq, hj, hl, hm, hst⟩ := pushChild_counts u a k entry arg joined slot
      have hs := strandAt_finish_seq (pushChild u a (childOf u a k entry arg joined slot)) a 4 0
      rw [hst] at hs
      refine ⟨_, he, ⟨{ childOf u a k entry arg joined slot with stamp := (coreAt u a.c).dqStamp }, ?_, rfl, rfl, rfl, rfl, rfl, rfl, rfl⟩, hj, hl, hm, ?_, ?_⟩
      · change (coreAt (onStrand (pushChild u a (childOf u a k entry arg joined slot)) a (advance 4 0 .seq)) a.c).deque = _
        rw [coreAt_onStrand_same]
        exact hq
      · exact hs ▸ follows_advance 4 0 _
      · exact (congrArg Strand.still hs).trans (still_advance 4 0 _)
    · exact child_refused hi hr hx hy (forkCheck_bad h)
  exact ⟨hpushes _ _ (.inl ⟨rfl, rfl⟩), hpushes _ _ (.inr ⟨rfl, rfl⟩),
    fun h4 h52 hd hp hslot hs => enq_waits hr hx hy ht h4 h52 hd hp hslot hs⟩

end Sys2Proof.Machine
end

section
/-! Join frames: FORK without a slot, and JOIN (R25, R26, R286, R343). -/

namespace Sys2Proof.Machine

/-! ## A region whose contents become free (R419) -/

theorem Memory.read_free_outside {m : Memory} (h : m.wf = true) {lo len stamp x : Nat} (hx : ¬(lo ≤ x ∧ x < lo + len)) :
    (m.free lo len stamp).read x = m.read x := by
  have hr := Memory.rising_of_wf h
  have hn : (!inRegion lo len x) = true := by
    rw [Bool.not_eq_true']
    exact Bool.eq_false_iff.mpr fun e => hx ((inRegion_iff _ _ _).mp e)
  have hu : unlistedIn ((lo, len, some (stamp, 0)) :: m.frees) x = m.unlisted x := if_neg hx
  have hcells : (m.free lo len stamp).read x = cellGet (unlistedIn ((lo, len, some (stamp, 0)) :: m.frees) x)
      (keepCells ((lo, len, some (stamp, 0)) :: m.frees) (m.cells.filter (fun c => !inRegion lo len c.1))) x := rfl
  rw [hcells, cellGet_keepCells _ (rising_filter _ hr), hu, cellGet_filter_addr _ (fun x => !inRegion lo len x) hr, if_pos hn]
  rfl

theorem mem_writeUndefined (s : State) (loc n : Nat) : (writeUndefined s loc n).mem = s.mem.free loc n s.freeCount := by
  unfold writeUndefined clearPoison
  dsimp only
  split <;> rfl

theorem writeUndefined_rest (s : State) (loc n : Nat) : (writeUndefined s loc n).noFree = s.noFree := by
  unfold writeUndefined clearPoison
  dsimp only
  split <;> rfl

theorem read_writeUndefined {s : State} (h : s.memOk) {loc n x : Nat} (hx : x < loc ∨ loc + n ≤ x) :
    (writeUndefined s loc n).mem.read x = s.mem.read x := by
  rw [mem_writeUndefined]
  exact Memory.read_free_outside h (by omega)

theorem cores_writeUndefined (s : State) (loc n : Nat) : (writeUndefined s loc n).cores = s.cores := by
  have e := congrArg State.cores (writeUndefined_rest s loc n)
  exact e

/-! ## Join frames (R26, R343) -/

/-- Where the lowest free join frame of a core stands. -/
def joinFrameAt (s : State) (a : At) : Nat := saveArea s (ctxOf s a) a.c + 0x150000 + 0x800 * freeFrame s a.c (ctxOf s a)

/-- The frame that a strand leaves (R25, R26). -/
def joinFrameOf (s : State) (a : At) (inline : Option Nat) : JoinFrame :=
  { job := jobOf s a, ctx := ctxOf s a, strand := framed (strandAt s a), inline := inline, slot := freeFrame s a.c (ctxOf s a) }

/-- A core with one more join frame. -/
def addJoin (f : JoinFrame) (k : Core) : Core := { k with joins := k.joins ++ [f] }

theorem saveFrame_eq (s : State) (a : At) (inline : Option Nat) : saveFrame s a inline =
    onCore (writeUndefined s (joinFrameAt s a) 0x800) a.c (addJoin (joinFrameOf s a inline)) := rfl

theorem framed_reads (t : Strand) : (framed t).task = t.task ∧ (∀ r, gVal (framed t) r = gVal (landAll t) r) ∧
    (t.loop = none → (framed t).pc = BitVec.ofNat 52 (t.pc.toNat + 4)) := by
  obtain ⟨-, hpc, -, -, hloop, -, -, -, htask, -⟩ := landAll_keeps t
  have hrest (t : Strand) : (advance 4 0 .seq t).task = t.task ∧ (advance 4 0 .seq t).g = t.g := by
    have h := still_advance 4 0 t
    have e1 := congrArg Strand.task h
    have e2 := congrArg Strand.g h
    exact ⟨e1, e2⟩
  obtain ⟨h1, h2⟩ := hrest (endTurn t)
  refine ⟨h1.trans htask, fun r => ?_, fun hl => ?_⟩
  · have hg : (framed t).g = (landAll t).g := h2
    unfold gVal
    rw [hg]
  · have hl' : (endTurn t).loop = none := hloop.trans hl
    have hp' : (endTurn t).pc = t.pc := hpc
    have hst := ((follows_advance 4 0 (endTurn t)).straight (fun h hh => by rw [hl'] at hh; cases hh)).1
    rw [hp'] at hst
    exact hst

theorem coreAt_saveFrame (s : State) (a : At) (inline : Option Nat) :
    coreAt (saveFrame s a inline) a.c = addJoin (joinFrameOf s a inline) (coreAt s a.c) := by
  rw [saveFrame_eq, coreAt_onCore_same, coreAt_of_cores (cores_writeUndefined _ _ _)]

theorem strandAt_saveFrame (s : State) (a : At) (inline : Option Nat) (b : At) : strandAt (saveFrame s a inline) b = strandAt s b := by
  rw [saveFrame_eq, strandAt_onCore _ _ (f := addJoin (joinFrameOf s a inline)) (fun _ => rfl),
    strandAt_of_cores (cores_writeUndefined _ _ _)]

/-! ## FORK without a slot (R25, R285) -/

/-- The task of a FORK's child that runs on its creator's strand (R25). -/
def inlineChild (s : State) (a : At) (k : Task) (entry arg : Nat) : Task :=
  { k with
    depth := k.depth + 1, id := s.taskNext + 1, parent := some s.taskNext, card := false, restart := (jobAt s k.job).restart
    deferred := [], run := none, tiles := [], entry := entry, arg := arg, shapes := (strandAt s a).e, grants := [], regrants := []
    attempts := 0 }

/-- The strand of a FORK's child that runs on its creator's strand (R23, R25). -/
def inlineStrand (s : State) (a : At) (k : Task) (entry arg : Nat) (t : Strand) : Strand :=
  startStrand t (inlineChild s a k entry arg) entry [.ofNat 64 arg, 0, 0, .ofNat 64 (jobAt s k.job).id] (strandAt s a).e 0

theorem forkInline_eq (s : State) (a : At) (k : Task) (entry arg : Nat) : ∃ j, forkInline s a k entry arg =
    dropTurn (onJob (onStrand { saveFrame { s with taskNext := s.taskNext + 2 } a (some s.taskNext) with joinCnt := j } a
      (inlineStrand s a k entry arg)) k.job (fun b => { b with live := b.live + 1 })) a := ⟨_, rfl⟩

/-- What stands after a FORK without a slot (R25). -/
theorem forkInline_done {s : State} {a : At} (hok : s.memOk) (hturn : (coreAt s a.c).turn = some a.x) (k : Task) (entry arg : Nat) :
    let t := forkInline s a k entry arg
    strandAt t a = inlineStrand s a k entry arg (strandAt s a) ∧ (coreAt t a.c).joins.length = (coreAt s a.c).joins.length + 1 ∧
    (coreAt t a.c).turn = none ∧ ∀ x, x < joinFrameAt s a ∨ joinFrameAt s a + 0x800 ≤ x → t.mem.read x = s.mem.read x := by
  intro t
  obtain ⟨j, ht⟩ := forkInline_eq s a k entry arg
  let v : State := { s with taskNext := s.taskNext + 2 }
  let w : State := { saveFrame v a (some s.taskNext) with joinCnt := j }
  have hcore : coreAt (onStrand w a (inlineStrand s a k entry arg)) a.c =
      { addJoin (joinFrameOf v a (some s.taskNext)) (coreAt s a.c) with
        strands := (coreAt (onStrand w a (inlineStrand s a k entry arg)) a.c).strands } := by
    have h : coreAt w a.c = addJoin (joinFrameOf v a (some s.taskNext)) (coreAt s a.c) := coreAt_saveFrame v a (some s.taskNext)
    rw [coreAt_onStrand_same, h]
  have hdrop : coreAt t a.c = { coreAt (onStrand w a (inlineStrand s a k entry arg)) a.c with
      turn := if (coreAt (onStrand w a (inlineStrand s a k entry arg)) a.c).turn = some a.x then none
        else (coreAt (onStrand w a (inlineStrand s a k entry arg)) a.c).turn } := by
    simp only [t, ht]
    exact coreAt_onCore_same _ _ _
  refine ⟨?_, ?_, ?_, fun x hx => ?_⟩
  · have h1 : strandAt w a = strandAt s a := strandAt_saveFrame v a (some s.taskNext) a
    have h2 : strandAt (onStrand w a (inlineStrand s a k entry arg)) a = inlineStrand s a k entry arg (strandAt s a) := by
      rw [strandAt_onStrand_same, h1]
    simp only [t, ht]
    exact (strandAt_dropTurn _ _ _).trans h2
  · rw [hdrop, hcore]
    exact List.length_append
  · rw [hdrop, hcore]
    exact if_pos hturn
  · simp only [t, ht]
    exact read_writeUndefined (s := v) hok hx

section
variable {s : State} {a : At} {k : Task} (hr : runner s = some a) (ht : (strandAt (seen s a) a).task = some k)

theorem endByFrame_join (u : State) (a : At) (code : Nat) : endByFrame u a code (0x150000 + 0x800 * freeFrame u a.c (ctxOf u a)) =
    endWith (onCore u a.c (fun k => { k with frameBad := false })) a code 2
      ((ctxAt u (ctxOf u a)).savebase + 2 ^ 21 * a.c + 0x150000 + 0x800 * freeFrame u a.c (ctxOf u a)) := by
  have h : saveArea u (ctxOf u a) a.c + (0x150000 + 0x800 * freeFrame u a.c (ctxOf u a)) =
      (ctxAt u (ctxOf u a)).savebase + 2 ^ 21 * a.c + 0x150000 + 0x800 * freeFrame u a.c (ctxOf u a) := by
    unfold saveArea
    omega
  rw [← h]
  rfl

theorem forkNoSlot_fails {u : State} {en arg code : Nat} (hq : quiet u a = true) (hb : (ctxAt u (ctxOf u a)).savebase ≠ 0)
    (hf : framesUsed u a.c (ctxOf u a) < 64) (hc : frameFails u (ctxOf u a) a.c = some code) : forkNoSlot u a k en arg =
      .ok ⟨endByFrame u a code (0x150000 + 0x800 * freeFrame u a.c (ctxOf u a)), 0, .own⟩ := by
  unfold forkNoSlot
  rw [hq, if_neg (by decide), if_neg hb, if_neg (Nat.not_le.mpr hf), hc]

theorem forkNoSlot_inline {u : State} {en arg : Nat} (hq : quiet u a = true) (hb : (ctxAt u (ctxOf u a)).savebase ≠ 0)
    (hf : framesUsed u a.c (ctxOf u a) < 64) (hc : frameFails u (ctxOf u a) a.c = none) : forkNoSlot u a k en arg =
      .ok ⟨forkInline u a k en arg, 0, .own⟩ := by
  unfold forkNoSlot
  rw [hq, if_neg (by decide), if_neg hb, if_neg (Nat.not_le.mpr hf), hc]

theorem frameFails_iff (u : State) (ctx c code : Nat) : frameFails u ctx c = some code ↔
    (code = 0x99 ∧ areaOutside u ctx c = true) ∨ (code = 0x9A ∧ areaOutside u ctx c = false ∧ (coreAt u c).frameBad = true) := by
  unfold frameFails
  cases areaOutside u ctx c <;> cases (coreAt u c).frameBad <;> simp [eq_comm]

theorem joinWait_fails {u : State} {n code : Nat} (hq : quiet u a = true) (hs : (strandAt u a).stopping = false)
    (hb : (ctxAt u (ctxOf u a)).savebase ≠ 0) (hf : framesUsed u a.c (ctxOf u a) < 64) (hc : frameFails u (ctxOf u a) a.c = some code) :
    joinWait u a n = .ok ⟨endByFrame u a code (0x150000 + 0x800 * freeFrame u a.c (ctxOf u a)), 0, .own⟩ := by
  unfold joinWait
  rw [hq, if_neg (by decide), hs, if_neg (by decide), if_neg hb, if_neg (Nat.not_le.mpr hf), hc]

theorem joinWait_evicts {u : State} {n : Nat} (hq : quiet u a = true) (hs : (strandAt u a).stopping = false)
    (hb : (ctxAt u (ctxOf u a)).savebase ≠ 0) (hf : framesUsed u a.c (ctxOf u a) < 64) (hc : frameFails u (ctxOf u a) a.c = none) :
    joinWait u a n = .ok ⟨evict u a, 0, .own⟩ := by
  unfold joinWait
  rw [hq, if_neg (by decide), hs, if_neg (by decide), if_neg hb, if_neg (Nat.not_le.mpr hf), hc]

include hr ht

theorem fork_noSlot {x y : BitVec 6} (hx : srcReady (seen s a) a x) (hy : srcReady (seen s a) a y)
    (h4 : (src (seen s a) a x).toNat % 4 = 0) (h52 : (src (seen s a) a x).toNat < 2 ^ 52) (hd : k.depth < 255)
    (hp : ccPerformed (seen s a) a = true) (hslot : dequeSlot (coreAt (seen s a) a.c) k.depth = none) {t : State}
    (hb : forkNoSlot (seen s a) a k (src (seen s a) a x).toNat (src (seen s a) a y).toNat = .ok ⟨t, 0, .own⟩) :
    exec (.fork x y) s = .next t := by
  have hrx : rd (seen s a) a x = .ok (src (seen s a) a x) := rd_ready hx
  have hry : rd (seen s a) a y = .ok (src (seen s a) a y) := rd_ready hy
  refine (show exec (.fork x y) s = execFork x y s from rfl).trans (issue_ok hr (d := ⟨t, 0, .own⟩) ?_)
  simp only [hrx, hry, forkCheck_ok ht h4 h52 hd, ht, hp, hslot, hb]
  rfl

theorem join_goes (hj : joinCount (seen s a) k.id = 0) : Runs .join s (fun t => DoneNop 4 (seen s a) t a) := by
  refine .of (show exec .join s = execJoin s from rfl) hr ?_ (finish_nop 4 _ a)
  simp only [ht, hj, if_true]

theorem join_waits (hj : joinCount (seen s a) k.id ≠ 0) {t : State}
    (hb : joinWait (seen s a) a (joinCount (seen s a) k.id) = .ok ⟨t, 0, .own⟩) : exec .join s = .next t := by
  refine (show exec .join s = execJoin s from rfl).trans (issue_ok hr (d := ⟨t, 0, .own⟩) ?_)
  simp only [ht, hj, hb, if_false]

end

/-! ## The eviction of JOIN (R26) -/

theorem evict_done {s : State} {a : At} (hok : s.memOk) (hturn : (coreAt s a.c).turn = some a.x) : let t := evict s a
    (strandAt t a).task = none ∧ (coreAt t a.c).turn = none ∧ (coreAt t a.c).joins = (coreAt s a.c).joins ++ [joinFrameOf s a none] ∧
    (∀ x, x < joinFrameAt s a ∨ joinFrameAt s a + 0x800 ≤ x → t.mem.read x = s.mem.read x) ∧
    Alone s t a State.noFree (fun c => { c with joins := [], turn := none }) := by
  intro t
  have hcore : coreAt (onStrand (saveFrame s a none) a vacated) a.c = { addJoin (joinFrameOf s a none) (coreAt s a.c) with
      strands := (coreAt (onStrand (saveFrame s a none) a vacated) a.c).strands } := by
    rw [coreAt_onStrand_same, coreAt_saveFrame]
  have hdrop : coreAt t a.c = { coreAt (onStrand (saveFrame s a none) a vacated) a.c with
      turn := if (coreAt (onStrand (saveFrame s a none) a vacated) a.c).turn = some a.x then none
        else (coreAt (onStrand (saveFrame s a none) a vacated) a.c).turn } := coreAt_onCore_same _ _ _
  refine ⟨?_, ?_, ?_, fun x hx => read_writeUndefined hok hx, ?_⟩
  · have h : strandAt t a = vacated (strandAt (saveFrame s a none) a) :=
      (strandAt_dropTurn _ _ _).trans (strandAt_onStrand_same _ a vacated)
    rw [h]
    rfl
  · rw [hdrop, hcore]
    exact if_pos hturn
  · rw [hdrop, hcore]
    rfl
  · refine ⟨?_, fun c hc => ?_, ?_, fun x hx => ?_⟩
    · have e := congrArg (fun z : State => { z with cores := [] }) (writeUndefined_rest s (joinFrameAt s a) 0x800)
      exact e
    · have h1 : coreAt t c = coreAt s c := by
        refine (coreAt_onCore_ne _ _ hc).trans ((coreAt_onStrand_ne _ a vacated hc).trans ?_)
        rw [saveFrame_eq, coreAt_onCore_ne _ _ hc, coreAt_of_cores (cores_writeUndefined _ _ _)]
      rw [h1]
    · rw [hdrop, hcore]
      rfl
    · have hne : (⟨a.c, x⟩ : At) ≠ a := fun e => hx (congrArg At.x e)
      exact (strandAt_dropTurn _ _ _).trans ((strandAt_onStrand_ne _ vacated hne).trans (strandAt_saveFrame s a none _))

/-- Settles O41: a join frame keeps its strand, and FORK's child or nothing runs in its place. -/
theorem inlineChildAndJoin : Obligations.InlineChildAndJoin := by
  intro s a k hok hr ht u lo framed fails ended
  have hturn : (coreAt u a.c).turn = some a.x := (turn_seen s a a.c).trans (turn_of_runner hr)
  have hu : u.memOk := hok
  refine ⟨fun x y hx hy h4 h52 hd hp hslot hq hb hf => ⟨fun code hc => ?_, fun hc => ?_⟩, frameFails_iff u (ctxOf u a) a.c,
    join_goes hr ht, fun hj hq hs hb hf code hc => ?_, fun hj hq hs hb hf hc => ?_⟩
  · exact (fork_noSlot hr ht hx hy h4 h52 hd hp hslot (forkNoSlot_fails hq hb hf hc)).trans (congrArg _ (endByFrame_join u a code))
  · obtain ⟨hst, hlen, hnone, hmem⟩ := forkInline_done hu hturn k (src u a x).toNat (src u a y).toNat
    refine ⟨_, fork_noSlot hr ht hx hy h4 h52 hd hp hslot (forkNoSlot_inline hq hb hf hc), ?_⟩
    dsimp only
    simp only [u] at hst
    rw [hst]
    exact ⟨⟨_, rfl, rfl, rfl, rfl⟩, rfl, rfl, rfl, rfl, rfl, hlen, hnone, hmem⟩
  · exact (join_waits hr ht hj (joinWait_fails hq hs hb hf hc)).trans (congrArg _ (endByFrame_join u a code))
  · obtain ⟨h1, h2, h3, h4, h5⟩ := evict_done hu hturn
    obtain ⟨hf1, hf2, hf3⟩ := framed_reads (strandAt u a)
    exact ⟨_, join_waits hr ht hj (joinWait_evicts hq hs hb hf hc), h1, h2, ⟨_, h3, rfl, hf1.trans ht, hf2, hf3⟩, h4, h5⟩

end Sys2Proof.Machine
end

section
/-! Engine entries begin and complete (R149 to R151, R199). -/

namespace Sys2Proof.Machine

/-! ## The FIFOs of TAKE and GIVE bits -/

/-- Bits pick different FIFOs of a row without repetitions. -/
theorem row_nodup {row : List Nat} (h : row.Nodup) (m : Nat) : ((setBits 3 m).filterMap (fun i => row[i]?)).Nodup := by
  refine List.Nodup.filterMap (fun i j b hi hj => ?_) (List.nodup_range.filter _)
  obtain ⟨h1, e1⟩ := List.getElem?_eq_some_iff.mp hi
  obtain ⟨h2, e2⟩ := List.getElem?_eq_some_iff.mp hj
  exact (List.Nodup.getElem_inj_iff h).mp (e1.trans e2.symm)

theorem takeFifos_nodup (q m : Nat) : (takeFifos q m).Nodup := by
  refine row_nodup ?_ m
  rcases q with _ | _ | _ | _ | q
  all_goals simp

theorem giveFifos_nodup (q m : Nat) : (giveFifos q m).Nodup := by
  refine row_nodup ?_ m
  rcases q with _ | _ | _ | _ | q
  all_goals simp

theorem popToken_eq_erase (x : Nat) (l : List Nat) : popToken x l = l.erase x := by
  induction l with
  | nil => rfl
  | cons y t ih =>
    unfold popToken
    rw [List.erase_cons, ih]
    by_cases h : y = x
    · rw [if_pos h, if_pos (beq_iff_eq.mpr h)]
    · rw [if_neg h, if_neg (fun e => h (beq_iff_eq.mp e))]

/-! ## Tokens move one after another -/

/-- What moving tokens of a strand leaves alone: its queues, and all but the FIFOs and the strand's counts. -/
structure TokensMoved (s u : State) (a : At) : Prop where
  alone : Alone s u a id Core.noFifos
  queues : ∀ p, queueAt u a.c p = queueAt s a.c p
  strand : (strandAt u a).noTokens = (strandAt s a).noTokens
  samples : u.samples = s.samples

theorem TokensMoved.refl (s : State) (a : At) : TokensMoved s s a := ⟨.refl _ _, fun _ => rfl, rfl, rfl⟩

theorem TokensMoved.trans {s u v : State} {a : At} (h : TokensMoved s u a) (h' : TokensMoved u v a) : TokensMoved s v a :=
  ⟨h.alone.trans h'.alone, fun p => (h'.queues p).trans (h.queues p), h'.strand.trans h.strand, h'.samples.trans h.samples⟩

theorem TokensMoved.move (s : State) (a : At) (f : Nat) (l : List Nat) {g : Strand → Strand} (hg : ∀ t, (g t).noTokens = t.noTokens) :
    TokensMoved s (onStrand (setFifo s a.c f l) a g) a := by
  refine ⟨(Alone.setFifo s a f l).trans (.strand _ _ _), fun p => ?_, ?_, rfl⟩
  · rw [queueAt_onStrand, queueAt_setFifo]
  · rw [strandAt_onStrand_same, strandAt_setFifo, hg]

/-- One more token taken in a strand's counts. -/
def countTook (f : Nat) (t : Strand) : Strand := { t with took := tabPut t.took f ((tabGet 0 t.took f + 1) % 2 ^ 32) }

/-- One more token given in a strand's counts. -/
def countGave (f : Nat) (t : Strand) : Strand := { t with gave := tabPut t.gave f ((tabGet 0 t.gave f + 1) % 2 ^ 32) }

theorem takeToken_eq (s : State) (a : At) (f : Nat) :
    takeToken s a f = onStrand (setFifo s a.c f ((fifoAt s a.c f).erase a.x)) a (countTook f) := by
  rw [← popToken_eq_erase]; rfl

theorem giveToken_eq (s : State) (a : At) (f : Nat) :
    giveToken s a f = onStrand (setFifo s a.c f (fifoAt s a.c f ++ [a.x])) a (countGave f) := rfl

/-- A strand without the tokens it has taken. -/
def Strand.noTook (t : Strand) : Strand := { t with took := [] }

/-- A strand without the tokens it has given. -/
def Strand.noGave (t : Strand) : Strand := { t with gave := [] }

theorem fifoAt_moved (s : State) (a : At) (f : Nat) (l : List Nat) (g : Strand → Strand) (p : Nat) :
    fifoAt (onStrand (setFifo s a.c f l) a g) a.c p = if p = f then l else fifoAt s a.c p := by
  rw [fifoAt_onStrand]
  by_cases h : p = f
  · subst h; rw [fifoAt_setFifo_same, if_pos rfl]
  · rw [fifoAt_setFifo_ne _ _ (.inr h), if_neg h]

/-- A strand's oldest tokens of different FIFOs are taken. -/
theorem takeTokens_all (a : At) (l : List Nat) (hl : l.Nodup) (s : State) : let u := l.foldl (fun s f => takeToken s a f) s
    TokensMoved s u a ∧ (∀ p, fifoAt u a.c p = if p ∈ l then (fifoAt s a.c p).erase a.x else fifoAt s a.c p) ∧
    (strandAt u a).noTook = (strandAt s a).noTook := by
  induction l generalizing s with
  | nil => exact ⟨.refl _ _, fun p => by simp, rfl⟩
  | cons f l ih =>
    obtain ⟨hf, hl⟩ := List.nodup_cons.mp hl
    obtain ⟨h1, h2, h3⟩ := ih hl (takeToken s a f)
    have hm : TokensMoved s (takeToken s a f) a := by rw [takeToken_eq]; exact .move s a f _ fun _ => rfl
    refine ⟨hm.trans h1, fun p => (h2 p).trans ?_, h3.trans ?_⟩
    · rw [takeToken_eq, fifoAt_moved]
      by_cases h : p = f
      · subst h; simp [hf]
      · simp [h]
    · rw [takeToken_eq, strandAt_onStrand_same, strandAt_setFifo]; rfl

/-- A strand's tokens are given to different FIFOs. -/
theorem giveTokens_all (a : At) (l : List Nat) (hl : l.Nodup) (s : State) : let u := l.foldl (fun s f => giveToken s a f) s
    TokensMoved s u a ∧ (∀ p, fifoAt u a.c p = if p ∈ l then fifoAt s a.c p ++ [a.x] else fifoAt s a.c p) ∧
    (strandAt u a).noGave = (strandAt s a).noGave := by
  induction l generalizing s with
  | nil => exact ⟨.refl _ _, fun p => by simp, rfl⟩
  | cons f l ih =>
    obtain ⟨hf, hl⟩ := List.nodup_cons.mp hl
    obtain ⟨h1, h2, h3⟩ := ih hl (giveToken s a f)
    have hm : TokensMoved s (giveToken s a f) a := by rw [giveToken_eq]; exact .move s a f _ fun _ => rfl
    refine ⟨hm.trans h1, fun p => (h2 p).trans ?_, h3.trans ?_⟩
    · rw [giveToken_eq, fifoAt_moved]
      by_cases h : p = f
      · subst h; simp [hf]
      · simp [h]
    · rw [giveToken_eq, strandAt_onStrand_same, strandAt_setFifo]; rfl

/-- The first of a list that fails a test. -/
theorem find_first {l l1 l2 : List Nat} {f : Nat} {p : Nat → Bool} (h : l = l1 ++ f :: l2) (h1 : ∀ x, x ∈ l1 → p x = false)
    (hf : p f = true) : l.find? p = some f := by
  rw [h, List.find?_append, List.find?_eq_none.mpr fun x hx => by rw [h1 x hx]; decide]
  simp [hf]

/-! ## Heads of queues -/

section
variable {s : State} {c : Nat} {e : Entry} {rest : List Entry}

theorem headEntry_of {q : Nat} (h : queueAt s c q = e :: rest) : headEntry s c q = some e := by
  unfold headEntry
  rw [h]
  rfl

theorem putEntry_eq (h : queueAt s c e.q = e :: rest) {f : Entry} (hq : f.q = e.q) : putEntry s c f = setQueue s c e.q (f :: rest) := by
  unfold putEntry
  rw [hq, h]
  rfl

/-- An entry that waits from now on. -/
def Entry.waitsFor (s : State) (c : Nat) (e : Entry) (k : EngWait) : Entry :=
  { e with wait := k, waited := 0, limit := waitBound (strandAt s ⟨c, e.sx⟩) }

theorem holdEntry_new (h : queueAt s c e.q = e :: rest) {k : EngWait} (hk : e.wait ≠ k) :
    holdEntry s c e k = setQueue s c e.q (e.waitsFor s c k :: rest) := by
  unfold holdEntry
  rw [putEntry_eq h (f := { e with
    wait := k
    waited := if e.wait = k then e.waited else 0
    limit := if e.wait = k then e.limit else waitBound (strandAt s ⟨c, e.sx⟩) }) rfl]
  simp only [if_neg hk]
  rfl

/-- A step that leaves the entry to wait for what it has not waited for. -/
theorem entryStep_holds (h : queueAt s c e.q = e :: rest) {k : EngWait} (hk : e.wait ≠ k) :
    entryStep s c e (holdEntry s c e k) = .next (setQueue s c e.q (e.waitsFor s c k :: rest)) := by
  have hne : ¬(headEntry (holdEntry s c e k) c e.q = some e ∧
      (strandAt (holdEntry s c e k) ⟨c, e.sx⟩).pendTrap = (strandAt s ⟨c, e.sx⟩).pendTrap) := by
    rintro ⟨h1, -⟩
    rw [holdEntry_new h hk, headEntry, queueAt_setQueue_same] at h1
    have hw : (e.waitsFor s c k).wait = e.wait := congrArg Entry.wait (Option.some.inj h1)
    exact hk hw.symm
  unfold entryStep
  rw [if_neg hne, holdEntry_new h hk]

/-- What holds of a state in which only the head entry has begun to wait. -/
theorem waits_done (k : EngWait) : let t := setQueue s c e.q (e.waitsFor s c k :: rest)
    queueAt t c e.q = e.waitsFor s c k :: rest ∧ (∀ p, p ≠ e.q → queueAt t c p = queueAt s c p) ∧
    Alone s t ⟨c, e.sx⟩ id Core.noQueues ∧ strandAt t ⟨c, e.sx⟩ = strandAt s ⟨c, e.sx⟩ :=
  ⟨queueAt_setQueue_same .., fun _ hp => queueAt_setQueue_ne _ _ (.inr hp), Alone.setQueue s ⟨c, e.sx⟩ e.q _, strandAt_setQueue ..⟩

end

/-! ## Entries that begin (R150, R151) -/

section
variable {s : State} {c : Nat} {q : BitVec 2} {e : Entry} {rest : List Entry} (hh : queueAt s c q.toNat = e :: rest)
  (hq : e.q = q.toNat) (hb : e.begun = false) (hm : mayBegin s c e = true)
include hh hq hb hm

theorem entry_begin_waits {f : Nat} {l1 l2 : List Nat} (hl : takeFifos e.q e.take = l1 ++ f :: l2)
    (h1 : ∀ x, x ∈ l1 → e.sx ∈ fifoAt s c x) (hf : e.sx ∉ fifoAt s c f) (hw : e.wait ≠ .tokens f) :
    exec (.engineEntryBegin c q) s = .next (setQueue s c e.q (e.waitsFor s c (.tokens f) :: rest)) := by
  have hmiss : missingToken s ⟨c, e.sx⟩ (takeFifos e.q e.take) = some f :=
    find_first hl (fun x hx => by simp [h1 x hx]) (by simp [hf])
  have hh' : queueAt s c e.q = e :: rest := hq ▸ hh
  have htok : takeEntryTokens s c e = .error f := by
    unfold takeEntryTokens
    dsimp only
    rw [hmiss]
  refine (show _ = execEngineEntryBegin c q s from rfl).trans ?_
  unfold execEngineEntryBegin
  simp only [headEntry_of hh, hb, hm, htok]
  exact entryStep_holds hh' hw

omit hq in
theorem entry_begin_takes (ht : ∀ f, f ∈ takeFifos e.q e.take → e.sx ∈ fifoAt s c f) :
    exec (.engineEntryBegin c q) s = .next (beginEntry ((takeFifos e.q e.take).foldl (fun s f => takeToken s ⟨c, e.sx⟩ f) s) c
      { e with begun := true, began := s.cycle, wait := .none, waited := 0 }) := by
  have hmiss : missingToken s ⟨c, e.sx⟩ (takeFifos e.q e.take) = none :=
    List.find?_eq_none.mpr fun x hx => by simp [ht x hx]
  have htok : takeEntryTokens s c e = .ok ((takeFifos e.q e.take).foldl (fun s f => takeToken s ⟨c, e.sx⟩ f) s,
      { e with begun := true, began := s.cycle, wait := .none, waited := 0 }) := by
    unfold takeEntryTokens
    dsimp only
    rw [hmiss]
  refine (show _ = execEngineEntryBegin c q s from rfl).trans ?_
  unfold execEngineEntryBegin
  simp only [headEntry_of hh, hb, hm, htok]
  rfl

end

theorem beginEntry_vector {u : State} {c : Nat} {e f : Entry} {rest : List Entry} (h : queueAt u c 1 = e :: rest) (hf : f.q = 1) :
    queueAt (beginEntry u c f) c 1 = f :: rest := by
  unfold beginEntry
  rw [if_neg (by rw [hf]; decide), if_pos hf, putEntry, hf, queueAt_setQueue_same, h]
  rfl

theorem begin_behind {s : State} {c i : Nat} {e b : Entry} (hh : (queueAt s c 2).head? = some e) (hb : e.begun = true)
    (hn : nextBehind (queueAt s c 2) = some (i, b)) (hm : mayBegin s c b = true)
    (ht : b.begun = true ∨ ∀ f, f ∈ takeFifos 2 b.take → b.sx ∈ fifoAt s c f) :
    exec (.engineEntryBegin c 2) s = .next (beginBehind s c i b) := by
  have hgo : (mayBegin s c b && (b.begun || (missingToken s ⟨c, b.sx⟩ (takeFifos 2 b.take)).isNone)) = true := by
    rw [hm, Bool.true_and, Bool.or_eq_true]
    refine ht.imp_right fun h => ?_
    have hmiss : missingToken s ⟨c, b.sx⟩ (takeFifos 2 b.take) = none := List.find?_eq_none.mpr fun x hx => by simp [h x hx]
    rw [hmiss]
    rfl
  refine (show _ = execEngineEntryBegin c 2 s from rfl).trans ?_
  have hhe : headEntry s c (2 : BitVec 2).toNat = some e := hh
  unfold execEngineEntryBegin
  simp only [hhe, hb, if_true, hn, hgo]

/-! ## Entries that complete (R149, R195, R199) -/

section
variable {s : State} {c : Nat} {q : BitVec 2} {e : Entry} {rest : List Entry} (hh : queueAt s c q.toNat = e :: rest)
  (hq : e.q = q.toNat) (he : e.ended = true) (hf : e.fault = none) (ha : (strandAt s ⟨c, e.sx⟩).atStop = false)
include hh hq he hf ha

theorem entry_complete_held (hheld : completionHeld s c e = true) {k : EngWait} (hk : completeEntry s c e = holdEntry s c e k)
    (hw : e.wait ≠ k) : exec (.engineEntryComplete c q) s = .next (setQueue s c e.q (e.waitsFor s c k :: rest)) := by
  have hh' : queueAt s c e.q = e :: rest := hq ▸ hh
  refine (show _ = execEngineEntryComplete c q s from rfl).trans ?_
  unfold execEngineEntryComplete
  simp only [headEntry_of hh, he, hf, ha, hheld, hk]
  exact entryStep_holds hh' hw

omit hq in
theorem entry_completes (hheld : completionHeld s c e = false) :
    exec (.engineEntryComplete c q) s = .next (completeEntry s c e) := by
  refine (show _ = execEngineEntryComplete c q s from rfl).trans ?_
  unfold execEngineEntryComplete
  simp only [headEntry_of hh, he, hf, ha, hheld]
  rfl

end

section
variable {s : State} {c : Nat} {e : Entry}

theorem complete_full {f : Nat} (h : fullFifo s c (giveFifos e.q e.give) = some f) :
    completionHeld s c e = true ∧ completeEntry s c e = holdEntry s c e (.room 0 f) := by
  unfold completionHeld completeEntry
  dsimp only
  rw [h]
  exact ⟨rfl, rfl⟩

variable (hroom : fullFifo s c (giveFifos e.q e.give) = none)
include hroom

theorem complete_release (h : releaseHeldUp s c e = true) :
    completionHeld s c e = true ∧ completeEntry s c e = holdEntry s c e .other := by
  unfold completionHeld completeEntry
  dsimp only
  rw [hroom, h]
  exact ⟨rfl, rfl⟩

variable (hrel : releaseHeldUp s c e = false)
include hrel

theorem complete_results (h : e.prog.result.isSome = true) (hr : 16 ≤ (strandAt s ⟨c, e.sx⟩).resq.length) :
    completionHeld s c e = true ∧ completeEntry s c e = holdEntry s c e (.room 1 16) := by
  unfold completionHeld completeEntry
  dsimp only
  rw [hroom, hrel, h, decide_eq_true hr, if_neg (by decide), if_pos ⟨rfl, hr⟩]
  exact ⟨rfl, rfl⟩

variable (hres : e.prog.result = none ∨ (strandAt s ⟨c, e.sx⟩).resq.length < 16)
include hres

theorem completion_free : completionHeld s c e = false := by
  unfold completionHeld
  rw [hroom, hrel]
  rcases hres with h | h
  · rw [h]; rfl
  · rw [decide_eq_false (Nat.not_le.mpr h), Bool.and_false]; rfl

/-- A strand whose entry has completed (R148, R195). -/
def entryDone (e : Entry) (t : Strand) : Strand :=
  { t with
    done := tabPut t.done e.q e.seq
    resq := t.resq ++ e.prog.result.toList.map (BitVec.ofNat 64)
    resPushed := if e.prog.result.isSome then (t.resPushed + 1) % 2 ^ 32 else t.resPushed }

omit hroom hrel hres in
theorem entryDone_eq (e : Entry) (t : Strand) :
    (match e.prog.result with
      | some v => { t with done := tabPut t.done e.q e.seq, resq := t.resq ++ [BitVec.ofNat 64 v], resPushed := (t.resPushed + 1) % 2 ^ 32 }
      | none => { t with done := tabPut t.done e.q e.seq }) = entryDone e t := by
  unfold entryDone
  cases e.prog.result with
  | none => simp
  | some v => rfl

theorem completeEntry_error {x : Cause} (h : countDraws s ⟨c, e.sx⟩ e = .error x) : completeEntry s c e = failEntry s c e x := by
  have hno : ¬(e.prog.result.isSome = true ∧ 16 ≤ (strandAt s ⟨c, e.sx⟩).resq.length) := by
    rintro ⟨h1, h2⟩
    rcases hres with h | h
    · rw [h] at h1; cases h1
    · omega
  unfold completeEntry
  dsimp only
  rw [hroom, hrel, if_neg (by decide), if_neg hno, h]

/-- The state in which an entry's tokens are given, its draws counted (R199). -/
def entryGives (w : State) (c : Nat) (e : Entry) (l : List (Nat × Nat)) : State :=
  (giveFifos e.q e.give).foldl (fun s f => giveToken s ⟨c, e.sx⟩ f) (popEntry (withSamples w l) c e.q)

theorem completeEntry_ok {w : State} (h : countDraws s ⟨c, e.sx⟩ e = .ok w) (hrec : entryRecord e = none) :
    ∃ l, completeEntry s c e = onStrand (entryGives w c e l) ⟨c, e.sx⟩ (entryDone e) := by
  have hno : ¬(e.prog.result.isSome = true ∧ 16 ≤ (strandAt s ⟨c, e.sx⟩).resq.length) := by
    rintro ⟨h1, h2⟩
    rcases hres with h | h
    · rw [h] at h1; cases h1
    · omega
  obtain ⟨l, hl⟩ : ∃ l, (if e.q = 0 ∨ e.q = 3 then sampleFor w 1 (coreTarget c) (w.cycle - e.began) else w) = withSamples w l := by
    split
    · exact sampleFor_eq _ _ _ _
    · exact ⟨w.samples, rfl⟩
  refine ⟨l, ?_⟩
  have hfun : entryDone e = fun t => match e.prog.result with
      | some v => { t with done := tabPut t.done e.q e.seq, resq := t.resq ++ [BitVec.ofNat 64 v], resPushed := (t.resPushed + 1) % 2 ^ 32 }
      | none => { t with done := tabPut t.done e.q e.seq } := funext fun t => (entryDone_eq e t).symm
  unfold completeEntry
  dsimp only
  rw [hroom, hrel, if_neg (by decide), if_neg hno, h, hrec, hfun]
  dsimp only
  rw [hl]
  rfl

end

/-- What stands when an entry has completed, w the state in which its draws stand counted (R199). -/
theorem entry_completed (w : State) (c : Nat) (e : Entry) (l : List (Nat × Nat)) :
    let a : At := ⟨c, e.sx⟩
    let t := onStrand (entryGives w c e l) a (entryDone e)
    queueAt t c e.q = (queueAt w c e.q).tail ∧ (∀ p, p ≠ e.q → queueAt t c p = queueAt w c p) ∧
    (∀ f, fifoAt t c f = if f ∈ giveFifos e.q e.give then fifoAt w c f ++ [e.sx] else fifoAt w c f) ∧
    tabGet 0 (strandAt t a).done e.q = e.seq ∧
    (∀ p, p ≠ e.q → tabGet 0 (strandAt t a).done p = tabGet 0 (strandAt w a).done p) ∧
    (strandAt t a).resq = (strandAt w a).resq ++ e.prog.result.toList.map (BitVec.ofNat 64) ∧
    Alone w t a (fun z => { z with samples := [] }) (fun k => { k with queues := [], fifos := [] }) ∧
    { strandAt t a with done := [], resq := [], resPushed := 0, gave := [] } =
      { strandAt w a with done := [], resq := [], resPushed := 0, gave := [] } := by
  intro a t
  let v := popEntry (withSamples w l) c e.q
  have hv (p : Nat) : queueAt v c p = if p = e.q then (queueAt w c e.q).tail else queueAt w c p := by
    by_cases h : p = e.q
    · subst h; rw [if_pos rfl]; exact queueAt_setQueue_same ..
    · rw [if_neg h]; exact queueAt_setQueue_ne _ _ (.inr h)
  have hvs : strandAt v a = strandAt w a := strandAt_setQueue ..
  have hvf (p : Nat) : fifoAt v c p = fifoAt w c p := fifoAt_setQueue ..
  obtain ⟨hmoved, hfifo, hgave⟩ := giveTokens_all a (giveFifos e.q e.give) (giveFifos_nodup _ _) v
  have hstep : strandAt t a = entryDone e (strandAt (entryGives w c e l) a) := strandAt_onStrand_same _ a _
  have hgave' : (strandAt (entryGives w c e l) a).noGave = (strandAt w a).noGave := hgave.trans (congrArg _ hvs)
  have hdone : (strandAt (entryGives w c e l) a).done = (strandAt w a).done := by
    have e := congrArg Strand.done hgave'
    exact e
  have hresq : (strandAt (entryGives w c e l) a).resq = (strandAt w a).resq := by
    have e := congrArg Strand.resq hgave'
    exact e
  refine ⟨?_, fun p hp => ?_, fun p => ?_, ?_, fun p hp => ?_, ?_, ?_, ?_⟩
  · exact (queueAt_onStrand ..).trans ((hmoved.queues e.q).trans ((hv e.q).trans (if_pos rfl)))
  · exact (queueAt_onStrand ..).trans ((hmoved.queues p).trans ((hv p).trans (if_neg hp)))
  · refine (fifoAt_onStrand ..).trans ((hfifo p).trans ?_)
    rw [hvf]
  · rw [hstep]; exact tabGet_put_same _ _ _ _
  · rw [hstep, ← hdone]; exact tabGet_put_ne _ _ _ hp
  · rw [hstep, ← hresq]; rfl
  · have h1 : Alone w v a (fun z => { z with samples := [] }) (fun k => { k with queues := [], fifos := [] }) := by
      obtain ⟨h1, h2, h3, h4⟩ := Alone.setQueue (withSamples w l) a e.q ((queueAt (withSamples w l) c e.q).tail)
      exact ⟨congrArg (fun z : State => { z with samples := [] }) h1, fun d hd => congrArg (fun k : Core => { k with fifos := [] }) (h2 d hd),
        congrArg (fun k : Core => { k with fifos := [] }) h3, h4⟩
    have h2 : Alone v (entryGives w c e l) a (fun z => { z with samples := [] }) (fun k => { k with queues := [], fifos := [] }) := by
      obtain ⟨h1, h2, h3, h4⟩ := hmoved.alone
      exact ⟨congrArg (fun z : State => { z with samples := [] }) h1, fun d hd => congrArg (fun k : Core => { k with queues := [] }) (h2 d hd),
        congrArg (fun k : Core => { k with queues := [] }) h3, h4⟩
    exact (h1.trans h2).trans (.strand _ _ _)
  · rw [hstep]
    have e1 := congrArg (fun t : Strand => { t with done := [], resq := [], resPushed := 0 }) hgave'
    exact e1

/-- Settles O50: the head entry begins with its tokens and completes with its own, or waits for what it lacks. -/
theorem entriesBeginAndComplete : Obligations.EntriesBeginAndComplete := by
  refine ⟨?_, fun s c i e b hh hb hn hm ht => begin_behind hh hb hn hm ht, ?_⟩
  · intro s c q e rest hh hq hb hm a takes e1
    have hh' : queueAt s c e.q = e :: rest := hq ▸ hh
    refine ⟨fun f l1 l2 hl h1 hf hw => ⟨_, entry_begin_waits hh hq hb hm hl h1 hf hw, waits_done _⟩, fun ht => ?_⟩
    obtain ⟨hmoved, hfifo, hst⟩ := takeTokens_all a takes (takeFifos_nodup _ _) s
    have hqu := (hmoved.queues e.q).trans hh'
    refine ⟨_, entry_begin_takes hh hb hm ht, hfifo, hmoved.alone, hst, hqu, fun hq1 => ?_⟩
    have he1 : e1.q = 1 := hq.trans (by rw [hq1]; rfl)
    have hqu1 : queueAt (takes.foldl (fun s f => takeToken s a f) s) c 1 = e :: rest := by rw [← he1]; exact hqu
    exact beginEntry_vector hqu1 he1
  · intro s w c q e rest hh hq he hf a gives room waits ha
    have hh' : queueAt s c e.q = e :: rest := hq ▸ hh
    have hwait (k : EngWait) (h : completionHeld s c e = true ∧ completeEntry s c e = holdEntry s c e k) : waits k := by
      intro hk
      obtain ⟨h1, -, h3, h4⟩ := waits_done (s := s) (c := c) (e := e) (rest := rest) k
      exact ⟨_, entry_complete_held hh hq he hf ha h.1 h.2 hk, h1, h3, h4⟩
    have hroom (h : room) : fullFifo s c gives = none := List.find?_eq_none.mpr fun x hx => by simp [Nat.not_le.mpr (h x hx)]
    refine ⟨fun f l1 l2 hl h1 hfull => hwait _ (complete_full (find_first hl (fun x hx => by simp [Nat.not_le.mpr (h1 x hx)]) (by simp [hfull]))),
      fun hr hrel => hwait _ (complete_release (hroom hr) hrel),
      fun hr hrel hres hlen => hwait _ (complete_results (hroom hr) hrel hres hlen), fun hr hrel hres => ?_⟩
    have hx := entry_completes hh he hf ha (completion_free (hroom hr) hrel hres)
    refine ⟨hx, fun hd => ?_, fun x hcx => hx.trans (congrArg _ (completeEntry_error (hroom hr) hrel hres hcx)), fun hw hrec => ?_⟩
    · unfold countDraws
      dsimp only
      rw [hd]
      exact ite_self _
    · obtain ⟨l, hl⟩ := completeEntry_ok (hroom hr) hrel hres hw hrec
      exact ⟨_, hx.trans (congrArg _ hl), entry_completed w c e l⟩

end Sys2Proof.Machine
end

section
/-! A copy whose entry holds bytes of a granule that it has not read (R50, R201). -/

namespace Sys2Proof.Machine

/-- A flat copy of 16 bytes within pond 0 whose progress holds 16 bytes 1 as those of granule 0. -/
def copiesTaken : Entry where
  q := 0
  word := 0
  pc := 0
  seq := 0
  sx := 0
  job := 1
  take := 0
  give := 0
  ga := 0
  gb := 0
  gc := 0
  op := .flat ⟨2, 0, 1024⟩ ⟨2, 0, 0⟩ 16 0 false
  draws := []
  drawn := true
  payload := []
  begun := true
  ended := false
  prog := { Prog.start with taken := [(0, List.replicate 16 1)] }
  wait := .none
  waited := 0
  limit := 0
  fault := none
  after := 0
  acq := 0
  began := 0

/-- Pond memory 0, the copy at the head of LQ, its job running. -/
def holdsTaken : State :=
  { State.reset with
    cores := [(0, { Core.reset 0 with queues := [(0, [copiesTaken])] })]
    jobs := [(1, { Job.none with phase := 1 })] }

/-- The bytes at the copy's destination after an attempt. -/
def copiedTo (o : Host.Outcome State Fault Refusal) : List Byte :=
  match o with
  | .next t => loadN t (locPond 0 1024) 16
  | _ => []

/-- The copy writes the bytes that its progress holds. -/
theorem copySector_taken : copiedTo (exec (.copySector 0 0) holdsTaken) = List.replicate 16 1 := by decide

/-- Refutes O51: a sector of a copy takes the bytes of a granule that its progress holds, here 16 bytes 1, where memory at its
source holds 16 bytes 0. -/
theorem not_unitsWork : ¬ Obligations.UnitsWork := by
  rintro ⟨-, hwork, -⟩
  obtain ⟨-, hcopy, -⟩ := hwork holdsTaken 0 copiesTaken [] rfl rfl (by decide)
  obtain ⟨t, ht, hbytes, -⟩ := hcopy 0 1024 0 16 false rfl rfl rfl (by decide) (by decide) rfl rfl rfl (by decide) (.inr (by decide))
  have htaken := copySector_taken
  rw [ht] at htaken
  have hzero : loadN holdsTaken (locPond 0 0) 16 = List.replicate 16 0 := by decide
  exact absurd (htaken.symm.trans (hbytes.trans hzero)) (by decide)

end Sys2Proof.Machine
end

section
/-! Versions: publishing, binding, PUBV, TSUB and SWAIT (R106 to R116, R279 to R283). -/

namespace Sys2Proof.Machine

/-! ## The tile table (R94, R102) -/

/-- Does a tile of unit n lie at the handle's offset in its pool (R100)? -/
def tileNamed (s : State) (n ctx h : Nat) (t : Tile) : Bool :=
  t.pool == 64 * ctx + hPool h && t.space == hSpace h && coversOff (handleOf n (poolAt (unitAt s n) t.pool) t) t.need h

theorem tileAt_iff {s : State} {n ctx h : Nat} {t : Tile} : tileAt s n ctx h = some t ↔
    (unitAt s n).tiles.find? (tileNamed s n ctx h) = some t ∧ t.gen = hGen h := by
  have hu : tileUnder s n ctx h = (unitAt s n).tiles.find? (tileNamed s n ctx h) := rfl
  unfold tileAt
  rw [hu]
  cases (unitAt s n).tiles.find? (tileNamed s n ctx h) with
  | none => simp
  | some u =>
    dsimp only
    split
    · next hg => simp only [Option.some.injEq]; exact ⟨fun h => ⟨h, h ▸ hg⟩, fun h => h.1⟩
    · next hg => simp only [reduceCtorEq, Option.some.injEq, false_iff]; rintro ⟨rfl, h⟩; exact hg h

/-- The same tiles at the same bases. -/
structure SameTiles (s v : State) : Prop where
  tiles : ∀ n, (unitAt v n).tiles = (unitAt s n).tiles
  bases : ∀ n key, (poolAt (unitAt v n) key).base = (poolAt (unitAt s n) key).base

theorem SameTiles.of_units {s v : State} (h : v.units = s.units) : SameTiles s v := by
  have hu (n : Nat) : unitAt v n = unitAt s n := by unfold unitAt; rw [h]
  exact ⟨fun n => by rw [hu], fun n key => by rw [hu]⟩

theorem SameTiles.trans {s u v : State} (h : SameTiles s u) (h' : SameTiles u v) : SameTiles s v :=
  ⟨fun n => (h'.tiles n).trans (h.tiles n), fun n key => (h'.bases n key).trans (h.bases n key)⟩

theorem tileNamed_congr {s v : State} {n : Nat}
    (hb : ∀ key, (poolAt (unitAt v n) key).base = (poolAt (unitAt s n) key).base) (ctx h : Nat) :
    tileNamed v n ctx h = tileNamed s n ctx h := by
  funext t
  unfold tileNamed handleOf
  rw [hb]

theorem SameTiles.tileAt {s v : State} (hv : SameTiles s v) (n ctx h : Nat) : tileAt v n ctx h = tileAt s n ctx h := by
  apply Option.ext
  intro t
  rw [tileAt_iff, tileAt_iff, tileNamed_congr (hv.bases n), hv.tiles n]

/-- Two entries for one tile: what places and names it is equal. -/
structure SameEntry (t t' : Tile) : Prop where
  pool : t'.pool = t.pool
  gran : t'.gran = t.gran
  gen : t'.gen = t.gen
  space : t'.space = t.space
  need : t'.need = t.need

theorem SameEntry.left {t t' : Tile} (h : SameEntry t t') (x : Tile) : sameTile t' x = sameTile t x := by
  unfold sameTile
  rw [h.pool, h.gran, h.gen]

theorem SameEntry.right {t t' : Tile} (h : SameEntry t t') (x : Tile) : sameTile x t' = sameTile x t := by
  unfold sameTile
  rw [h.pool, h.gran, h.gen]

theorem SameEntry.tileNamed {t t' : Tile} (h : SameEntry t t') (s : State) (n ctx g : Nat) : tileNamed s n ctx g t' = tileNamed s n ctx g t := by
  unfold Machine.tileNamed handleOf
  rw [h.pool, h.gran, h.gen, h.space, h.need]

theorem sameTile_comm (x y : Tile) : sameTile x y = sameTile y x := by
  unfold sameTile
  rw [Bool.beq_comm (a := x.pool), Bool.beq_comm (a := x.gran), Bool.beq_comm (a := x.gen)]

theorem sameTile_self (x : Tile) : sameTile x x = true := by simp [sameTile]

/-- The entries of a unit's tile table are different tiles. -/
def apartAt (s : State) (n : Nat) : Prop := (unitAt s n).tiles.Pairwise (fun x y => sameTile x y = false)

theorem apartAt.ne {s : State} {n : Nat} (h : apartAt s n) {x y : Tile} (hx : x ∈ (unitAt s n).tiles) (hy : y ∈ (unitAt s n).tiles)
    (hne : x ≠ y) : sameTile x y = false := by
  have hsym : Std.Symm (fun x y : Tile => sameTile x y = false) := ⟨fun x y e => (sameTile_comm y x).trans e⟩
  exact List.Pairwise.forall (R := fun x y : Tile => sameTile x y = false) h hx hy hne

theorem apartAt.eq {s : State} {n : Nat} (h : apartAt s n) {x y : Tile} (hx : x ∈ (unitAt s n).tiles) (hy : y ∈ (unitAt s n).tiles)
    (he : sameTile x y = true) : x = y := by
  by_contra hne
  rw [h.ne hx hy hne] at he
  exact Bool.false_ne_true he

theorem mem_of_tileAt {s : State} {n ctx h : Nat} {t : Tile} (ht : tileAt s n ctx h = some t) : t ∈ (unitAt s n).tiles :=
  List.mem_of_find?_eq_some (tileAt_iff.mp ht).1

/-- A tile's new entry in the place of the old one. -/
def asEntry (t' v : Tile) : Tile := if sameTile t' v then t' else v

theorem asEntry_same {t t' v : Tile} (h : SameEntry t t') (hv : sameTile t v = true) : asEntry t' v = t' := by
  rw [asEntry, h.left, hv]
  rfl

theorem asEntry_other {t t' v : Tile} (h : SameEntry t t') (hv : sameTile t v = false) : asEntry t' v = v := by
  rw [asEntry, h.left, hv]
  rfl

section
variable {s : State} {n : Nat} {t t' : Tile} (hn : apartAt s n) (ht : t ∈ (unitAt s n).tiles) (he : SameEntry t t')

theorem putTile_units (s : State) (n : Nat) (t' : Tile) :
    unitAt (putTile s n t') n = { unitAt s n with tiles := (unitAt s n).tiles.map (asEntry t') } :=
  unitAt_onUnit_same _ _ _

theorem putTile_units_ne {i : Nat} (h : i ≠ n) : unitAt (putTile s n t') i = unitAt s i := unitAt_onUnit_ne _ _ h

theorem putTile_bases (i key : Nat) : (poolAt (unitAt (putTile s n t') i) key).base = (poolAt (unitAt s i) key).base := by
  by_cases hi : i = n
  · subst hi
    rw [putTile_units]
    rfl
  · rw [putTile_units_ne hi]

include hn ht he

theorem asEntry_entry {v : Tile} (hv : v ∈ (unitAt s n).tiles) : SameEntry v (asEntry t' v) := by
  cases hs : sameTile t v with
  | true => rw [asEntry_same he hs, ← hn.eq ht hv hs]; exact he
  | false => rw [asEntry_other he hs]; exact ⟨rfl, rfl, rfl, rfl, rfl⟩

theorem tileAt_putTile (ctx h : Nat) : tileAt (putTile s n t') n ctx h = (tileAt s n ctx h).map (asEntry t') := by
  have hf : (unitAt (putTile s n t') n).tiles.find? (tileNamed (putTile s n t') n ctx h) =
      ((unitAt s n).tiles.find? (tileNamed s n ctx h)).map (asEntry t') := by
    rw [tileNamed_congr (putTile_bases n), putTile_units, List.find?_map]
    refine congrArg _ (List.find?_congr ?_)
    intro v hv
    exact (asEntry_entry hn ht he hv).tileNamed s n ctx h
  apply Option.ext
  intro x
  rw [tileAt_iff, hf, Option.map_eq_some_iff, Option.map_eq_some_iff]
  constructor
  · rintro ⟨⟨v, hv, rfl⟩, hg⟩
    refine ⟨v, tileAt_iff.mpr ⟨hv, ?_⟩, rfl⟩
    rw [← hg, (asEntry_entry hn ht he (List.mem_of_find?_eq_some hv)).gen]
  · rintro ⟨v, hv, rfl⟩
    refine ⟨⟨v, (tileAt_iff.mp hv).1, rfl⟩, ?_⟩
    rw [(asEntry_entry hn ht he (mem_of_tileAt hv)).gen, (tileAt_iff.mp hv).2]

theorem apartAt_putTile : apartAt (putTile s n t') n := by
  have hp : ((unitAt s n).tiles.map (asEntry t')).Pairwise (fun x y => sameTile x y = false) := by
    rw [List.pairwise_map]
    refine List.Pairwise.imp_of_mem ?_ hn
    intro x y hx hy hxy
    rw [(asEntry_entry hn ht he hx).left, (asEntry_entry hn ht he hy).right]
    exact hxy
  unfold apartAt
  rw [putTile_units]
  exact hp

end

theorem advanceTail_base (f : Nat) (q : Pool) : (advanceTail f q).base = q.base := by
  induction f generalizing q with
  | zero => rfl
  | succ f ih =>
    unfold advanceTail
    split
    · rfl
    · split
      · rw [ih]
      · rfl

theorem unitAt_emptyGranules (s : State) (core off len i : Nat) : unitAt (emptyGranules s core off len) i = unitAt s i := rfl

theorem returnTile_tiles (s : State) (n : Nat) (t : Tile) :
    (unitAt (returnTile s n t) n).tiles = (unitAt s n).tiles.filter (fun v => !sameTile t v) := by
  unfold returnTile
  dsimp only
  rw [unitAt_onUnit_same]
  dsimp only
  split
  · rw [unitAt_emptyGranules]
  · rfl

theorem returnTile_ne {s : State} {n i : Nat} (t : Tile) (h : i ≠ n) : unitAt (returnTile s n t) i = unitAt s i := by
  unfold returnTile
  dsimp only
  rw [unitAt_onUnit_ne _ _ h]
  split
  · rw [unitAt_emptyGranules]
  · rfl

theorem returnTile_heads (s : State) (n : Nat) (t : Tile) (i : Nat) : (unitAt (returnTile s n t) i).heads = (unitAt s i).heads := by
  by_cases hi : i = n
  · subst hi
    unfold returnTile
    dsimp only
    rw [unitAt_onUnit_same]
    dsimp only
    split
    · rw [unitAt_emptyGranules]
    · rfl
  · rw [returnTile_ne t hi]

theorem returnTile_bases (s : State) (n : Nat) (t : Tile) (i key : Nat) :
    (poolAt (unitAt (returnTile s n t) i) key).base = (poolAt (unitAt s i) key).base := by
  by_cases hi : i = n
  · subst hi
    have hp : (unitAt (returnTile s i t) i).pools = tabPut (unitAt s i).pools t.pool
        (advanceTail ((poolAt (unitAt s i) t.pool).spans.length + 1)
          { poolAt (unitAt s i) t.pool with
            used := setNth (poolAt (unitAt s i) t.pool).used t.part (nth (poolAt (unitAt s i) t.pool).used t.part - t.need)
            spans := (poolAt (unitAt s i) t.pool).spans ++ [(t.gran, t.need)] }) := by
      unfold returnTile
      dsimp only
      rw [unitAt_onUnit_same]
      dsimp only
      split
      · rw [unitAt_emptyGranules]
      · rfl
    unfold poolAt at hp ⊢
    rw [hp]
    by_cases hk : key = t.pool
    · rw [hk, tabGet_put_same, advanceTail_base]
    · rw [tabGet_put_ne _ _ _ hk]
  · rw [returnTile_ne t hi]

/-- Taking away entries that are not the one found leaves it found. -/
theorem find_filter {α : Type} {p q : α → Bool} {l : List α} {x : α} (h : l.find? p = some x) (hq : q x = true) :
    (l.filter q).find? p = some x := by
  rw [List.find?_eq_some_iff_append] at h ⊢
  obtain ⟨hp, as, bs, rfl, has⟩ := h
  refine ⟨hp, as.filter q, bs.filter q, ?_, fun a ha => has a (List.mem_of_mem_filter ha)⟩
  rw [List.filter_append, List.filter_cons_of_pos hq]

theorem tileAt_returnTile_other {s : State} {n i ctx h : Nat} {t x : Tile} (hx : tileAt s i ctx h = some x)
    (hd : i = n → sameTile t x = false) : tileAt (returnTile s n t) i ctx h = some x := by
  rw [tileAt_iff] at hx ⊢
  rw [tileNamed_congr (returnTile_bases s n t i)]
  refine ⟨?_, hx.2⟩
  by_cases hi : i = n
  · subst hi
    rw [returnTile_tiles]
    exact find_filter hx.1 (by rw [hd rfl]; rfl)
  · rw [returnTile_ne t hi]
    exact hx.1

end Sys2Proof.Machine
end

section
/-! What publishing and binding do (R106 to R116). -/

namespace Sys2Proof.Machine

/-! ## A tile's entry is stored or the tile returns (R102) -/

theorem putTile_heads (s : State) (n : Nat) (t' : Tile) (i : Nat) : (unitAt (putTile s n t') i).heads = (unitAt s i).heads := by
  by_cases hi : i = n
  · subst hi
    rw [putTile_units]
  · rw [putTile_units_ne hi]

theorem tileAt_putTile_ne {s : State} {n i : Nat} (t' : Tile) (hi : i ≠ n) (ctx h : Nat) :
    tileAt (putTile s n t') i ctx h = tileAt s i ctx h := by
  apply Option.ext
  intro x
  rw [tileAt_iff, tileAt_iff, tileNamed_congr (putTile_bases i), putTile_units_ne hi]

/-- Does a tile with this entry return (R102)? -/
def returns (t : Tile) : Prop := t.kind ≠ 3 ∧ t.count = 0 ∧ t.pend = 0

theorem settleTile_returns {s : State} {n : Nat} {t : Tile} (h : returns t) : settleTile s n t = returnTile s n t := if_pos h

theorem settleTile_stays {s : State} {n : Nat} {t : Tile} (h : ¬returns t) : settleTile s n t = putTile s n t := if_neg h

theorem settleTile_heads (s : State) (n : Nat) (t : Tile) (i : Nat) : (unitAt (settleTile s n t) i).heads = (unitAt s i).heads := by
  unfold settleTile
  split
  · exact returnTile_heads s n t i
  · exact putTile_heads s n t i

/-- No entry of the unit is the tile's. -/
def tileGone (s : State) (n : Nat) (t : Tile) : Prop := ∀ x, x ∈ (unitAt s n).tiles → sameTile t x = false

section
variable {s : State} {n : Nat} {t t' : Tile} (hn : apartAt s n) (ht : t ∈ (unitAt s n).tiles) (he : SameEntry t t')
include hn ht he

theorem tileAt_putTile_other {i ctx h : Nat} {x : Tile} (hx : tileAt s i ctx h = some x) (hd : i = n → sameTile t x = false) :
    tileAt (putTile s n t') i ctx h = some x := by
  by_cases hi : i = n
  · subst hi
    rw [tileAt_putTile hn ht he, hx, Option.map_some, asEntry_other he (hd rfl)]
  · rw [tileAt_putTile_ne t' hi, hx]

theorem tileAt_putTile_self {ctx h : Nat} (hh : tileAt s n ctx h = some t) : tileAt (putTile s n t') n ctx h = some t' := by
  rw [tileAt_putTile hn ht he, hh, Option.map_some, asEntry_same he (sameTile_self t)]

theorem tileAt_settleTile_other {i ctx h : Nat} {x : Tile} (hx : tileAt s i ctx h = some x) (hd : i = n → sameTile t x = false) :
    tileAt (settleTile s n t') i ctx h = some x := by
  by_cases hr : returns t'
  · rw [settleTile_returns hr]
    exact tileAt_returnTile_other hx (fun hi => (he.left x).trans (hd hi))
  · rw [settleTile_stays hr]
    exact tileAt_putTile_other hn ht he hx hd

theorem tileAt_settleTile_self {ctx h : Nat} (hh : tileAt s n ctx h = some t) (hr : ¬returns t') :
    tileAt (settleTile s n t') n ctx h = some t' := by
  rw [settleTile_stays hr]
  exact tileAt_putTile_self hn ht he hh

omit hn ht in
theorem tileGone_settleTile_self (hr : returns t') : tileGone (settleTile s n t') n t := by
  rw [settleTile_returns hr]
  intro x hx
  rw [returnTile_tiles, List.mem_filter, he.left] at hx
  simpa using hx.2

theorem tileGone_settleTile_other {i : Nat} {o : Tile} (ho : tileGone s i o) : tileGone (settleTile s n t') i o := by
  by_cases hi : i = n
  · subst hi
    intro x hx
    by_cases hr : returns t'
    · rw [settleTile_returns hr, returnTile_tiles] at hx
      exact ho x (List.mem_of_mem_filter hx)
    · rw [settleTile_stays hr, putTile_units] at hx
      obtain ⟨v, hv, rfl⟩ := List.mem_map.mp hx
      rw [(asEntry_entry hn ht he hv).right]
      exact ho v hv
  · unfold settleTile
    intro x hx
    split at hx
    · rw [returnTile_ne t' hi] at hx
      exact ho x hx
    · rw [putTile_units_ne hi] at hx
      exact ho x hx

theorem apartAt_settleTile {i : Nat} (hi : apartAt s i) : apartAt (settleTile s n t') i := by
  by_cases hin : i = n
  · subst hin
    by_cases hr : returns t'
    · unfold apartAt
      rw [settleTile_returns hr, returnTile_tiles]
      exact List.Pairwise.filter _ hi
    · rw [settleTile_stays hr]
      exact apartAt_putTile hn ht he
  · unfold settleTile apartAt
    split
    · rw [returnTile_ne t' hin]
      exact hi
    · rw [putTile_units_ne hin]
      exact hi

end

theorem SameTiles.apartAt {s v : State} (hv : SameTiles s v) {n : Nat} (h : apartAt s n) : apartAt v n := by
  unfold Machine.apartAt
  rw [hv.tiles]
  exact h

theorem SameTiles.gone {s v : State} (hv : SameTiles s v) {n : Nat} {t : Tile} (h : tileGone s n t) : tileGone v n t := by
  unfold tileGone
  rw [hv.tiles]
  exact h

theorem SameTiles.putHead (s : State) (n ctx h : Nat) (old : Option (Head × Nat)) (hd : Head) (k : Nat) :
    SameTiles s (putHead s n ctx h old hd k) := by
  refine ⟨fun i => (tiles_putHead s n ctx h old hd k i).1, fun i key => ?_⟩
  unfold poolAt
  rw [(tiles_putHead s n ctx h old hd k i).2]

/-! ## Events and runs leave the pool units alone (R110 to R112, R311) -/

theorem unpark_units (s : State) (a : At) : (unpark s a).units = s.units := by
  unfold unpark
  dsimp only
  split <;> rfl

theorem rouse_units (s : State) (a : At) : (rouse s a).units = s.units := by
  unfold rouse
  dsimp only
  split
  · exact unpark_units s a
  · rfl

theorem postTask_units (s : State) (id : Nat) (e : Event) : (postTask s id e).units = s.units := by
  unfold postTask
  dsimp only
  split
  · rw [rouse_units]
    rfl
  · rfl

theorem pushRun_units (s : State) (job h i : Nat) (b : Sub) : (pushRun s job h i b).1.units = s.units := by
  unfold pushRun
  dsimp only
  split <;> rfl

theorem fireSub_units (s : State) (job h i : Nat) (b : Sub) : (fireSub s job h i b).1.units = s.units := by
  unfold fireSub
  dsimp only
  rw [pushRun_units]
  split
  · exact postTask_units s _ _
  · rfl

theorem pushRun_sub (s : State) (job h i : Nat) (b : Sub) :
    ∃ q, (pushRun s job h i b).2 = { b with queued := b.queued || q, waited := if q then 0 else b.waited } := by
  unfold pushRun
  dsimp only
  split
  · exact ⟨true, by rw [Bool.or_true]; rfl⟩
  · exact ⟨false, by rw [Bool.or_false]; rfl⟩

/-- The subscriber that fireSub gives: in state 1, pushed or not (R110). -/
theorem fireSub_sub (s : State) (job h i : Nat) (b : Sub) :
    ∃ q, (fireSub s job h i b).2 = { b with state := 1, queued := q, waited := 0 } := by
  unfold fireSub
  dsimp only
  generalize (if 3 ≤ b.state ∧ b.state ≤ 5 then _ else s) = u
  obtain ⟨q, hq⟩ := pushRun_sub u job h i { b with state := 1, queued := false, waited := 0 }
  refine ⟨q, hq.trans ?_⟩
  rw [Bool.false_or, ite_self]

/-- What a newer version makes of a subscriber (R111). -/
structure Passed (b b' : Sub) : Prop where
  state : b'.state = (if b.state = 0 ∨ b.state = 5 then 1 else if b.state = 2 then (if b.policy = 1 then 3 else 4) else b.state)
  holds : b.state ≠ 6 → b'.holds = true
  ended : b.state = 6 → b' = b
  others : { b' with state := 0, holds := false, queued := false, waited := 0 } =
    { b with state := 0, holds := false, queued := false, waited := 0 }

/-- A subscriber that has not ended holds a draw of the newer version (R111). -/
def withDraw (b : Sub) : Sub := if b.state = 6 then b else { b with holds := true }

theorem withDraw_live {b : Sub} (h : b.state ≠ 6) : withDraw b = { b with holds := true } := if_neg h

theorem Passed.fired {b : Sub} (hb : b.state = 0 ∨ b.state = 5) (s : State) (job h i : Nat) :
    Passed b (fireSub s job h i (withDraw b)).2 := by
  have h6 : b.state ≠ 6 := by rcases hb with hb | hb <;> rw [hb] <;> decide
  obtain ⟨q, hq⟩ := fireSub_sub s job h i (withDraw b)
  rw [hq, withDraw_live h6]
  exact ⟨(if_pos hb).symm, fun _ => rfl, fun e => absurd e h6, rfl⟩

theorem Passed.stopped {b : Sub} (hb : b.state = 2) {n : Nat} (hn : (if b.policy = 1 then 3 else 4) = n) :
    Passed b { withDraw b with state := n } := by
  have h6 : b.state ≠ 6 := by rw [hb]; decide
  rw [withDraw_live h6]
  refine ⟨?_, fun _ => rfl, fun e => absurd e h6, rfl⟩
  rw [if_neg (by omega), if_pos hb, hn]

theorem Passed.stays {b : Sub} (h0 : b.state ≠ 0) (h2 : b.state ≠ 2) (h5 : b.state ≠ 5) : Passed b (withDraw b) := by
  have hs : (if b.state = 0 ∨ b.state = 5 then 1 else if b.state = 2 then (if b.policy = 1 then 3 else 4) else b.state) = b.state := by
    rw [if_neg (by omega), if_neg h2]
  by_cases h6 : b.state = 6
  · have hb : withDraw b = b := if_pos h6
    rw [hb]
    exact ⟨hs.symm, fun e => absurd h6 e, fun _ => rfl, rfl⟩
  · rw [withDraw_live h6]
    exact ⟨hs.symm, fun _ => rfl, fun e => absurd e h6, rfl⟩

theorem subNewer_passes (job h : Nat) (s : State) (l : List Sub) (b : Sub) :
    ∃ v b', subNewer job h (s, l) b = (v, l ++ [b']) ∧ v.units = s.units ∧ Passed b b' := by
  have hfire (hb : b.state = 0 ∨ b.state = 5) :
      (fireSub s job h l.length (withDraw b)).1.units = s.units ∧ Passed b (fireSub s job h l.length (withDraw b)).2 :=
    ⟨fireSub_units _ _ _ _ _, .fired hb _ _ _ _⟩
  have hst : (withDraw b).state = b.state ∧ (withDraw b).policy = b.policy := by
    unfold withDraw
    split <;> exact ⟨rfl, rfl⟩
  have he : subNewer job h (s, l) b = match b.state with
      | 0 => ((fireSub s job h l.length (withDraw b)).1, l ++ [(fireSub s job h l.length (withDraw b)).2])
      | 2 => if b.policy = 1 then (s, l ++ [{ withDraw b with state := 3 }])
        else (stopRuns s job h l.length, l ++ [{ withDraw b with state := 4 }])
      | 5 => ((fireSub s job h l.length (withDraw b)).1, l ++ [(fireSub s job h l.length (withDraw b)).2])
      | _ => (s, l ++ [withDraw b]) := by
    rw [← hst.1, ← hst.2]
    rfl
  rw [he]
  split
  · next hb => exact ⟨_, _, rfl, hfire (.inl hb)⟩
  · next hb =>
    split
    · next hp => exact ⟨_, _, rfl, rfl, .stopped hb (if_pos hp)⟩
    · next hp => exact ⟨_, _, rfl, rfl, .stopped hb (if_neg hp)⟩
  · next hb => exact ⟨_, _, rfl, hfire (.inr hb)⟩
  · next h0 h2 h5 => exact ⟨_, _, rfl, rfl, .stays h0 h2 h5⟩

theorem subNewer_all (job h : Nat) (subs : List Sub) (s : State) (l : List Sub) :
    ∃ v l', subs.foldl (subNewer job h) (s, l) = (v, l ++ l') ∧ v.units = s.units ∧ List.Forall₂ Passed subs l' := by
  induction subs generalizing s l with
  | nil => exact ⟨s, [], by simp, rfl, .nil⟩
  | cons b subs ih =>
    obtain ⟨v, b', hb, hv, hp⟩ := subNewer_passes job h s l b
    obtain ⟨w, l', hw, hu, hl⟩ := ih v (l ++ [b'])
    refine ⟨w, b' :: l', ?_, hu.trans hv, .cons hp hl⟩
    rw [List.foldl_cons, hb, hw, List.append_assoc]
    rfl

theorem postAll_units (subs : List Sub) (e : Event) (s : State) :
    (subs.foldl (fun s b => postTask s b.bTask e) s).units = s.units := by
  induction subs generalizing s with
  | nil => rfl
  | cons b subs ih => rw [List.foldl_cons, ih, postTask_units]

/-! ## Publishing (R108, R111, R114) -/

@[simp] theorem tabFind_put_same {α : Type} (t : Tab α) (k : Nat) (v : α) : tabFind (tabPut t k v) k = some v := by
  induction t with
  | nil => simp [tabPut, tabFind]
  | cons p t ih =>
    obtain ⟨j, w⟩ := p
    simp only [tabPut]
    split
    · simp [tabFind]
    · split
      · simp [tabFind]
      · next h1 h2 => simp [tabFind, h1, h2, ih]

theorem headAt_putHead (s : State) (n ctx h : Nat) (old : Option (Head × Nat)) (hd : Head) (k : Nat) :
    headAt (putHead s n ctx h old hd k) n ctx h = some hd := by
  unfold headAt
  rw [unitAt_putHead_same]
  exact tabFind_put_same _ _ _

theorem headAt_congr {s v : State} {n : Nat} (h : (unitAt v n).heads = (unitAt s n).heads) (ctx g : Nat) :
    headAt v n ctx g = headAt s n ctx g := by
  unfold headAt
  rw [h]

/-- A tile as it becomes a version tile (R108). -/
def asVersion (t : Tile) (live : Nat) : Tile := { t with kind := 2, count := live, tag := 0, runs := 0, superseded := false }

/-- A version tile that a newer one supersedes (R114). -/
def asSuperseded (o : Tile) : Tile := { o with count := o.runs, superseded := true }

theorem asVersion_entry (t : Tile) (live : Nat) : SameEntry t (asVersion t live) := ⟨rfl, rfl, rfl, rfl, rfl⟩

theorem asSuperseded_entry (o : Tile) : SameEntry o (asSuperseded o) := ⟨rfl, rfl, rfl, rfl, rfl⟩

end Sys2Proof.Machine
end

section
/-! PUBV, TSUB and SWAIT (R279 to R283). -/

namespace Sys2Proof.Machine

/-! ## Publishing (R108, R111, R114) -/

theorem settleTile_bases (s : State) (n : Nat) (t : Tile) (i key : Nat) :
    (poolAt (unitAt (settleTile s n t) i) key).base = (poolAt (unitAt s i) key).base := by
  unfold settleTile
  split
  · exact returnTile_bases s n t i key
  · exact putTile_bases i key

theorem SameTiles.startHandle {s v : State} (hv : SameTiles s v) (n ctx h : Nat) : startHandle v n ctx h = startHandle s n ctx h := by
  unfold Machine.startHandle handleOf
  rw [hv.tileAt]
  cases Machine.tileAt s n ctx h with
  | none => rfl
  | some t => dsimp only; rw [hv.bases]

/-- The tile returns, or stays, with the entry that it has. -/
def settleNamed (w : State) (m ctx tile : Nat) : State :=
  match tileAt w m ctx tile with
  | some t => settleTile w m t
  | none => w

theorem settleNamed_of {w : State} {m ctx tile : Nat} {t : Tile} (h : tileAt w m ctx tile = some t) :
    settleNamed w m ctx tile = settleTile w m t := by
  unfold settleNamed
  rw [h]

theorem settleNamed_heads (w : State) (m ctx tile i : Nat) : (unitAt (settleNamed w m ctx tile) i).heads = (unitAt w i).heads := by
  unfold settleNamed
  split
  · exact settleTile_heads _ _ _ _
  · rfl

/-- The subscribers of a head that have not ended. -/
def liveSubs (hd : Head) : Nat := (hd.subs.filter (fun b => b.state ≠ 6)).length

/-- The tiles once a version tile is stored and the version before it is superseded (R108, R114). -/
def retiled (s : State) (c ctx tile : Nat) (hd : Head) (t : Tile) : State :=
  supersede (putTile s (unitOf c tile) (asVersion t (liveSubs hd))) c ctx hd.cur

/-- The head that names the version published (R108). -/
def publishedHead (cur scope : Nat) (final : Bool) (hd : Head) (subs : List Sub) : Head :=
  { hd with
    cur := cur, ver := hd.ver + 1, subs := subs
    final := final || decide (hd.ver + 1 = 65535), scope := scope }

section
variable {s : State} {c ctx job h tile scope : Nat} {final : Bool} {hd : Head} {ht : Tile} (hh : headCheck s c ctx job h = .ok (hd, ht))
include hh

theorem publish_final (hf : hd.final = true) : publish s c ctx job h tile final scope = .ok (s, false) := by
  unfold publish
  rw [hh]
  exact if_pos hf

theorem publish_refused (hf : hd.final = false)
    (hno : hValid tile = false ∨ ∀ t, tileAt s (unitOf c tile) ctx tile = some t → t.kind ≠ 1 ∨ t.job ≠ job) :
    publish s c ctx job h tile final scope = .error ⟨0x51, h, tile, 0⟩ := by
  unfold publish
  rw [hh]
  simp only [hf, Bool.false_eq_true, if_false]
  rcases hno with hv | hno
  · rw [hv]
    rfl
  · cases hv : hValid tile with
    | false => rfl
    | true =>
      rw [if_pos rfl]
      cases htile : tileAt s (unitOf c tile) ctx tile with
      | none => rfl
      | some t => exact if_pos (hno t htile)

variable {t : Tile} (hf : hd.final = false) (hv : hValid tile = true) (htile : tileAt s (unitOf c tile) ctx tile = some t)
  (hk : t.kind = 1) (hj : t.job = job)
include hf hv htile hk hj

theorem publish_publishes : ∃ w subs, SameTiles (retiled s c ctx tile hd t) w ∧ List.Forall₂ Passed hd.subs subs ∧
    headAt w (unitOf c h) ctx h = some (publishedHead (startHandle w (unitOf c tile) ctx tile) scope final hd subs) ∧
    publish s c ctx job h tile final scope = .ok (settleNamed w (unitOf c tile) ctx tile, true) := by
  obtain ⟨v, subs, hfold, hvu, hp⟩ := subNewer_all job h hd.subs (retiled s c ctx tile hd t) []
  have hposted (v : State) : SameTiles v (hd.subs.foldl (fun s b => postTask s b.bTask ⟨2, h, hd.ver + 1, 0, 0, false⟩)
      (putHead v (unitOf c h) ctx h (some (hd, ht.count))
        (publishedHead (startHandle v (unitOf c tile) ctx tile) scope final hd subs) ht.count)) :=
    (SameTiles.putHead _ _ _ _ _ _ _).trans (.of_units (postAll_units _ _ _))
  refine ⟨hd.subs.foldl (fun s b => postTask s b.bTask ⟨2, h, hd.ver + 1, 0, 0, false⟩) 
    (putHead v (unitOf c h) ctx h (some (hd, ht.count)) (publishedHead (startHandle v (unitOf c tile) ctx tile) scope final hd subs) ht.count), subs,
    ?_, hp, ?_, ?_⟩
  · exact (SameTiles.of_units hvu).trans (hposted v)
  · rw [SameTiles.startHandle (hposted v) (unitOf c tile) ctx tile, headAt, unitAt, postAll_units]
    exact headAt_putHead v (unitOf c h) ctx h _ _ _
  · unfold publish
    rw [hh]
    dsimp only
    have hno : ¬(t.kind ≠ 1 ∨ t.job ≠ job) := by simp [hk, hj]
    rw [if_neg (by rw [hf]; decide), if_pos hv, htile]
    dsimp only
    rw [if_neg hno]
    have hfold' : hd.subs.foldl (subNewer job h) (supersede (putTile s (unitOf c tile)
        { t with kind := 2, count := (hd.subs.filter (fun b => b.state ≠ 6)).length, tag := 0, runs := 0, superseded := false })
        c ctx hd.cur, []) = (v, subs) := hfold
    subst hj
    rw [hfold']
    all_goals rfl

end

section
variable {s : State} {c ctx tile : Nat} {hd : Head} {t : Tile} (htile : tileAt s (unitOf c tile) ctx tile = some t) (hk : t.kind = 1)
  (hm : apartAt s (unitOf c tile)) (ho : apartAt s (unitOf c hd.cur))
  (hcur : hd.cur ≠ 0 → ∀ o, tileAt s (unitOf c hd.cur) ctx hd.cur = some o → o.kind = 2)

/-- The tiles once the version tile is stored (R108). -/
def versioned (s : State) (c tile : Nat) (hd : Head) (t : Tile) : State := putTile s (unitOf c tile) (asVersion t (liveSubs hd))

include htile hm

theorem tileAt_versioned : tileAt (versioned s c tile hd t) (unitOf c tile) ctx tile = some (asVersion t (liveSubs hd)) :=
  tileAt_putTile_self hm (mem_of_tileAt htile) (asVersion_entry _ _) htile

theorem apartAt_versioned {n : Nat} (hn : apartAt s n) : apartAt (versioned s c tile hd t) n := by
  by_cases hi : n = unitOf c tile
  · subst hi
    exact apartAt_putTile hm (mem_of_tileAt htile) (asVersion_entry _ _)
  · unfold apartAt versioned
    rw [putTile_units_ne hi]
    exact hn

include hk hcur

/-- The version before is another tile than the one published. -/
theorem superseded_apart (h0 : hd.cur ≠ 0) {o : Tile} (hto : tileAt s (unitOf c hd.cur) ctx hd.cur = some o)
    (hi : unitOf c hd.cur = unitOf c tile) : sameTile t o = false := by
  have ho2 : o.kind = 2 := hcur h0 o hto
  refine hm.ne (mem_of_tileAt htile) (hi ▸ mem_of_tileAt hto) fun e => ?_
  rw [e, ho2] at hk
  exact absurd hk (by decide)

theorem tileAt_versioned_cur (h0 : hd.cur ≠ 0) :
    tileAt (versioned s c tile hd t) (unitOf c hd.cur) ctx hd.cur = tileAt s (unitOf c hd.cur) ctx hd.cur := by
  cases hto : tileAt s (unitOf c hd.cur) ctx hd.cur with
  | some o =>
    exact tileAt_putTile_other (s := s) (t' := asVersion t (liveSubs hd)) hm (mem_of_tileAt htile) (asVersion_entry _ _) hto
        (superseded_apart htile hk hm hcur h0 hto)
  | none =>
    unfold versioned
    by_cases hi : unitOf c hd.cur = unitOf c tile
    · rw [hi] at hto ⊢
      rw [tileAt_putTile hm (mem_of_tileAt htile) (asVersion_entry _ _), hto, Option.map_none]
    · rw [tileAt_putTile_ne _ hi, hto]

/-- What the state holds once the version before is superseded: the version before settled, or nothing done (R114). -/
theorem retiled_cases : (retiled s c ctx tile hd t = versioned s c tile hd t ∧
      (hd.cur = 0 ∨ tileAt s (unitOf c hd.cur) ctx hd.cur = none)) ∨
    ∃ o, hd.cur ≠ 0 ∧ tileAt s (unitOf c hd.cur) ctx hd.cur = some o ∧
      retiled s c ctx tile hd t = settleTile (versioned s c tile hd t) (unitOf c hd.cur) (asSuperseded o) := by
  have he : retiled s c ctx tile hd t = supersede (versioned s c tile hd t) c ctx hd.cur := rfl
  rw [he]
  unfold supersede
  by_cases h0 : hd.cur = 0
  · exact .inl ⟨if_pos h0, .inl h0⟩
  · rw [if_neg h0, tileAt_versioned_cur htile hk hm hcur h0]
    cases hto : tileAt s (unitOf c hd.cur) ctx hd.cur with
    | none => exact .inl ⟨rfl, .inr rfl⟩
    | some o => exact .inr ⟨o, h0, rfl, rfl⟩

include ho

theorem retiled_new : tileAt (retiled s c ctx tile hd t) (unitOf c tile) ctx tile = some (asVersion t (liveSubs hd)) ∧
    apartAt (retiled s c ctx tile hd t) (unitOf c tile) := by
  have hv := tileAt_versioned (hd := hd) htile hm
  have hma := apartAt_versioned (hd := hd) htile hm hm
  rcases retiled_cases htile hk hm hcur with ⟨he, -⟩ | ⟨o, h0, hto, he⟩ <;> rw [he]
  · exact ⟨hv, hma⟩
  · have hto' := (tileAt_versioned_cur htile hk hm hcur h0).trans hto
    have hoa := apartAt_versioned (hd := hd) htile hm ho
    refine ⟨tileAt_settleTile_other hoa (mem_of_tileAt hto') (asSuperseded_entry o) hv fun hi => ?_,
      apartAt_settleTile hoa (mem_of_tileAt hto') (asSuperseded_entry o) hma⟩
    rw [(asVersion_entry t _).right, sameTile_comm]
    exact superseded_apart htile hk hm hcur h0 hto hi.symm

theorem retiled_startHandle {w : State} (hw : SameTiles (retiled s c ctx tile hd t) w) :
    startHandle w (unitOf c tile) ctx tile = startHandle s (unitOf c tile) ctx tile := by
  have hb (key : Nat) : (poolAt (unitAt (retiled s c ctx tile hd t) (unitOf c tile)) key).base =
      (poolAt (unitAt s (unitOf c tile)) key).base := by
    rcases retiled_cases htile hk hm hcur with ⟨he, -⟩ | ⟨o, -, -, he⟩ <;> rw [he]
    · exact putTile_bases _ key
    · exact (settleTile_bases _ _ _ _ _).trans (putTile_bases _ key)
  rw [hw.startHandle]
  unfold startHandle handleOf
  rw [(retiled_new htile hk hm ho hcur).1, htile]
  dsimp only
  rw [hb]
  rfl

theorem retiled_old (h0 : hd.cur ≠ 0) {o : Tile} (hto : tileAt s (unitOf c hd.cur) ctx hd.cur = some o) :
    (¬returns (asSuperseded o) → tileAt (retiled s c ctx tile hd t) (unitOf c hd.cur) ctx hd.cur = some (asSuperseded o)) ∧
    (returns (asSuperseded o) → tileGone (retiled s c ctx tile hd t) (unitOf c hd.cur) o) := by
  have hto' := (tileAt_versioned_cur htile hk hm hcur h0).trans hto
  have hoa := apartAt_versioned (hd := hd) htile hm ho
  rcases retiled_cases htile hk hm hcur with ⟨-, hno⟩ | ⟨o', -, ho', he⟩
  · rcases hno with hno | hno
    · exact absurd hno h0
    · rw [hno] at hto
      cases hto
  · obtain rfl : o' = o := Option.some.inj (ho'.symm.trans hto)
    rw [he]
    exact ⟨tileAt_settleTile_self hoa (mem_of_tileAt hto') (asSuperseded_entry o') hto',
      tileGone_settleTile_self (asSuperseded_entry o')⟩

/-- What stands once the version tile, unless a reader holds it, returns where no subscriber is left (R108). -/
theorem settled_tiles {w : State} (hw : SameTiles (retiled s c ctx tile hd t) w) :
    ((liveSubs hd ≠ 0 ∨ t.pend ≠ 0) →
      tileAt (settleNamed w (unitOf c tile) ctx tile) (unitOf c tile) ctx tile = some (asVersion t (liveSubs hd))) ∧
    (liveSubs hd = 0 → t.pend = 0 → tileGone (settleNamed w (unitOf c tile) ctx tile) (unitOf c tile) t) ∧
    (∀ o, hd.cur ≠ 0 → tileAt s (unitOf c hd.cur) ctx hd.cur = some o →
      ((o.runs ≠ 0 ∨ o.pend ≠ 0) →
        tileAt (settleNamed w (unitOf c tile) ctx tile) (unitOf c hd.cur) ctx hd.cur = some (asSuperseded o)) ∧
      (o.runs = 0 → o.pend = 0 → tileGone (settleNamed w (unitOf c tile) ctx tile) (unitOf c hd.cur) o)) := by
  obtain ⟨hnew, hapart⟩ := retiled_new htile hk hm ho hcur
  rw [← hw.tileAt] at hnew
  have hwa : apartAt w (unitOf c tile) := hw.apartAt hapart
  rw [settleNamed_of hnew]
  have hmem := mem_of_tileAt hnew
  have hself : SameEntry (asVersion t (liveSubs hd)) (asVersion t (liveSubs hd)) := ⟨rfl, rfl, rfl, rfl, rfl⟩
  refine ⟨fun h => tileAt_settleTile_self hwa hmem hself hnew ?_, fun h1 h2 => ?_, fun o h0 hto => ?_⟩
  · rintro ⟨-, hc, hp⟩
    exact h.elim (fun e => e hc) (fun e => e hp)
  · intro x hx
    rw [← (asVersion_entry t (liveSubs hd)).left]
    exact tileGone_settleTile_self hself ⟨(by decide : (2 : Nat) ≠ 3), h1, h2⟩ x hx
  · obtain ⟨hstay, hgone⟩ := retiled_old htile hk hm ho hcur h0 hto
    have ho2 : o.kind ≠ 3 := by rw [hcur h0 o hto]; decide
    constructor
    · intro h
      have hs := hstay fun hr => h.elim (fun e => e hr.2.1) (fun e => e hr.2.2)
      rw [← hw.tileAt] at hs
      refine tileAt_settleTile_other hwa hmem hself hs fun hi => ?_
      rw [(asVersion_entry t _).left, (asSuperseded_entry o).right]
      exact superseded_apart htile hk hm hcur h0 hto hi
    · intro h1 h2
      exact tileGone_settleTile_other hwa hmem hself (hw.gone (hgone ⟨ho2, h1, h2⟩))

end

/-- What a newer version makes of each subscriber, in its place (R111). -/
theorem passed_at {subs subs' : List Sub} (h : List.Forall₂ Passed subs subs') {i : Nat} {b : Sub} (hb : subs[i]? = some b) :
    ∃ b', subs'[i]? = some b' ∧ Passed b b' := by
  induction h generalizing i with
  | nil => simp at hb
  | @cons x y xs ys hxy hxs ih =>
    cases i with
    | zero =>
      obtain rfl : x = b := by simpa using hb
      exact ⟨y, rfl, hxy⟩
    | succ i => exact ih (by simpa using hb)

/-! ## Binding (R110, R281) -/

section
variable {s : State} {c ctx job h : Nat} {hd : Head} {ht : Tile} (hh : headCheck s c ctx job h = .ok (hd, ht)) (b : Sub)

/-- A subscriber of the head that waits for a version (R110). -/
def bindIdle (s : State) (c ctx h : Nat) (hd : Head) (ht : Tile) (b : Sub) : State :=
  putHead s (unitOf c h) ctx h (some (hd, ht.count)) { hd with subs := hd.subs ++ [b] } ht.count

theorem bindIdle_bound : headAt (bindIdle s c ctx h hd ht b) (unitOf c h) ctx h = some { hd with subs := hd.subs ++ [b] } ∧
    (bindIdle s c ctx h hd ht b).cores = s.cores :=
  ⟨headAt_putHead _ _ _ _ _ _ _, cores_putHead _ _ _ _ _ _ _⟩

include hh

theorem subscribe_full (hi : 15 ≤ hd.subs.length) : subscribe s c ctx job h b = .error ⟨0x52, h, 0, 15⟩ := by
  unfold subscribe
  rw [hh]
  exact if_pos hi

variable (hi : hd.subs.length < 15)
include hi

theorem subscribe_first (h0 : hd.ver = 0) : subscribe s c ctx job h b =
    .ok (bindIdle s c ctx h hd ht { b with state := if hd.final then 6 else 0 }, hd.subs.length) := by
  unfold subscribe
  rw [hh]
  have hv : ¬1 ≤ hd.ver := by omega
  dsimp only
  rw [if_neg (Nat.not_le.mpr hi), if_neg hv]
  rfl

theorem subscribe_none (h0 : hd.ver ≠ 0) (hno : hd.cur = 0 ∨ tileAt s (unitOf c hd.cur) ctx hd.cur = none) :
    subscribe s c ctx job h b =
      .ok (bindIdle s c ctx h hd ht { b with state := if hd.final then 6 else 5, runv := 0 }, hd.subs.length) := by
  have hcur : (if hd.cur = 0 then none else tileAt s (unitOf c hd.cur) ctx hd.cur) = none := by
    rcases hno with hz | hn
    · exact if_pos hz
    · rw [hn, ite_self]
  unfold subscribe
  rw [hh]
  simp only [Nat.not_le.mpr hi, Nat.one_le_iff_ne_zero.mpr h0, hcur, if_false, if_true]
  rfl

variable {t : Tile} (h0 : hd.ver ≠ 0) (hc : hd.cur ≠ 0) (ht' : tileAt s (unitOf c hd.cur) ctx hd.cur = some t)
include h0 hc ht'

/-- The version's entry with one draw more, and the subscriber's run pushed where a slot is free (R110). -/
theorem subscribe_fires : subscribe s c ctx job h b =
    let r := pushRun (putTile s (unitOf c hd.cur) { t with count := t.count + 1 }) job h hd.subs.length
      { b with state := 1, holds := true, queued := false, waited := 0 }
    .ok (bindIdle r.1 c ctx h hd ht r.2, hd.subs.length) := by
  unfold subscribe
  rw [hh]
  simp only [Nat.not_le.mpr hi, Nat.one_le_iff_ne_zero.mpr h0, hc, ht', if_false, if_true]
  rfl

end

theorem pushRun_room {s : State} {job h i : Nat} {b : Sub} (hr : generalUsed (coreAt s b.core) < 56) :
    (pushRun s job h i b).2 = { b with queued := true, waited := 0 } ∧
    (coreAt (pushRun s job h i b).1 b.core).deque =
      ⟨b.entry, b.arg, 1, job, none, [], none, some (h, i), (coreAt s b.core).dqStamp⟩ :: (coreAt s b.core).deque := by
  unfold pushRun
  dsimp only
  rw [if_pos hr]
  exact ⟨rfl, congrArg Core.deque (coreAt_setCore_same _ _ _)⟩

theorem pushRun_noRoom {s : State} {job h i : Nat} {b : Sub} (hr : ¬generalUsed (coreAt s b.core) < 56) :
    pushRun s job h i b = (s, b) := if_neg hr

end Sys2Proof.Machine
end

section
/-! PUBV, TSUB and SWAIT (R279 to R283). -/

namespace Sys2Proof.Machine

section
variable {i : Instr} {s : State} {a : At} {p sc : BitVec 3} {x y : BitVec 6} {final : Bool} (hi : exec i s = pubvOp final p sc x y s)
  (hr : runner s = some a) (hx : srcReady (seen s a) a x) (hy : srcReady (seen s a) a y) (hp : pReady (seen s a) a p)
  (hent : strandEntries (seen s a) a = []) (hrel : released (seen s a) a = true)
  (hq : unitQuiet (seen s a) a (unitOf a.c (src (seen s a) a x).toNat) = true)
include hi hr hx hy hp hent hrel hq

theorem pubv_publishes {w : State} {ok : Bool} (hw : publish (seen s a) a.c (ctxOf (seen s a) a) (jobOf (seen s a) a)
    (src (seen s a) a x).toNat (src (seen s a) a y).toNat final sc.toNat = .ok (w, ok)) (hpw : pReady w a p) :
    Runs i s (fun t => DoneP w t a p ok) := by
  have hrx : rd (seen s a) a x = .ok (src (seen s a) a x) := rd_ready hx
  have hry : rd (seen s a) a y = .ok (src (seen s a) a y) := rd_ready hy
  have hp' : pBusy (strandAt (seen s a) a) p.toNat = false := hp
  refine .of hi hr (d := ⟨onStrand w a (putP p.toNat ok), 0, .seq⟩) ?_ (finish_putP w a p ok)
  simp only [hrx, hry, hp', hent, hrel, hq, hw, wrP_ready hpw]
  rfl

theorem pubv_refused {c : Cause} (hw : publish (seen s a) a.c (ctxOf (seen s a) a) (jobOf (seen s a) a)
    (src (seen s a) a x).toNat (src (seen s a) a y).toNat final sc.toNat = .error c) :
    exec i s = .next (signalTrap (seen s a) a (ccTrap (seen s a) a c)) := by
  have hrx : rd (seen s a) a x = .ok (src (seen s a) a x) := rd_ready hx
  have hry : rd (seen s a) a y = .ok (src (seen s a) a y) := rd_ready hy
  have hp' : pBusy (strandAt (seen s a) a) p.toNat = false := hp
  refine hi.trans (issue_trap hr ?_)
  simp only [hrx, hry, hp', hent, hrel, hq, hw]
  rfl

end

section
variable {s : State} {a : At} {d : BitVec 5} {n : BitVec 1} {x y : BitVec 6} {pl : Place} {v : Nat} {b : Sub} (hr : runner s = some a)
  (hx : srcReady (seen s a) a x) (hy : srcReady (seen s a) a y) (hd : dstReady (seen s a) a d n)
  (hs : readStruct (seen s a) a (src (seen s a) a y).toNat 32 32 = .ok (pl, v))
  (hb : subFromBits (seen s a) a (src (seen s a) a y).toNat v = .ok b)
  (hq : unitQuiet (seen s a) a (unitOf a.c (src (seen s a) a x).toNat) = true)
include hr hx hy hd hs hb hq

theorem tsub_binds {w : State} {i : Nat} (hw : subscribe (seen s a) a.c (ctxOf (seen s a) a) (jobOf (seen s a) a)
    (src (seen s a) a x).toNat b = .ok (w, i)) (hdw : dstReady w a d n) :
    Runs (.tsub d n x y) s (fun t => DoneG 4 w t a d n (BitVec.ofNat 64 i) 0) := by
  have hrx : rd (seen s a) a x = .ok (src (seen s a) a x) := rd_ready hx
  have hry : rd (seen s a) a y = .ok (src (seen s a) a y) := rd_ready hy
  refine .of (show exec (.tsub d n x y) s = execTsub d n x y s from rfl) hr
    (d := ⟨wroteG w a d n 1 (BitVec.ofNat 64 i), 0, .seq⟩) ?_ (finish_wroteG 4 w a d n _ 0)
  simp only [hrx, hry, hs, hb, freeD_ready hd, hq, hw, wrG_ready hdw]
  rfl

theorem tsub_refused {c : Cause} (hw : subscribe (seen s a) a.c (ctxOf (seen s a) a) (jobOf (seen s a) a)
    (src (seen s a) a x).toNat b = .error c) :
    exec (.tsub d n x y) s = .next (signalTrap (seen s a) a (ccTrap (seen s a) a c)) := by
  have hrx : rd (seen s a) a x = .ok (src (seen s a) a x) := rd_ready hx
  have hry : rd (seen s a) a y = .ok (src (seen s a) a y) := rd_ready hy
  refine (show exec (.tsub d n x y) s = execTsub d n x y s from rfl).trans (issue_trap hr ?_)
  simp only [hrx, hry, hs, hb, freeD_ready hd, hq, hw]
  rfl

end

section
variable {s : State} {a : At} {x : BitVec 6} (hr : runner s = some a) (hx : srcReady (seen s a) a x)
  (h64 : (src (seen s a) a x).toNat < 64) (hn : (src (seen s a) a x).toNat < (jobAt (seen s a) (jobOf (seen s a) a)).nsets)
include hr hx h64 hn

theorem swait_settled (hset : settledSet (seen s a) (jobOf (seen s a) a) (src (seen s a) a x).toNat = true) :
    Runs (.swait x) s (fun t => DoneNop 4 (seen s a) t a) := by
  have hrx : rd (seen s a) a x = .ok (src (seen s a) a x) := rd_ready hx
  refine .of (show exec (.swait x) s = execSwait x s from rfl) hr (d := ⟨seen s a, 0, .seq⟩) ?_ (finish_nop 4 _ a)
  simp only [hrx]
  rw [if_neg (Nat.not_le.mpr h64), if_neg (Nat.not_le.mpr hn), if_pos hset]

theorem swait_waits (hset : settledSet (seen s a) (jobOf (seen s a) a) (src (seen s a) a x).toNat = false)
    (hstop : (strandAt (seen s a) a).stopping = false) :
    exec (.swait x) s = .next (holdWait (seen s a) a (.swait (src (seen s a) a x).toNat) true 0) := by
  have hrx : rd (seen s a) a x = .ok (src (seen s a) a x) := rd_ready hx
  refine (show exec (.swait x) s = execSwait x s from rfl).trans (issue_wait (t := seen s a) hr ?_)
  simp only [hrx]
  rw [if_neg (Nat.not_le.mpr h64), if_neg (Nat.not_le.mpr hn), if_neg (by rw [hset]; decide), waitOrStop, hstop]
  rfl

end

/-- A subscriber whose first run is fired (R110). -/
def firedSub (b : Sub) (room : Bool) : Sub := { b with state := 1, holds := true, queued := room, waited := 0 }

section
variable {s : State} {c ctx job h : Nat} {hd : Head} {ht : Tile} (hh : headCheck s c ctx job h = .ok (hd, ht)) (b : Sub)
  (hi : hd.subs.length < 15) {t : Tile} (h0 : hd.ver ≠ 0) (hc : hd.cur ≠ 0)
  (htile : tileAt s (unitOf c hd.cur) ctx hd.cur = some t)
include hh hi h0 hc htile

/-- The subscriber of a head with a version, its run pushed (R110). -/
theorem subscribe_pushes (hroom : generalUsed (coreAt s b.core) < 56) : ∃ v, subscribe s c ctx job h b = .ok (v, hd.subs.length) ∧
    headAt v (unitOf c h) ctx h = some { hd with subs := hd.subs ++ [firedSub b true] } ∧
    (unitAt v (unitOf c hd.cur)).tiles = (unitAt s (unitOf c hd.cur)).tiles.map (asEntry { t with count := t.count + 1 }) ∧
    (coreAt v b.core).deque = ⟨b.entry, b.arg, 1, job, none, [], none, some (h, hd.subs.length), (coreAt s b.core).dqStamp⟩ ::
      (coreAt s b.core).deque := by
  obtain ⟨hsub, hdq⟩ := pushRun_room (s := putTile s (unitOf c hd.cur) { t with count := t.count + 1 }) (job := job) (h := h)
    (i := hd.subs.length) (b := firedSub b false) hroom
  have hu := pushRun_units (putTile s (unitOf c hd.cur) { t with count := t.count + 1 }) job h hd.subs.length (firedSub b false)
  refine ⟨_, subscribe_fires hh b hi h0 hc htile, ?_, ?_, ?_⟩
  · exact (bindIdle_bound _).1.trans (congrArg (fun x => some { hd with subs := hd.subs ++ [x] }) hsub)
  · rw [bindIdle, (tiles_putHead _ _ _ _ _ _ _ _).1, unitAt]
    exact (congrArg (fun l => (tabGet .reset l (unitOf c hd.cur)).tiles) hu).trans (congrArg PoolUnit.tiles (putTile_units _ _ _))
  · exact (congrArg (fun l => (tabGet (.reset b.core) l b.core).deque) (bindIdle_bound _).2).trans hdq

/-- The subscriber of a head with a version, its run waiting for a slot (R110). -/
theorem subscribe_queues (hroom : ¬generalUsed (coreAt s b.core) < 56) : ∃ v, subscribe s c ctx job h b = .ok (v, hd.subs.length) ∧
    headAt v (unitOf c h) ctx h = some { hd with subs := hd.subs ++ [firedSub b false] } ∧
    (unitAt v (unitOf c hd.cur)).tiles = (unitAt s (unitOf c hd.cur)).tiles.map (asEntry { t with count := t.count + 1 }) ∧
    (coreAt v b.core).deque = (coreAt s b.core).deque := by
  have hp : pushRun (putTile s (unitOf c hd.cur) { t with count := t.count + 1 }) job h hd.subs.length (firedSub b false) =
      (putTile s (unitOf c hd.cur) { t with count := t.count + 1 }, firedSub b false) := pushRun_noRoom hroom
  refine ⟨bindIdle (putTile s (unitOf c hd.cur) { t with count := t.count + 1 }) c ctx h hd ht (firedSub b false), ?_, ?_, ?_, ?_⟩
  · have e : subscribe s c ctx job h b = .ok (bindIdle
        (pushRun (putTile s (unitOf c hd.cur) { t with count := t.count + 1 }) job h hd.subs.length (firedSub b false)).1 c ctx h hd ht
        (pushRun (putTile s (unitOf c hd.cur) { t with count := t.count + 1 }) job h hd.subs.length (firedSub b false)).2,
        hd.subs.length) := subscribe_fires hh b hi h0 hc htile
    rw [hp] at e
    exact e
  · exact (bindIdle_bound _).1
  · rw [bindIdle, (tiles_putHead _ _ _ _ _ _ _ _).1, putTile_units]
  · exact congrArg (fun l => (tabGet (.reset b.core) l b.core).deque) (bindIdle_bound _).2

end

/-- Settles O39: the tiles of a unit are different, so that each step of publishing keeps what the others have left. -/
theorem versions : Obligations.Versions := by
  refine ⟨?_, ?_, ?_⟩
  · intro s c ctx job h tile scope final hd ht hh m old apart live
    refine ⟨publish_final hh, publish_refused hh, fun t hf hv htile hk hj hm ho hcur => ?_⟩
    have hm' : apartAt s (unitOf c tile) := hm
    have ho' : apartAt s (unitOf c hd.cur) := ho
    obtain ⟨w, subs, hw, hp, hhead, he⟩ := publish_publishes (scope := scope) (final := final) hh hf hv htile hk hj
    obtain ⟨h1, h2, h3⟩ := settled_tiles htile hk hm' ho' hcur hw
    refine ⟨settleNamed w (unitOf c tile) ctx tile, he, ⟨_, (headAt_congr (settleNamed_heads _ _ _ _ _) ctx h).trans hhead, rfl,
      retiled_startHandle htile hk hm' ho' hcur hw, rfl, rfl, rfl, rfl, rfl, hp.length_eq.symm, fun i b hb => ?_⟩, h1, h2, h3⟩
    obtain ⟨b', hb', hpass⟩ := passed_at hp hb
    exact ⟨b', hb', hpass.state, hpass.holds, hpass.ended, hpass.others⟩
  · intro s c ctx job h b hd ht hh m i ends bound
    refine ⟨subscribe_full hh b, fun hi h0 => ?_, fun hi h0 hno => ?_, ?_⟩
    · refine ⟨bindIdle s c ctx h hd ht { b with state := ends }, ⟨(subscribe_first hh b hi h0).trans ?_, (bindIdle_bound _).1⟩, (bindIdle_bound _).2⟩
      simp only [ends, h0, if_true]
      all_goals rfl
    · refine ⟨bindIdle s c ctx h hd ht { b with state := ends, runv := 0 },
        ⟨(subscribe_none hh b hi h0 hno).trans ?_, (bindIdle_bound _).1⟩, (bindIdle_bound _).2⟩
      simp only [ends, h0, if_false]
      all_goals rfl
    · intro t hi h0 hc htile k room
      by_cases hroom : generalUsed (coreAt s b.core) < 56
      · obtain ⟨v, hv, hhead, htiles, hdq⟩ := subscribe_pushes hh b hi h0 hc htile hroom
        have hb : firedSub b true = firedSub b (decide room) := by rw [decide_eq_true hroom]
        rw [hb] at hhead
        exact ⟨v, ⟨hv, hhead⟩, htiles, fun _ => hdq, fun hno => absurd hroom hno⟩
      · obtain ⟨v, hv, hhead, htiles, hdq⟩ := subscribe_queues hh b hi h0 hc htile hroom
        have hb : firedSub b false = firedSub b (decide room) := by rw [decide_eq_false hroom]
        rw [hb] at hhead
        exact ⟨v, ⟨hv, hhead⟩, htiles, fun hyes => absurd hyes hroom, fun _ => hdq⟩
  · intro s a hr u job ctx
    refine ⟨?_, ?_, ?_⟩
    · intro p sc x y hx hy hp hent hrel hq does
      exact ⟨⟨fun w ok hw hpw => pubv_publishes rfl hr hx hy hp hent hrel hq hw hpw,
          fun c hc => pubv_refused rfl hr hx hy hp hent hrel hq hc⟩,
        fun w ok hw hpw => pubv_publishes rfl hr hx hy hp hent hrel hq hw hpw,
        fun c hc => pubv_refused rfl hr hx hy hp hent hrel hq hc⟩
    · intro d n x y pl v b hx hy hd hs hb hq r
      exact ⟨fun w i hw hdw => tsub_binds hr hx hy hd hs hb hq hw hdw, fun c hc => tsub_refused hr hx hy hd hs hb hq hc⟩
    · exact fun x hx h64 hn => ⟨swait_settled hr hx h64 hn, swait_waits hr hx h64 hn⟩

end Sys2Proof.Machine
end

section
/-! Collective steps and the messages of a sequencer (R315, R316, R323 to R334, R398, R457, R458, R466). -/

namespace Sys2Proof.Machine

/-! ## The outcome of a step's issue (R323, R398) -/

section
variable {s : State} {cl : Nat} {ln : BitVec 32} {l : Launch} (hl : launchAt s cl ln.toNat = some l)
include hl

section
variable (hc : firstChecks s cl l = .ok ()) {f : Launch → SeqE (Option State)}
include hc

theorem stepOf_issues {t : State} (hf : f l = .ok (some t)) : stepOf cl ln s f = .next t := by
  simp only [stepOf, hl, hc, hf]

theorem stepOf_aborts {code x : Nat} (hf : f l = .error (code, x)) : stepOf cl ln s f = .next (abortLaunch s cl l (stepCause l code x)) := by
  simp only [stepOf, hl, hc, hf]

end

end

/-! ## Transfer steps (R329 to R332) -/

theorem stepCause_absent (l : Launch) (r : Nat) : stepCause l 0xA4 r = ⟨0xA4, r, l.num, 0⟩ := rfl

theorem stepCause_other (l : Launch) {code : Nat} (h : code ≠ 0xA4) (x : Nat) : stepCause l code x = ⟨code, l.num, l.pc, x⟩ := if_neg h

/-- The only error that peers has (R329). -/
theorem peers_error {l : Launch} {f : StepFields} {c p : Nat} (h : peers l f = .error (c, p)) : c = 0xAA := by
  unfold peers at h
  dsimp only at h
  split at h
  · cases h
  · split at h
    · cases h
    · cases h; rfl
  · split at h
    · cases h
    · cases h; rfl

section
variable {s : State} {cl : Nat} {l : Launch} {f : StepFields} (hb : pastBars l = true) (hu : (unfinished l).length < 16)
include hb hu

/-- Nothing before it holds a transfer step back (R332, R333). -/
theorem transfer_open : ¬((!pastBars l) = true ∨ 16 ≤ (unfinished l).length) := by
  rw [hb]
  rintro (h | h)
  · cases h
  · exact absurd hu (Nat.not_lt.mpr h)

theorem transfer_noPeers {c p : Nat} (hp : peers l f = .error (c, p)) (op : Nat) : transfer op cl f s l = .error (c, p) := by
  unfold transfer
  rw [if_neg (transfer_open hb hu), hp]

variable {send recv : Nat} (hp : peers l f = .ok (send, recv))
include hp

theorem csend_absent {e : Nat × Nat} (he : peerCheck s cl l send = .error e) : transfer 1 cl f s l = .error e := by
  unfold transfer
  rw [if_neg (transfer_open hb hu), hp]
  simp [he]

theorem crecv_absent {e : Nat × Nat} (he : peerCheck s cl l recv = .error e) : transfer 2 cl f s l = .error e := by
  unfold transfer
  rw [if_neg (transfer_open hb hu), hp]
  simp [he]

/-- A transfer step that is no CCOPY issues (R331). -/
theorem transfer_runs {op : Nat} (h4 : op ≠ 4) {src dst : Option Chunk} {r : StepRun} {readies : List Nat} {u : State}
    (hs : op = 1 ∨ (op = 3 ∧ f.ns = 0) → peerCheck s cl l send = .ok ())
    (hr : op = 2 ∨ op = 3 → peerCheck s cl l recv = .ok ())
    (ha : (if op = 2 then .ok none
      else (chunkOf s l f.sbuf.toNat f.par.toNat (chunkNo l f (if op = 1 then send else recv))).map some) = .ok src)
    (hd : (if op = 1 then .ok none
      else (chunkOf s l f.dbuf.toNat f.par.toNat (chunkNo l f (if op = 1 then send else recv))).map some) = .ok dst)
    (ho : overlaps l src dst = false) (hrun : runOf l op f send recv src dst = (r, readies))
    (ht : tellMembers s cl l (if op = 2 ∨ op = 3 then [recv] else []) = some u) :
    transfer op cl f s l = .ok (some (putLaunch u cl (({ l with runs := l.runs ++ [r], readies := readies } : Launch).goOn l.pc))) := by
  have hs' : (if op = 1 ∨ (op = 3 ∧ f.ns = 0) then peerCheck s cl l send else .ok ()) = .ok () := by
    split
    · next h => exact hs h
    · rfl
  have hr' : (if op = 2 ∨ op = 3 then peerCheck s cl l recv else .ok ()) = .ok () := by
    split
    · next h => exact hr h
    · rfl
  unfold transfer
  rw [if_neg (transfer_open hb hu), hp]
  dsimp only
  rw [hs', hr']
  dsimp only
  rw [ha, hd]
  dsimp only
  rw [ho, if_neg (by decide), if_neg h4, hrun]
  dsimp only
  rw [ht]
  rfl

/-- CCOPY issues: its elements are read, converted and written at once (R330). -/
theorem transfer_copies {a b : Chunk} {v : List Nat} {u : State}
    (ha : chunkOf s l f.sbuf.toNat f.par.toNat (chunkNo l f recv) = .ok a)
    (hd : chunkOf s l f.dbuf.toNat f.par.toNat (chunkNo l f recv) = .ok b) (ho : overlaps l (some a) (some b) = false)
    (hn : a.n = b.n) (hv : readChunk s l a = some v)
    (hw : seqWrite s l b.ad (v.flatMap (fun x => leBytes (fmtBytes b.fmt) (reEncode a.fmt b.fmt x))) = some u) :
    transfer 4 cl f s l = .ok (some (putLaunch u cl (l.goOn l.pc))) := by
  have hw' : seqWrite s l b.ad (fmtBytesOf b.fmt (v.map (reEncode a.fmt b.fmt))) = some u := by
    rw [fmtBytesOf, List.flatMap_map]
    exact hw
  unfold transfer
  rw [if_neg (transfer_open hb hu), hp]
  simp [ha, hd, ho, Except.map, hn, hv, hw']

end

/-- The run of CSEND and the readies left: a ready that has come already is used (R331). -/
theorem runOf_csend (l : Launch) (f : StepFields) (send recv : Nat) (src : Option Chunk) :
    runOf l 1 f send recv src none = (⟨l.pc, 1, f.rop.toNat, none, some send, src, none, false, !l.readies.contains send,
      true, true, 0, 0, 0⟩, l.readies.erase send) := by
  unfold runOf
  cases h : l.readies.contains send with
  | true => simp
  | false =>
    have hno : send ∉ l.readies := by simpa using h
    simp [List.erase_of_not_mem hno]

theorem runOf_crecv (l : Launch) (f : StepFields) (send recv : Nat) (dst : Option Chunk) :
    runOf l 2 f send recv none dst = (⟨l.pc, 2, f.rop.toNat, some recv, none, none, dst, true, false, false, false, 0, 0, 0⟩,
      l.readies) := rfl

/-- A receive and reduction that does not send on (R331). -/
theorem runOf_crrs_last (l : Launch) {f : StepFields} (hn : f.ns = 1) (send recv : Nat) (src dst : Option Chunk) :
    runOf l 3 f send recv src dst = (⟨l.pc, 3, f.rop.toNat, some recv, none, src, dst, true, false, false, false, 0, 0, 0⟩,
      l.readies) := by
  unfold runOf
  rw [hn]
  rfl

/-- A receive and reduction that sends on (R331). -/
theorem runOf_crrs (l : Launch) {f : StepFields} (hn : f.ns = 0) (send recv : Nat) (src dst : Option Chunk) :
    runOf l 3 f send recv src dst = (⟨l.pc, 3, f.rop.toNat, some recv, some send, src, dst, true, !l.readies.contains send,
      true, true, 0, 0, 0⟩, l.readies.erase send) := by
  unfold runOf
  rw [hn]
  cases h : l.readies.contains send with
  | true => simp
  | false =>
    have hno : send ∉ l.readies := by simpa using h
    simp [List.erase_of_not_mem hno]

/-- No message leaves to members on this device (R331). -/
theorem tellMembers_here {s : State} {cl : Nat} {l : Launch} {js : List Nat} (h : ∀ j, j ∈ js → memberRoute s cl l j = none) :
    tellMembers s cl l js = some s := by
  have hnil : js.filterMap (memberRoute s cl l) = [] := List.filterMap_eq_nil_iff.mpr h
  unfold tellMembers
  rw [hnil]
  rfl

theorem settled_of {l : Launch} {acked : Bool} (hu : unfinished l = []) (ha : acked = true → l.runs.any (·.needAck) = false) :
    settled l acked = true := by
  unfold settled
  rw [hu]
  cases acked with
  | false => rfl
  | true => rw [ha rfl]; rfl

theorem loopCount_eq (l : Launch) (rel : BitVec 1) (v : Nat) : loopCount l rel.toNat v = if rel = 0 then v else l.size - v := by
  unfold loopCount
  by_cases h : rel = 0
  · subst h
    rfl
  · rw [if_neg h, if_neg (fun e : rel.toNat = 0 => h (BitVec.eq_of_toNat_eq e))]

theorem launchAt_dropLaunch (s : State) (cl ln : Nat) : launchAt (dropLaunch s cl ln) cl ln = none := by
  unfold launchAt dropLaunch
  rw [clusterAt_onCluster_same, List.find?_eq_none]
  intro m hm
  rw [List.mem_filter] at hm
  simpa using hm.2

section
variable {s : State} {cl : Nat} {ln : BitVec 32} {l : Launch} (hl : launchAt s cl ln.toNat = some l)
  (hc : firstChecks s cl l = .ok ())
include hl hc

/-- The body of a CLOOP nests in the one it stands in (R333). -/
theorem cloop_nests {k : BitVec 2} {rel : BitVec 1} {v : BitVec 21} {len : BitVec 16} (hb : pastBars l = true)
    (hx : ∀ x, l.stack.head? = some x → l.pc + len.toNat ≤ x.2.2.2) : exec (.cloop cl ln k rel v len) s =
      .next (putLaunch s cl (if (if rel = 0 then v.toNat else l.size - v.toNat) = 0
        then ({ l with loops := setNth l.loops k.toNat 0 } : Launch).goOn (l.pc + len.toNat)
        else { l with
          loops := setNth l.loops k.toNat 0, pc := l.pc + 1
          stack := (k.toNat, if rel = 0 then v.toNat else l.size - v.toNat, l.pc + 1, l.pc + len.toNat) :: l.stack })) := by
  refine (show exec (.cloop cl ln k rel v len) s = execCloop cl ln k rel v len s from rfl).trans (stepOf_issues hl hc ?_)
  cases hst : l.stack with
  | nil => simp [hb, loopCount_eq]
  | cons e st =>
    have hle : l.pc + len.toNat ≤ e.2.2.2 := hx e (by rw [hst]; rfl)
    obtain ⟨e1, e2, e3, e4⟩ := e
    simp [hb, hle, loopCount_eq]

theorem cloop_leaves {k : BitVec 2} {rel : BitVec 1} {v : BitVec 21} {len : BitVec 16} (hb : pastBars l = true)
    {x : Nat × Nat × Nat × Nat} (hx : l.stack.head? = some x) (hlt : x.2.2.2 < l.pc + len.toNat) :
    exec (.cloop cl ln k rel v len) s = .next (abortLaunch s cl l ⟨0xB1, l.num, l.pc, 0⟩) := by
  refine (show exec (.cloop cl ln k rel v len) s = execCloop cl ln k rel v len s from rfl).trans
    ((stepOf_aborts hl hc (code := 0xB1) (x := 0) ?_).trans (by rw [stepCause_other l (by decide)]))
  cases hst : l.stack with
  | nil => rw [hst] at hx; cases hx
  | cons e st =>
    obtain ⟨e1, e2, e3, e4⟩ := e
    rw [hst] at hx
    obtain rfl := Option.some.inj hx
    have hno : ¬l.pc + len.toNat ≤ e4 := Nat.not_le.mpr hlt
    simp [hb, hno]

end

/-- Settles O52: each step word's outcome is that of its transfer or its control step. -/
theorem collectiveSteps : Obligations.CollectiveSteps := by
  intro s cl ln l hl hc on run
  refine ⟨fun js => tellMembers_here, ?_, ?_, ?_, ?_, ?_, ?_⟩
  · intro f send recv hb hu hp src dst
    refine ⟨fun r he => ?_, fun r he => ?_, ?_, ?_, ?_, ?_, ?_⟩
    · rw [← stepCause_absent]
      exact stepOf_aborts hl hc (csend_absent hb hu hp he)
    · rw [← stepCause_absent]
      exact stepOf_aborts hl hc (crecv_absent hb hu hp he)
    · intro a hs ha ho
      exact stepOf_issues hl hc (transfer_runs hb hu hp (by decide) (fun _ => hs) (fun h => absurd h (by decide))
        (congrArg (Except.map some) ha) rfl ho (runOf_csend _ _ _ _ _) rfl)
    · intro b u hr hd ho ht
      exact stepOf_issues hl hc (transfer_runs hb hu hp (by decide) (fun h => absurd h (by simp)) (fun _ => hr) rfl
        (congrArg (Except.map some) hd) ho (runOf_crecv _ _ _ _ _) ht)
    · intro a b u hn hr ha hd ho ht
      exact stepOf_issues hl hc (transfer_runs hb hu hp (by decide) (fun h => absurd h (by simp [hn])) (fun _ => hr)
        (congrArg (Except.map some) ha) (congrArg (Except.map some) hd) ho (runOf_crrs_last _ hn _ _ _ _) ht)
    · intro a b u hn hs hr ha hd ho ht
      exact stepOf_issues hl hc (transfer_runs hb hu hp (by decide) (fun _ => hs) (fun _ => hr)
        (congrArg (Except.map some) ha) (congrArg (Except.map some) hd) ho (runOf_crrs _ hn _ _ _ _) ht)
    · intro a b v u ha hd ho hn hv hw
      exact stepOf_issues hl hc (transfer_copies hb hu hp ha hd ho hn hv hw)
  · intro f hb hu c p hp i hi
    have hcode : c ≠ 0xA4 := by rw [peers_error hp]; decide
    have habort (op : Nat) : stepOf cl ln s (transfer op cl f s) = .next (abortLaunch s cl l ⟨c, l.num, l.pc, p⟩) := by
      rw [stepOf_aborts hl hc (transfer_noPeers hb hu hp op), stepCause_other l hcode]
    simp only [List.mem_cons, List.not_mem_nil, or_false] at hi
    rcases hi with rfl | rfl | rfl | rfl
    · exact habort 1
    · exact habort 2
    · exact habort 3
    · exact habort 4
  · intro w hu ha
    refine stepOf_issues hl hc ?_
    rw [if_pos (settled_of hu fun h => ha (by simpa using h))]
  · intro k rel v len hb count last m
    refine ⟨fun hx => ⟨fun h0 => ?_, fun h0 => ?_⟩, fun x hx hlt => cloop_leaves hl hc hb hx hlt⟩
    · rw [cloop_nests hl hc hb hx, if_neg h0]
    · rw [cloop_nests hl hc hb hx, if_pos h0]
  · intro u hu ht
    refine stepOf_issues hl hc ?_
    have hset : settled l false = true := settled_of hu fun h => absurd h (by decide)
    rw [hset, ht]
    rfl
  · intro u hu ha hw
    refine ⟨stepOf_issues hl hc ?_, launchAt_dropLaunch _ _ _⟩
    have hset : settled l true = true := settled_of hu fun _ => ha
    rw [hset, hw]
    rfl

end Sys2Proof.Machine
end

section
/-! Messages that reach a sequencer (R315, R316, R331, R333, R457, R458, R466). -/

namespace Sys2Proof.Machine

/-! ## The first run that a test names (R331) -/

theorem splitRun_first {f : StepRun → Bool} {l1 l2 : List StepRun} {r : StepRun} (hb : ∀ x, x ∈ l1 → f x = false)
    (hr : f r = true) : splitRun f (l1 ++ r :: l2) = some (l1, r, l2) := by
  induction l1 with
  | nil => simp [splitRun, hr]
  | cons x l1 ih =>
    have hx := hb x (List.mem_cons_self ..)
    simp [splitRun, hx, ih fun y hy => hb y (List.mem_cons_of_mem _ hy)]

theorem splitRun_none {f : StepRun → Bool} {l : List StepRun} (h : ∀ x, x ∈ l → f x = false) : splitRun f l = none := by
  induction l with
  | nil => rfl
  | cons x l ih =>
    have hx := h x (List.mem_cons_self ..)
    simp [splitRun, hx, ih fun y hy => h y (List.mem_cons_of_mem _ hy)]

theorem onRun_first {l : Launch} {f : StepRun → Bool} {g : StepRun → StepRun} {l1 l2 : List StepRun} {r : StepRun}
    (hl : l.runs = l1 ++ r :: l2) (hb : ∀ x, x ∈ l1 → f x = false) (hr : f r = true) :
    onRun l f g = some (tidy { l with runs := l1 ++ g r :: l2 }) := by
  unfold onRun
  rw [hl, splitRun_first hb hr]
  rfl

theorem onRun_none {l : Launch} {f : StepRun → Bool} {g : StepRun → StepRun} (h : ∀ x, x ∈ l.runs → f x = false) :
    onRun l f g = none := by
  unfold onRun
  rw [splitRun_none h]
  rfl

theorem find_first_run {f : StepRun → Bool} {l1 l2 : List StepRun} {r : StepRun} (hb : ∀ x, x ∈ l1 → f x = false)
    (hr : f r = true) : (l1 ++ r :: l2).find? f = some r := by
  have hnone : l1.find? f = none := List.find?_eq_none.mpr fun x hx => by rw [hb x hx]; decide
  rw [List.find?_append, hnone, List.find?_cons_of_pos hr]
  rfl

/-! ## The flits that carried a message (R315, R316) -/

/-- A message has come: from another device its flits are taken. -/
def Comes (s : State) (far : Prop) (n : Nat) (u : State) : Prop :=
  (far → n ≤ s.inbound ∧ u = { s with inbound := s.inbound - n }) ∧ (¬far → u = s)

section
variable {s u : State} {cl : Nat} {l : Launch} {peer : Nat}

theorem arrived_comes {n : Nat} (h : Comes s ((memberRoute s cl l peer).isSome = true) n u) : arrived s cl l peer n = some u := by
  obtain ⟨hfar, hnear⟩ := h
  unfold arrived
  cases hm : memberRoute s cl l peer with
  | none =>
    rw [hm] at hnear
    rw [hnear (by decide)]
  | some x =>
    rw [hm] at hfar
    obtain ⟨hn, rfl⟩ := hfar rfl
    exact if_neg (Nat.not_lt.mpr hn)

variable {ln : BitVec 32} (hl : launchAt s cl ln.toNat = some l)
include hl

section
variable (hu : Comes s ((memberRoute s cl l peer).isSome = true) 1 u)
include hu

theorem ready_kept (hr : ∀ r, r ∈ l.runs → r.sendPeer = some peer → r.needReady = false) :
    exec (.collReadyArrive cl ln peer) s = .next (putLaunch u cl { l with readies := l.readies ++ [peer] }) := by
  refine (show exec (.collReadyArrive cl ln peer) s = execCollReadyArrive cl ln peer s from rfl).trans ?_
  have htest : ∀ x, x ∈ l.runs → (x.sendPeer == some peer && x.needReady) = false := by
    intro x hx
    by_cases hp : x.sendPeer = some peer
    · simp [hr x hx hp]
    · simp [hp]
  unfold execCollReadyArrive
  rw [hl]
  dsimp only
  rw [arrived_comes hu, onRun_none htest]
  rfl

theorem ready_starts {l1 l2 : List StepRun} {r : StepRun} (hruns : l.runs = l1 ++ r :: l2) (hp : r.sendPeer = some peer)
    (hr : r.needReady = true) (hb : ∀ x, x ∈ l1 → x.sendPeer = some peer → x.needReady = false) :
    exec (.collReadyArrive cl ln peer) s =
      .next (putLaunch u cl (tidy { l with runs := l1 ++ { r with needReady := false, waited := 0 } :: l2 })) := by
  refine (show exec (.collReadyArrive cl ln peer) s = execCollReadyArrive cl ln peer s from rfl).trans ?_
  have htest : ∀ x, x ∈ l1 → (x.sendPeer == some peer && x.needReady) = false := by
    intro x hx
    by_cases hxp : x.sendPeer = some peer
    · simp [hb x hx hxp]
    · simp [hxp]
  unfold execCollReadyArrive
  rw [hl]
  dsimp only
  rw [arrived_comes hu, onRun_first hruns htest (by simp [hp, hr])]
  rfl

theorem bar_counted : exec (.cbarMessage cl ln peer) s =
    .next (putLaunch u cl (tidy { l with bars := tabPut l.bars peer (tabGet 0 l.bars peer + 1) })) := by
  refine (show exec (.cbarMessage cl ln peer) s = execCbarMessage cl ln peer s from rfl).trans ?_
  unfold execCbarMessage
  rw [hl]
  dsimp only
  rw [arrived_comes hu]

end

section
variable {l1 l2 : List StepRun} {r : StepRun} (hruns : l.runs = l1 ++ r :: l2)

include hruns

theorem data_taken {fmt : BitVec 8} {data : List Byte}
    (hu : Comes s ((memberRoute s cl l peer).isSome = true) (flitCount data.length) u)
    (hp : r.recvPeer = some peer) (hd : r.needData = true) (hb : ∀ x, x ∈ l1 → x.recvPeer = some peer → x.needData = false) :
    exec (.collDataArrive cl ln peer fmt data) s = match takeData u cl l peer fmt.toNat data r with
      | .error (code, p) => .next (abortLaunch u cl l ⟨code, l.num, r.step, p⟩)
      | .ok t => .next t := by
  refine (show exec (.collDataArrive cl ln peer fmt data) s = execCollDataArrive cl ln peer fmt data s from rfl).trans ?_
  have htest : ∀ x, x ∈ l1 → (x.recvPeer == some peer && x.needData) = false := by
    intro x hx
    by_cases hxp : x.recvPeer = some peer
    · simp [hb x hx hxp]
    · simp [hxp]
  unfold execCollDataArrive
  rw [hl]
  dsimp only
  rw [hruns, splitRun_first htest (by simp [hp, hd]), arrived_comes hu]
  all_goals rfl

variable (hb : ∀ x, x ∈ l1 → x.step ≠ r.step) {j : Nat} (hp : r.sendPeer = some j) (hr : r.needReady = false)
include hb hp hr

theorem send_complete (hd : r.needData = false) (hs : r.needSend = true)
    (hout : (memberRoute s cl l j).isSome = true → flitCount r.sendLen ≤ r.sent) : exec (.collTransferFinish cl ln r.step 0) s =
      .next (putLaunch s cl (tidy { l with runs := l1 ++ { r with needSend := false } :: l2 })) := by
  refine (show exec (.collTransferFinish cl ln r.step 0) s = execCollTransferFinish cl ln r.step 0 s from rfl).trans ?_
  have htest : ∀ x, x ∈ l1 → (x.step == r.step && x.sendPeer.isSome && (!x.needData && !x.needReady && x.needSend)) = false := by
    intro x hx
    simp [hb x hx]
  have hrt : (r.step == r.step && r.sendPeer.isSome && (!r.needData && !r.needReady && r.needSend)) = true := by
    simp [hp, hr, hd, hs]
  have hgone : ((memberRoute s cl l j).isNone || decide (flitCount r.sendLen ≤ r.sent)) = true := by
    cases hm : memberRoute s cl l j with
    | none => rfl
    | some x => simp [hout (by rw [hm]; rfl)]
  have ho := onRun_first (g := fun r => { r with needSend := false }) hruns htest hrt
  have hsp := splitRun_first (l2 := l2) htest hrt
  rw [← hruns] at hsp
  unfold execCollTransferFinish
  rw [hl]
  simp only [if_true, hsp, ho, hp, Option.getD_some, hgone]

theorem send_acknowledged (hu : Comes s ((memberRoute s cl l j).isSome = true) 1 u) (hs : r.needSend = false)
    (ha : r.needAck = true) : exec (.collTransferFinish cl ln r.step 1) s =
      .next (putLaunch u cl (tidy { l with runs := l1 ++ { r with needAck := false } :: l2 })) := by
  refine (show exec (.collTransferFinish cl ln r.step 1) s = execCollTransferFinish cl ln r.step 1 s from rfl).trans ?_
  have htest : ∀ x, x ∈ l1 → (x.step == r.step && x.sendPeer.isSome && (!x.needReady && !x.needSend && x.needAck)) = false := by
    intro x hx
    simp [hb x hx]
  have hrt : (r.step == r.step && r.sendPeer.isSome && (!r.needReady && !r.needSend && r.needAck)) = true := by
    simp [hp, hr, hs, ha]
  have ho := onRun_first (g := fun r => { r with needAck := false }) hruns htest hrt
  have hsp := splitRun_first (l2 := l2) htest hrt
  rw [← hruns] at hsp
  have h10 : ¬((1 : BitVec 1) = 0) := by decide
  unfold execCollTransferFinish
  rw [hl]
  simp only [if_neg h10, hsp, ho, hp, Option.getD_some, arrived_comes hu]

end

/-- A run that has waited the launch's limit aborts it (R457). -/
theorem timeout_aborts {kind : BitVec 2} (hk : kind.toNat < 3) {r : StepRun} (ht : timedOut l kind.toNat = some r) :
    exec (.collTimeout cl ln kind) s = .next (abortLaunch s cl l ⟨0xB2 + kind.toNat, l.num, r.step,
      if kind = 0 then r.recvPeer.getD 0 else r.sendPeer.getD 0⟩) := by
  refine (show exec (.collTimeout cl ln kind) s = execCollTimeout cl ln kind s from rfl).trans ?_
  unfold execCollTimeout
  rw [hl]
  dsimp only
  rw [if_neg (Nat.not_le.mpr hk), ht]

end

/-! ## The flits of a send (R315, R316) -/

theorem pushSend_goes {s : State} {cl : Nat} {l : Launch} {l1 l2 : List StepRun} {r : StepRun} {j x : Nat}
    (hruns : l.runs = l1 ++ r :: l2) (hn : r ∉ l1) (hp : r.sendPeer = some j) (hm : memberRoute s cl l j = some x)
    (hd : r.needData = false) (hr : r.needReady = false) (hs : r.needSend = true) (hl : r.sent < flitCount r.sendLen) :
    pushSend s cl l r = if spanRoom s x 1 then some (putLaunch (sendOn s cl x (min 240 (r.sendLen - 240 * r.sent))) cl
      (tidy { l with runs := l1 ++ { r with sent := r.sent + 1 } :: l2 })) else none := by
  have htest : ∀ q, q ∈ l1 → (q == r) = false := by
    intro q hq
    simpa using fun e : q = r => hn (e ▸ hq)
  have ho := onRun_first (g := fun q => { q with sent := q.sent + 1 }) hruns htest (beq_self_eq_true r)
  unfold pushSend
  simp only [hd, hr, hs, Nat.not_le.mpr hl, hp, Option.getD_some, hm, ho]
  rfl

/-! ## Abort messages (R458, R466) -/

theorem abort_comes {s u : State} {cl : Nat} {tag : BitVec 32} (hu : Comes s (s.abortFrom ≠ s.dev.rank) 1 u) :
    exec (.collAbortMessage cl tag) s = match (clusterAt s cl).launches.find? (fun l => l.tag == tag.toNat) with
      | none => .next u
      | some l => .next (abortLaunch u cl l ⟨0xBE, s.abortFrom, 0, 0⟩) := by
  refine (show exec (.collAbortMessage cl tag) s = execCollAbortMessage cl tag s from rfl).trans ?_
  obtain ⟨hfar, hnear⟩ := hu
  unfold execCollAbortMessage
  by_cases h : s.abortFrom = s.dev.rank
  · have hf : (s.abortFrom != s.dev.rank) = false := by simpa using h
    obtain rfl := hnear (not_not.mpr h)
    simp only [hf, Bool.false_and, Bool.false_eq_true, if_false]
    all_goals rfl
  · have hf : (s.abortFrom != s.dev.rank) = true := by simpa using h
    obtain ⟨hn, rfl⟩ := hfar h
    have hz : (s.inbound == 0) = false := by simpa using Nat.one_le_iff_ne_zero.mp hn
    simp only [hf, hz, Bool.and_false, Bool.false_eq_true, if_false, if_true]
    all_goals rfl

/-- Settles O53: a message meets the first run that waits for it. -/
theorem collectiveMessages : Obligations.CollectiveMessages := by
  intro s cl peer ln l hl comes far
  refine ⟨fun u hu hr => ready_kept hl hu hr, fun u l1 r l2 hu hruns hp hr hb => ready_starts hl hu hruns hp hr hb, ?_, ?_, ?_,
    fun u hu => bar_counted hl hu, ?_, ?_⟩
  · intro u l1 r l2 fmt data hu hruns hp hd hb
    have he := data_taken (fmt := fmt) hl hruns hu hp hd hb
    exact ⟨fun t ht => by rw [he, ht], fun c p ht => by rw [he, ht]⟩
  · intro l1 r l2 j x hruns hn hp hm hd hr hs hlt
    have he := pushSend_goes hruns hn hp hm hd hr hs hlt
    exact ⟨fun h => by rw [he, h]; rfl, fun h => by rw [he, h]; rfl⟩
  · intro l1 r l2 j hruns hb hp hr
    exact ⟨fun hd hs hout => send_complete hl hruns hb hp hr hd hs hout, fun u hu hs ha => send_acknowledged hl hruns hb hp hr hu hs ha⟩
  · intro u hu
    refine ⟨fun tag hno => ?_, fun l1 m l2 hls hb hlt => ?_⟩
    · have hnone : (clusterAt s cl).launches.find? (fun l => l.tag == tag.toNat) = none :=
        List.find?_eq_none.mpr fun m hm => by simpa using hno m hm
      rw [abort_comes hu, hnone]
    · have htag : (BitVec.ofNat 32 m.tag).toNat = m.tag := by rw [BitVec.toNat_ofNat, Nat.mod_eq_of_lt hlt]
      have hfirst : (clusterAt s cl).launches.find? (fun l => l.tag == m.tag) = some m := by
        have hnone : l1.find? (fun l => l.tag == m.tag) = none :=
          List.find?_eq_none.mpr fun x hx => by simpa using hb x hx
        rw [hls, List.find?_append, hnone, List.find?_cons_of_pos (by simp)]
        rfl
      rw [abort_comes hu, htag, hfirst]
  · intro l1 r l2 hruns hlim
    refine ⟨fun hb hd hp => ?_, fun hb hd hp hs => ?_, fun hb hn hm hp => ?_⟩
    · have ht : timedOut l (0 : BitVec 2).toNat = some r := by
        unfold timedOut
        rw [hruns]
        exact find_first_run (fun x hx => by simp [hb x hx]) (by simp [hlim, hd])
      have he := timeout_aborts hl (by decide) ht
      rw [hp] at he
      exact he
    · have ht : timedOut l (1 : BitVec 2).toNat = some r := by
        unfold timedOut
        rw [hruns]
        exact find_first_run (fun x hx => by simp [hb x hx]) (by simp [hlim, hd, hp, hs])
      have he := timeout_aborts hl (by decide) ht
      rw [hp] at he
      exact he
    · have ht : timedOut l (2 : BitVec 2).toNat = some r := by
        unfold timedOut
        rw [hruns]
        exact find_first_run (fun x hx => by simp [hb x hx]) (by simp [hlim, hn, hm])
      have he := timeout_aborts hl (by decide) ht
      rw [hp] at he
      exact he

end Sys2Proof.Machine
end

section
/-! The host's registers and windows (R2, R339 to R346, R358, R436, R449, R453, R460). -/

namespace Sys2Proof.Machine

/-! ## Device registers (R341, R436) -/

theorem setPlim_stays {s : State} {v : Nat} (hv : v < 2 ^ 12) (h : v = 0 ∨ ∀ d, d < 6 → (dieAt s d).pstate = 2) :
    setPlim s v = { s with dev := { s.dev with plim := v, pkg := if v = 0 then 4 else s.dev.pkg } } := by
  unfold setPlim
  dsimp only
  rw [Nat.mod_eq_of_lt hv]
  by_cases h0 : v = 0
  · rw [if_pos h0, if_pos h0]
    rfl
  · have hall : (List.range 6).all (fun d => (dieAt (onDev s (fun d => { d with plim := v })) d).pstate == 2) = true := by
      rw [List.all_eq_true]
      intro d hd
      exact beq_iff_eq.mpr ((h.resolve_left h0) d (List.mem_range.mp hd))
    rw [if_neg h0, if_neg h0, if_pos hall]
    rfl

theorem setPlim_wakes {s : State} {v : Nat} (hv : v < 2 ^ 12) (h : ¬(v = 0 ∨ ∀ d, d < 6 → (dieAt s d).pstate = 2)) :
    setPlim s v = { s with dev := { s.dev with plim := v, pkg := 0, quiet := 0 } } := by
  obtain ⟨h0, hd⟩ := not_or.mp h
  have hall : ¬(List.range 6).all (fun d => (dieAt (onDev s (fun d => { d with plim := v })) d).pstate == 2) = true := by
    rw [List.all_eq_true]
    exact fun hall => hd fun d hd => beq_iff_eq.mp (hall d (List.mem_range.mpr hd))
  unfold setPlim
  dsimp only
  rw [Nat.mod_eq_of_lt hv, if_neg h0, if_neg hall]
  unfold wakePackage onDev
  dsimp only
  rw [if_neg h0]

/-- What the host reads of a register (R340). -/
theorem host_reads {s : State} {f o v : Nat} (ho : o % 8 = 0) (hf : functionOn s f = true) (hv : bar0Read s f o = v) :
    takeInput s (.hostRead f o) = some { s with hostData := some (BitVec.ofNat 64 v), hostEnd := .done } := by
  unfold takeInput
  dsimp only
  rw [hf, ho, hv]
  rfl

theorem bar0Read_device (s : State) {o : Nat} (h : o < 0x10000) : bar0Read s 0 o = deviceRead s o := by
  unfold bar0Read
  dsimp only
  rw [if_pos h]
  rfl

theorem bar0Read_refused (s : State) {f o : Nat} (hf : f ≠ 0) (h : o < 0x10000) : bar0Read s f o = 0 := by
  have hb : (f == 0) = false := by simpa using hf
  unfold bar0Read
  dsimp only
  rw [if_pos h, hb]
  rfl

theorem pstateWord_sum {s : State} (hd : ∀ d, d < 6 → (dieAt s d).pstate < 8) (hp : s.dev.pkg < 8) : pstateWord s =
    (dieAt s 0).pstate + 8 * (dieAt s 1).pstate + 8 ^ 2 * (dieAt s 2).pstate + 8 ^ 3 * (dieAt s 3).pstate +
      8 ^ 4 * (dieAt s 4).pstate + 8 ^ 5 * (dieAt s 5).pstate + 8 ^ 6 * s.dev.pkg := by
  have hl : List.range 6 = [0, 1, 2, 3, 4, 5] := by decide
  unfold pstateWord place
  rw [hl]
  simp only [List.foldl_cons, List.foldl_nil]
  have h0 := hd 0 (by decide)
  have h1 := hd 1 (by decide)
  have h2 := hd 2 (by decide)
  have h3 := hd 3 (by decide)
  have h4 := hd 4 (by decide)
  have h5 := hd 5 (by decide)
  omega

theorem clearDrop_bit (s : State) (v : BitVec 32) {i : Nat} (hi : i < 32) :
    bit (clearDrop s v.toNat).dev.eldrop i = (bit s.dev.eldrop i && !v.getLsbD i) := by
  have hv : v.toNat % 2 ^ 32 = v.toNat := Nat.mod_eq_of_lt v.isLt
  have he : (clearDrop s v.toNat).dev.eldrop = s.dev.eldrop &&& (2 ^ 32 - (v.toNat + 1)) := by
    unfold clearDrop onDev
    dsimp only
    rw [hv, Nat.sub_sub, Nat.add_comm 1]
    rfl
  rw [he, bit_eq_testBit, bit_eq_testBit, Nat.testBit_land, Nat.testBit_two_pow_sub_succ v.isLt]
  simp [hi, BitVec.getLsbD]

/-! ## The fenced cores of a cluster (R436, R449) -/

/-- Core c is no longer fenced. -/
def unfence (cl : Nat) (s : State) (k : Nat) : State :=
  if (coreAt s (48 * cl + k)).fenced then onCore s (48 * cl + k) (fun c => { c with fenced := false }) else s

/-- What remains once the fences of a list of cores are cleared. -/
structure Unfenced (s t : State) (l : List Nat) : Prop where
  fenced : ∀ c, (coreAt t c).fenced = ((coreAt s c).fenced && decide (c ∉ l))
  others : ∀ c, { coreAt t c with fenced := false } = { coreAt s c with fenced := false }
  kept : ∀ c, c ∉ l → coreAt t c = coreAt s c
  rest : { t with cores := [] } = { s with cores := [] }

theorem unfence_core (cl : Nat) (s : State) (k : Nat) :
    coreAt (unfence cl s k) (48 * cl + k) = { coreAt s (48 * cl + k) with fenced := false } := by
  unfold unfence
  split
  · rw [coreAt_onCore_same]
  · next h => rw [show (false : Bool) = (coreAt s (48 * cl + k)).fenced from (Bool.eq_false_iff.mpr h).symm]

theorem unfence_core_ne (cl : Nat) (s : State) (k : Nat) {c : Nat} (h : c ≠ 48 * cl + k) : coreAt (unfence cl s k) c = coreAt s c := by
  unfold unfence
  split
  · rw [coreAt_onCore_ne _ _ h]
  · rfl

theorem unfence_rest (cl : Nat) (s : State) (k : Nat) : { unfence cl s k with cores := [] } = { s with cores := [] } := by
  unfold unfence
  split <;> rfl

theorem unfenced_all (cl : Nat) (l : List Nat) (s : State) : Unfenced s (l.foldl (unfence cl) s) (l.map (48 * cl + ·)) := by
  induction l generalizing s with
  | nil => exact ⟨fun c => by simp, fun _ => rfl, fun _ _ => rfl, rfl⟩
  | cons k l ih =>
    obtain ⟨hf, ho, hk, hr⟩ := ih (unfence cl s k)
    rw [List.foldl_cons, List.map_cons]
    refine ⟨fun c => ?_, fun c => ?_, fun c hc => ?_, hr.trans (unfence_rest cl s k)⟩
    · rw [hf]
      by_cases h : c = 48 * cl + k
      · subst h
        rw [unfence_core]
        simp
      · rw [unfence_core_ne cl s k h]
        simp [h]
    · rw [ho]
      by_cases h : c = 48 * cl + k
      · subst h
        rw [unfence_core]
      · rw [unfence_core_ne cl s k h]
    · rw [List.mem_cons, not_or] at hc
      rw [hk c hc.2, unfence_core_ne cl s k hc.1]

theorem clearFence_unfences (s : State) (cl m : Nat) :
    Unfenced s (clearFence s cl m) ((setBits 48 m).map (48 * cl + ·)) := unfenced_all cl _ s

theorem mem_setBits {n v i : Nat} : i ∈ setBits n v ↔ i < n ∧ bit v i = true := by
  unfold setBits
  rw [List.mem_filter, List.mem_range]

theorem cfence_clears {s : State} (cl : BitVec 6) (m : BitVec 48) (h : cl.toNat < 36) : Runs (.cfenceClear cl m) s fun t =>
    (∀ k, k < 48 → (coreAt t (48 * cl.toNat + k)).fenced = ((coreAt s (48 * cl.toNat + k)).fenced && !m.getLsbD k)) ∧
    (∀ c, { coreAt t c with fenced := false } = { coreAt s c with fenced := false }) ∧
    (∀ c, c / 48 ≠ cl.toNat → coreAt t c = coreAt s c) ∧ { t with cores := [] } = { s with cores := [] } := by
  obtain ⟨hf, ho, hk, hr⟩ := clearFence_unfences s cl.toNat m.toNat
  refine ⟨clearFence s cl.toNat m.toNat, ?_, fun k hk48 => ?_, ho, fun c hc => hk c fun hmem => ?_, hr⟩
  · refine (show exec (.cfenceClear cl m) s = execCfenceClear cl m s from rfl).trans ?_
    exact if_neg (Nat.not_le.mpr h)
  · have hmem : 48 * cl.toNat + k ∈ (setBits 48 m.toNat).map (48 * cl.toNat + ·) ↔ m.getLsbD k = true := by
      rw [List.mem_map]
      constructor
      · rintro ⟨j, hj, he⟩
        obtain rfl : j = k := by omega
        have hb := (mem_setBits.mp hj).2
        rw [bit_eq_testBit] at hb
        exact hb
      · intro hb
        refine ⟨k, mem_setBits.mpr ⟨hk48, ?_⟩, rfl⟩
        rw [bit_eq_testBit]
        exact hb
    rw [hf]
    congr 1
    cases hb : m.getLsbD k with
    | true => simp [hmem, hb]
    | false => simp [hmem, hb]
  · obtain ⟨j, hj, he⟩ := List.mem_map.mp hmem
    have h48 := (mem_setBits.mp hj).1
    apply hc
    have he' : 48 * cl.toNat + j = c := he
    omega

/-! ## Installation and shootdown (R344) -/

/-- The pools of other contexts than one. -/
def otherPools (s : State) (ctx n : Nat) : Tab Pool := (unitAt s n).pools.filter (fun p => p.1 / 64 != ctx)

theorem filter_tabDel {α : Type} (t : Tab α) {k : Nat} {p : Nat × α → Bool} (hp : ∀ v, p (k, v) = false) :
    (tabDel t k).filter p = t.filter p := by
  induction t with
  | nil => rfl
  | cons e t ih =>
    obtain ⟨j, w⟩ := e
    unfold tabDel
    split
    · next h => subst h; rw [List.filter_cons_of_neg (by rw [hp]; decide)]
    · rw [List.filter_cons, List.filter_cons, ih]

/-- Installing a descriptor that is not valid changes the pool units alone, and of a pool no other than its own (R344). -/
structure Uninstalled (ctx : Nat) (s t : State) : Prop where
  rest : { t with units := [] } = { s with units := [] }
  pools : ∀ n, otherPools t ctx n = otherPools s ctx n

theorem Uninstalled.refl (ctx : Nat) (s : State) : Uninstalled ctx s s := ⟨rfl, fun _ => rfl⟩

theorem Uninstalled.trans {ctx : Nat} {s t u : State} (h : Uninstalled ctx s t) (h' : Uninstalled ctx t u) : Uninstalled ctx s u :=
  ⟨h'.rest.trans h.rest, fun n => (h'.pools n).trans (h.pools n)⟩

theorem Uninstalled.foldl {ctx : Nat} {α : Type} {f : State → α → State} {l : List α}
    (hf : ∀ s x, x ∈ l → Uninstalled ctx s (f s x)) (s : State) : Uninstalled ctx s (l.foldl f s) := by
  induction l generalizing s with
  | nil => exact .refl ctx s
  | cons x l ih =>
    exact (hf s x (List.mem_cons_self ..)).trans (ih (fun s y hy => hf s y (List.mem_cons_of_mem _ hy)) _)

theorem installAt_none {ctx key : Nat} (hk : key / 64 = ctx) (s : State) (n : Nat) :
    Uninstalled ctx s (installAt key Pool.none s n) := by
  have hv : Pool.none.valid = false := rfl
  unfold installAt
  dsimp only
  rw [hv]
  split
  · exact .refl ctx s
  · refine ⟨rfl, fun i => ?_⟩
    unfold otherPools
    by_cases hi : i = n
    · subst hi
      rw [unitAt_onUnit_same]
      exact filter_tabDel _ fun v => by simp [hk]
    · rw [unitAt_onUnit_ne _ _ hi]

theorem installEntry_none (ctx : Nat) (s : State) (i : Nat) : Uninstalled ctx s (installEntry ctx s (0, i)) := by
  have hb : bit 0 99 = false := by decide
  unfold installEntry
  simp only [hb, Bool.false_and, Bool.false_eq_true, if_false]
  split
  · exact .foldl (fun s n _ => installAt_none (by omega) s n) s
  · exact installAt_none (by omega) s _

theorem installPools_none {s : State} {c : Nat} (hb : (ctxAt s c).busy = false) (hp : (ctxAt s c).pdtab = 0) :
    Uninstalled c s (installPools s c) := by
  unfold installPools
  simp only [hb, hp, Bool.false_eq_true, if_false, if_true]
  refine .foldl (fun s e he => ?_) s
  obtain ⟨v, i⟩ := e
  obtain rfl : v = 0 := List.eq_of_mem_replicate (List.fst_mem_of_mem_zipIdx he)
  exact installEntry_none c s i

theorem installPools_busy {s : State} {c : Nat} (hb : (ctxAt s c).busy = true) : installPools s c = s := if_pos hb

theorem beginShootdown_busy {s : State} {c : Nat} (hb : (ctxAt s c).busy = true) : beginShootdown s c = s := if_pos hb

theorem shootdown_begins {s : State} {c : Nat} (hb : (ctxAt s c).busy = false) :
    beginShootdown s c = onCtx s c (fun x => { x with busy := true }) := if_neg (by rw [hb]; decide)

/-- A pass over a table that keeps its keys, seen through a reading of its entries. -/
theorem tabGet_pass {α β : Type} (d : α) (l : Tab α) (g : Nat × α → Nat × α) (π : α → β) (φ : β → β) (hk : ∀ p, (g p).1 = p.1)
    (hg : ∀ p, π (g p).2 = φ (π p.2)) (hd : φ (π d) = π d) (i : Nat) : π (tabGet d (l.map g) i) = φ (π (tabGet d l i)) := by
  induction l with
  | nil => exact hd.symm
  | cons p t ih =>
    have hp := hk p
    have hq := hg p
    obtain ⟨j, w⟩ := p
    rw [List.map_cons]
    generalize g (j, w) = q at hp hq
    obtain ⟨j', w'⟩ := q
    obtain rfl : j' = j := hp
    unfold tabGet
    split
    · exact hq
    · split
      · exact hd.symm
      · exact ih

theorem tlb_releaseHeld (s : State) (ctx va psz : Nat) (b : Bool) (k : Nat) :
    (coreAt (releaseHeld s ctx va psz b) k).tlb = (coreAt s k).tlb := by
  unfold coreAt releaseHeld
  apply tabGet_pass (π := Core.tlb) (φ := id) <;> intros <;> rfl

/-- The translations of a page of a context are dropped (R344). -/
def dropPage (s : State) (c base size : Nat) : State :=
  { s with
    cores := s.cores.map (fun k => (k.1, { k.2 with tlb := k.2.tlb.filter (fun t => !tlbInPage c base size t) }))
    dies := s.dies.map (fun d => (d.1, { d.2 with tlb := d.2.tlb.filter (fun t => !tlbInPage c base size t) })) }

theorem tlb_dropPage_core (s : State) (c base size k : Nat) :
    (coreAt (dropPage s c base size) k).tlb = (coreAt s k).tlb.filter (fun t => !tlbInPage c base size t) := by
  unfold coreAt dropPage
  apply tabGet_pass (π := Core.tlb) (φ := List.filter (fun t => !tlbInPage c base size t)) <;> intros <;> rfl

theorem tlb_dropPage_die (s : State) (c base size d : Nat) :
    (dieAt (dropPage s c base size) d).tlb = (dieAt s d).tlb.filter (fun t => !tlbInPage c base size t) := by
  unfold dieAt dropPage
  apply tabGet_pass (π := Die.tlb) (φ := List.filter (fun t => !tlbInPage c base size t)) <;> intros <;> rfl

theorem tlbInPage_iff {ctx base size : Nat} {t : Tlb} : tlbInPage ctx base size t = true ↔
    t.ctx = ctx ∧ t.page * pageSize t.psz < base + size ∧ base < (t.page + 1) * pageSize t.psz := by
  simp [tlbInPage, and_assoc]

theorem mem_kept {ctx base size : Nat} {l : List Tlb} {e : Tlb} : e ∈ l.filter (fun t => !tlbInPage ctx base size t) ↔
    e ∈ l ∧ ¬(e.ctx = ctx ∧ e.page * pageSize e.psz < base + size ∧ base < (e.page + 1) * pageSize e.psz) := by
  rw [List.mem_filter, ← tlbInPage_iff]
  simp

/-- The state once a shootdown is done (R344). -/
def shotDown (s : State) (c base size va psz : Nat) : State :=
  onCtx (releaseHeld (dropPage s c base size) c va psz true) c (fun x => { x with busy := false })

theorem shootdown_done {s : State} (c : BitVec 4) (hb : (ctxAt s c.toNat).busy = true) (hr : (ctxAt s c.toNat).resetting = false)
    (hq : ∀ r, r ∈ s.remotes → r.ctx = c.toNat →
      pageBase (ctxAt s c.toNat).shootPsz r.va ≠ pageBase (ctxAt s c.toNat).shootPsz (ctxAt s c.toNat).shootVa) :
    exec (.shootdownDone c) s = .next (shotDown s c.toNat (pageBase (ctxAt s c.toNat).shootPsz (ctxAt s c.toNat).shootVa)
      (pageSize (ctxAt s c.toNat).shootPsz) (ctxAt s c.toNat).shootVa (ctxAt s c.toNat).shootPsz) := by
  have hno : s.remotes.any (fun r => r.ctx == c.toNat &&
      pageBase (ctxAt s c.toNat).shootPsz r.va == pageBase (ctxAt s c.toNat).shootPsz (ctxAt s c.toNat).shootVa) = false := by
    rw [List.any_eq_false]
    intro r hmem
    simpa using hq r hmem
  refine (show exec (.shootdownDone c) s = execShootdownDone c s from rfl).trans ?_
  unfold execShootdownDone
  dsimp only
  rw [hb, hr, hno]
  rfl

end Sys2Proof.Machine
end

section
/-! The host's writes and its windows on memory (R339, R340, R346, R354, R453, R460). -/

namespace Sys2Proof.Machine

/-! ## BAR0 (R340) -/

section
variable {s : State} {f : BitVec 5} (hf : f = 0 ∨ f.toNat ≤ 16 ∧ (ctxAt s (f.toNat - 1)).enabled = true)
include hf

theorem function_open : ¬(16 < f.toNat ∨ (f.toNat ≠ 0 ∧ (!(ctxAt s (f.toNat - 1)).enabled) = true)) := by
  rcases hf with rfl | ⟨h16, hen⟩
  · rintro (h | h)
    · exact absurd h (by decide)
    · exact h.1 rfl
  · rintro (h | h)
    · exact absurd h16 (Nat.not_le.mpr h)
    · rw [hen] at h
      cases h.2

theorem register_written {o : BitVec 26} {v : BitVec 64} (ho : o.toNat % 8 = 0) :
    exec (.hostRegisterWrite f o v) s = .next (bar0Write s f.toNat o.toNat v.toNat) := by
  refine (show exec (.hostRegisterWrite f o v) s = execHostRegisterWrite f o v s from rfl).trans ?_
  unfold execHostRegisterWrite
  dsimp only
  rw [if_neg (function_open hf), if_neg (not_not.mpr ho)]

theorem register_unaligned {o : BitVec 26} {v : BitVec 64} (ho : o.toNat % 8 ≠ 0) : exec (.hostRegisterWrite f o v) s = .next s := by
  refine (show exec (.hostRegisterWrite f o v) s = execHostRegisterWrite f o v s from rfl).trans ?_
  unfold execHostRegisterWrite
  dsimp only
  rw [if_neg (function_open hf), if_pos ho]

theorem register_excluded {o : BitVec 26} {v : BitVec 64} (h0 : f ≠ 0) (ho : o.toNat < 0x10000) :
    exec (.hostRegisterWrite f o v) s = .next s := by
  by_cases h8 : o.toNat % 8 = 0
  · have hb : (f.toNat == 0) = false := by
      have hn : f.toNat ≠ 0 := fun e => h0 (BitVec.eq_of_toNat_eq e)
      simpa using hn
    rw [register_written hf h8]
    unfold bar0Write
    dsimp only
    rw [if_pos ho, hb]
    rfl
  · exact register_unaligned hf h8

/-- A write of the device block by the PF (R341). -/
theorem device_written {o : BitVec 26} {v : BitVec 64} {n : Nat} (h0 : f = 0) (hn : o.toNat = n) (h8 : n % 8 = 0) (hlt : n < 0x10000)
    (hr : n ≠ 0x130) : exec (.hostRegisterWrite f o v) s = .next (deviceWrite s n v.toNat) := by
  have hp : (f.toNat == 0) = true := by rw [h0]; rfl
  rw [register_written hf (by rw [hn]; exact h8), hn]
  unfold bar0Write
  dsimp only
  rw [if_pos hlt, hp, if_pos rfl]
  exact congrArg _ (if_neg hr)

omit hf in
theorem mayNotify_iff (n : Nat) : mayNotify s f.toNat n = true ↔ f = 0 ∨
    (ctxAt s (f.toNat - 1)).nwrFirst ≤ n ∧ n < (ctxAt s (f.toNat - 1)).nwrFirst + (ctxAt s (f.toNat - 1)).nwrCount := by
  have hz : f.toNat = 0 ↔ f = 0 := ⟨fun e => BitVec.eq_of_toNat_eq e, fun e => by rw [e]; rfl⟩
  unfold mayNotify
  simp [hz]

theorem mirror_written {n : BitVec 12} {v : BitVec 64} (h : mayNotify s f.toNat n.toNat = true) :
    exec (.notifyMirrorWrite f n v) s = .next (notifyStore s n.toNat v.toNat 32) := by
  refine (show exec (.notifyMirrorWrite f n v) s = execNotifyMirrorWrite f n v s from rfl).trans ?_
  unfold execNotifyMirrorWrite
  dsimp only
  rw [if_neg (function_open hf), h]
  rfl

theorem mirror_excluded {n : BitVec 12} {v : BitVec 64} (h : mayNotify s f.toNat n.toNat = false) :
    exec (.notifyMirrorWrite f n v) s = .next s := by
  refine (show exec (.notifyMirrorWrite f n v) s = execNotifyMirrorWrite f n v s from rfl).trans ?_
  unfold execNotifyMirrorWrite
  dsimp only
  rw [if_neg (function_open hf), h]
  rfl

end

/-! ## Notify words (R354) -/

section
variable {s : State} {n v party : Nat} (hp : (nwAt s n).parked = none) (hl : (nwAt s n).last = none)
include hp hl

theorem nwStored_unparked : (nwStored s n v party).parked = none ∧ (nwStored s n v party).last = none := by
  unfold nwStored
  dsimp only
  split
  · exact ⟨hp, hl⟩
  · exact ⟨hp, hl⟩

theorem notifyStore_word : notifyStore s n v party = { s with nw := tabPut s.nw n (nwStored s n v party) } := by
  unfold notifyStore
  dsimp only
  rw [(nwStored_unparked hp hl).1, (nwStored_unparked hp hl).2]

end

/-! ## BAR2 (R346, R460) -/

theorem storeNat_noMem (s : State) (l n v : Nat) : (storeNat s l n v).noMem = s.noMem := by
  unfold storeNat
  rw [storeN_rest]
  rfl

theorem wrote_storeNat {s u : State} (hok : s.memOk) (hm : u.mem = s.mem) (hp : u.poison = s.poison) (l n v : Nat) :
    Wrote s (storeNat u l n v) l n v := by
  have hw : u.mem.wf = true := by rw [hm]; exact hok
  obtain ⟨hb, ho, hpo⟩ := wrote_storeN hw l n v
  exact ⟨hb, fun x hx => by rw [← hm]; exact ho x hx, fun x => by rw [← hp]; exact hpo x⟩

section
variable {s : State} (hw : s.dev.pkg < 3 ∨ s.dev.plim ≠ 0)
include hw

theorem access_wakes : wakeForAccess s = some (wakePackage s) := if_pos hw

section
variable {f : BitVec 5} (hf : f = 0 ∨ f.toNat ≤ 16 ∧ (ctxAt s (f.toNat - 1)).enabled = true) {w : BitVec 2} {o : BitVec 40} {k : BitVec 2}
  {v : BitVec 64}
include hf

theorem access_eq : exec (.hostBar2Access f w o k v) s =
    if 2 ≤ w.toNat then .next (wakePackage s)
    else if f.toNat = 0 then .next (pfAccess (wakePackage s) (w == 1) o.toNat (2 ^ k.toNat) v.toNat)
    else .next (vfAccess (wakePackage s) (f.toNat - 1) (w == 1) ((ctxAt s (f.toNat - 1)).vwin + o.toNat) (2 ^ k.toNat) v.toNat) := by
  refine (show exec (.hostBar2Access f w o k v) s = execHostBar2Access f w o k v s from rfl).trans ?_
  unfold execHostBar2Access
  dsimp only
  rw [if_neg (function_open hf), access_wakes hw]
  rfl

theorem access_none (h : 2 ≤ w.toNat) : exec (.hostBar2Access f w o k v) s = .next (wakePackage s) := by
  rw [access_eq hw hf, if_pos h]

theorem access_vf (h0 : f ≠ 0) (h : w.toNat < 2) : exec (.hostBar2Access f w o k v) s =
    .next (vfAccess (wakePackage s) (f.toNat - 1) (w == 1) ((ctxAt s (f.toNat - 1)).vwin + o.toNat) (2 ^ k.toNat) v.toNat) := by
  rw [access_eq hw hf, if_neg (Nat.not_le.mpr h), if_neg (fun e : f.toNat = 0 => h0 (BitVec.eq_of_toNat_eq e))]

end

theorem access_pf {w : BitVec 2} {o : BitVec 40} {k : BitVec 2} {v : BitVec 64} (h : w.toNat < 2) :
    exec (.hostBar2Access 0 w o k v) s = .next (pfAccess (wakePackage s) (w == 1) o.toNat (2 ^ k.toNat) v.toNat) := by
  rw [access_eq hw (.inl rfl), if_neg (Nat.not_le.mpr h)]
  rfl

end

theorem pfAccess_within (s : State) (wr : Bool) {o n : Nat} (hn : n ≠ 0) (v : Nat) {lim : Nat} (hl : lim = 576 * 2 ^ 30)
    (h : o + n ≤ lim) : pfAccess s wr o n v = hostAccess s wr o n v := by
  have hm : Nat.min n (576 * 2 ^ 30 - o) = n := Nat.min_eq_left (by rw [← hl]; omega)
  unfold pfAccess
  rw [hm]
  exact if_neg hn

theorem pfAccess_above (s : State) (wr : Bool) {o : Nat} (n v : Nat) (h : 576 * 2 ^ 30 ≤ o) :
    pfAccess s wr o n v = if wr then s else { s with hostData := some 0, hostEnd := .done } := by
  have hm : Nat.min n (576 * 2 ^ 30 - o) = 0 := by rw [Nat.sub_eq_zero_of_le h]; exact Nat.min_eq_right (Nat.zero_le n)
  unfold pfAccess
  rw [hm]
  exact if_pos rfl

theorem hostAccess_reads {s : State} {l n : Nat} (v : Nat) (hp : poisoned s l n = none) : hostAccess s false l n v =
    { s with hostData := some (BitVec.ofNat 64 (leNat (loadN s l n))), hostEnd := .done } := by
  unfold hostAccess
  rw [hp]
  rfl

theorem hostAccess_poisoned {s : State} {l n : Nat} (v : Nat) (hp : (poisoned s l n).isSome = true) :
    hostAccess s false l n v = { s with hostData := none, hostEnd := .poisonedTlp } := by
  unfold hostAccess
  rw [hp]
  rfl

/-! ## A VF's window (R346) -/

/-- The pieces of a VF's access, each with the place that it reaches. -/
def vfPieces (s : State) (ctx : Nat) (wr : Bool) (va n : Nat) : List (Nat × Nat × Nat × Option Xl) :=
  (pageCuts va n).map (fun p => (p.1, p.2, p.1 - va, vfPlace s ctx wr p.1))

section
variable {s : State} {ctx : Nat} {wr : Bool} {va n v : Nat}

theorem vfAccess_aborts (h : 2 ^ 52 < va + n ∨ ∃ p, p ∈ pageCuts va n ∧ vfPlace s ctx wr p.1 = none) :
    vfAccess s ctx wr va n v = { s with hostData := none, hostEnd := .completerAbort } := by
  have hc : (decide (2 ^ 52 < va + n) || (vfPieces s ctx wr va n).any (fun p => p.2.2.2.isNone)) = true := by
    rcases h with h | ⟨p, hp, hnone⟩
    · rw [decide_eq_true h]
      rfl
    · rw [Bool.or_eq_true, List.any_eq_true]
      exact .inr ⟨_, List.mem_map.mpr ⟨p, hp, rfl⟩, by rw [hnone]; rfl⟩
  exact if_pos hc

variable {l : Nat} (hlim : va + n ≤ 2 ^ 52) (hcut : pageCuts va n = [(va, n)]) (hp : vfPlace s ctx wr va = some (.ok l))
include hlim hcut hp

theorem vfAccess_one : vfAccess s ctx wr va n v = vfPiece ctx wr v
    (if wr then { s with hostEnd := .done } else { s with hostData := some 0, hostEnd := .done }) (va, n, 0, some (.ok l)) := by
  have hl : vfPieces s ctx wr va n = [(va, n, 0, some (.ok l))] := by
    unfold vfPieces
    rw [hcut, List.map_singleton, hp, Nat.sub_self]
  have hc : ¬(decide (2 ^ 52 < va + n) || (vfPieces s ctx wr va n).any (fun p => p.2.2.2.isNone)) = true := by
    rw [hl, decide_eq_false (Nat.not_lt.mpr hlim)]
    exact Bool.false_ne_true
  refine (if_neg hc).trans ?_
  change (vfPieces s ctx wr va n).foldl _ _ = _
  rw [hl]
  rfl

end

section
variable {s : State} {ctx va n v l : Nat}

theorem vfPiece_reads (hp : poisoned s l n = none) :
    vfPiece ctx false v { s with hostData := some 0, hostEnd := .done } (va, n, 0, some (.ok l)) =
      { s with hostData := some (BitVec.ofNat 64 (leNat (loadN s l n))), hostEnd := .done } := by
  have hp' : poisoned { s with hostData := some 0, hostEnd := .done } l n = none := hp
  have hz (d : BitVec 64) : (0 : BitVec 64) + d = d := BitVec.zero_add d
  unfold vfPiece
  simp only [Bool.false_eq_true, if_false, hp', Option.isSome_none, Nat.mul_zero, Nat.pow_zero, Nat.mul_one, Option.map_some, hz]
  rfl

theorem vfPiece_poisoned (hp : (poisoned s l n).isSome = true) :
    vfPiece ctx false v { s with hostData := some 0, hostEnd := .done } (va, n, 0, some (.ok l)) =
      { s with hostData := none, hostEnd := .poisonedTlp } := by
  have hp' : (poisoned { s with hostData := some 0, hostEnd := .done } l n).isSome = true := hp
  unfold vfPiece
  simp only [Bool.false_eq_true, if_false, hp', if_true]

theorem vfPiece_writes : vfPiece ctx true v { s with hostEnd := .done } (va, n, 0, some (.ok l)) =
    storeNat { s with hostEnd := .done } l n v := by
  unfold vfPiece
  simp only [if_true, Nat.mul_zero, Nat.pow_zero, Nat.div_one]

end

/-! ## Functions and routes (R339, R453) -/

theorem vf_enabled {s : State} {f : BitVec 5} (on : BitVec 1) (h0 : f ≠ 0) (h : f.toNat ≤ 16) :
    exec (.virtualFunctionEnable f on) s = .next (onCtx s (f.toNat - 1) (fun x => { x with enabled := on == 1 })) := by
  refine (show exec (.virtualFunctionEnable f on) s = execVirtualFunctionEnable f on s from rfl).trans ?_
  exact if_neg fun e => e.elim h0 fun e => absurd h (Nat.not_le.mpr e)

theorem route_word (v : Nat) : bits v 0 6 + place (bits v 8 6) 8 6 = v % 64 + v / 256 % 64 * 256 := by
  unfold bits place
  omega

section
variable {s : State} {x : BitVec 19} {v : BitVec 64}

theorem route_outside (h : 9216 * 36 + 1024 * 36 ≤ x.toNat) : exec (.routeEntryWrite x v) s = .next s :=
  (show exec (.routeEntryWrite x v) s = execRouteEntryWrite x v s from rfl).trans (if_pos h)

variable (h : x.toNat < 9216 * 36 + 1024 * 36)
include h

theorem route_free (hb : routeBusy s x.toNat = false) : exec (.routeEntryWrite x v) s =
    .next { s with routes := tabPut s.routes x.toNat (v.toNat % 64 + v.toNat / 256 % 64 * 256) } := by
  refine (show exec (.routeEntryWrite x v) s = execRouteEntryWrite x v s from rfl).trans ((if_neg (Nat.not_le.mpr h)).trans ?_)
  unfold putRoute
  dsimp only
  rw [route_word, hb]
  rfl

theorem route_waits (hb : routeBusy s x.toNat = true) : exec (.routeEntryWrite x v) s =
    .next (logPlain { s with routesDue := s.routesDue ++ [(x.toNat, v.toNat % 64 + v.toNat / 256 % 64 * 256)] } 0xBF 0
      (if x.toNat < 9216 * 36 then rankOf s (x.toNat % 9216) else (x.toNat - 9216 * 36) % 1024 * 2 ^ 14) 0) := by
  refine (show exec (.routeEntryWrite x v) s = execRouteEntryWrite x v s from rfl).trans ((if_neg (Nat.not_le.mpr h)).trans ?_)
  unfold putRoute
  dsimp only
  rw [route_word, hb, if_pos rfl]
  rfl

end

/-! ## The statement -/

theorem plim_written (s : State) (v : BitVec 12) : exec (.plimWrite v) s = .next (setPlim s v.toNat) := rfl

/-- A register write of PLIM is PLIM_WRITE (R341). -/
theorem register_plim {s : State} {f : BitVec 5} {o : BitVec 26} {v : BitVec 64}
    (hf : f = 0 ∨ f.toNat ≤ 16 ∧ (ctxAt s (f.toNat - 1)).enabled = true) (h0 : f = 0) (ho : o = 0x08) :
    exec (.hostRegisterWrite f o v) s = exec (.plimWrite (v.setWidth 12)) s := by
  rw [device_written hf (n := 0x08) h0 (by rw [ho]; rfl) (by decide) (by decide) (by decide), plim_written, BitVec.toNat_setWidth]
  have hb : bits v.toNat 0 12 = v.toNat % 2 ^ 12 := by rw [bits, Nat.pow_zero, Nat.div_one]
  rw [← hb]
  rfl

theorem toNat_eq_zero {w : Nat} {v : BitVec w} : v.toNat = 0 ↔ v = 0 :=
  ⟨fun h => BitVec.eq_of_toNat_eq (h.trans (BitVec.toNat_ofNat 0 w ▸ (Nat.zero_mod _).symm)), fun h => by rw [h]; exact BitVec.toNat_ofNat 0 w ▸ Nat.zero_mod _⟩

/-- Settles O54: what each access of the host does, by its function and its place. -/
theorem hostAccesses : Obligations.HostAccesses := by
  intro s
  refine ⟨fun v => ⟨fun h => ?_, fun h => ?_⟩, ?_, fun v => ?_, cfence_clears, fun c hb => ⟨?_, ?_⟩, fun c hb hp => ?_, fun c hb => ?_,
    ?_, ?_, ?_, ?_, fun k => rfl, ?_, ?_⟩
  · have h' : v.toNat = 0 ∨ ∀ d, d < 6 → (dieAt s d).pstate = 2 := h.imp_left toNat_eq_zero.mpr
    rw [plim_written, setPlim_stays v.isLt h']
    simp only [toNat_eq_zero]
  · have h' : ¬(v.toNat = 0 ∨ ∀ d, d < 6 → (dieAt s d).pstate = 2) := fun e => h (e.imp_left toNat_eq_zero.mp)
    rw [plim_written, setPlim_wakes v.isLt h']
  · intro f o ho reads
    refine ⟨fun hf h => ?_, fun hf h => ?_, fun hf h hd hp => ?_, fun h1 h16 hen hlt => ?_⟩
    · subst hf h
      exact host_reads ho rfl ((bar0Read_device s (by decide)).trans (Nat.mul_one _))
    · subst hf h
      exact host_reads ho rfl ((bar0Read_device s (by decide)).trans (Nat.mul_one _))
    · subst hf h
      exact host_reads ho rfl ((bar0Read_device s (by decide)).trans (pstateWord_sum hd hp))
    · have hne : f ≠ 0 := Nat.one_le_iff_ne_zero.mp h1
      refine host_reads ho ?_ (bar0Read_refused s hne hlt)
      unfold functionOn
      rw [decide_eq_true h16, hen]
      simp
  · exact ⟨clearDrop s v.toNat, rfl, fun i hi => clearDrop_bit s v hi, rfl⟩
  · exact congrArg Host.Outcome.next (installPools_busy hb)
  · exact congrArg Host.Outcome.next (beginShootdown_busy hb)
  · obtain ⟨hr, hpools⟩ := installPools_none hb hp
    exact ⟨installPools s c.toNat, rfl, hr, hpools⟩
  · refine ⟨_, congrArg Host.Outcome.next (shootdown_begins hb), ctxAt_onCtx_same _ _ _, fun x hx => ctxAt_onCtx_ne _ _ hx, rfl⟩
  · intro c x hb hr hq
    refine ⟨_, shootdown_done c hb hr hq, ?_, fun k e => ?_, fun d e => ?_⟩
    · unfold shotDown
      rw [ctxAt_onCtx_same]
    · have ht := (tlb_releaseHeld (dropPage s c.toNat (pageBase x.shootPsz x.shootVa) (pageSize x.shootPsz)) c.toNat x.shootVa x.shootPsz
        true k).trans (tlb_dropPage_core _ _ _ _ _)
      exact (iff_of_eq (congrArg (e ∈ ·) ht)).trans mem_kept
    · exact (iff_of_eq (congrArg (e ∈ ·) (tlb_dropPage_die s c.toNat _ _ d))).trans mem_kept
  · intro f o v hf
    refine ⟨register_written hf, register_unaligned hf, register_plim hf, register_excluded hf, fun h0 ho => ?_, fun h0 ho => ?_,
      fun h0 ho hl => ?_, fun h0 ho => ?_, fun n => ⟨fun h => ?_, fun h0 h => ?_⟩⟩
    · rw [device_written hf (n := 0x10) h0 (by rw [ho]; rfl) (by decide) (by decide) (by decide)]
      have hb : bits v.toNat 0 32 = v.toNat % 2 ^ 32 := by rw [bits, Nat.pow_zero, Nat.div_one]
      rw [← hb]
      rfl
    · rw [device_written hf (n := 0x20) h0 (by rw [ho]; rfl) (by decide) (by decide) (by decide)]
      have hb : bits v.toNat 0 24 = v.toNat % 2 ^ 24 := by rw [bits, Nat.pow_zero, Nat.div_one]
      rw [← hb]
      rfl
    · rw [device_written hf (n := 0x80) h0 (by rw [ho]; rfl) (by decide) (by decide) (by decide)]
      exact congrArg Host.Outcome.next (if_pos hl)
    · rw [device_written hf (n := 0x170) h0 (by rw [ho]; rfl) (by decide) (by decide) (by decide)]
      have hb : bits v.toNat 0 32 = v.toNat % 2 ^ 32 := by rw [bits, Nat.pow_zero, Nat.div_one]
      rw [← hb]
      rfl
    · exact mirror_written hf ((mayNotify_iff n.toNat).mpr h)
    · refine mirror_excluded hf (Bool.eq_false_iff.mpr fun hm => ?_)
      rcases (mayNotify_iff n.toNat).mp hm with h1 | h1
      · exact h0 h1
      · omega
  · intro n v party hp hl t loses
    have ht : t = { s with nw := tabPut s.nw n (nwStored s n v party) } := notifyStore_word hp hl
    refine ⟨fun h => ?_, fun h => ?_, fun m hm => ?_, ?_⟩
    · rw [ht, nwAt_put_same]
      exact if_pos h
    · rw [ht, nwAt_put_same]
      exact if_neg h
    · rw [ht, nwAt_put_ne _ _ hm]
    · rw [ht]
  · intro o k v hw n u
    have hn : n ≠ 0 := Nat.pos_iff_ne_zero.mp (Nat.two_pow_pos _)
    refine ⟨fun hlim => ⟨fun hp => ?_, fun hp => ?_, fun hok => ?_⟩, fun hlim => ⟨?_, ?_⟩, fun f w h16 hf => ?_⟩
    · rw [access_pf hw (by decide), pfAccess_within _ _ hn _ rfl hlim]
      exact congrArg Host.Outcome.next (hostAccess_reads _ hp)
    · rw [access_pf hw (by decide), pfAccess_within _ _ hn _ rfl hlim]
      exact congrArg Host.Outcome.next (hostAccess_poisoned _ hp)
    · refine ⟨storeNat u o.toNat n v.toNat, ?_, wrote_storeNat (u := u) hok rfl rfl _ _ _, storeNat_noMem _ _ _ _⟩
      rw [access_pf hw (by decide), pfAccess_within _ _ hn _ rfl hlim]
      rfl
    · rw [access_pf hw (by decide), pfAccess_above _ _ _ _ hlim]
      rfl
    · rw [access_pf hw (by decide), pfAccess_above _ _ _ _ hlim]
      rfl
    · have hf' : f = 0 ∨ f.toNat ≤ 16 ∧ (ctxAt s (f.toNat - 1)).enabled = true := hf.imp_right fun h => ⟨h16, h⟩
      refine ⟨access_none hw hf', fun h0 h2 => ⟨access_vf hw hf' h0 h2, fun hbad => ?_, fun l hlim hcut hp => ⟨fun h hno => ?_, fun h hno => ?_,
        fun h hok => ?_⟩⟩⟩
      · rw [access_vf hw hf' h0 h2, vfAccess_aborts hbad]
      · subst h
        rw [access_vf hw hf' h0 h2, vfAccess_one hlim hcut hp]
        exact congrArg Host.Outcome.next (vfPiece_reads hno)
      · subst h
        rw [access_vf hw hf' h0 h2, vfAccess_one hlim hcut hp]
        exact congrArg Host.Outcome.next (vfPiece_poisoned hno)
      · subst h
        refine ⟨storeNat { u with hostEnd := .done } l n v.toNat, ?_,
          wrote_storeNat (u := { u with hostEnd := .done }) hok rfl rfl _ _ _, ?_, ?_⟩
        · rw [access_vf hw hf' h0 h2, vfAccess_one hlim hcut hp]
          exact congrArg Host.Outcome.next vfPiece_writes
        · rw [storeNat_noMem]
          rfl
        · exact congrArg State.hostEnd (storeNat_noMem _ _ _ _)
  · intro f on h0 h16
    exact ⟨_, vf_enabled on h0 h16, ctxAt_onCtx_same _ _ _, fun x hx => ctxAt_onCtx_ne _ _ hx, rfl⟩
  · intro x v w
    exact ⟨route_outside, route_free, route_waits⟩

end Sys2Proof.Machine
end

section
/-! The tool harts: registers, walls, accesses through them, exceptions (R350 to R355, R420, R461). -/

namespace Sys2Proof.Machine

/-! ## Harts that run or are held (R353, R461) -/

/-- Every hart of a list is changed. -/
def onHarts (g : Hart → Hart) (l : List Nat) (s : State) : State := l.foldl (fun s h => onHart s h g) s

theorem hartAt_onHarts (g : Hart → Hart) {l : List Nat} (hl : l.Nodup) (s : State) (h : Nat) :
    hartAt (onHarts g l s) h = if h ∈ l then g (hartAt s h) else hartAt s h := by
  induction l generalizing s with
  | nil => rfl
  | cons k l ih =>
    obtain ⟨hk, hl⟩ := List.nodup_cons.mp hl
    have hi : hartAt (onHarts g (k :: l) s) h = if h ∈ l then g (hartAt (onHart s k g) h) else hartAt (onHart s k g) h := ih hl _
    rw [hi]
    by_cases he : h = k
    · subst he
      rw [if_neg hk, if_pos (List.mem_cons_self ..), hartAt_onHart_same]
    · rw [hartAt_onHart_ne _ _ he]
      simp [he]

theorem onHarts_rest (g : Hart → Hart) (l : List Nat) (s : State) : { onHarts g l s with harts := [] } = { s with harts := [] } := by
  induction l generalizing s with
  | nil => rfl
  | cons k l ih => exact (ih _).trans rfl

theorem setBits_nodup (n v : Nat) : (setBits n v).Nodup := List.nodup_range.filter _

theorem mem_setBits_bv {n : Nat} {m : BitVec n} {h : Nat} : h ∈ setBits n m.toNat ↔ m.getLsbD h = true := by
  rw [mem_setBits, bit_eq_testBit]
  exact ⟨fun e => e.2, fun e => ⟨BitVec.lt_of_getLsbD e, e⟩⟩

theorem trun_runs (s : State) (m : BitVec 32) (h : Nat) : hartAt (runHarts s m.toNat) h =
    if m.getLsbD h = true ∧ (hartAt s h).run = false
      then { hartAt s h with run := true, mode := 3, pc := (hartAt s h).entry, csr := [] } else hartAt s h := by
  refine (hartAt_onHarts _ (setBits_nodup 32 _) s h).trans ?_
  simp only [mem_setBits_bv]
  cases hb : m.getLsbD h <;> cases hr : (hartAt s h).run <;> rfl

theorem thold_holds (s : State) (m : BitVec 32) (h : Nat) :
    hartAt (holdHarts s m.toNat) h = { hartAt s h with run := (hartAt s h).run && !m.getLsbD h } := by
  refine (hartAt_onHarts _ (setBits_nodup 32 _) s h).trans ?_
  simp only [mem_setBits_bv]
  cases hb : m.getLsbD h with
  | true => rw [if_pos rfl, Bool.not_true, Bool.and_false]
  | false => rw [if_neg (by decide), Bool.not_false, Bool.and_true]

/-! ## Walls (R353) -/

theorem wallAt_putWall_same (s : State) (w half v : Nat) : wallAt (putWall s w half v) w =
    let old := wallAt s w
    let new := if half = 0 then old / 2 ^ 64 * 2 ^ 64 + place (bits v 0 3) 0 3 + place (bits v 21 23) 21 23
      else old % 2 ^ 64 + place (bits v 1 63) 65 63
    new - place (bits new 44 21) 44 21 := tabGet_put_same _ _ _ _

theorem wallAt_putWall_ne (s : State) {w x : Nat} (half v : Nat) (h : x ≠ w) : wallAt (putWall s w half v) x = wallAt s x :=
  tabGet_put_ne _ _ _ h

theorem cleared_eq (x lo w : Nat) : x - place (bits x lo w) lo w = 2 ^ (lo + w) * (x / 2 ^ (lo + w)) + x % 2 ^ lo := by
  have h1 := Nat.div_add_mod x (2 ^ (lo + w))
  have h2 : x % 2 ^ (lo + w) = x % 2 ^ lo + 2 ^ lo * (x / 2 ^ lo % 2 ^ w) := by rw [Nat.pow_add, Nat.mod_mul]
  have h3 : place (bits x lo w) lo w = 2 ^ lo * (x / 2 ^ lo % 2 ^ w) := by
    unfold place bits
    rw [Nat.mod_mod, Nat.mul_comm]
  rw [h3]
  omega

/-- A field of a number cleared. -/
theorem testBit_cleared (x lo w i : Nat) :
    (x - place (bits x lo w) lo w).testBit i = (x.testBit i && !(decide (lo ≤ i) && decide (i < lo + w))) := by
  have hlt : x % 2 ^ lo < 2 ^ (lo + w) :=
    Nat.lt_of_lt_of_le (Nat.mod_lt _ (Nat.two_pow_pos _)) (Nat.pow_le_pow_right (by decide) (Nat.le_add_right ..))
  rw [cleared_eq, Nat.testBit_two_pow_mul_add _ hlt]
  by_cases h1 : i < lo + w
  · rw [if_pos h1, Nat.testBit_mod_two_pow]
    by_cases h2 : lo ≤ i
    · simp [h1, h2, Nat.not_lt.mpr h2]
    · simp [h2, Nat.lt_of_not_le h2]
  · rw [if_neg h1, Nat.testBit_div_two_pow]
    have h3 : lo + w + (i - (lo + w)) = i := by omega
    rw [Nat.add_comm, h3]
    simp [h1]

theorem testBit_bits (v lo w i : Nat) : (bits v lo w).testBit i = (decide (i < w) && v.testBit (lo + i)) := by
  unfold bits
  rw [Nat.testBit_mod_two_pow, Nat.testBit_div_two_pow, Nat.add_comm]

theorem testBit_low_half (old v i : Nat) :
    (old / 2 ^ 64 * 2 ^ 64 + place (bits v 0 3) 0 3 + place (bits v 21 23) 21 23).testBit i =
      if i < 64 then v.testBit i && (decide (i < 3) || decide (21 ≤ i) && decide (i < 44)) else old.testBit i := by
  have he : old / 2 ^ 64 * 2 ^ 64 + place (bits v 0 3) 0 3 + place (bits v 21 23) 21 23 =
      2 ^ 64 * (old / 2 ^ 64) + (2 ^ 21 * bits v 21 23 + bits v 0 3) := by
    unfold place bits
    rw [Nat.mod_mod, Nat.mod_mod]
    ring
  have h3 : bits v 0 3 < 2 ^ 21 := Nat.lt_of_lt_of_le (Nat.mod_lt _ (by decide)) (by decide)
  have h23 : bits v 21 23 < 2 ^ 23 := Nat.mod_lt _ (by decide)
  have hlt : 2 ^ 21 * bits v 21 23 + bits v 0 3 < 2 ^ 64 := by omega
  rw [he, Nat.testBit_two_pow_mul_add _ hlt, Nat.testBit_two_pow_mul_add _ h3, testBit_bits, testBit_bits, Nat.testBit_div_two_pow,
    Nat.zero_add]
  by_cases h64 : i < 64
  · rw [if_pos h64, if_pos h64]
    by_cases h21 : i < 21
    · rw [if_pos h21, Bool.and_comm]
      simp [Nat.not_le.mpr h21]
    · have hs : 21 + (i - 21) = i := by omega
      have hd : i - 21 < 23 ↔ i < 44 := by omega
      rw [if_neg h21, hs, Bool.and_comm]
      simp [hd, Nat.le_of_not_lt h21, show ¬i < 3 by omega]
  · have hs : i - 64 + 64 = i := by omega
    rw [if_neg h64, if_neg h64, hs]

theorem testBit_high_half (old v i : Nat) (hi : i < 128) :
    (old % 2 ^ 64 + place (bits v 1 63) 65 63).testBit i =
      if i < 64 then old.testBit i else v.testBit (i - 64) && decide (65 ≤ i) := by
  have he : old % 2 ^ 64 + place (bits v 1 63) 65 63 = 2 ^ 65 * bits v 1 63 + old % 2 ^ 64 := by
    unfold place bits
    rw [Nat.mod_mod]
    ring
  have hlt : old % 2 ^ 64 < 2 ^ 65 := Nat.lt_of_lt_of_le (Nat.mod_lt _ (by decide)) (by decide)
  rw [he, Nat.testBit_two_pow_mul_add _ hlt, testBit_bits, Nat.testBit_mod_two_pow]
  by_cases h64 : i < 64
  · rw [if_pos h64, if_pos (by omega), decide_eq_true h64, Bool.true_and]
  · rw [if_neg h64]
    by_cases h65 : i < 65
    · rw [if_pos h65]
      simp [h64, Nat.not_le.mpr h65]
    · have hs : 1 + (i - 65) = i - 64 := by omega
      have hd : i - 65 < 63 := by omega
      rw [if_neg h65, hs]
      simp [hd, Nat.le_of_not_lt h65]

/-- The bits of a wall after a write of a half (R353). -/
theorem wall_bit (s : State) (w : Nat) (half : BitVec 1) (v : BitVec 64) {i : Nat} (hi : i < 128) :
    bit (wallAt (putWall s w half.toNat v.toNat) w) i =
      if 44 ≤ i ∧ i ≤ 64 then false else if i / 64 = half.toNat then v.getLsbD (i % 64) && decide (i < 3 ∨ 21 ≤ i)
        else bit (wallAt s w) i := by
  rw [wallAt_putWall_same, bit_eq_testBit, bit_eq_testBit]
  dsimp only
  rw [testBit_cleared]
  have hv (j : Nat) : v.getLsbD j = v.toNat.testBit j := rfl
  by_cases hz : 44 ≤ i ∧ i ≤ 64
  · have hz' : i < 44 + 21 := by omega
    rw [if_pos hz]
    simp [hz.1, hz']
  · have hz' : (decide (44 ≤ i) && decide (i < 44 + 21)) = false := by
      rw [Bool.and_eq_false_iff, decide_eq_false_iff_not, decide_eq_false_iff_not]
      omega
    rw [if_neg hz, hz', Bool.not_false, Bool.and_true, hv]
    have hhalf : half.toNat = 0 ∨ half.toNat = 1 := by have := half.isLt; omega
    rcases hhalf with h | h
    · rw [h, if_pos rfl, testBit_low_half]
      by_cases h64 : i < 64
      · have hm : i % 64 = i := Nat.mod_eq_of_lt h64
        rw [if_pos h64, if_pos (by omega), hm]
        congr 1
        rw [← Bool.decide_and, ← Bool.decide_or]
        exact decide_eq_decide.mpr (by omega)
      · rw [if_neg h64, if_neg (by omega)]
    · rw [h, if_neg (by decide), testBit_high_half _ _ _ hi]
      by_cases h64 : i < 64
      · rw [if_pos h64, if_neg (by omega)]
      · have hm : i % 64 = i - 64 := by omega
        rw [if_neg h64, if_pos (by omega), hm]
        congr 1
        exact decide_eq_decide.mpr (by omega)

/-! ## The registers that harts reach (R350, R354, R355) -/

theorem clearBell_bit (v : BitVec 64) (k : Hart) {i : Nat} (hi : i < 64) :
    bit (clearBell v.toNat k).db i = (bit k.db i && !v.getLsbD i) := by
  have hv : v.toNat % 2 ^ 64 = v.toNat := Nat.mod_eq_of_lt v.isLt
  have he : (clearBell v.toNat k).db = k.db &&& (2 ^ 64 - (v.toNat + 1)) := by
    unfold clearBell Hart.bell
    dsimp only
    rw [hv, Nat.sub_sub, Nat.add_comm 1]
    rfl
  rw [he, bit_eq_testBit, bit_eq_testBit, Nat.testBit_land, Nat.testBit_two_pow_sub_succ v.isLt]
  simp [hi, BitVec.getLsbD]

theorem clearBell_interrupts (v : Nat) (k : Hart) :
    (clearBell v k).mext = decide ((clearBell v k).db ≠ 0 ∧ bit k.dbtgt 0 = false) ∧
    (clearBell v k).sext = decide ((clearBell v k).db ≠ 0 ∧ bit k.dbtgt 0 = true) := by
  have hne (d : Nat) (b : Bool) : (d != 0 && b) = decide (d ≠ 0 ∧ b = true) := by
    by_cases hd : d = 0 <;> cases b <;> simp [hd]
  unfold clearBell Hart.bell
  dsimp only
  rw [hne, hne]
  simp only [Bool.not_eq_true', and_self]

/-! ## Exceptions (R420) -/

section
variable (k : Hart) (code v : Nat)

/-- Is the exception taken in supervisor mode? -/
def trapSup (k : Hart) (code : Nat) : Bool := k.mode == 1 || (k.mode == 0 && bit (k.reg 0x302) code)

theorem reg_putRegs_other {l : List (Nat × Nat)} {r : Nat} (h : ∀ p, p ∈ l → p.1 ≠ r) (k : Hart) : (k.putRegs l).reg r = k.reg r := by
  unfold Hart.putRegs Hart.reg
  generalize k.csr = t
  dsimp only
  induction l generalizing t with
  | nil => rfl
  | cons p l ih =>
    rw [List.foldl_cons, ih fun q hq => h q (List.mem_cons_of_mem _ hq),
      tabGet_put_ne _ _ _ (Ne.symm (h p (List.mem_cons_self ..)))]

/-- The registers of a handler's level (R420). -/
structure TrapEntered (k t : Hart) (code v b m : Nat) : Prop where
  cause : t.reg (b + 0x42) = code
  value : t.reg (b + 0x43) = v
  from_ : t.reg (b + 0x41) = k.pc
  mode : t.mode = m
  pc : t.pc = k.reg (b + 5) / 4 * 4
  others : ∀ r, r ∉ [0x300, b + 0x41, b + 0x42, b + 0x43] → t.reg r = k.reg r

theorem trap_enters {b m : Nat} (hb : (if trapSup k code then 0x100 else 0x300) = b) (hm : (if trapSup k code then 1 else 3) = m)
    (h300 : b + 0x41 ≠ 0x300 ∧ b + 0x42 ≠ 0x300 ∧ b + 0x43 ≠ 0x300) : TrapEntered k (k.trap code v) code v b m := by
  have hreg (r : Nat) : (k.trap code v).reg r = (k.putRegs [(b + 0x42, code), (b + 0x43, v), (b + 0x41, k.pc),
      (0x300, trapStatus (k.reg 0x300) k.mode (trapSup k code))]).reg r := by
    rw [← hb]
    rfl
  obtain ⟨h1, h2, h3⟩ := h300
  have hput (r : Nat) : (k.trap code v).reg r = tabGet 0 (tabPut (tabPut (tabPut (tabPut k.csr (b + 0x42) code) (b + 0x43) v)
      (b + 0x41) k.pc) 0x300 (trapStatus (k.reg 0x300) k.mode (trapSup k code))) r := hreg r
  refine ⟨?_, ?_, ?_, hm, ?_, fun r hr => ?_⟩
  · rw [hput, tabGet_put_ne _ _ _ h2, tabGet_put_ne _ _ _ (by omega), tabGet_put_ne _ _ _ (by omega), tabGet_put_same]
  · rw [hput, tabGet_put_ne _ _ _ h3, tabGet_put_ne _ _ _ (by omega), tabGet_put_same]
  · rw [hput, tabGet_put_ne _ _ _ h1, tabGet_put_same]
  · rw [← hb]
    rfl
  · rw [hreg]
    refine reg_putRegs_other (fun p hp e => hr ?_) k
    simp only [List.mem_cons, List.not_mem_nil, or_false] at hp ⊢
    subst e
    rcases hp with rfl | rfl | rfl | rfl <;> simp

theorem trap_machine (h : k.mode = 3 ∨ k.mode = 0 ∧ bit (k.reg 0x302) code = false) :
    TrapEntered k (k.trap code v) code v 0x300 3 := by
  have hs : trapSup k code = false := by
    unfold trapSup
    rcases h with h | ⟨h, hb⟩
    · rw [h]
      rfl
    · rw [h, hb]
      rfl
  exact trap_enters k code v (by rw [hs]; rfl) (by rw [hs]; rfl) (by decide)

theorem trap_supervisor (h : k.mode = 1 ∨ k.mode = 0 ∧ bit (k.reg 0x302) code = true) :
    TrapEntered k (k.trap code v) code v 0x100 1 := by
  have hs : trapSup k code = true := by
    unfold trapSup
    rcases h with h | ⟨h, hb⟩
    · rw [h]
      rfl
    · rw [h, hb]
      rfl
  exact trap_enters k code v (by rw [hs]; rfl) (by rw [hs]; rfl) (by decide)

end

end Sys2Proof.Machine
end

section
/-! Accesses through the walls, monitors, attestation (R351 to R362, R420, R450, R465). -/

namespace Sys2Proof.Machine

/-! ## The wall of an access (R353, R420) -/

/-- Does a wall let the hart in and cover an address? -/
def wallCovers (s : State) (h x v : Nat) : Bool :=
  wallOn s v && bit v (96 + h) && decide (bits v 81 15 * 2 ^ 21 ≤ x) &&
    decide (x < bits v 81 15 * 2 ^ 21 + bits v 65 16 * 2 ^ 21)

theorem wallCovers_iff {s : State} {h x v : Nat} : wallCovers s h x v = true ↔ wallOn s v = true ∧ bit v (96 + h) = true ∧
    bits v 81 15 * 2 ^ 21 ≤ x ∧ x < (bits v 81 15 + bits v 65 16) * 2 ^ 21 := by
  unfold wallCovers
  rw [Bool.and_eq_true, Bool.and_eq_true, Bool.and_eq_true, decide_eq_true_iff, decide_eq_true_iff, Nat.add_mul, and_assoc, and_assoc]

/-- The wall that wallFor gives: the first that covers the address, and it covers the whole access. wallOn, bits, bit and the granule are
read as unknowns, so that no check of the unfolding evaluates the search. -/
theorem wallFor_find {s : State} {h x n w : Nat} (hw : wallFor s h x n = some w) :
    ((List.range 64).map (wallAt s)).find? (wallCovers s h x) = some w ∧ x + n ≤ bits w 81 15 * 2 ^ 21 + bits w 65 16 * 2 ^ 21 := by
  have hpred : wallCovers s h x = fun v => wallOn s v && bit v (96 + h) && decide (bits v 81 15 * 2 ^ 21 ≤ x) &&
      decide (x < bits v 81 15 * 2 ^ 21 + bits v 65 16 * 2 ^ 21) := by
    funext v
    rw [wallCovers]
  rw [hpred]
  have e : wallFor = wallFor := rfl
  conv_rhs at e => delta wallFor
  rw [e] at hw
  obtain ⟨on, hon⟩ : ∃ f, f = wallOn := ⟨_, rfl⟩
  obtain ⟨fields, hfields⟩ : ∃ f, f = bits := ⟨_, rfl⟩
  obtain ⟨p, hp⟩ : ∃ f, f = bit := ⟨_, rfl⟩
  obtain ⟨c, hc⟩ : ∃ c, c = 2 ^ 21 := ⟨_, rfl⟩
  rw [← hon, ← hfields, ← hp, ← hc] at hw ⊢
  dsimp only at hw
  split at hw
  · next v hv =>
    split at hw
    · next hle =>
      cases hw
      exact ⟨hv, hle⟩
    · cases hw
  · cases hw

theorem wallFor_first {s : State} {h x n w : Nat} (hw : wallFor s h x n = some w) :
    ∃ i, i < 64 ∧ w = wallAt s i ∧ wallOn s w = true ∧ bit w (96 + h) = true ∧ bits w 81 15 * 2 ^ 21 ≤ x ∧
      x + n ≤ (bits w 81 15 + bits w 65 16) * 2 ^ 21 ∧ ∀ y, y < i → ¬(wallOn s (wallAt s y) = true ∧ bit (wallAt s y) (96 + h) = true ∧
        bits (wallAt s y) 81 15 * 2 ^ 21 ≤ x ∧ x < (bits (wallAt s y) 81 15 + bits (wallAt s y) 65 16) * 2 ^ 21) := by
  obtain ⟨hv, hle⟩ := wallFor_find hw
  rw [List.find?_map, Option.map_eq_some_iff] at hv
  obtain ⟨i, hi, rfl⟩ := hv
  rw [List.find?_range_eq_some] at hi
  obtain ⟨hc, hmem, hfirst⟩ := hi
  rw [Function.comp_apply] at hc
  obtain ⟨h1, h2, h3, -⟩ := wallCovers_iff.mp hc
  refine ⟨i, List.mem_range.mp hmem, rfl, h1, h2, h3, by rw [Nat.add_mul]; exact hle, fun y hy hno => ?_⟩
  have hf := hfirst y hy
  rw [Function.comp_apply, wallCovers_iff.mpr hno] at hf
  cases hf

/-! ## An access to the sandbox window (R353, R420) -/

section
variable {s : State} {h : Nat} {x : HartAccess}

theorem sandbox_noWall (hw : wallFor s h x.addr x.n = none) : sandboxAccess s h x = refuseHart s h x.kind x.addr := by
  have e : sandboxAccess = sandboxAccess := rfl
  conv_rhs at e => delta sandboxAccess
  rw [e]
  obtain ⟨f, hf⟩ : ∃ f, f = wallFor := ⟨_, rfl⟩
  rw [← hf] at hw ⊢
  dsimp only
  rw [hw]

variable {w : Nat} (hw : wallFor s h x.addr x.n = some w)
include hw

theorem sandbox_wall : sandboxAccess s h x =
    if !wallPerm w x.kind then refuseHart s h x.kind x.addr
    else if (wakeForAccess s).isNone || !(hartAt s h).held.isEmpty then onHart s h (fun k => { k with held := k.held ++ [x] })
    else reachWindow s h x := by
  have e : sandboxAccess = sandboxAccess := rfl
  conv_rhs at e => delta sandboxAccess
  rw [e]
  obtain ⟨f, hf⟩ : ∃ f, f = wallFor := ⟨_, rfl⟩
  rw [← hf] at hw ⊢
  dsimp only
  rw [hw]

theorem sandbox_noPerm (hp : wallPerm w x.kind = false) : sandboxAccess s h x = refuseHart s h x.kind x.addr := by
  rw [sandbox_wall hw, hp]
  rfl

theorem sandbox_held (hp : wallPerm w x.kind = true) (hh : (3 ≤ s.dev.pkg ∧ s.dev.plim = 0) ∨ (hartAt s h).held ≠ []) :
    sandboxAccess s h x = onHart s h (fun g => { g with held := g.held ++ [x] }) := by
  have hc : ((wakeForAccess s).isNone || !(hartAt s h).held.isEmpty) = true := by
    rw [Bool.or_eq_true]
    rcases hh with ⟨h3, h0⟩ | hne
    · left
      have hno : ¬(s.dev.pkg < 3 ∨ s.dev.plim ≠ 0) := by omega
      have he : wakeForAccess s = none := if_neg hno
      rw [he]
      rfl
    · right
      cases hl : (hartAt s h).held with
      | nil => exact absurd hl hne
      | cons y l => rfl
  rw [sandbox_wall hw, hp, hc]
  rfl

/-- Where a wall puts the address of an access (R353). -/
def wallPlace (w : Nat) (addr : Nat) : Nat := bits w 21 23 * 2 ^ 21 + (addr - bits w 81 15 * 2 ^ 21)

/-- An access performed where its wall puts it (R353). -/
def performed (s : State) (h w : Nat) (x : HartAccess) : State :=
  if x.kind = 1 then storeNat s (wallPlace w x.addr) x.n x.v
  else if x.kind = 3 then storeNat (onHart s h (fun g => { g with data := loadNat s (wallPlace w x.addr) x.n })) (wallPlace w x.addr) x.n
    (amoFn x.fn (8 * x.n) x.v (loadNat s (wallPlace w x.addr) x.n))
  else onHart s h (fun g => { g with data := loadNat s (wallPlace w x.addr) x.n })

theorem reachWindow_performs (ha : s.dev.pkg < 3 ∨ s.dev.plim ≠ 0) : reachWindow s h x = performed (wakePackage s) h w x := by
  have e : reachWindow = reachWindow := rfl
  conv_rhs at e => delta reachWindow
  unfold performed wallPlace
  rw [e]
  obtain ⟨f, hf⟩ : ∃ f, f = wallFor := ⟨_, rfl⟩
  rw [← hf] at hw ⊢
  dsimp only
  rw [hw, access_wakes ha]

theorem sandbox_reaches (hp : wallPerm w x.kind = true) (ha : s.dev.pkg < 3 ∨ s.dev.plim ≠ 0) (hh : (hartAt s h).held = []) :
    sandboxAccess s h x = performed (wakePackage s) h w x := by
  have hc : ((wakeForAccess s).isNone || !(hartAt s h).held.isEmpty) = false := by
    rw [access_wakes ha, hh]
    rfl
  rw [sandbox_wall hw, hp, hc, reachWindow_performs hw ha]
  rfl

end

/-- The access of a running hart. -/
theorem sandbox_acts {s : State} {h : BitVec 5} {k z : BitVec 2} {ad : BitVec 36} {v : BitVec 64}
    (hr : (hartAt s h.toNat).run = true) : exec (.toolSandboxAccess h k ad z v) s =
      .next (sandboxAccess s h.toNat ⟨k.toNat, ad.toNat, 2 ^ z.toNat, v.toNat, 0⟩) := by
  refine (show exec (.toolSandboxAccess h k ad z v) s = execToolSandboxAccess h k ad z v s from rfl).trans ?_
  unfold execToolSandboxAccess
  rw [hr]
  rfl

/-- A change of one hart. -/
structure OnlyHart (s t : State) (h : Nat) (g : Hart) : Prop where
  rest : { t with harts := [] } = { s with harts := [] }
  here : hartAt t h = g
  others : ∀ x, x ≠ h → hartAt t x = hartAt s x

theorem onlyHart (s : State) (h : Nat) (f : Hart → Hart) : OnlyHart s (onHart s h f) h (f (hartAt s h)) :=
  ⟨rfl, hartAt_onHart_same _ _ _, fun _ hx => hartAt_onHart_ne _ _ hx⟩

/-- A store keeps the harts. -/
theorem hartAt_storeNat (s : State) (l n v h : Nat) : hartAt (storeNat s l n v) h = hartAt s h := by
  unfold storeNat
  rw [storeN_rest]
  rfl

theorem accessFault_eq (k : BitVec 2) : accessFault k.toNat = if k = 0 then 5 else if k = 2 then 1 else 7 := by
  revert k
  decide

theorem wallPerm_eq (w : Nat) (k : BitVec 2) : wallPerm w k.toNat = if k = 3 then bit w 0 && bit w 1 else bit w k.toNat := by
  have h3 : k.toNat = 3 ↔ k = 3 := by revert k; decide
  unfold wallPerm
  simp only [h3]

/-! ## Monitors (R359, R360, R465) -/

/-- A change of one monitor. -/
structure OnlyMonitor (s t : State) (m : Nat) (left : List (Nat × Nat)) (P : Monitor → Prop) : Prop where
  here : P (monitorAt t m)
  others : ∀ x, x ≠ m → monitorAt t x = monitorAt s x
  samples : t.samples = left
  rest : { t with monitors := [], samples := [] } = { s with monitors := [], samples := [] }

theorem onlyMonitor (s : State) (m : Nat) (left : List (Nat × Nat)) (f : Monitor → Monitor) {P : Monitor → Prop}
    (h : P (f (monitorAt s m))) : OnlyMonitor s (onMonitor { s with samples := left } m f) m left P := by
  refine ⟨?_, fun x hx => ?_, rfl, rfl⟩
  · have he : monitorAt (onMonitor { s with samples := left } m f) m = f (monitorAt s m) := tabGet_put_same _ _ _ _
    rw [he]
    exact h
  · exact tabGet_put_ne _ _ _ hx

theorem nth_setNth (l : List Nat) {b : Nat} (hb : b < l.length) (v i : Nat) : nth (setNth l b v) i = if i = b then v else nth l i := by
  induction l generalizing b i with
  | nil => cases hb
  | cons x l ih =>
    cases b with
    | zero =>
      cases i with
      | zero => rfl
      | succ i => rfl
    | succ b =>
      cases i with
      | zero => rfl
      | succ i =>
        have hi := ih (Nat.lt_of_succ_lt_succ hb) i
        simp only [Nat.add_right_cancel_iff]
        exact hi

theorem bin_lt (k : Monitor) (v : Nat) : k.bin v < 32 := by
  unfold Monitor.bin
  split
  · split
    · decide
    · exact Nat.lt_succ_of_le (Nat.min_le_left _ _)
  · split
    · decide
    · exact Nat.lt_succ_of_le (Nat.min_le_left _ _)

section
variable {s : State} {m : BitVec 6} {v : BitVec 32} (hc : bit (monitorAt s m.toNat).ctl 0 = true)
  (hs : bits (monitorAt s m.toNat).sel 0 8 ≠ 0) (hm : (m.toNat, v.toNat) ∈ s.samples)
include hc hs hm

theorem sample_taken : exec (.monitorSample m v) s =
    .next (if bit (monitorAt s m.toNat).ctl 2 then { s with samples := s.samples.erase (m.toNat, v.toNat) }
      else onMonitor { s with samples := s.samples.erase (m.toNat, v.toNat) } m.toNat (fun k => k.sample v.toNat)) := by
  have hs' : (bits (monitorAt s m.toNat).sel 0 8 == 0) = false := by simpa using hs
  refine (show exec (.monitorSample m v) s = execMonitorSample m v s from rfl).trans ?_
  unfold execMonitorSample
  dsimp only
  rw [if_pos (List.contains_iff_mem.mpr hm)]
  unfold takeSample
  have hk : monitorAt { s with samples := s.samples.erase (m.toNat, v.toNat) } m.toNat = monitorAt s m.toNat := rfl
  dsimp only
  rw [hk, hc, hs']
  rfl

end

end Sys2Proof.Machine
end

section
/-! Attestation (R362, R450), and the statement on the tool cluster and the monitors. -/

namespace Sys2Proof.Machine

/-! ## The security mailbox (R340, R362) -/

theorem tabGet_putAll (l : List Byte) (t : Tab Nat) (lo k a : Nat) :
    tabGet 0 ((l.zipIdx k).foldl (fun t p => tabPut t (lo + p.2) p.1.toNat) t) a =
      if lo + k ≤ a then (match l[a - (lo + k)]? with | some b => b.toNat | none => tabGet 0 t a) else tabGet 0 t a := by
  induction l generalizing t k with
  | nil => simp
  | cons x l ih =>
    rw [List.zipIdx_cons, List.foldl_cons, ih]
    by_cases h1 : lo + k ≤ a
    · rw [if_pos h1]
      by_cases h2 : a = lo + k
      · subst h2
        rw [if_neg (by omega), tabGet_put_same, Nat.sub_self]
        rfl
      · have h3 : a - (lo + k) = a - (lo + (k + 1)) + 1 := by omega
        rw [if_pos (by omega), h3, List.getElem?_cons_succ, tabGet_put_ne _ _ _ h2]
    · rw [if_neg h1, if_neg (by omega), tabGet_put_ne _ _ _ (by omega)]

theorem mailbox_below (s : State) (lo : Nat) (v : List Byte) {a n : Nat} (h : a + n ≤ lo) :
    mailboxBytes (putMailbox s lo v) a n = mailboxBytes s a n := by
  unfold mailboxBytes
  refine List.map_congr_left fun i hi => ?_
  have hi' := List.mem_range.mp hi
  have he : tabGet 0 (putMailbox s lo v).sec.mailbox (a + i) = tabGet 0 s.sec.mailbox (a + i) := by
    refine (tabGet_putAll v s.sec.mailbox lo 0 (a + i)).trans (if_neg (by omega))
  rw [he]

theorem mailbox_within (s : State) (lo : Nat) (v : List Byte) {k n : Nat} (h : k + n ≤ v.length) :
    mailboxBytes (putMailbox s lo v) (lo + k) n = (v.drop k).take n := by
  apply List.ext_getElem
  · rw [List.length_take, List.length_drop, mailboxBytes, List.length_map, List.length_range]
    omega
  · intro i h1 h2
    have hi : i < n := by rw [List.length_take] at h2; omega
    have hlt : k + i < v.length := by omega
    have hs : lo + k + i - (lo + 0) = k + i := by omega
    have he : tabGet 0 (putMailbox s lo v).sec.mailbox (lo + k + i) = v[k + i].toNat := by
      refine (tabGet_putAll v s.sec.mailbox lo 0 (lo + k + i)).trans ?_
      rw [if_pos (by omega), hs, List.getElem?_eq_getElem hlt]
    simp only [mailboxBytes, List.getElem_map, List.getElem_range, he, List.getElem_take, List.getElem_drop]
    exact (BitVec.ofNat_toNat _ _).trans (BitVec.setWidth_eq _)

theorem mailbox_replicate (s : State) (lo n : Nat) (b : Byte) :
    mailboxBytes (putMailbox s lo (List.replicate n b)) lo n = List.replicate n b := by
  have hl : (List.replicate n b).length = n := List.length_replicate
  refine (mailbox_within s lo (List.replicate n b) (k := 0) (by rw [hl, Nat.zero_add])).trans ?_
  rw [List.drop_zero, List.take_of_length_le (Nat.le_of_eq hl)]

theorem mailbox_rest (s : State) (lo : Nat) (v : List Byte) :
    { putMailbox s lo v with freeCount := 0, sec := { (putMailbox s lo v).sec with mailbox := [] } } =
      { s with freeCount := 0, sec := { s.sec with mailbox := [] } } := rfl

/-! ## The report (R362) -/

/-- A measurement of the report: 48 bytes. -/
def measureBytes (s : State) (i : Nat) : List Byte := (s.sec.measures.getD i [] ++ List.replicate 48 0).take 48

/-- The part of the report behind the challenge: measurements and versions. -/
def reportTail (s : State) : List Byte :=
  measureBytes s 0 ++ measureBytes s 1 ++ measureBytes s 2 ++ (List.range 3).flatMap (fun i => leBytes 2 (nth s.sec.versions i)) ++
    leBytes 2 (nth s.sec.floor 0)

/-- The report without its signature. -/
def reportBody (s : State) : List Byte := leBytes 16 s.sec.serial ++ (mailboxBytes s 0 48 ++ reportTail s)

theorem measureBytes_length (s : State) (i : Nat) : (measureBytes s i).length = 48 := by
  unfold measureBytes
  rw [List.length_take, List.length_append, List.length_replicate]
  omega

theorem mailboxBytes_length (s : State) (lo n : Nat) : (mailboxBytes s lo n).length = n := by
  unfold mailboxBytes
  rw [List.length_map, List.length_range]

theorem reportTail_length (s : State) : (reportTail s).length = 152 := by
  have hl : List.range 3 = [0, 1, 2] := by decide
  unfold reportTail
  rw [hl]
  simp only [List.flatMap_cons, List.flatMap_nil, List.length_append, measureBytes_length, leBytes_length, List.length_nil]

theorem reportBody_length (s : State) : (reportBody s).length = 216 := by
  unfold reportBody
  rw [List.length_append, List.length_append, leBytes_length, mailboxBytes_length, reportTail_length]

theorem beBytes_length (n v : Nat) : (beBytes n v).length = n := by
  unfold beBytes
  rw [List.length_map, List.length_range]

theorem ecdsaSign_length (d k : Nat) (v : List Byte) : (ecdsaSign d k v).length = 96 := by
  unfold ecdsaSign
  dsimp only
  rw [List.length_append, beBytes_length, beBytes_length]

/-- The report as it stands in the mailbox. -/
def signedReport (s : State) : List Byte :=
  reportBody s ++ ecdsaSign Config.deviceKey (Config.signNonce (s.freeCount + 1)) (sha384 (reportBody s))

theorem attest_signs {s : State} (hf : s.sec.failed = false) :
    attest s = putMailbox { s with freeCount := s.freeCount + 1 } 256 (signedReport s) := by
  have hb : reportBody s = leBytes 16 s.sec.serial ++ mailboxBytes s 0 48 ++ measureBytes s 0 ++ measureBytes s 1 ++ measureBytes s 2
      ++ (List.range 3).flatMap (fun i => leBytes 2 (nth s.sec.versions i)) ++ leBytes 2 (nth s.sec.floor 0) := by
    unfold reportBody reportTail
    simp only [List.append_assoc]
  unfold attest signedReport
  rw [hb, hf]
  rfl

theorem attest_fails {s : State} (hf : s.sec.failed = true) : attest s = putMailbox s 256 (List.replicate 312 0) := if_pos hf

theorem signedReport_length (s : State) : (signedReport s).length = 312 := by
  unfold signedReport
  rw [List.length_append, reportBody_length, ecdsaSign_length]

/-- What a report leaves in the mailbox (R362). -/
theorem attest_mailbox {s : State} (hf : s.sec.failed = false) : let t := attest s
    mailboxBytes t 256 16 = leBytes 16 s.sec.serial ∧ mailboxBytes t 272 48 = mailboxBytes s 0 48 ∧
    mailboxBytes t 472 96 = ecdsaSign Config.deviceKey (Config.signNonce t.freeCount) (sha384 (mailboxBytes t 256 216)) := by
  have hlen := signedReport_length s
  have hbody := reportBody_length s
  have hat {k n : Nat} (h : k + n ≤ 312) : mailboxBytes (attest s) (256 + k) n = ((signedReport s).drop k).take n := by
    rw [attest_signs hf]
    exact mailbox_within _ _ _ (hlen ▸ h)
  have h0 : mailboxBytes (attest s) 256 216 = reportBody s := by
    refine (hat (k := 0) (by decide)).trans ?_
    rw [List.drop_zero, signedReport, List.take_append_of_le_length (Nat.le_of_eq hbody.symm), List.take_of_length_le (Nat.le_of_eq hbody)]
  have hn : (attest s).freeCount = s.freeCount + 1 := by
    rw [attest_signs hf]
    rfl
  refine ⟨?_, ?_, ?_⟩
  · refine (hat (k := 0) (by decide)).trans ?_
    rw [List.drop_zero, signedReport, reportBody, List.append_assoc]
    exact List.take_left' (leBytes_length 16 _)
  · refine (hat (k := 16) (by decide)).trans ?_
    rw [signedReport, reportBody, List.append_assoc, List.drop_left' (leBytes_length 16 _), List.append_assoc]
    exact List.take_left' (mailboxBytes_length s 0 48)
  · refine (hat (k := 216) (by decide)).trans ?_
    rw [h0, hn, signedReport, List.drop_left' hbody]
    exact List.take_of_length_le (Nat.le_of_eq (ecdsaSign_length _ _ _))

theorem attest_keeps (s : State) : { attest s with freeCount := 0, sec := { (attest s).sec with mailbox := [] } } =
    { s with freeCount := 0, sec := { s.sec with mailbox := [] } } ∧ mailboxBytes (attest s) 0 256 = mailboxBytes s 0 256 := by
  cases hf : s.sec.failed with
  | true =>
    rw [attest_fails hf]
    exact ⟨mailbox_rest s 256 _, mailbox_below _ _ _ (by decide)⟩
  | false =>
    rw [attest_signs hf]
    exact ⟨mailbox_rest { s with freeCount := s.freeCount + 1 } 256 _, mailbox_below _ _ _ (by decide)⟩

theorem attest_zeros {s : State} (hf : s.sec.failed = true) : mailboxBytes (attest s) 256 312 = List.replicate 312 0 := by
  rw [attest_fails hf, mailbox_replicate]

/-! ## The statement -/

theorem sample_values (k : Monitor) (x : Nat) (hb : k.bins.length = 32) :
    (k.sample x).min = min k.min x ∧ (k.sample x).max = max k.max x ∧ (k.sample x).cnt = min (k.cnt + 1) (2 ^ 48 - 1) ∧
    (k.sample x).sum = min (k.sum + x) (2 ^ 48 - 1) ∧ (k.sample x).ctl = k.ctl ∧ (k.sample x).sel = k.sel ∧
    (∀ i, nth (k.sample x).bins i = if i = k.bin x then min (nth k.bins (k.bin x) + 1) (2 ^ 48 - 1) else nth k.bins i) ∧
    ((k.sample x).sat = true ↔ k.sat = true ∨ 2 ^ 48 - 1 < k.cnt + 1 ∨ 2 ^ 48 - 1 < k.sum + x ∨ 2 ^ 48 - 1 < nth k.bins (k.bin x) + 1) := by
  refine ⟨rfl, rfl, rfl, rfl, rfl, rfl, fun i => nth_setNth k.bins (hb ▸ bin_lt k x) _ i, ?_⟩
  unfold Monitor.sample
  dsimp only
  rw [Bool.or_eq_true, decide_eq_true_iff]

section
variable {s : State} {h w : Nat} {x : HartAccess}

theorem performed_store (h1 : x.kind = 1) : performed s h w x = storeNat s (wallPlace w x.addr) x.n x.v := if_pos h1

theorem performed_load (h1 : x.kind ≠ 1) (h3 : x.kind ≠ 3) :
    performed s h w x = onHart s h (fun g => { g with data := leNat (loadN s (wallPlace w x.addr) x.n) }) := by
  unfold performed
  rw [if_neg h1, if_neg h3]
  rfl

theorem performed_swap (h3 : x.kind = 3) (hf : x.fn = 0) : performed s h w x =
    storeNat (onHart s h (fun g => { g with data := leNat (loadN s (wallPlace w x.addr) x.n) })) (wallPlace w x.addr) x.n x.v := by
  unfold performed
  rw [if_neg (by rw [h3]; decide), if_pos h3, hf]
  rfl

end

/-- Settles O55: each register of the tool cluster and each access through its walls. -/
theorem toolClusterAndMonitors : Obligations.ToolClusterAndMonitors := by
  intro s
  refine ⟨fun m => ⟨?_, ?_⟩, fun w half v => ?_, fun h v hr => ⟨?_, fun n => ?_, fun ht hle => ?_⟩, ?_, ?_, ?_, fun hst => ?_⟩
  · exact ⟨runHarts s m.toNat, rfl, onHarts_rest _ _ s, trun_runs s m⟩
  · exact ⟨holdHarts s m.toNat, rfl, onHarts_rest _ _ s, thold_holds s m⟩
  · exact ⟨putWall s w.toNat half.toNat v.toNat, rfl, fun i hi => wall_bit s w.toNat half v hi, fun x hx => wallAt_putWall_ne s _ _ hx, rfl⟩
  · have he : exec (.doorbellClear h v) s = .next (onHart s h.toNat (clearBell v.toNat)) := by
      refine (show exec (.doorbellClear h v) s = execDoorbellClear h v s from rfl).trans ?_
      unfold execDoorbellClear
      rw [hr]
      rfl
    obtain ⟨hrest, hhere, hothers⟩ := onlyHart s h.toNat (clearBell v.toNat)
    refine ⟨_, he, ?_, ?_, ?_, hrest, hothers⟩ <;> rw [hhere]
    · exact fun i hi => clearBell_bit v _ hi
    · exact (clearBell_interrupts _ _).1
    · exact (clearBell_interrupts _ _).2
  · refine (show exec (.toolNotifyStore h n v) s = execToolNotifyStore h n v s from rfl).trans ?_
    unfold execToolNotifyStore
    rw [hr]
    rfl
  · have he : exec (.toolTimerInterrupt h) s = .next (onHart s h.toNat (fun h => { h with timer := true })) := by
      refine (show exec (.toolTimerInterrupt h) s = execToolTimerInterrupt h s from rfl).trans ?_
      unfold execToolTimerInterrupt
      dsimp only
      rw [hr, ht, decide_eq_false (Nat.not_lt.mpr hle)]
      rfl
    obtain ⟨hrest, hhere, hothers⟩ := onlyHart s h.toNat (fun h => { h with timer := true })
    exact ⟨_, he, hhere, hothers, hrest⟩
  · intro h k ad z v hr only n refused
    have hrefuse : refused (refuseHart s h.toNat k.toNat ad.toNat) := by
      obtain ⟨h1, h2, h3⟩ := onlyHart s h.toNat (fun t => t.trap (accessFault k.toNat) ad.toNat)
      have ha : accessFault k.toNat = if k = 0 then 5 else if k = 2 then 1 else 7 := accessFault_eq k
      exact ⟨h1, h2.trans (by rw [ha]), h3⟩
    refine ⟨fun hw => ⟨_, (sandbox_acts hr).trans (congrArg _ (sandbox_noWall hw)), hrefuse⟩, fun w hw => ?_⟩
    intro ok l
    have hperm : wallPerm w k.toNat = ok := wallPerm_eq w k
    refine ⟨wallFor_first hw, fun hok => ?_, fun hok hh => ?_, fun hok ha hh hmem => ?_⟩
    · exact ⟨_, (sandbox_acts hr).trans (congrArg _ (sandbox_noPerm (x := ⟨k.toNat, ad.toNat, n, v.toNat, 0⟩) hw (hperm.trans hok))), hrefuse⟩
    · obtain ⟨h1, h2, h3⟩ := onlyHart s h.toNat (fun g => { g with held := g.held ++ [⟨k.toNat, ad.toNat, n, v.toNat, 0⟩] })
      exact ⟨_, (sandbox_acts hr).trans (congrArg _ (sandbox_held (x := ⟨k.toNat, ad.toNat, n, v.toNat, 0⟩) hw (hperm.trans hok) hh)),
        h1, h2, h3⟩
    · have hgo : exec (.toolSandboxAccess h k ad z v) s =
          .next (performed (wakePackage s) h.toNat w ⟨k.toNat, ad.toNat, n, v.toNat, 0⟩) :=
        (sandbox_acts hr).trans (congrArg _ (sandbox_reaches (x := ⟨k.toNat, ad.toNat, n, v.toNat, 0⟩) hw (hperm.trans hok) ha hh))
      intro u loaded
      have hload : loaded (onHart (wakePackage s) h.toNat (fun g => { g with data := leNat (loadN s l n) })) :=
        ⟨rfl, hartAt_onHart_same _ _ _, fun x hx => hartAt_onHart_ne _ _ hx⟩
      refine ⟨fun hk => ⟨_, hgo.trans (congrArg _ (performed_load ?_ ?_)), hload, rfl, rfl⟩,
        fun hk => ⟨_, hgo.trans (congrArg _ (performed_store ?_)), wrote_storeNat (u := wakePackage s) hmem rfl rfl _ _ _,
          storeNat_noMem _ _ _ _⟩,
        fun hk => ⟨_, hgo.trans (congrArg _ (performed_swap ?_ rfl)), wrote_storeNat (u := onHart (wakePackage s) h.toNat _) hmem rfl rfl _ _ _,
          ?_⟩⟩
      · have h1 : k.toNat ≠ 1 := by rcases hk with rfl | rfl <;> decide
        exact h1
      · have h3 : k.toNat ≠ 3 := by rcases hk with rfl | rfl <;> decide
        exact h3
      · rw [hk]
        rfl
      · rw [hk]
        rfl
      · refine ⟨?_, (hartAt_storeNat _ _ _ _ _).trans hload.2.1, fun x hx => (hartAt_storeNat _ _ _ _ _).trans (hload.2.2 x hx)⟩
        rw [storeNat_noMem]
        exact hload.1
  · intro k code v hc
    refine ⟨fun h => ?_, fun h => ?_, rfl, rfl, rfl, rfl, rfl, rfl⟩
    · obtain ⟨h1, h2, h3, h4, h5, h6⟩ := trap_machine k code v h
      exact ⟨h1, h2, h3, h4, h5, h6⟩
    · obtain ⟨h1, h2, h3, h4, h5, h6⟩ := trap_supervisor k code v h
      exact ⟨h1, h2, h3, h4, h5, h6⟩
  · intro m k only
    refine ⟨?_, ?_, fun v hc hs hm => ⟨fun h2 => ?_, fun h2 hb => ?_⟩⟩
    · obtain ⟨h1, h2, h3, h4⟩ := onlyMonitor s m.toNat s.samples Monitor.cleared (P := fun u => u = k.cleared) rfl
      exact ⟨_, rfl, h1, h2, h3, h4⟩
    · obtain ⟨h1, h2, h3, h4⟩ := onlyMonitor s m.toNat s.samples (fun k => { k with sat := false }) (P := fun u => u = { k with sat := false }) rfl
      exact ⟨_, rfl, h1, h2, h3, h4⟩
    · rw [sample_taken hc hs hm, if_pos h2]
    · obtain ⟨h1, h3, h4, h5⟩ := onlyMonitor s m.toNat (s.samples.erase (m.toNat, v.toNat)) (fun k => k.sample v.toNat)
        (P := fun u => u = k.sample v.toNat) rfl
      refine ⟨_, (sample_taken hc hs hm).trans (congrArg _ (if_neg (by rw [h2]; decide))), ?_, h3, h4, h5⟩
      rw [h1]
      exact sample_values k v.toNat hb
  · have hno : exec .attestationRequest s = .next (attest s) := by
      refine (show exec .attestationRequest s = execAttestationRequest s from rfl).trans ?_
      exact if_neg (Nat.not_lt.mpr hst)
    obtain ⟨hk, hm⟩ := attest_keeps s
    exact ⟨_, hno, hk, hm, attest_zeros, attest_mailbox⟩

end Sys2Proof.Machine
end

section
/-! Boot, power states, thermal holds and hardware errors (R357, R358, R361, R363, R422, R423, R436, R439, R448 to R450, R461 to R464). -/

namespace Sys2Proof.Machine

/-! ## Records and ends of jobs (R438, R445) -/

/-- A record of the error log changes memory, poison and the log's registers alone (R436 to R438). -/
theorem logPlain_rest (s : State) (code level a0 a1 : Nat) : logPlain s code level a0 a1 =
    { s with
      mem := (logPlain s code level a0 a1).mem, poison := (logPlain s code level a0 a1).poison
      dev := (logPlain s code level a0 a1).dev } := by
  unfold logPlain logErrorJob
  dsimp only
  split
  · rfl
  · split
    · rfl
    · rw [storeN_rest]

theorem killed_killJob_same (s : State) (j code : Nat) : (jobAt (killJob s j code) j).killed = true := by
  unfold killJob
  rw [jobAt_onJob_same]

theorem killed_killJob (s : State) {i j code : Nat} (h : (jobAt s i).killed = true) : (jobAt (killJob s j code) i).killed = true := by
  by_cases hi : i = j
  · subst hi
    exact killed_killJob_same s i code
  · unfold killJob noteEnd
    rw [jobAt_onJob_ne _ _ hi, jobAt_onJob_ne _ _ hi]
    exact h

/-- The jobs of a list are ended. -/
def killJobs (s : State) (code : Nat) (l : List Nat) : State := l.foldl (fun s j => killJob s j code) s

theorem killed_killJobs {code : Nat} {l : List Nat} (s : State) {i : Nat} (h : i ∈ l ∨ (jobAt s i).killed = true) :
    (jobAt (killJobs s code l) i).killed = true := by
  induction l generalizing s with
  | nil => exact h.resolve_left (List.not_mem_nil)
  | cons j l ih =>
    refine ih (killJob s j code) ?_
    rcases h with h | h
    · rcases List.mem_cons.mp h with rfl | h
      · exact .inr (killed_killJob_same s i code)
      · exact .inl h
    · exact .inr (killed_killJob s h)

theorem killJobs_rest (s : State) (code : Nat) (l : List Nat) : killJobs s code l = { s with jobs := (killJobs s code l).jobs } := by
  induction l generalizing s with
  | nil => rfl
  | cons j l ih => exact (ih (killJob s j code)).trans rfl

theorem killAll_jobs (s : State) (code : Nat) : killAll s code = killJobs s code ((s.jobs.filter (fun b => b.2.phase != 4)).map (·.1)) := by
  unfold killAll killJobs
  rw [List.foldl_map]

/-! ## Boot (R361, R363) -/

section
variable {s : State} {m : BitVec 2} {ver : BitVec 16} {key hdr body sig : List Byte} (hf : s.sec.failed = false)
  (hst : m = 0 ∧ s.dev.stage = 1 ∨ m = 1 ∧ s.dev.stage = 2 ∨ m = 2 ∧ 2 ≤ s.dev.stage)
  (hb : m = 0 → ∀ i b, (hdr ++ body ++ sig)[i]? = some b → bits (tabGet 0 s.sec.boot (i / 8)) (8 * (i % 8)) 8 = b.toNat)
include hf hst hb

theorem image_read : ¬(s.sec.failed = true ∨ (!((m.toNat == 0 && s.dev.stage == 1 && inBootWindow s (hdr ++ body ++ sig)) ||
    (m.toNat == 1 && s.dev.stage == 2) || (m.toNat == 2 && decide (2 ≤ s.dev.stage)))) = true) := by
  rw [hf]
  rintro (h | h)
  · cases h
  · rw [Bool.not_eq_true'] at h
    rcases hst with ⟨rfl, hs⟩ | ⟨rfl, hs⟩ | ⟨rfl, hs⟩
    · have hw : inBootWindow s (hdr ++ body ++ sig) = true := by
        unfold inBootWindow
        rw [List.all_eq_true]
        rintro ⟨b, i⟩ hmem
        rw [List.mem_zipIdx_iff_getElem?] at hmem
        exact beq_iff_eq.mpr (hb rfl i b hmem)
      rw [hs, hw] at h
      exact absurd h (by decide)
    · rw [hs] at h
      simp at h
    · rw [decide_eq_true hs] at h
      simp at h

theorem image_refused (hg : imageGood s ver.toNat key hdr body sig = false) :
    exec (.securityImageVerify m ver key hdr body sig) s = .next s := by
  refine (show exec (.securityImageVerify m ver key hdr body sig) s = execSecurityImageVerify m ver key hdr body sig s from rfl).trans ?_
  unfold execSecurityImageVerify
  dsimp only
  rw [if_neg (image_read hf hst hb), hg]
  rfl

/-- The measurements and versions with those of an image accepted. -/
def withImage (s : State) (i ver : Nat) (v : List Byte) : Security :=
  { s.sec with
    measures := setNth ((s.sec.measures ++ List.replicate 3 []).take 3) i (sha384 v)
    versions := setNth ((s.sec.versions ++ List.replicate 3 0).take 3) i ver }

theorem image_accepted (hg : imageGood s ver.toNat key hdr body sig = true) :
    exec (.securityImageVerify m ver key hdr body sig) s =
      .next (imageRuns { s with sec := withImage s m.toNat ver.toNat (hdr ++ body) } m.toNat) := by
  refine (show exec (.securityImageVerify m ver key hdr body sig) s = execSecurityImageVerify m ver key hdr body sig s from rfl).trans ?_
  unfold execSecurityImageVerify
  dsimp only
  rw [if_neg (image_read hf hst hb), hg]
  rfl

end

theorem getD_setNth {α : Type} (l : List α) {i : Nat} (h : i < l.length) (v d : α) : (setNth l i v).getD i d = v := by
  induction l generalizing i with
  | nil => cases h
  | cons x l ih =>
    cases i with
    | zero => rfl
    | succ i => exact ih (Nat.lt_of_succ_lt_succ h)

theorem padded_length {α : Type} (l : List α) (d : α) : ((l ++ List.replicate 3 d).take 3).length = 3 := by
  rw [List.length_take, List.length_append, List.length_replicate]
  omega

theorem withImage_values (s : State) {i : Nat} (hi : i < 3) (ver : Nat) (v : List Byte) :
    nth (withImage s i ver v).versions i = ver ∧ (withImage s i ver v).measures.getD i [] = sha384 v :=
  ⟨getD_setNth _ (by rw [padded_length]; exact hi) _ _, getD_setNth _ (by rw [padded_length]; exact hi) _ _⟩

/-- A table of the first n keys. -/
theorem tabGet_range_map {α : Type} (d : α) (f : Nat → α) {n c : Nat} (h : c < n) : tabGet d ((List.range n).map (fun k => (k, f k))) c = f c := by
  have hr (k : Nat) : ∀ m, k ≤ c → c < k + m → tabGet d ((List.range' k m).map (fun k => (k, f k))) c = f c := by
    intro m
    induction m generalizing k with
    | zero => intro h1 h2; omega
    | succ m ih =>
      intro h1 h2
      rw [List.range'_succ, List.map_cons]
      unfold tabGet
      by_cases he : k = c
      · rw [if_pos he, he]
      · rw [if_neg he, if_neg (by omega)]
        exact ih (k + 1) (by omega) (by omega)
  rw [List.range_eq_range']
  exact hr 0 n (Nat.zero_le c) (by omega)

/-! ## Power states (R357, R358) -/

theorem die_enters {s : State} {d l : BitVec 3} (hd : d.toNat < 6) (hl : l.toNat ≠ 0) (ht : powerTarget s d.toNat = l.toNat) :
    exec (.powerStateEntry d l) s = .next (onDie s d.toNat (fun k => { k with pstate := l.toNat })) := by
  refine (show exec (.powerStateEntry d l) s = execPowerStateEntry d l s from rfl).trans ?_
  unfold execPowerStateEntry
  dsimp only
  rw [if_neg (by rw [ht]; omega), if_pos hd]

theorem package_enters {s : State} {l : BitVec 3} (hl : l.toNat ≠ 0) (ht : powerTarget s 6 = l.toNat) :
    exec (.powerStateEntry 6 l) s = .next { s with dev := { s.dev with pkg := l.toNat } } := by
  have h6 : (6 : BitVec 3).toNat = 6 := rfl
  refine (show exec (.powerStateEntry 6 l) s = execPowerStateEntry 6 l s from rfl).trans ?_
  unfold execPowerStateEntry
  dsimp only
  rw [h6, if_neg (by rw [ht]; omega), if_neg (by decide)]
  rfl

theorem deepest_second {s : State} {a b l : Nat} (h : l = b ∨ l = a) (hl : wakeLatency l ≤ s.dev.ltol)
    (hb : l = b → s.dev.ltol < wakeLatency a) : deepest s [a, b] = l := by
  unfold deepest
  rcases h with rfl | rfl
  · rw [List.find?_cons_of_neg (by simpa using hb rfl), List.find?_cons_of_pos (by simpa using hl)]
    rfl
  · rw [List.find?_cons_of_pos (by simpa using hl)]
    rfl

theorem powerTarget_die {s : State} {d l : Nat} (hd : d < 6) (hdeep : deepest s [2, 1] = l) (hp : (dieAt s d).pstate < l)
    (hi : dieIdle s d = true) (hh : 2250 * wakeLatency l ≤ (dieAt s d).idle) : powerTarget s d = l := by
  unfold powerTarget
  rw [if_pos hd]
  dsimp only
  rw [hdeep, decide_eq_true hp, hi, heldFor, decide_eq_true hh]
  rfl

theorem powerTarget_package {s : State} {l : Nat} (hdeep : deepest s [4, 3] = l) (h0 : s.dev.plim ≠ 0) (hp : s.dev.pkg < l)
    (hi : packageIdle s = true) (hh : 2250 * wakeLatency l ≤ s.dev.quiet) : powerTarget s 6 = l := by
  unfold powerTarget
  rw [if_neg (by decide), if_neg h0]
  dsimp only
  rw [hdeep, decide_eq_true hp, hi, heldFor, decide_eq_true hh]
  rfl

/-! ## Poison (R423) -/

theorem mem_setAdd {l : List Nat} {k x : Nat} : x ∈ setAdd l k ↔ x = k ∨ x ∈ l := by
  induction l with
  | nil => simp [setAdd]
  | cons j l ih =>
    unfold setAdd
    split
    · next h => subst h; simp
    · split
      · simp
      · rw [List.mem_cons, ih, List.mem_cons]
        exact ⟨fun h => by tauto, fun h => by tauto⟩

/-- The unit at a location is poisoned and the core that it lies in is fenced (R423, R449). -/
def poisonedAt (s : State) (l : Nat) : State :=
  match coreOfLoc l with
  | some c => onCore { s with poison := setAdd s.poison (checkUnit l).1 } c (fun k => { k with fenced := true })
  | none => { s with poison := setAdd s.poison (checkUnit l).1 }

theorem poisonedAt_spec (s : State) (l : Nat) : (poisonedAt s l).mem = s.mem ∧
    (poisonedAt s l).poison = setAdd s.poison (checkUnit l).1 ∧ ∀ c, coreOfLoc l = some c → (coreAt (poisonedAt s l) c).fenced = true := by
  unfold poisonedAt
  cases coreOfLoc l with
  | none => exact ⟨rfl, rfl, fun c h => by cases h⟩
  | some c =>
    refine ⟨rfl, rfl, fun c' h => ?_⟩
    cases h
    dsimp only
    rw [coreAt_onCore_same]

/-! ## The statement -/

/-- A cluster as the firmware leaves it (R363). -/
def resetCluster (k : Nat) : Cluster := { Cluster.reset with master := appointed k }

section
variable {s : State} {m : BitVec 2} {ver : BitVec 16} {v : List Byte}

/-- What follows the acceptance of each image (R363). -/
theorem imageRuns_spec (hm : m = 0 ∧ s.dev.stage = 1 ∨ m = 1 ∧ s.dev.stage = 2 ∨ m = 2 ∧ 2 ≤ s.dev.stage) :
    let t := imageRuns { s with sec := withImage s m.toNat ver.toNat v } m.toNat
    t.dev.stage = (if m = 0 then 2 else if m = 1 then 3 else s.dev.stage) ∧ nth t.sec.versions m.toNat = ver.toNat ∧
    t.sec.measures.getD m.toNat [] = sha384 v ∧ t.cores = s.cores ∧ (m ≠ 0 → t.mem = s.mem) ∧
    (m = 0 → t.mem = ⟨[], []⟩ ∧ t.cycle = 0 ∧
      ∀ c, c < 36 → (clusterAt t c).master = (List.range 48).find? (fun k => Config.selfTest (48 * c + k))) := by
  rcases hm with ⟨rfl, -⟩ | ⟨rfl, -⟩ | ⟨rfl, -⟩
  · obtain ⟨h1, h2⟩ := withImage_values s (i := 0) (by decide) ver.toNat v
    exact ⟨rfl, h1, h2, rfl, fun h => absurd rfl h, fun _ => ⟨rfl, rfl, fun c hc => congrArg Cluster.master
      (tabGet_range_map Cluster.reset resetCluster hc)⟩⟩
  · obtain ⟨h1, h2⟩ := withImage_values s (i := 1) (by decide) ver.toNat v
    exact ⟨rfl, h1, h2, rfl, fun _ => rfl, fun h => absurd h (by decide)⟩
  · obtain ⟨h1, h2⟩ := withImage_values s (i := 2) (by decide) ver.toNat v
    exact ⟨rfl, h1, h2, rfl, fun _ => rfl, fun h => absurd h (by decide)⟩

end

/-- The pools of a unit without those that hold a tile of a list (R449). -/
theorem pool_invalid (l : List Tile) (t : Tab Pool) {k : Nat} (h : l.any (fun x => x.pool == k) = true) :
    (tabGet Pool.none (t.map (fun p => if l.any (fun x => x.pool == p.1) then (p.1, { p.2 with valid := false }) else p)) k).valid = false := by
  have hk (p : Nat × Pool) : (if l.any (fun x => x.pool == p.1) then (p.1, { p.2 with valid := false }) else p).1 = p.1 := by
    split <;> rfl
  rcases tabGet_map Pool.none t _ hk k with he | ⟨v, -, -, he⟩
  · rw [he]
    rfl
  · rw [he, if_pos h]

/-- The state once the jobs of a unit's tiles are ended (R449). -/
def tilesEnded (s : State) (n : Nat) (y : BitVec 64) : State :=
  killJobs (logPlain s 0xC6 3 n y.toNat) 0xC6 (((unitAt s n).tiles.map (·.job)).eraseDups)

theorem tilesEnded_rest (s : State) (n : Nat) (y : BitVec 64) : (tilesEnded s n y).cores = s.cores ∧
    unitAt (tilesEnded s n y) n = unitAt s n := by
  unfold tilesEnded
  rw [killJobs_rest, logPlain_rest]
  exact ⟨rfl, rfl⟩

theorem tilesEnded_killed {s : State} {n : Nat} (y : BitVec 64) {j : Tile} (hj : j ∈ (unitAt s n).tiles) :
    (jobAt (tilesEnded s n y) j.job).killed = true :=
  killed_killJobs _ (.inl (List.mem_eraseDups.mpr (List.mem_map_of_mem hj)))

/-- Settles O56: each event of the package, its record apart from what it changes. -/
theorem powerAndErrors : Obligations.PowerAndErrors := by
  intro s
  refine ⟨?_, ?_, ?_, ?_, fun h0 hp => ?_, fun d hd hp => ?_, fun hp h0 => ?_, fun d hd => ⟨fun hh => ?_, fun h hh h16 => ?_, ?_, ?_⟩,
    ?_, fun code j hj hph => ?_, fun l y => ?_, fun c hc n y => ?_, ?_, fun h ad hr => ?_, fun n y => ?_⟩
  · rintro i (rfl | rfl)
    · exact ⟨afterReset s, rfl, rfl, rfl, rfl, rfl, rfl, fun k => rfl⟩
    · exact ⟨afterReset s, rfl, rfl, rfl, rfl, rfl, rfl, fun k => rfl⟩
  · intro m ver key hdr body sig hf hst hb
    cases hg : imageGood s ver.toNat key hdr body sig with
    | false => exact ⟨s, image_refused hf hst hb hg, fun _ => rfl, fun h => (Bool.false_ne_true h).elim⟩
    | true => exact ⟨_, image_accepted hf hst hb hg, fun h => (Bool.false_ne_true h.symm).elim, fun _ => imageRuns_spec hst⟩
  · intro d l hd hl hi hlat h1 hidle hp
    have hl' : l.toNat = 1 ∨ l.toNat = 2 := by rcases hl with rfl | rfl <;> decide
    have hne : l.toNat ≠ 0 := by omega
    have hdeep := deepest_second hl' hlat fun e => h1 (BitVec.eq_of_toNat_eq e)
    exact ⟨_, die_enters hd hne (powerTarget_die hd hdeep hp hi hidle), dieAt_onDie_same _ _ _, fun x hx => dieAt_onDie_ne _ _ hx, rfl⟩
  · intro l hl h0 hi hlat h3 hq hp
    have hl' : l.toNat = 3 ∨ l.toNat = 4 := by rcases hl with rfl | rfl <;> decide
    have hne : l.toNat ≠ 0 := by omega
    exact package_enters hne (powerTarget_package (deepest_second hl' hlat fun e => h3 (BitVec.eq_of_toNat_eq e)) h0 hp hi hq)
  · refine package_enters (l := 4) (by decide) ?_
    unfold powerTarget
    rw [if_neg (by decide), if_pos h0, if_pos hp]
    rfl
  · refine ⟨wakeDie s (288 * d.toNat), ?_, ?_, rfl⟩
    · refine (show exec (.powerWake d) s = execPowerWake d s from rfl).trans ?_
      unfold execPowerWake
      dsimp only
      rw [if_pos hd, if_neg hp]
    · unfold wakeDie
      rw [Nat.mul_div_cancel_left _ (by decide), dieAt_onDie_same]
  · refine (show exec (.powerWake 6) s = execPowerWake 6 s from rfl).trans ?_
    have h6 : (6 : BitVec 3).toNat = 6 := rfl
    unfold execPowerWake
    dsimp only
    rw [h6, if_neg (by decide), if_pos ⟨rfl, hp, h0⟩, wakePackage, if_neg h0]
  · refine ⟨enterHold s d.toNat, ?_, dieAt_onDie_same _ _ _, rfl⟩
    refine (show exec (.thermalHoldEntry d) s = execThermalHoldEntry d s from rfl).trans ?_
    unfold execThermalHoldEntry
    dsimp only
    rw [hh, if_neg (by rintro (h | h); exacts [absurd hd (Nat.not_lt.mpr h), absurd h (by decide)])]
  · refine ⟨onDie s d.toNat (fun k => { k with thead := h.toNat, hold := false }), ?_, dieAt_onDie_same _ _ _, rfl⟩
    refine (show exec (.thermalHoldExit d h) s = execThermalHoldExit d h s from rfl).trans ?_
    unfold execThermalHoldExit
    dsimp only
    rw [hh, if_neg (by rintro (h | h | h); exacts [absurd hd (Nat.not_lt.mpr h), absurd h (by decide), absurd h16 (Nat.not_le.mpr h)])]
    rfl
  · exact if_neg (Nat.not_le.mpr hd)
  · refine ⟨onDie s d.toNat (fun k => { k with ecnt := sat48 ((dieAt s d.toNat).ecnt + 1) }), ?_, dieAt_onDie_same _ _ _, rfl⟩
    refine (show exec (.correctableError d) s = execCorrectableError d s from rfl).trans ?_
    unfold execCorrectableError
    dsimp only
    rw [if_neg (Nat.not_le.mpr hd)]
    simp only [Bool.and_eq_true, bne_iff_ne, beq_iff_eq, and_assoc]
    rfl
  · rintro i (rfl | rfl) <;> rfl
  · rw [killAll_jobs]
    refine killed_killJobs s (.inl (List.mem_map.mpr ⟨j, List.mem_filter.mpr ⟨hj, ?_⟩, rfl⟩))
    simpa using hph
  · obtain ⟨h1, h2, h3⟩ := poisonedAt_spec s l
    refine ⟨poisonedAt s l, ?_, h1, fun x => by rw [h2, mem_setAdd], h3⟩
    refine (show exec (.patrolPoison l y) s = execPatrolPoison l y s from rfl).trans ?_
    unfold execPatrolPoison poisonedAt
    cases coreOfLoc l <;> rfl
  · have hc' : [0xC7, 0xC8, 0xCB, 0xCC].contains c.toNat = true := by
      simp only [List.mem_cons, List.not_mem_nil, or_false] at hc
      rcases hc with rfl | rfl | rfl | rfl <;> decide
    refine ⟨{ killAll (logPlain s c.toNat 5 n.toNat y.toNat) c.toNat with fatal := some c.toNat }, ?_, rfl, rfl⟩
    refine (show exec (.deviceFatalError c n y) s = execDeviceFatalError c n y s from rfl).trans ?_
    unfold execDeviceFatalError
    dsimp only
    rw [hc']
    rfl
  · refine ⟨_, rfl, ?_, ?_, ?_⟩
    all_goals rw [logPlain_rest]
  · obtain ⟨h1, h2, h3⟩ := onlyHart s h.toNat (fun t => t.trap (accessFault (ad.toNat / 2 ^ 36)) (ad.toNat % 2 ^ 36))
    refine ⟨refuseHart s h.toNat (ad.toNat / 2 ^ 36) (ad.toNat % 2 ^ 36), ?_, h1, h3, h2⟩
    refine (show exec (.toolCacheError h ad) s = execToolCacheError h ad s from rfl).trans ?_
    unfold execToolCacheError
    rw [hr]
    rfl
  · obtain ⟨h1, h2⟩ := tilesEnded_rest s n y
    refine ⟨_, rfl, fun j hj => tilesEnded_killed y hj, h1, fun j hj => ?_⟩
    have hany : (unitAt s n).tiles.any (fun t => t.pool == j.pool) = true := List.any_eq_true.mpr ⟨j, hj, beq_self_eq_true _⟩
    unfold poolAt
    rw [unitAt_onUnit_same]
    exact pool_invalid _ _ hany

end Sys2Proof.Machine
end

section
/-! The far tier's ports, the spans of Kalwick and remote accesses (R315 to R322, R454 to R456, R459, R462). -/

namespace Sys2Proof.Machine

theorem setNth_eq_set {α : Type} (l : List α) (i : Nat) (v : α) : setNth l i v = l.set i v := by
  induction l generalizing i with
  | nil => rfl
  | cons x l ih => cases i <;> simp [setNth, ih]

/-! ## Spans and their replay stores (R316, R454, R455) -/

/-- A flit that is sent again (R454). -/
def Flit.again (now : Nat) (f : Flit) : Flit := { f with sent := now, resends := f.resends + 1 }

/-- The state u differs from s in span p alone, which is f. -/
def SpanOnly (s u : State) (p : Nat) (f : Span) : Prop :=
  spanAt u p = f ∧ (∀ x, x ≠ p → spanAt u x = spanAt s x) ∧ { u with spans := [] } = { s with spans := [] }

theorem SpanOnly.onSpan (s : State) (p : Nat) (f : Span → Span) : SpanOnly s (onSpan s p f) p (f (spanAt s p)) :=
  ⟨spanAt_onSpan_same s p f, fun _ h => spanAt_onSpan_ne s f h, rfl⟩

section
variable {s : State} {p : Nat} {l1 l2 : List Flit} (hr : (spanAt s p).replay = l1 ++ l2)
include hr

theorem resendFrom_again (h : ∀ f, f ∈ l2 → f.resends < 16) : resendFrom s p l1.length =
    countRetry (onSpan s p (fun k => { k with replay := l1 ++ l2.map (Flit.again s.cycle) })) p := by
  have hn : (l2.any fun f => decide (16 ≤ f.resends)) = false := by simpa using h
  simp only [resendFrom, hr, List.drop_left, hn, Bool.false_eq_true, if_false]
  simp only [onSpan, hr, List.drop_left, List.take_left]
  all_goals rfl

theorem resendFrom_down (h : ∃ f, f ∈ l2 ∧ 16 ≤ f.resends) : resendFrom s p l1.length = spanDown s p := by
  have hn : (l2.any fun f => decide (16 ≤ f.resends)) = true := by simpa using h
  simp only [resendFrom, hr, List.drop_left, hn, if_true]

/-- What a resend of the flits l2 is, whatever asks for it. -/
theorem resends_of {i : Instr} (he : exec i s = .next (resendFrom s p l1.length)) :
    ((∀ f, f ∈ l2 → f.resends < 16) → ∃ u, SpanOnly s u p { spanAt s p with replay := l1 ++ l2.map (Flit.again s.cycle) } ∧
      exec i s = .next (countRetry u p)) ∧
    ((∃ f, f ∈ l2 ∧ 16 ≤ f.resends) → exec i s = .next (spanDown s p)) :=
  ⟨fun h => ⟨_, .onSpan s p _, he.trans (congrArg _ (resendFrom_again hr h))⟩, fun h => he.trans (congrArg _ (resendFrom_down hr h))⟩

end

section
variable {s : State} {p : BitVec 5} (hp : p.toNat < 24) (hup : (spanAt s p.toNat).up = true)
include hp hup

theorem receive_open : ¬(spanCount ≤ p.toNat ∨ (!(spanAt s p.toNat).up) = true) := by
  simp [hup, spanCount, hp]

theorem receive_damaged (q : BitVec 32) : exec (.flitReceive p q 1) s = .next (countRetry s p.toNat) :=
  (if_neg (receive_open hp hup)).trans (if_pos rfl)

theorem receive_accepted {q : BitVec 32} (h : q.toNat = (spanAt s p.toNat).expect % 2 ^ 32) : exec (.flitReceive p q 0) s =
    .next { onSpan s p.toNat (fun k => { k with expect := k.expect + 1 }) with inbound := s.inbound + 1 } :=
  ((if_neg (receive_open hp hup)).trans (if_neg (by decide))).trans ((if_neg (by decide)).trans (if_pos h))

theorem receive_again {q : BitVec 32} (h : q.toNat ≠ (spanAt s p.toNat).expect % 2 ^ 32) : exec (.flitReceive p q 0) s = .next s :=
  ((if_neg (receive_open hp hup)).trans (if_neg (by decide))).trans ((if_neg (by decide)).trans (if_neg h))

theorem receive_request (q : BitVec 32) : exec (.flitReceive p q 2) s =
    match (spanAt s p.toNat).replay.findIdx? (fun f => f.seq % 2 ^ 32 == q.toNat) with
    | some i => .next (resendFrom s p.toNat i)
    | none => .next s :=
  ((if_neg (receive_open hp hup)).trans (if_neg (by decide))).trans (if_pos (by decide))

theorem receive_resend {q : BitVec 32} {l1 l2 : List Flit} {f : Flit} (hr : (spanAt s p.toNat).replay = l1 ++ f :: l2)
    (hf : f.seq % 2 ^ 32 = q.toNat) (h1 : ∀ x, x ∈ l1 → x.seq % 2 ^ 32 ≠ q.toNat) :
    exec (.flitReceive p q 2) s = .next (resendFrom s p.toNat l1.length) := by
  have hi : (spanAt s p.toNat).replay.findIdx? (fun f => f.seq % 2 ^ 32 == q.toNat) = some l1.length := by
    rw [hr, List.findIdx?_append, List.findIdx?_eq_none_iff.2 (by simpa using h1)]
    simp [List.findIdx?_cons, ← hf]
  rw [receive_request hp hup, hi]

theorem receive_unknown {q : BitVec 32} (h : ∀ x, x ∈ (spanAt s p.toNat).replay → x.seq % 2 ^ 32 ≠ q.toNat) :
    exec (.flitReceive p q 2) s = .next s := by
  rw [receive_request hp hup, List.findIdx?_eq_none_iff.2 (by simpa using h)]

end

theorem ack_timeout {s : State} {p : BitVec 5} (hup : (spanAt s p.toNat).up = true)
    (h : ∃ f, (spanAt s p.toNat).replay.head? = some f ∧ f.sent + 16384 ≤ s.cycle) :
    exec (.flitAckTimeout p) s = .next (resendFrom s p.toNat 0) := by
  obtain ⟨f, hf, hs⟩ := h
  have hl : flitLate s.cycle (spanAt s p.toNat) = true := by simp [flitLate, hf, hs]
  exact if_neg (by simp [hup, hl])

/-- A span whose flit q is acknowledged (R316). -/
def dropFlit (q : Nat) (k : Span) : Span := { k with replay := k.replay.filter (fun f => f.seq % 2 ^ 32 != q) }

theorem flit_acked {s : State} {p : BitVec 5} {q : BitVec 32}
    (h : ∃ f, f ∈ (spanAt s p.toNat).replay ∧ f.seq % 2 ^ 32 = q.toNat) : exec (.flitAck p q) s =
    .next (settleRoutes (onSpan s p.toNat (dropFlit q.toNat))) := by
  obtain ⟨f, hf, hq⟩ := h
  have ha : (spanAt s p.toNat).replay.any (fun f => f.seq % 2 ^ 32 == q.toNat) = true :=
    List.any_eq_true.2 ⟨f, hf, beq_iff_eq.2 hq⟩
  exact if_neg (by rw [ha]; decide)

theorem span_trained {s : State} {p : BitVec 5} (hp : p.toNat < 24) (hup : (spanAt s p.toNat).up = false) (full : BitVec 1) :
    ∃ u, spanAt u p.toNat = { spanAt s p.toNat with up := true, full := full == 1 } ∧
      (∀ x, x ≠ p.toNat → spanAt u x = spanAt s x) ∧ { u with spans := [], absent := [] } = { s with spans := [], absent := [] } ∧
      exec (.spanUp p full) s = .next (if full = 0 then logPlain u 0xBA 0 p.toNat 0 else u) := by
  have hn : ¬(spanCount ≤ p.toNat ∨ (spanAt s p.toNat).up = true) := by simp [hup, spanCount, hp]
  refine ⟨_, ?_, ?_, ?_, if_neg hn⟩
  · exact spanAt_onSpan_same s p.toNat (fun k => { k with up := true, full := full == 1 })
  · exact fun x hx => spanAt_onSpan_ne s (fun k => { k with up := true, full := full == 1 }) hx
  · rfl

/-- The state in which a span's retry is counted, before the record of too many. -/
theorem countRetry_counts (s : State) (p : Nat) : (countRetry s p).cores = s.cores ∧
    (spanAt (countRetry s p) p).retries = if 2 ^ 24 ≤ s.cycle - (spanAt s p).since then 1 else (spanAt s p).retries + 1 := by
  have hl (n : Nat) (u : State) : (if n = 1025 then logPlain u 0xBB 0 p 0 else u).cores = u.cores ∧
      spanAt (if n = 1025 then logPlain u 0xBB 0 p 0 else u) p = spanAt u p := by
    by_cases h : n = 1025
    · rw [if_pos h, logPlain_rest]
      exact ⟨rfl, rfl⟩
    · rw [if_neg h]
      exact ⟨rfl, rfl⟩
  refine ⟨(hl _ _).1, (congrArg Span.retries ((hl _ _).2.trans (spanAt_onSpan_same _ _ _))).trans ?_⟩
  simp only [decide_eq_true_eq]

section
variable {s : State} {p r : Nat} (hs : spanOn s r = some p)
include hs

theorem sendOn_span (cl n : Nat) : sendOn s cl r n =
    onSpan s p (fun k => { k with next := k.next + 1, replay := k.replay ++ [⟨k.next, cl, r, n, s.cycle, 0⟩] }) := by
  simp only [sendOn, hs]

theorem post_waits (cl n : Nat) (h : 256 ≤ (spanAt s p).replay.length) :
    post s cl r n = { s with outbox := s.outbox ++ [⟨cl, r, n⟩] } := by
  have hroom : spanRoom s r 1 = false := by
    simp only [spanRoom, storeRoom, hs, Bool.and_eq_false_iff, decide_eq_false_iff_not]
    omega
  exact if_neg (by simp [hroom])

end

/-! ## Accesses performed at home (R319, R322) -/

theorem homeLocs_noRoot {s : State} {x va n : Nat} {wr : Bool} (h : (ctxAt s x).ptroot = 0) : homeLocs s x va n wr = none := if_pos h

theorem homeLocs_unmapped {s : State} {x va n : Nat} {wr : Bool} (h0 : (ctxAt s x).ptroot ≠ 0) {q : Nat × Nat}
    (hq : q ∈ pageCuts va n) (h : ∀ l, translateFlat s x q.1 wr ≠ .ok (l, false)) : homeLocs s x va n wr = none := by
  refine (if_neg h0).trans (if_neg ?_)
  simp only [List.all_map, List.all_eq_true, Function.comp_apply, not_forall]
  refine ⟨q, hq, ?_⟩
  split
  next l hl => exact absurd hl (h l)
  next => simp

theorem homeLocs_one {s : State} {x va n l : Nat} {wr : Bool} (h0 : (ctxAt s x).ptroot ≠ 0)
    (hc : pageCuts va n = [(va, n)]) (h : translateFlat s x va wr = .ok (l, false)) : homeLocs s x va n wr = some [(l, n)] := by
  refine (if_neg h0).trans ?_
  simp [hc, h]

section
variable {s : State} {x : BitVec 18} {k : BitVec 4} {va : BitVec 52} {z : BitVec 8} {v : BitVec 1920} {c : BitVec 64}
  (hi : s.inbound ≠ 0) (hw : s.dev.pkg < 3 ∨ s.dev.plim ≠ 0)
include hi hw

theorem home_eq : exec (.remoteAccessHome x k va z v c) s =
    match homeLocs (wakePackage { s with inbound := s.inbound - 1 }) (x.toNat % 16) va.toNat z.toNat (!remoteReads k.toNat) with
    | some l => .next (answer (performHome (wakePackage { s with inbound := s.inbound - 1 }) k.toNat z.toNat v.toNat c.toNat l)
        (x.toNat / 16) (if k.toNat = 1 then 0 else z.toNat))
    | none => .next (answer (wakePackage { s with inbound := s.inbound - 1 }) (x.toNat / 16) 0) := by
  refine (if_neg hi).trans ?_
  rw [access_wakes (s := { s with inbound := s.inbound - 1 }) hw]
  all_goals rfl

theorem home_fails (h : homeLocs (wakePackage { s with inbound := s.inbound - 1 }) (x.toNat % 16) va.toNat z.toNat
    (!remoteReads k.toNat) = none) : exec (.remoteAccessHome x k va z v c) s =
    .next (answer (wakePackage { s with inbound := s.inbound - 1 }) (x.toNat / 16) 0) := by
  rw [home_eq hi hw, h]

theorem home_performs {l : List (Nat × Nat)} (h : homeLocs (wakePackage { s with inbound := s.inbound - 1 }) (x.toNat % 16) va.toNat z.toNat
    (!remoteReads k.toNat) = some l) : exec (.remoteAccessHome x k va z v c) s =
    .next (answer (performHome (wakePackage { s with inbound := s.inbound - 1 }) k.toNat z.toNat v.toNat c.toNat l)
      (x.toNat / 16) (if k.toNat = 1 then 0 else z.toNat)) := by
  rw [home_eq hi hw, h]

end

theorem remoteReads_iff (k : BitVec 4) : remoteReads k.toNat = true ↔ k = 0 ∨ k = 14 ∨ k = 15 := by
  revert k
  decide

theorem performHome_read {s : State} {k : Nat} (n v c : Nat) (l : List (Nat × Nat)) (h : remoteReads k = true) :
    performHome s k n v c l = s := if_pos h

theorem performHome_write (s : State) (n v c l : Nat) : performHome s 1 n v c [(l, n)] = storeNat s l n v := by
  have ht : (leBytes n v).take n = leBytes n v := List.take_of_length_le (by simp)
  simp only [performHome, remoteReads, writeLocs, ht]
  all_goals rfl

theorem performHome_atomic {s : State} {k : Nat} (n v c l : Nat) (hr : remoteReads k = false) (h1 : k ≠ 1) :
    performHome s k n v c [(l, n)] =
      storeNat s l n (atomFn k (8 * n) (leNat (loadN s l n)) (v % 2 ^ (8 * n)) (c % 2 ^ (8 * n))) :=
  (if_neg (by simp [hr])).trans (if_neg h1)

/-! ## Answers to remote accesses (R321, R456) -/

/-- The state without a remote access, n flits taken. -/
def lessRemote (s : State) (r : Remote) (n : Nat) : State :=
  { s with inbound := s.inbound - n, remotes := s.remotes.filter (fun q => q.id != r.id) }

/-- A strand whose remote access has failed (R428, R456). -/
def failedRemote (r : Remote) (c : Cause) (t : Strand) : Strand :=
  { t with
    sb := if r.queue.isNone then t.sb.filter (fun b => b.id != r.sbId) else t.sb
    asyncs := t.asyncs ++ [⟨c, false, 0, 0, r.word, r.pc, 2⟩] }

/-- What a remote access that fails with a code does, when its event fails it in the state without it (R456). -/
theorem remote_fails {s : State} {r : Remote} {n code home : Nat} {i : Instr}
    (he : exec i s = .next (failRemote (lessRemote s r n) r code home)) :
    (1728 ≤ r.core → exec i s = .next { lessRemote s r n with hostData := none, hostEnd := .completerAbort }) ∧
    (r.core < 1728 → ∀ e, remoteEntry s r = some e → exec i s = .next (failEntry (lessRemote s r n) r.core e
      (match e.op with | .mdrain 1 _ ch _ _ => ⟨0xA7, ch, 0, 0⟩ | _ => remoteCause s r code home))) ∧
    (r.core < 1728 → remoteEntry s r = none → (strandAt s ⟨r.core, r.sx⟩).task = none → exec i s = .next (lessRemote s r n)) ∧
    (r.core < 1728 → remoteEntry s r = none → (strandAt s ⟨r.core, r.sx⟩).task.isSome = true → Runs i s fun t =>
      Alone (lessRemote s r n) t ⟨r.core, r.sx⟩ ∧ strandAt t ⟨r.core, r.sx⟩ = { strandAt s ⟨r.core, r.sx⟩ with
        sb := if r.queue = none then (strandAt s ⟨r.core, r.sx⟩).sb.filter (fun b => b.id != r.sbId) else (strandAt s ⟨r.core, r.sx⟩).sb
        asyncs := (strandAt s ⟨r.core, r.sx⟩).asyncs ++ [⟨remoteCause s r code home, false, 0, 0, r.word, r.pc, 2⟩] }) := by
  have hent : remoteEntry (lessRemote s r n) r = remoteEntry s r := rfl
  have hst : strandAt (lessRemote s r n) ⟨r.core, r.sx⟩ = strandAt s ⟨r.core, r.sx⟩ := rfl
  refine ⟨fun hc => ?_, fun hc e hre => ?_, fun hc hre ht => ?_, fun hc hre ht => ?_⟩
  · exact he.trans (congrArg _ (if_pos hc))
  · refine he.trans (congrArg _ ((if_neg (Nat.not_le.2 hc)).trans ?_))
    rw [hent, hre]
    all_goals rfl
  · refine he.trans (congrArg _ ((if_neg (Nat.not_le.2 hc)).trans ?_))
    rw [hent, hre]
    exact if_pos (by rw [hst, ht]; rfl)
  · refine ⟨onStrand (lessRemote s r n) ⟨r.core, r.sx⟩ (failedRemote r (remoteCause s r code home)),
      he.trans (congrArg _ ((if_neg (Nat.not_le.2 hc)).trans ?_)), Alone.strand _ _ _, ?_⟩
    · rw [hent, hre]
      exact if_neg (by rw [hst, Option.isNone_iff_eq_none]; intro e; rw [e] at ht; exact absurd ht (by decide))
    · rw [strandAt_onStrand_same]
      simp only [hst, failedRemote, Option.isNone_iff_eq_none]

section
variable {s : State} {r : Remote} (hr : s.remotes.find? (fun q => q.id == r.id) = some r)
include hr

theorem taken_remote : takeRemote s r.id = some (lessRemote s r 0, r) := by
  simp only [takeRemote, hr]
  all_goals rfl

theorem timeout_fails (hd : remoteDead s r = true) :
    exec (.remoteAccessTimeout r.id) s = .next (failRemote (lessRemote s r 0) r 0x3B 0) := by
  show execRemoteAccessTimeout r.id s = _
  rw [execRemoteAccessTimeout, taken_remote hr]
  exact if_pos hd

theorem response_eq (hi : s.inbound ≠ 0) {c : BitVec 8} (hc : c ∈ ([0, 0x39, 0x3A, 0x3F, 0xA5] : List (BitVec 8))) (v : BitVec 1920) :
    exec (.remoteResponse r.id c v) s = if c = 0 then .next (deliverRemote (lessRemote s r 1) r v.toNat)
      else .next (failRemote (lessRemote s r 1) r c.toNat (v.toNat % 2 ^ 64)) := by
  have hn : ¬(s.inbound = 0 ∨ (!([0, 0x39, 0x3A, 0x3F, 0xA5].contains c.toNat)) = true) := by
    have : ([0, 0x39, 0x3A, 0x3F, 0xA5].contains c.toNat) = true := by
      revert c
      decide
    simp only [this, hi, Bool.not_true, Bool.false_eq_true, or_self, not_false_iff]
  refine (if_neg hn).trans ?_
  have ht := taken_remote (s := { s with inbound := s.inbound - 1 }) hr
  simp only [ht]
  all_goals rfl

end

theorem response_dropped {s : State} {id : Nat} {c : BitVec 8} (hi : s.inbound ≠ 0)
    (hc : c ∈ ([0, 0x39, 0x3A, 0x3F, 0xA5] : List (BitVec 8))) (h : ∀ r, r ∈ s.remotes → r.id ≠ id) (v : BitVec 1920) :
    exec (.remoteResponse id c v) s = .next { s with inbound := s.inbound - 1 } := by
  have hn : ¬(s.inbound = 0 ∨ (!([0, 0x39, 0x3A, 0x3F, 0xA5].contains c.toNat)) = true) := by
    have : ([0, 0x39, 0x3A, 0x3F, 0xA5].contains c.toNat) = true := by
      revert c
      decide
    simp only [this, hi, Bool.not_true, Bool.false_eq_true, or_self, not_false_iff]
  refine (if_neg hn).trans ?_
  have hf : s.remotes.find? (fun r => r.id == id) = none := List.find?_eq_none.2 (by simpa using h)
  simp only [takeRemote, hf]
  all_goals rfl

theorem remoteValue_small {r : Remote} (h : r.size ≤ 8) (v : Nat) : remoteValue r v = BitVec.ofNat 64 (v % 2 ^ (8 * r.size)) := by
  have h8 : ¬8 < r.size := by omega
  simp [remoteValue, h8, extend]

section
variable {s : State} {r : Remote} (hc : r.core < 1728)
include hc

theorem deliver_entry (hq : r.queue ≠ none) {e : Entry} (he : remoteEntry s r = some e) (hk : r.kind = 0) {v : Nat} :
    deliverRemote (lessRemote s r 1) r v = putEntry (lessRemote s r 1) r.core
      { e with prog := { e.prog with taken := e.prog.taken ++ [(remoteKey r.va, leBytes r.size v)] } } := by
  have hent : remoteEntry (lessRemote s r 1) r = some e := he
  obtain ⟨q, hq⟩ := Option.ne_none_iff_exists'.1 hq
  refine (if_neg (Nat.not_le.2 hc)).trans ?_
  simp only [hq, hent, hk, if_true]

theorem deliver_none (hq : r.queue ≠ none) (h : remoteEntry s r = none ∨ r.kind ≠ 0) {v : Nat} :
    deliverRemote (lessRemote s r 1) r v = lessRemote s r 1 := by
  have hent : remoteEntry (lessRemote s r 1) r = remoteEntry s r := rfl
  obtain ⟨q, hq⟩ := Option.ne_none_iff_exists'.1 hq
  refine (if_neg (Nat.not_le.2 hc)).trans ?_
  rw [hent]
  simp only [hq]
  obtain h | h := h
  · simp only [h]
  · cases remoteEntry s r with
    | none => rfl
    | some e => exact if_neg h

/-- A word of a WAITC or of program is granted to its strand under the key of its pc or of its address (R319). -/
theorem deliver_grant (hq : r.queue = none) (hk : r.kind = 14 ∨ r.kind = 15) {v : Nat} :
    deliverRemote (lessRemote s r 1) r v = onStrand (lessRemote s r 1) ⟨r.core, r.sx⟩ (fun t => { t with grant := t.grant ++
      [(if r.kind = 14 then 2 * t.pc.toNat + 1 else fetchKey r.va, BitVec.ofNat 64 v)] }) := by
  refine (if_neg (Nat.not_le.2 hc)).trans ?_
  obtain hk | hk := hk <;> simp only [hq, hk] <;> rfl

theorem deliver_load (hq : r.queue = none) (h14 : r.kind ≠ 14) (h15 : r.kind ≠ 15) {v : Nat} :
    deliverRemote (lessRemote s r 1) r v = onStrand (lessRemote s r 1) ⟨r.core, r.sx⟩ (fun t => { t with sb := t.sb.map (fun b =>
      if b.id = r.sbId then { b with val := some (remoteValue r v) } else b) }) := by
  refine (if_neg (Nat.not_le.2 hc)).trans ?_
  simp only [hq, h14, h15, if_false]

end

/-- Settles O57. -/
theorem portsAndSpans : Obligations.PortsAndSpans := by
  intro s
  refine ⟨fun p hl => ⟨fun h => ?_, fun h hs => ?_⟩, fun p hp => ⟨fun hup q => ⟨fun hq => ?_, fun hq => ?_, ?_, fun l1 f l2 hr hf h1 => ?_, fun h => ?_⟩,
    fun hup h => ?_, fun q h => ?_, fun hup full => ?_, ⟨?_, fun h => ?_, fun h => ?_⟩, fun cl r n hs => ⟨?_, fun h => ?_, fun h => ?_⟩⟩,
    fun c v hc => ?_, fun x k va z v c hm hi hw => ⟨fun h0 => ?_, fun h0 h => ?_, fun l h0 hc => ⟨fun hr ht => ?_, fun hr ht => ⟨fun h1 => ?_, fun h1 => ?_⟩⟩⟩,
    fun r hr => ⟨?_, fun hd => ?_, fun v hi => ⟨fun c hc => ?_, fun hc => ?_, fun hc hq => ⟨fun e he hk => ?_, fun h => ?_⟩,
      fun hc hq => ⟨fun hk => ?_, fun h14 h15 => ?_⟩, fun hz => ?_⟩⟩, fun id c v hi hc h => ?_⟩
  · refine ⟨_, if_neg (by rw [h]; decide), ?_⟩
    rw [setNth_eq_set]
  · refine (if_neg (by rw [h]; simpa using hs)).trans ?_
    rw [setNth_eq_set]
  · exact ⟨_, receive_accepted hp hup hq, rfl, SpanOnly.onSpan s p.toNat (fun k => { k with expect := k.expect + 1 })⟩
  · exact receive_again hp hup hq
  · exact receive_damaged hp hup q
  · exact resends_of hr (receive_resend hp hup hr hf h1)
  · exact receive_unknown hp hup h
  · exact resends_of (l1 := []) rfl (ack_timeout hup h)
  · exact ⟨_, flit_acked h, spanAt_onSpan_same s p.toNat (dropFlit q.toNat), fun x hx => spanAt_onSpan_ne s (dropFlit q.toNat) hx, rfl⟩
  · exact span_trained hp hup full
  · exact (countRetry_counts s p.toNat).1
  · exact (countRetry_counts s p.toNat).2.trans (if_pos h)
  · exact (countRetry_counts s p.toNat).2.trans (if_neg (Nat.not_le.2 h))
  · rw [sendOn_span hs]
    exact SpanOnly.onSpan s p.toNat _
  · exact if_pos h
  · exact post_waits hs cl n h
  · simp only [List.mem_cons, List.not_mem_nil, or_false] at hc
    obtain rfl | rfl | rfl | rfl := hc <;> rfl
  · exact home_fails hi hw (homeLocs_noRoot h0)
  · obtain ⟨q, hq, hr, hnr⟩ := h
    refine home_fails hi hw (homeLocs_unmapped h0 hq ?_)
    by_cases hk : k = 0 ∨ k = 14 ∨ k = 15
    · rw [(remoteReads_iff k).2 hk]
      exact hr hk
    · rw [Bool.eq_false_iff.2 (mt (remoteReads_iff k).1 hk)]
      exact hnr hk
  · have hk := (remoteReads_iff k).2 hr
    refine (home_performs hi hw (l := [(l, z.toNat)]) (homeLocs_one h0 hc (by rw [hk]; exact ht))).trans ?_
    rw [performHome_read _ _ _ _ hk, if_neg (by rintro e; rw [e] at hk; exact absurd hk (by decide))]
    all_goals rfl
  · have hk := Bool.eq_false_iff.2 (mt (remoteReads_iff k).1 hr)
    refine ⟨_, wrote_storeNat (u := wakePackage { s with inbound := s.inbound - 1 }) hm rfl rfl l z.toNat v.toNat, storeNat_noMem _ _ _ _, 
      (home_performs hi hw (l := [(l, z.toNat)]) (homeLocs_one h0 hc (by rw [hk]; exact ht))).trans ?_⟩
    rw [h1]
    show Host.Outcome.next (answer (performHome _ 1 _ _ _ _) _ 0) = _
    rw [performHome_write]
    all_goals rfl
  · have hk := Bool.eq_false_iff.2 (mt (remoteReads_iff k).1 hr)
    have hk1 : k.toNat ≠ 1 := fun e => h1 (BitVec.eq_of_toNat_eq e)
    refine ⟨_, wrote_storeNat (u := wakePackage { s with inbound := s.inbound - 1 }) hm rfl rfl l z.toNat _, storeNat_noMem _ _ _ _,
      (home_performs hi hw (l := [(l, z.toNat)]) (homeLocs_one h0 hc (by rw [hk]; exact ht))).trans ?_⟩
    rw [performHome_atomic _ _ _ _ hk hk1, if_neg hk1]
    all_goals rfl
  · simp only [remoteDead, Bool.or_eq_true, decide_eq_true_eq, Option.isNone_iff_eq_none, or_assoc]
  · exact remote_fails (timeout_fails hr hd)
  · have hc0 : c ≠ 0 := by
      rintro rfl
      exact absurd hc (by decide)
    exact remote_fails ((response_eq hr hi (List.mem_cons_of_mem _ hc) v).trans (if_neg hc0))
  · refine (response_eq hr hi (by decide) v).trans ((if_pos rfl).trans (congrArg _ ((if_pos hc).trans ?_)))
    all_goals rfl
  · exact (response_eq hr hi (by decide) v).trans ((if_pos rfl).trans (congrArg _ (deliver_entry hc hq he hk)))
  · exact (response_eq hr hi (by decide) v).trans ((if_pos rfl).trans (congrArg _ (deliver_none hc hq h)))
  · exact ⟨_, (response_eq hr hi (by decide) v).trans ((if_pos rfl).trans (congrArg _ (deliver_grant hc hq hk))),
      Alone.strand _ _ _, strandAt_onStrand_same _ _ _⟩
  · exact ⟨_, (response_eq hr hi (by decide) v).trans ((if_pos rfl).trans (congrArg _ (deliver_load hc hq h14 h15))),
      Alone.strand _ _ _, strandAt_onStrand_same _ _ _⟩
  · exact remoteValue_small hz _
  · exact response_dropped hi hc h v

end Sys2Proof.Machine
end

section
/-! A counterexample to the front's commands as stated (R295, R296). -/

namespace Sys2Proof.Machine

/-- A slot whose parameter table lists a word of bank 1 before word 0 of bank 0, out of the order that reads rely on. -/
def unsortedSlot : Slot := { Slot.reset with params := [(256, 5), (0, 7)] }

/-- The parameter word 0 of bank 0, as the slot's table reads. -/
theorem unsortedSlot_param : tabGet 0 (unsortedSlot.atStart 0 0) 0 = 0 := by decide

/-- The parameter word 0 that a START of bank 0 takes from the same table. -/
theorem unsortedSlot_taken : tabGet 0 (bankParams (unsortedSlot.atStart 0 0) 0) 0 = 7 := by decide

/-- Refutes O58: the statement takes a slot with any table, and of one that is out of order the bank's words that a START takes
are not those that the table reads. -/
theorem not_frontCommands : ¬ Obligations.FrontCommands := by
  intro h
  obtain ⟨-, -, -, hparams, -⟩ := h State.reset
  obtain ⟨-, -, htaken⟩ := hparams unsortedSlot 0 0 (by decide) (by simp [unsortedSlot, Slot.reset])
  exact absurd (unsortedSlot_taken.symm.trans (htaken.trans unsortedSlot_param)) (by decide)

end Sys2Proof.Machine
end

section
/-! What saves and restores leave of jobs, of saved cores and of strands (R306, R309, R310). -/

namespace Sys2Proof.Machine

/-! ## What spares the jobs and the saved cores -/

/-- Two states that agree in their jobs and in what each core has saved. -/
structure Spares (s t : State) : Prop where
  jobs : t.jobs = s.jobs
  saved : ∀ d, (coreAt t d).saved = (coreAt s d).saved

theorem Spares.refl (s : State) : Spares s s := ⟨rfl, fun _ => rfl⟩

theorem Spares.trans {s t u : State} (h : Spares s t) (h' : Spares t u) : Spares s u :=
  ⟨h'.jobs.trans h.jobs, fun d => (h'.saved d).trans (h.saved d)⟩

theorem Spares.of_cores {s t : State} (hj : t.jobs = s.jobs) (hc : t.cores = s.cores) : Spares s t :=
  ⟨hj, fun d => by rw [coreAt_of_cores hc]⟩

theorem Spares.onCore (s : State) (c : Nat) {f : Core → Core} (hf : ∀ k, (f k).saved = k.saved) : Spares s (onCore s c f) := by
  refine ⟨rfl, fun d => ?_⟩
  by_cases h : d = c
  · subst h; rw [coreAt_onCore_same, hf]
  · rw [coreAt_onCore_ne s f h]

theorem Spares.onStrand (s : State) (a : At) (g : Strand → Strand) : Spares s (onStrand s a g) :=
  .onCore s a.c (f := fun k => { k with strands := tabPut k.strands a.x (g (tabGet .reset k.strands a.x)) }) fun _ => rfl

theorem Spares.setQueue (s : State) (c q : Nat) (l : List Entry) : Spares s (setQueue s c q l) :=
  .onCore s c (f := fun k => { k with queues := tabPut k.queues q l }) fun _ => rfl

theorem Spares.setFifo (s : State) (c f : Nat) (l : List Nat) : Spares s (setFifo s c f l) :=
  .onCore s c (f := fun k => { k with fifos := tabPut k.fifos f l }) fun _ => rfl

theorem Spares.foldl {α : Type} {f : State → α → State} (hf : ∀ s x, Spares s (f s x)) (l : List α) (s : State) :
    Spares s (l.foldl f s) :=
  foldl_invariant (P := Spares s) l (.refl s) fun t ht x _ => ht.trans (hf t x)

theorem Spares.leaveStream (s : State) (c mask : Nat) : Spares s (leaveStream s c mask) := by
  unfold Machine.leaveStream
  split
  · exact .refl s
  · refine (Spares.onCore s c (f := fun k => { k with streamMask := k.streamMask / 2 ^ 48 * 2 ^ 48 }) fun _ => rfl).trans
      (.foldl (fun s j => ?_) _ _)
    exact .onCore s _ (f := fun k => _) fun _ => rfl

theorem Spares.unbegin (s : State) (c : Nat) (e : Entry) : Spares s (unbegin s c e) := by
  unfold Machine.unbegin
  split
  · exact .refl s
  · exact .foldl (fun s f => (Spares.setFifo s c f _).trans (.onStrand _ _ _)) _ _

theorem Spares.unbeginBehind (s : State) (c : Nat) (h : Entry) (t : List Entry) (p : Entry → Bool) :
    Spares s (unbeginBehind s c h t p) :=
  (Spares.foldl (fun s e => .unbegin s c e) _ s).trans (.setQueue _ _ _ _)

theorem Spares.stopMatrix (s : State) (a : At) : Spares s (stopMatrix s a) := by
  unfold Machine.stopMatrix
  split
  · split
    · split
      · exact (Spares.unbeginBehind _ _ _ _ _).trans (.leaveStream _ _ _)
      · exact .refl s
    · split
      · exact .unbeginBehind _ _ _ _ _
      · exact .refl s
  · exact .refl s

theorem Spares.clearEntries (s : State) (a : At) : Spares s (clearEntries s a) := by
  refine .foldl (fun s q => ?_) _ s
  split
  · exact .setQueue _ _ _ _
  · exact .refl s

theorem Spares.unpark (s : State) (a : At) : Spares s (unpark s a) := .of_cores (Quiet.unpark s a).jobs (unpark_cores s a)

/-- Taking a strand's tokens out changes its core's FIFOs alone. -/
theorem withdrawTokens_invariant {P : State → Prop} (c : Nat) (h : ∀ s f l, P s → P (setFifo s c f l)) {s : State} {a : At} (ha : a.c = c)
    (hs : P s) : P (withdrawTokens s a).1 := by
  subst ha
  refine foldl_invariant (P := fun r : State × Nat => P r.1) _ hs fun r hr f _ => ?_
  dsimp only
  split
  · exact hr
  · exact h _ _ _ hr

theorem Spares.restoreTaken (s : State) (e : Entry) : Spares s (restoreTaken s e) := .of_cores rfl rfl

theorem Spares.withdrawIf (s : State) (a : At) (f : Alloc → Bool) : Spares s (withdrawIf s a f) := .of_cores rfl rfl

theorem Spares.dropTurn (s : State) (a : At) : Spares s (dropTurn s a) :=
  .onCore s a.c (f := fun k => { k with turn := if k.turn = some a.x then none else k.turn }) fun _ => rfl

theorem Spares.withdrawTokens (s : State) (a : At) : Spares s (withdrawTokens s a).1 :=
  withdrawTokens_invariant (P := Spares s) a.c (fun t f l h => h.trans (.setFifo t a.c f l)) rfl (.refl s)

theorem Quiet.withdrawTokens (s : State) (a : At) : Quiet s (withdrawTokens s a).1 :=
  withdrawTokens_invariant (P := Quiet s) a.c (fun t f l h => h.trans (.setFifo t a.c f l)) rfl (.refl s)

/-! ## Saves (R306, R309) -/

/-- The state in which a context that is to be saved has stopped and its entries and tokens are taken out. -/
def contextCleared (s : State) (a : At) : State :=
  let u := unpark (withdrawAlloc (stopMatrix s a) a) a
  (withdrawTokens (clearEntries ((cutEntries u a).foldl restoreTaken u) a) a).1

/-- A context that its job leaves, and still holds (R306). -/
def leftHeld (t : Strand) : Strand := { Strand.reset with status := .idle, holder := t.holder, share := t.share, cls := t.cls }

theorem leftHeld_holder (t : Strand) : (leftHeld t).holder = t.holder := rfl

theorem leftHeld_task (t : Strand) : (leftHeld t).task = none := rfl

theorem saveContext_state (c : Nat) (s : State) (l : List SavedStrand) (x : Nat) : (saveContext c (s, l) x).1 =
    dropTurn (onStrand (contextCleared s ⟨c, x⟩) ⟨c, x⟩ leftHeld) ⟨c, x⟩ := rfl

theorem contextCleared_quiet (s : State) (a : At) : Quiet s (contextCleared s a) :=
  ((((Quiet.stopMatrix s a).trans (.withdrawIf _ _ _)).trans (.unpark _ _)).trans (.foldl (fun s e => .restoreTaken s e) _ _)).trans
    ((Quiet.clearEntries _ _).trans (.withdrawTokens _ _))

theorem contextCleared_spares (s : State) (a : At) : Spares s (contextCleared s a) :=
  ((((Spares.stopMatrix s a).trans (.withdrawIf _ _ _)).trans (.unpark _ _)).trans
    (.foldl (fun s e => .restoreTaken s e) _ _)).trans ((Spares.clearEntries _ _).trans (.withdrawTokens _ _))

theorem Quiet.task {s t : State} (h : Quiet s t) (a : At) : (strandAt t a).task = (strandAt s a).task :=
  by
  have e : (strandAt t a).noTokens.task = (strandAt s a).noTokens.task := congrArg _ (h.strands a)
  exact e

theorem Quiet.holder {s t : State} (h : Quiet s t) (a : At) : (strandAt t a).holder = (strandAt s a).holder :=
  by
  have e : (strandAt t a).noTokens.holder = (strandAt s a).noTokens.holder := congrArg _ (h.strands a)
  exact e

/-- Every context is still held by whom it was, and none has taken up a task. -/
def Vacates (s t : State) : Prop :=
  ∀ a, (strandAt t a).holder = (strandAt s a).holder ∧ ((strandAt t a).task = (strandAt s a).task ∨ (strandAt t a).task = none)

theorem saveContext_vacates (c : Nat) (s : State) (l : List SavedStrand) (x : Nat) : Vacates s (saveContext c (s, l) x).1 ∧
    (strandAt (saveContext c (s, l) x).1 ⟨c, x⟩).task = none := by
  have hq := contextCleared_quiet s ⟨c, x⟩
  rw [saveContext_state]
  refine ⟨fun a => ?_, ?_⟩
  · rw [strandAt_dropTurn]
    by_cases h : a = ⟨c, x⟩
    · subst h
      rw [strandAt_onStrand_same]
      exact ⟨(leftHeld_holder _).trans (hq.holder _), .inr (leftHeld_task _)⟩
    · rw [strandAt_onStrand_ne _ _ h]
      exact ⟨hq.holder a, .inl (hq.task a)⟩
  · rw [strandAt_dropTurn, strandAt_onStrand_same]
    exact leftHeld_task _

theorem saveContext_spares (c : Nat) (s : State) (l : List SavedStrand) (x : Nat) : Spares s (saveContext c (s, l) x).1 := by
  rw [saveContext_state]
  exact (contextCleared_spares _ _).trans ((Spares.onStrand _ _ _).trans (.dropTurn _ _))

theorem Vacates.trans {s t u : State} (h : Vacates s t) (h' : Vacates t u) : Vacates s u := fun a =>
  ⟨(h' a).1.trans (h a).1, (h' a).2.elim (fun e => (h a).2.imp (e.trans ·) (e.trans ·)) .inr⟩

theorem Vacates.refl (s : State) : Vacates s s := fun _ => ⟨rfl, .inl rfl⟩

/-- The contexts of a list are saved one after another: nothing runs on them any more (R306). -/
theorem saveContexts (c : Nat) (xs : List Nat) (r : State × List SavedStrand) :
    Spares r.1 (xs.foldl (saveContext c) r).1 ∧ Vacates r.1 (xs.foldl (saveContext c) r).1 ∧
    ∀ x, x ∈ xs → (strandAt (xs.foldl (saveContext c) r).1 ⟨c, x⟩).task = none := by
  induction xs generalizing r with
  | nil => exact ⟨.refl _, .refl _, fun _ h => absurd h List.not_mem_nil⟩
  | cons y xs ih =>
    obtain ⟨s, l⟩ := r
    obtain ⟨hs, hv, ht⟩ := ih (saveContext c (s, l) y)
    obtain ⟨hv1, ht1⟩ := saveContext_vacates c s l y
    rw [List.foldl_cons]
    refine ⟨(saveContext_spares c s l y).trans hs, hv1.trans hv, fun x hx => ?_⟩
    obtain rfl | hx := List.mem_cons.1 hx
    · exact (hv ⟨c, x⟩).2.elim (fun e => e.trans ht1) id
    · exact ht x hx

/-- Two states that agree in jobs and cores. -/
structure SameCores (s t : State) : Prop where
  jobs : t.jobs = s.jobs
  cores : t.cores = s.cores

theorem SameCores.refl (s : State) : SameCores s s := ⟨rfl, rfl⟩

theorem SameCores.trans {s t u : State} (h : SameCores s t) (h' : SameCores t u) : SameCores s u :=
  ⟨h'.jobs.trans h.jobs, h'.cores.trans h.cores⟩

theorem SameCores.foldl {α : Type} {f : State → α → State} (hf : ∀ s x, SameCores s (f s x)) (l : List α) (s : State) :
    SameCores s (l.foldl f s) :=
  foldl_invariant (P := SameCores s) l (.refl s) fun t ht x _ => ht.trans (hf t x)

theorem SameCores.storeN (s : State) (l : Nat) (v : List Byte) : SameCores s (storeN s l v) := by
  rw [storeN_rest]
  exact ⟨rfl, rfl⟩

theorem SameCores.clearPoison (s : State) (l n : Nat) : SameCores s (if s.poison.isEmpty then s else clearPoison s l n) := by
  split <;> exact ⟨rfl, rfl⟩

theorem SameCores.writeUndefined (s : State) (l n : Nat) : SameCores s (writeUndefined s l n) := by
  obtain ⟨hj, hc⟩ := SameCores.clearPoison s l n
  exact ⟨hj, hc⟩

theorem SameCores.saveBank (c area : Nat) (s : State) (n : Nat) : SameCores s (saveBank c area s n) := by
  obtain ⟨hj, hc⟩ := SameCores.clearPoison s (area + 65536 * n) 65536
  obtain ⟨hj', hc'⟩ := SameCores.storeN { (if s.poison.isEmpty then s else Machine.clearPoison s (area + 65536 * n) 65536) with
    mem := (if s.poison.isEmpty then s else Machine.clearPoison s (area + 65536 * n) 65536).mem.copy (locPond c (65536 * n))
      (area + 65536 * n) 65536 } (area + 0x10C000 + 0x200 * n)
    (bankBits (if s.poison.isEmpty then s else Machine.clearPoison s (area + 65536 * n) 65536) c n)
  exact ⟨hj'.trans hj, hc'.trans hc⟩

/-- The frames of a save change memory alone (R309, R343). -/
theorem SameCores.writeFrames (s : State) (c area : Nat) (xs : List Nat) (first : Bool) (banks : List Nat) :
    SameCores s (writeFrames s c area xs first banks) := by
  have hx := SameCores.foldl (fun s x => .writeUndefined s (area + 0x110000 + 0x10000 * x) 0x10000) xs s
  cases first with
  | false => exact hx
  | true => exact (hx.trans (.writeUndefined _ _ _)).trans (.foldl (SameCores.saveBank c area) banks _)

/-- The state at the end of a save, before the victims' contexts are released, when its contexts are taken off in r (R309). -/
def saveDone (s : State) (core job : Nat) (r : State × List SavedStrand) : State :=
  let b := jobAt s job
  let xs := heldOn s job core
  let s := r.1
  let k := coreAt s core
  let other : Bool := match b.stopper with | some j => (jobAt s j).ctx != b.ctx | none => false
  let first := other && !savedRegs s core b.ctx
  let banks := if first then setBits 16 (ctxAt s b.ctx).ppart else []
  let s := writeFrames s core (saveArea s b.ctx core) xs first banks
  let stolen := (k.steals.filter (fun r => xs.contains r.sx)).filterMap (·.got)
  let v : SavedCore :=
    { job := job, ctx := b.ctx, strands := r.2, deque := k.deque.filter (fun e => e.job == job) ++ stolen
      regs := if first then some (k.regs, loadN s (locAcc core 0) 16384) else none
      banks := banks }
  let s := onCore s core (fun k => { k with
    saved := k.saved ++ [v], deque := k.deque.filter (fun e => e.job != job)
    steals := k.steals.filter (fun r => !xs.contains r.sx)
    regs := if first then .reset else k.regs })
  let s := if first then storeN s (locAcc core 0) (List.replicate 16384 0) else s
  onJob s job (fun b => { b with saving := b.saving.filter (· != core), savedOn := b.savedOn ++ [core] })

theorem save_completes {s : State} {c j : Nat} (h : c ∈ (jobAt s j).saving) : exec (.saveComplete c j) s =
    .next (releaseVictims (saveDone s c j ((heldOn s j c).foldl (saveContext c) (s, []))) (jobAt s j).stopper) := by
  have hn : ¬(!(jobAt s j).saving.contains c) = true := by simpa using h
  exact if_neg hn

theorem jobAt_of_jobs {s t : State} (h : t.jobs = s.jobs) (j : Nat) : jobAt t j = jobAt s j := by
  unfold jobAt; rw [h]

/-- A change of a core, a write of memory and a change of a job, one behind the other. -/
theorem jobAndCore_spec (w : State) (c j : Nat) (first : Bool) (l : Nat) (v : List Byte) (g : Job → Job) {f : Core → Core}
    (hf : ∀ k, (f k).strands = k.strands) :
    let u := onJob (if first = true then storeN (onCore w c f) l v else onCore w c f) j g
    jobAt u j = g (jobAt w j) ∧ (∀ i, i ≠ j → jobAt u i = jobAt w i) ∧ coreAt u c = f (coreAt w c) ∧
      ∀ a, strandAt u a = strandAt w a := by
  have hx : SameCores (onCore w c f) (if first = true then storeN (onCore w c f) l v else onCore w c f) := by
    split
    · exact .storeN _ _ _
    · exact .refl _
  generalize (if first = true then storeN (onCore w c f) l v else onCore w c f) = t at hx
  have hj : ∀ i, jobAt t i = jobAt w i := jobAt_of_jobs hx.jobs
  refine ⟨?_, fun i hi => ?_, ?_, fun a => ?_⟩
  · rw [jobAt_onJob_same, hj]
  · rw [jobAt_onJob_ne _ _ hi, hj]
  · exact (coreAt_of_cores hx.cores c).trans (coreAt_onCore_same w c f)
  · exact (strandAt_of_cores hx.cores a).trans (strandAt_onCore w c hf a)

/-- What the end of a save does to its job, to the other jobs, to the core's list of saves and to its strands. -/
theorem saveDone_spec (s : State) (c j : Nat) (r : State × List SavedStrand) (hs : Spares s r.1) :
    jobAt (saveDone s c j r) j = { jobAt s j with
      saving := (jobAt s j).saving.filter (· != c), savedOn := (jobAt s j).savedOn ++ [c] } ∧
    (∀ i, i ≠ j → jobAt (saveDone s c j r) i = jobAt s i) ∧
    (coreAt (saveDone s c j r) c).saved.length = (coreAt s c).saved.length + 1 ∧
    ∀ a, strandAt (saveDone s c j r) a = strandAt r.1 a := by
  unfold saveDone
  dsimp only
  generalize ((match (jobAt s j).stopper with | some j => _ | none => _) && _) = first
  generalize (if first = true then setBits 16 _ else []) = banks
  obtain ⟨hwj, hwc⟩ := SameCores.writeFrames r.1 c (saveArea r.1 (jobAt s j).ctx c) (heldOn s j c) first banks
  generalize writeFrames r.1 c (saveArea r.1 (jobAt s j).ctx c) (heldOn s j c) first banks = w at *
  obtain ⟨hj, hsv, hc, hst⟩ := jobAndCore_spec w c j first (locAcc c 0) (List.replicate 16384 0)
    (fun b => { b with saving := b.saving.filter (· != c), savedOn := b.savedOn ++ [c] }) (f := fun k => { k with
      saved := k.saved ++ [_], deque := k.deque.filter (fun e => e.job != j)
      steals := k.steals.filter (fun r => !(heldOn s j c).contains r.sx)
      regs := if first then .reset else k.regs }) fun _ => rfl
  refine ⟨hj.trans ?_, fun i hi => (hsv i hi).trans ?_, (congrArg (fun k : Core => k.saved.length) hc).trans ?_, fun a => (hst a).trans ?_⟩
  · rw [jobAt_of_jobs hwj, jobAt_of_jobs hs.jobs]
  · rw [jobAt_of_jobs hwj, jobAt_of_jobs hs.jobs]
  · simp only [List.length_append, List.length_singleton, coreAt_of_cores hwc, hs.saved]
  · exact strandAt_of_cores hwc a

/-! ## Releases (R306) -/

/-- A strand of a suspended job's contexts is free again (R306). -/
def freed (j : Nat) (t : Nat × Strand) : Nat × Strand := if t.2.holder = some j then (t.1, .reset) else t

/-- The contexts of job j are free. -/
def freeCores (s : State) (j : Nat) : State :=
  { s with cores := s.cores.map (fun k => (k.1, { k.2 with strands := k.2.strands.map (freed j) })) }

theorem suspendJob_eq (s : State) (j : Nat) : suspendJob s j = onJob (freeCores s j) j (fun b => { b with phase := 3 }) := rfl

/-- Does no context stand held by job j? -/
def Unheld (s : State) (j : Nat) : Prop := ∀ k, k ∈ s.cores → ∀ x, x ∈ k.2.strands → x.2.holder ≠ some j

theorem holder_freed (i : Nat) (t : Nat × Strand) : (freed i t).2.holder = if t.2.holder = some i then none else t.2.holder := by
  unfold freed
  split <;> rfl

theorem unheld_suspendJob (s : State) {i j : Nat} (h : i = j ∨ Unheld s j) : Unheld (suspendJob s i) j := by
  intro k' hk' x' hx'
  rw [suspendJob_eq] at hk'
  obtain ⟨k, hk, rfl⟩ := List.mem_map.1 hk'
  obtain ⟨x, hx, rfl⟩ := List.mem_map.1 hx'
  rw [holder_freed]
  split
  · exact nofun
  next hi =>
    obtain rfl | h := h
    · exact hi
    · exact h k hk x hx

/-- The suspension of every job of a list (R306). -/
theorem suspendJobs (l : List Nat) (s : State) : (l.foldl suspendJob s).mem = s.mem ∧
    ∀ j, j ∈ l ∨ (jobAt s j).phase = 3 ∧ Unheld s j → (jobAt (l.foldl suspendJob s) j).phase = 3 ∧ Unheld (l.foldl suspendJob s) j := by
  induction l generalizing s with
  | nil => exact ⟨rfl, fun j h => h.resolve_left List.not_mem_nil⟩
  | cons i l ih =>
    obtain ⟨hm, h3⟩ := ih (suspendJob s i)
    refine ⟨hm, fun j hj => h3 j ?_⟩
    by_cases hi : j = i
    · subst hi
      exact .inr ⟨by rw [suspendJob_eq, jobAt_onJob_same], unheld_suspendJob s (.inl rfl)⟩
    · refine hj.imp (fun h => (List.mem_cons.1 h).resolve_left hi) fun h => ⟨?_, unheld_suspendJob s (.inr h.2)⟩
      rw [suspendJob_eq, jobAt_onJob_ne _ _ hi]
      exact h.1

theorem victims_released {s : State} {i : Nat} (h : ∀ o, o ∈ s.jobs → o.2.phase = 2 → o.2.stopper = some i →
      o.2.killed = false ∧ ∀ c, c ∈ placedCores o.2 → c ∈ o.2.savedOn) :
    (releaseVictims s (some i)).mem = s.mem ∧ ∀ o, o ∈ s.jobs → o.2.phase = 2 → o.2.stopper = some i →
      (jobAt (releaseVictims s (some i)) o.1).phase = 3 ∧ Unheld (releaseVictims s (some i)) o.1 := by
  have hmem (o : Nat × Job) : o ∈ s.jobs.filter (fun o => o.2.phase == 2 && o.2.stopper == some i && (some i).isSome) ↔
      o ∈ s.jobs ∧ o.2.phase = 2 ∧ o.2.stopper = some i := by
    simp [List.mem_filter]
  have hall : (s.jobs.filter (fun o => o.2.phase == 2 && o.2.stopper == some i && (some i).isSome)).all
      (fun o => !o.2.killed && (placedCores o.2).all o.2.savedOn.contains) = true := by
    refine List.all_eq_true.2 fun o ho => ?_
    obtain ⟨hj, h2, hs⟩ := (hmem o).1 ho
    obtain ⟨hk, hc⟩ := h o hj h2 hs
    simp only [hk, Bool.not_false, Bool.true_and, List.all_eq_true, List.contains_iff_mem]
    exact hc
  have he : releaseVictims s (some i) =
      ((s.jobs.filter (fun o => o.2.phase == 2 && o.2.stopper == some i && (some i).isSome)).map (·.1)).foldl suspendJob s := by
    rw [List.foldl_map]
    exact if_pos hall
  obtain ⟨hm, h3⟩ := suspendJobs ((s.jobs.filter (fun o => o.2.phase == 2 && o.2.stopper == some i && (some i).isSome)).map (·.1)) s
  rw [he]
  exact ⟨hm, fun o ho h2 hs => h3 o.1 (.inl (List.mem_map.2 ⟨o, (hmem o).2 ⟨ho, h2, hs⟩, rfl⟩))⟩

/-! ## Restores (R310) -/

theorem Spares.of_noUnits {s t : State} (h : t.noUnits = s.noUnits) : Spares s t := by
  have hj := congrArg State.jobs h
  exact .of_cores hj (cores_of_noUnits h)

theorem Spares.pushCounted (s : State) (a : At) (e : Entry) : Spares s (pushCounted s a e) := by
  rcases pushCounted_cases s a e with h | ⟨t, h⟩ <;> rw [h]
  · exact .onStrand _ _ _
  · exact (Spares.onStrand s a (countPush e.q)).trans (.onCore _ _ (f := latestMlt t) fun _ => rfl)

theorem pushEntry_eq (s : State) (a : At) (e : Entry) : pushEntry s a e =
    (match (if e.drawn = true then Except.ok (pushCounted s a e)
      else recordDraws (pushCounted s a e) a.c (jobAt (pushCounted s a e) e.job).ctx e.job e.draws) with
    | .ok s' => setQueue s' a.c e.q (queueAt s' a.c e.q ++ [{ e with seq := nextSeq (strandAt s a) e.q, drawn := true }])
    | .error c => onStrand (setQueue (pushCounted s a e) a.c e.q (queueAt (pushCounted s a e) a.c e.q ++
        [{ e with seq := nextSeq (strandAt s a) e.q, drawn := false, fault := some c }])) a
        (fun t => { t with pendTrap := some (firstTrap t (engTrap { e with seq := nextSeq (strandAt s a) e.q, drawn := false } c)) })) := by
  unfold pushEntry pushCounted
  rfl

theorem Spares.pushEntry (s : State) (a : At) (e : Entry) : Spares s (pushEntry s a e) := by
  have hc := Spares.pushCounted s a e
  rw [pushEntry_eq]
  split
  next w hw =>
    refine Spares.trans ?_ (.setQueue _ _ _ _)
    split at hw
    · obtain rfl := Except.ok.inj hw
      exact hc
    · exact hc.trans (.of_noUnits (recordDraws_noUnits hw))
  next => exact hc.trans ((Spares.setQueue _ _ _ _).trans (.onStrand _ _ _))

theorem Spares.pushSaved (a : At) (l : List Entry) (s : State) : Spares s (pushSaved a l s).1 := by
  induction l generalizing s with
  | nil => exact .refl s
  | cons e l ih =>
    unfold Machine.pushSaved
    split
    · exact (Spares.pushEntry s a _).trans (ih _)
    · exact .refl s

theorem Spares.rouse (s : State) (a : At) : Spares s (rouse s a) := by
  unfold Machine.rouse
  dsimp only
  split
  · exact (Spares.unpark s a).trans (.onStrand _ _ _)
  · exact .refl s

theorem Spares.parkAgain (s : State) (a : At) : Spares s (parkAgain s a) := by
  unfold Machine.parkAgain
  dsimp only
  split
  next n _ _ =>
    have hn : Spares s { s with nw := tabPut s.nw n { nwAt s n with parked := some (strandNo a) } } := .of_cores rfl rfl
    split
    · exact .onStrand _ _ _
    · split
      · exact hn
      · exact hn.trans (.rouse _ _)
  next => exact .refl s

/-- The state in which a saved strand has its context and its tokens again (R310). -/
def rebound (j : Nat) (b : Job) (c : Nat) (s : State) (v : SavedStrand) (x : Nat) : State :=
  (List.range 8).foldl (fun s f => setFifo s c f (fifoAt s c f ++ List.replicate (tabGet 0 v.tokens f) x))
    (onStrand s ⟨c, x⟩ (fun _ => { rebind x v.strand with
      holder := some j, share := b.share, cls := b.cls
      segbud := if 0 < v.strand.segbud then (prorated s b.share : Int) else v.strand.segbud }))

theorem spares_ite {s t u : State} {b : Bool} (ht : Spares s t) (hu : Spares s u) : Spares s (if b = true then t else u) := by
  cases b
  · exact hu
  · exact ht

theorem Spares.restoreStrand (j : Nat) (b : Job) (c : Nat) (s : State) (v : SavedStrand) : Spares s (restoreStrand j b c s v) := by
  have hr (x : Nat) : Spares s (rebound j b c s v x) := (Spares.onStrand _ _ _).trans (.foldl (fun s f => .setFifo s c f _) _ _)
  have hp (x : Nat) := (hr x).trans (.pushSaved ⟨c, x⟩ (v.entries.map (fun e => { waitAgain e with sx := x })) (rebound j b c s v x))
  unfold Machine.restoreStrand
  dsimp only
  generalize (if (freeContexts s c []).contains v.sx = true then v.sx else _) = x
  refine spares_ite ?_ ?_
  · exact (hp x).trans (.parkAgain _ _)
  · exact (hp x).trans (.onStrand _ _ _)

theorem SameCores.restoreBank (c area : Nat) (s : State) (n : Nat) : SameCores s (restoreBank c area s n) := by
  obtain ⟨hj, hc⟩ := SameCores.clearPoison s (locPond c (65536 * n)) 65536
  exact ⟨hj, hc⟩

/-- A core's registers and accumulators as a save holds them, if it does (R310). -/
def regsBack (s : State) (c : Nat) (r : Option (CoreRegs × List Byte)) : State :=
  match r with
  | some (r, acc) => storeN (onCore s c (fun k => { k with regs := r })) (locAcc c 0) acc
  | none => s

/-- A saved part whose core state is written back (R310). -/
def emptiedOf (ctx : Nat) (v : SavedCore) : SavedCore := if v.ctx = ctx then { v with regs := none, banks := [] } else v

theorem emptiedOf_job (ctx : Nat) (v : SavedCore) : (emptiedOf ctx v).job = v.job := by
  unfold emptiedOf
  split <;> rfl

theorem restoreRegs_eq (s : State) (c ctx : Nat) : restoreRegs s c ctx =
    match (coreAt s c).saved.find? (fun v => v.ctx == ctx && v.regs.isSome) with
    | none => s
    | some v => onCore (v.banks.foldl (restoreBank c (saveArea (regsBack s c v.regs) ctx c)) (regsBack s c v.regs)) c
        (fun k => { k with saved := k.saved.map (emptiedOf ctx) }) := rfl

theorem Spares.regsBack (s : State) (c : Nat) (r : Option (CoreRegs × List Byte)) : Spares s (regsBack s c r) := by
  cases r with
  | none => exact .refl s
  | some p =>
    obtain ⟨r, acc⟩ := p
    obtain ⟨hj, hc⟩ := SameCores.storeN (Machine.onCore s c (fun k => { k with regs := r })) (locAcc c 0) acc
    exact (Spares.onCore s c (f := fun k => { k with regs := r }) fun _ => rfl).trans (.of_cores hj hc)

/-- A core's own state that is written back leaves the names of what the core has saved (R310). -/
theorem restoreRegs_saved (s : State) (c ctx : Nat) : (restoreRegs s c ctx).jobs = s.jobs ∧
    ∀ d, (coreAt (restoreRegs s c ctx) d).saved.map (·.job) = (coreAt s d).saved.map (·.job) := by
  rw [restoreRegs_eq]
  split
  · exact ⟨rfl, fun _ => rfl⟩
  next v _ =>
    have hr := Spares.regsBack s c v.regs
    generalize regsBack s c v.regs = t at hr
    obtain ⟨hj, hc⟩ := SameCores.foldl (SameCores.restoreBank c (saveArea t ctx c)) v.banks t
    refine ⟨hj.trans hr.jobs, fun d => ?_⟩
    by_cases h : d = c
    · subst h
      simp only [coreAt_onCore_same, coreAt_of_cores hc, hr.saved, List.map_map]
      exact List.map_congr_left fun w _ => emptiedOf_job ctx w
    · rw [coreAt_onCore_ne _ _ h, coreAt_of_cores hc, hr.saved]

/-- No saved part of a core is one of job j. -/
def Restored (s : State) (j c : Nat) : Prop := ∀ v, v ∈ (coreAt s c).saved → v.job ≠ j

theorem Restored.of_saved {s t : State} {j c : Nat} (h : (coreAt t c).saved.map (·.job) = (coreAt s c).saved.map (·.job)) :
    Restored t j c ↔ Restored s j c := by
  have hm (u : State) : Restored u j c ↔ j ∉ (coreAt u c).saved.map (·.job) := by
    simp only [Restored, List.mem_map, not_exists, not_and]
  rw [hm, hm, h]

theorem restoreOn_restores (j : Nat) (s : State) (c : Nat) : (restoreOn j s c).jobs = s.jobs ∧ Restored (restoreOn j s c) j c ∧
    ∀ d, Restored s j d → Restored (restoreOn j s c) j d := by
  obtain ⟨hj, hs⟩ := restoreRegs_saved s c (jobAt s j).ctx
  unfold restoreOn
  dsimp only
  generalize restoreRegs s c (jobAt s j).ctx = t at hj hs
  split
  next hf =>
    refine ⟨hj, fun v hv => ?_, fun d hd => (Restored.of_saved (hs d)).2 hd⟩
    have := List.find?_eq_none.1 hf v hv
    simpa using this
  next v _ =>
    have hv : Spares t (v.strands.foldl (restoreStrand j (jobAt s j) c) t) := .foldl (Spares.restoreStrand j (jobAt s j) c) v.strands t
    generalize v.strands.foldl (restoreStrand j (jobAt s j) c) t = u at hv
    have hw : Spares t (wakeDie u c) := hv.trans (.of_cores rfl rfl)
    refine ⟨hw.jobs.trans hj, fun w hw => ?_, fun d hd w hm => ?_⟩
    · rw [coreAt_onCore_same] at hw
      simpa using (List.mem_filter.1 hw).2
    · by_cases h : d = c
      · subst h
        rw [coreAt_onCore_same] at hm
        simpa using (List.mem_filter.1 hm).2
      · rw [coreAt_onCore_ne _ _ h, hw.saved] at hm
        exact (Restored.of_saved (hs d)).2 hd w hm

/-- A job is restored on every core of a list (R310). -/
theorem restoreOn_all (j : Nat) (l : List Nat) (s : State) : (l.foldl (restoreOn j) s).jobs = s.jobs ∧
    ∀ d, d ∈ l ∨ Restored s j d → Restored (l.foldl (restoreOn j) s) j d := by
  induction l generalizing s with
  | nil => exact ⟨rfl, fun d h => h.resolve_left List.not_mem_nil⟩
  | cons c l ih =>
    obtain ⟨hj, hr⟩ := ih (restoreOn j s c)
    obtain ⟨hj1, hc, hr1⟩ := restoreOn_restores j s c
    refine ⟨hj.trans hj1, fun d hd => hr d ?_⟩
    obtain hd | hd := hd
    · obtain rfl | hd := List.mem_cons.1 hd
      · exact .inr hc
      · exact .inl hd
    · exact .inr (hr1 d hd)

end Sys2Proof.Machine
end

section
/-! The front's work: jobs issued, stopped, saved, restored and ended, chunks dealt, stream nodes moved (R28 to R30, R299 to R310,
R433, R443). -/

namespace Sys2Proof.Machine

/-! ## Issue (R300) -/

/-- A test that one element of a list meets besides those that another test names picks one more. -/
theorem length_filter_one {l : List Nat} {p q : Nat → Bool} {x : Nat} (hd : l.Nodup) (hx : x ∈ l) (hp : p x = false) (hq : q x = true)
    (ho : ∀ y, y ≠ x → q y = p y) : (l.filter q).length = (l.filter p).length + 1 := by
  induction l with
  | nil => exact absurd hx List.not_mem_nil
  | cons y l ih =>
    obtain ⟨hy, hd⟩ := List.nodup_cons.1 hd
    by_cases h : y = x
    · subst h
      have hl : l.filter q = l.filter p := List.filter_congr fun z hz => ho z fun e => hy (e ▸ hz)
      rw [List.filter_cons_of_pos hq, List.filter_cons_of_neg (by simp [hp]), hl, List.length_cons]
    · have := ih hd ((List.mem_cons.1 hx).resolve_left (Ne.symm h))
      simp only [List.filter_cons, ho y h]
      split
      · simp only [List.length_cons, this]
      · exact this

/-- Core d's contexts are held in t as in s. -/
def HeldAs (s t : State) (d : Nat) : Prop := ∀ x, (strandAt t ⟨d, x⟩).holder = (strandAt s ⟨d, x⟩).holder

theorem HeldAs.heldOn {s t : State} {d : Nat} (h : HeldAs s t d) (j : Nat) : heldOn t j d = heldOn s j d := by
  unfold Machine.heldOn
  exact List.filter_congr fun x _ => by rw [h x]

theorem HeldAs.freeContexts {s t : State} {d : Nat} (h : HeldAs s t d) (but : List Nat) :
    freeContexts t d but = freeContexts s d but := by
  unfold Machine.freeContexts
  exact List.filter_congr fun x _ => by rw [h x]

theorem mem_freeContexts {s : State} {c x : Nat} (h : x ∈ freeContexts s c []) : x < 4 ∧ (strandAt s ⟨c, x⟩).holder = none := by
  obtain ⟨hx, hf⟩ := List.mem_filter.1 h
  refine ⟨List.mem_range.1 hx, ?_⟩
  cases hh : (strandAt s ⟨c, x⟩).holder with
  | none => rfl
  | some i => rw [hh] at hf; exact absurd hf (by simp)

theorem freeContexts_nodup (s : State) (c : Nat) (but : List Nat) : (freeContexts s c but).Nodup := List.nodup_range.filter _

/-- The contexts of a list become held, one after another (R300). -/
theorem holdContexts (j : Nat) (b : Job) (c : Nat) (l : List Nat) (s : State) (hd : l.Nodup)
    (hl : ∀ x, x ∈ l → x < 4 ∧ (strandAt s ⟨c, x⟩).holder = none) :
    (heldOn (l.foldl (holdContext j b c) s) j c).length = (heldOn s j c).length + l.length ∧
    (l.foldl (holdContext j b c) s).jobs = s.jobs ∧ (l.foldl (holdContext j b c) s).dev = s.dev ∧
    (l.foldl (holdContext j b c) s).mem = s.mem ∧ ∀ d, d ≠ c → HeldAs s (l.foldl (holdContext j b c) s) d := by
  induction l generalizing s with
  | nil => exact ⟨rfl, rfl, rfl, rfl, fun _ _ _ => rfl⟩
  | cons x l ih =>
    obtain ⟨hx, hd⟩ := List.nodup_cons.1 hd
    have hsame (y : Nat) (h : y ≠ x) : (strandAt (holdContext j b c s x) ⟨c, y⟩).holder = (strandAt s ⟨c, y⟩).holder := by
      unfold holdContext
      dsimp only
      rw [strandAt_onStrand_ne s _ (by intro e; apply h; rw [At.mk.injEq] at e; exact e.2)]
    have hother (d : Nat) (h : d ≠ c) : HeldAs s (holdContext j b c s x) d := fun y => by
      unfold holdContext
      dsimp only
      rw [strandAt_onStrand_ne s _ (by intro e; apply h; rw [At.mk.injEq] at e; exact e.1)]
    obtain ⟨hx4, hxn⟩ := hl x (by simp)
    have hone : (heldOn (holdContext j b c s x) j c).length = (heldOn s j c).length + 1 := by
      refine length_filter_one List.nodup_range (List.mem_range.2 hx4) (by rw [hxn]; rfl) ?_ fun y h => by rw [hsame y h]
      unfold holdContext
      dsimp only
      rw [strandAt_onStrand_same]
      exact beq_self_eq_true _
    obtain ⟨h1, h2, h3, h4, h5⟩ := ih (holdContext j b c s x) hd fun y hy => by
      obtain ⟨hy4, hyn⟩ := hl y (by simp [hy])
      exact ⟨hy4, by rw [hsame y (fun e => hx (e ▸ hy))]; exact hyn⟩
    rw [List.foldl_cons]
    refine ⟨by rw [h1, hone, List.length_cons]; omega, h2, h3, h4, fun d hdc y => (h5 d hdc y).trans (hother d hdc y)⟩

/-- A placed core takes the job: it holds one context for each of its strands (R300). -/
theorem placeJob_spec {s : State} {j c : Nat} (hn : (jobAt s j).strands + 1 ≤ (freeContexts s c []).length) :
    (heldOn (placeJob j s c) j c).length = (heldOn s j c).length + ((jobAt s j).strands + 1) ∧
    (∃ p l, jobAt (placeJob j s c) j = { jobAt s j with pending := p, live := l }) ∧ (placeJob j s c).dev = s.dev ∧
    (placeJob j s c).mem = s.mem ∧ ∀ d, d ≠ c → HeldAs s (placeJob j s c) d := by
  have hsub := List.take_sublist ((jobAt s j).strands + 1) (freeContexts s c [])
  obtain ⟨h1, h2, h3, h4, h5⟩ := holdContexts j (jobAt s j) c ((freeContexts s c []).take ((jobAt s j).strands + 1)) s
    (hsub.nodup (freeContexts_nodup s c [])) fun x hx => mem_freeContexts (hsub.subset hx)
  unfold placeJob
  dsimp only
  generalize ((freeContexts s c []).take ((jobAt s j).strands + 1)).foldl (holdContext j (jobAt s j) c) s = t at h1 h2 h3 h4 h5
  have hst (d x : Nat) := strandAt_onCore t c (f := fun k => { k with dqBase := tabPut k.dqBase j (k.dqPushes, k.dqPops) })
    (fun _ => rfl) ⟨d, x⟩
  rw [List.length_take, Nat.min_eq_left hn] at h1
  refine ⟨Eq.trans (congrArg List.length ?_) h1, ⟨tabPut (jobAt s j).pending c ((jobAt s j).strands + 1),
    (jobAt s j).live + (jobAt s j).strands + 1, ?_⟩, h3, h4, fun d hd x => ?_⟩
  · exact HeldAs.heldOn (s := t) (fun x => congrArg Strand.holder (hst c x)) j
  · rw [jobAt_onJob_same]
    have : jobAt (wakeDie (onCore t c fun k => { k with dqBase := tabPut k.dqBase j (k.dqPushes, k.dqPops) }) c) j = jobAt s j :=
      jobAt_of_jobs h2 j
    rw [this]
  · exact (congrArg Strand.holder (hst d x)).trans (h5 d hd x)

/-- The placed cores take the job one after another (R300). -/
theorem placeJobs {j n : Nat} (l : List Nat) (s : State) (hd : l.Nodup) (hs : (jobAt s j).strands + 1 = n)
    (hl : ∀ c, c ∈ l → n ≤ (freeContexts s c []).length) :
    (∀ c, c ∈ l → (heldOn (l.foldl (placeJob j) s) j c).length = (heldOn s j c).length + n) ∧
    (∃ p q, jobAt (l.foldl (placeJob j) s) j = { jobAt s j with pending := p, live := q }) ∧
    (l.foldl (placeJob j) s).dev = s.dev ∧ (l.foldl (placeJob j) s).mem = s.mem ∧
    ∀ d, d ∉ l → HeldAs s (l.foldl (placeJob j) s) d := by
  induction l generalizing s with
  | nil => exact ⟨fun _ h => absurd h List.not_mem_nil, ⟨_, _, rfl⟩, rfl, rfl, fun _ _ _ => rfl⟩
  | cons c l ih =>
    obtain ⟨hc, hd⟩ := List.nodup_cons.1 hd
    obtain ⟨h1, ⟨p, q, h2⟩, h3, h4, h5⟩ := placeJob_spec (s := s) (j := j) (c := c) (by rw [hs]; exact hl c (by simp))
    have hs1 : (jobAt (placeJob j s c) j).strands + 1 = n := by rw [h2]; exact hs
    obtain ⟨i1, ⟨p', q', i2⟩, i3, i4, i5⟩ := ih (placeJob j s c) hd hs1 fun d h => by
      rw [(h5 d fun e => hc (e ▸ h)).freeContexts]
      exact hl d (by simp [h])
    rw [List.foldl_cons]
    refine ⟨fun d h => ?_, ⟨p', q', by rw [i2, h2]⟩, i3.trans h3, i4.trans h4, fun d h x => ?_⟩
    · obtain rfl | h := List.mem_cons.1 h
      · rw [(i5 d hc).heldOn, h1, hs]
      · rw [i1 d h, (h5 d fun e => hc (e ▸ h)).heldOn]
    · obtain ⟨hdc, hdl⟩ := not_or.1 (mt List.mem_cons.2 h)
      exact (i5 d hdl x).trans (h5 d hdc x)

theorem placedCores_nodup {b : Job} (h : b.core0 + b.ncore < 48) : (placedCores b).Nodup := by
  unfold placedCores
  refine List.nodup_flatMap.2 ⟨fun k _ => List.Nodup.map (fun i i' e => by simp at e; omega) List.nodup_range, ?_⟩
  refine (setBits_nodup 36 b.clusters).imp fun {k k'} hk => ?_
  intro c hc hc'
  obtain ⟨i, hi, rfl⟩ := List.mem_map.1 hc
  obtain ⟨i', hi', e⟩ := List.mem_map.1 hc'
  rw [List.mem_range] at hi hi'
  omega

/-- A capture entry is written when its job matches the filter; it changes memory, the list of entries and the job's own entry
(R451). -/
theorem captureIssue_spec (s : State) (j : Nat) : (captureIssue s j).cores = s.cores ∧
    { (captureIssue s j).dev with capOf := [] } = { s.dev with capOf := [] } ∧ (s.dev.capen = false → (captureIssue s j).mem = s.mem) ∧
    ∃ x, jobAt (captureIssue s j) j = { jobAt s j with cap := x } := by
  unfold captureIssue
  dsimp only
  split
  · exact ⟨rfl, rfl, fun _ => rfl, _, rfl⟩
  next h =>
    rw [storeN_rest]
    refine ⟨rfl, rfl, fun hc => ?_, some s.dev.caphead, ?_⟩
    · exact absurd (by simp [captures, hc]) h
    · rw [jobAt_onJob_same]
      all_goals rfl

theorem notFenced {s : State} {b : Job} (h : ∀ c, c ∈ placedCores b → (coreAt s c).fenced = false) :
    (placedCores b).any (fun c => (coreAt s c).fenced) = false := by
  simpa using h

/-- A job that is issued as the order says (R300). -/
def issued (order : Nat) (b : Job) : Job := { b with phase := 1, order := order }

/-- A job that is restored (R310). -/
def runsAgain (b : Job) : Job := { b with phase := 1, stopper := none, savedOn := [] }

theorem job_issues {s : State} {j : Nat} (hw : waiting (jobAt s j) = true) (hf : s.fatal = none) (hp : s.dev.plim ≠ 0)
    (hfen : ∀ c, c ∈ placedCores (jobAt s j) → (coreAt s c).fenced = false)
    (hm : partsMeet s (jobAt s j) = false ∨ (jobAt s j).noted = true) (hfits : fits s (jobAt s j) [] = true)
    (hg : goesFirst s j (jobAt s j) = false) : exec (.jobIssue j) s =
    .next (captureIssue ((placedCores (jobAt s j)).foldl (placeJob j)
      (wakePackage { onJob s j (issued s.issueNext) with issueNext := s.issueNext + 1 })) j) := by
  have h1 : ¬(!waiting (jobAt s j) || s.fatal.isSome || s.dev.plim == 0) = true := by simp [hw, hf, hp]
  have h2 : ¬(placedCores (jobAt s j)).any (fun c => (coreAt s c).fenced) = true := by rw [notFenced hfen]; decide
  have h3 : ¬(partsMeet s (jobAt s j) && !(jobAt s j).noted) = true := by
    obtain hm | hm := hm <;> simp [hm]
  have h4 : ¬(!fits s (jobAt s j) [] || goesFirst s j (jobAt s j)) = true := by simp [hfits, hg]
  exact ((if_neg h1).trans (if_neg h2)).trans ((if_neg h3).trans (if_neg h4))

theorem fits_room {s : State} {b : Job} (h : fits s b [] = true) {c : Nat} (hc : c ∈ placedCores b) :
    b.strands + 1 ≤ (freeContexts s c []).length := by
  have := List.all_eq_true.1 h c hc
  simp only [coreFits, Bool.and_eq_true, decide_eq_true_eq] at this
  exact this.1.1.1

/-! ## Stops (R305, R306, R443) -/

/-- A job that is to stop for another (R306). -/
def stoppedFor (job cycle : Nat) (v : Job) : Job :=
  { v with phase := 2, stopper := some job, stopAt := cycle, savedOn := [], saving := [], late := [] }

theorem stopAll (job : Nat) (l : List Nat) (s : State) :
    let t := l.foldl (fun s j => onJob s j (stoppedFor job s.cycle)) s
    (∀ v, v ∈ l ∨ (jobAt s v).phase = 2 ∧ (jobAt s v).stopper = some job → (jobAt t v).phase = 2 ∧ (jobAt t v).stopper = some job) ∧
    (∀ v, v ∉ l → jobAt t v = jobAt s v) ∧ { t with jobs := [] } = { s with jobs := [] } := by
  induction l generalizing s with
  | nil => exact ⟨fun v h => h.resolve_left List.not_mem_nil, fun _ _ => rfl, rfl⟩
  | cons j l ih =>
    obtain ⟨h1, h2, h3⟩ := ih (onJob s j (stoppedFor job s.cycle))
    refine ⟨fun v hv => h1 v ?_, fun v hv => ?_, h3⟩
    · by_cases h : v = j
      · subst h
        exact .inr (by rw [jobAt_onJob_same]; exact ⟨rfl, rfl⟩)
      · rw [jobAt_onJob_ne _ _ h]
        exact hv.imp_left fun hm => (List.mem_cons.1 hm).resolve_left h
    · obtain ⟨hj, hl⟩ := not_or.1 (mt List.mem_cons.2 hv)
      exact (h2 v hl).trans (jobAt_onJob_ne _ _ hj)

theorem class0_stops {s : State} {j : Nat} {l : List Nat} (hw : waiting (jobAt s j) = true) (hc : (jobAt s j).cls = 0)
    (hfits : fits s (jobAt s j) [] = false) (hf : s.fatal = none) (hp : s.dev.plim ≠ 0)
    (h2 : ∀ o, o ∈ s.jobs → o.2.phase = 2 → placementsMeet o.2 (jobAt s j) = false)
    (hr : ∀ o, o ∈ s.jobs → o.1 ≠ j → waiting o.2 = true → o.2.cls = 0 → (o.2.readyAt < (jobAt s j).readyAt ∨
      o.2.readyAt = (jobAt s j).readyAt ∧ (o.2.place < (jobAt s j).place ∨ o.2.place = (jobAt s j).place ∧ o.2.order < (jobAt s j).order)) →
      placementsMeet o.2 (jobAt s j) = false)
    (hv : victimsOf s (jobAt s j) = some l) (hl : ∀ v, v ∈ l → jobRuns s v = true) :
    exec (.class0Preempt j) s = .next (l.foldl (fun s i => onJob s i (stoppedFor j s.cycle)) s) := by
  have a2 : (s.jobs.any fun o => o.2.phase == 2 && placementsMeet o.2 (jobAt s j)) = false := by
    refine List.any_eq_false.2 fun o ho => ?_
    simp only [Bool.and_eq_true, beq_iff_eq, not_and]
    exact fun hph => by rw [h2 o ho hph]; decide
  have a3 : (s.jobs.any fun o => o.1 != j && waiting o.2 && o.2.cls == 0 && readyBefore o.2 (jobAt s j) && placementsMeet o.2 (jobAt s j)) =
      false := by
    refine List.any_eq_false.2 fun o ho => ?_
    simp only [Bool.and_eq_true, beq_iff_eq, bne_iff_ne, not_and, readyBefore, decide_eq_true_eq, and_imp]
    exact fun h1 hw' hc' hb => by rw [hr o ho h1 hw' hc' hb]; decide
  have hn : ¬(!waiting (jobAt s j) || (jobAt s j).cls != 0 || fits s (jobAt s j) []
      || (s.jobs.any fun o => o.2.phase == 2 && placementsMeet o.2 (jobAt s j))
      || (s.jobs.any fun o => o.1 != j && waiting o.2 && o.2.cls == 0 && readyBefore o.2 (jobAt s j) && placementsMeet o.2 (jobAt s j))
      || s.fatal.isSome || s.dev.plim == 0) = true := by
    simp [hw, hc, hfits, a2, a3, hf, hp]
  have hrun : ¬(l.any fun j => !jobRuns s j) = true := by simpa using hl
  refine (if_neg hn).trans ?_
  rw [hv]
  exact if_neg hrun

/-! ## Stream nodes (R299, R442) -/

section
variable (ctx src dst len : Nat) (s : State)

theorem poisoned_nil {s : State} (h : s.poison = []) (l n : Nat) : poisoned s l n = none := by
  simp [poisoned, h]

theorem partPoison_nil {s : State} (h : s.poison = []) (l n : Nat) : partPoison s l n = false := by
  simp [partPoison, poisoned, clearPoison, h]

variable {ctx src dst len s} {v : State} {l : List (Nat × Nat)} (h0 : 0 < len)
include h0

theorem streamCopy_noSource (f : Nat) (h : frontLocs ctx false (pageCuts src (min 512 len)) s = none) :
    streamCopy ctx (f + 1) src dst len s = (s, some 192) := by
  rw [streamCopy, if_neg (Nat.ne_of_gt h0)]
  have h' : frontLocs ctx false (pageCuts src (Nat.min 512 len)) s = none := h
  simp only [h']

variable (hlen : len ≤ 512) (hv : frontLocs ctx false (pageCuts src len) s = some (v, l)) (hp : v.poison = [])
include hlen hv hp

theorem streamCopy_sector (f : Nat) : streamCopy ctx (f + 1) src dst len s =
    match frontLocs ctx true (pageCuts dst len) v with
    | none => (v, some 128)
    | some (w, m) => if m.any (fun p => partPoison w p.1 p.2) then (w, some 128) else
      let b := l.flatMap (fun p => loadN w p.1 p.2)
      let b := if src < dst ∧ dst < src + len then (List.range len).map (fun i => b.getD (i % (dst - src)) 0) else b
      streamCopy ctx f (src + len) (dst + len) (len - len) (writeLocs m b w) := by
  have hn : Nat.min 512 len = len := Nat.min_eq_right hlen
  have ha : (l.any fun p => (poisoned v p.1 p.2).isSome) = false := by
    simp [poisoned_nil hp]
  rw [streamCopy, if_neg (Nat.ne_of_gt h0)]
  simp only [hn, hv, ha, Bool.false_eq_true, if_false]
  all_goals rfl

theorem streamCopy_noDestination (f : Nat) (h : frontLocs ctx true (pageCuts dst len) v = none) :
    streamCopy ctx (f + 1) src dst len s = (v, some 128) := by
  rw [streamCopy_sector h0 hlen hv hp, h]

theorem streamCopy_moves {w : State} {m : List (Nat × Nat)} (h : frontLocs ctx true (pageCuts dst len) v = some (w, m))
    (hw : w.poison = []) (ho : ¬(src < dst ∧ dst < src + len)) :
    streamCopy ctx 1 src dst len s = (writeLocs m (l.flatMap (fun p => loadN w p.1 p.2)) w, none) := by
  have ha : (m.any fun p => partPoison w p.1 p.2) = false := by
    simp [partPoison_nil hw]
  rw [streamCopy_sector h0 hlen hv hp, h]
  simp only [ha, Bool.false_eq_true, if_false, ho, streamCopy]

end

theorem sectors_pos {n : Nat} (h : 0 < n) : ∃ f, ceilDiv n 512 = f + 1 :=
  ⟨ceilDiv n 512 - 1, by unfold ceilDiv; omega⟩

theorem sectors_one {n : Nat} (h : 0 < n) (h' : n ≤ 512) : ceilDiv n 512 = 1 := by
  unfold ceilDiv; omega

section
variable {s : State} {i : Nat} {x : Stream} (hx : s.streams[i]? = some x) (ha : x.active = true) (hw : s.dev.pkg < 3 ∨ s.dev.plim ≠ 0)
include hx ha hw

theorem stream_completes : exec (.streamNodeComplete i) s =
    let r := streamCopy x.ctx (ceilDiv x.len 512) x.src x.dst x.len { wakePackage s with streams := s.streams.eraseIdx i }
    .next (completeNode (match r.2 with | some o => logPlain r.1 0x8C 2 (x.slot * 4096 + x.node) o | none => r.1)
      (x.slot, x.node) r.2.isSome) := by
  show execStreamNodeComplete i s = _
  rw [execStreamNodeComplete, hx]
  simp only [ha, if_true, access_wakes hw]
  all_goals rfl

end

/-! ## Chunks of a job (R29) -/

section
variable {s : State} {r : CardReq} {rest : List CardReq} (h : s.cards = r :: rest)
include h

theorem card_dropped (hs : ∀ e, e ∈ (strandAt s ⟨r.core, r.sx⟩).sb → e.id ≠ r.sbId) : exec .cardServe s = .next { s with cards := rest } := by
  have hn : ((strandAt s ⟨r.core, r.sx⟩).sb.any fun e => e.id == r.sbId) = false := by simpa using hs
  show execCardServe s = _
  rw [execCardServe, h]
  exact if_pos (by rw [show (strandAt { s with cards := rest } ⟨r.core, r.sx⟩) = strandAt s ⟨r.core, r.sx⟩ from rfl, hn]; decide)

/-- A strand whose request for a chunk is answered with b (R29). -/
def dealtTo (id : Nat) (b : Nat × Nat) (t : Strand) : Strand :=
  { t with
    sb := t.sb.map (fun e => if e.id = id then { e with val := some (chunkWord b) } else e)
    task := t.task.map (fun k => if b.2 = 0 then k else { k with grants := k.grants ++ [b] }) }

/-- A job of whose work n more chunks are dealt (R29). -/
def dealtMore (n : Nat) (b : Job) : Job := { b with dealt := b.dealt + n }

theorem card_dealt (hs : ∃ e, e ∈ (strandAt s ⟨r.core, r.sx⟩).sb ∧ e.id = r.sbId) :
    let b := jobAt s r.job
    let n := Nat.min (b.count - b.dealt) (Nat.max 1 (ceilDiv (b.count - b.dealt) (2 * (placedCores b).length)))
    exec .cardServe s = .next (onStrand (onJob { s with cards := rest } r.job (dealtMore n))
      ⟨r.core, r.sx⟩ (dealtTo r.sbId (b.dealt, n))) := by
  obtain ⟨e, he, hid⟩ := hs
  have hn : ((strandAt s ⟨r.core, r.sx⟩).sb.any fun e => e.id == r.sbId) = true := List.any_eq_true.2 ⟨e, he, by simp [hid]⟩
  show execCardServe s = _
  rw [execCardServe, h]
  exact if_neg (by rw [show (strandAt { s with cards := rest } ⟨r.core, r.sx⟩) = strandAt s ⟨r.core, r.sx⟩ from rfl, hn]; decide)

end

theorem stream_starts {s : State} {i : Nat} {x : Stream} (hx : s.streams.zipIdx.find? (fun y => !y.1.active) = some (x, i))
    (hl : (s.streams.filter (·.active)).length < 8) (hf : s.fatal = none) (hw : s.dev.pkg < 3 ∨ s.dev.plim ≠ 0) :
    exec .streamNodeStart s = .next { wakePackage s with streams := setNth s.streams i { x with active := true } } := by
  have hn : ¬(8 ≤ (s.streams.filter (·.active)).length ∨ s.fatal.isSome = true) := by
    simp only [hf, Option.isSome_none, Bool.false_eq_true, or_false]
    omega
  refine (if_neg hn).trans ?_
  simp only [hx, access_wakes hw]
  all_goals rfl

section
variable {s : State} {c j : Nat} (hph : (jobAt s j).phase = 2) (hc : c ∈ placedCores (jobAt s j)) (hso : c ∉ (jobAt s j).savedOn)
  (hsv : c ∉ (jobAt s j).saving)
include hph hc hso hsv

theorem point_late (hlate : c ∉ (jobAt s j).late) (ht : (jobAt s j).stopAt + 2 * s.dev.ttper ≤ s.cycle) :
    exec (.preemptPointLate c j) s =
      .next (onJob (logPlain s 0x97 0 c (s.cycle - (jobAt s j).stopAt)) j (fun b => { b with late := b.late ++ [c] })) := by
  have hn : ¬((jobAt s j).phase ≠ 2 || !(placedCores (jobAt s j)).contains c || (jobAt s j).savedOn.contains c ||
      (jobAt s j).saving.contains c || (jobAt s j).late.contains c ||
      decide (s.cycle < (jobAt s j).stopAt + 2 * s.dev.ttper)) = true := by
    simp only [hph, hc, hso, hsv, hlate, List.contains_iff_mem, ne_eq, not_true_eq_false, decide_false, Bool.false_or, Bool.or_eq_true,
      Bool.not_eq_true', Bool.eq_false_iff, or_self, false_or, decide_eq_true_eq]
    omega
  exact if_neg hn

variable (hk : (jobAt s j).killed = false) (hpt : pointsReached s c = true)
include hk hpt

theorem save_open : ¬((jobAt s j).phase ≠ 2 || (jobAt s j).killed || !(placedCores (jobAt s j)).contains c ||
    (jobAt s j).savedOn.contains c || (jobAt s j).saving.contains c || !pointsReached s c) = true := by
  simp only [hph, hc, hso, hsv, hk, hpt, List.contains_iff_mem, ne_eq, not_true_eq_false, decide_false, Bool.false_or, Bool.or_eq_true,
    Bool.not_eq_true', Bool.eq_false_iff, or_self, not_false_eq_true]

theorem save_fails {code : Nat} (h : frameFails s (jobAt s j).ctx c = some code) :
    exec (.contextSave c j) s = .next (failSave s j c code) := by
  show execContextSave c j s = _
  unfold execContextSave
  dsimp only
  rw [if_neg (save_open hph hc hso hsv hk hpt), h]

theorem save_begins (h : frameFails s (jobAt s j).ctx c = none) :
    exec (.contextSave c j) s = .next (onJob s j (fun b => { b with saving := b.saving ++ [c] })) := by
  show execContextSave c j s = _
  unfold execContextSave
  dsimp only
  rw [if_neg (save_open hph hc hso hsv hk hpt), h]

end

section
variable {s : State} {j : Nat} (hph : (jobAt s j).phase = 3) (hk : (jobAt s j).killed = false) (hr : refits s (jobAt s j) = true)
  (hf : s.fatal = none) (hp : s.dev.plim ≠ 0) (ho : ∀ o, o ∈ s.jobs → waiting o.2 = true → o.2.cls < (jobAt s j).cls →
    placementsMeet o.2 (jobAt s j) = true → fits s o.2 [] = false)
include hph hk hr hf hp ho

theorem job_restores : exec (.contextRestore j) s = match unreadable s j with
    | some c => .next (failSave s j c 0x9B)
    | none => .next ((placedCores (jobAt s j)).foldl (restoreOn j)
        (wakePackage (onJob s j (runsAgain)))) := by
  have hu : (s.jobs.any fun o => waiting o.2 && decide (o.2.cls < (jobAt s j).cls) && placementsMeet o.2 (jobAt s j) && fits s o.2 []) =
      false := by
    refine List.any_eq_false.2 fun o hm => ?_
    simp only [Bool.and_eq_true, decide_eq_true_eq, not_and, and_imp]
    exact fun hw hcls hmeet => by rw [ho o hm hw hcls hmeet]; decide
  refine if_neg ?_
  rw [hu]
  simp [hph, hk, hr, hf, hp]

end

theorem pending_zero {l : Tab Nat} (h : ∀ p, p ∈ l → p.2 = 0) : (l.all fun p => p.2 == 0) = true := by
  simpa using h

theorem job_finishes {s : State} {j : Nat} (hph : (jobAt s j).phase = 1) (hk : (jobAt s j).killed = false) (hl : (jobAt s j).live = 0)
    (hpd : ∀ p, p ∈ (jobAt s j).pending → p.2 = 0) : exec (.jobEnd j) s = .next (finishJob s j) := by
  have h4 : ¬4 ≤ (jobAt s j).phase := by omega
  have hk' : ¬(jobAt s j).killed = true := by simp [hk]
  exact ((if_neg h4).trans (if_neg hk')).trans (if_pos ⟨hph, hl, pending_zero hpd⟩)

theorem job_killed {s : State} {j : Nat} (hph : (jobAt s j).phase < 4) (hk : (jobAt s j).killed = true) (hs : (jobAt s j).saving = [])
    (hh : ∀ a, a ∈ heldBy s j → (strandAt s a).status ≠ .running ∧
      (∀ e, e ∈ queuedEntries s a → e.ended = true ∨ atWork s a.c e = false) ∧
      ∀ r, r ∈ s.remotes → ¬(r.core = a.c ∧ r.sx = a.x)) :
    exec (.jobEnd j) s = .next (finishJob (dropSaved j ((heldBy s j).foldl killStrand s)) j) := by
  have ha : ((heldBy s j).all fun a => atEnd s a && remotesDone s a) = true := by
    refine List.all_eq_true.2 fun a hm => ?_
    obtain ⟨h1, h2, h3⟩ := hh a hm
    simp only [atEnd, remotesDone, Bool.and_eq_true, bne_iff_ne, List.all_eq_true, Bool.or_eq_true, Bool.not_eq_true', 
      Bool.and_eq_false_iff, beq_eq_false_iff_ne]
    exact ⟨⟨h1, h2⟩, fun r hr => not_and_or.1 (h3 r hr)⟩
  have hn : ¬(!(jobAt s j).saving.isEmpty || !((heldBy s j).all fun a => atEnd s a && remotesDone s a)) = true := by
    rw [ha, hs]; decide
  exact ((if_neg (Nat.not_le.2 hph)).trans (if_pos hk)).trans (if_neg hn)

/-- Settles O59. -/
theorem frontWork : Obligations.FrontWork := by
  intro s
  refine ⟨fun r rest h => ⟨fun hs => card_dropped h hs, fun hs => ?_⟩, fun i x hx hl hf hw => ?_, fun i x hx ha hw =>
      ⟨fun h0 => ?_, fun h0 hn => ?_, fun l v h0 h512 _ hv hp => ⟨fun hd => ?_, fun w m hm hwp ho => ?_⟩, fun hn => ?_, fun o ho => ?_⟩,
    fun j hw hf hp hfen h48 hm hfits hg => ?_, fun j l hw hc hfits hf hp h2 hr hv hl => ?_, fun c j hph hc hso hsv => ⟨fun hlate ht => ?_,
      fun hk hpt => ⟨fun ho => ?_, fun ho hb => ?_, fun ho hb => ?_⟩⟩,
    fun c j hc => ?_, fun i h => ?_, fun j hph hk hr hf hp ho => ⟨fun c hu => ?_, fun hu => ?_⟩, fun j => ⟨fun hph hk hl hpd => ?_, fun hph hk hs hh => ?_⟩⟩
  · refine ⟨_, card_dealt h hs, rfl, ?_, ?_, rfl, ?_⟩
    · exact congrArg Job.dealt (jobAt_onJob_same { s with cards := rest } r.job (dealtMore _))
    · rw [strandAt_onStrand_same]
      all_goals rfl
    · rw [strandAt_onStrand_same]
      all_goals rfl
  · refine ⟨_, stream_starts hx hl hf hw, ?_, rfl⟩
    exact setNth_eq_set _ _ _
  · exact congrArg (fun n => streamCopy x.ctx n x.src x.dst x.len { wakePackage s with streams := s.streams.eraseIdx i })
      (show ceilDiv x.len 512 = 0 by rw [h0]; rfl)
  · obtain ⟨f, hfuel⟩ := sectors_pos h0
    rw [hfuel]
    exact streamCopy_noSource h0 f hn
  · rw [sectors_one h0 h512]
    exact streamCopy_noDestination h0 h512 hv hp 0 hd
  · rw [sectors_one h0 h512]
    exact streamCopy_moves h0 h512 hv hp hm hwp ho
  · rw [stream_completes hx ha hw]
    simp only [hn]
    all_goals rfl
  · rw [stream_completes hx ha hw]
    simp only [ho]
    all_goals rfl
  · obtain ⟨p1, ⟨p, q, p2⟩, p3, p4, -⟩ := placeJobs (j := j) (n := (jobAt s j).strands + 1) (placedCores (jobAt s j))
      (wakePackage { onJob s j (issued s.issueNext) with issueNext := s.issueNext + 1 })
      (placedCores_nodup h48) (Eq.trans (b := (issued s.issueNext (jobAt s j)).strands + 1)
        (congrArg (fun b : Job => b.strands + 1) (jobAt_onJob_same s j (issued s.issueNext))) rfl) fun c hc => fits_room hfits hc
    refine ⟨_, job_issues hw hf hp hfen hm hfits hg, ?_⟩
    generalize (placedCores (jobAt s j)).foldl (placeJob j) _ = t at p1 p2 p3 p4
    obtain ⟨c1, c2, c3, x, c4⟩ := captureIssue_spec t j
    have hjob := jobAt_onJob_same s j (issued s.issueNext)
    refine ⟨?_, ?_, fun hcap => ?_, c2.trans ?_, fun c hc => ?_⟩
    · rw [c4, p2]
      exact congrArg Job.phase hjob
    · rw [c4, p2]
      exact congrArg Job.order hjob
    · exact (c3 (by rw [p3]; exact hcap)).trans p4
    · rw [p3]
      simp only [wakePackage, onJob, hp, if_false]
    · have hheld : HeldAs t (captureIssue t j) c := fun x => by rw [strandAt_of_cores c1]
      rw [hheld.heldOn, p1 c hc]
      all_goals rfl
  · obtain ⟨h1, h3, h4⟩ := stopAll j l s
    exact ⟨_, class0_stops hw hc hfits hf hp h2 hr hv hl, fun v hv => h1 v (.inl hv), h3, h4⟩
  · refine ⟨_, point_late hph hc hso hsv hlate ht, ?_, ?_⟩
    · rw [jobAt_onJob_same, logPlain_rest]
      all_goals rfl
    · rw [logPlain_rest]
      all_goals rfl
  · exact save_fails hph hc hso hsv hk hpt (if_pos ho)
  · exact save_fails hph hc hso hsv hk hpt ((if_neg (Bool.eq_false_iff.1 ho)).trans (if_pos hb))
  · exact ⟨_, save_begins hph hc hso hsv hk hpt ((if_neg (Bool.eq_false_iff.1 ho)).trans (if_neg (Bool.eq_false_iff.1 hb))),
      jobAt_onJob_same s j (fun b => { b with saving := b.saving ++ [c] }), fun i hi => jobAt_onJob_ne s _ hi, rfl⟩
  · obtain ⟨hs, hv, ht⟩ := saveContexts c (heldOn s j c) (s, [])
    obtain ⟨d1, d2, d3, d4⟩ := saveDone_spec s c j _ hs
    refine ⟨_, save_completes hc, d1, d2, d3, fun x hx hh => ?_⟩
    rw [d4]
    refine ⟨ht x ?_, (hv ⟨c, x⟩).1.trans hh⟩
    exact List.mem_filter.2 ⟨List.mem_range.2 hx, by rw [hh]; exact beq_self_eq_true _⟩
  · exact victims_released h
  · rw [job_restores hph hk hr hf hp ho, hu]
  · obtain ⟨h1, h2⟩ := restoreOn_all j (placedCores (jobAt s j))
      (wakePackage (onJob s j (runsAgain)))
    refine ⟨_, (job_restores hph hk hr hf hp ho).trans (by rw [hu]), ?_, ?_, fun c hc => h2 c (.inl hc)⟩
    · rw [jobAt_of_jobs h1]
      exact congrArg Job.phase (jobAt_onJob_same s j runsAgain)
    · rw [jobAt_of_jobs h1]
      exact congrArg Job.savedOn (jobAt_onJob_same s j runsAgain)
  · exact job_finishes hph hk hl hpd
  · exact job_killed hph hk hs hh

end Sys2Proof.Machine
end

section
/-! The timetable: periods, the choice of strands, waits that expire, asynchronous causes, tasks that start, steals, settle sets (R22,
R27, R283, R302, R304, R424 to R428, R431). -/

namespace Sys2Proof.Machine

/-! ## Periods (R302) -/

/-- A strand at the start of a period of ttper cycles (R302). -/
def budgeted (ttper : Nat) (t : Strand) : Strand :=
  if t.holder.isNone then t
  else { t with segbud := ((t.share + 1) * ttper / 256 : Nat) + (min 0 t.segbud) }

theorem periodStrand_quiet {s : State} {a : At} (h : (strandAt s a).holder.isSome = true →
    -(s.dev.ttper : Int) ≤ (strandAt s a).segbud ∨ (strandAt s a).overran = true) :
    periodStrand s a = if (strandAt s a).holder.isNone then s
      else onStrand s a (fun t => { t with segbud := (shareCycles s.dev.ttper t.share : Int) + min 0 t.segbud }) := by
  unfold periodStrand
  dsimp only
  by_cases hn : (strandAt s a).holder.isNone = true
  · rw [if_pos hn, if_pos hn]
  · have hs : (strandAt s a).holder.isSome = true := Option.isSome_iff_ne_none.2 (by simpa using hn)
    have ho : ¬((strandAt s a).segbud < -(s.dev.ttper : Int) ∧ (!(strandAt s a).overran) = true) := by
      obtain h | h := h hs
      · omega
      · simp [h]
    rw [if_neg hn, if_neg hn, if_neg ho]

/-- The contexts of a list begin a period without a record (R302). -/
theorem periodStrands (c : Nat) (l : List Nat) (s : State) (hd : l.Nodup) (h : ∀ x, x ∈ l → (strandAt s ⟨c, x⟩).holder.isSome = true →
      -(s.dev.ttper : Int) ≤ (strandAt s ⟨c, x⟩).segbud ∨ (strandAt s ⟨c, x⟩).overran = true) :
    let t := l.foldl (fun s x => periodStrand s ⟨c, x⟩) s
    t.mem = s.mem ∧ (coreAt t c).periodDue = (coreAt s c).periodDue ∧
    (∀ x, x ∈ l → strandAt t ⟨c, x⟩ = budgeted s.dev.ttper (strandAt s ⟨c, x⟩)) ∧
    ∀ x, x ∉ l → strandAt t ⟨c, x⟩ = strandAt s ⟨c, x⟩ := by
  induction l generalizing s with
  | nil => exact ⟨rfl, rfl, fun _ h => absurd h List.not_mem_nil, fun _ _ => rfl⟩
  | cons y l ih =>
    obtain ⟨hy, hd⟩ := List.nodup_cons.1 hd
    have hone : (periodStrand s ⟨c, y⟩).mem = s.mem ∧ (periodStrand s ⟨c, y⟩).dev = s.dev ∧
        (coreAt (periodStrand s ⟨c, y⟩) c).periodDue = (coreAt s c).periodDue ∧
        strandAt (periodStrand s ⟨c, y⟩) ⟨c, y⟩ = budgeted s.dev.ttper (strandAt s ⟨c, y⟩) ∧
        ∀ x, x ≠ y → strandAt (periodStrand s ⟨c, y⟩) ⟨c, x⟩ = strandAt s ⟨c, x⟩ := by
      rw [periodStrand_quiet (h y (by simp))]
      unfold budgeted
      split
      · exact ⟨rfl, rfl, rfl, rfl, fun _ _ => rfl⟩
      · refine ⟨rfl, rfl, ?_, strandAt_onStrand_same _ _ _, fun x hx => strandAt_onStrand_ne _ _ ?_⟩
        · rw [coreAt_onStrand_same]
        · intro e; apply hx; rw [At.mk.injEq] at e; exact e.2
    obtain ⟨h1, h2, h3, h4, h5⟩ := hone
    obtain ⟨i1, i2, i3, i4⟩ := ih (periodStrand s ⟨c, y⟩) hd fun x hx => by
      rw [h2, h5 x fun e => hy (e ▸ hx)]
      exact h x (by simp [hx])
    rw [List.foldl_cons]
    refine ⟨i1.trans h1, i2.trans h3, fun x hx => ?_, fun x hx => ?_⟩
    · obtain rfl | hx := List.mem_cons.1 hx
      · exact (i4 x hy).trans h4
      · rw [i3 x hx, h2, h5 x fun e => hy (e ▸ hx)]
    · obtain ⟨hxy, hxl⟩ := not_or.1 (mt List.mem_cons.2 hx)
      exact (i4 x hxl).trans (h5 x hxy)

/-- A core whose period has begun (R302). -/
def periodBegun (k : Core) : Core := { k with periodDue := false }

theorem period_starts {s : State} {c : Nat} (h : (coreAt s c).periodDue = true) : exec (.periodStart c) s =
    .next ([0, 1, 2, 3].foldl (fun s x => periodStrand s ⟨c, x⟩) (onCore s c periodBegun)) :=
  if_neg (by rw [h]; decide)

/-! ## The choice of a strand (R304) -/

theorem insertBy_head {c : Nat → Nat} {lt : Nat → Nat → Bool} (h1 : ∀ a b, lt a b = true → c a ≤ c b) (h2 : ∀ a b, lt a b = false → c b ≤ c a)
    (a : Nat) (l : List Nat) (hl : ∀ x, l.head? = some x → ∀ y, y ∈ l → c x ≤ c y) :
    ∀ x, (insertBy lt a l).head? = some x → ∀ y, y ∈ insertBy lt a l → c x ≤ c y := by
  cases l with
  | nil =>
    intro x hx y hy
    obtain rfl := Option.some.inj hx
    simp only [insertBy, List.mem_singleton] at hy
    rw [hy]
  | cons b l =>
    intro x hx y hy
    unfold insertBy at hx hy
    cases hab : lt a b with
    | true =>
      rw [hab] at hx hy
      obtain rfl := Option.some.inj hx
      obtain rfl | hy := List.mem_cons.1 hy
      · exact Nat.le_refl _
      · exact (h1 a b hab).trans (hl b rfl y hy)
    | false =>
      rw [hab] at hx hy
      obtain rfl := Option.some.inj hx
      obtain rfl | hy := List.mem_cons.1 hy
      · exact Nat.le_refl _
      · have hp : (insertBy lt a l).Perm (a :: l) := insertBy_perm lt a l
        obtain rfl | hy := List.mem_cons.1 (hp.mem_iff.1 hy)
        · exact h2 y b hab
        · exact hl b rfl y (by simp [hy])

/-- The first of a sorted list has the least class (R304). -/
theorem sortBy_head {c : Nat → Nat} {lt : Nat → Nat → Bool} (h1 : ∀ a b, lt a b = true → c a ≤ c b) (h2 : ∀ a b, lt a b = false → c b ≤ c a)
    (l : List Nat) : ∀ x, (sortBy lt l).head? = some x → ∀ y, y ∈ l → c x ≤ c y := by
  have h := foldl_invariant (P := fun acc : List Nat => ∀ x, acc.head? = some x → ∀ y, y ∈ acc → c x ≤ c y)
    (f := fun acc a => insertBy lt a acc) l (b := []) (fun x hx => by cases hx) fun acc hacc a _ => insertBy_head h1 h2 a acc hacc
  exact fun x hx y hy => h x hx y ((sortBy_perm lt l).mem_iff.2 hy)

theorem before_cls {s : State} {c : Nat} {b : Bool} {x y : Nat} :
    (before s c b x y = true → (strandAt s ⟨c, x⟩).cls ≤ (strandAt s ⟨c, y⟩).cls) ∧
    (before s c b x y = false → (strandAt s ⟨c, y⟩).cls ≤ (strandAt s ⟨c, x⟩).cls) := by
  unfold before
  dsimp only
  simp only [decide_eq_true_eq, decide_eq_false_iff_not]
  constructor <;> intro h <;> omega

/-- Does the budget of a context cover what its segment costs (R304)? -/
def affords (t : Strand) : Bool := decide (0 < t.segbud) && decide ((t.cost : Int) ≤ t.segbud)

theorem affords_iff (t : Strand) : affords t = true ↔ 0 < t.segbud ∧ (t.cost : Int) ≤ t.segbud := by
  simp [affords]

/-- The contexts among which the timetable chooses (R303, R304). -/
def choosable (s : State) (c : Nat) : List Nat :=
  let d := dieAt s (c / 288)
  let cand := (readyStrands s c).filter (fun x => affords (strandAt s ⟨c, x⟩))
  if decide (d.thead < d.hthr) ∧ (d.slk : Int) ≤ slackOf s c then cand.filter (fun x => decide ((strandAt s ⟨c, x⟩).energy ≤ d.ecap))
  else if cand.isEmpty then readyStrands s c else cand

theorem chooseStrand_eq (s : State) (c : Nat) : chooseStrand s c =
    (sortBy (before s c (decide ((dieAt s (c / 288)).thead < (dieAt s (c / 288)).hthr))) (choosable s c)).head? := rfl

theorem choosable_ready {s : State} {c x : Nat} (h : x ∈ choosable s c) : x ∈ readyStrands s c := by
  unfold choosable at h
  dsimp only at h
  split at h
  · exact (List.mem_filter.1 (List.mem_filter.1 h).1).1
  · split at h
    · exact h
    · exact (List.mem_filter.1 h).1

/-- While its die does not throttle, the choosable of a core are the ready strands that can afford their segments, if one can (R304). -/
theorem mem_choosable {s : State} {c y : Nat} (hd : (dieAt s (c / 288)).hthr ≤ (dieAt s (c / 288)).thead) (hy : y ∈ readyStrands s c)
    (ha : affords (strandAt s ⟨c, y⟩) = true) (x : Nat) : x ∈ choosable s c ↔ x ∈ readyStrands s c ∧ affords (strandAt s ⟨c, x⟩) = true := by
  have hm : y ∈ (readyStrands s c).filter (fun x => affords (strandAt s ⟨c, x⟩)) := List.mem_filter.2 ⟨hy, ha⟩
  have hn : ¬((readyStrands s c).filter (fun x => affords (strandAt s ⟨c, x⟩))).isEmpty = true := by
    rw [List.isEmpty_iff]
    exact List.ne_nil_of_mem hm
  have ht : ¬(decide ((dieAt s (c / 288)).thead < (dieAt s (c / 288)).hthr) = true ∧ ((dieAt s (c / 288)).slk : Int) ≤ slackOf s c) := by
    rw [decide_eq_true_eq]
    omega
  unfold choosable
  dsimp only
  rw [if_neg ht, if_neg hn, List.mem_filter]

theorem chosen_spec {s : State} {c x : Nat} (h : chooseStrand s c = some x) : x ∈ readyStrands s c ∧
    ((dieAt s (c / 288)).hthr ≤ (dieAt s (c / 288)).thead → ∀ y, y ∈ readyStrands s c →
      0 < (strandAt s ⟨c, y⟩).segbud → ((strandAt s ⟨c, y⟩).cost : Int) ≤ (strandAt s ⟨c, y⟩).segbud →
      0 < (strandAt s ⟨c, x⟩).segbud ∧ ((strandAt s ⟨c, x⟩).cost : Int) ≤ (strandAt s ⟨c, x⟩).segbud ∧
        (strandAt s ⟨c, x⟩).cls ≤ (strandAt s ⟨c, y⟩).cls) := by
  rw [chooseStrand_eq] at h
  have hx : x ∈ choosable s c := (sortBy_perm _ _).mem_iff.1 (List.mem_of_head? h)
  refine ⟨choosable_ready hx, fun hd y hy h1 h2 => ?_⟩
  have hm := mem_choosable hd hy ((affords_iff _).2 ⟨h1, h2⟩)
  obtain ⟨-, ha⟩ := (hm x).1 hx
  obtain ⟨a1, a2⟩ := (affords_iff _).1 ha
  exact ⟨a1, a2, sortBy_head (c := fun x => (strandAt s ⟨c, x⟩).cls) (fun _ _ => before_cls.1) (fun _ _ => before_cls.2) _ x h y
    ((hm y).2 ⟨hy, (affords_iff _).2 ⟨h1, h2⟩⟩)⟩

section
variable {s : State} {c x : Nat} (ht : (coreAt s c).turn = none) (hh : (dieAt s (c / 288)).hold = false)
include ht hh

theorem choice_open : ¬((coreAt s c).turn.isSome || (dieAt s (c / 288)).hold) = true := by
  rw [ht, hh]; decide

/-- A core whose turn is context x's again (R21). -/
def turnBack (x : Nat) (k : Core) : Core := { k with turn := some x }

/-- A core whose turn goes on to context x (R304). -/
def turnTo (x : Nat) (k : Core) : Core := { k with turn := some x, lastTurn := x }

/-- A strand that runs. -/
def running (t : Strand) : Strand := { t with status := .running }

theorem choice_waiting (hw : waitingStrand s c = some x) :
    exec (.strandChoice c) s = .next (onCore s c (turnBack x)) := by
  refine (if_neg (choice_open ht hh)).trans ?_
  rw [hw]
  all_goals rfl

theorem choice_ready (hw : waitingStrand s c = none) (hx : chooseStrand s c = some x) :
    exec (.strandChoice c) s = .next (onStrand (onCore s c (turnTo x)) ⟨c, x⟩ running) := by
  refine (if_neg (choice_open ht hh)).trans ?_
  rw [hw, hx]
  all_goals rfl

end

/-- The turn of a core, and the strand that had it last, are all that a change of them changes. -/
theorem Alone.turn (s : State) (c x : Nat) {f g : Core → Core} (hs : ∀ k, (g k).strands = k.strands)
    (hn : ∀ k : Core, f { g k with strands := [] } = f { k with strands := [] }) : Alone s (onCore s c g) ⟨c, x⟩ id f := by
  refine ⟨rfl, fun d hd => ?_, ?_, fun y _ => strandAt_onCore s c hs _⟩
  · rw [coreAt_onCore_ne s g hd]
  · rw [coreAt_onCore_same]
    exact hn _

/-! ## Waits that expire (R424 to R427) -/

theorem wait_expires {s : State} {a : At} {w : Wait} {x : Cause} (h4 : a.x < 4) (hw : (strandAt s a).wait = some w)
    (hx : ccExpiry s a w = some x) (hb : w.bound ≤ w.elapsed) (hp : (strandAt s a).pendTrap = none) (hs : (strandAt s a).atStop = false)
    (hm : waitMet s a w = false) : exec (.waitExpiry a.c a.x) s = .next (expireStrand s a x) := by
  have hn : ¬(w.elapsed < w.bound ∨ (strandAt s a).pendTrap.isSome = true ∨ (strandAt s a).atStop = true ∨ waitMet s a w = true) := by
    rw [hp, hs, hm]
    simpa using hb
  refine (if_pos h4).trans ?_
  simp only [hw, hx]
  exact if_neg hn

theorem wait_met {s : State} {a : At} {w : Wait} (h4 : a.x < 4) (hw : (strandAt s a).wait = some w) (hm : waitMet s a w = true) :
    exec (.waitExpiry a.c a.x) s = .next { s with missed := true } := by
  refine (if_pos h4).trans ?_
  simp only [hw]
  cases hx : ccExpiry s a w with
  | none => rfl
  | some x => exact if_pos (.inr (.inr (.inr hm)))

theorem entry_expires {s : State} {c q : Nat} {e : Entry} {x : Cause} (he : headEntry s c q = some e) (hx : engineExpiry s c e = some x)
    (hl : e.limit ≤ e.waited) (hf : e.fault = none) (hm : mayMove s c e = true) :
    exec (.waitExpiry c (4 + q)) s = .next (expireEntry s c e x) := by
  have hn : ¬(e.waited < e.limit ∨ e.fault.isSome = true ∨ (!(mayMove s c e || runsOut e)) = true) := by
    rw [hf, hm]
    simpa using hl
  refine (if_neg (by omega)).trans ?_
  rw [Nat.add_sub_cancel_left]
  simp only [he, hx]
  exact if_neg hn

/-! ## Subscribers that are late (R431) -/

theorem writeWords_cores (s : State) (loc : Nat → Nat) (i : Nat) (os ws : List (List Byte)) :
    (writeWords s loc i os ws).cores = s.cores := by
  induction os generalizing s i ws with
  | nil => rfl
  | cons o os ih =>
    cases ws with
    | nil => rfl
    | cons w ws =>
      unfold writeWords
      rw [ih]
      split
      · rfl
      · rw [storeN_rest]

theorem putHead_cores (s : State) (n ctx h : Nat) (old : Option (Head × Nat)) (hd : Head) (k : Nat) :
    (putHead s n ctx h old hd k).cores = s.cores := writeWords_cores _ _ _ _ _

/-- A head whose subscriber is replaced. -/
def Head.withSub (hd : Head) (sub : Nat) (b : Sub) : Head := { hd with subs := setNth hd.subs sub b }

/-- A strand that is told that its subscriber is late (R431). -/
def toldLate (h sub : Nat) (t : Strand) : Strand :=
  { t with asyncs := t.asyncs ++ [⟨⟨0x57, h, 0, sub⟩, false, 0, 0, 0, 0, 2⟩] }

/-- A subscriber that has ended unfinished (R431). -/
def endedLate (b : Sub) : Sub := { b with state := 6, unfinished := true, holds := false, waited := 0 }

theorem subscriber_fires {s : State} {head : BitVec 64} {sub n ctx : Nat} {hd : Head} {tl : Tile} {b : Sub}
    (hf : s.units.findSome? (fun u => (u.2.heads.find? (fun k => k.1 % 2 ^ 64 == head.toNat && (match k.2.subs[sub]? with
        | some b => b.state == 1 && !b.queued && decide (b.bLim ≤ b.waited)
        | none => false))).map (fun k => (u.1, k.1 / 2 ^ 64))) = some (n, ctx))
    (hh : headAt s n ctx head.toNat = some hd) (htl : tileAt s n ctx head.toNat = some tl) (hb : hd.subs[sub]? = some b) :
    exec (.subscriberFireTimeout head sub) s = if taskLives s b.bTask
      then .next (onTasks (putHead s n ctx head.toNat (some (hd, tl.count)) (hd.withSub sub { b with waited := 0 }) tl.count)
        (Strand.runs b.bTask) (toldLate head.toNat sub))
      else .next (settleHead (putHead (if b.holds then cancelDraw s b.bCore ctx hd.cur else s) n ctx head.toNat (some (hd, tl.count))
        (hd.withSub sub (endedLate b)) tl.count) b.bCore ctx head.toNat) := by
  show execSubscriberFireTimeout head sub s = _
  unfold execSubscriberFireTimeout
  dsimp only
  split
  next hn => exact absurd (hn.symm.trans hf) nofun
  next n' ctx' hs =>
    obtain ⟨rfl, rfl⟩ := Prod.mk.inj (Option.some.inj (hs.symm.trans hf))
    simp only [hh, htl, hb]
    cases taskLives s b.bTask
    · simp only [Bool.false_eq_true, if_false, Head.withSub, endedLate]
    · simp only [if_true, Head.withSub]
      unfold toldLate
      all_goals rfl

/-! ## Steals (R27) -/

/-- A core whose context sx asks no more. -/
def withoutSteal (sx : Nat) (k : Core) : Core := { k with steals := k.steals.filter (fun q => q.sx != sx) }

/-- A core whose deque core c has taken from last. -/
def stolenFor (c : Nat) (k : Core) : Core := { k with lastSteal := c % 48 }

/-- A core whose context x begins to ask (R27). -/
def askedBy (x cycle : Nat) (k : Core) : Core := { k with steals := k.steals ++ [⟨x, 1, false, cycle + 12, none⟩] }

/-- A core whose deque has given up an entry (R27). -/
def entryTaken (stamp : Nat) (k : Core) : Core :=
  { k with deque := k.deque.filter (fun e => e.stamp != stamp), dqPops := k.dqPops + 1, dqBusy := true }

section
variable {s : State} {c x : Nat} {r : Steal} (hr : (coreAt s c).steals.find? (fun r => r.sx == x) = some r) (hd : r.due ≤ s.cycle)
include hr hd

theorem steal_retries (hk : (seeks s ⟨c, x⟩).isSome = true) (h : r.retry = true) : exec (.stealRetry c x) s =
    .next (putSteal s c { r with tried := 1, retry := false, due := s.cycle + 12 }) := by
  have hn : ¬(!r.retry || decide (s.cycle < r.due) || (seeks s ⟨c, x⟩).isNone) = true := by
    rw [h, ← Option.not_isSome, hk]
    simpa using hd
  show execStealRetry c x s = _
  rw [execStealRetry, hr]
  exact if_neg hn

variable {j : Nat} (hj : seeks s ⟨c, x⟩ = some j) (h : r.retry = false)
include hj h

omit hr hj in
theorem steal_open : ¬(r.retry = true ∨ s.cycle < r.due) := by
  rw [h]
  simpa using hd

theorem steal_fenced (hf : (coreAt s c).fenced = true) (hg : r.got = none) : exec (.stealResult c x) s =
    .next (onCore s c (withoutSteal r.sx)) := by
  show execStealResult c x s = _
  rw [execStealResult]
  simp only [hr, hj]
  rw [if_neg (steal_open hd h), if_pos hf]
  simp only [fencedSteal, hg]
  all_goals rfl

variable (hf : (coreAt s c).fenced = false)
include hf

theorem steal_got {e : DqEntry} (hg : r.got = some e) : exec (.stealResult c x) s =
    .next (startEntry (onCore s c (withoutSteal x)) ⟨c, x⟩ e) := by
  show execStealResult c x s = _
  rw [execStealResult]
  simp only [hr, hj]
  rw [if_neg (steal_open hd h), if_neg (by rw [hf]; decide)]
  simp only [hg]
  all_goals rfl

variable (hg : r.got = none) (hp : stealPassed s c (victimOf c r.tried) = false)
include hg hp

theorem steal_asks : exec (.stealResult c x) s =
    match dequeFind (coreAt s (victimOf c r.tried)) j true with
    | some e =>
      if (coreAt s (victimOf c r.tried)).dqBusy then notNow s
      else .next (putSteal (onCore (dequeTake s (victimOf c r.tried) e.stamp) (victimOf c r.tried) (stolenFor c)) c
        { r with got := some e, due := r.due + 24 })
    | none =>
      if 47 ≤ r.tried then .next (putSteal s c { r with retry := true, due := s.cycle + 256 })
      else .next (putSteal s c { r with tried := r.tried + 1, due := s.cycle + 12 }) := by
  show execStealResult c x s = _
  rw [execStealResult]
  simp only [hr, hj]
  rw [if_neg (steal_open hd h), if_neg (by rw [hf]; decide)]
  simp only [hg, hp, Bool.false_eq_true, if_false]
  all_goals rfl

end

/-- Settles O60. -/
theorem timetable : Obligations.Timetable := by
  intro s
  refine ⟨fun c h => ?_, fun c h ho => ?_, fun c x ht hh hw => ?_, fun c x ht hh hw hx => ?_, fun c x h => chosen_spec h,
    fun a w x h4 hw hx hb hp hs hm => wait_expires h4 hw hx hb hp hs hm, fun a w hw h4 hm => wait_met h4 hw hm, fun a w va hk => ?_,
    fun a w hk => ?_, fun a w hk hf => ?_, fun c q e x he hx hl hf hm => entry_expires he hx hl hf hm, fun a p rest ha hp hs ht hj => ?_,
    fun a hy w hw => ?_, fun head sub n ctx hd tl b hf hh htl hb => ⟨fun hl => ?_, fun hl => ?_⟩, fun c x hn hf hs => ?_,
    fun c x r hr hk hd => ⟨fun h => steal_retries hr hd hk h, fun h hf hg => ?_, fun h hf e hg => ?_, fun h hf hg hp j hj => ⟨fun e he hb => ?_, fun he => ⟨fun h47 => ?_, fun h47 => ?_⟩⟩⟩,
    fun j i => ⟨fun h => ?_, fun h => ?_⟩⟩
  · refine ⟨onCore s c periodBegun, congrArg Core.periodDue (coreAt_onCore_same s c periodBegun),
      fun a => strandAt_onCore s c (f := periodBegun) (fun _ => rfl) a, rfl, fun k hk => coreAt_onCore_ne s _ hk, ?_⟩
    rw [period_starts h]
    simp only [List.foldl_cons, List.foldl_nil]
  · have hst (x : Nat) : strandAt (onCore s c periodBegun) ⟨c, x⟩ = strandAt s ⟨c, x⟩ :=
      strandAt_onCore s c (f := periodBegun) (fun _ => rfl) _
    obtain ⟨h1, h2, h3, -⟩ := periodStrands c [0, 1, 2, 3] (onCore s c periodBegun) (by decide) fun x hx => by
      rw [hst x]
      exact ho x (by simp at hx; omega)
    refine ⟨_, period_starts h, h2.trans (congrArg Core.periodDue (coreAt_onCore_same s c periodBegun)), h1, fun x hx => ?_⟩
    rw [h3 x (by simp; omega), hst x]
    all_goals rfl
  · have hx := List.find?_some hw
    simp only [Bool.and_eq_true, beq_iff_eq] at hx
    obtain ⟨⟨hx, -⟩, -⟩ := hx
    exact ⟨_, choice_waiting ht hh hw, congrArg Core.turn (coreAt_onCore_same s c (turnBack x)), hx,
      Alone.turn s c x (g := turnBack x) (fun _ => rfl) fun _ => rfl, strandAt_onCore s c (f := turnBack x) (fun _ => rfl) _⟩
  · have hcore : coreAt (onStrand (onCore s c (turnTo x)) ⟨c, x⟩ running) c =
        { turnTo x (coreAt s c) with strands := (coreAt (onStrand (onCore s c (turnTo x)) ⟨c, x⟩ running) c).strands } := by
      rw [coreAt_onStrand_same, coreAt_onCore_same]
    refine ⟨_, choice_ready ht hh hw hx, (congrArg Core.turn hcore).trans rfl, (congrArg Core.lastTurn hcore).trans rfl, ?_, ?_⟩
    · rw [strandAt_onStrand_same, strandAt_onCore s c (f := turnTo x) fun _ => rfl]
      all_goals rfl
    · exact (Alone.turn s c x (g := turnTo x) (fun _ => rfl) fun _ => rfl).trans (.strand _ _ _)
  · unfold waitMet
    rw [hk]
  · unfold waitMet
    rw [hk]
    exact decide_eq_true_iff
  · unfold waitMet
    obtain hk | hk := hk <;> simp [hk, hf]
  · have hn : ¬((strandAt s a).pendTrap.isSome || (strandAt s a).atStop || (strandAt s a).task.isNone || !jobRuns s (jobOf s a)) = true := by
      rw [hp, hs, hj, ← Option.not_isSome, ht]; decide
    refine ⟨onStrand s a (fun t => { t with asyncs := rest }), ?_, .strand _ _ _, strandAt_onStrand_same s a _⟩
    show execAsyncPoolCause a.c a.x s = _
    rw [execAsyncPoolCause]
    simp only [ha]
    exact if_neg hn
  · have hn : ¬((List.range a.x).any fun y => (sourceOf s ⟨a.c, y⟩).isSome) = true := by
      simpa using hy
    refine (if_neg hn).trans ?_
    rw [hw]
  · exact ⟨_, putHead_cores s n ctx head.toNat (some (hd, tl.count)) (hd.withSub sub { b with waited := 0 }) tl.count,
      (subscriber_fires hf hh htl hb).trans (if_pos hl)⟩
  · exact (subscriber_fires hf hh htl hb).trans (if_neg (by rw [hl]; decide))
  · have hn' : ¬(!noSource s ⟨c, x⟩ || (coreAt s c).fenced || (coreAt s c).steals.any (fun r => r.sx == x)) = true := by
      have ha : (coreAt s c).steals.any (fun r => r.sx == x) = false := by simpa using hs
      rw [hn, hf, ha]; decide
    exact ⟨_, if_neg hn', coreAt_onCore_same s c (askedBy x s.cycle), fun d hd => coreAt_onCore_ne s _ hd, rfl⟩
  · obtain ⟨j, hj⟩ := Option.isSome_iff_exists.1 hk
    exact ⟨_, steal_fenced hr hd hj h hf hg, coreAt_onCore_same s c (withoutSteal r.sx), fun d hd => coreAt_onCore_ne s _ hd, rfl⟩
  · obtain ⟨j, hj⟩ := Option.isSome_iff_exists.1 hk
    exact ⟨onCore s c (withoutSteal x), rfl, coreAt_onCore_same s c (withoutSteal x), fun d hd => coreAt_onCore_ne s _ hd,
      steal_got hr hd hj h hf hg⟩
  · refine ⟨onCore (onCore s (victimOf c r.tried) (entryTaken e.stamp)) (victimOf c r.tried) (stolenFor c), rfl, fun d hd => ?_, ?_, ?_⟩
    · rw [coreAt_onCore_ne _ _ hd, coreAt_onCore_ne _ _ hd]
    · rw [coreAt_onCore_same, coreAt_onCore_same]
      all_goals rfl
    · rw [steal_asks hr hd hj h hf hg hp, he]
      exact if_neg (by rw [hb]; decide)
  · rw [steal_asks hr hd hj h hf hg hp, he]
    exact if_neg (Nat.not_le.2 h47)
  · rw [steal_asks hr hd hj h hf hg hp, he]
    exact if_pos h47
  · exact if_pos (by rw [h]; decide)
  · exact if_neg (by rw [h]; decide)

end Sys2Proof.Machine
end

section
/-! What leaves memory as it is: every function of the model that writes no byte, one rule each. -/

namespace Sys2Proof.Machine

/-- A fold of steps that leave memory as it is leaves memory as it is. -/
theorem foldl_mem {α : Type} {f : State → α → State} (hf : ∀ s x, (f s x).mem = s.mem) (l : List α) (s : State) :
    (l.foldl f s).mem = s.mem := by
  induction l generalizing s with
  | nil => rfl
  | cons x l ih => rw [List.foldl_cons, ih, hf]

theorem mem_ite {p : Prop} [Decidable p] {x y : State} {m : Memory} (hx : x.mem = m) (hy : y.mem = m) :
    (if p then x else y).mem = m := by
  split
  · exact hx
  · exact hy

/-- The same of a fold that counts or lists something beside the state. -/
theorem foldl_fst_mem {α β : Type} {f : State × β → α → State × β} (hf : ∀ r x, (f r x).1.mem = r.1.mem) (l : List α)
    (r : State × β) : (l.foldl f r).1.mem = r.1.mem := by
  induction l generalizing r with
  | nil => rfl
  | cons x l ih => rw [List.foldl_cons, ih, hf]

@[simp] theorem clearPoison_mem (s : State) (a n : Nat) : (clearPoison s a n).mem = s.mem := by
  grind [clearPoison]

@[simp] theorem wakeDie_mem (s : State) (c : Nat) : (wakeDie s c).mem = s.mem := by
  grind [wakeDie, onDie_mem]

@[simp] theorem wakePackage_mem (s : State) : (wakePackage s).mem = s.mem := by
  grind [wakePackage]

@[simp] theorem sampleFor_mem (s : State) (src tgt v : Nat) : (sampleFor s src tgt v).mem = s.mem := by
  grind [sampleFor]

theorem wrG_mem {s t : State} {a : At} {d : BitVec 5} {nw : BitVec 1} {l : Nat} {v : Dword} (hx : wrG s a d nw l v = .ok t) :
    t.mem = s.mem := by
  grind [wrG, stall, onStrand_mem]

theorem wrP_mem {s t : State} {a : At} {n : Nat} {v : Bool} (hx : wrP s a n v = .ok t) : t.mem = s.mem := by
  grind [wrP, stall, onStrand_mem]

@[simp] theorem wrK_mem (s : State) (a : At) (n v : Nat) : (wrK s a n v).mem = s.mem := by
  grind [wrK, onStrand_mem]

@[simp] theorem wrE_mem (s : State) (a : At) (n v : Nat) : (wrE s a n v).mem = s.mem := by
  grind [wrE, onStrand_mem]

@[simp] theorem addSb_mem (s : State) (a : At) (dest : Dest) (access load : Bool) (v : Option Dword) :
    (addSb s a dest access load v).mem = s.mem := by
  grind [addSb, onStrand_mem]

@[simp] theorem dropTurn_mem (s : State) (a : At) : (dropTurn s a).mem = s.mem := by
  grind [dropTurn, onCore_mem]

@[simp] theorem noteEnd_mem (s : State) (j code : Nat) : (noteEnd s j code).mem = s.mem := by
  grind [noteEnd, onJob_mem]

@[simp] theorem holdWait_mem (s : State) (a : At) (k : WaitKind) (waiting : Bool) (arg : Nat) :
    (holdWait s a k waiting arg).mem = s.mem := by
  grind [holdWait, onStrand_mem]

@[simp] theorem finish_mem (a : At) (len : Nat) (d : Done) : (finish a len d).mem = d.s.mem := by
  grind [finish, onStrand_mem, dropTurn_mem]

@[simp] theorem unpark_mem (s : State) (a : At) : (unpark s a).mem = s.mem := by
  grind [unpark, onCluster_mem]

@[simp] theorem onTasks_mem (s : State) (p : Strand → Bool) (f : Strand → Strand) : (onTasks s p f).mem = s.mem := by
  grind [onTasks]

@[simp] theorem reclaim_mem (s : State) (j cls n : Nat) : (reclaim s j cls n).mem = s.mem := by
  grind [reclaim, onJob_mem]

@[simp] theorem withdrawTokens_mem (s : State) (a : At) : (withdrawTokens s a).1.mem = s.mem := by
  unfold withdrawTokens
  refine (foldl_fst_mem (fun r f => ?_) _ (s, 0))
  dsimp only
  split
  · rfl
  · rfl

@[simp] theorem joinChild_mem (s : State) (parent : Option Nat) : (joinChild s parent).mem = s.mem := by
  cases parent <;> rfl

@[simp] theorem putTile_mem (s : State) (n : Nat) (t : Tile) : (putTile s n t).mem = s.mem := by
  grind [putTile, onUnit_mem]

@[simp] theorem placeTile_mem (s : State) (n key : Nat) (part need : Nat) (count tag : Nat) (kind job : Nat) (at_ skip : Nat) :
    (placeTile s n key part need count tag kind job at_ skip).1.mem = s.mem := by
  grind [placeTile, onUnit_mem]

@[simp] theorem emptyGranules_mem (s : State) (core off len : Nat) : (emptyGranules s core off len).mem = s.mem := by
  grind [emptyGranules]

@[simp] theorem returnTile_mem (s : State) (n : Nat) (t : Tile) : (returnTile s n t).mem = s.mem := by
  grind [returnTile, emptyGranules_mem, onUnit_mem]

@[simp] theorem settleTile_mem (s : State) (n : Nat) (t : Tile) : (settleTile s n t).mem = s.mem := by
  grind [settleTile, returnTile_mem, putTile_mem]

@[simp] theorem supersede_mem (s : State) (c ctx h : Nat) : (supersede s c ctx h).mem = s.mem := by
  grind [supersede, settleTile_mem]

@[simp] theorem cancelDraw_mem (s : State) (c ctx h : Nat) : (cancelDraw s c ctx h).mem = s.mem := by
  grind [cancelDraw, settleTile_mem]

@[simp] theorem settleHead_mem (s : State) (c ctx h : Nat) : (settleHead s c ctx h).mem = s.mem := by
  grind [settleHead, supersede_mem, onUnit_mem, returnTile_mem, reclaim_mem]

@[simp] theorem rouse_mem (s : State) (a : At) : (rouse s a).mem = s.mem := by
  grind [rouse, onStrand_mem, unpark_mem]

@[simp] theorem postEvent_mem (s : State) (a : At) (e : Event) : (postEvent s a e).mem = s.mem := by
  grind [postEvent, rouse_mem, wakeDie_mem, onStrand_mem]

@[simp] theorem postTask_mem (s : State) (id : Nat) (e : Event) : (postTask s id e).mem = s.mem := by
  grind [postTask, onTasks_mem, rouse_mem, wakeDie_mem]

@[simp] theorem pushRun_mem (s : State) (job h i : Nat) (b : Sub) : (pushRun s job h i b).1.mem = s.mem := by
  grind [pushRun, setCore_mem]

@[simp] theorem fireSub_mem (s : State) (job h i : Nat) (b : Sub) : (fireSub s job h i b).1.mem = s.mem := by
  grind [fireSub, postTask_mem, pushRun_mem]

@[simp] theorem stopRuns_mem (s : State) (job h i : Nat) : (stopRuns s job h i).mem = s.mem := by
  grind [stopRuns, onTasks_mem]

@[simp] theorem subNewer_mem (job h : Nat) (r : State × List Sub) (b : Sub) : (subNewer job h r b).1.mem = r.1.mem := by
  grind [subNewer, fireSub_mem, stopRuns_mem]

@[simp] theorem countRun_mem (s : State) (c ctx tile : Nat) : (countRun s c ctx tile).mem = s.mem := by
  grind [countRun, settleTile_mem]

@[simp] theorem settleHandle_mem (s : State) (c ctx h : Nat) : (settleHandle s c ctx h).mem = s.mem := by
  grind [settleHandle, settleHead_mem, settleTile_mem]

@[simp] theorem dropPend_mem (s : State) (c ctx : Nat) (h n : Nat) : (dropPend s c ctx h n).mem = s.mem := by
  grind [dropPend, settleTile_mem]

@[simp] theorem raisePend_mem (s : State) (c ctx h : Nat) : (raisePend s c ctx h).mem = s.mem := by
  grind [raisePend, putTile_mem]

theorem recordDraws_mem {s t : State} {c ctx job : Nat} {l : List Draw} (hx : recordDraws s c ctx job l = .ok t) :
    t.mem = s.mem := by
  unfold recordDraws at hx
  have : (l.foldl (fun s d => raisePend s c ctx d.h) s).mem = s.mem := foldl_mem (fun _ _ => raisePend_mem ..) l s
  grind

@[simp] theorem abandonUnit_mem (s : State) (n job tag : Nat) : (abandonUnit s n job tag).mem = s.mem :=
  foldl_mem (fun _ _ => settleTile_mem ..) _ s

@[simp] theorem abandon_mem (s : State) (c job tag : Nat) : (abandon s c job tag).mem = s.mem := by
  unfold abandon; split
  · rfl
  · exact foldl_mem (fun _ _ => abandonUnit_mem ..) _ s

@[simp] theorem dropDeferred_mem (s : State) (c ctx : Nat) (l : List (Nat × Nat)) : (dropDeferred s c ctx l).mem = s.mem :=
  foldl_mem (fun _ _ => dropPend_mem ..) l s

@[simp] theorem settleReq_mem (s : State) (r : PoolReq) : (settleReq s r).mem = s.mem := by
  grind [settleReq, settleHandle_mem]

@[simp] theorem withdrawIf_mem (s : State) (a : At) (f : Alloc → Bool) : (withdrawIf s a f).mem = s.mem := by
  grind [withdrawIf]

@[simp] theorem withdrawAt_mem (s : State) (a : At) (pc : Nat) : (withdrawAt s a pc).mem = s.mem := by
  grind [withdrawAt, withdrawIf_mem]

@[simp] theorem withdrawAlloc_mem (s : State) (a : At) : (withdrawAlloc s a).mem = s.mem := by
  grind [withdrawAlloc, withdrawIf_mem]

@[simp] theorem dropEntry_mem (s : State) (a : At) (e : Entry) : (dropEntry s a e).mem = s.mem := by
  unfold dropEntry; split
  · exact foldl_mem (fun _ _ => dropPend_mem ..) _ s
  · rfl

@[simp] theorem leaveStream_mem (s : State) (c mask : Nat) : (leaveStream s c mask).mem = s.mem := by
  unfold leaveStream; split
  · rfl
  · exact foldl_mem (fun _ _ => onCore_mem ..) _ _

@[simp] theorem unbegin_mem (s : State) (c : Nat) (e : Entry) : (unbegin s c e).mem = s.mem := by
  unfold unbegin; split
  · rfl
  · exact foldl_mem (fun s f => by rw [onStrand_mem, setFifo_mem]) _ s

@[simp] theorem unbeginBehind_mem (s : State) (c : Nat) (h : Entry) (t : List Entry) (p : Entry → Bool) :
    (unbeginBehind s c h t p).mem = s.mem :=
  foldl_mem (fun _ _ => unbegin_mem ..) _ s

@[simp] theorem stopMatrix_mem (s : State) (a : At) : (stopMatrix s a).mem = s.mem := by
  grind [stopMatrix, leaveStream_mem, unbeginBehind_mem]

@[simp] theorem clearEntries_mem (s : State) (a : At) : (clearEntries s a).mem = s.mem := by
  grind [clearEntries, setQueue_mem]

@[simp] theorem discardEntries_mem (s : State) (a : At) : (discardEntries s a).mem = s.mem := by
  unfold discardEntries
  rw [clearEntries_mem, foldl_mem (fun _ _ => dropEntry_mem ..), stopMatrix_mem]

@[simp] theorem orphanTiles_mem (s : State) (c ctx : Nat) (l : List Nat) : (orphanTiles s c ctx l).mem = s.mem :=
  foldl_mem (fun s h => by split <;> rfl) l s

@[simp] theorem reachStop_mem (s : State) (a : At) : (reachStop s a).mem = s.mem := by
  grind [reachStop, unpark_mem, withdrawAlloc_mem, dropTurn_mem, onStrand_mem]

@[simp] theorem killJob_mem (s : State) (j code : Nat) : (killJob s j code).mem = s.mem := by
  grind [killJob, onJob_mem, noteEnd_mem]

@[simp] theorem fenceFor_mem (s : State) (c : Nat) (e : Cause) : (fenceFor s c e).mem = s.mem := by
  grind [fenceFor, onCore_mem]

@[simp] theorem newTask_mem (s : State) : (newTask s).1.mem = s.mem := by
  grind [newTask]

@[simp] theorem startCard_mem (s : State) (a : At) (j : Nat) : (startCard s a j).mem = s.mem := rfl

@[simp] theorem resumeFrame_mem (s : State) (a : At) (f : JoinFrame) : (resumeFrame s a f).mem = s.mem := by
  grind [resumeFrame, onStrand_mem]

@[simp] theorem dequePush_mem (s : State) (c : Nat) (e : DqEntry) : (dequePush s c e).mem = s.mem := by
  grind [dequePush, onCore_mem]

@[simp] theorem dequeTake_mem (s : State) (c stamp : Nat) : (dequeTake s c stamp).mem = s.mem := by
  grind [dequeTake, onCore_mem]

theorem tlbLook_mem {s : State} {c ctx va : Nat} {t} (hx : tlbLook s c ctx va = some t) : t.1.mem = s.mem := by
  grind [tlbLook, onCore_mem]

theorem tlbFor_mem {s : State} {c ctx va : Nat} {t} (hx : tlbFor s c ctx va = .ok t) : t.1.mem = s.mem := by
  grind [tlbFor, tlbLook_mem, onDie_mem, onCore_mem]

theorem translate_mem {s : State} {c ctx va : Nat} {wr fetch : Bool} {t} (hx : translate s c ctx va wr fetch = .ok t) :
    t.1.mem = s.mem := by
  unfold translate at hx
  split at hx
  · cases hx
  · rename_i u x hu
    have := tlbFor_mem hu
    grind

@[simp] theorem invalidatePage_mem (s : State) (pte : Nat) : (invalidatePage s pte).mem = s.mem := by
  grind [invalidatePage]

@[simp] theorem invalidateVa_mem (s : State) (ctx va : Nat) : (invalidateVa s ctx va).mem = s.mem := by
  grind [invalidateVa]

@[simp] theorem releaseHeld_mem (s : State) (ctx va psz : Nat) (strandsToo : Bool) :
    (releaseHeld s ctx va psz strandsToo).mem = s.mem := by
  grind [releaseHeld]

@[simp] theorem joinMiss_mem (s : State) (c ctx : Nat) (va who : Nat) : (joinMiss s c ctx va who).mem = s.mem := by
  grind [joinMiss, onDie_mem]

@[simp] theorem releasePage_mem (s : State) (pte : Nat) : (releasePage s pte).mem = s.mem := by
  grind [releasePage]

@[simp] theorem runPages_mem (s : State) (c : Nat) : (runPages s c).mem = s.mem := by
  grind [runPages, onCore_mem]

@[simp] theorem startPageIn_mem (s : State) (c : Nat) (p : PageCopy) : (startPageIn s c p).mem = s.mem := by
  grind [startPageIn, runPages_mem, onCore_mem]

theorem takeFrame_mem {s : State} {ctx : Nat} {t} (hx : takeFrame s ctx = some t) : t.1.mem = s.mem := by
  grind [takeFrame, onCtx_mem]

theorem autoPage_mem {s : State} {c ctx sx va : Nat} {t} (hx : autoPage s c ctx sx va = .ok t) : t.mem = s.mem := by
  unfold autoPage at hx
  split at hx
  · cases hx
  · have := @takeFrame_mem s ctx
    grind [startPageIn_mem]

@[simp] theorem restoreTaken_mem (s : State) (e : Entry) : (restoreTaken s e).mem = s.mem := by
  grind [restoreTaken]

@[simp] theorem readyForTrap_mem (s : State) (a : At) (pt : PendTrap) : (readyForTrap s a pt).mem = s.mem := by
  grind [readyForTrap, unpark_mem, onStrand_mem]

@[simp] theorem pushEntry_mem (s : State) (a : At) (e : Entry) : (pushEntry s a e).mem = s.mem := by
  grind [pushEntry, onStrand_mem, onCore_mem, recordDraws_mem, setQueue_mem]

@[simp] theorem pushSaved_mem (a : At) (l : List Entry) (s : State) : (pushSaved a l s).1.mem = s.mem := by
  induction l generalizing s with
  | nil => rfl
  | cons e l ih => grind [pushSaved, pushEntry_mem]

@[simp] theorem continueReturn_mem (s : State) (a : At) : (continueReturn s a).mem = s.mem := by
  grind [continueReturn, pushSaved_mem, onStrand_mem]

@[simp] theorem returnTrap_mem (s : State) (a : At) (f : Frame) : (returnTrap s a f).mem = s.mem := by
  unfold returnTrap
  simp only [continueReturn_mem, onStrand_mem]
  exact foldl_mem (fun _ _ => dropEntry_mem ..) _ s

@[simp] theorem setFull_mem (s : State) (core off : Nat) : (setFull s core off).mem = s.mem := by
  grind [setFull, onCore_mem]

@[simp] theorem clearFull_mem (s : State) (core off : Nat) : (clearFull s core off).mem = s.mem := by
  grind [clearFull, onCore_mem]

@[simp] theorem fillGranules_mem (s : State) (core off len : Nat) : (fillGranules s core off len).mem = s.mem := by
  unfold fillGranules; split
  · rfl
  · exact foldl_mem (fun _ _ => setFull_mem ..) _ s

@[simp] theorem sendOn_mem (s : State) (cl route len : Nat) : (sendOn s cl route len).mem = s.mem := by
  grind [sendOn, onSpan_mem]

@[simp] theorem post_mem (s : State) (cl route len : Nat) : (post s cl route len).mem = s.mem := by
  grind [post, sendOn_mem]

@[simp] theorem sendFlit_mem (s : State) (cl lidx len : Nat) : (sendFlit s cl lidx len).mem = s.mem := by
  grind [sendFlit, sendOn_mem]

@[simp] theorem remoteOut_mem (s : State) (a : At) (va lidx : Nat) (kind size : Nat) (v c : Nat) (dest : Dest) (load : Bool) :
    (remoteOut s a va lidx kind size v c dest load).mem = s.mem := by
  grind [remoteOut, sendFlit_mem, addSb_mem]

@[simp] theorem askRemote_mem (s : State) (a : At) (va lidx : Nat) (kind size : Nat) :
    (askRemote s a va lidx kind size).mem = s.mem := by
  grind [askRemote, sendFlit_mem]

@[simp] theorem fillWritten_mem (s : State) (written rest : List (Place × Nat)) : (fillWritten s written rest).mem = s.mem :=
  foldl_mem (fun s g => by split <;> simp) _ s

@[simp] theorem parkOn_mem (s : State) (a : At) (n : Nat) (d : BitVec 5) (nw : BitVec 1) :
    (parkOn s a n d nw).mem = s.mem := by
  grind [parkOn, onStrand_mem, dropTurn_mem]

@[simp] theorem wakePark_mem (s : State) (a : At) (v : Dword) : (wakePark s a v).mem = s.mem := by
  grind [wakePark, onStrand_mem]

@[simp] theorem notifyStore_mem (s : State) (n v party : Nat) : (notifyStore s n v party).mem = s.mem := by
  grind [notifyStore, postTask_mem]

theorem wakeWord_mem {s : State} {n : Nat} {t} (hx : wakeWord s n = some t) : t.mem = s.mem := by
  grind [wakeWord, wakePark_mem]

@[simp] theorem putEntry_mem (s : State) (c : Nat) (e : Entry) : (putEntry s c e).mem = s.mem := by
  grind [putEntry, setQueue_mem]

@[simp] theorem popEntry_mem (s : State) (c q : Nat) : (popEntry s c q).mem = s.mem := by
  grind [popEntry, setQueue_mem]

@[simp] theorem holdEntry_mem (s : State) (c : Nat) (e : Entry) (w : EngWait) : (holdEntry s c e w).mem = s.mem := by
  grind [holdEntry, putEntry_mem]

@[simp] theorem takeToken_mem (s : State) (a : At) (f : Nat) : (takeToken s a f).mem = s.mem := by
  grind [takeToken, onStrand_mem, setFifo_mem]

@[simp] theorem giveToken_mem (s : State) (a : At) (f : Nat) : (giveToken s a f).mem = s.mem := by
  grind [giveToken, onStrand_mem, setFifo_mem]

theorem deferDraws_mem {a : At} {l : List Draw} {s t : State} (hx : deferDraws a s l = .ok t) : t.mem = s.mem := by
  induction l generalizing s with
  | nil => grind [deferDraws]
  | cons d l ih => grind [deferDraws, onStrand_mem]

theorem takeEntryTokens_mem {s : State} {c : Nat} {e : Entry} {t} (hx : takeEntryTokens s c e = .ok t) : t.1.mem = s.mem := by
  unfold takeEntryTokens at hx
  have h (l : List Nat) : (l.foldl (fun s f => takeToken s ⟨c, e.sx⟩ f) s).mem = s.mem := foldl_mem (fun _ _ => takeToken_mem ..) l s
  grind

@[simp] theorem sendPool_mem (s : State) (a : At) (n : Nat) (op : PoolOp) (word : Word) :
    (sendPool s a n op word).mem = s.mem := by
  grind [sendPool, onUnit_mem]

@[simp] theorem recordTdraw_mem (s : State) (a : At) (h : Nat) (word : Word) : (recordTdraw s a h word).mem = s.mem := by
  grind [recordTdraw, onStrand_mem, raisePend_mem]

@[simp] theorem pushChild_mem (s : State) (a : At) (e : DqEntry) : (pushChild s a e).mem = s.mem := by
  grind [pushChild, onJob_mem, dequePush_mem]

@[simp] theorem queuePost_mem (s : State) (a : At) : (queuePost s a).mem = s.mem := by
  grind [queuePost, onCluster_mem]

@[simp] theorem putLaunch_mem (s : State) (cl : Nat) (l : Launch) : (putLaunch s cl l).mem = s.mem := by
  grind [putLaunch, onCluster_mem]

@[simp] theorem dropLaunch_mem (s : State) (cl ln : Nat) : (dropLaunch s cl ln).mem = s.mem := by
  grind [dropLaunch, onCluster_mem]

@[simp] theorem collCause_mem (s : State) (l : Launch) (c : Cause) : (collCause s l c).mem = s.mem := by
  grind [collCause, onTasks_mem, noteEnd_mem]

theorem startPgin_mem {s : State} {a : At} {va frame seq : Nat} {t} (hx : startPgin s a va frame seq = .ok t) :
    t.mem = s.mem := by
  grind [startPgin, startPageIn_mem]

theorem spotOf_mem {s : State} {c ctx va : Nat} {wr : Bool} {t} (hx : spotOf s c ctx va wr = .ok t) : t.1.mem = s.mem := by
  unfold spotOf at hx
  split at hx
  · cases hx
  · rename_i u x hu
    have := tlbLook_mem hu
    grind

/-- Where the pieces of one page-cut range lie leaves memory as it is. -/
theorem spotsOfCuts_mem {c ctx : Nat} {wr : Bool} {l : List (Nat × Nat)} {r : Except Block (State × List (Spot × Nat))} {m : Memory}
    {t} (hr : ∀ u, r = .ok u → u.1.mem = m)
    (hx : l.foldl (fun (r : Except Block (State × List (Spot × Nat))) v =>
          match r with
          | .error b => .error b
          | .ok (s, l) => match spotOf s c ctx v.1 wr with
            | .error b => .error b
            | .ok (s, x) => .ok (s, l ++ [(x, v.2)])) r = .ok t) : t.1.mem = m := by
  induction l generalizing r with
  | nil => exact hr t hx
  | cons v l ih =>
    refine ih (fun u hu => ?_) hx
    dsimp only at hu
    split at hu
    · cases hu
    · split at hu
      · cases hu
      · rename_i s l s' x hs
        cases hu
        rw [← hr _ rfl]
        exact spotOf_mem hs

theorem spots_mem {c ctx : Nat} {wr : Bool} {l : List (Place × Nat)} {s : State} {acc : List (Spot × Nat)} {t}
    (hx : spots c ctx wr l s acc = .ok t) : t.1.mem = s.mem := by
  induction l generalizing s acc with
  | nil => cases hx; rfl
  | cons v l ih =>
    obtain ⟨p, n⟩ := v
    rw [spots] at hx
    split at hx
    · exact ih hx
    · split at hx
      · cases hx
      · rename_i u acc' hu
        rw [ih hx]
        exact spotsOfCuts_mem (t := (u, acc')) (by rintro _ ⟨⟩; rfl) hu

@[simp] theorem joinWalk_mem (s : State) (c : Nat) (e : Entry) (va : Nat) : (joinWalk s c e va).mem = s.mem := by
  grind [joinWalk, holdEntry_mem, joinMiss_mem]

@[simp] theorem remoteSend_mem (s : State) (c : Nat) (e : Entry) (va lidx : Nat) (kind size v : Nat) :
    (remoteSend s c e va lidx kind size v).mem = s.mem := by
  grind [remoteSend, sendFlit_mem]

@[simp] theorem sendReads_mem (c : Nat) (e : Entry) (s : State) (l : List (Nat × Nat × Nat)) : (sendReads c e s l).mem = s.mem :=
  foldl_mem (fun s u => by split <;> simp) l s

@[simp] theorem sendWrites_mem (c : Nat) (e : Entry) (l : List (Nat × Nat × List Byte)) (s : State) :
    (sendWrites c e l s).1.mem = s.mem := by
  induction l generalizing s with
  | nil => rfl
  | cons v l ih => grind [sendWrites, remoteSend_mem]

@[simp] theorem freeResult_mem (s : State) (res : Bool) : (freeResult s res).1.mem = s.mem := by
  grind [freeResult]

@[simp] theorem withFree_mem (s : State) (c q : Nat) (res : Bool) : (withFree s c q res).mem = s.mem := by
  grind [withFree, freeResult_mem, putEntry_mem]

@[simp] theorem onRegs_mem (s : State) (c : Nat) (f : CoreRegs → CoreRegs) : (onRegs s c f).mem = s.mem := by
  grind [onRegs, onCore_mem]

@[simp] theorem seekMgo_mem (s : State) (c : Nat) (e : Entry) (t : Nest) (mask : Nat) (iters : List Nat) (idx : Option (List Nat)) :
    (seekMgo s c e t mask iters idx).mem = s.mem := by
  grind [seekMgo, putEntry_mem, leaveStream_mem]

@[simp] theorem advanceMgo_mem (s : State) (c : Nat) (e : Entry) (t : Nest) (mask : Nat) :
    (advanceMgo s c e t mask).mem = s.mem := by
  grind [advanceMgo, seekMgo_mem]

@[simp] theorem portEnd_mem (s : State) (c : Nat) (e : Entry) (d : Drain) : (portEnd s c e d).mem = s.mem := by
  grind [portEnd, putEntry_mem]

theorem sendMessages_mem {cl : Nat} {l : List Nat} {s t : State} (hx : sendMessages cl l s = some t) : t.mem = s.mem := by
  induction l generalizing s with
  | nil => cases hx; rfl
  | cons r l ih => grind [sendMessages, sendOn_mem]

theorem tellMembers_mem {s : State} {cl : Nat} {l : Launch} (js : List Nat) {t} (hx : tellMembers s cl l js = some t) :
    t.mem = s.mem := by
  grind [tellMembers, sendMessages_mem]

theorem arrived_mem {s : State} {cl : Nat} {l : Launch} {peer n : Nat} {t} (hx : arrived s cl l peer n = some t) :
    t.mem = s.mem := by
  grind [arrived]

@[simp] theorem passBars_mem (s : State) (l : Launch) : (passBars s l).mem = s.mem :=
  foldl_mem (fun s j => by grind [putLaunch_mem]) _ s

theorem pushSend_mem {s : State} {cl : Nat} {l : Launch} {r : StepRun} {t} (hx : pushSend s cl l r = some t) : t.mem = s.mem := by
  unfold pushSend at hx
  split at hx
  · cases hx
  · split at hx
    · cases hx
    · split at hx
      · obtain ⟨l', -, rfl⟩ := Option.map_eq_some_iff.1 hx
        simp
      · cases hx

@[simp] theorem retryRuns_mem (s : State) (n : Nat) (h : Nat × Head) : (retryRuns s n h).mem = s.mem :=
  foldl_mem (fun s x => by grind [pushRun_mem, onUnit_mem]) _ s

@[simp] theorem startRerun_mem (s : State) (a : At) (k : Task) : (startRerun s a k).mem = s.mem := by
  unfold startRerun
  exact mem_ite (onStrand_mem ..) (onStrand_mem ..)

@[simp] theorem putSteal_mem (s : State) (c : Nat) (r : Steal) : (putSteal s c r).mem = s.mem := by
  grind [putSteal, onCore_mem]

theorem fencedSteal_mem {s : State} {c : Nat} {r : Steal} {t} (hx : fencedSteal s c r = some t) : t.mem = s.mem := by
  unfold fencedSteal at hx
  split at hx
  · cases hx; rfl
  · obtain ⟨i, -, rfl⟩ := Option.map_eq_some_iff.1 hx
    rfl

@[simp] theorem onReplay_mem (s : State) (n : Nat) (f : Replay → Replay) : (onReplay s n f).mem = s.mem := by
  grind [onReplay, onSlot_mem]

@[simp] theorem markNode_mem (s : State) (n i : Nat) (ended failed : Bool) : (markNode s n i ended failed).mem = s.mem := by
  grind [markNode, onReplay_mem]

@[simp] theorem endReplay_mem (s : State) (n : Nat) : (endReplay s n).mem = s.mem := by
  grind [endReplay, onSlot_mem]

theorem wakeForAccess_mem {s : State} {t} (hx : wakeForAccess s = some t) : t.mem = s.mem := by
  grind [wakeForAccess, wakePackage_mem]

@[simp] theorem reclaimTile_mem (s : State) (n j : Nat) (t : Tile) : (reclaimTile n j s t).mem = s.mem := by
  grind [reclaimTile, returnTile_mem, reclaim_mem]

@[simp] theorem reclaimUnit_mem (j : Nat) (s : State) (n : Nat) : (reclaimUnit j s n).mem = s.mem := by
  unfold reclaimUnit
  dsimp only
  rw [foldl_mem (fun _ _ => reclaimTile_mem ..), onUnit_mem, reclaim_mem]

@[simp] theorem releaseJob_mem (s : State) (j : Nat) : (releaseJob s j).mem = s.mem := by
  grind [releaseJob]

@[simp] theorem finishReset_mem (s : State) (c : Nat) : (finishReset s c).mem = s.mem := by
  grind [finishReset, onCtx_mem]

@[simp] theorem suspendJob_mem (s : State) (j : Nat) : (suspendJob s j).mem = s.mem := by
  grind [suspendJob, onJob_mem]

@[simp] theorem releaseVictims_mem (s : State) (stopper : Option Nat) : (releaseVictims s stopper).mem = s.mem := by
  unfold releaseVictims
  dsimp only
  split
  · exact foldl_mem (fun _ _ => suspendJob_mem ..) _ s
  · rfl

@[simp] theorem dropSaved_mem (j : Nat) (s : State) : (dropSaved j s).mem = s.mem :=
  foldl_mem (fun s k => foldl_mem (fun s v => foldl_mem (fun s w => by
    have h (l : List Entry) : (l.foldl (fun s e => dropEntry s ⟨k.1, w.sx⟩ e) s).mem = s.mem := foldl_mem (fun _ _ => dropEntry_mem ..) l s
    grind [dropDeferred_mem]) _ s) _ s) _ s

@[simp] theorem resetContext_mem (s : State) (c : Nat) : (resetContext s c).mem = s.mem := by
  unfold resetContext
  rw [finishReset_mem, onCtx_mem]
  exact foldl_mem (fun s b => by rw [onJob_mem, killJob_mem]) _ s

@[simp] theorem holdContext_mem (s : State) (j : Nat) (b : Job) (c x : Nat) : (holdContext j b c s x).mem = s.mem := by
  grind [holdContext, onStrand_mem]

@[simp] theorem placeJob_mem (j : Nat) (s : State) (c : Nat) : (placeJob j s c).mem = s.mem := by
  unfold placeJob
  simp only [onJob_mem, wakeDie_mem, onCore_mem]
  exact foldl_mem (fun _ _ => holdContext_mem ..) _ s

theorem setAside_mem {s : State} {a : At} {t} (hx : setAside s a = some t) : t.mem = s.mem := by
  unfold setAside at hx
  dsimp only at hx
  split at hx
  · cases hx
  · cases hx
    rw [onStrand_mem, foldl_mem (fun _ _ => mem_ite (setQueue_mem ..) rfl), foldl_mem (fun _ _ => restoreTaken_mem ..)]
    exact mem_ite (stopMatrix_mem ..) rfl

@[simp] theorem saveContext_mem (c : Nat) (r : State × List SavedStrand) (x : Nat) : (saveContext c r x).1.mem = r.1.mem := by
  obtain ⟨s, l⟩ := r
  unfold saveContext
  simp only [dropTurn_mem, onStrand_mem, withdrawTokens_mem, clearEntries_mem]
  rw [foldl_mem (fun _ _ => restoreTaken_mem ..)]
  simp

@[simp] theorem parkAgain_mem (s : State) (a : At) : (parkAgain s a).mem = s.mem := by
  grind [parkAgain, onStrand_mem, rouse_mem]

@[simp] theorem restoreStrand_mem (j : Nat) (b : Job) (c : Nat) (s : State) (v : SavedStrand) : (restoreStrand j b c s v).mem = s.mem := by
  unfold restoreStrand
  dsimp only
  refine mem_ite ?_ ?_
  · rw [parkAgain_mem, pushSaved_mem, foldl_mem (fun _ _ => setFifo_mem ..), onStrand_mem]
  · rw [onStrand_mem, pushSaved_mem, foldl_mem (fun _ _ => setFifo_mem ..), onStrand_mem]

@[simp] theorem putWall_mem (s : State) (w half v : Nat) : (putWall s w half v).mem = s.mem := by
  grind [putWall]

@[simp] theorem runHarts_mem (s : State) (m : Nat) : (runHarts s m).mem = s.mem := foldl_mem (fun _ _ => onHart_mem ..) _ s

@[simp] theorem holdHarts_mem (s : State) (m : Nat) : (holdHarts s m).mem = s.mem := foldl_mem (fun _ _ => onHart_mem ..) _ s

@[simp] theorem refuseHart_mem (s : State) (h kind addr : Nat) : (refuseHart s h kind addr).mem = s.mem := by
  grind [refuseHart, onHart_mem]

@[simp] theorem toolStore_mem (s : State) (h addr v : Nat) : (toolStore s h addr v).mem = s.mem := by
  unfold toolStore
  exact mem_ite (notifyStore_mem ..) (mem_ite (onHart_mem ..) (mem_ite rfl (onHart_mem ..)))

@[simp] theorem setPlim_mem (s : State) (v : Nat) : (setPlim s v).mem = s.mem := by
  grind [setPlim, onDev_mem, wakePackage_mem]

@[simp] theorem clearDrop_mem (s : State) (v : Nat) : (clearDrop s v).mem = s.mem := by
  grind [clearDrop, onDev_mem]

@[simp] theorem clearFence_mem (s : State) (cl m : Nat) : (clearFence s cl m).mem = s.mem :=
  foldl_mem (fun s k => by split <;> simp) _ s

@[simp] theorem deviceWrite_mem (s : State) (off v : Nat) : (deviceWrite s off v).mem = s.mem := by
  unfold deviceWrite
  split
  case h_12 => exact mem_ite (onDie_mem ..) (mem_ite (clearFence_mem ..) rfl)
  case h_4 => exact mem_ite rfl (onDev_mem ..)
  all_goals simp

@[simp] theorem installAt_mem (s : State) (key : Nat) (p : Pool) (n : Nat) : (installAt key p s n).mem = s.mem := by
  grind [installAt, onUnit_mem]

@[simp] theorem beginShootdown_mem (s : State) (c : Nat) : (beginShootdown s c).mem = s.mem := by
  grind [beginShootdown, onCtx_mem]

@[simp] theorem toolWrite_mem (s : State) (off v : Nat) : (toolWrite s off v).mem = s.mem := by
  unfold toolWrite
  refine mem_ite (putWall_mem ..) ?_
  split <;> simp

@[simp] theorem takeSample_mem (s : State) (m v : Nat) : (takeSample s m v).mem = s.mem := by
  grind [takeSample, onMonitor_mem]

@[simp] theorem monitorWrite_mem (s : State) (m off v : Nat) : (monitorWrite s m off v).mem = s.mem := by
  unfold monitorWrite
  split <;> simp

@[simp] theorem putMailbox_mem (s : State) (lo : Nat) (v : List Byte) : (putMailbox s lo v).mem = s.mem := by
  grind [putMailbox]

@[simp] theorem attest_mem (s : State) : (attest s).mem = s.mem := by
  grind [attest, putMailbox_mem]

@[simp] theorem mailboxWrite_mem (s : State) (off v : Nat) : (mailboxWrite s off v).mem = s.mem := by
  grind [mailboxWrite, putMailbox_mem, attest_mem]

@[simp] theorem tickPower_mem (s : State) : (tickPower s).mem = s.mem := by
  grind [tickPower, onDev_mem]

@[simp] theorem enterHold_mem (s : State) (d : Nat) : (enterHold s d).mem = s.mem := by
  grind [enterHold, onDie_mem]

@[simp] theorem killAll_mem (s : State) (code : Nat) : (killAll s code).mem = s.mem := foldl_mem (fun _ _ => killJob_mem ..) _ s

@[simp] theorem settleRoutes_mem (s : State) : (settleRoutes s).mem = s.mem := by
  grind [settleRoutes]

@[simp] theorem resendOn_mem (l : List Flit) (s : State) : (resendOn l s).mem = s.mem := by
  induction l generalizing s with
  | nil => rfl
  | cons f l ih => grind [resendOn, sendOn_mem]

@[simp] theorem answer_mem (s : State) (lidx n : Nat) : (answer s lidx n).mem = s.mem := by
  grind [answer, post_mem]

@[simp] theorem deliverRemote_mem (s : State) (r : Remote) (v : Nat) : (deliverRemote s r v).mem = s.mem := by
  grind [deliverRemote, putEntry_mem, onStrand_mem]

theorem takeRemote_mem {s : State} {id : Nat} {t} (hx : takeRemote s id = some t) : t.1.mem = s.mem := by
  obtain ⟨r, -, rfl⟩ := Option.map_eq_some_iff.1 hx
  rfl

@[simp] theorem refetch_mem (s : State) (core i : Nat) (second : Bool) : (refetch s core i second).mem = s.mem := by
  grind [refetch, onDie_mem, onCore_mem]

theorem dueOut_mem {s t : State} (hx : dueOut s = some t) : t.mem = s.mem := by
  obtain ⟨p, -, rfl⟩ := Option.map_eq_some_iff.1 hx
  exact sendOn_mem ..

@[simp] theorem tickPages_mem (s : State) : (tickPages s).mem = s.mem := foldl_mem (fun s k => by split <;> simp) _ s

@[simp] theorem tickMonitors_mem (s : State) : (tickMonitors s).mem = s.mem := by
  grind [tickMonitors]

@[simp] theorem tick_mem (s : State) : (tick s).mem = s.mem := by
  grind [tick, tickMonitors_mem, tickPower_mem, tickPages_mem]

@[simp] theorem freezeWait_mem (s : State) (old : Option Wait) (a : At) : (freezeWait old a s).mem = s.mem := by
  grind [freezeWait, onStrand_mem]

@[simp] theorem seen_mem (s : State) (a : At) : (seen s a).mem = s.mem := by
  grind [seen, onStrand_mem]

@[simp] theorem State.noSb_mem (s : State) : (State.noSb s).mem = s.mem := by
  grind [State.noSb]

@[simp] theorem pushCounted_mem (s : State) (a : At) (e : Entry) : (pushCounted s a e).mem = s.mem := by
  grind [pushCounted, onStrand_mem, onCore_mem]

@[simp] theorem wroteG_mem (s : State) (a : At) (d : BitVec 5) (n : BitVec 1) (l : Nat) (v : Dword) :
    (wroteG s a d n l v).mem = s.mem := by
  grind [wroteG, onStrand_mem]

@[simp] theorem bar0Write.bootWrite_mem (s : State) (n v : Nat) : (bar0Write.bootWrite s n v).mem = s.mem := by
  grind [bar0Write.bootWrite]

@[simp] theorem passFocus_mem (s : State) : (passFocus s).mem = s.mem := by
  grind [passFocus]

@[simp] theorem openCycle_mem (s : State) : (openCycle s).mem = s.mem := by
  grind [openCycle, passFocus_mem]

@[simp] theorem endSlot_mem (s : State) (old : Option Wait) (a : At) : (endSlot old a s).mem = s.mem := by
  grind [endSlot, passFocus_mem, onStrand_mem, freezeWait_mem]

end Sys2Proof.Machine
end

section
/-! Canonical memory: pool units, tasks, traps and what an attempt to issue gives. -/

namespace Sys2Proof.Machine

theorem wf_ite {p : Prop} [Decidable p] {x y : State} (hx : x.mem.wf = true) (hy : y.mem.wf = true) :
    (if p then x else y).mem.wf = true := by
  split
  · exact hx
  · exact hy

/-- A fold of steps that keep memory canonical keeps it canonical. -/
theorem foldl_wf {α : Type} {f : State → α → State} (hf : ∀ s x, s.mem.wf = true → (f s x).mem.wf = true) (l : List α)
    {s : State} (h : s.mem.wf = true) : (l.foldl f s).mem.wf = true := by
  induction l generalizing s with
  | nil => exact h
  | cons x l ih => exact ih (hf s x h)

theorem writeWords_wf {l r : List (List Byte)} {s : State} (h : s.mem.wf = true) (loc : Nat → Nat) (i : Nat) :
    (writeWords s loc i l r).mem.wf = true := by
  induction l generalizing s i r with
  | nil => exact h
  | cons o l ih =>
    cases r with
    | nil => exact h
    | cons w r => exact ih (wf_ite h (storeN_wf h ..)) (i + 1)

theorem putHead_wf {s : State} (h : s.mem.wf = true) (n ctx k : Nat) (old : Option (Head × Nat)) (hd : Head) (hcount : Nat) :
    (putHead s n ctx k old hd hcount).mem.wf = true :=
  writeWords_wf h ..

theorem publish_wf {s : State} (h : s.mem.wf = true) {c ctx job k tile : Nat} {final : Bool} {scope : Nat} {t}
    (hx : publish s c ctx job k tile final scope = .ok t) : t.1.mem.wf = true := by
  have told (l : List Sub) (e : Event) (s : State) : (l.foldl (fun s b => postTask s b.bTask e) s).mem = s.mem :=
    foldl_mem (fun _ _ => postTask_mem ..) l s
  unfold publish at hx
  split at hx
  · cases hx
  · dsimp only at hx
    split at hx
    · cases hx; exact h
    · split at hx
      · cases hx
      · split at hx
        · cases hx
        · rw [← Except.ok.inj hx]
          split
          · rw [settleTile_mem, told]
            refine putHead_wf ?_ ..
            rw [foldl_fst_mem (subNewer_mem job k), supersede_mem, putTile_mem]
            exact h
          · rw [told]
            refine putHead_wf ?_ ..
            rw [foldl_fst_mem (subNewer_mem job k), supersede_mem, putTile_mem]
            exact h

theorem stopRef_wf {s : State} (hs : s.mem.wf = true) {c ctx : Nat} {job h : Nat} {t}
    (hx : stopRef s c ctx job h = .ok t) : t.mem.wf = true := by
  grind [stopRef, putHead_wf, settleHead_mem]

theorem subscribe_wf {s : State} (hs : s.mem.wf = true) {c ctx : Nat} {job h : Nat} {b : Sub} {t}
    (hx : subscribe s c ctx job h b = .ok t) : t.1.mem.wf = true := by
  grind [subscribe, putTile_mem, fireSub_mem, putHead_wf]

theorem startRun_wf {s : State} (hs : s.mem.wf = true) (c ctx : Nat) (h i : Nat) : (startRun s c ctx h i).1.mem.wf = true := by
  grind [startRun, putHead_wf, putTile_mem]

theorem endRun_wf {s : State} (hs : s.mem.wf = true) (c ctx : Nat) (job h : Nat) (i tile : Nat) :
    (endRun s c ctx job h i tile).mem.wf = true := by
  grind [endRun, countRun_mem, cancelDraw_mem, fireSub_mem, putHead_wf, settleHead_mem]

theorem refireRun_wf {s : State} (hs : s.mem.wf = true) (c ctx : Nat) (job h : Nat) (i tile : Nat) :
    (refireRun s c ctx job h i tile).mem.wf = true := by
  grind [refireRun, countRun_mem, putTile_mem, fireSub_mem, putHead_wf]

theorem poolAdd_wf {s : State} (hs : s.mem.wf = true) {c ctx : Nat} {job h n : Nat} {t}
    (hx : poolAdd s c ctx job h n = .ok t) : t.mem.wf = true := by
  grind [poolAdd, putTile_mem, putHead_wf]

theorem drawTile_wf {s : State} (hs : s.mem.wf = true) {c ctx : Nat} {job h : Nat} {pended : Bool} {t}
    (hx : drawTile s c ctx job h pended = .ok t) : t.mem.wf = true := by
  grind [drawTile, putTile_mem, putHead_wf]

theorem poolDraw_wf {s : State} (hs : s.mem.wf = true) {c ctx : Nat} {job h : Nat} {pended : Bool} {t}
    (hx : poolDraw s c ctx job h pended = .ok t) : t.mem.wf = true := by
  grind [poolDraw, drawTile_wf, settleHandle_mem]

/-- Draws of one tile, until the first that is refused. -/
theorem drawsOf_wf {s : State} (h : s.mem.wf = true) (c ctx job k : Nat) (l : List Unit) (t : State)
    (hx : l.foldl (fun (r : Except Cause State) _ =>
      match r with | .ok s => poolDraw s c ctx job k true | .error e => .error e) (.ok s) = .ok t) : t.mem.wf = true := by
  refine foldl_invariant (P := fun r : Except Cause State => ∀ t, r = .ok t → t.mem.wf = true) l ?_ ?_ t hx
  · rintro _ ⟨⟩
    exact h
  · intro r hr _ _ t ht
    split at ht
    · exact poolDraw_wf (hr _ rfl) ht
    · cases ht

theorem countDeferred_wf {l : List (Nat × Nat)} {s : State} (h : s.mem.wf = true) {c ctx job : Nat} {t}
    (hx : countDeferred s c ctx job l = .ok t) : t.mem.wf = true := by
  induction l generalizing s with
  | nil => cases hx; exact h
  | cons p l ih =>
    have hd := drawsOf_wf h c ctx job p.1 (List.replicate p.2 ())
    rw [countDeferred] at hx
    split at hx
    · rename_i u hu
      exact ih (hd u hu) hx
    · cases hx

theorem applyReq_wf {s : State} (h : s.mem.wf = true) (r : PoolReq) : (applyReq s r).mem.wf = true := by
  grind [applyReq, poolAdd_wf, drawTile_wf, stopRef_wf, onStrand_mem]

theorem placeReq_wf {s : State} (h : s.mem.wf = true) (n : Nat) (w : Alloc) (at_ skip : Nat) :
    (placeReq s n w at_ skip).1.mem.wf = true := by
  grind [placeReq, placeTile_mem, putHead_wf]

theorem offerWait_wf {s : State} (h : s.mem.wf = true) (n : Nat) (w : Alloc) : (offerWait n s w).mem.wf = true := by
  grind [offerWait, onUnit_mem, placeReq_wf, onStrand_mem]

theorem serveWaits_wf {s : State} (h : s.mem.wf = true) (n : Nat) : (serveWaits s n).mem.wf = true :=
  foldl_wf (fun _ w hs => offerWait_wf hs n w) _ h

theorem applyOps_wf {s : State} (h : s.mem.wf = true) (lim n : Nat) : (applyOps lim s n).mem.wf = true := by
  unfold applyOps
  dsimp only
  rw [foldl_mem settleReq_mem]
  exact foldl_wf (fun _ r hs => applyReq_wf hs r) _ h

theorem applyInbox_wf {s : State} (h : s.mem.wf = true) (n : Nat) : (applyInbox s n).mem.wf = true := by
  grind [applyInbox, applyOps_wf]

theorem unitCycle_wf {s : State} (h : s.mem.wf = true) (n : Nat) : (unitCycle s n).mem.wf = true := by
  grind [unitCycle, serveWaits_wf, applyInbox_wf]

theorem logErrorJob_wf {s : State} (h : s.mem.wf = true) (code level : Nat) (a : Option At) (job : Option Nat) (a0 a1 : Nat) :
    (logErrorJob s code level a job a0 a1).mem.wf = true := by
  unfold logErrorJob
  exact wf_ite h (wf_ite h (storeN_wf h ..))

theorem logStrand_wf {s : State} (h : s.mem.wf = true) (code level : Nat) (a : At) (a0 a1 : Nat) :
    (logStrand s code level a a0 a1).mem.wf = true := by
  grind [logStrand, logErrorJob_wf]

theorem logPlain_wf {s : State} (h : s.mem.wf = true) (code level : Nat) (a0 a1 : Nat) :
    (logPlain s code level a0 a1).mem.wf = true := by
  grind [logPlain, logErrorJob_wf]

theorem closeTask_wf {s : State} (h : s.mem.wf = true) (a : At) : (closeTask s a).mem.wf = true := by
  grind [closeTask, onStrand_mem, withdrawTokens_mem, reclaim_mem, unpark_mem, withdrawAlloc_mem, endRun_wf,
    joinChild_mem, onJob_mem, dropTurn_mem]

theorem retireTask_wf {s : State} (h : s.mem.wf = true) (a : At) : (retireTask s a).mem.wf = true := by
  grind [retireTask, closeTask_wf, discardEntries_mem]

theorem abortTask_wf {s : State} (h : s.mem.wf = true) (a : At) : (abortTask s a).mem.wf = true := by
  grind [abortTask, discardEntries_mem, dropDeferred_mem, closeTask_wf]

theorem endWith_wf {s : State} (h : s.mem.wf = true) (a : At) (code level a0 : Nat) :
    (endWith s a code level a0).mem.wf = true := by
  grind [endWith, logStrand_wf, abortTask_wf, noteEnd_mem]

theorem endByCause_wf {s : State} (h : s.mem.wf = true) (a : At) (code : Nat) : (endByCause s a code).mem.wf = true := by
  grind [endByCause, endWith_wf]

theorem stopRun_wf {s : State} (h : s.mem.wf = true) (a : At) : (stopRun s a).mem.wf = true := by
  grind [stopRun, orphanTiles_mem, abortTask_wf]

theorem reexecute_wf {s : State} (h : s.mem.wf = true) (a : At) (k : Task) : (reexecute s a k).mem.wf = true := by
  grind [reexecute, killJob_mem, abortTask_wf, logStrand_wf, orphanTiles_mem, dropDeferred_mem, discardEntries_mem,
    onStrand_mem, withdrawTokens_mem, reclaim_mem, unpark_mem, withdrawAlloc_mem, onJob_mem, refireRun_wf, dropTurn_mem]

theorem startEntry_wf {s : State} (h : s.mem.wf = true) (a : At) (e : DqEntry) : (startEntry s a e).mem.wf = true := by
  grind [startEntry, newTask_mem, startRun_wf, onStrand_mem, onJob_mem]

theorem writeUndefined_wf {s : State} (h : s.mem.wf = true) (loc n : Nat) : (writeUndefined s loc n).mem.wf = true := by
  have hc : (if s.poison.isEmpty then s else clearPoison s loc n).mem.wf = true := wf_ite h (by rwa [clearPoison_mem])
  exact Memory.wf_free hc ..

theorem enterTrap_wf {s : State} (h : s.mem.wf = true) (a : At) (pt : PendTrap) : (enterTrap s a pt).mem.wf = true := by
  unfold enterTrap
  rw [onStrand_mem]
  refine storeN_wf ?_ ..
  rw [clearEntries_mem, foldl_mem restoreTaken_mem, stopMatrix_mem, unpark_mem, withdrawAt_mem, onStrand_mem]
  exact h

theorem endByFrame_wf {s : State} (h : s.mem.wf = true) (a : At) (code off : Nat) :
    (endByFrame s a code off).mem.wf = true := by
  grind [endByFrame, endWith_wf, onCore_mem]

theorem takeTrap_wf {s : State} (h : s.mem.wf = true) (a : At) (pt : PendTrap) : (takeTrap s a pt).mem.wf = true := by
  grind [takeTrap, reexecute_wf, endByCause_wf, endByFrame_wf, enterTrap_wf]

theorem pendOrTake_wf {s : State} (h : s.mem.wf = true) (a : At) (pt : PendTrap) : (pendOrTake s a pt).mem.wf = true := by
  grind [pendOrTake, readyForTrap_mem, takeTrap_wf]

theorem signalTrap_wf {s : State} (h : s.mem.wf = true) (a : At) (pt : PendTrap) : (signalTrap s a pt).mem.wf = true := by
  grind [signalTrap, pendOrTake_wf, fenceFor_mem, logStrand_wf]

/-- Memory is canonical in the state in which an instruction waits. -/
def StopWf : Stop → Prop
  | .wait s _ _ _ => s.mem.wf = true
  | .trap _ => True

/-- Memory is canonical in every state that an attempt to issue may leave: the result's, read off by `get`, or the one in
which it waits. -/
def ActWf {α : Type} (get : α → State) : Act α → Prop
  | .ok x => (get x).mem.wf = true
  | .error e => StopWf e

/-- Memory is canonical in the state that a step leaves. -/
def OutWf : Host.Outcome State Fault Refusal → Prop
  | .next t => t.mem.wf = true
  | _ => True

/-- An instruction keeps memory canonical if what it does in its slot does. -/
theorem issue_wf {s : State} (h : s.mem.wf = true) (len : Nat) {body : At → State → Act Done}
    (hb : ∀ a u, u.mem.wf = true → ActWf Done.s (body a u)) : OutWf (issue len s body) := by
  unfold issue
  split
  · trivial
  · rename_i a _
    have hs := hb a (onStrand s a landSlot) h
    dsimp only
    split
    · rename_i hd
      rw [hd] at hs
      rw [OutWf, finish_mem]
      rwa [ActWf] at hs
    · rename_i hd
      rw [hd] at hs
      rw [OutWf, holdWait_mem]
      rwa [ActWf, StopWf] at hs
    · rw [OutWf]
      exact signalTrap_wf (by rwa [onStrand_mem]) ..

end Sys2Proof.Machine
end

section
/-! Canonical memory: the instructions of the CC, by what each attempt to issue does. -/

namespace Sys2Proof.Machine

/-! ## Operands: what waits for one waits in the state as it is -/

theorem raise_stop {α : Type} {code a0 a1 a2 : Nat} {e : Stop} (hx : raise (α := α) code a0 a1 a2 = .error e) : StopWf e := by
  cases hx; trivial

theorem stall_stop {α : Type} {s : State} (h : s.mem.wf = true) {e : Stop} (hx : stall (α := α) s = .error e) : StopWf e := by
  cases hx; exact h

theorem goOnWaiting_stop {α : Type} {s : State} {a : At} (h : s.mem.wf = true) {e : Stop}
    (hx : goOnWaiting (α := α) s a = .error e) : StopWf e := by
  grind [goOnWaiting, StopWf]

theorem rdG_stop {s : State} {a : At} {n : Nat} (h : s.mem.wf = true) {e : Stop} (hx : rdG s a n = .error e) : StopWf e := by
  grind [rdG, stall_stop]

theorem rd_stop {s : State} {a : At} {v : BitVec 6} (h : s.mem.wf = true) {e : Stop} (hx : rd s a v = .error e) : StopWf e := by
  grind [rd, rdG_stop]

theorem rdP_stop {s : State} {a : At} {n : Nat} (h : s.mem.wf = true) {e : Stop} (hx : rdP s a n = .error e) : StopWf e := by
  grind [rdP, stall_stop]

theorem freeD_stop {s : State} {a : At} {d : BitVec 5} {nw : BitVec 1} (h : s.mem.wf = true) {e : Stop}
    (hx : freeD s a d nw = .error e) : StopWf e := by
  grind [freeD, freeG, stall_stop]

theorem wrG_stop {s : State} {a : At} {d : BitVec 5} {nw : BitVec 1} {l : Nat} {v : Dword} (h : s.mem.wf = true) {e : Stop}
    (hx : wrG s a d nw l v = .error e) : StopWf e := by
  grind [wrG, stall_stop]

theorem wrP_stop {s : State} {a : At} {n : Nat} {v : Bool} (h : s.mem.wf = true) {e : Stop} (hx : wrP s a n v = .error e) :
    StopWf e := by
  grind [wrP, stall_stop]

theorem casVal_stop {s : State} {a : At} {k : Nat} {d : BitVec 5} (h : s.mem.wf = true) {e : Stop}
    (hx : casVal s a k d = .error e) : StopWf e := by
  grind [casVal, rdG_stop]

theorem memAddr_stop {s : State} {a : At} {b : BitVec 6} {m : MemOff} {l : List Nat} {n : Nat} (h : s.mem.wf = true) {e : Stop}
    (hx : memAddr s a b m l n = .error e) : StopWf e := by
  grind [memAddr, rd_stop, raise_stop, StopWf]

theorem ccPoison_stop {s : State} {a : At} {r : Reach} {n : Nat} {e : Stop} (hx : ccPoison s a r n = .error e) : StopWf e := by
  cases r <;> grind [ccPoison, StopWf]

theorem allocCheck_stop {s : State} {a : At} {v : Bool} {word w b : Nat} {e : Stop} (hx : allocCheck s a v word w b = .error e) :
    StopWf e := by
  grind [allocCheck, raise_stop]

theorem forkCheck_stop {s : State} {a : At} {en : Nat} {e : Stop} (hx : forkCheck s a en = .error e) : StopWf e := by
  grind [forkCheck, raise_stop]

theorem handleForm_stop {n : Nat} {e : Stop} (hx : handleForm n = .error e) : StopWf e := by
  grind [handleForm, need, raise_stop]

theorem farWait_stop {α : Type} {s : State} {a : At} {va base psz frame : Nat} {wr : Bool} (h : s.mem.wf = true) {e : Stop}
    (hx : farWait (α := α) s a va base psz frame wr = .error e) : StopWf e := by
  have := @autoPage_mem s
  grind [farWait, StopWf, raise_stop, postEvent_mem]

theorem awaitWalk_stop {α : Type} {s : State} {a : At} {va : Nat} (h : s.mem.wf = true) {e : Stop}
    (hx : awaitWalk (α := α) s a va = .error e) : StopWf e :=
  goOnWaiting_stop (by rwa [joinMiss_mem]) hx

/-- No wait of an access is a result: what the access gives stands in the state as it is. -/
theorem farWait_ne_ok {α : Type} (s : State) (a : At) (va base psz frame : Nat) (wr : Bool) (x : α) :
    farWait s a va base psz frame wr ≠ .ok x := by
  grind [farWait, raise]

theorem awaitWalk_ne_ok {α : Type} (s : State) (a : At) (va : Nat) (x : α) : awaitWalk s a va ≠ .ok x := by
  grind [awaitWalk, goOnWaiting]

theorem reach_stop {s : State} {a : At} {ad : Nat} {wr : Bool} (h : s.mem.wf = true) {e : Stop}
    (hx : reach s a ad wr = .error e) : StopWf e := by
  unfold reach at hx
  split at hx
  · cases hx
  · split at hx
    · exact awaitWalk_stop h hx
    · have ht := @translate_mem s a.c (ctxOf s a) ad wr false
      split at hx <;> grind [StopWf, raise_stop, stall_stop, farWait_stop]

theorem reach_mem {s : State} {a : At} {ad : Nat} {wr : Bool} {t} (hx : reach s a ad wr = .ok t) : t.1.mem = s.mem := by
  unfold reach at hx
  split at hx
  · cases hx; rfl
  · split at hx
    · exact (awaitWalk_ne_ok _ _ _ _ hx).elim
    · have ht := @translate_mem s a.c (ctxOf s a) ad wr false
      have hf := @farWait_ne_ok (State × Reach)
      split at hx <;> grind [raise, stall]

/-! ## Writes of an instruction -/

theorem writePlace_wf {n : Nat} {s : State} (h : s.mem.wf = true) (key : Nat) (p : Place) (v : List Byte) :
    (writePlace s key n p v).mem.wf = true := by
  induction n generalizing s p v with
  | zero => exact h
  | succ n ih => exact wf_ite h (ih (storeN_wf h ..) ..)

theorem putPlace_wf {s : State} (h : s.mem.wf = true) (key : Nat) (p : Place) (v : List Byte) :
    (putPlace s key p v).mem.wf = true :=
  wf_ite (writePlace_wf h ..) (storeN_wf h ..)

theorem engineWrite_wf {s : State} (h : s.mem.wf = true) (key : Nat) (p : Place) (v : List Byte) :
    (engineWrite s key p v).mem.wf = true := by
  grind [engineWrite, putPlace_wf, fillGranules_mem]

theorem reachWrite_wf {s : State} (h : s.mem.wf = true) (a : At) (r : Reach) (n v : Nat) : (reachWrite s a r n v).mem.wf = true := by
  cases r with
  | near p => exact putPlace_wf h ..
  | phys va loc => exact storeNat_wf h ..
  | remote va l => exact h

theorem saveFrame_wf {s : State} (h : s.mem.wf = true) (a : At) (inline : Option Nat) : (saveFrame s a inline).mem.wf = true :=
  writeUndefined_wf h ..

theorem forkInline_wf {s : State} (h : s.mem.wf = true) (a : At) (k : Task) (entry arg : Nat) :
    (forkInline s a k entry arg).mem.wf = true := by
  simp only [forkInline, newTask, dropTurn_mem, onJob_mem, onStrand_mem]
  exact saveFrame_wf (by exact h) ..

theorem evict_wf {s : State} (h : s.mem.wf = true) (a : At) : (evict s a).mem.wf = true := by
  rw [evict, dropTurn_mem, onStrand_mem]
  exact saveFrame_wf h ..

/-! ## What an instruction does once its operands are there -/

variable {s : State}

theorem aluDone_wf (h : s.mem.wf = true) (a : At) (d : BitVec 5) (nw : BitVec 1) (v : Dword) :
    ActWf Done.s (aluDone s a d nw v) := by
  have := @wrG_mem s
  grind [aluDone, wrG_stop, ActWf]

theorem loadDone_wf (h : s.mem.wf = true) (a : At) (d : BitVec 5) (nw : BitVec 1) (b : Bool) (v : Dword) :
    ActWf Done.s (loadDone s a d nw b v) := by
  have := @wrG_mem s
  grind [loadDone, wrG_stop, ActWf, onStrand_mem, addSb_mem]

theorem storeDone_wf (h : s.mem.wf = true) (a : At) (b : Bool) : ActWf Done.s (storeDone s a b) := by
  grind [storeDone, ActWf, addSb_mem]

theorem armLoop_wf (h : s.mem.wf = true) (len l count word : Nat) (a : At) : ActWf Done.s (armLoop len l count word a s) := by
  grind [armLoop, ActWf, raise, StopWf, onStrand_mem]

theorem waitcTry_wf (h : s.mem.wf = true) (a : At) (d : BitVec 5) (n : BitVec 1) (ad : Nat) (b v : Dword) :
    ActWf Done.s (waitcTry s a d n ad b v) := by
  have := @wrG_mem s
  grind [waitcTry, wrG_stop, ActWf, StopWf]

theorem waitcRead_wf (h : s.mem.wf = true) (a : At) (d : BitVec 5) (n : BitVec 1) (ad : Nat) (b : Dword) (r : Reach) :
    ActWf Done.s (waitcRead s a d n ad b r) := by
  cases r <;> grind [waitcRead, waitcTry_wf, ccPoison_stop, ActWf, StopWf, onStrand_mem, askRemote_mem]

theorem parkNow_wf (h : s.mem.wf = true) (a : At) (d : BitVec 5) (n : BitVec 1) (i : Nat) : ActWf Done.s (parkNow s a d n i) := by
  unfold parkNow
  split
  · rename_i hd
    exact freeD_stop h hd
  · split
    · dsimp only
      split
      · rename_i hw
        exact (congrArg _ (wrG_mem hw)).trans h
      · rename_i hw
        exact wrG_stop (by exact h) hw
    · split
      · rwa [ActWf, reachStop_mem]
      · rwa [ActWf, parkOn_mem]

theorem goOnWaiting_wf {α : Type} (h : s.mem.wf = true) (a : At) (get : α → State) : ActWf get (goOnWaiting s a) := by
  grind [goOnWaiting, ActWf, StopWf]

theorem waitOrStop_wf (h : s.mem.wf = true) (a : At) (k : WaitKind) (b : Bool) (n : Nat) : ActWf Done.s (waitOrStop s a k b n) := by
  grind [waitOrStop, ActWf, StopWf, reachStop_mem]

theorem allocNow_wf (h : s.mem.wf = true) (a : At) (v : Bool) (d : BitVec 5) (nw : BitVec 1) (w b : Nat) :
    ActWf Done.s (allocNow s a v d nw w b) := by
  grind [allocNow, wrG_stop, wrG_mem, ActWf, StopWf, stall, onStrand_mem, waitOrStop_wf, onUnit_mem, placeReq_wf]

theorem forkNoSlot_wf (h : s.mem.wf = true) (a : At) (k : Task) (en arg : Nat) : ActWf Done.s (forkNoSlot s a k en arg) := by
  grind [forkNoSlot, stall, raise, ActWf, StopWf, waitOrStop_wf, endByFrame_wf, forkInline_wf]

theorem joinWait_wf (h : s.mem.wf = true) (a : At) (n : Nat) : ActWf Done.s (joinWait s a n) := by
  grind [joinWait, stall, raise, ActWf, StopWf, reachStop_mem, endByFrame_wf, evict_wf]

end Sys2Proof.Machine
end

section
/-! Canonical memory: what each instruction of the CC leaves, by its body. -/

namespace Sys2Proof.Machine

variable {s : State}

theorem alu2_wf (h : s.mem.wf = true) (d : BitVec 5) (nw : BitVec 1) (x y : BitVec 6) (f : Dword → Dword → Dword) :
    OutWf (alu2 d nw x y f s) :=
  issue_wf h _ fun a u hu => by grind [ActWf, rd_stop, aluDone_wf]

theorem alu1_wf (h : s.mem.wf = true) (len : Nat) (d : BitVec 5) (nw : BitVec 1) (x : BitVec 6) (f : Dword → Dword) :
    OutWf (alu1 len d nw x f s) :=
  issue_wf h _ fun a u hu => by grind [ActWf, rd_stop, aluDone_wf]

theorem lat2_wf (h : s.mem.wf = true) (l : Nat) (d : BitVec 5) (nw : BitVec 1) (x y : BitVec 6) (f : Dword → Dword → Dword) :
    OutWf (lat2 l d nw x y f s) :=
  issue_wf h _ fun a u hu => by grind [ActWf, rd_stop, wrG_stop, wrG_mem]

theorem lat1_wf (h : s.mem.wf = true) (l : Nat) (d : BitVec 5) (nw : BitVec 1) (x : BitVec 6) (f : Dword → Dword) :
    OutWf (lat1 l d nw x f s) :=
  issue_wf h _ fun a u hu => by grind [ActWf, rd_stop, wrG_stop, wrG_mem]

theorem execSel_wf (h : s.mem.wf = true) (d : BitVec 5) (n : BitVec 1) (a b : BitVec 6) (v : BitVec 1) (p : BitVec 3) :
    OutWf (execSel d n a b v p s) :=
  issue_wf h _ fun a u hu => by grind [ActWf, rd_stop, rdP_stop, aluDone_wf]

theorem ldOp_wf (h : s.mem.wf = true) (m : MemOff) (d : BitVec 5) (b : BitVec 6) (size : Nat) (signed : Bool) :
    OutWf (ldOp m d b size signed s) := by
  refine issue_wf h _ fun a u hu => ?_
  dsimp only
  split
  · rename_i hm
    exact memAddr_stop hu hm
  · split
    · rename_i hr
      exact reach_stop hu hr
    · rename_i v r hr
      have hv := (congrArg Memory.wf (reach_mem hr)).trans hu
      grind [ActWf, StopWf, stall, remoteOut_mem, ccPoison_stop, loadDone_wf]

theorem stOp_wf (h : s.mem.wf = true) (m : MemOff) (r : BitVec 5) (b : BitVec 6) (size : Nat) : OutWf (stOp m r b size s) := by
  refine issue_wf h _ fun a u hu => ?_
  dsimp only
  split
  · rename_i hm
    exact memAddr_stop hu hm
  · split
    · rename_i hr
      exact reach_stop hu hr
    · rename_i v x hr
      have hv := (congrArg Memory.wf (reach_mem hr)).trans hu
      grind [ActWf, StopWf, stall, rdG_stop, remoteOut_mem, storeDone_wf, reachWrite_wf]

theorem stfOp_wf (h : s.mem.wf = true) (m : MemOff) (r : BitVec 5) (b : BitVec 6) (size : Nat) : OutWf (stfOp m r b size s) :=
  issue_wf h _ fun a u hu => by grind [ActWf, StopWf, memAddr_stop, rdG_stop, stall, storeDone_wf, setFull_mem, putPlace_wf]

theorem ldfOp_wf (h : s.mem.wf = true) (m : MemOff) (d : BitVec 5) (b : BitVec 6) (size : Nat) (take : Bool) :
    OutWf (ldfOp m d b size take s) :=
  issue_wf h _ fun a u hu => by grind [ActWf, StopWf, memAddr_stop, stall, ccPoison_stop, loadDone_wf, clearFull_mem]

theorem atomOp_wf (h : s.mem.wf = true) (kind size : Nat) (d : BitVec 5) (nw : BitVec 1) (x y : BitVec 6) :
    OutWf (atomOp kind size d nw x y s) := by
  refine issue_wf h _ fun a u hu => ?_
  dsimp only
  split
  · rename_i hx
    exact rd_stop hu hx
  · split
    · trivial
    · split
      · rename_i hr
        exact reach_stop hu hr
      · rename_i v r hr
        have hv := (congrArg Memory.wf (reach_mem hr)).trans hu
        grind [ActWf, StopWf, stall, rd_stop, casVal_stop, remoteOut_mem, ccPoison_stop, reachWrite_wf, addSb_mem]

theorem cmpP_wf (h : s.mem.wf = true) (d : BitVec 3) (x y : BitVec 6) (f : Dword → Dword → Bool) : OutWf (cmpP d x y f s) :=
  issue_wf h _ fun a u hu => by grind [ActWf, rd_stop, wrP_stop, wrP_mem]

theorem opP_wf (h : s.mem.wf = true) (d x y : BitVec 3) (f : Bool → Bool → Bool) : OutWf (opP d x y f s) :=
  issue_wf h _ fun a u hu => by grind [ActWf, rdP_stop, wrP_stop, wrP_mem]

theorem opK_wf (h : s.mem.wf = true) (d x y : BitVec 4) (f : Nat → Nat → Nat) : OutWf (opK d x y f s) :=
  issue_wf h _ fun a u hu => by grind [ActWf, wrK_mem]

theorem opKG_wf (h : s.mem.wf = true) (d x : BitVec 4) (y : BitVec 6) (f : Nat → Nat → Nat) : OutWf (opKG d x y f s) :=
  issue_wf h _ fun a u hu => by grind [ActWf, rd_stop, wrK_mem]

theorem opGK_wf (h : s.mem.wf = true) (d : BitVec 5) (nw : BitVec 1) (x : BitVec 4) (f : Nat → Nat) : OutWf (opGK d nw x f s) :=
  issue_wf h _ fun a u hu => by grind [ActWf, aluDone_wf]

theorem execKtst_wf (h : s.mem.wf = true) (d : BitVec 3) (_n : BitVec 1) (a : BitVec 4) (b : BitVec 6) :
    OutWf (execKtst d _n a b s) :=
  issue_wf h _ fun a u hu => by grind [ActWf, rd_stop, wrP_stop, wrP_mem]

theorem execKldm_wf (h : s.mem.wf = true) (d : BitVec 4) (_n : BitVec 1) (a b : BitVec 6) : OutWf (execKldm d _n a b s) :=
  issue_wf h _ fun a u hu => by grind [ActWf, rd_stop, wrK_mem]

theorem opE_wf (h : s.mem.wf = true) (d x : BitVec 4) (y : BitVec 6) (f : Nat → Nat → Nat) : OutWf (opE d x y f s) :=
  issue_wf h _ fun a u hu => by grind [ActWf, rd_stop, wrE_mem]

theorem execEget_wf (h : s.mem.wf = true) (d : BitVec 5) (n : BitVec 1) (a : BitVec 4) : OutWf (execEget d n a s) :=
  issue_wf h _ fun a u hu => by grind [ActWf, aluDone_wf]

theorem execEclr_wf (h : s.mem.wf = true) (a : BitVec 6) : OutWf (execEclr a s) := by
  refine issue_wf h _ fun a u hu => ?_
  split
  · rw [ActWf, foldl_mem (fun _ _ => wrE_mem ..)]
    exact hu
  · rename_i hx
    exact rd_stop hu hx

theorem brOp_wf (h : s.mem.wf = true) (len : Nat) (p : BitVec 3) (v : BitVec 1) (off : Int) : OutWf (brOp len p v off s) :=
  issue_wf h _ fun a u hu => by grind [ActWf, rdP_stop]

theorem jalOp_wf (h : s.mem.wf = true) (len : Nat) (d : BitVec 5) (n : BitVec 1) (off : Int) : OutWf (jalOp len d n off s) :=
  issue_wf h _ fun a u hu => by grind [ActWf, wrG_stop, wrG_mem]

theorem jrOp_wf (h : s.mem.wf = true) (len : Nat) (d : BitVec 5) (n : BitVec 1) (x : BitVec 6) (off : Int) :
    OutWf (jrOp len d n x off s) :=
  issue_wf h _ fun a u hu => by grind [ActWf, StopWf, rd_stop, raise, wrG_stop, wrG_mem]

theorem loopOp_wf (h : s.mem.wf = true) (len : Nat) (x : BitVec 6) (l word : Nat) : OutWf (loopOp len x l word s) :=
  issue_wf h _ fun a u hu => by grind [ActWf, rd_stop, armLoop_wf]

theorem loopiOp_wf (h : s.mem.wf = true) (len l : Nat) (count word : Nat) : OutWf (loopiOp len l count word s) :=
  issue_wf h _ fun a u hu => by grind [ActWf, armLoop_wf]

theorem execSched_wf (h : s.mem.wf = true) (a : BitVec 4) (b : BitVec 6) : OutWf (execSched a b s) :=
  issue_wf h _ fun a u hu => by grind [ActWf, StopWf, rd_stop]

theorem execNop_wf (h : s.mem.wf = true) : OutWf (execNop s) :=
  issue_wf h _ fun a u hu => by grind [ActWf]

theorem execFence_wf (h : s.mem.wf = true) : OutWf (execFence s) :=
  issue_wf h _ fun a u hu => by grind [ActWf, StopWf, stall]

theorem execAfence_wf (h : s.mem.wf = true) : OutWf (execAfence s) :=
  issue_wf h _ fun a u hu => by grind [ActWf, StopWf, stall]

theorem execHalt_wf (h : s.mem.wf = true) : OutWf (execHalt s) :=
  issue_wf h _ fun a u hu => by grind [ActWf, StopWf, stall, retireTask_wf, countDeferred_wf]

theorem execTrap_wf (h : s.mem.wf = true) (x : BitVec 6) : OutWf (execTrap x s) :=
  issue_wf h _ fun a u hu => by grind [ActWf, rd_stop, onStrand_mem, arrived_mem, signalTrap_wf]

theorem execEret_wf (h : s.mem.wf = true) : OutWf (execEret s) :=
  issue_wf h _ fun a u hu => by grind [ActWf, StopWf, raise, stall, returnTrap_mem]

theorem execEvret_wf (h : s.mem.wf = true) : OutWf (execEvret s) :=
  issue_wf h _ fun a u hu => by grind [ActWf, StopWf, raise, stall, onStrand_mem, arrived_mem]

theorem execMfs_wf (h : s.mem.wf = true) (d : BitVec 5) (n : BitVec 1) (r : BitVec 6) : OutWf (execMfs d n r s) :=
  issue_wf h _ fun a u hu => by grind [ActWf, wrG_stop, wrG_mem]

theorem execMts_wf (h : s.mem.wf = true) (x r : BitVec 6) : OutWf (execMts x r s) :=
  issue_wf h _ fun a u hu => by grind [ActWf, StopWf, rd_stop, raise, onStrand_mem, stall, onCore_mem, arrived_mem]

theorem phaseOp_wf (h : s.mem.wf = true) (lvl : Nat) : OutWf (phaseOp lvl s) :=
  issue_wf h _ fun a u hu => by grind [ActWf, StopWf, arrived_mem, stall, onStrand_mem]

theorem execSegend_wf (h : s.mem.wf = true) (e : BitVec 3) (c : BitVec 12) : OutWf (execSegend e c s) :=
  issue_wf h _ fun a u hu => by grind [ActWf, StopWf, logStrand_wf, onStrand_mem, arrived_mem, reachStop_mem]

theorem execWaitc_wf (h : s.mem.wf = true) (d : BitVec 5) (n : BitVec 1) (x y : BitVec 6) : OutWf (execWaitc d n x y s) := by
  refine issue_wf h _ fun a u hu => ?_
  split
  · rename_i hx
    exact rd_stop hu hx
  · split
    · trivial
    · split
      · rename_i hr
        exact reach_stop hu hr
      · rename_i v r hr
        have hv := (congrArg Memory.wf (reach_mem hr)).trans hu
        grind [ActWf, rd_stop, freeD_stop, waitcRead_wf]

theorem execPark_wf (h : s.mem.wf = true) (d : BitVec 5) (n : BitVec 1) (x : BitVec 6) : OutWf (execPark d n x s) :=
  issue_wf h _ fun a u hu => by grind [ActWf, StopWf, rd_stop, raise, parkNow_wf]

theorem execNotify_wf (h : s.mem.wf = true) (x y : BitVec 6) : OutWf (execNotify x y s) :=
  issue_wf h _ fun a u hu => by grind [ActWf, StopWf, rd_stop, raise, onHart_mem]

theorem execRpop_wf (h : s.mem.wf = true) (d : BitVec 5) (n : BitVec 1) : OutWf (execRpop d n s) :=
  issue_wf h _ fun a u hu => by grind [ActWf, StopWf, freeD_stop, stall, wrG_stop, wrG_mem, onStrand_mem, arrived_mem]

theorem engIssue_wf (h : s.mem.wf = true) (q : Nat) (word : Word) (t g : Nat) (x y z : BitVec 5)
    (resolve : State → At → Nat → Nat → Nat → ResE) :
    OutWf (engIssue q word t g x y z resolve s) :=
  issue_wf h _ fun a u hu => by grind [ActWf, StopWf, rdG_stop, stall, pushEntry_mem]

theorem execGive_wf (h : s.mem.wf = true) (f : BitVec 3) : OutWf (execGive f s) :=
  issue_wf h _ fun a u hu => by grind [ActWf, StopWf, stall, giveToken_mem]

theorem execTake_wf (h : s.mem.wf = true) (f : BitVec 3) : OutWf (execTake f s) :=
  issue_wf h _ fun a u hu => by grind [ActWf, StopWf, takeToken_mem]

theorem execQdepth_wf (h : s.mem.wf = true) (d : BitVec 5) (n : BitVec 1) (q : BitVec 2) (b : BitVec 6) :
    OutWf (execQdepth d n q b s) :=
  issue_wf h _ fun a u hu => by grind [ActWf, StopWf, rd_stop, raise, wrG_stop, wrG_mem, onStrand_mem, arrived_mem]

theorem execQseq_wf (h : s.mem.wf = true) (d : BitVec 5) (n : BitVec 1) (q : BitVec 2) (b : BitVec 1) :
    OutWf (execQseq d n q b s) :=
  issue_wf h _ fun a u hu => by grind [ActWf, wrG_stop, wrG_mem]

theorem tallocOp_wf (h : s.mem.wf = true) (v : Bool) (d : BitVec 5) (nw : BitVec 1) (x y : BitVec 6) (fn : BitVec 8) :
    OutWf (tallocOp v d nw x y fn s) :=
  issue_wf h _ fun a u hu => by grind [ActWf, rd_stop, allocCheck_stop, freeD_stop, allocNow_wf]

theorem execTadd_wf (h : s.mem.wf = true) (x y : BitVec 6) : OutWf (execTadd x y s) :=
  issue_wf h _ fun a u hu => by grind [ActWf, StopWf, rd_stop, raise, handleForm_stop, sendPool_mem]

theorem execTdraw_wf (h : s.mem.wf = true) (x : BitVec 6) : OutWf (execTdraw x s) :=
  issue_wf h _ fun a u hu => by grind [ActWf, StopWf, rd_stop, raise, stall, recordTdraw_mem, sendPool_mem]

theorem execTabnd_wf (h : s.mem.wf = true) (x : BitVec 6) : OutWf (execTabnd x s) :=
  issue_wf h _ fun a u hu => by grind [ActWf, StopWf, rd_stop, raise, stall, abandon_mem]

theorem execTinfo_wf (h : s.mem.wf = true) (d : BitVec 5) (n : BitVec 1) (x : BitVec 6) : OutWf (execTinfo d n x s) :=
  issue_wf h _ fun a u hu => by grind [ActWf, StopWf, rd_stop, raise, stall, wrG_stop, wrG_mem]

theorem pubvOp_wf (h : s.mem.wf = true) (final : Bool) (p sc : BitVec 3) (x y : BitVec 6) : OutWf (pubvOp final p sc x y s) := by
  refine issue_wf h _ fun a u hu => ?_
  split
  · rename_i hx
    exact rd_stop hu hx
  · rename_i hx _
    exact rd_stop hu hx
  · split
    · exact hu
    · split
      · exact hu
      · split
        · trivial
        · rename_i v ok hp
          have hv := publish_wf hu hp
          grind [ActWf, wrP_stop, wrP_mem]

theorem execTsub_wf (h : s.mem.wf = true) (d : BitVec 5) (n : BitVec 1) (x y : BitVec 6) : OutWf (execTsub d n x y s) := by
  refine issue_wf h _ fun a u hu => ?_
  split
  · rename_i hx
    exact rd_stop hu hx
  · rename_i hx _
    exact rd_stop hu hx
  · split
    · trivial
    · split
      · trivial
      · rename_i hd _
        exact freeD_stop hu hd
      · split
        · exact hu
        · split
          · trivial
          · rename_i v i hp
            have hv := subscribe_wf hu hp
            grind [ActWf, wrG_stop, wrG_mem]

theorem execStopref_wf (h : s.mem.wf = true) (x : BitVec 6) : OutWf (execStopref x s) :=
  issue_wf h _ fun a u hu => by grind [ActWf, rd_stop, sendPool_mem]

theorem execSwait_wf (h : s.mem.wf = true) (x : BitVec 6) : OutWf (execSwait x s) :=
  issue_wf h _ fun a u hu => by grind [ActWf, StopWf, rd_stop, raise, waitOrStop_wf]

theorem execTver_wf (h : s.mem.wf = true) (d : BitVec 5) (n : BitVec 1) (x : BitVec 6) : OutWf (execTver d n x s) :=
  issue_wf h _ fun a u hu => by grind [ActWf, StopWf, rd_stop, stall, wrG_stop, wrG_mem]

theorem execFork_wf (h : s.mem.wf = true) (x y : BitVec 6) : OutWf (execFork x y s) := by
  refine issue_wf h _ fun a u hu => ?_
  split
  · rename_i hx
    exact rd_stop hu hx
  · rename_i hx _
    exact rd_stop hu hx
  · split
    · rename_i hf
      exact forkCheck_stop hf
    · exact hu
    · have : ActWf Done.s (goOnWaiting u a) := goOnWaiting_wf hu a _
      grind [ActWf, StopWf, stall, pushChild_mem, forkNoSlot_wf]

theorem execEnq_wf (h : s.mem.wf = true) (x y : BitVec 6) : OutWf (execEnq x y s) := by
  refine issue_wf h _ fun a u hu => ?_
  split
  · rename_i hx
    exact rd_stop hu hx
  · rename_i hx _
    exact rd_stop hu hx
  · split
    · rename_i hf
      exact forkCheck_stop hf
    · exact hu
    · have : ActWf Done.s (goOnWaiting u a) := goOnWaiting_wf hu a _
      grind [ActWf, StopWf, stall, pushChild_mem, waitOrStop_wf]

theorem execJoin_wf (h : s.mem.wf = true) : OutWf (execJoin s) :=
  issue_wf h _ fun a u hu => by grind [ActWf, joinWait_wf]

theorem execCard_wf (h : s.mem.wf = true) (d : BitVec 5) (n : BitVec 1) : OutWf (execCard d n s) :=
  issue_wf h _ fun a u hu => by grind [ActWf, StopWf, freeD_stop, onStrand_mem, arrived_mem, addSb_mem]

theorem execMbpost_wf (h : s.mem.wf = true) (x y : BitVec 6) : OutWf (execMbpost x y s) :=
  issue_wf h _ fun a u hu => by grind [ActWf, StopWf, rd_stop, stall, waitOrStop_wf, queuePost_mem, onCluster_mem]

theorem execMbtake_wf (h : s.mem.wf = true) (d : BitVec 5) (n : BitVec 1) (x : BitVec 6) : OutWf (execMbtake d n x s) := by
  refine issue_wf h _ fun a u hu => ?_
  split
  · rename_i hx
    exact rd_stop hu hx
  · split
    · trivial
    · split
      · trivial
      · split
        · rename_i hd
          exact freeD_stop hu hd
        · split
          · grind [ActWf, wrG_stop, wrG_mem]
          · grind [ActWf, wrG_stop, wrG_mem, engineWrite_wf, onCluster_mem]

theorem execColl_wf (h : s.mem.wf = true) (d : BitVec 5) (n : BitVec 1) (x y : BitVec 6) : OutWf (execColl d n x y s) := by
  refine issue_wf h _ fun a u hu => ?_
  split
  · rename_i hx
    exact rd_stop hu hx
  · rename_i hx _
    exact rd_stop hu hx
  · split
    · trivial
    · trivial
    · grind [ActWf, StopWf, raise, stall, freeD_stop, wrG_stop, wrG_mem, onCluster_mem]

theorem ffmaOp_wf (h : s.mem.wf = true) (fmt : Nat) (d : BitVec 5) (n : BitVec 1) (x y : BitVec 6) :
    OutWf (ffmaOp fmt d n x y s) :=
  issue_wf h _ fun a u hu => by grind [ActWf, rd_stop, rdG_stop, wrG_stop, wrG_mem]

theorem liwRefused_wf (h : s.mem.wf = true) (w : Word) (code arg : Nat) : OutWf (liwRefused w code arg s) :=
  issue_wf h _ fun a u hu => by grind [ActWf, StopWf, raise]

end Sys2Proof.Machine
end

section
/-! Canonical memory: the engine queues and the copy unit. -/

namespace Sys2Proof.Machine

theorem failEntry_wf {s : State} (h : s.mem.wf = true) (c : Nat) (e : Entry) (cause : Cause) :
    (failEntry s c e cause).mem.wf = true := by
  grind [failEntry, signalTrap_wf, putEntry_mem, restoreTaken_mem]

theorem countDraws_wf {s : State} (h : s.mem.wf = true) {a : At} {e : Entry} {t} (hx : countDraws s a e = .ok t) :
    t.mem.wf = true := by
  unfold countDraws at hx
  dsimp only at hx
  split_ifs at hx
  · exact (congrArg Memory.wf (deferDraws_mem hx)).trans h
  · refine foldl_invariant (P := fun r : Except Cause State => ∀ t, r = .ok t → t.mem.wf = true) _ ?_ ?_ t hx
    · rintro _ ⟨⟩
      exact h
    · intro r hr _ _ t ht
      split at ht
      · cases ht
      · exact poolDraw_wf (hr _ rfl) ht

/-- The state of an entry that completes, its draws counted (R149, R199). -/
theorem completeEntry_wf {s : State} (h : s.mem.wf = true) (c : Nat) (e : Entry) : (completeEntry s c e).mem.wf = true := by
  unfold completeEntry
  dsimp only
  split
  · rwa [holdEntry_mem]
  · split
    · rwa [holdEntry_mem]
    · split
      · rwa [holdEntry_mem]
      · split
        · exact failEntry_wf h ..
        · rename_i u hu
          have hd := countDraws_wf h hu
          rw [onStrand_mem, foldl_mem (fun _ _ => giveToken_mem ..), popEntry_mem]
          have hr : (match entryRecord e with
              | some (p, v) => engineWrite u 0 p v
              | none => u).mem.wf = true := by
            split
            · exact engineWrite_wf hd ..
            · exact hd
          exact wf_ite (by rw [sampleFor_mem]; exact hr) hr

theorem seqWrite_wf {s : State} (h : s.mem.wf = true) {l : Launch} {ad : Nat} {v : List Byte} {t}
    (hx : seqWrite s l ad v = some t) : t.mem.wf = true := by
  unfold seqWrite at hx
  split at hx
  · cases hx
  · cases hx
    have hf := foldl_wf (f := fun s (p : Nat × Byte) => storeN s p.1 [p.2]) (fun s p hs => storeN_wf hs ..)
    exact wf_ite (by rw [fillGranules_mem]; exact hf _ h) (hf _ h)

theorem abortDone_wf {s : State} (h : s.mem.wf = true) (l : Launch) (code : Nat) : (abortDone s l code).mem.wf = true := by
  grind [abortDone, seqWrite_wf]

theorem abortMember_wf {s : State} (h : s.mem.wf = true) (but : Option Nat) (tag k : Nat) :
    (abortMember but tag s k).mem.wf = true := by
  grind [abortMember, dropLaunch_mem, collCause_mem, abortDone_wf]

theorem tellAbort_wf {s : State} (h : s.mem.wf = true) (cl : Nat) (l : Launch) (but : Option Nat) :
    (tellAbort s cl l but).mem.wf = true :=
  foldl_wf (fun _ k hs => abortMember_wf hs ..) _ (by rwa [foldl_mem (fun _ _ => post_mem ..)])

theorem abortLaunch_wf {s : State} (h : s.mem.wf = true) (cl : Nat) (l : Launch) (c : Cause) :
    (abortLaunch s cl l c).mem.wf = true := by
  grind [abortLaunch, tellAbort_wf, dropLaunch_mem, collCause_mem, abortDone_wf]

theorem abortSilent_wf {s : State} (h : s.mem.wf = true) (cl : Nat) (l : Launch) (code : Nat) :
    (abortSilent s cl l code).mem.wf = true := by
  grind [abortSilent, tellAbort_wf, dropLaunch_mem, abortDone_wf]

theorem loseFrame_wf {s : State} (h : s.mem.wf = true) (c : Cause) : (loseFrame s c).mem.wf = true :=
  wf_ite (Memory.wf_free h ..) h

theorem launchPgin_wf {s : State} (h : s.mem.wf = true) (a : At) : (launchPgin s a).mem.wf = true := by
  unfold launchPgin
  split
  · split
    · split
      · rename_i hp
        rw [setQueue_mem, startPgin_mem hp]
        exact h
      · rw [onStrand_mem, setQueue_mem]
        exact loseFrame_wf h _
    · exact h
  · exact h

theorem pginIssued_wf (s : State) {t : State} (h : t.mem.wf = true) : (pginIssued s t).mem.wf = true := by
  unfold pginIssued
  split
  · exact wf_ite (launchPgin_wf h _) h
  · exact h

theorem holdFar_wf {s : State} (h : s.mem.wf = true) (c : Nat) (e : Entry) (va base psz : Nat) (wr : Bool) :
    (holdFar s c e va base psz wr).mem.wf = true := by
  grind [holdFar, restoreTaken_mem, putEntry_mem, autoPage_mem, signalTrap_wf, postEvent_mem]

theorem blockEntry_wf {s : State} (h : s.mem.wf = true) (c : Nat) (e : Entry) (b : Block) : (blockEntry s c e b).mem.wf = true := by
  cases b with
  | cause x => exact failEntry_wf h ..
  | miss va => rw [blockEntry, joinWalk_mem]; exact h
  | far va base psz wr => exact holdFar_wf h ..

theorem spotWrite_wf {s : State} (h : s.mem.wf = true) (key : Nat) (x : Spot × List Byte) :
    (spotWrite s key x).mem.wf = true := by
  grind [spotWrite, putPlace_wf, storeN_wf]

theorem sectorWrite_wf {s : State} (h : s.mem.wf = true) (key : Nat) (sec : Sector) (dst : List (Spot × Nat)) (v : List Byte) :
    (sectorWrite s key sec dst v).mem.wf = true := by
  rw [sectorWrite, fillWritten_mem]
  exact foldl_wf (fun _ x hs => spotWrite_wf hs ..) _ h

theorem takeGranules_mem (take : Bool) (rest : List (Place × Nat)) (l : List Nat) (r : Took) :
    (takeGranules take rest l r).s.mem = r.s.mem := by
  induction l generalizing r with
  | nil => rfl
  | cons g l ih => grind [takeGranules, clearFull_mem]

theorem sectorTake_mem (s : State) (e : Entry) (sec : Sector) : (sectorTake s e sec).s.mem = s.mem := by
  unfold sectorTake
  dsimp only
  split
  · rfl
  · exact takeGranules_mem ..

theorem runSector_wf {s : State} (h : s.mem.wf = true) (c : Nat) (e : Entry) (sec : Sector) (next : Entry → Entry) :
    (runSector s c e sec next).mem.wf = true := by
  unfold runSector
  dsimp only
  split
  · exact blockEntry_wf h ..
  · rename_i u src hsrc
    have hu := (congrArg Memory.wf (spots_mem hsrc)).trans h
    split
    · exact blockEntry_wf hu ..
    · rename_i v dst hdst
      have hv := (congrArg Memory.wf (spots_mem hdst)).trans hu
      have hw := (congrArg Memory.wf (sectorTake_mem v e sec)).trans hv
      split
      · rwa [holdEntry_mem]
      · split
        · exact failEntry_wf hw ..
        · split
          · rwa [holdEntry_mem]
          · split
            · rwa [holdEntry_mem, sendReads_mem]
            · split
              · exact failEntry_wf hw ..
              · rename_i x p _
                refine wf_ite (by rwa [holdEntry_mem, sendWrites_mem]) ?_
                rw [putEntry_mem]
                exact sectorWrite_wf (by rwa [sendWrites_mem]) ..

theorem rowSector_wf {s : State} (h : s.mem.wf = true) (c : Nat) (e : Entry) (gather : Bool) (r : Layout) (t : Place)
    (stride : Nat) (ix : Place) :
    (rowSector s c e gather r t stride ix).mem.wf = true := by
  grind [rowSector, failEntry_wf, runSector_wf]

theorem lkopSector_wf {s : State} (h : s.mem.wf = true) (c : Nat) (e : Entry) (fn : Nat) (dst src : Place)
    (scal : Option Nat) (n w : Nat) (sg flt res : Bool) :
    (lkopSector s c e fn dst src scal n w sg flt res).mem.wf = true := by
  grind [lkopSector, runSector_wf]

theorem pgoutBegin_wf {s : State} (h : s.mem.wf = true) (c : Nat) (e : Entry) (va frame : Nat) :
    (pgoutBegin s c e va frame).mem.wf = true := by
  grind [pgoutBegin, failEntry_wf, putEntry_mem, invalidatePage_mem, storeNat_wf]

theorem pgoutFail_wf {s : State} (h : s.mem.wf = true) (c : Nat) (e : Entry) (va frame : Nat) :
    (pgoutFail s c e va frame).mem.wf = true := by
  grind [pgoutFail, invalidatePage_mem, storeNat_wf, failEntry_wf, runPages_mem, releasePage_mem]

theorem pgoutSector_wf {s : State} (h : s.mem.wf = true) (c : Nat) (e : Entry) (va frame : Nat) :
    (pgoutSector s c e va frame).mem.wf = true := by
  refine wf_ite (pgoutBegin_wf h ..) (wf_ite (pgoutFail_wf h ..) ?_)
  dsimp only
  split
  · exact failEntry_wf h ..
  · rw [putEntry_mem]
    exact Memory.wf_copy h ..

theorem copyStep_wf {s : State} (h : s.mem.wf = true) (c : Nat) (e : Entry) : (copyStep s c e).mem.wf = true := by
  unfold copyStep
  dsimp only
  split
  · exact failEntry_wf h ..
  · split
    · split <;> exact runSector_wf h ..
    · exact runSector_wf h ..
    · split <;> exact runSector_wf h ..
    · exact runSector_wf h ..
    · exact rowSector_wf h ..
    · exact rowSector_wf h ..
    · exact lkopSector_wf h ..
    · refine wf_ite (runSector_wf h ..) ?_
      split
      · exact blockEntry_wf h ..
      · rename_i u x hx
        have hu := (congrArg Memory.wf (spots_mem hx)).trans h
        split
        · split
          · exact failEntry_wf hu ..
          · rw [putEntry_mem]
            exact storeNat_wf hu ..
        · exact wf_ite (by rwa [putEntry_mem, remoteSend_mem]) (by rwa [holdEntry_mem])
        · rwa [putEntry_mem]
    · exact pgoutSector_wf h ..
    · exact h

theorem pginStep_wf {s : State} (h : s.mem.wf = true) (c : Nat) (e : Entry) (va frame : Nat) :
    (pginStep s c e va frame).mem.wf = true := by
  grind [pginStep, putEntry_mem, startPgin_mem, failEntry_wf, loseFrame_wf]

end Sys2Proof.Machine
end

section
/-! Canonical memory: the vector engine, the matrix engine and the sequencers. -/

namespace Sys2Proof.Machine

theorem putPlaces_wf {s : State} (h : s.mem.wf = true) (key : Nat) (l : List (Place × List Byte)) :
    (putPlaces s key l).mem.wf = true :=
  foldl_wf (fun _ _ hs => putPlace_wf hs ..) l h

theorem rowTake_mem (later : List (Place × Nat)) (l : List (Nat × List (Place × Nat))) (r : Took) :
    (rowTake later l r).s.mem = r.s.mem := by
  induction l generalizing r with
  | nil => rfl
  | cons x l ih =>
    obtain ⟨q, l'⟩ := x
    rw [rowTake, ih]
    split
    · rfl
    · exact takeGranules_mem ..

theorem runRow_wf {s : State} (h : s.mem.wf = true) (c : Nat) (e : Entry) (j : RowJob) : (runRow s c e j).mem.wf = true := by
  have hr : (rowTake j.later j.reads ⟨s, e.prog.taken, e.prog.cleared, none⟩).s.mem.wf = true := by rwa [rowTake_mem]
  unfold runRow
  dsimp only
  split
  · rwa [holdEntry_mem]
  · split
    · exact failEntry_wf hr ..
    · split
      · exact failEntry_wf hr ..
      · rw [putEntry_mem, fillWritten_mem]
        exact putPlaces_wf hr ..

theorem searchRun_wf {s : State} (h : s.mem.wf = true) (c : Nat) (e : Entry) (d : Search) :
    (searchRun s c e d).mem.wf = true := by
  grind [searchRun, failEntry_wf, engineWrite_wf, putEntry_mem]

theorem vecStep_wf {s : State} (h : s.mem.wf = true) (c : Nat) (e : Entry) : (vecStep s c e).mem.wf = true := by
  grind [vecStep, failEntry_wf, putEntry_mem, runRow_wf, withFree_mem, onCore_mem, searchRun_wf]

theorem mgoReduce_wf {s : State} (h : s.mem.wf = true) (c : Nat) (e : Entry) (mask : Nat) :
    (mgoReduce s c e mask).mem.wf = true := by
  unfold mgoReduce
  dsimp only
  generalize hr : onRegs s c _ = u
  have hu : u.mem.wf = true := by rwa [← hr, onRegs_mem]
  have hl : (leaveStream u c mask).mem.wf = true := by rwa [leaveStream_mem]
  split
  · rwa [holdEntry_mem]
  · split
    · exact failEntry_wf hl ..
    · split
      · rwa [advanceMgo_mem]
      · split
        · exact failEntry_wf hl ..
        · split
          · exact failEntry_wf hl ..
          · split
            · exact failEntry_wf hl ..
            · rw [advanceMgo_mem, onRegs_mem]
              exact storeN_wf hu ..

theorem mgoBegin_wf {s : State} (h : s.mem.wf = true) (c : Nat) (e : Entry) (mask : Nat) :
    (mgoBegin s c e mask).mem.wf = true := by
  grind [mgoBegin, onCore_mem, putEntry_mem, leaveStream_mem, failEntry_wf, seekMgo_mem]

theorem matrixEffect_wf {s : State} (h : s.mem.wf = true) {c : Nat} {e : Entry} {t} (hx : matrixEffect s c e = .ok t) :
    t.1.mem.wf = true := by
  unfold matrixEffect at hx
  dsimp only at hx
  split at hx
  · cases hx; exact h
  · split at hx
    · cases hx
    · cases hx; exact h
  · split at hx
    · cases hx
    · cases hx; exact h
  · cases hx; exact h
  · rw [← Except.ok.inj hx, onRegs_mem]
    exact foldl_wf (fun _ _ hs => storeN_wf hs ..) _ h
  · cases hx; exact h
  · cases hx; exact h

theorem drainRun_wf {s : State} (h : s.mem.wf = true) (c : Nat) (e : Entry) (form : Nat) (dst : Option Place) (d : Drain)
    (record : Place) : (drainRun s c e form dst d record).mem.wf = true := by
  unfold drainRun
  dsimp only
  split
  · exact failEntry_wf h ..
  · rw [putEntry_mem]
    split
    · exact foldl_wf (fun _ _ hs => engineWrite_wf hs ..) _ h
    · exact h

theorem portBegin_wf {s : State} (h : s.mem.wf = true) (c : Nat) (e : Entry) (ch : Nat) (d : Drain) :
    (portBegin s c e ch d).mem.wf = true := by
  grind [portBegin, failEntry_wf, portEnd_mem, putEntry_mem]

theorem portNext_wf {s : State} (h : s.mem.wf = true) (c : Nat) (e : Entry) (ch : Nat) (d : Drain) (raw : Nat) :
    (portNext s c e ch d raw).mem.wf = true := by
  grind [portNext, portEnd_mem, putPlace_wf, putEntry_mem]

theorem portRow_wf {s : State} (h : s.mem.wf = true) (c : Nat) (e : Entry) (ch : Nat) (d : Drain) (raw : Nat) :
    (portRow s c e ch d raw).mem.wf = true := by
  unfold portRow
  dsimp only
  split
  · exact failEntry_wf h ..
  · refine wf_ite (runSector_wf h ..) (wf_ite (portNext_wf h ..) ?_)
    split
    · exact blockEntry_wf h ..
    · rename_i u loc va _ _ hx
      have hu := (congrArg Memory.wf (spots_mem hx)).trans h
      split
      · exact failEntry_wf hu ..
      · exact portNext_wf (storeNat_wf hu ..) ..
    · rename_i u va l _ _ hx
      have hu := (congrArg Memory.wf (spots_mem hx)).trans h
      exact wf_ite (portNext_wf (by rwa [remoteSend_mem]) ..) (by rwa [holdEntry_mem])
    · rename_i u l _ _ hx
      have hu := (congrArg Memory.wf (spots_mem ‹spots _ _ _ _ _ _ = .ok (u, l)›)).trans h
      exact portNext_wf hu ..

theorem portStep_wf {s : State} (h : s.mem.wf = true) (c : Nat) (e : Entry) (ch : Nat) (d : Drain) :
    (portStep s c e ch d).mem.wf = true := by
  grind [portStep, portRow_wf, portBegin_wf]

theorem matrixBegin_wf {s : State} (h : s.mem.wf = true) (c : Nat) (e : Entry) : (matrixBegin s c e).mem.wf = true := by
  unfold matrixBegin
  split
  · exact mgoBegin_wf h ..
  · exact wf_ite (portBegin_wf h ..) (drainRun_wf h ..)
  · split
    · exact failEntry_wf h ..
    · rename_i hx
      rw [putEntry_mem]
      exact matrixEffect_wf h hx

theorem beginBehind_wf {s : State} (h : s.mem.wf = true) (c i : Nat) (e : Entry) : (beginBehind s c i e).mem.wf = true := by
  unfold beginBehind
  dsimp only
  split
  · exact h
  · rename_i u f hx
    have hu : u.mem.wf = true := by
      split at hx
      · cases hx; exact h
      · exact (congrArg Memory.wf (takeEntryTokens_mem hx)).trans h
    split
    · exact signalTrap_wf (by rwa [setQueue_mem]) ..
    · rename_i hm
      rw [setQueue_mem]
      exact matrixEffect_wf hu hm

theorem matrixStep_wf {s : State} (h : s.mem.wf = true) (c : Nat) (e : Entry) : (matrixStep s c e).mem.wf = true := by
  grind [matrixStep, mgoReduce_wf, portStep_wf, matrixBegin_wf]

theorem notNow_wf {s : State} (h : s.mem.wf = true) : OutWf (notNow s) := by
  exact h

theorem stepOf_wf {s : State} (h : s.mem.wf = true) {cl : Nat} {ln : BitVec 32} {f : Launch → SeqE (Option State)}
    (hf : ∀ l t, f l = .ok (some t) → t.mem.wf = true) : OutWf (stepOf cl ln s f) := by
  unfold stepOf
  split
  · exact notNow_wf h
  · dsimp only
    split
    · exact abortLaunch_wf h ..
    · exact notNow_wf h
    · rename_i l _ t ht
      rw [OutWf]
      split at ht
      · cases ht
      · exact hf _ _ ht

theorem transfer_wf {s t : State} (h : s.mem.wf = true) {op cl : Nat} {f : StepFields} {l : Launch}
    (hx : transfer op cl f s l = .ok (some t)) : t.mem.wf = true := by
  unfold transfer at hx
  split at hx
  · cases hx
  · split at hx
    · cases hx
    · dsimp only at hx
      split at hx
      · cases hx
      · cases hx
      · split at hx
        · cases hx
        · cases hx
        · split at hx
          · cases hx
          · split at hx
            · split at hx
              · split at hx
                · cases hx
                · split at hx
                  · cases hx
                  · split at hx
                    · cases hx
                    · rename_i hw
                      cases hx
                      rw [putLaunch_mem]
                      exact seqWrite_wf h hw
              · cases hx
            · obtain ⟨u, hu, rfl⟩ := Option.map_eq_some_iff.1 (Except.ok.inj hx)
              rw [putLaunch_mem, tellMembers_mem _ hu]
              exact h

theorem takeData_wf {s : State} (h : s.mem.wf = true) {cl : Nat} {l : Launch} {peer fmt : Nat} {data : List Byte} {r : StepRun}
    {t} (hx : takeData s cl l peer fmt data r = .ok t) : t.mem.wf = true := by
  unfold takeData at hx
  split at hx
  · cases hx
  · split at hx
    · cases hx
    · split at hx
      · cases hx
      · split at hx
        · cases hx
        · rename_i hw
          have hu := seqWrite_wf h hw
          rw [← Except.ok.inj hx]
          split
          · rwa [putLaunch_mem]
          · exact hu

theorem localSend_wf {s : State} (h : s.mem.wf = true) {cl : Nat} {l : Launch} {r : StepRun} {t}
    (hx : localSend s cl l r = some t) : t.mem.wf = true := by
  unfold localSend at hx
  split at hx
  · split at hx
    · cases hx
    · split at hx
      · cases hx
      · split at hx
        · cases hx
        · split at hx
          · cases hx; exact abortLaunch_wf h ..
          · split at hx
            · cases hx; exact abortLaunch_wf h ..
            · rename_i u hu
              have hw := takeData_wf h hu
              split at hx
              · cases hx; exact hw
              · rw [← Option.some.inj hx]
                cases onRun _ _ _ with
                | none => exact hw
                | some m => rw [Option.map_some, Option.getD_some, putLaunch_mem]; exact hw
  · cases hx

theorem beginEntry_wf {s : State} (h : s.mem.wf = true) (c : Nat) (e : Entry) : (beginEntry s c e).mem.wf = true := by
  grind [beginEntry, matrixBegin_wf, putEntry_mem, failEntry_wf]

end Sys2Proof.Machine
end

section
/-! Canonical memory: the units, the timetable and the front. -/

namespace Sys2Proof.Machine

theorem failWalk_wf {s : State} (h : s.mem.wf = true) (ctx : Nat) (w : Nat × Nat) : (failWalk s ctx w).mem.wf = true := by
  grind [failWalk, onStrand_mem, failEntry_wf]

theorem failPage_wf {s : State} (h : s.mem.wf = true) (code c : Nat) (p : PageCopy) :
    (failPage code s c p).mem.wf = true := by
  grind [failPage, signalTrap_wf, putEntry_mem, setQueue_mem]

theorem giveFrame_wf {s : State} (h : s.mem.wf = true) (p : PageCopy) : (giveFrame s p).mem.wf = true := by
  grind [giveFrame, storeNat_wf, onCtx_mem]

theorem clearIf_mem (s : State) (l n : Nat) : (if s.poison.isEmpty then s else clearPoison s l n).mem = s.mem :=
  mem_ite rfl (clearPoison_mem ..)

theorem failCopy_wf {s : State} (h : s.mem.wf = true) (p : PageCopy) (code : Nat) : (failCopy s p code).mem.wf = true := by
  refine foldl_wf (fun _ x hs => failPage_wf hs ..) _ (giveFrame_wf ?_ _)
  rw [dropPages_mem]
  exact Memory.wf_free h ..

theorem bringIn_wf {s : State} (h : s.mem.wf = true) (p : PageCopy) (leaf : Nat) : (bringIn s p leaf).mem.wf = true := by
  unfold bringIn
  dsimp only
  rw [dropPages_mem, releasePage_mem, invalidatePage_mem]
  refine storeNat_wf (Memory.wf_copy ?_ ..) ..
  rwa [clearIf_mem]

theorem periodStrand_wf {s : State} (h : s.mem.wf = true) (a : At) : (periodStrand s a).mem.wf = true := by
  grind [periodStrand, logStrand_wf, onStrand_mem]

theorem expireStrand_wf {s : State} (h : s.mem.wf = true) (a : At) (c : Cause) : (expireStrand s a c).mem.wf = true := by
  grind [expireStrand, unpark_mem, withdrawAt_mem, signalTrap_wf, onStrand_mem]

theorem expireEntry_wf {s : State} (h : s.mem.wf = true) (c : Nat) (e : Entry) (cause : Cause) :
    (expireEntry s c e cause).mem.wf = true := by
  grind [expireEntry, leaveStream_mem, putEntry_mem, restoreTaken_mem, signalTrap_wf]

theorem takeSource_wf {s : State} (h : s.mem.wf = true) (a : At) (w : Source) : (takeSource s a w).mem.wf = true := by
  cases w with
  | rerun i k => rw [takeSource, startRerun_mem]; exact h
  | frame i f => grind [takeSource, resumeFrame_mem, onCore_mem]
  | card => rw [takeSource, startCard_mem]; exact h
  | entry e => exact startEntry_wf (by rwa [dequeTake_mem, onCore_mem]) ..

theorem frontPageIn_wf {s : State} (h : s.mem.wf = true) {ctx va : Nat} {t} (hx : frontPageIn s ctx va = some t) :
    t.mem.wf = true := by
  unfold frontPageIn at hx
  split at hx
  · cases hx
  · split at hx
    · cases hx; exact h
    · split at hx
      · cases hx
      · split at hx
        · cases hx; exact bringIn_wf h ..
        · obtain ⟨⟨u, f⟩, hu, rfl⟩ := Option.map_eq_some_iff.1 hx
          exact bringIn_wf ((congrArg Memory.wf (takeFrame_mem hu)).trans h) ..

theorem frontLocs_wf {ctx : Nat} {wr : Bool} {l : List (Nat × Nat)} {s : State} (h : s.mem.wf = true) {t}
    (hx : frontLocs ctx wr l s = some t) : t.1.mem.wf = true := by
  induction l generalizing s t with
  | nil => cases hx; exact h
  | cons p l ih =>
    obtain ⟨va, n⟩ := p
    rw [frontLocs] at hx
    split at hx
    · cases hx
    · split at hx
      · cases hx
      · obtain ⟨r, hr, rfl⟩ := Option.map_eq_some_iff.1 hx
        exact (ih h hr :)
      · split at hx
        · cases hx
        · rename_i hu
          split at hx
          · obtain ⟨r, hr, rfl⟩ := Option.map_eq_some_iff.1 hx
            exact (ih (frontPageIn_wf h hu) hr :)
          · cases hx

theorem frontRead_wf {s : State} (h : s.mem.wf = true) {ctx va n : Nat} {t} (hx : frontRead s ctx va n = some t) :
    t.1.mem.wf = true := by
  obtain ⟨r, hr, rfl⟩ := Option.map_eq_some_iff.1 hx
  exact frontLocs_wf h hr

theorem writeLocs_wf {l : List (Nat × Nat)} {s : State} (h : s.mem.wf = true) (v : List Byte) :
    (writeLocs l v s).mem.wf = true := by
  induction l generalizing s v with
  | nil => exact h
  | cons p l ih => exact ih (storeN_wf h ..) _

theorem frontWrite_wf {s : State} (h : s.mem.wf = true) {ctx va : Nat} {v : List Byte} {t} (hx : frontWrite s ctx va v = some t) :
    t.mem.wf = true := by
  obtain ⟨r, hr, rfl⟩ := Option.map_eq_some_iff.1 hx
  exact writeLocs_wf (frontLocs_wf h hr) v

theorem refuseSlot_wf {s : State} (h : s.mem.wf = true) (slot code : Nat) : (refuseSlot s slot code).mem.wf = true := by
  grind [refuseSlot, onSlot_mem, logPlain_wf]

/-- A write of the front that is done where its address translates. -/
theorem frontWrite_getD_wf {s : State} (h : s.mem.wf = true) (ctx va : Nat) (v : List Byte) :
    ((frontWrite s ctx va v).getD s).mem.wf = true := by
  cases hw : frontWrite s ctx va v with
  | none => exact h
  | some t => exact frontWrite_wf h hw

theorem writeDone_wf {s : State} (h : s.mem.wf = true) (ctx record id status : Nat) :
    (writeDone s ctx record id status).mem.wf = true :=
  wf_ite h (frontWrite_getD_wf h ..)

theorem putResult_wf {s : State} (h : s.mem.wf = true) (i v : Nat) : (putResult s i v).mem.wf = true := by
  grind [putResult, storeNat_wf]

theorem failJobNode_wf {s : State} (h : s.mem.wf = true) (ctx card : Nat) (raw : Option Nat) (node replay : Option (Nat × Nat))
    (code a1 : Nat) : (failJobNode s ctx card raw node replay code a1).mem.wf = true := by
  unfold failJobNode
  have hl := logPlain_wf h code 2 (nodeName node card) a1
  cases raw <;> cases node <;> cases replay <;> grind [writeDone_wf, putResult_wf, markNode_mem, onCtx_mem]

theorem readyCard_wf {s : State} (h : s.mem.wf = true) (ctx card v : Nat) (node : Option (Nat × Nat)) (replay : Option
    (Nat × Nat)) :
    (readyCard s ctx card v node replay).mem.wf = true := by
  grind [readyCard, failJobNode_wf, markNode_mem]

theorem readyNode_wf {s : State} (h : s.mem.wf = true) (ctx card : Nat) (node : Option (Nat × Nat)) :
    (readyNode s ctx card node).mem.wf = true := by
  refine wf_ite (failJobNode_wf h ..) ?_
  split
  · exact failJobNode_wf h ..
  · rename_i hr
    exact readyCard_wf (frontRead_wf h hr) ..

theorem stepNode_wf {s : State} (h : s.mem.wf = true) (n i : Nat) : (stepNode n s i).mem.wf = true := by
  grind [stepNode, markNode_mem, logPlain_wf, readyNode_wf]

theorem applyPatch_wf {s : State} (h : s.mem.wf = true) (ctx : Nat) (snap : Tab Nat) (v : Nat) :
    (applyPatch ctx snap s v).mem.wf = true :=
  frontWrite_getD_wf h ..

theorem applyPatches_wf {s : State} (h : s.mem.wf = true) {k : Slot} {r : Replay} {t} (hx : applyPatches s k r = .ok t) :
    t.mem.wf = true := by
  unfold applyPatches at hx
  split at hx
  · cases hx
  · split at hx
    · cases hx
    · cases hx
      exact foldl_wf (fun _ _ hs => applyPatch_wf hs ..) _ h

theorem beginReplay_wf {s : State} (h : s.mem.wf = true) (n : Nat) : (beginReplay s n).mem.wf = true := by
  unfold beginReplay
  dsimp only
  rw [onReplay_mem]
  refine foldl_invariant (P := fun x : State × List (Option Nat) => x.1.mem.wf = true) _ h fun x hx i _ => ?_
  split
  · rename_i hr
    exact frontRead_wf hx hr
  · exact hx

theorem runReplay_wf {f : Nat} {s : State} (h : s.mem.wf = true) (n : Nat) : (runReplay n f s).mem.wf = true := by
  induction f generalizing s with
  | zero => exact h
  | succ f ih =>
    rw [runReplay]
    dsimp only
    split
    · exact h
    · split
      · refine wf_ite h ?_
        split
        · exact ih (by rw [endReplay_mem]; exact logPlain_wf h ..)
        · rename_i hp
          exact ih (beginReplay_wf (applyPatches_wf h hp) n)
      · have hs : (if s.fatal.isSome then s else (List.range (slotAt s n).nodes).foldl (stepNode n) s).mem.wf = true :=
          wf_ite h (foldl_wf (fun _ i hs => stepNode_wf hs n i) _ h)
        exact wf_ite (ih (by rwa [endReplay_mem])) hs

theorem completeNode_wf {s : State} (h : s.mem.wf = true) (node : Nat × Nat) (failed : Bool) :
    (completeNode s node failed).mem.wf = true := by
  unfold completeNode
  split
  · exact h
  · exact runReplay_wf (by rwa [markNode_mem]) _

theorem streamCopy_wf {f : Nat} {s : State} (h : s.mem.wf = true) (ctx src dst len : Nat) :
    (streamCopy ctx f src dst len s).1.mem.wf = true := by
  induction f generalizing s src dst len with
  | zero => exact h
  | succ f ih =>
    rw [streamCopy]
    split
    · exact h
    · dsimp only
      split
      · exact h
      · rename_i hr
        have hu := frontLocs_wf h hr
        split
        · exact hu
        · split
          · exact hu
          · rename_i hw
            have hv := frontLocs_wf hu hw
            split
            · exact hv
            · exact ih (writeLocs_wf hv _) ..

theorem captureIssue_wf {s : State} (h : s.mem.wf = true) (j : Nat) : (captureIssue s j).mem.wf = true := by
  grind [captureIssue, storeN_wf, onJob_mem]

theorem captureEnd_wf {s : State} (h : s.mem.wf = true) (b : Job) (status : Nat) : (captureEnd s b status).mem.wf = true := by
  grind [captureEnd, storeN_wf, storeNat_wf]

theorem replayEnd_wf {s : State} (h : s.mem.wf = true) (b : Job) (status : Nat) : (replayEnd s b status).mem.wf = true := by
  grind [replayEnd, putResult_wf]

theorem reclaimCluster_wf {s : State} (h : s.mem.wf = true) (j code cl : Nat) : (reclaimCluster j code s cl).mem.wf = true :=
  foldl_wf (fun _ l hs => abortSilent_wf hs ..) _ (by rwa [onCluster_mem, reclaim_mem, reclaim_mem])

theorem reclaimJob_wf {s : State} (h : s.mem.wf = true) (j code : Nat) : (reclaimJob s j code).mem.wf = true :=
  foldl_wf (fun _ cl hs => reclaimCluster_wf hs ..) _ (by rwa [foldl_mem (fun _ _ => reclaimUnit_mem ..)])

theorem finishJob_wf {s : State} (h : s.mem.wf = true) (j : Nat) : (finishJob s j).mem.wf = true := by
  grind [finishJob, reclaimJob_wf, releaseJob_mem, replayEnd_wf, captureEnd_wf, writeDone_wf, onJob_mem,
    releaseVictims_mem, completeNode_wf, onCtx_mem, finishReset_mem]

theorem killStrand_wf {s : State} (h : s.mem.wf = true) (a : At) : (killStrand s a).mem.wf = true := by
  grind [killStrand, onStrand_mem, withdrawTokens_mem, dropTurn_mem, abortTask_wf]

theorem failSave_wf {s : State} (h : s.mem.wf = true) (job core code : Nat) : (failSave s job core code).mem.wf = true := by
  grind [failSave, onCore_mem, killJob_mem, logErrorJob_wf]

theorem saveBank_wf {s : State} (h : s.mem.wf = true) (c area n : Nat) : (saveBank c area s n).mem.wf = true :=
  storeN_wf (Memory.wf_copy (by rwa [clearIf_mem]) ..) ..

theorem writeFrames_wf {s : State} (h : s.mem.wf = true) (c area : Nat) (xs : List Nat) (first : Bool) (banks : List Nat) :
    (writeFrames s c area xs first banks).mem.wf = true := by
  have hf := foldl_wf (f := fun s x => writeUndefined s (area + 0x110000 + 0x10000 * x) 0x10000)
    (fun _ _ hs => writeUndefined_wf hs ..) xs h
  exact wf_ite (foldl_wf (fun _ n hs => saveBank_wf hs c area n) _ (writeUndefined_wf hf ..)) hf

theorem restoreBank_wf {s : State} (h : s.mem.wf = true) (c area n : Nat) : (restoreBank c area s n).mem.wf = true :=
  Memory.wf_copy (by rwa [clearIf_mem]) ..

theorem restoreRegs_wf {s : State} (h : s.mem.wf = true) (c ctx : Nat) : (restoreRegs s c ctx).mem.wf = true := by
  unfold restoreRegs
  split
  · exact h
  · dsimp only
    rw [onCore_mem]
    refine foldl_wf (fun _ n hs => restoreBank_wf hs ..) _ ?_
    split
    · exact storeN_wf (by rwa [onCore_mem]) ..
    · exact h

theorem restoreOn_wf {s : State} (h : s.mem.wf = true) (j c : Nat) : (restoreOn j s c).mem.wf = true := by
  have hr := restoreRegs_wf h c (jobAt s j).ctx
  unfold restoreOn
  dsimp only
  split
  · exact hr
  · rw [onCore_mem, wakeDie_mem, foldl_mem (fun _ _ => restoreStrand_mem ..)]
    exact hr

end Sys2Proof.Machine
end

section
/-! Canonical memory: the events of the sequencers, the units, the timetable and the front. -/

namespace Sys2Proof.Machine

theorem execCsend_wf {s : State} (h : s.mem.wf = true) (cl : Nat) (ln : BitVec 32) (f : StepFields) :
    OutWf (execCsend cl ln f s) := by
  grind [execCsend, OutWf, notNow, stepOf_wf, transfer_wf]

theorem execCrecv_wf {s : State} (h : s.mem.wf = true) (cl : Nat) (ln : BitVec 32) (f : StepFields) :
    OutWf (execCrecv cl ln f s) := by
  grind [execCrecv, OutWf, notNow, stepOf_wf, transfer_wf]

theorem execCrrs_wf {s : State} (h : s.mem.wf = true) (cl : Nat) (ln : BitVec 32) (f : StepFields) :
    OutWf (execCrrs cl ln f s) := by
  grind [execCrrs, OutWf, notNow, stepOf_wf, transfer_wf]

theorem execCcopy_wf {s : State} (h : s.mem.wf = true) (cl : Nat) (ln : BitVec 32) (f : StepFields) :
    OutWf (execCcopy cl ln f s) := by
  grind [execCcopy, OutWf, notNow, stepOf_wf, transfer_wf]

theorem execCwait_wf {s : State} (h : s.mem.wf = true) (cl : Nat) (ln : BitVec 32) (w : BitVec 1) :
    OutWf (execCwait cl ln w s) := by
  grind [execCwait, OutWf, notNow, stepOf_wf, putLaunch_mem]

theorem execCloop_wf {s : State} (h : s.mem.wf = true) (cl : Nat) (ln : BitVec 32) (k : BitVec 2) (rel : BitVec 1)
    (v : BitVec 21) (len : BitVec 16) :
    OutWf (execCloop cl ln k rel v len s) := by
  grind [execCloop, OutWf, notNow, stepOf_wf, putLaunch_mem]

theorem execCbar_wf {s : State} (h : s.mem.wf = true) (cl : Nat) (ln : BitVec 32) : OutWf (execCbar cl ln s) := by
  refine stepOf_wf h fun l t ht => ?_
  split at ht
  · cases ht
  · obtain ⟨u, hu, rfl⟩ := Option.map_eq_some_iff.1 (Except.ok.inj ht)
    rw [putLaunch_mem, tellMembers_mem _ hu]
    exact h

theorem execCend_wf {s : State} (h : s.mem.wf = true) (cl : Nat) (ln : BitVec 32) : OutWf (execCend cl ln s) := by
  grind [execCend, OutWf, notNow, stepOf_wf, seqWrite_wf, dropLaunch_mem, passBars_mem]

theorem execCollReadyArrive_wf {s : State} (h : s.mem.wf = true) (cl : Nat) (ln : BitVec 32) (peer : Nat) :
    OutWf (execCollReadyArrive cl ln peer s) := by
  grind [execCollReadyArrive, OutWf, notNow, arrived_mem, putLaunch_mem]

theorem execCollDataArrive_wf {s : State} (h : s.mem.wf = true) (cl : Nat) (ln : BitVec 32) (peer : Nat) (fmt : BitVec 8)
    (data : List (BitVec 8)) : OutWf (execCollDataArrive cl ln peer fmt data s) := by
  unfold execCollDataArrive
  split
  · exact h
  · split
    · rename_i ha
      have hu := (congrArg Memory.wf (arrived_mem ha)).trans h
      split
      · exact abortLaunch_wf hu ..
      · rename_i ht
        exact takeData_wf hu ht
    · exact h

theorem execCollTransferFinish_wf {s : State} (h : s.mem.wf = true) (cl : Nat) (ln : BitVec 32) (step : Nat) (ack : BitVec 1) :
    OutWf (execCollTransferFinish cl ln step ack s) := by
  unfold execCollTransferFinish
  split
  · exact h
  · dsimp only
    split
    · split
      · rename_i ha
        rw [OutWf, putLaunch_mem]
        split_ifs at ha
        · cases ha; exact h
        · exact (congrArg Memory.wf (arrived_mem ha)).trans h
      · exact h
    · exact h

theorem execCbarMessage_wf {s : State} (h : s.mem.wf = true) (cl : Nat) (ln : BitVec 32) (peer : Nat) :
    OutWf (execCbarMessage cl ln peer s) := by
  grind [execCbarMessage, OutWf, notNow, arrived_mem, putLaunch_mem]

theorem execCollAbortMessage_wf {s : State} (h : s.mem.wf = true) (cl : Nat) (tag : BitVec 32) :
    OutWf (execCollAbortMessage cl tag s) := by
  grind [execCollAbortMessage, OutWf, notNow, abortLaunch_wf]

theorem execCollTimeout_wf {s : State} (h : s.mem.wf = true) (cl : Nat) (ln : BitVec 32) (kind : BitVec 2) :
    OutWf (execCollTimeout cl ln kind s) := by
  grind [execCollTimeout, OutWf, notNow, abortLaunch_wf]

theorem entryStep_wf {s u : State} (h : s.mem.wf = true) (hu : u.mem.wf = true) (c : Nat) (e : Entry) :
    OutWf (entryStep s c e u) := by
  unfold entryStep
  split
  · exact h
  · exact hu

theorem execEngineEntryBegin_wf {s : State} (h : s.mem.wf = true) (core : Nat) (q : BitVec 2) :
    OutWf (execEngineEntryBegin core q s) := by
  unfold execEngineEntryBegin
  split
  · exact h
  · split
    · split
      · split
        · exact beginBehind_wf h ..
        · exact h
      · exact h
    · split
      · exact h
      · split
        · exact entryStep_wf h (by rwa [holdEntry_mem]) ..
        · rename_i ht
          exact beginEntry_wf ((congrArg Memory.wf (takeEntryTokens_mem ht)).trans h) ..

theorem execCopySector_wf {s : State} (h : s.mem.wf = true) (core : Nat) (side : BitVec 1) :
    OutWf (execCopySector core side s) := by
  unfold execCopySector
  split
  · exact h
  · split
    · exact h
    · refine entryStep_wf h ?_ ..
      split
      · exact pginStep_wf h ..
      · exact copyStep_wf h ..

theorem execVectorRow_wf {s : State} (h : s.mem.wf = true) (core : Nat) : OutWf (execVectorRow core s) := by
  grind [execVectorRow, OutWf, notNow, entryStep_wf, vecStep_wf]

theorem execReductionRetire_wf {s : State} (h : s.mem.wf = true) (core : Nat) : OutWf (execReductionRetire core s) := by
  grind [execReductionRetire, OutWf, notNow, entryStep_wf, matrixStep_wf]

theorem execEngineEntryComplete_wf {s : State} (h : s.mem.wf = true) (core : Nat) (q : BitVec 2) :
    OutWf (execEngineEntryComplete core q s) := by
  grind [execEngineEntryComplete, OutWf, notNow, entryStep_wf, completeEntry_wf]

theorem execPageWalkComplete_wf {s : State} (h : s.mem.wf = true) (die : BitVec 3) : OutWf (execPageWalkComplete die s) := by
  unfold execPageWalkComplete
  dsimp only
  split
  · exact h
  · split
    · exact foldl_wf (fun _ _ hs => failWalk_wf hs ..) _ (by rwa [sampleFor_mem, onDie_mem])
    · rwa [OutWf, onDie_mem, sampleFor_mem, onDie_mem]

theorem execPageCopyComplete_wf {s : State} (h : s.mem.wf = true) (core i : Nat) (bad : BitVec 2) :
    OutWf (execPageCopyComplete core i bad s) := by
  unfold execPageCopyComplete
  split
  · exact h
  · split
    · exact h
    · dsimp only
      split_ifs
      · rwa [OutWf, dropPages_mem, releasePage_mem]
      · exact failCopy_wf h ..
      · exact failCopy_wf h ..
      · exact bringIn_wf h ..

theorem execPoolUnitCycle_wf {s : State} (h : s.mem.wf = true) (unit : Nat) : OutWf (execPoolUnitCycle unit s) := by
  unfold execPoolUnitCycle
  split
  · exact h
  · rw [OutWf, foldl_mem (fun _ _ => retryRuns_mem ..)]
    exact unitCycle_wf h _

theorem execScoreboardReturn_wf {s : State} (h : s.mem.wf = true) (core sx : Nat) : OutWf (execScoreboardReturn core sx s) := by
  grind [execScoreboardReturn, OutWf, notNow, onStrand_mem]

theorem execPeriodStart_wf {s : State} (h : s.mem.wf = true) (core : Nat) : OutWf (execPeriodStart core s) := by
  grind [execPeriodStart, OutWf, notNow, onCore_mem, periodStrand_wf]

theorem execStrandChoice_wf {s : State} (h : s.mem.wf = true) (core : Nat) : OutWf (execStrandChoice core s) := by
  grind [execStrandChoice, OutWf, notNow, onCore_mem, onStrand_mem]

theorem execEventDelivery_wf {s : State} (h : s.mem.wf = true) (core sx : Nat) : OutWf (execEventDelivery core sx s) := by
  grind [execEventDelivery, OutWf, notNow, signalTrap_wf, onStrand_mem, unpark_mem]

theorem execWaitExpiry_wf {s : State} (h : s.mem.wf = true) (core who : Nat) : OutWf (execWaitExpiry core who s) := by
  grind [execWaitExpiry, OutWf, notNow, expireStrand_wf, expireEntry_wf]

theorem execAsyncPoolCause_wf {s : State} (h : s.mem.wf = true) (core sx : Nat) : OutWf (execAsyncPoolCause core sx s) := by
  grind [execAsyncPoolCause, OutWf, notNow, signalTrap_wf, onStrand_mem]

theorem execTaskStart_wf {s : State} (h : s.mem.wf = true) (core sx : Nat) : OutWf (execTaskStart core sx s) := by
  grind [execTaskStart, OutWf, notNow, takeSource_wf]

theorem execStealRequest_wf {s : State} (h : s.mem.wf = true) (core sx : Nat) : OutWf (execStealRequest core sx s) := by
  grind [execStealRequest, OutWf, notNow, onCore_mem]

theorem execStealResult_wf {s : State} (h : s.mem.wf = true) (core sx : Nat) : OutWf (execStealResult core sx s) := by
  grind [execStealResult, OutWf, notNow, fencedSteal_mem, startEntry_wf, onCore_mem, dequeTake_mem, putSteal_mem]

theorem execStealRetry_wf {s : State} (h : s.mem.wf = true) (core sx : Nat) : OutWf (execStealRetry core sx s) := by
  grind [execStealRetry, OutWf, notNow, putSteal_mem]

theorem execSettleExamine_wf {s : State} (h : s.mem.wf = true) (job set : Nat) : OutWf (execSettleExamine job set s) := by
  unfold execSettleExamine
  split
  · exact h
  · rw [OutWf, foldl_mem (fun _ _ => onStrand_mem ..)]
    exact h

theorem execSubscriberFireTimeout_wf {s : State} (h : s.mem.wf = true) (head : BitVec 64) (sub : Nat) :
    OutWf (execSubscriberFireTimeout head sub s) := by
  grind [execSubscriberFireTimeout, OutWf, notNow, putHead_wf, onTasks_mem, cancelDraw_mem, settleHead_mem]

theorem execGraphParameterWrite_wf {s : State} (h : s.mem.wf = true) (slot : BitVec 4) (k : BitVec 8) (v : BitVec 64) :
    OutWf (execGraphParameterWrite slot k v s) := by
  grind [execGraphParameterWrite, OutWf, notNow, onSlot_mem]

theorem execGraphSlotConfigWrite_wf {s : State} (h : s.mem.wf = true) (slot : BitVec 4) (reg : BitVec 2) (v : BitVec 64) :
    OutWf (execGraphSlotConfigWrite slot reg v s) := by
  grind [execGraphSlotConfigWrite, OutWf, notNow, refuseSlot_wf, onSlot_mem]

theorem execGstart_wf {s : State} (h : s.mem.wf = true) (slot : BitVec 4) (bank : BitVec 1) : OutWf (execGstart slot bank s) := by
  grind [execGstart, OutWf, notNow, refuseSlot_wf, onSlot_mem, runReplay_wf]

theorem execLaunch_wf {s : State} (h : s.mem.wf = true) (ctx : BitVec 4) (card : BitVec 52) : OutWf (execLaunch ctx card s) := by
  unfold execLaunch
  dsimp only
  split
  · exact logPlain_wf h ..
  · split
    · exact logPlain_wf h ..
    · exact readyNode_wf (by rwa [onCtx_mem]) ..

theorem execStreamNodeStart_wf {s : State} (h : s.mem.wf = true) : OutWf (execStreamNodeStart s) := by
  grind [execStreamNodeStart, OutWf, notNow, wakeForAccess_mem]

theorem execStreamNodeComplete_wf {s : State} (h : s.mem.wf = true) (i : Nat) : OutWf (execStreamNodeComplete i s) := by
  grind [execStreamNodeComplete, OutWf, notNow, wakeForAccess_mem, streamCopy_wf, logPlain_wf, completeNode_wf]

theorem execReplay_wf {s : State} (h : s.mem.wf = true) (v : BitVec 64) : OutWf (execReplay v s) := by
  unfold execReplay
  dsimp only
  split
  · exact h
  · split
    · exact putResult_wf h ..
    · split
      · exact logPlain_wf h ..
      · split
        · exact logPlain_wf h ..
        · exact readyCard_wf (by rw [onCtx_mem]; exact putResult_wf h ..) ..

theorem execJobEnd_wf {s : State} (h : s.mem.wf = true) (job : Nat) : OutWf (execJobEnd job s) := by
  unfold execJobEnd
  dsimp only
  split
  · exact h
  · split
    · split
      · exact h
      · refine finishJob_wf ?_ job
        rw [dropSaved_mem]
        exact foldl_wf (fun _ _ hs => killStrand_wf hs _) _ h
    · split
      · exact finishJob_wf h job
      · exact h

theorem execJend_wf {s : State} (h : s.mem.wf = true) (ctx : BitVec 4) (jobid : BitVec 32) : OutWf (execJend ctx jobid s) := by
  rw [execJend, OutWf, foldl_mem (fun _ _ => killJob_mem ..)]
  exact h

theorem execCrst_wf {s : State} (h : s.mem.wf = true) (ctx : BitVec 4) : OutWf (execCrst ctx s) := by
  grind [execCrst, OutWf, notNow, resetContext_mem]

theorem execVfFlr_wf {s : State} (h : s.mem.wf = true) (vf : BitVec 5) : OutWf (execVfFlr vf s) := by
  grind [execVfFlr, OutWf, notNow, resetContext_mem]

theorem execVirtualFunctionEnable_wf {s : State} (h : s.mem.wf = true) (vf : BitVec 5) (on : BitVec 1) :
    OutWf (execVirtualFunctionEnable vf on s) := by
  grind [execVirtualFunctionEnable, OutWf, notNow, onCtx_mem]

theorem execCardServe_wf {s : State} (h : s.mem.wf = true) : OutWf (execCardServe s) := by
  grind [execCardServe, OutWf, notNow, onJob_mem, onStrand_mem]

theorem execJobIssue_wf {s : State} (h : s.mem.wf = true) (job : Nat) : OutWf (execJobIssue job s) := by
  unfold execJobIssue
  dsimp only
  split
  · exact h
  · split
    · have hf := failJobNode_wf (s := onJob s job (fun b => { b with phase := 4 })) (by rwa [onJob_mem])
      rw [OutWf]
      split
      · exact completeNode_wf (hf ..) ..
      · exact hf ..
    · split
      · rw [OutWf, onJob_mem]
        exact logPlain_wf h ..
      · split
        · exact h
        · refine captureIssue_wf ?_ _
          rw [foldl_mem (fun _ _ => placeJob_mem ..), wakePackage_mem]
          exact h

theorem execClass0Preempt_wf {s : State} (h : s.mem.wf = true) (job : Nat) : OutWf (execClass0Preempt job s) := by
  unfold execClass0Preempt
  dsimp only
  split
  · exact h
  · split
    · exact h
    · split
      · exact h
      · rw [OutWf, foldl_mem (fun _ _ => onJob_mem ..)]
        exact h

theorem execPreemptPointLate_wf {s : State} (h : s.mem.wf = true) (core job : Nat) : OutWf (execPreemptPointLate core job s) := by
  grind [execPreemptPointLate, OutWf, notNow, onJob_mem, logPlain_wf]

theorem execContextSave_wf {s : State} (h : s.mem.wf = true) (core job : Nat) : OutWf (execContextSave core job s) := by
  grind [execContextSave, OutWf, notNow, failSave_wf, onJob_mem]

theorem execSaveComplete_wf {s : State} (h : s.mem.wf = true) (core job : Nat) : OutWf (execSaveComplete core job s) := by
  unfold execSaveComplete
  dsimp only
  split
  · exact h
  · rw [OutWf, releaseVictims_mem, onJob_mem]
    have hs : ((heldOn s job core).foldl (saveContext core) (s, [])).1.mem.wf = true := by
      rwa [foldl_fst_mem (saveContext_mem core)]
    have hf := fun xs first banks => writeFrames_wf hs core (saveArea
      ((heldOn s job core).foldl (saveContext core) (s, [])).1 (jobAt s job).ctx core) xs first banks
    exact wf_ite (storeN_wf (by rw [onCore_mem]; exact hf ..) ..) (by rw [onCore_mem]; exact hf ..)

theorem execContextRestore_wf {s : State} (h : s.mem.wf = true) (job : Nat) : OutWf (execContextRestore job s) := by
  unfold execContextRestore
  dsimp only
  split
  · exact h
  · split
    · exact failSave_wf h ..
    · exact foldl_wf (fun _ _ hs => restoreOn_wf hs ..) _ (by rwa [wakePackage_mem, onJob_mem])

end Sys2Proof.Machine
end

section
/-! Canonical memory: the harts, the host, the package and the spans. -/

namespace Sys2Proof.Machine

theorem execWallWrite_wf {s : State} (h : s.mem.wf = true) (w : BitVec 6) (half : BitVec 1) (v : BitVec 64) :
    OutWf (execWallWrite w half v s) := by
  grind [execWallWrite, OutWf, notNow, putWall_mem]

theorem execTrun_wf {s : State} (h : s.mem.wf = true) (m : BitVec 32) : OutWf (execTrun m s) := by
  grind [execTrun, OutWf, notNow, runHarts_mem]

theorem execThold_wf {s : State} (h : s.mem.wf = true) (m : BitVec 32) : OutWf (execThold m s) := by
  grind [execThold, OutWf, notNow, holdHarts_mem]

theorem orSame_wf {s : State} (h : s.mem.wf = true) {r : Host.Outcome State Fault Refusal} (hr : OutWf r) :
    (orSame s r).mem.wf = true := by
  cases r with
  | next t => exact hr
  | fault _ => exact h
  | refused _ => exact h

theorem reachWindow_wf {s : State} (h : s.mem.wf = true) (k : Nat) (x : HartAccess) : (reachWindow s k x).mem.wf = true := by
  have e : reachWindow = reachWindow := rfl
  conv_rhs at e => delta reachWindow
  obtain ⟨f, hf⟩ : ∃ f, f = wallFor := ⟨_, rfl⟩
  rw [← hf] at e
  rw [e]
  dsimp only
  cases f s k x.addr x.n with
  | none => exact (congrArg Memory.wf (refuseHart_mem ..)).trans h
  | some w =>
    cases hs : wakeForAccess s with
    | none => exact h
    | some u =>
      have hu := (congrArg Memory.wf (wakeForAccess_mem hs)).trans h
      exact wf_ite (storeNat_wf hu ..) (wf_ite (storeNat_wf (by rwa [onHart_mem]) ..) (by rwa [onHart_mem]))

theorem sandboxAccess_wf {s : State} (h : s.mem.wf = true) (k : Nat) (x : HartAccess) :
    (sandboxAccess s k x).mem.wf = true := by
  have e : sandboxAccess = sandboxAccess := rfl
  conv_rhs at e => delta sandboxAccess
  obtain ⟨f, hf⟩ : ∃ f, f = wallFor := ⟨_, rfl⟩
  rw [← hf] at e
  rw [e]
  dsimp only
  cases f s k x.addr x.n with
  | none => exact (congrArg Memory.wf (refuseHart_mem ..)).trans h
  | some w => exact wf_ite (by rwa [refuseHart_mem]) (wf_ite (by rwa [onHart_mem]) (reachWindow_wf h ..))

theorem execToolSandboxAccess_wf {s : State} (h : s.mem.wf = true) (hart : BitVec 5) (kind : BitVec 2) (addr : BitVec 36)
    (size : BitVec 2) (v : BitVec 64) :
    OutWf (execToolSandboxAccess hart kind addr size v s) := by
  grind [execToolSandboxAccess, OutWf, notNow, sandboxAccess_wf]

theorem execToolNotifyStore_wf {s : State} (h : s.mem.wf = true) (hart : BitVec 5) (n : BitVec 12) (v : BitVec 64) :
    OutWf (execToolNotifyStore hart n v s) := by
  grind [execToolNotifyStore, OutWf, notNow, notifyStore_mem]

theorem execDoorbellClear_wf {s : State} (h : s.mem.wf = true) (hart : BitVec 5) (v : BitVec 64) :
    OutWf (execDoorbellClear hart v s) := by
  grind [execDoorbellClear, OutWf, notNow, onHart_mem]

theorem execToolTimerInterrupt_wf {s : State} (h : s.mem.wf = true) (hart : BitVec 5) :
    OutWf (execToolTimerInterrupt hart s) := by
  grind [execToolTimerInterrupt, OutWf, notNow, onHart_mem]

theorem physAccess_wf {s : State} (hs : s.mem.wf = true) (h kind : Nat) (addr size : Nat) (v fn : Nat) :
    (physAccess s h kind addr size v fn).mem.wf = true := by
  grind [physAccess, sandboxAccess_wf, refuseHart_mem, onHart_mem, toolStore_mem]

theorem toolAccess_wf {s : State} (hs : s.mem.wf = true) (h kind : Nat) (va size : Nat) (v fn : Nat) :
    (toolAccess s h kind va size v fn).mem.wf = true := by
  grind [toolAccess, onHart_mem, physAccess_wf, refuseHart_mem]

theorem execPlimWrite_wf {s : State} (h : s.mem.wf = true) (v : BitVec 12) : OutWf (execPlimWrite v s) := by
  grind [execPlimWrite, OutWf, notNow, setPlim_mem]

theorem execElstatDropClear_wf {s : State} (h : s.mem.wf = true) (v : BitVec 32) : OutWf (execElstatDropClear v s) := by
  grind [execElstatDropClear, OutWf, notNow, clearDrop_mem]

theorem execCfenceClear_wf {s : State} (h : s.mem.wf = true) (cl : BitVec 6) (m : BitVec 48) :
    OutWf (execCfenceClear cl m s) := by
  grind [execCfenceClear, OutWf, notNow, clearFence_mem]

theorem installEntry_wf {s : State} (h : s.mem.wf = true) (ctx : Nat) (e : Nat × Nat) :
    (installEntry ctx s e).mem.wf = true := by
  have hl : ∀ b : Bool, (if b then logPlain s 0x40 0 (ctx * 2 ^ 16 + e.2) 0 else s).mem.wf = true :=
    fun b => wf_ite (logPlain_wf h ..) h
  unfold installEntry
  exact wf_ite (by rw [foldl_mem (fun _ _ => installAt_mem ..)]; exact hl _) (by rw [installAt_mem]; exact hl _)

theorem installPools_wf {s : State} (h : s.mem.wf = true) (c : Nat) : (installPools s c).mem.wf = true := by
  unfold installPools
  dsimp only
  refine wf_ite h ?_
  split
  · rename_i hl
    refine foldl_wf (fun _ e hs => installEntry_wf hs c e) _ ?_
    split at hl
    · cases hl
    · exact frontRead_wf h hl
  · exact foldl_wf (fun _ e hs => installEntry_wf hs c e) _ h

theorem execInstallPoolDescriptors_wf {s : State} (h : s.mem.wf = true) (ctx : BitVec 4) :
    OutWf (execInstallPoolDescriptors ctx s) := by
  grind [execInstallPoolDescriptors, OutWf, notNow, installPools_wf]

theorem execShootdown_wf {s : State} (h : s.mem.wf = true) (ctx : BitVec 4) : OutWf (execShootdown ctx s) := by
  grind [execShootdown, OutWf, notNow, beginShootdown_mem]

theorem execShootdownDone_wf {s : State} (h : s.mem.wf = true) (ctx : BitVec 4) : OutWf (execShootdownDone ctx s) := by
  grind [execShootdownDone, OutWf, notNow, onCtx_mem, releaseHeld_mem]

theorem contextWrite_wf {s : State} (h : s.mem.wf = true) (pf : Bool) (c off v : Nat) :
    (contextWrite s pf c off v).mem.wf = true := by
  unfold contextWrite
  refine wf_ite h ?_
  split
  case h_13 =>
    have hi : (if bit v 0 then installPools s c else s).mem.wf = true := wf_ite (installPools_wf h c) h
    exact wf_ite (by rw [beginShootdown_mem]; exact hi) hi
  case h_16 => exact orSame_wf h (execLaunch_wf h ..)
  case h_17 => exact orSame_wf h (execJend_wf h ..)
  case h_18 => exact wf_ite (by rwa [resetContext_mem]) h
  all_goals exact h

theorem execMonitorClear_wf {s : State} (h : s.mem.wf = true) (m : BitVec 6) : OutWf (execMonitorClear m s) := by
  grind [execMonitorClear, OutWf, notNow, onMonitor_mem]

theorem execMonitorSatClear_wf {s : State} (h : s.mem.wf = true) (m : BitVec 6) : OutWf (execMonitorSatClear m s) := by
  grind [execMonitorSatClear, OutWf, notNow, onMonitor_mem]

theorem execMonitorSample_wf {s : State} (h : s.mem.wf = true) (m : BitVec 6) (v : BitVec 32) :
    OutWf (execMonitorSample m v s) := by
  grind [execMonitorSample, OutWf, notNow, takeSample_mem]

theorem execAttestationRequest_wf {s : State} (h : s.mem.wf = true) : OutWf (execAttestationRequest s) := by
  grind [execAttestationRequest, OutWf, notNow, attest_mem]

theorem putRoute_wf {s : State} (h : s.mem.wf = true) (idx v : Nat) : (putRoute s idx v).mem.wf = true := by
  grind [putRoute, logPlain_wf]

theorem execRouteEntryWrite_wf {s : State} (h : s.mem.wf = true) (idx : BitVec 19) (v : BitVec 64) :
    OutWf (execRouteEntryWrite idx v s) := by
  grind [execRouteEntryWrite, OutWf, notNow, putRoute_wf]

theorem slotWrite_wf {s : State} (h : s.mem.wf = true) (pf : Bool) (n off v : Nat) : (slotWrite s pf n off v).mem.wf = true := by
  unfold slotWrite
  dsimp only
  split
  · exact orSame_wf h (execGraphSlotConfigWrite_wf h ..)
  · exact orSame_wf h (execGraphSlotConfigWrite_wf h ..)
  · exact orSame_wf h (execGraphSlotConfigWrite_wf h ..)
  · exact orSame_wf h (execGstart_wf h ..)
  · exact wf_ite (orSame_wf h (execGraphParameterWrite_wf h ..)) h

theorem deviceWriteAll_wf {s : State} (h : s.mem.wf = true) (off v : Nat) : (bar0Write.deviceWriteAll s off v).mem.wf = true :=
  wf_ite (orSame_wf h (execReplay_wf h _)) (by rwa [deviceWrite_mem])

theorem bar0Write_wf {s : State} (h : s.mem.wf = true) (fn off v : Nat) : (bar0Write s fn off v).mem.wf = true := by
  unfold bar0Write
  dsimp only
  refine wf_ite (wf_ite (deviceWriteAll_wf h ..) h) (wf_ite (wf_ite (contextWrite_wf h ..) h) (wf_ite (wf_ite ?_ h)
    (wf_ite (wf_ite ?_ h) (wf_ite (wf_ite ?_ h) (wf_ite h (wf_ite (wf_ite (slotWrite_wf h ..) h) (wf_ite h
      (wf_ite (wf_ite ?_ h) (wf_ite (wf_ite (putRoute_wf h ..) h) (wf_ite (wf_ite ?_ h) h))))))))))
  · rwa [toolWrite_mem]
  · rwa [monitorWrite_mem]
  · rwa [mailboxWrite_mem]
  · rwa [notifyStore_mem]
  · exact h

theorem execHostRegisterWrite_wf {s : State} (h : s.mem.wf = true) (fn : BitVec 5) (off : BitVec 26) (v : BitVec 64) :
    OutWf (execHostRegisterWrite fn off v s) := by
  grind [execHostRegisterWrite, OutWf, notNow, bar0Write_wf]

theorem execNotifyMirrorWrite_wf {s : State} (h : s.mem.wf = true) (fn : BitVec 5) (n : BitVec 12) (v : BitVec 64) :
    OutWf (execNotifyMirrorWrite fn n v s) := by
  grind [execNotifyMirrorWrite, OutWf, notNow, notifyStore_mem]

theorem hostAccess_wf {s : State} (h : s.mem.wf = true) (wr : Bool) (loc n v : Nat) :
    (hostAccess s wr loc n v).mem.wf = true := by
  grind [hostAccess, storeNat_wf]

theorem vfPiece_wf {s : State} (h : s.mem.wf = true) (ctx : Nat) (wr : Bool) (v : Nat) (p : Nat × Nat × Nat × Option Xl) :
    (vfPiece ctx wr v s p).mem.wf = true := by
  unfold vfPiece
  dsimp only
  split
  · exact wf_ite (storeNat_wf h ..) (wf_ite h h)
  · exact (congrArg Memory.wf (post_mem ..)).trans h
  · exact h

theorem vfAccess_wf {s : State} (h : s.mem.wf = true) (ctx : Nat) (wr : Bool) (va n v : Nat) :
    (vfAccess s ctx wr va n v).mem.wf = true :=
  wf_ite h (foldl_wf (fun _ p hs => vfPiece_wf hs ctx wr v p) _ (wf_ite h h))

theorem pfAccess_wf {s : State} (h : s.mem.wf = true) (wr : Bool) (o n v : Nat) : (pfAccess s wr o n v).mem.wf = true := by
  grind [pfAccess, hostAccess_wf]

theorem execHostBar2Access_wf {s : State} (h : s.mem.wf = true) (fn : BitVec 5) (wr : BitVec 2) (off : BitVec 40)
    (size : BitVec 2) (v : BitVec 64) :
    OutWf (execHostBar2Access fn wr off size v s) := by
  grind [execHostBar2Access, OutWf, notNow, wakeForAccess_mem, pfAccess_wf, vfAccess_wf]

theorem execHostLinkError_wf {s : State} (h : s.mem.wf = true) (kind : BitVec 8) : OutWf (execHostLinkError kind s) := by
  grind [execHostLinkError, OutWf, notNow]

theorem afterReset_wf (s : State) : (afterReset s).mem.wf = true := rfl

theorem execDeviceReset_wf {s : State} : OutWf (execDeviceReset s) := afterReset_wf s

theorem execPcieHotReset_wf {s : State} : OutWf (execPcieHotReset s) := afterReset_wf s

theorem firmwareRuns_wf (s : State) : (firmwareRuns s).mem.wf = true := rfl

theorem imageRuns_wf {s : State} (h : s.mem.wf = true) (img : Nat) : (imageRuns s img).mem.wf = true :=
  wf_ite (firmwareRuns_wf s) (wf_ite h h)

theorem execSecurityImageVerify_wf {s : State} (h : s.mem.wf = true) (img : BitVec 2) (ver : BitVec 16) (key : List
    (BitVec 8)) (hdr : List (BitVec 8)) (body : List (BitVec 8)) (sig : List (BitVec 8)) :
    OutWf (execSecurityImageVerify img ver key hdr body sig s) := by
  grind [execSecurityImageVerify, OutWf, notNow, imageRuns_wf]

theorem execPowerStateEntry_wf {s : State} (h : s.mem.wf = true) (part st : BitVec 3) :
    OutWf (execPowerStateEntry part st s) := by
  grind [execPowerStateEntry, OutWf, notNow, onDie_mem, onDev_mem]

theorem execPowerWake_wf {s : State} (h : s.mem.wf = true) (part : BitVec 3) : OutWf (execPowerWake part s) := by
  grind [execPowerWake, OutWf, notNow, wakeDie_mem, wakePackage_mem]

theorem leaveHold_wf {s : State} (h : s.mem.wf = true) (d head : Nat) : (leaveHold s d head).mem.wf = true := by
  grind [leaveHold, logPlain_wf, onDie_mem]

theorem execThermalHoldEntry_wf {s : State} (h : s.mem.wf = true) (die : BitVec 3) : OutWf (execThermalHoldEntry die s) := by
  grind [execThermalHoldEntry, OutWf, notNow, enterHold_mem]

theorem execThermalHoldExit_wf {s : State} (h : s.mem.wf = true) (die : BitVec 3) (head : BitVec 16) :
    OutWf (execThermalHoldExit die head s) := by
  grind [execThermalHoldExit, OutWf, notNow, leaveHold_wf]

theorem packageFailure_wf {s : State} (h : s.mem.wf = true) (code unit : Nat) :
    (packageFailure s code unit).mem.wf = true := by
  grind [packageFailure, setPlim_mem, killAll_mem, logPlain_wf]

theorem execThermalTrip_wf {s : State} (h : s.mem.wf = true) (die : BitVec 3) : OutWf (execThermalTrip die s) := by
  grind [execThermalTrip, OutWf, notNow, packageFailure_wf]

theorem execSupplyFault_wf {s : State} (h : s.mem.wf = true) : OutWf (execSupplyFault s) := by
  grind [execSupplyFault, OutWf, notNow, packageFailure_wf]

theorem execPlimOverrun_wf {s : State} (h : s.mem.wf = true) : OutWf (execPlimOverrun s) := by
  grind [execPlimOverrun, OutWf, notNow, packageFailure_wf]

theorem execCorrectableError_wf {s : State} (h : s.mem.wf = true) (die : BitVec 3) : OutWf (execCorrectableError die s) := by
  grind [execCorrectableError, OutWf, notNow, onDie_mem, logPlain_wf]

theorem execPatrolPoison_wf {s : State} (h : s.mem.wf = true) (loc : Nat) (syn : BitVec 64) :
    OutWf (execPatrolPoison loc syn s) := by
  grind [execPatrolPoison, OutWf, notNow, onCore_mem, logPlain_wf]

theorem execDeviceFatalError_wf {s : State} (h : s.mem.wf = true) (code : BitVec 8) (unit syn : BitVec 64) :
    OutWf (execDeviceFatalError code unit syn s) := by
  grind [execDeviceFatalError, OutWf, notNow, killAll_mem, logPlain_wf]

theorem execSecurityProcessorFault_wf {s : State} (h : s.mem.wf = true) : OutWf (execSecurityProcessorFault s) := by
  grind [execSecurityProcessorFault, OutWf, notNow, logPlain_wf]

theorem execToolCacheError_wf {s : State} (h : s.mem.wf = true) (hart : BitVec 5) (addr : BitVec 38) :
    OutWf (execToolCacheError hart addr s) := by
  grind [execToolCacheError, OutWf, notNow, logPlain_wf, refuseHart_mem]

theorem execTileTableError_wf {s : State} (h : s.mem.wf = true) (unit : Nat) (syn : BitVec 64) :
    OutWf (execTileTableError unit syn s) := by
  rw [execTileTableError, OutWf, onUnit_mem, foldl_mem (fun _ _ => killJob_mem ..)]
  exact logPlain_wf h ..

theorem execCxlPortDown_wf {s : State} (h : s.mem.wf = true) (port : BitVec 1) : OutWf (execCxlPortDown port s) := by
  grind [execCxlPortDown, OutWf, notNow, logPlain_wf]

theorem execCxlPortRetrained_wf {s : State} (h : s.mem.wf = true) (port : BitVec 1) : OutWf (execCxlPortRetrained port s) := by
  grind [execCxlPortRetrained, OutWf, notNow]

theorem countRetry_wf {s : State} (h : s.mem.wf = true) (p : Nat) : (countRetry s p).mem.wf = true := by
  grind [countRetry, onSpan_mem, logPlain_wf]

theorem execFlitAck_wf {s : State} (h : s.mem.wf = true) (span : BitVec 5) (seq : BitVec 32) :
    OutWf (execFlitAck span seq s) := by
  grind [execFlitAck, OutWf, notNow, settleRoutes_mem, onSpan_mem]

theorem abortTo_wf {s : State} (h : s.mem.wf = true) (lost : Nat → Bool) : (abortTo lost s).mem.wf = true := by
  refine foldl_wf (fun s p hs => ?_) _ h
  split
  · exact hs
  · split
    · exact abortLaunch_wf hs ..
    · exact hs

theorem recordLost_wf {s : State} (h : s.mem.wf = true) (p : Nat) : (recordLost p s).mem.wf = true :=
  abortTo_wf (foldl_wf (fun _ _ hs => logPlain_wf hs ..) _ (foldl_wf (fun _ _ hs => logPlain_wf (by exact hs) ..) _
    (foldl_wf (fun _ _ hs => logPlain_wf hs ..) _ h))) _

theorem spanDown_wf {s : State} (h : s.mem.wf = true) (p : Nat) : (spanDown s p).mem.wf = true := by
  grind [spanDown, recordLost_wf, resendOn_mem, onSpan_mem, logPlain_wf]

theorem resendFrom_wf {s : State} (h : s.mem.wf = true) (p i : Nat) : (resendFrom s p i).mem.wf = true := by
  grind [resendFrom, spanDown_wf, countRetry_wf, onSpan_mem]

theorem execFlitAckTimeout_wf {s : State} (h : s.mem.wf = true) (span : BitVec 5) : OutWf (execFlitAckTimeout span s) := by
  grind [execFlitAckTimeout, OutWf, notNow, resendFrom_wf]

theorem execFlitReceive_wf {s : State} (h : s.mem.wf = true) (span : BitVec 5) (seq : BitVec 32) (bad : BitVec 2) :
    OutWf (execFlitReceive span seq bad s) := by
  grind [execFlitReceive, OutWf, notNow, countRetry_wf, resendFrom_wf, onSpan_mem]

theorem execSpanUp_wf {s : State} (h : s.mem.wf = true) (span : BitVec 5) (full : BitVec 1) : OutWf (execSpanUp span full s) := by
  grind [execSpanUp, OutWf, notNow, onSpan_mem, logPlain_wf]

theorem execPierReport_wf {s : State} (h : s.mem.wf = true) (code : BitVec 8) (arg : BitVec 64) :
    OutWf (execPierReport code arg s) := by
  grind [execPierReport, OutWf, notNow, logPlain_wf]

theorem performHome_wf {s : State} (h : s.mem.wf = true) (k n v c : Nat) (l : List (Nat × Nat)) :
    (performHome s k n v c l).mem.wf = true := by
  unfold performHome
  refine wf_ite h (wf_ite (writeLocs_wf h _) ?_)
  split
  · exact storeNat_wf h ..
  · exact h

theorem execRemoteAccessHome_wf {s : State} (h : s.mem.wf = true) (ctx : BitVec 18) (kind : BitVec 4) (va : BitVec 52)
    (size : BitVec 8) (v : BitVec 1920) (c : BitVec 64) : OutWf (execRemoteAccessHome ctx kind va size v c s) := by
  unfold execRemoteAccessHome
  dsimp only
  split
  · exact h
  · split
    · exact h
    · rename_i hw
      have hu := (congrArg Memory.wf (wakeForAccess_mem hw)).trans h
      split
      · rw [OutWf, answer_mem]
        exact performHome_wf hu ..
      · rwa [OutWf, answer_mem]

theorem failRemote_wf {s : State} (h : s.mem.wf = true) (r : Remote) (code home : Nat) :
    (failRemote s r code home).mem.wf = true := by
  grind [failRemote, failEntry_wf, onStrand_mem]

theorem execRemoteResponse_wf {s : State} (h : s.mem.wf = true) (id : Nat) (code : BitVec 8) (v : BitVec 1920) :
    OutWf (execRemoteResponse id code v s) := by
  unfold execRemoteResponse
  dsimp only
  split
  · exact h
  · split
    · exact h
    · rename_i ht
      have hu := (congrArg Memory.wf (takeRemote_mem ht)).trans h
      split
      · rwa [OutWf, deliverRemote_mem]
      · exact failRemote_wf hu ..

theorem execRemoteAccessTimeout_wf {s : State} (h : s.mem.wf = true) (id : Nat) : OutWf (execRemoteAccessTimeout id s) := by
  unfold execRemoteAccessTimeout
  split
  · exact h
  · rename_i ht
    have hu := (congrArg Memory.wf (takeRemote_mem ht)).trans h
    split
    · exact failRemote_wf hu ..
    · exact h

theorem unitError_wf {s : State} (h : s.mem.wf = true) (code core : Nat) (x : Option Nat) (unit syn : Nat) :
    (unitError s code core x unit syn).mem.wf = true := by
  unfold unitError
  refine wf_ite h ?_
  split
  · exact wf_ite (signalTrap_wf h ..) (logPlain_wf (by rwa [fenceFor_mem]) ..)
  · exact logPlain_wf (by rwa [fenceFor_mem]) ..

theorem headroom_wf {s : State} (h : s.mem.wf = true) (d v : Nat) : (headroom s d v).mem.wf = true := by
  grind [headroom, leaveHold_wf, onDie_mem, enterHold_mem]

end Sys2Proof.Machine
end

section
/-! Canonical memory: every instruction and every event, one meaning each. -/

namespace Sys2Proof.Machine

variable {s : State}

theorem runLong_wf (h : s.mem.wf = true) (v w : Word) (i : Instr) : OutWf (runLong v w i s) := by
  cases i
  case addi | andi | ori | xori | shli | shri | sari | roli | seqi | slti | sltni => exact alu1_wf h ..
  case ldS8 | ldN8 | ldS16 | ldN16 | ldS32 | ldN32 | ldD => exact ldOp_wf h ..
  case stB | stH | stW | stD => exact stOp_wf h ..
  case stfW | stfD => exact stfOp_wf h ..
  case ldfWKeep | ldfWTake | ldfDKeep | ldfDTake => exact ldfOp_wf h ..
  case br => exact brOp_wf h ..
  case jal => exact jalOp_wf h ..
  case jr => exact jrOp_wf h ..
  case loop => exact loopOp_wf h ..
  case loopi => exact loopiOp_wf h ..
  all_goals exact liwRefused_wf h ..

theorem execLiw_wf (h : s.mem.wf = true) (imm word : Word) : OutWf (execLiw imm word s) := by
  unfold execLiw
  split
  · exact runLong_wf h ..
  · exact liwRefused_wf h ..

theorem execPgin_wf (h : s.mem.wf = true) (t g : BitVec 2) (x y : BitVec 5) : OutWf (execPgin t g x y s) := by
  have he := engIssue_wf h 0 (wE 36 ((0 : BitVec 1) ++ t) ((0 : BitVec 1) ++ g) x y 0 0) t.toNat g.toNat x y 0 resolvePgin
  unfold execPgin
  split
  · rename_i u hu
    rw [hu] at he
    exact pginIssued_wf s he
  · exact he

/-- Every instruction and every event keeps memory canonical. -/
theorem exec_wf (h : s.mem.wf = true) (i : Instr) : OutWf (exec i s) := by
  cases i with
  | add | sub | and | or | xor | andn | orn | shl | shr | sar | rol | min | max | minn | maxn | seq | sne | slt | sltn |
    sle | slen | lea => exact alu2_wf h ..
  | clz | ctz | popc | addi | andi | ori | xori | shli | shri | sari | roli | seqi | slti | sltni => exact alu1_wf h ..
  | mul | mulh | mulhn | div | divn | rem | remn | faddD | faddS | fsubD | fsubS | fmulD | fmulS | fminD | fminS |
    fmaxD | fmaxS | fceqD | fceqS | fcltD | fcltS | fcleD | fcleS => exact lat2_wf h ..
  | peq | pne | plt | pltn | ple | plen => exact cmpP_wf h ..
  | pand | por | pxor | pnot | ptog => exact opP_wf h ..
  | sel => exact execSel_wf h ..
  | ldS8 | ldN8 | ldS16 | ldN16 | ldS32 | ldN32 | ldD => exact ldOp_wf h ..
  | stB | stH | stW | stD => exact stOp_wf h ..
  | stfW | stfD => exact stfOp_wf h ..
  | ldfWKeep | ldfWTake | ldfDKeep | ldfDTake => exact ldfOp_wf h ..
  | aaddW | aaddD | asaddW | asaddD | aminW | aminD | amaxW | amaxD | aminnW | aminnD | amaxnW | amaxnD | aandW | aandD |
    aorW | aorD | axorW | axorD | aswapW | aswapD | acasW | acasD | afaddW => exact atomOp_wf h ..
  | fabsD | fabsS | fnegD | fnegS | fcvtF32F64 | fcvtF64F32 | fcvtF16F32 | fcvtF32F16 | fcvtBf16F32 | fcvtF32Bf16 |
    fcvtKf8F32 | fcvtF32Kf8 | fcvtS64F64 | fcvtF64S64 | fcvtS32F32 | fcvtF32S32 | fcvtN64F64 | fcvtF64N64 | exp2D |
    exp2S | log2D | log2S | rcpD | rcpS | rsqD | rsqS => exact lat1_wf h ..
  | ffmaD | ffmaS => exact ffmaOp_wf h ..
  | kand d n a b => exact (opK_wf h .. : OutWf (execKand d n a b s))
  | kor d n a b => exact (opK_wf h .. : OutWf (execKor d n a b s))
  | kxor d n a b => exact (opK_wf h .. : OutWf (execKxor d n a b s))
  | kandn d n a b => exact (opK_wf h .. : OutWf (execKandn d n a b s))
  | knot d n a => exact (opK_wf h .. : OutWf (execKnot d n a s))
  | kshl d n a b => exact (opKG_wf h .. : OutWf (execKshl d n a b s))
  | kshr d n a b => exact (opKG_wf h .. : OutWf (execKshr d n a b s))
  | kmovk d n a => exact (opKG_wf h .. : OutWf (execKmovk d n a s))
  | kbit d n a b => exact (opKG_wf h .. : OutWf (execKbit d n a b s))
  | kpop d n a => exact (opGK_wf h .. : OutWf (execKpop d n a s))
  | kmovg d n a => exact (opGK_wf h .. : OutWf (execKmovg d n a s))
  | kffs d n a => exact (opGK_wf h .. : OutWf (execKffs d n a s))
  | ktst d n a b => exact execKtst_wf h d n a b
  | kldm d n a b => exact execKldm_wf h d n a b
  | emov d n a => exact (opE_wf h .. : OutWf (execEmov d n a s))
  | emin d n a b => exact (opE_wf h .. : OutWf (execEmin d n a b s))
  | esub d n a b => exact (opE_wf h .. : OutWf (execEsub d n a b s))
  | eadd d n a b => exact (opE_wf h .. : OutWf (execEadd d n a b s))
  | eget => exact execEget_wf h ..
  | eclr => exact execEclr_wf h ..
  | br => exact brOp_wf h ..
  | jal => exact jalOp_wf h ..
  | jr => exact jrOp_wf h ..
  | loop => exact loopOp_wf h ..
  | loopi => exact loopiOp_wf h ..
  | nop => exact execNop_wf h ..
  | halt => exact execHalt_wf h ..
  | trap => exact execTrap_wf h ..
  | eret => exact execEret_wf h ..
  | evret => exact execEvret_wf h ..
  | mfs => exact execMfs_wf h ..
  | mts => exact execMts_wf h ..
  | fence => exact execFence_wf h ..
  | afence => exact execAfence_wf h ..
  | phaseCore | phaseClus | phaseDie | phasePkg | phaseDom | phaseSys => exact phaseOp_wf h ..
  | segend => exact execSegend_wf h ..
  | waitc => exact execWaitc_wf h ..
  | sched => exact execSched_wf h ..
  | park => exact execPark_wf h ..
  | notify => exact execNotify_wf h ..
  | rpop => exact execRpop_wf h ..
  | mswap t g => exact (engIssue_wf h .. : OutWf (execMswap t g s))
  | mstat t g => exact (engIssue_wf h .. : OutWf (execMstat t g s))
  | cinG | cinL | cinP | cinMc | coutG | coutL | coutP | coutSel | cpxPp | cpxPl | cpxLp | cpxLl | cgathP | cgathL |
    cscatP | cscatL | pgout | wrsig | wrsigAdd | lkopFill | lkopAdd | lkopSadd | lkopMin | lkopMax | lkopAnd | lkopOr |
    lkopXor | lkopFadd | lkopFmax | lkopFmul | lkopRsum | vchain | vredSum | vredMax | vredMin | vredArgmax |
    vredArgmin | vredSumsq | vscanAdd | vscanMax | vgath | vscatSet | vscatAdd | vscatMax | vscatMul | vdotS8 | vdotQ4 |
    vdotT5 | bset | vperm | vsearchTopk | vsearchThr | vfind | vcount | mlt | mgo | mldwDense | mldwS24 | mldwS14 |
    mmask | mzero | mdrainP | mdrainPort | mdrainSel => exact engIssue_wf h ..
  | give => exact execGive_wf h ..
  | take => exact execTake_wf h ..
  | qdepth => exact execQdepth_wf h ..
  | qseq => exact execQseq_wf h ..
  | talloc | tallocV => exact tallocOp_wf h ..
  | tadd => exact execTadd_wf h ..
  | tdraw => exact execTdraw_wf h ..
  | tabnd => exact execTabnd_wf h ..
  | tinfo => exact execTinfo_wf h ..
  | pubv | pubvF => exact pubvOp_wf h ..
  | tsub => exact execTsub_wf h ..
  | stopref => exact execStopref_wf h ..
  | swait => exact execSwait_wf h ..
  | tver => exact execTver_wf h ..
  | fork => exact execFork_wf h ..
  | join => exact execJoin_wf h ..
  | enq => exact execEnq_wf h ..
  | card => exact execCard_wf h ..
  | mbpost => exact execMbpost_wf h ..
  | mbtake => exact execMbtake_wf h ..
  | coll => exact execColl_wf h ..
  | csend => exact execCsend_wf h ..
  | crecv => exact execCrecv_wf h ..
  | crrs => exact execCrrs_wf h ..
  | ccopy => exact execCcopy_wf h ..
  | cwait => exact execCwait_wf h ..
  | cloop => exact execCloop_wf h ..
  | cbar => exact execCbar_wf h ..
  | cend => exact execCend_wf h ..
  | hostRegisterWrite => exact execHostRegisterWrite_wf h ..
  | graphParameterWrite => exact execGraphParameterWrite_wf h ..
  | gstart => exact execGstart_wf h ..
  | graphSlotConfigWrite => exact execGraphSlotConfigWrite_wf h ..
  | launch => exact execLaunch_wf h ..
  | installPoolDescriptors => exact execInstallPoolDescriptors_wf h ..
  | shootdown => exact execShootdown_wf h ..
  | shootdownDone => exact execShootdownDone_wf h ..
  | jend => exact execJend_wf h ..
  | crst => exact execCrst_wf h ..
  | vfFlr => exact execVfFlr_wf h ..
  | replay => exact execReplay_wf h ..
  | trun => exact execTrun_wf h ..
  | thold => exact execThold_wf h ..
  | wallWrite => exact execWallWrite_wf h ..
  | plimWrite => exact execPlimWrite_wf h ..
  | routeEntryWrite => exact execRouteEntryWrite_wf h ..
  | monitorClear => exact execMonitorClear_wf h ..
  | monitorSatClear => exact execMonitorSatClear_wf h ..
  | elstatDropClear => exact execElstatDropClear_wf h ..
  | cfenceClear => exact execCfenceClear_wf h ..
  | monitorSample => exact execMonitorSample_wf h ..
  | notifyMirrorWrite => exact execNotifyMirrorWrite_wf h ..
  | toolNotifyStore => exact execToolNotifyStore_wf h ..
  | toolSandboxAccess => exact execToolSandboxAccess_wf h ..
  | doorbellClear => exact execDoorbellClear_wf h ..
  | attestationRequest => exact execAttestationRequest_wf h ..
  | securityImageVerify => exact execSecurityImageVerify_wf h ..
  | deviceReset => exact execDeviceReset_wf
  | pcieHotReset => exact execPcieHotReset_wf
  | hostLinkError => exact execHostLinkError_wf h ..
  | hostBar2Access => exact execHostBar2Access_wf h ..
  | powerStateEntry => exact execPowerStateEntry_wf h ..
  | powerWake => exact execPowerWake_wf h ..
  | thermalHoldEntry => exact execThermalHoldEntry_wf h ..
  | thermalHoldExit => exact execThermalHoldExit_wf h ..
  | thermalTrip => exact execThermalTrip_wf h ..
  | supplyFault => exact execSupplyFault_wf h ..
  | plimOverrun => exact execPlimOverrun_wf h ..
  | correctableError => exact execCorrectableError_wf h ..
  | patrolPoison => exact execPatrolPoison_wf h ..
  | deviceFatalError => exact execDeviceFatalError_wf h ..
  | securityProcessorFault => exact execSecurityProcessorFault_wf h ..
  | toolCacheError => exact execToolCacheError_wf h ..
  | tileTableError => exact execTileTableError_wf h ..
  | cxlPortDown => exact execCxlPortDown_wf h ..
  | cxlPortRetrained => exact execCxlPortRetrained_wf h ..
  | flitReceive => exact execFlitReceive_wf h ..
  | flitAck => exact execFlitAck_wf h ..
  | flitAckTimeout => exact execFlitAckTimeout_wf h ..
  | spanUp => exact execSpanUp_wf h ..
  | remoteAccessHome => exact execRemoteAccessHome_wf h ..
  | remoteResponse => exact execRemoteResponse_wf h ..
  | remoteAccessTimeout => exact execRemoteAccessTimeout_wf h ..
  | pierReport => exact execPierReport_wf h ..
  | collReadyArrive => exact execCollReadyArrive_wf h ..
  | collDataArrive => exact execCollDataArrive_wf h ..
  | collTransferFinish => exact execCollTransferFinish_wf h ..
  | cbarMessage => exact execCbarMessage_wf h ..
  | collAbortMessage => exact execCollAbortMessage_wf h ..
  | collTimeout => exact execCollTimeout_wf h ..
  | jobIssue => exact execJobIssue_wf h ..
  | class0Preempt => exact execClass0Preempt_wf h ..
  | preemptPointLate => exact execPreemptPointLate_wf h ..
  | contextSave core job => exact execContextSave_wf h core job
  | saveComplete => exact execSaveComplete_wf h ..
  | contextRestore => exact execContextRestore_wf h ..
  | streamNodeStart => exact execStreamNodeStart_wf h ..
  | streamNodeComplete => exact execStreamNodeComplete_wf h ..
  | jobEnd => exact execJobEnd_wf h ..
  | cardServe => exact execCardServe_wf h ..
  | periodStart => exact execPeriodStart_wf h ..
  | strandChoice => exact execStrandChoice_wf h ..
  | eventDelivery => exact execEventDelivery_wf h ..
  | waitExpiry => exact execWaitExpiry_wf h ..
  | asyncPoolCause => exact execAsyncPoolCause_wf h ..
  | taskStart => exact execTaskStart_wf h ..
  | stealRequest => exact execStealRequest_wf h ..
  | stealResult => exact execStealResult_wf h ..
  | stealRetry => exact execStealRetry_wf h ..
  | poolUnitCycle => exact execPoolUnitCycle_wf h ..
  | subscriberFireTimeout => exact execSubscriberFireTimeout_wf h ..
  | settleExamine => exact execSettleExamine_wf h ..
  | engineEntryBegin => exact execEngineEntryBegin_wf h ..
  | copySector => exact execCopySector_wf h ..
  | vectorRow => exact execVectorRow_wf h ..
  | reductionRetire => exact execReductionRetire_wf h ..
  | engineEntryComplete => exact execEngineEntryComplete_wf h ..
  | pageWalkComplete => exact execPageWalkComplete_wf h ..
  | pageCopyComplete => exact execPageCopyComplete_wf h ..
  | scoreboardReturn => exact execScoreboardReturn_wf h ..
  | virtualFunctionEnable => exact execVirtualFunctionEnable_wf h ..
  | toolTimerInterrupt => exact execToolTimerInterrupt_wf h ..
  | liw => exact execLiw_wf h ..
  | pgin => exact execPgin_wf h ..

end Sys2Proof.Machine
end

section
/-! Canonical memory: what is due, the slots of a cycle, and the step (O45). -/

namespace Sys2Proof.Machine

/-- Memory is canonical in the state that a step gives, if it gives one. -/
def OptWf (o : Option State) : Prop := ∀ t, o = some t → t.mem.wf = true

theorem optWf_none : OptWf none := by rintro _ ⟨⟩

theorem optWf_some {s : State} (h : s.mem.wf = true) : OptWf (some s) := by
  rintro _ ⟨⟩
  exact h

theorem optWf_orElse {o : Option State} {f : Unit → Option State} (ho : OptWf o) (hf : OptWf (f ())) : OptWf (o.orElse f) := by
  cases o with
  | none => exact hf
  | some s => exact ho

theorem optWf_findSome? {α : Type} {l : List α} {f : α → Option State} (hf : ∀ x, OptWf (f x)) : OptWf (l.findSome? f) := by
  intro t ht
  obtain ⟨x, -, hx⟩ := List.exists_of_findSome?_eq_some ht
  exact hf x t hx

theorem optWf_map {α : Type} {o : Option α} {f : α → State} (hf : ∀ x, (f x).mem.wf = true) : OptWf (o.map f) := by
  intro t ht
  obtain ⟨x, -, rfl⟩ := Option.map_eq_some_iff.1 ht
  exact hf x

variable {s : State}

theorem exec_next_wf (h : s.mem.wf = true) {i : Instr} {t : State} (hx : exec i s = .next t) : t.mem.wf = true := by
  have he := exec_wf h i
  rw [hx] at he
  exact he

/-! ## What is due or enabled -/

theorem firstNext_wf (h : s.mem.wf = true) (l : List Instr) : OptWf (firstNext s l) := by
  induction l with
  | nil => exact optWf_none
  | cons i l ih =>
    rw [firstNext]
    split
    · rename_i u hu
      split
      · exact ih
      · exact optWf_some (exec_next_wf (s := { s with missed := false }) h hu)
    · exact ih

theorem takeInput_wf (h : s.mem.wf = true) (x : Input) : OptWf (takeInput s x) := by
  cases x with
  | hostRead fn off => exact optWf_some (wf_ite h h)
  | toolAccess k kind addr size v fn => exact optWf_some (toolAccess_wf h ..)
  | unitError code core x unit syn => exact optWf_some (unitError_wf h ..)
  | headroom d v => exact optWf_some (headroom_wf h ..)
  | abortFrom r => exact optWf_some h
  | frameFault core => exact optWf_some (by rwa [onCore_mem])
  | parity core i second => exact optWf_some (by rwa [refetch_mem])
  | temperature d v => exact optWf_some (wf_ite (by rwa [onDie_mem]) h)
  | hartWrite k what n v => exact optWf_some (by rwa [onHart_mem])

theorem dueHost_wf (h : s.mem.wf = true) : OptWf (dueHost s) := by
  refine optWf_map fun p => ?_
  dsimp only
  split
  · rename_i hu
    exact exec_next_wf (by exact h) hu
  · exact h

theorem dueHart_wf (h : s.mem.wf = true) : OptWf (dueHart s) := by
  unfold dueHart
  split
  · exact optWf_none
  · refine optWf_findSome? fun x => ?_
    split
    · exact optWf_none
    · exact optWf_some (reachWindow_wf (by rwa [onHart_mem]) ..)

theorem dueTrap_wf (h : s.mem.wf = true) (a : At) : OptWf (dueTrap s a) := by
  unfold dueTrap
  split
  · split
    · exact optWf_some (takeTrap_wf h ..)
    · exact optWf_none
  · exact optWf_none

theorem dueWake_wf (h : s.mem.wf = true) (a : At) : OptWf (dueWake s a) := by
  intro t ht
  unfold dueWake at ht
  split at ht
  · rw [wakeWord_mem ht]; exact h
  · cases ht

theorem dueStop_wf (h : s.mem.wf = true) (a : At) : OptWf (dueStop s a) := by
  unfold dueStop
  dsimp only
  split
  · exact optWf_some (by rwa [reachStop_mem])
  · exact optWf_none

theorem dueEnd_wf (h : s.mem.wf = true) (a : At) : OptWf (dueEnd s a) := by
  unfold dueEnd
  split
  · exact optWf_some (stopRun_wf h a)
  · exact optWf_none

theorem dueFor_wf (h : s.mem.wf = true) (a : At) : OptWf (dueFor s a) :=
  optWf_orElse (fun _ ht => (congrArg Memory.wf (setAside_mem ht)).trans h)
    (optWf_orElse (dueWake_wf h a) (optWf_orElse (dueTrap_wf h a) (dueStop_wf h a)))

theorem launchStep_wf (h : s.mem.wf = true) (cl : Nat) (l : Launch) : OptWf (launchStep s cl l) := by
  unfold launchStep
  split
  · exact optWf_none
  · split
    · exact optWf_some (abortLaunch_wf h ..)
    · split
      · exact optWf_some (abortLaunch_wf h ..)
      · exact optWf_some (abortLaunch_wf h ..)
      · exact firstNext_wf h _

theorem launchMoves_wf (h : s.mem.wf = true) (cl : Nat) (l : Launch) : OptWf (launchMoves s cl l) :=
  optWf_orElse (optWf_findSome? fun _ _ ht => localSend_wf h ht)
    (optWf_orElse (optWf_findSome? fun _ _ ht => (congrArg Memory.wf (pushSend_mem ht)).trans h)
      (optWf_orElse (firstNext_wf h _) (optWf_orElse (firstNext_wf h _) (launchStep_wf h cl l))))

theorem sequencerStep_wf (h : s.mem.wf = true) : OptWf (sequencerStep s) := by
  unfold sequencerStep
  split
  · exact optWf_findSome? fun k => optWf_findSome? fun l => launchMoves_wf h k.1 l
  · exact optWf_none

theorem endsFirst_wf (h : s.mem.wf = true) (i : Instr) : OptWf (endsFirst s i) := by
  unfold endsFirst
  split
  · exact firstNext_wf h _
  · split
    · split
      · exact optWf_none
      · split
        · exact optWf_none
        · split
          · exact firstNext_wf h _
          · exact optWf_none
    · exact optWf_none

theorem internalOp_wf (h : s.mem.wf = true) : OptWf (internalOp s) := by
  refine optWf_orElse ?_ (optWf_orElse (dueHost_wf h) (optWf_orElse ?_ (optWf_orElse (dueHart_wf h)
    (optWf_orElse (optWf_findSome? (dueFor_wf h)) (optWf_orElse (firstNext_wf h _) (sequencerStep_wf h))))))
  · intro t ht
    obtain ⟨p, -, hp⟩ := Option.bind_eq_some_iff.1 ht
    exact endsFirst_wf h _ t hp
  · intro t ht
    rw [dueOut_mem ht]; exact h

theorem dueOps_wf (h : s.mem.wf = true) (lim : Nat) : OptWf (dueOps lim s) := optWf_map fun _ => applyOps_wf h ..

theorem unitFirst_wf (h : s.mem.wf = true) (rank : Nat) : OptWf (unitFirst s rank) := by
  unfold unitFirst
  split
  · exact optWf_none
  · refine optWf_orElse (dueOps_wf h 0) (optWf_orElse (firstNext_wf h _) (optWf_orElse (dueOps_wf h 2)
      (optWf_orElse (optWf_findSome? (dueEnd_wf h)) ?_)))
    split
    · exact optWf_none
    · refine optWf_orElse (dueOps_wf h 5) ?_
      split
      · exact optWf_none
      · exact firstNext_wf h _

/-! ## The slots -/

theorem fetchWord_stop {a : At} {va : Nat} (h : s.mem.wf = true) {e : Stop} (hx : fetchWord s a va = .error e) : StopWf e := by
  unfold fetchWord at hx
  split at hx
  · exact awaitWalk_stop h hx
  · have ht := @translate_mem s a.c (ctxOf s a) va false true
    split at hx <;> grind [StopWf, raise_stop, stall_stop, farWait_stop, askRemote_mem]

theorem fetchWord_mem {a : At} {va : Nat} {t} (hx : fetchWord s a va = .ok t) : t.1.mem = s.mem := by
  unfold fetchWord at hx
  split at hx
  · exact (awaitWalk_ne_ok _ _ _ _ hx).elim
  · have ht := @translate_mem s a.c (ctxOf s a) va false true
    have hf := @farWait_ne_ok (State × Word)
    split at hx <;> grind [raise, stall]

theorem fetch_stop {a : At} (h : s.mem.wf = true) {e : Stop} (hx : fetch s a = .error e) : StopWf e := by
  unfold fetch at hx
  dsimp only at hx
  split at hx
  · cases hx
    exact fetchWord_stop h ‹_›
  · rename_i u w hu
    have hw := (congrArg Memory.wf (fetchWord_mem hu)).trans h
    split at hx
    · cases hx
    · split at hx
      · cases hx
        exact fetchWord_stop hw ‹_›
      · rename_i v w1 hv
        have hw' := (congrArg Memory.wf (fetchWord_mem hv)).trans hw
        split at hx
        · cases hx
          exact fetchWord_stop hw' ‹_›
        · cases hx

theorem fetch_mem {a : At} {t} (hx : fetch s a = .ok t) : t.1.mem = s.mem := by
  unfold fetch at hx
  dsimp only at hx
  split at hx
  · cases hx
  · rename_i u w hu
    split at hx
    · cases hx
      exact fetchWord_mem hu
    · split at hx
      · cases hx
      · rename_i v w1 hv
        split at hx
        · cases hx
        · rename_i x w2 hw
          cases hx
          exact (fetchWord_mem hw).trans ((fetchWord_mem hv).trans (fetchWord_mem hu))

theorem strandSlot_wf (h : s.mem.wf = true) (a : At) : OutWf (strandSlot s a) := by
  unfold strandSlot
  dsimp only
  split
  · rwa [OutWf, endSlot_mem, onStrand_mem]
  · split
    · rwa [OutWf, endSlot_mem]
    · split
      · rwa [OutWf, endSlot_mem, continueReturn_mem]
      · split
        · rename_i hf
          have hs := fetch_stop h hf
          rw [OutWf, endSlot_mem, holdWait_mem]
          rwa [StopWf] at hs
        · rw [OutWf, endSlot_mem]
          exact signalTrap_wf h ..
        · rename_i hf
          rw [OutWf, endSlot_mem]
          exact signalTrap_wf ((congrArg Memory.wf (fetch_mem hf)).trans h) ..
        · rename_i u i hf
          have he := exec_wf ((congrArg Memory.wf (fetch_mem hf)).trans h) i
          split
          · rename_i hx
            rw [hx] at he
            rw [OutWf, endSlot_mem]
            exact he
          · exact he

theorem ccSlot_wf (h : s.mem.wf = true) : OutWf (ccSlot s) := by
  unfold ccSlot
  split
  · rwa [OutWf, passFocus_mem]
  · split
    · rename_i hu
      exact unitFirst_wf h _ _ hu
    · exact strandSlot_wf h _

/-! ## The step -/

theorem eventStep_wf (h : s.mem.wf = true) (i : Instr) : OutWf (eventStep s i) := by
  unfold eventStep
  split
  · exact h
  · split
    · exact h
    · exact exec_wf h i

theorem agendaStep_wf (h : s.mem.wf = true) : OutWf (agendaStep s) := by
  unfold agendaStep
  split
  · split
    · rename_i hu
      exact endsFirst_wf h _ _ hu
    · exact eventStep_wf (by exact h) _
  · split
    · rename_i hu
      exact internalOp_wf h _ hu
    · rwa [OutWf, openCycle_mem]

theorem openStep_wf (h : s.mem.wf = true) : OutWf (openStep s) := by
  unfold openStep
  split
  · split
    · rename_i hu
      exact takeInput_wf (by exact h) _ _ hu
    · exact agendaStep_wf h
  · exact agendaStep_wf h

theorem closeStep_wf (h : s.mem.wf = true) : OutWf (closeStep s) := by
  unfold closeStep
  split
  · rename_i hu
    exact optWf_orElse (unitFirst_wf h 8) (firstNext_wf h _) _ hu
  · rwa [OutWf, tick_mem]

theorem step_wf (h : s.mem.wf = true) : OutWf (step s) := by
  unfold step
  split
  · exact openStep_wf h
  · exact ccSlot_wf h
  · exact closeStep_wf h

/-- Settles O45: memory is written through `writeN`, `free` and `copy` alone, each of which keeps the canonical form, or is
emptied; so every instruction, every event and every part of a step keeps it. -/
theorem stepKeepsMemoryCanonical : Obligations.StepKeepsMemoryCanonical := by
  unfold Obligations.StepKeepsMemoryCanonical
  intro s t h hx
  have hs := step_wf h
  rw [hx] at hs
  exact hs

end Sys2Proof.Machine
end

section
/-! The operations of the vector engine on values: element operations, sums, selections and scans (R225 to R235, R239 to R241). -/

namespace Sys2Proof.Machine

/-! ## Signed readings and pieces of a list -/

theorem sgn_toNat {w : Nat} (x : BitVec w) (hw : 0 < w) : sgn x.toNat w = x.toInt := by
  have h : 2 ^ w = 2 * 2 ^ (w - 1) := by rw [← Nat.pow_succ', Nat.succ_eq_add_one, Nat.sub_add_cancel hw]
  unfold sgn
  dsimp only
  rw [BitVec.toInt_eq_toNat_cond, Nat.mod_eq_of_lt x.isLt]
  split <;> split <;> omega

theorem wrap_eq {w : Nat} (i : Int) : wrap i w = (BitVec.ofInt w i).toNat := (BitVec.toNat_ofInt i).symm

theorem chunksAux_getD {α : Type} {g : Nat} (hg : 0 < g) (k f : Nat) (l : List α) (h : l.length ≤ f) :
    (chunksAux g f l).getD k [] = (l.drop (g * k)).take g := by
  induction f generalizing l k with
  | zero =>
    obtain rfl : l = [] := List.length_eq_zero_iff.mp (Nat.le_zero.mp h)
    simp [chunksAux]
  | succ f ih =>
    cases l with
    | nil => simp [chunksAux]
    | cons x t =>
      cases k with
      | zero => simp [chunksAux]
      | succ k =>
        rw [chunksAux, List.getD_cons_succ, ih, List.drop_drop, Nat.mul_succ, Nat.add_comm]
        · rw [List.length_drop]
          rw [List.length_cons] at h ⊢
          omega
        · intro hc
          cases hc

theorem chunks_getD {α : Type} {g : Nat} (hg : 0 < g) (k : Nat) (l : List α) : (chunks g l).getD k [] = (l.drop (g * k)).take g :=
  chunksAux_getD hg k _ l (Nat.le_refl _)

/-! ## Element operations (R227, R229) -/

theorem chainValue_single {ch : Chain} {o : ChainOp} (src : List Nat) (i : Nat) (h : ch.ops = [o]) (hout : ch.out = o.dst) (hd : o.dst < 8) :
    chainValue ch src i = elemOp o.code o.rm (chainSel src i ch.consts (List.replicate 8 0) o.x)
      (chainSel src i ch.consts (List.replicate 8 0) o.y) (chainSel src i ch.consts (List.replicate 8 0) o.z) := by
  unfold chainValue
  rw [h, hout, List.foldl_cons, List.foldl_nil, nth_setNth _ (by simpa using hd), if_pos rfl]

theorem ite_toNat {c : Prop} [Decidable c] (x y : BitVec 32) : (if c then x.toNat else y.toNat) = (if c then x else y).toNat := by
  split <;> rfl

theorem elemOp_sub (rm x y z : Nat) : elemOp 38 rm x y z = (x + 2 ^ 32 - y) % 2 ^ 32 := by simp [elemOp]

theorem elemOp_spec (rm z : Nat) (x y : BitVec 32) :
    let r (code : Nat) (v : BitVec 32) : Prop := elemOp code rm x.toNat y.toNat z = v.toNat
    let flag (code : Nat) (b : Bool) : Prop := elemOp code rm x.toNat y.toNat z = if b then 1 else 0
    r 37 (x + y) ∧ r 38 (x - y) ∧ r 39 (x * y) ∧ r 41 (if y.slt x then y else x) ∧ r 42 (if x.slt y then y else x) ∧
    r 43 (if y.ult x then y else x) ∧ r 44 (if x.ult y then y else x) ∧ r 45 (x &&& y) ∧ r 46 (x ||| y) ∧ r 47 (x ^^^ y) ∧
    r 48 (x <<< (y.toNat % 32)) ∧ r 49 (x >>> (y.toNat % 32)) ∧ r 50 (x.sshiftRight (y.toNat % 32)) ∧ r 55 (-x) ∧
    flag 51 (x == y) ∧ flag 52 (x.slt y) ∧ flag 53 (x.ult y) ∧
    elemOp 58 rm x.toNat y.toNat z = (if x = 0 then z else y.toNat) := by
  have hx := sgn_toNat x (by decide)
  have hy := sgn_toNat y (by decide)
  refine ⟨?_, ?_, ?_, ?_, ?_, ?_, ?_, ?_, ?_, ?_, ?_, ?_, ?_, ?_, ?_, ?_, ?_, ?_⟩
  · exact (BitVec.toNat_add x y).symm
  · show elemOp 38 rm x.toNat y.toNat z = (x - y).toNat
    rw [elemOp_sub, BitVec.toNat_sub]
    have := y.isLt
    congr 1
    omega
  · exact (BitVec.toNat_mul x y).symm
  · show (if sgn y.toNat 32 < sgn x.toNat 32 then y.toNat else x.toNat) = _
    rw [hx, hy, ite_toNat]
    simp only [BitVec.slt_iff_toInt_lt]
  · show (if sgn x.toNat 32 < sgn y.toNat 32 then y.toNat else x.toNat) = _
    rw [hx, hy, ite_toNat]
    simp only [BitVec.slt_iff_toInt_lt]
  · show min x.toNat y.toNat = _
    rw [Nat.min_def, ← ite_toNat]
    simp only [BitVec.ult_iff_lt, BitVec.lt_def]
    split <;> split <;> omega
  · show max x.toNat y.toNat = _
    rw [Nat.max_def, ← ite_toNat]
    simp only [BitVec.ult_iff_lt, BitVec.lt_def]
    split <;> split <;> omega
  · exact (BitVec.toNat_and x y).symm
  · exact (BitVec.toNat_or x y).symm
  · exact (BitVec.toNat_xor x y).symm
  · show x.toNat * 2 ^ (y.toNat % 32) % 2 ^ 32 = _
    rw [BitVec.toNat_shiftLeft, Nat.shiftLeft_eq]
  · show x.toNat / 2 ^ (y.toNat % 32) = _
    rw [BitVec.toNat_ushiftRight, Nat.shiftRight_eq_div_pow]
  · show wrap (sgn x.toNat 32 / (2 ^ (y.toNat % 32) : Nat)) 32 = _
    rw [hx, wrap_eq, ← Int.shiftRight_eq_div_pow]
    rfl
  · show wrap (-sgn x.toNat 32) 32 = _
    rw [hx, wrap_eq, BitVec.ofInt_neg, BitVec.ofInt_toInt]
  · show b2n (x.toNat == y.toNat) = if x == y then 1 else 0
    have h : (x.toNat == y.toNat) = (x == y) := by
      rw [Bool.eq_iff_iff, beq_iff_eq, beq_iff_eq, BitVec.toNat_inj]
    rw [h]
    rfl
  · show b2n (decide (sgn x.toNat 32 < sgn y.toNat 32)) = _
    rw [hx, hy]
    rfl
  · rfl
  · show (if x.toNat ≠ 0 then y.toNat else z) = _
    have h : x.toNat = 0 ↔ x = 0 := BitVec.toNat_inj (y := 0)
    simp only [ne_eq, ite_not, h]

/-! ## Sums by the tree of pairs (R88) -/

theorem length_pairSums (l : List Nat) : (pairSums l).length = (l.length + 1) / 2 := by
  induction l using pairSums.induct with
  | case1 a b t ih =>
    rw [pairSums, List.length_cons, ih, List.length_cons, List.length_cons]
    omega
  | case2 l h =>
    rw [pairSums]
    · match l with
      | [] => rfl
      | [x] => simp
      | a :: b :: t => exact absurd rfl (h a b t)
    · exact h

theorem nth_pairSums (l : List Nat) (i : Nat) : nth (pairSums l) i =
    if 2 * i + 1 < l.length then faddBits 2 0 (nth l (2 * i)) (nth l (2 * i + 1)) else nth l (2 * i) := by
  induction l using pairSums.induct generalizing i with
  | case1 a b t ih =>
    rw [pairSums]
    cases i with
    | zero => simp [nth]
    | succ i =>
      have hn : nth (faddBits 2 0 a b :: pairSums t) (i + 1) = nth (pairSums t) i := rfl
      have h0 : nth (a :: b :: t) (2 * (i + 1)) = nth t (2 * i) := rfl
      have h1 : nth (a :: b :: t) (2 * (i + 1) + 1) = nth t (2 * i + 1) := rfl
      have hl : 2 * (i + 1) + 1 < (a :: b :: t).length ↔ 2 * i + 1 < t.length := by
        rw [List.length_cons, List.length_cons]
        omega
      rw [hn, ih, h0, h1]
      simp only [hl]
  | case2 l h =>
    rw [pairSums]
    · match l with
      | [] => cases i <;> rfl
      | [x] =>
        cases i with
        | zero => rfl
        | succ i => rw [if_neg (by simp)]; simp [nth]
      | a :: b :: t => exact absurd rfl (h a b t)
    · exact h

theorem treeSum_fuel (f g : Nat) (l : List Nat) (hf : l.length ≤ f) (hg : l.length ≤ g) : treeSum f l = treeSum g l := by
  induction f generalizing g l with
  | zero =>
    obtain rfl : l = [] := List.length_eq_zero_iff.mp (Nat.le_zero.mp hf)
    cases g <;> rfl
  | succ f ih =>
    match l, g with
    | [], 0 => rfl
    | [], g + 1 => rfl
    | [x], g + 1 => rfl
    | a :: b :: t, g + 1 =>
      have hl := length_pairSums (a :: b :: t)
      simp only [List.length_cons] at hl hf hg
      exact ih g _ (by omega) (by omega)

theorem treeSum_step {l : List Nat} (h : 2 ≤ l.length) : treeSum l.length l = treeSum (pairSums l).length (pairSums l) := by
  match l with
  | [] => cases h
  | [x] => simp at h
  | a :: b :: t =>
    have hl := length_pairSums (a :: b :: t)
    have hf : (pairSums (a :: b :: t)).length ≤ (b :: t).length := by
      simp only [List.length_cons] at hl ⊢
      omega
    exact treeSum_fuel _ _ (pairSums (a :: b :: t)) hf (Nat.le_refl _)

/-! ## Reductions and selections (R231, R73) -/

theorem foldl_add_int {α : Type} (l : List α) (f : α → Int) (x : Int) : l.foldl (fun a v => a + f v) x = x + (l.map f).sum := by
  induction l generalizing x with
  | nil => simp
  | cons y t ih => rw [List.foldl_cons, ih, List.map_cons, List.sum_cons, Int.add_assoc]

theorem redValue_spec (fmt ofmt rm : Nat) (l : List Nat) :
    (elemType fmt = 2 → redValue 0 fmt ofmt rm l = enc32 ofmt rm 2 (treeSum l.length l) ∧
      redValue 5 fmt ofmt rm l = enc32 ofmt rm 2 (treeSum l.length (l.map (fun x => fmulBits 2 0 x x)))) ∧
    (elemType fmt = 0x0A → redValue 0 fmt ofmt rm l = encodeFmt ofmt rm (.fin (.int (l.map (fun v => sgn v 32)).sum) none) ∧
      redValue 5 fmt ofmt rm l = encodeFmt ofmt rm (.fin (.int (l.map (fun v => sgn v 32 * sgn v 32)).sum) none)) ∧
    (elemType fmt = 0x0E → redValue 0 fmt ofmt rm l = encodeFmt ofmt rm (.fin (.int (l.map (fun v => (v : Int))).sum) none)) := by
  refine ⟨fun h => ?_, fun h => ?_, fun h => ?_⟩
  · simp [redValue, h]
  · have hs : ∀ g : Int → Int, (l.foldl (fun (a : Int) v => a + g (sgn v 32)) 0) = (l.map (fun v => g (sgn v 32))).sum :=
      fun g => by rw [foldl_add_int l (fun v => g (sgn v 32)), Int.zero_add]
    have h0 := hs id
    have h5 := hs fun i => i * i
    dsimp only [id] at h0 h5
    simp [redValue, h, typeInt, h0, h5]
  · have h0 := foldl_add_int l (fun v => (v : Int)) 0
    rw [Int.zero_add] at h0
    simp [redValue, h, typeInt, h0, List.map_eq_flatMap]

theorem argSelect_nan {t : Nat} {top : Bool} {l : List Nat} {y i : Nat} (h : l[i]? = some y) (hy : decodeFmt t y = .nan)
    (hj : ∀ j z, j < i → l[j]? = some z → decodeFmt t z ≠ .nan) : argSelect t top l = (canonNaN 2, i) := by
  have hf : l.zipIdx.find? (fun x => decodeFmt t x.1 == .nan) = some (y, i) := by
    obtain ⟨hi, rfl⟩ := List.getElem?_eq_some_iff.mp h
    rw [List.find?_eq_some_iff_getElem]
    refine ⟨beq_iff_eq.mpr hy, i, by simpa using hi, by simp, fun j hji => ?_⟩
    have hjl := Nat.lt_trans hji hi
    have hn := hj j l[j] hji (List.getElem?_eq_getElem hjl)
    simpa using hn
  rw [argSelect, hf]

theorem argSelect_numbers {t : Nat} {top : Bool} {l : List Nat} (h : ∀ y, y ∈ l → decodeFmt t y ≠ .nan) : argSelect t top l =
    l.zipIdx.foldl (fun b x => if better t top x.1 b.1 then x else b) (nth l 0, 0) := by
  have hf : l.zipIdx.find? (fun x => decodeFmt t x.1 == .nan) = none := by
    rw [List.find?_eq_none]
    intro x hx
    rw [beq_iff_eq]
    exact h _ (List.fst_mem_of_mem_zipIdx hx)
  rw [argSelect, hf]

theorem argSelect_append {t : Nat} {top : Bool} {l : List Nat} {x : Nat} (hl : l ≠ []) (hx : decodeFmt t x ≠ .nan)
    (h : ∀ y, y ∈ l → decodeFmt t y ≠ .nan) : argSelect t top [x] = (x, 0) ∧
      argSelect t top (l ++ [x]) = if better t top x (argSelect t top l).1 then (x, l.length) else argSelect t top l := by
  have hlx : ∀ y, y ∈ l ++ [x] → decodeFmt t y ≠ .nan := by
    intro y hy
    rcases List.mem_append.mp hy with hy | hy
    · exact h y hy
    · exact List.mem_singleton.mp hy ▸ hx
  refine ⟨?_, ?_⟩
  · rw [argSelect_numbers fun y hy => List.mem_singleton.mp hy ▸ hx]
    show (if better t top x x then ((x, 0) : Nat × Nat) else (x, 0)) = _
    rw [ite_self]
  · have h0 : nth (l ++ [x]) 0 = nth l 0 := by
      cases l with
      | nil => exact absurd rfl hl
      | cons a t => rfl
    rw [argSelect_numbers hlx, argSelect_numbers h, h0, List.zipIdx_append, List.foldl_append, Nat.zero_add]
    rfl

/-! ## Scans (R232) -/

/-- The running value of a scan after an element x, acc standing before it in its group. -/
def scanNext (fn t : Nat) (acc : Option Nat) (x : Nat) : Nat :=
  let x' := if t = 2 then x else wrap (typeInt t x) 128
  match acc with
  | none => if t = 2 ∧ fn = 1 then canonical 2 x else x'
  | some a =>
    if t = 2 then (if fn = 0 then faddBits 2 0 a x else fminmax 2 true a x)
    else if fn = 0 then wrap (sgn a 128 + sgn x' 128) 128 else (if sgn a 128 < sgn x' 128 then x' else a)

/-- The value of a running value. -/
def scanWide (fn t a : Nat) : FV := if t = 2 then decodeFmt 2 a else .fin (.int (sgn a 128)) (if fn = 0 then none else some false)

/-- What stands before the first element of a group. -/
def scanFirst (fn : Nat) : FV := if fn = 0 then .fin (.int 0) (some false) else .inf true

/-- The output at an element, acc standing before it in its group and n after it. -/
def scanOut (fn t : Nat) (excl : Bool) (fmt rm : Nat) (acc : Option Nat) (n : Nat) : Nat :=
  if excl then encodeFmt fmt rm (match acc with | none => scanFirst fn | some a => scanWide fn t a) else encodeFmt fmt rm (scanWide fn t n)

theorem scanOuts_cons (fn t g : Nat) (excl : Bool) (fmt rm i : Nat) (acc : Option Nat) (x : Nat) (l : List Nat) :
    let c := if i % g = 0 then none else acc
    (scanOuts fn t g excl fmt rm i acc (x :: l)).1 = scanOut fn t excl fmt rm c (scanNext fn t c x) ::
      (scanOuts fn t g excl fmt rm (i + 1) (some (scanNext fn t c x)) l).1 := by
  intro c
  rw [scanOuts]
  refine congrArg (· :: _) ?_
  unfold scanOut
  cases excl
  · rfl
  · show (match c with | none => _ | some a => _) = encodeFmt fmt rm (match c with | none => _ | some a => _)
    unfold scanFirst
    cases c with
    | none => exact (apply_ite (encodeFmt fmt rm) _ _ _).symm
    | some a => rfl

/-- What stands before element i + j of a scan whose running values are v and which reaches element i with acc. -/
def scanBefore (g : Nat) (v : Nat → Nat) (i : Nat) (acc : Option Nat) (j : Nat) : Option Nat :=
  if (i + j) % g = 0 then none else if j = 0 then acc else some (v (i + j - 1))

theorem scanBefore_succ (g : Nat) (v : Nat → Nat) (i : Nat) (acc : Option Nat) (j : Nat) :
    scanBefore g v i acc (j + 1) = scanBefore g v (i + 1) (some (v i)) j := by
  unfold scanBefore
  rw [show i + (j + 1) = i + 1 + j by omega, if_neg (Nat.succ_ne_zero j)]
  congr 1
  split
  · rename_i hj
    subst hj
    rfl
  · rfl

theorem scanBefore_start (g : Nat) (v : Nat → Nat) (j : Nat) :
    scanBefore g v 0 none j = if j % g = 0 then none else some (v (j - 1)) := by
  unfold scanBefore
  rw [Nat.zero_add]
  by_cases hj : j = 0
  · subst hj
    rw [if_pos (Nat.zero_mod g), if_pos (Nat.zero_mod g)]
  · rw [if_neg hj]

/-- The outputs of a scan whose running values are v, from element i on. -/
theorem nth_scanOuts (fn t g : Nat) (excl : Bool) (fmt rm : Nat) (v : Nat → Nat) (l : List Nat) (i : Nat) (acc : Option Nat)
    (hv : ∀ j, j < l.length → v (i + j) = scanNext fn t (scanBefore g v i acc j) (nth l j)) (j : Nat) (hj : j < l.length) :
    nth (scanOuts fn t g excl fmt rm i acc l).1 j = scanOut fn t excl fmt rm (scanBefore g v i acc j) (v (i + j)) := by
  induction l generalizing i acc j with
  | nil => cases hj
  | cons x l ih =>
    have h0 : v i = scanNext fn t (if i % g = 0 then none else acc) x := hv 0 (Nat.succ_pos _)
    rw [scanOuts_cons, ← h0]
    cases j with
    | zero => rfl
    | succ j =>
      have hi : ∀ k, i + (k + 1) = i + 1 + k := fun k => by omega
      rw [scanBefore_succ, hi j]
      refine ih (i + 1) (some (v i)) (fun k hk => ?_) j (Nat.lt_of_succ_lt_succ hj)
      have hk := hv (k + 1) (Nat.succ_lt_succ hk)
      rw [scanBefore_succ, hi k] at hk
      exact hk

/-- The outputs of a whole scan whose running values are v. -/
theorem nth_scan {fn t g : Nat} {excl : Bool} {fmt rm : Nat} {v : Nat → Nat} {l : List Nat}
    (hv : ∀ j, j < l.length → v j = scanNext fn t (if j % g = 0 then none else some (v (j - 1))) (nth l j)) {j : Nat} (hj : j < l.length) :
    nth (scanOuts fn t g excl fmt rm 0 none l).1 j =
      scanOut fn t excl fmt rm (if j % g = 0 then none else some (v (j - 1))) (v j) := by
  have h := nth_scanOuts fn t g excl fmt rm v l 0 none (fun k hk => by rw [scanBefore_start, Nat.zero_add]; exact hv k hk) j hj
  rwa [scanBefore_start, Nat.zero_add] at h

theorem scan_floats (g fmt rm : Nat) (l a : List Nat) :
    let before (i : Nat) : Nat := nth a (i - 1)
    let out (fn : Nat) (excl : Bool) (i : Nat) : Nat := nth (scanOuts fn 2 g excl fmt rm 0 none l).1 i
    ((∀ i, i < l.length → nth a i = if i % g = 0 then nth l i else faddBits 2 0 (before i) (nth l i)) →
      ∀ i, i < l.length → out 0 false i = encodeFmt fmt rm (decodeFmt 2 (nth a i)) ∧
        out 0 true i = encodeFmt fmt rm (if i % g = 0 then .fin (.int 0) (some false) else decodeFmt 2 (before i))) ∧
    ((∀ i, i < l.length → nth a i = if i % g = 0 then canonical 2 (nth l i) else fminmax 2 true (before i) (nth l i)) →
      ∀ i, i < l.length → out 1 false i = encodeFmt fmt rm (decodeFmt 2 (nth a i)) ∧
        out 1 true i = encodeFmt fmt rm (if i % g = 0 then .inf true else decodeFmt 2 (before i))) := by
  refine ⟨fun h i hi => ?_, fun h i hi => ?_⟩
  · have hv : ∀ j, j < l.length → nth a j = scanNext 0 2 (if j % g = 0 then none else some (nth a (j - 1))) (nth l j) := by
      intro j hj
      rw [h j hj]
      split <;> rfl
    refine ⟨nth_scan hv hi, (nth_scan hv hi).trans ?_⟩
    split <;> rfl
  · have hv : ∀ j, j < l.length → nth a j = scanNext 1 2 (if j % g = 0 then none else some (nth a (j - 1))) (nth l j) := by
      intro j hj
      rw [h j hj]
      split <;> rfl
    refine ⟨nth_scan hv hi, (nth_scan hv hi).trans ?_⟩
    split <;> rfl

theorem sgn_wrap {i : Int} (h : -2 ^ 127 ≤ i) (h' : i < 2 ^ 127) : sgn (wrap i 128) 128 = i := by
  rw [wrap_eq, sgn_toNat _ (by decide), BitVec.toInt_ofInt]
  exact Int.bmod_eq_of_le (by omega) (by omega)

theorem typeInt_bound {t x : Nat} (h : x < 2 ^ 32) : -2 ^ 32 ≤ typeInt t x ∧ typeInt t x < 2 ^ 32 := by
  unfold typeInt sgn
  dsimp only
  split
  · split <;> omega
  · omega

theorem nth_bound {l : List Nat} {b : Nat} (hb : 0 < b) (h : ∀ x, x ∈ l → x < b) (i : Nat) : nth l i < b := by
  unfold nth
  rw [List.getD_eq_getElem?_getD]
  cases hx : l[i]? with
  | none => exact hb
  | some x => exact h x (List.mem_of_getElem? hx)

/-- The running values of an exact scan stay small. -/
theorem scan_bounded {g n : Nat} {v a : Nat → Int} {op : Int → Int → Int} (hop : ∀ x y b c : Int, -b ≤ x → x ≤ b → -c ≤ y → y ≤ c →
    0 ≤ b → 0 ≤ c → -(b + c) ≤ op x y ∧ op x y ≤ b + c) (hv : ∀ i, -2 ^ 32 ≤ v i ∧ v i < 2 ^ 32)
    (ha : ∀ i, i < n → a i = if i % g = 0 then v i else op (a (i - 1)) (v i)) (i : Nat) (hi : i < n) :
    -(2 ^ 32 * (i + 1 : Int)) ≤ a i ∧ a i ≤ 2 ^ 32 * (i + 1 : Int) := by
  induction i with
  | zero =>
    have h := hv 0
    rw [ha 0 hi, if_pos (Nat.zero_mod g)]
    omega
  | succ i ih =>
    obtain ⟨hl, hu⟩ := ih (by omega)
    have h := hv (i + 1)
    rw [ha _ hi]
    split
    · push_cast
      omega
    · have ho := hop (a i) (v (i + 1)) (2 ^ 32 * (i + 1 : Int)) (2 ^ 32) hl hu (by omega) (by omega) (by omega) (by omega)
      push_cast
      show _ ≤ op (a i) _ ∧ op (a i) _ ≤ _
      omega

theorem scan_integers (g fmt rm t : Nat) (l : List Nat) (a : Nat → Int) (hn : l.length ≤ 2 ^ 32) (hl : ∀ x, x ∈ l → x < 2 ^ 32)
    (ht : t ≠ 2) :
    let v (i : Nat) : Int := if t = 0x0A then sgn (nth l i) 32 else nth l i
    let out (fn : Nat) (excl : Bool) (i : Nat) : Nat := nth (scanOuts fn t g excl fmt rm 0 none l).1 i
    ((∀ i, i < l.length → a i = if i % g = 0 then v i else a (i - 1) + v i) →
      ∀ i, i < l.length → out 0 false i = encodeFmt fmt rm (.fin (.int (a i)) none) ∧
        out 0 true i = encodeFmt fmt rm (if i % g = 0 then .fin (.int 0) (some false) else .fin (.int (a (i - 1))) none)) ∧
    ((∀ i, i < l.length → a i = if i % g = 0 then v i else max (a (i - 1)) (v i)) →
      ∀ i, i < l.length → out 1 false i = encodeFmt fmt rm (.fin (.int (a i)) (some false)) ∧
        out 1 true i = encodeFmt fmt rm (if i % g = 0 then .inf true else .fin (.int (a (i - 1))) (some false))) := by
  intro v out
  have hb : ∀ i, -2 ^ 32 ≤ v i ∧ v i < 2 ^ 32 := fun i => typeInt_bound (t := t) (nth_bound (by decide) hl i)
  have hv : ∀ i, sgn (wrap (v i) 128) 128 = v i := fun i => sgn_wrap (by have := hb i; omega) (by have := hb i; omega)
  refine ⟨fun h i hi => ?_, fun h i hi => ?_⟩
  · have hs := scan_bounded (op := (· + ·)) (fun x y b c _ _ _ _ _ _ => ⟨by omega, by omega⟩) hb h
    have hw : ∀ j, j < l.length → sgn (wrap (a j) 128) 128 = a j := fun j hj =>
      sgn_wrap (by have := hs j hj; omega) (by have := hs j hj; omega)
    have hr : ∀ j, j < l.length → wrap (a j) 128 = scanNext 0 t (if j % g = 0 then none else some (wrap (a (j - 1)) 128)) (nth l j) := by
      intro j hj
      rw [h j hj]
      split
      · simp only [scanNext, ht, false_and, if_false]
        rfl
      · have hj1 := hw (j - 1) (by omega)
        simp only [scanNext, ht, if_false, if_true, hj1]
        rw [show sgn (wrap (typeInt t (nth l j)) 128) 128 = v j from hv j]
    refine ⟨(nth_scan hr hi).trans ?_, (nth_scan hr hi).trans ?_⟩
    · simp only [scanOut, scanWide, ht, if_false, if_true, hw i hi, Bool.false_eq_true]
    · have hj1 := hw (i - 1) (by omega)
      split <;> simp only [scanOut, scanWide, scanFirst, ht, if_false, if_true, hj1]
  · have hs := scan_bounded (op := max) (fun x y b c _ _ _ _ _ _ => ⟨by omega, by omega⟩) hb h
    have hw : ∀ j, j < l.length → sgn (wrap (a j) 128) 128 = a j := fun j hj =>
      sgn_wrap (by have := hs j hj; omega) (by have := hs j hj; omega)
    have hr : ∀ j, j < l.length → wrap (a j) 128 = scanNext 1 t (if j % g = 0 then none else some (wrap (a (j - 1)) 128)) (nth l j) := by
      intro j hj
      rw [h j hj]
      split
      · simp only [scanNext, ht, false_and, if_false]
        rfl
      · have hj1 := hw (j - 1) (by omega)
        simp only [scanNext, ht, if_false, hj1, Nat.one_ne_zero]
        rw [show sgn (wrap (typeInt t (nth l j)) 128) 128 = v j from hv j]
        rcases lt_trichotomy (a (j - 1)) (v j) with hc | hc | hc
        · rw [Int.max_eq_right (Int.le_of_lt hc), if_pos hc]
          rfl
        · rw [hc, Int.max_self, if_neg (Int.lt_irrefl _)]
        · rw [Int.max_eq_left (Int.le_of_lt hc), if_neg (Int.not_lt.mpr (Int.le_of_lt hc))]
    refine ⟨(nth_scan hr hi).trans ?_, (nth_scan hr hi).trans ?_⟩
    · simp only [scanOut, scanWide, ht, if_false, hw i hi, Bool.false_eq_true, Nat.one_ne_zero]
    · have hj1 := hw (i - 1) (by omega)
      split <;> simp only [scanOut, scanWide, scanFirst, ht, if_false, if_true, hj1, Nat.one_ne_zero]

/-! ## Combines and products (R233, R234) -/

theorem scatValue_spec (fmt rm type old v : Nat) : let o := decodeFmt fmt old
    let x := decodeFmt type v
    scatValue 0 rm fmt old type v = encodeFmt fmt rm x ∧ scatValue 1 rm fmt old type v = encodeFmt fmt rm (.sum [o, x]) ∧
    scatValue 3 rm fmt old type v = encodeFmt fmt rm (o.mul x) ∧
    (∀ k, o.cmp x = some k → scatValue 2 rm fmt old type v = if k < 0 then encodeFmt fmt rm x else old) := by
  refine ⟨rfl, rfl, rfl, fun k hk => ?_⟩
  show (match (decodeFmt fmt old).cmp (decodeFmt type v) with | none => _ | some c => _) = _
  rw [hk]

theorem foldl_ok {β : Type} {g : Except Cause β → Nat → Except Cause β} {n : Nat} {q : Nat → β}
    (h : ∀ i, i < n → g (.ok (q i)) i = .ok (q (i + 1))) : (List.range n).foldl g (.ok (q 0)) = .ok (q n) := by
  induction n with
  | zero => rfl
  | succ n ih =>
    rw [List.range_succ, List.foldl_append, ih fun i hi => h i (Nat.lt_succ_of_lt hi)]
    exact h n (Nat.lt_succ_self n)

theorem satInt_word (p : Int) : satInt true 32 p = max (-2 ^ 31) (min (2 ^ 31 - 1) p) := by
  show (if p < -(2 ^ (32 - 1) : Nat) then (-(2 ^ (32 - 1) : Nat) : Int) else if (2 ^ (32 - 1) : Nat) - 1 < p then ((2 ^ (32 - 1) : Nat) - 1 : Int) else p) = _
  split
  · omega
  · split <;> omega

/-- The product of weight element n with element i of B, of formats without blocks. -/
def dotTerm (s : State) (key : Nat) (a b : Region) (n i : Nat) : Int :=
  sgn (elemBits s key [] a.fmt a.base (a.elem s key n)) 8 * sgn (elemBits s key [] b.fmt b.base (b.elem s key i)) 8

theorem dotSum_plain {s : State} {key : Nat} {a b : Region} (h : fmtBlock a.fmt = false) (k j : Nat) :
    dotSum s key [] a b k j 0 k = .ok ((List.range k).map (fun i => dotTerm s key a b (j * k + i) i)).sum := by
  refine foldl_ok (q := fun n => ((List.range n).map (fun i => dotTerm s key a b (j * k + i) i)).sum) fun i _ => ?_
  simp only [h, Nat.zero_add, Nat.add_zero, Bool.false_eq_true, if_false, List.range_succ, List.map_append, List.sum_append, List.map_cons,
    List.map_nil, List.sum_cons, List.sum_nil, Int.add_zero]
  rfl

theorem dotOut_plain {s : State} {key : Nat} {a b : Region} (h : fmtBlock a.fmt = false) (k j sb : Nat) :
    let x (i : Nat) : Int := sgn (elemBits s key [] a.fmt a.base (a.elem s key (j * k + i))) 8
    let y (i : Nat) : Int := sgn (elemBits s key [] b.fmt b.base (b.elem s key i)) 8
    let p := ((List.range k).map (fun i => x i * y i)).sum
    dotOut s key [] 0 a b k j 0 none = .ok (.fin (.int (max (-2 ^ 31) (min (2 ^ 31 - 1) p))) none) ∧
    (sb ≠ 0 → dotOut s key [] 0 a b k j sb none = .ok (decodeFmt 2 (encodeFmt 2 0 ((FV.fin (.int p) none).mul (decodeFmt 2 sb))))) := by
  intro x y p
  have hp : dotSum s key [] a b k j 0 k = .ok p := dotSum_plain h k j
  refine ⟨?_, fun hs => ?_⟩
  · simp only [dotOut, if_true, hp, and_self, satInt_word, intFV]
  · simp only [dotOut, if_true, hp, hs, false_and, if_false, intFV]

theorem dotOut_blocks {s : State} {key fn : Nat} {a b : Region} {k j sb : Nat} {p : Nat → Int} {q : Nat → Nat} (hf : fn ≠ 0) (hs : sb ≠ 0)
    (h0 : q 0 = 0) (h : ∀ i, i < ceilDiv k (fmtL a.fmt) →
      dotSum s key [] a b k j (i * fmtL a.fmt) (min k (i * fmtL a.fmt + fmtL a.fmt)) = .ok (p i) ∧
      q (i + 1) = faddBits 2 0 (q i) (encodeFmt 2 0 (((FV.fin (.int (p i)) none).mul (decodeFmt 4
        (leNat (fetchPlace s key (blockPlace s a.fmt a.base (a.elem s key (j * k + i * fmtL a.fmt) / fmtL a.fmt)).2 2)))).mul
          (decodeFmt 2 sb)))) :
    dotOut s key [] fn a b k j sb none = .ok (decodeFmt 2 (q (ceilDiv k (fmtL a.fmt)))) := by
  have e : (.ok 0 : Except Cause Nat) = .ok (q 0) := by rw [h0]
  unfold dotOut
  dsimp only
  rw [if_neg hf, e, foldl_ok (q := q) fun i hi => ?_]
  · rfl
  · obtain ⟨hp, hq⟩ := h i hi
    have hp' : dotSum s key [] a b k j (i * fmtL a.fmt) (Nat.min k (i * fmtL a.fmt + fmtL a.fmt)) = .ok (p i) := hp
    rw [hp', hq]
    simp only [hs, if_false, intFV]
    rfl

/-! ## The network of VPERM (R235) -/

/-- A pair of positions exchanged. -/
def swapped (v : List Nat) (i j : Nat) : List Nat := setNth (setNth v i (nth v j)) j (nth v i)

theorem swapped_perm {v : List Nat} {i j : Nat} (hi : i < v.length) (hj : j < v.length) : (swapped v i j).Perm v := by
  have h : swapped v i j = (v.toArray.swap i j (by simpa using hi) (by simpa using hj)).toList := by
    rw [swapped, setNth_eq_set, setNth_eq_set, nth, nth, List.getD_eq_getElem _ _ hi, List.getD_eq_getElem _ _ hj]
    simp [Array.swap_def]
  rw [h]
  exact Array.perm_iff_toList_perm.mp (Array.swap_perm _ _)

theorem stagePairs_lt {j p : Nat} (hj : j < 6) (hp : p ∈ stagePairs j) : p < 64 ∧ p + 2 ^ j < 64 := by
  have h : ∀ j, j < 6 → ∀ p, p ∈ stagePairs j → p < 64 ∧ p + 2 ^ j < 64 := by decide
  exact h j hj p hp

theorem stageBit_lt {st : Nat} (h : st < 11) : stageBit st < 6 := by
  have h' : ∀ st, st < 11 → stageBit st < 6 := by decide
  exact h' st h

theorem benes_perm (b : Nat) {v : List Nat} (hv : v.length = 64) : (benes b v).Perm v := by
  unfold benes
  refine foldl_invariant (P := fun w : List Nat => w.Perm v) _ (.refl v) fun w hw st hst => ?_
  refine foldl_invariant (P := fun w : List Nat => w.Perm v) _ hw fun w hw x hx => ?_
  split
  · obtain ⟨h1, h2⟩ := stagePairs_lt (stageBit_lt (List.mem_range.mp hst)) (List.fst_mem_of_mem_zipIdx hx)
    have hl : w.length = 64 := hw.length_eq.trans hv
    exact (swapped_perm (i := x.1) (j := x.1 + 2 ^ stageBit st) (by omega) (by omega)).trans hw
  · exact hw

theorem benes_zero (v : List Nat) : benes 0 v = v := by
  unfold benes
  refine foldl_invariant (P := fun w => w = v) _ rfl fun w hw st _ => ?_
  refine foldl_invariant (P := fun w => w = v) _ hw fun w hw x _ => ?_
  rw [if_neg]
  · exact hw
  · simp [bit]

/-! ## Searches (R239 to R241) -/

theorem pickCols_all {d : Search} (h : d.thr = false) (scores l : List Nat) (k x : Nat) : (pickCols d scores k x l).1 = l.take k := by
  induction k generalizing l x with
  | zero => rfl
  | succ k ih =>
    cases l with
    | nil => rfl
    | cons c t =>
      simp only [pickCols, h, Bool.false_eq_true, false_and, if_false, ih, List.take_succ_cons]

theorem length_admitted {cap : Nat} (h : cap ≠ 0) (x : Nat) (rows : List (List (Nat × Nat))) : (admitted cap x rows).length ≤ cap := by
  unfold admitted
  dsimp only
  rw [(sortBy_perm _ _).length_eq, if_neg h, List.length_map, List.length_take]
  exact Nat.min_le_left _ _

theorem mem_admitted {cap x r : Nat} {rows : List (List (Nat × Nat))} (h : r ∈ admitted cap x rows) : ∃ a, a ∈ rows.getD r [] ∧ a.1 = x := by
  have hs : ∀ (mine : List (Nat × Nat)) w, w ∈ (if cap = 0 then sortBy (fun a b => better 2 true a.1 b.1) mine else
      (sortBy (fun a b => better 2 true a.1 b.1) mine).take cap) → w ∈ mine := by
    intro mine w hw
    refine (sortBy_perm (fun a b => better 2 true a.1 b.1) mine).mem_iff.mp ?_
    split at hw
    · exact hw
    · exact List.mem_of_mem_take hw
  unfold admitted at h
  dsimp only at h
  rw [(sortBy_perm _ _).mem_iff] at h
  obtain ⟨w, hw, rfl⟩ := List.mem_map.mp h
  obtain ⟨⟨row, i⟩, hr, hf⟩ := List.mem_filterMap.mp (hs _ w hw)
  obtain ⟨a, ha, rfl⟩ := Option.map_eq_some_iff.mp hf
  have hi := List.mem_zipIdx_iff_getElem?.mp hr
  have hx : (a.1 == x) = true := List.find?_some (p := fun a : Nat × Nat => a.1 == x) ha
  refine ⟨a, ?_, beq_iff_eq.mp hx⟩
  have hm : a ∈ row := List.mem_of_find?_eq_some ha
  show a ∈ rows.getD i []
  rwa [List.getD_eq_getElem?_getD, show rows[i]? = some row from hi, Option.getD_some]

theorem slotBits_admitted {adm : List (List Nat)} {r x w p : Nat} (hp : (adm.getD x [])[p]? = some r)
    (h : ∀ j, j < p → (adm.getD x [])[j]? ≠ some r) :
    slotBits adm r (some (x, w)) = w + x * 2 ^ 32 + 2 ^ 40 + p * 2 ^ 48 := by
  have hf : (adm.getD x []).findIdx? (· == r) = some p := by
    obtain ⟨hl, hr⟩ := List.getElem?_eq_some_iff.mp hp
    rw [List.findIdx?_eq_some_iff_getElem]
    refine ⟨hl, beq_iff_eq.mpr hr, fun j hj => ?_⟩
    have hn := h j hj
    rw [List.getElem?_eq_getElem (Nat.lt_trans hj hl)] at hn
    simpa using hn
  simp only [slotBits, hf]

theorem slotBits_dropped {adm : List (List Nat)} {r x w : Nat} (h : r ∉ adm.getD x []) :
    slotBits adm r (some (x, w)) = w + x * 2 ^ 32 + 2 ^ 40 + 2 ^ 41 + 0xFFFF * 2 ^ 48 := by
  have hf : (adm.getD x []).findIdx? (· == r) = none := by
    rw [List.findIdx?_eq_none_iff]
    intro y hy
    rw [beq_eq_false_iff_ne]
    exact fun he => h (he ▸ hy)
  simp only [slotBits, hf]

theorem findScan_single (b i : Nat) (l : List Nat) : (findScan [b] 0 i l).2 = (l.findIdx? (· == b)).map (· + i) := by
  induction l generalizing i with
  | nil => rfl
  | cons c t ih =>
    rw [findScan, List.findIdx?_cons]
    by_cases h : b = c
    · simp [findStep, nth, h]
    · have h' : ¬ c = b := fun e => h e.symm
      simp [findStep, nth, h, h', ih, Function.comp_def, Nat.add_assoc, Nat.add_comm 1]

end Sys2Proof.Machine
end

section
/-! The queues of the engines: what leaves them as they stand, and the head entry that stops at a cause (R378 to R381). -/

namespace Sys2Proof.Machine

/-! ## What leaves every queue as it stands -/

theorem queueAt_onCore (s : State) (d : Nat) {f : Core → Core} (hf : ∀ k, (f k).queues = k.queues) (c q : Nat) :
    queueAt (onCore s d f) c q = queueAt s c q := by
  by_cases h : c = d
  · subst h
    simp [queueAt, hf]
  · simp [queueAt, coreAt_onCore_ne _ _ h]

/-- A pass that keeps the keys and what r reads of the entries. -/
theorem tabGet_map_read {α β : Type} (r : α → β) (d : α) (l : Tab α) {g : Nat × α → Nat × α} (hk : ∀ p, (g p).1 = p.1)
    (hr : ∀ p, r (g p).2 = r p.2) (i : Nat) : r (tabGet d (l.map g) i) = r (tabGet d l i) := by
  induction l with
  | nil => rfl
  | cons p t ih =>
    obtain ⟨j, v⟩ := p
    have hj := hk (j, v)
    have hv := hr (j, v)
    rcases hg : g (j, v) with ⟨j', v'⟩
    rw [hg] at hj hv
    dsimp only at hj hv
    subst hj
    rw [List.map_cons, hg, tabGet, tabGet]
    split
    · exact hv
    · split
      · rfl
      · exact ih

theorem foldl_queueAt {α : Type} {f : State → α → State} {c q : Nat} (hf : ∀ s x, queueAt (f s x) c q = queueAt s c q) (l : List α)
    (s : State) : queueAt (l.foldl f s) c q = queueAt s c q :=
  foldl_invariant (P := fun t => queueAt t c q = queueAt s c q) l rfl fun t ht x _ => (hf t x).trans ht

variable (s : State) (c q : Nat)

theorem onUnit_queueAt (n : Nat) (f : PoolUnit → PoolUnit) : queueAt (onUnit s n f) c q = queueAt s c q := rfl

theorem onJob_queueAt (j : Nat) (f : Job → Job) : queueAt (onJob s j f) c q = queueAt s c q := rfl

theorem reruns_queueAt (l : List (Task × Nat)) : queueAt { s with reruns := l } c q = queueAt s c q := rfl

theorem wakeDie_queueAt (d : Nat) : queueAt (wakeDie s d) c q = queueAt s c q := rfl

theorem setFifo_queueAt (d f : Nat) (l : List Nat) : queueAt (setFifo s d f l) c q = queueAt s c q :=
  queueAt_onCore s d (f := fun k => { k with fifos := tabPut k.fifos f l }) (fun _ => rfl) c q

theorem storeN_queueAt (l : Nat) (v : List Byte) : queueAt (storeN s l v) c q = queueAt s c q :=
  queueAt_of_cores (SameCores.storeN s l v).cores c q

theorem unpark_queueAt (a : At) : queueAt (unpark s a) c q = queueAt s c q := queueAt_of_cores (unpark_cores s a) c q

theorem dropTurn_queueAt (a : At) : queueAt (dropTurn s a) c q = queueAt s c q :=
  queueAt_onCore s a.c (f := fun k => { k with turn := if k.turn = some a.x then none else k.turn }) (fun _ => rfl) c q

theorem withdrawIf_queueAt (a : At) (f : Alloc → Bool) : queueAt (withdrawIf s a f) c q = queueAt s c q := rfl

theorem reclaim_queueAt (j cls n : Nat) : queueAt (reclaim s j cls n) c q = queueAt s c q := by
  unfold reclaim
  split <;> rfl

theorem killJob_queueAt (j code : Nat) : queueAt (killJob s j code) c q = queueAt s c q := rfl

theorem joinChild_queueAt (p : Option Nat) : queueAt (joinChild s p) c q = queueAt s c q := by
  cases p <;> rfl

theorem logStrand_cores (code level : Nat) (a : At) (a0 a1 : Nat) : (logStrand s code level a a0 a1).cores = s.cores := by
  unfold logStrand logErrorJob
  dsimp only
  split
  · rfl
  · split
    · rfl
    · rw [storeN_rest]

theorem logStrand_queueAt (code level : Nat) (a : At) (a0 a1 : Nat) : queueAt (logStrand s code level a a0 a1) c q = queueAt s c q :=
  queueAt_of_cores (logStrand_cores s code level a a0 a1) c q

theorem fenceFor_queueAt (d : Nat) (e : Cause) : queueAt (fenceFor s d e) c q = queueAt s c q := by
  unfold fenceFor
  split
  · exact queueAt_onCore s _ (f := fun k => { k with fenced := true }) (fun _ => rfl) c q
  · rfl

theorem putTile_queueAt (n : Nat) (t : Tile) : queueAt (putTile s n t) c q = queueAt s c q := rfl

theorem returnTile_queueAt (n : Nat) (t : Tile) : queueAt (returnTile s n t) c q = queueAt s c q := by
  unfold returnTile
  dsimp only
  split <;> rfl

theorem settleTile_queueAt (n : Nat) (t : Tile) : queueAt (settleTile s n t) c q = queueAt s c q := by
  grind [settleTile, returnTile_queueAt, putTile_queueAt]

theorem supersede_queueAt (d ctx h : Nat) : queueAt (supersede s d ctx h) c q = queueAt s c q := by
  grind [supersede, settleTile_queueAt]

theorem cancelDraw_queueAt (d ctx h : Nat) : queueAt (cancelDraw s d ctx h) c q = queueAt s c q := by
  grind [cancelDraw, settleTile_queueAt]

theorem settleHead_queueAt (d ctx h : Nat) : queueAt (settleHead s d ctx h) c q = queueAt s c q := by
  grind [settleHead, supersede_queueAt, onUnit_queueAt, returnTile_queueAt, reclaim_queueAt]

theorem countRun_queueAt (d ctx h : Nat) : queueAt (countRun s d ctx h) c q = queueAt s c q := by
  grind [countRun, settleTile_queueAt]

theorem dropPend_queueAt (d ctx h n : Nat) : queueAt (dropPend s d ctx h n) c q = queueAt s c q := by
  grind [dropPend, settleTile_queueAt]

theorem putHead_queueAt (n ctx h : Nat) (old : Option (Head × Nat)) (hd : Head) (k : Nat) :
    queueAt (putHead s n ctx h old hd k) c q = queueAt s c q := queueAt_of_cores (putHead_cores s n ctx h old hd k) c q

theorem dropDeferred_queueAt (d ctx : Nat) (l : List (Nat × Nat)) : queueAt (dropDeferred s d ctx l) c q = queueAt s c q :=
  foldl_queueAt (fun _ _ => dropPend_queueAt ..) l s

theorem withdrawTokens_queueAt (a : At) : queueAt (withdrawTokens s a).1 c q = queueAt s c q :=
  withdrawTokens_invariant (P := fun t => queueAt t c q = queueAt s c q) a.c
    (fun t f l ht => (setFifo_queueAt t c q a.c f l).trans ht) rfl rfl

theorem rouse_queueAt (a : At) : queueAt (rouse s a) c q = queueAt s c q := by
  grind [rouse, queueAt_onStrand, unpark_queueAt]

theorem onTasks_queueAt (p : Strand → Bool) (f : Strand → Strand) : queueAt (onTasks s p f) c q = queueAt s c q :=
  congrArg (fun l => tabGet [] l q) (tabGet_map_read Core.queues (Core.reset c) s.cores
    (g := fun k => (k.1, { k.2 with
      strands := k.2.strands.map (fun t => (t.1, if p t.2 then f t.2 else t.2))
      joins := k.2.joins.map (fun j => { j with strand := if p j.strand then f j.strand else j.strand })
      saved := k.2.saved.map (fun v => { v with
        strands := v.strands.map (fun x => { x with strand := if p x.strand then f x.strand else x.strand }) }) }))
    (fun _ => rfl) (fun _ => rfl) c)

theorem postTask_queueAt (id : Nat) (e : Event) : queueAt (postTask s id e) c q = queueAt s c q := by
  grind [postTask, onTasks_queueAt, rouse_queueAt, wakeDie_queueAt]

theorem pushRun_queueAt (job h i : Nat) (b : Sub) : queueAt (pushRun s job h i b).1 c q = queueAt s c q := by
  unfold pushRun
  dsimp only
  split
  · exact queueAt_onCore s b.core (f := fun k => { k with
      deque := ⟨b.entry, b.arg, 1, job, none, [], none, some (h, i), k.dqStamp⟩ :: k.deque
      dqStamp := k.dqStamp + 1, dqPushes := k.dqPushes + 1 }) (fun _ => rfl) c q
  · rfl

theorem fireSub_queueAt (job h i : Nat) (b : Sub) : queueAt (fireSub s job h i b).1 c q = queueAt s c q := by
  grind [fireSub, postTask_queueAt, pushRun_queueAt]

theorem endRun_queueAt (d ctx job h i tile : Nat) : queueAt (endRun s d ctx job h i tile) c q = queueAt s c q := by
  unfold endRun
  dsimp only
  split
  · split
    · rw [settleHead_queueAt, putHead_queueAt]
      refine Eq.trans ?_ (countRun_queueAt s c q d ctx tile)
      grind [cancelDraw_queueAt, fireSub_queueAt]
    · exact countRun_queueAt ..
  · exact countRun_queueAt ..

theorem refireRun_queueAt (d ctx job h i tile : Nat) : queueAt (refireRun s d ctx job h i tile) c q = queueAt s c q := by
  grind [refireRun, countRun_queueAt, putTile_queueAt, fireSub_queueAt, putHead_queueAt]

theorem closeTask_queueAt (a : At) : queueAt (closeTask s a) c q = queueAt s c q := by
  unfold closeTask
  dsimp only
  split
  · rfl
  · rename_i k _
    rw [dropTurn_queueAt, queueAt_onStrand, onJob_queueAt, joinChild_queueAt]
    split
    all_goals simp only [endRun_queueAt, unpark_queueAt, withdrawAlloc, withdrawIf_queueAt, reclaim_queueAt, withdrawTokens_queueAt, queueAt_onStrand]

/-! ## A strand whose entries are gone (R378, R386) -/

/-- No entry of a queue is the strand's. -/
def NoEntries (s : State) (a : At) (q : Nat) : Prop := ∀ f, f ∈ queueAt s a.c q → f.sx ≠ a.x

section
variable {s : State} {a : At} {q : Nat}

theorem NoEntries.of_queue {t : State} (h : NoEntries s a q) (ht : queueAt t a.c q = queueAt s a.c q) : NoEntries t a q := by
  unfold NoEntries at h ⊢
  rwa [ht]

/-- A strand's entries taken out of one queue. -/
def clearQueue (a : At) (s : State) (q : Nat) : State :=
  if (queueAt s a.c q).any (fun e => e.sx == a.x) then setQueue s a.c q ((queueAt s a.c q).filter (fun e => e.sx != a.x)) else s

theorem clearQueue_none (s : State) (a : At) (q : Nat) : NoEntries (clearQueue a s q) a q := by
  unfold clearQueue NoEntries
  split
  · intro f hf
    rw [queueAt_setQueue_same] at hf
    simpa using (List.mem_filter.mp hf).2
  · rename_i hn
    intro f hf h
    exact hn (List.any_eq_true.mpr ⟨f, hf, by simpa using h⟩)

theorem NoEntries.clearQueue (h : NoEntries s a q) (r : Nat) : NoEntries (clearQueue a s r) a q := by
  by_cases hr : q = r
  · subst hr
    exact clearQueue_none s a q
  · refine h.of_queue ?_
    unfold Machine.clearQueue
    split
    · exact queueAt_setQueue_ne _ _ (.inr hr)
    · rfl

theorem clearEntries_none (s : State) (a : At) (hq : q < 4) : NoEntries (clearEntries s a) a q := by
  have h : ∀ (l : List Nat) (s : State), q ∈ l → NoEntries (l.foldl (Machine.clearQueue a) s) a q := by
    intro l
    induction l with
    | nil =>
      intro s hm
      cases hm
    | cons r l ih =>
      intro s hm
      rcases List.mem_cons.mp hm with rfl | hm
      · exact foldl_invariant (P := fun s => NoEntries s a q) l (clearQueue_none s a q) fun t ht r _ => ht.clearQueue r
      · exact ih _ hm
  exact h [0, 1, 2, 3] s (by simp only [List.mem_cons, List.not_mem_nil, or_false]; omega)

theorem discardEntries_none (s : State) (a : At) (hq : q < 4) : NoEntries (discardEntries s a) a q := clearEntries_none _ a hq

theorem abortTask_none (s : State) (a : At) (hq : q < 4) : NoEntries (abortTask s a) a q := by
  refine (discardEntries_none s a hq).of_queue ?_
  unfold abortTask
  dsimp only
  rw [closeTask_queueAt]
  split
  · exact dropDeferred_queueAt ..
  · rfl

theorem endWith_none (s : State) (a : At) (code level a0 : Nat) (hq : q < 4) : NoEntries (endWith s a code level a0) a q :=
  (abortTask_none _ a hq).of_queue (logStrand_queueAt ..)

theorem reexecute_none (s : State) (a : At) (k : Task) (hq : q < 4) : NoEntries (reexecute s a k) a q := by
  unfold reexecute
  dsimp only
  split
  · exact (abortTask_none _ a hq).of_queue (killJob_queueAt ..)
  · refine (discardEntries_none (orphanTiles (logStrand s 0x95 1 a 0 0) a.c (ctxOf s a) k.tiles) a hq).of_queue ?_
    rw [dropTurn_queueAt, queueAt_onStrand]
    split
    · simp only [onJob_queueAt, refireRun_queueAt, unpark_queueAt, withdrawAlloc, withdrawIf_queueAt, reclaim_queueAt,
        withdrawTokens_queueAt, queueAt_onStrand, dropDeferred_queueAt]
    · rw [reruns_queueAt]
      simp only [unpark_queueAt, withdrawAlloc, withdrawIf_queueAt, reclaim_queueAt, withdrawTokens_queueAt, queueAt_onStrand,
        dropDeferred_queueAt]

theorem enterTrap_none (s : State) (a : At) (pt : PendTrap) (hq : q < 4) : NoEntries (enterTrap s a pt) a q := by
  rw [enterTrap_eq]
  exact (clearEntries_none _ a hq).of_queue ((queueAt_onStrand ..).trans (storeN_queueAt ..))

theorem takeTrap_none (s : State) (a : At) (pt : PendTrap) (hq : q < 4) : NoEntries (takeTrap s a pt) a q := by
  unfold takeTrap
  dsimp only
  split
  · exact reexecute_none s a _ hq
  · split
    · exact endWith_none s a _ _ _ hq
    · split
      · exact endWith_none s a _ _ _ hq
      · split
        · exact endWith_none s a _ _ _ hq
        · split
          · exact endWith_none _ a _ _ _ hq
          · exact enterTrap_none s a pt hq

theorem readyForTrap_queueAt (s : State) (a : At) (pt : PendTrap) (c q : Nat) : queueAt (readyForTrap s a pt) c q = queueAt s c q := by
  unfold readyForTrap
  dsimp only
  rw [queueAt_onStrand]
  split
  · exact unpark_queueAt ..
  · rfl

/-- A trap that is signalled leaves the queue as it stood, or without an entry of the strand. -/
theorem signalTrap_queue (s : State) (a : At) (pt : PendTrap) (hq : q < 4) :
    queueAt (signalTrap s a pt) a.c q = queueAt s a.c q ∨ NoEntries (signalTrap s a pt) a q := by
  have hp : ∀ u : State, queueAt u a.c q = queueAt s a.c q →
      queueAt (pendOrTake u a pt) a.c q = queueAt s a.c q ∨ NoEntries (pendOrTake u a pt) a q := by
    intro u hu
    unfold pendOrTake
    dsimp only
    split
    · exact .inl hu
    · split
      · exact .inr (takeTrap_none _ a _ hq)
      · exact .inl ((readyForTrap_queueAt ..).trans hu)
  unfold signalTrap
  refine hp _ ?_
  split
  · exact fenceFor_queueAt ..
  · split
    · exact logStrand_queueAt ..
    · rfl

end

/-- The head entry of a queue, where it is strand x's, has met a cause. -/
def Stuck (s : State) (c q x : Nat) : Prop := ∀ f, headEntry s c q = some f → f.sx = x → f.fault ≠ none

theorem NoEntries.stuck {s : State} {c q x : Nat} (h : NoEntries s ⟨c, x⟩ q) : Stuck s c q x :=
  fun f hf hx => absurd hx (h f (List.mem_of_mem_head? hf))

theorem failEntry_stuck (s : State) (c : Nat) {e : Entry} (cause : Cause) (hq : e.q < 4) : Stuck (failEntry s c e cause) c e.q e.sx := by
  rcases signalTrap_queue (putEntry (restoreTaken s e) c { forgetTaken e with fault := some cause, wait := .none }) ⟨c, e.sx⟩
    (engTrap e cause) hq with hk | hn
  · intro f hf _
    have hs : queueAt (failEntry s c e cause) c e.q =
        { forgetTaken e with fault := some cause, wait := .none } :: (queueAt (restoreTaken s e) c e.q).tail :=
      hk.trans (queueAt_setQueue_same ..)
    rw [headEntry, hs, List.head?_cons, Option.some.injEq] at hf
    rw [← hf]
    exact Option.some_ne_none cause
  · exact NoEntries.stuck hn

/-- A step that leaves the head entry at a cause completes. -/
theorem entryStep_stuck {s t : State} {c : Nat} {e : Entry} (h : Stuck t c e.q e.sx) (hf : e.fault = none) : entryStep s c e t = .next t := by
  unfold entryStep
  rw [if_neg fun hh => h e hh.1 rfl hf]

end Sys2Proof.Machine
end

section
/-! Rows of the vector engine: what an entry of one row does (R220 to R223). -/

namespace Sys2Proof.Machine

/-! ## A row of an entry that stands at its start -/

/-- The head entry of VQ, at its start, of which the next row may run and whose checks pass (R220, R223). -/
structure RowReady (s : State) (c : Nat) (e : Entry) : Prop where
  head : headEntry s c 1 = some e
  unit : e.q = 1
  start : e.prog = .start
  runs : unitMayRun s c e = true
  clean : s.poison = []
  checks : vecCheck s c e = .ok ()
  busy : vecIdle s e = false

/-- The state in which a row's writes stand and the pond granules they touch are full (R50, R223). -/
def rowStored (s : State) (key : Nat) (w : List (Place × List Byte)) : State :=
  fillWritten (putPlaces s key w) (w.map (fun x => (x.1, x.2.length))) []

/-- What a source gives the one row of n elements: its elements, or one value for all (R222). -/
def Gives (s : State) (key n : Nat) (r : Region) (v : Nat → Nat) : Prop := r.q = 0 ∧
  (if r.count s key = 1 ∧ n ≠ 1 then r.get s key [] 0 = .ok (v 0) ∧ ∀ i, v i = v 0 else ∀ i, i < n → r.get s key [] i = .ok (v i))

theorem unitMayRun_fresh {s : State} {c : Nat} {e : Entry} (h : unitMayRun s c e = true) : e.ended = false ∧ e.fault = none := by
  unfold unitMayRun at h
  dsimp only at h
  simp only [Bool.and_eq_true, Bool.not_eq_true', Option.isNone_iff_eq_none] at h
  exact ⟨h.1.1.1.2, h.1.1.2⟩

section
variable {s : State} {c : Nat} {e : Entry} (h : RowReady s c e)
include h

theorem RowReady.exec_eq : exec (.vectorRow c) s = entryStep s c e (vecStep s c e) := by
  show execVectorRow c s = _
  rw [execVectorRow, h.head]
  simp only [h.runs, Bool.not_true, Bool.false_eq_true, if_false]

theorem RowReady.row : e.prog.row = 0 := by rw [h.start]; rfl

/-- A step that ends the entry completes. -/
theorem RowReady.ends {u : State} {f : Entry} (hv : vecStep s c e = putEntry u c f) (hended : f.ended = true) (hq : f.q = e.q) :
    exec (.vectorRow c) s = .next (putEntry u c f) := by
  rw [h.exec_eq, hv, entryStep, if_neg]
  rintro ⟨hh, -⟩
  rw [headEntry, putEntry, hq, queueAt_setQueue_same, List.head?_cons, Option.some.injEq] at hh
  rw [hh, (unitMayRun_fresh h.runs).1] at hended
  cases hended

/-- A step in which the entry meets a cause completes. -/
theorem RowReady.fails {cause : Cause} (hv : vecStep s c e = failEntry s c e cause) :
    exec (.vectorRow c) s = .next (failEntry s c e cause) := by
  rw [h.exec_eq, hv, entryStep_stuck (failEntry_stuck s c cause (by rw [h.unit]; decide)) (unitMayRun_fresh h.runs).2]

end

/-- The entry at the end of its one row, p its progress and r its result. -/
def rowEnded (e : Entry) (p : Prog) (r : Option Nat) : Entry :=
  ({ e with prog := { p with row := 1, taken := [], cleared := [] }, wait := .none, waited := 0 } : Entry).finish r

theorem RowReady.works {s : State} {c : Nat} {e : Entry} (h : RowReady s c e) {u : State} {p : Prog} {r : Option Nat}
    (hv : vecStep s c e = putEntry u c (rowEnded e p r)) : WorksOn (.vectorRow c) s u c e true r fun z => z.row = 1 :=
  ⟨rowEnded e p r, h.ends hv rfl rfl, rfl, rfl, rfl, rfl, rfl, rfl, fun _ => rfl, rfl⟩

theorem rowTake_plain {later : List (Place × Nat)} {l : List (Nat × List (Place × Nat))} (hl : ∀ x, x ∈ l → x.1 = 0) (r : Took) :
    rowTake later l r = r := by
  induction l with
  | nil => rfl
  | cons x l ih =>
    obtain ⟨q, y⟩ := x
    have hq : q = 0 := hl (q, y) (.head _)
    rw [rowTake, if_pos hq, ih fun x hx => hl x (.tail _ hx)]

theorem rangesPoison_clean {s : State} (h : s.poison = []) (key : Nat) (l : List (Place × Nat)) : rangesPoison s key l = none := by
  unfold rangesPoison
  rw [h]
  rfl

/-- Later writes that are empty keep no granule from being full. -/
theorem fillWritten_idle {rest : List (Place × Nat)} (h : ∀ x, x ∈ rest → x.2 = 0) (s : State) (l : List (Place × Nat)) :
    fillWritten s l rest = fillWritten s l [] := by
  have hn : ∀ g, rest.any (fun r => touches r g) = false := by
    intro g
    rw [List.any_eq_false]
    intro x hx
    simp [touches, h x hx]
  unfold fillWritten
  simp only [hn, List.any_nil]
  rfl

theorem nextRow_ends {n : Nat} (hn : n ≤ 64) (result : Entry → Option Nat) {e : Entry} (he : e.prog.row = 0) :
    nextRow n result e = ({ e with prog := { e.prog with row := 1 } }).finish (result { e with prog := { e.prog with row := 1 } }) := by
  unfold nextRow
  dsimp only
  rw [he, if_pos (by omega)]

/-- The one row of an entry that consumes nothing: its writes w, and its progress p. -/
theorem RowReady.runs_body {s : State} {c : Nat} {e : Entry} (h : RowReady s c e) {j : RowJob} {w : List (Place × List Byte)} {p : Prog}
    (hreads : ∀ x, x ∈ j.reads → x.1 = 0) (hbody : j.body s [] .start = .ok (w, p)) (hlater : ∀ x, x ∈ j.laterWrites → x.2 = 0) :
    runRow s c e j = putEntry (rowStored s (keyOfEntry s e) w) c
      (j.next { e with prog := { p with taken := [], cleared := [] }, wait := .none, waited := 0 }) := by
  have he : { e with prog := { e.prog with taken := [], cleared := [] } } = e := by
    have hs : { e.prog with taken := [], cleared := [] } = e.prog := by rw [h.start]; rfl
    rw [hs]
  have ht : e.prog.taken = [] ∧ e.prog.cleared = [] := by rw [h.start]; exact ⟨rfl, rfl⟩
  unfold runRow
  dsimp only
  rw [rowTake_plain hreads, ht.1, ht.2]
  dsimp only
  rw [he, rangesPoison_clean h.clean]
  dsimp only
  rw [h.start, show ({ Prog.start with taken := [], cleared := [] } : Prog) = .start from rfl, hbody]
  dsimp only
  rw [fillWritten_idle hlater]
  rfl

/-- The one row of an entry that consumes nothing: its writes, and its progress p and result r at the end. -/
theorem RowReady.runs_row {s : State} {c : Nat} {e : Entry} (h : RowReady s c e) {j : RowJob} {n : Nat} {result : Entry → Option Nat}
    {w : List (Place × List Byte)} {p : Prog} {r : Option Nat} (hn : n ≤ 64) (hnext : j.next = nextRow n result)
    (hreads : ∀ x, x ∈ j.reads → x.1 = 0) (hbody : j.body s [] .start = .ok (w, p)) (hp : p.row = 0)
    (hlater : ∀ x, x ∈ j.laterWrites → x.2 = 0)
    (hr : ∀ f : Entry, f.prog.count = p.count → f.prog.red = p.red → f.prog.acc = p.acc → result f = r) :
    runRow s c e j = putEntry (rowStored s (keyOfEntry s e) w) c (rowEnded e p r) := by
  rw [h.runs_body hreads hbody hlater, hnext, nextRow_ends hn result hp]
  rw [hr _ rfl rfl rfl]
  rfl

/-! ## Elements and sources (R222) -/

theorem allOk_map {α β : Type} {f : α → Except Cause β} {g : α → β} {l : List α} (h : ∀ x, x ∈ l → f x = .ok (g x)) :
    allOk f l = .ok (l.map g) := by
  induction l with
  | nil => rfl
  | cons x l ih =>
    rw [allOk, h x (.head _), ih fun y hy => h y (.tail _ hy)]
    rfl

theorem allOk_range {β : Type} {f : Nat → Except Cause β} {g : Nat → β} {n : Nat} (h : ∀ i, i < n → f i = .ok (g i)) :
    allOk f (List.range n) = .ok ((List.range n).map g) := allOk_map fun i hi => h i (List.mem_range.mp hi)

theorem rowRange_one {n : Nat} (hn : n ≤ 64) : rowRange n 0 = (0, n) := by
  unfold rowRange
  rw [show Nat.min n (64 * 0 + 64) = n from Nat.min_eq_left hn]

theorem sourceVals_gives {s : State} {key n : Nat} {r : Region} {v : Nat → Nat} (hg : Gives s key n r v) (hn : n ≤ 64) (p : Prog) (k : Nat) :
    sourceVals s key n 0 [] p k r = .ok ((List.range n).map v) := by
  obtain ⟨-, hg⟩ := hg
  unfold sourceVals
  rw [rowRange_one hn]
  dsimp only
  split at hg
  · rename_i hb
    obtain ⟨h0, hv⟩ := hg
    rw [if_pos hb, if_pos rfl, h0]
    have hc : List.replicate (n - 0) (v 0) = (List.range n).map v := by
      rw [Nat.sub_zero, List.map_congr_left fun i _ => hv i, List.map_const', List.length_range]
    exact congrArg Except.ok hc
  · rename_i hb
    rw [if_neg hb, Nat.sub_zero]
    exact allOk_range fun i hi => by rw [Nat.zero_add]; exact hg i hi

theorem nth_map_range {n i : Nat} (hi : i < n) (v : Nat → Nat) : nth ((List.range n).map v) i = v i := by
  simp [nth, hi]

end Sys2Proof.Machine
end

section
/-! VCHAIN, VRED and VSCAN on one row (R228, R231, R232). -/

namespace Sys2Proof.Machine

/-! ## VCHAIN (R228) -/

/-- The values of an optional source in one row of n elements. -/
def optVals (n : Nat) (v : Nat → Nat) (r : Option Region) : List Nat := match r with | some _ => (List.range n).map v | none => []

/-- What an optional source gives the one row of n elements; an absent one gives 0. -/
def OptGives (s : State) (key n : Nat) (r : Option Region) (v : Nat → Nat) : Prop :=
  match r with | some r => Gives s key n r v | none => ∀ i, v i = 0

theorem nth_optVals {s : State} {key n : Nat} {r : Option Region} {v : Nat → Nat} (h : OptGives s key n r v) {i : Nat} (hi : i < n) :
    nth (optVals n v r) i = v i := by
  cases r with
  | none => exact (h i).symm
  | some r => exact nth_map_range hi v

theorem sourceReads_q {s : State} (key n row : Nat) (r : Region) : (sourceReads s key n row r).1 = r.q := by
  unfold sourceReads
  dsimp only
  split <;> rfl

theorem mapRow_reads {s : State} {key n row : Nat} {d : Region} {srcs : List Region} {extra : List (Place × Nat)}
    {body : State → List (Nat × List Byte) → Prog → Except Cause (List (Place × List Byte) × Prog)} {result : Entry → Option Nat}
    (hs : ∀ r, r ∈ srcs → r.q = 0) : ∀ x, x ∈ (mapRow s key n row d srcs extra body result).reads → x.1 = 0 := by
  intro x hx
  rcases List.mem_append.mp hx with hx | hx
  · obtain ⟨r, hr, rfl⟩ := List.mem_map.mp hx
    rw [sourceReads_q]
    exact hs r hr
  · rw [List.mem_singleton.mp hx]

/-- The writes of a row of one piece of work per element. -/
theorem row_spans_end {s : State} {key n : Nat} (hn : n ≤ 64) (d : Region) : d.spans s key (rowRange n 0).2 n = [] := by
  rw [rowRange_one hn, Region.spans, Nat.sub_self]
  rfl

/-- What a function that reads each of three optional sources yields. -/
theorem three_sources {s : State} {key n : Nat} {x y z : Option Region} {v : Nat → Nat → Nat} {f : Option Region × Nat → Except Cause (List Nat)}
    (hx : OptGives s key n x (v 0)) (hy : OptGives s key n y (v 1)) (hz : OptGives s key n z (v 2))
    (hf : ∀ r k, OptGives s key n r (v k) → f (r, k) = .ok (optVals n (v k) r)) :
    allOk f [x, y, z].zipIdx = .ok [optVals n (v 0) x, optVals n (v 1) y, optVals n (v 2) z] := by
  simp only [List.zipIdx_cons, List.zipIdx_nil, allOk, hf x 0 hx, hf y (0 + 1) hy, hf z (0 + 1 + 1) hz]

theorem optReads_plain {s : State} {key n : Nat} {x y z : Option Region} {v : Nat → Nat → Nat} (hx : OptGives s key n x (v 0))
    (hy : OptGives s key n y (v 1)) (hz : OptGives s key n z (v 2)) : ∀ r, r ∈ [x, y, z].filterMap id → r.q = 0 := by
  intro r hr
  obtain ⟨o, ho, hor⟩ := List.mem_filterMap.mp hr
  rw [id] at hor
  subst hor
  simp only [List.mem_cons, List.not_mem_nil, or_false] at ho
  rcases ho with rfl | rfl | rfl
  · exact hx.1
  · exact hy.1
  · exact hz.1

section
variable {s : State} {c : Nat} {e : Entry} (h : RowReady s c e)
include h

theorem RowReady.chain_step {d : Region} {x y z : Option Region} {ch : Chain} (hop : e.op = .vchain d x y z ch) :
    vecStep s c e = runRow s c e (chainRow s (keyOfEntry s e) e d [x, y, z] ch) := by
  unfold vecStep
  dsimp only
  rw [if_pos h.row, h.checks]
  dsimp only
  rw [if_neg (by simp [h.busy]), hop]

theorem RowReady.chain_works {d : Region} {x y z : Option Region} {ch : Chain} {v : Nat → Nat → Nat}
    (hop : e.op = .vchain d x y z ch) (hn : d.count s (keyOfEntry s e) ≤ 64)
    (hx : OptGives s (keyOfEntry s e) (d.count s (keyOfEntry s e)) x (v 0)) (hy : OptGives s (keyOfEntry s e) (d.count s (keyOfEntry s e)) y (v 1))
    (hz : OptGives s (keyOfEntry s e) (d.count s (keyOfEntry s e)) z (v 2)) :
    WorksOn (.vectorRow c) s (rowStored s (keyOfEntry s e) ((List.range (d.count s (keyOfEntry s e))).map (fun i =>
      d.put s (keyOfEntry s e) i (enc32 d.fmt ch.rm (chainType ch) (chainValue ch [v 0 i, v 1 i, v 2 i] i))))) c e true none
      fun z => z.row = 1 := by
  have hb : ∀ p : Prog, ∃ q : Prog, q.row = p.row ∧ (chainRow s (keyOfEntry s e) e d [x, y, z] ch).body s [] p =
      .ok ((List.range (d.count s (keyOfEntry s e))).map (fun i =>
        d.put s (keyOfEntry s e) i (enc32 d.fmt ch.rm (chainType ch) (chainValue ch [v 0 i, v 1 i, v 2 i] i))), q) := by
    intro p
    refine ⟨{ p with acc := [optVals (d.count s (keyOfEntry s e)) (v 0) x, optVals (d.count s (keyOfEntry s e)) (v 1) y, optVals (d.count s (keyOfEntry s e)) (v 2) z].map (fun x => nth x 0) }, rfl, ?_⟩
    unfold chainRow mapRow
    dsimp only
    rw [h.row, three_sources hx hy hz fun r k hr => ?_, rowRange_one hn]
    rotate_left
    · cases r with
      | none => rfl
      | some r => exact sourceVals_gives hr hn p k
    dsimp only
    rw [Nat.sub_zero]
    refine congrArg Except.ok (Prod.ext (List.map_congr_left fun i hi => ?_) rfl)
    have hi := List.mem_range.mp hi
    simp only [List.map_cons, List.map_nil, nth_optVals hx hi, nth_optVals hy hi, nth_optVals hz hi, Nat.zero_add]
  obtain ⟨q, hq, hb⟩ := hb .start
  refine h.works (p := q) ((h.chain_step hop).trans (h.runs_row hn rfl ?_ hb hq ?_ fun _ _ _ _ => rfl))
  · exact mapRow_reads (optReads_plain hx hy hz)
  · intro w hw
    have hs : (chainRow s (keyOfEntry s e) e d [x, y, z] ch).laterWrites = [] := by
      show d.spans s (keyOfEntry s e) (rowRange _ e.prog.row).2 _ = []
      rw [h.row, row_spans_end hn]
    rw [hs] at hw
    cases hw

end

/-! ## VRED (R231) -/

theorem redGroups_done (n g : Nat) : redGroups n g - ceilDiv n (if g = 0 then n else g) = 0 := by
  unfold redGroups ceilDiv
  split
  · exact Nat.zero_sub _
  · rename_i hn
    split
    · have h1 : (n + n - 1) / n = 1 := Nat.div_eq_of_lt_le (by omega) (by omega)
      rw [h1]
    · exact Nat.sub_self _

/-- The outputs of a VRED of one row (R231). -/
def redOuts (fn : Nat) (r : Region) (ctl : VCtl) (n : Nat) (v : Nat → Nat) : List Nat :=
  (chunks (if ctl.g = 0 then n else ctl.g) ((List.range n).map v)).map (redValue fn r.fmt ctl.ofmt ctl.rm)

section
variable {s : State} {c : Nat} {e : Entry} (h : RowReady s c e)
include h

theorem RowReady.red_step {fn : Nat} {r : Region} {dst : Option Place} {ctl : VCtl} (hop : e.op = .vred fn r dst ctl) :
    vecStep s c e = runRow s c e (redRow s (keyOfEntry s e) e fn r dst ctl) := by
  unfold vecStep
  dsimp only
  rw [if_pos h.row, h.checks]
  dsimp only
  rw [if_neg (by simp [h.busy]), hop]

theorem RowReady.red_works {fn : Nat} {r : Region} {dst : Option Place} {ctl : VCtl} {v : Nat → Nat} {key n : Nat}
    (hop : e.op = .vred fn r dst ctl) (hk : keyOfEntry s e = key) (hc : r.count s key = n) (hn : n ≤ 64) (hg : Gives s key n r v) :
    WorksOn (.vectorRow c) s (rowStored s key (dst.toList.flatMap (fun d => (redOuts fn r ctl n v).zipIdx.map (fun x =>
      (d.plus (x.2 * redSize fn ctl.ofmt), leBytes (redSize fn ctl.ofmt) x.1))))) c e true (resIf ctl.res (nth (redOuts fn r ctl n v) 0))
      fun z => z.row = 1 := by
  have hb : (redRow s key e fn r dst ctl).body s [] .start = .ok (dst.toList.flatMap (fun d => (redOuts fn r ctl n v).zipIdx.map (fun x =>
      (d.plus (x.2 * redSize fn ctl.ofmt), leBytes (redSize fn ctl.ofmt) x.1))),
      { Prog.start with count := (chunks (if ctl.g = 0 then n else ctl.g) ((List.range n).map v)).length, red := nth (redOuts fn r ctl n v) 0 }) := by
    unfold redRow
    dsimp only
    rw [hc, h.row, sourceVals_gives hg hn, rowRange_one hn]
    dsimp only
    rw [if_pos rfl, if_pos rfl]
    cases dst with
    | none => simp [Prog.start, redOuts]
    | some d => simp [Prog.start, redOuts]
  subst hk
  refine h.works ((h.red_step hop).trans (h.runs_row hn ?_ ?_ hb rfl ?_ fun f _ hf _ => congrArg (resIf ctl.res) hf))
  · unfold redRow
    rw [hc]
  · intro x hx
    rw [List.mem_singleton.mp hx, sourceReads_q]
    exact hg.1
  · intro x hx
    unfold redRow at hx
    dsimp only at hx
    cases dst with
    | none => cases hx
    | some d =>
      dsimp only at hx
      rw [List.mem_singleton.mp hx, hc, h.row, rowRange_one hn, h.start]
      dsimp only
      rw [if_pos rfl]
      have hz : Prog.start.acc.length + (n - 64 * 0) = n := Nat.zero_add n
      have h0 : Prog.start.count + ceilDiv n (if ctl.g = 0 then n else ctl.g) = ceilDiv n (if ctl.g = 0 then n else ctl.g) := Nat.zero_add _
      rw [hz, h0, redGroups_done, Nat.zero_mul]

/-! ## VSCAN (R232) -/

theorem RowReady.scan_step {fn : Nat} {d r : Region} {ctl : VCtl} (hop : e.op = .vscan fn d r ctl) :
    vecStep s c e = runRow s c e (scanRow s (keyOfEntry s e) e fn d r ctl) := by
  unfold vecStep
  dsimp only
  rw [if_pos h.row, h.checks]
  dsimp only
  rw [if_neg (by simp [h.busy]), hop]

theorem RowReady.scan_works {fn : Nat} {d r : Region} {ctl : VCtl} {v : Nat → Nat} {key n : Nat}
    (hop : e.op = .vscan fn d r ctl) (hk : keyOfEntry s e = key) (hc : r.count s key = n) (hn : n ≤ 64) (hg : Gives s key n r v) :
    let o := (scanOuts fn (elemType r.fmt) (if ctl.g = 0 then n else ctl.g) ctl.excl d.fmt ctl.rm 0 none ((List.range n).map v)).1
    WorksOn (.vectorRow c) s (rowStored s key (o.zipIdx.map (fun x => d.put s key x.2 x.1))) c e true (resIf ctl.res (o.getLastD 0))
      fun z => z.row = 1 := by
  intro o
  have hb : ∃ q : Prog, q.row = 0 ∧ q.red = o.getLastD 0 ∧
      (scanRow s key e fn d r ctl).body s [] .start = .ok (o.zipIdx.map (fun x => d.put s key x.2 x.1), q) := by
    refine ⟨{ Prog.start with acc := (scanOuts fn (elemType r.fmt) (if ctl.g = 0 then n else ctl.g) ctl.excl d.fmt ctl.rm 0 none
      ((List.range n).map v)).2.toList, red := o.getLastD 0 }, rfl, rfl, ?_⟩
    unfold scanRow mapRow
    dsimp only
    rw [hc, h.row, sourceVals_gives hg hn, rowRange_one hn]
    dsimp only
    simp only [Nat.zero_add]
    rfl
  obtain ⟨q, hq, hred, hb⟩ := hb
  subst hk
  refine h.works ((h.scan_step hop).trans (h.runs_row hn ?_ ?_ hb hq ?_ fun f _ hf _ => congrArg (resIf ctl.res) (hf.trans hred)))
  · unfold scanRow mapRow
    rw [hc]
  · refine mapRow_reads fun x hx => ?_
    rw [List.mem_singleton.mp hx]
    exact hg.1
  · intro w hw
    have hs : (scanRow s (keyOfEntry s e) e fn d r ctl).laterWrites = [] := by
      show d.spans s (keyOfEntry s e) (rowRange _ e.prog.row).2 _ = []
      rw [h.row, hc, row_spans_end hn]
    rw [hs] at hw
    cases hw

end

end Sys2Proof.Machine
end

section
/-! VGATH, VSCAT and VCOUNT on one row (R233, R242). -/

namespace Sys2Proof.Machine

/-! ## Index vectors (R233) -/

theorem allOk_error {α β : Type} {f : α → Except Cause β} {cause : Cause} {l : List α} {i : Nat} {x : α} (hx : l[i]? = some x)
    (hf : f x = .error cause) (hj : ∀ j y, j < i → l[j]? = some y → ∃ b, f y = .ok b) : allOk f l = .error cause := by
  induction l generalizing i with
  | nil => cases hx
  | cons y l ih =>
    cases i with
    | zero =>
      rw [List.getElem?_cons_zero, Option.some.injEq] at hx
      rw [allOk, hx, hf]
    | succ i =>
      rw [List.getElem?_cons_succ] at hx
      obtain ⟨b, hb⟩ := hj 0 y (Nat.succ_pos i) rfl
      rw [allOk, hb, ih hx fun j z hji hz => hj (j + 1) z (Nat.succ_lt_succ hji) hz]

theorem allOk_comp {α β γ : Type} (f : β → Except Cause γ) (g : α → β) (l : List α) : allOk f (l.map g) = allOk (fun x => f (g x)) l := by
  induction l with
  | nil => rfl
  | cons x l ih => rw [List.map_cons, allOk, allOk, ih]

theorem rowIdx_inRange {s : State} {ix : Place} {m n : Nat} (h : ∀ i, i < n → idxAt s ix i = skipIdx ∨ idxAt s ix i < m) :
    rowIdx s ix m 0 n = .ok ((List.range n).map (idxAt s ix)) := by
  unfold rowIdx
  rw [Nat.sub_zero]
  refine allOk_range fun i hi => ?_
  dsimp only
  rw [Nat.zero_add, if_pos (h i hi)]

theorem rowIdx_outOfRange {s : State} {ix : Place} {m n i : Nat} (hi : i < n) (h : ∀ j, j < i → idxAt s ix j = skipIdx ∨ idxAt s ix j < m)
    (hs : idxAt s ix i ≠ skipIdx) (hm : m ≤ idxAt s ix i) : rowIdx s ix m 0 n = .error ⟨0x71, i, idxAt s ix i, m⟩ := by
  unfold rowIdx
  rw [Nat.sub_zero]
  refine allOk_error (i := i) (x := i) (by rw [List.getElem?_range hi]) ?_ fun j y hj hy => ?_
  · dsimp only
    rw [Nat.zero_add, if_neg]
    rintro (hc | hc)
    · exact hs hc
    · exact Nat.not_lt.mpr hm hc
  · rw [List.getElem?_range (Nat.lt_trans hj hi), Option.some.injEq] at hy
    subst hy
    refine ⟨idxAt s ix j, ?_⟩
    dsimp only
    rw [Nat.zero_add, if_pos (h j hj)]

theorem movedOf_map (f : Nat → Nat) (n : Nat) : movedOf ((List.range n).map f) = ((List.range n).filter (fun i => f i != skipIdx)).length := by
  unfold movedOf
  rw [List.filter_map, List.length_map]
  rfl

theorem map_zipIdx_range {α β : Type} (f : Nat → α) (g : α × Nat → β) (n : Nat) :
    (((List.range n).map f).zipIdx).map g = (List.range n).map (fun i => g (f i, i)) := by
  refine List.ext_getElem (by simp) fun i h1 h2 => ?_
  simp

theorem laterIdx_none (s : State) (ix : Place) (m n : Nat) : laterIdx s ix m n n = [] := by
  unfold laterIdx
  rw [Nat.sub_self]
  rfl

/-! ## The writes of a VSCAT (R233) -/

/-- The writes of the first i combines, st the states between them. -/
def scatWrites (s : State) (key fn : Nat) (t r : Region) (ix : Place) (ctl : VCtl) (st : Nat → State) (v : Nat → Nat) (i : Nat) :
    List (Place × List Byte) :=
  ((List.range i).filter (fun j => idxAt s ix j != skipIdx)).map (fun j =>
    t.put (st j) key (idxAt s ix j) (scatValue fn ctl.rm t.fmt (elemBits (st j) key [] t.fmt t.base (t.elem (st j) key (idxAt s ix j)))
      (elemType r.fmt) (v j)))

theorem scatWrites_succ (s : State) (key fn : Nat) (t r : Region) (ix : Place) (ctl : VCtl) (st : Nat → State) (v : Nat → Nat) (i : Nat) :
    scatWrites s key fn t r ix ctl st v (i + 1) = scatWrites s key fn t r ix ctl st v i ++ if idxAt s ix i = skipIdx then [] else
      [t.put (st i) key (idxAt s ix i) (scatValue fn ctl.rm t.fmt (elemBits (st i) key [] t.fmt t.base (t.elem (st i) key (idxAt s ix i)))
        (elemType r.fmt) (v i))] := by
  unfold scatWrites
  rw [List.range_succ, List.filter_append, List.map_append]
  by_cases hx : idxAt s ix i = skipIdx
  · rw [if_pos hx]
    simp [hx]
  · rw [if_neg hx]
    simp [hx]

theorem putPlaces_append (s : State) (key : Nat) (l m : List (Place × List Byte)) :
    putPlaces s key (l ++ m) = putPlaces (putPlaces s key l) key m := List.foldl_append

/-! ## The writes of a VCOUNT (R242) -/

theorem foldl_range_eq {β : Type} {g : β → Nat → β} {n : Nat} {q : Nat → β} (h : ∀ i, i < n → g (q i) i = q (i + 1)) :
    (List.range n).foldl g (q 0) = q n := by
  induction n with
  | zero => rfl
  | succ n ih =>
    rw [List.range_succ, List.foldl_append, ih fun i hi => h i (Nat.lt_succ_of_lt hi)]
    exact h n (Nat.lt_succ_self n)

/-- The writes of the first i counts of the indices x, st the states between them. -/
def countWrites (key : Nat) (dst : Place) (m : Nat) (st : Nat → State) (x : Nat → Nat) (i : Nat) : List (Place × List Byte) :=
  ((List.range i).filter (fun j => decide (x j < m))).map (fun j => (dst.plus (4 * x j),
    leBytes 4 (min (leNat (fetchPlace (st j) key (dst.plus (4 * x j)) 4) + 1) (2 ^ 32 - 1))))

theorem countWrites_succ (key : Nat) (dst : Place) (m : Nat) (st : Nat → State) (x : Nat → Nat) (i : Nat) :
    countWrites key dst m st x (i + 1) = countWrites key dst m st x i ++ if m ≤ x i then [] else
      [(dst.plus (4 * x i), leBytes 4 (min (leNat (fetchPlace (st i) key (dst.plus (4 * x i)) 4) + 1) (2 ^ 32 - 1)))] := by
  unfold countWrites
  rw [List.range_succ, List.filter_append, List.map_append]
  by_cases hx : m ≤ x i
  · rw [if_pos hx]
    simp [Nat.not_lt.mpr hx]
  · rw [if_neg hx]
    simp [Nat.not_le.mp hx]

/-! ## VGATH (R233) -/

section
variable {s : State} {c : Nat} {e : Entry} (h : RowReady s c e)
include h

theorem RowReady.gath_step {d t : Region} {ix : Place} {ctl : VCtl} {j : RowJob} (hop : e.op = .vgath d t ix ctl)
    (hj : gathRow s (keyOfEntry s e) e d t ix ctl = .ok j) : vecStep s c e = runRow s c e j := by
  unfold vecStep
  dsimp only
  rw [if_pos h.row, h.checks]
  dsimp only
  rw [if_neg (by simp [h.busy]), hop]
  dsimp only
  rw [hj]

theorem RowReady.gath_stops {d t : Region} {ix : Place} {ctl : VCtl} {cause : Cause} (hop : e.op = .vgath d t ix ctl)
    (hj : gathRow s (keyOfEntry s e) e d t ix ctl = .error cause) : vecStep s c e = failEntry s c e cause := by
  unfold vecStep
  dsimp only
  rw [if_pos h.row, h.checks]
  dsimp only
  rw [if_neg (by simp [h.busy]), hop]
  dsimp only
  rw [hj]

theorem RowReady.gath_fails {d t : Region} {ix : Place} {ctl : VCtl} {i : Nat} (hop : e.op = .vgath d t ix ctl)
    (hn : d.count s (keyOfEntry s e) ≤ 64) (hi : i < d.count s (keyOfEntry s e))
    (hj : ∀ j, j < i → idxAt s ix j = skipIdx ∨ idxAt s ix j < t.count s (keyOfEntry s e)) (hs : idxAt s ix i ≠ skipIdx)
    (hm : t.count s (keyOfEntry s e) ≤ idxAt s ix i) :
    exec (.vectorRow c) s = .next (failEntry s c e ⟨0x71, i, idxAt s ix i, t.count s (keyOfEntry s e)⟩) := by
  refine h.fails (h.gath_stops hop ?_)
  unfold gathRow
  dsimp only
  rw [h.row, rowRange_one hn]
  dsimp only
  rw [rowIdx_outOfRange hi hj hs hm]

theorem RowReady.gath_works {d t : Region} {ix : Place} {ctl : VCtl} {key n : Nat} {v : Nat → Nat} (hop : e.op = .vgath d t ix ctl)
    (hk : keyOfEntry s e = key) (hc : d.count s key = n) (hn : n ≤ 64) (hq : t.q = 0)
    (hi : ∀ i, i < n → idxAt s ix i = skipIdx ∨ idxAt s ix i < t.count s key)
    (hv : ∀ i, i < n → idxAt s ix i ≠ skipIdx → t.get s key [] (idxAt s ix i) = .ok (v i)) :
    WorksOn (.vectorRow c) s (rowStored s key ((List.range n).map (fun i => d.put s key i (if idxAt s ix i = skipIdx then 0
      else enc32 d.fmt ctl.rm (elemType t.fmt) (v i))))) c e true
      (resIf ctl.res ((List.range n).filter (fun i => idxAt s ix i != skipIdx)).length) fun z => z.row = 1 := by
  have hg : ∃ j, gathRow s key e d t ix ctl = .ok j ∧ j.next = nextRow n (fun e => resIf ctl.res e.prog.count) ∧
      (∀ x, x ∈ j.reads → x.1 = 0) ∧ j.laterWrites = [] ∧
      j.body s [] .start = .ok ((List.range n).map (fun i => d.put s key i (if idxAt s ix i = skipIdx then 0
        else enc32 d.fmt ctl.rm (elemType t.fmt) (v i))),
        { Prog.start with count := ((List.range n).filter (fun i => idxAt s ix i != skipIdx)).length }) := by
    unfold gathRow
    dsimp only
    rw [hc, h.row, rowRange_one hn]
    dsimp only
    rw [rowIdx_inRange hi]
    refine ⟨_, rfl, rfl, ?_, ?_, ?_⟩
    · intro x hx
      rcases List.mem_append.mp hx with hx | hx
      · exact mapRow_reads (fun r hr => by cases hr) x hx
      · rw [List.mem_singleton.mp hx]
        exact hq
    · exact row_spans_end hn d
    · unfold mapRow
      dsimp only
      have ha : allOk (fun v => if v = skipIdx then .ok none else (t.get s key [] v).map some) ((List.range n).map (idxAt s ix)) =
          .ok ((List.range n).map (fun i => if idxAt s ix i = skipIdx then none else some (v i))) := by
        rw [allOk_comp]
        refine allOk_range fun i hi => ?_
        split
        · rfl
        · rename_i hx
          rw [hv i hi hx]
          rfl
      rw [ha]
      dsimp only
      rw [map_zipIdx_range, movedOf_map]
      refine congrArg Except.ok (Prod.ext (List.map_congr_left fun i _ => ?_) ?_)
      · dsimp only
        rw [Nat.zero_add]
        by_cases hx : idxAt s ix i = skipIdx
        · rw [if_pos hx, if_pos hx]
        · rw [if_neg hx, if_neg hx]
      · show ({ Prog.start with count := 0 + _ } : Prog) = _
        rw [Nat.zero_add]
  obtain ⟨j, hj, hnext, hreads, hlater, hbody⟩ := hg
  subst hk
  refine h.works ((h.gath_step hop hj).trans (h.runs_row hn hnext hreads hbody rfl (fun x hx => ?_) fun f hf _ _ =>
    congrArg (resIf ctl.res) hf))
  rw [hlater] at hx
  cases hx

/-! ## VSCAT (R233) -/

theorem RowReady.scat_step {fn : Nat} {t r : Region} {ix : Place} {ctl : VCtl} {j : RowJob} (hop : e.op = .vscat fn t r ix ctl)
    (hj : scatRow s (keyOfEntry s e) e fn t r ix ctl = .ok j) : vecStep s c e = runRow s c e j := by
  unfold vecStep
  dsimp only
  rw [if_pos h.row, h.checks]
  dsimp only
  rw [if_neg (by simp [h.busy]), hop]
  dsimp only
  rw [hj]

theorem RowReady.scat_works {fn : Nat} {t r : Region} {ix : Place} {ctl : VCtl} {key n : Nat} {st : Nat → State} {v : Nat → Nat}
    (hop : e.op = .vscat fn t r ix ctl) (hk : keyOfEntry s e = key) (hc : r.count s key = n) (hn : n ≤ 64) (hq : r.q = 0)
    (hi : ∀ i, i < n → idxAt s ix i = skipIdx ∨ idxAt s ix i < t.count s key) (h0 : st 0 = s)
    (hst : ∀ i, i < n → let x := idxAt s ix i
      (x = skipIdx → st (i + 1) = st i) ∧ (x ≠ skipIdx → r.get (st i) key [] i = .ok (v i) ∧
        let at_ := t.base.shift (t.elem (st i) key x * fmtBytes t.fmt)
        let old := elemBits (st i) key [] t.fmt t.base (t.elem (st i) key x)
        st (i + 1) = putPlace (st i) key at_ (leBytes (fmtBytes t.fmt) (scatValue fn ctl.rm t.fmt old (elemType r.fmt) (v i))))) :
    WorksOn (.vectorRow c) s (fillWritten (st n) (((List.range n).filter (fun i => idxAt s ix i != skipIdx)).map (fun i =>
        (t.base.shift (t.elem (st i) key (idxAt s ix i) * fmtBytes t.fmt), fmtBytes t.fmt))) []) c e true
      (resIf ctl.res ((List.range n).filter (fun i => idxAt s ix i != skipIdx)).length) fun z => z.row = 1 := by
  have hw : ∀ i, i ≤ n → putPlaces s key (scatWrites s key fn t r ix ctl st v i) = st i := by
    intro i hin
    induction i with
    | zero => exact h0.symm
    | succ i ih =>
      obtain ⟨hs, hm⟩ := hst i hin
      rw [scatWrites_succ, putPlaces_append, ih (Nat.le_of_succ_le hin)]
      split
      · rename_i hx
        exact (hs hx).symm
      · rename_i hx
        exact (hm hx).2.symm
  have hg : ∃ j, scatRow s key e fn t r ix ctl = .ok j ∧ j.next = nextRow n (fun e => resIf ctl.res e.prog.count) ∧
      (∀ x, x ∈ j.reads → x.1 = 0) ∧ j.laterWrites = [] ∧
      j.body s [] .start = .ok (scatWrites s key fn t r ix ctl st v n,
        { Prog.start with count := ((List.range n).filter (fun i => idxAt s ix i != skipIdx)).length }) := by
    unfold scatRow
    dsimp only
    rw [hc, h.row, rowRange_one hn]
    dsimp only
    rw [rowIdx_inRange hi]
    refine ⟨_, rfl, rfl, ?_, ?_, ?_⟩
    · intro x hx
      simp only [List.mem_cons, List.not_mem_nil, or_false] at hx
      rcases hx with rfl | rfl
      · rw [sourceReads_q]
        exact hq
      · rfl
    · dsimp only
      rw [laterIdx_none]
      split <;> rfl
    · dsimp only
      have e0 : (.ok (s, []) : Except Cause (State × List (Place × List Byte))) = .ok (st 0, scatWrites s key fn t r ix ctl st v 0) := by
        rw [h0]
        rfl
      rw [Nat.sub_zero, e0, foldl_ok (q := fun i => (st i, scatWrites s key fn t r ix ctl st v i)) fun i hin => ?_, movedOf_map]
      · show (Except.ok (_, { Prog.start with count := 0 + _ }) : Except Cause (List (Place × List Byte) × Prog)) = _
        rw [Nat.zero_add]
      · obtain ⟨hs, hm⟩ := hst i hin
        dsimp only
        rw [nth_map_range hin, scatWrites_succ]
        by_cases hx : idxAt s ix i = skipIdx
        · rw [if_pos hx, if_pos hx, hs hx, List.append_nil]
        · obtain ⟨hv, hn⟩ := hm hx
          rw [if_neg hx, if_neg hx, Nat.zero_add, hv, hn]
          rfl
  obtain ⟨j, hj, hnext, hreads, hlater, hbody⟩ := hg
  have hf : fillWritten (st n) (((List.range n).filter (fun i => idxAt s ix i != skipIdx)).map (fun i =>
        (t.base.shift (t.elem (st i) key (idxAt s ix i) * fmtBytes t.fmt), fmtBytes t.fmt))) [] =
      rowStored s key (scatWrites s key fn t r ix ctl st v n) := by
    unfold rowStored
    rw [hw n (Nat.le_refl n), scatWrites, List.map_map]
    refine congrArg (fun l => fillWritten (st n) l []) (List.map_congr_left fun i _ => ?_)
    exact Prod.ext rfl (leBytes_length _ _).symm
  rw [hf]
  subst hk
  refine h.works ((h.scat_step hop hj).trans (h.runs_row hn hnext hreads hbody rfl (fun x hx => ?_) fun f hf _ _ =>
    congrArg (resIf ctl.res) hf))
  rw [hlater] at hx
  cases hx

/-! ## VCOUNT (R242) -/

theorem RowReady.count_step {dst : Place} {m : Nat} {r : Region} {res : Bool} (hop : e.op = .vcount dst m r res) :
    vecStep s c e = runRow s c e (countRow s (keyOfEntry s e) e dst m r res) := by
  unfold vecStep
  dsimp only
  rw [if_pos h.row, h.checks]
  dsimp only
  rw [if_neg (by simp [h.busy]), hop]

theorem RowReady.count_works {dst : Place} {m : Nat} {r : Region} {res : Bool} {key n : Nat} {st : Nat → State} {x : Nat → Nat}
    (hop : e.op = .vcount dst m r res) (hk : keyOfEntry s e = key) (hc : r.count s key = n) (hn : n ≤ 64) (hq : r.q = 0) (h0 : st 0 = s)
    (hx : ∀ i, x i = elemBits s key [] r.fmt r.base (r.elem s key i))
    (hst : ∀ i, i < n → (m ≤ x i → st (i + 1) = st i) ∧ (x i < m → st (i + 1) = putPlace (st i) key (dst.plus (4 * x i))
      (leBytes 4 (min (leNat (fetchPlace (st i) key (dst.plus (4 * x i)) 4) + 1) (2 ^ 32 - 1))))) :
    WorksOn (.vectorRow c) s (fillWritten (st n) (((List.range n).filter (fun i => decide (x i < m))).map (fun i => (dst.plus (4 * x i), 4))) [])
      c e true (resIf res ((List.range n).filter (fun i => decide (m ≤ x i))).length) fun z => z.row = 1 := by
  have hw : ∀ i, i ≤ n → putPlaces s key (countWrites key dst m st x i) = st i := by
    intro i hin
    induction i with
    | zero => exact h0.symm
    | succ i ih =>
      obtain ⟨hs, hm⟩ := hst i hin
      rw [countWrites_succ, putPlaces_append, ih (Nat.le_of_succ_le hin)]
      split
      · rename_i hx
        exact (hs hx).symm
      · rename_i hx
        exact (hm (Nat.not_le.mp hx)).symm
  have hb : (countRow s key e dst m r res).body s [] .start = .ok (countWrites key dst m st x n,
      { Prog.start with count := ((List.range n).filter (fun i => decide (m ≤ x i))).length }) := by
    have hl : (List.range (n - 0)).map (fun i => elemBits s key [] r.fmt r.base (r.elem s key (0 + i))) = (List.range n).map x := by
      rw [Nat.sub_zero]
      exact List.map_congr_left fun i _ => by rw [Nat.zero_add, hx]
    have e0 : ((s, []) : State × List (Place × List Byte)) = (st 0, countWrites key dst m st x 0) := by
      rw [h0]
      rfl
    unfold countRow
    dsimp only
    rw [hc, h.row, rowRange_one hn]
    dsimp only
    rw [rangesPoison_clean h.clean]
    dsimp only
    rw [hl, List.foldl_map, e0, foldl_range_eq (q := fun i => (st i, countWrites key dst m st x i)) fun i hin => ?_]
    · show (Except.ok (_, { Prog.start with count := 0 + _ }) : Except Cause (List (Place × List Byte) × Prog)) = _
      rw [Nat.zero_add, List.filter_map, List.length_map]
      rfl
    · obtain ⟨hs, hm⟩ := hst i hin
      dsimp only
      rw [countWrites_succ]
      by_cases hi : m ≤ x i
      · rw [if_pos hi, if_pos hi, hs hi, List.append_nil]
      · rw [if_neg hi, if_neg hi, hm (Nat.not_le.mp hi)]
  have hf : fillWritten (st n) (((List.range n).filter (fun i => decide (x i < m))).map (fun i => (dst.plus (4 * x i), 4))) [] =
      rowStored s key (countWrites key dst m st x n) := by
    unfold rowStored
    rw [hw n (Nat.le_refl n), countWrites, List.map_map]
    refine congrArg (fun l => fillWritten (st n) l []) (List.map_congr_left fun i _ => ?_)
    exact Prod.ext rfl (leBytes_length _ _).symm
  rw [hf]
  subst hk
  refine h.works ((h.count_step hop).trans (h.runs_row hn ?_ ?_ hb rfl ?_ fun f hf _ _ => congrArg (resIf res) hf))
  · unfold countRow
    rw [hc]
  · intro y hy
    rw [List.mem_singleton.mp hy]
    exact hq
  · intro y hy
    cases hy

end

end Sys2Proof.Machine
end

section
/-! VDOT, VPERM, VSEARCH and VFIND on one row (R234 to R241). -/

namespace Sys2Proof.Machine

/-! ## The free result of VDOT and VPERM (R230) -/

theorem setQueue_setQueue (s : State) (c q : Nat) (l m : List Entry) : setQueue (setQueue s c q l) c q m = setQueue s c q m := by
  simp [setQueue, onCore, setCore, coreAt]

theorem putEntry_putEntry (s : State) (c : Nat) {e f : Entry} (h : f.q = e.q) : putEntry (putEntry s c e) c f = putEntry s c f := by
  unfold putEntry
  rw [h, queueAt_setQueue_same, setQueue_setQueue]
  rfl

/-- The state and the result of an entry that ends, res telling whether it has the free result (log 8). -/
def freeOf (u : State) (res : Bool) : State × Option Nat :=
  if res then ({ u with freeCount := u.freeCount + 1 }, some (Config.freeWord u.freeCount).toNat) else (u, none)

theorem withFree_rowEnded (u : State) (c : Nat) {e : Entry} (hq : e.q = 1) (p : Prog) (res : Bool) :
    withFree (putEntry u c (rowEnded e p none)) c 1 res = putEntry (freeOf u res).1 c (rowEnded e p (freeOf u res).2) := by
  have hh : headEntry (putEntry u c (rowEnded e p none)) c 1 = some (rowEnded e p none) := by
    rw [headEntry, putEntry, show (rowEnded e p none).q = 1 from hq, queueAt_setQueue_same]
    rfl
  unfold withFree
  rw [hh]
  cases res with
  | false => rfl
  | true =>
    show putEntry { putEntry u c (rowEnded e p none) with freeCount := u.freeCount + 1 } c
      (rowEnded e p (some (Config.freeWord u.freeCount).toNat)) = _
    exact putEntry_putEntry { u with freeCount := u.freeCount + 1 } c rfl

section
variable {s : State} {c : Nat} {e : Entry} (h : RowReady s c e)
include h

/-! ## VPERM (R237) -/

theorem RowReady.perm_step {d r : Region} {ctl : VCtl} (hop : e.op = .vperm d r ctl) :
    vecStep s c e = withFree (runRow s c e (permRow s c (keyOfEntry s e) e d r ctl)) c 1 ctl.res := by
  unfold vecStep
  dsimp only
  rw [if_pos h.row, h.checks]
  dsimp only
  rw [if_neg (by simp [h.busy]), hop]

theorem RowReady.perm_works {d r : Region} {ctl : VCtl} {key n : Nat} (hop : e.op = .vperm d r ctl) (hk : keyOfEntry s e = key)
    (hc : d.count s key = n) (hn : n ≤ 64) (hq : r.q = 0) :
    let v := (List.range 64).map (fun i => if i < n then elemBits s key [] r.fmt r.base (r.elem s key i) else 0)
    let o := benes (tabGet 0 (coreAt s c).regs.b ctl.breg) v
    let u := rowStored s key ((List.range n).map (fun i =>
      d.put s key i (if d.fmt = r.fmt then nth o i else encodeFmt d.fmt ctl.rm (decodeFmt r.fmt (nth o i)))))
    WorksOn (.vectorRow c) s (freeOf u ctl.res).1 c e true (freeOf u ctl.res).2 fun z => z.row = 1 := by
  intro v o u
  have hb : (permRow s c key e d r ctl).body s [] .start = .ok ((List.range n).map (fun i =>
      d.put s key i (if d.fmt = r.fmt then nth o i else encodeFmt d.fmt ctl.rm (decodeFmt r.fmt (nth o i)))), .start) := by
    unfold permRow mapRow
    dsimp only
    rw [hc, h.row, rowRange_one hn]
    dsimp only
    simp only [Nat.zero_add, Nat.sub_zero]
    rfl
  subst hk
  refine h.works (p := .start) ((h.perm_step hop).trans ?_)
  rw [h.runs_row (r := none) hn ?_ ?_ hb rfl ?_ fun f _ _ _ => rfl, withFree_rowEnded _ _ h.unit]
  · unfold permRow mapRow
    rw [hc]
  · refine mapRow_reads fun x hx => ?_
    rw [List.mem_singleton.mp hx]
    exact hq
  · intro w hw
    have hs : (permRow s c (keyOfEntry s e) e d r ctl).laterWrites = [] := by
      show d.spans s (keyOfEntry s e) (rowRange _ e.prog.row).2 _ = []
      rw [h.row, hc, row_spans_end hn]
    rw [hs] at hw
    cases hw

/-! ## VDOT (R234) -/

theorem RowReady.dot_step {fn : Nat} {d a b : Region} {r : Option Region} {sb : Nat} {ctl : VCtl} (hop : e.op = .vdot fn d a b r sb ctl) :
    vecStep s c e = withFree (runRow s c e (dotRow s (keyOfEntry s e) e fn d a b r sb ctl)) c 1 ctl.res := by
  unfold vecStep
  dsimp only
  rw [if_pos h.row, h.checks]
  dsimp only
  rw [if_neg (by simp [h.busy]), hop]

theorem RowReady.dot_works {fn : Nat} {d a b : Region} {r : Option Region} {sb : Nat} {ctl : VCtl} {key n : Nat} {v : Nat → Nat} {y : Nat → FV}
    (hop : e.op = .vdot fn d a b r sb ctl) (hk : keyOfEntry s e = key) (hc : d.count s key = n) (hn : n ≤ 64) (ha : a.q = 0) (hb : b.q = 0)
    (hr : ∀ x, r = some x → Gives s key n x v)
    (hy : ∀ j, j < n → dotOut s key [] fn a b (b.count s key) j sb (if r.isSome then some (v j) else none) = .ok (y j)) :
    let u := rowStored s key ((List.range n).map (fun j => d.put s key j (encodeFmt d.fmt ctl.rm (y j))))
    WorksOn (.vectorRow c) s (freeOf u ctl.res).1 c e true (freeOf u ctl.res).2 fun z => z.row = 1 := by
  intro u
  have hbody : ∃ q : Prog, q.row = 0 ∧ (dotRow s key e fn d a b r sb ctl).body s [] .start =
      .ok ((List.range n).map (fun j => d.put s key j (encodeFmt d.fmt ctl.rm (y j))), q) := by
    have hw : ∀ f : Nat → Except Cause FV, (∀ j, j < n → f j = .ok (y j)) → allOk f (List.range (n - 0)) = .ok ((List.range n).map y) :=
      fun f hf => allOk_range hf
    have hm : ((List.range n).map y).zipIdx.map (fun x => d.put s key (0 + x.2) (encodeFmt d.fmt ctl.rm x.1)) =
        (List.range n).map (fun j => d.put s key j (encodeFmt d.fmt ctl.rm (y j))) := by
      rw [map_zipIdx_range]
      exact List.map_congr_left fun i _ => by rw [Nat.zero_add]
    unfold dotRow
    dsimp only
    rw [hc, h.row, rowRange_one hn]
    dsimp only
    cases r with
    | none =>
      refine ⟨{ Prog.start with acc := [] }, rfl, ?_⟩
      dsimp only
      rw [hw _ fun j hj => ?_]
      · exact congrArg (fun l => Except.ok (l, { Prog.start with acc := [] })) hm
      · rw [Nat.zero_add]
        exact hy j hj
    | some x =>
      refine ⟨{ Prog.start with acc := [nth ((List.range n).map v) 0] }, rfl, ?_⟩
      dsimp only
      rw [sourceVals_gives (hr x rfl) hn]
      dsimp only [Except.map]
      rw [hw _ fun j hj => ?_]
      · exact congrArg (fun l => Except.ok (l, { Prog.start with acc := [nth ((List.range n).map v) 0] })) hm
      · rw [Option.map_some, nth_map_range hj, Nat.zero_add]
        exact hy j hj
  obtain ⟨q, hq, hbody⟩ := hbody
  subst hk
  refine h.works (p := q) ((h.dot_step hop).trans ?_)
  rw [h.runs_row (r := none) hn ?_ ?_ hbody hq ?_ fun f _ _ _ => rfl, withFree_rowEnded _ _ h.unit]
  · unfold dotRow
    rw [hc]
  · intro x hx
    rcases List.mem_append.mp hx with hx | hx
    · simp only [List.mem_cons, List.not_mem_nil, or_false] at hx
      rcases hx with rfl | rfl
      · exact ha
      · exact hb
    · cases r with
      | none => cases hx
      | some y =>
        rw [List.mem_singleton.mp hx, sourceReads_q]
        exact (hr y rfl).1
  · intro w hw
    have hs : (dotRow s (keyOfEntry s e) e fn d a b r sb ctl).laterWrites = [] := by
      show d.spans s (keyOfEntry s e) (rowRange _ e.prog.row).2 _ = []
      rw [h.row, hc, row_spans_end hn]
    rw [hs] at hw
    cases hw

/-! ## VFIND (R241) -/

theorem RowReady.find_step {pat : List Nat} {r : Region} {m : Nat} (hop : e.op = .vfind pat r m) :
    vecStep s c e = runRow s c e (findRow s (keyOfEntry s e) e pat r m) := by
  unfold vecStep
  dsimp only
  rw [if_pos h.row, h.checks]
  dsimp only
  rw [if_neg (by simp [h.busy]), hop]

theorem RowReady.find_works {pat : List Nat} {r : Region} {m : Nat} {key n : Nat} (hop : e.op = .vfind pat r m) (hk : keyOfEntry s e = key)
    (hc : r.count s key = n) (hn : n ≤ 64) (hq : r.q = 0) :
    let z := findScan pat m 0 ((List.range n).map (fun i => elemBits s key [] r.fmt r.base (r.elem s key i)))
    WorksOn (.vectorRow c) s s c e true (some (match z.2 with | some i => i % 2 ^ 16 * 2 ^ 32 + 2 ^ 5 | none => z.1)) fun _ => True := by
  intro z
  let p : Prog := { Prog.start with acc := [z.1], red := match z.2 with | some i => i % 2 ^ 16 * 2 ^ 32 + 2 ^ 5 | none => 0 }
  have hb : (findRow s key e pat r m).body s [] .start = .ok ([], p) := by
    unfold findRow
    dsimp only
    rw [hc, h.row, rowRange_one hn]
    dsimp only
    simp only [Nat.zero_add, Nat.sub_zero]
    rfl
  subst hk
  have hs := h.runs_body (j := findRow s (keyOfEntry s e) e pat r m) (fun x hx => by rw [List.mem_singleton.mp hx]; exact hq) hb fun x hx => by cases hx
  have hnext : ∃ q, (findRow s (keyOfEntry s e) e pat r m).next { e with prog := { p with taken := [], cleared := [] }, wait := .none, waited := 0 } =
      ({ e with prog := q, wait := .none, waited := 0 } : Entry).finish (some (match z.2 with | some i => i % 2 ^ 16 * 2 ^ 32 + 2 ^ 5 | none => z.1)) := by
    unfold findRow
    dsimp only
    cases hz : z.2 with
    | some i =>
      have hp : p.red = i % 2 ^ 16 * 2 ^ 32 + 2 ^ 5 := by
        show (match z.2 with | some i => _ | none => _) = _
        rw [hz]
      rw [if_pos (by rw [hp]; omega), hp]
      exact ⟨_, rfl⟩
    | none =>
      have hp : p.red = 0 := by
        show (match z.2 with | some i => _ | none => _) = _
        rw [hz]
      rw [if_neg (not_not.mpr hp), nextRow_ends (by rw [hc]; exact hn) _ rfl]
      exact ⟨{ p with taken := [], cleared := [], row := 1 }, rfl⟩
  obtain ⟨q, hnext⟩ := hnext
  have hv := (h.find_step hop).trans hs
  rw [hnext] at hv
  exact ⟨_, h.ends hv rfl rfl, rfl, rfl, rfl, rfl, rfl, rfl, fun _ => rfl, trivial⟩

/-! ## VSEARCH (R239, R240) -/

theorem RowReady.search_step {d : Search} (hop : e.op = .vsearch d) : vecStep s c e = searchRun s c e d := by
  unfold vecStep
  dsimp only
  rw [if_pos h.row, h.checks]
  dsimp only
  rw [if_neg (by simp [h.busy]), hop]

/-- The expert that each column of a VSEARCH stands for. -/
def expertMap (s : State) (d : Search) : List Nat :=
  match d.remap with | none => List.range d.experts | some p => (fetchPlace s 0 p d.experts).map (·.toNat)

theorem RowReady.search_works {d : Search} {key : Nat} (hop : e.op = .vsearch d) (hk : keyOfEntry s e = key)
    (hx : ∀ x, x ∈ expertMap s d → x < d.experts) :
    let rows := (List.range d.rows).map (assignRow s key d (expertMap s d))
    let adm := (List.range d.experts).map (fun x => admitted d.cap x rows)
    WorksOn (.vectorRow c) s (engineWrite (engineWrite s key d.table (rows.zipIdx.flatMap (fun r =>
        (List.range d.kmax).flatMap (fun k => leBytes 8 (slotBits adm r.2 (r.1[k]?)))))) key d.counts
          (adm.flatMap (fun l => leBytes 2 l.length))) c e true
      (resIf d.res ((rows.map List.length).sum - (adm.map List.length).sum)) fun z => z.row = 1 := by
  intro rows adm
  subst hk
  have hf : (expertMap s d).zipIdx.find? (fun x => decide (d.experts ≤ x.1)) = none := by
    rw [List.find?_eq_none]
    intro x hm
    have hl := hx x.1 (List.fst_mem_of_mem_zipIdx hm)
    rw [decide_eq_true_eq]
    omega
  have hs : searchRun s c e d = putEntry (engineWrite (engineWrite s (keyOfEntry s e) d.table (rows.zipIdx.flatMap (fun r =>
        (List.range d.kmax).flatMap (fun k => leBytes 8 (slotBits adm r.2 (r.1[k]?)))))) (keyOfEntry s e) d.counts
          (adm.flatMap (fun l => leBytes 2 l.length))) c
      ({ e with prog := { e.prog with row := 1 } }.finish (resIf d.res ((rows.map List.length).sum - (adm.map List.length).sum))) := by
    unfold searchRun
    dsimp only
    rw [rangesPoison_clean h.clean]
    dsimp only
    change (match (expertMap s d).zipIdx.find? (fun x => decide (d.experts ≤ x.1)) with | some x => _ | none => _) = _
    rw [hf]
    all_goals rfl
  exact ⟨_, h.ends ((h.search_step hop).trans hs) rfl rfl, rfl, rfl, rfl, rfl, rfl, rfl, fun _ => rfl, rfl⟩

theorem RowReady.search_fails {d : Search} {i x : Nat} (hop : e.op = .vsearch d) (hi : (expertMap s d)[i]? = some x) (hx : d.experts ≤ x)
    (hj : ∀ j y, j < i → (expertMap s d)[j]? = some y → y < d.experts) :
    exec (.vectorRow c) s = .next (failEntry s c e ⟨0x72, i, x, d.experts⟩) := by
  have hf : (expertMap s d).zipIdx.find? (fun x => decide (d.experts ≤ x.1)) = some (x, i) := by
    obtain ⟨hl, rfl⟩ := List.getElem?_eq_some_iff.mp hi
    rw [List.find?_eq_some_iff_getElem]
    refine ⟨decide_eq_true hx, i, by simpa using hl, by simp, fun j hji => ?_⟩
    have hjl := Nat.lt_trans hji hl
    have hn := hj j _ hji (List.getElem?_eq_getElem hjl)
    simpa using hn
  refine h.fails ((h.search_step hop).trans ?_)
  unfold searchRun
  dsimp only
  rw [rangesPoison_clean h.clean]
  dsimp only
  change (match (expertMap s d).zipIdx.find? (fun x => decide (d.experts ≤ x.1)) with | some x => _ | none => _) = _
  rw [hf]

end

end Sys2Proof.Machine
end

section
/-! The words of the vector engine and their rows (R220 to R242). -/

namespace Sys2Proof.Machine

/-- Settles O33: each word is an engine word of VQ, and the one row of each entry is the row of its form. -/
theorem vectorWordsPush : Obligations.VectorWordsPush := by
  unfold Obligations.VectorWordsPush
  refine ⟨?_, ?_, fun ch o src i h hout hd => chainValue_single src i h hout hd, elemOp_spec,
    fun g k l hg => chunks_getD hg k l, fun l hl => ⟨treeSum_step hl, length_pairSums l, nth_pairSums l⟩, redValue_spec,
    fun t top l x => ⟨fun y i h hy hj => argSelect_nan h hy hj, fun hl hx h => argSelect_append hl hx h⟩,
    fun g fmt rm l a _ _ => scan_floats g fmt rm l a, fun g fmt rm t l a _ hn hl ht => scan_integers g fmt rm t l a hn hl ht, scatValue_spec,
    fun s key a b k j sb h => dotOut_plain h k j sb, ?_, fun b v hv => ⟨benes_zero v, benes_perm b hv⟩,
    fun d scores l k x h => pickCols_all h scores l k x, fun cap x rows => ⟨fun h => length_admitted h x rows, fun r h => mem_admitted h⟩,
    fun adm r x w => ⟨rfl, fun p hp h => slotBits_admitted hp h, slotBits_dropped⟩, fun b l => ?_⟩
  · intro s a t g x y z hr hx hy hz p
    have h0 : fieldReady (seen s a) a 0 := rfl
    exact ⟨pushes_of hr hx hy hz rfl, pushes_of hr hx hy hz rfl, pushes_of hr hx hy hz rfl, pushes_of hr hx hy hz rfl,
      pushes_of hr hx hy hz rfl, pushes_of hr hx hy hz rfl, pushes_of hr hx hy hz rfl, pushes_of hr hx hy hz rfl,
      pushes_of hr hx hy hz rfl, pushes_of hr hx hy hz rfl, pushes_of hr hx hy hz rfl, pushes_of hr hx hy hz rfl,
      pushes_of hr hx hy hz rfl, pushes_of hr hx hy hz rfl, pushes_of hr hx hy hz rfl, pushes_of hr hx hy hz rfl,
      pushes_of hr hx hy hz rfl, pushes_of hr hx hy h0 rfl, pushes_of hr hx hy hz rfl, pushes_of hr hx hy hz rfl,
      pushes_of hr hx hy hz rfl, pushes_of hr hx hy hz rfl, pushes_of hr hx hy hz rfl⟩
  · intro s c e rest hq he hp hr hpo hc hi key count done stores gives index skip inRange moved
    have h : RowReady s c e := ⟨by rw [headEntry, hq]; rfl, he, hp, hr, hpo, hc, hi⟩
    refine ⟨fun d l ch v hl hop hn hg => ?_, fun fn r dst ctl v hop hn hg => h.red_works hop rfl rfl hn hg,
      fun fn d r ctl v hop hn hg => h.scan_works hop rfl rfl hn hg,
      fun d t ix ctl hop hn hq => ⟨fun v hi hv => h.gath_works hop rfl rfl hn hq hi hv, fun i hi hj hs hm => h.gath_fails hop hn hi hj hs hm⟩,
      fun fn t r ix ctl st v hop hn hq hi h0 hst => h.scat_works hop rfl rfl hn hq hi h0 hst,
      fun fn d a b r sb ctl v y hop hn ha hb hr hy => ?_, fun d r ctl hop hn hq => ?_,
      fun d hop => ⟨fun hx => h.search_works hop rfl hx, fun i x hi hx hj => h.search_fails hop hi hx hj⟩,
      fun pat r m hop hn hq => h.find_works hop rfl rfl hn hq,
      fun dst m r res st hop hn hq h0 hst => h.count_works hop rfl rfl hn hq h0 (fun _ => rfl) hst⟩
    · exact h.chain_works hop hn (hg 0 (by decide)) (hg 1 (by decide)) (hg 2 (by decide))
    · have hd := h.dot_works hop rfl rfl hn ha hb hr hy
      intro u
      cases hres : ctl.res with
      | true =>
        rw [hres] at hd
        exact hd
      | false =>
        rw [hres] at hd
        exact hd
    · have hd := h.perm_works hop rfl rfl hn hq
      intro v o u
      cases hres : ctl.res with
      | true =>
        rw [hres] at hd
        exact hd
      | false =>
        rw [hres] at hd
        exact hd
  · intro s key fn a b k j sb p q hf hs h0 l h
    exact dotOut_blocks hf hs h0 h
  · rw [findScan_single]
    simp only [Nat.add_zero, Option.map_id']

end Sys2Proof.Machine
end

section
/-! The operations of the copy unit on bytes and values (R201, R204, R213). -/

namespace Sys2Proof.Machine

/-! ## Overlapping forward copies (R201) -/

theorem overlapBytes_apart {p d : Place} {v : List Byte} (h : (p.space ≠ d.space ∧ (p.inPond && d.inPond) = false) ∨ p.core ≠ d.core ∨
    d.off ≤ p.off ∨ p.off + v.length ≤ d.off) : overlapBytes p d v = v := by
  unfold overlapBytes
  dsimp only
  rw [if_neg]
  rintro ⟨hs, hl, hu⟩
  rw [Bool.and_eq_true, Bool.or_eq_true, beq_iff_eq, beq_iff_eq] at hs
  obtain ⟨hs, hc⟩ := hs
  rcases h with ⟨hp, hn⟩ | h | h | h
  · rcases hs with hs | hs
    · exact hp hs
    · rw [hn] at hs
      cases hs
  · exact h hc
  · omega
  · omega

theorem overlapBytes_repeats {p d : Place} {v : List Byte} {i : Nat} (hi : i < v.length) (hs : p.space = d.space) (hc : p.core = d.core)
    (hl : p.off < d.off) (hu : d.off < p.off + v.length) : (overlapBytes p d v)[i]? = v[i % (d.off - p.off)]? := by
  have hm : i % (d.off - p.off) < v.length := Nat.lt_of_lt_of_le (Nat.mod_lt i (by omega)) (by omega)
  unfold overlapBytes
  dsimp only
  rw [if_pos ⟨by simp [hs, hc], hl, hu⟩, List.getElem?_map, List.getElem?_range hi, List.getElem?_eq_getElem hm]
  simp [hm]

/-! ## The select pass (R204) -/

theorem selStep_left {z : Prog} {x i : Nat} (h : decodeFmt 2 x = .nan ∨ decodeFmt 2 x = .inf true) : selStep z x i = z := by
  unfold selStep
  dsimp only
  rw [if_pos h]

theorem selStep_taken {z : Prog} {x i : Nat} (h : decodeFmt 2 x ≠ .nan) (h' : decodeFmt 2 x ≠ .inf true) :
    (selStep z x i).selC = selInsert x i z.selC ∧
      (selStep z x i).selM = if fcompare 2 (fun o => decide (o > 0)) x z.selM then x else z.selM := by
  unfold selStep
  dsimp only
  rw [if_neg (not_or.mpr ⟨h, h'⟩)]
  split
  · exact ⟨rfl, rfl⟩
  · split <;> exact ⟨rfl, rfl⟩

theorem length_selInsert (x i : Nat) (l : List (Nat × Nat)) : (selInsert x i l).length = min 8 (l.length + 1) := by
  have h := congrArg List.length (List.takeWhile_append_dropWhile
    (p := fun p : Nat × Nat => !fcompare 2 (fun o => decide (o > 0)) x p.1) (l := l))
  rw [List.length_append] at h
  unfold selInsert
  dsimp only
  rw [List.length_take, List.length_append, List.length_append, List.length_singleton]
  omega

/-! ## Element operations and the sum of LKOP (R213) -/

theorem foldl_ite_sum (w : Nat) (sg : Bool) (l : List Nat) : l.foldl (fun (a : Int) v => a + (if sg then sgn v w else (v : Int))) 0 =
    (l.map (fun v => if sg then sgn v w else (v : Int))).sum := by
  rw [foldl_add_int l (fun v => if sg then sgn v w else (v : Int)), Int.zero_add]

theorem clampInt_eq {lo hi : Int} (h : lo ≤ hi) (x : Int) : clampInt lo hi x = max lo (min hi x) := by
  unfold clampInt
  split
  · omega
  · split <;> omega

theorem intRange_le (sg : Bool) (w : Nat) : (intRange sg w).1 ≤ (intRange sg w).2 := by
  have h (n : Nat) : 1 ≤ 2 ^ n := Nat.one_le_two_pow
  cases sg
  · show (0 : Int) ≤ (2 ^ w : Nat) - 1
    have := h w
    omega
  · show -((2 ^ (w - 1) : Nat) : Int) ≤ (2 ^ (w - 1) : Nat) - 1
    have := h (w - 1)
    omega

theorem wrap_pow (i : Int) (w : Nat) : wrap i w = (i % 2 ^ w).toNat := by
  unfold wrap
  push_cast
  rfl

theorem rsumOf_exact (w : Nat) (sg : Bool) (l : List Nat) : let total := (l.map (fun v => if sg then sgn v w else (v : Int))).sum
    rsumOf w sg false l = ((if sg then max (-2 ^ 63) (min (2 ^ 63 - 1) total) else max 0 (min (2 ^ 64 - 1) total)) % 2 ^ 64).toNat := by
  intro total
  have hr : rsumOf w sg false l = wrap (satInt sg 64 (l.foldl (fun (a : Int) v => a + (if sg then sgn v w else (v : Int))) 0)) 64 := rfl
  rw [hr, foldl_ite_sum, wrap_pow, satInt, clampInt_eq (intRange_le sg 64)]
  cases sg <;> rfl

theorem lkopFn_spec (fn : Nat) (sg : Bool) (x y : BitVec 32) :
    let r (v : BitVec 32) : Prop := lkopFn fn 32 sg x.toNat y.toNat = v.toNat
    (fn = 0 → r y) ∧ (fn = 1 → r (x + y)) ∧ (fn = 2 → r (if x.toNat + y.toNat < 2 ^ 32 then x + y else -1)) ∧
    (fn = 3 → r (if sg then (if y.slt x then y else x) else (if y.ult x then y else x))) ∧
    (fn = 4 → r (if sg then (if x.slt y then y else x) else (if x.ult y then y else x))) ∧
    (fn = 5 → r (x &&& y)) ∧ (fn = 6 → r (x ||| y)) ∧ (fn = 7 → r (x ^^^ y)) := by
  obtain ⟨-, -, -, h41, h42, h43, h44, -⟩ := elemOp_spec 0 0 x y
  have hm : y.toNat % 2 ^ 32 = y.toNat := Nat.mod_eq_of_lt y.isLt
  refine ⟨?_, ?_, ?_, ?_, ?_, ?_, ?_, ?_⟩
  all_goals rintro rfl
  · exact hm
  · show (x.toNat + y.toNat % 2 ^ 32) % 2 ^ 32 = _
    rw [hm, BitVec.toNat_add]
  · show min (x.toNat + y.toNat % 2 ^ 32) (2 ^ 32 - 1) = _
    rw [hm]
    split
    · rename_i hl
      rw [BitVec.toNat_add, Nat.mod_eq_of_lt hl]
      omega
    · show _ = 2 ^ 32 - 1
      omega
  · show (if sg = true then (if sgn (y.toNat % 2 ^ 32) 32 < sgn x.toNat 32 then y.toNat % 2 ^ 32 else x.toNat) else min x.toNat (y.toNat % 2 ^ 32)) = _
    rw [hm]
    cases sg
    · exact h43
    · exact h41
  · show (if sg = true then (if sgn x.toNat 32 < sgn (y.toNat % 2 ^ 32) 32 then y.toNat % 2 ^ 32 else x.toNat) else max x.toNat (y.toNat % 2 ^ 32)) = _
    rw [hm]
    cases sg
    · exact h44
    · exact h42
  · show Nat.land x.toNat (y.toNat % 2 ^ 32) = _
    rw [hm]
    exact (BitVec.toNat_and x y).symm
  · show Nat.lor x.toNat (y.toNat % 2 ^ 32) = _
    rw [hm]
    exact (BitVec.toNat_or x y).symm
  · show Nat.xor x.toNat (y.toNat % 2 ^ 32) = _
    rw [hm]
    exact (BitVec.toNat_xor x y).symm

end Sys2Proof.Machine
end

section
/-! A sector of the copy unit within memory that needs no translation (R198, R201). -/

namespace Sys2Proof.Machine

/-! ## The head entry of a side -/

/-- An entry whose wait is over. -/
def awake (e : Entry) : Entry := { e with wait := .none }

/-- The head entry of a side, of which the next sector may run, its checks passed, with nothing remote or poisoned (R198, R201). -/
structure SectorReady (s : State) (c : Nat) (side : BitVec 1) (e : Entry) : Prop where
  head : headEntry s c (3 * side.toNat) = some e
  unit : e.q = 3 * side.toNat
  runs : unitMayRun s c e = true
  clean : s.poison = []
  quiet : s.remotes = []
  taken : e.prog.taken = []
  checks : copyCheck s c (awake e) = .ok ()

section
variable {s : State} {c : Nat} {side : BitVec 1} {e : Entry} (h : SectorReady s c side e)
include h

theorem SectorReady.queue_lt : e.q < 4 := by
  have := side.isLt
  rw [h.unit]
  omega

theorem SectorReady.exec_eq (hop : ∀ va frame, e.op ≠ .pgin va frame) :
    exec (.copySector c side) s = entryStep s c e (copyStep s c (awake e)) := by
  show execCopySector c side s = _
  rw [execCopySector, h.head]
  dsimp only
  rw [if_neg (by rw [h.runs]; decide)]
  split
  · rename_i he
    exact absurd he (hop _ _)
  · rfl

/-- A step that moves the entry on completes. -/
theorem SectorReady.moves {u : State} {f : Entry} (hop : ∀ va frame, e.op ≠ .pgin va frame) (hv : copyStep s c (awake e) = putEntry u c f)
    (hq : f.q = e.q) (hne : f ≠ e) : exec (.copySector c side) s = .next (putEntry u c f) := by
  rw [h.exec_eq hop, hv, entryStep, if_neg]
  rintro ⟨hh, -⟩
  rw [headEntry, putEntry, hq, queueAt_setQueue_same, List.head?_cons, Option.some.injEq] at hh
  exact hne hh

/-- A step in which the entry meets a cause completes. -/
theorem SectorReady.stops {t : State} (hop : ∀ va frame, e.op ≠ .pgin va frame) (hv : copyStep s c (awake e) = t) (ht : Stuck t c e.q e.sx) :
    exec (.copySector c side) s = .next t := by
  rw [h.exec_eq hop, hv, entryStep_stuck ht (unitMayRun_fresh h.runs).2]

theorem SectorReady.ended : e.ended = false := (unitMayRun_fresh h.runs).1

end

/-! ## Sectors that lie near -/

/-- The pieces of ranges that need no translation. -/
def nearSpots (l : List (Place × Nat)) : List (Spot × Nat) := l.map (fun x => (.near x.1, x.2))

theorem spots_near (c ctx : Nat) (wr : Bool) (s : State) {l : List (Place × Nat)} (hl : ∀ x, x ∈ l → x.1.space ≠ 0) (acc : List (Spot × Nat)) :
    spots c ctx wr l s acc = .ok (s, acc ++ nearSpots l) := by
  induction l generalizing acc with
  | nil => rw [spots, nearSpots, List.map_nil, List.append_nil]
  | cons x l ih =>
    obtain ⟨p, n⟩ := x
    rw [spots, if_pos (hl (p, n) (.head _)), ih fun y hy => hl y (.tail _ hy), List.append_assoc]
    rfl

theorem flatMap_spotRead (s : State) (key : Nat) (l : List (Place × Nat)) : (nearSpots l).flatMap (spotRead s key []) = readPlaces s key l := by
  unfold nearSpots readPlaces
  rw [List.flatMap_map]
  rfl

theorem fabUnits_near (l : List (Place × Nat)) : fabUnits (nearSpots l) = [] := by
  unfold fabUnits nearSpots
  rw [List.flatMap_map]
  exact List.flatMap_eq_nil_iff.mpr fun _ _ => rfl

theorem cutData_near (l : List (Place × Nat)) (v : List Byte) : cutData (nearSpots l) v = (cutPlaces l v).map (fun x => (.near x.1, x.2)) := by
  induction l generalizing v with
  | nil => rfl
  | cons x l ih =>
    obtain ⟨p, n⟩ := x
    exact congrArg (_ :: ·) (ih _)

theorem writeFlits_near (l : List (Place × Nat)) (v : List Byte) : writeFlits (nearSpots l) v = [] := by
  unfold writeFlits
  rw [cutData_near, List.flatMap_map]
  exact List.flatMap_eq_nil_iff.mpr fun _ _ => rfl

theorem sectorWrite_near (s : State) (key : Nat) (sec : Sector) (v : List Byte) : sectorWrite s key sec (nearSpots sec.writes) v =
    fillWritten (putPlaces s key (cutPlaces sec.writes v)) sec.writes sec.laterWrites := by
  unfold sectorWrite putPlaces
  rw [cutData_near, List.foldl_map]
  rfl

/-- What an entry is after a sector: its progress p is next's to move on. -/
def sectorLeft (e : Entry) (p : Prog) : Entry := { e with prog := { p with taken := [], cleared := [] }, wait := .none, waited := 0 }

theorem SectorReady.performs {s : State} {c : Nat} {side : BitVec 1} {e : Entry} (h : SectorReady s c side e) {sec : Sector} {next : Entry → Entry}
    {v : List Byte} {p : Prog} (hsq : e.op.srcSq = 0) (hr : ∀ x, x ∈ sec.reads → x.1.space ≠ 0) (hw : ∀ x, x ∈ sec.writes → x.1.space ≠ 0)
    (hd : sec.data s (readPlaces s (keyOfEntry s e) sec.reads) e.prog = .ok (v, p)) :
    runSector s c (awake e) sec next = putEntry (sectorDone s e sec.writes sec.laterWrites v) c (next (sectorLeft e p)) := by
  have ht : sectorTake s (awake e) sec = ⟨s, [], e.prog.cleared, none⟩ := by
    unfold sectorTake
    dsimp only
    rw [if_pos (show (awake e).op.srcSq = 0 from hsq)]
    show (⟨s, e.prog.taken, e.prog.cleared, none⟩ : Took) = _
    rw [h.taken]
  have hp : ({ (awake e).prog with taken := [], cleared := e.prog.cleared } : Prog) = e.prog := by
    show ({ e.prog with taken := [], cleared := e.prog.cleared } : Prog) = e.prog
    rw [← h.taken]
  have he : ({ awake e with prog := { (awake e).prog with taken := [], cleared := e.prog.cleared } } : Entry) = awake e :=
    congrArg (fun p => ({ e with prog := p, wait := .none } : Entry)) hp
  have hb : remoteBusy s c (awake e) = false := by
    unfold remoteBusy
    rw [h.quiet]
    rfl
  have hpo : spotPoison s (keyOfEntry s e) (nearSpots sec.reads) = none := by
    unfold spotPoison
    rw [h.clean]
    rfl
  unfold runSector
  dsimp only
  rw [spots_near c _ _ s hr, List.nil_append]
  dsimp only
  rw [spots_near c _ _ s hw, List.nil_append]
  dsimp only
  rw [ht]
  dsimp only at he hp ⊢
  simp only [he]
  simp only [hp]
  change (match spotPoison s (keyOfEntry s e) (nearSpots sec.reads) with | some cause => _ | none => _) = _
  rw [hpo]
  dsimp only
  rw [hb, fabUnits_near, flatMap_spotRead]
  simp only [List.filter_nil, List.isEmpty_nil, Bool.not_true, Bool.false_eq_true, if_false]
  change (match sec.data s (readPlaces s (keyOfEntry s e) sec.reads) e.prog with | .error cause => _ | .ok (v, p) => _) = _
  rw [hd]
  dsimp only
  rw [writeFlits_near, List.drop_nil, sendWrites]
  dsimp only
  rw [List.length_nil, if_neg (Nat.lt_irrefl 0), sectorWrite_near]
  rfl

/-- A sector whose entry moves on by next: the state is u but for the entry. -/
theorem SectorReady.works {s : State} {c : Nat} {side : BitVec 1} {e : Entry} (h : SectorReady s c side e) {u : State} {f : Entry} {last : Bool}
    {result : Option Nat} {P : Prog → Prop} (hop : ∀ va frame, e.op ≠ .pgin va frame) (hv : copyStep s c (awake e) = putEntry u c f)
    (hq : f.q = e.q) (hsx : f.sx = e.sx) (hseq : f.seq = e.seq) (hfop : f.op = e.op) (hf : f.fault = e.fault) (hne : f ≠ e)
    (hended : f.ended = last) (hr : last = true → f.prog.result = result) (hP : P f.prog) :
    WorksOn (.copySector c side) s u c e last result P :=
  ⟨f, h.moves hop hv hq hne, hended, hq, hsx, hseq, hfop, hf, hr, hP⟩

/-- A sector after which the entry's progress is that of a flat transfer. -/
theorem SectorReady.works_step {s : State} {c : Nat} {side : BitVec 1} {e : Entry} (h : SectorReady s c side e) {u : State} {p : Prog}
    {last : Bool} {n : Nat} {fin : Entry → Option Nat} {result : Option Nat} {P : Prog → Prop} (hop : ∀ va frame, e.op ≠ .pgin va frame)
    (hv : copyStep s c (awake e) = putEntry u c (stepProg last n fin (sectorLeft e p))) (hk : p.sect = e.prog.sect)
    (hr : ∀ f : Entry, f.prog.bytes = p.bytes + n → fin f = result)
    (hP : ∀ r, P { p with sect := p.sect + 1, bytes := p.bytes + n, taken := [], cleared := [], result := r }) :
    WorksOn (.copySector c side) s u c e last result P := by
  cases last with
  | false =>
    refine h.works hop hv rfl rfl rfl rfl rfl (fun he => ?_) h.ended (fun hl => by cases hl) (hP p.result)
    have hs : e.prog.sect + 1 = e.prog.sect := by
      rw [← hk]
      exact (congrArg (fun f : Entry => f.prog.sect) he).trans hk.symm
    omega
  | true =>
    refine h.works hop hv rfl rfl rfl rfl rfl (fun he => ?_) rfl (fun _ => hr _ rfl) (hP _)
    have hs := congrArg Entry.ended he
    rw [h.ended] at hs
    cases hs

end Sys2Proof.Machine
end

section
/-! Sectors of flat transfers, multicasts and select passes (R201 to R204). -/

namespace Sys2Proof.Machine

theorem readPlaces_single (s : State) (key : Nat) (p : Place) (n : Nat) : readPlaces s key [(p, n)] = fetchPlace s key p n := by
  simp [readPlaces]

/-- The sector of a flat transfer that begins at byte 512 × k. -/
def sectorLen (len k : Nat) : Nat := min 512 (len - 512 * k)

/-- A sector of a select pass, its elements FP32. -/
def selSector (d : Option Place) (p : Place) (len k : Nat) : Sector :=
  { flatSector d p len k with data := fun _ v z => .ok (d.toList.flatMap (fun q => overlapBytes p q v), selPass z v) }

theorem selStep_sect (z : Prog) (x i : Nat) : (selStep z x i).sect = z.sect := by
  unfold selStep
  dsimp only
  split
  · rfl
  · split
    · rfl
    · split <;> rfl

theorem selPass_sect (z : Prog) (v : List Byte) : (selPass z v).sect = z.sect :=
  foldl_invariant (P := fun y : Prog => y.sect = z.sect) _ rfl fun y hy _ _ => (selStep_sect y _ _).trans hy

section
variable {s : State} {c : Nat} {side : BitVec 1} {e : Entry} (h : SectorReady s c side e)
include h

theorem SectorReady.check : (if (awake e).prog.sect = 0 ∧ (awake e).prog.row = 0 then copyCheck s c (awake e) else .ok ()) = .ok () := by
  split
  · exact h.checks
  · rfl

/-! ## Flat transfers (R201) -/

theorem SectorReady.flat_step {d p : Place} {len sq : Nat} {res : Bool} (hop : e.op = .flat d p len sq res) (hc : flatConv s d p = none) :
    copyStep s c (awake e) = runSector s c (awake e) (flatSector (some d) p len e.prog.sect)
      (stepProg (lastSector len e.prog.sect) (sectorLen len e.prog.sect) (fun e => resIf res e.prog.bytes)) := by
  unfold copyStep
  dsimp only
  rw [h.check]
  dsimp only
  rw [show (awake e).op = _ from hop]
  dsimp only
  rw [hc]
  rfl

theorem SectorReady.flat_works {d p : Place} {len : Nat} {res : Bool} (hop : e.op = .flat d p len 0 res) (hd : d.space ≠ 0) (hp : p.space ≠ 0)
    (hc : flatConv s d p = none) : let k := e.prog.sect
    let n := sectorLen len k
    WorksOn (.copySector c side) s (sectorDone s e [(d.plus (512 * k), n)] [(d.plus (512 * k + n), len - 512 * k - n)]
        (overlapBytes p d (fetchPlace s (keyOfEntry s e) (p.plus (512 * k)) n))) c e (decide (len ≤ 512 * (k + 1)))
      (resIf res (e.prog.bytes + n)) fun z => z.sect = k + 1 ∧ z.bytes = e.prog.bytes + n := by
  intro k n
  have hs := h.performs (sec := flatSector (some d) p len k) (next := stepProg (lastSector len k) n (fun e => resIf res e.prog.bytes))
    (v := overlapBytes p d (fetchPlace s (keyOfEntry s e) (p.plus (512 * k)) n)) (p := e.prog) (by rw [hop]; rfl)
    (fun x hx => by rw [List.mem_singleton.mp hx]; exact hp) (fun x hx => by rw [List.mem_singleton.mp hx]; exact hd)
    (by rw [flatSector, readPlaces_single]; rfl)
  exact h.works_step (fun _ _ hh => by rw [hop] at hh; cases hh) ((h.flat_step hop hc).trans hs) rfl (fun f hf => congrArg (resIf res) hf)
    fun _ => ⟨rfl, rfl⟩

/-! ## Multicasts (R203) -/

omit h in
/-- The pond places of a multicast's members, at an offset. -/
def mcastPlaces (c m aux o n : Nat) : List (Place × Nat) := ((List.range 48).filter (bit m)).map (fun i => (⟨2, c / 48 * 48 + i, aux + o⟩, n))

theorem SectorReady.mcast_step {m aux len sq : Nat} {p : Place} {res : Bool} (hop : e.op = .mcast m p aux len sq res) :
    let k := e.prog.sect
    copyStep s c (awake e) = runSector s c (awake e)
      { flatSector none p len k with
        writes := mcastPlaces c m aux (512 * k) (sectorLen len k)
        laterWrites := mcastPlaces c m aux (512 * k + sectorLen len k) (len - 512 * k - sectorLen len k)
        data := fun _ v p => .ok ((setBits 48 m).flatMap (fun _ => v), p) }
      (stepProg (lastSector len k) (sectorLen len k * (setBits 48 m).length) (fun e => resIf res e.prog.bytes)) := by
  intro k
  unfold copyStep
  dsimp only
  rw [h.check]
  dsimp only
  rw [show (awake e).op = _ from hop]
  rfl

theorem SectorReady.mcast_works {m aux len : Nat} {p : Place} {res : Bool} (hop : e.op = .mcast m p aux len 0 res) (hp : p.space ≠ 0) :
    let k := e.prog.sect
    let n := sectorLen len k
    let at_ := mcastPlaces c m aux
    WorksOn (.copySector c side) s (sectorDone s e (at_ (512 * k) n) (at_ (512 * k + n) (len - 512 * k - n))
        ((at_ 0 0).flatMap (fun _ => fetchPlace s (keyOfEntry s e) (p.plus (512 * k)) n))) c e (decide (len ≤ 512 * (k + 1)))
      (resIf res (e.prog.bytes + n * (at_ 0 0).length)) fun z => z.sect = k + 1 := by
  intro k n at_
  have hn : ∀ (o n : Nat) (x : Place × Nat), x ∈ at_ o n → x.1.space ≠ 0 := by
    intro o n x hx
    obtain ⟨i, -, rfl⟩ := List.mem_map.mp hx
    exact (by decide : (2 : Nat) ≠ 0)
  have hf : ∀ v : List Byte, (at_ 0 0).flatMap (fun _ => v) = (setBits 48 m).flatMap (fun _ => v) := fun v => List.flatMap_map ..
  have hl : (at_ 0 0).length = (setBits 48 m).length := List.length_map ..
  have hs := h.performs (sec := { flatSector none p len k with
        writes := at_ (512 * k) n
        laterWrites := at_ (512 * k + n) (len - 512 * k - n)
        data := fun _ v p => .ok ((setBits 48 m).flatMap (fun _ => v), p) })
    (next := stepProg (lastSector len k) (n * (setBits 48 m).length) (fun e => resIf res e.prog.bytes))
    (v := (setBits 48 m).flatMap (fun _ => fetchPlace s (keyOfEntry s e) (p.plus (512 * k)) n)) (p := e.prog) (by rw [hop]; rfl)
    (fun x hx => by rw [List.mem_singleton.mp hx]; exact hp) (hn _ _) (by dsimp only [flatSector]; rw [readPlaces_single]; rfl)
  rw [hf, hl]
  exact h.works_step (fun _ _ hh => by rw [hop] at hh; cases hh) ((h.mcast_step hop).trans hs) rfl (fun f hf => congrArg (resIf res) hf) fun _ => rfl

/-! ## Select passes (R204) -/

theorem SectorReady.csel_step {d : Option Place} {p aux : Place} {len sq : Nat} {res : Bool} (hop : e.op = .csel d p len sq aux res)
    (hc : ∀ q, d = some q → flatConv s q p = none) : let k := e.prog.sect
    copyStep s c (awake e) = runSector s c (awake e) (selSector d p len k)
      (stepProg (lastSector len k) (sectorLen len k) (fun _ => resIf res (tagged aux))) := by
  intro k
  have hb : d.bind (fun q => flatConv s q p) = none := by
    cases d with
    | none => rfl
    | some q => exact hc q rfl
  unfold copyStep
  dsimp only
  rw [h.check]
  dsimp only
  rw [show (awake e).op = _ from hop]
  dsimp only
  rw [hb]
  dsimp only
  refine congrArg (fun f => runSector s c (awake e) { flatSector d p len k with data := f } _) ?_
  funext u v z
  cases d with
  | none => rfl
  | some q =>
    rw [Option.toList_some, List.flatMap_singleton]
    rfl

theorem SectorReady.csel_works {d : Option Place} {p aux : Place} {len : Nat} {res : Bool} (hop : e.op = .csel d p len 0 aux res)
    (hc : ∀ q, d = some q → q.space ≠ 0 ∧ flatConv s q p = none) (hp : p.space ≠ 0) :
    let k := e.prog.sect
    let n := sectorLen len k
    let v := fetchPlace s (keyOfEntry s e) (p.plus (512 * k)) n
    let out (o n : Nat) : List (Place × Nat) := d.toList.map (fun q => (q.plus o, n))
    WorksOn (.copySector c side) s (sectorDone s e (out (512 * k) n) (out (512 * k + n) (len - 512 * k - n))
        (d.toList.flatMap (fun q => overlapBytes p q v))) c e (decide (len ≤ 512 * (k + 1))) (resIf res (tagged aux)) fun z =>
      let w := selPass e.prog v
      z.selM = w.selM ∧ z.selS = w.selS ∧ z.selC = w.selC ∧ z.count = w.count ∧ z.acc = w.acc := by
  intro k n v out
  have hws : (selSector d p len k).writes = out (512 * k) n := by cases d <;> rfl
  have hls : (selSector d p len k).laterWrites = out (512 * k + n) (len - 512 * k - n) := by cases d <;> rfl
  have hs := h.performs (sec := selSector d p len k) (next := stepProg (lastSector len k) n (fun _ => resIf res (tagged aux)))
    (v := d.toList.flatMap (fun q => overlapBytes p q v)) (p := selPass e.prog v) (by rw [hop]; rfl)
    (fun x hx => by rw [List.mem_singleton.mp hx]; exact hp)
    (fun x hx => by
      rw [hws] at hx
      obtain ⟨q, hq, rfl⟩ := List.mem_map.mp hx
      exact (hc q (Option.mem_toList.mp hq)).1)
    (by
      have hrd : readPlaces s (keyOfEntry s e) (selSector d p len k).reads = v := readPlaces_single ..
      rw [hrd]
      rfl)
  rw [hws, hls] at hs
  exact h.works_step (fun _ _ hh => by rw [hop] at hh; cases hh) ((h.csel_step hop fun q hq => (hc q hq).2).trans hs) (selPass_sect ..)
    (fun _ _ => rfl) fun _ => ⟨rfl, rfl, rfl, rfl, rfl⟩

end

end Sys2Proof.Machine
end

section
/-! Sectors of CPX (R206). -/

namespace Sys2Proof.Machine

theorem length_fetchPlace (s : State) (key : Nat) (p : Place) (n : Nat) : (fetchPlace s key p n).length = n := by
  have hr : ∀ p : Place, (readPlace s key p n).length = n := by
    induction n with
    | zero => exact fun _ => rfl
    | succ n ih => exact fun p => congrArg (· + 1) (ih _)
  unfold fetchPlace
  split
  · exact hr p
  · exact readN_length _ _ n

theorem dimCount_cons (e : Nat) (st : Int) (o : Nat) (l : List Dim) : dimCount ((e, st, o) :: l) = e * dimCount l := by
  have hf : ∀ (l : List Dim) (a : Nat), l.foldl (fun n d => n * d.1) a = a * l.foldl (fun n d => n * d.1) 1 := by
    intro l
    induction l with
    | nil => intro a; exact (Nat.mul_one a).symm
    | cons d l ih =>
      intro a
      rw [List.foldl_cons, List.foldl_cons, ih, ih (1 * d.1), Nat.one_mul, Nat.mul_assoc]
  unfold dimCount
  rw [List.foldl_cons, hf, Nat.one_mul]

theorem chunks_self {α : Type} {n : Nat} {l : List α} (hl : l.length = n) (hn : 0 < n) : chunks n l = [l] := by
  subst hl
  cases l with
  | nil => cases hn
  | cons x t =>
    have h1 : chunks (x :: t).length (x :: t) =
        (x :: t).take (x :: t).length :: chunksAux (x :: t).length t.length ((x :: t).drop (x :: t).length) := rfl
    rw [h1, List.take_length, List.drop_length]
    cases t.length <;> rfl

/-! ## Groups of single elements (R206) -/

section
variable {fmt : Nat} (hb : fmtBlock fmt = false)
include hb

theorem groupCount_single {dims : List Dim} (hd : dims ≠ []) : groupCount fmt dims = dimCount dims := by
  cases dims with
  | nil => exact absurd rfl hd
  | cons d t =>
    obtain ⟨e, st, o⟩ := d
    have hr : runGroups fmt ((e, st, o) :: t) = e := by
      unfold runGroups
      simp only [hb, Bool.false_eq_true, if_false]
    unfold groupCount
    simp only [hr, dimCount_cons]
    split
    · rename_i hz
      exact hz.symm
    · rfl

theorem groupVisits_single {dims : List Dim} (hd : dims ≠ []) (g : Nat) : groupVisits fmt dims g = (g, 1) := by
  cases dims with
  | nil => exact absurd rfl hd
  | cons d t =>
    obtain ⟨e, st, o⟩ := d
    unfold groupVisits
    simp only [hb, Bool.false_eq_true, if_false]

theorem groupPlaces_single (s : State) (base : Place) (dims : List Dim) (v : Nat) :
    groupPlaces s fmt base dims v 1 = [(base.shift (dimElem dims v * fmtBytes fmt), fmtBytes fmt)] := by
  unfold groupPlaces elemBytes
  simp [hb]

end

/-- The places of n elements visited from a on. -/
def elemPlaces (fmt : Nat) (base : Place) (dims : List Dim) (a n : Nat) : List (Place × Nat) :=
  (List.range n).map (fun i => (base.shift (dimElem dims (a + i) * fmtBytes fmt), fmtBytes fmt))

theorem groupLen_elems (fmt : Nat) (base : Place) (dims : List Dim) (a n : Nat) : groupLen (elemPlaces fmt base dims a n) = n * fmtBytes fmt := by
  unfold groupLen elemPlaces
  induction n with
  | zero => exact (Nat.zero_mul _).symm
  | succ n ih =>
    rw [List.range_succ, List.map_append, List.foldl_append, ih, Nat.succ_mul]
    rfl

theorem flatMap_single {s : State} {fmt : Nat} (hb : fmtBlock fmt = false) (base : Place) (dims : List Dim) (a n : Nat) :
    ((List.range n).map (fun i => (a + i, 1))).flatMap (fun g => groupPlaces s fmt base dims g.1 g.2) = elemPlaces fmt base dims a n := by
  rw [List.flatMap_map]
  simp only [groupPlaces_single hb]
  exact List.map_eq_flatMap.symm

/-- One element of a CPX: unchanged where a side is raw or the formats agree, else converted (R49, R206). -/
def cpxElem (d r : Layout) (sf df : Nat) (v : List Byte) : List Byte :=
  if d.fmt = 0 ∨ r.fmt = 0 ∨ d.fmt = r.fmt then v else leBytes (fmtBytes df) (encodeFmt df 0 (decodeFmt sf (leNat v)))

theorem groupBytes_single {d r : Layout} {sd dd : List Dim} {sf df v : Nat} {b : List Byte} (hs : fmtBlock sf = false) (hd : fmtBlock df = false)
    (hl : b.length = fmtBytes sf) (h0 : 0 < fmtBytes sf) : groupBytes d r sd dd sf df v 1 b = .ok (cpxElem d r sf df b) := by
  have hr : (cpxRaw d r = true) ↔ d.fmt = 0 ∨ r.fmt = 0 ∨ d.fmt = r.fmt := by
    simp only [cpxRaw, Bool.or_eq_true, beq_iff_eq, or_assoc]
  unfold groupBytes cpxElem
  dsimp only
  simp only [hd, Bool.not_false, Bool.true_or, Bool.and_true, hr]
  split
  · rfl
  · simp only [groupValues, hs, Bool.false_eq_true, if_false, chunks_self hl h0, List.map_cons, List.map_nil, List.flatMap_cons, List.flatMap_nil,
      List.append_nil]

theorem groupsData_single {s : State} {key : Nat} {d r : Layout} {sd dd : List Dim} {sf df : Nat} (hs : fmtBlock sf = false)
    (hd : fmtBlock df = false) (h0 : 0 < fmtBytes sf) (l : List Nat) :
    groupsData s d r sd dd sf df (l.map (fun v => (v, 1)))
        (l.flatMap (fun v => fetchPlace s key (r.base.shift (dimElem sd v * fmtBytes sf)) (fmtBytes sf))) =
      .ok (l.flatMap (fun v => cpxElem d r sf df (fetchPlace s key (r.base.shift (dimElem sd v * fmtBytes sf)) (fmtBytes sf)))) := by
  induction l with
  | nil => rfl
  | cons v l ih =>
    have hk : groupLen (groupPlaces s sf r.base sd v 1) = fmtBytes sf := by
      rw [groupPlaces_single hs]
      exact Nat.zero_add _
    have hl := length_fetchPlace s key (r.base.shift (dimElem sd v * fmtBytes sf)) (fmtBytes sf)
    rw [List.map_cons, List.flatMap_cons, List.flatMap_cons, groupsData]
    rw [hk, List.take_left' hl, List.drop_left' hl, groupBytes_single hs hd hl h0, ih]

/-! ## A sector of a CPX (R206) -/

/-- The sector of elements lo to hi of a CPX of single elements, all elements in all. -/
theorem cpxSector_single {s : State} {key : Nat} {d r : Layout} {k lo hi all sf df : Nat} (hsf : sideFmt r.fmt d.fmt = sf)
    (hdf : sideFmt d.fmt r.fmt = df) (hs : fmtBlock sf = false) (hd : fmtBlock df = false) (h0 : 0 < fmtBytes sf) (hdims : d.dims s key ≠ [])
    (hall : dimCount (d.dims s key) = all) (hlo : ceilDiv (512 * k) (fmtBytes df) = lo)
    (hhi : min all (ceilDiv (512 * (k + 1)) (fmtBytes df)) = hi) (hlt : lo < hi) : ∃ sec : Sector,
    cpxSector s key d r k = (sec, decide (all ≤ hi), (hi - lo) * fmtBytes df, hi) ∧
      sec.reads = elemPlaces sf r.base (r.dims s key) lo (hi - lo) ∧ sec.writes = elemPlaces df d.base (d.dims s key) lo (hi - lo) ∧
      sec.laterWrites = elemPlaces df d.base (d.dims s key) hi (all - hi) ∧
      ∀ p, sec.data s (readPlaces s key sec.reads) p = .ok ((List.range (hi - lo)).flatMap (fun i => cpxElem d r sf df
        (fetchPlace s key (r.base.shift (dimElem (r.dims s key) (lo + i) * fmtBytes sf)) (fmtBytes sf))), p) := by
  have hg : ∀ k, sectorGroup s df d.base k = ceilDiv (512 * k) (fmtBytes df) := fun k => by
    simp only [sectorGroup, hd, Bool.false_eq_true, if_false]
  have hlast : ((List.range (hi - lo)).map (fun i => (lo + i, 1))).getLastD (0, 0) = (hi - 1, 1) := by
    obtain ⟨m, hm⟩ : ∃ m, hi - lo = m + 1 := ⟨hi - lo - 1, by omega⟩
    rw [hm, List.range_succ, List.map_append, List.map_cons, List.map_nil, List.getLastD_concat]
    exact Prod.ext (by dsimp only; omega) rfl
  have hhi' : Nat.min all (ceilDiv (512 * (k + 1)) (fmtBytes df)) = hi := hhi
  unfold cpxSector cpxDims
  dsimp only
  simp only [hsf, hdf, groupCount_single hd hdims, hall, hg, hlo, hhi', groupVisits_single hd hdims]
  refine ⟨_, Prod.ext rfl (Prod.ext rfl (Prod.ext ?_ ?_)), ?_, ?_, ?_, ?_⟩
  · dsimp only
    rw [flatMap_single hd, groupLen_elems]
  · dsimp only
    rw [hlast]
    dsimp only
    omega
  · exact flatMap_single hs ..
  · exact flatMap_single hd ..
  · exact flatMap_single hd ..
  · intro p
    dsimp only
    have hl := groupsData_single (s := s) (key := key) (d := d) (r := r) (sd := r.dims s key) (dd := d.dims s key) hs hd h0
      ((List.range (hi - lo)).map (fun i => lo + i))
    rw [List.map_map, List.flatMap_map, List.flatMap_map] at hl
    have hrd : readPlaces s key (elemPlaces sf r.base (r.dims s key) lo (hi - lo)) = (List.range (hi - lo)).flatMap (fun i =>
        fetchPlace s key (r.base.shift (dimElem (r.dims s key) (lo + i) * fmtBytes sf)) (fmtBytes sf)) := List.flatMap_map ..
    have hf : (fun v => (v, 1)) ∘ (fun i => lo + i) = fun i => (lo + i, 1) := rfl
    rw [flatMap_single hs, hrd, ← hf, hl]

section
variable {s : State} {c : Nat} {side : BitVec 1} {e : Entry} (h : SectorReady s c side e)
include h

theorem SectorReady.cpx_step {d r : Layout} {sq n row : Nat} {res last : Bool} {sec : Sector} (hop : e.op = .cpx d r sq res)
    (hsec : cpxSector s (keyOfEntry s e) d r e.prog.sect = (sec, last, n, row)) :
    copyStep s c (awake e) = runSector s c (awake e) sec (fun e =>
      stepProg last n (fun e => resIf res e.prog.bytes) { e with prog := { e.prog with row := row } }) := by
  unfold copyStep
  dsimp only
  rw [h.check]
  dsimp only
  rw [show (awake e).op = _ from hop]
  dsimp only
  rw [show cpxSector s (keyOfEntry s (awake e)) d r (awake e).prog.sect = _ from hsec]

theorem SectorReady.cpx_works {d r : Layout} {res : Bool} {lo hi all sf df : Nat} (hop : e.op = .cpx d r 0 res) (hdp : d.base.space ≠ 0)
    (hrp : r.base.space ≠ 0) (hsf : sideFmt r.fmt d.fmt = sf)
    (hdf : sideFmt d.fmt r.fmt = df) (hs : fmtBlock sf = false) (hd : fmtBlock df = false) (h0 : 0 < fmtBytes sf)
    (hdims : d.dims s (keyOfEntry s e) ≠ []) (hall : dimCount (d.dims s (keyOfEntry s e)) = all)
    (hlo : ceilDiv (512 * e.prog.sect) (fmtBytes df) = lo)
    (hhi : min all (ceilDiv (512 * (e.prog.sect + 1)) (fmtBytes df)) = hi) (hlt : lo < hi) :
    WorksOn (.copySector c side) s (sectorDone s e (elemPlaces df d.base (d.dims s (keyOfEntry s e)) lo (hi - lo))
        (elemPlaces df d.base (d.dims s (keyOfEntry s e)) hi (all - hi)) ((List.range (hi - lo)).flatMap (fun i => cpxElem d r sf df
        (fetchPlace s (keyOfEntry s e) (r.base.shift (dimElem (r.dims s (keyOfEntry s e)) (lo + i) * fmtBytes sf)) (fmtBytes sf)))))
      c e (decide (all ≤ hi)) (resIf res (e.prog.bytes + (hi - lo) * fmtBytes df)) fun z => z.sect = e.prog.sect + 1 ∧ z.row = hi := by
  obtain ⟨sec, hsec, hr, hw, hl, hdata⟩ := cpxSector_single hsf hdf hs hd h0 hdims hall hlo hhi hlt
  have hn : ∀ (fmt : Nat) (base : Place) (dims : List Dim) (a n : Nat), base.space ≠ 0 → ∀ x, x ∈ elemPlaces fmt base dims a n → x.1.space ≠ 0 := by
    intro fmt base dims a n hb x hx
    obtain ⟨i, -, rfl⟩ := List.mem_map.mp hx
    exact hb
  have hstep := (h.cpx_step hop hsec).trans (h.performs (by rw [hop]; rfl) (by rw [hr]; exact hn _ _ _ _ _ hrp)
    (by rw [hw]; exact hn _ _ _ _ _ hdp) (hdata e.prog))
  rw [hw, hl] at hstep
  exact h.works_step (p := { e.prog with row := hi }) (fun _ _ hh => by rw [hop] at hh; cases hh) hstep rfl (fun f hf => congrArg (resIf res) hf)
    fun _ => ⟨rfl, rfl⟩

end

end Sys2Proof.Machine
end

section
/-! Rows of CGATH and CSCAT (R207). -/

namespace Sys2Proof.Machine

/-- The transfer of a whole row of size bytes between a record and a table. -/
def rowTransfer (gather skip : Bool) (row : Place × Nat) (record later : List (Place × Nat)) (size : Nat) : Sector :=
  if gather then ⟨if skip then [] else [row], [], record, later, fun _ v p => .ok (if skip then List.replicate size 0 else v, p)⟩
  else ⟨record, later, if skip then [] else [row], [], fun _ v p => .ok (if skip then [] else v, p)⟩

/-- Whether an entry's result is asked for, if it is a row copy. -/
def rowRes (e : Entry) : Bool :=
  match e.op with
  | .cgath _ _ _ _ _ b => b
  | .cscat _ _ _ _ _ b => b
  | _ => false

/-- A row copy's entry behind a whole row. -/
def rowNext (last : Bool) (j moved : Nat) (e : Entry) : Entry :=
  let e' := { e with prog := { e.prog with sect := e.prog.sect + 1, acc := [0], row := j + 1, count := e.prog.count + moved } }
  if last then e'.finish (resIf (rowRes e) (e.prog.count + moved)) else e'

theorem rowPlaces_empty (s : State) (key : Nat) (r : Layout) (j n : Nat) : rowPlaces s key r j n n = [] := by
  unfold rowPlaces
  dsimp only
  split
  · rw [if_neg]
    have := Nat.min_le_left n ((rowSpan s key r j).2 * fmtBytes r.fmt)
    exact Nat.not_lt.mpr this
  · refine List.filterMap_eq_nil_iff.mpr fun i _ => ?_
    rw [if_neg]
    have h1 := Nat.min_le_left n ((i + 1) * fmtBytes r.fmt)
    have h2 := Nat.le_max_left n (i * fmtBytes r.fmt)
    exact Nat.not_lt.mpr (Nat.le_trans h1 h2)

theorem rowPlaces_space (s : State) (key : Nat) (r : Layout) (j lo hi : Nat) : ∀ x, x ∈ rowPlaces s key r j lo hi → x.1.space = r.base.space := by
  intro x hx
  unfold rowPlaces at hx
  dsimp only at hx
  split at hx
  · split at hx
    · rw [List.mem_singleton.mp hx]
      rfl
    · cases hx
  · obtain ⟨i, -, hi⟩ := List.mem_filterMap.mp hx
    split at hi
    · rw [← Option.some.inj hi]
      rfl
    · cases hi

theorem placePoison_clean {s : State} (hclean : s.poison = []) (key : Nat) (p : Place) (n : Nat) : placePoison s key p n = none := by
  unfold placePoison
  rw [hclean]
  rfl

/-- What a row copy reads and checks before it moves a row that fits a sector, from its start. -/
theorem rowSector_whole {s : State} {c : Nat} {e : Entry} {gather : Bool} {r : Layout} {t ix : Place} {stride size : Nat} {row : Place × Nat}
    (hclean : s.poison = []) (hacc : nth e.prog.acc 0 = 0) (hsize : (rowSpan s (keyOfEntry s e) r e.prog.row).2 * fmtBytes r.fmt = size)
    (h0 : 0 < size) (h1 : size ≤ 512) {skip : Bool}
    (hskip : (leNat (fetchPlace s (keyOfEntry s e) (ix.plus (4 * e.prog.row)) 4) == 0xFFFFFFFF) = skip)
    (hrow : (if skip then .ok (t, 0) else tableRow s ⟨c, e.sx⟩ e t stride
      (leNat (fetchPlace s (keyOfEntry s e) (ix.plus (4 * e.prog.row)) 4)) 0 size) = .ok row) :
    rowSector s c e gather r t stride ix = runSector s c e (rowTransfer gather skip row (rowPlaces s (keyOfEntry s e) r e.prog.row 0 size)
        (laterRows s (keyOfEntry s e) r e.prog.row) size)
      (fun f => rowNext (decide (rowCount s (keyOfEntry s e) r ≤ e.prog.row + 1)) e.prog.row (if skip then 0 else 1) f) := by
  have hm : Nat.min 512 size = size := Nat.min_eq_right h1
  have hp := placePoison_clean hclean (keyOfEntry s e) (ix.plus (4 * e.prog.row)) 4
  unfold rowSector
  dsimp only
  simp only [hacc, hsize, hskip, Nat.mul_zero, Nat.sub_zero, hm, Nat.zero_add, rowPlaces_empty, List.nil_append, h1, decide_true,
    Bool.true_and, if_true, Nat.ne_of_gt h0, decide_false, Bool.or_false]
  rw [hp]
  dsimp only
  rw [hrow]
  dsimp only
  cases skip <;> cases gather <;> rfl

theorem rowSector_refused {s : State} {c : Nat} {e : Entry} {gather : Bool} {r : Layout} {t ix : Place} {stride size : Nat} {cause : Cause}
    (hclean : s.poison = []) (hacc : nth e.prog.acc 0 = 0) (hsize : (rowSpan s (keyOfEntry s e) r e.prog.row).2 * fmtBytes r.fmt = size)
    (h1 : size ≤ 512) (hs : leNat (fetchPlace s (keyOfEntry s e) (ix.plus (4 * e.prog.row)) 4) ≠ 0xFFFFFFFF)
    (hrow : tableRow s ⟨c, e.sx⟩ e t stride (leNat (fetchPlace s (keyOfEntry s e) (ix.plus (4 * e.prog.row)) 4)) 0 size = .error cause) :
    rowSector s c e gather r t stride ix = failEntry s c e cause := by
  have hm : Nat.min 512 size = size := Nat.min_eq_right h1
  have hp := placePoison_clean hclean (keyOfEntry s e) (ix.plus (4 * e.prog.row)) 4
  unfold rowSector
  dsimp only
  simp only [hacc, hsize, beq_eq_false_iff_ne.mpr hs, Nat.mul_zero, Nat.sub_zero, hm, hrow, hp, Bool.false_eq_true, if_false]

section
variable {s : State} {c : Nat} {side : BitVec 1} {e : Entry} (h : SectorReady s c side e) {r : Layout} {t ix : Place} {stride : Nat} {res gather : Bool}
  (hop : e.op = if gather then .cgath r t stride ix 0 res else .cscat r t stride ix 0 res)
include h hop

theorem SectorReady.row_step : copyStep s c (awake e) = rowSector s c (awake e) gather r t stride ix := by
  unfold copyStep
  dsimp only
  rw [h.check]
  dsimp only
  rw [show (awake e).op = _ from hop]
  cases gather <;> rfl

omit h in
theorem row_not_pgout (va frame : Nat) : e.op ≠ .pgin va frame := by
  rw [hop]
  cases gather <;> exact nofun

omit h in
theorem row_srcSq : e.op.srcSq = 0 := by
  rw [hop]
  cases gather <;> rfl

omit h in
theorem row_res : rowRes e = res := by
  unfold rowRes
  rw [hop]
  cases gather <;> rfl

/-- A row moved or skipped: the state is u but for the entry. -/
theorem SectorReady.row_works {u : State} {last : Bool} {moved : Nat}
    (hv : copyStep s c (awake e) = putEntry u c (rowNext last e.prog.row moved (sectorLeft e e.prog))) :
    WorksOn (.copySector c side) s u c e last (resIf res (e.prog.count + moved))
      fun z => z.row = e.prog.row + 1 ∧ z.count = e.prog.count + moved ∧ z.sect = e.prog.sect + 1 := by
  have hr : rowRes (sectorLeft e e.prog) = res := row_res hop
  cases last with
  | false =>
    refine h.works (row_not_pgout hop) hv rfl rfl rfl rfl rfl (fun he => ?_) h.ended (fun hl => by cases hl) ⟨rfl, rfl, rfl⟩
    have hs : e.prog.row + 1 = e.prog.row := congrArg (fun f : Entry => f.prog.row) he
    omega
  | true =>
    refine h.works (row_not_pgout hop) hv rfl rfl rfl rfl rfl (fun he => ?_) rfl (fun _ => ?_) ⟨rfl, rfl, rfl⟩
    · have hs := congrArg Entry.ended he
      rw [h.ended] at hs
      cases hs
    · rw [← hr]
      rfl

section
variable {size i : Nat} (hacc : nth e.prog.acc 0 = 0) (hsize : (rowSpan s (keyOfEntry s e) r e.prog.row).2 * fmtBytes r.fmt = size)
  (h0 : 0 < size) (h1 : size ≤ 512) (hi : leNat (fetchPlace s (keyOfEntry s e) (ix.plus (4 * e.prog.row)) 4) = i) (hrs : r.base.space ≠ 0)
  (hts : t.space ≠ 0)
include hacc hsize h0 h1 hi hrs hts

/-- A row whose place in the table, row, is found or whose index skips it. -/
theorem SectorReady.row_moves {skip : Bool} {row : Place × Nat} (hskip : (i == 0xFFFFFFFF) = skip)
    (hrow : (if skip then .ok (t, 0) else tableRow s ⟨c, e.sx⟩ (awake e) t stride i 0 size) = .ok row) (hsp : row.1.space = t.space) :
    let x := rowTransfer gather skip row (rowPlaces s (keyOfEntry s e) r e.prog.row 0 size) (laterRows s (keyOfEntry s e) r e.prog.row) size
    let moved := if skip then 0 else 1
    let v := readPlaces s (keyOfEntry s e) x.reads
    WorksOn (.copySector c side) s (sectorDone s e x.writes x.laterWrites
        (if skip then if gather then List.replicate size 0 else [] else v)) c e
      (decide (rowCount s (keyOfEntry s e) r ≤ e.prog.row + 1)) (resIf res (e.prog.count + moved))
      fun z => z.row = e.prog.row + 1 ∧ z.count = e.prog.count + moved ∧ z.sect = e.prog.sect + 1 := by
  intro x moved v
  have hrec : ∀ y, y ∈ rowPlaces s (keyOfEntry s e) r e.prog.row 0 size → y.1.space ≠ 0 := fun y hy => by
    rw [rowPlaces_space _ _ _ _ _ _ y hy]
    exact hrs
  have htab : ∀ y, y ∈ (if skip then [] else [row]) → y.1.space ≠ 0 := fun y hy => by
    cases skip with
    | true => cases hy
    | false =>
      rw [List.mem_singleton.mp hy, hsp]
      exact hts
  have hr : ∀ y, y ∈ x.reads → y.1.space ≠ 0 := by
    cases gather
    · exact hrec
    · exact htab
  have hw : ∀ y, y ∈ x.writes → y.1.space ≠ 0 := by
    cases gather
    · exact htab
    · exact hrec
  have hd : x.data s v e.prog = .ok (if skip then if gather then List.replicate size 0 else [] else v, e.prog) := by
    cases gather <;> cases skip <;> rfl
  have hwhole := rowSector_whole (e := awake e) (gather := gather) h.clean hacc hsize h0 h1 (skip := skip)
    ((congrArg (· == 0xFFFFFFFF) hi).trans hskip)
    ((congrArg (fun i => if skip then Except.ok (t, 0) else tableRow s ⟨c, e.sx⟩ (awake e) t stride i 0 size) hi).trans hrow)
  exact h.row_works hop ((h.row_step hop).trans (hwhole.trans (h.performs (row_srcSq hop) hr hw hd)))

theorem SectorReady.row_skipped (hs : i = 0xFFFFFFFF) :
    WorksOn (.copySector c side) s (if gather then sectorDone s e (rowPlaces s (keyOfEntry s e) r e.prog.row 0 size)
        (laterRows s (keyOfEntry s e) r e.prog.row) (List.replicate size 0) else s) c e
      (decide (rowCount s (keyOfEntry s e) r ≤ e.prog.row + 1)) (resIf res (e.prog.count + 0))
      fun z => z.row = e.prog.row + 1 ∧ z.count = e.prog.count + 0 ∧ z.sect = e.prog.sect + 1 := by
  have hm := h.row_moves hop hacc hsize h0 h1 hi hrs hts (skip := true) (row := (t, 0)) (by rw [hs]; rfl) rfl rfl
  cases gather
  · exact hm
  · exact hm

omit h hop hacc hsize h0 h1 hi hrs hts in
theorem tableRow_free {a : At} (hdr : e.draws = []) {m : Nat} : tableRow s a (awake e) t stride i 0 m =
    if spaceLimit t.space < (t.plus (i * stride)).off + m then .error ⟨0x22, tagged (t.plus (i * stride)), 0, 0⟩
    else .ok ((t.plus (i * stride)).plus 0, m) := by
  unfold tableRow
  rw [show (awake e).draws = [] from hdr]
  rfl

theorem SectorReady.row_moved (hs : i ≠ 0xFFFFFFFF) (hdr : e.draws = []) (hlim : (t.plus (i * stride)).off + size ≤ spaceLimit t.space) :
    WorksOn (.copySector c side) s (if gather
        then sectorDone s e (rowPlaces s (keyOfEntry s e) r e.prog.row 0 size) (laterRows s (keyOfEntry s e) r e.prog.row)
          (fetchPlace s (keyOfEntry s e) ((t.plus (i * stride)).plus 0) size)
        else sectorDone s e [((t.plus (i * stride)).plus 0, size)] []
          (readPlaces s (keyOfEntry s e) (rowPlaces s (keyOfEntry s e) r e.prog.row 0 size))) c e
      (decide (rowCount s (keyOfEntry s e) r ≤ e.prog.row + 1)) (resIf res (e.prog.count + 1))
      fun z => z.row = e.prog.row + 1 ∧ z.count = e.prog.count + 1 ∧ z.sect = e.prog.sect + 1 := by
  have hm := h.row_moves hop hacc hsize h0 h1 hi hrs hts (skip := false) (row := ((t.plus (i * stride)).plus 0, size))
    (beq_eq_false_iff_ne.mpr hs) (by rw [tableRow_free hdr, if_neg (Nat.not_lt.mpr hlim)]; rfl) rfl
  cases gather
  · exact hm
  · rw [← readPlaces_single]
    exact hm

omit h0 hrs hts in
/-- A row beyond the end of its space stops the entry. -/
theorem SectorReady.row_stops (hs : i ≠ 0xFFFFFFFF) (hdr : e.draws = []) (hlim : spaceLimit t.space < (t.plus (i * stride)).off + size) :
    exec (.copySector c side) s = .next (failEntry s c (awake e) ⟨0x22, tagged (t.plus (i * stride)), 0, 0⟩) := by
  refine h.stops (row_not_pgout hop) ?_ (failEntry_stuck s c (e := awake e) _ h.queue_lt)
  have ht := tableRow_free (s := s) (t := t) (stride := stride) (i := i) (a := ⟨c, e.sx⟩) hdr (m := size)
  rw [if_pos hlim] at ht
  rw [h.row_step hop]
  exact rowSector_refused (e := awake e) h.clean hacc hsize h1 (fun hx => hs (hi.symm.trans hx))
    ((congrArg (fun i => tableRow s ⟨c, e.sx⟩ (awake e) t stride i 0 size) hi).trans ht)

end

end

end Sys2Proof.Machine
end

section
/-! Sectors of LKOP (R213) and WRSIG (R211). -/

namespace Sys2Proof.Machine

/-- Elements of one sector of an LKOP: whole elements of 512 bytes, or what is left of n. -/
def lkopLen (w n lo : Nat) : Nat := min (512 / (w / 8)) (n - lo)

/-- The numbers of a list of bytes, of es bytes each. -/
def lkopNums (es : Nat) (v : List Byte) : List Nat := (chunks es v).map leNat

/-- The second operands of an LKOP: its scalar, or its source's numbers. -/
def lkopOther (scal : Option Nat) (m : Nat) (l : List Nat) : List Nat :=
  match scal with
  | some x => List.replicate m x
  | none => l

/-- An LKOP's entry behind a sector, with the result it would give. -/
def lkopNext (last : Bool) (row : Nat) (res : Bool) (result : List Nat → Nat) (e : Entry) : Entry :=
  let e' := { e with prog := { e.prog with sect := e.prog.sect + 1, row := row } }
  if last then e'.finish (resIf res (result e.prog.acc)) else e'

theorem lkopSector_elem {s : State} {c : Nat} {e : Entry} {fn n w : Nat} {dst src : Place} {scal : Option Nat} {sg flt res : Bool} (hf : fn < 11) :
    let es := w / 8
    let lo := e.prog.row
    let m := lkopLen w n lo
    let out : List (Place × Nat) := [(dst.plus (lo * es), m * es)]
    lkopSector s c e fn dst src scal n w sg flt res = runSector s c e
      ⟨out ++ (if scal.isSome then [] else [(src.plus (lo * es), m * es)]), [], out, [], fun _ v p => .ok
        (((lkopNums es (v.take (m * es))).zip (lkopOther scal m (lkopNums es (v.drop (m * es))))).flatMap
          (fun q => leBytes es (lkopFn fn w sg q.1 q.2)), p)⟩
      (lkopNext (decide (n ≤ lo + m)) (lo + m) res (fun _ => n)) := by
  intro es lo m out
  have hne : fn ≠ 11 := Nat.ne_of_lt hf
  unfold lkopSector
  dsimp only
  simp only [hne, if_false]
  cases scal <;> rfl

theorem lkopSector_rsum {s : State} {c : Nat} {e : Entry} {n w : Nat} {dst src : Place} {sg flt res : Bool} :
    let es := w / 8
    let lo := e.prog.row
    let m := lkopLen w n lo
    let last := decide (n ≤ lo + m)
    lkopSector s c e 11 dst src none n w sg flt res = runSector s c e
      ⟨[(src.plus (lo * es), m * es)], [], if last then [(dst, 8)] else [], [], fun _ v p =>
        .ok (if last then leBytes 8 (rsumOf w sg flt (p.acc ++ lkopNums es v)) else [], { p with acc := p.acc ++ lkopNums es v })⟩
      (lkopNext last (lo + m) res (rsumOf w sg flt)) := by
  intro es lo m last
  unfold lkopSector
  dsimp only
  simp only [if_true]
  rfl

section
variable {s : State} {c : Nat} {side : BitVec 1} {e : Entry} (h : SectorReady s c side e)
include h

theorem SectorReady.lkop_step {fn n : Nat} {d p : Place} {scal : Option Nat} {w64 sg flt res : Bool}
    (hop : e.op = .lkop fn d p scal n w64 sg flt res) :
    copyStep s c (awake e) = lkopSector s c (awake e) fn d p scal n (if w64 then 64 else 32) sg flt res := by
  unfold copyStep
  dsimp only
  rw [h.check]
  dsimp only
  rw [show (awake e).op = _ from hop]

/-- A sector after which an LKOP's entry stands at a row, with the numbers p.acc of its sum. -/
theorem SectorReady.lkop_works {u : State} {last res : Bool} {row : Nat} {result : List Nat → Nat} {p : Prog} (hop : ∀ va frame, e.op ≠ .pgin va frame)
    (hk : p.sect = e.prog.sect) (hv : copyStep s c (awake e) = putEntry u c (lkopNext last row res result (sectorLeft e p))) :
    WorksOn (.copySector c side) s u c e last (resIf res (result p.acc)) fun z => z.acc = p.acc ∧ z.row = row := by
  cases last with
  | false =>
    refine h.works hop hv rfl rfl rfl rfl rfl (fun he => ?_) h.ended (fun hl => by cases hl) ⟨rfl, rfl⟩
    have hs : p.sect + 1 = e.prog.sect := congrArg (fun f : Entry => f.prog.sect) he
    omega
  | true =>
    refine h.works hop hv rfl rfl rfl rfl rfl (fun he => ?_) rfl (fun _ => rfl) ⟨rfl, rfl⟩
    have hs := congrArg Entry.ended he
    rw [h.ended] at hs
    cases hs

theorem SectorReady.lkop_elem_works {fn n w : Nat} {d p : Place} {scal : Option Nat} {w64 sg flt res : Bool}
    (hop : e.op = .lkop fn d p scal n w64 sg flt res) (hw : (if w64 then 64 else 32) = w) (hd : d.space ≠ 0) (hp : p.space ≠ 0) (hf : fn < 11) :
    let es := w / 8
    let lo := e.prog.row
    let m := lkopLen w n lo
    let nums (q : Place) : List Nat := lkopNums es (fetchPlace s (keyOfEntry s e) (q.plus (lo * es)) (m * es))
    WorksOn (.copySector c side) s (sectorDone s e [(d.plus (lo * es), m * es)] [] (((nums d).zip (lkopOther scal m (nums p))).flatMap
      (fun q => leBytes es (lkopFn fn w sg q.1 q.2)))) c e (decide (n ≤ lo + m)) (resIf res n) fun z => z.row = lo + m := by
  intro es lo m nums
  have hl := length_fetchPlace s (keyOfEntry s e) (d.plus (lo * es)) (m * es)
  have hs := (h.lkop_step hop).trans ((by rw [hw] : _ = lkopSector s c (awake e) fn d p scal n w sg flt res).trans (lkopSector_elem hf))
  have hps := h.performs
    (sec := ⟨[(d.plus (lo * es), m * es)] ++ (if scal.isSome then [] else [(p.plus (lo * es), m * es)]), [], [(d.plus (lo * es), m * es)], [],
      fun _ v p => .ok (((lkopNums es (v.take (m * es))).zip (lkopOther scal m (lkopNums es (v.drop (m * es))))).flatMap
          (fun q => leBytes es (lkopFn fn w sg q.1 q.2)), p)⟩)
    (next := lkopNext (decide (n ≤ lo + m)) (lo + m) res (fun _ => n))
    (v := ((nums d).zip (lkopOther scal m (nums p))).flatMap (fun q => leBytes es (lkopFn fn w sg q.1 q.2))) (p := e.prog) (by rw [hop]; rfl)
    (fun x hx => by
      rcases List.mem_append.mp hx with hx | hx
      · rw [List.mem_singleton.mp hx]
        exact hd
      · cases scal with
        | none =>
          rw [List.mem_singleton.mp hx]
          exact hp
        | some y => cases hx)
    (fun x hx => by rw [List.mem_singleton.mp hx]; exact hd)
    (by
      have hr : readPlaces s (keyOfEntry s e) ([(d.plus (lo * es), m * es)] ++ (if scal.isSome then [] else [(p.plus (lo * es), m * es)])) =
          fetchPlace s (keyOfEntry s e) (d.plus (lo * es)) (m * es) ++ readPlaces s (keyOfEntry s e)
            (if scal.isSome then [] else [(p.plus (lo * es), m * es)]) := rfl
      dsimp only
      rw [hr, List.take_left' hl, List.drop_left' hl]
      cases scal with
      | none =>
        simp only [Option.isSome_none, Bool.false_eq_true, if_false, readPlaces_single]
        rfl
      | some y => rfl)
  obtain ⟨f, hf⟩ := h.lkop_works (fun _ _ hh => by rw [hop] at hh; cases hh) rfl (hs.trans hps)
  obtain ⟨hx, h1, h2, h3, h4, h5, h6, h7, -, h8⟩ := hf
  exact ⟨f, hx, h1, h2, h3, h4, h5, h6, h7, h8⟩

theorem SectorReady.lkop_rsum_works {n w : Nat} {d p : Place} {w64 sg flt res : Bool}
    (hop : e.op = .lkop 11 d p none n w64 sg flt res) (hw : (if w64 then 64 else 32) = w) (hd : d.space ≠ 0) (hp : p.space ≠ 0) :
    let es := w / 8
    let lo := e.prog.row
    let m := lkopLen w n lo
    let last := decide (n ≤ lo + m)
    let acc := e.prog.acc ++ lkopNums es (fetchPlace s (keyOfEntry s e) (p.plus (lo * es)) (m * es))
    WorksOn (.copySector c side) s (sectorDone s e (if last then [(d, 8)] else []) [] (if last then leBytes 8 (rsumOf w sg flt acc) else []))
      c e last (resIf res (rsumOf w sg flt acc)) fun z => z.acc = acc ∧ z.row = lo + m := by
  intro es lo m last acc
  have hs := (h.lkop_step hop).trans ((by rw [hw] : _ = lkopSector s c (awake e) 11 d p none n w sg flt res).trans lkopSector_rsum)
  have hps := h.performs
    (sec := ⟨[(p.plus (lo * es), m * es)], [], if last then [(d, 8)] else [], [], fun _ v p =>
        .ok (if last then leBytes 8 (rsumOf w sg flt (p.acc ++ lkopNums es v)) else [], { p with acc := p.acc ++ lkopNums es v })⟩)
    (next := lkopNext last (lo + m) res (rsumOf w sg flt)) (v := if last then leBytes 8 (rsumOf w sg flt acc) else [])
    (p := { e.prog with acc := acc }) (by rw [hop]; rfl)
    (fun x hx => by rw [List.mem_singleton.mp hx]; exact hp)
    (fun x hx => by
      dsimp only at hx
      split at hx
      · rw [List.mem_singleton.mp hx]
        exact hd
      · cases hx)
    (by
      dsimp only
      rw [readPlaces_single])
  exact h.lkop_works (p := { e.prog with acc := acc }) (fun _ _ hh => by rw [hop] at hh; cases hh) rfl (hs.trans hps)

/-! ## Payload and flag (R211) -/

theorem SectorReady.payload_step {d p : Place} {len flag v sq : Nat} {add : Bool} (hop : e.op = .wrsig d p len flag v sq add)
    (hk : 512 * e.prog.sect < len) : copyStep s c (awake e) = runSector s c (awake e) (flatSector (some d) p len e.prog.sect)
      (stepProg false (sectorLen len e.prog.sect) (fun _ => none)) := by
  unfold copyStep
  dsimp only
  rw [h.check]
  dsimp only
  rw [show (awake e).op = _ from hop]
  dsimp only
  rw [if_pos (show 512 * (awake e).prog.sect < len from hk)]
  rfl

theorem SectorReady.payload_works {d p : Place} {len flag v : Nat} {add : Bool} (hop : e.op = .wrsig d p len flag v 0 add)
    (hk : 512 * e.prog.sect < len) (hd : d.space ≠ 0) (hp : p.space ≠ 0) : let k := e.prog.sect
    let n := sectorLen len k
    WorksOn (.copySector c side) s (sectorDone s e [(d.plus (512 * k), n)] [(d.plus (512 * k + n), len - 512 * k - n)]
        (overlapBytes p d (fetchPlace s (keyOfEntry s e) (p.plus (512 * k)) n))) c e false none fun z => z.sect = k + 1 := by
  intro k n
  have hs := h.performs (sec := flatSector (some d) p len k) (next := stepProg false n (fun _ => none))
    (v := overlapBytes p d (fetchPlace s (keyOfEntry s e) (p.plus (512 * k)) n)) (p := e.prog) (by rw [hop]; rfl)
    (fun x hx => by rw [List.mem_singleton.mp hx]; exact hp) (fun x hx => by rw [List.mem_singleton.mp hx]; exact hd)
    (by rw [flatSector, readPlaces_single]; rfl)
  exact h.works_step (fun _ _ hh => by rw [hop] at hh; cases hh) ((h.payload_step hop hk).trans hs) rfl (fun _ _ => rfl) fun _ => rfl

theorem SectorReady.flag_works {d p : Place} {len flag v : Nat} {add : Bool} {u : State} {l va : Nat} (hop : e.op = .wrsig d p len flag v 0 add)
    (hk : len ≤ 512 * e.prog.sect) (hsp : spots c (jobAt s e.job).ctx true [(⟨0, c, flag⟩, 8)] s [] = .ok (u, [(.phys l va, 8)]))
    (hu : u.poison = []) : WorksOn (.copySector c side) s (storeNat u l 8 (if add then (loadNat u l 8 + v) % 2 ^ 64 else v)) c e true none
      fun _ => True := by
  have hpo : (if add then poisoned u l 8 else none) = none := by
    unfold poisoned
    rw [hu]
    exact ite_self _
  have hv : copyStep s c (awake e) = putEntry (storeNat u l 8 (if add then (loadNat u l 8 + v) % 2 ^ 64 else v)) c ((awake e).finish none) := by
    unfold copyStep
    dsimp only
    rw [h.check]
    dsimp only
    rw [show (awake e).op = _ from hop]
    dsimp only
    rw [if_neg (show ¬ 512 * (awake e).prog.sect < len from Nat.not_lt.mpr hk), show (awake e).job = e.job from rfl, hsp]
    dsimp only
    rw [hpo]
  refine h.works (fun _ _ hh => by rw [hop] at hh; cases hh) hv rfl rfl rfl rfl rfl (fun he => ?_) rfl (fun _ => rfl) trivial
  have hs := congrArg Entry.ended he
  rw [h.ended] at hs
  cases hs

end

end Sys2Proof.Machine
end

section
/-! Sectors of PGOUT (R65, R208, R419). -/

namespace Sys2Proof.Machine

/-! ## The leaf entry of a far page -/

/-- A leaf entry that names a far frame: the frame's address at bit 8, and bit 4. -/
def farLeaf (leaf frame : Nat) : Nat := leaf - place (bits leaf 8 36) 8 36 + place (frame / 256) 8 36 + 2 ^ 4

theorem farLeaf_eq (leaf frame : Nat) : farLeaf leaf frame = leaf % 256 + 16 + 256 * (frame / 256 % 68719476736) + 17592186044416 * (leaf / 17592186044416) := by
  unfold farLeaf place bits
  norm_num
  omega

section
variable {leaf : Nat} (h4 : bit leaf 4 = false)
include h4

theorem low_of_bit : leaf / 16 % 2 = 0 := by
  have h : leaf / 2 ^ 4 % 2 ≠ 1 := fun hx => by
    rw [bit, hx] at h4
    cases h4
  have h' : leaf / 16 % 2 ≠ 1 := h
  omega

theorem bits_farLeaf (frame : Nat) : bits (farLeaf leaf frame) 8 36 = frame / 256 % 2 ^ 36 := by
  have hl := low_of_bit h4
  rw [farLeaf_eq, bits]
  norm_num
  omega

theorem bit_farLeaf (frame : Nat) : bit (farLeaf leaf frame) 4 = true := by
  have hl := low_of_bit h4
  rw [farLeaf_eq, bit, beq_iff_eq]
  norm_num
  omega

theorem bit_farLeaf_low (frame : Nat) {i : Nat} (hi : i ≠ 4) (h8 : i < 8) : bit (farLeaf leaf frame) i = bit leaf i := by
  have hl := low_of_bit h4
  rw [farLeaf_eq, bit, bit]
  rcases Nat.lt_or_gt_of_ne hi with hlow | hhigh
  all_goals interval_cases i
  all_goals
    refine congrArg (· == 1) ?_
    norm_num
    omega

theorem bit_farLeaf_high (frame : Nat) {i : Nat} (hi : 44 ≤ i) : bit (farLeaf leaf frame) i = bit leaf i := by
  have hl := low_of_bit h4
  obtain ⟨j, rfl⟩ := Nat.exists_eq_add_of_le hi
  have hh : farLeaf leaf frame / 2 ^ 44 = leaf / 2 ^ 44 := by
    rw [farLeaf_eq]
    norm_num
    omega
  rw [bit, bit, Nat.pow_add, ← Nat.div_div_eq_div_mul, ← Nat.div_div_eq_div_mul, hh]

end

/-! ## A far write that fails (R419) -/

/-- A pass over the cores that maps every queue's entries. -/
theorem queueAt_mapCores (s : State) {g : Nat × Core → Nat × Core} {f : Entry → Entry} (hk : ∀ p, (g p).1 = p.1)
    (hq : ∀ p, (g p).2.queues = p.2.queues.map (fun q => (q.1, q.2.map f))) (c q : Nat) :
    queueAt { s with cores := s.cores.map g } c q = [] ∨ queueAt { s with cores := s.cores.map g } c q = (queueAt s c q).map f := by
  unfold queueAt coreAt
  dsimp only
  rcases tabGet_map (Core.reset c) s.cores g hk c with hd | ⟨k, -, hk, hg⟩
  · left
    rw [hd]
    rfl
  · rw [hg, hk, hq]
    rcases tabGet_map [] k.queues (fun q => (q.1, q.2.map f)) (fun _ => rfl) q with hd | ⟨l, -, hl, hg⟩
    · exact .inl hd
    · exact .inr (hg.trans (by rw [hl]))

/-- An entry after its page is released. -/
def releaseEntry (s : State) (pte : Nat) (e : Entry) : Entry :=
  match e.wait with
  | .far v => if inPage s (jobAt s e.job).ctx v pte then { e with wait := .none } else e
  | _ => e

theorem releaseEntry_keeps (s : State) (pte : Nat) (e : Entry) : (releaseEntry s pte e).sx = e.sx ∧ (releaseEntry s pte e).fault = e.fault := by
  unfold releaseEntry
  split
  · split
    · exact ⟨rfl, rfl⟩
    · exact ⟨rfl, rfl⟩
  · exact ⟨rfl, rfl⟩

theorem releasePage_queueAt (s : State) (pte c q : Nat) :
    queueAt (releasePage s pte) c q = [] ∨ queueAt (releasePage s pte) c q = (queueAt s c q).map (releaseEntry s pte) := by
  unfold releasePage
  refine queueAt_mapCores s ?_ ?_ c q
  · exact fun _ => rfl
  · exact fun _ => rfl

theorem Stuck.releasePage {s : State} {c q x : Nat} (h : Stuck s c q x) (pte : Nat) : Stuck (releasePage s pte) c q x := by
  intro g hg hx
  rcases releasePage_queueAt s pte c q with he | he
  · rw [headEntry, he] at hg
    cases hg
  · rw [headEntry, he, List.head?_map, Option.map_eq_some_iff] at hg
    obtain ⟨e, hh, rfl⟩ := hg
    obtain ⟨hsx, hfault⟩ := releaseEntry_keeps s pte e
    rw [hfault]
    exact h e hh (hsx ▸ hx)

theorem Stuck.runPages {s : State} {c q x : Nat} (h : Stuck s c q x) (d : Nat) : Stuck (runPages s d) c q x := by
  intro g hg
  have hq : queueAt (Machine.runPages s d) c q = queueAt s c q := by
    unfold Machine.runPages
    refine queueAt_onCore s d ?_ c q
    exact fun _ => rfl
  rw [headEntry, hq] at hg
  exact h g hg

theorem pgoutFail_stuck (s : State) (c : Nat) {e : Entry} (va frame : Nat) (hq : e.q < 4) : Stuck (pgoutFail s c e va frame) c e.q e.sx := by
  unfold pgoutFail
  dsimp only
  exact ((failEntry_stuck _ c (e := { e with prog := .start }) _ hq).releasePage _).runPages c

/-! ## The parts of a PGOUT (R65, R208) -/

section
variable {s : State} {c : Nat} {side : BitVec 1} {e : Entry} (h : SectorReady s c side e) {va frame : Nat} (hop : e.op = .pgout va frame)
include h hop

theorem SectorReady.pgout_step : copyStep s c (awake e) = pgoutSector s c (awake e) va frame := by
  unfold copyStep
  dsimp only
  rw [h.check]
  dsimp only
  rw [show (awake e).op = _ from hop]

section
variable {leaf pte psz : Nat} (hacc : e.prog.acc = []) (hw : walk s (jobAt s e.job).ctx va = .ok (leaf, pte, psz))
include hacc hw

theorem SectorReady.pgout_begin : copyStep s c (awake e) =
    if bit leaf 4 then putEntry s c ((awake e).finish none)
    else putEntry (invalidatePage (storeNat s pte 8 (farLeaf leaf frame)) pte) c
      { awake e with prog := { e.prog with acc := [leaf, pte, psz] } } := by
  rw [h.pgout_step hop, pgoutSector, if_pos (by rw [show (awake e).prog.acc = _ from hacc]; rfl), pgoutBegin, show (awake e).job = e.job from rfl, hw]
  rfl

/-- A page that is far already. -/
theorem SectorReady.pgout_far (h4 : bit leaf 4 = true) : WorksOn (.copySector c side) s s c e true none fun _ => True := by
  have hv := h.pgout_begin hop hacc hw
  rw [if_pos h4] at hv
  refine h.works (fun _ _ hh => by rw [hop] at hh; cases hh) hv rfl rfl rfl rfl rfl (fun he => ?_) rfl (fun _ => rfl) trivial
  have hs := congrArg Entry.ended he
  rw [h.ended] at hs
  cases hs

/-- A page that is near is made far before its bytes move. -/
theorem SectorReady.pgout_near (h4 : bit leaf 4 = false) : WorksOn (.copySector c side) s (invalidatePage (storeNat s pte 8 (farLeaf leaf frame)) pte) c e
    false none fun z => z.acc = [leaf, pte, psz] ∧ z.sect = e.prog.sect := by
  have hv := h.pgout_begin hop hacc hw
  rw [if_neg (Bool.eq_false_iff.mp h4)] at hv
  refine h.works (fun _ _ hh => by rw [hop] at hh; cases hh) hv rfl rfl rfl rfl rfl (fun he => ?_) h.ended (fun hl => by cases hl) ⟨rfl, rfl⟩
  have hs : [leaf, pte, psz] = e.prog.acc := congrArg (fun f : Entry => f.prog.acc) he
  rw [hacc] at hs
  cases hs

end

section
variable {leaf pte psz : Nat} (hacc : e.prog.acc = [leaf, pte, psz])
include hacc

theorem SectorReady.pgout_down (hp : portUp s frame = false) :
    exec (.copySector c side) s = .next (pgoutFail s c (awake e) va frame) := by
  refine h.stops (fun _ _ hh => by rw [hop] at hh; cases hh) ?_ (pgoutFail_stuck s c (e := awake e) va frame h.queue_lt)
  rw [h.pgout_step hop, pgoutSector, if_neg (by rw [show (awake e).prog.acc = _ from hacc]; exact Bool.false_ne_true), hp]
  rfl

/-- A sector of a page moves to the page's far frame. -/
theorem SectorReady.pgout_copies (hp : portUp s frame = true) : let o := 512 * e.prog.sect
    WorksOn (.copySector c side) s { s with mem := s.mem.copy (pteAddr leaf + o) (frame + o) 512 } c e (decide (pageSize psz ≤ o + 512)) none
      fun z => z.sect = e.prog.sect + 1 := by
  intro o
  have hpo : poisoned s (pteAddr leaf + o) 512 = none := by
    unfold poisoned
    rw [h.clean]
    rfl
  have hv : copyStep s c (awake e) = putEntry { s with mem := s.mem.copy (pteAddr leaf + o) (frame + o) 512 } c
      (let f := { awake e with prog := { e.prog with sect := e.prog.sect + 1 } }
       if pageSize psz ≤ o + 512 then f.finish none else f) := by
    rw [h.pgout_step hop, pgoutSector, if_neg (by rw [show (awake e).prog.acc = _ from hacc]; exact Bool.false_ne_true), hp,
      show nth (awake e).prog.acc 0 = leaf from congrArg (nth · 0) hacc, show nth (awake e).prog.acc 2 = psz from congrArg (nth · 2) hacc]
    simp only [Bool.not_true, Bool.false_eq_true, if_false]
    change (match poisoned s (pteAddr leaf + o) 512 with | some _ => _ | none => _) = _
    rw [hpo]
    rfl
  by_cases hlast : pageSize psz ≤ o + 512
  · rw [decide_eq_true hlast]
    simp only [hlast, if_true] at hv
    refine h.works (fun _ _ hh => by rw [hop] at hh; cases hh) hv rfl rfl rfl rfl rfl (fun he => ?_) rfl (fun _ => rfl) rfl
    have hs := congrArg Entry.ended he
    rw [h.ended] at hs
    cases hs
  · rw [decide_eq_false hlast]
    simp only [hlast, if_false] at hv
    refine h.works (fun _ _ hh => by rw [hop] at hh; cases hh) hv rfl rfl rfl rfl rfl (fun he => ?_) h.ended (fun hl => by cases hl) rfl
    have hs : e.prog.sect + 1 = e.prog.sect := congrArg (fun f : Entry => f.prog.sect) he
    omega

end

end

/-- The bytes copied, read where they went. -/
theorem Memory.readN_copy {m : Memory} (hm : m.wf = true) (src dst len : Nat) : (m.copy src dst len).readN dst len = m.readN src len := by
  have hr : ∀ n i, i + n ≤ len → (m.copy src dst len).readN (dst + i) n = m.readN (src + i) n := by
    intro n
    induction n with
    | zero => exact fun _ _ => rfl
    | succ n ih =>
      intro i hi
      have hx : (m.copy src dst len).read (dst + i) = m.read (src + i) := by
        rw [Memory.read_copy hm, if_pos (by omega), Nat.add_sub_cancel_left]
      rw [Memory.readN, Memory.readN, hx, Nat.add_assoc, Nat.add_assoc, ih (i + 1) (by omega)]
  exact hr len 0 (by omega)

end Sys2Proof.Machine
end

section
/-! Completion records of select passes (R204), and PGIN (R208, R349). -/

namespace Sys2Proof.Machine

/-! ## Completion records (R204) -/

/-- A select pass that completes writes its record. -/
theorem completeEntry_record {s : State} {c : Nat} {e : Entry} {d : Option Place} {p aux : Place} {len sq : Nat} {res : Bool}
    (hop : e.op = .csel d p len sq aux res) (hsp : aux.space = 2) (hdr : e.draws = []) (hg : e.give = 0) (hrel : releaseHeldUp s c e = false)
    (hres : e.prog.result = none ∨ (strandAt s ⟨c, e.sx⟩).resq.length < 16) : (completeEntry s c e).mem =
      (storeN s (locPond aux.core aux.off) (leBytes 64 (selBits e.prog.selM e.prog.selS e.prog.selC))).mem := by
  have hno : ¬(e.prog.result.isSome = true ∧ 16 ≤ (strandAt s ⟨c, e.sx⟩).resq.length) := by
    rintro ⟨h1, h2⟩
    rcases hres with h | h
    · rw [h] at h1
      cases h1
    · omega
  have hcount : countDraws s ⟨c, e.sx⟩ e = .ok s := by
    unfold countDraws
    rw [hdr]
    exact ite_self _
  have hrec : entryRecord e = some (aux, leBytes 64 (selBits e.prog.selM e.prog.selS e.prog.selC)) := by
    unfold entryRecord
    rw [hop]
  have hroom : fullFifo s c (giveFifos e.q e.give) = none := by
    rw [hg]
    rfl
  unfold completeEntry
  dsimp only
  rw [hroom, hrel, if_neg Bool.false_ne_true, if_neg hno, hcount, hrec]
  dsimp only
  rw [onStrand_mem, foldl_mem (fun _ _ => giveToken_mem ..), popEntry_mem, engineWrite_pond s 0 hsp]
  split
  · rw [sampleFor_mem, fillGranules_mem]
  · rw [fillGranules_mem]

theorem completeEntry_writes {s : State} {c : Nat} {e : Entry} {d : Option Place} {p aux : Place} {len sq : Nat} {res : Bool} (hm : s.memOk)
    (hop : e.op = .csel d p len sq aux res) (hsp : aux.space = 2) (hdr : e.draws = []) (hg : e.give = 0) (hrel : releaseHeldUp s c e = false)
    (hres : e.prog.result = none ∨ (strandAt s ⟨c, e.sx⟩).resq.length < 16) :
    loadN (completeEntry s c e) (locPond aux.core aux.off) 64 = leBytes 64 (selBits e.prog.selM e.prog.selS e.prog.selC) ∧
      ∀ x, x < locPond aux.core aux.off ∨ locPond aux.core aux.off + 64 ≤ x → (completeEntry s c e).mem.read x = s.mem.read x := by
  have hl := leBytes_length 64 (selBits e.prog.selM e.prog.selS e.prog.selC)
  have hmem := completeEntry_record hop hsp hdr hg hrel hres
  refine ⟨?_, fun x hx => ?_⟩
  · have hld := loadN_storeN hm (locPond aux.core aux.off) (leBytes 64 (selBits e.prog.selM e.prog.selS e.prog.selC))
    rw [hl] at hld
    rw [← hld, loadN, hmem]
    rfl
  · rw [hmem, storeN_read hm, hl, if_neg (by omega)]

/-! ## PGIN (R208, R349) -/

/-- A pass that appends one element for each of a list. -/
theorem length_of_pass {α β γ : Type} {go : List α × β → γ → List α × β} (hgo : ∀ r p, (go r p).1.length = r.1.length + 1) (l : List γ)
    (r : List α × β) : (l.foldl go r).1.length = r.1.length + l.length := by
  induction l generalizing r with
  | nil => rfl
  | cons p t ih =>
    rw [List.foldl_cons, ih, hgo, List.length_cons]
    omega

/-- Letting copies run keeps their number. -/
theorem runPages_length (s : State) (c : Nat) : (coreAt (runPages s c) c).pages.length = (coreAt s c).pages.length := by
  unfold runPages
  dsimp only
  rw [coreAt_onCore_same]
  dsimp only
  refine (length_of_pass (fun r p => ?_) _ _).trans (Nat.zero_add _)
  split
  · exact List.length_append
  · split
    · exact List.length_append
    · split
      · exact List.length_append
      · exact List.length_append

theorem startPageIn_length (s : State) (c : Nat) (p : PageCopy) :
    (coreAt (startPageIn s c p) c).pages.length = (coreAt s c).pages.length + 1 := by
  unfold startPageIn
  rw [runPages_length, coreAt_onCore_same]
  exact List.length_append

/-- What the launch of a page copy does with the last entry of LQ, its copy started. -/
theorem launchPgin_started {v w : State} {a : At} {l : List Entry} {e : Entry} {va frame : Nat} (hq : queueAt v a.c 0 = l ++ [e])
    (hop : e.op = .pgin va frame) (hs : startPgin v a va frame e.seq = .ok w) :
    launchPgin v a = setQueue w a.c 0 ((queueAt w a.c 0).dropLast ++ [pginStarted e]) := by
  unfold launchPgin
  rw [hq, List.getLast?_concat]
  dsimp only
  rw [hop]
  dsimp only
  rw [hs]

theorem startPgin_near {v : State} {a : At} {va frame seq leaf pte psz : Nat} (hw : walk v (ctxOf v a) va = .ok (leaf, pte, psz))
    (h4 : bit leaf 4 = false) : startPgin v a va frame seq = .ok v := by
  unfold startPgin
  rw [hw]
  dsimp only
  rw [h4]
  rfl

theorem startPgin_far {v : State} {a : At} {va frame seq leaf pte psz : Nat} (hw : walk v (ctxOf v a) va = .ok (leaf, pte, psz))
    (h4 : bit leaf 4 = true) (hm : farMapped v (pteAddr leaf) psz = true) (hp : portUp v (pteAddr leaf) = true) :
    startPgin v a va frame seq = .ok (startPageIn v a.c ⟨ctxOf v a, va, psz, pte, frame, false, a.x, seq, false, false⟩) := by
  unfold startPgin
  rw [hw]
  dsimp only
  rw [h4, hm, hp]
  simp only [Bool.not_true, Bool.and_false, Bool.false_eq_true, if_false]

/-- A PGIN whose page is near: its entry counts as started, and no more changes. -/
theorem launchPgin_near {v : State} {a : At} {l : List Entry} {e : Entry} {va frame leaf pte psz : Nat} (hq : queueAt v a.c 0 = l ++ [e])
    (hop : e.op = .pgin va frame) (hw : walk v (ctxOf v a) va = .ok (leaf, pte, psz)) (h4 : bit leaf 4 = false) :
    launchPgin v a = setQueue v a.c 0 (l ++ [pginStarted e]) := by
  rw [launchPgin_started hq hop (startPgin_near hw h4), hq, List.dropLast_concat]

/-- A PGIN whose page is far joins the core's page path. -/
theorem launchPgin_far {v : State} {a : At} {l : List Entry} {e : Entry} {va frame leaf pte psz : Nat} (hq : queueAt v a.c 0 = l ++ [e])
    (hop : e.op = .pgin va frame) (hw : walk v (ctxOf v a) va = .ok (leaf, pte, psz)) (h4 : bit leaf 4 = true)
    (hm : farMapped v (pteAddr leaf) psz = true) (hp : portUp v (pteAddr leaf) = true) :
    (coreAt (launchPgin v a) a.c).pages.length = (coreAt v a.c).pages.length + 1 := by
  rw [launchPgin_started hq hop (startPgin_far hw h4 hm hp), setQueue, coreAt_onCore_same]
  exact startPageIn_length ..

theorem resolvePgin_op {s : State} {a : At} {ga gb gc : Nat} {r : Res} (h : resolvePgin s a ga gb gc = .ok r) : r.op = .pgin ga gb := by
  unfold resolvePgin at h
  split at h
  · cases h
  · split at h
    · cases h
    · split at h
      · cases h
      · rw [← Except.ok.inj h]

theorem occupancy_push {s t : State} {a : At} {f : Entry} (hq : queueAt t a.c 0 = queueAt s a.c 0 ++ [f]) (hf : f.sx = a.x) :
    occupancy s a 0 < occupancy t a 0 := by
  unfold occupancy
  rw [hq, List.filter_append, List.length_append]
  have hl : (List.filter (fun e => e.sx == a.x) [f]).length = 1 := by
    rw [List.filter_cons_of_pos (by rw [hf]; exact beq_self_eq_true _)]
    rfl
  omega

/-- An engine word that pushes its entry, by its issue. -/
theorem engIssue_pushes {s : State} {a : At} {q t g : Nat} {word : Word} {x y z : BitVec 5} {resolve : State → At → Nat → Nat → Nat → ResE} {r : Res}
    (hr : runner s = some a) (hx : fieldReady (seen s a) a x) (hy : fieldReady (seen s a) a y) (hz : fieldReady (seen s a) a z)
    (h : resolve (seen s a) a (fieldVal (seen s a) a x) (fieldVal (seen s a) a y) (fieldVal (seen s a) a z) = .ok r)
    (hroom : pushRoom (seen s a) a q = true) : engIssue q word t g x y z resolve s = .next (finish a 4 ⟨pushEntry (seen s a) a
      (newEntry (seen s a) a q word t g (fieldVal (seen s a) a x) (fieldVal (seen s a) a y) (fieldVal (seen s a) a z) r), 0, .seq⟩) := by
  refine issue_ok (len := 4) hr ?_
  unfold fieldVal at h
  simp only [rdG_ready hx, rdG_ready hy, rdG_ready hz, h, hroom, Bool.not_true, Bool.false_eq_true, if_false]
  rfl

/-- A PGIN that is pushed hands its page copy over in the same step. -/
theorem pgin_launches {s w : State} {a : At} {t g : BitVec 2} {x y : BitVec 5} {r : Res} (hr : runner s = some a)
    (hx : fieldReady (seen s a) a x) (hy : fieldReady (seen s a) a y)
    (h : resolvePgin (seen s a) a (fieldVal (seen s a) a x) (fieldVal (seen s a) a y) 0 = .ok r) (hroom : pushRoom (seen s a) a 0 = true) :
    let u := seen s a
    let e := newEntry u a 0 ((encode (.pgin t g x y)).headD 0) t.toNat g.toNat (fieldVal u a x) (fieldVal u a y) 0 r
    recordDraws (pushCounted u a e) a.c (jobAt u e.job).ctx e.job r.draws = .ok w →
    ∃ v, (Pushed u v a e ∧ Alone w v a id Core.noQueues) ∧ exec (.pgin t g x y) s = .next (launchPgin v a) := by
  intro u e hw
  have h0 : fieldReady u a 0 := rfl
  have hpush := finish_push (s := u) (e := e) rfl hw
  refine ⟨_, hpush, ?_⟩
  have hi : engIssue 0 ((encode (.pgin t g x y)).headD 0) t.toNat g.toNat x y 0 resolvePgin s =
      .next (finish a 4 ⟨pushEntry u a e, 0, .seq⟩) := engIssue_pushes hr hx hy h0 h hroom
  have he : exec (.pgin t g x y) s = (match engIssue 0 ((encode (.pgin t g x y)).headD 0) t.toNat g.toNat x y 0 resolvePgin s with
    | .next s' => .next (pginIssued s s')
    | o => o) := rfl
  rw [he, hi]
  dsimp only
  unfold pginIssued
  rw [hr]
  dsimp only
  have hq : queueAt u a.c 0 = queueAt s a.c 0 := queueAt_onStrand ..
  rw [if_pos (occupancy_push (hpush.1.queue.trans (congrArg (· ++ [_]) hq)) rfl)]

end Sys2Proof.Machine
end

section
/-! The words of the copy unit, and what a sector of each does (R198 to R213). -/

namespace Sys2Proof.Machine

/-- Settles O32: every word but PGIN is an engine word of LQ or SQ; a sector of each kind moves its bytes within near memory. -/
theorem copyWordsPush : Obligations.CopyWordsPush := by
  refine ⟨?_, ?_, ?_, ?_, ?_, length_selInsert, ?_, lkopFn_spec, ?_⟩
  · intro s a t g g1 x y z hr hx hy hz p sq
    have h0 : fieldReady (seen s a) a 0 := rfl
    refine ⟨?_, ?_, ?_, ?_, ?_, ?_, ?_, ?_, ?_, ?_, ?_, ?_, ?_, ?_, ?_, ?_, pushes_of hr hx hy h0 rfl, ?_, ?_, ?_, ?_, ?_, ?_, ?_, ?_, ?_, ?_, ?_, ?_, ?_, ?_⟩
    all_goals exact pushes_of hr hx hy hz rfl
  · intro s w a t g x y r hr u hx hy hres hroom e hw
    obtain ⟨v, ⟨hpush, halone⟩, he⟩ := pgin_launches (t := t) (g := g) hr hx hy hres hroom hw
    have hop : e.op = .pgin (fieldVal u a x) (fieldVal u a y) := resolvePgin_op hres
    refine ⟨resolvePgin_op hres, v, hpush, halone, _, he, rfl, fun leaf pte psz hwalk => ⟨fun h4 => ?_, fun h4 hm hp => ?_⟩⟩
    · rw [launchPgin_near hpush.queue hop hwalk h4]
      exact ⟨Alone.setQueue .., strandAt_setQueue .., queueAt_setQueue_same .., fun q hq => queueAt_setQueue_ne _ _ (.inr hq)⟩
    · exact launchPgin_far hpush.queue hop hwalk h4 hm hp
  · intro s c side e rest hh hq hrun hclean hquiet htaken hcheck key k done
    have h : SectorReady s c side e := ⟨by rw [headEntry, hh]; rfl, hq, hrun, hclean, hquiet, htaken, hcheck⟩
    refine ⟨?_, ?_, ?_, ?_, ?_, ?_, ?_, ?_⟩
    · intro d p len res hop hd hp hc _
      exact h.flat_works hop hd hp hc
    · intro m p aux len res hop hp _
      exact h.mcast_works hop hp
    · intro d p len aux res hop hc hp _
      exact h.csel_works hop hc hp
    · intro d r res hop hd hr sf df es all lo hi hsf hdf _ h0 hdims hlt
      exact h.cpx_works hop hd hr rfl rfl hsf hdf h0 hdims rfl rfl rfl hlt
    · intro r t stride ix res gather hop hr ht hdr hacc j size i row record ends h0 h1
      exact ⟨h.row_skipped hop hacc rfl h0 h1 rfl hr ht, fun hs => h.row_moved hop hacc rfl h0 h1 rfl hr ht hs hdr,
        fun hs => h.row_stops hop hacc rfl h1 rfl hs hdr⟩
    · intro fn d p scal n w64 sg flt res hop hd hp w es lo m nums last
      refine ⟨fun hf => ?_, fun hf hscal => ?_⟩
      · have hw := h.lkop_elem_works hop rfl hd hp hf
        cases scal with
        | none => exact hw
        | some x => exact hw
      · subst hf hscal
        exact h.lkop_rsum_works hop rfl hd hp
    · intro d p len flag v add hop
      exact ⟨h.payload_works hop, fun hk u l va hsp hu => h.flag_works hop hk hsp hu⟩
    · intro va frame hop
      refine ⟨fun leaf pte psz hacc hw => ⟨h.pgout_far hop hacc hw, fun h4 => ⟨farLeaf leaf frame, bits_farLeaf h4 frame, bit_farLeaf h4 frame,
        fun i h4' hi => ?_, h.pgout_near hop hacc hw h4⟩⟩, ?_⟩
      · rcases hi with hi | hi
        · exact bit_farLeaf_low h4 frame h4' hi
        · exact bit_farLeaf_high h4 frame hi
      · intro leaf pte psz hacc hm o old
        refine ⟨h.pgout_down hop hacc, fun hp _ => ⟨_, h.pgout_copies hop hacc hp, Memory.readN_copy hm .., fun x hx => ?_, rfl⟩⟩
        exact (Memory.read_copy hm ..).trans (if_neg (by omega))
  · exact fun p d v i hi => ⟨overlapBytes_apart, overlapBytes_repeats hi⟩
  · exact fun z x i => ⟨selStep_left, selStep_taken⟩
  · intro w sg l _
    exact rsumOf_exact w sg l
  · intro s c e rest d p len sq aux res _ hm hop hsp _ hdr hg hrel hres
    exact completeEntry_writes hm hop hsp hdr hg hrel hres

end Sys2Proof.Machine
end
